-- ==== Sys2Proof/Word.lean ====
section
/-! DEFINITION. The machine's word types and the sparse map that holds every sparse piece of its data. -/

namespace Sys2Proof

/-- One byte. -/
abbrev Byte := BitVec 8

/-- An instruction-store word, an FP32 value, a 32-bit lane (R1). -/
abbrev Word := BitVec 32

/-- A scalar register, a stamp, a management register (R63). -/
abbrev DWord := BitVec 64

/-- A vector or message register, a far line (R63, R187). -/
abbrev Line := BitVec 512

/-- Sparse data by key: keys strictly rising, and no entry equal to what an unlisted key reads as.
The operations that keep this form are `Machine.sset`, `Machine.sput` and `Machine.serase`; `Machine.sget` reads. -/
abbrev Sparse (α : Type) := List (Nat × α)

end Sys2Proof
end

