-- ==== Sys2Proof/Config.lean ====
section
/-! DEFINITION. What the hardware fixes (tier tables, latencies, address map) and the free values: opaque
constants without a body, for what the spec leaves open. -/

namespace Sys2Proof.Config

/-! ## Tiers (R3, R11, R12, R14) -/

/-- Ticks of the model's clock in one beat: a common multiple of the tier multiples of R3. -/
def ticksPerBeat : Nat := 120

/-- Tier-cycles in one beat (R3). -/
def beatMultiple (tier : Nat) : Nat :=
  if tier = 0 then 6 else if tier = 1 then 8 else if tier = 2 then 10 else 12

/-- Ticks of one cycle of a tier (R3). -/
def cycleTicks (tier : Nat) : Nat :=
  if tier = 0 then 20 else if tier = 1 then 15 else if tier = 2 then 12 else 10

/-- Local-store bytes of a core (R11). -/
def localSize (tier : Nat) : Nat :=
  if tier = 0 then 0x10000 else if tier = 1 then 0x40000 else if tier = 2 then 0x80000 else 0x100000

/-- Own-bank bytes of a core (R11). -/
def bankSize (tier : Nat) : Nat :=
  if tier = 0 then 0x80000 else if tier = 1 then 0x200000 else if tier = 2 then 0x800000 else 0x2000000

/-- Near address of the first own-bank byte (R175). -/
def bankBase : Nat := 0x01000000

/-- Near address of the context status block (R175). -/
def statusBase (tier : Nat) : Nat :=
  if tier = 0 then 0x01057FC0 else if tier = 1 then 0x0117FFC0 else if tier = 2 then 0x016FFFC0
  else 0x02DFFFC0

/-- Near address of the save area (R175). -/
def saveBase (tier : Nat) : Nat := statusBase tier + 0x40

/-- First near address past the own bank (R175). -/
def bankEnd (tier : Nat) : Nat := bankBase + bankSize tier

/-- Instruction-store words of a core (R11). -/
def storeWords (tier : Nat) : Nat :=
  if tier = 0 then 0x2000 else if tier = 1 then 0x4000 else if tier = 2 then 0x8000 else 0x10000

/-- Register-stack entries of a context (R11, R65). -/
def stackSize (tier : Nat) : Nat :=
  if tier = 0 then 256 else if tier = 1 then 512 else if tier = 2 then 512 else 1024

/-- Own-bank load latency in cycles of the tier (R11). -/
def bankLatency (tier : Nat) : Nat :=
  if tier = 0 then 8 else if tier = 1 then 8 else if tier = 2 then 9 else 10

/-- Local-store load latency, every tier (R11). -/
def localLatency : Nat := 3

/-- Entries of a core's tag table (R180). -/
def tagEntries (tier : Nat) : Nat :=
  if tier = 0 then 1024 else if tier = 1 then 4096 else if tier = 2 then 16384 else 65536

/-- First core number of a tier (R12). -/
def coreBase (tier : Nat) : Nat :=
  if tier = 0 then 0 else if tier = 1 then 16384 else if tier = 2 then 20480 else 21504

/-- Cores of one quad on a tier (R12). -/
def quadCores (tier : Nat) : Nat :=
  if tier = 0 then 4096 else if tier = 1 then 1024 else if tier = 2 then 256 else 64

/-- Mesh width of a quad on a tier (R12). -/
def meshWidth (tier : Nat) : Nat :=
  if tier = 0 then 64 else if tier = 1 then 32 else if tier = 2 then 16 else 8

/-- Cores of a gang, and the side of a cluster, on a tier (R14, R15). -/
def clusterSide (tier : Nat) : Nat :=
  if tier = 0 then 16 else if tier = 1 then 8 else if tier = 2 then 4 else 2

/-- Cores of the device (R11). -/
def coreCount : Nat := 21760

/-- Rounds of the atomic wheel on a tier (R237). -/
def wheelRounds (tier : Nat) : Nat :=
  if tier = 0 then 16 else if tier = 1 then 4 else 1

/-! ## Far space (R182, R191, R192) -/

/-- HBM bytes (R182). -/
def hbmSize : Nat := 0x8000000000
/-- First physical address of the flash window (R182). -/
def flashBase : Nat := 0x080000000000
/-- First physical address past the flash window (R182). -/
def flashEnd : Nat := 0x100000000000
/-- First physical address of the host window (R182). -/
def hostBase : Nat := 0x100000000000
/-- First physical address past the host window (R182). -/
def hostEnd : Nat := 0x200000000000
/-- First physical address of the peer windows (R182). -/
def peerBase : Nat := 0x4000000000000
/-- Bytes of one flash extent (R182, R192). -/
def extentSize : Nat := 0x40000000
/-- Bytes of one staging line (R191). -/
def stagingLine : Nat := 0x10000

/-! ## Power (R273, R282, R283) -/

/-- Idle floor of the module in watts (R21, R283). -/
def idleFloor : Nat := 380
/-- Fixed allowance for HBM, flash, floor die and I/O in watts (R277). -/
def fixedAllowance : Nat := 600

/-- Nanoseconds between two refills of the install budgets (R194). -/
def refillNs : Nat := 86400000000000
/-- The tick of the nominal beat at which TIME, at most 50 ppm fast, can first show a number of nanoseconds: a tick lasts
1/24 ns (R273, R275). -/
def firstTick (ns : Nat) : Nat := 24 * ns * 1000000 / 1000050
/-- The first look at a refill. -/
def refillTicks : Nat := firstTick refillNs
/-- Nanoseconds between two samples of the sensors (R281). -/
def sampleNs : Nat := 32000
/-- The first sample. -/
def sampleTicks : Nat := firstTick sampleNs

/-- floor(ln 2 · 2^320), a mathematical constant used by R111 and R160. -/
def ln2Fixed : Nat :=
  1480553391661173448385607439722553250922680800745876974795605978609098082859138712941075737848984

/-- floor(π · 2^320), a mathematical constant used by R159. -/
def piFixed : Nat :=
  6710401180212168915155840974220003240804194089427148950727106424351713218671805380099500388914039

/-! ## Free values. Nothing in Lean can compute or bound them: a statement about one holds whatever it is. -/

/-- Variable latencies in ticks beyond the least the spec gives: far, host and gaffer accesses, engine
units, ACQ and REL, attestation, reset steps (R185, R187, R190, R219, R236, R241, R272). -/
opaque freeLatency : Nat → Nat

/-- Which of the values within 2 ulp F of R160 takes: by kernel code, γ and argument (R112, R160). -/
opaque freeKernelUlp : Nat → Nat → Nat → Nat

/-- Flits that a port's receive buffer holds (R297). -/
opaque freeRxBuffer : Nat

/-- Which waiting context takes a mutex at MUNLK (R232). -/
opaque freeWaiter : Nat → Nat

/-- Settling time of a raised beat code, in beats (R274). -/
opaque freeSettle : Nat → Nat

/-- Deviation of TIME in parts per million, reduced by its reader to −50 … 50 (R275). -/
opaque freeTimePpm : Nat

/-- What a sensor reads where the sample that falls due does not bring the reading: by sample and index (R281). -/
opaque freeReading : Nat → Nat → BitVec 8
/-- Measured module power in watts, averaged over 100 µs (R284). -/
opaque freeWatts : Nat → Nat
/-- Whether some logic domain's current is above its limit (R284). -/
opaque freeDomain : Nat → Bool

/-- Signature bytes of an attestation report (R300). -/
opaque freeSignatureByte : Nat → Nat → BitVec 8

/-- Whether programming a flash block fails, and how (R193): the install's outcome is the cells'. -/
opaque freeInstall : Nat → Nat
/-- WEAR of an extent after an install: the highest count among the blocks that the floor die took (R193, R194). -/
opaque freeWear : Nat → BitVec 14
/-- Whether a staging fill's page CRC fails (R191): the flash cells' own errors. -/
opaque freeCrc : Nat → Bool

/-- SUB of a later TILEPOIS for a tile that an abandoned MMAS poisoned: no record is queued then (R134, R253). -/
opaque freeAbandonSub : BitVec 8

/-- Where the gaffer puts the word of a memory-backed point, by kernel, level, point and team (R229, R234). -/
opaque freePointWord : Nat → Nat → Nat → Nat → Nat

/-- VALUE of a synchronisation result whose rule gives none (R226, R228, R230, R232). -/
opaque freeUnitValue : Nat → BitVec 32

/-- The device's serial number (R300). -/
opaque deviceSerial : BitVec 64
/-- The security version of the running firmware (R300). -/
opaque firmwareVersion : BitVec 32

/-- Whether the host completes an AtomicOp with success (R244, R285). -/
opaque freeHostAtomic : Nat → Bool

end Sys2Proof.Config
end

