-- ==== Sys2Proof/Machine/Flags.lean ====
section
/-! DEFINITION. The sticky arithmetic flags and how results carry them (R70, R95). -/

namespace Sys2Proof.Machine

/-- FLAGS bits (R70). -/
abbrev FlagSet := BitVec 6
/-- No flag. -/
def fNone : FlagSet := 0
/-- Invalid operation. -/
def fNV : FlagSet := 1
/-- Division by zero. -/
def fDZ : FlagSet := 2
/-- Overflow. -/
def fOF : FlagSet := 4
/-- Underflow. -/
def fUF : FlagSet := 8
/-- Inexact. -/
def fNX : FlagSet := 16
/-- Accumulator saturated. -/
def fAS : FlagSet := 32
/-- A flag where a condition holds. -/
def fIf (c : Bool) (f : FlagSet) : FlagSet := if c then f else 0

/-- A result with the flags its arithmetic raises. -/
structure Res (α : Type) where
  val   : α
  flags : FlagSet
deriving DecidableEq, Repr

/-- Results of several lanes: the values, and the flags of all lanes ORed together (R95). -/
def collect {α : Type} : List (Res α) → List α × FlagSet
  | [] => ([], 0)
  | r :: rest =>
    let (vs, f) := collect rest
    (r.val :: vs, r.flags ||| f)

end Sys2Proof.Machine
end

