-- ==== Sys2Proof/Syntax.lean ====
section
/-! DEFINITION. The abstract syntax: register names, type codes, the common header, and one constructor for each
row of the opcode table. The rows from PHASE_RELEASE on are steps of the machine's other agents; they have no
encoding and are entries of the machine's agenda. -/

namespace Sys2Proof

/-- A scalar field: 0–7 name g0–g7, 8–31 name w0–w23 (R63). -/
abbrev Reg := BitVec 5
/-- A vector field, v0–v31 (R63). -/
abbrev VecReg := BitVec 5
/-- A predicate, p0–p7 (R63, R64). -/
abbrev PredReg := BitVec 3
/-- A message register, m0–m15 (R63, R64). -/
abbrev MsgReg := BitVec 4
/-- An accumulator tile, t0–t3 (R63, R64). -/
abbrev TileReg := BitVec 2
/-- A weight set, ws0–ws3 (R63, R64). -/
abbrev WsReg := BitVec 2
/-- An expansion register, x0–x15 (R63, R64). -/
abbrev ExpReg := BitVec 4

/-- The width code of SXT and ZXT (R77). -/
inductive WidthCode where
  | w8 | w16 | w32
deriving DecidableEq, Repr

/-- Type codes in the order of R78; `a80` is code 0, which also stands for no type. -/
inductive Ty where
  | a80 | f32 | f16 | bf16 | e4m3 | e5m2 | i8 | i16 | i32 | i64 | n8 | n16 | n32 | n64 | ql4 | ti4
deriving DecidableEq, Repr

/-- Scopes, R78 (code 7 is reserved). -/
inductive Scope where
  | core | gang | cluster | column | quad | device | system
deriving DecidableEq, Repr

/-- Paths, R78, R210. -/
inductive Path where
  | ls | ms | vt | ce | mx | ga | co | fi
deriving DecidableEq, Repr

/-- Rounding modes, R78. -/
inductive Rnd where
  | rne | rtz | rdn | rup
deriving DecidableEq, Repr

/-- The types of LD and BLD in the order of their majors (R79). -/
inductive LoadTy where
  | i8 | i16 | i32 | i64 | n8 | n16 | n32
deriving DecidableEq, Repr

/-- The types of ST and BST in the order of their majors (R79). -/
inductive StoreTy where
  | i8 | i16 | i32 | i64
deriving DecidableEq, Repr

/-- The conditions of CMPI in the order of their majors (R79). -/
inductive CmpiCond where
  | eq | ne | lt | le | gt | ge | ltN | leN | gtN | geN
deriving DecidableEq, Repr

/-- The common header beside LEN and MAJ (R75): GAP, the yield mark, the guard and its negation. -/
structure Hdr where
  gap : BitVec 2
  y   : Bool
  g   : BitVec 3
  gn  : Bool
deriving DecidableEq, Repr

/-- State of a child's vertical lane (R138). -/
inductive LaneState where
  | full | half | dead
deriving DecidableEq, Repr

/-- One enclosing LOOP of a running graph node: its address and its iteration number (R244). -/
structure LoopFrame where
  node : Nat
  iter : Nat
deriving DecidableEq, Repr

/-- A fabric flit: the fields of its header, the address it carries and its payload (R289, R293, R295). -/
structure Flit where
  dest    : BitVec 13
  src     : BitVec 13
  cls     : BitVec 2
  typ     : BitVec 4
  pkey    : BitVec 16
  tag     : BitVec 6
  fseq    : BitVec 10
  pa      : Nat
  payload : List Byte
  crcOk   : Bool
deriving DecidableEq, Repr

/-- A change of a fabric link (R296). -/
inductive LinkChange where
  | down | shed | back
deriving DecidableEq, Repr

/-- A notice record (R296): detecting device, port, what happened, number, and the detecting device's BEAT. -/
structure Notice where
  dev   : BitVec 13
  port  : BitVec 4
  event : LinkChange
  nseq  : BitVec 32
  time  : BitVec 64
deriving DecidableEq, Repr

/-- What the boot ROM finds of the firmware (R299): whether each signature verifies, whether the security version
is at or above the fused minimum, and the measurement. -/
structure Firmware where
  rsaOk     : Bool
  slhOk     : Bool
  versionOk : Bool
  digest    : BitVec 384
  /-- the staging reservation it sets, in steps of 16 GiB above the first (R191) -/
  staging   : BitVec 3
deriving DecidableEq, Repr

/-- What a soft error strikes: a word, a line of a weight buffer, or an adder (R136, R178, R423). -/
inductive SoftTarget where
  | near (core addr : Nat)
  | store (core index : Nat)
  | far (pa : Nat)
  | buffer (core line : Nat)
  /-- the adder of a slice, at an element: a residue mismatch of the running product (R136) -/
  | adder (core row col : Nat)
deriving DecidableEq, Repr

/-- A bank atomic, or an operation on a memory-backed point, on its way to its home: the context and the number of its
wait, the operation, type, home core (none: far memory), address, operand, comparand and reset epoch (R234 to R237). -/
structure AtomicReq where
  core  : Nat
  ctx   : Nat
  num   : Nat
  op    : Nat
  ty    : Ty
  home  : Option Nat
  /-- a .cluster form, whose result comes by the mesh (R237) -/
  peer  : Bool
  addr  : Nat
  opnd  : DWord
  cmp   : DWord
  epoch : BitVec 4
deriving DecidableEq, Repr


/-- What a line of a team forwards to the root of its point (R229, R231): an RVINIT with its count, a context's arrival, an
engine's, or the token that RVARR.eng takes for a command, with the address it names. -/
inductive RootOp where
  | init (n : BitVec 16)
  | arrive
  | engine
  | token (cmd addr : Nat)
deriving DecidableEq, Repr

/-- A step of the machine's other agents with what it carries: an entry of the agenda (log 4). -/
inductive Event where
  /-- PHASE_RELEASE: R31: the lehr controller tries to release phase `phase` of the kernel's superstep in column `col`. -/
  | phaseRelease (kernel : Nat) (col : Nat) (phase : Nat)
  /-- RELEASE_NOTICE: R33: the release notice of the kernel's next superstep. -/
  | releaseNotice (kernel : Nat)
  /-- PHASE_END: R30: cycle L of the phase the core runs. -/
  | phaseEnd (core : Nat)
  /-- GANG_BARRIER_TIMEOUT: R121: three cycles after the GANG of a member. -/
  | gangBarrierTimeout (core : Nat)
  /-- STOP: R45: the STOP beat of a timetable group. -/
  | stop (kernel : Nat)
  /-- GROUP_HALT: R45, R36, R260: the group has drained and halted. -/
  | groupHalt (kernel : Nat)
  /-- PREEMPT: R248: a kernel is pre-empted, at a superstep boundary or by freeze. -/
  | preempt (kernel : Nat) (freeze : Bool)
  /-- RESUME_REQUEST: R260: on resume the gaffer enters c0 at RVEC. -/
  | resumeRequest (kernel : Nat)
  /-- THERM_DELIVERY: R270: THERM reaches the partition's service core. -/
  | thermDelivery (part : Nat) (col : Nat) (sensor : Nat)
  /-- MESSAGE_ARRIVAL: R379: a SEND of context `sctx` of core `src` arrives. -/
  | messageArrival (core : Nat) (ctx : Nat) (m : MsgReg) (data : Line) (src : Nat) (sctx : Nat) (timed : Bool)
  /-- MGET_PORT_READ: R357: an MGET request at the bank message port, which it reached at tick `first`. -/
  | mgetPortRead (home : Nat) (addr : Nat) (core : Nat) (ctx : Nat) (m : MsgReg) (timed : Bool) (first : Nat)
      (cleared : Nat)
  /-- MGET_REPLY: R357: the reply of an MGET; none when the line held an uncorrectable word. Of the request, like its reply,
  `cleared` is how often MCLR had cleared the register when it was sent (R355). -/
  | mgetReply (core : Nat) (ctx : Nat) (m : MsgReg) (reply : Option Line) (cleared : Nat)
  /-- MSGB_PORT_WRITE: R357: an MSGB of context `sctx` of core `src` at the bank message port, which it reached at tick `first`. -/
  | msgbPortWrite (home : Nat) (addr : Nat) (data : Line) (short : Bool) (src : Nat) (sctx : Nat) (timed : Bool) (first : Nat)
  /-- LDX_REPLY: R187: the reply of a far load. -/
  | ldxReply (core : Nat) (ctx : Nat) (m : MsgReg) (va : DWord) (tag : BitVec 16) (epoch : BitVec 4)
  /-- STX_COMPLETE: R189: a far store is performed or faults. -/
  | stxComplete (core : Nat) (ctx : Nat) (seq : Nat) (va : DWord) (data : Line) (epoch : BitVec 4)
  /-- ENGINE_MESSAGE_ARRIVAL: R187: an engine message fills a message register. -/
  | engineMessageArrival (core : Nat) (ctx : Nat) (m : MsgReg) (data : Line)
  /-- SLICE_OP_START: R126: the operation at the head of the slice queue starts. -/
  | sliceOpStart (core : Nat)
  /-- SLICE_OP_COMPLETE: R132: the running slice operation finishes. -/
  | sliceOpComplete (core : Nat)
  /-- MWLD_COMPLETE: R124: the running MWLD finishes. -/
  | mwldComplete (core : Nat)
  /-- MMAS_COMPLETE: R133: the running MMAS finishes. -/
  | mmasComplete (core : Nat)
  /-- VERTICAL_OP_START: R148: the oldest waiting vertical operation starts. -/
  | verticalOpStart (core : Nat)
  /-- VERTICAL_OP_END: R148: the running vertical operation ends. -/
  | verticalOpEnd (core : Nat)
  /-- RSTR_MERGE: R145: the parent port merges its oldest complete set. -/
  | rstrMerge (parent : Nat)
  /-- LANE_STATE_CHANGE: R152: the lane of a child core degrades. -/
  | laneStateChange (core : Nat) (state : LaneState)
  /-- EXPANSION_OP_START: R164: the instruction at the head of the expansion queue starts. -/
  | expansionOpStart (core : Nat)
  /-- EXPANSION_OP_END: R164: the running expansion instruction ends. -/
  | expansionOpEnd (core : Nat)
  /-- ENGINE_COMMAND_START: R200: a command starts. -/
  | engineCommandStart (col : Nat) (slot : Nat)
  /-- ENGINE_UNIT: R198: the engine moves one unit. -/
  | engineUnit (col : Nat) (slot : Nat)
  /-- ENGINE_STAMP_WRITE: R201: the engine writes the stamp and frees the slot. -/
  | engineStampWrite (col : Nat) (slot : Nat)
  /-- STATIC_ENTRY_START: R206: the lowest released static entry starts. -/
  | staticEntryStart (col : Nat)
  /-- INSTALL_COMPLETE: R192: an install ends. -/
  | installComplete (col : Nat) (slot : Nat)
  /-- COLL_COMPLETE: R207: the contributions of all ranks are in; `same` when every member issued the same collective. -/
  | collComplete (col : Nat) (slot : Nat) (contribs : List (List Byte)) (same : Bool)
  /-- TRANSLATION_WALK: R184: a walk ends and its translation is cached. -/
  | translationWalk (part : Nat) (col : Nat) (va : DWord)
  /-- STAGING_FILL: R191: a staging line is filled. -/
  | stagingFill (line : Nat)
  /-- ATOMIC_SLOT: R237: the slot of a bank atomic. -/
  | atomicSlot (r : AtomicReq)
  /-- CLUSTER_ATOMIC_REPLY: R237: the reply of a .cluster atomic. -/
  | clusterAtomicReply (core : Nat) (ctx : Nat) (num : Nat) (bad : Option Bool) (v : DWord)
  /-- DEVICE_ATOMIC_REPLY: R236: a .device atomic is performed and returns. -/
  | deviceAtomicReply (r : AtomicReq)
  /-- OBJECT_REPLY: R219: the object word of ACQ or REL returns. -/
  | objectReply (core : Nat) (ctx : Nat) (num : Nat) (obj : DWord) (rel : Bool) (epoch : BitVec 4)
  /-- SC_ANNOUNCE: R221: an SC operation tries to be announced. -/
  | scAnnounce (core : Nat) (ctx : Nat) (num : Nat)
  /-- SC_DELIVERY: R313: the SC operations of a window are performed. -/
  | scDelivery (window : Nat)
  /-- RV_ROOT_FORWARD: R229: an RVINIT (with its count) or an arrival of a context takes effect at the root line. -/
  | rvRootForward (line : Nat) (core : Nat) (ctx : Nat) (num : Nat) (what : RootOp)
  /-- FIRE_ARRIVAL: R233: a fire reaches a waiter. -/
  | fireArrival (core : Nat) (ctx : Nat) (num : Nat)
  /-- EVENT_CHAIN_FORWARD: R229, R232: an event message reaches the next line of a chain, or a team point's new C another line of the team. -/
  | eventChainForward (line : Nat) (origin : Nat) (c : Option (BitVec 16))
  /-- SLEEP_EXPIRY: R280: a SLEEP count runs out. -/
  | sleepExpiry (core : Nat) (ctx : Nat)
  /-- TWAIT_EXPIRY: R280: a TWAIT count runs out. -/
  | twaitExpiry (core : Nat) (ctx : Nat)
  /-- FAULT_RECORD_DRAIN: R257: the oldest record of a cluster buffer drains. -/
  | faultRecordDrain (tier : Nat) (col : Nat)
  /-- TASK_START: R241: the gaffer starts a task of the partition. -/
  | taskStart (part : Nat)
  /-- NODE_KERNEL: R247: a KERNEL node. -/
  | nodeKernel (task : Nat) (node : Nat) (loops : List LoopFrame)
  /-- KERNEL_COMPLETE: R245: the gaffer finds whether a kernel has completed. -/
  | kernelComplete (kernel : Nat)
  /-- NODE_COPY: R243: a COPY node. -/
  | nodeCopy (task : Nat) (node : Nat) (loops : List LoopFrame)
  /-- NODE_INSTALL: R243: an INSTALL node. -/
  | nodeInstall (task : Nat) (node : Nat) (loops : List LoopFrame)
  /-- NODE_COND: R244: a COND node. -/
  | nodeCond (task : Nat) (node : Nat) (loops : List LoopFrame)
  /-- NODE_LOOP: R244: a LOOP node evaluates its condition. -/
  | nodeLoop (task : Nat) (node : Nat) (loops : List LoopFrame)
  /-- NODE_SWITCH: R244: a SWITCH node. -/
  | nodeSwitch (task : Nat) (node : Nat) (loops : List LoopFrame)
  /-- NODE_SIGNAL: R244: a SIGNAL node. -/
  | nodeSignal (task : Nat) (node : Nat) (loops : List LoopFrame)
  /-- SIGNAL_COMPLETE: R244: a SIGNAL is performed at system scope, or its atomic failed. -/
  | signalComplete (task : Nat) (node : Nat) (loops : List LoopFrame) (ok : Bool)
  /-- NODE_WAIT: R244: a WAIT node reads its word; `since` is the TIME it began. -/
  | nodeWait (task : Nat) (node : Nat) (loops : List LoopFrame) (since : Nat)
  /-- WAIT_TIMEOUT: R244: a WAIT node's timeout expires. -/
  | waitTimeout (task : Nat) (node : Nat)
  /-- NODE_SUCCESSOR: R245: the node at this address is read and started; 0 ends the chain. -/
  | nodeSuccessor (task : Nat) (node : Nat) (loops : List LoopFrame)
  /-- TASK_STAMP_WRITE: R242: the task's stamp is written. -/
  | taskStampWrite (task : Nat)
  /-- QCTL_WRITE: R238. -/
  | qctlWrite (part : Nat) (queue : Nat) (v : DWord)
  /-- QPTR_WRITE: R238. -/
  | qptrWrite (part : Nat) (queue : Nat) (v : DWord)
  /-- PARTCFG_WRITE: R286. -/
  | partcfgWrite (v : DWord)
  /-- VFBIND_WRITE: R286. -/
  | vfbindWrite (vf : Nat) (v : DWord)
  /-- BEATCTL_REQ_WRITE: R273: a write of BEATCTL. -/
  | beatctlReqWrite (v : DWord)
  /-- BEATCTL_RESTORE: R273: a write of 1 to RESTORE. -/
  | beatctlRestore
  /-- BEAT_CHANGE: R274: the pending code takes effect. -/
  | beatChange
  /-- TCTL_WRITE: R282. -/
  | tctlWrite (v : DWord)
  /-- PCAP_WRITE: R283. -/
  | pcapWrite (v : DWord)
  /-- PFLOOR_WRITE: R283. -/
  | pfloorWrite (part : Nat) (v : DWord)
  /-- HLIM_WRITE: R284. -/
  | hlimWrite (v : DWord)
  /-- IBUDGET_WRITE: R287. -/
  | ibudgetWrite (part : Nat) (v : DWord)
  /-- FQCTL_WRITE: R257. -/
  | fqctlWrite (part : Nat) (v : DWord)
  /-- TINV: R185: the invalidation starts. -/
  | tinv (part : Nat)
  /-- TINV_COMPLETE: R185: the invalidation completes. -/
  | tinvComplete (part : Nat)
  /-- ROUTING_ENTRY_WRITE: R292. -/
  | routingEntryWrite (bank : Nat) (dest : Nat) (v : Word)
  /-- SWAP: R292: a write of 1 to SWAP. -/
  | swap
  /-- ROUTE_BANK_SWAP: R292: the banks swap. -/
  | routeBankSwap
  /-- PSTAT_CLR: R290. -/
  | pstatClr (port : Nat)
  /-- ATTEST_REQUEST: R300: a write of 1 to mailbox offset 0x28. -/
  | attestRequest (part : Nat)
  /-- ATTEST_COMPLETE: R300: the report is written. -/
  | attestComplete (part : Nat)
  /-- MGMT_REGISTER_WRITE: R285, R287: an aligned 8-byte write of the physical function's window. -/
  | mgmtRegisterWrite (vf : Option Nat) (off size : Nat) (v : DWord)
  /-- INITIATE_FLR: R272: a reset of a virtual function, or of the physical function (none). -/
  | initiateFlr (vf : Option Nat)
  /-- FLR_DRAIN_DONE: R272: steps 3 to 5. -/
  | flrDrainDone (part : Nat)
  /-- FLR_COMPLETE: R309: step 6 completes. -/
  | flrComplete (part : Nat)
  /-- SENSOR_SAMPLE: R281: the readings of all sensors, by index. -/
  | sensorSample (raws : List (BitVec 8))
  /-- SELF_THROTTLE_STEP: R282. -/
  | selfThrottleStep
  /-- HARD_LIMIT_STEP: R284: measured module power and whether a domain current is above its limit. -/
  | hardLimitStep (watts : Nat) (domainOver : Bool)
  /-- BUDGET_REFILL: R194. -/
  | budgetRefill
  /-- FLIT_RECEIVE: R295: a flit enters a port. -/
  | flitReceive (port : Nat) (flit : Flit)
  /-- DRAIN_MARKER: R294: a drain marker arrives. -/
  | drainMarker (flit : Flit)
  /-- FLOW_LOSS_TIMEOUT: R294: 20 µs after a marker. -/
  | flowLossTimeout (cls : BitVec 2) (src : BitVec 13) (fseq : BitVec 10)
  /-- LINK_EVENT: R296: a port failure, shed or return is detected. -/
  | linkEvent (port : Nat) (event : LinkChange)
  /-- NOTICE_RECEIVE: R296: a link notice arrives. -/
  | noticeReceive (port : Nat) (notice : Notice)
  /-- RETRAIN_COMPLETE: R297. -/
  | retrainComplete (port : Nat)
  /-- FLOW_CONTROL_SIGNAL: R297: a receiver's stop or go. -/
  | flowControlSignal (port : Nat) (stopped : Bool)
  /-- POWER_ON: R299: the boot ROM verifies the firmware and bring-up runs. -/
  | powerOn (fw : Firmware)
  /-- FSTAT_RESULT: R342: the extent's counters return. -/
  | fstatResult (core : Nat) (ctx : Nat) (num : Nat) (ext : Nat)
  /-- PARTCFG_CHANGE_COMPLETE: R286: an accepted MODE change ends. -/
  | partcfgChangeComplete
  /-- PORT_TRAINING_COMPLETE: R296: a port comes up. -/
  | portTrainingComplete (port : Nat)
  /-- SOFT_ERROR: R178: bits flip in a word. -/
  | softError (target : SoftTarget) (bits : BitVec 32)
deriving DecidableEq, Repr

/-- One constructor per row of the opcode table: the instruction forms in the order of R79 and R80, then the
steps of the machine's other agents, whose data the agenda's `Event` carries. -/
inductive Instr where
  /-- ADD, format R, MAJ 0x01 (R315). -/
  | add (h : Hdr) (d : Reg) (a : Reg) (b : Reg)
  /-- SUB, format R, MAJ 0x02 (R386). -/
  | sub (h : Hdr) (d : Reg) (a : Reg) (b : Reg)
  /-- MUL, format R, MAJ 0x03 (R363). -/
  | mul (h : Hdr) (d : Reg) (a : Reg) (b : Reg)
  /-- MULH, format R, MAJ 0x04 (R363). -/
  | mulh (h : Hdr) (d : Reg) (a : Reg) (b : Reg) (u : Bool)
  /-- DIV, format R, MAJ 0x05 (R334). -/
  | div (h : Hdr) (d : Reg) (a : Reg) (b : Reg) (u : Bool)
  /-- REM, format R, MAJ 0x06 (R370). -/
  | rem (h : Hdr) (d : Reg) (a : Reg) (b : Reg) (u : Bool)
  /-- AND, format R, MAJ 0x07 (R317). -/
  | and (h : Hdr) (d : Reg) (a : Reg) (b : Reg)
  /-- ANDN, format R, MAJ 0x08 (R317). -/
  | andn (h : Hdr) (d : Reg) (a : Reg) (b : Reg)
  /-- OR, format R, MAJ 0x09 (R365). -/
  | or (h : Hdr) (d : Reg) (a : Reg) (b : Reg)
  /-- XOR, format R, MAJ 0x0A (R416). -/
  | xor (h : Hdr) (d : Reg) (a : Reg) (b : Reg)
  /-- SHL, format R, MAJ 0x0B (R375). -/
  | shl (h : Hdr) (d : Reg) (a : Reg) (b : Reg)
  /-- SHR, format R, MAJ 0x0C (R375). -/
  | shr (h : Hdr) (d : Reg) (a : Reg) (b : Reg)
  /-- SRA, format R, MAJ 0x0D (R375). -/
  | sra (h : Hdr) (d : Reg) (a : Reg) (b : Reg)
  /-- ROT, format R, MAJ 0x0E (R375). -/
  | rot (h : Hdr) (d : Reg) (a : Reg) (b : Reg)
  /-- CLZ, format R, MAJ 0x0F (R326). -/
  | clz (h : Hdr) (d : Reg) (a : Reg)
  /-- CTZ, format R, MAJ 0x10 (R326). -/
  | ctz (h : Hdr) (d : Reg) (a : Reg)
  /-- POPC, format R, MAJ 0x11 (R367). -/
  | popc (h : Hdr) (d : Reg) (a : Reg)
  /-- MIN, format R, MAJ 0x12 (R354). -/
  | min (h : Hdr) (d : Reg) (a : Reg) (b : Reg) (u : Bool)
  /-- MAX, format R, MAJ 0x13 (R354). -/
  | max (h : Hdr) (d : Reg) (a : Reg) (b : Reg) (u : Bool)
  /-- SEL, format R, MAJ 0x14 (R377). -/
  | sel (h : Hdr) (d : Reg) (a : Reg) (b : Reg)
  /-- MOV, format R, MAJ 0x15 (R362). -/
  | mov (h : Hdr) (d : Reg) (a : Reg)
  /-- SXT, format R, MAJ 0x16 (R387). -/
  | sxt (h : Hdr) (d : Reg) (a : Reg) (w : WidthCode)
  /-- ZXT, format R, MAJ 0x17 (R418). -/
  | zxt (h : Hdr) (d : Reg) (a : Reg) (w : WidthCode)
  /-- CMP_EQ, format R, MAJ 0x18 (R327). -/
  | cmpEq (h : Hdr) (d : PredReg) (a : Reg) (b : Reg) (u : Bool)
  /-- CMP_NE, format R, MAJ 0x19 (R327). -/
  | cmpNe (h : Hdr) (d : PredReg) (a : Reg) (b : Reg) (u : Bool)
  /-- CMP_LT, format R, MAJ 0x1A (R327). -/
  | cmpLt (h : Hdr) (d : PredReg) (a : Reg) (b : Reg) (u : Bool)
  /-- CMP_LE, format R, MAJ 0x1B (R327). -/
  | cmpLe (h : Hdr) (d : PredReg) (a : Reg) (b : Reg) (u : Bool)
  /-- ADDI, format I, MAJ 0x1C (R316). -/
  | addi (gap : BitVec 2) (d : Reg) (a : Reg) (imm : BitVec 11)
  /-- ADDI_LONG, format L, MAJ 0x1C (R316). -/
  | addiLong (h : Hdr) (d : Reg) (a : Reg) (lit : DWord)
  /-- LI, format I, MAJ 0x1D (R351). -/
  | li (gap : BitVec 2) (d : Reg) (imm : BitVec 11)
  /-- LI_LONG, format L, MAJ 0x1D (R351). -/
  | liLong (h : Hdr) (d : Reg) (lit : DWord)
  /-- CMPI_EQ, format I, MAJ 0x1E (R328). -/
  | cmpiEq (gap : BitVec 2) (d : PredReg) (a : Reg) (imm : BitVec 11)
  /-- CMPI_NE, format I, MAJ 0x1F (R328). -/
  | cmpiNe (gap : BitVec 2) (d : PredReg) (a : Reg) (imm : BitVec 11)
  /-- CMPI_LT, format I, MAJ 0x20 (R328). -/
  | cmpiLt (gap : BitVec 2) (d : PredReg) (a : Reg) (imm : BitVec 11)
  /-- CMPI_LE, format I, MAJ 0x21 (R328). -/
  | cmpiLe (gap : BitVec 2) (d : PredReg) (a : Reg) (imm : BitVec 11)
  /-- CMPI_GT, format I, MAJ 0x22 (R328). -/
  | cmpiGt (gap : BitVec 2) (d : PredReg) (a : Reg) (imm : BitVec 11)
  /-- CMPI_GE, format I, MAJ 0x23 (R328). -/
  | cmpiGe (gap : BitVec 2) (d : PredReg) (a : Reg) (imm : BitVec 11)
  /-- CMPI_LT_N64, format I, MAJ 0x24 (R328). -/
  | cmpiLtN64 (gap : BitVec 2) (d : PredReg) (a : Reg) (imm : BitVec 11)
  /-- CMPI_LE_N64, format I, MAJ 0x25 (R328). -/
  | cmpiLeN64 (gap : BitVec 2) (d : PredReg) (a : Reg) (imm : BitVec 11)
  /-- CMPI_GT_N64, format I, MAJ 0x26 (R328). -/
  | cmpiGtN64 (gap : BitVec 2) (d : PredReg) (a : Reg) (imm : BitVec 11)
  /-- CMPI_GE_N64, format I, MAJ 0x27 (R328). -/
  | cmpiGeN64 (gap : BitVec 2) (d : PredReg) (a : Reg) (imm : BitVec 11)
  /-- CMPI_LONG, format L, MAJ 0x1E (R328). -/
  | cmpiLong (h : Hdr) (cond : CmpiCond) (d : PredReg) (a : Reg) (lit : DWord)
  /-- PAND, format R, MAJ 0x28 (R366). -/
  | pand (h : Hdr) (d : PredReg) (a : PredReg) (b : PredReg)
  /-- POR, format R, MAJ 0x29 (R366). -/
  | por (h : Hdr) (d : PredReg) (a : PredReg) (b : PredReg)
  /-- PXOR, format R, MAJ 0x2A (R366). -/
  | pxor (h : Hdr) (d : PredReg) (a : PredReg) (b : PredReg)
  /-- PNOT, format R, MAJ 0x2B (R366). -/
  | pnot (h : Hdr) (d : PredReg) (a : PredReg)
  /-- PMOV, format R, MAJ 0x2C (R366). -/
  | pmov (h : Hdr) (d : PredReg) (a : PredReg)
  /-- BR, format J, MAJ 0x2D (R323). -/
  | br (h : Hdr) (disp : BitVec 16)
  /-- BR_LONG, the long form of format J, MAJ 0x2D (R323). -/
  | brLong (h : Hdr) (lit : DWord)
  /-- JMP, format J, MAJ 0x2E (R346). -/
  | jmp (gap : BitVec 2) (y : Bool) (disp : BitVec 16)
  /-- JMP_LONG, the long form of format J, MAJ 0x2E (R346). -/
  | jmpLong (gap : BitVec 2) (y : Bool) (lit : DWord)
  /-- JMPI, format R, MAJ 0x2F (R346). -/
  | jmpi (h : Hdr) (a : Reg)
  /-- CALL, format J, MAJ 0x30 (R325). -/
  | call (h : Hdr) (disp : BitVec 16)
  /-- CALL_LONG, the long form of format J, MAJ 0x30 (R325). -/
  | callLong (h : Hdr) (lit : DWord)
  /-- CALLI, format R, MAJ 0x31 (R325). -/
  | calli (h : Hdr) (a : Reg)
  /-- RET, format R, MAJ 0x32 (R374). -/
  | ret (gap : BitVec 2) (y : Bool)
  /-- ENTER, format I, MAJ 0x33 (R335). -/
  | enter (gap : BitVec 2) (imm : BitVec 11)
  /-- ENTER_LONG, format L, MAJ 0x33 (R335). -/
  | enterLong (h : Hdr) (lit : DWord)
  /-- LEAVE, format R, MAJ 0x34 (R350). -/
  | leave (h : Hdr)
  /-- NOP, format R, MAJ 0x35 (R364). -/
  | nop (h : Hdr)
  /-- HALT, format R, MAJ 0x36 (R344). -/
  | halt (h : Hdr)
  /-- LD_I8, format I, MAJ 0x37 (R347). -/
  | ldI8 (gap : BitVec 2) (d : Reg) (a : Reg) (imm : BitVec 11)
  /-- LD_I16, format I, MAJ 0x38 (R347). -/
  | ldI16 (gap : BitVec 2) (d : Reg) (a : Reg) (imm : BitVec 11)
  /-- LD_I32, format I, MAJ 0x39 (R347). -/
  | ldI32 (gap : BitVec 2) (d : Reg) (a : Reg) (imm : BitVec 11)
  /-- LD_I64, format I, MAJ 0x3A (R347). -/
  | ldI64 (gap : BitVec 2) (d : Reg) (a : Reg) (imm : BitVec 11)
  /-- LD_N8, format I, MAJ 0x3B (R347). -/
  | ldN8 (gap : BitVec 2) (d : Reg) (a : Reg) (imm : BitVec 11)
  /-- LD_N16, format I, MAJ 0x3C (R347). -/
  | ldN16 (gap : BitVec 2) (d : Reg) (a : Reg) (imm : BitVec 11)
  /-- LD_N32, format I, MAJ 0x3D (R347). -/
  | ldN32 (gap : BitVec 2) (d : Reg) (a : Reg) (imm : BitVec 11)
  /-- LD_LONG, format L, MAJ 0x37 (R347). -/
  | ldLong (h : Hdr) (ty : LoadTy) (d : Reg) (a : Reg) (lit : DWord)
  /-- ST_I8, format I, MAJ 0x3E (R382). -/
  | stI8 (gap : BitVec 2) (d : Reg) (a : Reg) (imm : BitVec 11)
  /-- ST_I16, format I, MAJ 0x3F (R382). -/
  | stI16 (gap : BitVec 2) (d : Reg) (a : Reg) (imm : BitVec 11)
  /-- ST_I32, format I, MAJ 0x40 (R382). -/
  | stI32 (gap : BitVec 2) (d : Reg) (a : Reg) (imm : BitVec 11)
  /-- ST_I64, format I, MAJ 0x41 (R382). -/
  | stI64 (gap : BitVec 2) (d : Reg) (a : Reg) (imm : BitVec 11)
  /-- ST_LONG, format L, MAJ 0x3E (R382). -/
  | stLong (h : Hdr) (ty : StoreTy) (d : Reg) (a : Reg) (lit : DWord)
  /-- VLD, format I, MAJ 0x42 (R396). -/
  | vld (gap : BitVec 2) (d : VecReg) (a : Reg) (imm : BitVec 11)
  /-- VLD_LONG, format L, MAJ 0x42 (R396). -/
  | vldLong (h : Hdr) (d : VecReg) (a : Reg) (lit : DWord)
  /-- VST, format I, MAJ 0x43 (R396). -/
  | vst (gap : BitVec 2) (d : VecReg) (a : Reg) (imm : BitVec 11)
  /-- VST_LONG, format L, MAJ 0x43 (R396). -/
  | vstLong (h : Hdr) (d : VecReg) (a : Reg) (lit : DWord)
  /-- BLD_I8, format I, MAJ 0x44 (R320). -/
  | bldI8 (gap : BitVec 2) (d : Reg) (a : Reg) (imm : BitVec 11)
  /-- BLD_I16, format I, MAJ 0x45 (R320). -/
  | bldI16 (gap : BitVec 2) (d : Reg) (a : Reg) (imm : BitVec 11)
  /-- BLD_I32, format I, MAJ 0x46 (R320). -/
  | bldI32 (gap : BitVec 2) (d : Reg) (a : Reg) (imm : BitVec 11)
  /-- BLD_I64, format I, MAJ 0x47 (R320). -/
  | bldI64 (gap : BitVec 2) (d : Reg) (a : Reg) (imm : BitVec 11)
  /-- BLD_N8, format I, MAJ 0x48 (R320). -/
  | bldN8 (gap : BitVec 2) (d : Reg) (a : Reg) (imm : BitVec 11)
  /-- BLD_N16, format I, MAJ 0x49 (R320). -/
  | bldN16 (gap : BitVec 2) (d : Reg) (a : Reg) (imm : BitVec 11)
  /-- BLD_N32, format I, MAJ 0x4A (R320). -/
  | bldN32 (gap : BitVec 2) (d : Reg) (a : Reg) (imm : BitVec 11)
  /-- BLD_LONG, format L, MAJ 0x44 (R320). -/
  | bldLong (h : Hdr) (ty : LoadTy) (d : Reg) (a : Reg) (lit : DWord)
  /-- BST_I8, format I, MAJ 0x4B (R320). -/
  | bstI8 (gap : BitVec 2) (d : Reg) (a : Reg) (imm : BitVec 11)
  /-- BST_I16, format I, MAJ 0x4C (R320). -/
  | bstI16 (gap : BitVec 2) (d : Reg) (a : Reg) (imm : BitVec 11)
  /-- BST_I32, format I, MAJ 0x4D (R320). -/
  | bstI32 (gap : BitVec 2) (d : Reg) (a : Reg) (imm : BitVec 11)
  /-- BST_I64, format I, MAJ 0x4E (R320). -/
  | bstI64 (gap : BitVec 2) (d : Reg) (a : Reg) (imm : BitVec 11)
  /-- BST_LONG, format L, MAJ 0x4B (R320). -/
  | bstLong (h : Hdr) (ty : StoreTy) (d : Reg) (a : Reg) (lit : DWord)
  /-- VBLD, format I, MAJ 0x4F (R396). -/
  | vbld (gap : BitVec 2) (d : VecReg) (a : Reg) (imm : BitVec 11)
  /-- VBLD_LONG, format L, MAJ 0x4F (R396). -/
  | vbldLong (h : Hdr) (d : VecReg) (a : Reg) (lit : DWord)
  /-- VBST, format I, MAJ 0x50 (R396). -/
  | vbst (gap : BitVec 2) (d : VecReg) (a : Reg) (imm : BitVec 11)
  /-- VBST_LONG, format L, MAJ 0x50 (R396). -/
  | vbstLong (h : Hdr) (d : VecReg) (a : Reg) (lit : DWord)
  /-- BLOOK, format R, MAJ 0x51 (R319). -/
  | blook (h : Hdr) (d : Reg) (a : Reg)
  /-- BTAG, format R, MAJ 0x52 (R319). -/
  | btag (h : Hdr) (d : Reg) (a : Reg) (b : Reg)
  /-- BINV, format R, MAJ 0x53 (R319). -/
  | binv (h : Hdr) (d : Reg) (a : Reg)
  /-- SEND, format R, MAJ 0x54 (R378). -/
  | send (h : Hdr) (d : MsgReg) (a : Reg) (b : VecReg)
  /-- MGET, format R, MAJ 0x55 (R356). -/
  | mget (h : Hdr) (d : MsgReg) (a : Reg) (b : Reg)
  /-- MSGB, format R, MAJ 0x56 (R356). -/
  | msgb (h : Hdr) (d : VecReg) (a : Reg) (b : Reg) (s8 : Bool)
  /-- MCLR, format R, MAJ 0x57 (R355). -/
  | mclr (h : Hdr) (d : MsgReg)
  /-- LDX, format R, MAJ 0x58 (R348). -/
  | ldx (h : Hdr) (d : MsgReg) (a : Reg)
  /-- STX, format R, MAJ 0x59 (R385). -/
  | stx (h : Hdr) (a : Reg) (b : VecReg)
  /-- TRAP, format I, MAJ 0x5A (R390). -/
  | trap (gap : BitVec 2) (imm : BitVec 11)
  /-- TRAP_LONG, format L, MAJ 0x5A (R390). -/
  | trapLong (h : Hdr) (lit : DWord)
  /-- ERET, format R, MAJ 0x5B (R336). -/
  | eret (gap : BitVec 2) (y : Bool)
  /-- SYSR, format I, MAJ 0x5C (R388). -/
  | sysr (gap : BitVec 2) (d : Reg) (imm : BitVec 11)
  /-- SYSR_LONG, format L, MAJ 0x5C (R388). -/
  | sysrLong (h : Hdr) (d : Reg) (lit : DWord)
  /-- SYSW, format I, MAJ 0x5D (R388). -/
  | sysw (gap : BitVec 2) (d : Reg) (imm : BitVec 11)
  /-- SYSW_LONG, format L, MAJ 0x5D (R388). -/
  | syswLong (h : Hdr) (d : Reg) (lit : DWord)
  /-- YIELD, format R, MAJ 0x5E (R417). -/
  | yield (h : Hdr)
  /-- EXT, format X, MAJ 0x60, SUB 0x001 (R338). -/
  | ext (h : Hdr) (d : Reg) (a : Reg) (ty : Ty) (tier : Option (BitVec 2)) (pos : BitVec 6) (wm1 : BitVec 6)
  /-- INS, format X, MAJ 0x60, SUB 0x002 (R338). -/
  | ins (h : Hdr) (d : Reg) (a : Reg) (tier : Option (BitVec 2)) (pos : BitVec 6) (wm1 : BitVec 6)
  /-- LEA, format X, MAJ 0x60, SUB 0x003 (R349). -/
  | lea (h : Hdr) (d : Reg) (a : Reg) (b : Reg) (tier : Option (BitVec 2)) (sh : BitVec 3) (disp : BitVec 24)
  /-- LEA_XL, format XL, MAJ 0x60, SUB 0x003 (R349). -/
  | leaXl (h : Hdr) (d : Reg) (a : Reg) (b : Reg) (tier : Option (BitVec 2)) (sh : BitVec 3) (lit : DWord)
  /-- REP, format X, MAJ 0x61, SUB 0x001 (R371). -/
  | rep (h : Hdr) (stride : BitVec 5) (nm1l : BitVec 5) (winl : BitVec 5) (winh : Bool) (nm1h : BitVec 5) (km1 : BitVec 3) (mask : BitVec 24)
  /-- VLDS, format X, MAJ 0x62, SUB 0x001 (R404). -/
  | vlds (h : Hdr) (d : VecReg) (a : Reg) (b : Reg) (ty : Ty) (tier : Option (BitVec 2)) (disp : BitVec 32)
  /-- VSTS, format X, MAJ 0x62, SUB 0x002 (R404). -/
  | vsts (h : Hdr) (d : VecReg) (a : Reg) (b : Reg) (ty : Ty) (tier : Option (BitVec 2)) (disp : BitVec 32)
  /-- VGATH, format X, MAJ 0x62, SUB 0x003 (R404). -/
  | vgath (h : Hdr) (d : VecReg) (a : Reg) (b : VecReg) (ty : Ty) (tier : Option (BitVec 2)) (disp : BitVec 32)
  /-- VSCAT, format X, MAJ 0x62, SUB 0x004 (R404). -/
  | vscat (h : Hdr) (d : VecReg) (a : Reg) (b : VecReg) (ty : Ty) (tier : Option (BitVec 2)) (disp : BitVec 32)
  /-- VADD, format X, MAJ 0x63, SUB 0x001 (R393). -/
  | vadd (h : Hdr) (d : VecReg) (a : VecReg) (b : VecReg) (ty : Ty) (rnd : Rnd) (sat : Bool) (tier : Option (BitVec 2))
  /-- VSUB, format X, MAJ 0x63, SUB 0x002 (R393). -/
  | vsub (h : Hdr) (d : VecReg) (a : VecReg) (b : VecReg) (ty : Ty) (rnd : Rnd) (sat : Bool) (tier : Option (BitVec 2))
  /-- VMUL, format X, MAJ 0x63, SUB 0x003 (R393). -/
  | vmul (h : Hdr) (d : VecReg) (a : VecReg) (b : VecReg) (ty : Ty) (rnd : Rnd) (sat : Bool) (tier : Option (BitVec 2))
  /-- VFMA, format X, MAJ 0x63, SUB 0x004 (R393). -/
  | vfma (h : Hdr) (d : VecReg) (a : VecReg) (b : VecReg) (ty : Ty) (rnd : Rnd) (tier : Option (BitVec 2)) (c : VecReg)
  /-- VFMS, format X, MAJ 0x63, SUB 0x005 (R393). -/
  | vfms (h : Hdr) (d : VecReg) (a : VecReg) (b : VecReg) (ty : Ty) (rnd : Rnd) (tier : Option (BitVec 2)) (c : VecReg)
  /-- VNEG, format X, MAJ 0x63, SUB 0x006 (R393). -/
  | vneg (h : Hdr) (d : VecReg) (a : VecReg) (ty : Ty) (sat : Bool) (tier : Option (BitVec 2))
  /-- VABS, format X, MAJ 0x63, SUB 0x007 (R393). -/
  | vabs (h : Hdr) (d : VecReg) (a : VecReg) (ty : Ty) (sat : Bool) (tier : Option (BitVec 2))
  /-- VMIN, format X, MAJ 0x63, SUB 0x008 (R393). -/
  | vmin (h : Hdr) (d : VecReg) (a : VecReg) (b : VecReg) (ty : Ty) (tier : Option (BitVec 2))
  /-- VMAX, format X, MAJ 0x63, SUB 0x009 (R393). -/
  | vmax (h : Hdr) (d : VecReg) (a : VecReg) (b : VecReg) (ty : Ty) (tier : Option (BitVec 2))
  /-- VDIV, format X, MAJ 0x63, SUB 0x00A (R393). -/
  | vdiv (h : Hdr) (d : VecReg) (a : VecReg) (b : VecReg) (ty : Ty) (rnd : Rnd) (tier : Option (BitVec 2))
  /-- VSQRT, format X, MAJ 0x63, SUB 0x00B (R393). -/
  | vsqrt (h : Hdr) (d : VecReg) (a : VecReg) (ty : Ty) (rnd : Rnd) (tier : Option (BitVec 2))
  /-- VRCP, format X, MAJ 0x63, SUB 0x00C (R393). -/
  | vrcp (h : Hdr) (d : VecReg) (a : VecReg) (ty : Ty) (rnd : Rnd) (tier : Option (BitVec 2))
  /-- VRSQ, format X, MAJ 0x63, SUB 0x00D (R393). -/
  | vrsq (h : Hdr) (d : VecReg) (a : VecReg) (ty : Ty) (rnd : Rnd) (tier : Option (BitVec 2))
  /-- VEXP2F, format X, MAJ 0x63, SUB 0x00E (R403). -/
  | vexp2f (h : Hdr) (d : VecReg) (a : VecReg) (ty : Ty) (tier : Option (BitVec 2))
  /-- VRNDI, format X, MAJ 0x63, SUB 0x00F (R403). -/
  | vrndi (h : Hdr) (d : VecReg) (a : VecReg) (ty : Ty) (rnd : Rnd) (tier : Option (BitVec 2))
  /-- VINSX, format X, MAJ 0x63, SUB 0x010 (R403). -/
  | vinsx (h : Hdr) (d : VecReg) (a : VecReg) (b : VecReg) (ty : Ty) (rnd : Rnd) (sat : Bool) (tier : Option (BitVec 2))
  /-- VEXTX, format X, MAJ 0x63, SUB 0x011 (R403). -/
  | vextx (h : Hdr) (d : VecReg) (a : VecReg) (ty : Ty) (tier : Option (BitVec 2))
  /-- VCVT, format X, MAJ 0x63, SUB 0x012 (R402). -/
  | vcvt (h : Hdr) (d : VecReg) (a : VecReg) (ty : Ty) (ty2 : Ty) (rnd : Rnd) (sat : Bool) (tier : Option (BitVec 2)) (part : BitVec 2)
  /-- VCMP, format X, MAJ 0x63, SUB 0x013 (R399). -/
  | vcmp (h : Hdr) (d : VecReg) (a : VecReg) (b : VecReg) (ty : Ty) (tier : Option (BitVec 2)) (cond : BitVec 3) (pw : Bool) (p : PredReg)
  /-- VSEL, format X, MAJ 0x63, SUB 0x014 (R408). -/
  | vsel (h : Hdr) (d : VecReg) (a : VecReg) (b : VecReg) (ty : Ty) (tier : Option (BitVec 2)) (c : VecReg)
  /-- VAND, format X, MAJ 0x63, SUB 0x015 (R395). -/
  | vand (h : Hdr) (d : VecReg) (a : VecReg) (b : VecReg) (tier : Option (BitVec 2))
  /-- VOR, format X, MAJ 0x63, SUB 0x016 (R395). -/
  | vor (h : Hdr) (d : VecReg) (a : VecReg) (b : VecReg) (tier : Option (BitVec 2))
  /-- VXOR, format X, MAJ 0x63, SUB 0x017 (R395). -/
  | vxor (h : Hdr) (d : VecReg) (a : VecReg) (b : VecReg) (tier : Option (BitVec 2))
  /-- VSHL, format X, MAJ 0x63, SUB 0x018 (R412). -/
  | vshl (h : Hdr) (d : VecReg) (a : VecReg) (b : VecReg) (ty : Ty) (sat : Bool) (tier : Option (BitVec 2))
  /-- VSHR, format X, MAJ 0x63, SUB 0x019 (R412). -/
  | vshr (h : Hdr) (d : VecReg) (a : VecReg) (b : VecReg) (ty : Ty) (tier : Option (BitVec 2))
  /-- VSRA, format X, MAJ 0x63, SUB 0x01A (R412). -/
  | vsra (h : Hdr) (d : VecReg) (a : VecReg) (b : VecReg) (ty : Ty) (tier : Option (BitVec 2))
  /-- VPERM, format X, MAJ 0x63, SUB 0x01B (R408). -/
  | vperm (h : Hdr) (d : VecReg) (a : VecReg) (b : VecReg) (ty : Ty) (tier : Option (BitVec 2))
  /-- VSPLAT, format X, MAJ 0x63, SUB 0x01C (R409). -/
  | vsplat (h : Hdr) (d : VecReg) (a : Reg) (ty : Ty) (tier : Option (BitVec 2))
  /-- VSPLAT_XL, format XL, MAJ 0x63, SUB 0x01C (R409). -/
  | vsplatXl (h : Hdr) (d : VecReg) (ty : Ty) (tier : Option (BitVec 2)) (lit : DWord)
  /-- VMOV, format X, MAJ 0x63, SUB 0x01D (R408). -/
  | vmov (h : Hdr) (d : VecReg) (a : VecReg) (tier : Option (BitVec 2))
  /-- VREDS, format X, MAJ 0x63, SUB 0x01E (R410). -/
  | vreds (h : Hdr) (d : Reg) (a : VecReg) (ty : Ty) (rnd : Rnd) (sat : Bool) (tier : Option (BitVec 2))
  /-- VREDX, format X, MAJ 0x63, SUB 0x01F (R410). -/
  | vredx (h : Hdr) (d : Reg) (a : VecReg) (ty : Ty) (tier : Option (BitVec 2)) (isMax : Bool)
  /-- VCLASS, format X, MAJ 0x63, SUB 0x020 (R398). -/
  | vclass (h : Hdr) (d : VecReg) (a : VecReg) (ty : Ty) (tier : Option (BitVec 2))
  /-- VCODE, format X, MAJ 0x63, SUB 0x021 (R400). -/
  | vcode (h : Hdr) (d : VecReg) (a : VecReg) (ty : Ty) (ty2 : Ty) (tier : Option (BitVec 2)) (seg : BitVec 3)
  /-- VQL4, format X, MAJ 0x63, SUB 0x022 (R401). -/
  | vql4 (h : Hdr) (d : VecReg) (a : VecReg) (ty : Ty) (ty2 : Ty) (tier : Option (BitVec 2)) (seg : BitVec 3)
  /-- VSCAC, format X, MAJ 0x63, SUB 0x023 (R411). -/
  | vscac (h : Hdr) (d : VecReg) (a : VecReg) (b : VecReg) (ty : Ty) (ty2 : Ty) (tier : Option (BitVec 2)) (c : VecReg) (e : Reg) (ql : Bool)
  /-- VKER, format X, MAJ 0x63, SUB 0x024 (R407). -/
  | vker (h : Hdr) (d : VecReg) (a : VecReg) (ty : Ty) (tier : Option (BitVec 2))
  /-- GANG, format X, MAJ 0x64, SUB 0x001 (R343). -/
  | gang (h : Hdr)
  /-- MMA, format X, MAJ 0x64, SUB 0x002 (R119). -/
  | mma (h : Hdr) (d : TileReg) (a : Reg) (ty : Ty) (ty2 : Ty) (k : BitVec 14) (koff : BitVec 13) (t : Bool) (z : Bool)
  /-- MMAS, format X, MAJ 0x64, SUB 0x003 (R119). -/
  | mmas (h : Hdr) (d : TileReg) (a : Reg) (b : MsgReg) (ty : Ty) (ty2 : Ty)
  /-- MWLD, format X, MAJ 0x64, SUB 0x004 (R119). -/
  | mwld (h : Hdr) (a : Reg) (b : Reg) (ty : Ty) (k : BitVec 14) (axis : Bool)
  /-- MZERO, format X, MAJ 0x64, SUB 0x005 (R119). -/
  | mzero (h : Hdr) (d : TileReg)
  /-- MRD, format X, MAJ 0x64, SUB 0x006 (R119). -/
  | mrd (h : Hdr) (d : VecReg) (a : TileReg) (ty : Ty) (sat : Bool) (row : BitVec 5)
  /-- MSCAC, format X, MAJ 0x64, SUB 0x007 (R119). -/
  | mscac (h : Hdr) (d : TileReg) (a : Reg) (b : Reg)
  /-- MSTAT, format X, MAJ 0x64, SUB 0x008 (R119). -/
  | mstat (h : Hdr) (d : Reg)
  /-- RSTR, format X, MAJ 0x65, SUB 0x001 (R140). -/
  | rstr (h : Hdr) (d : WsReg) (a : Reg) (b : Reg) (ty : Ty) (ovw : Bool) (self : Bool)
  /-- PRLG, format X, MAJ 0x65, SUB 0x002 (R140). -/
  | prlg (h : Hdr) (d : WsReg) (a : Reg) (b : Reg) (ty : Ty) (ovw : Bool) (self : Bool)
  /-- WSLD, format X, MAJ 0x65, SUB 0x003 (R140). -/
  | wsld (h : Hdr) (d : WsReg) (a : Reg)
  /-- XCLR, format X, MAJ 0x66, SUB 0x001 (R162). -/
  | xclr (h : Hdr) (d : ExpReg) (a : Reg) (tier : Option (BitVec 2))
  /-- XLD, format X, MAJ 0x66, SUB 0x002 (R162). -/
  | xld (h : Hdr) (d : ExpReg) (a : Reg) (tier : Option (BitVec 2))
  /-- XST, format X, MAJ 0x66, SUB 0x003 (R162). -/
  | xst (h : Hdr) (d : ExpReg) (a : Reg) (tier : Option (BitVec 2))
  /-- XSET_KERN, format X, MAJ 0x66, SUB 0x004 (R162). -/
  | xsetKern (h : Hdr) (tier : Option (BitVec 2)) (kern : BitVec 3)
  /-- XSET_GAMMA, format X, MAJ 0x66, SUB 0x004 (R162). -/
  | xsetGamma (h : Hdr) (a : Reg) (tier : Option (BitVec 2))
  /-- XSET_ETA, format X, MAJ 0x66, SUB 0x004 (R162). -/
  | xsetEta (h : Hdr) (a : Reg) (tier : Option (BitVec 2))
  /-- XFORM, format X, MAJ 0x66, SUB 0x005 (R162). -/
  | xform (h : Hdr) (d : ExpReg) (a : Reg) (tier : Option (BitVec 2)) (n : BitVec 13)
  /-- XM2M, format X, MAJ 0x66, SUB 0x006 (R162). -/
  | xm2m (h : Hdr) (d : ExpReg) (a : ExpReg) (tier : Option (BitVec 2))
  /-- XM2L, format X, MAJ 0x66, SUB 0x007 (R162). -/
  | xm2l (h : Hdr) (d : ExpReg) (a : ExpReg) (tier : Option (BitVec 2))
  /-- XL2L, format X, MAJ 0x66, SUB 0x008 (R162). -/
  | xl2l (h : Hdr) (d : ExpReg) (a : ExpReg) (tier : Option (BitVec 2))
  /-- XEVAL, format X, MAJ 0x66, SUB 0x009 (R162). -/
  | xeval (h : Hdr) (a : Reg) (b : ExpReg) (tier : Option (BitVec 2)) (n : BitVec 13)
  /-- XM2P, format X, MAJ 0x66, SUB 0x00A (R162). -/
  | xm2p (h : Hdr) (a : Reg) (b : ExpReg) (tier : Option (BitVec 2)) (n : BitVec 13)
  /-- XADM, format X, MAJ 0x66, SUB 0x00B (R162). -/
  | xadm (h : Hdr) (d : PredReg) (a : ExpReg) (b : ExpReg) (tier : Option (BitVec 2))
  /-- CPY, format X, MAJ 0x67, SUB 0x001 (R331). -/
  | cpy (h : Hdr) (a : Reg) (scope : Scope)
  /-- CPYS, format X, MAJ 0x67, SUB 0x002 (R331). -/
  | cpys (h : Hdr) (a : Reg) (scope : Scope)
  /-- CPYG, format X, MAJ 0x67, SUB 0x003 (R331). -/
  | cpyg (h : Hdr) (a : Reg) (scope : Scope)
  /-- STAGE, format X, MAJ 0x67, SUB 0x004 (R384). -/
  | stage (h : Hdr) (a : Reg)
  /-- COLL, format X, MAJ 0x67, SUB 0x005 (R329). -/
  | coll (h : Hdr) (a : Reg) (ty : Ty) (scope : Scope) (kind : BitVec 2) (op : BitVec 2)
  /-- FINST, format X, MAJ 0x67, SUB 0x006 (R340). -/
  | finst (h : Hdr) (a : Reg)
  /-- FSTAT, format X, MAJ 0x67, SUB 0x007 (R342). -/
  | fstat (h : Hdr) (d : Reg) (a : Reg)
  /-- MARM, format X, MAJ 0x67, SUB 0x008 (R352). -/
  | marm (h : Hdr) (a : Reg)
  /-- MWAIT, format X, MAJ 0x67, SUB 0x009 (R352). -/
  | mwait (h : Hdr) (d : Reg) (a : Reg) (ne : Bool)
  /-- AADD, format X, MAJ 0x68, SUB 0x001 (R311). -/
  | aadd (h : Hdr) (d : Reg) (a : Reg) (b : Reg) (ty : Ty) (scope : Scope) (k : BitVec 8) (sc : Bool)
  /-- AMIN, format X, MAJ 0x68, SUB 0x002 (R311). -/
  | amin (h : Hdr) (d : Reg) (a : Reg) (b : Reg) (ty : Ty) (scope : Scope) (k : BitVec 8) (sc : Bool)
  /-- AMAX, format X, MAJ 0x68, SUB 0x003 (R311). -/
  | amax (h : Hdr) (d : Reg) (a : Reg) (b : Reg) (ty : Ty) (scope : Scope) (k : BitVec 8) (sc : Bool)
  /-- AXCHG, format X, MAJ 0x68, SUB 0x004 (R311). -/
  | axchg (h : Hdr) (d : Reg) (a : Reg) (b : Reg) (ty : Ty) (scope : Scope) (k : BitVec 8) (sc : Bool)
  /-- ACAS, format X, MAJ 0x68, SUB 0x005 (R311). -/
  | acas (h : Hdr) (d : Reg) (a : Reg) (b : Reg) (ty : Ty) (scope : Scope) (k : BitVec 8) (sc : Bool)
  /-- AAND, format X, MAJ 0x68, SUB 0x006 (R311). -/
  | aand (h : Hdr) (d : Reg) (a : Reg) (b : Reg) (ty : Ty) (scope : Scope) (k : BitVec 8) (sc : Bool)
  /-- AOR, format X, MAJ 0x68, SUB 0x007 (R311). -/
  | aor (h : Hdr) (d : Reg) (a : Reg) (b : Reg) (ty : Ty) (scope : Scope) (k : BitVec 8) (sc : Bool)
  /-- SLOTA, format X, MAJ 0x69, SUB 0x001 (R381). -/
  | slota (h : Hdr) (d : Reg) (a : Reg) (kind : BitVec 2)
  /-- SLOTF, format X, MAJ 0x69, SUB 0x002 (R381). -/
  | slotf (h : Hdr) (d : Reg) (a : Reg)
  /-- RVINIT, format X, MAJ 0x69, SUB 0x003 (R376). -/
  | rvinit (h : Hdr) (d : Reg) (a : Reg) (b : Reg)
  /-- RVARR, format X, MAJ 0x69, SUB 0x004 (R376). -/
  | rvarr (h : Hdr) (d : Reg) (a : Reg)
  /-- RVARR_ENG, format X, MAJ 0x69, SUB 0x004 (R376). -/
  | rvarrEng (h : Hdr) (d : Reg) (a : Reg)
  /-- RVWAIT, format X, MAJ 0x69, SUB 0x005 (R376). -/
  | rvwait (h : Hdr) (d : Reg) (a : Reg) (b : Reg)
  /-- EVSIG, format X, MAJ 0x69, SUB 0x006 (R337). -/
  | evsig (h : Hdr) (d : Reg) (a : Reg) (sc : Bool)
  /-- EVWAIT, format X, MAJ 0x69, SUB 0x007 (R337). -/
  | evwait (h : Hdr) (d : Reg) (a : Reg) (b : Reg)
  /-- MLOCK, format X, MAJ 0x69, SUB 0x008 (R337). -/
  | mlock (h : Hdr) (d : Reg) (a : Reg)
  /-- MUNLK, format X, MAJ 0x69, SUB 0x009 (R337). -/
  | munlk (h : Hdr) (d : Reg) (a : Reg)
  /-- ACQ, format X, MAJ 0x69, SUB 0x00A (R314). -/
  | acq (h : Hdr) (d : Reg) (a : Reg) (sc : Bool)
  /-- REL, format X, MAJ 0x69, SUB 0x00B (R369). -/
  | rel (h : Hdr) (d : Reg) (a : Reg) (sc : Bool)
  /-- BIND, format X, MAJ 0x69, SUB 0x00C (R218). -/
  | bind (h : Hdr) (a : Reg) (b : Reg) (scope : Scope) (n : BitVec 30)
  /-- FENCE, format X, MAJ 0x69, SUB 0x00D (R215). -/
  | fence (h : Hdr) (scope : Scope)
  /-- FENCEX, format X, MAJ 0x69, SUB 0x00E (R215). -/
  | fencex (h : Hdr) (scope : Scope) (path : Path) (p2 : Path)
  /-- SLEEP, format X, MAJ 0x6A, SUB 0x001 (R280). -/
  | sleep (h : Hdr) (a : Reg)
  /-- TWAIT, format X, MAJ 0x6A, SUB 0x002 (R280). -/
  | twait (h : Hdr) (d : Reg) (a : Reg) (b : MsgReg)
  /-- IDEM, format X, MAJ 0x6B, SUB 0x001 (R266). -/
  | idem (h : Hdr)
  /-- IDEM_END, format X, MAJ 0x6B, SUB 0x001 (R266). -/
  | idemEnd (h : Hdr)
  /-- CTXSV, format X, MAJ 0x6B, SUB 0x002 (R332). -/
  | ctxsv (h : Hdr) (d : Reg) (a : Reg) (all : Bool)
  /-- CTXLD, format X, MAJ 0x6B, SUB 0x003 (R332). -/
  | ctxld (h : Hdr) (d : Reg) (a : Reg) (all : Bool)
  /-- PHASE_RELEASE: R31: the lehr controller tries to release phase `phase` of the kernel's superstep in column `col`. -/
  | phaseRelease
  /-- RELEASE_NOTICE: R33: the release notice of the kernel's next superstep. -/
  | releaseNotice
  /-- PHASE_END: R30: cycle L of the phase the core runs. -/
  | phaseEnd
  /-- GANG_BARRIER_TIMEOUT: R121: three cycles after the GANG of a member. -/
  | gangBarrierTimeout
  /-- STOP: R45: the STOP beat of a timetable group. -/
  | stop
  /-- GROUP_HALT: R45, R36, R260: the group has drained and halted. -/
  | groupHalt
  /-- PREEMPT: R248: a kernel is pre-empted, at a superstep boundary or by freeze. -/
  | preempt
  /-- RESUME_REQUEST: R260: on resume the gaffer enters c0 at RVEC. -/
  | resumeRequest
  /-- THERM_DELIVERY: R270: THERM reaches the partition's service core. -/
  | thermDelivery
  /-- MESSAGE_ARRIVAL: R379: a SEND of context `sctx` of core `src` arrives. -/
  | messageArrival
  /-- MGET_PORT_READ: R357: an MGET request at the bank message port. -/
  | mgetPortRead
  /-- MGET_REPLY: R357: the reply of an MGET; none when the line held an uncorrectable word. -/
  | mgetReply
  /-- MSGB_PORT_WRITE: R357: an MSGB of context `sctx` of core `src` at the bank message port, which it reached at tick `first`. -/
  | msgbPortWrite
  /-- LDX_REPLY: R187: the reply of a far load. -/
  | ldxReply
  /-- STX_COMPLETE: R189: a far store is performed or faults. -/
  | stxComplete
  /-- ENGINE_MESSAGE_ARRIVAL: R187: an engine message fills a message register. -/
  | engineMessageArrival
  /-- SLICE_OP_START: R126: the operation at the head of the slice queue starts. -/
  | sliceOpStart
  /-- SLICE_OP_COMPLETE: R132: the running slice operation finishes. -/
  | sliceOpComplete
  /-- MWLD_COMPLETE: R124: the running MWLD finishes. -/
  | mwldComplete
  /-- MMAS_COMPLETE: R133: the running MMAS finishes. -/
  | mmasComplete
  /-- VERTICAL_OP_START: R148: the oldest waiting vertical operation starts. -/
  | verticalOpStart
  /-- VERTICAL_OP_END: R148: the running vertical operation ends. -/
  | verticalOpEnd
  /-- RSTR_MERGE: R145: the parent port merges its oldest complete set. -/
  | rstrMerge
  /-- LANE_STATE_CHANGE: R152: the lane of a child core degrades. -/
  | laneStateChange
  /-- EXPANSION_OP_START: R164: the instruction at the head of the expansion queue starts. -/
  | expansionOpStart
  /-- EXPANSION_OP_END: R164: the running expansion instruction ends. -/
  | expansionOpEnd
  /-- ENGINE_COMMAND_START: R200: a command starts. -/
  | engineCommandStart
  /-- ENGINE_UNIT: R198: the engine moves one unit. -/
  | engineUnit
  /-- ENGINE_STAMP_WRITE: R201: the engine writes the stamp and frees the slot. -/
  | engineStampWrite
  /-- STATIC_ENTRY_START: R206: the lowest released static entry starts. -/
  | staticEntryStart
  /-- INSTALL_COMPLETE: R192: an install ends. -/
  | installComplete
  /-- COLL_COMPLETE: R207: the contributions of all ranks are in; `same` when every member issued the same collective. -/
  | collComplete
  /-- TRANSLATION_WALK: R184: a walk ends and its translation is cached. -/
  | translationWalk
  /-- STAGING_FILL: R191: a staging line is filled. -/
  | stagingFill
  /-- ATOMIC_SLOT: R237: the slot of a bank atomic. -/
  | atomicSlot
  /-- CLUSTER_ATOMIC_REPLY: R237: the reply of a .cluster atomic. -/
  | clusterAtomicReply
  /-- DEVICE_ATOMIC_REPLY: R236: a .device atomic is performed and returns. -/
  | deviceAtomicReply
  /-- OBJECT_REPLY: R219: the object word of ACQ or REL returns. -/
  | objectReply
  /-- SC_ANNOUNCE: R221: an SC operation tries to be announced. -/
  | scAnnounce
  /-- SC_DELIVERY: R313: the SC operations of a window are performed. -/
  | scDelivery
  /-- RV_ROOT_FORWARD: R229: an RVINIT (with its count) or an arrival of a context takes effect at the root line. -/
  | rvRootForward
  /-- FIRE_ARRIVAL: R233: a fire reaches a waiter. -/
  | fireArrival
  /-- EVENT_CHAIN_FORWARD: R229, R232: an event message reaches the next line of a chain, or a team point's new C another line of the team. -/
  | eventChainForward
  /-- SLEEP_EXPIRY: R280: a SLEEP count runs out. -/
  | sleepExpiry
  /-- TWAIT_EXPIRY: R280: a TWAIT count runs out. -/
  | twaitExpiry
  /-- FAULT_RECORD_DRAIN: R257: the oldest record of a cluster buffer drains. -/
  | faultRecordDrain
  /-- TASK_START: R241: the gaffer starts a task of the partition. -/
  | taskStart
  /-- NODE_KERNEL: R247: a KERNEL node. -/
  | nodeKernel
  /-- KERNEL_COMPLETE: R245: the gaffer finds whether a kernel has completed. -/
  | kernelComplete
  /-- NODE_COPY: R243: a COPY node. -/
  | nodeCopy
  /-- NODE_INSTALL: R243: an INSTALL node. -/
  | nodeInstall
  /-- NODE_COND: R244: a COND node. -/
  | nodeCond
  /-- NODE_LOOP: R244: a LOOP node evaluates its condition. -/
  | nodeLoop
  /-- NODE_SWITCH: R244: a SWITCH node. -/
  | nodeSwitch
  /-- NODE_SIGNAL: R244: a SIGNAL node. -/
  | nodeSignal
  /-- SIGNAL_COMPLETE: R244: a SIGNAL is performed at system scope, or its atomic failed. -/
  | signalComplete
  /-- NODE_WAIT: R244: a WAIT node reads its word; `since` is the TIME it began. -/
  | nodeWait
  /-- WAIT_TIMEOUT: R244: a WAIT node's timeout expires. -/
  | waitTimeout
  /-- NODE_SUCCESSOR: R245: the node at this address is read and started; 0 ends the chain. -/
  | nodeSuccessor
  /-- TASK_STAMP_WRITE: R242: the task's stamp is written. -/
  | taskStampWrite
  /-- QCTL_WRITE: R238. -/
  | qctlWrite
  /-- QPTR_WRITE: R238. -/
  | qptrWrite
  /-- PARTCFG_WRITE: R286. -/
  | partcfgWrite
  /-- VFBIND_WRITE: R286. -/
  | vfbindWrite
  /-- BEATCTL_REQ_WRITE: R273: a write of BEATCTL. -/
  | beatctlReqWrite
  /-- BEATCTL_RESTORE: R273: a write of 1 to RESTORE. -/
  | beatctlRestore
  /-- BEAT_CHANGE: R274: the pending code takes effect. -/
  | beatChange
  /-- TCTL_WRITE: R282. -/
  | tctlWrite
  /-- PCAP_WRITE: R283. -/
  | pcapWrite
  /-- PFLOOR_WRITE: R283. -/
  | pfloorWrite
  /-- HLIM_WRITE: R284. -/
  | hlimWrite
  /-- IBUDGET_WRITE: R287. -/
  | ibudgetWrite
  /-- FQCTL_WRITE: R257. -/
  | fqctlWrite
  /-- TINV: R185: the invalidation starts. -/
  | tinv
  /-- TINV_COMPLETE: R185: the invalidation completes. -/
  | tinvComplete
  /-- ROUTING_ENTRY_WRITE: R292. -/
  | routingEntryWrite
  /-- SWAP: R292: a write of 1 to SWAP. -/
  | swap
  /-- ROUTE_BANK_SWAP: R292: the banks swap. -/
  | routeBankSwap
  /-- PSTAT_CLR: R290. -/
  | pstatClr
  /-- ATTEST_REQUEST: R300: a write of 1 to mailbox offset 0x28. -/
  | attestRequest
  /-- ATTEST_COMPLETE: R300: the report is written. -/
  | attestComplete
  /-- MGMT_REGISTER_WRITE: R285, R287: an aligned 8-byte write of the physical function's window. -/
  | mgmtRegisterWrite
  /-- INITIATE_FLR: R272: a reset of a virtual function, or of the physical function (none). -/
  | initiateFlr
  /-- FLR_DRAIN_DONE: R272: steps 3 to 5. -/
  | flrDrainDone
  /-- FLR_COMPLETE: R309: step 6 completes. -/
  | flrComplete
  /-- SENSOR_SAMPLE: R281: the readings of all sensors, by index. -/
  | sensorSample
  /-- SELF_THROTTLE_STEP: R282. -/
  | selfThrottleStep
  /-- HARD_LIMIT_STEP: R284: measured module power and whether a domain current is above its limit. -/
  | hardLimitStep
  /-- BUDGET_REFILL: R194. -/
  | budgetRefill
  /-- FLIT_RECEIVE: R295: a flit enters a port. -/
  | flitReceive
  /-- DRAIN_MARKER: R294: a drain marker arrives. -/
  | drainMarker
  /-- FLOW_LOSS_TIMEOUT: R294: 20 µs after a marker. -/
  | flowLossTimeout
  /-- LINK_EVENT: R296: a port failure, shed or return is detected. -/
  | linkEvent
  /-- NOTICE_RECEIVE: R296: a link notice arrives. -/
  | noticeReceive
  /-- RETRAIN_COMPLETE: R297. -/
  | retrainComplete
  /-- FLOW_CONTROL_SIGNAL: R297: a receiver's stop or go. -/
  | flowControlSignal
  /-- POWER_ON: R299: the boot ROM verifies the firmware and bring-up runs. -/
  | powerOn
  /-- FSTAT_RESULT: R342: the extent's counters return. -/
  | fstatResult
  /-- PARTCFG_CHANGE_COMPLETE: R286: an accepted MODE change ends. -/
  | partcfgChangeComplete
  /-- PORT_TRAINING_COMPLETE: R296: a port comes up. -/
  | portTrainingComplete
  /-- SOFT_ERROR: R178: bits flip in a word. -/
  | softError
deriving DecidableEq, Repr

/-- The row of the opcode table that a step of another agent is. -/
def Event.row : Event → Instr
  | .phaseRelease _ _ _ => .phaseRelease
  | .releaseNotice _ => .releaseNotice
  | .phaseEnd _ => .phaseEnd
  | .gangBarrierTimeout _ => .gangBarrierTimeout
  | .stop _ => .stop
  | .groupHalt _ => .groupHalt
  | .preempt _ _ => .preempt
  | .resumeRequest _ => .resumeRequest
  | .thermDelivery _ _ _ => .thermDelivery
  | .messageArrival _ _ _ _ _ _ _ => .messageArrival
  | .mgetPortRead _ _ _ _ _ _ _ _ => .mgetPortRead
  | .mgetReply _ _ _ _ _ => .mgetReply
  | .msgbPortWrite _ _ _ _ _ _ _ _ => .msgbPortWrite
  | .ldxReply _ _ _ _ _ _ => .ldxReply
  | .stxComplete _ _ _ _ _ _ => .stxComplete
  | .engineMessageArrival _ _ _ _ => .engineMessageArrival
  | .sliceOpStart _ => .sliceOpStart
  | .sliceOpComplete _ => .sliceOpComplete
  | .mwldComplete _ => .mwldComplete
  | .mmasComplete _ => .mmasComplete
  | .verticalOpStart _ => .verticalOpStart
  | .verticalOpEnd _ => .verticalOpEnd
  | .rstrMerge _ => .rstrMerge
  | .laneStateChange _ _ => .laneStateChange
  | .expansionOpStart _ => .expansionOpStart
  | .expansionOpEnd _ => .expansionOpEnd
  | .engineCommandStart _ _ => .engineCommandStart
  | .engineUnit _ _ => .engineUnit
  | .engineStampWrite _ _ => .engineStampWrite
  | .staticEntryStart _ => .staticEntryStart
  | .installComplete _ _ => .installComplete
  | .collComplete _ _ _ _ => .collComplete
  | .translationWalk _ _ _ => .translationWalk
  | .stagingFill _ => .stagingFill
  | .atomicSlot _ => .atomicSlot
  | .clusterAtomicReply _ _ _ _ _ => .clusterAtomicReply
  | .deviceAtomicReply _ => .deviceAtomicReply
  | .objectReply _ _ _ _ _ _ => .objectReply
  | .scAnnounce _ _ _ => .scAnnounce
  | .scDelivery _ => .scDelivery
  | .rvRootForward _ _ _ _ _ => .rvRootForward
  | .fireArrival _ _ _ => .fireArrival
  | .eventChainForward _ _ _ => .eventChainForward
  | .sleepExpiry _ _ => .sleepExpiry
  | .twaitExpiry _ _ => .twaitExpiry
  | .faultRecordDrain _ _ => .faultRecordDrain
  | .taskStart _ => .taskStart
  | .nodeKernel _ _ _ => .nodeKernel
  | .kernelComplete _ => .kernelComplete
  | .nodeCopy _ _ _ => .nodeCopy
  | .nodeInstall _ _ _ => .nodeInstall
  | .nodeCond _ _ _ => .nodeCond
  | .nodeLoop _ _ _ => .nodeLoop
  | .nodeSwitch _ _ _ => .nodeSwitch
  | .nodeSignal _ _ _ => .nodeSignal
  | .signalComplete _ _ _ _ => .signalComplete
  | .nodeWait _ _ _ _ => .nodeWait
  | .waitTimeout _ _ => .waitTimeout
  | .nodeSuccessor _ _ _ => .nodeSuccessor
  | .taskStampWrite _ => .taskStampWrite
  | .qctlWrite _ _ _ => .qctlWrite
  | .qptrWrite _ _ _ => .qptrWrite
  | .partcfgWrite _ => .partcfgWrite
  | .vfbindWrite _ _ => .vfbindWrite
  | .beatctlReqWrite _ => .beatctlReqWrite
  | .beatctlRestore => .beatctlRestore
  | .beatChange => .beatChange
  | .tctlWrite _ => .tctlWrite
  | .pcapWrite _ => .pcapWrite
  | .pfloorWrite _ _ => .pfloorWrite
  | .hlimWrite _ => .hlimWrite
  | .ibudgetWrite _ _ => .ibudgetWrite
  | .fqctlWrite _ _ => .fqctlWrite
  | .tinv _ => .tinv
  | .tinvComplete _ => .tinvComplete
  | .routingEntryWrite _ _ _ => .routingEntryWrite
  | .swap => .swap
  | .routeBankSwap => .routeBankSwap
  | .pstatClr _ => .pstatClr
  | .attestRequest _ => .attestRequest
  | .attestComplete _ => .attestComplete
  | .mgmtRegisterWrite _ _ _ _ => .mgmtRegisterWrite
  | .initiateFlr _ => .initiateFlr
  | .flrDrainDone _ => .flrDrainDone
  | .flrComplete _ => .flrComplete
  | .sensorSample _ => .sensorSample
  | .selfThrottleStep => .selfThrottleStep
  | .hardLimitStep _ _ => .hardLimitStep
  | .budgetRefill => .budgetRefill
  | .flitReceive _ _ => .flitReceive
  | .drainMarker _ => .drainMarker
  | .flowLossTimeout _ _ _ => .flowLossTimeout
  | .linkEvent _ _ => .linkEvent
  | .noticeReceive _ _ => .noticeReceive
  | .retrainComplete _ => .retrainComplete
  | .flowControlSignal _ _ => .flowControlSignal
  | .powerOn _ => .powerOn
  | .fstatResult _ _ _ _ => .fstatResult
  | .partcfgChangeComplete => .partcfgChangeComplete
  | .portTrainingComplete _ => .portTrainingComplete
  | .softError _ _ => .softError

end Sys2Proof
end

