-- ==== Sys2Proof/WellFormed.lean ====
section
/-! DEFINITION. Which terms of the syntax are instructions of the part: the values of fields that each entry accepts. -/

namespace Sys2Proof

/-- G = 0 with GN = 1 raises ILLOP (R76). -/
def Hdr.ok (h : Hdr) : Bool := !(h.g == 0 && h.gn)

/-- The set F of R391. -/
def Ty.isF : Ty → Bool
  | .f32 | .f16 | .bf16 => true
  | _ => false

/-- The set I of R391. -/
def Ty.isI : Ty → Bool
  | .i8 | .i16 | .i32 => true
  | _ => false

/-- The set U of R391. -/
def Ty.isU : Ty → Bool
  | .n8 | .n16 | .n32 => true
  | _ => false

/-- The 8-bit float types. -/
def Ty.is8F : Ty → Bool
  | .e4m3 | .e5m2 => true
  | _ => false

/-- The code types. -/
def Ty.isCode : Ty → Bool
  | .ql4 | .ti4 => true
  | _ => false

/-- F, I or U. -/
def Ty.isFIU (t : Ty) : Bool := t.isF || t.isI || t.isU

/-- Width in bits of a lane or element of a type. -/
def Ty.width : Ty → Nat
  | .a80 => 80
  | .e4m3 | .e5m2 | .i8 | .n8 => 8
  | .f16 | .bf16 | .i16 | .n16 => 16
  | .f32 | .i32 | .n32 => 32
  | .i64 | .n64 => 64
  | .ql4 | .ti4 => 4

/-- Rounding suffixes and .sat: RND is non-zero only in a rounded float form, SAT only where the entry lists .sat (R391). -/
def vecMods (t : Ty) (rnd : Rnd) (sat : Bool) (satOk : Bool) : Bool :=
  (t.isF || rnd == .rne) && (satOk || !sat)

/-- Lanes and parts of a conversion (R402): k parts. -/
def cvtParts (t t2 : Ty) : Nat := max t.width t2.width / min t.width t2.width

/-- Types of VCVT (R402). -/
def Ty.cvtOk (t : Ty) : Bool := t.isFIU || t.is8F

/-- The operand pairs of MMA (R118). -/
def mmaPair : Ty → Ty → Bool
  | .e4m3, b | .e5m2, b => b.is8F || b.isCode
  | .i8, b => b == .i8 || b.isCode
  | .n8, b => b == .i8
  | .bf16, b => b == .bf16
  | .f16, b => b == .f16
  | _, _ => false

/-- K and koff of an MMA (R122). -/
def mmaShape (b : Ty) (k : BitVec 14) (koff : BitVec 13) : Bool :=
  if b.isCode then k.toNat == 64 && koff.toNat % 64 == 0
  else k.toNat % 16 == 0 && 16 ≤ k.toNat && k.toNat ≤ 8192 && koff.toNat % 16 == 0

/-- TYPE and K of an MWLD (R124, R125). -/
def mwldShape (t : Ty) (k : BitVec 14) : Bool :=
  match t with
  | .e4m3 | .e5m2 | .i8 => 0 < k.toNat && k.toNat % 16 == 0 && k.toNat ≤ 8192
  | .f16 | .bf16 => 0 < k.toNat && k.toNat % 16 == 0 && k.toNat ≤ 4096
  | .ql4 | .ti4 => 0 < k.toNat && k.toNat % 64 == 0 && k.toNat ≤ 8192
  | _ => false

/-- Types of the bank atomics (R311): the unsigned ones for AMIN and AMAX only. -/
def atomTy (t : Ty) (minMax : Bool) : Bool :=
  t.isI || t == .i64 || (minMax && (t.isU || t == .n64))

/-- Scope and core index of a bank atomic (R311). -/
def atomScope (sc : Scope) (k : BitVec 8) : Bool :=
  match sc with
  | .cluster => true
  | .core | .device => k == 0
  | _ => false

/-- The low two bits of a long displacement are zero (R77, R323). -/
def wordDisp (lit : DWord) : Bool := lit.toNat % 4 == 0

/-- Frame sizes (R65). -/
def frameOk (n : Nat) : Bool := n == 8 || n == 12 || n == 16 || n == 20 || n == 24

/-- Window size of a REP from its WIN code (R371): two to the number of trailing zero bits of WIN. -/
def repSize (win : Nat) : Nat :=
  if win % 2 = 1 then 1 else if win % 4 = 2 then 2 else if win % 8 = 4 then 4
  else if win % 16 = 8 then 8 else if win % 32 = 16 then 16 else 32

/-- Window origin of a REP from its WIN code (R371). -/
def repBase (win : Nat) : Nat := (win - repSize win) / 2

/-- REP's operands (R371, R372): WIN is not zero and no mask bit stands at or above 3k. -/
def repOk (winl : BitVec 5) (winh : Bool) (km1 : BitVec 3) (mask : BitVec 24) : Bool :=
  !(winl == 0 && !winh) && mask.toNat < 2 ^ (3 * (km1.toNat + 1))


/-- What an instruction's entry accepts beyond the range of its fields: guard, type codes, scopes and values.
An ill-formed term is an encoding that raises ILLOP (R76, R78, R81). The machine's own steps are no encodings. -/
def Instr.wellFormed : Instr → Bool
  | .add h _ _ _ => h.ok
  | .sub h _ _ _ => h.ok
  | .mul h _ _ _ => h.ok
  | .mulh h _ _ _ _ => h.ok
  | .div h _ _ _ _ => h.ok
  | .rem h _ _ _ _ => h.ok
  | .and h _ _ _ => h.ok
  | .andn h _ _ _ => h.ok
  | .or h _ _ _ => h.ok
  | .xor h _ _ _ => h.ok
  | .shl h _ _ _ => h.ok
  | .shr h _ _ _ => h.ok
  | .sra h _ _ _ => h.ok
  | .rot h _ _ _ => h.ok
  | .clz h _ _ => h.ok
  | .ctz h _ _ => h.ok
  | .popc h _ _ => h.ok
  | .min h _ _ _ _ => h.ok
  | .max h _ _ _ _ => h.ok
  | .sel h _ _ _ => h.ok
  | .mov h _ _ => h.ok
  | .sxt h _ _ _ => h.ok
  | .zxt h _ _ _ => h.ok
  | .cmpEq h _ _ _ _ => h.ok
  | .cmpNe h _ _ _ _ => h.ok
  | .cmpLt h _ _ _ _ => h.ok
  | .cmpLe h _ _ _ _ => h.ok
  | .addi _ _ _ _ => true
  | .addiLong h _ _ _ => h.ok
  | .li _ _ _ => true
  | .liLong h _ _ => h.ok
  | .cmpiEq _ _ _ _ => true
  | .cmpiNe _ _ _ _ => true
  | .cmpiLt _ _ _ _ => true
  | .cmpiLe _ _ _ _ => true
  | .cmpiGt _ _ _ _ => true
  | .cmpiGe _ _ _ _ => true
  | .cmpiLtN64 _ _ _ _ => true
  | .cmpiLeN64 _ _ _ _ => true
  | .cmpiGtN64 _ _ _ _ => true
  | .cmpiGeN64 _ _ _ _ => true
  | .cmpiLong h _ _ _ _ => h.ok
  | .pand h _ _ _ => h.ok
  | .por h _ _ _ => h.ok
  | .pxor h _ _ _ => h.ok
  | .pnot h _ _ => h.ok
  | .pmov h _ _ => h.ok
  | .br h _ => h.ok
  | .brLong h lit => h.ok && wordDisp lit
  | .jmp _ _ _ => true
  | .jmpLong _ _ lit => wordDisp lit
  | .jmpi h _ => h.ok
  | .call h _ => h.ok
  | .callLong h lit => h.ok && wordDisp lit
  | .calli h _ => h.ok
  | .ret _ _ => true
  | .enter _ _ => true
  | .enterLong h _ => h.ok
  | .leave h => h.ok
  | .nop h => h.ok
  | .halt h => h.ok
  | .ldI8 _ _ _ _ => true
  | .ldI16 _ _ _ _ => true
  | .ldI32 _ _ _ _ => true
  | .ldI64 _ _ _ _ => true
  | .ldN8 _ _ _ _ => true
  | .ldN16 _ _ _ _ => true
  | .ldN32 _ _ _ _ => true
  | .ldLong h _ _ _ _ => h.ok
  | .stI8 _ _ _ _ => true
  | .stI16 _ _ _ _ => true
  | .stI32 _ _ _ _ => true
  | .stI64 _ _ _ _ => true
  | .stLong h _ _ _ _ => h.ok
  | .vld _ _ _ _ => true
  | .vldLong h _ _ _ => h.ok
  | .vst _ _ _ _ => true
  | .vstLong h _ _ _ => h.ok
  | .bldI8 _ _ _ _ => true
  | .bldI16 _ _ _ _ => true
  | .bldI32 _ _ _ _ => true
  | .bldI64 _ _ _ _ => true
  | .bldN8 _ _ _ _ => true
  | .bldN16 _ _ _ _ => true
  | .bldN32 _ _ _ _ => true
  | .bldLong h _ _ _ _ => h.ok
  | .bstI8 _ _ _ _ => true
  | .bstI16 _ _ _ _ => true
  | .bstI32 _ _ _ _ => true
  | .bstI64 _ _ _ _ => true
  | .bstLong h _ _ _ _ => h.ok
  | .vbld _ _ _ _ => true
  | .vbldLong h _ _ _ => h.ok
  | .vbst _ _ _ _ => true
  | .vbstLong h _ _ _ => h.ok
  | .blook h _ _ => h.ok
  | .btag h _ _ _ => h.ok
  | .binv h _ _ => h.ok
  | .send h _ _ _ => h.ok
  | .mget h _ _ _ => h.ok
  | .msgb h _ _ _ _ => h.ok
  | .mclr h _ => h.ok
  | .ldx h _ _ => h.ok
  | .stx h _ _ => h.ok
  | .trap _ imm => imm.toNat < 1024
  | .trapLong h lit => h.ok && lit.toNat < 1024
  | .eret _ _ => true
  | .sysr _ _ _ => true
  | .sysrLong h _ lit => h.ok && lit.toNat < 2048
  | .sysw _ _ _ => true
  | .syswLong h _ lit => h.ok && lit.toNat < 2048
  | .yield h => h.ok
  | .ext h _ _ ty _ pos wm1 => h.ok && (ty == .i64 || ty == .n64) && pos.toNat + wm1.toNat + 1 ≤ 64
  | .ins h _ _ _ pos wm1 => h.ok && pos.toNat + wm1.toNat + 1 ≤ 64
  | .lea h _ _ _ _ sh _ => h.ok && sh.toNat < 7
  | .leaXl h _ _ _ _ sh _ => h.ok && sh.toNat < 7
  | .rep h _ _ winl winh _ km1 mask => h.ok && repOk winl winh km1 mask
  | .vlds h _ _ _ ty _ _ => h.ok && (ty.isFIU || ty.is8F)
  | .vsts h _ _ _ ty _ _ => h.ok && (ty.isFIU || ty.is8F)
  | .vgath h _ _ _ ty _ _ => h.ok && (ty == .f32 || ty == .i32 || ty == .n32)
  | .vscat h _ _ _ ty _ _ => h.ok && (ty == .f32 || ty == .i32 || ty == .n32)
  | .vadd h _ _ _ ty rnd sat _ => h.ok && ty.isFIU && vecMods ty rnd sat (!ty.isF)
  | .vsub h _ _ _ ty rnd sat _ => h.ok && ty.isFIU && vecMods ty rnd sat (!ty.isF)
  | .vmul h _ _ _ ty rnd sat _ => h.ok && ty.isFIU && vecMods ty rnd sat (!ty.isF)
  | .vfma h _ _ _ ty _ _ _ => h.ok && ty.isF
  | .vfms h _ _ _ ty _ _ _ => h.ok && ty.isF
  | .vneg h _ _ ty sat _ => h.ok && (ty.isF || ty.isI) && (ty.isI || !sat)
  | .vabs h _ _ ty sat _ => h.ok && (ty.isF || ty.isI) && (ty.isI || !sat)
  | .vmin h _ _ _ ty _ => h.ok && ty.isFIU
  | .vmax h _ _ _ ty _ => h.ok && ty.isFIU
  | .vdiv h _ _ _ ty _ _ => h.ok && ty.isF
  | .vsqrt h _ _ ty _ _ => h.ok && ty.isF
  | .vrcp h _ _ ty _ _ => h.ok && ty.isF
  | .vrsq h _ _ ty _ _ => h.ok && ty.isF
  | .vexp2f h _ _ ty _ => h.ok && ty == .f32
  | .vrndi h _ _ ty _ _ => h.ok && ty.isF
  | .vinsx h _ _ _ ty _ _ _ => h.ok && ty.isF
  | .vextx h _ _ ty _ => h.ok && ty.isF
  | .vcvt h _ _ ty ty2 rnd _ _ part => h.ok && ty.cvtOk && ty2.cvtOk && ty != ty2 && part.toNat < cvtParts ty ty2 && (ty.isF || ty.is8F || ((ty2.isF || ty2.is8F)) || rnd == .rne)
  | .vcmp h _ _ _ ty _ cond pw p => h.ok && ty.isFIU && cond.toNat < 6 && (pw || p == 0)
  | .vsel h _ _ _ ty _ _ => h.ok && ty.isFIU
  | .vand h _ _ _ _ => h.ok
  | .vor h _ _ _ _ => h.ok
  | .vxor h _ _ _ _ => h.ok
  | .vshl h _ _ _ ty _ _ => h.ok && (ty.isI || ty.isU)
  | .vshr h _ _ _ ty _ => h.ok && (ty.isI || ty.isU)
  | .vsra h _ _ _ ty _ => h.ok && (ty.isI || ty.isU)
  | .vperm h _ _ _ ty _ => h.ok && ty.isFIU
  | .vsplat h _ _ ty _ => h.ok && ty.isFIU
  | .vsplatXl h _ ty _ _ => h.ok && ty.isFIU
  | .vmov h _ _ _ => h.ok
  | .vreds h _ _ ty rnd sat _ => h.ok && ty.isFIU && vecMods ty rnd sat (!ty.isF)
  | .vredx h _ _ ty _ _ => h.ok && ty.isFIU
  | .vclass h _ _ ty _ => h.ok && ty.isF
  | .vcode h _ _ ty ty2 _ seg => h.ok && ty.isI && ty2.isCode && seg.toNat < 128 / (512 / ty.width)
  | .vql4 h _ _ ty ty2 _ _ => h.ok && ty.isCode && ty2 == .f32
  | .vscac h _ _ _ ty ty2 _ _ _ ql => h.ok && ty == .f32 && (ty2 == .i32 || ty2 == .f32) && !(ql && ty2 == .f32)
  | .vker h _ _ ty _ => h.ok && ty == .f32
  | .gang h => h.ok
  | .mma h _ _ ty ty2 k koff _ _ => h.ok && mmaPair ty ty2 && mmaShape ty2 k koff
  | .mmas h _ _ _ ty ty2 => h.ok && mmaPair ty ty2
  | .mwld h _ _ ty k _ => h.ok && mwldShape ty k
  | .mzero h _ => h.ok
  | .mrd h _ _ ty _ row => h.ok && (ty == .f32 || (ty == .bf16 && row.toNat % 2 == 0))
  | .mscac h _ _ _ => h.ok
  | .mstat h _ => h.ok
  | .rstr h _ _ _ ty _ _ => h.ok && ty == .f32
  | .prlg h _ _ _ ty _ _ => h.ok && ty == .f32
  | .wsld h _ _ => h.ok
  | .xclr h _ _ _ => h.ok
  | .xld h _ _ _ => h.ok
  | .xst h _ _ _ => h.ok
  | .xsetKern h _ kern => h.ok && kern.toNat < 5
  | .xsetGamma h _ _ => h.ok
  | .xsetEta h _ _ => h.ok
  | .xform h _ _ _ n => h.ok && 1 ≤ n.toNat && n.toNat ≤ 4096
  | .xm2m h _ _ _ => h.ok
  | .xm2l h _ _ _ => h.ok
  | .xl2l h _ _ _ => h.ok
  | .xeval h _ _ _ n => h.ok && 1 ≤ n.toNat && n.toNat ≤ 4096
  | .xm2p h _ _ _ n => h.ok && 1 ≤ n.toNat && n.toNat ≤ 4096
  | .xadm h _ _ _ _ => h.ok
  | .cpy h _ _ => h.ok
  | .cpys h _ _ => h.ok
  | .cpyg h _ _ => h.ok
  | .stage h _ => h.ok
  | .coll h _ ty _ kind op => h.ok && (ty == .f32 || ty == .bf16 || ty == .i32 || ty == .i64) && kind.toNat < 3 && op.toNat < 3 && (kind != 2 || op == 0)
  | .finst h _ => h.ok
  | .fstat h _ _ => h.ok
  | .marm h _ => h.ok
  | .mwait h _ _ _ => h.ok
  | .aadd h _ _ _ ty scope k _ => h.ok && atomTy ty false && atomScope scope k
  | .amin h _ _ _ ty scope k _ => h.ok && atomTy ty true && atomScope scope k
  | .amax h _ _ _ ty scope k _ => h.ok && atomTy ty true && atomScope scope k
  | .axchg h _ _ _ ty scope k _ => h.ok && atomTy ty false && atomScope scope k
  | .acas h _ _ _ ty scope k _ => h.ok && atomTy ty false && atomScope scope k
  | .aand h _ _ _ ty scope k _ => h.ok && atomTy ty false && atomScope scope k
  | .aor h _ _ _ ty scope k _ => h.ok && atomTy ty false && atomScope scope k
  | .slota h _ a kind => h.ok && kind.toNat < 3 && (kind == 2 || a == 0)
  | .slotf h _ _ => h.ok
  | .rvinit h _ _ _ => h.ok
  | .rvarr h _ _ => h.ok
  | .rvarrEng h _ _ => h.ok
  | .rvwait h _ _ _ => h.ok
  | .evsig h _ _ _ => h.ok
  | .evwait h _ _ _ => h.ok
  | .mlock h _ _ => h.ok
  | .munlk h _ _ => h.ok
  | .acq h _ _ _ => h.ok
  | .rel h _ _ _ => h.ok
  | .bind h _ _ _ n => h.ok && n.toNat % 64 == 0
  | .fence h _ => h.ok
  | .fencex h _ _ _ => h.ok
  | .sleep h _ => h.ok
  | .twait h _ _ _ => h.ok
  | .idem h => h.ok
  | .idemEnd h => h.ok
  | .ctxsv h _ _ _ => h.ok
  | .ctxld h _ _ _ => h.ok
  | .phaseRelease => true
  | .releaseNotice => true
  | .phaseEnd => true
  | .gangBarrierTimeout => true
  | .stop => true
  | .groupHalt => true
  | .preempt => true
  | .resumeRequest => true
  | .thermDelivery => true
  | .messageArrival => true
  | .mgetPortRead => true
  | .mgetReply => true
  | .msgbPortWrite => true
  | .ldxReply => true
  | .stxComplete => true
  | .engineMessageArrival => true
  | .sliceOpStart => true
  | .sliceOpComplete => true
  | .mwldComplete => true
  | .mmasComplete => true
  | .verticalOpStart => true
  | .verticalOpEnd => true
  | .rstrMerge => true
  | .laneStateChange => true
  | .expansionOpStart => true
  | .expansionOpEnd => true
  | .engineCommandStart => true
  | .engineUnit => true
  | .engineStampWrite => true
  | .staticEntryStart => true
  | .installComplete => true
  | .collComplete => true
  | .translationWalk => true
  | .stagingFill => true
  | .atomicSlot => true
  | .clusterAtomicReply => true
  | .deviceAtomicReply => true
  | .objectReply => true
  | .scAnnounce => true
  | .scDelivery => true
  | .rvRootForward => true
  | .fireArrival => true
  | .eventChainForward => true
  | .sleepExpiry => true
  | .twaitExpiry => true
  | .faultRecordDrain => true
  | .taskStart => true
  | .nodeKernel => true
  | .kernelComplete => true
  | .nodeCopy => true
  | .nodeInstall => true
  | .nodeCond => true
  | .nodeLoop => true
  | .nodeSwitch => true
  | .nodeSignal => true
  | .signalComplete => true
  | .nodeWait => true
  | .waitTimeout => true
  | .nodeSuccessor => true
  | .taskStampWrite => true
  | .qctlWrite => true
  | .qptrWrite => true
  | .partcfgWrite => true
  | .vfbindWrite => true
  | .beatctlReqWrite => true
  | .beatctlRestore => true
  | .beatChange => true
  | .tctlWrite => true
  | .pcapWrite => true
  | .pfloorWrite => true
  | .hlimWrite => true
  | .ibudgetWrite => true
  | .fqctlWrite => true
  | .tinv => true
  | .tinvComplete => true
  | .routingEntryWrite => true
  | .swap => true
  | .routeBankSwap => true
  | .pstatClr => true
  | .attestRequest => true
  | .attestComplete => true
  | .mgmtRegisterWrite => true
  | .initiateFlr => true
  | .flrDrainDone => true
  | .flrComplete => true
  | .sensorSample => true
  | .selfThrottleStep => true
  | .hardLimitStep => true
  | .budgetRefill => true
  | .flitReceive => true
  | .drainMarker => true
  | .flowLossTimeout => true
  | .linkEvent => true
  | .noticeReceive => true
  | .retrainComplete => true
  | .flowControlSignal => true
  | .powerOn => true
  | .fstatResult => true
  | .partcfgChangeComplete => true
  | .portTrainingComplete => true
  | .softError => true

end Sys2Proof
end

