-- ==== Sys2Proof/Machine/Float.lean ====
section
/-! DEFINITION. Number formats and exact arithmetic (R85 to R113): every finite value is an exact fraction, and becomes
a machine value only through `roundTo`. -/

namespace Sys2Proof.Machine

/-! ## Formats (R85, R87) -/

/-- A floating-point format: widths, bias, the largest finite value's exponent and its significand, and whether the
top exponent encodes infinities. -/
structure Fmt where
  ebits : Nat
  fbits : Nat
  bias  : Nat
  emax  : Nat
  mmax  : Nat
  inf   : Bool
deriving DecidableEq, Repr

/-- FP32. -/
def f32 : Fmt := ⟨8, 23, 127, 127, 2 ^ 24 - 1, true⟩
/-- FP16. -/
def f16 : Fmt := ⟨5, 10, 15, 15, 2 ^ 11 - 1, true⟩
/-- BF16. -/
def bf16 : Fmt := ⟨8, 7, 127, 127, 2 ^ 8 - 1, true⟩
/-- E4M3: no infinities; the largest finite value is 448. -/
def e4m3 : Fmt := ⟨4, 3, 7, 8, 14, false⟩
/-- E5M2. -/
def e5m2 : Fmt := ⟨5, 2, 15, 15, 7, true⟩
/-- Wide float. -/
def wide : Fmt := ⟨15, 64, 16383, 16383, 2 ^ 65 - 1, true⟩

/-- Format of a floating-point type; FP32 for every other code. -/
def fmtOf : Ty → Fmt
  | .f16 => f16
  | .bf16 => bf16
  | .e4m3 => e4m3
  | .e5m2 => e5m2
  | .a80 => wide
  | _ => f32

/-- Precision, hidden bit included. -/
def Fmt.prec (f : Fmt) : Nat := f.fbits + 1
/-- Exponent of the smallest normal value. -/
def Fmt.emin (f : Fmt) : Int := 1 - (f.bias : Int)
/-- Sign bit's weight. -/
def Fmt.signBit (f : Fmt) : Nat := 2 ^ (f.ebits + f.fbits)
/-- Exponent field of all ones. -/
def Fmt.etop (f : Fmt) : Nat := 2 ^ f.ebits - 1
/-- The canonical quiet NaN (R87). -/
def Fmt.canonNaN (f : Fmt) : Nat :=
  if f.inf then f.etop * 2 ^ f.fbits + 2 ^ (f.fbits - 1) else f.etop * 2 ^ f.fbits + (2 ^ f.fbits - 1)
/-- An infinity. -/
def Fmt.infinity (f : Fmt) (neg : Bool) : Nat := (if neg then f.signBit else 0) + f.etop * 2 ^ f.fbits
/-- A zero. -/
def Fmt.zero (f : Fmt) (neg : Bool) : Nat := if neg then f.signBit else 0
/-- The largest finite value. -/
def Fmt.largest (f : Fmt) (neg : Bool) : Nat :=
  (if neg then f.signBit else 0) + (f.emax + f.bias) * 2 ^ f.fbits + (f.mmax - 2 ^ f.fbits)

/-- What a bit pattern stands for: a NaN, an infinity, or the exact value ± num / den. -/
inductive FVal where
  | nan (signalling : Bool)
  | inf (neg : Bool)
  | fin (neg : Bool) (num den : Nat)
deriving DecidableEq, Repr

/-- The value of a bit pattern (R85, R87). -/
def Fmt.decode (f : Fmt) (x : Nat) : FVal :=
  let neg := x / f.signBit % 2 == 1
  let e := x / 2 ^ f.fbits % 2 ^ f.ebits
  let m := x % 2 ^ f.fbits
  if e = f.etop ∧ f.inf then
    if m = 0 then .inf neg else .nan (m / 2 ^ (f.fbits - 1) % 2 == 0)
  else if e = f.etop ∧ m = 2 ^ f.fbits - 1 then .nan false
  else
    let sig := if e = 0 then m else 2 ^ f.fbits + m
    let ex := max e 1            -- exponent field in use
    -- value = sig · 2^(ex − bias − fbits)
    if f.bias + f.fbits ≤ ex then .fin neg (sig * 2 ^ (ex - (f.bias + f.fbits))) 1
    else .fin neg sig (2 ^ (f.bias + f.fbits - ex))

/-- A subnormal pattern (R85). -/
def Fmt.subnormal (f : Fmt) (x : Nat) : Bool :=
  x / 2 ^ f.fbits % 2 ^ f.ebits == 0 && x % 2 ^ f.fbits != 0

/-! ## Rounding (R89, R90) -/

/-- floor(log2(num / den)) of a positive fraction. -/
def floorLog2 (num den : Nat) : Int :=
  let d : Int := (num.log2 : Int) - (den.log2 : Int)
  -- the quotient lies in (2^(d-1), 2^(d+1))
  if (if 0 ≤ d then decide (den * 2 ^ d.toNat ≤ num) else decide (den ≤ num * 2 ^ (-d).toNat)) then d else d - 1

/-- The integer a mode chooses for a magnitude num / den of a sign, and whether it is exact (R89). -/
def roundNat (mode : Rnd) (neg : Bool) (num den : Nat) : Nat × Bool :=
  let q := num / den
  let r := num % den
  if r = 0 then (q, true)
  else
    let up := match mode with
      | .rne => if 2 * r = den then q % 2 == 1 else decide (den < 2 * r)
      | .rtz => false
      | .rdn => neg
      | .rup => !neg
    (if up then q + 1 else q, false)

/-- Overflow (R90). -/
def overflowTo (f : Fmt) (mode : Rnd) (sat neg : Bool) : Res Nat :=
  let big := match mode with
    | .rne => false
    | .rtz => true
    | .rdn => !neg
    | .rup => neg
  if sat || big then ⟨f.largest neg, fOF ||| fNX⟩
  else ⟨if f.inf then f.infinity neg else f.canonNaN, fOF ||| fNX⟩

/-- Round(x, fmt, mode) of an exact value ± num / den; a zero keeps the sign given (R89 to R91). -/
def roundTo (f : Fmt) (mode : Rnd) (sat neg : Bool) (num den : Nat) : Res Nat :=
  if num = 0 then ⟨f.zero neg, 0⟩
  else
    let e0 := floorLog2 num den
    let e := max e0 f.emin
    let k : Int := e - (f.fbits : Int)
    let (m, exact) :=
      if 0 ≤ k then roundNat mode neg num (den * 2 ^ k.toNat) else roundNat mode neg (num * 2 ^ (-k).toNat) den
    let nx := fIf (!exact) fNX ||| fIf (!exact && decide (e0 < f.emin)) fUF
    let (e, m) := if m = 2 ^ (f.fbits + 1) then (e + 1, 2 ^ f.fbits) else (e, m)
    if (f.emax : Int) < e ∨ (e = (f.emax : Int) ∧ f.mmax < m) then overflowTo f mode sat neg
    else
      let s := if neg then f.signBit else 0
      if m < 2 ^ f.fbits then ⟨s + m, nx⟩
      else ⟨s + (e + (f.bias : Int)).toNat * 2 ^ f.fbits + (m - 2 ^ f.fbits), nx⟩

/-! ## Exact values -/

/-- An exact value with the sign of its zero. -/
structure Ex where
  neg : Bool
  num : Nat
  den : Nat
deriving DecidableEq, Repr

/-- Exact zero. -/
def Ex.zero (neg : Bool) : Ex := ⟨neg, 0, 1⟩
/-- Exact product; a zero is negative when the signs differ (R91). -/
def Ex.mul (a b : Ex) : Ex := ⟨a.neg != b.neg, a.num * b.num, a.den * b.den⟩
/-- Exact quotient by a value that is not zero. -/
def Ex.div (a b : Ex) : Ex := ⟨a.neg != b.neg, a.num * b.den, a.den * b.num⟩
/-- Negation. -/
def Ex.neg' (a : Ex) : Ex := { a with neg := !a.neg }
/-- Exact sum; the sign of an exact zero follows R91. -/
def Ex.add (mode : Rnd) (a b : Ex) : Ex :=
  if a.num = 0 ∧ b.num = 0 then
    if a.neg = b.neg then Ex.zero a.neg else Ex.zero (mode == .rdn)
  else
    let x := a.num * b.den
    let y := b.num * a.den
    let d := a.den * b.den
    if a.neg = b.neg then ⟨a.neg, x + y, d⟩
    else if x = y then Ex.zero (mode == .rdn)
    else if y < x then ⟨a.neg, x - y, d⟩
    else ⟨b.neg, y - x, d⟩
/-- An integer as an exact value. -/
def Ex.ofInt (i : Int) : Ex := ⟨decide (i < 0), i.natAbs, 1⟩
/-- a < b. -/
def Ex.lt (a b : Ex) : Bool :=
  let x := a.num * b.den
  let y := b.num * a.den
  if a.neg ∧ a.num ≠ 0 then
    (if b.neg ∧ b.num ≠ 0 then decide (y < x) else true)
  else if b.neg ∧ b.num ≠ 0 then false
  else decide (x < y)
/-- Numerically equal. -/
def Ex.eq (a b : Ex) : Bool :=
  a.num * b.den == b.num * a.den && (a.num == 0 || a.neg == b.neg)
/-- Round of an exact value. -/
def Ex.round (a : Ex) (f : Fmt) (mode : Rnd) (sat : Bool) : Res Nat := roundTo f mode sat a.neg a.num a.den
/-- RoundInt of an exact value (R96), and whether it was integral. -/
def Ex.roundInt (a : Ex) (mode : Rnd) : Int × Bool :=
  let (m, e) := roundNat mode a.neg a.num a.den
  (if a.neg then -(m : Int) else (m : Int), e)

/-! ## Specials (R93) -/

/-- The canonical NaN with NV where a flag condition holds. -/
def nanRes (f : Fmt) (nv : Bool) : Res Nat := ⟨f.canonNaN, fIf nv fNV⟩
/-- A signalling NaN. -/
def FVal.snan : FVal → Bool
  | .nan s => s
  | _ => false
/-- A NaN. -/
def FVal.isNaN : FVal → Bool
  | .nan _ => true
  | _ => false
/-- An infinity as a result: E4M3 has none, and gives its NaN with NV (R89, R96). -/
def infRes (f : Fmt) (sat neg : Bool) : Res Nat :=
  if f.inf then ⟨f.infinity neg, 0⟩ else ⟨if sat then f.largest neg else f.canonNaN, fNV⟩

/-- Negation of a value. -/
def FVal.negate : FVal → FVal
  | .nan s => .nan s
  | .inf n => .inf (!n)
  | .fin n a b => .fin (!n) a b

/-- a + b, rounded once. -/
def addV (f : Fmt) (mode : Rnd) (a b : FVal) : Res Nat :=
  match a, b with
  | .nan s, y => nanRes f (s || y.snan)
  | .inf _, .nan s => nanRes f s
  | .fin _ _ _, .nan s => nanRes f s
  | .inf x, .inf y => if x = y then infRes f false x else nanRes f true
  | .inf x, .fin _ _ _ => infRes f false x
  | .fin _ _ _, .inf y => infRes f false y
  | .fin n a b, .fin m c d => (Ex.add mode ⟨n, a, b⟩ ⟨m, c, d⟩).round f mode false

/-- A product as a value, before any rounding, and whether it is invalid (0 × ∞). -/
def mulExact (a b : FVal) : Option FVal :=
  match a, b with
  | .nan s, y => some (.nan (s || y.snan))
  | _, .nan s => some (.nan s)
  | .inf x, .inf y => some (.inf (x != y))
  | .inf x, .fin y n _ => if n = 0 then none else some (.inf (x != y))
  | .fin x n _, .inf y => if n = 0 then none else some (.inf (x != y))
  | .fin x a b, .fin y c d => some (.fin (x != y) (a * c) (b * d))

/-- A value rounded into a format. -/
def roundV (f : Fmt) (mode : Rnd) (sat : Bool) : FVal → Res Nat
  | .nan s => nanRes f s
  | .inf n => infRes f sat n
  | .fin n a b => roundTo f mode sat n a b

/-- a × b, rounded once. -/
def mulV (f : Fmt) (mode : Rnd) (a b : FVal) : Res Nat :=
  match mulExact a b with
  | none => nanRes f true
  | some v => roundV f mode false v

/-- a × b + c, one rounding. -/
def fmaV (f : Fmt) (mode : Rnd) (a b c : FVal) : Res Nat :=
  match mulExact a b with
  | none => nanRes f true
  | some p => addV f mode p c

/-- a / b (R93). -/
def divV (f : Fmt) (mode : Rnd) (a b : FVal) : Res Nat :=
  match a, b with
  | .nan s, y => nanRes f (s || y.snan)
  | .inf _, .nan s => nanRes f s
  | .fin _ _ _, .nan s => nanRes f s
  | .inf _, .inf _ => nanRes f true
  | .inf x, .fin y _ _ => infRes f false (x != y)
  | .fin x _ _, .inf y => ⟨f.zero (x != y), 0⟩
  | .fin x n d, .fin y m e =>
    if m = 0 then (if n = 0 then nanRes f true else ⟨f.infinity (x != y), fDZ⟩)
    else roundTo f mode false (x != y) (n * e) (d * m)

/-- The integer square root, bit by bit: `r` so far, bits below `i` to try. -/
def isqrtGo (n : Nat) : Nat → Nat → Nat
  | 0, r => r
  | i + 1, r => if (r + 2 ^ i) * (r + 2 ^ i) ≤ n then isqrtGo n i (r + 2 ^ i) else isqrtGo n i r
/-- floor(√n). -/
def isqrt (n : Nat) : Nat := isqrtGo n (n.log2 / 2 + 1) 0

/-- √(num / den) as a fraction that rounds as the root does: exact where it is rational with denominator 2^t, otherwise a
point strictly between the two neighbours on the grid 2^−t, which no rounding boundary of a format separates. -/
def sqrtFrac (num den t : Nat) : Nat × Nat :=
  let n := num * 4 ^ t
  let s := isqrt (n / den)
  if s * s * den = n then (s, 2 ^ t) else (2 * s + 1, 2 ^ (t + 1))

/-- Bits of the grid on which roots are found: beyond twice any format's precision below its least root. -/
def rootBits : Nat := 400

/-- √a (R91, R93). -/
def sqrtV (f : Fmt) (mode : Rnd) : FVal → Res Nat
  | .nan s => nanRes f s
  | .inf n => if n then nanRes f true else ⟨f.infinity false, 0⟩
  | .fin n a b =>
    if a = 0 then ⟨f.zero n, 0⟩
    else if n then nanRes f true
    else let (p, q) := sqrtFrac a b rootBits; roundTo f mode false false p q

/-- 1 / a (R394). -/
def rcpV (f : Fmt) (mode : Rnd) : FVal → Res Nat
  | .nan s => nanRes f s
  | .inf n => ⟨f.zero n, 0⟩
  | .fin n a b => if a = 0 then ⟨f.infinity n, fDZ⟩ else roundTo f mode false n b a

/-- 1 / √a (R394). -/
def rsqV (f : Fmt) (mode : Rnd) : FVal → Res Nat
  | .nan s => nanRes f s
  | .inf n => if n then nanRes f true else ⟨f.zero false, 0⟩
  | .fin n a b =>
    if a = 0 then ⟨f.infinity n, fDZ⟩
    else if n then nanRes f true
    else let (p, q) := sqrtFrac b a rootBits; roundTo f mode false false p q

/-! ## Comparison, minimum and maximum (R94) -/

/-- a < b among values that are no NaN, −0 before +0 when `zeros` is set. -/
def ltV (zeros : Bool) (a b : FVal) : Bool :=
  match a, b with
  | .nan _, _ => false
  | _, .nan _ => false
  | .inf x, .inf y => x && !y
  | .inf x, .fin _ _ _ => x
  | .fin _ _ _, .inf y => !y
  | .fin x n d, .fin y m e =>
    if n = 0 ∧ m = 0 then zeros && x && !y else Ex.lt ⟨x, n, d⟩ ⟨y, m, e⟩

/-- a = b numerically (R94). -/
def eqV (a b : FVal) : Bool :=
  match a, b with
  | .inf x, .inf y => x == y
  | .fin x n d, .fin y m e => Ex.eq ⟨x, n, d⟩ ⟨y, m, e⟩
  | _, _ => false

/-- VMIN or VMAX of two patterns (R94). -/
def minMaxF (f : Fmt) (isMax : Bool) (a b : Nat) : Res Nat :=
  let x := f.decode a
  let y := f.decode b
  if x.snan || y.snan then nanRes f true
  else if x.isNaN && y.isNaN then nanRes f false
  else if x.isNaN then ⟨b, 0⟩
  else if y.isNaN then ⟨a, 0⟩
  else if (if isMax then ltV true x y else ltV true y x) then ⟨b, 0⟩ else ⟨a, 0⟩

/-- Comparison codes of VCMP (R399): 0 eq, 1 ne, 2 lt, 3 le, 4 gt, 5 ge. -/
def cmpF (cond : Nat) (x y : FVal) : Res Bool :=
  if x.isNaN || y.isNaN then
    ⟨cond == 1, fIf (if cond < 2 then x.snan || y.snan else true) fNV⟩
  else
    let lt := ltV false x y
    let eq := eqV x y
    ⟨match cond with
      | 0 => eq
      | 1 => !eq
      | 2 => lt
      | 3 => lt || eq
      | 4 => !(lt || eq)
      | _ => !lt, 0⟩

/-! ## Integers (R88) -/

/-- A w-bit pattern read signed. -/
def sint (w x : Nat) : Int := if x % 2 ^ w < 2 ^ (w - 1) then (x % 2 ^ w : Nat) else (x % 2 ^ w : Nat) - 2 ^ w
/-- A w-bit pattern read signed or unsigned. -/
def intOf (signed : Bool) (w x : Nat) : Int := if signed then sint w x else (x % 2 ^ w : Nat)
/-- Low w bits of an integer. -/
def wrapW (w : Nat) (i : Int) : Nat := (i % 2 ^ w).toNat
/-- Range of a type. -/
def loOf (signed : Bool) (w : Nat) : Int := if signed then -(2 ^ (w - 1)) else 0
/-- Range of a type. -/
def hiOf (signed : Bool) (w : Nat) : Int := if signed then 2 ^ (w - 1) - 1 else 2 ^ w - 1
/-- Clamped to a range. -/
def clampInt (lo hi i : Int) : Int := if i < lo then lo else if hi < i then hi else i
/-- An exact integer result as a lane: wrapped, or clamped under .sat (R88). -/
def intRes (signed sat : Bool) (w : Nat) (i : Int) : Nat :=
  if sat then wrapW w (clampInt (loOf signed w) (hiOf signed w) i) else wrapW w i

/-- The signed integer types. -/
def Ty.signed : Ty → Bool
  | .i8 | .i16 | .i32 | .i64 => true
  | _ => false

/-! ## FTZ (R92) -/

/-- A type FTZ applies to. -/
def ftzTy (t : Ty) : Bool := t.isF

/-- An input pattern under FTZ: a subnormal reads as a zero of its sign. -/
def ftzIn (on : Bool) (t : Ty) (x : Nat) : Nat :=
  let f := fmtOf t
  if on && ftzTy t && f.subnormal x then f.zero (x / f.signBit % 2 == 1) else x

/-- A result under FTZ: a subnormal becomes a zero of its sign, with UF and NX. -/
def ftzOut (on : Bool) (t : Ty) (r : Res Nat) : Res Nat :=
  let f := fmtOf t
  if on && ftzTy t && f.subnormal r.val then ⟨f.zero (r.val / f.signBit % 2 == 1), r.flags ||| fUF ||| fNX⟩ else r

/-! ## Conversions (R96) -/

/-- Float or integer to float or integer, rounded once. NV follows R96: a rounded value outside the type sets it, so −2^31 to
.i32 sets none, although R115 says so of every x with |x| ≥ 2^31 (DEDUCED, log 51). -/
def convert (dst src : Ty) (mode : Rnd) (sat : Bool) (x : Nat) : Res Nat :=
  let srcF := src.isF || src.is8F
  let dstF := dst.isF || dst.is8F
  if srcF then
    let v := (fmtOf src).decode x
    if dstF then roundV (fmtOf dst) mode sat v
    else
      let sg := Ty.signed dst
      let lo := loOf sg dst.width
      let hi := hiOf sg dst.width
      match v with
      | .nan _ => ⟨0, fNV⟩
      | .inf n => ⟨wrapW dst.width (if n then lo else hi), fNV⟩
      | .fin n a b =>
        let (i, exact) := Ex.roundInt ⟨n, a, b⟩ mode
        let out := decide (i < lo ∨ hi < i)
        ⟨wrapW dst.width (clampInt lo hi i), if out then fNV else fIf (!exact) fNX⟩
  else
    let i := intOf (Ty.signed src) src.width x
    if dstF then (Ex.ofInt i).round (fmtOf dst) mode sat
    else ⟨intRes (Ty.signed dst) sat dst.width i, 0⟩

/-! ## Codes (R97, R99, R100) -/

/-- QL4 levels in units of 1/128 (R97). -/
def level (c : Nat) : Int :=
  [-128, -89, -67, -50, -36, -24, -12, 0, 10, 21, 32, 44, 57, 73, 94, 127].getD c 0

/-- A code-table entry (R72). -/
def ctabEntry (t : BitVec 128) (c : Nat) : Int := (t.extractLsb' (8 * c) 8).toInt

/-- The value a code decodes to. -/
def codeVal (ql : Bool) (t : BitVec 128) (c : Nat) : Int := if ql then level c else ctabEntry t c

/-- |a − b| of exact values, as an exact value. -/
def Ex.dist (a b : Ex) : Ex := { (Ex.add .rne a (Ex.neg' b)) with neg := false }

/-- The code nearest to an exact value, the lower on a tie (R100, R401). -/
def nearestCode (val : Nat → Int) (y : Ex) : Nat :=
  (List.range 16).foldl (fun best c =>
    if Ex.lt (Ex.dist (Ex.ofInt (val c)) y) (Ex.dist (Ex.ofInt (val best)) y) then c else best) 0
/-- The code of the greatest, or the least, value, the lower on a tie (R401). -/
def extremeCode (val : Nat → Int) (greatest : Bool) : Nat :=
  (List.range 16).foldl (fun best c =>
    if (if greatest then decide (val best < val c) else decide (val c < val best)) then c else best) 0

/-- The code of an FP32 lane (R100, R401): a QL4 code is chosen by 128·y, a TI4 code by y; NaN takes code 7 with NV. -/
def encodeCode (ql : Bool) (t : BitVec 128) (v : FVal) : Res Nat :=
  match v with
  | .nan _ => ⟨7, fNV⟩
  | .inf n => ⟨extremeCode (codeVal ql t) (!n), 0⟩
  | .fin n a b => ⟨nearestCode (codeVal ql t) ⟨n, (if ql then 128 else 1) * a, b⟩, 0⟩

/-! ## Scales (R106) -/

/-- ScaleAcc: P·u·(s+1)·S/256·a + r, one rounding to FP32; `u` is 1/128 where set. The factors are multiplied from left to right,
which shows where P is a NaN and S and a are 0 and infinity: R106 fixes no grouping (DESIGN CHOICE, log 56). -/
def scaleAcc (p : FVal) (u128 : Bool) (s : Nat) (sc a r : FVal) : Res Nat :=
  let k : FVal := .fin false (s + 1) (if u128 then 128 * 256 else 256)
  let sn := p.snan || sc.snan || a.snan || r.snan
  if p.isNaN || sc.isNaN || a.isNaN || r.isNaN then
    -- an invalid product beside a NaN sets NV too
    let inv := match mulExact p sc with
      | none => true
      | some x => (mulExact x a).isNone
    nanRes f32 (sn || inv)
  else match mulExact p k with
  | none => nanRes f32 true
  | some x => match mulExact x sc with
    | none => nanRes f32 true
    | some y => match mulExact y a with
      | none => nanRes f32 true
      | some z => addV f32 .rne z r

/-! ## Exponents (R108 to R111) -/

/-- x × 2^n (R108). -/
def insx (f : Fmt) (mode : Rnd) (sat : Bool) (x : FVal) (n : Int) : Res Nat :=
  match x with
  | .nan s => nanRes f s
  | .inf g => ⟨f.infinity g, 0⟩
  | .fin g a b =>
    -- beyond ±2^12 every format's result is the same
    let n := clampInt (-4096) 4096 n
    if 0 ≤ n then roundTo f mode sat g (a * 2 ^ n.toNat) b else roundTo f mode sat g a (b * 2 ^ (-n).toNat)

/-- The exponent of a value as a w-bit integer (R109, R403). -/
def extx (w : Nat) (x : FVal) : Res Nat :=
  match x with
  | .nan _ => ⟨2 ^ (w - 1) - 1, fNV⟩
  | .inf _ => ⟨2 ^ (w - 1) - 1, 0⟩
  | .fin _ a b => if a = 0 then ⟨2 ^ (w - 1), fDZ⟩ else ⟨wrapW w (floorLog2 a b), 0⟩

/-- A value rounded to an integral value of its format (R110). -/
def rndi (f : Fmt) (mode : Rnd) (x : FVal) : Res Nat :=
  match x with
  | .nan s => nanRes f s
  | .inf g => ⟨f.infinity g, 0⟩
  | .fin g a b =>
    let (m, _) := roundNat mode g a b
    ⟨(roundTo f mode false g m 1).val, 0⟩

/-! ## Elementary functions in fixed point -/

/-- Bits behind the point of the fixed-point functions. -/
def fixBits : Nat := 320
/-- One in fixed point. -/
def fixOne : Nat := 2 ^ fixBits

/-- e^(x) for |x| < 1 in fixed point: the series x^k / k!, `n` terms from term `t` of index `k` on. -/
def expSeries (x : Int) : Nat → Nat → Int → Int → Int
  | 0, _, _, acc => acc
  | n + 1, k, t, acc =>
    let t' := t * x / ((fixOne : Int) * (k + 1 : Nat))
    expSeries x n (k + 1) t' (acc + t')

/-- e^x in fixed point for |x| < 1. -/
def expFix (x : Int) : Nat := (expSeries x 90 0 fixOne fixOne).toNat

/-- 2^g in fixed point for an exact |g| ≤ 1/2. -/
def exp2Fix (g : Ex) : Nat :=
  let p : Int := (g.num * Config.ln2Fixed / g.den : Nat)
  expFix (if g.neg then -p else p)

/-- VEXP2F of one lane (R111). -/
def exp2f (x : FVal) : Res Nat :=
  match x with
  | .nan s => nanRes f32 s
  | .inf g => if g then ⟨0, 0⟩ else ⟨f32.infinity false, 0⟩
  | .fin s a b =>
    let (n, exact) := Ex.roundInt ⟨s, a, b⟩ .rne
    let g := Ex.add .rne ⟨s, a, b⟩ (Ex.neg' (Ex.ofInt n))
    let e := if exact then roundTo f32 .rne false false 1 1 else roundTo f32 .rne false false (exp2Fix g) fixOne
    let r := insx f32 .rne false (f32.decode e.val) n
    ⟨r.val, r.flags ||| fIf (!exact) fNX⟩

end Sys2Proof.Machine
end

