-- ==== Sys2Proof/Decode.lean ====
section
/-! DEFINITION. The decoder, total on any words and refusing by name, and after it the encoder, both written from the
encoding tables of the spec (R75 to R84 and the entries of the instruction reference). -/

namespace Sys2Proof

/-! ## Fields -/

/-- Bits lo … lo + n − 1 of a word. -/
abbrev bits (w : Word) (lo n : Nat) : BitVec n := w.extractLsb' lo n

/-- One bit of a word. -/
abbrev bit (w : Word) (i : Nat) : Bool := w.getLsbD i

/-- The fields of a first word (R75, R77). -/
structure Word0 where
  len : BitVec 2
  y   : Bool
  gap : BitVec 2
  g   : BitVec 3
  gn  : Bool
  maj : BitVec 7
  d   : BitVec 5
  a   : BitVec 5
  b   : BitVec 5
  b31 : Bool
deriving DecidableEq, Repr

/-- A first word taken apart. -/
def Word0.unpack (w : Word) : Word0 where
  len := bits w 0 2
  y := bit w 2
  gap := bits w 3 2
  g := bits w 5 3
  gn := bit w 8
  maj := bits w 9 7
  d := bits w 16 5
  a := bits w 21 5
  b := bits w 26 5
  b31 := bit w 31

/-- A first word put together. -/
def Word0.pack (f : Word0) : Word :=
  BitVec.ofBool f.b31 ++ f.b ++ f.a ++ f.d ++ f.maj ++ BitVec.ofBool f.gn ++ f.g ++ f.gap ++ BitVec.ofBool f.y ++ f.len

/-- The common header (R75). -/
def Word0.hdr (f : Word0) : Hdr := ⟨f.gap, f.y, f.g, f.gn⟩

/-- IMM11 of format I (R77). -/
def Word0.imm (f : Word0) : BitVec 11 := BitVec.ofBool f.b31 ++ f.b ++ f.a

/-- Field A of format I: A[4:1] in [8:5], A[0] in [2] (R77). -/
def Word0.immA (f : Word0) : BitVec 5 := BitVec.ofBool f.gn ++ f.g ++ BitVec.ofBool f.y

/-- DISP16 of format J (R77). -/
def Word0.disp (f : Word0) : BitVec 16 := BitVec.ofBool f.b31 ++ f.b ++ f.a ++ f.d

/-- Bits [31:16], reserved in the long form of format J (R77). -/
def Word0.upper (f : Word0) : BitVec 16 := f.disp

/-- The fields of word 1 (R78). -/
structure Word1 where
  sub   : BitVec 12
  ty    : BitVec 4
  ty2   : BitVec 4
  scope : BitVec 3
  path  : BitVec 3
  rnd   : BitVec 2
  sat   : Bool
  tier  : BitVec 3
deriving DecidableEq, Repr

/-- Word 1 taken apart. -/
def Word1.unpack (w : Word) : Word1 where
  sub := bits w 0 12
  ty := bits w 12 4
  ty2 := bits w 16 4
  scope := bits w 20 3
  path := bits w 23 3
  rnd := bits w 26 2
  sat := bit w 28
  tier := bits w 29 3

/-- Word 1 put together. -/
def Word1.pack (e : Word1) : Word :=
  e.tier ++ BitVec.ofBool e.sat ++ e.rnd ++ e.path ++ e.scope ++ e.ty2 ++ e.ty ++ e.sub

/-! ## Codes -/

/-- Width codes of SXT and ZXT (R77). -/
def WidthCode.valid (c : BitVec 5) : Bool := c.toNat < 3
/-- Width code from its field (R77). -/
def WidthCode.ofCode (c : BitVec 5) : WidthCode := if c = 0 then .w8 else if c = 1 then .w16 else .w32
/-- Field of a width code (R77). -/
def WidthCode.code : WidthCode → BitVec 5
  | .w8 => 0
  | .w16 => 1
  | .w32 => 2

/-- Type from its code (R78). -/
def Ty.ofCode (c : BitVec 4) : Ty :=
  match c.toNat with
  | 0 => .a80 | 1 => .f32 | 2 => .f16 | 3 => .bf16 | 4 => .e4m3 | 5 => .e5m2 | 6 => .i8 | 7 => .i16
  | 8 => .i32 | 9 => .i64 | 10 => .n8 | 11 => .n16 | 12 => .n32 | 13 => .n64 | 14 => .ql4 | _ => .ti4
/-- Code of a type (R78). -/
def Ty.code : Ty → BitVec 4
  | .a80 => 0 | .f32 => 1 | .f16 => 2 | .bf16 => 3 | .e4m3 => 4 | .e5m2 => 5 | .i8 => 6 | .i16 => 7
  | .i32 => 8 | .i64 => 9 | .n8 => 10 | .n16 => 11 | .n32 => 12 | .n64 => 13 | .ql4 => 14 | .ti4 => 15

/-- Scope code 7 is reserved (R78). -/
def Scope.valid (c : BitVec 3) : Bool := c.toNat < 7
/-- Scope from its code (R78). -/
def Scope.ofCode (c : BitVec 3) : Scope :=
  match c.toNat with
  | 0 => .core | 1 => .gang | 2 => .cluster | 3 => .column | 4 => .quad | 5 => .device | _ => .system
/-- Code of a scope (R78). -/
def Scope.code : Scope → BitVec 3
  | .core => 0 | .gang => 1 | .cluster => 2 | .column => 3 | .quad => 4 | .device => 5 | .system => 6

/-- Path from its code (R78). -/
def Path.ofCode (c : BitVec 3) : Path :=
  match c.toNat with
  | 0 => .ls | 1 => .ms | 2 => .vt | 3 => .ce | 4 => .mx | 5 => .ga | 6 => .co | _ => .fi
/-- Code of a path (R78). -/
def Path.code : Path → BitVec 3
  | .ls => 0 | .ms => 1 | .vt => 2 | .ce => 3 | .mx => 4 | .ga => 5 | .co => 6 | .fi => 7

/-- Rounding mode from its code (R78). -/
def Rnd.ofCode (c : BitVec 2) : Rnd :=
  match c.toNat with
  | 0 => .rne | 1 => .rtz | 2 => .rdn | _ => .rup
/-- Code of a rounding mode (R78). -/
def Rnd.code : Rnd → BitVec 2
  | .rne => 0 | .rtz => 1 | .rdn => 2 | .rup => 3

/-- TIER values 0b001 to 0b011 are reserved (R78). -/
def tierValid (c : BitVec 3) : Bool := c == 0 || 4 ≤ c.toNat
/-- The tier an instruction is built for, from its TIER field (R78). -/
def tierOf (c : BitVec 3) : Option (BitVec 2) := if c = 0 then none else some (c.setWidth 2)
/-- TIER field (R78). -/
def tierCode : Option (BitVec 2) → BitVec 3
  | none => 0
  | some t => (1 : BitVec 1) ++ t

/-- Load types in the order of their majors (R79). -/
def LoadTy.ofIndex : Nat → LoadTy
  | 0 => .i8 | 1 => .i16 | 2 => .i32 | 3 => .i64 | 4 => .n8 | 5 => .n16 | _ => .n32
/-- Place of a load type among its majors (R79). -/
def LoadTy.index : LoadTy → Nat
  | .i8 => 0 | .i16 => 1 | .i32 => 2 | .i64 => 3 | .n8 => 4 | .n16 => 5 | .n32 => 6
/-- Store types in the order of their majors (R79). -/
def StoreTy.ofIndex : Nat → StoreTy
  | 0 => .i8 | 1 => .i16 | 2 => .i32 | _ => .i64
/-- Place of a store type among its majors (R79). -/
def StoreTy.index : StoreTy → Nat
  | .i8 => 0 | .i16 => 1 | .i32 => 2 | .i64 => 3
/-- Conditions of CMPI in the order of their majors (R79). -/
def CmpiCond.ofIndex : Nat → CmpiCond
  | 0 => .eq | 1 => .ne | 2 => .lt | 3 => .le | 4 => .gt | 5 => .ge | 6 => .ltN | 7 => .leN | 8 => .gtN | _ => .geN
/-- Place of a condition among the majors of CMPI (R79). -/
def CmpiCond.index : CmpiCond → Nat
  | .eq => 0 | .ne => 1 | .lt => 2 | .le => 3 | .gt => 4 | .ge => 5 | .ltN => 6 | .leN => 7 | .gtN => 8 | .geN => 9

/-! ## The decoder -/

/-- Why words are no instruction. Each raises ILLOP (R81) but `short`: there the store ends inside the instruction,
which the image loader excludes (R82). -/
inductive DecodeError where
  /-- fewer words than LEN asks for -/
  | short
  /-- a major R79 and R80 leave reserved -/
  | reservedMajor
  /-- a LEN the major does not allow (R75) -/
  | lenNotAllowed
  /-- a LEN the instruction has no form for -/
  | noSuchForm
  /-- a sub-opcode R80 leaves unassigned -/
  | unassignedSub
  /-- a reserved field, bit or selector is not zero, or a register field lies outside its class (R64) -/
  | fieldValue
  /-- a guard, type, scope or value the entry does not accept -/
  | illFormed
deriving DecidableEq, Repr

/-- The instruction when its reserved fields and register fields are in order. -/
def need (c : Prop) [Decidable c] (i : Instr) : Except DecodeError Instr :=
  if c then .ok i else .error .fieldValue

/-- The one-word forms (R79). -/
def decodeBase (f : Word0) : Except DecodeError Instr :=
  match f.maj.toNat with
  | 0x01 => need (f.b31 = false) (.add f.hdr f.d f.a f.b)
  | 0x02 => need (f.b31 = false) (.sub f.hdr f.d f.a f.b)
  | 0x03 => need (f.b31 = false) (.mul f.hdr f.d f.a f.b)
  | 0x04 => .ok (.mulh f.hdr f.d f.a f.b f.b31)
  | 0x05 => .ok (.div f.hdr f.d f.a f.b f.b31)
  | 0x06 => .ok (.rem f.hdr f.d f.a f.b f.b31)
  | 0x07 => need (f.b31 = false) (.and f.hdr f.d f.a f.b)
  | 0x08 => need (f.b31 = false) (.andn f.hdr f.d f.a f.b)
  | 0x09 => need (f.b31 = false) (.or f.hdr f.d f.a f.b)
  | 0x0A => need (f.b31 = false) (.xor f.hdr f.d f.a f.b)
  | 0x0B => need (f.b31 = false) (.shl f.hdr f.d f.a f.b)
  | 0x0C => need (f.b31 = false) (.shr f.hdr f.d f.a f.b)
  | 0x0D => need (f.b31 = false) (.sra f.hdr f.d f.a f.b)
  | 0x0E => need (f.b31 = false) (.rot f.hdr f.d f.a f.b)
  | 0x0F => need (f.b31 = false ∧ f.b = 0) (.clz f.hdr f.d f.a)
  | 0x10 => need (f.b31 = false ∧ f.b = 0) (.ctz f.hdr f.d f.a)
  | 0x11 => need (f.b31 = false ∧ f.b = 0) (.popc f.hdr f.d f.a)
  | 0x12 => .ok (.min f.hdr f.d f.a f.b f.b31)
  | 0x13 => .ok (.max f.hdr f.d f.a f.b f.b31)
  | 0x14 => need (f.b31 = false) (.sel f.hdr f.d f.a f.b)
  | 0x15 => need (f.b31 = false ∧ f.b = 0) (.mov f.hdr f.d f.a)
  | 0x16 => need (f.b31 = false ∧ (WidthCode.valid f.b) = true) (.sxt f.hdr f.d f.a (WidthCode.ofCode f.b))
  | 0x17 => need (f.b31 = false ∧ (WidthCode.valid f.b) = true) (.zxt f.hdr f.d f.a (WidthCode.ofCode f.b))
  | 0x18 => need (f.d.toNat < 8) (.cmpEq f.hdr (f.d.setWidth 3) f.a f.b f.b31)
  | 0x19 => need (f.d.toNat < 8) (.cmpNe f.hdr (f.d.setWidth 3) f.a f.b f.b31)
  | 0x1A => need (f.d.toNat < 8) (.cmpLt f.hdr (f.d.setWidth 3) f.a f.b f.b31)
  | 0x1B => need (f.d.toNat < 8) (.cmpLe f.hdr (f.d.setWidth 3) f.a f.b f.b31)
  | 0x1C => .ok (.addi f.gap f.d f.immA f.imm)
  | 0x1D => need (f.immA = 0) (.li f.gap f.d f.imm)
  | 0x1E => need (f.d.toNat < 8) (.cmpiEq f.gap (f.d.setWidth 3) f.immA f.imm)
  | 0x1F => need (f.d.toNat < 8) (.cmpiNe f.gap (f.d.setWidth 3) f.immA f.imm)
  | 0x20 => need (f.d.toNat < 8) (.cmpiLt f.gap (f.d.setWidth 3) f.immA f.imm)
  | 0x21 => need (f.d.toNat < 8) (.cmpiLe f.gap (f.d.setWidth 3) f.immA f.imm)
  | 0x22 => need (f.d.toNat < 8) (.cmpiGt f.gap (f.d.setWidth 3) f.immA f.imm)
  | 0x23 => need (f.d.toNat < 8) (.cmpiGe f.gap (f.d.setWidth 3) f.immA f.imm)
  | 0x24 => need (f.d.toNat < 8) (.cmpiLtN64 f.gap (f.d.setWidth 3) f.immA f.imm)
  | 0x25 => need (f.d.toNat < 8) (.cmpiLeN64 f.gap (f.d.setWidth 3) f.immA f.imm)
  | 0x26 => need (f.d.toNat < 8) (.cmpiGtN64 f.gap (f.d.setWidth 3) f.immA f.imm)
  | 0x27 => need (f.d.toNat < 8) (.cmpiGeN64 f.gap (f.d.setWidth 3) f.immA f.imm)
  | 0x28 => need (f.b31 = false ∧ f.b.toNat < 8 ∧ f.a.toNat < 8 ∧ f.d.toNat < 8) (.pand f.hdr (f.d.setWidth 3) (f.a.setWidth 3) (f.b.setWidth 3))
  | 0x29 => need (f.b31 = false ∧ f.b.toNat < 8 ∧ f.a.toNat < 8 ∧ f.d.toNat < 8) (.por f.hdr (f.d.setWidth 3) (f.a.setWidth 3) (f.b.setWidth 3))
  | 0x2A => need (f.b31 = false ∧ f.b.toNat < 8 ∧ f.a.toNat < 8 ∧ f.d.toNat < 8) (.pxor f.hdr (f.d.setWidth 3) (f.a.setWidth 3) (f.b.setWidth 3))
  | 0x2B => need (f.b31 = false ∧ f.b = 0 ∧ f.a.toNat < 8 ∧ f.d.toNat < 8) (.pnot f.hdr (f.d.setWidth 3) (f.a.setWidth 3))
  | 0x2C => need (f.b31 = false ∧ f.b = 0 ∧ f.a.toNat < 8 ∧ f.d.toNat < 8) (.pmov f.hdr (f.d.setWidth 3) (f.a.setWidth 3))
  | 0x2D => .ok (.br f.hdr f.disp)
  | 0x2E => need (f.g = 0 ∧ f.gn = false) (.jmp f.gap f.y f.disp)
  | 0x2F => need (f.b31 = false ∧ f.b = 0 ∧ f.d = 0) (.jmpi f.hdr f.a)
  | 0x30 => .ok (.call f.hdr f.disp)
  | 0x31 => need (f.b31 = false ∧ f.b = 0 ∧ f.d = 0) (.calli f.hdr f.a)
  | 0x32 => need (f.b31 = false ∧ f.b = 0 ∧ f.a = 0 ∧ f.d = 0 ∧ f.g = 0 ∧ f.gn = false) (.ret f.gap f.y)
  | 0x33 => need (f.immA = 0 ∧ f.d = 0) (.enter f.gap f.imm)
  | 0x34 => need (f.b31 = false ∧ f.b = 0 ∧ f.a = 0 ∧ f.d = 0) (.leave f.hdr)
  | 0x35 => need (f.b31 = false ∧ f.b = 0 ∧ f.a = 0 ∧ f.d = 0) (.nop f.hdr)
  | 0x36 => need (f.b31 = false ∧ f.b = 0 ∧ f.a = 0 ∧ f.d = 0) (.halt f.hdr)
  | 0x37 => .ok (.ldI8 f.gap f.d f.immA f.imm)
  | 0x38 => .ok (.ldI16 f.gap f.d f.immA f.imm)
  | 0x39 => .ok (.ldI32 f.gap f.d f.immA f.imm)
  | 0x3A => .ok (.ldI64 f.gap f.d f.immA f.imm)
  | 0x3B => .ok (.ldN8 f.gap f.d f.immA f.imm)
  | 0x3C => .ok (.ldN16 f.gap f.d f.immA f.imm)
  | 0x3D => .ok (.ldN32 f.gap f.d f.immA f.imm)
  | 0x3E => .ok (.stI8 f.gap f.d f.immA f.imm)
  | 0x3F => .ok (.stI16 f.gap f.d f.immA f.imm)
  | 0x40 => .ok (.stI32 f.gap f.d f.immA f.imm)
  | 0x41 => .ok (.stI64 f.gap f.d f.immA f.imm)
  | 0x42 => .ok (.vld f.gap f.d f.immA f.imm)
  | 0x43 => .ok (.vst f.gap f.d f.immA f.imm)
  | 0x44 => .ok (.bldI8 f.gap f.d f.immA f.imm)
  | 0x45 => .ok (.bldI16 f.gap f.d f.immA f.imm)
  | 0x46 => .ok (.bldI32 f.gap f.d f.immA f.imm)
  | 0x47 => .ok (.bldI64 f.gap f.d f.immA f.imm)
  | 0x48 => .ok (.bldN8 f.gap f.d f.immA f.imm)
  | 0x49 => .ok (.bldN16 f.gap f.d f.immA f.imm)
  | 0x4A => .ok (.bldN32 f.gap f.d f.immA f.imm)
  | 0x4B => .ok (.bstI8 f.gap f.d f.immA f.imm)
  | 0x4C => .ok (.bstI16 f.gap f.d f.immA f.imm)
  | 0x4D => .ok (.bstI32 f.gap f.d f.immA f.imm)
  | 0x4E => .ok (.bstI64 f.gap f.d f.immA f.imm)
  | 0x4F => .ok (.vbld f.gap f.d f.immA f.imm)
  | 0x50 => .ok (.vbst f.gap f.d f.immA f.imm)
  | 0x51 => need (f.b31 = false ∧ f.b = 0) (.blook f.hdr f.d f.a)
  | 0x52 => need (f.b31 = false) (.btag f.hdr f.d f.a f.b)
  | 0x53 => need (f.b31 = false ∧ f.b = 0) (.binv f.hdr f.d f.a)
  | 0x54 => need (f.b31 = false ∧ f.d.toNat < 16) (.send f.hdr (f.d.setWidth 4) f.a f.b)
  | 0x55 => need (f.b31 = false ∧ f.d.toNat < 16) (.mget f.hdr (f.d.setWidth 4) f.a f.b)
  | 0x56 => .ok (.msgb f.hdr f.d f.a f.b f.b31)
  | 0x57 => need (f.b31 = false ∧ f.b = 0 ∧ f.a = 0 ∧ f.d.toNat < 16) (.mclr f.hdr (f.d.setWidth 4))
  | 0x58 => need (f.b31 = false ∧ f.b = 0 ∧ f.d.toNat < 16) (.ldx f.hdr (f.d.setWidth 4) f.a)
  | 0x59 => need (f.b31 = false ∧ f.d = 0) (.stx f.hdr f.a f.b)
  | 0x5A => need (f.immA = 0 ∧ f.d = 0) (.trap f.gap f.imm)
  | 0x5B => need (f.b31 = false ∧ f.b = 0 ∧ f.a = 0 ∧ f.d = 0 ∧ f.g = 0 ∧ f.gn = false) (.eret f.gap f.y)
  | 0x5C => need (f.immA = 0) (.sysr f.gap f.d f.imm)
  | 0x5D => need (f.immA = 0) (.sysw f.gap f.d f.imm)
  | 0x5E => need (f.b31 = false ∧ f.b = 0 ∧ f.a = 0 ∧ f.d = 0) (.yield f.hdr)
  | _ => .error .reservedMajor

/-- The one-word forms with a 64-bit literal (R75, R77). -/
def decodeLong (f : Word0) (lit : DWord) : Except DecodeError Instr :=
  match f.maj.toNat with
  | 0x1C => need (f.b31 = false ∧ f.b = 0) (.addiLong f.hdr f.d f.a lit)
  | 0x1D => need (f.b31 = false ∧ f.b = 0 ∧ f.a = 0) (.liLong f.hdr f.d lit)
  | 0x1E | 0x1F | 0x20 | 0x21 | 0x22 | 0x23 | 0x24 | 0x25 | 0x26 | 0x27 => need (f.b31 = false ∧ f.b = 0 ∧ f.d.toNat < 8) (.cmpiLong f.hdr (CmpiCond.ofIndex (f.maj.toNat - 0x1E)) (f.d.setWidth 3) f.a lit)
  | 0x2D => need (f.upper = 0) (.brLong f.hdr lit)
  | 0x2E => need (f.upper = 0 ∧ f.g = 0 ∧ f.gn = false) (.jmpLong f.gap f.y lit)
  | 0x30 => need (f.upper = 0) (.callLong f.hdr lit)
  | 0x33 => need (f.b31 = false ∧ f.b = 0 ∧ f.a = 0 ∧ f.d = 0) (.enterLong f.hdr lit)
  | 0x37 | 0x38 | 0x39 | 0x3A | 0x3B | 0x3C | 0x3D => need (f.b31 = false ∧ f.b = 0) (.ldLong f.hdr (LoadTy.ofIndex (f.maj.toNat - 0x37)) f.d f.a lit)
  | 0x3E | 0x3F | 0x40 | 0x41 => need (f.b31 = false ∧ f.b = 0) (.stLong f.hdr (StoreTy.ofIndex (f.maj.toNat - 0x3E)) f.d f.a lit)
  | 0x42 => need (f.b31 = false ∧ f.b = 0) (.vldLong f.hdr f.d f.a lit)
  | 0x43 => need (f.b31 = false ∧ f.b = 0) (.vstLong f.hdr f.d f.a lit)
  | 0x44 | 0x45 | 0x46 | 0x47 | 0x48 | 0x49 | 0x4A => need (f.b31 = false ∧ f.b = 0) (.bldLong f.hdr (LoadTy.ofIndex (f.maj.toNat - 0x44)) f.d f.a lit)
  | 0x4B | 0x4C | 0x4D | 0x4E => need (f.b31 = false ∧ f.b = 0) (.bstLong f.hdr (StoreTy.ofIndex (f.maj.toNat - 0x4B)) f.d f.a lit)
  | 0x4F => need (f.b31 = false ∧ f.b = 0) (.vbldLong f.hdr f.d f.a lit)
  | 0x50 => need (f.b31 = false ∧ f.b = 0) (.vbstLong f.hdr f.d f.a lit)
  | 0x5A => need (f.b31 = false ∧ f.b = 0 ∧ f.a = 0 ∧ f.d = 0) (.trapLong f.hdr lit)
  | 0x5C => need (f.b31 = false ∧ f.b = 0 ∧ f.a = 0) (.sysrLong f.hdr f.d lit)
  | 0x5D => need (f.b31 = false ∧ f.b = 0 ∧ f.a = 0) (.syswLong f.hdr f.d lit)
  | _ => .error .noSuchForm

/-- The three-word forms of MAJ 0x60 (R80). -/
def decodeExt60 (f : Word0) (e : Word1) (w2 : Word) : Except DecodeError Instr :=
  match e.sub.toNat with
  | 0x001 => need (e.ty2 = 0 ∧ e.scope = 0 ∧ e.path = 0 ∧ e.rnd = 0 ∧ e.sat = false ∧ tierValid e.tier = true ∧ f.b31 = false ∧ f.b = 0 ∧ bits w2 6 2 = 0 ∧ bits w2 14 18 = 0) (.ext f.hdr f.d f.a (Ty.ofCode e.ty) (tierOf e.tier) (bits w2 0 6) (bits w2 8 6))
  | 0x002 => need (e.ty = 0 ∧ e.ty2 = 0 ∧ e.scope = 0 ∧ e.path = 0 ∧ e.rnd = 0 ∧ e.sat = false ∧ tierValid e.tier = true ∧ f.b31 = false ∧ f.b = 0 ∧ bits w2 6 2 = 0 ∧ bits w2 14 18 = 0) (.ins f.hdr f.d f.a (tierOf e.tier) (bits w2 0 6) (bits w2 8 6))
  | 0x003 => need (e.ty = 0 ∧ e.ty2 = 0 ∧ e.scope = 0 ∧ e.path = 0 ∧ e.rnd = 0 ∧ e.sat = false ∧ tierValid e.tier = true ∧ f.b31 = false ∧ bits w2 3 5 = 0) (.lea f.hdr f.d f.a f.b (tierOf e.tier) (bits w2 0 3) (bits w2 8 24))
  | _ => .error .unassignedSub

/-- The three-word forms of MAJ 0x61 (R80). -/
def decodeExt61 (f : Word0) (e : Word1) (w2 : Word) : Except DecodeError Instr :=
  match e.sub.toNat with
  | 0x001 => need (e.ty = 0 ∧ e.ty2 = 0 ∧ e.scope = 0 ∧ e.path = 0 ∧ e.rnd = 0 ∧ e.sat = false ∧ e.tier = 0) (.rep f.hdr f.d f.a f.b f.b31 (bits w2 27 5) (bits w2 24 3) (bits w2 0 24))
  | _ => .error .unassignedSub

/-- The three-word forms of MAJ 0x62 (R80). -/
def decodeExt62 (f : Word0) (e : Word1) (w2 : Word) : Except DecodeError Instr :=
  match e.sub.toNat with
  | 0x001 => need (e.ty2 = 0 ∧ e.scope = 0 ∧ e.path = 0 ∧ e.rnd = 0 ∧ e.sat = false ∧ tierValid e.tier = true ∧ f.b31 = false) (.vlds f.hdr f.d f.a f.b (Ty.ofCode e.ty) (tierOf e.tier) (bits w2 0 32))
  | 0x002 => need (e.ty2 = 0 ∧ e.scope = 0 ∧ e.path = 0 ∧ e.rnd = 0 ∧ e.sat = false ∧ tierValid e.tier = true ∧ f.b31 = false) (.vsts f.hdr f.d f.a f.b (Ty.ofCode e.ty) (tierOf e.tier) (bits w2 0 32))
  | 0x003 => need (e.ty2 = 0 ∧ e.scope = 0 ∧ e.path = 0 ∧ e.rnd = 0 ∧ e.sat = false ∧ tierValid e.tier = true ∧ f.b31 = false) (.vgath f.hdr f.d f.a f.b (Ty.ofCode e.ty) (tierOf e.tier) (bits w2 0 32))
  | 0x004 => need (e.ty2 = 0 ∧ e.scope = 0 ∧ e.path = 0 ∧ e.rnd = 0 ∧ e.sat = false ∧ tierValid e.tier = true ∧ f.b31 = false) (.vscat f.hdr f.d f.a f.b (Ty.ofCode e.ty) (tierOf e.tier) (bits w2 0 32))
  | _ => .error .unassignedSub

/-- The three-word forms of MAJ 0x63 (R80). -/
def decodeExt63 (f : Word0) (e : Word1) (w2 : Word) : Except DecodeError Instr :=
  match e.sub.toNat with
  | 0x001 => need (e.ty2 = 0 ∧ e.scope = 0 ∧ e.path = 0 ∧ tierValid e.tier = true ∧ f.b31 = false ∧ w2 = 0) (.vadd f.hdr f.d f.a f.b (Ty.ofCode e.ty) (Rnd.ofCode e.rnd) e.sat (tierOf e.tier))
  | 0x002 => need (e.ty2 = 0 ∧ e.scope = 0 ∧ e.path = 0 ∧ tierValid e.tier = true ∧ f.b31 = false ∧ w2 = 0) (.vsub f.hdr f.d f.a f.b (Ty.ofCode e.ty) (Rnd.ofCode e.rnd) e.sat (tierOf e.tier))
  | 0x003 => need (e.ty2 = 0 ∧ e.scope = 0 ∧ e.path = 0 ∧ tierValid e.tier = true ∧ f.b31 = false ∧ w2 = 0) (.vmul f.hdr f.d f.a f.b (Ty.ofCode e.ty) (Rnd.ofCode e.rnd) e.sat (tierOf e.tier))
  | 0x004 => need (e.ty2 = 0 ∧ e.scope = 0 ∧ e.path = 0 ∧ e.sat = false ∧ tierValid e.tier = true ∧ f.b31 = false ∧ bits w2 5 27 = 0) (.vfma f.hdr f.d f.a f.b (Ty.ofCode e.ty) (Rnd.ofCode e.rnd) (tierOf e.tier) (bits w2 0 5))
  | 0x005 => need (e.ty2 = 0 ∧ e.scope = 0 ∧ e.path = 0 ∧ e.sat = false ∧ tierValid e.tier = true ∧ f.b31 = false ∧ bits w2 5 27 = 0) (.vfms f.hdr f.d f.a f.b (Ty.ofCode e.ty) (Rnd.ofCode e.rnd) (tierOf e.tier) (bits w2 0 5))
  | 0x006 => need (e.ty2 = 0 ∧ e.scope = 0 ∧ e.path = 0 ∧ e.rnd = 0 ∧ tierValid e.tier = true ∧ f.b31 = false ∧ f.b = 0 ∧ w2 = 0) (.vneg f.hdr f.d f.a (Ty.ofCode e.ty) e.sat (tierOf e.tier))
  | 0x007 => need (e.ty2 = 0 ∧ e.scope = 0 ∧ e.path = 0 ∧ e.rnd = 0 ∧ tierValid e.tier = true ∧ f.b31 = false ∧ f.b = 0 ∧ w2 = 0) (.vabs f.hdr f.d f.a (Ty.ofCode e.ty) e.sat (tierOf e.tier))
  | 0x008 => need (e.ty2 = 0 ∧ e.scope = 0 ∧ e.path = 0 ∧ e.rnd = 0 ∧ e.sat = false ∧ tierValid e.tier = true ∧ f.b31 = false ∧ w2 = 0) (.vmin f.hdr f.d f.a f.b (Ty.ofCode e.ty) (tierOf e.tier))
  | 0x009 => need (e.ty2 = 0 ∧ e.scope = 0 ∧ e.path = 0 ∧ e.rnd = 0 ∧ e.sat = false ∧ tierValid e.tier = true ∧ f.b31 = false ∧ w2 = 0) (.vmax f.hdr f.d f.a f.b (Ty.ofCode e.ty) (tierOf e.tier))
  | 0x00A => need (e.ty2 = 0 ∧ e.scope = 0 ∧ e.path = 0 ∧ e.sat = false ∧ tierValid e.tier = true ∧ f.b31 = false ∧ w2 = 0) (.vdiv f.hdr f.d f.a f.b (Ty.ofCode e.ty) (Rnd.ofCode e.rnd) (tierOf e.tier))
  | 0x00B => need (e.ty2 = 0 ∧ e.scope = 0 ∧ e.path = 0 ∧ e.sat = false ∧ tierValid e.tier = true ∧ f.b31 = false ∧ f.b = 0 ∧ w2 = 0) (.vsqrt f.hdr f.d f.a (Ty.ofCode e.ty) (Rnd.ofCode e.rnd) (tierOf e.tier))
  | 0x00C => need (e.ty2 = 0 ∧ e.scope = 0 ∧ e.path = 0 ∧ e.sat = false ∧ tierValid e.tier = true ∧ f.b31 = false ∧ f.b = 0 ∧ w2 = 0) (.vrcp f.hdr f.d f.a (Ty.ofCode e.ty) (Rnd.ofCode e.rnd) (tierOf e.tier))
  | 0x00D => need (e.ty2 = 0 ∧ e.scope = 0 ∧ e.path = 0 ∧ e.sat = false ∧ tierValid e.tier = true ∧ f.b31 = false ∧ f.b = 0 ∧ w2 = 0) (.vrsq f.hdr f.d f.a (Ty.ofCode e.ty) (Rnd.ofCode e.rnd) (tierOf e.tier))
  | 0x00E => need (e.ty2 = 0 ∧ e.scope = 0 ∧ e.path = 0 ∧ e.rnd = 0 ∧ e.sat = false ∧ tierValid e.tier = true ∧ f.b31 = false ∧ f.b = 0 ∧ w2 = 0) (.vexp2f f.hdr f.d f.a (Ty.ofCode e.ty) (tierOf e.tier))
  | 0x00F => need (e.ty2 = 0 ∧ e.scope = 0 ∧ e.path = 0 ∧ e.sat = false ∧ tierValid e.tier = true ∧ f.b31 = false ∧ f.b = 0 ∧ w2 = 0) (.vrndi f.hdr f.d f.a (Ty.ofCode e.ty) (Rnd.ofCode e.rnd) (tierOf e.tier))
  | 0x010 => need (e.ty2 = 0 ∧ e.scope = 0 ∧ e.path = 0 ∧ tierValid e.tier = true ∧ f.b31 = false ∧ w2 = 0) (.vinsx f.hdr f.d f.a f.b (Ty.ofCode e.ty) (Rnd.ofCode e.rnd) e.sat (tierOf e.tier))
  | 0x011 => need (e.ty2 = 0 ∧ e.scope = 0 ∧ e.path = 0 ∧ e.rnd = 0 ∧ e.sat = false ∧ tierValid e.tier = true ∧ f.b31 = false ∧ f.b = 0 ∧ w2 = 0) (.vextx f.hdr f.d f.a (Ty.ofCode e.ty) (tierOf e.tier))
  | 0x012 => need (e.scope = 0 ∧ e.path = 0 ∧ tierValid e.tier = true ∧ f.b31 = false ∧ f.b = 0 ∧ bits w2 2 30 = 0) (.vcvt f.hdr f.d f.a (Ty.ofCode e.ty) (Ty.ofCode e.ty2) (Rnd.ofCode e.rnd) e.sat (tierOf e.tier) (bits w2 0 2))
  | 0x013 => need (e.ty2 = 0 ∧ e.scope = 0 ∧ e.path = 0 ∧ e.rnd = 0 ∧ e.sat = false ∧ tierValid e.tier = true ∧ f.b31 = false ∧ bits w2 7 25 = 0) (.vcmp f.hdr f.d f.a f.b (Ty.ofCode e.ty) (tierOf e.tier) (bits w2 0 3) (bit w2 3) (bits w2 4 3))
  | 0x014 => need (e.ty2 = 0 ∧ e.scope = 0 ∧ e.path = 0 ∧ e.rnd = 0 ∧ e.sat = false ∧ tierValid e.tier = true ∧ f.b31 = false ∧ bits w2 5 27 = 0) (.vsel f.hdr f.d f.a f.b (Ty.ofCode e.ty) (tierOf e.tier) (bits w2 0 5))
  | 0x015 => need (e.ty = 0 ∧ e.ty2 = 0 ∧ e.scope = 0 ∧ e.path = 0 ∧ e.rnd = 0 ∧ e.sat = false ∧ tierValid e.tier = true ∧ f.b31 = false ∧ w2 = 0) (.vand f.hdr f.d f.a f.b (tierOf e.tier))
  | 0x016 => need (e.ty = 0 ∧ e.ty2 = 0 ∧ e.scope = 0 ∧ e.path = 0 ∧ e.rnd = 0 ∧ e.sat = false ∧ tierValid e.tier = true ∧ f.b31 = false ∧ w2 = 0) (.vor f.hdr f.d f.a f.b (tierOf e.tier))
  | 0x017 => need (e.ty = 0 ∧ e.ty2 = 0 ∧ e.scope = 0 ∧ e.path = 0 ∧ e.rnd = 0 ∧ e.sat = false ∧ tierValid e.tier = true ∧ f.b31 = false ∧ w2 = 0) (.vxor f.hdr f.d f.a f.b (tierOf e.tier))
  | 0x018 => need (e.ty2 = 0 ∧ e.scope = 0 ∧ e.path = 0 ∧ e.rnd = 0 ∧ tierValid e.tier = true ∧ f.b31 = false ∧ w2 = 0) (.vshl f.hdr f.d f.a f.b (Ty.ofCode e.ty) e.sat (tierOf e.tier))
  | 0x019 => need (e.ty2 = 0 ∧ e.scope = 0 ∧ e.path = 0 ∧ e.rnd = 0 ∧ e.sat = false ∧ tierValid e.tier = true ∧ f.b31 = false ∧ w2 = 0) (.vshr f.hdr f.d f.a f.b (Ty.ofCode e.ty) (tierOf e.tier))
  | 0x01A => need (e.ty2 = 0 ∧ e.scope = 0 ∧ e.path = 0 ∧ e.rnd = 0 ∧ e.sat = false ∧ tierValid e.tier = true ∧ f.b31 = false ∧ w2 = 0) (.vsra f.hdr f.d f.a f.b (Ty.ofCode e.ty) (tierOf e.tier))
  | 0x01B => need (e.ty2 = 0 ∧ e.scope = 0 ∧ e.path = 0 ∧ e.rnd = 0 ∧ e.sat = false ∧ tierValid e.tier = true ∧ f.b31 = false ∧ w2 = 0) (.vperm f.hdr f.d f.a f.b (Ty.ofCode e.ty) (tierOf e.tier))
  | 0x01C => need (e.ty2 = 0 ∧ e.scope = 0 ∧ e.path = 0 ∧ e.rnd = 0 ∧ e.sat = false ∧ tierValid e.tier = true ∧ f.b31 = false ∧ f.b = 0 ∧ w2 = 0) (.vsplat f.hdr f.d f.a (Ty.ofCode e.ty) (tierOf e.tier))
  | 0x01D => need (e.ty = 0 ∧ e.ty2 = 0 ∧ e.scope = 0 ∧ e.path = 0 ∧ e.rnd = 0 ∧ e.sat = false ∧ tierValid e.tier = true ∧ f.b31 = false ∧ f.b = 0 ∧ w2 = 0) (.vmov f.hdr f.d f.a (tierOf e.tier))
  | 0x01E => need (e.ty2 = 0 ∧ e.scope = 0 ∧ e.path = 0 ∧ tierValid e.tier = true ∧ f.b31 = false ∧ f.b = 0 ∧ w2 = 0) (.vreds f.hdr f.d f.a (Ty.ofCode e.ty) (Rnd.ofCode e.rnd) e.sat (tierOf e.tier))
  | 0x01F => need (e.ty2 = 0 ∧ e.scope = 0 ∧ e.path = 0 ∧ e.rnd = 0 ∧ e.sat = false ∧ tierValid e.tier = true ∧ f.b31 = false ∧ f.b = 0 ∧ bits w2 1 31 = 0) (.vredx f.hdr f.d f.a (Ty.ofCode e.ty) (tierOf e.tier) (bit w2 0))
  | 0x020 => need (e.ty2 = 0 ∧ e.scope = 0 ∧ e.path = 0 ∧ e.rnd = 0 ∧ e.sat = false ∧ tierValid e.tier = true ∧ f.b31 = false ∧ f.b = 0 ∧ w2 = 0) (.vclass f.hdr f.d f.a (Ty.ofCode e.ty) (tierOf e.tier))
  | 0x021 => need (e.scope = 0 ∧ e.path = 0 ∧ e.rnd = 0 ∧ e.sat = false ∧ tierValid e.tier = true ∧ f.b31 = false ∧ f.b = 0 ∧ bits w2 3 29 = 0) (.vcode f.hdr f.d f.a (Ty.ofCode e.ty) (Ty.ofCode e.ty2) (tierOf e.tier) (bits w2 0 3))
  | 0x022 => need (e.scope = 0 ∧ e.path = 0 ∧ e.rnd = 0 ∧ e.sat = false ∧ tierValid e.tier = true ∧ f.b31 = false ∧ f.b = 0 ∧ bits w2 3 29 = 0) (.vql4 f.hdr f.d f.a (Ty.ofCode e.ty) (Ty.ofCode e.ty2) (tierOf e.tier) (bits w2 0 3))
  | 0x023 => need (e.scope = 0 ∧ e.path = 0 ∧ e.rnd = 0 ∧ e.sat = false ∧ tierValid e.tier = true ∧ f.b31 = false ∧ bits w2 5 3 = 0 ∧ bits w2 14 18 = 0) (.vscac f.hdr f.d f.a f.b (Ty.ofCode e.ty) (Ty.ofCode e.ty2) (tierOf e.tier) (bits w2 0 5) (bits w2 8 5) (bit w2 13))
  | 0x024 => need (e.ty2 = 0 ∧ e.scope = 0 ∧ e.path = 0 ∧ e.rnd = 0 ∧ e.sat = false ∧ tierValid e.tier = true ∧ f.b31 = false ∧ f.b = 0 ∧ w2 = 0) (.vker f.hdr f.d f.a (Ty.ofCode e.ty) (tierOf e.tier))
  | _ => .error .unassignedSub

/-- The three-word forms of MAJ 0x64 (R80). -/
def decodeExt64 (f : Word0) (e : Word1) (w2 : Word) : Except DecodeError Instr :=
  match e.sub.toNat with
  | 0x001 => need (e.ty = 0 ∧ e.ty2 = 0 ∧ e.scope = 0 ∧ e.path = 0 ∧ e.rnd = 0 ∧ e.sat = false ∧ e.tier = 0 ∧ f.b31 = false ∧ f.b = 0 ∧ f.a = 0 ∧ f.d = 0 ∧ w2 = 0) (.gang f.hdr)
  | 0x002 => need (e.scope = 0 ∧ e.path = 0 ∧ e.rnd = 0 ∧ e.sat = false ∧ e.tier = 0 ∧ f.b31 = false ∧ f.b = 0 ∧ f.d.toNat < 4 ∧ bits w2 14 2 = 0 ∧ bits w2 29 1 = 0) (.mma f.hdr (f.d.setWidth 2) f.a (Ty.ofCode e.ty) (Ty.ofCode e.ty2) (bits w2 0 14) (bits w2 16 13) (bit w2 30) (bit w2 31))
  | 0x003 => need (e.scope = 0 ∧ e.path = 0 ∧ e.rnd = 0 ∧ e.sat = false ∧ e.tier = 0 ∧ f.b31 = false ∧ f.b.toNat < 16 ∧ f.d.toNat < 4 ∧ w2 = 0) (.mmas f.hdr (f.d.setWidth 2) f.a (f.b.setWidth 4) (Ty.ofCode e.ty) (Ty.ofCode e.ty2))
  | 0x004 => need (e.ty2 = 0 ∧ e.scope = 0 ∧ e.path = 0 ∧ e.rnd = 0 ∧ e.sat = false ∧ e.tier = 0 ∧ f.b31 = false ∧ f.d = 0 ∧ bits w2 14 16 = 0 ∧ bits w2 31 1 = 0) (.mwld f.hdr f.a f.b (Ty.ofCode e.ty) (bits w2 0 14) (bit w2 30))
  | 0x005 => need (e.ty = 0 ∧ e.ty2 = 0 ∧ e.scope = 0 ∧ e.path = 0 ∧ e.rnd = 0 ∧ e.sat = false ∧ e.tier = 0 ∧ f.b31 = false ∧ f.b = 0 ∧ f.a = 0 ∧ f.d.toNat < 4 ∧ w2 = 0) (.mzero f.hdr (f.d.setWidth 2))
  | 0x006 => need (e.ty2 = 0 ∧ e.scope = 0 ∧ e.path = 0 ∧ e.rnd = 0 ∧ e.tier = 0 ∧ f.b31 = false ∧ f.b = 0 ∧ f.a.toNat < 4 ∧ bits w2 5 27 = 0) (.mrd f.hdr f.d (f.a.setWidth 2) (Ty.ofCode e.ty) e.sat (bits w2 0 5))
  | 0x007 => need (e.ty = 0 ∧ e.ty2 = 0 ∧ e.scope = 0 ∧ e.path = 0 ∧ e.rnd = 0 ∧ e.sat = false ∧ e.tier = 0 ∧ f.b31 = false ∧ f.d.toNat < 4 ∧ w2 = 0) (.mscac f.hdr (f.d.setWidth 2) f.a f.b)
  | 0x008 => need (e.ty = 0 ∧ e.ty2 = 0 ∧ e.scope = 0 ∧ e.path = 0 ∧ e.rnd = 0 ∧ e.sat = false ∧ e.tier = 0 ∧ f.b31 = false ∧ f.b = 0 ∧ f.a = 0 ∧ w2 = 0) (.mstat f.hdr f.d)
  | _ => .error .unassignedSub

/-- The three-word forms of MAJ 0x65 (R80). -/
def decodeExt65 (f : Word0) (e : Word1) (w2 : Word) : Except DecodeError Instr :=
  match e.sub.toNat with
  | 0x001 => need (e.ty2 = 0 ∧ e.scope = 0 ∧ e.path = 0 ∧ e.rnd = 0 ∧ e.sat = false ∧ e.tier = 0 ∧ f.b31 = false ∧ f.d.toNat < 4 ∧ bits w2 2 30 = 0) (.rstr f.hdr (f.d.setWidth 2) f.a f.b (Ty.ofCode e.ty) (bit w2 0) (bit w2 1))
  | 0x002 => need (e.ty2 = 0 ∧ e.scope = 0 ∧ e.path = 0 ∧ e.rnd = 0 ∧ e.sat = false ∧ e.tier = 0 ∧ f.b31 = false ∧ f.d.toNat < 4 ∧ bits w2 2 30 = 0) (.prlg f.hdr (f.d.setWidth 2) f.a f.b (Ty.ofCode e.ty) (bit w2 0) (bit w2 1))
  | 0x003 => need (e.ty = 0 ∧ e.ty2 = 0 ∧ e.scope = 0 ∧ e.path = 0 ∧ e.rnd = 0 ∧ e.sat = false ∧ e.tier = 0 ∧ f.b31 = false ∧ f.b = 0 ∧ f.d.toNat < 4 ∧ w2 = 0) (.wsld f.hdr (f.d.setWidth 2) f.a)
  | _ => .error .unassignedSub

/-- The three-word forms of MAJ 0x66 (R80). -/
def decodeExt66 (f : Word0) (e : Word1) (w2 : Word) : Except DecodeError Instr :=
  match e.sub.toNat with
  | 0x001 => need (e.ty = 0 ∧ e.ty2 = 0 ∧ e.scope = 0 ∧ e.path = 0 ∧ e.rnd = 0 ∧ e.sat = false ∧ tierValid e.tier = true ∧ f.b31 = false ∧ f.b = 0 ∧ f.d.toNat < 16 ∧ w2 = 0) (.xclr f.hdr (f.d.setWidth 4) f.a (tierOf e.tier))
  | 0x002 => need (e.ty = 0 ∧ e.ty2 = 0 ∧ e.scope = 0 ∧ e.path = 0 ∧ e.rnd = 0 ∧ e.sat = false ∧ tierValid e.tier = true ∧ f.b31 = false ∧ f.b = 0 ∧ f.d.toNat < 16 ∧ w2 = 0) (.xld f.hdr (f.d.setWidth 4) f.a (tierOf e.tier))
  | 0x003 => need (e.ty = 0 ∧ e.ty2 = 0 ∧ e.scope = 0 ∧ e.path = 0 ∧ e.rnd = 0 ∧ e.sat = false ∧ tierValid e.tier = true ∧ f.b31 = false ∧ f.b = 0 ∧ f.d.toNat < 16 ∧ w2 = 0) (.xst f.hdr (f.d.setWidth 4) f.a (tierOf e.tier))
  | 0x004 =>
    if bits w2 0 2 = 0 then need (e.ty = 0 ∧ e.ty2 = 0 ∧ e.scope = 0 ∧ e.path = 0 ∧ e.rnd = 0 ∧ e.sat = false ∧ tierValid e.tier = true ∧ f.b31 = false ∧ f.b = 0 ∧ f.a = 0 ∧ f.d = 0 ∧ bits w2 0 4 = 0 ∧ bits w2 7 25 = 0) (.xsetKern f.hdr (tierOf e.tier) (bits w2 4 3))
    else if bits w2 0 2 = 1 then need (e.ty = 0 ∧ e.ty2 = 0 ∧ e.scope = 0 ∧ e.path = 0 ∧ e.rnd = 0 ∧ e.sat = false ∧ tierValid e.tier = true ∧ f.b31 = false ∧ f.b = 0 ∧ f.d = 0 ∧ w2 = 1) (.xsetGamma f.hdr f.a (tierOf e.tier))
    else if bits w2 0 2 = 2 then need (e.ty = 0 ∧ e.ty2 = 0 ∧ e.scope = 0 ∧ e.path = 0 ∧ e.rnd = 0 ∧ e.sat = false ∧ tierValid e.tier = true ∧ f.b31 = false ∧ f.b = 0 ∧ f.d = 0 ∧ w2 = 2) (.xsetEta f.hdr f.a (tierOf e.tier))
    else .error .fieldValue
  | 0x005 => need (e.ty = 0 ∧ e.ty2 = 0 ∧ e.scope = 0 ∧ e.path = 0 ∧ e.rnd = 0 ∧ e.sat = false ∧ tierValid e.tier = true ∧ f.b31 = false ∧ f.b = 0 ∧ f.d.toNat < 16 ∧ bits w2 13 19 = 0) (.xform f.hdr (f.d.setWidth 4) f.a (tierOf e.tier) (bits w2 0 13))
  | 0x006 => need (e.ty = 0 ∧ e.ty2 = 0 ∧ e.scope = 0 ∧ e.path = 0 ∧ e.rnd = 0 ∧ e.sat = false ∧ tierValid e.tier = true ∧ f.b31 = false ∧ f.b = 0 ∧ f.a.toNat < 16 ∧ f.d.toNat < 16 ∧ w2 = 0) (.xm2m f.hdr (f.d.setWidth 4) (f.a.setWidth 4) (tierOf e.tier))
  | 0x007 => need (e.ty = 0 ∧ e.ty2 = 0 ∧ e.scope = 0 ∧ e.path = 0 ∧ e.rnd = 0 ∧ e.sat = false ∧ tierValid e.tier = true ∧ f.b31 = false ∧ f.b = 0 ∧ f.a.toNat < 16 ∧ f.d.toNat < 16 ∧ w2 = 0) (.xm2l f.hdr (f.d.setWidth 4) (f.a.setWidth 4) (tierOf e.tier))
  | 0x008 => need (e.ty = 0 ∧ e.ty2 = 0 ∧ e.scope = 0 ∧ e.path = 0 ∧ e.rnd = 0 ∧ e.sat = false ∧ tierValid e.tier = true ∧ f.b31 = false ∧ f.b = 0 ∧ f.a.toNat < 16 ∧ f.d.toNat < 16 ∧ w2 = 0) (.xl2l f.hdr (f.d.setWidth 4) (f.a.setWidth 4) (tierOf e.tier))
  | 0x009 => need (e.ty = 0 ∧ e.ty2 = 0 ∧ e.scope = 0 ∧ e.path = 0 ∧ e.rnd = 0 ∧ e.sat = false ∧ tierValid e.tier = true ∧ f.b31 = false ∧ f.b.toNat < 16 ∧ f.d = 0 ∧ bits w2 13 19 = 0) (.xeval f.hdr f.a (f.b.setWidth 4) (tierOf e.tier) (bits w2 0 13))
  | 0x00A => need (e.ty = 0 ∧ e.ty2 = 0 ∧ e.scope = 0 ∧ e.path = 0 ∧ e.rnd = 0 ∧ e.sat = false ∧ tierValid e.tier = true ∧ f.b31 = false ∧ f.b.toNat < 16 ∧ f.d = 0 ∧ bits w2 13 19 = 0) (.xm2p f.hdr f.a (f.b.setWidth 4) (tierOf e.tier) (bits w2 0 13))
  | 0x00B => need (e.ty = 0 ∧ e.ty2 = 0 ∧ e.scope = 0 ∧ e.path = 0 ∧ e.rnd = 0 ∧ e.sat = false ∧ tierValid e.tier = true ∧ f.b31 = false ∧ f.b.toNat < 16 ∧ f.a.toNat < 16 ∧ f.d.toNat < 8 ∧ w2 = 0) (.xadm f.hdr (f.d.setWidth 3) (f.a.setWidth 4) (f.b.setWidth 4) (tierOf e.tier))
  | _ => .error .unassignedSub

/-- The three-word forms of MAJ 0x67 (R80). -/
def decodeExt67 (f : Word0) (e : Word1) (w2 : Word) : Except DecodeError Instr :=
  match e.sub.toNat with
  | 0x001 => need (e.ty = 0 ∧ e.ty2 = 0 ∧ e.path = 0 ∧ e.rnd = 0 ∧ Scope.valid e.scope = true ∧ e.sat = false ∧ e.tier = 0 ∧ f.b31 = false ∧ f.b = 0 ∧ f.d = 0 ∧ w2 = 0) (.cpy f.hdr f.a (Scope.ofCode e.scope))
  | 0x002 => need (e.ty = 0 ∧ e.ty2 = 0 ∧ e.path = 0 ∧ e.rnd = 0 ∧ Scope.valid e.scope = true ∧ e.sat = false ∧ e.tier = 0 ∧ f.b31 = false ∧ f.b = 0 ∧ f.d = 0 ∧ w2 = 0) (.cpys f.hdr f.a (Scope.ofCode e.scope))
  | 0x003 => need (e.ty = 0 ∧ e.ty2 = 0 ∧ e.path = 0 ∧ e.rnd = 0 ∧ Scope.valid e.scope = true ∧ e.sat = false ∧ e.tier = 0 ∧ f.b31 = false ∧ f.b = 0 ∧ f.d = 0 ∧ w2 = 0) (.cpyg f.hdr f.a (Scope.ofCode e.scope))
  | 0x004 => need (e.ty = 0 ∧ e.ty2 = 0 ∧ e.scope = 0 ∧ e.path = 0 ∧ e.rnd = 0 ∧ e.sat = false ∧ e.tier = 0 ∧ f.b31 = false ∧ f.b = 0 ∧ f.d = 0 ∧ w2 = 0) (.stage f.hdr f.a)
  | 0x005 => need (e.ty2 = 0 ∧ e.path = 0 ∧ e.rnd = 0 ∧ Scope.valid e.scope = true ∧ e.sat = false ∧ e.tier = 0 ∧ f.b31 = false ∧ f.b = 0 ∧ f.d = 0 ∧ bits w2 4 28 = 0) (.coll f.hdr f.a (Ty.ofCode e.ty) (Scope.ofCode e.scope) (bits w2 0 2) (bits w2 2 2))
  | 0x006 => need (e.ty = 0 ∧ e.ty2 = 0 ∧ e.scope = 0 ∧ e.path = 0 ∧ e.rnd = 0 ∧ e.sat = false ∧ e.tier = 0 ∧ f.b31 = false ∧ f.b = 0 ∧ f.d = 0 ∧ w2 = 0) (.finst f.hdr f.a)
  | 0x007 => need (e.ty = 0 ∧ e.ty2 = 0 ∧ e.scope = 0 ∧ e.path = 0 ∧ e.rnd = 0 ∧ e.sat = false ∧ e.tier = 0 ∧ f.b31 = false ∧ f.b = 0 ∧ w2 = 0) (.fstat f.hdr f.d f.a)
  | 0x008 => need (e.ty = 0 ∧ e.ty2 = 0 ∧ e.scope = 0 ∧ e.path = 0 ∧ e.rnd = 0 ∧ e.sat = false ∧ e.tier = 0 ∧ f.b31 = false ∧ f.b = 0 ∧ f.d = 0 ∧ w2 = 0) (.marm f.hdr f.a)
  | 0x009 => need (e.ty = 0 ∧ e.ty2 = 0 ∧ e.scope = 0 ∧ e.path = 0 ∧ e.rnd = 0 ∧ e.sat = false ∧ e.tier = 0 ∧ f.b31 = false ∧ f.b = 0 ∧ bits w2 1 31 = 0) (.mwait f.hdr f.d f.a (bit w2 0))
  | _ => .error .unassignedSub

/-- The three-word forms of MAJ 0x68 (R80). -/
def decodeExt68 (f : Word0) (e : Word1) (w2 : Word) : Except DecodeError Instr :=
  match e.sub.toNat with
  | 0x001 => need (e.ty2 = 0 ∧ e.path = 0 ∧ e.rnd = 0 ∧ Scope.valid e.scope = true ∧ e.sat = false ∧ e.tier = 0 ∧ f.b31 = false ∧ bits w2 8 23 = 0) (.aadd f.hdr f.d f.a f.b (Ty.ofCode e.ty) (Scope.ofCode e.scope) (bits w2 0 8) (bit w2 31))
  | 0x002 => need (e.ty2 = 0 ∧ e.path = 0 ∧ e.rnd = 0 ∧ Scope.valid e.scope = true ∧ e.sat = false ∧ e.tier = 0 ∧ f.b31 = false ∧ bits w2 8 23 = 0) (.amin f.hdr f.d f.a f.b (Ty.ofCode e.ty) (Scope.ofCode e.scope) (bits w2 0 8) (bit w2 31))
  | 0x003 => need (e.ty2 = 0 ∧ e.path = 0 ∧ e.rnd = 0 ∧ Scope.valid e.scope = true ∧ e.sat = false ∧ e.tier = 0 ∧ f.b31 = false ∧ bits w2 8 23 = 0) (.amax f.hdr f.d f.a f.b (Ty.ofCode e.ty) (Scope.ofCode e.scope) (bits w2 0 8) (bit w2 31))
  | 0x004 => need (e.ty2 = 0 ∧ e.path = 0 ∧ e.rnd = 0 ∧ Scope.valid e.scope = true ∧ e.sat = false ∧ e.tier = 0 ∧ f.b31 = false ∧ bits w2 8 23 = 0) (.axchg f.hdr f.d f.a f.b (Ty.ofCode e.ty) (Scope.ofCode e.scope) (bits w2 0 8) (bit w2 31))
  | 0x005 => need (e.ty2 = 0 ∧ e.path = 0 ∧ e.rnd = 0 ∧ Scope.valid e.scope = true ∧ e.sat = false ∧ e.tier = 0 ∧ f.b31 = false ∧ bits w2 8 23 = 0) (.acas f.hdr f.d f.a f.b (Ty.ofCode e.ty) (Scope.ofCode e.scope) (bits w2 0 8) (bit w2 31))
  | 0x006 => need (e.ty2 = 0 ∧ e.path = 0 ∧ e.rnd = 0 ∧ Scope.valid e.scope = true ∧ e.sat = false ∧ e.tier = 0 ∧ f.b31 = false ∧ bits w2 8 23 = 0) (.aand f.hdr f.d f.a f.b (Ty.ofCode e.ty) (Scope.ofCode e.scope) (bits w2 0 8) (bit w2 31))
  | 0x007 => need (e.ty2 = 0 ∧ e.path = 0 ∧ e.rnd = 0 ∧ Scope.valid e.scope = true ∧ e.sat = false ∧ e.tier = 0 ∧ f.b31 = false ∧ bits w2 8 23 = 0) (.aor f.hdr f.d f.a f.b (Ty.ofCode e.ty) (Scope.ofCode e.scope) (bits w2 0 8) (bit w2 31))
  | _ => .error .unassignedSub

/-- The three-word forms of MAJ 0x69 (R80). -/
def decodeExt69 (f : Word0) (e : Word1) (w2 : Word) : Except DecodeError Instr :=
  match e.sub.toNat with
  | 0x001 => need (e.ty = 0 ∧ e.ty2 = 0 ∧ e.scope = 0 ∧ e.path = 0 ∧ e.rnd = 0 ∧ e.sat = false ∧ e.tier = 0 ∧ f.b31 = false ∧ f.b = 0 ∧ bits w2 2 30 = 0) (.slota f.hdr f.d f.a (bits w2 0 2))
  | 0x002 => need (e.ty = 0 ∧ e.ty2 = 0 ∧ e.scope = 0 ∧ e.path = 0 ∧ e.rnd = 0 ∧ e.sat = false ∧ e.tier = 0 ∧ f.b31 = false ∧ f.b = 0 ∧ w2 = 0) (.slotf f.hdr f.d f.a)
  | 0x003 => need (e.ty = 0 ∧ e.ty2 = 0 ∧ e.scope = 0 ∧ e.path = 0 ∧ e.rnd = 0 ∧ e.sat = false ∧ e.tier = 0 ∧ f.b31 = false ∧ w2 = 0) (.rvinit f.hdr f.d f.a f.b)
  | 0x004 =>
    if bit w2 30 = false then need (e.ty = 0 ∧ e.ty2 = 0 ∧ e.scope = 0 ∧ e.path = 0 ∧ e.rnd = 0 ∧ e.sat = false ∧ e.tier = 0 ∧ f.b31 = false ∧ f.b = 0 ∧ w2 = 0x00000000) (.rvarr f.hdr f.d f.a)
    else need (e.ty = 0 ∧ e.ty2 = 0 ∧ e.scope = 0 ∧ e.path = 0 ∧ e.rnd = 0 ∧ e.sat = false ∧ e.tier = 0 ∧ f.b31 = false ∧ f.b = 0 ∧ w2 = 0x40000000) (.rvarrEng f.hdr f.d f.a)
  | 0x005 => need (e.ty = 0 ∧ e.ty2 = 0 ∧ e.scope = 0 ∧ e.path = 0 ∧ e.rnd = 0 ∧ e.sat = false ∧ e.tier = 0 ∧ f.b31 = false ∧ w2 = 0) (.rvwait f.hdr f.d f.a f.b)
  | 0x006 => need (e.ty = 0 ∧ e.ty2 = 0 ∧ e.scope = 0 ∧ e.path = 0 ∧ e.rnd = 0 ∧ e.sat = false ∧ e.tier = 0 ∧ f.b31 = false ∧ f.b = 0 ∧ bits w2 0 31 = 0) (.evsig f.hdr f.d f.a (bit w2 31))
  | 0x007 => need (e.ty = 0 ∧ e.ty2 = 0 ∧ e.scope = 0 ∧ e.path = 0 ∧ e.rnd = 0 ∧ e.sat = false ∧ e.tier = 0 ∧ f.b31 = false ∧ w2 = 0) (.evwait f.hdr f.d f.a f.b)
  | 0x008 => need (e.ty = 0 ∧ e.ty2 = 0 ∧ e.scope = 0 ∧ e.path = 0 ∧ e.rnd = 0 ∧ e.sat = false ∧ e.tier = 0 ∧ f.b31 = false ∧ f.b = 0 ∧ w2 = 0) (.mlock f.hdr f.d f.a)
  | 0x009 => need (e.ty = 0 ∧ e.ty2 = 0 ∧ e.scope = 0 ∧ e.path = 0 ∧ e.rnd = 0 ∧ e.sat = false ∧ e.tier = 0 ∧ f.b31 = false ∧ f.b = 0 ∧ w2 = 0) (.munlk f.hdr f.d f.a)
  | 0x00A => need (e.ty = 0 ∧ e.ty2 = 0 ∧ e.scope = 0 ∧ e.path = 0 ∧ e.rnd = 0 ∧ e.sat = false ∧ e.tier = 0 ∧ f.b31 = false ∧ f.b = 0 ∧ bits w2 0 31 = 0) (.acq f.hdr f.d f.a (bit w2 31))
  | 0x00B => need (e.ty = 0 ∧ e.ty2 = 0 ∧ e.scope = 0 ∧ e.path = 0 ∧ e.rnd = 0 ∧ e.sat = false ∧ e.tier = 0 ∧ f.b31 = false ∧ f.b = 0 ∧ bits w2 0 31 = 0) (.rel f.hdr f.d f.a (bit w2 31))
  | 0x00C => need (e.ty = 0 ∧ e.ty2 = 0 ∧ e.path = 0 ∧ e.rnd = 0 ∧ Scope.valid e.scope = true ∧ e.sat = false ∧ e.tier = 0 ∧ f.b31 = false ∧ f.d = 0 ∧ bits w2 30 2 = 0) (.bind f.hdr f.a f.b (Scope.ofCode e.scope) (bits w2 0 30))
  | 0x00D => need (e.ty = 0 ∧ e.ty2 = 0 ∧ e.path = 0 ∧ e.rnd = 0 ∧ Scope.valid e.scope = true ∧ e.sat = false ∧ e.tier = 0 ∧ f.b31 = false ∧ f.b = 0 ∧ f.a = 0 ∧ f.d = 0 ∧ w2 = 0) (.fence f.hdr (Scope.ofCode e.scope))
  | 0x00E => need (e.ty = 0 ∧ e.ty2 = 0 ∧ e.rnd = 0 ∧ Scope.valid e.scope = true ∧ e.sat = false ∧ e.tier = 0 ∧ f.b31 = false ∧ f.b = 0 ∧ f.a = 0 ∧ f.d = 0 ∧ bits w2 3 29 = 0) (.fencex f.hdr (Scope.ofCode e.scope) (Path.ofCode e.path) (Path.ofCode (bits w2 0 3)))
  | _ => .error .unassignedSub

/-- The three-word forms of MAJ 0x6A (R80). -/
def decodeExt6A (f : Word0) (e : Word1) (w2 : Word) : Except DecodeError Instr :=
  match e.sub.toNat with
  | 0x001 => need (e.ty = 0 ∧ e.ty2 = 0 ∧ e.scope = 0 ∧ e.path = 0 ∧ e.rnd = 0 ∧ e.sat = false ∧ e.tier = 0 ∧ f.b31 = false ∧ f.b = 0 ∧ f.d = 0 ∧ w2 = 0) (.sleep f.hdr f.a)
  | 0x002 => need (e.ty = 0 ∧ e.ty2 = 0 ∧ e.scope = 0 ∧ e.path = 0 ∧ e.rnd = 0 ∧ e.sat = false ∧ e.tier = 0 ∧ f.b31 = false ∧ f.b.toNat < 16 ∧ w2 = 0) (.twait f.hdr f.d f.a (f.b.setWidth 4))
  | _ => .error .unassignedSub

/-- The three-word forms of MAJ 0x6B (R80). -/
def decodeExt6B (f : Word0) (e : Word1) (w2 : Word) : Except DecodeError Instr :=
  match e.sub.toNat with
  | 0x001 =>
    if bit w2 0 = false then need (e.ty = 0 ∧ e.ty2 = 0 ∧ e.scope = 0 ∧ e.path = 0 ∧ e.rnd = 0 ∧ e.sat = false ∧ e.tier = 0 ∧ f.b31 = false ∧ f.b = 0 ∧ f.a = 0 ∧ f.d = 0 ∧ w2 = 0) (.idem f.hdr)
    else need (e.ty = 0 ∧ e.ty2 = 0 ∧ e.scope = 0 ∧ e.path = 0 ∧ e.rnd = 0 ∧ e.sat = false ∧ e.tier = 0 ∧ f.b31 = false ∧ f.b = 0 ∧ f.a = 0 ∧ f.d = 0 ∧ w2 = 1) (.idemEnd f.hdr)
  | 0x002 => need (e.ty = 0 ∧ e.ty2 = 0 ∧ e.scope = 0 ∧ e.path = 0 ∧ e.rnd = 0 ∧ e.sat = false ∧ e.tier = 0 ∧ f.b31 = false ∧ f.b = 0 ∧ bits w2 1 31 = 0) (.ctxsv f.hdr f.d f.a (bit w2 0))
  | 0x003 => need (e.ty = 0 ∧ e.ty2 = 0 ∧ e.scope = 0 ∧ e.path = 0 ∧ e.rnd = 0 ∧ e.sat = false ∧ e.tier = 0 ∧ f.b31 = false ∧ f.b = 0 ∧ bits w2 1 31 = 0) (.ctxld f.hdr f.d f.a (bit w2 0))
  | _ => .error .unassignedSub

/-- The three-word forms. -/
def decodeExt (f : Word0) (e : Word1) (w2 : Word) : Except DecodeError Instr :=
  match f.maj.toNat with
  | 0x60 => decodeExt60 f e w2
  | 0x61 => decodeExt61 f e w2
  | 0x62 => decodeExt62 f e w2
  | 0x63 => decodeExt63 f e w2
  | 0x64 => decodeExt64 f e w2
  | 0x65 => decodeExt65 f e w2
  | 0x66 => decodeExt66 f e w2
  | 0x67 => decodeExt67 f e w2
  | 0x68 => decodeExt68 f e w2
  | 0x69 => decodeExt69 f e w2
  | 0x6A => decodeExt6A f e w2
  | 0x6B => decodeExt6B f e w2
  | _ => .error .reservedMajor

/-- The five-word forms: LEA and VSPLAT (R349, R409). -/
def decodeExtLong (f : Word0) (e : Word1) (w2 : Word) (lit : DWord) : Except DecodeError Instr :=
  match f.maj.toNat, e.sub.toNat with
  | 0x60, 0x003 => need (e.ty = 0 ∧ e.ty2 = 0 ∧ e.scope = 0 ∧ e.path = 0 ∧ e.rnd = 0 ∧ e.sat = false ∧ tierValid e.tier = true ∧ f.b31 = false ∧ bits w2 3 29 = 0) (.leaXl f.hdr f.d f.a f.b (tierOf e.tier) (bits w2 0 3) lit)
  | 0x63, 0x01C => need (e.ty2 = 0 ∧ e.scope = 0 ∧ e.path = 0 ∧ e.rnd = 0 ∧ e.sat = false ∧ tierValid e.tier = true ∧ f.b31 = false ∧ f.b = 0 ∧ f.a = 0 ∧ w2 = 0) (.vsplatXl f.hdr f.d (Ty.ofCode e.ty) (tierOf e.tier) lit)
  | _, _ => .error .noSuchForm

/-- The 64-bit literal of two words, low half first (R75). -/
def literal (lo hi : Word) : DWord := hi ++ lo

/-- The instruction of a word sequence by LEN and MAJ (R75), before its entry's own conditions. -/
def decodeForm (ws : List Word) : Except DecodeError (Instr × Nat) :=
  match ws with
  | [] => .error .short
  | w0 :: rest =>
    let f := Word0.unpack w0
    if f.len = 0 then
      if 0x60 ≤ f.maj.toNat then .error .lenNotAllowed else (decodeBase f).map (·, 1)
    else if f.len = 1 then
      if 0x60 ≤ f.maj.toNat then .error .lenNotAllowed
      else match rest with
        | l :: h :: _ => (decodeLong f (literal l h)).map (·, 3)
        | _ => .error .short
    else if f.len = 2 then
      if f.maj.toNat < 0x60 then .error .lenNotAllowed
      else match rest with
        | w1 :: w2 :: _ => (decodeExt f (Word1.unpack w1) w2).map (·, 3)
        | _ => .error .short
    else if f.maj.toNat < 0x60 then .error .lenNotAllowed
    else match rest with
      | w1 :: w2 :: l :: h :: _ => (decodeExtLong f (Word1.unpack w1) w2 (literal l h)).map (·, 5)
      | _ => .error .short

/-- The instruction at the head of a word sequence, and how many words it takes (R75, R81). -/
def decode (ws : List Word) : Except DecodeError (Instr × Nat) :=
  match decodeForm ws with
  | .ok (i, n) => if i.wellFormed then .ok (i, n) else .error .illFormed
  | .error e => .error e

/-- Words of an instruction by LEN (R75). -/
def wordCount (w0 : Word) : Nat :=
  let l := bits w0 0 2
  if l = 0 then 1 else if l = 3 then 5 else 3

/-! ## The host's reading of a table word -/

/-- Words of 32 bits of a number, least significant first. -/
def wordsOf : Nat → Nat → List Word
  | 0, _ => []
  | n + 1, w => BitVec.ofNat 32 w :: wordsOf n (w / 2 ^ 32)

/-- The instruction read from bits numbered as the opcode table numbers them; bits above `nbits` are zero. -/
def decodeTableWord (nbits w : Nat) : Option Instr :=
  match decode (wordsOf 5 (w % 2 ^ nbits)) with
  | .ok (i, _) => some i
  | .error _ => none

/-! ## The encoder -/

/-- The header of an instruction that has no guard. -/
def Hdr.plain (gap : BitVec 2) (y : Bool) : Hdr := ⟨gap, y, 0, false⟩

/-- A first word of formats R, L, X and XL (R77). -/
def word0 (len : BitVec 2) (maj : BitVec 7) (h : Hdr) (d a b : BitVec 5) (b31 : Bool) : Word :=
  Word0.pack ⟨len, h.y, h.gap, h.g, h.gn, maj, d, a, b, b31⟩

/-- A word of format I (R77). -/
def word0I (maj : BitVec 7) (gap : BitVec 2) (d a : BitVec 5) (imm : BitVec 11) : Word :=
  Word0.pack ⟨0, a.getLsbD 0, gap, a.extractLsb' 1 3, a.getLsbD 4, maj, d, imm.extractLsb' 0 5,
    imm.extractLsb' 5 5, imm.getLsbD 10⟩

/-- A word of format J (R77). -/
def word0J (maj : BitVec 7) (h : Hdr) (disp : BitVec 16) : Word :=
  Word0.pack ⟨0, h.y, h.gap, h.g, h.gn, maj, disp.extractLsb' 0 5, disp.extractLsb' 5 5,
    disp.extractLsb' 10 5, disp.getLsbD 15⟩

/-- Word 1 of the extended forms (R78). -/
def word1 (sub : BitVec 12) (ty ty2 : BitVec 4) (scope path : BitVec 3) (rnd : BitVec 2) (sat : Bool)
    (tier : BitVec 3) : Word :=
  Word1.pack ⟨sub, ty, ty2, scope, path, rnd, sat, tier⟩


/-- The words of an instruction, from the encoding tables; the steps of other agents have none. -/
def encode : Instr → List Word
  | .add h d a b => [(word0 0b00 0x01 h d a b false)]
  | .sub h d a b => [(word0 0b00 0x02 h d a b false)]
  | .mul h d a b => [(word0 0b00 0x03 h d a b false)]
  | .mulh h d a b u => [(word0 0b00 0x04 h d a b u)]
  | .div h d a b u => [(word0 0b00 0x05 h d a b u)]
  | .rem h d a b u => [(word0 0b00 0x06 h d a b u)]
  | .and h d a b => [(word0 0b00 0x07 h d a b false)]
  | .andn h d a b => [(word0 0b00 0x08 h d a b false)]
  | .or h d a b => [(word0 0b00 0x09 h d a b false)]
  | .xor h d a b => [(word0 0b00 0x0A h d a b false)]
  | .shl h d a b => [(word0 0b00 0x0B h d a b false)]
  | .shr h d a b => [(word0 0b00 0x0C h d a b false)]
  | .sra h d a b => [(word0 0b00 0x0D h d a b false)]
  | .rot h d a b => [(word0 0b00 0x0E h d a b false)]
  | .clz h d a => [(word0 0b00 0x0F h d a 0 false)]
  | .ctz h d a => [(word0 0b00 0x10 h d a 0 false)]
  | .popc h d a => [(word0 0b00 0x11 h d a 0 false)]
  | .min h d a b u => [(word0 0b00 0x12 h d a b u)]
  | .max h d a b u => [(word0 0b00 0x13 h d a b u)]
  | .sel h d a b => [(word0 0b00 0x14 h d a b false)]
  | .mov h d a => [(word0 0b00 0x15 h d a 0 false)]
  | .sxt h d a w => [(word0 0b00 0x16 h d a w.code false)]
  | .zxt h d a w => [(word0 0b00 0x17 h d a w.code false)]
  | .cmpEq h d a b u => [(word0 0b00 0x18 h (d.setWidth 5) a b u)]
  | .cmpNe h d a b u => [(word0 0b00 0x19 h (d.setWidth 5) a b u)]
  | .cmpLt h d a b u => [(word0 0b00 0x1A h (d.setWidth 5) a b u)]
  | .cmpLe h d a b u => [(word0 0b00 0x1B h (d.setWidth 5) a b u)]
  | .addi gap d a imm => [(word0I 0x1C gap d a imm)]
  | .addiLong h d a lit => [(word0 0b01 0x1C h d a 0 false), (lit.setWidth 32), (lit.extractLsb' 32 32)]
  | .li gap d imm => [(word0I 0x1D gap d 0 imm)]
  | .liLong h d lit => [(word0 0b01 0x1D h d 0 0 false), (lit.setWidth 32), (lit.extractLsb' 32 32)]
  | .cmpiEq gap d a imm => [(word0I 0x1E gap (d.setWidth 5) a imm)]
  | .cmpiNe gap d a imm => [(word0I 0x1F gap (d.setWidth 5) a imm)]
  | .cmpiLt gap d a imm => [(word0I 0x20 gap (d.setWidth 5) a imm)]
  | .cmpiLe gap d a imm => [(word0I 0x21 gap (d.setWidth 5) a imm)]
  | .cmpiGt gap d a imm => [(word0I 0x22 gap (d.setWidth 5) a imm)]
  | .cmpiGe gap d a imm => [(word0I 0x23 gap (d.setWidth 5) a imm)]
  | .cmpiLtN64 gap d a imm => [(word0I 0x24 gap (d.setWidth 5) a imm)]
  | .cmpiLeN64 gap d a imm => [(word0I 0x25 gap (d.setWidth 5) a imm)]
  | .cmpiGtN64 gap d a imm => [(word0I 0x26 gap (d.setWidth 5) a imm)]
  | .cmpiGeN64 gap d a imm => [(word0I 0x27 gap (d.setWidth 5) a imm)]
  | .cmpiLong h cond d a lit => [(word0 0b01 (BitVec.ofNat 7 (0x1E + cond.index)) h (d.setWidth 5) a 0 false), (lit.setWidth 32), (lit.extractLsb' 32 32)]
  | .pand h d a b => [(word0 0b00 0x28 h (d.setWidth 5) (a.setWidth 5) (b.setWidth 5) false)]
  | .por h d a b => [(word0 0b00 0x29 h (d.setWidth 5) (a.setWidth 5) (b.setWidth 5) false)]
  | .pxor h d a b => [(word0 0b00 0x2A h (d.setWidth 5) (a.setWidth 5) (b.setWidth 5) false)]
  | .pnot h d a => [(word0 0b00 0x2B h (d.setWidth 5) (a.setWidth 5) 0 false)]
  | .pmov h d a => [(word0 0b00 0x2C h (d.setWidth 5) (a.setWidth 5) 0 false)]
  | .br h disp => [(word0J 0x2D h disp)]
  | .brLong h lit => [(word0 0b01 0x2D h 0 0 0 false), (lit.setWidth 32), (lit.extractLsb' 32 32)]
  | .jmp gap y disp => [(word0J 0x2E (Hdr.plain gap y) disp)]
  | .jmpLong gap y lit => [(word0 0b01 0x2E (Hdr.plain gap y) 0 0 0 false), (lit.setWidth 32), (lit.extractLsb' 32 32)]
  | .jmpi h a => [(word0 0b00 0x2F h 0 a 0 false)]
  | .call h disp => [(word0J 0x30 h disp)]
  | .callLong h lit => [(word0 0b01 0x30 h 0 0 0 false), (lit.setWidth 32), (lit.extractLsb' 32 32)]
  | .calli h a => [(word0 0b00 0x31 h 0 a 0 false)]
  | .ret gap y => [(word0 0b00 0x32 (Hdr.plain gap y) 0 0 0 false)]
  | .enter gap imm => [(word0I 0x33 gap 0 0 imm)]
  | .enterLong h lit => [(word0 0b01 0x33 h 0 0 0 false), (lit.setWidth 32), (lit.extractLsb' 32 32)]
  | .leave h => [(word0 0b00 0x34 h 0 0 0 false)]
  | .nop h => [(word0 0b00 0x35 h 0 0 0 false)]
  | .halt h => [(word0 0b00 0x36 h 0 0 0 false)]
  | .ldI8 gap d a imm => [(word0I 0x37 gap d a imm)]
  | .ldI16 gap d a imm => [(word0I 0x38 gap d a imm)]
  | .ldI32 gap d a imm => [(word0I 0x39 gap d a imm)]
  | .ldI64 gap d a imm => [(word0I 0x3A gap d a imm)]
  | .ldN8 gap d a imm => [(word0I 0x3B gap d a imm)]
  | .ldN16 gap d a imm => [(word0I 0x3C gap d a imm)]
  | .ldN32 gap d a imm => [(word0I 0x3D gap d a imm)]
  | .ldLong h ty d a lit => [(word0 0b01 (BitVec.ofNat 7 (0x37 + ty.index)) h d a 0 false), (lit.setWidth 32), (lit.extractLsb' 32 32)]
  | .stI8 gap d a imm => [(word0I 0x3E gap d a imm)]
  | .stI16 gap d a imm => [(word0I 0x3F gap d a imm)]
  | .stI32 gap d a imm => [(word0I 0x40 gap d a imm)]
  | .stI64 gap d a imm => [(word0I 0x41 gap d a imm)]
  | .stLong h ty d a lit => [(word0 0b01 (BitVec.ofNat 7 (0x3E + ty.index)) h d a 0 false), (lit.setWidth 32), (lit.extractLsb' 32 32)]
  | .vld gap d a imm => [(word0I 0x42 gap d a imm)]
  | .vldLong h d a lit => [(word0 0b01 0x42 h d a 0 false), (lit.setWidth 32), (lit.extractLsb' 32 32)]
  | .vst gap d a imm => [(word0I 0x43 gap d a imm)]
  | .vstLong h d a lit => [(word0 0b01 0x43 h d a 0 false), (lit.setWidth 32), (lit.extractLsb' 32 32)]
  | .bldI8 gap d a imm => [(word0I 0x44 gap d a imm)]
  | .bldI16 gap d a imm => [(word0I 0x45 gap d a imm)]
  | .bldI32 gap d a imm => [(word0I 0x46 gap d a imm)]
  | .bldI64 gap d a imm => [(word0I 0x47 gap d a imm)]
  | .bldN8 gap d a imm => [(word0I 0x48 gap d a imm)]
  | .bldN16 gap d a imm => [(word0I 0x49 gap d a imm)]
  | .bldN32 gap d a imm => [(word0I 0x4A gap d a imm)]
  | .bldLong h ty d a lit => [(word0 0b01 (BitVec.ofNat 7 (0x44 + ty.index)) h d a 0 false), (lit.setWidth 32), (lit.extractLsb' 32 32)]
  | .bstI8 gap d a imm => [(word0I 0x4B gap d a imm)]
  | .bstI16 gap d a imm => [(word0I 0x4C gap d a imm)]
  | .bstI32 gap d a imm => [(word0I 0x4D gap d a imm)]
  | .bstI64 gap d a imm => [(word0I 0x4E gap d a imm)]
  | .bstLong h ty d a lit => [(word0 0b01 (BitVec.ofNat 7 (0x4B + ty.index)) h d a 0 false), (lit.setWidth 32), (lit.extractLsb' 32 32)]
  | .vbld gap d a imm => [(word0I 0x4F gap d a imm)]
  | .vbldLong h d a lit => [(word0 0b01 0x4F h d a 0 false), (lit.setWidth 32), (lit.extractLsb' 32 32)]
  | .vbst gap d a imm => [(word0I 0x50 gap d a imm)]
  | .vbstLong h d a lit => [(word0 0b01 0x50 h d a 0 false), (lit.setWidth 32), (lit.extractLsb' 32 32)]
  | .blook h d a => [(word0 0b00 0x51 h d a 0 false)]
  | .btag h d a b => [(word0 0b00 0x52 h d a b false)]
  | .binv h d a => [(word0 0b00 0x53 h d a 0 false)]
  | .send h d a b => [(word0 0b00 0x54 h (d.setWidth 5) a b false)]
  | .mget h d a b => [(word0 0b00 0x55 h (d.setWidth 5) a b false)]
  | .msgb h d a b s8 => [(word0 0b00 0x56 h d a b s8)]
  | .mclr h d => [(word0 0b00 0x57 h (d.setWidth 5) 0 0 false)]
  | .ldx h d a => [(word0 0b00 0x58 h (d.setWidth 5) a 0 false)]
  | .stx h a b => [(word0 0b00 0x59 h 0 a b false)]
  | .trap gap imm => [(word0I 0x5A gap 0 0 imm)]
  | .trapLong h lit => [(word0 0b01 0x5A h 0 0 0 false), (lit.setWidth 32), (lit.extractLsb' 32 32)]
  | .eret gap y => [(word0 0b00 0x5B (Hdr.plain gap y) 0 0 0 false)]
  | .sysr gap d imm => [(word0I 0x5C gap d 0 imm)]
  | .sysrLong h d lit => [(word0 0b01 0x5C h d 0 0 false), (lit.setWidth 32), (lit.extractLsb' 32 32)]
  | .sysw gap d imm => [(word0I 0x5D gap d 0 imm)]
  | .syswLong h d lit => [(word0 0b01 0x5D h d 0 0 false), (lit.setWidth 32), (lit.extractLsb' 32 32)]
  | .yield h => [(word0 0b00 0x5E h 0 0 0 false)]
  | .ext h d a ty tier pos wm1 => [(word0 0b10 0x60 h d a 0 false), (word1 0x001 ty.code 0 0 0 0 false (tierCode tier)), ((0 : BitVec 18) ++ wm1 ++ (0 : BitVec 2) ++ pos)]
  | .ins h d a tier pos wm1 => [(word0 0b10 0x60 h d a 0 false), (word1 0x002 0 0 0 0 0 false (tierCode tier)), ((0 : BitVec 18) ++ wm1 ++ (0 : BitVec 2) ++ pos)]
  | .lea h d a b tier sh disp => [(word0 0b10 0x60 h d a b false), (word1 0x003 0 0 0 0 0 false (tierCode tier)), (disp ++ (0 : BitVec 5) ++ sh)]
  | .leaXl h d a b tier sh lit => [(word0 0b11 0x60 h d a b false), (word1 0x003 0 0 0 0 0 false (tierCode tier)), ((0 : BitVec 29) ++ sh), (lit.setWidth 32), (lit.extractLsb' 32 32)]
  | .rep h stride nm1l winl winh nm1h km1 mask => [(word0 0b10 0x61 h stride nm1l winl winh), (word1 0x001 0 0 0 0 0 false 0), (nm1h ++ km1 ++ mask)]
  | .vlds h d a b ty tier disp => [(word0 0b10 0x62 h d a b false), (word1 0x001 ty.code 0 0 0 0 false (tierCode tier)), (disp)]
  | .vsts h d a b ty tier disp => [(word0 0b10 0x62 h d a b false), (word1 0x002 ty.code 0 0 0 0 false (tierCode tier)), (disp)]
  | .vgath h d a b ty tier disp => [(word0 0b10 0x62 h d a b false), (word1 0x003 ty.code 0 0 0 0 false (tierCode tier)), (disp)]
  | .vscat h d a b ty tier disp => [(word0 0b10 0x62 h d a b false), (word1 0x004 ty.code 0 0 0 0 false (tierCode tier)), (disp)]
  | .vadd h d a b ty rnd sat tier => [(word0 0b10 0x63 h d a b false), (word1 0x001 ty.code 0 0 0 rnd.code sat (tierCode tier)), ((0 : Word))]
  | .vsub h d a b ty rnd sat tier => [(word0 0b10 0x63 h d a b false), (word1 0x002 ty.code 0 0 0 rnd.code sat (tierCode tier)), ((0 : Word))]
  | .vmul h d a b ty rnd sat tier => [(word0 0b10 0x63 h d a b false), (word1 0x003 ty.code 0 0 0 rnd.code sat (tierCode tier)), ((0 : Word))]
  | .vfma h d a b ty rnd tier c => [(word0 0b10 0x63 h d a b false), (word1 0x004 ty.code 0 0 0 rnd.code false (tierCode tier)), ((0 : BitVec 27) ++ c)]
  | .vfms h d a b ty rnd tier c => [(word0 0b10 0x63 h d a b false), (word1 0x005 ty.code 0 0 0 rnd.code false (tierCode tier)), ((0 : BitVec 27) ++ c)]
  | .vneg h d a ty sat tier => [(word0 0b10 0x63 h d a 0 false), (word1 0x006 ty.code 0 0 0 0 sat (tierCode tier)), ((0 : Word))]
  | .vabs h d a ty sat tier => [(word0 0b10 0x63 h d a 0 false), (word1 0x007 ty.code 0 0 0 0 sat (tierCode tier)), ((0 : Word))]
  | .vmin h d a b ty tier => [(word0 0b10 0x63 h d a b false), (word1 0x008 ty.code 0 0 0 0 false (tierCode tier)), ((0 : Word))]
  | .vmax h d a b ty tier => [(word0 0b10 0x63 h d a b false), (word1 0x009 ty.code 0 0 0 0 false (tierCode tier)), ((0 : Word))]
  | .vdiv h d a b ty rnd tier => [(word0 0b10 0x63 h d a b false), (word1 0x00A ty.code 0 0 0 rnd.code false (tierCode tier)), ((0 : Word))]
  | .vsqrt h d a ty rnd tier => [(word0 0b10 0x63 h d a 0 false), (word1 0x00B ty.code 0 0 0 rnd.code false (tierCode tier)), ((0 : Word))]
  | .vrcp h d a ty rnd tier => [(word0 0b10 0x63 h d a 0 false), (word1 0x00C ty.code 0 0 0 rnd.code false (tierCode tier)), ((0 : Word))]
  | .vrsq h d a ty rnd tier => [(word0 0b10 0x63 h d a 0 false), (word1 0x00D ty.code 0 0 0 rnd.code false (tierCode tier)), ((0 : Word))]
  | .vexp2f h d a ty tier => [(word0 0b10 0x63 h d a 0 false), (word1 0x00E ty.code 0 0 0 0 false (tierCode tier)), ((0 : Word))]
  | .vrndi h d a ty rnd tier => [(word0 0b10 0x63 h d a 0 false), (word1 0x00F ty.code 0 0 0 rnd.code false (tierCode tier)), ((0 : Word))]
  | .vinsx h d a b ty rnd sat tier => [(word0 0b10 0x63 h d a b false), (word1 0x010 ty.code 0 0 0 rnd.code sat (tierCode tier)), ((0 : Word))]
  | .vextx h d a ty tier => [(word0 0b10 0x63 h d a 0 false), (word1 0x011 ty.code 0 0 0 0 false (tierCode tier)), ((0 : Word))]
  | .vcvt h d a ty ty2 rnd sat tier part => [(word0 0b10 0x63 h d a 0 false), (word1 0x012 ty.code ty2.code 0 0 rnd.code sat (tierCode tier)), ((0 : BitVec 30) ++ part)]
  | .vcmp h d a b ty tier cond pw p => [(word0 0b10 0x63 h d a b false), (word1 0x013 ty.code 0 0 0 0 false (tierCode tier)), ((0 : BitVec 25) ++ p ++ (BitVec.ofBool pw) ++ cond)]
  | .vsel h d a b ty tier c => [(word0 0b10 0x63 h d a b false), (word1 0x014 ty.code 0 0 0 0 false (tierCode tier)), ((0 : BitVec 27) ++ c)]
  | .vand h d a b tier => [(word0 0b10 0x63 h d a b false), (word1 0x015 0 0 0 0 0 false (tierCode tier)), ((0 : Word))]
  | .vor h d a b tier => [(word0 0b10 0x63 h d a b false), (word1 0x016 0 0 0 0 0 false (tierCode tier)), ((0 : Word))]
  | .vxor h d a b tier => [(word0 0b10 0x63 h d a b false), (word1 0x017 0 0 0 0 0 false (tierCode tier)), ((0 : Word))]
  | .vshl h d a b ty sat tier => [(word0 0b10 0x63 h d a b false), (word1 0x018 ty.code 0 0 0 0 sat (tierCode tier)), ((0 : Word))]
  | .vshr h d a b ty tier => [(word0 0b10 0x63 h d a b false), (word1 0x019 ty.code 0 0 0 0 false (tierCode tier)), ((0 : Word))]
  | .vsra h d a b ty tier => [(word0 0b10 0x63 h d a b false), (word1 0x01A ty.code 0 0 0 0 false (tierCode tier)), ((0 : Word))]
  | .vperm h d a b ty tier => [(word0 0b10 0x63 h d a b false), (word1 0x01B ty.code 0 0 0 0 false (tierCode tier)), ((0 : Word))]
  | .vsplat h d a ty tier => [(word0 0b10 0x63 h d a 0 false), (word1 0x01C ty.code 0 0 0 0 false (tierCode tier)), ((0 : Word))]
  | .vsplatXl h d ty tier lit => [(word0 0b11 0x63 h d 0 0 false), (word1 0x01C ty.code 0 0 0 0 false (tierCode tier)), ((0 : Word)), (lit.setWidth 32), (lit.extractLsb' 32 32)]
  | .vmov h d a tier => [(word0 0b10 0x63 h d a 0 false), (word1 0x01D 0 0 0 0 0 false (tierCode tier)), ((0 : Word))]
  | .vreds h d a ty rnd sat tier => [(word0 0b10 0x63 h d a 0 false), (word1 0x01E ty.code 0 0 0 rnd.code sat (tierCode tier)), ((0 : Word))]
  | .vredx h d a ty tier isMax => [(word0 0b10 0x63 h d a 0 false), (word1 0x01F ty.code 0 0 0 0 false (tierCode tier)), ((0 : BitVec 31) ++ (BitVec.ofBool isMax))]
  | .vclass h d a ty tier => [(word0 0b10 0x63 h d a 0 false), (word1 0x020 ty.code 0 0 0 0 false (tierCode tier)), ((0 : Word))]
  | .vcode h d a ty ty2 tier seg => [(word0 0b10 0x63 h d a 0 false), (word1 0x021 ty.code ty2.code 0 0 0 false (tierCode tier)), ((0 : BitVec 29) ++ seg)]
  | .vql4 h d a ty ty2 tier seg => [(word0 0b10 0x63 h d a 0 false), (word1 0x022 ty.code ty2.code 0 0 0 false (tierCode tier)), ((0 : BitVec 29) ++ seg)]
  | .vscac h d a b ty ty2 tier c e ql => [(word0 0b10 0x63 h d a b false), (word1 0x023 ty.code ty2.code 0 0 0 false (tierCode tier)), ((0 : BitVec 18) ++ (BitVec.ofBool ql) ++ e ++ (0 : BitVec 3) ++ c)]
  | .vker h d a ty tier => [(word0 0b10 0x63 h d a 0 false), (word1 0x024 ty.code 0 0 0 0 false (tierCode tier)), ((0 : Word))]
  | .gang h => [(word0 0b10 0x64 h 0 0 0 false), (word1 0x001 0 0 0 0 0 false 0), ((0 : Word))]
  | .mma h d a ty ty2 k koff t z => [(word0 0b10 0x64 h (d.setWidth 5) a 0 false), (word1 0x002 ty.code ty2.code 0 0 0 false 0), ((BitVec.ofBool z) ++ (BitVec.ofBool t) ++ (0 : BitVec 1) ++ koff ++ (0 : BitVec 2) ++ k)]
  | .mmas h d a b ty ty2 => [(word0 0b10 0x64 h (d.setWidth 5) a (b.setWidth 5) false), (word1 0x003 ty.code ty2.code 0 0 0 false 0), ((0 : Word))]
  | .mwld h a b ty k axis => [(word0 0b10 0x64 h 0 a b false), (word1 0x004 ty.code 0 0 0 0 false 0), ((0 : BitVec 1) ++ (BitVec.ofBool axis) ++ (0 : BitVec 16) ++ k)]
  | .mzero h d => [(word0 0b10 0x64 h (d.setWidth 5) 0 0 false), (word1 0x005 0 0 0 0 0 false 0), ((0 : Word))]
  | .mrd h d a ty sat row => [(word0 0b10 0x64 h d (a.setWidth 5) 0 false), (word1 0x006 ty.code 0 0 0 0 sat 0), ((0 : BitVec 27) ++ row)]
  | .mscac h d a b => [(word0 0b10 0x64 h (d.setWidth 5) a b false), (word1 0x007 0 0 0 0 0 false 0), ((0 : Word))]
  | .mstat h d => [(word0 0b10 0x64 h d 0 0 false), (word1 0x008 0 0 0 0 0 false 0), ((0 : Word))]
  | .rstr h d a b ty ovw self => [(word0 0b10 0x65 h (d.setWidth 5) a b false), (word1 0x001 ty.code 0 0 0 0 false 0), ((0 : BitVec 30) ++ (BitVec.ofBool self) ++ (BitVec.ofBool ovw))]
  | .prlg h d a b ty ovw self => [(word0 0b10 0x65 h (d.setWidth 5) a b false), (word1 0x002 ty.code 0 0 0 0 false 0), ((0 : BitVec 30) ++ (BitVec.ofBool self) ++ (BitVec.ofBool ovw))]
  | .wsld h d a => [(word0 0b10 0x65 h (d.setWidth 5) a 0 false), (word1 0x003 0 0 0 0 0 false 0), ((0 : Word))]
  | .xclr h d a tier => [(word0 0b10 0x66 h (d.setWidth 5) a 0 false), (word1 0x001 0 0 0 0 0 false (tierCode tier)), ((0 : Word))]
  | .xld h d a tier => [(word0 0b10 0x66 h (d.setWidth 5) a 0 false), (word1 0x002 0 0 0 0 0 false (tierCode tier)), ((0 : Word))]
  | .xst h d a tier => [(word0 0b10 0x66 h (d.setWidth 5) a 0 false), (word1 0x003 0 0 0 0 0 false (tierCode tier)), ((0 : Word))]
  | .xsetKern h tier kern => [(word0 0b10 0x66 h 0 0 0 false), (word1 0x004 0 0 0 0 0 false (tierCode tier)), ((0 : BitVec 25) ++ kern ++ (0 : BitVec 4))]
  | .xsetGamma h a tier => [(word0 0b10 0x66 h 0 a 0 false), (word1 0x004 0 0 0 0 0 false (tierCode tier)), ((1 : Word))]
  | .xsetEta h a tier => [(word0 0b10 0x66 h 0 a 0 false), (word1 0x004 0 0 0 0 0 false (tierCode tier)), ((2 : Word))]
  | .xform h d a tier n => [(word0 0b10 0x66 h (d.setWidth 5) a 0 false), (word1 0x005 0 0 0 0 0 false (tierCode tier)), ((0 : BitVec 19) ++ n)]
  | .xm2m h d a tier => [(word0 0b10 0x66 h (d.setWidth 5) (a.setWidth 5) 0 false), (word1 0x006 0 0 0 0 0 false (tierCode tier)), ((0 : Word))]
  | .xm2l h d a tier => [(word0 0b10 0x66 h (d.setWidth 5) (a.setWidth 5) 0 false), (word1 0x007 0 0 0 0 0 false (tierCode tier)), ((0 : Word))]
  | .xl2l h d a tier => [(word0 0b10 0x66 h (d.setWidth 5) (a.setWidth 5) 0 false), (word1 0x008 0 0 0 0 0 false (tierCode tier)), ((0 : Word))]
  | .xeval h a b tier n => [(word0 0b10 0x66 h 0 a (b.setWidth 5) false), (word1 0x009 0 0 0 0 0 false (tierCode tier)), ((0 : BitVec 19) ++ n)]
  | .xm2p h a b tier n => [(word0 0b10 0x66 h 0 a (b.setWidth 5) false), (word1 0x00A 0 0 0 0 0 false (tierCode tier)), ((0 : BitVec 19) ++ n)]
  | .xadm h d a b tier => [(word0 0b10 0x66 h (d.setWidth 5) (a.setWidth 5) (b.setWidth 5) false), (word1 0x00B 0 0 0 0 0 false (tierCode tier)), ((0 : Word))]
  | .cpy h a scope => [(word0 0b10 0x67 h 0 a 0 false), (word1 0x001 0 0 scope.code 0 0 false 0), ((0 : Word))]
  | .cpys h a scope => [(word0 0b10 0x67 h 0 a 0 false), (word1 0x002 0 0 scope.code 0 0 false 0), ((0 : Word))]
  | .cpyg h a scope => [(word0 0b10 0x67 h 0 a 0 false), (word1 0x003 0 0 scope.code 0 0 false 0), ((0 : Word))]
  | .stage h a => [(word0 0b10 0x67 h 0 a 0 false), (word1 0x004 0 0 0 0 0 false 0), ((0 : Word))]
  | .coll h a ty scope kind op => [(word0 0b10 0x67 h 0 a 0 false), (word1 0x005 ty.code 0 scope.code 0 0 false 0), ((0 : BitVec 28) ++ op ++ kind)]
  | .finst h a => [(word0 0b10 0x67 h 0 a 0 false), (word1 0x006 0 0 0 0 0 false 0), ((0 : Word))]
  | .fstat h d a => [(word0 0b10 0x67 h d a 0 false), (word1 0x007 0 0 0 0 0 false 0), ((0 : Word))]
  | .marm h a => [(word0 0b10 0x67 h 0 a 0 false), (word1 0x008 0 0 0 0 0 false 0), ((0 : Word))]
  | .mwait h d a ne => [(word0 0b10 0x67 h d a 0 false), (word1 0x009 0 0 0 0 0 false 0), ((0 : BitVec 31) ++ (BitVec.ofBool ne))]
  | .aadd h d a b ty scope k sc => [(word0 0b10 0x68 h d a b false), (word1 0x001 ty.code 0 scope.code 0 0 false 0), ((BitVec.ofBool sc) ++ (0 : BitVec 23) ++ k)]
  | .amin h d a b ty scope k sc => [(word0 0b10 0x68 h d a b false), (word1 0x002 ty.code 0 scope.code 0 0 false 0), ((BitVec.ofBool sc) ++ (0 : BitVec 23) ++ k)]
  | .amax h d a b ty scope k sc => [(word0 0b10 0x68 h d a b false), (word1 0x003 ty.code 0 scope.code 0 0 false 0), ((BitVec.ofBool sc) ++ (0 : BitVec 23) ++ k)]
  | .axchg h d a b ty scope k sc => [(word0 0b10 0x68 h d a b false), (word1 0x004 ty.code 0 scope.code 0 0 false 0), ((BitVec.ofBool sc) ++ (0 : BitVec 23) ++ k)]
  | .acas h d a b ty scope k sc => [(word0 0b10 0x68 h d a b false), (word1 0x005 ty.code 0 scope.code 0 0 false 0), ((BitVec.ofBool sc) ++ (0 : BitVec 23) ++ k)]
  | .aand h d a b ty scope k sc => [(word0 0b10 0x68 h d a b false), (word1 0x006 ty.code 0 scope.code 0 0 false 0), ((BitVec.ofBool sc) ++ (0 : BitVec 23) ++ k)]
  | .aor h d a b ty scope k sc => [(word0 0b10 0x68 h d a b false), (word1 0x007 ty.code 0 scope.code 0 0 false 0), ((BitVec.ofBool sc) ++ (0 : BitVec 23) ++ k)]
  | .slota h d a kind => [(word0 0b10 0x69 h d a 0 false), (word1 0x001 0 0 0 0 0 false 0), ((0 : BitVec 30) ++ kind)]
  | .slotf h d a => [(word0 0b10 0x69 h d a 0 false), (word1 0x002 0 0 0 0 0 false 0), ((0 : Word))]
  | .rvinit h d a b => [(word0 0b10 0x69 h d a b false), (word1 0x003 0 0 0 0 0 false 0), ((0 : Word))]
  | .rvarr h d a => [(word0 0b10 0x69 h d a 0 false), (word1 0x004 0 0 0 0 0 false 0), ((0x00000000 : Word))]
  | .rvarrEng h d a => [(word0 0b10 0x69 h d a 0 false), (word1 0x004 0 0 0 0 0 false 0), ((0x40000000 : Word))]
  | .rvwait h d a b => [(word0 0b10 0x69 h d a b false), (word1 0x005 0 0 0 0 0 false 0), ((0 : Word))]
  | .evsig h d a sc => [(word0 0b10 0x69 h d a 0 false), (word1 0x006 0 0 0 0 0 false 0), ((BitVec.ofBool sc) ++ (0 : BitVec 31))]
  | .evwait h d a b => [(word0 0b10 0x69 h d a b false), (word1 0x007 0 0 0 0 0 false 0), ((0 : Word))]
  | .mlock h d a => [(word0 0b10 0x69 h d a 0 false), (word1 0x008 0 0 0 0 0 false 0), ((0 : Word))]
  | .munlk h d a => [(word0 0b10 0x69 h d a 0 false), (word1 0x009 0 0 0 0 0 false 0), ((0 : Word))]
  | .acq h d a sc => [(word0 0b10 0x69 h d a 0 false), (word1 0x00A 0 0 0 0 0 false 0), ((BitVec.ofBool sc) ++ (0 : BitVec 31))]
  | .rel h d a sc => [(word0 0b10 0x69 h d a 0 false), (word1 0x00B 0 0 0 0 0 false 0), ((BitVec.ofBool sc) ++ (0 : BitVec 31))]
  | .bind h a b scope n => [(word0 0b10 0x69 h 0 a b false), (word1 0x00C 0 0 scope.code 0 0 false 0), ((0 : BitVec 2) ++ n)]
  | .fence h scope => [(word0 0b10 0x69 h 0 0 0 false), (word1 0x00D 0 0 scope.code 0 0 false 0), ((0 : Word))]
  | .fencex h scope path p2 => [(word0 0b10 0x69 h 0 0 0 false), (word1 0x00E 0 0 scope.code path.code 0 false 0), ((0 : BitVec 29) ++ p2.code)]
  | .sleep h a => [(word0 0b10 0x6A h 0 a 0 false), (word1 0x001 0 0 0 0 0 false 0), ((0 : Word))]
  | .twait h d a b => [(word0 0b10 0x6A h d a (b.setWidth 5) false), (word1 0x002 0 0 0 0 0 false 0), ((0 : Word))]
  | .idem h => [(word0 0b10 0x6B h 0 0 0 false), (word1 0x001 0 0 0 0 0 false 0), ((0 : Word))]
  | .idemEnd h => [(word0 0b10 0x6B h 0 0 0 false), (word1 0x001 0 0 0 0 0 false 0), ((1 : Word))]
  | .ctxsv h d a all => [(word0 0b10 0x6B h d a 0 false), (word1 0x002 0 0 0 0 0 false 0), ((0 : BitVec 31) ++ (BitVec.ofBool all))]
  | .ctxld h d a all => [(word0 0b10 0x6B h d a 0 false), (word1 0x003 0 0 0 0 0 false 0), ((0 : BitVec 31) ++ (BitVec.ofBool all))]
  | .phaseRelease => []
  | .releaseNotice => []
  | .phaseEnd => []
  | .gangBarrierTimeout => []
  | .stop => []
  | .groupHalt => []
  | .preempt => []
  | .resumeRequest => []
  | .thermDelivery => []
  | .messageArrival => []
  | .mgetPortRead => []
  | .mgetReply => []
  | .msgbPortWrite => []
  | .ldxReply => []
  | .stxComplete => []
  | .engineMessageArrival => []
  | .sliceOpStart => []
  | .sliceOpComplete => []
  | .mwldComplete => []
  | .mmasComplete => []
  | .verticalOpStart => []
  | .verticalOpEnd => []
  | .rstrMerge => []
  | .laneStateChange => []
  | .expansionOpStart => []
  | .expansionOpEnd => []
  | .engineCommandStart => []
  | .engineUnit => []
  | .engineStampWrite => []
  | .staticEntryStart => []
  | .installComplete => []
  | .collComplete => []
  | .translationWalk => []
  | .stagingFill => []
  | .atomicSlot => []
  | .clusterAtomicReply => []
  | .deviceAtomicReply => []
  | .objectReply => []
  | .scAnnounce => []
  | .scDelivery => []
  | .rvRootForward => []
  | .fireArrival => []
  | .eventChainForward => []
  | .sleepExpiry => []
  | .twaitExpiry => []
  | .faultRecordDrain => []
  | .taskStart => []
  | .nodeKernel => []
  | .kernelComplete => []
  | .nodeCopy => []
  | .nodeInstall => []
  | .nodeCond => []
  | .nodeLoop => []
  | .nodeSwitch => []
  | .nodeSignal => []
  | .signalComplete => []
  | .nodeWait => []
  | .waitTimeout => []
  | .nodeSuccessor => []
  | .taskStampWrite => []
  | .qctlWrite => []
  | .qptrWrite => []
  | .partcfgWrite => []
  | .vfbindWrite => []
  | .beatctlReqWrite => []
  | .beatctlRestore => []
  | .beatChange => []
  | .tctlWrite => []
  | .pcapWrite => []
  | .pfloorWrite => []
  | .hlimWrite => []
  | .ibudgetWrite => []
  | .fqctlWrite => []
  | .tinv => []
  | .tinvComplete => []
  | .routingEntryWrite => []
  | .swap => []
  | .routeBankSwap => []
  | .pstatClr => []
  | .attestRequest => []
  | .attestComplete => []
  | .mgmtRegisterWrite => []
  | .initiateFlr => []
  | .flrDrainDone => []
  | .flrComplete => []
  | .sensorSample => []
  | .selfThrottleStep => []
  | .hardLimitStep => []
  | .budgetRefill => []
  | .flitReceive => []
  | .drainMarker => []
  | .flowLossTimeout => []
  | .linkEvent => []
  | .noticeReceive => []
  | .retrainComplete => []
  | .flowControlSignal => []
  | .powerOn => []
  | .fstatResult => []
  | .partcfgChangeComplete => []
  | .portTrainingComplete => []
  | .softError => []

/-- Which of the fields D, A and B name a register (bits 0, 1, 2): REP rotates no other (R372). -/
def fieldsUsed : Instr → BitVec 3
  | .add _ _ _ _ => 7
  | .sub _ _ _ _ => 7
  | .mul _ _ _ _ => 7
  | .mulh _ _ _ _ _ => 7
  | .div _ _ _ _ _ => 7
  | .rem _ _ _ _ _ => 7
  | .and _ _ _ _ => 7
  | .andn _ _ _ _ => 7
  | .or _ _ _ _ => 7
  | .xor _ _ _ _ => 7
  | .shl _ _ _ _ => 7
  | .shr _ _ _ _ => 7
  | .sra _ _ _ _ => 7
  | .rot _ _ _ _ => 7
  | .clz _ _ _ => 3
  | .ctz _ _ _ => 3
  | .popc _ _ _ => 3
  | .min _ _ _ _ _ => 7
  | .max _ _ _ _ _ => 7
  | .sel _ _ _ _ => 7
  | .mov _ _ _ => 3
  | .sxt _ _ _ _ => 3
  | .zxt _ _ _ _ => 3
  | .cmpEq _ _ _ _ _ => 7
  | .cmpNe _ _ _ _ _ => 7
  | .cmpLt _ _ _ _ _ => 7
  | .cmpLe _ _ _ _ _ => 7
  | .addi _ _ _ _ => 3
  | .addiLong _ _ _ _ => 3
  | .li _ _ _ => 1
  | .liLong _ _ _ => 1
  | .cmpiEq _ _ _ _ => 3
  | .cmpiNe _ _ _ _ => 3
  | .cmpiLt _ _ _ _ => 3
  | .cmpiLe _ _ _ _ => 3
  | .cmpiGt _ _ _ _ => 3
  | .cmpiGe _ _ _ _ => 3
  | .cmpiLtN64 _ _ _ _ => 3
  | .cmpiLeN64 _ _ _ _ => 3
  | .cmpiGtN64 _ _ _ _ => 3
  | .cmpiGeN64 _ _ _ _ => 3
  | .cmpiLong _ _ _ _ _ => 3
  | .pand _ _ _ _ => 7
  | .por _ _ _ _ => 7
  | .pxor _ _ _ _ => 7
  | .pnot _ _ _ => 3
  | .pmov _ _ _ => 3
  | .br _ _ => 0
  | .brLong _ _ => 0
  | .jmp _ _ _ => 0
  | .jmpLong _ _ _ => 0
  | .jmpi _ _ => 2
  | .call _ _ => 0
  | .callLong _ _ => 0
  | .calli _ _ => 2
  | .ret _ _ => 0
  | .enter _ _ => 0
  | .enterLong _ _ => 0
  | .leave _ => 0
  | .nop _ => 0
  | .halt _ => 0
  | .ldI8 _ _ _ _ => 3
  | .ldI16 _ _ _ _ => 3
  | .ldI32 _ _ _ _ => 3
  | .ldI64 _ _ _ _ => 3
  | .ldN8 _ _ _ _ => 3
  | .ldN16 _ _ _ _ => 3
  | .ldN32 _ _ _ _ => 3
  | .ldLong _ _ _ _ _ => 3
  | .stI8 _ _ _ _ => 3
  | .stI16 _ _ _ _ => 3
  | .stI32 _ _ _ _ => 3
  | .stI64 _ _ _ _ => 3
  | .stLong _ _ _ _ _ => 3
  | .vld _ _ _ _ => 3
  | .vldLong _ _ _ _ => 3
  | .vst _ _ _ _ => 3
  | .vstLong _ _ _ _ => 3
  | .bldI8 _ _ _ _ => 3
  | .bldI16 _ _ _ _ => 3
  | .bldI32 _ _ _ _ => 3
  | .bldI64 _ _ _ _ => 3
  | .bldN8 _ _ _ _ => 3
  | .bldN16 _ _ _ _ => 3
  | .bldN32 _ _ _ _ => 3
  | .bldLong _ _ _ _ _ => 3
  | .bstI8 _ _ _ _ => 3
  | .bstI16 _ _ _ _ => 3
  | .bstI32 _ _ _ _ => 3
  | .bstI64 _ _ _ _ => 3
  | .bstLong _ _ _ _ _ => 3
  | .vbld _ _ _ _ => 3
  | .vbldLong _ _ _ _ => 3
  | .vbst _ _ _ _ => 3
  | .vbstLong _ _ _ _ => 3
  | .blook _ _ _ => 3
  | .btag _ _ _ _ => 7
  | .binv _ _ _ => 3
  | .send _ _ _ _ => 7
  | .mget _ _ _ _ => 7
  | .msgb _ _ _ _ _ => 7
  | .mclr _ _ => 1
  | .ldx _ _ _ => 3
  | .stx _ _ _ => 6
  | .trap _ _ => 0
  | .trapLong _ _ => 0
  | .eret _ _ => 0
  | .sysr _ _ _ => 1
  | .sysrLong _ _ _ => 1
  | .sysw _ _ _ => 1
  | .syswLong _ _ _ => 1
  | .yield _ => 0
  | .ext _ _ _ _ _ _ _ => 3
  | .ins _ _ _ _ _ _ => 3
  | .lea _ _ _ _ _ _ _ => 7
  | .leaXl _ _ _ _ _ _ _ => 7
  | .rep _ _ _ _ _ _ _ _ => 0
  | .vlds _ _ _ _ _ _ _ => 7
  | .vsts _ _ _ _ _ _ _ => 7
  | .vgath _ _ _ _ _ _ _ => 7
  | .vscat _ _ _ _ _ _ _ => 7
  | .vadd _ _ _ _ _ _ _ _ => 7
  | .vsub _ _ _ _ _ _ _ _ => 7
  | .vmul _ _ _ _ _ _ _ _ => 7
  | .vfma _ _ _ _ _ _ _ _ => 7
  | .vfms _ _ _ _ _ _ _ _ => 7
  | .vneg _ _ _ _ _ _ => 3
  | .vabs _ _ _ _ _ _ => 3
  | .vmin _ _ _ _ _ _ => 7
  | .vmax _ _ _ _ _ _ => 7
  | .vdiv _ _ _ _ _ _ _ => 7
  | .vsqrt _ _ _ _ _ _ => 3
  | .vrcp _ _ _ _ _ _ => 3
  | .vrsq _ _ _ _ _ _ => 3
  | .vexp2f _ _ _ _ _ => 3
  | .vrndi _ _ _ _ _ _ => 3
  | .vinsx _ _ _ _ _ _ _ _ => 7
  | .vextx _ _ _ _ _ => 3
  | .vcvt _ _ _ _ _ _ _ _ _ => 3
  | .vcmp _ _ _ _ _ _ _ _ _ => 7
  | .vsel _ _ _ _ _ _ _ => 7
  | .vand _ _ _ _ _ => 7
  | .vor _ _ _ _ _ => 7
  | .vxor _ _ _ _ _ => 7
  | .vshl _ _ _ _ _ _ _ => 7
  | .vshr _ _ _ _ _ _ => 7
  | .vsra _ _ _ _ _ _ => 7
  | .vperm _ _ _ _ _ _ => 7
  | .vsplat _ _ _ _ _ => 3
  | .vsplatXl _ _ _ _ _ => 1
  | .vmov _ _ _ _ => 3
  | .vreds _ _ _ _ _ _ _ => 3
  | .vredx _ _ _ _ _ _ => 3
  | .vclass _ _ _ _ _ => 3
  | .vcode _ _ _ _ _ _ _ => 3
  | .vql4 _ _ _ _ _ _ _ => 3
  | .vscac _ _ _ _ _ _ _ _ _ _ => 7
  | .vker _ _ _ _ _ => 3
  | .gang _ => 0
  | .mma _ _ _ _ _ _ _ _ _ => 3
  | .mmas _ _ _ _ _ _ => 7
  | .mwld _ _ _ _ _ _ => 6
  | .mzero _ _ => 1
  | .mrd _ _ _ _ _ _ => 3
  | .mscac _ _ _ _ => 7
  | .mstat _ _ => 1
  | .rstr _ _ _ _ _ _ _ => 7
  | .prlg _ _ _ _ _ _ _ => 7
  | .wsld _ _ _ => 3
  | .xclr _ _ _ _ => 3
  | .xld _ _ _ _ => 3
  | .xst _ _ _ _ => 3
  | .xsetKern _ _ _ => 0
  | .xsetGamma _ _ _ => 2
  | .xsetEta _ _ _ => 2
  | .xform _ _ _ _ _ => 3
  | .xm2m _ _ _ _ => 3
  | .xm2l _ _ _ _ => 3
  | .xl2l _ _ _ _ => 3
  | .xeval _ _ _ _ _ => 6
  | .xm2p _ _ _ _ _ => 6
  | .xadm _ _ _ _ _ => 7
  | .cpy _ _ _ => 2
  | .cpys _ _ _ => 2
  | .cpyg _ _ _ => 2
  | .stage _ _ => 2
  | .coll _ _ _ _ _ _ => 2
  | .finst _ _ => 2
  | .fstat _ _ _ => 3
  | .marm _ _ => 2
  | .mwait _ _ _ _ => 3
  | .aadd _ _ _ _ _ _ _ _ => 7
  | .amin _ _ _ _ _ _ _ _ => 7
  | .amax _ _ _ _ _ _ _ _ => 7
  | .axchg _ _ _ _ _ _ _ _ => 7
  | .acas _ _ _ _ _ _ _ _ => 7
  | .aand _ _ _ _ _ _ _ _ => 7
  | .aor _ _ _ _ _ _ _ _ => 7
  | .slota _ _ _ kind => if kind = 2 then 3 else 1
  | .slotf _ _ _ => 3
  | .rvinit _ _ _ _ => 7
  | .rvarr _ _ _ => 3
  | .rvarrEng _ _ _ => 3
  | .rvwait _ _ _ _ => 7
  | .evsig _ _ _ _ => 3
  | .evwait _ _ _ _ => 7
  | .mlock _ _ _ => 3
  | .munlk _ _ _ => 3
  | .acq _ _ _ _ => 3
  | .rel _ _ _ _ => 3
  | .bind _ _ _ _ _ => 6
  | .fence _ _ => 0
  | .fencex _ _ _ _ => 0
  | .sleep _ _ => 2
  | .twait _ _ _ _ => 7
  | .idem _ => 0
  | .idemEnd _ => 0
  | .ctxsv _ _ _ _ => 3
  | .ctxld _ _ _ _ => 3
  | .phaseRelease => 0
  | .releaseNotice => 0
  | .phaseEnd => 0
  | .gangBarrierTimeout => 0
  | .stop => 0
  | .groupHalt => 0
  | .preempt => 0
  | .resumeRequest => 0
  | .thermDelivery => 0
  | .messageArrival => 0
  | .mgetPortRead => 0
  | .mgetReply => 0
  | .msgbPortWrite => 0
  | .ldxReply => 0
  | .stxComplete => 0
  | .engineMessageArrival => 0
  | .sliceOpStart => 0
  | .sliceOpComplete => 0
  | .mwldComplete => 0
  | .mmasComplete => 0
  | .verticalOpStart => 0
  | .verticalOpEnd => 0
  | .rstrMerge => 0
  | .laneStateChange => 0
  | .expansionOpStart => 0
  | .expansionOpEnd => 0
  | .engineCommandStart => 0
  | .engineUnit => 0
  | .engineStampWrite => 0
  | .staticEntryStart => 0
  | .installComplete => 0
  | .collComplete => 0
  | .translationWalk => 0
  | .stagingFill => 0
  | .atomicSlot => 0
  | .clusterAtomicReply => 0
  | .deviceAtomicReply => 0
  | .objectReply => 0
  | .scAnnounce => 0
  | .scDelivery => 0
  | .rvRootForward => 0
  | .fireArrival => 0
  | .eventChainForward => 0
  | .sleepExpiry => 0
  | .twaitExpiry => 0
  | .faultRecordDrain => 0
  | .taskStart => 0
  | .nodeKernel => 0
  | .kernelComplete => 0
  | .nodeCopy => 0
  | .nodeInstall => 0
  | .nodeCond => 0
  | .nodeLoop => 0
  | .nodeSwitch => 0
  | .nodeSignal => 0
  | .signalComplete => 0
  | .nodeWait => 0
  | .waitTimeout => 0
  | .nodeSuccessor => 0
  | .taskStampWrite => 0
  | .qctlWrite => 0
  | .qptrWrite => 0
  | .partcfgWrite => 0
  | .vfbindWrite => 0
  | .beatctlReqWrite => 0
  | .beatctlRestore => 0
  | .beatChange => 0
  | .tctlWrite => 0
  | .pcapWrite => 0
  | .pfloorWrite => 0
  | .hlimWrite => 0
  | .ibudgetWrite => 0
  | .fqctlWrite => 0
  | .tinv => 0
  | .tinvComplete => 0
  | .routingEntryWrite => 0
  | .swap => 0
  | .routeBankSwap => 0
  | .pstatClr => 0
  | .attestRequest => 0
  | .attestComplete => 0
  | .mgmtRegisterWrite => 0
  | .initiateFlr => 0
  | .flrDrainDone => 0
  | .flrComplete => 0
  | .sensorSample => 0
  | .selfThrottleStep => 0
  | .hardLimitStep => 0
  | .budgetRefill => 0
  | .flitReceive => 0
  | .drainMarker => 0
  | .flowLossTimeout => 0
  | .linkEvent => 0
  | .noticeReceive => 0
  | .retrainComplete => 0
  | .flowControlSignal => 0
  | .powerOn => 0
  | .fstatResult => 0
  | .partcfgChangeComplete => 0
  | .portTrainingComplete => 0
  | .softError => 0

/-- Control instructions, which may not stand in a REP body (R43). -/
def isControl : Instr → Bool
  | .br _ _ => true
  | .brLong _ _ => true
  | .jmp _ _ _ => true
  | .jmpLong _ _ _ => true
  | .jmpi _ _ => true
  | .call _ _ => true
  | .callLong _ _ => true
  | .calli _ _ => true
  | .ret _ _ => true
  | .halt _ => true
  | .trap _ _ => true
  | .trapLong _ _ => true
  | .eret _ _ => true
  | .rep _ _ _ _ _ _ _ _ => true
  | _ => false

end Sys2Proof
end

