-- ==== Sys2Proof/Machine/State.lean ====
section
/-! DEFINITION. The machine's state as plain data: every register, memory, queue and unit the spec names, the state
after reset, and the reasons a step can stop. -/

namespace Sys2Proof.Machine

/-! ## Contexts -/

/-- A message register (R63, R187): data, full and fault-full bits, an LDX outstanding, the kept far address and
status, and the request tag. -/
structure Msg where
  data  : Line
  full  : Bool
  ffull : Bool
  pend  : Bool
  va    : BitVec 57
  tstat : BitVec 8
  tag   : BitVec 16
  /-- an arrival since the context was saved (R264) -/
  arr   : Bool
  /-- one past the tick of the last arrival but an LDX reply (R355) -/
  last  : Nat
  /-- how often MCLR has cleared it: the reply of an MGET sent before is discarded (R355) -/
  cleared : Nat
deriving DecidableEq, Repr

/-- The reset value of a message register (R63). -/
def Msg.reset : Msg := ⟨0, false, false, false, 0, 0, 0, false, 0, 0⟩

/-- An active repetition (R41, R44, R73). `start` is the address of the first body instruction, `next` of the one to
issue. -/
structure Rep where
  remain : Nat
  pos    : Nat
  pass   : Nat
  km1    : BitVec 3
  mask   : BitVec 24
  stride : Nat
  base   : Nat
  size   : Nat
  start  : Word
  next   : Word
deriving DecidableEq, Repr

/-- A binding (R218, R263). -/
structure Binding where
  obj   : DWord
  rbase : DWord
  n     : BitVec 30
  scope : Scope
deriving DecidableEq, Repr

/-- What a superstep's entry or a region's entry keeps of a context (R46, R266). -/
structure Checkpoint where
  pc    : Word
  g     : Sparse DWord
  wbase : Word
  frame : Nat
  vlo   : Word
  p     : BitVec 8
  rep   : Option Rep
  flags : BitVec 6
deriving DecidableEq, Repr

/-- An open idempotent region: its checkpoint, how often it was restarted (R266, R267), and the signature so far of the
block that its entry lies in (R268; log 11). -/
structure Region where
  ckpt     : Checkpoint
  restarts : Nat
  sig      : BitVec 16
deriving DecidableEq, Repr

/-- What a context waits for, with what completes it. -/
inductive Wait where
  /-- an empty message register (R24) -/
  | msg (m : MsgReg)
  /-- MWAIT: destination, comparand, `.ne` (R203, R353) -/
  | mwait (d : Reg) (cmp : DWord) (ne : Bool)
  /-- EVWAIT on an event line, with the number of the wait (R232) -/
  | evwait (d : Reg) (line num : Nat)
  /-- RVWAIT on a barrier line or the cluster's line of a point: phase waited on (R230) -/
  | rvwait (d : Reg) (line num : Nat) (tok : BitVec 16)
  /-- MLOCK on a mutex line (R232) -/
  | mlock (d : Reg) (line num : Nat)
  /-- SLEEP: what is left, in units of `Ops.nsUnit`, counted from a tick (R280) -/
  | sleep (left : Nat) (since : Nat)
  /-- TWAIT (R280) -/
  | twait (d : Reg) (m : MsgReg) (left : Nat) (since : Nat)
  /-- a fence: first path, scope, and the earliest tick at which it may end (R216, R217) -/
  | fence (p1 : Path) (scope : Scope) (least : Nat)
  /-- the reply of a numbered request: a bank atomic outside the timetable, a memory-backed point, ACQ, REL, an SC
  operation, FSTAT (R219, R221, R234, R237, R342) -/
  | reply (d : Reg) (num : Nat)
  /-- a result that is written at a tick: an event-unit instruction's six cycles after issue (R227), an atomic's after its
  slot (R237) -/
  | unitOp (due : Nat) (d : Reg) (value : DWord)
  /-- an expansion instruction of c1–c3 until it ends (R164) -/
  | expansion
  /-- CTXSV or CTXLD until its last line has moved (R261) -/
  | move (due : Nat) (d : Reg) (status : DWord)
deriving DecidableEq, Repr

/-- Where a context stands (R24, R255, R424). -/
inductive Run where
  /-- holds the core and issues -/
  | running
  /-- waits to be selected by the ring -/
  | ready
  /-- off the core until its wait ends (Gated, Waiting-message) -/
  | gated (w : Wait)
  /-- keeps the core and issues nothing until its wait ends (R422) -/
  | held (w : Wait)
  | halted
  | trapped
  /-- c0 at the phase header of its next superstep (R30, R424) -/
  | atHeader
deriving DecidableEq, Repr

/-- The outcome the checker compares at a SIG word (R269): how the block's last instruction ended, whether its guard
held, the fall-through and, for a transfer, the target. -/
structure BlockEnd where
  kind   : BitVec 2
  taken  : Bool
  target : Word
  sigAt  : Word
deriving DecidableEq, Repr

/-- What a fence of scope core leaves to the accesses behind it (R216, R339, R420): the path that they are on, the last tick at
which a write before the fence was due, and whether an MSCAC stood before it. -/
structure Fenced where
  path : Path
  due  : Nat
  rows : Bool
deriving DecidableEq, Repr

/-- One context (R63, R44, R46, R187, R189, R202, R218, R266, R268). -/
structure Ctx where
  pc      : Word
  g       : Sparse DWord
  stack   : Sparse DWord
  wbase   : Word
  frame   : Nat
  vlo     : Word
  p       : BitVec 8
  v       : Sparse Line
  m       : Sparse Msg
  flags   : BitVec 6
  ftz     : Bool
  rep     : Option Rep
  run     : Run
  readyAt : Nat
  monitor : Option Nat
  binds   : List Binding
  region  : Option Region
  /-- next store sequence number, numbers outstanding, and the faulted ones with their TSTAT (R187, R189) -/
  stxNext  : Nat
  stxOut   : List Nat
  stxBad   : List (Nat × BitVec 8)
  /-- the latest engine command: its number, and whether it carries an arrival (R231) -/
  lastCmd : Option (Nat × Bool)
  sig     : BitVec 16
  sigEnd  : Option BlockEnd
  /-- the kernel that loaded the context, if any (R306) -/
  kernel  : Option Nat
  /-- fences of scope core behind which accesses may still have to wait -/
  fenced  : List Fenced
deriving DecidableEq, Repr

/-- A context at load and at reset (R63, R65, R352); nothing is loaded, so it is Halted (R24). -/
def Ctx.reset : Ctx where
  pc := 0
  g := []
  stack := []
  wbase := 0
  frame := 24
  vlo := 0
  p := 0
  v := []
  m := []
  flags := 0
  ftz := false
  rep := none
  run := .halted
  readyAt := 0
  monitor := none
  binds := []
  region := none
  stxNext := 1
  stxOut := []
  stxBad := []
  lastCmd := none
  sig := 0
  sigEnd := none
  kernel := none
  fenced := []

/-! ## The matrix slice -/

/-- Tile modes in the order of MSTAT's codes (R128, R131). -/
inductive TileMode where
  | none | fixed | int | wide
deriving DecidableEq, Repr

/-- An accumulator tile (R101, R128): 512 elements of 80 bits and its state; `poisKind` is the kind of the record that
poisoned it (R74). -/
structure Tile where
  el       : Sparse (BitVec 80)
  mode     : TileMode
  pois     : Bool
  poisKind : BitVec 8
  sat      : Bool
  block    : BitVec 13
  ver      : BitVec 16
deriving DecidableEq, Repr

/-- A tile at reset (R63). -/
def Tile.reset : Tile := ⟨[], .none, false, 0, false, 0, 0⟩

/-- A view of the weight buffer's tag (R124). -/
structure WTag where
  fmt  : Ty
  axis : Bool
  k    : BitVec 14
  ver  : BitVec 16
deriving DecidableEq, Repr

/-- One column of A as it was read: 32 elements as raw bits, whether they arrived, and the code table in force at this
slice (R72, R123). -/
structure ACol where
  el   : List Nat
  ok   : Bool
  ctab : BitVec 128
deriving DecidableEq, Repr

/-- The A stream of a leader's MMA on the forwarding network (R123, R359): the tick the leader issued it, the tick it
started, and the columns read so far. -/
structure AStream where
  issued  : Nat
  started : Option Nat
  cols    : List (List Nat)
deriving DecidableEq, Repr

/-- What a product accumulates into and takes from the weight buffer: tile, formats, K, panel row, Z, and at issue the
panel's K and version (R122, R127). -/
structure Product where
  t    : TileReg
  ta   : Ty
  tb   : Ty
  k    : Nat
  koff : Nat
  z    : Bool
  kp   : Nat
  ver  : BitVec 16
deriving DecidableEq, Repr

/-- What a slice operation does (R126). -/
inductive SliceKind where
  /-- MMA: its A address, or the leader's issue tick of the stream that a follower takes -/
  | mma (p : Product) (addr : Nat) (stream : Option Nat)
  /-- MMAS: command block, far base, row stride, message register -/
  | mmas (p : Product) (cb : Nat) (base : DWord) (stride : Nat) (m : MsgReg)
  | mwld (tag : WTag) (addr : Nat)
  | mzero (t : TileReg)
  | mrd (d : VecReg) (t : TileReg) (ty : Ty) (sat : Bool) (row : Nat)
  | mscac (t : TileReg) (dst act : Nat)
deriving DecidableEq, Repr

/-- Bits of an adder's output that flip (R136): the element's row and column, the step at which they flip, and the bits. -/
structure Slip where
  row  : Nat
  col  : Nat
  step : Nat
  bits : Nat
deriving DecidableEq, Repr

/-- A queued slice operation: issuing context, its instruction, the tick it starts, the columns of A read so far, the
lines its MWLD marked, the rows its MSCAC is about to write, flags raised, and the adder errors met so far. -/
structure SliceOp where
  ctx     : Nat
  pc      : Word
  word    : Word
  what    : SliceKind
  started : Option Nat
  cols    : List ACol
  marks   : List Nat
  rows    : List (Nat × List Byte)
  flags   : BitVec 6
  slips   : List Slip
  /-- its kernel has ended: no message follows its completion (R307) -/
  quiet   : Bool
deriving DecidableEq, Repr

/-- The matrix slice of a core (R120, R124, R126, R423). -/
structure Slice where
  tiles   : Sparse Tile
  wbuf    : Sparse Byte
  /-- the buffer tag, which MSTAT reports, with its VALID, and the check tag (R124) -/
  wtag    : WTag
  wvalid  : Bool
  wcheck  : Option WTag
  wpois   : List Nat
  /-- own-bank address of the image the buffer was loaded from, and the instruction that loaded it (R135) -/
  wfrom   : Nat × Word
  queue   : List SliceOp
  streams : List AStream
  /-- whether the core issued GANG in this phase, the ticks at which it asserted its line, and whether the barrier of the GANG
  that is acted on lacks the line of a member (R120, R121) -/
  ganged  : Bool
  line    : List Nat
  short   : Bool
deriving DecidableEq, Repr

/-- A slice at reset (R63, R124, R131). -/
def Slice.reset : Slice := ⟨[], [], ⟨.a80, false, 0, 0⟩, false, none, [], (0, 0), [], [], false, [], false⟩

/-! ## The expansion unit -/

/-- Header of an expansion register (R157). -/
structure XHdr where
  kind : BitVec 2
  dim  : BitVec 2
  ord  : BitVec 8
  h    : Word
  c    : Word × Word × Word
deriving DecidableEq, Repr

/-- An empty header (R157). -/
def XHdr.reset : XHdr := ⟨0, 0, 0, 0, (0, 0, 0)⟩

/-- Kernel state: KERN, GAMMA, ETA (R161). -/
structure XKern where
  kern  : BitVec 3
  gamma : Word
  eta   : Word
deriving DecidableEq, Repr

/-- Reset values of R161: kernel 0, γ = +0, η = 1.0. -/
def XKern.reset : XKern := ⟨0, 0, 0x3F800000⟩

/-- What an expansion instruction does (R162). -/
inductive XKind where
  | clr (d : ExpReg) (addr : Nat) (hdr : XHdr)
  | ld (d : ExpReg) (addr : Nat) (hdr : XHdr)
  /-- XST, with the header it will write in program order (R164) -/
  | st (d : ExpReg) (addr : Nat) (hdr : XHdr)
  | setKern (k : BitVec 3)
  | setGamma (v : Word)
  | setEta (v : Word)
  | form (d : ExpReg) (addr n : Nat)
  | m2m (d a : ExpReg)
  | m2l (d a : ExpReg)
  | l2l (d a : ExpReg)
  | eval (addr : Nat) (b : ExpReg) (n : Nat)
  | m2p (addr : Nat) (b : ExpReg) (n : Nat)
  | adm (d : PredReg) (a b : ExpReg)
deriving DecidableEq, Repr

/-- A queued expansion instruction with its latency; what it read at its start is kept from then on, coefficients or records
and the unit's registers and kernel state (R164), and the tick of its issue (R174). -/
structure XOp where
  ctx     : Nat
  pc      : Word
  word    : Word
  what    : XKind
  cycles  : Nat
  started : Bool
  input   : List Byte
  issued  : Nat
  hdr     : Sparse XHdr
  co      : Sparse Word
  kern    : XKern
deriving DecidableEq, Repr

/-- The expansion unit of a core (R157, R161, R164): headers, coefficients by 128 times the register, kernel state,
queue. -/
structure XUnit where
  hdr   : Sparse XHdr
  co    : Sparse Word
  kern  : XKern
  queue : List XOp
deriving DecidableEq, Repr

/-- An expansion unit at reset (R63, R161). -/
def XUnit.reset : XUnit := ⟨[], [], .reset, []⟩

/-! ## Levels -/

/-- The vertical descriptor (R142, R143). -/
structure VDesc where
  fbase : Nat
  nx : Nat
  ny : Nat
  nz : Nat
  fsy : Nat
  fsz : Nat
  csy : Nat
  csz : Nat
  mask : BitVec 3
  par  : BitVec 3
deriving DecidableEq, Repr

/-- A vertical operation outstanding (R144 to R148): its destination or source box, the weights read at issue, what an
RSTR contributes by bank address, the coarse words a PRLG has read with the offsets of uncorrectable ones, flags, the
place among the child's RSTRs, the ticks of its start and end beats, whether its lane died under it (R152), and the tick of
its issue (R174). -/
structure VOp where
  rstr    : Bool
  ovw     : Bool
  self    : Bool
  desc    : VDesc
  bank    : Nat
  weights : List Word
  vals    : List (Nat × Word)
  pois    : List Nat
  flags   : BitVec 6
  nth     : Nat
  startT  : Nat
  endT    : Nat
  lost    : Bool
  issued  : Nat
deriving DecidableEq, Repr

/-- What one child gives the parent port as its nth RSTR (R145): nothing for a false guard. -/
structure Contribution where
  child : Nat
  nth   : Nat
  ovw   : Bool
  vals  : List (Nat × Word)
  endT  : Nat
deriving DecidableEq, Repr

/-- The vertical side of a core: weight sets, operations outstanding, RSTRs counted in the phase, and the sets its
parent port holds (R63, R145, R148). -/
structure Vert where
  ws   : Sparse Word
  ops  : List VOp
  nth  : Nat
  sets : List Contribution
deriving DecidableEq, Repr

/-- The vertical side at reset. -/
def Vert.reset : Vert := ⟨[], [], 0, []⟩

/-! ## A core -/

/-- Who waits for a write to be performed: the context that issued it, with the tick at which it is due, the command of an
engine's slot, a task's stamp, or nobody. -/
inductive Writer where
  | ctx (core ctx due : Nat)
  | slot (col slot : Nat)
  | task (task : Nat)
  | other
deriving DecidableEq, Repr

/-- A write to near memory by its port in the order of R179 (engine 0, message 1, vertical 2, core 3): address, bytes, the
words it poisons, whether it is a core's store narrower than a word, and who waits for it. -/
structure Held where
  port  : Nat
  addr  : Nat
  bytes : List Byte
  bad   : List Nat
  sub   : Bool
  by_   : Writer
deriving DecidableEq, Repr

/-- A result under way (R26, R27): what is written at a tick, and for which context; what another port writes in a cycle
is among them (R179). -/
inductive Act where
  | g (i : Nat) (v : DWord)
  | entry (i : Nat) (v : DWord)
  | pred (i : Nat) (b : Bool)
  | vec (i : Nat) (v : Line)
  | orFlags (f : BitVec 6)
  | setFlags (f : BitVec 6)
  | ftz (b : Bool)
  | vlo (v : Word)
  | ctab (hi : Bool) (v : DWord)
  /-- a message register's line of a context image is written (R332) -/
  | msgLine (c j : Nat)
  | ws (n : Nat) (v : List Word)
  /-- bytes stored at a near address; `sub` for a store narrower than a word, which keeps poison (R178) -/
  | store (addr : Nat) (bytes : List Byte) (sub : Bool)
  /-- bytes stored lane by lane (R405) -/
  | lanes (st : List (Nat × List Byte)) (sub : Bool)
  /-- A column j of the running MMA is read (R123) -/
  | aCol (j : Nat)
  /-- line i of the running MWLD is read (R126) -/
  | wLine (i : Nat)
  /-- rows m and m + 1 of the running MSCAC are read, and are written (R130) -/
  | scRead (m : Nat)
  | scWrite (m : Nat)
  /-- the read-modify-write of a timed bank atomic in its slot (R237): destination is written by `entry` or `g` -/
  | atomic (op : Nat) (ty : Ty) (addr : Nat) (opnd cmp : DWord) (d : Reg) (wdue : Nat) (pc : Word) (word : Word)
  /-- a write by another port than the core's -/
  | port (h : Held)
  /-- the monitors of an 8-byte unit look at it once every write of the cycle has taken effect (R353) -/
  | look (unit : Nat)
deriving DecidableEq, Repr

/-- A result with the tick at which it is readable; context 4 stands for none of the core's. -/
structure Pend where
  due : Nat
  ctx : Nat
  act : Act
deriving DecidableEq, Repr

/-- Trap causes with their codes in the order of R74. -/
inductive Cause where
  | illop | badtarget | priv | align | wspill | wfill | timing | profile | farfault | tilepois | mxaxis | xord
  | sigfault | eccu | bankrange | freeze | therm
deriving DecidableEq, Repr

/-- A trap about to be taken: cause, SUB, TRAP_ADDR, IMPREC (R74, R253). -/
structure Trap where
  cause  : Cause
  sub    : BitVec 8
  addr   : DWord
  imprec : Bool
deriving DecidableEq, Repr

/-- An entry that waits for c0 (R255): the context whose slot holds it, and for an asynchronous entry what the slot
will hold when it is taken (kind, request code, TRAP_CAUSE, TRAP_ADDR). -/
structure Entry where
  ctx   : Nat
  async : Option (BitVec 2 × BitVec 10 × DWord × DWord)
deriving DecidableEq, Repr

/-- Phase kinds (R28). -/
inductive PhaseKind where
  | compute | comm | vert
deriving DecidableEq, Repr

/-- A phase under way (R28, R30): its length in cycles of the tier, the tick of its cycle 0, the superstep it belongs
to, whether the core runs it slaved and with which follower index, and whether the core takes part. -/
structure Phase where
  kind   : PhaseKind
  len    : Nat
  start  : Nat
  step   : Nat
  slaved : Bool
  skew   : Nat
  active : Bool
deriving DecidableEq, Repr

/-- What the leader of a slaved gang forwards for one instruction (R37): the tick at which the follower issues it, the
address, the address that follows, and the leader's guard. -/
structure Fwd where
  at_   : Nat
  pc    : Word
  next  : Word
  guard : Bool
deriving DecidableEq, Repr

/-- Use of a gated unit (R278): end of its last use, and its previous idle interval. -/
structure UnitUse where
  last : Nat
  idle : Nat
deriving DecidableEq, Repr

/-- The slot of a bank atomic (R237): its first and last tick, its 8-byte unit, and the core that asked. -/
structure Rmw where
  from_ : Nat
  last  : Nat
  unit  : Nat
  who   : Nat
deriving DecidableEq, Repr

/-- Control of a core: who has it, the trap registers, the phase and the superstep. -/
structure Ctl where
  turn     : Option Nat
  last     : Nat
  issueAt  : Nat
  frozen   : Bool
  stopped  : Bool
  /-- c0 Handling: the context whose entry it handles, and TRAP_CAUSE, TRAP_PC, TRAP_ADDR, TRAP_WORD -/
  handling : Option Nat
  cause    : DWord
  tpc      : Word
  taddr    : DWord
  tword    : Word
  waiting  : List Entry
  /-- c0's own state kept across Handling (R424) -/
  kept     : Option (Run × Word)
  /-- the phase header at which c0 waits, or from which its next superstep starts when a handler has halted it (R424) -/
  head     : Option Word
  phase    : Option Phase
  ckpt     : Option Checkpoint
  kernel   : Option Nat
  fifo     : List Fwd
  vunit    : UnitUse
  munit    : UnitUse
  xunit    : UnitUse
  /-- slots of bank atomics at this core's bank, and the writes held behind a slot (R237) -/
  rmw      : List Rmw
  behind   : List Held
  /-- the tick at which the bank message port served last, plus one (R358) -/
  msgPort  : Nat
  /-- a superstep of the group is under way: the wheel of the core's bank skips its slots (R237) -/
  skip     : Bool
deriving DecidableEq, Repr

/-- Control of a core at reset: no context runs, and the ring starts at c1 (R25; the model's choice, log 4). -/
def Ctl.reset : Ctl where
  turn := none
  last := 3
  issueAt := 0
  frozen := false
  stopped := false
  handling := none
  cause := 0
  tpc := 0
  taddr := 0
  tword := 0
  waiting := []
  kept := none
  head := none
  phase := none
  ckpt := none
  kernel := none
  fifo := []
  vunit := ⟨0, 0⟩
  munit := ⟨0, 0⟩
  xunit := ⟨0, 0⟩
  rmw := []
  behind := []
  msgPort := 0
  skip := false

/-- One core: near memory by near address (local store, own bank, status words, save area), its poisoned words, its
instruction store (word and start tag), tag table, code table, contexts, units, results under way and control. -/
structure Core where
  near   : Sparse Byte
  /-- by word: 0 good, 2 a single-bit error, corrected when it is read, 1 uncorrectable, 3 written with the poison check
  pattern (R178) -/
  poison : Sparse (BitVec 2)
  store  : Sparse (Word × Bool)
  tags   : Sparse DWord
  vptr   : Sparse (BitVec 2)
  ctab   : BitVec 128
  ctxs   : Sparse Ctx
  pend   : List Pend
  slice  : Slice
  xu     : XUnit
  vert   : Vert
  ctl    : Ctl
deriving DecidableEq, Repr

/-- A core at reset (R63, R180, R272). -/
def Core.reset : Core where
  near := []
  poison := []
  store := []
  tags := []
  vptr := []
  ctab := 0
  ctxs := []
  pend := []
  slice := .reset
  xu := .reset
  vert := .reset
  ctl := .reset

/-! ## Event units, engines, queues of records -/

/-- A barrier, mutex or event line (R223, R224). `alloc` is the partition; a chained line of a team point names its
root; `owner` is the kernel whose point the line backs (R229). -/
structure EvLine where
  alloc  : Option Nat
  count  : BitVec 16
  pend   : BitVec 16
  c      : BitVec 16
  holder : Option Nat
  gen    : Word
  next   : Option Nat
  root   : Option Nat
  owner  : Option Nat
deriving DecidableEq, Repr

/-- A free line: every field zero (R224). -/
def EvLine.reset : EvLine := ⟨none, 0, 0, 0, none, 0, none, none, none⟩

/-- A fault record of 32 bytes (R135, R258). -/
abbrev FaultRec := BitVec 256

/-- Engine command kinds (R195). -/
inductive CmdKind where
  | cpy | cpys | cpyg | finst
  | coll (kind op : Nat) (ty : Ty)
deriving DecidableEq, Repr

/-- A command block (R197), or a static schedule entry in the same terms (R205). -/
structure Cmd where
  src   : DWord
  dst   : DWord
  len   : Nat
  rows  : Nat
  group : Nat
  sstr  : Nat
  dstr  : Nat
  stamp : DWord
  seq   : BitVec 48
  idx   : DWord
  rvp   : Nat
  rvl   : Nat
  rva   : Bool
deriving DecidableEq, Repr

/-- A command slot of an engine (R198, R200, R201): who issued it (none: the gaffer's node or the static lane), the
command-block address, the stamp scope, its number, whether it started, the row and unit to move, an index read, the
status so far and the arrivals attached to its stamp. -/
structure Slot where
  kind    : CmdKind
  cmd     : Cmd
  part    : Nat
  owner   : Option (Nat × Nat)
  node    : Option (Nat × Nat)
  cb      : Nat
  scope   : Scope
  num     : Nat
  started : Bool
  row     : Nat
  off     : Nat
  idx     : Option Nat
  status  : BitVec 16
  arrive  : List Nat
  done    : Bool
  buf     : List Byte
deriving DecidableEq, Repr

/-- A cached translation (R185): partition, virtual base, size, physical base, R, W. -/
structure Xlat where
  part  : Nat
  base  : Nat
  size  : Nat
  pbase : Nat
  r     : Bool
  w     : Bool
deriving DecidableEq, Repr

/-- An entry of a static schedule that has not started (R205, R206): the kernel whose launch brought it, its number, its command,
stage and stamp scope. -/
structure SchedEntry where
  kernel : Nat
  num    : Nat
  cmd    : Cmd
  stage  : Nat
  scope  : Scope
deriving DecidableEq, Repr

/-- A column's copy engine: slots 0 to 31, then the static lane at 32 to 39 (R200, R205); the stage counter, the
schedule's entries that have not started, and the column's counters and caches. -/
structure Column where
  slots    : Sparse (Option Slot)
  scnt     : Nat
  sched    : List SchedEntry
  schedPart : Nat
  /-- translation caches (R185) -/
  rangeC   : List Xlat
  pageC    : List Xlat
  corrected : Nat
  chg      : Bool
deriving DecidableEq, Repr

/-- A column at reset. -/
def Column.reset : Column := ⟨[], 0, [], 0, [], [], 0, false⟩

/-- What an event unit does in one cycle, in the order of R233: an instruction at a near address with its operand; what
is forwarded to a root line; an engine's arrival at a line or at a memory word's reference. -/
inductive UnitKind where
  | slotf
  | slota (kind : BitVec 2)
  | rvinit
  | rvarr
  /-- RVARR.eng with the number of the command it attaches to, if there is one without an arrival -/
  | rvarrEng (cmd : Option Nat)
  | rvwait
  | evsig
  | evwait
  | mlock
  | munlk
  /-- at a root line: what another line of the team forwarded, with the number of the context's wait (R229) -/
  | root (line num : Nat) (what : RootOp)
  /-- an event message at a line, from the line of its origin, or a team point's new C (R229, R232) -/
  | chain (line origin : Nat) (c : Option (BitVec 16))
  /-- EVSIG.sc at its completion, with the number of its wait (R232) -/
  | evsigSc (num : Nat)
  /-- an engine's arrival at a point or line -/
  | engArrive
deriving DecidableEq, Repr

/-- An operation of an event unit that takes effect at the end of a cycle: the tick of the cycle, its place among those of
the cycle, the context, its destination, address and operand (R227, R233). -/
structure UnitOp where
  at_   : Nat
  stage : Nat
  who   : Nat × Nat
  d     : Reg
  kind  : UnitKind
  addr  : Nat
  opnd  : DWord
deriving DecidableEq, Repr

/-- What an SC operation does at its delivery (R221). -/
inductive ScWhat where
  | atomic (r : AtomicReq)
  | evsig (addr : Nat)
  | object (obj : DWord) (rel : Bool)
deriving DecidableEq, Repr

/-- An SC operation: its context, the number of its wait, its destination, the tick of its issue, and its window once
announced (R221). -/
structure ScOp where
  who    : Nat × Nat
  num    : Nat
  d      : Reg
  what   : ScWhat
  issued : Nat
  window : Option Nat
deriving DecidableEq, Repr

/-! ## Partitions -/

/-- A queue's registers (R238) and the time its head became the head (R241). -/
structure Queue where
  en     : Bool
  prio   : BitVec 3
  qstop  : Bool
  log2n  : BitVec 5
  tail   : BitVec 16
  head   : BitVec 16
  qbase  : Word
  headAt : Nat
deriving DecidableEq, Repr

/-- A queue at reset (R238). -/
def Queue.reset : Queue := ⟨false, 0, false, 4, 0, 0, 0, 0⟩

/-- A record ring: FQCTL with FQPTR, or NTCTL with NTPTR (R257, R287). -/
structure Ring where
  en    : Bool
  log2n : BitVec 5
  base  : BitVec 45
  tail  : BitVec 20
  head  : BitVec 20
  drops : BitVec 24
deriving DecidableEq, Repr

/-- A ring at reset (R257). -/
def Ring.reset : Ring := ⟨false, 8, 0, 0, 0, 0⟩

/-- The attestation mailbox (R300). -/
structure Attest where
  nonce : Sparse DWord
  addr  : DWord
  busy  : Bool
  state : BitVec 2
deriving DecidableEq, Repr

/-- One partition (R183, R184, R194, R238, R241, R257, R271, R278, R283, R287, R288, R298, R300). -/
structure Part where
  epoch    : BitVec 4
  queues   : Sparse Queue
  /-- queue last started at each effective priority (R241) -/
  lastAt   : Sparse Nat
  ranges   : Sparse DWord
  ptroot   : DWord
  tinv     : Bool
  fq       : Ring
  nt       : Ring
  floor    : BitVec 12
  efff     : BitVec 12
  pgctl    : BitVec 3
  ibudget  : BitVec 14
  budget   : Nat
  firewall : Sparse DWord
  groups   : Sparse DWord
  peers    : Sparse DWord
  attest   : Attest
  launches : List (BitVec 384)
  /-- a reset under way: its step, 0 when none (R272) -/
  flrStep  : Nat
deriving DecidableEq, Repr

/-- A partition at reset. -/
def Part.reset : Part where
  epoch := 0
  queues := []
  lastAt := []
  ranges := []
  ptroot := 0
  tinv := false
  fq := .reset
  nt := .reset
  floor := 0
  efff := 0
  pgctl := 7
  ibudget := 0
  budget := 0
  firewall := []
  groups := []
  peers := []
  attest := ⟨[], 0, false, 0⟩
  launches := []
  flrStep := 0

/-! ## Device registers -/

/-- What the beat of a release rests on: the code in force, the cap in force, ECLASS, the floors in force of the partitions,
and the step between columns (R32, R276, R277). -/
structure Budget where
  code   : Nat
  eff    : Nat
  eclass : DWord × DWord × DWord × DWord
  floors : List Nat
  step   : Nat
deriving DecidableEq, Repr

/-- Power, clock and heat registers (R273, R276, R281 to R284). -/
structure Power where
  req     : Nat
  cur     : Nat
  ceil    : Nat
  busy    : Bool
  err     : Bool
  step    : Nat
  /-- the code the change under way leads to -/
  target  : Nat
  tlim    : BitVec 8
  tmax    : BitVec 8
  cap     : BitVec 12
  fscale  : Bool
  eff     : BitVec 12
  stat    : BitVec 2
  scaled  : Bool
  hlim    : BitVec 12
  /-- the last measurement was above a hard limit (R284) -/
  above   : Bool
  strap   : BitVec 12
  /-- ECLASS of tiers 0 to 3 (R276) -/
  eclass  : DWord × DWord × DWord × DWord
  /-- SENSOR by index: RAW, EFF, FAIL in its register layout -/
  sensors : Sparse DWord
  /-- columns and tiers whose THERM stands, with the TIME of it -/
  therm   : Sparse Nat
  /-- a temperature reached the trip point: CEIL is 10 from the next beat boundary on (R282) -/
  trip    : Bool
  /-- what the budget was before its changes of the last four beats, the first change first (R277) -/
  past    : List (Nat × Budget)
deriving DecidableEq, Repr

/-- Reset values of R273, R282, R283; straps are the model's choice (log 17). -/
def Power.reset : Power where
  req := 80
  cur := 80
  ceil := 80
  busy := false
  err := false
  step := 4
  target := 80
  tlim := 95
  tmax := 100
  cap := 3200
  fscale := false
  eff := 3200
  stat := 0
  scaled := false
  hlim := 3200
  above := false
  strap := 3200
  eclass := (0x006400460028000A, 0x00FA00AF00640019, 0x025801A400F0003C, 0x05DC041A02580096)
  sensors := []
  therm := []
  trip := false
  past := []

/-- FLRST of one virtual function (R309). -/
structure Flrst where
  step  : BitVec 3
  done  : Bool
  epoch : BitVec 4
deriving DecidableEq, Repr

/-- Virtual functions (R286, R309): bound partition, binding in force, Bus Master Enable, FLRST, and the partition whose reset it
joined. -/
structure Func where
  part   : BitVec 2
  en     : Bool
  bme    : Bool
  flrst  : Flrst
  joined : Option (BitVec 2)
deriving DecidableEq, Repr

/-- A function at reset. -/
def Func.reset : Func := ⟨0, false, false, ⟨0, false, 0⟩, none⟩

/-- A fabric port (R290, R293, R297): output credits in use, flits of its receive buffer that wait for an output, and
whether it signals stop to its sender. -/
structure Port where
  up        : Bool
  half      : Bool
  train     : Bool
  keydrop   : BitVec 16
  routedrop : BitVec 16
  crcdrop   : BitVec 16
  stopped   : Bool
  /-- flits that left, and flits held behind a stop or in the replay buffer, with the ports they came by (R297) -/
  sent      : List Flit
  queued    : List (Nat × Flit)
  used      : Nat
  buffered  : Nat
  signals   : Bool
deriving DecidableEq, Repr

/-- A port at reset (R290). -/
def Port.reset : Port := ⟨false, false, false, 0, 0, 0, false, [], [], 0, 0, false⟩

/-- An ordered flow at its destination (R294): the next FSEQ, flits held, and the drain markers whose 20 µs run. -/
structure RxFlow where
  next    : BitVec 10
  held    : List Flit
  markers : List Flit
deriving DecidableEq, Repr

/-- A flow at reset. -/
def RxFlow.reset : RxFlow := ⟨0, [], []⟩

/-- A request that waits for a peer's response: its destination, class, the FSEQ it took, the physical address that
identifies it (log 14), the requesting partition, the step that waits for it and the line of virtual addresses that the step
asked for, translated once (R185, R271, R289). -/
structure PeerReq where
  dest : BitVec 13
  cls  : BitVec 2
  fseq : BitVec 10
  pa   : Nat
  part : Nat
  ev   : Event
  va   : Nat
deriving DecidableEq, Repr

/-- A response that came, kept for the step that waited for it. -/
structure PeerAns where
  ev    : Event
  va    : Nat
  data  : List Byte
  tstat : BitVec 8
deriving DecidableEq, Repr

/-- The fabric (R291 to R297): active bank, swap pending, device ID, routing banks, key table, ports, flows numbered at
the source, flows received, the notice number and the notices seen. -/
structure Fabric where
  act   : Bool
  pend  : Bool
  myid  : BitVec 13
  bank0 : Sparse Word
  bank1 : Sparse Word
  keys  : Sparse DWord
  ports : Sparse Port
  fseq  : Sparse (BitVec 10)
  reqs  : List PeerReq
  answers : List PeerAns
  flows : Sparse RxFlow
  nseq  : BitVec 32
  /-- notices that were forwarded and recorded (R296) -/
  seen  : List (BitVec 13 × BitVec 32)
  /-- the port each ordered flow, of this device or in transit, left by last, plus one (R294) -/
  moved : Sparse Nat
deriving DecidableEq, Repr

/-- The fabric at reset (R290, R291). -/
def Fabric.reset : Fabric := ⟨false, false, 0, [], [], [], [], [], [], [], [], 0, [], []⟩

/-- A flash extent (R192 to R194): WEAR, SPARE, the STATE it has while no install runs, whether one runs, the column and
slot of the installs to it in issue order, the running one first, and the fresh blocks that the running one has written, by
offset, until its stamp puts them in place. -/
structure Extent where
  wear    : BitVec 14
  spare   : BitVec 10
  state   : BitVec 2
  running : Bool
  queue   : List (Nat × Nat)
  fresh   : Sparse Byte
deriving DecidableEq, Repr

/-- An extent at reset: never written (R194). The spare count is bring-up's; the model's choice, log 3. -/
def Extent.reset : Extent := ⟨0, 1023, 3, false, [], []⟩

/-- Device-wide registers and what lies off the stack (R182, R191, R286). -/
structure Dev where
  mode     : BitVec 2
  busy     : Bool
  err      : Bool
  funcs    : Sparse Func
  power    : Power
  fabric   : Fabric
  far      : Sparse Byte
  farBad   : Sparse Bool
  /-- staging reservation in GiB, lines present (R191) -/
  staging  : Nat
  lines    : List Nat
  flash    : Sparse Extent
  /-- LANESTATE by child core (R138) -/
  lanes    : Sparse LaneState
  /-- firmware verified and running; otherwise recovery (R299) -/
  booted   : Bool
  fw       : BitVec 384
  nextRefill : Nat
deriving DecidableEq, Repr

/-- The device at reset: after bring-up, MODE 0, ports down (20, "Bring-up"; log 3). -/
def Dev.reset : Dev where
  mode := 0
  busy := false
  err := false
  funcs := []
  power := .reset
  fabric := .reset
  far := []
  farBad := []
  staging := 64
  lines := []
  flash := []
  lanes := []
  booted := true
  fw := 0
  nextRefill := Config.refillNs

/-! ## The gaffer and the lehr controller -/

/-- A role of an image's ROLE section, in decoded form, as the spec does not lay the section out (R301, log 8): its tier, whether
it is timed, its entry address, the instruction-store word its streams begin at, its data bytes by near address, and one stream of words for each
profile (one for an untimed role). -/
structure Role where
  tier    : Nat
  timed   : Bool
  entry   : Word
  base    : Nat
  data    : List (Nat × Byte)
  streams : List (List Word)
deriving DecidableEq, Repr

/-- What the spec does not lay out of an image (log 8): its size in bytes, its roles, and for each timed superstep how many
phases it has and its entry stamps as references with their sequence numbers (R31). -/
structure RoleSection where
  size  : Nat
  roles : List Role
  steps : List (Nat × List (DWord × BitVec 48))
deriving DecidableEq, Repr

/-- One load of an image into cores (R302, R303, R306): columns, tier, superstep, context, role and whether it is timed, the
entry address, the instruction-store word its streams begin at, a stream of words with start tags for each profile (one for an untimed role),
data bytes by near address. -/
structure Load where
  col0    : Nat
  col1    : Nat
  tier    : Nat
  step    : Nat
  ctx     : Nat
  role    : Nat
  timed   : Bool
  entry   : Word
  base    : Nat
  streams : List (List (Word × Bool))
  data    : List (Nat × Byte)
deriving DecidableEq, Repr

/-- One timed superstep of an image: how many phases it has, its entry stamps as references with their sequence numbers,
and the leaders of the gangs that run it slaved (R31, R37, R302). -/
structure Superstep where
  phases : Nat
  stamps : List (DWord × BitVec 48)
  slaved : List Nat
deriving DecidableEq, Repr

/-- A load step of an image (R303): its kind, role and tier. -/
structure BootStep where
  kind : Nat
  role : Nat
  tier : Nat
deriving DecidableEq, Repr

/-- A Rinoeb image as its bytes give it (R301 to R306): whether it passes the checks of R59, R82 and R304, its profiles'
half-column masks, its loads, those of later supersteps first, its supersteps, how many roles it has, its load steps, and its
digest. A profile that is absent has no mask (R301). -/
structure Image where
  wellMade : Bool
  profiles : List (Option DWord)
  loads    : List Load
  steps    : List Superstep
  roles    : Nat
  boot     : List BootStep
  digest   : BitVec 384
deriving DecidableEq, Repr

/-- A running node of a task (R243, R245, R246): its address and 64 bytes, kind, successor, loop frames, NOWAIT, and what it
has decided on its word, which is read once (R244). -/
structure NodeRun where
  addr   : Nat
  words  : BitVec 512
  kind   : BitVec 4
  next   : Nat
  loops  : List LoopFrame
  nowait : Bool
  word   : Option Nat
deriving DecidableEq, Repr

/-- A started task (R239 to R246). -/
structure Task where
  part   : Nat
  queue  : Nat
  pos    : Nat
  stamp  : DWord
  seq    : BitVec 48
  pmode  : Bool
  status : Option (BitVec 16)
  nodes  : List NodeRun
  ending : Bool
  /-- the stamp has been handed to its bank's port (R240, R242) -/
  stamped : Bool
deriving DecidableEq, Repr

/-- How a team point is backed (R229): level, point, team, its root line or memory word, and every line taken. -/
structure PointBack where
  level : Nat
  point : Nat
  team  : Nat
  root  : Option Nat
  mem   : DWord
  lines : List Nat
deriving DecidableEq, Repr

/-- A column's static schedule as a pre-empted kernel leaves it (R248): the column, its SCNT, the entries not started. -/
structure SavedSched where
  col     : Nat
  scnt    : Nat
  entries : List SchedEntry
deriving DecidableEq, Repr

/-- State of a timetable group between and within supersteps. -/
inductive Stage where
  /-- between supersteps: waits for the conditions of R31 -/
  | waiting
  | running
  /-- STOP is under way: for a freeze or a replay -/
  | stopping (freeze : Bool)
  /-- halted for pre-emption: the handlers of FREEZE run -/
  | frozen
  /-- saved by pre-emption, off its cores -/
  | preempted
  /-- the last superstep has ended, or a fatal trap has ended the kernel -/
  | done
deriving DecidableEq, Repr

/-- A running kernel (R31 to R36, R247, R306). -/
structure Kernel where
  task    : Nat
  node    : Nat
  part    : Nat
  cols    : BitVec 64
  tiers   : BitVec 4
  image   : Image
  /-- the timing profile it runs under: its number and half-column mask (R151) -/
  profNo  : Nat
  profile : DWord
  levels  : List (Nat × Nat)
  rvused  : List (BitVec 24)
  points  : List PointBack
  step    : Nat
  stage   : Stage
  /-- the earliest tick of the release that a notice allows (R33) -/
  notice  : Option Nat
  /-- phases released by each column within the superstep; the release tick of each phase, by 64 times the phase plus the
  column; of the last, its end tick and its estimate in milliwatts at the nominal beat (R32, R276, R277) -/
  colPhase : Sparse Nat
  colStart : Sparse Nat
  colEnd  : Sparse Nat
  power   : Sparse Nat
  /-- one past the tick since which a column's release waits for the budget alone (R277) -/
  waiting : Sparse Nat
  /-- header each core waits at while the kernel is pre-empted -/
  heads   : Sparse Word
  /-- static schedules while the kernel is pre-empted (R248) -/
  scheds  : List SavedSched
  /-- replays of the superstep; in a run that fails, the first core and whether a lane's width was the reason (R36) -/
  replays : Nat
  failing : Option Nat
  width   : Bool
  fatal   : Bool
  /-- a failure of the launch other than FATAL (R152) -/
  refused : Option (BitVec 16)
  /-- a pre-emption asked for: by freeze or at a boundary (R248) -/
  frozenReq : Option Bool
  prio    : Nat
deriving DecidableEq, Repr

/-- The gaffer (R238 to R248): the ROLE sections of images by far physical address, tasks, kernels. -/
structure Gaffer where
  images  : List (Nat × RoleSection)
  tasks   : Sparse (Option Task)
  kernels : Sparse (Option Kernel)
  nextId  : Nat
deriving DecidableEq, Repr

/-! ## The machine -/

/-- An entry of the agenda: a step of another agent, or an input from outside, due at a tick (log 4). -/
structure Due where
  at_ : Nat
  ev  : Event
deriving DecidableEq, Repr

/-- The machine. `now` counts ticks of 1/120 beat; `cur` is the core and context whose instruction is
executed, `event` the step of another agent that is executed; `fresh`
numbers the free values drawn; `cmdNum` numbers engine commands. -/
structure State where
  now    : Nat
  wall   : Nat
  wallAt : Nat
  cur    : Nat × Nat
  fresh  : Nat
  cmdNum : Nat
  /-- links and bridge slots that timed messages claim: key and tick (R17) -/
  mesh   : List (Nat × Nat)
  /-- the last arrival at a core from a sender on a channel (R211) -/
  lastMsg : Sparse Nat
  agenda : List Due
  event  : Option Event
  cores  : Sparse Core
  lines  : Sparse EvLine
  /-- operations of event units that take effect at the end of their cycle, and SC operations not performed -/
  units  : List UnitOp
  sc     : List ScOp
  bufs   : Sparse (List FaultRec)
  cols   : Sparse Column
  parts  : Sparse Part
  dev    : Dev
  gaf    : Gaffer
deriving DecidableEq, Repr

/-- The machine right after reset: bring-up is done and no work is loaded (20, "Bring-up"; log 3). -/
def State.reset : State where
  now := 0
  wall := 0
  wallAt := 0
  cur := (0, 1)
  fresh := 0
  cmdNum := 0
  mesh := []
  lastMsg := []
  agenda := [⟨Config.sampleTicks, .sensorSample []⟩, ⟨Config.refillTicks, .budgetRefill⟩]
  event := none
  cores := []
  lines := []
  units := []
  sc := []
  bufs := []
  cols := []
  parts := []
  dev := .reset
  gaf := ⟨[], [], [], 1⟩

/-! ## Stops -/

/-- Why the machine stops with a fault. -/
inductive Fault where
  /-- `exec` was asked for a step of another agent while `State.event` holds no such step. `step` sets it first, so no
  run meets this; safe, since the run ends. -/
  | notDue
deriving DecidableEq, Repr

/-- Why the model gives no meaning. -/
inductive Refusal where
  /-- an arm of `exec` that has no meaning yet; safe, since the run ends -/
  | notModelled (mnemonic : String)
deriving DecidableEq, Repr

end Sys2Proof.Machine
end

