-- ==== Sys2Proof/Machine/Ops.lean ====
section
/-! DEFINITION. The named operations of the machine: sparse data, topology, registers, memory, time and agenda,
results under way, fault records, and the taking of an exception with the return from one. -/

namespace Sys2Proof.Machine

/-! ## Sparse data -/

variable {α : Type}

/-- What a key holds; `d` is what an unlisted key reads as. -/
def sget (d : α) (m : Sparse α) (k : Nat) : α :=
  match m with
  | [] => d
  | (k', v) :: r => if k' = k then v else sget d r k

/-- The map without a key. -/
def serase (m : Sparse α) (k : Nat) : Sparse α :=
  match m with
  | [] => []
  | (k', v) :: r => if k' = k then serase r k else (k', v) :: serase r k

/-- The map with an entry put at its place in rising order. -/
def sput (m : Sparse α) (k : Nat) (v : α) : Sparse α :=
  match m with
  | [] => [(k, v)]
  | (k', v') :: r =>
    if k < k' then (k, v) :: (k', v') :: r
    else if k = k' then (k, v) :: r
    else (k', v') :: sput r k v

/-- A write: an entry equal to what an unlisted key reads as is removed. -/
def sset [DecidableEq α] (d : α) (m : Sparse α) (k : Nat) (v : α) : Sparse α :=
  if v = d then serase m k else sput m k v

/-- Keys strictly above a bound, rising, and no entry equal to the unlisted value. -/
def swfFrom [DecidableEq α] (d : α) (lo : Nat) : Sparse α → Bool
  | [] => true
  | (k, v) :: r => decide (lo ≤ k) && decide (v ≠ d) && swfFrom d (k + 1) r

/-- The canonical form of sparse data. -/
def swf [DecidableEq α] (d : α) (m : Sparse α) : Bool := swfFrom d 0 m

/-! ## Bytes -/

/-- The number little-endian bytes hold (R1). -/
def leNat : List Byte → Nat
  | [] => 0
  | b :: r => b.toNat + 256 * leNat r

/-- The low `n` bytes of a number, little-endian (R1). -/
def leBytes : Nat → Nat → List Byte
  | 0, _ => []
  | n + 1, v => BitVec.ofNat 8 v :: leBytes n (v / 256)

/-- Consecutive bytes of a byte map. -/
def readBytes (m : Sparse Byte) (a : Nat) : Nat → List Byte
  | 0 => []
  | n + 1 => sget 0 m a :: readBytes m (a + 1) n

/-- Bytes written at consecutive addresses. -/
def writeBytes (m : Sparse Byte) (a : Nat) : List Byte → Sparse Byte
  | [] => m
  | b :: r => writeBytes (sset 0 m a b) (a + 1) r

/-- Bits hi … lo of a number (R5). -/
def nbits (x hi lo : Nat) : Nat := x / 2 ^ lo % 2 ^ (hi + 1 - lo)

/-- The smallest multiple of `m` at or above `t`. -/
def ceilTo (m t : Nat) : Nat := (t + (m - 1)) / m * m

/-- Quotient rounded up. -/
def ceilDiv (a b : Nat) : Nat := (a + (b - 1)) / b

/-! ## Topology (R12 to R15) -/

/-- Tier of a global core number (R12). -/
def tierOf (k : Nat) : Nat :=
  if k < 16384 then 0 else if k < 20480 then 1 else if k < 21504 then 2 else 3

/-- Place of a core in its tier (R12). -/
def tierRest (k : Nat) : Nat := k - Config.coreBase (tierOf k)
/-- Quad of a core (R12). -/
def quadOf (k : Nat) : Nat := tierRest k / Config.quadCores (tierOf k)
/-- Mesh row of a core (R12). -/
def yOf (k : Nat) : Nat := tierRest k % Config.quadCores (tierOf k) / Config.meshWidth (tierOf k)
/-- Mesh column of a core (R12). -/
def xOf (k : Nat) : Nat := tierRest k % Config.quadCores (tierOf k) % Config.meshWidth (tierOf k)
/-- The core at a place (R12). -/
def coreAt (t q x y : Nat) : Nat :=
  Config.coreBase t + q * Config.quadCores t + y * Config.meshWidth t + x
/-- Column of a core (R14). -/
def columnOf (k : Nat) : Nat :=
  let c := Config.clusterSide (tierOf k)
  16 * quadOf k + 4 * (yOf k / c) + xOf k / c
/-- Follower index of a core in its gang (R15). -/
def skewOf (k : Nat) : Nat := xOf k % Config.clusterSide (tierOf k)
/-- Leader of a core's gang (R15). -/
def leaderOf (k : Nat) : Nat := k - skewOf k
/-- Index of a core in its cluster (R196, R235). -/
def indexOf (k : Nat) : Nat :=
  let c := Config.clusterSide (tierOf k)
  (yOf k % c) * c + xOf k % c
/-- The core of an index in a column's cluster of a tier (R14, R196). -/
def coreOfIndex (col t i : Nat) : Nat :=
  let c := Config.clusterSide t
  coreAt t (col / 16) (col % 4 * c + i % c) (col % 16 / 4 * c + i / c)
/-- Parent of a core below the crown (R13). -/
def parentOf (k : Nat) : Nat := coreAt (tierOf k + 1) (quadOf k) (xOf k / 2) (yOf k / 2)
/-- Child index of a core under its parent (R13). -/
def childIndex (k : Nat) : Nat := xOf k % 2 + 2 * (yOf k % 2)
/-- A child of a core (R13). -/
def childOf (k i : Nat) : Nat := coreAt (tierOf k - 1) (quadOf k) (2 * xOf k + i % 2) (2 * yOf k + i / 2)
/-- Key of a cluster: tier and column (R14). -/
def clusterKey (k : Nat) : Nat := 64 * tierOf k + columnOf k
/-- Cores of a column's cluster of a tier, ascending in index. -/
def clusterCores (col t : Nat) : List Nat :=
  (List.range (Config.clusterSide t * Config.clusterSide t)).map (coreOfIndex col t)
/-- Horizontal latency of R16 in cycles of the tier. -/
def meshLatency (a b : Nat) : Nat :=
  let d (x y : Nat) := (x - y) + (y - x)
  4 + d (xOf a) (xOf b) + d (yOf a) (yOf b)
    + (if quadOf a = quadOf b then 0 else 4 * Config.beatMultiple (tierOf a))

/-- Partition of a quad by PARTCFG.MODE (R286). -/
def partOfQuad (mode : BitVec 2) (q : Nat) : Nat :=
  if mode = 2 then q else if mode = 1 then q / 2 else 0

/-! ## Access to the state -/

/-- A core's state. -/
def State.core (s : State) (k : Nat) : Core := sget .reset s.cores k
/-- A core's state replaced. -/
def State.setCore (s : State) (k : Nat) (c : Core) : State := { s with cores := sset .reset s.cores k c }
/-- A core's state changed. -/
def State.modCore (s : State) (k : Nat) (f : Core → Core) : State := s.setCore k (f (s.core k))
/-- A context of a core. -/
def Core.ctx (c : Core) (i : Nat) : Ctx := sget .reset c.ctxs i
/-- A context of a core replaced. -/
def Core.setCtx (c : Core) (i : Nat) (x : Ctx) : Core := { c with ctxs := sset .reset c.ctxs i x }
/-- A context of a core changed. -/
def Core.modCtx (c : Core) (i : Nat) (f : Ctx → Ctx) : Core := c.setCtx i (f (c.ctx i))
/-- A context of the machine. -/
def State.ctx (s : State) (q : Nat × Nat) : Ctx := (s.core q.1).ctx q.2
/-- A context of the machine changed. -/
def State.modCtx (s : State) (q : Nat × Nat) (f : Ctx → Ctx) : State :=
  s.modCore q.1 (fun c => c.modCtx q.2 f)
/-- A core's control changed. -/
def State.modCtl (s : State) (k : Nat) (f : Ctl → Ctl) : State :=
  s.modCore k (fun c => { c with ctl := f c.ctl })
/-- A core's slice changed. -/
def State.modSlice (s : State) (k : Nat) (f : Slice → Slice) : State :=
  s.modCore k (fun c => { c with slice := f c.slice })
/-- A core's expansion unit changed. -/
def State.modXu (s : State) (k : Nat) (f : XUnit → XUnit) : State :=
  s.modCore k (fun c => { c with xu := f c.xu })
/-- A core's vertical side changed. -/
def State.modVert (s : State) (k : Nat) (f : Vert → Vert) : State :=
  s.modCore k (fun c => { c with vert := f c.vert })
/-- Every core that is not as at reset, changed. -/
def State.modCores (s : State) (f : Nat → Core → Core) : State :=
  s.cores.foldl (fun s e => s.modCore e.1 (f e.1)) s
/-- An event-unit line. -/
def State.line (s : State) (l : Nat) : EvLine := sget .reset s.lines l
/-- An event-unit line changed. -/
def State.modLine (s : State) (l : Nat) (f : EvLine → EvLine) : State :=
  { s with lines := sset .reset s.lines l (f (s.line l)) }
/-- A column. -/
def State.col (s : State) (c : Nat) : Column := sget .reset s.cols c
/-- A column changed. -/
def State.modCol (s : State) (c : Nat) (f : Column → Column) : State :=
  { s with cols := sset .reset s.cols c (f (s.col c)) }
/-- A partition. -/
def State.part (s : State) (p : Nat) : Part := sget .reset s.parts p
/-- A partition changed. -/
def State.modPart (s : State) (p : Nat) (f : Part → Part) : State :=
  { s with parts := sset .reset s.parts p (f (s.part p)) }
/-- The device registers changed. -/
def State.modDev (s : State) (f : Dev → Dev) : State := { s with dev := f s.dev }
/-- The fabric changed. -/
def State.modFabric (s : State) (f : Fabric → Fabric) : State := s.modDev (fun d => { d with fabric := f d.fabric })
/-- A kernel, if it runs. -/
def State.kernel (s : State) (i : Nat) : Option Kernel := sget none s.gaf.kernels i
/-- A kernel replaced. -/
def State.setKernel (s : State) (i : Nat) (k : Option Kernel) : State :=
  { s with gaf := { s.gaf with kernels := sset none s.gaf.kernels i k } }
/-- A running kernel changed. -/
def State.modKernel (s : State) (i : Nat) (f : Kernel → Kernel) : State :=
  s.setKernel i ((s.kernel i).map f)
/-- A task, if it runs. -/
def State.task (s : State) (i : Nat) : Option Task := sget none s.gaf.tasks i
/-- A task replaced. -/
def State.setTask (s : State) (i : Nat) (t : Option Task) : State :=
  { s with gaf := { s.gaf with tasks := sset none s.gaf.tasks i t } }
/-- A running task changed. -/
def State.modTask (s : State) (i : Nat) (f : Task → Task) : State := s.setTask i ((s.task i).map f)
/-- Partition of a core (R286). -/
def State.partOf (s : State) (k : Nat) : Nat := partOfQuad s.dev.mode (quadOf k)

/-! ## Time (R3, R68, R273, R275) -/

/-- lcm of the beat codes 10 to 80: wall time is counted in units of 1/(3·this) ns. -/
def codeLcm : Nat := 32433859254793982911622772305630400
/-- Units of wall time in one nanosecond. -/
def nsUnit : Nat := 3 * codeLcm
/-- Units of wall time in one tick at a beat code: a tick lasts 10/(3n) ns (R273). -/
def tickUnits (code : Nat) : Nat := 10 * codeLcm / code
/-- Ticks of a core's cycle. -/
def cyc (k : Nat) : Nat := Config.cycleTicks (tierOf k)
/-- The beat the machine is in (R68). -/
def State.beat (s : State) : Nat := s.now / Config.ticksPerBeat
/-- Wall time since bring-up, in units. -/
def State.wallNow (s : State) : Nat := s.wall + (s.now - s.wallAt) * tickUnits s.dev.power.cur
/-- TIME in nanoseconds: its error is at most 50 parts per million and not fixed (R275; log 7). -/
def State.time (s : State) : Nat :=
  s.wallNow * (999950 + Config.freeTimePpm % 101) / (1000000 * nsUnit)
/-- Ticks at the code in force in which TIME goes on by at least a number of nanoseconds (R275). -/
def State.nsTicks (s : State) (ns : Nat) : Nat :=
  ceilDiv (ceilDiv (ns * nsUnit * 1000000) (999950 + Config.freeTimePpm % 101)) (tickUnits s.dev.power.cur)

/-- A variable latency of at least `lo` ticks (log 6). -/
def State.draw (s : State) (lo : Nat) : Nat × State :=
  (lo + Config.freeLatency s.fresh, { s with fresh := s.fresh + 1 })
/-- A latency between `lo` and `hi` (log 16). -/
def State.drawIn (s : State) (lo hi : Nat) : Nat × State :=
  (lo + Config.freeLatency s.fresh % (hi + 1 - lo), { s with fresh := s.fresh + 1 })

/-! ## The agenda -/

/-- Place of a step among those of one tick (R179, R313, R421): the SC run, read-modify-writes of the engine channel,
arrivals at message registers in their order, the message and vertical ports, the other units, the finishes of the slice and
of atomics' slots; from
`readRank` on what reads a core's memory, takes a number from another core's act or ends a phase, once the cores have acted in the
tick. -/
def evRank : Event → Nat
  | .scDelivery _ => 0
  | .objectReply _ _ _ _ rel _ => if rel then 1 else 10
  | .signalComplete _ _ _ _ => 1
  | .ldxReply _ _ _ _ _ _ => 2
  | .mgetReply _ _ _ _ _ => 3
  | .engineMessageArrival _ _ _ _ | .mmasComplete _ => 4
  | .messageArrival _ _ _ _ _ _ _ => 5
  | .msgbPortWrite _ _ _ _ _ _ _ _ => 6
  | .rstrMerge _ => 7
  | .sliceOpComplete _ | .mwldComplete _ | .atomicSlot _ => 9
  | .gangBarrierTimeout _ => 9
  | .sliceOpStart _ | .expansionOpStart _ | .verticalOpStart _ => 10
  | .mgetPortRead _ _ _ _ _ _ _ _ => 10
  | .engineUnit _ _ | .engineCommandStart _ _ | .engineStampWrite _ _ | .taskStampWrite _ => 10
  | .nodeCond _ _ _ | .nodeLoop _ _ _ | .nodeSwitch _ _ _ | .nodeWait _ _ _ _ => 10
  | .fstatResult _ _ _ _ | .staticEntryStart _ => 10
  | .phaseEnd _ | .groupHalt _ => 11
  | .phaseRelease _ _ _ => 12
  | .scAnnounce _ _ _ => 13
  | _ => 8

/-- The rank from which a step comes after the cores' own acts of its tick. -/
def readRank : Nat := 10

/-- The order among steps of one rank: the sender's core number (R358, R379). -/
def evSender : Event → Nat
  | .messageArrival _ _ _ _ src _ _ => src
  | .msgbPortWrite _ _ _ _ src _ _ _ => src
  | .mgetPortRead _ _ core _ _ _ _ _ => core
  | _ => 0

/-- An entry placed behind those of earlier or equal tick, rank and sender. -/
def agendaInsert (e : Due) : List Due → List Due
  | [] => [e]
  | h :: r =>
    if e.at_ < h.at_ ∨ (e.at_ = h.at_ ∧ (evRank e.ev < evRank h.ev
        ∨ (evRank e.ev = evRank h.ev ∧ evSender e.ev < evSender h.ev))) then e :: h :: r else h :: agendaInsert e r

/-- A step of another agent put on the agenda. -/
def State.post (s : State) (t : Nat) (ev : Event) : State := { s with agenda := agendaInsert ⟨t, ev⟩ s.agenda }
/-- Entries that keep their order behind a tick, moved on where they would come before it. -/
def deferFrom (step lo : Nat) : List Due → List Due
  | [] => []
  | e :: r =>
    let t := if e.at_ ≤ lo then ceilTo step (lo + 1) else e.at_
    ⟨t, e.ev⟩ :: deferFrom step t r
/-- A step put off to a tick, with those that must follow it moved on behind it in their order (R211). -/
def State.defer (s : State) (after : Event → Bool) (step t : Nat) (ev : Event) : State :=
  let mine := s.agenda.filter (fun e => after e.ev)
  let rest := s.agenda.filter (fun e => !after e.ev)
  { s with agenda := (⟨t, ev⟩ :: deferFrom step t mine).foldl (fun l e => agendaInsert e l) rest }
/-- Every entry that is this step taken off the agenda. -/
def State.cancel (s : State) (ev : Event) : State :=
  { s with agenda := s.agenda.filter (fun e => e.ev ≠ ev) }

/-! ## Registers (R63 to R66) -/

/-- Stack entry of a windowed field (R65). -/
def entryOf (tier : Nat) (x : Ctx) (r : Reg) : Nat :=
  (x.wbase.toNat + (r.toNat - 8)) % Config.stackSize tier
/-- A scalar field's value: g0 reads as zero (R63). -/
def Ctx.reg (x : Ctx) (tier : Nat) (r : Reg) : DWord :=
  if r.toNat = 0 then 0
  else if r.toNat < 8 then sget 0 x.g r.toNat
  else sget 0 x.stack (entryOf tier x r)
/-- A scalar field lies in its class and frame (R64). -/
def Ctx.regOk (x : Ctx) (r : Reg) : Bool := r.toNat < 8 + x.frame
/-- A predicate: p0 reads as true (R63). -/
def Ctx.pred (x : Ctx) (p : PredReg) : Bool := p == 0 || x.p.getLsbD p.toNat
/-- A vector register. -/
def Ctx.vec (x : Ctx) (v : VecReg) : Line := sget 0 x.v v.toNat
/-- A message register. -/
def Ctx.msg (x : Ctx) (m : MsgReg) : Msg := sget .reset x.m m.toNat
/-- A message register changed. -/
def Ctx.modMsg (x : Ctx) (m : MsgReg) (f : Msg → Msg) : Ctx :=
  { x with m := sset .reset x.m m.toNat (f (x.msg m)) }
/-- The guard of a header (R76). -/
def Ctx.guard (x : Ctx) (h : Hdr) : Bool := x.pred h.g != h.gn

/-- Where a scalar result goes: nowhere for g0 (R63). -/
def scalarAct (tier : Nat) (x : Ctx) (d : Reg) (v : DWord) : List Act :=
  if d.toNat = 0 then [] else if d.toNat < 8 then [.g d.toNat v] else [.entry (entryOf tier x d) v]
/-- Where a predicate result goes: nowhere for p0 (R63). -/
def predAct (d : PredReg) (b : Bool) : List Act := if d = 0 then [] else [.pred d.toNat b]

/-! ## Near memory (R175 to R178) -/

/-- An uncorrectable 32-bit word at a near address (R178). -/
def Core.bad (c : Core) (a : Nat) : Bool := (sget 0 c.poison (a / 4)).getLsbD 0
/-- The first poisoned word that an access touches, as an address. -/
def Core.badIn (c : Core) (a n : Nat) : Option Nat :=
  ((List.range ((a + n + 3) / 4 - a / 4)).map (fun i => 4 * (a / 4 + i))).find? (fun w => c.bad w)
/-- Bytes of near memory. -/
def Core.readN (c : Core) (a n : Nat) : List Byte := readBytes c.near a n
/-- Near memory as a number. -/
def Core.readNat (c : Core) (a n : Nat) : Nat := leNat (c.readN a n)

/-- Bits of a byte that a core's store changes: reserved bytes of the status block ignore writes, and of the save-area
header and slots only the RW fields take them (R175, R254). -/
def writableBits (tier a : Nat) : Byte :=
  let sb := Config.statusBase tier
  if a < sb + 0x20 then 0xFF
  else if a < sb + 0x40 then 0
  else
    let o := a - (sb + 0x40)
    if 0x400 ≤ o then 0xFF
    else if 0x140 ≤ o then 0
    else if 0x40 ≤ o then (if 12 ≤ o % 64 ∧ o % 64 < 16 then 0xFF else 0)
    else if o < 4 ∨ (8 ≤ o ∧ o < 12) then 0xFF
    else if o = 4 ∨ o = 12 then 1
    else 0

/-- A core's store of consecutive bytes, each through its writable bits. -/
def storeBytes (tier : Nat) (m : Sparse Byte) (a : Nat) : List Byte → Sparse Byte
  | [] => m
  | b :: r =>
    let w := writableBits tier a
    storeBytes tier (sset 0 m a ((b &&& w) ||| (sget 0 m a &&& ~~~w))) (a + 1) r

/-- Poison cleared in the words that lie wholly in a store (R178). -/
def clearPoison (p : Sparse (BitVec 2)) (a n : Nat) : Sparse (BitVec 2) :=
  (List.range (((a + n) / 4) - (a + 3) / 4)).foldl (fun p i => serase p ((a + 3) / 4 + i)) p
/-- A word written with the poison check pattern (R178). -/
def Core.poisonWord (c : Core) (a : Nat) : Core := { c with poison := sset 0 c.poison (a / 4) 3 }

/-- The word of a store narrower than a word is read, corrected and rewritten: a single-bit error goes, poison stays (R178). -/
def mendWord (p : Sparse (BitVec 2)) (a : Nat) : Sparse (BitVec 2) := if sget 0 p (a / 4) = 2 then serase p (a / 4) else p

/-- How many words with a single-bit error a read touches. -/
def Core.softWords (c : Core) (a n : Nat) : Nat :=
  ((List.range ((a + n + 3) / 4 - a / 4)).filter (fun i => sget 0 c.poison (a / 4 + i) == 2)).length
/-- Corrected words counted in the column's counter (R178). -/
def State.count (s : State) (k hits : Nat) : State :=
  if hits = 0 then s else s.modCol (columnOf k) (fun c => { c with corrected := c.corrected + hits })
/-- Single-bit errors in words that a read touches are corrected and counted (R178). -/
def State.correct (s : State) (k a n : Nat) : State := s.count k ((s.core k).softWords a n)

/-- A core's store (R178): a store narrower than a word leaves poison where it is. -/
def Core.storeN (c : Core) (tier a : Nat) (bs : List Byte) (sub : Bool) : Core :=
  { c with near := storeBytes tier c.near a bs
           poison := if sub then mendWord c.poison a else clearPoison c.poison a bs.length }

/-- A port's or the hardware's write of bytes: no field is protected from it. -/
def Core.portWrite (c : Core) (a : Nat) (bs : List Byte) : Core :=
  { c with near := writeBytes c.near a bs, poison := clearPoison c.poison a bs.length }

/-- A write to the 8-byte unit of an address by a port is held behind another's atomic (R237). -/
def Core.held (c : Core) (t a : Nat) (own : Option Nat) : Bool :=
  c.ctl.rmw.any (fun r => decide (r.from_ ≤ t ∧ t ≤ r.last) && r.unit == a / 8 && own != some r.who)

/-- Bytes cut at the bounds of 8-byte units. -/
def units8 (a : Nat) : List Byte → List (Nat × List Byte)
  | [] => []
  | b :: r =>
    match units8 (a + 1) r with
    | [] => [(a, [b])]
    | (a', bs) :: rest => if (a + 1) % 8 = 0 then (a, [b]) :: (a', bs) :: rest else (a, b :: bs) :: rest

/-- One write takes effect: a core's store, or another port's with the words it poisons (R178). -/
def Core.applyHeld (c : Core) (tier : Nat) (h : Held) : Core :=
  if h.port = 3 then c.storeN tier h.addr h.bytes h.sub
  else h.bad.foldl (fun c w => c.poisonWord w) (c.portWrite h.addr h.bytes)

/-- A write by a port at a tick: units inside an atomic's slot wait behind it (R179, R237). -/
def Core.writeBy (c : Core) (tier t : Nat) (own : Option Nat) (h : Held) : Core :=
  if c.ctl.rmw.isEmpty then c.applyHeld tier h
  else (units8 h.addr h.bytes).foldl (fun c u =>
    let h' : Held := { h with addr := u.1, bytes := u.2, bad := h.bad.filter (fun w => w / 8 == u.1 / 8) }
    if c.held t u.1 own then { c with ctl := { c.ctl with behind := c.ctl.behind ++ [h'] } }
    else c.applyHeld tier h') c

/-- A slot is over: its record goes, and the writes held behind it take effect in the order of the ports (R179, R237). -/
def Core.endSlot (c : Core) (tier t : Nat) : Core :=
  let past := c.ctl.rmw.filter (fun r => decide (r.last ≤ t))
  let mine := c.ctl.behind.filter (fun h => past.any (fun r => r.unit == h.addr / 8))
  let c := { c with ctl := { c.ctl with
    rmw := c.ctl.rmw.filter (fun r => decide (t < r.last))
    behind := c.ctl.behind.filter (fun h => !past.any (fun r => r.unit == h.addr / 8)) } }
  [0, 1, 2, 3].foldl (fun c p => (mine.filter (fun h => h.port == p)).foldl (fun c h => c.applyHeld tier h) c) c

/-! ## Results under way (R26, R27) -/

/-- A half of the code table replaced (R72). -/
def putCtab (t : BitVec 128) (hi : Bool) (v : DWord) : BitVec 128 :=
  if hi then v ++ t.extractLsb' 0 64 else t.extractLsb' 64 64 ++ v
/-- The code table as it was written last: SYSR reads it a cycle before it is in force for decoding (R68, R72). -/
def Core.ctabWritten (c : Core) : BitVec 128 :=
  c.pend.foldl (fun t p => match p.act with
    | .ctab hi v => putCtab t hi v
    | _ => t) c.ctab

/-- What an act writes, to tell an older result of the same place. -/
def sameTarget : Act → Act → Bool
  | .g i _, .g j _ => i == j
  | .entry i _, .entry j _ => i == j
  | .pred i _, .pred j _ => i == j
  | .vec i _, .vec j _ => i == j
  | .ftz _, .ftz _ => true
  | .vlo _, .vlo _ => true
  | .setFlags _, .setFlags _ => true
  | .ws i _, .ws j _ => i == j
  | _, _ => false

/-- A register, flag or store write takes effect in a core. -/
def applyAct (tier : Nat) (c : Core) (i : Nat) : Act → Core
  | .g r v => c.modCtx i (fun x => { x with g := sset 0 x.g r v })
  | .entry r v => c.modCtx i (fun x => { x with stack := sset 0 x.stack r v })
  | .pred r b => c.modCtx i (fun x => { x with p := if b then x.p ||| (1#8 <<< r) else x.p &&& ~~~(1#8 <<< r) })
  | .vec r v => c.modCtx i (fun x => { x with v := sset 0 x.v r v })
  | .orFlags f => c.modCtx i (fun x => { x with flags := x.flags ||| f })
  | .setFlags f => c.modCtx i (fun x => { x with flags := f })
  | .ftz b => c.modCtx i (fun x => { x with ftz := b })
  | .vlo v => c.modCtx i (fun x => { x with vlo := v })
  | .ctab hi v => { c with ctab := putCtab c.ctab hi v }
  | .ws n vs =>
    { c with vert := { c.vert with
        ws := (List.range 27).foldl (fun m j => sset 0 m (27 * n + j) (vs.getD j 0)) c.vert.ws } }
  | .store a bs sub => c.storeN tier a bs sub
  | .lanes st sub => st.foldl (fun c p => c.storeN tier p.1 p.2 sub) c
  | .aCol _ | .wLine _ | .scRead _ | .scWrite _ | .atomic _ _ _ _ _ _ _ _ _ | .port _ | .look _ | .msgLine _ _ => c

/-- Place of an act among those of its tick: the ports' writes in the order of R179, the expansion unit's, which stand for
instructions issued before any store of that tick, the core's own, then what reads near memory on behalf of a unit and the
look of the monitors, which see every write of their tick (R137, R174, R353). -/
def Act.rank : Act → Nat
  | .port h => h.port
  | .aCol _ | .wLine _ | .scRead _ => 5
  | .look _ => 6
  | _ => 4

/-- A result placed by its tick and rank, behind those of the same tick and rank. -/
def pendInsert (e : Pend) : List Pend → List Pend
  | [] => [e]
  | h :: r =>
    if e.due < h.due ∨ (e.due = h.due ∧ e.act.rank < h.act.rank) then e :: h :: r else h :: pendInsert e r

/-- A result of context `i`, readable `lat` cycles after issue: one cycle or less is written at once, since nothing of
the core issues before the next cycle. In c1–c3 an older result of the same place gives way (R26, R305). -/
def Core.deliver (c : Core) (tier i now lat : Nat) (a : Act) : Core :=
  let c := if i = 0 then c else
    { c with pend := c.pend.filter (fun p => !(p.ctx == i && sameTarget a p.act)) }
  if lat ≤ 1 then applyAct tier c i a
  else { c with pend := pendInsert ⟨now + lat * Config.cycleTicks tier, i, a⟩ c.pend }

/-- Several results of one instruction. -/
def Core.deliverAll (c : Core) (tier i now lat : Nat) (as_ : List Act) : Core :=
  as_.foldl (fun c a => c.deliver tier i now lat a) c

/-- Results of the issuing context put under way. -/
def State.deliver (s : State) (q : Nat × Nat) (lat : Nat) (as_ : List Act) : State :=
  s.modCore q.1 (fun c => c.deliverAll (tierOf q.1) q.2 s.now lat as_)

/-! ## The instruction store (R82) -/

/-- The core whose instruction store a core's fetch reads: a follower of a slaved phase takes its leader's stream
(R37). -/
def State.codeOf (s : State) (k : Nat) : Nat :=
  match (s.core k).ctl.phase with
  | some p => if p.slaved && p.skew != 0 && (s.core k).ctl.handling.isNone then leaderOf k else k
  | none => k

/-- A word of the instruction store with its start tag; past the store's end there is none (R11, R82). -/
def State.storeWord (s : State) (k : Nat) (a : Nat) : Option (Word × Bool) :=
  if a / 4 < Config.storeWords (tierOf k) then some (sget (0, false) (s.core (s.codeOf k)).store (a / 4)) else none
/-- A tagged word with bits [1:0] = 0b11 and bits [15:14] = 0b00 is a phase header (R82). -/
def isHeader (w : Word) : Bool := bits w 0 2 == 3 && bits w 14 2 == 0
/-- A word a transfer may reach: tagged, no header, inside the store, its address a multiple of 4 (R82). -/
def State.isStart (s : State) (k : Nat) (a : Nat) : Bool :=
  a % 4 == 0 && (match s.storeWord k a with
    | some (w, true) => !isHeader w
    | _ => false)
/-- The address of the next instruction or header when execution falls to `a`: a SIG word there is stepped over
(R27, R84). -/
def State.skipSig (s : State) (k : Nat) (a : Nat) : Nat :=
  match s.storeWord k a with
  | some (_, false) => a + 4
  | _ => a
/-- GAP of the instruction at an address (R27); 0 where none stands. Format I holds GAP in the same place. -/
def State.gapAt (s : State) (k : Nat) (a : Nat) : Nat :=
  match s.storeWord k a with
  | some (w, true) => if isHeader w then 0 else (bits w 3 2).toNat
  | _ => 0

/-! ## Fault records (R135, R257, R258) -/

/-- A fault record's fields at their places (R135). -/
def faultRec (kind core ctx tile src faddr row col tstat : Nat) : FaultRec :=
  BitVec.ofNat 256 (kind % 256 + core * 2 ^ 8 + ctx * 2 ^ 23 + tile * 2 ^ 25 + src % 2 ^ 64 * 2 ^ 64
    + faddr % 2 ^ 57 * 2 ^ 128 + row * 2 ^ 192 + col * 2 ^ 197 + tstat % 256 * 2 ^ 216)

/-- A record queued in the cluster's buffer; the oldest drains when the partition's ring is in use (R257). A seventeenth
waits at its source, behind the others. -/
def State.record (s : State) (k : Nat) (r : FaultRec) : State :=
  let s := { s with bufs := sset [] s.bufs (clusterKey k) (sget [] s.bufs (clusterKey k) ++ [r]) }
  if (s.part (s.partOf k)).fq.en then
    let (d, s) := s.draw 0
    s.post (s.now + d) (.faultRecordDrain (tierOf k) (columnOf k))
  else s

/-! ## Exceptions (R252 to R256, R267, R307, R36) -/

/-- Cause codes (R74). -/
def causeCode : Cause → Nat
  | .illop => 0x01 | .badtarget => 0x02 | .priv => 0x03 | .align => 0x04 | .wspill => 0x05 | .wfill => 0x06
  | .timing => 0x07 | .profile => 0x08 | .farfault => 0x09 | .tilepois => 0x0A | .mxaxis => 0x0B | .xord => 0x0C
  | .sigfault => 0x0D | .eccu => 0x0E | .bankrange => 0x0F | .freeze => 0x10 | .therm => 0x11

/-- A trap that carries nothing beside its cause. -/
def Trap.of (c : Cause) : Trap := ⟨c, 0, 0, false⟩
/-- ECCU of a word, imprecise where it carries the poison pattern (R178, R252). -/
def Core.eccu (c : Core) (a : Nat) : Trap := ⟨.eccu, 0, BitVec.ofNat 64 a, sget 0 c.poison (a / 4) == 3⟩
/-- A trap with its TRAP_ADDR. -/
def Trap.at_ (c : Cause) (a : Nat) : Trap := ⟨c, 0, BitVec.ofNat 64 a, false⟩
/-- A TIMING trap of a code (R35). -/
def Trap.timing (code : Nat) : Trap := ⟨.timing, BitVec.ofNat 8 code, 0, false⟩

/-- TRAP_CAUSE (R74). -/
def causeWord (tr : Trap) (ctx : Nat) : DWord :=
  BitVec.ofNat 64 (causeCode tr.cause + tr.sub.toNat * 2 ^ 8 + ctx * 2 ^ 16 + (if tr.imprec then 2 ^ 18 else 0))

/-- REPST (R73). R73 gives REMAIN as 0 when no repetition is active and says nothing of the other fields: they read as 0 too
(DESIGN CHOICE, log 52). An SYSR of it in a REP body reads its own index as POS (DESIGN CHOICE, log 49). -/
def repWord : Option Rep → DWord
  | none => 0
  | some r => BitVec.ofNat 64 (r.remain + r.pos * 2 ^ 11 + r.pass * 2 ^ 14 + r.km1.toNat * 2 ^ 24)

/-- Address of a context's slot (R254). -/
def slotAddr (tier ctx : Nat) : Nat := Config.saveBase tier + 0x40 + 64 * ctx

/-- A context's slot filled (R254, R255). -/
def State.fillSlot (s : State) (k ctx : Nat) (cw : DWord) (pc resume : Nat) (addr : DWord) (w : Word)
    (kind n : Nat) (rep : DWord) : State :=
  s.modCore k (fun c => c.portWrite (slotAddr (tierOf k) ctx)
    (leBytes 8 cw.toNat ++ leBytes 4 pc ++ leBytes 4 resume ++ leBytes 8 addr.toNat ++ leBytes 4 w.toNat
      ++ leBytes 4 (kind + 4 * (n % 2 ^ 10)) ++ leBytes 8 rep.toNat ++ leBytes 8 s.beat ++ leBytes 16 0))

/-- What R46 keeps of a context. -/
def Ctx.checkpoint (x : Ctx) (pc : Word) : Checkpoint := ⟨pc, x.g, x.wbase, x.frame, x.vlo, x.p, x.rep, x.flags⟩
/-- A context put back to a checkpoint (R46, R47, R267). -/
def Ctx.restore (x : Ctx) (k : Checkpoint) : Ctx :=
  { x with pc := k.pc, g := k.g, wbase := k.wbase, frame := k.frame, vlo := k.vlo, p := k.p, rep := k.rep,
           flags := k.flags, sig := 0, sigEnd := none }

/-- A context leaves the core at a tick: the ring chooses the next when it issues (R25). -/
def Ctl.leave (c : Ctl) (i t : Nat) : Ctl :=
  if c.turn = some i then { c with turn := none, last := i, issueAt := t } else c

/-- A context of a core ended: Halted, and off the core. -/
def Core.haltCtx (c : Core) (i t : Nat) : Core :=
  let c := c.modCtx i (fun x => { x with run := .halted })
  { c with ctl := c.ctl.leave i t }

/-- Every context that a kernel loaded is left Halted, and c0 of its cores (R307). -/
def Core.stopKernel (c : Core) (kid t : Nat) : Core :=
  let c := [1, 2, 3].foldl (fun (c : Core) i => if (c.ctx i).kernel = some kid then c.haltCtx i t else c) c
  if c.ctl.kernel = some kid then
    let c := c.modCtx 0 (fun x => { x with run := .halted })
    { c with ctl := { c.ctl with phase := none, frozen := false, stopped := false, handling := none, waiting := [],
                                 kept := none, head := none, kernel := none, fifo := [], skip := false } }
  else c

/-- A reply to a context, or a count that it waits for: with the context's end it is discarded (R307). -/
def Event.ofReply : Event → Option (Nat × Nat)
  | .ldxReply k c _ _ _ _ => some (k, c)
  | .mgetPortRead _ _ k c _ _ _ _ => some (k, c)
  | .mgetReply k c _ _ _ => some (k, c)
  | .sleepExpiry k c => some (k, c)
  | .twaitExpiry k c => some (k, c)
  | _ => none

/-- Replies to the contexts that a test names are discarded, also where a peer's answer is still to come, and the product
of their MMAS sends no message. -/
def State.dropReplies (s : State) (gone : Nat × Nat → Bool) : State :=
  let keeps (e : Event) : Bool := match Event.ofReply e with
    | some q => !gone q
    | none => true
  let s := s.modFabric (fun b => { b with reqs := b.reqs.filter (fun r => keeps r.ev)
                                          answers := b.answers.filter (fun a => keeps a.ev) })
  let s := s.modCores (fun k c => { c with slice := { c.slice with
    queue := c.slice.queue.map (fun o => if gone (k, o.ctx) then { o with quiet := true } else o) } })
  { s with agenda := s.agenda.filter (fun e => keeps e.ev) }

/-- What the cores that a test names gave the ports of their parents is dropped, of all sets or of incomplete ones alone (R145,
R148). -/
def State.dropGiven (s : State) (all : Bool) (gone : Nat → Bool) : State :=
  s.modCores (fun k c =>
    if c.vert.sets = [] then c
    else { c with vert := { c.vert with sets := c.vert.sets.filter (fun e =>
      !(gone (childOf k e.child) && (all || decide ((c.vert.sets.filter (fun x => x.nth == e.nth)).length < 4)))) } })

/-- A kernel ends with FATAL: every context that it loaded is Halted, replies to them are dropped (R307), and incomplete sets of
its cores' restrictions go with their phase (R145, R148). -/
def State.endKernel (s : State) (kid : Nat) : State :=
  let s := s.dropReplies (fun q => if q.2 = 0 then (s.core q.1).ctl.kernel == some kid else (s.ctx q).kernel == some kid)
  let s := s.dropGiven false (fun k => (s.core k).ctl.kernel == some kid)
  let s := s.modCores (fun k c => c.stopKernel kid (s.now + cyc k))
  let s := s.modKernel kid (fun x => { x with fatal := true, stage := .done })
  let s := ((s.cancel (.stop kid)).cancel (.groupHalt kid)).cancel (.releaseNotice kid)
  s.post s.now (.kernelComplete kid)

/-- A fatal trap: a record of kind 0x08, and the task ends with FATAL (R253, R307). Where no kernel loaded the context, it
alone is Halted (log 18). -/
def State.fatalRec (s : State) (k i code : Nat) (addr : DWord) (pc : Word) : State :=
  let s := s.record k (faultRec 0x08 k i 0 pc.toNat addr.toNat 0 0 code)
  let owner := if i = 0 then (s.core k).ctl.kernel else (s.ctx (k, i)).kernel
  match owner with
  | none => s.modCore k (fun c =>
      let c := c.haltCtx i (s.now + cyc k)
      if i = 0 then { c with ctl := { c.ctl with handling := none, waiting := [] } } else c)
  | some kid => s.endKernel kid

/-- A fatal trap of a cause (R253). -/
def State.fatal (s : State) (k i : Nat) (tr : Trap) (pc : Word) : State :=
  s.fatalRec k i (causeCode tr.cause) tr.addr pc

/-- The handler's vector: TVEC for kind 1, RVEC for kinds 2 and 3; none when it is not set (R254, R255). -/
def Core.vector (c : Core) (tier kind : Nat) : Option Nat :=
  let b := Config.saveBase tier + (if kind = 1 then 0 else 8)
  if c.readNat (b + 4) 1 % 2 = 1 then some (c.readNat b 4) else none

/-- c0 loads the trap registers from a slot and enters Handling (R255, R424); an entry whose vector is not set ends
the task. A program counter is a multiple of 4 (R63): the low two bits of a vector are dropped (DESIGN CHOICE, log 46). -/
def State.enter (s : State) (k ctx : Nat) : State :=
  let t := tierOf k
  let c := s.core k
  let a := slotAddr t ctx
  let kind := c.readNat (a + 28) 4 % 4
  match c.vector t kind with
  | none => s.fatalRec k ctx (c.readNat a 1) (BitVec.ofNat 64 (c.readNat (a + 16) 8))
      (BitVec.ofNat 32 (c.readNat (a + 8) 4))
  | some v =>
    let x := c.ctx 0
    let kept := if ctx = 0 then none else match c.ctl.kept with
      | some o => some o
      | none => some (x.run, x.pc)
    let v := v / 4 * 4
    s.modCore k (fun c =>
      let c := c.modCtx 0 (fun x => { x with run := .running, pc := BitVec.ofNat 32 v, sig := 0, sigEnd := none })
      { c with ctl := { c.ctl with
          head := if x.run = .atHeader then some x.pc else c.ctl.head
          handling := some ctx
          cause := BitVec.ofNat 64 (c.readNat a 8)
          tpc := BitVec.ofNat 32 (c.readNat (a + 8) 4)
          taddr := BitVec.ofNat 64 (c.readNat (a + 16) 8)
          tword := BitVec.ofNat 32 (c.readNat (a + 24) 4)
          kept := kept
          issueAt := ceilTo (cyc k) (s.now + 1) + s.gapAt k v * cyc k } })

/-- The entry served next: ascending context number, asynchronous ones last (R255). -/
def nextEntry (es : List Entry) : Option Entry :=
  match [0, 1, 2, 3].filterMap (fun i => es.find? (fun e => e.ctx == i && e.async.isNone)) with
  | e :: _ => some e
  | [] => es.head?

/-- A waiting entry taken when c0 is free for it, which it is not within a superstep (R23, R255): an asynchronous one fills
slot 0 when it is taken. -/
def State.serve (s : State) (k : Nat) : State :=
  let c := s.core k
  if c.ctl.handling.isSome ∨ c.ctl.phase.isSome then s else
  match nextEntry c.ctl.waiting with
  | none => s
  | some e =>
    let s := s.modCtl k (fun l => { l with waiting := l.waiting.erase e })
    match e.async with
    | none => s.enter k e.ctx
    | some (kind, n, cw, addr) =>
      let x := s.ctx (k, 0)
      let s := s.fillSlot k 0 cw x.pc.toNat x.pc.toNat addr 0 kind.toNat n.toNat (repWord x.rep)
      s.enter k 0

/-- An entry of a context, or an asynchronous one, given to c0 (R255). -/
def State.offer (s : State) (k : Nat) (e : Entry) : State :=
  (s.modCtl k (fun l => { l with waiting := l.waiting ++ [e] })).serve k

/-- A deviation or a consumed error in timed code: the core fills its slot and stops, and the group stops for a replay, once
per run of the superstep (R36, R253). A run that will be replayed leaves a record of kind 0x06 (R258). -/
def State.replay (s : State) (k : Nat) (w : Word) (tr : Trap) : State :=
  let x := s.ctx (k, 0)
  let s := s.fillSlot k 0 (causeWord tr 0) x.pc.toNat x.pc.toNat tr.addr w 1 0 (repWord x.rep)
  let s := s.modCtl k (fun l => { l with stopped := true })
  match (s.core k).ctl.kernel with
  | none => s.fatal k 0 tr x.pc
  | some kid =>
    match s.kernel kid with
    | none => s.fatal k 0 tr x.pc
    | some kn =>
      let s := s.modKernel kid (fun x => { x with
        failing := if x.failing.isSome then x.failing else some k
        width := x.width || (tr.cause == .timing && tr.sub == 6) })
      let entry := match (s.core k).ctl.ckpt with | some e => e.pc.toNat | none => x.pc.toNat
      let s := if kn.replays < 3 then
          s.record k (faultRec 0x06 k 0 0 entry tr.addr.toNat 0 0 (causeCode tr.cause))
        else s
      match kn.stage with
      | .running =>
        let (d, s) := s.drawIn 1 16
        let s := s.modKernel kid (fun x => { x with stage := .stopping false })
        s.post ((s.beat + d) * Config.ticksPerBeat) (.stop kid)
      | _ => s

/-- Causes an open region answers by its restart (R253, R267). -/
def restarts (tr : Trap) : Bool :=
  match tr.cause with
  | .eccu | .sigfault => true
  | .tilepois => tr.sub == 2 || tr.sub == 3 || tr.sub == 9
  | _ => false

/-- Causes that a timed superstep answers by a replay (R253). -/
def replays (tr : Trap) : Bool :=
  match tr.cause with
  | .timing | .tilepois | .sigfault | .eccu => true
  | _ => false

/-- c0 runs an instruction of a phase. -/
def Core.timed (c : Core) (i : Nat) : Bool := i == 0 && c.ctl.phase.isSome && c.ctl.handling.isNone

/-- A result that a restored checkpoint takes back (R46, R267). -/
def Act.checkpointed : Act → Bool
  | .g _ _ | .pred _ _ | .orFlags _ | .setFlags _ | .vlo _ => true
  | _ => false

/-- TAKING AN EXCEPTION (R253, R255, R267): WSPILL subcode 1 ends the task (R66, log 19); in timed code a replay or the task's end; in an open region its restart,
from which the context goes on even if it waited for a reply, the fourth time the task's end; otherwise the context's slot is filled, the context is Trapped, and c0 enters its
handler, or the entry waits while c0 is Handling. A trap of c0 while it is Handling ends the task. `w` is the first
word as it issued. -/
def State.takeTrap (s : State) (q : Nat × Nat) (w : Word) (tr : Trap) : State :=
  let k := q.1
  let i := q.2
  let c := s.core k
  let x := c.ctx i
  if tr.cause = .wspill ∧ tr.sub = 1 then s.fatal k i tr x.pc
  else if c.timed i then
    if replays tr then s.replay k w tr else s.fatal k i tr x.pc
  else match (if restarts tr then x.region else none) with
  | some r =>
    if 3 ≤ r.restarts then s.fatal k i tr x.pc
    else
      let s := s.record k (faultRec 0x06 k i 0 r.ckpt.pc.toNat tr.addr.toNat 0 0 (causeCode tr.cause))
      let s := s.modCore k (fun c => { c with pend := c.pend.filter (fun p => !(p.ctx == i && p.act.checkpointed)) })
      let run : Run := match x.run with
        | .held _ => .running
        | .gated _ => if i = 0 then .running else .ready
        | w => w
      let s := s.modCtx q (fun x => { x.restore r.ckpt with
        region := some { r with restarts := r.restarts + 1 }, sig := r.sig, run := run, readyAt := s.now + cyc k })
      if run ≠ .running ∨ (i ≠ 0 ∧ c.ctl.frozen) then s
      else s.modCtl k (fun l => { l with issueAt := s.now + cyc k + s.gapAt k r.ckpt.pc.toNat * cyc k })
  | none =>
    if i = 0 ∧ c.ctl.handling.isSome then s.fatal k i tr x.pc
    else
      let s := s.fillSlot k i (causeWord tr i) x.pc.toNat x.pc.toNat tr.addr w 1 0 (repWord x.rep)
      let s := s.modCore k (fun c =>
        let c := c.modCtx i (fun x => { x with run := .trapped })
        { c with ctl := c.ctl.leave i (s.now + cyc k) })
      s.offer k ⟨i, none⟩

/-- A trap that comes after its instruction has issued: the context stands at it again. A context that its kernel's end has
stopped meanwhile stays Halted (R307). -/
def State.trapLate (s : State) (q : Nat × Nat) (pc w : Word) (tr : Trap) : State :=
  if (s.ctx q).run = .halted then s
  else (s.modCtx q (fun x => { x with pc := pc, sig := 0, sigEnd := none })).takeTrap q w tr

/-- A TRAP request (R255, R390): the slot takes kind 2 and the immediate, and RESUME the next instruction. -/
def State.request (s : State) (q : Nat × Nat) (w : Word) (resume : Nat) (n : Nat) : State :=
  let k := q.1
  let i := q.2
  let x := s.ctx q
  let s := s.fillSlot k i 0 x.pc.toNat resume 0 w 2 n (repWord x.rep)
  let s := s.modCore k (fun c =>
    let c := c.modCtx i (fun x => { x with run := .trapped })
    { c with ctl := c.ctl.leave i (s.now + cyc k) })
  s.offer k ⟨i, none⟩

/-- c0 leaves Handling: it returns to what it was kept in, from where the next waiting entry is taken (R256, R424). -/
def State.leaveHandling (s : State) (k : Nat) : State :=
  let s := s.modCore k (fun c =>
    let c := match c.ctl.kept with
      | none => c
      | some (r, pc) => c.modCtx 0 (fun x => { x with run := r, pc := pc })
    { c with ctl := { c.ctl with handling := none, cause := 0, tpc := 0, taddr := 0, tword := 0, kept := none } })
  s.serve k

/-- RETURN FROM AN EXCEPTION (R256, R336, R424): RESUME of the handled slot halts or resumes its context; KIND is
cleared; c0 leaves Handling. A RESUME that is no instruction start, a phase header among them, raises BADTARGET. The
signature of the interrupted block is kept when the context resumes where it stopped (log 11). -/
def State.eret (s : State) (k : Nat) : Except Trap State :=
  let t := tierOf k
  match (s.core k).ctl.handling with
  | none => .error (.of .illop)
  | some c =>
    let a := slotAddr t c
    let r := (s.core k).readNat (a + 12) 4
    let pc := (s.core k).readNat (a + 8) 4
    let kind := (s.core k).readNat (a + 28) 4
    let s := s.modCore k (fun x => x.portWrite (a + 28) (leBytes 4 (kind / 4 * 4)))
    if r = 0xFFFFFFFF then
      let s := (s.modCore k (fun x => x.haltCtx c (s.now + cyc k))).leaveHandling k
      .ok (match (if c = 0 then (s.core k).ctl.kernel else (s.ctx (k, c)).kernel) with
        | some kid => s.post s.now (.kernelComplete kid)
        | none => s)
    else if !s.isStart k r then .error (.at_ .badtarget r)
    else
      let s := s.modCtx (k, c) (fun x =>
        let x := { x with pc := BitVec.ofNat 32 r, readyAt := s.now + cyc k
                          run := if c = 0 then .running else .ready }
        if r = pc then x else { x with sig := 0, sigEnd := none })
      let s := s.modCtl k (fun l => { l with issueAt := s.now + cyc k + s.gapAt k r * cyc k })
      let s := s.leaveHandling k
      if c = 0 ∨ (s.core k).ctl.handling.isSome ∨ (s.core k).ctl.frozen then .ok s
      else
        .ok (s.modCore k (fun x =>
          match x.ctl.turn with
          | none =>
            let x := x.modCtx c (fun y => { y with run := .running })
            { x with ctl := { x.ctl with turn := some c, issueAt := s.now + 2 * cyc k + s.gapAt k r * cyc k } }
          | some _ => { x with ctl := { x.ctl with issueAt := s.now + 2 * cyc k } }))

end Sys2Proof.Machine
end

