-- ==== Sys2Proof/Machine/Issue.lean ====
section
/-! DEFINITION. Fetching, issuing and retiring an instruction: signatures, repetition, the order of checks, waits, and
where the context goes on. -/

namespace Sys2Proof.Machine

/-! ## Signatures (R268, R269) -/

/-- Rotation of a 16-bit value to the left by three. -/
def rotl3 (x : BitVec 16) : BitVec 16 := x.rotateLeft 3

/-- One instruction added to S (R268): its first word, and its second in formats X and XL. -/
def sigAdd (s : BitVec 16) (w0 w1 : Word) : BitVec 16 :=
  let s := rotl3 s ^^^ bits w0 0 16 ^^^ bits w0 16 16
  if bit w0 1 then rotl3 s ^^^ bits w1 0 16 ^^^ bits w1 16 16 else s

/-- What the checker finds at the SIG word of a context's last block: when the instruction after it is fetched, a phase header
is reached, or its last instruction fetches nothing more (R84, R269). -/
def State.sigCheck (s : State) (q : Nat × Nat) : Option Trap :=
  let x := s.ctx q
  match x.sigEnd with
  | none => none
  | some b =>
    match s.storeWord q.1 b.sigAt.toNat with
    | some (w, _) =>
      if bits w 18 14 ≠ 0 ∨ bits w 16 2 = 3 then some (.of .illop)
      else if bits w 0 16 ≠ x.sig ∨ bits w 16 2 ≠ b.kind ∨ (b.kind ≠ 0 ∧ x.pc ≠ b.target) then
        some (.at_ .sigfault b.sigAt.toNat)
      else none
    | none => none

/-! ## Fetch and repetition (R42, R43, R82) -/

/-- A rotated field (R42). -/
def rotField (r : Rep) (f : BitVec 5) : BitVec 5 :=
  BitVec.ofNat 5 (r.base + (f.toNat - r.base + r.pass * r.stride) % r.size)

/-- A field's place in a rotation window (R43). -/
def inWindow (r : Rep) (f : BitVec 5) : Bool := r.base ≤ f.toNat && f.toNat < r.base + r.size

/-- The first word of a body instruction on the current pass (R42, R372), or ILLOP: a selected field outside the
window, a selected field the instruction reserves, field B of format I. -/
def rotateWord (r : Rep) (used : BitVec 3) (formatI : Bool) (w : Word) : Option Word :=
  let f := Word0.unpack w
  let m := bits (r.mask.setWidth 32) (3 * r.pos) 3
  let a := if formatI then f.immA else f.a
  if (m &&& ~~~used) ≠ 0 ∨ (formatI ∧ m.getLsbD 2) then none
  else if (m.getLsbD 0 ∧ !inWindow r f.d) ∨ (m.getLsbD 1 ∧ !inWindow r a) ∨ (m.getLsbD 2 ∧ !inWindow r f.b) then none
  else
    let d := if m.getLsbD 0 then rotField r f.d else f.d
    let b := if m.getLsbD 2 then rotField r f.b else f.b
    let a' := if m.getLsbD 1 then rotField r a else a
    if formatI then
      some (Word0.pack { f with d := d, b := b, gn := a'.getLsbD 4, g := a'.extractLsb' 1 3, y := a'.getLsbD 0 })
    else some (Word0.pack { f with d := d, b := b, a := a' })

/-- Format I: a one-word form of an immediate major (R77, R79). -/
def isFormatI (w : Word) : Bool :=
  bits w 0 2 == 0 &&
    (let m := (bits w 9 7).toNat
     (0x1C ≤ m && m ≤ 0x27) || m == 0x33 || (0x37 ≤ m && m ≤ 0x50) || m == 0x5A || m == 0x5C || m == 0x5D)

/-- The words of the store from an address on, as many as an instruction can take; the store ends them. -/
def State.wordsAt (s : State) (k a : Nat) : List Word :=
  ((List.range 5).map (fun i => s.storeWord k (a + 4 * i))).filterMap (fun o => o.map (·.1))

/-- The first word as it issues: rotated on a pass of a REP body (R44). -/
def State.issuedWord (s : State) (q : Nat × Nat) : Word :=
  let x := s.ctx q
  match s.storeWord q.1 x.pc.toNat with
  | none => 0
  | some (w, _) =>
    match x.rep with
    | some r =>
      if r.next = x.pc then
        match decode (s.wordsAt q.1 x.pc.toNat) with
        | .ok (i, _) => (rotateWord r (fieldsUsed i) (isFormatI w) w).getD w
        | .error _ => w
      else w
    | none => w

/-- Fetching at the context's program counter: the instruction, or the trap met before it (R81, R82, R269). -/
def State.fetch (s : State) (q : Nat × Nat) : Except Trap Instr :=
  let x := s.ctx q
  match s.sigCheck q with
  | some tr => .error tr
  | none =>
    match s.storeWord q.1 x.pc.toNat with
    | none => .error (.at_ .badtarget x.pc.toNat)
    | some (_, false) => .error (.at_ .badtarget x.pc.toNat)
    | some (w, true) =>
      if isHeader w then .error (.at_ .badtarget x.pc.toNat)
      else
        let ws := s.wordsAt q.1 x.pc.toNat
        match x.rep with
        | some r =>
          if r.next = x.pc then
            match decode ws with
            | .error _ => .error (.of .illop)
            | .ok (i, _) =>
              match rotateWord r (fieldsUsed i) (isFormatI w) w with
              | none => .error (.of .illop)
              | some w' =>
                match decode (w' :: ws.tail) with
                | .ok (i, _) => .ok i
                | .error _ => .error (.of .illop)
          else match decode ws with
            | .ok (i, _) => .ok i
            | .error _ => .error (.of .illop)
        | none =>
          match decode ws with
          | .ok (i, _) => .ok i
          | .error _ => .error (.of .illop)

/-- A trap met in fetching is taken; the check of a SIG word is over with it (log 11). -/
def State.trapAtFetch (s : State) (q : Nat × Nat) (tr : Trap) : State :=
  let w := s.issuedWord q
  let s := if (s.sigCheck q).isSome then s.modCtx q (fun x => { x with sig := 0, sigEnd := none }) else s
  s.takeTrap q w tr

/-! ## What an instruction needs -/

/-- A unit that may be gated (R278). -/
inductive GatedUnit where
  | vector | matrix | expansion
deriving DecidableEq, Repr

/-- What the shared issue stage needs of an instruction: its words, its header, the registers it names, the tier it is
built for, the ILLOP and PRIV conditions of its entry on the state at issue, and what it waits for. -/
structure Need where
  len     : Nat
  hdr     : Hdr
  noGuard : Bool := false
  transfer : Bool := false
  /-- in a slaved phase the leader's guard decides (R37, R373) -/
  leader  : Bool := false
  /-- END code of the block a transfer closes (R84) -/
  endKind : BitVec 2 := 1
  /-- scalar registers read, and written -/
  rs      : List Reg := []
  rd      : List Reg := []
  ps      : List PredReg := []
  vs      : List VecReg := []
  /-- further results of the context that it reads (IDEM, SYSR) -/
  reads   : Act → Bool := fun _ => false
  tier    : Option (BitVec 2) := none
  ill     : Bool := false
  priv    : Option Nat := none
  /-- near bytes read, and near bytes stored to -/
  bytes   : List (Nat × Nat) := []
  stored  : List (Nat × Nat) := []
  /-- near bytes that the issue itself reads, not a unit or a slot behind it -/
  reading : List (Nat × Nat) := bytes
  unit    : Option GatedUnit := none
  occ     : Nat := 1
  /-- the path of its accesses (R210); one that reads or stores near bytes is on LS where this names none -/
  path    : Option Path := none

/-- Where the context goes when an instruction has its effect. -/
inductive Flow where
  /-- on to the next instruction -/
  | next
  /-- a transfer whose guard holds: its target, and the END code of its block (R84) -/
  | jump (target : Nat) (kind : BitVec 2)
  /-- keeps the core until the wait ends (R422) -/
  | hold (w : Wait)
  /-- leaves the core until the wait ends (R24) -/
  | gate (w : Wait)
  /-- a yield point (R24) -/
  | yield
  /-- HALT (R344) -/
  | halt
  /-- waits at issue: nothing has happened, and it issues again at a tick -/
  | again (t : Nat)
  /-- the instruction itself moved the context on (TRAP, ERET) -/
  | moved
deriving DecidableEq, Repr

/-- An instruction's effect: the state it leaves and the flow. -/
structure Done where
  st   : State
  flow : Flow := .next

/-- ILLOP of R64, R78 and of the entry. -/
def illegal (n : Need) (s : State) : Bool :=
  let x := s.ctx s.cur
  n.ill || !((n.rs ++ n.rd).all x.regOk)
    || (match n.tier with
        | some t => t.toNat != tierOf s.cur.1
        | none => false)

/-- The guard decides for the context; in a slaved phase the leader's guard decides a transfer for every member
(R37, R76, R373). -/
def guardHolds (n : Need) (s : State) : Bool :=
  n.noGuard ||
    (let c := s.core s.cur.1
     match c.ctl.phase, c.ctl.fifo with
     | some p, f :: _ =>
       if (n.transfer || n.leader) && s.cur.2 == 0 && p.slaved && p.skew != 0 then f.guard else (c.ctx s.cur.2).guard n.hdr
     | _, _ => (c.ctx s.cur.2).guard n.hdr)

/-- An act writes a register that an instruction reads. -/
def actFeeds (tier : Nat) (x : Ctx) (n : Need) : Act → Bool
  | .g i _ => n.rs.any (fun r => r.toNat < 8 && r.toNat == i)
  | .entry i _ => n.rs.any (fun r => 8 ≤ r.toNat && entryOf tier x r == i)
  | .pred i _ => (n.hdr.g :: n.ps).any (fun p => p.toNat == i)
  | .vec i _ => n.vs.any (fun v => v.toNat == i)
  | _ => false

/-- An act stores into bytes that an instruction reads. -/
def actStores (n : Need) : Act → Bool
  | .store a bs _ => n.bytes.any (fun b => decide (a < b.1 + b.2 ∧ b.1 < a + bs.length))
  | .lanes st _ => st.any (fun p => n.bytes.any (fun b => decide (p.1 < b.1 + b.2 ∧ b.1 < p.1 + p.2.length)))
  | _ => false

/-- A place that an access touches: the core of a near one, or none for far memory, its first address, its bytes, and for a near
write the tick at which it is due. -/
structure Span where
  home : Option Nat
  addr : Nat
  size : Nat
  due  : Nat
deriving DecidableEq, Repr

/-- Two places share a byte. -/
def Span.meets (a b : Span) : Bool := a.home == b.home && decide (a.addr < b.addr + b.size ∧ b.addr < a.addr + a.size)

/-- What an expansion instruction writes at its end (R162, R164). -/
def XKind.span : XKind → Option (Nat × Nat)
  | .st _ addr _ => some (addr, 576)
  | .eval addr _ n | .m2p addr _ n => some (addr, 16 * n)
  | _ => none

/-- The first row that the running MSCAC of a core has not written. -/
def Core.rowsLeft (c : Core) : Nat :=
  c.pend.foldl (fun m p => match p.act with
    | .scRead r | .scWrite r => min m r
    | _ => m) 32

/-- The LS writes of a core's contexts that are not performed, with the context: stores and atomics under way, those behind an
atomic's slot, an MSCAC's rows and what the expansion unit will write (R130, R137, R164, R210, R237). -/
def Core.lsOut (c : Core) (k : Nat) : List (Nat × Span) :=
  c.pend.flatMap (fun p => match p.act with
    | .store a bs _ => [(p.ctx, ⟨some k, a, bs.length, p.due⟩)]
    | .lanes st _ => st.map (fun e => (p.ctx, ⟨some k, e.1, e.2.length, p.due⟩))
    | .atomic _ ty a _ _ _ _ _ _ => [(p.ctx, ⟨some k, a, ty.width / 8, p.due⟩)]
    | _ => [])
  ++ c.ctl.behind.filterMap (fun h => match h.by_ with
    | .ctx k' i t => if k' = k ∧ h.port = 3 then some (i, ⟨some k, h.addr, h.bytes.length, t⟩) else none
    | _ => none)
  ++ c.slice.queue.filterMap (fun o => match o.what with
    | .mscac _ dst _ =>
      let r := if o.started.isSome then c.rowsLeft else 0
      if r < 32 then some (o.ctx, ⟨some k, dst + 64 * r, 2048 - 64 * r, 0⟩) else none
    | _ => none)
  ++ c.xu.queue.filterMap (fun o => o.what.span.map (fun e => (o.ctx, ⟨some k, e.1, e.2, 0⟩)))

/-- The steps of other agents that are still to come: those on the agenda, and those that wait for a peer (R271). -/
def State.live (s : State) : List Event :=
  s.agenda.map (·.ev) ++ s.dev.fabric.reqs.map (·.ev)

/-- The LS writes of a context that are not performed (R210). -/
def State.lsWrites (s : State) (q : Nat × Nat) : List Span :=
  ((s.core q.1).lsOut q.1).filterMap (fun e => if e.1 = q.2 then some e.2 else none)
    ++ s.live.filterMap (fun e => match e with
      | .stxComplete k c _ va _ _ => if k = q.1 ∧ c = q.2 then some ⟨none, va.toNat, 64, 0⟩ else none
      | _ => none)

/-- A write that stands in its bank's cycle or behind an atomic's slot, with who waits for it. -/
def State.portWrites (s : State) : List (Nat × Held) :=
  s.cores.flatMap (fun e => (e.2.pend.filterMap (fun p => match p.act with
      | .port h => some (e.1, h)
      | _ => none)) ++ e.2.ctl.behind.map (fun h => (e.1, h)))

/-- A write of this writer is not performed. -/
def State.writing (s : State) (w : Writer) : Bool := s.portWrites.any (fun e => e.2.by_ == w)

/-- The MSGB writes of a context that are not performed: on their way, at a port, or behind an atomic's slot (R210, R237). -/
def State.msWrites (s : State) (q : Nat × Nat) : List Span :=
  s.live.filterMap (fun e => match e with
    | .msgbPortWrite home a _ short src c _ first =>
      if src = q.1 ∧ c = q.2 then some ⟨some home, a, if short then 8 else 64, first⟩ else none
    | _ => none)
  ++ s.portWrites.filterMap (fun e => match e.2.by_ with
    | .ctx k c t => if k = q.1 ∧ c = q.2 ∧ e.2.port = 1 then some ⟨some e.1, e.2.addr, e.2.bytes.length, t⟩ else none
    | _ => none)

/-- The path that an instruction's accesses are on. -/
def Need.onPath (n : Need) : Option Path :=
  match n.path with
  | some p => some p
  | none => if n.bytes ≠ [] ∨ n.stored ≠ [] then some .ls else none

/-- A context has an MSCAC outstanding. -/
def State.rowsOut (s : State) (q : Nat × Nat) : Bool :=
  (s.core q.1).slice.queue.any (fun o => o.ctx == q.2 && (match o.what with
    | .mscac _ _ _ => true
    | _ => false))

/-- A write of the context to its own core that stands before a fence of scope core is not performed. -/
def State.fenceHolds (s : State) (q : Nat × Nat) (f : Fenced) : Bool :=
  (s.lsWrites q ++ s.msWrites q).any (fun w => w.home == some q.1 && decide (0 < w.due ∧ w.due ≤ f.due)) || (f.rows && s.rowsOut q)

/-- A fence of scope core waits for no access (R339), and an access behind it sees every write before it in the same core (R216,
R420): one that is still on its way holds the access (DESIGN CHOICE, log 50). -/
def State.fencedOff (s : State) (n : Need) : Bool :=
  !(s.core s.cur.1).timed s.cur.2 && (s.ctx s.cur).fenced.any (fun f => n.onPath == some f.path && s.fenceHolds s.cur f)

/-- What a fence of scope core leaves to the accesses behind it, beside what earlier ones still do (R216, R339, R420). -/
def State.leaveFence (s : State) (p1 p2 : Path) : State :=
  let q := s.cur
  let out := match p1 with
    | .ls => s.lsWrites q
    | .ms => s.msWrites q
    | _ => []
  let due := out.foldl (fun m w => if w.home = some q.1 then max m w.due else m) 0
  let rows := p1 == .ls && s.rowsOut q
  if due = 0 ∧ !rows then s
  else s.modCtx q (fun x => { x with fenced := x.fenced.filter (s.fenceHolds q) ++ [⟨p2, due, rows⟩] })

/-- The tick an instruction waits for under R305: in c1–c3, and in c0 outside a superstep, which follows the untimed rules
(R23, R266; log 22). A store behind an atomic's slot is looked at again in the next cycle (R237). -/
def waitFor (n : Need) (s : State) : Option Nat :=
  let q := s.cur
  let c := s.core q.1
  let x := c.ctx q.2
  if c.timed q.2 then none
  else
    let latest (f : Act → Bool) : Option Nat :=
      (c.pend.filter (fun p => p.ctx == q.2 && decide (s.now < p.due) && f p.act)).foldl
        (fun m p => some (match m with | none => p.due | some t => max t p.due)) none
    match latest (fun a => n.reads a || actFeeds (tierOf q.1) x n a) with
    | some t => some t
    | none => match latest (actStores n) with
      | some t => some t
      | none =>
        if c.ctl.behind.any (fun h => h.port == 3 && (match h.by_ with
            | .ctx _ i _ => i == q.2
            | _ => false) && actStores n (.store h.addr h.bytes false)) then
          some (s.now + cyc q.1)
        else none

/-- The tick at which the guard's predicate is readable (R305). -/
def guardWait (n : Need) (s : State) : Option Nat := if n.noGuard then none else waitFor { len := n.len, hdr := n.hdr } s

/-- An outstanding slice operation of the context gives what an instruction needs: the vector register of an MRD (R126), the
bytes of an MSCAC, which a later store follows as well (R137, R305), or the flags of either and of a product, for an
instruction that reads FLAGS (R266, R305); or a fence of scope core stands before it whose writes are not performed. -/
def waitMrd (n : Need) (s : State) : Bool :=
  let flags := n.reads (.orFlags 0)
  let touches (a size : Nat) : Bool := (n.bytes ++ n.stored).any (fun b => decide (b.1 < a + size ∧ a < b.1 + b.2))
  s.fencedOff n || !(s.core s.cur.1).timed s.cur.2 && (s.core s.cur.1).slice.queue.any (fun o => o.ctx == s.cur.2 &&
    match o.what with
    | .mrd d _ _ _ _ => flags || n.vs.any (fun v => v == d)
    | .mscac _ dst _ => flags || touches dst 2048
    | .mma _ _ _ | .mmas _ _ _ _ _ => flags
    | .mwld _ _ | .mzero _ => false)

/-- Break-even and wake lengths (R278). -/
def unitLengths : GatedUnit → Nat × Nat
  | .vector => (32, 4)
  | .matrix => (256, 16)
  | .expansion => (64, 8)
/-- A unit's use record. -/
def Ctl.useOf (c : Ctl) : GatedUnit → UnitUse
  | .vector => c.vunit
  | .matrix => c.munit
  | .expansion => c.xunit
/-- A unit's use record replaced. -/
def Ctl.setUse (c : Ctl) (u : GatedUnit) (v : UnitUse) : Ctl :=
  match u with
  | .vector => { c with vunit := v }
  | .matrix => { c with munit := v }
  | .expansion => { c with xunit := v }
/-- PGCTL's bit of a unit (R278). -/
def pgBit : GatedUnit → Nat
  | .vector => 0
  | .matrix => 1
  | .expansion => 2

/-- A unit is at work on an operation of its queue: it is not idle (R278). -/
def Core.unitBusy (c : Core) : GatedUnit → Bool
  | .vector => false
  | .matrix => !c.slice.queue.isEmpty
  | .expansion => !c.xu.queue.isEmpty

/-- The unit of an instruction, when it is idle: an idle interval ends with the instruction (R279). -/
def idleUnit (n : Need) (s : State) : Option GatedUnit :=
  n.unit.filter (fun u => !(s.core s.cur.1).unitBusy u)

/-- An instruction outside a superstep meets a gated unit: the predicted interval reached the break-even length (R278, R279). -/
def unitGated (n : Need) (s : State) : Bool :=
  match idleUnit n s with
  | none => false
  | some u =>
    let v := (s.core s.cur.1).ctl.useOf u
    !(s.core s.cur.1).timed s.cur.2 && (s.part (s.partOf s.cur.1)).pgctl.getLsbD (pgBit u)
      && decide ((unitLengths u).1 ≤ v.idle) && decide (v.last < s.now)

/-- The use of a unit recorded: its idle interval in cycles ends here (R279). -/
def Ctl.touch (c : Ctl) (u : Option GatedUnit) (now cycle from_ : Nat) : Ctl :=
  match u with
  | none => c
  | some u =>
    let v := c.useOf u
    c.setUse u ⟨max v.last from_, if v.last < now then (now - v.last) / cycle else v.idle⟩

/-! ## Retiring -/

/-- The next step of a repetition after its current body instruction (R42): on, back to the body's start, or over. -/
def Rep.advance (r : Rep) (after : Word) : Option Rep × Option Word :=
  if r.pos < r.km1.toNat then (some { r with pos := r.pos + 1, next := after }, none)
  else if 0 < r.remain then
    (some { r with pos := 0, remain := r.remain - 1, pass := r.pass + 1, next := r.start }, some r.start)
  else (none, none)

/-- The context moves past its instruction: S takes its words on their first fetch, the repetition advances, and the
program counter goes on, over a SIG word, or to the target of a transfer. -/
def State.advance (s : State) (q : Nat × Nat) (len : Nat) (dest : Option (Nat × BitVec 2)) (taken : Bool) : State :=
  let x := s.ctx q
  let after := x.pc.toNat + 4 * len
  let w0 := match s.storeWord q.1 x.pc.toNat with | some (w, _) => w | none => 0
  let w1 := match s.storeWord q.1 (x.pc.toNat + 4) with | some (w, _) => w | none => 0
  let inRep := match x.rep with | some r => r.next == x.pc | none => false
  let first := match x.rep with | some r => !(r.next == x.pc) || r.pass == 0 | none => true
  let base := if x.sigEnd.isSome then 0 else x.sig
  let sig := if first then sigAdd base w0 w1 else base
  let sigW := match s.storeWord q.1 after with | some (_, false) => true | _ => false
  let (rep, back) := match x.rep with
    | some r => if inRep then r.advance (BitVec.ofNat 32 after) else (some r, none)
    | none => (none, none)
  match dest, back with
  | some (t, kind), _ =>
    s.modCtx q (fun x => { x with
      pc := BitVec.ofNat 32 t, rep := rep
      sig := if sigW then sig else 0
      sigEnd := if sigW then some ⟨kind, taken, BitVec.ofNat 32 t, BitVec.ofNat 32 after⟩ else none })
  | none, some b => s.modCtx q (fun x => { x with pc := b, rep := rep, sig := sig, sigEnd := none })
  | none, none =>
    let n := if sigW then after + 4 else after
    s.modCtx q (fun x => { x with
      pc := BitVec.ofNat 32 n, rep := rep, sig := sig
      sigEnd := if sigW then some ⟨0, false, BitVec.ofNat 32 n, BitVec.ofNat 32 after⟩ else none })

/-- The block that HALT, TRAP or ERET ends: the context does not fetch next, so its SIG word is checked as it issues (R84,
R269; log 11). `len` is the instruction's words, `target` where it goes on. -/
def blockEnds (len target : Nat) (s : State) : Except Trap Unit :=
  match (s.advance s.cur len (some (target, 2)) true).sigCheck s.cur with
  | some tr => .error tr
  | none => .ok ()

/-- The leader forwards what it issued to every follower of a slaved gang (R37, R38). -/
def State.forward (s : State) (q : Nat × Nat) (pc : Word) (guard : Bool) : State :=
  match (s.core q.1).ctl.phase with
  | some p =>
    if q.2 = 0 ∧ p.slaved ∧ p.skew = 0 then
      let nx := (s.ctx q).pc
      (List.range (Config.clusterSide (tierOf q.1) - 1)).foldl (fun s i =>
        s.modCtl (q.1 + (i + 1)) (fun c => { c with
          fifo := c.fifo ++ [⟨s.now + (i + 1) * cyc q.1, pc, nx, guard⟩] })) s
    else s
  | none => s

/-- A follower has issued what stood at the head of its network: its program counter follows the leader (R37). -/
def State.follow (s : State) (q : Nat × Nat) : State :=
  match (s.core q.1).ctl.phase, (s.core q.1).ctl.fifo with
  | some p, f :: r =>
    if q.2 = 0 ∧ p.slaved ∧ p.skew ≠ 0 then
      let s := s.modCtl q.1 (fun c => { c with fifo := r })
      s.modCtx q (fun x => { x with pc := f.next })
    else s
  | _, _ => s

/-- The tick of the context's next issue: occupancy, then the next instruction's GAP (R27). -/
def State.pace (s : State) (q : Nat × Nat) (occ : Nat) : State :=
  s.modCtl q.1 (fun c => { c with
    issueAt := s.now + (occ + s.gapAt q.1 (s.ctx q).pc.toNat) * cyc q.1 })

/-- A yield point of c1–c3: the core passes to another Ready context, or the same goes on (R24, R25). c0 does not
yield (R417). -/
def State.yieldTo (s : State) (q : Nat × Nat) (occ : Nat) : State :=
  let c := s.core q.1
  if q.2 = 0 then s
  else if [1, 2, 3].any (fun i => i != q.2 && (c.ctx i).run == .ready && decide ((c.ctx i).readyAt ≤ s.now + occ * cyc q.1)) then
    s.modCore q.1 (fun c =>
      let c := c.modCtx q.2 (fun x => { x with run := .ready, readyAt := s.now + occ * cyc q.1 })
      { c with ctl := c.ctl.leave q.2 (s.now + occ * cyc q.1) })
  else s

/-- A context leaves the core to wait (R24); `readyAt` is the tick of its first look at a wait without an event. -/
def State.gateCtx (s : State) (q : Nat × Nat) (w : Wait) (occ : Nat) : State :=
  s.modCore q.1 (fun c =>
    let c := c.modCtx q.2 (fun x => { x with run := .gated w, readyAt := s.now + cyc q.1 })
    { c with ctl := c.ctl.leave q.2 (s.now + occ * cyc q.1) })

/-- An instruction has issued: the flow of its effect decides how its context goes on. A false guard uses the occupancy
(R76), but for a transfer, which then takes one cycle (R324). -/
def retire (n : Need) (d : Done) (held : Bool) : State :=
  let s := d.st
  let q := s.cur
  let pc := (s.ctx q).pc
  let s := match d.flow, held with
    | .again _, _ => s
    | _, false => s
    | _, true => s.modCtl q.1 (fun c => c.touch n.unit s.now (cyc q.1) (s.now + n.occ * cyc q.1))
  let occ := if held ∨ !n.transfer then n.occ else 1
  match d.flow with
  | .next =>
    let s := ((s.advance q n.len (if n.transfer then some (s.skipSig q.1 (pc.toNat + 4 * n.len), n.endKind) else none) false).forward
      q pc held).follow q
    let s := s.pace q occ
    if n.hdr.y then s.yieldTo q occ else s
  | .yield =>
    let s := ((s.advance q n.len none false).forward q pc held).follow q
    (s.pace q occ).yieldTo q occ
  | .jump t kind =>
    let s := ((s.advance q n.len (some (t, kind)) true).forward q pc held).follow q
    let s := s.pace q occ
    if n.hdr.y then s.yieldTo q occ else s
  | .hold w =>
    if n.hdr.y ∧ q.2 ≠ 0 then s.gateCtx q w occ
    else
      let s := s.modCtx q (fun x => { x with run := .held w })
      s.modCtl q.1 (fun c => { c with issueAt := s.now + cyc q.1 })
  | .gate w => s.gateCtx q w occ
  | .halt =>
    let s := s.advance q n.len (some (pc.toNat + 4 * n.len, 2)) true
    let s := s.modCore q.1 (fun c => c.haltCtx q.2 (s.now + occ * cyc q.1))
    (match (s.ctx q).kernel with
      | some kid => s.post s.now (.kernelComplete kid)
      | none => s)
  | .again t => s.modCtl q.1 (fun c => { c with issueAt := t })
  | .moved => s

/-- Words with a single-bit error among the bytes that an instruction's issue reads. -/
def Need.soft (n : Need) (s : State) : Nat :=
  n.reading.foldl (fun m b => m + (s.core s.cur.1).softWords b.1 b.2) 0

/-- Single-bit errors in the near words that an instruction has read in a state are corrected and counted (R178). -/
def Need.counted (n : Need) (s : State) (d : Done) : Done :=
  match d.flow with
  | .again _ => d
  | _ => { d with st := d.st.count s.cur.1 (n.soft s) }

/-- THE ISSUE OF ONE INSTRUCTION by the context `cur`, in the order of R81: ILLOP, PRIV, the guard, the waits, then the
entry's own traps and effect. -/
def issue (n : Need) (body : State → Except Trap Done) (s : State) : Host.Outcome State Fault Refusal :=
  .next (
    if illegal n s then s.takeTrap s.cur (s.issuedWord s.cur) (.of .illop)
    else match n.priv with
    | some a => s.takeTrap s.cur (s.issuedWord s.cur) (.at_ .priv a)
    | none =>
      match guardWait n s with
      | some t => retire n ⟨s, .again t⟩ true
      | none =>
        if !guardHolds n s then retire n ⟨s, .next⟩ false
      else match waitFor n s with
      | some t => retire n ⟨s, .again t⟩ true
      | none =>
        if waitMrd n s then retire n ⟨s, .again (s.now + cyc s.cur.1)⟩ true
        else if unitGated n s then
          let t := match n.unit with
            | some u => s.now + (unitLengths u).2 * cyc s.cur.1
            | none => s.now
          .modCtl s s.cur.1 (fun c => { (c.touch n.unit s.now (cyc s.cur.1) t) with issueAt := t })
        else match body s with
        | .error tr => s.takeTrap s.cur (s.issuedWord s.cur) tr
        | .ok d => retire { n with unit := idleUnit n s } (n.counted s d) true)

/-- The conditions on the state and the operands under which an instruction has its own effect or its own traps. -/
def Ready (n : Need) (s : State) : Prop :=
  illegal n s = false ∧ n.priv = none ∧ guardWait n s = none ∧ guardHolds n s = true ∧ waitFor n s = none ∧ waitMrd n s = false
    ∧ unitGated n s = false

/-- A wait has ended at a tick: results are written, and the context goes on behind its instruction; it issues in the
cycle its result is written when it kept the core, and is Ready in the next cycle when it left it (R422). In a Frozen core
the tick of c0's next issue stays as it is. -/
def State.finishAt (s : State) (q : Nat × Nat) (as_ : List Act) (at_ : Nat) : State :=
  let k := q.1
  let s := s.modCore k (fun c => as_.foldl (fun c a => applyAct (tierOf k) c q.2 a) c)
  let len := match s.storeWord k (s.ctx q).pc.toNat with | some (w, _) => wordCount w | none => 1
  let wasHeld := match (s.ctx q).run with | .held _ => true | _ => false
  let s := s.advance q len none false
  let t := ceilTo (cyc k) at_
  if wasHeld then
    let s := s.modCtx q (fun x => { x with run := .running })
    if q.2 ≠ 0 ∧ (s.core k).ctl.frozen then s
    else s.modCtl k (fun c => { c with issueAt := t + s.gapAt k (s.ctx q).pc.toNat * cyc k })
  else if q.2 = 0 then
    let s := s.modCtx q (fun x => { x with run := .running })
    s.modCtl k (fun c => { c with issueAt := t + (1 + s.gapAt k (s.ctx q).pc.toNat) * cyc k })
  else s.modCtx q (fun x => { x with run := .ready, readyAt := t + cyc k })

/-- A wait ends now. -/
def State.finish (s : State) (q : Nat × Nat) (as_ : List Act) : State := s.finishAt q as_ s.now

/-- Deliver scalar results of the issuing context and go on. -/
def done (s : State) (lat : Nat) (as_ : List Act) : Except Trap Done := .ok ⟨s.deliver s.cur lat as_, .next⟩

/-- c0 is in a superstep: a phase of it is under way and c0 is not Handling. -/
def inStep (s : State) : Bool := (s.core s.cur.1).timed s.cur.2
/-- Paths that a fence of timed code may name (R217), and on which a fence of scope core waits for no access (R339). -/
def timedPath (p : Path) : Bool := p == .ls || p == .ms || p == .vt || p == .mx
/-- c0 runs in a phase whose kind does not permit messages (R28). -/
def inCompute (s : State) : Bool :=
  match (s.core s.cur.1).ctl.phase with
  | some p => inStep s && p.kind == .compute
  | none => false

end Sys2Proof.Machine
end

