-- ==== Sys2Proof/Machine/Operands.lean ====
section
/-! DEFINITION. The operand forms: register operands of the issuing context, immediates, exact addresses with the checks
of each window, and the lanes of a vector register. -/

namespace Sys2Proof.Machine

/-! ## Headers and registers of the issuing context -/

/-- Format I takes no guard and no yield mark (R77). -/
def gapHdr (gap : BitVec 2) : Hdr := ⟨gap, false, 0, false⟩
/-- The header of a form whose G and GN are reserved (RET, ERET, JMP). -/
def openHdr (gap : BitVec 2) (y : Bool) : Hdr := ⟨gap, y, 0, false⟩

/-- The issuing core's tier. -/
def State.tier (s : State) : Nat := tierOf s.cur.1
/-- A scalar operand. -/
def rv (s : State) (r : Reg) : DWord := (s.ctx s.cur).reg s.tier r
/-- A predicate operand. -/
def pv (s : State) (p : PredReg) : Bool := (s.ctx s.cur).pred p
/-- A vector operand. -/
def vv (s : State) (v : VecReg) : Line := (s.ctx s.cur).vec v
/-- The issuing context's program counter. -/
def pcv (s : State) : Nat := (s.ctx s.cur).pc.toNat
/-- A scalar result of the issuing context. -/
def toReg (s : State) (d : Reg) (v : DWord) : List Act := scalarAct s.tier (s.ctx s.cur) d v

/-- The low w bits with the sign of the highest of them. -/
def signExt (w : Nat) (x : DWord) : DWord := BitVec.ofInt 64 (if 2 ^ (w - 1) ≤ x.toNat % 2 ^ w then
  ((x.toNat % 2 ^ w : Nat) : Int) - 2 ^ w else (x.toNat % 2 ^ w : Nat))
/-- The low w bits. -/
def zeroExt (w : Nat) (x : DWord) : DWord := BitVec.ofNat 64 (x.toNat % 2 ^ w)

/-! ## Exact addresses and the checks of R176 -/

/-- wA + off, exact (R321, R347, R382, R396). -/
def eaOf (s : State) (a : Reg) (off : Int) : Int := ((rv s a).toNat : Int) + off

/-- The window an instruction reaches (R176). -/
inductive Window where
  | localStore | ownBank
deriving DecidableEq, Repr

/-- First byte of a window. -/
def Window.lo (_tier : Nat) : Window → Nat
  | .localStore => 0
  | .ownBank => Config.bankBase
/-- First byte past a window. -/
def Window.hi (tier : Nat) : Window → Nat
  | .localStore => Config.localSize tier
  | .ownBank => Config.bankEnd tier

/-- TRAP_ADDR of an exact address. -/
def addrBits (ea : Int) : DWord := BitVec.ofInt 64 ea

/-- The checks of R176 on `n` bytes from an exact address, in their order; TRAP_ADDR is the first offending byte. -/
def checkNear (s : State) (w : Window) (store : Bool) (ea : Int) (n align : Nat) : Except Trap Nat :=
  let lo : Int := w.lo s.tier
  let hi : Int := w.hi s.tier
  let sb : Int := Config.statusBase s.tier
  if ea % align ≠ 0 then .error ⟨.align, 0, addrBits ea, false⟩
  else if ea < lo ∨ hi ≤ ea then .error ⟨.bankrange, 0, addrBits ea, false⟩
  else if hi < ea + n then .error ⟨.bankrange, 0, addrBits hi, false⟩
  else if s.cur.2 ≠ 0 ∧ w = .ownBank ∧ (if store then sb else sb + 64) < ea + n then
    .error ⟨.priv, 0, addrBits (max ea (if store then sb else sb + 64)), false⟩
  else .ok ea.toNat

/-- A read of near bytes by an instruction: the first uncorrectable word raises ECCU (R178). -/
def readNear (s : State) (a n : Nat) : Except Trap (List Byte) :=
  let c := s.core s.cur.1
  match c.badIn a n with
  | some w => .error (c.eccu w)
  | none => .ok (c.readN a n)

/-- Near bytes read, as R305 waits for them. -/
def bytesAt (ea : Int) (n : Nat) : List (Nat × Nat) := if 0 ≤ ea then [(ea.toNat, n)] else []

/-- Load latency of a window (R11, R177). -/
def Window.latency (tier : Nat) : Window → Nat
  | .localStore => Config.localLatency
  | .ownBank => Config.bankLatency tier

/-! ## Vector lanes (R86) -/

/-- Lane l of width w. -/
def lane (w : Nat) (v : Line) (l : Nat) : Nat := v.toNat / 2 ^ (w * l) % 2 ^ w
/-- Lanes of a register. -/
def lanesOf (w : Nat) (v : Line) : List Nat := (List.range (512 / w)).map (lane w v)
/-- Lanes as a number, lane 0 lowest. -/
def packNat (w : Nat) : List Nat → Nat
  | [] => 0
  | x :: r => x % 2 ^ w + 2 ^ w * packNat w r
/-- Lanes packed into a register. -/
def packLanes (w : Nat) (ls : List Nat) : Line := BitVec.ofNat 512 (packNat w ls)
/-- Lanes from `from_` on replaced (the merging forms of R391). -/
def mergeLanes (w : Nat) (old : Line) (from_ : Nat) (ls : List Nat) : Line :=
  packLanes w ((List.range (512 / w)).map (fun l => if from_ ≤ l then ls.getD (l - from_) (lane w old l) else lane w old l))
/-- A register's 64 bytes. -/
def lineBytes (v : Line) : List Byte := leBytes 64 v.toNat
/-- A register of 64 bytes. -/
def bytesLine (bs : List Byte) : Line := BitVec.ofNat 512 (leNat bs)

/-- Log2 of a number of lanes. -/
def log2Lanes (w : Nat) : Nat := (512 / w).log2

/-! ## The immediates -/

/-- IMM11 as a signed number (R77). -/
def imm11 (imm : BitVec 11) : Int := imm.toInt
/-- A 64-bit literal as a signed number. -/
def lit64 (lit : DWord) : Int := lit.toInt

end Sys2Proof.Machine
end

