-- ==== Sys2Proof/Machine/Slice.lean ====
section
/-! DEFINITION. The matrix slice's data: operand values, products accumulated into a tile, the weight buffer's image,
tiles read and scaled, and the reads and writes that its running operation makes cycle by cycle (R98 to R106, R117 to R130,
R423). -/

namespace Sys2Proof.Machine

/-! ## Modes and rates (R118) -/

/-- ACC80 mode of an operand pair (R118). -/
def modeOf (ta : Ty) : TileMode :=
  if ta.is8F then .fixed else if ta.isF then .wide else .int

/-- Steps k per cycle as a fraction: two over this, so 1 for two steps, 2 for one, 4 for a half (R118). -/
def halfCycles (ta tb : Ty) : Nat := if tb.isCode then 1 else if ta.isF then 4 else 2

/-- Cycles until column j is read, counted from the first (R123): floor(j / c). -/
def colCycle (p : Product) (j : Nat) : Nat := j * halfCycles p.ta p.tb / 2
/-- Run time of a product over K steps: K / c cycles (R118). -/
def runCycles (p : Product) : Nat := p.k * halfCycles p.ta p.tb / 2
/-- Columns read in one cycle (R123). -/
def colsAtOnce (p : Product) : Nat := if p.tb.isCode then 2 else 1

/-- A tile of a slice. -/
def Slice.tile (s : Slice) (t : TileReg) : Tile := sget .reset s.tiles t.toNat
/-- A tile changed. -/
def Slice.modTile (s : Slice) (t : TileReg) (f : Tile → Tile) : Slice :=
  { s with tiles := sset .reset s.tiles t.toNat (f (s.tile t)) }

/-! ## The panel image (R125) -/

/-- Bytes of a panel image. -/
def imageBytes (ty : Ty) (k : Nat) : Nat :=
  if ty.isCode then 8 * k + k / 4 + 64 else 16 * k * (ty.width / 8)

/-- Offset and length of the panel bytes that column n gives rows koff to koff + K − 1. -/
def panelSpan (p : Product) (n : Nat) : Nat × Nat :=
  if p.tb.isCode then (n * p.kp / 2 + p.koff / 2, p.k / 2)
  else ((n * p.kp + p.koff) * (p.tb.width / 8), p.k * (p.tb.width / 8))

/-- Offsets of the scale code of column n for a block, and of its super-scale (R125). -/
def scaleAt (kp n block : Nat) : Nat := 8 * kp + n * (kp / 64) + block
/-- Offset of column n's super-scale (R125). -/
def superAt (kp n : Nat) : Nat := 8 * kp + kp / 4 + 4 * n

/-- The marked lines of the weight buffer that byte spans touch (R423). -/
def Slice.marked (s : Slice) (spans : List (Nat × Nat)) : Bool :=
  s.wpois.any (fun l => spans.any (fun r => decide (r.1 < 64 * l + 64 ∧ 64 * l < r.1 + r.2)))

/-! ## Values (R102 to R105) -/

/-- Exact value of an operand element: a float, or an integer. -/
def operandVal (ty : Ty) (x : Nat) : FVal :=
  match ty with
  | .i8 | .n8 =>
    let i := intOf (ty == .i8) 8 x
    .fin (decide (i < 0)) i.natAbs 1
  | _ => (fmtOf ty).decode x

/-- B(k, n) of the panel in the buffer (R122): a raw element, a level in units of one or of 1/128, or a code-table
entry. -/
def panelVal (s : Slice) (p : Product) (ctab : BitVec 128) (k n : Nat) : FVal :=
  if p.tb.isCode then
    let b := (sget 0 s.wbuf (n * p.kp / 2 + k / 2)).toNat
    let v := codeVal (p.tb == .ql4) ctab (if k % 2 = 0 then b % 16 else b / 16)
    .fin (decide (v < 0)) v.natAbs (if p.tb == .ql4 && modeOf p.ta == .fixed then 128 else 1)
  else
    operandVal p.tb (leNat (readBytes s.wbuf ((n * p.kp + k) * (p.tb.width / 8)) (p.tb.width / 8)))

/-- The value of a tile's element (R105, R128). -/
def Tile.val (t : Tile) (i : Nat) : FVal :=
  let e := sget 0 t.el i
  match t.mode with
  | .none => .fin false 0 1
  | .fixed => .fin (decide (e.toInt < 0)) e.toInt.natAbs (2 ^ 34)
  | .int => .fin (decide (e.toInt < 0)) e.toInt.natAbs 1
  | .wide => wide.decode e.toNat

/-! ## Accumulation (R102 to R104) -/

/-- An element under accumulation: its bits, the flags raised, and the step of its first residue mismatch (R136). -/
structure Acc where
  el    : BitVec 80
  flags : FlagSet
  slip  : Option Nat
deriving DecidableEq, Repr

/-- A number with some of its low 32 bits inverted, in two's complement. -/
def flipInt (bits : Nat) (x : Int) : Int :=
  let lo := (x % 2 ^ 32).toNat
  x - Int.ofNat lo + Int.ofNat (lo ^^^ bits)

/-- The bits that flip in an element's adder at a step (R136). -/
def slipBits (sl : List Slip) (step : Nat) : Nat :=
  (sl.filter (fun x => x.step == step)).foldl (fun b x => b ^^^ x.bits) 0

/-- An adder's output at a step, and the element with the step kept where the output's residue mod 255 is not that of its
contributions (R136). -/
def Acc.adder (a : Acc) (sl : List Slip) (step : Nat) (x : Int) : Int × Acc :=
  let y := flipInt (slipBits sl step) x
  (y, { a with slip := a.slip.or (if (y - x) % 255 = 0 then none else some step) })

/-- An element after a product in the fixed or integer mode: clamping sets AS, an infinite product goes to the end of the
range, a NaN or an invalid product adds nothing and sets NV (R102, R103). `sh` is the weight of one in units of the
element. -/
def accFixed (sh : Nat) (sl : List Slip) (a : Acc) (q : Nat × Option (FVal × FVal)) : Acc :=
  let hi : Int := 2 ^ 79 - 1
  let lo : Int := -2 ^ 79
  match q.2.map (fun v => mulExact v.1 v.2) with
  | none => a
  | some none => { a with flags := a.flags ||| fNV }
  | some (some (.nan _)) => { a with flags := a.flags ||| fNV }
  | some (some (.inf g)) => { a with el := BitVec.ofInt 80 (if g then lo else hi), flags := a.flags ||| fAS }
  | some (some (.fin g n d)) =>
    let p : Int := ((n * sh / d : Nat) : Int)
    let (x, a) := a.adder sl q.1 (a.el.toInt + (if g then -p else p))
    { a with el := BitVec.ofInt 80 (clampInt lo hi x), flags := a.flags ||| fIf (decide (x < lo ∨ hi < x)) fAS }

/-- The exact sum of a group's products with the flag it raises (R93, R104): a signalling NaN, 0 × ∞, and products of
both infinities each set NV, whichever else the group holds. -/
def groupSum (g : List (FVal × FVal)) : FVal × FlagSet :=
  let ps := g.map (fun q => mulExact q.1 q.2)
  let has (p : FVal) : Bool := ps.contains (some p)
  let both := has (.inf false) && has (.inf true)
  let nv := both || ps.any (fun p => match p with
    | none => true
    | some v => v.snan)
  let isNan := ps.any (fun p => match p with
    | some (.nan _) => true
    | _ => false)
  let v : FVal :=
    if nv || isNan then .nan false
    else if has (.inf false) then .inf false
    else if has (.inf true) then .inf true
    else match ps.filterMap id with
      | [] => .fin false 0 1
      | p :: r => r.foldl (fun x p => match x, p with
        | .fin u n d, .fin v m e =>
          let r := Ex.add .rne ⟨u, n, d⟩ ⟨v, m, e⟩
          .fin r.neg r.num r.den
        | x, _ => x) p
  (v, fIf nv fNV)

/-- A list cut into groups of four. -/
def groups4 {α : Type} : Nat → List α → List (List α)
  | 0, _ => []
  | n + 1, l => match l with
    | [] => []
    | _ => l.take 4 :: groups4 n (l.drop 4)

/-- The unit of a group sum: its least significant product bit (R136). -/
def groupUnit (g : List (FVal × FVal)) : Nat :=
  g.foldl (fun u q => match mulExact q.1 q.2 with
    | some (.fin _ _ d) => max u d
    | _ => u) 1

/-- A wide element after a group of products; a group that lost all of its products contributes nothing (R104, R133,
R136). -/
def accGroup (sl : List Slip) (a : Acc) (g : List (Nat × Option (FVal × FVal))) : Acc :=
  let ps := g.filterMap (fun q => q.2)
  if ps = [] then a
  else
    let s := groupSum ps
    let (v, a) := match s.1 with
      | .fin u n d =>
        let unit := groupUnit ps
        let x : Int := ((n * unit / d : Nat) : Int)
        let steps : List Nat := g.map Prod.fst
        let step := steps.headD 0
        let sl' := (sl.filter (fun (x : Slip) => steps.contains x.step)).map (fun (x : Slip) => { x with step := step })
        let (y, a) := a.adder sl' step (if u then -x else x)
        (if sl' = [] then s.1 else .fin (decide (y < 0)) y.natAbs unit, a)
      | v => (v, a)
    let r := addV wide .rne (wide.decode a.el.toNat) v
    { a with el := BitVec.ofNat 80 r.val, flags := a.flags ||| s.2 ||| r.flags }

/-- An element after the products of a row of A and a column of B, each with its step, in ascending k; a lost product
keeps its place (R102 to R104, R133). -/
def accElem (m : TileMode) (e : BitVec 80) (sl : List Slip) (ps : List (Nat × Option (FVal × FVal))) : Acc :=
  match m with
  | .wide => (groups4 ps.length ps).foldl (accGroup sl) ⟨e, 0, none⟩
  | .fixed => ps.foldl (accFixed (2 ^ 34) sl) ⟨e, 0, none⟩
  | _ => ps.foldl (accFixed 1 sl) ⟨e, 0, none⟩

/-- Every element of a tile after a product whose columns of A were read as given; a column that did not arrive
contributes nothing (R122, R133). -/
def productElems (s : Slice) (p : Product) (cols : List ACol) (sl : List Slip) : List (Nat × Acc) :=
  let old := s.tile p.t
  (List.range 512).map (fun i =>
    let m := i / 16
    let n := i % 16
    let e := if p.z ∨ old.mode = .none then 0 else sget 0 old.el i
    (i, accElem (modeOf p.ta) e (sl.filter (fun x => x.row == m && x.col == n))
      (((List.range cols.length).zip cols).map (fun c =>
        (c.1, if c.2.ok then some (operandVal p.ta (c.2.el.getD m 0), panelVal s p c.2.ctab (p.koff + c.1) n) else none)))))

/-- Row and column of the first residue mismatch: the earliest step, and of one step the first element (R135, R136). -/
def firstSlip (es : List (Nat × Acc)) : Option (Nat × Nat) :=
  (es.foldl (fun (b : Option (Nat × Nat)) e => match b, e.2.slip with
    | none, some t => some (t, e.1)
    | some x, some t => if t < x.1 then some (t, e.1) else some x
    | b, none => b) none).map (fun x => (x.2 / 16, x.2 % 16))

/-- The tile after a product, the flags raised, and the first residue mismatch (R122, R136). -/
def Slice.accumulate (s : Slice) (p : Product) (cols : List ACol) (sl : List Slip) : Slice × FlagSet × Option (Nat × Nat) :=
  let es := productElems s p cols sl
  let fl := es.foldl (fun f e => f ||| e.2.flags) 0
  (s.modTile p.t (fun t => { t with
      el := es.foldl (fun m e => sset 0 m e.1 e.2.el) t.el
      mode := modeOf p.ta
      pois := if p.z then false else t.pois
      poisKind := if p.z then 0 else t.poisKind
      sat := (if p.z then false else t.sat) || fl &&& fAS != 0
      block := BitVec.ofNat 13 (p.koff / 64)
      ver := p.ver }), fl, firstSlip es)

/-- A tile poisoned by a record of a kind (R74, R133, R136, R423). -/
def Slice.poison (s : Slice) (t : TileReg) (kind : BitVec 8) : Slice :=
  s.modTile t (fun x => { x with pois := true, poisKind := kind })

/-! ## The view at issue (R127, R360) -/

/-- Mode, version and poison of a tile as every operation already in the queue will leave it, in program order. -/
def Slice.view (s : Slice) (t : TileReg) : TileMode × BitVec 16 × Bool :=
  s.queue.foldl (fun v o => match o.what with
    | .mma p _ _ | .mmas p _ _ _ _ => if p.t = t then (modeOf p.ta, p.ver, !p.z && v.2.2) else v
    | .mzero t' => if t' = t then (.none, v.2.1, false) else v
    | _ => v) ((s.tile t).mode, (s.tile t).ver, (s.tile t).pois)

/-! ## Reading a tile (R129, R130) -/

/-- MRD's lanes (R129). -/
def mrdLanes (t : Tile) (ty : Ty) (sat : Bool) (row : Nat) : List (Res Nat) :=
  (List.range (512 / ty.width)).map (fun l =>
    roundV (fmtOf ty) .rne sat (t.val (16 * (row + l / 16) + l % 16)))

/-- One row of MSCAC (R130): the FP32 words of the row in local store, scaled sums added. -/
def mscacRow (s : Slice) (t : TileReg) (m act : Nat) (r : List Byte) : List (Res Nat) :=
  let tl := s.tile t
  let code := s.wtag.fmt.isCode
  let kp := s.wtag.k.toNat
  (List.range 16).map (fun n =>
    let sc := if code then (sget 0 s.wbuf (scaleAt kp n tl.block.toNat)).toNat else 255
    let sp := if code then leNat (readBytes s.wbuf (superAt kp n) 4) else 0x3F800000
    scaleAcc (tl.val (16 * m + n)) (tl.mode == .int && s.wtag.fmt == .ql4) sc (f32.decode sp) (f32.decode act)
      (f32.decode (leNat ((r.drop (4 * n)).take 4))))

/-- The buffer bytes that an MSCAC of a tile reads (R423). -/
def mscacSpans (s : Slice) (t : TileReg) : List (Nat × Nat) :=
  if s.wtag.fmt.isCode then
    (superAt s.wtag.k.toNat 0, 64)
      :: (List.range 16).map (fun n => (scaleAt s.wtag.k.toNat n (s.tile t).block.toNat, 1))
  else []

/-! ## The running operation, cycle by cycle -/

/-- The operation at the head of the queue changed. -/
def Slice.modHead (s : Slice) (f : SliceOp → SliceOp) : Slice :=
  match s.queue with
  | [] => s
  | o :: r => { s with queue := f o :: r }

/-- A core's own act put under way, in the order of pending results. -/
def Core.pendAt (c : Core) (t i : Nat) (a : Act) : Core := { c with pend := pendInsert ⟨t, i, a⟩ c.pend }

/-- Column j of A in local store: element (m, j) at addr + (m·K + j)·w/8 (R122). -/
def readColumn (c : Core) (p : Product) (addr j : Nat) : List Nat :=
  let w := p.ta.width / 8
  (List.range 32).map (fun m => c.readNat (addr + (m * p.k + j) * w) w)

/-- Columns read at one cycle by the leader or a solo core. -/
def columnsAt (c : Core) (p : Product) (addr j : Nat) : List (List Nat) :=
  (List.range (min (colsAtOnce p) (p.k - j))).map (fun i => readColumn c p addr (j + i))

/-- A stream's columns extended at a follower. -/
def Slice.extendStream (s : Slice) (issued : Nat) (cs : List (List Nat)) : Slice :=
  { s with streams := s.streams.map (fun a => if a.issued = issued then { a with cols := a.cols ++ cs } else a) }

/-- The near bytes that an act of the running slice operation reads (R123, R126, R130). -/
def Core.sliceReads (c : Core) (p : Pend) : List (Nat × Nat) :=
  match c.slice.queue.head?.map SliceOp.what, p.act with
  | some (.mma pr addr none), .aCol j =>
    (List.range 32).map (fun m => (addr + (m * pr.k + j) * (pr.ta.width / 8), min (colsAtOnce pr) (pr.k - j) * (pr.ta.width / 8)))
  | some (.mwld tag addr), .wLine i => [(addr + 64 * i, min 64 (imageBytes tag.fmt tag.k.toNat - 64 * i))]
  | some (.mscac _ dst act), .scRead m => [(act + 4 * m, 8), (dst + 64 * m, 128)]
  | _, _ => []

/-- A read or write of the running slice operation takes place (R123, R126, R130); the next of its kind is put under
way. `t` is its tick. -/
def Core.sliceAct (c : Core) (tier t : Nat) (p : Pend) : Core :=
  let cy := Config.cycleTicks tier
  match c.slice.queue.head?, p.act with
  | some o, .aCol j =>
    (match o.what with
    | .mma pr addr stream =>
      let cs := match stream with
        | none => columnsAt c pr addr j
        | some i => match c.slice.streams.find? (fun a => a.issued == i) with
          | some a => ((a.cols.drop j).take (min (colsAtOnce pr) (pr.k - j)))
          | none => []
      let c := { c with slice := c.slice.modHead (fun o => { o with cols := o.cols ++ cs.map (fun e => ⟨e, true, c.ctab⟩) }) }
      let j' := j + colsAtOnce pr
      if pr.k ≤ j' ∨ cs = [] then c else c.pendAt (t + (colCycle pr j' - colCycle pr j) * cy) p.ctx (.aCol j')
    | _ => c)
  | some o, .wLine i =>
    (match o.what with
    | .mwld tag addr =>
      let size := imageBytes tag.fmt tag.k.toNat
      let n := min 64 (size - 64 * i)
      let bs := c.readN (addr + 64 * i) n
      let bad := (c.badIn (addr + 64 * i) n).isSome
      let sl := { c.slice with wbuf := writeBytes c.slice.wbuf (64 * i) bs
                               wpois := if bad ∧ !c.slice.wpois.contains i then c.slice.wpois ++ [i] else c.slice.wpois }
      let sl := sl.modHead (fun o => { o with marks := if bad then o.marks ++ [i] else o.marks })
      let c := { c with slice := sl }
      if 64 * (i + 1) < size then c.pendAt (t + cy) p.ctx (.wLine (i + 1)) else c
    | _ => c)
  | some o, .scRead m =>
    (match o.what with
    | .mscac tl dst act =>
      let row (m : Nat) : Nat × List (Res Nat) :=
        (m, mscacRow c.slice tl m (c.readNat (act + 4 * m) 4) (c.readN (dst + 64 * m) 64))
      let rs := [row m, row (m + 1)]
      let fl := rs.foldl (fun f r => r.2.foldl (fun f x => f ||| x.flags) f) 0
      let out := rs.map (fun r => (r.1, r.2.flatMap (fun x => leBytes 4 x.val)))
      let c := { c with slice := c.slice.modHead (fun o => { o with rows := out, flags := o.flags ||| fl }) }
      let c := c.pendAt (t + cy) p.ctx (.scWrite m)
      if m + 2 < 32 then c.pendAt (t + cy) p.ctx (.scRead (m + 2)) else c
    | _ => c)
  | some o, .scWrite _ =>
    (match o.what with
    | .mscac _ dst _ => o.rows.foldl (fun c r => c.writeBy tier t none ⟨3, dst + 64 * r.1, r.2, [], false, .other⟩) c
    | _ => c)
  | _, _ => c

/-- A core that streams A to its followers passes on the columns it reads at a tick (R117, R123). -/
def State.passColumns (s : State) (k : Nat) (p : Pend) : State :=
  match p.act, (s.core k).slice.queue.head? with
  | .aCol j, some o =>
    (match o.what, (s.core k).slice.streams.find? (fun a => a.started == o.started) with
    | .mma pr addr none, some a =>
      let cs := columnsAt (s.core k) pr addr j
      (List.range (Config.clusterSide (tierOf k))).foldl (fun s i =>
        s.modSlice (leaderOf k + i) (fun l => l.extendStream a.issued cs)) s
    | _, _ => s)
  | _, _ => s

end Sys2Proof.Machine
end

