-- ==== Sys2Proof/Machine/Rmw.lean ====
section
/-! DEFINITION. The read-modify-write of a bank atomic and of a memory-backed point, and its performance at a bank (R234,
R236, R237, R313). -/

namespace Sys2Proof.Machine

/-- Types whose old value is sign-extended (R236). -/
def signedTy (ty : Ty) : Bool := ty == .i8 || ty == .i16 || ty == .i32 || ty == .i64

/-- Numbers of the operations: the seven atomics by SUB − 1, then a point's arrival, RVINIT and a look at its phase
(R234). -/
def opArrive : Nat := 7
/-- RVINIT on a memory-backed point. -/
def opInit : Nat := 8
/-- A look at a memory-backed point's phase. -/
def opPhase : Nat := 9
/-- The token of a memory-backed point, for RVARR.eng. -/
def opToken : Nat := 10

/-- A value of a type as an integer, for AMIN and AMAX (R236). -/
def atomInt (ty : Ty) (x : Nat) : Int :=
  if signedTy ty ∧ 2 ^ (ty.width - 1) ≤ x then (x : Int) - 2 ^ ty.width else x

/-- A synchronisation result (R226). -/
def syncWord (status : Nat) (value : BitVec 32) : DWord := BitVec.ofNat 64 (value.toNat + status * 2 ^ 32)

/-- A point's word with its fields; its reserved bits stay as they are (R234). -/
def pointWord (old c pend count : Nat) : Nat :=
  c % 65536 + nbits old 31 16 * 2 ^ 16 + pend * 2 ^ 32 + count * 2 ^ 48

/-- The word that an operation leaves, and its result as wD takes it; `free` stands for a VALUE that no rule gives
(R234, R236). -/
def rmwOp (op : Nat) (ty : Ty) (old : Nat) (opnd cmp : DWord) (free : BitVec 32) : Nat × DWord :=
  let w := ty.width
  let o := old % 2 ^ w
  let b := opnd.toNat % 2 ^ w
  let res : DWord := BitVec.ofInt 64 (atomInt ty o)
  let less := decide (atomInt ty b < atomInt ty o)
  let c := nbits old 15 0
  let pend := nbits old 47 32
  let count := nbits old 63 48
  match op with
  | 0 => ((o + b) % 2 ^ w, res)
  | 1 => (if less then b else o, res)
  | 2 => (if less then o else b, res)
  | 3 => (b, res)
  | 4 => (if o = cmp.toNat % 2 ^ w then b else o, res)
  | 5 => (o &&& b, res)
  | 6 => (o ||| b, res)
  | 7 =>
    if count = 0 then (old, syncWord 5 free)
    else (if pend = 1 then pointWord old (c + 1) count count else pointWord old c ((pend + 65535) % 65536) count,
      syncWord 0 (BitVec.ofNat 32 c))
  | 8 =>
    if opnd = 0 ∨ 65535 < opnd.toNat then (old, syncWord 5 free)
    else if count ≠ 0 then (old, syncWord 4 free)
    else (pointWord old c opnd.toNat opnd.toNat, syncWord 0 free)
  | 9 => (old, BitVec.ofNat 64 c)
  | _ => (old, if count = 0 then syncWord 5 free else syncWord 0 (BitVec.ofNat 32 c))

/-- A write of a slot's result: only the word's own bytes change, and a sub-word form keeps poison (R178, R237). -/
def Core.rmwWrite (c : Core) (tier addr : Nat) (ty : Ty) (v : Nat) : Core :=
  c.storeN tier addr (leBytes (ty.width / 8) v) (decide (ty.width < 32))

/-- The read-modify-write at a bank: an uncorrectable word ends it with nothing written; the trap is imprecise where the word
carries the poison pattern (R178, R236, R252). -/
def Core.rmw (c : Core) (tier op : Nat) (ty : Ty) (addr : Nat) (opnd cmp : DWord) (free : BitVec 32) :
    Except Trap DWord × Core :=
  match c.badIn addr (ty.width / 8) with
  | some w => (.error (c.eccu w), c)
  | none =>
    let (v, res) := rmwOp op ty (c.readNat addr (ty.width / 8)) opnd cmp free
    (.ok res, c.rmwWrite tier addr ty v)

/-- A timed bank atomic in its slot (R236, R237): the result is put under way to wD; an uncorrectable word raises ECCU
imprecisely. -/
def State.timedAtomic (s : State) (k : Nat) (p : Pend) : State :=
  match p.act with
  | .atomic op ty addr opnd cmp d wdue pc word =>
    let t := tierOf k
    let s := s.correct k addr (ty.width / 8)
    let (r, c) := (s.core k).rmw t op ty addr opnd cmp 0
    let s := s.setCore k (c.endSlot t p.due)
    (match r with
    | .error tr =>
      s.trapLate (k, p.ctx) pc word { tr with imprec := true }
    | .ok v =>
      (scalarAct t (s.ctx (k, p.ctx)) d v).foldl (fun s a =>
        s.modCore k (fun c => c.pendAt wdue p.ctx a)) s)
  | _ => s

end Sys2Proof.Machine
end

