-- ==== Sys2Proof/Machine/Micro.lean ====
section
/-! DEFINITION. Results taking effect as time passes, the writes of the ports, and the monitors that watch a bank's
words. -/

namespace Sys2Proof.Machine

/-! ## Monitors (R202, R203, R353) -/

/-- MWAIT's condition (R203). -/
def mwaitHolds (ne : Bool) (m cmp : DWord) : Bool :=
  if ne then m != cmp else decide (cmp.extractLsb' 0 48 ≤ m.extractLsb' 0 48)

/-- A Gated MWAIT after a write to its word took effect: the word as it stands is compared (R353); an uncorrectable one raises
ECCU (R178). A Frozen context keeps its result
and goes on after the superstep, since nothing of c1–c3 issues before. -/
def State.checkMonitor (s : State) (q : Nat × Nat) : State :=
  let c := s.core q.1
  let x := c.ctx q.2
  match x.run, x.monitor with
  | .gated (.mwait d cmp ne), some a =>
    let s := s.correct q.1 a 8
    match c.badIn a 8 with
    | some w => s.takeTrap q (s.issuedWord q) (c.eccu w)
    | none =>
      let m := BitVec.ofNat 64 (c.readNat a 8)
      if mwaitHolds ne m cmp then s.finish q (scalarAct (tierOf q.1) x d m) else s
  | _, _ => s

/-- An act writes into an 8-byte unit, or has the monitors look at it. -/
def Act.writes (unit : Nat) : Act → Bool
  | .store a bs _ => decide (a / 8 ≤ unit ∧ 8 * unit < a + bs.length)
  | .lanes st _ => st.any (fun e => decide (e.1 / 8 ≤ unit ∧ 8 * unit < e.1 + e.2.length))
  | .port h => decide (h.addr / 8 ≤ unit ∧ 8 * unit < h.addr + h.bytes.length)
  | .atomic _ _ a _ _ _ _ _ _ => a / 8 == unit
  | .look u => u == unit
  | _ => false

/-- The monitors of a core whose word some of these acts wrote are checked (R353). -/
def State.checkMonitors (s : State) (k : Nat) (acts : List Act) : State :=
  [0, 1, 2, 3].foldl (fun s i => match (s.ctx (k, i)).monitor with
    | some a => if acts.any (Act.writes (a / 8)) then s.checkMonitor (k, i) else s
    | none => s) s

/-! ## Ports of a bank (R178, R179) -/

/-- A write by a port other than the core's own: engine 0, message 1, vertical 2; `bad` are the words it delivers
poisoned. The message and vertical ports write in the cycle that begins now; the engine channel, whose cycles no rule fixes,
in the next cycle of the bank's tier. It takes its place among the writes of that cycle (R179). -/
def State.portStore (s : State) (w : Writer) (k port a : Nat) (bs : List Byte) (bad : List Nat) : State :=
  s.modCore k (fun c => c.pendAt (if port = 0 then ceilTo (cyc k) (s.now + 1) else s.now) 4 (.port ⟨port, a, bs, bad, false, w⟩))

/-- A unit of a bank was written at once, by an atomic: its monitors look at it after the writes of the cycle (R353). -/
def State.watch (s : State) (k unit : Nat) : State := s.modCore k (fun c => c.pendAt s.now 4 (.look unit))

/-- A read-modify-write of an 8-byte unit by the engine channel: one act, ahead of the other writes of its cycle; none while an
atomic's slot has the unit, unless it is one of an SC run (R179, R237, R313). The result is the word it leaves. -/
def State.portSet (s : State) (run : Bool) (k a : Nat) (f : Nat → Nat) : Option (Nat × State) :=
  let c := s.core k
  if !run ∧ c.held s.now a none then none
  else
    let w := f (c.readNat a 8) % 2 ^ 64
    some (w, ((s.correct k a 8).setCore k (c.portWrite a (leBytes 8 w))).watch k (a / 8))

/-- An addition by the engine channel (R219, R244). -/
def State.portAdd (s : State) (run : Bool) (k a v : Nat) : Option (Nat × State) := s.portSet run k a (fun w => w + v)

/-- The first uncorrectable word of a long region. -/
def Core.badRange (c : Core) (a n : Nat) : Option Nat :=
  (c.poison.find? (fun e => e.2.getLsbD 0 && decide (a < 4 * e.1 + 4 ∧ 4 * e.1 < a + n))).map (fun e => 4 * e.1)

/-- The words of a box that are uncorrectable. -/
def Core.badWords (c : Core) (a n : Nat) : List Nat :=
  ((List.range ((a + n + 3) / 4 - a / 4)).map (fun i => 4 * (a / 4 + i))).filter (fun w => c.bad w)

/-! ## The image of a message register (R262, R264, R332) -/

/-- CISZ. -/
def ctxImageSize (tier : Nat) : Nat := 4096 + 8 * Config.stackSize tier
/-- Near address of the image of a context. -/
def ctxImageAddr (tier c : Nat) : Nat := Config.saveBase tier + 0x400 + c * ctxImageSize tier
/-- The number of the low bytes given, each of one field: little-endian fields of a number of bytes side by side. -/
def fields : List (Nat × Nat) → List Byte
  | [] => []
  | (n, v) :: r => leBytes n v ++ fields r

/-- The status of a message register: a pending one is saved with the tag advanced (R264). -/
def msgStatus (m : Msg) : List Byte :=
  fields [(1, (if m.full then 1 else 0) + (if m.ffull then 2 else 0) + (if m.pend then 4 else 0)), (1, m.tstat.toNat),
    (2, (if m.pend then m.tag + 1 else m.tag).toNat), (4, 0), (8, m.va.toNat)]

/-- A message register saved in the cycle in which its line is written: a pending load's reply is discarded from then on, and
what arrives later is kept (R264, R332). -/
def Core.saveMsg (c : Core) (tier i j : Nat) : Core :=
  let m := sget .reset (c.ctx i).m j
  let a := ctxImageAddr tier i
  let c := (c.portWrite (a + 0x1C0 + 16 * j) (msgStatus m)).portWrite (a + 0x2C0 + 64 * j) (leBytes 64 m.data.toNat)
  c.modCtx i (fun x => { x with
    m := sset .reset x.m j { m with pend := false, tag := if m.pend then m.tag + 1 else m.tag, arr := false } })

/-! ## Settling -/

/-- One result takes effect. The word of a store narrower than a word is read, and a single-bit error in it counted (R178). -/
def State.applyPend (s : State) (k : Nat) (p : Pend) : State :=
  let t := tierOf k
  match p.act with
  | .store a bs sub =>
    (if sub then s.correct k a bs.length else s).modCore k (fun c =>
      c.writeBy t p.due (some k) ⟨3, a, bs, [], sub, .ctx k p.ctx p.due⟩)
  | .lanes st sub =>
    (if sub then st.foldl (fun s e => s.correct k e.1 e.2.length) s else s).modCore k (fun c =>
      st.foldl (fun c e => c.writeBy t p.due (some k) ⟨3, e.1, e.2, [], sub, .ctx k p.ctx p.due⟩) c)
  | .aCol _ | .wLine _ | .scRead _ | .scWrite _ =>
    (((s.core k).sliceReads p).foldl (fun s b => s.correct k b.1 b.2) (s.passColumns k p)).modCore k (fun c => c.sliceAct t p.due p)
  | .atomic _ _ _ _ _ _ _ _ _ => s.timedAtomic k p
  | .port h => s.modCore k (fun c => c.writeBy t p.due (if h.port = 3 then some k else none) h)
  | .msgLine i j => s.modCore k (fun c => c.saveMsg t i j)
  | a => s.modCore k (fun c => applyAct t c p.ctx a)

/-- The results of a core due by a tick take effect, in the order of their ticks and ranks, up to the first that a test
does not take; `fuel` bounds their number. -/
def State.settleN (s : State) (k t : Nat) (ok : Act → Bool) : Nat → State
  | 0 => s
  | n + 1 =>
    match (s.core k).pend with
    | [] => s
    | p :: r =>
      if p.due ≤ t ∧ ok p.act then
        (State.applyPend (s.modCore k (fun c => { c with pend := r })) k p).settleN k t ok n
      else s

/-- A core settled to a tick. -/
def State.settle (s : State) (k t : Nat) : State :=
  match (s.core k).pend with
  | [] => s
  | p :: _ =>
    if p.due ≤ t then
      (s.settleN k t (fun _ => true) (2 * (s.core k).pend.length + 64)).checkMonitors k
        (((s.core k).pend.filter (fun p => decide (p.due ≤ t))).map (·.act))
    else s

/-- The results of a core below a rank that are due by a tick take effect; monitors of what they wrote look when the rest of the
cycle has (R353). -/
def State.settleBelow (s : State) (k t rank : Nat) : State :=
  let acts := ((s.core k).pend.filter (fun p => decide (p.due ≤ t ∧ p.act.rank < rank))).map (·.act)
  [0, 1, 2, 3].foldl (fun s i => match (s.ctx (k, i)).monitor with
    | some a => if acts.any (Act.writes (a / 8)) then s.watch k (a / 8) else s
    | none => s) (s.settleN k t (fun a => decide (a.rank < rank)) (s.core k).pend.length)

/-- What the ports write in a core's cycle has taken effect, the core's own stores of that cycle have not (R145). -/
def State.settlePorts (s : State) (k t : Nat) : State := s.settleBelow k t 3

/-- What the ports and the expansion unit write in a core's cycle has taken effect (R174). -/
def State.settleUnit (s : State) (k t : Nat) : State := s.settleBelow k t 4

end Sys2Proof.Machine
end

