-- ==== Sys2Proof/Machine/Messages.lean ====
section
/-! DEFINITION. Messages between cores: routes and channels, the bank message port, SEND, MGET, MSGB, MCLR and their
arrivals (R16 to R18, R211, R355 to R358, R378 to R380). -/

namespace Sys2Proof.Machine

/-! ## Routes and channels (R16, R17) -/

/-- Coordinates passed on the way from one to another, the first included, the last not. -/
def legs (a b : Nat) : List Nat :=
  if a ≤ b then (List.range (b - a)).map (fun i => a + i) else (List.range (a - b)).map (fun i => a - i)

/-- Keys of the links from a core to another in route order, x first, on the sender's mesh: core left, direction. -/
def routeLinks (src dst : Nat) : List Nat :=
  let t := tierOf src
  let q := quadOf src
  (legs (xOf src) (xOf dst)).map (fun x => 4 * coreAt t q x (yOf src) + (if xOf src ≤ xOf dst then 0 else 1))
    ++ (legs (yOf src) (yOf dst)).map (fun y => 4 * coreAt t q (xOf dst) y + (if yOf src ≤ yOf dst then 2 else 3))

/-- Key of the bridge slot between two quads of a tier. The spec does not say which messages share a slot: the model gives one
slot to each tier and ordered pair of quads (DESIGN CHOICE, log 45). -/
def bridgeKey (src dst : Nat) : Nat := 1048576 + (tierOf src * 4 + quadOf src) * 4 + quadOf dst

/-- The first cycle from one on in which a link is free for `span` cycles; `fuel` bounds the search by the number of
claims. -/
def freeCycle (mesh : List (Nat × Nat)) (key span cy : Nat) : Nat → Nat
  | 0 => cy
  | n + 1 => if mesh.any (fun c => c.1 == key && decide (cy ≤ c.2) && decide (c.2 < cy + span)) then
      freeCycle mesh key span (cy + 1) n else cy

/-- A route walked from a cycle: links one cycle each, then the bridge; a timed message claims what it takes. The result
is the cycle after the last and the claims. -/
def walk (mesh : List (Nat × Nat)) (claim : Bool) : List (Nat × Nat) → Nat → Nat × List (Nat × Nat)
  | [], cy => (cy, mesh)
  | (key, span) :: r, cy =>
    let t := freeCycle mesh key span cy (mesh.length * span + span)
    let mesh' := if claim then (List.range span).foldl (fun m i => (key, t + i) :: m) mesh else mesh
    walk mesh' claim r (t + span)

/-- Links and bridge of a route with the cycles each takes. -/
def routeSpans (src dst : Nat) : List (Nat × Nat) :=
  (routeLinks src dst).map (fun l => (l, 1))
    ++ (if quadOf src = quadOf dst then [] else [(bridgeKey src dst, 4 * Config.beatMultiple (tierOf src))])

/-- Key of the untimed channel from a sender to a destination. -/
def channelKey (src dst : Nat) : Nat := src * 32768 + dst

/-- Tier of a claim's key: links and bridge slots are claimed in cycles of their tier. -/
def claimTier (key : Nat) : Nat := if key < 1048576 then tierOf (key / 4) else (key - 1048576) / 16

/-- The tick at which a message that leaves at a tick is full at its destination (R16, R17): later than R16's latency
by what it waits for timed claims, and on the untimed channel by a free number of cycles. -/
def State.travel (s : State) (src dst t : Nat) (timed : Bool) : Nat × State :=
  let tk := cyc src
  let (cy, mesh) := walk s.mesh timed (routeSpans src dst) (t / tk + 2)
  let mesh := mesh.filter (fun c => decide (s.now / Config.cycleTicks (claimTier c.1) ≤ c.2))
  let (extra, s) := if timed then (0, s) else s.draw 0
  ((cy + 2 + extra) * tk, { s with mesh := mesh })

/-- The arrival of a core's message: on the untimed channel it follows every earlier message of its sender to its destination
(R211); timed messages keep their order on the links that they claim. -/
def State.sendOff (s : State) (src dst : Nat) (timed : Bool) : Nat × State :=
  let (arr, s) := s.travel src dst s.now timed
  if timed then (arr, s)
  else
    let last := sget 0 s.lastMsg (channelKey src dst)
    let arr := if last = 0 then arr else max arr (last + cyc src)
    (arr, { s with lastMsg := sset 0 s.lastMsg (channelKey src dst) arr })

/-! ## Arrivals (R187, R379) -/

/-- A message register filled: data whole, full set, fault-full cleared, whatever its tag and its context's state; a
context that waits for it is woken (R24, R280). -/
def State.fillMsg (s : State) (q : Nat × Nat) (m : MsgReg) (data : Line) (reply : Bool) : State :=
  let s := s.modCtx q (fun x => x.modMsg m (fun r =>
    { r with data := data, full := true, ffull := false, pend := false, arr := r.arr || !reply
             last := if reply then r.last else s.now + 1 }))
  let x := s.ctx q
  match x.run with
  | .gated (.msg m') =>
    if m' = m then s.modCtx q (fun x => { x with run := .ready, readyAt := s.now + cyc q.1 }) else s
  | .gated (.twait d m' _ _) =>
    if m' = m then (s.cancel (.twaitExpiry q.1 q.2)).finish q (scalarAct (tierOf q.1) x d 0) else s
  | _ => s

/-- A message register made fault-full: the far address and the status are kept (R178, R187). -/
def State.faultMsg (s : State) (q : Nat × Nat) (m : MsgReg) (va : BitVec 57) (tstat : BitVec 8) (reply : Bool) : State :=
  let s := s.modCtx q (fun x => x.modMsg m (fun r =>
    { r with full := false, ffull := true, pend := false, va := va, tstat := tstat, arr := r.arr || !reply
             last := if reply then r.last else s.now + 1 }))
  let x := s.ctx q
  match x.run with
  | .gated (.msg m') =>
    if m' = m then s.modCtx q (fun x => { x with run := .ready, readyAt := s.now + cyc q.1 }) else s
  | .gated (.twait d m' _ _) =>
    if m' = m then (s.cancel (.twaitExpiry q.1 q.2)).finish q (scalarAct (tierOf q.1) x d 2) else s
  | _ => s

/-- LDX and MGET at issue: both bits of mD cleared and its tag advanced; an arrival of the same cycle takes effect after
it (R187, R357, R421). -/
def Msg.request (r : Msg) (now : Nat) : Msg :=
  let hit := r.last == now + 1
  { r with full := r.full && hit, ffull := r.ffull && hit, tag := r.tag + 1 }

/-! ## The instructions -/

/-- The destination core named by bits [14:0], in the sender's tier and partition (R18). -/
def checkDest (s : State) (wa : DWord) : Except Trap Nat :=
  let d := nbits wa.toNat 14 0
  if Config.coreCount ≤ d ∨ tierOf d ≠ s.tier ∨ s.partOf d ≠ s.partOf s.cur.1 then
    .error ⟨.bankrange, 0, wa, false⟩
  else .ok d

/-- A box inside the program region of the tier's own bank (R176, R356). -/
def checkBox (s : State) (a n : Nat) : Except Trap Unit :=
  let hi := Config.statusBase s.tier
  if a < Config.bankBase ∨ hi ≤ a then .error (.at_ .bankrange a)
  else if hi < a + n then .error (.at_ .bankrange hi)
  else .ok ()

/-- SEND (R378, R379). -/
def execSend (h : Hdr) (d : MsgReg) (a : Reg) (b : VecReg) (s : State) : Host.Outcome State Fault Refusal :=
  issue { len := 1, hdr := h, rs := [a], vs := [b], ill := inCompute s, path := some .ms }
    (fun s => do
      let wa := rv s a
      let dctx := nbits wa.toNat 16 15
      if (inStep s ∧ dctx ≠ 0) ∨ (s.cur.2 ≠ 0 ∧ dctx = 0) then throw (.of .illop)
      let dst ← checkDest s wa
      let (arr, s') := s.sendOff s.cur.1 dst (inStep s)
      .ok ⟨s'.post arr (.messageArrival dst dctx d (vv s b) s.cur.1 s.cur.2 (inStep s)), .next⟩) s

/-- MGET (R356, R357). -/
def execMget (h : Hdr) (d : MsgReg) (a b : Reg) (s : State) : Host.Outcome State Fault Refusal :=
  issue { len := 1, hdr := h, rs := [a, b], ill := inCompute s, path := some .ms }
    (fun s => do
      let addr := (rv s b).toNat
      if addr % 64 ≠ 0 then throw (.at_ .align addr)
      let dst ← checkDest s (rv s a)
      checkBox s addr 64
      let s' := s.modCtx s.cur (fun x => x.modMsg d (fun r => r.request s.now))
      let (arr, s') := s'.sendOff s.cur.1 dst (inStep s)
      .ok ⟨s'.post arr (.mgetPortRead dst addr s.cur.1 s.cur.2 d (inStep s) arr ((s.ctx s.cur).msg d).cleared), .next⟩) s

/-- MSGB (R356, R357). -/
def execMsgb (h : Hdr) (d : VecReg) (a b : Reg) (s8 : Bool) (s : State) : Host.Outcome State Fault Refusal :=
  let n := if s8 then 8 else 64
  issue { len := 1, hdr := h, rs := [a, b], vs := [d], ill := inCompute s, path := some .ms }
    (fun s => do
      let addr := (rv s b).toNat
      if addr % n ≠ 0 then throw (.at_ .align addr)
      let dst ← checkDest s (rv s a)
      checkBox s addr n
      let (arr, s') := s.sendOff s.cur.1 dst (inStep s)
      .ok ⟨s'.post arr (.msgbPortWrite dst addr (vv s d) s8 s.cur.1 s.cur.2 (inStep s) arr), .next⟩) s

/-- MCLR of a register (R355): an arrival of the same cycle takes effect after it, so what it wrote remains, and a fill leaves
the kept va and TSTAT cleared. -/
def Msg.clear (r : Msg) (now : Nat) : Msg :=
  let zero : Msg := { Msg.reset with tag := r.tag + 1, arr := r.arr, last := r.last, cleared := r.cleared + 1 }
  if r.last ≠ now + 1 then zero
  else if r.ffull then { zero with data := 0, ffull := true, va := r.va, tstat := r.tstat }
  else { zero with data := r.data, full := r.full }

/-- MCLR (R355). -/
def execMclr (h : Hdr) (d : MsgReg) (s : State) : Host.Outcome State Fault Refusal :=
  issue { len := 1, hdr := h }
    (fun s => .ok ⟨s.modCtx s.cur (fun x => x.modMsg d (fun r => r.clear s.now)), .next⟩) s

/-! ## The bank message port (R358) -/

/-- The place of a request among those of one cycle: timed ones first, then ascending sender (R358). -/
def portKey (core : Nat) (timed : Bool) : Nat := core + (if timed then 0 else 32768)

/-- Whether a request at a bank's port, which it reached at tick `first`, must wait a cycle: the port has served in this
cycle, or another request of the cycle goes first; of one sender's, the earlier one (R211). -/
def State.portBusy (s : State) (home key first : Nat) : Bool :=
  let before (k f : Nat) : Bool := decide (k < key) || (k == key && decide (f < first))
  (s.core home).ctl.msgPort == s.now + 1
    || s.agenda.any (fun e => e.at_ == s.now && (match e.ev with
      | .mgetPortRead h' _ core _ _ timed f _ => h' == home && before (portKey core timed) f
      | .msgbPortWrite h' _ _ _ src _ timed f => h' == home && before (portKey src timed) f
      | _ => false))

/-- The port has served in this cycle. -/
def State.portServed (s : State) (home : Nat) : State := s.modCtl home (fun c => { c with msgPort := s.now + 1 })

/-- An MSGB of the same sender that is not performed: on the same channel, it reached the port before now and still waits there,
or it stands behind an atomic's slot at the bank (R211, R237). The tick at which it is looked for again. -/
def State.earlierMsgb (s : State) (src dst : Nat) (timed : Bool) : Option Nat :=
  match (s.agenda.find? (fun e => match e.ev with
    | .msgbPortWrite h' _ _ _ src' _ timed' first => h' == dst && src' == src && timed' == timed && decide (first < s.now)
    | _ => false)).map (·.at_) with
  | some t => some t
  | none =>
    if (s.core dst).ctl.behind.any (fun h => h.port == 1 && (match h.by_ with
        | .ctx k _ _ => k == src
        | _ => false)) then some s.now else none

/-- A message from one core to another on a channel that has not reached its destination at a tick. -/
def Event.isLater (src dst : Nat) (timed : Bool) (now : Nat) : Event → Bool
  | .messageArrival k _ _ _ src' _ timed' => k == dst && src' == src && timed' == timed
  | .msgbPortWrite h _ _ _ src' _ timed' first => h == dst && src' == src && timed' == timed && decide (now < first)
  | .mgetPortRead h _ src' _ _ timed' first _ => h == dst && src' == src && timed' == timed && decide (now < first)
  | _ => false

/-- A message that an MSGB before it holds back arrives later, and the sender's later messages to the same core keep their order
behind it, those still to be sent too (R211). -/
def State.holdMessage (s : State) (src dst : Nat) (timed : Bool) (t : Nat) (ev : Event) : State :=
  let later := Event.isLater src dst timed s.now
  let s := s.defer later (cyc dst) t ev
  if timed then s
  else
    let top := s.agenda.foldl (fun m e => if later e.ev then max m e.at_ else m) (sget 0 s.lastMsg (channelKey src dst))
    { s with lastMsg := sset 0 s.lastMsg (channelKey src dst) top }

/-- MESSAGE_ARRIVAL (R379); an MSGB that the sending core issued before is performed first, and later messages of the sender
stay behind (R211). -/
def execMessageArrival (s : State) : Host.Outcome State Fault Refusal :=
  match s.event with
  | some (.messageArrival k c m data src sctx timed) =>
    .next (match s.earlierMsgb src k timed with
      | some t => s.holdMessage src k timed (t + cyc k) (.messageArrival k c m data src sctx timed)
      | none => s.fillMsg (k, c) m data false)
  | _ => .fault .notDue

/-- MGET_PORT_READ (R357): the 64 bytes after every write of the cycle; the reply leaves after the bank's latency. R17 does not
place a reply among the messages issued: the model lets it claim its links when the port serves the request, ahead of messages
that are issued until it leaves (DESIGN CHOICE, log 45). -/
def execMgetPortRead (s : State) : Host.Outcome State Fault Refusal :=
  match s.event with
  | some (.mgetPortRead home addr k c m timed first cleared) =>
    .next (
      if s.portBusy home (portKey k timed) first then
        s.post (s.now + cyc home) (.mgetPortRead home addr k c m timed first cleared)
      else
        let s := ((s.settle home s.now).portServed home).correct home addr 64
        let co := s.core home
        let reply := if (co.badIn addr 64).isSome then none else some (bytesLine (co.readN addr 64))
        let (arr, s) := s.travel home k (s.now + Config.bankLatency (tierOf home) * cyc home) timed
        s.post arr (.mgetReply k c m reply cleared))
  | _ => .fault .notDue

/-- MGET_REPLY (R357): fault-full with TSTAT 0x06 for an uncorrectable word (R178). It fills the register whatever its tag
(R187), but for a register that MCLR has cleared since (R355). -/
def execMgetReply (s : State) : Host.Outcome State Fault Refusal :=
  match s.event with
  | some (.mgetReply k c m reply cleared) =>
    .next (if ((s.ctx (k, c)).msg m).cleared ≠ cleared then s else match reply with
      | some data => s.fillMsg (k, c) m data false
      | none => s.faultMsg (k, c) m 0 0x06 false)
  | _ => .fault .notDue

/-- ENGINE_MESSAGE_ARRIVAL (R187): an engine message fills a message register whole. -/
def execEngineMessageArrival (s : State) : Host.Outcome State Fault Refusal :=
  match s.event with
  | some (.engineMessageArrival k c m data) => .next (s.fillMsg (k, c) m data false)
  | _ => .fault .notDue

/-- MSGB_PORT_WRITE (R357): bytes 0 to 63, or 0 to 7, at the destination bank in the port order of R179. -/
def execMsgbPortWrite (s : State) : Host.Outcome State Fault Refusal :=
  match s.event with
  | some (.msgbPortWrite home addr data short src sctx timed first) =>
    .next (
      if s.portBusy home (portKey src timed) first then
        s.post (s.now + cyc home) (.msgbPortWrite home addr data short src sctx timed first)
      else
        (s.portServed home).portStore (.ctx src sctx first) home 1 addr ((lineBytes data).take (if short then 8 else 64)) [])
  | _ => .fault .notDue

end Sys2Proof.Machine
end

