-- ==== Sys2Proof/Machine/Far.lean ====
section
/-! DEFINITION. Far space: translation, the physical map, the firewall, the staging cache, requests to peers, far reads and
writes, LDX, STX and the draining of fault records (R182 to R192, R257, R271, R288 to R298, R348, R385). -/

namespace Sys2Proof.Machine

/-- The end of a far access: a value, a translation status (R186), or a request to a peer that is not answered yet. -/
inductive FarRes (α : Type) where
  | ok (v : α)
  | fault (t : BitVec 8)
  | wait

/-! ## TSTAT codes (R186) -/

/-- No range entry and no valid page-table entry. -/
def tNoMap : BitVec 8 := 0x01
/-- Read not permitted. -/
def tNoRead : BitVec 8 := 0x02
/-- Write not permitted. -/
def tNoWrite : BitVec 8 := 0x03
/-- Outside the firewall. -/
def tFirewall : BitVec 8 := 0x04
/-- The physical address maps nothing. -/
def tNoPhys : BitVec 8 := 0x05
/-- Uncorrectable data. -/
def tEcc : BitVec 8 := 0x06
/-- Peer unreachable. -/
def tPeer : BitVec 8 := 0x07
/-- Virtual bits [63:57] not zero. -/
def tBadVa : BitVec 8 := 0x08
/-- Malformed page-table entry. -/
def tBadPte : BitVec 8 := 0x09
/-- Flash extent left invalid. -/
def tInvExt : BitVec 8 := 0x0A
/-- Uncorrectable error in a page-table entry. -/
def tWalkErr : BitVec 8 := 0x0B

/-! ## The physical map (R182) -/

/-- What a physical address names. -/
inductive Place where
  | hbm | flash | host
  | peer (p off : Nat)
  | nothing
deriving DecidableEq, Repr

/-- First byte of the staging reservation (R191). -/
def Dev.stagingBase (d : Dev) : Nat := Config.hbmSize - d.staging * 2 ^ 30

/-- Bytes of HBM that software reaches, here or at a peer (R236). -/
def Dev.inHbm (d : Dev) (pa : Nat) : Bool :=
  match (if Config.peerBase ≤ pa then (pa - Config.peerBase) % 2 ^ 44 else pa) with
  | off => decide (off < if Config.peerBase ≤ pa then Config.hbmSize else d.stagingBase)

/-- The map of R182. A peer's window holds its HBM and its flash window at the same offsets. -/
def Dev.place (d : Dev) (pa : Nat) : Place :=
  if pa < d.stagingBase then .hbm
  else if Config.flashBase ≤ pa ∧ pa < Config.flashEnd then .flash
  else if Config.hostBase ≤ pa ∧ pa < Config.hostEnd then .host
  else if Config.peerBase ≤ pa ∧ pa < Config.peerBase + 64 * 2 ^ 44 then
    let off := (pa - Config.peerBase) % 2 ^ 44
    if off < Config.hbmSize ∨ (Config.flashBase ≤ off ∧ off < Config.flashEnd) then
      .peer ((pa - Config.peerBase) / 2 ^ 44) off
    else .nothing
  else .nothing

/-- The firewall of a partition passes an access (R288). -/
def Part.passes (p : Part) (pa : Nat) (write : Bool) : Bool :=
  (List.range 16).any (fun i =>
    let lo := (sget 0 p.firewall (2 * i)).toNat
    let hi := (sget 0 p.firewall (2 * i + 1)).toNat
    let x := lo + hi * 2 ^ 64
    nbits x 0 0 == 1 && nbits x (if write then 2 else 1) (if write then 2 else 1) == 1
      && decide (nbits x 51 12 * 4096 ≤ pa ∧ pa < nbits x 115 76 * 4096))

/-- The checks on a physical address: the map, then the firewall, then the flash window's read-only rule (R182, R186). -/
def State.physOk (s : State) (part pa : Nat) (write : Bool) : Option (BitVec 8) :=
  match s.dev.place pa with
  | .nothing => some tNoPhys
  | pl =>
    if !(s.part part).passes pa write then some tFirewall
    else
      let flash := match pl with
        | .flash => true
        | .peer _ off => decide (Config.flashBase ≤ off)
        | _ => false
      if write && flash then some tNoWrite else none

/-! ## Translation (R183 to R185) -/

/-- Range entry i of a partition, 256 bits (R183). -/
def Part.range (p : Part) (i : Nat) : Nat :=
  (sget 0 p.ranges (4 * i)).toNat + (sget 0 p.ranges (4 * i + 1)).toNat * 2 ^ 64
    + (sget 0 p.ranges (4 * i + 2)).toNat * 2 ^ 128 + (sget 0 p.ranges (4 * i + 3)).toNat * 2 ^ 192

/-- The lowest-numbered column of a partition, whose translation caches serve accesses that no column's unit makes. -/
def State.homeCol (s : State) (part : Nat) : Nat :=
  ((List.range 4).find? (fun q => partOfQuad s.dev.mode q == part)).elim 0 (fun q => 16 * q)

/-- The lowest-numbered valid range entry that holds an address. -/
def Part.findRange (p : Part) (pn va : Nat) : Option Xlat :=
  ((List.range 64).find? (fun i =>
    let e := p.range i
    nbits e 192 192 == 1 && decide (nbits e 56 0 ≤ va ∧ va < nbits e 120 64))).map (fun i =>
      let e := p.range i
      ⟨pn, nbits e 56 0, nbits e 120 64 - nbits e 56 0, nbits e 179 128, nbits e 193 193 == 1, nbits e 194 194 == 1⟩)

/-- HBM bytes as the walker and the floor die read them. -/
def Dev.readFar (d : Dev) (pa n : Nat) : List Byte := readBytes d.far pa n
/-- An uncorrectable word among far bytes. -/
def Dev.badFar (d : Dev) (pa n : Nat) : Bool :=
  d.farBad.any (fun e => decide (pa < 4 * e.1 + 4 ∧ 4 * e.1 < pa + n))

/-- The table walk from a table at a level on (R184); `k64` marks a 64 KiB-kind table. -/
def Dev.walkFrom (d : Dev) (pn va : Nat) : Nat → Nat → Bool → Except (BitVec 8) Xlat
  | lv, t, k64 =>
    let idx := if lv = 3 then nbits va 56 39 else if lv = 2 then nbits va 38 30 else if lv = 1 then nbits va 29 21
      else if k64 then nbits va 20 16 else nbits va 20 12
    let ea := t + 8 * idx
    if d.badFar ea 8 then .error tWalkErr
    else
      let e := leNat (d.readFar ea 8)
      let leaf := nbits e 1 1 == 1
      let addr := nbits e 51 12 * 4096
      let size := if lv = 2 then 2 ^ 30 else if lv = 1 then 2 ^ 21 else if k64 then 2 ^ 16 else 2 ^ 12
      if nbits e 0 0 = 0 then .error tNoMap
      else if nbits e 11 5 ≠ 0 ∨ nbits e 63 52 ≠ 0 ∨ (lv = 3 ∧ leaf) ∨ (lv = 0 ∧ !leaf)
          ∨ (!leaf ∧ nbits e 3 2 ≠ 0) ∨ (nbits e 4 4 = 1 ∧ (leaf ∨ lv ≠ 1))
          ∨ (leaf ∧ addr % size ≠ 0) ∨ (!leaf ∧ d.stagingBase ≤ addr) then .error tBadPte
      else if leaf then .ok ⟨pn, va / size * size, size, addr, nbits e 2 2 == 1, nbits e 3 3 == 1⟩
      else match lv with
        | 0 => .error tBadPte
        | l + 1 => walkFrom d pn va l addr (lv == 1 && nbits e 4 4 == 1)

/-- The walk from a partition's root (R184). -/
def State.walk (s : State) (part va : Nat) : Except (BitVec 8) Xlat :=
  let root := nbits (s.part part).ptroot.toNat 51 21 * 2 ^ 21
  if s.dev.stagingBase ≤ root then .error tBadPte else s.dev.walkFrom part va 3 root false

/-- A cached translation of an address. -/
def hitX (l : List Xlat) (part va : Nat) : Option Xlat :=
  l.find? (fun x => x.part == part && decide (x.base ≤ va ∧ va < x.base + x.size))

/-- The translation in use for an address: the lowest-numbered range entry that holds it; else one that a cache still holds,
until its invalidation completes; else the table's (R183, R185). The flag tells a miss, which costs a walk and changes nothing
else. -/
def State.findXlat (s : State) (part col va : Nat) : Except (BitVec 8) (Xlat × Bool) :=
  match (s.part part).findRange part va with
  | some x => .ok (x, !(s.col col).rangeC.contains x)
  | none => match hitX ((s.col col).rangeC ++ (s.col col).pageC) part va with
    | some x => .ok (x, false)
    | none => match s.walk part va with
      | .error t => .error t
      | .ok x => .ok (x, true)

/-- The tick at which one of a quad's 32 walkers is free: further misses wait (R10, R185). -/
def State.walkerFree (s : State) (col : Nat) : Nat :=
  let ends := s.agenda.filterMap (fun e => match e.ev with
    | .translationWalk _ c _ => if c / 16 = col / 16 then some e.at_ else none
    | _ => none)
  if ends.length < 32 then s.now else ends.getD (ends.length - 32) s.now

/-- A translation used for a read, a write, or both: the physical address, or the status (R182 to R186, R288). A miss puts its
walk under way on a free walker of the quad, which fills the column's cache. The write of an atomic is left to its own check of
the map (R236). -/
def State.translateFor (s : State) (part col va : Nat) (read write : Bool) : Except (BitVec 8) Nat × State :=
  if 2 ^ 57 ≤ va then (.error tBadVa, s)
  else match s.findXlat part col va with
    | .error t => (.error t, s)
    | .ok (x, miss) =>
      let (d, s') := if miss then s.draw 0 else (0, s)
      let s := if miss then s'.post (s'.walkerFree col + d) (.translationWalk part col (BitVec.ofNat 64 va)) else s
      let pa := x.pbase + (va - x.base)
      if 2 ^ 52 ≤ pa then (.error tNoPhys, s)
      else if read ∧ !x.r then (.error tNoRead, s)
      else if write ∧ !x.w then (.error tNoWrite, s)
      else match (if read then s.physOk part pa false else none), (if write then s.physOk part pa true else none) with
        | some t, _ => (.error t, s)
        | none, some t => if read ∧ t = tNoWrite then (.ok pa, s) else (.error t, s)
        | none, none => (.ok pa, s)

/-- A translation used for a read or for a write. -/
def State.translate (s : State) (part col va : Nat) (write : Bool) : Except (BitVec 8) Nat × State :=
  s.translateFor part col va (!write) write

/-- A number in far memory as it stands, looked at through the partition's translation, the map and the firewall (R182, R288); a
peer, or a box across a page, answers only a request. -/
def State.peek (s : State) (part va n : Nat) : FarRes Nat :=
  if va / 4096 ≠ (va + n - 1) / 4096 then .wait
  else match (s.translate part (s.homeCol part) va false).1 with
  | .error t => .fault t
  | .ok pa => match s.dev.place pa with
    | .peer _ _ => .wait
    | _ => if s.dev.badFar pa n then .fault tEcc else .ok (leNat (s.dev.readFar pa n))

/-- TRANSLATION_WALK (R184, R185): the walk ends and the column's cache takes the translation, the oldest giving way. -/
def execTranslationWalk (s : State) : Host.Outcome State Fault Refusal :=
  match s.event with
  | some (.translationWalk part col va) =>
    .next (
      let a := va.toNat
      match (s.part part).findRange part a with
      | some x => if (s.col col).rangeC.contains x then s else
          s.modCol col (fun c => { c with rangeC := (x :: c.rangeC).take 16 })
      | none => match s.walk part a with
        | .ok x => if (hitX (s.col col).pageC part a).isSome then s else
            s.modCol col (fun c => { c with pageC := (x :: c.pageC).take 512 })
        | .error _ => s)
  | _ => .fault .notDue

/-! ## Flash and its staging cache (R191, R192) -/

/-- An extent of the flash window. -/
def Dev.extent (d : Dev) (e : Nat) : Extent := sget .reset d.flash e
/-- An extent changed. -/
def State.modExtent (s : State) (e : Nat) (f : Extent → Extent) : State :=
  s.modDev (fun d => { d with flash := sset .reset d.flash e (f (d.extent e)) })

/-- Staging lines that the reservation holds (R191). -/
def Dev.lineCap (d : Dev) : Nat := d.staging * 2 ^ 30 / Config.stagingLine

/-- A read's staging lookup (R191): a miss fetches the line and checks its pages, once more from flash on a mismatch; a
second mismatch ends the read. -/
def State.stage (s : State) (pa : Nat) : Bool × State :=
  let l := (pa - Config.flashBase) / Config.stagingLine
  if s.dev.lines.contains l then (true, s)
  else
    let bad1 := Config.freeCrc s.fresh
    let bad2 := Config.freeCrc (s.fresh + 1)
    let s := { s with fresh := s.fresh + 2 }
    if bad1 && bad2 then (false, s) else (true, s.post s.now (.stagingFill l))

/-- STAGING_FILL (R191): the line is kept; the hardware's replacement gives way to it. -/
def execStagingFill (s : State) : Host.Outcome State Fault Refusal :=
  match s.event with
  | some (.stagingFill l) =>
    .next (if s.dev.lines.contains l then s else
      s.modDev (fun d => { d with lines := (l :: d.lines).take d.lineCap }))
  | _ => .fault .notDue

/-- A read of bytes on the device or in host memory at a physical address. -/
def State.readPhys (s : State) (pa n : Nat) : Except (BitVec 8) (List Byte) × State :=
  match s.dev.place pa with
  | .flash =>
    if (s.dev.extent ((pa - Config.flashBase) / Config.extentSize)).state = 2 then (.error tInvExt, s)
    else
      let (good, s) := s.stage pa
      if !good ∨ s.dev.badFar pa n then (.error tEcc, s) else (.ok (s.dev.readFar pa n), s)
  | _ => if s.dev.badFar pa n then (.error tEcc, s) else (.ok (s.dev.readFar pa n), s)

/-- Far words a write covers whole lose their error. -/
def clearBad (m : Sparse Bool) (pa n : Nat) : Sparse Bool :=
  (List.range ((pa + n) / 4 - (pa + 3) / 4)).foldl (fun m i => serase m ((pa + 3) / 4 + i)) m

/-- A write of bytes at a physical address. -/
def State.writePhys (s : State) (pa : Nat) (bs : List Byte) : State :=
  s.modDev (fun d => { d with far := writeBytes d.far pa bs, farBad := clearBad d.farBad pa bs.length })

/-! ## Flits (R289 to R294) -/

/-- A port. -/
def State.port (s : State) (p : Nat) : Port := sget .reset s.dev.fabric.ports p
/-- A port changed. -/
def State.modPort (s : State) (p : Nat) (f : Port → Port) : State :=
  s.modDev (fun d => { d with fabric := { d.fabric with ports := sset .reset d.fabric.ports p (f (sget .reset d.fabric.ports p)) } })
/-- An entry of a routing bank. -/
def Fabric.route (f : Fabric) (bank : Bool) (dest : Nat) : Word := sget 0 (if bank then f.bank1 else f.bank0) dest

/-- Saturating count of 16 bits. -/
def satInc (x : BitVec 16) : BitVec 16 := if x = 0xFFFF then x else x + 1

/-- Output credits come back to a port, as many as its receiver has freed: how many, the spec leaves to the receiver. -/
def State.creditBack (s : State) (p : Nat) : State :=
  let (c, s) := s.draw 0
  s.modPort p (fun q => { q with used := q.used - c % (q.used + 1) })

/-- The port of a flit (R293): for ordered classes and notices DPORT, else the lowest up port in PMASK; in class 2 the up
port with the most free output credits, the lowest number on a tie. Every port has as many credits in all (log 14). -/
def State.choosePort (s : State) (cls : BitVec 2) (dest : BitVec 13) : Option Nat × State :=
  let e := s.dev.fabric.route s.dev.fabric.act dest.toNat
  let up := (List.range 16).filter (fun p => e.getLsbD p && (s.port p).up)
  let dp := nbits e.toNat 19 16
  if cls = 2 then
    let s := up.foldl (fun s p => s.creditBack p) s
    (up.foldl (fun m p => match m with
      | none => some p
      | some b => if (s.port p).used < (s.port b).used then some p else some b) none, s)
  else if (s.port dp).up ∧ up.contains dp then (some dp, s) else (up.head?, s)

/-- A port's receive buffer holds `n` flits: it signals stop past three quarters and go below one (R297). The buffer's size is
free (log 14). -/
def Port.fill (q : Port) (n : Nat) : Port :=
  { q with buffered := n
           signals := if 3 * Config.freeRxBuffer < 4 * n then true else if 4 * n < Config.freeRxBuffer then false else q.signals }

/-- A flit that came by a port, 16 for this device's own, put on a port; a stop or a retraining holds it back (R297). -/
def State.emit (s : State) (from_ p : Nat) (f : Flit) : State :=
  if (s.port p).stopped || (s.port p).train then
    let s := s.modPort p (fun q => { q with queued := q.queued ++ [(from_, f)] })
    if from_ < 16 then s.modPort from_ (fun q => q.fill (q.buffered + 1)) else s
  else s.modPort p (fun q => { q with sent := q.sent ++ [f], used := q.used + 1 })

/-- Key of an ordered flow by class and device. -/
def flowKey (cls : BitVec 2) (dev : BitVec 13) : Nat := cls.toNat * 8192 + dev.toNat
/-- Key of an ordered flow that leaves or passes this device. -/
def pathKey (f : Flit) : Nat := (f.src.toNat * 4 + f.cls.toNat) * 8192 + f.dest.toNat

/-- A flit routed by the active bank; without a usable port it is dropped and counted (R291, R293). An ordered flow that moves
to another port sends a drain marker first, with the number of its next flit (R294). -/
def State.routeFlit (s : State) (from_ : Nat) (f : Flit) : Bool × State :=
  let (p, s) := s.choosePort f.cls f.dest
  match p with
  | none =>
    let dp := nbits (s.dev.fabric.route s.dev.fabric.act f.dest.toNat).toNat 19 16
    (false, s.modPort dp (fun q => { q with routedrop := satInc q.routedrop }))
  | some p =>
    if f.cls = 2 ∨ f.cls = 3 then (true, s.emit from_ p f)
    else
      let last := sget 0 s.dev.fabric.moved (pathKey f)
      let s := if last ≠ 0 ∧ last ≠ p + 1 ∧ f.typ ≠ 7 then s.emit from_ p { f with typ := 7, payload := [], pa := 0 } else s
      (true, (s.emit from_ p f).modFabric (fun b => { b with moved := sset 0 b.moved (pathKey f) (p + 1) }))

/-- A flit of this device sent: ordered classes are numbered (R294). A flit for this device itself is delivered locally, which
the port number 16 stands for. -/
def State.sendFlit (s : State) (f : Flit) : Bool × State :=
  let fb := s.dev.fabric
  let f := { f with src := fb.myid }
  if f.cls = 2 ∨ f.cls = 3 then
    if f.dest = fb.myid then (true, s.post s.now (.flitReceive 16 f)) else s.routeFlit 16 f
  else
    let key := flowKey f.cls f.dest
    let n := sget 0 fb.fseq key
    let f := { f with fseq := n }
    let next (s : State) : State := s.modFabric (fun b => { b with fseq := sset 0 b.fseq key (n + 1) })
    if f.dest = fb.myid then (true, (next s).post s.now (.flitReceive 16 f))
    else match s.routeFlit 16 f with
      | (true, s) => (true, next s)
      | x => x

/-! ## Requests to peers (R271, R289, R294, R298) -/

/-- Entry p of a partition's peer table: device and key, where it is valid (R298). -/
def Part.peer (p : Part) (i : Nat) : Option (BitVec 13 × BitVec 16) :=
  let e := (sget 0 p.peers i).toNat
  if nbits e 29 29 = 1 then some (BitVec.ofNat 13 (nbits e 12 0), BitVec.ofNat 16 (nbits e 28 13)) else none

/-- The tag of a partition's requests (R271). -/
def State.tagOf (s : State) (part : Nat) : BitVec 6 := BitVec.ofNat 6 (part + (s.part part).epoch.toNat * 4)

/-- What a step that is run again finds of its request for a line of far addresses: nothing asked, still under way, or its
answer. The address is not translated a second time (R185). -/
def Fabric.asked (f : Fabric) (ev : Event) (va : Nat) : Option (FarRes (List Byte)) :=
  match f.answers.find? (fun a => a.ev == ev && a.va == va / 64 * 64) with
  | some a => some (if a.tstat = 0 then .ok a.data else .fault a.tstat)
  | none => if f.reqs.any (fun r => r.ev == ev && r.va == va / 64 * 64) then some .wait else none

/-- A far access of a context on the LS path, with its line (R210). -/
def Event.lineAccess : Event → Option ((Nat × Nat) × Nat)
  | .ldxReply k c _ va _ _ => some ((k, c), va.toNat / 64)
  | .stxComplete k c _ va _ _ => some ((k, c), va.toNat / 64)
  | .deviceAtomicReply r => if r.op < opArrive then some ((r.core, r.ctx), r.addr / 64) else none
  | .objectReply k c _ obj _ _ => if obj.getLsbD 63 then none else some ((k, c), obj.toNat / 64)
  | _ => none

/-- A step is put off to a tick. Behind a far access of a context its later ones to the same line stay in their order; one whose
answer is there has been performed (R211, R385). -/
def State.putOff (s : State) (t : Nat) (ev : Event) : State :=
  match Event.lineAccess ev with
  | none => s.post t ev
  | some a => s.defer (fun e => Event.lineAccess e == some a && !s.dev.fabric.answers.any (fun x => x.ev == e)) (cyc a.1.1) t ev

/-- A request to a peer on behalf of a step, for a line of far addresses: it is sent and the step waits (R289, R294). -/
def State.askPeer (s : State) (part va p off : Nat) (cls : BitVec 2) (typ : BitVec 4) (payload : List Byte) (ev : Event) :
    FarRes (List Byte) × State :=
  match (s.part part).peer p with
  | none => (.fault tNoPhys, s)
  | some (dev, key) =>
    let fb := s.dev.fabric
    if (fb.reqs.filter (fun r => r.dest == dev && r.cls == 0)).length ≥ 512 ∧ cls = 0 then
      (.wait, s.putOff (s.now + Config.ticksPerBeat) ev)
    else
      let n := sget 0 fb.fseq (flowKey cls dev)
      let (sent, s) := s.sendFlit ⟨dev, 0, cls, typ, key, s.tagOf part, 0, off, payload, true⟩
      if sent then (.wait, s.modFabric (fun b => { b with reqs := b.reqs ++ [⟨dev, cls, n, off, part, ev, va / 64 * 64⟩] }))
      else (.fault tPeer, s)

/-- A step is over: the answers and requests kept for it are dropped, and what would run it again. -/
def State.forget (s : State) (ev : Event) : State :=
  (s.cancel ev).modFabric (fun b => { b with answers := b.answers.filter (fun a => a.ev != ev)
                                             reqs := b.reqs.filter (fun r => r.ev != ev) })

/-! ## Far reads and writes -/

/-- A box cut at line boundaries: address and length of each piece. -/
def linePieces (va : Nat) : Nat → Nat → List (Nat × Nat)
  | 0, _ => []
  | _, 0 => []
  | fuel + 1, n =>
    let m := min n (64 - va % 64)
    (va, m) :: linePieces (va + m) fuel (n - m)

/-- One piece of a far read. -/
def State.readPiece (s : State) (part col va n : Nat) (cls : BitVec 2) (ev : Event) : FarRes (List Byte) × State :=
  -- a peer is asked for the whole line; the piece is cut from it
  match s.dev.fabric.asked ev va with
  | some (.ok bs) => (.ok ((bs.drop (va % 64)).take n), s)
  | some x => (x, s)
  | none =>
  match s.translate part col va false with
  | (.error t, s) => (.fault t, s)
  | (.ok pa, s) =>
    match s.dev.place pa with
    | .peer p off => s.askPeer part va p (off / 64 * 64) cls 2 [] ev
    | _ => match s.readPhys pa n with
      | (.ok bs, s) => (.ok bs, s)
      | (.error t, s) => (.fault t, s)

/-- Pieces of a far read in ascending order; the first that faults ends it. -/
def State.readPieces (s : State) (part col : Nat) (cls : BitVec 2) (ev : Event) :
    List (Nat × Nat) → FarRes (List Byte) × State
  | [] => (.ok [], s)
  | (va, n) :: r =>
    match s.readPiece part col va n cls ev with
    | (.ok bs, s) => (match s.readPieces part col cls ev r with
      | (.ok rest, s) => (.ok (bs ++ rest), s)
      | x => x)
    | x => x

/-- A far read of `n` bytes for a step. -/
def State.farRead (s : State) (part col va n : Nat) (cls : BitVec 2) (ev : Event) : FarRes (List Byte) × State :=
  s.readPieces part col cls ev (linePieces va n n)

/-- A result without its value. -/
def FarRes.unit {α : Type} : FarRes α → FarRes Unit
  | .ok _ => .ok ()
  | .fault t => .fault t
  | .wait => .wait

/-- One piece of a far write: at a peer it is performed when the response comes (R201, R289). -/
def State.writePiece (s : State) (part col va : Nat) (bs : List Byte) (cls : BitVec 2) (ev : Event) :
    FarRes Unit × State :=
  match s.dev.fabric.asked ev va with
  | some x => (x.unit, s)
  | none =>
  match s.translate part col va true with
  | (.error t, s) => (.fault t, s)
  | (.ok pa, s) =>
    match s.dev.place pa with
    | .peer p off =>
      let (r, s) := s.askPeer part va p off cls 1 bs ev
      (r.unit, s)
    | _ => (.ok (), s.writePhys pa bs)

/-- Pieces of a far write in ascending order. A fault in a later piece leaves the pieces before it written, though R201 speaks of the
units before and after the faulting one alone (DESIGN CHOICE, log 59). -/
def State.writePieces (s : State) (part col : Nat) (bs : List Byte) (cls : BitVec 2) (ev : Event) :
    List (Nat × Nat) → FarRes Unit × State
  | [] => (.ok (), s)
  | (va, n) :: r =>
    match s.writePiece part col va (bs.take n) cls ev with
    | (.ok (), s) => s.writePieces part col (bs.drop n) cls ev r
    | x => x

/-- A far write of bytes for a step. -/
def State.farWrite (s : State) (part col va : Nat) (bs : List Byte) (cls : BitVec 2) (ev : Event) : FarRes Unit × State :=
  s.writePieces part col bs cls ev (linePieces va bs.length bs.length)

/-- The unit at which a far access of a step ended with a fault (R198, R201). -/
def State.faultAt (s : State) (part col va n : Nat) (write : Bool) (ev : Event) : Nat :=
  ((linePieces va n n).find? (fun e => match s.dev.fabric.asked ev e.1 with
    | some (.fault _) => true
    | some _ => false
    | none => match (s.translate part col e.1 write).1 with
      | .error _ => true
      | .ok pa => !write && s.dev.badFar pa e.2)).elim va (·.1)

/-! ## LDX (R187, R348) -/

/-- The tick from which a far access of a context to the line of an address may be performed: behind its earlier ones to the line
(R211, R385). -/
def State.lineTick (s : State) (q : Nat × Nat) (va t : Nat) : Nat :=
  s.agenda.foldl (fun m e => if Event.lineAccess e.ev = some (q, va / 64) then max m (e.at_ + 1) else m) t

/-- A far access of a context to a line that was issued before a step and has not been performed: at a peer it may still be
under way when the step is due (R211). -/
def State.lineBusy (s : State) (q : Nat × Nat) (va : Nat) (ev : Event) : Bool :=
  s.dev.fabric.reqs.any (fun r => r.ev != ev && Event.lineAccess r.ev == some (q, va / 64)) && (s.dev.fabric.asked ev va).isNone

/-- LDX sent: the reply follows after a variable latency, at the start of a cycle (R421). -/
def State.sendLdx (s : State) (q : Nat × Nat) (d : MsgReg) (va : DWord) : State :=
  let (l, s) := s.draw (cyc q.1)
  s.post (ceilTo (cyc q.1) (s.lineTick q va.toNat (s.now + l))) (.ldxReply q.1 q.2 d va ((s.ctx q).msg d).tag (s.part (s.partOf q.1)).epoch)

/-- LDX (R187, R348). -/
def execLdx (h : Hdr) (d : MsgReg) (a : Reg) (s : State) : Host.Outcome State Fault Refusal :=
  issue { len := 1, hdr := h, rs := [a], ill := inStep s }
    (fun s =>
      let va := rv s a
      if va.toNat % 64 ≠ 0 then .error ⟨.align, 0, va, false⟩
      else
        let s' := s.modCtx s.cur (fun x => x.modMsg d (fun r =>
          { r.request s.now with pend := true, va := va.setWidth 57 }))
        .ok ⟨s'.sendLdx s.cur d va, .next⟩) s

/-- LDX_REPLY (R187, R271, R421): a stale reply, or one of an old epoch, is discarded; it takes effect at the start of a cycle. -/
def execLdxReply (s : State) : Host.Outcome State Fault Refusal :=
  match s.event with
  | some (.ldxReply k c m va tag epoch) =>
    .next (
      let part := s.partOf k
      let ev : Event := .ldxReply k c m va tag epoch
      if ((s.ctx (k, c)).msg m).tag ≠ tag ∨ (s.part part).epoch ≠ epoch then s
      else if s.now % cyc k ≠ 0 then s.post (ceilTo (cyc k) s.now) ev
      else
        if s.lineBusy (k, c) va.toNat ev then s.putOff (s.now + cyc k) ev
        else match s.farRead part (columnOf k) va.toNat 64 0 ev with
        | (.wait, s) => s
        | (.ok bs, s) => (s.forget ev).fillMsg (k, c) m (bytesLine bs) true
        | (.fault t, s) => (s.forget ev).faultMsg (k, c) m (va.setWidth 57) t true)
  | _ => .fault .notDue

/-! ## STX (R187, R189, R385) -/

/-- STX (R187, R385). -/
def execStx (h : Hdr) (a : Reg) (b : VecReg) (s : State) : Host.Outcome State Fault Refusal :=
  issue { len := 1, hdr := h, rs := [a], vs := [b], ill := inStep s }
    (fun s =>
      let va := rv s a
      if va.toNat % 64 ≠ 0 then .error ⟨.align, 0, va, false⟩
      else
        let n := (s.ctx s.cur).stxNext
        let s' := s.modCtx s.cur (fun x => { x with stxNext := n + 1, stxOut := x.stxOut ++ [n] })
        let (l, s') := s'.draw (cyc s.cur.1)
        .ok ⟨s'.post (s.lineTick s.cur va.toNat (s.now + l))
          (.stxComplete s.cur.1 s.cur.2 n va (vv s b) (s.part (s.partOf s.cur.1)).epoch), .next⟩) s

/-- SEQ of a context: the largest number below every outstanding one (R189). -/
def Ctx.stxSeq (x : Ctx) : Nat := x.stxOut.foldl min x.stxNext - 1

/-- A context's status word (R189). -/
def Ctx.statusWord (x : Ctx) : Nat :=
  let bad := x.stxBad.filter (fun b => decide (b.1 ≤ x.stxSeq))
  let first := bad.foldl (fun (m : Option (Nat × BitVec 8)) b => match m with
    | none => some b
    | some a => if b.1 < a.1 then some b else some a) none
  x.stxSeq % 2 ^ 48 + (match first with | some b => b.2.toNat * 2 ^ 48 | none => 0)

/-- Near address of a context's status word (R175). -/
def statusAddr (k c : Nat) : Nat := Config.statusBase (tierOf k) + 8 * c

/-- A store of a context has completed: a fault queues its record, and as SEQ advances the whole status word is rewritten
through the engine channel (R189). The kernel's completion is looked at again (R245). -/
def State.stxDone (s : State) (q : Nat × Nat) (n : Nat) (va : DWord) (t : BitVec 8) : State :=
  let x := s.ctx q
  if 4 ≤ q.2 then
    -- its core runs other code: that of a kernel which pre-empted its own, or which follows it (R251, R307)
    let s := if t = 0 then s else s.record q.1 (faultRec 0x04 q.1 (q.2 % 4) 0 n va.toNat 0 0 t.toNat)
    if 8 ≤ q.2 then s.post s.now (.kernelComplete ((q.2 - 8) / 4)) else s
  else if !x.stxOut.contains n then s
  else
    let s := if t = 0 then s else s.record q.1 (faultRec 0x04 q.1 q.2 0 n va.toNat 0 0 t.toNat)
    let s := s.modCtx q (fun x => { x with
      stxOut := x.stxOut.erase n, stxBad := if t = 0 then x.stxBad else x.stxBad ++ [(n, t)] })
    let y := s.ctx q
    let s := if y.stxSeq = x.stxSeq then s else s.portStore .other q.1 0 (statusAddr q.1 q.2) (leBytes 8 y.statusWord) []
    match (if q.2 = 0 then (s.core q.1).ctl.kernel else x.kernel) with
    | some i => s.post s.now (.kernelComplete i)
    | none => s

/-- STX_COMPLETE (R189, R271, R308): the store is performed, or faults and writes nothing. -/
def execStxComplete (s : State) : Host.Outcome State Fault Refusal :=
  match s.event with
  | some (.stxComplete k c n va data epoch) =>
    .next (
      let part := s.partOf k
      if (s.part part).epoch ≠ epoch then s
      else
        let ev : Event := .stxComplete k c n va data epoch
        if s.lineBusy (k, c) va.toNat ev then s.putOff (s.now + cyc k) ev
        else match s.farWrite part (columnOf k) va.toNat (lineBytes data) 0 ev with
        | (.wait, s) => s
        | (.ok (), s) => (s.forget ev).stxDone (k, c) n va 0
        | (.fault t, s) => (s.forget ev).stxDone (k, c) n va t)
  | _ => .fault .notDue

/-! ## Fault rings (R257) -/

/-- A record written into a ring in far memory: dropped and counted when the ring is full (R257). No ring while a peer has not
answered. -/
def State.ringWrite (s : State) (part col : Nat) (r : Ring) (rec_ : List Byte) (cls : BitVec 2) (ev : Event) : Option Ring × State :=
  let size := 2 ^ r.log2n.toNat
  if (r.tail.toNat + 1) % size = r.head.toNat % size then
    (some { r with drops := if r.drops = 0xFFFFFF then r.drops else r.drops + 1 }, s)
  else match s.farWrite part col (r.base.toNat * 4096 + 32 * (r.tail.toNat % size)) rec_ cls ev with
    | (.wait, s) => (none, s)
    | (_, s) => (some { r with tail := BitVec.ofNat 20 ((r.tail.toNat + 1) % size) }, s)

/-- FAULT_RECORD_DRAIN (R257): the oldest record of a cluster's buffer goes into the partition's fault ring. -/
def execFaultRecordDrain (s : State) : Host.Outcome State Fault Refusal :=
  match s.event with
  | some (.faultRecordDrain tier col) =>
    .next (
      let key := 64 * tier + col
      let part := partOfQuad s.dev.mode (col / 16)
      match sget [] s.bufs key with
      | [] => s
      | f :: rest =>
        if !(s.part part).fq.en then s
        else
          let ev : Event := .faultRecordDrain tier col
          match s.ringWrite part col (s.part part).fq (leBytes 32 f.toNat) 0 ev with
          | (none, s) => s
          | (some r, s) =>
            let s := ({ (s.forget ev) with bufs := sset [] s.bufs key rest }).modPart part (fun p => { p with fq := r })
            if rest = [] then s
            else
              let (d, s) := s.draw 0
              s.post (s.now + d) ev)
  | _ => .fault .notDue

end Sys2Proof.Machine
end

