-- ==== Sys2Proof/Machine/Atomics.lean ====
section
/-! DEFINITION. Waits for numbered replies, the bank atomics with their wheel and their far form, and the announcement and
delivery windows of SC operations (R221, R222, R235 to R237, R311 to R313). -/

namespace Sys2Proof.Machine

/-! ## Waiting for a numbered reply -/

/-- The number of the next wait. -/
def State.number (s : State) : Nat × State := (s.fresh, { s with fresh := s.fresh + 1 })

/-- The context waits for the reply of this number: its destination. -/
def Ctx.awaits (x : Ctx) (num : Nat) : Option Reg :=
  match x.run with
  | .held (.reply d n) => if n = num then some d else none
  | .gated (.reply d n) => if n = num then some d else none
  | _ => none

/-- A wait is over in a cycle: its result is written (R422); a context that no longer waits discards it (R307). -/
def State.answerIn (s : State) (q : Nat × Nat) (num t : Nat) (v : DWord) : State :=
  match (s.ctx q).awaits num with
  | some d => s.finishAt q (scalarAct (tierOf q.1) (s.ctx q) d v) t
  | none => s
/-- A wait is over now. -/
def State.answer (s : State) (q : Nat × Nat) (num : Nat) (v : DWord) : State := s.answerIn q num s.now v

/-- A wait ends with a trap (R236). -/
def State.answerTrap (s : State) (q : Nat × Nat) (num : Nat) (tr : Trap) : State :=
  match (s.ctx q).awaits num with
  | some _ => s.takeTrap q (s.issuedWord q) tr
  | none => s

/-- A wait whose result is known is written at a tick: the context looks for it then. -/
def State.answerAt (s : State) (q : Nat × Nat) (num t : Nat) (v : DWord) : State :=
  match (s.ctx q).run with
  | .held (.reply d n) =>
    if n = num then
      let s := s.modCtx q (fun x => { x with run := .held (.unitOp t d v) })
      if q.2 ≠ 0 ∧ (s.core q.1).ctl.frozen then s else s.modCtl q.1 (fun c => { c with issueAt := t })
    else s
  | .gated (.reply d n) =>
    if n = num then s.modCtx q (fun x => { x with run := .gated (.unitOp t d v), readyAt := t }) else s
  | _ => s

/-! ## The wheel (R237) -/

/-- The first cycle from one on in which the slot of a core index begins at a bank of a tier. -/
def wheelStart (tier idx cy : Nat) : Nat :=
  let rot := 48 * Config.wheelRounds tier
  cy + (48 * (idx / 16) + 3 * (idx % 16) + rot - cy % rot) % rot

/-- A request put on the agenda at its first slot from a cycle on. -/
def State.toSlot (s : State) (r : AtomicReq) (cy : Nat) : State :=
  s.post (wheelStart (tierOf r.core) (indexOf r.core) cy * cyc r.core) (.atomicSlot r)

/-- A bank whose group is in a superstep skips its slots, from the release beat to the last end beat (R33, R237). -/
def State.skips (s : State) (home : Nat) : Bool := (s.core home).ctl.skip

/-- A request performed at its bank; writes held behind the slot follow, and the monitors see the bank as it stands. -/
def State.performRmw (s : State) (home : Nat) (r : AtomicReq) : Except Trap DWord × State :=
  let t := tierOf home
  let (n, s) := (s.correct home r.addr (r.ty.width / 8)).number
  let (res, c) := (s.core home).rmw t r.op r.ty r.addr r.opnd r.cmp (Config.freeUnitValue n)
  (res, s.setCore home c)

/-- CLUSTER_ATOMIC_REPLY (R236, R237): the old value, or the peer's report of an uncorrectable word, with its IMPREC. -/
def execClusterAtomicReply (s : State) : Host.Outcome State Fault Refusal :=
  match s.event with
  | some (.clusterAtomicReply k c num bad v) =>
    .next (match bad with
      | some imprec => s.answerTrap (k, c) num ⟨.eccu, 0, v, imprec⟩
      | none => s.answer (k, c) num v)
  | _ => .fault .notDue

/-! ## The far form (R236) -/

/-- FARFAULT of a far access, or ECCU for TSTAT 0x06 (R74, R236). -/
def farTrap (t : BitVec 8) (va : DWord) : Trap :=
  if t = tEcc then ⟨.eccu, 0, va, false⟩ else ⟨.farfault, t, va, false⟩

/-- The bytes of an atomic flit: operation, type code, operand, comparand. The spec gives the payload no layout; this one
is the model's (log 14). -/
def atomicPayload (r : AtomicReq) : List Byte :=
  leBytes 8 (r.op + r.ty.code.toNat * 256) ++ leBytes 8 r.opnd.toNat ++ leBytes 8 r.cmp.toNat

/-- A far read-modify-write in HBM of the device, or of a peer; both permissions are needed, and what lies outside HBM fails
with TSTAT 0x05 (R236, R289). -/
def State.farRmw (s : State) (part col : Nat) (r : AtomicReq) (ev : Event) : FarRes DWord × State :=
  let n := r.ty.width / 8
  match s.dev.fabric.asked ev r.addr with
  | some (.ok bs) => (.ok (BitVec.ofNat 64 (leNat (bs.take 8))), s)
  | some (.fault t) => (.fault t, s)
  | some .wait => (.wait, s)
  | none =>
  match s.translateFor part col r.addr true true with
  | (.error t, s) => (.fault t, s)
  | (.ok pa, s) =>
    if !s.dev.inHbm pa then (.fault tNoPhys, s)
    else match s.dev.place pa with
      | .hbm =>
        if s.dev.badFar pa n then (.fault tEcc, s)
        else
          let (k, s) := s.number
          let (v, res) := rmwOp r.op r.ty (leNat (s.dev.readFar pa n)) r.opnd r.cmp (Config.freeUnitValue k)
          (.ok res, s.writePhys pa (leBytes n v))
      | .peer p off =>
        (match s.askPeer part r.addr p off 0 4 (atomicPayload r) ev with
          | (.fault t, s) => (.fault t, s)
          | (_, s) => (.wait, s))
      | _ => (.fault tNoPhys, s)

/-! ## SC windows (R221, R222, R313) -/

/-- LS writes of a context that are not performed: its stores and atomics under way, far stores, MSCAC's rows and what the
expansion unit will write (R210, R216). -/
def State.storesOut (s : State) (q : Nat × Nat) : Bool := !(s.lsWrites q).isEmpty || !(s.ctx q).stxOut.isEmpty

/-- LS reads of a context that are not performed: far loads, whatever fills their registers meanwhile, and the expansion
unit's. -/
def State.loadsOut (s : State) (q : Nat × Nat) : Bool :=
  s.live.any (fun e => match e with
    | .ldxReply k c _ _ _ _ => k == q.1 && c == q.2
    | _ => false) || (s.core q.1).xu.queue.any (fun o => o.ctx == q.2)

/-- Messages that a context sent and that are on their way or, of MSGB, not performed (MS). -/
def State.messagesOut (s : State) (q : Nat × Nat) : Bool :=
  s.live.any (fun e => match e with
    | .messageArrival _ _ _ _ src c _ => src == q.1 && c == q.2
    | _ => false) || !(s.msWrites q).isEmpty

/-- MS reads of a context on their way: MGET requests and replies. -/
def State.mgetsOut (s : State) (q : Nat × Nat) : Bool :=
  s.agenda.any (fun e => match e.ev with
    | .mgetPortRead _ _ k c _ _ _ _ => k == q.1 && c == q.2
    | .mgetReply k c _ _ _ => k == q.1 && c == q.2
    | _ => false)

/-- Reads of a slice operation of a context. -/
def State.matrixOut (s : State) (q : Nat × Nat) (gather : Bool) : Bool :=
  (s.core q.1).slice.queue.any (fun o => o.ctx == q.2 && (match o.what with
    | .mma _ _ _ => !gather
    | .mwld _ _ => !gather
    | .mmas _ _ _ _ _ => gather
    | _ => false))

/-- Commands of a context that have not written their stamp, of a kind that a test accepts. -/
def State.commandsOut (s : State) (q : Nat × Nat) (f : CmdKind → Bool) : Bool :=
  (s.col (columnOf q.1)).slots.any (fun e => match e.2 with
    | some sl => sl.owner == some q && f sl.kind
    | none => false)

/-- Writes of a path that a context issued and that are not performed (R210, R216, R339); MX and GA hold reads alone. -/
def State.pathOut (s : State) (q : Nat × Nat) : Path → Bool
  | .ls => s.storesOut q
  | .ms => s.messagesOut q
  | .vt => q.2 == 0 && !(s.core q.1).vert.ops.isEmpty
  | .ce => s.commandsOut q (fun k => match k with | .coll _ _ _ => false | _ => true)
  | .mx | .ga => false
  | .co => s.commandsOut q (fun k => match k with | .coll _ _ _ => true | _ => false)
  | .fi => s.commandsOut q (fun k => k == .finst)

/-- Accesses of a context on LS or MS that are not performed. -/
def State.dataOut (s : State) (q : Nat × Nat) : Bool :=
  s.storesOut q || s.loadsOut q || s.messagesOut q || s.mgetsOut q
/-- Accesses of a context that are not performed, but for those of its engine commands. -/
def State.ownOut (s : State) (q : Nat × Nat) : Bool :=
  s.dataOut q || s.pathOut q .vt || s.matrixOut q false || s.matrixOut q true

/-- Some access of a context on some path is not performed; a load counts until it returns (R221). -/
def State.anyOut (s : State) (q : Nat × Nat) : Bool := s.ownOut q || [Path.ce, .co, .fi].any (s.pathOut q)

/-- An SC operation issued: its window is sought at once (R221). -/
def State.issueSc (s : State) (num : Nat) (d : Reg) (what : ScWhat) : State :=
  let q := s.cur
  let s := { s with sc := s.sc ++ [(⟨q, num, d, what, s.now, none⟩ : ScOp)] }
  s.post s.now (.scAnnounce q.1 q.2 num)

/-- SC_ANNOUNCE (R221): announced in the window under way once every earlier access of the context is performed;
otherwise it is looked at again in the core's next cycle, and at the window's last tick. -/
def execScAnnounce (s : State) : Host.Outcome State Fault Refusal :=
  match s.event with
  | some (.scAnnounce k c num) =>
    .next (
      let s := s.settle k s.now
      let w := s.beat / 8
      let last := (8 * w + 8) * Config.ticksPerBeat - 1
      let next := ceilTo (cyc k) (s.now + 1)
      if s.anyOut (k, c) then s.post (if s.now < last then min next last else next) (.scAnnounce k c num)
      else
        let s := { s with sc := s.sc.map (fun (o : ScOp) => if o.num = num then { o with window := some w } else o) }
        if s.agenda.any (fun e => e.ev == .scDelivery w) then s
        else s.post ((8 * w + 32) * Config.ticksPerBeat) (.scDelivery w))
  | _ => .fault .notDue

/-- An SC operation placed in the order of R221: by core, then by issue. -/
def scInsert (e : ScOp) : List ScOp → List ScOp
  | [] => [e]
  | h :: r =>
    if e.who.1 < h.who.1 ∨ (e.who.1 = h.who.1 ∧ e.issued < h.issued) then e :: h :: r else h :: scInsert e r

/-- SC operations of a window in their order. -/
def scOrder (l : List ScOp) (w : Nat) : List ScOp :=
  (l.filter (fun o => o.window == some w)).foldl (fun a o => scInsert o a) []

/-! ## The instructions (R235 to R237, R311, R312) -/

/-- The issue of a bank atomic: ILLOP of R236 and of R221. -/
def atomicNeed (h : Hdr) (d a b : Reg) (ty : Ty) (scope : Scope) (k : BitVec 8) (sc : Bool) (s : State) : Need :=
  { len := 3, hdr := h, rs := [d, a, b], rd := [d]
    ill := decide (scope = .cluster ∧ Config.clusterSide s.tier * Config.clusterSide s.tier ≤ k.toNat)
      || (inStep s && (scope != .core || sc)) || (scope == .device && (ty == .i8 || ty == .i16))
    bytes := if scope = .core ∨ (scope = .cluster ∧ coreOfIndex (columnOf s.cur.1) s.tier k.toNat = s.cur.1) then
        bytesAt (rv s a).toNat (ty.width / 8) else []
    reading := []
    occ := if inStep s ∧ ty.width < 32 then 2 else 1 }

/-- A timed bank atomic: its slot begins in the cycle after issue; one whose slot would meet the last one's is a deviation
(R237). -/
def timedIssue (op : Nat) (d : Reg) (ty : Ty) (addr : Nat) (opnd cmp : DWord) (s : State) : Except Trap Done :=
  let k := s.cur.1
  let tk := cyc k
  let more := if ty.width < 32 then 1 else 0
  if (s.core k).ctl.rmw.any (fun r => r.who == k && decide (s.now + tk ≤ r.last)) then .error (.timing 2)
  else
    let s' := s.modCtl k (fun c => { c with rmw := c.rmw ++ [⟨s.now + tk, s.now + 3 * tk, addr / 8, k⟩] })
    .ok ⟨s'.deliver s.cur 3 [.atomic op ty addr opnd cmp d
      (s.now + (Config.bankLatency s.tier + 3 + more) * tk) (s.ctx s.cur).pc (s.issuedWord s.cur)], .next⟩

/-- Where an atomic's operand lies, after the checks of R236: its home and address. -/
def atomicHome (a : Reg) (ty : Ty) (scope : Scope) (k : BitVec 8) (s : State) : Except Trap (Option Nat × Nat) := do
  let addr := (rv s a).toNat
  let n := ty.width / 8
  if addr % n ≠ 0 then throw (.at_ .align addr)
  match scope with
  | .core =>
    let e ← checkNear s .ownBank true addr n n
    .ok (some s.cur.1, e)
  | .cluster =>
    if addr < Config.bankBase ∨ Config.statusBase s.tier < addr + n then .error (.at_ .bankrange addr)
    else .ok (some (coreOfIndex (columnOf s.cur.1) s.tier k.toNat), addr)
  | _ => .ok (none, addr)

/-- A BANK ATOMIC (R235 to R237, R311 to R313). -/
def atomic (op : Nat) (h : Hdr) (d a b : Reg) (ty : Ty) (scope : Scope) (k : BitVec 8) (sc : Bool) (s : State) :
    Host.Outcome State Fault Refusal :=
  issue (atomicNeed h d a b ty scope k sc s)
    (fun s => do
      let (home, addr) ← atomicHome a ty scope k s
      if inStep s then timedIssue op d ty addr (rv s b) (rv s d) s
      else
        let q := s.cur
        let (num, s') := s.number
        let r : AtomicReq := ⟨q.1, q.2, num, op, ty, home, scope == .cluster, addr, rv s b, rv s d, (s.part (s.partOf q.1)).epoch⟩
        if sc then .ok ⟨s'.issueSc num d (.atomic r), .hold (.reply d num)⟩
        else match home with
          | none =>
            let (l, s') := s'.draw (cyc q.1)
            .ok ⟨s'.post (s.lineTick q addr (s.now + l)) (.deviceAtomicReply r), .hold (.reply d num)⟩
          | some _ =>
            let wait := if scope = .core then 1 else meshLatency q.1 (home.getD 0)
            .ok ⟨s'.toSlot r (s.now / cyc q.1 + wait), .hold (.reply d num)⟩) s

/-- AADD (R236). -/
def execAadd (h : Hdr) (d a b : Reg) (ty : Ty) (scope : Scope) (k : BitVec 8) (sc : Bool) (s : State) :
    Host.Outcome State Fault Refusal := atomic 0 h d a b ty scope k sc s
/-- AMIN (R236). -/
def execAmin (h : Hdr) (d a b : Reg) (ty : Ty) (scope : Scope) (k : BitVec 8) (sc : Bool) (s : State) :
    Host.Outcome State Fault Refusal := atomic 1 h d a b ty scope k sc s
/-- AMAX (R236). -/
def execAmax (h : Hdr) (d a b : Reg) (ty : Ty) (scope : Scope) (k : BitVec 8) (sc : Bool) (s : State) :
    Host.Outcome State Fault Refusal := atomic 2 h d a b ty scope k sc s
/-- AXCHG (R236). -/
def execAxchg (h : Hdr) (d a b : Reg) (ty : Ty) (scope : Scope) (k : BitVec 8) (sc : Bool) (s : State) :
    Host.Outcome State Fault Refusal := atomic 3 h d a b ty scope k sc s
/-- ACAS (R236). -/
def execAcas (h : Hdr) (d a b : Reg) (ty : Ty) (scope : Scope) (k : BitVec 8) (sc : Bool) (s : State) :
    Host.Outcome State Fault Refusal := atomic 4 h d a b ty scope k sc s
/-- AAND (R236). -/
def execAand (h : Hdr) (d a b : Reg) (ty : Ty) (scope : Scope) (k : BitVec 8) (sc : Bool) (s : State) :
    Host.Outcome State Fault Refusal := atomic 5 h d a b ty scope k sc s
/-- AOR (R236). -/
def execAor (h : Hdr) (d a b : Reg) (ty : Ty) (scope : Scope) (k : BitVec 8) (sc : Bool) (s : State) :
    Host.Outcome State Fault Refusal := atomic 6 h d a b ty scope k sc s

end Sys2Proof.Machine
end

