-- ==== Sys2Proof/Machine/Control.lean ====
section
/-! DEFINITION. Transfers, the register window, repetition, halting, yielding, and the trap instructions (R66, R323 to
R325, R335, R336, R344, R346, R350, R364, R371 to R374, R390, R417). -/

namespace Sys2Proof.Machine

/-! ## Transfers -/

/-- The target of format J, exact: the address of the instruction plus a displacement in bytes (R323). -/
def targetOf (s : State) (off : Int) : Int := (pcv s : Int) + off

/-- What the leader's transfer goes on to, for a follower of a slaved phase: the leader alone decides targets (R37). -/
def leaderTarget (s : State) : Option Nat :=
  match (s.core s.cur.1).ctl.phase, (s.core s.cur.1).ctl.fifo with
  | some p, f :: _ => if inStep s && p.slaved && p.skew != 0 then some f.next.toNat else none
  | _, _ => none

/-- A target is an instruction start, or BADTARGET with TRAP_ADDR holding it (R82); a follower takes its leader's. -/
def checkTarget (s : State) (t : Int) : Except Trap Nat :=
  match leaderTarget s with
  | some n => .ok n
  | none =>
    if 0 ≤ t ∧ s.isStart s.cur.1 t.toNat then .ok t.toNat else .error ⟨.badtarget, 0, addrBits t, false⟩

/-- A plain transfer: BR, JMP, JMPI. -/
def transfer (len : Nat) (h : Hdr) (noGuard : Bool) (rs : List Reg) (kind : BitVec 2) (t : State → Int) (s : State) :
    Host.Outcome State Fault Refusal :=
  issue { len := len, hdr := h, noGuard := noGuard, transfer := true, endKind := kind, rs := rs, occ := 3 }
    (fun s => do .ok ⟨s, .jump (← checkTarget s (t s)) kind⟩) s

/-- Displacement of format J in bytes. -/
def disp16 (disp : BitVec 16) : Int := 4 * disp.toInt

/-- BR (R323, R324). -/
def execBr (h : Hdr) (disp : BitVec 16) (s : State) : Host.Outcome State Fault Refusal :=
  transfer 1 h false [] 1 (fun s => targetOf s (disp16 disp)) s
/-- BR, long form (R323). -/
def execBrLong (h : Hdr) (lit : DWord) (s : State) : Host.Outcome State Fault Refusal :=
  transfer 3 h false [] 1 (fun s => targetOf s (lit64 lit)) s
/-- JMP (R346). -/
def execJmp (gap : BitVec 2) (y : Bool) (disp : BitVec 16) (s : State) : Host.Outcome State Fault Refusal :=
  transfer 1 (openHdr gap y) true [] 2 (fun s => targetOf s (disp16 disp)) s
/-- JMP, long form (R346). -/
def execJmpLong (gap : BitVec 2) (y : Bool) (lit : DWord) (s : State) : Host.Outcome State Fault Refusal :=
  transfer 3 (openHdr gap y) true [] 2 (fun s => targetOf s (lit64 lit)) s
/-- JMPI (R346). -/
def execJmpi (h : Hdr) (a : Reg) (s : State) : Host.Outcome State Fault Refusal :=
  transfer 1 h false [a] 2 (fun s => (rv s a).toNat) s

/-! ## Calls and returns (R65 to R67) -/

/-- Field of w7, the link register. -/
def linkReg : Reg := 15

/-- A call to a target (R66, R325): the spill checks, the target, then the link word and the new window. -/
def callTo (len : Nat) (s : State) (t : Int) : Except Trap Done := do
  let x := s.ctx s.cur
  let nb := x.wbase.toNat + x.frame - 8
  if 0xFFFFFFE7 < nb then throw ⟨.wspill, 1, 0, false⟩
  if (Config.stackSize s.tier : Int) < (nb : Int) + 24 - x.vlo.toNat then throw ⟨.wspill, 0, 0, false⟩
  let t ← checkTarget s t
  let link := x.frame * 2 ^ 32 + (pcv s + 4 * len) % 2 ^ 32
  let s := s.deliver s.cur 1 [.entry ((nb + 7) % Config.stackSize s.tier) (BitVec.ofNat 64 link)]
  .ok ⟨s.modCtx s.cur (fun x => { x with wbase := BitVec.ofNat 32 nb, frame := 24 }), .jump t 2⟩

/-- CALL and CALLI at issue (R324, R325). -/
def callNeed (len : Nat) (h : Hdr) (rs : List Reg) : Need :=
  { len := len, hdr := h, transfer := true, endKind := 2, rs := rs, occ := 3 }

/-- CALL (R325). -/
def execCall (h : Hdr) (disp : BitVec 16) (s : State) : Host.Outcome State Fault Refusal :=
  issue (callNeed 1 h []) (fun s => callTo 1 s (targetOf s (disp16 disp))) s
/-- CALL, long form (R325). -/
def execCallLong (h : Hdr) (lit : DWord) (s : State) : Host.Outcome State Fault Refusal :=
  issue (callNeed 3 h []) (fun s => callTo 3 s (targetOf s (lit64 lit))) s
/-- CALLI (R325). -/
def execCalli (h : Hdr) (a : Reg) (s : State) : Host.Outcome State Fault Refusal :=
  issue (callNeed 1 h [a]) (fun s => callTo 1 s (rv s a).toNat) s

/-- Where a return to an address goes on: the return address is that of the word behind the call (R325), and where that is the
SIG word of the call's block it is stepped over (R84; log 10). -/
def behindCall (s : State) (r : Nat) : Nat :=
  let call (n maj : Nat) : Bool := decide (4 * n ≤ r) && (match s.storeWord s.cur.1 (r - 4 * n) with
    | some (w, true) => wordCount w == n && (bits w 9 7).toNat == maj
    | _ => false)
  match s.storeWord s.cur.1 r with
  | some (_, false) => if r % 4 = 0 ∧ (call 1 0x30 ∨ call 1 0x31 ∨ call 3 0x30) then r + 4 else r
  | _ => r

/-- The effect of RET (R66, R374). -/
def returnFrom (s : State) : Except Trap Done := do
  let x := s.ctx s.cur
  let link := (rv s linkReg).toNat
  let fc := nbits link 36 32
  if !frameOk fc || nbits link 63 37 ≠ 0 then throw (.of .illop)
  if x.wbase.toNat + 8 < x.vlo.toNat + fc then throw (.of .wfill)
  if x.wbase.toNat + 8 < fc then throw (.of .wfill)
  let r := nbits link 31 0
  match checkTarget s (behindCall s r) with
  | .error _ => throw (.at_ .badtarget r)
  | .ok t =>
    .ok ⟨s.modCtx s.cur (fun x => { x with wbase := BitVec.ofNat 32 (x.wbase.toNat + 8 - fc), frame := fc }), .jump t 2⟩

/-- RET (R374). -/
def execRet (gap : BitVec 2) (y : Bool) (s : State) : Host.Outcome State Fault Refusal :=
  issue { len := 1, hdr := openHdr gap y, noGuard := true, transfer := true, endKind := 2, rs := [linkReg], occ := 3 }
    returnFrom s

/-- FRAME changed, for ENTER and LEAVE (R66). -/
def setFrame (f : Nat) (s : State) : Except Trap Done :=
  .ok ⟨s.modCtx s.cur (fun x => { x with frame := f }), .next⟩

/-- ENTER, format I (R66, R335): ILLOP for a frame that is none of the five. -/
def execEnter (gap : BitVec 2) (imm : BitVec 11) (s : State) : Host.Outcome State Fault Refusal :=
  issue { len := 1, hdr := gapHdr gap, ill := !frameOk imm.toNat } (setFrame imm.toNat) s
/-- ENTER, format L (R66, R335). -/
def execEnterLong (h : Hdr) (lit : DWord) (s : State) : Host.Outcome State Fault Refusal :=
  issue { len := 3, hdr := h, ill := !frameOk lit.toNat } (setFrame lit.toNat) s
/-- LEAVE (R350). -/
def execLeave (h : Hdr) (s : State) : Host.Outcome State Fault Refusal := issue { len := 1, hdr := h } (setFrame 8) s

/-! ## NOP, HALT, YIELD -/

/-- NOP (R364). -/
def execNop (h : Hdr) (s : State) : Host.Outcome State Fault Refusal :=
  issue { len := 1, hdr := h } (fun s => .ok ⟨s, .next⟩) s

/-- HALT (R344): ILLOP in c0. -/
def execHalt (h : Hdr) (s : State) : Host.Outcome State Fault Refusal :=
  issue { len := 1, hdr := h, transfer := true, endKind := 2, ill := s.cur.2 == 0 } (fun s => do
    blockEnds 1 (pcv s + 4) s
    .ok ⟨s, .halt⟩) s

/-- YIELD (R417). -/
def execYield (h : Hdr) (s : State) : Host.Outcome State Fault Refusal :=
  issue { len := 1, hdr := h } (fun s => .ok ⟨s, .yield⟩) s

/-! ## Repetition (R41 to R44, R371 to R373) -/

/-- A body that a REP refuses: a control instruction, a phase header, a SIG word or an untagged word inside, or the
store's end (R43, R372). `a` is the address of the instruction to look at. -/
def badBody (s : State) (k : Nat) : Nat → Nat → Bool
  | 0, _ => false
  | n + 1, a =>
    match s.storeWord k a with
    | some (w, true) =>
      isHeader w
        || (match decode (s.wordsAt k a) with
            | .ok (i, _) => isControl i
            | .error _ => false)
        || badBody s k n (a + 4 * wordCount w)
    | _ => true

/-- The repetition state that a REP sets. -/
def repState (s : State) (stride nm1l winl : BitVec 5) (winh : Bool) (nm1h : BitVec 5) (km1 : BitVec 3)
    (mask : BitVec 24) : Rep :=
  let win := winl.toNat + (if winh then 32 else 0)
  let start := BitVec.ofNat 32 (s.skipSig s.cur.1 (pcv s + 12))
  { remain := nm1h.toNat * 32 + nm1l.toNat, pos := 0, pass := 0, km1 := km1, mask := mask, stride := stride.toNat
    base := repBase win, size := repSize win, start := start, next := start }

/-- REP (R41, R371): its body is checked before any pass. -/
def execRep (h : Hdr) (stride nm1l winl : BitVec 5) (winh : Bool) (nm1h : BitVec 5) (km1 : BitVec 3)
    (mask : BitVec 24) (s : State) : Host.Outcome State Fault Refusal :=
  issue { len := 3, hdr := h, leader := true
          ill := badBody s s.cur.1 (km1.toNat + 1) (s.skipSig s.cur.1 (pcv s + 12))
            || (match (s.ctx s.cur).rep with
                | some r => r.next == (s.ctx s.cur).pc
                | none => false) }
    (fun s => .ok ⟨s.modCtx s.cur (fun x =>
      { x with rep := some (repState s stride nm1l winl winh nm1h km1 mask) }), .next⟩) s

/-! ## TRAP and ERET (R255, R256, R336, R390) -/

/-- The shared issue of TRAP: not in a superstep, and not by a c0 that is Handling (R256, log 19). -/
def trapNeed (len : Nat) (h : Hdr) (s : State) : Need :=
  { len := len, hdr := h, transfer := true, endKind := 2
    ill := s.cur.2 == 0 && (inStep s || (s.core s.cur.1).ctl.handling.isSome) }

/-- TRAP's request: RESUME is the next instruction, behind the block's SIG word (R390, log 10). TRAP ends its block, whose
SIG word is checked as it issues (R84, log 11). -/
def trapBody (len n : Nat) (s : State) : Except Trap Done := do
  let resume := s.skipSig s.cur.1 (pcv s + 4 * len)
  blockEnds len resume s
  let s' := s.modCtx s.cur (fun x => { x with sig := 0, sigEnd := none })
  .ok ⟨s'.request s.cur (s.issuedWord s.cur) resume n, .moved⟩

/-- TRAP, format I (R256). -/
def execTrap (gap : BitVec 2) (imm : BitVec 11) (s : State) : Host.Outcome State Fault Refusal :=
  issue (trapNeed 1 (gapHdr gap) s) (trapBody 1 imm.toNat) s
/-- TRAP, format L (R256). -/
def execTrapLong (h : Hdr) (lit : DWord) (s : State) : Host.Outcome State Fault Refusal :=
  issue (trapNeed 3 h s) (trapBody 3 lit.toNat) s

/-- ERET (R256, R336): it reads RESUME, so it waits for a store there (R305). -/
def execEret (gap : BitVec 2) (y : Bool) (s : State) : Host.Outcome State Fault Refusal :=
  issue { len := 1, hdr := openHdr gap y, noGuard := true, transfer := true, endKind := 2
          ill := s.cur.2 == 0 && (s.core s.cur.1).ctl.handling.isNone
          priv := if s.cur.2 == 0 then none else some 0
          bytes := match (s.core s.cur.1).ctl.handling with
            | some c => [(slotAddr s.tier c + 12, 4)]
            | none => [] }
    (fun s => do
      blockEnds 1 (pcv s + 4) s
      .ok ⟨← s.eret s.cur.1, .moved⟩) s

end Sys2Proof.Machine
end

