-- ==== Sys2Proof/Machine/Sync.lean ====
section
/-! DEFINITION. Event units: lines and their addresses, team points, the order of one cycle's operations, fires and chains,
and the instructions SLOTA to MUNLK (R223 to R234, R337, R376, R381). -/

namespace Sys2Proof.Machine

/-! ## Names of lines and points (R223) -/

/-- First near address of the event unit. -/
def unitBase : Nat := 0x04000000

/-- Global identity of a line of the cluster of a core. -/
def lineOf (k index : Nat) : Nat := index + tierOf k * 2 ^ 13 + columnOf k * 2 ^ 15
/-- The cluster of a line: tier and column. -/
def lineCluster (l : Nat) : Nat := l / 2 ^ 13
/-- Tier of a line. -/
def lineTier (l : Nat) : Nat := l / 2 ^ 13 % 4
/-- Column of a line. -/
def lineColumn (l : Nat) : Nat := l / 2 ^ 15
/-- The cluster of a core, named as lines name it. -/
def ownCluster (k : Nat) : Nat := tierOf k + 4 * columnOf k

/-- Kinds of blocks. -/
inductive BlockKind where
  | barrier | mutex | event | point
deriving DecidableEq, Repr

/-- What a block's offset names. -/
def blockKind (off : Nat) : Option BlockKind :=
  if off < 0x800 then some .barrier
  else if off < 0xC00 then some .mutex
  else if off < 0x1C00 then some .event
  else if 0x4000 ≤ off ∧ off < 0x7000 then some .point
  else none

/-- The checks of R223, R337, R376 and R381 on an address: alignment, then the blocks that the instruction names. -/
def checkBlock (addr : Nat) (ok : BlockKind → Bool) : Except Trap Unit :=
  if addr % 64 ≠ 0 then .error (.at_ .align addr)
  else if addr < unitBase then .error (.at_ .bankrange addr)
  else match blockKind (addr - unitBase) with
    | some b => if ok b then .ok () else .error (.at_ .bankrange addr)
    | none => .error (.at_ .bankrange addr)

/-! ## Team points (R39, R229) -/

/-- The domain unit of a context at a domain code (R39). -/
def teamOf (q : Nat × Nat) (domain : Nat) : Nat :=
  match domain with
  | 0 => 4 * q.1 + q.2
  | 1 => q.1
  | 2 => leaderOf q.1
  | 3 => ownCluster q.1
  | 4 => columnOf q.1
  | 5 => quadOf q.1
  | _ => 0

/-- The kernel whose launch a context belongs to. -/
def State.launchOf (s : State) (q : Nat × Nat) : Option (Nat × Kernel) :=
  match (if q.2 = 0 then (s.core q.1).ctl.kernel else (s.ctx q).kernel) with
  | some i => (s.kernel i).map (fun k => (i, k))
  | none => none

/-- What an address names for a context. -/
inductive Target where
  /-- its own cluster's line, the root of the point or the line itself -/
  | line (own root : Nat)
  /-- a memory-backed point: the bank it lies in, or none for far memory, and its address -/
  | mem (home : Option Nat) (addr : Nat)
  /-- a level that the launch does not declare -/
  | undeclared
  /-- a free line, or a point that nothing backs -/
  | free
deriving DecidableEq, Repr

/-- A level is declared by the context's launch (R226, R231). -/
def State.declares (s : State) (q : Nat × Nat) (level : Nat) : Bool :=
  match s.launchOf q with
  | some (_, k) => decide (level < k.levels.length)
  | none => false

/-- The point of a level for a context (R229). -/
def State.pointTarget (s : State) (q : Nat × Nat) (level point : Nat) : Target :=
  match s.launchOf q with
  | none => .undeclared
  | some (i, k) =>
    match k.levels[level]? with
    | none => .undeclared
    | some (domain, _) =>
      match k.points.find? (fun b => b.level == level && b.point == point && b.team == teamOf q domain) with
      | none => .free
      | some b =>
        match b.root with
        | none => .mem (if b.mem.getLsbD 63 then some (nbits b.mem.toNat 40 25) else none)
            (if b.mem.getLsbD 63 then Config.bankBase + nbits b.mem.toNat 24 0 else b.mem.toNat)
        | some r =>
          if b.lines.any (fun l => (s.line l).owner != some i) then .free
          else match b.lines.find? (fun l => lineCluster l == ownCluster q.1) with
            | some own => .line own r
            | none => .free

/-- What a block address names for a context. -/
def State.target (s : State) (q : Nat × Nat) (addr : Nat) : Target :=
  let off := addr - unitBase
  if off < 0x4000 then
    let l := lineOf q.1 (off / 64)
    if (s.line l).alloc.isNone then .free else .line l l
  else s.pointTarget q ((off - 0x4000) / 64 / 24) ((off - 0x4000) / 64 % 24)

/-! ## Fires (R233) -/

/-- Ticks of one beat. -/
def beatTicks : Nat := Config.ticksPerBeat
/-- Ticks of a chain hop between two lines: 2 beats, 4 more across quads. -/
def hopTicks (a b : Nat) : Nat :=
  (2 + if lineColumn a / 16 = lineColumn b / 16 then 0 else 4) * beatTicks

/-- The number of a context's wait on a line. -/
def Run.waitsOn (r : Run) (l : Nat) : Option Nat :=
  match r with
  | .gated (.rvwait _ l' n _) => if l' = l then some n else none
  | .gated (.evwait _ l' n) => if l' = l then some n else none
  | .gated (.mlock _ l' n) => if l' = l then some n else none
  | _ => none

/-- The contexts gated on a line, with the numbers of their waits. -/
def State.waiters (s : State) (l : Nat) : List ((Nat × Nat) × Nat) :=
  (s.cores.filter (fun e => ownCluster e.1 == lineCluster l)).flatMap (fun e =>
    [0, 1, 2, 3].filterMap (fun i => (((e.2.ctx i).run.waitsOn l).map (fun n => ((e.1, i), n)))))

/-- A line's fire at a tick reaches the waiters of its cluster one beat later. -/
def State.fireLine (s : State) (l t : Nat) : State :=
  (s.waiters l).foldl (fun s w => s.post (t + beatTicks) (.fireArrival w.1.1 w.1.2 w.2)) s

/-- The point of a kernel that a line backs. -/
def State.pointOf (s : State) (l : Nat) : Option PointBack :=
  match (s.line l).owner with
  | some i => (match s.kernel i with
    | some k => k.points.find? (fun b => b.lines.contains l)
    | none => none)
  | none => none

/-- The root's fire: its own waiters, and the new C on its way to every other line of the team (R229). -/
def State.fireRoot (s : State) (l t : Nat) : State :=
  let s := s.fireLine l t
  match s.pointOf l with
  | none => s
  | some b => (b.lines.filter (fun l' => l' != l)).foldl (fun s l' =>
      s.post (t + hopTicks l l') (.eventChainForward l' l (some (s.line l).c))) s

/-- An arrival takes effect at a line at a tick (R230). -/
def State.arriveAt (s : State) (l t : Nat) : State :=
  let e := s.line l
  if e.count = 0 then s
  else if e.pend = 1 then
    (s.modLine l (fun e => { e with c := e.c + 1, pend := e.count })).fireRoot l t
  else s.modLine l (fun e => { e with pend := e.pend - 1 })

/-- A signal takes effect at a line at a tick: GEN, the waiters, and the message to NEXT, which stops at the line whose
NEXT is the origin (R232). -/
def State.signalAt (s : State) (l origin t : Nat) : State :=
  let s := (s.modLine l (fun e => { e with gen := e.gen + 1 })).fireLine l t
  match (s.line l).next with
  | none => s
  | some n => if n = origin then s else s.post (t + hopTicks l n) (.eventChainForward n origin none)

/-! ## One cycle of an event unit (R227, R233) -/

/-- An operation placed by its cycle and by the order of R233. -/
def unitInsert (o : UnitOp) : List UnitOp → List UnitOp
  | [] => [o]
  | h :: r =>
    if o.at_ < h.at_ ∨ (o.at_ = h.at_ ∧ (o.stage < h.stage ∨ (o.stage = h.stage
        ∧ 4 * o.who.1 + o.who.2 < 4 * h.who.1 + h.who.2))) then o :: h :: r else h :: unitInsert o r

/-- The place of an operation among those of a cycle (R233). -/
def UnitKind.stage : UnitKind → Nat
  | .slotf => 0
  | .slota _ => 1
  | .rvinit | .root _ _ (.init _) => 2
  | .rvarr | .rvarrEng _ | .evsig | .evsigSc _ | .chain _ _ _ | .root _ _ .arrive | .root _ _ (.token _ _) => 3
  | .engArrive | .root _ _ .engine => 4
  | .munlk => 5
  | .rvwait | .evwait | .mlock => 6

/-- An operation put among those of its cycle. -/
def State.addUnit (s : State) (t : Nat) (who : Nat × Nat) (d : Reg) (k : UnitKind) (addr : Nat) (opnd : DWord) : State :=
  { s with units := unitInsert ⟨t, k.stage, who, d, k, addr, opnd⟩ s.units }

/-- An engine's arrival at an address of its command's issuer, after its stamp: in the present cycle of the issuer's tier
(R231). -/
def State.engineArrival (s : State) (q : Nat × Nat) (addr : Nat) : State :=
  s.addUnit (s.now / cyc q.1 * cyc q.1) q 0 .engArrive addr 0

/-- The tick at which the cycle of an operation is over in the tier that owns its line (R227, R233). -/
def UnitOp.over (o : UnitOp) : Nat :=
  o.at_ + Config.cycleTicks (match o.kind with
    | .root l _ _ => lineTier l
    | .chain l _ _ => lineTier l
    | _ => tierOf o.who.1)

/-- The context of an operation still waits for it. -/
def State.unitWaits (s : State) (o : UnitOp) : Bool :=
  match (s.ctx o.who).run with
  | .held (.unitOp due _ _) => due == o.at_ + 6 * cyc o.who.1
  | .gated (.unitOp due _ _) => due == o.at_ + 6 * cyc o.who.1
  | _ => false

/-- The result of an operation, written six cycles after issue (R227). -/
def State.unitResult (s : State) (o : UnitOp) (status : Nat) (value : BitVec 32) : State :=
  if s.unitWaits o then
    s.modCtx o.who (fun x => { x with run := match x.run with
      | .held (.unitOp due d _) => .held (.unitOp due d (syncWord status value))
      | .gated (.unitOp due d _) => .gated (.unitOp due d (syncWord status value))
      | r => r })
  else s

/-- A result whose rule gives no VALUE. -/
def State.unitStatus (s : State) (o : UnitOp) (status : Nat) : State :=
  let (n, s) := s.number
  s.unitResult o status (Config.freeUnitValue n)

/-- An operation must wait: its context is Gated from the cycle after its issue (R227). -/
def State.unitGate (s : State) (o : UnitOp) (w : Wait) : State :=
  if s.unitWaits o then
    s.modCore o.who.1 (fun c =>
      let c := c.modCtx o.who.2 (fun x => { x with run := .gated w })
      { c with ctl := c.ctl.leave o.who.2 (o.at_ + cyc o.who.1) })
  else s

/-- An operation whose result comes back by a numbered reply: its context stays as it is until then. -/
def State.unitAsks (s : State) (o : UnitOp) (num : Nat) : State :=
  if s.unitWaits o then
    s.modCtx o.who (fun x => { x with run := match x.run with
      | .held _ => .held (.reply o.d num)
      | _ => .gated (.reply o.d num) })
  else s

/-- An operation at a line that is not its point's root is forwarded there (R229); its context is held until the root's answer
is back. R229 gives the way to the root and no time for the result: the model lets it come back over the same way, with the
STATUS and VALUE of the root (DESIGN CHOICE, log 48). -/
def State.toRoot (s : State) (o : UnitOp) (own root : Nat) (what : RootOp) : State :=
  let (num, s) := s.number
  let s := match what with
    | .engine => s
    | _ => s.unitAsks o num
  s.post (o.at_ + hopTicks own root) (.rvRootForward root o.who.1 o.who.2 num what)

/-- The root's answer on its way back (R229). -/
def State.fromRoot (s : State) (o : UnitOp) (root num status : Nat) (value : BitVec 32) : State :=
  let back := match s.pointOf root with
    | some b => (match b.lines.find? (fun l => lineCluster l == ownCluster o.who.1) with
      | some own => hopTicks own root
      | none => 2 * beatTicks)
    | none => 2 * beatTicks
  s.answerAt o.who num (ceilTo (cyc o.who.1) (o.at_ + back)) (syncWord status value)

/-- The root's answer where its rule gives no VALUE. -/
def State.rootStatus (s : State) (o : UnitOp) (root num status : Nat) : State :=
  let (n, s) := s.number
  s.fromRoot o root num status (Config.freeUnitValue n)

/-- An operation on a memory-backed point goes to its word (R234): in a bank with the .cluster form, in the wheel's slots (R237);
in HBM with the .device form. Its context is held until wD is written (R376); an engine's arrival holds none (R231). -/
def State.unitMem (s : State) (o : UnitOp) (home : Option Nat) (addr op : Nat) (opnd cmp : DWord) : State :=
  let (num, s) := s.number
  let r : AtomicReq := ⟨o.who.1, o.who.2, num, op, .i64, home, home.isSome, addr, opnd, cmp, (s.part (s.partOf o.who.1)).epoch⟩
  let s := match o.kind with
    | .engArrive => s
    | _ => s.unitAsks o num
  match home with
  | some b => s.toSlot r (o.at_ / cyc o.who.1 + meshLatency o.who.1 b)
  | none =>
    let (l, s) := s.draw (cyc o.who.1)
    s.post (o.at_ + cyc o.who.1 + l) (.deviceAtomicReply r)

/-- Every context gated on a line becomes Ready with FREED, and the line is free (R228); with a point's line, those gated
on the point's other lines too. -/
def State.freeLine (s : State) (l t : Nat) : State :=
  let all := match s.pointOf l with
    | some b => b.lines
    | none => [l]
  let s := (all.flatMap s.waiters).foldl (fun s w =>
    let (n, s) := s.number
    let d : Reg := match (s.ctx w.1).run with
      | .gated (.rvwait d _ _ _) => d
      | .gated (.evwait d _ _) => d
      | .gated (.mlock d _ _) => d
      | _ => 0
    s.finishAt w.1 (scalarAct (tierOf w.1.1) (s.ctx w.1) d (syncWord 3 (Config.freeUnitValue n))) t) s
  s.modLine l (fun _ => .reset)

/-- The lines of a kind: first index and one past the last (R223). -/
def kindRange (kind : BitVec 2) : Nat × Nat := if kind = 0 then (0, 32) else if kind = 1 then (32, 48) else (48, 112)

/-- The lowest-numbered free line of a kind in a core's cluster (R228). -/
def State.freeLineOf (s : State) (k : Nat) (kind : BitVec 2) : Option Nat :=
  ((List.range ((kindRange kind).2 - (kindRange kind).1)).map (fun i => (kindRange kind).1 + i)).find?
    (fun i => (s.line (lineOf k i)).alloc.isNone)

/-- NEXT of a chained event line: none for a zero operand; it must name an event line of the partition (R228). -/
def State.chainTarget (s : State) (k : Nat) (wa : DWord) : Option (Option Nat) :=
  let n := nbits wa.toNat 20 0
  if wa = 0 then some none
  else if nbits n 12 7 ≠ 0 ∨ n % 128 < 48 ∨ 112 ≤ n % 128 ∨ partOfQuad s.dev.mode (lineColumn n / 16) ≠ s.partOf k then none
  else some (some n)

/-- An operation at a line or point that its rule rejects: the status. -/
def Target.refusal : Target → Option Nat
  | .undeclared => some 5
  | .free => some 3
  | _ => none

/-- RVARR.eng attaches an arrival to a command; a command whose stamp is written arrives at once (R231). -/
def State.attachArrival (s : State) (q : Nat × Nat) (n addr : Nat) : State :=
  let col := columnOf q.1
  match (s.col col).slots.find? (fun e => match e.2 with
      | some sl => sl.num == n && !sl.done
      | none => false) with
  | some (i, some sl) =>
    s.modCol col (fun c => { c with slots := sset none c.slots i (some { sl with arrive := sl.arrive ++ [addr] }) })
  | _ => s.engineArrival q addr

/-- The operation of a cycle takes effect (R228 to R233). -/
def State.applyUnit (s : State) (o : UnitOp) : State :=
  let k := o.who.1
  let me := 4 * o.who.1 + o.who.2
  let tg := s.target o.who o.addr
  match o.kind with
  | .slotf =>
    let l := lineOf k ((o.addr - unitBase) / 64)
    if (s.line l).alloc.isNone then s.unitStatus o 3 else (s.freeLine l o.at_).unitStatus o 0
  | .slota kind =>
    (match (if kind = 2 then s.chainTarget k o.opnd else some none) with
    | none => s.unitStatus o 5
    | some next => match s.freeLineOf k kind with
      | none => s.unitResult o 2 0
      | some i =>
        (s.modLine (lineOf k i) (fun _ => { EvLine.reset with alloc := some (s.partOf k), next := next })).unitResult o 0
          (BitVec.ofNat 32 (unitBase + 64 * i)))
  | .rvinit =>
    (match tg with
    | .line own root =>
      if o.opnd = 0 ∨ 65535 < o.opnd.toNat then s.unitStatus o 5
      else
        let n := BitVec.ofNat 16 o.opnd.toNat
        if own ≠ root then s.toRoot o own root (.init n)
        else if (s.line root).count ≠ 0 then s.unitStatus o 4
        else (s.unitStatus o 0).modLine root (fun e => { e with count := n, pend := n })
    | .mem home addr => s.unitMem o home addr opInit o.opnd 0
    | t => s.unitStatus o (t.refusal.getD 3))
  | .rvarr =>
    (match tg with
    | .line own root =>
      if own ≠ root then s.toRoot o own root .arrive
      else if (s.line root).count = 0 then s.unitStatus o 5
      else (s.unitResult o 0 ((s.line own).c.setWidth 32)).arriveAt root o.at_
    | .mem home addr => s.unitMem o home addr opArrive o.opnd 0
    | t => s.unitStatus o (t.refusal.getD 3))
  | .rvarrEng cmd =>
    (match tg, cmd with
    | .undeclared, _ => s.unitStatus o 5
    | .free, _ => s.unitStatus o 3
    | _, none => s.unitStatus o 5
    | .line own root, some n =>
      if own ≠ root then s.toRoot o own root (.token n o.addr)
      else if (s.line root).count = 0 then s.unitStatus o 5
      else (s.unitResult o 0 ((s.line own).c.setWidth 32)).attachArrival o.who n o.addr
    | .mem home addr, some n => s.unitMem o home addr opToken (BitVec.ofNat 64 o.addr) (BitVec.ofNat 64 (n + 1)))
  | .rvwait =>
    (match tg with
    | .line own _ =>
      let c := (s.line own).c
      let d := c - o.opnd.setWidth 16
      if d = 0 then
        let (num, s) := s.number
        s.unitGate o (.rvwait o.d own num (o.opnd.setWidth 16))
      else s.unitResult o (if d = 1 then 0 else 1) (c.setWidth 32)
    | .mem home addr => s.unitMem o home addr opPhase o.opnd 0
    | t => s.unitStatus o (t.refusal.getD 3))
  | .evsig =>
    (match tg with
    | .line own _ =>
      let s := s.signalAt own own o.at_
      s.unitResult o 0 (s.line own).gen
    | _ => s.unitStatus o 3)
  | .evwait =>
    (match tg with
    | .line own _ =>
      if (s.line own).gen ≠ o.opnd.setWidth 32 then s.unitResult o 0 (s.line own).gen
      else
        let (num, s) := s.number
        s.unitGate o (.evwait o.d own num)
    | _ => s.unitStatus o 3)
  | .mlock =>
    (match tg with
    | .line own _ =>
      if (s.line own).holder = none ∨ (s.line own).holder = some me then
        (s.modLine own (fun e => { e with holder := some me })).unitStatus o 0
      else
        let (num, s) := s.number
        s.unitGate o (.mlock o.d own num)
    | _ => s.unitStatus o 3)
  | .munlk =>
    (match tg with
    | .line own _ =>
      if (s.line own).holder ≠ some me then s.unitStatus o 6
      else
        let ws := s.waiters own
        let s := s.unitStatus o 0
        let (n, s) := s.number
        match ws[Config.freeWaiter n % ws.length]? with
        | none => s.modLine own (fun e => { e with holder := none })
        | some w =>
          (s.modLine own (fun e => { e with holder := some (4 * w.1.1 + w.1.2) })).post (o.at_ + beatTicks)
            (.fireArrival w.1.1 w.1.2 w.2)
    | _ => s.unitStatus o 3)
  | .root l num what =>
    let e := s.line l
    (match what with
    | .engine => if e.alloc.isSome then s.arriveAt l o.at_ else s
    | .init n =>
      if e.alloc.isNone then s.rootStatus o l num 3
      else if e.count ≠ 0 then s.rootStatus o l num 4
      else (s.rootStatus o l num 0).modLine l (fun e => { e with count := n, pend := n })
    | .arrive =>
      if e.alloc.isNone then s.rootStatus o l num 3
      else if e.count = 0 then s.rootStatus o l num 5
      else (s.fromRoot o l num 0 (e.c.setWidth 32)).arriveAt l o.at_
    | .token cmd addr =>
      if e.alloc.isNone then s.rootStatus o l num 3
      else if e.count = 0 then s.rootStatus o l num 5
      else (s.fromRoot o l num 0 (e.c.setWidth 32)).attachArrival o.who cmd addr)
  | .chain l origin c =>
    if (s.line l).alloc.isNone then s
    else (match c with
      | some v => (s.modLine l (fun e => { e with c := v })).fireLine l o.at_
      | none => s.signalAt l origin o.at_)
  | .evsigSc num =>
    (match tg with
    | .line own _ =>
      let s := s.signalAt own own o.at_
      s.answerIn o.who num o.over (syncWord 0 (s.line own).gen)
    | _ =>
      let (n, s) := s.number
      s.answerIn o.who num o.over (syncWord 3 (Config.freeUnitValue n)))
  | .engArrive =>
    (match tg with
    | .line own root => if own = root then s.arriveAt root o.at_ else s.toRoot o own root .engine
    | .mem home addr => s.unitMem o home addr opArrive o.opnd 0
    | _ => s)

/-- The operations of the cycles that are over at a tick take effect in their order; `fuel` bounds their number. -/
def State.flushN (s : State) (t : Nat) : Nat → State
  | 0 => s
  | n + 1 => match s.units.find? (fun o => decide (o.over ≤ t)) with
    | none => s
    | some o => State.flushN (State.applyUnit { s with units := s.units.erase o } o) t n

/-- Event units brought up to a tick. -/
def State.flushUnits (s : State) (t : Nat) : State := s.flushN t (4 * s.units.length + 16)

/-- The tick at which the first cycle of an event unit with operations is over. -/
def State.unitsOver (s : State) : Option Nat := s.units.foldl (fun (m : Option Nat) o => match m with
  | none => some o.over
  | some t => some (min t o.over)) none

/-- What an operation on a memory-backed point gives once it is performed (R231, R234): the word for wD, none for a look that finds
the phase it waits on; the token of RVARR.eng attaches its arrival. Another atomic gives what it read. -/
def State.pointResult (s : State) (r : AtomicReq) (v : DWord) : Option DWord × State :=
  if r.op = opPhase then
    let d := (v.toNat + 65536 - r.opnd.toNat % 65536) % 65536
    (if d = 0 then none else some (syncWord (if d = 1 then 0 else 1) (v.setWidth 32)), s)
  else (some v, if r.op = opToken ∧ v.toNat / 2 ^ 32 = 0 then s.attachArrival (r.core, r.ctx) (r.cmp.toNat - 1) r.opnd.toNat else s)

/-- A context waits for the reply of this request. -/
def State.asks (s : State) (r : AtomicReq) : Bool := ((s.ctx (r.core, r.ctx)).awaits r.num).isSome

/-- A slot that ends is taken from the bank. -/
def State.closeSlot (s : State) (home unit : Nat) : State :=
  (s.modCore home (fun c => c.endSlot (tierOf home) s.now)).watch home unit

/-- A slot that a release skips in its last cycle: the writes behind it take effect, and the request goes to its first slot after
the superstep (R33, R237). -/
def State.dropSlot (s : State) (home : Nat) (r : AtomicReq) : State :=
  let s := s.modCore home (fun c =>
    let h := c.ctl.behind
    h.foldl (fun c e => c.writeBy (tierOf home) s.now none e)
      { c with ctl := { c.ctl with behind := [], rmw := c.ctl.rmw.filter (fun e => e.who != r.core) } })
  (s.watch home (r.addr / 8)).toSlot r (s.now / cyc home + 1)

/-- ATOMIC_SLOT (R236, R237): at its first cycle the slot is opened, unless the bank skips it or another context of the
core has it; at its last cycle, with the writes of that cycle held too, the operation is performed, unless a superstep was released
in the meantime. A look at a memory-backed point's phase is repeated until it moves on (R234). -/
def execAtomicSlot (s : State) : Host.Outcome State Fault Refusal :=
  match s.event with
  | some (.atomicSlot r) =>
    .next (match r.home with
      | none => s
      | some home =>
        let tk := cyc home
        let mine := (s.core home).ctl.rmw.filter (fun e => e.who == r.core && decide (s.now ≤ e.last))
        if mine.any (fun e => e.last == s.now) then
          if s.skips home then s.dropSlot home r
          else
            let (res, s) := (s.settle home s.now).performRmw home r
            let s := s.closeSlot home (r.addr / 8)
            let back := s.now + tk + (if r.peer then meshLatency home r.core * tk else 0)
            match res with
            | .ok v =>
              (match s.pointResult r v with
                | (some v, s) => if r.peer then s.post back (.clusterAtomicReply r.core r.ctx r.num none v)
                    else s.answerAt (r.core, r.ctx) r.num back v
                | (none, s) => if s.asks r then s.toSlot r (s.now / tk + 1 + 2 * meshLatency home r.core) else s)
            | .error tr =>
              if r.peer then s.post back (.clusterAtomicReply r.core r.ctx r.num (some tr.imprec) tr.addr)
              else s.answerTrap (r.core, r.ctx) r.num tr
        else if s.skips home ∨ mine ≠ [] then s.toSlot r (s.now / tk + 1)
        else
          (s.modCtl home (fun c => { c with rmw := c.rmw ++ [⟨s.now, s.now + 2 * tk, r.addr / 8, r.core⟩] })).post
            (s.now + 2 * tk) (.atomicSlot r))
  | _ => .fault .notDue

/-- The word of a memory-backed point in HBM, which the gaffer names by its physical address: no translation stands before it
(R229, R234). -/
def State.pointRmw (s : State) (r : AtomicReq) : FarRes DWord × State :=
  if s.dev.badFar r.addr 8 then (.fault tEcc, s)
  else
    let (k, s) := s.number
    let (v, res) := rmwOp r.op r.ty (leNat (s.dev.readFar r.addr 8)) r.opnd r.cmp (Config.freeUnitValue k)
    (.ok res, s.writePhys r.addr (leBytes 8 v))

/-- DEVICE_ATOMIC_REPLY (R211, R236, R271): behind the context's earlier far accesses to the line the operation is performed,
whether or not its context still waits (R307), and returns; a look at a memory-backed point's phase is repeated until it moves
on (R234). -/
def execDeviceAtomicReply (s : State) : Host.Outcome State Fault Refusal :=
  match s.event with
  | some (.deviceAtomicReply r) =>
    .next (
      let part := s.partOf r.core
      if (s.part part).epoch ≠ r.epoch then s
      else
        let ev : Event := .deviceAtomicReply r
        let q := (r.core, r.ctx)
        let point := decide (opArrive ≤ r.op)
        if !point ∧ s.lineBusy q r.addr ev then s.putOff (s.now + cyc r.core) ev
        else match (if point then s.pointRmw r else s.farRmw part (columnOf r.core) r ev) with
        | (.wait, s) => s
        | (.fault t, s) => (s.forget ev).answerTrap q r.num (farTrap t (BitVec.ofNat 64 r.addr))
        | (.ok v, s) =>
          match (s.forget ev).pointResult r v with
          | (some v, s) => s.answer q r.num v
          | (none, s) =>
            if s.asks r then
              let (l, s) := s.draw (cyc r.core)
              s.post (s.now + l) ev
            else s)
  | _ => .fault .notDue

/-! ## The units' own steps -/

/-- The first tick of the cycle under way in a line's tier. -/
def State.lineCycle (s : State) (l : Nat) : Nat :=
  s.now / Config.cycleTicks (lineTier l) * Config.cycleTicks (lineTier l)

/-- RV_ROOT_FORWARD (R229): the operation joins those of the root's cycle. -/
def execRvRootForward (s : State) : Host.Outcome State Fault Refusal :=
  match s.event with
  | some (.rvRootForward l k c num what) => .next (s.addUnit (s.lineCycle l) (k, c) 0 (.root l num what) 0 0)
  | _ => .fault .notDue

/-- EVENT_CHAIN_FORWARD (R228, R229, R232, R233): a team point's new C, or an event message, takes its place among the signals
of the line's cycle; a free line drops it. A message has no issuing core or context: it comes first among the signals of its cycle
(DESIGN CHOICE, log 60). -/
def execEventChainForward (s : State) : Host.Outcome State Fault Refusal :=
  match s.event with
  | some (.eventChainForward l origin c) =>
    .next (s.addUnit (s.lineCycle l) (0, 0) 0 (.chain l origin c) 0 0)
  | _ => .fault .notDue

/-- FIRE_ARRIVAL (R233, R376): the waiter is Ready in the next cycle, with its line's state as it stands. -/
def execFireArrival (s : State) : Host.Outcome State Fault Refusal :=
  match s.event with
  | some (.fireArrival k c num) =>
    .next (
      let q := (k, c)
      let fin (d : Reg) (v : BitVec 32) (s : State) : State := s.finish q (scalarAct (tierOf k) (s.ctx q) d (syncWord 0 v))
      match (s.ctx q).run with
      | .gated (.rvwait d l n _) => if n = num then fin d ((s.line l).c.setWidth 32) s else s
      | .gated (.evwait d l n) => if n = num then fin d (s.line l).gen s else s
      | .gated (.mlock d _ n) => if n = num then
          let (i, s) := s.number
          fin d (Config.freeUnitValue i) s
        else s
      | _ => s)
  | _ => .fault .notDue

/-! ## The instructions -/

/-- THE ISSUE OF AN EVENT-UNIT INSTRUCTION (R225, R227): its address is checked, and it takes effect at the end of the
cycle; the context is held until wD is written six cycles after issue. One that releases waits at issue until the accesses that
R220 orders before it are performed (DEDUCED, log 47). -/
def unitIssue (h : Hdr) (d : Reg) (rs : List Reg) (check : State → Except Trap Unit) (k : State → UnitKind)
    (addr opnd : State → DWord) (s : State) (release : State → Bool := fun _ => false) : Host.Outcome State Fault Refusal :=
  issue { len := 3, hdr := h, rs := rs, rd := [d], ill := inStep s }
    (fun s => do
      check s
      if release s then .ok ⟨s, .again (s.now + cyc s.cur.1)⟩ else
      .ok ⟨s.addUnit s.now s.cur d (k s) (addr s).toNat (opnd s), .hold (.unitOp (s.now + 6 * cyc s.cur.1) d 0)⟩) s

/-- Blocks that RVINIT, RVARR and RVWAIT name (R376). -/
def pointBlock (b : BlockKind) : Bool := b == .barrier || b == .point

/-- SLOTA (R228, R381). -/
def execSlota (h : Hdr) (d a : Reg) (kind : BitVec 2) (s : State) : Host.Outcome State Fault Refusal :=
  unitIssue h d [a] (fun _ => .ok ()) (fun _ => .slota kind) (fun _ => BitVec.ofNat 64 unitBase) (fun s => rv s a) s
/-- SLOTF (R228, R381). -/
def execSlotf (h : Hdr) (d a : Reg) (s : State) : Host.Outcome State Fault Refusal :=
  unitIssue h d [a] (fun s => checkBlock (rv s a).toNat (fun b => b != .point)) (fun _ => .slotf) (fun s => rv s a)
    (fun _ => 0) s
/-- RVINIT (R230). -/
def execRvinit (h : Hdr) (d a b : Reg) (s : State) : Host.Outcome State Fault Refusal :=
  unitIssue h d [a, b] (fun s => checkBlock (rv s a).toNat pointBlock) (fun _ => .rvinit) (fun s => rv s a)
    (fun s => rv s b) s
/-- RVARR (R230). -/
def execRvarr (h : Hdr) (d a : Reg) (s : State) : Host.Outcome State Fault Refusal :=
  unitIssue h d [a] (fun s => checkBlock (rv s a).toNat pointBlock) (fun _ => .rvarr) (fun s => rv s a) (fun _ => 0) s
    (fun s => s.ownOut s.cur)
/-- RVARR.eng (R231): the latest earlier engine command of the context, unless it carries RVA. -/
def execRvarrEng (h : Hdr) (d a : Reg) (s : State) : Host.Outcome State Fault Refusal :=
  unitIssue h d [a] (fun s => checkBlock (rv s a).toNat pointBlock)
    (fun s => .rvarrEng (match (s.ctx s.cur).lastCmd with
      | some (n, false) => some n
      | _ => none)) (fun s => rv s a) (fun _ => 0) s
/-- RVWAIT (R230). -/
def execRvwait (h : Hdr) (d a b : Reg) (s : State) : Host.Outcome State Fault Refusal :=
  unitIssue h d [a, b] (fun s => checkBlock (rv s a).toNat pointBlock) (fun _ => .rvwait) (fun s => rv s a)
    (fun s => rv s b) s
/-- EVSIG and EVSIG.sc (R221, R232, R337). -/
def execEvsig (h : Hdr) (d a : Reg) (sc : Bool) (s : State) : Host.Outcome State Fault Refusal :=
  if sc then
    issue { len := 3, hdr := h, rs := [a], rd := [d], ill := inStep s }
      (fun s => do
        checkBlock (rv s a).toNat (fun b => b == .event)
        let (num, s') := s.number
        .ok ⟨s'.issueSc num d (.evsig (rv s a).toNat), .hold (.reply d num)⟩) s
  else
    unitIssue h d [a] (fun s => checkBlock (rv s a).toNat (fun b => b == .event)) (fun _ => .evsig) (fun s => rv s a)
      (fun _ => 0) s (fun s => s.dataOut s.cur)
/-- EVWAIT (R232). -/
def execEvwait (h : Hdr) (d a b : Reg) (s : State) : Host.Outcome State Fault Refusal :=
  unitIssue h d [a, b] (fun s => checkBlock (rv s a).toNat (fun b => b == .event)) (fun _ => .evwait) (fun s => rv s a)
    (fun s => rv s b) s
/-- MLOCK (R232). -/
def execMlock (h : Hdr) (d a : Reg) (s : State) : Host.Outcome State Fault Refusal :=
  unitIssue h d [a] (fun s => checkBlock (rv s a).toNat (fun b => b == .mutex)) (fun _ => .mlock) (fun s => rv s a)
    (fun _ => 0) s
/-- MUNLK (R232). -/
def execMunlk (h : Hdr) (d a : Reg) (s : State) : Host.Outcome State Fault Refusal :=
  unitIssue h d [a] (fun s => checkBlock (rv s a).toNat (fun b => b == .mutex)) (fun _ => .munlk) (fun s => rv s a)
    (fun _ => 0) s (fun s => s.dataOut s.cur)

end Sys2Proof.Machine
end

