-- ==== Sys2Proof/Machine/Vector.lean ====
section
/-! DEFINITION. The vector instructions of majors 0x62 and 0x63 but VKER (R391 to R412). -/

namespace Sys2Proof.Machine

/-! ## Shared shapes -/

/-- FTZ of the issuing context (R92). -/
def ftzv (s : State) : Bool := (s.ctx s.cur).ftz

/-- A vector result with the flags of its lanes (R95). -/
def vecActs (d : VecReg) (v : Line) (f : FlagSet) : List Act :=
  if f = 0 then [.vec d.toNat v] else [.vec d.toNat v, .orFlags f]

/-- Lanes of a result packed, with their flags. -/
def lanesActs (d : VecReg) (w : Nat) (rs : List (Res Nat)) : List Act :=
  vecActs d (packLanes w (collect rs).1) (collect rs).2

/-- A vector instruction whose results, at one latency, depend on the registers it reads. -/
def vectorOp (h : Hdr) (tier : Option (BitVec 2)) (rs rd : List Reg) (vs : List VecReg) (lat occ : Nat)
    (f : State → List Act) (s : State) : Host.Outcome State Fault Refusal :=
  issue { len := 3, hdr := h, tier := tier, rs := rs, rd := rd, vs := vs, unit := some .vector, occ := occ }
    (fun s => done s lat (f s)) s

/-- A lane as a value, under FTZ (R92). -/
def laneVal (ftz : Bool) (ty : Ty) (x : Nat) : FVal := (fmtOf ty).decode (ftzIn ftz ty x)

/-- An elementwise form of one source. -/
def lanes1 (h : Hdr) (tier : Option (BitVec 2)) (d a : VecReg) (w lat occ : Nat) (f : Bool → Nat → Res Nat)
    (s : State) : Host.Outcome State Fault Refusal :=
  vectorOp h tier [] [] [a] lat occ (fun s => lanesActs d w ((lanesOf w (vv s a)).map (f (ftzv s)))) s

/-- An elementwise form of two sources. -/
def lanes2 (h : Hdr) (tier : Option (BitVec 2)) (d a b : VecReg) (w lat occ : Nat) (f : Bool → Nat → Nat → Res Nat)
    (s : State) : Host.Outcome State Fault Refusal :=
  vectorOp h tier [] [] [a, b] lat occ
    (fun s => lanesActs d w (List.zipWith (f (ftzv s)) (lanesOf w (vv s a)) (lanesOf w (vv s b)))) s

/-- An elementwise form of three sources. -/
def lanes3 (h : Hdr) (tier : Option (BitVec 2)) (d a b c : VecReg) (w lat occ : Nat)
    (f : Bool → Nat → Nat → Nat → Res Nat) (s : State) : Host.Outcome State Fault Refusal :=
  vectorOp h tier [] [] [a, b, c] lat occ
    (fun s => lanesActs d w ((List.range (512 / w)).map (fun l =>
      f (ftzv s) (lane w (vv s a) l) (lane w (vv s b) l) (lane w (vv s c) l)))) s

/-- Latency of a form by its type: floats, integers (R392). -/
def latFI (ty : Ty) (f i : Nat) : Nat := if ty.isF then f else i

/-- An arithmetic form of two sources over floats and integers (R393). -/
def arith2 (fop : Fmt → FVal → FVal → Res Nat) (iop : Int → Int → Int) (ty : Ty) (sat : Bool) (ftz : Bool)
    (a b : Nat) : Res Nat :=
  if ty.isF then ftzOut ftz ty (fop (fmtOf ty) (laneVal ftz ty a) (laneVal ftz ty b))
  else ⟨intRes (Ty.signed ty) sat ty.width (iop (intOf (Ty.signed ty) ty.width a) (intOf (Ty.signed ty) ty.width b)), 0⟩

/-- A float form of one source. -/
def float1 (fop : Fmt → FVal → Res Nat) (ty : Ty) (ftz : Bool) (a : Nat) : Res Nat :=
  ftzOut ftz ty (fop (fmtOf ty) (laneVal ftz ty a))

/-- VMIN or VMAX of two lanes (R94). -/
def minMaxLane (isMax : Bool) (ty : Ty) (ftz : Bool) (a b : Nat) : Res Nat :=
  if ty.isF then minMaxF (fmtOf ty) isMax (ftzIn ftz ty a) (ftzIn ftz ty b)
  else
    let x := intOf (Ty.signed ty) ty.width a
    let y := intOf (Ty.signed ty) ty.width b
    ⟨if (if isMax then decide (x < y) else decide (y < x)) then b else a, 0⟩

/-! ## Elementwise arithmetic (R393, R394) -/

/-- VADD (R393). -/
def execVadd (h : Hdr) (d a b : VecReg) (ty : Ty) (rnd : Rnd) (sat : Bool) (tier : Option (BitVec 2)) (s : State) :
    Host.Outcome State Fault Refusal :=
  lanes2 h tier d a b ty.width (latFI ty 4 2) 1 (arith2 (fun f => addV f rnd) (· + ·) ty sat) s
/-- VSUB (R393). -/
def execVsub (h : Hdr) (d a b : VecReg) (ty : Ty) (rnd : Rnd) (sat : Bool) (tier : Option (BitVec 2)) (s : State) :
    Host.Outcome State Fault Refusal :=
  lanes2 h tier d a b ty.width (latFI ty 4 2) 1
    (arith2 (fun f x y => addV f rnd x y.negate) (· - ·) ty sat) s
/-- VMUL (R393). -/
def execVmul (h : Hdr) (d a b : VecReg) (ty : Ty) (rnd : Rnd) (sat : Bool) (tier : Option (BitVec 2)) (s : State) :
    Host.Outcome State Fault Refusal :=
  lanes2 h tier d a b ty.width (latFI ty 4 3) 1 (arith2 (fun f => mulV f rnd) (· * ·) ty sat) s

/-- VFMA and VFMS (R393). -/
def fmaLane (minus : Bool) (ty : Ty) (rnd : Rnd) (ftz : Bool) (a b c : Nat) : Res Nat :=
  let z := laneVal ftz ty c
  ftzOut ftz ty (fmaV (fmtOf ty) rnd (laneVal ftz ty a) (laneVal ftz ty b) (if minus then z.negate else z))
/-- VFMA (R393). -/
def execVfma (h : Hdr) (d a b : VecReg) (ty : Ty) (rnd : Rnd) (tier : Option (BitVec 2)) (c : VecReg) (s : State) :
    Host.Outcome State Fault Refusal := lanes3 h tier d a b c ty.width 4 1 (fmaLane false ty rnd) s
/-- VFMS (R393). -/
def execVfms (h : Hdr) (d a b : VecReg) (ty : Ty) (rnd : Rnd) (tier : Option (BitVec 2)) (c : VecReg) (s : State) :
    Host.Outcome State Fault Refusal := lanes3 h tier d a b c ty.width 4 1 (fmaLane true ty rnd) s

/-- VNEG and VABS of a lane: bit operations on floats (R393). -/
def negLane (ty : Ty) (sat : Bool) (a : Nat) : Res Nat :=
  if ty.isF then ⟨(a + (fmtOf ty).signBit) % 2 ^ ty.width, 0⟩ else ⟨intRes true sat ty.width (-(sint ty.width a)), 0⟩
/-- VABS of a lane. -/
def absLane (ty : Ty) (sat : Bool) (a : Nat) : Res Nat :=
  if ty.isF then ⟨a % (fmtOf ty).signBit, 0⟩ else ⟨intRes true sat ty.width (sint ty.width a).natAbs, 0⟩
/-- VNEG (R393). -/
def execVneg (h : Hdr) (d a : VecReg) (ty : Ty) (sat : Bool) (tier : Option (BitVec 2)) (s : State) :
    Host.Outcome State Fault Refusal := lanes1 h tier d a ty.width (latFI ty 1 2) 1 (fun _ => negLane ty sat) s
/-- VABS (R393). -/
def execVabs (h : Hdr) (d a : VecReg) (ty : Ty) (sat : Bool) (tier : Option (BitVec 2)) (s : State) :
    Host.Outcome State Fault Refusal := lanes1 h tier d a ty.width (latFI ty 1 2) 1 (fun _ => absLane ty sat) s
/-- VMIN (R393). -/
def execVmin (h : Hdr) (d a b : VecReg) (ty : Ty) (tier : Option (BitVec 2)) (s : State) :
    Host.Outcome State Fault Refusal := lanes2 h tier d a b ty.width (latFI ty 4 2) 1 (minMaxLane false ty) s
/-- VMAX (R393). -/
def execVmax (h : Hdr) (d a b : VecReg) (ty : Ty) (tier : Option (BitVec 2)) (s : State) :
    Host.Outcome State Fault Refusal := lanes2 h tier d a b ty.width (latFI ty 4 2) 1 (minMaxLane true ty) s
/-- VDIV (R393). -/
def execVdiv (h : Hdr) (d a b : VecReg) (ty : Ty) (rnd : Rnd) (tier : Option (BitVec 2)) (s : State) :
    Host.Outcome State Fault Refusal :=
  lanes2 h tier d a b ty.width 14 4 (arith2 (fun f => divV f rnd) (fun x _ => x) ty false) s
/-- VSQRT (R393). -/
def execVsqrt (h : Hdr) (d a : VecReg) (ty : Ty) (rnd : Rnd) (tier : Option (BitVec 2)) (s : State) :
    Host.Outcome State Fault Refusal := lanes1 h tier d a ty.width 14 4 (float1 (fun f => sqrtV f rnd) ty) s
/-- VRCP (R394). -/
def execVrcp (h : Hdr) (d a : VecReg) (ty : Ty) (rnd : Rnd) (tier : Option (BitVec 2)) (s : State) :
    Host.Outcome State Fault Refusal := lanes1 h tier d a ty.width 8 1 (float1 (fun f => rcpV f rnd) ty) s
/-- VRSQ (R394). -/
def execVrsq (h : Hdr) (d a : VecReg) (ty : Ty) (rnd : Rnd) (tier : Option (BitVec 2)) (s : State) :
    Host.Outcome State Fault Refusal := lanes1 h tier d a ty.width 8 1 (float1 (fun f => rsqV f rnd) ty) s

/-! ## Exponent forms and conversions (R108 to R111, R402, R403) -/

/-- VEXP2F (R111, R403). -/
def execVexp2f (h : Hdr) (d a : VecReg) (ty : Ty) (tier : Option (BitVec 2)) (s : State) :
    Host.Outcome State Fault Refusal := lanes1 h tier d a ty.width 6 1 (float1 (fun _ => exp2f) ty) s
/-- VRNDI (R110, R403). -/
def execVrndi (h : Hdr) (d a : VecReg) (ty : Ty) (rnd : Rnd) (tier : Option (BitVec 2)) (s : State) :
    Host.Outcome State Fault Refusal := lanes1 h tier d a ty.width 4 1 (float1 (fun f => rndi f rnd) ty) s
/-- VINSX (R108, R403). -/
def execVinsx (h : Hdr) (d a b : VecReg) (ty : Ty) (rnd : Rnd) (sat : Bool) (tier : Option (BitVec 2)) (s : State) :
    Host.Outcome State Fault Refusal :=
  lanes2 h tier d a b ty.width 4 1
    (fun ftz x n => ftzOut ftz ty (insx (fmtOf ty) rnd sat (laneVal ftz ty x) (sint ty.width n))) s
/-- VEXTX (R109, R403). -/
def execVextx (h : Hdr) (d a : VecReg) (ty : Ty) (tier : Option (BitVec 2)) (s : State) :
    Host.Outcome State Fault Refusal :=
  lanes1 h tier d a ty.width 4 1 (fun ftz x => extx ty.width (laneVal ftz ty x)) s

/-- One converted lane, under FTZ on its float side (R92, R96). -/
def cvtLane (dst src : Ty) (rnd : Rnd) (sat ftz : Bool) (x : Nat) : Res Nat :=
  ftzOut ftz dst (convert dst src rnd sat (ftzIn ftz src x))

/-- VCVT (R402): a narrowing conversion merges into part PART, a widening one reads it. -/
def execVcvt (h : Hdr) (d a : VecReg) (ty ty2 : Ty) (rnd : Rnd) (sat : Bool) (tier : Option (BitVec 2))
    (part : BitVec 2) (s : State) : Host.Outcome State Fault Refusal :=
  let wt := ty.width
  let wf := ty2.width
  let n := 512 / max wt wf
  vectorOp h tier [] [] (if wt < wf then [a, d] else [a]) 4 1
    (fun s =>
      let rs := (List.range n).map (fun l =>
        cvtLane ty ty2 rnd sat (ftzv s) (lane wf (vv s a) (if wf < wt then n * part.toNat + l else l)))
      let (vs, f) := collect rs
      if wt < wf then vecActs d (mergeLanes wt (vv s d) (n * part.toNat) vs) f else vecActs d (packLanes wt vs) f) s

/-! ## Comparison, selection, bits, shifts -/

/-- VCMP of two lanes (R94, R399). -/
def cmpLane (ty : Ty) (cond : Nat) (ftz : Bool) (a b : Nat) : Res Bool :=
  if ty.isF then cmpF cond (laneVal ftz ty a) (laneVal ftz ty b)
  else
    let x := intOf (Ty.signed ty) ty.width a
    let y := intOf (Ty.signed ty) ty.width b
    ⟨match cond with
      | 0 => decide (x = y)
      | 1 => decide (x ≠ y)
      | 2 => decide (x < y)
      | 3 => decide (x ≤ y)
      | 4 => decide (y < x)
      | _ => decide (y ≤ x), 0⟩

/-- VCMP (R399). -/
def execVcmp (h : Hdr) (d a b : VecReg) (ty : Ty) (tier : Option (BitVec 2)) (cond : BitVec 3) (pw : Bool) (p : PredReg)
    (s : State) : Host.Outcome State Fault Refusal :=
  vectorOp h tier [] [] [a, b] 2 1
    (fun s =>
      let w := ty.width
      let (ts, f) := collect (List.zipWith (cmpLane ty cond.toNat (ftzv s)) (lanesOf w (vv s a)) (lanesOf w (vv s b)))
      vecActs d (packLanes w (ts.map (fun t => if t then 2 ^ w - 1 else 0))) f
        ++ (if pw then predAct p (ts.any id) else [])) s

/-- VSEL (R408). -/
def execVsel (h : Hdr) (d a b : VecReg) (ty : Ty) (tier : Option (BitVec 2)) (c : VecReg) (s : State) :
    Host.Outcome State Fault Refusal :=
  lanes3 h tier d a b c ty.width 1 1 (fun _ x y z => ⟨if z ≠ 0 then x else y, 0⟩) s

/-- A bitwise form (R395). -/
def bitwise (h : Hdr) (d a b : VecReg) (tier : Option (BitVec 2)) (f : Line → Line → Line) (s : State) :
    Host.Outcome State Fault Refusal :=
  vectorOp h tier [] [] [a, b] 1 1 (fun s => [.vec d.toNat (f (vv s a) (vv s b))]) s
/-- VAND (R395). -/
def execVand (h : Hdr) (d a b : VecReg) (tier : Option (BitVec 2)) (s : State) : Host.Outcome State Fault Refusal :=
  bitwise h d a b tier (· &&& ·) s
/-- VOR (R395). -/
def execVor (h : Hdr) (d a b : VecReg) (tier : Option (BitVec 2)) (s : State) : Host.Outcome State Fault Refusal :=
  bitwise h d a b tier (· ||| ·) s
/-- VXOR (R395). -/
def execVxor (h : Hdr) (d a b : VecReg) (tier : Option (BitVec 2)) (s : State) : Host.Outcome State Fault Refusal :=
  bitwise h d a b tier (· ^^^ ·) s

/-- The count of a lane: its low log2 w bits (R88). -/
def laneCount (w b : Nat) : Nat := b % w
/-- VSHL (R412). -/
def execVshl (h : Hdr) (d a b : VecReg) (ty : Ty) (sat : Bool) (tier : Option (BitVec 2)) (s : State) :
    Host.Outcome State Fault Refusal :=
  let w := ty.width
  lanes2 h tier d a b w 2 1
    (fun _ x y => ⟨intRes (Ty.signed ty) sat w (intOf (Ty.signed ty) w x * 2 ^ laneCount w y), 0⟩) s
/-- VSHR (R412). -/
def execVshr (h : Hdr) (d a b : VecReg) (ty : Ty) (tier : Option (BitVec 2)) (s : State) :
    Host.Outcome State Fault Refusal :=
  lanes2 h tier d a b ty.width 2 1 (fun _ x y => ⟨x / 2 ^ laneCount ty.width y, 0⟩) s
/-- VSRA (R412). -/
def execVsra (h : Hdr) (d a b : VecReg) (ty : Ty) (tier : Option (BitVec 2)) (s : State) :
    Host.Outcome State Fault Refusal :=
  let w := ty.width
  lanes2 h tier d a b w 2 1 (fun _ x y => ⟨wrapW w (sint w x / 2 ^ laneCount w y), 0⟩) s

/-! ## Moves (R408, R409) -/

/-- VPERM (R408). -/
def execVperm (h : Hdr) (d a b : VecReg) (ty : Ty) (tier : Option (BitVec 2)) (s : State) :
    Host.Outcome State Fault Refusal :=
  let w := ty.width
  vectorOp h tier [] [] [a, b] 2 1
    (fun s => [.vec d.toNat (packLanes w ((lanesOf w (vv s b)).map (fun i => lane w (vv s a) (i % (512 / w)))))]) s
/-- A value in every lane. -/
def splat (w x : Nat) : Line := packLanes w (List.replicate (512 / w) x)
/-- VSPLAT, format X (R409). -/
def execVsplat (h : Hdr) (d : VecReg) (a : Reg) (ty : Ty) (tier : Option (BitVec 2)) (s : State) :
    Host.Outcome State Fault Refusal :=
  vectorOp h tier [a] [] [] 1 1 (fun s => [.vec d.toNat (splat ty.width (rv s a).toNat)]) s
/-- VSPLAT, format XL (R409). -/
def execVsplatXl (h : Hdr) (d : VecReg) (ty : Ty) (tier : Option (BitVec 2)) (lit : DWord) (s : State) :
    Host.Outcome State Fault Refusal :=
  issue { len := 5, hdr := h, tier := tier, unit := some .vector }
    (fun s => done s 1 [.vec d.toNat (splat ty.width lit.toNat)]) s
/-- VMOV (R408). -/
def execVmov (h : Hdr) (d a : VecReg) (tier : Option (BitVec 2)) (s : State) : Host.Outcome State Fault Refusal :=
  vectorOp h tier [] [] [a] 1 1 (fun s => [.vec d.toNat (vv s a)]) s

/-! ## Reductions (R107, R410) -/

/-- One level of the tree: neighbours combined. -/
def treeLevel (node : Nat → Nat → Res Nat) : List Nat → List (Res Nat)
  | a :: b :: r => node a b :: treeLevel node r
  | _ => []
/-- The tree of R107 over 2^n lanes. -/
def reduceTree (node : Nat → Nat → Res Nat) : Nat → List Nat → Res Nat
  | 0, ls => ⟨ls.headD 0, 0⟩
  | n + 1, ls =>
    let (vs, f) := collect (treeLevel node ls)
    let r := reduceTree node n vs
    ⟨r.val, f ||| r.flags⟩

/-- The result of a reduction in a scalar register: sign-extended for I (R410). -/
def reduced (ty : Ty) (v : Nat) : DWord :=
  if Ty.signed ty then BitVec.ofInt 64 (sint ty.width v) else BitVec.ofNat 64 v

/-- VREDS or VREDX. -/
def reduceOp (h : Hdr) (d : Reg) (a : VecReg) (ty : Ty) (tier : Option (BitVec 2)) (lat : Nat)
    (node : Bool → Nat → Nat → Res Nat) (s : State) : Host.Outcome State Fault Refusal :=
  let w := ty.width
  vectorOp h tier [] [d] [a] (lat * log2Lanes w) 1
    (fun s =>
      let r := reduceTree (node (ftzv s)) (log2Lanes w) ((lanesOf w (vv s a)).map (ftzIn (ftzv s) ty))
      toReg s d (reduced ty r.val) ++ (if r.flags = 0 then [] else [.orFlags r.flags])) s
/-- VREDS (R410). -/
def execVreds (h : Hdr) (d : Reg) (a : VecReg) (ty : Ty) (rnd : Rnd) (sat : Bool) (tier : Option (BitVec 2))
    (s : State) : Host.Outcome State Fault Refusal :=
  reduceOp h d a ty tier (latFI ty 4 2) (arith2 (fun f => addV f rnd) (· + ·) ty sat) s
/-- VREDX (R410). -/
def execVredx (h : Hdr) (d : Reg) (a : VecReg) (ty : Ty) (tier : Option (BitVec 2)) (isMax : Bool) (s : State) :
    Host.Outcome State Fault Refusal := reduceOp h d a ty tier 2 (minMaxLane isMax ty) s

/-! ## Classes and codes (R398, R400, R401, R411) -/

/-- The class mask of a pattern (R398). -/
def classOf (f : Fmt) (x : Nat) : Nat :=
  let neg := x / f.signBit % 2 == 1
  match f.decode x with
  | .nan sig => if sig then 2 ^ 8 else 2 ^ 9
  | .inf _ => if neg then 1 else 2 ^ 7
  | .fin _ n _ =>
    if n = 0 then (if neg then 2 ^ 3 else 2 ^ 4)
    else if f.subnormal x then (if neg then 2 ^ 2 else 2 ^ 5)
    else (if neg then 2 else 2 ^ 6)
/-- VCLASS (R398). -/
def execVclass (h : Hdr) (d a : VecReg) (ty : Ty) (tier : Option (BitVec 2)) (s : State) :
    Host.Outcome State Fault Refusal := lanes1 h tier d a ty.width 2 1 (fun _ x => ⟨classOf (fmtOf ty) x, 0⟩) s

/-- The code table of the issuing core (R72). -/
def ctabv (s : State) : BitVec 128 := (s.core s.cur.1).ctab
/-- VCODE (R400). -/
def execVcode (h : Hdr) (d a : VecReg) (ty ty2 : Ty) (tier : Option (BitVec 2)) (seg : BitVec 3) (s : State) :
    Host.Outcome State Fault Refusal :=
  let w := ty.width
  let n := 512 / w
  vectorOp h tier [] [] [a] 2 1
    (fun s => [.vec d.toNat (packLanes w ((List.range n).map (fun l =>
      wrapW w (codeVal (ty2 == .ql4) (ctabv s) (lane 4 (vv s a) (n * seg.toNat + l))))))]) s
/-- VQL4 (R401). -/
def execVql4 (h : Hdr) (d a : VecReg) (ty _ty2 : Ty) (tier : Option (BitVec 2)) (seg : BitVec 3) (s : State) :
    Host.Outcome State Fault Refusal :=
  vectorOp h tier [] [] [a, d] 4 1
    (fun s =>
      let (vs, f) := collect ((lanesOf 32 (vv s a)).map (fun x =>
        encodeCode (ty == .ql4) (ctabv s) (laneVal (ftzv s) .f32 x)))
      vecActs d (mergeLanes 4 (vv s d) (16 * seg.toNat) vs) f) s

/-- One lane of VSCAC (R106, R411). -/
def scacLane (ty2 : Ty) (ql ftz : Bool) (p s sc a r : Nat) : Res Nat :=
  let pv : FVal := if ty2 = .i32 then
      (let i := sint 32 p; .fin (decide (i < 0)) i.natAbs 1)
    else laneVal ftz .f32 p
  ftzOut ftz .f32 (scaleAcc pv ql (s % 256) (laneVal ftz .f32 sc) (laneVal ftz .f32 a) (laneVal ftz .f32 r))
/-- VSCAC (R411). -/
def execVscac (h : Hdr) (d a b : VecReg) (_ty ty2 : Ty) (tier : Option (BitVec 2)) (c : VecReg) (e : Reg) (ql : Bool)
    (s : State) : Host.Outcome State Fault Refusal :=
  vectorOp h tier [e] [] [a, b, c, d] 6 1
    (fun s => lanesActs d 32 ((List.range 16).map (fun l =>
      scacLane ty2 ql (ftzv s) (lane 32 (vv s a) l) (lane 32 (vv s b) l) (lane 32 (vv s c) l)
        ((rv s e).toNat % 2 ^ 32) (lane 32 (vv s d) l)))) s

/-! ## Element-wise memory forms (R404 to R406) -/

/-- The checks of R405 over all lanes, in order: alignment, then the window; and the addresses. -/
def checkLanes (s : State) (n : Nat) (eas : List Int) : Except Trap (List Nat) :=
  match eas.find? (fun ea => decide (ea % (n : Int) ≠ 0)) with
  | some ea => .error ⟨.align, 0, addrBits ea, false⟩
  | none =>
    match eas.find? (fun ea => decide (ea < 0 ∨ (Config.localSize s.tier : Int) < ea + n)) with
    | some ea => .error ⟨.bankrange, 0, addrBits ea, false⟩
    | none => .ok (eas.map Int.toNat)

/-- Lane addresses of VLDS and VSTS (R404). -/
def strideAddrs (s : State) (w : Nat) (a b : Reg) (disp : BitVec 32) : List Int :=
  (List.range (512 / w)).map (fun (l : Nat) => eaOf s a disp.toInt + (l : Int) * (rv s b).toInt)
/-- Lane addresses of VGATH and VSCAT (R404). -/
def offsetAddrs (s : State) (a : Reg) (b : VecReg) (disp : BitVec 32) : List Int :=
  (lanesOf 32 (vv s b)).map (fun (o : Nat) => eaOf s a disp.toInt + (o : Int))

/-- Cycles of an element-wise memory form: ceil(N/16) (R392). -/
def laneGroups (w : Nat) : Nat := ceilDiv (512 / w) 16

/-- An element-wise load. -/
def laneLoad (h : Hdr) (tier : Option (BitVec 2)) (rs : List Reg) (vs : List VecReg) (d : VecReg) (w : Nat)
    (eas : State → List Int) (s : State) : Host.Outcome State Fault Refusal :=
  issue { len := 3, hdr := h, tier := tier, rs := rs, vs := vs, unit := some .vector, occ := laneGroups w
          bytes := (eas s).flatMap (fun ea => bytesAt ea (w / 8)) }
    (fun s => do
      let as_ ← checkLanes s (w / 8) (eas s)
      let vals ← as_.mapM (fun a => readNear s a (w / 8))
      done s (4 + laneGroups w) [.vec d.toNat (packLanes w (vals.map leNat))]) s

/-- An element-wise store. -/
def laneStore (h : Hdr) (tier : Option (BitVec 2)) (rs : List Reg) (vs : List VecReg) (d : VecReg) (w : Nat)
    (eas : State → List Int) (s : State) : Host.Outcome State Fault Refusal :=
  let sub := decide (w < 32)
  issue { len := 3, hdr := h, tier := tier, rs := rs, vs := d :: vs, unit := some .vector
          stored := (eas s).flatMap (fun ea => bytesAt ea (w / 8)), occ := (if sub then 2 else 1) * laneGroups w }
    (fun s => do
      let as_ ← checkLanes s (w / 8) (eas s)
      done s ((if sub then 5 else 4) + laneGroups w)
        [.lanes (List.zipWith (fun a x => (a, leBytes (w / 8) x)) as_ (lanesOf w (vv s d))) sub]) s

/-- VLDS (R404). -/
def execVlds (h : Hdr) (d : VecReg) (a b : Reg) (ty : Ty) (tier : Option (BitVec 2)) (disp : BitVec 32) (s : State) :
    Host.Outcome State Fault Refusal :=
  laneLoad h tier [a, b] [] d ty.width (fun s => strideAddrs s ty.width a b disp) s
/-- VSTS (R404). -/
def execVsts (h : Hdr) (d : VecReg) (a b : Reg) (ty : Ty) (tier : Option (BitVec 2)) (disp : BitVec 32) (s : State) :
    Host.Outcome State Fault Refusal :=
  laneStore h tier [a, b] [] d ty.width (fun s => strideAddrs s ty.width a b disp) s
/-- VGATH (R404). -/
def execVgath (h : Hdr) (d : VecReg) (a : Reg) (b : VecReg) (ty : Ty) (tier : Option (BitVec 2)) (disp : BitVec 32)
    (s : State) : Host.Outcome State Fault Refusal :=
  laneLoad h tier [a] [b] d ty.width (fun s => offsetAddrs s a b disp) s
/-- VSCAT (R404). -/
def execVscat (h : Hdr) (d : VecReg) (a : Reg) (b : VecReg) (ty : Ty) (tier : Option (BitVec 2)) (disp : BitVec 32)
    (s : State) : Host.Outcome State Fault Refusal :=
  laneStore h tier [a] [b] d ty.width (fun s => offsetAddrs s a b disp) s

end Sys2Proof.Machine
end

