-- ==== Sys2Proof/Machine/Engines.lean ====
section
/-! DEFINITION. Copy engines: endpoints, command blocks, copies, stamps, static schedules, collectives, flash installs, and
the monitor (R195 to R208, R329 to R331, R340 to R342, R352, R353, R384). -/

namespace Sys2Proof.Machine

/-! ## Endpoints (R196) -/

/-- A near endpoint. -/
def epNear (e : DWord) : Bool := e.getLsbD 63
/-- Tier of a near endpoint. -/
def epTier (e : DWord) : Nat := nbits e.toNat 62 61
/-- A near endpoint in local store. -/
def epLocal (e : DWord) : Bool := epNear e && e.getLsbD 60
/-- Core index of a near endpoint. -/
def epIndex (e : DWord) : Nat := nbits e.toNat 59 52
/-- Offset of a near endpoint in its window, or the far address. -/
def epOff (e : DWord) : Nat := if epNear e then nbits e.toNat 24 0 else nbits e.toNat 56 0
/-- The core of a near endpoint in a column. -/
def epCore (col : Nat) (e : DWord) : Nat := coreOfIndex col (epTier e) (epIndex e)
/-- Bytes of a near endpoint's window: local store, or the bank's program region. -/
def epWindow (e : DWord) : Nat :=
  if epLocal e then Config.localSize (epTier e) else Config.statusBase (epTier e) - Config.bankBase
/-- Near address of an offset in an endpoint's window. -/
def epAddr (e : DWord) (off : Nat) : Nat := if epLocal e then off else Config.bankBase + off
/-- Reserved bits are zero and the core exists. -/
def epOk (e : DWord) : Bool :=
  if epNear e then nbits e.toNat 51 25 == 0
    && decide (epIndex e < Config.clusterSide (epTier e) * Config.clusterSide (epTier e))
  else nbits e.toNat 62 57 == 0
/-- BANKRANGE for bytes from an offset that leave the window of a near endpoint. -/
def epRange (e : DWord) (off n : Nat) : Except Trap Unit :=
  if epNear e ∧ epWindow e < off + n then .error (.at_ .bankrange (epAddr e (max off (epWindow e)))) else .ok ()

/-! ## Groups (R298, R330) -/

/-- Half-word i of a group table. -/
def Part.groupEntry (p : Part) (g i : Nat) : Nat :=
  (sget 0 p.groups (16 * g + i / 4)).toNat / 2 ^ (16 * (i % 4)) % 65536
/-- The members of a group, in rank order: the device IDs of its valid entries. -/
def Part.members (p : Part) (g : Nat) : List Nat :=
  ((List.range 64).map (p.groupEntry g)).filterMap (fun e => if e / 2 ^ 15 = 1 then some (e % 2 ^ 13) else none)
/-- Our rank in a group that lists this device exactly once, every member being reachable by a peer entry or this device
itself (R298, R330). -/
def State.rankIn (s : State) (part g : Nat) : Option Nat :=
  let ms := (s.part part).members g
  let me := s.dev.fabric.myid.toNat
  let known (d : Nat) : Bool := d == me || (List.range 64).any (fun i => match (s.part part).peer i with
    | some (id, _) => id.toNat == d
    | none => false)
  if (ms.filter (fun d => d == me)).length = 1 ∧ ms.all known then some (ms.idxOf me) else none

/-! ## Command blocks (R197) -/

/-- The fields of a command block. -/
def Cmd.ofNat (x : Nat) : Cmd :=
  { src := BitVec.ofNat 64 (nbits x 63 0), dst := BitVec.ofNat 64 (nbits x 127 64), len := nbits x 151 128
    rows := nbits x 175 160 + 1, group := nbits x 191 176, sstr := nbits x 223 192, dstr := nbits x 255 224
    stamp := BitVec.ofNat 64 (nbits x 319 256), seq := BitVec.ofNat 48 (nbits x 367 320)
    idx := BitVec.ofNat 64 (nbits x 447 384), rvp := nbits x 452 448, rvl := nbits x 455 453
    rva := nbits x 456 456 == 1 }

/-- Bytes that a collective leaves at DST, with n members. -/
def collBytes (kind len n : Nat) : Nat := if kind = 1 then len / n else if kind = 2 then n * len else len

/-- The reserved fields and limits of R197, R329, R331 and R340 that a kind of command breaks. -/
def cmdIll (kind : CmdKind) (x n : Nat) : Bool :=
  let c := Cmd.ofNat x
  let strided := kind == .cpys || kind == .cpyg
  let copy := kind == .cpy || strided
  let coll := match kind with | .coll _ _ _ => true | _ => false
  nbits x 159 152 != 0 || nbits x 383 368 != 0 || nbits x 511 457 != 0
  || decide (24 ≤ c.rvp)
  || (if coll then decide (15 < c.group) else decide (c.group ≠ 0))
  || (if strided then decide (c.sstr % 8 ≠ 0 ∨ c.dstr % 8 ≠ 0) else decide (c.sstr ≠ 0 ∨ c.dstr ≠ 0 ∨ c.rows ≠ 1))
  || (if kind = .cpyg then !epOk c.idx else decide (c.idx ≠ 0))
  || !epOk c.stamp || epLocal c.stamp || decide (c.stamp.toNat % 8 ≠ 0)
  || !epOk c.src
  || (if kind = .finst then epNear c.src || decide (c.src.toNat % 4096 ≠ 0 ∨ c.len ≠ 0) || decide (c.dst.toNat / 2 ^ 13 ≠ 0)
      else !epOk c.dst || decide (c.len % 8 ≠ 0 ∨ c.len = 0))
  || (copy && !epNear c.src && !epNear c.dst)
  || (match kind with
      | .coll k _ ty => epLocal c.src || epLocal c.dst
        || decide (c.len % ((if k = 1 then n else 1) * (ty.width / 8)) ≠ 0) || (k == 1 && n == 0)
      | _ => false)

/-- BANKRANGE of the rows of a near endpoint: the first byte that leaves the window, in ascending rows (R176, R197). -/
def rowsRange (e : DWord) (stride len : Nat) (rows : Nat) : Except Trap Unit :=
  match (List.range rows).find? (fun r => epNear e && decide (epWindow e < epOff e + r * stride + len)) with
  | some r => epRange e (epOff e + r * stride) len
  | none => .ok ()

/-- BANKRANGE of a command's near bytes: source, destination, indices, stamp (R197). A CPYG source row is checked when its
index is read (R331). -/
def cmdRange (kind : CmdKind) (c : Cmd) (n : Nat) : Except Trap Unit := do
  match kind with
  | .cpyg => pure ()
  | .coll _ _ _ => epRange c.src (epOff c.src) c.len
  | .finst => pure ()
  | _ => rowsRange c.src c.sstr c.len c.rows
  match kind with
  | .finst => pure ()
  | .coll k _ _ => epRange c.dst (epOff c.dst) (collBytes k c.len n)
  | _ => rowsRange c.dst c.dstr c.len c.rows
  if kind = .cpyg then epRange c.idx (epOff c.idx) (4 * c.rows)
  epRange c.stamp (epOff c.stamp) 8

/-- Slots of a lane: c0's, those of c1–c3, the static lane's (R200, R205). -/
def slotsOf (c0 : Bool) : List Nat := if c0 then List.range 8 else (List.range 24).map (fun i => 8 + i)

/-- A slot of a column. -/
def Column.slot (c : Column) (i : Nat) : Option Slot := sget none c.slots i
/-- A slot replaced. -/
def State.setSlot (s : State) (col i : Nat) (x : Option Slot) : State :=
  s.modCol col (fun c => { c with slots := sset none c.slots i x })
/-- A slot in use changed. -/
def State.modSlot (s : State) (col i : Nat) (f : Slot → Slot) : State :=
  s.setSlot col i (((s.col col).slot i).map f)

/-- A command put into a slot; it starts behind those that reached the engine before it (R200). An install takes its place in
its extent's queue as it issues (R192). -/
def State.putCommand (s : State) (col i : Nat) (sl : Slot) : State :=
  let s := if sl.kind = .finst then s.modExtent sl.cmd.dst.toNat (fun x => { x with queue := x.queue ++ [(col, i)] }) else s
  (s.setSlot col i (some sl)).post (s.now + 1) (.engineCommandStart col i)

/-- An LS store of the issuing core into bytes of local store is outstanding: a store, rows of an MSCAC, or what an expansion
instruction will write (R35, R331). -/
def storing (s : State) (a n : Nat) : Bool :=
  ((s.core s.cur.1).lsOut s.cur.1).any (fun e => e.2.meets ⟨some s.cur.1, a, n, 0⟩)

/-- The path of a command's payload (R210). -/
def CmdKind.path : CmdKind → Path
  | .coll _ _ _ => .co
  | .finst => .fi
  | _ => .ce

/-- THE ISSUE OF AN ENGINE COMMAND (R197, R200, R231, R331): its block is read and checked, and it takes a slot. -/
def engineIssue (kind : CmdKind) (scope : Scope) (h : Hdr) (a : Reg) (ill : State → Bool) (s : State) :
    Host.Outcome State Fault Refusal :=
  issue { len := 3, hdr := h, rs := [a], ill := ill s, bytes := bytesAt (rv s a).toNat 64, path := some kind.path }
    (fun s => do
      let k := s.cur.1
      let col := columnOf k
      let cb ← checkNear s .localStore false (rv s a).toNat 64 64
      if inStep s ∧ storing s cb 64 then throw (.timing 2)
      let bs ← readNear s cb 64
      let x := leNat bs
      let c := Cmd.ofNat x
      let n := ((s.part (s.partOf k)).members c.group).length
      if cmdIll kind x n ∨ (c.rva ∧ !s.declares s.cur c.rvl) then throw (.of .illop)
      cmdRange kind c n
      match (slotsOf (s.cur.2 == 0)).find? (fun i => ((s.col col).slot i).isNone) with
      | none => if inStep s then throw (.timing 2) else .ok ⟨s, .again (s.now + cyc k)⟩
      | some i =>
        let num := s.cmdNum
        let sl : Slot := ⟨kind, c, s.partOf k, some s.cur, none, cb, scope, num, false, 0, 0, none, 0,
          if c.rva then [unitBase + 0x4000 + 64 * (24 * c.rvl + c.rvp)] else [], false, []⟩
        let s' := { s with cmdNum := num + 1 }
        let s' := s'.modCtx s.cur (fun y => { y with lastCmd := some (num, c.rva) })
        .ok ⟨s'.putCommand col i sl, .next⟩) s

/-- CPY (R198, R331). -/
def execCpy (h : Hdr) (a : Reg) (scope : Scope) (s : State) : Host.Outcome State Fault Refusal :=
  engineIssue .cpy scope h a (fun _ => false) s
/-- CPYS (R198, R331). -/
def execCpys (h : Hdr) (a : Reg) (scope : Scope) (s : State) : Host.Outcome State Fault Refusal :=
  engineIssue .cpys scope h a (fun _ => false) s
/-- CPYG (R198, R331). -/
def execCpyg (h : Hdr) (a : Reg) (scope : Scope) (s : State) : Host.Outcome State Fault Refusal :=
  engineIssue .cpyg scope h a (fun _ => false) s
/-- COLL (R207, R329). -/
def execColl (h : Hdr) (a : Reg) (ty : Ty) (scope : Scope) (kind op : BitVec 2) (s : State) :
    Host.Outcome State Fault Refusal := engineIssue (.coll kind.toNat op.toNat ty) scope h a (fun _ => false) s
/-- FINST (R208, R340): its stamp is written at device scope (R341). -/
def execFinst (h : Hdr) (a : Reg) (s : State) : Host.Outcome State Fault Refusal :=
  engineIssue .finst .device h a inStep s

/-- STAGE (R206, R384). -/
def execStage (h : Hdr) (a : Reg) (s : State) : Host.Outcome State Fault Refusal :=
  issue { len := 3, hdr := h, rs := [a] }
    (fun s =>
      let col := columnOf s.cur.1
      let s' := s.modCol col (fun c => { c with scnt := min 256 (max c.scnt (nbits (rv s a).toNat 15 0)) })
      .ok ⟨s'.post s.now (.staticEntryStart col), .next⟩) s

/-! ## Reading and writing endpoints -/

/-- Bytes from a near endpoint, after every write of the cycle, with the words that are uncorrectable, as offsets from the
first byte's word (R178, R179). -/
def State.epRead (s : State) (col : Nat) (e : DWord) (off n : Nat) : List Byte × List Nat × State :=
  let k := epCore col e
  let a := epAddr e off
  let s := (s.settle k s.now).correct k a n
  ((s.core k).readN a n, ((s.core k).badWords a n).map (fun w => w - a / 4 * 4), s)

/-- Bytes written to a near endpoint by the engine's channel, poisoned words among them (R178, R179). -/
def State.epWrite (s : State) (w : Writer) (col : Nat) (e : DWord) (off : Nat) (bs : List Byte) (bad : List Nat) : State :=
  let a := epAddr e off
  s.portStore w (epCore col e) 0 a bs (bad.map (fun w => a / 4 * 4 + w))

/-- What ends a unit: its bytes went on, a fault with its address, or a peer that has not answered. -/
inductive UnitEnd where
  | moved
  | fault (t : BitVec 8) (va : Nat)
  | wait

/-- The address a fault record names for an endpoint (R201): the far address; of a near endpoint the low bits of the unit's
own endpoint, which the spec does not fix. -/
def epFault (e : DWord) (off : Nat) : Nat := if epNear e then (e.toNat - epOff e + off) % 2 ^ 57 else off

/-- One unit of a copy: read, then written (R178, R198, R331). While a peer has not answered the write, the slot keeps what was
read, which is not read a second time (R199). -/
def State.moveUnit (s : State) (col i : Nat) (sl : Slot) (src dst n : Nat) (ev : Event) : UnitEnd × State :=
  let c := sl.cmd
  let write (s : State) (bs : List Byte) (bad : List Nat) : UnitEnd × State :=
    if epNear c.dst then (.moved, s.epWrite (.slot col i) col c.dst dst bs bad)
    else if bad ≠ [] then (.fault tEcc dst, s)
    else match s.farWrite sl.part col dst bs 2 ev with
      | (.ok (), s) => (.moved, s)
      | (.fault t, s) => (.fault t dst, s)
      | (.wait, s) => (.wait, s.modSlot col i (fun x => { x with buf := bs }))
  if sl.buf ≠ [] then write s sl.buf []
  else if epNear c.src then
    let (bs, bad, s) := s.epRead col c.src src n
    write s bs bad
  else match s.farRead sl.part col src n 2 ev with
    | (.ok bs, s) => write s bs []
    | (.fault t, s) => (.fault t src, s)
    | (.wait, s) => (.wait, s)

/-- The index of a CPYG row: its value, or how its read ends the copy (R331); at a peer it is no payload (R289). -/
def State.readIndex (s : State) (col : Nat) (sl : Slot) (ev : Event) : Except UnitEnd Nat × State :=
  let c := sl.cmd
  let off := epOff c.idx + 4 * sl.row
  if epNear c.idx then
    let (bs, bad, s) := s.epRead col c.idx off 4
    if bad ≠ [] then (.error (.fault tEcc (epFault c.idx off)), s) else (.ok (leNat bs), s)
  else match s.farRead sl.part col off 4 0 ev with
    | (.ok bs, s) => (.ok (leNat bs), s)
    | (.fault t, s) => (.error (.fault t off), s)
    | (.wait, s) => (.error .wait, s)

/-! ## Stamps and the end of a command (R201) -/

/-- A command ends: its stamp is to be written, once the payload's last write has taken effect in its bank (R201). -/
def State.endCommand (s : State) (col i : Nat) (status : BitVec 16) : State :=
  (s.modSlot col i (fun x => { x with status := status })).post (s.now + Config.cycleTicks 0) (.engineStampWrite col i)

/-- A command ends with a fault: its record, then its stamp (R201). A command without an issuing context, of the static lane or of a
COPY or INSTALL node, is recorded under the column's tier-0 core of index 0 and context 0, and one of the static lane with SRC 0,
for R201 does not say what stands there (DESIGN CHOICE, log 59). -/
def State.faultCommand (s : State) (col i : Nat) (sl : Slot) (t : BitVec 8) (va : Nat) : State :=
  let core := match sl.owner with | some q => q.1 | none => coreOfIndex col 0 0
  let ctx := match sl.owner with | some q => q.2 | none => 0
  (s.record core (faultRec 5 core ctx 0 sl.cb va 0 0 t.toNat)).endCommand col i (t.setWidth 16)

/-- A graph node ends: its successor is read unless it was started beside it (R245), and a failing status ends the task
(R242). -/
def State.nodeEnds (s : State) (task node : Nat) (failure : Option (BitVec 16)) : State :=
  match s.task task with
  | none => s
  | some t =>
    match t.nodes.find? (fun n => n.addr == node) with
    | none => s
    | some n =>
      let s := s.modTask task (fun t => { t with
        nodes := t.nodes.erase n
        status := if t.status.isSome then t.status else failure })
      if n.nowait then s.post s.now (.taskStampWrite task)
      else s.post s.now (.nodeSuccessor task n.next n.loops)

/-- Failure that a COPY or INSTALL node's stamp status means for its task (R242): OK and REMAP are none. -/
def nodeFailure (status : BitVec 16) : Option (BitVec 16) := if status = 0 ∨ status = 0x0101 then none else some status

/-- The stamp word (R201). -/
def stampWord (c : Cmd) (status : BitVec 16) : Nat := c.seq.toNat + status.toNat * 2 ^ 48

/-- The slot is free; arrivals follow the stamp, and who waits for the command goes on (R201, R231, R245). -/
def State.freeSlot (s : State) (col i : Nat) (sl : Slot) : State :=
  let s := s.setSlot col i none
  let s := match sl.owner with
    | some q =>
      let s := sl.arrive.foldl (fun s a => s.engineArrival q a) s
      (match (s.ctx q).kernel, (s.core q.1).ctl.kernel with
        | some kid, _ => s.post s.now (.kernelComplete kid)
        | none, some kid => s.post s.now (.kernelComplete kid)
        | none, none => s)
    | none => s
  let s := match sl.node with
    | some (t, n) => s.nodeEnds t n (nodeFailure sl.status)
    | none => s
  if 32 ≤ i then s.post s.now (.staticEntryStart col) else s

/-- The install at the head of an extent's queue starts, once its command has: WORN and BUDGET are found at once (R192, R193,
R208), and WORN is looked for first, as the spec orders the two nowhere (DESIGN CHOICE, log 58). -/
def State.startInstall (s : State) (e : Nat) : State :=
  if (s.dev.extent e).running then s else
  match (s.dev.extent e).queue with
  | [] => s
  | (col, i) :: rest =>
    match (s.col col).slot i with
    | none => s.modExtent e (fun x => { x with queue := rest })
    | some sl =>
      if !sl.started then s
      else if 3000 ≤ (s.dev.extent e).wear.toNat then
        (s.modExtent e (fun x => { x with running := true })).post s.now (.installComplete col i)
      else if (s.part sl.part).budget = 0 then
        (s.modExtent e (fun x => { x with running := true })).post s.now (.installComplete col i)
      else
        let (d, s) := s.draw 1
        ((s.modExtent e (fun x => { x with running := true })).modSlot col i
          (fun y => { y with started := true, off := 1 })).post (s.now + d) (.installComplete col i)

/-- The slot of an install is free: the extent's next one starts (R192). -/
def State.nextInstall (s : State) (sl : Slot) : State :=
  if sl.kind ≠ .finst then s
  else
    let e := sl.cmd.dst.toNat
    (s.modExtent e (fun x => { x with queue := x.queue.tail, running := false })).startInstall e

/-- An install that ended well is put in place: the extent's staging lines go, and reads from now on see the fresh blocks
(R192). -/
def State.switchExtent (s : State) (sl : Slot) : State :=
  if sl.kind = .finst ∧ (sl.status = 0 ∨ sl.status = 0x0101) then
    let e := sl.cmd.dst.toNat
    let lo := Config.flashBase + e * Config.extentSize
    let fresh := (s.dev.extent e).fresh
    let s := s.modDev (fun d => { d with
      far := fresh.foldl (fun m b => sset 0 m (lo + b.1) b.2)
        (d.far.filter (fun b => !decide (lo ≤ b.1 ∧ b.1 < lo + Config.extentSize)))
      farBad := d.farBad.filter (fun b => !decide (lo < 4 * b.1 + 4 ∧ 4 * b.1 < lo + Config.extentSize))
      lines := d.lines.filter (fun l => l * Config.stagingLine / Config.extentSize != e) })
    s.modExtent e (fun x => { x with fresh := [], state := 0 })
  else if sl.kind = .finst ∧ sl.status = 0x0105 then s.modExtent sl.cmd.dst.toNat (fun x => { x with fresh := [], state := 2 })
  else s

/-- ENGINE_STAMP_WRITE (R192, R201, R204): the stamp, one 8-byte unit; with it an install's extent is switched. A near stamp
takes its place among the writes of its bank's next cycle, and the command's end follows in that cycle; behind an atomic's slot the
payload and the stamp are awaited (R237). -/
def execEngineStampWrite (s : State) : Host.Outcome State Fault Refusal :=
  match s.event with
  | some (.engineStampWrite col i) =>
    .next (match (s.col col).slot i with
      | none => s
      | some sl =>
        let bs := leBytes 8 (stampWord sl.cmd sl.status)
        let ev : Event := .engineStampWrite col i
        if s.writing (.slot col i) then s.post (s.now + Config.cycleTicks 0) ev
        else if epNear sl.cmd.stamp ∧ !sl.done then
          ((s.epWrite (.slot col i) col sl.cmd.stamp (epOff sl.cmd.stamp) bs []).modSlot col i (fun x => { x with done := true })).post
            (ceilTo (cyc (epCore col sl.cmd.stamp)) (s.now + 1)) ev
        else if epNear sl.cmd.stamp then ((s.switchExtent sl).freeSlot col i sl).nextInstall sl
        else match s.farWrite sl.part col (epOff sl.cmd.stamp) bs 0 ev with
          | (.wait, s) => s
          | (_, s) => (((s.forget ev).switchExtent sl).freeSlot col i sl).nextInstall sl)
  | _ => .fault .notDue

/-! ## Copies -/

/-- A unit moved: the next one, the next row, or the stamp (R198). -/
def State.afterUnit (s : State) (col i : Nat) (sl : Slot) (n : Nat) : State :=
  let (d, s) := s.draw (Config.cycleTicks 0)
  if sl.off + n < sl.cmd.len then
    (s.modSlot col i (fun x => { x with off := x.off + n, buf := [] })).post (s.now + d) (.engineUnit col i)
  else if sl.row + 1 < sl.cmd.rows then
    (s.modSlot col i (fun x => { x with off := 0, row := x.row + 1, idx := none, buf := [] })).post (s.now + d) (.engineUnit col i)
  else s.endCommand col i 0

/-- ENGINE_UNIT (R198, R199, R201, R331): one unit of a copy, its row's index first, once the unit before it is written. -/
def execEngineUnit (s : State) : Host.Outcome State Fault Refusal :=
  match s.event with
  | some (.engineUnit col i) =>
    .next (match (s.col col).slot i with
      | none => s
      | some sl =>
        let ev : Event := .engineUnit col i
        let c := sl.cmd
        let n := min 64 (c.len - sl.off)
        let go (s : State) (sl : Slot) (r : Nat) : State :=
          let src := epOff c.src + r * c.sstr + sl.off
          let dst := epOff c.dst + sl.row * c.dstr + sl.off
          if sl.kind = .cpyg ∧ epNear c.src ∧ epWindow c.src < epOff c.src + r * c.sstr + c.len then
            s.faultCommand col i sl tNoPhys (epFault c.src src)
          else match s.moveUnit col i sl src dst n ev with
            | (.wait, s) => s
            | (.fault t va, s) => (s.forget ev).faultCommand col i sl t va
            | (.moved, s) => (s.forget ev).afterUnit col i sl n
        if s.writing (.slot col i) then s.post (s.now + Config.cycleTicks 0) ev
        else if sl.kind = .cpyg then
          match sl.idx with
          | some r => go s sl r
          | none => match s.readIndex col sl ev with
            | (.error .wait, s) => s
            | (.error (.fault t va), s) => (s.forget ev).faultCommand col i sl t va
            | (.error .moved, s) => s
            | (.ok r, s) =>
              let s := (s.forget ev).modSlot col i (fun x => { x with idx := some r })
              go s { sl with idx := some r } r
        else go s sl sl.row)
  | _ => .fault .notDue

/-! ## Static schedules (R205, R206) -/

/-- STATIC_ENTRY_START (R206): the lowest released entry takes a place of the lane; the next follows. -/
def execStaticEntryStart (s : State) : Host.Outcome State Fault Refusal :=
  match s.event with
  | some (.staticEntryStart col) =>
    .next (
      let c := s.col col
      match ((List.range 8).map (fun i => 32 + i)).find? (fun i => (c.slot i).isNone),
        c.sched.find? (fun e => decide (e.stage ≤ c.scnt)) with
      | some i, some e =>
        let s := s.modCol col (fun c => { c with sched := c.sched.filter (fun x => x.kernel != e.kernel || x.num != e.num) })
        let num := s.cmdNum
        let s := { s with cmdNum := num + 1 }
        let s := s.setSlot col i (some ⟨.cpys, e.cmd, c.schedPart, none, none, 0, e.scope, num, true, 0, 0, none, 0, [],
          false, []⟩)
        (s.post s.now (.engineUnit col i)).post s.now (.staticEntryStart col)
      | _, _ => s)
  | _ => .fault .notDue

/-! ## Installs (R192 to R194, R208, R341) -/

/-- A range of far bytes copied into an extent's fresh blocks. -/
def copyRange (fresh m : Sparse Byte) (src dst n : Nat) : Sparse Byte :=
  (m.filter (fun e => decide (src ≤ e.1 ∧ e.1 < src + n))).foldl (fun f e => sset 0 f (dst + (e.1 - src)) e.2) fresh

/-- A range of bytes put in place of another: what stood there goes. -/
def moveFar (m : Sparse Byte) (src dst n : Nat) : Sparse Byte :=
  copyRange (m.filter (fun e => !decide (dst ≤ e.1 ∧ e.1 < dst + n))) m src dst n

/-- 4 KiB of an install's source, into the extent's fresh blocks: the status that ends it, or a peer's delay. A page that a peer has
been asked for is not translated again (R185). -/
def State.installPage (s : State) (col : Nat) (sl : Slot) (j : Nat) (ev : Event) : FarRes Unit × State :=
  let va := sl.cmd.src.toNat + 4096 * j
  let e := sl.cmd.dst.toNat
  let dst := 4096 * j
  let ask (s : State) : FarRes Unit × State := match s.farRead sl.part col va 4096 2 ev with
    | (.ok bs, s) => (.ok (), s.modExtent e (fun x => { x with fresh := writeBytes x.fresh dst bs }))
    | (.fault t, s) => (.fault t, s)
    | (.wait, s) => (.wait, s)
  if (s.dev.fabric.asked ev va).isSome then ask s
  else match s.translate sl.part col va false with
  | (.error t, s) => (.fault t, s)
  | (.ok pa, s) => match s.dev.place pa with
    | .flash => (.fault tNoPhys, s)
    | .peer _ off => if Config.flashBase ≤ off then (.fault tNoPhys, s) else ask s
    | _ =>
      if s.dev.badFar pa 4096 then (.fault tEcc, s)
      else (.ok (), s.modExtent e (fun x => { x with fresh := copyRange x.fresh s.dev.far pa dst 4096 }))

/-- Every page of an install in ascending order; the first that fails ends it, and how many came before it is told. -/
def State.installPages (s : State) (col : Nat) (sl : Slot) (ev : Event) : Nat → FarRes Unit × Nat × State
  | 0 => (.ok (), 0, s)
  | n + 1 => match s.installPages col sl ev n with
    | (.ok _, _, s) => let (x, s) := s.installPage col sl n ev; (x, n, s)
    | x => x

/-- An install is over: the stamp follows, and with the slot's end the extent's next one starts (R192, R193). -/
def State.installEnds (s : State) (col i : Nat) (status : BitVec 16) : State := s.endCommand col i status

/-- INSTALL_COMPLETE (R192, R193, R341): the source is read in ascending order into fresh blocks, or the install ends before;
which of the cells' outcomes it is is theirs. The extent is switched with the stamp. R193 gives no moment for the charge of 1 GiB:
the budget is tested as the install starts and charged as it ends, saturating at 0 (DESIGN CHOICE, log 58). -/
def execInstallComplete (s : State) : Host.Outcome State Fault Refusal :=
  match s.event with
  | some (.installComplete col i) =>
    .next (match (s.col col).slot i with
      | none => s
      | some sl =>
        let e := sl.cmd.dst.toNat
        let x := s.dev.extent e
        let ev : Event := .installComplete col i
        if sl.off = 0 then s.installEnds col i (if 3000 ≤ x.wear.toNat then 0x0102 else 0x0103)
        else
          let undo (s : State) : State := s.modExtent e (fun x => { x with fresh := [] })
          match (undo s).installPages col sl ev 262144 with
          | (.wait, _, s') => undo s'
          | (.fault t, j, s') =>
            let page := sl.cmd.src.toNat + 4096 * j
            let va := if t = tNoPhys then page else s'.faultAt sl.part col page 4096 false ev
            ((undo s').forget ev).faultCommand col i sl t va
          | (.ok _, _, s') =>
            let (n, s') := s'.number
            let out := Config.freeInstall n % 4
            let used := Config.freeInstall n / 4 % (x.spare.toNat + 1)
            let w := Config.freeWear n
            let charge (s : State) : State := s.modPart sl.part (fun p => { p with budget := p.budget - 1 })
            if out = 0 then
              ((charge (s'.forget ev)).modExtent e (fun x => { x with wear := w })).installEnds col i 0
            else if out = 1 ∧ 0 < used then
              ((charge (s'.forget ev)).modExtent e (fun x => { x with
                wear := w, spare := x.spare - BitVec.ofNat 10 used })).installEnds col i 0x0101
            else
              let s := (undo s').forget ev
              if out = 2 then s.installEnds col i 0x0104
              else ((charge s).modExtent e (fun x => { x with wear := w })).installEnds col i 0x0105)
  | _ => .fault .notDue

/-! ## Collectives (R207, R330) -/

/-- A node of a collective's tree: one rounding to nearest, or a wrapping sum; minimum and maximum by R94. -/
def collNode (op : Nat) (ty : Ty) : Nat → Nat → Res Nat :=
  if op = 0 then arith2 (fun f => addV f .rne) (· + ·) ty false false else minMaxLane (op == 2) ty false

/-- One level of the tree: a value with no partner passes up unchanged. -/
def collLevel (node : Nat → Nat → Res Nat) : List Nat → List Nat
  | a :: b :: r => (node a b).val :: collLevel node r
  | l => l

/-- The tree over the ranks; `fuel` bounds its depth. -/
def collTree (node : Nat → Nat → Res Nat) : Nat → List Nat → Nat
  | 0, l => l.headD 0
  | n + 1, l => if l.length ≤ 1 then l.headD 0 else collTree node n (collLevel node l)

/-- Element e of every member, reduced. -/
def collElem (op : Nat) (ty : Ty) (parts : List (List Byte)) (e : Nat) : Nat :=
  let w := ty.width / 8
  collTree (collNode op ty) 8 (parts.map (fun p => leNat ((p.drop (e * w)).take w)))

/-- What a member's DST receives (R207). -/
def collResult (kind op : Nat) (ty : Ty) (len rank : Nat) (parts : List (List Byte)) : List Byte :=
  let w := ty.width / 8
  if kind = 2 then parts.flatten
  else
    let all := (List.range (len / w)).flatMap (fun e => leBytes w (collElem op ty parts e))
    if kind = 1 then (all.drop (rank * (len / parts.length))).take (len / parts.length) else all

/-- A collective starts: the group is looked up and the contribution is read whole; alone in its group, it ends by itself
(R178, R330). -/
def State.startColl (s : State) (col i : Nat) (sl : Slot) (ev : Event) : State :=
  match s.rankIn sl.part sl.cmd.group with
  | none => s.endCommand col i 0x0005
  | some _ =>
    let c := sl.cmd
    let alone := decide (((s.part sl.part).members c.group).length = 1)
    let take (s : State) (bs : List Byte) : State :=
      let s := s.modSlot col i (fun x => { x with buf := bs, started := true })
      if alone then s.post s.now (.collComplete col i [bs] true) else s
    if epNear c.src then
      let (bs, bad, s) := s.epRead col c.src (epOff c.src) c.len
      take s (if bad = [] then bs else [])
    else match s.farRead sl.part col (epOff c.src) c.len 2 ev with
      | (.wait, s) => s
      | (.fault t, s) => if t = tEcc then take (s.forget ev) [] else (s.forget ev).faultCommand col i sl t (s.faultAt sl.part col (epOff c.src) c.len false ev)
      | (.ok bs, s) => take (s.forget ev) bs

/-- COLL_COMPLETE (R178, R207, R330): a mismatch or a poisoned contribution writes no byte. The event gives the
contributions of the other ranks; an empty one is poisoned. -/
def execCollComplete (s : State) : Host.Outcome State Fault Refusal :=
  match s.event with
  | some (.collComplete col i contribs same) =>
    .next (match (s.col col).slot i with
      | none => s
      | some sl =>
        match sl.kind, s.rankIn sl.part sl.cmd.group with
        | .coll kind op ty, some rank =>
          if !sl.started then s
          else
            let parts := contribs.set rank sl.buf
            let ev : Event := .collComplete col i contribs same
            if !same then s.endCommand col i 0x0301
            else if parts.any List.isEmpty then s.endCommand col i 0x0006
            else
              let bs := collResult kind op ty sl.cmd.len rank parts
              let c := sl.cmd
              if epNear c.dst then (s.epWrite (.slot col i) col c.dst (epOff c.dst) bs []).endCommand col i 0
              else match s.farWrite sl.part col (epOff c.dst) bs 2 ev with
                | (.wait, s) => s
                | (.ok (), s) => (s.forget ev).endCommand col i 0
                | (.fault t, s) => (s.forget ev).faultCommand col i sl t (s.faultAt sl.part col (epOff c.dst) bs.length true ev)
        | _, _ => s)
  | _ => .fault .notDue

/-! ## Starting (R200) -/

/-- A command that reached the engine earlier has not started. -/
def Column.earlier (c : Column) (num : Nat) : Bool :=
  c.slots.any (fun e => match e.2 with
    | some x => !x.started && decide (x.num < num)
    | none => false)

/-- ENGINE_COMMAND_START (R200): commands start in the order in which they reached the engine. -/
def execEngineCommandStart (s : State) : Host.Outcome State Fault Refusal :=
  match s.event with
  | some (.engineCommandStart col i) =>
    .next (match (s.col col).slot i with
      | none => s
      | some sl =>
        let ev : Event := .engineCommandStart col i
        if (s.col col).earlier sl.num then s.post (s.now + beatTicks) ev
        else match sl.kind with
          | .finst =>
            let e := sl.cmd.dst.toNat
            (s.modSlot col i (fun x => { x with started := true })).startInstall e
          | .coll _ _ _ => s.startColl col i sl ev
          | _ =>
            let (d, s) := s.draw 0
            (s.modSlot col i (fun x => { x with started := true })).post (s.now + d) (.engineUnit col i))
  | _ => .fault .notDue

/-! ## The monitor (R202, R203, R352, R353) -/

/-- MARM (R202): the word lies in the program region or is a context status word. -/
def execMarm (h : Hdr) (a : Reg) (s : State) : Host.Outcome State Fault Refusal :=
  issue { len := 3, hdr := h, rs := [a] }
    (fun s =>
      let addr := (rv s a).toNat
      if addr % 8 ≠ 0 then .error ⟨.align, 0, rv s a, false⟩
      else if addr < Config.bankBase ∨ Config.statusBase s.tier + 32 ≤ addr then .error ⟨.bankrange, 0, rv s a, false⟩
      else .ok ⟨s.modCtx s.cur (fun x => { x with monitor := some addr }), .next⟩) s

/-- MWAIT (R203, R352, R353): without a monitor it raises ILLOP, whatever its guard (R81). -/
def execMwait (h : Hdr) (d a : Reg) (ne : Bool) (s : State) : Host.Outcome State Fault Refusal :=
  issue { len := 3, hdr := h, rs := [a], rd := [d], ill := inStep s || (s.ctx s.cur).monitor.isNone
          bytes := match (s.ctx s.cur).monitor with | some m => [(m, 8)] | none => [] }
    (fun s => match (s.ctx s.cur).monitor with
      | none => .error (.of .illop)
      | some m => do
        let bs ← readNear s m 8
        let v := BitVec.ofNat 64 (leNat bs)
        if mwaitHolds ne v (rv s a) then done s (Config.bankLatency s.tier) (toReg s d v)
        else .ok ⟨s, .gate (.mwait d (rv s a) ne)⟩) s

/-! ## FSTAT (R194, R342) -/

/-- FSTAT (R342): the firewall decides at issue. -/
def execFstat (h : Hdr) (d a : Reg) (s : State) : Host.Outcome State Fault Refusal :=
  issue { len := 3, hdr := h, rs := [a], rd := [d], ill := inStep s }
    (fun s =>
      let ext := nbits (rv s a).toNat 12 0
      let pa := Config.flashBase + ext * Config.extentSize
      if !(s.part (s.partOf s.cur.1)).passes pa false then .error ⟨.farfault, tFirewall, BitVec.ofNat 64 pa, false⟩
      else
        let (num, s') := s.number
        let (l, s') := s'.draw (cyc s.cur.1)
        .ok ⟨s'.post (s.now + l) (.fstatResult s.cur.1 s.cur.2 num ext), .hold (.reply d num)⟩) s

/-- The word of R194. -/
def fstatWord (x : Extent) (budget : Nat) : DWord :=
  BitVec.ofNat 64 (x.wear.toNat + x.spare.toNat * 2 ^ 14 + (if x.running then 1 else x.state.toNat) * 2 ^ 24
    + budget % 65536 * 2 ^ 32)

/-- FSTAT_RESULT (R342): after every earlier access of the context. -/
def execFstatResult (s : State) : Host.Outcome State Fault Refusal :=
  match s.event with
  | some (.fstatResult k c num ext) =>
    .next (
      let s := s.settle k s.now
      if s.ownOut (k, c) then s.post ((s.beat + 1) * beatTicks) (.fstatResult k c num ext)
      else s.answer (k, c) num (fstatWord (s.dev.extent ext) (s.part (s.partOf k)).budget))
  | _ => .fault .notDue

end Sys2Proof.Machine
end

