-- ==== Sys2Proof/Machine/Kernel.lean ====
section
/-! DEFINITION. Nodes, bases and kernels of the expansion unit, and the exact functions behind them (R159, R160). -/

namespace Sys2Proof.Machine

/-! ## Fixed-point functions -/

/-- The cosine series of an angle in fixed point: the term t of index k, then `n` more. -/
def cosSeries (x2 : Nat) : Nat → Nat → Int → Int → Int
  | 0, _, _, acc => acc
  | n + 1, k, t, acc =>
    let t' := -(t * (x2 : Int)) / ((fixOne : Int) * ((k + 1) * (k + 2) : Nat))
    cosSeries x2 n (k + 2) t' (acc + t')

/-- cos of an angle below π/2 in fixed point. -/
def cosFix (x : Nat) : Nat := (cosSeries (x * x / fixOne) 60 0 fixOne fixOne).toNat

/-- The series of atanh z for a small fixed-point z: the power z^k, then `n` terms. -/
def atanhSeries (z z2 : Int) : Nat → Nat → Int → Int
  | 0, _, acc => acc
  | n + 1, k, acc => atanhSeries (z * z2 / (fixOne : Int)) z2 n (k + 2) (acc + z / (k : Int))

/-- The natural logarithm in fixed point of a positive fraction: 2^e·m with m within 1 … 2, and log m by atanh. -/
def logFix (num den : Nat) : Int :=
  let e := floorLog2 num den
  let m : Int := if 0 ≤ e then ((num * fixOne / (den * 2 ^ e.toNat) : Nat) : Int)
    else ((num * 2 ^ (-e).toNat * fixOne / den : Nat) : Int)
  let z := (m - fixOne) * (fixOne : Int) / (m + fixOne)
  e * (Config.ln2Fixed : Int) + 2 * atanhSeries z (z * z / (fixOne : Int)) 110 1 0

/-- e^t for an exact t of magnitude below 2^10: a fixed-point number times a power of two, as a fraction. -/
def expEx (t : Ex) : Ex :=
  let p : Int := (if t.neg then -1 else 1) * ((t.num * fixOne / t.den : Nat) : Int)
  let n := (p + (Config.ln2Fixed : Int) / 2) / (Config.ln2Fixed : Int)
  let r := expFix (p - n * (Config.ln2Fixed : Int))
  if 0 ≤ n then ⟨false, r * 2 ^ n.toNat, fixOne⟩ else ⟨false, r, fixOne * 2 ^ (-n).toNat⟩

/-! ## Nodes and weights (R159) -/

/-- Node(p, k), with the flags of its rounding. -/
def node (p k : Nat) : Res Nat :=
  let near (k : Nat) : Res Nat :=
    if k = 0 then ⟨0x3F800000, 0⟩
    else if 3 * k = p - 1 then ⟨0x3F000000, 0⟩
    else roundTo f32 .rne false false (cosFix (Config.piFixed * k / (p - 1))) fixOne
  if 2 * k = p - 1 then ⟨0, 0⟩
  else if 2 * k < p - 1 then near k
  else
    let r := near (p - 1 - k)
    ⟨f32.signBit + r.val, r.flags⟩

/-- An exact value as a fraction; 0 where it is none. -/
def FVal.ex : FVal → Ex
  | .fin g n d => ⟨g, n, d⟩
  | _ => .zero false

/-- Wt(p, k) from the nodes. -/
def weight (ns : List (Res Nat)) (k : Nat) : Res Nat :=
  let v (m : Nat) : Ex := (f32.decode (ns.getD m ⟨0, 0⟩).val).ex
  let prod := (List.range ns.length).foldl (fun (a : Ex) m =>
    if m = k then a else a.mul (Ex.add .rne (v k) (Ex.neg' (v m)))) ⟨false, 1, 1⟩
  (Ex.div ⟨false, 1, 1⟩ prod).round f32 .rne false

/-- Nodes of an order. -/
def nodesOf (p : Nat) : List (Res Nat) := (List.range p).map (node p)

/-- One rounded operation added to a value with flags. -/
def Res.then' (a : Res Nat) (f : FVal → Res Nat) : Res Nat :=
  let r := f (f32.decode a.val)
  ⟨r.val, a.flags ||| r.flags⟩

/-- Lag(p, k, t) from the nodes and weights. -/
def lag (ns ws : List (Res Nat)) (k : Nat) (t : Nat) : Res Nat :=
  (List.range ns.length).foldl (fun v m =>
    if m = k then v
    else
      let n := ns.getD m ⟨0, 0⟩
      let u := addV f32 .rne (f32.decode t) (f32.decode n.val).negate
      let r := v.then' (fun x => mulV f32 .rne x (f32.decode u.val))
      ⟨r.val, r.flags ||| u.flags ||| n.flags⟩) (ws.getD k ⟨0, 0⟩)

/-! ## Registers' geometry -/

/-- A valid header as the helpers use it. -/
structure Geo where
  d : Nat
  p : Nat
  h : Nat
  c : List Nat
deriving DecidableEq, Repr

/-- P (R158). -/
def Geo.size (g : Geo) : Nat := g.p ^ g.d
/-- Digit i of a coefficient index (R158). -/
def Geo.digit (g : Geo) (k i : Nat) : Nat := k / g.p ^ (g.d - 1 - i) % g.p

/-- t of R159: (y − c) / h, one rounding. -/
def scaled (y c h : FVal) : Res Nat :=
  match y with
  | .nan s => nanRes f32 s
  | .inf g => ⟨f32.infinity g, 0⟩
  | .fin _ _ _ => (Ex.div (Ex.add .rne y.ex (Ex.neg' c.ex)) h.ex).round f32 .rne false

/-- Basis(X, k, y) for every k, with the flags of all (R159). -/
def basisRow (g : Geo) (y : List Nat) : List Nat × FlagSet :=
  let ns := nodesOf g.p
  let ws := (List.range g.p).map (weight ns)
  let dims := (List.range g.d).map (fun i =>
    let t := scaled (f32.decode (y.getD i 0)) (f32.decode (g.c.getD i 0)) (f32.decode g.h)
    (t, (List.range g.p).map (fun k => lag ns ws k t.val)))
  let fl := dims.foldl (fun f d => d.2.foldl (fun f r => f ||| r.flags) (f ||| d.1.flags)) 0
  let rs := (List.range g.size).map (fun k =>
    (List.range g.d).foldl (fun b i =>
      let l := ((dims.getD i (⟨0, 0⟩, [])).2.getD (g.digit k i) ⟨0, 0⟩)
      b.then' (fun x => mulV f32 .rne x (f32.decode l.val))) (⟨0x3F800000, 0⟩ : Res Nat))
  (rs.map (·.val), rs.foldl (fun f r => f ||| r.flags) fl)

/-- NodePt(X, k) for every k, with the flags of all (R159). -/
def nodePts (g : Geo) : List (List Nat) × FlagSet :=
  let ns := nodesOf g.p
  let rows := (List.range g.size).map (fun k => (List.range g.d).map (fun i =>
    let n := ns.getD (g.digit k i) ⟨0, 0⟩
    let r := fmaV f32 .rne (f32.decode g.h) (f32.decode n.val) (f32.decode (g.c.getD i 0))
    (⟨r.val, r.flags ||| n.flags⟩ : Res Nat)))
  (rows.map (fun r => r.map (·.val)), rows.foldl (fun f r => r.foldl (fun f x => f ||| x.flags) f) 0)

/-! ## Kernels (R160) -/

/-- The exact value of an FP32 magnitude and sign given as one integer. -/
def ordEx (o : Int) : Ex := { (f32.decode o.natAbs).ex with neg := decide (o < 0) }

/-- The FP32 values within 2 ulp of an exact one (R160): an ulp is the spacing at it (R89). They lie from four below the value
under it, for below a power of two the spacing halves, to three above. -/
def near2 (low : Nat) (x : Ex) : List Int :=
  let v (m : Nat) : Ex := ordEx (m : Int)
  let top := f32.largest false
  let base := if low = top then low - 1 else low
  let q := Ex.dist (v (base + 1)) (v base)
  let two := Ex.add .rne q q
  ((List.range 8).map (fun i => (low : Int) + (i : Int) - 4)).filter (fun o =>
    decide (o.natAbs ≤ top) && !two.lt (Ex.dist (ordEx o) { x with neg := false }))

/-- A value within 2 ulp of an exact one, with the flags that rounding it raises: one of all of them, which the
implementation fixes by kernel, γ and argument (log 9). -/
def within2 (code gamma s : Nat) (x : Ex) : Res Nat :=
  let r := roundTo f32 .rne false false x.num x.den
  if r.val = f32.infinity false then ⟨r.val + (if x.neg then f32.signBit else 0), r.flags⟩
  else
    let low := (roundTo f32 .rtz false false x.num x.den).val
    let os := near2 low x
    let o := os.getD (Config.freeKernelUlp code gamma s % os.length) (low : Int)
    let neg := if o < 0 then !x.neg else x.neg
    ⟨o.natAbs + (if neg then f32.signBit else 0), r.flags ||| fIf (o != (r.val : Int)) fNX⟩

/-- exp of γ·s, or of its negative, for values that are no NaN (R160). -/
def kernelExp (code gamma : Nat) (minus : Bool) (s : Nat) : Res Nat :=
  match mulExact (f32.decode gamma) (f32.decode s) with
  | none => nanRes f32 true
  | some (.nan g) => nanRes f32 g
  | some (.inf g) => if g != minus then ⟨0, 0⟩ else ⟨f32.infinity false, 0⟩
  | some (.fin g n d) =>
    if n = 0 then within2 code gamma s ⟨false, 1, 1⟩
    else
      let t : Ex := ⟨g != minus, n, d⟩
      if 200 * d < n then
        (if t.neg then within2 code gamma s ⟨false, 1, 2 ^ 280⟩ else ⟨f32.infinity false, fOF ||| fNX⟩)
      else within2 code gamma s (expEx t)

/-- F(s) of a kernel code and γ (R160, R170). -/
def kernelF (code gamma s : Nat) : Res Nat :=
  match f32.decode s with
  | .nan g => nanRes f32 g
  | v =>
    let zero := match v with | .fin _ n _ => n == 0 | _ => false
    let neg := match v with | .fin g n _ => g && n != 0 | .inf g => g | .nan _ => false
    match code with
    | 0 => ⟨s, 0⟩
    | 1 =>
      if zero then ⟨0, 0⟩ else if neg then nanRes f32 true
      else (match v with
        | .fin _ n d =>
          let r := sqrtFrac d n rootBits
          within2 code gamma s ⟨false, r.1, r.2⟩
        | _ => ⟨0, 0⟩)
    | 2 =>
      if zero then ⟨0, 0⟩ else if neg then nanRes f32 true
      else (match v with
        | .fin _ n d =>
          if n = d then within2 code gamma s ⟨false, 0, 1⟩
          else
            let l := logFix n d
            within2 code gamma s ⟨decide (0 < l), l.natAbs, 2 * fixOne⟩
        | _ => ⟨f32.infinity true, 0⟩)
    | 3 => if zero then ⟨0x3F800000, 0⟩ else kernelExp code gamma true s
    | _ => if zero then ⟨0x3F800000, 0⟩ else kernelExp code gamma false s

/-- K(x, y) (R160). -/
def kernelOf (code gamma d : Nat) (x y : List Nat) : Res Nat :=
  let dec (l : List Nat) (i : Nat) : FVal := f32.decode (l.getD i 0)
  let arg : Res Nat :=
    if code = 4 then mulV f32 .rne (dec x 0) (dec y 0)
    else (List.range d).foldl (fun s i =>
      let e := addV f32 .rne (dec x i) (dec y i).negate
      let r := s.then' (fun a => fmaV f32 .rne (f32.decode e.val) (f32.decode e.val) a)
      ⟨r.val, r.flags ||| e.flags⟩) (⟨0, 0⟩ : Res Nat)
  let r := kernelF code gamma arg.val
  ⟨r.val, r.flags ||| arg.flags⟩

/-! ## Accumulation (R166) -/

/-- w + a·b, one rounding. -/
def fmaInto (w : Res Nat) (a b : Nat) : Res Nat :=
  w.then' (fun x => fmaV f32 .rne (f32.decode a) (f32.decode b) x)

/-- A coefficient or potential after its terms in ascending order. -/
def accTerms (w : Nat) (ts : List (Nat × Nat)) : Res Nat := ts.foldl (fun w t => fmaInto w t.1 t.2) ⟨w, 0⟩

end Sys2Proof.Machine
end

