-- ==== Sys2Proof/Machine/Expansion.lean ====
section
/-! DEFINITION. The expansion instructions, VKER, and the steps of the expansion unit (R157 to R170, R407, R414, R415). -/

namespace Sys2Proof.Machine

/-! ## Headers (R157, R158) -/

/-- A header from its 64-byte image: a reserved field is ILLOP, an invalid image XORD; KIND 0 leaves all fields zero. -/
def headerOf (x : Nat) : Except Trap XHdr :=
  let kind := nbits x 1 0
  let d := nbits x 3 2
  let p := nbits x 15 8
  let h := nbits x 63 32
  let cs := [nbits x 95 64, nbits x 127 96, nbits x 159 128]
  let finite (v : Nat) : Bool := match f32.decode v with | .fin _ _ _ => true | _ => false
  if nbits x 7 4 ≠ 0 ∨ nbits x 31 16 ≠ 0 ∨ nbits x 511 160 ≠ 0 then .error (.of .illop)
  else if kind = 0 then .ok .reset
  else if kind = 3 ∨ d = 0 ∨ p < 2 ∨ 128 < p ^ d then .error (.of .xord)
  else if !finite h ∨ h % 2 ^ 31 = 0 ∨ h / 2 ^ 31 % 2 = 1 then .error (.of .xord)
  else if (List.range 3).any (fun i => if i < d then !finite (cs.getD i 0) else cs.getD i 0 != 0) then .error (.of .xord)
  else .ok ⟨BitVec.ofNat 2 kind, BitVec.ofNat 2 d, BitVec.ofNat 8 p, BitVec.ofNat 32 h,
    (BitVec.ofNat 32 (cs.getD 0 0), BitVec.ofNat 32 (cs.getD 1 0), BitVec.ofNat 32 (cs.getD 2 0))⟩

/-- A header as the first 64 bytes of an image. -/
def headerBytes (h : XHdr) : List Byte :=
  leBytes 64 (h.kind.toNat + h.dim.toNat * 2 ^ 2 + h.ord.toNat * 2 ^ 8 + h.h.toNat * 2 ^ 32 + h.c.1.toNat * 2 ^ 64
    + h.c.2.1.toNat * 2 ^ 96 + h.c.2.2.toNat * 2 ^ 128)

/-- A header as the helpers of R159 use it. -/
def XHdr.geo (h : XHdr) : Geo := ⟨h.dim.toNat, h.ord.toNat, h.h.toNat, [h.c.1.toNat, h.c.2.1.toNat, h.c.2.2.toNat]⟩
/-- P of a register (R158); none when it is empty. -/
def XHdr.size (h : XHdr) : Nat := if h.kind = 0 then 0 else h.geo.size

/-! ## The unit -/

/-- A register's header. -/
def XUnit.header (u : XUnit) (r : ExpReg) : XHdr := sget .reset u.hdr r.toNat
/-- A coefficient. -/
def XUnit.coef (u : XUnit) (r : ExpReg) (k : Nat) : Nat := (sget 0 u.co (128 * r.toNat + k)).toNat
/-- The coefficients 0 to P − 1. -/
def XUnit.coefs (u : XUnit) (r : ExpReg) : List Nat := (List.range (u.header r).size).map (u.coef r)
/-- All 128 coefficients written: those given, and +0 behind them. -/
def XUnit.setCoefs (u : XUnit) (r : ExpReg) (vs : List Nat) : XUnit :=
  { u with co := (List.range 128).foldl (fun m k => sset 0 m (128 * r.toNat + k) (BitVec.ofNat 32 (vs.getD k 0))) u.co }
/-- A header written. -/
def XUnit.setHdr (u : XUnit) (r : ExpReg) (h : XHdr) : XUnit := { u with hdr := sset .reset u.hdr r.toNat h }

/-- A register's header as every instruction already in the queue leaves it (R163). -/
def XUnit.viewHdr (u : XUnit) (r : ExpReg) : XHdr :=
  u.queue.foldl (fun h o => match o.what with
    | .clr d _ h' | .ld d _ h' => if d = r then h' else h
    | _ => h) (u.header r)
/-- KERN as every instruction already in the queue leaves it (R163). -/
def XUnit.viewKern (u : XUnit) : BitVec 3 :=
  u.queue.foldl (fun k o => match o.what with
    | .setKern k' => k'
    | _ => k) u.kern.kern

/-- Header bytes of an image as read at issue: the bytes in memory, with those that a queued XST will write (R164). -/
def headerRead (c : Core) (a : Nat) : List Byte :=
  (List.range 64).map (fun i =>
    c.xu.queue.foldl (fun b o => match o.what with
      | .st _ x h => if x ≤ a + i ∧ a + i < x + 64 then (headerBytes h).getD (a + i - x) 0 else b
      | _ => b) (sget 0 c.near (a + i)))

/-! ## Checks (R163) -/

/-- The expansion unit of the issuing core. -/
def xu (s : State) : XUnit := (s.core s.cur.1).xu

/-- The window of an image by its address (R162, R163). -/
def imageWindow (a : Nat) : Window := if Config.bankBase ≤ a then .ownBank else .localStore
/-- L_m (R168). -/
def imageLatency (tier a : Nat) : Nat := (imageWindow a).latency tier

/-- x8 to x15 do not exist on tier 0 (R64). -/
def xOk (tier : Nat) (r : ExpReg) : Bool := tier != 0 || decide (r.toNat < 8)

/-- An image's address checked (R162, R163, R176). -/
def checkImage (s : State) (a : Reg) (n : Nat) (store : Bool) : Except Trap Nat :=
  checkNear s (imageWindow (rv s a).toNat) store (rv s a).toNat n 64
/-- Records' addresses checked. -/
def checkRecords (s : State) (a : Reg) (n : Nat) : Except Trap Nat :=
  checkNear s .localStore true (rv s a).toNat (16 * n) 16

/-- XORD of a register that is empty or, for a kind given, of another kind. -/
def needKind (h : XHdr) (kind : BitVec 2) : Except Trap Unit :=
  if h.kind = 0 ∨ (kind ≠ 0 ∧ h.kind ≠ kind) then .error (.of .xord) else .ok ()
/-- XORD of two registers of different dimension. -/
def needDim (a b : XHdr) : Except Trap Unit := if a.dim = b.dim then .ok () else .error (.of .xord)
/-- XORD of EXPD in more than one dimension. -/
def needExpd (s : State) (hs : List XHdr) : Except Trap Unit :=
  if (xu s).viewKern = 4 ∧ hs.any (fun h => h.dim != 1) then .error (.of .xord) else .ok ()
/-- ECCU of the header bytes that are read at issue: a word that a queued XST writes is not read from memory (R164, R178). -/
def needGood (s : State) (a : Nat) : Except Trap Unit :=
  let c := s.core s.cur.1
  let given (w : Nat) : Bool := c.xu.queue.any (fun o => match o.what with
    | .st _ x _ => decide (x ≤ w ∧ w + 4 ≤ x + 64)
    | _ => false)
  match ((List.range 16).map (fun i => a + 4 * i)).find? (fun w => c.bad w && !given w) with
  | some w => .error (c.eccu w)
  | none => .ok ()

/-! ## Issue (R164) -/

/-- THE ISSUE OF AN EXPANSION INSTRUCTION: its checks, the fifth outstanding one, then the queue; outside a superstep
the context issues nothing until it ends (R164, R23; log 22). A fifth operation that fails a check of R163 as well raises the
check's trap (DESIGN CHOICE, log 54). -/
def expandIssue (n : Need) (xs : List ExpReg) (check : State → Except Trap (XKind × Nat)) (s : State) :
    Host.Outcome State Fault Refusal :=
  issue { n with unit := some .expansion, ill := !(xs.all (xOk s.tier)) }
    (fun s => do
      let (what, cycles) ← check s
      let k := s.cur.1
      if 4 ≤ (xu s).queue.length then
        if inStep s then throw (.timing 2) else .ok ⟨s, .again (s.now + cyc k)⟩
      else
        let op : XOp := ⟨s.cur.2, (s.ctx s.cur).pc, s.issuedWord s.cur, what, cycles, false, [], s.now, [], [], .reset⟩
        let s' := s.modXu k (fun u => { u with queue := u.queue ++ [op] })
        let s' := if (xu s).queue = [] then s'.post s.now (.expansionOpStart k) else s'
        .ok ⟨s', if inStep s then .next else .hold .expansion⟩) s

/-- XCLR and XLD: the header is read at issue. R163 gives ECCU no place among its checks: a header word is looked at when it
is read, after the image's address and before the header itself, and every other operand word when the instruction starts
(R164, R178; DESIGN CHOICE, log 20). -/
def loadHeader (a : Reg) (n : Nat) (s : State) : Except Trap (Nat × XHdr) := do
  let p ← checkImage s a n false
  needGood s p
  let h ← headerOf (leNat (headerRead (s.core s.cur.1) p))
  .ok (p, h)

/-- XCLR (R165, R414). -/
def execXclr (h : Hdr) (d : ExpReg) (a : Reg) (tier : Option (BitVec 2)) (s : State) : Host.Outcome State Fault Refusal :=
  expandIssue { len := 3, hdr := h, tier := tier, rs := [a], bytes := bytesAt (rv s a).toNat 64 } [d]
    (fun s => do
      let (p, hd) ← loadHeader a 64 s
      .ok (.clr d p hd, imageLatency s.tier p + 1)) s

/-- XLD (R165, R414). -/
def execXld (h : Hdr) (d : ExpReg) (a : Reg) (tier : Option (BitVec 2)) (s : State) : Host.Outcome State Fault Refusal :=
  expandIssue { len := 3, hdr := h, tier := tier, rs := [a], bytes := bytesAt (rv s a).toNat 576
                reading := bytesAt (rv s a).toNat 64 } [d]
    (fun s => do
      let (p, hd) ← loadHeader a 576 s
      .ok (.ld d p hd, imageLatency s.tier p + 9)) s

/-- XST (R165, R414). -/
def execXst (h : Hdr) (d : ExpReg) (a : Reg) (tier : Option (BitVec 2)) (s : State) : Host.Outcome State Fault Refusal :=
  expandIssue { len := 3, hdr := h, tier := tier, rs := [a], stored := bytesAt (rv s a).toNat 576 } [d]
    (fun s => do
      let p ← checkImage s a 576 true
      .ok (.st d p ((xu s).viewHdr d), imageLatency s.tier p + 9)) s

/-- XSET.KERN (R161, R162). -/
def execXsetKern (h : Hdr) (tier : Option (BitVec 2)) (kern : BitVec 3) (s : State) : Host.Outcome State Fault Refusal :=
  expandIssue { len := 3, hdr := h, tier := tier } [] (fun _ => .ok (.setKern kern, 1)) s
/-- XSET.GAMMA (R161, R162). -/
def execXsetGamma (h : Hdr) (a : Reg) (tier : Option (BitVec 2)) (s : State) : Host.Outcome State Fault Refusal :=
  expandIssue { len := 3, hdr := h, tier := tier, rs := [a] } [] (fun s => .ok (.setGamma ((rv s a).setWidth 32), 1)) s
/-- XSET.ETA (R161, R162). -/
def execXsetEta (h : Hdr) (a : Reg) (tier : Option (BitVec 2)) (s : State) : Host.Outcome State Fault Refusal :=
  expandIssue { len := 3, hdr := h, tier := tier, rs := [a] } [] (fun s => .ok (.setEta ((rv s a).setWidth 32), 1)) s

/-- Groups of 16 coefficients (R168). -/
def groups16 (h : XHdr) : Nat := ceilDiv h.size 16

/-- XFORM (R166, R414). -/
def execXform (h : Hdr) (d : ExpReg) (a : Reg) (tier : Option (BitVec 2)) (n : BitVec 13) (s : State) :
    Host.Outcome State Fault Refusal :=
  expandIssue { len := 3, hdr := h, tier := tier, rs := [a], bytes := bytesAt (rv s a).toNat (16 * n.toNat)
                reading := [] } [d]
    (fun s => do
      let p ← checkRecords s a n.toNat
      let hd := (xu s).viewHdr d
      needKind hd 1
      .ok (.form d p n.toNat, 8 + n.toNat * groups16 hd)) s

/-- XM2M (R166, R414). -/
def execXm2m (h : Hdr) (d a : ExpReg) (tier : Option (BitVec 2)) (s : State) : Host.Outcome State Fault Refusal :=
  expandIssue { len := 3, hdr := h, tier := tier } [d, a]
    (fun s => do
      let hd := (xu s).viewHdr d
      let ha := (xu s).viewHdr a
      needKind hd 1
      needKind ha 1
      needDim hd ha
      .ok (.m2m d a, 8 + ha.size * groups16 hd)) s

/-- XM2L (R166, R414). -/
def execXm2l (h : Hdr) (d a : ExpReg) (tier : Option (BitVec 2)) (s : State) : Host.Outcome State Fault Refusal :=
  expandIssue { len := 3, hdr := h, tier := tier } [d, a]
    (fun s => do
      let hd := (xu s).viewHdr d
      let ha := (xu s).viewHdr a
      needKind hd 2
      needKind ha 1
      needDim hd ha
      needExpd s [hd, ha]
      .ok (.m2l d a, 16 + ha.size * groups16 hd)) s

/-- XL2L (R166, R414). -/
def execXl2l (h : Hdr) (d a : ExpReg) (tier : Option (BitVec 2)) (s : State) : Host.Outcome State Fault Refusal :=
  expandIssue { len := 3, hdr := h, tier := tier } [d, a]
    (fun s => do
      let hd := (xu s).viewHdr d
      let ha := (xu s).viewHdr a
      needKind hd 2
      needKind ha 2
      needDim hd ha
      .ok (.l2l d a, 8 + ha.size * groups16 hd)) s

/-- XEVAL (R166, R414). -/
def execXeval (h : Hdr) (a : Reg) (b : ExpReg) (tier : Option (BitVec 2)) (n : BitVec 13) (s : State) :
    Host.Outcome State Fault Refusal :=
  expandIssue { len := 3, hdr := h, tier := tier, rs := [a], bytes := bytesAt (rv s a).toNat (16 * n.toNat)
                reading := [] } [b]
    (fun s => do
      let p ← checkRecords s a n.toNat
      let hb := (xu s).viewHdr b
      needKind hb 2
      .ok (.eval p b n.toNat, 8 + n.toNat * groups16 hb)) s

/-- XM2P (R166, R414). -/
def execXm2p (h : Hdr) (a : Reg) (b : ExpReg) (tier : Option (BitVec 2)) (n : BitVec 13) (s : State) :
    Host.Outcome State Fault Refusal :=
  expandIssue { len := 3, hdr := h, tier := tier, rs := [a], bytes := bytesAt (rv s a).toNat (16 * n.toNat)
                reading := [] } [b]
    (fun s => do
      let p ← checkRecords s a n.toNat
      let hb := (xu s).viewHdr b
      needKind hb 1
      needExpd s [hb]
      .ok (.m2p p b n.toNat, 16 + n.toNat * groups16 hb)) s

/-- XADM (R167, R414). -/
def execXadm (h : Hdr) (d : PredReg) (a b : ExpReg) (tier : Option (BitVec 2)) (s : State) :
    Host.Outcome State Fault Refusal :=
  expandIssue { len := 3, hdr := h, tier := tier } [a, b]
    (fun s => do
      let ha := (xu s).viewHdr a
      let hb := (xu s).viewHdr b
      needKind ha 0
      needKind hb 0
      needDim ha hb
      .ok (.adm d a b, 3)) s

/-- VKER (R170, R407): the state that every XSET ended by now has written. -/
def execVker (h : Hdr) (d a : VecReg) (_ty : Ty) (tier : Option (BitVec 2)) (s : State) : Host.Outcome State Fault Refusal :=
  vectorOp h tier [] [] [a] 8 1
    (fun s =>
      let k := (xu s).kern
      lanesActs d 32 ((lanesOf 32 (vv s a)).map (kernelF k.kern.toNat k.gamma.toNat))) s

/-! ## Effects (R165 to R167) -/

/-- XADM's inequality (R167). -/
def admissible (a b : XHdr) (eta : Word) : Bool :=
  let v (w : Word) : Ex := (f32.decode w.toNat).ex
  let cs (h : XHdr) : List Word := [h.c.1, h.c.2.1, h.c.2.2]
  let gap := (List.range a.dim.toNat).foldl (fun (m : Ex) i =>
    let x := Ex.dist (v ((cs a).getD i 0)) (v ((cs b).getD i 0))
    if m.lt x then x else m) (.zero false)
  let lhs := Ex.add .rne gap (Ex.neg' (Ex.add .rne (v a.h) (v b.h)))
  match f32.decode eta.toNat with
  | .nan _ => false
  | .inf g => g
  | .fin g n d => !lhs.lt ((⟨g, n, d⟩ : Ex).mul (if (v a.h).lt (v b.h) then v b.h else v a.h))

/-- Record j of the records' bytes: coordinates, and the word at byte 12. -/
def recordAt (bs : List Byte) (j : Nat) : List Nat × Nat :=
  let w (i : Nat) : Nat := leNat ((bs.drop (16 * j + 4 * i)).take 4)
  ([w 0, w 1, w 2], w 3)

/-- Coefficients of D after terms given for each index, with the flags of terms and sums. -/
def accCoefs (old : List Nat) (terms : Nat → List (Nat × Nat)) (fl : FlagSet) : List Nat × FlagSet :=
  let rs := old.mapIdx (fun k w => accTerms w (terms k))
  (rs.map (·.val), rs.foldl (fun f r => f ||| r.flags) fl)

/-- Values of a kernel between two lists of points, by row, with the flags of all. -/
def kernelRows (u : XUnit) (d : Nat) (xs ys : List (List Nat)) : List (List Nat) × FlagSet :=
  let rows := xs.map (fun x => ys.map (fun y => kernelOf u.kern.kern.toNat u.kern.gamma.toNat d x y))
  (rows.map (fun r => r.map (·.val)), rows.foldl (fun f r => r.foldl (fun f v => f ||| v.flags) f) 0)

/-- Basis rows at points, with the flags of all. -/
def basisRows (g : Geo) (ys : List (List Nat)) : List (List Nat) × FlagSet :=
  let rs := ys.map (basisRow g)
  (rs.map (·.1), rs.foldl (fun f r => f ||| r.2) 0)

/-- Element (i, j) of rows. -/
def at2 (m : List (List Nat)) (i j : Nat) : Nat := (m.getD i []).getD j 0

/-- What an instruction leaves at its end: the unit, words to store, a predicate, flags. -/
structure XEnd where
  unit  : XUnit
  words : List (Nat × List Byte) := []
  pred  : Option (PredReg × Bool) := none
  flags : FlagSet := 0

/-- The effect of an instruction on the unit as it stood at its start, with the bytes it read then (R164 to R167). -/
def expandEffect (u : XUnit) (what : XKind) (input : List Byte) : XEnd :=
  let potentials (addr n : Nat) (b : ExpReg) (rows : List (List Nat)) (fl : FlagSet) : XEnd :=
    let rs := (List.range n).map (fun j =>
      accTerms (recordAt input j).2 ((u.coefs b).mapIdx (fun k w => (at2 rows j k, w))))
    { unit := u, words := rs.mapIdx (fun j r => (addr + 16 * j + 12, leBytes 4 r.val))
      flags := rs.foldl (fun f r => f ||| r.flags) fl }
  match what with
  | .clr d _ h => { unit := (u.setHdr d h).setCoefs d [] }
  | .ld d _ h =>
    { unit := (u.setHdr d h).setCoefs d ((List.range h.size).map (fun k => leNat ((input.drop (4 * k)).take 4))) }
  | .st d addr _ =>
    let h := u.header d
    { unit := u
      words := [(addr, headerBytes h ++ (List.range 128).flatMap (fun k => leBytes 4 (if k < h.size then u.coef d k else 0)))] }
  | .setKern k => { unit := { u with kern := { u.kern with kern := k } } }
  | .setGamma v => { unit := { u with kern := { u.kern with gamma := v } } }
  | .setEta v => { unit := { u with kern := { u.kern with eta := v } } }
  | .form d _ n =>
    let g := (u.header d).geo
    let rows := basisRows g ((List.range n).map (fun j => (recordAt input j).1))
    let r := accCoefs (u.coefs d) (fun k => (List.range n).map (fun j => ((recordAt input j).2, at2 rows.1 j k))) rows.2
    { unit := u.setCoefs d r.1, flags := r.2 }
  | .m2m d a =>
    let pts := nodePts (u.header a).geo
    let rows := basisRows (u.header d).geo pts.1
    let r := accCoefs (u.coefs d) (fun k => (u.coefs a).mapIdx (fun m w => (w, at2 rows.1 m k))) (pts.2 ||| rows.2)
    { unit := u.setCoefs d r.1, flags := r.2 }
  | .m2l d a =>
    let pd := nodePts (u.header d).geo
    let pa := nodePts (u.header a).geo
    let rows := kernelRows u (u.header d).dim.toNat pd.1 pa.1
    let r := accCoefs (u.coefs d) (fun k => (u.coefs a).mapIdx (fun m w => (at2 rows.1 k m, w))) (pd.2 ||| pa.2 ||| rows.2)
    { unit := u.setCoefs d r.1, flags := r.2 }
  | .l2l d a =>
    let pts := nodePts (u.header d).geo
    let rows := basisRows (u.header a).geo pts.1
    let r := accCoefs (u.coefs d) (fun k => (u.coefs a).mapIdx (fun m w => (w, at2 rows.1 k m))) (pts.2 ||| rows.2)
    { unit := u.setCoefs d r.1, flags := r.2 }
  | .eval addr b n =>
    let rows := basisRows (u.header b).geo ((List.range n).map (fun j => (recordAt input j).1))
    potentials addr n b rows.1 rows.2
  | .m2p addr b n =>
    let pts := nodePts (u.header b).geo
    let rows := kernelRows u (u.header b).dim.toNat ((List.range n).map (fun j => (recordAt input j).1)) pts.1
    potentials addr n b rows.1 (pts.2 ||| rows.2)
  | .adm d a b => { unit := u, pred := some (d, admissible (u.header a) (u.header b) u.kern.eta) }

/-! ## The unit's own steps (R164) -/

/-- What is read of records: the coordinates below d, and the charge or potential (R162). -/
def recordReads (d addr n : Nat) : List (Nat × Nat) :=
  if d = 3 then [(addr, 16 * n)]
  else (List.range n).flatMap (fun j => [(addr + 16 * j, 4 * d), (addr + 16 * j + 12, 4)])

/-- Bytes that an instruction reads at its start, ascending. -/
def startReads (u : XUnit) : XKind → List (Nat × Nat)
  | .ld _ addr h => [(addr + 64, 4 * h.size)]
  | .form d addr n => recordReads (u.header d).dim.toNat addr n
  | .eval addr b n => recordReads (u.header b).dim.toNat addr n
  | .m2p addr b n => recordReads (u.header b).dim.toNat addr n
  | _ => []

/-- The bytes of near memory that an instruction's start takes: of records, whole ones. -/
def startSpan : XKind → Nat × Nat
  | .ld _ addr h => (addr + 64, 4 * h.size)
  | .form _ addr n | .eval addr _ n | .m2p addr _ n => (addr, 16 * n)
  | _ => (0, 0)

/-- The unit as an instruction found it at its start (R164). -/
def XOp.found (o : XOp) (u : XUnit) : XUnit := { u with hdr := o.hdr, co := o.co, kern := o.kern }

/-- A register taken over from another state of the unit. -/
def XUnit.takeReg (u v : XUnit) (d : ExpReg) : XUnit :=
  { u with hdr := sset .reset u.hdr d.toNat (v.header d)
           co := (List.range 128).foldl (fun m k => sset 0 m (128 * d.toNat + k) (sget 0 v.co (128 * d.toNat + k))) u.co }

/-- What an instruction writes of the unit at its end, and nothing else, taken over from its effect (R164). -/
def XUnit.takeEnd (u v : XUnit) : XKind → XUnit
  | .clr d _ _ | .ld d _ _ | .form d _ _ | .m2m d _ | .m2l d _ | .l2l d _ => u.takeReg v d
  | .setKern _ => { u with kern := { u.kern with kern := v.kern.kern } }
  | .setGamma _ => { u with kern := { u.kern with gamma := v.kern.gamma } }
  | .setEta _ => { u with kern := { u.kern with eta := v.kern.eta } }
  | .st _ _ _ | .eval _ _ _ | .m2p _ _ _ | .adm _ _ _ => u

/-- The head of the queue leaves it, and the next instruction starts. -/
def State.popExpansion (s : State) (k : Nat) : State :=
  let s := s.modXu k (fun u => { u with queue := u.queue.tail })
  let s := s.modCtl k (fun c => { c with xunit := { c.xunit with last := max c.xunit.last s.now } })
  if (s.core k).xu.queue = [] then s else s.post s.now (.expansionOpStart k)

/-- EXPANSION_OP_START (R164): all operands but the scalars are read; a word that has turned uncorrectable since the issue is an ECCU of the
instruction (R178). -/
def execExpansionOpStart (s : State) : Host.Outcome State Fault Refusal :=
  match s.event with
  | some (.expansionOpStart k) =>
    .next (
      let s := s.settle k s.now
      let c := s.core k
      match c.xu.queue with
      | [] => s
      | o :: r =>
        let rs := startReads c.xu o.what
        match rs.findSome? (fun b => c.badRange b.1 b.2) with
        | some w => (s.popExpansion k).trapLate (k, o.ctx) o.pc o.word (c.eccu w)
        | none =>
          let s := rs.foldl (fun s b => s.correct k b.1 b.2) s
          let span := startSpan o.what
          let o' := { o with started := true, input := c.readN span.1 span.2, hdr := c.xu.hdr, co := c.xu.co, kern := c.xu.kern }
          (s.modXu k (fun u => { u with queue := o' :: r })).post (s.now + o.cycles * cyc k) (.expansionOpEnd k))
  | _ => .fault .notDue

/-- A prolongation that ends now and was issued before a tick (R174). -/
def State.prolongsFirst (s : State) (k issued : Nat) : Bool :=
  (s.core k).vert.ops.any (fun o => !o.rstr && o.endT == s.now && decide (o.issued < issued))

/-- EXPANSION_OP_END (R164, R174): registers, memory, predicate and flags are written, behind the words of a prolongation
issued before it; a context that waited goes on. -/
def execExpansionOpEnd (s : State) : Host.Outcome State Fault Refusal :=
  match s.event with
  | some (.expansionOpEnd k) =>
    .next (
      match (s.core k).xu.queue with
      | [] => s
      | o :: _ =>
        if s.prolongsFirst k o.issued then s.post s.now (.expansionOpEnd k) else
        let t := tierOf k
        let e := expandEffect (o.found (s.core k).xu) o.what o.input
        let s := s.modXu k (fun u => u.takeEnd e.unit o.what)
        let s := s.modCore k (fun c => e.words.foldl (fun c w => c.pendAt s.now 4 (.port ⟨3, w.1, w.2, [], false, .other⟩)) c)
        let acts := (match e.pred with | some (d, b) => predAct d b | none => [])
          ++ (if e.flags = 0 then [] else [.orFlags e.flags])
        let s := s.popExpansion k
        let s := match (s.ctx (k, o.ctx)).run with
          | .held .expansion | .gated .expansion => s.finish (k, o.ctx) acts
          | _ => s.modCore k (fun c => acts.foldl (fun c a => applyAct t c o.ctx a) c)
        s)
  | _ => .fault .notDue

end Sys2Proof.Machine
end

