-- ==== Sys2Proof/Machine/Matrix.lean ====
section
/-! DEFINITION. The matrix instructions but MMAS, and the steps of the slice: start and finish of its operations, and the
gang's barrier (R117 to R132, R343, R359, R360, R423). -/

namespace Sys2Proof.Machine

/-! ## The queue (R126) -/

/-- The issuing core's slice. -/
def sl (s : State) : Slice := (s.core s.cur.1).slice

/-- A slice operation that must wait at issue: outside a superstep, until the slice is idle, or for MMAS until a place
is free (R23, R126; log 22). -/
def sliceWaits (idle : Bool) (s : State) : Bool :=
  let n := (sl s).queue.length
  !inStep s && (if idle then n != 0 else decide (4 ≤ n))

/-- An operation put into the queue; an idle slice starts it at once. -/
def State.enqueue (s : State) (what : SliceKind) : State :=
  let k := s.cur.1
  let op : SliceOp := ⟨s.cur.2, (s.ctx s.cur).pc, s.issuedWord s.cur, what, none, [], [], [], 0, [], false⟩
  let s' := s.modSlice k (fun l => { l with queue := l.queue ++ [op] })
  if (sl s).queue = [] then s'.post s.now (.sliceOpStart k) else s'

/-- THE ISSUE OF A SLICE OPERATION: its waits, its own traps, the fifth outstanding operation of timed code, then the
queue (R126, R127). -/
def sliceIssue (n : Need) (idle : Bool) (check : State → Except Trap SliceKind) (s : State) :
    Host.Outcome State Fault Refusal :=
  issue { n with unit := some .matrix }
    (fun s =>
      if sliceWaits idle s then .ok ⟨s, .again (s.now + cyc s.cur.1)⟩
      else do
        let what ← check s
        if 4 ≤ (sl s).queue.length then throw (.timing 2)
        .ok ⟨s.enqueue what, .next⟩) s

/-! ## GANG (R120, R121, R343) -/

/-- Tick of the leader's GANG from a member's own (R38). -/
def leadTick (s : State) (k t : Nat) : Nat :=
  match (s.core k).ctl.phase with
  | some p => t - p.skew * cyc k
  | none => t

/-- c0 in a slaved superstep. -/
def inSlaved (s : State) : Bool :=
  match (s.core s.cur.1).ctl.phase with
  | some p => inStep s && p.slaved
  | none => false

/-- When a member's GANG at a tick is acted on: three cycles after it (R121). -/
def gangDue (k t : Nat) : Nat := t + 3 * cyc k

/-- GANG at issue (R120). -/
def gangNeed (h : Hdr) (s : State) : Need := { len := 3, hdr := h, ill := !inSlaved s, unit := some .matrix }

/-- A GANG that issues with a false guard: it asserts nothing, and its barrier fails (R343). -/
def gangFalse (n : Need) (s : State) : Bool := !illegal n s && (guardWait n s).isNone && !guardHolds n s

/-- GANG (R121, R343): the member asserts its line; whether every member did is acted on three cycles later, by a member with a
false guard too. -/
def execGang (h : Hdr) (s : State) : Host.Outcome State Fault Refusal :=
  let n := gangNeed h s
  issue n
    (fun s =>
      let k := s.cur.1
      let s' := s.modSlice k (fun l => { l with ganged := true, line := l.line ++ [s.now] })
      .ok ⟨s'.post (gangDue k s.now) (.gangBarrierTimeout k), .next⟩)
    (if gangFalse n s then s.post (gangDue s.cur.1 s.now) (.gangBarrierTimeout s.cur.1) else s)

/-- Members of a core's gang with the tick at which each asserts its line when the leader's GANG is at a tick. -/
def gangTicks (k lead : Nat) : List (Nat × Nat) :=
  (List.range (Config.clusterSide (tierOf k))).map (fun i => (leaderOf k + i, lead + i * cyc k))

/-- The MMAs of c0 that wait when a barrier fails: none of them starts (R121). -/
def State.dropMmas (s : State) (k : Nat) : State :=
  let gone (o : SliceOp) : Bool := o.ctx == 0 && o.started.isNone && (match o.what with
    | .mma _ _ _ => true
    | _ => false)
  let q := (s.core k).slice.queue
  let rest := q.filter (fun o => !gone o)
  let s := s.modSlice k (fun l => { l with queue := rest })
  if (q.head?.map gone).getD false then
    let s := s.cancel (.sliceOpStart k)
    if rest = [] then s else s.post s.now (.sliceOpStart k)
  else s

/-- A line of the gang is missing when the barrier of a member's GANG at a tick closes, C − 1 cycles after its leader's (R121);
the state is one in which it has closed. -/
def State.gangShort (s : State) (k lead : Nat) : Bool :=
  (gangTicks k lead).any (fun m => !((s.core m.1).slice.line.contains m.2))

/-- The tick at which the barrier of a leader's GANG closes (R121). -/
def gangClose (k lead : Nat) : Nat := lead + (Config.clusterSide (tierOf k) - 1) * cyc k

/-- GANG_BARRIER_TIMEOUT (R121, R343): where the barrier of the GANG that the member issued three cycles ago lacks a line, the
member raises TIMING code 0x3, before it issues in that cycle, and none of its MMAs starts. Whether it lacks one is known by then
on every tier, so a step looks ahead for it (`State.seeGang`). -/
def execGangBarrierTimeout (s : State) : Host.Outcome State Fault Refusal :=
  match s.event with
  | some (.gangBarrierTimeout k) =>
    .next (
      let c := s.core k
      let here := match c.ctl.phase with
        | some p => decide (p.start + 3 * cyc k ≤ s.now)
        | none => false
      if !c.timed 0 ∨ c.ctl.stopped ∨ !here ∨ !c.slice.short then s
      else ((s.dropMmas k).modSlice k (fun l => { l with ganged := false })).takeTrap (k, 0) (s.issuedWord (k, 0)) (.timing 3))
  | _ => .fault .notDue

/-! ## The instructions -/

/-- The checks of R127 on the check tag and the tile's mode. -/
def checkPanel (s : State) (tb : Ty) (k koff : Nat) (t z : Bool) (m : TileMode) (tile : TileReg) :
    Except Trap WTag :=
  match (sl s).wcheck with
  | none => .error (.of .mxaxis)
  | some w =>
    let mode := ((sl s).view tile).1
    if w.fmt ≠ tb ∨ w.axis ≠ t ∨ w.k.toNat < koff + k then .error (.of .mxaxis)
    else if !z ∧ mode ≠ .none ∧ mode ≠ m then .error (.of .mxaxis)
    else .ok w

/-- The A region of a leader or a solo core: ALIGN, BANKRANGE, and an uncorrectable word (R122, R178; log 20). -/
def checkA (s : State) (ta : Ty) (a k : Nat) : Except Trap Unit := do
  let _ ← checkNear s .localStore false a (32 * k * (ta.width / 8)) (ta.width / 8)
  match (s.core s.cur.1).badRange a (32 * k * (ta.width / 8)) with
  | some w => .error ((s.core s.cur.1).eccu w)
  | none => .ok ()

/-- The follower index at which c0 of a slaved phase issues; none for a leader or a solo core. -/
def followerSkew (s : State) : Option Nat :=
  match (s.core s.cur.1).ctl.phase with
  | some p => if inStep s && p.slaved && p.skew != 0 then some p.skew else none
  | none => none

/-- A leader's MMA announces its A stream to every member of the gang (R37, R123). -/
def State.announceStream (s : State) : State :=
  let k := s.cur.1
  (List.range (Config.clusterSide (tierOf k))).foldl (fun s i =>
    s.modSlice (leaderOf k + i) (fun l => { l with streams := l.streams ++ [⟨s.now, none, []⟩] })) s

/-- What an MMA puts into the queue: a follower takes the leader's stream, which must be at hand when it starts (R122, R127,
R359). -/
def mmaCheck (d : TileReg) (a : Reg) (ta tb : Ty) (k koff : Nat) (t z : Bool) (s : State) : Except Trap SliceKind := do
  let w ← checkPanel s tb k koff t z (modeOf ta) d
  let p : Product := ⟨d, ta, tb, k, koff, z, w.k.toNat, w.ver⟩
  match followerSkew s with
  | some sk => .ok (.mma p 0 (some (s.now - sk * cyc s.cur.1)))
  | none => do
    checkA s ta (rv s a).toNat k
    .ok (.mma p (rv s a).toNat none)

/-- MMA (R118, R120, R122, R359). -/
def execMma (h : Hdr) (d : TileReg) (a : Reg) (ty ty2 : Ty) (k : BitVec 14) (koff : BitVec 13) (t z : Bool) (s : State) :
    Host.Outcome State Fault Refusal :=
  let n : Need := { len := 3, hdr := h, rs := [a], unit := some .matrix, path := some .mx
                    ill := s.cur.2 != 0 || (inSlaved s && !(sl s).ganged) }
  issue n
    (fun s =>
      if sliceWaits false s then .ok ⟨s, .again (s.now + cyc s.cur.1)⟩
      else do
        let what ← mmaCheck d a ty ty2 k.toNat koff.toNat t z s
        if 4 ≤ (sl s).queue.length then throw (.timing 2)
        let s' := if inSlaved s && (followerSkew s).isNone then s.announceStream else s
        .ok ⟨s'.enqueue what, .next⟩) s

/-- MWLD (R124, R125): the check tag is taken at issue. -/
def execMwld (h : Hdr) (a b : Reg) (ty : Ty) (k : BitVec 14) (axis : Bool) (s : State) :
    Host.Outcome State Fault Refusal :=
  issue { len := 3, hdr := h, rs := [a, b], bytes := bytesAt (rv s a).toNat (imageBytes ty k.toNat), reading := []
          unit := some .matrix, path := some .mx }
    (fun s =>
      if sliceWaits true s then .ok ⟨s, .again (s.now + cyc s.cur.1)⟩
      else do
        let addr := (rv s a).toNat
        let size := imageBytes ty k.toNat
        if addr % 64 ≠ 0 then throw (.at_ .align addr)
        if addr < Config.bankBase ∨ Config.bankEnd s.tier ≤ addr then throw (.at_ .bankrange addr)
        if Config.bankEnd s.tier < addr + size then throw (.at_ .bankrange (Config.bankEnd s.tier))
        if 4 ≤ (sl s).queue.length then throw (.timing 2)
        let tag : WTag := ⟨ty, axis, k, (rv s b).setWidth 16⟩
        .ok ⟨(s.modSlice s.cur.1 (fun l => { l with wcheck := some tag })).enqueue (.mwld tag addr), .next⟩) s

/-- MZERO (R128). -/
def execMzero (h : Hdr) (d : TileReg) (s : State) : Host.Outcome State Fault Refusal :=
  sliceIssue { len := 3, hdr := h } true (fun _ => .ok (.mzero d)) s

/-- TILEPOIS of a tile: SUB is the kind of the record that poisoned it (R129, R252, R253). -/
def tilePois (l : Slice) (t : TileReg) : Trap := ⟨.tilepois, (l.tile t).poisKind, t.setWidth 64, true⟩

/-- MRD (R129). -/
def execMrd (h : Hdr) (d : VecReg) (a : TileReg) (ty : Ty) (sat : Bool) (row : BitVec 5) (s : State) :
    Host.Outcome State Fault Refusal :=
  sliceIssue { len := 3, hdr := h } true
    (fun s => if ((sl s).view a).2.2 then .error (tilePois (sl s) a) else .ok (.mrd d a ty sat row.toNat)) s

/-- What an MSCAC puts into the queue (R127, R130). Bytes of its array or its scales outside local store raise BANKRANGE, ahead of
TILEPOIS; R130 and R176 do not say so (DESIGN CHOICE, log 55). -/
def mscacCheck (d : TileReg) (a b : Reg) (s : State) : Except Trap SliceKind := do
  let dst := rv s a
  let act := rv s b
  if dst.toNat % 64 ≠ 0 then throw ⟨.align, 0, dst, false⟩
  if act.toNat % 4 ≠ 0 then throw ⟨.align, 0, act, false⟩
  let dst ← checkNear s .localStore true dst.toNat 2048 64
  let act ← checkNear s .localStore false act.toNat 128 4
  let c := s.core s.cur.1
  match c.badRange dst 2048, c.badRange act 128 with
  | some w, _ => throw (c.eccu w)
  | none, some w => throw (c.eccu w)
  | none, none =>
    let v := (sl s).view d
    if v.2.2 then throw (tilePois (sl s) d)
    if v.1 ≠ .none ∧ (sl s).wcheck.map (·.ver) ≠ some v.2.1 then throw (.of .mxaxis)
    .ok (.mscac d dst act)

/-- MSCAC (R130). -/
def execMscac (h : Hdr) (d : TileReg) (a b : Reg) (s : State) : Host.Outcome State Fault Refusal :=
  sliceIssue { len := 3, hdr := h, rs := [a, b], bytes := bytesAt (rv s a).toNat 2048 ++ bytesAt (rv s b).toNat 128
               stored := bytesAt (rv s a).toNat 2048, reading := [] } true (mscacCheck d a b) s

/-- MSTAT's code of a mode (R131). -/
def modeCode : TileMode → Nat
  | .none => 0 | .fixed => 1 | .int => 2 | .wide => 3

/-- MSTAT's word (R131). -/
def mstatWord (l : Slice) : DWord :=
  let per (f : Tile → Nat) (w : Nat) : Nat :=
    f (l.tile 0) + f (l.tile 1) * 2 ^ w + f (l.tile 2) * 2 ^ (2 * w) + f (l.tile 3) * 2 ^ (3 * w)
  let bit (b : Bool) : Nat := if b then 1 else 0
  BitVec.ofNat 64 (per (fun t => bit t.pois) 1 + per (fun t => bit t.sat) 1 * 2 ^ 4
    + per (fun t => modeCode t.mode) 2 * 2 ^ 8 + bit l.wvalid * 2 ^ 16 + bit l.wtag.axis * 2 ^ 17
    + l.wtag.fmt.code.toNat * 2 ^ 18 + l.wtag.k.toNat * 2 ^ 22 + l.wtag.ver.toNat * 2 ^ 36
    + l.queue.length * 2 ^ 52 + bit (!l.wpois.isEmpty) * 2 ^ 55)

/-- MSTAT (R131). -/
def execMstat (h : Hdr) (d : Reg) (s : State) : Host.Outcome State Fault Refusal :=
  issue { len := 3, hdr := h, rd := [d], unit := some .matrix } (fun s => done s 1 (toReg s d (mstatWord (sl s)))) s

/-! ## The slice's own steps -/

/-- The head of the queue leaves it, and the next operation starts (R126). -/
def State.popSlice (s : State) (k : Nat) : State :=
  let s := s.modSlice k (fun l => { l with queue := l.queue.tail })
  let s := s.modCtl k (fun c => { c with munit := { c.munit with last := max c.munit.last s.now } })
  if (s.core k).slice.queue = [] then s else s.post s.now (.sliceOpStart k)

/-- A trap that an operation meets at its start, after the instructions behind it issued: the context stands at the
operation's instruction again (R359, R423). -/
def State.lateTrap (s : State) (k : Nat) (o : SliceOp) (tr : Trap) : State :=
  (s.popSlice k).trapLate (k, o.ctx) o.pc o.word tr

/-- The record of a read from a marked weight-buffer line, and the tile poisoned (R135, R423). -/
def State.wpoison (s : State) (k : Nat) (ctx : Nat) (t : TileReg) : State :=
  let l := (s.core k).slice
  let line := l.wpois.foldl min (l.wpois.headD 0)
  (s.modSlice k (fun l => l.poison t 9)).record k
    (faultRec 0x09 k ctx t.toNat l.wfrom.2.toNat (l.wfrom.1 + 64 * line) 0 0 0)

/-- SLICE_OP_START (R126, R132): the operation at the head of the queue starts, and its reads, writes and finish are put
under way. -/
def execSliceOpStart (s : State) : Host.Outcome State Fault Refusal :=
  match s.event with
  | some (.sliceOpStart k) =>
    .next (
      let s := s.settle k s.now
      let l := (s.core k).slice
      match l.queue with
      | [] => s
      | o :: _ =>
        let t := tierOf k
        let at_ (n : Nat) : Nat := s.now + n * cyc k
        let begun := s.modSlice k (fun l => l.modHead (fun o => { o with started := some s.now }))
        match o.what with
        | .mma p _ none =>
          let begun := match l.streams.find? (fun a => a.started.isNone), (s.core k).ctl.phase with
            | some a, some ph =>
              if ph.slaved then
                (List.range (Config.clusterSide t)).foldl (fun (b : State) i =>
                  b.modSlice (leaderOf k + i) (fun l => { l with
                    streams := l.streams.map (fun (x : AStream) => if x.issued = a.issued then { x with started := some s.now } else x) }))
                  begun
              else begun
            | _, _ => begun
          (begun.modCore k (fun c => c.pendAt (at_ 1) o.ctx (.aCol 0))).post (at_ (6 + runCycles p)) (.sliceOpComplete k)
        | .mma p _ (some i) =>
          let there := l.streams.any (fun a => a.issued == i && (match a.started with
            | some t0 => t0 + skewOf k * cyc k == s.now
            | none => false))
          if there then
            (begun.modCore k (fun c => c.pendAt (at_ 1) o.ctx (.aCol 0))).post (at_ (6 + runCycles p)) (.sliceOpComplete k)
          else s.lateTrap k o (.timing 2)
        | .mmas p _ _ _ _ =>
          let (d, b) := begun.draw ((6 + runCycles p) * cyc k)
          b.post (s.now + d) (.mmasComplete k)
        | .mwld tag _ =>
          let b := begun.modSlice k (fun l => { l with wvalid := false })
          let b := b.modCore k (fun c => c.pendAt s.now o.ctx (.wLine 0))
          b.post (at_ (Config.bankLatency t + 2 + ceilDiv (imageBytes tag.fmt tag.k.toNat) 64)) (.mwldComplete k)
        | .mzero _ => begun.post (at_ 2) (.sliceOpComplete k)
        | .mrd d tl ty sat row =>
          if (l.tile tl).pois then s.lateTrap k o (tilePois l tl)
          else
            let (vs, f) := collect (mrdLanes (l.tile tl) ty sat row)
            (begun.deliver (k, o.ctx) 4 (.vec d.toNat (packLanes ty.width vs) :: (if f = 0 then [] else [.orFlags f]))).post
              (at_ 4) (.sliceOpComplete k)
        | .mscac tl _ _ =>
          if (l.tile tl).pois then s.lateTrap k o (tilePois l tl)
          else if l.marked (mscacSpans l tl) then
            (begun.wpoison k o.ctx tl).post (at_ 23) (.sliceOpComplete k)
          else (begun.modCore k (fun c => c.pendAt (at_ 6) o.ctx (.scRead 0))).post (at_ 23) (.sliceOpComplete k))
  | _ => .fault .notDue

/-- The residue check of a product (R136): a mismatch poisons the tile with a record of kind 0x02. -/
def State.residue (s : State) (k : Nat) (o : SliceOp) (t : TileReg) (slip : Option (Nat × Nat)) : State :=
  match slip with
  | none => s
  | some (r, c) =>
    (s.modSlice k (fun l => l.poison t 2)).record k (faultRec 0x02 k o.ctx t.toNat o.pc.toNat 0 r c 0)

/-- A product finishes: the tile takes its sums, the context its flags, and a marked line or a residue mismatch poisons
the tile (R122, R136, R423). -/
def State.finishProduct (s : State) (k : Nat) (o : SliceOp) (p : Product) (cols : List ACol) : State :=
  let (l, f, slip) := (s.core k).slice.accumulate p cols o.slips
  let s := s.modCore k (fun c => applyAct (tierOf k) { c with slice := l } o.ctx (.orFlags f))
  let s := if l.marked ((List.range 16).map (panelSpan p)) then s.wpoison k o.ctx p.t else s
  s.residue k o p.t slip

/-- SLICE_OP_COMPLETE (R122, R128, R132). -/
def execSliceOpComplete (s : State) : Host.Outcome State Fault Refusal :=
  match s.event with
  | some (.sliceOpComplete k) =>
    .next (
      let s := s.settle k s.now
      match (s.core k).slice.queue with
      | [] => s
      | o :: _ =>
        let s := match o.what with
          | .mma p _ _ => s.finishProduct k o p o.cols
          | .mzero t => s.modSlice k (fun l => l.modTile t (fun x =>
              { x with el := [], mode := .none, pois := false, poisKind := 0, sat := false }))
          | .mscac _ _ _ => s.modCore k (fun c => applyAct (tierOf k) c o.ctx (.orFlags o.flags))
          | _ => s
        s.popSlice k)
  | _ => .fault .notDue

/-- MWLD_COMPLETE (R124, R423): the buffer tag is taken, and only this image's marks stand. -/
def execMwldComplete (s : State) : Host.Outcome State Fault Refusal :=
  match s.event with
  | some (.mwldComplete k) =>
    .next (
      let s := s.settle k s.now
      match (s.core k).slice.queue with
      | [] => s
      | o :: _ =>
        match o.what with
        | .mwld tag addr =>
          (s.modSlice k (fun l => { l with wtag := tag, wvalid := true, wpois := o.marks, wfrom := (addr, o.pc) })).popSlice k
        | _ => s)
  | _ => .fault .notDue

end Sys2Proof.Machine
end

