-- ==== Sys2Proof/Machine/Gather.lean ====
section
/-! DEFINITION. MMAS: its command block, the gather of A from far memory, its completion, and what the release notice
drops of the slice's work (R133 to R135, R361). -/

namespace Sys2Proof.Machine

/-! ## The instruction -/

/-- What an MMAS puts into the queue, from its command block (R127, R133). A block outside local store raises BANKRANGE, which R133
does not list and R176 does not give MMAS (DESIGN CHOICE, log 57). -/
def mmasCheck (d : TileReg) (a : Reg) (b : MsgReg) (ta tb : Ty) (s : State) : Except Trap SliceKind := do
  let cb ← checkNear s .localStore false (rv s a).toNat 64 64
  let bs ← readNear s cb 64
  let x := leNat bs
  let k := nbits x 109 96
  let koff := nbits x 124 112
  let z := nbits x 126 126 == 1
  if nbits x 63 57 ≠ 0 ∨ nbits x 111 110 ≠ 0 ∨ nbits x 511 127 ≠ 0
      ∨ !mmaShape tb (BitVec.ofNat 14 k) (BitVec.ofNat 13 koff) then throw (.of .illop)
  let w ← checkPanel s tb k koff (nbits x 125 125 == 1) z (modeOf ta) d
  .ok (.mmas ⟨d, ta, tb, k, koff, z, w.k.toNat, w.ver⟩ cb (BitVec.ofNat 64 (nbits x 56 0)) (nbits x 95 64) b)

/-- MMAS (R120, R126, R133). -/
def execMmas (h : Hdr) (d : TileReg) (a : Reg) (b : MsgReg) (ty ty2 : Ty) (s : State) :
    Host.Outcome State Fault Refusal :=
  sliceIssue { len := 3, hdr := h, rs := [a], bytes := bytesAt (rv s a).toNat 64, ill := s.cur.2 == 0, path := some .ga } false
    (mmasCheck d a b ty ty2) s

/-! ## The gather -/

/-- A gathered byte: its value, or the status that kept it away with its far address. -/
abbrev Gathered := Except (BitVec 8 × Nat) Byte

/-- Bytes of one piece: a piece that faults is read again byte by byte, so that only the bytes at fault are lost. -/
def State.gatherPiece (s : State) (part col va n : Nat) (ev : Event) : Option (List Gathered) × State :=
  match s.readPiece part col va n 0 ev with
  | (.wait, s) => (none, s)
  | (.ok bs, s) => (some (bs.map .ok), s)
  | (.fault _, s) =>
    (List.range n).foldl (fun r i => match r with
      | (none, s) => (none, s)
      | (some l, s) => match s.readPiece part col (va + i) 1 0 ev with
        | (.wait, s) => (none, s)
        | (.ok bs, s) => (some (l ++ bs.map .ok), s)
        | (.fault t, s) => (some (l ++ [.error (t, va + i)]), s)) (some [], s)

/-- The bytes of one row of A; `none` where a peer has not answered yet (every piece is asked for). -/
def State.gatherRow (s : State) (part col : Nat) (ev : Event) : List (Nat × Nat) → Option (List Gathered) × State
  | [] => (some [], s)
  | (va, n) :: r =>
    let (x, s) := s.gatherPiece part col va n ev
    let (y, s) := s.gatherRow part col ev r
    (match x, y with
      | some l, some m => some (l ++ m)
      | _, _ => none, s)

/-- Far address of row m of A: sums are taken modulo 2^64 (R133). -/
def rowAddr (base : DWord) (stride m : Nat) : Nat := (base.toNat + m * stride) % 2 ^ 64

/-- All 32 rows of A (R133). -/
def State.gather (s : State) (k : Nat) (p : Product) (base : DWord) (stride : Nat) (ev : Event) :
    Option (List (List Gathered)) × State :=
  let n := p.k * (p.ta.width / 8)
  (List.range 32).foldl (fun r m =>
    let (x, s) := r.2.gatherRow (r.2.partOf k) (columnOf k) ev (linePieces (rowAddr base stride m) n n)
    (match r.1, x with
      | some l, some b => some (l ++ [b])
      | _, _ => none, s)) (some [], s)

/-- The first byte that a column lost, in ascending rows. -/
def lostIn (w : Nat) (rows : List (List Gathered)) (j : Nat) : Option (BitVec 8 × Nat) :=
  (rows.flatMap (fun r => (r.drop (j * w)).take w)).findSome? (fun g => match g with
    | .error e => some e
    | .ok _ => none)

/-- Columns of A from its rows; a column with a lost byte did not arrive (R133). -/
def gatheredColumns (p : Product) (ctab : BitVec 128) (rows : List (List Gathered)) : List ACol :=
  let w := p.ta.width / 8
  (List.range p.k).map (fun j =>
    ⟨rows.map (fun r => leNat (((r.drop (j * w)).take w).map (fun g => match g with | .ok b => b | .error _ => 0))),
      (lostIn w rows j).isNone, ctab⟩)

/-! ## Completion -/

/-- The completion message of an MMAS (R133). -/
def mmasMessage (status cb : Nat) : Line := BitVec.ofNat 512 (status + cb * 2 ^ 8)

/-- The completion message of an operation, unless its kernel has ended (R307). -/
def State.tellMmas (s : State) (k : Nat) (o : SliceOp) (m : MsgReg) (status cb : Nat) : State :=
  if o.quiet then s else s.fillMsg (k, o.ctx) m (mmasMessage status cb) false

/-- MMAS_COMPLETE (R133, R135, R361): the product of the columns that arrived; a lost byte poisons the tile and queues a
record, and the message tells it. Two points are the model's choice (DESIGN CHOICE, log 26): of several lost bytes the
record names the one of the lowest column, then of the lowest row; and a tile poisoned by a marked weight-buffer line or
by a residue mismatch alone leaves STATUS 0. -/
def execMmasComplete (s : State) : Host.Outcome State Fault Refusal :=
  match s.event with
  | some (.mmasComplete k) =>
    .next (
      if s.now % cyc k ≠ 0 then s.post (ceilTo (cyc k) s.now) (.mmasComplete k) else
      let s := s.settle k (s.now - 1)
      match (s.core k).slice.queue with
      | [] => s
      | o :: _ =>
        match o.what with
        | .mmas p cb base stride m =>
          let ev : Event := .mmasComplete k
          (match s.gather k p base stride ev with
          | (none, s) => s
          | (some rows, s) =>
            let s := s.forget ev
            let s := s.finishProduct k o p (gatheredColumns p (s.core k).ctab rows)
            let lost := (List.range p.k).findSome? (lostIn (p.ta.width / 8) rows)
            let s := match lost with
              | none => s
              | some (t, va) =>
                let kind := if t = tEcc then 3 else 1
                (s.modSlice k (fun l => l.poison p.t (BitVec.ofNat 8 kind))).record k
                  (faultRec kind k o.ctx p.t.toNat cb va 0 0 (if t = tEcc then 0 else t.toNat))
            (s.popSlice k).tellMmas k o m (if lost.isSome then 1 else 0) cb)
        | _ => s)
  | _ => .fault .notDue

/-! ## The release notice (R134) -/

/-- An operation of c1–c3 that the release notice abandons. -/
def SliceOp.dropped (o : SliceOp) : Bool :=
  o.ctx != 0 && (match o.what with
    | .mmas _ _ _ _ _ => true
    | .mwld _ _ => true
    | _ => false)

/-- One abandoned operation (R134). -/
def State.abandonOp (s : State) (k : Nat) (o : SliceOp) : State :=
  match o.what with
  | .mmas p cb _ _ m =>
    (s.modSlice k (fun l => l.poison p.t Config.freeAbandonSub)).tellMmas k o m 2 cb
  | .mwld _ _ => s.modSlice k (fun l => { l with wvalid := false, wcheck := none })
  | _ => s

/-- The slice's work of c1–c3 at a release notice (R134). -/
def State.abandonSlice (s : State) (k : Nat) : State :=
  let q := (s.core k).slice.queue
  let gone := q.filter SliceOp.dropped
  if gone = [] then s
  else
    let s := gone.foldl (fun s o => s.abandonOp k o) s
    let headGone := (q.head?.map SliceOp.dropped).getD false
    let rest := q.filter (fun o => !o.dropped)
    let s := s.modSlice k (fun l => { l with queue := rest })
    if !headGone then s
    else
      let s := ((s.forget (.mmasComplete k)).cancel (.mwldComplete k)).cancel (.sliceOpStart k)
      let s := s.modCore k (fun c => { c with pend := c.pend.filter (fun p => match p.act with
        | .wLine _ => false
        | _ => true) })
      let s := s.modCtl k (fun c => { c with munit := { c.munit with last := max c.munit.last s.now } })
      if rest = [] then s else s.post s.now (.sliceOpStart k)

end Sys2Proof.Machine
end

