-- ==== Sys2Proof/Machine/Digest.lean ====
section
/-! DEFINITION. The two checks of an image's bytes that the spec names: SHA-384, and CRC-64 of ECMA-182 (R301). -/

namespace Sys2Proof.Machine

/-! ## SHA-384 (FIPS 180-4) -/

/-- A word of the hash. -/
abbrev HashWord := BitVec 64

/-- Round constants 0 to 19. -/
def shaConstants0 : List HashWord :=
  [0x428A2F98D728AE22, 0x7137449123EF65CD, 0xB5C0FBCFEC4D3B2F, 0xE9B5DBA58189DBBC,
   0x3956C25BF348B538, 0x59F111F1B605D019, 0x923F82A4AF194F9B, 0xAB1C5ED5DA6D8118,
   0xD807AA98A3030242, 0x12835B0145706FBE, 0x243185BE4EE4B28C, 0x550C7DC3D5FFB4E2,
   0x72BE5D74F27B896F, 0x80DEB1FE3B1696B1, 0x9BDC06A725C71235, 0xC19BF174CF692694,
   0xE49B69C19EF14AD2, 0xEFBE4786384F25E3, 0x0FC19DC68B8CD5B5, 0x240CA1CC77AC9C65]

/-- Round constants 20 to 39. -/
def shaConstants1 : List HashWord :=
  [0x2DE92C6F592B0275, 0x4A7484AA6EA6E483, 0x5CB0A9DCBD41FBD4, 0x76F988DA831153B5,
   0x983E5152EE66DFAB, 0xA831C66D2DB43210, 0xB00327C898FB213F, 0xBF597FC7BEEF0EE4,
   0xC6E00BF33DA88FC2, 0xD5A79147930AA725, 0x06CA6351E003826F, 0x142929670A0E6E70,
   0x27B70A8546D22FFC, 0x2E1B21385C26C926, 0x4D2C6DFC5AC42AED, 0x53380D139D95B3DF,
   0x650A73548BAF63DE, 0x766A0ABB3C77B2A8, 0x81C2C92E47EDAEE6, 0x92722C851482353B]

/-- Round constants 40 to 59. -/
def shaConstants2 : List HashWord :=
  [0xA2BFE8A14CF10364, 0xA81A664BBC423001, 0xC24B8B70D0F89791, 0xC76C51A30654BE30,
   0xD192E819D6EF5218, 0xD69906245565A910, 0xF40E35855771202A, 0x106AA07032BBD1B8,
   0x19A4C116B8D2D0C8, 0x1E376C085141AB53, 0x2748774CDF8EEB99, 0x34B0BCB5E19B48A8,
   0x391C0CB3C5C95A63, 0x4ED8AA4AE3418ACB, 0x5B9CCA4F7763E373, 0x682E6FF3D6B2B8A3,
   0x748F82EE5DEFB2FC, 0x78A5636F43172F60, 0x84C87814A1F0AB72, 0x8CC702081A6439EC]

/-- Round constants 60 to 79. -/
def shaConstants3 : List HashWord :=
  [0x90BEFFFA23631E28, 0xA4506CEBDE82BDE9, 0xBEF9A3F7B2C67915, 0xC67178F2E372532B,
   0xCA273ECEEA26619C, 0xD186B8C721C0C207, 0xEADA7DD6CDE0EB1E, 0xF57D4F7FEE6ED178,
   0x06F067AA72176FBA, 0x0A637DC5A2C898A6, 0x113F9804BEF90DAE, 0x1B710B35131C471B,
   0x28DB77F523047D84, 0x32CAAB7B40C72493, 0x3C9EBE0A15C9BEBC, 0x431D67C49C100D4C,
   0x4CC5D4BECB3E42B6, 0x597F299CFC657E2A, 0x5FCB6FAB3AD6FAEC, 0x6C44198C4A475817]

/-- The round constants. -/
def shaConstants : List HashWord := shaConstants0 ++ shaConstants1 ++ shaConstants2 ++ shaConstants3

/-- The hash before the first block. -/
def shaInitial : List HashWord :=
  [0xCBBB9D5DC1059ED8, 0x629A292A367CD507, 0x9159015A3070DD17, 0x152FECD8F70E5939,
   0x67332667FFC00B31, 0x8EB44A8768581511, 0xDB0C2E0D64F98FA7, 0x47B5481DBEFA4FA4]

/-- The next word of the message schedule, from the sixteen before it, the latest first. -/
def shaNext (w : List HashWord) : HashWord :=
  let x := w.getD 14 0
  let y := w.getD 1 0
  ((y.rotateRight 19 ^^^ y.rotateRight 61 ^^^ (y >>> 6)) + w.getD 6 0
    + (x.rotateRight 1 ^^^ x.rotateRight 8 ^^^ (x >>> 7)) + w.getD 15 0)

/-- The 80 words of the schedule of a block of sixteen. -/
def shaSchedule (block : List HashWord) : List HashWord :=
  ((List.range 64).foldl (fun w _ => shaNext w :: w) block.reverse).reverse

/-- One round on the eight working words, with a constant and a word of the schedule. -/
def shaRound (v : List HashWord) (kw : HashWord × HashWord) : List HashWord :=
  match v with
  | [a, b, c, d, e, f, g, h] =>
    let t := h + (e.rotateRight 14 ^^^ e.rotateRight 18 ^^^ e.rotateRight 41) + ((e &&& f) ^^^ (~~~e &&& g)) + kw.1 + kw.2
    let u := (a.rotateRight 28 ^^^ a.rotateRight 34 ^^^ a.rotateRight 39) + ((a &&& b) ^^^ (a &&& c) ^^^ (b &&& c))
    [t + u, a, b, c, d + t, e, f, g]
  | v => v

/-- The hash after a block. -/
def shaBlock (h : List HashWord) (block : List HashWord) : List HashWord :=
  List.zipWith (· + ·) h ((List.zip shaConstants (shaSchedule block)).foldl shaRound h)

/-- A list cut into pieces of a length; `fuel` bounds their number. -/
def piecesOf {α : Type} (n : Nat) : Nat → List α → List (List α)
  | 0, _ => []
  | fuel + 1, l => match l with
    | [] => []
    | _ => l.take n :: piecesOf n fuel (l.drop n)

/-- A number of bytes, the most significant first. -/
def bigNat (bs : List Byte) : Nat := leNat bs.reverse

/-- A message as it is hashed: a bit 1, zeros, and the length in bits in 16 bytes. -/
def shaPad (bs : List Byte) : List Byte :=
  bs ++ [0x80] ++ List.replicate ((239 - bs.length % 128) % 128) 0 ++ (leBytes 16 (8 * bs.length)).reverse

/-- SHA-384 of bytes: 48 bytes. -/
def sha384 (bs : List Byte) : List Byte :=
  let ws := (piecesOf 8 (bs.length / 8 + 34) (shaPad bs)).map (fun w => (BitVec.ofNat 64 (bigNat w) : HashWord))
  (((piecesOf 16 (ws.length / 16 + 1) ws).foldl shaBlock shaInitial).take 6).flatMap (fun w => (leBytes 8 w.toNat).reverse)

/-! ## CRC-64 of ECMA-182 -/

/-- The check after one bit: the polynomial is taken off when a bit leaves at the top. -/
def crcStep (c : BitVec 64) : BitVec 64 := if c.getLsbD 63 then (c <<< 1) ^^^ 0x42F0E1EBA9EA3693 else c <<< 1

/-- CRC-64 of ECMA-182 over bytes (R301), from 0, the most significant bit of each byte first (PRESUMED: the standard's
polynomial and form, log 8). -/
def crc64 (bs : List Byte) : BitVec 64 :=
  bs.foldl (fun (c : BitVec 64) (b : Byte) => (List.range 8).foldl (fun c _ => crcStep c) (c ^^^ ((b.setWidth 64 : BitVec 64) <<< 56))) 0

end Sys2Proof.Machine
end

