-- ==== Sys2Proof/Machine/Image.lean ====
section
/-! DEFINITION. Images: the header, directory and sections of one in far memory, the checks of its loader, and the phase
headers of its streams (R29, R59, R82, R83, R301 to R304). -/

namespace Sys2Proof.Machine

/-! ## Phase headers (R29, R83) -/

/-- Kind of a header; the end mark's code is 3. -/
def headerKind (w : Word) : Nat := (bits w 2 2).toNat
/-- Energy class of a header. -/
def headerEnergy (w : Word) : Nat := (bits w 4 2).toNat
/-- Tier mask of a header. -/
def headerTiers (w : Word) : BitVec 4 := bits w 6 4
/-- Length L of a header. -/
def headerLen (w : Word) : Nat := (bits w 16 16).toNat * 16 + (bits w 10 4).toNat
/-- The end mark, or a header that R83 allows. -/
def headerOk (w : Word) : Bool := w == 0x0000000F || (headerKind w != 3 && headerLen w != 0)

/-! ## The bytes of an image (R301) -/

/-- A number of bytes of an image, little-endian (R1). -/
def imageNum (bs : List Byte) (off n : Nat) : Nat := leNat ((bs.drop off).take n)

/-- The directory: code, offset and length of each section. -/
def directory (bs : List Byte) : List (Nat × Nat × Nat) :=
  (List.range (imageNum bs 6 1)).map (fun i =>
    let e := imageNum bs (64 + 16 * i) 16
    (nbits e 7 0, nbits e 95 64, nbits e 127 96))

/-- The bytes of the section of a code; an absent one has none. -/
def sectionOf (bs : List Byte) (code : Nat) : List Byte :=
  match (directory bs).find? (fun e => e.1 == code) with
  | some e => (bs.drop e.2.1).take e.2.2
  | none => []

/-- The digest's 48 bytes in the header. -/
def headerDigest (bs : List Byte) : List Byte := (bs.drop 16).take 48

/-- Header and directory: magic, version and digest, sections inside the image and apart from one another, and none of HEAD,
ROLE, PLACE, BOOT, TMAP and SIGS missing (R304). -/
def directoryOk (bs : List Byte) : Bool :=
  let d := directory bs
  imageNum bs 0 4 == 0x42454E52 && imageNum bs 4 2 == 1
    && sha384 (bs.take 16 ++ List.replicate 48 0 ++ bs.drop 64) == headerDigest bs
    && d.all (fun e => decide (e.2.1 + e.2.2 ≤ bs.length))
    && (List.range d.length).all (fun i => (List.range i).all (fun j =>
      let a := (d.getD i (0, 0, 0)).2
      let b := (d.getD j (0, 0, 0)).2
      decide (a.1 + a.2 ≤ b.1 ∨ b.1 + b.2 ≤ a.1)))
    && [1, 2, 3, 4, 5, 7].all (fun c => d.any (fun e => e.1 == c))

/-! ## Start maps (R59, R82) -/

/-- The start-map codes of streams, one behind another, each from a byte of its own: the words with their codes. -/
def mapped : List (List Word) → List Byte → List (List (Word × Nat))
  | [], _ => []
  | ws :: r, bs =>
    ((List.range ws.length).zip ws).map (fun e => (e.2, (bs.getD (e.1 / 4) 0).toNat / 4 ^ (e.1 % 4) % 4))
      :: mapped r (bs.drop (ceilDiv ws.length 4))

/-- The codes of a stream pass the loader (R59, R82): none is reserved, headers and instructions are coded as what they are,
and no instruction passes the end. -/
def startsOk : List (Word × Nat) → Bool
  | [] => true
  | (w, c) :: r =>
    (c == 0 || (c == 1 && !isHeader w && decide (wordCount w ≤ r.length + 1)) || (c == 2 && isHeader w)) && startsOk r

/-- The words of a stream with their tags (R82). -/
def tagged (l : List (Word × Nat)) : List (Word × Bool) := l.map (fun e => (e.1, e.2 != 0))

/-- What SIGS holds for each stream: CRC-64 over its words and then its start map (R301). -/
def sigsOk : List (List Word) → List Byte → List Byte → Bool
  | [], _, _ => true
  | ws :: r, map_, sigs =>
    let n := ceilDiv ws.length 4
    (crc64 (ws.flatMap (fun w => leBytes 4 w.toNat) ++ map_.take n)).toNat == leNat (sigs.take 8) && decide (8 ≤ sigs.length)
      && decide (n ≤ map_.length) && sigsOk r (map_.drop n) (sigs.drop 8)

/-! ## Placements, load steps, profiles (R301 to R303) -/

/-- A placement entry (R302). -/
structure Placed where
  col0   : Nat
  col1   : Nat
  tier   : Nat
  step   : Nat
  slaved : Bool
  ctx    : Nat
  role   : Nat
deriving DecidableEq, Repr

/-- An entry of PLACE from its 8 bytes. -/
def Placed.ofNat (x : Nat) : Placed :=
  ⟨nbits x 5 0, nbits x 11 6, nbits x 13 12, nbits x 21 14, nbits x 22 22 == 1, nbits x 24 23, nbits x 47 32⟩

/-- A step of BOOT from its 8 bytes. -/
def BootStep.ofNat (x : Nat) : BootStep := ⟨nbits x 1 0, nbits x 17 2, nbits x 19 18⟩

/-- The 8-byte entries of a section. -/
def entries8 (bs : List Byte) : List Nat := (List.range (bs.length / 8)).map (fun i => imageNum bs (8 * i) 8)

/-- The half-column masks of the four profiles of PROF, by number; none for an entry that is not present (R301). -/
def profilesOf (bs : List Byte) : List (Option DWord) :=
  ((List.range 4).map (fun i => imageNum bs (16 * i) 16)).map (fun e =>
    if nbits e 64 64 = 1 then some (BitVec.ofNat 64 e) else none)

/-- The load that a placement entry asks for. -/
def loadOf (ms : List (List (Word × Bool))) (r : Role) (p : Placed) : Load :=
  ⟨p.col0, p.col1, p.tier, p.step, p.ctx, p.role, r.timed, r.entry, r.base, ms, r.data⟩

/-- The streams of each role, taken from those of all roles in order. -/
def byRole {α : Type} : List Role → List α → List (Role × List α)
  | [], _ => []
  | r :: rs, l => (r, l.take r.streams.length) :: byRole rs (l.drop r.streams.length)

/-- Leaders of the gangs that a placement entry marks as slaved. -/
def Placed.leaders (p : Placed) : List Nat :=
  if p.slaved then
    ((List.range 64).filter (fun c => decide (p.col0 ≤ c ∧ c ≤ p.col1))).flatMap (fun c =>
      (clusterCores c p.tier).filter (fun k => leaderOf k == k))
  else []

/-- An image as its bytes and its roles give it. The timed supersteps are those that place a role in context 0, in ascending
order (R306). -/
def imageOf (rs : RoleSection) (bs : List Byte) : Image :=
  let streams := rs.roles.flatMap Role.streams
  let map_ := sectionOf bs 5
  let ms := mapped streams map_
  let places := (entries8 (sectionOf bs 3)).map Placed.ofNat
  let roles := byRole rs.roles (ms.map tagged)
  let timed := (List.range 256).filter (fun n => places.any (fun p => p.ctx == 0 && p.step == n))
  let at_ (n : Nat) : List Placed := places.filter (fun p => p.step == n)
  { wellMade := directoryOk bs && ms.all startsOk && sigsOk streams map_ (sectionOf bs 7)
      && places.all (fun p => decide (p.role < rs.roles.length))
    profiles := profilesOf (sectionOf bs 6)
    loads := (List.range 256).reverse.flatMap (fun n => (at_ n).filterMap (fun p =>
      (roles[p.role]?).map (fun r => loadOf r.2 r.1 p)))
    steps := ((List.range timed.length).zip timed).map (fun e =>
      let g := rs.steps.getD e.1 (0, [])
      ⟨g.1, g.2, ((at_ e.2).filter (fun p => p.ctx == 0)).flatMap Placed.leaders⟩)
    roles := rs.roles.length
    boot := (entries8 (sectionOf bs 4)).map BootStep.ofNat
    digest := BitVec.ofNat 384 (leNat (headerDigest bs)) }

/-! ## The headers of a core's stream (R29) -/

/-- The stream of a load under a profile: an untimed role has one for all (R301). -/
def Load.stream (l : Load) (prof : Nat) : List (Word × Bool) := l.streams.getD (if l.timed then prof else 0) []

/-- The headers of a stream but for the end mark, with their addresses. -/
def Load.headers (l : Load) (prof : Nat) : List (Nat × Word) :=
  ((List.range (l.stream prof).length).zip (l.stream prof)).filterMap (fun e =>
    if e.2.2 && isHeader e.2.1 && e.2.1 != 0x0000000F then some (4 * (l.base + e.1), e.2.1) else none)

/-- The headers of c0 of a column's tier under a profile: of the roles it runs, in superstep order, each once (R61). -/
def Image.headers (im : Image) (prof col tier : Nat) : List (Nat × Word) :=
  ((im.loads.reverse.filter (fun l => l.ctx == 0 && l.tier == tier && decide (l.col0 ≤ col ∧ col ≤ l.col1))).foldl
    (fun (a : List Nat × List (Nat × Word)) l =>
      if a.1.contains l.role then a else (l.role :: a.1, a.2 ++ l.headers prof)) ([], [])).2

/-- A header as R29 compares it: kind, tier mask, energy class and length in beats. -/
def headerShape (tier : Nat) (w : Word) : Nat × BitVec 4 × Nat × Nat :=
  (headerKind w, headerTiers w, headerEnergy w, ceilDiv (headerLen w) (Config.beatMultiple tier))

/-- A stream of a tier has no instruction in a phase whose mask leaves the tier out (R29). `cur` is the header of the phase. -/
def idleOk (tier : Nat) : Option Word → List (Word × Bool) → Bool
  | _, [] => true
  | cur, (w, tag) :: r =>
    if tag && isHeader w then idleOk tier (if w = 0x0000000F then none else some w) r
    else (!tag || (match cur with
      | some h => (headerTiers h).getLsbD tier
      | none => true)) && idleOk tier cur r

/-- Every core of a group carries the same headers, under each profile that is present, as many as its supersteps have
phases; in comm and vert phases L is a multiple of the tier's beat multiple, and a tier that a mask leaves out has no
instruction in the phase (R29). -/
def Image.phasesOk (im : Image) (cols : BitVec 64) (tiers : BitVec 4) : Bool :=
  let places := ((List.range 64).filter (fun c => cols.getLsbD c)).flatMap (fun c =>
    ((List.range 4).filter (fun t => tiers.getLsbD t)).map (fun t => (c, t)))
  let n := (im.steps.map Superstep.phases).foldl (· + ·) 0
  ((List.range im.profiles.length).filter (fun i => (im.profiles.getD i none).isSome)).all (fun prof =>
    let hs := places.map (fun p => (p.2, im.headers prof p.1 p.2))
    let shapes := hs.map (fun h => h.2.map (fun w => headerShape h.1 w.2))
    shapes.all (fun x => x == shapes.headD [] && x.length == n)
      && hs.all (fun h => h.2.all (fun w => headerKind w.2 == 0 || headerLen w.2 % Config.beatMultiple h.1 == 0))
      && (im.loads.filter (fun l => l.ctx == 0 && tiers.getLsbD l.tier
          && places.any (fun p => decide (l.col0 ≤ p.1 ∧ p.1 ≤ l.col1)))).all (fun l => idleOk l.tier none (l.stream prof)))

/-! ## Reading an image -/

/-- The image at an address, read through the translation of the partition's column; its roles are known by the physical
address of its first byte, which is translated once (R185), and a place without any holds no image (log 8). -/
def State.imageAt (s : State) (part col va pa : Nat) (ev : Event) : FarRes (Option Image) × State :=
  match s.gaf.images.find? (fun e => e.1 == pa) with
  | none => (.ok none, s)
  | some e => match s.farRead part col va e.2.size 0 ev with
    | (.wait, s) => (.wait, s)
    | (.fault t, s) => (.fault t, s)
    | (.ok bs, s) => (.ok (some (imageOf e.2 bs)), s)

end Sys2Proof.Machine
end

