-- ==== Sys2Proof/Machine/Levels.lean ====
section
/-! DEFINITION. Restriction, prolongation and weight sets, with the lanes and the parent ports (R138 to R152, R368). -/

namespace Sys2Proof.Machine

/-! ## The descriptor (R142, R143) -/

/-- A descriptor as its bits stand. -/
def VDesc.ofNat (x : Nat) : VDesc :=
  { fbase := nbits x 31 0, nx := nbits x 41 32 + 1, ny := nbits x 51 42 + 1, nz := nbits x 61 52 + 1
    fsy := nbits x 83 64, fsz := nbits x 103 84, csy := nbits x 152 128, csz := nbits x 184 160
    mask := BitVec.ofNat 3 (nbits x 194 192), par := BitVec.ofNat 3 (nbits x 197 195) }

/-- Coarse count of a dimension (R143). -/
def coarse (n : Nat) (mask par : Bool) : Nat := if mask then (n + if par then 1 else 0) / 2 + 1 else n
/-- Coarse count in x. -/
def VDesc.cx (d : VDesc) : Nat := coarse d.nx (d.mask.getLsbD 0) (d.par.getLsbD 0)
/-- Coarse count in y. -/
def VDesc.cy (d : VDesc) : Nat := coarse d.ny (d.mask.getLsbD 1) (d.par.getLsbD 1)
/-- Coarse count in z. -/
def VDesc.cz (d : VDesc) : Nat := coarse d.nz (d.mask.getLsbD 2) (d.par.getLsbD 2)
/-- Bytes of the coarse box. -/
def VDesc.boxBytes (d : VDesc) : Nat := 4 * d.cx * d.cy * d.cz

/-- The limits of R143. -/
def descOk (x : Nat) : Bool :=
  let d := VDesc.ofNat x
  decide (d.par &&& ~~~d.mask = 0) && d.fsy % 4 == 0 && d.fsz % 4 == 0 && d.csy % 4 == 0 && d.csz % 4 == 0
    && (decide (d.ny ≤ 1) || decide (4 * d.nx ≤ d.fsy)) && (decide (d.nz ≤ 1) || decide (d.fsy * d.ny ≤ d.fsz))
    && (decide (d.cy ≤ 1) || decide (4 * d.cx ≤ d.csy)) && (decide (d.cz ≤ 1) || decide (d.csy * d.cy ≤ d.csz))
    && decide (d.boxBytes ≤ 16384)
    && nbits x 63 62 == 0 && nbits x 127 104 == 0 && nbits x 159 153 == 0 && nbits x 191 185 == 0 && nbits x 511 198 == 0

/-- Points of a box in linear order: x, y, z. -/
def points (nx ny nz : Nat) : List (Nat × Nat × Nat) :=
  (List.range nz).flatMap (fun z => (List.range ny).flatMap (fun y => (List.range nx).map (fun x => (x, y, z))))

/-- Address of a fine element. -/
def VDesc.fineAt (d : VDesc) (i : Nat × Nat × Nat) : Nat := d.fbase + i.2.2 * d.fsz + i.2.1 * d.fsy + 4 * i.1
/-- Offset of a coarse element from the bank address. -/
def VDesc.coarseAt (d : VDesc) (j : Nat × Nat × Nat) : Nat := j.2.2 * d.csz + j.2.1 * d.csy + 4 * j.1

/-- Fine indices of one dimension that touch a coarse index, ascending, with d + 1 (R143). -/
def fineOf (n : Nat) (mask par : Bool) (j : Nat) : List (Nat × Nat) :=
  if mask then
    (List.range 3).filterMap (fun e =>
      let s := 2 * j + e
      let o := if par then 2 else 1
      if o ≤ s ∧ s - o < n then some (s - o, e) else none)
  else [(j, 1)]

/-- Coarse indices of one dimension that a fine index touches, ascending, with d + 1 (R143). -/
def coarseOf (mask par : Bool) (i : Nat) : List (Nat × Nat) :=
  if mask then
    let s := i + if par then 1 else 0
    if s % 2 = 0 then [(s / 2, 1)] else [(s / 2, 2), (s / 2 + 1, 0)]
  else [(i, 1)]

/-- Pairs of three dimensions in linear order: a point, and the index of its weight (R143). -/
def pairs3 (xs ys zs : List (Nat × Nat)) : List ((Nat × Nat × Nat) × Nat) :=
  zs.flatMap (fun z => ys.flatMap (fun y => xs.map (fun x => ((x.1, y.1, z.1), 9 * z.2 + 3 * y.2 + x.2))))

/-- Fine points that touch a coarse point, in ascending linear order, with their weights' indices. -/
def VDesc.touching (d : VDesc) (j : Nat × Nat × Nat) : List ((Nat × Nat × Nat) × Nat) :=
  pairs3 (fineOf d.nx (d.mask.getLsbD 0) (d.par.getLsbD 0) j.1) (fineOf d.ny (d.mask.getLsbD 1) (d.par.getLsbD 1) j.2.1)
    (fineOf d.nz (d.mask.getLsbD 2) (d.par.getLsbD 2) j.2.2)
/-- Coarse points that a fine point touches, in ascending linear order, with their weights' indices. -/
def VDesc.touched (d : VDesc) (i : Nat × Nat × Nat) : List ((Nat × Nat × Nat) × Nat) :=
  pairs3 (coarseOf (d.mask.getLsbD 0) (d.par.getLsbD 0) i.1) (coarseOf (d.mask.getLsbD 1) (d.par.getLsbD 1) i.2.1)
    (coarseOf (d.mask.getLsbD 2) (d.par.getLsbD 2) i.2.2)

/-! ## Arithmetic (R144 to R146) -/

/-- acc + W·v for each pair, fused, one rounding each. -/
def fmaSum (acc : Nat × FlagSet) (ps : List (Nat × Nat)) : Nat × FlagSet :=
  ps.foldl (fun a p =>
    let r := fmaV f32 .rne (f32.decode p.1) (f32.decode p.2) (f32.decode a.1)
    (r.val, a.2 ||| r.flags)) acc

/-- A child's contributions by bank address, and their flags (R144). -/
def contributions (c : Core) (d : VDesc) (bank : Nat) (ws : List Word) : List (Nat × Word) × FlagSet :=
  (points d.cx d.cy d.cz).foldl (fun acc j =>
    let r := fmaSum (0, acc.2) ((d.touching j).map (fun t => ((ws.getD t.2 0).toNat, c.readNat (d.fineAt t.1) 4)))
    (acc.1 ++ [(bank + d.coarseAt j, BitVec.ofNat 32 r.1)], r.2)) ([], 0)

/-- One destination word of a merge (R145): whether it starts at +0, and its contributions in child order. -/
def mergeWord (old : Nat) (cs : List (Bool × Word)) : Nat × FlagSet :=
  match cs with
  | [] => (old, 0)
  | (ovw, _) :: _ =>
    cs.foldl (fun a c =>
      let r := addV f32 .rne (f32.decode a.1) (f32.decode c.2.toNat)
      (r.val, a.2 ||| r.flags)) (if ovw then 0 else old, 0)

/-- Addresses without repeats. -/
def distinct (l : List Nat) : List Nat := l.foldl (fun m a => if m.contains a then m else m ++ [a]) []

/-- A bank takes a merge of contributions in child order: every word that receives one; an uncorrectable word that is
added into is written poisoned (R145, R178, R179). A box may give one word twice, where c_y is 1 and CSZ below 4·c_x: the
spec does not say which value is that child's, and the first in the box's order is taken (DESIGN CHOICE, log 27). -/
def State.mergeInto (s : State) (home : Nat) (sets : List Contribution) : State :=
  let s := s.settlePorts home s.now
  let s := (distinct (sets.flatMap (fun c => c.vals.map (·.1)))).foldl (fun s q =>
    let cs := sets.filterMap (fun c => (c.vals.find? (fun v => v.1 == q)).map (fun v => (c.ovw, v.2)))
    let co := s.core home
    let r := mergeWord (co.readNat q 4) cs
    let bad := co.bad q && !(match cs with | (o, _) :: _ => o | [] => true)
    let s := if (cs.head?.map (·.1)).getD true then s else s.correct home q 4
    let s := s.portStore .other home 2 q (leBytes 4 r.1) (if bad then [q] else [])
    s.modCore home (fun c => applyAct (tierOf home) c 0 (.orFlags r.2))) s
  s

/-! ## Lanes (R138, R151, R152) -/

/-- State of a child's lane. -/
def State.lane (s : State) (k : Nat) : LaneState := sget .full s.dev.lanes k
/-- The running profile schedules a core's column at half width (R151). -/
def State.halfColumn (s : State) (k : Nat) : Bool :=
  match (s.core k).ctl.kernel with
  | some i => (match s.kernel i with
    | some kn => kn.profile.getLsbD (columnOf k)
    | none => false)
  | none => false
/-- A lane whose width differs from the running profile's (R35, R152). -/
def State.laneBad (s : State) (k : Nat) : Bool :=
  match s.lane k with
  | .full => false
  | .half => !s.halfColumn k
  | .dead => true

/-! ## Issue -/

/-- c0 within a vert phase (R141). -/
def inVert (s : State) : Bool :=
  match (s.core s.cur.1).ctl.phase with
  | some p => inStep s && p.kind == .vert
  | none => false

/-- The core whose bank an operation reaches. -/
def vertHome (self : Bool) (k : Nat) : Nat := if self then k else parentOf k

/-- The checks 2 to 7 of R141, then the uncorrectable words that the core itself reads (R178): the descriptor. -/
def checkVert (s : State) (a b : Reg) (self : Bool) : Except Trap VDesc := do
  let at_ := rv s a
  let _ ← (if at_.toNat % 64 ≠ 0 then .error ⟨.align, 0, at_, false⟩ else .ok ())
  let p ← checkNear s .localStore false at_.toNat 64 64
  let x := leNat (← readNear s p 64)
  if !descOk x then throw (.of .illop)
  let d := VDesc.ofNat x
  if d.fbase % 4 ≠ 0 then throw (.at_ .align d.fbase)
  let bank := (rv s b).toNat
  if bank % 4 ≠ 0 then throw (.at_ .align bank)
  match (points d.nx d.ny d.nz).find? (fun i => decide (Config.localSize s.tier ≤ d.fineAt i)) with
  | some i => throw (.at_ .bankrange (d.fineAt i))
  | none =>
    let hi := Config.statusBase (tierOf (vertHome self s.cur.1))
    if bank < Config.bankBase then throw (.at_ .bankrange bank)
    match (points d.cx d.cy d.cz).find? (fun j => decide (hi ≤ bank + d.coarseAt j)) with
    | some j => throw (.at_ .bankrange (bank + d.coarseAt j))
    | none => .ok d

/-- The first uncorrectable word of a fine box. -/
def badFine (c : Core) (d : VDesc) : Option Nat :=
  ((points d.nx d.ny d.nz).find? (fun i => c.bad (d.fineAt i))).map d.fineAt

/-- Start and end ticks of an operation that issues now (R148). -/
def vertTimes (s : State) (d : VDesc) (self : Bool) : Nat × Nat :=
  let b := Config.ticksPerBeat
  let prev := (s.core s.cur.1).vert.ops.foldl (fun m o => max m o.endT) 0
  let start := max (ceilTo b s.now) prev
  let w := if !self && s.halfColumn s.cur.1 then 16 else 32
  (start, start + (4 + ceilDiv d.boxBytes w) * b)

/-- The nth set of a parent port is complete: its merge falls on the latest end beat (R148). -/
def State.closeSet (s : State) (parent nth : Nat) : State :=
  let cs := (s.core parent).vert.sets.filter (fun c => c.nth == nth)
  if cs.length = 4 then s.post (cs.foldl (fun m c => max m c.endT) 0) (.rstrMerge parent) else s

/-- A child's nth RSTR given to the parent's port; the child counts it (R145). -/
def State.giveSet (s : State) (k : Nat) (ovw : Bool) (vals : List (Nat × Word)) (endT : Nat) : State :=
  let n := (s.core k).vert.nth
  let s := s.modVert k (fun v => { v with nth := n + 1 })
  let s := s.modVert (parentOf k) (fun v => { v with sets := v.sets ++ [⟨childIndex k, n, ovw, vals, endT⟩] })
  s.closeSet (parentOf k) n

/-- An operation whose lane failed it has no effect: nothing of an RSTR is merged (R152). -/
def State.loseVert (s : State) (k : Nat) (o : VOp) : State :=
  let s := s.modVert k (fun v => { v with
    ops := v.ops.map (fun (x : VOp) => if x.startT = o.startT then { x with lost := true } else x) })
  if o.rstr && !o.self then
    s.modVert (parentOf k) (fun v => { v with
      sets := v.sets.map (fun (c : Contribution) =>
        if c.child = childIndex k ∧ c.nth = o.nth then { c with vals := [] } else c) })
  else s

/-- An operation put on the lane with its start and end (R148). -/
def State.launchVert (s : State) (o : VOp) : State :=
  let k := s.cur.1
  let s := s.modVert k (fun v => { v with ops := v.ops ++ [o] })
  (s.post o.startT (.verticalOpStart k)).post o.endT (.verticalOpEnd k)

/-- A lane that does not fit the profile: TIMING 0x6 in the child and in the parent (R35, R152). -/
def State.laneTrap (s : State) (k : Nat) : State :=
  [parentOf k, k].foldl (fun s i =>
    let c := s.core i
    if c.timed 0 ∧ !c.ctl.stopped then s.takeTrap (i, 0) (s.issuedWord (i, 0)) (.timing 6) else s) s

/-- A weight set as it stands (R147). -/
def weightsOf (c : Core) (n : Nat) : List Word := (List.range 27).map (fun j => sget 0 c.vert.ws (27 * n + j))

/-- The issue of RSTR and PRLG (R140, R141). -/
def vertNeed (h : Hdr) (a b : Reg) (self : Bool) (s : State) : Need :=
  { len := 3, hdr := h, rs := [a, b], ill := !inVert s || (s.tier == 3 && !self), reading := bytesAt (rv s a).toNat 64 }

/-- RSTR's effect (R144, R148). Where a lane does not fit the profile and eight operations are outstanding as well, TIMING
0x6 is raised, not 0x2, as in PRLG (DESIGN CHOICE, log 27). -/
def rstrBody (d : WsReg) (a b : Reg) (ovw self : Bool) (s : State) : Except Trap Done := do
  let k := s.cur.1
  let c := s.core k
  let ds ← checkVert s a b self
  match badFine c ds with
  | some w => throw (c.eccu w)
  | none =>
    if !self && s.laneBad k then .ok ⟨s.laneTrap k, .moved⟩
    else if 8 ≤ c.vert.ops.length then throw (.timing 2)
    else
      let (st, en) := vertTimes s ds self
      let ws := weightsOf c d.toNat
      let (vals, fl) := contributions c ds (rv s b).toNat ws
      let o : VOp := ⟨true, ovw, self, ds, (rv s b).toNat, ws, vals, [], fl, c.vert.nth, st, en, false, s.now⟩
      let s := (points ds.nx ds.ny ds.nz).foldl (fun s i => s.correct k (ds.fineAt i) 4) (s.launchVert o)
      .ok ⟨if self then s else s.giveSet k ovw vals en, .next⟩

/-- An RSTR without SELF whose guard is false still counts (R145, R148, R368). -/
def countsFalse (n : Need) (self : Bool) (s : State) : Bool :=
  !self && !illegal n s && (guardWait n s).isNone && !guardHolds n s

/-- RSTR (R140, R144, R368). -/
def execRstr (h : Hdr) (d : WsReg) (a b : Reg) (_ty : Ty) (ovw self : Bool) (s : State) :
    Host.Outcome State Fault Refusal :=
  let n := vertNeed h a b self s
  issue n (rstrBody d a b ovw self)
    (if countsFalse n self s then s.giveSet s.cur.1 ovw [] (ceilTo Config.ticksPerBeat s.now) else s)

/-- PRLG's effect at issue (R146, R148). -/
def prlgBody (d : WsReg) (a b : Reg) (ovw self : Bool) (s : State) : Except Trap Done := do
  let k := s.cur.1
  let c := s.core k
  let ds ← checkVert s a b self
  match (if ovw then none else badFine c ds) with
  | some w => throw (c.eccu w)
  | none =>
    if !self && s.laneBad k then .ok ⟨s.laneTrap k, .moved⟩
    else if 8 ≤ c.vert.ops.length then throw (.timing 2)
    else
      let (st, en) := vertTimes s ds self
      .ok ⟨s.launchVert ⟨false, ovw, self, ds, (rv s b).toNat, weightsOf c d.toNat, [], [], 0, 0, st, en, false, s.now⟩, .next⟩

/-- PRLG (R140, R146). -/
def execPrlg (h : Hdr) (d : WsReg) (a b : Reg) (_ty : Ty) (ovw self : Bool) (s : State) :
    Host.Outcome State Fault Refusal := issue (vertNeed h a b self s) (prlgBody d a b ovw self) s

/-- WSLD (R147). -/
def execWsld (h : Hdr) (d : WsReg) (a : Reg) (s : State) : Host.Outcome State Fault Refusal :=
  issue { len := 3, hdr := h, rs := [a], bytes := bytesAt (rv s a).toNat 108 }
    (fun s => do
      let p ← checkNear s .localStore false (rv s a).toNat 108 4
      let bs ← readNear s p 108
      done s 4 [.ws d.toNat ((List.range 27).map (fun i => BitVec.ofNat 32 (leNat ((bs.drop (4 * i)).take 4))))]) s

/-! ## The lanes' own steps -/

/-- VERTICAL_OP_START (R146, R148, R152, R368): a lane that no longer fits the profile is found; a PRLG that starts at this beat reads the coarse box from the bank, after the
merges and writes of its cycle. -/
def execVerticalOpStart (s : State) : Host.Outcome State Fault Refusal :=
  match s.event with
  | some (.verticalOpStart k) =>
    .next (
      match (s.core k).vert.ops.find? (fun o => o.startT == s.now) with
      | none => s
      | some o =>
        if !o.self && s.laneBad k then
          (s.loseVert k o).laneTrap k
        else if o.rstr then s
        else
          let home := vertHome o.self k
          let s := s.settle home s.now
          let c := s.core home
          let js := points o.desc.cx o.desc.cy o.desc.cz
          let s := js.foldl (fun s j => s.correct home (o.bank + o.desc.coarseAt j) 4) s
          let vals := js.map (fun j => (o.desc.coarseAt j, BitVec.ofNat 32 (c.readNat (o.bank + o.desc.coarseAt j) 4)))
          let pois := (js.map o.desc.coarseAt).filter (fun q => c.bad (o.bank + q))
          s.modVert k (fun v => { v with
            ops := v.ops.map (fun (x : VOp) => if x.startT = s.now then { x with vals := vals, pois := pois } else x) }))
  | _ => .fault .notDue

/-- A fine point after a prolongation (R146): its word, flags, and whether it is delivered poisoned (R178). -/
def prolonged (c : Core) (o : VOp) (i : Nat × Nat × Nat) : Nat × FlagSet × Bool :=
  let ts := o.desc.touched i
  let old := if o.ovw then 0 else c.readNat (o.desc.fineAt i) 4
  let r := fmaSum (old, 0) (ts.map (fun t =>
    ((o.weights.getD t.2 0).toNat, match o.vals.find? (fun v => v.1 == o.desc.coarseAt t.1) with
      | some v => v.2.toNat
      | none => 0)))
  (r.1, r.2, ts.any (fun t => o.pois.contains (o.desc.coarseAt t.1)) || (!o.ovw && c.bad (o.desc.fineAt i)))

/-- The fine words of a prolongation written at its end beat (R146, R174): computed from local store as it stands after every
write of that cycle (R153, R421); a store of the core that takes effect in it was issued later and remains, since its latency is
the shorter. -/
def State.finishPrlg (s : State) (k : Nat) (o : VOp) : State :=
  let c := (s.settle k s.now).core k
  let s := s.settleUnit k s.now
  let ps := (points o.desc.nx o.desc.ny o.desc.nz).map (fun i => (o.desc.fineAt i, prolonged c o i))
  let s := if o.ovw then s else ps.foldl (fun s p => s.correct k p.1 4) s
  let s := s.modCore k (fun c => ps.foldl (fun c p =>
    c.applyHeld (tierOf k) ⟨2, p.1, leBytes 4 p.2.1, if p.2.2.2 then [p.1] else [], false, .other⟩) c)
  s.modCore k (fun c => applyAct (tierOf k) c 0 (.orFlags (ps.foldl (fun f p => f ||| p.2.2.1) 0)))

/-- A running expansion instruction that ends now and was issued before a tick (R174). -/
def State.expandsFirst (s : State) (k issued : Nat) : Bool :=
  s.agenda.any (fun e => e.at_ == s.now && e.ev == .expansionOpEnd k)
    && (match (s.core k).xu.queue with
      | x :: _ => decide (x.issued < issued)
      | [] => false)

/-- VERTICAL_OP_END (R144, R145, R146, R148): flags appear; a PRLG writes its fine words, behind those of an expansion
instruction issued before it (R174); a restriction with SELF merges into the core's own bank. An operation whose lane died
has no effect (R152). -/
def execVerticalOpEnd (s : State) : Host.Outcome State Fault Refusal :=
  match s.event with
  | some (.verticalOpEnd k) =>
    .next (
      match (s.core k).vert.ops.find? (fun o => o.endT == s.now) with
      | none => s
      | some o =>
        if !o.rstr && s.expandsFirst k o.issued then s.post s.now (.verticalOpEnd k) else
        let s := s.modVert k (fun v => { v with ops := v.ops.filter (fun x => x.endT != s.now) })
        if o.lost then s
        else if o.rstr then
          let s := s.modCore k (fun c => applyAct (tierOf k) c 0 (.orFlags o.flags))
          if o.self then s.mergeInto k [⟨0, 0, o.ovw, o.vals, o.endT⟩] else s
        else s.finishPrlg k o)
  | _ => .fault .notDue

/-- RSTR_MERGE (R145): the sets of a parent port that are complete and due are merged, the oldest first, child by
child. -/
def execRstrMerge (s : State) : Host.Outcome State Fault Refusal :=
  match s.event with
  | some (.rstrMerge p) =>
    .next (
      let sets := (s.core p).vert.sets
      let due := (distinct (sets.map (·.nth))).filter (fun n =>
        let cs := sets.filter (fun c => c.nth == n)
        cs.length == 4 && cs.all (fun c => decide (c.endT ≤ s.now)))
      match due with
      | [] => s
      | n :: _ =>
        let cs := [0, 1, 2, 3].filterMap (fun i => sets.find? (fun c => c.nth == n && c.child == i))
        (s.modVert p (fun v => { v with sets := v.sets.filter (fun c => c.nth != n) })).mergeInto p cs)
  | _ => .fault .notDue

/-- A lane's states from best to worst (R139). -/
def laneRank : LaneState → Nat
  | .full => 0 | .half => 1 | .dead => 2

/-- LANE_STATE_CHANGE (R139, R152): at a beat boundary while the lane is idle; a lane that dies under an operation ends it
at its end beat with nothing merged. A lane only worsens. -/
def execLaneStateChange (s : State) : Host.Outcome State Fault Refusal :=
  match s.event with
  | some (.laneStateChange k st) =>
    .next (
      if tierOf k = 3 ∨ laneRank st ≤ laneRank (s.lane k) then s
      else
        match (s.core k).vert.ops.find? (fun o => !o.self && decide (o.startT < s.now ∧ s.now < o.endT)) with
        | some o =>
          let s := if st ≠ .dead then s else s.loseVert k o
          s.post o.endT (.laneStateChange k st)
        | none =>
          if s.now % Config.ticksPerBeat ≠ 0 then s.post (ceilTo Config.ticksPerBeat s.now) (.laneStateChange k st)
          else
            let s := s.modDev (fun d => { d with lanes := sset .full d.lanes k st })
            s.modCol (columnOf k) (fun c => { c with chg := true }))
  | _ => .fault .notDue

end Sys2Proof.Machine
end

