-- ==== Sys2Proof/Machine/Order.lean ====
section
/-! DEFINITION. Fences, bindings with ACQ and REL, and the delivery of SC operations (R214 to R222, R314, R339, R369). -/

namespace Sys2Proof.Machine

/-! ## Fences (R215 to R217) -/

/-- Least latency of a fence outside the timetable, in ticks (R217). -/
def fenceTicks (k : Nat) : Scope → Nat
  | .core => cyc k
  | .gang | .cluster => 2 * beatTicks
  | .column => 3 * beatTicks
  | .quad => 6 * beatTicks
  | .device | .system => 10 * beatTicks

/-- A FENCE OR FENCEX: in timed code it waits for nothing; elsewhere it holds its context (R216, R217); one of scope core waits for
no write and holds the accesses behind it (R339, R420). -/
def fence (h : Hdr) (scope : Scope) (p1 p2 : Path) (s : State) : Host.Outcome State Fault Refusal :=
  issue { len := 3, hdr := h, ill := inStep s && !(timedPath p1 && timedPath p2) }
    (fun s => if inStep s then .ok ⟨s, .next⟩
      else .ok ⟨if scope = .core then s.leaveFence p1 p2 else s, .hold (.fence p1 scope (s.now + fenceTicks s.cur.1 scope))⟩) s

/-- FENCE: FENCEX LS, LS (R215). -/
def execFence (h : Hdr) (scope : Scope) (s : State) : Host.Outcome State Fault Refusal := fence h scope .ls .ls s
/-- FENCEX (R215, R216). -/
def execFencex (h : Hdr) (scope : Scope) (path p2 : Path) (s : State) : Host.Outcome State Fault Refusal :=
  fence h scope path p2 s

/-! ## Bindings (R218) -/

/-- The bindings after a BIND, or none when a ninth object comes (R218). -/
def bindIn (l : List Binding) (b : Binding) : Option (List Binding) :=
  if b.n = 0 then some (l.filter (fun x => x.obj != b.obj))
  else if l.any (fun x => x.obj == b.obj) then some (l.map (fun x => if x.obj = b.obj then b else x))
  else if 8 ≤ l.length then none
  else some (l ++ [b])

/-- BIND (R218, R318). -/
def execBind (h : Hdr) (a b : Reg) (scope : Scope) (n : BitVec 30) (s : State) : Host.Outcome State Fault Refusal :=
  issue { len := 3, hdr := h, rs := [a, b] }
    (fun s =>
      let o := rv s a
      let r := rv s b
      if epLocal o ∨ epLocal r ∨ !epOk o ∨ !epOk r then .error (.of .illop)
      else match bindIn (s.ctx s.cur).binds ⟨o, r, n, scope⟩ with
        | none => .error (.of .illop)
        | some l =>
          if o.toNat % 8 ≠ 0 then .error ⟨.align, 0, o, false⟩
          else if r.toNat % 64 ≠ 0 then .error ⟨.align, 0, r, false⟩
          else .ok ⟨s.modCtx s.cur (fun x => { x with binds := l }), .next⟩) s

/-! ## ACQ and REL (R219, R314, R369) -/

/-- The access to an object word: the value that wD takes (R219). A near word is read and written as one act of its bank's
engine channel, which waits for an atomic's slot; the SC run waits for none (R313). -/
def State.objectAccess (s : State) (q : Nat × Nat) (obj : DWord) (rel run : Bool) (ev : Event) : FarRes DWord × State :=
  let col := columnOf q.1
  if epNear obj then
    let home := epCore col obj
    let a := epAddr obj (epOff obj)
    let s := if rel ∨ run then s else s.settle home s.now
    if ((s.core home).badIn a 8).isSome then (.fault tEcc, s)
    else if !rel then (.ok (BitVec.ofNat 64 ((s.core home).readNat a 8)), s.correct home a 8)
    else match s.portAdd run home a 1 with
      | some (v, s) => (.ok (BitVec.ofNat 64 v), s)
      | none => (.wait, s.post (s.now + cyc home) ev)
  else
    let r : AtomicReq := ⟨q.1, q.2, 0, if rel then 0 else 6, .i64, none, false, obj.toNat, if rel then 1 else 0, 0,
      (s.part (s.partOf q.1)).epoch⟩
    match s.farRmw (s.partOf q.1) col r ev with
    | (.ok v, s) => (.ok (if rel then v + 1 else v), s)
    | x => x

/-- The address a trap names for an object word: its far address, or its near address at its core. -/
def objectAddr (obj : DWord) : DWord := if epNear obj then BitVec.ofNat 64 (epAddr obj (epOff obj)) else obj

/-- The end of an access to an object word: SUB of a far object's trap holds the TSTAT (R74, R219). -/
def State.objectEnd (s : State) (q : Nat × Nat) (num : Nat) (obj : DWord) (r : FarRes DWord) : State :=
  match r with
  | .ok v => s.answer q num v
  | .fault t => s.answerTrap q num (if epNear obj then .at_ .eccu (objectAddr obj).toNat else
      ⟨if t = tEcc then .eccu else .farfault, t, obj, false⟩)
  | .wait => s

/-- The place of a binding's region. -/
def Binding.span (b : Binding) (col : Nat) : Span :=
  if epNear b.rbase then ⟨some (epCore col b.rbase), epAddr b.rbase (epOff b.rbase), b.n.toNat, 0⟩
  else ⟨none, epOff b.rbase, b.n.toNat, 0⟩

/-- An LS or MS write of a context to the region bound to an object is not performed (R219, R369). -/
def State.regionOut (s : State) (q : Nat × Nat) (obj : DWord) : Bool :=
  match (s.ctx q).binds.find? (fun b => b.obj == obj) with
  | none => false
  | some b => (s.lsWrites q ++ s.msWrites q).any (fun w => w.meets (b.span (columnOf q.1)))

/-- OBJECT_REPLY (R211, R219, R271, R369): REL first waits for its context's LS and MS writes to the bound region. -/
def execObjectReply (s : State) : Host.Outcome State Fault Refusal :=
  match s.event with
  | some (.objectReply k c num obj rel epoch) =>
    .next (
      let ev : Event := .objectReply k c num obj rel epoch
      if (s.part (s.partOf k)).epoch ≠ epoch then s
      else
        let at_ := if epNear obj then ceilTo (cyc (epCore (columnOf k) obj)) s.now else s.now
        if rel ∧ s.regionOut (k, c) obj then s.post ((s.beat + 1) * beatTicks) ev
        else if !epNear obj ∧ s.lineBusy (k, c) obj.toNat ev then s.putOff (s.now + cyc k) ev
        else if at_ ≠ s.now then s.post at_ ev
        else match s.objectAccess (k, c) obj rel false ev with
          | (.wait, s) => s
          | (r, s) => (s.forget ev).objectEnd (k, c) num obj r)
  | _ => .fault .notDue

/-- ACQ or REL (R219, R314, R369). -/
def objectIssue (rel : Bool) (h : Hdr) (d a : Reg) (sc : Bool) (s : State) : Host.Outcome State Fault Refusal :=
  let obj := rv s a
  let own := !rel && epNear obj && epCore (columnOf s.cur.1) obj == s.cur.1
  issue { len := 3, hdr := h, rs := [a], rd := [d], ill := inStep s
          bytes := if own then [(epAddr obj (epOff obj), 8)] else [], reading := [] }
    (fun s =>
      let obj := rv s a
      let q := s.cur
      if !(s.ctx q).binds.any (fun b => b.obj == obj) then .error (.of .illop)
      else
        let (num, s') := s.number
        if sc then .ok ⟨s'.issueSc num d (.object obj rel), .hold (.reply d num)⟩
        else
          let (l, s') := s'.draw (cyc q.1)
          let t := if epNear obj then s.now + l else s.lineTick q obj.toNat (s.now + l)
          .ok ⟨s'.post t (.objectReply q.1 q.2 num obj rel (s.part (s.partOf q.1)).epoch), .hold (.reply d num)⟩) s

/-- ACQ (R219, R314). -/
def execAcq (h : Hdr) (d a : Reg) (sc : Bool) (s : State) : Host.Outcome State Fault Refusal := objectIssue false h d a sc s
/-- REL (R219, R369). -/
def execRel (h : Hdr) (d a : Reg) (sc : Bool) (s : State) : Host.Outcome State Fault Refusal := objectIssue true h d a sc s

/-! ## SC operations at their delivery (R221, R313) -/

/-- One SC operation is performed, and its context goes on. -/
def State.performSc (s : State) (o : ScOp) : State :=
  match o.what with
  | .atomic r =>
    (match r.home with
    | some home =>
      let (res, s) := s.performRmw home r
      let s := s.watch home (r.addr / 8)
      (match res with
        | .ok v => s.answer o.who o.num v
        | .error tr => s.answerTrap o.who o.num tr)
    | none => match s.farRmw (s.partOf o.who.1) (columnOf o.who.1) r (.deviceAtomicReply r) with
      | (.ok v, s) => (s.forget (.deviceAtomicReply r)).answer o.who o.num v
      | (.fault t, s) => (s.forget (.deviceAtomicReply r)).answerTrap o.who o.num (farTrap t (BitVec.ofNat 64 r.addr))
      | (.wait, s) => s)
  | .evsig addr =>
    s.addUnit (s.now / cyc o.who.1 * cyc o.who.1) o.who o.d (.evsigSc o.num) addr 0
  | .object obj rel =>
    let ev : Event := .objectReply o.who.1 o.who.2 o.num obj rel (s.part (s.partOf o.who.1)).epoch
    (match s.objectAccess o.who obj rel true ev with
      | (.wait, s) => s
      | (r, s) => (s.forget ev).objectEnd o.who o.num obj r)

/-- SC_DELIVERY (R221, R313): the operations of the window in their total order, before every other write of the cycle. -/
def execScDelivery (s : State) : Host.Outcome State Fault Refusal :=
  match s.event with
  | some (.scDelivery w) =>
    .next (
      let ops := scOrder s.sc w
      let s := { s with sc := s.sc.filter (fun o => o.window != some w) }
      ops.foldl (fun s o => s.performSc o) s)
  | _ => .fault .notDue

end Sys2Proof.Machine
end

