-- ==== Sys2Proof/Machine/Time.lean ====
section
/-! DEFINITION. SLEEP and TWAIT: counts of nanoseconds kept in every cycle at the beat in force (R280). -/

namespace Sys2Proof.Machine

/-- Units of time in one cycle of a core at the code in force (R273). -/
def State.cycleUnits (s : State) (k : Nat) : Nat := cyc k * tickUnits s.dev.power.cur

/-- The tick of the cycle in which a count that starts at a tick runs out. -/
def State.countEnd (s : State) (k left since : Nat) : Nat := since + ceilDiv left (s.cycleUnits k) * cyc k

/-- What is left of a count at the present tick. -/
def State.countLeft (s : State) (left since : Nat) : Nat := left - (s.now - since) * tickUnits s.dev.power.cur

/-- The duration operand of SLEEP and TWAIT in units, or ILLOP (R280). -/
def durationOf (wa : DWord) : Except Trap Nat :=
  if 2 ^ 40 ≤ wa.toNat then .error (.of .illop) else .ok (wa.toNat * nsUnit)

/-- SLEEP (R280). -/
def execSleep (h : Hdr) (a : Reg) (s : State) : Host.Outcome State Fault Refusal :=
  issue { len := 3, hdr := h, rs := [a], ill := inStep s }
    (fun s => do
      let r ← durationOf (rv s a)
      .ok ⟨s.post (s.countEnd s.cur.1 r s.now) (.sleepExpiry s.cur.1 s.cur.2), .gate (.sleep r s.now)⟩) s

/-- TWAIT (R280): a register that has filled ends it at issue. -/
def execTwait (h : Hdr) (d a : Reg) (b : MsgReg) (s : State) : Host.Outcome State Fault Refusal :=
  issue { len := 3, hdr := h, rs := [a], rd := [d], ill := inStep s }
    (fun s => do
      let r ← durationOf (rv s a)
      let m := (s.ctx s.cur).msg b
      if m.full then done s 1 (toReg s d 0)
      else if m.ffull then done s 1 (toReg s d 2)
      else .ok ⟨s.post (s.countEnd s.cur.1 r s.now) (.twaitExpiry s.cur.1 s.cur.2), .gate (.twait d b r s.now)⟩) s

/-- SLEEP_EXPIRY (R280). -/
def execSleepExpiry (s : State) : Host.Outcome State Fault Refusal :=
  match s.event with
  | some (.sleepExpiry k c) =>
    .next (match (s.ctx (k, c)).run with
      | .gated (.sleep _ _) => s.finish (k, c) []
      | _ => s)
  | _ => .fault .notDue

/-- TWAIT_EXPIRY (R280): the result is 1. -/
def execTwaitExpiry (s : State) : Host.Outcome State Fault Refusal :=
  match s.event with
  | some (.twaitExpiry k c) =>
    .next (match (s.ctx (k, c)).run with
      | .gated (.twait d _ _ _) => s.finish (k, c) (scalarAct (tierOf k) (s.ctx (k, c)) d 1)
      | _ => s)
  | _ => .fault .notDue

/-- A count carried over a change of the beat: what is left under the old code, from now on under the new (R280). -/
def State.recount (s : State) (q : Nat × Nat) (old : Nat) : State :=
  let rest (left since : Nat) : Nat := left - (s.now - since) * tickUnits old
  match (s.ctx q).run with
  | .gated (.sleep left since) =>
    let l := rest left since
    let s := (s.cancel (.sleepExpiry q.1 q.2)).modCtx q (fun x => { x with run := .gated (.sleep l s.now) })
    s.post (s.countEnd q.1 l s.now) (.sleepExpiry q.1 q.2)
  | .gated (.twait d m left since) =>
    let l := rest left since
    let s := (s.cancel (.twaitExpiry q.1 q.2)).modCtx q (fun x => { x with run := .gated (.twait d m l s.now) })
    s.post (s.countEnd q.1 l s.now) (.twaitExpiry q.1 q.2)
  | _ => s

end Sys2Proof.Machine
end

