-- ==== Sys2Proof/Machine/Lehr.lean ====
section
/-! DEFINITION. The lehr controller: groups, release notices, the release and end of phases against the power budget,
supersteps, STOP, replay, pre-emption and resumption, and the delivery of THERM (R28 to R36, R45 to R47, R151, R248, R259,
R260, R270, R276, R277). -/

namespace Sys2Proof.Machine

/-! ## Groups (R247) -/

/-- Columns of a kernel's group, ascending. -/
def Kernel.columns (k : Kernel) : List Nat := (List.range 64).filter (fun c => k.cols.getLsbD c)
/-- Cores of a column that belong to the group. -/
def Kernel.columnCores (k : Kernel) (col : Nat) : List Nat :=
  ((List.range 4).filter (fun t => k.tiers.getLsbD t)).flatMap (clusterCores col)
/-- Every core of the group. -/
def Kernel.cores (k : Kernel) : List Nat := k.columns.flatMap k.columnCores
/-- The superstep under way or next. -/
def Kernel.superstep (k : Kernel) : Option Superstep := k.image.steps[k.step]?

/-- The next beat boundary at or after the present tick. -/
def State.beatTick (s : State) : Nat := ceilTo beatTicks s.now

/-! ## Entry stamps (R31) -/

/-- The word that a reference names, as it stands: near in a core's bank, or far under the partition's translation. -/
def State.peekRef (s : State) (part : Nat) (ref : DWord) : FarRes Nat :=
  if ref.getLsbD 63 then .ok ((s.core (nbits ref.toNat 62 48)).readNat (Config.bankBase + nbits ref.toNat 24 0) 8)
  else s.peek part (nbits ref.toNat 56 0) 8

/-- A stamp word has reached an entry stamp's sequence number (R31). -/
def stampReached (seq : BitVec 48) (w : Nat) : Bool := decide (seq.toNat ≤ nbits w 47 0)

/-- Every entry stamp of a superstep has reached its sequence number (R31). One at a peer, which only a request can look at, is as
the notice found it. -/
def State.stampsMet (s : State) (part : Nat) (sp : Superstep) : Bool :=
  sp.stamps.all (fun e => match s.peekRef part e.1 with
    | .ok w => stampReached e.2 w
    | .fault _ => false
    | .wait => true)

/-- Every entry stamp of a superstep looked at, one at a peer by a request of the step that looks (R31): whether all have reached
their numbers, and whether a peer is still to answer. -/
def State.seeStamps (s : State) (part : Nat) (sp : Superstep) (ev : Event) : Bool × Bool × State :=
  sp.stamps.foldl (fun (a : Bool × Bool × State) e => match a.2.2.peekRef part e.1 with
    | .ok w => (a.1 && stampReached e.2 w, a.2.1, a.2.2)
    | .fault _ => (false, a.2.1, a.2.2)
    | .wait => match a.2.2.farRead part (a.2.2.homeCol part) (nbits e.1.toNat 56 0) 8 0 ev with
      | (.ok bs, s) => (a.1 && stampReached e.2 (leNat bs), a.2.1, s)
      | (.fault _, s) => (false, a.2.1, s)
      | (.wait, s) => (false, true, s)) (true, false, s)

/-! ## Waiting at a header (R29, R83) -/

/-- The header at which c0 of a core waits. -/
def State.headerOf (s : State) (k : Nat) : Option Word :=
  match s.storeWord k (s.ctx (k, 0)).pc.toNat with
  | some (w, true) => if isHeader w then some w else none
  | _ => none

/-- c0 that a handler halted is put back at the header of the superstep that is to be released (R31, R424; log 21). -/
def State.toHeader (s : State) (k : Nat) : State :=
  match (s.ctx (k, 0)).run, (s.core k).ctl.head with
  | .halted, some h => s.modCtx (k, 0) (fun x => { x with run := .atHeader, pc := h, sig := 0, sigEnd := none })
  | _, _ => s

/-- c0's next word is a phase header: it issues nothing until cycle L (R30). -/
def State.atHeader (s : State) (k : Nat) : Bool :=
  match s.storeWord k (s.ctx (k, 0)).pc.toNat with
  | some (w, true) => isHeader w
  | _ => false

/-! ## The power budget (R276, R277) -/

/-- Ticks between the decision on a release and the release beat (R277). -/
def decisionTicks : Nat := 4 * beatTicks

/-- What a release that is decided now would rest on (R277). -/
def State.budgetNow (s : State) : Budget :=
  ⟨s.dev.power.cur, s.dev.power.eff.toNat, s.dev.power.eclass, [0, 1, 2, 3].map (fun i => (s.part i).efff.toNat),
    s.dev.power.step⟩

/-- The budget that a release at the present beat was decided on, four beats before it (R277). -/
def State.budget (s : State) : Budget :=
  match s.dev.power.past.find? (fun e => decide (s.now < e.1 + decisionTicks)) with
  | some e => e.2
  | none => s.budgetNow

/-- Estimate of an energy class on a tier, in milliwatts per core (R276). -/
def Budget.estimate (b : Budget) (tier cls : Nat) : Nat :=
  let w := if tier = 0 then b.eclass.1 else if tier = 1 then b.eclass.2.1 else if tier = 2 then b.eclass.2.2.1
    else b.eclass.2.2.2
  nbits w.toNat (16 * cls + 15) (16 * cls)

/-- Estimate of a phase in one column at the nominal beat. -/
def Kernel.phasePower (kn : Kernel) (p : Budget) (w : Word) : Nat :=
  ((List.range 4).filter (fun t => kn.tiers.getLsbD t && (headerTiers w).getLsbD t)).foldl
    (fun n t => n + Config.clusterSide t * Config.clusterSide t * p.estimate t (headerEnergy w)) 0

/-- Estimates of the phases of a kernel that have not reached their end beat. -/
def Kernel.running (kn : Kernel) (now : Nat) : Nat :=
  kn.power.foldl (fun n e => if now < sget 0 kn.colEnd e.1 then n + e.2 else n) 0
/-- Running total of a partition, or of the device. -/
def State.runningPower (s : State) (part : Option Nat) : Nat :=
  s.gaf.kernels.foldl (fun n e => match e.2 with
    | some kn => if part = none ∨ part = some kn.part then n + kn.running s.now else n
    | none => n) 0

/-- Stack budget B in watts; below zero nothing is left (R277). -/
def Budget.stack (b : Budget) : Int := (b.eff : Int) - Config.fixedAllowance
/-- Stack floor of a partition in watts (R277). -/
def Budget.floor (b : Budget) (part : Nat) : Int := (b.floors.getD part 0 : Int) * b.stack / (b.eff : Int)

/-- A release of an estimate is admitted (R277): estimates count at the code in force, so both sides are taken times 80. -/
def State.admits (s : State) (part : Nat) (p : Nat) : Bool :=
  let b := s.budget
  let n : Int := b.code
  decide (((s.runningPower (some part) + p : Nat) : Int) * n ≤ b.floor part * 80000)
    || decide (((s.runningPower none + p : Nat) : Int) * n ≤ b.stack * 80000)

/-- A release of the partition whose other conditions came to hold earlier still waits (R277). -/
def State.earlierWaits (s : State) (part since : Nat) : Bool :=
  s.gaf.kernels.any (fun e => match e.2 with
    | some kn => kn.part == part && kn.waiting.any (fun w => decide (w.2 < since))
    | none => false)

/-! ## What the release notice drops (R33, R134, R164) -/

/-- Expansion operations of the contexts of a core that a test names are abandoned with no effect, and their contexts stand
at them again (R164). -/
def State.abandonExpansion (s : State) (k : Nat) (gone : Nat → Bool) : State :=
  let q := (s.core k).xu.queue
  let headGone := (q.head?.map (fun o => gone o.ctx)).getD false
  let rest := q.filter (fun o => !gone o.ctx)
  let s := s.modXu k (fun u => { u with queue := rest })
  let s := ([1, 2, 3].filter gone).foldl (fun s i => match (s.ctx (k, i)).run with
    | .held .expansion => s.modCtx (k, i) (fun x => { x with run := .running })
    | .gated .expansion => s.modCtx (k, i) (fun x => { x with run := .ready, readyAt := s.now })
    | _ => s) s
  if !headGone then s
  else
    let s := (s.cancel (.expansionOpStart k)).cancel (.expansionOpEnd k)
    let s := s.modCtl k (fun c => { c with xunit := { c.xunit with last := max c.xunit.last s.now } })
    if rest = [] then s else s.post s.now (.expansionOpStart k)

/-- c1–c3 of a core are Frozen, and their untimed work ends as R33 gives. -/
def State.freezeCore (s : State) (k : Nat) : State :=
  ((s.modCtl k (fun c => { c with frozen := true })).abandonSlice k).abandonExpansion k (fun i => i != 0)

/-! ## Releasing phases (R31, R32) -/

/-- Release attempts of every column put on the agenda at a tick. -/
def State.postReleases (s : State) (kid ph t : Nat) (cols : List Nat) : State :=
  cols.foldl (fun s c => s.post t (.phaseRelease kid c ph)) s

/-- The superstep that is to be released is one that is replayed: it ends before a pre-emption at a boundary (R36, R248). -/
def Kernel.replaying (kn : Kernel) : Bool := decide (0 < kn.replays) && kn.frozenReq != some true

/-- RELEASE_NOTICE (R33): sent once the stamps are there and the end beat of the superstep under way is fixed. -/
def execReleaseNotice (s : State) : Host.Outcome State Fault Refusal :=
  match s.event with
  | some (.releaseNotice kid) =>
    .next (match s.kernel kid with
      | none => s
      | some kn =>
        let between := kn.stage == .waiting
        let last := kn.stage == .running && (match kn.superstep with
          | some sp => kn.columns.all (fun c => sget 0 kn.colPhase c == sp.phases)
          | none => false)
        match kn.image.steps[if between then kn.step else kn.step + 1]? with
        | none => s
        | some sp =>
          if !(between || last) ∨ kn.notice.isSome ∨ (kn.frozenReq.isSome ∧ !(between && kn.replaying)) then s
          else
            let ev : Event := .releaseNotice kid
            let (met, asked, s) := s.seeStamps kn.part sp ev
            if asked then s
            else if !met ∨ s.now % beatTicks ≠ 0 then
              (if met then s else s.forget ev).post (ceilTo beatTicks (s.now + 1)) ev
            else
            let s := s.forget ev
            let t := s.now + 8 * beatTicks
            let s := s.modKernel kid (fun k => { k with notice := some t })
            let s := kn.cores.foldl (fun s k => s.freezeCore k) s
            if between then s.postReleases kid 0 t kn.columns else s)
  | _ => .fault .notDue

/-- The kinds of phases by code. -/
def phaseKind (n : Nat) : PhaseKind := if n = 0 then .compute else if n = 1 then .comm else .vert

/-- A core enters a phase: the checkpoint at a superstep's first, c0 at the first instruction, or clock-gated where the
mask leaves its tier out (R27 to R29, R46). A word without a start tag right behind the header, for which R84 gives no
treatment, is stepped over as a SIG word is (DESIGN CHOICE, log 53). -/
def State.startPhase (s : State) (sp : Superstep) (ph : Nat) (k : Nat) : State :=
  match s.headerOf k with
  | none => s
  | some w =>
    let at_ := (s.ctx (k, 0)).pc.toNat
    let len := headerLen w
    let slaved := sp.slaved.contains (leaderOf k)
    let active := (headerTiers w).getLsbD (tierOf k)
    let first := s.skipSig k (at_ + 4)
    let s := s.modCore k (fun c =>
      let x := c.ctx 0
      let c := c.setCtx 0 { x with pc := BitVec.ofNat 32 first, run := if active then .running else .atHeader, sig := 0
                                   sigEnd := none }
      { c with
        slice := { c.slice with ganged := false, line := [], short := false, streams := [] }
        vert := { c.vert with nth := 0 }
        ctl := { c.ctl with
          phase := some ⟨phaseKind (headerKind w), len, s.now, sp.phases, slaved, if slaved then skewOf k else 0, active⟩
          ckpt := if ph = 0 then some (x.checkpoint (BitVec.ofNat 32 at_)) else c.ctl.ckpt
          head := none
          fifo := [] } })
    let s := s.modCtl k (fun c => { c with issueAt := s.now + s.gapAt k first * cyc k })
    s.post (s.now + len * cyc k) (.phaseEnd k)

/-- The tick of a column's end beat for a phase released now: the first beat boundary at or after each core's cycle L
(R30). -/
def State.endBeat (s : State) (kn : Kernel) (col : Nat) : Nat :=
  (kn.columnCores col).foldl (fun t k => match s.headerOf k with
    | some w => max t (ceilTo beatTicks (s.now + headerLen w * cyc k))
    | none => t) s.now

/-- A phase is released in columns; with a superstep's first phase its notice is spent (R33), and from its first release on the
wheels of the group's banks skip their slots (R237). -/
def State.releasePhase (s : State) (kid : Nat) (kn : Kernel) (sp : Superstep) (ph : Nat) (cols : List Nat) : State :=
  let s := if kn.stage = .waiting then kn.cores.foldl (fun s k => s.modCtl k (fun c => { c with skip := true })) s else s
  cols.foldl (fun s col =>
    let e := s.endBeat kn col
    let p := match (kn.columnCores col).head?.bind s.headerOf with
      | some w => kn.phasePower s.budget w
      | none => 0
    let s := (kn.columnCores col).foldl (fun s k => s.startPhase sp ph k) s
    let s := s.modKernel kid (fun k => { k with
      stage := .running
      notice := if k.stage = .waiting then none else k.notice
      colPhase := sset 0 k.colPhase col (ph + 1), colStart := sset 0 k.colStart (64 * ph + col) s.now
      colEnd := sset 0 k.colEnd col e, power := sset 0 k.power col p, waiting := serase k.waiting col })
    s.post e (.phaseRelease kid col (ph + 1))) s

/-- c0 of a core waits at a header, or is halted before one, with no entry to serve (R31, R255; log 21). -/
def State.coreWaits (s : State) (k : Nat) : Bool :=
  ((s.ctx (k, 0)).run == .atHeader || ((s.ctx (k, 0)).run == .halted && (s.core k).ctl.head.isSome))
    && (s.core k).ctl.handling.isNone && (s.core k).ctl.waiting.isEmpty

/-- The release of a phase in columns, tried against the budget; what is not admitted is tried again in the next beat
(R277). -/
def State.tryRelease (s : State) (kid : Nat) (kn : Kernel) (sp : Superstep) (ph col : Nat) (cols : List Nat) : State :=
  let p := match (kn.columnCores col).head?.bind s.headerOf with
    | some w => kn.phasePower s.budget w * cols.length
    | none => 0
  let since := if sget 0 kn.waiting col = 0 then s.now + 1 else sget 0 kn.waiting col
  if s.admits kn.part p ∧ !s.earlierWaits kn.part since then
    let s := s.releasePhase kid kn sp ph cols
    if ph + 1 = sp.phases then s.post s.now (.releaseNotice kid) else s
  else
    (s.modKernel kid (fun k => { k with waiting := sset 0 k.waiting col since })).post (s.now + beatTicks)
      (.phaseRelease kid col ph)

/-- The superstep has ended in every column: contexts go on unless the next is announced, waiting entries are served, and
after the last superstep c0 is Halted (R30, R33, R83). A pre-emption asked for at the boundary follows, behind the end of a
kernel that is complete (R248). -/
def State.endSuperstep (s : State) (kid : Nat) (kn : Kernel) : State :=
  let last := decide (kn.image.steps.length ≤ kn.step + 1)
  let frozen := kn.notice.isSome && !last
  let s := s.modKernel kid (fun k => { k with
    step := k.step + 1, stage := if last then .done else .waiting, colPhase := [], colStart := [], colEnd := [], power := []
    waiting := [], replays := 0, failing := none, width := false })
  let s := kn.cores.foldl (fun s k =>
    let s := s.modCore k (fun c =>
      let c := if last then c.modCtx 0 (fun x => { x with run := .halted }) else c
      { c with ctl := { c.ctl with phase := none, ckpt := none, frozen := frozen, fifo := [], issueAt := s.now, skip := false } })
    s.serve k) s
  if last then
    let s := s.post s.now (.kernelComplete kid)
    if kn.frozenReq.isSome then s.post s.now (.preempt kid false) else s
  else match kn.frozenReq, kn.notice with
    | some _, _ => s.post s.now (.preempt kid false)
    | none, some t => s.postReleases kid 0 (max s.now t) kn.columns
    | none, none => s.post s.now (.releaseNotice kid)

/-- A column's slot for a compute phase is open: the column before it in its kernel's order entered that phase at least STEP
beats ago, as STEP stood when the release beat was fixed (R32, R277). -/
def State.slotOpen (s : State) (kn : Kernel) (ph col : Nat) : Bool :=
  match (kn.columns.filter (fun c => decide (c < col))).getLast? with
  | none => true
  | some c => decide (ph < sget 0 kn.colPhase c) && decide (sget 0 kn.colStart (64 * ph + c) + s.budget.step * beatTicks ≤ s.now)

/-- PHASE_RELEASE (R31, R32, R277): a superstep's first phase under the notice, a later one after the column's end beat;
comm and vert phases in every column at once; behind the last phase, the end of the superstep. -/
def execPhaseRelease (s : State) : Host.Outcome State Fault Refusal :=
  match s.event with
  | some (.phaseRelease kid col ph) =>
    .next (match s.kernel kid with
      | none => s
      | some kn =>
        match kn.superstep with
        | none => s
        | some sp =>
          let again := s.post (s.now + beatTicks) (.phaseRelease kid col ph)
          let turn := (kn.stage == .running || (kn.stage == .waiting && ph == 0)) && sget 0 kn.colPhase col == ph
          let ended := kn.columns.all (fun c => sget 0 kn.colPhase c == ph && decide (sget 0 kn.colEnd c ≤ s.now))
          if !turn then s
          else if ph = sp.phases then (if ended then s.endSuperstep kid kn else s)
          else
            let ready := if ph = 0 then
                ((kn.stage == .running && (kn.columnCores col).all s.coreWaits) || ((match kn.notice with | some t => decide (t ≤ s.now) | none => false)
                  && (kn.frozenReq.isNone || kn.replaying) && kn.cores.all s.coreWaits && s.stampsMet kn.part sp))
              else decide (sget 0 kn.colEnd col ≤ s.now)
            if !ready then again
            else
              let s := if ph = 0 then (kn.columnCores col).foldl (fun s k => s.toHeader k) s else s
              let illegal := (kn.columnCores col).filter (fun k => match s.headerOf k with
                | some w => !headerOk w
                | none => false)
              match (kn.columnCores col).head?.bind s.headerOf with
              | none => s
              | some w =>
                if illegal ≠ [] then
                  (illegal.foldl (fun s k => s.takeTrap (k, 0) (s.issuedWord (k, 0)) (.of .illop)) s).post (s.now + beatTicks)
                    (.phaseRelease kid col ph)
                else if headerKind w = 0 then
                  if s.slotOpen kn ph col then s.tryRelease kid kn sp ph col [col] else again
                else if ended then
                  let s := if ph = 0 then kn.cores.foldl (fun s k => s.toHeader k) s else s
                  s.tryRelease kid kn sp ph col kn.columns
                else s)
  | _ => .fault .notDue

/-! ## The end of a phase (R30, R35, R148) -/

/-- Work of c0 that is still outstanding (TIMING 0x5). -/
def Core.unfinished (c : Core) (now : Nat) : Bool :=
  c.pend.any (fun p => p.ctx == 0 && decide (now < p.due))
    || c.slice.queue.any (fun o => o.ctx == 0) || c.xu.queue.any (fun o => o.ctx == 0)
    || !c.vert.ops.isEmpty || !c.vert.sets.isEmpty

/-- A timed message of a core's c0, or the reply to one, is not performed by a tick (R214). -/
def State.messageLate (s : State) (k by_ : Nat) : Bool :=
  s.agenda.any (fun e => decide (by_ < e.at_) && (match e.ev with
    | .messageArrival _ _ _ _ src c timed => src == k && c == 0 && timed
    | .msgbPortWrite _ _ _ _ src c timed _ => src == k && c == 0 && timed
    | .mgetPortRead _ _ src c _ timed _ _ => src == k && c == 0 && timed
    | .mgetReply k' c _ _ _ => k' == k && c == 0
    | _ => false))

/-- A core outside every phase whose port holds an incomplete set with a contribution of a child (R148, R154; log 27). -/
def State.orphanSet (s : State) (k : Nat) : Bool :=
  decide (tierOf k < 3) && (s.core (parentOf k)).ctl.phase.isNone
    && (s.core (parentOf k)).vert.sets.any (fun c => c.child == childIndex k)

/-- Incomplete sets are discarded with the phase (R148): the core's own, and its parent's when that one runs no phase. -/
def State.dropSets (s : State) (k : Nat) : State :=
  let s := s.modVert k (fun v => { v with sets := [] })
  if s.orphanSet k then s.modVert (parentOf k) (fun v => { v with sets := [] }) else s

/-- PHASE_END (R30, R35, R45): of a core that has not stopped, nor its leader: the next header is reached exactly at cycle L, the last block's signature checks, nothing of the
phase is outstanding, and the header is a legal one. -/
def execPhaseEnd (s : State) : Host.Outcome State Fault Refusal :=
  match s.event with
  | some (.phaseEnd k) =>
    .next (
      let s := s.settle k s.now
      let c := s.core k
      match c.ctl.phase with
      | none => s
      | some p =>
        if p.start + p.len * cyc k ≠ s.now ∨ c.ctl.stopped ∨ c.ctl.handling.isSome
            ∨ (p.slaved && (s.core (leaderOf k)).ctl.stopped) then s
        else if !(s.atHeader k && c.ctl.fifo.isEmpty && decide (c.ctl.issueAt ≤ s.now)) then
          s.takeTrap (k, 0) (s.issuedWord (k, 0)) (.timing 4)
        else match s.sigCheck (k, 0) with
        | some tr => s.trapAtFetch (k, 0) tr
        | none =>
        if c.unfinished s.now ∨ s.messageLate k s.beatTick ∨ s.orphanSet k then
          (s.dropSets k).takeTrap (k, 0) (s.issuedWord (k, 0)) (.timing 5)
        else match s.headerOf k with
          | some w =>
            if !headerOk w then s.takeTrap (k, 0) w (.of .illop)
            else s.modCore k (fun c =>
              let c := c.modCtx 0 (fun x => { x with run := .atHeader, sig := 0, sigEnd := none })
              { c with ctl := { c.ctl with phase := some { p with active := false } } })
          | none => s)
  | _ => .fault .notDue

/-! ## STOP, replay and pre-emption (R36, R45 to R47, R248, R259, R260) -/

/-- STOP (R45): leaders and solo cores stop issuing; a follower issues what its leader forwarded before. Untimed contexts
stop at their instruction boundary. -/
def execStop (s : State) : Host.Outcome State Fault Refusal :=
  match s.event with
  | some (.stop kid) =>
    .next (match s.kernel kid with
      | none => s
      | some kn =>
        let s := kn.cores.foldl (fun s k => s.modCtl k (fun c => { c with
          frozen := true
          stopped := c.stopped || (match c.phase with
            | some p => p.skew == 0
            | none => false) })) s
        let (d, s) := s.drawIn 4 15
        s.post (s.now + d * beatTicks) (.groupHalt kid))
  | _ => .fault .notDue

/-- Steps of a core's timed work that its group's halt leaves without effect. -/
def Event.ofPhase : Event → Option Nat
  | .phaseEnd k => some k
  | .gangBarrierTimeout k => some k
  | .verticalOpStart k => some k
  | .verticalOpEnd k => some k
  | .rstrMerge k => some k
  | _ => none

/-- Fixed-latency work of c0 that still drains (R45): results and stores under way but for what a running MMA or MWLD reads, and
a running MZERO, MRD or MSCAC. -/
def Core.draining (c : Core) (now : Nat) : Bool :=
  c.ctl.phase.isSome && (c.pend.any (fun p => p.ctx == 0 && decide (now < p.due) && (match p.act with
      | .aCol _ | .wLine _ => false
      | _ => true))
    || (match c.slice.queue with
      | o :: _ => o.ctx == 0 && o.started.isSome && (match o.what with
        | .mzero _ | .mrd _ _ _ _ _ | .mscac _ _ _ => true
        | _ => false)
      | [] => false))

/-- A halted core drops what c0 had under way in the superstep, what it gave its parent's port among it, and c0 is put back to
its entry checkpoint (R47, R148). -/
def State.rewindCore (s : State) (k : Nat) : State :=
  let s := s.settle k s.now
  let c := s.core k
  match c.ctl.phase, c.ctl.ckpt with
  | some _, some ck =>
    let sHead := (c.slice.queue.head?.map (fun o => o.ctx == 0)).getD false
    let xHead := (c.xu.queue.head?.map (fun o => o.ctx == 0)).getD false
    let s := { s with agenda := s.agenda.filter (fun e => Event.ofPhase e.ev != some k) }
    let s := if sHead then ((s.cancel (.sliceOpStart k)).cancel (.sliceOpComplete k)).cancel (.mwldComplete k) else s
    let s := if xHead then (s.cancel (.expansionOpStart k)).cancel (.expansionOpEnd k) else s
    let s := s.modCore k (fun c =>
      let c := c.modCtx 0 (fun x => { x.restore ck with run := .atHeader })
      { c with
        pend := c.pend.filter (fun p => p.ctx != 0)
        slice := { c.slice with queue := c.slice.queue.filter (fun o => o.ctx != 0), streams := [], line := [], ganged := false, short := false }
        xu := { c.xu with queue := c.xu.queue.filter (fun o => o.ctx != 0) }
        vert := { c.vert with ops := [], sets := [], nth := 0 }
        ctl := { c.ctl with
          phase := none, ckpt := none, stopped := false, fifo := [], skip := false
          munit := if sHead then { c.ctl.munit with last := max c.ctl.munit.last s.now } else c.ctl.munit
          xunit := if xHead then { c.ctl.xunit with last := max c.ctl.xunit.last s.now } else c.ctl.xunit } })
    let s := s.dropGiven true (fun j => j == k)
    let s := if sHead && !(s.core k).slice.queue.isEmpty then s.post s.now (.sliceOpStart k) else s
    if xHead && !(s.core k).xu.queue.isEmpty then s.post s.now (.expansionOpStart k) else s
  | _, _ => s.modCtl k (fun c => { c with stopped := false, skip := false })

/-- The group stands still for its pre-emption: FREEZE goes to c0 of each core (R260). -/
def State.freezeGroup (s : State) (kid : Nat) (kn : Kernel) (sub : Nat) : State :=
  let s := s.modKernel kid (fun k => { k with
    stage := .frozen, notice := none
    heads := kn.cores.foldl (fun m c => sset 0 m c
      (if (s.ctx (c, 0)).run = .atHeader then (s.ctx (c, 0)).pc else (s.core c).ctl.head.getD (s.ctx (c, 0)).pc)) [] })
  kn.cores.foldl (fun s k =>
    (s.freezeCore k).offer k ⟨0, some (1, 0, BitVec.ofNat 64 (0x10 + sub * 2 ^ 8), 0)⟩) s

/-- The profile of a column matches (R151). -/
def State.profileFits (s : State) (mask : DWord) (col : Nat) : Bool :=
  let lanes := (List.range 3).flatMap (fun t => (clusterCores col t).map (fun k => sget .full s.dev.lanes k))
  lanes.all (fun l => l != .dead) && (mask.getLsbD col || lanes.all (fun l => l == .full))
/-- The lowest-numbered profile of an image that matches every column of a group (R151). -/
def State.chooseProfile (s : State) (im : Image) (cols : List Nat) : Option (Nat × DWord) :=
  ((List.range im.profiles.length).filterMap (fun i => (im.profiles.getD i none).map (fun m => (i, m)))).find? (fun m =>
    cols.all (s.profileFits m.2))

/-! ## Code in the cores (R303, R306) -/

/-- Words put into an instruction store from a word on (R82). -/
def putWords (st : Sparse (Word × Bool)) (i : Nat) : List (Word × Bool) → Sparse (Word × Bool)
  | [] => st
  | w :: r => putWords (sset (0, false) st i w) (i + 1) r

/-- Cores of a group that a load places. -/
def Load.cores (l : Load) (kn : Kernel) : List Nat :=
  if kn.tiers.getLsbD l.tier then
    (kn.columns.filter (fun c => decide (l.col0 ≤ c ∧ c ≤ l.col1))).flatMap (fun c => clusterCores c l.tier)
  else []

/-- A stream written into the store of a core, which then holds it. A core that runs another kernel passes the stream on and
keeps its own code (DESIGN CHOICE, log 8). -/
def State.putStream (s : State) (kn : Kernel) (l : Load) (k : Nat) : State :=
  match (s.core k).ctl.kernel.bind s.kernel with
  | some o =>
    if o.task = kn.task ∧ o.node = kn.node then
      s.modCore k (fun c => { c with store := putWords c.store l.base (l.stream kn.profNo) })
    else s
  | none => s.modCore k (fun c => { c with store := putWords c.store l.base (l.stream kn.profNo) })

/-- The four children of a core (R138). -/
def childrenOf (k : Nat) : List Nat := (List.range 4).map (childOf k)

/-- A load step (R303): the stream of a role goes into the crown cores of the columns that the placement gives it, from every
core of a tier that holds it to its children, or from the tier's gang leaders to their followers. The tier of a step is that
of the cores which send (DESIGN CHOICE, log 8). `held` lists which core holds which role's stream. -/
def State.bootStep (kn : Kernel) (a : State × List (Nat × Nat)) (b : BootStep) : State × List (Nat × Nat) :=
  let ls := kn.image.loads.filter (fun l => l.role == b.role)
  match ls with
  | [] => a
  | l :: _ =>
    let cols := kn.columns.filter (fun c => ls.any (fun l => decide (l.col0 ≤ c ∧ c ≤ l.col1)))
    let tier (t : Nat) : List Nat := cols.flatMap (fun c => clusterCores c t)
    let from_ := (tier b.tier).filter (fun k => a.2.contains (k, b.role))
    let dest := if b.kind = 0 then tier 3
      else if b.kind = 1 then (if b.tier = 0 then [] else from_.flatMap childrenOf)
      else if b.kind = 2 then (tier b.tier).filter (fun k => leaderOf k != k && from_.contains (leaderOf k))
      else []
    (dest.foldl (fun s k => s.putStream kn l k) a.1, a.2 ++ dest.map (fun k => (k, b.role)))

/-- The code of a kernel brought into the stores of its cores, in the order of the load steps (R303). -/
def State.loadCode (s : State) (kn : Kernel) : State := (kn.image.boot.foldl (State.bootStep kn) (s, [])).1

/-- Another profile before a replay: its streams, and c0 of every core at the header of the superstep's entry (R152). -/
def State.switchProfile (s : State) (kid : Nat) (kn : Kernel) (prof : Nat × DWord) : State :=
  if prof.1 = kn.profNo then s
  else
    let kn := { kn with profNo := prof.1, profile := prof.2 }
    let s := (s.modKernel kid (fun k => { k with profNo := prof.1, profile := prof.2 })).loadCode kn
    let n := ((kn.image.steps.take kn.step).map (·.phases)).foldl (· + ·) 0
    kn.cores.foldl (fun s k => match (kn.image.headers kn.profNo (columnOf k) (tierOf k))[n]? with
      | some a => s.modCtx (k, 0) (fun x => { x with pc := BitVec.ofNat 32 a.1 })
      | none => s) s

/-- A kernel that cannot go on ends with a status, as its cores stop (R152). -/
def State.refuseKernel (s : State) (kid : Nat) (status : BitVec 16) : State :=
  let s := s.dropGiven false (fun k => (s.core k).ctl.kernel == some kid)
  let s := s.modCores (fun k c => c.stopKernel kid (s.now + cyc k))
  (s.modKernel kid (fun k => { k with fatal := true, refused := some status, stage := .done })).post s.now (.kernelComplete kid)

/-- GROUP_HALT (R36, R45 to R47, R152, R253, R260): once its fixed-latency work has drained, the superstep is abandoned; the
group is frozen, or replays it, at most three times, under the profile that now matches if a lane's width was the reason; where
none does, PROFILE is recorded with the failing core's column. Entries that waited for c0 are served. -/
def execGroupHalt (s : State) : Host.Outcome State Fault Refusal :=
  match s.event with
  | some (.groupHalt kid) =>
    .next (match s.kernel kid with
      | none => s
      | some kn =>
        if kn.cores.any (fun k => (s.core k).draining s.now) then s.post (s.beatTick + beatTicks) (.groupHalt kid) else
        let s := kn.cores.foldl (fun s k => s.rewindCore k) s
        let s := s.modKernel kid (fun k => { k with
          notice := none, colPhase := [], colStart := [], colEnd := [], power := [], waiting := [] })
        match kn.stage with
        | .stopping true => s.freezeGroup kid kn 1
        | _ =>
          match kn.failing with
          | none => (kn.cores.foldl (fun s k => s.serve k) (s.modKernel kid (fun k => { k with stage := .waiting }))).post
              s.beatTick (.releaseNotice kid)
          | some k =>
            let a := slotAddr (tierOf k) 0
            let c := s.core k
            if 3 ≤ kn.replays then
              s.fatalRec k 0 (c.readNat a 1) (BitVec.ofNat 64 (c.readNat (a + 16) 8)) (BitVec.ofNat 32 (c.readNat (a + 8) 4))
            else
              match (if kn.width then s.chooseProfile kn.image kn.columns else some (kn.profNo, kn.profile)) with
              | none => (s.record k (faultRec 0x08 k 0 0 (s.ctx (k, 0)).pc.toNat (columnOf k) 0 0 (causeCode .profile))).refuseKernel
                  kid 0x0204
              | some m =>
                let s := (s.switchProfile kid kn m).modKernel kid (fun k => { k with
                  stage := .waiting, replays := k.replays + 1, failing := none, width := false })
                (kn.cores.foldl (fun s k => s.serve k) s).post s.beatTick (.releaseNotice kid))
  | _ => .fault .notDue

/-- PREEMPT (R248, R260): by freeze the group is stopped, even one that stops for a replay; otherwise the release is
withheld, and FREEZE follows once the running superstep, its replays among it, has ended. A kernel whose last superstep is over
is frozen for the untimed contexts that still run. -/
def execPreempt (s : State) : Host.Outcome State Fault Refusal :=
  match s.event with
  | some (.preempt kid freeze) =>
    .next (match s.kernel kid with
      | none => s
      | some kn =>
        let s := s.modKernel kid (fun k => { k with frozenReq := some freeze })
        match kn.stage with
        | .stopping _ => if freeze then s.modKernel kid (fun k => { k with stage := .stopping true }) else s
        | .running =>
          if !freeze then s
          else
            let (d, s) := s.drawIn 1 16
            (s.modKernel kid (fun k => { k with stage := .stopping true })).post ((s.beat + d) * beatTicks) (.stop kid)
        | .waiting => if !freeze && kn.replaying then s else s.freezeGroup kid kn (if freeze then 1 else 0)
        | .done => if !kn.fatal then s.freezeGroup kid kn (if freeze then 1 else 0) else s
        | _ => s)
  | _ => .fault .notDue

/-- The number under which a kernel's far stores are kept, by the context that issued them: of one that is gone, or of one that is
pre-empted off its cores, which waits for them (R245, R251, R307). -/
def orphanOf (kid : Option Nat) (ctx : Nat) : Nat :=
  match kid with
  | none => 4 + ctx
  | some i => 8 + 4 * i + ctx

/-- A far store of a context that goes on under a number. -/
def Event.orphan (q : Nat × Nat) (num : Nat) : Event → Event
  | .stxComplete k c n va data e => .stxComplete k (if k = q.1 ∧ c = q.2 then num else c) n va data e
  | e => e

/-- A context's far stores are performed for the kernel that issued them, when another kernel's code takes the context (R251,
R307, R308). -/
def State.orphanStores (s : State) (q : Nat × Nat) : State :=
  let num := orphanOf (s.ctx q).kernel q.2
  let s := { s with agenda := s.agenda.map (fun (e : Due) => { e with ev := Event.orphan q num e.ev }) }
  let s := s.modFabric (fun b => { b with reqs := b.reqs.map (fun (r : PeerReq) => { r with ev := Event.orphan q num r.ev })
                                          answers := b.answers.map (fun (a : PeerAns) => { a with ev := Event.orphan q num a.ev }) })
  s.modCtx q (fun x => { x with stxOut := [] })

/-- RESUME_REQUEST (R248, R260): c0 of each core is entered at RVEC by a kind 3 request, N 1, over the header at which it
waits, and the next release notice follows; the weight buffers are invalid. -/
def execResumeRequest (s : State) : Host.Outcome State Fault Refusal :=
  match s.event with
  | some (.resumeRequest kid) =>
    .next (match s.kernel kid with
      | none => s
      | some kn =>
        let more := decide (kn.step < kn.image.steps.length)
        let s := s.modKernel kid (fun k => { k with stage := if more then .waiting else .done, frozenReq := none, failing := none, scheds := [] })
        let s := s.loadCode kn
        let s := kn.scheds.foldl (fun s e => (s.modCol e.col (fun c => { c with
          scnt := e.scnt, sched := c.sched ++ e.entries, schedPart := kn.part })).post s.now (.staticEntryStart e.col)) s
        let s := kn.cores.foldl (fun s k =>
          let s := [0, 1, 2, 3].foldl (fun s i => if (s.ctx (k, i)).kernel = some kid then s else s.orphanStores (k, i)) s
          let s := s.modCore k (fun c =>
            let c := c.modCtx 0 (fun x => { x with pc := sget 0 kn.heads k, kernel := some kid })
            let c := kn.image.loads.foldl (fun c l =>
              if l.ctx ≠ 0 ∧ (l.cores kn).contains k then c.modCtx l.ctx (fun x => { x with kernel := some kid }) else c) c
            { c with
              slice := { c.slice with wvalid := false, wcheck := none, wpois := [] }
              ctl := { c.ctl with kernel := some kid, frozen := false, head := if more then some (sget 0 kn.heads k) else none } })
          s.offer k ⟨0, some (3, 1, 0, 0)⟩) s
        if more then s.post s.beatTick (.releaseNotice kid) else s)
  | _ => .fault .notDue

/-! ## THERM (R270) -/

/-- The lowest-numbered crown core of a partition. -/
def State.serviceCore (s : State) (part : Nat) : Nat :=
  ((List.range 4).find? (fun q => partOfQuad s.dev.mode q == part)).elim 21504 (fun q => coreAt 3 q 0 0)

/-- THERM_DELIVERY (R270): c0 of the service core takes it outside a superstep. -/
def execThermDelivery (s : State) : Host.Outcome State Fault Refusal :=
  match s.event with
  | some (.thermDelivery part col sensor) =>
    .next (s.offer (s.serviceCore part) ⟨0, some (1, 0, BitVec.ofNat 64 (0x11 + col * 2 ^ 8), BitVec.ofNat 64 sensor)⟩)
  | _ => .fault .notDue

end Sys2Proof.Machine
end

