-- ==== Sys2Proof/Machine/Launch.lean ====
section
/-! DEFINITION. Launching a kernel: the launch record and its checks, bindings, static schedules, the loading of contexts,
and the backing of team points (R39, R205, R206, R229, R247, R306, R425). -/

namespace Sys2Proof.Machine

/-! ## The launch record (R247) -/

/-- The record's fields. -/
structure Launch where
  image  : Nat
  cols   : BitVec 64
  tiers  : BitVec 4
  levels : List (Nat × Nat)
  rvused : List (BitVec 24)
  sched  : Nat
  binds  : Nat
  counts : List Nat

/-- The fields of a record of 256 bytes. -/
def Launch.ofNat (x : Nat) : Launch :=
  let n := nbits x 134 132 + 1
  { image := nbits x 63 0, cols := BitVec.ofNat 64 (nbits x 127 64), tiers := BitVec.ofNat 4 (nbits x 131 128)
    levels := (List.range n).map (fun i => (nbits x (194 + 8 * i) (192 + 8 * i), nbits x (197 + 8 * i) (195 + 8 * i)))
    rvused := (List.range n).map (fun i => BitVec.ofNat 24 (nbits x (279 + 24 * i) (256 + 24 * i)))
    sched := nbits x 511 448, binds := nbits x 639 576
    counts := (List.range 64).map (fun c => nbits x (719 + 16 * c) (704 + 16 * c)) }

/-- A non-zero reserved bit, or a field of a level above NLVM1, or a count above 256 (R247). -/
def launchBad (x : Nat) : Bool :=
  let n := nbits x 134 132 + 1
  nbits x 191 135 != 0 || nbits x 575 512 != 0 || nbits x 703 640 != 0 || nbits x 2047 1728 != 0
    || (List.range 8).any (fun i => nbits x (199 + 8 * i) (198 + 8 * i) != 0
      || (decide (n ≤ i) && (nbits x (199 + 8 * i) (192 + 8 * i) != 0 || nbits x (279 + 24 * i) (256 + 24 * i) != 0)))
    || (Launch.ofNat x).counts.any (fun c => decide (256 < c))

/-- Minimum scope code of a domain (R39). -/
def minScope (domain : Nat) : Nat := domain - 1

/-- The hierarchy keeps R39: domains widen, and scopes are as wide as their domains ask. -/
def hierarchyOk : List (Nat × Nat) → Bool
  | [] => true
  | (d, sc) :: r =>
    decide (minScope d ≤ sc ∧ sc < 7) && (match r with
      | [] => true
      | (d', _) :: _ => decide (d < d')) && hierarchyOk r

/-- Quads of a group of columns. -/
def quadsOf (cols : BitVec 64) : List Nat :=
  (List.range 4).filter (fun q => (List.range 16).any (fun i => cols.getLsbD (16 * q + i)))

/-- Columns and tiers lie in the partition (R242, R247). A group without a core is refused with them. -/
def State.placeOk (s : State) (part : Nat) (l : Launch) : Bool :=
  l.cols != 0 && l.tiers != 0 && (quadsOf l.cols).all (fun q => partOfQuad s.dev.mode q == part)

/-! ## The binding table (R218, R425) -/

/-- One entry of 32 bytes: none when V is 0; otherwise its binding and role, or what is wrong with it. -/
def bindEntry (x : Nat) : Option (Option (Binding × Nat)) :=
  if nbits x 161 161 = 0 then none
  else
    let b : Binding := ⟨BitVec.ofNat 64 (nbits x 63 0), BitVec.ofNat 64 (nbits x 127 64), BitVec.ofNat 30 (nbits x 157 128),
      Scope.ofCode (BitVec.ofNat 3 (nbits x 160 158))⟩
    if nbits x 255 178 ≠ 0 ∨ nbits x 160 158 = 7 ∨ b.n.toNat % 64 ≠ 0 ∨ epLocal b.obj ∨ epLocal b.rbase ∨ !epOk b.obj
        ∨ !epOk b.rbase ∨ b.obj.toNat % 8 ≠ 0 ∨ b.rbase.toNat % 64 ≠ 0 then some none
    else some (some (b, nbits x 177 162))

/-- The table's entries up to the first unused one, read in order; `fuel` bounds their number: at the latest the ninth entry
of a role ends the task. -/
def State.readBinds (s : State) (part col : Nat) (ev : Event) : Nat → Nat → FarRes (Option (List (Binding × Nat))) × State
  | 0, _ => (.ok none, s)
  | fuel + 1, va =>
    match s.farRead part col va 32 0 ev with
    | (.wait, s) => (.wait, s)
    | (.fault t, s) => (.fault t, s)
    | (.ok bs, s) => match bindEntry (leNat bs) with
      | none => (.ok (some []), s)
      | some none => (.ok none, s)
      | some (some e) => match s.readBinds part col ev fuel (va + 32) with
        | (.ok (some l), s) => (.ok (some (e :: l)), s)
        | x => x

/-- An image's placement gives a role to a column's tier. -/
def Image.places (im : Image) (role col tier : Nat) : Bool :=
  im.loads.any (fun d => d.role == role && d.tier == tier && decide (d.col0 ≤ col ∧ col ≤ d.col1))

/-- The bindings that c1, c2 and c3 of a column's tier receive: those of every role placed there, in table order and with the
effect of BIND; none where one breaks R218 (R425). -/
def bindsOf (l : List (Binding × Nat)) (im : Image) (col tier : Nat) : Option (List Binding) :=
  (l.filter (fun e => im.places e.2 col tier)).foldl (fun a e => a.bind (fun b => bindIn b e.1)) (some [])

/-- Every entry names a role of the image, no role has a ninth entry, and no core of the group receives one that breaks R218
(R425). -/
def bindsOk (l : List (Binding × Nat)) (im : Image) (cols : BitVec 64) (tiers : BitVec 4) : Bool :=
  l.all (fun e => decide (e.2 < im.roles) && decide ((l.filter (fun x => x.2 == e.2)).length ≤ 8))
    && (List.range 64).all (fun c => !cols.getLsbD c || (List.range 4).all (fun t => !tiers.getLsbD t || (bindsOf l im c t).isSome))

/-! ## Static schedules (R205) -/

/-- A schedule entry of 32 bytes: the command it stands for, its stage and its stamp scope; none when it is malformed. -/
def schedEntry (x : Nat) : Option (Cmd × Nat × Scope) :=
  let st := nbits x 199 192
  let stamp := 2 ^ 63 + nbits x 201 200 * 2 ^ 61 + nbits x 209 202 * 2 ^ 52 + nbits x 234 210
  let c : Cmd :=
    { src := BitVec.ofNat 64 (nbits x 63 0), dst := BitVec.ofNat 64 (nbits x 127 64), len := nbits x 147 128
      rows := nbits x 159 148 + 1, group := 0, sstr := 64 * nbits x 175 160, dstr := 64 * nbits x 191 176
      stamp := BitVec.ofNat 64 stamp, seq := BitVec.ofNat 48 (st + 1), idx := 0, rvp := 0, rvl := 0, rva := false }
  if nbits x 255 238 ≠ 0 ∨ nbits x 237 235 = 7 ∨ !epOk c.src ∨ !epOk c.dst ∨ !epOk c.stamp ∨ c.stamp.toNat % 8 ≠ 0
      ∨ c.len % 8 ≠ 0 ∨ c.len = 0 ∨ (!epNear c.src ∧ !epNear c.dst) then none
  else match cmdRange .cpys c 0 with
    | .error _ => none
    | .ok _ => some (c, st, Scope.ofCode (BitVec.ofNat 3 (nbits x 237 235)))

/-- The entries of a column, numbered. -/
def State.readSched (s : State) (part col : Nat) (ev : Event) : Nat → Nat → Nat →
    FarRes (Option (List (Nat × Cmd × Nat × Scope))) × State
  | 0, _, _ => (.ok (some []), s)
  | n + 1, i, va =>
    match s.farRead part col va 32 0 ev with
    | (.wait, s) => (.wait, s)
    | (.fault t, s) => (.fault t, s)
    | (.ok bs, s) => match schedEntry (leNat bs) with
      | none => (.ok none, s)
      | some e => match s.readSched part col ev n (i + 1) (va + 32) with
        | (.ok (some l), s) => (.ok (some ((i, e) :: l)), s)
        | x => x

/-- The schedules of every column, one behind another in ascending column number. -/
def State.readScheds (s : State) (part home : Nat) (ev : Event) : List (Nat × Nat) → Nat →
    FarRes (Option (List (Nat × List (Nat × Cmd × Nat × Scope)))) × State
  | [], _ => (.ok (some []), s)
  | (c, n) :: r, va =>
    match s.readSched part home ev n 0 va with
    | (.wait, s) => (.wait, s)
    | (.fault t, s) => (.fault t, s)
    | (.ok none, s) => (.ok none, s)
    | (.ok (some l), s) => match s.readScheds part home ev r (va + 32 * n) with
      | (.ok (some m), s) => (.ok (some ((c, l) :: m)), s)
      | x => x

/-! ## Loading (R306) -/

/-- A context put to its values at load (R63, R65): what was under way for it is dropped, its stores are performed. -/
def State.resetContext (s : State) (q : Nat × Nat) : State :=
  ((s.dropReplies (fun r => r == q)).orphanStores q).modCore q.1 (fun c =>
    let c := { c with pend := c.pend.filter (fun p => !(p.ctx == q.2 && (match p.act with
      | .store _ _ _ => false
      | .lanes _ _ => false
      | _ => true))) }
    (c.haltCtx q.2 s.now).setCtx q.2 .reset)

/-- A context loaded: its registers as at reset, at an address; c0 waits at its stream's first header (R63, R65, R306). -/
def State.loadContext (s : State) (kid : Nat) (q : Nat × Nat) (entry : Word) : State :=
  let s := s.resetContext q
  let s := s.modCtx q (fun x => { x with
    pc := entry, run := if q.2 = 0 then .atHeader else .ready, readyAt := s.now, kernel := some kid })
  let mark := match s.storeWord q.1 entry.toNat with
    | some (w, true) => w == 0x0000000F
    | _ => true
  if q.2 == 0 && mark then s.modCtx q (fun x => { x with run := .halted }) else s

/-- A core made ready for a kernel: its contexts and its own register classes take the values of R63, no context runs, and its
control is at rest (R250). -/
def State.clearCore (s : State) (kid k : Nat) : State :=
  let s := [0, 1, 2, 3].foldl (fun s i => s.resetContext (k, i)) s
  s.modCore k (fun c => { c with
    slice := { c.slice with tiles := [] }
    xu := { c.xu with hdr := [], co := [] }
    vert := { c.vert with ws := [] }
    ctab := 0
    ctl := { c.ctl with
        turn := none, last := 3, issueAt := s.now, frozen := false, stopped := false, handling := none, waiting := []
        kept := none, head := none, phase := none, ckpt := none, kernel := some kid, fifo := [], skip := false } })

/-- A `.data` image written into a core: a word of which every byte is given is rewritten whole (R156, R178). -/
def Core.writeData (c : Core) (data : List (Nat × Byte)) : Core :=
  let whole (w : Nat) : Bool := (List.range 4).all (fun i => data.any (fun e => e.1 == 4 * w + i))
  let c := data.foldl (fun c e => c.portWrite e.1 [e.2]) c
  { c with poison := c.poison.filter (fun e => !whole e.1) }

/-- One load of an image put into its cores: data, then the context. -/
def State.loadRole (s : State) (kid : Nat) (kn : Kernel) (l : Load) : State :=
  (l.cores kn).foldl (fun s k => (s.modCore k (fun c => c.writeData l.data)).loadContext kid (k, l.ctx) l.entry) s

/-- The launch's bindings installed in c1, c2 and c3 of every core (R218, R425). -/
def State.installBinds (s : State) (kn : Kernel) (binds : List (Binding × Nat)) : State :=
  kn.cores.foldl (fun s k =>
    let bs := (bindsOf binds kn.image (columnOf k) (tierOf k)).getD []
    [1, 2, 3].foldl (fun s i => s.modCtx (k, i) (fun x => { x with binds := bs })) s) s

/-! ## Team points (R229) -/

/-- Members of the group that make up teams at a domain: contexts that the launch loads, or cores. -/
def Kernel.members (kn : Kernel) (domain : Nat) : List (Nat × Nat) :=
  if domain = 0 then kn.image.loads.flatMap (fun l => (l.cores kn).map (fun k => (k, l.ctx)))
  else kn.cores.map (fun k => (k, 0))

/-- A list without repeats. -/
def dedup (l : List Nat) : List Nat := l.foldl (fun a x => if a.contains x then a else a ++ [x]) []

/-- The first free barrier line of a cluster. -/
def State.freeBarrier (s : State) (cluster : Nat) : Option Nat :=
  ((List.range 32).map (fun i => cluster * 2 ^ 13 + i)).find? (fun l => (s.line l).alloc.isNone)

/-- One point of a team backed: a line in every cluster that the team touches, or memory where one of them has none: a bank's word
for a team within one cluster, else a word of HBM by its physical address. Where the word lies, and that it is left as it is
found, is the model's choice (R229; DESIGN CHOICE, log 60). -/
def State.backPoint (s : State) (kid : Nat) (kn : Kernel) (level point team : Nat) (members : List (Nat × Nat)) : State :=
  let clusters := dedup (members.map (fun q => ownCluster q.1))
  let lines := clusters.map s.freeBarrier
  let add (s : State) (b : PointBack) : State := s.modKernel kid (fun k => { k with points := k.points ++ [b] })
  if lines.all Option.isSome then
    let ls := lines.filterMap id
    let root := ls.foldl min (ls.headD 0)
    let s := ls.foldl (fun s l => s.modLine l (fun _ =>
      { EvLine.reset with alloc := some kn.part, root := some root, owner := some kid })) s
    add s ⟨level, point, team, some root, 0, ls⟩
  else
    let w := Config.freePointWord kid level point team
    let core := (members.headD (0, 0)).1
    let off := w % ((Config.statusBase (tierOf core) - Config.bankBase) / 8) * 8
    let mem := if clusters.length = 1 then BitVec.ofNat 64 (2 ^ 63 + core * 2 ^ 25 + off)
      else BitVec.ofNat 64 (w % (s.dev.stagingBase / 8) * 8)
    add s ⟨level, point, team, none, mem, []⟩

/-- Every point that the record marks as used is backed, by level, point and team. -/
def State.backPoints (s : State) (kid : Nat) (kn : Kernel) : State :=
  (List.range kn.levels.length).foldl (fun s lv =>
    let d := (kn.levels.getD lv (0, 0)).1
    let ms := kn.members d
    (List.range 24).foldl (fun s p =>
      if (kn.rvused.getD lv 0).getLsbD p then
        (dedup (ms.map (fun q => teamOf q d))).foldl (fun s t =>
          s.backPoint kid kn lv p t (ms.filter (fun q => teamOf q d == t))) s
      else s) s) s

/-- The lines of a kernel's points are free again, with the effect of SLOTF (R229). -/
def State.unbackPoints (s : State) (kid : Nat) (kn : Kernel) : State :=
  (kn.points.flatMap (·.lines)).foldl (fun s l => if (s.line l).owner = some kid then s.freeLine l s.now else s) s

/-! ## The launch -/

/-- A column's entries of a launch (R206). -/
def schedOf (kid : Nat) (l : Option (List (Nat × Cmd × Nat × Scope))) : List SchedEntry :=
  (l.getD []).map (fun e => ⟨kid, e.1, e.2.1, e.2.2.1, e.2.2.2⟩)

/-- A KERNEL starts (R206, R229, R306, R425). Entries of kernels that run on other tiers of a column stay (R206, R246). -/
def State.launch (s : State) (kn : Kernel) (binds : List (Binding × Nat))
    (scheds : List (Nat × List (Nat × Cmd × Nat × Scope))) : Nat × State :=
  let kid := s.gaf.nextId
  let s := { s with gaf := { s.gaf with nextId := kid + 1 } }
  let s := s.setKernel kid (some kn)
  let s := kn.cores.foldl (fun s k => s.clearCore kid k) s
  let s := s.loadCode kn
  let s := (kn.image.loads.foldl (fun s l => s.loadRole kid kn l) s).installBinds kn binds
  let s := kn.columns.foldl (fun s c => s.modCol c (fun x => { x with
    scnt := 0, schedPart := kn.part
    sched := x.sched.filter (fun e => (s.kernel e.kernel).isSome) ++ schedOf kid ((scheds.find? (fun e => e.1 == c)).map (·.2)) })) s
  let s := kn.columns.foldl (fun s c => s.post s.now (.staticEntryStart c)) s
  let s := s.backPoints kid kn
  let s := s.modPart kn.part (fun p => { p with launches := kn.image.digest :: p.launches })
  (kid, if kn.image.steps.isEmpty then s.post s.now (.kernelComplete kid) else s.post s.beatTick (.releaseNotice kid))

end Sys2Proof.Machine
end

