-- ==== Sys2Proof/Machine/Gaffer.lean ====
section
/-! DEFINITION. The gaffer: queues, tasks, nodes, kernels and their pre-emption (R238 to R248, R307). -/

namespace Sys2Proof.Machine

/-! ## References (R241) -/

/-- A well-formed reference of a partition. -/
def State.refOk (s : State) (part : Nat) (r : DWord) : Bool :=
  let x := r.toNat
  let k := nbits x 62 48
  decide (x % 8 = 0) &&
    (if r.getLsbD 63 then nbits x 47 25 == 0 && decide (k < Config.coreCount) && s.partOf k == part
        && decide (Config.bankBase + nbits x 24 0 + 8 ≤ Config.statusBase (tierOf k))
      else nbits x 62 57 == 0)

/-- A far read for the gaffer. -/
def State.gafRead (s : State) (part va n : Nat) (ev : Event) : FarRes (List Byte) × State :=
  s.farRead part (s.homeCol part) va n 0 ev

/-- The word of a reference read, near through the engine's channel. -/
def State.readRef (s : State) (part : Nat) (r : DWord) (ev : Event) : FarRes Nat × State :=
  if r.getLsbD 63 then
    let k := nbits r.toNat 62 48
    let a := Config.bankBase + nbits r.toNat 24 0
    let s := s.settle k s.now
    if ((s.core k).badIn a 8).isSome then (.fault tEcc, s) else (.ok ((s.core k).readNat a 8), s)
  else match s.gafRead part r.toNat 8 ev with
    | (.ok bs, s) => (.ok (leNat bs), s)
    | (.fault t, s) => (.fault t, s)
    | (.wait, s) => (.wait, s)

/-- The word of a reference written, at a near one by a writer who may wait for it. -/
def State.writeRef (s : State) (w : Writer) (part : Nat) (r : DWord) (v : Nat) (ev : Event) : FarRes Unit × State :=
  if r.getLsbD 63 then
    (.ok (), s.portStore w (nbits r.toNat 62 48) 0 (Config.bankBase + nbits r.toNat 24 0) (leBytes 8 v) [])
  else s.farWrite part (s.homeCol part) r.toNat (leBytes 8 v) 0 ev

/-! ## Nodes (R243) -/

/-- Dword i of a node. -/
def dw (x : BitVec 512) (i : Nat) : DWord := x.extractLsb' (64 * i) 64
/-- Bits of a dword of a node. -/
def dwBits (x : BitVec 512) (i hi lo : Nat) : Nat := nbits (dw x i).toNat hi lo

/-- An address of a node, record, block or table. -/
def addrOk (align : Nat) (a : DWord) : Bool := decide (a.toNat % align = 0) && nbits a.toNat 63 57 == 0

/-- A node that R243 accepts. -/
def State.nodeOk (s : State) (part : Nat) (x : BitVec 512) : Bool :=
  let zero (l : List Nat) : Bool := l.all (fun i => dw x i == 0)
  dwBits x 0 15 5 == 0 && dwBits x 0 63 32 == 0 &&
    (match dwBits x 0 3 0 with
    | 1 => addrOk 64 (dw x 2) && zero [3, 4, 5, 6, 7]
    | 2 => addrOk 64 (dw x 2) && zero [4, 5, 6, 7] && dwBits x 3 7 6 == 0 && dwBits x 3 11 10 == 0 && dwBits x 3 63 15 == 0
        && dwBits x 3 9 8 != 3 && dwBits x 3 14 12 != 7
    | 3 => addrOk 64 (dw x 2) && zero [4, 5, 6, 7] && dwBits x 3 63 6 == 0
    | 4 => s.refOk part (dw x 2) && dwBits x 5 63 2 == 0 && zero [7]
    | 5 => s.refOk part (dw x 2) && dwBits x 5 31 2 == 0 && dwBits x 5 63 32 != 0 && (dw x 7 == 0 || s.refOk part (dw x 7))
    | 6 => s.refOk part (dw x 2) && dwBits x 4 63 5 == 0 && decide (1 ≤ dwBits x 4 4 0 ∧ dwBits x 4 4 0 ≤ 16)
        && addrOk 8 (dw x 5) && zero [6, 7]
    | 7 => s.refOk part (dw x 2) && dwBits x 4 63 1 == 0 && zero [5, 6, 7]
    | 8 => s.refOk part (dw x 2) && dwBits x 5 63 2 == 0 && dwBits x 6 63 32 == 0 && zero [7]
    | _ => false)

/-- Cond of a node on the word read (R244). -/
def condOf (x : BitVec 512) (m : Nat) : Bool :=
  let a := (BitVec.ofNat 64 m &&& dw x 3).toNat
  let v := (dw x 4).toNat
  match dwBits x 5 1 0 with
  | 0 => a == v
  | 1 => a != v
  | 2 => decide (a < v)
  | _ => decide (v ≤ a)

/-! ## The life of a node -/

/-- A running node of a task. -/
def Task.node (t : Task) (addr : Nat) (loops : List LoopFrame) : Option NodeRun :=
  t.nodes.find? (fun n => n.addr == addr && n.loops == loops)

/-- A step of the gaffer put after a variable latency (R241). -/
def State.later (s : State) (ev : Event) : State :=
  let (d, s) := s.draw 1
  s.post (s.now + d) ev

/-- A running node is over: it leaves the task. -/
def State.dropNode (s : State) (task : Nat) (n : NodeRun) : State :=
  s.modTask task (fun t => { t with nodes := t.nodes.erase n })

/-- The loops in whose bodies a chain runs are over: nothing evaluates them again (R242). -/
def Task.endLoops (t : Task) (loops : List LoopFrame) : Task :=
  { t with nodes := t.nodes.filter (fun n => !loops.any (fun f => f.node == n.addr)) }

/-- A task fails in a chain within loops: the first failure's code stays, and the loops end (R242). -/
def State.failTask (s : State) (task : Nat) (loops : List LoopFrame) (code : BitVec 16) : State :=
  (s.modTask task (fun t =>
    { t.endLoops loops with status := if t.status.isSome then t.status else some code })).later (.taskStampWrite task)

/-- A node fails its task; one that ran beside its chain leaves the chain's loops to the chain. -/
def State.failNode (s : State) (task : Nat) (n : NodeRun) (code : BitVec 16) : State :=
  (s.dropNode task n).failTask task (if n.nowait then [] else n.loops) code

/-- A node of a failing task ends where it stands, and the loops of its chain with it (R242). -/
def State.cutNode (s : State) (task : Nat) (n : NodeRun) : State :=
  ((s.dropNode task n).modTask task (fun t => t.endLoops (if n.nowait then [] else n.loops))).later (.taskStampWrite task)

/-- What a node has decided on its word, or that it has started, is kept (R244, R245). -/
def State.setWord (s : State) (task : Nat) (n : NodeRun) (v : Option Nat) : State :=
  s.modTask task (fun t => { t with nodes := t.nodes.map (fun x => if x = n then { x with word := v } else x) })

/-- A node that decides its successor itself is over. -/
def State.goNode (s : State) (task : Nat) (n : NodeRun) (next : Nat) : State :=
  (s.dropNode task n).later (.nodeSuccessor task next n.loops)

/-- A node has started: with NOWAIT its successor starts beside it (R245). -/
def State.startedNode (s : State) (task : Nat) (n : NodeRun) : State :=
  if n.nowait then s.later (.nodeSuccessor task n.next n.loops) else s

/-- Status of a read that failed (R242). -/
def nodeFault : BitVec 16 := 0x0207
/-- Status of a malformed node or record (R242). -/
def nodeBad : BitVec 16 := 0x0206

/-- A step of a node: the task, its node and the node's own words, unless the task has ended. -/
def State.atNode (s : State) (task addr : Nat) (loops : List LoopFrame) (f : Task → NodeRun → State) : State :=
  match s.task task with
  | none => s
  | some t => match t.node addr loops with
    | none => s
    | some n => f t n

/-- The step that starts a node of a kind. -/
def startEvent (kind task addr : Nat) (loops : List LoopFrame) (time : Nat) : Event :=
  match kind with
  | 1 => .nodeKernel task addr loops
  | 2 => .nodeCopy task addr loops
  | 3 => .nodeInstall task addr loops
  | 4 => .nodeCond task addr loops
  | 5 => .nodeLoop task addr (⟨addr, 0⟩ :: loops)
  | 6 => .nodeSwitch task addr loops
  | 7 => .nodeSignal task addr loops
  | _ => .nodeWait task addr loops time

/-- Timeout of a WAIT node in nanoseconds; 0 for none. -/
def waitNs (x : BitVec 512) : Nat := 1000 * dwBits x 6 31 0

/-- NODE_SUCCESSOR (R244, R245): the node at an address is read and started; 0 ends a loop's body or the task's chain. -/
def execNodeSuccessor (s : State) : Host.Outcome State Fault Refusal :=
  match s.event with
  | some (.nodeSuccessor task addr loops) =>
    .next (match s.task task with
      | none => s
      | some t =>
        let ev : Event := .nodeSuccessor task addr loops
        if t.status.isSome then
          (s.modTask task (fun t => t.endLoops loops)).later (.taskStampWrite task)
        else if addr = 0 then
          (match loops with
          | [] => (s.modTask task (fun t => { t with ending := true })).later (.taskStampWrite task)
          | f :: rest => s.later (.nodeLoop task f.node (⟨f.node, f.iter + 1⟩ :: rest)))
        else if !addrOk 64 (BitVec.ofNat 64 addr) then s.failTask task loops nodeBad
        else if 16 ≤ t.nodes.length then s.post (s.now + beatTicks) ev
        else match s.gafRead t.part addr 64 ev with
          | (.wait, s) => s
          | (.fault _, s) => (s.forget ev).failTask task loops nodeFault
          | (.ok bs, s) =>
            let s := s.forget ev
            let x : BitVec 512 := BitVec.ofNat 512 (leNat bs)
            let kind := dwBits x 0 3 0
            if !s.nodeOk t.part x ∨ (kind = 5 ∧ 8 ≤ loops.length) then s.failTask task loops nodeBad
            else
              let n : NodeRun := ⟨addr, x, BitVec.ofNat 4 kind, (dw x 1).toNat, loops,
                dwBits x 0 4 4 == 1 && !([4, 5, 6].contains kind), none⟩
              let s := s.modTask task (fun t => { t with nodes := t.nodes ++ [n] })
              let s := if kind = 8 then
                  let s := s.startedNode task n
                  if waitNs x = 0 then s else s.post (s.now + s.nsTicks (waitNs x)) (.waitTimeout task addr)
                else s
              s.later (startEvent kind task addr loops s.time))
  | _ => .fault .notDue

/-! ## COND, SWITCH, LOOP (R244) -/

/-- NODE_COND (R244). -/
def execNodeCond (s : State) : Host.Outcome State Fault Refusal :=
  match s.event with
  | some (.nodeCond task addr loops) =>
    .next (s.atNode task addr loops (fun t n =>
      let ev : Event := .nodeCond task addr loops
      if t.status.isSome then s.cutNode task n
      else match s.readRef t.part (dw n.words 2) ev with
        | (.wait, s) => s
        | (.fault _, s) => (s.forget ev).failNode task n nodeFault
        | (.ok m, s) => (s.forget ev).goNode task n (if condOf n.words m then n.next else (dw n.words 6).toNat)))
  | _ => .fault .notDue

/-- The word of a node read, unless the node holds it already (R244). -/
def State.readWord (s : State) (part : Nat) (n : NodeRun) (ev : Event) : FarRes Nat × State :=
  match n.word with
  | some m => (.ok m, s)
  | none => s.readRef part (dw n.words 2) ev

/-- NODE_SWITCH (R244): the word stays as it was read while a peer is asked for the table. -/
def execNodeSwitch (s : State) : Host.Outcome State Fault Refusal :=
  match s.event with
  | some (.nodeSwitch task addr loops) =>
    .next (s.atNode task addr loops (fun t n =>
      let ev : Event := .nodeSwitch task addr loops
      if t.status.isSome then s.cutNode task n
      else match s.readWord t.part n ev with
        | (.wait, s) => s
        | (.fault _, s) => (s.forget ev).failNode task n nodeFault
        | (.ok m, s) =>
          let i := (BitVec.ofNat 64 m &&& dw n.words 3).toNat
          if dwBits n.words 4 4 0 ≤ i then (s.forget ev).goNode task n n.next
          else match s.gafRead t.part ((dw n.words 5).toNat + 8 * i) 8 ev with
            | (.wait, s) => s.setWord task n (some m)
            | (.fault _, s) => (s.forget ev).failNode task n nodeFault
            | (.ok bs, s) => (s.forget ev).goNode task n (leNat bs)))
  | _ => .fault .notDue

/-- A near word, written or added to by the gaffer in the engine channel's place of a cycle to come (R241). -/
def State.laterNear (s : State) (r : DWord) (ev : Event) : State :=
  let (d, s) := s.draw 1
  s.post (ceilTo (cyc (nbits r.toNat 62 48)) (s.now + d)) ev

/-- NODE_LOOP (R244): the head frame holds the count of runs. A loop that exits writes COUNTW, at a near reference in a step of its
own, and its word is not read again for it. -/
def execNodeLoop (s : State) : Host.Outcome State Fault Refusal :=
  match s.event with
  | some (.nodeLoop task addr loops) =>
    .next (s.atNode task addr loops.tail (fun t n =>
      let ev : Event := .nodeLoop task addr loops
      let i := (loops.headD ⟨0, 0⟩).iter
      if t.status.isSome then s.cutNode task n
      else match s.readWord t.part n ev with
        | (.wait, s) => s
        | (.fault _, s) => (s.forget ev).failNode task n nodeFault
        | (.ok m, s) =>
          if condOf n.words m then
            if i = dwBits n.words 5 63 32 then (s.forget ev).failNode task n 0x0209
            else (s.forget ev).later (.nodeSuccessor task (dw n.words 6).toNat loops)
          else if dw n.words 7 = 0 then (s.forget ev).goNode task n n.next
          else if (dw n.words 7).getLsbD 63 then
            ((s.forget ev).setWord task n (some i)).laterNear (dw n.words 7) (.signalComplete task addr n.loops true)
          else match s.writeRef .other t.part (dw n.words 7) i ev with
            | (.wait, s) => s.setWord task n (some m)
            | (.fault _, s) => (s.forget ev).failNode task n nodeFault
            | (.ok (), s) => (s.forget ev).goNode task n n.next))
  | _ => .fault .notDue

/-! ## SIGNAL and WAIT (R244) -/

/-- What a SIGNAL does at its far word: whether it succeeded, or a peer has not answered, whose address is not translated again
(R185, R244). -/
def State.signalWord (s : State) (part : Nat) (x : BitVec 512) (ev : Event) : FarRes Bool × State :=
  let r := dw x 2
  let add := dwBits x 4 0 0 == 1
  let v := (dw x 3).toNat
  let col := s.homeCol part
  let rmw (s : State) : FarRes Bool × State :=
    let req : AtomicReq := ⟨0, 0, 0, if add then 0 else 3, .i64, none, false, r.toNat, dw x 3, 0, 0⟩
    match s.farRmw part col req ev with
    | (.ok _, s) => (.ok true, s)
    | (.fault t, s) => (.fault t, s)
    | (.wait, s) => (.wait, s)
  if (s.dev.fabric.asked ev r.toNat).isSome then rmw s
  else match s.translate part col r.toNat true with
  | (.error t, s) => (.fault t, s)
  | (.ok pa, s) => match s.dev.place pa with
    | .host =>
      if add then
        let (n, s) := s.number
        if Config.freeHostAtomic n then
          (.ok true, s.writePhys pa (leBytes 8 (leNat (s.dev.readFar pa 8) + v)))
        else (.ok false, s)
      else (.ok true, s.writePhys pa (leBytes 8 v))
    | _ => rmw s

/-- NODE_SIGNAL (R244, R245): a far word's access is made here, a near word's in the step that completes the node. The node has
started with its request, before a peer answers it, and starts once. -/
def execNodeSignal (s : State) : Host.Outcome State Fault Refusal :=
  match s.event with
  | some (.nodeSignal task addr loops) =>
    .next (s.atNode task addr loops (fun t n =>
      let ev : Event := .nodeSignal task addr loops
      let s := if n.word.isNone then (s.startedNode task n).setWord task n (some 0) else s
      if (dw n.words 2).getLsbD 63 then s.laterNear (dw n.words 2) (.signalComplete task addr loops true)
      else match s.signalWord t.part n.words ev with
      | (.wait, s) => s
      | (.fault _, s) => (s.forget ev).later (.signalComplete task addr loops false)
      | (.ok ok, s) => (s.forget ev).later (.signalComplete task addr loops ok)))
  | _ => .fault .notDue

/-- The near word that a node's completion writes, and the new word by the old one: SIGNAL's, or the COUNTW of a LOOP that has
exited (R244); whether it reads the old one. -/
def NodeRun.nearWrite (n : NodeRun) : Option (DWord × Bool × (Nat → Nat)) :=
  let add := dwBits n.words 4 0 0 == 1
  if n.kind = 5 then n.word.map (fun i => (dw n.words 7, false, fun _ => i))
  else if (dw n.words 2).getLsbD 63 then
    some (dw n.words 2, add, fun w => if add then w + (dw n.words 3).toNat else (dw n.words 3).toNat)
  else none

/-- A node over with its access, or failed with it. -/
def State.endSignal (s : State) (task : Nat) (n : NodeRun) (ok : Bool) : State :=
  if !ok then s.failNode task n nodeFault
  else if n.nowait then (s.dropNode task n).later (.taskStampWrite task)
  else s.goNode task n n.next

/-- SIGNAL_COMPLETE (R241, R244, R245): a near word is written in the engine channel's place of its cycle, as one access, once
no atomic's slot keeps it; then the node is over. -/
def execSignalComplete (s : State) : Host.Outcome State Fault Refusal :=
  match s.event with
  | some (.signalComplete task addr loops ok) =>
    .next (s.atNode task addr loops (fun _ n => match n.nearWrite with
      | none => s.endSignal task n ok
      | some (r, reads, f) =>
        let k := nbits r.toNat 62 48
        let a := Config.bankBase + nbits r.toNat 24 0
        let s := s.settle k (s.now - 1)
        if reads && ((s.core k).badIn a 8).isSome then s.endSignal task n false
        else match s.portSet false k a f with
          | none => s.post (s.now + cyc k) (.signalComplete task addr loops ok)
          | some (_, s) => s.endSignal task n true))
  | _ => .fault .notDue

/-- The end of a WAIT whose condition holds. -/
def State.waitOver (s : State) (task : Nat) (n : NodeRun) : State :=
  if n.nowait then (s.dropNode task n).later (.taskStampWrite task) else s.goNode task n n.next

/-- NODE_WAIT (R244): one read of the word; a failing task ends it. -/
def execNodeWait (s : State) : Host.Outcome State Fault Refusal :=
  match s.event with
  | some (.nodeWait task addr loops since) =>
    .next (s.atNode task addr loops (fun t n =>
      let ev : Event := .nodeWait task addr loops since
      match s.readRef t.part (dw n.words 2) ev with
      | (.wait, s) => s
      | (.fault _, s) => (s.forget ev).failNode task n nodeFault
      | (.ok m, s) =>
        let s := s.forget ev
        if t.status.isSome then s.cutNode task n
        else if condOf n.words m then s.waitOver task n
        else if waitNs n.words ≠ 0 ∧ waitNs n.words ≤ s.time - since then s.failNode task n 0x020A
        else s.later ev))
  | _ => .fault .notDue

/-- WAIT_TIMEOUT (R244): the timeout is measured on TIME; where the beat has changed it is looked at again. -/
def execWaitTimeout (s : State) : Host.Outcome State Fault Refusal :=
  match s.event with
  | some (.waitTimeout task addr) =>
    .next (
      match s.agenda.findSome? (fun e => match e.ev with
        | .nodeWait t a l since => if t = task ∧ a = addr then some (l, since) else none
        | _ => none) with
      | none => s
      | some (loops, since) => s.atNode task addr loops (fun t n =>
        if t.status.isSome then s
        else if s.time - since < waitNs n.words then s.post (s.now + beatTicks) (.waitTimeout task addr)
        else (s.cancel (.nodeWait task addr loops since)).failNode task n 0x020A))
  | _ => .fault .notDue

/-! ## COPY and INSTALL (R243, R246) -/

/-- The command that dword 3 of a node names. -/
def nodeKindOf (kind op : Nat) : CmdKind :=
  if kind = 3 then .finst else if op = 0 then .cpy else if op = 1 then .cpys else .cpyg

/-- A COPY or INSTALL node: its block is read and checked, and it takes one of the engine's slots 8 to 31. -/
def State.engineNode (s : State) (task : Nat) (t : Task) (n : NodeRun) (ev : Event) : State :=
  let col := dwBits n.words 3 5 0
  if t.status.isSome then s.cutNode task n
  else if partOfQuad s.dev.mode (col / 16) ≠ t.part then s.failNode task n nodeBad
  else match s.gafRead t.part (dw n.words 2).toNat 64 ev with
    | (.wait, s) => s
    | (.fault _, s) => (s.forget ev).failNode task n nodeFault
    | (.ok bs, s) =>
      let s := s.forget ev
      let x := leNat bs
      let c := Cmd.ofNat x
      let kind := nodeKindOf n.kind.toNat (dwBits n.words 3 9 8)
      let scope := if n.kind = 3 then Scope.device else Scope.ofCode (BitVec.ofNat 3 (dwBits n.words 3 14 12))
      let bad := cmdIll kind x 0 || c.rva || (match cmdRange kind c 0 with | .error _ => true | .ok _ => false)
      if bad then s.failNode task n nodeBad
      else match (slotsOf false).find? (fun i => ((s.col col).slot i).isNone) with
        | none => s.post (s.now + beatTicks) ev
        | some i =>
          let num := s.cmdNum
          let s := { s with cmdNum := num + 1 }
          (s.putCommand col i ⟨kind, c, t.part, none, some (task, n.addr), (dw n.words 2).toNat, scope, num, false, 0, 0, none,
            0, [], false, []⟩).startedNode task n

/-- NODE_COPY (R243, R246). -/
def execNodeCopy (s : State) : Host.Outcome State Fault Refusal :=
  match s.event with
  | some (.nodeCopy task addr loops) =>
    .next (s.atNode task addr loops (fun t n => s.engineNode task t n (.nodeCopy task addr loops)))
  | _ => .fault .notDue

/-- NODE_INSTALL (R243, R246). -/
def execNodeInstall (s : State) : Host.Outcome State Fault Refusal :=
  match s.event with
  | some (.nodeInstall task addr loops) =>
    .next (s.atNode task addr loops (fun t n => s.engineNode task t n (.nodeInstall task addr loops)))
  | _ => .fault .notDue

/-! ## KERNEL (R246, R247) -/

/-- A running kernel keeps the cores of its placement; one that is pre-empted and saved has left them (R248). -/
def Kernel.holds (kn : Kernel) : Bool := kn.stage != .preempted || kn.frozenReq.isNone

/-- A kernel of the partition that keeps a core of a placement. -/
def State.holder (s : State) (part : Nat) (cols : BitVec 64) (tiers : BitVec 4) : Option (Nat × Kernel) :=
  s.gaf.kernels.findSome? (fun e => match e.2 with
    | some kn => if kn.part = part ∧ kn.holds ∧ kn.cols &&& cols ≠ 0 ∧ kn.tiers &&& tiers ≠ 0 then some (e.1, kn) else none
    | none => none)

/-- The status that refuses a launch, in the order of the codes (R242, R247): 0 for none. An image without a timed superstep
runs under no profile, and none need match (DESIGN CHOICE, log 8). -/
def State.launchCheck (s : State) (part : Nat) (l : Launch) (im : Option Image) : BitVec 16 :=
  match im with
  | none => 0x0201
  | some im =>
    let cols := (List.range 64).filter (fun c => l.cols.getLsbD c)
    if !im.wellMade then 0x0201
    else if !im.phasesOk l.cols l.tiers then 0x0202
    else if !hierarchyOk l.levels then 0x0203
    else if !im.steps.isEmpty && (s.chooseProfile im cols).isNone then 0x0204
    else if !s.placeOk part l then 0x0205
    else 0

/-- The kernel that a record describes. -/
def State.newKernel (s : State) (task : Nat) (t : Task) (n : NodeRun) (l : Launch) (im : Image) (prio : Nat) : Kernel :=
  let cols := (List.range 64).filter (fun c => l.cols.getLsbD c)
  let prof := (s.chooseProfile im cols).getD (0, 0)
  { task := task, node := n.addr, part := t.part, cols := l.cols, tiers := l.tiers, image := im, profNo := prof.1
    profile := prof.2, levels := l.levels, rvused := l.rvused, points := [], step := 0
    stage := if im.steps.isEmpty then .done else .waiting, notice := none, colPhase := [], colStart := [], colEnd := []
    power := [], waiting := [], heads := [], scheds := [], replays := 0, failing := none, width := false, fatal := false, refused := none
    frozenReq := none, prio := prio }

/-- The parts of a record beyond its own bits: bindings and schedules read, as far as they are named; none where they are malformed
or a role has a ninth binding, whatever the image says (R247, R425). -/
def State.launchParts (s : State) (part : Nat) (l : Launch) (ev : Event) :
    FarRes (Option (List (Binding × Nat) × List (Nat × List (Nat × Cmd × Nat × Scope)))) × State :=
  let col := s.homeCol part
  let counts := ((List.range 64).filter (fun c => l.cols.getLsbD c)).map (fun c => (c, l.counts.getD c 0))
  let (b, s) := if l.binds = 0 then (.ok (some []), s)
    else if !addrOk 64 (BitVec.ofNat 64 l.binds) then (.ok none, s)
    else s.readBinds part col ev (8 * 65536 + 1) l.binds
  match b with
  | .wait => (.wait, s)
  | .fault t => (.fault t, s)
  | .ok none => (.ok none, s)
  | .ok (some binds) =>
    if binds.any (fun e => decide (8 < (binds.filter (fun x => x.2 == e.2)).length)) then (.ok none, s) else
    let (e, s) := if l.sched = 0 then (.ok (some []), s) else s.readScheds part col ev counts l.sched
    match e with
    | .wait => (.wait, s)
    | .fault t => (.fault t, s)
    | .ok none => (.ok none, s)
    | .ok (some sc) => (.ok (some (binds, sc)), s)

/-- NODE_KERNEL (R246, R247): the record is read and checked, its bindings before its image; the kernel starts when its cores are
free. The image's address is translated once, and the node keeps what it is (R185). -/
def execNodeKernel (s : State) : Host.Outcome State Fault Refusal :=
  match s.event with
  | some (.nodeKernel task addr loops) =>
    .next (s.atNode task addr loops (fun t n =>
      let ev : Event := .nodeKernel task addr loops
      let fail (s : State) (n : NodeRun) (code : BitVec 16) : State := (s.forget ev).failNode task n code
      if t.status.isSome then s.cutNode task n
      else match s.gafRead t.part (dw n.words 2).toNat 256 ev with
        | (.wait, s) => s
        | (.fault _, s) => fail s n nodeFault
        | (.ok bs, s) =>
          let l := Launch.ofNat (leNat bs)
          if launchBad (leNat bs) then fail s n nodeBad
          else match s.launchParts t.part l ev with
            | (.wait, s) => s
            | (.fault _, s) => fail s n nodeFault
            | (.ok none, s) => fail s n nodeBad
            | (.ok (some (binds, scheds)), s) =>
              let (place, s) := match n.word with
                | some pa => ((.ok pa : Except (BitVec 8) Nat), s)
                | none => s.translate t.part (s.homeCol t.part) l.image false
              match place with
              | .error _ => fail s n nodeFault
              | .ok pa =>
                let s := s.setWord task n (some pa)
                let n := { n with word := some pa }
                match s.imageAt t.part (s.homeCol t.part) l.image pa ev with
                | (.wait, s) => s
                | (.fault _, s) => fail s n nodeFault
                | (.ok im, s) =>
                  let bindBad := match im with
                    | some im => !bindsOk binds im l.cols l.tiers
                    | none => false
                  let code := if bindBad then nodeBad else s.launchCheck t.part l im
                  match code, im with
                  | 0, some im =>
                    if (s.holder t.part l.cols l.tiers).isSome then s.post (s.now + beatTicks) ev
                    else
                      let prio := (sget .reset (s.part t.part).queues t.queue).prio.toNat
                      ((s.forget ev).launch (s.newKernel task t n l im prio) binds scheds).2.startedNode task n
                  | c, _ => fail s n c))
  | _ => .fault .notDue

/-- A context of a kernel, or c0 of one of its cores. -/
def State.ofKernel (s : State) (kid : Nat) (q : Nat × Nat) : Bool :=
  if q.2 = 0 then (s.core q.1).ctl.kernel == some kid else (s.ctx q).kernel == some kid

/-- A far store of a kernel that another kernel has driven off its core is not performed yet (R251). -/
def State.orphansOut (s : State) (kid : Nat) : Bool :=
  let mine (e : Event) : Bool := match e with
    | .stxComplete _ c _ _ _ _ => decide (8 ≤ c ∧ (c - 8) / 4 = kid)
    | _ => false
  s.agenda.any (fun e => mine e.ev) || s.dev.fabric.reqs.any (fun r => mine r.ev) || s.dev.fabric.answers.any (fun a => mine a.ev)

/-- The contexts of a kernel have ended: the untimed ones are Halted, and no core of it has an entry to serve, as one that is
loaded again has (R245, R248). -/
def State.kernelHalted (s : State) (kid : Nat) (kn : Kernel) : Bool :=
  kn.cores.all (fun k =>
    ((s.core k).ctl.kernel != some kid || ((s.core k).ctl.handling.isNone && (s.core k).ctl.waiting.isEmpty))
      && [1, 2, 3].all (fun i => !s.ofKernel kid (k, i) || (s.ctx (k, i)).run == .halted))

/-- What the contexts of a kernel issued has ended: far loads and stores, messages and their replies, near writes and the matrix
unit's, and engine commands (R245, R308, R344). -/
def State.kernelDrained (s : State) (kid : Nat) (kn : Kernel) : Bool :=
  !s.orphansOut kid && kn.cores.all (fun k => [0, 1, 2, 3].all (fun i => !s.ofKernel kid (k, i) || !s.ownOut (k, i)))
    && kn.columns.all (fun c => (s.col c).slots.all (fun e => match e.2 with
      | some sl => (match sl.owner with
        | some q => !s.ofKernel kid q
        | none => true)
      | none => true))

/-- Everything that R245 asks of a KERNEL that has ended its last superstep. -/
def State.kernelOver (s : State) (kid : Nat) (kn : Kernel) : Bool := s.kernelHalted kid kn && s.kernelDrained kid kn

/-- The completion of a kernel whose work still ends by itself is looked at again a beat later, by one step (R245). -/
def State.lookKernel (s : State) (kid : Nat) (kn : Kernel) : State :=
  if s.kernelHalted kid kn && !s.agenda.any (fun e => e.ev == .kernelComplete kid) then
    s.post (s.now + beatTicks) (.kernelComplete kid)
  else s

/-- A kernel leaves the machine: its points are free, its contexts are nobody's, and its node ends (R229, R245, R307). -/
def State.endOfKernel (s : State) (kid : Nat) (kn : Kernel) (status : Option (BitVec 16)) : State :=
  let s := s.unbackPoints kid kn
  let s := kn.cores.foldl (fun s k => s.modCore k (fun c =>
    let c := [0, 1, 2, 3].foldl (fun (c : Core) i =>
      if (c.ctx i).kernel = some kid then c.modCtx i (fun x => { x with kernel := none }) else c) c
    if c.ctl.kernel = some kid then { c with ctl := { c.ctl with kernel := none, frozen := false } } else c)) s
  let s := (s.setKernel kid none).nodeEnds kn.task kn.node status
  s.post s.now (.taskStart kn.part)

/-- c0 of a frozen group has saved its core: it is Halted, with no entry to serve (R260). -/
def State.savedCore (s : State) (k : Nat) : Bool :=
  (s.ctx (k, 0)).run == .halted && (s.core k).ctl.handling.isNone && (s.core k).ctl.waiting.isEmpty

/-- KERNEL_COMPLETE (R245, R248, R307): a kernel is found complete, ended by a fatal trap, or saved. -/
def execKernelComplete (s : State) : Host.Outcome State Fault Refusal :=
  match s.event with
  | some (.kernelComplete kid) =>
    .next (match s.kernel kid with
      | none => s
      | some kn =>
        if kn.fatal then s.endOfKernel kid kn (some (kn.refused.getD 0x0208))
        else match kn.stage with
          | .done => if s.kernelOver kid kn then s.endOfKernel kid kn none else s.lookKernel kid kn
          | .frozen =>
            if !kn.cores.all s.savedCore then s
            else
              let s := s.modKernel kid (fun k => { k with
                stage := .preempted, frozenReq := some true
                scheds := kn.columns.map (fun c => ⟨c, (s.col c).scnt, (s.col c).sched.filter (fun e => e.kernel == kid)⟩) })
              let s := kn.columns.foldl (fun s c => s.modCol c (fun x => { x with sched := x.sched.filter (fun e => e.kernel != kid) })) s
              let s := kn.cores.foldl (fun s k => s.modCtl k (fun c => { c with kernel := none })) s
              s.post s.now (.taskStart kn.part)
          | _ => s)
  | _ => .fault .notDue

/-! ## Tasks and queues (R238 to R242, R248) -/

/-- Entries of a queue's ring. -/
def Queue.size (q : Queue) : Nat := 2 ^ q.log2n.toNat
/-- The queue holds an entry that has not started. -/
def Queue.pending (q : Queue) : Bool := q.en && !q.qstop && decide (q.tail.toNat % q.size ≠ q.head.toNat % q.size)
/-- Far address of the head entry. -/
def Queue.headAddr (q : Queue) : Nat := q.qbase.toNat * 4096 + 64 * (q.head.toNat % q.size)
/-- A queue of a partition. -/
def Part.queue (p : Part) (i : Nat) : Queue := sget .reset p.queues i

/-- Started tasks of a queue that have not written their stamps. -/
def State.queueBusy (s : State) (part q : Nat) : Bool :=
  s.gaf.tasks.any (fun e => match e.2 with
    | some t => t.part == part && t.queue == q
    | none => false)

/-- A queue of a partition with an entry to start (R240, R241): the entry, its first node and a KERNEL's launch record; none of
those that cannot be read. -/
structure QueueHead where
  index : Nat
  queue : Queue
  entry : Option Nat
  node  : Option Nat
  rec_  : Option Nat

/-- The launch that a head's first node asks for, if it is a KERNEL. -/
def QueueHead.launch (h : QueueHead) : Option Launch := h.rec_.map Launch.ofNat

/-- The resources of a head's first node are free (R241, R246). -/
def State.headFree (s : State) (part : Nat) (h : QueueHead) : Bool :=
  match h.node with
  | none => true
  | some x =>
    if nbits x 3 0 = 1 then
      (match h.launch with
        | some l => (s.holder part l.cols l.tiers).isNone
        | none => true)
    else if nbits x 3 0 = 2 ∨ nbits x 3 0 = 3 then
      (slotsOf false).any (fun i => ((s.col (nbits x 197 192)).slot i).isNone)
    else true

/-- A head's BAR condition holds (R240). -/
def State.barOk (s : State) (part q e : Nat) : Bool := nbits e 192 192 == 0 || !s.queueBusy part q

/-- The queue entry is well formed (R239, R241). -/
def State.entryOk (s : State) (part e : Nat) : Bool :=
  nbits e 191 176 == 0 && nbits e 511 194 == 0 && addrOk 64 (BitVec.ofNat 64 (nbits e 63 0))
    && s.refOk part (BitVec.ofNat 64 (nbits e 127 64))

/-- A number read for the gaffer's choice: in this device as it stands, from a peer by a request. -/
def State.see (s : State) (part va n : Nat) (ev : Event) : FarRes (Option Nat) × State :=
  match s.peek part va n with
  | .ok x => (.ok (some x), s)
  | _ => match s.gafRead part va n ev with
    | (.wait, s) => (.wait, s)
    | (.fault _, s) => (.ok none, s)
    | (.ok bs, s) => (.ok (some (leNat bs)), s)

/-- The head of a queue looked at: none while a peer has not answered. The first node of an entry that may not start, under BAR
among others, is not read (R240). -/
def State.readHead (s : State) (part : Nat) (ev : Event) (i : Nat) : Option QueueHead × State :=
  let q := (s.part part).queue i
  match s.see part q.headAddr 64 ev with
  | (.ok (some e), s) =>
    if !s.barOk part i e || !s.entryOk part e then (some ⟨i, q, some e, none, none⟩, s)
    else (match s.see part (nbits e 63 0) 64 ev with
    | (.ok (some x), s) =>
      if nbits x 3 0 ≠ 1 then (some ⟨i, q, some e, some x, none⟩, s)
      else (match s.see part (nbits x 191 128) 256 ev with
        | (.ok r, s) => (some ⟨i, q, some e, some x, r⟩, s)
        | (_, s) => (none, s))
    | (.ok none, s) => (some ⟨i, q, some e, none, none⟩, s)
    | (_, s) => (none, s))
  | (.ok none, s) => (some ⟨i, q, none, none, none⟩, s)
  | (_, s) => (none, s)

/-- The heads of a partition's queues with an entry to start, every one of them asked for: those that are known, and whether one is
still to be answered by a peer; it delays its own queue alone (R241). -/
def State.heads (s : State) (part : Nat) (ev : Event) : List QueueHead × Bool × State :=
  ((List.range 64).filter (fun i => ((s.part part).queue i).pending)).foldl (fun (a : List QueueHead × Bool × State) i =>
    match a.2.2.readHead part ev i with
    | (some h, s) => (a.1 ++ [h], a.2.1, s)
    | (none, s) => (a.1, true, s)) ([], false, s)

/-- The lines of far addresses of a head's entry, node and record. -/
def QueueHead.lines (h : QueueHead) : List Nat :=
  [h.queue.headAddr] ++ (h.entry.map (fun e => nbits e 63 0)).toList
    ++ ((h.node.map (fun x => nbits x 191 128)).toList).flatMap (fun a => (List.range 4).map (fun i => a + 64 * i))

/-- What peers answered for a head that starts is spent; what they answer for other heads is waited for (R241). -/
def State.spend (s : State) (ev : Event) (h : QueueHead) : State :=
  s.modFabric (fun b => { b with answers := b.answers.filter (fun a => a.ev != ev || !(h.lines.map (· / 64 * 64)).contains a.va) })

/-- Effective priority of a queue's head (R241). -/
def State.effPrio (s : State) (q : Queue) : Nat := min 7 (q.prio.toNat + (s.time - q.headAt) / 256000)

/-- The queue served next among eligible ones (R241). -/
def State.chooseQueue (s : State) (part : Nat) (l : List (Nat × Queue)) : Option (Nat × Queue) :=
  match l with
  | [] => none
  | _ =>
    let top := l.foldl (fun m e => max m (s.effPrio e.2)) 0
    let c := l.filter (fun e => s.effPrio e.2 == top)
    let from_ := sget 0 (s.part part).lastAt top
    match c.find? (fun e => decide (from_ ≤ e.1)) with
    | some e => some e
    | none => c.head?

/-- Kernels that a head of higher base priority pushes out (R248). -/
def State.preemptions (s : State) (part : Nat) (heads : List QueueHead) : State :=
  heads.foldl (fun s h => match h.entry with
    | none => s
    | some e =>
      if !s.barOk part h.index e then s
      else match h.launch with
        | none => s
        | some l =>
          s.gaf.kernels.foldl (fun s k => match k.2 with
            | some kn =>
              if kn.part = part ∧ kn.holds ∧ kn.frozenReq.isNone ∧ kn.prio < h.queue.prio.toNat ∧ kn.cols &&& l.cols ≠ 0
                  ∧ kn.tiers &&& l.tiers ≠ 0 ∧ !kn.fatal then
                s.post s.now (.preempt k.1 (match s.task kn.task with | some t => t.pmode | none => false))
              else s
            | none => s) s) s

/-- Saved kernels whose cores are free come back before every other task of their priority (R248). -/
def State.resumptions (s : State) (part : Nat) (heads : List QueueHead) : State :=
  s.gaf.kernels.foldl (fun s k => match k.2 with
    | some kn =>
      let wanted := heads.any (fun h => match h.entry with
        | some e => decide (kn.prio < h.queue.prio.toNat) && s.barOk part h.index e && (match h.launch with
          | some l => kn.cols &&& l.cols != 0 && kn.tiers &&& l.tiers != 0
          | none => false)
        | none => false)
      if kn.part = part ∧ kn.stage = .preempted ∧ kn.frozenReq.isSome ∧ !wanted ∧ (s.holder part kn.cols kn.tiers).isNone then
        (s.modKernel k.1 (fun x => { x with frozenReq := none })).post s.now (.resumeRequest k.1)
      else s
    | none => s) s

/-- A task of a queue starts: HEAD goes on, and its first node is read (R238, R240, R241). -/
def State.startTask (s : State) (part i : Nat) (q : Queue) (entry : Option Nat) : State :=
  let prio := s.effPrio q
  let s := s.modPart part (fun p => { p with
    queues := sset .reset p.queues i { q with head := BitVec.ofNat 16 ((q.head.toNat + 1) % q.size), headAt := s.time }
    lastAt := sset 0 p.lastAt prio ((i + 1) % 64) })
  match entry with
  | none => s
  | some e =>
    let id := s.gaf.nextId
    let s := { s with gaf := { s.gaf with nextId := id + 1 } }
    let good := s.entryOk part e
    let s := s.setTask id (some ⟨part, i, q.head.toNat % q.size, BitVec.ofNat 64 (nbits e 127 64), BitVec.ofNat 48 (nbits e 175 128),
      nbits e 193 193 == 1, if good then none else some nodeBad, [], !good, false⟩)
    if good then s.later (.nodeSuccessor id (nbits e 63 0) []) else s.later (.taskStampWrite id)

/-- TASK_START (R240, R241, R248): saved kernels come back, kernels of lower priority are pushed out, and the head of the
chosen queue starts; the gaffer looks again as long as a head waits for an engine's slot. -/
def execTaskStart (s : State) : Host.Outcome State Fault Refusal :=
  match s.event with
  | some (.taskStart part) =>
    .next (
      let ev : Event := .taskStart part
      let (heads, asked, s) := s.heads part ev
      let rest (s : State) : State := if asked then s else s.forget ev
      let s := (s.resumptions part heads).preemptions part heads
      let ready := heads.filter (fun h => match h.entry with
        | some e => s.barOk part h.index e && (!s.entryOk part e || s.headFree part h)
        | none => true)
      match (s.chooseQueue part (ready.map (fun h => (h.index, h.queue)))).bind (fun c => ready.find? (fun h => h.index == c.1)) with
      | none =>
        let s := rest s
        if heads.any (fun h => match h.entry with
            | some e => s.barOk part h.index e && !s.headFree part h && h.launch.isNone
            | none => false) then s.post (s.now + beatTicks) ev
        else s
      | some h => match s.gafRead part h.queue.headAddr 64 ev with
        | (.wait, s) => s
        | (.fault _, s) => (((rest s).spend ev h).startTask part h.index h.queue none).later ev
        | (.ok bs, s) =>
          let s := (rest s).spend ev h
          (if s.barOk part h.index (leNat bs) then s.startTask part h.index h.queue (some (leNat bs)) else s).later ev)
  | _ => .fault .notDue

/-- TASK_STAMP_WRITE (R240, R242): once no node runs and the chain is over or a node has failed. The task is over when its stamp has
been written, at a near reference in the bank's cycle. -/
def execTaskStampWrite (s : State) : Host.Outcome State Fault Refusal :=
  match s.event with
  | some (.taskStampWrite task) =>
    .next (match s.task task with
      | none => s
      | some t =>
        let ev : Event := .taskStampWrite task
        let again (s : State) : State := s.post (s.now + cyc (nbits t.stamp.toNat 62 48)) ev
        let rest (s : State) : State := ((s.forget ev).setTask task none).post s.now (.taskStart t.part)
        if !t.nodes.isEmpty || !(t.ending || t.status.isSome) then s
        else if t.stamped then (if s.writing (.task task) then again s else rest s)
        else if !s.refOk t.part t.stamp then rest s
        else match s.writeRef (.task task) t.part t.stamp (t.seq.toNat + (t.status.getD 0).toNat * 2 ^ 48) ev with
          | (.wait, s) => s
          | (_, s) => if t.stamp.getLsbD 63 then again (s.modTask task (fun t => { t with stamped := true })) else rest s)
  | _ => .fault .notDue

end Sys2Proof.Machine
end

