-- ==== Sys2Proof/Machine/Power.lean ====
section
/-! DEFINITION. The beat, heat, power caps and the install budgets (R194, R273 to R284). -/

namespace Sys2Proof.Machine

/-- The power registers changed. -/
def State.modPower (s : State) (f : Power → Power) : State := s.modDev (fun d => { d with power := f d.power })

/-! ## The beat (R273, R274) -/

/-- Steps that stand on the agenda for a time of TIME and not for a beat (R275). -/
def Event.onTime : Event → Bool
  | .selfThrottleStep | .sensorSample _ | .hardLimitStep _ _ | .budgetRefill | .flowLossTimeout _ _ _ | .waitTimeout _ _ | .retrainComplete _
  | .portTrainingComplete _ | .attestComplete _ | .flrDrainDone _ | .flrComplete _ | .partcfgChangeComplete => true
  | _ => false

/-- A change of the power registers, with the budget before it kept for the releases that were fixed by then (R277). -/
def State.modBudget (s : State) (f : State → State) : State :=
  let old := s.budgetNow
  let t := f s
  if t.budgetNow = old then t
  else t.modPower (fun p => { p with
    past := (p.past.filter (fun e => decide (s.now < e.1 + decisionTicks))) ++ [(s.now, old)] })

/-- The change of the code towards min(REQ, CEIL): a higher code takes effect at the beat boundary that the settling of the
voltages gives, within 20 µs, a lower one at the next; a new target replaces a pending one (R273, R274). -/
def State.aimBeat (s : State) : State :=
  let p := s.dev.power
  let goal := if p.trip then 10 else min p.req p.ceil
  if goal = (if p.busy then p.target else p.cur) then s
  else
    let s := (s.cancel .beatChange).modPower (fun p => { p with busy := true, target := goal })
    if p.cur < goal then
      let most := s.nsTicks 20000 / beatTicks
      let d := Config.freeSettle s.fresh % most
      ({ s with fresh := s.fresh + 1 }).post ((s.beat + 1 + d) * beatTicks) .beatChange
    else s.post ((s.beat + 1) * beatTicks) .beatChange

/-- BEAT_CHANGE (R274, R280): the pending code takes effect; wall time, counts in nanoseconds and steps due at a time go on
at the new rate. -/
def execBeatChange (s : State) : Host.Outcome State Fault Refusal :=
  match s.event with
  | some .beatChange =>
    .next (
      let old := s.dev.power.cur
      let s := { s with wall := s.wallNow, wallAt := s.now }
      let s := s.modBudget (fun s => s.modPower (fun p => { p with
        cur := p.target, busy := false, ceil := if p.trip then 10 else p.ceil, trip := false }))
      let new := s.dev.power.cur
      let moved := s.agenda.filter (fun e => Event.onTime e.ev)
      let s := { s with agenda := s.agenda.filter (fun e => !Event.onTime e.ev) }
      let s := moved.foldl (fun s e => s.post (s.now + ceilDiv ((e.at_ - s.now) * tickUnits old) (tickUnits new)) e.ev) s
      s.cores.foldl (fun s e => [0, 1, 2, 3].foldl (fun s i => s.recount (e.1, i) old) s) s)
  | _ => .fault .notDue

/-- A management write has effect only on a device that has come up (R299). -/
def State.hostWrite (s : State) (f : State → State) : State := if s.dev.booted then f s else s

/-- A write to the region of a partition has no effect while the partition is reset (R308). -/
def State.partWrite (s : State) (part : Nat) (f : State → State) : State :=
  s.hostWrite (fun s => if (s.part part).flrStep ≠ 0 then s else f s)

/-- BEATCTL_REQ_WRITE (R273): REQ, ERR and STEP of BEATCTL. -/
def State.writeBeatctl (s : State) (v : DWord) : State :=
  let r := nbits v.toNat 6 0
  let ok := decide (10 ≤ r ∧ r ≤ 80)
  let s := s.modBudget (fun s => s.modPower (fun p => { p with
    req := if ok then r else p.req, err := !ok || (p.err && !v.getLsbD 24), step := nbits v.toNat 35 32 }))
  s.aimBeat

/-- Temperature of a column and tier (R281). -/
def Power.temp (p : Power) (col tier : Nat) : Nat :=
  (List.range 4).foldl (fun m i => max m (nbits (sget 0 p.sensors (16 * col + 4 * tier + i)).toNat 15 8)) 0
/-- Some column is above TLIM. -/
def Power.hot (p : Power) : Bool :=
  p.sensors.any (fun e => decide (p.tlim.toNat < nbits e.2.toNat 15 8))

/-- RESTORE (R273, R282, R284): CEIL is 80 again if no throttling condition holds. -/
def State.restoreCeil (s : State) : State :=
  if s.dev.power.hot || s.dev.power.above then s else (s.modPower (fun p => { p with ceil := 80 })).aimBeat

/-- A lower CEIL: by four codes, never below 10 (R282, R284). -/
def State.lowerCeil (s : State) : State := (s.modPower (fun p => { p with ceil := max 10 (p.ceil - 4) })).aimBeat

/-- BEATCTL_REQ_WRITE (R273). -/
def execBeatctlReqWrite (s : State) : Host.Outcome State Fault Refusal :=
  match s.event with
  | some (.beatctlReqWrite v) => .next (s.hostWrite (fun s => s.writeBeatctl v))
  | _ => .fault .notDue
/-- BEATCTL_RESTORE (R273). -/
def execBeatctlRestore (s : State) : Host.Outcome State Fault Refusal :=
  match s.event with
  | some .beatctlRestore => .next (s.hostWrite State.restoreCeil)
  | _ => .fault .notDue

/-! ## Heat (R281, R282) -/

/-- A trip (R282): at the next beat boundary CEIL is 10, and with it the code. -/
def State.tripBeat (s : State) : State :=
  if s.dev.power.ceil = 10 then s
  else ((s.cancel .beatChange).modPower (fun p => { p with trip := true, busy := true, target := 10 })).post
    ((s.beat + 1) * beatTicks) .beatChange

/-- Lower middle of a list of readings. -/
def lowMedian (l : List Nat) : Nat :=
  let rec ins (x : Nat) : List Nat → List Nat
    | [] => [x]
    | y :: r => if x ≤ y then x :: y :: r else y :: ins x r
  let sorted := l.foldr ins []
  sorted.getD ((sorted.length - 1) / 2) 0

/-- The other sensors of a sensor's column and tier that are not marked failed. -/
def neighbours (failed : Nat → Bool) (i : Nat) : List Nat :=
  ((List.range 4).map (fun j => i / 4 * 4 + j)).filter (fun j => j != i && !failed j)

/-- A sensor that differs from the median of two or more neighbours by more than 8 °C. -/
def deviates (raw : Nat → Nat) (failed : Nat → Bool) (i : Nat) : Bool :=
  let ns := neighbours failed i
  let m := lowMedian (ns.map raw)
  decide (2 ≤ ns.length) && decide (8 < (raw i - m) + (m - raw i))

/-- Effective reading of a sensor once all are voted; readings end at 255. -/
def effective (raw : Nat → Nat) (failed : Nat → Bool) (i : Nat) : Nat :=
  if !failed i then raw i
  else
    let ns := neighbours failed i
    let quad := ((List.range 16).map (fun c => i / 256 * 16 + c)).flatMap (fun c =>
      (List.range 4).map (fun j => 16 * c + i / 4 % 4 * 4 + j))
    min 255 (((if ns = [] then quad else ns).map raw).foldl max 0 + 6)

/-- The sensors after a sample (R281); readings that it does not bring are free. -/
def voteSensors (n : Nat) (old : Sparse DWord) (raws : List (BitVec 8)) : Sparse DWord :=
  let raw (i : Nat) : Nat := (raws.getD i (Config.freeReading n i)).toNat
  let before (i : Nat) : Bool := (sget 0 old i).getLsbD 16
  let after (i : Nat) : Bool := before i || deviates raw before i
  (List.range 1024).foldl (fun m i => sset 0 m i
    (BitVec.ofNat 64 (raw i + effective raw after i * 2 ^ 8 + (if after i then 2 ^ 16 else 0)))) old

/-- The sensor of a column and tier that reads highest, the lowest index among equals. -/
def Power.hottest (p : Power) (col tier : Nat) : Nat :=
  let eff (i : Nat) : Nat := nbits (sget 0 p.sensors (16 * col + 4 * tier + i)).toNat 15 8
  16 * col + 4 * tier + (((List.range 4).find? (fun i => eff i == p.temp col tier)).getD 0)

/-- A column and tier after a sample: THERM is raised above TLIM and again only after a fall to TLIM − 5 °C. The THERMs of one
sample have one deadline (R282). -/
def State.checkTherm (s : State) (col tier : Nat) : State :=
  let p := s.dev.power
  let t := p.temp col tier
  let key := 4 * col + tier
  let stands := sget 0 p.therm key != 0
  if p.tlim.toNat < t ∧ !stands then
    let s := s.modPower (fun p => { p with therm := sset 0 p.therm key (s.time + 1) })
    let u := s.now + s.nsTicks 500000
    let s := s.post s.now (.thermDelivery (partOfQuad s.dev.mode (col / 16)) col (p.hottest col tier))
    if s.agenda.any (fun e => e.ev == .selfThrottleStep && e.at_ == u) then s else s.post u .selfThrottleStep
  else if stands ∧ t + 5 ≤ p.tlim.toNat then s.modPower (fun p => { p with therm := sset 0 p.therm key 0 })
  else s

/-- SENSOR_SAMPLE (R281, R282): all sensors are voted; limits are looked at; a trip sets CEIL to 10 at the next beat
boundary; the next sample follows in 32 µs at the latest. -/
def execSensorSample (s : State) : Host.Outcome State Fault Refusal :=
  match s.event with
  | some (.sensorSample raws) =>
    .next (
      let s := ({ s with fresh := s.fresh + 1 }).modPower (fun p => { p with sensors := voteSensors s.fresh p.sensors raws })
      let s := (List.range 256).foldl (fun s i => s.checkTherm (i / 4) (i % 4)) s
      let u := s.now + s.nsTicks Config.sampleNs
      let s := if s.agenda.any (fun e => (match e.ev with | .sensorSample _ => true | _ => false) && decide (e.at_ ≤ u)) then s
        else s.post u (.sensorSample [])
      if s.dev.power.sensors.any (fun e => decide (110 ≤ nbits e.2.toNat 15 8)) then s.tripBeat else s)
  | _ => .fault .notDue

/-- SELF_THROTTLE_STEP (R282): 500 µs after each THERM, and 100 µs after the last lowering while a column stays above TLIM: the
next step is posted where no step of another THERM comes first (log 17). -/
def execSelfThrottleStep (s : State) : Host.Outcome State Fault Refusal :=
  match s.event with
  | some .selfThrottleStep =>
    .next (
      let u := s.now + s.nsTicks 100000
      if !s.dev.power.hot then s
      else if s.agenda.any (fun e => e.ev == .selfThrottleStep && decide (e.at_ ≤ u)) then s.lowerCeil
      else s.lowerCeil.post u .selfThrottleStep)
  | _ => .fault .notDue

/-- TCTL (R282): a write above TMAX sets TMAX. -/
def State.writeTctl (s : State) (v : DWord) : State :=
  s.modPower (fun p => { p with tlim := if p.tmax.toNat < nbits v.toNat 7 0 then p.tmax else v.setWidth 8 })
/-- TCTL_WRITE (R282). -/
def execTctlWrite (s : State) : Host.Outcome State Fault Refusal :=
  match s.event with
  | some (.tctlWrite v) => .next (s.hostWrite (fun s => s.writeTctl v))
  | _ => .fault .notDue

/-! ## Caps, floors and hard limits (R283, R284) -/

/-- Sum of the floors of all partitions. -/
def State.floors (s : State) : Nat := (List.range 4).foldl (fun n p => n + (s.part p).floor.toNat) 0

/-- PCAP (R283). -/
def State.writePcap (s : State) (v : DWord) : State := s.modBudget (fun s =>
  let cap := nbits v.toNat 11 0
  let scale := v.getLsbD 12
  let sum := s.floors
  let s := s.modPower (fun p => { p with cap := BitVec.ofNat 12 cap, fscale := scale })
  if cap < Config.idleFloor then s.modPower (fun p => { p with stat := 1 })
  else if cap < sum ∧ !scale then s.modPower (fun p => { p with stat := 2 })
  else
    let scaled := decide (cap < sum)
    let s := s.modPower (fun p => { p with stat := 0, eff := BitVec.ofNat 12 (min cap p.hlim.toNat), scaled := scaled })
    (List.range 4).foldl (fun s i => s.modPart i (fun p => { p with
      efff := if scaled then BitVec.ofNat 12 (p.floor.toNat * cap / sum) else p.floor })) s)
/-- PCAP_WRITE (R283). -/
def execPcapWrite (s : State) : Host.Outcome State Fault Refusal :=
  match s.event with
  | some (.pcapWrite v) => .next (s.hostWrite (fun s => s.writePcap v))
  | _ => .fault .notDue

/-- PFLOOR (R283): floors whose sum passes the cap in force are refused; accepted ones are in force at once. -/
def State.writePfloor (s : State) (part : Nat) (v : DWord) : State := s.modBudget (fun s =>
  let f := nbits v.toNat 11 0
  if s.dev.power.eff.toNat < s.floors - (s.part part).floor.toNat + f then s.modPower (fun p => { p with stat := 2 })
  else
    let s := s.modPart part (fun p => { p with floor := BitVec.ofNat 12 f })
    let s := s.modPower (fun p => { p with scaled := false })
    (List.range 4).foldl (fun s i => s.modPart i (fun p => { p with efff := p.floor })) s)
/-- PFLOOR_WRITE (R283). -/
def execPfloorWrite (s : State) : Host.Outcome State Fault Refusal :=
  match s.event with
  | some (.pfloorWrite part v) => .next (s.partWrite part (fun s => s.writePfloor part v))
  | _ => .fault .notDue

/-- HLIM (R284): a write above the strap sets the strap. -/
def State.writeHlim (s : State) (v : DWord) : State :=
  s.modPower (fun p => { p with hlim := if p.strap.toNat < nbits v.toNat 11 0 then p.strap else v.setWidth 12 })
/-- HLIM_WRITE (R284). -/
def execHlimWrite (s : State) : Host.Outcome State Fault Refusal :=
  match s.event with
  | some (.hlimWrite v) => .next (s.hostWrite (fun s => s.writeHlim v))
  | _ => .fault .notDue

/-- HARD_LIMIT_STEP (R284): an averaged measurement above HLIM or a domain's limit lowers CEIL, and the next step follows in
10 µs until one is back within; what that one measures is free. -/
def execHardLimitStep (s : State) : Host.Outcome State Fault Refusal :=
  match s.event with
  | some (.hardLimitStep watts domainOver) =>
    .next (
      let above := decide (s.dev.power.hlim.toNat < watts) || domainOver
      let s := s.modPower (fun p => { p with above := above })
      if !above then s
      else
        let u := s.now + s.nsTicks 10000
        if s.agenda.any (fun e => (match e.ev with | .hardLimitStep _ _ => true | _ => false) && decide (e.at_ ≤ u)) then s.lowerCeil
        else
        let n := s.fresh
        let s := ({ s with fresh := n + 1 }).lowerCeil
        s.post u (.hardLimitStep (Config.freeWatts n) (Config.freeDomain n)))
  | _ => .fault .notDue

/-! ## Install budgets (R194, R287) -/

/-- IBUDGET (R287): ignored where the budgets would sum to more than 12,288 GiB. What is left of the day changes by as much
as the budget does. -/
def State.writeIbudget (s : State) (part : Nat) (v : DWord) : State :=
  let b := nbits v.toNat 13 0
  let others := (List.range 4).foldl (fun n p => if p = part then n else n + (s.part p).ibudget.toNat) 0
  if 12288 < others + b then s
  else s.modPart part (fun p => { p with ibudget := BitVec.ofNat 14 b, budget := p.budget + b - p.ibudget.toNat })
/-- IBUDGET_WRITE (R287). -/
def execIbudgetWrite (s : State) : Host.Outcome State Fault Refusal :=
  match s.event with
  | some (.ibudgetWrite part v) => .next (s.partWrite part (fun s => s.writeIbudget part v))
  | _ => .fault .notDue

/-- BUDGET_REFILL (R194, R275): every 24 hours of TIME the full budgets are back; before that, the step waits for what TIME
lacks. -/
def execBudgetRefill (s : State) : Host.Outcome State Fault Refusal :=
  match s.event with
  | some .budgetRefill =>
    .next (
      if s.time < s.dev.nextRefill then s.post (s.now + s.nsTicks (s.dev.nextRefill - s.time)) .budgetRefill
      else
      let s := (List.range 4).foldl (fun s i => s.modPart i (fun p => { p with budget := p.ibudget.toNat })) s
      let s := s.modDev (fun d => { d with nextRefill := d.nextRefill + Config.refillNs })
      s.post (s.now + s.nsTicks Config.refillNs) .budgetRefill)
  | _ => .fault .notDue

end Sys2Proof.Machine
end

