-- ==== Sys2Proof/Machine/Fabric.lean ====
section
/-! DEFINITION. The fabric: flits received, ordered flows, drain markers, routing banks, ports, link notices (R289 to
R298). -/

namespace Sys2Proof.Machine

/-! ## The key check (R295) -/

/-- The lowest valid entry of the key table that lists a key: the partition it admits to. -/
def Fabric.keyPart (f : Fabric) (key : BitVec 16) : Option Nat :=
  if key = 0 then none
  else ((List.range 64).find? (fun i =>
    let e := (sget 0 f.keys i).toNat
    nbits e 18 18 == 1 && nbits e 15 0 == key.toNat)).map (fun i => nbits (sget 0 f.keys i).toNat 17 16)

/-- A flit passes the check: key 0xFFFF only with TYPE 6. -/
def Fabric.admits (f : Fabric) (x : Flit) : Bool :=
  if x.pkey = 0xFFFF then x.typ == 6 else (f.keyPart x.pkey).isSome

/-- A counter of a port; 16 stands for the device's own traffic and has none. -/
def State.countAt (s : State) (p : Nat) (f : Port → Port) : State := if p < 16 then s.modPort p f else s

/-! ## Requests that enter a partition (R288, R289) -/

/-- A response on its way: class 1 for class 0, class 2 for class 2, with the key, tag and address of the request. Its
payload is the data, or one byte that holds a TSTAT, or nothing; the spec gives the payload no layout (log 14). -/
def State.respond (s : State) (x : Flit) (payload : List Byte) : State :=
  (s.sendFlit ⟨x.src, 0, if x.cls = 2 then 2 else 1, 3, x.pkey, x.tag, 0, x.pa, payload, true⟩).2

/-- The request of an atomic flit (log 14). -/
def atomicOf (x : Flit) : AtomicReq :=
  let n := leNat x.payload
  ⟨0, 0, 0, nbits n 7 0, Ty.ofCode (BitVec.ofNat 4 (nbits n 11 8)), none, false, x.pa, BitVec.ofNat 64 (nbits n 127 64),
    BitVec.ofNat 64 (nbits n 191 128), 0⟩

/-- A peer's request served at its local physical address: the map, the firewall, where an atomic both reads and writes, then
the access, which its response acknowledges (R182, R201, R288). -/
def State.serveRequest (s : State) (part : Nat) (x : Flit) : State :=
  let write := x.typ != 2
  let n := if x.typ = 2 then 64 else if x.typ = 1 then x.payload.length else (atomicOf x).ty.width / 8
  let refuse (s : State) (t : BitVec 8) : State := s.respond x [t]
  let far := match s.dev.place x.pa with
    | .hbm => true
    | .flash => true
    | _ => false
  if !far then refuse s tNoPhys
  else match (if x.typ = 1 then none else s.physOk part x.pa false), (if write then s.physOk part x.pa true else none) with
    | some t, _ => refuse s t
    | none, some t => refuse s t
    | none, none =>
      if x.typ = 2 then
        (match s.readPhys x.pa n with
        | (.ok bs, s) => s.respond x bs
        | (.error t, s) => refuse s t)
      else if x.typ = 1 then
        let s := s.writePhys x.pa x.payload
        s.respond x []
      else if s.dev.badFar x.pa n then refuse s tEcc
      else
        let r := atomicOf x
        let (k, s) := s.number
        let (v, res) := rmwOp r.op r.ty (leNat (s.dev.readFar x.pa n)) r.opnd r.cmp (Config.freeUnitValue k)
        (s.writePhys x.pa (leBytes n v)).respond x (leBytes 8 res.toNat)

/-- An outstanding request completes: the step that waits for it runs again (R289). -/
def State.answerReq (s : State) (r : PeerReq) (data : List Byte) (t : BitVec 8) : State :=
  let s := s.modFabric (fun b => { b with reqs := b.reqs.erase r, answers := b.answers ++ [⟨r.ev, r.va, data, t⟩] })
  s.post (s.now + 1) r.ev

/-- A request that a device dropped or lost ends at its source with TSTAT 0x07 (R291, R294). The response names the request by its
destination and its FSEQ, in the class without numbers by its address (log 14). -/
def State.refuseLost (s : State) (x : Flit) : State :=
  (s.sendFlit ⟨x.src, 0, if x.cls = 2 then 2 else 1, 3, x.pkey, x.tag, 0, x.pa,
    BitVec.setWidth 8 tPeer :: leBytes 2 x.fseq.toNat ++ leBytes 2 x.dest.toNat, true⟩).2

/-- The request that a response of `State.refuseLost` names. -/
def State.takeLost (s : State) (x : Flit) : State :=
  let dest := leNat (x.payload.drop 3)
  match s.dev.fabric.reqs.find? (fun r => r.dest.toNat == dest && (r.cls == 2) == (x.cls == 2)
      && (if x.cls = 2 then r.pa == x.pa else r.fseq.toNat == leNat ((x.payload.drop 1).take 2))) with
  | none => s
  | some r => s.answerReq r [] tPeer

/-- A response enters a partition: one that is not its tag's, or of an old epoch, is dropped; otherwise it completes its
request, with TSTAT 0x06 where it failed its CRC (R271, R290, R295). -/
def State.takeResponse (s : State) (part : Nat) (x : Flit) : State :=
  if x.payload.length = 5 ∧ x.crcOk then s.takeLost x
  else if (x.tag.setWidth 2).toNat ≠ part ∨ (x.tag.extractLsb' 2 4) ≠ (s.part part).epoch then s
  else match s.dev.fabric.reqs.find? (fun r => r.dest == x.src && r.pa == x.pa && r.part == part
      && (r.cls == 2) == (x.cls == 2)) with
    | none => s
    | some r => if !x.crcOk then s.answerReq r [] tEcc else if x.payload.length = 1 then s.answerReq r [] (x.payload.headD 0) else s.answerReq r x.payload 0

/-- A flit is delivered in this device into the partition of its key (R295): a request is served, or answered with TSTAT 0x06
where it failed its CRC; a response completes its request. Collectives carry their contributions to COLL_COMPLETE. -/
def State.deliverFlit (s : State) (x : Flit) : State :=
  match s.dev.fabric.keyPart x.pkey with
  | none => s
  | some part =>
    if x.typ = 3 then s.takeResponse part x
    else if !x.crcOk then s.respond x [tEcc]
    else if x.typ = 1 ∨ x.typ = 2 ∨ (x.typ = 4 ∧ x.cls = 0) then s.serveRequest part x
    else s

/-! ## Ordered flows (R294) -/

/-- A flow at its destination. -/
def Fabric.flow (f : Fabric) (key : Nat) : RxFlow := sget .reset f.flows key
/-- A flow changed. -/
def State.modFlow (s : State) (key : Nat) (f : RxFlow → RxFlow) : State :=
  s.modFabric (fun b => { b with flows := sset .reset b.flows key (f (b.flow key)) })

/-- Held flits that come next in their flow are delivered; `fuel` bounds their number. -/
def State.drainFlow (s : State) (key : Nat) : Nat → State
  | 0 => s
  | n + 1 =>
    let w := s.dev.fabric.flow key
    match w.held.find? (fun x => x.fseq == w.next) with
    | none => s
    | some x => ((s.modFlow key (fun w => { w with next := w.next + 1, held := w.held.erase x })).deliverFlit x).drainFlow key n

/-- A flit of an ordered flow: delivered in FSEQ order, held while its predecessor is missing. One whose FSEQ lies behind the
next (by the half of the numbers that a source never has outstanding) is a copy and is dropped. -/
def State.takeOrdered (s : State) (x : Flit) : State :=
  let key := flowKey x.cls x.src
  let w := s.dev.fabric.flow key
  if 512 ≤ (x.fseq - w.next).toNat then s
  else
    let s := s.modFlow key (fun w => { w with held := w.held ++ [x] })
    s.drainFlow key (w.held.length + 1)

/-- DRAIN_MARKER (R294): every flit before the marker's FSEQ came by the old path; 20 µs later what is missing is lost. -/
def execDrainMarker (s : State) : Host.Outcome State Fault Refusal :=
  match s.event with
  | some (.drainMarker x) =>
    .next (
      let s := s.modFlow (flowKey x.cls x.src) (fun w => { w with markers := w.markers ++ [x] })
      s.post (s.now + s.nsTicks 20000) (.flowLossTimeout x.cls x.src x.fseq))
  | _ => .fault .notDue

/-- FLOW_LOSS_TIMEOUT (R294): flits before the marker that are still missing are lost; their requests complete with TSTAT
0x07: of a lost request its source is told, under the key of the marker; of lost responses as many of the oldest outstanding
requests end as are missing. Those that came are delivered in FSEQ order, and delivery goes on at the marker. -/
def execFlowLossTimeout (s : State) : Host.Outcome State Fault Refusal :=
  match s.event with
  | some (.flowLossTimeout cls src fseq) =>
    .next (
      let key := flowKey cls src
      let w := s.dev.fabric.flow key
      match w.markers.find? (fun m => m.fseq == fseq) with
      | none => s
      | some m =>
        let gone := (fseq - w.next).toNat
        let kept := w.held.filter (fun x => decide ((x.fseq - w.next).toNat < gone))
        let missing := if gone < 512 then ((List.range gone).map (fun i => w.next + BitVec.ofNat 10 i)).filter (fun n =>
          !kept.any (fun x => x.fseq == n)) else []
        let s := if gone < 512 then ((List.range gone).flatMap (fun i => kept.filter (fun x => (x.fseq - w.next).toNat == i))).foldl
            (fun s x => s.deliverFlit x) s else s
        let s := s.modFlow key (fun w => { w with
          next := if gone < 512 then fseq else w.next, markers := w.markers.erase m, held := w.held.filter (fun x => !kept.contains x) })
        let lost := if cls = 1 then ((s.dev.fabric.reqs.filter (fun r => r.dest == src && r.cls == 0)).take missing.length) else []
        let s := lost.foldl (fun s r => s.answerReq r [] tPeer) s
        let s := if cls = 0 then missing.foldl (fun s n => s.refuseLost { m with fseq := n, dest := s.dev.fabric.myid }) s else s
        s.drainFlow key (w.held.length + 1))
  | _ => .fault .notDue

/-! ## Routing banks (R291, R292) -/

/-- An entry of a bank: the active bank ignores writes. -/
def State.writeRoute (s : State) (bank : Bool) (dest : Nat) (v : Word) : State :=
  if bank = s.dev.fabric.act then s
  else
    let v := BitVec.ofNat 32 (nbits v.toNat 19 0)
    s.modFabric (fun b => if bank then { b with bank1 := sset 0 b.bank1 dest v } else { b with bank0 := sset 0 b.bank0 dest v })
/-- ROUTING_ENTRY_WRITE (R292). -/
def execRoutingEntryWrite (s : State) : Host.Outcome State Fault Refusal :=
  match s.event with
  | some (.routingEntryWrite bank dest v) => .next (s.hostWrite (fun s => s.writeRoute (bank % 2 == 1) (dest % 8192) v))
  | _ => .fault .notDue

/-- SWAP of RTCTL (R292): the banks swap at the routing stage's next flit boundary. -/
def State.writeSwap (s : State) : State :=
  if s.dev.fabric.pend then s
  else
    let (d, s) := (s.modFabric (fun b => { b with pend := true })).draw 1
    s.post (s.now + d) .routeBankSwap
/-- SWAP (R292). -/
def execSwap (s : State) : Host.Outcome State Fault Refusal :=
  match s.event with
  | some .swap => .next (s.hostWrite State.writeSwap)
  | _ => .fault .notDue
/-- ROUTE_BANK_SWAP (R292): for all 16 ports at once. -/
def execRouteBankSwap (s : State) : Host.Outcome State Fault Refusal :=
  match s.event with
  | some .routeBankSwap => .next (s.modFabric (fun b => { b with act := !b.act, pend := false }))
  | _ => .fault .notDue

/-! ## Ports (R290, R296, R297) -/

/-- CLR of PSTAT (R290). -/
def State.clearPstat (s : State) (p : Nat) : State := s.modPort p (fun q => { q with keydrop := 0, routedrop := 0, crcdrop := 0 })
/-- PSTAT_CLR (R290). -/
def execPstatClr (s : State) : Host.Outcome State Fault Refusal :=
  match s.event with
  | some (.pstatClr p) => .next (s.hostWrite (fun s => s.clearPstat (p % 16)))
  | _ => .fault .notDue

/-- Flits that wait behind a stop or a retraining leave when neither holds (R297). -/
def State.releasePort (s : State) (p : Nat) : State :=
  let q := s.port p
  if q.stopped || q.train then s
  else
    let s := s.modPort p (fun q => { q with
      sent := q.sent ++ q.queued.map (·.2), used := q.used + q.queued.length, queued := [] })
    (q.queued.filter (fun e => decide (e.1 < 16))).foldl (fun s e => s.modPort e.1 (fun q => q.fill (q.buffered - 1))) s

/-- The code of a link's change (R296). -/
def linkCode : LinkChange → Nat
  | .down => 0
  | .shed => 1
  | .back => 2

/-- The notice record (R296). -/
def noticeBytes (n : Notice) : List Byte :=
  leBytes 32 (n.dev.toNat + n.port.toNat * 2 ^ 13 + linkCode n.event * 2 ^ 17 + n.nseq.toNat * 2 ^ 32 + n.time.toNat * 2 ^ 64)

/-- The step that writes a notice into a partition's ring, where a peer holds the ring: a receipt from no port. -/
def noticeStep (p : Nat) (n : Notice) : Event := .noticeReceive (17 + p) n

/-- Another notice is on its way into a partition's ring at a peer. -/
def State.ringBusy (s : State) (p : Nat) (n : Notice) : Bool :=
  let other (e : Event) : Bool := match e with
    | .noticeReceive q m => q == 17 + p && m != n
    | _ => false
  s.dev.fabric.reqs.any (fun r => other r.ev) || s.dev.fabric.answers.any (fun a => other a.ev)

/-- A notice is written into the ring of a partition whose NTCTL has EN set, one behind another where a peer holds the ring
(R296). -/
def State.noticeInto (s : State) (n : Notice) (p : Nat) : State :=
  let ev := noticeStep p n
  if !(s.part p).nt.en then s.forget ev
  else if s.ringBusy p n then s.post (s.now + beatTicks) ev
  else match s.ringWrite p (s.homeCol p) (s.part p).nt (noticeBytes n) 0 ev with
    | (none, s) => s
    | (some r, s) => (s.forget ev).modPart p (fun q => { q with nt := r })

/-- A notice is written into the ring of every partition (R296). -/
def State.recordNotice (s : State) (n : Notice) : State := (List.range 4).foldl (fun s p => s.noticeInto n p) s

/-- A notice leaves by every up port but one (R296). -/
def State.floodNotice (s : State) (n : Notice) (except_ : Nat) : State :=
  ((List.range 16).filter (fun p => p != except_ && (s.port p).up)).foldl (fun s p =>
    s.emit 16 p ⟨0, n.dev, 3, 6, 0xFFFF, 0, 0, 0, noticeBytes n, true⟩) s

/-- A notice not seen before is recorded and forwarded once (R296). -/
def State.takeNotice (s : State) (n : Notice) (port : Nat) : State :=
  if s.dev.fabric.seen.contains (n.dev, n.nseq) then s
  else ((s.modFabric (fun b => { b with seen := (n.dev, n.nseq) :: b.seen })).recordNotice n).floodNotice n port

/-- The bytes of a notice record (R296). -/
def noticeOf (bs : List Byte) : Notice :=
  let x := leNat bs
  ⟨BitVec.ofNat 13 (nbits x 12 0), BitVec.ofNat 4 (nbits x 16 13),
    if nbits x 18 17 = 0 then .down else if nbits x 18 17 = 1 then .shed else .back, BitVec.ofNat 32 (nbits x 63 32),
    BitVec.ofNat 64 (nbits x 127 64)⟩

/-- FLIT_RECEIVE (R290 to R296): the key check for every flit; a notice is recorded and flooded; transit flits go on, and the source of a request that cannot is told (R291); a local
one whose CRC fails is counted and takes its place in its flow, so that its request completes with TSTAT 0x06. -/
def execFlitReceive (s : State) : Host.Outcome State Fault Refusal :=
  match s.event with
  | some (.flitReceive port x) =>
    .next (
      let fb := s.dev.fabric
      if !fb.admits x then s.countAt port (fun q => { q with keydrop := satInc q.keydrop })
      else if x.typ = 0 ∨ 7 < x.typ.toNat then s.countAt port (fun q => { q with routedrop := satInc q.routedrop })
      else if x.typ = 6 then
        if x.crcOk then s.takeNotice (noticeOf x.payload) port
        else s.countAt port (fun q => { q with crcdrop := satInc q.crcdrop })
      else if x.dest ≠ fb.myid then
        (match s.routeFlit port x with
          | (true, s) => s
          | (false, s) => if x.typ = 1 ∨ x.typ = 2 ∨ x.typ = 4 then s.refuseLost x else s)
      else
      let s := if x.crcOk then s else s.countAt port (fun q => { q with crcdrop := satInc q.crcdrop })
      if x.typ = 7 then (if x.crcOk then s.post s.now (.drainMarker x) else s)
      else if x.cls = 0 ∨ x.cls = 1 then s.takeOrdered x
      else s.deliverFlit x)
  | _ => .fault .notDue

/-- NOTICE_RECEIVE (R296); a number above every port names the partition whose ring a notice still has to reach. -/
def execNoticeReceive (s : State) : Host.Outcome State Fault Refusal :=
  match s.event with
  | some (.noticeReceive port n) => .next (if 17 ≤ port then s.noticeInto n (port - 17) else s.takeNotice n port)
  | _ => .fault .notDue

/-- This device's own notice of a change at a port. -/
def State.ownNotice (s : State) (port : Nat) (e : LinkChange) : State :=
  let n : Notice := ⟨s.dev.fabric.myid, BitVec.ofNat 4 port, e, s.dev.fabric.nseq, BitVec.ofNat 64 s.beat⟩
  (s.modFabric (fun b => { b with nseq := b.nseq + 1 })).takeNotice n 16

/-- Outstanding requests whose destination has no usable port left (R296). -/
def State.loseRequests (s : State) : State :=
  let lost := s.dev.fabric.reqs.filter (fun r =>
    r.dest != s.dev.fabric.myid &&
      !(List.range 16).any (fun p => (s.dev.fabric.route s.dev.fabric.act r.dest.toNat).getLsbD p && (s.port p).up))
  lost.foldl (fun s r => s.answerReq r [] tPeer) s

/-- LINK_EVENT (R296, R297): a failed port carries no more traffic; shedding retrains the link first, within 1.5 µs; eight
lanes are back. -/
def execLinkEvent (s : State) : Host.Outcome State Fault Refusal :=
  match s.event with
  | some (.linkEvent port e) =>
    .next (match e with
      | .down => (((s.modPort port (fun q => { q with up := false, train := false })).ownNotice port .down)).loseRequests
      | .shed =>
        let (d, s) := (s.modPort port (fun q => { q with train := true })).drawIn 1 (s.nsTicks 1500)
        s.post (s.now + d) (.retrainComplete port)
      | .back => (s.modPort port (fun q => { q with half := false })).ownNotice port .back)
  | _ => .fault .notDue

/-- RETRAIN_COMPLETE (R297): the port runs at half rate, what was held leaves, and the notice follows. -/
def execRetrainComplete (s : State) : Host.Outcome State Fault Refusal :=
  match s.event with
  | some (.retrainComplete port) =>
    .next (((s.modPort port (fun q => { q with train := false, half := true })).releasePort port).ownNotice port .shed)
  | _ => .fault .notDue

/-- FLOW_CONTROL_SIGNAL (R297): stop holds flits back, go lets them leave. -/
def execFlowControlSignal (s : State) : Host.Outcome State Fault Refusal :=
  match s.event with
  | some (.flowControlSignal port stopped) =>
    .next ((s.modPort port (fun q => { q with stopped := stopped })).releasePort port)
  | _ => .fault .notDue

/-- PORT_TRAINING_COMPLETE (R290): the port carries traffic. -/
def execPortTrainingComplete (s : State) : Host.Outcome State Fault Refusal :=
  match s.event with
  | some (.portTrainingComplete port) =>
    .next ((s.modPort port (fun q => { q with up := true, train := false })).releasePort port)
  | _ => .fault .notDue

end Sys2Proof.Machine
end

