-- ==== Sys2Proof/Machine/Reset.lean ====
section
/-! DEFINITION. Function-level resets, scrubs, power-on and soft errors (R178, R272, R286, R299, R307 to R309). -/

namespace Sys2Proof.Machine

/-! ## What belongs to a partition -/

/-- A core of a partition. -/
def State.hasCore (s : State) (part k : Nat) : Bool := s.partOf k == part
/-- A column of a partition. -/
def State.hasCol (s : State) (part c : Nat) : Bool := partOfQuad s.dev.mode (c / 16) == part

/-- The core, or the column, whose part of the machine a step acts in; far steps check the epoch themselves. -/
def Event.site : Event → Option (Nat ⊕ Nat)
  | .phaseEnd k | .gangBarrierTimeout k | .sliceOpStart k | .sliceOpComplete k | .mwldComplete k | .mmasComplete k
  | .verticalOpStart k | .verticalOpEnd k | .rstrMerge k | .expansionOpStart k | .expansionOpEnd k | .sleepExpiry k _
  | .twaitExpiry k _ | .scAnnounce k _ _ | .fireArrival k _ _ | .fstatResult k _ _ _ | .messageArrival k _ _ _ _ _ _
  | .mgetPortRead k _ _ _ _ _ _ _ | .mgetReply k _ _ _ _ | .msgbPortWrite k _ _ _ _ _ _ _ | .ldxReply k _ _ _ _ _
  | .engineMessageArrival k _ _ _ | .clusterAtomicReply k _ _ _ _ | .objectReply k _ _ _ _ _ => some (.inl k)
  | .atomicSlot r => some (.inl (r.home.getD r.core))
  | .deviceAtomicReply r => some (.inl r.core)
  | .engineCommandStart c _ | .engineUnit c _ | .engineStampWrite c _ | .staticEntryStart c | .installComplete c _
  | .collComplete c _ _ _ | .translationWalk _ c _ | .faultRecordDrain _ c | .thermDelivery _ c _ => some (.inr c)
  | .rvRootForward l _ _ _ _ | .eventChainForward l _ _ => some (.inr (lineColumn l))
  | _ => none

/-- The task for which a step of the gaffer reads or writes: its request carries the partition's tag (R271). -/
def Event.forTask : Event → Option Nat
  | .nodeSuccessor t _ _ | .nodeCond t _ _ | .nodeSwitch t _ _ | .nodeLoop t _ _ | .nodeSignal t _ _ | .nodeWait t _ _ _
  | .nodeCopy t _ _ | .nodeInstall t _ _ | .nodeKernel t _ _ => some t
  | _ => none

/-- Steps of a partition taken off the agenda; those of the gaffer's requests carry its tag, and their responses are dropped
(R271). -/
def State.dropSteps (s : State) (part : Nat) : State :=
  { s with agenda := s.agenda.filter (fun e => match Event.site e.ev with
      | some (.inl k) => !s.hasCore part k
      | some (.inr c) => !s.hasCol part c
      | none => (match e.ev with
        | .taskStart p => p != part
        | ev => match (Event.forTask ev).bind s.task with
          | some t => t.part != part
          | none => true)) }

/-- The partition's requests of the epoch that ends: those to peers are abandoned, its steps are dropped, and the epoch advances
(R271, R272). -/
def State.nextEpoch (s : State) (part : Nat) : State :=
  let s := s.modFabric (fun b => { b with
    reqs := b.reqs.filter (fun r => r.part != part)
    answers := b.answers.filter (fun a => !b.reqs.any (fun r => r.part == part && r.ev == a.ev)) })
  (s.dropSteps part).modPart part (fun p => { p with epoch := p.epoch + 1 })

/-! ## Scrubbing and translation (R272, steps 4 and 5) -/

/-- Step 4: cores, event lines and fault buffers of a partition at their reset values; instruction stores are no part of it. -/
def State.scrub (s : State) (part : Nat) : State :=
  let s := { s with
    units := s.units.filter (fun o => !s.hasCore part o.who.1)
    sc := s.sc.filter (fun o => !s.hasCore part o.who.1) }
  let s := s.cores.foldl (fun s e =>
    if s.hasCore part e.1 then
      s.setCore e.1 { Core.reset with store := e.2.store, ctl := { Ctl.reset with issueAt := s.now } }
    else s) s
  { s with
    lines := s.lines.filter (fun e => !s.hasCol part (lineColumn e.1))
    bufs := s.bufs.filter (fun e => !s.hasCol part (e.1 % 64)) }

/-- Step 5: translation, bindings, group tables and FQCTL of a partition at their reset values. -/
def State.resetTranslation (s : State) (part : Nat) : State :=
  let s := s.modPart part (fun p => { p with
    ranges := [], ptroot := 0, groups := [], fq := { p.fq with en := false, log2n := 8, base := 0 } })
  s.cols.foldl (fun s e => s.modCol e.1 (fun c => { c with
    rangeC := c.rangeC.filter (fun x => x.part != part), pageC := c.pageC.filter (fun x => x.part != part) })) s

/-! ## The reset of a partition (R272) -/

/-- Running installs of a partition stop at once, complete no more and leave their extents invalid; those that wait leave theirs as
they are (R193, R272). -/
def State.stopInstalls (s : State) (part : Nat) : State :=
  let mine (s : State) (x : Nat × Nat) : Bool := match (s.col x.1).slot x.2 with
    | some sl => sl.part == part
    | none => false
  s.dev.flash.foldl (fun s e =>
    let x := s.dev.extent e.1
    let headMine := (x.queue.head?.map (mine s)).getD false
    let written := headMine && x.running && (match x.queue.head? with
      | some (c, i) => ((s.col c).slot i).any (fun sl => sl.off == 1)
      | none => false)
    let rest := x.queue.filter (fun y => !mine s y)
    let s := match x.queue.head? with
      | some (c, i) => if headMine && x.running then (s.cancel (.installComplete c i)).setSlot c i none else s
      | none => s
    let s := s.modExtent e.1 (fun x => { x with
      queue := rest, running := x.running && !headMine, state := if written then 2 else x.state })
    if headMine then s.startInstall e.1 else s) s

/-- Step 2: groups and contexts stop, tasks end with RESET, and installs stop. -/
def State.stopPartition (s : State) (part : Nat) : State :=
  let s := s.cores.foldl (fun s e =>
    if s.hasCore part e.1 then s.modCore e.1 (fun c =>
      let c := [0, 1, 2, 3].foldl (fun c i => c.haltCtx i s.now) c
      { c with ctl := { c.ctl with
        phase := none, handling := none, waiting := [], kept := none, kernel := none, fifo := [], head := none } })
    else s) s
  let s := s.gaf.kernels.foldl (fun s e => match e.2 with
    | some kn => if kn.part = part then s.setKernel e.1 none else s
    | none => s) s
  let s := s.gaf.tasks.foldl (fun s e => match e.2 with
    | some t =>
      if t.part ≠ part then s
      else
        let s := s.setTask e.1 none
        if s.refOk part t.stamp then
          (match s.writeRef (.task e.1) part t.stamp (t.seq.toNat + 0x020B * 2 ^ 48) (.taskStampWrite e.1) with | (_, s) => s)
        else s
    | none => s) s
  s.stopInstalls part

/-- A reset requested for a partition: one that is under way is joined; otherwise step 1 begins: the queues are disabled, and
no task starts (R272). -/
def State.startReset (s : State) (part : Nat) : State :=
  if (s.part part).flrStep ≠ 0 then s
  else
    let s := s.modPart part (fun p => { p with
      flrStep := 1
      queues := (List.range 64).foldl (fun m i =>
        let q := sget .reset m i
        sset .reset m i { q with en := false, qstop := false }) p.queues })
    let (d, s) := s.drawIn 1 (s.nsTicks 1000)
    s.post (s.now + d) (.flrDrainDone part)

/-- Requests on the device that a partition has under way complete in step 3 (R272, R308): stores of contexts and of objects,
device atomics and engine stamps of the present epoch. -/
def State.drain (s : State) (part : Nat) : State :=
  let mine (k epoch : Nat) : Bool := s.hasCore part k && epoch == (s.part part).epoch.toNat
  let perform (s : State) (e : Due) (i : State → Host.Outcome State Fault Refusal) : State :=
    match i { s with event := some e.ev } with
    | .next t => { t with event := s.event }
    | _ => s
  s.agenda.foldl (fun s e => match e.ev with
    | .stxComplete k _ _ va data epoch =>
      if mine k epoch.toNat then
        (match s.farWrite part (columnOf k) va.toNat (lineBytes data) 0 e.ev with
          | (.ok (), s) => s
          | (_, _) => s)
      else s
    | .deviceAtomicReply r => if s.hasCore part r.core then perform s e execDeviceAtomicReply else s
    | .objectReply k _ _ _ _ _ => if s.hasCore part k then perform s e execObjectReply else s
    | .engineStampWrite c _ => if s.hasCol part c then perform s e execEngineStampWrite else s
    | _ => s) s

/-- INITIATE_FLR (R272, R309): of a virtual function whose binding is in force, or of the physical function; a function
without a binding is done at once. -/
def execInitiateFlr (s : State) : Host.Outcome State Fault Refusal :=
  match s.event with
  | some (.initiateFlr vf) =>
    .next (
      let setFunc (s : State) (v : Nat) (f : Func → Func) : State :=
        s.modDev (fun d => { d with funcs := sset .reset d.funcs v (f (sget .reset d.funcs v)) })
      match vf with
      | some v =>
        let f := sget .reset s.dev.funcs v
        if !f.en then setFunc s v (fun f => { f with flrst := ⟨6, true, 0⟩ })
        else (setFunc s v (fun f => { f with joined := some f.part })).startReset f.part.toNat
      | none =>
        let s := (List.range 16).foldl (fun s v => setFunc s v (fun f => { f with joined := some f.part })) s
        (List.range 4).foldl (fun s p => s.startReset p) s)
  | _ => .fault .notDue

/-- FLR_DRAIN_DONE (R272, R308): a step of the reset ends. Behind step 1 the partition stops; behind step 2 it drains; at the
end of step 3 requests on the device and writes held for the host are performed, requests to peers are abandoned, the epoch
advances, and the scrub runs. -/
def execFlrDrainDone (s : State) : Host.Outcome State Fault Refusal :=
  match s.event with
  | some (.flrDrainDone part) =>
    .next (
      if (s.part part).flrStep = 1 then
        let s := (s.modPart part (fun p => { p with flrStep := 2 })).stopPartition part
        let (d, s) := s.drawIn 1 (s.nsTicks 9000)
        s.post (s.now + d) (.flrDrainDone part)
      else if (s.part part).flrStep = 2 then
        let s := s.modPart part (fun p => { p with flrStep := 3 })
        let (d, s) := s.drawIn 1 (s.nsTicks 990000)
        s.post (s.now + d) (.flrDrainDone part)
      else
      let s := ((s.drain part).nextEpoch part).modPart part (fun p => { p with flrStep := 4 })
      let s := s.cols.foldl (fun s e => if s.hasCol part e.1 then
        s.modCol e.1 (fun c => { c with slots := [], scnt := 0, sched := [] }) else s) s
      let s := s.scrub part
      let (d, s) := s.drawIn 1 (s.nsTicks 2000000)
      s.post (s.now + d) (.flrComplete part))
  | _ => .fault .notDue

/-- FLR_COMPLETE (R272, R309): behind the scrub, step 5 resets translation; then step 6: every function whose reset joined
reports it done. -/
def execFlrComplete (s : State) : Host.Outcome State Fault Refusal :=
  match s.event with
  | some (.flrComplete part) =>
    .next (
      if (s.part part).flrStep = 4 then
        let s := (s.modPart part (fun p => { p with flrStep := 5 })).resetTranslation part
        let (d, s) := s.drawIn 1 (s.nsTicks 2000000)
        s.post (s.now + d) (.flrComplete part)
      else
      let s := s.modPart part (fun p => { p with flrStep := 0 })
      let e := (s.part part).epoch
      let report (m : Sparse Func) (v : Nat) : Sparse Func :=
        let f := sget .reset m v
        if f.joined.map BitVec.toNat = some part then
          sset .reset m v { f with joined := none, flrst := ⟨6, true, if f.en then e else 0⟩ }
        else m
      s.modDev (fun d => { d with funcs := (List.range 16).foldl report d.funcs }))
  | _ => .fault .notDue

/-! ## PARTCFG (R286) -/

/-- PARTCFG: a change of MODE needs every queue of the device disabled; every partition then passes through steps 4 and 5
and every epoch advances. -/
def State.writePartcfg (s : State) (v : DWord) : State :=
  let m : BitVec 2 := v.setWidth 2
  let s := s.modDev (fun d => { d with err := d.err && !v.getLsbD 3 })
  let busy := (List.range 4).any (fun p => (s.part p).queues.any (fun q => q.2.en))
  if m = s.dev.mode then s
  else if m = 3 ∨ busy ∨ s.dev.busy then s.modDev (fun d => { d with err := true })
  else
    let s := (List.range 4).foldl (fun s p =>
      ((s.nextEpoch p).scrub p).resetTranslation p) s
    let s := s.modDev (fun d => { d with mode := m, busy := true })
    let (d, s) := s.draw 1
    s.post (s.now + d) .partcfgChangeComplete
/-- PARTCFG_WRITE (R286). -/
def execPartcfgWrite (s : State) : Host.Outcome State Fault Refusal :=
  match s.event with
  | some (.partcfgWrite v) => .next (s.hostWrite (fun s => s.writePartcfg v))
  | _ => .fault .notDue
/-- PARTCFG_CHANGE_COMPLETE (R286). -/
def execPartcfgChangeComplete (s : State) : Host.Outcome State Fault Refusal :=
  match s.event with
  | some .partcfgChangeComplete => .next (s.modDev (fun d => { d with busy := false }))
  | _ => .fault .notDue

/-- VFBIND (R286, R308): not while Bus Master Enable is set, nor during a reset of the partition it is bound to. -/
def State.writeVfbind (s : State) (vf : Nat) (v : DWord) : State :=
  let f := sget .reset s.dev.funcs vf
  if f.en ∧ (s.part f.part.toNat).flrStep ≠ 0 then s
  else if f.bme then s.modDev (fun d => { d with err := true })
  else s.modDev (fun d => { d with funcs := sset .reset d.funcs vf { f with part := v.setWidth 2, en := v.getLsbD 2 } })
/-- VFBIND_WRITE (R286). -/
def execVfbindWrite (s : State) : Host.Outcome State Fault Refusal :=
  match s.event with
  | some (.vfbindWrite vf v) => .next (s.hostWrite (fun s => s.writeVfbind (vf % 16) v))
  | _ => .fault .notDue

/-! ## Power-on (R299) -/

/-- POWER_ON (R191, R299; 20, "Bring-up"): firmware whose signatures verify and whose version is not below the fused minimum
runs and sets the staging reservation; otherwise the device stays in recovery. Flash keeps its contents, HBM does not. -/
def execPowerOn (s : State) : Host.Outcome State Fault Refusal :=
  match s.event with
  | some (.powerOn fw) =>
    .next (
      let r := State.reset
      let inFlash (a : Nat) : Bool := decide (Config.flashBase ≤ a ∧ a < Config.flashEnd)
      { r with
        fresh := s.fresh, cmdNum := s.cmdNum
        dev := { r.dev with
          booted := fw.rsaOk && fw.slhOk && fw.versionOk, fw := fw.digest, staging := 16 * (fw.staging.toNat + 1), flash := s.dev.flash, lanes := s.dev.lanes
          far := s.dev.far.filter (fun e => inFlash e.1), farBad := s.dev.farBad.filter (fun e => inFlash (4 * e.1)) }
        gaf := { r.gaf with images := s.gaf.images.filter (fun e => inFlash e.1) } })
  | _ => .fault .notDue

/-! ## Soft errors (R136, R178, R423) -/

/-- Number of bits set. -/
def flipped (w : Word) : Nat := ((List.range 32).filter (fun i => w.getLsbD i)).length

/-- SOFT_ERROR (R136, R178, R423): one flipped bit of a near word stays until it is corrected and counted when the word is read;
a second, or more at once, make a word uncorrectable, or mark a line of the weight buffer. An instruction store keeps the flipped bits for the signature to find; an adder's
flips strike the step whose column was read last (log 42). -/
def execSoftError (s : State) : Host.Outcome State Fault Refusal :=
  match s.event with
  | some (.softError target bits) =>
    .next (
      let n := flipped bits
      if n = 0 then s
      else match target with
      | .near k a =>
        s.modCore k (fun c =>
          let old := sget 0 c.poison (a / 4)
          { c with poison := sset 0 c.poison (a / 4) (if old = 0 ∧ n = 1 then 2 else if old = 3 then 3 else 1) })
      | .store k i => s.modCore k (fun c =>
          let w := sget (0, false) c.store i
          { c with store := sset (0, false) c.store i (w.1 ^^^ bits, w.2) })
      | .far pa =>
        if n = 1 then s else s.modDev (fun d => { d with farBad := sset false d.farBad (pa / 4) true })
      | .buffer k l =>
        if n = 1 then s.modCol (columnOf k) (fun c => { c with corrected := c.corrected + 1 })
        else s.modSlice k (fun x => { x with wpois := if x.wpois.contains l then x.wpois else x.wpois ++ [l] })
      | .adder k row col => s.modSlice k (fun x => x.modHead (fun o =>
          { o with slips := o.slips ++ [⟨row, col, o.cols.length - 1, bits.toNat⟩] })))
  | _ => .fault .notDue

end Sys2Proof.Machine
end

