-- ==== Sys2Proof/Machine/HostRegs.lean ====
section
/-! DEFINITION. The management window: queues, rings, translation, attestation, and every register by its offset (R183,
R184, R185, R238, R257, R272, R276, R278, R285 to R300, R309). -/

namespace Sys2Proof.Machine

/-! ## Queues (R238) -/

/-- QCTL: while EN is 1 only a write that clears it has effect; setting EN with a bad LOG2N stops the queue. -/
def State.writeQctl (s : State) (part i : Nat) (v : DWord) : State :=
  let q := (s.part part).queue i
  let en := v.getLsbD 0
  let n := nbits v.toNat 12 8
  if q.en ∧ en then s
  else
    let s := s.modPart part (fun p => { p with queues := sset .reset p.queues i { q with
      en := en, prio := BitVec.ofNat 3 (nbits v.toNat 3 1), log2n := BitVec.ofNat 5 n
      qstop := en && !(decide (4 ≤ n ∧ n ≤ 16)) } })
    s.post s.now (.taskStart part)

/-- QPTR: TAIL and QBASE; an entry that becomes the head begins to age (R241). -/
def State.writeQptr (s : State) (part i : Nat) (v : DWord) : State :=
  let q := (s.part part).queue i
  let q' := { q with tail := BitVec.ofNat 16 (nbits v.toNat 15 0), qbase := BitVec.ofNat 32 (nbits v.toNat 63 32) }
  let empty (q : Queue) : Bool := q.tail.toNat % q.size == q.head.toNat % q.size
  let s := s.modPart part (fun p => { p with
    queues := sset .reset p.queues i (if empty q && !empty q' then { q' with headAt := s.time } else q') })
  s.post s.now (.taskStart part)

/-- QCTL_WRITE (R238). -/
def execQctlWrite (s : State) : Host.Outcome State Fault Refusal :=
  match s.event with
  | some (.qctlWrite part i v) => .next (s.partWrite part (fun s => s.writeQctl part (i % 64) v))
  | _ => .fault .notDue
/-- QPTR_WRITE (R238). -/
def execQptrWrite (s : State) : Host.Outcome State Fault Refusal :=
  match s.event with
  | some (.qptrWrite part i v) => .next (s.partWrite part (fun s => s.writeQptr part (i % 64) v))
  | _ => .fault .notDue

/-! ## Fault and notice rings (R257, R287) -/

/-- FQCTL or NTCTL: a bad LOG2N leaves EN at 0. -/
def Ring.write (r : Ring) (v : DWord) : Ring :=
  let n := nbits v.toNat 5 1
  { r with en := v.getLsbD 0 && decide (8 ≤ n ∧ n ≤ 20), log2n := BitVec.ofNat 5 n, base := BitVec.ofNat 45 (nbits v.toNat 56 12) }
/-- FQPTR or NTPTR: HEAD, and DROPS cleared where 1 is written. -/
def Ring.writePtr (r : Ring) (v : DWord) : Ring :=
  { r with head := BitVec.ofNat 20 (nbits v.toNat 39 20), drops := r.drops &&& ~~~(BitVec.ofNat 24 (nbits v.toNat 63 40)) }

/-- FQCTL (R257): records that wait in the cluster buffers drain once the ring is in use. -/
def State.writeFqctl (s : State) (part : Nat) (v : DWord) : State :=
  let s := s.modPart part (fun p => { p with fq := p.fq.write v })
  if !(s.part part).fq.en then s
  else s.bufs.foldl (fun s b =>
    if s.hasCol part (b.1 % 64) ∧ !b.2.isEmpty then
      let (d, s) := s.draw 0
      s.post (s.now + d) (.faultRecordDrain (b.1 / 64) (b.1 % 64))
    else s) s
/-- FQCTL_WRITE (R257). -/
def execFqctlWrite (s : State) : Host.Outcome State Fault Refusal :=
  match s.event with
  | some (.fqctlWrite part v) => .next (s.partWrite part (fun s => s.writeFqctl part v))
  | _ => .fault .notDue

/-! ## TINV (R185) -/

/-- TINV: an invalidation starts, unless one runs. -/
def State.writeTinv (s : State) (part : Nat) : State :=
  if (s.part part).tinv then s
  else
    let (d, s) := (s.modPart part (fun p => { p with tinv := true })).draw 1
    s.post (s.now + d) (.tinvComplete part)
/-- TINV (R185). -/
def execTinv (s : State) : Host.Outcome State Fault Refusal :=
  match s.event with
  | some (.tinv part) => .next (s.partWrite part (fun s => s.writeTinv part))
  | _ => .fault .notDue
/-- TINV_COMPLETE (R185): no translation uses a removed entry any more. -/
def execTinvComplete (s : State) : Host.Outcome State Fault Refusal :=
  match s.event with
  | some (.tinvComplete part) =>
    .next (
      let s := s.modPart part (fun p => { p with tinv := false })
      s.cols.foldl (fun s e => s.modCol e.1 (fun c => { c with
        rangeC := c.rangeC.filter (fun x => x.part != part), pageC := c.pageC.filter (fun x => x.part != part) })) s)
  | _ => .fault .notDue

/-! ## Attestation (R300) -/

/-- Bytes 0x000 to 0x37F of the report. -/
def State.reportHead (s : State) (part : Nat) : List Byte :=
  let p := s.part part
  (List.range 4).flatMap (fun i => leBytes 8 (sget 0 p.attest.nonce i).toNat)
    ++ leBytes 48 s.dev.fw.toNat ++ leBytes 4 Config.firmwareVersion.toNat
    ++ leBytes 4 (part + s.dev.mode.toNat * 4) ++ leBytes 8 Config.deviceSerial.toNat
    ++ (List.range 16).flatMap (fun i => leBytes 48 (p.launches.getD i 0).toNat)
    ++ leBytes 4 p.launches.length ++ leBytes 28 0

/-- ATTEST_REQUEST: a write of 1 to mailbox offset 0x28; ignored while busy; an address that is not 64-byte aligned is
refused. The mailbox is all that a device in recovery exposes (R299). -/
def State.writeAttest (s : State) (part : Nat) : State :=
  let a := (s.part part).attest
  if a.busy then s
  else if a.addr.toNat % 64 ≠ 0 then s.modPart part (fun p => { p with attest := { a with state := 3 } })
  else
    let s := s.modPart part (fun p => { p with attest := { a with busy := true, state := 1 } })
    let (d, s) := s.drawIn 1 (s.nsTicks 99000000)
    s.post (s.now + d) (.attestComplete part)
/-- ATTEST_REQUEST (R300). -/
def execAttestRequest (s : State) : Host.Outcome State Fault Refusal :=
  match s.event with
  | some (.attestRequest part) => .next (if (s.part part).flrStep ≠ 0 then s else s.writeAttest part)
  | _ => .fault .notDue
/-- ATTEST_COMPLETE (R300): the report goes to host memory; its signatures' bytes are the security controller's. -/
def execAttestComplete (s : State) : Host.Outcome State Fault Refusal :=
  match s.event with
  | some (.attestComplete part) =>
    .next (
      let (n, s) := s.number
      let sig := (List.range 16608).map (fun i => Config.freeSignatureByte n i)
      let s := s.writePhys (Config.hostBase + (s.part part).attest.addr.toNat) (s.reportHead part ++ sig)
      s.modPart part (fun p => { p with attest := { p.attest with busy := false, state := 2 } }))
  | _ => .fault .notDue

/-! ## The window (R287) -/

/-- RTCTL (R291): MYID and SWAP; with MYID written the ports train (20, "Bring-up"). -/
def State.writeRtctl (s : State) (v : DWord) : State :=
  let s := s.modFabric (fun b => { b with myid := BitVec.ofNat 13 (nbits v.toNat 28 16) })
  let s := (List.range 16).foldl (fun s p =>
    if (s.port p).up || (s.port p).train then s
    else
      let (d, s) := (s.modPort p (fun q => { q with train := true })).draw 1
      s.post (s.now + d) (.portTrainingComplete p)) s
  if v.getLsbD 1 then s.writeSwap else s

/-- ECLASS of a tier (R276). -/
def State.writeEclass (s : State) (t : Nat) (v : DWord) : State :=
  s.modBudget (fun s => s.modPower (fun p => { p with eclass := match t with
    | 0 => (v, p.eclass.2)
    | 1 => (p.eclass.1, v, p.eclass.2.2)
    | 2 => (p.eclass.1, p.eclass.2.1, v, p.eclass.2.2.2)
    | _ => (p.eclass.1, p.eclass.2.1, p.eclass.2.2.1, v) }))

/-- FLRST (R309): DONE is cleared by writing 1. -/
def State.writeFlrst (s : State) (vf : Nat) (v : DWord) : State :=
  s.modDev (fun d => { d with funcs := sset .reset d.funcs vf (let f := sget .reset d.funcs vf
    if v.getLsbD 3 then { f with flrst := { f.flrst with done := false } } else f) })

/-- The bits of a range entry's word that are not reserved (R183). -/
def rangeMask (i : Nat) : DWord :=
  match i % 4 with
  | 2 => 0x000FFFFFFFFFFFFF
  | 3 => 7
  | _ => 0x01FFFFFFFFFFFFFF
/-- The bits of a firewall entry's word that are not reserved (R288). -/
def firewallMask (i : Nat) : DWord := if i % 2 = 0 then 0x000FFFFFFFFFF007 else 0x000FFFFFFFFFF000
/-- The bits of four group-table entries that are not reserved (R298). -/
def groupMask : DWord := 0x9FFF9FFF9FFF9FFF

/-- A write at an offset of a partition's region (R287). -/
def State.writeRegion (s : State) (part off : Nat) (v : DWord) : State :=
  let at_ (lo hi : Nat) : Bool := decide (lo ≤ off ∧ off < hi)
  if at_ 0x4000 0x4020 then
    s.modPart part (fun p => { p with attest := { p.attest with nonce := sset 0 p.attest.nonce ((off - 0x4000) / 8) v } })
  else if off = 0x4020 then s.modPart part (fun p => { p with attest := { p.attest with addr := v } })
  else if off = 0x4028 then (if v = 1 then s.writeAttest part else s)
  else if !s.dev.booted then s
  else if at_ 0 0x400 then (if off % 16 = 0 then s.writeQctl part (off / 16) v else s.writeQptr part (off / 16) v)
  else if at_ 0x1000 0x1800 then
    (let i := (off - 0x1000) / 8
     s.modPart part (fun p => { p with ranges := sset 0 p.ranges i (v &&& rangeMask i) }))
  else if off = 0x1800 then s.modPart part (fun p => { p with ptroot := BitVec.ofNat 64 (nbits v.toNat 51 21 * 2 ^ 21) })
  else if off = 0x1808 then (if v.getLsbD 0 then s.writeTinv part else s)
  else if off = 0x1810 then s.writeFqctl part v
  else if off = 0x1818 then s.modPart part (fun p => { p with fq := p.fq.writePtr v })
  else if off = 0x1820 then s.writePfloor part v
  else if off = 0x1828 then s.modPart part (fun p => { p with pgctl := v.setWidth 3 })
  else if off = 0x1830 then s.writeIbudget part v
  else if off = 0x1840 then s.modPart part (fun p => { p with nt := p.nt.write v })
  else if off = 0x1848 then s.modPart part (fun p => { p with nt := p.nt.writePtr v })
  else if at_ 0x2000 0x2800 then s.modPart part (fun p => { p with groups := sset 0 p.groups ((off - 0x2000) / 8) (v &&& groupMask) })
  else if at_ 0x2800 0x2A00 then
    s.modPart part (fun p => { p with peers := sset 0 p.peers ((off - 0x2800) / 8) (BitVec.ofNat 64 (nbits v.toNat 29 0)) })
  else if at_ 0x3000 0x3400 then
    (let c := (off - 0x3000) / 16
     if off % 16 = 0 ∧ v.getLsbD 24 ∧ s.hasCol part c then s.modCol c (fun x => { x with chg := false }) else s)
  else s

/-- Two routing entries at an offset of a bank. -/
def State.writeRoutes (s : State) (bank : Bool) (off : Nat) (v : DWord) : State :=
  (s.writeRoute bank (off / 4) (v.setWidth 32)).writeRoute bank (off / 4 + 1) (v.extractLsb' 32 32)

/-- A write at an offset of the window; an unassigned offset ignores it (R285, R287). -/
def State.writeWindow (s : State) (off : Nat) (v : DWord) : State :=
  let at_ (lo hi : Nat) : Bool := decide (lo ≤ off ∧ off < hi)
  if off % 8 ≠ 0 then s
  else if at_ 0x1000000 0x5000000 then
    (let part := off / 0x1000000 - 1
     if (s.part part).flrStep ≠ 0 then s else s.writeRegion part (off % 0x1000000) v)
  else if !s.dev.booted then s
  else if off = 0 then s.writePartcfg v
  else if at_ 0x8 0x88 then s.writeVfbind (off / 8 - 1) v
  else if off = 0x100 then
    (let s := s.writeBeatctl v
     if v.getLsbD 25 then s.restoreCeil else s)
  else if off = 0x108 then s.writeTctl v
  else if off = 0x110 then s.writePcap v
  else if off = 0x118 then s.writeHlim v
  else if at_ 0x120 0x140 then s.writeEclass ((off - 0x120) / 8) v
  else if at_ 0x200 0x280 then s.writeFlrst ((off - 0x200) / 8) v
  else if at_ 0x1000 0x1400 then
    (let i := off % 0x100 / 8
     s.modPart ((off - 0x1000) / 0x100) (fun p => { p with firewall := sset 0 p.firewall i (v &&& firewallMask i) }))
  else if at_ 0x100000 0x108000 then s.writeRoutes false (off - 0x100000) v
  else if at_ 0x108000 0x110000 then s.writeRoutes true (off - 0x108000) v
  else if off = 0x110000 then s.writeRtctl v
  else if at_ 0x110100 0x110300 then
    s.modFabric (fun b => { b with keys := sset 0 b.keys ((off - 0x110100) / 8) (BitVec.ofNat 64 (nbits v.toNat 18 0)) })
  else if at_ 0x111000 0x111080 then (if v.getLsbD 63 then s.clearPstat ((off - 0x111000) / 8) else s)
  else s

/-- Where an offset of a virtual function's BAR0 lies in the window: in the region of its bound partition, at most 16 MiB; an
unbound function has none (R285). -/
def State.barOffset (s : State) (vf off : Nat) : Option Nat :=
  let f := sget .reset s.dev.funcs vf
  if f.en ∧ off < 0x1000000 then some (0x1000000 * (f.part.toNat + 1) + off) else none

/-- A write at an offset of BAR0 of a virtual function, or of the physical function: anything but an aligned write of 8 bytes
is an unsupported request and has no effect (R285). -/
def State.writeBar (s : State) (vf : Option Nat) (off size : Nat) (v : DWord) : State :=
  if size ≠ 8 then s
  else match vf with
  | none => s.writeWindow off v
  | some f => (s.barOffset (f % 16) off).elim s (fun o => s.writeWindow o v)

/-- MGMT_REGISTER_WRITE (R285, R287). -/
def execMgmtRegisterWrite (s : State) : Host.Outcome State Fault Refusal :=
  match s.event with
  | some (.mgmtRegisterWrite vf off size v) => .next (s.writeBar vf off size v)
  | _ => .fault .notDue

/-! ## What the window reads -/

/-- Fields side by side: width and value, the lowest first. -/
def regWord : List (Nat × Nat) → Nat
  | [] => 0
  | (w, v) :: r => v % 2 ^ w + 2 ^ w * regWord r

/-- 1 for true. -/
def b1 (b : Bool) : Nat := if b then 1 else 0

/-- QCTL (R238). -/
def State.readQctl (s : State) (part i : Nat) : Nat :=
  let q := (s.part part).queue i
  regWord [(1, b1 q.en), (3, q.prio.toNat), (1, b1 q.qstop), (1, b1 (s.queueBusy part i)), (2, 0), (5, q.log2n.toNat)]
/-- QPTR (R238). -/
def State.readQptr (s : State) (part i : Nat) : Nat :=
  let q := (s.part part).queue i
  regWord [(16, q.tail.toNat), (16, q.head.toNat), (32, q.qbase.toNat)]
/-- BEATCTL (R273). -/
def Power.readBeatctl (p : Power) : Nat :=
  regWord [(8, p.req), (8, p.cur), (7, p.ceil), (1, b1 p.busy), (1, b1 p.err), (7, 0), (4, p.step)]
/-- TCTL (R282). -/
def Power.readTctl (p : Power) : Nat := regWord [(8, p.tlim.toNat), (8, p.tmax.toNat), (8, 110)]
/-- PCAP (R283). -/
def Power.readPcap (p : Power) : Nat :=
  regWord [(12, p.cap.toNat), (1, b1 p.fscale), (3, 0), (12, p.eff.toNat), (2, p.stat.toNat), (1, b1 p.scaled)]
/-- PFLOOR (R283). -/
def Part.readPfloor (p : Part) : Nat := regWord [(12, p.floor.toNat), (12, p.efff.toNat)]
/-- FQCTL or NTCTL (R257). -/
def Ring.readCtl (r : Ring) : Nat := regWord [(1, b1 r.en), (5, r.log2n.toNat), (6, 0), (45, r.base.toNat)]
/-- FQPTR or NTPTR (R257). -/
def Ring.readPtr (r : Ring) : Nat := regWord [(20, r.tail.toNat), (20, r.head.toNat), (24, r.drops.toNat)]
/-- PSTAT (R290). -/
def Port.readPstat (p : Port) : Nat :=
  regWord [(1, b1 p.up), (1, b1 p.half), (1, b1 p.train), (5, 0), (16, p.keydrop.toNat), (16, p.routedrop.toNat),
    (16, p.crcdrop.toNat)]
/-- RTCTL (R291). -/
def Fabric.readRtctl (f : Fabric) : Nat := regWord [(1, b1 f.act), (1, 0), (1, b1 f.pend), (13, 0), (13, f.myid.toNat)]
/-- FLRST (R309): the step of a reset under way, else what the last one left. -/
def State.readFlrst (s : State) (vf : Nat) : Nat :=
  let f := sget .reset s.dev.funcs vf
  let step := match f.joined with
    | some p => (s.part p.toNat).flrStep
    | none => f.flrst.step.toNat
  let epoch := if f.en then (s.part f.part.toNat).epoch.toNat else 0
  regWord [(3, step), (1, b1 f.flrst.done), (4, epoch)]

/-- Lanes between a tier of a column and the next. -/
def Dev.lanesOf (d : Dev) (col t : Nat) : List LaneState := (clusterCores col t).map (fun k => sget .full d.lanes k)
/-- The worst state of some lanes. -/
def worstLane (l : List LaneState) : Nat := if l.contains .dead then 2 else if l.contains .half then 1 else 0
/-- LANESTATE of a column (R139). -/
def State.readLanes (s : State) (col : Nat) : Nat :=
  let l (t : Nat) : List LaneState := s.dev.lanesOf col t
  let all := l 0 ++ l 1 ++ l 2
  regWord [(2, worstLane (l 0)), (2, worstLane (l 1)), (2, worstLane (l 2)), (9, (all.filter (fun x => x == .half)).length),
    (9, (all.filter (fun x => x == .dead)).length), (1, b1 (s.col col).chg)]

/-- A read at an offset of a partition's region (R287); zero for columns of other partitions and unassigned offsets. -/
def State.readRegion (s : State) (part off : Nat) : Nat :=
  let p := s.part part
  let at_ (lo hi : Nat) : Bool := decide (lo ≤ off ∧ off < hi)
  if at_ 0 0x400 then (if off % 16 = 0 then s.readQctl part (off / 16) else s.readQptr part (off / 16))
  else if at_ 0x1000 0x1800 then (sget 0 p.ranges ((off - 0x1000) / 8)).toNat
  else if off = 0x1800 then p.ptroot.toNat
  else if off = 0x1808 then b1 p.tinv
  else if off = 0x1810 then p.fq.readCtl
  else if off = 0x1818 then p.fq.readPtr
  else if off = 0x1820 then p.readPfloor
  else if off = 0x1828 then p.pgctl.toNat
  else if off = 0x1830 then p.ibudget.toNat
  else if off = 0x1840 then p.nt.readCtl
  else if off = 0x1848 then p.nt.readPtr
  else if at_ 0x2000 0x2800 then (sget 0 p.groups ((off - 0x2000) / 8)).toNat
  else if at_ 0x2800 0x2A00 then (sget 0 p.peers ((off - 0x2800) / 8)).toNat
  else if at_ 0x3000 0x3400 then
    (let c := (off - 0x3000) / 16
     if !s.hasCol part c then 0 else if off % 16 = 0 then s.readLanes c else (s.col c).corrected)
  else if at_ 0x4000 0x4020 then (sget 0 p.attest.nonce ((off - 0x4000) / 8)).toNat
  else if off = 0x4020 then p.attest.addr.toNat
  else if off = 0x4030 then p.attest.state.toNat
  else 0

/-- A read of the window; a read has no effect (R285, R287). -/
def State.readWindow (s : State) (off : Nat) : Nat :=
  let d := s.dev
  let at_ (lo hi : Nat) : Bool := decide (lo ≤ off ∧ off < hi)
  if off % 8 ≠ 0 then 0
  else if at_ 0x1000000 0x5000000 then
    (if d.booted || at_ 0x1004000 0x5004038 && decide (0x4000 ≤ off % 0x1000000 ∧ off % 0x1000000 < 0x4038) then
      s.readRegion (off / 0x1000000 - 1) (off % 0x1000000) else 0)
  else if !d.booted then 0
  else if off = 0 then regWord [(2, d.mode.toNat), (1, b1 d.busy), (1, b1 d.err)]
  else if at_ 0x8 0x88 then
    (let f := sget .reset d.funcs (off / 8 - 1)
     regWord [(2, f.part.toNat), (1, b1 f.en)])
  else if off = 0x100 then d.power.readBeatctl
  else if off = 0x108 then d.power.readTctl
  else if off = 0x110 then d.power.readPcap
  else if off = 0x118 then d.power.hlim.toNat
  else if off = 0x120 then d.power.eclass.1.toNat
  else if off = 0x128 then d.power.eclass.2.1.toNat
  else if off = 0x130 then d.power.eclass.2.2.1.toNat
  else if off = 0x138 then d.power.eclass.2.2.2.toNat
  else if off = 0x140 then s.time
  else if at_ 0x200 0x280 then s.readFlrst ((off - 0x200) / 8)
  else if at_ 0x1000 0x1400 then (sget 0 (s.part ((off - 0x1000) / 0x100)).firewall (off % 0x100 / 8)).toNat
  else if at_ 0x10000 0x12000 then (sget 0 d.power.sensors ((off - 0x10000) / 8)).toNat
  else if at_ 0x100000 0x110000 then
    (let e (i : Nat) : Nat := (d.fabric.route (decide (0x108000 ≤ off)) i).toNat
     let i := off % 0x8000 / 4
     e i + 2 ^ 32 * e (i + 1))
  else if off = 0x110000 then d.fabric.readRtctl
  else if at_ 0x110100 0x110300 then (sget 0 d.fabric.keys ((off - 0x110100) / 8)).toNat
  else if at_ 0x111000 0x111080 then (s.port ((off - 0x111000) / 8)).readPstat
  else 0

/-- A read of BAR0 of a virtual function, or of the physical function; none where it completes with Unsupported Request; an
unbound function reads zero (R285). -/
def State.readBar (s : State) (vf : Option Nat) (off size : Nat) : Option Nat :=
  if size ≠ 8 ∨ off % 8 ≠ 0 then none
  else match vf with
  | none => some (s.readWindow off)
  | some f => some ((s.barOffset (f % 16) off).elim 0 s.readWindow)

/-- The function whose requester ID the requests of a partition to host memory carry: the lowest-numbered virtual function
bound to it, or the physical function (R285). -/
def State.requester (s : State) (part : Nat) : Option Nat :=
  (List.range 16).find? (fun v => let f := sget .reset s.dev.funcs v; f.en && f.part.toNat == part)

end Sys2Proof.Machine
end

