-- ==== Sys2Proof/Machine/Memory.lean ====
section
/-! DEFINITION. Loads and stores of the local store and the own bank, and the tag table (R180, R181, R319 to R322, R347,
R382, R383, R396, R397). -/

namespace Sys2Proof.Machine

/-! ## Shared shapes -/

/-- A loaded number as a register value. -/
def extendTo (signed : Bool) (w v : Nat) : DWord := BitVec.ofInt 64 (intOf signed w v)

/-- Width in bits and signedness of a load type (R79). -/
def loadWidth : LoadTy → Nat × Bool
  | .i8 => (8, true)
  | .i16 => (16, true)
  | .i32 => (32, true)
  | .i64 => (64, true)
  | .n8 => (8, false)
  | .n16 => (16, false)
  | .n32 => (32, false)

/-- Width in bits of a store type (R79). -/
def storeWidth : StoreTy → Nat
  | .i8 => 8
  | .i16 => 16
  | .i32 => 32
  | .i64 => 64

/-- A scalar load from a window (R321, R347). -/
def loadOp (len : Nat) (h : Hdr) (win : Window) (ty : LoadTy) (d a : Reg) (off : Int) (s : State) :
    Host.Outcome State Fault Refusal :=
  let w := (loadWidth ty).1
  issue { len := len, hdr := h, rs := [a], rd := [d], bytes := bytesAt (eaOf s a off) (w / 8) }
    (fun s => do
      let ea ← checkNear s win false (eaOf s a off) (w / 8) (w / 8)
      let bs ← readNear s ea (w / 8)
      done s (win.latency s.tier) (toReg s d (extendTo (loadWidth ty).2 w (leNat bs)))) s

/-- A scalar store to a window (R321, R322, R382, R383): a store narrower than a word rewrites its word, one cycle
later, at occupancy 2. -/
def storeOp (len : Nat) (h : Hdr) (win : Window) (ty : StoreTy) (d a : Reg) (off : Int) (s : State) :
    Host.Outcome State Fault Refusal :=
  let w := storeWidth ty
  let sub := decide (w < 32)
  issue { len := len, hdr := h, rs := [a, d], stored := bytesAt (eaOf s a off) (w / 8), occ := if sub then 2 else 1 }
    (fun s => do
      let ea ← checkNear s win true (eaOf s a off) (w / 8) (w / 8)
      done s (win.latency s.tier + if sub then 1 else 0) [.store ea (leBytes (w / 8) (rv s d).toNat) sub]) s

/-- A whole-register load (R396). -/
def vloadOp (len : Nat) (h : Hdr) (win : Window) (d : VecReg) (a : Reg) (off : Int) (s : State) :
    Host.Outcome State Fault Refusal :=
  issue { len := len, hdr := h, rs := [a], bytes := bytesAt (eaOf s a off) 64 }
    (fun s => do
      let ea ← checkNear s win false (eaOf s a off) 64 4
      let bs ← readNear s ea 64
      done s (win.latency s.tier) [.vec d.toNat (bytesLine bs)]) s

/-- A whole-register store (R396). -/
def vstoreOp (len : Nat) (h : Hdr) (win : Window) (d : VecReg) (a : Reg) (off : Int) (s : State) :
    Host.Outcome State Fault Refusal :=
  issue { len := len, hdr := h, rs := [a], vs := [d], stored := bytesAt (eaOf s a off) 64 }
    (fun s => do
      let ea ← checkNear s win true (eaOf s a off) 64 4
      done s (win.latency s.tier) [.store ea (lineBytes (vv s d)) false]) s

/-! ## Scalar loads and stores -/

/-- LD.i8 (R347). -/
def execLdI8 (gap : BitVec 2) (d a : Reg) (imm : BitVec 11) (s : State) : Host.Outcome State Fault Refusal :=
  loadOp 1 (gapHdr gap) .localStore .i8 d a (imm11 imm) s
/-- LD.i16 (R347). -/
def execLdI16 (gap : BitVec 2) (d a : Reg) (imm : BitVec 11) (s : State) : Host.Outcome State Fault Refusal :=
  loadOp 1 (gapHdr gap) .localStore .i16 d a (imm11 imm) s
/-- LD.i32 (R347). -/
def execLdI32 (gap : BitVec 2) (d a : Reg) (imm : BitVec 11) (s : State) : Host.Outcome State Fault Refusal :=
  loadOp 1 (gapHdr gap) .localStore .i32 d a (imm11 imm) s
/-- LD.i64 (R347). -/
def execLdI64 (gap : BitVec 2) (d a : Reg) (imm : BitVec 11) (s : State) : Host.Outcome State Fault Refusal :=
  loadOp 1 (gapHdr gap) .localStore .i64 d a (imm11 imm) s
/-- LD.n8 (R347). -/
def execLdN8 (gap : BitVec 2) (d a : Reg) (imm : BitVec 11) (s : State) : Host.Outcome State Fault Refusal :=
  loadOp 1 (gapHdr gap) .localStore .n8 d a (imm11 imm) s
/-- LD.n16 (R347). -/
def execLdN16 (gap : BitVec 2) (d a : Reg) (imm : BitVec 11) (s : State) : Host.Outcome State Fault Refusal :=
  loadOp 1 (gapHdr gap) .localStore .n16 d a (imm11 imm) s
/-- LD.n32 (R347). -/
def execLdN32 (gap : BitVec 2) (d a : Reg) (imm : BitVec 11) (s : State) : Host.Outcome State Fault Refusal :=
  loadOp 1 (gapHdr gap) .localStore .n32 d a (imm11 imm) s
/-- LD, format L (R347). -/
def execLdLong (h : Hdr) (ty : LoadTy) (d a : Reg) (lit : DWord) (s : State) : Host.Outcome State Fault Refusal :=
  loadOp 3 h .localStore ty d a (lit64 lit) s
/-- ST.i8 (R382). -/
def execStI8 (gap : BitVec 2) (d a : Reg) (imm : BitVec 11) (s : State) : Host.Outcome State Fault Refusal :=
  storeOp 1 (gapHdr gap) .localStore .i8 d a (imm11 imm) s
/-- ST.i16 (R382). -/
def execStI16 (gap : BitVec 2) (d a : Reg) (imm : BitVec 11) (s : State) : Host.Outcome State Fault Refusal :=
  storeOp 1 (gapHdr gap) .localStore .i16 d a (imm11 imm) s
/-- ST.i32 (R382). -/
def execStI32 (gap : BitVec 2) (d a : Reg) (imm : BitVec 11) (s : State) : Host.Outcome State Fault Refusal :=
  storeOp 1 (gapHdr gap) .localStore .i32 d a (imm11 imm) s
/-- ST.i64 (R382). -/
def execStI64 (gap : BitVec 2) (d a : Reg) (imm : BitVec 11) (s : State) : Host.Outcome State Fault Refusal :=
  storeOp 1 (gapHdr gap) .localStore .i64 d a (imm11 imm) s
/-- ST, format L (R382). -/
def execStLong (h : Hdr) (ty : StoreTy) (d a : Reg) (lit : DWord) (s : State) : Host.Outcome State Fault Refusal :=
  storeOp 3 h .localStore ty d a (lit64 lit) s
/-- BLD.i8 (R321). -/
def execBldI8 (gap : BitVec 2) (d a : Reg) (imm : BitVec 11) (s : State) : Host.Outcome State Fault Refusal :=
  loadOp 1 (gapHdr gap) .ownBank .i8 d a (imm11 imm) s
/-- BLD.i16 (R321). -/
def execBldI16 (gap : BitVec 2) (d a : Reg) (imm : BitVec 11) (s : State) : Host.Outcome State Fault Refusal :=
  loadOp 1 (gapHdr gap) .ownBank .i16 d a (imm11 imm) s
/-- BLD.i32 (R321). -/
def execBldI32 (gap : BitVec 2) (d a : Reg) (imm : BitVec 11) (s : State) : Host.Outcome State Fault Refusal :=
  loadOp 1 (gapHdr gap) .ownBank .i32 d a (imm11 imm) s
/-- BLD.i64 (R321). -/
def execBldI64 (gap : BitVec 2) (d a : Reg) (imm : BitVec 11) (s : State) : Host.Outcome State Fault Refusal :=
  loadOp 1 (gapHdr gap) .ownBank .i64 d a (imm11 imm) s
/-- BLD.n8 (R321). -/
def execBldN8 (gap : BitVec 2) (d a : Reg) (imm : BitVec 11) (s : State) : Host.Outcome State Fault Refusal :=
  loadOp 1 (gapHdr gap) .ownBank .n8 d a (imm11 imm) s
/-- BLD.n16 (R321). -/
def execBldN16 (gap : BitVec 2) (d a : Reg) (imm : BitVec 11) (s : State) : Host.Outcome State Fault Refusal :=
  loadOp 1 (gapHdr gap) .ownBank .n16 d a (imm11 imm) s
/-- BLD.n32 (R321). -/
def execBldN32 (gap : BitVec 2) (d a : Reg) (imm : BitVec 11) (s : State) : Host.Outcome State Fault Refusal :=
  loadOp 1 (gapHdr gap) .ownBank .n32 d a (imm11 imm) s
/-- BLD, format L (R321). -/
def execBldLong (h : Hdr) (ty : LoadTy) (d a : Reg) (lit : DWord) (s : State) : Host.Outcome State Fault Refusal :=
  loadOp 3 h .ownBank ty d a (lit64 lit) s
/-- BST.i8 (R321). -/
def execBstI8 (gap : BitVec 2) (d a : Reg) (imm : BitVec 11) (s : State) : Host.Outcome State Fault Refusal :=
  storeOp 1 (gapHdr gap) .ownBank .i8 d a (imm11 imm) s
/-- BST.i16 (R321). -/
def execBstI16 (gap : BitVec 2) (d a : Reg) (imm : BitVec 11) (s : State) : Host.Outcome State Fault Refusal :=
  storeOp 1 (gapHdr gap) .ownBank .i16 d a (imm11 imm) s
/-- BST.i32 (R321). -/
def execBstI32 (gap : BitVec 2) (d a : Reg) (imm : BitVec 11) (s : State) : Host.Outcome State Fault Refusal :=
  storeOp 1 (gapHdr gap) .ownBank .i32 d a (imm11 imm) s
/-- BST.i64 (R321). -/
def execBstI64 (gap : BitVec 2) (d a : Reg) (imm : BitVec 11) (s : State) : Host.Outcome State Fault Refusal :=
  storeOp 1 (gapHdr gap) .ownBank .i64 d a (imm11 imm) s
/-- BST, format L (R321). -/
def execBstLong (h : Hdr) (ty : StoreTy) (d a : Reg) (lit : DWord) (s : State) : Host.Outcome State Fault Refusal :=
  storeOp 3 h .ownBank ty d a (lit64 lit) s
/-! ## Whole-register loads and stores -/

/-- VLD (R396). -/
def execVld (gap : BitVec 2) (d : VecReg) (a : Reg) (imm : BitVec 11) (s : State) : Host.Outcome State Fault Refusal :=
  vloadOp 1 (gapHdr gap) .localStore d a (imm11 imm) s
/-- VLD, format L (R396). -/
def execVldLong (h : Hdr) (d : VecReg) (a : Reg) (lit : DWord) (s : State) : Host.Outcome State Fault Refusal :=
  vloadOp 3 h .localStore d a (lit64 lit) s
/-- VST (R396). -/
def execVst (gap : BitVec 2) (d : VecReg) (a : Reg) (imm : BitVec 11) (s : State) : Host.Outcome State Fault Refusal :=
  vstoreOp 1 (gapHdr gap) .localStore d a (imm11 imm) s
/-- VST, format L (R396). -/
def execVstLong (h : Hdr) (d : VecReg) (a : Reg) (lit : DWord) (s : State) : Host.Outcome State Fault Refusal :=
  vstoreOp 3 h .localStore d a (lit64 lit) s
/-- VBLD (R396). -/
def execVbld (gap : BitVec 2) (d : VecReg) (a : Reg) (imm : BitVec 11) (s : State) : Host.Outcome State Fault Refusal :=
  vloadOp 1 (gapHdr gap) .ownBank d a (imm11 imm) s
/-- VBLD, format L (R396). -/
def execVbldLong (h : Hdr) (d : VecReg) (a : Reg) (lit : DWord) (s : State) : Host.Outcome State Fault Refusal :=
  vloadOp 3 h .ownBank d a (lit64 lit) s
/-- VBST (R396). -/
def execVbst (gap : BitVec 2) (d : VecReg) (a : Reg) (imm : BitVec 11) (s : State) : Host.Outcome State Fault Refusal :=
  vstoreOp 1 (gapHdr gap) .ownBank d a (imm11 imm) s
/-- VBST, format L (R396). -/
def execVbstLong (h : Hdr) (d : VecReg) (a : Reg) (lit : DWord) (s : State) : Host.Outcome State Fault Refusal :=
  vstoreOp 3 h .ownBank d a (lit64 lit) s
/-! ## The tag table (R180, R181, R319) -/

/-- Line address of a far virtual address, or of an entry (R180). -/
def lineAddr (va : DWord) : Nat := nbits va.toNat 56 9

/-- The entry of a slot. -/
def Core.tag (c : Core) (i : Nat) : DWord := sget 0 c.tags i

/-- The way of a set that holds a line. -/
def tagHit (c : Core) (set la : Nat) : Option Nat :=
  [0, 1, 2, 3].find? (fun v => (c.tag (4 * set + v)).getLsbD 63 && lineAddr (c.tag (4 * set + v)) == la)

/-- The way that a miss suggests, and whether it is the victim pointer's (R181). -/
def tagVictim (c : Core) (set : Nat) : Nat × Bool :=
  match [0, 1, 2, 3].find? (fun v => !(c.tag (4 * set + v)).getLsbD 63) with
  | some v => (v, false)
  | none => ((sget 0 c.vptr set).toNat, true)

/-- BLOOK (R181). -/
def execBlook (h : Hdr) (d a : Reg) (s : State) : Host.Outcome State Fault Refusal :=
  issue { len := 1, hdr := h, rs := [a], rd := [d] }
    (fun s =>
      let c := s.core s.cur.1
      let la := lineAddr (rv s a)
      let set := la % (Config.tagEntries s.tier / 4)
      match tagHit c set la with
      | some v => done s 2 (toReg s d (BitVec.ofNat 64 (4 * set + v)))
      | none =>
        let (v, moved) := tagVictim c set
        let s' := if moved then
            s.modCore s.cur.1 (fun c => { c with vptr := sset 0 c.vptr set (BitVec.ofNat 2 (v + 1)) })
          else s
        done s' 2 (toReg s d (BitVec.ofNat 64 (2 ^ 63 + (4 * set + v))))) s

/-- A slot's entry replaced (R181). -/
def setTag (s : State) (slot : Nat) (v : DWord) : State :=
  s.modCore s.cur.1 (fun c => { c with tags := sset 0 c.tags slot v })

/-- BTAG (R181). -/
def execBtag (h : Hdr) (d a b : Reg) (s : State) : Host.Outcome State Fault Refusal :=
  issue { len := 1, hdr := h, rs := [a, b], rd := [d] }
    (fun s =>
      let n := Config.tagEntries s.tier
      let slot := (rv s a).toNat
      if n ≤ slot then .error (.at_ .bankrange slot)
      else if lineAddr (rv s b) % (n / 4) ≠ slot / 4 then .error (.at_ .bankrange (rv s b).toNat)
      else
        done (setTag s slot (BitVec.ofNat 64 (2 ^ 63 + (rv s b).toNat % 2 ^ 57))) 2
          (toReg s d ((s.core s.cur.1).tag slot))) s

/-- BINV (R181). -/
def execBinv (h : Hdr) (d a : Reg) (s : State) : Host.Outcome State Fault Refusal :=
  issue { len := 1, hdr := h, rs := [a], rd := [d] }
    (fun s =>
      let slot := (rv s a).toNat
      if Config.tagEntries s.tier ≤ slot then .error (.at_ .bankrange slot)
      else done (setTag s slot 0) 2 (toReg s d ((s.core s.cur.1).tag slot))) s

end Sys2Proof.Machine
end

