-- ==== Sys2Proof/Machine/System.lean ====
section
/-! DEFINITION. System registers and idempotent regions (R68 to R74, R266, R345, R388, R389). -/

namespace Sys2Proof.Machine

/-! ## Selectors (R68) -/

/-- An assigned selector: n below S for STACK_n. -/
def selOk (tier sel : Nat) : Bool :=
  if 0x400 ≤ sel then decide (sel - 0x400 < Config.stackSize tier) && decide (sel < 0x800)
  else decide (sel ≤ 0x00A) || (decide (0x010 ≤ sel) && decide (sel ≤ 0x013))
/-- A selector that SYSW may write. -/
def selWritable (sel : Nat) : Bool := decide (0x400 ≤ sel) || [0x001, 0x002, 0x004, 0x005, 0x006].contains sel
/-- A selector of c0 alone. -/
def selC0 (sel : Nat) : Bool := decide (0x010 ≤ sel) && decide (sel ≤ 0x013)

/-- CORE_ID (R69). -/
def coreId (k ctx : Nat) : DWord :=
  BitVec.ofNat 64 (k + tierOf k * 2 ^ 15 + ctx * 2 ^ 17 + quadOf k * 2 ^ 19 + columnOf k * 2 ^ 21 + skewOf k * 2 ^ 27)

/-- WIN_BASE (R71). -/
def winBase (x : Ctx) : DWord := BitVec.ofNat 64 (x.wbase.toNat + x.frame * 2 ^ 32)

/-- The value of a selector (R68 to R74, R389): TRAP_* read 0 when c0 is not Handling. -/
def sysRead (s : State) (sel : Nat) : DWord :=
  let k := s.cur.1
  let c := s.core k
  let x := s.ctx s.cur
  match sel with
  | 0x000 => coreId k s.cur.2
  | 0x001 => if x.ftz then 1 else 0
  | 0x002 => x.flags.setWidth 64
  | 0x003 => winBase x
  | 0x004 => x.vlo.setWidth 64
  | 0x005 => c.ctabWritten.extractLsb' 0 64
  | 0x006 => c.ctabWritten.extractLsb' 64 64
  | 0x007 => repWord x.rep
  | 0x008 => BitVec.ofNat 64 (s.now / cyc k)
  | 0x009 => BitVec.ofNat 64 s.beat
  | 0x00A => BitVec.ofNat 64 s.time
  | 0x010 => if c.ctl.handling.isSome then c.ctl.cause else 0
  | 0x011 => if c.ctl.handling.isSome then c.ctl.tpc.setWidth 64 else 0
  | 0x012 => if c.ctl.handling.isSome then c.ctl.taddr else 0
  | 0x013 => if c.ctl.handling.isSome then c.ctl.tword.setWidth 64 else 0
  | _ => sget 0 x.stack (sel - 0x400)

/-- Results under way that a selector reads (R305, R389). -/
def selReads (sel : Nat) : Act → Bool
  | .orFlags _ | .setFlags _ => sel == 0x002
  | .ftz _ => sel == 0x001
  | .entry i _ => sel == 0x400 + i
  | _ => false

/-- The issue of SYSR or SYSW: unassigned and read-only selectors, then c0's own (R68). -/
def sysNeed (len : Nat) (h : Hdr) (sel : Nat) (write : Bool) (d : Reg) (s : State) : Need :=
  { len := len, hdr := h, rs := if write then [d] else [], rd := if write then [] else [d]
    reads := if write then fun _ => false else selReads sel
    ill := !selOk s.tier sel || (write && !selWritable sel)
    priv := if selC0 sel && s.cur.2 != 0 then some sel else none }

/-- SYSR (R68, R389). -/
def sysrOp (len : Nat) (h : Hdr) (d : Reg) (sel : Nat) (s : State) : Host.Outcome State Fault Refusal :=
  issue (sysNeed len h sel false d s) (fun s => done s 1 (toReg s d (sysRead s sel))) s

/-- A written VLO lies in R71's range. -/
def vloOk (tier : Nat) (x : Ctx) (v : Nat) : Bool :=
  decide (v ≤ x.wbase.toNat) && decide (x.wbase.toNat + x.frame ≤ v + Config.stackSize tier)

/-- SYSW (R68, R70 to R72, R389): a code table is in force for decoding from the second cycle on, while SYSR reads what was
written (R68, R72). -/
def syswOp (len : Nat) (h : Hdr) (d : Reg) (sel : Nat) (s : State) : Host.Outcome State Fault Refusal :=
  issue (sysNeed len h sel true d s) (fun s =>
    let v := rv s d
    match sel with
    | 0x001 => done s 1 [.ftz (v.getLsbD 0)]
    | 0x002 => done s 1 [.setFlags (v.setWidth 6)]
    | 0x004 =>
      if vloOk s.tier (s.ctx s.cur) (v.toNat % 2 ^ 32) then done s 1 [.vlo (v.setWidth 32)] else .error (.of .illop)
    | 0x005 => done s 2 [.ctab false v]
    | 0x006 => done s 2 [.ctab true v]
    | _ => done s 1 [.entry (sel - 0x400) v]) s

/-- SYSR, format I (R388). -/
def execSysr (gap : BitVec 2) (d : Reg) (imm : BitVec 11) (s : State) : Host.Outcome State Fault Refusal :=
  sysrOp 1 (gapHdr gap) d imm.toNat s
/-- SYSR, format L (R388). -/
def execSysrLong (h : Hdr) (d : Reg) (lit : DWord) (s : State) : Host.Outcome State Fault Refusal :=
  sysrOp 3 h d lit.toNat s
/-- SYSW, format I (R388). -/
def execSysw (gap : BitVec 2) (d : Reg) (imm : BitVec 11) (s : State) : Host.Outcome State Fault Refusal :=
  syswOp 1 (gapHdr gap) d imm.toNat s
/-- SYSW, format L (R388). -/
def execSyswLong (h : Hdr) (d : Reg) (lit : DWord) (s : State) : Host.Outcome State Fault Refusal :=
  syswOp 3 h d lit.toNat s

/-! ## Idempotent regions (R266, R345) -/

/-- Results that the checkpoint holds: g0–g7, p0–p7, FLAGS, the window (R266). -/
abbrev ckptReads : Act → Bool := Act.checkpointed

/-- The issue of IDEM: not in a superstep, not in a REP body; `idem` waits for the state it keeps. -/
def idemNeed (h : Hdr) (open_ : Bool) (s : State) : Need :=
  { len := 3, hdr := h, reads := if open_ then ckptReads else fun _ => false
    ill := inStep s || (match (s.ctx s.cur).rep with
      | some r => r.next == (s.ctx s.cur).pc
      | none => false) }

/-- The region that an IDEM opens: its entry is the next instruction, whose block's signature so far includes the IDEM
unless a SIG word stands between (R266; log 11). -/
def openRegion (s : State) : Region :=
  let x := s.ctx s.cur
  let after := pcv s + 12
  let entry := s.skipSig s.cur.1 after
  let w0 := match s.storeWord s.cur.1 (pcv s) with | some (w, _) => w | none => 0
  let w1 := match s.storeWord s.cur.1 (pcv s + 4) with | some (w, _) => w | none => 0
  { ckpt := x.checkpoint (BitVec.ofNat 32 entry), restarts := 0
    sig := if entry = after then sigAdd (if x.sigEnd.isSome then 0 else x.sig) w0 w1 else 0 }

/-- IDEM (R266). -/
def execIdem (h : Hdr) (s : State) : Host.Outcome State Fault Refusal :=
  issue (idemNeed h true s) (fun s => .ok ⟨s.modCtx s.cur (fun x => { x with region := some (openRegion s) }), .next⟩) s
/-- IDEM.END (R266): without an open region it has no effect. -/
def execIdemEnd (h : Hdr) (s : State) : Host.Outcome State Fault Refusal :=
  issue (idemNeed h false s) (fun s => .ok ⟨s.modCtx s.cur (fun x => { x with region := none }), .next⟩) s

end Sys2Proof.Machine
end

