-- ==== Sys2Proof/Machine/Save.lean ====
section
/-! DEFINITION. CTXSV and CTXLD: the images of a context and of a core in the save area (R261 to R265, R332). -/

namespace Sys2Proof.Machine

/-! ## Places in the save area (R262) -/

/-- Near address of the core image. -/
def coreImageAddr (tier : Nat) : Nat := Config.saveBase tier + 0x400 + 4 * ctxImageSize tier
/-- Expansion registers of a core (R262). -/
def expRegs (tier : Nat) : Nat := if tier = 0 then 8 else 16
/-- Bytes of the core image. -/
def coreImageSize (tier : Nat) : Nat := Config.localSize tier + 32800 + 576 * expRegs tier + 512 + 32
/-- Bytes that CTXSV and CTXLD move. -/
def movedBytes (tier : Nat) (all : Bool) : Nat := ctxImageSize tier + if all then coreImageSize tier else 0

/-! ## The image of a context (R262, R263) -/

/-- The control block. -/
def controlBlock (x : Ctx) : List Byte :=
  let region := match x.region with
    | some r => 1 + r.restarts % 4 * 2
    | none => 0
  let monitor := match x.monitor with | some _ => 8 | none => 0
  let rpc := match x.region with | some r => r.ckpt.pc.toNat | none => 0
  fields [(8, x.pc.toNat), (8, (winBase x).toNat), (8, x.vlo.toNat), (8, x.flags.toNat), (8, if x.ftz then 1 else 0),
    (8, (repWord x.rep).toNat), (1, (x.p ||| 1#8).toNat), (3, region + monitor), (4, rpc), (4, x.monitor.getD 0), (4, 0)]

/-- A binding entry; an unused one is zero. -/
def bindingBytes (b : Option Binding) : List Byte :=
  match b with
  | none => leBytes 32 0
  | some b => fields [(8, b.obj.toNat), (8, b.rbase.toNat),
      (16, b.n.toNat + (Scope.code b.scope).toNat * 2 ^ 30 + 2 ^ 33)]

/-- The image of a context (R262); `lost` is the header's bit [1]. -/
def ctxImage (k c : Nat) (x : Ctx) (lost : Bool) : List Byte :=
  let tier := tierOf k
  let head := 1 + (if lost then 2 else 0) + c * 2 ^ 2 + k * 2 ^ 4
  leBytes 64 head
    ++ (List.range 8).flatMap (fun i => leBytes 8 (if i = 0 then 0 else (sget 0 x.g i).toNat))
    ++ controlBlock x
    ++ (List.range 8).flatMap (fun i => bindingBytes x.binds[i]?)
    ++ (List.range 16).flatMap (fun i => msgStatus (sget .reset x.m i))
    ++ (List.range 16).flatMap (fun i => leBytes 64 (sget .reset x.m i).data.toNat)
    ++ (List.range 32).flatMap (fun i => leBytes 64 (sget 0 x.v i).toNat)
    ++ leBytes 320 0
    ++ (List.range (Config.stackSize tier)).flatMap (fun i => leBytes 8 (sget 0 x.stack i).toNat)

/-! ## The image of a core (R262) -/

/-- A tile's elements and its 8 bytes of state, whose layout the spec leaves open: mode, POIS, SAT, the kind of the record
behind POIS, version and block. -/
def tileBytes (t : Tile) : List Byte :=
  (List.range 512).flatMap (fun i => leBytes 16 (sget 0 t.el i).toNat)
    ++ leBytes 8 (modeCode t.mode + (if t.pois then 4 else 0) + (if t.sat then 8 else 0) + t.poisKind.toNat * 2 ^ 8
      + t.ver.toNat * 2 ^ 16 + t.block.toNat * 2 ^ 32)

/-- Tiles, expansion registers, weight sets, code table and kernel state: what follows the local store. -/
def coreTail (tier : Nat) (c : Core) : List Byte :=
  let tiles := (List.range 4).map (fun t => tileBytes (sget .reset c.slice.tiles t))
  tiles.flatMap (fun b => b.take 8192) ++ tiles.flatMap (fun b => b.drop 8192)
    ++ (List.range (expRegs tier)).flatMap (fun r =>
      headerBytes (sget .reset c.xu.hdr r) ++ (List.range 128).flatMap (fun i => leBytes 4 (sget 0 c.xu.co (128 * r + i)).toNat))
    ++ (List.range 4).flatMap (fun n => (List.range 27).flatMap (fun j => leBytes 4 (sget 0 c.vert.ws (27 * n + j)).toNat)
      ++ leBytes 20 0)
    ++ leBytes 16 c.ctab.toNat
    ++ fields [(4, c.xu.kern.kern.toNat), (4, c.xu.kern.gamma.toNat), (4, c.xu.kern.eta.toNat), (4, 0)]

/-! ## CTXSV -/

/-- A result under way that a core's image holds: weight sets and code tables (R262). -/
def Act.ofCore : Act → Bool
  | .ws _ _ | .ctab _ _ => true
  | _ => false

/-- A register result of a context. -/
def Act.ofCtx : Act → Bool
  | .g _ _ | .entry _ _ | .pred _ _ | .vec _ _ | .orFlags _ | .setFlags _ | .ftz _ | .vlo _ => true
  | _ => false

/-- The register results of a context that are under way are written. -/
def Core.flushCtx (c : Core) (tier i : Nat) : Core :=
  let mine := c.pend.filter (fun p => p.ctx == i && p.act.ofCtx)
  mine.foldl (fun c p => applyAct tier c i p.act)
    { c with pend := c.pend.filter (fun p => !(p.ctx == i && p.act.ofCtx)) }

/-- Waits of a context given up: it stands at its instruction, which issues again when the context is loaded (R332). -/
def State.dropWaits (s : State) (q : Nat × Nat) : State :=
  let s := s.abandonExpansion q.1 (fun i => i == q.2)
  (s.cancel (.sleepExpiry q.1 q.2)).cancel (.twaitExpiry q.1 q.2)

/-- What a CTXSV with ALL wrote: the local store as far as the first uncorrectable word, the rest behind it only when there is
none. The weight buffer is invalid either way (R124, R264). -/
def State.saveCore (s : State) (k : Nat) (bad : Option Nat) : State :=
  let tier := tierOf k
  let a := coreImageAddr tier
  let n := match bad with | some w => w / 64 * 64 | none => Config.localSize tier
  s.modCore k (fun c =>
    let c := (c.pend.filter (fun p => p.act.ofCore)).foldl (fun c p => applyAct tier c p.ctx p.act)
      { c with pend := c.pend.filter (fun p => !p.act.ofCore) }
    let c := { c with near := moveFar c.near 0 a n, poison := c.poison.filter (fun e => !decide (a ≤ 4 * e.1 ∧ 4 * e.1 < a + n)) }
    let c := match bad with
      | some _ => c
      | none => c.portWrite (a + Config.localSize tier) (coreTail tier c)
    { c with slice := { c.slice with wvalid := false, wcheck := none, wpois := [] } })

/-- A save lost (R265): its record, and the running task ends with FATAL. -/
def State.saveLost (s : State) (k c w : Nat) : State :=
  let s := s.record k (faultRec 0x07 k c 0 c (coreImageAddr (tierOf k) + w) 0 0 0)
  match (s.core k).ctl.kernel with
  | some kid => s.endKernel kid
  | none => match (s.ctx (k, c)).kernel with
    | some kid => s.endKernel kid
    | none => s

/-- c0 is held until the last line has moved, then takes a status (R261). -/
def moveDone (s : State) (d : Reg) (lines : Nat) (status : DWord) : Except Trap Done :=
  .ok ⟨s, .hold (.move (s.now + lines * Config.bankLatency s.tier * cyc s.cur.1) d status)⟩

/-- The line of a context's image that holds a message register's data (R262). -/
def msgLineNo (j : Nat) : Nat := 0x2C0 / 64 + j

/-- CTXSV (R261 to R265, R332): a message register is saved as it stands when its line is written. -/
def execCtxsv (h : Hdr) (d a : Reg) (all : Bool) (s : State) : Host.Outcome State Fault Refusal :=
  issue { len := 3, hdr := h, rs := [a], rd := [d], ill := inStep s, priv := if s.cur.2 = 0 then none else some 0 }
    (fun s =>
      let k := s.cur.1
      let i := nbits (rv s a).toNat 1 0
      let tier := tierOf k
      if i = 0 then .error (.of .illop)
      else
        let s := (s.settle k s.now).dropWaits (k, i)
        let s := s.modCore k (fun c => c.flushCtx tier i)
        let bad := if all then (s.core k).badRange 0 (Config.localSize tier) else none
        let s := if all then s.correct k 0 (bad.getD (Config.localSize tier)) else s
        let x := s.ctx (k, i)
        let s := s.modCore k (fun c =>
          let c := c.portWrite (ctxImageAddr tier i) (ctxImage k i x bad.isSome)
          let c := c.haltCtx i s.now
          (List.range 16).foldl (fun c j =>
            c.pendAt (s.now + (msgLineNo j + 1) * Config.bankLatency tier * cyc k) 4 (.msgLine i j)) c)
        let s := if all then s.saveCore k bad else s
        match bad with
        | none => moveDone s d (movedBytes tier all / 64) 0
        | some w =>
          let lines := (ctxImageSize tier + w) / 64 + 1
          (match moveDone s d lines 1 with
            | .ok r =>
              let t := r.st.saveLost k i w
              if (t.ctx (k, 0)).run = .halted then
                .ok ⟨t.modCore k (fun c => (scalarAct tier (t.ctx (k, 0)) d 1).foldl (fun c a => applyAct tier c 0 a) c), .moved⟩
              else .ok ⟨t, r.flow⟩
            | .error e => .error e)) s

/-! ## CTXLD -/

/-- A field of an image: `n` bytes from an offset. -/
def Core.imageNat (c : Core) (a off n : Nat) : Nat := c.readNat (a + off) n

/-- Start addresses of instructions walked back from one, `n` of them, over words without a tag. -/
def State.walkBack (s : State) (k : Nat) : Nat → Nat → Nat → Option Nat
  | _, 0, a => some a
  | 0, _ + 1, _ => none
  | fuel + 1, n + 1, a =>
    if a < 4 then none
    else match s.storeWord k (a - 4) with
      | some (_, true) => s.walkBack k fuel n (a - 4)
      | _ => s.walkBack k fuel (n + 1) (a - 4)

/-- The repetition that a saved REPST and program counter stand in: its REP is the instruction before its body, found by
walking back from the next body instruction (R73, R263). -/
def State.rebuildRep (s : State) (k : Nat) (pc w : Nat) : Option Rep :=
  if w = 0 then none
  else
    let pos := nbits w 13 11
    match s.walkBack k 64 pos pc with
    | none => none
    | some start => match s.walkBack k 8 1 start with
      | none => none
      | some at_ => match decode (s.wordsAt k at_) with
        | .ok (.rep _ stride _ winl winh _ _ mask, _) =>
          let win := winl.toNat + (if winh then 32 else 0)
          some { remain := nbits w 10 0, pos := pos, pass := nbits w 23 14, km1 := BitVec.ofNat 3 (nbits w 26 24), mask := mask
                 stride := stride.toNat, base := repBase win, size := repSize win, start := BitVec.ofNat 32 start
                 next := BitVec.ofNat 32 pc }
        | _ => none

/-- A binding entry read. -/
def bindingOf (x : Nat) : Option Binding :=
  if nbits x 161 161 = 0 then none
  else some ⟨BitVec.ofNat 64 (nbits x 63 0), BitVec.ofNat 64 (nbits x 127 64), BitVec.ofNat 30 (nbits x 157 128),
    Scope.ofCode (BitVec.ofNat 3 (nbits x 160 158))⟩

/-- Consecutive values of `n` bytes read into a map. -/
def Core.readMap {w : Nat} (c : Core) (a n count : Nat) (m : Sparse (BitVec w)) (base : Nat) : Sparse (BitVec w) :=
  (List.range count).foldl (fun m i => sset 0 m (base + i) (BitVec.ofNat w (c.readNat (a + n * i) n))) m

/-- A message register restored, but for one that an arrival filled since the save (R264). -/
def Core.loadMsg (c : Core) (a : Nat) (m : Sparse Msg) (j : Nat) : Sparse Msg :=
  let old := sget .reset m j
  if old.arr then m
  else
    let st := c.imageNat a (0x1C0 + 16 * j) 16
    sset .reset m j
      { data := BitVec.ofNat 512 (c.imageNat a (0x2C0 + 64 * j) 64), full := nbits st 0 0 == 1, ffull := nbits st 1 1 == 1
        pend := nbits st 2 2 == 1, va := BitVec.ofNat 57 (nbits st 120 64), tstat := BitVec.ofNat 8 (nbits st 15 8)
        tag := BitVec.ofNat 16 (nbits st 31 16), arr := false, last := old.last, cleared := old.cleared }

/-- A context restored from its image, Ready at a tick (R263, R264). The checkpoint of an open region takes the registers
as they are loaded, for the image holds no others. -/
def State.loadCtx (s : State) (k i t : Nat) : State :=
  let tier := tierOf k
  let a := ctxImageAddr tier i
  let c := s.core k
  let b := c.imageNat a 0x80 64
  let pc := nbits b 31 0 / 4 * 4
  let rep := s.rebuildRep k pc (nbits b 383 320)
  s.modCore k (fun c => c.modCtx i (fun x =>
    let y := { x with
      pc := BitVec.ofNat 32 pc
      g := c.readMap (a + 0x48) 8 7 [] 1
      stack := c.readMap (a + 0x1000) 8 (Config.stackSize tier) [] 0
      wbase := BitVec.ofNat 32 (nbits b 95 64)
      frame := nbits b 100 96
      vlo := BitVec.ofNat 32 (nbits b 159 128)
      p := BitVec.ofNat 8 (nbits b 391 384 / 2 * 2)
      v := c.readMap (a + 0x6C0) 64 32 [] 0
      m := (List.range 16).foldl (fun m j => c.loadMsg a m j) x.m
      flags := BitVec.ofNat 6 (nbits b 197 192)
      ftz := nbits b 256 256 == 1
      rep := rep
      run := .ready
      readyAt := t
      monitor := if nbits b 395 395 = 1 then some (nbits b 479 448) else none
      binds := (List.range 8).filterMap (fun j => bindingOf (c.imageNat a (0xC0 + 32 * j) 32))
      sig := 0
      sigEnd := none }
    let open_ : Region := ⟨y.checkpoint (BitVec.ofNat 32 (nbits b 447 416)), nbits b 394 393, 0⟩
    { y with region := if nbits b 392 392 = 1 then some open_ else none }))

/-- Each pending LDX of a loaded context is issued again (R264). -/
def State.reissueLoads (s : State) (q : Nat × Nat) : State :=
  (List.range 16).foldl (fun s j =>
    let r := (s.ctx q).msg (BitVec.ofNat 4 j)
    if r.pend && !r.arr then
      let s := s.modCtx q (fun x => x.modMsg (BitVec.ofNat 4 j) (fun r => { r with tag := r.tag + 1 }))
      s.sendLdx q (BitVec.ofNat 4 j) (r.va.setWidth 64)
    else s) s

/-- A tile's mode from MSTAT's code. -/
def tileMode (n : Nat) : TileMode := if n = 0 then .none else if n = 1 then .fixed else if n = 2 then .int else .wide

/-- The core image restored (R262). -/
def Core.loadCore (c : Core) (tier : Nat) : Core :=
  let a := coreImageAddr tier
  let ls := Config.localSize tier
  let tb := a + ls
  let xb := tb + 32800
  let wb := xb + 576 * expRegs tier
  let tile (i : Nat) : Tile :=
    let st := c.readNat (tb + 32768 + 8 * i) 8
    { el := (List.range 512).foldl (fun m e => sset 0 m e (BitVec.ofNat 80 (c.readNat (tb + 8192 * i + 16 * e) 16))) []
      mode := tileMode (nbits st 1 0), pois := nbits st 2 2 == 1, sat := nbits st 3 3 == 1
      poisKind := BitVec.ofNat 8 (nbits st 15 8), ver := BitVec.ofNat 16 (nbits st 31 16)
      block := BitVec.ofNat 13 (nbits st 44 32) }
  let hdr (r : Nat) : XHdr := match headerOf (c.readNat (xb + 576 * r) 64) with
    | .ok h => h
    | .error _ => .reset
  { c with
    pend := c.pend.filter (fun p => !p.act.ofCore)
    near := moveFar c.near a 0 ls
    poison := c.poison.filter (fun e => !decide (4 * e.1 < ls))
    slice := { c.slice with tiles := (List.range 4).foldl (fun m i => sset .reset m i (tile i)) c.slice.tiles }
    xu := { c.xu with
      hdr := (List.range (expRegs tier)).foldl (fun m r => sset .reset m r (hdr r)) c.xu.hdr
      co := (List.range (expRegs tier)).foldl (fun m r => c.readMap (xb + 576 * r + 64) 4 128 m (128 * r)) c.xu.co
      kern := ⟨BitVec.ofNat 3 (c.readNat (wb + 528) 4), BitVec.ofNat 32 (c.readNat (wb + 532) 4),
        BitVec.ofNat 32 (c.readNat (wb + 536) 4)⟩ }
    vert := { c.vert with ws := (List.range 4).foldl (fun m n => c.readMap (wb + 128 * n) 4 27 m (27 * n)) c.vert.ws }
    ctab := BitVec.ofNat 128 (c.readNat (wb + 512) 16) }

/-- CTXLD (R261 to R265, R332): BADIMG is refused; a lost image, or an uncorrectable word met, is LOST. -/
def execCtxld (h : Hdr) (d a : Reg) (all : Bool) (s : State) : Host.Outcome State Fault Refusal :=
  issue { len := 3, hdr := h, rs := [a], rd := [d], ill := inStep s, priv := if s.cur.2 = 0 then none else some 0 }
    (fun s =>
      let k := s.cur.1
      let i := nbits (rv s a).toNat 1 0
      let tier := tierOf k
      if i = 0 then .error (.of .illop)
      else
        let s := s.settle k s.now
        let c := s.core k
        let head := c.imageNat (ctxImageAddr tier i) 0 8
        let halt (s : State) : State := s.modCore k (fun c => c.haltCtx i s.now)
        let bad := match c.badRange (ctxImageAddr tier i) (ctxImageSize tier) with
          | some w => some (w - ctxImageAddr tier i)
          | none => if all then (c.badRange (coreImageAddr tier) (coreImageSize tier)).map (fun w =>
              ctxImageSize tier + (w - coreImageAddr tier)) else none
        if bad = some 0 ∨ bad = some 4 then moveDone (halt s) d 1 1
        else if nbits head 0 0 = 0 ∨ nbits head 18 4 ≠ k then moveDone s d 1 2
        else if nbits head 1 1 = 1 then moveDone (halt s) d 1 1
        else match bad with
          | some w => moveDone (halt s) d (w / 64 + 1) 1
          | none =>
            let n := movedBytes tier all / 64
            let s := s.correct k (ctxImageAddr tier i) (ctxImageSize tier)
            let s := if all then s.correct k (coreImageAddr tier) (coreImageSize tier) else s
            let s := if all then s.modCore k (fun c => c.loadCore tier) else s
            let s := (s.modCore k (fun c => { (c.haltCtx i s.now) with pend := c.pend.filter (fun p => !(p.ctx == i && p.act.ofCtx)) })).dropWaits (k, i)
            let s := s.loadCtx k i (s.now + n * Config.bankLatency tier * cyc k)
            moveDone (s.reissueLoads (k, i)) d n 0) s

end Sys2Proof.Machine
end

