-- ==== Sys2Proof/Machine/Scalar.lean ====
section
/-! DEFINITION. The scalar and predicate instructions (R315 to R317, R326 to R328, R334, R338, R349, R351, R354, R362,
R363, R365 to R367, R370, R375, R377, R386, R387, R416, R418). -/

namespace Sys2Proof.Machine

/-! ## Shared shapes -/

/-- A scalar result of the registers read, at a latency. -/
def scalarOp (len : Nat) (h : Hdr) (tier : Option (BitVec 2)) (rs : List Reg) (d : Reg) (lat : Nat)
    (f : State → DWord) (s : State) : Host.Outcome State Fault Refusal :=
  issue { len := len, hdr := h, tier := tier, rs := rs, rd := [d] } (fun s => done s lat (toReg s d (f s))) s

/-- Format R with two scalar sources. -/
def binary (h : Hdr) (d a b : Reg) (lat : Nat) (f : DWord → DWord → DWord) (s : State) :
    Host.Outcome State Fault Refusal :=
  scalarOp 1 h none [a, b] d lat (fun s => f (rv s a) (rv s b)) s

/-- Format R with one scalar source. -/
def unary (h : Hdr) (d a : Reg) (f : DWord → DWord) (s : State) : Host.Outcome State Fault Refusal :=
  scalarOp 1 h none [a] d 1 (fun s => f (rv s a)) s

/-- A predicate result at latency 1. -/
def predOp (len : Nat) (h : Hdr) (rs : List Reg) (ps : List PredReg) (d : PredReg) (f : State → Bool) (s : State) :
    Host.Outcome State Fault Refusal :=
  issue { len := len, hdr := h, rs := rs, ps := ps } (fun s => done s 1 (predAct d (f s))) s

/-! ## Functions of 64-bit values (R88) -/

/-- A register read signed, or unsigned under U. -/
def readAs (u : Bool) (x : DWord) : Int := if u then x.toNat else x.toInt

/-- Bits [127:64] of the product (R363). -/
def mulHigh (u : Bool) (a b : DWord) : DWord := BitVec.ofInt 64 (readAs u a * readAs u b / 2 ^ 64)

/-- The quotient of R88. -/
def divide (u : Bool) (a b : DWord) : DWord :=
  if b = 0 then BitVec.allOnes 64 else BitVec.ofInt 64 (Int.tdiv (readAs u a) (readAs u b))

/-- The remainder of R88. -/
def remainder (u : Bool) (a b : DWord) : DWord :=
  if b = 0 then a else BitVec.ofInt 64 (Int.tmod (readAs u a) (readAs u b))

/-- Bits [5:0] of a count (R375). -/
def count6 (b : DWord) : Nat := b.toNat % 64

/-- Zero bits above the highest one (R326). -/
def leadingZeros (a : DWord) : DWord := if a = 0 then 64 else BitVec.ofNat 64 (63 - a.toNat.log2)
/-- Zero bits below the lowest one (R326). -/
def trailingZeros (a : DWord) : DWord :=
  BitVec.ofNat 64 (((List.range 64).find? (fun i => a.getLsbD i)).getD 64)
/-- Number of one bits (R367). -/
def popCount (a : DWord) : DWord := BitVec.ofNat 64 ((List.range 64).countP (fun i => a.getLsbD i))

/-- The bits of a width code (R77). -/
def WidthCode.bits : WidthCode → Nat
  | .w8 => 8
  | .w16 => 16
  | .w32 => 32

/-- a < b, signed or unsigned. -/
def less (u : Bool) (a b : DWord) : Bool := decide (readAs u a < readAs u b)

/-- CMPI's conditions (R328): the comparison, and whether it is unsigned. -/
def cmpiHolds (c : CmpiCond) (a b : DWord) : Bool :=
  match c with
  | .eq => a == b
  | .ne => a != b
  | .lt => less false a b
  | .le => !less false b a
  | .gt => less false b a
  | .ge => !less false a b
  | .ltN => less true a b
  | .leN => !less true b a
  | .gtN => less true b a
  | .geN => !less true a b

/-- EXT's field (R338). -/
def extField (signed : Bool) (pos wid : Nat) (a : DWord) : DWord :=
  let f := zeroExt wid (a >>> pos)
  if signed then signExt wid f else f
/-- INS's result (R338). -/
def insField (pos wid : Nat) (old a : DWord) : DWord :=
  let m := BitVec.ofNat 64 ((2 ^ wid - 1) * 2 ^ pos)
  (old &&& ~~~m) ||| ((a <<< pos) &&& m)

/-! ## Meanings -/

/-- ADD (R315). -/
def execAdd (h : Hdr) (d a b : Reg) (s : State) : Host.Outcome State Fault Refusal := binary h d a b 1 (· + ·) s
/-- SUB (R386). -/
def execSub (h : Hdr) (d a b : Reg) (s : State) : Host.Outcome State Fault Refusal := binary h d a b 1 (· - ·) s
/-- MUL (R363). -/
def execMul (h : Hdr) (d a b : Reg) (s : State) : Host.Outcome State Fault Refusal := binary h d a b 3 (· * ·) s
/-- MULH (R363). -/
def execMulh (h : Hdr) (d a b : Reg) (u : Bool) (s : State) : Host.Outcome State Fault Refusal :=
  binary h d a b 4 (mulHigh u) s
/-- DIV (R334). -/
def execDiv (h : Hdr) (d a b : Reg) (u : Bool) (s : State) : Host.Outcome State Fault Refusal :=
  binary h d a b 18 (divide u) s
/-- REM (R370). -/
def execRem (h : Hdr) (d a b : Reg) (u : Bool) (s : State) : Host.Outcome State Fault Refusal :=
  binary h d a b 18 (remainder u) s
/-- AND (R317). -/
def execAnd (h : Hdr) (d a b : Reg) (s : State) : Host.Outcome State Fault Refusal := binary h d a b 1 (· &&& ·) s
/-- ANDN (R317). -/
def execAndn (h : Hdr) (d a b : Reg) (s : State) : Host.Outcome State Fault Refusal :=
  binary h d a b 1 (fun x y => x &&& ~~~y) s
/-- OR (R365). -/
def execOr (h : Hdr) (d a b : Reg) (s : State) : Host.Outcome State Fault Refusal := binary h d a b 1 (· ||| ·) s
/-- XOR (R416). -/
def execXor (h : Hdr) (d a b : Reg) (s : State) : Host.Outcome State Fault Refusal := binary h d a b 1 (· ^^^ ·) s
/-- SHL (R375). -/
def execShl (h : Hdr) (d a b : Reg) (s : State) : Host.Outcome State Fault Refusal :=
  binary h d a b 1 (fun x y => x <<< count6 y) s
/-- SHR (R375). -/
def execShr (h : Hdr) (d a b : Reg) (s : State) : Host.Outcome State Fault Refusal :=
  binary h d a b 1 (fun x y => x >>> count6 y) s
/-- SRA (R375). -/
def execSra (h : Hdr) (d a b : Reg) (s : State) : Host.Outcome State Fault Refusal :=
  binary h d a b 1 (fun x y => x.sshiftRight (count6 y)) s
/-- ROT (R375). -/
def execRot (h : Hdr) (d a b : Reg) (s : State) : Host.Outcome State Fault Refusal :=
  binary h d a b 1 (fun x y => x.rotateLeft (count6 y)) s
/-- CLZ (R326). -/
def execClz (h : Hdr) (d a : Reg) (s : State) : Host.Outcome State Fault Refusal := unary h d a leadingZeros s
/-- CTZ (R326). -/
def execCtz (h : Hdr) (d a : Reg) (s : State) : Host.Outcome State Fault Refusal := unary h d a trailingZeros s
/-- POPC (R367). -/
def execPopc (h : Hdr) (d a : Reg) (s : State) : Host.Outcome State Fault Refusal := unary h d a popCount s
/-- MIN (R354). -/
def execMin (h : Hdr) (d a b : Reg) (u : Bool) (s : State) : Host.Outcome State Fault Refusal :=
  binary h d a b 1 (fun x y => if less u y x then y else x) s
/-- MAX (R354). -/
def execMax (h : Hdr) (d a b : Reg) (u : Bool) (s : State) : Host.Outcome State Fault Refusal :=
  binary h d a b 1 (fun x y => if less u x y then y else x) s
/-- SEL (R377): G and GN name the selecting predicate. -/
def execSel (h : Hdr) (d a b : Reg) (s : State) : Host.Outcome State Fault Refusal :=
  issue { len := 1, hdr := h, noGuard := true, rs := [a, b], rd := [d] }
    (fun s => done s 1 (toReg s d (if (s.ctx s.cur).guard h then rv s a else rv s b))) s
/-- MOV (R362). -/
def execMov (h : Hdr) (d a : Reg) (s : State) : Host.Outcome State Fault Refusal := unary h d a id s
/-- SXT (R387). -/
def execSxt (h : Hdr) (d a : Reg) (w : WidthCode) (s : State) : Host.Outcome State Fault Refusal :=
  unary h d a (signExt (WidthCode.bits w)) s
/-- ZXT (R418). -/
def execZxt (h : Hdr) (d a : Reg) (w : WidthCode) (s : State) : Host.Outcome State Fault Refusal :=
  unary h d a (zeroExt (WidthCode.bits w)) s

/-- CMP.eq (R327); U has no effect. -/
def execCmpEq (h : Hdr) (d : PredReg) (a b : Reg) (_u : Bool) (s : State) : Host.Outcome State Fault Refusal :=
  predOp 1 h [a, b] [] d (fun s => rv s a == rv s b) s
/-- CMP.ne (R327); U has no effect. -/
def execCmpNe (h : Hdr) (d : PredReg) (a b : Reg) (_u : Bool) (s : State) : Host.Outcome State Fault Refusal :=
  predOp 1 h [a, b] [] d (fun s => rv s a != rv s b) s
/-- CMP.lt (R327). -/
def execCmpLt (h : Hdr) (d : PredReg) (a b : Reg) (u : Bool) (s : State) : Host.Outcome State Fault Refusal :=
  predOp 1 h [a, b] [] d (fun s => less u (rv s a) (rv s b)) s
/-- CMP.le (R327). -/
def execCmpLe (h : Hdr) (d : PredReg) (a b : Reg) (u : Bool) (s : State) : Host.Outcome State Fault Refusal :=
  predOp 1 h [a, b] [] d (fun s => !less u (rv s b) (rv s a)) s

/-- ADDI, format I (R316). -/
def execAddi (gap : BitVec 2) (d a : Reg) (imm : BitVec 11) (s : State) : Host.Outcome State Fault Refusal :=
  scalarOp 1 (gapHdr gap) none [a] d 1 (fun s => rv s a + imm.signExtend 64) s
/-- ADDI, format L (R316). -/
def execAddiLong (h : Hdr) (d a : Reg) (lit : DWord) (s : State) : Host.Outcome State Fault Refusal :=
  scalarOp 3 h none [a] d 1 (fun s => rv s a + lit) s
/-- LI, format I (R351). -/
def execLi (gap : BitVec 2) (d : Reg) (imm : BitVec 11) (s : State) : Host.Outcome State Fault Refusal :=
  scalarOp 1 (gapHdr gap) none [] d 1 (fun _ => imm.signExtend 64) s
/-- LI, format L (R351). -/
def execLiLong (h : Hdr) (d : Reg) (lit : DWord) (s : State) : Host.Outcome State Fault Refusal :=
  scalarOp 3 h none [] d 1 (fun _ => lit) s

/-- CMPI, format I (R328). -/
def cmpImm (c : CmpiCond) (gap : BitVec 2) (d : PredReg) (a : Reg) (imm : BitVec 11) (s : State) :
    Host.Outcome State Fault Refusal :=
  predOp 1 (gapHdr gap) [a] [] d (fun s => cmpiHolds c (rv s a) (imm.signExtend 64)) s
/-- CMPI.eq, format I (R328). -/
def execCmpiEq (gap : BitVec 2) (d : PredReg) (a : Reg) (imm : BitVec 11) (s : State) :
    Host.Outcome State Fault Refusal := cmpImm .eq gap d a imm s
/-- CMPI.ne, format I (R328). -/
def execCmpiNe (gap : BitVec 2) (d : PredReg) (a : Reg) (imm : BitVec 11) (s : State) :
    Host.Outcome State Fault Refusal := cmpImm .ne gap d a imm s
/-- CMPI.lt, format I (R328). -/
def execCmpiLt (gap : BitVec 2) (d : PredReg) (a : Reg) (imm : BitVec 11) (s : State) :
    Host.Outcome State Fault Refusal := cmpImm .lt gap d a imm s
/-- CMPI.le, format I (R328). -/
def execCmpiLe (gap : BitVec 2) (d : PredReg) (a : Reg) (imm : BitVec 11) (s : State) :
    Host.Outcome State Fault Refusal := cmpImm .le gap d a imm s
/-- CMPI.gt, format I (R328). -/
def execCmpiGt (gap : BitVec 2) (d : PredReg) (a : Reg) (imm : BitVec 11) (s : State) :
    Host.Outcome State Fault Refusal := cmpImm .gt gap d a imm s
/-- CMPI.ge, format I (R328). -/
def execCmpiGe (gap : BitVec 2) (d : PredReg) (a : Reg) (imm : BitVec 11) (s : State) :
    Host.Outcome State Fault Refusal := cmpImm .ge gap d a imm s
/-- CMPI.lt.n64, format I (R328). -/
def execCmpiLtN64 (gap : BitVec 2) (d : PredReg) (a : Reg) (imm : BitVec 11) (s : State) :
    Host.Outcome State Fault Refusal := cmpImm .ltN gap d a imm s
/-- CMPI.le.n64, format I (R328). -/
def execCmpiLeN64 (gap : BitVec 2) (d : PredReg) (a : Reg) (imm : BitVec 11) (s : State) :
    Host.Outcome State Fault Refusal := cmpImm .leN gap d a imm s
/-- CMPI.gt.n64, format I (R328). -/
def execCmpiGtN64 (gap : BitVec 2) (d : PredReg) (a : Reg) (imm : BitVec 11) (s : State) :
    Host.Outcome State Fault Refusal := cmpImm .gtN gap d a imm s
/-- CMPI.ge.n64, format I (R328). -/
def execCmpiGeN64 (gap : BitVec 2) (d : PredReg) (a : Reg) (imm : BitVec 11) (s : State) :
    Host.Outcome State Fault Refusal := cmpImm .geN gap d a imm s
/-- CMPI, format L (R328). -/
def execCmpiLong (h : Hdr) (cond : CmpiCond) (d : PredReg) (a : Reg) (lit : DWord) (s : State) :
    Host.Outcome State Fault Refusal :=
  predOp 3 h [a] [] d (fun s => cmpiHolds cond (rv s a) lit) s

/-- PAND (R366). -/
def execPand (h : Hdr) (d a b : PredReg) (s : State) : Host.Outcome State Fault Refusal :=
  predOp 1 h [] [a, b] d (fun s => pv s a && pv s b) s
/-- POR (R366). -/
def execPor (h : Hdr) (d a b : PredReg) (s : State) : Host.Outcome State Fault Refusal :=
  predOp 1 h [] [a, b] d (fun s => pv s a || pv s b) s
/-- PXOR (R366). -/
def execPxor (h : Hdr) (d a b : PredReg) (s : State) : Host.Outcome State Fault Refusal :=
  predOp 1 h [] [a, b] d (fun s => pv s a ^^ pv s b) s
/-- PNOT (R366). -/
def execPnot (h : Hdr) (d a : PredReg) (s : State) : Host.Outcome State Fault Refusal :=
  predOp 1 h [] [a] d (fun s => !pv s a) s
/-- PMOV (R366). -/
def execPmov (h : Hdr) (d a : PredReg) (s : State) : Host.Outcome State Fault Refusal :=
  predOp 1 h [] [a] d (fun s => pv s a) s

/-- EXT (R338). -/
def execExt (h : Hdr) (d a : Reg) (ty : Ty) (tier : Option (BitVec 2)) (pos wm1 : BitVec 6) (s : State) :
    Host.Outcome State Fault Refusal :=
  scalarOp 3 h tier [a] d 1 (fun s => extField (ty == .i64) pos.toNat (wm1.toNat + 1) (rv s a)) s
/-- INS (R338). -/
def execIns (h : Hdr) (d a : Reg) (tier : Option (BitVec 2)) (pos wm1 : BitVec 6) (s : State) :
    Host.Outcome State Fault Refusal :=
  scalarOp 3 h tier [a, d] d 1 (fun s => insField pos.toNat (wm1.toNat + 1) (rv s d) (rv s a)) s
/-- LEA, format X (R349). -/
def execLea (h : Hdr) (d a b : Reg) (tier : Option (BitVec 2)) (sh : BitVec 3) (disp : BitVec 24) (s : State) :
    Host.Outcome State Fault Refusal :=
  scalarOp 3 h tier [a, b] d 1 (fun s => rv s a + rv s b <<< sh.toNat + disp.signExtend 64) s
/-- LEA, format XL (R349). -/
def execLeaXl (h : Hdr) (d a b : Reg) (tier : Option (BitVec 2)) (sh : BitVec 3) (lit : DWord) (s : State) :
    Host.Outcome State Fault Refusal :=
  scalarOp 5 h tier [a, b] d 1 (fun s => rv s a + rv s b <<< sh.toNat + lit) s

end Sys2Proof.Machine
end

