-- ==== Sys2Proof/Machine/Dispatch.lean ====
section
/-! DEFINITION. One arm per constructor: the meaning of each instruction and of each step of another agent. -/

namespace Sys2Proof.Machine

/-- The outcome of one instruction or of one step of another agent. -/
def exec (i : Instr) (s : State) : Host.Outcome State Fault Refusal :=
  match i with
  | .add h d a b => Sys2Proof.Machine.execAdd h d a b s
  | .sub h d a b => Sys2Proof.Machine.execSub h d a b s
  | .mul h d a b => Sys2Proof.Machine.execMul h d a b s
  | .mulh h d a b u => Sys2Proof.Machine.execMulh h d a b u s
  | .div h d a b u => Sys2Proof.Machine.execDiv h d a b u s
  | .rem h d a b u => Sys2Proof.Machine.execRem h d a b u s
  | .and h d a b => Sys2Proof.Machine.execAnd h d a b s
  | .andn h d a b => Sys2Proof.Machine.execAndn h d a b s
  | .or h d a b => Sys2Proof.Machine.execOr h d a b s
  | .xor h d a b => Sys2Proof.Machine.execXor h d a b s
  | .shl h d a b => Sys2Proof.Machine.execShl h d a b s
  | .shr h d a b => Sys2Proof.Machine.execShr h d a b s
  | .sra h d a b => Sys2Proof.Machine.execSra h d a b s
  | .rot h d a b => Sys2Proof.Machine.execRot h d a b s
  | .clz h d a => Sys2Proof.Machine.execClz h d a s
  | .ctz h d a => Sys2Proof.Machine.execCtz h d a s
  | .popc h d a => Sys2Proof.Machine.execPopc h d a s
  | .min h d a b u => Sys2Proof.Machine.execMin h d a b u s
  | .max h d a b u => Sys2Proof.Machine.execMax h d a b u s
  | .sel h d a b => Sys2Proof.Machine.execSel h d a b s
  | .mov h d a => Sys2Proof.Machine.execMov h d a s
  | .sxt h d a w => Sys2Proof.Machine.execSxt h d a w s
  | .zxt h d a w => Sys2Proof.Machine.execZxt h d a w s
  | .cmpEq h d a b u => Sys2Proof.Machine.execCmpEq h d a b u s
  | .cmpNe h d a b u => Sys2Proof.Machine.execCmpNe h d a b u s
  | .cmpLt h d a b u => Sys2Proof.Machine.execCmpLt h d a b u s
  | .cmpLe h d a b u => Sys2Proof.Machine.execCmpLe h d a b u s
  | .addi gap d a imm => Sys2Proof.Machine.execAddi gap d a imm s
  | .addiLong h d a lit => Sys2Proof.Machine.execAddiLong h d a lit s
  | .li gap d imm => Sys2Proof.Machine.execLi gap d imm s
  | .liLong h d lit => Sys2Proof.Machine.execLiLong h d lit s
  | .cmpiEq gap d a imm => Sys2Proof.Machine.execCmpiEq gap d a imm s
  | .cmpiNe gap d a imm => Sys2Proof.Machine.execCmpiNe gap d a imm s
  | .cmpiLt gap d a imm => Sys2Proof.Machine.execCmpiLt gap d a imm s
  | .cmpiLe gap d a imm => Sys2Proof.Machine.execCmpiLe gap d a imm s
  | .cmpiGt gap d a imm => Sys2Proof.Machine.execCmpiGt gap d a imm s
  | .cmpiGe gap d a imm => Sys2Proof.Machine.execCmpiGe gap d a imm s
  | .cmpiLtN64 gap d a imm => Sys2Proof.Machine.execCmpiLtN64 gap d a imm s
  | .cmpiLeN64 gap d a imm => Sys2Proof.Machine.execCmpiLeN64 gap d a imm s
  | .cmpiGtN64 gap d a imm => Sys2Proof.Machine.execCmpiGtN64 gap d a imm s
  | .cmpiGeN64 gap d a imm => Sys2Proof.Machine.execCmpiGeN64 gap d a imm s
  | .cmpiLong h cond d a lit => Sys2Proof.Machine.execCmpiLong h cond d a lit s
  | .pand h d a b => Sys2Proof.Machine.execPand h d a b s
  | .por h d a b => Sys2Proof.Machine.execPor h d a b s
  | .pxor h d a b => Sys2Proof.Machine.execPxor h d a b s
  | .pnot h d a => Sys2Proof.Machine.execPnot h d a s
  | .pmov h d a => Sys2Proof.Machine.execPmov h d a s
  | .br h disp => Sys2Proof.Machine.execBr h disp s
  | .brLong h lit => Sys2Proof.Machine.execBrLong h lit s
  | .jmp gap y disp => Sys2Proof.Machine.execJmp gap y disp s
  | .jmpLong gap y lit => Sys2Proof.Machine.execJmpLong gap y lit s
  | .jmpi h a => Sys2Proof.Machine.execJmpi h a s
  | .call h disp => Sys2Proof.Machine.execCall h disp s
  | .callLong h lit => Sys2Proof.Machine.execCallLong h lit s
  | .calli h a => Sys2Proof.Machine.execCalli h a s
  | .ret gap y => Sys2Proof.Machine.execRet gap y s
  | .enter gap imm => Sys2Proof.Machine.execEnter gap imm s
  | .enterLong h lit => Sys2Proof.Machine.execEnterLong h lit s
  | .leave h => Sys2Proof.Machine.execLeave h s
  | .nop h => Sys2Proof.Machine.execNop h s
  | .halt h => Sys2Proof.Machine.execHalt h s
  | .ldI8 gap d a imm => Sys2Proof.Machine.execLdI8 gap d a imm s
  | .ldI16 gap d a imm => Sys2Proof.Machine.execLdI16 gap d a imm s
  | .ldI32 gap d a imm => Sys2Proof.Machine.execLdI32 gap d a imm s
  | .ldI64 gap d a imm => Sys2Proof.Machine.execLdI64 gap d a imm s
  | .ldN8 gap d a imm => Sys2Proof.Machine.execLdN8 gap d a imm s
  | .ldN16 gap d a imm => Sys2Proof.Machine.execLdN16 gap d a imm s
  | .ldN32 gap d a imm => Sys2Proof.Machine.execLdN32 gap d a imm s
  | .ldLong h ty d a lit => Sys2Proof.Machine.execLdLong h ty d a lit s
  | .stI8 gap d a imm => Sys2Proof.Machine.execStI8 gap d a imm s
  | .stI16 gap d a imm => Sys2Proof.Machine.execStI16 gap d a imm s
  | .stI32 gap d a imm => Sys2Proof.Machine.execStI32 gap d a imm s
  | .stI64 gap d a imm => Sys2Proof.Machine.execStI64 gap d a imm s
  | .stLong h ty d a lit => Sys2Proof.Machine.execStLong h ty d a lit s
  | .vld gap d a imm => Sys2Proof.Machine.execVld gap d a imm s
  | .vldLong h d a lit => Sys2Proof.Machine.execVldLong h d a lit s
  | .vst gap d a imm => Sys2Proof.Machine.execVst gap d a imm s
  | .vstLong h d a lit => Sys2Proof.Machine.execVstLong h d a lit s
  | .bldI8 gap d a imm => Sys2Proof.Machine.execBldI8 gap d a imm s
  | .bldI16 gap d a imm => Sys2Proof.Machine.execBldI16 gap d a imm s
  | .bldI32 gap d a imm => Sys2Proof.Machine.execBldI32 gap d a imm s
  | .bldI64 gap d a imm => Sys2Proof.Machine.execBldI64 gap d a imm s
  | .bldN8 gap d a imm => Sys2Proof.Machine.execBldN8 gap d a imm s
  | .bldN16 gap d a imm => Sys2Proof.Machine.execBldN16 gap d a imm s
  | .bldN32 gap d a imm => Sys2Proof.Machine.execBldN32 gap d a imm s
  | .bldLong h ty d a lit => Sys2Proof.Machine.execBldLong h ty d a lit s
  | .bstI8 gap d a imm => Sys2Proof.Machine.execBstI8 gap d a imm s
  | .bstI16 gap d a imm => Sys2Proof.Machine.execBstI16 gap d a imm s
  | .bstI32 gap d a imm => Sys2Proof.Machine.execBstI32 gap d a imm s
  | .bstI64 gap d a imm => Sys2Proof.Machine.execBstI64 gap d a imm s
  | .bstLong h ty d a lit => Sys2Proof.Machine.execBstLong h ty d a lit s
  | .vbld gap d a imm => Sys2Proof.Machine.execVbld gap d a imm s
  | .vbldLong h d a lit => Sys2Proof.Machine.execVbldLong h d a lit s
  | .vbst gap d a imm => Sys2Proof.Machine.execVbst gap d a imm s
  | .vbstLong h d a lit => Sys2Proof.Machine.execVbstLong h d a lit s
  | .blook h d a => Sys2Proof.Machine.execBlook h d a s
  | .btag h d a b => Sys2Proof.Machine.execBtag h d a b s
  | .binv h d a => Sys2Proof.Machine.execBinv h d a s
  | .send h d a b => Sys2Proof.Machine.execSend h d a b s
  | .mget h d a b => Sys2Proof.Machine.execMget h d a b s
  | .msgb h d a b s8 => Sys2Proof.Machine.execMsgb h d a b s8 s
  | .mclr h d => Sys2Proof.Machine.execMclr h d s
  | .ldx h d a => Sys2Proof.Machine.execLdx h d a s
  | .stx h a b => Sys2Proof.Machine.execStx h a b s
  | .trap gap imm => Sys2Proof.Machine.execTrap gap imm s
  | .trapLong h lit => Sys2Proof.Machine.execTrapLong h lit s
  | .eret gap y => Sys2Proof.Machine.execEret gap y s
  | .sysr gap d imm => Sys2Proof.Machine.execSysr gap d imm s
  | .sysrLong h d lit => Sys2Proof.Machine.execSysrLong h d lit s
  | .sysw gap d imm => Sys2Proof.Machine.execSysw gap d imm s
  | .syswLong h d lit => Sys2Proof.Machine.execSyswLong h d lit s
  | .yield h => Sys2Proof.Machine.execYield h s
  | .ext h d a ty tier pos wm1 => Sys2Proof.Machine.execExt h d a ty tier pos wm1 s
  | .ins h d a tier pos wm1 => Sys2Proof.Machine.execIns h d a tier pos wm1 s
  | .lea h d a b tier sh disp => Sys2Proof.Machine.execLea h d a b tier sh disp s
  | .leaXl h d a b tier sh lit => Sys2Proof.Machine.execLeaXl h d a b tier sh lit s
  | .rep h stride nm1l winl winh nm1h km1 mask => Sys2Proof.Machine.execRep h stride nm1l winl winh nm1h km1 mask s
  | .vlds h d a b ty tier disp => Sys2Proof.Machine.execVlds h d a b ty tier disp s
  | .vsts h d a b ty tier disp => Sys2Proof.Machine.execVsts h d a b ty tier disp s
  | .vgath h d a b ty tier disp => Sys2Proof.Machine.execVgath h d a b ty tier disp s
  | .vscat h d a b ty tier disp => Sys2Proof.Machine.execVscat h d a b ty tier disp s
  | .vadd h d a b ty rnd sat tier => Sys2Proof.Machine.execVadd h d a b ty rnd sat tier s
  | .vsub h d a b ty rnd sat tier => Sys2Proof.Machine.execVsub h d a b ty rnd sat tier s
  | .vmul h d a b ty rnd sat tier => Sys2Proof.Machine.execVmul h d a b ty rnd sat tier s
  | .vfma h d a b ty rnd tier c => Sys2Proof.Machine.execVfma h d a b ty rnd tier c s
  | .vfms h d a b ty rnd tier c => Sys2Proof.Machine.execVfms h d a b ty rnd tier c s
  | .vneg h d a ty sat tier => Sys2Proof.Machine.execVneg h d a ty sat tier s
  | .vabs h d a ty sat tier => Sys2Proof.Machine.execVabs h d a ty sat tier s
  | .vmin h d a b ty tier => Sys2Proof.Machine.execVmin h d a b ty tier s
  | .vmax h d a b ty tier => Sys2Proof.Machine.execVmax h d a b ty tier s
  | .vdiv h d a b ty rnd tier => Sys2Proof.Machine.execVdiv h d a b ty rnd tier s
  | .vsqrt h d a ty rnd tier => Sys2Proof.Machine.execVsqrt h d a ty rnd tier s
  | .vrcp h d a ty rnd tier => Sys2Proof.Machine.execVrcp h d a ty rnd tier s
  | .vrsq h d a ty rnd tier => Sys2Proof.Machine.execVrsq h d a ty rnd tier s
  | .vexp2f h d a ty tier => Sys2Proof.Machine.execVexp2f h d a ty tier s
  | .vrndi h d a ty rnd tier => Sys2Proof.Machine.execVrndi h d a ty rnd tier s
  | .vinsx h d a b ty rnd sat tier => Sys2Proof.Machine.execVinsx h d a b ty rnd sat tier s
  | .vextx h d a ty tier => Sys2Proof.Machine.execVextx h d a ty tier s
  | .vcvt h d a ty ty2 rnd sat tier part => Sys2Proof.Machine.execVcvt h d a ty ty2 rnd sat tier part s
  | .vcmp h d a b ty tier cond pw p => Sys2Proof.Machine.execVcmp h d a b ty tier cond pw p s
  | .vsel h d a b ty tier c => Sys2Proof.Machine.execVsel h d a b ty tier c s
  | .vand h d a b tier => Sys2Proof.Machine.execVand h d a b tier s
  | .vor h d a b tier => Sys2Proof.Machine.execVor h d a b tier s
  | .vxor h d a b tier => Sys2Proof.Machine.execVxor h d a b tier s
  | .vshl h d a b ty sat tier => Sys2Proof.Machine.execVshl h d a b ty sat tier s
  | .vshr h d a b ty tier => Sys2Proof.Machine.execVshr h d a b ty tier s
  | .vsra h d a b ty tier => Sys2Proof.Machine.execVsra h d a b ty tier s
  | .vperm h d a b ty tier => Sys2Proof.Machine.execVperm h d a b ty tier s
  | .vsplat h d a ty tier => Sys2Proof.Machine.execVsplat h d a ty tier s
  | .vsplatXl h d ty tier lit => Sys2Proof.Machine.execVsplatXl h d ty tier lit s
  | .vmov h d a tier => Sys2Proof.Machine.execVmov h d a tier s
  | .vreds h d a ty rnd sat tier => Sys2Proof.Machine.execVreds h d a ty rnd sat tier s
  | .vredx h d a ty tier isMax => Sys2Proof.Machine.execVredx h d a ty tier isMax s
  | .vclass h d a ty tier => Sys2Proof.Machine.execVclass h d a ty tier s
  | .vcode h d a ty ty2 tier seg => Sys2Proof.Machine.execVcode h d a ty ty2 tier seg s
  | .vql4 h d a ty ty2 tier seg => Sys2Proof.Machine.execVql4 h d a ty ty2 tier seg s
  | .vscac h d a b ty ty2 tier c e ql => Sys2Proof.Machine.execVscac h d a b ty ty2 tier c e ql s
  | .vker h d a ty tier => Sys2Proof.Machine.execVker h d a ty tier s
  | .gang h => Sys2Proof.Machine.execGang h s
  | .mma h d a ty ty2 k koff t z => Sys2Proof.Machine.execMma h d a ty ty2 k koff t z s
  | .mmas h d a b ty ty2 => Sys2Proof.Machine.execMmas h d a b ty ty2 s
  | .mwld h a b ty k axis => Sys2Proof.Machine.execMwld h a b ty k axis s
  | .mzero h d => Sys2Proof.Machine.execMzero h d s
  | .mrd h d a ty sat row => Sys2Proof.Machine.execMrd h d a ty sat row s
  | .mscac h d a b => Sys2Proof.Machine.execMscac h d a b s
  | .mstat h d => Sys2Proof.Machine.execMstat h d s
  | .rstr h d a b ty ovw self => Sys2Proof.Machine.execRstr h d a b ty ovw self s
  | .prlg h d a b ty ovw self => Sys2Proof.Machine.execPrlg h d a b ty ovw self s
  | .wsld h d a => Sys2Proof.Machine.execWsld h d a s
  | .xclr h d a tier => Sys2Proof.Machine.execXclr h d a tier s
  | .xld h d a tier => Sys2Proof.Machine.execXld h d a tier s
  | .xst h d a tier => Sys2Proof.Machine.execXst h d a tier s
  | .xsetKern h tier kern => Sys2Proof.Machine.execXsetKern h tier kern s
  | .xsetGamma h a tier => Sys2Proof.Machine.execXsetGamma h a tier s
  | .xsetEta h a tier => Sys2Proof.Machine.execXsetEta h a tier s
  | .xform h d a tier n => Sys2Proof.Machine.execXform h d a tier n s
  | .xm2m h d a tier => Sys2Proof.Machine.execXm2m h d a tier s
  | .xm2l h d a tier => Sys2Proof.Machine.execXm2l h d a tier s
  | .xl2l h d a tier => Sys2Proof.Machine.execXl2l h d a tier s
  | .xeval h a b tier n => Sys2Proof.Machine.execXeval h a b tier n s
  | .xm2p h a b tier n => Sys2Proof.Machine.execXm2p h a b tier n s
  | .xadm h d a b tier => Sys2Proof.Machine.execXadm h d a b tier s
  | .cpy h a scope => Sys2Proof.Machine.execCpy h a scope s
  | .cpys h a scope => Sys2Proof.Machine.execCpys h a scope s
  | .cpyg h a scope => Sys2Proof.Machine.execCpyg h a scope s
  | .stage h a => Sys2Proof.Machine.execStage h a s
  | .coll h a ty scope kind op => Sys2Proof.Machine.execColl h a ty scope kind op s
  | .finst h a => Sys2Proof.Machine.execFinst h a s
  | .fstat h d a => Sys2Proof.Machine.execFstat h d a s
  | .marm h a => Sys2Proof.Machine.execMarm h a s
  | .mwait h d a ne => Sys2Proof.Machine.execMwait h d a ne s
  | .aadd h d a b ty scope k sc => Sys2Proof.Machine.execAadd h d a b ty scope k sc s
  | .amin h d a b ty scope k sc => Sys2Proof.Machine.execAmin h d a b ty scope k sc s
  | .amax h d a b ty scope k sc => Sys2Proof.Machine.execAmax h d a b ty scope k sc s
  | .axchg h d a b ty scope k sc => Sys2Proof.Machine.execAxchg h d a b ty scope k sc s
  | .acas h d a b ty scope k sc => Sys2Proof.Machine.execAcas h d a b ty scope k sc s
  | .aand h d a b ty scope k sc => Sys2Proof.Machine.execAand h d a b ty scope k sc s
  | .aor h d a b ty scope k sc => Sys2Proof.Machine.execAor h d a b ty scope k sc s
  | .slota h d a kind => Sys2Proof.Machine.execSlota h d a kind s
  | .slotf h d a => Sys2Proof.Machine.execSlotf h d a s
  | .rvinit h d a b => Sys2Proof.Machine.execRvinit h d a b s
  | .rvarr h d a => Sys2Proof.Machine.execRvarr h d a s
  | .rvarrEng h d a => Sys2Proof.Machine.execRvarrEng h d a s
  | .rvwait h d a b => Sys2Proof.Machine.execRvwait h d a b s
  | .evsig h d a sc => Sys2Proof.Machine.execEvsig h d a sc s
  | .evwait h d a b => Sys2Proof.Machine.execEvwait h d a b s
  | .mlock h d a => Sys2Proof.Machine.execMlock h d a s
  | .munlk h d a => Sys2Proof.Machine.execMunlk h d a s
  | .acq h d a sc => Sys2Proof.Machine.execAcq h d a sc s
  | .rel h d a sc => Sys2Proof.Machine.execRel h d a sc s
  | .bind h a b scope n => Sys2Proof.Machine.execBind h a b scope n s
  | .fence h scope => Sys2Proof.Machine.execFence h scope s
  | .fencex h scope path p2 => Sys2Proof.Machine.execFencex h scope path p2 s
  | .sleep h a => Sys2Proof.Machine.execSleep h a s
  | .twait h d a b => Sys2Proof.Machine.execTwait h d a b s
  | .idem h => Sys2Proof.Machine.execIdem h s
  | .idemEnd h => Sys2Proof.Machine.execIdemEnd h s
  | .ctxsv h d a all => Sys2Proof.Machine.execCtxsv h d a all s
  | .ctxld h d a all => Sys2Proof.Machine.execCtxld h d a all s
  | .phaseRelease => Sys2Proof.Machine.execPhaseRelease s
  | .releaseNotice => Sys2Proof.Machine.execReleaseNotice s
  | .phaseEnd => Sys2Proof.Machine.execPhaseEnd s
  | .gangBarrierTimeout => Sys2Proof.Machine.execGangBarrierTimeout s
  | .stop => Sys2Proof.Machine.execStop s
  | .groupHalt => Sys2Proof.Machine.execGroupHalt s
  | .preempt => Sys2Proof.Machine.execPreempt s
  | .resumeRequest => Sys2Proof.Machine.execResumeRequest s
  | .thermDelivery => Sys2Proof.Machine.execThermDelivery s
  | .messageArrival => Sys2Proof.Machine.execMessageArrival s
  | .mgetPortRead => Sys2Proof.Machine.execMgetPortRead s
  | .mgetReply => Sys2Proof.Machine.execMgetReply s
  | .msgbPortWrite => Sys2Proof.Machine.execMsgbPortWrite s
  | .ldxReply => Sys2Proof.Machine.execLdxReply s
  | .stxComplete => Sys2Proof.Machine.execStxComplete s
  | .engineMessageArrival => Sys2Proof.Machine.execEngineMessageArrival s
  | .sliceOpStart => Sys2Proof.Machine.execSliceOpStart s
  | .sliceOpComplete => Sys2Proof.Machine.execSliceOpComplete s
  | .mwldComplete => Sys2Proof.Machine.execMwldComplete s
  | .mmasComplete => Sys2Proof.Machine.execMmasComplete s
  | .verticalOpStart => Sys2Proof.Machine.execVerticalOpStart s
  | .verticalOpEnd => Sys2Proof.Machine.execVerticalOpEnd s
  | .rstrMerge => Sys2Proof.Machine.execRstrMerge s
  | .laneStateChange => Sys2Proof.Machine.execLaneStateChange s
  | .expansionOpStart => Sys2Proof.Machine.execExpansionOpStart s
  | .expansionOpEnd => Sys2Proof.Machine.execExpansionOpEnd s
  | .engineCommandStart => Sys2Proof.Machine.execEngineCommandStart s
  | .engineUnit => Sys2Proof.Machine.execEngineUnit s
  | .engineStampWrite => Sys2Proof.Machine.execEngineStampWrite s
  | .staticEntryStart => Sys2Proof.Machine.execStaticEntryStart s
  | .installComplete => Sys2Proof.Machine.execInstallComplete s
  | .collComplete => Sys2Proof.Machine.execCollComplete s
  | .translationWalk => Sys2Proof.Machine.execTranslationWalk s
  | .stagingFill => Sys2Proof.Machine.execStagingFill s
  | .atomicSlot => Sys2Proof.Machine.execAtomicSlot s
  | .clusterAtomicReply => Sys2Proof.Machine.execClusterAtomicReply s
  | .deviceAtomicReply => Sys2Proof.Machine.execDeviceAtomicReply s
  | .objectReply => Sys2Proof.Machine.execObjectReply s
  | .scAnnounce => Sys2Proof.Machine.execScAnnounce s
  | .scDelivery => Sys2Proof.Machine.execScDelivery s
  | .rvRootForward => Sys2Proof.Machine.execRvRootForward s
  | .fireArrival => Sys2Proof.Machine.execFireArrival s
  | .eventChainForward => Sys2Proof.Machine.execEventChainForward s
  | .sleepExpiry => Sys2Proof.Machine.execSleepExpiry s
  | .twaitExpiry => Sys2Proof.Machine.execTwaitExpiry s
  | .faultRecordDrain => Sys2Proof.Machine.execFaultRecordDrain s
  | .taskStart => Sys2Proof.Machine.execTaskStart s
  | .nodeKernel => Sys2Proof.Machine.execNodeKernel s
  | .kernelComplete => Sys2Proof.Machine.execKernelComplete s
  | .nodeCopy => Sys2Proof.Machine.execNodeCopy s
  | .nodeInstall => Sys2Proof.Machine.execNodeInstall s
  | .nodeCond => Sys2Proof.Machine.execNodeCond s
  | .nodeLoop => Sys2Proof.Machine.execNodeLoop s
  | .nodeSwitch => Sys2Proof.Machine.execNodeSwitch s
  | .nodeSignal => Sys2Proof.Machine.execNodeSignal s
  | .signalComplete => Sys2Proof.Machine.execSignalComplete s
  | .nodeWait => Sys2Proof.Machine.execNodeWait s
  | .waitTimeout => Sys2Proof.Machine.execWaitTimeout s
  | .nodeSuccessor => Sys2Proof.Machine.execNodeSuccessor s
  | .taskStampWrite => Sys2Proof.Machine.execTaskStampWrite s
  | .qctlWrite => Sys2Proof.Machine.execQctlWrite s
  | .qptrWrite => Sys2Proof.Machine.execQptrWrite s
  | .partcfgWrite => Sys2Proof.Machine.execPartcfgWrite s
  | .vfbindWrite => Sys2Proof.Machine.execVfbindWrite s
  | .beatctlReqWrite => Sys2Proof.Machine.execBeatctlReqWrite s
  | .beatctlRestore => Sys2Proof.Machine.execBeatctlRestore s
  | .beatChange => Sys2Proof.Machine.execBeatChange s
  | .tctlWrite => Sys2Proof.Machine.execTctlWrite s
  | .pcapWrite => Sys2Proof.Machine.execPcapWrite s
  | .pfloorWrite => Sys2Proof.Machine.execPfloorWrite s
  | .hlimWrite => Sys2Proof.Machine.execHlimWrite s
  | .ibudgetWrite => Sys2Proof.Machine.execIbudgetWrite s
  | .fqctlWrite => Sys2Proof.Machine.execFqctlWrite s
  | .tinv => Sys2Proof.Machine.execTinv s
  | .tinvComplete => Sys2Proof.Machine.execTinvComplete s
  | .routingEntryWrite => Sys2Proof.Machine.execRoutingEntryWrite s
  | .swap => Sys2Proof.Machine.execSwap s
  | .routeBankSwap => Sys2Proof.Machine.execRouteBankSwap s
  | .pstatClr => Sys2Proof.Machine.execPstatClr s
  | .attestRequest => Sys2Proof.Machine.execAttestRequest s
  | .attestComplete => Sys2Proof.Machine.execAttestComplete s
  | .mgmtRegisterWrite => Sys2Proof.Machine.execMgmtRegisterWrite s
  | .initiateFlr => Sys2Proof.Machine.execInitiateFlr s
  | .flrDrainDone => Sys2Proof.Machine.execFlrDrainDone s
  | .flrComplete => Sys2Proof.Machine.execFlrComplete s
  | .sensorSample => Sys2Proof.Machine.execSensorSample s
  | .selfThrottleStep => Sys2Proof.Machine.execSelfThrottleStep s
  | .hardLimitStep => Sys2Proof.Machine.execHardLimitStep s
  | .budgetRefill => Sys2Proof.Machine.execBudgetRefill s
  | .flitReceive => Sys2Proof.Machine.execFlitReceive s
  | .drainMarker => Sys2Proof.Machine.execDrainMarker s
  | .flowLossTimeout => Sys2Proof.Machine.execFlowLossTimeout s
  | .linkEvent => Sys2Proof.Machine.execLinkEvent s
  | .noticeReceive => Sys2Proof.Machine.execNoticeReceive s
  | .retrainComplete => Sys2Proof.Machine.execRetrainComplete s
  | .flowControlSignal => Sys2Proof.Machine.execFlowControlSignal s
  | .powerOn => Sys2Proof.Machine.execPowerOn s
  | .fstatResult => Sys2Proof.Machine.execFstatResult s
  | .partcfgChangeComplete => Sys2Proof.Machine.execPartcfgChangeComplete s
  | .portTrainingComplete => Sys2Proof.Machine.execPortTrainingComplete s
  | .softError => Sys2Proof.Machine.execSoftError s

end Sys2Proof.Machine
end

