-- ==== Sys2Proof/Machine/Sched.lean ====
section
/-! DEFINITION. Which agent acts next: the context that has a core, the tick of its next issue, and the waits that are
looked at every cycle. -/

namespace Sys2Proof.Machine

/-- The ring's order of contexts after the one that last left the core (R25). -/
def ringAfter (i : Nat) : List Nat := if i = 1 then [2, 3, 1] else if i = 2 then [3, 1, 2] else [1, 2, 3]

/-- Waits whose end the core itself looks for every cycle. -/
def Wait.polled : Wait → Bool
  | .fence _ _ _ | .unitOp _ _ _ | .move _ _ _ => true
  | _ => false

/-- A context off the core whose wait is looked at every cycle: the tick of the next look (R422). -/
def Ctx.lookAt (x : Ctx) : Option Nat :=
  match x.run with
  | .gated w => if w.polled then some x.readyAt else none
  | _ => none

/-- The Ready context the ring selects for a core that none holds, with the tick its two switch cycles begin (R25). -/
def Core.select (c : Core) : Option (Nat × Nat) :=
  let rs := (ringAfter c.ctl.last).filter (fun i => (c.ctx i).run == .ready)
  match rs with
  | [] => none
  | r :: rest =>
    let first := rest.foldl (fun m i => min m (c.ctx i).readyAt) (c.ctx r).readyAt
    let t := max c.ctl.issueAt first
    (rs.find? (fun i => decide ((c.ctx i).readyAt ≤ t))).map (fun i => (t, i))

/-- The next issue of c0 in a phase (R27, R30, R37). -/
def State.nextTimed (s : State) (k : Nat) (p : Phase) : Option (Nat × Nat) :=
  let c := (s.core k).ctl
  if !p.active then none
  else if p.slaved ∧ p.skew ≠ 0 then c.fifo.head?.map (fun f => (f.at_, 0))
  else if s.atHeader k then none
  else if p.start + p.len * cyc k ≤ c.issueAt then none
  else some (c.issueAt, 0)

/-- A leader of a slaved gang issues nothing in the last C − 1 cycles of a phase, so that its last follower still issues
within it (R38). -/
def State.leaderLate (s : State) (k i : Nat) : Bool :=
  let c := (s.core k).ctl
  match c.phase with
  | some p => i == 0 && c.handling.isNone && p.slaved && p.skew == 0
      && decide (p.start + p.len * cyc k ≤ s.now + (Config.clusterSide (tierOf k) - 1) * cyc k)
  | none => false

/-- The tick and context of a core's next issue or look at a wait. -/
def State.nextIssue (s : State) (k : Nat) : Option (Nat × Nat) :=
  let c := s.core k
  if c.ctl.stopped ∧ c.ctl.handling.isNone then none
  else match (c.ctx 0).run with
  | .running =>
    (match c.ctl.phase, c.ctl.handling with
      | some p, none => s.nextTimed k p
      | _, _ => some (c.ctl.issueAt, 0))
  | .held w => if w.polled then some (c.ctl.issueAt, 0) else none
  | _ =>
    if c.ctl.frozen ∨ c.ctl.handling.isSome then none
    else match c.ctl.turn with
    | some i =>
      (match (c.ctx i).run with
        | .running => some (c.ctl.issueAt, i)
        | .held w => if w.polled then some (c.ctl.issueAt, i) else none
        | _ => none)
    | none => c.select.map (fun p => (p.1 + 2 * cyc k + s.gapAt k (c.ctx p.2).pc.toNat * cyc k, p.2))

/-- The earlier of two ticks that may be absent. -/
def minTick : Option Nat → Option Nat → Option Nat
  | none, b => b
  | a, none => a
  | some a, some b => some (min a b)

/-- The next look at a context of a core that is off it. -/
def Core.nextLook (c : Core) : Option Nat :=
  [0, 1, 2, 3].foldl (fun m i => minTick m (c.ctx i).lookAt) none

/-- The tick at which a core does something: a result takes effect, a wait is looked at, or a context issues. -/
def State.nextCoreTick (s : State) (k : Nat) : Option Nat :=
  minTick (minTick ((s.core k).pend.head?.map (·.due)) (s.core k).nextLook) ((s.nextIssue k).map (·.1))

/-- The earliest core, the lowest number among equals. -/
def State.nextCore (s : State) : Option (Nat × Nat) :=
  s.cores.foldl (fun (m : Option (Nat × Nat)) (e : Nat × Core) =>
    match s.nextCoreTick e.1, m with
    | none, m => m
    | some t, none => some (t, e.1)
    | some t, some (u, k) => if t < u then some (t, e.1) else some (u, k)) none

/-- The context that issues takes the core (R25). -/
def State.take (s : State) (k i : Nat) : State :=
  if i = 0 then s
  else s.modCore k (fun c =>
    let c := if (c.ctx i).run = .ready then c.modCtx i (fun x => { x with run := .running }) else c
    { c with ctl := { c.ctl with turn := some i } })

/-- The next look at a wait: at its own tick for a context that keeps the core, else kept with the context. -/
def State.lookAgain (s : State) (q : Nat × Nat) (t : Nat) : State :=
  match (s.ctx q).run with
  | .held _ => s.modCtl q.1 (fun c => { c with issueAt := t })
  | _ => s.modCtx q (fun x => { x with readyAt := t })

/-- A look at a wait that has no event of its own: it is over and its results are written, or it is looked at again. A fence
of scope core on LS, MS, VT or MX waits for no access (R339). -/
def State.look (s : State) (q : Nat × Nat) (w : Wait) : State :=
  let result (due : Nat) (d : Reg) (v : DWord) : State :=
    if due ≤ s.now then s.finish q (scalarAct (tierOf q.1) (s.ctx q) d v) else s.lookAgain q due
  match w with
  | .unitOp due d v => result due d v
  | .move due d v => result due d v
  | .fence p scope least =>
    if least ≤ s.now ∧ ((scope = .core ∧ timedPath p) ∨ !s.pathOut q p) then s.finish q [] else s.lookAgain q (s.now + cyc q.1)
  | _ => s.lookAgain q (s.now + cyc q.1)

/-- The looks due by a tick at contexts that are off their core. -/
def State.looks (s : State) (k t : Nat) : State :=
  [0, 1, 2, 3].foldl (fun s i => match (s.ctx (k, i)).lookAt, (s.ctx (k, i)).run with
    | some u, .gated w => if u ≤ t then s.look (k, i) w else s
    | _, _ => s) s

end Sys2Proof.Machine
end

