-- ==== Sys2Proof/Machine/Run.lean ====
section
/-! DEFINITION. The acts that a step is made of: an issue, an act of a core, a step of another agent, the flush of the
event units, and which of them comes next. -/

namespace Sys2Proof.Machine

/-- A context issues at the present tick: a trap met in fetching is taken, an instruction is executed. -/
def issueAt (s : State) (k i : Nat) : Host.Outcome State Fault Refusal :=
  let s := { (s.take k i) with cur := (k, i), event := none }
  match (s.ctx (k, i)).run with
  | .held w => .next (s.look (k, i) w)
  | _ =>
    if s.leaderLate k i then .next (s.takeTrap (k, i) (s.issuedWord (k, i)) (.timing 4))
    else match s.fetch (k, i) with
    | .error tr => .next (s.trapAtFetch (k, i) tr)
    | .ok ins => exec ins s

/-- A core acts at a tick: its results due take effect, waits are looked at, and if a context's issue falls there, it
issues. -/
def coreStep (s : State) (t k : Nat) : Host.Outcome State Fault Refusal :=
  let s := { s with now := max s.now t }
  let s := (s.settle k s.now).looks k s.now
  match s.nextIssue k with
  | some (u, i) => if u ≤ s.now then issueAt s k i else .next s
  | none => .next s

/-- A step of another agent, taken off the agenda. -/
def eventStep (s : State) (e : Due) (r : List Due) : Host.Outcome State Fault Refusal :=
  exec e.ev.row { s with now := max s.now e.at_, agenda := r, event := some e.ev }

/-- The earliest of the agenda's head and the cores' next acts, at one tick the agenda's writes and arrivals, then the cores,
then what reads (R179); where nothing is due, a beat passes. `ev` executes the agenda's head. -/
def stepAgentsBy (ev : State → Due → List Due → Host.Outcome State Fault Refusal) (s : State) :
    Host.Outcome State Fault Refusal :=
  match s.agenda, s.nextCore with
  | [], none => .next { s with now := s.now + Config.ticksPerBeat }
  | e :: r, none => ev s e r
  | [], some (t, k) => coreStep s t k
  | e :: r, some (t, k) => if e.at_ < t ∨ (e.at_ = t ∧ evRank e.ev < readRank) then ev s e r else coreStep s t k

/-- The tick of the earliest act of an agent or a core. -/
def State.nextAct (s : State) : Option Nat := minTick (s.agenda.head?.map (·.at_)) (s.nextCore.map (·.1))

/-- What acts next: event units whose cycle is over take effect first, in the cycle's last tick (R227, R233); then the earliest
agent or core. -/
def actBy (ev : State → Due → List Due → Host.Outcome State Fault Refusal) (s : State) : Host.Outcome State Fault Refusal :=
  match s.unitsOver with
  | none => stepAgentsBy ev s
  | some e =>
    if (match s.nextAct with | none => true | some t => decide (e ≤ t)) then
      .next (({ s with now := max s.now (e - 1) } : State).flushUnits e)
    else stepAgentsBy ev s

/-! ## Looking ahead

Two rules give a cycle an effect of what the machine does later, or later in the same tick: a member of a gang traps at its own
time for a line that another would assert only after it (R121), and an atomic's slot is skipped when a superstep is released in its
last cycle (R237). The step looks ahead for the one fact that the rule asks for; nothing else of the look is kept (log 26). -/

/-- The acts of the machine up to and with a tick; `fuel` bounds their number. -/
def aheadTo (t : Nat) : Nat → State → State
  | 0, s => s
  | n + 1, s =>
    match s.nextAct with
    | some u => if u ≤ t then (match actBy eventStep s with
        | .next s' => aheadTo t n s'
        | _ => s) else s
    | none => s

/-- The most acts that a look ahead takes. -/
def lookFuel : Nat := 2 ^ 24

/-- A member whose GANG is acted on knows whether its barrier will have lacked a line when it closes (R121). -/
def State.seeGang (s : State) (k : Nat) : State :=
  let lead := leadTick s k (s.now - 3 * cyc k)
  let bare := { s with agenda := s.agenda.filter (fun e => match e.ev with
    | .gangBarrierTimeout _ => false
    | _ => true) }
  let short := (aheadTo (gangClose k lead) lookFuel bare).gangShort k lead
  s.modSlice k (fun l => { l with short := short })

/-- A bank whose group's superstep is released at this tick skips its slots from now on (R237). -/
def State.seeRelease (s : State) (home : Nat) : State :=
  match (s.core home).ctl.kernel with
  | none => s
  | some kid =>
    let due := s.agenda.any (fun e => decide (e.at_ ≤ s.now) && (match e.ev with
      | .phaseRelease i _ ph => i == kid && ph == 0
      | _ => false))
    if due && ((aheadTo s.now lookFuel s).core home).ctl.skip then s.modCtl home (fun c => { c with skip := true }) else s

/-- What a step of another agent needs of the future is looked for. -/
def State.foresee (s : State) : Event → State
  | .gangBarrierTimeout k => s.seeGang k
  | .atomicSlot r => match r.home with
    | some home => s.seeRelease home
    | none => s
  | _ => s

/-- The step of another agent that heads the agenda, with what it needs of the future. -/
def foreseenStep (s : State) (e : Due) (r : List Due) : Host.Outcome State Fault Refusal :=
  exec e.ev.row { ({ s with now := max s.now e.at_, agenda := r } : State).foresee e.ev with event := some e.ev }

/-- The earliest act of the machine, of an agent or a core. -/
def stepAgents (s : State) : Host.Outcome State Fault Refusal := stepAgentsBy foreseenStep s

/-- What acts next. -/
def act (s : State) : Host.Outcome State Fault Refusal := actBy foreseenStep s

/-- The words of an instruction placed in an instruction store from word 0 on: the first tagged as a start, the others
untagged (R82). -/
def placeWords (st : Sparse (Word × Bool)) (i : Nat) : List Word → Sparse (Word × Bool)
  | [] => st
  | w :: r => placeWords (sset (0, false) st i (w, i == 0)) (i + 1) r

end Sys2Proof.Machine
end

