-- ==== Sys2Proof/Machine/Step.lean ====
section
/-! DEFINITION. One step of the machine, and the placing of one instruction where the next step fetches it. -/

namespace Sys2Proof.Machine

/-- ONE STEP of the machine. -/
def step (s : State) : Host.Outcome State Fault Refusal := act s

/-- The state with one instruction where the next step fetches it: words 0 to 4 of core 0's instruction store, c1 of core
0 Running there and about to issue, every other core and every agenda entry at rest (log 3). -/
def State.withFetchWord (s : State) (nbits w : Nat) : State :=
  let c := s.core 0
  let x := c.ctx 1
  let c' : Core := { c with
    store := placeWords c.store 0 (wordsOf 5 (w % 2 ^ nbits))
    pend := []
    ctl := { c.ctl with turn := some 1, issueAt := s.now, frozen := false, stopped := false, handling := none } }
  let c' := c'.setCtx 1 { x with pc := 0, run := .running, rep := none, sig := 0, sigEnd := none }
  let c' := c'.modCtx 0 (fun y => { y with run := .halted })
  { s with cores := [(0, c')], agenda := [], units := [] }

end Sys2Proof.Machine
end

