-- ==== Sys2Proof/Safety.lean ====
section
/-! DEFINITION. What counts as a safe run: the forms the state keeps. -/

namespace Sys2Proof.Machine

/-- The canonical form of a byte memory: addresses strictly rising, and no entry equal to what an unlisted address reads
as (log 1). -/
abbrev Memory.wf (m : Sparse Byte) : Bool := swf 0 m

end Sys2Proof.Machine

namespace Sys2Proof.Safety

open Sys2Proof.Machine

/-- A checkpoint's registers are in canonical form. -/
def ckptCanonical (k : Option Checkpoint) : Bool :=
  match k with
  | none => true
  | some k => swf 0 k.g

/-- Every sparse piece of a context's data is in canonical form, the checkpoint of an open region included. -/
def ctxCanonical (x : Ctx) : Bool :=
  swf 0 x.g && swf 0 x.stack && swf 0 x.v && swf .reset x.m && ckptCanonical (x.region.map (·.ckpt))

/-- Every sparse piece of a core's memories is in canonical form, its contexts and its superstep's checkpoint included. -/
def coreCanonical (c : Core) : Bool :=
  Memory.wf c.near && swf 0 c.poison && swf (0, false) c.store && swf .reset c.ctxs
    && c.ctxs.all (fun e => ctxCanonical e.2) && ckptCanonical c.ctl.ckpt

/-- Memory in canonical form: near memory, poison, instruction store and registers of every core, and far memory. -/
def memoryCanonical (s : State) : Bool :=
  swf .reset s.cores && s.cores.all (fun e => coreCanonical e.2) && Memory.wf s.dev.far

/-! ## Frames -/

/-- One byte of a core's near memory. -/
def nearByte (s : State) (k a : Nat) : Byte := sget 0 (s.core k).near a

/-- One byte of far memory, by physical address. -/
def farByte (s : State) (pa : Nat) : Byte := sget 0 s.dev.far pa

/-- A context but for its place in the program and its turn on the core: program counter, repetition, the block's
signature, and where it stands. -/
def placeless (x : Ctx) : Ctx := { x with pc := 0, rep := none, sig := 0, sigEnd := none, run := .halted, readyAt := 0 }

/-- A core's control but for the turn, the tick of the next issue, what a leader forwarded, and the units' use records. -/
def paceless (c : Ctl) : Ctl :=
  { c with turn := none, last := 0, issueAt := 0, fifo := [], vunit := ⟨0, 0⟩, munit := ⟨0, 0⟩, xunit := ⟨0, 0⟩ }

/-- A core but for its contexts, its bytes and its pace. -/
def coreRest (c : Core) : Core := { c with near := [], ctxs := [], ctl := paceless c.ctl }

/-- What an instruction may write beside its context's place and the core's pace: pieces of its context, of its core and
of the machine are hidden by a function each; `bytes` names the near addresses it stores to. -/
structure Writes where
  ctx     : Ctx → Ctx := id
  core    : Core → Core := id
  machine : State → State := id
  bytes   : Nat → Bool := fun _ => false

/-- THE FRAME of an instruction of the context `cur`: but for what `w` names, the machine, every other core, every other
context of the core, the context itself and every byte of memory are as before. -/
structure Frame (w : Writes) (s t : State) : Prop where
  machine  : w.machine { t with cores := [] } = w.machine { s with cores := [] }
  cur      : t.cur = s.cur
  others   : ∀ k, k ≠ s.cur.1 → { t.core k with ctl := { (t.core k).ctl with fifo := [] } }
    = { s.core k with ctl := { (s.core k).ctl with fifo := [] } }
  contexts : ∀ i, i ≠ s.cur.2 → (t.core s.cur.1).ctx i = (s.core s.cur.1).ctx i
  context  : w.ctx (placeless (t.ctx s.cur)) = w.ctx (placeless (s.ctx s.cur))
  core     : w.core (coreRest (t.core s.cur.1)) = w.core (coreRest (s.core s.cur.1))
  bytes    : ∀ a, w.bytes a = false → nearByte t s.cur.1 a = nearByte s s.cur.1 a

/-- A step answers a next state that has a property. -/
def Answers (o : Host.Outcome State Fault Refusal) (p : State → Prop) : Prop := ∃ t, o = .next t ∧ p t

/-- The tick at which a result of the issuing context is readable. -/
def dueAt (s : State) (lat : Nat) : Nat := s.now + lat * cyc s.cur.1

/-- Results under way after an instruction: its own are there when they take more than a cycle; of the older ones only
those of the same place give way, in c1–c3 (R26, R305). -/
structure UnderWay (s : State) (lat : Nat) (as_ : List Act) (t : State) : Prop where
  own   : 1 < lat → ∀ a ∈ as_, ⟨dueAt s lat, s.cur.2, a⟩ ∈ (t.core s.cur.1).pend
  only  : ∀ p ∈ (t.core s.cur.1).pend, p ∈ (s.core s.cur.1).pend ∨
    (1 < lat ∧ p.due = dueAt s lat ∧ p.ctx = s.cur.2 ∧ p.act ∈ as_)
  kept  : ∀ p ∈ (s.core s.cur.1).pend, p ∈ (t.core s.cur.1).pend ∨
    (s.cur.2 ≠ 0 ∧ p.ctx = s.cur.2 ∧ ∃ a ∈ as_, sameTarget a p.act = true)

/-- Scalar registers of the context, and results under way. -/
def scalarWrites : Writes where
  ctx := fun x => { x with g := [], stack := [] }
  core := fun c => { c with pend := [] }

/-- AN INSTRUCTION GIVES A SCALAR RESULT: it answers a next state in which register `d` reads as `v`, at once for a
latency of one cycle, at its tick otherwise; g0 takes nothing; every other register and everything else is as before. -/
def GivesScalar (s : State) (lat : Nat) (d : Reg) (v : DWord) (o : Host.Outcome State Fault Refusal) : Prop :=
  Answers o (fun t => Frame scalarWrites s t
    ∧ (∀ r, rv t r = if lat ≤ 1 ∧ r = d ∧ d ≠ 0 then v else rv s r)
    ∧ UnderWay s lat (toReg s d v) t)

/-- AN INSTRUCTION GIVES A PREDICATE at latency one; p0 takes nothing. -/
def GivesPred (s : State) (d : PredReg) (b : Bool) (o : Host.Outcome State Fault Refusal) : Prop :=
  Answers o (fun t => Frame { ctx := fun x => { x with p := 0 }, core := fun c => { c with pend := [] } } s t
    ∧ (∀ p, pv t p = if p = d ∧ d ≠ 0 then b else pv s p)
    ∧ UnderWay s 1 (predAct d b) t)

/-- AN INSTRUCTION PUTS RESULTS UNDER WAY that change nothing at issue: every register and every byte is as before. -/
def GivesLater (s : State) (lat : Nat) (as_ : List Act) (o : Host.Outcome State Fault Refusal) : Prop :=
  Answers o (fun t => Frame { core := fun c => { c with pend := [] } } s t ∧ UnderWay s lat as_ t)

/-- A vector register of the context, and results under way. -/
def vecWrites : Writes where
  ctx := fun x => { x with v := [] }
  core := fun c => { c with pend := [] }

/-- AN INSTRUCTION GIVES A VECTOR REGISTER at latency one. -/
def GivesVec (s : State) (d : VecReg) (v : Line) (o : Host.Outcome State Fault Refusal) : Prop :=
  Answers o (fun t => Frame vecWrites s t ∧ (∀ r, vv t r = if r = d then v else vv s r)
    ∧ UnderWay s 1 [.vec d.toNat v] t)

/-! ## The place of a context -/

/-- The issuing context goes where its own instruction leads: it is no follower that takes its leader's stream (R37). -/
def ownPath (s : State) : Prop := s.cur.2 = 0 → (s.core s.cur.1).ctl.fifo = []

/-- The program counter of the issuing context of `s` in `t` is `a`, unless it follows its leader. -/
def GoesTo (s t : State) (a : Nat) : Prop := ownPath s → (t.ctx s.cur).pc = BitVec.ofNat 32 a

/-- c0 follows its leader in a slaved phase: `f` heads its network, `r` stands behind it (R37). -/
def Follower (s : State) (f : Fwd) (r : List Fwd) : Prop :=
  s.cur.2 = 0 ∧ (s.core s.cur.1).ctl.handling = none ∧ (s.core s.cur.1).ctl.fifo = f :: r
    ∧ ∃ p, (s.core s.cur.1).ctl.phase = some p ∧ p.slaved = true ∧ p.skew ≠ 0

/-- The address behind an instruction of `len` words: a SIG word there is stepped over (R27, R84). -/
def behind (s : State) (len : Nat) : Nat := s.skipSig s.cur.1 (pcv s + 4 * len)

/-- A TRANSFER IS TAKEN to an address, with nothing else changed. -/
def Transfers (s : State) (a : Nat) (o : Host.Outcome State Fault Refusal) : Prop :=
  Answers o (fun t => Frame {} s t ∧ GoesTo s t a)

/-- A TRAP IS TAKEN by the instruction that issues: nothing of its own effect happens. -/
def Traps (s : State) (tr : Trap) (o : Host.Outcome State Fault Refusal) : Prop :=
  o = .next (s.takeTrap s.cur (s.issuedWord s.cur) tr)

/-- The window of the issuing context: WBASE, FRAME and its stack. -/
def windowWrites : Writes where
  ctx := fun x => { x with wbase := 0, frame := 0, stack := [] }
  core := fun c => { c with pend := [] }

/-- A CALL IS TAKEN to an address by an instruction of `len` words (R66): the new window, the link word in w7, the other
stack entries as before. -/
def Calls (s : State) (len a : Nat) (o : Host.Outcome State Fault Refusal) : Prop :=
  Answers o (fun t =>
    let x := s.ctx s.cur
    let nb := x.wbase.toNat + x.frame - 8
    Frame windowWrites s t ∧ GoesTo s t a
    ∧ (t.ctx s.cur).wbase = BitVec.ofNat 32 nb ∧ (t.ctx s.cur).frame = 24
    ∧ rv t linkReg = BitVec.ofNat 64 (x.frame * 2 ^ 32 + (pcv s + 4 * len) % 2 ^ 32)
    ∧ ∀ e, e ≠ (nb + 7) % Config.stackSize s.tier → sget 0 (t.ctx s.cur).stack e = sget 0 x.stack e)

/-- A call neither passes the range of WBASE nor spills (R66). -/
def callFits (s : State) : Prop :=
  let x := s.ctx s.cur
  let nb := x.wbase.toNat + x.frame - 8
  nb ≤ 0xFFFFFFE7 ∧ nb + 24 ≤ x.vlo.toNat + Config.stackSize s.tier

/-- FRAME becomes `f`, and nothing else changes. -/
def SetsFrame (s : State) (f : Nat) (o : Host.Outcome State Fault Refusal) : Prop :=
  Answers o (fun t => Frame { ctx := fun x => { x with frame := 0 } } s t ∧ (t.ctx s.cur).frame = f)

/-! ## Near memory -/

/-- THE CHECKS OF R176 on `n` bytes from an exact address, in their order, then what follows when they pass. -/
def Checked (s : State) (win : Window) (store : Bool) (ea : Int) (n align : Nat) (o : Host.Outcome State Fault Refusal)
    (good : Nat → Prop) : Prop :=
  let lo : Int := win.lo s.tier
  let hi : Int := win.hi s.tier
  let guarded : Int := Config.statusBase s.tier + (if store then 0 else 64)
  (ea % align ≠ 0 → Traps s ⟨.align, 0, BitVec.ofInt 64 ea, false⟩ o)
  ∧ (ea % align = 0 → ea < lo ∨ hi ≤ ea → Traps s ⟨.bankrange, 0, BitVec.ofInt 64 ea, false⟩ o)
  ∧ (ea % align = 0 → lo ≤ ea → ea < hi → hi < ea + n → Traps s ⟨.bankrange, 0, BitVec.ofInt 64 hi, false⟩ o)
  ∧ (ea % align = 0 → lo ≤ ea → ea < hi → ea + n ≤ hi → s.cur.2 ≠ 0 → win = .ownBank → guarded < ea + n →
      Traps s ⟨.priv, 0, BitVec.ofInt 64 (max ea guarded), false⟩ o)
  ∧ (ea % align = 0 → lo ≤ ea → ea < hi → ea + n ≤ hi → s.cur.2 = 0 ∨ win = .localStore ∨ ea + n ≤ guarded →
      ∀ a : Nat, (a : Int) = ea → good a)

/-- No word that `n` bytes from `a` touch holds an error. -/
def cleanWords (s : State) (a n : Nat) : Prop := ∀ w, a / 4 ≤ w → 4 * w < a + n → sget 0 (s.core s.cur.1).poison w = 0

/-- Word `i` of the issuing core is uncorrectable: neither good nor with an error of a single bit (R178). -/
abbrev badWord (s : State) (i : Nat) : Prop :=
  sget 0 (s.core s.cur.1).poison i ≠ 0 ∧ sget 0 (s.core s.cur.1).poison i ≠ 2

/-- `w` is the address of the first uncorrectable word that `n` bytes from `a` touch. -/
def firstBadWord (s : State) (a n w : Nat) : Prop :=
  ∃ i, w = 4 * i ∧ a / 4 ≤ i ∧ 4 * i < a + n ∧ badWord s i ∧ ∀ j, a / 4 ≤ j → j < i → ¬ badWord s j

/-- No word that `n` bytes from `a` touch is uncorrectable. -/
def readable (s : State) (a n : Nat) : Prop := ∀ w, a / 4 ≤ w → 4 * w < a + n → ¬ badWord s w

/-- The words with a single-bit error that `n` bytes from `a` touch. -/
def softCount (s : State) (a n : Nat) : Nat :=
  ((List.range ((a + n + 3) / 4 - a / 4)).filter (fun i => sget 0 (s.core s.cur.1).poison (a / 4 + i) == 2)).length

/-- The columns are as before, but for the corrected words that the issuing core's column counts (R178). -/
def Counts (s t : State) (hits : Nat) : Prop := ∀ j, t.col j =
  if j = Machine.columnOf s.cur.1 then { s.col j with corrected := (s.col j).corrected + hits } else s.col j

/-- The machine but for its columns. -/
def colless (s : State) : State := { s with cols := [] }

/-- Results under way, and words corrected and counted on the way; nothing else changes at issue. -/
def GivesCounted (s : State) (lat : Nat) (as_ : List Act) (hits : Nat) (o : Host.Outcome State Fault Refusal) : Prop :=
  Answers o (fun t => Frame { core := fun c => { c with pend := [] }, machine := colless } s t ∧ Counts s t hits
    ∧ UnderWay s lat as_ t)

/-- A READ THAT MEETS SINGLE-BIT ERRORS AND NONE WORSE has its results all the same, and each word is counted in the column's
counter (R178). -/
def Corrects (s : State) (a n lat : Nat) (as_ : List Act) (o : Host.Outcome State Fault Refusal) : Prop :=
  readable s a n → GivesCounted s lat as_ (softCount s a n) o

/-- The number that `n` bytes from `a` of a core hold, little-endian (R1). -/
def coreNat (s : State) (k a n : Nat) : Nat := leNat ((List.range n).map (fun i => nearByte s k (a + i)))

/-- The number that `n` bytes from `a` of the issuing core hold. -/
def nearNat (s : State) (a n : Nat) : Nat := coreNat s s.cur.1 a n

/-- ECCU of an uncorrectable word, imprecise where it carries the poison pattern (R178, R252). -/
def eccuOf (s : State) (w : Nat) : Trap :=
  ⟨.eccu, 0, BitVec.ofNat 64 w, decide (sget 0 (s.core s.cur.1).poison (w / 4) = 3)⟩

/-- A SCALAR LOAD of `w` bits (R321, R347). -/
def Loads (s : State) (len : Nat) (h : Hdr) (win : Window) (w : Nat) (signed : Bool) (d a : Reg) (off : Int)
    (o : Host.Outcome State Fault Refusal) : Prop :=
  ∀ ea : Int, ea = (rv s a).toNat + off →
    Ready { len := len, hdr := h, rs := [a], rd := [d], bytes := if 0 ≤ ea then [(ea.toNat, w / 8)] else [] } s →
    Checked s win false ea (w / 8) (w / 8) o (fun b =>
      (∀ bad, firstBadWord s b (w / 8) bad → Traps s (eccuOf s bad) o)
      ∧ (cleanWords s b (w / 8) →
        let v : BitVec w := BitVec.ofNat w (nearNat s b (w / 8))
        GivesScalar s (win.latency s.tier) d (if signed then v.signExtend 64 else v.setWidth 64) o)
      ∧ (let v : BitVec w := BitVec.ofNat w (nearNat s b (w / 8))
        Corrects s b (w / 8) (win.latency s.tier) (toReg s d (if signed then v.signExtend 64 else v.setWidth 64)) o))

/-- The bytes of a register's low `n` bytes, the lowest first (R1). -/
def regBytes (v : DWord) (n : Nat) : List Byte := (List.range n).map (fun i => v.extractLsb' (8 * i) 8)

/-- A SCALAR STORE of `w` bits (R321, R382, R383): its bytes are under way to the address; a store narrower than a word
takes a cycle more. -/
def Stores (s : State) (len : Nat) (h : Hdr) (win : Window) (w : Nat) (d a : Reg) (off : Int)
    (o : Host.Outcome State Fault Refusal) : Prop :=
  let sub := decide (w < 32)
  ∀ ea : Int, ea = (rv s a).toNat + off →
    Ready { len := len, hdr := h, rs := [a, d], stored := if 0 ≤ ea then [(ea.toNat, w / 8)] else [], occ := if sub then 2 else 1 } s →
    Checked s win true ea (w / 8) (w / 8) o (fun b =>
      GivesLater s (win.latency s.tier + if sub then 1 else 0) [.store b (regBytes (rv s d) (w / 8)) sub] o)

/-- A vector result that is readable at a latency above one cycle: nothing else changes at issue. -/
def VLoads (s : State) (len : Nat) (h : Hdr) (win : Window) (d : VecReg) (a : Reg) (off : Int)
    (o : Host.Outcome State Fault Refusal) : Prop :=
  ∀ ea : Int, ea = (rv s a).toNat + off →
    Ready { len := len, hdr := h, rs := [a], bytes := if 0 ≤ ea then [(ea.toNat, 64)] else [] } s →
    Checked s win false ea 64 4 o (fun b =>
      (∀ bad, firstBadWord s b 64 bad → Traps s (eccuOf s bad) o)
      ∧ (cleanWords s b 64 → GivesLater s (win.latency s.tier) [.vec d.toNat (BitVec.ofNat 512 (nearNat s b 64))] o)
      ∧ Corrects s b 64 (win.latency s.tier) [.vec d.toNat (BitVec.ofNat 512 (nearNat s b 64))] o)

/-- A WHOLE-REGISTER STORE (R396). -/
def VStores (s : State) (len : Nat) (h : Hdr) (win : Window) (d : VecReg) (a : Reg) (off : Int)
    (o : Host.Outcome State Fault Refusal) : Prop :=
  ∀ ea : Int, ea = (rv s a).toNat + off →
    Ready { len := len, hdr := h, rs := [a], vs := [d], stored := if 0 ≤ ea then [(ea.toNat, 64)] else [] } s →
    Checked s win true ea 64 4 o (fun b =>
      GivesLater s (win.latency s.tier)
        [.store b ((List.range 64).map (fun i => (vv s d).extractLsb' (8 * i) 8)) false] o)

/-! ## Exceptions -/

/-- The fields of a context's slot (R254). -/
structure SlotHolds (t : State) (k i : Nat) (cause : DWord) (pc resume : Nat) (addr : DWord) (word : Word) (kind n : Nat)
    (rep : DWord) (beat : Nat) : Prop where
  cause  : coreNat t k (slotAddr (Machine.tierOf k) i) 8 = cause.toNat
  pc     : coreNat t k (slotAddr (Machine.tierOf k) i + 8) 4 = pc % 2 ^ 32
  resume : coreNat t k (slotAddr (Machine.tierOf k) i + 12) 4 = resume % 2 ^ 32
  addr   : coreNat t k (slotAddr (Machine.tierOf k) i + 16) 8 = addr.toNat
  word   : coreNat t k (slotAddr (Machine.tierOf k) i + 24) 4 = word.toNat
  kind   : coreNat t k (slotAddr (Machine.tierOf k) i + 28) 4 = kind + 4 * (n % 1024)
  rep    : coreNat t k (slotAddr (Machine.tierOf k) i + 32) 8 = rep.toNat
  beat   : coreNat t k (slotAddr (Machine.tierOf k) i + 40) 8 = beat % 2 ^ 64

/-- c0 of a core is free for an entry: not Handling, in no phase, and no other entry waits (R23, R255). -/
def c0Free (s : State) (k : Nat) : Prop :=
  (s.core k).ctl.handling = none ∧ (s.core k).ctl.phase = none ∧ (s.core k).ctl.waiting = []

/-- c0 of a core has entered Handling of context `i`'s slot at the vector `v`, a multiple of 4 (R63): the trap registers hold the slot's fields, c0's own
state is kept when the entry is another context's (R255, R424). -/
structure Handles (s t : State) (k i v : Nat) (cause : DWord) (pc : Nat) (addr : DWord) (word : Word) : Prop where
  handling : (t.core k).ctl.handling = some i
  at_      : (t.ctx (k, 0)).pc = BitVec.ofNat 32 (v / 4 * 4)
  runs     : (t.ctx (k, 0)).run = .running
  cause    : (t.core k).ctl.cause = cause
  tpc      : (t.core k).ctl.tpc = BitVec.ofNat 32 pc
  taddr    : (t.core k).ctl.taddr = addr
  tword    : (t.core k).ctl.tword = word
  trapped  : i ≠ 0 → (t.ctx (k, i)).run = .trapped
  kept     : i ≠ 0 → (s.core k).ctl.kept = none → (t.core k).ctl.kept = some ((s.ctx (k, 0)).run, (s.ctx (k, 0)).pc)

/-- A TRAP OF CONTEXT `i` ENDS ITS TASK WITH FATAL (R253, R258, R307): the record is queued in the cluster's buffer; the kernel that
loaded the context is over and every context it loaded is Halted, its c0s in no phase; where no kernel loaded it, it alone is Halted
(log 18); no byte changes. -/
structure EndsTask (s t : State) (k i : Nat) (r : FaultRec) : Prop where
  recorded : sget [] t.bufs (clusterKey k) = sget [] s.bufs (clusterKey k) ++ [r]
  bytes    : ∀ j b, nearByte t j b = nearByte s j b
  alone    : (if i = 0 then (s.core k).ctl.kernel else (s.ctx (k, i)).kernel) = none →
    (t.ctx (k, i)).run = .halted ∧ ∀ j, j ≠ k → t.core j = s.core j
  kernel   : ∀ kid, (if i = 0 then (s.core k).ctl.kernel else (s.ctx (k, i)).kernel) = some kid →
    (∀ kn, s.kernel kid = some kn → t.kernel kid = some { kn with fatal := true, stage := .done })
    ∧ (∀ j, (s.core j).ctl.kernel = some kid → (t.ctx (j, 0)).run = .halted ∧ (t.core j).ctl.phase = none
      ∧ (t.core j).ctl.handling = none ∧ (t.core j).ctl.kernel = none)
    ∧ ∀ j c, c ∈ [1, 2, 3] → (s.ctx (j, c)).kernel = some kid → (t.ctx (j, c)).run = .halted

/-- But for the place of its contexts, a core's registers, and every byte outside the 64 bytes of context `i`'s slot, are as
before; so is every other core. -/
structure OnlySlot (s t : State) (k i : Nat) : Prop where
  contexts : ∀ j, placeless ((t.core k).ctx j) = placeless ((s.core k).ctx j)
  bytes    : ∀ b, b < slotAddr (Machine.tierOf k) i ∨ slotAddr (Machine.tierOf k) i + 64 ≤ b → nearByte t k b = nearByte s k b
  others   : ∀ j, j ≠ k → t.core j = s.core j
  machine  : { t with cores := [] } = { s with cores := [] }

/-! ## Vectors -/

/-- A vector instruction's need: format X, the vector unit. -/
def vecNeed (h : Hdr) (tier : Option (BitVec 2)) (rs rd : List Reg) (vs : List VecReg) (occ : Nat) : Need :=
  { len := 3, hdr := h, tier := tier, rs := rs, rd := rd, vs := vs, unit := some .vector, occ := occ }

/-- Lane `l` of a vector operand. -/
def vl (s : State) (w : Nat) (v : VecReg) (l : Nat) : Nat := (vv s v).toNat / 2 ^ (w * l) % 2 ^ w

/-- AN INSTRUCTION GIVES A VECTOR OF LANES of width `w` at a latency above one cycle: lane l holds `f l`, and the flags of
all lanes, ORed, reach FLAGS with it (R95, R391). -/
def GivesLanes (s : State) (lat : Nat) (d : VecReg) (w : Nat) (f : Nat → Res Nat) (o : Host.Outcome State Fault Refusal) : Prop :=
  let rs := (List.range (512 / w)).map f
  let flags : BitVec 6 := rs.foldr (fun r g => r.flags ||| g) 0
  GivesLater s lat (.vec d.toNat (packLanes w (rs.map (·.val))) :: (if flags = 0 then [] else [.orFlags flags])) o

/-- An exact lane: no flag. -/
def exactly (x : Nat) : Res Nat := ⟨x, 0⟩

/-! ## Agents -/

/-- What passes between agents hidden: the agenda, the numbers of free values, the mesh's claims, and the last arrivals. -/
def sending (s : State) : State := { s with agenda := [], fresh := 0, mesh := [], lastMsg := [] }

/-- A step of another agent is put on the agenda at a tick, and nothing leaves it. -/
def Posts (s t : State) (at_ : Nat) (ev : Event) : Prop := t.agenda = agendaInsert ⟨at_, ev⟩ s.agenda

/-- AN INSTRUCTION WAITS: its context stands at it with a wait, on the core or, after a yield mark in c1–c3, off it. -/
def Waits (s t : State) (h : Hdr) (w : Wait) : Prop :=
  (t.ctx s.cur).run = (if h.y = true ∧ s.cur.2 ≠ 0 then .gated w else .held w) ∧ (t.ctx s.cur).pc = (s.ctx s.cur).pc

/-- THE STEP OF ANOTHER AGENT: when it is the one due, the row answers a next state with a property. -/
def Happens (s : State) (ev : Event) (i : Instr) (p : State → Prop) : Prop := s.event = some ev → Answers (exec i s) p

end Sys2Proof.Safety
end

