-- ==== Sys2Proof/Certificates/Slice0/Obligations.lean ====
section
/-! DEFINITION. The statements for the provers: what the instructions and the machine do, by the rules of the spec. -/

open Sys2Proof Sys2Proof.Machine Sys2Proof.Safety

/-! ## Scalar instructions -/

/-- The three-register instructions with an arithmetic result (R315, R317, R354, R363, R365, R375, R377, R386, R416): each
completes with the result its rule gives, readable at its latency; g0 takes nothing; all else is as before. -/
def Obligations.ScalarArithmeticResults : Prop :=
  ∀ (s : State) (h : Hdr) (d a b : Reg) (u : Bool),
    (Ready { len := 1, hdr := h, rs := [a, b], rd := [d] } s →
      let x := rv s a
      let y := rv s b
      let c := y.toNat % 64
      GivesScalar s 1 d (BitVec.ofNat 64 (x.toNat + y.toNat)) (exec (.add h d a b) s)
      ∧ GivesScalar s 1 d (BitVec.ofInt 64 ((x.toNat : Int) - y.toNat)) (exec (.sub h d a b) s)
      ∧ GivesScalar s 3 d (BitVec.ofNat 64 (x.toNat * y.toNat)) (exec (.mul h d a b) s)
      ∧ GivesScalar s 4 d (BitVec.ofInt 64 ((if u then (x.toNat : Int) * y.toNat else x.toInt * y.toInt) / 2 ^ 64))
          (exec (.mulh h d a b u) s)
      ∧ GivesScalar s 1 d (x &&& y) (exec (.and h d a b) s)
      ∧ GivesScalar s 1 d (x &&& ~~~y) (exec (.andn h d a b) s)
      ∧ GivesScalar s 1 d (x ||| y) (exec (.or h d a b) s)
      ∧ GivesScalar s 1 d (x ^^^ y) (exec (.xor h d a b) s)
      ∧ GivesScalar s 1 d (BitVec.ofNat 64 (x.toNat * 2 ^ c)) (exec (.shl h d a b) s)
      ∧ GivesScalar s 1 d (BitVec.ofNat 64 (x.toNat / 2 ^ c)) (exec (.shr h d a b) s)
      ∧ GivesScalar s 1 d (BitVec.ofInt 64 (x.toInt / 2 ^ c)) (exec (.sra h d a b) s)
      ∧ GivesScalar s 1 d (if c = 0 then x else BitVec.ofNat 64 (x.toNat * 2 ^ c) ||| BitVec.ofNat 64 (x.toNat / 2 ^ (64 - c)))
          (exec (.rot h d a b) s)
      ∧ GivesScalar s 1 d (if (if u then y.toNat < x.toNat else y.toInt < x.toInt) then y else x) (exec (.min h d a b u) s)
      ∧ GivesScalar s 1 d (if (if u then x.toNat < y.toNat else x.toInt < y.toInt) then y else x) (exec (.max h d a b u) s))
    ∧ (Ready { len := 1, hdr := h, noGuard := true, rs := [a, b], rd := [d] } s →
      GivesScalar s 1 d (if pv s h.g ^^ h.gn then rv s a else rv s b) (exec (.sel h d a b) s))

/-- DIV and REM (R88, R334, R370): the quotient truncates toward zero, the remainder has the sign of the dividend; a divisor
of zero gives a quotient of all ones and the dividend as remainder; the most negative value by −1 gives itself and 0; no case
traps. -/
def Obligations.DivisionResults : Prop :=
  ∀ (s : State) (h : Hdr) (d a b : Reg), Ready { len := 1, hdr := h, rs := [a, b], rd := [d] } s →
    let x := rv s a
    let y := rv s b
    (y = 0 → ∀ u, GivesScalar s 18 d (BitVec.allOnes 64) (exec (.div h d a b u) s)
      ∧ GivesScalar s 18 d x (exec (.rem h d a b u) s))
    ∧ (y ≠ 0 → GivesScalar s 18 d (BitVec.ofNat 64 (x.toNat / y.toNat)) (exec (.div h d a b true) s)
      ∧ GivesScalar s 18 d (BitVec.ofNat 64 (x.toNat % y.toNat)) (exec (.rem h d a b true) s)
      ∧ ∀ q r : Int, x.toInt = q * y.toInt + r → r.natAbs < y.toInt.natAbs → 0 ≤ r * x.toInt →
        GivesScalar s 18 d (BitVec.ofInt 64 q) (exec (.div h d a b false) s)
        ∧ GivesScalar s 18 d (BitVec.ofInt 64 r) (exec (.rem h d a b false) s))
    ∧ (x = BitVec.intMin 64 → y = BitVec.allOnes 64 →
      GivesScalar s 18 d x (exec (.div h d a b false) s) ∧ GivesScalar s 18 d 0 (exec (.rem h d a b false) s))

/-- The one-source and immediate instructions (R316, R326, R338, R349, R351, R362, R367, R387, R418), in both formats. -/
def Obligations.ScalarUnaryResults : Prop :=
  ∀ (s : State) (h : Hdr) (gap : BitVec 2) (d a b : Reg) (w : WidthCode) (imm : BitVec 11) (lit : DWord)
    (tier : Option (BitVec 2)) (pos wm1 : BitVec 6) (sh : BitVec 3) (disp : BitVec 24),
    let x := rv s a
    (Ready { len := 1, hdr := h, rs := [a], rd := [d] } s →
      (∀ n : Nat, n ≤ 64 → (∀ i, 64 - n ≤ i → i < 64 → x.getLsbD i = false) → (n < 64 → x.getLsbD (63 - n) = true) →
        GivesScalar s 1 d (BitVec.ofNat 64 n) (exec (.clz h d a) s))
      ∧ (∀ n : Nat, n ≤ 64 → (∀ i, i < n → x.getLsbD i = false) → (n < 64 → x.getLsbD n = true) →
        GivesScalar s 1 d (BitVec.ofNat 64 n) (exec (.ctz h d a) s))
      ∧ GivesScalar s 1 d (BitVec.ofNat 64 ((List.range 64).filter (fun i => x.getLsbD i)).length) (exec (.popc h d a) s)
      ∧ GivesScalar s 1 d x (exec (.mov h d a) s)
      ∧ GivesScalar s 1 d ((x.setWidth (WidthCode.bits w)).signExtend 64) (exec (.sxt h d a w) s)
      ∧ GivesScalar s 1 d ((x.setWidth (WidthCode.bits w)).setWidth 64) (exec (.zxt h d a w) s))
    ∧ (Ready { len := 1, hdr := gapHdr gap, rs := [a], rd := [d] } s →
      GivesScalar s 1 d (BitVec.ofInt 64 (x.toNat + imm.toInt)) (exec (.addi gap d a imm) s))
    ∧ (Ready { len := 3, hdr := h, rs := [a], rd := [d] } s →
      GivesScalar s 1 d (BitVec.ofNat 64 (x.toNat + lit.toNat)) (exec (.addiLong h d a lit) s))
    ∧ (Ready { len := 1, hdr := gapHdr gap, rs := [], rd := [d] } s →
      GivesScalar s 1 d (BitVec.ofInt 64 imm.toInt) (exec (.li gap d imm) s))
    ∧ (Ready { len := 3, hdr := h, rs := [], rd := [d] } s → GivesScalar s 1 d lit (exec (.liLong h d lit) s))
    ∧ (Ready { len := 3, hdr := h, tier := tier, rs := [a], rd := [d] } s → pos.toNat + wm1.toNat < 64 →
      let f := (x >>> pos.toNat).setWidth (wm1.toNat + 1)
      GivesScalar s 1 d (f.signExtend 64) (exec (.ext h d a .i64 tier pos wm1) s)
      ∧ GivesScalar s 1 d (f.setWidth 64) (exec (.ext h d a .n64 tier pos wm1) s))
    ∧ (Ready { len := 3, hdr := h, tier := tier, rs := [a, d], rd := [d] } s → pos.toNat + wm1.toNat < 64 →
      ∀ v : DWord, (∀ i, i < 64 → v.getLsbD i = if pos.toNat ≤ i ∧ i ≤ pos.toNat + wm1.toNat then x.getLsbD (i - pos.toNat)
          else (rv s d).getLsbD i) → GivesScalar s 1 d v (exec (.ins h d a tier pos wm1) s))
    ∧ (Ready { len := 3, hdr := h, tier := tier, rs := [a, b], rd := [d] } s →
      GivesScalar s 1 d (BitVec.ofInt 64 (x.toNat + (rv s b).toNat * 2 ^ sh.toNat + disp.toInt)) (exec (.lea h d a b tier sh disp) s))
    ∧ (Ready { len := 5, hdr := h, tier := tier, rs := [a, b], rd := [d] } s →
      GivesScalar s 1 d (BitVec.ofNat 64 (x.toNat + (rv s b).toNat * 2 ^ sh.toNat + lit.toNat)) (exec (.leaXl h d a b tier sh lit) s))

/-- The comparisons (R327, R328): each writes its predicate at latency one, signed or unsigned; p0 takes nothing. -/
def Obligations.CompareResults : Prop :=
  ∀ (s : State) (h : Hdr) (gap : BitVec 2) (d : PredReg) (a b : Reg) (u : Bool) (imm : BitVec 11) (lit : DWord),
    let x := rv s a
    (Ready { len := 1, hdr := h, rs := [a, b] } s →
      let y := rv s b
      GivesPred s d (decide (x = y)) (exec (.cmpEq h d a b u) s)
      ∧ GivesPred s d (decide (x ≠ y)) (exec (.cmpNe h d a b u) s)
      ∧ GivesPred s d (decide (if u then x.toNat < y.toNat else x.toInt < y.toInt)) (exec (.cmpLt h d a b u) s)
      ∧ GivesPred s d (decide (if u then x.toNat ≤ y.toNat else x.toInt ≤ y.toInt)) (exec (.cmpLe h d a b u) s))
    ∧ (Ready { len := 1, hdr := gapHdr gap, rs := [a] } s →
      let y : DWord := imm.signExtend 64
      GivesPred s d (decide (x = y)) (exec (.cmpiEq gap d a imm) s)
      ∧ GivesPred s d (decide (x ≠ y)) (exec (.cmpiNe gap d a imm) s)
      ∧ GivesPred s d (decide (x.toInt < y.toInt)) (exec (.cmpiLt gap d a imm) s)
      ∧ GivesPred s d (decide (x.toInt ≤ y.toInt)) (exec (.cmpiLe gap d a imm) s)
      ∧ GivesPred s d (decide (y.toInt < x.toInt)) (exec (.cmpiGt gap d a imm) s)
      ∧ GivesPred s d (decide (y.toInt ≤ x.toInt)) (exec (.cmpiGe gap d a imm) s)
      ∧ GivesPred s d (decide (x.toNat < y.toNat)) (exec (.cmpiLtN64 gap d a imm) s)
      ∧ GivesPred s d (decide (x.toNat ≤ y.toNat)) (exec (.cmpiLeN64 gap d a imm) s)
      ∧ GivesPred s d (decide (y.toNat < x.toNat)) (exec (.cmpiGtN64 gap d a imm) s)
      ∧ GivesPred s d (decide (y.toNat ≤ x.toNat)) (exec (.cmpiGeN64 gap d a imm) s))
    ∧ (Ready { len := 3, hdr := h, rs := [a] } s →
      GivesPred s d (decide (x = lit)) (exec (.cmpiLong h .eq d a lit) s)
      ∧ GivesPred s d (decide (x ≠ lit)) (exec (.cmpiLong h .ne d a lit) s)
      ∧ GivesPred s d (decide (x.toInt < lit.toInt)) (exec (.cmpiLong h .lt d a lit) s)
      ∧ GivesPred s d (decide (x.toInt ≤ lit.toInt)) (exec (.cmpiLong h .le d a lit) s)
      ∧ GivesPred s d (decide (lit.toInt < x.toInt)) (exec (.cmpiLong h .gt d a lit) s)
      ∧ GivesPred s d (decide (lit.toInt ≤ x.toInt)) (exec (.cmpiLong h .ge d a lit) s)
      ∧ GivesPred s d (decide (x.toNat < lit.toNat)) (exec (.cmpiLong h .ltN d a lit) s)
      ∧ GivesPred s d (decide (x.toNat ≤ lit.toNat)) (exec (.cmpiLong h .leN d a lit) s)
      ∧ GivesPred s d (decide (lit.toNat < x.toNat)) (exec (.cmpiLong h .gtN d a lit) s)
      ∧ GivesPred s d (decide (lit.toNat ≤ x.toNat)) (exec (.cmpiLong h .geN d a lit) s))

/-- The predicate instructions (R366): p0 reads as true and takes nothing. -/
def Obligations.PredicateLogicResults : Prop :=
  ∀ (s : State) (h : Hdr) (d a b : PredReg),
    (Ready { len := 1, hdr := h, ps := [a, b] } s →
      GivesPred s d (pv s a && pv s b) (exec (.pand h d a b) s)
      ∧ GivesPred s d (pv s a || pv s b) (exec (.por h d a b) s)
      ∧ GivesPred s d (pv s a ^^ pv s b) (exec (.pxor h d a b) s))
    ∧ (Ready { len := 1, hdr := h, ps := [a] } s →
      GivesPred s d (!pv s a) (exec (.pnot h d a) s) ∧ GivesPred s d (pv s a) (exec (.pmov h d a) s))
    ∧ pv s 0 = true

/-! ## Control -/

/-- BR, JMP and JMPI with a true guard (R82, R323, R324, R346): to the target when it is an instruction start, else
BADTARGET with TRAP_ADDR holding the target. A follower of a slaved phase goes where its leader went (R37). -/
def Obligations.BranchesReachTheirTarget : Prop :=
  ∀ (s : State) (h : Hdr) (gap : BitVec 2) (y : Bool) (a : Reg) (disp : BitVec 16) (lit : DWord) (v : Nat) (f : Fwd) (r : List Fwd),
    let start := ownPath s ∧ s.isStart s.cur.1 v = true
    let stray := ownPath s ∧ s.isStart s.cur.1 v = false
    let led (o : Host.Outcome State Fault Refusal) : Prop :=
      Answers o (fun t => Frame {} s t ∧ (t.ctx s.cur).pc = f.next ∧ (t.core s.cur.1).ctl.fifo = r)
    let bad : Trap := ⟨.badtarget, 0, BitVec.ofNat 64 v, false⟩
    (Ready { len := 1, hdr := h, transfer := true, occ := 3 } s → (v : Int) = pcv s + 4 * disp.toInt →
      (start → Transfers s v (exec (.br h disp) s)) ∧ (stray → Traps s bad (exec (.br h disp) s)))
    ∧ (Ready { len := 3, hdr := h, transfer := true, occ := 3 } s → (v : Int) = pcv s + lit.toInt →
      (start → Transfers s v (exec (.brLong h lit) s)) ∧ (stray → Traps s bad (exec (.brLong h lit) s)))
    ∧ (Ready { len := 1, hdr := openHdr gap y, noGuard := true, transfer := true, endKind := 2, occ := 3 } s →
      (v : Int) = pcv s + 4 * disp.toInt →
      (start → Transfers s v (exec (.jmp gap y disp) s)) ∧ (stray → Traps s bad (exec (.jmp gap y disp) s)))
    ∧ (Ready { len := 3, hdr := openHdr gap y, noGuard := true, transfer := true, endKind := 2, occ := 3 } s →
      (v : Int) = pcv s + lit.toInt →
      (start → Transfers s v (exec (.jmpLong gap y lit) s)) ∧ (stray → Traps s bad (exec (.jmpLong gap y lit) s)))
    ∧ (Ready { len := 1, hdr := h, transfer := true, endKind := 2, rs := [a], occ := 3 } s → v = (rv s a).toNat →
      (start → Transfers s v (exec (.jmpi h a) s)) ∧ (stray → Traps s bad (exec (.jmpi h a) s)))
    ∧ (Follower s f r →
      (Ready { len := 1, hdr := h, transfer := true, occ := 3 } s → led (exec (.br h disp) s))
      ∧ (Ready { len := 3, hdr := h, transfer := true, occ := 3 } s → led (exec (.brLong h lit) s))
      ∧ (Ready { len := 1, hdr := openHdr gap y, noGuard := true, transfer := true, endKind := 2, occ := 3 } s →
        led (exec (.jmp gap y disp) s))
      ∧ (Ready { len := 3, hdr := openHdr gap y, noGuard := true, transfer := true, endKind := 2, occ := 3 } s →
        led (exec (.jmpLong gap y lit) s))
      ∧ (Ready { len := 1, hdr := h, transfer := true, endKind := 2, rs := [a], occ := 3 } s → led (exec (.jmpi h a) s)))

/-- CALL and CALLI (R66, R325): the checks in their order, then the link word, the new window and the target; a follower of a
slaved phase goes where its leader went (R37). -/
def Obligations.CallsOpenAWindow : Prop :=
  ∀ (s : State) (h : Hdr) (a : Reg) (disp : BitVec 16) (lit : DWord) (v : Nat) (f : Fwd) (r : List Fwd),
    let x := s.ctx s.cur
    let nb := x.wbase.toNat + x.frame - 8
    let cases_ (len : Nat) (o : Host.Outcome State Fault Refusal) : Prop :=
      (0xFFFFFFE7 < nb → Traps s ⟨.wspill, 1, 0, false⟩ o)
      ∧ (nb ≤ 0xFFFFFFE7 → x.vlo.toNat + Config.stackSize s.tier < nb + 24 → Traps s ⟨.wspill, 0, 0, false⟩ o)
      ∧ (callFits s → ownPath s → s.isStart s.cur.1 v = false → Traps s ⟨.badtarget, 0, BitVec.ofNat 64 v, false⟩ o)
      ∧ (callFits s → ownPath s → s.isStart s.cur.1 v = true → Calls s len v o)
      ∧ (callFits s → Follower s f r → Answers o (fun t => Frame windowWrites s t ∧ (t.ctx s.cur).pc = f.next
          ∧ (t.ctx s.cur).wbase = BitVec.ofNat 32 nb ∧ (t.ctx s.cur).frame = 24))
    (Ready { len := 1, hdr := h, transfer := true, endKind := 2, occ := 3 } s → (v : Int) = pcv s + 4 * disp.toInt →
      cases_ 1 (exec (.call h disp) s))
    ∧ (Ready { len := 3, hdr := h, transfer := true, endKind := 2, occ := 3 } s → (v : Int) = pcv s + lit.toInt →
      cases_ 3 (exec (.callLong h lit) s))
    ∧ (Ready { len := 1, hdr := h, transfer := true, endKind := 2, rs := [a], occ := 3 } s → v = (rv s a).toNat →
      cases_ 1 (exec (.calli h a) s))

/-- RET (R66, R374): ILLOP for a bad link word, WFILL, BADTARGET, and else the caller's window and its next instruction (the
return address steps over the SIG word behind the call: log 10). A follower goes where its leader went (R37). -/
def Obligations.RetRestoresTheWindow : Prop :=
  ∀ (s : State) (gap : BitVec 2) (y : Bool) (f : Fwd) (q : List Fwd),
    Ready { len := 1, hdr := openHdr gap y, noGuard := true, transfer := true, endKind := 2, rs := [linkReg], occ := 3 } s →
      let x := s.ctx s.cur
      let link := (rv s linkReg).toNat
      let fc := link / 2 ^ 32 % 32
      let r := link % 2 ^ 32
      let good := fc ∈ [8, 12, 16, 20, 24] ∧ link / 2 ^ 37 = 0
      let o := exec (.ret gap y) s
      (¬ good → Traps s (.of .illop) o)
      ∧ (good → x.wbase.toNat + 8 < x.vlo.toNat + fc → Traps s (.of .wfill) o)
      ∧ (good → x.vlo.toNat + fc ≤ x.wbase.toNat + 8 → ownPath s → s.isStart s.cur.1 (behindCall s r) = false →
        Traps s (.at_ .badtarget r) o)
      ∧ (good → x.vlo.toNat + fc ≤ x.wbase.toNat + 8 → (ownPath s ∧ s.isStart s.cur.1 (behindCall s r) = true) ∨ Follower s f q →
        Answers o (fun t => Frame { ctx := fun x => { x with wbase := 0, frame := 0 } } s t
          ∧ GoesTo s t (behindCall s r) ∧ (Follower s f q → (t.ctx s.cur).pc = f.next)
          ∧ (t.ctx s.cur).wbase = BitVec.ofNat 32 (x.wbase.toNat + 8 - fc) ∧ (t.ctx s.cur).frame = fc))

/-- ENTER and LEAVE change FRAME alone; ENTER of a frame that is none of the five raises ILLOP whatever its guard (R66, R335,
R350). NOP and YIELD change no state but the place of their context (R364, R417), and fall through to the next instruction. -/
def Obligations.FrameNopYieldEffects : Prop :=
  ∀ (s : State) (h : Hdr) (gap : BitVec 2) (imm : BitVec 11) (lit : DWord),
    (Ready { len := 1, hdr := gapHdr gap } s → imm.toNat ∈ [8, 12, 16, 20, 24] →
      SetsFrame s imm.toNat (exec (.enter gap imm) s))
    ∧ (imm.toNat ∉ [8, 12, 16, 20, 24] → Traps s (.of .illop) (exec (.enter gap imm) s))
    ∧ (Ready { len := 3, hdr := h } s → lit.toNat ∈ [8, 12, 16, 20, 24] → SetsFrame s lit.toNat (exec (.enterLong h lit) s))
    ∧ (lit.toNat ∉ [8, 12, 16, 20, 24] → Traps s (.of .illop) (exec (.enterLong h lit) s))
    ∧ (Ready { len := 1, hdr := h } s →
      SetsFrame s 8 (exec (.leave h) s)
      ∧ Answers (exec (.nop h) s) (fun t => Frame {} s t ∧ ((s.ctx s.cur).rep = none → GoesTo s t (behind s 1)))
      ∧ Answers (exec (.yield h) s) (fun t => Frame {} s t ∧ ((s.ctx s.cur).rep = none → GoesTo s t (behind s 1))))

/-- YIELD of c1–c3 (R24, R25, R417): when another context is Ready by the next cycle, the context becomes Ready and the core
passes on; otherwise the same context goes on. HALT (R344): ILLOP in c0; the fault of its block's SIG word; else the context is
Halted and off the core, its registers and everything else as before. -/
def Obligations.YieldAndHaltLeaveTheCore : Prop :=
  ∀ (s : State) (h : Hdr),
    (Ready { len := 1, hdr := h } s → s.cur.2 ≠ 0 → (s.core s.cur.1).ctl.turn = some s.cur.2 → (s.ctx s.cur).run = .running →
      let other := ∃ i ∈ [1, 2, 3], i ≠ s.cur.2 ∧ ((s.core s.cur.1).ctx i).run = .ready
        ∧ ((s.core s.cur.1).ctx i).readyAt ≤ s.now + cyc s.cur.1
      (other → Answers (exec (.yield h) s) (fun t => (t.ctx s.cur).run = .ready ∧ (t.core s.cur.1).ctl.turn = none
        ∧ (t.core s.cur.1).ctl.last = s.cur.2))
      ∧ (¬ other → Answers (exec (.yield h) s) (fun t => (t.ctx s.cur).run = .running
        ∧ (t.core s.cur.1).ctl.turn = some s.cur.2)))
    ∧ (s.cur.2 = 0 → Traps s (.of .illop) (exec (.halt h) s))
    ∧ (∀ tr, s.cur.2 ≠ 0 → Ready { len := 1, hdr := h, transfer := true, endKind := 2 } s → blockEnds 1 (pcv s + 4) s = .error tr →
      Traps s tr (exec (.halt h) s))
    ∧ (s.cur.2 ≠ 0 → Ready { len := 1, hdr := h, transfer := true, endKind := 2 } s → blockEnds 1 (pcv s + 4) s = .ok () →
      Answers (exec (.halt h) s) (fun t => Frame { machine := fun s => { s with agenda := [] } } s t
        ∧ (t.ctx s.cur).run = .halted
        ∧ ((s.core s.cur.1).ctl.turn = some s.cur.2 → (t.core s.cur.1).ctl.turn = none)))

/-- REP (R41 to R44, R371, R372): the repetition it sets, for a body that R43 and R372 admit; nothing else changes. Behind a
body instruction the next one follows, behind the last the next pass from the start, behind the last pass the instruction after the
body; on each pass the fields that MASK selects, of format S and of format I, are rotated in their window, and a selected field
that lies outside the window or that the instruction reserves raises ILLOP at its issue. -/
def Obligations.RepSetsTheRepetition : Prop :=
  ∀ (s : State) (h : Hdr) (stride nm1l winl : BitVec 5) (winh : Bool) (nm1h : BitVec 5) (km1 : BitVec 3) (mask : BitVec 24)
    (size base : Nat),
    let first := behind s 3
    (badBody s s.cur.1 (km1.toNat + 1) first = true ∨ (∃ r, (s.ctx s.cur).rep = some r ∧ r.next = (s.ctx s.cur).pc) →
      Traps s (.of .illop) (exec (.rep h stride nm1l winl winh nm1h km1 mask) s))
    -- the passes
    ∧ (∀ r, (s.ctx s.cur).rep = some r → r.next = (s.ctx s.cur).pc → Ready { len := 1, hdr := h } s →
      let passes (r' : Option Rep) (at_ : Nat) : Prop := Answers (exec (.nop h) s) (fun t => Frame {} s t ∧ GoesTo s t at_
        ∧ (t.ctx s.cur).rep = r')
      (r.pos < r.km1.toNat → passes (some { r with pos := r.pos + 1, next := BitVec.ofNat 32 (pcv s + 4) }) (behind s 1))
      ∧ (r.km1.toNat ≤ r.pos → 0 < r.remain →
        passes (some { r with pos := 0, remain := r.remain - 1, pass := r.pass + 1, next := r.start }) r.start.toNat)
      ∧ (r.km1.toNat ≤ r.pos → r.remain = 0 → passes none (behind s 1)))
    -- the rotation of fields D, A and B
    ∧ (∀ r (w : Word) (g : Hdr) (gap : BitVec 2) (d a b : Reg) (imm : BitVec 11),
      (s.ctx s.cur).rep = some r → r.next = (s.ctx s.cur).pc → s.sigCheck s.cur = none → 0 < r.size → r.base + r.size ≤ 32 →
      s.storeWord s.cur.1 (pcv s) = some (w, true) → isHeader w = false →
      let sel (j : Nat) : Bool := r.mask.getLsbD (3 * r.pos + j)
      let out (j : Nat) (f : BitVec 5) : Prop := sel j = true ∧ ¬ (r.base ≤ f.toNat ∧ f.toNat < r.base + r.size)
      let turn (j : Nat) (f : BitVec 5) : BitVec 5 :=
        if sel j then BitVec.ofNat 5 (r.base + (f.toNat - r.base + r.pass * r.stride) % r.size) else f
      let ws := s.wordsAt s.cur.1 (pcv s)
      (decode ws = .ok (.add g d a b, 1) →
        (out 0 d ∨ out 1 a ∨ out 2 b → s.fetch s.cur = .error (.of .illop))
        ∧ (¬ (out 0 d ∨ out 1 a ∨ out 2 b) → s.fetch s.cur = .ok (.add g (turn 0 d) (turn 1 a) (turn 2 b))))
      ∧ (decode ws = .ok (.addi gap d a imm, 1) →
        (out 0 d ∨ out 1 a ∨ sel 2 = true → s.fetch s.cur = .error (.of .illop))
        ∧ (¬ (out 0 d ∨ out 1 a ∨ sel 2 = true) → s.fetch s.cur = .ok (.addi gap (turn 0 d) (turn 1 a) imm)))
      ∧ (decode ws = .ok (.clz g d a, 1) → sel 2 = true → s.fetch s.cur = .error (.of .illop)))
    ∧ (badBody s s.cur.1 (km1.toNat + 1) first = false → (s.ctx s.cur).rep = none →
      Ready { len := 3, hdr := h, leader := true } s →
      size ∈ [1, 2, 4, 8, 16, 32] → base % size = 0 → 2 * base + size = winl.toNat + (if winh then 32 else 0) →
      Answers (exec (.rep h stride nm1l winl winh nm1h km1 mask) s) (fun t => Frame {} s t ∧ GoesTo s t first
        ∧ (t.ctx s.cur).rep = some { remain := 32 * nm1h.toNat + nm1l.toNat, pos := 0, pass := 0, km1 := km1, mask := mask,
                                     stride := stride.toNat, base := base, size := size,
                                     start := BitVec.ofNat 32 first, next := BitVec.ofNat 32 first }))

/-! ## Near memory -/

/-- LD and BLD in every type and format (R11, R176 to R178, R321, R347): the checks in their order, ECCU of an uncorrectable
word, else the bytes sign- or zero-extended, readable at the window's latency. -/
def Obligations.ScalarLoadsReadTheirBytes : Prop :=
  ∀ (s : State) (h : Hdr) (gap : BitVec 2) (d a : Reg) (imm : BitVec 11) (lit : DWord) (ty : LoadTy),
    let g := gapHdr gap
    let i := imm.toInt
    Loads s 1 g .localStore 8 true d a i (exec (.ldI8 gap d a imm) s)
    ∧ Loads s 1 g .localStore 16 true d a i (exec (.ldI16 gap d a imm) s)
    ∧ Loads s 1 g .localStore 32 true d a i (exec (.ldI32 gap d a imm) s)
    ∧ Loads s 1 g .localStore 64 true d a i (exec (.ldI64 gap d a imm) s)
    ∧ Loads s 1 g .localStore 8 false d a i (exec (.ldN8 gap d a imm) s)
    ∧ Loads s 1 g .localStore 16 false d a i (exec (.ldN16 gap d a imm) s)
    ∧ Loads s 1 g .localStore 32 false d a i (exec (.ldN32 gap d a imm) s)
    ∧ Loads s 3 h .localStore (loadWidth ty).1 (loadWidth ty).2 d a lit.toInt (exec (.ldLong h ty d a lit) s)
    ∧ Loads s 1 g .ownBank 8 true d a i (exec (.bldI8 gap d a imm) s)
    ∧ Loads s 1 g .ownBank 16 true d a i (exec (.bldI16 gap d a imm) s)
    ∧ Loads s 1 g .ownBank 32 true d a i (exec (.bldI32 gap d a imm) s)
    ∧ Loads s 1 g .ownBank 64 true d a i (exec (.bldI64 gap d a imm) s)
    ∧ Loads s 1 g .ownBank 8 false d a i (exec (.bldN8 gap d a imm) s)
    ∧ Loads s 1 g .ownBank 16 false d a i (exec (.bldN16 gap d a imm) s)
    ∧ Loads s 1 g .ownBank 32 false d a i (exec (.bldN32 gap d a imm) s)
    ∧ Loads s 3 h .ownBank (loadWidth ty).1 (loadWidth ty).2 d a lit.toInt (exec (.bldLong h ty d a lit) s)

/-- ST and BST in every type and format (R176 to R178, R321, R322, R382, R383): the checks in their order, then the bytes
under way to the exact address; no register and no byte changes at issue. -/
def Obligations.ScalarStoresSendTheirBytes : Prop :=
  ∀ (s : State) (h : Hdr) (gap : BitVec 2) (d a : Reg) (imm : BitVec 11) (lit : DWord) (ty : StoreTy),
    let g := gapHdr gap
    let i := imm.toInt
    Stores s 1 g .localStore 8 d a i (exec (.stI8 gap d a imm) s)
    ∧ Stores s 1 g .localStore 16 d a i (exec (.stI16 gap d a imm) s)
    ∧ Stores s 1 g .localStore 32 d a i (exec (.stI32 gap d a imm) s)
    ∧ Stores s 1 g .localStore 64 d a i (exec (.stI64 gap d a imm) s)
    ∧ Stores s 3 h .localStore (storeWidth ty) d a lit.toInt (exec (.stLong h ty d a lit) s)
    ∧ Stores s 1 g .ownBank 8 d a i (exec (.bstI8 gap d a imm) s)
    ∧ Stores s 1 g .ownBank 16 d a i (exec (.bstI16 gap d a imm) s)
    ∧ Stores s 1 g .ownBank 32 d a i (exec (.bstI32 gap d a imm) s)
    ∧ Stores s 1 g .ownBank 64 d a i (exec (.bstI64 gap d a imm) s)
    ∧ Stores s 3 h .ownBank (storeWidth ty) d a lit.toInt (exec (.bstLong h ty d a lit) s)

/-- VLD, VST, VBLD, VBST in both formats (R176 to R178, R396). -/
def Obligations.WholeRegisterMemoryForms : Prop :=
  ∀ (s : State) (h : Hdr) (gap : BitVec 2) (d : VecReg) (a : Reg) (imm : BitVec 11) (lit : DWord),
    let g := gapHdr gap
    let i := imm.toInt
    VLoads s 1 g .localStore d a i (exec (.vld gap d a imm) s)
    ∧ VLoads s 3 h .localStore d a lit.toInt (exec (.vldLong h d a lit) s)
    ∧ VLoads s 1 g .ownBank d a i (exec (.vbld gap d a imm) s)
    ∧ VLoads s 3 h .ownBank d a lit.toInt (exec (.vbldLong h d a lit) s)
    ∧ VStores s 1 g .localStore d a i (exec (.vst gap d a imm) s)
    ∧ VStores s 3 h .localStore d a lit.toInt (exec (.vstLong h d a lit) s)
    ∧ VStores s 1 g .ownBank d a i (exec (.vbst gap d a imm) s)
    ∧ VStores s 3 h .ownBank d a lit.toInt (exec (.vbstLong h d a lit) s)

/-- A store under way reaches memory at its tick (R26, R175, R178, R254): the bytes it covers change in the bits a core may
write, every other byte stays; words wholly inside a store of whole words lose their poison, a store narrower than a word reads its
word, corrects and counts a single-bit error there and leaves poison; nothing else of the machine changes. -/
def Obligations.StoresWriteExactlyTheirBytes : Prop :=
  ∀ (s : State) (k : Nat) (p : Pend) (a : Nat) (bs : List Byte) (sub : Bool),
    p.act = .store a bs sub → (s.core k).ctl.rmw = [] →
      let t := s.applyPend k p
      let wr (b : Nat) : Byte := writableBits (Machine.tierOf k) b
      (∀ b, nearByte t k b = if a ≤ b ∧ b < a + bs.length then
          (bs.getD (b - a) 0 &&& wr b) ||| (nearByte s k b &&& ~~~(wr b)) else nearByte s k b)
      ∧ (∀ w, sget 0 (t.core k).poison w
          = if (sub = false ∧ a ≤ 4 * w ∧ 4 * w + 4 ≤ a + bs.length) ∨ (sub = true ∧ w = a / 4 ∧ sget 0 (s.core k).poison w = 2)
            then 0 else sget 0 (s.core k).poison w)
      ∧ { t.core k with near := [], poison := [] } = { s.core k with near := [], poison := [] }
      ∧ (∀ j, j ≠ k → t.core j = s.core j) ∧ { t with cores := [], cols := [] } = { s with cores := [], cols := [] }
      ∧ (∀ j, t.col j = if sub = true ∧ j = columnOf k then
          { s.col j with corrected := (s.col j).corrected + (s.core k).softWords a bs.length } else s.col j)

/-- Results under way take effect at their tick and not before (R26, R27): a core with one result under way, settled to a
tick. -/
def Obligations.ResultsAppearAtTheirTick : Prop :=
  ∀ (s : State) (k t : Nat) (p : Pend), (s.core k).pend = [p] →
    (t < p.due → s.settle k t = s)
    ∧ (p.due ≤ t → ∀ (i : Nat) (v : DWord) (l : Line) (b : Bool) (f : BitVec 6),
      let c := ((s.settle k t).core k).ctx p.ctx
      let x := (s.core k).ctx p.ctx
      ((s.core k).ctl.rmw = [] → (∀ j, j < 4 → ((s.core k).ctx j).monitor = none) →
        (p.act = .g i v → c = { x with g := sset 0 x.g i v })
        ∧ (p.act = .entry i v → c = { x with stack := sset 0 x.stack i v })
        ∧ (p.act = .vec i l → c = { x with v := sset 0 x.v i l })
        ∧ (p.act = .pred i b → i < 8 → ∀ j, c.p.getLsbD j = if j = i then b else x.p.getLsbD j)
        ∧ (p.act = .orFlags f → c = { x with flags := x.flags ||| f })
        ∧ (p.act = .setFlags f → c = { x with flags := f })))

/-- BLOOK, BTAG and BINV (R180, R181), with N entries of the tier's table in sets of four: the hit, the suggested slot and the
victim pointer; the range traps; the old entry and the new one. -/
def Obligations.TagTableEffects : Prop :=
  ∀ (s : State) (h : Hdr) (d a b : Reg),
    let c := s.core s.cur.1
    let n := Config.tagEntries s.tier
    let entry (i : Nat) : DWord := sget 0 c.tags i
    let line (v : DWord) : Nat := v.toNat / 2 ^ 9 % 2 ^ 48
    let w : Writes := { core := fun c => { c with pend := [], tags := [], vptr := [] } }
    let keeps (t : State) (slot : Nat) (v : DWord) : Prop :=
      (∀ i, sget 0 (t.core s.cur.1).tags i = if i = slot then v else entry i) ∧ (t.core s.cur.1).vptr = c.vptr
    (Ready { len := 1, hdr := h, rs := [a], rd := [d] } s →
      let set := line (rv s a) % (n / 4)
      let hit (v : Nat) : Prop := (entry (4 * set + v)).getLsbD 63 = true ∧ line (entry (4 * set + v)) = line (rv s a)
      let o := exec (.blook h d a) s
      let looks (res : Nat) (moved : Bool) : Prop := Answers o (fun t => Frame w s t
        ∧ UnderWay s 2 (toReg s d (BitVec.ofNat 64 res)) t ∧ (t.core s.cur.1).tags = c.tags
        ∧ ∀ i, sget 0 (t.core s.cur.1).vptr i
            = if moved = true ∧ i = set then sget 0 c.vptr set + 1 else sget 0 c.vptr i)
      (∀ v, v < 4 → hit v → (∀ u, u < v → ¬ hit u) → looks (4 * set + v) false)
      ∧ ((∀ u, u < 4 → ¬ hit u) → ∀ v, v < 4 → (entry (4 * set + v)).getLsbD 63 = false →
          (∀ u, u < v → (entry (4 * set + u)).getLsbD 63 = true) → looks (2 ^ 63 + 4 * set + v) false)
      ∧ ((∀ u, u < 4 → ¬ hit u ∧ (entry (4 * set + u)).getLsbD 63 = true) →
          looks (2 ^ 63 + 4 * set + (sget 0 c.vptr set).toNat) true))
    ∧ (Ready { len := 1, hdr := h, rs := [a, b], rd := [d] } s →
      let slot := (rv s a).toNat
      let o := exec (.btag h d a b) s
      (n ≤ slot → Traps s (.at_ .bankrange slot) o)
      ∧ (slot < n → line (rv s b) % (n / 4) ≠ slot / 4 → Traps s (.at_ .bankrange (rv s b).toNat) o)
      ∧ (slot < n → line (rv s b) % (n / 4) = slot / 4 → Answers o (fun t => Frame w s t
        ∧ UnderWay s 2 (toReg s d (entry slot)) t ∧ keeps t slot (BitVec.ofNat 64 (2 ^ 63 + (rv s b).toNat % 2 ^ 57)))))
    ∧ (Ready { len := 1, hdr := h, rs := [a], rd := [d] } s →
      let slot := (rv s a).toNat
      let o := exec (.binv h d a) s
      (n ≤ slot → Traps s (.at_ .bankrange slot) o)
      ∧ (slot < n → Answers o (fun t => Frame w s t ∧ UnderWay s 2 (toReg s d (entry slot)) t ∧ keeps t slot 0)))

/-! ## System registers, regions and exceptions -/

/-- CORE_ID (R69): the fields that SYSR of selector 0 returns for every core and context of the device. -/
def Obligations.CoreIdLayout : Prop :=
  ∀ (k ctx : Nat), k < Config.coreCount → ctx < 4 →
    let v := coreId k ctx
    v.extractLsb' 0 15 = BitVec.ofNat 15 k ∧ v.extractLsb' 15 2 = BitVec.ofNat 2 (Machine.tierOf k)
    ∧ v.extractLsb' 17 2 = BitVec.ofNat 2 ctx ∧ v.extractLsb' 19 2 = BitVec.ofNat 2 (quadOf k)
    ∧ v.extractLsb' 21 6 = BitVec.ofNat 6 (columnOf k) ∧ v.extractLsb' 27 4 = BitVec.ofNat 4 (skewOf k)
    ∧ v.extractLsb' 31 33 = 0
    ∧ k < 2 ^ 15 ∧ Machine.tierOf k < 4 ∧ quadOf k < 4 ∧ columnOf k < 64 ∧ skewOf k < 16 ∧ (leaderOf k = k → skewOf k = 0)

/-- SYSR (R68 to R74, R388, R389): an unassigned selector raises ILLOP, a register of c0 raises PRIV in c1–c3; else the
register's value, at latency one; the trap registers read 0 outside Handling, and CTAB as it was written last, also while the write
is not in force for decoding. The model's choices, of logs 49 and 52 and not the spec's: REPST read in a REP body holds the SYSR's own
index as POS, and reads 0 in every field with no repetition. -/
def Obligations.SysrReadsItsRegister : Prop :=
  ∀ (s : State) (h : Hdr) (gap : BitVec 2) (d : Reg) (imm : BitVec 11) (lit : DWord) (sel : Nat), sel < 2048 →
    let x := s.ctx s.cur
    let c := s.core s.cur.1
    let reads (len : Nat) (h : Hdr) (o : Host.Outcome State Fault Refusal) : Prop :=
      ((0x00B ≤ sel ∧ sel < 0x010) ∨ (0x014 ≤ sel ∧ sel < 0x400) ∨ 0x400 + Config.stackSize s.tier ≤ sel →
        Traps s (.of .illop) o)
      ∧ (0x010 ≤ sel → sel < 0x014 → s.cur.2 ≠ 0 → x.regOk d = true → Traps s (.at_ .priv sel) o)
      ∧ (Ready { len := len, hdr := h, rd := [d], reads := selReads sel } s →
        (sel = 0x000 → GivesScalar s 1 d (coreId s.cur.1 s.cur.2) o)
        ∧ (sel = 0x001 → GivesScalar s 1 d (if x.ftz then 1 else 0) o)
        ∧ (sel = 0x002 → GivesScalar s 1 d (x.flags.setWidth 64) o)
        ∧ (sel = 0x003 → x.frame < 32 → GivesScalar s 1 d (BitVec.ofNat 64 (x.wbase.toNat + 2 ^ 32 * x.frame)) o)
        ∧ (sel = 0x004 → GivesScalar s 1 d (x.vlo.setWidth 64) o)
        ∧ (∀ hi : Bool, sel = (if hi then 0x006 else 0x005) →
          -- the last write of the half that is under way, or what the register holds
          (∀ p1 p2 e v, c.pend = p1 ++ e :: p2 → e.act = .ctab hi v → (∀ e' ∈ p2, ∀ u, e'.act ≠ .ctab hi u) → GivesScalar s 1 d v o)
          ∧ ((∀ e ∈ c.pend, ∀ u, e.act ≠ .ctab hi u) →
            GivesScalar s 1 d (c.ctab.extractLsb' (if hi then 64 else 0) 64) o))
        ∧ (sel = 0x007 → GivesScalar s 1 d (match x.rep with
            | none => 0
            | some r => BitVec.ofNat 64 (r.remain + 2 ^ 11 * r.pos + 2 ^ 14 * r.pass + 2 ^ 24 * r.km1.toNat)) o)
        ∧ (sel = 0x008 → GivesScalar s 1 d (BitVec.ofNat 64 (s.now / Config.cycleTicks s.tier)) o)
        ∧ (sel = 0x009 → GivesScalar s 1 d (BitVec.ofNat 64 (s.now / Config.ticksPerBeat)) o)
        ∧ (sel = 0x00A → GivesScalar s 1 d (BitVec.ofNat 64 s.time) o)
        ∧ (s.cur.2 = 0 → let held (v : DWord) : DWord := if c.ctl.handling = none then 0 else v
          (sel = 0x010 → GivesScalar s 1 d (held c.ctl.cause) o)
          ∧ (sel = 0x011 → GivesScalar s 1 d (held (c.ctl.tpc.setWidth 64)) o) ∧ (sel = 0x012 → GivesScalar s 1 d (held c.ctl.taddr) o)
          ∧ (sel = 0x013 → GivesScalar s 1 d (held (c.ctl.tword.setWidth 64)) o))
        ∧ (∀ n, sel = 0x400 + n → n < Config.stackSize s.tier → GivesScalar s 1 d (sget 0 x.stack n) o))
    (imm.toNat = sel → reads 1 (gapHdr gap) (exec (.sysr gap d imm) s))
    ∧ (lit.toNat = sel → reads 3 h (exec (.sysrLong h d lit) s))

/-- SYSW (R68, R70 to R72, R388, R389): unassigned and read-only selectors raise ILLOP, a VLO outside its range raises
ILLOP and changes nothing; else the register takes the value at its latency, and nothing else changes. A half of CTAB is in force
for decoding at latency two (R72); SYSR reads what was written from the next cycle on (O19). -/
def Obligations.SyswWritesItsRegister : Prop :=
  ∀ (s : State) (h : Hdr) (gap : BitVec 2) (d : Reg) (imm : BitVec 11) (lit : DWord) (sel : Nat), sel < 2048 →
    let x := s.ctx s.cur
    let v := rv s d
    let low := v.toNat % 2 ^ 32
    let fits := low ≤ x.wbase.toNat ∧ x.wbase.toNat + x.frame ≤ low + Config.stackSize s.tier
    let writes (o : Host.Outcome State Fault Refusal) (hide : Ctx → Ctx) (new : Ctx → Prop) : Prop :=
      Answers o (fun t => Frame { ctx := hide, core := fun c => { c with pend := [] } } s t ∧ new (t.ctx s.cur))
    let needs (len : Nat) (h : Hdr) (o : Host.Outcome State Fault Refusal) : Prop :=
      ((sel ∉ [0x001, 0x002, 0x004, 0x005, 0x006] ∧ sel < 0x400) ∨ 0x400 + Config.stackSize s.tier ≤ sel →
        Traps s (.of .illop) o)
      ∧ (Ready { len := len, hdr := h, rs := [d] } s →
        (sel = 0x001 → writes o (fun x => { x with ftz := false }) (fun y => y.ftz = v.getLsbD 0))
        ∧ (sel = 0x002 → writes o (fun x => { x with flags := 0 }) (fun y => y.flags = v.setWidth 6))
        ∧ (sel = 0x004 → fits → writes o (fun x => { x with vlo := 0 }) (fun y => y.vlo = v.setWidth 32))
        ∧ (sel = 0x004 → ¬ fits → Traps s (.of .illop) o)
        ∧ (sel = 0x005 → GivesLater s 2 [.ctab false v] o) ∧ (sel = 0x006 → GivesLater s 2 [.ctab true v] o)
        ∧ (∀ n, sel = 0x400 + n → n < Config.stackSize s.tier →
          writes o (fun x => { x with stack := [] }) (fun y => ∀ e, sget 0 y.stack e = if e = n then v else sget 0 x.stack e)))
    (imm.toNat = sel → needs 1 (gapHdr gap) (exec (.sysw gap d imm) s))
    ∧ (lit.toNat = sel → needs 3 h (exec (.syswLong h d lit) s))

/-- IDEM and IDEM.END (R266, R345): ILLOP in c0 within a superstep and in a REP body; `idem` records the next instruction and
the checkpoint with a restart count of 0, `idem.end` closes the region; nothing else changes. -/
def Obligations.IdemOpensAndClosesARegion : Prop :=
  ∀ (s : State) (h : Hdr),
    let x := s.ctx s.cur
    let bad := inStep s = true ∨ ∃ r, x.rep = some r ∧ r.next = x.pc
    (bad → Traps s (.of .illop) (exec (.idem h) s) ∧ Traps s (.of .illop) (exec (.idemEnd h) s))
    ∧ (¬ bad → Ready { len := 3, hdr := h, reads := ckptReads } s →
      Answers (exec (.idem h) s) (fun t => Frame { ctx := fun x => { x with region := none } } s t
        ∧ ∃ r, (t.ctx s.cur).region = some r ∧ r.restarts = 0
          ∧ r.ckpt = { pc := BitVec.ofNat 32 (behind s 3), g := x.g, wbase := x.wbase, frame := x.frame, vlo := x.vlo,
                       p := x.p, rep := x.rep, flags := x.flags }))
    ∧ (¬ bad → Ready { len := 3, hdr := h } s →
      Answers (exec (.idemEnd h) s) (fun t => Frame { ctx := fun x => { x with region := none } } s t
        ∧ (t.ctx s.cur).region = none))

/-- TAKING AN EXCEPTION (R36, R74, R252 to R255, R258, R267, R307). Outside a superstep the slot takes the cause, the program counter as PC and
RESUME, the address, the first word, KIND 1, REPST and BEAT; the context is Trapped; a free c0 with a set TVEC enters its
handler there with the trap registers loaded, a c0 that is Handling lets the entry wait. A c0 within a superstep fills its slot and
stops, and the group's stop is on its way, for the causes of a replay; the other causes end the task, as do WSPILL subcode 1 and a
trap of a c0 that is Handling. In an open region a cause of R267 puts the context back to its checkpoint, three times; the fourth ends
the task. The model's choices and not the spec's: the handler stands at TVEC rounded down to a multiple of 4 (log 46), WSPILL subcode
1 and a trap while Handling end the task (logs 18, 19), and the stop's beat is a free value (log 16). -/
def Obligations.TrapFillsTheSlotAndEntersTheHandler : Prop :=
  ∀ (s : State) (k i v : Nat) (w : Word) (tr : Trap), i < 4 →
    let c := s.core k
    let x := s.ctx (k, i)
    let cause : DWord := BitVec.ofNat 64 (causeCode tr.cause + 2 ^ 8 * tr.sub.toNat + 2 ^ 16 * i + (if tr.imprec then 2 ^ 18 else 0))
    let t := s.takeTrap (k, i) w tr
    let slot := SlotHolds t k i cause x.pc.toNat x.pc.toNat tr.addr w 1 0 (repWord x.rep) s.beat
    let ends := EndsTask s t k i (faultRec 0x08 k i 0 x.pc.toNat tr.addr.toNat 0 0 (causeCode tr.cause))
    let records (l : List FaultRec) : Prop := sget [] t.bufs (clusterKey k) = sget [] s.bufs (clusterKey k) ++ l
    let plain := c.timed i = false ∧ ¬ (tr.cause = .wspill ∧ tr.sub = 1) ∧ (restarts tr = false ∨ x.region = none)
    (plain → (i = 0 → c.ctl.handling = none) →
      (c0Free s k → c.vector (Machine.tierOf k) 1 = some v →
        slot ∧ Handles s t k i v cause x.pc.toNat tr.addr w ∧ OnlySlot s t k i)
      ∧ (c.ctl.handling ≠ none → slot ∧ OnlySlot s t k i ∧ (t.ctx (k, i)).run = .trapped
        ∧ (t.core k).ctl.handling = c.ctl.handling
        ∧ (t.core k).ctl.waiting = c.ctl.waiting ++ [⟨i, none⟩]))
    -- the end of the task
    ∧ (tr.cause = .wspill → tr.sub = 1 → ends)
    ∧ (c.timed i = true → tr.cause ∉ [.timing, .tilepois, .sigfault, .eccu] → ends)
    ∧ (plain → i = 0 → c.ctl.handling ≠ none → ends)
    ∧ (c.timed i = false → restarts tr = true → ∀ r, x.region = some r → 3 ≤ r.restarts → ends)
    -- a run of the superstep that will be replayed
    ∧ (c.timed i = true → tr.cause ∈ [.timing, .tilepois, .sigfault, .eccu] → ∀ kid kn, c.ctl.kernel = some kid → s.kernel kid = some kn →
      let entry := match c.ctl.ckpt with | some e => e.pc.toNat | none => x.pc.toNat
      slot ∧ (t.core k).ctl.stopped = true
      ∧ records (if kn.replays < 3 then [faultRec 0x06 k 0 0 entry tr.addr.toNat 0 0 (causeCode tr.cause)] else [])
      ∧ t.kernel kid = some { kn with
          failing := if kn.failing = none then some k else kn.failing
          width := kn.width || decide (tr.cause = .timing ∧ tr.sub = 6)
          stage := if kn.stage = .running then .stopping false else kn.stage }
      ∧ (kn.stage = .running → ∃ d, 1 ≤ d ∧ ⟨(s.beat + d) * Config.ticksPerBeat, .stop kid⟩ ∈ t.agenda)
      ∧ (∀ j, placeless ((t.core k).ctx j) = placeless (c.ctx j)) ∧ ∀ j, j ≠ k → t.core j = s.core j)
    -- a region starts again
    ∧ (c.timed i = false → restarts tr = true → ∀ r, x.region = some r → r.restarts < 3 →
      let y := t.ctx (k, i)
      records [faultRec 0x06 k i 0 r.ckpt.pc.toNat tr.addr.toNat 0 0 (causeCode tr.cause)]
      ∧ y.pc = r.ckpt.pc ∧ y.g = r.ckpt.g ∧ y.wbase = r.ckpt.wbase ∧ y.frame = r.ckpt.frame ∧ y.vlo = r.ckpt.vlo ∧ y.p = r.ckpt.p
      ∧ y.rep = r.ckpt.rep ∧ y.flags = r.ckpt.flags ∧ y.region = some { r with restarts := r.restarts + 1 }
      ∧ y.v = x.v ∧ y.stack = x.stack ∧ y.m = x.m ∧ y.ftz = x.ftz
      ∧ ((∃ u, x.run = .held u) ∨ x.run = .running ∨ (i = 0 ∧ ∃ u, x.run = .gated u) → y.run = .running)
      ∧ ((i ≠ 0 ∧ ∃ u, x.run = .gated u) → y.run = .ready)
      ∧ (∀ j b, nearByte t j b = nearByte s j b) ∧ (∀ j, j ≠ i → (t.core k).ctx j = c.ctx j) ∧ ∀ j, j ≠ k → t.core j = s.core j)

/-- TRAP (R84, R254 to R256, R390): ILLOP in c0 within a superstep and in a c0 that is Handling; the fault of its block's SIG word; else
the slot takes KIND 2, the immediate, and the next instruction as RESUME, and c0 enters at RVEC when it is free for it. The model's
choices and not the spec's: the ILLOP of a c0 that is Handling (log 19), the SIG word checked as TRAP issues (log 11), RESUME behind
that word (log 10), and RVEC rounded down to a multiple of 4 (log 46). -/
def Obligations.TrapInstructionRequestsTheHandler : Prop :=
  ∀ (s : State) (h : Hdr) (gap : BitVec 2) (imm : BitVec 11) (lit : DWord) (v : Nat),
    let k := s.cur.1
    let i := s.cur.2
    let refused := i = 0 ∧ (inStep s = true ∨ (s.core k).ctl.handling ≠ none)
    let requests (len n : Nat) (o : Host.Outcome State Fault Refusal) : Prop := Answers o (fun t =>
      SlotHolds t k i 0 (pcv s) (behind s len) 0 (s.issuedWord s.cur) 2 n (repWord (s.ctx s.cur).rep) s.beat
      ∧ Handles s t k i v 0 (pcv s) 0 (s.issuedWord s.cur) ∧ OnlySlot s t k i)
    let traps (len n : Nat) (o : Host.Outcome State Fault Refusal) : Prop :=
      (∀ tr, blockEnds len (behind s len) s = .error tr → Traps s tr o)
      ∧ (blockEnds len (behind s len) s = .ok () → i < 4 → c0Free s k → (s.core k).vector (Machine.tierOf k) 2 = some v →
        requests len n o)
    (refused → Traps s (.of .illop) (exec (.trap gap imm) s) ∧ Traps s (.of .illop) (exec (.trapLong h lit) s))
    ∧ (¬ refused →
      (Ready { len := 1, hdr := gapHdr gap, transfer := true, endKind := 2 } s → traps 1 imm.toNat (exec (.trap gap imm) s))
      ∧ (Ready { len := 3, hdr := h, transfer := true, endKind := 2 } s → traps 3 lit.toNat (exec (.trapLong h lit) s)))

/-- ERET (R84, R256, R336, R424): PRIV in c1–c3, ILLOP in a c0 that is not Handling, the fault of its block's SIG word,
BADTARGET for a RESUME that is no instruction start; else KIND is cleared, the handled context is Halted or goes on at RESUME, c0 leaves Handling and the trap registers
read 0; c0 returns to what it was kept in. -/
def Obligations.EretResumesTheContext : Prop :=
  ∀ (s : State) (gap : BitVec 2) (y : Bool) (i : Nat),
    let k := s.cur.1
    let o := exec (.eret gap y) s
    let slot := slotAddr (Machine.tierOf k) i
    let r := coreNat s k (slot + 12) 4
    (s.cur.2 ≠ 0 → Traps s (.at_ .priv 0) o)
    ∧ (s.cur.2 = 0 → (s.core k).ctl.handling = none → Traps s (.of .illop) o)
    ∧ (s.cur.2 = 0 → (s.core k).ctl.handling = some i → i < 4 → (s.core k).ctl.phase = none → (s.core k).ctl.waiting = [] →
      (i ≠ 0 → ∃ r0 pc0, (s.core k).ctl.kept = some (r0, pc0)) → (i = 0 → (s.core k).ctl.kept = none) →
      Ready { len := 1, hdr := openHdr gap y, noGuard := true, transfer := true, endKind := 2, bytes := [(slot + 12, 4)] } s →
      let left (t : State) : Prop := (t.core k).ctl.handling = none ∧ (t.core k).ctl.cause = 0 ∧ (t.core k).ctl.tpc = 0
        ∧ (t.core k).ctl.taddr = 0 ∧ (t.core k).ctl.tword = 0 ∧ (t.core k).ctl.kept = none
        ∧ coreNat t k (slot + 28) 4 % 4 = 0 ∧ (∀ j, placeless ((t.core k).ctx j) = placeless ((s.core k).ctx j))
        ∧ (∀ b, b < slot + 28 ∨ slot + 32 ≤ b → nearByte t k b = nearByte s k b)
        ∧ (i ≠ 0 → (s.core k).ctl.kept = some ((t.ctx (k, 0)).run, (t.ctx (k, 0)).pc))
      (∀ tr, blockEnds 1 (pcv s + 4) s = .error tr → Traps s tr o) ∧ (blockEnds 1 (pcv s + 4) s = .ok () →
      (r = 0xFFFFFFFF → Answers o (fun t => left t ∧ (t.ctx (k, i)).run = .halted))
      ∧ (r ≠ 0xFFFFFFFF → s.isStart k r = true → Answers o (fun t => left t
          ∧ (t.ctx (k, i)).pc = BitVec.ofNat 32 r ∧ ((t.ctx (k, i)).run = .running ∨ (t.ctx (k, i)).run = .ready)
          ∧ (i = 0 → (t.ctx (k, i)).run = .running)))
      ∧ (r ≠ 0xFFFFFFFF → s.isStart k r = false → Traps s (.at_ .badtarget r) o)))

/-! ## Vectors -/

/-- A packed register holds its lanes (R86): lane l reads back the low w bits of the l-th value. -/
def Obligations.PackedLanesReadBack : Prop :=
  ∀ (w : Nat) (ls : List Nat) (l : Nat), w ∈ [4, 8, 16, 32, 64] → ls.length = 512 / w → l < 512 / w →
    (packLanes w ls).toNat / 2 ^ (w * l) % 2 ^ w = ls.getD l 0 % 2 ^ w

/-- Round(x, fmt, mode) (R89, R90), over the rationals: for a finite x that is not zero, with the spacing q of the values near
x, the result is the multiple m of q that the mode chooses, with NX when it is not x and UF when it is not x and x is tiny; past
the largest finite value it overflows. -/
def Obligations.RoundFollowsItsRule : Prop :=
  ∀ (f : Fmt) (mode : Rnd) (sat neg : Bool) (num den : Nat) (e : Int) (m : Nat),
    f ∈ [f32, f16, bf16, e4m3, e5m2, wide] → 0 < num → 0 < den →
    let x : ℚ := num / den
    let pow (k : Int) : ℚ := (2 : ℚ) ^ k
    let big : ℚ := (f.mmax : ℚ) * pow (f.emax - f.fbits)
    ((pow e ≤ x ∧ x < pow (e + 1) ∧ f.emin ≤ e) ∨ (x < pow f.emin ∧ e = f.emin)) →
    let n : ℚ := x / pow (e - f.fbits)
    (match mode with
      | .rne => |(m : ℚ) - n| ≤ 1 / 2 ∧ (|(m : ℚ) - n| = 1 / 2 → m % 2 = 0)
      | .rtz => (m : Int) = ⌊n⌋
      | .rdn => (m : Int) = if neg then ⌈n⌉ else ⌊n⌋
      | .rup => (m : Int) = if neg then ⌊n⌋ else ⌈n⌉) →
    let y : ℚ := m * pow (e - f.fbits)
    let r := roundTo f mode sat neg num den
    (y ≤ big → (∃ a b, f.decode r.val = .fin neg a b ∧ (a : ℚ) / b = y)
      ∧ r.flags = fIf (decide ((m : ℚ) ≠ n)) fNX ||| fIf (decide ((m : ℚ) ≠ n ∧ x < pow f.emin)) fUF)
    ∧ (big < y → r.flags = fOF ||| fNX ∧
      (if sat ∨ mode = .rtz ∨ (mode = .rdn ∧ neg = false) ∨ (mode = .rup ∧ neg = true) then
          ∃ a b, f.decode r.val = .fin neg a b ∧ (a : ℚ) / b = big
        else if f.inf then f.decode r.val = .inf neg else r.val = f.canonNaN))

/-- NaN patterns (R87): in FP32, FP16, BF16, E5M2 and wide float a NaN is quiet when its most significant fraction bit is 1,
both E4M3 NaNs are quiet, and each format has its canonical NaN. -/
def Obligations.NanPatterns : Prop :=
  (∀ f ∈ [f32, f16, bf16, e5m2, wide], ∀ x : Nat, x < 2 * f.signBit → x / 2 ^ f.fbits % 2 ^ f.ebits = f.etop → x % 2 ^ f.fbits ≠ 0 →
    f.decode x = .nan (decide (x / 2 ^ (f.fbits - 1) % 2 = 0)))
  ∧ (∀ x : Nat, x < 256 → ((e4m3.decode x).isNaN = true ↔ x = 0x7F ∨ x = 0xFF) ∧ (e4m3.decode x).snan = false)
  ∧ f32.canonNaN = 0x7FC00000 ∧ f16.canonNaN = 0x7E00 ∧ bf16.canonNaN = 0x7FC0 ∧ e4m3.canonNaN = 0x7F ∧ e5m2.canonNaN = 0x7E
  ∧ wide.canonNaN = 0x7FFF * 2 ^ 64 + 0x8000000000000000

/-- QL4 levels (R97). -/
def Obligations.Ql4Levels : Prop :=
  (List.range 16).map level = [-128, -89, -67, -50, -36, -24, -12, 0, 10, 21, 32, 44, 57, 73, 94, 127]

/-- The elementwise arithmetic, exponent and conversion forms (R89 to R96, R108 to R111, R391 to R394, R402, R403, R412): each
completes with its lane function in every lane, at its latency, the flags of all lanes ORed; integer lanes wrap, or clamp
under SAT; nothing else changes. -/
def Obligations.VectorArithmeticLanes : Prop :=
  ∀ (s : State) (h : Hdr) (tier : Option (BitVec 2)) (d a b c : VecReg) (ty ty2 : Ty) (rnd : Rnd) (sat : Bool) (part : BitVec 2),
    let w := ty.width
    let ftz := (s.ctx s.cur).ftz
    let fv (v : VecReg) (l : Nat) : FVal := (fmtOf ty).decode (ftzIn ftz ty (vl s w v l))
    let iv (v : VecReg) (l : Nat) : Int := if Ty.signed ty then sint w (vl s w v l) else vl s w v l
    let fin (r : Res Nat) : Res Nat := ftzOut ftz ty r
    let int (i : Int) : Res Nat := exactly (wrapW w (if sat then max (loOf (Ty.signed ty) w) (min (hiOf (Ty.signed ty) w) i) else i))
    let fm := fmtOf ty
    (Ready (vecNeed h tier [] [] [a, b] 1) s →
      GivesLanes s (if ty.isF then 4 else 2) d w (fun l => if ty.isF then fin (addV fm rnd (fv a l) (fv b l)) else int (iv a l + iv b l))
        (exec (.vadd h d a b ty rnd sat tier) s)
      ∧ GivesLanes s (if ty.isF then 4 else 2) d w
          (fun l => if ty.isF then fin (addV fm rnd (fv a l) (fv b l).negate) else int (iv a l - iv b l))
        (exec (.vsub h d a b ty rnd sat tier) s)
      ∧ GivesLanes s (if ty.isF then 4 else 3) d w (fun l => if ty.isF then fin (mulV fm rnd (fv a l) (fv b l)) else int (iv a l * iv b l))
        (exec (.vmul h d a b ty rnd sat tier) s)
      ∧ GivesLanes s (if ty.isF then 4 else 2) d w (fun l =>
          if ty.isF then minMaxF fm false (ftzIn ftz ty (vl s w a l)) (ftzIn ftz ty (vl s w b l))
          else exactly (if iv b l < iv a l then vl s w b l else vl s w a l)) (exec (.vmin h d a b ty tier) s)
      ∧ GivesLanes s (if ty.isF then 4 else 2) d w (fun l =>
          if ty.isF then minMaxF fm true (ftzIn ftz ty (vl s w a l)) (ftzIn ftz ty (vl s w b l))
          else exactly (if iv a l < iv b l then vl s w b l else vl s w a l)) (exec (.vmax h d a b ty tier) s)
      ∧ GivesLanes s 4 d w (fun l => fin (insx fm rnd sat (fv a l) (sint w (vl s w b l)))) (exec (.vinsx h d a b ty rnd sat tier) s)
      ∧ GivesLanes s 2 d w (fun l => int (iv a l * 2 ^ (vl s w b l % w))) (exec (.vshl h d a b ty sat tier) s)
      ∧ GivesLanes s 2 d w (fun l => exactly (vl s w a l / 2 ^ (vl s w b l % w))) (exec (.vshr h d a b ty tier) s)
      ∧ GivesLanes s 2 d w (fun l => exactly (wrapW w (sint w (vl s w a l) / 2 ^ (vl s w b l % w)))) (exec (.vsra h d a b ty tier) s))
    ∧ (Ready (vecNeed h tier [] [] [a, b] 4) s → ty.isF = true →
      GivesLanes s 14 d w (fun l => fin (divV fm rnd (fv a l) (fv b l))) (exec (.vdiv h d a b ty rnd tier) s))
    ∧ (Ready (vecNeed h tier [] [] [a] 4) s →
      GivesLanes s 14 d w (fun l => fin (sqrtV fm rnd (fv a l))) (exec (.vsqrt h d a ty rnd tier) s))
    ∧ (Ready (vecNeed h tier [] [] [a] 1) s →
      GivesLanes s 8 d w (fun l => fin (rcpV fm rnd (fv a l))) (exec (.vrcp h d a ty rnd tier) s)
      ∧ GivesLanes s 8 d w (fun l => fin (rsqV fm rnd (fv a l))) (exec (.vrsq h d a ty rnd tier) s)
      ∧ GivesLanes s 6 d w (fun l => fin (exp2f (fv a l))) (exec (.vexp2f h d a ty tier) s)
      ∧ GivesLanes s 4 d w (fun l => fin (rndi fm rnd (fv a l))) (exec (.vrndi h d a ty rnd tier) s)
      ∧ GivesLanes s 4 d w (fun l => extx w (fv a l)) (exec (.vextx h d a ty tier) s)
      ∧ (ty.isI = true → GivesLanes s 2 d w (fun l => int (-(iv a l))) (exec (.vneg h d a ty sat tier) s)
        ∧ GivesLanes s 2 d w (fun l => int (iv a l).natAbs) (exec (.vabs h d a ty sat tier) s))
      ∧ (ty.isF = true →
        GivesVec s d (packLanes w ((List.range (512 / w)).map (fun l => (vl s w a l + 2 ^ (w - 1)) % 2 ^ w)))
          (exec (.vneg h d a ty sat tier) s)
        ∧ GivesVec s d (packLanes w ((List.range (512 / w)).map (fun l => vl s w a l % 2 ^ (w - 1))))
          (exec (.vabs h d a ty sat tier) s))
      ∧ (ty2.width ≤ w → GivesLanes s 4 d w (fun l =>
          ftzOut ftz ty (convert ty ty2 rnd sat (ftzIn ftz ty2
            (vl s ty2.width a (if ty2.width < w then 512 / w * part.toNat + l else l)))))
        (exec (.vcvt h d a ty ty2 rnd sat tier part) s)))
    ∧ (Ready (vecNeed h tier [] [] [a, d] 1) s → w < ty2.width →
      let n := 512 / ty2.width
      let r (l : Nat) : Res Nat := ftzOut ftz ty (convert ty ty2 rnd sat (ftzIn ftz ty2 (vl s ty2.width a l)))
      let flags : BitVec 6 := ((List.range n).map r).foldr (fun r g => r.flags ||| g) 0
      GivesLater s 4 (.vec d.toNat (packLanes w ((List.range (512 / w)).map (fun l =>
          if n * part.toNat ≤ l ∧ l < n * part.toNat + n then (r (l - n * part.toNat)).val else vl s w d l)))
        :: (if flags = 0 then [] else [.orFlags flags])) (exec (.vcvt h d a ty ty2 rnd sat tier part) s))
    ∧ (Ready (vecNeed h tier [] [] [a, b, c] 1) s →
      GivesLanes s 4 d w (fun l => fin (fmaV fm rnd (fv a l) (fv b l) (fv c l))) (exec (.vfma h d a b ty rnd tier c) s)
      ∧ GivesLanes s 4 d w (fun l => fin (fmaV fm rnd (fv a l) (fv b l) (fv c l).negate)) (exec (.vfms h d a b ty rnd tier c) s))

/-- Comparison, selection, bitwise forms, moves, classes and codes (R94, R97 to R100, R106, R395, R398 to R401, R408, R409,
R411, and R166 for VKER): each completes with its lanes at its latency; nothing else changes. -/
def Obligations.VectorMovesComparesAndCodes : Prop :=
  ∀ (s : State) (h : Hdr) (tier : Option (BitVec 2)) (d a b c : VecReg) (x e : Reg) (ty ty2 : Ty) (cond : BitVec 3) (pw : Bool)
    (p : PredReg) (lit : DWord) (seg : BitVec 3) (ql : Bool),
    let w := ty.width
    let n := 512 / w
    let ftz := (s.ctx s.cur).ftz
    let ctab := (s.core s.cur.1).ctab
    let all (f : Nat → Nat) : Line := packLanes w ((List.range n).map f)
    let fv (v : VecReg) (l : Nat) : FVal := f32.decode (ftzIn ftz .f32 (vl s 32 v l))
    (Ready (vecNeed h tier [] [] [a, b] 1) s →
      GivesVec s d (vv s a &&& vv s b) (exec (.vand h d a b tier) s)
      ∧ GivesVec s d (vv s a ||| vv s b) (exec (.vor h d a b tier) s)
      ∧ GivesVec s d (vv s a ^^^ vv s b) (exec (.vxor h d a b tier) s)
      ∧ GivesLater s 2 [.vec d.toNat (all (fun l => vl s w a (vl s w b l % n)))] (exec (.vperm h d a b ty tier) s)
      ∧ (let r (l : Nat) : Res Bool := cmpLane ty cond.toNat ftz (vl s w a l) (vl s w b l)
         let flags : BitVec 6 := ((List.range n).map r).foldr (fun r g => r.flags ||| g) 0
         GivesLater s 2 (.vec d.toNat (all (fun l => if (r l).val then 2 ^ w - 1 else 0))
             :: ((if flags = 0 then [] else [.orFlags flags])
               ++ (if pw then predAct p (decide (∃ l, l < n ∧ (r l).val = true)) else [])))
           (exec (.vcmp h d a b ty tier cond pw p) s)))
    ∧ (Ready (vecNeed h tier [] [] [a, b, c] 1) s →
      GivesVec s d (all (fun l => if vl s w c l ≠ 0 then vl s w a l else vl s w b l)) (exec (.vsel h d a b ty tier c) s))
    ∧ (Ready (vecNeed h tier [x] [] [] 1) s → GivesVec s d (all (fun _ => (rv s x).toNat)) (exec (.vsplat h d x ty tier) s))
    ∧ (Ready { len := 5, hdr := h, tier := tier, unit := some .vector } s →
      GivesVec s d (all (fun _ => lit.toNat)) (exec (.vsplatXl h d ty tier lit) s))
    ∧ (Ready (vecNeed h tier [] [] [a] 1) s →
      GivesVec s d (vv s a) (exec (.vmov h d a tier) s)
      ∧ GivesLanes s 2 d w (fun l => exactly (classOf (fmtOf ty) (vl s w a l))) (exec (.vclass h d a ty tier) s)
      ∧ GivesLater s 2 [.vec d.toNat (all (fun l => wrapW w (if ty2 = .ql4 then level (vl s 4 a (n * seg.toNat + l))
          else (ctab.extractLsb' (8 * vl s 4 a (n * seg.toNat + l)) 8).toInt)))] (exec (.vcode h d a ty ty2 tier seg) s)
      ∧ GivesLanes s 8 d 32 (fun l => kernelF (s.core s.cur.1).xu.kern.kern.toNat (s.core s.cur.1).xu.kern.gamma.toNat (vl s 32 a l))
          (exec (.vker h d a ty tier) s))
    ∧ (Ready (vecNeed h tier [] [] [a, d] 1) s →
      let r (l : Nat) : Res Nat := encodeCode (ty == .ql4) ctab (fv a l)
      let flags : BitVec 6 := ((List.range 16).map r).foldr (fun r g => r.flags ||| g) 0
      GivesLater s 4 (.vec d.toNat (packLanes 4 ((List.range 128).map (fun l =>
          if 16 * seg.toNat ≤ l ∧ l < 16 * seg.toNat + 16 then (r (l - 16 * seg.toNat)).val else vl s 4 d l)))
        :: (if flags = 0 then [] else [.orFlags flags])) (exec (.vql4 h d a ty ty2 tier seg) s))
    ∧ (Ready (vecNeed h tier [e] [] [a, b, c, d] 1) s →
      GivesLanes s 6 d 32 (fun l => ftzOut ftz .f32 (scaleAcc
          (if ty2 = .i32 then .fin (decide (sint 32 (vl s 32 a l) < 0)) (sint 32 (vl s 32 a l)).natAbs 1 else fv a l) ql
          (vl s 32 b l % 256) (f32.decode (ftzIn ftz .f32 (vl s 32 c l)))
          (f32.decode (ftzIn ftz .f32 ((rv s e).toNat % 2 ^ 32))) (fv d l)))
        (exec (.vscac h d a b ty ty2 tier c e ql) s))

/-- VREDS and VREDX (R92, R94, R107, R392, R410): the pairwise tree over the lanes, the result at the latency of its levels,
sign-extended for signed types, the flags of all nodes ORed; nothing else changes. That FTZ (R92) acts on the operands and results of
every node of the tree, and not on the lanes and the last result alone, is the model's choice and not the spec's (log 25). -/
def Obligations.ReductionsFollowTheTree : Prop :=
  ∀ (s : State) (h : Hdr) (tier : Option (BitVec 2)) (d : Reg) (a : VecReg) (ty : Ty) (rnd : Rnd) (sat isMax : Bool),
    Ready (vecNeed h tier [] [d] [a] 1) s → ty.isFIU = true →
    let w := ty.width
    let ftz := (s.ctx s.cur).ftz
    let levels := if w = 8 then 6 else if w = 16 then 5 else 4
    let leaf (l : Nat) : Res Nat := exactly (ftzIn ftz ty (vl s w a l))
    let gives (lat : Nat) (node : Nat → Nat → Res Nat) (o : Host.Outcome State Fault Refusal) : Prop :=
      ∀ tree : Nat → Nat → Res Nat, (∀ l, tree 0 l = leaf l) →
        (∀ k i, tree (k + 1) i =
          let r := node (tree k (2 * i)).val (tree k (2 * i + 1)).val
          ⟨r.val, r.flags ||| (tree k (2 * i)).flags ||| (tree k (2 * i + 1)).flags⟩) →
        let r := tree levels 0
        let v : DWord := if Ty.signed ty then BitVec.ofInt 64 (sint w r.val) else BitVec.ofNat 64 r.val
        GivesLater s (lat * levels) (toReg s d v ++ (if r.flags = 0 then [] else [.orFlags r.flags])) o
    gives (if ty.isF then 4 else 2) (fun x y => if ty.isF
        then ftzOut ftz ty (addV (fmtOf ty) rnd ((fmtOf ty).decode (ftzIn ftz ty x)) ((fmtOf ty).decode (ftzIn ftz ty y)))
        else exactly (intRes (Ty.signed ty) sat w (intOf (Ty.signed ty) w x + intOf (Ty.signed ty) w y)))
      (exec (.vreds h d a ty rnd sat tier) s)
    ∧ gives 2 (fun x y => if ty.isF then minMaxF (fmtOf ty) isMax (ftzIn ftz ty x) (ftzIn ftz ty y)
        else exactly (if (if isMax then intOf (Ty.signed ty) w x < intOf (Ty.signed ty) w y
          else intOf (Ty.signed ty) w y < intOf (Ty.signed ty) w x) then y else x))
      (exec (.vredx h d a ty tier isMax) s)

/-- VLDS, VSTS, VGATH and VSCAT (R176, R178, R392, R404, R405): the exact lane addresses, ALIGN and then BANKRANGE of the lowest
lane that fails, ECCU of the lowest lane with an uncorrectable word, and else the lanes read at issue, single-bit errors corrected
and counted, or under way to their addresses in ascending order of lanes; no byte and no register changes at issue. -/
def Obligations.ElementwiseMemoryForms : Prop :=
  ∀ (s : State) (h : Hdr) (tier : Option (BitVec 2)) (d b : VecReg) (a x : Reg) (ty : Ty) (disp : BitVec 32),
    let w := ty.width
    let n := 512 / w
    let groups := (n + 15) / 16
    let stride (l : Nat) : Int := (rv s a).toNat + disp.toInt + l * (rv s x).toInt
    let offset (l : Nat) : Int := (rv s a).toNat + disp.toInt + vl s 32 b l
    let tests (m lanes : Nat) (ea : Nat → Int) (o : Host.Outcome State Fault Refusal) (good : (Nat → Nat) → Prop) : Prop :=
      (∀ l, l < lanes → ea l % m ≠ 0 → (∀ j, j < l → ea j % m = 0) → Traps s ⟨.align, 0, BitVec.ofInt 64 (ea l), false⟩ o)
      ∧ ((∀ l, l < lanes → ea l % m = 0) →
        let out (l : Nat) : Prop := ea l < 0 ∨ Config.localSize s.tier < ea l + m
        (∀ l, l < lanes → out l → (∀ j, j < l → ¬ out j) → Traps s ⟨.bankrange, 0, BitVec.ofInt 64 (ea l), false⟩ o)
        ∧ ((∀ l, l < lanes → ¬ out l) → ∀ f : Nat → Nat, (∀ l, l < lanes → (f l : Int) = ea l) → good f))
    let loads (m lanes : Nat) (ea : Nat → Int) (o : Host.Outcome State Fault Refusal) : Prop := tests m lanes ea o (fun f =>
      (∀ l bad, l < lanes → firstBadWord s (f l) m bad → (∀ j, j < l → readable s (f j) m) → Traps s (eccuOf s bad) o)
      ∧ ((∀ l, l < lanes → readable s (f l) m) → GivesCounted s (4 + (lanes + 15) / 16)
        [.vec d.toNat (packLanes (8 * m) ((List.range lanes).map (fun l => nearNat s (f l) m)))]
        (((List.range lanes).map (fun l => softCount s (f l) m)).sum) o)
      ∧ ((∀ l, l < lanes → cleanWords s (f l) m) → GivesLater s (4 + (lanes + 15) / 16)
        [.vec d.toNat (packLanes (8 * m) ((List.range lanes).map (fun l => nearNat s (f l) m)))] o))
    let stores (m lanes lat : Nat) (ea : Nat → Int) (o : Host.Outcome State Fault Refusal) : Prop := tests m lanes ea o (fun f =>
      GivesLater s (lat + (lanes + 15) / 16) [.lanes ((List.range lanes).map (fun l => (f l, leBytes m (vl s (8 * m) d l))))
        (decide (m < 4))] o)
    let near (m lanes : Nat) (ea : Nat → Int) : List (Nat × Nat) := (List.range lanes).flatMap (fun l => bytesAt (ea l) m)
    (w ∈ [8, 16, 32] →
      (Ready { vecNeed h tier [a, x] [] [] groups with bytes := near (w / 8) n stride } s →
        loads (w / 8) n stride (exec (.vlds h d a x ty tier disp) s))
      ∧ (Ready { vecNeed h tier [a, x] [] [d] ((if w < 32 then 2 else 1) * groups) with stored := near (w / 8) n stride } s →
        stores (w / 8) n (if w < 32 then 5 else 4) stride (exec (.vsts h d a x ty tier disp) s)))
    ∧ (w = 32 →
      (Ready { vecNeed h tier [a] [] [b] 1 with bytes := near 4 16 offset } s →
        loads 4 16 offset (exec (.vgath h d a b ty tier disp) s))
      ∧ (Ready { vecNeed h tier [a] [] [d, b] 1 with stored := near 4 16 offset } s → stores 4 16 4 offset (exec (.vscat h d a b ty tier disp) s)))

/-! ## Messages, far space, synchronisation -/

/-- SEND, MGET, MSGB and MCLR (R16, R18, R187, R355 to R357, R378, R379): ILLOP within a compute phase and across roles, ALIGN,
BANKRANGE of the destination and of the box, and else the message under way, to arrive no earlier than the route allows; MGET
clears its register and advances the tag, MCLR empties it, so that a reply to an earlier MGET no longer fills it. -/
def Obligations.MessageInstructions : Prop :=
  ∀ (s : State) (h : Hdr) (m : MsgReg) (d : VecReg) (a b : Reg) (s8 : Bool),
    let k := s.cur.1
    let c := s.cur.2
    let wa := (rv s a).toNat
    let dst := wa % 2 ^ 15
    let dctx := wa / 2 ^ 15 % 4
    let addr := (rv s b).toNat
    let n := if s8 then 8 else 64
    let hi := Config.statusBase s.tier
    let there := dst < Config.coreCount ∧ Machine.tierOf dst = s.tier ∧ s.partOf dst = s.partOf k
    let early := (s.now / cyc k + meshLatency k dst) * cyc k
    let sends (o : Host.Outcome State Fault Refusal) (hide : Ctx → Ctx) (ev : Nat → Event) (own : State → Prop) : Prop :=
      Answers o (fun t => Frame { machine := sending, ctx := hide } s t ∧ own t ∧ ∃ arr, early ≤ arr ∧ Posts s t arr (ev arr))
    let boxed (size : Nat) (o : Host.Outcome State Fault Refusal) (good : Prop) : Prop :=
      (addr % size ≠ 0 → Traps s (.at_ .align addr) o)
      ∧ (addr % size = 0 → ¬ there → Traps s (.at_ .bankrange wa) o)
      ∧ (addr % size = 0 → there → addr < Config.bankBase ∨ hi ≤ addr → Traps s (.at_ .bankrange addr) o)
      ∧ (addr % size = 0 → there → Config.bankBase ≤ addr → addr < hi → hi < addr + size → Traps s (.at_ .bankrange hi) o)
      ∧ (addr % size = 0 → there → Config.bankBase ≤ addr → addr + size ≤ hi → good)
    (inCompute s = true → Traps s (.of .illop) (exec (.send h m a d) s) ∧ Traps s (.of .illop) (exec (.mget h m a b) s)
      ∧ Traps s (.of .illop) (exec (.msgb h d a b s8) s))
    ∧ (Ready { len := 1, hdr := h, rs := [a], vs := [d], ill := inCompute s, path := some .ms } s →
      let cross := (inStep s = true ∧ dctx ≠ 0) ∨ (c ≠ 0 ∧ dctx = 0)
      (cross → Traps s (.of .illop) (exec (.send h m a d) s))
      ∧ (¬ cross → ¬ there → Traps s (.at_ .bankrange wa) (exec (.send h m a d) s))
      ∧ (¬ cross → there → sends (exec (.send h m a d) s) id (fun _ => .messageArrival dst dctx m (vv s d) k c (inStep s)) (fun _ => True)))
    ∧ (Ready { len := 1, hdr := h, rs := [a, b], ill := inCompute s, path := some .ms } s →
      boxed 64 (exec (.mget h m a b) s) (sends (exec (.mget h m a b) s) (fun x => { x with m := [] })
        (fun arr => .mgetPortRead dst addr k c m (inStep s) arr ((s.ctx s.cur).msg m).cleared)
        (fun t => let old := (s.ctx s.cur).msg m
          (old.last ≠ s.now + 1 → (t.ctx s.cur).msg m = { old with full := false, ffull := false, tag := old.tag + 1 })
          ∧ (t.ctx s.cur).msg m = old.request s.now
          ∧ ∀ r, r ≠ m → (t.ctx s.cur).msg r = (s.ctx s.cur).msg r)))
    ∧ (Ready { len := 1, hdr := h, rs := [a, b], vs := [d], ill := inCompute s, path := some .ms } s →
      boxed n (exec (.msgb h d a b s8) s) (sends (exec (.msgb h d a b s8) s) id
        (fun arr => .msgbPortWrite dst addr (vv s d) s8 k c (inStep s) arr) (fun _ => True)))
    ∧ (Ready { len := 1, hdr := h } s → Answers (exec (.mclr h m) s) (fun t => Frame { ctx := fun x => { x with m := [] } } s t
        ∧ (∀ r, r ≠ m → (t.ctx s.cur).msg r = (s.ctx s.cur).msg r)
        ∧ (t.ctx s.cur).msg m = (let old := (s.ctx s.cur).msg m
            let zero : Msg := { Msg.reset with tag := old.tag + 1, arr := old.arr, last := old.last, cleared := old.cleared + 1 }
            -- an arrival of the same cycle takes effect after it
            if old.last ≠ s.now + 1 then zero
            else if old.ffull = true then { zero with ffull := true, va := old.va, tstat := old.tstat }
            else { zero with data := old.data, full := old.full })))

/-- LDX and STX (R187, R189, R348, R385): ILLOP in c0 within a superstep, ALIGN of an address that is no multiple of 64, and else
the access under way: LDX clears mD, keeps the address and advances the tag; STX takes the next sequence number and is not
performed before an earlier access of the context to the same line, nor does an LDX read it before an earlier one is performed (R211).
A .device atomic keeps the same order (O35). -/
def Obligations.FarAccessInstructions : Prop :=
  ∀ (s : State) (h : Hdr) (m : MsgReg) (a : Reg) (b : VecReg),
    let k := s.cur.1
    let c := s.cur.2
    let va := rv s a
    let x := s.ctx s.cur
    let epoch := (s.part (s.partOf k)).epoch
    (inStep s = true → Traps s (.of .illop) (exec (.ldx h m a) s) ∧ Traps s (.of .illop) (exec (.stx h a b) s))
    ∧ (Ready { len := 1, hdr := h, rs := [a], ill := inStep s } s →
      (va.toNat % 64 ≠ 0 → Traps s ⟨.align, 0, va, false⟩ (exec (.ldx h m a) s))
      ∧ (va.toNat % 64 = 0 → Answers (exec (.ldx h m a) s) (fun t => Frame { machine := sending, ctx := fun x => { x with m := [] } } s t
        ∧ (∀ r, r ≠ m → (t.ctx s.cur).msg r = x.msg r)
        ∧ (t.ctx s.cur).msg m = { (x.msg m).request s.now with pend := true, va := va.setWidth 57 }
        ∧ ∃ at_, s.now + cyc k ≤ at_ ∧ Posts s t at_ (.ldxReply k c m va ((x.msg m).tag + 1) epoch)
          ∧ ∀ e ∈ s.agenda, Event.lineAccess e.ev = some ((k, c), va.toNat / 64) → e.at_ < at_)))
    ∧ (Ready { len := 1, hdr := h, rs := [a], vs := [b], ill := inStep s } s →
      (va.toNat % 64 ≠ 0 → Traps s ⟨.align, 0, va, false⟩ (exec (.stx h a b) s))
      ∧ (va.toNat % 64 = 0 → Answers (exec (.stx h a b) s) (fun t =>
        Frame { machine := sending, ctx := fun x => { x with stxNext := 0, stxOut := [] } } s t
        ∧ (t.ctx s.cur).stxNext = x.stxNext + 1 ∧ (t.ctx s.cur).stxOut = x.stxOut ++ [x.stxNext]
        ∧ ∃ at_, s.now + cyc k ≤ at_ ∧ Posts s t at_ (.stxComplete k c x.stxNext va (vv s b) epoch)
          ∧ ∀ e ∈ s.agenda, Event.lineAccess e.ev = some ((k, c), va.toNat / 64) → e.at_ < at_)))

/-- The bank atomics (R221, R235 to R237, R311, R312): ALIGN, BANKRANGE and PRIV of the operand's address, and else the request
under way with its operation, operands and number, and with the mark of a cluster form, whose reply takes R16's latency: to the
bank's wheel, to HBM, or to an SC window; the context waits for the reply. In a superstep the operation takes the slot behind its issue and its result is readable three cycles after the bank's
latency. -/
def Obligations.AtomicInstructions : Prop :=
  ∀ (s : State) (h : Hdr) (d a b : Reg) (ty : Ty) (scope : Scope) (i : BitVec 8) (sc : Bool) (op : Nat) (ins : Instr),
    (op, ins) ∈ [(0, Instr.aadd h d a b ty scope i sc), (1, .amin h d a b ty scope i sc), (2, .amax h d a b ty scope i sc),
      (3, .axchg h d a b ty scope i sc), (4, .acas h d a b ty scope i sc), (5, .aand h d a b ty scope i sc),
      (6, .aor h d a b ty scope i sc)] →
    let k := s.cur.1
    let c := s.cur.2
    let n := ty.width / 8
    let addr := (rv s a).toNat
    let peer := coreOfIndex (columnOf k) s.tier i.toNat
    let status := Config.statusBase s.tier
    let bank := Config.bankBase ≤ addr ∧ addr + n ≤ status
    let home : Option Nat := if scope = .core then some k else if scope = .cluster then some peer else none
    (scope = .core ∨ scope = .cluster ∨ scope = .device) → n ∈ [1, 2, 4, 8] →
    Ready (atomicNeed h d a b ty scope i sc s) s →
      (addr % n ≠ 0 → Traps s (.at_ .align addr) (exec ins s))
      ∧ (addr % n = 0 → scope = .cluster → ¬ bank → Traps s (.at_ .bankrange addr) (exec ins s))
      ∧ (addr % n = 0 → scope = .core → addr < Config.bankBase ∨ Config.bankEnd s.tier ≤ addr → Traps s (.at_ .bankrange addr) (exec ins s))
      ∧ (addr % n = 0 → scope = .core → c ≠ 0 → Config.bankBase ≤ addr → addr < Config.bankEnd s.tier → status < addr + n →
          Traps s (.at_ .priv addr) (exec ins s))
      ∧ (addr % n = 0 → bank ∨ scope = .device ∨ (scope = .core ∧ c = 0 ∧ Config.bankBase ≤ addr ∧ addr < Config.bankEnd s.tier) →
        let epoch := (s.part (s.partOf k)).epoch
        let r : AtomicReq := ⟨k, c, s.fresh, op, ty, home, scope == .cluster, addr, rv s b, rv s d, epoch⟩
        (inStep s = false → Answers (exec ins s) (fun t =>
          Frame { machine := fun s => { sending s with sc := [] } } s t ∧ Waits s t h (.reply d s.fresh)
          ∧ (sc = true → t.sc = s.sc ++ [⟨s.cur, s.fresh, d, .atomic r, s.now, none⟩] ∧ Posts s t s.now (.scAnnounce k c s.fresh))
          ∧ (sc = false → t.sc = s.sc
            ∧ (scope = .device → ∃ at_, s.now + cyc k ≤ at_ ∧ Posts s t at_ (.deviceAtomicReply r)
              ∧ ∀ e ∈ s.agenda, Event.lineAccess e.ev = some ((k, c), addr / 64) → e.at_ < at_)
            ∧ (scope ≠ .device →
              let from_ := s.now / cyc k + if scope = .core then 1 else meshLatency k peer
              let idx := indexOf k
              ∃ cy, from_ ≤ cy ∧ cy < from_ + 48 * Config.wheelRounds s.tier
                ∧ cy % (48 * Config.wheelRounds s.tier) = (48 * (idx / 16) + 3 * (idx % 16)) % (48 * Config.wheelRounds s.tier)
                ∧ Posts s t (cy * cyc k) (.atomicSlot r)))))
        ∧ (inStep s = true → (∀ e ∈ (s.core k).ctl.rmw, ¬ (e.who = k ∧ s.now + cyc k ≤ e.last)) →
          Answers (exec ins s) (fun t => Frame { core := fun c => { c with pend := [], ctl := { c.ctl with rmw := [] } } } s t
            ∧ (t.core k).ctl.rmw = (s.core k).ctl.rmw ++ [⟨s.now + cyc k, s.now + 3 * cyc k, addr / 8, k⟩]
            ∧ UnderWay s 3 [.atomic op ty addr (rv s b) (rv s d) d
                (s.now + (Config.bankLatency s.tier + 3 + if ty.width < 32 then 1 else 0) * cyc k) (s.ctx s.cur).pc
                (s.issuedWord s.cur)] t))
        ∧ (inStep s = true → (∃ e ∈ (s.core k).ctl.rmw, e.who = k ∧ s.now + cyc k ≤ e.last) → Traps s (.timing 2) (exec ins s)))

/-- What the seven bank atomics leave in their word, and the old value that wD takes (R236): sum, smaller, larger, swap, compare
and swap, and, or. -/
def Obligations.AtomicOperationsFollowTheirRule : Prop :=
  ∀ (ty : Ty) (old : Nat) (x y : DWord) (free : BitVec 32), ty.width ∈ [8, 16, 32, 64] → old < 2 ^ ty.width →
    let w := ty.width
    let sg := Ty.signed ty
    let b := x.toNat % 2 ^ w
    let less := if sg then sint w b < sint w old else b < old
    let v (op : Nat) := (rmwOp op ty old x y free).1
    v 0 = (old + b) % 2 ^ w ∧ v 1 = (if less then b else old) ∧ v 2 = (if less then old else b) ∧ v 3 = b
    ∧ v 4 = (if old = y.toNat % 2 ^ w then b else old) ∧ v 5 = old &&& b ∧ v 6 = old ||| b
    ∧ ∀ op, op < 7 → (rmwOp op ty old x y free).2 = if sg then BitVec.ofInt 64 (sint w old) else BitVec.ofNat 64 old

/-- The event-unit instructions (R220, R223, R225, R227, R228, R230 to R232, R337, R376, R381): ILLOP in c0 within a superstep,
ALIGN, BANKRANGE outside the blocks they name, and else the operation among those of the cycle in the order of R233; the context
waits for wD, six cycles after issue. EVSIG.sc is an SC operation. RVARR, EVSIG and MUNLK, which release, are tried again in the
next cycle while accesses that R220 orders before them are not performed (the model's place for that wait, log 47). -/
def Obligations.EventUnitInstructions : Prop :=
  ∀ (s : State) (h : Hdr) (d a b : Reg) (kind : BitVec 2),
    let k := s.cur.1
    let addr := (rv s a).toNat
    let within (lo hi : Nat) : Prop := 0x04000000 + lo ≤ addr ∧ addr < 0x04000000 + hi
    let takes (k : UnitKind) (at_ : Nat) (opnd : DWord) (o : Host.Outcome State Fault Refusal) : Prop := Answers o (fun t =>
      Frame { machine := fun s => { s with units := [] } } s t
      ∧ t.units = unitInsert ⟨s.now, k.stage, s.cur, d, k, at_, opnd⟩ s.units
      ∧ Waits s t h (.unitOp (s.now + 6 * cyc s.cur.1) d 0))
    let checks (rs : List Reg) (named : Prop) (o : Host.Outcome State Fault Refusal) (good : Prop) : Prop :=
      (inStep s = true → Traps s (.of .illop) o)
      ∧ (Ready { len := 3, hdr := h, rs := rs, rd := [d], ill := inStep s } s →
        (addr % 64 ≠ 0 → Traps s (.at_ .align addr) o) ∧ (addr % 64 = 0 → ¬ named → Traps s (.at_ .bankrange addr) o)
        ∧ (addr % 64 = 0 → named → good))
    let op (rs : List Reg) (named : Prop) (k : UnitKind) (opnd : DWord) (o : Host.Outcome State Fault Refusal) : Prop :=
      checks rs named o (takes k addr opnd o)
    let releases (before : Bool) (named : Prop) (u : UnitKind) (o : Host.Outcome State Fault Refusal) : Prop :=
      checks [a] named o ((before = false → takes u addr 0 o)
        ∧ (before = true → Answers o (fun t => Frame {} s t ∧ t.ctx s.cur = s.ctx s.cur ∧ (t.core k).ctl.issueAt = s.now + cyc k)))
    let barrierOrPoint := within 0 0x800 ∨ within 0x4000 0x7000
    (inStep s = true → Traps s (.of .illop) (exec (.slota h d a kind) s))
    ∧ (Ready { len := 3, hdr := h, rs := [a], rd := [d], ill := inStep s } s →
      takes (.slota kind) 0x04000000 (rv s a) (exec (.slota h d a kind) s))
    ∧ op [a] (within 0 0x1C00) .slotf 0 (exec (.slotf h d a) s)
    ∧ op [a, b] barrierOrPoint .rvinit (rv s b) (exec (.rvinit h d a b) s)
    ∧ releases (s.ownOut s.cur) barrierOrPoint .rvarr (exec (.rvarr h d a) s)
    ∧ (∀ n, (n = none ∧ ((s.ctx s.cur).lastCmd = none ∨ ∃ m, (s.ctx s.cur).lastCmd = some (m, true)))
        ∨ (∃ m, n = some m ∧ (s.ctx s.cur).lastCmd = some (m, false)) →
      op [a] barrierOrPoint (.rvarrEng n) 0 (exec (.rvarrEng h d a) s))
    ∧ op [a, b] barrierOrPoint .rvwait (rv s b) (exec (.rvwait h d a b) s)
    ∧ releases (s.dataOut s.cur) (within 0xC00 0x1C00) .evsig (exec (.evsig h d a false) s)
    ∧ op [a, b] (within 0xC00 0x1C00) .evwait (rv s b) (exec (.evwait h d a b) s)
    ∧ op [a] (within 0x800 0xC00) .mlock 0 (exec (.mlock h d a) s)
    ∧ releases (s.dataOut s.cur) (within 0x800 0xC00) .munlk (exec (.munlk h d a) s)
    ∧ checks [a] (within 0xC00 0x1C00) (exec (.evsig h d a true) s) (Answers (exec (.evsig h d a true) s) (fun t =>
        Frame { machine := fun s => { sending s with sc := [] } } s t ∧ Waits s t h (.reply d s.fresh)
        ∧ t.sc = s.sc ++ [⟨s.cur, s.fresh, d, .evsig addr, s.now, none⟩] ∧ Posts s t s.now (.scAnnounce k s.cur.2 s.fresh)))

/-- What an operation of an event unit does to an allocated line of its cluster (R228, R230 to R233): SLOTA of barrier and mutex
lines takes the lowest-numbered free line; RVINIT, RVARR and RVWAIT count arrivals and phases; EVSIG and EVWAIT count signals;
MLOCK and MUNLK pass the mutex; every status, and a fire to every waiter a beat later. -/
def Obligations.EventUnitOperationsFollowTheirRules : Prop :=
  ∀ (s : State) (o : UnitOp) (i : Nat), (s.ctx o.who).run = .held (.unitOp (o.at_ + 6 * cyc o.who.1) o.d 0) → i < 112 →
    o.addr = 0x04000000 + 64 * i →
    let t := s.applyUnit o
    let k := o.who.1
    let l := lineOf k i
    let e := s.line l
    let me := 4 * o.who.1 + o.who.2
    let gives (status : Nat) (v : BitVec 32 → Prop) : Prop := ∃ x, v x ∧ (t.ctx o.who).run =
      .held (.unitOp (o.at_ + 6 * cyc o.who.1) o.d (BitVec.ofNat 64 (x.toNat + status * 2 ^ 32)))
    let any : BitVec 32 → Prop := fun _ => True
    let is (n : Nat) : BitVec 32 → Prop := fun x => x = BitVec.ofNat 32 n
    let same := t.lines = s.lines
    let set (x : Nat) (e' : EvLine) : Prop := ∀ j, t.line j = if j = x then e' else s.line j
    let becomes (e' : EvLine) : Prop := set l e'
    let fires := ∀ w ∈ s.waiters l, ⟨o.at_ + Config.ticksPerBeat, .fireArrival w.1.1 w.1.2 w.2⟩ ∈ t.agenda
    let gated (w : Nat → Wait) : Prop := same ∧ ∃ n, (t.ctx o.who).run = .gated (w n)
    (∀ kind lo hi, (kind, lo, hi) ∈ [((0 : BitVec 2), 0, 32), (1, 32, 48)] → o.kind = .slota kind →
      (∀ f, lo ≤ f → f < hi → (s.line (lineOf k f)).alloc = none → (∀ j, lo ≤ j → j < f → (s.line (lineOf k j)).alloc ≠ none) →
        set (lineOf k f) { EvLine.reset with alloc := some (s.partOf k) } ∧ gives 0 (is (0x04000000 + 64 * f)))
      ∧ ((∀ j, lo ≤ j → j < hi → (s.line (lineOf k j)).alloc ≠ none) → same ∧ gives 2 (is 0)))
    ∧ (e.alloc = none → o.kind ∈ [.slotf, .rvinit, .rvarr, .rvwait, .evsig, .evwait, .mlock, .munlk] → same ∧ gives 3 any)
    ∧ (e.alloc ≠ none →
      (o.kind = .slotf → s.pointOf l = none → s.waiters l = [] → becomes .reset ∧ gives 0 any)
      ∧ (o.kind = .rvinit →
        (o.opnd = 0 ∨ 65535 < o.opnd.toNat → same ∧ gives 5 any)
        ∧ (o.opnd ≠ 0 → o.opnd.toNat ≤ 65535 → e.count ≠ 0 → same ∧ gives 4 any)
        ∧ (o.opnd ≠ 0 → o.opnd.toNat ≤ 65535 → e.count = 0 →
          becomes { e with count := o.opnd.setWidth 16, pend := o.opnd.setWidth 16 } ∧ gives 0 any))
      ∧ (o.kind = .rvarr →
        (e.count = 0 → same ∧ gives 5 any)
        ∧ (e.count ≠ 0 → e.pend = 1 → becomes { e with c := e.c + 1, pend := e.count } ∧ gives 0 (is e.c.toNat) ∧ fires)
        ∧ (e.count ≠ 0 → e.pend ≠ 1 → becomes { e with pend := e.pend - 1 } ∧ gives 0 (is e.c.toNat)))
      ∧ (o.kind = .rvwait → let token := o.opnd.setWidth 16
        (e.c = token → gated (fun n => .rvwait o.d l n token))
        ∧ (e.c = token + 1 → same ∧ gives 0 (is e.c.toNat))
        ∧ (e.c ≠ token → e.c ≠ token + 1 → same ∧ gives 1 (is e.c.toNat)))
      ∧ (o.kind = .evsig → becomes { e with gen := e.gen + 1 } ∧ gives 0 (is (e.gen.toNat + 1)) ∧ fires)
      ∧ (o.kind = .evwait →
        (e.gen ≠ o.opnd.setWidth 32 → same ∧ gives 0 (is e.gen.toNat)) ∧ (e.gen = o.opnd.setWidth 32 → gated (fun n => .evwait o.d l n)))
      ∧ (o.kind = .mlock →
        (e.holder = none ∨ e.holder = some me → becomes { e with holder := some me } ∧ gives 0 any)
        ∧ (e.holder ≠ none → e.holder ≠ some me → gated (fun n => .mlock o.d l n)))
      ∧ (o.kind = .munlk →
        (e.holder ≠ some me → same ∧ gives 6 any)
        ∧ (e.holder = some me → s.waiters l = [] → becomes { e with holder := none } ∧ gives 0 any)
        ∧ (e.holder = some me → s.waiters l ≠ [] → gives 0 any ∧ ∃ w ∈ s.waiters l,
          becomes { e with holder := some (4 * w.1.1 + w.1.2) }
          ∧ ⟨o.at_ + Config.ticksPerBeat, .fireArrival w.1.1 w.1.2 w.2⟩ ∈ t.agenda)))

/-- FENCE, FENCEX, BIND, ACQ and REL (R215 to R219, R314, R339, R369): in timed code a fence on LS, MS, VT and MX only advances
and one on another path raises ILLOP; elsewhere it holds its context for the scope's least latency; BIND checks its operands in
order and adds, replaces or removes a binding; ACQ and REL of an unbound object raise ILLOP, else the access is under way, a far one
behind the context's earlier accesses to the line (R211), and the context waits for the reply. The model's choices and not the spec's: a
fence of scope core leaves the context's own-core writes of its first path to hold the accesses behind it on its second (log 50), and
BIND raises ILLOP for an endpoint that names no core of its tier (log 30). -/
def Obligations.OrderingInstructions : Prop :=
  ∀ (s : State) (h : Hdr) (scope : Scope) (p1 p2 : Path) (d a b : Reg) (n : BitVec 30) (sc : Bool),
    let k := s.cur.1
    let x := s.ctx s.cur
    let timed (p : Path) : Prop := p = .ls ∨ p = .ms ∨ p = .vt ∨ p = .mx
    let least : Nat := match scope with
      | .core => cyc k
      | .gang | .cluster => 2 * Config.ticksPerBeat
      | .column => 3 * Config.ticksPerBeat
      | .quad => 6 * Config.ticksPerBeat
      | .device | .system => 10 * Config.ticksPerBeat
    let fences (q1 q2 : Path) (o : Host.Outcome State Fault Refusal) : Prop :=
      (inStep s = true → ¬ (timed q1 ∧ timed q2) → Traps s (.of .illop) o)
      ∧ (Ready { len := 3, hdr := h, ill := inStep s && !(timedPath q1 && timedPath q2) } s →
        (inStep s = true → Answers o (fun t => Frame {} s t ∧ ((s.ctx s.cur).rep = none → GoesTo s t (behind s 3))))
        ∧ (inStep s = false → Answers o (fun t =>
          Frame { ctx := fun x => if scope = .core then { x with fenced := [] } else x } s t
          ∧ Waits s t h (.fence q1 scope (s.now + least))
          -- the own-core writes of LS or MS that the fence leaves under way hold the accesses behind it
          ∧ (scope = .core → ∀ l, (q1, l) ∈ [(Path.ls, s.lsWrites s.cur), (.ms, s.msWrites s.cur)] →
            ∀ w ∈ l, w.home = some k → 0 < w.due → ∃ f ∈ (t.ctx s.cur).fenced, f.path = q2 ∧ w.due ≤ f.due))))
    fences .ls .ls (exec (.fence h scope) s) ∧ fences p1 p2 (exec (.fencex h scope p1 p2) s)
    ∧ (Ready { len := 3, hdr := h, rs := [a, b] } s →
      let o := rv s a
      let r := rv s b
      let fits (e : DWord) : Prop := epLocal e = false ∧ epOk e = true
      let ins := exec (.bind h a b scope n) s
      let same := x.binds.filter (fun y => y.obj == o)
      let binds (l : List Binding) : Prop := Answers ins (fun t => Frame { ctx := fun x => { x with binds := [] } } s t
        ∧ (t.ctx s.cur).binds = l)
      let ninth : Prop := n ≠ 0 ∧ same = [] ∧ 8 ≤ x.binds.length
      (¬ (fits o ∧ fits r) ∨ ninth → Traps s (.of .illop) ins)
      ∧ (fits o → fits r → ¬ ninth → o.toNat % 8 ≠ 0 → Traps s ⟨.align, 0, o, false⟩ ins)
      ∧ (fits o → fits r → ¬ ninth → o.toNat % 8 = 0 → r.toNat % 64 ≠ 0 → Traps s ⟨.align, 0, r, false⟩ ins)
      ∧ (fits o → fits r → o.toNat % 8 = 0 → r.toNat % 64 = 0 →
        (n = 0 → binds (x.binds.filter (fun y => y.obj != o)))
        ∧ (n ≠ 0 → same ≠ [] → binds (x.binds.map (fun y => if y.obj = o then ⟨o, r, n, scope⟩ else y)))
        ∧ (n ≠ 0 → same = [] → x.binds.length < 8 → binds (x.binds ++ [⟨o, r, n, scope⟩]))))
    ∧ (∀ rel ins, (rel, ins) ∈ [(false, Instr.acq h d a sc), (true, Instr.rel h d a sc)] →
      (inStep s = true → Traps s (.of .illop) (exec ins s))
      ∧ (let obj := rv s a
        let own := rel = false ∧ epNear obj = true ∧ epCore (columnOf k) obj = k
        Ready { len := 3, hdr := h, rs := [a], rd := [d], ill := inStep s
                bytes := if own then [(epAddr obj (epOff obj), 8)] else [], reading := [] } s →
        ((∀ y ∈ x.binds, y.obj ≠ obj) → Traps s (.of .illop) (exec ins s))
        ∧ ((∃ y ∈ x.binds, y.obj = obj) → Answers (exec ins s) (fun t =>
          Frame { machine := fun s => { sending s with sc := [] } } s t ∧ Waits s t h (.reply d s.fresh)
          ∧ (sc = true → t.sc = s.sc ++ [⟨s.cur, s.fresh, d, .object obj rel, s.now, none⟩]
            ∧ Posts s t s.now (.scAnnounce k s.cur.2 s.fresh))
          ∧ (sc = false → t.sc = s.sc ∧ ∃ at_, s.now + cyc k ≤ at_
            ∧ Posts s t at_ (.objectReply k s.cur.2 s.fresh obj rel (s.part (s.partOf k)).epoch)
            ∧ (epNear obj = false → ∀ e ∈ s.agenda, Event.lineAccess e.ev = some (s.cur, obj.toNat / 64) → e.at_ < at_))))))

/-- SLEEP, TWAIT, MARM, MWAIT and FSTAT (R194, R202, R203, R280, R342, R352, R353): ILLOP of a duration of 2^40 ns or more and of
an unarmed MWAIT; TWAIT ends at issue with 0 or 2 for a full or fault-full register; MARM keeps the address; MWAIT ends at once
when its condition holds; FARFAULT of a firewalled extent; and else the wait. A write to the word that a Gated MWAIT watches, by any
port, wakes the context with the word as it stands after the write when the condition holds, and else leaves it Gated (R353). -/
def Obligations.WaitingInstructions : Prop :=
  (∀ (s : State) (k i u w : Nat) (p : Pend) (d : Reg) (v : DWord) (ne : Bool), i ∈ [1, 2, 3] → (s.core k).pend = [p] → p.due ≤ u →
    ((∃ h : Held, p.act = .port h ∧ h.port ≠ 3 ∧ h.addr ≤ w ∧ w + 8 ≤ h.addr + h.bytes.length ∧ h.bad = [])
      ∨ ∃ a bs, p.act = .store a bs false ∧ a ≤ w ∧ w + 8 ≤ a + bs.length) →
    (s.core k).ctl.rmw = [] → (s.ctx (k, i)).run = .gated (.mwait d v ne) → (s.ctx (k, i)).monitor = some w → w % 8 = 0 →
    (∀ j, j ≠ i → ((s.core k).ctx j).monitor = none) →
    let t := s.settle k u
    let y := t.ctx (k, i)
    let now : DWord := BitVec.ofNat 64 (coreNat t k w 8)
    let holds := if ne = true then now ≠ v else v.toNat % 2 ^ 48 ≤ now.toNat % 2 ^ 48
    (holds → y.run = .ready ∧ y.readyAt = ceilTo (cyc k) s.now + cyc k
      ∧ { placeless y with g := [], stack := [] } = { placeless (s.ctx (k, i)) with g := [], stack := [] }
      ∧ ∀ r, y.reg (Machine.tierOf k) r = if r = d ∧ d ≠ 0 then now else (s.ctx (k, i)).reg (Machine.tierOf k) r)
    ∧ (¬ holds → y = s.ctx (k, i)))
  ∧ ∀ (s : State) (h : Hdr) (d a : Reg) (m : MsgReg) (ne : Bool),
    let k := s.cur.1
    let c := s.cur.2
    let x := s.ctx s.cur
    let v := rv s a
    let gates (w : Wait) (t : State) : Prop := (t.ctx s.cur).run = .gated w ∧ (t.ctx s.cur).pc = x.pc
      ∧ ((s.core k).ctl.turn = some c → (t.core k).ctl.turn = none)
    let counts (at_ : Nat) : Prop := ∃ cycles, at_ = s.now + cycles * cyc k
      ∧ v.toNat * nsUnit ≤ cycles * cyc k * tickUnits s.dev.power.cur
      ∧ (cycles ≠ 0 → (cycles - 1) * cyc k * tickUnits s.dev.power.cur < v.toNat * nsUnit)
    (inStep s = true → Traps s (.of .illop) (exec (.sleep h a) s) ∧ Traps s (.of .illop) (exec (.twait h d a m) s)
      ∧ Traps s (.of .illop) (exec (.mwait h d a ne) s) ∧ Traps s (.of .illop) (exec (.fstat h d a) s))
    ∧ (0 < tickUnits s.dev.power.cur →
      (Ready { len := 3, hdr := h, rs := [a], ill := inStep s } s →
        (2 ^ 40 ≤ v.toNat → Traps s (.of .illop) (exec (.sleep h a) s))
        ∧ (v.toNat < 2 ^ 40 → Answers (exec (.sleep h a) s) (fun t => Frame { machine := sending } s t
          ∧ gates (.sleep (v.toNat * nsUnit) s.now) t ∧ ∃ at_, counts at_ ∧ Posts s t at_ (.sleepExpiry k c))))
      ∧ (Ready { len := 3, hdr := h, rs := [a], rd := [d], ill := inStep s } s →
        let o := exec (.twait h d a m) s
        (2 ^ 40 ≤ v.toNat → Traps s (.of .illop) o)
        ∧ (v.toNat < 2 ^ 40 → (x.msg m).full = true → GivesScalar s 1 d 0 o)
        ∧ (v.toNat < 2 ^ 40 → (x.msg m).full = false → (x.msg m).ffull = true → GivesScalar s 1 d 2 o)
        ∧ (v.toNat < 2 ^ 40 → (x.msg m).full = false → (x.msg m).ffull = false → Answers o (fun t => Frame { machine := sending } s t
          ∧ gates (.twait d m (v.toNat * nsUnit) s.now) t ∧ ∃ at_, counts at_ ∧ Posts s t at_ (.twaitExpiry k c)))))
    ∧ (Ready { len := 3, hdr := h, rs := [a] } s →
      (v.toNat % 8 ≠ 0 → Traps s ⟨.align, 0, v, false⟩ (exec (.marm h a) s))
      ∧ (v.toNat % 8 = 0 → v.toNat < Config.bankBase ∨ Config.statusBase s.tier + 32 ≤ v.toNat →
        Traps s ⟨.bankrange, 0, v, false⟩ (exec (.marm h a) s))
      ∧ (v.toNat % 8 = 0 → Config.bankBase ≤ v.toNat → v.toNat < Config.statusBase s.tier + 32 →
        Answers (exec (.marm h a) s) (fun t => Frame { ctx := fun x => { x with monitor := none } } s t
          ∧ (t.ctx s.cur).monitor = some v.toNat)))
    ∧ (let o := exec (.mwait h d a ne) s
       (x.monitor = none → Traps s (.of .illop) o)
       ∧ ∀ w, x.monitor = some w → Ready { len := 3, hdr := h, rs := [a], rd := [d], ill := inStep s, bytes := [(w, 8)] } s →
        (∀ bad, firstBadWord s w 8 bad → Traps s (eccuOf s bad) o)
        ∧ (cleanWords s w 8 →
          let now : DWord := BitVec.ofNat 64 (nearNat s w 8)
          let holds := if ne = true then now ≠ v else v.toNat % 2 ^ 48 ≤ now.toNat % 2 ^ 48
          (holds → GivesScalar s (Config.bankLatency s.tier) d now o)
          ∧ (¬ holds → Answers o (fun t => Frame {} s t ∧ gates (.mwait d v ne) t)))
        ∧ (readable s w 8 →
          let now : DWord := BitVec.ofNat 64 (nearNat s w 8)
          let holds := if ne = true then now ≠ v else v.toNat % 2 ^ 48 ≤ now.toNat % 2 ^ 48
          (holds → GivesCounted s (Config.bankLatency s.tier) (toReg s d now) (softCount s w 8) o)
          ∧ (¬ holds → Answers o (fun t => Frame { machine := colless } s t ∧ Counts s t (softCount s w 8) ∧ gates (.mwait d v ne) t))))
    ∧ (Ready { len := 3, hdr := h, rs := [a], rd := [d], ill := inStep s } s →
      let ext := v.toNat % 2 ^ 13
      let pa := Config.flashBase + ext * Config.extentSize
      let passes := (s.part (s.partOf k)).passes pa false
      (passes = false → Traps s ⟨.farfault, 0x04, BitVec.ofNat 64 pa, false⟩ (exec (.fstat h d a) s))
      ∧ (passes = true → Answers (exec (.fstat h d a) s) (fun t => Frame { machine := sending } s t
        ∧ Waits s t h (.reply d s.fresh)
        ∧ ∃ at_, s.now + cyc k ≤ at_ ∧ Posts s t at_ (.fstatResult k c s.fresh ext))))

/-- CPY, CPYS, CPYG, COLL, FINST and STAGE (R195, R197, R200, R206, R231, R329, R331, R340, R384): the command block's place and
words are checked, then its fields; the command takes the lowest free slot of its lane and is to start, an install also a place in
its extent's queue (R192); a full lane is a deviation in timed code and a wait elsewhere; STAGE raises the counter, to 256 at most. -/
def Obligations.EngineCommands : Prop :=
  ∀ (s : State) (h : Hdr) (a : Reg) (scope : Scope) (ty : Ty) (ck op : BitVec 2) (kind : CmdKind) (sc : Scope) (ill : Bool) (ins : Instr),
    (kind, sc, ill, ins) ∈ [(CmdKind.cpy, scope, false, Instr.cpy h a scope), (.cpys, scope, false, .cpys h a scope),
      (.cpyg, scope, false, .cpyg h a scope), (.coll ck.toNat op.toNat ty, scope, false, .coll h a ty scope ck op),
      (.finst, .device, inStep s, .finst h a)] →
    let k := s.cur.1
    let col := columnOf k
    let cb := (rv s a).toNat
    let size := Config.localSize s.tier
    let x := nearNat s cb 64
    let cmd := Cmd.ofNat x
    let n := ((s.part (s.partOf k)).members cmd.group).length
    let lane (i : Nat) : Prop := if s.cur.2 = 0 then i < 8 else 8 ≤ i ∧ i < 32
    let free (i : Nat) : Prop := lane i ∧ (s.col col).slot i = none
    let o := exec ins s
    (ill = true → Traps s (.of .illop) o)
    ∧ (Ready { len := 3, hdr := h, rs := [a], ill := ill, bytes := bytesAt (rv s a).toNat 64, path := some kind.path } s →
      (cb % 64 ≠ 0 → Traps s (.at_ .align cb) o)
      ∧ (cb % 64 = 0 → size < cb + 64 → Traps s (.at_ .bankrange cb) o)
      ∧ (cb % 64 = 0 → cb + 64 ≤ size → (inStep s = true → storing s cb 64 = false) →
        (∀ bad, firstBadWord s cb 64 bad → Traps s (eccuOf s bad) o)
        ∧ (readable s cb 64 →
          let refused := cmdIll kind x n = true ∨ (cmd.rva = true ∧ s.declares s.cur cmd.rvl = false)
          (refused → Traps s (.of .illop) o)
          ∧ (¬ refused → ∀ tr, cmdRange kind cmd n = .error tr → Traps s tr o)
          ∧ (¬ refused → cmdRange kind cmd n = .ok () →
            ((∀ i, ¬ free i) → inStep s = true → Traps s (.timing 2) o)
            ∧ ((∀ i, ¬ free i) → inStep s = false → Answers o (fun t => Frame {} s t ∧ t.ctx s.cur = s.ctx s.cur
              ∧ (t.core k).ctl.issueAt = s.now + cyc k))
            ∧ ∀ i, free i → (∀ j, j < i → ¬ free j) → Answers o (fun t =>
              Frame { machine := fun s => { sending s with cols := [], cmdNum := 0, dev := { s.dev with flash := [] } }
                      ctx := fun x => { x with lastCmd := none } } s t
              ∧ t.cmdNum = s.cmdNum + 1 ∧ (t.ctx s.cur).lastCmd = some (s.cmdNum, cmd.rva)
              ∧ (∀ x, t.dev.extent x = if kind = .finst ∧ x = cmd.dst.toNat then
                  { s.dev.extent x with queue := (s.dev.extent x).queue ++ [(col, i)] } else s.dev.extent x)
              ∧ (∀ c, c ≠ col → t.col c = s.col c)
              ∧ { t.col col with slots := [] } = { s.col col with slots := [], corrected := (s.col col).corrected + softCount s cb 64 }
              ∧ (∀ j, j ≠ i → (t.col col).slot j = (s.col col).slot j)
              ∧ (t.col col).slot i = some ⟨kind, cmd, s.partOf k, some s.cur, none, cb, sc, s.cmdNum, false, 0, 0, none, 0,
                  if cmd.rva then [0x04004000 + 64 * (24 * cmd.rvl + cmd.rvp)] else [], false, []⟩
              ∧ Posts s t (s.now + 1) (.engineCommandStart col i))))))
    ∧ (Ready { len := 3, hdr := h, rs := [a] } s → Answers (exec (.stage h a) s) (fun t =>
      Frame { machine := fun s => { sending s with cols := [] } } s t ∧ (∀ c, c ≠ col → t.col c = s.col c)
      ∧ t.col col = { s.col col with scnt := min 256 (max (s.col col).scnt ((rv s a).toNat % 65536)) }
      ∧ Posts s t s.now (.staticEntryStart col)))

/-- The matrix instructions (R118 to R131, R133, R343, R359, R360): GANG and a follower's or leader's MMA only where R120 and
R121 let them, MSTAT's word, and the checks and the place in the slice's queue of MMA, MMAS, MWLD, MZERO, MRD and MSCAC; an idle
slice starts at once, a fifth outstanding operation is a deviation in timed code. A GANG is acted on three cycles after its own, also one
with a false guard, which asserts no line (R121, R343). BANKRANGE of an MSCAC's arrays and of an MMAS's block is the model's choice and
not the spec's (logs 55, 57). -/
def Obligations.MatrixInstructions : Prop :=
  ∀ (s : State) (h : Hdr) (d : TileReg) (v : VecReg) (m : MsgReg) (r a b : Reg) (ty ty2 : Ty) (k : BitVec 14) (koff : BitVec 13)
    (t z sat axis : Bool) (row : BitVec 5),
    let n := s.cur.1
    let q := (sl s).queue.length
    let hides : Core → Core := fun c => { c with slice := .reset }
    -- the operation joins the queue of a slice that `f` changes at issue
    let queues (hits : Nat) (f : Slice → Slice) (what : SliceKind) (o : Host.Outcome State Fault Refusal) : Prop := Answers o (fun u =>
      Frame { machine := fun s => colless (sending s), core := hides } s u ∧ Counts s u hits
      ∧ (u.core n).slice = { f (sl s) with queue := (sl s).queue ++ 
          [(⟨s.cur.2, (s.ctx s.cur).pc, s.issuedWord s.cur, what, none, [], [], [], 0, [], false⟩ : SliceOp)] }
      ∧ (q = 0 → Posts s u s.now (.sliceOpStart n)) ∧ (q ≠ 0 → u.agenda = s.agenda))
    -- the checks of an entry, and its place in the queue
    let counting (hits : Nat) (idle : Bool) (f : Slice → Slice) (check : Except Trap SliceKind)
        (o : Host.Outcome State Fault Refusal) : Prop :=
      (sliceWaits idle s = true → Answers o (fun u => Frame {} s u ∧ u.ctx s.cur = s.ctx s.cur ∧ (u.core n).ctl.issueAt = s.now + cyc n))
      ∧ (sliceWaits idle s = false →
        (∀ tr, check = .error tr → Traps s tr o)
        ∧ ∀ what, check = .ok what → (4 ≤ q → Traps s (.timing 2) o) ∧ (q < 4 → queues hits f what o))
    let takes := counting 0
    let need : Need := { len := 3, hdr := h, unit := some .matrix }
    let poisoned : Trap := ⟨.tilepois, ((sl s).tile d).poisKind, d.setWidth 64, true⟩
    (inSlaved s = false → Traps s (.of .illop) (exec (.gang h) s))
    ∧ (Ready { len := 3, hdr := h, ill := !inSlaved s, unit := some .matrix } s → Answers (exec (.gang h) s) (fun u =>
        Frame { machine := sending, core := hides } s u
        ∧ (u.core n).slice = { sl s with ganged := true, line := (sl s).line ++ [s.now] }
        ∧ Posts s u (s.now + 3 * cyc n) (.gangBarrierTimeout n)))
    ∧ (let g : Need := { len := 3, hdr := h, ill := !inSlaved s, unit := some .matrix }
       illegal g s = false → guardWait g s = none → guardHolds g s = false →
        Answers (exec (.gang h) s) (fun u => Frame { machine := sending } s u ∧ Posts s u (s.now + 3 * cyc n) (.gangBarrierTimeout n)))
    ∧ (Ready { need with rd := [r] } s → GivesScalar s 1 r (mstatWord (sl s)) (exec (.mstat h r) s))
    ∧ (Ready need s → takes true id (.ok (.mzero d)) (exec (.mzero h d) s)
      ∧ takes true id (if ((sl s).view d).2.2 then .error poisoned else .ok (.mrd v d ty sat row.toNat)) (exec (.mrd h v d ty sat row) s))
    ∧ (Ready { need with rs := [a, b], bytes := bytesAt (rv s a).toNat 2048 ++ bytesAt (rv s b).toNat 128
                         stored := bytesAt (rv s a).toNat 2048 } s →
      takes true id (mscacCheck d a b s) (exec (.mscac h d a b) s))
    ∧ (Ready { need with rs := [a, b], bytes := bytesAt (rv s a).toNat (imageBytes ty k.toNat), path := some .mx } s →
      let addr := (rv s a).toNat
      let tag : WTag := { fmt := ty, axis := axis, k := k, ver := (rv s b).setWidth 16 }
      let hi := Config.bankEnd s.tier
      takes true (fun l => { l with wcheck := some tag })
        (if addr % 64 ≠ 0 then .error (.at_ .align addr)
         else if addr < Config.bankBase ∨ hi ≤ addr then .error (.at_ .bankrange addr)
         else if hi < addr + imageBytes ty k.toNat then .error (.at_ .bankrange hi)
         else .ok (.mwld tag addr)) (exec (.mwld h a b ty k axis) s))
    ∧ (s.cur.2 = 0 → Traps s (.of .illop) (exec (.mmas h d a m ty ty2) s))
    ∧ (Ready { need with rs := [a], bytes := bytesAt (rv s a).toNat 64, ill := s.cur.2 == 0, path := some .ga } s →
      counting (softCount s (rv s a).toNat 64) false id (mmasCheck d a m ty ty2 s) (exec (.mmas h d a m ty ty2) s))
    ∧ (s.cur.2 ≠ 0 ∨ (inSlaved s = true ∧ (sl s).ganged = false) →
      Traps s (.of .illop) (exec (.mma h d a ty ty2 k koff t z) s))
    ∧ (Ready { need with rs := [a], ill := s.cur.2 != 0 || (inSlaved s && !(sl s).ganged), path := some .mx } s → inSlaved s = false →
      takes false id (mmaCheck d a ty ty2 k.toNat koff.toNat t z s) (exec (.mma h d a ty ty2 k koff t z) s))
    ∧ (Ready { need with rs := [a], ill := s.cur.2 != 0 || (inSlaved s && !(sl s).ganged), path := some .mx } s → inSlaved s = true →
      ((followerSkew s).isSome = true → takes false id (mmaCheck d a ty ty2 k.toNat koff.toNat t z s) (exec (.mma h d a ty ty2 k koff t z) s))
      ∧ (followerSkew s = none → ∀ what, mmaCheck d a ty ty2 k.toNat koff.toNat t z s = .ok what → q < 4 →
        Answers (exec (.mma h d a ty ty2 k koff t z) s) (fun u =>
          (u.core n).slice.queue = (sl s).queue ++ [⟨s.cur.2, (s.ctx s.cur).pc, s.issuedWord s.cur, what, none, [], [], [], 0, [], false⟩]
          ∧ (q = 0 → Posts s u s.now (.sliceOpStart n))
          ∧ ∀ i, i < Config.clusterSide (Machine.tierOf n) → (u.core (leaderOf n + i)).slice.streams
              = (s.core (leaderOf n + i)).slice.streams ++ [⟨s.now, none, []⟩])))

/-- RSTR, PRLG and WSLD (R140, R141, R144 to R148, R368): ILLOP outside a vert phase and for the crown without SELF, the checks of
the operands, ECCU, a ninth outstanding operation; else the operation is on the lane from its start beat to its end beat, and an
RSTR to the parent gives the parent's port its contribution, an empty one for a false guard. That the SELF operations and the lane's
of a core share one sequence of start beats is the model's choice and not the spec's, which speaks of the lane's operations (R148,
log 27). -/
def Obligations.LevelInstructions : Prop :=
  ∀ (s : State) (h : Hdr) (d : WsReg) (a b : Reg) (ty : Ty) (ovw self : Bool),
    let k := s.cur.1
    let p := parentOf k
    let c := s.core k
    let bank := (rv s b).toNat
    let ws := weightsOf c d.toNat
    let n := vertNeed h a b self s
    let read := softCount s (rv s a).toNat 64
    let rstr := exec (.rstr h d a b ty ovw self) s
    let prlg := exec (.prlg h d a b ty ovw self) s
    let beats (ds : VDesc) : Nat := 4 + ceilDiv ds.boxBytes (if self = false ∧ s.halfColumn k = true then 16 else 32)
    let times (ds : VDesc) (st en : Nat) : Prop := s.now ≤ st ∧ (∀ o ∈ c.vert.ops, o.endT ≤ st)
      ∧ (st = ceilTo Config.ticksPerBeat s.now ∨ ∃ o ∈ c.vert.ops, o.endT = st)
      ∧ en = st + beats ds * Config.ticksPerBeat
    let due (t : State) (st en : Nat) : Prop := ⟨st, .verticalOpStart k⟩ ∈ t.agenda ∧ ⟨en, .verticalOpEnd k⟩ ∈ t.agenda
      ∧ ∀ e ∈ s.agenda, e ∈ t.agenda
    let gives (t : State) (vals : List (Nat × Word)) (en : Nat) : Prop :=
      (t.core k).vert.nth = c.vert.nth + 1
      ∧ (t.core p).vert.sets = (s.core p).vert.sets ++ [⟨childIndex k, c.vert.nth, ovw, vals, en⟩]
    let keeps (t : State) : Prop := (∀ j b, nearByte t j b = nearByte s j b)
      ∧ placeless (t.ctx s.cur) = placeless (s.ctx s.cur) ∧ (∀ j, j ≠ k → (t.core j).ctxs = (s.core j).ctxs)
      ∧ (∀ j, j ≠ k → j ≠ p → (t.core j).vert = (s.core j).vert) ∧ t.dev = s.dev
    (n.ill = true → Traps s (.of .illop) rstr ∧ Traps s (.of .illop) prlg)
    ∧ (Ready n s →
      (∀ tr, checkVert s a b self = .error tr → Traps s tr rstr ∧ Traps s tr prlg)
      ∧ ∀ ds, checkVert s a b self = .ok ds →
        let fine := points ds.nx ds.ny ds.nz
        let bad (w : Nat) : Prop := badFine c ds = some w
        (∀ w, bad w → Traps s (eccuOf s w) rstr ∧ (ovw = false → Traps s (eccuOf s w) prlg))
        ∧ ((∀ i ∈ fine, c.bad (ds.fineAt i) = false) → (self = true ∨ s.laneBad k = false) → 8 ≤ c.vert.ops.length →
          Traps s (.timing 2) rstr ∧ Traps s (.timing 2) prlg)
        ∧ ((self = true ∨ s.laneBad k = false) → c.vert.ops.length < 8 →
          ((∀ i ∈ fine, c.bad (ds.fineAt i) = false) → Answers rstr (fun t => ∃ st en, times ds st en ∧ due t st en
            ∧ (let vf := contributions c ds bank ws
               (t.core k).vert.ops = c.vert.ops ++ [⟨true, ovw, self, ds, bank, ws, vf.1, [], vf.2, c.vert.nth, st, en, false, s.now⟩]
               ∧ Counts s t (read + (fine.map (fun i => softCount s (ds.fineAt i) 4)).sum)
               ∧ (self = true → Frame { machine := fun s => colless (sending s), core := fun c => { c with vert := .reset } } s t
                 ∧ { (t.core k).vert with ops := [] } = { c.vert with ops := [] })
               ∧ (self = false → keeps t ∧ gives t vf.1 en))))
          ∧ ((ovw = true ∨ ∀ i ∈ fine, c.bad (ds.fineAt i) = false) → Answers prlg (fun t => ∃ st en, times ds st en ∧ due t st en
            ∧ Frame { machine := fun s => colless (sending s), core := fun c => { c with vert := .reset } } s t ∧ Counts s t read
            ∧ (t.core k).vert = { c.vert with
                ops := c.vert.ops ++ [⟨false, ovw, self, ds, bank, ws, [], [], 0, 0, st, en, false, s.now⟩] }))))
    ∧ (self = false → illegal n s = false → guardWait n s = none → guardHolds n s = false → Answers rstr (fun t =>
        keeps t ∧ gives t [] (ceilTo Config.ticksPerBeat s.now)))
    ∧ (Ready { len := 3, hdr := h, rs := [a], bytes := bytesAt (rv s a).toNat 108 } s →
      Checked s .localStore false (rv s a).toNat 108 4 (exec (.wsld h d a) s) (fun x =>
        (∀ bad, firstBadWord s x 108 bad → Traps s (eccuOf s bad) (exec (.wsld h d a) s))
        ∧ (cleanWords s x 108 → GivesLater s 4
            [.ws d.toNat ((List.range 27).map (fun i => BitVec.ofNat 32 (nearNat s (x + 4 * i) 4)))] (exec (.wsld h d a) s))
        ∧ Corrects s x 108 4 [.ws d.toNat ((List.range 27).map (fun i => BitVec.ofNat 32 (nearNat s (x + 4 * i) 4)))]
            (exec (.wsld h d a) s)))

/-- The expansion instructions (R157 to R164, R168, R414, R415): x8 to x15 raise ILLOP on tier 0, the checks of the images,
records and headers raise their traps (a header word's ECCU is looked for at issue, the model's place for it, log 20), a fifth
outstanding instruction is a deviation in timed code and a wait elsewhere, behind those checks (the model's order, log 54); else the
instruction joins the unit's queue with its latency and, outside a superstep, its context waits for it. -/
def Obligations.ExpansionInstructions : Prop :=
  ∀ (s : State) (h : Hdr) (tier : Option (BitVec 2)) (d x : ExpReg) (p : PredReg) (a : Reg) (kern : BitVec 3) (m : BitVec 13),
    let k := s.cur.1
    let u := xu s
    let q := u.queue.length
    let hd := u.viewHdr d
    let hx := u.viewHdr x
    let at_ := (rv s a).toNat
    let exists_ (r : ExpReg) : Prop := s.tier ≠ 0 ∨ r.toNat < 8
    let lat : Nat := if Config.bankBase ≤ at_ then Config.bankLatency s.tier else 3
    let groups (h : XHdr) : Nat := (h.size + 15) / 16
    let need (rs : List Reg) (bytes : List (Nat × Nat)) : Need :=
      { len := 3, hdr := h, tier := tier, rs := rs, bytes := bytes, unit := some .expansion }
    -- an instruction that names the registers `xs` and whose entry checks `check` before it is queued as `what`
    let counting (hits : Nat) (n : Need) (xs : List ExpReg) (check : Except Trap Unit) (what : XKind) (cycles : Nat)
        (o : Host.Outcome State Fault Refusal) : Prop :=
      ((∃ r ∈ xs, ¬ exists_ r) → Traps s (.of .illop) o)
      ∧ ((∀ r ∈ xs, exists_ r) → Ready n s →
        (∀ tr, check = .error tr → Traps s tr o)
        ∧ (check = .ok () → 4 ≤ q → (inStep s = true → Traps s (.timing 2) o)
          ∧ (inStep s = false → Answers o (fun t => Frame {} s t ∧ t.ctx s.cur = s.ctx s.cur
            ∧ (t.core k).ctl.issueAt = s.now + cyc k)))
        ∧ (check = .ok () → q < 4 → Answers o (fun t =>
          Frame { machine := fun s => colless (sending s), core := fun c => { c with xu := .reset } } s t ∧ Counts s t hits
          ∧ (t.core k).xu = { u with queue := u.queue
              ++ [(⟨s.cur.2, (s.ctx s.cur).pc, s.issuedWord s.cur, what, cycles, false, [], s.now, [], [], .reset⟩ : XOp)] }
          ∧ (q = 0 → Posts s t s.now (.expansionOpStart k)) ∧ (q ≠ 0 → t.agenda = s.agenda)
          ∧ (inStep s = false → Waits s t h .expansion))))
    let takes := counting 0
    let image (n : Nat) (store : Bool) : Except Trap Unit :=
      (checkNear s (if Config.bankBase ≤ at_ then .ownBank else .localStore) store at_ n 64).map (fun _ => ())
    let records : Except Trap Unit := (checkNear s .localStore true at_ (16 * m.toNat) 16).map (fun _ => ())
    let good : Except Trap Unit := needGood s at_
    let soft := softCount s at_ 64
    let header := headerOf (leNat (headerRead (s.core k) at_))
    takes (need [] []) [] (.ok ()) (.setKern kern) 1 (exec (.xsetKern h tier kern) s)
    ∧ takes (need [a] []) [] (.ok ()) (.setGamma ((rv s a).setWidth 32)) 1 (exec (.xsetGamma h a tier) s)
    ∧ takes (need [a] []) [] (.ok ()) (.setEta ((rv s a).setWidth 32)) 1 (exec (.xsetEta h a tier) s)
    ∧ (∀ img : XHdr, (header = .ok img →
        counting soft (need [a] (bytesAt at_ 64)) [d] (do image 64 false; good) (.clr d at_ img) (lat + 1) (exec (.xclr h d a tier) s)
        ∧ counting soft (need [a] (bytesAt at_ 576)) [d] (do image 576 false; good) (.ld d at_ img)
            (lat + 9) (exec (.xld h d a tier) s)))
    ∧ (∀ tr, header = .error tr → Ready (need [a] (bytesAt at_ 64)) s → exists_ d → image 64 false = .ok () → good = .ok () →
        Traps s tr (exec (.xclr h d a tier) s))
    ∧ (∀ tr, header = .error tr → Ready (need [a] (bytesAt at_ 576)) s → exists_ d → image 576 false = .ok () → good = .ok () →
        Traps s tr (exec (.xld h d a tier) s))
    ∧ takes { need [a] [] with stored := bytesAt at_ 576 } [d] (image 576 true) (.st d at_ hd) (lat + 9) (exec (.xst h d a tier) s)
    ∧ takes (need [a] (bytesAt at_ (16 * m.toNat))) [d] (do records; needKind hd 1) (.form d at_ m.toNat)
        (8 + m.toNat * groups hd) (exec (.xform h d a tier m) s)
    ∧ takes (need [] []) [d, x] (do needKind hd 1; needKind hx 1; needDim hd hx) (.m2m d x) (8 + hx.size * groups hd)
        (exec (.xm2m h d x tier) s)
    ∧ takes (need [] []) [d, x] (do needKind hd 2; needKind hx 1; needDim hd hx; needExpd s [hd, hx]) (.m2l d x)
        (16 + hx.size * groups hd) (exec (.xm2l h d x tier) s)
    ∧ takes (need [] []) [d, x] (do needKind hd 2; needKind hx 2; needDim hd hx) (.l2l d x) (8 + hx.size * groups hd)
        (exec (.xl2l h d x tier) s)
    ∧ takes (need [a] (bytesAt at_ (16 * m.toNat))) [x] (do records; needKind hx 2) (.eval at_ x m.toNat)
        (8 + m.toNat * groups hx) (exec (.xeval h a x tier m) s)
    ∧ takes (need [a] (bytesAt at_ (16 * m.toNat))) [x] (do records; needKind hx 1; needExpd s [hx])
        (.m2p at_ x m.toNat) (16 + m.toNat * groups hx) (exec (.xm2p h a x tier m) s)
    ∧ takes (need [] []) [d, x] (do needKind hd 0; needKind hx 0; needDim hd hx) (.adm p d x) 3 (exec (.xadm h p d x tier) s)

/-- CTXSV and CTXLD (R261 to R265, R332): PRIV in c1–c3, ILLOP in a superstep and for context 0. A save writes the image at its
place and leaves the context Halted with its registers; `.all` copies a clean local store and invalidates the weight buffer. A load
refuses an image without VALID or of another core with 2, answers a lost one with 1 and leaves the context Halted, and else restores
the registers and leaves the context Ready. c0 is held for the lines moved. The model's choices and not the spec's: the image moves as the
instruction issues, and a refused or a lost load holds c0 for one line (log 34). -/
def Obligations.ContextSaveAndLoad : Prop :=
  ∀ (s : State) (h : Hdr) (d a : Reg) (all : Bool),
    let k := s.cur.1
    let i := (rv s a).toNat % 4
    let tier := s.tier
    let x := s.ctx (k, i)
    let c := s.core k
    let cisz := 4096 + 8 * Config.stackSize tier
    let img := Config.saveBase tier + 0x400 + i * cisz
    let core := Config.saveBase tier + 0x400 + 4 * cisz
    let ls := Config.localSize tier
    let size := cisz + if all then ls + 33344 + 576 * (if tier = 0 then 8 else 16) else 0
    let sv := exec (.ctxsv h d a all) s
    let ld := exec (.ctxld h d a all) s
    let clean (lo n : Nat) : Prop := ∀ w, lo ≤ 4 * w → 4 * w < lo + n → sget 0 c.poison w = 0
    let holds (t : State) (lines : Nat) (status : DWord) : Prop := (t.ctx s.cur).run =
      .held (.move (s.now + lines * Config.bankLatency tier * cyc k) d status)
    (s.cur.2 = 0 → inStep s = true → Traps s (.of .illop) sv ∧ Traps s (.of .illop) ld)
    ∧ (Ready { len := 3, hdr := h, rs := [a], rd := [d], ill := inStep s, priv := if s.cur.2 = 0 then none else some 0 } s →
      (i = 0 → Traps s (.of .illop) sv ∧ Traps s (.of .illop) ld)
      ∧ (i ≠ 0 → k < Config.coreCount → coreCanonical c = true → c.pend = [] → c.xu.queue = [] →
        ((all = true → clean 0 ls) → Answers sv (fun t =>
          let y := t.ctx (k, i)
          let at_ (off n : Nat) : Nat := coreNat t k (img + off) n
          holds t (size / 64) 0 ∧ y.run = .halted
          ∧ { placeless y with m := [] } = { placeless x with m := [] }
          ∧ (∀ j, j ≠ i → j ≠ 0 → (t.core k).ctx j = c.ctx j) ∧ placeless (t.ctx s.cur) = placeless (s.ctx s.cur)
          ∧ at_ 0 8 = 1 + 4 * i + 16 * k
          ∧ (∀ r, 0 < r → r < 8 → at_ (0x40 + 8 * r) 8 = (sget 0 x.g r).toNat)
          ∧ at_ 0x80 8 = x.pc.toNat ∧ at_ 0x90 8 = x.vlo.toNat ∧ at_ 0x98 8 = x.flags.toNat ∧ at_ 0xA0 8 = (if x.ftz then 1 else 0)
          ∧ at_ 0xA8 8 = (repWord x.rep).toNat ∧ (∀ m, m < 16 → at_ (0x2C0 + 64 * m) 64 = (sget .reset x.m m).data.toNat)
          ∧ (∀ v, v < 32 → at_ (0x6C0 + 64 * v) 64 = (sget 0 x.v v).toNat)
          ∧ (∀ e, e < Config.stackSize tier → at_ (0x1000 + 8 * e) 8 = (sget 0 x.stack e).toNat)
          ∧ (∀ b, b < img ∨ img + cisz ≤ b → all = false ∨ b < core → nearByte t k b = nearByte s k b)
          ∧ (all = true → (∀ b, b < ls → nearByte t k (core + b) = nearByte s k b) ∧ (t.core k).slice.wvalid = false)))
        ∧ (clean img cisz → (all = true → clean core (size - cisz)) →
          let head := coreNat s k img 8
          (head % 2 = 0 ∨ head / 2 ^ 4 % 2 ^ 15 ≠ k → Answers ld (fun t => holds t 1 2
            ∧ (∀ j, j ≠ 0 → (t.core k).ctx j = c.ctx j) ∧ (∀ b, nearByte t k b = nearByte s k b)))
          ∧ (head % 2 = 1 → head / 2 ^ 4 % 2 ^ 15 = k → head / 2 % 2 = 1 → Answers ld (fun t => holds t 1 1
            ∧ (t.ctx (k, i)).run = .halted ∧ (∀ b, nearByte t k b = nearByte s k b)))
          ∧ (head % 2 = 1 → head / 2 ^ 4 % 2 ^ 15 = k → head / 2 % 2 = 0 → all = false → Answers ld (fun t =>
            let y := t.ctx (k, i)
            let at_ (off n : Nat) : Nat := coreNat s k (img + off) n
            holds t (size / 64) 0 ∧ y.run = .ready ∧ y.pc = BitVec.ofNat 32 (at_ 0x80 4)
            ∧ (∀ r, 0 < r → r < 8 → sget 0 y.g r = BitVec.ofNat 64 (at_ (0x40 + 8 * r) 8))
            ∧ y.wbase = BitVec.ofNat 32 (at_ 0x88 4) ∧ y.frame = at_ 0x8C 4 % 32 ∧ y.vlo = BitVec.ofNat 32 (at_ 0x90 4)
            ∧ y.flags = BitVec.ofNat 6 (at_ 0x98 8 % 64) ∧ (∀ p : PredReg, y.pred p = decide (p = 0 ∨ (at_ 0xB0 1).testBit p.toNat))
            ∧ (∀ v, v < 32 → sget 0 y.v v = BitVec.ofNat 512 (at_ (0x6C0 + 64 * v) 64))
            ∧ (∀ e, e < Config.stackSize tier → sget 0 y.stack e = BitVec.ofNat 64 (at_ (0x1000 + 8 * e) 8))
            ∧ (∀ j, j ≠ 0 → j ≠ i → (t.core k).ctx j = c.ctx j) ∧ (∀ b, nearByte t k b = nearByte s k b))))))
    ∧ (s.cur.2 ≠ 0 → inStep s = false → (s.ctx s.cur).regOk a = true → (s.ctx s.cur).regOk d = true →
      Traps s (.at_ .priv 0) sv ∧ Traps s (.at_ .priv 0) ld)

/-! ## The steps of the other agents -/

/-- Messages and far space (R24, R178, R184, R185, R187, R189, R191, R211, R257, R271, R355, R357, R358, R379): an arrival fills its register
whole and wakes its context; the bank port reads and writes its bytes; a stale reply and one of an old epoch change nothing; a far load
and store move the line that the translation names or keep its status; what an earlier message or access holds back comes later, and
what was behind it stays behind; caches fill; a record drains into its ring. The model's choices and not the spec's: a status word is
written in its bank's next cycle (log 43), a far access is translated when it is performed (log 28), an MGET reply fills its register
whatever its tag, unless MCLR has cleared the register since (log 12), and the translation caches and the staging of flash replace
their entries first in, first out (log 61). -/
def Obligations.MessageAndFarSteps : Prop :=
  ∀ (s : State) (k c : Nat) (m : MsgReg) (data : Line) (src sctx home addr : Nat) (timed short : Bool) (first n : Nat) (va : DWord)
    (tag : BitVec 16) (epoch : BitVec 4) (part col l tier pa : Nat) (u : State) (st : BitVec 8),
    let q := (k, c)
    let x := s.ctx q
    let elsewhere (t : State) : Prop := (∀ p, p ≠ q → t.ctx p = s.ctx p) ∧ (∀ j b, nearByte t j b = nearByte s j b)
      ∧ (∀ b, farByte t b = farByte s b) ∧ t.lines = s.lines
    -- the register takes `f` of what it held; a context that waits for it goes on, with `v` as the result of TWAIT
    let arrives (f : Msg → Msg) (v : DWord) (t : State) : Prop := elsewhere t
      ∧ (∀ r, (t.ctx q).msg r = if r = m then f (x.msg m) else x.msg r)
      ∧ (x.run = .gated (.msg m) → (t.ctx q).run = .ready)
      ∧ (∀ d y z, x.run = .gated (.twait d m y z) → d ≠ 0 → (t.ctx q).reg (Machine.tierOf k) d = v)
      ∧ (x.run = .running → { t.ctx q with m := [] } = { x with m := [] })
    let fills (d : Line) (t : State) : Prop := arrives (fun r => { r with data := d, full := true, ffull := false, pend := false, arr := true, last := s.now + 1 }) 0 t
    let key (j : Nat) : Nat := j + if timed then 0 else 32768
    let quiet (j : Nat) : Prop := ∀ p ∈ (s.core j).pend, s.now < p.due
    -- a step is put off to a tick, and the steps that must follow it stay behind it
    let putsOff (u : Nat) (ev : Event) (later : Event → Prop) (t : State) : Prop := ⟨u, ev⟩ ∈ t.agenda
      ∧ (∀ e ∈ t.agenda, later e.ev → e = ⟨u, ev⟩ ∨ u < e.at_) ∧ (∀ e ∈ s.agenda, ∃ e' ∈ t.agenda, e'.ev = e.ev)
      ∧ { t with agenda := [], lastMsg := [] } = { s with agenda := [], lastMsg := [] }
    let sameLine (ev e : Event) : Prop := Event.lineAccess e = Event.lineAccess ev ∧ ∀ a ∈ s.dev.fabric.answers, a.ev ≠ e
    (s.earlierMsgb src k timed = none → Happens s (.messageArrival k c m data src sctx timed) .messageArrival (fills data))
    ∧ (∀ at_, s.earlierMsgb src k timed = some at_ → Happens s (.messageArrival k c m data src sctx timed) .messageArrival
        (putsOff (at_ + cyc k) (.messageArrival k c m data src sctx timed) (fun e => Event.isLater src k timed s.now e = true)))
    ∧ Happens s (.engineMessageArrival k c m data) .engineMessageArrival (fills data)
    ∧ (n ≠ (x.msg m).cleared → ∀ v, Happens s (.mgetReply k c m v n) .mgetReply (fun t => t = s))
    ∧ Happens s (.mgetReply k c m (some data) (x.msg m).cleared) .mgetReply (fills data)
    ∧ Happens s (.mgetReply k c m none (x.msg m).cleared) .mgetReply (arrives (fun r =>
        { r with full := false, ffull := true, pend := false, va := 0, tstat := 0x06, arr := true, last := s.now + 1 }) 2)
    ∧ (s.portBusy home (key k) first = true → Happens s (.mgetPortRead home addr k c m timed first n) .mgetPortRead
        (fun t => t = s.post (s.now + cyc home) (.mgetPortRead home addr k c m timed first n)))
    ∧ (s.portBusy home (key k) first = false → quiet home → Happens s (.mgetPortRead home addr k c m timed first n) .mgetPortRead (fun t =>
        (t.core home).ctl.msgPort = s.now + 1 ∧ (∀ j b, nearByte t j b = nearByte s j b) ∧ (∀ p, t.ctx p = s.ctx p)
        ∧ ∃ arr, s.now + Config.bankLatency (Machine.tierOf home) * cyc home ≤ arr ∧ ∃ r, Posts s t arr (.mgetReply k c m r n)
          -- a single-bit error is corrected, a worse one is not (R178)
          ∧ ((∀ w, addr / 4 ≤ w → 4 * w < addr + 64 → sget 0 (s.core home).poison w = 0 ∨ sget 0 (s.core home).poison w = 2) →
              r = some (BitVec.ofNat 512 (coreNat s home addr 64)))
          ∧ ((∃ w, addr / 4 ≤ w ∧ 4 * w < addr + 64 ∧ (sget 0 (s.core home).poison w).getLsbD 0 = true) → r = none)))
    ∧ (s.portBusy home (key src) first = true → Happens s (.msgbPortWrite home addr data short src sctx timed first) .msgbPortWrite
        (fun t => t = s.post (s.now + cyc home) (.msgbPortWrite home addr data short src sctx timed first)))
    ∧ (s.portBusy home (key src) first = false → Happens s (.msgbPortWrite home addr data short src sctx timed first) .msgbPortWrite (fun t =>
        (t.core home).ctl.msgPort = s.now + 1 ∧ (∀ j, j ≠ home → t.core j = s.core j) ∧ (∀ b, nearByte t home b = nearByte s home b)
        -- the write takes its place among those of the cycle (R179)
        ∧ (quiet home → (s.core home).ctl.rmw = [] → (∀ j, j < 4 → ((s.core home).ctx j).monitor = none) → ∀ b, nearByte (t.settle home s.now) home b =
          if addr ≤ b ∧ b < addr + (if short then 8 else 64) then data.extractLsb' (8 * (b - addr)) 8 else nearByte s home b)))
    ∧ (let ev : Event := .ldxReply k c m va tag epoch
       let p := s.partOf k
       ((x.msg m).tag ≠ tag ∨ (s.part p).epoch ≠ epoch → Happens s ev .ldxReply (fun t => t = s))
       ∧ ((x.msg m).tag = tag → (s.part p).epoch = epoch → s.now % cyc k ≠ 0 →
        Happens s ev .ldxReply (fun t => t = s.post (ceilTo (cyc k) s.now) ev))
       -- behind an earlier access of the context to the line that a peer has not answered (R211)
       ∧ ((x.msg m).tag = tag → (s.part p).epoch = epoch → s.now % cyc k = 0 → s.lineBusy q va.toNat ev = true →
        Happens s ev .ldxReply (putsOff (s.now + cyc k) ev (sameLine ev)))
       ∧ ((x.msg m).tag = tag → (s.part p).epoch = epoch → s.now % cyc k = 0 → s.lineBusy q va.toNat ev = false →
          s.dev.fabric.asked ev va.toNat = none → va.toNat % 64 = 0 →
        (s.translate p (columnOf k) va.toNat false = (.ok pa, u) → s.dev.place pa = .hbm → s.dev.badFar pa 64 = false →
          Happens s ev .ldxReply (arrives (fun r => { r with
            data := BitVec.ofNat 512 (leNat ((List.range 64).map (fun i => farByte s (pa + i)))), full := true, ffull := false, pend := false }) 0))
        ∧ (s.translate p (columnOf k) va.toNat false = (.error st, u) → Happens s ev .ldxReply
          (arrives (fun r => { r with full := false, ffull := true, pend := false, va := va.setWidth 57, tstat := st }) 2))))
    ∧ (let ev : Event := .stxComplete k c n va data epoch
       let p := s.partOf k
       let ends (bad : List (Nat × BitVec 8)) (t : State) : Prop := (t.ctx q).stxOut = x.stxOut.erase n ∧ (t.ctx q).stxBad = x.stxBad ++ bad
        ∧ ((t.ctx q).stxSeq ≠ x.stxSeq → ⟨ceilTo (cyc k) (s.now + 1), 4, .port ⟨0, Config.statusBase (Machine.tierOf k) + 8 * c,
            leBytes 8 (t.ctx q).statusWord, [], false, .other⟩⟩ ∈ (t.core k).pend)
        ∧ ∀ b, nearByte t k b = nearByte s k b
       ((s.part p).epoch ≠ epoch → Happens s ev .stxComplete (fun t => t = s))
       ∧ ((s.part p).epoch = epoch → s.lineBusy q va.toNat ev = true →
        Happens s ev .stxComplete (putsOff (s.now + cyc k) ev (sameLine ev)))
       ∧ ((s.part p).epoch = epoch → s.lineBusy q va.toNat ev = false → s.dev.fabric.asked ev va.toNat = none → va.toNat % 64 = 0 → c < 4 →
          n ∈ x.stxOut →
        (s.translate p (columnOf k) va.toNat true = (.ok pa, u) → s.dev.place pa = .hbm → Happens s ev .stxComplete (fun t => ends [] t
          ∧ ∀ b, farByte t b = if pa ≤ b ∧ b < pa + 64 then data.extractLsb' (8 * (b - pa)) 8 else farByte s b))
        ∧ (s.translate p (columnOf k) va.toNat true = (.error st, u) → st ≠ 0 → Happens s ev .stxComplete (fun t => ends [(n, st)] t
          ∧ ∀ b, farByte t b = farByte s b))))
    ∧ (let ev : Event := .translationWalk part col va
       let y := s.col col
       let column (z : Column) (t : State) : Prop := t.col col = z ∧ (∀ j, j ≠ col → t.col j = s.col j) ∧ { t with cols := [] } = { s with cols := [] }
       (∀ e, (s.part part).findRange part va.toNat = some e → e ∈ y.rangeC → Happens s ev .translationWalk (fun t => t = s))
       ∧ (∀ e, (s.part part).findRange part va.toNat = some e → e ∉ y.rangeC →
          Happens s ev .translationWalk (column { y with rangeC := (e :: y.rangeC).take 16 }))
       ∧ (∀ e, (s.part part).findRange part va.toNat = none → s.walk part va.toNat = .ok e → hitX y.pageC part va.toNat = none →
          Happens s ev .translationWalk (column { y with pageC := (e :: y.pageC).take 512 }))
       ∧ (∀ e, (s.part part).findRange part va.toNat = none → s.walk part va.toNat = .error e → Happens s ev .translationWalk (fun t => t = s)))
    ∧ (l ∈ s.dev.lines → Happens s (.stagingFill l) .stagingFill (fun t => t = s))
    ∧ (l ∉ s.dev.lines → Happens s (.stagingFill l) .stagingFill
        (fun t => t = { s with dev := { s.dev with lines := (l :: s.dev.lines).take (s.dev.staging * 2 ^ 30 / 65536) } }))
    ∧ (∀ f rest, sget [] s.bufs (64 * tier + col) = f :: rest →
      let ev : Event := .faultRecordDrain tier col
      let p := partOfQuad s.dev.mode (col / 16)
      let r := (s.part p).fq
      let size := 2 ^ r.log2n.toNat
      let tail := r.tail.toNat % size
      (r.en = false → Happens s ev .faultRecordDrain (fun t => t = s))
      ∧ (r.en = true → (r.tail.toNat + 1) % size = r.head.toNat % size → Happens s ev .faultRecordDrain (fun t =>
          sget [] t.bufs (64 * tier + col) = rest ∧ (∀ b, farByte t b = farByte s b)
          ∧ (t.part p).fq = { r with drops := if r.drops = 0xFFFFFF then r.drops else r.drops + 1 }))
      ∧ (r.en = true → (r.tail.toNat + 1) % size ≠ r.head.toNat % size →
          s.translate p col (r.base.toNat * 4096 + 32 * tail) true = (.ok pa, u) → s.dev.place pa = .hbm →
          s.dev.fabric.asked ev (r.base.toNat * 4096 + 32 * tail) = none →
        Happens s ev .faultRecordDrain (fun t => sget [] t.bufs (64 * tier + col) = rest
          ∧ (∀ b, farByte t b = if pa ≤ b ∧ b < pa + 32 then f.extractLsb' (8 * (b - pa)) 8 else farByte s b)
          ∧ (t.part p).fq = { r with tail := BitVec.ofNat 20 ((r.tail.toNat + 1) % size) })))

/-- Synchronisation (R194, R219, R221, R228, R229, R232, R233, R236, R237, R271, R280, R313, R342, R422): a slot opens at its first
cycle and performs its operation at its last, unless the bank's group is in a superstep; replies end their context's wait with their value or trap; windows announce and
deliver; units take what is forwarded to them; fires and counts that run out let their context go on. The model's choices and not the
spec's: the result of an operation at a point's root comes back over the way to it (log 48), the far form of an atomic is performed when its
reply is due (log 29), and the engine channel's writes fall in the next cycle of their bank (log 43). -/
def Obligations.SynchronisationSteps : Prop :=
  ∀ (s : State) (k c num : Nat) (v : DWord) (d : Reg) (r : AtomicReq) (obj : DWord) (rel imprec : Bool) (epoch : BitVec 4) (w l origin : Nat)
    (count : BitVec 16) (nc : BitVec 16) (left since ext pa : Nat) (m : MsgReg) (u1 : State) (st : BitVec 8),
    let q := (k, c)
    let x := s.ctx q
    let quiet (j : Nat) : Prop := (∀ p ∈ (s.core j).pend, s.now < p.due)
    let waits (n : Nat) : Prop := x.run = .gated (.reply d n)
    -- the wait of `q` ends with `v` in `d`: what follows R422
    let ends (v : DWord) (t : State) : Prop := (∀ i, (t.ctx q).reg (Machine.tierOf k) i = if i = d ∧ d ≠ 0 then v else x.reg (Machine.tierOf k) i)
      ∧ (t.ctx q).run = (if c = 0 then .running else .ready)
      ∧ (∀ p, p ≠ q → t.ctx p = s.ctx p) ∧ (∀ j b, nearByte t j b = nearByte s j b)
    let traps (tr : Trap) (t : State) : Prop := t = s.takeTrap q (s.issuedWord q) tr
    (waits num → Happens s (.clusterAtomicReply k c num none v) .clusterAtomicReply (ends v))
    ∧ (waits num → Happens s (.clusterAtomicReply k c num (some imprec) v) .clusterAtomicReply (traps ⟨.eccu, 0, v, imprec⟩))
    ∧ (x.awaits num = none → ∀ b, Happens s (.clusterAtomicReply k c num b v) .clusterAtomicReply (fun t => t = s))
    -- ATOMIC_SLOT
    ∧ (∀ home, r.home = some home → quiet home →
      let skips := (s.core home).ctl.skip
      let slots := (s.core home).ctl.rmw
      let mine := slots.filter (fun e => e.who == r.core && decide (s.now ≤ e.last))
      let ev : Event := .atomicSlot r
      let later (t : State) : Prop := ∃ u, Posts s t u ev ∧ (Machine.tierOf r.core = Machine.tierOf home → s.now < u)
      (mine = [] → skips = false → Happens s ev .atomicSlot (fun t => Posts s t (s.now + 2 * cyc home) ev
        ∧ (t.core home).ctl.rmw = slots ++ [⟨s.now, s.now + 2 * cyc home, r.addr / 8, r.core⟩]
        ∧ (∀ j, j ≠ home → t.core j = s.core j) ∧ ∀ j b, nearByte t j b = nearByte s j b))
      -- no slot begins, and none is performed, while the bank's group is in a superstep
      ∧ (mine = [] → skips = true → Happens s ev .atomicSlot (fun t => t.cores = s.cores ∧ later t))
      ∧ (slots = [⟨s.now - 2 * cyc home, s.now, r.addr / 8, r.core⟩] → (s.core home).ctl.behind = [] → 2 * cyc home ≤ s.now →
          r.ty.width ∈ [8, 16, 32, 64] → Config.bankBase ≤ r.addr → r.addr + r.ty.width / 8 ≤ Config.statusBase (Machine.tierOf home) →
        let n := r.ty.width / 8
        let bytes (t : State) : Prop := ∀ b, nearByte t home b = nearByte s home b
        let closed (t : State) : Prop := (t.core home).ctl.rmw = [] ∧ ∀ j, j ≠ home → j ≠ r.core → t.core j = s.core j
        let touched (i : Nat) : Prop := r.addr / 4 ≤ i ∧ 4 * i < r.addr + n
        let bad (i : Nat) : Prop := (sget 0 (s.core home).poison i).getLsbD 0 = true
        let back := s.now + cyc home + if r.peer = true then meshLatency home r.core * cyc home else 0
        let asker : Nat × Nat := (r.core, r.ctx)
        (skips = true → Happens s ev .atomicSlot (fun t => bytes t ∧ closed t ∧ later t))
        ∧ (skips = false → (∀ i, touched i → ¬ bad i) → r.op < 9 →
          ∃ res free, res = rmwOp r.op r.ty (coreNat s home r.addr n) r.opnd r.cmp free ∧ Happens s ev .atomicSlot (fun t =>
            (∀ b, nearByte t home b = if r.addr ≤ b ∧ b < r.addr + n then BitVec.ofNat 8 (res.1 / 2 ^ (8 * (b - r.addr))) else nearByte s home b)
            ∧ closed t ∧ (∀ j, (t.col j).corrected = (s.col j).corrected
              + if j = columnOf home then (s.core home).softWords r.addr n else 0)
            ∧ (r.peer = true → Posts s t back (.clusterAtomicReply r.core r.ctx r.num none res.2))
            ∧ (r.peer = false → ∀ d', (s.ctx asker).run = .held (.reply d' r.num) →
              (t.ctx asker).run = .held (.unitOp back d' res.2))))
        ∧ (skips = false → ∀ i, touched i → bad i → (∀ j, touched j → j < i → ¬ bad j) → Happens s ev .atomicSlot (fun t =>
          let at_ : DWord := BitVec.ofNat 64 (4 * i)
          let poison := decide (sget 0 (s.core home).poison i = 3)
          (r.peer = true → bytes t ∧ closed t ∧ Posts s t back (.clusterAtomicReply r.core r.ctx r.num (some poison) at_))
          ∧ (r.peer = false → ∀ d', (s.ctx asker).run = .held (.reply d' r.num) → ∃ b : State, bytes b ∧ closed b
            ∧ b.ctx asker = s.ctx asker ∧ t = b.takeTrap asker (b.issuedWord asker) ⟨.eccu, 0, at_, poison⟩)))
        -- a look at a memory-backed point's phase is repeated until it moves on (R234)
        ∧ (skips = false → (∀ i, touched i → ¬ bad i) → r.op = 9 → r.ty.width = 64 → r.peer = true →
          let c' := coreNat s home r.addr 8 % 65536
          let d' := (c' + 65536 - r.opnd.toNat % 65536) % 65536
          (d' ≠ 0 → Happens s ev .atomicSlot (fun t => bytes t ∧ Posts s t back (.clusterAtomicReply r.core r.ctx r.num none
            (BitVec.ofNat 64 (c' + if d' = 1 then 0 else 2 ^ 32)))))
          ∧ (d' = 0 → (s.ctx asker).awaits r.num ≠ none → Happens s ev .atomicSlot (fun t => bytes t ∧ later t)))))
    -- DEVICE_ATOMIC_REPLY
    ∧ ((s.part (s.partOf r.core)).epoch ≠ r.epoch → Happens s (.deviceAtomicReply r) .deviceAtomicReply (fun t => t = s))
    ∧ ((s.part (s.partOf k)).epoch = epoch → r = { r with core := k, ctx := c, num := num, home := none, epoch := epoch } → r.op < 7 →
      r.ty.width ∈ [8, 16, 32, 64] → waits num → s.dev.fabric.asked (.deviceAtomicReply r) r.addr = none →
      s.lineBusy q r.addr (.deviceAtomicReply r) = false →
      let n := r.ty.width / 8
      let fails (st : BitVec 8) : Prop := Happens s (.deviceAtomicReply r) .deviceAtomicReply (fun t => ∃ b : State, b.ctx q = x
        ∧ b.core k = s.core k ∧ t = b.takeTrap q (b.issuedWord q) ⟨.farfault, st, BitVec.ofNat 64 r.addr, false⟩)
      (s.translateFor (s.partOf k) (columnOf k) r.addr true true = (.error st, u1) → st ≠ 0x06 → fails st)
      ∧ (s.translateFor (s.partOf k) (columnOf k) r.addr true true = (.ok pa, u1) → s.dev.inHbm pa = false → fails 0x05)
      ∧ (s.translateFor (s.partOf k) (columnOf k) r.addr true true = (.ok pa, u1) → s.dev.inHbm pa = true → s.dev.place pa = .hbm →
          s.dev.badFar pa n = false →
        ∃ res free, res = rmwOp r.op r.ty (leNat ((List.range n).map (fun i => farByte s (pa + i)))) r.opnd r.cmp free
          ∧ Happens s (.deviceAtomicReply r) .deviceAtomicReply (fun t => ends res.2 t
            ∧ ∀ b, farByte t b = if pa ≤ b ∧ b < pa + n then BitVec.ofNat 8 (res.1 / 2 ^ (8 * (b - pa))) else farByte s b)))
    -- of a memory-backed point in HBM, whose word the gaffer names by its physical address (R234)
    ∧ ((s.part (s.partOf k)).epoch = epoch → r = { r with core := k, ctx := c, num := num, home := none, epoch := epoch } →
      r.op ∈ [7, 8] → r.ty.width = 64 → waits num → s.dev.badFar r.addr 8 = false →
        ∃ res free, res = rmwOp r.op r.ty (leNat ((List.range 8).map (fun i => farByte s (r.addr + i)))) r.opnd r.cmp free
          ∧ Happens s (.deviceAtomicReply r) .deviceAtomicReply (fun t => ends res.2 t
            ∧ ∀ b, farByte t b = if r.addr ≤ b ∧ b < r.addr + 8 then BitVec.ofNat 8 (res.1 / 2 ^ (8 * (b - r.addr))) else farByte s b))
    -- OBJECT_REPLY, for an object word in far memory
    ∧ ((s.part (s.partOf k)).epoch ≠ epoch → Happens s (.objectReply k c num obj rel epoch) .objectReply (fun t => t = s))
    -- REL waits for the context's LS and MS writes to the bound region (R219, R369)
    ∧ ((s.part (s.partOf k)).epoch = epoch → s.regionOut q obj = true → Happens s (.objectReply k c num obj true epoch) .objectReply
        (fun t => t = s.post ((s.beat + 1) * Config.ticksPerBeat) (.objectReply k c num obj true epoch)))
    ∧ ((s.part (s.partOf k)).epoch = epoch → waits num → epNear obj = false →
      (rel = true → s.regionOut q obj = false) → s.lineBusy q obj.toNat (.objectReply k c num obj rel epoch) = false →
      s.dev.fabric.asked (.objectReply k c num obj rel epoch) obj.toNat = none →
      s.translateFor (s.partOf k) (columnOf k) obj.toNat true true = (.ok pa, u1) → s.dev.inHbm pa = true →
      s.dev.place pa = .hbm → s.dev.badFar pa 8 = false →
      let old := leNat ((List.range 8).map (fun i => farByte s (pa + i)))
      Happens s (.objectReply k c num obj rel epoch) .objectReply (fun t =>
        ends (BitVec.ofNat 64 (old + if rel then 1 else 0)) t
        ∧ ∀ b, farByte t b = if pa ≤ b ∧ b < pa + 8 then BitVec.ofNat 8 ((old + if rel then 1 else 0) / 2 ^ (8 * (b - pa))) else farByte s b))
    -- OBJECT_REPLY, for REL of a near word: one act
    ∧ (let home := epCore (columnOf k) obj
       let a := epAddr obj (epOff obj)
       (s.part (s.partOf k)).epoch = epoch → waits num → epNear obj = true → s.now % cyc home = 0 → (s.core home).ctl.rmw = [] →
       s.regionOut q obj = false → (s.core home).badIn a 8 = none →
       Happens s (.objectReply k c num obj true epoch) .objectReply (fun t =>
        (d ≠ 0 → (t.ctx q).reg (Machine.tierOf k) d = BitVec.ofNat 64 (coreNat s home a 8 + 1))
        ∧ ∀ b, nearByte t home b = if a ≤ b ∧ b < a + 8 then BitVec.ofNat 8 ((coreNat s home a 8 + 1) / 2 ^ (8 * (b - a))) else nearByte s home b))
    -- for ACQ of a near word
    ∧ (let home := epCore (columnOf k) obj
       let a := epAddr obj (epOff obj)
       (s.part (s.partOf k)).epoch = epoch → waits num → epNear obj = true → s.now % cyc home = 0 → quiet home →
       (s.core home).badIn a 8 = none →
       Happens s (.objectReply k c num obj false epoch) .objectReply (ends (BitVec.ofNat 64 (coreNat s home a 8))))
    -- SC_ANNOUNCE, SC_DELIVERY: an announcement that an access still holds is looked at in the next cycle, and at the window's end
    ∧ (quiet k → s.anyOut q = true → Happens s (.scAnnounce k c num) .scAnnounce (fun t => ∃ u, s.now < u ∧ u ≤ s.now + cyc k
        ∧ (s.now < (8 * (s.beat / 8) + 8) * Config.ticksPerBeat - 1 → u ≤ (8 * (s.beat / 8) + 8) * Config.ticksPerBeat - 1)
        ∧ t = s.post u (.scAnnounce k c num)))
    ∧ (quiet k → s.anyOut q = false → Happens s (.scAnnounce k c num) .scAnnounce (fun t =>
        t.sc = s.sc.map (fun (o : ScOp) => if o.num = num then { o with window := some (s.beat / 8) } else o)
        ∧ (∃ e ∈ t.agenda, e.ev = .scDelivery (s.beat / 8)) ∧ t.cores = s.cores))
    ∧ ((∀ o ∈ s.sc, o.window ≠ some w) → Happens s (.scDelivery w) .scDelivery (fun t => t = s))
    -- an SC operation of an event line takes its place among the signals of the cycle
    ∧ (∀ o : ScOp, s.sc = [o] → o.window = some w → o.who = q → ∀ addr, o.what = .evsig addr →
        Happens s (.scDelivery w) .scDelivery (fun t =>
          t = { s with sc := [], units := unitInsert ⟨s.now / cyc k * cyc k, 3, q, o.d, .evsigSc o.num, addr, 0⟩ s.units }))
    -- what reaches an event unit joins the operations of the cycle under way, in the order of R233
    ∧ (let at_ := s.now / Config.cycleTicks (lineTier l) * Config.cycleTicks (lineTier l)
       (∀ what stage, (what, stage) ∈ [(RootOp.init count, 2), (.arrive, 3), (.token w left, 3), (.engine, 4)] →
        Happens s (.rvRootForward l k c num what) .rvRootForward (fun t =>
          t = { s with units := unitInsert ⟨at_, stage, q, 0, .root l num what, 0, 0⟩ s.units }))
       ∧ ∀ o, Happens s (.eventChainForward l origin o) .eventChainForward (fun t =>
          t = { s with units := unitInsert ⟨at_, 3, (0, 0), 0, .chain l origin o, 0, 0⟩ s.units }))
    -- and has its effect there
    ∧ (let unit (kind : UnitKind) : State := s.applyUnit ⟨since, kind.stage, q, d, kind, ext, 0⟩
       let e := s.line l
       let becomes (t : State) (f : EvLine) : Prop := ∀ j, t.line j = if j = l then f else s.line j
       let fires (t : State) : Prop := ∀ p ∈ s.waiters l, ⟨since + Config.ticksPerBeat, .fireArrival p.1.1 p.1.2 p.2⟩ ∈ t.agenda
       let gives (t : State) (status : Nat) (v : BitVec 32 → Prop) : Prop := ∃ y at_, v y ∧ since ≤ at_
        ∧ (t.ctx q).run = .held (.unitOp at_ d (BitVec.ofNat 64 (y.toNat + status * 2 ^ 32)))
       let free : Prop := e.alloc = none
       (free → ∀ o, unit (.chain l origin o) = s)
       ∧ (¬ free → (unit (.chain l origin (some nc))).cores = s.cores ∧ fires (unit (.chain l origin (some nc)))
          ∧ becomes (unit (.chain l origin (some nc))) { e with c := nc })
       ∧ (¬ free → let t := unit (.chain l origin none)
          t.cores = s.cores ∧ fires t ∧ becomes t { e with gen := e.gen + 1 }
          ∧ ∀ n, e.next = some n → n ≠ origin → ⟨since + hopTicks l n, .eventChainForward n origin none⟩ ∈ t.agenda)
       ∧ (x.run = .held (.reply d num) →
        (free → ∀ what ∈ [RootOp.init count, .arrive, .token w left],
          (unit (.root l num what)).lines = s.lines ∧ gives (unit (.root l num what)) 3 (fun _ => True))
        ∧ (¬ free → e.count ≠ 0 → (unit (.root l num (.init count))).lines = s.lines
          ∧ gives (unit (.root l num (.init count))) 4 (fun _ => True))
        ∧ (¬ free → e.count = 0 → becomes (unit (.root l num (.init count))) { e with count := count, pend := count }
          ∧ gives (unit (.root l num (.init count))) 0 (fun _ => True))
        ∧ (¬ free → e.count = 0 → ∀ what ∈ [RootOp.arrive, .token w left],
          (unit (.root l num what)).lines = s.lines ∧ gives (unit (.root l num what)) 5 (fun _ => True))
        ∧ (¬ free → e.count ≠ 0 → e.pend = 1 → let t := unit (.root l num .arrive)
          becomes t { e with c := e.c + 1, pend := e.count } ∧ fires t ∧ gives t 0 (fun y => y = e.c.setWidth 32))
        ∧ (¬ free → e.count ≠ 0 → e.pend ≠ 1 → let t := unit (.root l num .arrive)
          becomes t { e with pend := e.pend - 1 } ∧ gives t 0 (fun y => y = e.c.setWidth 32))
        ∧ (∀ own root, s.target q ext = .line own root → let t := unit (.evsigSc num)
          (∀ j, t.line j = if j = own then { s.line own with gen := (s.line own).gen + 1 } else s.line j)
          ∧ (d ≠ 0 → (t.ctx q).reg (Machine.tierOf k) d = ((s.line own).gen + 1).setWidth 64))))
    ∧ (let ev : Event := .fireArrival k c num
       (∀ tok, x.run = .gated (.rvwait d l num tok) → Happens s ev .fireArrival (ends ((s.line l).c.setWidth 64)))
       ∧ (x.run = .gated (.evwait d l num) → Happens s ev .fireArrival (ends ((s.line l).gen.setWidth 64)))
       ∧ (x.run = .gated (.mlock d l num) → Happens s ev .fireArrival (fun t => ∃ y : BitVec 32, ends (y.setWidth 64) t))
       ∧ ((∀ n, x.run.waitsOn n ≠ some num) → Happens s ev .fireArrival (fun t => t = s)))
    -- counts
    ∧ (x.run = .gated (.sleep left since) → d = 0 → Happens s (.sleepExpiry k c) .sleepExpiry (ends 0))
    ∧ (x.run = .gated (.twait d m left since) → Happens s (.twaitExpiry k c) .twaitExpiry (ends 1))
    ∧ (quiet k → s.ownOut q = true → Happens s (.fstatResult k c num ext) .fstatResult
        (fun t => t = s.post ((s.beat + 1) * Config.ticksPerBeat) (.fstatResult k c num ext)))
    ∧ (quiet k → waits num → s.ownOut q = false →
      let e := s.dev.extent ext
      Happens s (.fstatResult k c num ext) .fstatResult (ends (BitVec.ofNat 64 (e.wear.toNat + e.spare.toNat * 2 ^ 14
        + (if e.running then 1 else e.state.toNat) * 2 ^ 24 + (s.part (s.partOf k)).budget % 65536 * 2 ^ 32))))

/-- The units and engines (R38, R121 to R136, R144 to R148, R152, R164, R192, R193, R198 to R208, R329, R330, R340, R341, R361): slice
operations start, accumulate, read tiles and scale rows, and leave their queue; the barrier and the lanes find a deviation; restriction
and prolongation end at their beat with what they write; every expansion instruction reads at its start and writes at its end; commands
start in order, move their units, write their stamps and end with their status. By the model's choice, and no rule of the spec: a bit
flip reaches a product as a slip of `so.slips` (log 42); the barrier of a GANG is looked ahead for, so that `slice.short` is known at its
third cycle (log 26); SELF and lane operations share one sequence of start beats, and of a coarse word given twice the first is taken
(log 27); the engine channel writes in the next cycle of a bank's tier (log 43); WORN is found before BUDGET (log 58); the grouping of an
MSCAC's factors (log 56). -/
def Obligations.UnitAndEngineSteps : Prop :=
  ∀ (s : State) (k col i e : Nat) (st : LaneState) (so : SliceOp) (srest : List SliceOp) (vo : VOp) (xo : XOp) (xrest : List XOp)
    (p : Product) (ph : Phase) (sl : Slot) (u : State) (contribs : List (List Byte)) (agree : Bool) (ck op rank : Nat) (ty : Ty),
    let same (t : State) : Prop := t = s
    let quiet (k : Nat) : Prop := ∀ x ∈ (s.core k).pend, s.now < x.due
    let S := (s.core k).slice
    let tier := Machine.tierOf k
    let after (n : Nat) : Nat := s.now + n * cyc k
    let under (n : Nat) (a : Act) (t : State) : Prop := ⟨after n, so.ctx, a⟩ ∈ (t.core k).pend
    let others (t : State) : Prop := ∀ j, j ≠ k → t.core j = s.core j
    let elems (u : TileReg) (c : Slice) (j : Nat) : BitVec 80 := sget 0 (c.tile u).el j
    let leaves (t : State) : Prop := (t.core k).slice.queue = srest ∧ (srest ≠ [] → ⟨s.now, .sliceOpStart k⟩ ∈ t.agenda)
    let starts : Event := .sliceOpStart k
    let ends : Event := .sliceOpComplete k
    let V := (s.core k).vert
    let lapsed (t : State) : Prop := (t.core k).vert.ops = V.ops.filter (fun o => o.endT != s.now)
    -- what becomes of the expansion unit and its context at the end of an instruction (R164)
    let X := (s.core k).xu
    let U := xo.found X
    let xends : Event := .expansionOpEnd k
    let word (t : State) (d : ExpReg) (j : Nat) : Word := sget 0 (t.core k).xu.co (128 * d.toNat + j)
    let xleaves (t : State) : Prop := (t.core k).xu.queue = xrest ∧ (xrest ≠ [] → ⟨s.now, .expansionOpStart k⟩ ∈ t.agenda)
    let xregs (t : State) (ds : List ExpReg) : Prop := ∀ r, r ∉ ds → (t.core k).xu.header r = X.header r
      ∧ ∀ j, j < 128 → word t r j = sget 0 X.co (128 * r.toNat + j)
    let xwrites (t : State) (d : ExpReg) (h : XHdr) (f : Nat → Nat) : Prop := xregs t [d] ∧ (t.core k).xu.kern = X.kern
      ∧ (t.core k).xu.header d = h ∧ ∀ j, j < 128 → word t d j = if j < h.size then BitVec.ofNat 32 (f j) else 0
    let xstores (t : State) (a : Nat) (bs : List Byte) : Prop := ⟨s.now, 4, .port ⟨3, a, bs, [], false, .other⟩⟩ ∈ (t.core k).pend
    let xflags (t : State) (f : FlagSet) : Prop := xo.ctx < 4 → (t.ctx (k, xo.ctx)).flags = (s.ctx (k, xo.ctx)).flags ||| f
    let xdone (P : State → Prop) : Prop := Happens s xends .expansionOpEnd (fun t => xleaves t ∧ others t ∧ P t)
    -- a sum over the coefficients of a register, the term of index m being its own times `f m`
    let coefSum (b : ExpReg) (w : Nat) (f : Nat → Nat × Nat) : Res Nat := accTerms w ((List.range (U.header b).size).map f)
    let records (n : Nat) : List (List Nat) := (List.range n).map (fun j => (recordAt xo.input j).1)
    -- the slot of an engine's command
    let slot (x : Option Slot) (t : State) : Prop := ∀ j, (t.col col).slot j = if j = i then x else (s.col col).slot j
    let stamped (code : BitVec 16) (t : State) : Prop := slot (some { sl with status := code }) t
      ∧ ⟨s.now + Config.cycleTicks 0, .engineStampWrite col i⟩ ∈ t.agenda
    let c := sl.cmd
    -- the engine channel's write takes its place among those of the next cycle of its bank (R179; log 43)
    let put (ep : DWord) (off : Nat) (bs : List Byte) (t : State) : Prop :=
      ⟨ceilTo (cyc (epCore col ep)) (s.now + 1), 4, .port ⟨0, epAddr ep off, bs, [], false, .slot col i⟩⟩ ∈ (t.core (epCore col ep)).pend
      ∧ (∀ j b, nearByte t j b = nearByte s j b) ∧ ∀ j, j ≠ epCore col ep → t.core j = s.core j
    let x := s.dev.extent e
    let extent (f : Extent) (t : State) : Prop := ∀ j, t.dev.extent j = if j = e then f else s.dev.extent j
    -- SLICE_OP_START
    (quiet k → S.queue = [] → Happens s starts .sliceOpStart same ∧ Happens s ends .sliceOpComplete same)
    ∧ (quiet k → S.queue = so :: srest →
      (∀ u, so.what = .mzero u → Happens s starts .sliceOpStart (fun t => Posts s t (after 2) ends ∧ others t))
      ∧ (∀ a, so.what = .mma p a none → (s.core k).ctl.phase = none → Happens s starts .sliceOpStart (fun t =>
          under 1 (.aCol 0) t ∧ Posts s t (after (6 + runCycles p)) ends ∧ others t))
      ∧ (∀ a n, so.what = .mma p a (some n) → (∀ y ∈ S.streams, y.issued ≠ n) →
          Happens s starts .sliceOpStart (fun t => t = s.lateTrap k so (.timing 2)))
      ∧ (∀ w a, so.what = .mwld w a → Happens s starts .sliceOpStart (fun t => (t.core k).slice.wvalid = false ∧ under 0 (.wLine 0) t
          ∧ Posts s t (after (Config.bankLatency tier + 2 + ceilDiv (imageBytes w.fmt w.k.toNat) 64)) (.mwldComplete k)))
      ∧ (∀ d u y z r, so.what = .mrd d u y z r → (S.tile u).pois = true → Happens s starts .sliceOpStart (fun t => t = s.lateTrap k so (tilePois S u)))
      -- what MRD delivers at 4: the lanes of row r, rounded to its type (R129)
      ∧ (∀ d u y z r, so.what = .mrd d u y z r → (S.tile u).pois = false → Happens s starts .sliceOpStart (fun t => Posts s t (after 4) ends
          ∧ under 4 (.vec d.toNat (packLanes y.width ((List.range (512 / y.width)).map (fun l =>
              (roundV (fmtOf y) .rne z ((S.tile u).val (16 * (r + l / 16) + l % 16))).val)))) t))
      ∧ (∀ u a b, so.what = .mscac u a b → (S.tile u).pois = false → S.wpois = [] → Happens s starts .sliceOpStart (fun t =>
          under 6 (.scRead 0) t ∧ Posts s t (after 23) ends)))
    -- MSCAC reads two rows in a cycle, writes them in the next one and goes on with the next two (R130)
    ∧ (∀ u a b m, S.queue = so :: srest → so.what = .mscac u a b →
      let row (m : Nat) : List (Res Nat) := mscacRow S u m (coreNat s k (b + 4 * m) 4) ((List.range 64).map (fun j => nearByte s k (a + 64 * m + j)))
      let d := (s.core k).sliceAct tier s.now ⟨s.now, so.ctx, .scRead m⟩
      d.slice.queue.head?.map (·.rows) = some ([m, m + 1].map (fun r => (r, (row r).flatMap (fun x => leBytes 4 x.val))))
      ∧ d.slice.queue.head?.map (·.flags) = some ([m, m + 1].foldl (fun f r => (row r).foldl (fun f x => f ||| x.flags) f) so.flags)
      ∧ ⟨after 1, so.ctx, .scWrite m⟩ ∈ d.pend ∧ (m + 2 < 32 → ⟨after 1, so.ctx, .scRead (m + 2)⟩ ∈ d.pend)
      ∧ d.near = (s.core k).near)
    ∧ (∀ u a b m r y, S.queue = so :: srest → so.what = .mscac u a b → so.rows = [(r, y)] → (s.core k).ctl.rmw = [] →
      (a + 64 * r + y.length ≤ Config.bankBase) →
      ∀ j, sget 0 ((s.core k).sliceAct tier s.now ⟨s.now, so.ctx, .scWrite m⟩).near j
        = if a + 64 * r ≤ j ∧ j < a + 64 * r + y.length then y.getD (j - (a + 64 * r)) 0 else nearByte s k j)
    -- SLICE_OP_COMPLETE, MWLD_COMPLETE, MMAS_COMPLETE
    ∧ (quiet k → S.queue = so :: srest →
      (∀ u, so.what = .mzero u → Happens s ends .sliceOpComplete (fun t => leaves t ∧ others t
          ∧ ∀ w, (t.core k).slice.tile w = if w.toNat = u.toNat then { S.tile w with el := [], mode := .none, pois := false, poisKind := 0, sat := false } else S.tile w))
      ∧ (∀ u a b, so.what = .mscac u a b → so.ctx < 4 → Happens s ends .sliceOpComplete (fun t => leaves t ∧ others t
          ∧ (t.ctx (k, so.ctx)).flags = (s.ctx (k, so.ctx)).flags ||| so.flags ∧ (t.core k).slice.tiles = S.tiles))
      ∧ (∀ d u y z r, so.what = .mrd d u y z r → Happens s ends .sliceOpComplete (fun t => leaves t ∧ others t ∧ (t.core k).slice.tiles = S.tiles))
      ∧ (∀ a n, so.what = .mma p a n → S.wpois = [] → so.slips = [] → Happens s ends .sliceOpComplete (fun t => leaves t
          ∧ (t.core k).slice.tiles = (S.accumulate p so.cols []).1.tiles
          -- one column of 8-bit integers: element (m, n) gains A(m)·B(n), clamped to 80 bits
          ∧ (∀ y, p.ta = .i8 → p.tb = .i8 → so.cols = [y] → y.ok = true → ∀ m n, m < 32 → n < 16 →
            let old : Int := if p.z ∨ (S.tile p.t).mode = .none then 0 else (elems p.t S (16 * m + n)).toInt
            let a : Int := (BitVec.ofNat 8 (y.el.getD m 0)).toInt
            let b : Int := (sget 0 S.wbuf (n * p.kp + p.koff)).toInt
            y.el.getD m 0 < 256 → elems p.t (t.core k).slice (16 * m + n) = BitVec.ofInt 80 (max (-2 ^ 79) (min (2 ^ 79 - 1) (old + a * b))))))
      ∧ (∀ w a, so.what = .mwld w a → Happens s (.mwldComplete k) .mwldComplete (fun t => leaves t ∧ (t.core k).slice.wtag = w
          ∧ (t.core k).slice.wvalid = true ∧ (t.core k).slice.wpois = so.marks ∧ others t))
      -- a residue mismatch poisons the tile, with a record of kind 2 of the first product (R135, R136)
      ∧ (∀ a n r y, so.what = .mma p a n → S.wpois = [] → (S.accumulate p so.cols so.slips).2.2 = some (r, y) →
          Happens s ends .sliceOpComplete (fun t => leaves t ∧ ((t.core k).slice.tile p.t).pois = true
            ∧ ((t.core k).slice.tile p.t).poisKind = 2))
      ∧ (∀ cb base stride m, so.what = .mmas p cb base stride m → s.now % cyc k ≠ 0 →
          Happens s (.mmasComplete k) .mmasComplete (fun t => t = s.post (ceilTo (cyc k) s.now) (.mmasComplete k)))
      ∧ (∀ cb base stride m rows, so.what = .mmas p cb base stride m → s.now % cyc k = 0 → so.quiet = false → s.gather k p base stride (.mmasComplete k) = (some rows, u) →
          (∀ j, j < p.k → lostIn (p.ta.width / 8) rows j = none) → (u.core k).slice.queue = [so] → (u.core k).slice.wpois = [] → so.slips = [] →
        Happens s (.mmasComplete k) .mmasComplete (fun t => (t.core k).slice.queue = []
          ∧ (t.core k).slice.tiles = ((u.core k).slice.accumulate p (gatheredColumns p (u.core k).ctab rows) []).1.tiles
          ∧ ((t.ctx (k, so.ctx)).msg m).full = true ∧ ((t.ctx (k, so.ctx)).msg m).data = BitVec.ofNat 512 (cb * 2 ^ 8))))
    -- GANG_BARRIER_TIMEOUT
    ∧ ((s.core k).timed 0 = false ∨ (s.core k).ctl.stopped = true ∨ S.short = false ∨ (s.core k).ctl.phase = none →
        Happens s (.gangBarrierTimeout k) .gangBarrierTimeout same)
    ∧ ((s.core k).timed 0 = true → (s.core k).ctl.stopped = false → (s.core k).ctl.phase = some ph →
      (s.now < ph.start + 3 * cyc k → Happens s (.gangBarrierTimeout k) .gangBarrierTimeout same)
      ∧ (ph.start + 3 * cyc k ≤ s.now → S.short = true → Happens s (.gangBarrierTimeout k) .gangBarrierTimeout (fun t =>
            let u := (s.dropMmas k).modSlice k (fun l => { l with ganged := false })
            t = u.takeTrap (k, 0) (s.issuedWord (k, 0)) (.timing 3)
            -- none of the MMAs that wait starts (R121)
            ∧ ∀ o ∈ (u.core k).slice.queue, o ∈ S.queue ∧ ∀ p a n, o.what = .mma p a n → o.ctx = 0 → o.started ≠ none)))
    -- lanes
    ∧ (V.ops = [vo] → vo.startT = s.now → vo.self = true ∨ s.laneBad k = false → vo.rstr = true → Happens s (.verticalOpStart k) .verticalOpStart same)
    -- a lane that no longer fits the profile at the start: TIMING 0x6 in the parent and in the child, and the operation has no effect
    ∧ (V.ops = [vo] → vo.startT = s.now → vo.self = false → s.laneBad k = true → Happens s (.verticalOpStart k) .verticalOpStart (fun t =>
        let u := s.loseVert k vo
        let fits (j : Nat) : Bool := (s.core j).timed 0 && !(s.core j).ctl.stopped
        (∀ y ∈ (u.core k).vert.ops, y.lost = true ∧ y.startT = s.now)
        ∧ (let w := (if fits (parentOf k) then u.takeTrap (parentOf k, 0) (u.issuedWord (parentOf k, 0)) (.timing 6) else u);
            t = if (w.core k).timed 0 ∧ (w.core k).ctl.stopped = false then w.takeTrap (k, 0) (w.issuedWord (k, 0)) (.timing 6) else w)))
    ∧ (V.ops = [vo] → vo.startT = s.now → vo.self = false → s.laneBad k = false → vo.rstr = false → quiet (parentOf k) →
        Happens s (.verticalOpStart k) .verticalOpStart (fun t => ∃ y, (t.core k).vert.ops = [y] ∧ y.desc = vo.desc ∧ y.lost = vo.lost
          ∧ y.vals = (points vo.desc.cx vo.desc.cy vo.desc.cz).map (fun j =>
              (vo.desc.coarseAt j, BitVec.ofNat 32 (coreNat s (parentOf k) (vo.bank + vo.desc.coarseAt j) 4)))))
    ∧ ((∀ o ∈ V.ops, o.endT ≠ s.now) → Happens s (.verticalOpEnd k) .verticalOpEnd same)
    ∧ (V.ops = [vo] → vo.endT = s.now → vo.rstr = false → s.expandsFirst k vo.issued = true →
        Happens s (.verticalOpEnd k) .verticalOpEnd (fun t => t = s.post s.now (.verticalOpEnd k)))
    ∧ (V.ops = [vo] → vo.endT = s.now → vo.rstr = true ∨ s.expandsFirst k vo.issued = false → (vo.lost = true → Happens s (.verticalOpEnd k) .verticalOpEnd (fun t => lapsed t ∧ others t
          ∧ ∀ b, nearByte t k b = nearByte s k b))
      ∧ (vo.lost = false → vo.rstr = true → vo.self = false → Happens s (.verticalOpEnd k) .verticalOpEnd (fun t => lapsed t ∧ others t
          ∧ (t.ctx (k, 0)).flags = (s.ctx (k, 0)).flags ||| vo.flags ∧ ∀ b, nearByte t k b = nearByte s k b))
      -- RSTR with SELF adds its word, or with OVW puts it, in the core's own bank (R145)
      ∧ (∀ q v, vo.lost = false → vo.rstr = true → vo.self = true → vo.vals = [(q, v)] → quiet k → (s.core k).ctl.rmw = [] →
          (∀ j, j < 4 → ((s.core k).ctx j).monitor = none) →
        let r := addV f32 .rne (f32.decode (if vo.ovw then 0 else coreNat s k q 4)) (f32.decode v.toNat)
        Happens s (.verticalOpEnd k) .verticalOpEnd (fun t => lapsed t ∧ others t
          ∧ (t.ctx (k, 0)).flags = (s.ctx (k, 0)).flags ||| vo.flags ||| r.flags
          ∧ ∀ b, nearByte (t.settle k s.now) k b = if q ≤ b ∧ b < q + 4 then BitVec.ofNat 8 (r.val / 2 ^ (8 * (b - q))) else nearByte s k b))
      -- PRLG: each fine word takes the weighted coarse values, added to what it held or, with OVW, to +0 (R146)
      ∧ (vo.lost = false → vo.rstr = false → quiet k → let D := vo.desc
        let fine := points D.nx D.ny D.nz
        let coarse (j : Nat × Nat × Nat) : Nat := match vo.vals.find? (fun v => v.1 == D.coarseAt j) with | some v => v.2.toNat | none => 0
        let sum (f : Nat × Nat × Nat) : Nat × FlagSet := fmaSum (if vo.ovw then 0 else coreNat s k (D.fineAt f) 4, 0)
          ((D.touched f).map (fun t => ((vo.weights.getD t.2 0).toNat, coarse t.1)))
        Happens s (.verticalOpEnd k) .verticalOpEnd (fun t => lapsed t ∧ others t
          ∧ (t.ctx (k, 0)).flags = (s.ctx (k, 0)).flags ||| fine.foldl (fun a f => a ||| (sum f).2) 0
          ∧ (∀ f ∈ fine, (∀ g ∈ fine, g ≠ f → D.fineAt g + 4 ≤ D.fineAt f ∨ D.fineAt f + 4 ≤ D.fineAt g) →
              coreNat t k (D.fineAt f) 4 = (sum f).1 % 2 ^ 32)
          ∧ ∀ b, (∀ f ∈ fine, b < D.fineAt f ∨ D.fineAt f + 4 ≤ b) → nearByte t k b = nearByte s k b)))
    ∧ (∀ u v w z q, V.sets = [⟨0, 0, true, [(q, u)], s.now⟩, ⟨1, 0, false, [(q, v)], s.now⟩, ⟨2, 0, false, [(q, w)], s.now⟩, ⟨3, 0, false, [(q, z)], s.now⟩] →
        (s.core k).ctl.rmw = [] → quiet k → (∀ j, j < 4 → ((s.core k).ctx j).monitor = none) →
      let plus (a b : Nat) : Nat := (addV f32 .rne (f32.decode a) (f32.decode b)).val
      Happens s (.rstrMerge k) .rstrMerge (fun t => (t.core k).vert.sets = []
        ∧ ∀ b, nearByte (t.settle k s.now) k b = if q ≤ b ∧ b < q + 4 then
            BitVec.ofNat 8 (plus (plus (plus (plus 0 u.toNat) v.toNat) w.toNat) z.toNat / 2 ^ (8 * (b - q))) else nearByte s k b))
    ∧ (tier = 3 ∨ laneRank st ≤ laneRank (s.lane k) → Happens s (.laneStateChange k st) .laneStateChange same)
    ∧ (tier ≠ 3 → laneRank (s.lane k) < laneRank st → V.ops = [] →
      (s.now % 120 ≠ 0 → Happens s (.laneStateChange k st) .laneStateChange (fun t => t = s.post (ceilTo 120 s.now) (.laneStateChange k st)))
      ∧ (s.now % 120 = 0 → Happens s (.laneStateChange k st) .laneStateChange (fun t => t.lane k = st ∧ (∀ j, j ≠ k → t.lane j = s.lane j)
          ∧ (t.col (columnOf k)).chg = true ∧ t.cores = s.cores)))
    -- expansions
    ∧ (quiet k → (s.core k).xu.queue = xo :: xrest →
        (∀ b ∈ startReads X xo.what, (s.core k).badRange b.1 b.2 = none) →
        Happens s (.expansionOpStart k) .expansionOpStart (fun t => (t.core k).xu.queue = { xo with
            started := true, input := (s.core k).readN (startSpan xo.what).1 (startSpan xo.what).2
            hdr := X.hdr, co := X.co, kern := X.kern } :: xrest
          ∧ Posts s t (after xo.cycles) (.expansionOpEnd k) ∧ others t))
    -- an uncorrectable word among those it reads: the instruction leaves the queue with an ECCU of its own
    ∧ (∀ pre b post w, quiet k → X.queue = xo :: xrest → startReads X xo.what = pre ++ b :: post →
        (∀ y ∈ pre, (s.core k).badRange y.1 y.2 = none) → (s.core k).badRange b.1 b.2 = some w →
        Happens s (.expansionOpStart k) .expansionOpStart (fun t =>
          t = (s.popExpansion k).trapLate (k, xo.ctx) xo.pc xo.word ((s.core k).eccu w)))
    ∧ ((s.core k).xu.queue = xo :: xrest → s.prolongsFirst k xo.issued = true →
        Happens s (.expansionOpEnd k) .expansionOpEnd (fun t => t = s.post s.now (.expansionOpEnd k)))
    ∧ (X.queue = xo :: xrest → s.prolongsFirst k xo.issued = false →
      (∀ d h a, xo.what = .clr d a h → xdone (fun t => xregs t [d] ∧ (t.core k).xu.header d = h ∧ ∀ j, j < 128 → word t d j = 0))
      ∧ (∀ d h a, xo.what = .ld d a h → xdone (fun t => xwrites t d h (fun j => leNat ((xo.input.drop (4 * j)).take 4))))
      ∧ (∀ d h a, xo.what = .st d a h → xdone (fun t => (t.core k).xu.hdr = X.hdr ∧ (t.core k).xu.co = X.co
          ∧ xstores t a (headerBytes (U.header d) ++ (List.range 128).flatMap (fun j => leBytes 4 (if j < (U.header d).size then U.coef d j else 0)))))
      ∧ (∀ y, xo.what = .setKern y → xdone (fun t => (t.core k).xu.kern = { X.kern with kern := y } ∧ xregs t []))
      ∧ (∀ y, xo.what = .setGamma y → xdone (fun t => (t.core k).xu.kern = { X.kern with gamma := y } ∧ xregs t []))
      ∧ (∀ y, xo.what = .setEta y → xdone (fun t => (t.core k).xu.kern = { X.kern with eta := y } ∧ xregs t []))
      ∧ (∀ d a n, xo.what = .form d a n →
        let rows := basisRows (U.header d).geo (records n)
        let sum (j : Nat) : Res Nat := accTerms (U.coef d j) ((List.range n).map (fun m => ((recordAt xo.input m).2, at2 rows.1 m j)))
        xdone (fun t => xwrites t d (U.header d) (fun j => (sum j).val)
          ∧ xflags t ((List.range (U.header d).size).foldl (fun f j => f ||| (sum j).flags) rows.2)))
      ∧ (∀ d a, xo.what = .m2m d a →
        let pts := nodePts (U.header a).geo
        let rows := basisRows (U.header d).geo pts.1
        let sum (j : Nat) : Res Nat := coefSum a (U.coef d j) (fun m => (U.coef a m, at2 rows.1 m j))
        xdone (fun t => xwrites t d (U.header d) (fun j => (sum j).val)
          ∧ xflags t ((List.range (U.header d).size).foldl (fun f j => f ||| (sum j).flags) (pts.2 ||| rows.2))))
      ∧ (∀ d a, xo.what = .m2l d a →
        let pd := nodePts (U.header d).geo
        let pa := nodePts (U.header a).geo
        let rows := kernelRows U (U.header d).dim.toNat pd.1 pa.1
        let sum (j : Nat) : Res Nat := coefSum a (U.coef d j) (fun m => (at2 rows.1 j m, U.coef a m))
        xdone (fun t => xwrites t d (U.header d) (fun j => (sum j).val)
          ∧ xflags t ((List.range (U.header d).size).foldl (fun f j => f ||| (sum j).flags) (pd.2 ||| pa.2 ||| rows.2))))
      ∧ (∀ d a, xo.what = .l2l d a →
        let pts := nodePts (U.header d).geo
        let rows := basisRows (U.header a).geo pts.1
        let sum (j : Nat) : Res Nat := coefSum a (U.coef d j) (fun m => (U.coef a m, at2 rows.1 j m))
        xdone (fun t => xwrites t d (U.header d) (fun j => (sum j).val)
          ∧ xflags t ((List.range (U.header d).size).foldl (fun f j => f ||| (sum j).flags) (pts.2 ||| rows.2))))
      ∧ (∀ a b n, xo.what = .eval a b n →
        let rows := basisRows (U.header b).geo (records n)
        let sum (j : Nat) : Res Nat := coefSum b (recordAt xo.input j).2 (fun m => (at2 rows.1 j m, U.coef b m))
        xdone (fun t => (∀ j, j < n → xstores t (a + 16 * j + 12) (leBytes 4 (sum j).val)) ∧ xregs t []
          ∧ xflags t ((List.range n).foldl (fun f j => f ||| (sum j).flags) rows.2)))
      ∧ (∀ a b n, xo.what = .m2p a b n →
        let pts := nodePts (U.header b).geo
        let rows := kernelRows U (U.header b).dim.toNat (records n) pts.1
        let sum (j : Nat) : Res Nat := coefSum b (recordAt xo.input j).2 (fun m => (at2 rows.1 j m, U.coef b m))
        xdone (fun t => (∀ j, j < n → xstores t (a + 16 * j + 12) (leBytes 4 (sum j).val)) ∧ xregs t []
          ∧ xflags t ((List.range n).foldl (fun f j => f ||| (sum j).flags) (pts.2 ||| rows.2))))
      ∧ (∀ d a b, xo.what = .adm d a b → xdone (fun t => xregs t [] ∧ (xo.ctx < 4 →
          (t.ctx (k, xo.ctx)).pred d = (d == 0 || admissible (U.header a) (U.header b) U.kern.eta)))))
    -- commands
    ∧ ((s.col col).slot i = none → ∀ g, Happens s (.engineCommandStart col i) .engineCommandStart same
      ∧ Happens s (.engineUnit col i) .engineUnit same ∧ Happens s (.engineStampWrite col i) .engineStampWrite same
      ∧ Happens s (.installComplete col i) .installComplete same ∧ Happens s (.collComplete col i contribs g) .collComplete same)
    ∧ ((s.col col).slot i = some sl →
      ((s.col col).earlier sl.num = true → Happens s (.engineCommandStart col i) .engineCommandStart
        (fun t => t = s.post (s.now + 120) (.engineCommandStart col i)))
      ∧ ((s.col col).earlier sl.num = false → sl.kind = .cpy ∨ sl.kind = .cpys ∨ sl.kind = .cpyg →
        Happens s (.engineCommandStart col i) .engineCommandStart (fun t => slot (some { sl with started := true }) t ∧ t.cores = s.cores
          ∧ ∃ u, s.now ≤ u ∧ Posts s t u (.engineUnit col i)))
      -- an install waits for the extent's running one, and at the head of the queue it runs (R192, R193)
      ∧ ((s.col col).earlier sl.num = false → sl.kind = .finst → c.dst.toNat = e → x.running = true →
        Happens s (.engineCommandStart col i) .engineCommandStart (fun t => slot (some { sl with started := true }) t
          ∧ t.dev = s.dev ∧ t.agenda = s.agenda))
      ∧ (∀ rest, (s.col col).earlier sl.num = false → sl.kind = .finst → c.dst.toNat = e → x.running = false → x.queue = (col, i) :: rest →
        Happens s (.engineCommandStart col i) .engineCommandStart (fun t => extent { x with running := true } t
          ∧ (3000 ≤ x.wear.toNat ∨ (s.part sl.part).budget = 0 → slot (some { sl with started := true }) t
            ∧ Posts s t s.now (.installComplete col i))
          ∧ (x.wear.toNat < 3000 → (s.part sl.part).budget ≠ 0 → slot (some { sl with started := true, off := 1 }) t
            ∧ ∃ u, s.now < u ∧ Posts s t u (.installComplete col i))))
      -- a unit and the stamp follow the write before them, which an atomic's slot may hold (R198, R201, R237)
      ∧ (s.writing (.slot col i) = true → Happens s (.engineUnit col i) .engineUnit (fun t => t = s.post (s.now + Config.cycleTicks 0) (.engineUnit col i))
          ∧ Happens s (.engineStampWrite col i) .engineStampWrite (fun t => t = s.post (s.now + Config.cycleTicks 0) (.engineStampWrite col i)))
      -- one unit between near endpoints
      ∧ (s.writing (.slot col i) = false → sl.buf = [] → sl.kind = .cpy → epNear c.src = true → epNear c.dst = true → quiet (epCore col c.src) →
          sl.row = 0 → c.rows = 1 → sl.off < c.len →
          (s.core (epCore col c.src)).badWords (epAddr c.src (epOff c.src + sl.off)) (min 64 (c.len - sl.off)) = [] →
        let n := min 64 (c.len - sl.off)
        let bytes := (List.range n).map (fun b => nearByte s (epCore col c.src) (epAddr c.src (epOff c.src + sl.off) + b))
        Happens s (.engineUnit col i) .engineUnit (fun t => put c.dst (epOff c.dst + sl.off) bytes t
          ∧ (sl.off + n < c.len → slot (some { sl with off := sl.off + n }) t ∧ ∃ u, s.now < u ∧ ⟨u, .engineUnit col i⟩ ∈ t.agenda)
          ∧ (c.len ≤ sl.off + n → stamped 0 t)))
      -- a near stamp is written, and in the cycle of its write the slot is free; with an install its extent is switched (R192, R201)
      ∧ (s.writing (.slot col i) = false → epNear c.stamp = true → sl.done = false → Happens s (.engineStampWrite col i) .engineStampWrite (fun t =>
          slot (some { sl with done := true }) t ∧ put c.stamp (epOff c.stamp) (leBytes 8 (c.seq.toNat + sl.status.toNat * 2 ^ 48)) t
          ∧ Posts s t (ceilTo (cyc (epCore col c.stamp)) (s.now + 1)) (.engineStampWrite col i)))
      ∧ (s.writing (.slot col i) = false → epNear c.stamp = true → sl.done = true → sl.owner = none → sl.node = none → i < 32 →
        (sl.kind ≠ .finst → Happens s (.engineStampWrite col i) .engineStampWrite (fun t => slot none t ∧ t.cores = s.cores ∧ t.dev = s.dev))
        ∧ (sl.kind = .finst → sl.status = 0 → c.dst.toNat = e → x.queue = [(col, i)] → swf 0 x.fresh = true → swf 0 s.dev.far = true →
            (∀ b ∈ x.fresh, b.1 < Config.extentSize) →
          Happens s (.engineStampWrite col i) .engineStampWrite (fun t => slot none t
            ∧ extent { x with fresh := [], state := 0, queue := [], running := false } t
            ∧ ∀ b, farByte t b = if Config.flashBase + e * Config.extentSize ≤ b ∧ b < Config.flashBase + (e + 1) * Config.extentSize then
                sget 0 x.fresh (b - (Config.flashBase + e * Config.extentSize)) else farByte s b))))
    ∧ (∀ en, (s.col col).sched = [en] → i = 32 → (s.col col).slot 32 = none →
      ((s.col col).scnt < en.stage → Happens s (.staticEntryStart col) .staticEntryStart same)
      ∧ (en.stage ≤ (s.col col).scnt → Happens s (.staticEntryStart col) .staticEntryStart (fun t => (t.col col).sched = []
          ∧ slot (some ⟨.cpys, en.cmd, (s.col col).schedPart, none, none, 0, en.scope, s.cmdNum, true, 0, 0, none, 0, [], false, []⟩) t
          ∧ ⟨s.now, .engineUnit col 32⟩ ∈ t.agenda ∧ t.cores = s.cores)))
    ∧ ((s.col col).slot i = some sl → c.dst.toNat = e → x.queue = [(col, i)] →
      (sl.off = 0 → Happens s (.installComplete col i) .installComplete (fun t => stamped (if 3000 ≤ x.wear.toNat then 0x0102 else 0x0103) t
          ∧ t.dev = s.dev))
      -- the old contents stay until the stamp (R192)
      ∧ (sl.off ≠ 0 → Happens s (.installComplete col i) .installComplete (fun t => (t.dev.extent e).queue = x.queue
          ∧ (t.dev.extent e).running = x.running ∧ (t.dev.extent e).state = x.state ∧ ∀ b, farByte t b = farByte s b)))
    ∧ ((s.col col).slot i = some sl → sl.kind = .coll ck op ty → s.rankIn sl.part c.group = some rank → sl.started = true →
      (agree = false → Happens s (.collComplete col i contribs agree) .collComplete (fun t => stamped 0x0301 t ∧ t.cores = s.cores))
      ∧ (agree = true → [] ∈ contribs.set rank sl.buf → Happens s (.collComplete col i contribs agree) .collComplete
          (fun t => stamped 0x0006 t ∧ t.cores = s.cores))
      ∧ (agree = true → [] ∉ contribs.set rank sl.buf → epNear c.dst = true → Happens s (.collComplete col i contribs agree) .collComplete (fun t => stamped 0 t
          ∧ put c.dst (epOff c.dst) (collResult ck op ty c.len rank (contribs.set rank sl.buf)) t)))

/-- Groups (R29 to R36, R45 to R47, R84, R151, R214, R248, R253, R259, R260, R270, R277): a notice freezes the untimed contexts and orders
the release; a phase is released when its turn, its slot and the budget allow, the notice staying until then, and ends exactly at its
length with its last block checked and nothing outstanding; a superstep ends, drains and stops, is replayed, is refused where no
profile fits, or gives way; THERM reaches the service core. By the model's choice, and no rule of the spec: the halt 4 to 15 beats behind
a stop (log 16); the checkpoint restored at the halt (log 33); which power a phase is counted with (log 32); a vector taken as
`vec / 4 * 4` (log 46); a c0 that a handler halted waits at its header all the same (log 21); an untagged word behind a header is stepped
over (log 53). -/
def Obligations.SuperstepSteps : Prop :=
  ∀ (s u : State) (kid col ph : Nat) (kn : Kernel) (sp : Superstep) (w : Word) (k c sensor part v f : Nat) (p : Phase) (ck : Checkpoint)
    (freeze : Bool),
    let same (t : State) : Prop := t = s
    let lead := (kn.columnCores col).head?.bind s.headerOf
    let release : Event := .phaseRelease kid col ph
    let turn := (kn.stage = .running ∨ (kn.stage = .waiting ∧ ph = 0)) ∧ sget 0 kn.colPhase col = ph
    -- a superstep's first phase: released under its notice, or already in another column
    let opens := (kn.stage = .running ∧ ∀ k ∈ kn.columnCores col, s.coreWaits k = true)
      ∨ ((∃ n, kn.notice = some n ∧ n ≤ s.now) ∧ (kn.frozenReq = none ∨ kn.replaying = true) ∧ s.stampsMet kn.part sp = true
      ∧ ∀ k ∈ kn.cores, s.coreWaits k = true)
    let ready := (ph = 0 → opens ∧ ∀ k ∈ kn.columnCores col, (s.ctx (k, 0)).run = .atHeader) ∧ (ph ≠ 0 → sget 0 kn.colEnd col ≤ s.now)
    let again (t : State) : Prop := t = s.post (s.now + 120) release
    let allEnded := ∀ c ∈ kn.columns, sget 0 kn.colPhase c = ph ∧ sget 0 kn.colEnd c ≤ s.now
    let quiet (k : Nat) : Prop := ∀ x ∈ (s.core k).pend, s.now < x.due
    (s.kernel kid = none → Happens s (.releaseNotice kid) .releaseNotice same ∧ Happens s release .phaseRelease same
      ∧ Happens s (.stop kid) .stop same ∧ Happens s (.groupHalt kid) .groupHalt same ∧ Happens s (.preempt kid freeze) .preempt same
      ∧ Happens s (.resumeRequest kid) .resumeRequest same)
    -- RELEASE_NOTICE between two supersteps
    ∧ (s.kernel kid = some kn → kn.stage = .waiting → kn.superstep = some sp → kn.notice = none → kn.frozenReq = none →
      let ev : Event := .releaseNotice kid
      -- a stamp at a peer is asked for, and the notice waits for the answer
      (∀ met, s.seeStamps kn.part sp ev = (met, true, u) → Happens s ev .releaseNotice (fun t => t = u))
      ∧ (s.seeStamps kn.part sp ev = (false, false, u) → Happens s ev .releaseNotice
        (fun t => t = (u.forget ev).post (ceilTo 120 (s.now + 1)) ev))
      -- every stamp near: each word in the bank has reached its number, or the notice looks again in the next beat
      ∧ ((∀ x ∈ sp.stamps, x.1.getLsbD 63 = true) → s.now % 120 = 0 →
          (∃ x ∈ sp.stamps, coreNat s (x.1.extractLsb' 48 15).toNat (Config.bankBase + (x.1.extractLsb' 0 25).toNat) 8 % 2 ^ 48 < x.2.toNat) →
        Happens s ev .releaseNotice (fun t => t = (s.forget ev).post (s.now + 120) ev))
      ∧ (s.seeStamps kn.part sp ev = (true, false, u) → s.now % 120 ≠ 0 → Happens s ev .releaseNotice
        (fun t => t = u.post (ceilTo 120 (s.now + 1)) ev))
      ∧ ((∀ x ∈ sp.stamps, x.1.getLsbD 63 = true
            ∧ x.2.toNat ≤ coreNat s (x.1.extractLsb' 48 15).toNat (Config.bankBase + (x.1.extractLsb' 0 25).toNat) 8 % 2 ^ 48) →
          s.now % 120 = 0 → Happens s (.releaseNotice kid) .releaseNotice (fun t =>
          t.kernel kid = some { kn with notice := some (s.now + 8 * 120) } ∧ (∀ k ∈ kn.cores, (t.core k).ctl.frozen = true)
          ∧ (∀ c ∈ kn.columns, ⟨s.now + 8 * 120, .phaseRelease kid c 0⟩ ∈ t.agenda) ∧ ∀ b, farByte t b = farByte s b)))
    -- PHASE_RELEASE
    ∧ (s.kernel kid = some kn → kn.superstep = some sp → ¬ turn → Happens s release .phaseRelease same)
    ∧ (s.kernel kid = some kn → kn.superstep = some sp → turn → ph = sp.phases →
      (¬ allEnded → Happens s release .phaseRelease same)
      ∧ (allEnded → kn.image.steps.length ≤ kn.step + 1 → (∀ k ∈ kn.cores, (s.core k).ctl.handling = none ∧ (s.core k).ctl.waiting = []) →
        Happens s release .phaseRelease (fun t => (∃ kn', t.kernel kid = some kn' ∧ kn'.stage = .done ∧ kn'.step = kn.step + 1)
          ∧ (∀ k ∈ kn.cores, (t.ctx (k, 0)).run = .halted ∧ (t.core k).ctl.phase = none ∧ (t.core k).ctl.frozen = false)
          ∧ Posts s t s.now (.kernelComplete kid) ∧ (kn.frozenReq ≠ none → ⟨s.now, .preempt kid false⟩ ∈ t.agenda)))
      -- a pre-emption that was asked for follows at the boundary (R248)
      ∧ (allEnded → kn.step + 1 < kn.image.steps.length → kn.frozenReq ≠ none → Happens s release .phaseRelease (fun t =>
          Posts s t s.now (.preempt kid false)))
      ∧ (allEnded → kn.step + 1 < kn.image.steps.length → kn.notice = none → kn.frozenReq = none →
          (∀ k ∈ kn.cores, (s.core k).ctl.handling = none ∧ (s.core k).ctl.waiting = []) →
        Happens s release .phaseRelease (fun t => (∃ kn', t.kernel kid = some kn' ∧ kn'.stage = .waiting ∧ kn'.step = kn.step + 1)
          ∧ (∀ k ∈ kn.cores, (t.core k).ctl.phase = none ∧ (t.core k).ctl.frozen = false) ∧ Posts s t s.now (.releaseNotice kid))))
    ∧ (s.kernel kid = some kn → kn.superstep = some sp → kn.stage = .waiting → sget 0 kn.colPhase col = 0 → 0 < sp.phases → ph = 0 →
        kn.notice = none → Happens s release .phaseRelease again)
    -- an illegal first header stops its own core, whichever of the column it is (R83)
    ∧ (s.kernel kid = some kn → kn.superstep = some sp → turn → ph < sp.phases → ready → lead ≠ none → s.headerOf k = some w →
        headerOk w = false → (kn.columnCores col).filter (fun j => match s.headerOf j with | some x => !headerOk x | none => false) = [k] →
        Happens s release .phaseRelease (fun t =>
          t = (s.takeTrap (k, 0) (s.issuedWord (k, 0)) (.of .illop)).post (s.now + 120) release))
    ∧ (s.kernel kid = some kn → kn.superstep = some sp → turn → ph < sp.phases → lead = some w →
        (∀ j ∈ kn.columnCores col, ∀ x, s.headerOf j = some x → headerOk x = true) → headerKind w = 0 →
      let since := if sget 0 kn.waiting col = 0 then s.now + 1 else sget 0 kn.waiting col
      let may := s.admits kn.part (kn.phasePower s.budget w) = true ∧ s.earlierWaits kn.part since = false
      (ph ≠ 0 → s.now < sget 0 kn.colEnd col → Happens s release .phaseRelease again)
      ∧ (ready → s.slotOpen kn ph col = false → Happens s release .phaseRelease again)
      ∧ (ready → s.slotOpen kn ph col = true → ¬ may → Happens s release .phaseRelease (fun t =>
          t.kernel kid = some { kn with waiting := sset 0 kn.waiting col since } ∧ t.cores = s.cores ∧ Posts s t (s.now + 120) release))
      ∧ (ready → s.slotOpen kn ph col = true → may → col < 64 → Happens s release .phaseRelease (fun t =>
          (∃ kn', t.kernel kid = some kn' ∧ sget 0 kn'.colPhase col = ph + 1 ∧ sget 0 kn'.colEnd col = s.endBeat kn col
            ∧ kn'.stage = .running ∧ sget 0 kn'.colStart (64 * ph + col) = s.now
            ∧ (kn.stage = .running → kn'.notice = kn.notice) ∧ (kn.stage = .waiting → kn'.notice = none)
            ∧ ∀ j, j ≠ col → sget 0 kn'.colPhase j = sget 0 kn.colPhase j)
          ∧ (∀ k ∈ kn.columnCores col, ∀ x, s.headerOf k = some x →
            let at_ := s.skipSig k (s.ctx (k, 0)).pc.toNat
            let L := headerLen x
            (∃ y, (t.core k).ctl.phase = some y ∧ y.kind = phaseKind (headerKind x) ∧ y.len = L ∧ y.start = s.now)
            ∧ (t.ctx (k, 0)).pc = BitVec.ofNat 32 (s.skipSig k (at_ + 4))
            ∧ (t.ctx (k, 0)).run = (if (headerTiers x).getLsbD (Machine.tierOf k) then .running else .atHeader)
            ∧ ⟨s.now + L * cyc k, .phaseEnd k⟩ ∈ t.agenda)
          -- from a superstep's first release on the wheels of the group's banks skip (R237)
          ∧ ∀ j, j ∉ kn.columnCores col → t.core j = if kn.stage = .waiting ∧ j ∈ kn.cores then
              { s.core j with ctl := { (s.core j).ctl with skip := true } } else s.core j)))
    -- PHASE_END
    ∧ ((s.core k).ctl.phase = none → quiet k → Happens s (.phaseEnd k) .phaseEnd same)
    ∧ ((s.core k).ctl.phase = some p → quiet k → (s.core k).ctl.stopped = true ∨ (p.slaved = true ∧ (s.core (leaderOf k)).ctl.stopped = true) →
        Happens s (.phaseEnd k) .phaseEnd same)
    ∧ ((s.core k).ctl.phase = some p → quiet k → p.start + p.len * cyc k = s.now → (s.core k).ctl.stopped = false →
        (s.core k).ctl.handling = none → (p.slaved = true → (s.core (leaderOf k)).ctl.stopped = false) →
      (s.atHeader k = false ∨ (s.core k).ctl.fifo ≠ [] ∨ s.now < (s.core k).ctl.issueAt → Happens s (.phaseEnd k) .phaseEnd
        (fun t => t = s.takeTrap (k, 0) (s.issuedWord (k, 0)) (.timing 4)))
      ∧ (∀ tr, s.atHeader k = true → (s.core k).ctl.fifo = [] → (s.core k).ctl.issueAt ≤ s.now → s.sigCheck (k, 0) = some tr →
          Happens s (.phaseEnd k) .phaseEnd (fun t => t = s.trapAtFetch (k, 0) tr))
      ∧ (s.atHeader k = true → (s.core k).ctl.fifo = [] → (s.core k).ctl.issueAt ≤ s.now → s.sigCheck (k, 0) = none →
          (s.core k).unfinished s.now = true ∨ s.messageLate k s.beatTick = true ∨ s.orphanSet k = true →
        Happens s (.phaseEnd k) .phaseEnd (fun t => t = (s.dropSets k).takeTrap (k, 0) (s.issuedWord (k, 0)) (.timing 5)))
      ∧ (s.atHeader k = true → (s.core k).ctl.fifo = [] → (s.core k).ctl.issueAt ≤ s.now → s.sigCheck (k, 0) = none →
          (s.core k).unfinished s.now = false → s.messageLate k s.beatTick = false → s.orphanSet k = false → s.headerOf k = some w →
        (headerOk w = false → Happens s (.phaseEnd k) .phaseEnd (fun t => t = s.takeTrap (k, 0) w (.of .illop)))
        ∧ (headerOk w = true → Happens s (.phaseEnd k) .phaseEnd (fun t => (t.ctx (k, 0)).run = .atHeader
          ∧ (t.core k).ctl.phase = some { p with active := false } ∧ (t.ctx (k, 0)).pc = (s.ctx (k, 0)).pc
          ∧ (t.ctx (k, 0)).sig = 0 ∧ (t.ctx (k, 0)).sigEnd = none
          ∧ (∀ j, j ≠ k → t.core j = s.core j) ∧ { t with cores := [] } = { s with cores := [] }))))
    -- STOP, GROUP_HALT, PREEMPT, RESUME_REQUEST
    ∧ (s.kernel kid = some kn → Happens s (.stop kid) .stop (fun t => (∀ k ∈ kn.cores, (t.core k).ctl.frozen = true
          ∧ (∀ y, (s.core k).ctl.phase = some y → y.skew = 0 → (t.core k).ctl.stopped = true))
        ∧ (∀ k, k ∉ kn.cores → t.core k = s.core k)
        ∧ ∃ d, 4 ≤ d ∧ d ≤ 15 ∧ Posts s t (s.now + d * 120) (.groupHalt kid)))
    -- fixed-latency operations drain before the halt (R45)
    ∧ (s.kernel kid = some kn → (∃ j ∈ kn.cores, (s.core j).draining s.now = true) → Happens s (.groupHalt kid) .groupHalt
        (fun t => t = s.post (s.beatTick + 120) (.groupHalt kid)))
    ∧ (s.kernel kid = some kn → kn.stage ≠ .stopping true → (∀ k ∈ kn.cores, quiet k ∧ (s.core k).draining s.now = false
        ∧ (s.core k).ctl.waiting = []) →
      let halted : Kernel := { kn with notice := none, colPhase := [], colStart := [], colEnd := [], power := [], waiting := [] }
      let rewound (t : State) : Prop := k ∈ kn.cores → (s.core k).ctl.phase = some p → (s.core k).ctl.ckpt = some ck →
        t.ctx (k, 0) = { (s.ctx (k, 0)).restore ck with run := .atHeader } ∧ (t.core k).ctl.phase = none ∧ ∀ i, i ≠ 0 → t.ctx (k, i) = s.ctx (k, i)
      (kn.failing = none → Happens s (.groupHalt kid) .groupHalt (fun t => rewound t ∧ t.kernel kid = some { halted with stage := .waiting }
          ∧ ⟨ceilTo 120 s.now, .releaseNotice kid⟩ ∈ t.agenda))
      ∧ (kn.failing = some f → kn.replays < 3 → kn.width = false → Happens s (.groupHalt kid) .groupHalt (fun t => rewound t
          ∧ t.kernel kid = some { halted with stage := .waiting, replays := kn.replays + 1, failing := none }
          ∧ ⟨ceilTo 120 s.now, .releaseNotice kid⟩ ∈ t.agenda))
      -- no profile fits the lane's width: PROFILE is recorded with the column, and the task ends (R152, R253)
      ∧ (kn.failing = some f → kn.replays < 3 → kn.width = true → s.chooseProfile kn.image kn.columns = none →
        Happens s (.groupHalt kid) .groupHalt (fun t => (∃ kn', t.kernel kid = some kn' ∧ kn'.fatal = true ∧ kn'.refused = some 0x0204)
          ∧ ∃ r : FaultRec, sget [] t.bufs (64 * Machine.tierOf f + columnOf f) = sget [] s.bufs (64 * Machine.tierOf f + columnOf f) ++ [r]
            ∧ r.extractLsb' 0 8 = 0x08 ∧ (r.extractLsb' 128 57).toNat = columnOf f ∧ r.extractLsb' 216 8 = 0x08)))
    ∧ (s.kernel kid = some kn → kn.stage = .stopping true → (∀ j ∈ kn.cores, (s.core j).draining s.now = false) →
        Happens s (.groupHalt kid) .groupHalt (fun t => ∀ kn', t.kernel kid = some kn' → kn'.stage = .frozen ∨ kn'.fatal = true))
    -- a request while the group stops, replays or has been refused
    ∧ (∀ b, s.kernel kid = some kn → kn.stage = .stopping b → Happens s (.preempt kid freeze) .preempt (fun t => t.cores = s.cores
        ∧ t.agenda = s.agenda ∧ t.kernel kid = some { kn with frozenReq := some freeze, stage := .stopping (b || freeze) }))
    ∧ (s.kernel kid = some kn → (kn.stage = .waiting ∧ kn.replaying = true ∧ freeze = false) ∨ (kn.stage = .done ∧ kn.fatal = true) →
        Happens s (.preempt kid freeze) .preempt (fun t => t.cores = s.cores ∧ t.agenda = s.agenda
          ∧ t.kernel kid = some { kn with frozenReq := some freeze }))
    ∧ (s.kernel kid = some kn → kn.stage = .running →
      (freeze = false → Happens s (.preempt kid freeze) .preempt (fun t => t.kernel kid = some { kn with frozenReq := some false }
          ∧ t.cores = s.cores ∧ t.agenda = s.agenda))
      ∧ (freeze = true → Happens s (.preempt kid freeze) .preempt (fun t =>
          t.kernel kid = some { kn with frozenReq := some true, stage := .stopping true } ∧ t.cores = s.cores
          ∧ ∃ d, 1 ≤ d ∧ d ≤ 16 ∧ Posts s t ((s.beat + d) * 120) (.stop kid))))
    ∧ (∀ vec : Nat → Nat, s.kernel kid = some kn → (∀ k ∈ kn.cores, c0Free s k ∧ (s.core k).vector (Machine.tierOf k) 3 = some (vec k)) →
      let more := kn.step < kn.image.steps.length
      Happens s (.resumeRequest kid) .resumeRequest (fun t =>
        t.kernel kid = some { kn with stage := if more then .waiting else .done, frozenReq := none, failing := none, scheds := [] }
        ∧ (more → ⟨ceilTo 120 s.now, .releaseNotice kid⟩ ∈ t.agenda)
        -- the static entries that had not run come back with the stage count (R248)
        ∧ (∀ e, kn.scheds = [e] → (t.col e.col).sched = (s.col e.col).sched ++ e.entries ∧ (t.col e.col).scnt = e.scnt ∧ ⟨s.now, .staticEntryStart e.col⟩ ∈ t.agenda)
        ∧ ∀ k ∈ kn.cores, (t.core k).ctl.kernel = some kid ∧ (t.core k).ctl.frozen = false ∧ (t.core k).slice.wvalid = false ∧ (t.core k).ctl.handling = some 0
          ∧ (t.ctx (k, 0)).run = .running ∧ (t.ctx (k, 0)).pc = BitVec.ofNat 32 (vec k / 4 * 4)
          ∧ coreNat t k (slotAddr (Machine.tierOf k) 0 + 12) 4 = (sget 0 kn.heads k).toNat
          ∧ coreNat t k (slotAddr (Machine.tierOf k) 0 + 28) 4 = 3 + 4 * 1))
    -- THERM_DELIVERY
    ∧ (k = s.serviceCore part → c0Free s k → (s.ctx (k, 0)).rep = none → (s.core k).vector (Machine.tierOf k) 1 = some v →
      let cause := BitVec.ofNat 64 (0x11 + c * 2 ^ 8)
      let pc := (s.ctx (k, 0)).pc.toNat
      Happens s (.thermDelivery part c sensor) .thermDelivery (fun t =>
        SlotHolds t k 0 cause pc pc (BitVec.ofNat 64 sensor) 0 1 0 0 s.beat ∧ Handles s t k 0 v cause pc (BitVec.ofNat 64 sensor) 0 ∧ OnlySlot s t k 0))

/-- The gaffer (R238 to R248, R307): a head becomes a task; nodes are read, decide, count, wait, signal and start commands or kernels; a
first failure ends the chain with its code; the task stamp is written when no node runs, and the task is over once its bank has taken it;
kernels end. Words are read at near references here; far blocks by the gaffer's read. By the model's choice, and no rule of the spec:
a failed chain's loops end at once, a COPY or INSTALL outside the partition is 0x0206, and a near SIGNAL's access and completion are one
step (log 36); the bank takes the stamp in the next cycle of its tier (log 43); an image without a timed superstep needs no profile
(log 8). -/
def Obligations.TaskSteps : Prop :=
  ∀ (s : State) (task addr m i since part kid col : Nat) (loops : List LoopFrame) (T : Task) (n : NodeRun) (f : LoopFrame)
    (u w : State) (bs : List Byte) (kn : Kernel) (im : Image),
    let later (t : State) (ev : Event) : Prop := ∃ at_, s.now < at_ ∧ ⟨at_, ev⟩ ∈ t.agenda
    let calm (t : State) : Prop := t.cores = s.cores ∧ ∀ b, farByte t b = farByte s b
    let W (j : Nat) : DWord := n.words.extractLsb' (64 * j) 64
    let core (r : DWord) : Nat := (r.extractLsb' 48 15).toNat
    let at_ (r : DWord) : Nat := Config.bankBase + (r.extractLsb' 0 25).toNat
    -- a near reference whose word is `m`
    let near (r : DWord) : Prop := r.getLsbD 63 = true ∧ (∀ p ∈ (s.core (core r)).pend, s.now < p.due)
    let clean (r : DWord) : Prop := ∀ w, at_ r / 4 ≤ w → 4 * w < at_ r + 8 → sget 0 (s.core (core r)).poison w = 0
    let reads (r : DWord) : Prop := near r ∧ clean r ∧ coreNat s (core r) (at_ r) 8 = m
    let stored (r : DWord) (x : Nat) (t : State) : Prop := (∀ b, nearByte t (core r) b =
        if at_ r ≤ b ∧ b < at_ r + 8 then BitVec.ofNat 8 (x / 2 ^ (8 * (b - at_ r))) else nearByte s (core r) b)
      ∧ ∀ j, j ≠ core r → t.core j = s.core j
    let masked := BitVec.ofNat 64 m &&& W 3
    let op := ((W 5).extractLsb' 0 2).toNat
    let holds : Prop := if op = 0 then masked = W 4 else if op = 1 then masked ≠ W 4 else if op = 2 then masked < W 4 else W 4 ≤ masked
    let runs (l : List LoopFrame) : Prop := s.task task = some T ∧ T.node addr l = some n
    let dropped : Task := { T with nodes := T.nodes.erase n }
    let cut : Task := { dropped with nodes := dropped.nodes.filter (fun x => !(if n.nowait then [] else n.loops).any (fun f => f.node == x.addr)) }
    let goes (next : Nat) (t : State) : Prop := t.task task = some dropped ∧ later t (.nodeSuccessor task next n.loops) ∧ calm t
    let isOver (t : State) : Prop := t.task task = some dropped ∧ later t (.taskStampWrite task) ∧ calm t
    let isCut (t : State) : Prop := t.task task = some cut ∧ later t (.taskStampWrite task) ∧ calm t
    -- a node fails: the loops in whose bodies its chain runs end with it (R242)
    let ended (t : Task) (l : List LoopFrame) : Task := { t with nodes := t.nodes.filter (fun x => !l.any (fun f => f.node == x.addr)) }
    let fails (code : BitVec 16) (t : State) : Prop := t.task task = some { ended dropped (if n.nowait then [] else n.loops) with status := some code }
      ∧ later t (.taskStampWrite task) ∧ calm t
    let held (v : Nat) : Task := { T with nodes := T.nodes.map (fun x => if x = n then { x with word := some v } else x) }
    let limit := 1000 * ((W 6).extractLsb' 0 32).toNat
    let q := sget .reset (s.part part).queues i
    let pending (j : Nat) : Prop := let q := sget .reset (s.part part).queues j
      q.en = true ∧ q.qstop = false ∧ q.tail.toNat % 2 ^ q.log2n.toNat ≠ q.head.toNat % 2 ^ q.log2n.toNat
    let looks : Event := .taskStart part
    -- a task that has failed ends its nodes, and the loops of their chain with them
    (runs loops → T.status ≠ none → Happens s (.nodeCond task addr loops) .nodeCond isCut
      ∧ Happens s (.nodeSwitch task addr loops) .nodeSwitch isCut ∧ Happens s (.nodeLoop task addr (f :: loops)) .nodeLoop isCut
      ∧ Happens s (.nodeCopy task addr loops) .nodeCopy isCut ∧ Happens s (.nodeInstall task addr loops) .nodeInstall isCut
      ∧ Happens s (.nodeKernel task addr loops) .nodeKernel isCut)
    -- COND, SWITCH, LOOP
    ∧ (runs loops → T.status = none → n.word = none → reads (W 2) →
      (holds → Happens s (.nodeCond task addr loops) .nodeCond (goes n.next))
      ∧ (¬ holds → Happens s (.nodeCond task addr loops) .nodeCond (goes (W 6).toNat))
      ∧ (((W 4).extractLsb' 0 5).toNat ≤ masked.toNat → Happens s (.nodeSwitch task addr loops) .nodeSwitch (goes n.next))
      ∧ (masked.toNat < ((W 4).extractLsb' 0 5).toNat →
          s.gafRead T.part ((W 5).toNat + 8 * masked.toNat) 8 (.nodeSwitch task addr loops) = (.ok bs, u) →
        Happens s (.nodeSwitch task addr loops) .nodeSwitch (fun t => ∃ at_, ⟨at_, .nodeSuccessor task (leNat bs) n.loops⟩ ∈ t.agenda))
      ∧ (holds → f.iter = ((W 5).extractLsb' 32 32).toNat → Happens s (.nodeLoop task addr (f :: loops)) .nodeLoop (fails 0x0209))
      ∧ (holds → f.iter ≠ ((W 5).extractLsb' 32 32).toNat → Happens s (.nodeLoop task addr (f :: loops)) .nodeLoop (fun t =>
          t.task task = some T ∧ later t (.nodeSuccessor task (W 6).toNat (f :: loops)) ∧ calm t))
      ∧ (¬ holds → W 7 = 0 → Happens s (.nodeLoop task addr (f :: loops)) .nodeLoop (goes n.next))
      -- the count goes to COUNTW in a step of its own, which completes the node (R244, R245)
      ∧ (¬ holds → near (W 7) → Happens s (.nodeLoop task addr (f :: loops)) .nodeLoop (fun t =>
          t.task task = some (held f.iter) ∧ later t (.signalComplete task addr n.loops true) ∧ calm t)))
    -- a table in a peer is asked for with the word kept, and not read again (R244)
    ∧ (∀ x, runs loops → T.status = none → n.word = none → reads (W 2) → masked.toNat < ((W 4).extractLsb' 0 5).toNat →
        s.gafRead T.part ((W 5).toNat + 8 * masked.toNat) 8 (.nodeSwitch task addr loops) = (x, u) → (match x with | .wait => True | _ => False) →
      Happens s (.nodeSwitch task addr loops) .nodeSwitch (fun t => t.task task = some (held m)))
    -- SIGNAL: the near access is made in the step that completes the node, which has started once, by its first step (R245)
    ∧ (runs loops → near (W 2) → Happens s (.nodeSignal task addr loops) .nodeSignal (fun t => calm t
        ∧ t.task task = some (if n.word = none then held 0 else T) ∧ later t (.signalComplete task addr loops true)
        ∧ (n.nowait = true → n.word = none → later t (.nodeSuccessor task n.next n.loops))))
    ∧ (runs loops → n.kind = 5 → n.word = some m → near (W 7) → (s.core (core (W 7))).ctl.rmw = [] →
      Happens s (.signalComplete task addr loops true) .signalComplete (fun t => t.task task = some dropped ∧ stored (W 7) m t
        ∧ (n.nowait = false → later t (.nodeSuccessor task n.next n.loops))))
    ∧ (runs loops → n.kind ≠ 5 → reads (W 2) → let ev : Event := .signalComplete task addr loops true
      -- while an atomic's slot has the unit, neither the access nor the node is over (R244, R245)
      ((s.core (core (W 2))).held s.now (at_ (W 2)) none = true → Happens s ev .signalComplete (fun t =>
          t = s.post (s.now + cyc (core (W 2))) ev))
      ∧ ((s.core (core (W 2))).ctl.rmw = [] → Happens s ev .signalComplete (fun t => t.task task = some dropped
          ∧ stored (W 2) ((if (W 4).getLsbD 0 then m else 0) + (W 3).toNat) t
          ∧ later t (if n.nowait then .taskStampWrite task else .nodeSuccessor task n.next n.loops))))
    ∧ (runs loops → n.kind ≠ 5 → (W 2).getLsbD 63 = false →
      (T.status = none → Happens s (.signalComplete task addr loops false) .signalComplete (fails 0x0207))
      ∧ Happens s (.signalComplete task addr loops true) .signalComplete (if n.nowait then isOver else goes n.next))
    -- WAIT
    ∧ (runs loops → reads (W 2) → let ev : Event := .nodeWait task addr loops since
      (T.status ≠ none → Happens s ev .nodeWait isCut)
      ∧ (T.status = none → holds → Happens s ev .nodeWait (if n.nowait then isOver else goes n.next))
      ∧ (T.status = none → ¬ holds → limit ≠ 0 → limit ≤ s.time - since → Happens s ev .nodeWait (fails 0x020A))
      ∧ (T.status = none → ¬ holds → limit = 0 ∨ s.time - since < limit → Happens s ev .nodeWait (fun t =>
          t.task task = some T ∧ later t ev ∧ calm t)))
    ∧ ((∀ e ∈ s.agenda, ∀ l x, e.ev ≠ .nodeWait task addr l x) → Happens s (.waitTimeout task addr) .waitTimeout (fun t => t = s))
    ∧ (runs loops → T.status = none → (∃ e ∈ s.agenda, e.ev = .nodeWait task addr loops since) →
        (∀ e ∈ s.agenda, ∀ l x, e.ev = .nodeWait task addr l x → l = loops ∧ x = since) →
      (s.time - since < limit → Happens s (.waitTimeout task addr) .waitTimeout (fun t => t = s.post (s.now + 120) (.waitTimeout task addr)))
      ∧ (limit ≤ s.time - since → Happens s (.waitTimeout task addr) .waitTimeout (fun t => fails 0x020A t
          ∧ ∀ e ∈ t.agenda, e.ev ≠ .nodeWait task addr loops since)))
    -- the chain goes on
    ∧ (s.task task = some T → let ev : Event := .nodeSuccessor task addr loops
      (T.status ≠ none → Happens s ev .nodeSuccessor (fun t => t.task task = some (ended T loops) ∧ later t (.taskStampWrite task) ∧ calm t))
      ∧ (T.status = none → addr = 0 → loops = [] → Happens s ev .nodeSuccessor (fun t =>
          t.task task = some { T with ending := true } ∧ later t (.taskStampWrite task) ∧ calm t))
      ∧ (∀ l r, T.status = none → addr = 0 → loops = l :: r → Happens s ev .nodeSuccessor (fun t =>
          t.task task = some T ∧ later t (.nodeLoop task l.node (⟨l.node, l.iter + 1⟩ :: r)) ∧ calm t))
      ∧ (T.status = none → addr ≠ 0 → addr < 2 ^ 64 → addr % 64 ≠ 0 ∨ 2 ^ 57 ≤ addr → Happens s ev .nodeSuccessor (fun t =>
          t.task task = some { ended T loops with status := some 0x0206 } ∧ later t (.taskStampWrite task) ∧ calm t))
      ∧ (T.status = none → addr ≠ 0 → addr < 2 ^ 57 → addr % 64 = 0 → T.nodes.length < 16 → s.gafRead T.part addr 64 ev = (.ok bs, u) →
        let x : BitVec 512 := BitVec.ofNat 512 (leNat bs)
        let kind := x.extractLsb' 0 4
        -- reserved bits of dword 0 that are not 0 end the task with NODE (R243)
        (x.extractLsb' 5 11 ≠ 0 ∨ x.extractLsb' 32 32 ≠ 0 → Happens s ev .nodeSuccessor (fun t =>
          t.task task = some { ended T loops with status := some 0x0206 } ∧ ∃ at_, ⟨at_, .taskStampWrite task⟩ ∈ t.agenda))
        ∧ (u.nodeOk T.part x = true → kind ≠ 8 → (kind = 5 → loops.length < 8) → Happens s ev .nodeSuccessor (fun t =>
          (∃ T', t.task task = some T' ∧ T'.nodes = T.nodes ++ [⟨addr, x, kind, (x.extractLsb' 64 64).toNat, loops,
            x.getLsbD 4 && !(kind == 4 || kind == 5 || kind == 6), none⟩])
          ∧ ∃ at_, ⟨at_, startEvent kind.toNat task addr loops 0⟩ ∈ t.agenda))))
    -- COPY, INSTALL, KERNEL
    ∧ (∀ ev row, (ev = .nodeCopy task addr loops ∧ row = .nodeCopy) ∨ (ev = .nodeInstall task addr loops ∧ row = .nodeInstall) →
      runs loops → T.status = none → col = ((W 3).extractLsb' 0 6).toNat →
      (partOfQuad s.dev.mode (col / 16) ≠ T.part → Happens s ev row (fails 0x0206))
      ∧ (partOfQuad s.dev.mode (col / 16) = T.part → s.gafRead T.part (W 2).toNat 64 ev = (.ok bs, u) →
        let c := Cmd.ofNat (leNat bs)
        let kind := nodeKindOf n.kind.toNat ((W 3).extractLsb' 8 2).toNat
        cmdIll kind (leNat bs) 0 = false → c.rva = false → (∃ r, cmdRange kind c 0 = .ok r) →
        8 ≤ i → i < 32 → (u.col col).slot i = none → (∀ j, 8 ≤ j → j < i → (u.col col).slot j ≠ none) →
        Happens s ev row (fun t => (∃ sl, (t.col col).slot i = some sl ∧ sl.cmd = c ∧ sl.kind = kind ∧ sl.part = T.part
            ∧ sl.node = some (task, n.addr) ∧ sl.owner = none ∧ sl.started = false)
          ∧ ∃ at_, ⟨at_, .engineCommandStart col i⟩ ∈ t.agenda)))
    ∧ (let ev : Event := .nodeKernel task addr loops
      runs loops → T.status = none → s.gafRead T.part (W 2).toNat 256 ev = (.ok bs, u) →
      let l := Launch.ofNat (leNat bs)
      -- the image's address is translated once, and the node keeps what it is (R185)
      ∀ v a, launchBad (leNat bs) = false → l.binds = 0 → l.sched = 0 →
      (n.word = some a ∧ v = u) ∨ (n.word = none ∧ u.translate T.part (u.homeCol T.part) l.image false = (.ok a, v)) →
      (v.setWord task n (some a)).imageAt T.part (v.homeCol T.part) l.image a ev = (.ok (some im), w) →
      w.task task = some (held a) →
      (w.launchCheck T.part l (some im) ≠ 0 → Happens s ev .nodeKernel (fun t =>
        t.task task = some { ended { held a with nodes := (held a).nodes.erase { n with word := some a } } (if n.nowait then [] else n.loops) with
          status := some (w.launchCheck T.part l (some im)) }
        ∧ ∃ at_, ⟨at_, .taskStampWrite task⟩ ∈ t.agenda))
      ∧ (w.launchCheck T.part l (some im) = 0 → w.holder T.part l.cols l.tiers = none →
      Happens s ev .nodeKernel (fun t => ∃ k, t.kernel w.gaf.nextId = some k ∧ k.task = task ∧ k.node = n.addr ∧ k.part = T.part
        ∧ k.cols = l.cols ∧ k.tiers = l.tiers ∧ k.image = im ∧ k.step = 0 ∧ k.fatal = false)))
    ∧ (s.kernel kid = some kn → let ev : Event := .kernelComplete kid
      let gone (failure : Option (BitVec 16)) (t : State) : Prop := t.kernel kid = none ∧ (∃ e ∈ t.agenda, e.ev = .taskStart kn.part)
        ∧ (s.task kn.task = some T → T.nodes.find? (fun x => x.addr == kn.node) = some n →
            t.task kn.task = some { T with nodes := T.nodes.erase n, status := if T.status.isSome then T.status else failure })
      (kn.fatal = true → Happens s ev .kernelComplete (gone (some (kn.refused.getD 0x0208))))
      ∧ (kn.fatal = false → kn.stage = .done → s.kernelOver kid kn = true → Happens s ev .kernelComplete (gone none))
      -- a context that is not Halted, an entry to serve; work that ends by itself is looked at again a beat later, by one step
      ∧ (kn.fatal = false → kn.stage = .done → s.kernelHalted kid kn = false → Happens s ev .kernelComplete (fun t => t = s))
      ∧ (∀ k c, kn.fatal = false → kn.stage = .done → k ∈ kn.cores → 1 ≤ c → c ≤ 3 → (s.ctx (k, c)).kernel = some kid →
          (s.ctx (k, c)).run ≠ .halted → Happens s ev .kernelComplete (fun t => t = s))
      ∧ (kn.fatal = false → kn.stage = .done → s.kernelHalted kid kn = true → s.kernelOver kid kn = false →
          Happens s ev .kernelComplete (fun t => t = if ∃ e ∈ s.agenda, e.ev = ev then s else s.post (s.now + 120) ev))
      ∧ (∀ k c, kn.fatal = false → kn.stage = .done → k ∈ kn.cores → c < 4 → (s.ctx (k, c)).kernel = some kid →
          (c = 0 → (s.core k).ctl.kernel = some kid) → s.ownOut (k, c) = true → Happens s ev .kernelComplete (fun t => t.kernel kid = some kn))
      ∧ (kn.fatal = false → kn.stage = .frozen → kn.cores.all s.savedCore = true → Happens s ev .kernelComplete (fun t =>
          -- the static entries that have not run are kept with it (R248)
          t.kernel kid = some { kn with
            stage := .preempted, frozenReq := some true
            scheds := kn.columns.map (fun c => ⟨c, (s.col c).scnt, (s.col c).sched.filter (fun x => x.kernel == kid)⟩) }
          -- those of other kernels on the column stay (R206, R246)
          ∧ (∀ c ∈ kn.columns, (t.col c).sched = (s.col c).sched.filter (fun x => x.kernel != kid)) ∧ (∀ k ∈ kn.cores, (t.core k).ctl.kernel = none)
          ∧ ∃ e ∈ t.agenda, e.ev = .taskStart kn.part)))
    -- TASK_START, TASK_STAMP_WRITE
    ∧ (s.gaf.kernels = [] → (∀ j, j < 64 → ¬ pending j) → Happens s looks .taskStart (fun t => t = s.forget looks))
    -- a head with BAR does not start while a task of its queue runs (R240)
    ∧ (∀ h, s.gaf.kernels = [] → i < 64 → pending i → (∀ j, j < 64 → j ≠ i → ¬ pending j) → s.readHead part looks i = (some h, s) →
        h.entry = some m → m.testBit 192 = true → s.queueBusy part i = true → Happens s looks .taskStart (fun t => t = s.forget looks))
    ∧ (∀ h, s.gaf.kernels = [] → i < 64 → pending i → (∀ j, j < 64 → j ≠ i → ¬ pending j) → s.readHead part looks i = (some h, s) →
        h.entry = some m → m.testBit 192 = false → s.entryOk part m = true → s.headFree part h = true →
        s.gafRead part q.headAddr 64 looks = (.ok bs, u) → leNat bs = m →
      Happens s looks .taskStart (fun t =>
        ((t.part part).queue i).head = BitVec.ofNat 16 ((q.head.toNat + 1) % 2 ^ q.log2n.toNat)
        ∧ t.task u.gaf.nextId = some ⟨part, i, q.head.toNat % 2 ^ q.log2n.toNat, BitVec.ofNat 64 (m / 2 ^ 64), BitVec.ofNat 48 (m / 2 ^ 128),
            m.testBit 193, none, [], false, false⟩
        ∧ ∃ at_, ⟨at_, .nodeSuccessor u.gaf.nextId (m % 2 ^ 64) []⟩ ∈ t.agenda))
    ∧ (s.task task = some T → let ev : Event := .taskStampWrite task
      (T.nodes ≠ [] ∨ (T.ending = false ∧ T.status = none) → Happens s ev .taskStampWrite (fun t => t = s))
      -- the near write takes its place in the next cycle of the bank (R179; log 43), and the task is over with it (R240, R242)
      ∧ (T.nodes = [] → T.ending = true ∨ T.status ≠ none → T.stamped = true → near T.stamp →
        (s.writing (.task task) = true → Happens s ev .taskStampWrite (fun t => t = s.post (s.now + cyc (core T.stamp)) ev))
        ∧ (s.writing (.task task) = false → Happens s ev .taskStampWrite (fun t => t.task task = none
          ∧ ⟨s.now, .taskStart T.part⟩ ∈ t.agenda ∧ t.cores = s.cores)))
      ∧ (T.nodes = [] → T.ending = true ∨ T.status ≠ none → T.stamped = false → s.refOk T.part T.stamp = true → near T.stamp →
          Happens s ev .taskStampWrite (fun t => t.task task = some { T with stamped := true }
          ∧ ⟨ceilTo (cyc (core T.stamp)) (s.now + 1), 4, .port ⟨0, at_ T.stamp, leBytes 8 (T.seq.toNat + (T.status.getD 0).toNat * 2 ^ 48), [], false, .task task⟩⟩
            ∈ (t.core (core T.stamp)).pend ∧ ⟨s.now + cyc (core T.stamp), ev⟩ ∈ t.agenda)))

/-- The management window (R183, R185, R194, R238, R257, R275, R285, R287, R299, R300, R308): a register takes its fields, a device in
recovery exposes nothing but the mailbox, a partition under reset ignores writes, an invalidation and a report run to their end; a
virtual function reaches the region of its bound partition alone, and only whole aligned words are accepted. The registers and steps
of the beat, of heat and of power (R273, R274, R281 to R284) complete in every state. By the model's choice, and no rule of the spec: a
range word keeps its low 12 bits and a misaligned report ends in state 3 (log 41); IBUDGET changes what is left of the day by its
difference, and is ignored under reset (log 38). -/
def Obligations.HostRegisterSteps : Prop :=
  ∀ (s : State) (part i off size vf : Nat) (v : DWord) (who : Option Nat) (raws : List (BitVec 8)) (watts : Nat) (excess : Bool),
    let P := s.part part
    let opens : Prop := s.dev.booted = true ∧ P.flrStep = 0
    let onPart (f : Part) (t : State) : Prop := (∀ j, t.part j = if j = part then f else s.part j) ∧ t.cores = s.cores ∧ t.dev = s.dev
      ∧ ∀ b, farByte t b = farByte s b
    let same (t : State) : Prop := t = s
    let q := sget .reset P.queues (i % 64)
    let onQueue (u : Queue) (t : State) : Prop := (∀ j, sget .reset (t.part part).queues j = if j = i % 64 then u else sget .reset P.queues j)
      ∧ onPart { P with queues := (t.part part).queues } t ∧ Posts s t s.now (.taskStart part)
    let holds (u : Queue) : Prop := u.tail.toNat % 2 ^ u.log2n.toNat ≠ u.head.toNat % 2 ^ u.log2n.toNat
    let n := (v.extractLsb' 8 5).toNat
    let u : Queue := { q with tail := v.setWidth 16, qbase := v.extractLsb' 32 32 }
    let others := ((List.range 4).filter (fun p => decide (p ≠ part))).foldl (fun m p => m + (s.part p).ibudget.toNat) 0
    let w : Event := .mgmtRegisterWrite none off 8 v
    let fn := sget .reset s.dev.funcs (vf % 16)
    let kept (k : Nat) : DWord := if k % 4 < 2 then (v.setWidth 57).setWidth 64 else if k % 4 = 2 then (v.setWidth 52).setWidth 64
      else (v.setWidth 3).setWidth 64
    (¬ opens → Happens s (.qctlWrite part i v) .qctlWrite same ∧ Happens s (.qptrWrite part i v) .qptrWrite same
      ∧ Happens s (.fqctlWrite part v) .fqctlWrite same ∧ Happens s (.tinv part) .tinv same
      ∧ Happens s (.ibudgetWrite part v) .ibudgetWrite same ∧ Happens s (.pfloorWrite part v) .pfloorWrite same)
    ∧ (opens →
      (q.en = true → v.getLsbD 0 = true → Happens s (.qctlWrite part i v) .qctlWrite same)
      ∧ (q.en = false ∨ v.getLsbD 0 = false → Happens s (.qctlWrite part i v) .qctlWrite (onQueue { q with
          en := v.getLsbD 0, prio := v.extractLsb' 1 3, log2n := v.extractLsb' 8 5
          qstop := v.getLsbD 0 && decide (n < 4 ∨ 16 < n) }))
      ∧ (holds u → ¬ holds q → Happens s (.qptrWrite part i v) .qptrWrite (onQueue { u with headAt := s.time }))
      ∧ (¬ holds u ∨ holds q → Happens s (.qptrWrite part i v) .qptrWrite (onQueue u)))
    ∧ (opens → Happens s (.fqctlWrite part v) .fqctlWrite (fun t =>
        let k := (v.extractLsb' 1 5).toNat
        onPart { P with fq := { P.fq with
          en := v.getLsbD 0 && decide (8 ≤ k ∧ k ≤ 20), log2n := v.extractLsb' 1 5, base := v.extractLsb' 12 45 } } t))
    ∧ (opens → P.tinv = true → Happens s (.tinv part) .tinv same)
    ∧ (opens → P.tinv = false → Happens s (.tinv part) .tinv (fun t => onPart { P with tinv := true } t
        ∧ ∃ at_, s.now < at_ ∧ Posts s t at_ (.tinvComplete part)))
    ∧ Happens s (.tinvComplete part) .tinvComplete (fun t => onPart { P with tinv := false } t
        ∧ ∀ c e, (e ∈ (t.col c).rangeC ↔ e ∈ (s.col c).rangeC ∧ e.part ≠ part) ∧ (e ∈ (t.col c).pageC ↔ e ∈ (s.col c).pageC ∧ e.part ≠ part))
    ∧ (opens → (12288 < others + (v.extractLsb' 0 14).toNat → Happens s (.ibudgetWrite part v) .ibudgetWrite same)
      ∧ (others + (v.extractLsb' 0 14).toNat ≤ 12288 → Happens s (.ibudgetWrite part v) .ibudgetWrite
          (onPart { P with ibudget := v.extractLsb' 0 14, budget := P.budget + (v.extractLsb' 0 14).toNat - P.ibudget.toNat })))
    ∧ (s.time < s.dev.nextRefill → Happens s .budgetRefill .budgetRefill (fun t =>
        t = s.post (s.now + s.nsTicks (s.dev.nextRefill - s.time)) .budgetRefill))
    ∧ (s.dev.nextRefill ≤ s.time → Happens s .budgetRefill .budgetRefill (fun t => t.cores = s.cores
        ∧ (∀ j, t.part j = if j < 4 then { s.part j with budget := (s.part j).ibudget.toNat } else s.part j)
        ∧ t.dev = { s.dev with nextRefill := s.dev.nextRefill + 86400000000000 }
        ∧ Posts s t (s.now + s.nsTicks 86400000000000) .budgetRefill))
    -- the beat, heat and power: each row answers a next state, whatever the registers hold
    ∧ (let p := s.dev.power
       let r := (v.extractLsb' 0 7).toNat
       let keepsCores (t : State) : Prop := t.cores = s.cores ∧ t.parts = s.parts ∧ ∀ b, farByte t b = farByte s b
       let rated (t : State) : Prop := t.cores = s.cores ∧ t.dev.mode = s.dev.mode ∧ ∀ b, farByte t b = farByte s b
       (s.event = some (.beatctlReqWrite v) → ∃ t, exec .beatctlReqWrite s = .next t ∧ keepsCores t ∧ t.dev.power.ceil = p.ceil
          ∧ t.dev.power.cur = p.cur ∧ t.dev.power.req = (if s.dev.booted = true ∧ 10 ≤ r ∧ r ≤ 80 then r else p.req))
       ∧ (s.event = some .beatctlRestore → ∃ t, exec .beatctlRestore s = .next t ∧ keepsCores t ∧ t.dev.power.req = p.req
          ∧ t.dev.power.ceil = (if s.dev.booted = true ∧ p.hot = false ∧ p.above = false then 80 else p.ceil))
       ∧ (s.event = some .beatChange → ∃ t, exec .beatChange s = .next t ∧ t.dev.power.cur = p.target ∧ t.dev.power.busy = false
          ∧ t.dev.power.req = p.req ∧ t.parts = s.parts ∧ t.now = s.now)
       ∧ (s.event = some (.sensorSample raws) → ∃ t, exec (.sensorSample) s = .next t ∧ keepsCores t ∧ t.dev.power.cur = p.cur
          ∧ t.dev.power.ceil = p.ceil ∧ t.dev.power.tlim = p.tlim)
       ∧ (s.event = some .selfThrottleStep → ∃ t, exec .selfThrottleStep s = .next t ∧ keepsCores t ∧ t.dev.power.cur = p.cur
          ∧ t.dev.power.ceil = (if p.hot then max 10 (p.ceil - 4) else p.ceil))
       ∧ (s.event = some (.hardLimitStep watts excess) → ∃ t, exec .hardLimitStep s = .next t ∧ keepsCores t ∧ t.dev.power.cur = p.cur
          ∧ t.dev.power.ceil = (if p.hlim.toNat < watts ∨ excess = true then max 10 (p.ceil - 4) else p.ceil))
       ∧ (s.event = some (.tctlWrite v) → ∃ t, exec .tctlWrite s = .next t ∧ keepsCores t ∧ t.dev.power.tmax = p.tmax
          ∧ t.dev.power.tlim = (if s.dev.booted = false then p.tlim else if p.tmax < v.setWidth 8 then p.tmax else v.setWidth 8))
       ∧ (s.event = some (.hlimWrite v) → ∃ t, exec .hlimWrite s = .next t ∧ keepsCores t
          ∧ t.dev.power.hlim = (if s.dev.booted = false then p.hlim else if p.strap < v.setWidth 12 then p.strap else v.setWidth 12))
       ∧ (s.event = some (.pcapWrite v) → ∃ t, exec .pcapWrite s = .next t ∧ rated t
          ∧ t.dev.power.cap = (if s.dev.booted = true then v.setWidth 12 else p.cap)
          ∧ t.dev.power.fscale = (if s.dev.booted = true then v.getLsbD 12 else p.fscale) ∧ ∀ j, (t.part j).floor = (s.part j).floor)
       ∧ (s.event = some (.pfloorWrite part v) → ∃ t, exec .pfloorWrite s = .next t ∧ rated t ∧ t.dev.power.cap = p.cap
          ∧ ∀ j, (t.part j).floor = (s.part j).floor ∨ (j = part ∧ (t.part j).floor = v.setWidth 12)))
    -- the report
    ∧ (P.flrStep ≠ 0 ∨ P.attest.busy = true → Happens s (.attestRequest part) .attestRequest same)
    ∧ (P.flrStep = 0 → P.attest.busy = false →
      (P.attest.addr.toNat % 64 ≠ 0 → Happens s (.attestRequest part) .attestRequest (onPart { P with attest := { P.attest with state := 3 } }))
      ∧ (P.attest.addr.toNat % 64 = 0 → Happens s (.attestRequest part) .attestRequest (fun t =>
          onPart { P with attest := { P.attest with busy := true, state := 1 } } t
          ∧ ∃ at_, s.now < at_ ∧ (s.nsTicks 99000000 ≠ 0 → at_ ≤ s.now + s.nsTicks 99000000) ∧ Posts s t at_ (.attestComplete part))))
    ∧ Happens s (.attestComplete part) .attestComplete (fun t =>
        (∀ j, t.part j = if j = part then { P with attest := { P.attest with busy := false, state := 2 } } else s.part j)
        ∧ t.cores = s.cores
        ∧ let at_ := Config.hostBase + P.attest.addr.toNat
          (∀ k, k < 4 → leNat ((List.range 8).map (fun b => farByte t (at_ + 8 * k + b))) = (sget 0 P.attest.nonce k).toNat)
          ∧ leNat ((List.range 48).map (fun b => farByte t (at_ + 0x20 + b))) = s.dev.fw.toNat
          ∧ leNat ((List.range 4).map (fun b => farByte t (at_ + 0x54 + b))) = (part + s.dev.mode.toNat * 4) % 2 ^ 32
          ∧ (∀ k, k < 16 → leNat ((List.range 48).map (fun b => farByte t (at_ + 0x60 + 48 * k + b))) = (P.launches.getD k 0).toNat)
          ∧ ∀ b, b < at_ ∨ at_ + 0x380 + 16608 ≤ b → farByte t b = farByte s b)
    -- the window by function, size and offset
    ∧ (size ≠ 8 → Happens s (.mgmtRegisterWrite who off size v) .mgmtRegisterWrite same)
    ∧ Happens s w .mgmtRegisterWrite (fun t => t = s.writeWindow off v)
    ∧ (fn.en = false ∨ 0x1000000 ≤ off → Happens s (.mgmtRegisterWrite (some vf) off 8 v) .mgmtRegisterWrite same)
    ∧ (fn.en = true → off < 0x1000000 → Happens s (.mgmtRegisterWrite (some vf) off 8 v) .mgmtRegisterWrite
        (fun t => t = s.writeWindow (0x1000000 * (fn.part.toNat + 1) + off) v))
    ∧ (off % 8 ≠ 0 → Happens s w .mgmtRegisterWrite same)
    ∧ (s.dev.booted = false → off < 0x1000000 → Happens s w .mgmtRegisterWrite same)
    ∧ (∀ r, part < 4 → off = 0x1000000 * (part + 1) + r → r < 0x1000000 →
      (P.flrStep ≠ 0 → Happens s w .mgmtRegisterWrite same)
      ∧ (∀ k, k < 4 → r = 0x4000 + 8 * k → P.flrStep = 0 → Happens s w .mgmtRegisterWrite
          (onPart { P with attest := { P.attest with nonce := sset 0 P.attest.nonce k v } }))
      ∧ (r = 0x4020 → P.flrStep = 0 → Happens s w .mgmtRegisterWrite (onPart { P with attest := { P.attest with addr := v } }))
      ∧ (∀ k, k < 256 → r = 0x1000 + 8 * k → opens → Happens s w .mgmtRegisterWrite (onPart { P with ranges := sset 0 P.ranges k (kept k) }))
      ∧ (r = 0x1800 → opens → Happens s w .mgmtRegisterWrite (onPart { P with ptroot := (v.setWidth 52 >>> 21 <<< 21).setWidth 64 }))
      ∧ (r = 0x1828 → opens → Happens s w .mgmtRegisterWrite (onPart { P with pgctl := v.setWidth 3 }))
      ∧ (0x4038 ≤ r → opens → Happens s w .mgmtRegisterWrite same))
    ∧ (s.dev.booted = true → off = 0x108 → Happens s w .mgmtRegisterWrite (fun t => t = s.writeTctl v))
    ∧ (s.dev.booted = true → ∀ k, k < 64 → off = 0x110100 + 8 * k → Happens s w .mgmtRegisterWrite (fun t =>
        t = { s with dev := { s.dev with fabric := { s.dev.fabric with keys := sset 0 s.dev.fabric.keys k ((v.setWidth 19).setWidth 64) } } }))
    ∧ (0x5000000 ≤ off → Happens s w .mgmtRegisterWrite same)

/-- Clock, heat and power (R273 to R275, R280 to R284): a new code is aimed at and takes effect at a beat boundary, never above CEIL;
sensors are voted; a hot column lowers CEIL step by step, a trip to 10; caps and floors are taken or refused. By the model's choice, and no
rule of the spec: an accepted PFLOOR sets EFFF of every partition and clears SCALED (log 38); one step of throttling stands for both of
R282's deadlines (log 17). -/
def Obligations.PowerSteps : Prop :=
  ∀ (s : State) (part : Nat) (v : DWord) (raws : List (BitVec 8)) (watts : Nat) (far : Bool),
    let p := s.dev.power
    let same (t : State) : Prop := t = s
    let rest (t : State) : State := { t with agenda := [], fresh := 0, dev := { t.dev with power := p } }
    let power (f : Power) (t : State) : Prop := t = { s with dev := { s.dev with power := f } }
    -- the change towards min(REQ, CEIL) of registers `f`, or to the code of a trip; `more` is another step put on the agenda
    let aims (f : Power) (more : Option Due) (t : State) : Prop :=
      let goal := if f.trip then 10 else min f.req f.ceil
      rest t = rest s ∧ (∀ d, more = some d → d ∈ t.agenda)
      ∧ (goal = (if f.busy then f.target else f.cur) → t.dev.power = f
          ∧ t.agenda = (match more with | some d => agendaInsert d s.agenda | none => s.agenda))
      ∧ (goal ≠ (if f.busy then f.target else f.cur) → t.dev.power = { f with busy := true, target := goal }
          ∧ ∃ u, ⟨u, .beatChange⟩ ∈ t.agenda ∧ (∀ e ∈ t.agenda, e.ev = .beatChange → e.at_ = u) ∧ s.now < u ∧ u % 120 = 0
            ∧ (goal ≤ f.cur → u ≤ s.now + 120) ∧ (120 ≤ s.nsTicks 20000 → u ≤ s.now + s.nsTicks 20000 + 120))
    -- what releases already fixed rest on is kept for the four beats before their own (R277)
    let keeps (t : State) : Prop := (t.budgetNow = s.budgetNow → t.dev.power.past = p.past)
      ∧ (t.budgetNow ≠ s.budgetNow → t.dev.power.past = p.past.filter (fun e => decide (s.now < e.1 + 480)) ++ [(s.now, s.budgetNow)])
    let hot : Prop := ∃ e ∈ p.sensors, p.tlim < e.2.extractLsb' 8 8
    let lower : Nat := max 10 (p.ceil - 4)
    let r := (v.extractLsb' 0 7).toNat
    let valid : Bool := decide (10 ≤ r ∧ r ≤ 80)
    let floors := (s.part 0).floor.toNat + (s.part 1).floor.toNat + (s.part 2).floor.toNat + (s.part 3).floor.toNat
    let cap := (v.extractLsb' 0 12).toNat
    let efff (f : Part → BitVec 12) (t : State) : Prop := t.cores = s.cores ∧ t.agenda = s.agenda
      ∧ ∀ j, t.part j = if j < 4 then { s.part j with efff := f (s.part j) } else s.part j
    (s.dev.booted = false → Happens s (.beatctlReqWrite v) .beatctlReqWrite same ∧ Happens s .beatctlRestore .beatctlRestore same
      ∧ Happens s (.tctlWrite v) .tctlWrite same ∧ Happens s (.pcapWrite v) .pcapWrite same
      ∧ Happens s (.hlimWrite v) .hlimWrite same)
    ∧ (s.dev.booted = true → Happens s (.beatctlReqWrite v) .beatctlReqWrite (fun t => keeps t ∧ aims { p with
        req := if valid then r else p.req, err := !valid || (p.err && !v.getLsbD 24), step := (v.extractLsb' 32 4).toNat
        past := t.dev.power.past } none t))
    ∧ (s.dev.booted = true → (hot ∨ p.above = true → Happens s .beatctlRestore .beatctlRestore same)
      ∧ (¬ hot → p.above = false → Happens s .beatctlRestore .beatctlRestore (aims { p with ceil := 80 } none)))
    ∧ Happens s .beatChange .beatChange (fun t => t.dev.power = { p with
            cur := p.target, busy := false, trip := false, ceil := if p.trip then 10 else p.ceil, past := t.dev.power.past } ∧ keeps t ∧ t.now = s.now
        ∧ t.wallNow = s.wallNow ∧ (∀ j b, nearByte t j b = nearByte s j b)
        ∧ (∀ k i, (s.ctx (k, i)).run = .ready ∨ (s.ctx (k, i)).run = .running → t.ctx (k, i) = s.ctx (k, i))
        ∧ ∀ e ∈ s.agenda, (Machine.Event.onTime e.ev = true →
            ⟨s.now + ceilDiv ((e.at_ - s.now) * tickUnits p.cur) (tickUnits p.target), e.ev⟩ ∈ t.agenda)
          ∧ (Machine.Event.onTime e.ev = false → (∀ k i, e.ev ≠ .sleepExpiry k i ∧ e.ev ≠ .twaitExpiry k i) → e ∈ t.agenda))
    ∧ Happens s (.sensorSample raws) .sensorSample (fun t =>
        (∀ i, i < 1024 → let old := sget 0 s.dev.power.sensors i
          let x := sget 0 t.dev.power.sensors i
          -- a reading that the sample does not bring is free
          x.setWidth 8 = raws.getD i (Config.freeReading s.fresh i) ∧ (old.getLsbD 16 = true → x.getLsbD 16 = true)
          ∧ (x.getLsbD 16 = false → x.extractLsb' 8 8 = x.setWidth 8))
        -- a trip takes effect at the next beat boundary (R282)
        ∧ t.dev.power.ceil = p.ceil
        ∧ ((∃ e ∈ t.dev.power.sensors, 110 ≤ (e.2.extractLsb' 8 8).toNat) → p.ceil ≠ 10 → t.dev.power.trip = true
            ∧ t.dev.power.target = 10 ∧ ⟨(s.beat + 1) * 120, .beatChange⟩ ∈ t.agenda
            ∧ ∀ e ∈ t.agenda, e.ev = .beatChange → e.at_ = (s.beat + 1) * 120)
        ∧ ((∀ e ∈ t.dev.power.sensors, (e.2.extractLsb' 8 8).toNat < 110) → t.dev.power.trip = p.trip)
        -- the next sample follows in 32 µs (R281)
        ∧ ((∀ e ∈ s.agenda, e.at_ ≤ s.now + s.nsTicks 32000 → ∀ l, e.ev ≠ .sensorSample l) → ⟨s.now + s.nsTicks 32000, .sensorSample []⟩ ∈ t.agenda)
        -- THERM goes out at once, and its step of self-throttling follows in 500 µs
        ∧ (∀ col tier, col < 64 → tier < 4 → sget 0 p.therm (4 * col + tier) = 0 → p.tlim.toNat < t.dev.power.temp col tier →
            sget 0 t.dev.power.therm (4 * col + tier) ≠ 0
            ∧ (∃ sensor, ⟨s.now, .thermDelivery (partOfQuad s.dev.mode (col / 16)) col sensor⟩ ∈ t.agenda)
            ∧ ⟨s.now + s.nsTicks 500000, .selfThrottleStep⟩ ∈ t.agenda)
        ∧ t.cores = s.cores)
    ∧ (¬ hot → Happens s .selfThrottleStep .selfThrottleStep same)
    ∧ (hot → (∀ e ∈ s.agenda, e.ev = .selfThrottleStep → s.now + s.nsTicks 100000 < e.at_) →
        Happens s .selfThrottleStep .selfThrottleStep
          (aims { p with ceil := lower } (some ⟨s.now + s.nsTicks 100000, .selfThrottleStep⟩)))
    ∧ (hot → (∃ e ∈ s.agenda, e.ev = .selfThrottleStep ∧ e.at_ ≤ s.now + s.nsTicks 100000) →
        Happens s .selfThrottleStep .selfThrottleStep (aims { p with ceil := lower } none))
    ∧ (p.hlim.toNat < watts ∨ far = true → (∀ e ∈ s.agenda, e.at_ ≤ s.now + s.nsTicks 10000 → ∀ a b, e.ev ≠ .hardLimitStep a b) →
        Happens s (.hardLimitStep watts far) .hardLimitStep (aims { p with above := true, ceil := lower }
          (some ⟨s.now + s.nsTicks 10000, .hardLimitStep (Config.freeWatts s.fresh) (Config.freeDomain s.fresh)⟩)))
    ∧ (p.hlim.toNat < watts ∨ far = true → (∃ e ∈ s.agenda, e.at_ ≤ s.now + s.nsTicks 10000 ∧ ∃ a b, e.ev = .hardLimitStep a b) →
        Happens s (.hardLimitStep watts far) .hardLimitStep (aims { p with above := true, ceil := lower } none))
    ∧ (watts ≤ p.hlim.toNat → far = false → Happens s (.hardLimitStep watts far) .hardLimitStep (power { p with above := false }))
    ∧ (s.dev.booted = true → Happens s (.tctlWrite v) .tctlWrite
        (power { p with tlim := if p.tmax < v.setWidth 8 then p.tmax else v.setWidth 8 }))
    ∧ (s.dev.booted = true → Happens s (.hlimWrite v) .hlimWrite
        (power { p with hlim := if p.strap < v.setWidth 12 then p.strap else v.setWidth 12 }))
    -- PCAP: stat 1 below the idle floor, 2 below the sum of the floors without FSCALE, else in force
    ∧ (s.dev.booted = true →
      let f : Power := { p with cap := v.setWidth 12, fscale := v.getLsbD 12 }
      (cap < Config.idleFloor → Happens s (.pcapWrite v) .pcapWrite (power { f with stat := 1 }))
      ∧ (Config.idleFloor ≤ cap → cap < floors → v.getLsbD 12 = false → Happens s (.pcapWrite v) .pcapWrite (power { f with stat := 2 }))
      ∧ (Config.idleFloor ≤ cap → floors ≤ cap → Happens s (.pcapWrite v) .pcapWrite (fun t =>
          t.dev.power = { f with
            stat := 0, eff := if p.hlim < v.setWidth 12 then p.hlim else v.setWidth 12, scaled := false, past := t.dev.power.past }
          ∧ keeps t ∧ efff (·.floor) t))
      ∧ (Config.idleFloor ≤ cap → cap < floors → v.getLsbD 12 = true → Happens s (.pcapWrite v) .pcapWrite (fun t =>
          t.dev.power = { f with
            stat := 0, eff := if p.hlim < v.setWidth 12 then p.hlim else v.setWidth 12, scaled := true, past := t.dev.power.past }
          ∧ keeps t ∧ efff (fun q => BitVec.ofNat 12 (q.floor.toNat * cap / floors)) t)))
    ∧ (s.dev.booted = true → part < 4 → (s.part part).flrStep = 0 →
      let sum := floors - (s.part part).floor.toNat + cap
      (p.eff.toNat < sum → Happens s (.pfloorWrite part v) .pfloorWrite (power { p with stat := 2 }))
      ∧ (sum ≤ p.eff.toNat → Happens s (.pfloorWrite part v) .pfloorWrite (fun t =>
          t.dev.power = { p with scaled := false, past := t.dev.power.past } ∧ keeps t ∧ t.cores = s.cores ∧ t.agenda = s.agenda ∧ ∀ j, t.part j =
            let g := if j = part then v.setWidth 12 else (s.part j).floor
            if j < 4 then { s.part j with floor := g, efff := g } else s.part j)))

/-- The fabric (R271, R288 to R297, R299): the bank that is not in force takes an entry; the banks swap; flits are counted, held, sent
on, by the port with the most free credits in class 2, or served; a bad flit is answered and leaves no hole in its flow; what a marker
shows as lost completes its request, and the source of a request without a port is told; links, ports and notices change their port, and
notices go on once. By the model's choice, and no rule of the spec: what a response's payload is, one byte of TSTAT or the five bytes that
name a lost request, and that a flit's FSEQ lies behind or ahead by the half of its range (log 14); that a flit that fails its CRC keeps
its place and is answered, and that a lost response ends the oldest request to its source (log 39). -/
def Obligations.FabricSteps : Prop :=
  ∀ (s : State) (bank dest : Nat) (v : Word) (p : Nat) (x : Flit) (cls : BitVec 2) (src : BitVec 13) (fseq : BitVec 10)
    (n : Notice) (stopped : Bool) (part : Nat) (r : PeerReq) (m : Flit) (u : State) (ring : Ring),
    let fb := s.dev.fabric
    let rest (t : State) : State := { t with dev := { t.dev with fabric := { t.dev.fabric with ports := [] } } }
    let ports (f : Nat → Port) (t : State) : Prop := (∀ j, t.port j = f j) ∧ rest t = rest s
    let onPort (p : Nat) (q : Port) : State → Prop := ports (fun j => if j = p then q else s.port j)
    let go (q : Port) : Port := if q.stopped ∨ q.train then q
      else { q with sent := q.sent ++ q.queued.map (·.2), used := q.used + q.queued.length, queued := [] }
    -- flits that wait at the port are this device's own
    let own : Prop := ∀ e ∈ (s.port p).queued, e.1 = 16
    -- a flit of this device put on a port that carries traffic
    let given (f : Flit) (q : Port) : Port := if q.up = false then q
      else if q.stopped ∨ q.train then { q with queued := q.queued ++ [(16, f)] } else { q with sent := q.sent ++ [f], used := q.used + 1 }
    let clear (j : Nat) : Prop := (s.port j).up = true ∧ (s.port j).stopped = false ∧ (s.port j).train = false
    let lists (i : Nat) : Prop := (sget 0 fb.keys i).getLsbD 18 = true ∧ (sget 0 fb.keys i).extractLsb' 0 16 = x.pkey
    let known : Prop := x.pkey ≠ 0 ∧ ∃ i, i < 64 ∧ lists i
    let passes : Prop := if x.pkey = 0xFFFF then x.typ = 6 else known
    let flows (c : BitVec 2) (d : BitVec 13) (f : RxFlow) (t : State) : Prop :=
      ∀ j, t.dev.fabric.flow j = if j = flowKey c d then f else fb.flow j
    let w := fb.flow (flowKey x.cls x.src)
    let fr : Event := .flitReceive p x
    (s.dev.booted = false → Happens s (.routingEntryWrite bank dest v) .routingEntryWrite (fun t => t = s)
      ∧ Happens s .swap .swap (fun t => t = s) ∧ Happens s (.pstatClr p) .pstatClr (fun t => t = s))
    ∧ (s.dev.booted = true → Happens s (.routingEntryWrite bank dest v) .routingEntryWrite (fun t =>
        (∀ b d, t.dev.fabric.route b d =
          if b ≠ fb.act ∧ b = (bank % 2 == 1) ∧ d = dest % 8192 then (v.setWidth 20).setWidth 32 else fb.route b d)
        ∧ { t with dev := { t.dev with fabric := { t.dev.fabric with bank0 := [], bank1 := [] } } }
          = { s with dev := { s.dev with fabric := { fb with bank0 := [], bank1 := [] } } }))
    ∧ (s.dev.booted = true → fb.pend = true → Happens s .swap .swap (fun t => t = s))
    ∧ (s.dev.booted = true → fb.pend = false → Happens s .swap .swap (fun t => t.dev.fabric = { fb with pend := true } ∧ t.cores = s.cores
        ∧ ∃ u, s.now < u ∧ Posts s t u .routeBankSwap))
    ∧ Happens s .routeBankSwap .routeBankSwap
        (fun t => t = { s with dev := { s.dev with fabric := { fb with act := !fb.act, pend := false } } })
    ∧ (s.dev.booted = true → Happens s (.pstatClr p) .pstatClr
        (onPort (p % 16) { s.port (p % 16) with keydrop := 0, routedrop := 0, crcdrop := 0 }))
    -- FLIT_RECEIVE
    ∧ (¬ passes → p < 16 → Happens s fr .flitReceive (onPort p { s.port p with keydrop := satInc (s.port p).keydrop }))
    ∧ (passes → x.typ = 0 ∨ 7 < x.typ.toNat → p < 16 →
        Happens s fr .flitReceive (onPort p { s.port p with routedrop := satInc (s.port p).routedrop }))
    ∧ (passes → x.typ ≠ 0 → x.typ.toNat ≤ 7 → x.typ ≠ 6 → x.dest ≠ fb.myid →
        let e := fb.route fb.act x.dest.toNat
        let dp := (e.extractLsb' 16 4).toNat
        -- in an ordered class by DPORT; where the flow moves to another port, a drain marker goes first (R293, R294)
        (x.cls ≠ 2 → e.getLsbD dp = true → clear dp →
          let last := sget 0 fb.moved (pathKey x)
          let out := if x.cls = 3 ∨ last = 0 ∨ last = dp + 1 ∨ x.typ = 7 then [x] else [{ x with typ := 7, payload := [], pa := 0 }, x]
          Happens s fr .flitReceive (fun t => (∀ j, t.port j = if j = dp then
              { s.port dp with sent := (s.port dp).sent ++ out, used := (s.port dp).used + out.length } else s.port j)
            ∧ (∀ y, sget 0 t.dev.fabric.moved y = if x.cls ≠ 3 ∧ y = pathKey x then dp + 1 else sget 0 fb.moved y)
            ∧ t.cores = s.cores ∧ t.agenda = s.agenda))
        -- in class 2 by the port with the most free output credits, the lowest number on a tie (R293)
        ∧ (x.cls = 2 → (∃ j, j < 16 ∧ e.getLsbD j = true ∧ clear j) → (∀ j, j < 16 → e.getLsbD j = true → (s.port j).up = true → clear j) →
          Happens s fr .flitReceive (fun t => ∃ j, j < 16 ∧ e.getLsbD j = true ∧ clear j ∧ (t.port j).sent = (s.port j).sent ++ [x]
            ∧ (∀ i, i ≠ j → (t.port i).sent = (s.port i).sent)
            ∧ ∀ i, i < 16 → i ≠ j → e.getLsbD i = true → clear i →
                (t.port j).used ≤ (t.port i).used + 1 ∧ (i < j → (t.port j).used ≤ (t.port i).used)))
        -- without a usable port it is dropped and counted, and a request's source is told with TSTAT 0x07 (R291)
        ∧ ((∀ j, j < 16 → e.getLsbD j = true → (s.port j).up = false) →
          (x.typ ≠ 1 → x.typ ≠ 2 → x.typ ≠ 4 →
            Happens s fr .flitReceive (onPort dp { s.port dp with routedrop := satInc (s.port dp).routedrop }))
          ∧ (x.typ = 1 ∨ x.typ = 2 ∨ x.typ = 4 → Happens s fr .flitReceive (fun t =>
              t = (s.modPort dp (fun q => { q with routedrop := satInc q.routedrop })).refuseLost x))))
    -- such an answer, five bytes long, ends the request that it names with TSTAT 0x07 (R291, R294)
    ∧ (known → x.pkey ≠ 0xFFFF → x.typ = 3 → x.cls = 2 → x.dest = fb.myid → x.crcOk = true → x.payload.length = 5 → fb.reqs = [r] →
        r.cls = 2 → r.pa = x.pa → r.dest.toNat = leNat (x.payload.drop 3) →
        Happens s fr .flitReceive (fun t => t.dev.fabric.reqs = [] ∧ t.dev.fabric.answers = fb.answers ++ [⟨r.ev, r.va, [], 0x07⟩]
          ∧ Posts s t (s.now + 1) r.ev))
    -- a notice that comes as a flit is recorded and goes on like one (R296)
    ∧ (passes → x.typ = 6 → x.crcOk = false → p < 16 →
        Happens s fr .flitReceive (onPort p { s.port p with crcdrop := satInc (s.port p).crcdrop }))
    ∧ (passes → x.typ = 6 → x.crcOk = true → x.payload = noticeBytes n → (n.dev, n.nseq) ∉ fb.seen → (∀ i, i < 4 → (s.part i).nt.en = false) →
        Happens s fr .flitReceive (fun t => t.dev.fabric.seen = (n.dev, n.nseq) :: fb.seen ∧ t.cores = s.cores
          ∧ ∀ j, t.port j = if 16 ≤ j ∨ j = p then s.port j else given ⟨0, n.dev, 3, 6, 0xFFFF, 0, 0, 0, noticeBytes n, true⟩ (s.port j)))
    -- a flit that fails its CRC is counted; it holds its place in its flow and is answered with TSTAT 0x06 (R290)
    ∧ (passes → x.typ ≠ 0 → x.typ.toNat ≤ 7 → x.dest = fb.myid → x.crcOk = false → p < 16 →
        let counted := s.modPort p (fun q => { q with crcdrop := satInc q.crcdrop })
        (x.typ = 7 → Happens s fr .flitReceive (onPort p { s.port p with crcdrop := satInc (s.port p).crcdrop }))
        ∧ (x.typ ≠ 3 → x.typ ≠ 6 → x.typ ≠ 7 → x.cls = 2 → x.pkey ≠ 0 → x.pkey ≠ 0xFFFF →
            Happens s fr .flitReceive (fun t => t = counted.respond x [0x06]))
        ∧ (x.typ ≠ 3 → x.typ ≠ 6 → x.typ ≠ 7 → x.cls = 0 → w.held = [] → x.fseq = w.next → x.pkey ≠ 0 → x.pkey ≠ 0xFFFF →
            Happens s fr .flitReceive (fun t => flows x.cls x.src { w with next := w.next + 1 } t
              ∧ (t.port p).crcdrop = satInc (s.port p).crcdrop)))
    ∧ (passes → x.typ ≠ 0 → x.typ.toNat ≤ 7 → x.typ ≠ 6 → x.dest = fb.myid → x.crcOk = true →
        (x.typ = 7 → Happens s fr .flitReceive (fun t => t = s.post s.now (.drainMarker x)))
        ∧ (x.typ ≠ 7 → x.cls.toNat < 2 → (∀ y ∈ w.held, y.fseq ≠ w.next) → x.fseq ≠ w.next → (x.fseq - w.next).toNat < 512 →
          Happens s fr .flitReceive (fun t => flows x.cls x.src { w with held := w.held ++ [x] } t ∧ t.cores = s.cores
            ∧ (∀ b, farByte t b = farByte s b) ∧ t.agenda = s.agenda))
        ∧ (x.typ = 1 → x.cls = 2 → x.pkey ≠ 0 →
            (∃ i, i < 64 ∧ lists i ∧ (∀ j, j < i → ¬ lists j) ∧ part = ((sget 0 fb.keys i).extractLsb' 16 2).toNat) →
            s.dev.place x.pa = .hbm → (s.part part).passes x.pa true = true →
          Happens s fr .flitReceive (fun t => t.cores = s.cores ∧ ∀ b, farByte t b =
            if x.pa ≤ b ∧ b < x.pa + x.payload.length then x.payload.getD (b - x.pa) 0 else farByte s b)))
    -- DRAIN_MARKER, FLOW_LOSS_TIMEOUT
    ∧ Happens s (.drainMarker x) .drainMarker (fun t => flows x.cls x.src { w with markers := w.markers ++ [x] } t ∧ t.cores = s.cores
        ∧ Posts s t (s.now + s.nsTicks 20000) (.flowLossTimeout x.cls x.src x.fseq))
    ∧ (let w := fb.flow (flowKey cls src)
       let ev : Event := .flowLossTimeout cls src fseq
       ((∀ y ∈ w.markers, y.fseq ≠ fseq) → Happens s ev .flowLossTimeout (fun t => t = s))
       ∧ (w.markers = [m] → m.fseq = fseq → w.held = [] → (fseq - w.next).toNat < 512 → cls ≠ 0 → cls ≠ 1 →
          Happens s ev .flowLossTimeout (fun t => flows cls src ⟨fseq, [], []⟩ t ∧ t.agenda = s.agenda ∧ t.dev.fabric.reqs = fb.reqs))
       -- of a lost request the source is told, under the key of the marker
       ∧ (w.markers = [m] → m.fseq = fseq → w.held = [] → fseq = w.next + 1 → cls = 0 →
          Happens s ev .flowLossTimeout (fun t => ∃ v, t = v.refuseLost { m with fseq := w.next, dest := fb.myid }
            ∧ flows cls src ⟨fseq, [], []⟩ v ∧ v.agenda = s.agenda ∧ v.cores = s.cores))
       ∧ (w.markers = [m] → m.fseq = fseq → w.held = [] → fseq = w.next + 1 → cls = 1 → fb.reqs = [r] → r.dest = src → r.cls = 0 →
          Happens s ev .flowLossTimeout (fun t => flows cls src ⟨fseq, [], []⟩ t ∧ t.dev.fabric.reqs = []
            ∧ t.dev.fabric.answers = fb.answers ++ [⟨r.ev, r.va, [], 0x07⟩] ∧ Posts s t (s.now + 1) r.ev)))
    -- links and ports
    ∧ (let quiet : Prop := (∀ j, j ≠ p → (s.port j).up = false) ∧ (∀ i, i < 4 → (s.part i).nt.en = false) ∧ fb.reqs = []
          ∧ fb.answers = [] ∧ (∀ e ∈ s.agenda, ∀ j m, e.ev ≠ .noticeReceive j m) ∧ (fb.myid, fb.nseq) ∉ fb.seen
       let told (q : Port) (t : State) : Prop := t.port p = q ∧ (∀ j, j ≠ p → t.port j = s.port j)
          ∧ { t.dev.fabric with ports := [] } = { fb with ports := [], nseq := fb.nseq + 1, seen := (fb.myid, fb.nseq) :: fb.seen }
          ∧ t.cores = s.cores ∧ t.agenda = s.agenda
       let note (c : LinkChange) : Port → Port :=
          given ⟨0, fb.myid, 3, 6, 0xFFFF, 0, 0, 0, noticeBytes ⟨fb.myid, BitVec.ofNat 4 p, c, fb.nseq, BitVec.ofNat 64 s.beat⟩, true⟩
       p < 16 → quiet →
        Happens s (.linkEvent p .down) .linkEvent (told { s.port p with up := false, train := false })
        ∧ Happens s (.linkEvent p .back) .linkEvent (told (note .back { s.port p with half := false }))
        ∧ (own → Happens s (.retrainComplete p) .retrainComplete (told (note .shed (go { s.port p with train := false, half := true })))))
    ∧ Happens s (.linkEvent p .shed) .linkEvent (fun t => (∀ j, t.port j = if j = p then { s.port p with train := true } else s.port j)
        ∧ ∃ u, s.now < u ∧ (s.nsTicks 1500 ≠ 0 → u ≤ s.now + s.nsTicks 1500) ∧ Posts s t u (.retrainComplete p))
    ∧ (own → Happens s (.flowControlSignal p stopped) .flowControlSignal (onPort p (go { s.port p with stopped := stopped })))
    ∧ (own → Happens s (.portTrainingComplete p) .portTrainingComplete (onPort p (go { s.port p with up := true, train := false })))
    -- a transit flit that leaves frees a place in the buffer of the port by which it came, which signals by its filling (R297)
    ∧ (∀ j, j < 16 → j ≠ p → (s.port p).queued = [(j, x)] → (s.port p).train = false →
        Happens s (.flowControlSignal p false) .flowControlSignal (fun t => (t.port p).sent = (s.port p).sent ++ [x] ∧ (t.port p).queued = []
          ∧ (t.port j).buffered = (s.port j).buffered - 1
          ∧ (t.port j).signals = if 3 * Config.freeRxBuffer < 4 * ((s.port j).buffered - 1) then true
            else if 4 * ((s.port j).buffered - 1) < Config.freeRxBuffer then false else (s.port j).signals))
    -- a notice whose ring a peer holds is written there by a request of its own step, one behind another (R296)
    ∧ (p < 4 → (s.part p).nt.en = true → let ev : Event := .noticeReceive (17 + p) n
      (s.ringBusy p n = true → Happens s ev .noticeReceive (fun t => t = s.post (s.now + 120) ev))
      ∧ (s.ringBusy p n = false → s.ringWrite p (s.homeCol p) (s.part p).nt (noticeBytes n) 0 ev = (none, u) →
          Happens s ev .noticeReceive (fun t => t = u))
      ∧ (s.ringBusy p n = false → s.ringWrite p (s.homeCol p) (s.part p).nt (noticeBytes n) 0 ev = (some ring, u) →
          Happens s ev .noticeReceive (fun t => (t.part p).nt = ring ∧ ∀ b, farByte t b = farByte u b)))
    ∧ (p < 17 → (n.dev, n.nseq) ∈ fb.seen → Happens s (.noticeReceive p n) .noticeReceive (fun t => t = s))
    ∧ (p < 17 → (n.dev, n.nseq) ∉ fb.seen → (∀ i, i < 4 → (s.part i).nt.en = false) →
      Happens s (.noticeReceive p n) .noticeReceive (fun t => t.dev.fabric.seen = (n.dev, n.nseq) :: fb.seen ∧ t.cores = s.cores
        ∧ ∀ j, t.port j = if 16 ≤ j ∨ j = p then s.port j else given ⟨0, n.dev, 3, 6, 0xFFFF, 0, 0, 0, noticeBytes n, true⟩ (s.port j)))

/-- Resets and partitions (R136, R178, R271, R272, R286, R299, R308, R309, R423): power-on, the reset of a function in its steps, MODE
and bindings. By the model's choice, and no rule of the spec: a change of MODE acts at once (log 41), and a MODE write during BUSY sets ERR
(log 62); single-bit errors stay and are counted as they are read, and where an adder's flip strikes (log 42); an instruction store is not
scrubbed (log 40). -/
def Obligations.ResetAndPartitionSteps : Prop :=
  ∀ (s : State) (fw : Firmware) (vf part : Nat) (v : DWord),
    let f := sget .reset s.dev.funcs vf
    let funcs (g : Nat → Func) (t : State) : Prop := ∀ j, sget .reset t.dev.funcs j = g j
    -- steps 4 and 5 of a partition's reset
    let scrubbed (p : Nat) (t : State) : Prop :=
      (∀ k, s.hasCore p k = true → (∀ i, t.ctx (k, i) = Ctx.reset) ∧ (∀ b, nearByte t k b = 0) ∧ (t.core k).store = (s.core k).store)
      ∧ (∀ l, s.hasCol p (lineColumn l) = true → t.line l = EvLine.reset)
    let unmapped (p : Nat) (t : State) : Prop := (t.part p).ranges = [] ∧ (t.part p).ptroot = 0 ∧ (t.part p).groups = [] ∧ (t.part p).fq.en = false
    let goesOn (most : Nat) (ev : Event) (t : State) : Prop := ∃ u, s.now < u ∧ (s.nsTicks most ≠ 0 → u ≤ s.now + s.nsTicks most) ∧ ⟨u, ev⟩ ∈ t.agenda
    let P := s.part part
    let drains : Event := .flrDrainDone part
    Happens s (.powerOn fw) .powerOn (fun t => t.dev.booted = (fw.rsaOk && fw.slhOk && fw.versionOk) ∧ t.dev.fw = fw.digest
      -- the staging reservation is 16 to 128 GiB in steps of 16 (R191)
      ∧ t.dev.staging = 16 * (fw.staging.toNat + 1)
      ∧ t.dev.flash = s.dev.flash ∧ t.cores = [] ∧ t.parts = [] ∧ t.lines = [] ∧ t.dev.power = Power.reset ∧ t.dev.fabric = Fabric.reset
      ∧ ∀ b, farByte t b = if Config.flashBase ≤ b ∧ b < Config.flashEnd then farByte s b else 0)
    ∧ (f.en = false → Happens s (.initiateFlr (some vf)) .initiateFlr (fun t =>
        funcs (fun j => if j = vf then { f with flrst := ⟨6, true, 0⟩ } else sget .reset s.dev.funcs j) t
        ∧ { t with dev := { t.dev with funcs := [] } } = { s with dev := { s.dev with funcs := [] } }))
    ∧ (f.en = true → f.part.toNat = part →
      ((s.part part).flrStep ≠ 0 → Happens s (.initiateFlr (some vf)) .initiateFlr (fun t =>
        funcs (fun j => if j = vf then { f with joined := some f.part } else sget .reset s.dev.funcs j) t
        ∧ { t with dev := { t.dev with funcs := [] } } = { s with dev := { s.dev with funcs := [] } }))
      -- step 1: the queues are disabled
      ∧ ((s.part part).flrStep = 0 → Happens s (.initiateFlr (some vf)) .initiateFlr (fun t =>
        funcs (fun j => if j = vf then { f with joined := some f.part } else sget .reset s.dev.funcs j) t
        ∧ (t.part part).flrStep = 1 ∧ (∀ i, i < 64 → ((t.part part).queue i).en = false) ∧ t.cores = s.cores
        ∧ goesOn 1000 drains t)))
    -- step 2: the partition stops; step 3: it drains
    ∧ (P.flrStep = 1 → s.gaf.tasks = [] → s.dev.flash = [] → Happens s drains .flrDrainDone (fun t => (t.part part).flrStep = 2
        ∧ (∀ k, s.hasCore part k = true → ∀ i, i < 4 → (t.ctx (k, i)).run = .halted)
        ∧ (∀ k, s.hasCore part k = false → t.core k = s.core k) ∧ goesOn 9000 drains t))
    ∧ (P.flrStep = 2 → Happens s drains .flrDrainDone (fun t => (t.part part).flrStep = 3 ∧ t.cores = s.cores ∧ goesOn 990000 drains t))
    ∧ ((∀ i, i < 4 → (s.part i).flrStep ≠ 0) → Happens s (.initiateFlr none) .initiateFlr (funcs (fun j =>
        if j < 16 then { sget .reset s.dev.funcs j with joined := some (sget .reset s.dev.funcs j).part } else sget .reset s.dev.funcs j)))
    -- step 4: what is on the device completes, requests to peers are abandoned, the epoch advances, the scrub runs
    ∧ (P.flrStep = 3 → swf .reset s.cores = true → part < 4 → (∀ e ∈ s.agenda, (∀ k c n va d ep, e.ev ≠ .stxComplete k c n va d ep)
          ∧ (∀ r, e.ev ≠ .deviceAtomicReply r) ∧ (∀ a b c d x y, e.ev ≠ .objectReply a b c d x y) ∧ ∀ c j, e.ev ≠ .engineStampWrite c j) →
        Happens s drains .flrDrainDone (fun t => scrubbed part t ∧ (t.part part).flrStep = 4 ∧ (t.part part).epoch = P.epoch + 1
          ∧ (∀ k, s.hasCore part k = false → t.core k = s.core k) ∧ (∀ b, farByte t b = farByte s b)
          ∧ (∀ r ∈ t.dev.fabric.reqs, r.part ≠ part) ∧ goesOn 2000000 (.flrComplete part) t))
    ∧ (∀ at_ k c n va d u, P.flrStep = 3 → s.agenda = [⟨at_, .stxComplete k c n va d P.epoch⟩] → s.hasCore part k = true →
        s.farWrite part (columnOf k) va.toNat (lineBytes d) 0 (.stxComplete k c n va d P.epoch) = (.ok (), u) →
        Happens s drains .flrDrainDone (fun t => ∀ b, farByte t b = farByte u b))
    ∧ (∀ at_ r u, P.flrStep = 3 → s.agenda = [⟨at_, .deviceAtomicReply r⟩] → s.hasCore part r.core = true →
        exec .deviceAtomicReply { s with event := some (.deviceAtomicReply r) } = .next u →
        Happens s drains .flrDrainDone (fun t => ∀ b, farByte t b = farByte u b))
    -- step 5: translation; step 6: done
    ∧ (P.flrStep = 4 → Happens s (.flrComplete part) .flrComplete (fun t => (t.part part).flrStep = 5 ∧ unmapped part t ∧ t.cores = s.cores
        ∧ goesOn 2000000 (.flrComplete part) t))
    ∧ (P.flrStep ≠ 4 → Happens s (.flrComplete part) .flrComplete (fun t => (t.part part).flrStep = 0 ∧ t.cores = s.cores ∧ t.agenda = s.agenda
        ∧ funcs (fun j => let g := sget .reset s.dev.funcs j
          if j < 16 ∧ g.joined.map BitVec.toNat = some part then
            { g with joined := none, flrst := ⟨6, true, if g.en = true then (s.part part).epoch else 0⟩ } else g) t))
    -- PARTCFG, VFBIND
    ∧ (s.dev.booted = false → Happens s (.partcfgWrite v) .partcfgWrite (fun t => t = s)
      ∧ Happens s (.vfbindWrite vf v) .vfbindWrite (fun t => t = s))
    ∧ (s.dev.booted = true →
      let m : BitVec 2 := v.setWidth 2
      let err := s.dev.err && !v.getLsbD 3
      let idle := ∀ p, p < 4 → ∀ q ∈ (s.part p).queues, q.2.en = false
      (m = s.dev.mode → Happens s (.partcfgWrite v) .partcfgWrite (fun t => t = { s with dev := { s.dev with err := err } }))
      ∧ (m ≠ s.dev.mode → m = 3 ∨ ¬ idle ∨ s.dev.busy = true →
          Happens s (.partcfgWrite v) .partcfgWrite (fun t => t = { s with dev := { s.dev with err := true } }))
      ∧ (m ≠ s.dev.mode → m ≠ 3 → idle → s.dev.busy = false → swf .reset s.cores = true → Happens s (.partcfgWrite v) .partcfgWrite (fun t =>
          t.dev.mode = m ∧ t.dev.busy = true ∧ t.dev.err = err
          ∧ (∀ p, p < 4 → scrubbed p t ∧ unmapped p t ∧ (t.part p).epoch = (s.part p).epoch + 1)
          ∧ ∃ u, s.now < u ∧ ⟨u, .partcfgChangeComplete⟩ ∈ t.agenda)))
    ∧ Happens s .partcfgChangeComplete .partcfgChangeComplete (fun t => t = { s with dev := { s.dev with busy := false } })
    ∧ (s.dev.booted = true → vf < 16 →
      (f.en = true → (s.part f.part.toNat).flrStep ≠ 0 → Happens s (.vfbindWrite vf v) .vfbindWrite (fun t => t = s))
      ∧ (f.en = false ∨ (s.part f.part.toNat).flrStep = 0 →
        (f.bme = true → Happens s (.vfbindWrite vf v) .vfbindWrite (fun t => t = { s with dev := { s.dev with err := true } }))
        ∧ (f.bme = false → Happens s (.vfbindWrite vf v) .vfbindWrite (fun t =>
          funcs (fun j => if j = vf then { f with part := v.setWidth 2, en := v.getLsbD 2 } else sget .reset s.dev.funcs j) t
          ∧ { t with dev := { t.dev with funcs := [] } } = { s with dev := { s.dev with funcs := [] } }))))
    -- SOFT_ERROR
    ∧ (∀ (target : SoftTarget) (bits : Word), let n := ((List.range 32).filter (fun i => bits.getLsbD i)).length
      let ev : Event := .softError target bits
      let counted (k : Nat) (t : State) : Prop := t.cores = s.cores
        ∧ ∀ j, t.col j = if j = columnOf k then { s.col j with corrected := (s.col j).corrected + 1 } else s.col j
      (n = 0 → Happens s ev .softError (fun t => t = s))
      ∧ (∀ k a, target = .buffer k a → n = 1 → Happens s ev .softError (counted k))
      -- a single flip stays until the word is read and corrected; a second makes the word uncorrectable (R178)
      ∧ (∀ k a, target = .near k a → 0 < n → Happens s ev .softError (fun t => t.cols = s.cols ∧ (∀ j b, nearByte t j b = nearByte s j b)
          ∧ ∀ j w, sget 0 (t.core j).poison w = let old := sget 0 (s.core j).poison w
            if j = k ∧ w = a / 4 then (if old = 0 ∧ n = 1 then 2 else if old = 3 then 3 else 1) else old))
      ∧ (∀ k i, target = .store k i → 0 < n → Happens s ev .softError (fun t => t.cols = s.cols
          ∧ ∀ j w, sget (0, false) (t.core j).store w = let old := sget (0, false) (s.core j).store w
            if j = k ∧ w = i then (old.1 ^^^ bits, old.2) else old))
      ∧ (∀ pa, target = .far pa → 0 < n → Happens s ev .softError (fun t => t.cores = s.cores ∧ (∀ b, farByte t b = farByte s b)
          ∧ ∀ w, sget false t.dev.farBad w = if 1 < n ∧ w = pa / 4 then true else sget false s.dev.farBad w))
      ∧ (∀ k l, target = .buffer k l → 1 < n → Happens s ev .softError (fun t => (∀ j, j ≠ k → t.core j = s.core j)
          ∧ ∀ y, y ∈ (t.core k).slice.wpois ↔ y = l ∨ y ∈ (s.core k).slice.wpois))
      ∧ (∀ k row col o r, target = .adder k row col → 0 < n → (s.core k).slice.queue = o :: r →
          Happens s ev .softError (fun t => (t.core k).slice.queue = { o with slips := o.slips ++ [⟨row, col, o.cols.length - 1, bits.toNat⟩] } :: r
            ∧ (∀ j, j ≠ k → t.core j = s.core j) ∧ ∀ b, nearByte t k b = nearByte s k b)))

/-! ## The machine as a whole -/

/-- The machine after reset (R63, R65, R72, R124, R161, R180, R224, R238, R257, R273, R282, R283, R286, R290, R291): the values the
spec gives, for every context, core, line, queue, partition and port, and memory in canonical form. What the model chose (logs 1 to 4
and 17) is not stated. -/
def Obligations.ResetState : Prop :=
  let s := State.reset
  memoryCanonical s = true
  ∧ (∀ k i, let x := s.ctx (k, i)
      (∀ t r, x.reg t r = 0) ∧ (∀ p, x.pred p = decide (p = 0)) ∧ (∀ v, x.vec v = 0)
      ∧ (∀ m, (x.msg m).data = 0 ∧ (x.msg m).full = false ∧ (x.msg m).ffull = false)
      ∧ x.wbase = 0 ∧ x.vlo = 0 ∧ x.frame = 24 ∧ x.flags = 0 ∧ x.ftz = false ∧ x.rep = none ∧ x.monitor = none ∧ x.binds = []
      ∧ x.region = none)
  ∧ (∀ k, let c := s.core k
      (∀ i, sget 0 c.tags i = 0 ∧ sget 0 c.vptr i = 0) ∧ c.ctab = 0
      ∧ (∀ t, (c.slice.tile t).pois = false ∧ (c.slice.tile t).mode = .none ∧ ∀ i, sget 0 (c.slice.tile t).el i = 0)
      ∧ c.slice.wvalid = false ∧ (∀ r, (c.xu.header r).kind = 0) ∧ (∀ i, sget 0 c.vert.ws i = 0)
      ∧ c.xu.kern = ⟨0, 0, 0x3F800000⟩ ∧ c.ctl.cause = 0 ∧ c.ctl.tpc = 0 ∧ c.ctl.taddr = 0 ∧ c.ctl.tword = 0)
  ∧ (∀ l, s.line l = ⟨none, 0, 0, 0, none, 0, none, none, none⟩)
  ∧ (∀ p, let q := s.part p
      (∀ n, let u := sget .reset q.queues n
        u.en = false ∧ u.prio = 0 ∧ u.qstop = false ∧ u.log2n = 4 ∧ u.tail = 0 ∧ u.head = 0 ∧ u.qbase = 0)
      ∧ q.fq.en = false ∧ q.fq.log2n = 8 ∧ q.fq.base = 0 ∧ q.fq.tail = 0 ∧ q.fq.head = 0 ∧ q.fq.drops = 0
      ∧ q.floor = 0 ∧ q.efff = 0 ∧ q.epoch = 0)
  ∧ (let w := s.dev.power
     w.req = 80 ∧ w.cur = 80 ∧ w.ceil = 80 ∧ w.busy = false ∧ w.err = false ∧ w.step = 4 ∧ w.tlim = 95 ∧ w.cap = 3200
     ∧ w.fscale = false ∧ w.eff = 3200 ∧ w.stat = 0 ∧ w.scaled = false)
  ∧ s.dev.mode = 0
  ∧ (let f := s.dev.fabric
     f.act = false ∧ f.pend = false ∧ f.myid = 0 ∧ (∀ b d, f.route b d = 0)
     ∧ ∀ p, let q := sget .reset f.ports p
       q.up = false ∧ q.half = false ∧ q.train = false ∧ q.keydrop = 0 ∧ q.routedrop = 0 ∧ q.crcdrop = 0)

/-- A STEP RUNS THE DECODED INSTRUCTION (R82 and log 4): when the next act is a core's and falls to a context whose words at the
program counter decode, the step is `exec` of that instruction, at the state in which that context holds the core; a trap met in
fetching is taken; when the next act is another agent's, the step is `exec` of its row at its tick, with what it has to look ahead for,
which answers a next state; with no such act due, `exec` of its row stops by name. -/
def Obligations.StepRunsTheFetchedInstruction : Prop :=
  (∀ (s : State) (t k u i : Nat), s.units = [] → s.nextCore = some (t, k) → (∀ e, s.agenda.head? = some e → t < e.at_) →
    let now := max s.now t
    let s1 := (({ s with now := now } : State).settle k now).looks k now
    let s2 : State := { s1.take k i with cur := (k, i), event := none }
    s1.nextIssue k = some (u, i) → u ≤ s1.now → (∀ w, (s2.ctx (k, i)).run ≠ .held w) → s2.leaderLate k i = false →
    (∀ ins, s2.fetch (k, i) = .ok ins → step s = exec ins s2)
    ∧ (∀ tr, s2.fetch (k, i) = .error tr → step s = .next (s2.trapAtFetch (k, i) tr)))
  ∧ (∀ (s : State) (q : Nat × Nat) (w : Word) (ins : Instr) (n : Nat), s.sigCheck q = none →
    (∀ r, (s.ctx q).rep = some r → r.next ≠ (s.ctx q).pc) → s.storeWord q.1 (s.ctx q).pc.toNat = some (w, true) →
    isHeader w = false → decode (s.wordsAt q.1 (s.ctx q).pc.toNat) = .ok (ins, n) → s.fetch q = .ok ins)
  ∧ (∀ (s : State) (e : Due) (r : List Due), s.units = [] → s.agenda = e :: r →
      (∀ t k, s.nextCore = some (t, k) → e.at_ < t ∨ (e.at_ = t ∧ evRank e.ev < readRank)) →
    step s = exec e.ev.row { ({ s with now := max s.now e.at_, agenda := r } : State).foresee e.ev with event := some e.ev })
  -- what such a step looks ahead for: a gang's missing line, a wheel that a release stops; nothing else of the state (R121, R237; log 26)
  ∧ (∀ (s : State) (ev : Event), (∀ k, ev ≠ .gangBarrierTimeout k) → (∀ r, ev = .atomicSlot r → r.home = none) → s.foresee ev = s)
  ∧ (∀ (s : State) (k : Nat), ∃ b, s.foresee (.gangBarrierTimeout k) = s.modSlice k (fun l => { l with short := b }))
  ∧ (∀ (s : State) (r : AtomicReq) (home : Nat), r.home = some home →
      s.foresee (.atomicSlot r) = s ∨ s.foresee (.atomicSlot r) = s.modCtl home (fun c => { c with skip := true }))
  ∧ (∀ (s : State) (ev : Event), s.event = some ev → ∃ t, exec ev.row s = .next t)
  ∧ (∀ (s : State) (i : Instr), encode i = [] → s.event = none → exec i s = .fault .notDue)

/-- Words of the spec's own examples decode to the instruction they stand for (R323, R315, R316, R349, R377, R378, R384, R311, R218,
R265, R368, R411, R329), and the reserved majors decode to nothing, in every format (R79 to R81). -/
def Obligations.ExampleWordsDecode : Prop :=
  let p : Hdr := ⟨0, false, 0, false⟩
  decode [0x292C0200] = .ok (.add p 12 9 10, 1)
  ∧ decode [0x00693888] = .ok (.addi 1 9 8 3, 1)
  ∧ decode [0xFFF03900] = .ok (.addi 0 16 16 0x7FF, 1)
  ∧ decode [0x39AC2960] = .ok (.sel ⟨0, false, 3, true⟩ 12 13 14, 1)
  ∧ decode [0x001C5A40] = .ok (.br ⟨0, false, 2, false⟩ 0x1C, 1)
  ∧ decode [0x08097400] = .ok (.ldI64 0 9 0 64, 1)
  ∧ decode [0x1203A800] = .ok (.send p 3 16 4, 1)
  ∧ decode [0x0000B600] = .ok (.eret 0 false, 1)
  ∧ decode [0x460CC002, 3, 0x1003] = .ok (.lea p 12 16 17 none 3 16, 3)
  ∧ decode [0x0824C602, 0x1013, 2] = .ok (.vcmp p 4 1 2 .f32 none 2 false 0, 3)
  ∧ decode [0x460CD002, 0x00209001, 5] = .ok (.aadd p 12 16 17 .i64 .cluster 5 false, 3)
  ∧ decode [0x4600D202, 0x0050000C, 0x1000] = .ok (.bind p 16 17 .device 4096, 3)
  ∧ decode [0x7620CA0A, 0x1001, 3] = .ok (.rstr ⟨1, false, 0, false⟩ 0 17 29 .f32 true true, 3)
  ∧ decode [0x020CD602, 2, 1] = .ok (.ctxsv p 12 16 true, 3)
  ∧ ∀ (w : Word) (rest : List Word), (w.extractLsb' 9 7 = 0x00 ∨ w.extractLsb' 9 7 = 0x5F ∨ 0x6C ≤ (w.extractLsb' 9 7).toNat) →
      ∃ e, decode (w :: rest) = .error e

/-- DECODE AND ENCODE AGREE: the words that the encoder writes for a well-formed instruction decode to it, with every operand,
whatever follows them; every row but the steps of other agents has words. -/
def Obligations.DecodeInvertsEncode : Prop :=
  (∀ (i : Instr) (rest : List Word), i.wellFormed = true → encode i ≠ [] → decode (encode i ++ rest) = .ok (i, (encode i).length))
  ∧ ∀ i : Instr, encode i = [] → ∃ ev : Event, ev.row = i

/-- AN INVARIANT OF EVERY STEP: every step keeps the memories and registers of the machine in canonical form, so that equal
contents are equal data. -/
def Obligations.StepKeepsMemoryCanonical : Prop :=
  ∀ s t : State, memoryCanonical s = true → step s = .next t → memoryCanonical t = true

/-- The order of one instruction's checks (R76, R81, R305): ILLOP whatever the guard, then PRIV, then a false guard, which leaves
registers, memory, flags and every other context as they are, then the wait for an operand,
for an outstanding slice operation that gives one, or behind a fence of scope core (log 50), in which nothing changes. -/
def Obligations.ChecksComeInTheirOrder : Prop :=
  ∀ (s : State) (ins : Instr) (n : Need) (body : State → Except Trap Done), exec ins s = issue n body s →
    (illegal n s = true → Traps s (.of .illop) (exec ins s))
    ∧ (illegal n s = false → ∀ a, n.priv = some a → Traps s (.at_ .priv a) (exec ins s))
    ∧ (illegal n s = false → n.priv = none → guardWait n s = none → guardHolds n s = false →
      Answers (exec ins s) (fun t => Frame {} s t ∧ t.agenda = s.agenda))
    ∧ (illegal n s = false → n.priv = none → ∀ u, guardWait n s = some u ∨ (guardWait n s = none ∧ guardHolds n s = true ∧ waitFor n s = some u) →
      Answers (exec ins s) (fun t => Frame {} s t ∧ t.ctx s.cur = s.ctx s.cur ∧ (t.core s.cur.1).ctl.issueAt = u))
    ∧ (illegal n s = false → n.priv = none → guardWait n s = none → guardHolds n s = true → waitFor n s = none → waitMrd n s = true →
      Answers (exec ins s) (fun t => Frame {} s t ∧ t.ctx s.cur = s.ctx s.cur
        ∧ (t.core s.cur.1).ctl.issueAt = s.now + cyc s.cur.1))
end

