-- ==== Sys2Proof/Laws/Sparse.lean ====
section
/-! SUPPORT. The laws of sparse data: a read after a write, what a write leaves alone, and the canonical form, in which
equal contents are equal data. -/

namespace Sys2Proof.Laws

open Sys2Proof.Machine

variable {α : Type}

theorem sget_sput (d : α) (m : Sparse α) (k k' : Nat) (v : α) :
    sget d (sput m k v) k' = if k = k' then v else sget d m k' := by
  induction m with
  | nil => simp [sput, sget]
  | cons e r ih =>
    obtain ⟨j, w⟩ := e
    simp only [sput]
    split
    · simp [sget]
    · split
      · subst_vars
        by_cases h : j = k' <;> simp [sget, h]
      · simp only [sget, ih]
        by_cases h : j = k'
        · have : k ≠ k' := by omega
          simp [h, this]
        · simp [h]

theorem sget_serase (d : α) (m : Sparse α) (k k' : Nat) :
    sget d (serase m k) k' = if k = k' then d else sget d m k' := by
  induction m with
  | nil => simp [serase, sget]
  | cons e r ih =>
    obtain ⟨j, w⟩ := e
    simp only [serase]
    split
    · subst_vars
      rw [ih]
      by_cases h : j = k' <;> simp [sget, h]
    · simp only [sget, ih]
      by_cases h : j = k'
      · have : k ≠ k' := by omega
        simp [h, this]
      · simp [h]

/-- A read after a write: the value at the key written, and elsewhere what stood there. -/
theorem sget_sset [DecidableEq α] (d : α) (m : Sparse α) (k k' : Nat) (v : α) :
    sget d (sset d m k v) k' = if k = k' then v else sget d m k' := by
  unfold sset
  split
  · rw [sget_serase]; simp [*]
  · rw [sget_sput]

@[simp] theorem sget_sset_same [DecidableEq α] (d : α) (m : Sparse α) (k : Nat) (v : α) :
    sget d (sset d m k v) k = v := by simp [sget_sset]

theorem sget_sset_other [DecidableEq α] (d : α) (m : Sparse α) {k k' : Nat} (v : α) (h : k ≠ k') :
    sget d (sset d m k v) k' = sget d m k' := by simp [sget_sset, h]

/-! ## The canonical form -/

theorem swfFrom_mono [DecidableEq α] {d : α} {m : Sparse α} {lo lo' : Nat} (h : lo ≤ lo')
    (hm : swfFrom d lo' m = true) : swfFrom d lo m = true := by
  cases m with
  | nil => rfl
  | cons e r =>
    obtain ⟨j, w⟩ := e
    simp only [swfFrom, Bool.and_eq_true, decide_eq_true_eq] at *
    exact ⟨⟨by omega, hm.1.2⟩, hm.2⟩

theorem swfFrom_serase [DecidableEq α] {d : α} {m : Sparse α} (k : Nat) :
    ∀ {lo : Nat}, swfFrom d lo m = true → swfFrom d lo (serase m k) = true := by
  induction m with
  | nil => intro lo _; rfl
  | cons e r ih =>
    obtain ⟨j, w⟩ := e
    intro lo h
    simp only [swfFrom, Bool.and_eq_true, decide_eq_true_eq] at h
    simp only [serase]
    split
    · exact swfFrom_mono (by omega) (ih h.2)
    · simp only [swfFrom, Bool.and_eq_true, decide_eq_true_eq]
      exact ⟨h.1, ih h.2⟩

theorem swfFrom_sput [DecidableEq α] {d : α} {m : Sparse α} {k : Nat} {v : α} (hv : v ≠ d) :
    ∀ {lo : Nat}, lo ≤ k → swfFrom d lo m = true → swfFrom d lo (sput m k v) = true := by
  induction m with
  | nil => intro lo hl _; simp [sput, swfFrom, hl, hv]
  | cons e r ih =>
    obtain ⟨j, w⟩ := e
    intro lo hl h
    simp only [swfFrom, Bool.and_eq_true, decide_eq_true_eq] at h
    simp only [sput]
    split
    · simp only [swfFrom, Bool.and_eq_true, decide_eq_true_eq]
      exact ⟨⟨hl, hv⟩, ⟨by omega, h.1.2⟩, h.2⟩
    · split
      · subst_vars
        simp only [swfFrom, Bool.and_eq_true, decide_eq_true_eq]
        exact ⟨⟨hl, hv⟩, h.2⟩
      · simp only [swfFrom, Bool.and_eq_true, decide_eq_true_eq]
        exact ⟨h.1, ih (by omega) h.2⟩

theorem swf_nil [DecidableEq α] (d : α) : swf d ([] : Sparse α) = true := rfl

/-- A write keeps the canonical form. -/
theorem swf_sset [DecidableEq α] {d : α} {m : Sparse α} (k : Nat) (v : α) (h : swf d m = true) :
    swf d (sset d m k v) = true := by
  unfold sset
  split
  · exact swfFrom_serase k h
  · exact swfFrom_sput ‹_› (Nat.zero_le _) h

theorem swf_serase [DecidableEq α] {d : α} {m : Sparse α} (k : Nat) (h : swf d m = true) :
    swf d (serase m k) = true := swfFrom_serase k h

theorem swfFrom_filter [DecidableEq α] {d : α} {m : Sparse α} (p : Nat × α → Bool) :
    ∀ {lo : Nat}, swfFrom d lo m = true → swfFrom d lo (m.filter p) = true := by
  induction m with
  | nil => intro lo _; rfl
  | cons e r ih =>
    obtain ⟨j, w⟩ := e
    intro lo h
    simp only [swfFrom, Bool.and_eq_true, decide_eq_true_eq] at h
    rw [List.filter_cons]
    split
    · simp only [swfFrom, Bool.and_eq_true, decide_eq_true_eq]
      exact ⟨h.1, ih h.2⟩
    · exact swfFrom_mono (by omega) (ih h.2)

/-- Leaving entries out keeps the canonical form. -/
theorem swf_filter [DecidableEq α] {d : α} {m : Sparse α} (p : Nat × α → Bool) (h : swf d m = true) :
    swf d (m.filter p) = true := swfFrom_filter p h

theorem sget_below [DecidableEq α] {d : α} {m : Sparse α} {k : Nat} :
    ∀ {lo : Nat}, swfFrom d lo m = true → k < lo → sget d m k = d := by
  induction m with
  | nil => intro lo _ _; rfl
  | cons e r ih =>
    obtain ⟨j, w⟩ := e
    intro lo h hk
    simp only [swfFrom, Bool.and_eq_true, decide_eq_true_eq] at h
    have : j ≠ k := by omega
    simp only [sget, this, if_false]
    exact ih h.2 (by omega)

theorem swfFrom_ext [DecidableEq α] {d : α} {m : Sparse α} :
    ∀ {m' : Sparse α} {lo : Nat}, swfFrom d lo m = true → swfFrom d lo m' = true →
      (∀ k, sget d m k = sget d m' k) → m = m' := by
  induction m with
  | nil =>
    intro m' lo _ h' he
    cases m' with
    | nil => rfl
    | cons e' r' =>
      obtain ⟨j', w'⟩ := e'
      simp only [swfFrom, Bool.and_eq_true, decide_eq_true_eq] at h'
      have := he j'
      simp [sget] at this
      exact absurd this.symm h'.1.2
  | cons e r ih =>
    obtain ⟨j, w⟩ := e
    intro m' lo h h' he
    simp only [swfFrom, Bool.and_eq_true, decide_eq_true_eq] at h
    cases m' with
    | nil =>
      have := he j
      simp [sget] at this
      exact absurd this h.1.2
    | cons e' r' =>
      obtain ⟨j', w'⟩ := e'
      simp only [swfFrom, Bool.and_eq_true, decide_eq_true_eq] at h'
      have hj : j = j' := by
        rcases Nat.lt_trichotomy j j' with hlt | heq | hgt
        · have h1 := he j
          have h2 : sget d ((j', w') :: r') j = d := by
            simp only [sget, show j' ≠ j by omega, if_false]
            exact sget_below h'.2 (by omega)
          rw [h2] at h1
          simp [sget] at h1
          exact absurd h1 h.1.2
        · exact heq
        · have h1 := he j'
          have h2 : sget d ((j, w) :: r) j' = d := by
            simp only [sget, show j ≠ j' by omega, if_false]
            exact sget_below h.2 (by omega)
          rw [h2] at h1
          simp [sget] at h1
          exact absurd h1.symm h'.1.2
      subst hj
      have hw : w = w' := by
        have := he j
        simpa [sget] using this
      subst hw
      congr 1
      refine ih h.2 h'.2 (fun k => ?_)
      by_cases hk : j = k
      · subst hk
        rw [sget_below h.2 (by omega), sget_below h'.2 (by omega)]
      · have := he k
        simpa [sget, hk] using this

/-- In canonical form equal contents are equal data. -/
theorem swf_ext [DecidableEq α] {d : α} {m m' : Sparse α} (h : swf d m = true) (h' : swf d m' = true)
    (he : ∀ k, sget d m k = sget d m' k) : m = m' := swfFrom_ext h h' he

/-- Entries of a map in canonical form meet what holds of every value read. -/
theorem mem_sset [DecidableEq α] {d : α} {m : Sparse α} {k : Nat} {v : α} {e : Nat × α} (h : e ∈ sset d m k v) :
    e ∈ m ∨ e = (k, v) := by
  have hs : ∀ {m : Sparse α}, e ∈ sput m k v → e ∈ m ∨ e = (k, v) := by
    intro m
    induction m with
    | nil => intro h; simp [sput] at h; exact .inr h
    | cons a r ih =>
      obtain ⟨j, w⟩ := a
      intro h
      simp only [sput] at h
      split at h
      · rcases List.mem_cons.1 h with h | h
        · exact .inr h
        · exact .inl h
      · split at h
        · rcases List.mem_cons.1 h with h | h
          · exact .inr h
          · exact .inl (List.mem_cons_of_mem _ h)
        · rcases List.mem_cons.1 h with h | h
          · exact .inl (h ▸ List.mem_cons_self)
          · rcases ih h with h | h
            · exact .inl (List.mem_cons_of_mem _ h)
            · exact .inr h
  have he : ∀ {m : Sparse α}, e ∈ serase m k → e ∈ m := by
    intro m
    induction m with
    | nil => intro h; exact h
    | cons a r ih =>
      obtain ⟨j, w⟩ := a
      intro h
      simp only [serase] at h
      split at h
      · exact List.mem_cons_of_mem _ (ih h)
      · rcases List.mem_cons.1 h with h | h
        · exact h ▸ List.mem_cons_self
        · exact List.mem_cons_of_mem _ (ih h)
  unfold sset at h
  split at h
  · exact .inl (he h)
  · exact hs h

end Sys2Proof.Laws
end

