-- ==== Sys2Proof/Laws/State.lean ====
section
/-! SUPPORT. What each update of the state leaves alone, field by field, and what it reads back as. -/

namespace Sys2Proof.Laws

open Sys2Proof.Machine

/-! ### setCore -/

@[simp] theorem setCore_now (s : State) (k : Nat) (c : Core) : (s.setCore k c).now = s.now := rfl
@[simp] theorem setCore_wall (s : State) (k : Nat) (c : Core) : (s.setCore k c).wall = s.wall := rfl
@[simp] theorem setCore_wallAt (s : State) (k : Nat) (c : Core) : (s.setCore k c).wallAt = s.wallAt := rfl
@[simp] theorem setCore_cur (s : State) (k : Nat) (c : Core) : (s.setCore k c).cur = s.cur := rfl
@[simp] theorem setCore_fresh (s : State) (k : Nat) (c : Core) : (s.setCore k c).fresh = s.fresh := rfl
@[simp] theorem setCore_cmdNum (s : State) (k : Nat) (c : Core) : (s.setCore k c).cmdNum = s.cmdNum := rfl
@[simp] theorem setCore_mesh (s : State) (k : Nat) (c : Core) : (s.setCore k c).mesh = s.mesh := rfl
@[simp] theorem setCore_lastMsg (s : State) (k : Nat) (c : Core) : (s.setCore k c).lastMsg = s.lastMsg := rfl
@[simp] theorem setCore_agenda (s : State) (k : Nat) (c : Core) : (s.setCore k c).agenda = s.agenda := rfl
@[simp] theorem setCore_event (s : State) (k : Nat) (c : Core) : (s.setCore k c).event = s.event := rfl
@[simp] theorem setCore_lines (s : State) (k : Nat) (c : Core) : (s.setCore k c).lines = s.lines := rfl
@[simp] theorem setCore_units (s : State) (k : Nat) (c : Core) : (s.setCore k c).units = s.units := rfl
@[simp] theorem setCore_sc (s : State) (k : Nat) (c : Core) : (s.setCore k c).sc = s.sc := rfl
@[simp] theorem setCore_bufs (s : State) (k : Nat) (c : Core) : (s.setCore k c).bufs = s.bufs := rfl
@[simp] theorem setCore_cols (s : State) (k : Nat) (c : Core) : (s.setCore k c).cols = s.cols := rfl
@[simp] theorem setCore_parts (s : State) (k : Nat) (c : Core) : (s.setCore k c).parts = s.parts := rfl
@[simp] theorem setCore_dev (s : State) (k : Nat) (c : Core) : (s.setCore k c).dev = s.dev := rfl
@[simp] theorem setCore_gaf (s : State) (k : Nat) (c : Core) : (s.setCore k c).gaf = s.gaf := rfl

/-! ### modCore -/

@[simp] theorem modCore_now (s : State) (k : Nat) (f : Core → Core) : (s.modCore k f).now = s.now := rfl
@[simp] theorem modCore_wall (s : State) (k : Nat) (f : Core → Core) : (s.modCore k f).wall = s.wall := rfl
@[simp] theorem modCore_wallAt (s : State) (k : Nat) (f : Core → Core) : (s.modCore k f).wallAt = s.wallAt := rfl
@[simp] theorem modCore_cur (s : State) (k : Nat) (f : Core → Core) : (s.modCore k f).cur = s.cur := rfl
@[simp] theorem modCore_fresh (s : State) (k : Nat) (f : Core → Core) : (s.modCore k f).fresh = s.fresh := rfl
@[simp] theorem modCore_cmdNum (s : State) (k : Nat) (f : Core → Core) : (s.modCore k f).cmdNum = s.cmdNum := rfl
@[simp] theorem modCore_mesh (s : State) (k : Nat) (f : Core → Core) : (s.modCore k f).mesh = s.mesh := rfl
@[simp] theorem modCore_lastMsg (s : State) (k : Nat) (f : Core → Core) : (s.modCore k f).lastMsg = s.lastMsg := rfl
@[simp] theorem modCore_agenda (s : State) (k : Nat) (f : Core → Core) : (s.modCore k f).agenda = s.agenda := rfl
@[simp] theorem modCore_event (s : State) (k : Nat) (f : Core → Core) : (s.modCore k f).event = s.event := rfl
@[simp] theorem modCore_lines (s : State) (k : Nat) (f : Core → Core) : (s.modCore k f).lines = s.lines := rfl
@[simp] theorem modCore_units (s : State) (k : Nat) (f : Core → Core) : (s.modCore k f).units = s.units := rfl
@[simp] theorem modCore_sc (s : State) (k : Nat) (f : Core → Core) : (s.modCore k f).sc = s.sc := rfl
@[simp] theorem modCore_bufs (s : State) (k : Nat) (f : Core → Core) : (s.modCore k f).bufs = s.bufs := rfl
@[simp] theorem modCore_cols (s : State) (k : Nat) (f : Core → Core) : (s.modCore k f).cols = s.cols := rfl
@[simp] theorem modCore_parts (s : State) (k : Nat) (f : Core → Core) : (s.modCore k f).parts = s.parts := rfl
@[simp] theorem modCore_dev (s : State) (k : Nat) (f : Core → Core) : (s.modCore k f).dev = s.dev := rfl
@[simp] theorem modCore_gaf (s : State) (k : Nat) (f : Core → Core) : (s.modCore k f).gaf = s.gaf := rfl

/-! ### modCtx -/

@[simp] theorem modCtx_now (s : State) (q : Nat × Nat) (f : Ctx → Ctx) : (s.modCtx q f).now = s.now := rfl
@[simp] theorem modCtx_wall (s : State) (q : Nat × Nat) (f : Ctx → Ctx) : (s.modCtx q f).wall = s.wall := rfl
@[simp] theorem modCtx_wallAt (s : State) (q : Nat × Nat) (f : Ctx → Ctx) : (s.modCtx q f).wallAt = s.wallAt := rfl
@[simp] theorem modCtx_cur (s : State) (q : Nat × Nat) (f : Ctx → Ctx) : (s.modCtx q f).cur = s.cur := rfl
@[simp] theorem modCtx_fresh (s : State) (q : Nat × Nat) (f : Ctx → Ctx) : (s.modCtx q f).fresh = s.fresh := rfl
@[simp] theorem modCtx_cmdNum (s : State) (q : Nat × Nat) (f : Ctx → Ctx) : (s.modCtx q f).cmdNum = s.cmdNum := rfl
@[simp] theorem modCtx_mesh (s : State) (q : Nat × Nat) (f : Ctx → Ctx) : (s.modCtx q f).mesh = s.mesh := rfl
@[simp] theorem modCtx_lastMsg (s : State) (q : Nat × Nat) (f : Ctx → Ctx) : (s.modCtx q f).lastMsg = s.lastMsg := rfl
@[simp] theorem modCtx_agenda (s : State) (q : Nat × Nat) (f : Ctx → Ctx) : (s.modCtx q f).agenda = s.agenda := rfl
@[simp] theorem modCtx_event (s : State) (q : Nat × Nat) (f : Ctx → Ctx) : (s.modCtx q f).event = s.event := rfl
@[simp] theorem modCtx_lines (s : State) (q : Nat × Nat) (f : Ctx → Ctx) : (s.modCtx q f).lines = s.lines := rfl
@[simp] theorem modCtx_units (s : State) (q : Nat × Nat) (f : Ctx → Ctx) : (s.modCtx q f).units = s.units := rfl
@[simp] theorem modCtx_sc (s : State) (q : Nat × Nat) (f : Ctx → Ctx) : (s.modCtx q f).sc = s.sc := rfl
@[simp] theorem modCtx_bufs (s : State) (q : Nat × Nat) (f : Ctx → Ctx) : (s.modCtx q f).bufs = s.bufs := rfl
@[simp] theorem modCtx_cols (s : State) (q : Nat × Nat) (f : Ctx → Ctx) : (s.modCtx q f).cols = s.cols := rfl
@[simp] theorem modCtx_parts (s : State) (q : Nat × Nat) (f : Ctx → Ctx) : (s.modCtx q f).parts = s.parts := rfl
@[simp] theorem modCtx_dev (s : State) (q : Nat × Nat) (f : Ctx → Ctx) : (s.modCtx q f).dev = s.dev := rfl
@[simp] theorem modCtx_gaf (s : State) (q : Nat × Nat) (f : Ctx → Ctx) : (s.modCtx q f).gaf = s.gaf := rfl

/-! ### modCtl -/

@[simp] theorem modCtl_now (s : State) (k : Nat) (f : Ctl → Ctl) : (s.modCtl k f).now = s.now := rfl
@[simp] theorem modCtl_wall (s : State) (k : Nat) (f : Ctl → Ctl) : (s.modCtl k f).wall = s.wall := rfl
@[simp] theorem modCtl_wallAt (s : State) (k : Nat) (f : Ctl → Ctl) : (s.modCtl k f).wallAt = s.wallAt := rfl
@[simp] theorem modCtl_cur (s : State) (k : Nat) (f : Ctl → Ctl) : (s.modCtl k f).cur = s.cur := rfl
@[simp] theorem modCtl_fresh (s : State) (k : Nat) (f : Ctl → Ctl) : (s.modCtl k f).fresh = s.fresh := rfl
@[simp] theorem modCtl_cmdNum (s : State) (k : Nat) (f : Ctl → Ctl) : (s.modCtl k f).cmdNum = s.cmdNum := rfl
@[simp] theorem modCtl_mesh (s : State) (k : Nat) (f : Ctl → Ctl) : (s.modCtl k f).mesh = s.mesh := rfl
@[simp] theorem modCtl_lastMsg (s : State) (k : Nat) (f : Ctl → Ctl) : (s.modCtl k f).lastMsg = s.lastMsg := rfl
@[simp] theorem modCtl_agenda (s : State) (k : Nat) (f : Ctl → Ctl) : (s.modCtl k f).agenda = s.agenda := rfl
@[simp] theorem modCtl_event (s : State) (k : Nat) (f : Ctl → Ctl) : (s.modCtl k f).event = s.event := rfl
@[simp] theorem modCtl_lines (s : State) (k : Nat) (f : Ctl → Ctl) : (s.modCtl k f).lines = s.lines := rfl
@[simp] theorem modCtl_units (s : State) (k : Nat) (f : Ctl → Ctl) : (s.modCtl k f).units = s.units := rfl
@[simp] theorem modCtl_sc (s : State) (k : Nat) (f : Ctl → Ctl) : (s.modCtl k f).sc = s.sc := rfl
@[simp] theorem modCtl_bufs (s : State) (k : Nat) (f : Ctl → Ctl) : (s.modCtl k f).bufs = s.bufs := rfl
@[simp] theorem modCtl_cols (s : State) (k : Nat) (f : Ctl → Ctl) : (s.modCtl k f).cols = s.cols := rfl
@[simp] theorem modCtl_parts (s : State) (k : Nat) (f : Ctl → Ctl) : (s.modCtl k f).parts = s.parts := rfl
@[simp] theorem modCtl_dev (s : State) (k : Nat) (f : Ctl → Ctl) : (s.modCtl k f).dev = s.dev := rfl
@[simp] theorem modCtl_gaf (s : State) (k : Nat) (f : Ctl → Ctl) : (s.modCtl k f).gaf = s.gaf := rfl

/-! ### modSlice -/

@[simp] theorem modSlice_now (s : State) (k : Nat) (f : Slice → Slice) : (s.modSlice k f).now = s.now := rfl
@[simp] theorem modSlice_wall (s : State) (k : Nat) (f : Slice → Slice) : (s.modSlice k f).wall = s.wall := rfl
@[simp] theorem modSlice_wallAt (s : State) (k : Nat) (f : Slice → Slice) : (s.modSlice k f).wallAt = s.wallAt := rfl
@[simp] theorem modSlice_cur (s : State) (k : Nat) (f : Slice → Slice) : (s.modSlice k f).cur = s.cur := rfl
@[simp] theorem modSlice_fresh (s : State) (k : Nat) (f : Slice → Slice) : (s.modSlice k f).fresh = s.fresh := rfl
@[simp] theorem modSlice_cmdNum (s : State) (k : Nat) (f : Slice → Slice) : (s.modSlice k f).cmdNum = s.cmdNum := rfl
@[simp] theorem modSlice_mesh (s : State) (k : Nat) (f : Slice → Slice) : (s.modSlice k f).mesh = s.mesh := rfl
@[simp] theorem modSlice_lastMsg (s : State) (k : Nat) (f : Slice → Slice) : (s.modSlice k f).lastMsg = s.lastMsg := rfl
@[simp] theorem modSlice_agenda (s : State) (k : Nat) (f : Slice → Slice) : (s.modSlice k f).agenda = s.agenda := rfl
@[simp] theorem modSlice_event (s : State) (k : Nat) (f : Slice → Slice) : (s.modSlice k f).event = s.event := rfl
@[simp] theorem modSlice_lines (s : State) (k : Nat) (f : Slice → Slice) : (s.modSlice k f).lines = s.lines := rfl
@[simp] theorem modSlice_units (s : State) (k : Nat) (f : Slice → Slice) : (s.modSlice k f).units = s.units := rfl
@[simp] theorem modSlice_sc (s : State) (k : Nat) (f : Slice → Slice) : (s.modSlice k f).sc = s.sc := rfl
@[simp] theorem modSlice_bufs (s : State) (k : Nat) (f : Slice → Slice) : (s.modSlice k f).bufs = s.bufs := rfl
@[simp] theorem modSlice_cols (s : State) (k : Nat) (f : Slice → Slice) : (s.modSlice k f).cols = s.cols := rfl
@[simp] theorem modSlice_parts (s : State) (k : Nat) (f : Slice → Slice) : (s.modSlice k f).parts = s.parts := rfl
@[simp] theorem modSlice_dev (s : State) (k : Nat) (f : Slice → Slice) : (s.modSlice k f).dev = s.dev := rfl
@[simp] theorem modSlice_gaf (s : State) (k : Nat) (f : Slice → Slice) : (s.modSlice k f).gaf = s.gaf := rfl

/-! ### modXu -/

@[simp] theorem modXu_now (s : State) (k : Nat) (f : XUnit → XUnit) : (s.modXu k f).now = s.now := rfl
@[simp] theorem modXu_wall (s : State) (k : Nat) (f : XUnit → XUnit) : (s.modXu k f).wall = s.wall := rfl
@[simp] theorem modXu_wallAt (s : State) (k : Nat) (f : XUnit → XUnit) : (s.modXu k f).wallAt = s.wallAt := rfl
@[simp] theorem modXu_cur (s : State) (k : Nat) (f : XUnit → XUnit) : (s.modXu k f).cur = s.cur := rfl
@[simp] theorem modXu_fresh (s : State) (k : Nat) (f : XUnit → XUnit) : (s.modXu k f).fresh = s.fresh := rfl
@[simp] theorem modXu_cmdNum (s : State) (k : Nat) (f : XUnit → XUnit) : (s.modXu k f).cmdNum = s.cmdNum := rfl
@[simp] theorem modXu_mesh (s : State) (k : Nat) (f : XUnit → XUnit) : (s.modXu k f).mesh = s.mesh := rfl
@[simp] theorem modXu_lastMsg (s : State) (k : Nat) (f : XUnit → XUnit) : (s.modXu k f).lastMsg = s.lastMsg := rfl
@[simp] theorem modXu_agenda (s : State) (k : Nat) (f : XUnit → XUnit) : (s.modXu k f).agenda = s.agenda := rfl
@[simp] theorem modXu_event (s : State) (k : Nat) (f : XUnit → XUnit) : (s.modXu k f).event = s.event := rfl
@[simp] theorem modXu_lines (s : State) (k : Nat) (f : XUnit → XUnit) : (s.modXu k f).lines = s.lines := rfl
@[simp] theorem modXu_units (s : State) (k : Nat) (f : XUnit → XUnit) : (s.modXu k f).units = s.units := rfl
@[simp] theorem modXu_sc (s : State) (k : Nat) (f : XUnit → XUnit) : (s.modXu k f).sc = s.sc := rfl
@[simp] theorem modXu_bufs (s : State) (k : Nat) (f : XUnit → XUnit) : (s.modXu k f).bufs = s.bufs := rfl
@[simp] theorem modXu_cols (s : State) (k : Nat) (f : XUnit → XUnit) : (s.modXu k f).cols = s.cols := rfl
@[simp] theorem modXu_parts (s : State) (k : Nat) (f : XUnit → XUnit) : (s.modXu k f).parts = s.parts := rfl
@[simp] theorem modXu_dev (s : State) (k : Nat) (f : XUnit → XUnit) : (s.modXu k f).dev = s.dev := rfl
@[simp] theorem modXu_gaf (s : State) (k : Nat) (f : XUnit → XUnit) : (s.modXu k f).gaf = s.gaf := rfl

/-! ### modVert -/

@[simp] theorem modVert_now (s : State) (k : Nat) (f : Vert → Vert) : (s.modVert k f).now = s.now := rfl
@[simp] theorem modVert_wall (s : State) (k : Nat) (f : Vert → Vert) : (s.modVert k f).wall = s.wall := rfl
@[simp] theorem modVert_wallAt (s : State) (k : Nat) (f : Vert → Vert) : (s.modVert k f).wallAt = s.wallAt := rfl
@[simp] theorem modVert_cur (s : State) (k : Nat) (f : Vert → Vert) : (s.modVert k f).cur = s.cur := rfl
@[simp] theorem modVert_fresh (s : State) (k : Nat) (f : Vert → Vert) : (s.modVert k f).fresh = s.fresh := rfl
@[simp] theorem modVert_cmdNum (s : State) (k : Nat) (f : Vert → Vert) : (s.modVert k f).cmdNum = s.cmdNum := rfl
@[simp] theorem modVert_mesh (s : State) (k : Nat) (f : Vert → Vert) : (s.modVert k f).mesh = s.mesh := rfl
@[simp] theorem modVert_lastMsg (s : State) (k : Nat) (f : Vert → Vert) : (s.modVert k f).lastMsg = s.lastMsg := rfl
@[simp] theorem modVert_agenda (s : State) (k : Nat) (f : Vert → Vert) : (s.modVert k f).agenda = s.agenda := rfl
@[simp] theorem modVert_event (s : State) (k : Nat) (f : Vert → Vert) : (s.modVert k f).event = s.event := rfl
@[simp] theorem modVert_lines (s : State) (k : Nat) (f : Vert → Vert) : (s.modVert k f).lines = s.lines := rfl
@[simp] theorem modVert_units (s : State) (k : Nat) (f : Vert → Vert) : (s.modVert k f).units = s.units := rfl
@[simp] theorem modVert_sc (s : State) (k : Nat) (f : Vert → Vert) : (s.modVert k f).sc = s.sc := rfl
@[simp] theorem modVert_bufs (s : State) (k : Nat) (f : Vert → Vert) : (s.modVert k f).bufs = s.bufs := rfl
@[simp] theorem modVert_cols (s : State) (k : Nat) (f : Vert → Vert) : (s.modVert k f).cols = s.cols := rfl
@[simp] theorem modVert_parts (s : State) (k : Nat) (f : Vert → Vert) : (s.modVert k f).parts = s.parts := rfl
@[simp] theorem modVert_dev (s : State) (k : Nat) (f : Vert → Vert) : (s.modVert k f).dev = s.dev := rfl
@[simp] theorem modVert_gaf (s : State) (k : Nat) (f : Vert → Vert) : (s.modVert k f).gaf = s.gaf := rfl

/-! ### deliver -/

@[simp] theorem deliver_now (s : State) (q : Nat × Nat) (l : Nat) (a : List Act) : (s.deliver q l a).now = s.now := rfl
@[simp] theorem deliver_wall (s : State) (q : Nat × Nat) (l : Nat) (a : List Act) : (s.deliver q l a).wall = s.wall := rfl
@[simp] theorem deliver_wallAt (s : State) (q : Nat × Nat) (l : Nat) (a : List Act) : (s.deliver q l a).wallAt = s.wallAt := rfl
@[simp] theorem deliver_cur (s : State) (q : Nat × Nat) (l : Nat) (a : List Act) : (s.deliver q l a).cur = s.cur := rfl
@[simp] theorem deliver_fresh (s : State) (q : Nat × Nat) (l : Nat) (a : List Act) : (s.deliver q l a).fresh = s.fresh := rfl
@[simp] theorem deliver_cmdNum (s : State) (q : Nat × Nat) (l : Nat) (a : List Act) : (s.deliver q l a).cmdNum = s.cmdNum := rfl
@[simp] theorem deliver_mesh (s : State) (q : Nat × Nat) (l : Nat) (a : List Act) : (s.deliver q l a).mesh = s.mesh := rfl
@[simp] theorem deliver_lastMsg (s : State) (q : Nat × Nat) (l : Nat) (a : List Act) : (s.deliver q l a).lastMsg = s.lastMsg := rfl
@[simp] theorem deliver_agenda (s : State) (q : Nat × Nat) (l : Nat) (a : List Act) : (s.deliver q l a).agenda = s.agenda := rfl
@[simp] theorem deliver_event (s : State) (q : Nat × Nat) (l : Nat) (a : List Act) : (s.deliver q l a).event = s.event := rfl
@[simp] theorem deliver_lines (s : State) (q : Nat × Nat) (l : Nat) (a : List Act) : (s.deliver q l a).lines = s.lines := rfl
@[simp] theorem deliver_units (s : State) (q : Nat × Nat) (l : Nat) (a : List Act) : (s.deliver q l a).units = s.units := rfl
@[simp] theorem deliver_sc (s : State) (q : Nat × Nat) (l : Nat) (a : List Act) : (s.deliver q l a).sc = s.sc := rfl
@[simp] theorem deliver_bufs (s : State) (q : Nat × Nat) (l : Nat) (a : List Act) : (s.deliver q l a).bufs = s.bufs := rfl
@[simp] theorem deliver_cols (s : State) (q : Nat × Nat) (l : Nat) (a : List Act) : (s.deliver q l a).cols = s.cols := rfl
@[simp] theorem deliver_parts (s : State) (q : Nat × Nat) (l : Nat) (a : List Act) : (s.deliver q l a).parts = s.parts := rfl
@[simp] theorem deliver_dev (s : State) (q : Nat × Nat) (l : Nat) (a : List Act) : (s.deliver q l a).dev = s.dev := rfl
@[simp] theorem deliver_gaf (s : State) (q : Nat × Nat) (l : Nat) (a : List Act) : (s.deliver q l a).gaf = s.gaf := rfl

/-! ### modLine -/

@[simp] theorem modLine_now (s : State) (l : Nat) (f : EvLine → EvLine) : (s.modLine l f).now = s.now := rfl
@[simp] theorem modLine_wall (s : State) (l : Nat) (f : EvLine → EvLine) : (s.modLine l f).wall = s.wall := rfl
@[simp] theorem modLine_wallAt (s : State) (l : Nat) (f : EvLine → EvLine) : (s.modLine l f).wallAt = s.wallAt := rfl
@[simp] theorem modLine_cur (s : State) (l : Nat) (f : EvLine → EvLine) : (s.modLine l f).cur = s.cur := rfl
@[simp] theorem modLine_fresh (s : State) (l : Nat) (f : EvLine → EvLine) : (s.modLine l f).fresh = s.fresh := rfl
@[simp] theorem modLine_cmdNum (s : State) (l : Nat) (f : EvLine → EvLine) : (s.modLine l f).cmdNum = s.cmdNum := rfl
@[simp] theorem modLine_mesh (s : State) (l : Nat) (f : EvLine → EvLine) : (s.modLine l f).mesh = s.mesh := rfl
@[simp] theorem modLine_lastMsg (s : State) (l : Nat) (f : EvLine → EvLine) : (s.modLine l f).lastMsg = s.lastMsg := rfl
@[simp] theorem modLine_agenda (s : State) (l : Nat) (f : EvLine → EvLine) : (s.modLine l f).agenda = s.agenda := rfl
@[simp] theorem modLine_event (s : State) (l : Nat) (f : EvLine → EvLine) : (s.modLine l f).event = s.event := rfl
@[simp] theorem modLine_cores (s : State) (l : Nat) (f : EvLine → EvLine) : (s.modLine l f).cores = s.cores := rfl
@[simp] theorem modLine_units (s : State) (l : Nat) (f : EvLine → EvLine) : (s.modLine l f).units = s.units := rfl
@[simp] theorem modLine_sc (s : State) (l : Nat) (f : EvLine → EvLine) : (s.modLine l f).sc = s.sc := rfl
@[simp] theorem modLine_bufs (s : State) (l : Nat) (f : EvLine → EvLine) : (s.modLine l f).bufs = s.bufs := rfl
@[simp] theorem modLine_cols (s : State) (l : Nat) (f : EvLine → EvLine) : (s.modLine l f).cols = s.cols := rfl
@[simp] theorem modLine_parts (s : State) (l : Nat) (f : EvLine → EvLine) : (s.modLine l f).parts = s.parts := rfl
@[simp] theorem modLine_dev (s : State) (l : Nat) (f : EvLine → EvLine) : (s.modLine l f).dev = s.dev := rfl
@[simp] theorem modLine_gaf (s : State) (l : Nat) (f : EvLine → EvLine) : (s.modLine l f).gaf = s.gaf := rfl

/-! ### modCol -/

@[simp] theorem modCol_now (s : State) (l : Nat) (f : Column → Column) : (s.modCol l f).now = s.now := rfl
@[simp] theorem modCol_wall (s : State) (l : Nat) (f : Column → Column) : (s.modCol l f).wall = s.wall := rfl
@[simp] theorem modCol_wallAt (s : State) (l : Nat) (f : Column → Column) : (s.modCol l f).wallAt = s.wallAt := rfl
@[simp] theorem modCol_cur (s : State) (l : Nat) (f : Column → Column) : (s.modCol l f).cur = s.cur := rfl
@[simp] theorem modCol_fresh (s : State) (l : Nat) (f : Column → Column) : (s.modCol l f).fresh = s.fresh := rfl
@[simp] theorem modCol_cmdNum (s : State) (l : Nat) (f : Column → Column) : (s.modCol l f).cmdNum = s.cmdNum := rfl
@[simp] theorem modCol_mesh (s : State) (l : Nat) (f : Column → Column) : (s.modCol l f).mesh = s.mesh := rfl
@[simp] theorem modCol_lastMsg (s : State) (l : Nat) (f : Column → Column) : (s.modCol l f).lastMsg = s.lastMsg := rfl
@[simp] theorem modCol_agenda (s : State) (l : Nat) (f : Column → Column) : (s.modCol l f).agenda = s.agenda := rfl
@[simp] theorem modCol_event (s : State) (l : Nat) (f : Column → Column) : (s.modCol l f).event = s.event := rfl
@[simp] theorem modCol_cores (s : State) (l : Nat) (f : Column → Column) : (s.modCol l f).cores = s.cores := rfl
@[simp] theorem modCol_lines (s : State) (l : Nat) (f : Column → Column) : (s.modCol l f).lines = s.lines := rfl
@[simp] theorem modCol_units (s : State) (l : Nat) (f : Column → Column) : (s.modCol l f).units = s.units := rfl
@[simp] theorem modCol_sc (s : State) (l : Nat) (f : Column → Column) : (s.modCol l f).sc = s.sc := rfl
@[simp] theorem modCol_bufs (s : State) (l : Nat) (f : Column → Column) : (s.modCol l f).bufs = s.bufs := rfl
@[simp] theorem modCol_parts (s : State) (l : Nat) (f : Column → Column) : (s.modCol l f).parts = s.parts := rfl
@[simp] theorem modCol_dev (s : State) (l : Nat) (f : Column → Column) : (s.modCol l f).dev = s.dev := rfl
@[simp] theorem modCol_gaf (s : State) (l : Nat) (f : Column → Column) : (s.modCol l f).gaf = s.gaf := rfl

/-! ### modPart -/

@[simp] theorem modPart_now (s : State) (l : Nat) (f : Part → Part) : (s.modPart l f).now = s.now := rfl
@[simp] theorem modPart_wall (s : State) (l : Nat) (f : Part → Part) : (s.modPart l f).wall = s.wall := rfl
@[simp] theorem modPart_wallAt (s : State) (l : Nat) (f : Part → Part) : (s.modPart l f).wallAt = s.wallAt := rfl
@[simp] theorem modPart_cur (s : State) (l : Nat) (f : Part → Part) : (s.modPart l f).cur = s.cur := rfl
@[simp] theorem modPart_fresh (s : State) (l : Nat) (f : Part → Part) : (s.modPart l f).fresh = s.fresh := rfl
@[simp] theorem modPart_cmdNum (s : State) (l : Nat) (f : Part → Part) : (s.modPart l f).cmdNum = s.cmdNum := rfl
@[simp] theorem modPart_mesh (s : State) (l : Nat) (f : Part → Part) : (s.modPart l f).mesh = s.mesh := rfl
@[simp] theorem modPart_lastMsg (s : State) (l : Nat) (f : Part → Part) : (s.modPart l f).lastMsg = s.lastMsg := rfl
@[simp] theorem modPart_agenda (s : State) (l : Nat) (f : Part → Part) : (s.modPart l f).agenda = s.agenda := rfl
@[simp] theorem modPart_event (s : State) (l : Nat) (f : Part → Part) : (s.modPart l f).event = s.event := rfl
@[simp] theorem modPart_cores (s : State) (l : Nat) (f : Part → Part) : (s.modPart l f).cores = s.cores := rfl
@[simp] theorem modPart_lines (s : State) (l : Nat) (f : Part → Part) : (s.modPart l f).lines = s.lines := rfl
@[simp] theorem modPart_units (s : State) (l : Nat) (f : Part → Part) : (s.modPart l f).units = s.units := rfl
@[simp] theorem modPart_sc (s : State) (l : Nat) (f : Part → Part) : (s.modPart l f).sc = s.sc := rfl
@[simp] theorem modPart_bufs (s : State) (l : Nat) (f : Part → Part) : (s.modPart l f).bufs = s.bufs := rfl
@[simp] theorem modPart_cols (s : State) (l : Nat) (f : Part → Part) : (s.modPart l f).cols = s.cols := rfl
@[simp] theorem modPart_dev (s : State) (l : Nat) (f : Part → Part) : (s.modPart l f).dev = s.dev := rfl
@[simp] theorem modPart_gaf (s : State) (l : Nat) (f : Part → Part) : (s.modPart l f).gaf = s.gaf := rfl

/-! ### modDev -/

@[simp] theorem modDev_now (s : State) (f : Dev → Dev) : (s.modDev f).now = s.now := rfl
@[simp] theorem modDev_wall (s : State) (f : Dev → Dev) : (s.modDev f).wall = s.wall := rfl
@[simp] theorem modDev_wallAt (s : State) (f : Dev → Dev) : (s.modDev f).wallAt = s.wallAt := rfl
@[simp] theorem modDev_cur (s : State) (f : Dev → Dev) : (s.modDev f).cur = s.cur := rfl
@[simp] theorem modDev_fresh (s : State) (f : Dev → Dev) : (s.modDev f).fresh = s.fresh := rfl
@[simp] theorem modDev_cmdNum (s : State) (f : Dev → Dev) : (s.modDev f).cmdNum = s.cmdNum := rfl
@[simp] theorem modDev_mesh (s : State) (f : Dev → Dev) : (s.modDev f).mesh = s.mesh := rfl
@[simp] theorem modDev_lastMsg (s : State) (f : Dev → Dev) : (s.modDev f).lastMsg = s.lastMsg := rfl
@[simp] theorem modDev_agenda (s : State) (f : Dev → Dev) : (s.modDev f).agenda = s.agenda := rfl
@[simp] theorem modDev_event (s : State) (f : Dev → Dev) : (s.modDev f).event = s.event := rfl
@[simp] theorem modDev_cores (s : State) (f : Dev → Dev) : (s.modDev f).cores = s.cores := rfl
@[simp] theorem modDev_lines (s : State) (f : Dev → Dev) : (s.modDev f).lines = s.lines := rfl
@[simp] theorem modDev_units (s : State) (f : Dev → Dev) : (s.modDev f).units = s.units := rfl
@[simp] theorem modDev_sc (s : State) (f : Dev → Dev) : (s.modDev f).sc = s.sc := rfl
@[simp] theorem modDev_bufs (s : State) (f : Dev → Dev) : (s.modDev f).bufs = s.bufs := rfl
@[simp] theorem modDev_cols (s : State) (f : Dev → Dev) : (s.modDev f).cols = s.cols := rfl
@[simp] theorem modDev_parts (s : State) (f : Dev → Dev) : (s.modDev f).parts = s.parts := rfl
@[simp] theorem modDev_gaf (s : State) (f : Dev → Dev) : (s.modDev f).gaf = s.gaf := rfl

/-! ### setKernel -/

@[simp] theorem setKernel_now (s : State) (i : Nat) (x : Option Kernel) : (s.setKernel i x).now = s.now := rfl
@[simp] theorem setKernel_wall (s : State) (i : Nat) (x : Option Kernel) : (s.setKernel i x).wall = s.wall := rfl
@[simp] theorem setKernel_wallAt (s : State) (i : Nat) (x : Option Kernel) : (s.setKernel i x).wallAt = s.wallAt := rfl
@[simp] theorem setKernel_cur (s : State) (i : Nat) (x : Option Kernel) : (s.setKernel i x).cur = s.cur := rfl
@[simp] theorem setKernel_fresh (s : State) (i : Nat) (x : Option Kernel) : (s.setKernel i x).fresh = s.fresh := rfl
@[simp] theorem setKernel_cmdNum (s : State) (i : Nat) (x : Option Kernel) : (s.setKernel i x).cmdNum = s.cmdNum := rfl
@[simp] theorem setKernel_mesh (s : State) (i : Nat) (x : Option Kernel) : (s.setKernel i x).mesh = s.mesh := rfl
@[simp] theorem setKernel_lastMsg (s : State) (i : Nat) (x : Option Kernel) : (s.setKernel i x).lastMsg = s.lastMsg := rfl
@[simp] theorem setKernel_agenda (s : State) (i : Nat) (x : Option Kernel) : (s.setKernel i x).agenda = s.agenda := rfl
@[simp] theorem setKernel_event (s : State) (i : Nat) (x : Option Kernel) : (s.setKernel i x).event = s.event := rfl
@[simp] theorem setKernel_cores (s : State) (i : Nat) (x : Option Kernel) : (s.setKernel i x).cores = s.cores := rfl
@[simp] theorem setKernel_lines (s : State) (i : Nat) (x : Option Kernel) : (s.setKernel i x).lines = s.lines := rfl
@[simp] theorem setKernel_units (s : State) (i : Nat) (x : Option Kernel) : (s.setKernel i x).units = s.units := rfl
@[simp] theorem setKernel_sc (s : State) (i : Nat) (x : Option Kernel) : (s.setKernel i x).sc = s.sc := rfl
@[simp] theorem setKernel_bufs (s : State) (i : Nat) (x : Option Kernel) : (s.setKernel i x).bufs = s.bufs := rfl
@[simp] theorem setKernel_cols (s : State) (i : Nat) (x : Option Kernel) : (s.setKernel i x).cols = s.cols := rfl
@[simp] theorem setKernel_parts (s : State) (i : Nat) (x : Option Kernel) : (s.setKernel i x).parts = s.parts := rfl
@[simp] theorem setKernel_dev (s : State) (i : Nat) (x : Option Kernel) : (s.setKernel i x).dev = s.dev := rfl

/-! ### modKernel -/

@[simp] theorem modKernel_now (s : State) (i : Nat) (f : Kernel → Kernel) : (s.modKernel i f).now = s.now := rfl
@[simp] theorem modKernel_wall (s : State) (i : Nat) (f : Kernel → Kernel) : (s.modKernel i f).wall = s.wall := rfl
@[simp] theorem modKernel_wallAt (s : State) (i : Nat) (f : Kernel → Kernel) : (s.modKernel i f).wallAt = s.wallAt := rfl
@[simp] theorem modKernel_cur (s : State) (i : Nat) (f : Kernel → Kernel) : (s.modKernel i f).cur = s.cur := rfl
@[simp] theorem modKernel_fresh (s : State) (i : Nat) (f : Kernel → Kernel) : (s.modKernel i f).fresh = s.fresh := rfl
@[simp] theorem modKernel_cmdNum (s : State) (i : Nat) (f : Kernel → Kernel) : (s.modKernel i f).cmdNum = s.cmdNum := rfl
@[simp] theorem modKernel_mesh (s : State) (i : Nat) (f : Kernel → Kernel) : (s.modKernel i f).mesh = s.mesh := rfl
@[simp] theorem modKernel_lastMsg (s : State) (i : Nat) (f : Kernel → Kernel) : (s.modKernel i f).lastMsg = s.lastMsg := rfl
@[simp] theorem modKernel_agenda (s : State) (i : Nat) (f : Kernel → Kernel) : (s.modKernel i f).agenda = s.agenda := rfl
@[simp] theorem modKernel_event (s : State) (i : Nat) (f : Kernel → Kernel) : (s.modKernel i f).event = s.event := rfl
@[simp] theorem modKernel_cores (s : State) (i : Nat) (f : Kernel → Kernel) : (s.modKernel i f).cores = s.cores := rfl
@[simp] theorem modKernel_lines (s : State) (i : Nat) (f : Kernel → Kernel) : (s.modKernel i f).lines = s.lines := rfl
@[simp] theorem modKernel_units (s : State) (i : Nat) (f : Kernel → Kernel) : (s.modKernel i f).units = s.units := rfl
@[simp] theorem modKernel_sc (s : State) (i : Nat) (f : Kernel → Kernel) : (s.modKernel i f).sc = s.sc := rfl
@[simp] theorem modKernel_bufs (s : State) (i : Nat) (f : Kernel → Kernel) : (s.modKernel i f).bufs = s.bufs := rfl
@[simp] theorem modKernel_cols (s : State) (i : Nat) (f : Kernel → Kernel) : (s.modKernel i f).cols = s.cols := rfl
@[simp] theorem modKernel_parts (s : State) (i : Nat) (f : Kernel → Kernel) : (s.modKernel i f).parts = s.parts := rfl
@[simp] theorem modKernel_dev (s : State) (i : Nat) (f : Kernel → Kernel) : (s.modKernel i f).dev = s.dev := rfl

/-! ### setTask -/

@[simp] theorem setTask_now (s : State) (i : Nat) (x : Option Task) : (s.setTask i x).now = s.now := rfl
@[simp] theorem setTask_wall (s : State) (i : Nat) (x : Option Task) : (s.setTask i x).wall = s.wall := rfl
@[simp] theorem setTask_wallAt (s : State) (i : Nat) (x : Option Task) : (s.setTask i x).wallAt = s.wallAt := rfl
@[simp] theorem setTask_cur (s : State) (i : Nat) (x : Option Task) : (s.setTask i x).cur = s.cur := rfl
@[simp] theorem setTask_fresh (s : State) (i : Nat) (x : Option Task) : (s.setTask i x).fresh = s.fresh := rfl
@[simp] theorem setTask_cmdNum (s : State) (i : Nat) (x : Option Task) : (s.setTask i x).cmdNum = s.cmdNum := rfl
@[simp] theorem setTask_mesh (s : State) (i : Nat) (x : Option Task) : (s.setTask i x).mesh = s.mesh := rfl
@[simp] theorem setTask_lastMsg (s : State) (i : Nat) (x : Option Task) : (s.setTask i x).lastMsg = s.lastMsg := rfl
@[simp] theorem setTask_agenda (s : State) (i : Nat) (x : Option Task) : (s.setTask i x).agenda = s.agenda := rfl
@[simp] theorem setTask_event (s : State) (i : Nat) (x : Option Task) : (s.setTask i x).event = s.event := rfl
@[simp] theorem setTask_cores (s : State) (i : Nat) (x : Option Task) : (s.setTask i x).cores = s.cores := rfl
@[simp] theorem setTask_lines (s : State) (i : Nat) (x : Option Task) : (s.setTask i x).lines = s.lines := rfl
@[simp] theorem setTask_units (s : State) (i : Nat) (x : Option Task) : (s.setTask i x).units = s.units := rfl
@[simp] theorem setTask_sc (s : State) (i : Nat) (x : Option Task) : (s.setTask i x).sc = s.sc := rfl
@[simp] theorem setTask_bufs (s : State) (i : Nat) (x : Option Task) : (s.setTask i x).bufs = s.bufs := rfl
@[simp] theorem setTask_cols (s : State) (i : Nat) (x : Option Task) : (s.setTask i x).cols = s.cols := rfl
@[simp] theorem setTask_parts (s : State) (i : Nat) (x : Option Task) : (s.setTask i x).parts = s.parts := rfl
@[simp] theorem setTask_dev (s : State) (i : Nat) (x : Option Task) : (s.setTask i x).dev = s.dev := rfl

/-! ### modTask -/

@[simp] theorem modTask_now (s : State) (i : Nat) (f : Task → Task) : (s.modTask i f).now = s.now := rfl
@[simp] theorem modTask_wall (s : State) (i : Nat) (f : Task → Task) : (s.modTask i f).wall = s.wall := rfl
@[simp] theorem modTask_wallAt (s : State) (i : Nat) (f : Task → Task) : (s.modTask i f).wallAt = s.wallAt := rfl
@[simp] theorem modTask_cur (s : State) (i : Nat) (f : Task → Task) : (s.modTask i f).cur = s.cur := rfl
@[simp] theorem modTask_fresh (s : State) (i : Nat) (f : Task → Task) : (s.modTask i f).fresh = s.fresh := rfl
@[simp] theorem modTask_cmdNum (s : State) (i : Nat) (f : Task → Task) : (s.modTask i f).cmdNum = s.cmdNum := rfl
@[simp] theorem modTask_mesh (s : State) (i : Nat) (f : Task → Task) : (s.modTask i f).mesh = s.mesh := rfl
@[simp] theorem modTask_lastMsg (s : State) (i : Nat) (f : Task → Task) : (s.modTask i f).lastMsg = s.lastMsg := rfl
@[simp] theorem modTask_agenda (s : State) (i : Nat) (f : Task → Task) : (s.modTask i f).agenda = s.agenda := rfl
@[simp] theorem modTask_event (s : State) (i : Nat) (f : Task → Task) : (s.modTask i f).event = s.event := rfl
@[simp] theorem modTask_cores (s : State) (i : Nat) (f : Task → Task) : (s.modTask i f).cores = s.cores := rfl
@[simp] theorem modTask_lines (s : State) (i : Nat) (f : Task → Task) : (s.modTask i f).lines = s.lines := rfl
@[simp] theorem modTask_units (s : State) (i : Nat) (f : Task → Task) : (s.modTask i f).units = s.units := rfl
@[simp] theorem modTask_sc (s : State) (i : Nat) (f : Task → Task) : (s.modTask i f).sc = s.sc := rfl
@[simp] theorem modTask_bufs (s : State) (i : Nat) (f : Task → Task) : (s.modTask i f).bufs = s.bufs := rfl
@[simp] theorem modTask_cols (s : State) (i : Nat) (f : Task → Task) : (s.modTask i f).cols = s.cols := rfl
@[simp] theorem modTask_parts (s : State) (i : Nat) (f : Task → Task) : (s.modTask i f).parts = s.parts := rfl
@[simp] theorem modTask_dev (s : State) (i : Nat) (f : Task → Task) : (s.modTask i f).dev = s.dev := rfl

/-! ### post -/

@[simp] theorem post_now (s : State) (t : Nat) (e : Event) : (s.post t e).now = s.now := rfl
@[simp] theorem post_wall (s : State) (t : Nat) (e : Event) : (s.post t e).wall = s.wall := rfl
@[simp] theorem post_wallAt (s : State) (t : Nat) (e : Event) : (s.post t e).wallAt = s.wallAt := rfl
@[simp] theorem post_cur (s : State) (t : Nat) (e : Event) : (s.post t e).cur = s.cur := rfl
@[simp] theorem post_fresh (s : State) (t : Nat) (e : Event) : (s.post t e).fresh = s.fresh := rfl
@[simp] theorem post_cmdNum (s : State) (t : Nat) (e : Event) : (s.post t e).cmdNum = s.cmdNum := rfl
@[simp] theorem post_mesh (s : State) (t : Nat) (e : Event) : (s.post t e).mesh = s.mesh := rfl
@[simp] theorem post_lastMsg (s : State) (t : Nat) (e : Event) : (s.post t e).lastMsg = s.lastMsg := rfl
@[simp] theorem post_event (s : State) (t : Nat) (e : Event) : (s.post t e).event = s.event := rfl
@[simp] theorem post_cores (s : State) (t : Nat) (e : Event) : (s.post t e).cores = s.cores := rfl
@[simp] theorem post_lines (s : State) (t : Nat) (e : Event) : (s.post t e).lines = s.lines := rfl
@[simp] theorem post_units (s : State) (t : Nat) (e : Event) : (s.post t e).units = s.units := rfl
@[simp] theorem post_sc (s : State) (t : Nat) (e : Event) : (s.post t e).sc = s.sc := rfl
@[simp] theorem post_bufs (s : State) (t : Nat) (e : Event) : (s.post t e).bufs = s.bufs := rfl
@[simp] theorem post_cols (s : State) (t : Nat) (e : Event) : (s.post t e).cols = s.cols := rfl
@[simp] theorem post_parts (s : State) (t : Nat) (e : Event) : (s.post t e).parts = s.parts := rfl
@[simp] theorem post_dev (s : State) (t : Nat) (e : Event) : (s.post t e).dev = s.dev := rfl
@[simp] theorem post_gaf (s : State) (t : Nat) (e : Event) : (s.post t e).gaf = s.gaf := rfl

/-! ### cancel -/

@[simp] theorem cancel_now (s : State) (e : Event) : (s.cancel e).now = s.now := rfl
@[simp] theorem cancel_wall (s : State) (e : Event) : (s.cancel e).wall = s.wall := rfl
@[simp] theorem cancel_wallAt (s : State) (e : Event) : (s.cancel e).wallAt = s.wallAt := rfl
@[simp] theorem cancel_cur (s : State) (e : Event) : (s.cancel e).cur = s.cur := rfl
@[simp] theorem cancel_fresh (s : State) (e : Event) : (s.cancel e).fresh = s.fresh := rfl
@[simp] theorem cancel_cmdNum (s : State) (e : Event) : (s.cancel e).cmdNum = s.cmdNum := rfl
@[simp] theorem cancel_mesh (s : State) (e : Event) : (s.cancel e).mesh = s.mesh := rfl
@[simp] theorem cancel_lastMsg (s : State) (e : Event) : (s.cancel e).lastMsg = s.lastMsg := rfl
@[simp] theorem cancel_event (s : State) (e : Event) : (s.cancel e).event = s.event := rfl
@[simp] theorem cancel_cores (s : State) (e : Event) : (s.cancel e).cores = s.cores := rfl
@[simp] theorem cancel_lines (s : State) (e : Event) : (s.cancel e).lines = s.lines := rfl
@[simp] theorem cancel_units (s : State) (e : Event) : (s.cancel e).units = s.units := rfl
@[simp] theorem cancel_sc (s : State) (e : Event) : (s.cancel e).sc = s.sc := rfl
@[simp] theorem cancel_bufs (s : State) (e : Event) : (s.cancel e).bufs = s.bufs := rfl
@[simp] theorem cancel_cols (s : State) (e : Event) : (s.cancel e).cols = s.cols := rfl
@[simp] theorem cancel_parts (s : State) (e : Event) : (s.cancel e).parts = s.parts := rfl
@[simp] theorem cancel_dev (s : State) (e : Event) : (s.cancel e).dev = s.dev := rfl
@[simp] theorem cancel_gaf (s : State) (e : Event) : (s.cancel e).gaf = s.gaf := rfl

/-! ### modFabric -/

@[simp] theorem modFabric_now (s : State) (f : Fabric → Fabric) : (s.modFabric f).now = s.now := rfl
@[simp] theorem modFabric_wall (s : State) (f : Fabric → Fabric) : (s.modFabric f).wall = s.wall := rfl
@[simp] theorem modFabric_wallAt (s : State) (f : Fabric → Fabric) : (s.modFabric f).wallAt = s.wallAt := rfl
@[simp] theorem modFabric_cur (s : State) (f : Fabric → Fabric) : (s.modFabric f).cur = s.cur := rfl
@[simp] theorem modFabric_fresh (s : State) (f : Fabric → Fabric) : (s.modFabric f).fresh = s.fresh := rfl
@[simp] theorem modFabric_cmdNum (s : State) (f : Fabric → Fabric) : (s.modFabric f).cmdNum = s.cmdNum := rfl
@[simp] theorem modFabric_mesh (s : State) (f : Fabric → Fabric) : (s.modFabric f).mesh = s.mesh := rfl
@[simp] theorem modFabric_lastMsg (s : State) (f : Fabric → Fabric) : (s.modFabric f).lastMsg = s.lastMsg := rfl
@[simp] theorem modFabric_agenda (s : State) (f : Fabric → Fabric) : (s.modFabric f).agenda = s.agenda := rfl
@[simp] theorem modFabric_event (s : State) (f : Fabric → Fabric) : (s.modFabric f).event = s.event := rfl
@[simp] theorem modFabric_cores (s : State) (f : Fabric → Fabric) : (s.modFabric f).cores = s.cores := rfl
@[simp] theorem modFabric_lines (s : State) (f : Fabric → Fabric) : (s.modFabric f).lines = s.lines := rfl
@[simp] theorem modFabric_units (s : State) (f : Fabric → Fabric) : (s.modFabric f).units = s.units := rfl
@[simp] theorem modFabric_sc (s : State) (f : Fabric → Fabric) : (s.modFabric f).sc = s.sc := rfl
@[simp] theorem modFabric_bufs (s : State) (f : Fabric → Fabric) : (s.modFabric f).bufs = s.bufs := rfl
@[simp] theorem modFabric_cols (s : State) (f : Fabric → Fabric) : (s.modFabric f).cols = s.cols := rfl
@[simp] theorem modFabric_parts (s : State) (f : Fabric → Fabric) : (s.modFabric f).parts = s.parts := rfl
@[simp] theorem modFabric_gaf (s : State) (f : Fabric → Fabric) : (s.modFabric f).gaf = s.gaf := rfl
@[simp] theorem modFabric_fabric (s : State) (f : Fabric → Fabric) : (s.modFabric f).dev.fabric = f s.dev.fabric := rfl

/-! ### count -/

@[simp] theorem count_now (s : State) (k n : Nat) : (s.count k n).now = s.now := by unfold State.count; split <;> rfl
@[simp] theorem count_wall (s : State) (k n : Nat) : (s.count k n).wall = s.wall := by unfold State.count; split <;> rfl
@[simp] theorem count_wallAt (s : State) (k n : Nat) : (s.count k n).wallAt = s.wallAt := by unfold State.count; split <;> rfl
@[simp] theorem count_cur (s : State) (k n : Nat) : (s.count k n).cur = s.cur := by unfold State.count; split <;> rfl
@[simp] theorem count_fresh (s : State) (k n : Nat) : (s.count k n).fresh = s.fresh := by unfold State.count; split <;> rfl
@[simp] theorem count_cmdNum (s : State) (k n : Nat) : (s.count k n).cmdNum = s.cmdNum := by unfold State.count; split <;> rfl
@[simp] theorem count_mesh (s : State) (k n : Nat) : (s.count k n).mesh = s.mesh := by unfold State.count; split <;> rfl
@[simp] theorem count_lastMsg (s : State) (k n : Nat) : (s.count k n).lastMsg = s.lastMsg := by unfold State.count; split <;> rfl
@[simp] theorem count_agenda (s : State) (k n : Nat) : (s.count k n).agenda = s.agenda := by unfold State.count; split <;> rfl
@[simp] theorem count_event (s : State) (k n : Nat) : (s.count k n).event = s.event := by unfold State.count; split <;> rfl
@[simp] theorem count_cores (s : State) (k n : Nat) : (s.count k n).cores = s.cores := by unfold State.count; split <;> rfl
@[simp] theorem count_lines (s : State) (k n : Nat) : (s.count k n).lines = s.lines := by unfold State.count; split <;> rfl
@[simp] theorem count_units (s : State) (k n : Nat) : (s.count k n).units = s.units := by unfold State.count; split <;> rfl
@[simp] theorem count_sc (s : State) (k n : Nat) : (s.count k n).sc = s.sc := by unfold State.count; split <;> rfl
@[simp] theorem count_bufs (s : State) (k n : Nat) : (s.count k n).bufs = s.bufs := by unfold State.count; split <;> rfl
@[simp] theorem count_parts (s : State) (k n : Nat) : (s.count k n).parts = s.parts := by unfold State.count; split <;> rfl
@[simp] theorem count_dev (s : State) (k n : Nat) : (s.count k n).dev = s.dev := by unfold State.count; split <;> rfl
@[simp] theorem count_gaf (s : State) (k n : Nat) : (s.count k n).gaf = s.gaf := by unfold State.count; split <;> rfl

/-! ### Core.setCtx -/

@[simp] theorem setCtx_near (c : Core) (i : Nat) (y : Ctx) : (c.setCtx i y).near = c.near := rfl
@[simp] theorem setCtx_poison (c : Core) (i : Nat) (y : Ctx) : (c.setCtx i y).poison = c.poison := rfl
@[simp] theorem setCtx_store (c : Core) (i : Nat) (y : Ctx) : (c.setCtx i y).store = c.store := rfl
@[simp] theorem setCtx_tags (c : Core) (i : Nat) (y : Ctx) : (c.setCtx i y).tags = c.tags := rfl
@[simp] theorem setCtx_vptr (c : Core) (i : Nat) (y : Ctx) : (c.setCtx i y).vptr = c.vptr := rfl
@[simp] theorem setCtx_ctab (c : Core) (i : Nat) (y : Ctx) : (c.setCtx i y).ctab = c.ctab := rfl
@[simp] theorem setCtx_pend (c : Core) (i : Nat) (y : Ctx) : (c.setCtx i y).pend = c.pend := rfl
@[simp] theorem setCtx_slice (c : Core) (i : Nat) (y : Ctx) : (c.setCtx i y).slice = c.slice := rfl
@[simp] theorem setCtx_xu (c : Core) (i : Nat) (y : Ctx) : (c.setCtx i y).xu = c.xu := rfl
@[simp] theorem setCtx_vert (c : Core) (i : Nat) (y : Ctx) : (c.setCtx i y).vert = c.vert := rfl
@[simp] theorem setCtx_ctl (c : Core) (i : Nat) (y : Ctx) : (c.setCtx i y).ctl = c.ctl := rfl

/-! ### Core.modCtx -/

@[simp] theorem coreModCtx_near (c : Core) (i : Nat) (f : Ctx → Ctx) : (c.modCtx i f).near = c.near := rfl
@[simp] theorem coreModCtx_poison (c : Core) (i : Nat) (f : Ctx → Ctx) : (c.modCtx i f).poison = c.poison := rfl
@[simp] theorem coreModCtx_store (c : Core) (i : Nat) (f : Ctx → Ctx) : (c.modCtx i f).store = c.store := rfl
@[simp] theorem coreModCtx_tags (c : Core) (i : Nat) (f : Ctx → Ctx) : (c.modCtx i f).tags = c.tags := rfl
@[simp] theorem coreModCtx_vptr (c : Core) (i : Nat) (f : Ctx → Ctx) : (c.modCtx i f).vptr = c.vptr := rfl
@[simp] theorem coreModCtx_ctab (c : Core) (i : Nat) (f : Ctx → Ctx) : (c.modCtx i f).ctab = c.ctab := rfl
@[simp] theorem coreModCtx_pend (c : Core) (i : Nat) (f : Ctx → Ctx) : (c.modCtx i f).pend = c.pend := rfl
@[simp] theorem coreModCtx_slice (c : Core) (i : Nat) (f : Ctx → Ctx) : (c.modCtx i f).slice = c.slice := rfl
@[simp] theorem coreModCtx_xu (c : Core) (i : Nat) (f : Ctx → Ctx) : (c.modCtx i f).xu = c.xu := rfl
@[simp] theorem coreModCtx_vert (c : Core) (i : Nat) (f : Ctx → Ctx) : (c.modCtx i f).vert = c.vert := rfl
@[simp] theorem coreModCtx_ctl (c : Core) (i : Nat) (f : Ctx → Ctx) : (c.modCtx i f).ctl = c.ctl := rfl

/-! ### Core.storeN -/

@[simp] theorem storeN_store (c : Core) (t a : Nat) (bs : List Byte) (sub : Bool) : (c.storeN t a bs sub).store = c.store := rfl
@[simp] theorem storeN_tags (c : Core) (t a : Nat) (bs : List Byte) (sub : Bool) : (c.storeN t a bs sub).tags = c.tags := rfl
@[simp] theorem storeN_vptr (c : Core) (t a : Nat) (bs : List Byte) (sub : Bool) : (c.storeN t a bs sub).vptr = c.vptr := rfl
@[simp] theorem storeN_ctab (c : Core) (t a : Nat) (bs : List Byte) (sub : Bool) : (c.storeN t a bs sub).ctab = c.ctab := rfl
@[simp] theorem storeN_ctxs (c : Core) (t a : Nat) (bs : List Byte) (sub : Bool) : (c.storeN t a bs sub).ctxs = c.ctxs := rfl
@[simp] theorem storeN_pend (c : Core) (t a : Nat) (bs : List Byte) (sub : Bool) : (c.storeN t a bs sub).pend = c.pend := rfl
@[simp] theorem storeN_slice (c : Core) (t a : Nat) (bs : List Byte) (sub : Bool) : (c.storeN t a bs sub).slice = c.slice := rfl
@[simp] theorem storeN_xu (c : Core) (t a : Nat) (bs : List Byte) (sub : Bool) : (c.storeN t a bs sub).xu = c.xu := rfl
@[simp] theorem storeN_vert (c : Core) (t a : Nat) (bs : List Byte) (sub : Bool) : (c.storeN t a bs sub).vert = c.vert := rfl
@[simp] theorem storeN_ctl (c : Core) (t a : Nat) (bs : List Byte) (sub : Bool) : (c.storeN t a bs sub).ctl = c.ctl := rfl

/-! ### Core.portWrite -/

@[simp] theorem portWrite_store (c : Core) (a : Nat) (bs : List Byte) : (c.portWrite a bs).store = c.store := rfl
@[simp] theorem portWrite_tags (c : Core) (a : Nat) (bs : List Byte) : (c.portWrite a bs).tags = c.tags := rfl
@[simp] theorem portWrite_vptr (c : Core) (a : Nat) (bs : List Byte) : (c.portWrite a bs).vptr = c.vptr := rfl
@[simp] theorem portWrite_ctab (c : Core) (a : Nat) (bs : List Byte) : (c.portWrite a bs).ctab = c.ctab := rfl
@[simp] theorem portWrite_ctxs (c : Core) (a : Nat) (bs : List Byte) : (c.portWrite a bs).ctxs = c.ctxs := rfl
@[simp] theorem portWrite_pend (c : Core) (a : Nat) (bs : List Byte) : (c.portWrite a bs).pend = c.pend := rfl
@[simp] theorem portWrite_slice (c : Core) (a : Nat) (bs : List Byte) : (c.portWrite a bs).slice = c.slice := rfl
@[simp] theorem portWrite_xu (c : Core) (a : Nat) (bs : List Byte) : (c.portWrite a bs).xu = c.xu := rfl
@[simp] theorem portWrite_vert (c : Core) (a : Nat) (bs : List Byte) : (c.portWrite a bs).vert = c.vert := rfl
@[simp] theorem portWrite_ctl (c : Core) (a : Nat) (bs : List Byte) : (c.portWrite a bs).ctl = c.ctl := rfl

/-! ### Core.poisonWord -/

@[simp] theorem poisonWord_near (c : Core) (a : Nat) : (c.poisonWord a).near = c.near := rfl
@[simp] theorem poisonWord_store (c : Core) (a : Nat) : (c.poisonWord a).store = c.store := rfl
@[simp] theorem poisonWord_tags (c : Core) (a : Nat) : (c.poisonWord a).tags = c.tags := rfl
@[simp] theorem poisonWord_vptr (c : Core) (a : Nat) : (c.poisonWord a).vptr = c.vptr := rfl
@[simp] theorem poisonWord_ctab (c : Core) (a : Nat) : (c.poisonWord a).ctab = c.ctab := rfl
@[simp] theorem poisonWord_ctxs (c : Core) (a : Nat) : (c.poisonWord a).ctxs = c.ctxs := rfl
@[simp] theorem poisonWord_pend (c : Core) (a : Nat) : (c.poisonWord a).pend = c.pend := rfl
@[simp] theorem poisonWord_slice (c : Core) (a : Nat) : (c.poisonWord a).slice = c.slice := rfl
@[simp] theorem poisonWord_xu (c : Core) (a : Nat) : (c.poisonWord a).xu = c.xu := rfl
@[simp] theorem poisonWord_vert (c : Core) (a : Nat) : (c.poisonWord a).vert = c.vert := rfl
@[simp] theorem poisonWord_ctl (c : Core) (a : Nat) : (c.poisonWord a).ctl = c.ctl := rfl

/-! ### Reading back -/

theorem core_setCore (s : State) (k j : Nat) (c : Core) : (s.setCore k c).core j = if k = j then c else s.core j :=
  sget_sset _ _ _ _ _

@[simp] theorem core_setCore_same (s : State) (k : Nat) (c : Core) : (s.setCore k c).core k = c := by
  simp [core_setCore]

theorem core_modCore (s : State) (k j : Nat) (f : Core → Core) :
    (s.modCore k f).core j = if k = j then f (s.core k) else s.core j := core_setCore _ _ _ _

@[simp] theorem core_modCore_same (s : State) (k : Nat) (f : Core → Core) : (s.modCore k f).core k = f (s.core k) := by
  simp [core_modCore]

theorem core_modCore_other (s : State) {k j : Nat} (f : Core → Core) (h : k ≠ j) :
    (s.modCore k f).core j = s.core j := by simp [core_modCore, h]

theorem ctx_setCtx (c : Core) (i j : Nat) (x : Ctx) : (c.setCtx i x).ctx j = if i = j then x else c.ctx j :=
  sget_sset _ _ _ _ _

theorem ctx_modCtx (c : Core) (i j : Nat) (f : Ctx → Ctx) :
    (c.modCtx i f).ctx j = if i = j then f (c.ctx i) else c.ctx j := ctx_setCtx _ _ _ _

@[simp] theorem ctx_modCtx_same (c : Core) (i : Nat) (f : Ctx → Ctx) : (c.modCtx i f).ctx i = f (c.ctx i) := by
  simp [ctx_modCtx]

theorem ctx_modCtx_other (c : Core) {i j : Nat} (f : Ctx → Ctx) (h : i ≠ j) : (c.modCtx i f).ctx j = c.ctx j := by
  simp [ctx_modCtx, h]

@[simp] theorem state_ctx_modCtx_same (s : State) (q : Nat × Nat) (f : Ctx → Ctx) :
    (s.modCtx q f).ctx q = f (s.ctx q) := by
  simp [State.ctx, State.modCtx]

theorem state_ctx_modCtx (s : State) (q r : Nat × Nat) (f : Ctx → Ctx) :
    (s.modCtx q f).ctx r = if q = r then f (s.ctx q) else s.ctx r := by
  obtain ⟨k, i⟩ := q
  obtain ⟨l, j⟩ := r
  by_cases h : k = l
  · subst h
    by_cases h' : i = j <;> simp [State.ctx, State.modCtx, ctx_modCtx, h']
  · simp [State.ctx, State.modCtx, core_modCore, h]

@[simp] theorem state_ctx_modCtl (s : State) (k : Nat) (q : Nat × Nat) (f : Ctl → Ctl) :
    (s.modCtl k f).ctx q = s.ctx q := by
  by_cases h : k = q.1 <;> simp [State.ctx, State.modCtl, core_modCore, h, Core.ctx]

theorem line_modLine (s : State) (l j : Nat) (f : EvLine → EvLine) :
    (s.modLine l f).line j = if l = j then f (s.line l) else s.line j := sget_sset _ _ _ _ _

theorem col_modCol (s : State) (l j : Nat) (f : Column → Column) :
    (s.modCol l f).col j = if l = j then f (s.col l) else s.col j := sget_sset _ _ _ _ _

theorem part_modPart (s : State) (l j : Nat) (f : Part → Part) :
    (s.modPart l f).part j = if l = j then f (s.part l) else s.part j := sget_sset _ _ _ _ _

theorem kernel_setKernel (s : State) (i j : Nat) (k : Option Kernel) :
    (s.setKernel i k).kernel j = if i = j then k else s.kernel j := sget_sset _ _ _ _ _

theorem task_setTask (s : State) (i j : Nat) (t : Option Task) :
    (s.setTask i t).task j = if i = j then t else s.task j := sget_sset _ _ _ _ _

end Sys2Proof.Laws
end

