-- ==== Sys2Proof/Laws/Device.lean ====
section
/-! SUPPORT. What the updates of device registers, extents, ports, flows, command slots and of near memory by a port leave
alone, field by field, what they read back as, and when settling a core does nothing. -/

namespace Sys2Proof.Laws

open Sys2Proof.Machine

/-! ### modPower -/

@[simp] theorem modPower_now (s : State) (f : Power → Power) : (s.modPower f).now = s.now := rfl
@[simp] theorem modPower_wall (s : State) (f : Power → Power) : (s.modPower f).wall = s.wall := rfl
@[simp] theorem modPower_wallAt (s : State) (f : Power → Power) : (s.modPower f).wallAt = s.wallAt := rfl
@[simp] theorem modPower_cur (s : State) (f : Power → Power) : (s.modPower f).cur = s.cur := rfl
@[simp] theorem modPower_fresh (s : State) (f : Power → Power) : (s.modPower f).fresh = s.fresh := rfl
@[simp] theorem modPower_cmdNum (s : State) (f : Power → Power) : (s.modPower f).cmdNum = s.cmdNum := rfl
@[simp] theorem modPower_mesh (s : State) (f : Power → Power) : (s.modPower f).mesh = s.mesh := rfl
@[simp] theorem modPower_lastMsg (s : State) (f : Power → Power) : (s.modPower f).lastMsg = s.lastMsg := rfl
@[simp] theorem modPower_agenda (s : State) (f : Power → Power) : (s.modPower f).agenda = s.agenda := rfl
@[simp] theorem modPower_event (s : State) (f : Power → Power) : (s.modPower f).event = s.event := rfl
@[simp] theorem modPower_cores (s : State) (f : Power → Power) : (s.modPower f).cores = s.cores := rfl
@[simp] theorem modPower_lines (s : State) (f : Power → Power) : (s.modPower f).lines = s.lines := rfl
@[simp] theorem modPower_units (s : State) (f : Power → Power) : (s.modPower f).units = s.units := rfl
@[simp] theorem modPower_sc (s : State) (f : Power → Power) : (s.modPower f).sc = s.sc := rfl
@[simp] theorem modPower_bufs (s : State) (f : Power → Power) : (s.modPower f).bufs = s.bufs := rfl
@[simp] theorem modPower_cols (s : State) (f : Power → Power) : (s.modPower f).cols = s.cols := rfl
@[simp] theorem modPower_parts (s : State) (f : Power → Power) : (s.modPower f).parts = s.parts := rfl
@[simp] theorem modPower_gaf (s : State) (f : Power → Power) : (s.modPower f).gaf = s.gaf := rfl

/-! ### modExtent -/

@[simp] theorem modExtent_now (s : State) (e : Nat) (f : Extent → Extent) : (s.modExtent e f).now = s.now := rfl
@[simp] theorem modExtent_wall (s : State) (e : Nat) (f : Extent → Extent) : (s.modExtent e f).wall = s.wall := rfl
@[simp] theorem modExtent_wallAt (s : State) (e : Nat) (f : Extent → Extent) : (s.modExtent e f).wallAt = s.wallAt := rfl
@[simp] theorem modExtent_cur (s : State) (e : Nat) (f : Extent → Extent) : (s.modExtent e f).cur = s.cur := rfl
@[simp] theorem modExtent_fresh (s : State) (e : Nat) (f : Extent → Extent) : (s.modExtent e f).fresh = s.fresh := rfl
@[simp] theorem modExtent_cmdNum (s : State) (e : Nat) (f : Extent → Extent) : (s.modExtent e f).cmdNum = s.cmdNum := rfl
@[simp] theorem modExtent_mesh (s : State) (e : Nat) (f : Extent → Extent) : (s.modExtent e f).mesh = s.mesh := rfl
@[simp] theorem modExtent_lastMsg (s : State) (e : Nat) (f : Extent → Extent) : (s.modExtent e f).lastMsg = s.lastMsg := rfl
@[simp] theorem modExtent_agenda (s : State) (e : Nat) (f : Extent → Extent) : (s.modExtent e f).agenda = s.agenda := rfl
@[simp] theorem modExtent_event (s : State) (e : Nat) (f : Extent → Extent) : (s.modExtent e f).event = s.event := rfl
@[simp] theorem modExtent_cores (s : State) (e : Nat) (f : Extent → Extent) : (s.modExtent e f).cores = s.cores := rfl
@[simp] theorem modExtent_lines (s : State) (e : Nat) (f : Extent → Extent) : (s.modExtent e f).lines = s.lines := rfl
@[simp] theorem modExtent_units (s : State) (e : Nat) (f : Extent → Extent) : (s.modExtent e f).units = s.units := rfl
@[simp] theorem modExtent_sc (s : State) (e : Nat) (f : Extent → Extent) : (s.modExtent e f).sc = s.sc := rfl
@[simp] theorem modExtent_bufs (s : State) (e : Nat) (f : Extent → Extent) : (s.modExtent e f).bufs = s.bufs := rfl
@[simp] theorem modExtent_cols (s : State) (e : Nat) (f : Extent → Extent) : (s.modExtent e f).cols = s.cols := rfl
@[simp] theorem modExtent_parts (s : State) (e : Nat) (f : Extent → Extent) : (s.modExtent e f).parts = s.parts := rfl
@[simp] theorem modExtent_gaf (s : State) (e : Nat) (f : Extent → Extent) : (s.modExtent e f).gaf = s.gaf := rfl

/-! ### modPort -/

@[simp] theorem modPort_now (s : State) (p : Nat) (f : Port → Port) : (s.modPort p f).now = s.now := rfl
@[simp] theorem modPort_wall (s : State) (p : Nat) (f : Port → Port) : (s.modPort p f).wall = s.wall := rfl
@[simp] theorem modPort_wallAt (s : State) (p : Nat) (f : Port → Port) : (s.modPort p f).wallAt = s.wallAt := rfl
@[simp] theorem modPort_cur (s : State) (p : Nat) (f : Port → Port) : (s.modPort p f).cur = s.cur := rfl
@[simp] theorem modPort_fresh (s : State) (p : Nat) (f : Port → Port) : (s.modPort p f).fresh = s.fresh := rfl
@[simp] theorem modPort_cmdNum (s : State) (p : Nat) (f : Port → Port) : (s.modPort p f).cmdNum = s.cmdNum := rfl
@[simp] theorem modPort_mesh (s : State) (p : Nat) (f : Port → Port) : (s.modPort p f).mesh = s.mesh := rfl
@[simp] theorem modPort_lastMsg (s : State) (p : Nat) (f : Port → Port) : (s.modPort p f).lastMsg = s.lastMsg := rfl
@[simp] theorem modPort_agenda (s : State) (p : Nat) (f : Port → Port) : (s.modPort p f).agenda = s.agenda := rfl
@[simp] theorem modPort_event (s : State) (p : Nat) (f : Port → Port) : (s.modPort p f).event = s.event := rfl
@[simp] theorem modPort_cores (s : State) (p : Nat) (f : Port → Port) : (s.modPort p f).cores = s.cores := rfl
@[simp] theorem modPort_lines (s : State) (p : Nat) (f : Port → Port) : (s.modPort p f).lines = s.lines := rfl
@[simp] theorem modPort_units (s : State) (p : Nat) (f : Port → Port) : (s.modPort p f).units = s.units := rfl
@[simp] theorem modPort_sc (s : State) (p : Nat) (f : Port → Port) : (s.modPort p f).sc = s.sc := rfl
@[simp] theorem modPort_bufs (s : State) (p : Nat) (f : Port → Port) : (s.modPort p f).bufs = s.bufs := rfl
@[simp] theorem modPort_cols (s : State) (p : Nat) (f : Port → Port) : (s.modPort p f).cols = s.cols := rfl
@[simp] theorem modPort_parts (s : State) (p : Nat) (f : Port → Port) : (s.modPort p f).parts = s.parts := rfl
@[simp] theorem modPort_gaf (s : State) (p : Nat) (f : Port → Port) : (s.modPort p f).gaf = s.gaf := rfl

/-! ### modFlow -/

@[simp] theorem modFlow_now (s : State) (key : Nat) (f : RxFlow → RxFlow) : (s.modFlow key f).now = s.now := rfl
@[simp] theorem modFlow_wall (s : State) (key : Nat) (f : RxFlow → RxFlow) : (s.modFlow key f).wall = s.wall := rfl
@[simp] theorem modFlow_wallAt (s : State) (key : Nat) (f : RxFlow → RxFlow) : (s.modFlow key f).wallAt = s.wallAt := rfl
@[simp] theorem modFlow_cur (s : State) (key : Nat) (f : RxFlow → RxFlow) : (s.modFlow key f).cur = s.cur := rfl
@[simp] theorem modFlow_fresh (s : State) (key : Nat) (f : RxFlow → RxFlow) : (s.modFlow key f).fresh = s.fresh := rfl
@[simp] theorem modFlow_cmdNum (s : State) (key : Nat) (f : RxFlow → RxFlow) : (s.modFlow key f).cmdNum = s.cmdNum := rfl
@[simp] theorem modFlow_mesh (s : State) (key : Nat) (f : RxFlow → RxFlow) : (s.modFlow key f).mesh = s.mesh := rfl
@[simp] theorem modFlow_lastMsg (s : State) (key : Nat) (f : RxFlow → RxFlow) : (s.modFlow key f).lastMsg = s.lastMsg := rfl
@[simp] theorem modFlow_agenda (s : State) (key : Nat) (f : RxFlow → RxFlow) : (s.modFlow key f).agenda = s.agenda := rfl
@[simp] theorem modFlow_event (s : State) (key : Nat) (f : RxFlow → RxFlow) : (s.modFlow key f).event = s.event := rfl
@[simp] theorem modFlow_cores (s : State) (key : Nat) (f : RxFlow → RxFlow) : (s.modFlow key f).cores = s.cores := rfl
@[simp] theorem modFlow_lines (s : State) (key : Nat) (f : RxFlow → RxFlow) : (s.modFlow key f).lines = s.lines := rfl
@[simp] theorem modFlow_units (s : State) (key : Nat) (f : RxFlow → RxFlow) : (s.modFlow key f).units = s.units := rfl
@[simp] theorem modFlow_sc (s : State) (key : Nat) (f : RxFlow → RxFlow) : (s.modFlow key f).sc = s.sc := rfl
@[simp] theorem modFlow_bufs (s : State) (key : Nat) (f : RxFlow → RxFlow) : (s.modFlow key f).bufs = s.bufs := rfl
@[simp] theorem modFlow_cols (s : State) (key : Nat) (f : RxFlow → RxFlow) : (s.modFlow key f).cols = s.cols := rfl
@[simp] theorem modFlow_parts (s : State) (key : Nat) (f : RxFlow → RxFlow) : (s.modFlow key f).parts = s.parts := rfl
@[simp] theorem modFlow_gaf (s : State) (key : Nat) (f : RxFlow → RxFlow) : (s.modFlow key f).gaf = s.gaf := rfl

/-! ### setSlot -/

@[simp] theorem setSlot_now (s : State) (col i : Nat) (x : Option Slot) : (s.setSlot col i x).now = s.now := rfl
@[simp] theorem setSlot_wall (s : State) (col i : Nat) (x : Option Slot) : (s.setSlot col i x).wall = s.wall := rfl
@[simp] theorem setSlot_wallAt (s : State) (col i : Nat) (x : Option Slot) : (s.setSlot col i x).wallAt = s.wallAt := rfl
@[simp] theorem setSlot_cur (s : State) (col i : Nat) (x : Option Slot) : (s.setSlot col i x).cur = s.cur := rfl
@[simp] theorem setSlot_fresh (s : State) (col i : Nat) (x : Option Slot) : (s.setSlot col i x).fresh = s.fresh := rfl
@[simp] theorem setSlot_cmdNum (s : State) (col i : Nat) (x : Option Slot) : (s.setSlot col i x).cmdNum = s.cmdNum := rfl
@[simp] theorem setSlot_mesh (s : State) (col i : Nat) (x : Option Slot) : (s.setSlot col i x).mesh = s.mesh := rfl
@[simp] theorem setSlot_lastMsg (s : State) (col i : Nat) (x : Option Slot) : (s.setSlot col i x).lastMsg = s.lastMsg := rfl
@[simp] theorem setSlot_agenda (s : State) (col i : Nat) (x : Option Slot) : (s.setSlot col i x).agenda = s.agenda := rfl
@[simp] theorem setSlot_event (s : State) (col i : Nat) (x : Option Slot) : (s.setSlot col i x).event = s.event := rfl
@[simp] theorem setSlot_cores (s : State) (col i : Nat) (x : Option Slot) : (s.setSlot col i x).cores = s.cores := rfl
@[simp] theorem setSlot_lines (s : State) (col i : Nat) (x : Option Slot) : (s.setSlot col i x).lines = s.lines := rfl
@[simp] theorem setSlot_units (s : State) (col i : Nat) (x : Option Slot) : (s.setSlot col i x).units = s.units := rfl
@[simp] theorem setSlot_sc (s : State) (col i : Nat) (x : Option Slot) : (s.setSlot col i x).sc = s.sc := rfl
@[simp] theorem setSlot_bufs (s : State) (col i : Nat) (x : Option Slot) : (s.setSlot col i x).bufs = s.bufs := rfl
@[simp] theorem setSlot_parts (s : State) (col i : Nat) (x : Option Slot) : (s.setSlot col i x).parts = s.parts := rfl
@[simp] theorem setSlot_dev (s : State) (col i : Nat) (x : Option Slot) : (s.setSlot col i x).dev = s.dev := rfl
@[simp] theorem setSlot_gaf (s : State) (col i : Nat) (x : Option Slot) : (s.setSlot col i x).gaf = s.gaf := rfl

/-! ### modSlot -/

@[simp] theorem modSlot_now (s : State) (col i : Nat) (f : Slot → Slot) : (s.modSlot col i f).now = s.now := rfl
@[simp] theorem modSlot_wall (s : State) (col i : Nat) (f : Slot → Slot) : (s.modSlot col i f).wall = s.wall := rfl
@[simp] theorem modSlot_wallAt (s : State) (col i : Nat) (f : Slot → Slot) : (s.modSlot col i f).wallAt = s.wallAt := rfl
@[simp] theorem modSlot_cur (s : State) (col i : Nat) (f : Slot → Slot) : (s.modSlot col i f).cur = s.cur := rfl
@[simp] theorem modSlot_fresh (s : State) (col i : Nat) (f : Slot → Slot) : (s.modSlot col i f).fresh = s.fresh := rfl
@[simp] theorem modSlot_cmdNum (s : State) (col i : Nat) (f : Slot → Slot) : (s.modSlot col i f).cmdNum = s.cmdNum := rfl
@[simp] theorem modSlot_mesh (s : State) (col i : Nat) (f : Slot → Slot) : (s.modSlot col i f).mesh = s.mesh := rfl
@[simp] theorem modSlot_lastMsg (s : State) (col i : Nat) (f : Slot → Slot) : (s.modSlot col i f).lastMsg = s.lastMsg := rfl
@[simp] theorem modSlot_agenda (s : State) (col i : Nat) (f : Slot → Slot) : (s.modSlot col i f).agenda = s.agenda := rfl
@[simp] theorem modSlot_event (s : State) (col i : Nat) (f : Slot → Slot) : (s.modSlot col i f).event = s.event := rfl
@[simp] theorem modSlot_cores (s : State) (col i : Nat) (f : Slot → Slot) : (s.modSlot col i f).cores = s.cores := rfl
@[simp] theorem modSlot_lines (s : State) (col i : Nat) (f : Slot → Slot) : (s.modSlot col i f).lines = s.lines := rfl
@[simp] theorem modSlot_units (s : State) (col i : Nat) (f : Slot → Slot) : (s.modSlot col i f).units = s.units := rfl
@[simp] theorem modSlot_sc (s : State) (col i : Nat) (f : Slot → Slot) : (s.modSlot col i f).sc = s.sc := rfl
@[simp] theorem modSlot_bufs (s : State) (col i : Nat) (f : Slot → Slot) : (s.modSlot col i f).bufs = s.bufs := rfl
@[simp] theorem modSlot_parts (s : State) (col i : Nat) (f : Slot → Slot) : (s.modSlot col i f).parts = s.parts := rfl
@[simp] theorem modSlot_dev (s : State) (col i : Nat) (f : Slot → Slot) : (s.modSlot col i f).dev = s.dev := rfl
@[simp] theorem modSlot_gaf (s : State) (col i : Nat) (f : Slot → Slot) : (s.modSlot col i f).gaf = s.gaf := rfl

/-! ### portStore -/

@[simp] theorem portStore_now (s : State) (w : Writer) (k port a : Nat) (bs : List Byte) (bad : List Nat) : (s.portStore w k port a bs bad).now = s.now := rfl
@[simp] theorem portStore_wall (s : State) (w : Writer) (k port a : Nat) (bs : List Byte) (bad : List Nat) : (s.portStore w k port a bs bad).wall = s.wall := rfl
@[simp] theorem portStore_wallAt (s : State) (w : Writer) (k port a : Nat) (bs : List Byte) (bad : List Nat) : (s.portStore w k port a bs bad).wallAt = s.wallAt := rfl
@[simp] theorem portStore_cur (s : State) (w : Writer) (k port a : Nat) (bs : List Byte) (bad : List Nat) : (s.portStore w k port a bs bad).cur = s.cur := rfl
@[simp] theorem portStore_fresh (s : State) (w : Writer) (k port a : Nat) (bs : List Byte) (bad : List Nat) : (s.portStore w k port a bs bad).fresh = s.fresh := rfl
@[simp] theorem portStore_cmdNum (s : State) (w : Writer) (k port a : Nat) (bs : List Byte) (bad : List Nat) : (s.portStore w k port a bs bad).cmdNum = s.cmdNum := rfl
@[simp] theorem portStore_mesh (s : State) (w : Writer) (k port a : Nat) (bs : List Byte) (bad : List Nat) : (s.portStore w k port a bs bad).mesh = s.mesh := rfl
@[simp] theorem portStore_lastMsg (s : State) (w : Writer) (k port a : Nat) (bs : List Byte) (bad : List Nat) : (s.portStore w k port a bs bad).lastMsg = s.lastMsg := rfl
@[simp] theorem portStore_agenda (s : State) (w : Writer) (k port a : Nat) (bs : List Byte) (bad : List Nat) : (s.portStore w k port a bs bad).agenda = s.agenda := rfl
@[simp] theorem portStore_event (s : State) (w : Writer) (k port a : Nat) (bs : List Byte) (bad : List Nat) : (s.portStore w k port a bs bad).event = s.event := rfl
@[simp] theorem portStore_lines (s : State) (w : Writer) (k port a : Nat) (bs : List Byte) (bad : List Nat) : (s.portStore w k port a bs bad).lines = s.lines := rfl
@[simp] theorem portStore_units (s : State) (w : Writer) (k port a : Nat) (bs : List Byte) (bad : List Nat) : (s.portStore w k port a bs bad).units = s.units := rfl
@[simp] theorem portStore_sc (s : State) (w : Writer) (k port a : Nat) (bs : List Byte) (bad : List Nat) : (s.portStore w k port a bs bad).sc = s.sc := rfl
@[simp] theorem portStore_bufs (s : State) (w : Writer) (k port a : Nat) (bs : List Byte) (bad : List Nat) : (s.portStore w k port a bs bad).bufs = s.bufs := rfl
@[simp] theorem portStore_cols (s : State) (w : Writer) (k port a : Nat) (bs : List Byte) (bad : List Nat) : (s.portStore w k port a bs bad).cols = s.cols := rfl
@[simp] theorem portStore_parts (s : State) (w : Writer) (k port a : Nat) (bs : List Byte) (bad : List Nat) : (s.portStore w k port a bs bad).parts = s.parts := rfl
@[simp] theorem portStore_dev (s : State) (w : Writer) (k port a : Nat) (bs : List Byte) (bad : List Nat) : (s.portStore w k port a bs bad).dev = s.dev := rfl
@[simp] theorem portStore_gaf (s : State) (w : Writer) (k port a : Nat) (bs : List Byte) (bad : List Nat) : (s.portStore w k port a bs bad).gaf = s.gaf := rfl

/-! ### What is read back -/

@[simp] theorem power_modPower (s : State) (f : Power → Power) : (s.modPower f).dev.power = f s.dev.power := rfl
@[simp] theorem fabric_modPower (s : State) (f : Power → Power) : (s.modPower f).dev.fabric = s.dev.fabric := rfl
@[simp] theorem far_modPower (s : State) (f : Power → Power) : (s.modPower f).dev.far = s.dev.far := rfl
@[simp] theorem power_modPort (s : State) (p : Nat) (f : Port → Port) : (s.modPort p f).dev.power = s.dev.power := rfl
@[simp] theorem far_modPort (s : State) (p : Nat) (f : Port → Port) : (s.modPort p f).dev.far = s.dev.far := rfl
@[simp] theorem far_modFlow (s : State) (key : Nat) (f : RxFlow → RxFlow) : (s.modFlow key f).dev.far = s.dev.far := rfl
@[simp] theorem far_modExtent (s : State) (e : Nat) (f : Extent → Extent) : (s.modExtent e f).dev.far = s.dev.far := rfl

theorem port_modPort (s : State) (p q : Nat) (f : Port → Port) :
    (s.modPort p f).port q = if p = q then f (s.port p) else s.port q := sget_sset _ _ _ _ _

theorem extent_modExtent (s : State) (e j : Nat) (f : Extent → Extent) :
    (s.modExtent e f).dev.extent j = if e = j then f (s.dev.extent e) else s.dev.extent j := sget_sset _ _ _ _ _

theorem flow_modFlow (s : State) (key j : Nat) (f : RxFlow → RxFlow) :
    (s.modFlow key f).dev.fabric.flow j = if key = j then f (s.dev.fabric.flow key) else s.dev.fabric.flow j :=
  sget_sset _ _ _ _ _

/-! ### Settling a core -/

/-- Nothing under way is due: settling changes nothing. -/
theorem settle_idle (s : State) (k t : Nat) (h : ∀ p ∈ (s.core k).pend.head?, t < p.due) : s.settle k t = s := by
  unfold State.settle
  cases e : (s.core k).pend with
  | nil => rfl
  | cons p r =>
    have := h p (by simp [e])
    simp [Nat.not_le.mpr this]

/-- A port's write reaches near memory only when its cycle settles (R179): until then every core's memory is as it was. -/
theorem near_portStore (s : State) (w : Writer) (k port a j : Nat) (bs : List Byte) (bad : List Nat) :
    ((s.portStore w k port a bs bad).core j).near = (s.core j).near := by
  unfold State.portStore
  by_cases h : k = j
  · subst h; simp [Core.pendAt]
  · simp [core_modCore, h]

end Sys2Proof.Laws
end

