-- ==== Sys2Proof/Laws/Dispatch.lean ====
section
/-! SUPPORT. What `exec` calls for each instruction, said once by rfl. -/

namespace Sys2Proof.Laws

open Sys2Proof.Machine

set_option Elab.async false

@[simp] theorem exec_add (h : Hdr) (d : Reg) (a : Reg) (b : Reg) (s : State) :
    exec (.add h d a b) s = execAdd h d a b s := rfl
@[simp] theorem exec_sub (h : Hdr) (d : Reg) (a : Reg) (b : Reg) (s : State) :
    exec (.sub h d a b) s = execSub h d a b s := rfl
@[simp] theorem exec_mul (h : Hdr) (d : Reg) (a : Reg) (b : Reg) (s : State) :
    exec (.mul h d a b) s = execMul h d a b s := rfl
@[simp] theorem exec_mulh (h : Hdr) (d : Reg) (a : Reg) (b : Reg) (u : Bool) (s : State) :
    exec (.mulh h d a b u) s = execMulh h d a b u s := rfl
@[simp] theorem exec_div (h : Hdr) (d : Reg) (a : Reg) (b : Reg) (u : Bool) (s : State) :
    exec (.div h d a b u) s = execDiv h d a b u s := rfl
@[simp] theorem exec_rem (h : Hdr) (d : Reg) (a : Reg) (b : Reg) (u : Bool) (s : State) :
    exec (.rem h d a b u) s = execRem h d a b u s := rfl
@[simp] theorem exec_and (h : Hdr) (d : Reg) (a : Reg) (b : Reg) (s : State) :
    exec (.and h d a b) s = execAnd h d a b s := rfl
@[simp] theorem exec_andn (h : Hdr) (d : Reg) (a : Reg) (b : Reg) (s : State) :
    exec (.andn h d a b) s = execAndn h d a b s := rfl
@[simp] theorem exec_or (h : Hdr) (d : Reg) (a : Reg) (b : Reg) (s : State) :
    exec (.or h d a b) s = execOr h d a b s := rfl
@[simp] theorem exec_xor (h : Hdr) (d : Reg) (a : Reg) (b : Reg) (s : State) :
    exec (.xor h d a b) s = execXor h d a b s := rfl
@[simp] theorem exec_shl (h : Hdr) (d : Reg) (a : Reg) (b : Reg) (s : State) :
    exec (.shl h d a b) s = execShl h d a b s := rfl
@[simp] theorem exec_shr (h : Hdr) (d : Reg) (a : Reg) (b : Reg) (s : State) :
    exec (.shr h d a b) s = execShr h d a b s := rfl
@[simp] theorem exec_sra (h : Hdr) (d : Reg) (a : Reg) (b : Reg) (s : State) :
    exec (.sra h d a b) s = execSra h d a b s := rfl
@[simp] theorem exec_rot (h : Hdr) (d : Reg) (a : Reg) (b : Reg) (s : State) :
    exec (.rot h d a b) s = execRot h d a b s := rfl
@[simp] theorem exec_clz (h : Hdr) (d : Reg) (a : Reg) (s : State) :
    exec (.clz h d a) s = execClz h d a s := rfl
@[simp] theorem exec_ctz (h : Hdr) (d : Reg) (a : Reg) (s : State) :
    exec (.ctz h d a) s = execCtz h d a s := rfl
@[simp] theorem exec_popc (h : Hdr) (d : Reg) (a : Reg) (s : State) :
    exec (.popc h d a) s = execPopc h d a s := rfl
@[simp] theorem exec_min (h : Hdr) (d : Reg) (a : Reg) (b : Reg) (u : Bool) (s : State) :
    exec (.min h d a b u) s = execMin h d a b u s := rfl
@[simp] theorem exec_max (h : Hdr) (d : Reg) (a : Reg) (b : Reg) (u : Bool) (s : State) :
    exec (.max h d a b u) s = execMax h d a b u s := rfl
@[simp] theorem exec_sel (h : Hdr) (d : Reg) (a : Reg) (b : Reg) (s : State) :
    exec (.sel h d a b) s = execSel h d a b s := rfl
@[simp] theorem exec_mov (h : Hdr) (d : Reg) (a : Reg) (s : State) :
    exec (.mov h d a) s = execMov h d a s := rfl
@[simp] theorem exec_sxt (h : Hdr) (d : Reg) (a : Reg) (w : WidthCode) (s : State) :
    exec (.sxt h d a w) s = execSxt h d a w s := rfl
@[simp] theorem exec_zxt (h : Hdr) (d : Reg) (a : Reg) (w : WidthCode) (s : State) :
    exec (.zxt h d a w) s = execZxt h d a w s := rfl
@[simp] theorem exec_cmpEq (h : Hdr) (d : PredReg) (a : Reg) (b : Reg) (u : Bool) (s : State) :
    exec (.cmpEq h d a b u) s = execCmpEq h d a b u s := rfl
@[simp] theorem exec_cmpNe (h : Hdr) (d : PredReg) (a : Reg) (b : Reg) (u : Bool) (s : State) :
    exec (.cmpNe h d a b u) s = execCmpNe h d a b u s := rfl
@[simp] theorem exec_cmpLt (h : Hdr) (d : PredReg) (a : Reg) (b : Reg) (u : Bool) (s : State) :
    exec (.cmpLt h d a b u) s = execCmpLt h d a b u s := rfl
@[simp] theorem exec_cmpLe (h : Hdr) (d : PredReg) (a : Reg) (b : Reg) (u : Bool) (s : State) :
    exec (.cmpLe h d a b u) s = execCmpLe h d a b u s := rfl
@[simp] theorem exec_addi (gap : BitVec 2) (d : Reg) (a : Reg) (imm : BitVec 11) (s : State) :
    exec (.addi gap d a imm) s = execAddi gap d a imm s := rfl
@[simp] theorem exec_addiLong (h : Hdr) (d : Reg) (a : Reg) (lit : DWord) (s : State) :
    exec (.addiLong h d a lit) s = execAddiLong h d a lit s := rfl
@[simp] theorem exec_li (gap : BitVec 2) (d : Reg) (imm : BitVec 11) (s : State) :
    exec (.li gap d imm) s = execLi gap d imm s := rfl
@[simp] theorem exec_liLong (h : Hdr) (d : Reg) (lit : DWord) (s : State) :
    exec (.liLong h d lit) s = execLiLong h d lit s := rfl
@[simp] theorem exec_cmpiEq (gap : BitVec 2) (d : PredReg) (a : Reg) (imm : BitVec 11) (s : State) :
    exec (.cmpiEq gap d a imm) s = execCmpiEq gap d a imm s := rfl
@[simp] theorem exec_cmpiNe (gap : BitVec 2) (d : PredReg) (a : Reg) (imm : BitVec 11) (s : State) :
    exec (.cmpiNe gap d a imm) s = execCmpiNe gap d a imm s := rfl
@[simp] theorem exec_cmpiLt (gap : BitVec 2) (d : PredReg) (a : Reg) (imm : BitVec 11) (s : State) :
    exec (.cmpiLt gap d a imm) s = execCmpiLt gap d a imm s := rfl
@[simp] theorem exec_cmpiLe (gap : BitVec 2) (d : PredReg) (a : Reg) (imm : BitVec 11) (s : State) :
    exec (.cmpiLe gap d a imm) s = execCmpiLe gap d a imm s := rfl
@[simp] theorem exec_cmpiGt (gap : BitVec 2) (d : PredReg) (a : Reg) (imm : BitVec 11) (s : State) :
    exec (.cmpiGt gap d a imm) s = execCmpiGt gap d a imm s := rfl
@[simp] theorem exec_cmpiGe (gap : BitVec 2) (d : PredReg) (a : Reg) (imm : BitVec 11) (s : State) :
    exec (.cmpiGe gap d a imm) s = execCmpiGe gap d a imm s := rfl
@[simp] theorem exec_cmpiLtN64 (gap : BitVec 2) (d : PredReg) (a : Reg) (imm : BitVec 11) (s : State) :
    exec (.cmpiLtN64 gap d a imm) s = execCmpiLtN64 gap d a imm s := rfl
@[simp] theorem exec_cmpiLeN64 (gap : BitVec 2) (d : PredReg) (a : Reg) (imm : BitVec 11) (s : State) :
    exec (.cmpiLeN64 gap d a imm) s = execCmpiLeN64 gap d a imm s := rfl
@[simp] theorem exec_cmpiGtN64 (gap : BitVec 2) (d : PredReg) (a : Reg) (imm : BitVec 11) (s : State) :
    exec (.cmpiGtN64 gap d a imm) s = execCmpiGtN64 gap d a imm s := rfl
@[simp] theorem exec_cmpiGeN64 (gap : BitVec 2) (d : PredReg) (a : Reg) (imm : BitVec 11) (s : State) :
    exec (.cmpiGeN64 gap d a imm) s = execCmpiGeN64 gap d a imm s := rfl
@[simp] theorem exec_cmpiLong (h : Hdr) (cond : CmpiCond) (d : PredReg) (a : Reg) (lit : DWord) (s : State) :
    exec (.cmpiLong h cond d a lit) s = execCmpiLong h cond d a lit s := rfl
@[simp] theorem exec_pand (h : Hdr) (d : PredReg) (a : PredReg) (b : PredReg) (s : State) :
    exec (.pand h d a b) s = execPand h d a b s := rfl
@[simp] theorem exec_por (h : Hdr) (d : PredReg) (a : PredReg) (b : PredReg) (s : State) :
    exec (.por h d a b) s = execPor h d a b s := rfl
@[simp] theorem exec_pxor (h : Hdr) (d : PredReg) (a : PredReg) (b : PredReg) (s : State) :
    exec (.pxor h d a b) s = execPxor h d a b s := rfl
@[simp] theorem exec_pnot (h : Hdr) (d : PredReg) (a : PredReg) (s : State) :
    exec (.pnot h d a) s = execPnot h d a s := rfl
@[simp] theorem exec_pmov (h : Hdr) (d : PredReg) (a : PredReg) (s : State) :
    exec (.pmov h d a) s = execPmov h d a s := rfl
@[simp] theorem exec_br (h : Hdr) (disp : BitVec 16) (s : State) :
    exec (.br h disp) s = execBr h disp s := rfl
@[simp] theorem exec_brLong (h : Hdr) (lit : DWord) (s : State) :
    exec (.brLong h lit) s = execBrLong h lit s := rfl
@[simp] theorem exec_jmp (gap : BitVec 2) (y : Bool) (disp : BitVec 16) (s : State) :
    exec (.jmp gap y disp) s = execJmp gap y disp s := rfl
@[simp] theorem exec_jmpLong (gap : BitVec 2) (y : Bool) (lit : DWord) (s : State) :
    exec (.jmpLong gap y lit) s = execJmpLong gap y lit s := rfl
@[simp] theorem exec_jmpi (h : Hdr) (a : Reg) (s : State) :
    exec (.jmpi h a) s = execJmpi h a s := rfl
@[simp] theorem exec_call (h : Hdr) (disp : BitVec 16) (s : State) :
    exec (.call h disp) s = execCall h disp s := rfl
@[simp] theorem exec_callLong (h : Hdr) (lit : DWord) (s : State) :
    exec (.callLong h lit) s = execCallLong h lit s := rfl
@[simp] theorem exec_calli (h : Hdr) (a : Reg) (s : State) :
    exec (.calli h a) s = execCalli h a s := rfl
@[simp] theorem exec_ret (gap : BitVec 2) (y : Bool) (s : State) :
    exec (.ret gap y) s = execRet gap y s := rfl
@[simp] theorem exec_enter (gap : BitVec 2) (imm : BitVec 11) (s : State) :
    exec (.enter gap imm) s = execEnter gap imm s := rfl
@[simp] theorem exec_enterLong (h : Hdr) (lit : DWord) (s : State) :
    exec (.enterLong h lit) s = execEnterLong h lit s := rfl
@[simp] theorem exec_leave (h : Hdr) (s : State) :
    exec (.leave h) s = execLeave h s := rfl
@[simp] theorem exec_nop (h : Hdr) (s : State) :
    exec (.nop h) s = execNop h s := rfl
@[simp] theorem exec_halt (h : Hdr) (s : State) :
    exec (.halt h) s = execHalt h s := rfl
@[simp] theorem exec_ldI8 (gap : BitVec 2) (d : Reg) (a : Reg) (imm : BitVec 11) (s : State) :
    exec (.ldI8 gap d a imm) s = execLdI8 gap d a imm s := rfl
@[simp] theorem exec_ldI16 (gap : BitVec 2) (d : Reg) (a : Reg) (imm : BitVec 11) (s : State) :
    exec (.ldI16 gap d a imm) s = execLdI16 gap d a imm s := rfl
@[simp] theorem exec_ldI32 (gap : BitVec 2) (d : Reg) (a : Reg) (imm : BitVec 11) (s : State) :
    exec (.ldI32 gap d a imm) s = execLdI32 gap d a imm s := rfl
@[simp] theorem exec_ldI64 (gap : BitVec 2) (d : Reg) (a : Reg) (imm : BitVec 11) (s : State) :
    exec (.ldI64 gap d a imm) s = execLdI64 gap d a imm s := rfl
@[simp] theorem exec_ldN8 (gap : BitVec 2) (d : Reg) (a : Reg) (imm : BitVec 11) (s : State) :
    exec (.ldN8 gap d a imm) s = execLdN8 gap d a imm s := rfl
@[simp] theorem exec_ldN16 (gap : BitVec 2) (d : Reg) (a : Reg) (imm : BitVec 11) (s : State) :
    exec (.ldN16 gap d a imm) s = execLdN16 gap d a imm s := rfl
@[simp] theorem exec_ldN32 (gap : BitVec 2) (d : Reg) (a : Reg) (imm : BitVec 11) (s : State) :
    exec (.ldN32 gap d a imm) s = execLdN32 gap d a imm s := rfl
@[simp] theorem exec_ldLong (h : Hdr) (ty : LoadTy) (d : Reg) (a : Reg) (lit : DWord) (s : State) :
    exec (.ldLong h ty d a lit) s = execLdLong h ty d a lit s := rfl
@[simp] theorem exec_stI8 (gap : BitVec 2) (d : Reg) (a : Reg) (imm : BitVec 11) (s : State) :
    exec (.stI8 gap d a imm) s = execStI8 gap d a imm s := rfl
@[simp] theorem exec_stI16 (gap : BitVec 2) (d : Reg) (a : Reg) (imm : BitVec 11) (s : State) :
    exec (.stI16 gap d a imm) s = execStI16 gap d a imm s := rfl
@[simp] theorem exec_stI32 (gap : BitVec 2) (d : Reg) (a : Reg) (imm : BitVec 11) (s : State) :
    exec (.stI32 gap d a imm) s = execStI32 gap d a imm s := rfl
@[simp] theorem exec_stI64 (gap : BitVec 2) (d : Reg) (a : Reg) (imm : BitVec 11) (s : State) :
    exec (.stI64 gap d a imm) s = execStI64 gap d a imm s := rfl
@[simp] theorem exec_stLong (h : Hdr) (ty : StoreTy) (d : Reg) (a : Reg) (lit : DWord) (s : State) :
    exec (.stLong h ty d a lit) s = execStLong h ty d a lit s := rfl
@[simp] theorem exec_vld (gap : BitVec 2) (d : VecReg) (a : Reg) (imm : BitVec 11) (s : State) :
    exec (.vld gap d a imm) s = execVld gap d a imm s := rfl
@[simp] theorem exec_vldLong (h : Hdr) (d : VecReg) (a : Reg) (lit : DWord) (s : State) :
    exec (.vldLong h d a lit) s = execVldLong h d a lit s := rfl
@[simp] theorem exec_vst (gap : BitVec 2) (d : VecReg) (a : Reg) (imm : BitVec 11) (s : State) :
    exec (.vst gap d a imm) s = execVst gap d a imm s := rfl
@[simp] theorem exec_vstLong (h : Hdr) (d : VecReg) (a : Reg) (lit : DWord) (s : State) :
    exec (.vstLong h d a lit) s = execVstLong h d a lit s := rfl
@[simp] theorem exec_bldI8 (gap : BitVec 2) (d : Reg) (a : Reg) (imm : BitVec 11) (s : State) :
    exec (.bldI8 gap d a imm) s = execBldI8 gap d a imm s := rfl
@[simp] theorem exec_bldI16 (gap : BitVec 2) (d : Reg) (a : Reg) (imm : BitVec 11) (s : State) :
    exec (.bldI16 gap d a imm) s = execBldI16 gap d a imm s := rfl
@[simp] theorem exec_bldI32 (gap : BitVec 2) (d : Reg) (a : Reg) (imm : BitVec 11) (s : State) :
    exec (.bldI32 gap d a imm) s = execBldI32 gap d a imm s := rfl
@[simp] theorem exec_bldI64 (gap : BitVec 2) (d : Reg) (a : Reg) (imm : BitVec 11) (s : State) :
    exec (.bldI64 gap d a imm) s = execBldI64 gap d a imm s := rfl
@[simp] theorem exec_bldN8 (gap : BitVec 2) (d : Reg) (a : Reg) (imm : BitVec 11) (s : State) :
    exec (.bldN8 gap d a imm) s = execBldN8 gap d a imm s := rfl
@[simp] theorem exec_bldN16 (gap : BitVec 2) (d : Reg) (a : Reg) (imm : BitVec 11) (s : State) :
    exec (.bldN16 gap d a imm) s = execBldN16 gap d a imm s := rfl
@[simp] theorem exec_bldN32 (gap : BitVec 2) (d : Reg) (a : Reg) (imm : BitVec 11) (s : State) :
    exec (.bldN32 gap d a imm) s = execBldN32 gap d a imm s := rfl
@[simp] theorem exec_bldLong (h : Hdr) (ty : LoadTy) (d : Reg) (a : Reg) (lit : DWord) (s : State) :
    exec (.bldLong h ty d a lit) s = execBldLong h ty d a lit s := rfl
@[simp] theorem exec_bstI8 (gap : BitVec 2) (d : Reg) (a : Reg) (imm : BitVec 11) (s : State) :
    exec (.bstI8 gap d a imm) s = execBstI8 gap d a imm s := rfl
@[simp] theorem exec_bstI16 (gap : BitVec 2) (d : Reg) (a : Reg) (imm : BitVec 11) (s : State) :
    exec (.bstI16 gap d a imm) s = execBstI16 gap d a imm s := rfl
@[simp] theorem exec_bstI32 (gap : BitVec 2) (d : Reg) (a : Reg) (imm : BitVec 11) (s : State) :
    exec (.bstI32 gap d a imm) s = execBstI32 gap d a imm s := rfl
@[simp] theorem exec_bstI64 (gap : BitVec 2) (d : Reg) (a : Reg) (imm : BitVec 11) (s : State) :
    exec (.bstI64 gap d a imm) s = execBstI64 gap d a imm s := rfl
@[simp] theorem exec_bstLong (h : Hdr) (ty : StoreTy) (d : Reg) (a : Reg) (lit : DWord) (s : State) :
    exec (.bstLong h ty d a lit) s = execBstLong h ty d a lit s := rfl
@[simp] theorem exec_vbld (gap : BitVec 2) (d : VecReg) (a : Reg) (imm : BitVec 11) (s : State) :
    exec (.vbld gap d a imm) s = execVbld gap d a imm s := rfl
@[simp] theorem exec_vbldLong (h : Hdr) (d : VecReg) (a : Reg) (lit : DWord) (s : State) :
    exec (.vbldLong h d a lit) s = execVbldLong h d a lit s := rfl
@[simp] theorem exec_vbst (gap : BitVec 2) (d : VecReg) (a : Reg) (imm : BitVec 11) (s : State) :
    exec (.vbst gap d a imm) s = execVbst gap d a imm s := rfl
@[simp] theorem exec_vbstLong (h : Hdr) (d : VecReg) (a : Reg) (lit : DWord) (s : State) :
    exec (.vbstLong h d a lit) s = execVbstLong h d a lit s := rfl
@[simp] theorem exec_blook (h : Hdr) (d : Reg) (a : Reg) (s : State) :
    exec (.blook h d a) s = execBlook h d a s := rfl
@[simp] theorem exec_btag (h : Hdr) (d : Reg) (a : Reg) (b : Reg) (s : State) :
    exec (.btag h d a b) s = execBtag h d a b s := rfl
@[simp] theorem exec_binv (h : Hdr) (d : Reg) (a : Reg) (s : State) :
    exec (.binv h d a) s = execBinv h d a s := rfl
@[simp] theorem exec_send (h : Hdr) (d : MsgReg) (a : Reg) (b : VecReg) (s : State) :
    exec (.send h d a b) s = execSend h d a b s := rfl
@[simp] theorem exec_mget (h : Hdr) (d : MsgReg) (a : Reg) (b : Reg) (s : State) :
    exec (.mget h d a b) s = execMget h d a b s := rfl
@[simp] theorem exec_msgb (h : Hdr) (d : VecReg) (a : Reg) (b : Reg) (s8 : Bool) (s : State) :
    exec (.msgb h d a b s8) s = execMsgb h d a b s8 s := rfl
@[simp] theorem exec_mclr (h : Hdr) (d : MsgReg) (s : State) :
    exec (.mclr h d) s = execMclr h d s := rfl
@[simp] theorem exec_ldx (h : Hdr) (d : MsgReg) (a : Reg) (s : State) :
    exec (.ldx h d a) s = execLdx h d a s := rfl
@[simp] theorem exec_stx (h : Hdr) (a : Reg) (b : VecReg) (s : State) :
    exec (.stx h a b) s = execStx h a b s := rfl
@[simp] theorem exec_trap (gap : BitVec 2) (imm : BitVec 11) (s : State) :
    exec (.trap gap imm) s = execTrap gap imm s := rfl
@[simp] theorem exec_trapLong (h : Hdr) (lit : DWord) (s : State) :
    exec (.trapLong h lit) s = execTrapLong h lit s := rfl
@[simp] theorem exec_eret (gap : BitVec 2) (y : Bool) (s : State) :
    exec (.eret gap y) s = execEret gap y s := rfl
@[simp] theorem exec_sysr (gap : BitVec 2) (d : Reg) (imm : BitVec 11) (s : State) :
    exec (.sysr gap d imm) s = execSysr gap d imm s := rfl
@[simp] theorem exec_sysrLong (h : Hdr) (d : Reg) (lit : DWord) (s : State) :
    exec (.sysrLong h d lit) s = execSysrLong h d lit s := rfl
@[simp] theorem exec_sysw (gap : BitVec 2) (d : Reg) (imm : BitVec 11) (s : State) :
    exec (.sysw gap d imm) s = execSysw gap d imm s := rfl
@[simp] theorem exec_syswLong (h : Hdr) (d : Reg) (lit : DWord) (s : State) :
    exec (.syswLong h d lit) s = execSyswLong h d lit s := rfl
@[simp] theorem exec_yield (h : Hdr) (s : State) :
    exec (.yield h) s = execYield h s := rfl
@[simp] theorem exec_ext (h : Hdr) (d : Reg) (a : Reg) (ty : Ty) (tier : Option (BitVec 2)) (pos : BitVec 6) (wm1 : BitVec 6) (s : State) :
    exec (.ext h d a ty tier pos wm1) s = execExt h d a ty tier pos wm1 s := rfl
@[simp] theorem exec_ins (h : Hdr) (d : Reg) (a : Reg) (tier : Option (BitVec 2)) (pos : BitVec 6) (wm1 : BitVec 6) (s : State) :
    exec (.ins h d a tier pos wm1) s = execIns h d a tier pos wm1 s := rfl
@[simp] theorem exec_lea (h : Hdr) (d : Reg) (a : Reg) (b : Reg) (tier : Option (BitVec 2)) (sh : BitVec 3) (disp : BitVec 24) (s : State) :
    exec (.lea h d a b tier sh disp) s = execLea h d a b tier sh disp s := rfl
@[simp] theorem exec_leaXl (h : Hdr) (d : Reg) (a : Reg) (b : Reg) (tier : Option (BitVec 2)) (sh : BitVec 3) (lit : DWord) (s : State) :
    exec (.leaXl h d a b tier sh lit) s = execLeaXl h d a b tier sh lit s := rfl
@[simp] theorem exec_rep (h : Hdr) (stride : BitVec 5) (nm1l : BitVec 5) (winl : BitVec 5) (winh : Bool) (nm1h : BitVec 5) (km1 : BitVec 3) (mask : BitVec 24) (s : State) :
    exec (.rep h stride nm1l winl winh nm1h km1 mask) s = execRep h stride nm1l winl winh nm1h km1 mask s := rfl
@[simp] theorem exec_vlds (h : Hdr) (d : VecReg) (a : Reg) (b : Reg) (ty : Ty) (tier : Option (BitVec 2)) (disp : BitVec 32) (s : State) :
    exec (.vlds h d a b ty tier disp) s = execVlds h d a b ty tier disp s := rfl
@[simp] theorem exec_vsts (h : Hdr) (d : VecReg) (a : Reg) (b : Reg) (ty : Ty) (tier : Option (BitVec 2)) (disp : BitVec 32) (s : State) :
    exec (.vsts h d a b ty tier disp) s = execVsts h d a b ty tier disp s := rfl
@[simp] theorem exec_vgath (h : Hdr) (d : VecReg) (a : Reg) (b : VecReg) (ty : Ty) (tier : Option (BitVec 2)) (disp : BitVec 32) (s : State) :
    exec (.vgath h d a b ty tier disp) s = execVgath h d a b ty tier disp s := rfl
@[simp] theorem exec_vscat (h : Hdr) (d : VecReg) (a : Reg) (b : VecReg) (ty : Ty) (tier : Option (BitVec 2)) (disp : BitVec 32) (s : State) :
    exec (.vscat h d a b ty tier disp) s = execVscat h d a b ty tier disp s := rfl
@[simp] theorem exec_vadd (h : Hdr) (d : VecReg) (a : VecReg) (b : VecReg) (ty : Ty) (rnd : Rnd) (sat : Bool) (tier : Option (BitVec 2)) (s : State) :
    exec (.vadd h d a b ty rnd sat tier) s = execVadd h d a b ty rnd sat tier s := rfl
@[simp] theorem exec_vsub (h : Hdr) (d : VecReg) (a : VecReg) (b : VecReg) (ty : Ty) (rnd : Rnd) (sat : Bool) (tier : Option (BitVec 2)) (s : State) :
    exec (.vsub h d a b ty rnd sat tier) s = execVsub h d a b ty rnd sat tier s := rfl
@[simp] theorem exec_vmul (h : Hdr) (d : VecReg) (a : VecReg) (b : VecReg) (ty : Ty) (rnd : Rnd) (sat : Bool) (tier : Option (BitVec 2)) (s : State) :
    exec (.vmul h d a b ty rnd sat tier) s = execVmul h d a b ty rnd sat tier s := rfl
@[simp] theorem exec_vfma (h : Hdr) (d : VecReg) (a : VecReg) (b : VecReg) (ty : Ty) (rnd : Rnd) (tier : Option (BitVec 2)) (c : VecReg) (s : State) :
    exec (.vfma h d a b ty rnd tier c) s = execVfma h d a b ty rnd tier c s := rfl
@[simp] theorem exec_vfms (h : Hdr) (d : VecReg) (a : VecReg) (b : VecReg) (ty : Ty) (rnd : Rnd) (tier : Option (BitVec 2)) (c : VecReg) (s : State) :
    exec (.vfms h d a b ty rnd tier c) s = execVfms h d a b ty rnd tier c s := rfl
@[simp] theorem exec_vneg (h : Hdr) (d : VecReg) (a : VecReg) (ty : Ty) (sat : Bool) (tier : Option (BitVec 2)) (s : State) :
    exec (.vneg h d a ty sat tier) s = execVneg h d a ty sat tier s := rfl
@[simp] theorem exec_vabs (h : Hdr) (d : VecReg) (a : VecReg) (ty : Ty) (sat : Bool) (tier : Option (BitVec 2)) (s : State) :
    exec (.vabs h d a ty sat tier) s = execVabs h d a ty sat tier s := rfl
@[simp] theorem exec_vmin (h : Hdr) (d : VecReg) (a : VecReg) (b : VecReg) (ty : Ty) (tier : Option (BitVec 2)) (s : State) :
    exec (.vmin h d a b ty tier) s = execVmin h d a b ty tier s := rfl
@[simp] theorem exec_vmax (h : Hdr) (d : VecReg) (a : VecReg) (b : VecReg) (ty : Ty) (tier : Option (BitVec 2)) (s : State) :
    exec (.vmax h d a b ty tier) s = execVmax h d a b ty tier s := rfl
@[simp] theorem exec_vdiv (h : Hdr) (d : VecReg) (a : VecReg) (b : VecReg) (ty : Ty) (rnd : Rnd) (tier : Option (BitVec 2)) (s : State) :
    exec (.vdiv h d a b ty rnd tier) s = execVdiv h d a b ty rnd tier s := rfl
@[simp] theorem exec_vsqrt (h : Hdr) (d : VecReg) (a : VecReg) (ty : Ty) (rnd : Rnd) (tier : Option (BitVec 2)) (s : State) :
    exec (.vsqrt h d a ty rnd tier) s = execVsqrt h d a ty rnd tier s := rfl
@[simp] theorem exec_vrcp (h : Hdr) (d : VecReg) (a : VecReg) (ty : Ty) (rnd : Rnd) (tier : Option (BitVec 2)) (s : State) :
    exec (.vrcp h d a ty rnd tier) s = execVrcp h d a ty rnd tier s := rfl
@[simp] theorem exec_vrsq (h : Hdr) (d : VecReg) (a : VecReg) (ty : Ty) (rnd : Rnd) (tier : Option (BitVec 2)) (s : State) :
    exec (.vrsq h d a ty rnd tier) s = execVrsq h d a ty rnd tier s := rfl
@[simp] theorem exec_vexp2f (h : Hdr) (d : VecReg) (a : VecReg) (ty : Ty) (tier : Option (BitVec 2)) (s : State) :
    exec (.vexp2f h d a ty tier) s = execVexp2f h d a ty tier s := rfl
@[simp] theorem exec_vrndi (h : Hdr) (d : VecReg) (a : VecReg) (ty : Ty) (rnd : Rnd) (tier : Option (BitVec 2)) (s : State) :
    exec (.vrndi h d a ty rnd tier) s = execVrndi h d a ty rnd tier s := rfl
@[simp] theorem exec_vinsx (h : Hdr) (d : VecReg) (a : VecReg) (b : VecReg) (ty : Ty) (rnd : Rnd) (sat : Bool) (tier : Option (BitVec 2)) (s : State) :
    exec (.vinsx h d a b ty rnd sat tier) s = execVinsx h d a b ty rnd sat tier s := rfl
@[simp] theorem exec_vextx (h : Hdr) (d : VecReg) (a : VecReg) (ty : Ty) (tier : Option (BitVec 2)) (s : State) :
    exec (.vextx h d a ty tier) s = execVextx h d a ty tier s := rfl
@[simp] theorem exec_vcvt (h : Hdr) (d : VecReg) (a : VecReg) (ty : Ty) (ty2 : Ty) (rnd : Rnd) (sat : Bool) (tier : Option (BitVec 2)) (part : BitVec 2) (s : State) :
    exec (.vcvt h d a ty ty2 rnd sat tier part) s = execVcvt h d a ty ty2 rnd sat tier part s := rfl
@[simp] theorem exec_vcmp (h : Hdr) (d : VecReg) (a : VecReg) (b : VecReg) (ty : Ty) (tier : Option (BitVec 2)) (cond : BitVec 3) (pw : Bool) (p : PredReg) (s : State) :
    exec (.vcmp h d a b ty tier cond pw p) s = execVcmp h d a b ty tier cond pw p s := rfl
@[simp] theorem exec_vsel (h : Hdr) (d : VecReg) (a : VecReg) (b : VecReg) (ty : Ty) (tier : Option (BitVec 2)) (c : VecReg) (s : State) :
    exec (.vsel h d a b ty tier c) s = execVsel h d a b ty tier c s := rfl
@[simp] theorem exec_vand (h : Hdr) (d : VecReg) (a : VecReg) (b : VecReg) (tier : Option (BitVec 2)) (s : State) :
    exec (.vand h d a b tier) s = execVand h d a b tier s := rfl
@[simp] theorem exec_vor (h : Hdr) (d : VecReg) (a : VecReg) (b : VecReg) (tier : Option (BitVec 2)) (s : State) :
    exec (.vor h d a b tier) s = execVor h d a b tier s := rfl
@[simp] theorem exec_vxor (h : Hdr) (d : VecReg) (a : VecReg) (b : VecReg) (tier : Option (BitVec 2)) (s : State) :
    exec (.vxor h d a b tier) s = execVxor h d a b tier s := rfl
@[simp] theorem exec_vshl (h : Hdr) (d : VecReg) (a : VecReg) (b : VecReg) (ty : Ty) (sat : Bool) (tier : Option (BitVec 2)) (s : State) :
    exec (.vshl h d a b ty sat tier) s = execVshl h d a b ty sat tier s := rfl
@[simp] theorem exec_vshr (h : Hdr) (d : VecReg) (a : VecReg) (b : VecReg) (ty : Ty) (tier : Option (BitVec 2)) (s : State) :
    exec (.vshr h d a b ty tier) s = execVshr h d a b ty tier s := rfl
@[simp] theorem exec_vsra (h : Hdr) (d : VecReg) (a : VecReg) (b : VecReg) (ty : Ty) (tier : Option (BitVec 2)) (s : State) :
    exec (.vsra h d a b ty tier) s = execVsra h d a b ty tier s := rfl
@[simp] theorem exec_vperm (h : Hdr) (d : VecReg) (a : VecReg) (b : VecReg) (ty : Ty) (tier : Option (BitVec 2)) (s : State) :
    exec (.vperm h d a b ty tier) s = execVperm h d a b ty tier s := rfl
@[simp] theorem exec_vsplat (h : Hdr) (d : VecReg) (a : Reg) (ty : Ty) (tier : Option (BitVec 2)) (s : State) :
    exec (.vsplat h d a ty tier) s = execVsplat h d a ty tier s := rfl
@[simp] theorem exec_vsplatXl (h : Hdr) (d : VecReg) (ty : Ty) (tier : Option (BitVec 2)) (lit : DWord) (s : State) :
    exec (.vsplatXl h d ty tier lit) s = execVsplatXl h d ty tier lit s := rfl
@[simp] theorem exec_vmov (h : Hdr) (d : VecReg) (a : VecReg) (tier : Option (BitVec 2)) (s : State) :
    exec (.vmov h d a tier) s = execVmov h d a tier s := rfl
@[simp] theorem exec_vreds (h : Hdr) (d : Reg) (a : VecReg) (ty : Ty) (rnd : Rnd) (sat : Bool) (tier : Option (BitVec 2)) (s : State) :
    exec (.vreds h d a ty rnd sat tier) s = execVreds h d a ty rnd sat tier s := rfl
@[simp] theorem exec_vredx (h : Hdr) (d : Reg) (a : VecReg) (ty : Ty) (tier : Option (BitVec 2)) (isMax : Bool) (s : State) :
    exec (.vredx h d a ty tier isMax) s = execVredx h d a ty tier isMax s := rfl
@[simp] theorem exec_vclass (h : Hdr) (d : VecReg) (a : VecReg) (ty : Ty) (tier : Option (BitVec 2)) (s : State) :
    exec (.vclass h d a ty tier) s = execVclass h d a ty tier s := rfl
@[simp] theorem exec_vcode (h : Hdr) (d : VecReg) (a : VecReg) (ty : Ty) (ty2 : Ty) (tier : Option (BitVec 2)) (seg : BitVec 3) (s : State) :
    exec (.vcode h d a ty ty2 tier seg) s = execVcode h d a ty ty2 tier seg s := rfl
@[simp] theorem exec_vql4 (h : Hdr) (d : VecReg) (a : VecReg) (ty : Ty) (ty2 : Ty) (tier : Option (BitVec 2)) (seg : BitVec 3) (s : State) :
    exec (.vql4 h d a ty ty2 tier seg) s = execVql4 h d a ty ty2 tier seg s := rfl
@[simp] theorem exec_vscac (h : Hdr) (d : VecReg) (a : VecReg) (b : VecReg) (ty : Ty) (ty2 : Ty) (tier : Option (BitVec 2)) (c : VecReg) (e : Reg) (ql : Bool) (s : State) :
    exec (.vscac h d a b ty ty2 tier c e ql) s = execVscac h d a b ty ty2 tier c e ql s := rfl
@[simp] theorem exec_vker (h : Hdr) (d : VecReg) (a : VecReg) (ty : Ty) (tier : Option (BitVec 2)) (s : State) :
    exec (.vker h d a ty tier) s = execVker h d a ty tier s := rfl
@[simp] theorem exec_gang (h : Hdr) (s : State) :
    exec (.gang h) s = execGang h s := rfl
@[simp] theorem exec_mma (h : Hdr) (d : TileReg) (a : Reg) (ty : Ty) (ty2 : Ty) (k : BitVec 14) (koff : BitVec 13) (t : Bool) (z : Bool) (s : State) :
    exec (.mma h d a ty ty2 k koff t z) s = execMma h d a ty ty2 k koff t z s := rfl
@[simp] theorem exec_mmas (h : Hdr) (d : TileReg) (a : Reg) (b : MsgReg) (ty : Ty) (ty2 : Ty) (s : State) :
    exec (.mmas h d a b ty ty2) s = execMmas h d a b ty ty2 s := rfl
@[simp] theorem exec_mwld (h : Hdr) (a : Reg) (b : Reg) (ty : Ty) (k : BitVec 14) (axis : Bool) (s : State) :
    exec (.mwld h a b ty k axis) s = execMwld h a b ty k axis s := rfl
@[simp] theorem exec_mzero (h : Hdr) (d : TileReg) (s : State) :
    exec (.mzero h d) s = execMzero h d s := rfl
@[simp] theorem exec_mrd (h : Hdr) (d : VecReg) (a : TileReg) (ty : Ty) (sat : Bool) (row : BitVec 5) (s : State) :
    exec (.mrd h d a ty sat row) s = execMrd h d a ty sat row s := rfl
@[simp] theorem exec_mscac (h : Hdr) (d : TileReg) (a : Reg) (b : Reg) (s : State) :
    exec (.mscac h d a b) s = execMscac h d a b s := rfl
@[simp] theorem exec_mstat (h : Hdr) (d : Reg) (s : State) :
    exec (.mstat h d) s = execMstat h d s := rfl
@[simp] theorem exec_rstr (h : Hdr) (d : WsReg) (a : Reg) (b : Reg) (ty : Ty) (ovw : Bool) (self : Bool) (s : State) :
    exec (.rstr h d a b ty ovw self) s = execRstr h d a b ty ovw self s := rfl
@[simp] theorem exec_prlg (h : Hdr) (d : WsReg) (a : Reg) (b : Reg) (ty : Ty) (ovw : Bool) (self : Bool) (s : State) :
    exec (.prlg h d a b ty ovw self) s = execPrlg h d a b ty ovw self s := rfl
@[simp] theorem exec_wsld (h : Hdr) (d : WsReg) (a : Reg) (s : State) :
    exec (.wsld h d a) s = execWsld h d a s := rfl
@[simp] theorem exec_xclr (h : Hdr) (d : ExpReg) (a : Reg) (tier : Option (BitVec 2)) (s : State) :
    exec (.xclr h d a tier) s = execXclr h d a tier s := rfl
@[simp] theorem exec_xld (h : Hdr) (d : ExpReg) (a : Reg) (tier : Option (BitVec 2)) (s : State) :
    exec (.xld h d a tier) s = execXld h d a tier s := rfl
@[simp] theorem exec_xst (h : Hdr) (d : ExpReg) (a : Reg) (tier : Option (BitVec 2)) (s : State) :
    exec (.xst h d a tier) s = execXst h d a tier s := rfl
@[simp] theorem exec_xsetKern (h : Hdr) (tier : Option (BitVec 2)) (kern : BitVec 3) (s : State) :
    exec (.xsetKern h tier kern) s = execXsetKern h tier kern s := rfl
@[simp] theorem exec_xsetGamma (h : Hdr) (a : Reg) (tier : Option (BitVec 2)) (s : State) :
    exec (.xsetGamma h a tier) s = execXsetGamma h a tier s := rfl
@[simp] theorem exec_xsetEta (h : Hdr) (a : Reg) (tier : Option (BitVec 2)) (s : State) :
    exec (.xsetEta h a tier) s = execXsetEta h a tier s := rfl
@[simp] theorem exec_xform (h : Hdr) (d : ExpReg) (a : Reg) (tier : Option (BitVec 2)) (n : BitVec 13) (s : State) :
    exec (.xform h d a tier n) s = execXform h d a tier n s := rfl
@[simp] theorem exec_xm2m (h : Hdr) (d : ExpReg) (a : ExpReg) (tier : Option (BitVec 2)) (s : State) :
    exec (.xm2m h d a tier) s = execXm2m h d a tier s := rfl
@[simp] theorem exec_xm2l (h : Hdr) (d : ExpReg) (a : ExpReg) (tier : Option (BitVec 2)) (s : State) :
    exec (.xm2l h d a tier) s = execXm2l h d a tier s := rfl
@[simp] theorem exec_xl2l (h : Hdr) (d : ExpReg) (a : ExpReg) (tier : Option (BitVec 2)) (s : State) :
    exec (.xl2l h d a tier) s = execXl2l h d a tier s := rfl
@[simp] theorem exec_xeval (h : Hdr) (a : Reg) (b : ExpReg) (tier : Option (BitVec 2)) (n : BitVec 13) (s : State) :
    exec (.xeval h a b tier n) s = execXeval h a b tier n s := rfl
@[simp] theorem exec_xm2p (h : Hdr) (a : Reg) (b : ExpReg) (tier : Option (BitVec 2)) (n : BitVec 13) (s : State) :
    exec (.xm2p h a b tier n) s = execXm2p h a b tier n s := rfl
@[simp] theorem exec_xadm (h : Hdr) (d : PredReg) (a : ExpReg) (b : ExpReg) (tier : Option (BitVec 2)) (s : State) :
    exec (.xadm h d a b tier) s = execXadm h d a b tier s := rfl
@[simp] theorem exec_cpy (h : Hdr) (a : Reg) (scope : Scope) (s : State) :
    exec (.cpy h a scope) s = execCpy h a scope s := rfl
@[simp] theorem exec_cpys (h : Hdr) (a : Reg) (scope : Scope) (s : State) :
    exec (.cpys h a scope) s = execCpys h a scope s := rfl
@[simp] theorem exec_cpyg (h : Hdr) (a : Reg) (scope : Scope) (s : State) :
    exec (.cpyg h a scope) s = execCpyg h a scope s := rfl
@[simp] theorem exec_stage (h : Hdr) (a : Reg) (s : State) :
    exec (.stage h a) s = execStage h a s := rfl
@[simp] theorem exec_coll (h : Hdr) (a : Reg) (ty : Ty) (scope : Scope) (kind : BitVec 2) (op : BitVec 2) (s : State) :
    exec (.coll h a ty scope kind op) s = execColl h a ty scope kind op s := rfl
@[simp] theorem exec_finst (h : Hdr) (a : Reg) (s : State) :
    exec (.finst h a) s = execFinst h a s := rfl
@[simp] theorem exec_fstat (h : Hdr) (d : Reg) (a : Reg) (s : State) :
    exec (.fstat h d a) s = execFstat h d a s := rfl
@[simp] theorem exec_marm (h : Hdr) (a : Reg) (s : State) :
    exec (.marm h a) s = execMarm h a s := rfl
@[simp] theorem exec_mwait (h : Hdr) (d : Reg) (a : Reg) (ne : Bool) (s : State) :
    exec (.mwait h d a ne) s = execMwait h d a ne s := rfl
@[simp] theorem exec_aadd (h : Hdr) (d : Reg) (a : Reg) (b : Reg) (ty : Ty) (scope : Scope) (k : BitVec 8) (sc : Bool) (s : State) :
    exec (.aadd h d a b ty scope k sc) s = execAadd h d a b ty scope k sc s := rfl
@[simp] theorem exec_amin (h : Hdr) (d : Reg) (a : Reg) (b : Reg) (ty : Ty) (scope : Scope) (k : BitVec 8) (sc : Bool) (s : State) :
    exec (.amin h d a b ty scope k sc) s = execAmin h d a b ty scope k sc s := rfl
@[simp] theorem exec_amax (h : Hdr) (d : Reg) (a : Reg) (b : Reg) (ty : Ty) (scope : Scope) (k : BitVec 8) (sc : Bool) (s : State) :
    exec (.amax h d a b ty scope k sc) s = execAmax h d a b ty scope k sc s := rfl
@[simp] theorem exec_axchg (h : Hdr) (d : Reg) (a : Reg) (b : Reg) (ty : Ty) (scope : Scope) (k : BitVec 8) (sc : Bool) (s : State) :
    exec (.axchg h d a b ty scope k sc) s = execAxchg h d a b ty scope k sc s := rfl
@[simp] theorem exec_acas (h : Hdr) (d : Reg) (a : Reg) (b : Reg) (ty : Ty) (scope : Scope) (k : BitVec 8) (sc : Bool) (s : State) :
    exec (.acas h d a b ty scope k sc) s = execAcas h d a b ty scope k sc s := rfl
@[simp] theorem exec_aand (h : Hdr) (d : Reg) (a : Reg) (b : Reg) (ty : Ty) (scope : Scope) (k : BitVec 8) (sc : Bool) (s : State) :
    exec (.aand h d a b ty scope k sc) s = execAand h d a b ty scope k sc s := rfl
@[simp] theorem exec_aor (h : Hdr) (d : Reg) (a : Reg) (b : Reg) (ty : Ty) (scope : Scope) (k : BitVec 8) (sc : Bool) (s : State) :
    exec (.aor h d a b ty scope k sc) s = execAor h d a b ty scope k sc s := rfl
@[simp] theorem exec_slota (h : Hdr) (d : Reg) (a : Reg) (kind : BitVec 2) (s : State) :
    exec (.slota h d a kind) s = execSlota h d a kind s := rfl
@[simp] theorem exec_slotf (h : Hdr) (d : Reg) (a : Reg) (s : State) :
    exec (.slotf h d a) s = execSlotf h d a s := rfl
@[simp] theorem exec_rvinit (h : Hdr) (d : Reg) (a : Reg) (b : Reg) (s : State) :
    exec (.rvinit h d a b) s = execRvinit h d a b s := rfl
@[simp] theorem exec_rvarr (h : Hdr) (d : Reg) (a : Reg) (s : State) :
    exec (.rvarr h d a) s = execRvarr h d a s := rfl
@[simp] theorem exec_rvarrEng (h : Hdr) (d : Reg) (a : Reg) (s : State) :
    exec (.rvarrEng h d a) s = execRvarrEng h d a s := rfl
@[simp] theorem exec_rvwait (h : Hdr) (d : Reg) (a : Reg) (b : Reg) (s : State) :
    exec (.rvwait h d a b) s = execRvwait h d a b s := rfl
@[simp] theorem exec_evsig (h : Hdr) (d : Reg) (a : Reg) (sc : Bool) (s : State) :
    exec (.evsig h d a sc) s = execEvsig h d a sc s := rfl
@[simp] theorem exec_evwait (h : Hdr) (d : Reg) (a : Reg) (b : Reg) (s : State) :
    exec (.evwait h d a b) s = execEvwait h d a b s := rfl
@[simp] theorem exec_mlock (h : Hdr) (d : Reg) (a : Reg) (s : State) :
    exec (.mlock h d a) s = execMlock h d a s := rfl
@[simp] theorem exec_munlk (h : Hdr) (d : Reg) (a : Reg) (s : State) :
    exec (.munlk h d a) s = execMunlk h d a s := rfl
@[simp] theorem exec_acq (h : Hdr) (d : Reg) (a : Reg) (sc : Bool) (s : State) :
    exec (.acq h d a sc) s = execAcq h d a sc s := rfl
@[simp] theorem exec_rel (h : Hdr) (d : Reg) (a : Reg) (sc : Bool) (s : State) :
    exec (.rel h d a sc) s = execRel h d a sc s := rfl
@[simp] theorem exec_bind (h : Hdr) (a : Reg) (b : Reg) (scope : Scope) (n : BitVec 30) (s : State) :
    exec (.bind h a b scope n) s = execBind h a b scope n s := rfl
@[simp] theorem exec_fence (h : Hdr) (scope : Scope) (s : State) :
    exec (.fence h scope) s = execFence h scope s := rfl
@[simp] theorem exec_fencex (h : Hdr) (scope : Scope) (path : Path) (p2 : Path) (s : State) :
    exec (.fencex h scope path p2) s = execFencex h scope path p2 s := rfl
@[simp] theorem exec_sleep (h : Hdr) (a : Reg) (s : State) :
    exec (.sleep h a) s = execSleep h a s := rfl
@[simp] theorem exec_twait (h : Hdr) (d : Reg) (a : Reg) (b : MsgReg) (s : State) :
    exec (.twait h d a b) s = execTwait h d a b s := rfl
@[simp] theorem exec_idem (h : Hdr) (s : State) :
    exec (.idem h) s = execIdem h s := rfl
@[simp] theorem exec_idemEnd (h : Hdr) (s : State) :
    exec (.idemEnd h) s = execIdemEnd h s := rfl
@[simp] theorem exec_ctxsv (h : Hdr) (d : Reg) (a : Reg) (all : Bool) (s : State) :
    exec (.ctxsv h d a all) s = execCtxsv h d a all s := rfl
@[simp] theorem exec_ctxld (h : Hdr) (d : Reg) (a : Reg) (all : Bool) (s : State) :
    exec (.ctxld h d a all) s = execCtxld h d a all s := rfl
@[simp] theorem exec_phaseRelease (s : State) :
    exec .phaseRelease s = execPhaseRelease s := rfl
@[simp] theorem exec_releaseNotice (s : State) :
    exec .releaseNotice s = execReleaseNotice s := rfl
@[simp] theorem exec_phaseEnd (s : State) :
    exec .phaseEnd s = execPhaseEnd s := rfl
@[simp] theorem exec_gangBarrierTimeout (s : State) :
    exec .gangBarrierTimeout s = execGangBarrierTimeout s := rfl
@[simp] theorem exec_stop (s : State) :
    exec .stop s = execStop s := rfl
@[simp] theorem exec_groupHalt (s : State) :
    exec .groupHalt s = execGroupHalt s := rfl
@[simp] theorem exec_preempt (s : State) :
    exec .preempt s = execPreempt s := rfl
@[simp] theorem exec_resumeRequest (s : State) :
    exec .resumeRequest s = execResumeRequest s := rfl
@[simp] theorem exec_thermDelivery (s : State) :
    exec .thermDelivery s = execThermDelivery s := rfl
@[simp] theorem exec_messageArrival (s : State) :
    exec .messageArrival s = execMessageArrival s := rfl
@[simp] theorem exec_mgetPortRead (s : State) :
    exec .mgetPortRead s = execMgetPortRead s := rfl
@[simp] theorem exec_mgetReply (s : State) :
    exec .mgetReply s = execMgetReply s := rfl
@[simp] theorem exec_msgbPortWrite (s : State) :
    exec .msgbPortWrite s = execMsgbPortWrite s := rfl
@[simp] theorem exec_ldxReply (s : State) :
    exec .ldxReply s = execLdxReply s := rfl
@[simp] theorem exec_stxComplete (s : State) :
    exec .stxComplete s = execStxComplete s := rfl
@[simp] theorem exec_engineMessageArrival (s : State) :
    exec .engineMessageArrival s = execEngineMessageArrival s := rfl
@[simp] theorem exec_sliceOpStart (s : State) :
    exec .sliceOpStart s = execSliceOpStart s := rfl
@[simp] theorem exec_sliceOpComplete (s : State) :
    exec .sliceOpComplete s = execSliceOpComplete s := rfl
@[simp] theorem exec_mwldComplete (s : State) :
    exec .mwldComplete s = execMwldComplete s := rfl
@[simp] theorem exec_mmasComplete (s : State) :
    exec .mmasComplete s = execMmasComplete s := rfl
@[simp] theorem exec_verticalOpStart (s : State) :
    exec .verticalOpStart s = execVerticalOpStart s := rfl
@[simp] theorem exec_verticalOpEnd (s : State) :
    exec .verticalOpEnd s = execVerticalOpEnd s := rfl
@[simp] theorem exec_rstrMerge (s : State) :
    exec .rstrMerge s = execRstrMerge s := rfl
@[simp] theorem exec_laneStateChange (s : State) :
    exec .laneStateChange s = execLaneStateChange s := rfl
@[simp] theorem exec_expansionOpStart (s : State) :
    exec .expansionOpStart s = execExpansionOpStart s := rfl
@[simp] theorem exec_expansionOpEnd (s : State) :
    exec .expansionOpEnd s = execExpansionOpEnd s := rfl
@[simp] theorem exec_engineCommandStart (s : State) :
    exec .engineCommandStart s = execEngineCommandStart s := rfl
@[simp] theorem exec_engineUnit (s : State) :
    exec .engineUnit s = execEngineUnit s := rfl
@[simp] theorem exec_engineStampWrite (s : State) :
    exec .engineStampWrite s = execEngineStampWrite s := rfl
@[simp] theorem exec_staticEntryStart (s : State) :
    exec .staticEntryStart s = execStaticEntryStart s := rfl
@[simp] theorem exec_installComplete (s : State) :
    exec .installComplete s = execInstallComplete s := rfl
@[simp] theorem exec_collComplete (s : State) :
    exec .collComplete s = execCollComplete s := rfl
@[simp] theorem exec_translationWalk (s : State) :
    exec .translationWalk s = execTranslationWalk s := rfl
@[simp] theorem exec_stagingFill (s : State) :
    exec .stagingFill s = execStagingFill s := rfl
@[simp] theorem exec_atomicSlot (s : State) :
    exec .atomicSlot s = execAtomicSlot s := rfl
@[simp] theorem exec_clusterAtomicReply (s : State) :
    exec .clusterAtomicReply s = execClusterAtomicReply s := rfl
@[simp] theorem exec_deviceAtomicReply (s : State) :
    exec .deviceAtomicReply s = execDeviceAtomicReply s := rfl
@[simp] theorem exec_objectReply (s : State) :
    exec .objectReply s = execObjectReply s := rfl
@[simp] theorem exec_scAnnounce (s : State) :
    exec .scAnnounce s = execScAnnounce s := rfl
@[simp] theorem exec_scDelivery (s : State) :
    exec .scDelivery s = execScDelivery s := rfl
@[simp] theorem exec_rvRootForward (s : State) :
    exec .rvRootForward s = execRvRootForward s := rfl
@[simp] theorem exec_fireArrival (s : State) :
    exec .fireArrival s = execFireArrival s := rfl
@[simp] theorem exec_eventChainForward (s : State) :
    exec .eventChainForward s = execEventChainForward s := rfl
@[simp] theorem exec_sleepExpiry (s : State) :
    exec .sleepExpiry s = execSleepExpiry s := rfl
@[simp] theorem exec_twaitExpiry (s : State) :
    exec .twaitExpiry s = execTwaitExpiry s := rfl
@[simp] theorem exec_faultRecordDrain (s : State) :
    exec .faultRecordDrain s = execFaultRecordDrain s := rfl
@[simp] theorem exec_taskStart (s : State) :
    exec .taskStart s = execTaskStart s := rfl
@[simp] theorem exec_nodeKernel (s : State) :
    exec .nodeKernel s = execNodeKernel s := rfl
@[simp] theorem exec_kernelComplete (s : State) :
    exec .kernelComplete s = execKernelComplete s := rfl
@[simp] theorem exec_nodeCopy (s : State) :
    exec .nodeCopy s = execNodeCopy s := rfl
@[simp] theorem exec_nodeInstall (s : State) :
    exec .nodeInstall s = execNodeInstall s := rfl
@[simp] theorem exec_nodeCond (s : State) :
    exec .nodeCond s = execNodeCond s := rfl
@[simp] theorem exec_nodeLoop (s : State) :
    exec .nodeLoop s = execNodeLoop s := rfl
@[simp] theorem exec_nodeSwitch (s : State) :
    exec .nodeSwitch s = execNodeSwitch s := rfl
@[simp] theorem exec_nodeSignal (s : State) :
    exec .nodeSignal s = execNodeSignal s := rfl
@[simp] theorem exec_signalComplete (s : State) :
    exec .signalComplete s = execSignalComplete s := rfl
@[simp] theorem exec_nodeWait (s : State) :
    exec .nodeWait s = execNodeWait s := rfl
@[simp] theorem exec_waitTimeout (s : State) :
    exec .waitTimeout s = execWaitTimeout s := rfl
@[simp] theorem exec_nodeSuccessor (s : State) :
    exec .nodeSuccessor s = execNodeSuccessor s := rfl
@[simp] theorem exec_taskStampWrite (s : State) :
    exec .taskStampWrite s = execTaskStampWrite s := rfl
@[simp] theorem exec_qctlWrite (s : State) :
    exec .qctlWrite s = execQctlWrite s := rfl
@[simp] theorem exec_qptrWrite (s : State) :
    exec .qptrWrite s = execQptrWrite s := rfl
@[simp] theorem exec_partcfgWrite (s : State) :
    exec .partcfgWrite s = execPartcfgWrite s := rfl
@[simp] theorem exec_vfbindWrite (s : State) :
    exec .vfbindWrite s = execVfbindWrite s := rfl
@[simp] theorem exec_beatctlReqWrite (s : State) :
    exec .beatctlReqWrite s = execBeatctlReqWrite s := rfl
@[simp] theorem exec_beatctlRestore (s : State) :
    exec .beatctlRestore s = execBeatctlRestore s := rfl
@[simp] theorem exec_beatChange (s : State) :
    exec .beatChange s = execBeatChange s := rfl
@[simp] theorem exec_tctlWrite (s : State) :
    exec .tctlWrite s = execTctlWrite s := rfl
@[simp] theorem exec_pcapWrite (s : State) :
    exec .pcapWrite s = execPcapWrite s := rfl
@[simp] theorem exec_pfloorWrite (s : State) :
    exec .pfloorWrite s = execPfloorWrite s := rfl
@[simp] theorem exec_hlimWrite (s : State) :
    exec .hlimWrite s = execHlimWrite s := rfl
@[simp] theorem exec_ibudgetWrite (s : State) :
    exec .ibudgetWrite s = execIbudgetWrite s := rfl
@[simp] theorem exec_fqctlWrite (s : State) :
    exec .fqctlWrite s = execFqctlWrite s := rfl
@[simp] theorem exec_tinv (s : State) :
    exec .tinv s = execTinv s := rfl
@[simp] theorem exec_tinvComplete (s : State) :
    exec .tinvComplete s = execTinvComplete s := rfl
@[simp] theorem exec_routingEntryWrite (s : State) :
    exec .routingEntryWrite s = execRoutingEntryWrite s := rfl
@[simp] theorem exec_swap (s : State) :
    exec .swap s = execSwap s := rfl
@[simp] theorem exec_routeBankSwap (s : State) :
    exec .routeBankSwap s = execRouteBankSwap s := rfl
@[simp] theorem exec_pstatClr (s : State) :
    exec .pstatClr s = execPstatClr s := rfl
@[simp] theorem exec_attestRequest (s : State) :
    exec .attestRequest s = execAttestRequest s := rfl
@[simp] theorem exec_attestComplete (s : State) :
    exec .attestComplete s = execAttestComplete s := rfl
@[simp] theorem exec_mgmtRegisterWrite (s : State) :
    exec .mgmtRegisterWrite s = execMgmtRegisterWrite s := rfl
@[simp] theorem exec_initiateFlr (s : State) :
    exec .initiateFlr s = execInitiateFlr s := rfl
@[simp] theorem exec_flrDrainDone (s : State) :
    exec .flrDrainDone s = execFlrDrainDone s := rfl
@[simp] theorem exec_flrComplete (s : State) :
    exec .flrComplete s = execFlrComplete s := rfl
@[simp] theorem exec_sensorSample (s : State) :
    exec .sensorSample s = execSensorSample s := rfl
@[simp] theorem exec_selfThrottleStep (s : State) :
    exec .selfThrottleStep s = execSelfThrottleStep s := rfl
@[simp] theorem exec_hardLimitStep (s : State) :
    exec .hardLimitStep s = execHardLimitStep s := rfl
@[simp] theorem exec_budgetRefill (s : State) :
    exec .budgetRefill s = execBudgetRefill s := rfl
@[simp] theorem exec_flitReceive (s : State) :
    exec .flitReceive s = execFlitReceive s := rfl
@[simp] theorem exec_drainMarker (s : State) :
    exec .drainMarker s = execDrainMarker s := rfl
@[simp] theorem exec_flowLossTimeout (s : State) :
    exec .flowLossTimeout s = execFlowLossTimeout s := rfl
@[simp] theorem exec_linkEvent (s : State) :
    exec .linkEvent s = execLinkEvent s := rfl
@[simp] theorem exec_noticeReceive (s : State) :
    exec .noticeReceive s = execNoticeReceive s := rfl
@[simp] theorem exec_retrainComplete (s : State) :
    exec .retrainComplete s = execRetrainComplete s := rfl
@[simp] theorem exec_flowControlSignal (s : State) :
    exec .flowControlSignal s = execFlowControlSignal s := rfl
@[simp] theorem exec_powerOn (s : State) :
    exec .powerOn s = execPowerOn s := rfl
@[simp] theorem exec_fstatResult (s : State) :
    exec .fstatResult s = execFstatResult s := rfl
@[simp] theorem exec_partcfgChangeComplete (s : State) :
    exec .partcfgChangeComplete s = execPartcfgChangeComplete s := rfl
@[simp] theorem exec_portTrainingComplete (s : State) :
    exec .portTrainingComplete s = execPortTrainingComplete s := rfl
@[simp] theorem exec_softError (s : State) :
    exec .softError s = execSoftError s := rfl

end Sys2Proof.Laws
end

