-- ==== Sys2Proof/Laws/Memory.lean ====
section
/-! SUPPORT. The laws of byte memory: reads after writes, what a write leaves alone, and that every memory operation
keeps the canonical form. -/

namespace Sys2Proof.Laws

open Sys2Proof.Machine Sys2Proof.Safety

set_option Elab.async false

/-! ## Bytes -/

@[simp] theorem length_leBytes (n v : Nat) : (leBytes n v).length = n := by
  induction n generalizing v with
  | zero => rfl
  | succ n ih => simp [leBytes, ih]

@[simp] theorem length_readBytes (m : Sparse Byte) (a n : Nat) : (readBytes m a n).length = n := by
  induction n generalizing a with
  | zero => rfl
  | succ n ih => simp [readBytes, ih]

/-- Little-endian bytes hold the number's low bits (R1). -/
theorem leNat_leBytes (n v : Nat) : leNat (leBytes n v) = v % 256 ^ n := by
  induction n generalizing v with
  | zero => simp [leBytes, leNat, Nat.mod_one]
  | succ n ih =>
    simp only [leBytes, leNat, ih, BitVec.toNat_ofNat]
    rw [show (256 : Nat) ^ (n + 1) = 256 * 256 ^ n from by rw [Nat.pow_succ, Nat.mul_comm], Nat.mod_mul]

theorem swf_writeBytes (m : Sparse Byte) (a : Nat) (bs : List Byte) (h : Memory.wf m = true) :
    Memory.wf (writeBytes m a bs) = true := by
  induction bs generalizing m a with
  | nil => exact h
  | cons b r ih => exact ih _ _ (swf_sset _ _ h)

/-- A byte written reads back; every other byte is as before. -/
theorem sget_writeBytes (m : Sparse Byte) (a k : Nat) (bs : List Byte) :
    sget 0 (writeBytes m a bs) k = if a ≤ k ∧ k < a + bs.length then bs.getD (k - a) 0 else sget 0 m k := by
  induction bs generalizing m a with
  | nil =>
    have : ¬ (a ≤ k ∧ k < a) := by omega
    simp [writeBytes, this]
  | cons b r ih =>
    rw [writeBytes, ih, sget_sset]
    by_cases h : a = k
    · subst h
      simp
    · by_cases h1 : a + 1 ≤ k ∧ k < a + 1 + r.length
      · have h2 : a ≤ k ∧ k < a + (b :: r).length := by simp; omega
        rw [if_pos h1, if_pos h2, show k - a = (k - (a + 1)) + 1 by omega]
        simp
      · have h2 : ¬ (a ≤ k ∧ k < a + (b :: r).length) := by simp; omega
        rw [if_neg h1, if_neg h2, if_neg h]

theorem readBytes_congr (m m' : Sparse Byte) (a n : Nat) (h : ∀ k, a ≤ k → k < a + n → sget 0 m k = sget 0 m' k) :
    readBytes m a n = readBytes m' a n := by
  induction n generalizing a with
  | zero => rfl
  | succ n ih =>
    simp only [readBytes]
    rw [h a (by omega) (by omega), ih (a + 1) (fun k h1 h2 => h k (by omega) (by omega))]

/-- Bytes read where they were written. -/
theorem readBytes_writeBytes (m : Sparse Byte) (a : Nat) (bs : List Byte) :
    readBytes (writeBytes m a bs) a bs.length = bs := by
  induction bs generalizing m a with
  | nil => rfl
  | cons b r ih =>
    simp only [List.length_cons, readBytes]
    rw [sget_writeBytes]
    simp only [writeBytes, ih]
    simp

/-- A write leaves a range that it does not meet. -/
theorem readBytes_writeBytes_apart (m : Sparse Byte) (a b n : Nat) (bs : List Byte)
    (h : b + n ≤ a ∨ a + bs.length ≤ b) : readBytes (writeBytes m a bs) b n = readBytes m b n := by
  refine readBytes_congr _ _ _ _ (fun k h1 h2 => ?_)
  rw [sget_writeBytes, if_neg (by omega)]

theorem swf_storeBytes (t : Nat) (m : Sparse Byte) (a : Nat) (bs : List Byte) (h : Memory.wf m = true) :
    Memory.wf (storeBytes t m a bs) = true := by
  induction bs generalizing m a with
  | nil => exact h
  | cons b r ih => exact ih _ _ (swf_sset _ _ h)

/-- A core's store changes the bytes it covers, each in its writable bits (R175, R254). -/
theorem sget_storeBytes (t : Nat) (m : Sparse Byte) (a k : Nat) (bs : List Byte) :
    sget 0 (storeBytes t m a bs) k = if a ≤ k ∧ k < a + bs.length then
      (bs.getD (k - a) 0 &&& writableBits t k) ||| (sget 0 m k &&& ~~~writableBits t k) else sget 0 m k := by
  induction bs generalizing m a with
  | nil =>
    have : ¬ (a ≤ k ∧ k < a) := by omega
    simp [storeBytes, this]
  | cons b r ih =>
    rw [storeBytes, ih]
    simp only [sget_sset]
    by_cases h : a = k
    · subst h
      simp
    · by_cases h1 : a + 1 ≤ k ∧ k < a + 1 + r.length
      · have h2 : a ≤ k ∧ k < a + (b :: r).length := by simp; omega
        rw [if_pos h1, if_pos h2, show k - a = (k - (a + 1)) + 1 by omega, if_neg h]
        simp
      · have h2 : ¬ (a ≤ k ∧ k < a + (b :: r).length) := by simp; omega
        rw [if_neg h1, if_neg h2, if_neg h]

theorem swf_clearPoison (p : Sparse (BitVec 2)) (a n : Nat) (h : swf 0 p = true) : swf 0 (clearPoison p a n) = true := by
  unfold clearPoison
  generalize List.range _ = l
  induction l generalizing p with
  | nil => exact h
  | cons i r ih => exact ih _ (swf_serase _ h)

theorem swf_mendWord (p : Sparse (BitVec 2)) (a : Nat) (h : swf 0 p = true) : swf 0 (mendWord p a) = true := by
  unfold mendWord
  split
  · exact swf_serase _ h
  · exact h

/-! ## A core's memories -/

theorem all_sset {α : Type} [DecidableEq α] {d : α} {m : Sparse α} {k : Nat} {v : α} {p : α → Bool}
    (h : m.all (fun e => p e.2) = true) (hv : p v = true) : (sset d m k v).all (fun e => p e.2) = true := by
  rw [List.all_eq_true] at *
  intro e he
  rcases mem_sset he with he | he
  · exact h e he
  · exact he ▸ hv

theorem all_sget {α : Type} {d : α} {m : Sparse α} (k : Nat) {p : α → Bool}
    (h : m.all (fun e => p e.2) = true) (hd : p d = true) : p (sget d m k) = true := by
  induction m with
  | nil => exact hd
  | cons e r ih =>
    obtain ⟨j, w⟩ := e
    simp only [List.all_cons, Bool.and_eq_true] at h
    simp only [sget]
    split
    · exact h.1
    · exact ih h.2

theorem ctxCanonical_reset : ctxCanonical .reset = true := by decide
theorem coreCanonical_reset : coreCanonical .reset = true := by decide

/-- A core whose memories are those of a canonical core is canonical. -/
theorem coreCanonical_congr {c c' : Core} (h : coreCanonical c = true) (h1 : c'.near = c.near) (h2 : c'.poison = c.poison)
    (h3 : c'.store = c.store) (h4 : c'.ctxs = c.ctxs) (h5 : c'.ctl.ckpt = c.ctl.ckpt) : coreCanonical c' = true := by
  simpa [coreCanonical, h1, h2, h3, h4, h5] using h

theorem coreCanonical_ctx {c : Core} (i : Nat) (h : coreCanonical c = true) : ctxCanonical (c.ctx i) = true := by
  simp only [coreCanonical, Bool.and_eq_true] at h
  exact all_sget i h.1.2 ctxCanonical_reset

theorem coreCanonical_setCtx {c : Core} (i : Nat) (x : Ctx) (h : coreCanonical c = true) (hx : ctxCanonical x = true) :
    coreCanonical (c.setCtx i x) = true := by
  simp only [coreCanonical, Bool.and_eq_true] at *
  exact ⟨⟨⟨h.1.1.1, swf_sset _ _ h.1.1.2⟩, all_sset h.1.2 hx⟩, h.2⟩

theorem coreCanonical_modCtx {c : Core} (i : Nat) (f : Ctx → Ctx) (h : coreCanonical c = true)
    (hf : ∀ x, ctxCanonical x = true → ctxCanonical (f x) = true) : coreCanonical (c.modCtx i f) = true :=
  coreCanonical_setCtx i _ h (hf _ (coreCanonical_ctx i h))

theorem coreCanonical_storeN {c : Core} (t a : Nat) (bs : List Byte) (sub : Bool) (h : coreCanonical c = true) :
    coreCanonical (c.storeN t a bs sub) = true := by
  simp only [coreCanonical, Bool.and_eq_true, Core.storeN] at *
  refine ⟨⟨⟨⟨⟨swf_storeBytes _ _ _ _ h.1.1.1.1.1, ?_⟩, h.1.1.1.2⟩, h.1.1.2⟩, h.1.2⟩, h.2⟩
  cases sub
  · exact swf_clearPoison _ _ _ h.1.1.1.1.2
  · exact swf_mendWord _ _ h.1.1.1.1.2

theorem coreCanonical_portWrite {c : Core} (a : Nat) (bs : List Byte) (h : coreCanonical c = true) :
    coreCanonical (c.portWrite a bs) = true := by
  simp only [coreCanonical, Bool.and_eq_true, Core.portWrite] at *
  exact ⟨⟨⟨⟨⟨swf_writeBytes _ _ _ h.1.1.1.1.1, swf_clearPoison _ _ _ h.1.1.1.1.2⟩, h.1.1.1.2⟩, h.1.1.2⟩, h.1.2⟩, h.2⟩

theorem coreCanonical_poisonWord {c : Core} (a : Nat) (h : coreCanonical c = true) :
    coreCanonical (c.poisonWord a) = true := by
  simp only [coreCanonical, Bool.and_eq_true, Core.poisonWord] at *
  exact ⟨⟨⟨⟨⟨h.1.1.1.1.1, swf_sset _ _ h.1.1.1.1.2⟩, h.1.1.1.2⟩, h.1.1.2⟩, h.1.2⟩, h.2⟩

/-- What holds of a start and is kept by each step holds of a fold. -/
theorem fold_keeps {α β : Type} (p : β → Prop) (f : β → α → β) (l : List α) (b : β) (h : p b)
    (hf : ∀ b a, p b → p (f b a)) : p (l.foldl f b) := by
  induction l generalizing b with
  | nil => exact h
  | cons a r ih => exact ih _ (hf _ _ h)

theorem coreCanonical_applyHeld {c : Core} (t : Nat) (w : Held) (h : coreCanonical c = true) :
    coreCanonical (c.applyHeld t w) = true := by
  unfold Core.applyHeld
  split
  · exact coreCanonical_storeN _ _ _ _ h
  · exact fold_keeps (fun c => coreCanonical c = true) _ _ _ (coreCanonical_portWrite _ _ h)
      (fun c a h => coreCanonical_poisonWord a h)

theorem coreCanonical_writeBy {c : Core} (t u : Nat) (own : Option Nat) (w : Held) (h : coreCanonical c = true) :
    coreCanonical (c.writeBy t u own w) = true := by
  unfold Core.writeBy
  split
  · exact coreCanonical_applyHeld _ _ h
  · refine fold_keeps (fun c => coreCanonical c = true) _ _ _ h (fun c a h => ?_)
    dsimp only
    split
    · exact coreCanonical_congr h rfl rfl rfl rfl rfl
    · exact coreCanonical_applyHeld _ _ h

theorem coreCanonical_endSlot {c : Core} (t u : Nat) (h : coreCanonical c = true) :
    coreCanonical (c.endSlot t u) = true := by
  unfold Core.endSlot
  refine fold_keeps (fun c => coreCanonical c = true) _ _ _ (coreCanonical_congr h rfl rfl rfl rfl rfl) (fun c a h => ?_)
  exact fold_keeps (fun c => coreCanonical c = true) _ _ _ h (fun c a h => coreCanonical_applyHeld _ _ h)

/-- Every result keeps the canonical form of the core it is written in. -/
theorem coreCanonical_applyAct {c : Core} (t i : Nat) (a : Act) (h : coreCanonical c = true) :
    coreCanonical (applyAct t c i a) = true := by
  have hx := coreCanonical_ctx i h
  simp only [ctxCanonical, Bool.and_eq_true] at hx
  cases a <;> simp only [applyAct]
  case store => exact coreCanonical_storeN _ _ _ _ h
  case lanes =>
    exact fold_keeps (fun c => coreCanonical c = true) _ _ _ h (fun c a h => coreCanonical_storeN _ _ _ _ h)
  case ctab => exact coreCanonical_congr h rfl rfl rfl rfl rfl
  case ws => exact coreCanonical_congr h rfl rfl rfl rfl rfl
  case aCol => exact h
  case wLine => exact h
  case scRead => exact h
  case scWrite => exact h
  case atomic => exact h
  case port => exact h
  case look => exact h
  case msgLine => exact h
  all_goals
    refine coreCanonical_setCtx _ _ h ?_
    simp only [ctxCanonical, Bool.and_eq_true]
    first
      | exact hx
      | exact ⟨⟨⟨⟨swf_sset _ _ hx.1.1.1.1, hx.1.1.1.2⟩, hx.1.1.2⟩, hx.1.2⟩, hx.2⟩
      | exact ⟨⟨⟨⟨hx.1.1.1.1, swf_sset _ _ hx.1.1.1.2⟩, hx.1.1.2⟩, hx.1.2⟩, hx.2⟩
      | exact ⟨⟨⟨⟨hx.1.1.1.1, hx.1.1.1.2⟩, swf_sset _ _ hx.1.1.2⟩, hx.1.2⟩, hx.2⟩

theorem coreCanonical_deliver {c : Core} (t i now lat : Nat) (a : Act) (h : coreCanonical c = true) :
    coreCanonical (c.deliver t i now lat a) = true := by
  have h' : coreCanonical (if i = 0 then c else
      { c with pend := c.pend.filter (fun p => !(p.ctx == i && sameTarget a p.act)) }) = true := by
    split
    · exact h
    · exact coreCanonical_congr h rfl rfl rfl rfl rfl
  unfold Core.deliver
  dsimp only
  split
  · exact coreCanonical_applyAct _ _ _ h'
  · exact coreCanonical_congr h' rfl rfl rfl rfl rfl

theorem coreCanonical_deliverAll {c : Core} (t i now lat : Nat) (as_ : List Act) (h : coreCanonical c = true) :
    coreCanonical (c.deliverAll t i now lat as_) = true :=
  fold_keeps (fun c => coreCanonical c = true) _ _ _ h (fun _ a h => coreCanonical_deliver _ _ _ _ a h)

/-! ## The machine's memories -/

theorem memoryCanonical_core {s : State} (k : Nat) (h : memoryCanonical s = true) : coreCanonical (s.core k) = true := by
  simp only [memoryCanonical, Bool.and_eq_true] at h
  exact all_sget k h.1.2 coreCanonical_reset

/-- A state whose cores and far memory are those of a canonical state is canonical. -/
theorem memoryCanonical_congr {s t : State} (h : memoryCanonical s = true) (h1 : t.cores = s.cores)
    (h2 : t.dev.far = s.dev.far) : memoryCanonical t = true := by
  simpa [memoryCanonical, h1, h2] using h

theorem memoryCanonical_setCore {s : State} (k : Nat) (c : Core) (h : memoryCanonical s = true)
    (hc : coreCanonical c = true) : memoryCanonical (s.setCore k c) = true := by
  simp only [memoryCanonical, Bool.and_eq_true] at *
  exact ⟨⟨swf_sset _ _ h.1.1, all_sset h.1.2 hc⟩, h.2⟩

theorem memoryCanonical_modCore {s : State} (k : Nat) (f : Core → Core) (h : memoryCanonical s = true)
    (hf : ∀ c, coreCanonical c = true → coreCanonical (f c) = true) : memoryCanonical (s.modCore k f) = true :=
  memoryCanonical_setCore k _ h (hf _ (memoryCanonical_core k h))

theorem memoryCanonical_modCtx {s : State} (q : Nat × Nat) (f : Ctx → Ctx) (h : memoryCanonical s = true)
    (hf : ∀ x, ctxCanonical x = true → ctxCanonical (f x) = true) : memoryCanonical (s.modCtx q f) = true :=
  memoryCanonical_modCore _ _ h (fun _ hc => coreCanonical_modCtx _ _ hc hf)

theorem memoryCanonical_modCtl {s : State} (k : Nat) (f : Ctl → Ctl) (h : memoryCanonical s = true)
    (hf : ∀ l, (f l).ckpt = l.ckpt) : memoryCanonical (s.modCtl k f) = true :=
  memoryCanonical_modCore _ _ h (fun _ hc => coreCanonical_congr hc rfl rfl rfl rfl (hf _))

theorem memoryCanonical_deliver {s : State} (q : Nat × Nat) (lat : Nat) (as_ : List Act)
    (h : memoryCanonical s = true) : memoryCanonical (s.deliver q lat as_) = true :=
  memoryCanonical_modCore _ _ h (fun _ hc => coreCanonical_deliverAll _ _ _ _ _ hc)

/-- A far write keeps the canonical form. -/
theorem memoryCanonical_far {s : State} (f : Dev → Dev) (h : memoryCanonical s = true)
    (hf : Memory.wf s.dev.far = true → Memory.wf (f s.dev).far = true) : memoryCanonical (s.modDev f) = true := by
  simp only [memoryCanonical, Bool.and_eq_true] at *
  exact ⟨h.1, hf h.2⟩

/-- Reset lists no memory at all. -/
theorem memory_wf_reset : Memory.wf State.reset.dev.far = true := rfl

end Sys2Proof.Laws
end

