-- ==== Sys2Proof/Laws/Issue.lean ====
section
/-! SUPPORT. What the issue stage can do, said once: it always answers a next state; the order of its checks; and the
frame of going on to the next instruction. -/

namespace Sys2Proof.Laws

open Sys2Proof.Machine Sys2Proof.Safety

set_option Elab.async false

variable {n : Need} {body : State → Except Trap Done} {s t u : State}

/-! ## The order of the checks (R81) -/

/-- Every issue answers a next state: none faults, none is refused. -/
theorem issue_next (n : Need) (body : State → Except Trap Done) (s : State) : ∃ t, issue n body s = .next t := ⟨_, rfl⟩

theorem issue_illegal (h : illegal n s = true) :
    issue n body s = .next (s.takeTrap s.cur (s.issuedWord s.cur) (.of .illop)) := by simp [issue, h]

theorem issue_priv {a : Nat} (h : illegal n s = false) (hp : n.priv = some a) :
    issue n body s = .next (s.takeTrap s.cur (s.issuedWord s.cur) (.at_ .priv a)) := by simp [issue, h, hp]

theorem issue_false (h : illegal n s = false) (hp : n.priv = none) (hw : guardWait n s = none)
    (hg : guardHolds n s = false) : issue n body s = .next (retire n ⟨s, .next⟩ false) := by
  simp [issue, h, hp, hw, hg]

theorem issue_ready {d : Done} (h : Ready n s) (hb : body s = .ok d) :
    issue n body s = .next (retire { n with unit := idleUnit n s } (n.counted s d) true) := by
  obtain ⟨h1, h2, h3, h4, h5, h6, h7⟩ := h
  simp [issue, h1, h2, h3, h4, h5, h6, h7, hb]

/-- Where the issue reads no word with a single-bit error, nothing is counted. -/
theorem counted_none {d : Done} (h : n.soft s = 0) : n.counted s d = d := by
  unfold Need.counted
  split
  · rfl
  · simp [h, State.count]

/-- The issue of a ready instruction that meets no single-bit error. -/
theorem issue_clean {d : Done} (h : Ready n s) (hb : body s = .ok d) (hs : n.soft s = 0) :
    issue n body s = .next (retire { n with unit := idleUnit n s } d true) := by
  rw [issue_ready h hb, counted_none hs]

theorem soft_nil (h : n.reading = []) : n.soft s = 0 := by simp [Need.soft, h]

theorem issue_trap {tr : Trap} (h : Ready n s) (hb : body s = .error tr) :
    issue n body s = .next (s.takeTrap s.cur (s.issuedWord s.cur) tr) := by
  obtain ⟨h1, h2, h3, h4, h5, h6, h7⟩ := h
  simp [issue, h1, h2, h3, h4, h5, h6, h7, hb]

/-! ## Frames -/

theorem Frame_refl (w : Writes) (s : State) : Frame w s s :=
  ⟨rfl, rfl, fun _ _ => rfl, fun _ _ => rfl, rfl, rfl, fun _ _ => rfl⟩

theorem Frame_trans {w : Writes} (h : Frame w s t) (h' : Frame w t u) : Frame w s u := by
  obtain ⟨a1, a2, a3, a4, a5, a6, a7⟩ := h
  obtain ⟨b1, b2, b3, b4, b5, b6, b7⟩ := h'
  rw [a2] at b3 b4 b5 b6 b7
  refine ⟨b1.trans a1, b2.trans a2, fun k hk => (b3 k hk).trans (a3 k hk), fun i hi => (b4 i hi).trans (a4 i hi),
    b5.trans a5, b6.trans a6, fun a ha => (b7 a ha).trans (a7 a ha)⟩

/-- A frame that names less is a frame that names more. -/
theorem Frame_weaken {w : Writes} (h : Frame {} s t) : Frame w s t := by
  obtain ⟨a1, a2, a3, a4, a5, a6, a7⟩ := h
  exact ⟨congrArg w.machine a1, a2, a3, a4, congrArg w.ctx a5, congrArg w.core a6, fun a _ => a7 a rfl⟩

theorem Frame_place (f : Ctx → Ctx) (hf : ∀ x, placeless (f x) = placeless x) : Frame {} s (s.modCtx s.cur f) := by
  refine ⟨rfl, rfl, fun k hk => ?_, fun i hi => ?_, ?_, ?_, fun a _ => ?_⟩
  · rw [State.modCtx, core_modCore_other _ _ (Ne.symm hk)]
  · rw [State.modCtx, core_modCore_same, ctx_modCtx_other _ _ (Ne.symm hi)]
  · simp [hf]
  · simp [State.modCtx, coreRest]
  · simp [State.modCtx, nearByte]

theorem Frame_ctx {w : Writes} (f : Ctx → Ctx) (hf : ∀ x, w.ctx (placeless (f x)) = w.ctx (placeless x)) :
    Frame w s (s.modCtx s.cur f) := by
  refine ⟨rfl, rfl, fun k hk => ?_, fun i hi => ?_, ?_, ?_, fun a _ => ?_⟩
  · rw [State.modCtx, core_modCore_other _ _ (Ne.symm hk)]
  · rw [State.modCtx, core_modCore_same, ctx_modCtx_other _ _ (Ne.symm hi)]
  · simp [hf]
  · simp [State.modCtx, coreRest]
  · simp [State.modCtx, nearByte]

theorem Frame_pace (f : Ctl → Ctl) (hf : ∀ x, paceless (f x) = paceless x) : Frame {} s (s.modCtl s.cur.1 f) := by
  refine ⟨rfl, rfl, fun k hk => ?_, fun i hi => ?_, ?_, ?_, fun a _ => ?_⟩
  · rw [State.modCtl, core_modCore_other _ _ (Ne.symm hk)]
  · rw [State.modCtl, core_modCore_same]; rfl
  · simp
  · simp [State.modCtl, coreRest, hf]
  · simp [State.modCtl, nearByte]

theorem Frame_fifo (k : Nat) (f : List Fwd → List Fwd) :
    Frame {} s (s.modCtl k (fun c => { c with fifo := f c.fifo })) := by
  refine ⟨rfl, rfl, fun j hj => ?_, fun i hi => ?_, ?_, ?_, fun a _ => ?_⟩
  · by_cases h : k = j
    · subst h; simp [State.modCtl]
    · rw [State.modCtl, core_modCore_other _ _ h]
  · by_cases h : k = s.cur.1
    · subst h; simp [State.modCtl, Core.ctx]
    · rw [State.modCtl, core_modCore_other _ _ h]
  · simp
  · by_cases h : k = s.cur.1
    · subst h; simp [State.modCtl, coreRest, paceless]
    · rw [State.modCtl, core_modCore_other _ _ h]
  · by_cases h : k = s.cur.1
    · subst h; simp [State.modCtl, nearByte]
    · simp [State.modCtl, nearByte, core_modCore_other _ _ h]

/-- A change of core `k` that keeps its contexts and bytes, seen from the issuing context. -/
theorem Frame_core {w : Writes} (f : Core → Core) (h1 : ∀ c, (f c).ctxs = c.ctxs)
    (h2 : ∀ c a, w.bytes a = false → sget 0 (f c).near a = sget 0 c.near a)
    (h3 : ∀ c, w.core (coreRest (f c)) = w.core (coreRest c)) : Frame w s (s.modCore s.cur.1 f) := by
  refine ⟨rfl, rfl, fun k hk => ?_, fun i hi => ?_, ?_, ?_, fun a ha => ?_⟩
  · rw [core_modCore_other _ _ (Ne.symm hk)]
  · rw [core_modCore_same]; simp [Core.ctx, h1]
  · simp [State.ctx, Core.ctx, h1]
  · simp [h3]
  · simp only [nearByte, core_modCore_same]; exact h2 _ _ ha

theorem fold_Frame {α : Type} (f : State → α → State) (l : List α) (hf : ∀ s a, Frame {} s (f s a)) :
    ∀ s, Frame {} s (l.foldl f s) := by
  induction l with
  | nil => exact fun s => Frame_refl _ s
  | cons a r ih => exact fun s => Frame_trans (hf s a) (ih _)

/-! ## Going on -/

theorem Frame_advance (len : Nat) (dest : Option (Nat × BitVec 2)) (taken : Bool) :
    Frame {} s (s.advance s.cur len dest taken) := by
  unfold State.advance
  dsimp only
  split
  · exact Frame_place _ (fun _ => rfl)
  · exact Frame_place _ (fun _ => rfl)
  · exact Frame_place _ (fun _ => rfl)

theorem Frame_forward (pc : Word) (g : Bool) : Frame {} s (s.forward s.cur pc g) := by
  unfold State.forward
  split
  · split
    · exact fold_Frame _ _ (fun s i => Frame_fifo _ (fun l => l ++ [_])) _
    · exact Frame_refl _ _
  · exact Frame_refl _ _

theorem Frame_follow : Frame {} s (s.follow s.cur) := by
  unfold State.follow
  split
  · split
    · exact Frame_trans (Frame_fifo s.cur.1 (fun _ => _)) (Frame_place (s := State.modCtl s s.cur.1 _) _ (fun _ => rfl))
    · exact Frame_refl _ _
  · exact Frame_refl _ _

theorem Frame_paceTo (occ : Nat) : Frame {} s (s.pace s.cur occ) := Frame_pace _ (fun _ => rfl)

theorem paceless_leave (c : Ctl) (i t : Nat) : paceless (c.leave i t) = paceless c := by
  unfold Ctl.leave; split <;> rfl

theorem Frame_leave (f : Ctx → Ctx) (hf : ∀ x, placeless (f x) = placeless x) (v : Nat) :
    Frame {} s (s.modCore s.cur.1 (fun c =>
      let c := c.modCtx s.cur.2 f
      { c with ctl := c.ctl.leave s.cur.2 v })) := by
  refine ⟨rfl, rfl, fun k hk => ?_, fun i hi => ?_, ?_, ?_, fun a _ => ?_⟩
  · rw [core_modCore_other _ _ (Ne.symm hk)]
  · rw [core_modCore_same]
    exact ctx_modCtx_other _ _ (Ne.symm hi)
  · have : ((s.modCore s.cur.1 (fun c =>
        let c := c.modCtx s.cur.2 f
        { c with ctl := c.ctl.leave s.cur.2 v })).ctx s.cur) = f (s.ctx s.cur) := by
      simp only [State.ctx, core_modCore_same]
      exact ctx_modCtx_same _ _ _
    simp only [this, hf]
  · simp [coreRest, paceless_leave]
  · simp [nearByte]

theorem Frame_yieldTo (occ : Nat) : Frame {} s (s.yieldTo s.cur occ) := by
  unfold State.yieldTo
  dsimp only
  split
  · exact Frame_refl _ _
  · split
    · exact Frame_leave (fun x => { x with run := .ready, readyAt := s.now + occ * cyc s.cur.1 }) (fun _ => rfl) _
    · exact Frame_refl _ _

theorem Frame_gateCtx (w : Wait) (occ : Nat) : Frame {} s (s.gateCtx s.cur w occ) :=
  Frame_leave (fun x => { x with run := .gated w, readyAt := s.now + cyc s.cur.1 }) (fun _ => rfl) _

theorem paceless_touch (c : Ctl) (o : Option GatedUnit) (a b d : Nat) : paceless (c.touch o a b d) = paceless c := by
  cases o with
  | none => rfl
  | some g => cases g <;> rfl

theorem Frame_touch (o : Option GatedUnit) (a b d : Nat) :
    Frame {} s (s.modCtl s.cur.1 (fun c => c.touch o a b d)) := Frame_pace _ (fun _ => paceless_touch _ _ _ _ _)

theorem Frame_go (v : State) (len : Nat) (dest : Option (Nat × BitVec 2)) (taken : Bool) (pc : Word) (g : Bool) (occ : Nat) :
    Frame {} v ((((v.advance v.cur len dest taken).forward v.cur pc g).follow v.cur).pace v.cur occ) := by
  have h1 := Frame_advance (s := v) len dest taken
  have h2 : Frame {} v ((v.advance v.cur len dest taken).forward v.cur pc g) := by
    have := Frame_forward (s := v.advance v.cur len dest taken) pc g
    rw [h1.cur] at this
    exact Frame_trans h1 this
  have h3 : Frame {} v (((v.advance v.cur len dest taken).forward v.cur pc g).follow v.cur) := by
    have := Frame_follow (s := (v.advance v.cur len dest taken).forward v.cur pc g)
    rw [h2.cur] at this
    exact Frame_trans h2 this
  have := Frame_paceTo (s := ((v.advance v.cur len dest taken).forward v.cur pc g).follow v.cur) occ
  rw [h3.cur] at this
  exact Frame_trans h3 this

theorem Frame_goYield {v w : State} (occ : Nat) (hw : Frame {} v w) : Frame {} v (w.yieldTo v.cur occ) := by
  have := Frame_yieldTo (s := w) occ
  rw [hw.cur] at this
  exact Frame_trans hw this

theorem Frame_hold (v : State) (w : Wait) (b : Prop) [Decidable b] (occ : Nat) :
    Frame {} v (if b then v.gateCtx v.cur w occ
      else (v.modCtx v.cur (fun x => { x with run := .held w })).modCtl v.cur.1 (fun c => { c with issueAt := v.now + cyc v.cur.1 })) := by
  split
  · exact Frame_gateCtx _ _
  · exact Frame_trans (Frame_place (fun x => { x with run := .held w }) (fun _ => rfl))
      (Frame_pace (s := State.modCtx v v.cur _) (fun c => { c with issueAt := v.now + cyc v.cur.1 }) (fun _ => rfl))

/-- GOING ON TO THE NEXT INSTRUCTION, OVER A TRANSFER, INTO A WAIT OR TO A YIELD changes nothing but the context's place
and the core's pace. -/
theorem Frame_retire (n : Need) (s : State) (fl : Flow) (held : Bool) (hf : fl ≠ .halt) :
    Frame {} s (retire n ⟨s, fl⟩ held) := by
  have ht : ∀ {t : State}, Frame {} (s.modCtl s.cur.1 (fun c => c.touch n.unit s.now (cyc s.cur.1) (s.now + n.occ * cyc s.cur.1))) t
      → Frame {} s t := fun h => Frame_trans (Frame_touch _ _ _ _) h
  have next : ∀ (v : State) dest taken pc g occ (y : Bool), Frame {} v
      (if y then ((((v.advance v.cur n.len dest taken).forward v.cur pc g).follow v.cur).pace v.cur occ).yieldTo v.cur occ
        else (((v.advance v.cur n.len dest taken).forward v.cur pc g).follow v.cur).pace v.cur occ) := by
    intro v dest taken pc g occ y
    split
    · exact Frame_goYield _ (Frame_go _ _ _ _ _ _ _)
    · exact Frame_go _ _ _ _ _ _ _
  cases fl with
  | halt => exact absurd rfl hf
  | next => cases held with
    | false => exact next s _ _ _ _ _ _
    | true => exact ht (next _ _ _ _ _ _ _)
  | jump t kind => cases held with
    | false => exact next s _ _ _ _ _ _
    | true => exact ht (next _ _ _ _ _ _ _)
  | yield => cases held with
    | false => exact Frame_goYield _ (Frame_go s _ _ _ _ _ _)
    | true => exact ht (Frame_goYield _ (Frame_go _ _ _ _ _ _ _))
  | hold w => cases held with
    | false => exact Frame_hold s _ _ _
    | true => exact ht (Frame_hold _ _ _ _)
  | gate w => cases held with
    | false => exact Frame_gateCtx _ _
    | true => exact ht (Frame_gateCtx _ _)
  | again t => cases held <;> exact Frame_pace (fun c => { c with issueAt := t }) (fun _ => rfl)
  | moved => cases held with
    | false => exact Frame_refl _ _
    | true => exact ht (Frame_refl _ _)

end Sys2Proof.Laws
end

