-- ==== Sys2Proof/Laws/PerInstr.lean ====
section
/-! SUPPORT. One lemma per constructor of the syntax: decoding the words the encoder gives reads the instruction back,
with every operand. -/

namespace Sys2Proof.Laws.RoundTrip

set_option Elab.async false

/-- The words of a well-formed instruction decode to it, whatever follows them. -/
def Statement (i : Instr) : Prop :=
  i.wellFormed = true → encode i ≠ [] → ∀ rest, decode (encode i ++ rest) = .ok (i, (encode i).length)

/-! ## Fields of a concatenation -/

theorem extract_append_hi {n m : Nat} (a : BitVec n) (b : BitVec m) (lo k : Nat) (h : m ≤ lo) :
    BitVec.extractLsb' lo k (a ++ b) = a.extractLsb' (lo - m) k := by
  ext i hi
  simp [BitVec.getLsbD_append, show ¬ (lo + i < m) by omega]
  congr 1; omega

theorem extract_append_lo {n m : Nat} (a : BitVec n) (b : BitVec m) (lo k : Nat) (h : lo + k ≤ m) :
    BitVec.extractLsb' lo k (a ++ b) = b.extractLsb' lo k := by
  ext i hi
  simp [BitVec.getLsbD_append, show lo + i < m by omega]

theorem extract_self {n : Nat} (a : BitVec n) : a.extractLsb' 0 n = a := by simp

theorem extract_zero {n : Nat} (lo k : Nat) : (0#n).extractLsb' lo k = 0 := by ext; simp

theorem unpack_pack (f : Word0) : Word0.unpack (Word0.pack f) = f := by
  obtain ⟨a, b, c, d, e, f, g, h, i, j⟩ := f
  simp only [Word0.pack, Word0.unpack]
  show (⟨@BitVec.extractLsb' (1+5+5+5+7+1+3+2+1+2) 0 2 _, @BitVec.getLsbD (1+5+5+5+7+1+3+2+1+2) _ 2,
    @BitVec.extractLsb' (1+5+5+5+7+1+3+2+1+2) 3 2 _, @BitVec.extractLsb' (1+5+5+5+7+1+3+2+1+2) 5 3 _,
    @BitVec.getLsbD (1+5+5+5+7+1+3+2+1+2) _ 8, @BitVec.extractLsb' (1+5+5+5+7+1+3+2+1+2) 9 7 _,
    @BitVec.extractLsb' (1+5+5+5+7+1+3+2+1+2) 16 5 _, @BitVec.extractLsb' (1+5+5+5+7+1+3+2+1+2) 21 5 _,
    @BitVec.extractLsb' (1+5+5+5+7+1+3+2+1+2) 26 5 _, @BitVec.getLsbD (1+5+5+5+7+1+3+2+1+2) _ 31⟩ : Word0) = _
  simp only [Word0.mk.injEq]
  refine ⟨?_, ?_, ?_, ?_, ?_, ?_, ?_, ?_, ?_, ?_⟩ <;>
    simp (disch := decide) only [extract_append_hi, extract_append_lo, extract_self, BitVec.getLsbD_append] <;> simp

theorem unpack_pack1 (f : Word1) : Word1.unpack (Word1.pack f) = f := by
  obtain ⟨a, b, c, d, e, f, g, h⟩ := f
  simp only [Word1.pack, Word1.unpack]
  show (⟨@BitVec.extractLsb' (3+1+2+3+3+4+4+12) 0 12 _, @BitVec.extractLsb' (3+1+2+3+3+4+4+12) 12 4 _,
    @BitVec.extractLsb' (3+1+2+3+3+4+4+12) 16 4 _, @BitVec.extractLsb' (3+1+2+3+3+4+4+12) 20 3 _,
    @BitVec.extractLsb' (3+1+2+3+3+4+4+12) 23 3 _, @BitVec.extractLsb' (3+1+2+3+3+4+4+12) 26 2 _,
    @BitVec.getLsbD (3+1+2+3+3+4+4+12) _ 28, @BitVec.extractLsb' (3+1+2+3+3+4+4+12) 29 3 _⟩ : Word1) = _
  simp (disch := decide) only [extract_append_hi, extract_append_lo, extract_self, BitVec.getLsbD_append]
  simp

theorem literal_halves (l : DWord) : literal (l.setWidth 32) (l.extractLsb' 32 32) = l := by
  have h : ((l.extractLsb' 32 32) ++ (l.setWidth 32) : BitVec 64) = l := by
    ext i hi
    simp only [BitVec.getElem_append, BitVec.getElem_extractLsb', BitVec.getElem_setWidth]
    split
    · simp [BitVec.getLsbD, BitVec.getElem_eq_testBit_toNat]
    · rw [← BitVec.getLsbD_eq_getElem]; congr 1; omega
  exact h

/-! ## Codes and their fields -/

@[simp] theorem lt8 (d : BitVec 3) : d.toNat % 32 < 8 := by omega
@[simp] theorem lt16 (d : BitVec 4) : d.toNat % 32 < 16 := by omega
@[simp] theorem lt4 (d : BitVec 2) : d.toNat % 32 < 4 := by omega
@[simp] theorem back3 (d : BitVec 3) : (d.setWidth 5).setWidth 3 = d := by revert d; decide
@[simp] theorem back4 (d : BitVec 4) : (d.setWidth 5).setWidth 4 = d := by revert d; decide
@[simp] theorem back2 (d : BitVec 2) : (d.setWidth 5).setWidth 2 = d := by revert d; decide
@[simp] theorem width_ok (w : WidthCode) : WidthCode.valid w.code = true := by cases w <;> rfl
@[simp] theorem width_back (w : WidthCode) : WidthCode.ofCode w.code = w := by cases w <;> rfl
@[simp] theorem ty_back (t : Ty) : Ty.ofCode t.code = t := by cases t <;> rfl
@[simp] theorem scope_ok (t : Scope) : Scope.valid t.code = true := by cases t <;> rfl
@[simp] theorem scope_back (t : Scope) : Scope.ofCode t.code = t := by cases t <;> rfl
@[simp] theorem path_back (t : Path) : Path.ofCode t.code = t := by cases t <;> rfl
@[simp] theorem rnd_back (t : Rnd) : Rnd.ofCode t.code = t := by cases t <;> rfl
@[simp] theorem tier_ok (t : Option (BitVec 2)) : tierValid (tierCode t) = true := by
  cases t with
  | none => rfl
  | some t => revert t; decide
@[simp] theorem tier_back (t : Option (BitVec 2)) : tierOf (tierCode t) = t := by
  cases t with
  | none => rfl
  | some t => revert t; decide
@[simp] theorem immA_back (a : BitVec 5) :
    BitVec.ofBool a[4] ++ a.extractLsb' 1 3 ++ BitVec.ofBool a[0] = a := by revert a; decide
@[simp] theorem imm_back (a : BitVec 11) :
    BitVec.ofBool a[10] ++ a.extractLsb' 5 5 ++ a.extractLsb' 0 5 = a := by
  have h : @Eq (BitVec (1+5+5)) (BitVec.ofBool (a.getLsbD 10) ++ a.extractLsb' 5 5 ++ a.extractLsb' 0 5) a := by
    ext i hi
    simp only [BitVec.getElem_append, BitVec.getElem_extractLsb', BitVec.getElem_ofBool]
    rw [← BitVec.getLsbD_eq_getElem]
    split
    · simp
    · split
      · congr 1; omega
      · congr 1; omega
  exact h
@[simp] theorem disp_back (a : BitVec 16) :
    BitVec.ofBool a[15] ++ a.extractLsb' 10 5 ++ a.extractLsb' 5 5 ++ a.extractLsb' 0 5 = a := by
  have h : @Eq (BitVec (1+5+5+5))
      (BitVec.ofBool (a.getLsbD 15) ++ a.extractLsb' 10 5 ++ a.extractLsb' 5 5 ++ a.extractLsb' 0 5) a := by
    ext i hi
    simp only [BitVec.getElem_append, BitVec.getElem_extractLsb', BitVec.getElem_ofBool]
    rw [← BitVec.getLsbD_eq_getElem]
    split
    · simp
    · split
      · congr 1; omega
      · split
        · congr 1; omega
        · congr 1; omega
  exact h

/-! ## Fields of a first word given by its parts -/

@[simp] theorem hdr_mk (len : BitVec 2) (y : Bool) (gap : BitVec 2) (g : BitVec 3) (gn : Bool) (maj : BitVec 7)
    (d a b : BitVec 5) (b31 : Bool) :
    Word0.hdr ⟨len, y, gap, g, gn, maj, d, a, b, b31⟩ = ⟨gap, y, g, gn⟩ := rfl
@[simp] theorem imm_mk (len : BitVec 2) (y : Bool) (gap : BitVec 2) (g : BitVec 3) (gn : Bool) (maj : BitVec 7)
    (d a b : BitVec 5) (b31 : Bool) :
    Word0.imm ⟨len, y, gap, g, gn, maj, d, a, b, b31⟩ = BitVec.ofBool b31 ++ b ++ a := rfl
@[simp] theorem immA_mk (len : BitVec 2) (y : Bool) (gap : BitVec 2) (g : BitVec 3) (gn : Bool) (maj : BitVec 7)
    (d a b : BitVec 5) (b31 : Bool) :
    Word0.immA ⟨len, y, gap, g, gn, maj, d, a, b, b31⟩ = BitVec.ofBool gn ++ g ++ BitVec.ofBool y := rfl
@[simp] theorem disp_mk (len : BitVec 2) (y : Bool) (gap : BitVec 2) (g : BitVec 3) (gn : Bool) (maj : BitVec 7)
    (d a b : BitVec 5) (b31 : Bool) :
    Word0.disp ⟨len, y, gap, g, gn, maj, d, a, b, b31⟩ = BitVec.ofBool b31 ++ b ++ a ++ d := rfl
@[simp] theorem upper_mk (len : BitVec 2) (y : Bool) (gap : BitVec 2) (g : BitVec 3) (gn : Bool) (maj : BitVec 7)
    (d a b : BitVec 5) (b31 : Bool) :
    Word0.upper ⟨len, y, gap, g, gn, maj, d, a, b, b31⟩ = BitVec.ofBool b31 ++ b ++ a ++ d := rfl
@[simp] theorem plain_gap (gap : BitVec 2) (y : Bool) : (Hdr.plain gap y).gap = gap := rfl
@[simp] theorem plain_y (gap : BitVec 2) (y : Bool) : (Hdr.plain gap y).y = y := rfl
@[simp] theorem plain_g (gap : BitVec 2) (y : Bool) : (Hdr.plain gap y).g = 0 := rfl
@[simp] theorem plain_gn (gap : BitVec 2) (y : Bool) : (Hdr.plain gap y).gn = false := rfl

/-! ## The four lengths -/

theorem oneWord {f : Word0} {i : Instr} (hl : f.len = 0) (hm : f.maj.toNat < 0x60) (hd : decodeBase f = .ok i)
    (hw : i.wellFormed = true) (rest : List Word) : decode ([Word0.pack f] ++ rest) = .ok (i, 1) := by
  simp [decode, decodeForm, unpack_pack, hl, Nat.not_le.2 hm, hd, hw, Except.map]

theorem threeWordsLit {f : Word0} {i : Instr} {lit : DWord} (hl : f.len = 1) (hm : f.maj.toNat < 0x60)
    (hd : decodeLong f lit = .ok i) (hw : i.wellFormed = true) (rest : List Word) :
    decode ([Word0.pack f, lit.setWidth 32, lit.extractLsb' 32 32] ++ rest) = .ok (i, 3) := by
  simp only [decode, decodeForm, unpack_pack, hl, Nat.not_le.2 hm, List.cons_append, literal_halves, hd]
  simp [hw, Except.map]

theorem threeWords {f : Word0} {e : Word1} {w2 : Word} {i : Instr} (hl : f.len = 2) (hm : 0x60 ≤ f.maj.toNat)
    (hd : decodeExt f e w2 = .ok i) (hw : i.wellFormed = true) (rest : List Word) :
    decode ([Word0.pack f, Word1.pack e, w2] ++ rest) = .ok (i, 3) := by
  simp only [decode, decodeForm, unpack_pack, unpack_pack1, hl, Nat.not_lt.2 hm, List.cons_append, hd]
  simp [hw, Except.map]

theorem fiveWords {f : Word0} {e : Word1} {w2 : Word} {lit : DWord} {i : Instr} (hl : f.len = 3)
    (hm : 0x60 ≤ f.maj.toNat) (hd : decodeExtLong f e w2 lit = .ok i) (hw : i.wellFormed = true) (rest : List Word) :
    decode ([Word0.pack f, Word1.pack e, w2, lit.setWidth 32, lit.extractLsb' 32 32] ++ rest) = .ok (i, 5) := by
  simp only [decode, decodeForm, unpack_pack, unpack_pack1, hl, Nat.not_lt.2 hm, List.cons_append, literal_halves, hd]
  simp [hw, Except.map]

set_option linter.unusedSimpArgs false

/-! ## Third words -/

theorem w2_1_6_2 (wm1 : BitVec 6) (pos : BitVec 6) : bits (0#18 ++ wm1 ++ 0#2 ++ pos) 6 2 = 0 := by
  show @BitVec.extractLsb' (18+6+2+6) _ _ _ = _
  simp (disch := decide) only [extract_append_hi, extract_append_lo, extract_self, extract_zero, Nat.reduceSub]

theorem w2_1_14_18 (wm1 : BitVec 6) (pos : BitVec 6) : bits (0#18 ++ wm1 ++ 0#2 ++ pos) 14 18 = 0 := by
  show @BitVec.extractLsb' (18+6+2+6) _ _ _ = _
  simp (disch := decide) only [extract_append_hi, extract_append_lo, extract_self, extract_zero, Nat.reduceSub]

theorem w2_1_0_6 (wm1 : BitVec 6) (pos : BitVec 6) : bits (0#18 ++ wm1 ++ 0#2 ++ pos) 0 6 = pos := by
  show @BitVec.extractLsb' (18+6+2+6) _ _ _ = _
  simp (disch := decide) only [extract_append_hi, extract_append_lo, extract_self, extract_zero, Nat.reduceSub]

theorem w2_1_8_6 (wm1 : BitVec 6) (pos : BitVec 6) : bits (0#18 ++ wm1 ++ 0#2 ++ pos) 8 6 = wm1 := by
  show @BitVec.extractLsb' (18+6+2+6) _ _ _ = _
  simp (disch := decide) only [extract_append_hi, extract_append_lo, extract_self, extract_zero, Nat.reduceSub]

theorem w2_2_3_5 (disp : BitVec 24) (sh : BitVec 3) : bits (disp ++ 0#5 ++ sh) 3 5 = 0 := by
  show @BitVec.extractLsb' (24+5+3) _ _ _ = _
  simp (disch := decide) only [extract_append_hi, extract_append_lo, extract_self, extract_zero, Nat.reduceSub]

theorem w2_2_0_3 (disp : BitVec 24) (sh : BitVec 3) : bits (disp ++ 0#5 ++ sh) 0 3 = sh := by
  show @BitVec.extractLsb' (24+5+3) _ _ _ = _
  simp (disch := decide) only [extract_append_hi, extract_append_lo, extract_self, extract_zero, Nat.reduceSub]

theorem w2_2_8_24 (disp : BitVec 24) (sh : BitVec 3) : bits (disp ++ 0#5 ++ sh) 8 24 = disp := by
  show @BitVec.extractLsb' (24+5+3) _ _ _ = _
  simp (disch := decide) only [extract_append_hi, extract_append_lo, extract_self, extract_zero, Nat.reduceSub]

theorem w2_3_3_29 (sh : BitVec 3) : bits (0#29 ++ sh) 3 29 = 0 := by
  show @BitVec.extractLsb' (29+3) _ _ _ = _
  simp (disch := decide) only [extract_append_hi, extract_append_lo, extract_self, extract_zero, Nat.reduceSub]

theorem w2_3_0_3 (sh : BitVec 3) : bits (0#29 ++ sh) 0 3 = sh := by
  show @BitVec.extractLsb' (29+3) _ _ _ = _
  simp (disch := decide) only [extract_append_hi, extract_append_lo, extract_self, extract_zero, Nat.reduceSub]

theorem w2_4_27_5 (nm1h : BitVec 5) (km1 : BitVec 3) (mask : BitVec 24) : bits (nm1h ++ km1 ++ mask) 27 5 = nm1h := by
  show @BitVec.extractLsb' (5+3+24) _ _ _ = _
  simp (disch := decide) only [extract_append_hi, extract_append_lo, extract_self, extract_zero, Nat.reduceSub]

theorem w2_4_24_3 (nm1h : BitVec 5) (km1 : BitVec 3) (mask : BitVec 24) : bits (nm1h ++ km1 ++ mask) 24 3 = km1 := by
  show @BitVec.extractLsb' (5+3+24) _ _ _ = _
  simp (disch := decide) only [extract_append_hi, extract_append_lo, extract_self, extract_zero, Nat.reduceSub]

theorem w2_4_0_24 (nm1h : BitVec 5) (km1 : BitVec 3) (mask : BitVec 24) : bits (nm1h ++ km1 ++ mask) 0 24 = mask := by
  show @BitVec.extractLsb' (5+3+24) _ _ _ = _
  simp (disch := decide) only [extract_append_hi, extract_append_lo, extract_self, extract_zero, Nat.reduceSub]

theorem w2_5_5_27 (c : VecReg) : bits (0#27 ++ c) 5 27 = 0 := by
  show @BitVec.extractLsb' (27+5) _ _ _ = _
  simp (disch := decide) only [extract_append_hi, extract_append_lo, extract_self, extract_zero, Nat.reduceSub]

theorem w2_5_0_5 (c : VecReg) : bits (0#27 ++ c) 0 5 = c := by
  show @BitVec.extractLsb' (27+5) _ _ _ = _
  simp (disch := decide) only [extract_append_hi, extract_append_lo, extract_self, extract_zero, Nat.reduceSub]

theorem w2_6_2_30 (part : BitVec 2) : bits (0#30 ++ part) 2 30 = 0 := by
  show @BitVec.extractLsb' (30+2) _ _ _ = _
  simp (disch := decide) only [extract_append_hi, extract_append_lo, extract_self, extract_zero, Nat.reduceSub]

theorem w2_6_0_2 (part : BitVec 2) : bits (0#30 ++ part) 0 2 = part := by
  show @BitVec.extractLsb' (30+2) _ _ _ = _
  simp (disch := decide) only [extract_append_hi, extract_append_lo, extract_self, extract_zero, Nat.reduceSub]

theorem w2_7_7_25 (p : PredReg) (pw : Bool) (cond : BitVec 3) : bits (0#25 ++ p ++ (BitVec.ofBool pw) ++ cond) 7 25 = 0 := by
  show @BitVec.extractLsb' (25+3+1+3) _ _ _ = _
  simp (disch := decide) only [extract_append_hi, extract_append_lo, extract_self, extract_zero, Nat.reduceSub]

theorem w2_7_0_3 (p : PredReg) (pw : Bool) (cond : BitVec 3) : bits (0#25 ++ p ++ (BitVec.ofBool pw) ++ cond) 0 3 = cond := by
  show @BitVec.extractLsb' (25+3+1+3) _ _ _ = _
  simp (disch := decide) only [extract_append_hi, extract_append_lo, extract_self, extract_zero, Nat.reduceSub]

theorem w2_7_4_3 (p : PredReg) (pw : Bool) (cond : BitVec 3) : bits (0#25 ++ p ++ (BitVec.ofBool pw) ++ cond) 4 3 = p := by
  show @BitVec.extractLsb' (25+3+1+3) _ _ _ = _
  simp (disch := decide) only [extract_append_hi, extract_append_lo, extract_self, extract_zero, Nat.reduceSub]

theorem w2_7_b3 (p : PredReg) (pw : Bool) (cond : BitVec 3) : (0#25 ++ p ++ (BitVec.ofBool pw) ++ cond : BitVec 32)[3] = pw := by
  rw [← BitVec.getLsbD_eq_getElem]
  show @BitVec.getLsbD (25+3+1+3) _ _ = _
  simp only [BitVec.getLsbD_append]
  simp

theorem w2_8_1_31 (isMax : Bool) : bits (0#31 ++ (BitVec.ofBool isMax)) 1 31 = 0 := by
  show @BitVec.extractLsb' (31+1) _ _ _ = _
  simp (disch := decide) only [extract_append_hi, extract_append_lo, extract_self, extract_zero, Nat.reduceSub]

theorem w2_8_b0 (isMax : Bool) : (0#31 ++ (BitVec.ofBool isMax) : BitVec 32)[0] = isMax := by
  rw [← BitVec.getLsbD_eq_getElem]
  show @BitVec.getLsbD (31+1) _ _ = _
  simp only [BitVec.getLsbD_append]
  simp

theorem w2_9_3_29 (seg : BitVec 3) : bits (0#29 ++ seg) 3 29 = 0 := by
  show @BitVec.extractLsb' (29+3) _ _ _ = _
  simp (disch := decide) only [extract_append_hi, extract_append_lo, extract_self, extract_zero, Nat.reduceSub]

theorem w2_9_0_3 (seg : BitVec 3) : bits (0#29 ++ seg) 0 3 = seg := by
  show @BitVec.extractLsb' (29+3) _ _ _ = _
  simp (disch := decide) only [extract_append_hi, extract_append_lo, extract_self, extract_zero, Nat.reduceSub]

theorem w2_10_5_3 (ql : Bool) (e : Reg) (c : VecReg) : bits (0#18 ++ (BitVec.ofBool ql) ++ e ++ 0#3 ++ c) 5 3 = 0 := by
  show @BitVec.extractLsb' (18+1+5+3+5) _ _ _ = _
  simp (disch := decide) only [extract_append_hi, extract_append_lo, extract_self, extract_zero, Nat.reduceSub]

theorem w2_10_14_18 (ql : Bool) (e : Reg) (c : VecReg) : bits (0#18 ++ (BitVec.ofBool ql) ++ e ++ 0#3 ++ c) 14 18 = 0 := by
  show @BitVec.extractLsb' (18+1+5+3+5) _ _ _ = _
  simp (disch := decide) only [extract_append_hi, extract_append_lo, extract_self, extract_zero, Nat.reduceSub]

theorem w2_10_0_5 (ql : Bool) (e : Reg) (c : VecReg) : bits (0#18 ++ (BitVec.ofBool ql) ++ e ++ 0#3 ++ c) 0 5 = c := by
  show @BitVec.extractLsb' (18+1+5+3+5) _ _ _ = _
  simp (disch := decide) only [extract_append_hi, extract_append_lo, extract_self, extract_zero, Nat.reduceSub]

theorem w2_10_8_5 (ql : Bool) (e : Reg) (c : VecReg) : bits (0#18 ++ (BitVec.ofBool ql) ++ e ++ 0#3 ++ c) 8 5 = e := by
  show @BitVec.extractLsb' (18+1+5+3+5) _ _ _ = _
  simp (disch := decide) only [extract_append_hi, extract_append_lo, extract_self, extract_zero, Nat.reduceSub]

theorem w2_10_b13 (ql : Bool) (e : Reg) (c : VecReg) : (0#18 ++ (BitVec.ofBool ql) ++ e ++ 0#3 ++ c : BitVec 32)[13] = ql := by
  rw [← BitVec.getLsbD_eq_getElem]
  show @BitVec.getLsbD (18+1+5+3+5) _ _ = _
  simp only [BitVec.getLsbD_append]
  simp

theorem w2_11_14_2 (z : Bool) (t : Bool) (koff : BitVec 13) (k : BitVec 14) : bits ((BitVec.ofBool z) ++ (BitVec.ofBool t) ++ 0#1 ++ koff ++ 0#2 ++ k) 14 2 = 0 := by
  show @BitVec.extractLsb' (1+1+1+13+2+14) _ _ _ = _
  simp (disch := decide) only [extract_append_hi, extract_append_lo, extract_self, extract_zero, Nat.reduceSub]

theorem w2_11_29_1 (z : Bool) (t : Bool) (koff : BitVec 13) (k : BitVec 14) : bits ((BitVec.ofBool z) ++ (BitVec.ofBool t) ++ 0#1 ++ koff ++ 0#2 ++ k) 29 1 = 0 := by
  show @BitVec.extractLsb' (1+1+1+13+2+14) _ _ _ = _
  simp (disch := decide) only [extract_append_hi, extract_append_lo, extract_self, extract_zero, Nat.reduceSub]

theorem w2_11_0_14 (z : Bool) (t : Bool) (koff : BitVec 13) (k : BitVec 14) : bits ((BitVec.ofBool z) ++ (BitVec.ofBool t) ++ 0#1 ++ koff ++ 0#2 ++ k) 0 14 = k := by
  show @BitVec.extractLsb' (1+1+1+13+2+14) _ _ _ = _
  simp (disch := decide) only [extract_append_hi, extract_append_lo, extract_self, extract_zero, Nat.reduceSub]

theorem w2_11_16_13 (z : Bool) (t : Bool) (koff : BitVec 13) (k : BitVec 14) : bits ((BitVec.ofBool z) ++ (BitVec.ofBool t) ++ 0#1 ++ koff ++ 0#2 ++ k) 16 13 = koff := by
  show @BitVec.extractLsb' (1+1+1+13+2+14) _ _ _ = _
  simp (disch := decide) only [extract_append_hi, extract_append_lo, extract_self, extract_zero, Nat.reduceSub]

theorem w2_11_b30 (z : Bool) (t : Bool) (koff : BitVec 13) (k : BitVec 14) : ((BitVec.ofBool z) ++ (BitVec.ofBool t) ++ 0#1 ++ koff ++ 0#2 ++ k : BitVec 32)[30] = t := by
  rw [← BitVec.getLsbD_eq_getElem]
  show @BitVec.getLsbD (1+1+1+13+2+14) _ _ = _
  simp only [BitVec.getLsbD_append]
  simp

theorem w2_11_b31 (z : Bool) (t : Bool) (koff : BitVec 13) (k : BitVec 14) : ((BitVec.ofBool z) ++ (BitVec.ofBool t) ++ 0#1 ++ koff ++ 0#2 ++ k : BitVec 32)[31] = z := by
  rw [← BitVec.getLsbD_eq_getElem]
  show @BitVec.getLsbD (1+1+1+13+2+14) _ _ = _
  simp only [BitVec.getLsbD_append]
  simp

theorem w2_12_14_16 (axis : Bool) (k : BitVec 14) : bits (0#1 ++ (BitVec.ofBool axis) ++ 0#16 ++ k) 14 16 = 0 := by
  show @BitVec.extractLsb' (1+1+16+14) _ _ _ = _
  simp (disch := decide) only [extract_append_hi, extract_append_lo, extract_self, extract_zero, Nat.reduceSub]

theorem w2_12_31_1 (axis : Bool) (k : BitVec 14) : bits (0#1 ++ (BitVec.ofBool axis) ++ 0#16 ++ k) 31 1 = 0 := by
  show @BitVec.extractLsb' (1+1+16+14) _ _ _ = _
  simp (disch := decide) only [extract_append_hi, extract_append_lo, extract_self, extract_zero, Nat.reduceSub]

theorem w2_12_0_14 (axis : Bool) (k : BitVec 14) : bits (0#1 ++ (BitVec.ofBool axis) ++ 0#16 ++ k) 0 14 = k := by
  show @BitVec.extractLsb' (1+1+16+14) _ _ _ = _
  simp (disch := decide) only [extract_append_hi, extract_append_lo, extract_self, extract_zero, Nat.reduceSub]

theorem w2_12_b30 (axis : Bool) (k : BitVec 14) : (0#1 ++ (BitVec.ofBool axis) ++ 0#16 ++ k : BitVec 32)[30] = axis := by
  rw [← BitVec.getLsbD_eq_getElem]
  show @BitVec.getLsbD (1+1+16+14) _ _ = _
  simp only [BitVec.getLsbD_append]
  simp

theorem w2_13_5_27 (row : BitVec 5) : bits (0#27 ++ row) 5 27 = 0 := by
  show @BitVec.extractLsb' (27+5) _ _ _ = _
  simp (disch := decide) only [extract_append_hi, extract_append_lo, extract_self, extract_zero, Nat.reduceSub]

theorem w2_13_0_5 (row : BitVec 5) : bits (0#27 ++ row) 0 5 = row := by
  show @BitVec.extractLsb' (27+5) _ _ _ = _
  simp (disch := decide) only [extract_append_hi, extract_append_lo, extract_self, extract_zero, Nat.reduceSub]

theorem w2_14_2_30 (self : Bool) (ovw : Bool) : bits (0#30 ++ (BitVec.ofBool self) ++ (BitVec.ofBool ovw)) 2 30 = 0 := by
  show @BitVec.extractLsb' (30+1+1) _ _ _ = _
  simp (disch := decide) only [extract_append_hi, extract_append_lo, extract_self, extract_zero, Nat.reduceSub]

theorem w2_14_b0 (self : Bool) (ovw : Bool) : (0#30 ++ (BitVec.ofBool self) ++ (BitVec.ofBool ovw) : BitVec 32)[0] = ovw := by
  rw [← BitVec.getLsbD_eq_getElem]
  show @BitVec.getLsbD (30+1+1) _ _ = _
  simp only [BitVec.getLsbD_append]
  simp

theorem w2_14_b1 (self : Bool) (ovw : Bool) : (0#30 ++ (BitVec.ofBool self) ++ (BitVec.ofBool ovw) : BitVec 32)[1] = self := by
  rw [← BitVec.getLsbD_eq_getElem]
  show @BitVec.getLsbD (30+1+1) _ _ = _
  simp only [BitVec.getLsbD_append]
  simp

theorem w2_15_0_2 (kern : BitVec 3) : bits (0#25 ++ kern ++ 0#4) 0 2 = 0 := by
  show @BitVec.extractLsb' (25+3+4) _ _ _ = _
  simp (disch := decide) only [extract_append_hi, extract_append_lo, extract_self, extract_zero, Nat.reduceSub]

theorem w2_15_0_4 (kern : BitVec 3) : bits (0#25 ++ kern ++ 0#4) 0 4 = 0 := by
  show @BitVec.extractLsb' (25+3+4) _ _ _ = _
  simp (disch := decide) only [extract_append_hi, extract_append_lo, extract_self, extract_zero, Nat.reduceSub]

theorem w2_15_7_25 (kern : BitVec 3) : bits (0#25 ++ kern ++ 0#4) 7 25 = 0 := by
  show @BitVec.extractLsb' (25+3+4) _ _ _ = _
  simp (disch := decide) only [extract_append_hi, extract_append_lo, extract_self, extract_zero, Nat.reduceSub]

theorem w2_15_4_3 (kern : BitVec 3) : bits (0#25 ++ kern ++ 0#4) 4 3 = kern := by
  show @BitVec.extractLsb' (25+3+4) _ _ _ = _
  simp (disch := decide) only [extract_append_hi, extract_append_lo, extract_self, extract_zero, Nat.reduceSub]

theorem w2_16_13_19 (n : BitVec 13) : bits (0#19 ++ n) 13 19 = 0 := by
  show @BitVec.extractLsb' (19+13) _ _ _ = _
  simp (disch := decide) only [extract_append_hi, extract_append_lo, extract_self, extract_zero, Nat.reduceSub]

theorem w2_16_0_13 (n : BitVec 13) : bits (0#19 ++ n) 0 13 = n := by
  show @BitVec.extractLsb' (19+13) _ _ _ = _
  simp (disch := decide) only [extract_append_hi, extract_append_lo, extract_self, extract_zero, Nat.reduceSub]

theorem w2_17_4_28 (op : BitVec 2) (kind : BitVec 2) : bits (0#28 ++ op ++ kind) 4 28 = 0 := by
  show @BitVec.extractLsb' (28+2+2) _ _ _ = _
  simp (disch := decide) only [extract_append_hi, extract_append_lo, extract_self, extract_zero, Nat.reduceSub]

theorem w2_17_0_2 (op : BitVec 2) (kind : BitVec 2) : bits (0#28 ++ op ++ kind) 0 2 = kind := by
  show @BitVec.extractLsb' (28+2+2) _ _ _ = _
  simp (disch := decide) only [extract_append_hi, extract_append_lo, extract_self, extract_zero, Nat.reduceSub]

theorem w2_17_2_2 (op : BitVec 2) (kind : BitVec 2) : bits (0#28 ++ op ++ kind) 2 2 = op := by
  show @BitVec.extractLsb' (28+2+2) _ _ _ = _
  simp (disch := decide) only [extract_append_hi, extract_append_lo, extract_self, extract_zero, Nat.reduceSub]

theorem w2_18_1_31 (ne : Bool) : bits (0#31 ++ (BitVec.ofBool ne)) 1 31 = 0 := by
  show @BitVec.extractLsb' (31+1) _ _ _ = _
  simp (disch := decide) only [extract_append_hi, extract_append_lo, extract_self, extract_zero, Nat.reduceSub]

theorem w2_18_b0 (ne : Bool) : (0#31 ++ (BitVec.ofBool ne) : BitVec 32)[0] = ne := by
  rw [← BitVec.getLsbD_eq_getElem]
  show @BitVec.getLsbD (31+1) _ _ = _
  simp only [BitVec.getLsbD_append]
  simp

theorem w2_19_8_23 (sc : Bool) (k : BitVec 8) : bits ((BitVec.ofBool sc) ++ 0#23 ++ k) 8 23 = 0 := by
  show @BitVec.extractLsb' (1+23+8) _ _ _ = _
  simp (disch := decide) only [extract_append_hi, extract_append_lo, extract_self, extract_zero, Nat.reduceSub]

theorem w2_19_0_8 (sc : Bool) (k : BitVec 8) : bits ((BitVec.ofBool sc) ++ 0#23 ++ k) 0 8 = k := by
  show @BitVec.extractLsb' (1+23+8) _ _ _ = _
  simp (disch := decide) only [extract_append_hi, extract_append_lo, extract_self, extract_zero, Nat.reduceSub]

theorem w2_19_b31 (sc : Bool) (k : BitVec 8) : ((BitVec.ofBool sc) ++ 0#23 ++ k : BitVec 32)[31] = sc := by
  rw [← BitVec.getLsbD_eq_getElem]
  show @BitVec.getLsbD (1+23+8) _ _ = _
  simp only [BitVec.getLsbD_append]
  simp

theorem w2_20_2_30 (kind : BitVec 2) : bits (0#30 ++ kind) 2 30 = 0 := by
  show @BitVec.extractLsb' (30+2) _ _ _ = _
  simp (disch := decide) only [extract_append_hi, extract_append_lo, extract_self, extract_zero, Nat.reduceSub]

theorem w2_20_0_2 (kind : BitVec 2) : bits (0#30 ++ kind) 0 2 = kind := by
  show @BitVec.extractLsb' (30+2) _ _ _ = _
  simp (disch := decide) only [extract_append_hi, extract_append_lo, extract_self, extract_zero, Nat.reduceSub]

theorem w2_21_0_31 (sc : Bool) : bits ((BitVec.ofBool sc) ++ 0#31) 0 31 = 0 := by
  show @BitVec.extractLsb' (1+31) _ _ _ = _
  simp (disch := decide) only [extract_append_hi, extract_append_lo, extract_self, extract_zero, Nat.reduceSub]

theorem w2_21_b31 (sc : Bool) : ((BitVec.ofBool sc) ++ 0#31 : BitVec 32)[31] = sc := by
  rw [← BitVec.getLsbD_eq_getElem]
  show @BitVec.getLsbD (1+31) _ _ = _
  simp only [BitVec.getLsbD_append]
  simp

theorem w2_22_30_2 (n : BitVec 30) : bits (0#2 ++ n) 30 2 = 0 := by
  show @BitVec.extractLsb' (2+30) _ _ _ = _
  simp (disch := decide) only [extract_append_hi, extract_append_lo, extract_self, extract_zero, Nat.reduceSub]

theorem w2_22_0_30 (n : BitVec 30) : bits (0#2 ++ n) 0 30 = n := by
  show @BitVec.extractLsb' (2+30) _ _ _ = _
  simp (disch := decide) only [extract_append_hi, extract_append_lo, extract_self, extract_zero, Nat.reduceSub]

theorem w2_23_3_29 (p2 : Path) : bits (0#29 ++ p2.code) 3 29 = 0 := by
  show @BitVec.extractLsb' (29+3) _ _ _ = _
  simp (disch := decide) only [extract_append_hi, extract_append_lo, extract_self, extract_zero, Nat.reduceSub]

theorem w2_23_0_3 (p2 : Path) : bits (0#29 ++ p2.code) 0 3 = p2.code := by
  show @BitVec.extractLsb' (29+3) _ _ _ = _
  simp (disch := decide) only [extract_append_hi, extract_append_lo, extract_self, extract_zero, Nat.reduceSub]

theorem w2_24_1_31 (all : Bool) : bits (0#31 ++ (BitVec.ofBool all)) 1 31 = 0 := by
  show @BitVec.extractLsb' (31+1) _ _ _ = _
  simp (disch := decide) only [extract_append_hi, extract_append_lo, extract_self, extract_zero, Nat.reduceSub]

theorem w2_24_b0 (all : Bool) : (0#31 ++ (BitVec.ofBool all) : BitVec 32)[0] = all := by
  rw [← BitVec.getLsbD_eq_getElem]
  show @BitVec.getLsbD (31+1) _ _ = _
  simp only [BitVec.getLsbD_append]
  simp

/-! ## The constructors -/

theorem add (h : Hdr) (d : Reg) (a : Reg) (b : Reg) : Statement (.add h d a b) := by
  intro hw _ rest
  refine oneWord rfl ?_ ?_ hw rest <;> simp [decodeBase, need]

theorem sub (h : Hdr) (d : Reg) (a : Reg) (b : Reg) : Statement (.sub h d a b) := by
  intro hw _ rest
  refine oneWord rfl ?_ ?_ hw rest <;> simp [decodeBase, need]

theorem mul (h : Hdr) (d : Reg) (a : Reg) (b : Reg) : Statement (.mul h d a b) := by
  intro hw _ rest
  refine oneWord rfl ?_ ?_ hw rest <;> simp [decodeBase, need]

theorem mulh (h : Hdr) (d : Reg) (a : Reg) (b : Reg) (u : Bool) : Statement (.mulh h d a b u) := by
  intro hw _ rest
  refine oneWord rfl ?_ ?_ hw rest <;> simp [decodeBase, need]

theorem div (h : Hdr) (d : Reg) (a : Reg) (b : Reg) (u : Bool) : Statement (.div h d a b u) := by
  intro hw _ rest
  refine oneWord rfl ?_ ?_ hw rest <;> simp [decodeBase, need]

theorem rem (h : Hdr) (d : Reg) (a : Reg) (b : Reg) (u : Bool) : Statement (.rem h d a b u) := by
  intro hw _ rest
  refine oneWord rfl ?_ ?_ hw rest <;> simp [decodeBase, need]

theorem and (h : Hdr) (d : Reg) (a : Reg) (b : Reg) : Statement (.and h d a b) := by
  intro hw _ rest
  refine oneWord rfl ?_ ?_ hw rest <;> simp [decodeBase, need]

theorem andn (h : Hdr) (d : Reg) (a : Reg) (b : Reg) : Statement (.andn h d a b) := by
  intro hw _ rest
  refine oneWord rfl ?_ ?_ hw rest <;> simp [decodeBase, need]

theorem or (h : Hdr) (d : Reg) (a : Reg) (b : Reg) : Statement (.or h d a b) := by
  intro hw _ rest
  refine oneWord rfl ?_ ?_ hw rest <;> simp [decodeBase, need]

theorem xor (h : Hdr) (d : Reg) (a : Reg) (b : Reg) : Statement (.xor h d a b) := by
  intro hw _ rest
  refine oneWord rfl ?_ ?_ hw rest <;> simp [decodeBase, need]

theorem shl (h : Hdr) (d : Reg) (a : Reg) (b : Reg) : Statement (.shl h d a b) := by
  intro hw _ rest
  refine oneWord rfl ?_ ?_ hw rest <;> simp [decodeBase, need]

theorem shr (h : Hdr) (d : Reg) (a : Reg) (b : Reg) : Statement (.shr h d a b) := by
  intro hw _ rest
  refine oneWord rfl ?_ ?_ hw rest <;> simp [decodeBase, need]

theorem sra (h : Hdr) (d : Reg) (a : Reg) (b : Reg) : Statement (.sra h d a b) := by
  intro hw _ rest
  refine oneWord rfl ?_ ?_ hw rest <;> simp [decodeBase, need]

theorem rot (h : Hdr) (d : Reg) (a : Reg) (b : Reg) : Statement (.rot h d a b) := by
  intro hw _ rest
  refine oneWord rfl ?_ ?_ hw rest <;> simp [decodeBase, need]

theorem clz (h : Hdr) (d : Reg) (a : Reg) : Statement (.clz h d a) := by
  intro hw _ rest
  refine oneWord rfl ?_ ?_ hw rest <;> simp [decodeBase, need]

theorem ctz (h : Hdr) (d : Reg) (a : Reg) : Statement (.ctz h d a) := by
  intro hw _ rest
  refine oneWord rfl ?_ ?_ hw rest <;> simp [decodeBase, need]

theorem popc (h : Hdr) (d : Reg) (a : Reg) : Statement (.popc h d a) := by
  intro hw _ rest
  refine oneWord rfl ?_ ?_ hw rest <;> simp [decodeBase, need]

theorem min (h : Hdr) (d : Reg) (a : Reg) (b : Reg) (u : Bool) : Statement (.min h d a b u) := by
  intro hw _ rest
  refine oneWord rfl ?_ ?_ hw rest <;> simp [decodeBase, need]

theorem max (h : Hdr) (d : Reg) (a : Reg) (b : Reg) (u : Bool) : Statement (.max h d a b u) := by
  intro hw _ rest
  refine oneWord rfl ?_ ?_ hw rest <;> simp [decodeBase, need]

theorem sel (h : Hdr) (d : Reg) (a : Reg) (b : Reg) : Statement (.sel h d a b) := by
  intro hw _ rest
  refine oneWord rfl ?_ ?_ hw rest <;> simp [decodeBase, need]

theorem mov (h : Hdr) (d : Reg) (a : Reg) : Statement (.mov h d a) := by
  intro hw _ rest
  refine oneWord rfl ?_ ?_ hw rest <;> simp [decodeBase, need]

theorem sxt (h : Hdr) (d : Reg) (a : Reg) (w : WidthCode) : Statement (.sxt h d a w) := by
  intro hw _ rest
  refine oneWord rfl ?_ ?_ hw rest <;> simp [decodeBase, need]

theorem zxt (h : Hdr) (d : Reg) (a : Reg) (w : WidthCode) : Statement (.zxt h d a w) := by
  intro hw _ rest
  refine oneWord rfl ?_ ?_ hw rest <;> simp [decodeBase, need]

theorem cmpEq (h : Hdr) (d : PredReg) (a : Reg) (b : Reg) (u : Bool) : Statement (.cmpEq h d a b u) := by
  intro hw _ rest
  refine oneWord rfl ?_ ?_ hw rest <;> simp [decodeBase, need]

theorem cmpNe (h : Hdr) (d : PredReg) (a : Reg) (b : Reg) (u : Bool) : Statement (.cmpNe h d a b u) := by
  intro hw _ rest
  refine oneWord rfl ?_ ?_ hw rest <;> simp [decodeBase, need]

theorem cmpLt (h : Hdr) (d : PredReg) (a : Reg) (b : Reg) (u : Bool) : Statement (.cmpLt h d a b u) := by
  intro hw _ rest
  refine oneWord rfl ?_ ?_ hw rest <;> simp [decodeBase, need]

theorem cmpLe (h : Hdr) (d : PredReg) (a : Reg) (b : Reg) (u : Bool) : Statement (.cmpLe h d a b u) := by
  intro hw _ rest
  refine oneWord rfl ?_ ?_ hw rest <;> simp [decodeBase, need]

theorem addi (gap : BitVec 2) (d : Reg) (a : Reg) (imm : BitVec 11) : Statement (.addi gap d a imm) := by
  intro hw _ rest
  refine oneWord rfl ?_ ?_ hw rest <;> simp [decodeBase, need]

theorem addiLong (h : Hdr) (d : Reg) (a : Reg) (lit : DWord) : Statement (.addiLong h d a lit) := by
  intro hw _ rest
  refine threeWordsLit rfl ?_ ?_ hw rest <;> simp [decodeLong, need]

theorem li (gap : BitVec 2) (d : Reg) (imm : BitVec 11) : Statement (.li gap d imm) := by
  intro hw _ rest
  refine oneWord rfl ?_ ?_ hw rest <;> simp [decodeBase, need]

theorem liLong (h : Hdr) (d : Reg) (lit : DWord) : Statement (.liLong h d lit) := by
  intro hw _ rest
  refine threeWordsLit rfl ?_ ?_ hw rest <;> simp [decodeLong, need]

theorem cmpiEq (gap : BitVec 2) (d : PredReg) (a : Reg) (imm : BitVec 11) : Statement (.cmpiEq gap d a imm) := by
  intro hw _ rest
  refine oneWord rfl ?_ ?_ hw rest <;> simp [decodeBase, need]

theorem cmpiNe (gap : BitVec 2) (d : PredReg) (a : Reg) (imm : BitVec 11) : Statement (.cmpiNe gap d a imm) := by
  intro hw _ rest
  refine oneWord rfl ?_ ?_ hw rest <;> simp [decodeBase, need]

theorem cmpiLt (gap : BitVec 2) (d : PredReg) (a : Reg) (imm : BitVec 11) : Statement (.cmpiLt gap d a imm) := by
  intro hw _ rest
  refine oneWord rfl ?_ ?_ hw rest <;> simp [decodeBase, need]

theorem cmpiLe (gap : BitVec 2) (d : PredReg) (a : Reg) (imm : BitVec 11) : Statement (.cmpiLe gap d a imm) := by
  intro hw _ rest
  refine oneWord rfl ?_ ?_ hw rest <;> simp [decodeBase, need]

theorem cmpiGt (gap : BitVec 2) (d : PredReg) (a : Reg) (imm : BitVec 11) : Statement (.cmpiGt gap d a imm) := by
  intro hw _ rest
  refine oneWord rfl ?_ ?_ hw rest <;> simp [decodeBase, need]

theorem cmpiGe (gap : BitVec 2) (d : PredReg) (a : Reg) (imm : BitVec 11) : Statement (.cmpiGe gap d a imm) := by
  intro hw _ rest
  refine oneWord rfl ?_ ?_ hw rest <;> simp [decodeBase, need]

theorem cmpiLtN64 (gap : BitVec 2) (d : PredReg) (a : Reg) (imm : BitVec 11) : Statement (.cmpiLtN64 gap d a imm) := by
  intro hw _ rest
  refine oneWord rfl ?_ ?_ hw rest <;> simp [decodeBase, need]

theorem cmpiLeN64 (gap : BitVec 2) (d : PredReg) (a : Reg) (imm : BitVec 11) : Statement (.cmpiLeN64 gap d a imm) := by
  intro hw _ rest
  refine oneWord rfl ?_ ?_ hw rest <;> simp [decodeBase, need]

theorem cmpiGtN64 (gap : BitVec 2) (d : PredReg) (a : Reg) (imm : BitVec 11) : Statement (.cmpiGtN64 gap d a imm) := by
  intro hw _ rest
  refine oneWord rfl ?_ ?_ hw rest <;> simp [decodeBase, need]

theorem cmpiGeN64 (gap : BitVec 2) (d : PredReg) (a : Reg) (imm : BitVec 11) : Statement (.cmpiGeN64 gap d a imm) := by
  intro hw _ rest
  refine oneWord rfl ?_ ?_ hw rest <;> simp [decodeBase, need]

theorem cmpiLong (h : Hdr) (cond : CmpiCond) (d : PredReg) (a : Reg) (lit : DWord) : Statement (.cmpiLong h cond d a lit) := by
  intro hw _ rest
  cases cond <;>
  refine threeWordsLit rfl ?_ ?_ hw rest <;> simp [decodeLong, need, CmpiCond.index, CmpiCond.ofIndex]

theorem pand (h : Hdr) (d : PredReg) (a : PredReg) (b : PredReg) : Statement (.pand h d a b) := by
  intro hw _ rest
  refine oneWord rfl ?_ ?_ hw rest <;> simp [decodeBase, need]

theorem por (h : Hdr) (d : PredReg) (a : PredReg) (b : PredReg) : Statement (.por h d a b) := by
  intro hw _ rest
  refine oneWord rfl ?_ ?_ hw rest <;> simp [decodeBase, need]

theorem pxor (h : Hdr) (d : PredReg) (a : PredReg) (b : PredReg) : Statement (.pxor h d a b) := by
  intro hw _ rest
  refine oneWord rfl ?_ ?_ hw rest <;> simp [decodeBase, need]

theorem pnot (h : Hdr) (d : PredReg) (a : PredReg) : Statement (.pnot h d a) := by
  intro hw _ rest
  refine oneWord rfl ?_ ?_ hw rest <;> simp [decodeBase, need]

theorem pmov (h : Hdr) (d : PredReg) (a : PredReg) : Statement (.pmov h d a) := by
  intro hw _ rest
  refine oneWord rfl ?_ ?_ hw rest <;> simp [decodeBase, need]

theorem br (h : Hdr) (disp : BitVec 16) : Statement (.br h disp) := by
  intro hw _ rest
  refine oneWord rfl ?_ ?_ hw rest <;> simp [decodeBase, need]

theorem brLong (h : Hdr) (lit : DWord) : Statement (.brLong h lit) := by
  intro hw _ rest
  refine threeWordsLit rfl ?_ ?_ hw rest <;> simp [decodeLong, need]

theorem jmp (gap : BitVec 2) (y : Bool) (disp : BitVec 16) : Statement (.jmp gap y disp) := by
  intro hw _ rest
  refine oneWord rfl ?_ ?_ hw rest <;> simp [decodeBase, need]

theorem jmpLong (gap : BitVec 2) (y : Bool) (lit : DWord) : Statement (.jmpLong gap y lit) := by
  intro hw _ rest
  refine threeWordsLit rfl ?_ ?_ hw rest <;> simp [decodeLong, need]

theorem jmpi (h : Hdr) (a : Reg) : Statement (.jmpi h a) := by
  intro hw _ rest
  refine oneWord rfl ?_ ?_ hw rest <;> simp [decodeBase, need]

theorem call (h : Hdr) (disp : BitVec 16) : Statement (.call h disp) := by
  intro hw _ rest
  refine oneWord rfl ?_ ?_ hw rest <;> simp [decodeBase, need]

theorem callLong (h : Hdr) (lit : DWord) : Statement (.callLong h lit) := by
  intro hw _ rest
  refine threeWordsLit rfl ?_ ?_ hw rest <;> simp [decodeLong, need]

theorem calli (h : Hdr) (a : Reg) : Statement (.calli h a) := by
  intro hw _ rest
  refine oneWord rfl ?_ ?_ hw rest <;> simp [decodeBase, need]

theorem ret (gap : BitVec 2) (y : Bool) : Statement (.ret gap y) := by
  intro hw _ rest
  refine oneWord rfl ?_ ?_ hw rest <;> simp [decodeBase, need]

theorem enter (gap : BitVec 2) (imm : BitVec 11) : Statement (.enter gap imm) := by
  intro hw _ rest
  refine oneWord rfl ?_ ?_ hw rest <;> simp [decodeBase, need]

theorem enterLong (h : Hdr) (lit : DWord) : Statement (.enterLong h lit) := by
  intro hw _ rest
  refine threeWordsLit rfl ?_ ?_ hw rest <;> simp [decodeLong, need]

theorem leave (h : Hdr) : Statement (.leave h) := by
  intro hw _ rest
  refine oneWord rfl ?_ ?_ hw rest <;> simp [decodeBase, need]

theorem nop (h : Hdr) : Statement (.nop h) := by
  intro hw _ rest
  refine oneWord rfl ?_ ?_ hw rest <;> simp [decodeBase, need]

theorem halt (h : Hdr) : Statement (.halt h) := by
  intro hw _ rest
  refine oneWord rfl ?_ ?_ hw rest <;> simp [decodeBase, need]

theorem ldI8 (gap : BitVec 2) (d : Reg) (a : Reg) (imm : BitVec 11) : Statement (.ldI8 gap d a imm) := by
  intro hw _ rest
  refine oneWord rfl ?_ ?_ hw rest <;> simp [decodeBase, need]

theorem ldI16 (gap : BitVec 2) (d : Reg) (a : Reg) (imm : BitVec 11) : Statement (.ldI16 gap d a imm) := by
  intro hw _ rest
  refine oneWord rfl ?_ ?_ hw rest <;> simp [decodeBase, need]

theorem ldI32 (gap : BitVec 2) (d : Reg) (a : Reg) (imm : BitVec 11) : Statement (.ldI32 gap d a imm) := by
  intro hw _ rest
  refine oneWord rfl ?_ ?_ hw rest <;> simp [decodeBase, need]

theorem ldI64 (gap : BitVec 2) (d : Reg) (a : Reg) (imm : BitVec 11) : Statement (.ldI64 gap d a imm) := by
  intro hw _ rest
  refine oneWord rfl ?_ ?_ hw rest <;> simp [decodeBase, need]

theorem ldN8 (gap : BitVec 2) (d : Reg) (a : Reg) (imm : BitVec 11) : Statement (.ldN8 gap d a imm) := by
  intro hw _ rest
  refine oneWord rfl ?_ ?_ hw rest <;> simp [decodeBase, need]

theorem ldN16 (gap : BitVec 2) (d : Reg) (a : Reg) (imm : BitVec 11) : Statement (.ldN16 gap d a imm) := by
  intro hw _ rest
  refine oneWord rfl ?_ ?_ hw rest <;> simp [decodeBase, need]

theorem ldN32 (gap : BitVec 2) (d : Reg) (a : Reg) (imm : BitVec 11) : Statement (.ldN32 gap d a imm) := by
  intro hw _ rest
  refine oneWord rfl ?_ ?_ hw rest <;> simp [decodeBase, need]

theorem ldLong (h : Hdr) (ty : LoadTy) (d : Reg) (a : Reg) (lit : DWord) : Statement (.ldLong h ty d a lit) := by
  intro hw _ rest
  cases ty <;>
  refine threeWordsLit rfl ?_ ?_ hw rest <;> simp [decodeLong, need, LoadTy.index, LoadTy.ofIndex]

theorem stI8 (gap : BitVec 2) (d : Reg) (a : Reg) (imm : BitVec 11) : Statement (.stI8 gap d a imm) := by
  intro hw _ rest
  refine oneWord rfl ?_ ?_ hw rest <;> simp [decodeBase, need]

theorem stI16 (gap : BitVec 2) (d : Reg) (a : Reg) (imm : BitVec 11) : Statement (.stI16 gap d a imm) := by
  intro hw _ rest
  refine oneWord rfl ?_ ?_ hw rest <;> simp [decodeBase, need]

theorem stI32 (gap : BitVec 2) (d : Reg) (a : Reg) (imm : BitVec 11) : Statement (.stI32 gap d a imm) := by
  intro hw _ rest
  refine oneWord rfl ?_ ?_ hw rest <;> simp [decodeBase, need]

theorem stI64 (gap : BitVec 2) (d : Reg) (a : Reg) (imm : BitVec 11) : Statement (.stI64 gap d a imm) := by
  intro hw _ rest
  refine oneWord rfl ?_ ?_ hw rest <;> simp [decodeBase, need]

theorem stLong (h : Hdr) (ty : StoreTy) (d : Reg) (a : Reg) (lit : DWord) : Statement (.stLong h ty d a lit) := by
  intro hw _ rest
  cases ty <;>
  refine threeWordsLit rfl ?_ ?_ hw rest <;> simp [decodeLong, need, StoreTy.index, StoreTy.ofIndex]

theorem vld (gap : BitVec 2) (d : VecReg) (a : Reg) (imm : BitVec 11) : Statement (.vld gap d a imm) := by
  intro hw _ rest
  refine oneWord rfl ?_ ?_ hw rest <;> simp [decodeBase, need]

theorem vldLong (h : Hdr) (d : VecReg) (a : Reg) (lit : DWord) : Statement (.vldLong h d a lit) := by
  intro hw _ rest
  refine threeWordsLit rfl ?_ ?_ hw rest <;> simp [decodeLong, need]

theorem vst (gap : BitVec 2) (d : VecReg) (a : Reg) (imm : BitVec 11) : Statement (.vst gap d a imm) := by
  intro hw _ rest
  refine oneWord rfl ?_ ?_ hw rest <;> simp [decodeBase, need]

theorem vstLong (h : Hdr) (d : VecReg) (a : Reg) (lit : DWord) : Statement (.vstLong h d a lit) := by
  intro hw _ rest
  refine threeWordsLit rfl ?_ ?_ hw rest <;> simp [decodeLong, need]

theorem bldI8 (gap : BitVec 2) (d : Reg) (a : Reg) (imm : BitVec 11) : Statement (.bldI8 gap d a imm) := by
  intro hw _ rest
  refine oneWord rfl ?_ ?_ hw rest <;> simp [decodeBase, need]

theorem bldI16 (gap : BitVec 2) (d : Reg) (a : Reg) (imm : BitVec 11) : Statement (.bldI16 gap d a imm) := by
  intro hw _ rest
  refine oneWord rfl ?_ ?_ hw rest <;> simp [decodeBase, need]

theorem bldI32 (gap : BitVec 2) (d : Reg) (a : Reg) (imm : BitVec 11) : Statement (.bldI32 gap d a imm) := by
  intro hw _ rest
  refine oneWord rfl ?_ ?_ hw rest <;> simp [decodeBase, need]

theorem bldI64 (gap : BitVec 2) (d : Reg) (a : Reg) (imm : BitVec 11) : Statement (.bldI64 gap d a imm) := by
  intro hw _ rest
  refine oneWord rfl ?_ ?_ hw rest <;> simp [decodeBase, need]

theorem bldN8 (gap : BitVec 2) (d : Reg) (a : Reg) (imm : BitVec 11) : Statement (.bldN8 gap d a imm) := by
  intro hw _ rest
  refine oneWord rfl ?_ ?_ hw rest <;> simp [decodeBase, need]

theorem bldN16 (gap : BitVec 2) (d : Reg) (a : Reg) (imm : BitVec 11) : Statement (.bldN16 gap d a imm) := by
  intro hw _ rest
  refine oneWord rfl ?_ ?_ hw rest <;> simp [decodeBase, need]

theorem bldN32 (gap : BitVec 2) (d : Reg) (a : Reg) (imm : BitVec 11) : Statement (.bldN32 gap d a imm) := by
  intro hw _ rest
  refine oneWord rfl ?_ ?_ hw rest <;> simp [decodeBase, need]

theorem bldLong (h : Hdr) (ty : LoadTy) (d : Reg) (a : Reg) (lit : DWord) : Statement (.bldLong h ty d a lit) := by
  intro hw _ rest
  cases ty <;>
  refine threeWordsLit rfl ?_ ?_ hw rest <;> simp [decodeLong, need, LoadTy.index, LoadTy.ofIndex]

theorem bstI8 (gap : BitVec 2) (d : Reg) (a : Reg) (imm : BitVec 11) : Statement (.bstI8 gap d a imm) := by
  intro hw _ rest
  refine oneWord rfl ?_ ?_ hw rest <;> simp [decodeBase, need]

theorem bstI16 (gap : BitVec 2) (d : Reg) (a : Reg) (imm : BitVec 11) : Statement (.bstI16 gap d a imm) := by
  intro hw _ rest
  refine oneWord rfl ?_ ?_ hw rest <;> simp [decodeBase, need]

theorem bstI32 (gap : BitVec 2) (d : Reg) (a : Reg) (imm : BitVec 11) : Statement (.bstI32 gap d a imm) := by
  intro hw _ rest
  refine oneWord rfl ?_ ?_ hw rest <;> simp [decodeBase, need]

theorem bstI64 (gap : BitVec 2) (d : Reg) (a : Reg) (imm : BitVec 11) : Statement (.bstI64 gap d a imm) := by
  intro hw _ rest
  refine oneWord rfl ?_ ?_ hw rest <;> simp [decodeBase, need]

theorem bstLong (h : Hdr) (ty : StoreTy) (d : Reg) (a : Reg) (lit : DWord) : Statement (.bstLong h ty d a lit) := by
  intro hw _ rest
  cases ty <;>
  refine threeWordsLit rfl ?_ ?_ hw rest <;> simp [decodeLong, need, StoreTy.index, StoreTy.ofIndex]

theorem vbld (gap : BitVec 2) (d : VecReg) (a : Reg) (imm : BitVec 11) : Statement (.vbld gap d a imm) := by
  intro hw _ rest
  refine oneWord rfl ?_ ?_ hw rest <;> simp [decodeBase, need]

theorem vbldLong (h : Hdr) (d : VecReg) (a : Reg) (lit : DWord) : Statement (.vbldLong h d a lit) := by
  intro hw _ rest
  refine threeWordsLit rfl ?_ ?_ hw rest <;> simp [decodeLong, need]

theorem vbst (gap : BitVec 2) (d : VecReg) (a : Reg) (imm : BitVec 11) : Statement (.vbst gap d a imm) := by
  intro hw _ rest
  refine oneWord rfl ?_ ?_ hw rest <;> simp [decodeBase, need]

theorem vbstLong (h : Hdr) (d : VecReg) (a : Reg) (lit : DWord) : Statement (.vbstLong h d a lit) := by
  intro hw _ rest
  refine threeWordsLit rfl ?_ ?_ hw rest <;> simp [decodeLong, need]

theorem blook (h : Hdr) (d : Reg) (a : Reg) : Statement (.blook h d a) := by
  intro hw _ rest
  refine oneWord rfl ?_ ?_ hw rest <;> simp [decodeBase, need]

theorem btag (h : Hdr) (d : Reg) (a : Reg) (b : Reg) : Statement (.btag h d a b) := by
  intro hw _ rest
  refine oneWord rfl ?_ ?_ hw rest <;> simp [decodeBase, need]

theorem binv (h : Hdr) (d : Reg) (a : Reg) : Statement (.binv h d a) := by
  intro hw _ rest
  refine oneWord rfl ?_ ?_ hw rest <;> simp [decodeBase, need]

theorem send (h : Hdr) (d : MsgReg) (a : Reg) (b : VecReg) : Statement (.send h d a b) := by
  intro hw _ rest
  refine oneWord rfl ?_ ?_ hw rest <;> simp [decodeBase, need]

theorem mget (h : Hdr) (d : MsgReg) (a : Reg) (b : Reg) : Statement (.mget h d a b) := by
  intro hw _ rest
  refine oneWord rfl ?_ ?_ hw rest <;> simp [decodeBase, need]

theorem msgb (h : Hdr) (d : VecReg) (a : Reg) (b : Reg) (s8 : Bool) : Statement (.msgb h d a b s8) := by
  intro hw _ rest
  refine oneWord rfl ?_ ?_ hw rest <;> simp [decodeBase, need]

theorem mclr (h : Hdr) (d : MsgReg) : Statement (.mclr h d) := by
  intro hw _ rest
  refine oneWord rfl ?_ ?_ hw rest <;> simp [decodeBase, need]

theorem ldx (h : Hdr) (d : MsgReg) (a : Reg) : Statement (.ldx h d a) := by
  intro hw _ rest
  refine oneWord rfl ?_ ?_ hw rest <;> simp [decodeBase, need]

theorem stx (h : Hdr) (a : Reg) (b : VecReg) : Statement (.stx h a b) := by
  intro hw _ rest
  refine oneWord rfl ?_ ?_ hw rest <;> simp [decodeBase, need]

theorem trap (gap : BitVec 2) (imm : BitVec 11) : Statement (.trap gap imm) := by
  intro hw _ rest
  refine oneWord rfl ?_ ?_ hw rest <;> simp [decodeBase, need]

theorem trapLong (h : Hdr) (lit : DWord) : Statement (.trapLong h lit) := by
  intro hw _ rest
  refine threeWordsLit rfl ?_ ?_ hw rest <;> simp [decodeLong, need]

theorem eret (gap : BitVec 2) (y : Bool) : Statement (.eret gap y) := by
  intro hw _ rest
  refine oneWord rfl ?_ ?_ hw rest <;> simp [decodeBase, need]

theorem sysr (gap : BitVec 2) (d : Reg) (imm : BitVec 11) : Statement (.sysr gap d imm) := by
  intro hw _ rest
  refine oneWord rfl ?_ ?_ hw rest <;> simp [decodeBase, need]

theorem sysrLong (h : Hdr) (d : Reg) (lit : DWord) : Statement (.sysrLong h d lit) := by
  intro hw _ rest
  refine threeWordsLit rfl ?_ ?_ hw rest <;> simp [decodeLong, need]

theorem sysw (gap : BitVec 2) (d : Reg) (imm : BitVec 11) : Statement (.sysw gap d imm) := by
  intro hw _ rest
  refine oneWord rfl ?_ ?_ hw rest <;> simp [decodeBase, need]

theorem syswLong (h : Hdr) (d : Reg) (lit : DWord) : Statement (.syswLong h d lit) := by
  intro hw _ rest
  refine threeWordsLit rfl ?_ ?_ hw rest <;> simp [decodeLong, need]

theorem yield (h : Hdr) : Statement (.yield h) := by
  intro hw _ rest
  refine oneWord rfl ?_ ?_ hw rest <;> simp [decodeBase, need]

theorem ext (h : Hdr) (d : Reg) (a : Reg) (ty : Ty) (tier : Option (BitVec 2)) (pos : BitVec 6) (wm1 : BitVec 6) : Statement (.ext h d a ty tier pos wm1) := by
  intro hw _ rest
  refine threeWords rfl ?_ ?_ hw rest <;> simp [decodeExt, decodeExt60, need, w2_1_6_2, w2_1_14_18, w2_1_0_6, w2_1_8_6]

theorem ins (h : Hdr) (d : Reg) (a : Reg) (tier : Option (BitVec 2)) (pos : BitVec 6) (wm1 : BitVec 6) : Statement (.ins h d a tier pos wm1) := by
  intro hw _ rest
  refine threeWords rfl ?_ ?_ hw rest <;> simp [decodeExt, decodeExt60, need, w2_1_6_2, w2_1_14_18, w2_1_0_6, w2_1_8_6]

theorem lea (h : Hdr) (d : Reg) (a : Reg) (b : Reg) (tier : Option (BitVec 2)) (sh : BitVec 3) (disp : BitVec 24) : Statement (.lea h d a b tier sh disp) := by
  intro hw _ rest
  refine threeWords rfl ?_ ?_ hw rest <;> simp [decodeExt, decodeExt60, need, w2_2_3_5, w2_2_0_3, w2_2_8_24]

theorem leaXl (h : Hdr) (d : Reg) (a : Reg) (b : Reg) (tier : Option (BitVec 2)) (sh : BitVec 3) (lit : DWord) : Statement (.leaXl h d a b tier sh lit) := by
  intro hw _ rest
  refine fiveWords rfl ?_ ?_ hw rest <;> simp [decodeExtLong, need, w2_3_3_29, w2_3_0_3]

theorem rep (h : Hdr) (stride : BitVec 5) (nm1l : BitVec 5) (winl : BitVec 5) (winh : Bool) (nm1h : BitVec 5) (km1 : BitVec 3) (mask : BitVec 24) : Statement (.rep h stride nm1l winl winh nm1h km1 mask) := by
  intro hw _ rest
  refine threeWords rfl ?_ ?_ hw rest <;> simp [decodeExt, decodeExt61, need, w2_4_27_5, w2_4_24_3, w2_4_0_24]

theorem vlds (h : Hdr) (d : VecReg) (a : Reg) (b : Reg) (ty : Ty) (tier : Option (BitVec 2)) (disp : BitVec 32) : Statement (.vlds h d a b ty tier disp) := by
  intro hw _ rest
  refine threeWords rfl ?_ ?_ hw rest <;> simp [decodeExt, decodeExt62, need]

theorem vsts (h : Hdr) (d : VecReg) (a : Reg) (b : Reg) (ty : Ty) (tier : Option (BitVec 2)) (disp : BitVec 32) : Statement (.vsts h d a b ty tier disp) := by
  intro hw _ rest
  refine threeWords rfl ?_ ?_ hw rest <;> simp [decodeExt, decodeExt62, need]

theorem vgath (h : Hdr) (d : VecReg) (a : Reg) (b : VecReg) (ty : Ty) (tier : Option (BitVec 2)) (disp : BitVec 32) : Statement (.vgath h d a b ty tier disp) := by
  intro hw _ rest
  refine threeWords rfl ?_ ?_ hw rest <;> simp [decodeExt, decodeExt62, need]

theorem vscat (h : Hdr) (d : VecReg) (a : Reg) (b : VecReg) (ty : Ty) (tier : Option (BitVec 2)) (disp : BitVec 32) : Statement (.vscat h d a b ty tier disp) := by
  intro hw _ rest
  refine threeWords rfl ?_ ?_ hw rest <;> simp [decodeExt, decodeExt62, need]

theorem vadd (h : Hdr) (d : VecReg) (a : VecReg) (b : VecReg) (ty : Ty) (rnd : Rnd) (sat : Bool) (tier : Option (BitVec 2)) : Statement (.vadd h d a b ty rnd sat tier) := by
  intro hw _ rest
  refine threeWords rfl ?_ ?_ hw rest <;> simp [decodeExt, decodeExt63, need]

theorem vsub (h : Hdr) (d : VecReg) (a : VecReg) (b : VecReg) (ty : Ty) (rnd : Rnd) (sat : Bool) (tier : Option (BitVec 2)) : Statement (.vsub h d a b ty rnd sat tier) := by
  intro hw _ rest
  refine threeWords rfl ?_ ?_ hw rest <;> simp [decodeExt, decodeExt63, need]

theorem vmul (h : Hdr) (d : VecReg) (a : VecReg) (b : VecReg) (ty : Ty) (rnd : Rnd) (sat : Bool) (tier : Option (BitVec 2)) : Statement (.vmul h d a b ty rnd sat tier) := by
  intro hw _ rest
  refine threeWords rfl ?_ ?_ hw rest <;> simp [decodeExt, decodeExt63, need]

theorem vfma (h : Hdr) (d : VecReg) (a : VecReg) (b : VecReg) (ty : Ty) (rnd : Rnd) (tier : Option (BitVec 2)) (c : VecReg) : Statement (.vfma h d a b ty rnd tier c) := by
  intro hw _ rest
  refine threeWords rfl ?_ ?_ hw rest <;> simp [decodeExt, decodeExt63, need, w2_5_5_27, w2_5_0_5]

theorem vfms (h : Hdr) (d : VecReg) (a : VecReg) (b : VecReg) (ty : Ty) (rnd : Rnd) (tier : Option (BitVec 2)) (c : VecReg) : Statement (.vfms h d a b ty rnd tier c) := by
  intro hw _ rest
  refine threeWords rfl ?_ ?_ hw rest <;> simp [decodeExt, decodeExt63, need, w2_5_5_27, w2_5_0_5]

theorem vneg (h : Hdr) (d : VecReg) (a : VecReg) (ty : Ty) (sat : Bool) (tier : Option (BitVec 2)) : Statement (.vneg h d a ty sat tier) := by
  intro hw _ rest
  refine threeWords rfl ?_ ?_ hw rest <;> simp [decodeExt, decodeExt63, need]

theorem vabs (h : Hdr) (d : VecReg) (a : VecReg) (ty : Ty) (sat : Bool) (tier : Option (BitVec 2)) : Statement (.vabs h d a ty sat tier) := by
  intro hw _ rest
  refine threeWords rfl ?_ ?_ hw rest <;> simp [decodeExt, decodeExt63, need]

theorem vmin (h : Hdr) (d : VecReg) (a : VecReg) (b : VecReg) (ty : Ty) (tier : Option (BitVec 2)) : Statement (.vmin h d a b ty tier) := by
  intro hw _ rest
  refine threeWords rfl ?_ ?_ hw rest <;> simp [decodeExt, decodeExt63, need]

theorem vmax (h : Hdr) (d : VecReg) (a : VecReg) (b : VecReg) (ty : Ty) (tier : Option (BitVec 2)) : Statement (.vmax h d a b ty tier) := by
  intro hw _ rest
  refine threeWords rfl ?_ ?_ hw rest <;> simp [decodeExt, decodeExt63, need]

theorem vdiv (h : Hdr) (d : VecReg) (a : VecReg) (b : VecReg) (ty : Ty) (rnd : Rnd) (tier : Option (BitVec 2)) : Statement (.vdiv h d a b ty rnd tier) := by
  intro hw _ rest
  refine threeWords rfl ?_ ?_ hw rest <;> simp [decodeExt, decodeExt63, need]

theorem vsqrt (h : Hdr) (d : VecReg) (a : VecReg) (ty : Ty) (rnd : Rnd) (tier : Option (BitVec 2)) : Statement (.vsqrt h d a ty rnd tier) := by
  intro hw _ rest
  refine threeWords rfl ?_ ?_ hw rest <;> simp [decodeExt, decodeExt63, need]

theorem vrcp (h : Hdr) (d : VecReg) (a : VecReg) (ty : Ty) (rnd : Rnd) (tier : Option (BitVec 2)) : Statement (.vrcp h d a ty rnd tier) := by
  intro hw _ rest
  refine threeWords rfl ?_ ?_ hw rest <;> simp [decodeExt, decodeExt63, need]

theorem vrsq (h : Hdr) (d : VecReg) (a : VecReg) (ty : Ty) (rnd : Rnd) (tier : Option (BitVec 2)) : Statement (.vrsq h d a ty rnd tier) := by
  intro hw _ rest
  refine threeWords rfl ?_ ?_ hw rest <;> simp [decodeExt, decodeExt63, need]

theorem vexp2f (h : Hdr) (d : VecReg) (a : VecReg) (ty : Ty) (tier : Option (BitVec 2)) : Statement (.vexp2f h d a ty tier) := by
  intro hw _ rest
  refine threeWords rfl ?_ ?_ hw rest <;> simp [decodeExt, decodeExt63, need]

theorem vrndi (h : Hdr) (d : VecReg) (a : VecReg) (ty : Ty) (rnd : Rnd) (tier : Option (BitVec 2)) : Statement (.vrndi h d a ty rnd tier) := by
  intro hw _ rest
  refine threeWords rfl ?_ ?_ hw rest <;> simp [decodeExt, decodeExt63, need]

theorem vinsx (h : Hdr) (d : VecReg) (a : VecReg) (b : VecReg) (ty : Ty) (rnd : Rnd) (sat : Bool) (tier : Option (BitVec 2)) : Statement (.vinsx h d a b ty rnd sat tier) := by
  intro hw _ rest
  refine threeWords rfl ?_ ?_ hw rest <;> simp [decodeExt, decodeExt63, need]

theorem vextx (h : Hdr) (d : VecReg) (a : VecReg) (ty : Ty) (tier : Option (BitVec 2)) : Statement (.vextx h d a ty tier) := by
  intro hw _ rest
  refine threeWords rfl ?_ ?_ hw rest <;> simp [decodeExt, decodeExt63, need]

theorem vcvt (h : Hdr) (d : VecReg) (a : VecReg) (ty : Ty) (ty2 : Ty) (rnd : Rnd) (sat : Bool) (tier : Option (BitVec 2)) (part : BitVec 2) : Statement (.vcvt h d a ty ty2 rnd sat tier part) := by
  intro hw _ rest
  refine threeWords rfl ?_ ?_ hw rest <;> simp [decodeExt, decodeExt63, need, w2_6_2_30, w2_6_0_2]

theorem vcmp (h : Hdr) (d : VecReg) (a : VecReg) (b : VecReg) (ty : Ty) (tier : Option (BitVec 2)) (cond : BitVec 3) (pw : Bool) (p : PredReg) : Statement (.vcmp h d a b ty tier cond pw p) := by
  intro hw _ rest
  refine threeWords rfl ?_ ?_ hw rest <;> simp [decodeExt, decodeExt63, need, w2_7_7_25, w2_7_0_3, w2_7_4_3, w2_7_b3]

theorem vsel (h : Hdr) (d : VecReg) (a : VecReg) (b : VecReg) (ty : Ty) (tier : Option (BitVec 2)) (c : VecReg) : Statement (.vsel h d a b ty tier c) := by
  intro hw _ rest
  refine threeWords rfl ?_ ?_ hw rest <;> simp [decodeExt, decodeExt63, need, w2_5_5_27, w2_5_0_5]

theorem vand (h : Hdr) (d : VecReg) (a : VecReg) (b : VecReg) (tier : Option (BitVec 2)) : Statement (.vand h d a b tier) := by
  intro hw _ rest
  refine threeWords rfl ?_ ?_ hw rest <;> simp [decodeExt, decodeExt63, need]

theorem vor (h : Hdr) (d : VecReg) (a : VecReg) (b : VecReg) (tier : Option (BitVec 2)) : Statement (.vor h d a b tier) := by
  intro hw _ rest
  refine threeWords rfl ?_ ?_ hw rest <;> simp [decodeExt, decodeExt63, need]

theorem vxor (h : Hdr) (d : VecReg) (a : VecReg) (b : VecReg) (tier : Option (BitVec 2)) : Statement (.vxor h d a b tier) := by
  intro hw _ rest
  refine threeWords rfl ?_ ?_ hw rest <;> simp [decodeExt, decodeExt63, need]

theorem vshl (h : Hdr) (d : VecReg) (a : VecReg) (b : VecReg) (ty : Ty) (sat : Bool) (tier : Option (BitVec 2)) : Statement (.vshl h d a b ty sat tier) := by
  intro hw _ rest
  refine threeWords rfl ?_ ?_ hw rest <;> simp [decodeExt, decodeExt63, need]

theorem vshr (h : Hdr) (d : VecReg) (a : VecReg) (b : VecReg) (ty : Ty) (tier : Option (BitVec 2)) : Statement (.vshr h d a b ty tier) := by
  intro hw _ rest
  refine threeWords rfl ?_ ?_ hw rest <;> simp [decodeExt, decodeExt63, need]

theorem vsra (h : Hdr) (d : VecReg) (a : VecReg) (b : VecReg) (ty : Ty) (tier : Option (BitVec 2)) : Statement (.vsra h d a b ty tier) := by
  intro hw _ rest
  refine threeWords rfl ?_ ?_ hw rest <;> simp [decodeExt, decodeExt63, need]

theorem vperm (h : Hdr) (d : VecReg) (a : VecReg) (b : VecReg) (ty : Ty) (tier : Option (BitVec 2)) : Statement (.vperm h d a b ty tier) := by
  intro hw _ rest
  refine threeWords rfl ?_ ?_ hw rest <;> simp [decodeExt, decodeExt63, need]

theorem vsplat (h : Hdr) (d : VecReg) (a : Reg) (ty : Ty) (tier : Option (BitVec 2)) : Statement (.vsplat h d a ty tier) := by
  intro hw _ rest
  refine threeWords rfl ?_ ?_ hw rest <;> simp [decodeExt, decodeExt63, need]

theorem vsplatXl (h : Hdr) (d : VecReg) (ty : Ty) (tier : Option (BitVec 2)) (lit : DWord) : Statement (.vsplatXl h d ty tier lit) := by
  intro hw _ rest
  refine fiveWords rfl ?_ ?_ hw rest <;> simp [decodeExtLong, need]

theorem vmov (h : Hdr) (d : VecReg) (a : VecReg) (tier : Option (BitVec 2)) : Statement (.vmov h d a tier) := by
  intro hw _ rest
  refine threeWords rfl ?_ ?_ hw rest <;> simp [decodeExt, decodeExt63, need]

theorem vreds (h : Hdr) (d : Reg) (a : VecReg) (ty : Ty) (rnd : Rnd) (sat : Bool) (tier : Option (BitVec 2)) : Statement (.vreds h d a ty rnd sat tier) := by
  intro hw _ rest
  refine threeWords rfl ?_ ?_ hw rest <;> simp [decodeExt, decodeExt63, need]

theorem vredx (h : Hdr) (d : Reg) (a : VecReg) (ty : Ty) (tier : Option (BitVec 2)) (isMax : Bool) : Statement (.vredx h d a ty tier isMax) := by
  intro hw _ rest
  refine threeWords rfl ?_ ?_ hw rest <;> simp [decodeExt, decodeExt63, need, w2_8_1_31, w2_8_b0]

theorem vclass (h : Hdr) (d : VecReg) (a : VecReg) (ty : Ty) (tier : Option (BitVec 2)) : Statement (.vclass h d a ty tier) := by
  intro hw _ rest
  refine threeWords rfl ?_ ?_ hw rest <;> simp [decodeExt, decodeExt63, need]

theorem vcode (h : Hdr) (d : VecReg) (a : VecReg) (ty : Ty) (ty2 : Ty) (tier : Option (BitVec 2)) (seg : BitVec 3) : Statement (.vcode h d a ty ty2 tier seg) := by
  intro hw _ rest
  refine threeWords rfl ?_ ?_ hw rest <;> simp [decodeExt, decodeExt63, need, w2_9_3_29, w2_9_0_3]

theorem vql4 (h : Hdr) (d : VecReg) (a : VecReg) (ty : Ty) (ty2 : Ty) (tier : Option (BitVec 2)) (seg : BitVec 3) : Statement (.vql4 h d a ty ty2 tier seg) := by
  intro hw _ rest
  refine threeWords rfl ?_ ?_ hw rest <;> simp [decodeExt, decodeExt63, need, w2_9_3_29, w2_9_0_3]

theorem vscac (h : Hdr) (d : VecReg) (a : VecReg) (b : VecReg) (ty : Ty) (ty2 : Ty) (tier : Option (BitVec 2)) (c : VecReg) (e : Reg) (ql : Bool) : Statement (.vscac h d a b ty ty2 tier c e ql) := by
  intro hw _ rest
  refine threeWords rfl ?_ ?_ hw rest <;> simp [decodeExt, decodeExt63, need, w2_10_5_3, w2_10_14_18, w2_10_0_5, w2_10_8_5, w2_10_b13]

theorem vker (h : Hdr) (d : VecReg) (a : VecReg) (ty : Ty) (tier : Option (BitVec 2)) : Statement (.vker h d a ty tier) := by
  intro hw _ rest
  refine threeWords rfl ?_ ?_ hw rest <;> simp [decodeExt, decodeExt63, need]

theorem gang (h : Hdr) : Statement (.gang h) := by
  intro hw _ rest
  refine threeWords rfl ?_ ?_ hw rest <;> simp [decodeExt, decodeExt64, need]

theorem mma (h : Hdr) (d : TileReg) (a : Reg) (ty : Ty) (ty2 : Ty) (k : BitVec 14) (koff : BitVec 13) (t : Bool) (z : Bool) : Statement (.mma h d a ty ty2 k koff t z) := by
  intro hw _ rest
  refine threeWords rfl ?_ ?_ hw rest <;> simp [decodeExt, decodeExt64, need, w2_11_14_2, w2_11_29_1, w2_11_0_14, w2_11_16_13, w2_11_b30, w2_11_b31]

theorem mmas (h : Hdr) (d : TileReg) (a : Reg) (b : MsgReg) (ty : Ty) (ty2 : Ty) : Statement (.mmas h d a b ty ty2) := by
  intro hw _ rest
  refine threeWords rfl ?_ ?_ hw rest <;> simp [decodeExt, decodeExt64, need]

theorem mwld (h : Hdr) (a : Reg) (b : Reg) (ty : Ty) (k : BitVec 14) (axis : Bool) : Statement (.mwld h a b ty k axis) := by
  intro hw _ rest
  refine threeWords rfl ?_ ?_ hw rest <;> simp [decodeExt, decodeExt64, need, w2_12_14_16, w2_12_31_1, w2_12_0_14, w2_12_b30]

theorem mzero (h : Hdr) (d : TileReg) : Statement (.mzero h d) := by
  intro hw _ rest
  refine threeWords rfl ?_ ?_ hw rest <;> simp [decodeExt, decodeExt64, need]

theorem mrd (h : Hdr) (d : VecReg) (a : TileReg) (ty : Ty) (sat : Bool) (row : BitVec 5) : Statement (.mrd h d a ty sat row) := by
  intro hw _ rest
  refine threeWords rfl ?_ ?_ hw rest <;> simp [decodeExt, decodeExt64, need, w2_13_5_27, w2_13_0_5]

theorem mscac (h : Hdr) (d : TileReg) (a : Reg) (b : Reg) : Statement (.mscac h d a b) := by
  intro hw _ rest
  refine threeWords rfl ?_ ?_ hw rest <;> simp [decodeExt, decodeExt64, need]

theorem mstat (h : Hdr) (d : Reg) : Statement (.mstat h d) := by
  intro hw _ rest
  refine threeWords rfl ?_ ?_ hw rest <;> simp [decodeExt, decodeExt64, need]

theorem rstr (h : Hdr) (d : WsReg) (a : Reg) (b : Reg) (ty : Ty) (ovw : Bool) (self : Bool) : Statement (.rstr h d a b ty ovw self) := by
  intro hw _ rest
  refine threeWords rfl ?_ ?_ hw rest <;> simp [decodeExt, decodeExt65, need, w2_14_2_30, w2_14_b0, w2_14_b1]

theorem prlg (h : Hdr) (d : WsReg) (a : Reg) (b : Reg) (ty : Ty) (ovw : Bool) (self : Bool) : Statement (.prlg h d a b ty ovw self) := by
  intro hw _ rest
  refine threeWords rfl ?_ ?_ hw rest <;> simp [decodeExt, decodeExt65, need, w2_14_2_30, w2_14_b0, w2_14_b1]

theorem wsld (h : Hdr) (d : WsReg) (a : Reg) : Statement (.wsld h d a) := by
  intro hw _ rest
  refine threeWords rfl ?_ ?_ hw rest <;> simp [decodeExt, decodeExt65, need]

theorem xclr (h : Hdr) (d : ExpReg) (a : Reg) (tier : Option (BitVec 2)) : Statement (.xclr h d a tier) := by
  intro hw _ rest
  refine threeWords rfl ?_ ?_ hw rest <;> simp [decodeExt, decodeExt66, need]

theorem xld (h : Hdr) (d : ExpReg) (a : Reg) (tier : Option (BitVec 2)) : Statement (.xld h d a tier) := by
  intro hw _ rest
  refine threeWords rfl ?_ ?_ hw rest <;> simp [decodeExt, decodeExt66, need]

theorem xst (h : Hdr) (d : ExpReg) (a : Reg) (tier : Option (BitVec 2)) : Statement (.xst h d a tier) := by
  intro hw _ rest
  refine threeWords rfl ?_ ?_ hw rest <;> simp [decodeExt, decodeExt66, need]

theorem xsetKern (h : Hdr) (tier : Option (BitVec 2)) (kern : BitVec 3) : Statement (.xsetKern h tier kern) := by
  intro hw _ rest
  refine threeWords rfl ?_ ?_ hw rest <;> simp [decodeExt, decodeExt66, need, w2_15_0_2, w2_15_0_4, w2_15_7_25, w2_15_4_3]

theorem xsetGamma (h : Hdr) (a : Reg) (tier : Option (BitVec 2)) : Statement (.xsetGamma h a tier) := by
  intro hw _ rest
  refine threeWords rfl ?_ ?_ hw rest <;> simp [decodeExt, decodeExt66, need, show bits 1#32 0 2 = 1#2 from rfl]

theorem xsetEta (h : Hdr) (a : Reg) (tier : Option (BitVec 2)) : Statement (.xsetEta h a tier) := by
  intro hw _ rest
  refine threeWords rfl ?_ ?_ hw rest <;> simp [decodeExt, decodeExt66, need, show bits 2#32 0 2 = 2#2 from rfl]

theorem xform (h : Hdr) (d : ExpReg) (a : Reg) (tier : Option (BitVec 2)) (n : BitVec 13) : Statement (.xform h d a tier n) := by
  intro hw _ rest
  refine threeWords rfl ?_ ?_ hw rest <;> simp [decodeExt, decodeExt66, need, w2_16_13_19, w2_16_0_13]

theorem xm2m (h : Hdr) (d : ExpReg) (a : ExpReg) (tier : Option (BitVec 2)) : Statement (.xm2m h d a tier) := by
  intro hw _ rest
  refine threeWords rfl ?_ ?_ hw rest <;> simp [decodeExt, decodeExt66, need]

theorem xm2l (h : Hdr) (d : ExpReg) (a : ExpReg) (tier : Option (BitVec 2)) : Statement (.xm2l h d a tier) := by
  intro hw _ rest
  refine threeWords rfl ?_ ?_ hw rest <;> simp [decodeExt, decodeExt66, need]

theorem xl2l (h : Hdr) (d : ExpReg) (a : ExpReg) (tier : Option (BitVec 2)) : Statement (.xl2l h d a tier) := by
  intro hw _ rest
  refine threeWords rfl ?_ ?_ hw rest <;> simp [decodeExt, decodeExt66, need]

theorem xeval (h : Hdr) (a : Reg) (b : ExpReg) (tier : Option (BitVec 2)) (n : BitVec 13) : Statement (.xeval h a b tier n) := by
  intro hw _ rest
  refine threeWords rfl ?_ ?_ hw rest <;> simp [decodeExt, decodeExt66, need, w2_16_13_19, w2_16_0_13]

theorem xm2p (h : Hdr) (a : Reg) (b : ExpReg) (tier : Option (BitVec 2)) (n : BitVec 13) : Statement (.xm2p h a b tier n) := by
  intro hw _ rest
  refine threeWords rfl ?_ ?_ hw rest <;> simp [decodeExt, decodeExt66, need, w2_16_13_19, w2_16_0_13]

theorem xadm (h : Hdr) (d : PredReg) (a : ExpReg) (b : ExpReg) (tier : Option (BitVec 2)) : Statement (.xadm h d a b tier) := by
  intro hw _ rest
  refine threeWords rfl ?_ ?_ hw rest <;> simp [decodeExt, decodeExt66, need]

theorem cpy (h : Hdr) (a : Reg) (scope : Scope) : Statement (.cpy h a scope) := by
  intro hw _ rest
  refine threeWords rfl ?_ ?_ hw rest <;> simp [decodeExt, decodeExt67, need]

theorem cpys (h : Hdr) (a : Reg) (scope : Scope) : Statement (.cpys h a scope) := by
  intro hw _ rest
  refine threeWords rfl ?_ ?_ hw rest <;> simp [decodeExt, decodeExt67, need]

theorem cpyg (h : Hdr) (a : Reg) (scope : Scope) : Statement (.cpyg h a scope) := by
  intro hw _ rest
  refine threeWords rfl ?_ ?_ hw rest <;> simp [decodeExt, decodeExt67, need]

theorem stage (h : Hdr) (a : Reg) : Statement (.stage h a) := by
  intro hw _ rest
  refine threeWords rfl ?_ ?_ hw rest <;> simp [decodeExt, decodeExt67, need]

theorem coll (h : Hdr) (a : Reg) (ty : Ty) (scope : Scope) (kind : BitVec 2) (op : BitVec 2) : Statement (.coll h a ty scope kind op) := by
  intro hw _ rest
  refine threeWords rfl ?_ ?_ hw rest <;> simp [decodeExt, decodeExt67, need, w2_17_4_28, w2_17_0_2, w2_17_2_2]

theorem finst (h : Hdr) (a : Reg) : Statement (.finst h a) := by
  intro hw _ rest
  refine threeWords rfl ?_ ?_ hw rest <;> simp [decodeExt, decodeExt67, need]

theorem fstat (h : Hdr) (d : Reg) (a : Reg) : Statement (.fstat h d a) := by
  intro hw _ rest
  refine threeWords rfl ?_ ?_ hw rest <;> simp [decodeExt, decodeExt67, need]

theorem marm (h : Hdr) (a : Reg) : Statement (.marm h a) := by
  intro hw _ rest
  refine threeWords rfl ?_ ?_ hw rest <;> simp [decodeExt, decodeExt67, need]

theorem mwait (h : Hdr) (d : Reg) (a : Reg) (ne : Bool) : Statement (.mwait h d a ne) := by
  intro hw _ rest
  refine threeWords rfl ?_ ?_ hw rest <;> simp [decodeExt, decodeExt67, need, w2_18_1_31, w2_18_b0]

theorem aadd (h : Hdr) (d : Reg) (a : Reg) (b : Reg) (ty : Ty) (scope : Scope) (k : BitVec 8) (sc : Bool) : Statement (.aadd h d a b ty scope k sc) := by
  intro hw _ rest
  refine threeWords rfl ?_ ?_ hw rest <;> simp [decodeExt, decodeExt68, need, w2_19_8_23, w2_19_0_8, w2_19_b31]

theorem amin (h : Hdr) (d : Reg) (a : Reg) (b : Reg) (ty : Ty) (scope : Scope) (k : BitVec 8) (sc : Bool) : Statement (.amin h d a b ty scope k sc) := by
  intro hw _ rest
  refine threeWords rfl ?_ ?_ hw rest <;> simp [decodeExt, decodeExt68, need, w2_19_8_23, w2_19_0_8, w2_19_b31]

theorem amax (h : Hdr) (d : Reg) (a : Reg) (b : Reg) (ty : Ty) (scope : Scope) (k : BitVec 8) (sc : Bool) : Statement (.amax h d a b ty scope k sc) := by
  intro hw _ rest
  refine threeWords rfl ?_ ?_ hw rest <;> simp [decodeExt, decodeExt68, need, w2_19_8_23, w2_19_0_8, w2_19_b31]

theorem axchg (h : Hdr) (d : Reg) (a : Reg) (b : Reg) (ty : Ty) (scope : Scope) (k : BitVec 8) (sc : Bool) : Statement (.axchg h d a b ty scope k sc) := by
  intro hw _ rest
  refine threeWords rfl ?_ ?_ hw rest <;> simp [decodeExt, decodeExt68, need, w2_19_8_23, w2_19_0_8, w2_19_b31]

theorem acas (h : Hdr) (d : Reg) (a : Reg) (b : Reg) (ty : Ty) (scope : Scope) (k : BitVec 8) (sc : Bool) : Statement (.acas h d a b ty scope k sc) := by
  intro hw _ rest
  refine threeWords rfl ?_ ?_ hw rest <;> simp [decodeExt, decodeExt68, need, w2_19_8_23, w2_19_0_8, w2_19_b31]

theorem aand (h : Hdr) (d : Reg) (a : Reg) (b : Reg) (ty : Ty) (scope : Scope) (k : BitVec 8) (sc : Bool) : Statement (.aand h d a b ty scope k sc) := by
  intro hw _ rest
  refine threeWords rfl ?_ ?_ hw rest <;> simp [decodeExt, decodeExt68, need, w2_19_8_23, w2_19_0_8, w2_19_b31]

theorem aor (h : Hdr) (d : Reg) (a : Reg) (b : Reg) (ty : Ty) (scope : Scope) (k : BitVec 8) (sc : Bool) : Statement (.aor h d a b ty scope k sc) := by
  intro hw _ rest
  refine threeWords rfl ?_ ?_ hw rest <;> simp [decodeExt, decodeExt68, need, w2_19_8_23, w2_19_0_8, w2_19_b31]

theorem slota (h : Hdr) (d : Reg) (a : Reg) (kind : BitVec 2) : Statement (.slota h d a kind) := by
  intro hw _ rest
  refine threeWords rfl ?_ ?_ hw rest <;> simp [decodeExt, decodeExt69, need, w2_20_2_30, w2_20_0_2]

theorem slotf (h : Hdr) (d : Reg) (a : Reg) : Statement (.slotf h d a) := by
  intro hw _ rest
  refine threeWords rfl ?_ ?_ hw rest <;> simp [decodeExt, decodeExt69, need]

theorem rvinit (h : Hdr) (d : Reg) (a : Reg) (b : Reg) : Statement (.rvinit h d a b) := by
  intro hw _ rest
  refine threeWords rfl ?_ ?_ hw rest <;> simp [decodeExt, decodeExt69, need]

theorem rvarr (h : Hdr) (d : Reg) (a : Reg) : Statement (.rvarr h d a) := by
  intro hw _ rest
  refine threeWords rfl ?_ ?_ hw rest <;> simp [decodeExt, decodeExt69, need]

theorem rvarrEng (h : Hdr) (d : Reg) (a : Reg) : Statement (.rvarrEng h d a) := by
  intro hw _ rest
  refine threeWords rfl ?_ ?_ hw rest <;> simp [decodeExt, decodeExt69, need]

theorem rvwait (h : Hdr) (d : Reg) (a : Reg) (b : Reg) : Statement (.rvwait h d a b) := by
  intro hw _ rest
  refine threeWords rfl ?_ ?_ hw rest <;> simp [decodeExt, decodeExt69, need]

theorem evsig (h : Hdr) (d : Reg) (a : Reg) (sc : Bool) : Statement (.evsig h d a sc) := by
  intro hw _ rest
  refine threeWords rfl ?_ ?_ hw rest <;> simp [decodeExt, decodeExt69, need, w2_21_0_31, w2_21_b31]

theorem evwait (h : Hdr) (d : Reg) (a : Reg) (b : Reg) : Statement (.evwait h d a b) := by
  intro hw _ rest
  refine threeWords rfl ?_ ?_ hw rest <;> simp [decodeExt, decodeExt69, need]

theorem mlock (h : Hdr) (d : Reg) (a : Reg) : Statement (.mlock h d a) := by
  intro hw _ rest
  refine threeWords rfl ?_ ?_ hw rest <;> simp [decodeExt, decodeExt69, need]

theorem munlk (h : Hdr) (d : Reg) (a : Reg) : Statement (.munlk h d a) := by
  intro hw _ rest
  refine threeWords rfl ?_ ?_ hw rest <;> simp [decodeExt, decodeExt69, need]

theorem acq (h : Hdr) (d : Reg) (a : Reg) (sc : Bool) : Statement (.acq h d a sc) := by
  intro hw _ rest
  refine threeWords rfl ?_ ?_ hw rest <;> simp [decodeExt, decodeExt69, need, w2_21_0_31, w2_21_b31]

theorem rel (h : Hdr) (d : Reg) (a : Reg) (sc : Bool) : Statement (.rel h d a sc) := by
  intro hw _ rest
  refine threeWords rfl ?_ ?_ hw rest <;> simp [decodeExt, decodeExt69, need, w2_21_0_31, w2_21_b31]

theorem bind (h : Hdr) (a : Reg) (b : Reg) (scope : Scope) (n : BitVec 30) : Statement (.bind h a b scope n) := by
  intro hw _ rest
  refine threeWords rfl ?_ ?_ hw rest <;> simp [decodeExt, decodeExt69, need, w2_22_30_2, w2_22_0_30]

theorem fence (h : Hdr) (scope : Scope) : Statement (.fence h scope) := by
  intro hw _ rest
  refine threeWords rfl ?_ ?_ hw rest <;> simp [decodeExt, decodeExt69, need]

theorem fencex (h : Hdr) (scope : Scope) (path : Path) (p2 : Path) : Statement (.fencex h scope path p2) := by
  intro hw _ rest
  refine threeWords rfl ?_ ?_ hw rest <;> simp [decodeExt, decodeExt69, need, w2_23_3_29, w2_23_0_3]

theorem sleep (h : Hdr) (a : Reg) : Statement (.sleep h a) := by
  intro hw _ rest
  refine threeWords rfl ?_ ?_ hw rest <;> simp [decodeExt, decodeExt6A, need]

theorem twait (h : Hdr) (d : Reg) (a : Reg) (b : MsgReg) : Statement (.twait h d a b) := by
  intro hw _ rest
  refine threeWords rfl ?_ ?_ hw rest <;> simp [decodeExt, decodeExt6A, need]

theorem idem (h : Hdr) : Statement (.idem h) := by
  intro hw _ rest
  refine threeWords rfl ?_ ?_ hw rest <;> simp [decodeExt, decodeExt6B, need]

theorem idemEnd (h : Hdr) : Statement (.idemEnd h) := by
  intro hw _ rest
  refine threeWords rfl ?_ ?_ hw rest <;> simp [decodeExt, decodeExt6B, need]

theorem ctxsv (h : Hdr) (d : Reg) (a : Reg) (all : Bool) : Statement (.ctxsv h d a all) := by
  intro hw _ rest
  refine threeWords rfl ?_ ?_ hw rest <;> simp [decodeExt, decodeExt6B, need, w2_24_1_31, w2_24_b0]

theorem ctxld (h : Hdr) (d : Reg) (a : Reg) (all : Bool) : Statement (.ctxld h d a all) := by
  intro hw _ rest
  refine threeWords rfl ?_ ?_ hw rest <;> simp [decodeExt, decodeExt6B, need, w2_24_1_31, w2_24_b0]

theorem phaseRelease : Statement (.phaseRelease) := by
  intro _ h; exact absurd rfl h

theorem releaseNotice : Statement (.releaseNotice) := by
  intro _ h; exact absurd rfl h

theorem phaseEnd : Statement (.phaseEnd) := by
  intro _ h; exact absurd rfl h

theorem gangBarrierTimeout : Statement (.gangBarrierTimeout) := by
  intro _ h; exact absurd rfl h

theorem stop : Statement (.stop) := by
  intro _ h; exact absurd rfl h

theorem groupHalt : Statement (.groupHalt) := by
  intro _ h; exact absurd rfl h

theorem preempt : Statement (.preempt) := by
  intro _ h; exact absurd rfl h

theorem resumeRequest : Statement (.resumeRequest) := by
  intro _ h; exact absurd rfl h

theorem thermDelivery : Statement (.thermDelivery) := by
  intro _ h; exact absurd rfl h

theorem messageArrival : Statement (.messageArrival) := by
  intro _ h; exact absurd rfl h

theorem mgetPortRead : Statement (.mgetPortRead) := by
  intro _ h; exact absurd rfl h

theorem mgetReply : Statement (.mgetReply) := by
  intro _ h; exact absurd rfl h

theorem msgbPortWrite : Statement (.msgbPortWrite) := by
  intro _ h; exact absurd rfl h

theorem ldxReply : Statement (.ldxReply) := by
  intro _ h; exact absurd rfl h

theorem stxComplete : Statement (.stxComplete) := by
  intro _ h; exact absurd rfl h

theorem engineMessageArrival : Statement (.engineMessageArrival) := by
  intro _ h; exact absurd rfl h

theorem sliceOpStart : Statement (.sliceOpStart) := by
  intro _ h; exact absurd rfl h

theorem sliceOpComplete : Statement (.sliceOpComplete) := by
  intro _ h; exact absurd rfl h

theorem mwldComplete : Statement (.mwldComplete) := by
  intro _ h; exact absurd rfl h

theorem mmasComplete : Statement (.mmasComplete) := by
  intro _ h; exact absurd rfl h

theorem verticalOpStart : Statement (.verticalOpStart) := by
  intro _ h; exact absurd rfl h

theorem verticalOpEnd : Statement (.verticalOpEnd) := by
  intro _ h; exact absurd rfl h

theorem rstrMerge : Statement (.rstrMerge) := by
  intro _ h; exact absurd rfl h

theorem laneStateChange : Statement (.laneStateChange) := by
  intro _ h; exact absurd rfl h

theorem expansionOpStart : Statement (.expansionOpStart) := by
  intro _ h; exact absurd rfl h

theorem expansionOpEnd : Statement (.expansionOpEnd) := by
  intro _ h; exact absurd rfl h

theorem engineCommandStart : Statement (.engineCommandStart) := by
  intro _ h; exact absurd rfl h

theorem engineUnit : Statement (.engineUnit) := by
  intro _ h; exact absurd rfl h

theorem engineStampWrite : Statement (.engineStampWrite) := by
  intro _ h; exact absurd rfl h

theorem staticEntryStart : Statement (.staticEntryStart) := by
  intro _ h; exact absurd rfl h

theorem installComplete : Statement (.installComplete) := by
  intro _ h; exact absurd rfl h

theorem collComplete : Statement (.collComplete) := by
  intro _ h; exact absurd rfl h

theorem translationWalk : Statement (.translationWalk) := by
  intro _ h; exact absurd rfl h

theorem stagingFill : Statement (.stagingFill) := by
  intro _ h; exact absurd rfl h

theorem atomicSlot : Statement (.atomicSlot) := by
  intro _ h; exact absurd rfl h

theorem clusterAtomicReply : Statement (.clusterAtomicReply) := by
  intro _ h; exact absurd rfl h

theorem deviceAtomicReply : Statement (.deviceAtomicReply) := by
  intro _ h; exact absurd rfl h

theorem objectReply : Statement (.objectReply) := by
  intro _ h; exact absurd rfl h

theorem scAnnounce : Statement (.scAnnounce) := by
  intro _ h; exact absurd rfl h

theorem scDelivery : Statement (.scDelivery) := by
  intro _ h; exact absurd rfl h

theorem rvRootForward : Statement (.rvRootForward) := by
  intro _ h; exact absurd rfl h

theorem fireArrival : Statement (.fireArrival) := by
  intro _ h; exact absurd rfl h

theorem eventChainForward : Statement (.eventChainForward) := by
  intro _ h; exact absurd rfl h

theorem sleepExpiry : Statement (.sleepExpiry) := by
  intro _ h; exact absurd rfl h

theorem twaitExpiry : Statement (.twaitExpiry) := by
  intro _ h; exact absurd rfl h

theorem faultRecordDrain : Statement (.faultRecordDrain) := by
  intro _ h; exact absurd rfl h

theorem taskStart : Statement (.taskStart) := by
  intro _ h; exact absurd rfl h

theorem nodeKernel : Statement (.nodeKernel) := by
  intro _ h; exact absurd rfl h

theorem kernelComplete : Statement (.kernelComplete) := by
  intro _ h; exact absurd rfl h

theorem nodeCopy : Statement (.nodeCopy) := by
  intro _ h; exact absurd rfl h

theorem nodeInstall : Statement (.nodeInstall) := by
  intro _ h; exact absurd rfl h

theorem nodeCond : Statement (.nodeCond) := by
  intro _ h; exact absurd rfl h

theorem nodeLoop : Statement (.nodeLoop) := by
  intro _ h; exact absurd rfl h

theorem nodeSwitch : Statement (.nodeSwitch) := by
  intro _ h; exact absurd rfl h

theorem nodeSignal : Statement (.nodeSignal) := by
  intro _ h; exact absurd rfl h

theorem signalComplete : Statement (.signalComplete) := by
  intro _ h; exact absurd rfl h

theorem nodeWait : Statement (.nodeWait) := by
  intro _ h; exact absurd rfl h

theorem waitTimeout : Statement (.waitTimeout) := by
  intro _ h; exact absurd rfl h

theorem nodeSuccessor : Statement (.nodeSuccessor) := by
  intro _ h; exact absurd rfl h

theorem taskStampWrite : Statement (.taskStampWrite) := by
  intro _ h; exact absurd rfl h

theorem qctlWrite : Statement (.qctlWrite) := by
  intro _ h; exact absurd rfl h

theorem qptrWrite : Statement (.qptrWrite) := by
  intro _ h; exact absurd rfl h

theorem partcfgWrite : Statement (.partcfgWrite) := by
  intro _ h; exact absurd rfl h

theorem vfbindWrite : Statement (.vfbindWrite) := by
  intro _ h; exact absurd rfl h

theorem beatctlReqWrite : Statement (.beatctlReqWrite) := by
  intro _ h; exact absurd rfl h

theorem beatctlRestore : Statement (.beatctlRestore) := by
  intro _ h; exact absurd rfl h

theorem beatChange : Statement (.beatChange) := by
  intro _ h; exact absurd rfl h

theorem tctlWrite : Statement (.tctlWrite) := by
  intro _ h; exact absurd rfl h

theorem pcapWrite : Statement (.pcapWrite) := by
  intro _ h; exact absurd rfl h

theorem pfloorWrite : Statement (.pfloorWrite) := by
  intro _ h; exact absurd rfl h

theorem hlimWrite : Statement (.hlimWrite) := by
  intro _ h; exact absurd rfl h

theorem ibudgetWrite : Statement (.ibudgetWrite) := by
  intro _ h; exact absurd rfl h

theorem fqctlWrite : Statement (.fqctlWrite) := by
  intro _ h; exact absurd rfl h

theorem tinv : Statement (.tinv) := by
  intro _ h; exact absurd rfl h

theorem tinvComplete : Statement (.tinvComplete) := by
  intro _ h; exact absurd rfl h

theorem routingEntryWrite : Statement (.routingEntryWrite) := by
  intro _ h; exact absurd rfl h

theorem swap : Statement (.swap) := by
  intro _ h; exact absurd rfl h

theorem routeBankSwap : Statement (.routeBankSwap) := by
  intro _ h; exact absurd rfl h

theorem pstatClr : Statement (.pstatClr) := by
  intro _ h; exact absurd rfl h

theorem attestRequest : Statement (.attestRequest) := by
  intro _ h; exact absurd rfl h

theorem attestComplete : Statement (.attestComplete) := by
  intro _ h; exact absurd rfl h

theorem mgmtRegisterWrite : Statement (.mgmtRegisterWrite) := by
  intro _ h; exact absurd rfl h

theorem initiateFlr : Statement (.initiateFlr) := by
  intro _ h; exact absurd rfl h

theorem flrDrainDone : Statement (.flrDrainDone) := by
  intro _ h; exact absurd rfl h

theorem flrComplete : Statement (.flrComplete) := by
  intro _ h; exact absurd rfl h

theorem sensorSample : Statement (.sensorSample) := by
  intro _ h; exact absurd rfl h

theorem selfThrottleStep : Statement (.selfThrottleStep) := by
  intro _ h; exact absurd rfl h

theorem hardLimitStep : Statement (.hardLimitStep) := by
  intro _ h; exact absurd rfl h

theorem budgetRefill : Statement (.budgetRefill) := by
  intro _ h; exact absurd rfl h

theorem flitReceive : Statement (.flitReceive) := by
  intro _ h; exact absurd rfl h

theorem drainMarker : Statement (.drainMarker) := by
  intro _ h; exact absurd rfl h

theorem flowLossTimeout : Statement (.flowLossTimeout) := by
  intro _ h; exact absurd rfl h

theorem linkEvent : Statement (.linkEvent) := by
  intro _ h; exact absurd rfl h

theorem noticeReceive : Statement (.noticeReceive) := by
  intro _ h; exact absurd rfl h

theorem retrainComplete : Statement (.retrainComplete) := by
  intro _ h; exact absurd rfl h

theorem flowControlSignal : Statement (.flowControlSignal) := by
  intro _ h; exact absurd rfl h

theorem powerOn : Statement (.powerOn) := by
  intro _ h; exact absurd rfl h

theorem fstatResult : Statement (.fstatResult) := by
  intro _ h; exact absurd rfl h

theorem partcfgChangeComplete : Statement (.partcfgChangeComplete) := by
  intro _ h; exact absurd rfl h

theorem portTrainingComplete : Statement (.portTrainingComplete) := by
  intro _ h; exact absurd rfl h

theorem softError : Statement (.softError) := by
  intro _ h; exact absurd rfl h

end Sys2Proof.Laws.RoundTrip
end

