-- ==== Sys2Proof/Laws/Results.lean ====
section
/-! SUPPORT. What an instruction's results are: a register written at latency one reads back, a longer one is under way,
and nothing else changes. -/

namespace Sys2Proof.Laws

open Sys2Proof.Machine Sys2Proof.Safety

set_option Elab.async false

/-! ## Results under way -/

theorem mem_pendInsert (e p : Pend) (l : List Pend) : p ∈ pendInsert e l ↔ p = e ∨ p ∈ l := by
  induction l with
  | nil => simp [pendInsert]
  | cons h r ih =>
    simp only [pendInsert]
    split
    · simp
    · simp [ih]; tauto

theorem pend_applyAct (t : Nat) (c : Core) (i : Nat) (a : Act) : (applyAct t c i a).pend = c.pend := by
  cases a <;> simp only [applyAct, coreModCtx_pend, storeN_pend]
  case lanes st sub =>
    exact fold_keeps (fun c' : Core => c'.pend = c.pend) _ _ _ rfl (fun _ _ h => h)

/-- The list of results under way after one more. -/
theorem pend_deliver (c : Core) (t i now lat : Nat) (a : Act) (p : Pend) :
    p ∈ (c.deliver t i now lat a).pend ↔
      (p ∈ c.pend ∧ (i = 0 ∨ ¬ (p.ctx = i ∧ sameTarget a p.act = true)))
        ∨ (1 < lat ∧ p = ⟨now + lat * Config.cycleTicks t, i, a⟩) := by
  unfold Core.deliver
  dsimp only
  split
  · have : ¬ 1 < lat := by omega
    rw [pend_applyAct]
    by_cases hi : i = 0 <;> simp [hi, this]
    intro _; by_cases hc : p.ctx = i <;> simp [hc]
  · have : 1 < lat := by omega
    rw [mem_pendInsert]
    by_cases hi : i = 0 <;> simp [hi, this] <;> tauto

theorem UnderWay_deliver_one (s : State) (lat : Nat) (a : Act) : UnderWay s lat [a] (s.deliver s.cur lat [a]) := by
  have hp : ∀ p, p ∈ ((s.deliver s.cur lat [a]).core s.cur.1).pend ↔
      (p ∈ (s.core s.cur.1).pend ∧ (s.cur.2 = 0 ∨ ¬ (p.ctx = s.cur.2 ∧ sameTarget a p.act = true)))
        ∨ (1 < lat ∧ p = ⟨dueAt s lat, s.cur.2, a⟩) := by
    intro p
    simp only [State.deliver, core_modCore_same, Core.deliverAll, List.foldl_cons, List.foldl_nil]
    exact pend_deliver _ _ _ _ _ _ _
  refine ⟨fun h b hb => ?_, fun p h => ?_, fun p h => ?_⟩
  · simp only [List.mem_singleton] at hb
    subst hb
    exact (hp _).2 (.inr ⟨h, rfl⟩)
  · rcases (hp p).1 h with h | ⟨h, hq⟩
    · exact .inl h.1
    · exact .inr ⟨h, by rw [hq], by rw [hq], by rw [hq]; exact List.mem_singleton.2 rfl⟩
  · by_cases hb : s.cur.2 = 0 ∨ ¬ (p.ctx = s.cur.2 ∧ sameTarget a p.act = true)
    · exact .inl ((hp p).2 (.inl ⟨h, hb⟩))
    · rw [not_or, not_not] at hb
      exact .inr ⟨hb.1, hb.2.1, a, List.mem_singleton.2 rfl, hb.2.2⟩

theorem UnderWay_deliver_nil (s : State) (lat : Nat) : UnderWay s lat [] (s.deliver s.cur lat []) := by
  refine ⟨fun _ b hb => absurd hb (by simp), fun p h => .inl ?_, fun p h => .inl ?_⟩
  · simpa [State.deliver, Core.deliverAll] using h
  · simpa [State.deliver, Core.deliverAll] using h

/-- Results under way do not depend on the place and the pace. -/
theorem UnderWay_frame {s t u : State} {lat : Nat} {as_ : List Act} (h : UnderWay s lat as_ t) (hc : t.cur = s.cur)
    (hf : Frame {} t u) : UnderWay s lat as_ u := by
  have hp : (u.core s.cur.1).pend = (t.core s.cur.1).pend := by
    have := congrArg Core.pend hf.core
    rw [hc] at this
    exact this
  exact ⟨fun a b c => hp ▸ h.own a b c, fun p hq => h.only p (hp ▸ hq), fun p hq => hp ▸ h.kept p hq⟩

/-! ## Registers -/

theorem rv_frame {t u : State} (hf : Frame {} t u) (r : Reg) : rv u r = rv t r := by
  have hx : placeless (u.ctx t.cur) = placeless (t.ctx t.cur) := hf.context
  have hg : (u.ctx t.cur).g = (t.ctx t.cur).g := by have h := congrArg Ctx.g hx; exact h
  have hs : (u.ctx t.cur).stack = (t.ctx t.cur).stack := by have h := congrArg Ctx.stack hx; exact h
  have hw : (u.ctx t.cur).wbase = (t.ctx t.cur).wbase := by have h := congrArg Ctx.wbase hx; exact h
  simp [rv, State.tier, hf.cur, Ctx.reg, entryOf, hg, hs, hw]

theorem pv_frame {t u : State} (hf : Frame {} t u) (p : PredReg) : pv u p = pv t p := by
  have hx : placeless (u.ctx t.cur) = placeless (t.ctx t.cur) := hf.context
  have hg : (u.ctx t.cur).p = (t.ctx t.cur).p := by have h := congrArg Ctx.p hx; exact h
  simp [pv, hf.cur, Ctx.pred, hg]

theorem vv_frame {t u : State} (hf : Frame {} t u) (v : VecReg) : vv u v = vv t v := by
  have hx : placeless (u.ctx t.cur) = placeless (t.ctx t.cur) := hf.context
  have hg : (u.ctx t.cur).v = (t.ctx t.cur).v := by have h := congrArg Ctx.v hx; exact h
  simp [vv, hf.cur, Ctx.vec, hg]

theorem stackSize_ge (t : Nat) : 256 ≤ Config.stackSize t := by
  unfold Config.stackSize; split <;> [skip; split <;> [skip; split]] <;> omega

/-- Two windowed fields name two entries (R65). -/
theorem entryOf_inj {t : Nat} {x : Ctx} {r d : Reg} (hr : 8 ≤ r.toNat) (hd : 8 ≤ d.toNat)
    (h : entryOf t x r = entryOf t x d) : r = d := by
  have hs := stackSize_ge t
  have h1 := r.isLt
  have h2 := d.isLt
  unfold entryOf at h
  apply BitVec.eq_of_toNat_eq
  have key : ∀ S b m n : Nat, 256 ≤ S → m < 24 → n < 24 → (b + m) % S = (b + n) % S → m = n := by
    intro S b m n hS hm hn he
    have e1 := Nat.div_add_mod (b + m) S
    have e2 := Nat.div_add_mod (b + n) S
    rw [he] at e1
    rcases Nat.lt_trichotomy ((b + m) / S) ((b + n) / S) with hlt | heq | hgt
    · have : S * ((b + m) / S) + S ≤ S * ((b + n) / S) := by
        calc S * ((b + m) / S) + S = S * ((b + m) / S + 1) := by ring
          _ ≤ _ := Nat.mul_le_mul_left _ hlt
      omega
    · rw [heq] at e1; omega
    · have : S * ((b + n) / S) + S ≤ S * ((b + m) / S) := by
        calc S * ((b + n) / S) + S = S * ((b + n) / S + 1) := by ring
          _ ≤ _ := Nat.mul_le_mul_left _ hgt
      omega
  have := key _ _ _ _ hs (by omega) (by omega) h
  omega

/-- One act of the issuing context is delivered in its core. -/
theorem core_deliver_one (s : State) (lat : Nat) (a : Act) :
    (s.deliver s.cur lat [a]).core s.cur.1 = (s.core s.cur.1).deliver (Machine.tierOf s.cur.1) s.cur.2 s.now lat a := by
  simp [State.deliver, Core.deliverAll]

theorem deliver_nil (s : State) (lat : Nat) : s.deliver s.cur lat [] = s.modCore s.cur.1 id := rfl

theorem Frame_modCore_id (s : State) : Frame {} s (s.modCore s.cur.1 id) :=
  Frame_core id (fun _ => rfl) (fun _ _ _ => rfl) (fun _ => rfl)

/-- An act that only a longer latency delivers leaves the core as it is but for the results under way. -/
theorem deliver_late (c : Core) (t i now lat : Nat) (a : Act) (h : 1 < lat) :
    ∃ l, c.deliver t i now lat a = { c with pend := l } := by
  unfold Core.deliver
  have : ¬ lat ≤ 1 := by omega
  by_cases hi : i = 0 <;> simp [hi, this]

theorem Frame_pend {w : Writes} (hw : ∀ c : Core, w.core { c with pend := [] } = w.core c) (s : State)
    (f : Core → Core) (hf : ∀ c, ∃ l, f c = { c with pend := l }) : Frame w s (s.modCore s.cur.1 f) := by
  refine Frame_core f (fun c => ?_) (fun c a _ => ?_) (fun c => ?_)
  · obtain ⟨l, h⟩ := hf c; rw [h]
  · obtain ⟨l, h⟩ := hf c; rw [h]
  · obtain ⟨l, h⟩ := hf c
    rw [h, ← hw (coreRest _), ← hw (coreRest c)]
    rfl

/-- An act that is written at once: older results of the same place give way, and it is applied. -/
theorem deliver_once (c : Core) (t i now lat : Nat) (a : Act) (h : lat ≤ 1) :
    ∃ l, c.deliver t i now lat a = applyAct t { c with pend := l } i a := by
  unfold Core.deliver
  by_cases hi : i = 0
  · exact ⟨c.pend, by simp [hi, h]⟩
  · exact ⟨_, by simp only [hi, if_false, h, if_true]; rfl⟩

/-- A context's register or flag written at once. -/
theorem Frame_now {w : Writes} (hw : ∀ c : Core, w.core { c with pend := [] } = w.core c) (s : State) (lat : Nat) (a : Act)
    (f : Ctx → Ctx) (h : lat ≤ 1) (ha : ∀ c, applyAct (Machine.tierOf s.cur.1) c s.cur.2 a = c.modCtx s.cur.2 f)
    (hf : ∀ x, w.ctx (placeless (f x)) = w.ctx (placeless x)) :
    Frame w s (s.deliver s.cur lat [a]) ∧ (s.deliver s.cur lat [a]).ctx s.cur = f (s.ctx s.cur) := by
  have hc : ∃ l, (s.deliver s.cur lat [a]).core s.cur.1 = ({ s.core s.cur.1 with pend := l } : Core).modCtx s.cur.2 f := by
    obtain ⟨l, hl⟩ := deliver_once (s.core s.cur.1) (Machine.tierOf s.cur.1) s.cur.2 s.now lat a h
    exact ⟨l, by rw [core_deliver_one, hl, ha]⟩
  obtain ⟨l, hl⟩ := hc
  refine ⟨⟨rfl, rfl, fun k hk => ?_, fun i hi => ?_, ?_, ?_, fun b _ => ?_⟩, ?_⟩
  · rw [State.deliver, core_modCore_other _ _ (Ne.symm hk)]
  · rw [hl, ctx_modCtx_other _ _ (Ne.symm hi)]; rfl
  · simp only [State.ctx, hl, ctx_modCtx_same]; exact hf _
  · rw [hl, ← hw (coreRest _), ← hw (coreRest (s.core _))]; rfl
  · simp only [nearByte, hl]; rfl
  · simp only [State.ctx, hl, ctx_modCtx_same]; rfl

theorem reg_congr {x y : Ctx} (h1 : x.g = y.g) (h2 : x.stack = y.stack) (h3 : x.wbase = y.wbase) (t : Nat) (r : Reg) :
    x.reg t r = y.reg t r := by
  simp only [Ctx.reg, entryOf, h1, h2, h3]

theorem scalarAct_cases (t : Nat) (x : Ctx) (d : Reg) (v : DWord) :
    (d = 0 ∧ scalarAct t x d v = []) ∨ (d ≠ 0 ∧ d.toNat < 8 ∧ scalarAct t x d v = [.g d.toNat v])
      ∨ (d ≠ 0 ∧ 8 ≤ d.toNat ∧ scalarAct t x d v = [.entry (entryOf t x d) v]) := by
  have h0 : d.toNat = 0 ↔ d = 0 := ⟨fun h => BitVec.eq_of_toNat_eq h, fun h => h ▸ rfl⟩
  unfold scalarAct
  by_cases h : d.toNat = 0
  · exact .inl ⟨h0.1 h, by simp [h]⟩
  · have hd : d ≠ 0 := fun e => h (h0.2 e)
    by_cases h8 : d.toNat < 8
    · exact .inr (.inl ⟨hd, h8, by simp [h, h8]⟩)
    · exact .inr (.inr ⟨hd, by omega, by simp [h, h8]⟩)

/-- The delivery of a scalar result (R26, R63). -/
theorem deliver_scalar (s : State) (lat : Nat) (d : Reg) (v : DWord) :
    Frame scalarWrites s (s.deliver s.cur lat (toReg s d v))
      ∧ (∀ r, rv (s.deliver s.cur lat (toReg s d v)) r = if lat ≤ 1 ∧ r = d ∧ d ≠ 0 then v else rv s r)
      ∧ UnderWay s lat (toReg s d v) (s.deliver s.cur lat (toReg s d v)) := by
  rcases scalarAct_cases s.tier (s.ctx s.cur) d v with ⟨hd, ha⟩ | ⟨hd, h8, ha⟩ | ⟨hd, h8, ha⟩
  · have ht : toReg s d v = [] := ha
    rw [ht]
    refine ⟨Frame_weaken (Frame_modCore_id s), fun r => ?_, UnderWay_deliver_nil _ _⟩
    rw [if_neg (by simp [hd])]
    exact rv_frame (Frame_modCore_id s) r
  · have ht : toReg s d v = [.g d.toNat v] := ha
    rw [ht]
    refine ⟨?_, fun r => ?_, UnderWay_deliver_one _ _ _⟩
    · by_cases hl : lat ≤ 1
      · exact (Frame_now (w := scalarWrites) (fun _ => rfl) s lat (.g d.toNat v) (fun x => { x with g := sset 0 x.g d.toNat v }) hl
          (fun _ => rfl) (fun _ => rfl)).1
      · exact Frame_pend (w := scalarWrites) (fun _ => rfl) s _ (fun c => deliver_late c _ _ _ _ _ (by omega))
    · by_cases hl : lat ≤ 1
      · have hx := (Frame_now (w := scalarWrites) (fun _ => rfl) s lat (.g d.toNat v) (fun x => { x with g := sset 0 x.g d.toNat v }) hl
          (fun _ => rfl) (fun _ => rfl)).2
        show ((s.deliver s.cur lat [.g d.toNat v]).ctx s.cur).reg s.tier r = _
        rw [hx]
        by_cases hr : r = d
        · subst hr
          have h0 : r.toNat ≠ 0 := fun h => hd (BitVec.eq_of_toNat_eq h)
          rw [if_pos ⟨hl, rfl, hd⟩]
          simp [Ctx.reg, h0, h8]
        · have hn : d.toNat ≠ r.toNat := fun h => hr (BitVec.eq_of_toNat_eq h.symm)
          simp only [hr, false_and, and_false, if_false, rv, Ctx.reg, entryOf, sget_sset_other _ _ _ hn]
      · have hf : Frame { core := fun c => { c with pend := [] } } s (s.deliver s.cur lat [.g d.toNat v]) :=
          Frame_pend (fun _ => rfl) s _ (fun c => deliver_late c _ _ _ _ _ (by omega))
        have hx : placeless ((s.deliver s.cur lat [.g d.toNat v]).ctx s.cur) = placeless (s.ctx s.cur) := hf.context
        have h1 := congrArg Ctx.g hx
        have h2 := congrArg Ctx.stack hx
        have h3 := congrArg Ctx.wbase hx
        simp only [placeless] at h1 h2 h3
        rw [if_neg (fun h => hl h.1)]
        show ((s.deliver s.cur lat [.g d.toNat v]).ctx s.cur).reg s.tier r = _
        exact reg_congr h1 h2 h3 _ _
  · have ht : toReg s d v = [.entry (entryOf s.tier (s.ctx s.cur) d) v] := ha
    rw [ht]
    refine ⟨?_, fun r => ?_, UnderWay_deliver_one _ _ _⟩
    · by_cases hl : lat ≤ 1
      · exact (Frame_now (w := scalarWrites) (fun _ => rfl) s lat (.entry (entryOf s.tier (s.ctx s.cur) d) v)
          (fun x => { x with stack := sset 0 x.stack (entryOf s.tier (s.ctx s.cur) d) v }) hl
          (fun _ => rfl) (fun _ => rfl)).1
      · exact Frame_pend (w := scalarWrites) (fun _ => rfl) s _ (fun c => deliver_late c _ _ _ _ _ (by omega))
    · by_cases hl : lat ≤ 1
      · have hx := (Frame_now (w := scalarWrites) (fun _ => rfl) s lat (.entry (entryOf s.tier (s.ctx s.cur) d) v)
          (fun x => { x with stack := sset 0 x.stack (entryOf s.tier (s.ctx s.cur) d) v }) hl
          (fun _ => rfl) (fun _ => rfl)).2
        show ((s.deliver s.cur lat [.entry (entryOf s.tier (s.ctx s.cur) d) v]).ctx s.cur).reg s.tier r = _
        rw [hx]
        by_cases hr : r = d
        · subst hr
          have h0 : r.toNat ≠ 0 := fun h => hd (BitVec.eq_of_toNat_eq h)
          have h8' : ¬ r.toNat < 8 := by omega
          rw [if_pos ⟨hl, rfl, hd⟩]
          simp [Ctx.reg, h0, h8', entryOf]
        · by_cases hr8 : r.toNat < 8
          · simp only [hr, false_and, and_false, if_false, rv, Ctx.reg, hr8, if_true]
          · have hn : entryOf s.tier (s.ctx s.cur) d ≠ entryOf s.tier (s.ctx s.cur) r :=
              fun h => hr (entryOf_inj h8 (by omega) h).symm
            simp only [hr, false_and, and_false, if_false, rv, Ctx.reg, hr8, if_false]
            have : ∀ y : Ctx, entryOf s.tier { y with stack := sset 0 y.stack (entryOf s.tier (s.ctx s.cur) d) v } r
                = entryOf s.tier y r := fun _ => rfl
            rw [this, sget_sset_other _ _ _ hn]
      · have hf : Frame { core := fun c => { c with pend := [] } } s
            (s.deliver s.cur lat [.entry (entryOf s.tier (s.ctx s.cur) d) v]) :=
          Frame_pend (fun _ => rfl) s _ (fun c => deliver_late c _ _ _ _ _ (by omega))
        have hx : placeless ((s.deliver s.cur lat [.entry (entryOf s.tier (s.ctx s.cur) d) v]).ctx s.cur)
          = placeless (s.ctx s.cur) := hf.context
        have h1 := congrArg Ctx.g hx
        have h2 := congrArg Ctx.stack hx
        have h3 := congrArg Ctx.wbase hx
        simp only [placeless] at h1 h2 h3
        rw [if_neg (fun h => hl h.1)]
        show ((s.deliver s.cur lat [.entry (entryOf s.tier (s.ctx s.cur) d) v]).ctx s.cur).reg s.tier r = _
        exact reg_congr h1 h2 h3 _ _

/-- A READY INSTRUCTION WHOSE EFFECT IS A SCALAR RESULT gives it. -/
theorem givesScalar_issue {n : Need} {body : State → Except Trap Done} {s : State} {lat : Nat} {d : Reg} {v : DWord}
    (h : Ready n s) (hb : body s = done s lat (toReg s d v)) (hs : n.soft s = 0) : GivesScalar s lat d v (issue n body s) := by
  obtain ⟨h1, h2, h3⟩ := deliver_scalar s lat d v
  have hr := Frame_retire { n with unit := idleUnit n s } (s.deliver s.cur lat (toReg s d v)) .next true (by simp)
  refine ⟨_, issue_clean h hb hs, Frame_trans h1 (Frame_weaken hr), fun r => ?_, UnderWay_frame h3 rfl hr⟩
  rw [rv_frame hr, h2]

/-- A ready instruction whose effect is a predicate at latency one gives it (R63). -/
theorem givesPred_issue {n : Need} {body : State → Except Trap Done} {s : State} {d : PredReg} {b : Bool}
    (h : Ready n s) (hb : body s = done s 1 (predAct d b)) (hs : n.soft s = 0) : GivesPred s d b (issue n body s) := by
  have key : Frame { ctx := fun x => { x with p := 0 }, core := fun c => { c with pend := [] } } s
        (s.deliver s.cur 1 (predAct d b))
      ∧ (∀ p, pv (s.deliver s.cur 1 (predAct d b)) p = if p = d ∧ d ≠ 0 then b else pv s p)
      ∧ UnderWay s 1 (predAct d b) (s.deliver s.cur 1 (predAct d b)) := by
    by_cases hd : d = 0
    · have ht : predAct d b = [] := by simp [predAct, hd]
      rw [ht]
      refine ⟨Frame_weaken (Frame_modCore_id s), fun p => ?_, UnderWay_deliver_nil _ _⟩
      rw [if_neg (by simp [hd])]
      exact pv_frame (Frame_modCore_id s) p
    · have ht : predAct d b = [.pred d.toNat b] := if_neg hd
      rw [ht]
      have hn := Frame_now (w := { ctx := fun x => { x with p := 0 }, core := fun c => { c with pend := [] } })
        (fun _ => rfl) s 1 (.pred d.toNat b)
        (fun x => { x with p := if b then x.p ||| (1#8 <<< d.toNat) else x.p &&& ~~~(1#8 <<< d.toNat) }) (by omega)
        (fun _ => rfl) (fun _ => rfl)
      refine ⟨hn.1, fun p => ?_, UnderWay_deliver_one _ _ _⟩
      show ((s.deliver s.cur 1 [.pred d.toNat b]).ctx s.cur).pred p = _
      rw [hn.2]
      have hbit : ∀ (w : BitVec 8) (p d : PredReg), d ≠ 0 →
          (p == 0 || (if b then w ||| (1#8 <<< d.toNat) else w &&& ~~~(1#8 <<< d.toNat)).getLsbD p.toNat)
            = if p = d then b else (p == 0 || w.getLsbD p.toNat) := by
        intro w p d hd
        by_cases hp : p = 0
        · subst hp; rw [if_neg (Ne.symm hd)]; rfl
        · have hp8 : p.toNat < 8 := p.isLt
          have hd8 : d.toNat < 8 := d.isLt
          by_cases hpd : p = d
          · subst hpd
            rw [if_pos rfl, beq_eq_false_iff_ne.2 hp, Bool.false_or]
            cases b <;> simp [hp8]
          · have hne : p.toNat ≠ d.toNat := fun h => hpd (BitVec.eq_of_toNat_eq h)
            rw [if_neg hpd]
            congr 1
            cases b <;> simp [hp8] <;> omega
      have := hbit (s.ctx s.cur).p p d hd
      simp only [Ctx.pred, hd, ne_eq, not_false_eq_true, and_true]
      rw [this]
      rfl
  obtain ⟨h1, h2, h3⟩ := key
  have hr := Frame_retire { n with unit := idleUnit n s } (s.deliver s.cur 1 (predAct d b)) .next true (by simp)
  refine ⟨_, issue_clean h hb hs, Frame_trans h1 (Frame_weaken hr), fun r => ?_, UnderWay_frame h3 rfl hr⟩
  rw [pv_frame hr, h2]

/-! ## Several results -/

theorem pend_deliverAll (t i now lat : Nat) (as_ : List Act) (h : 1 < lat)
    (hd : as_.Pairwise (fun a b => sameTarget b a = false)) : ∀ (c : Core) (p : Pend),
    p ∈ (c.deliverAll t i now lat as_).pend ↔
      (p ∈ c.pend ∧ (i = 0 ∨ ¬ (p.ctx = i ∧ ∃ a ∈ as_, sameTarget a p.act = true)))
        ∨ (∃ a ∈ as_, p = ⟨now + lat * Config.cycleTicks t, i, a⟩) := by
  induction as_ with
  | nil => intro c p; simp [Core.deliverAll]
  | cons a r ih =>
    intro c p
    have hd' := (List.pairwise_cons.1 hd)
    have := ih hd'.2 (c.deliver t i now lat a) p
    simp only [Core.deliverAll, List.foldl_cons] at this ⊢
    rw [this, pend_deliver]
    constructor
    · rintro (⟨hp | ⟨_, hp⟩, hk⟩ | ⟨b, hb, hp⟩)
      · refine .inl ⟨hp.1, ?_⟩
        rcases hk with hk | hk
        · exact .inl hk
        · rcases hp.2 with hq | hq
          · exact .inl hq
          · refine .inr ?_
            rintro ⟨h1, b, hb, hs⟩
            rcases List.mem_cons.1 hb with rfl | hb
            · exact hq ⟨h1, hs⟩
            · exact hk ⟨h1, b, hb, hs⟩
      · exact .inr ⟨a, List.mem_cons_self, hp⟩
      · exact .inr ⟨b, List.mem_cons_of_mem _ hb, hp⟩
    · rintro (⟨hp, hk⟩ | ⟨b, hb, hp⟩)
      · rcases hk with hk | hk
        · exact .inl ⟨.inl ⟨hp, .inl hk⟩, .inl hk⟩
        · exact .inl ⟨.inl ⟨hp, .inr (fun hq => hk ⟨hq.1, a, List.mem_cons_self, hq.2⟩)⟩,
            .inr (fun ⟨h1, b, hb, hs⟩ => hk ⟨h1, b, List.mem_cons_of_mem _ hb, hs⟩)⟩
      · rcases List.mem_cons.1 hb with rfl | hb
        · refine .inl ⟨.inr ⟨h, hp⟩, .inr ?_⟩
          rintro ⟨_, b', hb', hs⟩
          rw [hp] at hs
          rw [hd'.1 b' hb'] at hs
          exact absurd hs (by decide)
        · exact .inr ⟨b, hb, hp⟩

/-- Results that all take more than a cycle leave everything but the list of results under way. -/
theorem deliver_later (s : State) (lat : Nat) (as_ : List Act) (h : 1 < lat)
    (hd : as_.Pairwise (fun a b => sameTarget b a = false)) :
    Frame { core := fun c => { c with pend := [] } } s (s.deliver s.cur lat as_)
      ∧ UnderWay s lat as_ (s.deliver s.cur lat as_) := by
  constructor
  · refine Frame_pend (fun _ => rfl) s _ (fun c => ?_)
    unfold Core.deliverAll
    refine fold_keeps (fun c' : Core => ∃ l, c' = { c with pend := l }) _ _ _ ⟨_, rfl⟩ (fun c' a ⟨l, hl⟩ => ?_)
    obtain ⟨l', h'⟩ := deliver_late c' (Machine.tierOf s.cur.1) s.cur.2 s.now lat a h
    exact ⟨l', by rw [h', hl]⟩
  · have hp := pend_deliverAll (Machine.tierOf s.cur.1) s.cur.2 s.now lat as_ h hd (s.core s.cur.1)
    have hc : (s.deliver s.cur lat as_).core s.cur.1
        = (s.core s.cur.1).deliverAll (Machine.tierOf s.cur.1) s.cur.2 s.now lat as_ := by simp [State.deliver]
    refine ⟨fun _ a ha => ?_, fun p hq => ?_, fun p hq => ?_⟩
    · rw [hc]; exact (hp _).2 (.inr ⟨a, ha, rfl⟩)
    · rw [hc] at hq
      rcases (hp p).1 hq with hq | ⟨a, ha, rfl⟩
      · exact .inl hq.1
      · exact .inr ⟨h, rfl, rfl, ha⟩
    · rw [hc]
      by_cases hk : s.cur.2 = 0 ∨ ¬ (p.ctx = s.cur.2 ∧ ∃ a ∈ as_, sameTarget a p.act = true)
      · exact .inl ((hp p).2 (.inl ⟨hq, hk⟩))
      · rw [not_or, not_not] at hk
        exact .inr ⟨hk.1, hk.2.1, hk.2.2⟩

/-- A READY INSTRUCTION WHOSE RESULTS TAKE MORE THAN A CYCLE puts them under way. -/
theorem givesLater_issue {n : Need} {body : State → Except Trap Done} {s : State} {lat : Nat} {as_ : List Act}
    (h : Ready n s) (hb : body s = done s lat as_) (hs : n.soft s = 0) (hl : 1 < lat)
    (hd : as_.Pairwise (fun a b => sameTarget b a = false)) : GivesLater s lat as_ (issue n body s) := by
  obtain ⟨h1, h2⟩ := deliver_later s lat as_ hl hd
  have hr := Frame_retire { n with unit := idleUnit n s } (s.deliver s.cur lat as_) .next true (by simp)
  exact ⟨_, issue_clean h hb hs, Frame_trans h1 (Frame_weaken hr), UnderWay_frame h2 rfl hr⟩

/-- A ready instruction whose effect is a vector register at latency one gives it. -/
theorem givesVec_issue {n : Need} {body : State → Except Trap Done} {s : State} {d : VecReg} {v : Line}
    (h : Ready n s) (hb : body s = done s 1 [.vec d.toNat v]) (hs : n.soft s = 0) : GivesVec s d v (issue n body s) := by
  have hn := Frame_now (w := vecWrites) (fun _ => rfl) s 1 (.vec d.toNat v)
    (fun x => { x with v := sset 0 x.v d.toNat v }) (by omega) (fun _ => rfl) (fun _ => rfl)
  have hr := Frame_retire { n with unit := idleUnit n s } (s.deliver s.cur 1 [.vec d.toNat v]) .next true (by simp)
  refine ⟨_, issue_clean h hb hs, Frame_trans hn.1 (Frame_weaken hr), fun r => ?_,
    UnderWay_frame (UnderWay_deliver_one _ _ _) rfl hr⟩
  rw [vv_frame hr]
  show ((s.deliver s.cur 1 [.vec d.toNat v]).ctx s.cur).vec r = _
  rw [hn.2]
  by_cases hrd : r = d
  · subst hrd; simp [Ctx.vec]
  · have hne : d.toNat ≠ r.toNat := fun e => hrd (BitVec.eq_of_toNat_eq e.symm)
    rw [if_neg hrd]
    simp [Ctx.vec, vv, sget_sset_other _ _ _ hne]

/-! ## Other effects on the issuing context -/

/-- A ready instruction that changes its context and goes on, into a wait or over a transfer. -/
theorem answers_ctx {n : Need} {body : State → Except Trap Done} {s : State} {w : Writes} (f : Ctx → Ctx) (fl : Flow)
    (h : Ready n s) (hb : body s = .ok ⟨s.modCtx s.cur f, fl⟩) (hs : n.soft s = 0) (hf : fl ≠ .halt)
    (hw : ∀ x, w.ctx (placeless (f x)) = w.ctx (placeless x)) :
    Answers (issue n body s) (fun t => Frame w s t ∧ placeless (t.ctx s.cur) = placeless (f (s.ctx s.cur))) := by
  have hr := Frame_retire { n with unit := idleUnit n s } (s.modCtx s.cur f) fl true hf
  refine ⟨_, issue_clean h hb hs, Frame_trans (Frame_ctx f hw) (Frame_weaken hr), ?_⟩
  have := hr.context
  simpa using this

end Sys2Proof.Laws
end

