-- ==== Sys2Proof/Laws/Place.lean ====
section
/-! SUPPORT. Where a context stands after its instruction: the target of a transfer, or behind the instruction. -/

namespace Sys2Proof.Laws

open Sys2Proof.Machine Sys2Proof.Safety

set_option Elab.async false

variable {n : Need} {body : State → Except Trap Done} {s t u : State}

theorem modCtl_ctx (s : State) (k : Nat) (f : Ctl → Ctl) (q : Nat × Nat) : (s.modCtl k f).ctx q = s.ctx q := by
  by_cases h : k = q.1
  · subst h; simp [State.modCtl, State.ctx, Core.ctx]
  · simp [State.modCtl, State.ctx, core_modCore_other _ _ h]

theorem fold_ctx {α : Type} (q : Nat × Nat) (f : State → α → State) (l : List α) (hf : ∀ s a, (f s a).ctx q = s.ctx q) :
    ∀ s, (l.foldl f s).ctx q = s.ctx q := by
  induction l with
  | nil => intro s; rfl
  | cons a l ih => intro s; rw [List.foldl_cons, ih, hf]

theorem forward_ctx (s : State) (q : Nat × Nat) (pc : Word) (g : Bool) (q' : Nat × Nat) : (s.forward q pc g).ctx q' = s.ctx q' := by
  unfold State.forward
  split
  · split
    · exact fold_ctx _ _ _ (fun s a => modCtl_ctx _ _ _ _) _
    · rfl
  · rfl

theorem fold_own {α : Type} (k : Nat) (f : State → α → State) (l : List α) (hf : ∀ s a, (f s a).core k = s.core k) :
    ∀ s, (l.foldl f s).core k = s.core k := by
  induction l with
  | nil => intro s; rfl
  | cons a l ih => intro s; rw [List.foldl_cons, ih, hf]

theorem forward_core (s : State) (q : Nat × Nat) (pc : Word) (g : Bool) : (s.forward q pc g).core q.1 = s.core q.1 := by
  unfold State.forward
  split
  · split
    · exact fold_own _ _ _ (fun s a => by rw [State.modCtl, core_modCore_other _ _ (by omega)]) _
    · rfl
  · rfl

theorem follow_own (s : State) (q : Nat × Nat) (h : q.2 = 0 → (s.core q.1).ctl.fifo = []) : s.follow q = s := by
  unfold State.follow
  split
  · rename_i p f r h1 h2
    rw [if_neg]
    rintro ⟨h0, _⟩
    rw [h h0] at h2; cases h2
  · rfl

theorem yieldTo_pc (s : State) (q : Nat × Nat) (occ : Nat) : ((s.yieldTo q occ).ctx q).pc = (s.ctx q).pc := by
  unfold State.yieldTo
  dsimp only
  split
  · rfl
  · split
    · simp [State.ctx, Core.ctx, Core.modCtx, Core.setCtx]
    · rfl

theorem advance_ctl (s : State) (q : Nat × Nat) (len dest taken) : ((s.advance q len dest taken).core q.1).ctl = (s.core q.1).ctl := by
  unfold State.advance
  dsimp only
  split
  · simp [State.modCtx, Core.modCtx, Core.setCtx]
  all_goals simp [State.modCtx, Core.modCtx, Core.setCtx]

theorem go_pc (v : State) (len dest taken pc g occ) (y : Bool) (h : v.cur.2 = 0 → (v.core v.cur.1).ctl.fifo = []) :
    ((if y then ((((v.advance v.cur len dest taken).forward v.cur pc g).follow v.cur).pace v.cur occ).yieldTo v.cur occ
        else (((v.advance v.cur len dest taken).forward v.cur pc g).follow v.cur).pace v.cur occ).ctx v.cur).pc
      = ((v.advance v.cur len dest taken).ctx v.cur).pc := by
  have e : ((v.advance v.cur len dest taken).forward v.cur pc g).follow v.cur = (v.advance v.cur len dest taken).forward v.cur pc g :=
    follow_own _ _ (fun h0 => by rw [forward_core, advance_ctl]; exact h h0)
  rw [e]
  split
  · rw [yieldTo_pc, State.pace, modCtl_ctx, forward_ctx]
  · rw [State.pace, modCtl_ctx, forward_ctx]

theorem retire_jump_pc (n : Need) (s : State) (t : Nat) (kind : BitVec 2) (h : ownPath s) :
    ((retire n ⟨s, .jump t kind⟩ true).ctx s.cur).pc = BitVec.ofNat 32 t := by
  unfold retire
  dsimp only
  have := go_pc (s.modCtl s.cur.1 (fun c => c.touch n.unit s.now (cyc s.cur.1) (s.now + n.occ * cyc s.cur.1))) n.len (some (t, kind)) true (s.ctx s.cur).pc true n.occ n.hdr.y
    (fun h0 => by
      have := h h0
      simp [State.modCtl, Ctl.touch]
      split
      · exact this
      · unfold Ctl.setUse; split <;> exact this)
  simp only [true_or, if_true] at this ⊢
  refine this.trans ?_
  unfold State.advance
  simp [State.ctx, State.modCtx, Core.modCtx, Core.setCtx, Core.ctx]

theorem transfers_issue {t : Nat} {kind : BitVec 2} (h : Ready n s) (hb : body s = .ok ⟨s, .jump t kind⟩) (hs : n.soft s = 0) :
    Transfers s t (issue n body s) :=
  ⟨_, issue_clean h hb hs, Frame_retire { n with unit := idleUnit n s } s _ true (by simp),
    fun ho => retire_jump_pc { n with unit := idleUnit n s } s t kind ho⟩

/-- Only a follower of a slaved phase takes its leader's target. -/
theorem leaderTarget_none (h : ownPath s) : leaderTarget s = none := by
  unfold leaderTarget
  split
  · rename_i p f r h1 h2
    rw [if_neg]
    simp only [Bool.and_eq_true, inStep, Core.timed]
    rintro ⟨⟨⟨⟨h0, _⟩, _⟩, _⟩, _⟩
    simp only [beq_iff_eq] at h0
    rw [h h0] at h2; cases h2
  · rfl

theorem checkTarget_ok {v : Nat} {z : Int} (ho : ownPath s) (hz : (v : Int) = z) (h : s.isStart s.cur.1 v = true) :
    checkTarget s z = .ok v := by
  subst hz; simp [checkTarget, leaderTarget_none ho, h]

theorem checkTarget_bad {v : Nat} {z : Int} (ho : ownPath s) (hz : (v : Int) = z) (h : s.isStart s.cur.1 v = false) :
    checkTarget s z = .error ⟨.badtarget, 0, BitVec.ofNat 64 v, false⟩ := by
  subst hz; simp [checkTarget, leaderTarget_none ho, h, addrBits]


theorem touch_phase (c : Ctl) (o : Option GatedUnit) (a b d : Nat) : (c.touch o a b d).phase = c.phase ∧ (c.touch o a b d).handling = c.handling
    ∧ (c.touch o a b d).fifo = c.fifo := by
  unfold Ctl.touch
  split
  · exact ⟨rfl, rfl, rfl⟩
  · unfold Ctl.setUse; split <;> exact ⟨rfl, rfl, rfl⟩

/-- The words a core fetches depend on its control by the phase and the handling alone. -/
theorem storeWord_modCtl (s : State) (f : Ctl → Ctl) (h : ∀ c, (f c).phase = c.phase ∧ (f c).handling = c.handling) (k j a : Nat) :
    (s.modCtl k f).storeWord j a = s.storeWord j a := by
  have hc : ∀ i, ((s.modCtl k f).core i).store = (s.core i).store ∧ ((s.modCtl k f).core i).ctl.phase = (s.core i).ctl.phase
      ∧ ((s.modCtl k f).core i).ctl.handling = (s.core i).ctl.handling := by
    intro i
    by_cases hk : k = i
    · subst hk; simp [State.modCtl, h]
    · rw [State.modCtl, core_modCore_other _ _ hk]; exact ⟨rfl, rfl, rfl⟩
  have hcode : (s.modCtl k f).codeOf j = s.codeOf j := by
    unfold State.codeOf; rw [(hc j).2.1, (hc j).2.2]
  unfold State.storeWord
  rw [hcode, (hc _).1]

theorem skipSig_congr {s t : State} {k : Nat} (h : ∀ a, t.storeWord k a = s.storeWord k a) (a : Nat) : t.skipSig k a = s.skipSig k a := by
  unfold State.skipSig; rw [h]

/-- Without a repetition and without a transfer, the context goes on behind its instruction. -/
theorem advance_pc (s : State) (q : Nat × Nat) (len : Nat) (hrep : (s.ctx q).rep = none) :
    ((s.advance q len none false).ctx q).pc = BitVec.ofNat 32 (s.skipSig q.1 ((s.ctx q).pc.toNat + 4 * len)) := by
  unfold State.advance State.skipSig
  simp only [hrep]
  simp only [state_ctx_modCtx_same]
  cases s.storeWord q.1 ((s.ctx q).pc.toNat + 4 * len) with
  | none => rfl
  | some p => obtain ⟨w, b⟩ := p; cases b <;> rfl

/-- Where the context stands after its instruction, when it follows no leader and no repetition is active: behind it. -/
theorem retire_next_pc (n : Need) (s : State) (h : ownPath s) (ht : n.transfer = false) (hrep : (s.ctx s.cur).rep = none) :
    ((retire n ⟨s, .next⟩ true).ctx s.cur).pc = BitVec.ofNat 32 (behind s n.len) := by
  unfold retire
  dsimp only
  have := go_pc (s.modCtl s.cur.1 (fun c => c.touch n.unit s.now (cyc s.cur.1) (s.now + n.occ * cyc s.cur.1))) n.len
    none false (s.ctx s.cur).pc true n.occ n.hdr.y
    (fun h0 => by
      have := h h0
      simp [State.modCtl, Ctl.touch]
      split
      · exact this
      · unfold Ctl.setUse; split <;> exact this)
  simp only [ht, true_or, if_true, Bool.false_eq_true, if_false] at this ⊢
  refine this.trans ?_
  rw [advance_pc _ _ _ (by rw [modCtl_ctx]; exact hrep)]
  rw [skipSig_congr (s := s) (fun a => storeWord_modCtl s _ (fun c => ⟨(touch_phase _ _ _ _ _).1, (touch_phase _ _ _ _ _).2.1⟩) _ _ _), modCtl_ctx]
  rfl

theorem retire_yield_pc (n : Need) (s : State) (h : ownPath s) (hrep : (s.ctx s.cur).rep = none) :
    ((retire n ⟨s, .yield⟩ true).ctx s.cur).pc = BitVec.ofNat 32 (behind s n.len) := by
  unfold retire
  dsimp only
  have := go_pc (s.modCtl s.cur.1 (fun c => c.touch n.unit s.now (cyc s.cur.1) (s.now + n.occ * cyc s.cur.1))) n.len
    none false (s.ctx s.cur).pc true n.occ true
    (fun h0 => by
      have := h h0
      simp only [State.modCtl, core_modCore_same, modCore_cur]
      exact (touch_phase _ _ _ _ _).2.2.trans this)
  simp only [true_or, if_true] at this ⊢
  refine this.trans ?_
  rw [advance_pc _ _ _ (by rw [modCtl_ctx]; exact hrep)]
  rw [skipSig_congr (s := s) (fun a => storeWord_modCtl s _ (fun c => ⟨(touch_phase _ _ _ _ _).1, (touch_phase _ _ _ _ _).2.1⟩) _ _ _), modCtl_ctx]
  rfl


end Sys2Proof.Laws
end

