-- ==== Sys2Proof/Tests/Slice0.lean ====
section
/-! SUPPORT. Tests: ill-formed terms are refused, words written out from the encoding tables decode to the instructions they
stand for, one step of each kind gives what the spec's entries and worked examples say, and the statements' hypotheses can be
met. -/

set_option Elab.async false
set_option exponentiation.threshold 1024
set_option maxRecDepth 20000

namespace Sys2Proof.Tests

open Sys2Proof Sys2Proof.Machine Sys2Proof.Safety

/-- A header without gap, yield mark or guard. -/
def p0 : Hdr := ⟨0, false, 0, false⟩
/-- A header with every field set. -/
def q0 : Hdr := ⟨1, true, 2, true⟩

/-! ## Encodings -/

/-- Words decode to an instruction, all of them used. -/
def dec (ws : List Word) (i : Instr) : Bool :=
  match decode ws with
  | .ok (j, n) => j == i && n == ws.length
  | .error _ => false

/-- Words are refused. -/
def refuses (ws : List Word) : Bool :=
  match decode ws with
  | .ok _ => false
  | .error _ => true

/-! ## Ill-formed terms -/

/-- Guards, displacements and widths (R76, R77, R338, R349, R371, R388, R390). -/
theorem test_ill_formed_base :
    (Instr.add ⟨0, false, 0, true⟩ 1 2 3).wellFormed = false
    ∧ (Instr.brLong p0 6).wellFormed = false ∧ (Instr.jmpLong 0 false 1).wellFormed = false
    ∧ (Instr.trap 0 1024).wellFormed = false ∧ (Instr.trapLong p0 1024).wellFormed = false
    ∧ (Instr.sysrLong p0 3 2048).wellFormed = false
    ∧ (Instr.ext p0 3 4 .i32 none 0 7).wellFormed = false ∧ (Instr.ext p0 3 4 .i64 none 60 4).wellFormed = false
    ∧ (Instr.ins p0 3 4 none 63 1).wellFormed = false ∧ (Instr.lea p0 3 4 5 none 7 0).wellFormed = false
    ∧ (Instr.rep p0 1 3 0 false 0 0 0).wellFormed = false ∧ (Instr.rep p0 1 3 16 true 0 0 8).wellFormed = false := by
  decide

/-- Types, rounding suffixes and values of the vector forms (R391, R399 to R404, R411). -/
theorem test_ill_formed_vector :
    (Instr.vadd p0 1 2 3 .i64 .rne false none).wellFormed = false
    ∧ (Instr.vadd p0 1 2 3 .f32 .rne true none).wellFormed = false
    ∧ (Instr.vadd p0 1 2 3 .i8 .rtz false none).wellFormed = false
    ∧ (Instr.vfma p0 1 2 3 .i32 .rne none 4).wellFormed = false
    ∧ (Instr.vlds p0 1 2 3 .i64 none 0).wellFormed = false ∧ (Instr.vgath p0 1 2 3 .f16 none 0).wellFormed = false
    ∧ (Instr.vcvt p0 1 2 .f32 .f32 .rne false none 0).wellFormed = false
    ∧ (Instr.vcvt p0 1 2 .f32 .f16 .rne false none 2).wellFormed = false
    ∧ (Instr.vcmp p0 1 2 3 .f32 none 6 false 0).wellFormed = false
    ∧ (Instr.vcmp p0 1 2 3 .f32 none 2 false 1).wellFormed = false
    ∧ (Instr.vcode p0 1 2 .i8 .ql4 none 2).wellFormed = false
    ∧ (Instr.vscac p0 1 2 3 .f32 .f32 none 4 5 true).wellFormed = false := by
  decide

/-- Operands of the matrix, level, expansion and engine forms (R118, R122, R125, R140, R162, R218, R225, R311, R329). -/
theorem test_ill_formed_units :
    (Instr.mma p0 1 2 .e4m3 .i8 64 0 false false).wellFormed = false
    ∧ (Instr.mma p0 1 2 .e4m3 .ql4 128 0 false false).wellFormed = false
    ∧ (Instr.mma p0 1 2 .i8 .i8 8 0 false false).wellFormed = false
    ∧ (Instr.mwld p0 1 2 .bf16 4112 false).wellFormed = false ∧ (Instr.mrd p0 1 2 .bf16 false 1).wellFormed = false
    ∧ (Instr.rstr p0 1 2 3 .f16 false false).wellFormed = false ∧ (Instr.xsetKern p0 none 5).wellFormed = false
    ∧ (Instr.xform p0 1 2 none 0).wellFormed = false ∧ (Instr.xeval p0 1 2 none 4097).wellFormed = false
    ∧ (Instr.coll p0 1 .f16 .device 0 0).wellFormed = false ∧ (Instr.coll p0 1 .f32 .device 2 1).wellFormed = false
    ∧ (Instr.aadd p0 1 2 3 .n32 .cluster 0 false).wellFormed = false
    ∧ (Instr.amin p0 1 2 3 .i32 .gang 0 false).wellFormed = false
    ∧ (Instr.acas p0 1 2 3 .i64 .device 1 false).wellFormed = false
    ∧ (Instr.slota p0 1 2 3).wellFormed = false ∧ (Instr.slota p0 1 2 0).wellFormed = false
    ∧ (Instr.bind p0 1 2 .device 32).wellFormed = false := by
  decide

/-- The words of such terms, and of none, are refused (R75, R80, R81): a LEN that the major does not allow, an unassigned major
and sub-opcode, reserved fields and bits, p8, m16, t4, scope 7, TIER 1, and a code of SXT. -/
theorem test_refused_words :
    refuses [0x00000000] = true ∧ refuses [0x00000202] = true ∧ refuses [0x0000BE00] = true ∧ refuses [0x0000D802, 1, 0] = true
    ∧ refuses [0x0000C800, 1, 0] = true ∧ refuses [0x0000C802, 9, 0] = true ∧ refuses [0x0000C802, 0, 0] = true
    ∧ refuses [0x80000200] = true ∧ refuses [0x00000300] = true ∧ refuses [0x04001E00] = true
    ∧ refuses [0x00083000] = true ∧ refuses [0x0010AA00] = true ∧ refuses [0x0004C802, 5, 0] = true
    ∧ refuses [0x0200CE02, 0x00700001, 0] = true ∧ refuses [0x020CC002, 0x20009001, 0x308] = true
    ∧ refuses [0x0CAC2C00] = true ∧ refuses [0x020CC002, 0x9001, 0x348] = true ∧ refuses [0x0000C803, 1, 0, 0, 0] = true := by
  decide

/-- A table word goes through the decoder (R75): the operand words that the table does not number are zero. -/
theorem test_table_words :
    decodeTableWord 32 0x292C0200 = some (.add p0 12 9 10) ∧ decodeTableWord 96 (0x0050000D0000D202) = some (.fence p0 .device)
    ∧ decodeTableWord 32 0x0000BE00 = none := by
  decide

theorem test_words_scalar_1 :
    dec [0x7D23034C] (.add q0 3 9 31)
    ∧ dec [0x7D23054C] (.sub q0 3 9 31)
    ∧ dec [0x7D23074C] (.mul q0 3 9 31)
    ∧ dec [0xFD23094C] (.mulh q0 3 9 31 true)
    ∧ dec [0xFD230B4C] (.div q0 3 9 31 true)
    ∧ dec [0xFD230D4C] (.rem q0 3 9 31 true)
    ∧ dec [0x091F0E00] (.and p0 31 8 2)
    ∧ dec [0x091F1000] (.andn p0 31 8 2)
    ∧ dec [0x091F1200] (.or p0 31 8 2)
    ∧ dec [0x091F1400] (.xor p0 31 8 2)
    ∧ dec [0x091F1600] (.shl p0 31 8 2)
    ∧ dec [0x091F1800] (.shr p0 31 8 2)
    ∧ dec [0x091F1A00] (.sra p0 31 8 2)
    ∧ dec [0x091F1C00] (.rot p0 31 8 2)
    ∧ dec [0x02241E00] (.clz p0 4 17)
    ∧ dec [0x02242000] (.ctz p0 4 17) := by
  decide
theorem test_words_scalar_2 :
    dec [0x02242200] (.popc p0 4 17)
    ∧ dec [0x7D232400] (.min p0 3 9 31 false)
    ∧ dec [0x7D232600] (.max p0 3 9 31 false)
    ∧ dec [0x7D23294C] (.sel q0 3 9 31)
    ∧ dec [0x02242A00] (.mov p0 4 17)
    ∧ dec [0x0A242C00] (.sxt p0 4 17 .w32)
    ∧ dec [0x06242E00] (.zxt p0 4 17 .w16) := by
  decide
theorem test_words_compare_1 :
    dec [0xFD27314C] (.cmpEq q0 7 9 31 true)
    ∧ dec [0xFD27334C] (.cmpNe q0 7 9 31 true)
    ∧ dec [0xFD27354C] (.cmpLt q0 7 9 31 true)
    ∧ dec [0xFD27374C] (.cmpLe q0 7 9 31 true)
    ∧ dec [0xFFE93954] (.addi 2 9 21 0x7FF)
    ∧ dec [0x02A9394D, 0xFFFFFFFF, 0xFFFFFFFF] (.addiLong q0 9 21 0xFFFFFFFFFFFFFFFF)
    ∧ dec [0x80093A08] (.li 1 9 0x400)
    ∧ dec [0x000B3A01, 0x56789ABC, 0x00001234] (.liLong p0 11 0x123456789ABC)
    ∧ dec [0x01423C84] (.cmpiEq 0 2 9 10)
    ∧ dec [0x01423E84] (.cmpiNe 0 2 9 10)
    ∧ dec [0x01424084] (.cmpiLt 0 2 9 10)
    ∧ dec [0x01424284] (.cmpiLe 0 2 9 10)
    ∧ dec [0x01424484] (.cmpiGt 0 2 9 10)
    ∧ dec [0x01424684] (.cmpiGe 0 2 9 10)
    ∧ dec [0x01424884] (.cmpiLtN64 0 2 9 10)
    ∧ dec [0x01424A84] (.cmpiLeN64 0 2 9 10) := by
  decide
theorem test_words_compare_2 :
    dec [0x01424C84] (.cmpiGtN64 0 2 9 10)
    ∧ dec [0x01424E84] (.cmpiGeN64 0 2 9 10)
    ∧ dec [0x01223C01, 0x00000000, 0x80000000] (.cmpiLong p0 .eq 2 9 0x8000000000000000)
    ∧ dec [0x01223E01, 0x00000000, 0x80000000] (.cmpiLong p0 .ne 2 9 0x8000000000000000)
    ∧ dec [0x01224001, 0x00000000, 0x80000000] (.cmpiLong p0 .lt 2 9 0x8000000000000000)
    ∧ dec [0x01224201, 0x00000000, 0x80000000] (.cmpiLong p0 .le 2 9 0x8000000000000000)
    ∧ dec [0x01224401, 0x00000000, 0x80000000] (.cmpiLong p0 .gt 2 9 0x8000000000000000)
    ∧ dec [0x01224601, 0x00000000, 0x80000000] (.cmpiLong p0 .ge 2 9 0x8000000000000000)
    ∧ dec [0x01224801, 0x00000000, 0x80000000] (.cmpiLong p0 .ltN 2 9 0x8000000000000000)
    ∧ dec [0x01224A01, 0x00000000, 0x80000000] (.cmpiLong p0 .leN 2 9 0x8000000000000000)
    ∧ dec [0x01224C01, 0x00000000, 0x80000000] (.cmpiLong p0 .gtN 2 9 0x8000000000000000)
    ∧ dec [0x01224E01, 0x00000000, 0x80000000] (.cmpiLong p0 .geN 2 9 0x8000000000000000)
    ∧ dec [0x1CA15000] (.pand p0 1 5 7)
    ∧ dec [0x1CA15200] (.por p0 1 5 7)
    ∧ dec [0x1CA15400] (.pxor p0 1 5 7)
    ∧ dec [0x00A15600] (.pnot p0 1 5) := by
  decide
theorem test_words_compare_3 :
    dec [0x00A15800] (.pmov p0 1 5) := by
  decide
theorem test_words_control_1 :
    dec [0xFFFF5B4C] (.br q0 0xFFFF)
    ∧ dec [0x00005B4D, 0xFFFFFFFC, 0xFFFFFFFF] (.brLong q0 0xFFFFFFFFFFFFFFFC)
    ∧ dec [0x00055C1C] (.jmp 3 true 5)
    ∧ dec [0x00005C01, 0x00000008, 0x00000000] (.jmpLong 0 false 8)
    ∧ dec [0x01205F4C] (.jmpi q0 9)
    ∧ dec [0x80006000] (.call p0 0x8000)
    ∧ dec [0x00006001, 0x00000000, 0x00000001] (.callLong p0 0x100000000)
    ∧ dec [0x01206200] (.calli p0 9)
    ∧ dec [0x0000640C] (.ret 1 true)
    ∧ dec [0x03006600] (.enter 0 24)
    ∧ dec [0x00006601, 0x0000000C, 0x00000000] (.enterLong p0 12)
    ∧ dec [0x00006800] (.leave p0)
    ∧ dec [0x00006B4C] (.nop q0)
    ∧ dec [0x00006C00] (.halt p0)
    ∧ dec [0x0000BC04] (.yield ⟨0, true, 0, false⟩)
    ∧ dec [0xC061C20A, 0x00000001, 0x00000003] (.rep ⟨1, false, 0, false⟩ 1 3 16 true 0 0 3) := by
  decide
theorem test_words_control_2 :
    dec [0x8061C212, 0x00000001, 0x040040FD] (.rep ⟨2, false, 0, false⟩ 1 3 0 true 0 4 0x40FD) := by
  decide
theorem test_words_near_memory_1 :
    dec [0xFF096FEC] (.ldI8 1 9 31 0x7F8)
    ∧ dec [0xFF0971EC] (.ldI16 1 9 31 0x7F8)
    ∧ dec [0xFF0973EC] (.ldI32 1 9 31 0x7F8)
    ∧ dec [0xFF0975EC] (.ldI64 1 9 31 0x7F8)
    ∧ dec [0xFF0977EC] (.ldN8 1 9 31 0x7F8)
    ∧ dec [0xFF0979EC] (.ldN16 1 9 31 0x7F8)
    ∧ dec [0xFF097BEC] (.ldN32 1 9 31 0x7F8)
    ∧ dec [0x03E96E01, 0x00000040, 0x00000000] (.ldLong p0 .i8 9 31 64)
    ∧ dec [0x03E97001, 0x00000040, 0x00000000] (.ldLong p0 .i16 9 31 64)
    ∧ dec [0x03E97201, 0x00000040, 0x00000000] (.ldLong p0 .i32 9 31 64)
    ∧ dec [0x03E97401, 0x00000040, 0x00000000] (.ldLong p0 .i64 9 31 64)
    ∧ dec [0x03E97601, 0x00000040, 0x00000000] (.ldLong p0 .n8 9 31 64)
    ∧ dec [0x03E97801, 0x00000040, 0x00000000] (.ldLong p0 .n16 9 31 64)
    ∧ dec [0x03E97A01, 0x00000040, 0x00000000] (.ldLong p0 .n32 9 31 64)
    ∧ dec [0x01097DE0] (.stI8 0 9 30 8)
    ∧ dec [0x01097FE0] (.stI16 0 9 30 8) := by
  decide
theorem test_words_near_memory_2 :
    dec [0x010981E0] (.stI32 0 9 30 8)
    ∧ dec [0x010983E0] (.stI64 0 9 30 8)
    ∧ dec [0x03E97C01, 0x00000040, 0x00000000] (.stLong p0 .i8 9 31 64)
    ∧ dec [0x03E97E01, 0x00000040, 0x00000000] (.stLong p0 .i16 9 31 64)
    ∧ dec [0x03E98001, 0x00000040, 0x00000000] (.stLong p0 .i32 9 31 64)
    ∧ dec [0x03E98201, 0x00000040, 0x00000000] (.stLong p0 .i64 9 31 64)
    ∧ dec [0x081F8480] (.vld 0 31 8 64)
    ∧ dec [0x011F8401, 0x00000040, 0x00000000] (.vldLong p0 31 8 64)
    ∧ dec [0x081F8680] (.vst 0 31 8 64)
    ∧ dec [0x011F874D, 0x00000040, 0x00000000] (.vstLong q0 31 8 64)
    ∧ dec [0xFF0989EC] (.bldI8 1 9 31 0x7F8)
    ∧ dec [0xFF098BEC] (.bldI16 1 9 31 0x7F8)
    ∧ dec [0xFF098DEC] (.bldI32 1 9 31 0x7F8)
    ∧ dec [0xFF098FEC] (.bldI64 1 9 31 0x7F8)
    ∧ dec [0xFF0991EC] (.bldN8 1 9 31 0x7F8)
    ∧ dec [0xFF0993EC] (.bldN16 1 9 31 0x7F8) := by
  decide
theorem test_words_near_memory_3 :
    dec [0xFF0995EC] (.bldN32 1 9 31 0x7F8)
    ∧ dec [0x03E98801, 0x00000040, 0x00000000] (.bldLong p0 .i8 9 31 64)
    ∧ dec [0x03E98A01, 0x00000040, 0x00000000] (.bldLong p0 .i16 9 31 64)
    ∧ dec [0x03E98C01, 0x00000040, 0x00000000] (.bldLong p0 .i32 9 31 64)
    ∧ dec [0x03E98E01, 0x00000040, 0x00000000] (.bldLong p0 .i64 9 31 64)
    ∧ dec [0x03E99001, 0x00000040, 0x00000000] (.bldLong p0 .n8 9 31 64)
    ∧ dec [0x03E99201, 0x00000040, 0x00000000] (.bldLong p0 .n16 9 31 64)
    ∧ dec [0x03E99401, 0x00000040, 0x00000000] (.bldLong p0 .n32 9 31 64)
    ∧ dec [0x010997E0] (.bstI8 0 9 30 8)
    ∧ dec [0x010999E0] (.bstI16 0 9 30 8)
    ∧ dec [0x01099BE0] (.bstI32 0 9 30 8)
    ∧ dec [0x01099DE0] (.bstI64 0 9 30 8)
    ∧ dec [0x03E99601, 0x00000040, 0x00000000] (.bstLong p0 .i8 9 31 64)
    ∧ dec [0x03E99801, 0x00000040, 0x00000000] (.bstLong p0 .i16 9 31 64)
    ∧ dec [0x03E99A01, 0x00000040, 0x00000000] (.bstLong p0 .i32 9 31 64)
    ∧ dec [0x03E99C01, 0x00000040, 0x00000000] (.bstLong p0 .i64 9 31 64) := by
  decide
theorem test_words_near_memory_4 :
    dec [0x081F9E80] (.vbld 0 31 8 64)
    ∧ dec [0x011F9E01, 0x00000040, 0x00000000] (.vbldLong p0 31 8 64)
    ∧ dec [0x081FA080] (.vbst 0 31 8 64)
    ∧ dec [0x011FA001, 0x00000040, 0x00000000] (.vbstLong p0 31 8 64)
    ∧ dec [0x0104A200] (.blook p0 4 8)
    ∧ dec [0x2504A400] (.btag p0 4 8 9)
    ∧ dec [0x0104A600] (.binv p0 4 8) := by
  decide
theorem test_words_messages_and_system_1 :
    dec [0x1203A800] (.send p0 3 16 4)
    ∧ dec [0x250FAB4C] (.mget q0 15 8 9)
    ∧ dec [0xA51FAC00] (.msgb p0 31 8 9 true)
    ∧ dec [0x000FAE00] (.mclr p0 15)
    ∧ dec [0x0102B000] (.ldx p0 2 8)
    ∧ dec [0x7D00B200] (.stx p0 8 31)
    ∧ dec [0x7FE0B400] (.trap 0 1023)
    ∧ dec [0x0000B401, 0x00000200, 0x00000000] (.trapLong p0 512)
    ∧ dec [0x0000B610] (.eret 2 false)
    ∧ dec [0x7FE9B800] (.sysr 0 9 0x3FF)
    ∧ dec [0x0009B801, 0x000007FF, 0x00000000] (.sysrLong p0 9 0x7FF)
    ∧ dec [0x8009BA00] (.sysw 0 9 0x400)
    ∧ dec [0x0009BA01, 0x00000006, 0x00000000] (.syswLong p0 9 6)
    ∧ dec [0x0000D602, 0x00000001, 0x00000000] (.idem p0)
    ∧ dec [0x0000D602, 0x00000001, 0x00000001] (.idemEnd p0)
    ∧ dec [0x020CD602, 0x00000002, 0x00000001] (.ctxsv p0 12 16 true) := by
  decide
theorem test_words_messages_and_system_2 :
    dec [0x020CD602, 0x00000003, 0x00000000] (.ctxld p0 12 16 false)
    ∧ dec [0x0200D402, 0x00000001, 0x00000000] (.sleep p0 16)
    ∧ dec [0x0A2CD402, 0x00000002, 0x00000000] (.twait p0 12 17 2) := by
  decide
theorem test_words_extended_scalar_and_vector_memory :
    dec [0x020CC002, 0x00009001, 0x00000308] (.ext p0 12 16 .i64 none 8 3)
    ∧ dec [0x020CC002, 0x00000002, 0x00000308] (.ins p0 12 16 none 8 3)
    ∧ dec [0x460CC002, 0x00000003, 0x00001003] (.lea p0 12 16 17 none 3 16)
    ∧ dec [0x460CC003, 0xE0000003, 0x00000006, 0x00000000, 0x00000100] (.leaXl p0 12 16 17 (some 3) 6 0x10000000000)
    ∧ dec [0x4604C402, 0x00005001, 0xFFFFFFFF] (.vlds p0 4 16 17 .e5m2 none 0xFFFFFFFF)
    ∧ dec [0x4604C402, 0x0000A002, 0x00000040] (.vsts p0 4 16 17 .n8 none 64)
    ∧ dec [0x7E04C402, 0x00001003, 0x00000040] (.vgath p0 4 16 31 .f32 none 64)
    ∧ dec [0x7E04C402, 0xA000C004, 0x00000040] (.vscat p0 4 16 31 .n32 (some 1) 64) := by
  decide
theorem test_words_vector_1 :
    dec [0x0618C602, 0x10006001, 0x00000000] (.vadd p0 24 16 1 .i8 .rne true none)
    ∧ dec [0x0618C602, 0x08002002, 0x00000000] (.vsub p0 24 16 1 .f16 .rdn false none)
    ∧ dec [0x0218C612, 0x00001003, 0x00000000] (.vmul ⟨2, false, 0, false⟩ 24 16 0 .f32 .rne false none)
    ∧ dec [0x0618C602, 0x0C003004, 0x0000001F] (.vfma p0 24 16 1 .bf16 .rup none 31)
    ∧ dec [0x0618C74E, 0x04001005, 0x00000003] (.vfms q0 24 16 1 .f32 .rtz none 3)
    ∧ dec [0x0218C602, 0x10007006, 0x00000000] (.vneg p0 24 16 .i16 true none)
    ∧ dec [0x0218C602, 0x00001007, 0x00000000] (.vabs p0 24 16 .f32 false none)
    ∧ dec [0x0618C602, 0x0000C008, 0x00000000] (.vmin p0 24 16 1 .n32 none)
    ∧ dec [0x0618C602, 0x0000B009, 0x00000000] (.vmax p0 24 16 1 .n16 none)
    ∧ dec [0x0618C602, 0x0400100A, 0x00000000] (.vdiv p0 24 16 1 .f32 .rtz none)
    ∧ dec [0x0218C602, 0x0C00200B, 0x00000000] (.vsqrt p0 24 16 .f16 .rup none)
    ∧ dec [0x0218C602, 0x0C00200C, 0x00000000] (.vrcp p0 24 16 .f16 .rup none)
    ∧ dec [0x0218C602, 0x0C00200D, 0x00000000] (.vrsq p0 24 16 .f16 .rup none)
    ∧ dec [0x0218C602, 0x0000100E, 0x00000000] (.vexp2f p0 24 16 .f32 none)
    ∧ dec [0x0218C602, 0x0800300F, 0x00000000] (.vrndi p0 24 16 .bf16 .rdn none)
    ∧ dec [0x0618C602, 0x14001010, 0x00000000] (.vinsx p0 24 16 1 .f32 .rtz true none) := by
  decide
theorem test_words_vector_2 :
    dec [0x0218C602, 0x00002011, 0x00000000] (.vextx p0 24 16 .f16 none)
    ∧ dec [0x0024C602, 0x10014012, 0x00000002] (.vcvt p0 4 1 .e4m3 .f32 .rne true none 2)
    ∧ dec [0x0824C602, 0x00001013, 0x0000003A] (.vcmp p0 4 1 2 .f32 none 2 true 3)
    ∧ dec [0x0618C602, 0x0000A014, 0x0000001E] (.vsel p0 24 16 1 .n8 none 30)
    ∧ dec [0x0618C602, 0x00000015, 0x00000000] (.vand p0 24 16 1 none)
    ∧ dec [0x0618C602, 0x00000016, 0x00000000] (.vor p0 24 16 1 none)
    ∧ dec [0x0618C602, 0x00000017, 0x00000000] (.vxor p0 24 16 1 none)
    ∧ dec [0x0618C602, 0x10008018, 0x00000000] (.vshl p0 24 16 1 .i32 true none)
    ∧ dec [0x0618C602, 0x0000B019, 0x00000000] (.vshr p0 24 16 1 .n16 none)
    ∧ dec [0x0618C602, 0x0000B01A, 0x00000000] (.vsra p0 24 16 1 .n16 none)
    ∧ dec [0x0618C602, 0x0000201B, 0x00000000] (.vperm p0 24 16 1 .f16 none)
    ∧ dec [0x0218C602, 0x0000601C, 0x00000000] (.vsplat p0 24 16 .i8 none)
    ∧ dec [0x0018C603, 0x0000101C, 0x00000000, 0x3F800000, 0x00000000] (.vsplatXl p0 24 .f32 none 0x3F800000)
    ∧ dec [0x0218C602, 0x0000001D, 0x00000000] (.vmov p0 24 16 none)
    ∧ dec [0x004CC602, 0x0000101E, 0x00000000] (.vreds p0 12 2 .f32 .rne false none)
    ∧ dec [0x004CC602, 0x0000101F, 0x00000001] (.vredx p0 12 2 .f32 none true) := by
  decide
theorem test_words_vector_3 :
    dec [0x0218C602, 0x00003020, 0x00000000] (.vclass p0 24 16 .bf16 none)
    ∧ dec [0x0024C602, 0x000E6021, 0x00000001] (.vcode p0 4 1 .i8 .ql4 none 1)
    ∧ dec [0x0024C602, 0x0001E022, 0x00000002] (.vql4 p0 4 1 .ql4 .f32 none 2)
    ∧ dec [0x0827C602, 0x00081023, 0x00002C03] (.vscac p0 7 1 2 .f32 .i32 none 3 12 true)
    ∧ dec [0x0218C602, 0x00001024, 0x00000000] (.vker p0 24 16 .f32 none) := by
  decide
theorem test_words_matrix_levels_and_expansions_1 :
    dec [0x0000C802, 0x00000001, 0x00000000] (.gang p0)
    ∧ dec [0x0201C802, 0x00044002, 0x80000040] (.mma p0 1 16 .e4m3 .e4m3 64 0 false true)
    ∧ dec [0x0203C802, 0x000F6002, 0x40800040] (.mma p0 3 16 .i8 .ti4 64 128 true false)
    ∧ dec [0x1602C802, 0x0006A003, 0x00000000] (.mmas p0 2 16 5 .n8 .i8)
    ∧ dec [0x4600C802, 0x00003004, 0x40001000] (.mwld p0 16 17 .bf16 4096 true)
    ∧ dec [0x0003C802, 0x00000005, 0x00000000] (.mzero p0 3)
    ∧ dec [0x007FC802, 0x10003006, 0x0000001E] (.mrd p0 31 3 .bf16 true 30)
    ∧ dec [0x4602C802, 0x00000007, 0x00000000] (.mscac p0 2 16 17)
    ∧ dec [0x000CC802, 0x00000008, 0x00000000] (.mstat p0 12)
    ∧ dec [0x4601CA02, 0x00001001, 0x00000002] (.rstr p0 1 16 17 .f32 false true)
    ∧ dec [0x4603CA02, 0x00001002, 0x00000001] (.prlg p0 3 16 17 .f32 true false)
    ∧ dec [0x0202CA02, 0x00000003, 0x00000000] (.wsld p0 2 16)
    ∧ dec [0x020FCC02, 0x00000001, 0x00000000] (.xclr p0 15 16 none)
    ∧ dec [0x020FCC02, 0x00000002, 0x00000000] (.xld p0 15 16 none)
    ∧ dec [0x020FCC02, 0x00000003, 0x00000000] (.xst p0 15 16 none)
    ∧ dec [0x0000CC02, 0x00000004, 0x00000040] (.xsetKern p0 none 4) := by
  decide
theorem test_words_matrix_levels_and_expansions_2 :
    dec [0x0200CC02, 0x00000004, 0x00000001] (.xsetGamma p0 16 none)
    ∧ dec [0x0200CC02, 0x00000004, 0x00000002] (.xsetEta p0 16 none)
    ∧ dec [0x020FCC02, 0x00000005, 0x00001000] (.xform p0 15 16 none 4096)
    ∧ dec [0x006FCC02, 0xE0000006, 0x00000000] (.xm2m p0 15 3 (some 3))
    ∧ dec [0x006FCC02, 0xE0000007, 0x00000000] (.xm2l p0 15 3 (some 3))
    ∧ dec [0x006FCC02, 0xE0000008, 0x00000000] (.xl2l p0 15 3 (some 3))
    ∧ dec [0x3E00CC02, 0x00000009, 0x00000001] (.xeval p0 16 15 none 1)
    ∧ dec [0x3E00CC02, 0x0000000A, 0x00000001] (.xm2p p0 16 15 none 1)
    ∧ dec [0x3DC7CC02, 0x0000000B, 0x00000000] (.xadm p0 7 14 15 none) := by
  decide
theorem test_words_engines_atomics_and_synchronisation_1 :
    dec [0x0200CE02, 0x00300001, 0x00000000] (.cpy p0 16 .column)
    ∧ dec [0x0200CE02, 0x00600002, 0x00000000] (.cpys p0 16 .system)
    ∧ dec [0x0200CE02, 0x00500003, 0x00000000] (.cpyg p0 16 .device)
    ∧ dec [0x0200CE02, 0x00000004, 0x00000000] (.stage p0 16)
    ∧ dec [0x0200CE02, 0x00308005, 0x00000009] (.coll p0 16 .i32 .column 1 2)
    ∧ dec [0x0200CE02, 0x00000006, 0x00000000] (.finst p0 16)
    ∧ dec [0x020CCE02, 0x00000007, 0x00000000] (.fstat p0 12 16)
    ∧ dec [0x0200CE02, 0x00000008, 0x00000000] (.marm p0 16)
    ∧ dec [0x022CCE02, 0x00000009, 0x00000001] (.mwait p0 12 17 true)
    ∧ dec [0x460CD002, 0x00208001, 0x80000005] (.aadd p0 12 16 17 .i32 .cluster 5 true)
    ∧ dec [0x460CD002, 0x00208002, 0x80000005] (.amin p0 12 16 17 .i32 .cluster 5 true)
    ∧ dec [0x460CD002, 0x00208003, 0x80000005] (.amax p0 12 16 17 .i32 .cluster 5 true)
    ∧ dec [0x460CD002, 0x00208004, 0x80000005] (.axchg p0 12 16 17 .i32 .cluster 5 true)
    ∧ dec [0x460CD002, 0x00208005, 0x80000005] (.acas p0 12 16 17 .i32 .cluster 5 true)
    ∧ dec [0x460CD002, 0x00208006, 0x80000005] (.aand p0 12 16 17 .i32 .cluster 5 true)
    ∧ dec [0x460CD002, 0x00208007, 0x80000005] (.aor p0 12 16 17 .i32 .cluster 5 true) := by
  decide
theorem test_words_engines_atomics_and_synchronisation_2 :
    dec [0x020CD202, 0x00000001, 0x00000002] (.slota p0 12 16 2)
    ∧ dec [0x020CD202, 0x00000002, 0x00000000] (.slotf p0 12 16)
    ∧ dec [0x460CD202, 0x00000003, 0x00000000] (.rvinit p0 12 16 17)
    ∧ dec [0x020CD202, 0x00000004, 0x00000000] (.rvarr p0 12 16)
    ∧ dec [0x020CD202, 0x00000004, 0x40000000] (.rvarrEng p0 12 16)
    ∧ dec [0x460CD202, 0x00000005, 0x00000000] (.rvwait p0 12 16 17)
    ∧ dec [0x020CD202, 0x00000006, 0x80000000] (.evsig p0 12 16 true)
    ∧ dec [0x460CD202, 0x00000007, 0x00000000] (.evwait p0 12 16 17)
    ∧ dec [0x020CD202, 0x00000008, 0x00000000] (.mlock p0 12 16)
    ∧ dec [0x020CD202, 0x00000009, 0x00000000] (.munlk p0 12 16)
    ∧ dec [0x020CD202, 0x0000000A, 0x80000000] (.acq p0 12 16 true)
    ∧ dec [0x020CD202, 0x0000000B, 0x00000000] (.rel p0 12 16 false)
    ∧ dec [0x4600D202, 0x0050000C, 0x3FFFFFC0] (.bind p0 16 17 .device 0x3FFFFFC0)
    ∧ dec [0x0000D202, 0x0050000D, 0x00000000] (.fence p0 .device)
    ∧ dec [0x0000D202, 0x01B0000E, 0x00000000] (.fencex p0 .column .ce .ls) := by
  decide
/-! ## Steps -/

/-- TVEC and RVEC of core 0 name address 0x40 (R254). -/
def vectors : Sparse Byte := [(0x01058000, 0x40), (0x01058004, 1), (0x01058008, 0x40), (0x0105800C, 1)]

/-- Context 1 of core 0, of tier 0, runs outside any superstep with these registers. -/
def run1 (g : List (Nat × DWord)) (f : Ctx → Ctx := id) (c : Core → Core := id) : State :=
  { State.reset with
    cur := (0, 1)
    cores := [(0, c { Core.reset with
      near := vectors
      ctxs := [(1, f { Ctx.reset with run := .running, g := g })], ctl := { Ctl.reset with turn := some 1 } })] }

/-- A step answers a next state with a property. -/
def gives (o : Host.Outcome State Fault Refusal) (p : State → Bool) : Bool :=
  match o with
  | .next t => p t
  | _ => false

/-- A result under way for the issuing context, readable `lat` cycles after the reset tick. -/
def later (t : State) (lat : Nat) (a : Act) : Bool := (t.core t.cur.1).pend.contains ⟨lat * cyc t.cur.1, t.cur.2, a⟩

/-- The context is Trapped with the cause in its slot (R254). -/
def trapped (t : State) (c : Cause) : Bool :=
  (t.ctx t.cur).run == .trapped && nearByte t t.cur.1 (slotAddr (Machine.tierOf t.cur.1) t.cur.2) == BitVec.ofNat 8 (causeCode c)

/-- ADD wraps; SUB, AND, ANDN, OR, XOR (R315, R317, R365, R386, R416). -/
theorem test_add_wraps : gives (exec (.add p0 3 1 2) (run1 [(1, 5), (2, 0xFFFFFFFFFFFFFFFF)])) (fun t => rv t 3 == 4 && rv t 1 == 5) = true := by
  decide
theorem test_sub_wraps : gives (exec (.sub p0 3 1 2) (run1 [(1, 5), (2, 6)])) (fun t => rv t 3 == 0xFFFFFFFFFFFFFFFF) = true := by decide
theorem test_andn : gives (exec (.andn p0 3 1 2) (run1 [(1, 0xFF), (2, 0x0F)])) (fun t => rv t 3 == 0xF0) = true := by decide
theorem test_and_or_xor :
    gives (exec (.and p0 3 1 2) (run1 [(1, 12), (2, 10)])) (fun t => rv t 3 == 8) = true
    ∧ gives (exec (.or p0 3 1 2) (run1 [(1, 12), (2, 10)])) (fun t => rv t 3 == 14) = true
    ∧ gives (exec (.xor p0 3 1 2) (run1 [(1, 12), (2, 10)])) (fun t => rv t 3 == 6) = true := by decide
/-- A source that is also the destination, and g0, which takes nothing (R63). -/
theorem test_add_in_place : gives (exec (.add p0 1 1 1) (run1 [(1, 5)])) (fun t => rv t 1 == 10) = true
    ∧ gives (exec (.add p0 0 1 1) (run1 [(1, 5)])) (fun t => rv t 0 == 0) = true := by decide
/-- MUL and MULH with the operands of R363's table. -/
theorem test_mul : gives (exec (.mul p0 4 5 6) (run1 [(5, 0x8000000000000000), (6, 4)])) (fun t => later t 3 (.g 4 0)) = true := by decide
theorem test_mulh : gives (exec (.mulh p0 4 5 6 false) (run1 [(5, 0x8000000000000000), (6, 4)])) (fun t => later t 4 (.g 4 0xFFFFFFFFFFFFFFFE)) = true
    ∧ gives (exec (.mulh p0 4 5 6 true) (run1 [(5, 0x8000000000000000), (6, 4)])) (fun t => later t 4 (.g 4 2)) = true := by decide
/-- DIV and REM with the operands of R334 and R370. -/
theorem test_div : gives (exec (.div p0 4 5 6 false) (run1 [(5, 0xFFFFFFFFFFFFFFF9), (6, 2)])) (fun t => later t 18 (.g 4 0xFFFFFFFFFFFFFFFD)) = true
    ∧ gives (exec (.div p0 4 5 6 true) (run1 [(5, 0xFFFFFFFFFFFFFFF9), (6, 2)])) (fun t => later t 18 (.g 4 0x7FFFFFFFFFFFFFFC)) = true := by decide
theorem test_rem : gives (exec (.rem p0 4 5 6 false) (run1 [(5, 0xFFFFFFFFFFFFFFF9), (6, 2)])) (fun t => later t 18 (.g 4 0xFFFFFFFFFFFFFFFF)) = true
    ∧ gives (exec (.rem p0 4 5 6 true) (run1 [(5, 0xFFFFFFFFFFFFFFF9), (6, 2)])) (fun t => later t 18 (.g 4 1)) = true
    ∧ gives (exec (.rem p0 4 5 6 false) (run1 [(5, 0xFFFFFFFFFFFFFFF9)])) (fun t => later t 18 (.g 4 0xFFFFFFFFFFFFFFF9)) = true := by decide
/-- The shifts of R375's table. -/
theorem test_shl_shr :
    gives (exec (.shl p0 4 5 6) (run1 [(5, 3), (6, 62)])) (fun t => rv t 4 == 0xC000000000000000) = true
    ∧ gives (exec (.shr p0 4 5 6) (run1 [(5, 0x8000000000000000), (6, 63)])) (fun t => rv t 4 == 1) = true
    ∧ gives (exec (.shl p0 4 5 6) (run1 [(5, 3), (6, 64)])) (fun t => rv t 4 == 3) = true := by decide
theorem test_sra_rot :
    gives (exec (.sra p0 4 5 6) (run1 [(5, 0xFFFFFFFFFFFFFFF8), (6, 1)])) (fun t => rv t 4 == 0xFFFFFFFFFFFFFFFC) = true
    ∧ gives (exec (.sra p0 4 5 6) (run1 [(5, 0xFFFFFFFFFFFFFFFF), (6, 63)])) (fun t => rv t 4 == 0xFFFFFFFFFFFFFFFF) = true
    ∧ gives (exec (.rot p0 4 5 6) (run1 [(5, 0x8000000000000001), (6, 1)])) (fun t => rv t 4 == 3) = true
    ∧ gives (exec (.rot p0 4 5 6) (run1 [(5, 9)])) (fun t => rv t 4 == 9) = true := by decide
/-- CLZ, CTZ and POPC with the operands of R326 and R367, and zero. -/
theorem test_clz_ctz :
    gives (exec (.clz p0 4 5) (run1 [(5, 0x100)])) (fun t => rv t 4 == 55) = true
    ∧ gives (exec (.ctz p0 4 5) (run1 [(5, 0x100)])) (fun t => rv t 4 == 8) = true
    ∧ gives (exec (.clz p0 4 5) (run1 [])) (fun t => rv t 4 == 64) = true ∧ gives (exec (.ctz p0 4 5) (run1 [])) (fun t => rv t 4 == 64) = true := by decide
theorem test_popc : gives (exec (.popc p0 4 5) (run1 [(5, 0xFF00)])) (fun t => rv t 4 == 8) = true := by decide
/-- MIN and MAX (R354): signed and unsigned. -/
theorem test_min_max :
    gives (exec (.min p0 4 5 6 false) (run1 [(5, 0xFFFFFFFFFFFFFFFF), (6, 1)])) (fun t => rv t 4 == 0xFFFFFFFFFFFFFFFF) = true
    ∧ gives (exec (.max p0 4 5 6 true) (run1 [(5, 0xFFFFFFFFFFFFFFFF), (6, 1)])) (fun t => rv t 4 == 0xFFFFFFFFFFFFFFFF) = true
    ∧ gives (exec (.max p0 4 5 6 false) (run1 [(5, 0xFFFFFFFFFFFFFFFF), (6, 1)])) (fun t => rv t 4 == 1) = true := by decide
/-- SEL, MOV, SXT and ZXT (R362, R377, R387, R418). -/
theorem test_sel_mov :
    gives (exec (.sel ⟨0, false, 3, false⟩ 4 5 6) (run1 [(5, 7), (6, 9)] (fun x => { x with p := 8 }))) (fun t => rv t 4 == 7) = true
    ∧ gives (exec (.sel ⟨0, false, 3, true⟩ 4 5 6) (run1 [(5, 7), (6, 9)] (fun x => { x with p := 8 }))) (fun t => rv t 4 == 9) = true
    ∧ gives (exec (.mov p0 4 5) (run1 [(5, 7)])) (fun t => rv t 4 == 7) = true := by decide
theorem test_sxt_zxt :
    gives (exec (.sxt p0 4 5 .w16) (run1 [(5, 0x18001)])) (fun t => rv t 4 == 0xFFFFFFFFFFFF8001) = true
    ∧ gives (exec (.zxt p0 4 5 .w16) (run1 [(5, 0x18001)])) (fun t => rv t 4 == 0x8001) = true := by decide
/-- The comparisons (R327, R328), and p0, which takes nothing. -/
theorem test_cmp :
    gives (exec (.cmpLt p0 3 4 5 false) (run1 [(4, 0xFFFFFFFFFFFFFFFF), (5, 1)])) (fun t => pv t 3) = true
    ∧ gives (exec (.cmpLt p0 3 4 5 true) (run1 [(4, 0xFFFFFFFFFFFFFFFF), (5, 1)])) (fun t => !pv t 3) = true
    ∧ gives (exec (.cmpLe p0 3 4 5 false) (run1 [(4, 1), (5, 1)])) (fun t => pv t 3) = true
    ∧ gives (exec (.cmpEq p0 3 4 5 true) (run1 [(4, 1), (5, 1)])) (fun t => pv t 3) = true
    ∧ gives (exec (.cmpNe p0 0 4 5 true) (run1 [(4, 1), (5, 1)])) (fun t => pv t 0) = true := by decide
theorem test_cmpi :
    gives (exec (.cmpiLt 0 2 1 10) (run1 [(1, 9)])) (fun t => pv t 2) = true ∧ gives (exec (.cmpiGt 0 2 1 0x7FF) (run1 [(1, 0)])) (fun t => pv t 2) = true
    ∧ gives (exec (.cmpiGtN64 0 2 1 0x7FF) (run1 [(1, 0)])) (fun t => !pv t 2) = true ∧ gives (exec (.cmpiGe 0 2 1 9) (run1 [(1, 9)])) (fun t => pv t 2) = true
    ∧ gives (exec (.cmpiLeN64 0 2 1 8) (run1 [(1, 9)])) (fun t => !pv t 2) = true ∧ gives (exec (.cmpiLtN64 0 2 1 8) (run1 [(1, 7)])) (fun t => pv t 2) = true
    ∧ gives (exec (.cmpiLe 0 2 1 9) (run1 [(1, 9)])) (fun t => pv t 2) = true ∧ gives (exec (.cmpiGeN64 0 2 1 9) (run1 [(1, 9)])) (fun t => pv t 2) = true
    ∧ gives (exec (.cmpiEq 0 2 1 0x7FF) (run1 [(1, 0xFFFFFFFFFFFFFFFF)])) (fun t => pv t 2) = true ∧ gives (exec (.cmpiNe 0 2 1 9) (run1 [(1, 9)])) (fun t => !pv t 2) = true
    ∧ gives (exec (.cmpiLong p0 .gt 2 1 4) (run1 [(1, 5)])) (fun t => pv t 2) = true := by decide
/-- The predicate instructions (R366). -/
theorem test_predicates :
    gives (exec (.pand p0 1 2 3) (run1 [] (fun x => { x with p := 0x0C }))) (fun t => pv t 1) = true
    ∧ gives (exec (.por p0 1 2 3) (run1 [] (fun x => { x with p := 0x04 }))) (fun t => pv t 1) = true
    ∧ gives (exec (.pxor p0 4 4 4) (run1 [] (fun x => { x with p := 0x10 }))) (fun t => !pv t 4) = true
    ∧ gives (exec (.pnot p0 4 0) (run1 [] (fun x => { x with p := 0x10 }))) (fun t => !pv t 4) = true
    ∧ gives (exec (.pmov p0 1 0) (run1 [])) (fun t => pv t 1) = true := by decide
/-- ADDI, LI, LEA, EXT and INS with the operands of R316, R338, R349 and R351. -/
theorem test_immediates :
    gives (exec (.addi 0 3 1 0x7FF) (run1 [(1, 0)])) (fun t => rv t 3 == 0xFFFFFFFFFFFFFFFF) = true
    ∧ gives (exec (.addiLong p0 3 1 0x100000000) (run1 [(1, 1)])) (fun t => rv t 3 == 0x100000001) = true
    ∧ gives (exec (.li 0 3 0x400) (run1 [])) (fun t => rv t 3 == 0xFFFFFFFFFFFFFC00) = true
    ∧ gives (exec (.liLong p0 3 0x123456789ABC) (run1 [])) (fun t => rv t 3 == 0x123456789ABC) = true := by decide
theorem test_fields :
    gives (exec (.ext p0 4 8 .n64 none 8 3) (run1 [] (fun x => { x with stack := [(0, 0xABCD)] }))) (fun t => rv t 4 == 0xB) = true
    ∧ gives (exec (.ext p0 4 8 .i64 none 8 3) (run1 [] (fun x => { x with stack := [(0, 0xABCD)] }))) (fun t => rv t 4 == 0xFFFFFFFFFFFFFFFB) = true
    ∧ gives (exec (.ins p0 4 8 none 8 3) (run1 [(4, 0xFFFF)] (fun x => { x with stack := [(0, 5)] }))) (fun t => rv t 4 == 0xF5FF) = true
    ∧ gives (exec (.lea p0 4 1 2 none 3 16) (run1 [(1, 0x1000), (2, 5)])) (fun t => rv t 4 == 0x1038) = true
    ∧ gives (exec (.leaXl p0 4 1 2 none 3 16) (run1 [(1, 0x1000), (2, 5)])) (fun t => rv t 4 == 0x1038) = true := by decide
/-- A core's instruction store holds tagged words from an address on. -/
def code (a : Nat) (ws : List Word) (c : Core) : Core :=
  { c with store := (List.range ws.length).map (fun i => (a / 4 + i, (ws.getD i 0, true))) }

/-- BR, JMP and JMPI reach a tagged word (R323, R346); another target raises BADTARGET with its address (R82). -/
theorem test_branches :
    gives (exec (.br p0 4) (run1 [] id (code 0 [0, 0, 0, 0, 0x6A00]))) (fun t => (t.ctx t.cur).pc == 16) = true
    ∧ gives (exec (.brLong p0 16) (run1 [] id (code 0 [0, 0, 0, 0, 0x6A00]))) (fun t => (t.ctx t.cur).pc == 16) = true
    ∧ gives (exec (.br ⟨0, false, 1, false⟩ 4) (run1 [] id (code 0 [0x6A00, 0x6A00]))) (fun t => (t.ctx t.cur).pc == 4) = true
    ∧ gives (exec (.br p0 4) (run1 [])) (fun t => trapped t .badtarget && nearByte t 0 (slotAddr 0 1 + 16) == 16) = true := by decide
theorem test_jumps :
    gives (exec (.jmp 0 false 0xFFFF) (run1 [] (fun x => { x with pc := 8 }) (code 0 [0, 0x6A00]))) (fun t => (t.ctx t.cur).pc == 4) = true
    ∧ gives (exec (.jmpLong 0 false 8) (run1 [] id (code 0 [0, 0, 0x6A00]))) (fun t => (t.ctx t.cur).pc == 8) = true
    ∧ gives (exec (.jmpi p0 1) (run1 [(1, 8)] id (code 0 [0, 0, 0x6A00]))) (fun t => (t.ctx t.cur).pc == 8) = true
    ∧ gives (exec (.jmpi p0 1) (run1 [(1, 10)] id (code 0 [0, 0, 0x6A00]))) (fun t => trapped t .badtarget) = true := by decide
/-- CALL moves the window by FRAME − 8 and leaves FRAME and the return address in w7 (R66); WSPILL past VLO + the stack. -/
theorem test_calls :
    gives (exec (.call p0 2) (run1 [] id (code 0 [0, 0, 0x6A00])))
      (fun t => (t.ctx t.cur).pc == 8 && (t.ctx t.cur).wbase == 16 && (t.ctx t.cur).frame == 24 && rv t 15 == 0x1800000004) = true
    ∧ gives (exec (.callLong p0 8) (run1 [] id (code 0 [0, 0, 0x6A00]))) (fun t => rv t 15 == 0x180000000C) = true
    ∧ gives (exec (.calli p0 1) (run1 [(1, 8)] (fun x => { x with wbase := 0xE0 }) (code 0 [0, 0, 0x6A00]))) (fun t => trapped t .wspill) = true := by decide
/-- RET restores the caller's window (R66): link word in w7. -/
theorem test_ret :
    gives (exec (.ret 0 false) (run1 [] (fun x => { x with wbase := 16, stack := [(23, 0x1800000004)] }) (code 0 [0, 0x6A00])))
      (fun t => (t.ctx t.cur).pc == 4 && (t.ctx t.cur).wbase == 0 && (t.ctx t.cur).frame == 24) = true
    ∧ gives (exec (.ret 0 false) (run1 [])) (fun t => trapped t .illop) = true := by decide
theorem test_frames :
    gives (exec (.enter 0 12) (run1 [])) (fun t => (t.ctx t.cur).frame == 12) = true
    ∧ gives (exec (.enterLong p0 20) (run1 [])) (fun t => (t.ctx t.cur).frame == 20) = true
    ∧ gives (exec (.enter 0 9) (run1 [])) (fun t => trapped t .illop) = true
    ∧ gives (exec (.leave p0) (run1 [])) (fun t => (t.ctx t.cur).frame == 8) = true
    ∧ gives (exec (.add p0 20 1 1) (run1 [(1, 5)] (fun x => { x with frame := 8 }))) (fun t => trapped t .illop) = true := by decide
theorem test_nop_yield_halt :
    gives (exec (.nop p0) (run1 [] id (code 0 [0x6A00, 0x6A00]))) (fun t => (t.ctx t.cur).pc == 4) = true
    ∧ gives (exec (.yield p0) (run1 [])) (fun t => (t.ctx t.cur).run == .running) = true
    ∧ gives (exec (.halt p0) (run1 [] id (code 0 [0x6C00, 0x6A00]))) (fun t => (t.ctx t.cur).run == .halted && (t.core 0).ctl.turn == none) = true := by decide
/-- REP with WIN 48, of base 16 and size 16 (R371), over a body of one instruction. -/
theorem test_rep :
    gives (exec (.rep p0 1 3 16 true 0 0 3) (run1 [] id (code 0 [0x0000C202, 1, 3, 0x6A00])))
      (fun t => (t.ctx t.cur).pc == 12 && (match (t.ctx t.cur).rep with
        | some r => r.remain == 3 && r.base == 16 && r.size == 16 && r.start == 12
        | none => false)) = true
    ∧ gives (exec (.rep p0 1 3 16 true 0 0 3) (run1 [] id (code 0 [0x0000C202, 1, 3, 0x6C00]))) (fun t => trapped t .illop) = true := by decide
/-- The guard (R76) and the checks' order (R81): a false guard writes nothing, ILLOP comes whatever the guard. -/
theorem test_guard :
    gives (exec (.add ⟨0, false, 1, false⟩ 3 1 1) (run1 [(1, 5)])) (fun t => rv t 3 == 0) = true
    ∧ gives (exec (.add ⟨0, false, 1, true⟩ 3 1 1) (run1 [(1, 5)])) (fun t => rv t 3 == 10) = true
    ∧ gives (exec (.gang ⟨0, false, 1, false⟩) (run1 [])) (fun t => trapped t .illop) = true := by decide

/-- The scalar loads (R321, R347): little-endian, sign and zero extension, ALIGN, BANKRANGE, ECCU. -/
def bytes1 (c : Core) : Core := { c with near := [(0x40, 0x80), (0x41, 0xFF), (0x43, 0x81), (0x01000000, 0x85), (0x01000001, 0xF0)] ++ vectors, poison := [(0x20, 1)] }
theorem test_loads :
    gives (exec (.ldI8 0 3 1 0) (run1 [(1, 0x40)] id bytes1)) (fun t => later t 3 (.g 3 0xFFFFFFFFFFFFFF80)) = true
    ∧ gives (exec (.ldN16 0 3 1 2) (run1 [(1, 0x40)] id bytes1)) (fun t => later t 3 (.g 3 0x8100)) = true
    ∧ gives (exec (.ldI32 0 3 1 0) (run1 [(1, 0x40)] id bytes1)) (fun t => later t 3 (.g 3 0xFFFFFFFF8100FF80)) = true
    ∧ gives (exec (.ldI64 0 3 1 0x7F8) (run1 [(1, 0x48)] id bytes1)) (fun t => later t 3 (.g 3 0x8100FF80)) = true
    ∧ gives (exec (.ldN8 0 3 1 0) (run1 [(1, 0x41)] id bytes1)) (fun t => later t 3 (.g 3 0xFF)) = true := by decide
theorem test_load_traps :
    gives (exec (.ldI16 0 3 1 0) (run1 [(1, 0x41)] id bytes1)) (fun t => trapped t .align) = true
    ∧ gives (exec (.ldN32 0 3 1 0) (run1 [(1, 0x10000)] id bytes1)) (fun t => trapped t .bankrange) = true
    ∧ gives (exec (.ldLong p0 .i8 3 1 0x80) (run1 [] id bytes1)) (fun t => trapped t .eccu) = true
    ∧ gives (exec (.bldI8 0 3 1 0) (run1 [(1, 0x01058000)] id bytes1)) (fun t => trapped t .priv) = true := by decide
theorem test_bank_loads :
    gives (exec (.bldI16 0 3 1 0) (run1 [(1, 0x01000000)] id bytes1)) (fun t => later t 8 (.g 3 0xFFFFFFFFFFFFF085)) = true
    ∧ gives (exec (.bldN32 0 3 1 0) (run1 [(1, 0x01000000)] id bytes1)) (fun t => later t 8 (.g 3 0xF085)) = true
    ∧ gives (exec (.bldI32 0 3 1 0) (run1 [(1, 0x40)] id bytes1)) (fun t => trapped t .bankrange) = true
    ∧ gives (exec (.bldLong p0 .n8 3 1 0x01000000) (run1 [] id bytes1)) (fun t => later t 8 (.g 3 0x85)) = true := by decide
/-- The stores (R321, R382): bytes under way, a cycle more for less than a word; the value's low bytes. -/
theorem test_stores :
    gives (exec (.stI8 0 3 1 0) (run1 [(1, 0x41), (3, 0x1234)])) (fun t => later t 4 (.store 0x41 [0x34] true)) = true
    ∧ gives (exec (.stI32 0 3 1 4) (run1 [(1, 0x40), (3, 0x100001234)])) (fun t => later t 3 (.store 0x44 [0x34, 0x12, 0, 0] false)) = true
    ∧ gives (exec (.stI64 0 3 1 0) (run1 [(1, 0x44)])) (fun t => trapped t .align) = true
    ∧ gives (exec (.stLong p0 .i16 3 1 0xFFFFFFFFFFFFFFFE) (run1 [(1, 0x42), (3, 0x1234)])) (fun t => later t 4 (.store 0x40 [0x34, 0x12] true)) = true := by decide
theorem test_bank_stores :
    gives (exec (.bstI64 0 3 1 0) (run1 [(1, 0x01000000), (3, 0x0807060504030201)])) (fun t => later t 8 (.store 0x01000000 [1, 2, 3, 4, 5, 6, 7, 8] false)) = true
    ∧ gives (exec (.bstLong p0 .i32 3 1 0) (run1 [(1, 0x01057FC0)])) (fun t => trapped t .priv) = true := by decide
/-- A store at its tick (R26). -/
theorem test_store_lands :
    nearByte ((run1 [] id bytes1).applyPend 0 ⟨0, 1, .store 0x41 [0x34] true⟩) 0 0x41 = 0x34
    ∧ nearByte ((run1 [] id bytes1).applyPend 0 ⟨0, 1, .store 0x41 [0x34] true⟩) 0 0x40 = 0x80 := by decide
/-- Whole registers (R396): a multiple of 4 will do. -/
theorem test_vector_memory :
    gives (exec (.vld 0 3 1 0) (run1 [(1, 0x3C)] id bytes1)) (fun t => later t 3 (.vec 3 0x8100FF8000000000)) = true
    ∧ gives (exec (.vbldLong p0 3 1 0x01000000) (run1 [] id bytes1)) (fun t => later t 8 (.vec 3 0xF085)) = true
    ∧ gives (exec (.vst 0 3 1 0) (run1 [(1, 0x42)])) (fun t => trapped t .align) = true
    ∧ gives (exec (.vbst 0 3 1 0) (run1 [(1, 0x01000004)])) (fun t => later t 8 (.store 0x01000004 (List.replicate 64 0) false)) = true := by decide
/-- Elementwise forms (R404, R405). -/
theorem test_lanes_memory :
    gives (exec (.vlds p0 3 1 2 .n8 none 0) (run1 [(1, 0x40), (2, 0)] id bytes1)) (fun t => later t 8 (.vec 3 (packLanes 8 (List.replicate 64 0x80)))) = true
    ∧ gives (exec (.vgath p0 3 1 4 .f32 none 4) (run1 [(1, 0x3C)] id bytes1)) (fun t => later t 5 (.vec 3 (packLanes 32 (List.replicate 16 0x8100FF80)))) = true
    ∧ gives (exec (.vsts p0 3 1 2 .f32 none 0) (run1 [(1, 0x10000), (2, 4)])) (fun t => trapped t .bankrange) = true
    ∧ gives (exec (.vscat p0 3 1 4 .i32 none 2) (run1 [(1, 0x40)])) (fun t => trapped t .align) = true := by decide
/-- The tag table (R180, R181): an empty entry of the set is suggested, BTAG fills it, BLOOK finds it, BINV empties it. -/
theorem test_tags :
    gives (exec (.blook p0 3 1) (run1 [(1, 0x600)])) (fun t => later t 2 (.g 3 0x800000000000000C)) = true
    ∧ gives (exec (.btag p0 3 1 2) (run1 [(1, 13), (2, 0x600)])) (fun t => sget 0 (t.core 0).tags 13 == 0x8000000000000600 && later t 2 (.g 3 0)) = true
    ∧ gives (exec (.blook p0 3 1) (run1 [(1, 0x600)] id (fun c => { c with tags := [(13, 0x8000000000000600)] }))) (fun t => later t 2 (.g 3 13)) = true
    ∧ gives (exec (.binv p0 3 1) (run1 [(1, 13)] id (fun c => { c with tags := [(13, 0x8000000000000600)] }))) (fun t => sget 0 (t.core 0).tags 13 == 0 && later t 2 (.g 3 0x8000000000000600)) = true
    ∧ gives (exec (.btag p0 3 1 2) (run1 [(1, 12), (2, 0x800)])) (fun t => trapped t .bankrange) = true := by decide

/-! ### System registers and exceptions -/

theorem test_sysr :
    gives (exec (.sysr 0 3 0) (run1 [])) (fun t => rv t 3 == 0x20000) = true
    ∧ gives (exec (.sysr 0 3 3) (run1 [])) (fun t => rv t 3 == 0x1800000000) = true
    ∧ gives (exec (.sysrLong p0 3 0x400) (run1 [] (fun x => { x with stack := [(0, 7)] }))) (fun t => rv t 3 == 7) = true
    ∧ gives (exec (.sysr 0 3 0x010) (run1 [])) (fun t => trapped t .priv) = true
    ∧ gives (exec (.sysr 0 3 0x00B) (run1 [])) (fun t => trapped t .illop) = true := by decide
theorem test_sysw :
    gives (exec (.sysw 0 3 1) (run1 [(3, 1)])) (fun t => (t.ctx t.cur).ftz) = true
    ∧ gives (exec (.sysw 0 3 2) (run1 [(3, 0x7F)])) (fun t => (t.ctx t.cur).flags == 0x3F) = true
    ∧ gives (exec (.sysw 0 3 0) (run1 [])) (fun t => trapped t .illop) = true
    ∧ gives (exec (.syswLong p0 3 4) (run1 [(3, 1)])) (fun t => trapped t .illop) = true := by decide
/-- TRAP enters c0 at RVEC and fills the slot with KIND 2 and its number (R254, R390). -/
theorem test_trap :
    gives (exec (.trap 0 5) (run1 [] id (code 0 [0, 0x6A00]))) (fun t =>
      (t.core 0).ctl.handling == some 1 && (t.ctx (0, 0)).pc == 0x40 && (t.ctx (0, 0)).run == .running && (t.ctx (0, 1)).run == .trapped
        && nearByte t 0 (slotAddr 0 1 + 28) == 0x16) = true
    ∧ gives (exec (.trapLong p0 1023) (run1 [] id (code 0 [0, 0, 0, 0x6A00]))) (fun t => nearByte t 0 (slotAddr 0 1 + 29) == 0x0F) = true := by decide
/-- An ILLOP enters at TVEC with TRAP_CAUSE loaded (R74, R255). -/
theorem test_takes_exception :
    gives (exec (.enter 0 9) (run1 [] )) (fun t =>
      (t.core 0).ctl.handling == some 1 && (t.core 0).ctl.cause == BitVec.ofNat 64 (causeCode .illop + 0x10000) && (t.ctx (0, 0)).pc == 0x40) = true := by decide
/-- c0 of core 0 handles context 1's slot, whose RESUME is 8: ERET lets it go on there (R256). -/
def handler : State :=
  { State.reset with
    cur := (0, 0)
    cores := [(0, { Core.reset with
      near := [(slotAddr 0 1 + 12, 8), (slotAddr 0 1 + 28, 1)], store := [(0, (0xB600, true)), (1, (0x6A00, true)), (2, (0x6A00, true))]
      ctxs := [(0, { Ctx.reset with run := .running }), (1, { Ctx.reset with run := .trapped })]
      ctl := { Ctl.reset with turn := some 0, handling := some 1, kept := some (.halted, 0), cause := 1 } })] }
theorem test_eret :
    gives (exec (.eret 0 false) handler) (fun t =>
      (t.core 0).ctl.handling == none && (t.core 0).ctl.cause == 0 && (t.ctx (0, 1)).pc == 8 && nearByte t 0 (slotAddr 0 1 + 28) == 0
        && (t.ctx (0, 0)).run == .halted) = true
    ∧ gives (exec (.eret 0 false) (run1 [])) (fun t => trapped t .priv) = true := by decide
theorem test_idem :
    gives (exec (.idem p0) (run1 [(1, 5)] id (code 0 [0x0000D602, 1, 0, 0x6A00]))) (fun t => match (t.ctx t.cur).region with
      | some r => r.ckpt.pc == 12 && r.ckpt.g == [(1, 5)] && r.restarts == 0
      | none => false) = true
    ∧ gives (exec (.idemEnd p0) (run1 [(1, 5)])) (fun t => (t.ctx t.cur).region == none) = true := by decide
/-! ### Vectors -/

/-- Context 1 with these vector registers, by lanes of a width. -/
def runV (w : Nat) (vs : List (Nat × List Nat)) (f : Ctx → Ctx := id) : State :=
  run1 [] (fun x => f { x with v := vs.map (fun e => (e.1, packLanes w e.2)) })

/-- A vector under way, by lanes. -/
def laterV (t : State) (lat d w : Nat) (ls : List Nat) : Bool := later t lat (.vec d (packLanes w ls))

/-- Elementwise arithmetic (R88 to R94, R393): rounding modes, wrapping and clamping, specials and their flags. -/
theorem test_vadd_f32 :
    gives (exec (.vadd p0 3 1 2 .f32 .rne false none) (runV 32 [(1, [0x3F800000, 0x7F7FFFFF, 0x80000000]), (2, [0x33800000, 0x7F7FFFFF])]))
      (fun t => laterV t 4 3 32 [0x3F800000, 0x7F800000] && later t 4 (.orFlags 0x14)) = true
    ∧ gives (exec (.vadd p0 3 1 2 .f32 .rup false none) (runV 32 [(1, [0x3F800000]), (2, [0x33800000])]))
      (fun t => laterV t 4 3 32 [0x3F800001]) = true := by decide
theorem test_vadd_int :
    gives (exec (.vadd p0 3 1 2 .i8 .rne false none) (runV 8 [(1, [0x7F, 1]), (2, [1, 0xFF])])) (fun t => laterV t 2 3 8 [0x80]) = true
    ∧ gives (exec (.vadd p0 3 1 2 .i8 .rne true none) (runV 8 [(1, [0x7F, 1]), (2, [1, 0xFF])])) (fun t => laterV t 2 3 8 [0x7F]) = true
    ∧ gives (exec (.vsub p0 3 1 2 .n16 .rne true none) (runV 16 [(1, [1]), (2, [2])])) (fun t => laterV t 2 3 16 []) = true := by decide
theorem test_vmul_vfma :
    gives (exec (.vmul p0 3 1 2 .i32 .rne false none) (runV 32 [(1, [0x10000, 0xFFFFFFFF]), (2, [0x10001, 3])])) (fun t => laterV t 3 3 32 [0x10000, 0xFFFFFFFD]) = true
    ∧ gives (exec (.vfma p0 3 1 2 .f32 .rne none 4) (runV 32 [(1, [0x40000000]), (2, [0x40400000]), (4, [0x3F800000])])) (fun t => laterV t 4 3 32 [0x40E00000]) = true
    ∧ gives (exec (.vfms p0 3 1 2 .f32 .rne none 4) (runV 32 [(1, [0x40000000]), (2, [0x40400000]), (4, [0x3F800000])])) (fun t => laterV t 4 3 32 [0x40A00000]) = true
    ∧ gives (exec (.vmul p0 3 1 2 .f32 .rne false none) (runV 32 [(1, [0x7F800000])])) (fun t => laterV t 4 3 32 [0x7FC00000] && later t 4 (.orFlags 1)) = true := by decide
theorem test_vneg_vabs :
    gives (exec (.vneg p0 3 1 .i8 true none) (runV 8 [(1, [0x80, 1])])) (fun t => laterV t 2 3 8 [0x7F, 0xFF]) = true
    ∧ gives (exec (.vabs p0 3 1 .i8 false none) (runV 8 [(1, [0x80, 0xFF])])) (fun t => laterV t 2 3 8 [0x80, 1]) = true
    ∧ gives (exec (.vneg p0 3 1 .f32 false none) (runV 32 [(1, List.replicate 16 0x7FA00000)])) (fun t => vv t 3 == packLanes 32 (List.replicate 16 0xFFA00000)) = true := by decide
/-- VMIN and VMAX: one quiet NaN gives way, −0 is below +0 (R94). -/
theorem test_vmin_vmax :
    gives (exec (.vmin p0 3 1 2 .f32 none) (runV 32 [(1, [0x7FC00000, 0]), (2, [0x3F800000, 0x80000000])])) (fun t => laterV t 4 3 32 [0x3F800000, 0x80000000]) = true
    ∧ gives (exec (.vmax p0 3 1 2 .n16 none) (runV 16 [(1, [0xFFFF]), (2, [1])])) (fun t => laterV t 2 3 16 [0xFFFF]) = true
    ∧ gives (exec (.vmax p0 3 1 2 .i16 none) (runV 16 [(1, [0xFFFF]), (2, [1])])) (fun t => laterV t 2 3 16 [1]) = true := by decide
theorem test_vdiv_vsqrt :
    gives (exec (.vdiv p0 3 1 2 .f32 .rne none) (runV 32 [(1, [0x3F800000] ++ List.replicate 15 0), (2, [0x40400000] ++ List.replicate 15 0x3F800000)]))
      (fun t => laterV t 14 3 32 [0x3EAAAAAB] && later t 14 (.orFlags 0x10)) = true
    ∧ gives (exec (.vsqrt p0 3 1 .f32 .rne none) (runV 32 [(1, [0x40800000, 0x40000000])])) (fun t => laterV t 14 3 32 [0x40000000, 0x3FB504F3]) = true
    ∧ gives (exec (.vrcp p0 3 1 .f32 .rne none) (runV 32 [(1, List.replicate 16 0x40000000)])) (fun t => laterV t 8 3 32 (List.replicate 16 0x3F000000)) = true
    ∧ gives (exec (.vrsq p0 3 1 .f32 .rne none) (runV 32 [(1, List.replicate 16 0x40800000)])) (fun t => laterV t 8 3 32 (List.replicate 16 0x3F000000)) = true := by decide
/-- The exponent forms (R108 to R111, R403): 2^1 and 2^−∞; VRNDI to even; VINSX; VEXTX of zero sets DZ. -/
theorem test_exponents :
    gives (exec (.vexp2f p0 3 1 .f32 none) (runV 32 [(1, [0x3F800000, 0xFF800000])])) (fun t => laterV t 6 3 32 ([0x40000000, 0] ++ List.replicate 14 0x3F800000)) = true
    ∧ gives (exec (.vrndi p0 3 1 .f32 .rne none) (runV 32 [(1, [0x40200000])])) (fun t => laterV t 4 3 32 [0x40000000] && (t.core 0).pend.length == 1) = true
    ∧ gives (exec (.vinsx p0 3 1 2 .f32 .rne false none) (runV 32 [(1, [0x3F800000]), (2, [0xFFFFFFFF])])) (fun t => laterV t 4 3 32 [0x3F000000]) = true
    ∧ gives (exec (.vextx p0 3 1 .f16 none) (runV 16 [(1, List.replicate 31 0x3C00 ++ [0])])) (fun t => laterV t 4 3 16 (List.replicate 31 0 ++ [0x8000]) && later t 4 (.orFlags 2)) = true := by decide
/-- The conversion of R402's table, into E4M3 lanes 32 to 37 under .sat. -/
theorem test_vcvt :
    gives (exec (.vcvt p0 4 1 .e4m3 .f32 .rne true none 2) (runV 32 [(1, [0x3F800000, 0x40480000, 0x43FA0000, 0x80000000, 0x3A800000, 0x7FA00000])]))
      (fun t => laterV t 4 4 8 (List.replicate 32 0 ++ [0x38, 0x44, 0x7E, 0x80, 0, 0x7F]) && later t 4 (.orFlags 0x1D)) = true
    ∧ gives (exec (.vcvt p0 4 1 .f32 .i8 .rne false none 1) (runV 8 [(1, List.replicate 16 9 ++ [0xFF, 2])])) (fun t => laterV t 4 4 32 [0xBF800000, 0x40000000]) = true := by decide
/-- VCMP.lt with `, p3` (R399); VSEL, VPERM and the bitwise forms (R395, R408). -/
theorem test_vcmp :
    gives (exec (.vcmp p0 4 1 2 .f32 none 2 true 3) (runV 32 [(1, [0x80000000, 0xBF800000]), (2, [0, 0])]))
      (fun t => laterV t 2 4 32 [0, 0xFFFFFFFF] && later t 2 (.pred 3 true)) = true
    ∧ gives (exec (.vcmp p0 4 1 2 .n8 none 4 false 0) (runV 8 [(1, [0xFF]), (2, [1])])) (fun t => laterV t 2 4 8 [0xFF]) = true := by decide
theorem test_moves :
    gives (exec (.vsel p0 4 1 2 .i32 none 3) (runV 32 [(1, [5, 6]), (2, [7, 8]), (3, [0x80000000, 0])])) (fun t => vv t 4 == packLanes 32 [5, 8]) = true
    ∧ gives (exec (.vperm p0 4 1 2 .i32 none) (runV 32 [(1, [5, 6]), (2, [17, 1])])) (fun t => laterV t 2 4 32 ([6, 6] ++ List.replicate 14 5)) = true
    ∧ gives (exec (.vand p0 4 1 2 none) (runV 32 [(1, [12]), (2, [10])])) (fun t => vv t 4 == 8) = true
    ∧ gives (exec (.vor p0 4 1 2 none) (runV 32 [(1, [12]), (2, [10])])) (fun t => vv t 4 == 14) = true
    ∧ gives (exec (.vxor p0 4 1 2 none) (runV 32 [(1, [12]), (2, [10])])) (fun t => vv t 4 == 6) = true
    ∧ gives (exec (.vmov p0 4 1 none) (runV 32 [(1, [12])])) (fun t => vv t 4 == 12) = true
    ∧ gives (exec (.vsplat p0 4 1 .i8 none) (run1 [(1, 0x1FF)])) (fun t => vv t 4 == packLanes 8 (List.replicate 64 0xFF)) = true
    ∧ gives (exec (.vsplatXl p0 1 .f32 none 0x3FC00000) (run1 [])) (fun t => vv t 1 == packLanes 32 (List.replicate 16 0x3FC00000)) = true := by decide
/-- The shifts of R412 on a lane of 0x40. -/
theorem test_vector_shifts :
    gives (exec (.vshl p0 4 1 2 .i8 false none) (runV 8 [(1, [0x40]), (2, [1])])) (fun t => laterV t 2 4 8 [0x80]) = true
    ∧ gives (exec (.vshl p0 4 1 2 .i8 true none) (runV 8 [(1, [0x40]), (2, [1])])) (fun t => laterV t 2 4 8 [0x7F]) = true
    ∧ gives (exec (.vshr p0 4 1 2 .i8 none) (runV 8 [(1, [0x80]), (2, [9])])) (fun t => laterV t 2 4 8 [0x40]) = true
    ∧ gives (exec (.vsra p0 4 1 2 .n8 none) (runV 8 [(1, [0x80]), (2, [1])])) (fun t => laterV t 2 4 8 [0xC0]) = true := by decide
/-- The tree of R107's example, and VREDX.min (R410). -/
theorem test_reductions :
    gives (exec (.vreds p0 4 2 .f32 .rne false none) (runV 32 [(2, [0x3F800000, 0x33800000, 0x33800000, 0x33800000])]))
      (fun t => later t 16 (.g 4 0x3F800001) && later t 16 (.orFlags 0x10)) = true
    ∧ gives (exec (.vredx p0 4 2 .i8 none false) (runV 8 [(2, [1, 0x80])])) (fun t => later t 12 (.g 4 0xFFFFFFFFFFFFFF80)) = true := by decide
/-- Classes of R398, codes of R400 and R401, and the lanes of R411's example. -/
theorem test_codes :
    gives (exec (.vclass p0 4 1 .f32 none) (runV 32 [(1, [1, 0x7FA00000])])) (fun t => laterV t 2 4 32 ([0x20, 0x100] ++ List.replicate 14 0x10)) = true
    ∧ gives (exec (.vcode p0 4 1 .i8 .ql4 none 1) (runV 4 [(1, List.replicate 64 3 ++ [0, 9, 15] ++ List.replicate 61 7)])) (fun t => laterV t 2 4 8 [0x80, 21, 127]) = true
    ∧ gives (exec (.vql4 p0 4 1 .ql4 .f32 none 2) (runV 32 [(1, [0, 0x3E280000, 0x3E000000, 0x3DF80000, 0x3D200000, 0xBFC00000, 0x7FC00000])]))
      (fun t => laterV t 4 4 4 (List.replicate 32 0 ++ [7, 9, 9, 8, 7, 0, 7] ++ List.replicate 9 7) && later t 4 (.orFlags 1)) = true := by decide
theorem test_vscac :
    gives (exec (.vscac p0 7 1 2 .f32 .i32 none 3 4 true)
        (run1 [(4, 0x40000000)] (fun x => { x with v := [(1, packLanes 32 [3, 0xFFFFFFFD, 1, 5]), (2, packLanes 32 [255, 255, 127, 255]),
          (3, packLanes 32 [0x3F800000, 0x3F800000, 0x3F000000, 0x7FC00000]), (7, packLanes 32 [0x3F000000, 0x3F000000, 0, 0x3F800000])] })))
      (fun t => laterV t 6 7 32 [0x3F0C0000, 0x3EE80000, 0x3B800000, 0x7FC00000]) = true := by decide
/-- VKER of γ² + s under the default kernel completes at its latency; its value is left open within a bound (R165, R170). -/
theorem test_vker : gives (exec (.vker p0 4 1 .f32 none) (runV 32 [(1, [0x3F800000])])) (fun t => (t.core 0).pend.any (fun p => p.due == 160)) = true := by decide
/-! ### Messages, far space and synchronisation -/

/-- An entry of the agenda. -/
def posted (t : State) (p : Event → Bool) : Bool := t.agenda.any (fun e => p e.ev)

/-- SEND to context 1 of core 1 (R378): a message is under way; the crown's core 21760 does not exist; ILLOP to context 0. -/
theorem test_send :
    gives (exec (.send p0 3 1 4) (run1 [(1, 0x8001)])) (fun t => (t.ctx t.cur).run == .running) = true
    ∧ gives (exec (.send p0 3 1 4) (run1 [(1, 0x8000 + 21760)])) (fun t => trapped t .bankrange) = true
    ∧ gives (exec (.send p0 3 1 4) (run1 [(1, 1)])) (fun t => trapped t .illop) = true := by decide
/-- MGET empties its register and advances the tag (R357); MSGB of a line that is not 64-byte aligned. -/
theorem test_mget_msgb :
    gives (exec (.mget p0 3 1 2) (run1 [(1, 1), (2, 0x01000040)] (fun x => { x with m := [(3, { Msg.reset with full := true })] })))
      (fun t => !((t.ctx t.cur).msg 3).full && ((t.ctx t.cur).msg 3).tag == 1) = true
    ∧ gives (exec (.msgb p0 3 1 2 false) (run1 [(1, 1), (2, 0x01000008)])) (fun t => trapped t .align) = true
    ∧ gives (exec (.msgb p0 3 1 2 true) (run1 [(1, 1), (2, 0x01000008)])) (fun t => (t.ctx t.cur).run == .running) = true := by decide
theorem test_mclr : gives (exec (.mclr p0 3) (run1 [] (fun x => { x with m := [(3, { Msg.reset with full := true, data := 7 })] })))
    (fun t => (t.ctx t.cur).msg 3 == { Msg.reset with tag := 1, cleared := 1 }) = true := by decide
/-- LDX and STX (R187, R189): ALIGN of an address that is no multiple of 64. -/
theorem test_ldx_stx :
    gives (exec (.ldx p0 3 1) (run1 [(1, 0x80)])) (fun t => ((t.ctx t.cur).msg 3).pend && ((t.ctx t.cur).msg 3).va == 0x80) = true
    ∧ gives (exec (.ldx p0 3 1) (run1 [(1, 0x88)])) (fun t => trapped t .align) = true
    ∧ gives (exec (.stx p0 1 4) (run1 [(1, 0x80)])) (fun t => (t.ctx t.cur).stxOut == [1] && (t.ctx t.cur).stxNext == 2) = true := by decide
/-- A bank atomic of scope core waits for its reply (R237); ALIGN, and PRIV of the status block. -/
theorem test_atomic_issue :
    gives (exec (.aadd p0 3 1 2 .i64 .core 0 false) (run1 [(1, 0x01000000), (2, 5)])) (fun t =>
      (t.ctx t.cur).run == .held (.reply 3 0) && posted t (fun e => match e with
        | .atomicSlot r => r.op == 0 && r.addr == 0x01000000 && r.opnd == 5 && r.home == some 0
        | _ => false)) = true
    ∧ gives (exec (.acas p0 3 1 2 .i64 .core 0 false) (run1 [(1, 0x01000004)])) (fun t => trapped t .align) = true
    ∧ gives (exec (.amax p0 3 1 2 .n8 .core 0 false) (run1 [(1, 0x01057FC0)])) (fun t => trapped t .priv) = true := by decide
theorem test_atomic_forms :
    gives (exec (.axchg p0 3 1 2 .i32 .device 0 false) (run1 [(1, 0x40)])) (fun t => (t.ctx t.cur).run == .held (.reply 3 0)) = true
    ∧ gives (exec (.aand p0 3 1 2 .i32 .core 0 true) (run1 [(1, 0x01000000)])) (fun t => t.sc.length == 1) = true
    ∧ gives (exec (.amin p0 3 1 2 .i8 .core 0 false) (run1 [(1, 0x01000001)])) (fun t => posted t (fun e => match e with
      | .atomicSlot r => r.op == 1
      | _ => false)) = true
    ∧ gives (exec (.aor p0 3 1 2 .i32 .core 0 false) (run1 [(1, 0x01000000)])) (fun t => posted t (fun e => match e with
      | .atomicSlot r => r.op == 6
      | _ => false)) = true := by decide
/-- What the atomics leave and return (R236). -/
theorem test_atomic_results :
    (rmwOp 0 .i8 0xFF 2 0 0) = (1, 0xFFFFFFFFFFFFFFFF) ∧ (rmwOp 1 .i8 0xFF 1 0 0).1 = 0xFF ∧ (rmwOp 1 .n8 0xFF 1 0 0).1 = 1
    ∧ (rmwOp 2 .i32 5 9 0 0).1 = 9 ∧ (rmwOp 3 .i32 5 9 0 0).1 = 9 ∧ (rmwOp 4 .i32 5 9 5 0).1 = 9 ∧ (rmwOp 4 .i32 5 9 6 0).1 = 5
    ∧ (rmwOp 5 .i32 12 10 0 0).1 = 8 ∧ (rmwOp 6 .i32 12 10 0 0).1 = 14 := by decide
/-- The event unit (R223, R225): an operation of the cycle, and BANKRANGE of a line of the wrong kind. -/
theorem test_event_unit :
    gives (exec (.slota p0 3 1 0) (run1 [])) (fun t => t.units.length == 1 && (t.ctx t.cur).run == .held (.unitOp 120 3 0)) = true
    ∧ gives (exec (.slotf p0 3 1) (run1 [(1, 0x04000000)])) (fun t => t.units.length == 1) = true
    ∧ gives (exec (.rvinit p0 3 1 2) (run1 [(1, 0x04000800)])) (fun t => trapped t .bankrange) = true
    ∧ gives (exec (.rvarr p0 3 1) (run1 [(1, 0x04000004)])) (fun t => trapped t .align) = true
    ∧ gives (exec (.rvarrEng p0 3 1) (run1 [(1, 0x04000000)])) (fun t => t.units.length == 1) = true
    ∧ gives (exec (.rvwait p0 3 1 2) (run1 [(1, 0x04000000)])) (fun t => t.units.length == 1) = true := by decide
theorem test_events_and_mutexes :
    gives (exec (.evsig p0 3 1 false) (run1 [(1, 0x04000C00)])) (fun t => t.units.length == 1) = true
    ∧ gives (exec (.evwait p0 3 1 2) (run1 [(1, 0x04000800)])) (fun t => trapped t .bankrange) = true
    ∧ gives (exec (.mlock p0 3 1) (run1 [(1, 0x04000800)])) (fun t => t.units.length == 1) = true
    ∧ gives (exec (.munlk p0 3 1) (run1 [(1, 0x04000C00)])) (fun t => trapped t .bankrange) = true := by decide
/-- An arrival that completes a phase at a barrier line (R230, R233): C advances, PEND is COUNT again. -/
theorem test_barrier_phase :
    let s := { run1 [] (fun x => { x with run := .held (.unitOp 120 3 0) }) with lines := [(lineOf 0 0, { EvLine.reset with alloc := some 0, count := 2, pend := 1, c := 0xFFFF })] }
    let t := s.applyUnit ⟨0, UnitKind.rvarr.stage, (0, 1), 3, .rvarr, 0x04000000, 0⟩
    (t.line (lineOf 0 0)).c = 0 ∧ (t.line (lineOf 0 0)).pend = 2 ∧ (t.ctx (0, 1)).run = .held (.unitOp 120 3 0xFFFF) := by decide
/-- BIND, FENCE, ACQ and REL (R215 to R219): an unbound object raises ILLOP. -/
theorem test_ordering :
    gives (exec (.bind p0 1 2 .device 4096) (run1 [(1, 0x40), (2, 0x80)])) (fun t => (t.ctx t.cur).binds == [⟨0x40, 0x80, 4096, .device⟩]) = true
    ∧ gives (exec (.bind p0 1 2 .device 0) (run1 [(1, 0x40), (2, 0x80)] (fun x => { x with binds := [⟨0x40, 0x80, 4096, .device⟩] }))) (fun t => (t.ctx t.cur).binds == []) = true
    ∧ gives (exec (.acq p0 3 1 false) (run1 [(1, 0x40)])) (fun t => trapped t .illop) = true
    ∧ gives (exec (.rel p0 3 1 false) (run1 [(1, 0x40)] (fun x => { x with binds := [⟨0x40, 0x80, 4096, .device⟩] }))) (fun t => (t.ctx t.cur).run == .held (.reply 3 0)) = true := by decide
theorem test_fences :
    gives (exec (.fence p0 .device) (run1 [])) (fun t => (t.ctx t.cur).run == .held (.fence .ls .device 1200)) = true
    ∧ gives (exec (.fencex p0 .column .ce .ls) (run1 [])) (fun t => (t.ctx t.cur).run == .held (.fence .ce .column 360)) = true := by decide
/-- SLEEP, TWAIT, MARM, MWAIT (R203, R280): 2^40 ns are refused; a full register ends TWAIT at once with 0. -/
theorem test_waiting :
    gives (exec (.sleep p0 1) (run1 [(1, 0x10000000000)])) (fun t => trapped t .illop) = true
    ∧ gives (exec (.sleep p0 1) (run1 [(1, 100)])) (fun t => match (t.ctx t.cur).run with
        | .gated (.sleep _ 0) => (t.core 0).ctl.turn == none
        | _ => false) = true
    ∧ gives (exec (.twait p0 3 1 2) (run1 [(1, 100), (3, 9)] (fun x => { x with m := [(2, { Msg.reset with full := true })] }))) (fun t => rv t 3 == 0) = true := by decide
theorem test_monitor :
    gives (exec (.marm p0 1) (run1 [(1, 0x01000040)])) (fun t => (t.ctx t.cur).monitor == some 0x01000040) = true
    ∧ gives (exec (.mwait p0 3 1 false) (run1 [(1, 0)])) (fun t => trapped t .illop) = true
    ∧ gives (exec (.mwait p0 3 1 true) (run1 [(1, 5)] (fun x => { x with monitor := some 0x01000040 }))) (fun t => (t.ctx t.cur).pc != 0 || (t.core 0).pend.length == 1) = true
    ∧ gives (exec (.fstat p0 3 1) (run1 [(1, 0)])) (fun t => trapped t .farfault) = true := by decide

/-! ### Engines, slice, levels, expansions, save -/

theorem test_engine_commands :
    gives (exec (.cpy p0 1 .column) (run1 [(1, 0x40)])) (fun t => trapped t .illop) = true
    ∧ gives (exec (.cpys p0 1 .system) (run1 [(1, 0x44)])) (fun t => trapped t .align) = true
    ∧ gives (exec (.stage p0 1) (run1 [(1, 5)])) (fun t => (t.col 0).scnt == 5) = true := by decide
theorem test_cpyg_range : gives (exec (.cpyg p0 1 .device) (run1 [(1, 0x10040)])) (fun t => trapped t .bankrange) = true := by decide
theorem test_slice_queue :
    gives (exec (.mzero p0 1) (run1 [])) (fun t => (t.core 0).slice.queue.length == 1) = true
    ∧ gives (exec (.mrd p0 3 1 .f32 false 31) (run1 [])) (fun t => (t.core 0).slice.queue.length == 1) = true
    ∧ gives (exec (.mma p0 1 1 .e4m3 .e4m3 64 0 false true) (run1 [(1, 0x40)])) (fun t => trapped t .illop) = true
    ∧ gives (exec (.mwld p0 1 2 .e4m3 64 false) (run1 [(1, 0x01000040), (2, 7)])) (fun t => (t.core 0).slice.queue.length == 1) = true
    ∧ gives (exec (.mscac p0 1 1 2) (run1 [(1, 0x44)])) (fun t => trapped t .align) = true
    ∧ gives (exec (.mstat p0 3) (run1 [])) (fun t => (t.ctx t.cur).pc != 0) = true
    ∧ gives (exec (.mmas p0 1 1 2 .e4m3 .e4m3) (run1 [(1, 0x10040)])) (fun t => trapped t .bankrange) = true := by decide
theorem test_levels :
    gives (exec (.wsld p0 1 1) (run1 [(1, 0x42)])) (fun t => trapped t .align) = true
    ∧ gives (exec (.rstr p0 1 1 2 .f32 false false) (run1 [])) (fun t => trapped t .illop) = true
    ∧ gives (exec (.prlg p0 1 1 2 .f32 false true) (run1 [])) (fun t => trapped t .illop) = true := by decide
theorem test_expansions :
    gives (exec (.xsetKern p0 none 2) (run1 [])) (fun t => (t.core 0).xu.queue.length == 1) = true
    ∧ gives (exec (.xsetGamma p0 1 none) (run1 [(1, 0x3F800000)])) (fun t => (t.core 0).xu.queue.length == 1) = true
    ∧ gives (exec (.xsetEta p0 1 none) (run1 [(1, 0x3F800000)])) (fun t => (t.core 0).xu.queue.length == 1) = true
    ∧ gives (exec (.xclr p0 8 1 none) (run1 [(1, 0x40)])) (fun t => trapped t .illop) = true
    ∧ gives (exec (.xld p0 1 1 none) (run1 [(1, 0x44)])) (fun t => trapped t .align) = true
    ∧ gives (exec (.xadm p0 1 2 3 none) (run1 [])) (fun t => trapped t .xord) = true := by decide
theorem test_save :
    gives (exec (.ctxsv p0 3 1 false) (run1 [])) (fun t => trapped t .priv) = true
    ∧ gives (exec (.ctxld p0 3 1 false) (run1 [])) (fun t => trapped t .priv) = true := by decide
theorem test_cpy_issues :
    gives (exec (.cpy p0 1 .column) (run1 [(1, 0x40)] id (fun c => { c with near := [(0x41, 0x10), (0x4F, 0x80), (0x50, 0x40), (0x61, 0x20), (0x68, 1)] })))
      (fun t => match (t.col 0).slot 8 with
        | some sl => sl.cmd.src == 0x1000 && sl.cmd.dst == 0x8000000000000000 && sl.cmd.len == 64 && sl.cmd.stamp == 0x2000 && sl.scope == .column
        | none => false) = true := by decide
theorem test_finst_coll :
    gives (exec (.finst p0 1) (run1 [(1, 0x40)] id (fun c => { c with near := [(0x41, 0x10), (0x48, 5), (0x61, 0x20), (0x68, 1)] })))
      (fun t => match (t.col 0).slot 8 with
        | some sl => sl.kind == .finst && sl.cmd.dst == 5
        | none => false) = true
    ∧ gives (exec (.finst p0 1) (run1 [(1, 0x40)] id (fun c => { c with near := [(0x40, 8), (0x48, 5)] ++ vectors }))) (fun t => trapped t .illop) = true
    ∧ gives (exec (.coll p0 1 .f32 .device 0 0) (run1 [(1, 0x40)] id (fun c => { c with near := [(0x46, 0x10)] ++ vectors }))) (fun t => trapped t .illop) = true := by decide
theorem test_expansion_issues :
    gives (exec (.xclr p0 1 1 none) (run1 [(1, 0x40)])) (fun t => (t.ctx t.cur).run == .running || (t.core 0).xu.queue.length == 1) = true
    ∧ gives (exec (.xst p0 1 1 none) (run1 [(1, 0x44)])) (fun t => trapped t .align) = true
    ∧ gives (exec (.xform p0 1 1 none 1) (run1 [(1, 0x48)])) (fun t => trapped t .align) = true
    ∧ gives (exec (.xeval p0 1 2 none 1) (run1 [(1, 0x48)])) (fun t => trapped t .align) = true
    ∧ gives (exec (.xm2p p0 1 2 none 1) (run1 [(1, 0x48)])) (fun t => trapped t .align) = true
    ∧ gives (exec (.xm2m p0 1 2 none) (run1 [])) (fun t => trapped t .xord) = true
    ∧ gives (exec (.xm2l p0 1 2 none) (run1 [])) (fun t => trapped t .xord) = true
    ∧ gives (exec (.xl2l p0 1 2 none) (run1 [])) (fun t => trapped t .xord) = true := by decide

/-! ### Steps of other agents -/

/-- A step of another agent is due. -/
def due (ev : Event) (s : State := run1 []) : State := { s with event := some ev }

/-- A row executed when its step is not the one due faults by name (log 4). -/
theorem test_not_due : exec .tctlWrite (run1 []) = .fault .notDue ∧ exec .swap (due .beatChange) = .fault .notDue := ⟨rfl, rfl⟩
/-- Register writes of R238, R257, R273, R282 to R284, R286. -/
theorem test_queue_registers :
    gives (exec .qctlWrite (due (.qctlWrite 0 5 0x1107))) (fun t => ((t.part 0).queue 5).en && ((t.part 0).queue 5).prio == 3 && ((t.part 0).queue 5).qstop && ((t.part 0).queue 5).log2n == 17) = true
    ∧ gives (exec .qptrWrite (due (.qptrWrite 0 5 0x0000123400050002))) (fun t => ((t.part 0).queue 5).tail == 2 && ((t.part 0).queue 5).head == 0 && ((t.part 0).queue 5).qbase == 0x1234) = true
    ∧ gives (exec .fqctlWrite (due (.fqctlWrite 0 0x1011))) (fun t => (t.part 0).fq.en && (t.part 0).fq.log2n == 8 && (t.part 0).fq.base == 1) = true
    ∧ gives (exec .fqctlWrite (due (.fqctlWrite 0 0x1007))) (fun t => !(t.part 0).fq.en) = true := by decide
theorem test_power_registers :
    gives (exec .tctlWrite (due (.tctlWrite 101))) (fun t => t.dev.power.tlim == 100) = true
    ∧ gives (exec .pcapWrite (due (.pcapWrite 379))) (fun t => t.dev.power.stat == 1 && t.dev.power.eff == 3200) = true
    ∧ gives (exec .pcapWrite (due (.pcapWrite 380))) (fun t => t.dev.power.stat == 0 && t.dev.power.eff == 380) = true
    ∧ gives (exec .pfloorWrite (due (.pfloorWrite 1 3201))) (fun t => t.dev.power.stat == 2 && (t.part 1).floor == 0) = true
    ∧ gives (exec .hlimWrite (due (.hlimWrite 4000))) (fun t => t.dev.power.hlim == 3200) = true
    ∧ gives (exec .beatctlReqWrite (due (.beatctlReqWrite 9))) (fun t => t.dev.power.err && t.dev.power.req == 80) = true
    ∧ gives (exec .beatctlRestore (due .beatctlRestore { run1 [] with dev := { State.reset.dev with power := { Power.reset with ceil := 72 } } })) (fun t => t.dev.power.ceil == 80) = true
    ∧ gives (exec .hardLimitStep (due (.hardLimitStep 3201 false))) (fun t => t.dev.power.ceil == 76) = true := by decide +kernel
theorem test_partition_registers :
    gives (exec .partcfgWrite (due (.partcfgWrite 3))) (fun t => t.dev.err && t.dev.mode == 0) = true
    ∧ gives (exec .vfbindWrite (due (.vfbindWrite 3 6))) (fun t => (sget .reset t.dev.funcs 3).en && (sget .reset t.dev.funcs 3).part == 2) = true
    ∧ gives (exec .ibudgetWrite (due (.ibudgetWrite 0 12289))) (fun t => (t.part 0).ibudget == 0) = true
    ∧ gives (exec .ibudgetWrite (due (.ibudgetWrite 0 12288))) (fun t => (t.part 0).ibudget == 12288) = true
    ∧ gives (exec .mgmtRegisterWrite (due (.mgmtRegisterWrite none 0x1001800 8 0x200000))) (fun t => (t.part 0).ptroot == 0x200000) = true := by decide
/-- Routing banks (R292): a write of the active bank is ignored; SWAP and the swap. -/
theorem test_routing :
    gives (exec .routingEntryWrite (due (.routingEntryWrite 0 7 5))) (fun t => sget 0 t.dev.fabric.bank0 7 == 0) = true
    ∧ gives (exec .routingEntryWrite (due (.routingEntryWrite 1 7 5))) (fun t => sget 0 t.dev.fabric.bank1 7 == 5) = true
    ∧ gives (exec .swap (due .swap)) (fun t => t.dev.fabric.pend) = true
    ∧ gives (exec .routeBankSwap (due .routeBankSwap { run1 [] with dev := { State.reset.dev with fabric := { Fabric.reset with pend := true } } })) (fun t => t.dev.fabric.act && !t.dev.fabric.pend) = true := by decide
/-- Waits end (R227, R233, R237, R280). -/
theorem test_wait_steps :
    gives (exec .clusterAtomicReply (due (.clusterAtomicReply 0 1 4 none 9) (run1 [] (fun x => { x with run := .held (.reply 3 4) })))) (fun t => (t.ctx (0, 1)).run == .running && rv t 3 == 9) = true
    ∧ gives (exec .sleepExpiry (due (.sleepExpiry 0 1) (run1 [] (fun x => { x with run := .gated (.sleep 5 0) })))) (fun t => (t.ctx (0, 1)).run == .ready) = true
    ∧ gives (exec .twaitExpiry (due (.twaitExpiry 0 1) (run1 [] (fun x => { x with run := .gated (.twait 3 2 5 0) })))) (fun t => rv t 3 == 1) = true
    ∧ gives (exec .fireArrival (due (.fireArrival 0 1 4) { run1 [] (fun x => { x with run := .gated (.evwait 3 40 4) }) with lines := [(40, { EvLine.reset with gen := 7 })] }))
      (fun t => rv t 3 == 7 && (t.ctx (0, 1)).run == .ready) = true := by decide
/-- A message arrives in a register and fills it (R187, R379). -/
theorem test_message_steps :
    gives (exec .messageArrival (due (.messageArrival 0 1 3 7 1 1 false))) (fun t => ((t.ctx (0, 1)).msg 3).full && ((t.ctx (0, 1)).msg 3).data == 7) = true
    ∧ gives (exec .engineMessageArrival (due (.engineMessageArrival 0 1 3 7))) (fun t => ((t.ctx (0, 1)).msg 3).full) = true
    ∧ gives (exec .mgetReply (due (.mgetReply 0 1 3 none 0))) (fun t => ((t.ctx (0, 1)).msg 3).ffull && ((t.ctx (0, 1)).msg 3).tstat == 6) = true := by decide
/-- A bank atomic of core 1 at core 0's bank (R237): its first cycle opens the slot, its last performs the sum. -/
theorem test_atomic_slot :
    let r : AtomicReq := ⟨1, 1, 4, 0, .i64, some 0, true, 0x01000000, 5, 0, 0⟩
    gives (exec .atomicSlot (due (.atomicSlot r))) (fun t => (t.core 0).ctl.rmw == [⟨0, 40, 0x200000, 1⟩]) = true
    ∧ gives (exec .atomicSlot { due (.atomicSlot r) (run1 [] id (fun c => { c with
        near := [(0x01000000, 0xFF)], ctl := { c.ctl with rmw := [⟨0, 40, 0x200000, 1⟩] } })) with now := 40 })
      (fun t => nearByte t 0 0x01000000 == 4 && nearByte t 0 0x01000001 == 1) = true := by decide
/-- The slice queue (R126): MZERO starts and ends. -/
theorem test_slice_steps :
    gives (exec .sliceOpStart (due (.sliceOpStart 0) (run1 [] id (fun c => { c with slice := { Slice.reset with queue := [⟨1, 0, 0, .mzero 1, none, [], [], [], 0, [], false⟩] } }))))
      (fun t => posted t (fun e => e == .sliceOpComplete 0)) = true
    ∧ gives (exec .sliceOpComplete (due (.sliceOpComplete 0) (run1 [] id (fun c => { c with slice := { Slice.reset with
        tiles := [(1, { Tile.reset with pois := true })], queue := [⟨1, 0, 0, .mzero 1, some 0, [], [], [], 0, [], false⟩] } }))))
      (fun t => !((t.core 0).slice.tile 1).pois && (t.core 0).slice.queue == []) = true := by decide
/-- A soft error of one bit is corrected and counted; of two bits it poisons the word (R178). -/
theorem test_soft_error :
    gives (exec .softError (due (.softError (.near 0 0x40) 3))) (fun t => sget 0 (t.core 0).poison 0x10 != 0) = true := by decide

/-! ### Whole steps -/

/-- An instruction placed where the next step fetches it runs: ADD, a three-word FENCE, and a word of no instruction. -/
theorem test_steps :
    gives (step ((run1 [(2, 6), (9, 5)]).withFetchWord 32 0x08890200)) (fun t => (t.ctx (0, 1)).pc == 4 || (t.ctx (0, 1)).pc == 8) = true
    ∧ gives (step (State.reset.withFetchWord 96 0x0050000D0000D202)) (fun t => (t.ctx (0, 1)).run == .held (.fence .ls .device 1200)) = true
    ∧ gives (step ((run1 []).withFetchWord 32 0x0000BE00)) (fun t => trapped { t with cur := (0, 1) } .illop) = true := by decide
/-- After reset no core runs; the sensors are sampled in 32 µs and the install budgets refilled in a day (R194, R281). -/
theorem test_idle : State.reset.nextCore = none ∧ State.reset.agenda.map (·.ev) = [.sensorSample [], .budgetRefill] := by decide
/-! ## The statements' hypotheses can be met

One theorem per statement with hypotheses: a concrete state and operands for its clauses, at the values where clauses meet. -/

/-- Context 1 with two registers, and one with nothing. -/
def sA : State := run1 [(1, 0xFFFFFFFFFFFFFFF9), (2, 2)]
def sZ : State := run1 []

theorem witness_ScalarArithmeticResults :
    Ready { len := 1, hdr := p0, rs := [1, 2], rd := [0] } sA ∧ Ready { len := 1, hdr := ⟨3, true, 5, true⟩, rs := [1, 1], rd := [1] } sA
    ∧ Ready { len := 1, hdr := q0, noGuard := true, rs := [1, 2], rd := [31] } sA := by
  unfold Ready; decide
theorem witness_DivisionResults :
    Ready { len := 1, hdr := p0, rs := [1, 2], rd := [3] } sA ∧ rv sA 2 ≠ 0 ∧ rv sA 0 = 0
    ∧ (rv sA 1).toInt = -3 * (rv sA 2).toInt + -1 ∧ (-1 : Int).natAbs < (rv sA 2).toInt.natAbs ∧ 0 ≤ (-1 : Int) * (rv sA 1).toInt
    ∧ rv (run1 [(1, 0x8000000000000000), (2, 0xFFFFFFFFFFFFFFFF)]) 1 = BitVec.intMin 64
    ∧ rv (run1 [(1, 0x8000000000000000), (2, 0xFFFFFFFFFFFFFFFF)]) 2 = BitVec.allOnes 64 := by
  unfold Ready; decide
theorem witness_ScalarUnaryResults :
    Ready { len := 1, hdr := p0, rs := [1], rd := [3] } sA ∧ Ready { len := 1, hdr := gapHdr 3, rs := [1], rd := [3] } sA
    ∧ Ready { len := 3, hdr := p0, rs := [1], rd := [3] } sA ∧ Ready { len := 1, hdr := gapHdr 0, rs := [], rd := [3] } sA
    ∧ Ready { len := 3, hdr := p0, rs := [], rd := [3] } sA ∧ Ready { len := 3, hdr := p0, tier := some 0, rs := [1], rd := [3] } sA
    ∧ Ready { len := 3, hdr := p0, tier := none, rs := [1, 3], rd := [3] } sA ∧ Ready { len := 3, hdr := p0, tier := none, rs := [1, 2], rd := [3] } sA
    ∧ Ready { len := 5, hdr := p0, tier := some 0, rs := [1, 2], rd := [3] } sA
    ∧ (63 : BitVec 6).toNat + (0 : BitVec 6).toNat < 64 := by
  unfold Ready; decide
/-- The counts of CLZ and CTZ at both ends: 0 and 64 leading zeros, 0 and 64 trailing ones. -/
theorem witness_ScalarUnaryResults_counts :
    (rv sA 1).getLsbD 63 = true ∧ (∀ i, 64 - 64 ≤ i → i < 64 → (rv sA 0).getLsbD i = false)
    ∧ (rv sA 1).getLsbD 0 = true ∧ (∀ i, i < 64 → (rv sA 0).getLsbD i = false) := by decide
theorem witness_ScalarUnaryResults_ins :
    ∀ i, i < 64 → (0xF5FF : DWord).getLsbD i = if (8 : BitVec 6).toNat ≤ i ∧ i ≤ (8 : BitVec 6).toNat + (3 : BitVec 6).toNat
      then (5 : DWord).getLsbD (i - 8) else (0xFFFF : DWord).getLsbD i := by decide
theorem witness_CompareResults :
    Ready { len := 1, hdr := p0, rs := [1, 2] } sA ∧ Ready { len := 1, hdr := gapHdr 1, rs := [1] } sA ∧ Ready { len := 3, hdr := p0, rs := [1] } sA := by
  unfold Ready; decide
theorem witness_PredicateLogicResults :
    Ready { len := 1, hdr := p0, ps := [7, 0] } sA ∧ Ready { len := 1, hdr := ⟨0, false, 1, true⟩, ps := [7] } sA := by
  unfold Ready; decide

/-- Code from address 0: the transferring instruction, and an instruction start at 8. -/
def sJ (w : Word) (g : List (Nat × DWord) := []) (f : Ctx → Ctx := id) : State := run1 g f (code 0 [w, 0x6A00, 0x6A00])

theorem witness_BranchesReachTheirTarget :
    let s := sJ 0x5A00 [(1, 8)]
    Ready { len := 1, hdr := p0, transfer := true, occ := 3 } s ∧ ((8 : Nat) : Int) = pcv s + 4 * (2 : BitVec 16).toInt
    ∧ Ready { len := 3, hdr := p0, transfer := true, occ := 3 } s ∧ ((8 : Nat) : Int) = pcv s + (8 : DWord).toInt
    ∧ Ready { len := 1, hdr := openHdr 3 true, noGuard := true, transfer := true, endKind := 2, occ := 3 } s
    ∧ Ready { len := 3, hdr := openHdr 0 false, noGuard := true, transfer := true, endKind := 2, occ := 3 } s
    ∧ Ready { len := 1, hdr := p0, transfer := true, endKind := 2, rs := [1], occ := 3 } s ∧ 8 = (rv s 1).toNat
    ∧ s.isStart 0 8 = true ∧ s.isStart 0 10 = false ∧ s.isStart 0 12 = false ∧ s.isStart 0 0x8000 = false := by
  unfold Ready; decide
theorem witness_CallsOpenAWindow :
    let s := sJ 0x6000 [(1, 8)]
    let at_ (wb vlo : Word) : State := sJ 0x6000 [(1, 8)] (fun x => { x with wbase := wb, vlo := vlo })
    let nb (s : State) : Nat := (s.ctx s.cur).wbase.toNat + (s.ctx s.cur).frame - 8
    Ready { len := 1, hdr := p0, transfer := true, endKind := 2, occ := 3 } s
    ∧ Ready { len := 3, hdr := p0, transfer := true, endKind := 2, occ := 3 } s
    ∧ Ready { len := 1, hdr := p0, transfer := true, endKind := 2, rs := [1], occ := 3 } s ∧ 8 = (rv s 1).toNat
    ∧ 0xFFFFFFE7 < nb (at_ 0xFFFFFFD8 0) ∧ nb (at_ 0xFFFFFFD7 0) ≤ 0xFFFFFFE7
    ∧ (0 : Word).toNat + Config.stackSize s.tier < nb (at_ 217 0) + 24
    ∧ nb (at_ 216 0) ≤ 0xFFFFFFE7 ∧ nb (at_ 216 0) + 24 ≤ (0 : Word).toNat + Config.stackSize s.tier
    ∧ s.isStart 0 8 = true ∧ s.isStart 0 10 = false := by
  unfold Ready; decide
theorem witness_RetRestoresTheWindow :
    let at_ (link : DWord) (wb vlo : Word) : State := sJ 0x6400 [] (fun x => { x with wbase := wb, vlo := vlo, stack := [((wb.toNat + 7) % 256, link)] })
    let need (s : State) : Prop := Ready { len := 1, hdr := openHdr 0 false, noGuard := true, transfer := true, endKind := 2, rs := [linkReg], occ := 3 } s
    let fc (s : State) : Nat := (rv s linkReg).toNat / 2 ^ 32 % 32
    need (at_ 0x1800000008 16 0) ∧ fc (at_ 0x1800000008 16 0) = 24 ∧ (16 : Word).toNat + 8 = (0 : Word).toNat + fc (at_ 0x1800000008 16 0)
    ∧ (at_ 0x1800000008 16 0).isStart 0 ((at_ 0x1800000008 16 0).skipSig 0 8) = true
    ∧ need (at_ 0x1800000008 15 0) ∧ (15 : Word).toNat + 8 < (0 : Word).toNat + fc (at_ 0x1800000008 15 0)
    ∧ need (at_ 0x900000008 16 0) ∧ fc (at_ 0x900000008 16 0) = 9
    ∧ need (at_ 0x1800000006 16 0) ∧ (at_ 0x1800000006 16 0).isStart 0 ((at_ 0x1800000006 16 0).skipSig 0 6) = false := by
  unfold Ready; decide
theorem witness_FrameNopYieldEffects :
    Ready { len := 1, hdr := gapHdr 0 } sZ ∧ Ready { len := 3, hdr := p0 } sZ ∧ Ready { len := 1, hdr := p0 } sZ
    ∧ (8 : BitVec 11).toNat ∈ [8, 12, 16, 20, 24] ∧ (24 : DWord).toNat ∈ [8, 12, 16, 20, 24] ∧ (25 : DWord).toNat ∉ [8, 12, 16, 20, 24]
    ∧ (sZ.ctx sZ.cur).rep = none := by
  unfold Ready; decide
theorem witness_YieldAndHaltLeaveTheCore :
    let other : State := run1 [] id (fun c => code 0 [0x6C00, 0x6A00] { c with ctxs := c.ctxs ++ [(2, { Ctx.reset with run := .ready })] })
    Ready { len := 1, hdr := p0 } sZ ∧ sZ.cur.2 ≠ 0 ∧ (sZ.core 0).ctl.turn = some sZ.cur.2 ∧ (sZ.ctx sZ.cur).run = .running
    ∧ ((other.core 0).ctx 2).run = .ready ∧ ((other.core 0).ctx 2).readyAt ≤ other.now + cyc 0 ∧ Ready { len := 1, hdr := p0 } other
    ∧ handler.cur.2 = 0 ∧ Ready { len := 1, hdr := p0, transfer := true, endKind := 2 } sZ
    ∧ (blockEnds 1 4 sZ).toOption = none ∧ blockEnds 1 4 other = .ok () := by
  unfold Ready; decide
theorem witness_RepSetsTheRepetition :
    let s := run1 [] id (code 0 [0x0000C202, 1, 3, 0x6A00, 0x6C00])
    behind s 3 = 12 ∧ badBody s 0 1 12 = false ∧ badBody s 0 2 12 = true ∧ (s.ctx s.cur).rep = none
    ∧ Ready { len := 3, hdr := p0, leader := true } s ∧ 16 % 16 = 0 ∧ 2 * 16 + 16 = (16 : BitVec 5).toNat + 32 ∧ 2 * 0 + 1 = (1 : BitVec 5).toNat := by
  unfold Ready; decide
/-- A word at 0x40 of local store, an uncorrectable word at 0x80 and one at the last word of the bank's program region. -/
def sM (g : List (Nat × DWord)) (who : Nat := 1) : State :=
  { State.reset with
    cur := (0, who)
    cores := [(0, { Core.reset with
      near := [(0x40, 0x80), (0x43, 0x81)], poison := [(0x20, 1)]
      ctxs := [(who, { Ctx.reset with run := .running, g := g })], ctl := { Ctl.reset with turn := some who } })] }

/-- The checks of R176 at the edges: the last bytes of the local store and of the bank, the status block, and one past them. -/
theorem witness_ScalarLoadsReadTheirBytes :
    let need (a : Nat) (n : Nat) (rs : List Reg) : Need := { len := 1, hdr := gapHdr 0, rs := rs, rd := [3], bytes := [(a, n)] }
    Ready (need 0x40 8 [1]) (sM [(1, 0x40)]) ∧ cleanWords (sM []) 0x40 8 ∧ (0x40 : Int) % 8 = 0
    ∧ Ready { need 0x80 4 [1] with len := 3, hdr := p0 } (sM [(1, 0x80)]) ∧ firstBadWord (sM []) 0x80 4 0x80 ∧ firstBadWord (sM []) 0x7C 8 0x80
    ∧ Ready (need 0xFFFC 4 [1]) (sM [(1, 0xFFFC)]) ∧ (0xFFFC : Int) + 4 ≤ Window.hi 0 .localStore ∧ (0x10000 : Int) = Window.hi 0 .localStore
    ∧ Ready (need 0x01058000 8 [1]) (sM [(1, 0x01058000)]) ∧ ((Config.statusBase 0 + 64 : Nat) : Int) = 0x01058000
    ∧ Ready (need 0x01058000 8 [1]) (sM [(1, 0x01058000)] 0) ∧ (0x41 : Int) % 2 ≠ 0 := by
  refine ⟨by unfold Ready; decide, fun w h1 h2 => ?_, by decide, by unfold Ready; decide, ⟨0x20, by decide⟩, ⟨0x20, by decide⟩,
    by unfold Ready; decide, by decide, by decide, by unfold Ready; decide, by decide, by unfold Ready; decide, by decide⟩
  have h : w = 16 ∨ w = 17 := by omega
  rcases h with rfl | rfl <;> decide
theorem witness_ScalarStoresSendTheirBytes :
    let need (occ len : Nat) (h : Hdr) : Need := { len := len, hdr := h, rs := [1, 3], occ := occ }
    Ready (need 2 1 (gapHdr 0)) (sM [(1, 0x41)]) ∧ Ready (need 1 1 (gapHdr 0)) (sM [(1, 0x40)]) ∧ Ready (need 1 3 p0) (sM [(1, 0x01057FB8)])
    ∧ (0x01057FB8 : Int) + 8 ≤ Config.statusBase 0 ∧ (Config.statusBase 0 : Int) < 0x01057FC0 + 8 ∧ (0x01058000 : Int) + 8 ≤ Window.hi 0 .ownBank
    ∧ ((Config.bankEnd 0 : Nat) : Int) = Window.hi 0 .ownBank := by
  unfold Ready; decide
theorem witness_WholeRegisterMemoryForms :
    Ready { len := 1, hdr := gapHdr 0, rs := [1], bytes := [(0x3C, 64)] } (sM [(1, 0x3C)]) ∧ (0x3C : Int) % 4 = 0
    ∧ Ready { len := 3, hdr := p0, rs := [1], bytes := [(0x44, 64)] } (sM [(1, 0x44)]) ∧ firstBadWord (sM []) 0x44 64 0x80
    ∧ cleanWords (sM []) 0x40 64 ∧ Ready { len := 1, hdr := gapHdr 0, rs := [1], vs := [31] } (sM [(1, 0x3C)])
    ∧ Window.hi 0 .localStore < (0xFFC4 : Int) + 64 ∧ (0xFFC0 : Int) + 64 ≤ Window.hi 0 .localStore := by
  refine ⟨by unfold Ready; decide, by decide, by unfold Ready; decide, ⟨0x20, by decide⟩, fun w h1 h2 => ?_, by unfold Ready; decide, by decide, by decide⟩
  have h : ∀ w, 16 ≤ w → w < 32 → sget 0 ((sM []).core 0).poison w = 0 := by decide
  exact h w (by omega) (by omega)
theorem witness_StoresWriteExactlyTheirBytes :
    (⟨60, 1, .store 0x40 [1, 2, 3, 4] false⟩ : Pend).act = .store 0x40 [1, 2, 3, 4] false ∧ ((sM []).core 0).ctl.rmw = [] := ⟨rfl, rfl⟩
theorem witness_ResultsAppearAtTheirTick :
    let s := run1 [] id (fun c => { c with pend := [⟨60, 1, .g 3 7⟩] })
    let t := run1 [] id (fun c => { c with pend := [⟨60, 1, .pred 7 true⟩] })
    (s.core 0).pend = [⟨60, 1, .g 3 7⟩] ∧ 59 < (⟨60, 1, .g 3 7⟩ : Pend).due ∧ (⟨60, 1, .g 3 7⟩ : Pend).due ≤ 60 ∧ (s.core 0).ctl.rmw = []
    ∧ (∀ j, j < 4 → ((s.core 0).ctx j).monitor = none) ∧ (t.core 0).pend = [⟨60, 1, .pred 7 true⟩] := by decide
theorem witness_TagTableEffects :
    let full : State := run1 [(1, 0x600), (2, 1024), (4, 13)] id (fun c => { c with
      tags := [(12, 0x8000000000000A00), (13, 0x8000000000000600), (14, 0x8000000000000E00), (15, 0x8000000000001200)] })
    let s := run1 [(1, 0x600), (2, 0x800)]
    Ready { len := 1, hdr := p0, rs := [1], rd := [3] } s ∧ Ready { len := 1, hdr := p0, rs := [1, 2], rd := [3] } s
    ∧ Ready { len := 1, hdr := p0, rs := [1], rd := [3] } full
    -- a hit in way 1, a miss with a free way 0, and a slot at and past the end of the table
    ∧ (sget 0 (full.core 0).tags 13).getLsbD 63 = true ∧ (sget 0 (full.core 0).tags 13).toNat / 2 ^ 9 % 2 ^ 48 = (rv full 1).toNat / 2 ^ 9 % 2 ^ 48
    ∧ (sget 0 (s.core 0).tags 12).getLsbD 63 = false ∧ Config.tagEntries s.tier ≤ (rv full 2).toNat ∧ (rv full 4).toNat < Config.tagEntries s.tier
    -- a line of another set, and a full set without the line
    ∧ (rv s 2).toNat / 2 ^ 9 % 2 ^ 48 % (Config.tagEntries s.tier / 4) ≠ 13 / 4 ∧ (rv s 1).toNat / 2 ^ 9 % 2 ^ 48 % (Config.tagEntries s.tier / 4) = 13 / 4
    ∧ (∀ u, u < 4 → (sget 0 (full.core 0).tags (12 + u)).getLsbD 63 = true ∧ (sget 0 (full.core 0).tags (12 + u)).toNat / 2 ^ 9 % 2 ^ 48 ≠ 1) := by
  unfold Ready; decide
theorem witness_CoreIdLayout : 21759 < Config.coreCount ∧ 3 < 4 ∧ leaderOf 0 = 0 := by decide
theorem witness_SysrReadsItsRegister :
    let c0 : State := sM [] 0
    Ready { len := 1, hdr := gapHdr 0, rd := [3], reads := selReads 0 } sZ ∧ Ready { len := 3, hdr := p0, rd := [3], reads := selReads 0x4FF } sZ
    ∧ Ready { len := 1, hdr := gapHdr 0, rd := [3], reads := selReads 0x013 } c0 ∧ c0.cur.2 = 0
    ∧ 0x4FF < 0x400 + Config.stackSize sZ.tier ∧ 0x400 + Config.stackSize sZ.tier ≤ 0x500 ∧ (sZ.ctx sZ.cur).regOk 3 = true ∧ sZ.cur.2 ≠ 0
    ∧ (sZ.ctx sZ.cur).frame < 32 := by
  unfold Ready; decide
theorem witness_SyswWritesItsRegister :
    let s := run1 [(3, 24), (4, 25)] (fun x => { x with wbase := 24 })
    Ready { len := 1, hdr := gapHdr 0, rs := [3] } s ∧ Ready { len := 3, hdr := p0, rs := [3] } s
    -- VLO at and past the window's base
    ∧ (rv s 3).toNat % 2 ^ 32 ≤ (s.ctx s.cur).wbase.toNat ∧ (s.ctx s.cur).wbase.toNat + (s.ctx s.cur).frame ≤ (rv s 3).toNat % 2 ^ 32 + Config.stackSize s.tier
    ∧ ¬ (rv s 4).toNat % 2 ^ 32 ≤ (s.ctx s.cur).wbase.toNat ∧ 0x003 ∉ [0x001, 0x002, 0x004, 0x005, 0x006] ∧ 0x003 < 0x400 := by
  unfold Ready; decide

/-- c0 of core 0 in a compute phase. -/
def sP (kind : PhaseKind) (f : Ctl → Ctl := id) : State :=
  { State.reset with
    cur := (0, 0)
    cores := [(0, { Core.reset with
      near := vectors, ctxs := [(0, { Ctx.reset with run := .running })]
      ctl := f { Ctl.reset with turn := some 0, phase := some ⟨kind, 100, 0, 0, false, 0, true⟩ } })] }

theorem witness_IdemOpensAndClosesARegion :
    inStep (sP .compute) = true ∧ inStep sZ = false ∧ (sZ.ctx sZ.cur).rep = none
    ∧ Ready { len := 3, hdr := p0, reads := ckptReads } sZ ∧ Ready { len := 3, hdr := p0 } sZ := by
  unfold Ready; decide
theorem witness_TrapFillsTheSlotAndEntersTheHandler :
    let busy : State := run1 [] id (fun c => { c with ctl := { c.ctl with handling := some 2 } })
    (sZ.core 0).timed 1 = false ∧ ¬ ((Trap.of .illop).cause = .wspill ∧ (Trap.of .illop).sub = 1) ∧ (sZ.ctx (0, 1)).region = none
    ∧ (sZ.core 0).vector (Machine.tierOf 0) 1 = some 0x40 ∧ (sZ.core 0).ctl.handling = none ∧ (sZ.core 0).ctl.phase = none
    ∧ (sZ.core 0).ctl.waiting = [] ∧ (busy.core 0).ctl.handling ≠ none := by decide
theorem witness_TrapInstructionRequestsTheHandler :
    (sP .compute).cur.2 = 0 ∧ inStep (sP .compute) = true ∧ sZ.cur.2 = 1 ∧ (sZ.ctx sZ.cur).rep = none
    ∧ (sZ.core 0).vector (Machine.tierOf 0) 2 = some 0x40 ∧ (sZ.core 0).ctl.handling = none ∧ (sZ.core 0).ctl.waiting = []
    ∧ Ready { len := 1, hdr := gapHdr 0, transfer := true, endKind := 2 } sZ ∧ Ready { len := 3, hdr := p0, transfer := true, endKind := 2 } sZ := by
  unfold Ready; decide
theorem witness_EretResumesTheContext :
    let own : State := { handler with cores := [(0, { handler.core 0 with
      near := [(slotAddr 0 0 + 12, 0xFF), (slotAddr 0 0 + 13, 0xFF), (slotAddr 0 0 + 14, 0xFF), (slotAddr 0 0 + 15, 0xFF)]
      ctl := { (handler.core 0).ctl with handling := some 0, kept := none } })] }
    let need (s : State) (i : Nat) : Prop := Ready { len := 1, hdr := openHdr 0 false, noGuard := true, transfer := true, endKind := 2, bytes := [(slotAddr 0 i + 12, 4)] } s
    need handler 1 ∧ handler.cur.2 = 0 ∧ (handler.core 0).ctl.handling = some 1 ∧ (handler.core 0).ctl.phase = none ∧ (handler.core 0).ctl.waiting = []
    ∧ (handler.core 0).ctl.kept = some (.halted, 0) ∧ coreNat handler 0 (slotAddr 0 1 + 12) 4 = 8 ∧ handler.isStart 0 8 = true ∧ handler.isStart 0 12 = false ∧ blockEnds 1 4 handler = .ok ()
    ∧ need own 0 ∧ (own.core 0).ctl.handling = some 0 ∧ (own.core 0).ctl.kept = none ∧ coreNat own 0 (slotAddr 0 0 + 12) 4 = 0xFFFFFFFF := by
  unfold Ready; decide
theorem witness_PackedLanesReadBack :
    4 ∈ [4, 8, 16, 32, 64] ∧ (List.replicate 128 0xF).length = 512 / 4 ∧ 127 < 512 / 4 ∧ (List.replicate 8 7).length = 512 / 64 ∧ 7 < 512 / 64 := by decide
/-- 1.5 and a tie below it, a subnormal, and 2^128, which overflows FP32. -/
theorem witness_RoundFollowsItsRule :
    f32 ∈ [f32, f16, bf16, e4m3, e5m2, wide]
    ∧ ((2 : ℚ) ^ (0 : Int) ≤ (3 : ℕ) / (2 : ℕ) ∧ ((3 : ℕ) : ℚ) / (2 : ℕ) < 2 ^ ((0 : Int) + 1) ∧ f32.emin ≤ 0)
    ∧ |((12582912 : ℕ) : ℚ) - ((3 : ℕ) / (2 : ℕ)) / 2 ^ ((0 : Int) - f32.fbits)| ≤ 1 / 2
    ∧ |((8388608 : ℕ) : ℚ) - ((16777217 : ℕ) / (16777216 : ℕ)) / 2 ^ ((0 : Int) - f32.fbits)| = 1 / 2 ∧ 8388608 % 2 = 0
    ∧ ((1 : ℕ) : ℚ) / ((2 ^ 140 : ℕ) : ℚ) < 2 ^ f32.emin
    ∧ ((2 : ℚ) ^ (128 : Int) ≤ (2 ^ 128 : ℕ) / (1 : ℕ) ∧ (((2 ^ 128 : ℕ) : ℚ)) / (1 : ℕ) < 2 ^ ((128 : Int) + 1) ∧ f32.emin ≤ 128)
    ∧ (f32.mmax : ℚ) * 2 ^ ((f32.emax : Int) - f32.fbits) < (8388608 : ℕ) * 2 ^ ((128 : Int) - f32.fbits) := by
  have e1 : f32.emin = -126 := by decide
  have e2 : f32.fbits = 23 := rfl
  have e3 : f32.emax = 127 := by decide
  have e4 : f32.mmax = 16777215 := by decide
  rw [e1, e2, e3, e4]
  refine ⟨by simp, ?_, ?_, ?_, by decide, ?_, ?_, ?_⟩ <;> norm_num [zpow_neg, zpow_natCast, abs_of_nonneg]
theorem witness_NanPatterns : 0x7F800001 < 2 * f32.signBit ∧ 0x7F800001 / 2 ^ f32.fbits % 2 ^ f32.ebits = f32.etop ∧ 0x7F800001 % 2 ^ f32.fbits ≠ 0 := by decide
theorem witness_VectorArithmeticLanes :
    Ready (vecNeed p0 none [] [] [1, 2] 1) sZ ∧ Ready (vecNeed p0 (some 0) [] [] [1, 2] 4) sZ ∧ Ready (vecNeed p0 none [] [] [1] 4) sZ
    ∧ Ready (vecNeed p0 none [] [] [1] 1) sZ ∧ Ready (vecNeed p0 none [] [] [1, 3] 1) sZ ∧ Ready (vecNeed p0 none [] [] [1, 2, 4] 1) sZ
    ∧ Ty.f32.isF = true ∧ Ty.i8.isI = true ∧ Ty.f16.width ≤ Ty.f16.width ∧ Ty.e4m3.width < Ty.f16.width := by
  unfold Ready; decide
theorem witness_VectorMovesComparesAndCodes :
    Ready (vecNeed p0 none [] [] [1, 2] 1) sZ ∧ Ready (vecNeed p0 none [] [] [1, 2, 4] 1) sZ ∧ Ready (vecNeed p0 none [1] [] [] 1) sZ
    ∧ Ready { len := 5, hdr := p0, tier := none, unit := some .vector } sZ ∧ Ready (vecNeed p0 none [] [] [1] 1) sZ
    ∧ Ready (vecNeed p0 none [] [] [1, 3] 1) sZ ∧ Ready (vecNeed p0 none [4] [] [1, 2, 5, 3] 1) sZ := by
  unfold Ready; decide
theorem witness_ReductionsFollowTheTree :
    Ready (vecNeed p0 none [] [3] [1] 1) sZ ∧ Ty.n8.isFIU = true
    ∧ ∀ (leaf : Nat → Res Nat) (node : Nat → Nat → Res Nat), ∃ tree : Nat → Nat → Res Nat, (∀ l, tree 0 l = leaf l) ∧ ∀ k i, tree (k + 1) i =
        ⟨(node (tree k (2 * i)).val (tree k (2 * i + 1)).val).val,
          (node (tree k (2 * i)).val (tree k (2 * i + 1)).val).flags ||| (tree k (2 * i)).flags ||| (tree k (2 * i + 1)).flags⟩ :=
  ⟨by unfold Ready; decide, rfl, fun leaf node =>
    ⟨fun k => Nat.rec leaf (fun _ t i => ⟨(node (t (2 * i)).val (t (2 * i + 1)).val).val,
      (node (t (2 * i)).val (t (2 * i + 1)).val).flags ||| (t (2 * i)).flags ||| (t (2 * i + 1)).flags⟩) k, fun _ => rfl, fun _ _ => rfl⟩⟩
/-- The last lanes that fit and the first that do not, an odd lane, and an uncorrectable word under lane 16 of a byte form. -/
theorem witness_ElementwiseMemoryForms :
    let s (a b : DWord) : State := sM [(1, a), (2, b)]
    let near (m n : Nat) (ea : Nat → Int) : List (Nat × Nat) := (List.range n).flatMap (fun l => bytesAt (ea l) m)
    let ea (s : State) (l : Nat) : Int := (rv s 1).toNat + (0 : BitVec 32).toInt + l * (rv s 2).toInt
    Ready { vecNeed p0 none [1, 2] [] [] 1 with bytes := near 4 16 (ea (s 0x40 4)) } (s 0x40 4)
    ∧ Ready { vecNeed p0 none [1, 2] [] [] 4 with bytes := near 1 64 (ea (s 0x70 1)) } (s 0x70 1)
    ∧ Ready (vecNeed p0 none [1, 2] [] [3] 1) (s 0x40 4) ∧ Ready (vecNeed p0 none [1, 2] [] [3] 8) (s 0x40 4)
    ∧ Ready { vecNeed p0 none [1] [] [2] 1 with bytes := near 4 16 (fun l => (rv (s 0x40 0) 1).toNat + (4 : BitVec 32).toInt + vl (s 0x40 0) 32 2 l) } (s 0x40 0)
    ∧ Ready (vecNeed p0 none [1] [] [3, 2] 1) (s 0x40 0)
    ∧ ea (s 0xFFC0 4) 15 + 4 = Config.localSize 0 ∧ (∀ l, l < 16 → ¬ (ea (s 0xFFC0 4) l < 0 ∨ (Config.localSize 0 : Int) < ea (s 0xFFC0 4) l + 4))
    ∧ (Config.localSize 0 : Int) < ea (s 0xFFC4 4) 15 + 4 ∧ (∀ l, l < 16 → ea (s 0xFFC4 4) l % 4 = 0) ∧ ea (s 0x40 2) 1 % 4 ≠ 0 ∧ ea (s 0x40 2) 0 % 4 = 0
    ∧ ea (s 4 0xFFFFFFFFFFFFFFFC) 2 < 0 ∧ firstBadWord (s 0x70 1) 0x80 1 0x80 := by
  refine ⟨by unfold Ready; decide, by unfold Ready; decide, by unfold Ready; decide, by unfold Ready; decide, by unfold Ready; decide, by unfold Ready; decide,
    by decide, by decide, by decide, by decide, by decide, by decide, by decide, ⟨0x20, by decide⟩⟩
/-- c1 of core 0 names core 1's context 1 in register 1 and a bank address in register 2. -/
def sS (wa addr : DWord) : State := run1 [(1, wa), (2, addr)]

theorem witness_MessageInstructions :
    Ready { len := 1, hdr := p0, rs := [1], vs := [4], ill := inCompute (sS 0x8001 0) } (sS 0x8001 0)
    ∧ Ready { len := 1, hdr := p0, rs := [1, 2], ill := inCompute (sS 1 0x01000040) } (sS 1 0x01000040)
    ∧ Ready { len := 1, hdr := p0, rs := [1, 2], vs := [4], ill := inCompute (sS 1 0x01000040) } (sS 1 0x01000040) ∧ Ready { len := 1, hdr := p0 } sZ
    ∧ inCompute (sP .compute) = true ∧ (0x8001 : Nat) / 2 ^ 15 % 4 ≠ 0 ∧ (1 : Nat) / 2 ^ 15 % 4 = 0
    -- a destination of the tier and partition, one of another tier, none
    ∧ (1 < Config.coreCount ∧ Machine.tierOf 1 = sZ.tier ∧ sZ.partOf 1 = sZ.partOf 0) ∧ Machine.tierOf 16384 ≠ sZ.tier ∧ ¬ 21760 < Config.coreCount
    -- boxes: the first and the last of the program region, and the one past it
    ∧ (0x01000000 : Nat) % 64 = 0 ∧ 0x01057F80 + 64 = Config.statusBase 0 ∧ Config.statusBase 0 ≤ 0x01057FC0 ∧ 0x01000008 % 8 = 0 ∧ 0x01000008 % 64 ≠ 0 := by
  unfold Ready; decide
theorem witness_FarAccessInstructions :
    inStep (sP .vert) = true ∧ Ready { len := 1, hdr := p0, rs := [1], ill := inStep (sS 0x80 0) } (sS 0x80 0)
    ∧ Ready { len := 1, hdr := p0, rs := [1], vs := [4], ill := inStep (sS 0x80 0) } (sS 0x80 0) ∧ (rv (sS 0x80 0) 1).toNat % 64 = 0 ∧ (rv (sS 0x88 0) 1).toNat % 64 ≠ 0 := by
  unfold Ready; decide
/-- Outside a superstep, and in c0 of a vert phase with and without a slot of its own still open. -/
theorem witness_AtomicInstructions :
    let need (s : State) (sc : Scope) : Prop := Ready (atomicNeed p0 3 1 2 .i64 sc 0 false s) s
    let at_ (a : DWord) : State := run1 [(1, a)]
    let sV (f : Ctl → Ctl) : State := { sP .vert f with cores := [(0, ((sP .vert f).core 0).setCtx 0 { Ctx.reset with run := .running, g := [(1, 0x01000000)] })] }
    need (at_ 0x01000000) .core ∧ need (at_ 0x01000004) .core ∧ need (at_ 0x01057FC0) .cluster ∧ need (at_ 0x01057FB8) .cluster ∧ need (at_ 0x40) .device
    ∧ inStep (at_ 0) = false ∧ (0x01057FB8 : Nat) + 8 = Config.statusBase 0 ∧ 0x01057FC0 < Config.bankEnd 0 ∧ Config.statusBase 0 < 0x01057FC0 + 8
    ∧ Ready (atomicNeed p0 3 1 2 .i64 .core 0 false (sV id)) (sV id) ∧ inStep (sV id) = true ∧ (∀ e ∈ ((sV id).core 0).ctl.rmw, ¬ (e.who = 0 ∧ 0 + 20 ≤ e.last))
    ∧ (∃ e ∈ ((sV (fun c => { c with rmw := [⟨0, 20, 0, 0⟩] })).core 0).ctl.rmw, e.who = 0 ∧ 0 + 20 ≤ e.last) := by
  unfold Ready; decide
theorem witness_AtomicOperationsFollowTheirRule : Ty.i8.width ∈ [8, 16, 32, 64] ∧ 255 < 2 ^ Ty.i8.width ∧ 0 < 2 ^ Ty.n64.width := by decide
/-- The first and last lines of each block, and the addresses past them. -/
theorem witness_EventUnitInstructions :
    let at_ (a : DWord) : State := run1 [(1, a)]
    inStep (sP .compute) = true
    ∧ Ready { len := 3, hdr := p0, rs := [1], rd := [3], ill := inStep (at_ 0x04000000) } (at_ 0x04000000)
    ∧ Ready { len := 3, hdr := p0, rs := [1, 2], rd := [3], ill := inStep (at_ 0x04006FC0) } (at_ 0x04006FC0)
    ∧ (rv (at_ 0x040007C0) 1).toNat < 0x04000000 + 0x800 ∧ (rv (at_ 0x04000800) 1).toNat % 64 = 0 ∧ ¬ (rv (at_ 0x04000800) 1).toNat < 0x04000000 + 0x800
    ∧ (rv (at_ 0x04001BC0) 1).toNat < 0x04000000 + 0x1C00 ∧ (rv (at_ 0x04000004) 1).toNat % 64 ≠ 0 ∧ (sZ.ctx sZ.cur).lastCmd = none
    ∧ ((run1 [] (fun x => { x with lastCmd := some (7, false) })).ctx (0, 1)).lastCmd = some (7, false) := by
  unfold Ready; decide
/-- A context of core 0 waits for its operation; lines 0 (barrier), 32 (mutex) and 48 (event) of its cluster, and a second waiter. -/
theorem witness_EventUnitOperationsFollowTheirRules :
    let l (i : Nat) : Nat := lineOf 0 i
    let s : State := { run1 [] (fun x => { x with run := .held (.unitOp 120 3 0) })
        (fun c => { c with ctxs := c.ctxs ++ [(2, { Ctx.reset with run := .gated (.mlock 3 (l 32) 9) })] }) with
      lines := [(l 0, { EvLine.reset with alloc := some 0, count := 2, pend := 1, c := 7 }), (l 32, { EvLine.reset with alloc := some 0, holder := some 1 }),
        (l 33, { EvLine.reset with alloc := some 0, holder := some 2 }), (l 48, { EvLine.reset with alloc := some 0, gen := 7 })] }
    let op (k : UnitKind) (i : Nat) (v : DWord) : UnitOp := ⟨0, k.stage, (0, 1), 3, k, 0x04000000 + 64 * i, v⟩
    (s.ctx (0, 1)).run = .held (.unitOp ((op .mlock 0 0).at_ + 6 * cyc 0) 3 0) ∧ 111 < 112 ∧ (op .rvwait 48 0).addr = 0x04000000 + 64 * 48
    ∧ (s.line (l 0)).alloc ≠ none ∧ (s.line (l 1)).alloc = none ∧ (∀ j, 0 ≤ j → j < 1 → (s.line (l j)).alloc ≠ none)
    ∧ (s.line (l 0)).pend = 1 ∧ (s.line (l 0)).c = (7 : DWord).setWidth 16 ∧ (s.line (l 0)).c = (6 : DWord).setWidth 16 + 1
    ∧ s.pointOf (l 0) = none ∧ s.waiters (l 0) = [] ∧ s.waiters (l 32) ≠ [] ∧ (s.line (l 32)).holder = some (4 * 0 + 1) ∧ (s.line (l 33)).holder ≠ some 1
    ∧ (s.line (l 33)).holder ≠ none ∧ (s.line (l 48)).gen = (7 : DWord).setWidth 32 ∧ (s.line (l 48)).gen ≠ (6 : DWord).setWidth 32
    ∧ (65535 : DWord) ≠ 0 ∧ (65535 : DWord).toNat ≤ 65535 ∧ 65535 < (65536 : DWord).toNat := by decide
theorem witness_OrderingInstructions :
    let b : Binding := ⟨0x40, 0x80, 4096, .device⟩
    let s : State := run1 [(1, 0x40), (2, 0x80), (4, 0x44), (5, 0x88)] (fun x => { x with binds := [b] })
    let full : State := run1 [(1, 0x48)] (fun x => { x with binds := List.replicate 8 b })
    let bad : State := run1 [(1, 0x4000000000000000)]
    inStep (sP .comm) = true ∧ Ready { len := 3, hdr := p0, ill := inStep s && !(timedPath .ls && timedPath .ls) } s
    ∧ Ready { len := 3, hdr := p0, ill := inStep (sP .comm) && !(timedPath .ls && timedPath .mx) } (sP .comm)
    ∧ Ready { len := 3, hdr := p0, rs := [1, 2] } s ∧ Ready { len := 3, hdr := p0, rs := [1], rd := [3], ill := inStep s } s
    ∧ (epLocal (rv s 1) = false ∧ epOk (rv s 1) = true) ∧ (rv s 4).toNat % 8 ≠ 0 ∧ (rv s 5).toNat % 64 ≠ 0 ∧ epOk (rv bad 1) = false
    ∧ (s.ctx s.cur).binds.filter (fun y => y.obj == rv s 1) ≠ [] ∧ (s.ctx s.cur).binds.length < 8 ∧ 8 ≤ (full.ctx full.cur).binds.length
    ∧ (full.ctx full.cur).binds.filter (fun y => y.obj == rv full 1) = [] ∧ (∃ y ∈ (s.ctx s.cur).binds, y.obj = rv s 1)
    ∧ (∀ y ∈ (full.ctx full.cur).binds, y.obj ≠ rv full 1) := by
  unfold Ready; decide
theorem witness_WaitingInstructions :
    let s : State := run1 [(1, 0xFFFFFFFFFF), (2, 0x10000000000)] (fun x => { x with monitor := some 0x01000040
                                                                                     m := [(2, { Msg.reset with full := true }), (3, { Msg.reset with ffull := true })] })
    let at_ (a : DWord) : State := run1 [(1, a)]
    0 < tickUnits s.dev.power.cur ∧ Ready { len := 3, hdr := p0, rs := [1], ill := inStep s } s ∧ Ready { len := 3, hdr := p0, rs := [1], rd := [3], ill := inStep s } s
    ∧ (rv s 1).toNat < 2 ^ 40 ∧ 2 ^ 40 ≤ (rv s 2).toNat ∧ ((s.ctx s.cur).msg 2).full = true ∧ ((s.ctx s.cur).msg 3).full = false ∧ ((s.ctx s.cur).msg 3).ffull = true
    ∧ ((s.ctx s.cur).msg 4).ffull = false ∧ Ready { len := 3, hdr := p0, rs := [1] } (at_ 0x01057FD8) ∧ (rv (at_ 0x01057FD8) 1).toNat < Config.statusBase 0 + 32
    ∧ Config.statusBase 0 + 32 ≤ (rv (at_ 0x01057FE0) 1).toNat ∧ (rv (at_ 0x01057FE4) 1).toNat % 8 ≠ 0
    ∧ (sZ.ctx sZ.cur).monitor = none ∧ (s.ctx s.cur).monitor = some 0x01000040
    ∧ Ready { len := 3, hdr := p0, rs := [1], rd := [3], ill := inStep s, bytes := [(0x01000040, 8)] } s
    ∧ (sget 0 (s.core 0).poison (0x01000040 / 4) = 0 ∧ sget 0 (s.core 0).poison (0x01000040 / 4 + 1) = 0)
    ∧ (s.part (s.partOf 0)).passes Config.flashBase false = false := by
  unfold Ready; decide
/-- A firewall that lets the partition read flash. -/
theorem witness_WaitingInstructions_flash :
    ∃ p : Part, p.passes Config.flashBase false = true := ⟨{ Part.reset with firewall := [(0, 0x0000080000000003), (1, 0x0000100000000000)] }, by decide⟩
/-- A command block at 0x40: far 0x1000 to the own bank of core index 0, 64 bytes, stamp at far 0x2000. -/
def blk : Sparse Byte := [(0x41, 0x10), (0x4F, 0x80), (0x50, 0x40), (0x61, 0x20), (0x68, 1)]
/-- A slot in use. -/
def used : Slot := ⟨.cpy, Cmd.ofNat 0, 0, none, none, 0, .device, 0, false, 0, 0, none, 0, [], false, []⟩

theorem witness_EngineCommands :
    let at_ (a : DWord) (near : Sparse Byte) : State := run1 [(1, a)] id (fun c => { c with near := near, poison := [(0x23, 1)] })
    let s := at_ 0x40 blk
    let full : State := { s with cols := [(0, { Column.reset with slots := (List.range 24).map (fun i => (8 + i, some used)) })] }
    let need (s : State) : Prop := Ready { len := 3, hdr := p0, rs := [1], ill := false, bytes := bytesAt (rv s 1).toNat 64 } s
    let x (s : State) : Nat := nearNat s 0x40 64
    need s ∧ need full ∧ need (at_ 0x80 []) ∧ firstBadWord s 0x80 64 0x8C ∧ (0x44 : Nat) % 64 ≠ 0 ∧ Config.localSize s.tier < 0x10000 + 64 ∧ 0xFFC0 + 64 ≤ Config.localSize s.tier
    ∧ (∀ w, w < 0x20 → sget 0 (s.core 0).poison w = 0)
    ∧ cmdIll .cpy (x s) 0 = false ∧ (Cmd.ofNat (x s)).rva = false ∧ (cmdRange .cpy (Cmd.ofNat (x s)) 0).toOption.isSome = true
    ∧ cmdIll .cpy (x (at_ 0x40 [])) 0 = true
    -- the last bytes that fit the own bank's program region, and 8 more
    ∧ (cmdRange .cpy { Cmd.ofNat (x s) with dst := 0x8000000000057F80 } 0).toOption.isSome = true
    ∧ (cmdRange .cpy { Cmd.ofNat (x s) with dst := 0x8000000000057F88 } 0).toOption.isSome = false
    ∧ (s.col 0).slot 8 = none ∧ (∀ i, 8 ≤ i → i < 32 → (full.col 0).slot i ≠ none) ∧ inStep full = false
    ∧ Ready { len := 3, hdr := p0, rs := [1] } s := by
  refine ⟨by unfold Ready; decide, by unfold Ready; decide, by unfold Ready; decide, ⟨0x23, by decide⟩, by decide, by decide, by decide,
    by decide, by decide, by decide, by decide, by decide, by decide, by decide, by decide, by decide, by decide, by unfold Ready; decide⟩

/-- A context of core 0 with a panel of 64 rows of E4M3 in the buffer and `q` operations outstanding. -/
def sX (who q : Nat) (f : Ctl → Ctl := id) (g : List (Nat × DWord) := []) : State :=
  { State.reset with
    cur := (0, who)
    cores := [(0, { Core.reset with
      ctxs := [(who, { Ctx.reset with run := .running, g := g })], ctl := f { Ctl.reset with turn := some who }
      slice := { Slice.reset with
        wcheck := some ⟨.e4m3, false, 64, 0⟩, wtag := ⟨.e4m3, false, 64, 0⟩, wvalid := true
        queue := List.replicate q ⟨who, 0, 0, .mzero 0, none, [], [], [], 0, [], false⟩ } })] }
/-- c0 in a slaved compute phase with a follower's index. -/
def slaved (skew : Nat) (c : Ctl) : Ctl := { c with phase := some ⟨.compute, 1000, 0, 0, true, skew, true⟩ }

theorem witness_MatrixInstructions :
    let s := sX 0 0 id [(1, 0x40), (2, 0x01000040), (3, 0x80)]
    let l := sX 0 0 (slaved 0) [(1, 0x40)]
    let u := sX 1 3 id [(1, 0x40)]
    let n : Need := { len := 3, hdr := p0, unit := some .matrix }
    inSlaved s = false ∧ Ready { len := 3, hdr := p0, ill := !inSlaved l, unit := some .matrix } l ∧ inSlaved l = true
    ∧ Ready { n with rd := [3] } s ∧ Ready n s ∧ Ready { n with rs := [1, 3] } s ∧ Ready { n with rs := [2, 3] } s
    ∧ sliceWaits true s = false ∧ sliceWaits true u = true ∧ sliceWaits false u = false ∧ sliceWaits false (sX 1 4) = true
    ∧ (sl (sX 0 4 (slaved 0))).queue.length = 4 ∧ sliceWaits true (sX 0 4 (slaved 0)) = false ∧ ((sl s).view 1).2.2 = false
 := by
  unfold Ready; decide
theorem witness_MatrixInstructions_checks :
    let s := sX 0 0 id [(1, 0x40), (2, 0x01000040), (3, 0x80)]
    let l := sX 0 0 (slaved 0) [(1, 0x40)]
    let u := sX 1 3 id [(1, 0x40)]
    let n : Need := { len := 3, hdr := p0, unit := some .matrix }
    (mscacCheck 1 1 3 s).toOption.isSome = true ∧ (mscacCheck 1 0 1 s).toOption.isSome = true
    ∧ Config.bankBase ≤ (rv s 2).toNat ∧ (rv s 2).toNat + imageBytes .e4m3 64 ≤ Config.bankEnd s.tier
    ∧ Ready { n with rs := [1], bytes := bytesAt (rv u 1).toNat 64, ill := u.cur.2 == 0 } u ∧ u.cur.2 ≠ 0
    ∧ Ready { n with rs := [1], ill := s.cur.2 != 0 || (inSlaved s && !(sl s).ganged) } s
    ∧ (mmaCheck 1 1 .e4m3 .e4m3 64 0 false true s).toOption.isSome = true ∧ (mmaCheck 1 1 .e4m3 .e4m3 64 16 false true s).toOption.isSome = false
    ∧ (sl l).ganged = false ∧ (followerSkew l) = none ∧ (followerSkew (sX 0 0 (slaved 15))).isSome = true := by
  unfold Ready; decide

/-- A descriptor at 0x40 of a box of 3 by 1 by 1 fine elements at local 0x100 under a mask in x. -/
def sL (who : Nat) (n : Nat) : State :=
  { State.reset with
    cur := (0, who)
    cores := [(0, { Core.reset with
      near := [(0x41, 1), (0x44, 2), (0x58, 1)], poison := [(0x50, 1)]
      ctxs := [(who, { Ctx.reset with run := .running, g := [(1, 0x40), (2, 0x01000000), (3, 0x42), (4, 0x80), (5, 0x01057FC0)] })]
      ctl := { Ctl.reset with turn := some who, phase := some ⟨.vert, 1000, 0, 0, false, 0, true⟩ }
      vert := { Vert.reset with ops := List.replicate n ⟨true, false, true, VDesc.ofNat 0, 0, [], [], [], 0, 0, 0, 120, false, 0⟩ } })] }

theorem witness_LevelInstructions :
    let s := sL 0 0
    (vertNeed p0 1 2 false sZ).ill = true ∧ Ready (vertNeed p0 1 2 true s) s ∧ Ready (vertNeed p0 1 2 false s) s ∧ Ready (vertNeed p0 3 2 true s) s
    ∧ (checkVert s 1 2 true).toOption.isSome = true ∧ (checkVert s 1 2 false).toOption.isSome = true ∧ (checkVert s 3 2 true).toOption.isSome = false
    ∧ (checkVert s 1 5 true).toOption.isSome = false ∧ badFine (s.core 0) (VDesc.ofNat (nearNat s 0x40 64)) = none
    ∧ badFine (s.core 0) { VDesc.ofNat (nearNat s 0x40 64) with fbase := 0x140 } = some 0x140 ∧ s.laneBad 0 = false ∧ (s.core 0).vert.ops.length < 8
    ∧ 8 ≤ ((sL 0 8).core 0).vert.ops.length ∧ 7 < 8
    ∧ Ready { len := 3, hdr := p0, rs := [1], bytes := bytesAt (rv s 1).toNat 108 } s ∧ (rv s 1).toNat % 4 = 0
    ∧ guardHolds (vertNeed ⟨0, false, 1, false⟩ 1 2 false s) s = false ∧ guardWait (vertNeed ⟨0, false, 1, false⟩ 1 2 false s) s = none := by
  unfold Ready; decide

/-- Expansion registers 1 (M) and 2 (L) of dimension 3 and order 2, and an image's header of an M expansion at 0x40. -/
def sE (who q : Nat) : State :=
  { State.reset with
    cur := (0, who)
    cores := [(0, { Core.reset with
      near := [(0x40, 0x0D), (0x41, 2), (0x46, 0x80), (0x47, 0x3F)]
      ctxs := [(who, { Ctx.reset with run := .running, g := [(1, 0x40), (2, 0x01000000), (3, 0x44)] })]
      ctl := { Ctl.reset with turn := some who }
      xu := { XUnit.reset with
        hdr := [(1, ⟨1, 3, 2, 0, (0, 0, 0)⟩), (2, ⟨2, 3, 2, 0, (0, 0, 0)⟩)]
        queue := List.replicate q ⟨who, 0, 0, .setKern 0, 1, false, [], 0, [], [], .reset⟩ } })] }

theorem witness_ExpansionInstructions :
    let s := sE 1 0
    let need (rs : List Reg) (bytes : List (Nat × Nat)) : Need := { len := 3, hdr := p0, tier := none, rs := rs, bytes := bytes, unit := some .expansion }
    Ready (need [] []) s ∧ Ready (need [1] []) s ∧ Ready (need [1] (bytesAt 0x40 64)) s ∧ Ready (need [1] (bytesAt 0x40 576)) s ∧ Ready (need [1] (bytesAt 0x40 16)) s
    ∧ s.tier = 0 ∧ ¬ (s.tier ≠ 0 ∨ (8 : ExpReg).toNat < 8) ∧ (7 : ExpReg).toNat < 8
    ∧ (xu s).queue.length < 4 ∧ 4 ≤ (xu (sE 1 4)).queue.length ∧ inStep (sE 1 4) = false
    ∧ needKind ((xu s).viewHdr 1) 1 = .ok () ∧ needKind ((xu s).viewHdr 2) 2 = .ok () ∧ needDim ((xu s).viewHdr 2) ((xu s).viewHdr 1) = .ok ()
    ∧ needKind ((xu s).viewHdr 2) 1 ≠ .ok () ∧ needExpd s [(xu s).viewHdr 2, (xu s).viewHdr 1] = .ok ()
    ∧ (headerOf (leNat (headerRead (s.core 0) 0x40))).toOption.isSome = true ∧ needGood s 0x40 = .ok ()
    ∧ (checkNear s .localStore false 0x40 64 64).toOption.isSome = true ∧ (checkNear s .localStore false 0x44 64 64).toOption.isSome = false
    ∧ (checkNear s .localStore true 0x40 16 16).toOption.isSome = true := by
  unfold Ready; decide
/-- c0 of core 0 with context `i` named in g1 and an image of context 1 whose header's low word is `head`. -/
def sI (i : DWord) (head : Sparse Byte := []) (who : Nat := 0) : State :=
  { State.reset with
    cur := (0, who)
    cores := [(0, { Core.reset with
      near := head, ctxs := [(who, { Ctx.reset with run := .running, g := [(1, i)] })], ctl := { Ctl.reset with turn := some who } })] }

theorem witness_ContextSaveAndLoad :
    let need (s : State) : Need := { len := 3, hdr := p0, rs := [1], rd := [2], ill := inStep s, priv := if s.cur.2 = 0 then none else some 0 }
    let img := Config.saveBase 0 + 0x400 + (4096 + 8 * Config.stackSize 0)
    let head (s : State) : Nat := coreNat s 0 img 8
    let good := sI 1 [(img, 5)]
    (sP .vert).cur.2 = 0 ∧ inStep (sP .vert) = true ∧ Ready (need (sI 4)) (sI 4) ∧ (rv (sI 4) 1).toNat % 4 = 0
    ∧ Ready (need good) good ∧ (rv good 1).toNat % 4 = 1 ∧ coreCanonical (good.core 0) = true ∧ (good.core 0).pend = [] ∧ (good.core 0).xu.queue = []
    ∧ head good % 2 = 1 ∧ head good / 2 ^ 4 % 2 ^ 15 = 0 ∧ head good / 2 % 2 = 0
    ∧ head (sI 1 [(img, 7)]) / 2 % 2 = 1 ∧ head (sI 1) % 2 = 0 ∧ head (sI 1 [(img, 0x15)]) / 2 ^ 4 % 2 ^ 15 = 1
    ∧ (sI 1 [] 2).cur.2 ≠ 0 ∧ ((sI 1 [] 2).ctx (sI 1 [] 2).cur).regOk 1 = true := by
  unfold Ready; decide
theorem witness_ContextSaveAndLoad_clean : ∀ w, sget 0 ((sI 1).core 0).poison w = 0 := fun _ => rfl

/-- Context 1 with a column that holds the translation of 0x10000 to 0x20000 to 0x200000, and a firewall that lets it through. -/
def sFar (f : Ctx → Ctx := id) (w : Bool := true) : State :=
  { run1 [] f with
    cols := [(0, { Column.reset with rangeC := [⟨0, 0x10000, 0x10000, 0x200000, true, w⟩] })]
    parts := [(0, { Part.reset with firewall := [(0, 7), (1, 0x8000000000)] })] }

theorem witness_MessageAndFarSteps :
    let s := sFar (fun x => { x with stxOut := [1], m := [(3, { Msg.reset with tag := 1 })] })
    let busy : State := run1 [] id (fun c => { c with ctl := { c.ctl with msgPort := 1 } })
    s.earlierMsgb 1 0 true = none
    ∧ ({ s with now := 1, agenda := [⟨9, .msgbPortWrite 0 0x01000000 0 false 1 1 true 0⟩] } : State).earlierMsgb 1 0 true = some 9
    ∧ (s.ctx (0, 1)).run ≠ .gated (.msg 3) ∧ s.portBusy 0 1 0 = false ∧ busy.portBusy 0 0 0 = true ∧ (∀ p ∈ (s.core 0).pend, s.now < p.due)
    ∧ (s.core 0).ctl.rmw = [] ∧ (∀ j, j < 4 → ((s.core 0).ctx j).monitor = none) ∧ ((s.ctx (0, 1)).msg 3).tag = 1 ∧ ((s.ctx (0, 1)).msg 4).tag ≠ 1 ∧ (s.part (s.partOf 0)).epoch = 0
    ∧ 1 ∈ (s.ctx (0, 1)).stxOut ∧ (0x06 : BitVec 8) ≠ 0 ∧ 5 ∉ s.dev.lines ∧ 5 ∈ ({ s with dev := { s.dev with lines := [5] } } : State).dev.lines := by decide
/-- Translations by the column's cache, of the last line of the range, of the line past it, and of a range that takes no writes. -/
theorem witness_MessageAndFarSteps_translation :
    let s := sFar
    s.translate 0 0 0x1FFC0 false = (.ok 0x20FFC0, s) ∧ s.translate 0 0 0x1FFC0 true = (.ok 0x20FFC0, s) ∧ s.dev.place 0x20FFC0 = .hbm
    ∧ s.dev.badFar 0x20FFC0 64 = false ∧ s.translate 0 0 0x20000 false = (.error tNoMap, s)
    ∧ tNoWrite ≠ 0 ∧ (sFar id false).translate 0 0 0x1FFC0 true = (.error tNoWrite, sFar id false) := by decide +kernel
theorem witness_MessageAndFarSteps_walks :
    let s : State := { run1 [] with parts := [(0, { Part.reset with ranges := [(0, 0x10000), (1, 0x20000), (2, 0x200000), (3, 7)] })] }
    (s.part 0).findRange 0 0x1FFFF = some ⟨0, 0x10000, 0x10000, 0x200000, true, true⟩ ∧ hitX (s.col 0).rangeC 0 0x1FFFF = none
    ∧ (s.part 0).findRange 0 0x20000 = none ∧ s.walk 0 0x20000 = .error tNoMap := by decide +kernel
/-- A table whose first entry leads to a leaf of 1 GiB at far address 0. -/
theorem witness_MessageAndFarSteps_page :
    let s : State := { run1 [] with
      dev := { State.reset.dev with far := [(0x200000, 1), (0x200001, 0x10), (0x200002, 0x20), (0x201000, 0x0F)] }
      parts := [(0, { Part.reset with ptroot := 0x200000 })] }
    (s.part 0).findRange 0 0x1000 = none ∧ s.walk 0 0x1000 = .ok ⟨0, 0, 2 ^ 30, 0, true, true⟩ ∧ hitX (s.col 0).pageC 0 0x1000 = none := by decide +kernel
theorem witness_MessageAndFarSteps_drain :
    let rec_ : FaultRec := 5
    let at_ (f : Ring) (b : List FaultRec) : State := { sFar with bufs := [(0, b)], parts := [(0, { (sFar.part 0) with fq := f })] }
    let on : Ring := { Ring.reset with en := true, base := 0x10 }
    let full : Ring := { on with tail := 255 }
    let s := at_ on [rec_]
    sget [] s.bufs (64 * 0 + 0) = [rec_] ∧ (s.part (partOfQuad s.dev.mode (0 / 16))).fq.en = true ∧ (sFar.part 0).fq.en = false
    ∧ (on.tail.toNat + 1) % 2 ^ on.log2n.toNat ≠ on.head.toNat % 2 ^ on.log2n.toNat
    ∧ (full.tail.toNat + 1) % 2 ^ full.log2n.toNat = full.head.toNat % 2 ^ full.log2n.toNat
    ∧ s.translate 0 0 (on.base.toNat * 4096 + 32 * 0) true = (.ok 0x200000, s) ∧ s.dev.place 0x200000 = .hbm := by decide +kernel

/-! ### Steps of the synchronisation units, slices, engines -/

/-- Context 1 waits for the reply to its request number 4, into register 3. -/
def sR (f : Ctx → Ctx := id) : State := sFar (fun x => f { x with run := .gated (.reply 3 4) })
/-- An atomic of core 1's context 1 at core 0's bank. -/
def rq : AtomicReq := ⟨1, 1, 4, 0, .i64, some 0, true, 0x01000000, 5, 0, 0⟩

theorem witness_SynchronisationSteps :
    let open_ (c : Ctl) : Ctl := { c with rmw := [⟨0, 40, 0x200000, 1⟩] }
    let opened : State := { run1 [] id (fun c => { c with ctl := open_ c.ctl }) with now := 40 }
    (sR.ctx (0, 1)).run = .gated (.reply 3 4) ∧ (sR.ctx (0, 1)).awaits 5 = none ∧ rq.home = some 0 ∧ (∀ p ∈ (sR.core 0).pend, sR.now < p.due)
    ∧ (sR.core 0).ctl.phase = none ∧ (sR.core 0).ctl.rmw.filter (fun e => e.who == rq.core && decide (0 ≤ e.last)) = []
    ∧ (opened.core 0).ctl.rmw = [⟨opened.now - 2 * cyc 0, opened.now, rq.addr / 8, rq.core⟩] ∧ (opened.core 0).ctl.behind = [] ∧ 2 * cyc 0 ≤ opened.now
    ∧ rq.ty.width ∈ [8, 16, 32, 64] ∧ Config.bankBase ≤ rq.addr ∧ rq.addr + rq.ty.width / 8 ≤ Config.statusBase (Machine.tierOf 0) ∧ 0 ≠ rq.core
    ∧ (opened.core 0).poison = [] ∧ 0x01057FB8 + 8 = Config.statusBase (Machine.tierOf 0) := by decide
theorem witness_SynchronisationSteps_far :
    let r : AtomicReq := ⟨0, 1, 4, 0, .n32, none, false, 0x1FFFC, 5, 0, 0⟩
    let s := sR
    (s.part (s.partOf 0)).epoch = 0 ∧ (s.part (s.partOf r.core)).epoch ≠ 1 ∧ r = { r with core := 0, ctx := 1, num := 4, home := none, epoch := 0 } ∧ r.op < 7
    ∧ r.ty.width ∈ [32, 64] ∧ tNoMap ≠ 0x06 ∧ s.translate (s.partOf 0) (columnOf 0) 0x20000 false = (.error tNoMap, s)
    ∧ s.translate (s.partOf 0) (columnOf 0) r.addr false = (.ok 0x20FFFC, s) ∧ s.translate (s.partOf 0) (columnOf 0) r.addr true = (.ok 0x20FFFC, s)
    ∧ s.dev.place 0x20FFFC = .hbm ∧ s.dev.badFar 0x20FFF8 8 = false ∧ epNear 0x1FFF8 = false ∧ s.storesOut (0, 1) = false ∧ s.messagesOut (0, 1) = false
    ∧ s.translate (s.partOf 0) (columnOf 0) (0x1FFF8 : DWord).toNat false = (.ok 0x20FFF8, s)
    ∧ s.translate (s.partOf 0) (columnOf 0) (0x1FFF8 : DWord).toNat true = (.ok 0x20FFF8, s) := by decide +kernel
theorem witness_SynchronisationSteps_order :
    let o : ScOp := ⟨(0, 1), 4, 3, .evsig 0x04000C00, 0, some 7⟩
    let s : State := { sR with sc := [o], lines := [(lineOf 0 48, { EvLine.reset with alloc := some 0, gen := 9 })] }
    s.anyOut (0, 1) = false ∧ sR.sc = [] ∧ s.sc = [o] ∧ o.window = some 7 ∧ o.who = (0, 1) ∧ o.num = 4 ∧ (s.ctx (0, 1)).run = .gated (.reply 3 4)
    ∧ s.target (0, 1) 0x04000C00 = .line (lineOf 0 48) (lineOf 0 48) ∧ (s.line (lineOf 0 48)).next = none
    ∧ (sR (fun x => { x with stxOut := [1] })).anyOut (0, 1) = true := by decide +kernel
/-- No context of the device waits at the event line of `witness_SynchronisationSteps_order`. -/
theorem witness_SynchronisationSteps_waiters : ∀ j i, ((sR.core j).ctx i).run.waitsOn (lineOf 0 48) = none := by
  intro j i
  by_cases h : j = 0
  · subst h
    by_cases h1 : i = 1
    · subst h1; decide
    · have : (sR.core 0).ctx i = Ctx.reset := by simp [State.core, Core.ctx, sR, sFar, run1, sget, Ne.symm h1]
      rw [this]; rfl
  · have : sR.core j = Core.reset := by simp [State.core, sR, sFar, run1, sget, Ne.symm h]
    rw [this]; rfl
theorem witness_SynchronisationSteps_lines :
    let l := lineOf 0 0
    let s : State := { run1 [] (fun x => { x with run := .gated (.rvwait 3 l 4 7) }) with
      lines := [(l, { EvLine.reset with alloc := some 0, next := some (l + 1) })] }
    let w (x : Wait) : State := run1 [] (fun y => { y with run := .gated x })
    (s.line (l + 1)).alloc = none ∧ (s.line l).alloc ≠ none ∧ (s.line l).next = some (l + 1) ∧ l + 1 ≠ l + 2
    ∧ (s.ctx (0, 1)).run = .gated (.rvwait 3 l 4 7) ∧ ((w (.evwait 3 l 4)).ctx (0, 1)).run = .gated (.evwait 3 l 4)
    ∧ ((w (.mlock 3 l 4)).ctx (0, 1)).run = .gated (.mlock 3 l 4) ∧ ((w (.sleep 5 0)).ctx (0, 1)).run = .gated (.sleep 5 0)
    ∧ ((w (.twait 3 2 5 0)).ctx (0, 1)).run = .gated (.twait 3 2 5 0) ∧ (∀ p ∈ [Path.ls, .ms, .vt, .mx, .ga], sR.pathOut (0, 1) p = false)
    ∧ (∀ e ∈ (sR.ctx (0, 1)).m, e.2.pend = false) := by decide +kernel
theorem witness_SynchronisationSteps_others : ∀ n, ((run1 []).ctx (0, 1)).run.waitsOn n ≠ some 4 := fun _ h => by cases h
/-- Core 0 with a slice, a vertical side and an expansion unit. -/
def sU (q : List SliceOp) (v : List VOp := []) (x : List XOp := []) : State :=
  run1 [] id (fun c => { c with slice := { Slice.reset with queue := q }, vert := { Vert.reset with ops := v }, xu := { XUnit.reset with queue := x } })
/-- An operation of context 1 at the head of a queue. -/
def opOf (w : SliceKind) (cols : List ACol := []) : SliceOp := ⟨1, 0, 0, w, some 0, cols, [], [], 0, [], false⟩
/-- A product of one column of 8-bit integers into tile 1. -/
def pI : Product := ⟨1, .i8, .i8, 1, 0, true, 1, 0⟩

theorem witness_UnitAndEngineSteps_slice :
    let two := sU [opOf (.mzero 1), opOf (.mzero 0)]
    let pois : State := run1 [] id (fun c => { c with slice := { Slice.reset with tiles := [(1, { Tile.reset with pois := true })], queue := [opOf (.mrd 1 1 .i8 false 0)] } })
    let far : State := { sFar with cores := [(0, { (sFar.core 0) with slice := { Slice.reset with queue := [opOf (.mmas pI 0x40 0x10000 1 2)] } })] }
    let g := far.gather 0 pI 0x10000 1 (.mmasComplete 0)
    (∀ x ∈ (two.core 0).pend, two.now < x.due) ∧ ((run1 []).core 0).slice.queue = [] ∧ (two.core 0).slice.queue = [opOf (.mzero 1), opOf (.mzero 0)]
    ∧ ((sU [opOf (.mma pI 0 none)]).core 0).ctl.phase = none ∧ ((sU [opOf (.mma pI 0 (some 7))]).core 0).slice.streams = []
    ∧ ((pois.core 0).slice.tile 1).pois = true ∧ ((two.core 0).slice.tile 1).pois = false ∧ (two.core 0).slice.wpois = []
    ∧ (opOf (.mma pI 0 none)).slips = [] ∧ pI.ta = .i8 ∧ pI.tb = .i8 ∧ (opOf (.mma pI 0 none) [⟨[255, 1], true, 0⟩]).cols = [⟨[255, 1], true, 0⟩]
    ∧ [255, 1].getD 0 0 < 256 ∧ 31 < 32 ∧ 15 < 16
    ∧ g.1.isSome = true ∧ lostIn 1 (g.1.getD []) 0 = none ∧ (g.2.core 0).slice.queue = [opOf (.mmas pI 0x40 0x10000 1 2)] ∧ (g.2.core 0).slice.wpois = [] := by
  decide +kernel
/-- A member of a gang in a slaved phase, at the third cycle of the phase and before it; its barrier lacks a line, or does not. -/
theorem witness_UnitAndEngineSteps_gang :
    let ph : Phase := ⟨.compute, 1000, 0, 0, true, 0, true⟩
    let s (short : Bool) (now : Nat) : State := { State.reset with now := now, cores := [(21504, { Core.reset with
      slice := { Slice.reset with short := short, queue := [⟨0, 0, 0, .mma pI 0 none, none, [], [], [], 0, [], false⟩] }
      ctl := { Ctl.reset with phase := some ph } })] }
    ((s true 30).core 21504).timed 0 = true ∧ ((s true 30).core 21504).ctl.stopped = false ∧ ((s true 30).core 21504).ctl.phase = some ph
    ∧ ph.start + 3 * cyc 21504 = 30 ∧ ((s true 30).core 21504).slice.short = true ∧ ((s false 30).core 21504).slice.short = false
    ∧ (s true 20).now < ph.start + 3 * cyc 21504 ∧ ((run1 []).core 0).timed 0 = false ∧ ((run1 []).core 0).ctl.phase = none
    ∧ (((s true 30).dropMmas 21504).core 21504).slice.queue = [] := by decide
/-- The step looks ahead for a line that a follower's GANG, of the cycle behind its leader's, has not asserted or will not (R121). -/
theorem test_gang_look_ahead :
    let c (line : List Nat) : Core := { Core.reset with
      slice := { Slice.reset with line := line, ganged := true }, ctl := { Ctl.reset with phase := some ⟨.compute, 1000, 0, 0, true, 0, true⟩ } }
    let s (line : List Nat) : State := { State.reset with now := 30, agenda := [], cores := [(21504, c [0]), (21505, c line)] }
    gangDue 21504 0 = 30 ∧ gangClose 21504 0 = 10 ∧ gangTicks 21504 0 = [(21504, 0), (21505, 10)]
    ∧ (s []).gangShort 21504 0 = true ∧ (s [10]).gangShort 21504 0 = false := by decide
/-- One operation each: a restriction and a prolongation, through the lane and through SELF, which start or end now; the merge of
four contributions to one word; lanes; the expansion queue. -/
theorem witness_UnitAndEngineSteps_lanes :
    let op (rstr self lost : Bool) : VOp := ⟨rstr, false, self, VDesc.ofNat 0, 0x01000000, [], [], [], 0, 0, 0, 0, lost, 0⟩
    let s (o : VOp) := sU [] [o]
    let merge : State := run1 [] id (fun c => { c with vert := { Vert.reset with
      sets := [⟨0, 0, true, [(0x01000000, 1)], 0⟩, ⟨1, 0, false, [(0x01000000, 1)], 0⟩, ⟨2, 0, false, [(0x01000000, 1)], 0⟩, ⟨3, 0, false, [(0x01000000, 1)], 0⟩] } })
    let x : XOp := ⟨1, 0, 0, .clr 1 0x40 ⟨1, 3, 2, 0, (0, 0, 0)⟩, 4, false, [], 0, [], [], .reset⟩
    let e := sU [] [] [x, x]
    ((s (op true true false)).core 0).vert.ops = [op true true false] ∧ (op true true false).startT = 0 ∧ (op true true false).endT = 0
    ∧ ((s (op false false false)).core 0).vert.ops = [op false false false] ∧ (s (op false false false)).laneBad 0 = false
    ∧ (∀ y ∈ ((s (op false false false)).core (parentOf 0)).pend, 0 < y.due) ∧ ((run1 []).core 0).vert.ops = []
    ∧ ((s (op true false true)).core 0).vert.ops = [op true false true] ∧ ((s (op true false false)).core 0).vert.ops = [op true false false]
    ∧ (merge.core 0).vert.sets.length = 4 ∧ (merge.core 0).ctl.rmw = [] ∧ (∀ j, j < 4 → ((merge.core 0).ctx j).monitor = none) ∧ Machine.tierOf 0 ≠ 3 ∧ Machine.tierOf 21504 = 3
    ∧ laneRank ((run1 []).lane 0) < laneRank .half ∧ laneRank .full ≤ laneRank ((run1 []).lane 0) ∧ 0 % 120 = 0 ∧ 20 % 120 ≠ 0
    ∧ (e.core 0).xu.queue = [x, x] ∧ startReads (e.core 0).xu x.what = [] ∧ ((sU [] [] [{ x with what := .form 1 0x40 1 }]).core 0).badRange 0x40 16 = none := by decide
theorem witness_UnitAndEngineSteps_commands :
    let c : Cmd := { Cmd.ofNat 0 with src := 0x8000000000000000, dst := 0x8010000000000000, len := 72, rows := 1, stamp := 0x8010000000000040 }
    let sl : Slot := { used with cmd := c }
    let s (sl : Slot) (more : Sparse (Option Slot)) : State := { run1 [] with cols := [(0, { Column.reset with slots := (8, some sl) :: more })] }
    let a := s sl []
    ((run1 []).col 0).slot 8 = none ∧ (a.col 0).slot 8 = some sl ∧ (a.col 0).earlier sl.num = false
    ∧ ((s { sl with num := 1 } [(9, some used)]).col 0).earlier 1 = true ∧ sl.kind = .cpy
    ∧ epNear c.src = true ∧ epNear c.dst = true ∧ epCore 0 c.src ≠ epCore 0 c.dst ∧ (∀ x ∈ (a.core (epCore 0 c.src)).pend, 0 < x.due)
    ∧ (a.core (epCore 0 c.dst)).ctl.rmw = [] ∧ sl.row = 0 ∧ c.rows = 1 ∧ sl.off < c.len ∧ ({ sl with off := 64 } : Slot).off < c.len
    ∧ (a.core (epCore 0 c.src)).badWords (epAddr c.src (epOff c.src + 0)) (min 64 (c.len - 0)) = [] ∧ 0 + min 64 (c.len - 0) < c.len ∧ c.len ≤ 64 + min 64 (c.len - 64)
    ∧ (a.core (epCore 0 c.src)).badWords (epAddr c.src (epOff c.src + 64)) (min 64 (c.len - 64)) = []
    ∧ epNear c.stamp = true ∧ (a.core (epCore 0 c.stamp)).ctl.rmw = [] ∧ sl.owner = none ∧ sl.node = none := by decide
theorem witness_UnitAndEngineSteps_rest :
    let c : Cmd := Cmd.ofNat 0
    let st (n : Nat) : State := { run1 [] with cols := [(0, { Column.reset with scnt := n, sched := [⟨1, 0, c, 3, .device⟩] })] }
    let inst : Slot := { used with kind := .finst, cmd := { c with dst := 5 } }
    let fl (x : Extent) : State := { run1 [] with cols := [(0, { Column.reset with slots := [(8, some inst)] })], dev := { State.reset.dev with flash := [(5, x)] } }
    let coll : Slot := { used with kind := .coll 0 0 .f32, started := true, buf := [0, 0, 0, 0], cmd := { c with dst := 0x8000000000000000, len := 4 } }
    let s : State := { run1 [] with cols := [(0, { Column.reset with slots := [(8, some coll)] })], parts := [(0, { Part.reset with groups := [(0, 0x80018000)], peers := [(0, 0x20000001)] })] }
    ((st 3).col 0).sched = [⟨1, 0, c, 3, .device⟩] ∧ ((st 3).col 0).slot 32 = none ∧ ((st 2).col 0).scnt < 3 ∧ 3 ≤ ((st 3).col 0).scnt
    ∧ ((fl { Extent.reset with queue := [(1, 9)] }).dev.extent 5).queue ≠ [] ∧ inst.cmd.dst.toNat = 5
    ∧ ((fl { Extent.reset with queue := [(0, 8)] }).dev.extent 5).queue = [(0, 8)] ∧ inst.off = 0 ∧ ({ inst with off := 1 } : Slot).off ≠ 0
    ∧ (s.col 0).slot 8 = some coll ∧ s.rankIn coll.part coll.cmd.group = some 0 ∧ coll.started = true
    ∧ [] ∈ [[], []].set 0 coll.buf ∧ [] ∉ [[], [0, 0, 0, 0]].set 0 coll.buf ∧ epNear coll.cmd.dst = true ∧ (s.core (epCore 0 coll.cmd.dst)).ctl.rmw = [] := by decide
/-- A kernel of column 0's cores of tier 3 with an image of two supersteps of two phases. -/
def kG (f : Kernel → Kernel := id) : Kernel :=
  f ⟨1, 0x40, 0, 1, 8, ⟨true, [some 0], [], [⟨2, [], []⟩, ⟨2, [], []⟩], 0, [], 0⟩, 0, 0, [], [], [], 0, .waiting, none, [], [], [], [], [], [], [], 0, none,
    false, false, none, none, 0⟩
/-- The kernel runs as number 1; c0 of its first core stands at a header of 16 cycles of tier 3. -/
def sG (f : Kernel → Kernel := id) (g : Core → Core := id) : State :=
  { State.reset with
    cores := [(21504, g (code 0 [0x00010203, 0x6A00] { Core.reset with ctxs := [(0, { Ctx.reset with run := .atHeader })] }))]
    gaf := ⟨[], [], [(1, some (kG f))], 2⟩ }
/-- It runs its first superstep, and its one column has entered `n` phases. -/
def entered (n e : Nat) (k : Kernel) : Kernel := { k with stage := .running, colPhase := [(0, n)], colEnd := [(0, e)] }

theorem witness_SuperstepSteps :
    sG.kernel 2 = none ∧ sG.kernel 1 = some kG ∧ kG.stage = .waiting ∧ kG.superstep = some ⟨2, [], []⟩ ∧ kG.notice = none ∧ kG.frozenReq = none
    ∧ sG.stampsMet 0 ⟨2, [], []⟩ = true ∧ sG.stampsMet 0 ⟨2, [(0x8000000000000000, 1)], []⟩ = false ∧ sG.now % 120 = 0
    ∧ (kG.columnCores 0).head?.bind sG.headerOf = some 0x00010203 ∧ headerOk 0x00010203 = true ∧ headerKind 0x00010203 = 0 := by decide +kernel
/-- A column's turn, and the end of every column; of the first superstep and of the last. -/
theorem witness_SuperstepSteps_turns :
    ¬ ((kG.stage = .running ∨ (kG.stage = .waiting ∧ 1 = 0)) ∧ sget 0 kG.colPhase 0 = 1)
    ∧ (kG (entered 2 0)).stage = .running ∧ sget 0 (kG (entered 2 0)).colPhase 0 = 2 ∧ sget 0 (kG (entered 1 0)).colPhase 0 = 1
    ∧ (∀ c ∈ (kG (entered 2 0)).columns, sget 0 (kG (entered 2 0)).colPhase c = 2 ∧ sget 0 (kG (entered 2 0)).colEnd c ≤ 0)
    ∧ ¬ (∀ c ∈ (kG (entered 2 1)).columns, sget 0 (kG (entered 2 1)).colPhase c = 2 ∧ sget 0 (kG (entered 2 1)).colEnd c ≤ 0)
    ∧ (kG (fun k => { entered 2 0 k with step := 1 })).image.steps.length ≤ 1 + 1 ∧ (kG (entered 2 0)).step + 1 < (kG (entered 2 0)).image.steps.length
    ∧ (∀ k ∈ kG.cores, (sG.core k).ctl.handling = none ∧ (sG.core k).ctl.waiting = []) := by decide +kernel
/-- A budget of one watt and an estimate of 65 W a core. -/
def poor : State :=
  let s := sG (entered 1 0)
  { s with dev := { s.dev with power := { s.dev.power with eff := 601, eclass := (0, 0, 0, 0xFFFF) } } }
/-- Every core of the group waits at the header of its first phase; the second core's header is `w`. -/
def sH (f : Kernel → Kernel := id) (w : Word := 0x00010203) : State :=
  let c (h : Word) : Core := code 0 [h, 0x6A00] { Core.reset with ctxs := [(0, { Ctx.reset with run := .atHeader })] }
  { sG f with cores := kG.cores.map (fun k => (k, c (if k = kG.cores.getD 1 0 then w else 0x00010203))) }
/-- A superstep's first phase under its notice, in every core; with an illegal header in one core, and after a first column. -/
theorem witness_SuperstepSteps_first :
    let n (k : Kernel) : Kernel := { k with notice := some 0 }
    let head (s : State) : Option Word := ((kG n).columnCores 0).head?.bind s.headerOf
    (sH n).kernel 1 = some (kG n) ∧ (kG n).stage = .waiting ∧ (kG n).notice = some 0 ∧ (kG n).frozenReq = none
    ∧ (∀ k ∈ (kG n).cores, (sH n).coreWaits k = true) ∧ (∀ k ∈ (kG n).columnCores 0, ((sH n).ctx (k, 0)).run = .atHeader)
    ∧ (sH n).stampsMet 0 ⟨2, [], []⟩ = true ∧ head (sH n) = some 0x00010203 ∧ (sH n).slotOpen (kG n) 0 0 = true
    ∧ (∀ j ∈ (kG n).columnCores 0, (sH n).headerOf j = some 0x00010203) ∧ sget 0 (kG n).colPhase 0 = 0
    ∧ (sH n).admits 0 ((kG n).phasePower (sH n).budget 0x00010203) = true ∧ (sH n).earlierWaits 0 1 = false
    ∧ head (sH n 0x00000203) = some 0x00010203 ∧ headerOk 0x00000203 = false
    ∧ (∀ k ∈ (kG n).cores, (sH n 0x00000203).coreWaits k = true)
    ∧ ((kG n).columnCores 0).filter (fun j => match (sH n 0x00000203).headerOf j with | some x => !headerOk x | none => false) = [kG.cores.getD 1 0]
    ∧ (kG (fun k => { k with stage := .running, cols := 3, colPhase := [(0, 1)] })).stage = .running := by decide +kernel
theorem witness_SuperstepSteps_release :
    0 < sget 0 (kG (entered 1 1)).colEnd 0 ∧ sget 0 (kG (entered 1 0)).colEnd 0 ≤ (sG (entered 1 0)).now
    ∧ (sG (entered 1 0)).slotOpen (kG (entered 1 0)) 1 0 = true ∧ (sG (entered 1 0)).slotOpen (kG (fun k => { entered 1 0 k with cols := 3 })) 1 1 = false
    ∧ (sG (entered 1 0)).earlierWaits 0 1 = false
    ∧ (sG (entered 1 0)).admits 0 ((kG (entered 1 0)).phasePower (sG (entered 1 0)).budget 0x00010203) = true := by decide +kernel
theorem witness_SuperstepSteps_waits : poor.admits 0 ((kG (entered 1 0)).phasePower poor.budget 0x00010203) = false := by decide +kernel
theorem witness_SuperstepSteps_end :
    let p : Phase := ⟨.compute, 16, 0, 2, false, 0, true⟩
    let at_ (g : Core → Core) : State := { sG id (fun c => g { c with ctl := { c.ctl with phase := some p } }) with now := 160 }
    let h := at_ id
    let i := at_ (fun c => { c with store := [(0, (0x6A00, true))] })
    let bad := at_ (fun c => { c with store := [(0, (0x00000203, true))] })
    let busy := at_ (fun c => { c with ctl := { c.ctl with issueAt := 161 } })
    -- the last block's signature word, at 4, is not the one expected
    let sig := at_ (fun c => { c with ctxs := [(0, { Ctx.reset with run := .atHeader, sigEnd := some ⟨0, false, 0, 4⟩ })]
                                      store := [(0, (0x00010203, true)), (1, (0x0001, false))] })
    let sent : State := { h with agenda := [⟨500, .messageArrival 21505 0 3 7 21504 0 true⟩] }
    -- core 0, whose parent runs no phase and holds a set that core 0 alone has given to
    let child : State := { State.reset with cores := [(parentOf 0, { Core.reset with vert := { Vert.reset with sets := [⟨0, 0, true, [], 0⟩] } })] }
    (sG.core 21504).ctl.phase = none ∧ (∀ x ∈ (h.core 21504).pend, h.now < x.due) ∧ (h.core 21504).ctl.phase = some p ∧ p.start + p.len * cyc 21504 = h.now
    ∧ (h.core 21504).ctl.stopped = false ∧ (h.core 21504).ctl.handling = none ∧ i.atHeader 21504 = false ∧ h.atHeader 21504 = true
    ∧ h.now < (busy.core 21504).ctl.issueAt ∧ (h.core 21504).ctl.issueAt ≤ h.now ∧ h.sigCheck (21504, 0) = none
    ∧ sig.atHeader 21504 = true ∧ sig.sigCheck (21504, 0) = some (.at_ .sigfault 4) ∧ h.messageLate 21504 h.beatTick = false
    ∧ sent.messageLate 21504 sent.beatTick = true ∧ h.orphanSet 21504 = false ∧ child.orphanSet 0 = true
    ∧ (h.core 21504).ctl.fifo = [] ∧ (h.core 21504).unfinished h.now = false ∧ h.headerOf 21504 = some 0x00010203 ∧ headerOk 0x00010203 = true
    ∧ bad.headerOf 21504 = some 0x00000203 ∧ headerOk 0x00000203 = false := by decide +kernel
theorem witness_SuperstepSteps_stops :
    let p : Phase := ⟨.compute, 16, 0, 2, false, 0, true⟩
    let ck : Checkpoint := ⟨0, [], 0, 24, 0, 0, none, 0⟩
    let s := sG (fun k => { entered 1 0 k with failing := some 21504 }) (fun c => { c with ctl := { c.ctl with phase := some p, ckpt := some ck } })
    let kn := kG (fun k => { entered 1 0 k with failing := some 21504 })
    let vec : State := { State.reset with gaf := sG.gaf, cores := kG.cores.map (fun k => (k, { Core.reset with
      near := [(Config.saveBase (Machine.tierOf k), 0x40), (Config.saveBase (Machine.tierOf k) + 4, 1), (Config.saveBase (Machine.tierOf k) + 8, 0x40), (Config.saveBase (Machine.tierOf k) + 12, 1)] })) }
    s.kernel 1 = some kn ∧ kn.stage = .running ∧ kn.stage ≠ .stopping true ∧ (∀ k ∈ kn.cores, ∀ x ∈ (s.core k).pend, s.now < x.due)
    ∧ (∀ k ∈ kn.cores, (s.core k).draining s.now = false ∧ (s.core k).ctl.waiting = [])
    ∧ (let t := sG (entered 1 0) (fun c => { c with pend := [⟨40, 0, .orFlags 1⟩], ctl := { c.ctl with phase := some p } })
       ∃ j ∈ kG.cores, (t.core j).draining t.now = true)
    ∧ (let none_ (k : Kernel) : Kernel := { k with width := true, failing := some 21504, image := { k.image with profiles := [] } }
       (kG none_).width = true ∧ s.chooseProfile (kG none_).image (kG none_).columns = none)
    ∧ (kG (fun k => { k with replays := 1 })).replaying = true ∧ (kG (fun k => { k with stage := .done, fatal := true })).fatal = true
    ∧ (kG (fun k => { k with scheds := [⟨0, 3, []⟩] })).scheds = [⟨0, 3, []⟩]
    ∧ 21504 ∈ kn.cores ∧ (s.core 21504).ctl.phase = some p ∧ p.skew = 0 ∧ (s.core 21504).ctl.ckpt = some ck ∧ kn.failing = some 21504 ∧ kn.replays < 3 ∧ kn.width = false
    ∧ (kG (entered 1 0)).failing = none ∧ (kG (fun k => { k with stage := .stopping true })).stage = .stopping true
    ∧ (∀ k ∈ kG.cores, c0Free vec k ∧ (vec.core k).vector (Machine.tierOf k) 3 = some 0x40) ∧ kG.step < kG.image.steps.length := by unfold c0Free; decide +kernel
theorem witness_SuperstepSteps_therm :
    let k := (run1 []).serviceCore 0
    let s : State := { State.reset with cores := [(k, { Core.reset with near := [(Config.saveBase (Machine.tierOf k), 0x40), (Config.saveBase (Machine.tierOf k) + 4, 1)] })] }
    k = s.serviceCore 0 ∧ c0Free s k ∧ (s.ctx (k, 0)).rep = none ∧ (s.core k).vector (Machine.tierOf k) 1 = some 0x40 := by unfold c0Free; decide +kernel
/-- The smallest image (R301), at far 0x200400: a header and six sections, all but HEAD empty. Its digest was computed outside
the model. -/
def smallImage : Sparse Byte := [
  (0x200400, 0x52), (0x200401, 0x4E), (0x200402, 0x45), (0x200403, 0x42), (0x200404, 0x01), (0x200406, 0x06), (0x200410,
  0x35), (0x200411, 0x7C), (0x200412, 0x3C), (0x200413, 0xF5), (0x200414, 0xF5), (0x200415, 0x70), (0x200416, 0x55),
  (0x200417, 0xAF), (0x200418, 0x4E), (0x200419, 0x7C), (0x20041A, 0xC9), (0x20041B, 0xDC), (0x20041C, 0xC0), (0x20041D,
  0x24), (0x20041E, 0x6D), (0x20041F, 0x66), (0x200420, 0xFD), (0x200421, 0xDF), (0x200422, 0xB0), (0x200423, 0x86),
  (0x200424, 0xA8), (0x200425, 0x51), (0x200426, 0x90), (0x200427, 0x0F), (0x200428, 0x66), (0x200429, 0x19), (0x20042A,
  0x18), (0x20042B, 0x0B), (0x20042C, 0x8A), (0x20042D, 0x28), (0x20042E, 0x18), (0x20042F, 0x46), (0x200430, 0x45),
  (0x200431, 0x2D), (0x200432, 0x07), (0x200433, 0xE3), (0x200434, 0xF4), (0x200435, 0x3B), (0x200436, 0x3D), (0x200437,
  0x19), (0x200438, 0xE3), (0x200439, 0x6A), (0x20043A, 0x32), (0x20043B, 0xD5), (0x20043C, 0x45), (0x20043D, 0xD7),
  (0x20043E, 0x02), (0x20043F, 0x75), (0x200440, 0x01), (0x20044C, 0xA0), (0x200450, 0x02), (0x200458, 0xA0), (0x200460,
  0x03), (0x200468, 0xA0), (0x200470, 0x04), (0x200478, 0xA0), (0x200480, 0x05), (0x200488, 0xA0), (0x200490, 0x07),
  (0x200498, 0xA0)]
/-- A node's words. -/
def words8 (l : List DWord) : BitVec 512 := BitVec.ofNat 512 (leNat (l.flatMap (fun x => leBytes 8 x.toNat)))
/-- A node at 0x40 of a kind, with these words. -/
def nodeOf (kind : BitVec 4) (l : List DWord) (loops : List LoopFrame := []) : NodeRun := ⟨0x40, words8 l, kind, 0x80, loops, false, none⟩
/-- Task 1 of partition 0 runs a node; core 0's own bank holds 5 at offset 8; far memory holds a ring's entry at 0x10000, a SIGNAL
node at 0x10040, a command block at 0x10080, a launch record at 0x10100, whose image stands at 0x10400. -/
def sT (nodes : List NodeRun) (status : Option (BitVec 16) := none) (ending : Bool := false) : State :=
  { sFar with
    cores := [(0, { (sFar.core 0) with near := (0x01000008, 5) :: vectors })]
    dev := { State.reset.dev with far := [(0x200000, 0x40), (0x200002, 1), (0x200008, 0x40), (0x20000F, 0x80), (0x200040, 7), (0x200050, 8), (0x200057, 0x80),
      (0x200081, 0x10), (0x20008F, 0x80), (0x200090, 0x40), (0x2000A1, 0x20), (0x2000A8, 1), (0x200101, 4), (0x200102, 1), (0x200108, 1), (0x200110, 8)] ++ smallImage }
    gaf := ⟨[(0x200400, ⟨160, [], []⟩)], [(1, some ⟨0, 0, 0, 0x8000000000000040, 0, false, status, nodes, ending, false⟩)], [], 2⟩ }
/-- What a read of the gaffer gives. -/
def got (r : FarRes (List Byte) × State) : Option (List Byte) :=
  match r.1 with
  | .ok b => some b
  | _ => none
/-- TIME runs at its slowest or faster, and starts at 0 (R275). -/
theorem time_least (s : State) : s.wallNow * 999950 / (1000000 * nsUnit) ≤ s.time :=
  Nat.div_le_div_right (Nat.mul_le_mul_left _ (Nat.le_add_right _ _))
theorem time_start (s : State) (h : s.wallNow = 0) : s.time = 0 := by simp [State.time, h]

theorem witness_TaskSteps_nodes :
    let n := nodeOf 4 [4, 0x80, 0x8000000000000008, 7, 5, 0, 0x100, 0]
    let f : LoopFrame := ⟨0x40, 2⟩
    let l := nodeOf 5 [5, 0x80, 0x8000000000000008, 7, 5, 0x200000000, 0x100, 0x8000000000000018] [f]
    let t (n : NodeRun) : Task := ⟨0, 0, 0, 0x8000000000000040, 0, false, none, [n], false, false⟩
    let m : DWord := BitVec.ofNat 64 5
    let at_ : Nat := Config.bankBase + ((dw n.words 2).extractLsb' 0 25).toNat
    (sT [n]).task 1 = some (t n) ∧ (t n).node 0x40 [] = some n ∧ (t n).status = none ∧ (sT [l]).task 1 = some (t l) ∧ (t l).node 0x40 [f] = some l
    ∧ (dw n.words 2).getLsbD 63 = true ∧ ((dw n.words 2).extractLsb' 48 15).toNat = 0 ∧ (∀ p ∈ ((sT [n]).core 0).pend, 0 < p.due) ∧ ((sT [n]).core 0).poison = []
    ∧ n.word = none ∧ (sT [n] (some 0x0207)).task 1 = some { t n with status := some 0x0207 } ∧ coreNat (sT [n]) 0 at_ 8 = 5 ∧ ((dw n.words 5).extractLsb' 0 2).toNat = 0 ∧ m &&& dw n.words 3 = dw n.words 4 ∧ m &&& 3 ≠ dw n.words 4
    ∧ f.iter = ((dw l.words 5).extractLsb' 32 32).toNat ∧ 1 ≠ ((dw l.words 5).extractLsb' 32 32).toNat ∧ dw n.words 7 = 0
    ∧ (dw l.words 7).getLsbD 63 = true ∧ ((sT [n]).core 0).ctl.rmw = [] := by decide +kernel
/-- A SIGNAL that adds to a near word, and a LOOP that has decided: free, and behind an atomic's slot. -/
theorem witness_TaskSteps_signals :
    let n := nodeOf 7 [7, 0x80, 0x8000000000000008, 7, 1, 0, 0, 0]
    let l : NodeRun := { nodeOf 5 [5, 0x80, 0x8000000000000008, 7, 5, 0x200000000, 0x100, 0x8000000000000018] [⟨0x40, 2⟩] with word := some 2 }
    let far := nodeOf 7 [7, 0x80, 0x10040, 7, 1, 0, 0, 0]
    let t (n : NodeRun) : Task := ⟨0, 0, 0, 0x8000000000000040, 0, false, none, [n], false, false⟩
    let a : Nat := Config.bankBase + ((dw n.words 2).extractLsb' 0 25).toNat
    let busy : State := { sT [n] with cores := [(0, { (sT [n]).core 0 with ctl := { ((sT [n]).core 0).ctl with rmw := [⟨0, 40, a / 8, 1⟩] } })] }
    (sT [n]).task 1 = some (t n) ∧ (t n).node 0x40 [] = some n ∧ n.kind ≠ 5 ∧ n.nowait = false ∧ (dw n.words 2).getLsbD 63 = true
    ∧ (sT [l]).task 1 = some (t l) ∧ (t l).node 0x40 [⟨0x40, 2⟩] = some l ∧ l.kind = 5 ∧ l.word = some 2 ∧ (dw l.words 7).getLsbD 63 = true
    ∧ ((sT [n]).core 0).ctl.rmw = [] ∧ coreNat (sT [n]) 0 a 8 = 5 ∧ (busy.core 0).held 0 a none = true
    ∧ (∀ p ∈ (busy.core 0).pend, busy.now < p.due) ∧ (busy.core 0).poison = [] ∧ coreNat busy 0 a 8 = 5
    ∧ (t far).node 0x40 [] = some far ∧ (dw far.words 2).getLsbD 63 = false := by decide +kernel
/-- SWITCH of word 5 under mask 7 with 5 and with 6 ways, whose table stands at 0x10000. -/
theorem witness_TaskSteps_switch :
    let m : DWord := BitVec.ofNat 64 5 &&& 7
    let n := nodeOf 6 [6, 0x80, 0x8000000000000008, 7, 6, 0x10000, 0, 0]
    ((5 : DWord).extractLsb' 0 5).toNat ≤ m.toNat ∧ m.toNat < ((dw n.words 4).extractLsb' 0 5).toNat
    ∧ (got ((sT [n]).gafRead 0 ((dw n.words 5).toNat + 8 * m.toNat) 8 (.nodeSwitch 1 0x40 []))).isSome = true := by decide +kernel
/-- The table stands in peer 2, whose answer has not come. -/
theorem witness_TaskSteps_peer :
    let m : DWord := BitVec.ofNat 64 5 &&& 7
    let n := nodeOf 6 [6, 0x80, 0x8000000000000008, 7, 6, 0x10000, 0, 0]
    let s : State := { sT [n] with
      cols := [(0, { Column.reset with rangeC := [⟨0, 0x10000, 0x10000, Config.peerBase + 2 * 2 ^ 44, true, true⟩] })]
      parts := [(0, { Part.reset with firewall := [(0, 7), (1, 0xFFFFFFFFFF000)], peers := [(2, 0x2000A009)] })]
      dev := { State.reset.dev with fabric := { Fabric.reset with bank0 := [(9, 0x30008)], ports := [(3, { Port.reset with up := true })] } } }
    m.toNat < ((dw n.words 4).extractLsb' 0 5).toNat
    ∧ (match (s.gafRead 0 ((dw n.words 5).toNat + 8 * m.toNat) 8 (.nodeSwitch 1 0x40 [])).1 with
      | .wait => true
      | _ => false) = true := by decide +kernel
theorem witness_TaskSteps_waits :
    let n := nodeOf 8 [8, 0x80, 0x8000000000000008, 7, 4, 0, 1, 0]
    let w : Due := ⟨120, .nodeWait 1 0x40 [] 0⟩
    let s : State := { sT [n] with agenda := [w] }
    let limit := 1000 * ((dw n.words 6).extractLsb' 0 32).toNat
    s.task 1 = some ⟨0, 0, 0, 0x8000000000000040, 0, false, none, [n], false, false⟩ ∧ limit ≠ 0 ∧ s.wallNow = 0 ∧ 0 - 0 < limit
    ∧ limit ≤ ({ s with wall := 2 * 1000000 * nsUnit } : State).wallNow * 999950 / (1000000 * nsUnit)
    ∧ (∃ e ∈ s.agenda, e.ev = .nodeWait 1 0x40 [] 0) ∧ (BitVec.ofNat 64 5 &&& dw n.words 3 ≠ dw n.words 4)
    ∧ 1000 * ((dw (nodeOf 8 [8, 0x80, 0x8000000000000008, 7, 4, 0, 0, 0]).words 6).extractLsb' 0 32).toNat = 0 := by decide +kernel
theorem witness_TaskSteps_waits_agenda : ∀ e ∈ ([⟨120, .nodeWait 1 0x40 [] 0⟩] : List Due), ∀ l x, e.ev = .nodeWait 1 0x40 l x → l = [] ∧ x = 0 := by
  rintro e he l x h
  obtain rfl : e = ⟨120, .nodeWait 1 0x40 [] 0⟩ := by simpa using he
  cases h
  exact ⟨rfl, rfl⟩
theorem witness_TaskSteps_waits_none : ∀ e ∈ (sT []).agenda, ∀ l x, e.ev ≠ .nodeWait 1 0x40 l x := by
  rintro e he l x h
  obtain rfl | rfl : e = ⟨Config.sampleTicks, .sensorSample []⟩ ∨ e = ⟨Config.refillTicks, .budgetRefill⟩ := by simpa [sT, sFar, run1, State.reset] using he
  all_goals cases h
theorem witness_TaskSteps_chain :
    let s := sT []
    let x : BitVec 512 := BitVec.ofNat 512 (leNat ((got (s.gafRead 0 0x10040 64 (.nodeSuccessor 1 0x10040 []))).getD []))
    s.task 1 = some ⟨0, 0, 0, 0x8000000000000040, 0, false, none, [], false, false⟩ ∧ 0x10040 % 64 = 0 ∧ 0x10044 % 64 ≠ 0 ∧ 2 ^ 57 - 64 < 2 ^ 57 ∧ (2 ^ 57 - 64) % 64 = 0
    ∧ (got (s.gafRead 0 0x10040 64 (.nodeSuccessor 1 0x10040 []))).isSome = true ∧ s.nodeOk 0 x = true ∧ x.extractLsb' 0 4 = 7
    ∧ x.extractLsb' 5 11 = 0 ∧ x.extractLsb' 32 32 = 0 := by decide +kernel
/-- A node with a reserved bit set, at the lowest and the highest of them. -/
theorem witness_TaskSteps_reserved :
    let s : State := { sT [] with dev := { State.reset.dev with far := [(0x200040, 0x27), (0x200083, 0), (0x200087, 0x80)] } }
    let x (a : Nat) : BitVec 512 := BitVec.ofNat 512 (leNat ((got (s.gafRead 0 a 64 (.nodeSuccessor 1 a []))).getD []))
    (x 0x10040).extractLsb' 5 11 ≠ 0 ∧ (x 0x10080).extractLsb' 32 32 ≠ 0 := by decide +kernel
theorem witness_TaskSteps_copy :
    let n := nodeOf 2 [2, 0x80, 0x10080, 0, 0, 0, 0, 0]
    let s := sT [n]
    let x := leNat ((got (s.gafRead 0 (dw n.words 2).toNat 64 (.nodeCopy 1 0x40 []))).getD [])
    0 = ((dw n.words 3).extractLsb' 0 6).toNat ∧ partOfQuad s.dev.mode (0 / 16) = 0 ∧ partOfQuad 1 (63 / 16) ≠ 0
    ∧ (got (s.gafRead 0 (dw n.words 2).toNat 64 (.nodeCopy 1 0x40 []))).isSome = true
    ∧ nodeKindOf n.kind.toNat ((dw n.words 3).extractLsb' 8 2).toNat = .cpy ∧ cmdIll .cpy x 0 = false ∧ (Cmd.ofNat x).rva = false
    ∧ (cmdRange .cpy (Cmd.ofNat x) 0).toOption.isSome = true
    ∧ (((s.gafRead 0 (dw n.words 2).toNat 64 (.nodeCopy 1 0x40 [])).2).col 0).slot 8 = none := by decide +kernel
theorem witness_TaskSteps_kernel :
    let n := nodeOf 1 [1, 0x80, 0x10100, 0, 0, 0, 0, 0]
    let ev : Event := .nodeKernel 1 0x40 []
    let r := (sT [n]).gafRead 0 (dw n.words 2).toNat 256 ev
    let x := leNat ((got r).getD [])
    let l := Launch.ofNat x
    -- the status of the launch, with the image as it is and with its first byte changed
    let status (r : State) : Option (BitVec 16 × Bool) := match r.translate 0 (r.homeCol 0) l.image false with
      | (.ok a, v) => (match (v.setWord 1 n (some a)).imageAt 0 (v.homeCol 0) l.image a ev with
        | (.ok (some im), w) => some (w.launchCheck 0 l (some im), (w.holder 0 l.cols l.tiers).isNone
            && (w.task 1).map (fun t => t.nodes) == some [{ n with word := some a }])
        | _ => none)
      | _ => none
    (got r).isSome = true ∧ launchBad x = false ∧ l.binds = 0 ∧ l.sched = 0 ∧ status r.2 = some (0, true)
    ∧ status { r.2 with dev := { r.2.dev with far := sset 0 r.2.dev.far 0x200400 0 } } = some (0x0201, true) := by
  decide +kernel
theorem witness_TaskSteps_ends :
    let n := nodeOf 1 [1, 0x80, 0x10100, 0, 0, 0, 0, 0]
    let T : Task := ⟨0, 0, 0, 0x8000000000000040, 0, false, none, [n], false, false⟩
    let s := sG
    (kG (fun k => { k with fatal := true })).fatal = true ∧ kG.fatal = false ∧ s.kernelOver 1 (kG (fun k => { k with stage := .done })) = true
    ∧ (sG id (fun c => { c with ctl := { c.ctl with kernel := some 1 }, ctxs := [(0, { Ctx.reset with stxOut := [1] })] })).kernelOver 1 (kG (fun k => { k with stage := .done })) = false
    ∧ (sG id (fun c => { c with ctxs := [] })).gaf.kernels ≠ [] ∧ kG.cores.all ((sG id (fun c => { c with ctxs := [] })).savedCore) = true
    ∧ T.nodes.find? (fun x => x.addr == kG.node) = some n := by decide +kernel
theorem witness_TaskSteps_start :
    let q : Queue := { Queue.reset with en := true, qbase := 0x10, tail := 1 }
    let s : State := { sT [] with parts := [(0, { (sT []).part 0 with queues := [(5, q)] })] }
    let m := leNat ((got (s.gafRead 0 q.headAddr 64 (.taskStart 0))).getD [])
    -- what the look at the head gives: its entry, whether its resources are free, and the same state
    let look (s : State) (m : Nat) : Bool := match s.readHead 0 (.taskStart 0) 5 with
      | (some h, t) => h.entry == some m && s.headFree 0 h && t == s
      | _ => false
    let barred : State := { s with dev := { s.dev with far := sset 0 s.dev.far 0x200018 1 } }
    s.gaf.kernels = [] ∧ q.en = true ∧ q.qstop = false ∧ q.tail.toNat % 2 ^ q.log2n.toNat ≠ q.head.toNat % 2 ^ q.log2n.toNat
    ∧ (∀ j, j < 64 → j ≠ 5 → sget .reset (s.part 0).queues j = .reset) ∧ Queue.reset.en = false
    ∧ look s m = true ∧ m.testBit 192 = false ∧ s.entryOk 0 m = true ∧ (got (s.gafRead 0 q.headAddr 64 (.taskStart 0))).map leNat = some m
    ∧ look barred (m + 2 ^ 192) = true ∧ (m + 2 ^ 192).testBit 192 = true
    ∧ ({ barred with gaf := { s.gaf with tasks := [(1, some ⟨0, 5, 0, 0, 0, false, none, [], false, false⟩)] } } : State).queueBusy 0 5 = true := by decide +kernel
theorem witness_TaskSteps_stamp :
    let s := sT [] none true
    s.task 1 = some ⟨0, 0, 0, 0x8000000000000040, 0, false, none, [], true, false⟩ ∧ s.refOk 0 0x8000000000000040 = true ∧ (0x8000000000000040 : DWord).getLsbD 63 = true
    ∧ (s.core 0).ctl.rmw = [] ∧ (∀ p ∈ (s.core 0).pend, s.now < p.due) := by decide +kernel
theorem witness_HostRegisterSteps :
    let s := run1 []
    let part (p : Part) : State := { s with parts := [(1, p)] }
    let q : Queue := { Queue.reset with en := true }
    let holds (u : Queue) : Prop := u.tail.toNat % 2 ^ u.log2n.toNat ≠ u.head.toNat % 2 ^ u.log2n.toNat
    s.dev.booted = true ∧ (s.part 1).flrStep = 0 ∧ ((part { Part.reset with flrStep := 3 }).part 1).flrStep ≠ 0
    ∧ (sget .reset (({ Part.reset with queues := [(5, q)] } : Part).queues) (5 % 64)).en = true ∧ (1 : DWord).getLsbD 0 = true ∧ Queue.reset.en = false
    ∧ holds { Queue.reset with tail := (1 : DWord).setWidth 16 } ∧ ¬ holds Queue.reset ∧ ¬ holds { Queue.reset with tail := (16 : DWord).setWidth 16 }
    ∧ (s.part 1).tinv = false ∧ ({ Part.reset with tinv := true } : Part).tinv = true
    ∧ 12288 < 0 + ((12289 : DWord).extractLsb' 0 14).toNat ∧ 0 + ((12288 : DWord).extractLsb' 0 14).toNat ≤ 12288
    ∧ (s.part 1).attest.busy = false ∧ (s.part 1).attest.addr.toNat % 64 = 0 ∧ (32 : DWord).toNat % 64 ≠ 0
    ∧ 4 % 8 ≠ 0 ∧ 0x108 < 0x1000000 ∧ 1 < 4 ∧ 0x2FFFFF8 = 0x1000000 * (1 + 1) + 0xFFFFF8 ∧ 0xFFFFF8 < 0x1000000 ∧ 0x4018 = 0x4000 + 8 * 3 ∧ 0x17F8 = 0x1000 + 8 * 255
    ∧ 0x4038 ≤ 0xFFFFF8 ∧ 0x1102F8 = 0x110100 + 8 * 63 ∧ 0x5000000 ≤ 0x5000000 := by decide +kernel
/-- A sensor above TLIM. -/
def hotDev : State := { run1 [] with dev := { State.reset.dev with power := { Power.reset with sensors := [(0, 0x6060)] } } }
theorem witness_PowerSteps :
    let s := run1 []
    let p := s.dev.power
    (∃ e ∈ hotDev.dev.power.sensors, hotDev.dev.power.tlim < e.2.extractLsb' 8 8) ∧ ¬ (∃ e ∈ p.sensors, p.tlim < e.2.extractLsb' 8 8)
    ∧ s.dev.booted = true ∧ p.above = false ∧ p.hlim.toNat < 3201 ∧ 3200 ≤ p.hlim.toNat
    ∧ min p.req p.ceil = (if p.busy then p.target else p.cur) ∧ min 10 p.ceil ≠ (if p.busy then p.target else p.cur)
    ∧ ((379 : DWord).extractLsb' 0 12).toNat < Config.idleFloor ∧ Config.idleFloor ≤ ((380 : DWord).extractLsb' 0 12).toNat
    ∧ (380 : DWord).getLsbD 12 = false ∧ (0x117C : DWord).getLsbD 12 = true ∧ ((0x117C : DWord).extractLsb' 0 12).toNat = 380
    ∧ (let t : State := { s with parts := [(0, { Part.reset with floor := 381 })] }
       380 < (t.part 0).floor.toNat + (t.part 1).floor.toNat + (t.part 2).floor.toNat + (t.part 3).floor.toNat
       ∧ (s.part 0).floor.toNat + (s.part 1).floor.toNat + (s.part 2).floor.toNat + (s.part 3).floor.toNat ≤ 380)
    ∧ (s.part 1).flrStep = 0 ∧ p.eff.toNat < 0 - (s.part 1).floor.toNat + 3201 ∧ 0 - (s.part 1).floor.toNat + 3200 ≤ p.eff.toNat := by decide +kernel
/-- A device whose key table lists key 5 for partition 1, whose first routing entry sends device 9 by port 3, and whose port 3 is up. -/
def sF (f : Fabric → Fabric := id) : State :=
  { run1 [] with
    parts := [(1, { Part.reset with firewall := [(0, 7), (1, 0x8000000000)] })]
    dev := { State.reset.dev with fabric := f { Fabric.reset with
      myid := 7, keys := [(0, 0x50005)], bank0 := [(9, 0x30008)], ports := [(3, { Port.reset with up := true })] } } }
/-- A flit of key 5 to a device, of a type and class. -/
def flit (dest : BitVec 13) (cls : BitVec 2) (typ : BitVec 3) (key : BitVec 16 := 5) (ok : Bool := true) : Flit := ⟨dest, 2, cls, typ.setWidth 4, key, 0, 0, 0x200000, [1], ok⟩

theorem witness_FabricSteps :
    let fb := (sF).dev.fabric
    let lists (i : Nat) (key : BitVec 16) : Prop := (sget 0 fb.keys i).getLsbD 18 = true ∧ (sget 0 fb.keys i).extractLsb' 0 16 = key
    (sF).dev.booted = true ∧ fb.pend = false ∧ (sF (fun f => { f with pend := true })).dev.fabric.pend = true
    ∧ lists 0 5 ∧ 1 = ((sget 0 fb.keys 0).extractLsb' 16 2).toNat ∧ (5 : BitVec 16) ≠ 0 ∧ (5 : BitVec 16) ≠ 0xFFFF
    ∧ (flit 9 0 0).typ = 0 ∧ 7 < (⟨9, 2, 0, 8, 5, 0, 0, 0, [], true⟩ : Flit).typ.toNat ∧ (flit 9 0 1).typ ≠ 0 ∧ (flit 9 0 7).typ.toNat ≤ 7
    ∧ (flit 9 0 1).dest ≠ fb.myid ∧ (flit 7 0 1).dest = fb.myid ∧ (flit 9 0 1).cls ≠ 2 ∧ (flit 7 2 1).cls = 2
    ∧ (fb.route fb.act 9).getLsbD 3 = true ∧ ((fb.route fb.act 9).extractLsb' 16 4).toNat = 3 ∧ ((sF).port 3).up = true ∧ ((sF).port 3).stopped = false
    ∧ ((sF).port 3).train = false ∧ (∀ j, j < 16 → (fb.route fb.act 8).getLsbD j = true → ((sF).port j).up = false)
    ∧ (flit 7 0 1 5 false).crcOk = false ∧ (flit 7 0 1).crcOk = true ∧ (flit 7 0 1).typ ≠ 3
    ∧ (fb.flow (flowKey 0 2)).held = [] ∧ ((511 : BitVec 10) - (fb.flow (flowKey 0 2)).next).toNat < 512 ∧ (511 : BitVec 10) ≠ (fb.flow (flowKey 0 2)).next
    ∧ (sF).dev.place 0x200000 = .hbm ∧ ((sF).part 1).passes 0x200000 true = true := by decide +kernel
/-- A key of zero, one that no entry lists, and notices' key on another type are refused; the notices' key on type 6 passes. -/
theorem witness_FabricSteps_keys :
    let fb := (sF).dev.fabric
    ((0x50005 : DWord).extractLsb' 0 16 ≠ (6 : BitVec 16)) ∧ (∀ i, i < 64 → i ≠ 0 → (sget 0 fb.keys i).getLsbD 18 = false)
    ∧ (flit 7 0 1 0xFFFF).typ ≠ 6 ∧ (flit 7 3 6 0xFFFF).typ = 6 := by decide +kernel
theorem witness_FabricSteps_markers :
    let m (f : RxFlow) (r : List PeerReq) : Fabric := (sF (fun fb => { fb with flows := [(flowKey 1 2, f)], reqs := r })).dev.fabric
    let r : PeerReq := ⟨2, 0, 0, 0x200000, 1, .swap, 0x200000⟩
    let y : Flit := { flit 7 1 7 with fseq := 1 }
    ((m ⟨0, [], [y]⟩ [r]).flow (flowKey 1 2)).markers = [y] ∧ y.fseq = 1 ∧ ((m ⟨0, [], [y]⟩ [r]).flow (flowKey 1 2)).held = []
    ∧ (1 : BitVec 10) = ((m ⟨0, [], [y]⟩ [r]).flow (flowKey 1 2)).next + 1 ∧ (m ⟨0, [], [y]⟩ [r]).reqs = [r] ∧ r.dest = 2 ∧ r.cls = 0
    ∧ (∀ z ∈ ((m ⟨0, [], []⟩ []).flow (flowKey 1 2)).markers, z.fseq ≠ 1) ∧ ((1 : BitVec 10) - 0).toNat < 512 := by decide +kernel
theorem witness_FabricSteps_links :
    let s := sF (fun f => { f with ports := [] })
    let fb := s.dev.fabric
    let n : Notice := ⟨5, 3, .down, 1, 0⟩
    (∀ i, i < 4 → (s.part i).nt.en = false) ∧ fb.reqs = [] ∧ (fb.myid, fb.nseq) ∉ fb.seen ∧ 15 < 16 ∧ (n.dev, n.nseq) ∉ fb.seen
    ∧ (n.dev, n.nseq) ∈ (sF (fun f => { f with seen := [(5, 1)] })).dev.fabric.seen := by decide +kernel
theorem witness_FabricSteps_ports : ∀ j, ((sF (fun f => { f with ports := [] })).port j).up = false := fun _ => rfl

theorem witness_ResetAndPartitionSteps :
    let s := run1 []
    let fn (f : Func) : State := { s with dev := { s.dev with funcs := [(2, f)] } }
    let bound : Func := { Func.reset with en := true, part := 1 }
    let flr : State := { s with parts := [(0, { Part.reset with flrStep := 3 }), (1, { Part.reset with flrStep := 3 }), (2, { Part.reset with flrStep := 3 }), (3, { Part.reset with flrStep := 3 })] }
    (sget .reset s.dev.funcs 2).en = false ∧ (sget .reset (fn bound).dev.funcs 2).en = true ∧ (sget .reset (fn bound).dev.funcs 2).part.toNat = 1
    ∧ ((fn bound).part 1).flrStep = 0 ∧ (∀ i, i < 4 → (flr.part i).flrStep ≠ 0) ∧ s.gaf.tasks = [] ∧ s.dev.flash = []
    ∧ swf .reset s.cores = true ∧ s.dev.booted = true ∧ (0 : DWord).setWidth 2 = s.dev.mode ∧ (1 : DWord).setWidth 2 ≠ s.dev.mode
    ∧ (1 : DWord).setWidth 2 ≠ (3 : BitVec 2) ∧ (∀ p, p < 4 → ∀ q ∈ (s.part p).queues, q.2.en = false) ∧ s.dev.busy = false
    ∧ (sget .reset (fn { bound with bme := true }).dev.funcs 2).bme = true ∧ (sget .reset (fn bound).dev.funcs 2).bme = false := by decide +kernel
theorem witness_ResetAndPartitionSteps_drain : ∀ e ∈ (run1 []).agenda, (∀ k c n va d ep, e.ev ≠ .stxComplete k c n va d ep)
    ∧ (∀ r, e.ev ≠ .deviceAtomicReply r) ∧ (∀ a b c d x y, e.ev ≠ .objectReply a b c d x y) ∧ ∀ c j, e.ev ≠ .engineStampWrite c j := by
  intro e he
  obtain rfl | rfl : e = ⟨Config.sampleTicks, .sensorSample []⟩ ∨ e = ⟨Config.refillTicks, .budgetRefill⟩ := by
    simpa [run1, State.reset] using he
  all_goals simp
theorem witness_ResetAndPartitionSteps_errors :
    let n (b : Word) : Nat := ((List.range 32).filter (fun i => b.getLsbD i)).length
    n 0 = 0 ∧ n 0x80000000 = 1 ∧ 1 < n 0xC0000000 ∧ 0 < n 1 ∧ ((sU [opOf (.mzero 1)]).core 0).slice.queue = [opOf (.mzero 1)] := by decide +kernel

theorem witness_StepRunsTheFetchedInstruction :
    let s : State := { run1 [(1, 5)] id (code 0 [0x08890200, 0x6A00]) with agenda := [] }
    let now := max s.now 0
    let s1 := (({ s with now := now } : State).settle 0 now).looks 0 now
    let s2 : State := { s1.take 0 1 with cur := (0, 1), event := none }
    s.units = [] ∧ s.nextCore = some (0, 0) ∧ s.agenda.head? = none ∧ s1.nextIssue 0 = some (0, 1) ∧ 0 ≤ s1.now ∧ (s2.ctx (0, 1)).run = .running
    ∧ s2.leaderLate 0 1 = false ∧ (s2.fetch (0, 1)).toOption.isSome = true
    ∧ s.sigCheck (0, 1) = none ∧ (s.ctx (0, 1)).rep = none ∧ s.storeWord 0 (s.ctx (0, 1)).pc.toNat = some (0x08890200, true)
    ∧ isHeader 0x08890200 = false ∧ (decode (s.wordsAt 0 (s.ctx (0, 1)).pc.toNat)).toOption.isSome = true := by decide +kernel
theorem witness_StepRunsTheFetchedInstruction_trap :
    let s : State := { run1 [] id (code 0 [0x0000BE00, 0x6A00]) with agenda := [] }
    let s1 := (({ s with now := max s.now 0 } : State).settle 0 (max s.now 0)).looks 0 (max s.now 0)
    let s2 : State := { s1.take 0 1 with cur := (0, 1), event := none }
    s.nextCore = some (0, 0) ∧ s1.nextIssue 0 = some (0, 1) ∧ s2.leaderLate 0 1 = false ∧ (s2.fetch (0, 1)).toOption.isSome = false := by decide +kernel
theorem witness_StepRunsTheFetchedInstruction_agenda :
    State.reset.units = [] ∧ State.reset.agenda = [⟨Config.sampleTicks, .sensorSample []⟩, ⟨Config.refillTicks, .budgetRefill⟩] ∧ State.reset.nextCore = none
    ∧ (due .swap).event = some .swap ∧ encode (.swap) = [] ∧ State.reset.event = none := by decide +kernel
theorem witness_DecodeInvertsEncode :
    (Instr.add q0 5 6 7).wellFormed = true ∧ encode (.add q0 5 6 7) ≠ [] ∧ encode Event.swap.row = [] := by decide +kernel
theorem gives_next {o : Host.Outcome State Fault Refusal} {p : State → Bool} (h : gives o p = true) : ∃ t, o = .next t := by
  cases o with
  | next t => exact ⟨t, rfl⟩
  | _ => cases h
theorem witness_StepKeepsMemoryCanonical :
    let s := (run1 [(2, 6), (9, 5)]).withFetchWord 32 0x08890200
    memoryCanonical s = true ∧ ∃ t, step s = .next t :=
  ⟨by decide, gives_next test_steps.1⟩
theorem witness_ChecksComeInTheirOrder (s : State) :
    exec (.mclr p0 3) s = issue { len := 1, hdr := p0 }
      (fun s => .ok ⟨s.modCtx s.cur (fun x => x.modMsg 3 (fun r => r.clear s.now)), .next⟩) s := rfl
theorem witness_ChecksComeInTheirOrder_cases :
    let need (h : Hdr) (ill : Bool) (priv : Option Nat) : Need := { len := 1, hdr := h, rs := [1], rd := [3], ill := ill, priv := priv }
    let off : Hdr := ⟨0, false, 1, false⟩
    let under : State := run1 [] id (fun c => { c with pend := [⟨60, 1, .g 1 7⟩] })
    illegal (need p0 true none) sZ = true ∧ illegal (need p0 false (some 4)) sZ = false ∧ (need p0 false (some 4)).priv ≠ none
    ∧ illegal (need off false none) sZ = false ∧ guardWait (need off false none) sZ = none ∧ guardHolds (need off false none) sZ = false
    ∧ (waitFor (need p0 false none) under).isSome = true ∧ guardWait (need p0 false none) under = none ∧ guardHolds (need p0 false none) under = true := by decide +kernel

/-! ### Further clauses -/

/-- c0 of a slaved phase's core of tier 3 behind its leader, whose network holds one transfer to 8, or nothing. -/
def sFol (w : Word) (fifo : List Fwd := [⟨0, 0, 8, true⟩]) (f : Ctx → Ctx := id) : State :=
  { State.reset with
    cur := (21505, 0)
    cores := [(21505, code 0 [w, 0x6A00, 0x6A00] { Core.reset with
      near := vectors, ctxs := [(0, f { Ctx.reset with run := .running, g := [(1, 8)] })]
      ctl := { Ctl.reset with turn := some 0, phase := some ⟨.compute, 1000, 0, 0, true, 1, true⟩, fifo := fifo } })] }
theorem witness_BranchesReachTheirTarget_follower :
    let s := sFol 0x5A00
    Follower s ⟨0, 0, 8, true⟩ [] ∧ ownPath (sFol 0x5A00 []) ∧ ownPath (sJ 0x5A00)
    ∧ Ready { len := 1, hdr := p0, transfer := true, occ := 3 } s ∧ Ready { len := 3, hdr := p0, transfer := true, occ := 3 } s
    ∧ Ready { len := 1, hdr := openHdr 3 true, noGuard := true, transfer := true, endKind := 2, occ := 3 } s
    ∧ Ready { len := 3, hdr := openHdr 0 false, noGuard := true, transfer := true, endKind := 2, occ := 3 } s
    ∧ Ready { len := 1, hdr := p0, transfer := true, endKind := 2, rs := [1], occ := 3 } s :=
  ⟨⟨by decide, by decide, by decide, ⟨.compute, 1000, 0, 0, true, 1, true⟩, by decide, rfl, by decide⟩, by unfold ownPath; decide, by unfold ownPath; decide,
    by unfold Ready; decide, by unfold Ready; decide, by unfold Ready; decide, by unfold Ready; decide, by unfold Ready; decide⟩
theorem witness_CallsOpenAWindow_follower :
    Follower (sFol 0x6000) ⟨0, 0, 8, true⟩ [] ∧ Ready { len := 1, hdr := p0, transfer := true, endKind := 2, occ := 3 } (sFol 0x6000)
    ∧ ((sFol 0x6000).ctx (21505, 0)).wbase.toNat + ((sFol 0x6000).ctx (21505, 0)).frame - 8 + 24 ≤ Config.stackSize (sFol 0x6000).tier :=
  ⟨⟨by decide, by decide, by decide, ⟨.compute, 1000, 0, 0, true, 1, true⟩, by decide, rfl, by decide⟩, by unfold Ready; decide, by decide⟩
theorem witness_RetRestoresTheWindow_follower :
    let s := sFol 0x6400 [⟨0, 0, 8, true⟩] (fun x => { x with wbase := 16, stack := [(23, 0x1800000008)] })
    Follower s ⟨0, 0, 8, true⟩ [] ∧ (rv s linkReg).toNat / 2 ^ 32 % 32 = 24
    ∧ Ready { len := 1, hdr := openHdr 0 false, noGuard := true, transfer := true, endKind := 2, rs := [linkReg], occ := 3 } s :=
  ⟨⟨by decide, by decide, by decide, ⟨.compute, 1000, 0, 0, true, 1, true⟩, by decide, rfl, by decide⟩, by decide, by unfold Ready; decide⟩
/-- A word with a single-bit error is readable and counted; two errors make it uncorrectable. -/
theorem witness_ScalarLoadsReadTheirBytes_soft :
    let s (p : BitVec 2) : State := { sM [] with cores := [(0, { (sM []).core 0 with poison := [(16, p)] })] }
    softCount (s 2) 0x40 8 = 1 ∧ ¬ badWord (s 2) 16 ∧ ¬ badWord (s 2) 17 ∧ badWord (s 1) 16 ∧ badWord (s 3) 16 ∧ firstBadWord (s 3) 0x40 4 0x40 :=
  ⟨by decide, by decide, by decide, by decide, by decide, ⟨16, by decide⟩⟩
theorem witness_EventUnitInstructions_releases :
    let s (f : Ctx → Ctx) : State := run1 [(1, 0x04000000)] f
    (s id).ownOut (0, 1) = false ∧ (s id).dataOut (0, 1) = false ∧ (s (fun x => { x with stxOut := [1] })).ownOut (0, 1) = true
    ∧ (s (fun x => { x with stxOut := [1] })).dataOut (0, 1) = true := by decide +kernel
/-- An earlier STX of the context to a line of a peer, on the way; and none. -/
theorem witness_MessageAndFarSteps_order :
    let ev : Event := .ldxReply 0 1 3 0x10000 1 0
    let s (r : List PeerReq) : State := { sFar with dev := { sFar.dev with fabric := { Fabric.reset with reqs := r } } }
    (s [⟨2, 0, 0, 0, 0, .stxComplete 0 1 7 0x10000 0 0, 0x10000⟩]).lineBusy (0, 1) 0x10000 ev = true ∧ (s []).lineBusy (0, 1) 0x10000 ev = false
    ∧ (s []).dev.fabric.asked ev 0x10000 = none ∧ (s []).now % cyc 0 = 0 ∧ 5 % cyc 0 ≠ 0 ∧ 0x1FFC0 % 64 = 0
    ∧ (⟨0, 0x10000, 0x10000, 0x200000, true, true⟩ : Xlat) ∈ ((s []).col 0).rangeC := by decide +kernel
theorem witness_MessageAndFarSteps_port :
    let s (n : Nat) : State := run1 [] id (fun c => { c with poison := [(0x400000 + n, 2), (0x400010, 1)] })
    (∀ w, 0x400000 ≤ w → 4 * w < 0x1000000 + 64 → sget 0 ((s 0).core 0).poison w = 0 ∨ sget 0 ((s 0).core 0).poison w = 2)
    ∧ (sget 0 ((s 0).core 0).poison 0x400010).getLsbD 0 = true ∧ sget 0 ((s 0).core 0).poison 0x400000 = 2 := by
  refine ⟨fun w h1 h2 => ?_, by decide, by decide⟩
  by_cases h : w = 0x400000
  · subst h; exact .inr (by decide)
  · refine .inl ?_
    have h' : w ≠ 0x400010 := by omega
    simp [State.core, run1, sget, Ne.symm h, Ne.symm h']
theorem witness_SynchronisationSteps_atomics :
    let r : AtomicReq := ⟨0, 1, 4, 0, .n32, none, false, 0x1FFFC, 5, 0, 0⟩
    let ro : State := sFar id false
    let flash : State := { sR with cols := [(0, { Column.reset with rangeC := [⟨0, 0x10000, 0x10000, Config.flashBase, true, true⟩] })]
                                   parts := [(0, { Part.reset with firewall := [(0, 7), (1, 0xFFFFFFFFFF000)] })] }
    sR.translateFor (sR.partOf 0) (columnOf 0) r.addr true true = (.ok 0x20FFFC, sR) ∧ sR.dev.inHbm 0x20FFFC = true
    ∧ sR.dev.fabric.asked (.deviceAtomicReply r) r.addr = none ∧ ro.translateFor (ro.partOf 0) (columnOf 0) r.addr true true = (.error tNoWrite, ro)
    ∧ flash.dev.inHbm Config.flashBase = false ∧ rq.peer = true := by decide +kernel
/-- REL of a near word: free, and behind an atomic's slot. -/
theorem witness_SynchronisationSteps_rel :
    let obj : DWord := 0x8000000000000040
    let home := epCore (columnOf 0) obj
    epNear obj = true ∧ sR.now % cyc home = 0 ∧ (sR.core home).ctl.rmw = [] ∧ sR.storesOut (0, 1) = false ∧ sR.messagesOut (0, 1) = false
    ∧ (sR.core home).badIn (epAddr obj (epOff obj)) 8 = none := by decide +kernel
/-- A root line with a count that one arrival, or two, complete; one without; a free one; an event line for EVSIG.sc; a chain. -/
theorem witness_SynchronisationSteps_units :
    let l := lineOf 0 0
    let s (e : EvLine) : State := { run1 [] (fun x => { x with run := .held (.reply 3 4) }) with lines := [(l, e), (lineOf 0 48, { EvLine.reset with alloc := some 0 })] }
    let e (count pend : BitVec 16) : EvLine := { EvLine.reset with alloc := some 0, count := count, pend := pend, next := some (l + 1) }
    ((s (e 2 1)).ctx (0, 1)).run = .held (.reply 3 4) ∧ ((s (e 2 1)).line l).count ≠ 0 ∧ ((s (e 2 1)).line l).pend = 1 ∧ ((s (e 2 2)).line l).pend ≠ 1
    ∧ ((s (e 0 0)).line l).count = 0 ∧ ((s (e 0 0)).line l).alloc ≠ none ∧ ((s EvLine.reset).line l).alloc = none
    ∧ ((s (e 2 1)).line l).next = some (l + 1) ∧ (s (e 2 1)).target (0, 1) 0x04000C00 = .line (lineOf 0 48) (lineOf 0 48)
    ∧ (run1 []).ownOut (0, 1) = false ∧ (run1 [] (fun x => { x with stxOut := [1] })).ownOut (0, 1) = true := by decide +kernel
/-- One product step whose adder's low bit of element (3, 2) flips, which its residue shows; the same product without an error. -/
theorem witness_UnitAndEngineSteps_residue :
    let y : ACol := ⟨[1, 1, 1, 1], true, 0⟩
    let s (sl : List Slip) : State := { run1 [] id (fun c => { c with slice := { Slice.reset with
      wbuf := [(2, 5)], queue := [{ opOf (.mma pI 0 none) [y] with slips := sl }] } }) with now := 400 }
    let q : SliceOp := { opOf (.mmas pI 0x40 0x10000 1 2) with quiet := true }
    (((s [⟨3, 2, 0, 1⟩]).core 0).slice.accumulate pI [y] [⟨3, 2, 0, 1⟩]).2.2 = some (3, 2)
    ∧ (((s []).core 0).slice.accumulate pI [y] []).2.2 = none ∧ ((s []).core 0).slice.wpois = [] ∧ q.quiet = true
    ∧ (opOf (.mmas pI 0x40 0x10000 1 2)).quiet = false ∧ 401 % cyc 0 ≠ 0 := by decide +kernel
/-- A prolongation and an expansion instruction that end in one cycle, in both orders of issue. -/
theorem witness_UnitAndEngineSteps_sameCycle :
    let o (n : Nat) : VOp := ⟨false, false, true, VDesc.ofNat 0, 0x01000000, [], [], [], 0, 0, 0, 0, false, n⟩
    let x (n : Nat) : XOp := ⟨1, 0, 0, .clr 1 0x40 ⟨1, 3, 2, 0, (0, 0, 0)⟩, 4, true, [], n, [], [], .reset⟩
    let s (a b : Nat) : State := { sU [] [o a] [x b] with agenda := [⟨0, .expansionOpEnd 0⟩] }
    (s 2 1).expandsFirst 0 2 = true ∧ (s 1 2).expandsFirst 0 1 = false ∧ (s 1 2).prolongsFirst 0 2 = true ∧ (s 2 1).prolongsFirst 0 1 = false := by decide +kernel
/-- An install behind another's, at the head of a queue with and without budget and wear, and its stamp. -/
theorem witness_UnitAndEngineSteps_installs :
    let c : Cmd := { Cmd.ofNat 0 with dst := 5, stamp := 0x8000000000000040 }
    let sl : Slot := { used with kind := .finst, cmd := c }
    let s (x : Extent) (done : Bool) : State := { run1 [] with
      cols := [(0, { Column.reset with slots := [(8, some { sl with done := done })] })], dev := { State.reset.dev with flash := [(5, x)] } }
    let x : Extent := { Extent.reset with queue := [(0, 8)], fresh := [(3, 7)] }
    ((s x false).col 0).earlier sl.num = false ∧ ((s x false).dev.extent 5).queue = (0, 8) :: [] ∧ ((s x false).dev.extent 5).running = false
    ∧ ((s { x with running := true } false).dev.extent 5).running = true ∧ x.wear.toNat < 3000 ∧ 3000 ≤ ({ x with wear := 3000 } : Extent).wear.toNat
    ∧ ((s x false).part sl.part).budget = 0 ∧ ({ Part.reset with budget := 1 } : Part).budget ≠ 0 ∧ epNear c.stamp = true ∧ sl.done = false
    ∧ ((s x true).col 0).slot 8 = some { sl with done := true } ∧ sl.owner = none ∧ sl.node = none ∧ sl.status = 0 ∧ swf 0 x.fresh = true
    ∧ swf 0 (s x true).dev.far = true ∧ (∀ b ∈ x.fresh, b.1 < Config.extentSize) ∧ c.dst.toNat = 5 := by decide +kernel
theorem witness_SuperstepSteps_halts :
    let n (k : Kernel) : Kernel := { k with notice := none, stage := .waiting }
    (kG n).notice = none ∧ sget 0 (kG n).colPhase 0 = 0 ∧ (∀ j ∈ kG.cores, (sG.core j).draining sG.now = false) := by decide +kernel
/-- Virtual function 3, bound to partition 1 and not; TIME before and at the next refill; a row of the beat, due. -/
theorem witness_HostRegisterSteps_functions :
    let fn (en : Bool) : State := { run1 [] with dev := { State.reset.dev with funcs := [(3, { Func.reset with en := en, part := 1 })] } }
    let at_ (n : Nat) : State := { run1 [] with dev := { State.reset.dev with nextRefill := n } }
    (sget .reset (fn true).dev.funcs (3 % 16)).en = true ∧ (sget .reset (fn false).dev.funcs (19 % 16)).en = false ∧ 0xFFFFF8 < 0x1000000
    ∧ (4 : Nat) ≠ 8 ∧ (due (.tctlWrite 101)).event = some (.tctlWrite 101) ∧ (due .beatctlRestore).event = some .beatctlRestore
    ∧ (at_ 1).time < (at_ 1).dev.nextRefill ∧ (at_ 0).dev.nextRefill ≤ (at_ 0).time :=
  ⟨by decide, by decide, by decide, by decide, rfl, rfl, Nat.lt_of_le_of_lt (Nat.le_of_eq (time_start _ rfl)) (by decide), Nat.zero_le _⟩
/-- Sensors at and below the trip point; other steps of self-throttling and of the hard limit on the agenda; a budget that a cap
changes. -/
theorem witness_PowerSteps_trips :
    let at_ (x : DWord) : Sparse DWord := [(0, x)]
    (∃ e ∈ at_ 0x6E6E, 110 ≤ (e.2.extractLsb' 8 8).toNat) ∧ (∀ e ∈ at_ 0x6D6D, (e.2.extractLsb' 8 8).toNat < 110) ∧ Power.reset.ceil ≠ 10
    ∧ ({ run1 [] with dev := { State.reset.dev with power := { Power.reset with eff := 380 } } } : State).budgetNow ≠ (run1 []).budgetNow
    ∧ sget 0 (run1 []).dev.power.therm (4 * 63 + 3) = 0 := by decide
theorem witness_PowerSteps_agenda (s : State) :
    let other : State := { s with now := 0, agenda := [⟨0, .selfThrottleStep⟩] }
    let limit : State := { s with agenda := [⟨1, .hardLimitStep 0 false⟩] }
    let none_ : State := { s with agenda := [] }
    (∃ e ∈ other.agenda, e.ev = .selfThrottleStep ∧ e.at_ ≤ other.now + other.nsTicks 100000)
    ∧ (∃ e ∈ limit.agenda, ∃ a b, e.ev = .hardLimitStep a b) ∧ (∀ e ∈ none_.agenda, e.ev = .selfThrottleStep → 0 < e.at_)
    ∧ (∀ e ∈ none_.agenda, ∀ a b, e.ev ≠ .hardLimitStep a b) ∧ (∀ e ∈ none_.agenda, ∀ l, e.ev ≠ .sensorSample l) := by simp
/-- A flow that left by port 2 moves to port 3; two ports with different credits; a notice as a flit; flits that wait at a port. -/
theorem witness_FabricSteps_routes :
    let f := flit 9 0 1
    let s := sF (fun f => { f with moved := [(pathKey (flit 9 0 1), 3)], bank0 := [(9, 0x3000C)]
                                   ports := [(2, { Port.reset with up := true, used := 1 }), (3, { Port.reset with up := true })] })
    let fb := s.dev.fabric
    let clear (j : Nat) : Prop := (s.port j).up = true ∧ (s.port j).stopped = false ∧ (s.port j).train = false
    let n : Notice := ⟨5, 3, .down, 1, 0⟩
    let g : Flit := ⟨7, 5, 3, 6, 0xFFFF, 0, 0, 0, noticeBytes n, true⟩
    sget 0 fb.moved (pathKey f) = 2 + 1 ∧ f.cls ≠ 3 ∧ f.typ ≠ 7 ∧ sget 0 (sF).dev.fabric.moved (pathKey f) = 0
    ∧ (flit 9 2 1).cls = 2 ∧ clear 2 ∧ clear 3 ∧ (∀ j, j < 16 → (fb.route fb.act 9).getLsbD j = true → j = 2 ∨ j = 3)
    ∧ g.typ = 6 ∧ g.pkey = 0xFFFF ∧ g.payload = noticeBytes n ∧ (n.dev, n.nseq) ∉ fb.seen ∧ (∀ i, i < 4 → (s.part i).nt.en = false)
    ∧ ({ g with crcOk := false } : Flit).crcOk = false ∧ (flit 7 2 1 5 false).cls = 2 ∧ (flit 7 0 1 5 false).fseq = (fb.flow (flowKey 0 2)).next
    ∧ ({ Port.reset with queued := [(16, f)] } : Port).queued.all (fun e => e.1 == 16) = true
    ∧ ({ Port.reset with queued := [(4, f)] } : Port).queued = [(4, f)] ∧ 4 < 16 ∧ (4 : Nat) ≠ 3 := by decide +kernel
/-- The steps of a partition's reset; an STX and a device atomic on the way; two single flips of one word. -/
theorem witness_ResetAndPartitionSteps_steps :
    let s (n : Nat) : State := { sFar with parts := [(0, { sFar.part 0 with flrStep := n })] }
    let r : AtomicReq := ⟨0, 1, 4, 0, .n32, none, false, 0x1FFFC, 5, 0, 0⟩
    let stx : Event := .stxComplete 0 1 1 0x10000 7 0
    let at_ (ev : Event) : State := { s 3 with agenda := [⟨500, ev⟩], event := some ev }
    ((s 1).part 0).flrStep = 1 ∧ ((s 2).part 0).flrStep = 2 ∧ ((s 3).part 0).flrStep = 3 ∧ ((s 4).part 0).flrStep = 4 ∧ ((s 5).part 0).flrStep ≠ 4
    ∧ (s 1).gaf.tasks = [] ∧ (s 1).dev.flash = [] ∧ (s 3).hasCore 0 0 = true ∧ (at_ stx).agenda = [⟨500, stx⟩]
    ∧ (match ((at_ stx).farWrite 0 (columnOf 0) 0x10000 (lineBytes 7) 0 stx).1 with | .ok _ => true | _ => false) = true
    ∧ gives (exec .deviceAtomicReply (at_ (.deviceAtomicReply r))) (fun _ => true) = true := by decide +kernel
/-- A step of another agent that comes before a core's act: earlier, and in the same tick. -/
theorem witness_StepRunsTheFetchedInstruction_first :
    let s (t : Nat) (ev : Event) : State := { run1 [] id (fun c => { c with ctl := { c.ctl with issueAt := 20 } }) with agenda := [⟨t, ev⟩] }
    (s 19 .swap).nextCore = some (20, 0) ∧ 19 < 20 ∧ evRank (.messageArrival 0 1 3 7 1 1 false) < readRank := by decide +kernel

/-- A repetition of one body instruction at 8 that stands at its pass `n` with `m` passes to come, over the registers from `base` on. -/
def repOf (pos remain pass : Nat) (km1 : BitVec 3) (mask : BitVec 24) (base : Nat) : Rep := ⟨remain, pos, pass, km1, mask, 1, base, 8, 8, 8⟩
/-- Context 1 at 8, where the repetition goes on, over a word. -/
def sRep (r : Rep) (w : Word := 0x292C0200) : State := run1 [] (fun x => { x with pc := 8, rep := some r }) (code 8 [w, 0x6A00])
/-- Within a pass, at its end and at the end of the last; a selected field in the window, out of it, and one that the format reserves. -/
theorem witness_RepSetsTheRepetition_passes :
    let need (r : Rep) : Prop := ((sRep r).ctx (sRep r).cur).rep = some r ∧ r.next = ((sRep r).ctx (sRep r).cur).pc ∧ Ready { len := 1, hdr := p0 } (sRep r)
    (need (repOf 0 3 0 1 0 8) ∧ (repOf 0 3 0 1 0 8).pos < (repOf 0 3 0 1 0 8).km1.toNat)
    ∧ (need (repOf 1 3 0 1 0 8) ∧ (repOf 1 3 0 1 0 8).km1.toNat ≤ (repOf 1 3 0 1 0 8).pos ∧ 0 < (repOf 1 3 0 1 0 8).remain)
    ∧ (need (repOf 0 0 3 0 0 8) ∧ (repOf 0 0 3 0 0 8).km1.toNat ≤ (repOf 0 0 3 0 0 8).pos ∧ (repOf 0 0 3 0 0 8).remain = 0) := by
  unfold Ready; decide +kernel
theorem witness_RepSetsTheRepetition_rotation :
    let at_ (mask : BitVec 24) (base : Nat) (w : Word) : State := sRep (repOf 0 3 2 0 mask base) w
    let need (s : State) (w : Word) (i : Instr) : Prop := s.sigCheck s.cur = none ∧ s.storeWord s.cur.1 (pcv s) = some (w, true) ∧ isHeader w = false
      ∧ decode (s.wordsAt s.cur.1 (pcv s)) = .ok (i, 1)
    need (at_ 7 8 0x292C0200) 0x292C0200 (.add p0 12 9 10) ∧ need (at_ 3 8 0xFFE93954) 0xFFE93954 (.addi 2 9 21 0x7FF)
    ∧ need (at_ 4 8 0x02241E00) 0x02241E00 (.clz p0 4 17)
    ∧ (0 < (repOf 0 3 2 0 7 8).size ∧ (repOf 0 3 2 0 7 8).base + (repOf 0 3 2 0 7 8).size ≤ 32 ∧ (8 ≤ (12 : BitVec 5).toNat ∧ (12 : BitVec 5).toNat < 16)
      ∧ ¬ (16 ≤ (12 : BitVec 5).toNat ∧ (12 : BitVec 5).toNat < 24) ∧ (7 : BitVec 24).getLsbD 0 = true ∧ (3 : BitVec 24).getLsbD 2 = false ∧ (4 : BitVec 24).getLsbD 2 = true) := by
  decide +kernel
/-- A store of one byte onto a word with a corrected single-bit error (R178). -/
theorem witness_StoresWriteExactlyTheirBytes_soft :
    let s : State := run1 [] id (fun c => { c with poison := [(0x10, 2)] })
    (⟨60, 1, .store 0x41 [7] true⟩ : Pend).act = .store 0x41 [7] true ∧ (s.core 0).ctl.rmw = [] ∧ 0x10 = 0x41 / 4 ∧ sget 0 (s.core 0).poison 0x10 = 2
    ∧ sget 0 (s.core 0).poison 0x11 = 0 := by decide
/-- A half of CTAB under way for SYSR of a selector of it, the trap registers in and out of Handling, a REP under way and none. -/
theorem witness_SysrReadsItsRegister_halves :
    let s := run1 [] id (fun c => { c with pend := [⟨40, 1, .ctab true 9⟩] })
    (s.core 0).pend = [⟨40, 1, .ctab true 9⟩] ∧ (⟨40, 1, .ctab true 9⟩ : Pend).ctx = s.cur.2 ∧ (⟨40, 1, .ctab true 9⟩ : Pend).act = .ctab true 9
    ∧ (∀ e ∈ (s.core 0).pend, ∀ u, e.act ≠ .ctab false u) ∧ Ready { len := 1, hdr := gapHdr 0, rd := [3], reads := selReads 0x006 } s
    ∧ Ready { len := 1, hdr := gapHdr 0, rd := [3], reads := selReads 0x007 } sZ ∧ (sZ.ctx sZ.cur).rep = none
    ∧ Ready { len := 1, hdr := gapHdr 0, rd := [3], reads := selReads 0x007 } (sRep (repOf 0 3 0 1 0 8))
    ∧ Ready { len := 1, hdr := gapHdr 0, rd := [3], reads := selReads 0x010 } handler ∧ (handler.core 0).ctl.handling ≠ none ∧ handler.cur.2 = 0
    ∧ Ready { len := 1, hdr := gapHdr 0, rd := [3], reads := selReads 0x010 } (sM [] 0) ∧ ((sM [] 0).core 0).ctl.handling = none := by
  refine ⟨by decide, by decide, by decide, fun e h u => ?_, ?_⟩
  · have h : e ∈ [(⟨40, 1, .ctab true 9⟩ : Pend)] := h
    rw [List.mem_singleton.1 h]; exact fun h => by cases h
  · unfold Ready; decide
/-- c0 in a phase of a kernel, with its replays; a cause that is replayed and one that is not; a second window spill; a trap of a
handler; an open region that starts again, held, gated and running, and one that ends the task. -/
theorem witness_TrapFillsTheSlotAndEntersTheHandler_all :
    let p : Phase := ⟨.compute, 16, 0, 2, false, 0, true⟩
    let g : State := sG (entered 1 0) (fun c => { c with ctl := { c.ctl with phase := some p, kernel := some 1 } })
    let ck : Checkpoint := ⟨8, [(1, 5)], 0, 24, 0, 0, none, 0⟩
    let reg (n : Nat) (r : Run) : State := run1 [(1, 6)] (fun x => { x with run := r, region := some ⟨ck, n, 0⟩ })
    ((g.core 21504).timed 0 = true ∧ (Trap.timing 2).cause ∈ [.timing, .tilepois, .sigfault, .eccu] ∧ (Trap.timing 6).sub = 6 ∧ (g.core 21504).ctl.kernel = some 1
      ∧ g.kernel 1 = some (kG (entered 1 0)) ∧ (kG (entered 1 0)).replays < 3 ∧ (kG (entered 1 0)).stage = .running ∧ ¬ (kG (fun k => { k with replays := 3 })).replays < 3
      ∧ (kG (fun k => { k with stage := .stopping false })).stage ≠ .running)
    ∧ (Trap.of .illop).cause ∉ [.timing, .tilepois, .sigfault, .eccu]
    ∧ ((⟨.wspill, 1, 0, false⟩ : Trap).cause = .wspill ∧ (⟨.wspill, 1, 0, false⟩ : Trap).sub = 1)
    ∧ ((handler.core 0).timed 0 = false ∧ restarts (Trap.of .illop) = false ∧ (handler.core 0).ctl.handling ≠ none)
    ∧ (((reg 0 .running).core 0).timed 1 = false ∧ restarts (Trap.at_ .eccu 0x40) = true ∧ ((reg 0 .running).ctx (0, 1)).region = some ⟨ck, 0, 0⟩ ∧ 0 < 3
      ∧ ((reg 3 .running).ctx (0, 1)).region = some ⟨ck, 3, 0⟩ ∧ 3 ≤ (⟨ck, 3, 0⟩ : Region).restarts)
    ∧ ((reg 2 (.held (.reply 3 4))).ctx (0, 1)).run = .held (.reply 3 4) ∧ ((reg 2 (.gated (.mwait 3 0 true))).ctx (0, 1)).run = .gated (.mwait 3 0 true) := by
  decide +kernel
/-- TRAP whose block's SIG word is in order, and one whose word is not there. -/
theorem witness_TrapInstructionRequestsTheHandler_signatures :
    let ok_ : State := run1 [] id (code 0 [0x6C00, 0x6A00])
    Ready { len := 1, hdr := gapHdr 0, transfer := true, endKind := 2 } sZ ∧ (blockEnds 1 (behind sZ 1) sZ).toOption = none
    ∧ Ready { len := 1, hdr := gapHdr 0, transfer := true, endKind := 2 } ok_ ∧ blockEnds 1 (behind ok_ 1) ok_ = .ok ()
    ∧ Ready { len := 3, hdr := p0, transfer := true, endKind := 2 } (run1 [] id (code 0 [0x6C00, 0, 0, 0x6A00]))
    ∧ (handler.core 0).ctl.handling ≠ none ∧ c0Free ok_ 0 ∧ (ok_.core 0).vector (Machine.tierOf 0) 2 = some 0x40 := by
  unfold Ready c0Free; decide
/-- An MSGB of the context to its own core is on its way, with its bytes due at 60, and a fence of scope core that finds it. -/
theorem witness_OrderingInstructions_fenced :
    let s : State := run1 [] id (fun c => { c with pend := [⟨60, 1, .store 0x01000040 [1, 2, 3, 4] false⟩] })
    (∃ w ∈ s.lsWrites s.cur, w.home = some 0 ∧ 0 < w.due) ∧ s.msWrites s.cur = [] ∧ Ready { len := 3, hdr := p0, ill := inStep s && !(timedPath .ls && timedPath .ms) } s
    ∧ (let o : State := run1 [(1, 0x8000000000000040)] (fun x => { x with binds := [⟨0x8000000000000040, 0x80, 1, .device⟩] })
       epNear (rv o 1) = true ∧ epCore (columnOf 0) (rv o 1) = 0
       ∧ Ready { len := 3, hdr := p0, rs := [1], rd := [3], ill := inStep o, bytes := [(epAddr (rv o 1) (epOff (rv o 1)), 8)] } o
       ∧ ∃ y ∈ (o.ctx o.cur).binds, y.obj = rv o 1)
    ∧ (let f : State := run1 [(1, 0x80)] (fun x => { x with binds := [⟨0x80, 0x80, 1, .device⟩] })
       epNear (rv f 1) = false ∧ (∃ y ∈ (f.ctx f.cur).binds, y.obj = rv f 1) ∧ ∀ e ∈ f.agenda, Event.lineAccess e.ev = some (f.cur, 2) → e.at_ < 20) := by
  refine ⟨by decide, by decide, by unfold Ready; decide, ?_, by decide, by decide, fun e h => ?_⟩
  · unfold Ready; decide
  · have : e.ev = .sensorSample [] ∨ e.ev = .budgetRefill := by
      have : e ∈ State.reset.agenda := h
      have h2 : State.reset.agenda.map (·.ev) = [.sensorSample [], .budgetRefill] := by decide
      have := List.mem_map_of_mem (f := (·.ev)) this
      rw [h2] at this
      simpa using this
    rcases this with h | h <;> rw [h] <;> exact fun h => by cases h
/-- Context 1 waits Gated for its monitored word: a port's write and a store cover it, and its new value meets the condition or not. -/
theorem witness_WaitingInstructions_wake :
    let s (p : Act) : State := run1 [] (fun x => { x with run := .gated (.mwait 3 5 false), monitor := some 0x01000040 }) (fun c => { c with pend := [⟨60, 1, p⟩] })
    let h : Held := ⟨1, 0x01000040, [5, 0, 0, 0, 0, 0, 0, 0], [], false, .other⟩
    let a : Act := .port h
    let b : Act := .store 0x01000040 [4, 0, 0, 0, 0, 0, 0, 0] false
    ((s a).core 0).pend = [⟨60, 1, a⟩] ∧ (⟨60, 1, a⟩ : Pend).due ≤ 60 ∧ h.port ≠ 3 ∧ h.addr ≤ 0x01000040 ∧ 0x01000040 + 8 ≤ h.addr + h.bytes.length ∧ h.bad = []
    ∧ 0x01000040 + 8 ≤ 0x01000040 + ([4, 0, 0, 0, 0, 0, 0, 0] : List Byte).length
    ∧ ((s a).core 0).ctl.rmw = [] ∧ ((s a).ctx (0, 1)).run = .gated (.mwait 3 5 false) ∧ ((s a).ctx (0, 1)).monitor = some 0x01000040
    ∧ (∀ j, j ≠ 1 → (((s a).core 0).ctx j).monitor = none) ∧ coreNat ((s a).settle 0 60) 0 0x01000040 8 = 5 ∧ coreNat ((s b).settle 0 60) 0 0x01000040 8 = 4 := by
  refine ⟨rfl, by decide, by decide, by decide, by decide, rfl, by decide, rfl, rfl, rfl, fun j hj => ?_, by decide, by decide⟩
  show Ctx.monitor (sget Ctx.reset (Core.ctxs ((run1 _ _ _).core 0)) j) = none
  simp [run1, State.core, sget, hj.symm]; rfl
/-- A GANG with a false guard in a slaved phase. -/
theorem witness_MatrixInstructions_guard :
    let l := sX 0 0 (slaved 0) [(1, 0x40)]
    let g : Need := { len := 3, hdr := ⟨0, false, 1, false⟩, ill := !inSlaved l, unit := some .matrix }
    illegal g l = false ∧ guardWait g l = none ∧ guardHolds g l = false := by decide
/-- A reply to a register cleared since its request (R355); an earlier MSGB of a sender, and an access to a line, that hold an arrival back. -/
theorem witness_MessageAndFarSteps_stale :
    let s := sFar (fun x => { x with m := [(3, { Msg.reset with cleared := 2 })] })
    1 ≠ ((s.ctx (0, 1)).msg 3).cleared ∧ 2 = ((s.ctx (0, 1)).msg 3).cleared
    ∧ (let t : State := { s with now := 20, agenda := [⟨39, .msgbPortWrite 0 0x01000000 0 false 1 1 true 0⟩, ⟨40, .messageArrival 0 1 4 7 1 1 true⟩] }
       t.earlierMsgb 1 0 true = some 39 ∧ Event.isLater 1 0 true 20 (.messageArrival 0 1 4 7 1 1 true) = true)
    ∧ (let u : State := { s with dev := { s.dev with fabric := { Fabric.reset with reqs := [⟨2, 0, 0, 0, 0, .stxComplete 0 1 7 0x10000 0 0, 0x10000⟩] } } }
       u.lineBusy (0, 1) 0x10000 (.stxComplete 0 1 8 0x10000 0 0) = true ∧ u.lineBusy (0, 1) 0x10000 (.ldxReply 0 1 3 0x10000 1 0) = true
       ∧ u.lineBusy (0, 1) 0x10040 (.ldxReply 0 1 3 0x10000 1 0) = false) := by decide +kernel
/-- A slot of core 0's bank in its first and last cycle, in a superstep and out of one, over clean words, a marked and a bad one. -/
theorem witness_SynchronisationSteps_slots :
    let s (sk : Bool) (slots : List Rmw) (po : Sparse (BitVec 2)) : State := { run1 [] (fun x => { x with run := .held (.reply 3 4) }) (fun c => { c with
      poison := po, near := [(0x01000000, 4)], ctl := { c.ctl with skip := sk, rmw := slots } }) with now := 40 }
    let open_ : List Rmw := [⟨0, 40, 0x200000, 1⟩]
    let own : AtomicReq := ⟨0, 1, 4, 0, .i64, some 0, false, 0x01000000, 5, 0, 0⟩
    let mine (t : State) : List Rmw := (t.core 0).ctl.rmw.filter (fun e => e.who == rq.core && decide (t.now ≤ e.last))
    let touched (i : Nat) : Prop := rq.addr / 4 ≤ i ∧ 4 * i < rq.addr + 8
    ((s true [] []).core 0).ctl.skip = true ∧ mine (s true [] []) = [] ∧ mine (s false [⟨0, 39, 0x200000, 1⟩] []) = []
    ∧ ((s true open_ []).core 0).ctl.rmw = [⟨40 - 2 * cyc 0, 40, rq.addr / 8, rq.core⟩] ∧ (∀ p ∈ ((s true open_ []).core 0).pend, 40 < p.due)
    ∧ (∀ i ∈ [0x400000, 0x400001], touched i ∧ ¬ (sget 0 ((s false open_ [(0x400000, 2)]).core 0).poison i).getLsbD 0 = true)
    ∧ touched 0x400001 ∧ (sget 0 ((s false open_ [(0x400001, 3)]).core 0).poison 0x400001).getLsbD 0 = true
    ∧ (sget 0 ((s false open_ [(0x400001, 3)]).core 0).poison 0x400000).getLsbD 0 = false
    ∧ rq.peer = true ∧ own.peer = false ∧ ((s false open_ []).ctx (own.core, own.ctx)).run = .held (.reply 3 own.num)
    ∧ (let look : AtomicReq := { rq with op := 9 }
       let c' := coreNat (s false open_ []) 0 0x01000000 8 % 65536
       look.ty.width = 64 ∧ (c' + 65536 - (3 : DWord).toNat % 65536) % 65536 = 1 ∧ (c' + 65536 - (4 : DWord).toNat % 65536) % 65536 = 0
       ∧ (sR.ctx (0, 1)).awaits 4 ≠ none) := by decide +kernel
/-- A memory-backed point in HBM; REL with a write of its region under way and without one; ACQ of a near word. -/
theorem witness_SynchronisationSteps_regions :
    let r : AtomicReq := ⟨0, 1, 4, 7, .n64, none, false, 0x200008, 5, 0, 0⟩
    let b : Binding := ⟨0x8000000000000040, 0x8000000000000080, 1, .device⟩
    let s (a : Nat) : State := { sR (fun x => { x with binds := [b] }) with cores := [(0, { (sR (fun x => { x with binds := [b] })).core 0 with
      pend := [⟨60, 1, .store a [1, 2, 3, 4] false⟩] })] }
    sR.dev.badFar r.addr 8 = false ∧ r.op ∈ [7, 8] ∧ r.ty.width = 64
    ∧ (s 0x01000080).regionOut (0, 1) 0x8000000000000040 = true ∧ (s 0x01002080).regionOut (0, 1) 0x8000000000000040 = false
    ∧ (∀ p ∈ (sR.core 0).pend, sR.now < p.due) ∧ epNear (0x8000000000000040 : DWord) = true ∧ epCore (columnOf 0) (0x8000000000000040 : DWord) = 0
    ∧ sR.regionOut (0, 1) 0x1FFF8 = false ∧ (sR.core 0).badIn (epAddr 0x8000000000000040 (epOff 0x8000000000000040)) 8 = none
    -- an SC operation that an STX still holds, and the last beat of a window
    ∧ (sR (fun x => { x with stxOut := [1] })).anyOut (0, 1) = true ∧ 0 < (8 * (0 / 8) + 8) * Config.ticksPerBeat - 1 := by decide +kernel
/-- A lane without wires under an operation that starts; RSTR with SELF of one word; a prolongation of one fine word from one coarse word. -/
theorem witness_UnitAndEngineSteps_levels :
    let op (rstr self ovw : Bool) : VOp := ⟨rstr, ovw, self, { VDesc.ofNat 0 with fbase := 0x40 }, 0x01000000, [0x3F800000], [(0x01000000, 0x3F800000)], [], 0, 0, 0, 0, false, 0⟩
    let dead : State := { sU [] [op false false false] with dev := { State.reset.dev with lanes := [(0, .dead)] } }
    let two : VDesc := { VDesc.ofNat 0 with fbase := 0x40, nx := 2 }
    (dead.core 0).vert.ops = [op false false false] ∧ (op false false false).startT = dead.now ∧ (op false false false).self = false ∧ dead.laneBad 0 = true
    ∧ ((sU [] [op true true false]).core 0).vert.ops = [op true true false] ∧ (op true true false).vals = [(0x01000000, 0x3F800000)] ∧ (op true true false).endT = 0
    ∧ (op true true true).ovw = true ∧ ((sU [] [op true true false]).core 0).ctl.rmw = [] ∧ (∀ j, j < 4 → (((sU [] [op true true false]).core 0).ctx j).monitor = none) ∧ (∀ x ∈ ((sU [] [op true true false]).core 0).pend, 0 < x.due)
    ∧ (op false false false).lost = false ∧ (op false false true).ovw = true ∧ (sU [] [op false false false]).expandsFirst 0 0 = false
    -- two fine words that do not share a byte, and one address before and one behind them
    ∧ (∀ f ∈ points two.nx two.ny two.nz, ∀ g ∈ points two.nx two.ny two.nz, g ≠ f → two.fineAt g + 4 ≤ two.fineAt f ∨ two.fineAt f + 4 ≤ two.fineAt g)
    ∧ (∀ f ∈ points two.nx two.ny two.nz, 0x3F < two.fineAt f) ∧ (∀ f ∈ points two.nx two.ny two.nz, two.fineAt f + 4 ≤ 0x48) := by decide +kernel
/-- MRD and MSCAC at their start; MSCAC's reading of its first and last rows and its writing of one, which ends with the local store. -/
theorem witness_UnitAndEngineSteps_rows :
    let r := opOf (.mrd 1 1 .f32 false 30)
    let m : SliceOp := { opOf (.mscac 1 0x40 0x840) with rows := [(31, List.replicate 64 1)] }
    ((sU [r]).core 0).slice.queue = [r] ∧ ((sU [r]).core 0).slice.tile 1 = .reset ∧ Tile.reset.pois = false ∧ ((sU [m]).core 0).slice.wpois = []
    ∧ ((sU [m]).core 0).slice.queue = [m] ∧ m.rows = [(31, List.replicate 64 1)] ∧ ((sU [m]).core 0).ctl.rmw = [] ∧ 0x40 + 64 * 31 + (List.replicate 64 (1 : Byte)).length ≤ Config.bankBase
    ∧ 28 + 2 < 32 ∧ ¬ 30 + 2 < 32 ∧ (∀ x ∈ ((sU [r]).core 0).pend, 0 < x.due) ∧ r.ctx < 4 := by decide +kernel
/-- An expansion instruction of each kind at the head of its queue, alone; and one that reads an uncorrectable word. -/
theorem witness_UnitAndEngineSteps_expansions :
    let h : XHdr := ⟨1, 2, 2, 0, (0, 0, 0)⟩
    let x (w : XKind) : XOp := ⟨1, 0, 0, w, 4, true, [], 0, [(1, h), (2, h)], [], .reset⟩
    let all : List XKind := [.clr 1 0x40 h, .ld 1 0x40 h, .st 1 0x40 h, .setKern 2, .setGamma 1, .setEta 1, .form 1 0x40 1, .m2m 1 2, .m2l 1 2, .l2l 1 2, .eval 0x40 1 1,
      .m2p 0x40 1 1, .adm 3 1 2]
    let s (w : XKind) : State := sU [] [] [x w]
    let bad : State := { run1 [] id (fun c => { c with poison := [(0x13, 1), (0x12, 1)], xu := { XUnit.reset with hdr := [(1, h)], queue := [x (.form 1 0x40 1)] } }) with now := 0 }
    (∀ w ∈ all, ((s w).core 0).xu.queue = [x w] ∧ (s w).prolongsFirst 0 0 = false) ∧ (x (.setKern 2)).ctx < 4
    -- the words of a planar record: 0x48 is not among them, 0x4C is (R162)
    ∧ startReads (bad.core 0).xu (.form 1 0x40 1) = [(0x40, 8)] ++ (0x4C, 4) :: [] ∧ (bad.core 0).badRange 0x40 8 = none ∧ (bad.core 0).badRange 0x4C 4 = some 0x4C
    ∧ (bad.core 0).xu.queue = [x (.form 1 0x40 1)] ∧ (∀ y ∈ (bad.core 0).pend, 0 < y.due) := by decide +kernel
/-- A slot whose write an atomic's slot still holds, and one whose write is performed; no unit under way to a peer. -/
theorem witness_UnitAndEngineSteps_writes :
    let h : Held := ⟨0, 0x01000040, [1], [], false, .slot 0 8⟩
    let s (b : List Held) : State := run1 [] id (fun c => { c with ctl := { c.ctl with behind := b } })
    let p : State := run1 [] id (fun c => { c with pend := [⟨20, 4, .port h⟩] })
    (s [h]).writing (.slot 0 8) = true ∧ (s []).writing (.slot 0 8) = false ∧ (s [h]).writing (.slot 0 9) = false ∧ p.writing (.slot 0 8) = true ∧ used.buf = [] := by decide +kernel
/-- Stamps near and far of a superstep: reached, not reached, and asked of a peer. -/
theorem witness_SuperstepSteps_stamps :
    let sp (n : DWord) : Superstep := ⟨2, [(0x8000000000000008, n.setWidth 48)], []⟩
    let s : State := { sG with cores := (0, { Core.reset with near := [(0x01000008, 5)] }) :: sG.cores }
    let ev : Event := .releaseNotice 1
    let seen (s : State) (sp : Superstep) : Bool × Bool := let r := s.seeStamps 0 sp ev; (r.1, r.2.1)
    let peer : State := { sG with
      cols := [(0, { Column.reset with rangeC := [⟨0, 0x10000, 0x10000, Config.peerBase + 2 * 2 ^ 44, true, true⟩] })]
      parts := [(0, { Part.reset with firewall := [(0, 7), (1, 0xFFFFFFFFFF000)], peers := [(2, 0x2000A009)] })]
      dev := { State.reset.dev with fabric := { Fabric.reset with bank0 := [(9, 0x30008)], ports := [(3, { Port.reset with up := true })] } } }
    seen s (sp 5) = (true, false) ∧ seen s (sp 6) = (false, false) ∧ seen peer ⟨2, [(0x10000, 1)], []⟩ = (false, true)
    ∧ (sp 5).stamps = [(0x8000000000000008, 5)] ∧ (0x8000000000000008 : DWord).getLsbD 63 = true ∧ coreNat s 0 (Config.bankBase + 8) 8 % 2 ^ 48 = 5 ∧ s.now % 120 = 0 ∧ ({ s with now := 60 } : State).now % 120 ≠ 0 := by decide +kernel
/-- A pre-emption asked for at a boundary; a phase of a stopped core, and of a follower whose leader is stopped. -/
theorem witness_SuperstepSteps_boundary :
    let p (skew : Nat) : Phase := ⟨.compute, 16, 0, 2, true, skew, true⟩
    let s (j : Nat) : State := { sG with cores := [(21504, { Core.reset with ctl := { Ctl.reset with phase := some (p 0), stopped := j == 21504 } }),
      (21505, { Core.reset with ctl := { Ctl.reset with phase := some (p 1), stopped := j == 21505 } })] }
    (kG (fun k => { entered 2 0 k with frozenReq := some false })).frozenReq ≠ none
    ∧ ((s 21504).core 21504).ctl.stopped = true ∧ ((s 21504).core 21505).ctl.stopped = false ∧ leaderOf 21505 = 21504 ∧ (p 1).slaved = true
    ∧ ((s 21504).core (leaderOf 21505)).ctl.stopped = true ∧ ((s 0).core (leaderOf 21505)).ctl.stopped = false ∧ (∀ x ∈ ((s 0).core 21505).pend, 0 < x.due)
    -- static entries that a pre-empted kernel keeps
    ∧ (kG (fun k => { k with scheds := [⟨0, 3, []⟩] })).scheds = [⟨0, 3, []⟩] := by decide +kernel
/-- A SIGNAL that has started and one that has not; a context that keeps its kernel, and a bank write that still does; a stamp under way. -/
theorem witness_TaskSteps_further :
    let n : NodeRun := { nodeOf 7 [7, 0x80, 0x8000000000000008, 7, 1, 0, 0, 0] with word := some 0, nowait := true }
    let done (k : Kernel) : Kernel := { k with stage := .done }
    let own (x : Ctx) : State := sG id (fun c => { c with ctl := { c.ctl with kernel := some 1 }, ctxs := [(1, { x with kernel := some 1 })] })
    let runs := own { Ctx.reset with run := .ready }
    let stores := own { Ctx.reset with stxOut := [1] }
    let T : Task := ⟨0, 0, 0, 0x8000000000000040, 0, false, none, [], true, true⟩
    let s (b : List Held) : State := { sT [] with
      cores := [(0, { (sT []).core 0 with ctl := { ((sT []).core 0).ctl with behind := b } })], gaf := { (sT []).gaf with tasks := [(1, some T)] } }
    n.word ≠ none ∧ n.nowait = true ∧ (done kG).stage = .done ∧ (done kG).fatal = false
    ∧ runs.kernelHalted 1 (done kG) = false ∧ (runs.ctx (21504, 1)).kernel = some 1 ∧ (runs.ctx (21504, 1)).run ≠ .halted ∧ 21504 ∈ (done kG).cores
    ∧ stores.kernelHalted 1 (done kG) = true ∧ stores.kernelOver 1 (done kG) = false ∧ stores.ownOut (21504, 1) = true ∧ (stores.ctx (21504, 1)).kernel = some 1
    ∧ (s []).task 1 = some T ∧ T.stamped = true ∧ T.nodes = [] ∧ T.ending = true ∧ (s []).writing (.task 1) = false
    ∧ (s [⟨0, 0x01000040, [1], [], false, .task 1⟩]).writing (.task 1) = true := by decide +kernel
/-- A sample and a step of the hard limit that stand far on the agenda, and ones that stand within their times. -/
theorem witness_PowerSteps_bounds (s : State) :
    (∀ e ∈ ([] : List Due), e.at_ ≤ s.now + s.nsTicks 32000 → ∀ l, e.ev ≠ .sensorSample l)
    ∧ (∀ e ∈ [(⟨s.now + s.nsTicks 32000 + 1, .sensorSample []⟩ : Due)], e.at_ ≤ s.now + s.nsTicks 32000 → ∀ l, e.ev ≠ .sensorSample l)
    ∧ (∀ e ∈ [(⟨s.now + s.nsTicks 10000 + 1, .hardLimitStep 0 false⟩ : Due)], e.at_ ≤ s.now + s.nsTicks 10000 → ∀ a b, e.ev ≠ .hardLimitStep a b)
    ∧ (∃ e ∈ [(⟨s.now + s.nsTicks 10000, .hardLimitStep 0 false⟩ : Due)], e.at_ ≤ s.now + s.nsTicks 10000 ∧ ∃ a b, e.ev = .hardLimitStep a b) := by
  refine ⟨by simp, ?_, ?_, ⟨_, List.mem_singleton_self _, Nat.le_refl _, 0, false, rfl⟩⟩ <;>
  · rintro e he h
    rw [List.mem_singleton.1 he] at h
    exact absurd h (by simp only; omega)
/-- A request without a usable port, a response that names one, markers of class 0, and a notice for a ring: busy and free. -/
theorem witness_FabricSteps_answers :
    let fb := (sF).dev.fabric
    let r : PeerReq := ⟨9, 2, 0, 0x200000, 1, .swap, 0x200000⟩
    let a : Flit := ⟨7, 3, 2, 3, 5, 0, 0, 0x200000, [0x07, 0, 0, 9, 0], true⟩
    let y : Flit := { flit 7 0 7 with fseq := 1 }
    let m : RxFlow := ⟨0, [], [y]⟩
    let n : Notice := ⟨5, 3, .down, 1, 0⟩
    let n2 : Notice := ⟨6, 3, .down, 1, 0⟩
    let ringed (l : List PeerReq) : State := { sF (fun f => { f with reqs := l }) with parts := [(0, { Part.reset with nt := { Ring.reset with en := true, base := 0x10 } })] }
    (∀ j, j < 16 → (fb.route fb.act 8).getLsbD j = true → ((sF).port j).up = false) ∧ (flit 8 0 1).typ = 1 ∧ (flit 8 0 3).typ ≠ 1 ∧ (flit 8 0 3).typ ≠ 2 ∧ (flit 8 0 3).typ ≠ 4
    ∧ a.payload.length = 5 ∧ a.typ = 3 ∧ a.cls = 2 ∧ a.dest = fb.myid ∧ r.cls = 2 ∧ r.pa = a.pa ∧ r.dest.toNat = leNat (a.payload.drop 3)
    ∧ ((sF (fun f => { f with flows := [(flowKey 0 2, m)] })).dev.fabric.flow (flowKey 0 2)).markers = [y] ∧ y.fseq = 1 ∧ (1 : BitVec 10) = m.next + 1
    ∧ ((1 : BitVec 10) - m.next).toNat < 512 ∧ (2 : BitVec 2) ≠ 0 ∧ (2 : BitVec 2) ≠ 1
    ∧ ((ringed []).part 0).nt.en = true ∧ (ringed []).ringBusy 0 n = false ∧ (ringed [{ r with ev := .noticeReceive 17 n2 }]).ringBusy 0 n = true := by decide +kernel
/-- A ring that takes a notice, and one that a peer holds. -/
theorem witness_FabricSteps_rings :
    let n : Notice := ⟨5, 3, .down, 1, 0⟩
    let base : Part := { Part.reset with nt := { Ring.reset with en := true, base := 0x10 }, firewall := [(0, 7), (1, 0xFFFFFFFFFF000)], peers := [(2, 0x2000A009)] }
    let s (pa : Nat) : State := { sF with
      cols := (List.range 16).map (fun c => (c, { Column.reset with rangeC := [⟨0, 0x10000, 0x10000, pa, true, true⟩] })), parts := [(0, base)] }
    let w (s : State) : Option Ring := (s.ringWrite 0 (s.homeCol 0) (s.part 0).nt (noticeBytes n) 0 (.noticeReceive 17 n)).1
    (w (s 0x200000)).isSome = true ∧ w (s (Config.peerBase + 2 * 2 ^ 44)) = none := by decide +kernel
/-- A read of the flags behind an MRD of the context that has not ended. -/
theorem witness_ChecksComeInTheirOrder_units :
    let s : State := sU [opOf (.mrd 3 1 .f32 false 0)]
    let n : Need := { len := 1, hdr := p0, vs := [3] }
    illegal n s = false ∧ guardWait n s = none ∧ guardHolds n s = true ∧ waitFor n s = none ∧ waitMrd n s = true := by decide +kernel

end Sys2Proof.Tests
end

section
/-! PROOFS. The fields of CORE_ID (R69): the topology's bounds (R12 to R15), and each field read back from the packed word. -/

namespace Sys2Proof.Proofs

open Sys2Proof.Machine

/-! ## The topology's bounds (R12 to R15) -/

theorem tierOf_lt (k : Nat) : Machine.tierOf k < 4 := by
  unfold Machine.tierOf
  split_ifs <;> decide

/-- A tier's quad is a square mesh. -/
theorem quadCores_eq_meshWidth_sq (t : Nat) : Config.quadCores t = Config.meshWidth t * Config.meshWidth t := by
  unfold Config.quadCores Config.meshWidth
  split_ifs <;> rfl

/-- A tier's mesh is four clusters wide. -/
theorem meshWidth_eq_clusterSide (t : Nat) : Config.meshWidth t = Config.clusterSide t * 4 := by
  unfold Config.meshWidth Config.clusterSide
  split_ifs <;> rfl

theorem clusterSide_pos (t : Nat) : 0 < Config.clusterSide t := by
  unfold Config.clusterSide
  split_ifs <;> decide

theorem clusterSide_le (t : Nat) : Config.clusterSide t ≤ 16 := by
  unfold Config.clusterSide
  split_ifs <;> decide

theorem meshWidth_pos (t : Nat) : 0 < Config.meshWidth t := by
  rw [meshWidth_eq_clusterSide]
  exact Nat.mul_pos (clusterSide_pos t) (by decide)

theorem quadCores_pos (t : Nat) : 0 < Config.quadCores t := by
  rw [quadCores_eq_meshWidth_sq]
  exact Nat.mul_pos (meshWidth_pos t) (meshWidth_pos t)

/-- A tier holds four quads. -/
theorem tierRest_lt {k : Nat} (hk : k < Config.coreCount) : tierRest k < Config.quadCores (Machine.tierOf k) * 4 := by
  unfold Config.coreCount at hk
  unfold tierRest Machine.tierOf
  split_ifs <;> simp [Config.coreBase, Config.quadCores] <;> omega

theorem quadOf_lt {k : Nat} (hk : k < Config.coreCount) : quadOf k < 4 :=
  Nat.div_lt_of_lt_mul (tierRest_lt hk)

theorem yOf_lt (k : Nat) : yOf k < Config.meshWidth (Machine.tierOf k) :=
  Nat.div_lt_of_lt_mul (quadCores_eq_meshWidth_sq _ ▸ Nat.mod_lt _ (quadCores_pos _))

theorem xOf_lt (k : Nat) : xOf k < Config.meshWidth (Machine.tierOf k) :=
  Nat.mod_lt _ (meshWidth_pos _)

/-- Four clusters stand beside each other in a quad, whichever mesh coordinate counts them. -/
theorem div_clusterSide_lt {t x : Nat} (hx : x < Config.meshWidth t) : x / Config.clusterSide t < 4 :=
  Nat.div_lt_of_lt_mul (meshWidth_eq_clusterSide t ▸ hx)

theorem columnOf_lt {k : Nat} (hk : k < Config.coreCount) : columnOf k < 64 := by
  have hq := quadOf_lt hk
  have hy := div_clusterSide_lt (yOf_lt k)
  have hx := div_clusterSide_lt (xOf_lt k)
  simp only [columnOf]
  omega

theorem skewOf_lt (k : Nat) : skewOf k < 16 :=
  Nat.lt_of_lt_of_le (Nat.mod_lt _ (clusterSide_pos _)) (clusterSide_le _)

/-- A core that leads its gang is no follower; core 0, where `k - skewOf k` is truncated, has index 0 itself. -/
theorem skewOf_eq_zero_of_leaderOf_eq {k : Nat} (h : leaderOf k = k) : skewOf k = 0 := by
  rcases Nat.eq_zero_or_pos k with rfl | hk
  · rfl
  · unfold leaderOf at h
    omega

/-! ## Fields of a packed word -/

/-- A field of a word given as a number: quotient and remainder of the number by powers of two. -/
theorem extractLsb'_ofNat_eq {w start len n f : Nat} (hn : n < 2 ^ w) (hf : n / 2 ^ start % 2 ^ len = f) :
    (BitVec.ofNat w n).extractLsb' start len = BitVec.ofNat len f := by
  apply BitVec.eq_of_toNat_eq
  rw [BitVec.extractLsb'_toNat, BitVec.toNat_ofNat, BitVec.toNat_ofNat, Nat.mod_eq_of_lt hn, Nat.shiftRight_eq_div_pow,
    ← hf, Nat.mod_mod]

/-- CORE_ID's fields, each within its width, read back from the word (R69). -/
theorem coreId_fields {k ctx : Nat} (hk : k < 2 ^ 15) (hctx : ctx < 4) (hq : quadOf k < 4) (hc : columnOf k < 64) :
    (coreId k ctx).extractLsb' 0 15 = BitVec.ofNat 15 k
    ∧ (coreId k ctx).extractLsb' 15 2 = BitVec.ofNat 2 (Machine.tierOf k)
    ∧ (coreId k ctx).extractLsb' 17 2 = BitVec.ofNat 2 ctx
    ∧ (coreId k ctx).extractLsb' 19 2 = BitVec.ofNat 2 (quadOf k)
    ∧ (coreId k ctx).extractLsb' 21 6 = BitVec.ofNat 6 (columnOf k)
    ∧ (coreId k ctx).extractLsb' 27 4 = BitVec.ofNat 4 (skewOf k)
    ∧ (coreId k ctx).extractLsb' 31 33 = 0 := by
  have ht := tierOf_lt k
  have hs := skewOf_lt k
  have hn : k + Machine.tierOf k * 2 ^ 15 + ctx * 2 ^ 17 + quadOf k * 2 ^ 19 + columnOf k * 2 ^ 21 + skewOf k * 2 ^ 27
      < 2 ^ 31 := by omega
  have field (start len f : Nat) := extractLsb'_ofNat_eq (start := start) (len := len) (f := f)
    (Nat.lt_trans hn (by decide : 2 ^ 31 < 2 ^ 64))
  exact ⟨field _ _ _ (by omega), field _ _ _ (by omega), field _ _ _ (by omega), field _ _ _ (by omega),
    field _ _ _ (by omega), field _ _ _ (by omega), field _ _ 0 (by omega)⟩

/-- Settles O18: every core and context number fits its field of the packed word. -/
theorem coreIdLayout : Obligations.CoreIdLayout := by
  intro k ctx hk hctx
  have hk15 : k < 2 ^ 15 := Nat.lt_trans hk (by decide)
  have hq := quadOf_lt hk
  have hc := columnOf_lt hk
  obtain ⟨hcore, htier, hcx, hquad, hcol, hskew, hres⟩ := coreId_fields hk15 hctx hq hc
  exact ⟨hcore, htier, hcx, hquad, hcol, hskew, hres, hk15, tierOf_lt k, hq, hc, skewOf_lt k,
    skewOf_eq_zero_of_leaderOf_eq⟩

end Sys2Proof.Proofs
end

section
/-! PROOFS. NaN patterns and codes (R87, R97): which patterns a format reads as NaNs, and which of them signal. -/

namespace Sys2Proof.Proofs

open Sys2Proof.Machine

/-! ## NaNs of the formats with infinities (R87) -/

/-- The top bit of a fraction of `p` bits is bit `p - 1` of the whole pattern. -/
theorem fraction_topBit_eq {p : Nat} (hp : 0 < p) (x : Nat) :
    x % 2 ^ p / 2 ^ (p - 1) % 2 = x / 2 ^ (p - 1) % 2 := by
  have hsplit : 2 ^ p = 2 ^ (p - 1) * 2 := (Nat.two_pow_pred_mul_two hp).symm
  rw [hsplit, Nat.mod_mul_right_div_self, Nat.mod_mod]

/-- Of a format with infinities, the top exponent with a nonzero fraction is a NaN, and it signals when the fraction's top
bit is 0. -/
theorem decode_nan_of_inf {f : Fmt} {x : Nat} (hinf : f.inf = true) (hp : 0 < f.fbits)
    (hexp : x / 2 ^ f.fbits % 2 ^ f.ebits = f.etop) (hfrac : x % 2 ^ f.fbits ≠ 0) :
    f.decode x = .nan (decide (x / 2 ^ (f.fbits - 1) % 2 = 0)) := by
  have hnan : f.decode x = .nan (x % 2 ^ f.fbits / 2 ^ (f.fbits - 1) % 2 == 0) := by
    simp only [Fmt.decode]
    rw [if_pos ⟨hexp, hinf⟩, if_neg hfrac]
  rw [hnan, fraction_topBit_eq hp]
  rfl

/-- The formats with infinities, each with a fraction bit to tell quiet from signalling. -/
theorem inf_and_fbits_pos : ∀ f ∈ [f32, f16, bf16, e5m2, wide], f.inf = true ∧ 0 < f.fbits := by decide

/-! ## NaNs of a format without infinities (R87) -/

/-- Without infinities the one NaN of each sign has exponent and fraction all ones, and it is quiet. -/
theorem decode_nan_iff_of_not_inf {f : Fmt} (hinf : f.inf = false) (x : Nat) (signalling : Bool) :
    f.decode x = .nan signalling ↔
      (x / 2 ^ f.fbits % 2 ^ f.ebits = f.etop ∧ x % 2 ^ f.fbits = 2 ^ f.fbits - 1) ∧ signalling = false := by
  simp only [Fmt.decode]
  rw [if_neg (by simp [hinf])]
  split_ifs with hones <;> simp [hones, eq_comm]

theorem isNaN_eq_true_iff (v : FVal) : v.isNaN = true ↔ ∃ signalling, v = .nan signalling := by
  cases v <;> simp [FVal.isNaN]

theorem snan_eq_true_iff (v : FVal) : v.snan = true ↔ v = .nan true := by
  cases v <;> simp [FVal.snan]

theorem snan_decode_of_not_inf {f : Fmt} (hinf : f.inf = false) (x : Nat) : (f.decode x).snan = false := by
  rw [← Bool.not_eq_true, snan_eq_true_iff, decode_nan_iff_of_not_inf hinf]
  simp

theorem isNaN_decode_iff_of_not_inf {f : Fmt} (hinf : f.inf = false) (x : Nat) :
    (f.decode x).isNaN = true ↔
      x / 2 ^ f.fbits % 2 ^ f.ebits = f.etop ∧ x % 2 ^ f.fbits = 2 ^ f.fbits - 1 := by
  simp [isNaN_eq_true_iff, decode_nan_iff_of_not_inf hinf]

/-- E4M3's exponent and fraction fill seven bits, and the sign is free. -/
theorem isNaN_e4m3_decode_iff {x : Nat} (hx : x < 256) : (e4m3.decode x).isNaN = true ↔ x = 0x7F ∨ x = 0xFF := by
  rw [isNaN_decode_iff_of_not_inf rfl]
  change x / 2 ^ 3 % 2 ^ 4 = 2 ^ 4 - 1 ∧ x % 2 ^ 3 = 2 ^ 3 - 1 ↔ _
  omega

/-- Settles O27: the formats with infinities by their top exponent, E4M3 by its one pattern of all ones, and the canonical
NaNs by the values of the formats' parameters. -/
theorem nanPatterns : Obligations.NanPatterns := by
  refine ⟨?_, ?_, ?_⟩
  · intro f hf x _ hexp hfrac
    obtain ⟨hinf, hp⟩ := inf_and_fbits_pos f hf
    exact decode_nan_of_inf hinf hp hexp hfrac
  · intro x hx
    exact ⟨isNaN_e4m3_decode_iff hx, snan_decode_of_not_inf rfl x⟩
  · decide

/-! ## QL4 levels (R97) -/

/-- Settles O28: the sixteen codes are a finite table, evaluated code by code. -/
theorem ql4Levels : Obligations.Ql4Levels := by
  unfold Obligations.Ql4Levels
  decide

end Sys2Proof.Proofs
end


section
/-! PROOFS. Decoding inverts encoding (R75 to R81): the lemmas of the constructors put together, and the rows without words. -/

namespace Sys2Proof.Proofs

open Sys2Proof.Machine Sys2Proof.Laws

/-! ## Every instruction reads back -/

/-- What the encoder writes reads back, constructor by constructor. -/
theorem decode_encode : ∀ i : Instr, RoundTrip.Statement i
  | .add h d a b => RoundTrip.add h d a b
  | .sub h d a b => RoundTrip.sub h d a b
  | .mul h d a b => RoundTrip.mul h d a b
  | .mulh h d a b u => RoundTrip.mulh h d a b u
  | .div h d a b u => RoundTrip.div h d a b u
  | .rem h d a b u => RoundTrip.rem h d a b u
  | .and h d a b => RoundTrip.and h d a b
  | .andn h d a b => RoundTrip.andn h d a b
  | .or h d a b => RoundTrip.or h d a b
  | .xor h d a b => RoundTrip.xor h d a b
  | .shl h d a b => RoundTrip.shl h d a b
  | .shr h d a b => RoundTrip.shr h d a b
  | .sra h d a b => RoundTrip.sra h d a b
  | .rot h d a b => RoundTrip.rot h d a b
  | .clz h d a => RoundTrip.clz h d a
  | .ctz h d a => RoundTrip.ctz h d a
  | .popc h d a => RoundTrip.popc h d a
  | .min h d a b u => RoundTrip.min h d a b u
  | .max h d a b u => RoundTrip.max h d a b u
  | .sel h d a b => RoundTrip.sel h d a b
  | .mov h d a => RoundTrip.mov h d a
  | .sxt h d a w => RoundTrip.sxt h d a w
  | .zxt h d a w => RoundTrip.zxt h d a w
  | .cmpEq h d a b u => RoundTrip.cmpEq h d a b u
  | .cmpNe h d a b u => RoundTrip.cmpNe h d a b u
  | .cmpLt h d a b u => RoundTrip.cmpLt h d a b u
  | .cmpLe h d a b u => RoundTrip.cmpLe h d a b u
  | .addi gap d a imm => RoundTrip.addi gap d a imm
  | .addiLong h d a lit => RoundTrip.addiLong h d a lit
  | .li gap d imm => RoundTrip.li gap d imm
  | .liLong h d lit => RoundTrip.liLong h d lit
  | .cmpiEq gap d a imm => RoundTrip.cmpiEq gap d a imm
  | .cmpiNe gap d a imm => RoundTrip.cmpiNe gap d a imm
  | .cmpiLt gap d a imm => RoundTrip.cmpiLt gap d a imm
  | .cmpiLe gap d a imm => RoundTrip.cmpiLe gap d a imm
  | .cmpiGt gap d a imm => RoundTrip.cmpiGt gap d a imm
  | .cmpiGe gap d a imm => RoundTrip.cmpiGe gap d a imm
  | .cmpiLtN64 gap d a imm => RoundTrip.cmpiLtN64 gap d a imm
  | .cmpiLeN64 gap d a imm => RoundTrip.cmpiLeN64 gap d a imm
  | .cmpiGtN64 gap d a imm => RoundTrip.cmpiGtN64 gap d a imm
  | .cmpiGeN64 gap d a imm => RoundTrip.cmpiGeN64 gap d a imm
  | .cmpiLong h cond d a lit => RoundTrip.cmpiLong h cond d a lit
  | .pand h d a b => RoundTrip.pand h d a b
  | .por h d a b => RoundTrip.por h d a b
  | .pxor h d a b => RoundTrip.pxor h d a b
  | .pnot h d a => RoundTrip.pnot h d a
  | .pmov h d a => RoundTrip.pmov h d a
  | .br h disp => RoundTrip.br h disp
  | .brLong h lit => RoundTrip.brLong h lit
  | .jmp gap y disp => RoundTrip.jmp gap y disp
  | .jmpLong gap y lit => RoundTrip.jmpLong gap y lit
  | .jmpi h a => RoundTrip.jmpi h a
  | .call h disp => RoundTrip.call h disp
  | .callLong h lit => RoundTrip.callLong h lit
  | .calli h a => RoundTrip.calli h a
  | .ret gap y => RoundTrip.ret gap y
  | .enter gap imm => RoundTrip.enter gap imm
  | .enterLong h lit => RoundTrip.enterLong h lit
  | .leave h => RoundTrip.leave h
  | .nop h => RoundTrip.nop h
  | .halt h => RoundTrip.halt h
  | .ldI8 gap d a imm => RoundTrip.ldI8 gap d a imm
  | .ldI16 gap d a imm => RoundTrip.ldI16 gap d a imm
  | .ldI32 gap d a imm => RoundTrip.ldI32 gap d a imm
  | .ldI64 gap d a imm => RoundTrip.ldI64 gap d a imm
  | .ldN8 gap d a imm => RoundTrip.ldN8 gap d a imm
  | .ldN16 gap d a imm => RoundTrip.ldN16 gap d a imm
  | .ldN32 gap d a imm => RoundTrip.ldN32 gap d a imm
  | .ldLong h ty d a lit => RoundTrip.ldLong h ty d a lit
  | .stI8 gap d a imm => RoundTrip.stI8 gap d a imm
  | .stI16 gap d a imm => RoundTrip.stI16 gap d a imm
  | .stI32 gap d a imm => RoundTrip.stI32 gap d a imm
  | .stI64 gap d a imm => RoundTrip.stI64 gap d a imm
  | .stLong h ty d a lit => RoundTrip.stLong h ty d a lit
  | .vld gap d a imm => RoundTrip.vld gap d a imm
  | .vldLong h d a lit => RoundTrip.vldLong h d a lit
  | .vst gap d a imm => RoundTrip.vst gap d a imm
  | .vstLong h d a lit => RoundTrip.vstLong h d a lit
  | .bldI8 gap d a imm => RoundTrip.bldI8 gap d a imm
  | .bldI16 gap d a imm => RoundTrip.bldI16 gap d a imm
  | .bldI32 gap d a imm => RoundTrip.bldI32 gap d a imm
  | .bldI64 gap d a imm => RoundTrip.bldI64 gap d a imm
  | .bldN8 gap d a imm => RoundTrip.bldN8 gap d a imm
  | .bldN16 gap d a imm => RoundTrip.bldN16 gap d a imm
  | .bldN32 gap d a imm => RoundTrip.bldN32 gap d a imm
  | .bldLong h ty d a lit => RoundTrip.bldLong h ty d a lit
  | .bstI8 gap d a imm => RoundTrip.bstI8 gap d a imm
  | .bstI16 gap d a imm => RoundTrip.bstI16 gap d a imm
  | .bstI32 gap d a imm => RoundTrip.bstI32 gap d a imm
  | .bstI64 gap d a imm => RoundTrip.bstI64 gap d a imm
  | .bstLong h ty d a lit => RoundTrip.bstLong h ty d a lit
  | .vbld gap d a imm => RoundTrip.vbld gap d a imm
  | .vbldLong h d a lit => RoundTrip.vbldLong h d a lit
  | .vbst gap d a imm => RoundTrip.vbst gap d a imm
  | .vbstLong h d a lit => RoundTrip.vbstLong h d a lit
  | .blook h d a => RoundTrip.blook h d a
  | .btag h d a b => RoundTrip.btag h d a b
  | .binv h d a => RoundTrip.binv h d a
  | .send h d a b => RoundTrip.send h d a b
  | .mget h d a b => RoundTrip.mget h d a b
  | .msgb h d a b s8 => RoundTrip.msgb h d a b s8
  | .mclr h d => RoundTrip.mclr h d
  | .ldx h d a => RoundTrip.ldx h d a
  | .stx h a b => RoundTrip.stx h a b
  | .trap gap imm => RoundTrip.trap gap imm
  | .trapLong h lit => RoundTrip.trapLong h lit
  | .eret gap y => RoundTrip.eret gap y
  | .sysr gap d imm => RoundTrip.sysr gap d imm
  | .sysrLong h d lit => RoundTrip.sysrLong h d lit
  | .sysw gap d imm => RoundTrip.sysw gap d imm
  | .syswLong h d lit => RoundTrip.syswLong h d lit
  | .yield h => RoundTrip.yield h
  | .ext h d a ty tier pos wm1 => RoundTrip.ext h d a ty tier pos wm1
  | .ins h d a tier pos wm1 => RoundTrip.ins h d a tier pos wm1
  | .lea h d a b tier sh disp => RoundTrip.lea h d a b tier sh disp
  | .leaXl h d a b tier sh lit => RoundTrip.leaXl h d a b tier sh lit
  | .rep h stride nm1l winl winh nm1h km1 mask => RoundTrip.rep h stride nm1l winl winh nm1h km1 mask
  | .vlds h d a b ty tier disp => RoundTrip.vlds h d a b ty tier disp
  | .vsts h d a b ty tier disp => RoundTrip.vsts h d a b ty tier disp
  | .vgath h d a b ty tier disp => RoundTrip.vgath h d a b ty tier disp
  | .vscat h d a b ty tier disp => RoundTrip.vscat h d a b ty tier disp
  | .vadd h d a b ty rnd sat tier => RoundTrip.vadd h d a b ty rnd sat tier
  | .vsub h d a b ty rnd sat tier => RoundTrip.vsub h d a b ty rnd sat tier
  | .vmul h d a b ty rnd sat tier => RoundTrip.vmul h d a b ty rnd sat tier
  | .vfma h d a b ty rnd tier c => RoundTrip.vfma h d a b ty rnd tier c
  | .vfms h d a b ty rnd tier c => RoundTrip.vfms h d a b ty rnd tier c
  | .vneg h d a ty sat tier => RoundTrip.vneg h d a ty sat tier
  | .vabs h d a ty sat tier => RoundTrip.vabs h d a ty sat tier
  | .vmin h d a b ty tier => RoundTrip.vmin h d a b ty tier
  | .vmax h d a b ty tier => RoundTrip.vmax h d a b ty tier
  | .vdiv h d a b ty rnd tier => RoundTrip.vdiv h d a b ty rnd tier
  | .vsqrt h d a ty rnd tier => RoundTrip.vsqrt h d a ty rnd tier
  | .vrcp h d a ty rnd tier => RoundTrip.vrcp h d a ty rnd tier
  | .vrsq h d a ty rnd tier => RoundTrip.vrsq h d a ty rnd tier
  | .vexp2f h d a ty tier => RoundTrip.vexp2f h d a ty tier
  | .vrndi h d a ty rnd tier => RoundTrip.vrndi h d a ty rnd tier
  | .vinsx h d a b ty rnd sat tier => RoundTrip.vinsx h d a b ty rnd sat tier
  | .vextx h d a ty tier => RoundTrip.vextx h d a ty tier
  | .vcvt h d a ty ty2 rnd sat tier part => RoundTrip.vcvt h d a ty ty2 rnd sat tier part
  | .vcmp h d a b ty tier cond pw p => RoundTrip.vcmp h d a b ty tier cond pw p
  | .vsel h d a b ty tier c => RoundTrip.vsel h d a b ty tier c
  | .vand h d a b tier => RoundTrip.vand h d a b tier
  | .vor h d a b tier => RoundTrip.vor h d a b tier
  | .vxor h d a b tier => RoundTrip.vxor h d a b tier
  | .vshl h d a b ty sat tier => RoundTrip.vshl h d a b ty sat tier
  | .vshr h d a b ty tier => RoundTrip.vshr h d a b ty tier
  | .vsra h d a b ty tier => RoundTrip.vsra h d a b ty tier
  | .vperm h d a b ty tier => RoundTrip.vperm h d a b ty tier
  | .vsplat h d a ty tier => RoundTrip.vsplat h d a ty tier
  | .vsplatXl h d ty tier lit => RoundTrip.vsplatXl h d ty tier lit
  | .vmov h d a tier => RoundTrip.vmov h d a tier
  | .vreds h d a ty rnd sat tier => RoundTrip.vreds h d a ty rnd sat tier
  | .vredx h d a ty tier isMax => RoundTrip.vredx h d a ty tier isMax
  | .vclass h d a ty tier => RoundTrip.vclass h d a ty tier
  | .vcode h d a ty ty2 tier seg => RoundTrip.vcode h d a ty ty2 tier seg
  | .vql4 h d a ty ty2 tier seg => RoundTrip.vql4 h d a ty ty2 tier seg
  | .vscac h d a b ty ty2 tier c e ql => RoundTrip.vscac h d a b ty ty2 tier c e ql
  | .vker h d a ty tier => RoundTrip.vker h d a ty tier
  | .gang h => RoundTrip.gang h
  | .mma h d a ty ty2 k koff t z => RoundTrip.mma h d a ty ty2 k koff t z
  | .mmas h d a b ty ty2 => RoundTrip.mmas h d a b ty ty2
  | .mwld h a b ty k axis => RoundTrip.mwld h a b ty k axis
  | .mzero h d => RoundTrip.mzero h d
  | .mrd h d a ty sat row => RoundTrip.mrd h d a ty sat row
  | .mscac h d a b => RoundTrip.mscac h d a b
  | .mstat h d => RoundTrip.mstat h d
  | .rstr h d a b ty ovw self => RoundTrip.rstr h d a b ty ovw self
  | .prlg h d a b ty ovw self => RoundTrip.prlg h d a b ty ovw self
  | .wsld h d a => RoundTrip.wsld h d a
  | .xclr h d a tier => RoundTrip.xclr h d a tier
  | .xld h d a tier => RoundTrip.xld h d a tier
  | .xst h d a tier => RoundTrip.xst h d a tier
  | .xsetKern h tier kern => RoundTrip.xsetKern h tier kern
  | .xsetGamma h a tier => RoundTrip.xsetGamma h a tier
  | .xsetEta h a tier => RoundTrip.xsetEta h a tier
  | .xform h d a tier n => RoundTrip.xform h d a tier n
  | .xm2m h d a tier => RoundTrip.xm2m h d a tier
  | .xm2l h d a tier => RoundTrip.xm2l h d a tier
  | .xl2l h d a tier => RoundTrip.xl2l h d a tier
  | .xeval h a b tier n => RoundTrip.xeval h a b tier n
  | .xm2p h a b tier n => RoundTrip.xm2p h a b tier n
  | .xadm h d a b tier => RoundTrip.xadm h d a b tier
  | .cpy h a scope => RoundTrip.cpy h a scope
  | .cpys h a scope => RoundTrip.cpys h a scope
  | .cpyg h a scope => RoundTrip.cpyg h a scope
  | .stage h a => RoundTrip.stage h a
  | .coll h a ty scope kind op => RoundTrip.coll h a ty scope kind op
  | .finst h a => RoundTrip.finst h a
  | .fstat h d a => RoundTrip.fstat h d a
  | .marm h a => RoundTrip.marm h a
  | .mwait h d a ne => RoundTrip.mwait h d a ne
  | .aadd h d a b ty scope k sc => RoundTrip.aadd h d a b ty scope k sc
  | .amin h d a b ty scope k sc => RoundTrip.amin h d a b ty scope k sc
  | .amax h d a b ty scope k sc => RoundTrip.amax h d a b ty scope k sc
  | .axchg h d a b ty scope k sc => RoundTrip.axchg h d a b ty scope k sc
  | .acas h d a b ty scope k sc => RoundTrip.acas h d a b ty scope k sc
  | .aand h d a b ty scope k sc => RoundTrip.aand h d a b ty scope k sc
  | .aor h d a b ty scope k sc => RoundTrip.aor h d a b ty scope k sc
  | .slota h d a kind => RoundTrip.slota h d a kind
  | .slotf h d a => RoundTrip.slotf h d a
  | .rvinit h d a b => RoundTrip.rvinit h d a b
  | .rvarr h d a => RoundTrip.rvarr h d a
  | .rvarrEng h d a => RoundTrip.rvarrEng h d a
  | .rvwait h d a b => RoundTrip.rvwait h d a b
  | .evsig h d a sc => RoundTrip.evsig h d a sc
  | .evwait h d a b => RoundTrip.evwait h d a b
  | .mlock h d a => RoundTrip.mlock h d a
  | .munlk h d a => RoundTrip.munlk h d a
  | .acq h d a sc => RoundTrip.acq h d a sc
  | .rel h d a sc => RoundTrip.rel h d a sc
  | .bind h a b scope n => RoundTrip.bind h a b scope n
  | .fence h scope => RoundTrip.fence h scope
  | .fencex h scope path p2 => RoundTrip.fencex h scope path p2
  | .sleep h a => RoundTrip.sleep h a
  | .twait h d a b => RoundTrip.twait h d a b
  | .idem h => RoundTrip.idem h
  | .idemEnd h => RoundTrip.idemEnd h
  | .ctxsv h d a all => RoundTrip.ctxsv h d a all
  | .ctxld h d a all => RoundTrip.ctxld h d a all
  | .phaseRelease => RoundTrip.phaseRelease
  | .releaseNotice => RoundTrip.releaseNotice
  | .phaseEnd => RoundTrip.phaseEnd
  | .gangBarrierTimeout => RoundTrip.gangBarrierTimeout
  | .stop => RoundTrip.stop
  | .groupHalt => RoundTrip.groupHalt
  | .preempt => RoundTrip.preempt
  | .resumeRequest => RoundTrip.resumeRequest
  | .thermDelivery => RoundTrip.thermDelivery
  | .messageArrival => RoundTrip.messageArrival
  | .mgetPortRead => RoundTrip.mgetPortRead
  | .mgetReply => RoundTrip.mgetReply
  | .msgbPortWrite => RoundTrip.msgbPortWrite
  | .ldxReply => RoundTrip.ldxReply
  | .stxComplete => RoundTrip.stxComplete
  | .engineMessageArrival => RoundTrip.engineMessageArrival
  | .sliceOpStart => RoundTrip.sliceOpStart
  | .sliceOpComplete => RoundTrip.sliceOpComplete
  | .mwldComplete => RoundTrip.mwldComplete
  | .mmasComplete => RoundTrip.mmasComplete
  | .verticalOpStart => RoundTrip.verticalOpStart
  | .verticalOpEnd => RoundTrip.verticalOpEnd
  | .rstrMerge => RoundTrip.rstrMerge
  | .laneStateChange => RoundTrip.laneStateChange
  | .expansionOpStart => RoundTrip.expansionOpStart
  | .expansionOpEnd => RoundTrip.expansionOpEnd
  | .engineCommandStart => RoundTrip.engineCommandStart
  | .engineUnit => RoundTrip.engineUnit
  | .engineStampWrite => RoundTrip.engineStampWrite
  | .staticEntryStart => RoundTrip.staticEntryStart
  | .installComplete => RoundTrip.installComplete
  | .collComplete => RoundTrip.collComplete
  | .translationWalk => RoundTrip.translationWalk
  | .stagingFill => RoundTrip.stagingFill
  | .atomicSlot => RoundTrip.atomicSlot
  | .clusterAtomicReply => RoundTrip.clusterAtomicReply
  | .deviceAtomicReply => RoundTrip.deviceAtomicReply
  | .objectReply => RoundTrip.objectReply
  | .scAnnounce => RoundTrip.scAnnounce
  | .scDelivery => RoundTrip.scDelivery
  | .rvRootForward => RoundTrip.rvRootForward
  | .fireArrival => RoundTrip.fireArrival
  | .eventChainForward => RoundTrip.eventChainForward
  | .sleepExpiry => RoundTrip.sleepExpiry
  | .twaitExpiry => RoundTrip.twaitExpiry
  | .faultRecordDrain => RoundTrip.faultRecordDrain
  | .taskStart => RoundTrip.taskStart
  | .nodeKernel => RoundTrip.nodeKernel
  | .kernelComplete => RoundTrip.kernelComplete
  | .nodeCopy => RoundTrip.nodeCopy
  | .nodeInstall => RoundTrip.nodeInstall
  | .nodeCond => RoundTrip.nodeCond
  | .nodeLoop => RoundTrip.nodeLoop
  | .nodeSwitch => RoundTrip.nodeSwitch
  | .nodeSignal => RoundTrip.nodeSignal
  | .signalComplete => RoundTrip.signalComplete
  | .nodeWait => RoundTrip.nodeWait
  | .waitTimeout => RoundTrip.waitTimeout
  | .nodeSuccessor => RoundTrip.nodeSuccessor
  | .taskStampWrite => RoundTrip.taskStampWrite
  | .qctlWrite => RoundTrip.qctlWrite
  | .qptrWrite => RoundTrip.qptrWrite
  | .partcfgWrite => RoundTrip.partcfgWrite
  | .vfbindWrite => RoundTrip.vfbindWrite
  | .beatctlReqWrite => RoundTrip.beatctlReqWrite
  | .beatctlRestore => RoundTrip.beatctlRestore
  | .beatChange => RoundTrip.beatChange
  | .tctlWrite => RoundTrip.tctlWrite
  | .pcapWrite => RoundTrip.pcapWrite
  | .pfloorWrite => RoundTrip.pfloorWrite
  | .hlimWrite => RoundTrip.hlimWrite
  | .ibudgetWrite => RoundTrip.ibudgetWrite
  | .fqctlWrite => RoundTrip.fqctlWrite
  | .tinv => RoundTrip.tinv
  | .tinvComplete => RoundTrip.tinvComplete
  | .routingEntryWrite => RoundTrip.routingEntryWrite
  | .swap => RoundTrip.swap
  | .routeBankSwap => RoundTrip.routeBankSwap
  | .pstatClr => RoundTrip.pstatClr
  | .attestRequest => RoundTrip.attestRequest
  | .attestComplete => RoundTrip.attestComplete
  | .mgmtRegisterWrite => RoundTrip.mgmtRegisterWrite
  | .initiateFlr => RoundTrip.initiateFlr
  | .flrDrainDone => RoundTrip.flrDrainDone
  | .flrComplete => RoundTrip.flrComplete
  | .sensorSample => RoundTrip.sensorSample
  | .selfThrottleStep => RoundTrip.selfThrottleStep
  | .hardLimitStep => RoundTrip.hardLimitStep
  | .budgetRefill => RoundTrip.budgetRefill
  | .flitReceive => RoundTrip.flitReceive
  | .drainMarker => RoundTrip.drainMarker
  | .flowLossTimeout => RoundTrip.flowLossTimeout
  | .linkEvent => RoundTrip.linkEvent
  | .noticeReceive => RoundTrip.noticeReceive
  | .retrainComplete => RoundTrip.retrainComplete
  | .flowControlSignal => RoundTrip.flowControlSignal
  | .powerOn => RoundTrip.powerOn
  | .fstatResult => RoundTrip.fstatResult
  | .partcfgChangeComplete => RoundTrip.partcfgChangeComplete
  | .portTrainingComplete => RoundTrip.portTrainingComplete
  | .softError => RoundTrip.softError

/-! ## The rows without words -/

/-- A row without words is a step of another agent: of some event, whatever its operands. -/
theorem exists_event_of_encode_eq_nil {i : Instr} (h : encode i = []) : ∃ ev : Event, ev.row = i := by
  cases i with
  | phaseRelease => exact ⟨.phaseRelease 0 0 0, rfl⟩
  | releaseNotice => exact ⟨.releaseNotice 0, rfl⟩
  | phaseEnd => exact ⟨.phaseEnd 0, rfl⟩
  | gangBarrierTimeout => exact ⟨.gangBarrierTimeout 0, rfl⟩
  | stop => exact ⟨.stop 0, rfl⟩
  | groupHalt => exact ⟨.groupHalt 0, rfl⟩
  | preempt => exact ⟨.preempt 0 false, rfl⟩
  | resumeRequest => exact ⟨.resumeRequest 0, rfl⟩
  | thermDelivery => exact ⟨.thermDelivery 0 0 0, rfl⟩
  | messageArrival => exact ⟨.messageArrival 0 0 0 0 0 0 false, rfl⟩
  | mgetPortRead => exact ⟨.mgetPortRead 0 0 0 0 0 false 0 0, rfl⟩
  | mgetReply => exact ⟨.mgetReply 0 0 0 none 0, rfl⟩
  | msgbPortWrite => exact ⟨.msgbPortWrite 0 0 0 false 0 0 false 0, rfl⟩
  | ldxReply => exact ⟨.ldxReply 0 0 0 0 0 0, rfl⟩
  | stxComplete => exact ⟨.stxComplete 0 0 0 0 0 0, rfl⟩
  | engineMessageArrival => exact ⟨.engineMessageArrival 0 0 0 0, rfl⟩
  | sliceOpStart => exact ⟨.sliceOpStart 0, rfl⟩
  | sliceOpComplete => exact ⟨.sliceOpComplete 0, rfl⟩
  | mwldComplete => exact ⟨.mwldComplete 0, rfl⟩
  | mmasComplete => exact ⟨.mmasComplete 0, rfl⟩
  | verticalOpStart => exact ⟨.verticalOpStart 0, rfl⟩
  | verticalOpEnd => exact ⟨.verticalOpEnd 0, rfl⟩
  | rstrMerge => exact ⟨.rstrMerge 0, rfl⟩
  | laneStateChange => exact ⟨.laneStateChange 0 .full, rfl⟩
  | expansionOpStart => exact ⟨.expansionOpStart 0, rfl⟩
  | expansionOpEnd => exact ⟨.expansionOpEnd 0, rfl⟩
  | engineCommandStart => exact ⟨.engineCommandStart 0 0, rfl⟩
  | engineUnit => exact ⟨.engineUnit 0 0, rfl⟩
  | engineStampWrite => exact ⟨.engineStampWrite 0 0, rfl⟩
  | staticEntryStart => exact ⟨.staticEntryStart 0, rfl⟩
  | installComplete => exact ⟨.installComplete 0 0, rfl⟩
  | collComplete => exact ⟨.collComplete 0 0 [] false, rfl⟩
  | translationWalk => exact ⟨.translationWalk 0 0 0, rfl⟩
  | stagingFill => exact ⟨.stagingFill 0, rfl⟩
  | atomicSlot => exact ⟨.atomicSlot ⟨0, 0, 0, 0, .a80, none, false, 0, 0, 0, 0⟩, rfl⟩
  | clusterAtomicReply => exact ⟨.clusterAtomicReply 0 0 0 none 0, rfl⟩
  | deviceAtomicReply => exact ⟨.deviceAtomicReply ⟨0, 0, 0, 0, .a80, none, false, 0, 0, 0, 0⟩, rfl⟩
  | objectReply => exact ⟨.objectReply 0 0 0 0 false 0, rfl⟩
  | scAnnounce => exact ⟨.scAnnounce 0 0 0, rfl⟩
  | scDelivery => exact ⟨.scDelivery 0, rfl⟩
  | rvRootForward => exact ⟨.rvRootForward 0 0 0 0 .arrive, rfl⟩
  | fireArrival => exact ⟨.fireArrival 0 0 0, rfl⟩
  | eventChainForward => exact ⟨.eventChainForward 0 0 none, rfl⟩
  | sleepExpiry => exact ⟨.sleepExpiry 0 0, rfl⟩
  | twaitExpiry => exact ⟨.twaitExpiry 0 0, rfl⟩
  | faultRecordDrain => exact ⟨.faultRecordDrain 0 0, rfl⟩
  | taskStart => exact ⟨.taskStart 0, rfl⟩
  | nodeKernel => exact ⟨.nodeKernel 0 0 [], rfl⟩
  | kernelComplete => exact ⟨.kernelComplete 0, rfl⟩
  | nodeCopy => exact ⟨.nodeCopy 0 0 [], rfl⟩
  | nodeInstall => exact ⟨.nodeInstall 0 0 [], rfl⟩
  | nodeCond => exact ⟨.nodeCond 0 0 [], rfl⟩
  | nodeLoop => exact ⟨.nodeLoop 0 0 [], rfl⟩
  | nodeSwitch => exact ⟨.nodeSwitch 0 0 [], rfl⟩
  | nodeSignal => exact ⟨.nodeSignal 0 0 [], rfl⟩
  | signalComplete => exact ⟨.signalComplete 0 0 [] false, rfl⟩
  | nodeWait => exact ⟨.nodeWait 0 0 [] 0, rfl⟩
  | waitTimeout => exact ⟨.waitTimeout 0 0, rfl⟩
  | nodeSuccessor => exact ⟨.nodeSuccessor 0 0 [], rfl⟩
  | taskStampWrite => exact ⟨.taskStampWrite 0, rfl⟩
  | qctlWrite => exact ⟨.qctlWrite 0 0 0, rfl⟩
  | qptrWrite => exact ⟨.qptrWrite 0 0 0, rfl⟩
  | partcfgWrite => exact ⟨.partcfgWrite 0, rfl⟩
  | vfbindWrite => exact ⟨.vfbindWrite 0 0, rfl⟩
  | beatctlReqWrite => exact ⟨.beatctlReqWrite 0, rfl⟩
  | beatctlRestore => exact ⟨.beatctlRestore, rfl⟩
  | beatChange => exact ⟨.beatChange, rfl⟩
  | tctlWrite => exact ⟨.tctlWrite 0, rfl⟩
  | pcapWrite => exact ⟨.pcapWrite 0, rfl⟩
  | pfloorWrite => exact ⟨.pfloorWrite 0 0, rfl⟩
  | hlimWrite => exact ⟨.hlimWrite 0, rfl⟩
  | ibudgetWrite => exact ⟨.ibudgetWrite 0 0, rfl⟩
  | fqctlWrite => exact ⟨.fqctlWrite 0 0, rfl⟩
  | tinv => exact ⟨.tinv 0, rfl⟩
  | tinvComplete => exact ⟨.tinvComplete 0, rfl⟩
  | routingEntryWrite => exact ⟨.routingEntryWrite 0 0 0, rfl⟩
  | swap => exact ⟨.swap, rfl⟩
  | routeBankSwap => exact ⟨.routeBankSwap, rfl⟩
  | pstatClr => exact ⟨.pstatClr 0, rfl⟩
  | attestRequest => exact ⟨.attestRequest 0, rfl⟩
  | attestComplete => exact ⟨.attestComplete 0, rfl⟩
  | mgmtRegisterWrite => exact ⟨.mgmtRegisterWrite none 0 0 0, rfl⟩
  | initiateFlr => exact ⟨.initiateFlr none, rfl⟩
  | flrDrainDone => exact ⟨.flrDrainDone 0, rfl⟩
  | flrComplete => exact ⟨.flrComplete 0, rfl⟩
  | sensorSample => exact ⟨.sensorSample [], rfl⟩
  | selfThrottleStep => exact ⟨.selfThrottleStep, rfl⟩
  | hardLimitStep => exact ⟨.hardLimitStep 0 false, rfl⟩
  | budgetRefill => exact ⟨.budgetRefill, rfl⟩
  | flitReceive => exact ⟨.flitReceive 0 ⟨0, 0, 0, 0, 0, 0, 0, 0, [], false⟩, rfl⟩
  | drainMarker => exact ⟨.drainMarker ⟨0, 0, 0, 0, 0, 0, 0, 0, [], false⟩, rfl⟩
  | flowLossTimeout => exact ⟨.flowLossTimeout 0 0 0, rfl⟩
  | linkEvent => exact ⟨.linkEvent 0 .down, rfl⟩
  | noticeReceive => exact ⟨.noticeReceive 0 ⟨0, 0, .down, 0, 0⟩, rfl⟩
  | retrainComplete => exact ⟨.retrainComplete 0, rfl⟩
  | flowControlSignal => exact ⟨.flowControlSignal 0 false, rfl⟩
  | powerOn => exact ⟨.powerOn ⟨false, false, false, 0, 0⟩, rfl⟩
  | fstatResult => exact ⟨.fstatResult 0 0 0 0, rfl⟩
  | partcfgChangeComplete => exact ⟨.partcfgChangeComplete, rfl⟩
  | portTrainingComplete => exact ⟨.portTrainingComplete 0, rfl⟩
  | softError => exact ⟨.softError (.far 0) 0, rfl⟩
  | _ => cases h

/-- Settles O58: every constructor's words read back, and only a step of another agent has none. -/
theorem decodeInvertsEncode : Obligations.DecodeInvertsEncode :=
  ⟨fun i rest hw he => decode_encode i hw he rest, fun _ h => exists_event_of_encode_eq_nil h⟩

end Sys2Proof.Proofs
end


section
/-! PROOFS. Scalar and predicate instructions (R315 to R418): each function of 64-bit values says what its rule says, and the
shared shapes `binary`, `unary`, `scalarOp` and `predOp` complete with it. -/

namespace Sys2Proof.Proofs

open Sys2Proof.Machine Sys2Proof.Safety Sys2Proof.Laws

/-! ## The shared shapes complete with their function's value -/

theorem givesScalar_scalarOp {len : Nat} {h : Hdr} {tier : Option (BitVec 2)} {rs : List Reg} {d : Reg} {lat : Nat}
    {f : State → DWord} {s : State} {v : DWord} (hr : Ready { len := len, hdr := h, tier := tier, rs := rs, rd := [d] } s)
    (hv : f s = v) : GivesScalar s lat d v (scalarOp len h tier rs d lat f s) :=
  givesScalar_issue hr (by rw [hv]) (soft_nil rfl)

theorem givesScalar_binary {h : Hdr} {d a b : Reg} {lat : Nat} {f : DWord → DWord → DWord} {s : State} {v : DWord}
    (hr : Ready { len := 1, hdr := h, rs := [a, b], rd := [d] } s) (hv : f (rv s a) (rv s b) = v) :
    GivesScalar s lat d v (binary h d a b lat f s) :=
  givesScalar_scalarOp hr hv

theorem givesScalar_unary {h : Hdr} {d a : Reg} {f : DWord → DWord} {s : State} {v : DWord}
    (hr : Ready { len := 1, hdr := h, rs := [a], rd := [d] } s) (hv : f (rv s a) = v) :
    GivesScalar s 1 d v (unary h d a f s) :=
  givesScalar_scalarOp hr hv

theorem givesPred_predOp {len : Nat} {h : Hdr} {rs : List Reg} {ps : List PredReg} {d : PredReg} {f : State → Bool}
    {s : State} {b : Bool} (hr : Ready { len := len, hdr := h, rs := rs, ps := ps } s) (hv : f s = b) :
    GivesPred s d b (predOp len h rs ps d f s) :=
  givesPred_issue hr (by rw [hv]) (soft_nil rfl)

/-! ## Arithmetic (R315, R317, R354, R363, R365, R375, R377, R386, R416) -/

theorem add_eq_ofNat (x y : DWord) : x + y = BitVec.ofNat 64 (x.toNat + y.toNat) := rfl

theorem sub_eq_ofInt (x y : DWord) : x - y = BitVec.ofInt 64 ((x.toNat : Int) - y.toNat) := by
  apply BitVec.eq_of_toInt_eq
  rw [BitVec.toInt_sub, BitVec.toInt_ofInt, BitVec.toInt_eq_toNat_bmod, BitVec.toInt_eq_toNat_bmod]
  simp

theorem mul_eq_ofNat (x y : DWord) : x * y = BitVec.ofNat 64 (x.toNat * y.toNat) := rfl

theorem mulHigh_eq (u : Bool) (x y : DWord) :
    mulHigh u x y = BitVec.ofInt 64 ((if u then (x.toNat : Int) * y.toNat else x.toInt * y.toInt) / 2 ^ 64) := by
  cases u <;> rfl

theorem shl_eq_ofNat (x : DWord) (c : Nat) : x <<< c = BitVec.ofNat 64 (x.toNat * 2 ^ c) := by
  apply BitVec.eq_of_toNat_eq
  rw [BitVec.toNat_shiftLeft, BitVec.toNat_ofNat, Nat.shiftLeft_eq]

theorem shr_eq_ofNat (x : DWord) (c : Nat) : x >>> c = BitVec.ofNat 64 (x.toNat / 2 ^ c) := by
  apply BitVec.eq_of_toNat_eq
  rw [BitVec.toNat_ushiftRight, BitVec.toNat_ofNat, Nat.shiftRight_eq_div_pow,
    Nat.mod_eq_of_lt (Nat.lt_of_le_of_lt (Nat.div_le_self _ _) x.isLt)]

theorem sra_eq_ofInt (x : DWord) (c : Nat) : x.sshiftRight c = BitVec.ofInt 64 (x.toInt / 2 ^ c) := by
  rw [BitVec.sshiftRight, Int.shiftRight_eq_div_pow]
  norm_cast

/-- A rotation by a count below the width is two shifts (R375). -/
theorem rot_eq (x : DWord) (c : Nat) (hc : c < 64) :
    x.rotateLeft c = if c = 0 then x else BitVec.ofNat 64 (x.toNat * 2 ^ c) ||| BitVec.ofNat 64 (x.toNat / 2 ^ (64 - c)) := by
  rw [BitVec.rotateLeft_def, Nat.mod_eq_of_lt hc, shl_eq_ofNat, shr_eq_ofNat]
  split
  · next h0 =>
    subst h0
    rw [Nat.div_eq_of_lt x.isLt]
    simp
  · rfl

theorem less_iff (u : Bool) (x y : DWord) :
    less u x y = true ↔ if u then x.toNat < y.toNat else x.toInt < y.toInt := by
  cases u <;> simp [less, readAs]

theorem pick_less (u : Bool) (x y a b : DWord) :
    (if less u x y then a else b) = if (if u then x.toNat < y.toNat else x.toInt < y.toInt) then a else b :=
  if_congr (less_iff u x y) rfl rfl

theorem givesScalar_sel {s : State} {h : Hdr} {d a b : Reg}
    (hr : Ready { len := 1, hdr := h, noGuard := true, rs := [a, b], rd := [d] } s) :
    GivesScalar s 1 d (if pv s h.g ^^ h.gn then rv s a else rv s b) (exec (.sel h d a b) s) := by
  rw [exec_sel]
  exact givesScalar_issue hr (by simp [Ctx.guard, pv, bne]) (soft_nil rfl)

/-- Settles O1: each function of two 64-bit values says what its rule says, and the shared shape gives it. -/
theorem scalarArithmeticResults : Obligations.ScalarArithmeticResults := by
  intro s h d a b u
  simp only [exec_add, exec_sub, exec_mul, exec_mulh, exec_and, exec_andn, exec_or, exec_xor, exec_shl, exec_shr, exec_sra, exec_rot,
    exec_min, exec_max]
  refine ⟨fun hr => ?_, fun hr => givesScalar_sel hr⟩
  have hc : (rv s b).toNat % 64 < 64 := Nat.mod_lt _ (by decide)
  exact ⟨givesScalar_binary hr (add_eq_ofNat _ _), givesScalar_binary hr (sub_eq_ofInt _ _),
    givesScalar_binary hr (mul_eq_ofNat _ _), givesScalar_binary hr (mulHigh_eq u _ _),
    givesScalar_binary hr rfl, givesScalar_binary hr rfl, givesScalar_binary hr rfl, givesScalar_binary hr rfl,
    givesScalar_binary hr (shl_eq_ofNat _ _), givesScalar_binary hr (shr_eq_ofNat _ _),
    givesScalar_binary hr (sra_eq_ofInt _ _), givesScalar_binary hr (rot_eq _ _ hc),
    givesScalar_binary hr (pick_less u _ _ _ _), givesScalar_binary hr (pick_less u _ _ _ _)⟩

/-! ## Division (R88, R334, R370) -/

/-- Truncated division is the one with the remainder below the divisor and of the dividend's sign. -/
theorem tdiv_tmod_unique {x y q r : Int} (hx : x = q * y + r) (hr : r.natAbs < y.natAbs) (hs : 0 ≤ r * x) :
    x.tdiv y = q ∧ x.tmod y = r := by
  have hy : y ≠ 0 := by rintro rfl; simp at hr
  have key : x.tmod y = r := by
    rcases Int.lt_trichotomy x 0 with hneg | rfl | hpos
    · have hr0 : r ≤ 0 := by
        by_contra hc
        exact absurd (Int.mul_neg_of_pos_of_neg (Int.not_le.1 hc) hneg) (Int.not_lt.2 hs)
      have : (-x).tmod y = -r := by
        rw [Int.tmod_eq_emod_of_nonneg (by omega), show -x = -r + y * -q by rw [hx]; ring, Int.add_mul_emod_self_left,
          ← Int.emod_abs, Int.emod_eq_of_lt (by omega) (by rw [Int.abs_eq_natAbs]; omega)]
      rw [Int.neg_tmod] at this
      omega
    · have : (y ∣ r) := ⟨-q, by linarith [hx, mul_comm q y]⟩
      have : r = 0 := Int.eq_zero_of_dvd_of_natAbs_lt_natAbs this hr
      rw [this]
      exact Int.zero_tmod _
    · have hr0 : 0 ≤ r := by
        by_contra hc
        exact absurd (Int.mul_neg_of_neg_of_pos (Int.not_le.1 hc) hpos) (Int.not_lt.2 hs)
      rw [Int.tmod_eq_emod_of_nonneg (by omega), hx, show q * y + r = r + y * q by ring, Int.add_mul_emod_self_left,
        ← Int.emod_abs, Int.emod_eq_of_lt hr0 (by rw [Int.abs_eq_natAbs]; omega)]
  refine ⟨?_, key⟩
  have h := Int.mul_tdiv_add_tmod x y
  rw [key] at h
  exact Int.eq_of_mul_eq_mul_left hy (by linarith [mul_comm q y])

theorem divide_zero (u : Bool) (x : DWord) : divide u x 0 = BitVec.allOnes 64 := if_pos rfl

theorem remainder_zero (u : Bool) (x : DWord) : remainder u x 0 = x := if_pos rfl

theorem divide_unsigned {x y : DWord} (hy : y ≠ 0) : divide true x y = BitVec.ofNat 64 (x.toNat / y.toNat) := by
  rw [divide, if_neg hy, ← BitVec.ofInt_natCast]
  rfl

theorem remainder_unsigned {x y : DWord} (hy : y ≠ 0) : remainder true x y = BitVec.ofNat 64 (x.toNat % y.toNat) := by
  rw [remainder, if_neg hy, ← BitVec.ofInt_natCast]
  rfl

theorem divide_signed {x y : DWord} {q r : Int} (hy : y ≠ 0) (hx : x.toInt = q * y.toInt + r)
    (hr : r.natAbs < y.toInt.natAbs) (hs : 0 ≤ r * x.toInt) : divide false x y = BitVec.ofInt 64 q := by
  rw [divide, if_neg hy]
  exact congrArg _ (tdiv_tmod_unique hx hr hs).1

theorem remainder_signed {x y : DWord} {q r : Int} (hy : y ≠ 0) (hx : x.toInt = q * y.toInt + r)
    (hr : r.natAbs < y.toInt.natAbs) (hs : 0 ≤ r * x.toInt) : remainder false x y = BitVec.ofInt 64 r := by
  rw [remainder, if_neg hy]
  exact congrArg _ (tdiv_tmod_unique hx hr hs).2

/-- Settles O2: the truncated quotient and remainder are determined by R88's conditions; the zero divisor and the overflow
are the function's own cases. -/
theorem divisionResults : Obligations.DivisionResults := by
  intro s h d a b hr
  simp only [exec_div, exec_rem]
  refine ⟨fun hy u => ⟨givesScalar_binary hr (hy ▸ divide_zero u _), givesScalar_binary hr (hy ▸ remainder_zero u _)⟩,
    fun hy => ⟨givesScalar_binary hr (divide_unsigned hy), givesScalar_binary hr (remainder_unsigned hy),
      fun q r hx hlt hs => ⟨givesScalar_binary hr (divide_signed hy hx hlt hs),
        givesScalar_binary hr (remainder_signed hy hx hlt hs)⟩⟩,
    fun hx hy => ⟨givesScalar_binary hr ?_, givesScalar_binary hr ?_⟩⟩
  · rw [hx, hy]; decide
  · rw [hx, hy]; decide

/-! ## Comparisons (R327, R328) -/

theorem less_eq_decide (u : Bool) (x y : DWord) :
    less u x y = decide (if u then x.toNat < y.toNat else x.toInt < y.toInt) := by
  cases u <;> simp [less, readAs]

theorem not_less_eq_decide (u : Bool) (x y : DWord) :
    (!less u y x) = decide (if u then x.toNat ≤ y.toNat else x.toInt ≤ y.toInt) := by
  cases u <;> simp [less, readAs, ← decide_not]

theorem beq_eq_decide_eq (x y : DWord) : (x == y) = decide (x = y) := rfl

theorem bne_eq_decide_ne (x y : DWord) : (x != y) = decide (x ≠ y) := by simp [bne, beq_eq_decide_eq]

/-- The predicate of each condition of CMPI (R328). -/
def cmpiMeaning (x y : DWord) : CmpiCond → Bool
  | .eq => decide (x = y)
  | .ne => decide (x ≠ y)
  | .lt => decide (x.toInt < y.toInt)
  | .le => decide (x.toInt ≤ y.toInt)
  | .gt => decide (y.toInt < x.toInt)
  | .ge => decide (y.toInt ≤ x.toInt)
  | .ltN => decide (x.toNat < y.toNat)
  | .leN => decide (x.toNat ≤ y.toNat)
  | .gtN => decide (y.toNat < x.toNat)
  | .geN => decide (y.toNat ≤ x.toNat)

theorem cmpiHolds_eq_meaning (c : CmpiCond) (x y : DWord) : cmpiHolds c x y = cmpiMeaning x y c := by
  cases c with
  | eq => rfl
  | ne => exact bne_eq_decide_ne x y
  | lt => exact less_eq_decide false x y
  | le => exact not_less_eq_decide false x y
  | gt => exact less_eq_decide false y x
  | ge => exact not_less_eq_decide false y x
  | ltN => exact less_eq_decide true x y
  | leN => exact not_less_eq_decide true x y
  | gtN => exact less_eq_decide true y x
  | geN => exact not_less_eq_decide true y x

theorem givesPred_cmpImm {s : State} {gap : BitVec 2} {a : Reg} (c : CmpiCond) (d : PredReg) (imm : BitVec 11)
    (hr : Ready { len := 1, hdr := gapHdr gap, rs := [a] } s) :
    GivesPred s d (cmpiMeaning (rv s a) (imm.signExtend 64) c) (cmpImm c gap d a imm s) :=
  givesPred_predOp hr (cmpiHolds_eq_meaning c _ _)

theorem givesPred_cmpiLong {s : State} {h : Hdr} {a : Reg} (c : CmpiCond) (d : PredReg) (lit : DWord)
    (hr : Ready { len := 3, hdr := h, rs := [a] } s) :
    GivesPred s d (cmpiMeaning (rv s a) lit c) (exec (.cmpiLong h c d a lit) s) := by
  rw [exec_cmpiLong]
  exact givesPred_predOp hr (cmpiHolds_eq_meaning c _ _)

/-- Settles O4: each condition is its predicate of the operands, read signed or unsigned. -/
theorem compareResults : Obligations.CompareResults := by
  intro s h gap d a b u imm lit
  simp only [exec_cmpEq, exec_cmpNe, exec_cmpLt, exec_cmpLe]
  refine ⟨fun hr => ⟨?_, ?_, ?_, ?_⟩, fun hr => ?_, fun hr => ?_⟩
  · exact givesPred_predOp hr (beq_eq_decide_eq _ _)
  · exact givesPred_predOp hr (bne_eq_decide_ne _ _)
  · exact givesPred_predOp hr (less_eq_decide u _ _)
  · exact givesPred_predOp hr (not_less_eq_decide u _ _)
  · have imm (c : CmpiCond) := givesPred_cmpImm c d imm hr
    exact ⟨imm .eq, imm .ne, imm .lt, imm .le, imm .gt, imm .ge, imm .ltN, imm .leN, imm .gtN, imm .geN⟩
  · have long (c : CmpiCond) := givesPred_cmpiLong c d lit hr
    exact ⟨long .eq, long .ne, long .lt, long .le, long .gt, long .ge, long .ltN, long .leN, long .gtN, long .geN⟩

/-- Settles O5: each predicate instruction is its Boolean function of the predicates read. -/
theorem predicateLogicResults : Obligations.PredicateLogicResults := by
  intro s h d a b
  simp only [exec_pand, exec_por, exec_pxor, exec_pnot, exec_pmov]
  exact ⟨fun hr => ⟨givesPred_predOp hr rfl, givesPred_predOp hr rfl, givesPred_predOp hr rfl⟩,
    fun hr => ⟨givesPred_predOp hr rfl, givesPred_predOp hr rfl⟩, rfl⟩

end Sys2Proof.Proofs
end


section
/-! PROOFS. One-source and immediate scalar instructions (R316, R326, R338, R349, R351, R362, R367, R387, R418). -/

namespace Sys2Proof.Proofs

open Sys2Proof.Machine Sys2Proof.Safety Sys2Proof.Laws

/-! ## Counts (R326, R367) -/

theorem eq_zero_of_getLsbD {x : DWord} (h : ∀ i, i < 64 → x.getLsbD i = false) : x = 0 :=
  BitVec.eq_of_getLsbD_eq (fun i hi => by simp [h i hi])

/-- The zero bits above the highest one, counted from its place. -/
theorem leadingZeros_eq {x : DWord} {n : Nat} (hn : n ≤ 64) (hz : ∀ i, 64 - n ≤ i → i < 64 → x.getLsbD i = false)
    (ho : n < 64 → x.getLsbD (63 - n) = true) : leadingZeros x = BitVec.ofNat 64 n := by
  unfold leadingZeros
  rcases Nat.lt_or_eq_of_le hn with hlt | rfl
  · have hge : 2 ^ (63 - n) ≤ x.toNat := Nat.ge_two_pow_of_testBit (ho hlt)
    have hup : x.toNat < 2 ^ (63 - n + 1) := Nat.lt_pow_two_of_testBit _ (fun i hi => by
      rcases Nat.lt_or_ge i 64 with hi' | hi'
      · exact hz i (by omega) hi'
      · exact BitVec.getLsbD_of_ge x i hi')
    have hpos : x.toNat ≠ 0 := by have := Nat.two_pow_pos (63 - n); omega
    have hlog : x.toNat.log2 = 63 - n := (Nat.log2_eq_iff hpos).2 ⟨hge, hup⟩
    rw [if_neg (fun h => hpos (by rw [h]; rfl)), hlog, Nat.sub_sub_self (by omega)]
  · exact if_pos (eq_zero_of_getLsbD (fun i hi => hz i (by omega) hi))

/-- The zero bits below the lowest one, found from the lowest bit on. -/
theorem trailingZeros_eq {x : DWord} {n : Nat} (hn : n ≤ 64) (hz : ∀ i, i < n → x.getLsbD i = false)
    (ho : n < 64 → x.getLsbD n = true) : trailingZeros x = BitVec.ofNat 64 n := by
  unfold trailingZeros
  rcases Nat.lt_or_eq_of_le hn with hlt | rfl
  · rw [List.find?_range_eq_some.2 ⟨ho hlt, List.mem_range.2 hlt, fun j hj => by simp [hz j hj]⟩, Option.getD_some]
  · rw [List.find?_range_eq_none.2 (fun i hi => by simp [hz i hi]), Option.getD_none]

theorem popCount_eq (x : DWord) :
    popCount x = BitVec.ofNat 64 ((List.range 64).filter (fun i => x.getLsbD i)).length := by
  rw [popCount, List.countP_eq_length_filter]

/-! ## Fields (R338, R387, R418) -/

/-- The low bits with the sign of their highest. -/
theorem signExt_eq {w : Nat} (hw : 0 < w) (x : DWord) : signExt w x = (x.setWidth w).signExtend 64 := by
  have hp : 2 ^ w = 2 * 2 ^ (w - 1) := by rw [← Nat.pow_succ']; congr 1; omega
  have hlt : x.toNat % 2 ^ w < 2 ^ w := Nat.mod_lt _ (Nat.two_pow_pos w)
  rw [signExt, BitVec.signExtend, BitVec.toInt_eq_toNat_cond, BitVec.toNat_setWidth]
  congr 1
  by_cases hs : 2 ^ (w - 1) ≤ x.toNat % 2 ^ w
  · rw [if_pos hs, if_neg (by omega)]
    norm_cast
  · rw [if_neg hs, if_pos (by omega)]

theorem zeroExt_eq (w : Nat) (x : DWord) : zeroExt w x = (x.setWidth w).setWidth 64 := by
  apply BitVec.eq_of_toNat_eq
  rw [zeroExt, BitVec.toNat_ofNat, BitVec.toNat_setWidth, BitVec.toNat_setWidth]

/-- Only the low bits matter to a sign extension. -/
theorem signExt_zeroExt {w : Nat} (hw : w ≤ 64) (x : DWord) : signExt w (zeroExt w x) = signExt w x := by
  have hle : 2 ^ w ≤ 2 ^ 64 := Nat.pow_le_pow_right (by decide) hw
  have hlt : x.toNat % 2 ^ w < 2 ^ w := Nat.mod_lt _ (Nat.two_pow_pos w)
  have hz : (zeroExt w x).toNat = x.toNat % 2 ^ w := by
    rw [zeroExt, BitVec.toNat_ofNat, Nat.mod_eq_of_lt (Nat.lt_of_lt_of_le hlt hle)]
  simp only [signExt, hz, Nat.mod_mod]

theorem extField_signed {pos w : Nat} (hw : 0 < w) (hw' : w ≤ 64) (x : DWord) :
    extField true pos w x = ((x >>> pos).setWidth w).signExtend 64 := by
  rw [extField, if_pos rfl, signExt_zeroExt hw', signExt_eq hw]

theorem extField_unsigned (pos w : Nat) (x : DWord) :
    extField false pos w x = ((x >>> pos).setWidth w).setWidth 64 := zeroExt_eq _ _

/-- A run of ones, `w` from bit `pos` on. -/
theorem getLsbD_mask {pos w i : Nat} (hi : i < 64) :
    (BitVec.ofNat 64 ((2 ^ w - 1) * 2 ^ pos)).getLsbD i = decide (pos ≤ i ∧ i < pos + w) := by
  rw [BitVec.getLsbD_ofNat, Nat.testBit_mul_two_pow, Nat.testBit_two_pow_sub_one]
  by_cases h : pos ≤ i
  · simp only [hi, h, decide_true, Bool.true_and, true_and, decide_eq_decide]
    omega
  · simp [h]

/-- INS keeps the old bits outside its field and takes the source's low bits inside. -/
theorem insField_eq {pos w : Nat} {old x v : DWord} (hv : ∀ i, i < 64 →
    v.getLsbD i = if pos ≤ i ∧ i < pos + w then x.getLsbD (i - pos) else old.getLsbD i) : insField pos w old x = v := by
  apply BitVec.eq_of_getLsbD_eq
  intro i hi
  rw [hv i hi, insField, BitVec.getLsbD_or, BitVec.getLsbD_and, BitVec.getLsbD_and, BitVec.getLsbD_not, getLsbD_mask hi,
    BitVec.getLsbD_shiftLeft]
  by_cases hin : pos ≤ i ∧ i < pos + w
  · simp [hin, hi, Nat.not_lt.2 hin.1]
  · simp [hin, hi]

/-! ## Sums with literals (R316, R349, R351) -/

theorem signExtend_eq_ofInt {w : Nat} (x : BitVec w) : x.signExtend 64 = BitVec.ofInt 64 x.toInt := rfl

theorem eq_ofInt_toNat (x : DWord) : x = BitVec.ofInt 64 x.toNat := by
  rw [BitVec.ofInt_natCast, BitVec.ofNat_toNat, BitVec.setWidth_eq]

theorem add_signExtend_eq_ofInt {w : Nat} (x : DWord) (imm : BitVec w) :
    x + imm.signExtend 64 = BitVec.ofInt 64 (x.toNat + imm.toInt) := by
  rw [BitVec.ofInt_add, ← eq_ofInt_toNat]
  rfl

/-- LEA's sum before its displacement. -/
theorem scaled_sum_eq_ofNat (x y : DWord) (n : Nat) : x + y <<< n = BitVec.ofNat 64 (x.toNat + y.toNat * 2 ^ n) := by
  rw [shl_eq_ofNat, BitVec.ofNat_add, BitVec.ofNat_toNat, BitVec.setWidth_eq]

theorem lea_eq_ofInt {w : Nat} (x y : DWord) (n : Nat) (disp : BitVec w) :
    x + y <<< n + disp.signExtend 64 = BitVec.ofInt 64 (x.toNat + y.toNat * 2 ^ n + disp.toInt) := by
  rw [scaled_sum_eq_ofNat, BitVec.ofInt_add, ← BitVec.ofInt_natCast]
  norm_cast

theorem leaXl_eq_ofNat (x y : DWord) (n : Nat) (lit : DWord) :
    x + y <<< n + lit = BitVec.ofNat 64 (x.toNat + y.toNat * 2 ^ n + lit.toNat) := by
  rw [scaled_sum_eq_ofNat, BitVec.ofNat_add _ lit.toNat, BitVec.ofNat_toNat, BitVec.setWidth_eq]

theorem widthCode_bits_pos (w : WidthCode) : 0 < WidthCode.bits w := by cases w <;> decide

/-- Settles O3: each function of one 64-bit value, or of one and a literal, says what its rule says. -/
theorem scalarUnaryResults : Obligations.ScalarUnaryResults := by
  intro s h gap d a b w imm lit tier pos wm1 sh disp
  simp only [exec_clz, exec_ctz, exec_popc, exec_mov, exec_sxt, exec_zxt, exec_addi, exec_addiLong, exec_li, exec_liLong, exec_ext,
    exec_ins, exec_lea, exec_leaXl]
  have hwm : wm1.toNat + 1 ≤ 64 := wm1.isLt
  refine ⟨fun hr => ⟨?_, ?_, ?_, ?_, ?_, ?_⟩, fun hr => ?_, fun hr => ?_, fun hr => ?_, fun hr => ?_, fun hr _ => ⟨?_, ?_⟩,
    fun hr _ v hv => ?_, fun hr => ?_, fun hr => ?_⟩
  · exact fun n hn hz ho => givesScalar_unary hr (leadingZeros_eq hn hz ho)
  · exact fun n hn hz ho => givesScalar_unary hr (trailingZeros_eq hn hz ho)
  · exact givesScalar_unary hr (popCount_eq _)
  · exact givesScalar_unary hr rfl
  · exact givesScalar_unary hr (signExt_eq (widthCode_bits_pos w) _)
  · exact givesScalar_unary hr (zeroExt_eq _ _)
  · exact givesScalar_scalarOp hr (add_signExtend_eq_ofInt _ _)
  · exact givesScalar_scalarOp hr (add_eq_ofNat _ _)
  · exact givesScalar_scalarOp hr (signExtend_eq_ofInt _)
  · exact givesScalar_scalarOp hr rfl
  · exact givesScalar_scalarOp hr (extField_signed (by omega) hwm _)
  · exact givesScalar_scalarOp hr (extField_unsigned _ _ _)
  · refine givesScalar_scalarOp hr (insField_eq (fun i hi => ?_))
    exact (hv i hi).trans (if_congr (and_congr_right fun _ => Nat.lt_succ_iff.symm) rfl rfl)
  · exact givesScalar_scalarOp hr (lea_eq_ofInt _ _ _ _)
  · exact givesScalar_scalarOp hr (leaXl_eq_ofNat _ _ _ _)

end Sys2Proof.Proofs
end


section
/-! PROOFS. Transfers (R37, R82, R323, R324, R346): a target that is an instruction start is reached, another one raises
BADTARGET, and a follower of a slaved phase goes where its leader went. -/

namespace Sys2Proof.Proofs

open Sys2Proof.Machine Sys2Proof.Safety Sys2Proof.Laws

/-! ## Followers of a slaved phase (R37) -/

section Follower

variable {s v : State} {f : Fwd} {r : List Fwd}

/-- Being a follower depends on the phase, the handling and the network alone. -/
theorem follower_congr {t : State} (h : Follower s f r) (hc : t.cur = s.cur)
    (hp : (t.core s.cur.1).ctl.phase = (s.core s.cur.1).ctl.phase)
    (hh : (t.core s.cur.1).ctl.handling = (s.core s.cur.1).ctl.handling)
    (hf : (t.core s.cur.1).ctl.fifo = (s.core s.cur.1).ctl.fifo) : Follower t f r := by
  obtain ⟨h0, hn, hq, p, hs, hl, hk⟩ := h
  rw [← hc] at hp hh hf h0 hn hq hs
  exact ⟨h0, hh.trans hn, hf.trans hq, p, hp.trans hs, hl, hk⟩

theorem follower_touch (h : Follower s f r) (o : Option GatedUnit) (a b d : Nat) :
    Follower (s.modCtl s.cur.1 (fun c => c.touch o a b d)) f r := by
  obtain ⟨hp, hh, hf⟩ := touch_phase (s.core s.cur.1).ctl o a b d
  exact follower_congr h rfl (by simpa [State.modCtl] using hp) (by simpa [State.modCtl] using hh)
    (by simpa [State.modCtl] using hf)

theorem leaderTarget_of_follower (h : Follower s f r) : leaderTarget s = some f.next.toNat := by
  obtain ⟨h0, hn, hq, p, hs, hl, hk⟩ := h
  simp [leaderTarget, hs, hq, inStep, Core.timed, h0, hn, hl, hk]

theorem checkTarget_of_follower (h : Follower s f r) (z : Int) : checkTarget s z = .ok f.next.toNat := by
  simp [checkTarget, leaderTarget_of_follower h]

/-- What follows a leader takes the head of the network and its program counter. -/
theorem follow_eq_of_follower {u : State} {q : Nat × Nat} (h0 : q.2 = 0) (hf : (u.core q.1).ctl.fifo = f :: r)
    (hp : ∃ p, (u.core q.1).ctl.phase = some p ∧ p.slaved = true ∧ p.skew ≠ 0) :
    u.follow q = (u.modCtl q.1 (fun c => { c with fifo := r })).modCtx q (fun x => { x with pc := f.next }) := by
  obtain ⟨p, hp, hl, hk⟩ := hp
  simp [State.follow, hp, hf, h0, hl, hk]

theorem yieldTo_c0 (u : State) (q : Nat × Nat) (occ : Nat) (h0 : q.2 = 0) : u.yieldTo q occ = u := by
  simp [State.yieldTo, h0]

/-- Where a follower stands after its instruction, and what is left on its network. -/
theorem go_follower (h : Follower v f r) (len : Nat) (dest : Option (Nat × BitVec 2)) (taken : Bool) (pc : Word) (g : Bool)
    (occ : Nat) (y : Bool) :
    let w := if y then ((((v.advance v.cur len dest taken).forward v.cur pc g).follow v.cur).pace v.cur occ).yieldTo v.cur occ
        else (((v.advance v.cur len dest taken).forward v.cur pc g).follow v.cur).pace v.cur occ
    (w.ctx v.cur).pc = f.next ∧ (w.core v.cur.1).ctl.fifo = r := by
  obtain ⟨h0, _, hq, p, hs, hl, hk⟩ := h
  have hctl : (((v.advance v.cur len dest taken).forward v.cur pc g).core v.cur.1).ctl = (v.core v.cur.1).ctl := by
    rw [forward_core, advance_ctl]
  rw [yieldTo_c0 _ _ _ h0, ite_self, follow_eq_of_follower h0 (by rw [hctl, hq]) ⟨p, by rw [hctl, hs], hl, hk⟩]
  constructor
  · rw [State.pace, modCtl_ctx, state_ctx_modCtx_same]
  · simp [State.pace, State.modCtl, State.modCtx, Core.modCtx, Core.setCtx]

theorem retire_jump_follower (n : Need) (h : Follower v f r) (t : Nat) (kind : BitVec 2) :
    ((retire n ⟨v, .jump t kind⟩ true).ctx v.cur).pc = f.next
      ∧ ((retire n ⟨v, .jump t kind⟩ true).core v.cur.1).ctl.fifo = r :=
  go_follower (follower_touch h _ _ _ _) _ _ _ _ _ _ _

end Follower

/-! ## Plain transfers -/

section Transfer

variable {s : State} {len : Nat} {h : Hdr} {noGuard : Bool} {rs : List Reg} {kind : BitVec 2} {t : State → Int} {v : Nat}

theorem transfers_transfer (hr : Ready { len := len, hdr := h, noGuard := noGuard, transfer := true, endKind := kind, rs := rs, occ := 3 } s)
    (hv : (v : Int) = t s) (hs : ownPath s ∧ s.isStart s.cur.1 v = true) :
    Transfers s v (transfer len h noGuard rs kind t s) :=
  transfers_issue (kind := kind) hr (by rw [checkTarget_ok hs.1 hv hs.2]; rfl) (soft_nil rfl)

theorem traps_transfer (hr : Ready { len := len, hdr := h, noGuard := noGuard, transfer := true, endKind := kind, rs := rs, occ := 3 } s)
    (hv : (v : Int) = t s) (hs : ownPath s ∧ s.isStart s.cur.1 v = false) :
    Traps s ⟨.badtarget, 0, BitVec.ofNat 64 v, false⟩ (transfer len h noGuard rs kind t s) :=
  issue_trap hr (by rw [checkTarget_bad hs.1 hv hs.2]; rfl)

theorem led_transfer {f : Fwd} {r : List Fwd} (hf : Follower s f r)
    (hr : Ready { len := len, hdr := h, noGuard := noGuard, transfer := true, endKind := kind, rs := rs, occ := 3 } s) :
    Answers (transfer len h noGuard rs kind t s)
      (fun u => Frame {} s u ∧ (u.ctx s.cur).pc = f.next ∧ (u.core s.cur.1).ctl.fifo = r) := by
  refine ⟨_, issue_clean hr (d := ⟨s, .jump f.next.toNat kind⟩) (by rw [checkTarget_of_follower hf]; rfl) (soft_nil rfl), ?_⟩
  exact ⟨Frame_retire _ s _ true (by simp), retire_jump_follower _ hf _ _⟩

end Transfer

/-- Settles O6: BR, JMP and JMPI are the one plain transfer with three targets. -/
theorem branchesReachTheirTarget : Obligations.BranchesReachTheirTarget := by
  intro s h gap y a disp lit v f r
  simp only [exec_br, exec_brLong, exec_jmp, exec_jmpLong, exec_jmpi]
  refine ⟨fun hr hv => ⟨transfers_transfer hr hv, traps_transfer hr hv⟩,
    fun hr hv => ⟨transfers_transfer hr hv, traps_transfer hr hv⟩,
    fun hr hv => ⟨transfers_transfer hr hv, traps_transfer hr hv⟩,
    fun hr hv => ⟨transfers_transfer hr hv, traps_transfer hr hv⟩,
    fun hr hv => ⟨transfers_transfer hr (congrArg _ hv), traps_transfer hr (congrArg _ hv)⟩,
    fun hf => ⟨led_transfer hf, led_transfer hf, led_transfer hf, led_transfer hf, led_transfer hf⟩⟩

end Sys2Proof.Proofs
end


section
/-! PROOFS. Calls, returns and the register window (R65 to R67, R325, R335, R350, R374). -/

namespace Sys2Proof.Proofs

open Sys2Proof.Machine Sys2Proof.Safety Sys2Proof.Laws

/-! ## What results leave alone -/

/-- A result that is written changes no control. -/
theorem ctl_applyAct (t : Nat) (c : Core) (i : Nat) (a : Act) : (applyAct t c i a).ctl = c.ctl := by
  cases a <;> simp only [applyAct, coreModCtx_ctl, storeN_ctl]
  case lanes st sub =>
    exact fold_keeps (fun c' : Core => c'.ctl = c.ctl) _ _ _ rfl (fun _ _ h => h)

theorem ctl_deliver (c : Core) (t i now lat : Nat) (a : Act) : (c.deliver t i now lat a).ctl = c.ctl := by
  rcases Nat.lt_or_ge 1 lat with h | h
  · obtain ⟨l, hl⟩ := deliver_late c t i now lat a h
    rw [hl]
  · obtain ⟨l, hl⟩ := deliver_once c t i now lat a h
    rw [hl, ctl_applyAct]

theorem ctl_deliverAll (c : Core) (t i now lat : Nat) (as_ : List Act) : (c.deliverAll t i now lat as_).ctl = c.ctl :=
  fold_keeps (fun c' : Core => c'.ctl = c.ctl) _ _ _ rfl (fun _ _ h => (ctl_deliver _ _ _ _ _ _).trans h)

theorem ctl_state_deliver (s : State) (q : Nat × Nat) (lat : Nat) (as_ : List Act) (k : Nat) :
    ((s.deliver q lat as_).core k).ctl = (s.core k).ctl := by
  rw [State.deliver, core_modCore]
  split
  · next h => rw [ctl_deliverAll, h]
  · rfl

theorem ctl_state_modCtx (s : State) (q : Nat × Nat) (f : Ctx → Ctx) (k : Nat) :
    ((s.modCtx q f).core k).ctl = (s.core k).ctl := by
  rw [State.modCtx, core_modCore]
  split
  · next h => rw [coreModCtx_ctl, h]
  · rfl

theorem ownPath_congr {s t : State} (h : ownPath s) (hc : t.cur = s.cur)
    (hl : (t.core s.cur.1).ctl = (s.core s.cur.1).ctl) : ownPath t := by
  intro h0
  rw [hc] at h0 ⊢
  rw [hl]
  exact h h0

/-! ## Calls -/

/-- WBASE of the callee (R66). -/
def calleeBase (s : State) : Nat := (s.ctx s.cur).wbase.toNat + (s.ctx s.cur).frame - 8

/-- The link word of a call of `len` words (R66). -/
def linkWord (s : State) (len : Nat) : DWord :=
  BitVec.ofNat 64 ((s.ctx s.cur).frame * 2 ^ 32 + (pcv s + 4 * len) % 2 ^ 32)

/-- The callee's window: the link word in its w7, then WBASE and FRAME (R66). -/
def openWindow (s : State) (len : Nat) : State :=
  (s.deliver s.cur 1 [.entry ((calleeBase s + 7) % Config.stackSize s.tier) (linkWord s len)]).modCtx s.cur
    (fun x => { x with wbase := BitVec.ofNat 32 (calleeBase s), frame := 24 })

section Call

variable {s : State} {len : Nat} {z : Int}

theorem callTo_past_range (h : 0xFFFFFFE7 < calleeBase s) : callTo len s z = .error ⟨.wspill, 1, 0, false⟩ := by
  unfold calleeBase at h
  simp only [callTo, h, if_true]
  rfl

theorem callTo_spill (h : calleeBase s ≤ 0xFFFFFFE7)
    (hs : (s.ctx s.cur).vlo.toNat + Config.stackSize s.tier < calleeBase s + 24) :
    callTo len s z = .error ⟨.wspill, 0, 0, false⟩ := by
  unfold calleeBase at h hs
  have h1 : ¬ 0xFFFFFFE7 < (s.ctx s.cur).wbase.toNat + (s.ctx s.cur).frame - 8 := by omega
  have h2 : (Config.stackSize s.tier : Int)
      < (((s.ctx s.cur).wbase.toNat + (s.ctx s.cur).frame - 8 : Nat) : Int) + 24 - (s.ctx s.cur).vlo.toNat := by omega
  simp only [callTo, h1, h2, if_true, if_false]
  rfl

/-- A call that fits goes on to its target's check. -/
theorem callTo_fits (h : callFits s) : callTo len s z = (checkTarget s z).bind (fun t => .ok ⟨openWindow s len, .jump t 2⟩) := by
  obtain ⟨h1, h2⟩ := h
  have h1' : ¬ 0xFFFFFFE7 < (s.ctx s.cur).wbase.toNat + (s.ctx s.cur).frame - 8 := by omega
  have h2' : ¬ (Config.stackSize s.tier : Int)
      < (((s.ctx s.cur).wbase.toNat + (s.ctx s.cur).frame - 8 : Nat) : Int) + 24 - (s.ctx s.cur).vlo.toNat := by omega
  simp only [callTo, h1', h2', if_false]
  rfl

/-- One stack entry of the issuing context written at once. -/
theorem deliver_entry (s : State) (e : Nat) (v : DWord) : Frame windowWrites s (s.deliver s.cur 1 [.entry e v])
    ∧ (s.deliver s.cur 1 [.entry e v]).ctx s.cur = { s.ctx s.cur with stack := sset 0 (s.ctx s.cur).stack e v } :=
  Frame_now (w := windowWrites) (fun _ => rfl) s 1 (.entry e v) (fun x => { x with stack := sset 0 x.stack e v })
    (Nat.le_refl 1) (fun _ => rfl) (fun _ => rfl)

theorem openWindow_frame (s : State) (len : Nat) : Frame windowWrites s (openWindow s len) :=
  Frame_trans (deliver_entry s _ _).1 (Frame_ctx (s := State.deliver s s.cur 1 _)
    (fun x => { x with wbase := BitVec.ofNat 32 (calleeBase s), frame := 24 }) (fun _ => rfl))

theorem openWindow_window (s : State) (len : Nat) : ((openWindow s len).ctx s.cur).wbase = BitVec.ofNat 32 (calleeBase s)
    ∧ ((openWindow s len).ctx s.cur).frame = 24
    ∧ ((openWindow s len).ctx s.cur).stack
      = sset 0 (s.ctx s.cur).stack ((calleeBase s + 7) % Config.stackSize s.tier) (linkWord s len) := by
  rw [openWindow, state_ctx_modCtx_same, (deliver_entry s _ _).2]
  exact ⟨rfl, rfl, rfl⟩

theorem openWindow_ctl (s : State) (len k : Nat) : ((openWindow s len).core k).ctl = (s.core k).ctl := by
  rw [openWindow, ctl_state_modCtx, ctl_state_deliver]

/-- The link register of the callee holds the link word. -/
theorem rv_openWindow_link (h : calleeBase s ≤ 0xFFFFFFE7) : rv (openWindow s len) linkReg = linkWord s len := by
  have hb : (BitVec.ofNat 32 (calleeBase s)).toNat = calleeBase s := by
    rw [BitVec.toNat_ofNat, Nat.mod_eq_of_lt (by omega)]
  show ((openWindow s len).ctx s.cur).reg s.tier linkReg = _
  obtain ⟨hw, _, hs⟩ := openWindow_window s len
  simp [Ctx.reg, entryOf, linkReg, hw, hs, hb]

/-- A frame's context is the same but for its place: the window with it. -/
theorem window_of_frame {t u : State} (h : Frame {} t u) : (u.ctx t.cur).wbase = (t.ctx t.cur).wbase
    ∧ (u.ctx t.cur).frame = (t.ctx t.cur).frame ∧ (u.ctx t.cur).stack = (t.ctx t.cur).stack := by
  have hx : placeless (u.ctx t.cur) = placeless (t.ctx t.cur) := h.context
  injection hx with _ _ hs hw hf
  exact ⟨hw, hf, hs⟩

theorem calls_issue {n : Need} {body : State → Except Trap Done} {v : Nat} (hr : Ready n s) (hn : n.reading = [])
    (hb : body s = callTo len s z) (hv : (v : Int) = z) (hfit : callFits s) (ho : ownPath s)
    (hs : s.isStart s.cur.1 v = true) : Calls s len v (issue n body s) := by
  have hbody : body s = .ok ⟨openWindow s len, .jump v 2⟩ := by
    rw [hb, callTo_fits hfit, checkTarget_ok ho hv hs]
    rfl
  have hfr := Frame_retire { n with unit := idleUnit n s } (openWindow s len) (.jump v 2) true (by simp)
  obtain ⟨hw, hf, hst⟩ := window_of_frame hfr
  obtain ⟨hw', hf', hst'⟩ := openWindow_window s len
  refine ⟨_, issue_clean hr hbody (soft_nil hn), Frame_trans (openWindow_frame s len) (Frame_weaken hfr), fun _ => ?_,
    hw.trans hw', hf.trans hf', ?_, fun e he => ?_⟩
  · exact retire_jump_pc _ (openWindow s len) v 2 (ownPath_congr ho rfl (openWindow_ctl s len _))
  · rw [rv_frame hfr, rv_openWindow_link hfit.1]
    rfl
  · exact (congrArg (sget 0 · e) (hst.trans hst')).trans (sget_sset_other _ _ _ (Ne.symm he))

theorem led_call {n : Need} {body : State → Except Trap Done} {f : Fwd} {r : List Fwd} (hr : Ready n s)
    (hn : n.reading = []) (hb : body s = callTo len s z) (hfit : callFits s) (hf : Follower s f r) :
    Answers (issue n body s) (fun t => Frame windowWrites s t ∧ (t.ctx s.cur).pc = f.next
      ∧ (t.ctx s.cur).wbase = BitVec.ofNat 32 (calleeBase s) ∧ (t.ctx s.cur).frame = 24) := by
  have hbody : body s = .ok ⟨openWindow s len, .jump f.next.toNat 2⟩ := by
    rw [hb, callTo_fits hfit, checkTarget_of_follower hf]
    rfl
  have hfr := Frame_retire { n with unit := idleUnit n s } (openWindow s len) (.jump f.next.toNat 2) true (by simp)
  obtain ⟨hw, hfm, _⟩ := window_of_frame hfr
  obtain ⟨hw', hfm', _⟩ := openWindow_window s len
  have hl := openWindow_ctl s len s.cur.1
  have hf' : Follower (openWindow s len) f r := follower_congr hf rfl (by rw [hl]) (by rw [hl]) (by rw [hl])
  exact ⟨_, issue_clean hr hbody (soft_nil hn), Frame_trans (openWindow_frame s len) (Frame_weaken hfr),
    (retire_jump_follower _ hf' _ _).1, hw.trans hw', hfm.trans hfm'⟩

end Call

/-- Settles O7: the spill checks come first, then the target's, then the window opens. -/
theorem callsOpenAWindow : Obligations.CallsOpenAWindow := by
  intro s h a disp lit v f r
  simp only [exec_call, exec_callLong, exec_calli]
  have cases_ {n : Need} {body : State → Except Trap Done} (len : Nat) (z : Int) (hr : Ready n s) (hn : n.reading = [])
      (hb : body s = callTo len s z) (hv : (v : Int) = z) :=
    And.intro (fun h => issue_trap hr (hb.trans (callTo_past_range h)) : 0xFFFFFFE7 < calleeBase s → Traps s _ (issue n body s))
      (And.intro (fun h hs => issue_trap hr (hb.trans (callTo_spill h hs)) :
          calleeBase s ≤ 0xFFFFFFE7 → _ → Traps s _ (issue n body s))
        (And.intro (fun hfit ho hs => issue_trap hr (by rw [hb, callTo_fits hfit, checkTarget_bad ho hv hs]; rfl) :
            callFits s → ownPath s → s.isStart s.cur.1 v = false → Traps s ⟨.badtarget, 0, BitVec.ofNat 64 v, false⟩ (issue n body s))
          (And.intro (calls_issue hr hn hb hv) (led_call (f := f) (r := r) hr hn hb))))
  exact ⟨fun hr hv => cases_ 1 _ hr rfl rfl hv, fun hr hv => cases_ 3 _ hr rfl rfl hv,
    fun hr hv => cases_ 1 _ hr rfl rfl (congrArg _ hv)⟩

end Sys2Proof.Proofs
end


section
/-! PROOFS. Returns, ENTER and LEAVE, NOP, YIELD and HALT (R24, R25, R66, R335, R344, R350, R364, R374, R417). -/

namespace Sys2Proof.Proofs

open Sys2Proof.Machine Sys2Proof.Safety Sys2Proof.Laws

/-! ## Returns (R66, R374) -/

/-- The caller's window (R66). -/
def closeWindow (s : State) (fc : Nat) : State :=
  s.modCtx s.cur (fun x => { x with wbase := BitVec.ofNat 32 (x.wbase.toNat + 8 - fc), frame := fc })

theorem frameOk_iff (n : Nat) : frameOk n = true ↔ n ∈ [8, 12, 16, 20, 24] := by
  simp [frameOk, or_assoc]

section Return

variable {s : State}

/-- FRAME of the caller and the return address, as the link word holds them. -/
theorem link_fields (s : State) : nbits (rv s linkReg).toNat 36 32 = (rv s linkReg).toNat / 2 ^ 32 % 32
    ∧ nbits (rv s linkReg).toNat 63 37 = (rv s linkReg).toNat / 2 ^ 37
    ∧ nbits (rv s linkReg).toNat 31 0 = (rv s linkReg).toNat % 2 ^ 32 := by
  have h := (rv s linkReg).isLt
  simp only [nbits]
  omega

/-- Bits of a link word that R66 does not allow. -/
theorem returnFrom_illegal (h : ¬ ((rv s linkReg).toNat / 2 ^ 32 % 32 ∈ [8, 12, 16, 20, 24] ∧ (rv s linkReg).toNat / 2 ^ 37 = 0)) :
    returnFrom s = .error (.of .illop) := by
  obtain ⟨h1, h2, _⟩ := link_fields s
  have hc : (!frameOk (nbits (rv s linkReg).toNat 36 32) || decide (nbits (rv s linkReg).toNat 63 37 ≠ 0)) = true := by
    rw [h1, h2, Bool.or_eq_true, Bool.not_eq_true', ← Bool.not_eq_true, frameOk_iff, decide_eq_true_iff]
    tauto
  simp only [returnFrom]
  rw [if_pos (by simpa using hc)]
  rfl

/-- A return whose link word is good goes on to the check of the window below. -/
theorem returnFrom_good {fc r : Nat} (hfc : fc = (rv s linkReg).toNat / 2 ^ 32 % 32) (hr : r = (rv s linkReg).toNat % 2 ^ 32)
    (h : fc ∈ [8, 12, 16, 20, 24]) (hz : (rv s linkReg).toNat / 2 ^ 37 = 0) :
    returnFrom s = if (s.ctx s.cur).wbase.toNat + 8 < (s.ctx s.cur).vlo.toNat + fc then .error (.of .wfill)
      else match checkTarget s (behindCall s r) with
        | .error _ => .error (.at_ .badtarget r)
        | .ok t => .ok ⟨closeWindow s fc, .jump t 2⟩ := by
  obtain ⟨h1, h2, h3⟩ := link_fields s
  rw [← hfc] at h1
  rw [← hr] at h3
  rw [hz] at h2
  have hc : frameOk fc = true := (frameOk_iff fc).2 h
  simp only [returnFrom, h1, h2, h3, hc]
  by_cases hw : (s.ctx s.cur).wbase.toNat + 8 < (s.ctx s.cur).vlo.toNat + fc
  · simp only [hw, if_true]
    rfl
  · have hw' : ¬ (s.ctx s.cur).wbase.toNat + 8 < fc := by omega
    simp only [hw, hw', if_false]
    cases checkTarget s (behindCall s r) <;> rfl

theorem closeWindow_frame (s : State) (fc : Nat) :
    Frame { ctx := fun x => { x with wbase := 0, frame := 0 } } s (closeWindow s fc) :=
  Frame_ctx _ (fun _ => rfl)

theorem closeWindow_window (s : State) (fc : Nat) :
    ((closeWindow s fc).ctx s.cur).wbase = BitVec.ofNat 32 ((s.ctx s.cur).wbase.toNat + 8 - fc)
      ∧ ((closeWindow s fc).ctx s.cur).frame = fc := by
  rw [closeWindow, state_ctx_modCtx_same]
  exact ⟨rfl, rfl⟩

theorem closeWindow_ctl (s : State) (fc k : Nat) : ((closeWindow s fc).core k).ctl = (s.core k).ctl := ctl_state_modCtx _ _ _ _

/-- What a return leaves, whatever it needs at issue and wherever it goes. -/
theorem retire_closeWindow (n : Need) (s : State) (fc t : Nat) :
    let u := retire n ⟨closeWindow s fc, .jump t 2⟩ true
    Frame { ctx := fun x => { x with wbase := 0, frame := 0 } } s u
      ∧ (u.ctx s.cur).wbase = BitVec.ofNat 32 ((s.ctx s.cur).wbase.toNat + 8 - fc) ∧ (u.ctx s.cur).frame = fc := by
  have hf := Frame_retire n (closeWindow s fc) (.jump t 2) true (by simp)
  obtain ⟨hb, hfr⟩ := closeWindow_window s fc
  obtain ⟨hw1, hw2, _⟩ := window_of_frame hf
  exact ⟨Frame_trans (closeWindow_frame s fc) (Frame_weaken hf), hw1.trans hb, hw2.trans hfr⟩

theorem not_ownPath_of_follower {f : Fwd} {r : List Fwd} (h : Follower s f r) : ¬ ownPath s := by
  obtain ⟨h0, _, hq, _⟩ := h
  intro ho
  rw [ho h0] at hq
  cases hq

end Return

/-- Settles O8: the link word, the window below and the target are checked in this order, then the window closes. -/
theorem retRestoresTheWindow : Obligations.RetRestoresTheWindow := by
  intro s gap y f q hr
  simp only [exec_ret]
  refine ⟨fun hg => issue_trap hr (returnFrom_illegal hg), fun hg hw => issue_trap hr ?_, fun hg hw ho hs => issue_trap hr ?_,
    fun hg hw hcase => ?_⟩
  · rw [returnFrom_good rfl rfl hg.1 hg.2, if_pos hw]
  · rw [returnFrom_good rfl rfl hg.1 hg.2, if_neg (Nat.not_lt.2 hw), checkTarget_bad ho rfl hs]
  · have hbody (t : Nat) (ht : checkTarget s (behindCall s ((rv s linkReg).toNat % 2 ^ 32)) = .ok t) :
        returnFrom s = .ok ⟨closeWindow s ((rv s linkReg).toNat / 2 ^ 32 % 32), .jump t 2⟩ := by
      rw [returnFrom_good rfl rfl hg.1 hg.2, if_neg (Nat.not_lt.2 hw), ht]
    generalize (rv s linkReg).toNat / 2 ^ 32 % 32 = fc at hbody ⊢
    have hl := closeWindow_ctl s fc s.cur.1
    rcases hcase with ⟨ho, hs⟩ | hf
    · refine ⟨_, issue_clean hr (hbody _ (checkTarget_ok ho rfl hs)) (soft_nil rfl), ?_⟩
      obtain ⟨h1, h2, h3⟩ := retire_closeWindow _ s fc (behindCall s ((rv s linkReg).toNat % 2 ^ 32))
      exact ⟨h1, fun _ => retire_jump_pc _ (closeWindow s fc) _ 2 (ownPath_congr ho rfl hl),
        fun hf => absurd ho (not_ownPath_of_follower hf), h2, h3⟩
    · refine ⟨_, issue_clean hr (hbody _ (checkTarget_of_follower hf _)) (soft_nil rfl), ?_⟩
      obtain ⟨h1, h2, h3⟩ := retire_closeWindow _ s fc f.next.toNat
      have hf' : Follower (closeWindow s fc) f q := follower_congr hf rfl (by rw [hl]) (by rw [hl]) (by rw [hl])
      exact ⟨h1, fun ho => absurd ho (not_ownPath_of_follower hf), fun _ => (retire_jump_follower _ hf' _ _).1, h2, h3⟩

end Sys2Proof.Proofs
end


section
/-! PROOFS. ENTER and LEAVE, NOP, YIELD and HALT (R24, R25, R66, R335, R344, R350, R364, R417). -/

namespace Sys2Proof.Proofs

open Sys2Proof.Machine Sys2Proof.Safety Sys2Proof.Laws

/-! ## ENTER and LEAVE (R66) -/

theorem setsFrame_issue {n : Need} {s : State} {f : Nat} (hr : Ready n s) (hn : n.reading = []) :
    SetsFrame s f (issue n (setFrame f) s) := by
  obtain ⟨t, ht, hf, hx⟩ := answers_ctx (body := setFrame f) (w := { ctx := fun x => { x with frame := 0 } })
    (fun x => { x with frame := f }) .next hr rfl (soft_nil hn) (by simp) (fun _ => rfl)
  have hframe := congrArg Ctx.frame hx
  exact ⟨t, ht, hf, hframe⟩

theorem traps_illop {n : Need} {body : State → Except Trap Done} {s : State} (h : n.ill = true) :
    Traps s (.of .illop) (issue n body s) :=
  issue_illegal (by simp [illegal, h])

theorem frameOk_eq_false {n : Nat} (h : n ∉ [8, 12, 16, 20, 24]) : frameOk n = false := by
  rw [← Bool.not_eq_true, frameOk_iff]
  exact h

theorem answers_next {n : Need} {s : State} (hr : Ready n s) (hn : n.reading = []) (ht : n.transfer = false) :
    Answers (issue n (fun s => .ok ⟨s, .next⟩) s)
      (fun t => Frame {} s t ∧ ((s.ctx s.cur).rep = none → GoesTo s t (behind s n.len))) :=
  ⟨_, issue_clean hr rfl (soft_nil hn), Frame_retire _ s .next true (by simp),
    fun hrep ho => retire_next_pc _ s ho ht hrep⟩

theorem answers_yield {n : Need} {s : State} (hr : Ready n s) (hn : n.reading = []) :
    Answers (issue n (fun s => .ok ⟨s, .yield⟩) s)
      (fun t => Frame {} s t ∧ ((s.ctx s.cur).rep = none → GoesTo s t (behind s n.len))) :=
  ⟨_, issue_clean hr rfl (soft_nil hn), Frame_retire _ s .yield true (by simp),
    fun hrep ho => retire_yield_pc _ s ho hrep⟩

/-- Settles O9: a frame that is one of the five makes the need of ENTER the plain one. -/
theorem frameNopYieldEffects : Obligations.FrameNopYieldEffects := by
  intro s h gap imm lit
  simp only [exec_enter, exec_enterLong, exec_leave, exec_nop, exec_yield]
  refine ⟨fun hr hi => ?_, fun hi => traps_illop (by simp [frameOk_eq_false hi]), fun hr hl => ?_,
    fun hl => traps_illop (by simp [frameOk_eq_false hl]),
    fun hr => ⟨setsFrame_issue hr rfl, answers_next hr rfl rfl, answers_yield hr rfl⟩⟩
  · rw [execEnter, (frameOk_iff _).2 hi]
    exact setsFrame_issue hr rfl
  · rw [execEnterLong, (frameOk_iff _).2 hl]
    exact setsFrame_issue hr rfl

/-! ## The turn of a core -/

theorem advance_run (s : State) (q : Nat × Nat) (len : Nat) (dest : Option (Nat × BitVec 2)) (taken : Bool) :
    ((s.advance q len dest taken).ctx q).run = (s.ctx q).run := by
  unfold State.advance
  dsimp only
  split <;> rw [state_ctx_modCtx_same]

theorem touch_turn (c : Ctl) (o : Option GatedUnit) (a b d : Nat) : (c.touch o a b d).turn = c.turn := by
  cases o with
  | none => rfl
  | some u => cases u <;> rfl

/-- Going on leaves the run and the turn of a context of c1–c3 as they are. -/
theorem go_run_turn (v : State) (len : Nat) (dest : Option (Nat × BitVec 2)) (taken : Bool) (pc : Word) (g : Bool) (occ : Nat)
    (h : v.cur.2 ≠ 0) :
    let w := (((v.advance v.cur len dest taken).forward v.cur pc g).follow v.cur).pace v.cur occ
    (w.ctx v.cur).run = (v.ctx v.cur).run ∧ (w.core v.cur.1).ctl.turn = (v.core v.cur.1).ctl.turn := by
  have hfollow := follow_own ((v.advance v.cur len dest taken).forward v.cur pc g) v.cur (fun h0 => absurd h0 h)
  rw [hfollow]
  constructor
  · rw [State.pace, modCtl_ctx, forward_ctx, advance_run]
  · rw [State.pace, State.modCtl, core_modCore_same, forward_core, advance_ctl]

/-! ## YIELD (R24, R25, R417) -/

/-- Another context of the core is Ready by a tick. -/
def OtherReady (s : State) (t : Nat) : Prop :=
  ∃ i ∈ [1, 2, 3], i ≠ s.cur.2 ∧ ((s.core s.cur.1).ctx i).run = .ready ∧ ((s.core s.cur.1).ctx i).readyAt ≤ t

theorem otherReady_iff (s w : State) (t : Nat) (hf : Frame {} s w) :
    ([1, 2, 3].any (fun i => i != s.cur.2 && ((w.core s.cur.1).ctx i).run == .ready
      && decide (((w.core s.cur.1).ctx i).readyAt ≤ t)) = true) ↔ OtherReady s t := by
  simp only [List.any_eq_true, Bool.and_eq_true, bne_iff_ne, beq_iff_eq, decide_eq_true_iff, OtherReady, and_assoc]
  refine exists_congr fun i => and_congr_right fun _ => and_congr_right fun hi => ?_
  rw [hf.contexts i hi]

theorem yieldTo_other {s w : State} (occ : Nat) (h : s.cur.2 ≠ 0) (hf : Frame {} s w)
    (ho : OtherReady s (w.now + occ * cyc s.cur.1)) (ht : (w.core s.cur.1).ctl.turn = some s.cur.2) :
    ((w.yieldTo s.cur occ).ctx s.cur).run = .ready ∧ ((w.yieldTo s.cur occ).core s.cur.1).ctl.turn = none
      ∧ ((w.yieldTo s.cur occ).core s.cur.1).ctl.last = s.cur.2 := by
  unfold State.yieldTo
  dsimp only
  rw [if_neg h, if_pos ((otherReady_iff s w _ hf).2 ho)]
  simp [State.ctx, Core.ctx, Core.modCtx, Core.setCtx, Ctl.leave, ht]

theorem yieldTo_alone {s w : State} (occ : Nat) (hf : Frame {} s w)
    (ho : ¬ OtherReady s (w.now + occ * cyc s.cur.1)) : w.yieldTo s.cur occ = w := by
  unfold State.yieldTo
  dsimp only
  split
  · rfl
  · rw [if_neg (fun h => ho ((otherReady_iff s w _ hf).1 h))]

theorem now_frame {s t : State} (hf : Frame {} s t) : t.now = s.now := by
  have h : ({ t with cores := [] } : State) = { s with cores := [] } := hf.machine
  have := congrArg State.now h
  exact this

/-- What stands before the yield itself: the place moved on, the turn and the run as before. -/
theorem retire_yield_eq (n : Need) (s : State) (h : s.cur.2 ≠ 0) :
    ∃ w, retire n ⟨s, .yield⟩ true = w.yieldTo s.cur n.occ ∧ Frame {} s w ∧ (w.ctx s.cur).run = (s.ctx s.cur).run
      ∧ (w.core s.cur.1).ctl.turn = (s.core s.cur.1).ctl.turn := by
  let v := s.modCtl s.cur.1 (fun c => c.touch n.unit s.now (cyc s.cur.1) (s.now + n.occ * cyc s.cur.1))
  have hv : Frame {} s v := Frame_touch _ _ _ _
  obtain ⟨hrun, hturn⟩ := go_run_turn v n.len none false (s.ctx s.cur).pc true n.occ h
  refine ⟨_, ?_, Frame_trans hv (Frame_go v n.len none false (s.ctx s.cur).pc true n.occ), hrun.trans ?_, hturn.trans ?_⟩
  · simp only [retire, true_or, if_true]
    rfl
  · exact congrArg Ctx.run (modCtl_ctx s s.cur.1 _ s.cur)
  · simp only [v, State.modCtl, modCore_cur, core_modCore_same, touch_turn]

/-! ## HALT (R344) -/

theorem Frame_post (s : State) (t : Nat) (ev : Event) :
    Frame { machine := fun s => { s with agenda := [] } } s (s.post t ev) :=
  ⟨rfl, rfl, fun _ _ => rfl, fun _ _ => rfl, rfl, rfl, fun _ _ => rfl⟩

theorem haltCtx_leaves (s : State) (t : Nat) :
    let u := s.modCore s.cur.1 (fun c => c.haltCtx s.cur.2 t)
    Frame {} s u ∧ (u.ctx s.cur).run = .halted
      ∧ ((s.core s.cur.1).ctl.turn = some s.cur.2 → (u.core s.cur.1).ctl.turn = none) := by
  refine ⟨Frame_leave (fun x => { x with run := .halted }) (fun _ => rfl) t, ?_, fun ht => ?_⟩
  · simp [State.ctx, Core.haltCtx, Core.ctx, Core.modCtx, Core.setCtx]
  · simp [Core.haltCtx, Core.modCtx, Core.setCtx, Ctl.leave, ht]

theorem retire_halt (n : Need) (s : State) :
    let t := retire n ⟨s, .halt⟩ true
    Frame { machine := fun s => { s with agenda := [] } } s t ∧ (t.ctx s.cur).run = .halted
      ∧ ((s.core s.cur.1).ctl.turn = some s.cur.2 → (t.core s.cur.1).ctl.turn = none) := by
  let v := s.modCtl s.cur.1 (fun c => c.touch n.unit s.now (cyc s.cur.1) (s.now + n.occ * cyc s.cur.1))
  let w := v.advance s.cur n.len (some ((s.ctx s.cur).pc.toNat + 4 * n.len, 2)) true
  have hv : Frame {} s v := Frame_touch _ _ _ _
  have hw : Frame {} v w := Frame_advance n.len (some ((s.ctx s.cur).pc.toNat + 4 * n.len, 2)) true
  have hturn : (w.core s.cur.1).ctl.turn = (s.core s.cur.1).ctl.turn := by
    simp only [w, advance_ctl, v, State.modCtl, core_modCore_same, touch_turn]
  have hcur : w.cur = s.cur := hw.cur
  have hh := haltCtx_leaves w (w.now + n.occ * cyc s.cur.1)
  simp only [hcur] at hh
  obtain ⟨hf, hrun, hoff⟩ := hh
  have hsw := Frame_trans (Frame_trans hv hw) hf
  rw [hturn] at hoff
  have hnow : w.now = v.now := now_frame hw
  simp only [retire]
  split
  · exact ⟨Frame_trans (Frame_weaken hsw) (Frame_post _ _ _), hrun, hoff⟩
  · exact ⟨Frame_weaken hsw, hrun, hoff⟩

/-- Settles O10: the yield sees the other contexts as they were; HALT's frame is that of a context leaving the core. -/
theorem yieldAndHaltLeaveTheCore : Obligations.YieldAndHaltLeaveTheCore := by
  intro s h
  simp only [exec_yield, exec_halt]
  refine ⟨fun hr h0 hturn hrun => ?_, fun h0 => traps_illop (by simp [h0]), fun tr h0 hr hb => ?_, fun h0 hr hb => ?_⟩
  · obtain ⟨w, hw, hf, hwrun, hwturn⟩ := retire_yield_eq
      { len := 1, hdr := h, unit := idleUnit { len := 1, hdr := h } s } s h0
    have hissue : execYield h s = .next (w.yieldTo s.cur 1) := by
      rw [← hw]
      exact issue_clean hr rfl (soft_nil rfl)
    have hnow : w.now + 1 * cyc s.cur.1 = s.now + cyc s.cur.1 := by rw [now_frame hf, Nat.one_mul]
    refine ⟨fun ho => ⟨_, hissue, ?_⟩, fun ho => ⟨_, hissue, ?_⟩⟩
    · exact yieldTo_other 1 h0 hf (hnow ▸ ho) (hwturn.trans hturn)
    · rw [yieldTo_alone 1 hf (hnow ▸ ho)]
      exact ⟨hwrun.trans hrun, hwturn.trans hturn⟩
  · have hill : (s.cur.2 == 0) = false := by simpa using h0
    rw [execHalt, hill]
    exact issue_trap hr (by rw [hb]; rfl)
  · have hill : (s.cur.2 == 0) = false := by simpa using h0
    rw [execHalt, hill]
    exact ⟨_, issue_clean hr (d := ⟨s, .halt⟩) (by rw [hb]; rfl) (soft_nil rfl), retire_halt _ s⟩

end Sys2Proof.Proofs
end


section
/-! PROOFS. What words decode to: the fields of a first word that reads as ADD, ADDI or CLZ (R75, R77, R79). -/

namespace Sys2Proof.Proofs

open Sys2Proof.Machine Sys2Proof.Safety Sys2Proof.Laws

theorem need_eq_ok {c : Prop} [Decidable c] {i j : Instr} : need c i = .ok j ↔ c ∧ i = j := by
  unfold need
  split <;> simp [*]

/-- Only major 0x01 reads as ADD. -/
theorem decodeBase_eq_add {f : Word0} {g : Hdr} {d a b : Reg} (h : decodeBase f = .ok (.add g d a b)) :
    f.maj.toNat = 0x01 ∧ f.b31 = false ∧ f.hdr = g ∧ f.d = d ∧ f.a = a ∧ f.b = b := by
  unfold decodeBase at h
  split at h
  case h_1 hm =>
    obtain ⟨hb, hi⟩ := need_eq_ok.1 h
    injection hi with h1 h2 h3 h4
    exact ⟨hm, hb, h1, h2, h3, h4⟩
  all_goals simp [need_eq_ok] at h

/-- Only major 0x1C reads as ADDI. -/
theorem decodeBase_eq_addi {f : Word0} {gap : BitVec 2} {d a : Reg} {imm : BitVec 11}
    (h : decodeBase f = .ok (.addi gap d a imm)) :
    f.maj.toNat = 0x1C ∧ f.gap = gap ∧ f.d = d ∧ f.immA = a ∧ f.imm = imm := by
  unfold decodeBase at h
  split at h
  case h_28 hm =>
    simp only [Except.ok.injEq, Instr.addi.injEq] at h
    exact ⟨hm, h⟩
  all_goals simp [need_eq_ok] at h

theorem map_pair_eq_ok {ε : Type} {x : Except ε Instr} {n m : Nat} {j : Instr} :
    x.map (·, n) = .ok (j, m) ↔ x = .ok j ∧ n = m := by
  cases x <;> simp [Except.map]

/-- Only LEN 0 gives one word (R75). -/
theorem decodeForm_one {w : Word} {rest : List Word} {i : Instr} (h : decodeForm (w :: rest) = .ok (i, 1)) :
    (Word0.unpack w).len = 0 ∧ (Word0.unpack w).maj.toNat < 0x60 ∧ decodeBase (Word0.unpack w) = .ok i := by
  simp only [decodeForm] at h
  by_cases hl : (Word0.unpack w).len = 0
  · rw [if_pos hl] at h
    split at h
    · cases h
    · next hm => exact ⟨hl, Nat.not_le.1 hm, (map_pair_eq_ok.1 h).1⟩
  · rw [if_neg hl] at h
    exfalso
    revert h
    repeat' split
    all_goals simp [map_pair_eq_ok]

/-- A one-word instruction is read from the first word's fields alone. -/
theorem decode_one {w : Word} {rest : List Word} {i : Instr} (h : decode (w :: rest) = .ok (i, 1)) :
    (Word0.unpack w).len = 0 ∧ (Word0.unpack w).maj.toNat < 0x60 ∧ decodeBase (Word0.unpack w) = .ok i
      ∧ i.wellFormed = true := by
  unfold decode at h
  split at h
  · next j n hf =>
    split at h
    · next hwf =>
      obtain ⟨rfl, rfl⟩ : j = i ∧ n = 1 := by simpa using h
      obtain ⟨hl, hm, hb⟩ := decodeForm_one hf
      exact ⟨hl, hm, hb, hwf⟩
    · cases h
  · cases h

end Sys2Proof.Proofs
end


section
/-! PROOFS. Repetition (R41 to R44, R371, R372): the repetition that REP sets, the passes, and the rotation of a body's fields. -/

namespace Sys2Proof.Proofs

open Sys2Proof.Machine Sys2Proof.Safety Sys2Proof.Laws

/-! ## Rotation (R42, R372) -/

/-- MASK selects field `j` (D, A, B) of the current body instruction. -/
def selected (r : Rep) (j : Nat) : Bool := r.mask.getLsbD (3 * r.pos + j)

/-- A field on the current pass. -/
def turned (r : Rep) (j : Nat) (f : BitVec 5) : BitVec 5 := if selected r j then rotField r f else f

/-- The fields of a three-register instruction on the current pass. -/
def turnedFields (r : Rep) (f : Word0) : Word0 := { f with d := turned r 0 f.d, a := turned r 1 f.a, b := turned r 2 f.b }

/-- The fields of an immediate instruction on the current pass: field A lies in GN, G and Y (R77). -/
def turnedImmFields (r : Rep) (f : Word0) : Word0 :=
  { f with
    d := turned r 0 f.d
    gn := (turned r 1 f.immA).getLsbD 4
    g := (turned r 1 f.immA).extractLsb' 1 3
    y := (turned r 1 f.immA).getLsbD 0 }

theorem getLsbD_maskBits (r : Rep) {j : Nat} (hj : j < 3) :
    (bits (r.mask.setWidth 32) (3 * r.pos) 3).getLsbD j = selected r j := by
  rw [selected, BitVec.getLsbD_extractLsb', BitVec.getLsbD_setWidth]
  by_cases h : 3 * r.pos + j < 32
  · simp [hj, h]
  · rw [BitVec.getLsbD_of_ge r.mask _ (by omega)]
    simp

theorem and_not_seven (m : BitVec 3) : m &&& ~~~7 = 0 := by revert m; decide

theorem and_not_three (m : BitVec 3) : m &&& ~~~3 ≠ 0 ↔ m.getLsbD 2 = true := by revert m; decide

section Rotate

variable {r : Rep} {w : Word}

/-- A selected field outside the window stops the rotation of a three-register instruction. -/
theorem rotateWord_out (h : (selected r 0 = true ∧ inWindow r (Word0.unpack w).d = false)
      ∨ (selected r 1 = true ∧ inWindow r (Word0.unpack w).a = false)
      ∨ (selected r 2 = true ∧ inWindow r (Word0.unpack w).b = false)) : rotateWord r 7 false w = none := by
  simp only [rotateWord, and_not_seven, getLsbD_maskBits r (show 0 < 3 by decide), getLsbD_maskBits r (show 1 < 3 by decide),
    getLsbD_maskBits r (show 2 < 3 by decide)]
  simp [h]

/-- The rotated word of a three-register instruction. -/
theorem rotateWord_in (h : ¬ ((selected r 0 = true ∧ inWindow r (Word0.unpack w).d = false)
      ∨ (selected r 1 = true ∧ inWindow r (Word0.unpack w).a = false)
      ∨ (selected r 2 = true ∧ inWindow r (Word0.unpack w).b = false))) :
    rotateWord r 7 false w = some (Word0.pack (turnedFields r (Word0.unpack w))) := by
  simp only [rotateWord, and_not_seven, getLsbD_maskBits r (show 0 < 3 by decide), getLsbD_maskBits r (show 1 < 3 by decide),
    getLsbD_maskBits r (show 2 < 3 by decide)]
  simp [h, turned, turnedFields]

/-- Field B is reserved where an instruction uses D and A alone. -/
theorem rotateWord_reserved {formatI : Bool} (h : selected r 2 = true) : rotateWord r 3 formatI w = none := by
  have hm := (and_not_three (bits (r.mask.setWidth 32) (3 * r.pos) 3)).2 (by rw [getLsbD_maskBits r (by decide), h])
  exact if_pos (.inl hm)

/-- A selected field outside the window stops the rotation of an immediate instruction. -/
theorem rotateWord_immediate_out (h : (selected r 0 = true ∧ inWindow r (Word0.unpack w).d = false)
      ∨ (selected r 1 = true ∧ inWindow r (Word0.unpack w).immA = false)) : rotateWord r 3 true w = none := by
  by_cases h2 : selected r 2 = true
  · exact rotateWord_reserved h2
  · have hm : bits (r.mask.setWidth 32) (3 * r.pos) 3 &&& ~~~3 = 0 := by
      rw [← not_not (a := _ = _), ← ne_eq, and_not_three, getLsbD_maskBits r (by decide)]
      exact h2
    simp only [rotateWord, hm, getLsbD_maskBits r (show 0 < 3 by decide), getLsbD_maskBits r (show 1 < 3 by decide),
      getLsbD_maskBits r (show 2 < 3 by decide)]
    simp [h, h2]

/-- The rotated word of an immediate instruction. -/
theorem rotateWord_immediate_in (h2 : selected r 2 = false)
    (h : ¬ ((selected r 0 = true ∧ inWindow r (Word0.unpack w).d = false)
      ∨ (selected r 1 = true ∧ inWindow r (Word0.unpack w).immA = false))) :
    rotateWord r 3 true w = some (Word0.pack (turnedImmFields r (Word0.unpack w))) := by
  have hm : bits (r.mask.setWidth 32) (3 * r.pos) 3 &&& ~~~3 = 0 := by
    rw [← not_not (a := _ = _), ← ne_eq, and_not_three, getLsbD_maskBits r (by decide), h2]
    decide
  simp only [rotateWord, hm, getLsbD_maskBits r (show 0 < 3 by decide), getLsbD_maskBits r (show 1 < 3 by decide),
    getLsbD_maskBits r (show 2 < 3 by decide)]
  simp [h, h2, turned, turnedImmFields]

end Rotate

/-- A field of five bits put together from its parts (R77). -/
theorem immA_parts (x : BitVec 5) :
    BitVec.ofBool (x.getLsbD 4) ++ x.extractLsb' 1 3 ++ BitVec.ofBool (x.getLsbD 0) = x := by revert x; decide

/-! ## Fetching in a body -/

theorem wordsAt_cons {s : State} {k a : Nat} {w : Word} {tag : Bool} (h : s.storeWord k a = some (w, tag)) :
    s.wordsAt k a = w :: (s.wordsAt k a).tail := by
  simp [State.wordsAt, List.range_succ_eq_map, h]

section Fetch

variable {s : State} {q : Nat × Nat} {r : Rep} {w : Word} {i : Instr} {n : Nat}

/-- A body instruction whose rotation is refused raises ILLOP at its fetch. -/
theorem fetch_body_refused (hsig : s.sigCheck q = none) (hrep : (s.ctx q).rep = some r) (hnext : r.next = (s.ctx q).pc)
    (hw : s.storeWord q.1 (s.ctx q).pc.toNat = some (w, true)) (hh : isHeader w = false)
    (hd : decode (s.wordsAt q.1 (s.ctx q).pc.toNat) = .ok (i, n))
    (hrot : rotateWord r (fieldsUsed i) (isFormatI w) w = none) : s.fetch q = .error (.of .illop) := by
  simp [State.fetch, hsig, hw, hh, hrep, hnext, hd, hrot]

/-- A body instruction is the one that its rotated words decode to. -/
theorem fetch_body_rotated {w' : Word} {j : Instr} {m : Nat} (hsig : s.sigCheck q = none) (hrep : (s.ctx q).rep = some r)
    (hnext : r.next = (s.ctx q).pc) (hw : s.storeWord q.1 (s.ctx q).pc.toNat = some (w, true)) (hh : isHeader w = false)
    (hd : decode (s.wordsAt q.1 (s.ctx q).pc.toNat) = .ok (i, n))
    (hrot : rotateWord r (fieldsUsed i) (isFormatI w) w = some w')
    (hd' : decode (w' :: (s.wordsAt q.1 (s.ctx q).pc.toNat).tail) = .ok (j, m)) : s.fetch q = .ok j := by
  simp [State.fetch, hsig, hw, hh, hrep, hnext, hd, hrot, hd']

end Fetch

theorem isFormatI_of_maj {w : Word} {m : Nat} (hl : (Word0.unpack w).len = 0) (hm : (Word0.unpack w).maj.toNat = m) :
    isFormatI w = (decide (0x1C ≤ m ∧ m ≤ 0x27) || m == 0x33 || decide (0x37 ≤ m ∧ m ≤ 0x50) || m == 0x5A || m == 0x5C || m == 0x5D) := by
  have h1 : bits w 0 2 = 0 := hl
  have h2 : (bits w 9 7).toNat = m := hm
  simp [isFormatI, h1, h2, Bool.decide_and]

/-! ## The passes (R42) -/

/-- Going on leaves the repetition that the advance has set. -/
theorem go_rep (v : State) (len : Nat) (dest : Option (Nat × BitVec 2)) (taken : Bool) (pc : Word) (g : Bool) (occ : Nat) (y : Bool) :
    ((if y then ((((v.advance v.cur len dest taken).forward v.cur pc g).follow v.cur).pace v.cur occ).yieldTo v.cur occ
        else (((v.advance v.cur len dest taken).forward v.cur pc g).follow v.cur).pace v.cur occ).ctx v.cur).rep
      = ((v.advance v.cur len dest taken).ctx v.cur).rep := by
  have hyield (u : State) : ((u.yieldTo v.cur occ).ctx v.cur).rep = (u.ctx v.cur).rep := by
    unfold State.yieldTo
    dsimp only
    split_ifs
    · rfl
    · simp [State.ctx, Core.ctx, Core.modCtx, Core.setCtx]
    · rfl
  have hfollow (u : State) : ((u.follow v.cur).ctx v.cur).rep = (u.ctx v.cur).rep := by
    unfold State.follow
    split
    · split
      · rw [state_ctx_modCtx_same, modCtl_ctx]
      · rfl
    · rfl
  split <;> simp only [hyield, State.pace, modCtl_ctx, hfollow, forward_ctx]

theorem storeWord_touch (s : State) (o : Option GatedUnit) (a b d : Nat) (k j x : Nat) :
    (s.modCtl k (fun c => c.touch o a b d)).storeWord j x = s.storeWord j x :=
  storeWord_modCtl s _ (fun c => ⟨(touch_phase c o a b d).1, (touch_phase c o a b d).2.1⟩) k j x

/-- What one body instruction leaves of the repetition, and where it goes on. -/
theorem advance_body {s : State} {q : Nat × Nat} {len : Nat} {r : Rep} (hrep : (s.ctx q).rep = some r)
    (hnext : r.next = (s.ctx q).pc) :
    ((s.advance q len none false).ctx q).rep = (r.advance (BitVec.ofNat 32 ((s.ctx q).pc.toNat + 4 * len))).1
      ∧ ((s.advance q len none false).ctx q).pc
        = ((r.advance (BitVec.ofNat 32 ((s.ctx q).pc.toNat + 4 * len))).2).getD
            (BitVec.ofNat 32 (s.skipSig q.1 ((s.ctx q).pc.toNat + 4 * len))) := by
  have hin : (r.next == (s.ctx q).pc) = true := by simp [hnext]
  unfold State.advance State.skipSig
  simp only [hrep, hin, if_true]
  cases hb : (r.advance (BitVec.ofNat 32 ((s.ctx q).pc.toNat + 4 * len))).2 with
  | some b => simp
  | none =>
    simp only [state_ctx_modCtx_same, Option.getD_none, true_and]
    cases s.storeWord q.1 ((s.ctx q).pc.toNat + 4 * len) with
    | none => rfl
    | some p => obtain ⟨w, b⟩ := p; cases b <;> rfl

/-- An instruction outside the repetition's body leaves it, and goes on behind itself. -/
theorem advance_outside {s : State} {q : Nat × Nat} {len : Nat} {r : Rep} (hrep : (s.ctx q).rep = some r)
    (hnext : r.next ≠ (s.ctx q).pc) :
    ((s.advance q len none false).ctx q).rep = some r
      ∧ ((s.advance q len none false).ctx q).pc = BitVec.ofNat 32 (s.skipSig q.1 ((s.ctx q).pc.toNat + 4 * len)) := by
  have hin : (r.next == (s.ctx q).pc) = false := by simp [hnext]
  unfold State.advance State.skipSig
  simp only [hrep, hin, Bool.false_eq_true, if_false, state_ctx_modCtx_same, true_and]
  cases s.storeWord q.1 ((s.ctx q).pc.toNat + 4 * len) with
  | none => rfl
  | some p => obtain ⟨w, b⟩ := p; cases b <;> rfl

/-- Going on to the next instruction is the advance, seen from the issuing context. -/
theorem retire_next_place (n : Need) (s : State) (ht : n.transfer = false) :
    ∃ v : State, (∀ k a, v.storeWord k a = s.storeWord k a) ∧ v.ctx s.cur = s.ctx s.cur
      ∧ ((retire n ⟨s, .next⟩ true).ctx s.cur).rep = ((v.advance s.cur n.len none false).ctx s.cur).rep
      ∧ (ownPath s → ((retire n ⟨s, .next⟩ true).ctx s.cur).pc = ((v.advance s.cur n.len none false).ctx s.cur).pc) := by
  refine ⟨s.modCtl s.cur.1 (fun c => c.touch n.unit s.now (cyc s.cur.1) (s.now + n.occ * cyc s.cur.1)),
    storeWord_touch _ _ _ _ _ _, modCtl_ctx _ _ _ _, ?_, fun ho => ?_⟩
  · have := go_rep (s.modCtl s.cur.1 (fun c => c.touch n.unit s.now (cyc s.cur.1) (s.now + n.occ * cyc s.cur.1))) n.len
      none false (s.ctx s.cur).pc true n.occ n.hdr.y
    simpa only [retire, ht, true_or, if_true, Bool.false_eq_true, if_false, modCtl_cur] using this
  · have := go_pc (s.modCtl s.cur.1 (fun c => c.touch n.unit s.now (cyc s.cur.1) (s.now + n.occ * cyc s.cur.1))) n.len
      none false (s.ctx s.cur).pc true n.occ n.hdr.y (fun h0 => by
        simp only [State.modCtl, modCore_cur, core_modCore_same]
        exact (touch_phase _ _ _ _ _).2.2.trans (ho h0))
    simpa only [retire, ht, true_or, if_true, Bool.false_eq_true, if_false, modCtl_cur] using this

theorem retire_next_body (n : Need) (s : State) {r : Rep} (ht : n.transfer = false) (hrep : (s.ctx s.cur).rep = some r)
    (hnext : r.next = (s.ctx s.cur).pc) :
    ((retire n ⟨s, .next⟩ true).ctx s.cur).rep = (r.advance (BitVec.ofNat 32 (pcv s + 4 * n.len))).1
      ∧ (ownPath s → ((retire n ⟨s, .next⟩ true).ctx s.cur).pc
        = ((r.advance (BitVec.ofNat 32 (pcv s + 4 * n.len))).2).getD (BitVec.ofNat 32 (behind s n.len))) := by
  obtain ⟨v, hst, hx, hr, hp⟩ := retire_next_place n s ht
  obtain ⟨har, hap⟩ := advance_body (s := v) (q := s.cur) (len := n.len) (r := r) (by rw [hx, hrep]) (by rw [hx, hnext])
  rw [hx] at har hap
  rw [skipSig_congr (s := s) (hst _)] at hap
  exact ⟨hr.trans har, fun ho => (hp ho).trans hap⟩

/-! ## REP (R41, R371) -/

theorem storeWord_modCtx (s : State) (q : Nat × Nat) (f : Ctx → Ctx) (k a : Nat) :
    (s.modCtx q f).storeWord k a = s.storeWord k a := by
  have hstore (j : Nat) : ((s.modCtx q f).core j).store = (s.core j).store := by
    rw [State.modCtx, core_modCore]
    split
    · next h => rw [coreModCtx_store, h]
    · rfl
  simp only [State.storeWord, State.codeOf, ctl_state_modCtx, hstore]

/-- Size and origin of a window from its WIN code (R371). -/
theorem window_of_win {size base win : Nat} (hs : size ∈ [1, 2, 4, 8, 16, 32]) (hb : base % size = 0)
    (hw : 2 * base + size = win) (hlt : win < 64) : repSize win = size ∧ repBase win = base := by
  have hsize : repSize win = size := by
    unfold repSize
    simp only [List.mem_cons, List.not_mem_nil, or_false] at hs
    rcases hs with rfl | rfl | rfl | rfl | rfl | rfl <;> split_ifs <;> omega
  refine ⟨hsize, ?_⟩
  unfold repBase
  omega

/-- A body begins behind its REP. -/
theorem behind_ne_pc (s : State) : BitVec.ofNat 32 (behind s 3) ≠ (s.ctx s.cur).pc := by
  intro h
  have hn := congrArg BitVec.toNat h
  rw [BitVec.toNat_ofNat] at hn
  have hp := (s.ctx s.cur).pc.isLt
  have hb : behind s 3 = pcv s + 12 ∨ behind s 3 = pcv s + 16 := by
    unfold behind State.skipSig
    split
    · exact .inr rfl
    · exact .inl rfl
  unfold pcv at hb
  omega

theorem rep_issue {n : Need} {s : State} {r : Rep} (hr : Ready n s) (hn : n.reading = []) (ht : n.transfer = false)
    (hlen : n.len = 3) (hnext : r.next = BitVec.ofNat 32 (behind s 3)) :
    Answers (issue n (fun s => .ok ⟨s.modCtx s.cur (fun x => { x with rep := some r }), .next⟩) s)
      (fun t => Frame {} s t ∧ GoesTo s t (behind s 3) ∧ (t.ctx s.cur).rep = some r) := by
  let u : State := s.modCtx s.cur (fun x => { x with rep := some r })
  have hux : u.ctx s.cur = { s.ctx s.cur with rep := some r } := state_ctx_modCtx_same _ _ _
  have huo (ho : ownPath s) : ownPath u := ownPath_congr ho rfl (ctl_state_modCtx _ _ _ _)
  obtain ⟨v, hst, hx, hvr, hvp⟩ := retire_next_place { n with unit := idleUnit n s } u ht
  rw [show u.cur = s.cur from rfl] at hx hvr hvp
  obtain ⟨har, hap⟩ := advance_outside (s := v) (q := s.cur) (len := n.len) (r := r) (by rw [hx, hux])
    (by rw [hx, hux, hnext]; exact behind_ne_pc s)
  rw [hx, hux, skipSig_congr (s := s) (fun a => (hst _ a).trans (storeWord_modCtx _ _ _ _ _))] at hap
  refine ⟨_, issue_clean hr rfl (soft_nil hn), Frame_trans (Frame_place (fun x => { x with rep := some r }) (fun _ => rfl))
    (Frame_retire { n with unit := idleUnit n s } u .next true (by simp)), fun ho => ?_, hvr.trans har⟩
  rw [hvp (huo ho), hap, hlen]
  rfl

/-- Settles O11: REP's own need and effect; the passes by the advance of a body instruction; the rotation by the fields of the
word that was decoded. -/
theorem repSetsTheRepetition : Obligations.RepSetsTheRepetition := by
  intro s h stride nm1l winl winh nm1h km1 mask size base
  simp only [exec_rep, exec_nop]
  refine ⟨fun hbad => traps_illop ?_, fun r hrep hnext hr => ?_, fun r w g gap d a b imm hrep hnext hsig _ _ hw hh => ?_,
    fun hbody hrep hr hs hb hwin => ?_⟩
  · rcases hbad with hbad | ⟨r, hrep, hnext⟩
    · exact Bool.or_eq_true_iff.2 (.inl hbad)
    · simp [hrep, hnext]
  · obtain ⟨hrep', hpc⟩ := retire_next_body { len := 1, hdr := h, unit := idleUnit { len := 1, hdr := h } s } s rfl hrep hnext
    have passes (r' : Option Rep) (at_ : Nat) (h1 : (r.advance (BitVec.ofNat 32 (pcv s + 4))).1 = r')
        (h2 : ((r.advance (BitVec.ofNat 32 (pcv s + 4))).2).getD (BitVec.ofNat 32 (behind s 1)) = BitVec.ofNat 32 at_) :
        Answers (execNop h s) (fun t => Frame {} s t ∧ GoesTo s t at_ ∧ (t.ctx s.cur).rep = r') :=
      ⟨_, issue_clean hr rfl (soft_nil rfl), Frame_retire _ s .next true (by simp),
        fun ho => (hpc ho).trans h2, hrep'.trans h1⟩
    refine ⟨fun hp => passes _ _ ?_ ?_, fun hp hm => passes _ _ ?_ ?_, fun hp hm => passes _ _ ?_ ?_⟩
    · simp [Rep.advance, hp]
    · simp [Rep.advance, hp]
    · simp [Rep.advance, Nat.not_lt.2 hp, hm]
    · simp [Rep.advance, Nat.not_lt.2 hp, hm]
    · simp [Rep.advance, Nat.not_lt.2 hp, hm]
    · simp [Rep.advance, Nat.not_lt.2 hp, hm]
  · have hcons := wordsAt_cons hw
    have hout (j : Nat) (f : BitVec 5) : (r.mask.getLsbD (3 * r.pos + j) = true ∧ ¬ (r.base ≤ f.toNat ∧ f.toNat < r.base + r.size))
        ↔ selected r j = true ∧ inWindow r f = false := by
      simp [selected, inWindow]
    refine ⟨fun hd => ?_, fun hd => ?_, fun hd hsel => ?_⟩
    · obtain ⟨hl, _, hbase, hwf⟩ := decode_one (hcons ▸ hd)
      obtain ⟨hm, hb31, rfl, rfl, rfl, rfl⟩ := decodeBase_eq_add hbase
      have hfmt : isFormatI w = false := isFormatI_of_maj hl hm
      simp only [hout]
      refine ⟨fun ho => fetch_body_refused hsig hrep hnext hw hh hd ((congrArg (rotateWord r 7 · w) hfmt).trans (rotateWord_out ho)),
        fun ho => fetch_body_rotated hsig hrep hnext hw hh hd ((congrArg (rotateWord r 7 · w) hfmt).trans (rotateWord_in ho))
          (RoundTrip.oneWord (f := turnedFields r (Word0.unpack w)) hl ?_ ?_ ?_ _)⟩
      · show (Word0.unpack w).maj.toNat < 0x60
        omega
      · simp only [decodeBase, turnedFields, hm, hb31]
        rfl
      · exact hwf
    · obtain ⟨hl, _, hbase, hwf⟩ := decode_one (hcons ▸ hd)
      obtain ⟨hm, rfl, rfl, rfl, rfl⟩ := decodeBase_eq_addi hbase
      have hfmt : isFormatI w = true := isFormatI_of_maj hl hm
      simp only [hout]
      refine ⟨fun ho => fetch_body_refused hsig hrep hnext hw hh hd ((congrArg (rotateWord r 3 · w) hfmt).trans ?_),
        fun ho => fetch_body_rotated hsig hrep hnext hw hh hd ((congrArg (rotateWord r 3 · w) hfmt).trans
          (rotateWord_immediate_in ?_ ?_)) (RoundTrip.oneWord (f := turnedImmFields r (Word0.unpack w)) hl ?_ ?_ ?_ _)⟩
      · rcases ho with ho | ho | ho
        · exact rotateWord_immediate_out (.inl ho)
        · exact rotateWord_immediate_out (.inr ho)
        · exact rotateWord_reserved ho
      · exact Bool.eq_false_iff.2 (fun h2 => ho (.inr (.inr h2)))
      · exact fun h => ho (h.elim .inl (fun h => .inr (.inl h)))
      · show (Word0.unpack w).maj.toNat < 0x60
        omega
      · simp only [decodeBase, turnedImmFields, hm, Word0.immA, immA_parts]
        rfl
      · exact hwf
    · exact fetch_body_refused hsig hrep hnext hw hh hd (rotateWord_reserved hsel)
  · have hlt : winl.toNat + (if winh then 32 else 0) < 64 := by
      have := winl.isLt
      split <;> omega
    obtain ⟨hsize, hbase⟩ := window_of_win hs hb hwin hlt
    have hstate : repState s stride nm1l winl winh nm1h km1 mask
        = { remain := 32 * nm1h.toNat + nm1l.toNat, pos := 0, pass := 0, km1 := km1, mask := mask, stride := stride.toNat,
            base := base, size := size, start := BitVec.ofNat 32 (behind s 3), next := BitVec.ofNat 32 (behind s 3) } := by
      simp only [repState, hsize, hbase, Nat.mul_comm nm1h.toNat 32]
      rfl
    have hill : badBody s s.cur.1 (km1.toNat + 1) (s.skipSig s.cur.1 (pcv s + 12)) = false := hbody
    rw [execRep, hill, hrep, ← hstate]
    exact rep_issue hr rfl rfl rfl (by rw [hstate])

end Sys2Proof.Proofs
end


section
/-! PROOFS. Near memory (R176 to R178, R321, R347, R382, R383, R396): the checks of an access, the words that a read finds in
error, and the loads and stores that complete with their bytes. -/

namespace Sys2Proof.Proofs

open Sys2Proof.Machine Sys2Proof.Safety Sys2Proof.Laws

/-! ## The checks (R176) -/

theorem checked_of {s : State} {win : Window} {store : Bool} {ea : Int} {n align : Nat}
    {o : Host.Outcome State Fault Refusal} {good : Nat → Prop}
    (hbad : ∀ tr, checkNear s win store ea n align = .error tr → Traps s tr o)
    (hgood : ∀ a : Nat, (a : Int) = ea → checkNear s win store ea n align = .ok a → good a) :
    Checked s win store ea n align o good := by
  have hguard : ∀ b : Bool, (if b then (Config.statusBase s.tier : Int) else Config.statusBase s.tier + 64)
      = Config.statusBase s.tier + (if b then 0 else 64) := by intro b; cases b <;> simp
  refine ⟨fun h1 => hbad _ ?_, fun h1 h2 => hbad _ ?_, fun h1 h2 h3 h4 => hbad _ ?_,
    fun h1 h2 h3 h4 hc hw hg => hbad _ ?_, fun h1 h2 h3 h4 hp a ha => hgood a ha ?_⟩
  · simp only [checkNear, if_pos h1, addrBits]
  · simp only [checkNear, if_neg (not_not.2 h1), if_pos h2, addrBits]
  · simp only [checkNear, if_neg (not_not.2 h1), if_neg (not_or.2 ⟨not_lt.2 h2, not_le.2 h3⟩), if_pos h4, addrBits]
  · simp only [checkNear, if_neg (not_not.2 h1), if_neg (not_or.2 ⟨not_lt.2 h2, not_le.2 h3⟩), if_neg (not_lt.2 h4),
      hguard, if_pos (And.intro hc (And.intro hw hg)), addrBits]
  · subst ha
    have hpriv : ¬ (s.cur.2 ≠ 0 ∧ win = .ownBank ∧ (Config.statusBase s.tier + (if store then 0 else 64) : Int) < (a : Int) + n) := by
      rintro ⟨hc, hw, hg⟩
      rcases hp with hp | hp | hp
      · exact hc hp
      · exact absurd (hw.symm.trans hp) (by decide)
      · omega
    simp only [checkNear, if_neg (not_not.2 h1), if_neg (not_or.2 ⟨not_lt.2 h2, not_le.2 h3⟩), if_neg (not_lt.2 h4),
      hguard, if_neg hpriv, Int.toNat_natCast]

/-- An instruction whose effect begins with the checks: a failed one is its trap. -/
theorem checked_issue {nd : Need} {body : State → Except Trap Done} {f : Nat → Except Trap Done} {s : State} {win : Window}
    {store : Bool} {ea : Int} {n align : Nat} {good : Nat → Prop} (hr : Ready nd s)
    (hb : body s = (checkNear s win store ea n align >>= f))
    (hgood : ∀ a : Nat, (a : Int) = ea → body s = f a → good a) :
    Checked s win store ea n align (issue nd body s) good :=
  checked_of (fun tr h => issue_trap hr (by rw [hb, h]; rfl)) (fun a ha h => hgood a ha (by rw [hb, h]; rfl))

/-! ## Words in error (R178) -/

theorem bad_iff (c : Core) (i : Nat) : c.bad (4 * i) = true ↔ sget 0 c.poison i ≠ 0 ∧ sget 0 c.poison i ≠ 2 := by
  have key : ∀ p : BitVec 2, p.getLsbD 0 = true ↔ p ≠ 0 ∧ p ≠ 2 := by decide
  simp only [Core.bad, Nat.mul_div_cancel_left i (by decide : 0 < 4), key]

theorem touched_iff {a n w : Nat} : w < (a + n + 3) / 4 ↔ 4 * w < a + n := by omega

theorem badIn_eq_none {s : State} {a n : Nat} (h : readable s a n) : (s.core s.cur.1).badIn a n = none := by
  refine List.find?_eq_none.2 (fun w hw => ?_)
  obtain ⟨i, hi, rfl⟩ := List.mem_map.1 hw
  rw [List.mem_range] at hi
  rw [bad_iff]
  exact h _ (by omega) (touched_iff.1 (by omega))

theorem badIn_eq_some {s : State} {a n w : Nat} (h : firstBadWord s a n w) : (s.core s.cur.1).badIn a n = some w := by
  obtain ⟨i, rfl, hai, hin, hbad, hfirst⟩ := h
  have hlt : i - a / 4 < (a + n + 3) / 4 - a / 4 := by omega
  refine List.find?_eq_some_iff_getElem.2 ⟨(bad_iff _ _).2 hbad, i - a / 4, by simpa using hlt, ?_, fun j hj => ?_⟩
  · simp only [List.getElem_map, List.getElem_range]
    omega
  · simp only [List.getElem_map, List.getElem_range, Bool.not_eq_true', Bool.eq_false_iff, ne_eq, bad_iff]
    exact hfirst _ (by omega) (by omega)

theorem readable_of_clean {s : State} {a n : Nat} (h : cleanWords s a n) : readable s a n :=
  fun w h1 h2 hb => hb.1 (h w h1 h2)

theorem softWords_clean {s : State} {a n : Nat} (h : cleanWords s a n) : (s.core s.cur.1).softWords a n = 0 := by
  refine List.length_eq_zero_iff.2 (List.filter_eq_nil_iff.2 (fun i hi => ?_))
  rw [List.mem_range] at hi
  rw [h _ (by omega) (touched_iff.1 (by omega))]
  decide

theorem eccu_eq (s : State) (w : Nat) : (s.core s.cur.1).eccu w = eccuOf s w := by
  simp [Core.eccu, eccuOf, beq_eq_decide]

/-! ## Bytes read -/

theorem readBytes_eq_map (m : Sparse Byte) (a n : Nat) : readBytes m a n = (List.range n).map (fun i => sget 0 m (a + i)) := by
  induction n generalizing a with
  | zero => rfl
  | succ n ih =>
    rw [readBytes, ih, List.range_succ_eq_map, List.map_cons, List.map_map]
    congr 1
    exact List.map_congr_left (fun i _ => by simp [Nat.add_comm, Nat.add_left_comm])

theorem readNat_eq_coreNat (s : State) (k a n : Nat) : (s.core k).readNat a n = coreNat s k a n :=
  congrArg leNat (readBytes_eq_map _ _ _)

theorem readNear_readable {s : State} {a n : Nat} (h : readable s a n) :
    readNear s a n = .ok ((s.core s.cur.1).readN a n) := by
  simp only [readNear, badIn_eq_none h]

theorem readNear_bad {s : State} {a n w : Nat} (h : firstBadWord s a n w) : readNear s a n = .error (eccuOf s w) := by
  simp only [readNear, badIn_eq_some h, eccu_eq]

/-! ## Results with words corrected on the way (R178) -/

theorem count_core (s : State) (k hits j : Nat) : (s.count k hits).core j = s.core j := by
  unfold State.count; split <;> rfl

theorem count_cur (s : State) (k hits : Nat) : (s.count k hits).cur = s.cur := by
  unfold State.count; split <;> rfl

theorem Counts_count (s : State) (hits : Nat) : Counts s (s.count s.cur.1 hits) hits := by
  intro j
  unfold State.count
  by_cases h0 : hits = 0
  · rw [if_pos h0, h0]
    simp
  · rw [if_neg h0, col_modCol]
    by_cases hj : j = columnOf s.cur.1
    · rw [if_pos hj.symm, if_pos hj, hj]
    · rw [if_neg (Ne.symm hj), if_neg hj]

theorem Frame_count (s : State) (k hits : Nat) (w : Writes) (hw : w.machine = colless) : Frame w s (s.count k hits) := by
  refine ⟨?_, count_cur _ _ _, fun j _ => by rw [count_core], fun i _ => by rw [count_core], ?_, by rw [count_core],
    fun a _ => by rw [nearByte, count_core]; rfl⟩
  · rw [hw]
    unfold State.count
    split <;> rfl
  · rw [State.ctx, count_core]
    rfl

theorem Counts_congr {s s' t t' : State} {hits : Nat} (h : Counts s t hits) (hcur : s'.cur = s.cur)
    (hs : ∀ j, s'.col j = s.col j) (ht : ∀ j, t'.col j = t.col j) : Counts s' t' hits := by
  intro j
  rw [ht, hs, hcur]
  exact h j

theorem col_frame {s t : State} (h : Frame {} s t) (j : Nat) : t.col j = s.col j := by
  have hc : t.cols = s.cols := (congrArg State.cols h.machine :)
  rw [State.col, hc, State.col]

theorem counted_next {n : Need} {s t : State} : n.counted s ⟨t, .next⟩ = ⟨t.count s.cur.1 (n.soft s), .next⟩ := rfl

theorem UnderWay_core {s t u : State} {lat : Nat} {as_ : List Act} (h : UnderWay s lat as_ t)
    (hu : u.core s.cur.1 = t.core s.cur.1) : UnderWay s lat as_ u := by
  obtain ⟨h1, h2, h3⟩ := h
  exact ⟨by rw [hu]; exact h1, by rw [hu]; exact h2, by rw [hu]; exact h3⟩

theorem givesCounted_issue {n : Need} {body : State → Except Trap Done} {s : State} {lat : Nat} {as_ : List Act}
    (h : Ready n s) (hb : body s = done s lat as_) (hl : 1 < lat)
    (hd : as_.Pairwise (fun a b => sameTarget b a = false)) : GivesCounted s lat as_ (n.soft s) (issue n body s) := by
  obtain ⟨h1, h2⟩ := deliver_later s lat as_ hl hd
  have hr := Frame_retire { n with unit := idleUnit n s } ((s.deliver s.cur lat as_).count s.cur.1 (n.soft s)) .next true (by simp)
  have hu : UnderWay s lat as_ ((s.deliver s.cur lat as_).count s.cur.1 (n.soft s)) := UnderWay_core h2 (count_core _ _ _ _)
  have hf : Frame { core := fun c => { c with pend := [] }, machine := colless } s (s.deliver s.cur lat as_) := by
    obtain ⟨a1, a2, a3, a4, a5, a6, a7⟩ := h1
    exact ⟨congrArg colless a1, a2, a3, a4, a5, a6, a7⟩
  refine ⟨_, issue_ready h hb, Frame_trans (Frame_trans hf (Frame_count _ _ _ _ rfl)) (Frame_weaken hr), ?_,
    UnderWay_frame hu (count_cur _ _ _) hr⟩
  exact Counts_congr (Counts_count (s.deliver s.cur lat as_) (n.soft s)) rfl (fun _ => rfl) (col_frame hr)

theorem pairwise_toReg (s : State) (d : Reg) (v : DWord) :
    (toReg s d v).Pairwise (fun a b => sameTarget b a = false) := by
  unfold toReg scalarAct
  split
  · exact List.Pairwise.nil
  · split <;> exact List.pairwise_singleton _ _

theorem latency_gt_one (win : Window) (t : Nat) : 1 < win.latency t := by
  cases win with
  | localStore => exact (by decide : 1 < Config.localLatency)
  | ownBank =>
    simp only [Window.latency, Config.bankLatency]
    split
    · omega
    · split
      · omega
      · split <;> omega

/-! ## Loads -/

section
variable {nd : Need} {body : State → Except Trap Done} {s : State} {a n lat : Nat} {f : List Byte → Except Trap Done}
  {as_ : List Byte → List Act}

/-- A read that meets an uncorrectable word. -/
theorem traps_read (hr : Ready nd s) (hb : body s = (readNear s a n >>= f)) {w : Nat} (h : firstBadWord s a n w) :
    Traps s (eccuOf s w) (issue nd body s) :=
  issue_trap hr (by rw [hb, readNear_bad h]; rfl)

theorem read_readable {x : Except Trap Done} (hx : x = (readNear s a n >>= f)) (h : readable s a n) :
    x = f ((s.core s.cur.1).readN a n) := by
  rw [hx, readNear_readable h]
  rfl

/-- A read that meets no uncorrectable word gives its results. -/
theorem corrects_issue (hr : Ready nd s) (hsoft : nd.soft s = (s.core s.cur.1).softWords a n)
    (hb : body s = (readNear s a n >>= fun bs => done s lat (as_ bs))) (hl : 1 < lat)
    (hd : ∀ bs, (as_ bs).Pairwise (fun a b => sameTarget b a = false)) :
    Corrects s a n lat (as_ ((s.core s.cur.1).readN a n)) (issue nd body s) := by
  intro h
  have := givesCounted_issue hr (read_readable hb h) hl (hd _)
  rw [hsoft] at this
  exact this

end

theorem soft_bytesAt {nd : Need} {s : State} {ea : Int} {a n : Nat} (h : nd.reading = bytesAt ea n) (ha : (a : Int) = ea) :
    nd.soft s = (s.core s.cur.1).softWords a n := by
  have hb : bytesAt ea n = [(a, n)] := by simp [bytesAt, ← ha]
  simp [Need.soft, h, hb]

theorem extendTo_signed {w : Nat} (hw : 0 < w) (v : Nat) : extendTo true w v = (BitVec.ofNat w v).signExtend 64 := by
  have hp : 2 ^ w = 2 * 2 ^ (w - 1) := by rw [← Nat.pow_succ']; congr 1; omega
  rw [extendTo, BitVec.signExtend, BitVec.toInt_eq_toNat_cond, BitVec.toNat_ofNat, intOf, if_pos rfl, sint]
  congr 1
  by_cases hs : v % 2 ^ w < 2 ^ (w - 1)
  · rw [if_pos hs, if_pos (by omega)]
  · rw [if_neg hs, if_neg (by omega)]
    norm_cast

theorem extendTo_unsigned {w : Nat} (v : Nat) : extendTo false w v = (BitVec.ofNat w v).setWidth 64 := by
  rw [extendTo, intOf, if_neg (by decide), BitVec.ofInt_natCast]
  apply BitVec.eq_of_toNat_eq
  rw [BitVec.toNat_ofNat, BitVec.toNat_setWidth, BitVec.toNat_ofNat]

theorem loads_loadOp {s : State} {len : Nat} {h : Hdr} {win : Window} (ty : LoadTy) {w : Nat} {signed : Bool} {d a : Reg}
    {off : Int} (hty : loadWidth ty = (w, signed)) :
    Loads s len h win w signed d a off (loadOp len h win ty d a off s) := by
  unfold loadOp
  have hw : (loadWidth ty).1 = w := by rw [hty]
  have hs : (loadWidth ty).2 = signed := by rw [hty]
  subst hw hs
  rintro ea rfl hr
  have hext : ∀ v, extendTo (loadWidth ty).2 (loadWidth ty).1 v = if (loadWidth ty).2 then
      (BitVec.ofNat (loadWidth ty).1 v).signExtend 64 else (BitVec.ofNat (loadWidth ty).1 v).setWidth 64 := by
    intro v
    cases ty
    case n8 | n16 | n32 => exact extendTo_unsigned v
    all_goals exact extendTo_signed (by decide) v
  refine checked_issue hr rfl (fun b hb hok => ?_)
  have hn : leNat ((s.core s.cur.1).readN b ((loadWidth ty).1 / 8)) = nearNat s b ((loadWidth ty).1 / 8) :=
    readNat_eq_coreNat _ _ _ _
  dsimp only
  rw [← hext, ← hn]
  exact ⟨fun _ hw => traps_read hr hok hw,
    fun hc => givesScalar_issue hr (read_readable hok (readable_of_clean hc)) ((soft_bytesAt rfl hb).trans (softWords_clean hc)),
    corrects_issue (as_ := fun bs => toReg s d (extendTo (loadWidth ty).2 (loadWidth ty).1 (leNat bs))) hr
      (soft_bytesAt rfl hb) hok (latency_gt_one _ _) (fun _ => pairwise_toReg _ _ _)⟩

/-- Settles O12: every load is `loadOp` with its type. -/
theorem scalarLoadsReadTheirBytes : Obligations.ScalarLoadsReadTheirBytes := by
  intro s h gap d a imm lit ty
  simp only [exec_ldI8, exec_ldI16, exec_ldI32, exec_ldI64, exec_ldN8, exec_ldN16, exec_ldN32, exec_ldLong,
    exec_bldI8, exec_bldI16, exec_bldI32, exec_bldI64, exec_bldN8, exec_bldN16, exec_bldN32, exec_bldLong]
  exact ⟨loads_loadOp .i8 rfl, loads_loadOp .i16 rfl, loads_loadOp .i32 rfl, loads_loadOp .i64 rfl,
    loads_loadOp .n8 rfl, loads_loadOp .n16 rfl, loads_loadOp .n32 rfl, loads_loadOp ty rfl,
    loads_loadOp .i8 rfl, loads_loadOp .i16 rfl, loads_loadOp .i32 rfl, loads_loadOp .i64 rfl,
    loads_loadOp .n8 rfl, loads_loadOp .n16 rfl, loads_loadOp .n32 rfl, loads_loadOp ty rfl⟩

/-! ## Stores -/

theorem leBytes_eq_map (n v : Nat) : leBytes n v = (List.range n).map (fun i => BitVec.ofNat 8 (v / 2 ^ (8 * i))) := by
  induction n generalizing v with
  | zero => rfl
  | succ n ih =>
    rw [leBytes, ih, List.range_succ_eq_map, List.map_cons, List.map_map]
    congr 1
    · simp
    · refine List.map_congr_left (fun i _ => congrArg _ ?_)
      rw [show (256 : Nat) = 2 ^ 8 from rfl, Nat.div_div_eq_div_mul, ← Nat.pow_add, Nat.add_comm]
      rfl

/-- The low bytes of a register, the lowest first (R1). -/
theorem leBytes_toNat {w : Nat} (v : BitVec w) (n : Nat) :
    leBytes n v.toNat = (List.range n).map (fun i => v.extractLsb' (8 * i) 8) := by
  rw [leBytes_eq_map]
  refine List.map_congr_left (fun i _ => BitVec.eq_of_toNat_eq ?_)
  rw [BitVec.toNat_ofNat, BitVec.extractLsb'_toNat, Nat.shiftRight_eq_div_pow]

theorem stores_storeOp {s : State} {len : Nat} {h : Hdr} {win : Window} (ty : StoreTy) {w : Nat} {d a : Reg}
    {off : Int} (hty : storeWidth ty = w) : Stores s len h win w d a off (storeOp len h win ty d a off s) := by
  unfold storeOp
  subst hty
  rintro ea rfl hr
  refine checked_issue hr rfl (fun b hb hok => ?_)
  rw [regBytes, ← leBytes_toNat]
  exact givesLater_issue hr hok (soft_nil rfl) (Nat.lt_of_lt_of_le (latency_gt_one _ _) (Nat.le_add_right _ _))
    (List.pairwise_singleton _ _)

/-- Settles O13: every store is `storeOp` with its type. -/
theorem scalarStoresSendTheirBytes : Obligations.ScalarStoresSendTheirBytes := by
  intro s h gap d a imm lit ty
  simp only [exec_stI8, exec_stI16, exec_stI32, exec_stI64, exec_stLong, exec_bstI8, exec_bstI16, exec_bstI32, exec_bstI64,
    exec_bstLong]
  exact ⟨stores_storeOp .i8 rfl, stores_storeOp .i16 rfl, stores_storeOp .i32 rfl, stores_storeOp .i64 rfl,
    stores_storeOp ty rfl, stores_storeOp .i8 rfl, stores_storeOp .i16 rfl, stores_storeOp .i32 rfl,
    stores_storeOp .i64 rfl, stores_storeOp ty rfl⟩

/-! ## Whole registers (R396) -/

theorem vloads_vloadOp {s : State} {len : Nat} {h : Hdr} {win : Window} {d : VecReg} {a : Reg} {off : Int} :
    VLoads s len h win d a off (vloadOp len h win d a off s) := by
  unfold vloadOp
  rintro ea rfl hr
  refine checked_issue hr rfl (fun b hb hok => ?_)
  have hn : bytesLine ((s.core s.cur.1).readN b 64) = BitVec.ofNat 512 (nearNat s b 64) :=
    congrArg (BitVec.ofNat 512) (readNat_eq_coreNat _ _ _ _)
  rw [← hn]
  exact ⟨fun _ hw => traps_read hr hok hw,
    fun hc => givesLater_issue hr (read_readable hok (readable_of_clean hc)) ((soft_bytesAt rfl hb).trans (softWords_clean hc))
      (latency_gt_one _ _) (List.pairwise_singleton _ _),
    corrects_issue (as_ := fun bs => [.vec d.toNat (bytesLine bs)]) hr (soft_bytesAt rfl hb) hok (latency_gt_one _ _)
      (fun _ => List.pairwise_singleton _ _)⟩

theorem vstores_vstoreOp {s : State} {len : Nat} {h : Hdr} {win : Window} {d : VecReg} {a : Reg} {off : Int} :
    VStores s len h win d a off (vstoreOp len h win d a off s) := by
  unfold vstoreOp
  rintro ea rfl hr
  refine checked_issue hr rfl (fun b hb hok => ?_)
  rw [← leBytes_toNat]
  exact givesLater_issue hr hok (soft_nil rfl) (latency_gt_one _ _) (List.pairwise_singleton _ _)

/-- Settles O14: the whole-register forms are `vloadOp` and `vstoreOp`. -/
theorem wholeRegisterMemoryForms : Obligations.WholeRegisterMemoryForms := by
  intro s h gap d a imm lit
  simp only [exec_vld, exec_vldLong, exec_vbld, exec_vbldLong, exec_vst, exec_vstLong, exec_vbst, exec_vbstLong]
  exact ⟨vloads_vloadOp, vloads_vloadOp, vloads_vloadOp, vloads_vloadOp, vstores_vstoreOp, vstores_vstoreOp,
    vstores_vstoreOp, vstores_vstoreOp⟩

end Sys2Proof.Proofs
end


section
/-! PROOFS. Results that take effect at their tick: a core's stores (R26, R175, R178, R254), register results (R26, R27), and
the entries of the tag table (R180, R181). -/

namespace Sys2Proof.Proofs

open Sys2Proof.Machine Sys2Proof.Safety Sys2Proof.Laws

/-! ## What a store does to the words' errors (R178) -/

theorem sget_foldl_serase (l : List Nat) (f : Nat → Nat) (p : Sparse (BitVec 2)) (w : Nat) :
    sget 0 (l.foldl (fun p i => serase p (f i)) p) w = if ∃ i ∈ l, f i = w then 0 else sget 0 p w := by
  induction l generalizing p with
  | nil => simp
  | cons i r ih =>
    rw [List.foldl_cons, ih, sget_serase]
    by_cases h1 : ∃ i ∈ r, f i = w
    · rw [if_pos h1, if_pos (h1.imp fun _ h => ⟨List.mem_cons_of_mem _ h.1, h.2⟩)]
    · by_cases h2 : f i = w
      · rw [if_neg h1, if_pos h2, if_pos ⟨i, List.mem_cons_self, h2⟩]
      · have h3 : ¬ ∃ j ∈ i :: r, f j = w := by
          rintro ⟨j, hj, he⟩
          rcases List.mem_cons.1 hj with rfl | hj
          · exact h2 he
          · exact h1 ⟨j, hj, he⟩
        rw [if_neg h1, if_neg h2, if_neg h3]

/-- Words that lie wholly in a store lose their poison. -/
theorem sget_clearPoison (p : Sparse (BitVec 2)) (a n w : Nat) :
    sget 0 (clearPoison p a n) w = if a ≤ 4 * w ∧ 4 * w + 4 ≤ a + n then 0 else sget 0 p w := by
  have key : (∃ i ∈ List.range ((a + n) / 4 - (a + 3) / 4), (a + 3) / 4 + i = w) ↔ a ≤ 4 * w ∧ 4 * w + 4 ≤ a + n := by
    constructor
    · rintro ⟨i, hi, rfl⟩
      rw [List.mem_range] at hi
      omega
    · rintro ⟨h1, h2⟩
      exact ⟨w - (a + 3) / 4, List.mem_range.2 (by omega), by omega⟩
  rw [clearPoison, sget_foldl_serase]
  simp only [key]

theorem sget_mendWord (p : Sparse (BitVec 2)) (a w : Nat) :
    sget 0 (mendWord p a) w = if w = a / 4 ∧ sget 0 p w = 2 then 0 else sget 0 p w := by
  unfold mendWord
  by_cases hw : a / 4 = w
  · subst hw
    by_cases h : sget 0 p (a / 4) = 2
    · rw [if_pos h, sget_serase, if_pos rfl, if_pos ⟨rfl, h⟩]
    · rw [if_neg h, if_neg (fun h' => h h'.2)]
  · rw [if_neg (fun h : w = a / 4 ∧ _ => hw h.1.symm)]
    split
    · rw [sget_serase, if_neg hw]
    · rfl

/-! ## A store under way -/

/-- Outside an atomic's slot a core's store is written as it is. -/
theorem writeBy_store (c : Core) (t u : Nat) (own : Option Nat) (a : Nat) (bs : List Byte) (sub : Bool) (w : Writer)
    (h : c.ctl.rmw = []) : c.writeBy t u own ⟨3, a, bs, [], sub, w⟩ = c.storeN t a bs sub := by
  rw [Core.writeBy, h]
  rfl

theorem applyPend_store {s : State} {k : Nat} {p : Pend} {a : Nat} {bs : List Byte} {sub : Bool}
    (hp : p.act = .store a bs sub) (hr : (s.core k).ctl.rmw = []) :
    s.applyPend k p = (if sub then s.correct k a bs.length else s).setCore k ((s.core k).storeN (Machine.tierOf k) a bs sub) := by
  have hc : (if sub then s.correct k a bs.length else s).core k = s.core k := by
    cases sub with
    | true => exact count_core _ _ _ _
    | false => rfl
  simp only [State.applyPend, hp, State.modCore, hc]
  rw [writeBy_store _ _ _ _ _ _ _ _ hr]

theorem cores_count (s : State) (k hits : Nat) :
    { s.count k hits with cores := [], cols := [] } = { s with cores := [], cols := [] } := by
  unfold State.count; split <;> rfl

theorem col_count (s : State) (k hits j : Nat) :
    (s.count k hits).col j = if j = columnOf k then { s.col j with corrected := (s.col j).corrected + hits } else s.col j := by
  unfold State.count
  by_cases h0 : hits = 0
  · subst h0
    simp
  · rw [if_neg h0, col_modCol]
    by_cases hj : j = columnOf k
    · rw [if_pos hj.symm, if_pos hj, hj]
    · rw [if_neg (Ne.symm hj), if_neg hj]

/-- Settles O15. -/
theorem storesWriteExactlyTheirBytes : Obligations.StoresWriteExactlyTheirBytes := by
  intro s k p a bs sub hp hr
  rw [applyPend_store hp hr]
  have hk : ∀ (u : State) (c : Core), (u.setCore k c).core k = c := fun u c => by rw [core_setCore, if_pos rfl]
  refine ⟨fun b => ?_, fun w => ?_, ?_, fun j hj => ?_, ?_, fun j => ?_⟩
  · rw [nearByte, hk]
    exact sget_storeBytes _ _ _ _ _
  · rw [hk]
    cases sub with
    | true => simpa [Core.storeN] using sget_mendWord _ a w
    | false => simpa [Core.storeN] using sget_clearPoison _ a bs.length w
  · rw [hk]
    rfl
  · rw [core_setCore, if_neg (Ne.symm hj)]
    cases sub with
    | true => exact count_core _ _ _ _
    | false => rfl
  · cases sub with
    | true => exact cores_count s k _
    | false => rfl
  · cases sub with
    | true =>
      simp only [true_and]
      exact col_count s k _ j
    | false => simp [State.col, State.setCore]

/-! ## Register results (R26, R27) -/

theorem checkMonitors_unwatched {s : State} {k : Nat} {acts : List Act}
    (h : ∀ j, j < 4 → ((s.core k).ctx j).monitor = none) : s.checkMonitors k acts = s := by
  have h' : ∀ j, j < 4 → (s.ctx (k, j)).monitor = none := h
  simp [State.checkMonitors, h']

/-- A core whose one result is due by a tick, and whose contexts watch no word: the result takes effect, and nothing else. -/
theorem settle_one {s : State} {k t : Nat} {p : Pend} {f : Ctx → Ctx} (hp : (s.core k).pend = [p]) (ht : p.due ≤ t)
    (hm : ∀ j, j < 4 → ((s.core k).ctx j).monitor = none) (hf : ∀ x, (f x).monitor = x.monitor)
    (ha : ∀ u : State, u.applyPend k p = u.modCtx (k, p.ctx) f) :
    ((s.settle k t).core k).ctx p.ctx = f ((s.core k).ctx p.ctx) := by
  have hs : s.settleN k t (fun _ => true) 66 = (s.modCore k (fun c => { c with pend := [] })).modCtx (k, p.ctx) f := by
    rw [State.settleN, hp]
    simp only [ht, and_self, if_true, ha]
    rw [State.settleN]
    simp [State.modCtx, Core.modCtx, Core.setCtx]
  have hctx : ∀ j, ((s.settleN k t (fun _ => true) 66).core k).ctx j
      = if p.ctx = j then f ((s.core k).ctx p.ctx) else (s.core k).ctx j := by
    intro j
    rw [hs, State.modCtx, core_modCore_same, core_modCore_same, ctx_modCtx]
    rfl
  have hmon : ∀ j, j < 4 → (((s.settleN k t (fun _ => true) 66).core k).ctx j).monitor = none := by
    intro j hj
    rw [hctx]
    split
    · next h => rw [hf, h, hm j hj]
    · exact hm j hj
  rw [State.settle, hp]
  simp only [ht, if_true, List.length_singleton]
  rw [checkMonitors_unwatched hmon, hctx, if_pos rfl]

/-- A predicate's bits after a write of one of them. -/
theorem getLsbD_writePred (p : BitVec 8) (i : Nat) (b : Bool) (hi : i < 8) (j : Nat) :
    (if b then p ||| (1#8 <<< i) else p &&& ~~~(1#8 <<< i)).getLsbD j = if j = i then b else p.getLsbD j := by
  by_cases hj : j < 8
  · by_cases hij : j = i
    · subst hij
      cases b <;> simp [hi]
    · rw [if_neg hij]
      cases b <;> simp [hj] <;> omega
  · have hij : j ≠ i := by omega
    rw [if_neg hij, BitVec.getLsbD_of_ge _ _ (by omega), BitVec.getLsbD_of_ge _ _ (by omega)]

/-- Settles O16. -/
theorem resultsAppearAtTheirTick : Obligations.ResultsAppearAtTheirTick := by
  intro s k t p hp
  refine ⟨fun ht => settle_idle s k t (by simpa [hp] using ht), fun ht i v l b f => ?_⟩
  intro c x _ hm
  refine ⟨fun ha => ?_, fun ha => ?_, fun ha => ?_, fun ha hi j => ?_, fun ha => ?_, fun ha => ?_⟩
  · exact settle_one (f := fun x => { x with g := sset 0 x.g i v }) hp ht hm (fun _ => rfl)
      (fun u => by simp only [State.applyPend, ha]; rfl)
  · exact settle_one (f := fun x => { x with stack := sset 0 x.stack i v }) hp ht hm (fun _ => rfl)
      (fun u => by simp only [State.applyPend, ha]; rfl)
  · exact settle_one (f := fun x => { x with v := sset 0 x.v i l }) hp ht hm (fun _ => rfl)
      (fun u => by simp only [State.applyPend, ha]; rfl)
  · have h := settle_one (f := fun x => { x with p := if b then x.p ||| (1#8 <<< i) else x.p &&& ~~~(1#8 <<< i) }) hp ht hm
      (fun _ => rfl) (fun u => by simp only [State.applyPend, ha]; rfl)
    exact (congrArg (fun y : Ctx => y.p.getLsbD j) h).trans (getLsbD_writePred x.p i b hi j)
  · exact settle_one (f := fun x => { x with flags := x.flags ||| f }) hp ht hm (fun _ => rfl)
      (fun u => by simp only [State.applyPend, ha]; rfl)
  · exact settle_one (f := fun x => { x with flags := f }) hp ht hm (fun _ => rfl)
      (fun u => by simp only [State.applyPend, ha]; rfl)

/-! ## The tag table (R180, R181) -/

/-- A ready instruction that changes the state at issue and puts its results under way. -/
theorem later_issue {n : Need} {body : State → Except Trap Done} {s s' : State} {lat : Nat} {as_ : List Act}
    (h : Ready n s) (hb : body s = done s' lat as_) (hs : n.soft s = 0) (hl : 1 < lat)
    (hd : as_.Pairwise (fun a b => sameTarget b a = false)) (hcur : s'.cur = s.cur) (hnow : s'.now = s.now)
    (hp : (s'.core s.cur.1).pend = (s.core s.cur.1).pend) :
    Answers (issue n body s) (fun t => Frame { core := fun c => { c with pend := [] } } s' t ∧ UnderWay s lat as_ t) := by
  obtain ⟨h1, h2⟩ := deliver_later s' lat as_ hl hd
  have hr := Frame_retire { n with unit := idleUnit n s } (s'.deliver s'.cur lat as_) .next true (by simp)
  have hu : UnderWay s lat as_ (s'.deliver s'.cur lat as_) := by
    obtain ⟨a1, a2, a3⟩ := h2
    have hdue : dueAt s' lat = dueAt s lat := by simp [dueAt, hcur, hnow]
    rw [hcur, hdue] at a1 a2
    rw [hcur] at a3
    rw [hp] at a2 a3
    rw [hcur]
    exact ⟨a1, a2, a3⟩
  exact ⟨_, issue_clean h hb hs, Frame_trans h1 (Frame_weaken hr), UnderWay_frame hu hcur hr⟩

theorem Frame_pending {w : Writes} {s t : State} (hw : ∀ c : Core, w.core { c with pend := [] } = w.core c)
    (h : Frame { core := fun c => { c with pend := [] } } s t) : Frame w s t := by
  obtain ⟨a1, a2, a3, a4, a5, a6, a7⟩ := h
  exact ⟨congrArg w.machine a1, a2, a3, a4, congrArg w.ctx a5,
    (hw _).symm.trans ((congrArg w.core a6).trans (hw _)), fun a _ => a7 a rfl⟩

/-- The tag table and the victim pointers hidden. -/
def tagWrites : Writes := { core := fun c => { c with pend := [], tags := [], vptr := [] } }

theorem tags_pending {s t : State} (h : Frame { core := fun c => { c with pend := [] } } s t) :
    (t.core s.cur.1).tags = (s.core s.cur.1).tags ∧ (t.core s.cur.1).vptr = (s.core s.cur.1).vptr :=
  ⟨(congrArg Core.tags h.core :), (congrArg Core.vptr h.core :)⟩

/-- A ready instruction that changes the tag table or the victim pointers and gives a scalar result at latency two. -/
theorem tag_issue {n : Need} {body : State → Except Trap Done} {s : State} {d : Reg} {v : DWord} {f : Core → Core}
    (h : Ready n s) (hb : body s = done (s.modCore s.cur.1 f) 2 (toReg s d v)) (hs : n.soft s = 0)
    (hf : ∀ c, ∃ l m, f c = { c with tags := l, vptr := m }) :
    Answers (issue n body s) (fun t => Frame tagWrites s t ∧ UnderWay s 2 (toReg s d v) t
      ∧ (t.core s.cur.1).tags = (f (s.core s.cur.1)).tags ∧ (t.core s.cur.1).vptr = (f (s.core s.cur.1)).vptr) := by
  have hpend : ((s.modCore s.cur.1 f).core s.cur.1).pend = (s.core s.cur.1).pend := by
    obtain ⟨l, m, hc⟩ := hf (s.core s.cur.1)
    rw [core_modCore_same, hc]
  have hframe : Frame tagWrites s (s.modCore s.cur.1 f) := by
    refine Frame_core f (fun c => ?_) (fun c a _ => ?_) (fun c => ?_)
    all_goals
      obtain ⟨l, m, hc⟩ := hf c
      rw [hc]
    rfl
  obtain ⟨t, ht, h1, h2⟩ := later_issue (s' := s.modCore s.cur.1 f) h hb hs (by decide) (pairwise_toReg s d v) rfl rfl hpend
  obtain ⟨h3, h4⟩ := tags_pending h1
  refine ⟨t, ht, Frame_trans hframe (Frame_pending (fun _ => rfl) h1), h2, ?_, ?_⟩
  · exact h3.trans (congrArg Core.tags (core_modCore_same s s.cur.1 f))
  · exact h4.trans (congrArg Core.vptr (core_modCore_same s s.cur.1 f))

theorem answers_imp {o : Host.Outcome State Fault Refusal} {p q : State → Prop} (h : Answers o p) (hpq : ∀ t, p t → q t) :
    Answers o q :=
  h.imp fun t ht => ⟨ht.1, hpq t ht.2⟩

/-- A ready instruction that leaves both and gives a scalar result at latency two. -/
theorem look_issue {n : Need} {body : State → Except Trap Done} {s : State} {d : Reg} {v : DWord}
    (h : Ready n s) (hb : body s = done s 2 (toReg s d v)) (hs : n.soft s = 0) :
    Answers (issue n body s) (fun t => Frame tagWrites s t ∧ UnderWay s 2 (toReg s d v) t
      ∧ (t.core s.cur.1).tags = (s.core s.cur.1).tags ∧ (t.core s.cur.1).vptr = (s.core s.cur.1).vptr) := by
  obtain ⟨t, ht, h1, h2⟩ := later_issue h hb hs (by decide) (pairwise_toReg s d v) rfl rfl rfl
  exact ⟨t, ht, Frame_pending (fun _ => rfl) h1, h2, tags_pending h1⟩

theorem lineAddr_eq (v : DWord) : lineAddr v = v.toNat / 2 ^ 9 % 2 ^ 48 := rfl

/-- The first way of a set with a property. -/
theorem find_way_some {p : Nat → Bool} {v : Nat} (hv : v < 4) (hp : p v = true) (h : ∀ u, u < v → p u = false) :
    [0, 1, 2, 3].find? p = some v := by
  refine List.find?_eq_some_iff_getElem.2 ⟨hp, v, hv, ?_, fun j hj => ?_⟩
  · exact (by decide : ∀ v, (h : v < 4) → [0, 1, 2, 3][v] = v) v hv
  · have := (by decide : ∀ v, (h : v < 4) → [0, 1, 2, 3][v] = v) j (by omega)
    rw [this, h j hj]
    rfl

theorem find_way_none {p : Nat → Bool} (h : ∀ u, u < 4 → p u = false) : [0, 1, 2, 3].find? p = none := by
  refine List.find?_eq_none.2 (fun u hu => ?_)
  rw [h u (by simp at hu; omega)]
  decide

section
variable {c : Core} {set la v : Nat}

/-- A way of a set holds a line: its entry is valid and of that line address. -/
def holdsLine (c : Core) (set la v : Nat) : Prop :=
  (sget 0 c.tags (4 * set + v)).getLsbD 63 = true ∧ (sget 0 c.tags (4 * set + v)).toNat / 2 ^ 9 % 2 ^ 48 = la

theorem hit_iff : ((c.tag (4 * set + v)).getLsbD 63 && lineAddr (c.tag (4 * set + v)) == la) = true
    ↔ holdsLine c set la v := by
  rw [Bool.and_eq_true, beq_iff_eq]
  rfl

theorem tagHit_some (hv : v < 4) (h : holdsLine c set la v) (hu : ∀ u, u < v → ¬ holdsLine c set la u) :
    tagHit c set la = some v :=
  find_way_some hv (hit_iff.2 h) (fun u hlt => Bool.eq_false_iff.2 (fun he => hu u hlt (hit_iff.1 he)))

theorem tagHit_none (h : ∀ u, u < 4 → ¬ holdsLine c set la u) : tagHit c set la = none :=
  find_way_none (fun u hlt => Bool.eq_false_iff.2 (fun he => h u hlt (hit_iff.1 he)))

theorem tagVictim_free (hv : v < 4) (h : (sget 0 c.tags (4 * set + v)).getLsbD 63 = false)
    (hu : ∀ u, u < v → (sget 0 c.tags (4 * set + u)).getLsbD 63 = true) : tagVictim c set = (v, false) := by
  rw [tagVictim, find_way_some hv]
  · exact (congrArg (!·) h :)
  · exact fun u hlt => (congrArg (!·) (hu u hlt) :)

theorem tagVictim_pointer (h : ∀ u, u < 4 → (sget 0 c.tags (4 * set + u)).getLsbD 63 = true) :
    tagVictim c set = ((sget 0 c.vptr set).toNat, true) := by
  rw [tagVictim, find_way_none]
  exact fun u hlt => (congrArg (!·) (h u hlt) :)

end

/-- The core with its tag entry of a slot replaced. -/
def withTag (slot : Nat) (v : DWord) (c : Core) : Core := { c with tags := sset 0 c.tags slot v }

/-- The core with a set's victim pointer on the next way. -/
def withNextVictim (set : Nat) (c : Core) : Core :=
  { c with vptr := sset 0 c.vptr set (BitVec.ofNat 2 ((sget 0 c.vptr set).toNat + 1)) }

theorem nextVictim_eq (p : BitVec 2) : BitVec.ofNat 2 (p.toNat + 1) = p + 1 := by revert p; decide

/-- Settles O17: the look-up's way is the first of its set with the property that R180 and R181 name. -/
theorem tagTableEffects : Obligations.TagTableEffects := by
  intro s h d a b
  simp only [exec_blook, exec_btag, exec_binv]
  refine ⟨fun hr => ⟨fun v hv hit hu => ?_, fun hu v hv hfree hfull => ?_, fun hu => ?_⟩,
    fun hr => ⟨fun hn => ?_, fun hn hs => ?_, fun hn hs => ?_⟩, fun hr => ⟨fun hn => ?_, fun hn => ?_⟩⟩
  · refine answers_imp (look_issue hr ?_ (soft_nil rfl)) (fun t ⟨h1, h2, h3, h4⟩ => ⟨h1, h2, h3, fun i => by rw [h4]; simp⟩)
    simp only [lineAddr_eq, tagHit_some hv hit hu]
  · refine answers_imp (look_issue hr ?_ (soft_nil rfl)) (fun t ⟨h1, h2, h3, h4⟩ => ⟨h1, h2, h3, fun i => by rw [h4]; simp⟩)
    simp only [lineAddr_eq, tagHit_none hu, tagVictim_free hv hfree hfull, Nat.add_assoc]
    rfl
  · refine answers_imp (tag_issue (d := d) (f := withNextVictim (lineAddr (rv s a) % (Config.tagEntries s.tier / 4)))
      (v := BitVec.ofNat 64 (2 ^ 63 + 4 * (lineAddr (rv s a) % (Config.tagEntries s.tier / 4))
        + (sget 0 (s.core s.cur.1).vptr (lineAddr (rv s a) % (Config.tagEntries s.tier / 4))).toNat)) hr ?_ (soft_nil rfl) (fun c => ⟨_, _, rfl⟩)) ?_
    · simp only [lineAddr_eq, tagHit_none (fun u hlt => (hu u hlt).1), tagVictim_pointer (fun u hlt => (hu u hlt).2),
        Nat.add_assoc]
      rfl
    · rintro t ⟨h1, h2, h3, h4⟩
      refine ⟨h1, h2, h3, fun i => ?_⟩
      rw [h4, withNextVictim, sget_sset, nextVictim_eq]
      simp only [true_and, eq_comm, lineAddr_eq]
  · exact issue_trap hr (by simp only [if_pos hn])
  · exact issue_trap hr (by simp only [if_neg (Nat.not_le.2 hn), lineAddr_eq, ne_eq, hs, not_false_eq_true, if_true])
  · refine answers_imp (tag_issue (d := d) (f := withTag (rv s a).toNat (BitVec.ofNat 64 (2 ^ 63 + (rv s b).toNat % 2 ^ 57)))
      (v := sget 0 (s.core s.cur.1).tags (rv s a).toNat) hr ?_ (soft_nil rfl) (fun c => ⟨_, _, rfl⟩)) ?_
    · simp only [if_neg (Nat.not_le.2 hn), lineAddr_eq, ne_eq, hs, not_true_eq_false, if_false]
      rfl
    · rintro t ⟨h1, h2, h3, h4⟩
      refine ⟨h1, h2, fun i => ?_, h4⟩
      rw [h3, withTag, sget_sset]
      simp only [eq_comm]
  · exact issue_trap hr (by simp only [if_pos hn])
  · refine answers_imp (tag_issue (d := d) (f := withTag (rv s a).toNat 0)
      (v := sget 0 (s.core s.cur.1).tags (rv s a).toNat) hr ?_ (soft_nil rfl) (fun c => ⟨_, _, rfl⟩)) ?_
    · simp only [if_neg (Nat.not_le.2 hn)]
      rfl
    · rintro t ⟨h1, h2, h3, h4⟩
      refine ⟨h1, h2, fun i => ?_, h4⟩
      rw [h3, withTag, sget_sset]
      simp only [eq_comm]

end Sys2Proof.Proofs
end


section
/-! PROOFS. System registers and idempotent regions (R68 to R74, R266, R345, R388, R389): what SYSR reads, what SYSW writes, and
the regions that IDEM opens and closes. -/

namespace Sys2Proof.Proofs

open Sys2Proof.Machine Sys2Proof.Safety Sys2Proof.Laws

/-! ## Selectors (R68) -/

theorem stackSize_le (t : Nat) : Config.stackSize t ≤ 1024 := by
  unfold Config.stackSize; split <;> [skip; split <;> [skip; split]] <;> omega

theorem selOk_iff (t sel : Nat) :
    selOk t sel = true ↔ sel < 0x00B ∨ (0x010 ≤ sel ∧ sel < 0x014) ∨ (0x400 ≤ sel ∧ sel < 0x400 + Config.stackSize t) := by
  have := stackSize_le t
  unfold selOk
  by_cases h : 0x400 ≤ sel
  · rw [if_pos h, Bool.and_eq_true, decide_eq_true_iff, decide_eq_true_iff]
    omega
  · rw [if_neg h, Bool.or_eq_true, Bool.and_eq_true, decide_eq_true_iff, decide_eq_true_iff, decide_eq_true_iff]
    omega

theorem selC0_iff (sel : Nat) : selC0 sel = true ↔ 0x010 ≤ sel ∧ sel < 0x014 := by
  rw [selC0, Bool.and_eq_true, decide_eq_true_iff, decide_eq_true_iff]
  omega

theorem selWritable_iff (sel : Nat) : selWritable sel = true ↔ 0x400 ≤ sel ∨ sel ∈ [0x001, 0x002, 0x004, 0x005, 0x006] := by
  rw [selWritable, Bool.or_eq_true, decide_eq_true_iff, List.contains_iff_mem]

/-- The need of a selector that may be read: nothing but its own waits. -/
theorem sysNeed_read {len sel : Nat} {h : Hdr} {d : Reg} {s : State} (hok : selOk s.tier sel = true)
    (hc : selC0 sel = false ∨ s.cur.2 = 0) :
    sysNeed len h sel false d s = { len := len, hdr := h, rd := [d], reads := selReads sel } := by
  have hp : (if selC0 sel && s.cur.2 != 0 then some sel else none) = none := by
    rcases hc with hc | hc <;> simp [hc]
  simp only [sysNeed, hok, hp]
  rfl

theorem sysNeed_write {len sel : Nat} {h : Hdr} {d : Reg} {s : State} (hok : selOk s.tier sel = true)
    (hw : selWritable sel = true) (hc : selC0 sel = false) :
    sysNeed len h sel true d s = { len := len, hdr := h, rs := [d] } := by
  simp only [sysNeed, hok, hw, hc]
  rfl

theorem sysNeed_ill {len sel : Nat} {h : Hdr} {w : Bool} {d : Reg} {s : State}
    (hi : selOk s.tier sel = false ∨ (w = true ∧ selWritable sel = false)) : (sysNeed len h sel w d s).ill = true := by
  rcases hi with hi | ⟨rfl, hi⟩ <;> simp [sysNeed, hi]

/-! ## CTAB as it was written last (R68, R72) -/

/-- A half of a code table. -/
def ctabHalf (hi : Bool) (t : BitVec 128) : DWord := t.extractLsb' (if hi then 64 else 0) 64

theorem ctabHalf_putCtab (t : BitVec 128) (a b : Bool) (v : DWord) :
    ctabHalf b (putCtab t a v) = if a = b then v else ctabHalf b t := by
  cases a with
  | false => cases b with
    | false => exact BitVec.extractLsb'_append_eq_right
    | true => exact BitVec.extractLsb'_append_eq_left
  | true => cases b with
    | false => exact BitVec.extractLsb'_append_eq_right
    | true => exact BitVec.extractLsb'_append_eq_left

/-- One result under way seen by SYSR of CTAB. -/
def ctabStep (t : BitVec 128) (p : Pend) : BitVec 128 :=
  match p.act with
  | .ctab hi v => putCtab t hi v
  | _ => t

theorem ctabWritten_eq (c : Core) : c.ctabWritten = c.pend.foldl ctabStep c.ctab := rfl

theorem ctabHalf_step {t : BitVec 128} {p : Pend} {hi : Bool} (h : ∀ u, p.act ≠ .ctab hi u) :
    ctabHalf hi (ctabStep t p) = ctabHalf hi t := by
  unfold ctabStep
  split
  · next b v hb =>
    rw [ctabHalf_putCtab, if_neg]
    rintro rfl
    exact h v hb
  · rfl

theorem ctabHalf_unwritten {l : List Pend} {hi : Bool} (h : ∀ e ∈ l, ∀ u, e.act ≠ .ctab hi u) (t : BitVec 128) :
    ctabHalf hi (l.foldl ctabStep t) = ctabHalf hi t := by
  induction l generalizing t with
  | nil => rfl
  | cons p r ih =>
    rw [List.foldl_cons, ih (fun e he => h e (List.mem_cons_of_mem _ he)), ctabHalf_step (h p List.mem_cons_self)]

theorem ctabHalf_written {l₁ l₂ : List Pend} {e : Pend} {hi : Bool} {v : DWord} (he : e.act = .ctab hi v)
    (h : ∀ e' ∈ l₂, ∀ u, e'.act ≠ .ctab hi u) (t : BitVec 128) :
    ctabHalf hi ((l₁ ++ e :: l₂).foldl ctabStep t) = v := by
  rw [List.foldl_append, List.foldl_cons, ctabHalf_unwritten h, ctabStep, he, ctabHalf_putCtab, if_pos rfl]

/-! ## SYSR -/

theorem sysRead_stack (s : State) (n : Nat) : sysRead s (0x400 + n) = sget 0 (s.ctx s.cur).stack n := by
  unfold sysRead
  split
  case h_16 => rw [Nat.add_sub_cancel_left]
  all_goals omega

/-- SYSR of an assigned selector, of c0's own in c0 alone, gives what the selector reads. -/
theorem givesScalar_sysrOp {s : State} {len sel : Nat} {h : Hdr} {d : Reg} {v : DWord} (hok : selOk s.tier sel = true)
    (hc : selC0 sel = false ∨ s.cur.2 = 0) (hr : Ready { len := len, hdr := h, rd := [d], reads := selReads sel } s)
    (hv : sysRead s sel = v) : GivesScalar s 1 d v (sysrOp len h d sel s) := by
  rw [sysrOp, sysNeed_read hok hc]
  exact givesScalar_issue hr (by rw [hv]) (soft_nil rfl)

theorem trap_value (o : Option Nat) (v : DWord) : (if o.isSome then v else 0) = if o = none then 0 else v := by
  cases o <;> simp

/-- Settles O19: both formats are `sysrOp`, and each selector reads its value. -/
theorem sysrReadsItsRegister : Obligations.SysrReadsItsRegister := by
  intro s h gap d imm lit sel hsel x c reads
  simp only [exec_sysr, exec_sysrLong]
  have key : ∀ len h, reads len h (sysrOp len h d sel s) := by
    intro len h
    refine ⟨fun hi => traps_illop (sysNeed_ill (.inl ?_)), fun h1 h2 h3 h4 => ?_, fun hr => ?_⟩
    · rw [Bool.eq_false_iff, ne_eq, selOk_iff]
      have := stackSize_le s.tier
      omega
    · have hok : selOk s.tier sel = true := (selOk_iff _ _).2 (.inr (.inl ⟨h1, h2⟩))
      exact issue_priv (by simp [illegal, sysNeed, hok, h4, x]) (by simp [sysNeed, (selC0_iff sel).2 ⟨h1, h2⟩, h3])
    · have low : ∀ n v, n < 0x00B → sel = n → sysRead s n = v → GivesScalar s 1 d v (sysrOp len h d sel s) := by
        rintro n v hn rfl hv
        refine givesScalar_sysrOp ((selOk_iff _ _).2 (.inl hn)) (.inl (Bool.eq_false_iff.2 (fun hc => ?_))) hr hv
        have := (selC0_iff sel).1 hc
        omega
      have own : s.cur.2 = 0 → ∀ n v, 0x010 ≤ n → n < 0x014 → sel = n → sysRead s n = v →
          GivesScalar s 1 d v (sysrOp len h d sel s) := by
        rintro h0 n v h1 h2 rfl hv
        exact givesScalar_sysrOp ((selOk_iff _ _).2 (.inr (.inl ⟨h1, h2⟩))) (.inr h0) hr hv
      refine ⟨fun e => low 0 _ (by decide) e rfl, fun e => low 1 _ (by decide) e rfl, fun e => low 2 _ (by decide) e rfl,
        fun e _ => low 3 _ (by decide) e ?_, fun e => low 4 _ (by decide) e rfl, fun hi e => ?_,
        fun e => low 7 _ (by decide) e ?_, fun e => low 8 _ (by decide) e rfl, fun e => low 9 _ (by decide) e rfl,
        fun e => low 10 _ (by decide) e rfl, fun h0 => ?_, fun n e hn => ?_⟩
      · exact congrArg (BitVec.ofNat 64) (congrArg (x.wbase.toNat + ·) (Nat.mul_comm _ _))
      · have hread : ∀ v, ctabHalf hi c.ctabWritten = v → GivesScalar s 1 d v (sysrOp len h d sel s) := by
          intro v hv
          cases hi with
          | false => exact low 5 v (by decide) e hv
          | true => exact low 6 v (by decide) e hv
        refine ⟨fun p1 p2 p v hp ha hlast => hread v ?_, fun hnone => hread _ ?_⟩
        · rw [ctabWritten_eq, hp, ctabHalf_written ha hlast]
        · rw [ctabWritten_eq, ctabHalf_unwritten hnone, ctabHalf]
      · show repWord x.rep = _
        cases x.rep with
        | none => rfl
        | some r => simp only [repWord, Nat.mul_comm]
      · exact ⟨fun e => own h0 0x010 _ (by decide) (by decide) e (trap_value _ _),
          fun e => own h0 0x011 _ (by decide) (by decide) e (trap_value _ _),
          fun e => own h0 0x012 _ (by decide) (by decide) e (trap_value _ _),
          fun e => own h0 0x013 _ (by decide) (by decide) e (trap_value _ _)⟩
      · have hok : selOk s.tier sel = true := (selOk_iff _ _).2 (.inr (.inr (by omega)))
        refine givesScalar_sysrOp hok (.inl (Bool.eq_false_iff.2 (fun hc => ?_))) hr (e ▸ sysRead_stack s n)
        have := (selC0_iff sel).1 hc
        omega
  refine ⟨fun e => ?_, fun e => ?_⟩
  · rw [execSysr, e]
    exact key 1 (gapHdr gap)
  · rw [execSysrLong, e]
    exact key 3 h

/-! ## SYSW -/

/-- A ready instruction whose effect is one result at latency one in its context. -/
theorem now_issue {n : Need} {body : State → Except Trap Done} {s : State} {w : Writes} {a : Act} (f : Ctx → Ctx)
    (hr : Ready n s) (hb : body s = done s 1 [a]) (hs : n.soft s = 0)
    (ha : ∀ c, applyAct (Machine.tierOf s.cur.1) c s.cur.2 a = c.modCtx s.cur.2 f)
    (hc : ∀ c : Core, w.core { c with pend := [] } = w.core c) (hf : ∀ x, w.ctx (placeless (f x)) = w.ctx (placeless x)) :
    Answers (issue n body s) (fun t => Frame w s t ∧ placeless (t.ctx s.cur) = placeless (f (s.ctx s.cur))) := by
  obtain ⟨h1, h2⟩ := Frame_now hc s 1 a f (by decide) ha hf
  have hrt := Frame_retire { n with unit := idleUnit n s } (s.deliver s.cur 1 [a]) .next true (by simp)
  refine ⟨_, issue_clean hr hb hs, Frame_trans h1 (Frame_weaken hrt), ?_⟩
  have := hrt.context
  rw [← h2]
  exact this

theorem vloOk_iff (t : Nat) (x : Ctx) (v : Nat) :
    vloOk t x v = true ↔ v ≤ x.wbase.toNat ∧ x.wbase.toNat + x.frame ≤ v + Config.stackSize t := by
  rw [vloOk, Bool.and_eq_true, decide_eq_true_iff, decide_eq_true_iff]

/-- The effect of SYSW on a selector. -/
def syswBody (d : Reg) (sel : Nat) (s : State) : Except Trap Done :=
  match sel with
  | 0x001 => done s 1 [.ftz ((rv s d).getLsbD 0)]
  | 0x002 => done s 1 [.setFlags ((rv s d).setWidth 6)]
  | 0x004 =>
    if vloOk s.tier (s.ctx s.cur) ((rv s d).toNat % 2 ^ 32) then done s 1 [.vlo ((rv s d).setWidth 32)]
    else .error (.of .illop)
  | 0x005 => done s 2 [.ctab false (rv s d)]
  | 0x006 => done s 2 [.ctab true (rv s d)]
  | _ => done s 1 [.entry (sel - 0x400) (rv s d)]

theorem syswBody_stack (d : Reg) (n : Nat) (s : State) : syswBody d (0x400 + n) s = done s 1 [.entry n (rv s d)] := by
  unfold syswBody
  split
  case h_6 => rw [Nat.add_sub_cancel_left]
  all_goals omega

theorem syswOp_eq (s : State) (len : Nat) (h : Hdr) (d : Reg) (sel : Nat) :
    syswOp len h d sel s = issue (sysNeed len h sel true d s) (syswBody d sel) s := rfl

theorem syswOp_writable {s : State} {len sel : Nat} {h : Hdr} {d : Reg} (hw : selWritable sel = true)
    (hs : sel < 0x400 + Config.stackSize s.tier) :
    syswOp len h d sel s = issue { len := len, hdr := h, rs := [d] } (syswBody d sel) s := by
  have hsel := (selWritable_iff sel).1 hw
  have hok : selOk s.tier sel = true := by
    refine (selOk_iff _ _).2 (hsel.elim (fun h1 => .inr (.inr ⟨h1, hs⟩)) (fun h1 => .inl ?_))
    simp only [List.mem_cons, List.not_mem_nil, or_false] at h1
    omega
  have hc : selC0 sel = false := by
    refine Bool.eq_false_iff.2 (fun hc => ?_)
    have h2 := (selC0_iff sel).1 hc
    simp only [List.mem_cons, List.not_mem_nil, or_false] at hsel
    omega
  rw [syswOp_eq, sysNeed_write hok hw hc]

/-- Settles O20: both formats are `syswOp`, and each writable selector takes the value. -/
theorem syswWritesItsRegister : Obligations.SyswWritesItsRegister := by
  intro s h gap d imm lit sel hsel x v low fits writes needs
  simp only [exec_sysw, exec_syswLong]
  have key : ∀ len h, needs len h (syswOp len h d sel s) := by
    intro len h
    refine ⟨fun hi => traps_illop (sysNeed_ill ?_), fun hr => ?_⟩
    · rcases hi with ⟨h1, h2⟩ | h1
      · refine .inr ⟨rfl, Bool.eq_false_iff.2 (fun hw => ?_)⟩
        rcases (selWritable_iff sel).1 hw with h3 | h3
        · omega
        · exact h1 h3
      · refine .inl (Bool.eq_false_iff.2 (fun hok => ?_))
        have := (selOk_iff _ _).1 hok
        omega
    · have named : ∀ n, n ∈ [0x001, 0x002, 0x004, 0x005, 0x006] → sel = n →
          syswOp len h d sel s = issue { len := len, hdr := h, rs := [d] } (syswBody d n) s := by
        rintro n hn rfl
        refine syswOp_writable ((selWritable_iff _).2 (.inr hn)) ?_
        simp only [List.mem_cons, List.not_mem_nil, or_false] at hn
        omega
      refine ⟨fun e => ?_, fun e => ?_, fun e hfit => ?_, fun e hfit => ?_, fun e => ?_, fun e => ?_, fun n e hn => ?_⟩
      · rw [named _ (by decide) e]
        exact answers_imp (now_issue (fun y => { y with ftz := v.getLsbD 0 }) hr rfl (soft_nil rfl) (fun _ => rfl)
          (fun _ => rfl) (fun _ => rfl)) (fun t ⟨h1, h2⟩ => ⟨h1, (congrArg Ctx.ftz h2 :)⟩)
      · rw [named _ (by decide) e]
        exact answers_imp (now_issue (fun y => { y with flags := v.setWidth 6 }) hr rfl (soft_nil rfl) (fun _ => rfl)
          (fun _ => rfl) (fun _ => rfl)) (fun t ⟨h1, h2⟩ => ⟨h1, (congrArg Ctx.flags h2 :)⟩)
      · rw [named _ (by decide) e]
        have hb : syswBody d 0x004 s = done s 1 [.vlo (v.setWidth 32)] := if_pos ((vloOk_iff _ _ _).2 hfit)
        exact answers_imp (now_issue (fun y => { y with vlo := v.setWidth 32 }) hr hb (soft_nil rfl) (fun _ => rfl)
          (fun _ => rfl) (fun _ => rfl)) (fun t ⟨h1, h2⟩ => ⟨h1, (congrArg Ctx.vlo h2 :)⟩)
      · rw [named _ (by decide) e]
        exact issue_trap hr (if_neg (fun hv => hfit ((vloOk_iff _ _ _).1 hv)))
      · rw [named _ (by decide) e]
        exact givesLater_issue hr rfl (soft_nil rfl) (by decide) (List.pairwise_singleton _ _)
      · rw [named _ (by decide) e]
        exact givesLater_issue hr rfl (soft_nil rfl) (by decide) (List.pairwise_singleton _ _)
      · subst e
        rw [syswOp_writable ((selWritable_iff _).2 (.inl (Nat.le_add_right _ _))) (by omega)]
        refine answers_imp (now_issue (fun y => { y with stack := sset 0 y.stack n v }) hr (syswBody_stack d n s)
          (soft_nil rfl) (fun _ => rfl) (fun _ => rfl) (fun _ => rfl)) (fun t ⟨h1, h2⟩ => ⟨h1, fun i => ?_⟩)
        have hst : (t.ctx s.cur).stack = sset 0 x.stack n v := (congrArg Ctx.stack h2 :)
        rw [hst, sget_sset]
        simp only [eq_comm]
  refine ⟨fun e => ?_, fun e => ?_⟩
  · rw [execSysw, e]
    exact key 1 (gapHdr gap)
  · rw [execSyswLong, e]
    exact key 3 h

/-! ## Regions (R266, R345) -/

theorem idemNeed_ill {h : Hdr} {b : Bool} {s : State}
    (hb : inStep s = true ∨ ∃ r, (s.ctx s.cur).rep = some r ∧ r.next = (s.ctx s.cur).pc) : (idemNeed h b s).ill = true := by
  rcases hb with hb | ⟨r, hr, hn⟩
  · simp [idemNeed, hb]
  · simp [idemNeed, hr, hn]

theorem idemNeed_legal {h : Hdr} {b : Bool} {s : State}
    (hb : ¬ (inStep s = true ∨ ∃ r, (s.ctx s.cur).rep = some r ∧ r.next = (s.ctx s.cur).pc)) :
    idemNeed h b s = { len := 3, hdr := h, reads := if b then ckptReads else fun _ => false } := by
  obtain ⟨h1, h2⟩ := not_or.1 hb
  have hill : (idemNeed h b s).ill = false := by
    refine Bool.or_eq_false_iff.2 ⟨Bool.eq_false_iff.2 h1, ?_⟩
    cases hr : (s.ctx s.cur).rep with
    | none => rfl
    | some r => exact beq_eq_false_iff_ne.2 (fun hn => h2 ⟨r, hr, hn⟩)
  show { idemNeed h b s with ill := (idemNeed h b s).ill } = _
  rw [hill]
  rfl

/-- Settles O21. -/
theorem idemOpensAndClosesARegion : Obligations.IdemOpensAndClosesARegion := by
  intro s h
  simp only [exec_idem, exec_idemEnd]
  refine ⟨fun hb => ⟨traps_illop (idemNeed_ill hb), traps_illop (idemNeed_ill hb)⟩, fun hb hr => ?_, fun hb hr => ?_⟩
  · rw [execIdem, idemNeed_legal hb]
    refine answers_imp (answers_ctx (fun x => { x with region := some (openRegion s) }) .next hr rfl (soft_nil rfl) (by decide)
      (fun _ => rfl)) (fun t ⟨h1, h2⟩ => ⟨h1, openRegion s, (congrArg Ctx.region h2 :), rfl, rfl⟩)
  · rw [execIdemEnd, idemNeed_legal hb]
    exact answers_imp (answers_ctx (fun x => { x with region := none }) .next hr rfl (soft_nil rfl) (by decide)
      (fun _ => rfl)) (fun t ⟨h1, h2⟩ => ⟨h1, (congrArg Ctx.region h2 :)⟩)

end Sys2Proof.Proofs
end


section
/-! PROOFS. Exceptions (R252 to R256, R258, R267, R307): the slot that a trap fills, the entry of the handler, the end of a task
with FATAL, and the run that a replay or a region's restart begins. -/

namespace Sys2Proof.Proofs

open Sys2Proof.Machine Sys2Proof.Safety Sys2Proof.Laws

/-! ## Fields of written bytes -/

theorem readBytes_writeBytes_part (m : Sparse Byte) (a : Nat) (pre mid post : List Byte) :
    readBytes (writeBytes m a (pre ++ (mid ++ post))) (a + pre.length) mid.length = mid := by
  rw [readBytes_eq_map]
  refine List.ext_getElem (by simp) (fun i h1 h2 => ?_)
  rw [List.getElem_map, List.getElem_range, sget_writeBytes, if_pos (by simp; omega),
    show a + pre.length + i - a = pre.length + i by omega, List.getD_eq_getElem?_getD,
    List.getElem?_append_right (Nat.le_add_right _ _), Nat.add_sub_cancel_left, List.getElem?_append_left h2,
    List.getElem?_eq_getElem h2, Option.getD_some]

/-- A little-endian field among others reads back. -/
theorem readNat_field (c : Core) (a n v : Nat) (pre post : List Byte) {bs : List Byte} {b : Nat}
    (hbs : bs = pre ++ (leBytes n v ++ post)) (hb : b = a + pre.length) :
    (c.portWrite a bs).readNat b n = v % 256 ^ n := by
  have h := readBytes_writeBytes_part c.near a pre (leBytes n v) post
  rw [length_leBytes] at h
  rw [Core.readNat, Core.readN, Core.portWrite, hbs, hb, h, leNat_leBytes]

theorem portWrite_near (c : Core) (a : Nat) (bs : List Byte) : (c.portWrite a bs).near = writeBytes c.near a bs := rfl

theorem readNat_apart (c : Core) (a b n : Nat) (bs : List Byte) (h : b + n ≤ a ∨ a + bs.length ≤ b) :
    (c.portWrite a bs).readNat b n = c.readNat b n := by
  rw [Core.readNat, Core.readN, Core.portWrite, readBytes_writeBytes_apart _ _ _ _ _ h]
  rfl

/-! ## Slots (R254) -/

/-- The 64 bytes of a filled slot. -/
def slotBytes (cw : DWord) (pc resume : Nat) (addr : DWord) (w : Word) (kind n : Nat) (rep : DWord) (beat : Nat) : List Byte :=
  leBytes 8 cw.toNat ++ leBytes 4 pc ++ leBytes 4 resume ++ leBytes 8 addr.toNat ++ leBytes 4 w.toNat
    ++ leBytes 4 (kind + 4 * (n % 2 ^ 10)) ++ leBytes 8 rep.toNat ++ leBytes 8 beat ++ leBytes 16 0

theorem length_slotBytes (cw : DWord) (pc resume : Nat) (addr : DWord) (w : Word) (kind n : Nat) (rep : DWord) (beat : Nat) :
    (slotBytes cw pc resume addr w kind n rep beat).length = 64 := by
  simp [slotBytes]

theorem fillSlot_eq (s : State) (k i : Nat) (cw : DWord) (pc resume : Nat) (addr : DWord) (w : Word) (kind n : Nat)
    (rep : DWord) : s.fillSlot k i cw pc resume addr w kind n rep
      = s.modCore k (fun c => c.portWrite (slotAddr (Machine.tierOf k) i) (slotBytes cw pc resume addr w kind n rep s.beat)) := rfl

/-- The fields of a slot as numbers of a core's near memory. -/
structure CoreSlot (c : Core) (a : Nat) (cw : DWord) (pc resume : Nat) (addr : DWord) (w : Word) (kind n : Nat) (rep : DWord)
    (beat : Nat) : Prop where
  cause  : c.readNat a 8 = cw.toNat
  pc     : c.readNat (a + 8) 4 = pc % 2 ^ 32
  resume : c.readNat (a + 12) 4 = resume % 2 ^ 32
  addr   : c.readNat (a + 16) 8 = addr.toNat
  word   : c.readNat (a + 24) 4 = w.toNat
  kind   : c.readNat (a + 28) 4 = kind + 4 * (n % 1024)
  rep    : c.readNat (a + 32) 8 = rep.toNat
  beat   : c.readNat (a + 40) 8 = beat % 2 ^ 64

theorem coreSlot_portWrite (c : Core) (a : Nat) (cw : DWord) (pc resume : Nat) (addr : DWord) (w : Word) {kind : Nat} (n : Nat)
    (rep : DWord) (beat : Nat) (hk : kind < 4) :
    CoreSlot (c.portWrite a (slotBytes cw pc resume addr w kind n rep beat)) a cw pc resume addr w kind n rep beat := by
  have h64 : ∀ v : DWord, v.toNat % 256 ^ 8 = v.toNat := fun v => Nat.mod_eq_of_lt v.isLt
  have h32 : ∀ v : Word, v.toNat % 256 ^ 4 = v.toNat := fun v => Nat.mod_eq_of_lt v.isLt
  refine ⟨?_, ?_, ?_, ?_, ?_, ?_, ?_, ?_⟩
  · exact (readNat_field c a 8 cw.toNat [] _ (by simp [slotBytes]; rfl) (by simp)).trans (h64 cw)
  · exact readNat_field c a 4 pc (leBytes 8 cw.toNat) _ (by simp [slotBytes]; rfl) (by simp)
  · exact readNat_field c a 4 resume (leBytes 8 cw.toNat ++ leBytes 4 pc) _ (by simp [slotBytes]; rfl) (by simp)
  · exact (readNat_field c a 8 addr.toNat (leBytes 8 cw.toNat ++ (leBytes 4 pc ++ leBytes 4 resume)) _
      (by simp [slotBytes]; rfl) (by simp)).trans (h64 addr)
  · exact (readNat_field c a 4 w.toNat (leBytes 8 cw.toNat ++ (leBytes 4 pc ++ (leBytes 4 resume ++ leBytes 8 addr.toNat))) _
      (by simp [slotBytes]; rfl) (by simp)).trans (h32 w)
  · refine (readNat_field c a 4 (kind + 4 * (n % 2 ^ 10)) (leBytes 8 cw.toNat ++ (leBytes 4 pc ++ (leBytes 4 resume
      ++ (leBytes 8 addr.toNat ++ leBytes 4 w.toNat)))) _ (by simp [slotBytes]; rfl) (by simp)).trans (Nat.mod_eq_of_lt ?_)
    have := Nat.mod_lt n (by decide : 0 < 2 ^ 10)
    omega
  · exact (readNat_field c a 8 rep.toNat (leBytes 8 cw.toNat ++ (leBytes 4 pc ++ (leBytes 4 resume ++ (leBytes 8 addr.toNat
      ++ (leBytes 4 w.toNat ++ leBytes 4 (kind + 4 * (n % 2 ^ 10))))))) _ (by simp [slotBytes]; rfl) (by simp)).trans (h64 rep)
  · exact readNat_field c a 8 beat (leBytes 8 cw.toNat ++ (leBytes 4 pc ++ (leBytes 4 resume ++ (leBytes 8 addr.toNat
      ++ (leBytes 4 w.toNat ++ (leBytes 4 (kind + 4 * (n % 2 ^ 10)) ++ leBytes 8 rep.toNat)))))) _
      (by simp [slotBytes]; rfl) (by simp)

theorem slotHolds_iff {t : State} {k i : Nat} {cw : DWord} {pc resume : Nat} {addr : DWord} {w : Word} {kind n : Nat}
    {rep : DWord} {beat : Nat} (h : CoreSlot (t.core k) (slotAddr (Machine.tierOf k) i) cw pc resume addr w kind n rep beat) :
    SlotHolds t k i cw pc resume addr w kind n rep beat := by
  obtain ⟨h1, h2, h3, h4, h5, h6, h7, h8⟩ := h
  simp only [readNat_eq_coreNat] at h1 h2 h3 h4 h5 h6 h7 h8
  exact ⟨h1, h2, h3, h4, h5, h6, h7, h8⟩

theorem readNat_congr {c c' : Core} (h : c'.near = c.near) (a n : Nat) : c'.readNat a n = c.readNat a n := by
  rw [Core.readNat, Core.readN, h]
  rfl

theorem coreSlot_congr {c c' : Core} {a : Nat} {cw : DWord} {pc resume : Nat} {addr : DWord} {w : Word} {kind n : Nat}
    {rep : DWord} {beat : Nat} (h : CoreSlot c a cw pc resume addr w kind n rep beat) (hn : c'.near = c.near) :
    CoreSlot c' a cw pc resume addr w kind n rep beat := by
  obtain ⟨h1, h2, h3, h4, h5, h6, h7, h8⟩ := h
  simp only [← readNat_congr hn] at h1 h2 h3 h4 h5 h6 h7 h8
  exact ⟨h1, h2, h3, h4, h5, h6, h7, h8⟩

/-! ## The entry of the handler (R255) -/

/-- A context that its slot's entry takes off the core. -/
def trappedCore (i t : Nat) (c : Core) : Core :=
  let c := c.modCtx i (fun x => { x with run := .trapped })
  { c with ctl := c.ctl.leave i t }

/-- A context's slot filled, the context Trapped, and its entry given to c0. -/
def slotTaken (s : State) (k i : Nat) (cw : DWord) (pc resume : Nat) (addr : DWord) (w : Word) (kind n : Nat) (rep : DWord) :
    State :=
  let s := s.fillSlot k i cw pc resume addr w kind n rep
  (s.modCore k (trappedCore i (s.now + cyc k))).offer k ⟨i, none⟩

/-- The machine but for its cores. -/
def coreless (s : State) : State := { s with cores := [] }

/-- A change of one core leaves the rest of the machine. -/
theorem coreless_modCore (s : State) (k : Nat) (f : Core → Core) : coreless (s.modCore k f) = coreless s := rfl

theorem onlySlot_of {s t : State} {k i : Nat} (h1 : ∀ j, placeless ((t.core k).ctx j) = placeless ((s.core k).ctx j))
    (h2 : ∀ b, b < slotAddr (Machine.tierOf k) i ∨ slotAddr (Machine.tierOf k) i + 64 ≤ b → nearByte t k b = nearByte s k b)
    (h3 : ∀ j, j ≠ k → t.core j = s.core j) (h4 : coreless t = coreless s) : OnlySlot s t k i :=
  ⟨h1, h2, h3, h4⟩

theorem leave_fields (c : Ctl) (i t : Nat) : (c.leave i t).handling = c.handling ∧ (c.leave i t).phase = c.phase
    ∧ (c.leave i t).waiting = c.waiting ∧ (c.leave i t).kept = c.kept ∧ (c.leave i t).kernel = c.kernel := by
  unfold Ctl.leave; split <;> exact ⟨rfl, rfl, rfl, rfl, rfl⟩

theorem placeless_ctx_modCtx {f : Ctx → Ctx} (hf : ∀ x, placeless (f x) = placeless x) (c : Core) (i j : Nat) :
    placeless ((c.modCtx i f).ctx j) = placeless (c.ctx j) := by
  rw [ctx_modCtx]
  split
  · next h => rw [hf, h]
  · rfl

theorem nextEntry_one {i : Nat} (h : i < 4) : nextEntry [⟨i, none⟩] = some ⟨i, none⟩ := by
  have key : ∀ i : Fin 4, nextEntry [⟨i.val, none⟩] = some ⟨i.val, none⟩ := by decide
  exact key ⟨i, h⟩

/-- A core with its slot filled and its entry waiting. -/
def waitingCore (k i now : Nat) (bs : List Byte) (c : Core) : Core :=
  let c := trappedCore i (now + cyc k) (c.portWrite (slotAddr (Machine.tierOf k) i) bs)
  { c with ctl := { c.ctl with waiting := c.ctl.waiting ++ [⟨i, none⟩] } }

theorem waitingCore_ctl (k i now : Nat) (bs : List Byte) (c : Core) :
    (waitingCore k i now bs c).ctl.handling = c.ctl.handling ∧ (waitingCore k i now bs c).ctl.phase = c.ctl.phase
      ∧ (waitingCore k i now bs c).ctl.waiting = c.ctl.waiting ++ [⟨i, none⟩]
      ∧ (waitingCore k i now bs c).ctl.kept = c.ctl.kept := by
  obtain ⟨h1, h2, h3, h4, _⟩ := leave_fields c.ctl i (now + cyc k)
  exact ⟨h1, h2, congrArg (· ++ _) h3, h4⟩

theorem waitingCore_near (k i now : Nat) (bs : List Byte) (c : Core) :
    (waitingCore k i now bs c).near = (c.portWrite (slotAddr (Machine.tierOf k) i) bs).near := rfl

theorem waitingCore_ctx (k i now : Nat) (bs : List Byte) (c : Core) (j : Nat) :
    (waitingCore k i now bs c).ctx j = if i = j then { c.ctx i with run := .trapped } else c.ctx j :=
  ctx_modCtx (c.portWrite (slotAddr (Machine.tierOf k) i) bs) i j (fun x => { x with run := .trapped })

theorem waitingCore_vector (k i now kind : Nat) (bs : List Byte) (c : Core) :
    (waitingCore k i now bs c).vector (Machine.tierOf k) kind = c.vector (Machine.tierOf k) kind := by
  have hread : ∀ a m, a + m ≤ slotAddr (Machine.tierOf k) i → (waitingCore k i now bs c).readNat a m = c.readNat a m := by
    intro a m h
    rw [readNat_congr (waitingCore_near _ _ _ _ _), readNat_apart _ _ _ _ _ (.inl h)]
  have hd : (if kind = 1 then 0 else 8) ≤ 8 := by split <;> omega
  have hb : Config.saveBase (Machine.tierOf k) + (if kind = 1 then 0 else 8) + 5 ≤ slotAddr (Machine.tierOf k) i := by
    rw [slotAddr]
    omega
  rw [Core.vector, hread _ 1 (by omega), hread _ 4 (by omega), Core.vector]

/-- A core with its slot filled and its entry taken by c0. -/
def servedCore (k i now : Nat) (bs : List Byte) (c : Core) : Core :=
  let c := waitingCore k i now bs c
  { c with ctl := { c.ctl with waiting := c.ctl.waiting.erase ⟨i, none⟩ } }

theorem servedCore_near (k i now : Nat) (bs : List Byte) (c : Core) :
    (servedCore k i now bs c).near = (waitingCore k i now bs c).near := rfl

theorem servedCore_kept (k i now : Nat) (bs : List Byte) (c : Core) : (servedCore k i now bs c).ctl.kept = c.ctl.kept :=
  (waitingCore_ctl k i now bs c).2.2.2

theorem servedCore_ctx (k i now : Nat) (bs : List Byte) (c : Core) (j : Nat) :
    (servedCore k i now bs c).ctx j = if i = j then { c.ctx i with run := .trapped } else c.ctx j :=
  waitingCore_ctx k i now bs c j

theorem servedCore_vector (k i now kind : Nat) (bs : List Byte) (c : Core) :
    (servedCore k i now bs c).vector (Machine.tierOf k) kind = c.vector (Machine.tierOf k) kind :=
  waitingCore_vector k i now kind bs c

/-- What c0 is kept in by an entry. -/
def keptBy (c : Core) (ctx : Nat) : Option (Run × Word) :=
  if ctx = 0 then none else match c.ctl.kept with
    | some o => some o
    | none => some ((c.ctx 0).run, (c.ctx 0).pc)

/-- The core of a c0 that enters its handler. -/
def handlerCore (k ctx v now gap : Nat) (kept : Option (Run × Word)) (head : Option Word) (c : Core) : Core :=
  let a := slotAddr (Machine.tierOf k) ctx
  let c := c.modCtx 0 (fun x => { x with run := .running, pc := BitVec.ofNat 32 (v / 4 * 4), sig := 0, sigEnd := none })
  { c with ctl := { c.ctl with
      head := head
      handling := some ctx
      cause := BitVec.ofNat 64 (c.readNat a 8)
      tpc := BitVec.ofNat 32 (c.readNat (a + 8) 4)
      taddr := BitVec.ofNat 64 (c.readNat (a + 16) 8)
      tword := BitVec.ofNat 32 (c.readNat (a + 24) 4)
      kept := kept
      issueAt := ceilTo (cyc k) (now + 1) + gap } }

theorem handlerCore_ctx (k i v now gap : Nat) (kept : Option (Run × Word)) (head : Option Word) (c : Core) (j : Nat) :
    (handlerCore k i v now gap kept head c).ctx j = if 0 = j then
      { c.ctx 0 with run := .running, pc := BitVec.ofNat 32 (v / 4 * 4), sig := 0, sigEnd := none } else c.ctx j :=
  ctx_modCtx c 0 j (fun x => { x with run := .running, pc := BitVec.ofNat 32 (v / 4 * 4), sig := 0, sigEnd := none })

/-- What a core's handler is entered with, after its slot has been filled. -/
theorem handlerCore_holds {k i v now g kind n pc resume beat : Nat} {cw addr rep : DWord} {w : Word} {head : Option Word} {c : Core}
    (hs : CoreSlot c (slotAddr (Machine.tierOf k) i) cw pc resume addr w kind n rep beat) :
    (handlerCore k i v now g (keptBy c i) head c).ctl.cause = cw
      ∧ (handlerCore k i v now g (keptBy c i) head c).ctl.tpc = BitVec.ofNat 32 pc
      ∧ (handlerCore k i v now g (keptBy c i) head c).ctl.taddr = addr
      ∧ (handlerCore k i v now g (keptBy c i) head c).ctl.tword = w := by
  obtain ⟨h1, h2, _, h4, h5, _⟩ := hs
  refine ⟨?_, ?_, ?_, ?_⟩
  · exact (congrArg (BitVec.ofNat 64) h1).trans (BitVec.eq_of_toNat_eq (by simp))
  · refine (congrArg (BitVec.ofNat 32) h2).trans (BitVec.eq_of_toNat_eq ?_)
    rw [BitVec.toNat_ofNat, BitVec.toNat_ofNat, Nat.mod_mod]
  · exact (congrArg (BitVec.ofNat 64) h4).trans (BitVec.eq_of_toNat_eq (by simp))
  · exact (congrArg (BitVec.ofNat 32) h5).trans (BitVec.eq_of_toNat_eq (by simp))

theorem enter_eq {s : State} {k i v : Nat}
    (h : (s.core k).vector (Machine.tierOf k) ((s.core k).readNat (slotAddr (Machine.tierOf k) i + 28) 4 % 4) = some v) :
    s.enter k i = s.modCore k (fun c => handlerCore k i v s.now (s.gapAt k (v / 4 * 4) * cyc k) (keptBy (s.core k) i)
      (if ((s.core k).ctx 0).run = .atHeader then some ((s.core k).ctx 0).pc else c.ctl.head) c) := by
  unfold State.enter
  simp only [h]
  rfl

theorem serve_one {u : State} {k i : Nat} (hh : (u.core k).ctl.handling = none) (hp : (u.core k).ctl.phase = none)
    (hw : (u.core k).ctl.waiting = [⟨i, none⟩]) (hi : i < 4) :
    u.serve k = (u.modCtl k (fun l => { l with waiting := l.waiting.erase ⟨i, none⟩ })).enter k i := by
  rw [State.serve]
  simp only [hh, hp, hw, nextEntry_one hi, Option.isSome_none, Bool.false_eq_true, or_self, if_false]

/-- c0 is Handling: no entry is taken. -/
theorem serve_handling {u : State} {k : Nat} (hh : (u.core k).ctl.handling ≠ none) : u.serve k = u := by
  rw [State.serve]
  simp only [Option.isSome_iff_ne_none.2 hh, true_or, if_true]

/-- The machine with bytes in a slot and its entry waiting, before c0 takes it. -/
def offered (s : State) (k i : Nat) (bs : List Byte) : State :=
  ((s.modCore k (fun c => c.portWrite (slotAddr (Machine.tierOf k) i) bs)).modCore k (trappedCore i (s.now + cyc k))).modCtl k
    (fun l => { l with waiting := l.waiting ++ [⟨i, none⟩] })

theorem slotTaken_eq (s : State) (k i : Nat) (cw : DWord) (pc resume : Nat) (addr : DWord) (w : Word) (kind n : Nat) (rep : DWord) :
    slotTaken s k i cw pc resume addr w kind n rep
      = (offered s k i (slotBytes cw pc resume addr w kind n rep s.beat)).serve k := by
  rw [slotTaken, fillSlot_eq, offered]
  generalize slotBytes cw pc resume addr w kind n rep s.beat = bs
  dsimp only [modCore_now]
  rfl

section
variable (s : State) (k i : Nat) (bs : List Byte)

theorem offered_core : (offered s k i bs).core k = waitingCore k i s.now bs (s.core k) := by
  rw [offered, State.modCtl, core_modCore_same, core_modCore_same, core_modCore_same]
  rfl

theorem offered_other {j : Nat} (h : j ≠ k) : (offered s k i bs).core j = s.core j := by
  rw [offered, State.modCtl, core_modCore_other _ _ (Ne.symm h), core_modCore_other _ _ (Ne.symm h),
    core_modCore_other _ _ (Ne.symm h)]

theorem offered_coreless : coreless (offered s k i bs) = coreless s := by
  rw [offered, State.modCtl, coreless_modCore, coreless_modCore, coreless_modCore]

/-- The machine with the entry taken by c0. -/
def served : State := (offered s k i bs).modCtl k (fun l => { l with waiting := l.waiting.erase ⟨i, none⟩ })

theorem served_core : (served s k i bs).core k = servedCore k i s.now bs (s.core k) := by
  rw [served, State.modCtl, core_modCore_same, offered_core]
  rfl

theorem served_other {j : Nat} (h : j ≠ k) : (served s k i bs).core j = s.core j := by
  rw [served, State.modCtl, core_modCore_other _ _ (Ne.symm h), offered_other s k i bs h]

theorem served_coreless : coreless (served s k i bs) = coreless s := by
  rw [served, State.modCtl, coreless_modCore, offered_coreless]

end

/-- What a trap or a request keeps of its core: every register, and every byte outside the slot. -/
theorem onlySlot_waiting {s t : State} {k i : Nat} {bs : List Byte} (hl : bs.length = 64)
    (h1 : ∀ j, placeless ((t.core k).ctx j) = placeless ((waitingCore k i s.now bs (s.core k)).ctx j))
    (h2 : (t.core k).near = (waitingCore k i s.now bs (s.core k)).near) (h3 : ∀ j, j ≠ k → t.core j = s.core j)
    (h4 : coreless t = coreless s) : OnlySlot s t k i := by
  refine onlySlot_of (fun j => ?_) (fun b hb => ?_) h3 h4
  · rw [h1, waitingCore_ctx]
    split
    · next h =>
      rw [← h]
      rfl
    · rfl
  · rw [nearByte, h2, waitingCore_near, portWrite_near, sget_writeBytes, hl, if_neg (by omega), nearByte]

section
variable {s : State} {k i v pc resume kind n : Nat} {cw addr rep : DWord} {w : Word}

/-- THE ENTRY OF A CONTEXT WAITS while c0 is Handling (R255). -/
theorem slotTaken_waits (hh : (s.core k).ctl.handling ≠ none) (hk : kind < 4) :
    SlotHolds (slotTaken s k i cw pc resume addr w kind n rep) k i cw pc resume addr w kind n rep s.beat
      ∧ OnlySlot s (slotTaken s k i cw pc resume addr w kind n rep) k i
      ∧ ((slotTaken s k i cw pc resume addr w kind n rep).ctx (k, i)).run = .trapped
      ∧ ((slotTaken s k i cw pc resume addr w kind n rep).core k).ctl.handling = (s.core k).ctl.handling
      ∧ ((slotTaken s k i cw pc resume addr w kind n rep).core k).ctl.waiting = (s.core k).ctl.waiting ++ [⟨i, none⟩] := by
  have hslot := coreSlot_portWrite (s.core k) (slotAddr (Machine.tierOf k) i) cw pc resume addr w n rep s.beat hk
  have hlen := length_slotBytes cw pc resume addr w kind n rep s.beat
  rw [slotTaken_eq]
  generalize slotBytes cw pc resume addr w kind n rep s.beat = bs at *
  obtain ⟨h1, h2, h3, h4⟩ := waitingCore_ctl k i s.now bs (s.core k)
  rw [serve_handling (by rw [offered_core, h1]; exact hh)]
  refine ⟨slotHolds_iff (coreSlot_congr hslot ?_), onlySlot_waiting hlen (fun j => ?_) ?_ (fun j hj => offered_other s k i bs hj)
    (offered_coreless s k i bs), ?_, ?_, ?_⟩
  · rw [offered_core, waitingCore_near]
  · rw [offered_core]
  · rw [offered_core]
  · rw [State.ctx, offered_core, waitingCore_ctx, if_pos rfl]
  · rw [offered_core, h1]
  · rw [offered_core, h3]

/-- A FREE c0 WITH ITS VECTOR SET ENTERS ITS HANDLER (R255). -/
theorem slotTaken_enters (hfree : c0Free s k) (hi : i < 4) (hkind : kind = 1 ∨ kind = 2)
    (hv : (s.core k).vector (Machine.tierOf k) kind = some v) :
    SlotHolds (slotTaken s k i cw pc resume addr w kind n rep) k i cw pc resume addr w kind n rep s.beat
      ∧ Handles s (slotTaken s k i cw pc resume addr w kind n rep) k i v cw pc addr w
      ∧ OnlySlot s (slotTaken s k i cw pc resume addr w kind n rep) k i := by
  obtain ⟨hh, hp, hw⟩ := hfree
  have hslot := coreSlot_portWrite (s.core k) (slotAddr (Machine.tierOf k) i) cw pc resume addr w n rep s.beat
    (show kind < 4 by omega)
  have hlen := length_slotBytes cw pc resume addr w kind n rep s.beat
  rw [slotTaken_eq]
  generalize slotBytes cw pc resume addr w kind n rep s.beat = bs at *
  obtain ⟨h1, h2, h3, -⟩ := waitingCore_ctl k i s.now bs (s.core k)
  have hserve : (offered s k i bs).serve k = (served s k i bs).enter k i := by
    rw [serve_one (by rw [offered_core, h1, hh]) (by rw [offered_core, h2, hp]) (by rw [offered_core, h3, hw]; rfl) hi, served]
  have hcs : CoreSlot (servedCore k i s.now bs (s.core k)) (slotAddr (Machine.tierOf k) i) cw pc resume addr w kind n rep s.beat :=
    coreSlot_congr hslot rfl
  have hkd : ((served s k i bs).core k).readNat (slotAddr (Machine.tierOf k) i + 28) 4 % 4 = kind := by
    rw [served_core, hcs.kind]
    omega
  have hvec : ((served s k i bs).core k).vector (Machine.tierOf k) kind = some v := by
    rw [served_core, servedCore_vector, hv]
  rw [hserve, enter_eq (by rw [hkd]; exact hvec)]
  have hcore := served_core s k i bs
  have hother := fun j hj => served_other s k i bs (j := j) hj
  have hless := served_coreless s k i bs
  generalize served s k i bs = u at *
  refine ⟨slotHolds_iff (coreSlot_congr hcs ?_), ?_, onlySlot_waiting hlen (fun j => ?_) ?_ (fun j hj => ?_) ?_⟩
  · rw [core_modCore_same, hcore]
    rfl
  · obtain ⟨e1, e2, e3, e4⟩ := handlerCore_holds (v := v) (now := u.now) (g := u.gapAt k (v / 4 * 4) * cyc k)
      (head := if ((u.core k).ctx 0).run = .atHeader then some ((u.core k).ctx 0).pc else (u.core k).ctl.head) hcs
    rw [← hcore] at e1 e2 e3 e4
    refine ⟨?_, ?_, ?_, ?_, ?_, ?_, ?_, fun h0 => ?_, fun h0 hk => ?_⟩
    · rw [core_modCore_same]
      rfl
    · rw [State.ctx, core_modCore_same, handlerCore_ctx, if_pos rfl]
    · rw [State.ctx, core_modCore_same, handlerCore_ctx, if_pos rfl]
    · rw [core_modCore_same, e1]
    · rw [core_modCore_same, e2]
    · rw [core_modCore_same, e3]
    · rw [core_modCore_same, e4]
    · rw [State.ctx, core_modCore_same, handlerCore_ctx, if_neg (Ne.symm h0), hcore, servedCore_ctx, if_pos rfl]
    · rw [core_modCore_same]
      show keptBy (u.core k) i = _
      rw [keptBy, if_neg h0, hcore, servedCore_kept, hk, servedCore_ctx, if_neg h0]
      rfl
  · rw [core_modCore_same, handlerCore_ctx, hcore]
    split
    · next h => rw [← h]; rfl
    · rfl
  · rw [core_modCore_same, hcore]
    rfl
  · rw [core_modCore_other _ _ (Ne.symm hj), hother j hj]
  · rw [coreless_modCore, hless]

end

/-! ## Every core changed -/

section
variable {P : Core → Prop} {f : Nat → Core → Core} {j : Nat}

theorem core_fold_modCore_keeps (hk : ∀ c, P c → P (f j c)) (l : List (Nat × Core)) :
    ∀ u : State, P (u.core j) → P ((l.foldl (fun s e => s.modCore e.1 (f e.1)) u).core j) := by
  induction l with
  | nil => exact fun _ h => h
  | cons e r ih =>
    intro u h
    refine ih _ ?_
    rw [core_modCore]
    split
    · next he => rw [he]; exact hk _ h
    · exact h

/-- What each core's change keeps, the change of every core keeps. -/
theorem core_modCores_keeps {s : State} (h : P (s.core j)) (hk : ∀ c, P c → P (f j c)) : P ((s.modCores f).core j) :=
  core_fold_modCore_keeps hk _ _ h

theorem core_fold_modCore_reaches (hk : ∀ c, P c → P (f j c)) (l : List (Nat × Core)) (hl : ∃ e ∈ l, e.1 = j) :
    ∀ u : State, P (f j (u.core j)) → P ((l.foldl (fun s e => s.modCore e.1 (f e.1)) u).core j) := by
  induction l with
  | nil => simp at hl
  | cons e r ih =>
    intro u h
    by_cases he : e.1 = j
    · refine core_fold_modCore_keeps hk r _ ?_
      rw [core_modCore, if_pos he, he]
      exact h
    · obtain ⟨e', he', hj⟩ := hl
      rcases List.mem_cons.1 he' with rfl | he'
      · exact absurd hj he
      · refine ih ⟨e', he', hj⟩ _ ?_
        rw [core_modCore, if_neg he]
        exact h

theorem listed_of_core_ne {s : State} (h : s.core j ≠ .reset) : ∃ e ∈ s.cores, e.1 = j := by
  by_contra hn
  refine h ?_
  unfold State.core
  generalize s.cores = m at hn
  induction m with
  | nil => rfl
  | cons e r ih =>
    have he : e.1 ≠ j := fun he => hn ⟨e, List.mem_cons_self, he⟩
    rw [sget, if_neg he]
    exact ih (fun ⟨e', he', hj⟩ => hn ⟨e', List.mem_cons_of_mem _ he', hj⟩)

/-- What the change of a core that is not as at reset gives, and each change keeps. -/
theorem core_modCores_reaches {s : State} (hl : s.core j ≠ .reset) (h : P (f j (s.core j))) (hk : ∀ c, P c → P (f j c)) :
    P ((s.modCores f).core j) :=
  core_fold_modCore_reaches hk _ (listed_of_core_ne hl) _ h

end

theorem coreless_modCores (s : State) (f : Nat → Core → Core) : coreless (s.modCores f) = coreless s := by
  unfold State.modCores
  generalize s.cores = l
  induction l generalizing s with
  | nil => rfl
  | cons e r ih =>
    rw [List.foldl_cons, ih, coreless_modCore]

/-! ## Contexts stopped (R307) -/

theorem haltCtx_near (c : Core) (i t : Nat) : (c.haltCtx i t).near = c.near := rfl

theorem haltCtx_ctx (c : Core) (i t j : Nat) : (c.haltCtx i t).ctx j = if i = j then { c.ctx i with run := .halted } else c.ctx j :=
  ctx_modCtx c i j (fun x => { x with run := .halted })

theorem haltedAt_haltCtx (c : Core) (i t : Nat) : ((c.haltCtx i t).ctx i).run = .halted := by
  rw [haltCtx_ctx, if_pos rfl]

theorem haltCtx_kernel (c : Core) (i t : Nat) : (c.haltCtx i t).ctl.kernel = c.ctl.kernel := (leave_fields c.ctl i t).2.2.2.2

/-- Context `i` halted when a kernel loaded it. -/
def haltOf (kid t : Nat) (c : Core) (i : Nat) : Core := if (c.ctx i).kernel = some kid then c.haltCtx i t else c

/-- c0 stopped when a kernel loaded it. -/
def stopC0 (kid : Nat) (c : Core) : Core :=
  if c.ctl.kernel = some kid then
    let c := c.modCtx 0 (fun x => { x with run := .halted })
    { c with ctl := { c.ctl with phase := none, frozen := false, stopped := false, handling := none, waiting := [],
                                 kept := none, head := none, kernel := none, fifo := [], skip := false } }
  else c

theorem stopKernel_eq (c : Core) (kid t : Nat) :
    c.stopKernel kid t = stopC0 kid (haltOf kid t (haltOf kid t (haltOf kid t c 1) 2) 3) := rfl

theorem haltOf_near (kid t : Nat) (c : Core) (i : Nat) : (haltOf kid t c i).near = c.near := by
  unfold haltOf; split <;> rfl

theorem haltOf_kernel (kid t : Nat) (c : Core) (i : Nat) : (haltOf kid t c i).ctl.kernel = c.ctl.kernel := by
  unfold haltOf
  split
  · exact haltCtx_kernel c i t
  · rfl

theorem stopC0_near (kid : Nat) (c : Core) : (stopC0 kid c).near = c.near := by
  unfold stopC0; split <;> rfl

theorem stopKernel_near (c : Core) (kid t : Nat) : (c.stopKernel kid t).near = c.near := by
  rw [stopKernel_eq, stopC0_near, haltOf_near, haltOf_near, haltOf_near]

/-- Context `i` of a core is Halted. -/
def haltedAt (i : Nat) (c : Core) : Prop := (c.ctx i).run = .halted

theorem haltOf_keeps {kid t i j : Nat} {c : Core} (h : haltedAt j c) : haltedAt j (haltOf kid t c i) := by
  unfold haltOf
  split
  · rw [haltedAt, haltCtx_ctx]
    split
    · rfl
    · exact h
  · exact h

theorem stopC0_keeps {kid j : Nat} {c : Core} (h : haltedAt j c) : haltedAt j (stopC0 kid c) := by
  unfold stopC0
  split
  · show ((c.modCtx 0 (fun x => { x with run := .halted })).ctx j).run = .halted
    rw [ctx_modCtx]
    split
    · rfl
    · exact h
  · exact h

theorem stopKernel_keeps {kid t j : Nat} {c : Core} (h : haltedAt j c) : haltedAt j (c.stopKernel kid t) := by
  rw [stopKernel_eq]
  exact stopC0_keeps (haltOf_keeps (haltOf_keeps (haltOf_keeps h)))

theorem haltOf_halts {kid t i : Nat} {c : Core} (h : (c.ctx i).kernel = some kid) : haltedAt i (haltOf kid t c i) := by
  rw [haltOf, if_pos h, haltedAt, haltCtx_ctx, if_pos rfl]

theorem haltOf_ctx_kernel (kid t : Nat) (c : Core) (i j : Nat) : ((haltOf kid t c i).ctx j).kernel = (c.ctx j).kernel := by
  unfold haltOf
  split
  · rw [haltCtx_ctx]
    split
    · next h => rw [← h]
    · rfl
  · rfl

/-- A context that the kernel loaded is Halted with it. -/
theorem stopKernel_halts {kid t i : Nat} {c : Core} (hi : i ∈ [1, 2, 3]) (h : (c.ctx i).kernel = some kid) :
    haltedAt i (c.stopKernel kid t) := by
  rw [stopKernel_eq]
  refine stopC0_keeps ?_
  simp only [List.mem_cons, List.not_mem_nil, or_false] at hi
  rcases hi with rfl | rfl | rfl
  · exact haltOf_keeps (haltOf_keeps (haltOf_halts h))
  · exact haltOf_keeps (haltOf_halts (by rw [haltOf_ctx_kernel, h]))
  · exact haltOf_halts (by rw [haltOf_ctx_kernel, haltOf_ctx_kernel, h])

/-- c0 of a core is Halted, in no phase, not Handling, and no kernel's. -/
def c0Stopped (c : Core) : Prop :=
  haltedAt 0 c ∧ c.ctl.phase = none ∧ c.ctl.handling = none ∧ c.ctl.kernel = none

theorem haltOf_c0Stopped {kid t i : Nat} {c : Core} (h : c0Stopped c) : c0Stopped (haltOf kid t c i) := by
  obtain ⟨h1, h2, h3, h4⟩ := h
  refine ⟨haltOf_keeps h1, ?_⟩
  unfold haltOf
  split
  · obtain ⟨e1, e2, -, -, e5⟩ := leave_fields c.ctl i t
    exact ⟨e2.trans h2, e1.trans h3, e5.trans h4⟩
  · exact ⟨h2, h3, h4⟩

theorem stopC0_stops {kid : Nat} {c : Core} (h : c.ctl.kernel = some kid) : c0Stopped (stopC0 kid c) := by
  rw [stopC0, if_pos h]
  exact ⟨congrArg Ctx.run (ctx_modCtx_same c 0 (fun x => { x with run := .halted })), rfl, rfl, rfl⟩

theorem stopKernel_stops {kid t : Nat} {c : Core} (h : c.ctl.kernel = some kid) : c0Stopped (c.stopKernel kid t) := by
  rw [stopKernel_eq]
  exact stopC0_stops (by rw [haltOf_kernel, haltOf_kernel, haltOf_kernel, h])

theorem stopKernel_c0Stopped {kid t : Nat} {c : Core} (h : c0Stopped c) : c0Stopped (c.stopKernel kid t) := by
  rw [stopKernel_eq, stopC0]
  have h3 : c0Stopped (haltOf kid t (haltOf kid t (haltOf kid t c 1) 2) 3) :=
    haltOf_c0Stopped (haltOf_c0Stopped (haltOf_c0Stopped h))
  rw [if_neg (by rw [h3.2.2.2]; simp)]
  exact h3

/-! ## The end of a task (R253, R258, R307) -/

theorem record_bufs (s : State) (k : Nat) (r : FaultRec) :
    (s.record k r).bufs = sset [] s.bufs (clusterKey k) (sget [] s.bufs (clusterKey k) ++ [r]) := by
  unfold State.record
  dsimp only
  split <;> rfl

theorem record_cores (s : State) (k : Nat) (r : FaultRec) : (s.record k r).cores = s.cores := by
  unfold State.record
  dsimp only
  split <;> rfl

theorem record_gaf (s : State) (k : Nat) (r : FaultRec) : (s.record k r).gaf = s.gaf := by
  unfold State.record
  dsimp only
  split <;> rfl

theorem record_now (s : State) (k : Nat) (r : FaultRec) : (s.record k r).now = s.now := by
  unfold State.record
  dsimp only
  split <;> rfl

theorem record_core (s : State) (k : Nat) (r : FaultRec) (j : Nat) : (s.record k r).core j = s.core j :=
  congrArg (fun m => sget Core.reset m j) (record_cores s k r)

theorem recorded_record (s : State) (k : Nat) (r : FaultRec) :
    sget [] (s.record k r).bufs (clusterKey k) = sget [] s.bufs (clusterKey k) ++ [r] := by
  rw [record_bufs, sget_sset_same]

/-- Two cores with the same bytes, control and contexts. -/
def sameRegs (c c' : Core) : Prop := c'.near = c.near ∧ c'.ctl = c.ctl ∧ c'.ctxs = c.ctxs

theorem sameRegs_dropReplies (s : State) (g : Nat × Nat → Bool) (j : Nat) : sameRegs (s.core j) ((s.dropReplies g).core j) := by
  refine core_modCores_keeps (P := sameRegs (s.core j)) (s := s.modFabric _) ⟨rfl, rfl, rfl⟩ (fun c h => ?_)
  exact h

theorem sameRegs_dropGiven (s : State) (b : Bool) (g : Nat → Bool) (j : Nat) : sameRegs (s.core j) ((s.dropGiven b g).core j) := by
  refine core_modCores_keeps (P := sameRegs (s.core j)) ⟨rfl, rfl, rfl⟩ (fun c h => ?_)
  dsimp only
  split <;> exact h

theorem sameRegs_trans {a b c : Core} (h : sameRegs a b) (h' : sameRegs b c) : sameRegs a c :=
  ⟨h'.1.trans h.1, h'.2.1.trans h.2.1, h'.2.2.trans h.2.2⟩

theorem gaf_modCores (s : State) (f : Nat → Core → Core) : (s.modCores f).gaf = s.gaf :=
  (congrArg State.gaf (coreless_modCores s f) :)

theorem bufs_modCores (s : State) (f : Nat → Core → Core) : (s.modCores f).bufs = s.bufs :=
  (congrArg State.bufs (coreless_modCores s f) :)

theorem gaf_dropReplies (s : State) (g : Nat × Nat → Bool) : (s.dropReplies g).gaf = s.gaf :=
  gaf_modCores (s.modFabric _) _

theorem bufs_dropReplies (s : State) (g : Nat × Nat → Bool) : (s.dropReplies g).bufs = s.bufs :=
  bufs_modCores (s.modFabric _) _

/-- The machine when a kernel that has ended stops its contexts: replies and incomplete sets are dropped. -/
def quieted (s : State) (kid : Nat) : State :=
  let s := s.dropReplies (fun q => if q.2 = 0 then (s.core q.1).ctl.kernel == some kid else (s.ctx q).kernel == some kid)
  s.dropGiven false (fun k => (s.core k).ctl.kernel == some kid)

/-- Every context that the kernel loaded stopped. -/
def stoppedAll (s : State) (kid : Nat) : State := s.modCores (fun k c => c.stopKernel kid (s.now + cyc k))

/-- The kernel over, and its steps that were to come taken off the agenda. -/
def ended (s : State) (kid : Nat) : State :=
  ((((stoppedAll (quieted s kid) kid).modKernel kid (fun x => { x with fatal := true, stage := .done })).cancel
    (.stop kid)).cancel (.groupHalt kid)).cancel (.releaseNotice kid)

theorem endKernel_eq (s : State) (kid : Nat) :
    s.endKernel kid = (ended s kid).post (ended s kid).now (.kernelComplete kid) := rfl

/-- But for the kernel's stage and the agenda the machine is the one whose contexts were stopped. -/
theorem endKernel_parts (s : State) (kid : Nat) : (s.endKernel kid).cores = (stoppedAll (quieted s kid) kid).cores
    ∧ (s.endKernel kid).bufs = (stoppedAll (quieted s kid) kid).bufs
    ∧ (s.endKernel kid).gaf
      = ((stoppedAll (quieted s kid) kid).modKernel kid (fun x => { x with fatal := true, stage := .done })).gaf := by
  rw [endKernel_eq, ended]
  simp only [post_cores, post_bufs, post_gaf, cancel_cores, cancel_bufs, cancel_gaf, modKernel_cores, modKernel_bufs, and_self]

theorem endKernel_core (s : State) (kid j : Nat) : (s.endKernel kid).core j = (stoppedAll (quieted s kid) kid).core j := by
  rw [State.core, (endKernel_parts s kid).1, State.core]

theorem sameRegs_quieted (s : State) (kid j : Nat) : sameRegs (s.core j) ((quieted s kid).core j) :=
  sameRegs_trans (sameRegs_dropReplies s _ j) (sameRegs_dropGiven _ _ _ j)

theorem endKernel_bufs (s : State) (kid : Nat) : (s.endKernel kid).bufs = s.bufs := by
  rw [(endKernel_parts s kid).2.1]
  exact (bufs_modCores _ _).trans ((bufs_modCores _ _).trans (bufs_dropReplies s _))

theorem endKernel_kernel (s : State) (kid : Nat) : (s.endKernel kid).kernel kid
    = (s.kernel kid).map (fun x => { x with fatal := true, stage := .done }) := by
  have hg : (stoppedAll (quieted s kid) kid).gaf = s.gaf :=
    (gaf_modCores _ _).trans ((gaf_modCores _ _).trans (gaf_dropReplies s _))
  rw [State.kernel, (endKernel_parts s kid).2.2]
  show ((stoppedAll (quieted s kid) kid).modKernel kid _).kernel kid = _
  rw [State.modKernel, kernel_setKernel, if_pos rfl, State.kernel, hg, State.kernel]

theorem endKernel_near (s : State) (kid j : Nat) : ((s.endKernel kid).core j).near = (s.core j).near := by
  rw [endKernel_core]
  exact core_modCores_keeps (P := fun c => c.near = (s.core j).near) (sameRegs_quieted s kid j).1
    (fun c h => (stopKernel_near c kid _).trans h)

theorem endKernel_c0 {s : State} {kid j : Nat} (h : (s.core j).ctl.kernel = some kid) : c0Stopped ((s.endKernel kid).core j) := by
  rw [endKernel_core]
  have hq : ((quieted s kid).core j).ctl.kernel = some kid := by rw [(sameRegs_quieted s kid j).2.1, h]
  refine core_modCores_reaches (fun hr => ?_) (stopKernel_stops hq) (fun c hc => stopKernel_c0Stopped hc)
  rw [hr] at hq
  exact absurd hq (by simp [Core.reset, Ctl.reset])

theorem endKernel_halts {s : State} {kid j i : Nat} (hi : i ∈ [1, 2, 3]) (h : (s.ctx (j, i)).kernel = some kid) :
    ((s.endKernel kid).ctx (j, i)).run = .halted := by
  show haltedAt i ((s.endKernel kid).core j)
  rw [endKernel_core]
  have hq : (((quieted s kid).core j).ctx i).kernel = some kid := by
    rw [Core.ctx, (sameRegs_quieted s kid j).2.2]
    exact h
  refine core_modCores_reaches (fun hr => ?_) (stopKernel_halts hi hq) (fun c hc => stopKernel_keeps hc)
  rw [hr] at hq
  exact absurd hq (by simp [Core.ctx, Core.reset, sget, Ctx.reset])

/-- A FATAL TRAP ENDS ITS TASK. -/
theorem endsTask_fatalRec (s : State) (k i code : Nat) (addr : DWord) (pc : Word) :
    EndsTask s (s.fatalRec k i code addr pc) k i (faultRec 0x08 k i 0 pc.toNat addr.toNat 0 0 code) := by
  have hown : (if i = 0 then ((s.record k (faultRec 0x08 k i 0 pc.toNat addr.toNat 0 0 code)).core k).ctl.kernel
      else ((s.record k (faultRec 0x08 k i 0 pc.toNat addr.toNat 0 0 code)).ctx (k, i)).kernel)
      = if i = 0 then (s.core k).ctl.kernel else (s.ctx (k, i)).kernel := by
    rw [State.ctx, record_core, State.ctx]
  have hcore := record_core s k (faultRec 0x08 k i 0 pc.toNat addr.toNat 0 0 code)
  have hrec := recorded_record s k (faultRec 0x08 k i 0 pc.toNat addr.toNat 0 0 code)
  have hgaf := record_gaf s k (faultRec 0x08 k i 0 pc.toNat addr.toNat 0 0 code)
  unfold State.fatalRec
  dsimp only
  rw [hown]
  generalize s.record k (faultRec 0x08 k i 0 pc.toNat addr.toNat 0 0 code) = u at *
  cases ho : (if i = 0 then (s.core k).ctl.kernel else (s.ctx (k, i)).kernel) with
  | none =>
    refine ⟨hrec, fun j b => ?_, fun _ => ⟨?_, fun j hj => ?_⟩, fun kid hk => absurd (ho.symm.trans hk) (by simp)⟩
    · rw [nearByte, nearByte, core_modCore]
      split
      · next h =>
        subst h
        rw [← hcore]
        split <;> rfl
      · rw [hcore]
    · rw [State.ctx, core_modCore_same]
      split
      · exact haltedAt_haltCtx _ _ (u.now + cyc k)
      · exact haltedAt_haltCtx _ _ (u.now + cyc k)
    · rw [core_modCore_other _ _ (Ne.symm hj), hcore]
  | some kid =>
    refine ⟨?_, fun j b => ?_, fun h => absurd (ho.symm.trans h) (by simp), fun kid' hk => ?_⟩
    · rw [endKernel_bufs, hrec]
    · rw [nearByte, endKernel_near, hcore, nearByte]
    · obtain rfl : kid = kid' := Option.some.inj (ho.symm.trans hk)
      refine ⟨fun kn hkn => ?_, fun j hj => ?_, fun j c hc hcx => ?_⟩
      · have : u.kernel kid = some kn := by rw [State.kernel, hgaf]; exact hkn
        rw [endKernel_kernel, this]
        rfl
      · obtain ⟨h1, h2, h3, h4⟩ := endKernel_c0 (s := u) (by rw [hcore, hj])
        exact ⟨h1, h2, h3, h4⟩
      · exact endKernel_halts hc (by rw [State.ctx, hcore]; exact hcx)

/-! ## Taking an exception -/

section
variable {s : State} {k i : Nat} {w : Word} {tr : Trap}

theorem causeWord_eq (tr : Trap) (i : Nat) : causeWord tr i = BitVec.ofNat 64 (causeCode tr.cause + 2 ^ 8 * tr.sub.toNat
    + 2 ^ 16 * i + (if tr.imprec then 2 ^ 18 else 0)) := by
  rw [causeWord, Nat.mul_comm tr.sub.toNat, Nat.mul_comm i]

theorem fatal_ends (s : State) (k i : Nat) (tr : Trap) (pc : Word) :
    EndsTask s (s.fatal k i tr pc) k i (faultRec 0x08 k i 0 pc.toNat tr.addr.toNat 0 0 (causeCode tr.cause)) :=
  endsTask_fatalRec s k i _ _ _

theorem takeTrap_wspill (h1 : tr.cause = .wspill) (h2 : tr.sub = 1) :
    s.takeTrap (k, i) w tr = s.fatal k i tr (s.ctx (k, i)).pc := if_pos ⟨h1, h2⟩

theorem takeTrap_timed (h1 : ¬ (tr.cause = .wspill ∧ tr.sub = 1)) (h2 : (s.core k).timed i = true) :
    s.takeTrap (k, i) w tr = if Machine.replays tr then s.replay k w tr else s.fatal k i tr (s.ctx (k, i)).pc :=
  (if_neg h1).trans (if_pos h2)

/-- Where a context goes on that its region's checkpoint is restored in. -/
def restartRun (i : Nat) : Run → Run
  | .held _ => .running
  | .gated _ => if i = 0 then .running else .ready
  | w => w

/-- A context put back to the checkpoint of its region (R267). -/
def restartCtx (i t : Nat) (r : Region) (x0 x : Ctx) : Ctx :=
  { x.restore r.ckpt with
    region := some { r with restarts := r.restarts + 1 }, sig := r.sig, run := restartRun i x0.run, readyAt := t }

/-- A region's restart before the core's pace: the record, the results taken back, the context put back (R258, R267). -/
def putBack (s : State) (k i : Nat) (tr : Trap) (r : Region) : State :=
  let c := s.core k
  let s := s.record k (faultRec 0x06 k i 0 r.ckpt.pc.toNat tr.addr.toNat 0 0 (causeCode tr.cause))
  let s := s.modCore k (fun c => { c with pend := c.pend.filter (fun p => !(p.ctx == i && p.act.checkpointed)) })
  s.modCtx (k, i) (restartCtx i (s.now + cyc k) r (c.ctx i))

/-- The context of a restarted region issues again. -/
def repace (k a : Nat) (stays : Prop) [Decidable stays] (s : State) : State :=
  if stays then s else s.modCtl k (fun l => { l with issueAt := s.now + cyc k + s.gapAt k a * cyc k })

/-- A region starts again. -/
def restarted (s : State) (k i : Nat) (tr : Trap) (r : Region) : State :=
  repace k r.ckpt.pc.toNat (restartRun i ((s.core k).ctx i).run ≠ .running ∨ (i ≠ 0 ∧ (s.core k).ctl.frozen))
    (putBack s k i tr r)

/-- An exception outside a superstep: in an open region its restart or the end, and else the slot. -/
def outside (s : State) (k i : Nat) (w : Word) (tr : Trap) (x : Ctx) : Option Region → State
  | some r => if 3 ≤ r.restarts then s.fatal k i tr x.pc else restarted s k i tr r
  | none => if i = 0 ∧ (s.core k).ctl.handling.isSome then s.fatal k i tr x.pc
      else slotTaken s k i (causeWord tr i) x.pc.toNat x.pc.toNat tr.addr w 1 0 (repWord x.rep)

theorem takeTrap_outside (h1 : ¬ (tr.cause = .wspill ∧ tr.sub = 1)) (h2 : (s.core k).timed i = false) :
    s.takeTrap (k, i) w tr = outside s k i w tr (s.ctx (k, i)) (if restarts tr then (s.ctx (k, i)).region else none) := by
  have h2' : ¬ (s.core k).timed i = true := by rw [h2]; decide
  refine (if_neg h1).trans ((if_neg h2').trans ?_)
  show _ = outside s k i w tr (s.ctx (k, i)) (if restarts tr then ((s.core (k, i).1).ctx (k, i).2).region else none)
  generalize (if restarts tr then ((s.core (k, i).1).ctx (k, i).2).region else none) = o
  cases o <;> rfl

theorem takeTrap_plain (h1 : ¬ (tr.cause = .wspill ∧ tr.sub = 1)) (h2 : (s.core k).timed i = false)
    (h3 : restarts tr = false ∨ (s.ctx (k, i)).region = none) :
    s.takeTrap (k, i) w tr = if i = 0 ∧ (s.core k).ctl.handling.isSome then s.fatal k i tr (s.ctx (k, i)).pc
      else slotTaken s k i (causeWord tr i) (s.ctx (k, i)).pc.toNat (s.ctx (k, i)).pc.toNat tr.addr w 1 0
        (repWord (s.ctx (k, i)).rep) := by
  have hr : (if restarts tr then (s.ctx (k, i)).region else none) = none := by
    rcases h3 with h3 | h3
    · rw [h3]; rfl
    · rw [h3, ite_self]
  rw [takeTrap_outside h1 h2, hr, outside]

theorem replays_iff (tr : Trap) : Machine.replays tr = true ↔ tr.cause ∈ [.timing, .tilepois, .sigfault, .eccu] := by
  unfold Machine.replays
  cases tr.cause <;> simp

/-! ## A region starts again (R258, R267) -/

theorem restarted_eq (s : State) (k i : Nat) (tr : Trap) (r : Region) :
    restarted s k i tr r = putBack s k i tr r
      ∨ ∃ f, restarted s k i tr r = (putBack s k i tr r).modCtl k f := by
  rw [restarted]
  generalize putBack s k i tr r = u
  unfold repace
  split
  · exact .inl rfl
  · exact .inr ⟨_, rfl⟩

theorem putBack_bufs (r : Region) : sget [] (putBack s k i tr r).bufs (clusterKey k) = sget [] s.bufs (clusterKey k)
    ++ [faultRec 0x06 k i 0 r.ckpt.pc.toNat tr.addr.toNat 0 0 (causeCode tr.cause)] :=
  recorded_record s k _

theorem putBack_other (r : Region) {j : Nat} (h : j ≠ k) : (putBack s k i tr r).core j = s.core j := by
  rw [putBack, State.modCtx, core_modCore_other _ _ (Ne.symm h), core_modCore_other _ _ (Ne.symm h), record_core]

theorem putBack_core (r : Region) : ∃ p n, (putBack s k i tr r).core k
    = ({ s.core k with pend := p }).modCtx i (restartCtx i n r ((s.core k).ctx i)) := by
  rw [putBack, State.modCtx, core_modCore_same, core_modCore_same, record_core]
  exact ⟨_, _, rfl⟩

/-- What a region's restart leaves. -/
theorem restarted_spec (r : Region) :
    sget [] (restarted s k i tr r).bufs (clusterKey k) = sget [] s.bufs (clusterKey k)
      ++ [faultRec 0x06 k i 0 r.ckpt.pc.toNat tr.addr.toNat 0 0 (causeCode tr.cause)]
    ∧ (∃ n, (restarted s k i tr r).ctx (k, i) = restartCtx i n r (s.ctx (k, i)) (s.ctx (k, i)))
    ∧ (∀ j b, nearByte (restarted s k i tr r) j b = nearByte s j b)
    ∧ (∀ j, j ≠ i → ((restarted s k i tr r).core k).ctx j = (s.core k).ctx j)
    ∧ ∀ j, j ≠ k → (restarted s k i tr r).core j = s.core j := by
  have key : ∀ u : State, u.bufs = (putBack s k i tr r).bufs → (∀ j, j ≠ k → u.core j = (putBack s k i tr r).core j) →
      (u.core k).ctxs = ((putBack s k i tr r).core k).ctxs → (u.core k).near = ((putBack s k i tr r).core k).near →
      sget [] u.bufs (clusterKey k) = sget [] s.bufs (clusterKey k)
        ++ [faultRec 0x06 k i 0 r.ckpt.pc.toNat tr.addr.toNat 0 0 (causeCode tr.cause)]
      ∧ (∃ n, u.ctx (k, i) = restartCtx i n r (s.ctx (k, i)) (s.ctx (k, i)))
      ∧ (∀ j b, nearByte u j b = nearByte s j b) ∧ (∀ j, j ≠ i → (u.core k).ctx j = (s.core k).ctx j)
      ∧ ∀ j, j ≠ k → u.core j = s.core j := by
    intro u hb ho hx hn
    obtain ⟨p, n, hc⟩ := putBack_core (s := s) (k := k) (i := i) (tr := tr) r
    refine ⟨?_, ⟨n, ?_⟩, fun j b => ?_, fun j hj => ?_, fun j hj => (ho j hj).trans (putBack_other r hj)⟩
    · rw [hb, putBack_bufs]
    · rw [State.ctx, Core.ctx, hx, hc]
      exact ctx_modCtx_same _ _ _
    · rw [nearByte, nearByte]
      by_cases hj : j = k
      · rw [hj, hn, hc]
        rfl
      · rw [ho j hj, putBack_other r hj]
    · rw [Core.ctx, hx, hc]
      exact ctx_modCtx_other _ _ (Ne.symm hj)
  rcases restarted_eq s k i tr r with h | ⟨f, h⟩
  · rw [h]
    exact key _ rfl (fun _ _ => rfl) rfl rfl
  · rw [h]
    exact key _ rfl (fun j hj => core_modCore_other _ _ (Ne.symm hj)) (by rw [State.modCtl, core_modCore_same])
      (by rw [State.modCtl, core_modCore_same])

/-! ## A run that will be replayed (R36, R253, R258) -/

theorem mem_agendaInsert (e d : Due) (l : List Due) : d ∈ agendaInsert e l ↔ d = e ∨ d ∈ l := by
  induction l with
  | nil => simp [agendaInsert]
  | cons h r ih =>
    simp only [agendaInsert]
    split
    · simp
    · simp [ih]
      tauto

/-- The core's slot filled and the core stopped. -/
def stopped (s : State) (k : Nat) (w : Word) (tr : Trap) : State :=
  (s.fillSlot k 0 (causeWord tr 0) (s.ctx (k, 0)).pc.toNat (s.ctx (k, 0)).pc.toNat tr.addr w 1 0
    (repWord (s.ctx (k, 0)).rep)).modCtl k (fun l => { l with stopped := true })

/-- The kernel as its failing core marks it. -/
def failingKernel (k : Nat) (tr : Trap) (x : Kernel) : Kernel :=
  { x with failing := if x.failing.isSome then x.failing else some k
           width := x.width || (tr.cause == .timing && tr.sub == 6) }

/-- The record of a run that will be replayed. -/
def logReplay (s : State) (k entry : Nat) (tr : Trap) (kn : Kernel) : State :=
  if kn.replays < 3 then s.record k (faultRec 0x06 k 0 0 entry tr.addr.toNat 0 0 (causeCode tr.cause)) else s

/-- The group's stop put on its way, once per run. -/
def haltGroup (s : State) (kid : Nat) : Stage → State
  | .running =>
    let (d, s) := s.drawIn 1 16
    let s := s.modKernel kid (fun x => { x with stage := .stopping false })
    s.post ((s.beat + d) * Config.ticksPerBeat) (.stop kid)
  | _ => s

/-- Where the run that is replayed began. -/
def replayEntry (s : State) (k : Nat) (pc : Word) : Nat :=
  match (s.core k).ctl.ckpt with | some e => e.pc.toNat | none => pc.toNat

/-- The run of a kernel that its failing core's deviation stops. -/
def replayKernel (u : State) (k : Nat) (tr : Trap) (pc : Word) (kid : Nat) : Option Kernel → State
  | none => u.fatal k 0 tr pc
  | some kn =>
    let u := u.modKernel kid (failingKernel k tr)
    haltGroup (logReplay u k (replayEntry u k pc) tr kn) kid kn.stage

theorem replay_eq {kid : Nat} (h1 : ((stopped s k w tr).core k).ctl.kernel = some kid) :
    s.replay k w tr = replayKernel (stopped s k w tr) k tr (s.ctx (k, 0)).pc kid ((stopped s k w tr).kernel kid) := by
  unfold State.replay
  extract_lets x s1 s2
  have hs : s2 = stopped s k w tr := rfl
  rw [← hs] at h1 ⊢
  clear_value s2
  rw [h1]
  dsimp only
  cases s2.kernel kid with
  | none => rfl
  | some kn =>
    rw [replayKernel]
    dsimp only
    generalize kn.stage = st
    cases st <;> rfl

/-- A stopped core. -/
def stoppedCore (k : Nat) (bs : List Byte) (c : Core) : Core :=
  let c := c.portWrite (slotAddr (Machine.tierOf k) 0) bs
  { c with ctl := { c.ctl with stopped := true } }

theorem stoppedCore_near (k : Nat) (bs : List Byte) (c : Core) :
    (stoppedCore k bs c).near = (c.portWrite (slotAddr (Machine.tierOf k) 0) bs).near := rfl

theorem stoppedCore_stopped (k : Nat) (bs : List Byte) (c : Core) : (stoppedCore k bs c).ctl.stopped = true := rfl

theorem stoppedCore_ctx (k : Nat) (bs : List Byte) (c : Core) (j : Nat) : (stoppedCore k bs c).ctx j = c.ctx j := rfl

theorem stopped_core : (stopped s k w tr).core k = stoppedCore k (slotBytes (causeWord tr 0) (s.ctx (k, 0)).pc.toNat
    (s.ctx (k, 0)).pc.toNat tr.addr w 1 0 (repWord (s.ctx (k, 0)).rep) s.beat) (s.core k) := by
  rw [stopped, fillSlot_eq, State.modCtl, core_modCore_same, core_modCore_same]
  rfl

theorem stopped_other {j : Nat} (h : j ≠ k) : (stopped s k w tr).core j = s.core j := by
  rw [stopped, fillSlot_eq, State.modCtl, core_modCore_other _ _ (Ne.symm h), core_modCore_other _ _ (Ne.symm h)]

theorem stopped_coreless : coreless (stopped s k w tr) = coreless s := by
  rw [stopped, fillSlot_eq, State.modCtl, coreless_modCore, coreless_modCore]

theorem logReplay_cores (u : State) (entry : Nat) (kn : Kernel) : (logReplay u k entry tr kn).cores = u.cores := by
  unfold logReplay
  split
  · exact record_cores _ _ _
  · rfl

theorem logReplay_gaf (u : State) (entry : Nat) (kn : Kernel) : (logReplay u k entry tr kn).gaf = u.gaf := by
  unfold logReplay
  split
  · exact record_gaf _ _ _
  · rfl

theorem logReplay_now (u : State) (entry : Nat) (kn : Kernel) : (logReplay u k entry tr kn).now = u.now := by
  unfold logReplay
  split
  · exact record_now _ _ _
  · rfl

theorem logReplay_bufs (u : State) (entry : Nat) (kn : Kernel) :
    sget [] (logReplay u k entry tr kn).bufs (clusterKey k) = sget [] u.bufs (clusterKey k)
      ++ (if kn.replays < 3 then [faultRec 0x06 k 0 0 entry tr.addr.toNat 0 0 (causeCode tr.cause)] else []) := by
  unfold logReplay
  split
  · exact recorded_record _ _ _
  · exact (List.append_nil _).symm

theorem haltGroup_cores (u : State) (kid : Nat) (st : Stage) : (haltGroup u kid st).cores = u.cores := by
  cases st <;> rfl

theorem haltGroup_bufs (u : State) (kid : Nat) (st : Stage) : (haltGroup u kid st).bufs = u.bufs := by
  cases st <;> rfl

theorem kernel_modKernel (u : State) (kid : Nat) (f : Kernel → Kernel) : (u.modKernel kid f).kernel kid = (u.kernel kid).map f := by
  rw [State.modKernel, kernel_setKernel, if_pos rfl]

theorem haltGroup_kernel {u : State} {kid : Nat} {st : Stage} {x : Kernel} (h : u.kernel kid = some x) (hst : x.stage = st) :
    (haltGroup u kid st).kernel kid = some { x with stage := if st = .running then .stopping false else st } := by
  cases st with
  | running =>
    show (State.modKernel (u.drawIn 1 16).2 kid (fun x => { x with stage := .stopping false })).kernel kid = _
    rw [kernel_modKernel]
    exact congrArg (Option.map _) h
  | _ =>
    refine h.trans (congrArg some ?_)
    rw [if_neg (by simp), ← hst]

theorem haltGroup_agenda (u : State) (kid : Nat) :
    ∃ d, 1 ≤ d ∧ ⟨(u.beat + d) * Config.ticksPerBeat, .stop kid⟩ ∈ (haltGroup u kid .running).agenda :=
  ⟨_, Nat.le_add_right _ _, (mem_agendaInsert _ _ _).2 (.inl rfl)⟩

/-- The kernel as a deviation of core `k` leaves it (R36, R253). -/
theorem failingKernel_eq (kn : Kernel) : { failingKernel k tr kn with
      stage := if kn.stage = Stage.running then .stopping false else kn.stage }
    = { kn with
        failing := if kn.failing = none then some k else kn.failing
        width := kn.width || decide (tr.cause = Cause.timing ∧ tr.sub = 6)
        stage := if kn.stage = Stage.running then .stopping false else kn.stage } := by
  have h1 : (if kn.failing.isSome then kn.failing else some k) = if kn.failing = none then some k else kn.failing := by
    cases kn.failing <;> rfl
  have h2 : (tr.cause == .timing && tr.sub == 6) = decide (tr.cause = Cause.timing ∧ tr.sub = 6) := by
    rw [Bool.decide_and, beq_eq_decide, beq_eq_decide]
  rw [failingKernel, h1, h2]

theorem kernel_of_coreless {u v : State} (h : coreless u = coreless v) (i : Nat) : u.kernel i = v.kernel i :=
  (congrArg (fun x : State => x.kernel i) h :)

theorem ckpt_stopped : ((stopped s k w tr).core k).ctl.ckpt = (s.core k).ctl.ckpt := by
  rw [stopped_core]
  rfl

theorem replayEntry_congr {u v : State} (h : (u.core k).ctl.ckpt = (v.core k).ctl.ckpt) (pc : Word) :
    replayEntry u k pc = replayEntry v k pc := by
  rw [replayEntry, h, replayEntry]

theorem replay_spec {kid : Nat} {kn : Kernel} (h1 : (s.core k).ctl.kernel = some kid) (h2 : s.kernel kid = some kn) :
    ∃ u : State, s.replay k w tr = haltGroup (logReplay u k (replayEntry s k (s.ctx (k, 0)).pc) tr kn) kid kn.stage
      ∧ u.cores = (stopped s k w tr).cores ∧ u.bufs = s.bufs ∧ u.now = s.now
      ∧ u.kernel kid = some (failingKernel k tr kn) := by
  have hk : ((stopped s k w tr).core k).ctl.kernel = some kid := by
    rw [stopped_core]
    exact h1
  have hless : coreless (stopped s k w tr) = coreless s := stopped_coreless
  have hkn : (stopped s k w tr).kernel kid = some kn := by
    rw [← h2]
    exact kernel_of_coreless hless kid
  have hc : ((stopped s k w tr).core k).ctl.ckpt = (s.core k).ctl.ckpt := ckpt_stopped
  have heq := replay_eq hk
  rw [hkn] at heq
  generalize stopped s k w tr = v at *
  refine ⟨v.modKernel kid (failingKernel k tr), ?_, rfl, (congrArg State.bufs hless :), (congrArg State.now hless :), ?_⟩
  · rw [heq, replayKernel, replayEntry_congr (u := v.modKernel kid (failingKernel k tr)) (v := s) hc]
  · rw [kernel_modKernel, hkn]
    rfl

/-- A DEVIATION OF A RUN THAT WILL BE REPLAYED (R36, R253, R258). -/
theorem replay_holds {t : State} {kid : Nat} {kn : Kernel} (h0 : s.replay k w tr = t)
    (h1 : (s.core k).ctl.kernel = some kid) (h2 : s.kernel kid = some kn) :
    SlotHolds t k 0 (causeWord tr 0) (s.ctx (k, 0)).pc.toNat (s.ctx (k, 0)).pc.toNat tr.addr w 1 0 (repWord (s.ctx (k, 0)).rep) s.beat
    ∧ (t.core k).ctl.stopped = true
    ∧ sget [] t.bufs (clusterKey k) = sget [] s.bufs (clusterKey k) ++ (if kn.replays < 3 then
        [faultRec 0x06 k 0 0 (replayEntry s k (s.ctx (k, 0)).pc) tr.addr.toNat 0 0 (causeCode tr.cause)] else [])
    ∧ t.kernel kid = some { failingKernel k tr kn with stage := if kn.stage = Stage.running then .stopping false else kn.stage }
    ∧ (kn.stage = .running → ∃ d, 1 ≤ d ∧ ⟨(s.beat + d) * Config.ticksPerBeat, .stop kid⟩ ∈ t.agenda)
    ∧ (∀ j, placeless ((t.core k).ctx j) = placeless ((s.core k).ctx j)) ∧ ∀ j, j ≠ k → t.core j = s.core j := by
  obtain ⟨u, ht, hc, hb, hn, hk⟩ := replay_spec (w := w) (tr := tr) h1 h2
  rw [h0] at ht
  have hcore : ∀ j, t.core j = (stopped s k w tr).core j := by
    intro j
    rw [ht, State.core, haltGroup_cores, logReplay_cores, hc, State.core]
  have hslot := coreSlot_portWrite (s.core k) (slotAddr (Machine.tierOf k) 0) (causeWord tr 0) (s.ctx (k, 0)).pc.toNat
    (s.ctx (k, 0)).pc.toNat tr.addr w 0 (repWord (s.ctx (k, 0)).rep) s.beat (show 1 < 4 by decide)
  have hcs := stopped_core (s := s) (k := k) (w := w) (tr := tr)
  refine ⟨slotHolds_iff (coreSlot_congr hslot ?_), ?_, ?_, ?_, fun hr => ?_, fun j => ?_, fun j hj => ?_⟩
  · rw [hcore, hcs, stoppedCore_near]
  · rw [hcore, hcs, stoppedCore_stopped]
  · rw [ht, haltGroup_bufs, logReplay_bufs, hb]
  · rw [ht]
    refine haltGroup_kernel (x := failingKernel k tr kn) ?_ rfl
    rw [State.kernel, logReplay_gaf]
    exact hk
  · obtain ⟨d, hd, hmem⟩ := haltGroup_agenda (logReplay u k (replayEntry s k (s.ctx (k, 0)).pc) tr kn) kid
    rw [State.beat, logReplay_now, hn] at hmem
    refine ⟨d, hd, ?_⟩
    rw [ht, hr]
    exact hmem
  · rw [hcore, hcs, stoppedCore_ctx]
  · rw [hcore, stopped_other hj]

theorem timed_zero {c : Core} {i : Nat} (h : c.timed i = true) : i = 0 := by
  simp only [Core.timed, Bool.and_eq_true, beq_iff_eq] at h
  exact h.1.1

theorem ne_wspill_of_restarts (h : restarts tr = true) : ¬ (tr.cause = .wspill ∧ tr.sub = 1) := by
  rintro ⟨h1, -⟩
  rw [restarts, h1] at h
  exact absurd h (by simp)

/-- Settles O22: the slot, the entry, the replay, the restart and the end are what `takeTrap` does in each case. -/
theorem trapFillsTheSlotAndEntersTheHandler : Obligations.TrapFillsTheSlotAndEntersTheHandler := by
  intro s k i v w tr hi
  dsimp only
  rw [← causeWord_eq]
  refine ⟨fun ⟨h1, h2, h3⟩ hh => ?_, fun h1 h2 => ?_, fun h1 h2 => ?_, fun ⟨h1, h2, h3⟩ h0 hh => ?_, fun h1 h2 r hr hle => ?_,
    fun h1 h2 kid kn hkid hkn => ?_, fun h1 h2 r hr hlt => ?_⟩
  · have ht : s.takeTrap (k, i) w tr = _ := (takeTrap_plain h2 h1 h3).trans (if_neg (by
      rintro ⟨h0, hs⟩
      rw [hh h0] at hs
      exact absurd hs (by decide)))
    rw [ht]
    refine ⟨fun hf hv => slotTaken_enters hf hi (.inl rfl) hv, fun hn => ?_⟩
    exact slotTaken_waits hn (by decide)
  · rw [takeTrap_wspill h1 h2]
    exact fatal_ends _ _ _ _ _
  · by_cases hw : tr.cause = .wspill ∧ tr.sub = 1
    · rw [takeTrap_wspill hw.1 hw.2]
      exact fatal_ends _ _ _ _ _
    · have ht : s.takeTrap (k, i) w tr = _ := (takeTrap_timed hw h1).trans (if_neg (fun h => h2 ((replays_iff tr).1 h)))
      rw [ht]
      exact fatal_ends _ _ _ _ _
  · have ht : s.takeTrap (k, i) w tr = _ := (takeTrap_plain h2 h1 h3).trans
      (if_pos ⟨h0, Option.isSome_iff_ne_none.2 hh⟩)
    rw [ht]
    exact fatal_ends _ _ _ _ _
  · have ht := takeTrap_outside (w := w) (ne_wspill_of_restarts h2) h1
    rw [if_pos h2, hr, outside, if_pos hle] at ht
    rw [ht]
    exact fatal_ends _ _ _ _ _
  · obtain rfl := timed_zero h1
    have hw : ¬ (tr.cause = .wspill ∧ tr.sub = 1) := by
      rintro ⟨hc, -⟩
      rw [hc] at h2
      exact absurd h2 (by decide)
    have ht : s.takeTrap (k, 0) w tr = _ := (takeTrap_timed hw h1).trans (if_pos ((replays_iff tr).2 h2))
    obtain ⟨e1, e2, e3, e4, e5, e6, e7⟩ := replay_holds ht.symm hkid hkn
    rw [← failingKernel_eq]
    exact ⟨e1, e2, e3, e4, e5, e6, e7⟩
  · have ht := takeTrap_outside (w := w) (ne_wspill_of_restarts h2) h1
    rw [if_pos h2, hr, outside, if_neg (Nat.not_le.2 hlt)] at ht
    rw [ht]
    obtain ⟨e1, ⟨n, e2⟩, e3, e4, e5⟩ := restarted_spec (s := s) (k := k) (i := i) (tr := tr) r
    rw [e2]
    refine ⟨e1, rfl, rfl, rfl, rfl, rfl, rfl, rfl, rfl, rfl, rfl, rfl, rfl, rfl, fun hrun => ?_, fun hrun => ?_, e3, e4, e5⟩
    · show restartRun i (s.ctx (k, i)).run = .running
      rcases hrun with ⟨u, hu⟩ | hu | ⟨h0, u, hu⟩
      · rw [hu, restartRun]
      · rw [hu, restartRun]
        all_goals simp
      · rw [hu, restartRun, if_pos h0]
    · obtain ⟨h0, u, hu⟩ := hrun
      show restartRun i (s.ctx (k, i)).run = .ready
      rw [hu, restartRun, if_neg h0]

end

end Sys2Proof.Proofs
end


section
/-! PROOFS. TRAP and ERET (R84, R254 to R256, R336, R390, R424): the request of the handler, and the return from it. -/

namespace Sys2Proof.Proofs

open Sys2Proof.Machine Sys2Proof.Safety Sys2Proof.Laws

/-! ## An instruction that moves its context itself -/

/-- What such an instruction leaves: its effect, and a core that records no use of a unit. -/
theorem retire_moved (n : Need) (u : State) (hn : n.unit = none) : retire n ⟨u, .moved⟩ true = u.modCtl u.cur.1 (fun c => c) := by
  show u.modCtl u.cur.1 (fun c => c.touch n.unit u.now (cyc u.cur.1) (u.now + n.occ * cyc u.cur.1)) = _
  rw [hn]
  rfl

theorem core_modCtl_id (u : State) (k j : Nat) : (u.modCtl k (fun c => c)).core j = u.core j := by
  rw [State.modCtl, core_modCore]
  split
  · next h => rw [h]
  · rfl

theorem moved_issue {n : Need} {body : State → Except Trap Done} {s u : State} {P : State → Prop} (hr : Ready n s)
    (hb : body s = .ok ⟨u, .moved⟩) (hs : n.soft s = 0) (hn : n.unit = none)
    (hP : ∀ t : State, (∀ j, t.core j = u.core j) → coreless t = coreless u → P t) : Answers (issue n body s) P := by
  refine ⟨_, issue_clean hr hb hs, ?_⟩
  rw [retire_moved _ _ (by simp [idleUnit, hn])]
  exact hP _ (core_modCtl_id u u.cur.1) rfl

theorem coreNat_congr {t u : State} {k : Nat} (h : t.core k = u.core k) (a n : Nat) : coreNat t k a n = coreNat u k a n := by
  rw [← readNat_eq_coreNat, ← readNat_eq_coreNat, h]

theorem slotHolds_congr {t u : State} {k i pc resume kind n beat : Nat} {cw addr rep : DWord} {w : Word}
    (h : SlotHolds u k i cw pc resume addr w kind n rep beat) (hc : t.core k = u.core k) :
    SlotHolds t k i cw pc resume addr w kind n rep beat := by
  obtain ⟨h1, h2, h3, h4, h5, h6, h7, h8⟩ := h
  simp only [← coreNat_congr hc] at h1 h2 h3 h4 h5 h6 h7 h8
  exact ⟨h1, h2, h3, h4, h5, h6, h7, h8⟩

theorem handles_congr {s s' t u : State} {k i v pc : Nat} {cw addr : DWord} {w : Word} (h : Handles s u k i v cw pc addr w)
    (hc : t.core k = u.core k) (hk : (s'.core k).ctl.kept = (s.core k).ctl.kept)
    (hx : i ≠ 0 → (s'.ctx (k, 0)).run = (s.ctx (k, 0)).run ∧ (s'.ctx (k, 0)).pc = (s.ctx (k, 0)).pc) :
    Handles s' t k i v cw pc addr w := by
  obtain ⟨h1, h2, h3, h4, h5, h6, h7, h8, h9⟩ := h
  refine ⟨by rw [hc, h1], ?_, ?_, by rw [hc, h4], by rw [hc, h5], by rw [hc, h6], by rw [hc, h7], fun h0 => ?_, fun h0 hn => ?_⟩
  · rw [State.ctx, hc]
    exact h2
  · rw [State.ctx, hc]
    exact h3
  · rw [State.ctx, hc]
    exact h8 h0
  · rw [hc, (hx h0).1, (hx h0).2]
    exact h9 h0 (hk ▸ hn)

/-! ## TRAP -/

theorem trapNeed_ill {len : Nat} {h : Hdr} {s : State}
    (hi : s.cur.2 = 0 ∧ (inStep s = true ∨ (s.core s.cur.1).ctl.handling ≠ none)) : (trapNeed len h s).ill = true := by
  obtain ⟨h0, h1⟩ := hi
  simp only [trapNeed, h0, beq_self_eq_true, Bool.true_and, Bool.or_eq_true, Option.isSome_iff_ne_none]
  exact h1

theorem trapNeed_legal {len : Nat} {h : Hdr} {s : State}
    (hi : ¬ (s.cur.2 = 0 ∧ (inStep s = true ∨ (s.core s.cur.1).ctl.handling ≠ none))) :
    trapNeed len h s = { len := len, hdr := h, transfer := true, endKind := 2 } := by
  have hill : (s.cur.2 == 0 && (inStep s || (s.core s.cur.1).ctl.handling.isSome)) = false := by
    refine Bool.eq_false_iff.2 (fun hc => hi ?_)
    rw [Bool.and_eq_true, Bool.or_eq_true, beq_iff_eq, Option.isSome_iff_ne_none] at hc
    exact hc
  rw [trapNeed, hill]

theorem blockEnds_ok_bind {x : Except Trap Unit} {y : Except Trap Done} (h : x = .ok ()) : (x >>= fun _ => y) = y := by
  rw [h]
  rfl

/-- The context that TRAP or ERET leaves no open block in. -/
def blockless (s : State) : State := s.modCtx s.cur (fun x => { x with sig := 0, sigEnd := none })

section
variable {s : State}

theorem blockless_core : (blockless s).core s.cur.1
    = (s.core s.cur.1).modCtx s.cur.2 (fun x => { x with sig := 0, sigEnd := none }) := core_modCore_same _ _ _

theorem blockless_ctx (j : Nat) : ((blockless s).core s.cur.1).ctx j
    = if s.cur.2 = j then { s.ctx s.cur with sig := 0, sigEnd := none } else (s.core s.cur.1).ctx j := by
  rw [blockless_core]
  exact ctx_modCtx _ _ _ _

theorem blockless_other {j : Nat} (h : j ≠ s.cur.1) : (blockless s).core j = s.core j :=
  core_modCore_other _ _ (Ne.symm h)

/-- TRAP's request, seen from the machine before it. -/
theorem request_enters {len n v : Nat} {w : Word} {t : State} (hi : s.cur.2 < 4) (hf : c0Free s s.cur.1)
    (hv : (s.core s.cur.1).vector (Machine.tierOf s.cur.1) 2 = some v)
    (hc : ∀ j, t.core j = ((blockless s).request s.cur w (behind s len) n).core j)
    (hl : coreless t = coreless ((blockless s).request s.cur w (behind s len) n)) :
    SlotHolds t s.cur.1 s.cur.2 0 (pcv s) (behind s len) 0 w 2 n (repWord (s.ctx s.cur).rep) s.beat
      ∧ Handles s t s.cur.1 s.cur.2 v 0 (pcv s) 0 w ∧ OnlySlot s t s.cur.1 s.cur.2 := by
  have hx : (blockless s).ctx s.cur = { s.ctx s.cur with sig := 0, sigEnd := none } := state_ctx_modCtx_same _ _ _
  have hf' : c0Free (blockless s) s.cur.1 := by
    obtain ⟨h1, h2, h3⟩ := hf
    rw [c0Free, blockless_core]
    exact ⟨h1, h2, h3⟩
  have hv' : ((blockless s).core s.cur.1).vector (Machine.tierOf s.cur.1) 2 = some v := by
    rw [blockless_core]
    exact hv
  have key := slotTaken_enters (s := blockless s) (cw := 0) (pc := pcv s) (resume := behind s len) (addr := 0) (w := w) (n := n)
    (rep := repWord (s.ctx s.cur).rep) hf' hi (.inr rfl) hv'
  have hreq : (blockless s).request s.cur w (behind s len) n = slotTaken (blockless s) s.cur.1 s.cur.2 0 (pcv s) (behind s len) 0 w 2 n
      (repWord (s.ctx s.cur).rep) := by
    show slotTaken (blockless s) s.cur.1 s.cur.2 0 ((blockless s).ctx s.cur).pc.toNat (behind s len) 0 w 2 n
      (repWord ((blockless s).ctx s.cur).rep) = _
    rw [hx]
    rfl
  rw [hreq] at hc hl
  generalize slotTaken (blockless s) s.cur.1 s.cur.2 0 (pcv s) (behind s len) 0 w 2 n (repWord (s.ctx s.cur).rep) = u at *
  obtain ⟨k1, k2, k3, k4, k5, k6⟩ := key
  refine ⟨slotHolds_congr k1 (hc _), handles_congr k2 (hc _) ?_ (fun h0 => ?_), onlySlot_of (fun j => ?_) (fun b hb => ?_)
    (fun j hj => ?_) ?_⟩
  · rw [blockless_core]
    rfl
  · rw [State.ctx, State.ctx, blockless_ctx, if_neg h0]
    exact ⟨rfl, rfl⟩
  · rw [hc, k3, blockless_ctx]
    split
    · next h =>
      rw [← h]
      rfl
    · rfl
  · rw [nearByte, hc]
    refine (k4 b hb).trans ?_
    rw [nearByte, blockless_core]
    rfl
  · rw [hc, k5 j hj, blockless_other hj]
  · exact hl.trans k6

theorem trapBody_fault {len n : Nat} {tr : Trap} (h : blockEnds len (behind s len) s = .error tr) :
    trapBody len n s = .error tr := by
  show (blockEnds len (behind s len) s >>= fun _ => _) = _
  rw [h]
  rfl

theorem trapBody_ok {len n : Nat} (h : blockEnds len (behind s len) s = .ok ()) :
    trapBody len n s = .ok ⟨(blockless s).request s.cur (s.issuedWord s.cur) (behind s len) n, .moved⟩ := by
  show (blockEnds len (behind s len) s >>= fun _ => _) = _
  rw [h]
  rfl

end

/-- Settles O23: a TRAP that may issue checks its block and requests the handler. -/
theorem trapInstructionRequestsTheHandler : Obligations.TrapInstructionRequestsTheHandler := by
  intro s h gap imm lit v
  simp only [exec_trap, exec_trapLong]
  have traps : ∀ len n (hd : Hdr), Ready { len := len, hdr := hd, transfer := true, endKind := 2 } s →
      ¬ (s.cur.2 = 0 ∧ (inStep s = true ∨ (s.core s.cur.1).ctl.handling ≠ none)) →
      (∀ tr, blockEnds len (behind s len) s = .error tr → Traps s tr (issue (trapNeed len hd s) (trapBody len n) s))
      ∧ (blockEnds len (behind s len) s = .ok () → s.cur.2 < 4 → c0Free s s.cur.1 →
        (s.core s.cur.1).vector (Machine.tierOf s.cur.1) 2 = some v → Answers (issue (trapNeed len hd s) (trapBody len n) s) (fun t =>
          SlotHolds t s.cur.1 s.cur.2 0 (pcv s) (behind s len) 0 (s.issuedWord s.cur) 2 n (repWord (s.ctx s.cur).rep) s.beat
          ∧ Handles s t s.cur.1 s.cur.2 v 0 (pcv s) 0 (s.issuedWord s.cur) ∧ OnlySlot s t s.cur.1 s.cur.2)) := by
    intro len n hd hr hn
    rw [trapNeed_legal hn]
    exact ⟨fun tr he => issue_trap hr (trapBody_fault he), fun he hi hf hv =>
      moved_issue hr (trapBody_ok he) (soft_nil rfl) rfl (fun t hc hl => request_enters hi hf hv hc hl)⟩
  exact ⟨fun hi => ⟨traps_illop (trapNeed_ill hi), traps_illop (trapNeed_ill hi)⟩,
    fun hn => ⟨fun hr => traps 1 _ _ hr hn, fun hr => traps 3 _ _ hr hn⟩⟩

/-! ## ERET -/

/-- An instruction that moves its context itself, whatever it has read: the cores it leaves. -/
theorem moved_counted {n : Need} {body : State → Except Trap Done} {s u : State} {P : State → Prop} (hr : Ready n s)
    (hb : body s = .ok ⟨u, .moved⟩) (hn : n.unit = none) (hP : ∀ t : State, (∀ j, t.core j = u.core j) → P t) :
    Answers (issue n body s) P := by
  refine ⟨_, issue_ready hr hb, ?_⟩
  have hc : n.counted s ⟨u, .moved⟩ = ⟨u.count s.cur.1 (n.soft s), .moved⟩ := rfl
  rw [hc, retire_moved _ _ (by simp [idleUnit, hn])]
  exact hP _ (fun j => (core_modCtl_id _ _ _).trans (count_core _ _ _ _))

/-- The core of a c0 that leaves Handling. -/
def leftCore (c : Core) : Core :=
  let c := match c.ctl.kept with
    | none => c
    | some (r, pc) => c.modCtx 0 (fun x => { x with run := r, pc := pc })
  { c with ctl := { c.ctl with handling := none, cause := 0, tpc := 0, taddr := 0, tword := 0, kept := none } }

theorem leaveHandling_eq (s : State) (k : Nat) : s.leaveHandling k = (s.modCore k leftCore).serve k := rfl

theorem serve_idle {u : State} {k : Nat} (h : (u.core k).ctl.waiting = []) : u.serve k = u := by
  rw [State.serve]
  dsimp only
  rw [h]
  split <;> rfl

theorem leftCore_ctl (c : Core) : (leftCore c).ctl
    = { c.ctl with handling := none, cause := 0, tpc := 0, taddr := 0, tword := 0, kept := none } := by
  unfold leftCore
  cases c.ctl.kept <;> rfl

theorem leftCore_near (c : Core) : (leftCore c).near = c.near := by
  unfold leftCore
  cases c.ctl.kept <;> rfl

/-- c0 returns to what it was kept in. -/
theorem leftCore_ctx {c : Core} {r : Run} {pc : Word} (h : c.ctl.kept = some (r, pc)) (j : Nat) :
    (leftCore c).ctx j = if 0 = j then { c.ctx 0 with run := r, pc := pc } else c.ctx j := by
  unfold leftCore
  rw [h]
  exact ctx_modCtx c 0 j (fun x => { x with run := r, pc := pc })

theorem leftCore_ctx_stays {c : Core} (h : c.ctl.kept = none) (j : Nat) : (leftCore c).ctx j = c.ctx j := by
  unfold leftCore
  rw [h]
  rfl

/-- The handled slot's KIND cleared. -/
def kindCleared (a kind : Nat) (c : Core) : Core := c.portWrite (a + 28) (leBytes 4 (kind / 4 * 4))

section
variable {s : State} {k i : Nat}

/-- What a return from the handler leaves, told of the cores of the context's own core. -/
structure LeftTo (c c' : Core) (a i : Nat) : Prop where
  ctl  : c'.ctl.handling = none ∧ c'.ctl.cause = 0 ∧ c'.ctl.tpc = 0 ∧ c'.ctl.taddr = 0 ∧ c'.ctl.tword = 0 ∧ c'.ctl.kept = none
  kind : c'.readNat (a + 28) 4 % 4 = 0
  regs : ∀ j, placeless (c'.ctx j) = placeless (c.ctx j)
  near : ∀ b, b < a + 28 ∨ a + 32 ≤ b → sget 0 c'.near b = sget 0 c.near b
  kept : i ≠ 0 → c.ctl.kept = some ((c'.ctx 0).run, (c'.ctx 0).pc)

/-- The core with context `i` changed, before c0 leaves Handling. -/
theorem leftTo_of {c d e : Core} {a kind : Nat} (hd : d.near = (kindCleared a kind c).near) (hk : d.ctl.kept = c.ctl.kept)
    (hx : ∀ j, placeless (d.ctx j) = placeless (c.ctx j)) (hi : i ≠ 0 → ∃ r p, c.ctl.kept = some (r, p))
    (h0 : i = 0 → c.ctl.kept = none) (hectl : ∃ t n, e.ctl = { (leftCore d).ctl with turn := t, issueAt := n })
    (hen : e.near = (leftCore d).near) (hex : ∀ j, placeless (e.ctx j) = placeless ((leftCore d).ctx j))
    (hez : i ≠ 0 → e.ctx 0 = (leftCore d).ctx 0) : LeftTo c e a i := by
  have hnear : e.near = (kindCleared a kind c).near := by rw [hen, leftCore_near, hd]
  obtain ⟨t, n, ht⟩ := hectl
  rw [leftCore_ctl] at ht
  refine ⟨?_, ?_, fun j => ?_, fun b hb => ?_, fun hi0 => ?_⟩
  · rw [ht]
    exact ⟨rfl, rfl, rfl, rfl, rfl, rfl⟩
  · rw [readNat_congr hnear, kindCleared, readNat_field c (a + 28) 4 (kind / 4 * 4) [] [] (by simp) (by simp)]
    omega
  · rw [hex]
    by_cases hi0 : i = 0
    · rw [leftCore_ctx_stays (hk.trans (h0 hi0)), hx]
    · obtain ⟨r, p, hrp⟩ := hi hi0
      rw [leftCore_ctx (hk.trans hrp)]
      split
      · next hj =>
        rw [← hj, ← hx]
        rfl
      · rw [hx]
  · rw [hnear, kindCleared, portWrite_near, sget_writeBytes, length_leBytes, if_neg (by omega)]
  · obtain ⟨r, p, hrp⟩ := hi hi0
    rw [hrp, hez hi0, leftCore_ctx (hk.trans hrp), if_pos rfl]

/-- The machine after a return that halts its context. -/
def haltedReturn (s : State) (k i : Nat) : State :=
  (s.modCore k (fun x => x.haltCtx i (s.now + cyc k))).leaveHandling k

/-- Where a context that returns goes on. -/
def resumeCtx (i r pc t : Nat) (x : Ctx) : Ctx :=
  let x := { x with pc := BitVec.ofNat 32 r, readyAt := t, run := if i = 0 then .running else .ready }
  if r = pc then x else { x with sig := 0, sigEnd := none }

/-- The machine after a return that resumes its context, before the context takes a free core. -/
def resumedReturn (s : State) (k i r pc : Nat) : State :=
  let s := s.modCtx (k, i) (resumeCtx i r pc (s.now + cyc k))
  let s := s.modCtl k (fun l => { l with issueAt := s.now + cyc k + s.gapAt k r * cyc k })
  s.leaveHandling k

/-- A resumed context takes a core that has no turn. -/
def takeTurn (i t u : Nat) (x : Core) : Core :=
  match x.ctl.turn with
  | none =>
    let x := x.modCtx i (fun y => { y with run := .running })
    { x with ctl := { x.ctl with turn := some i, issueAt := t } }
  | some _ => { x with ctl := { x.ctl with issueAt := u } }

/-- ERET once KIND is cleared (R256, R424). -/
def eretFrom (s : State) (k i r pc : Nat) : Except Trap State :=
  if r = 0xFFFFFFFF then
    let s := haltedReturn s k i
    .ok (match (if i = 0 then (s.core k).ctl.kernel else (s.ctx (k, i)).kernel) with
      | some kid => s.post s.now (.kernelComplete kid)
      | none => s)
  else if !s.isStart k r then .error (.at_ .badtarget r)
  else
    let s := resumedReturn s k i r pc
    if i = 0 ∨ (s.core k).ctl.handling.isSome ∨ (s.core k).ctl.frozen then .ok s
    else .ok (s.modCore k (takeTurn i (s.now + 2 * cyc k + s.gapAt k r * cyc k) (s.now + 2 * cyc k)))

theorem eret_eq (hh : (s.core k).ctl.handling = some i) : s.eret k
    = eretFrom (s.modCore k (kindCleared (slotAddr (Machine.tierOf k) i) ((s.core k).readNat (slotAddr (Machine.tierOf k) i + 28) 4))) k i
      ((s.core k).readNat (slotAddr (Machine.tierOf k) i + 12) 4) ((s.core k).readNat (slotAddr (Machine.tierOf k) i + 8) 4) := by
  unfold State.eret
  rw [hh]
  extract_lets t
  dsimp only
  generalize hs : (s.modCore k fun x => x.portWrite (slotAddr t i + 28) (leBytes 4 ((s.core k).readNat (slotAddr t i + 28) 4 / 4 * 4))) = u
  have hs' : s.modCore k (kindCleared (slotAddr (Machine.tierOf k) i) ((s.core k).readNat (slotAddr (Machine.tierOf k) i + 28) 4)) = u := hs
  rw [hs']
  rfl

theorem leaveHandling_core {u : State} {j : Nat} (h : (u.core k).ctl.waiting = []) :
    (u.leaveHandling k).core j = if k = j then leftCore (u.core k) else u.core j := by
  rw [leaveHandling_eq, serve_idle (by rw [core_modCore_same, leftCore_ctl]; exact h), core_modCore]

theorem haltedReturn_core {u : State} (h : (u.core k).ctl.waiting = []) :
    ∃ n, (haltedReturn u k i).core k = leftCore ((u.core k).haltCtx i n) := by
  have hw : ((u.modCore k (fun x => x.haltCtx i (u.now + cyc k))).core k).ctl.waiting = [] := by
    rw [core_modCore_same]
    exact (leave_fields _ _ _).2.2.1.trans h
  rw [haltedReturn, leaveHandling_core hw, if_pos rfl, core_modCore_same]
  exact ⟨_, rfl⟩

/-- A core whose handled context stands where it goes on. -/
def resumedCore (i r pc n m : Nat) (c : Core) : Core :=
  let c := c.modCtx i (resumeCtx i r pc n)
  { c with ctl := { c.ctl with issueAt := m } }

theorem resumedReturn_core {u : State} {r pc : Nat} (h : (u.core k).ctl.waiting = []) :
    ∃ n m, (resumedReturn u k i r pc).core k = leftCore (resumedCore i r pc n m (u.core k)) := by
  rw [resumedReturn]
  have hw : ∀ f, (((u.modCtx (k, i) (resumeCtx i r pc (u.now + cyc k))).modCtl k f).core k).ctl.waiting
      = (f (u.core k).ctl).waiting := by
    intro f
    rw [State.modCtl, core_modCore_same, State.modCtx, core_modCore_same]
    rfl
  rw [leaveHandling_core ((hw _).trans h), if_pos rfl, State.modCtl, core_modCore_same, State.modCtx, core_modCore_same]
  exact ⟨_, _, rfl⟩

theorem resumeCtx_place (i r pc n : Nat) (x : Ctx) : (resumeCtx i r pc n x).pc = BitVec.ofNat 32 r
    ∧ (resumeCtx i r pc n x).run = (if i = 0 then .running else .ready) ∧ placeless (resumeCtx i r pc n x) = placeless x := by
  unfold resumeCtx
  dsimp only
  split <;> exact ⟨rfl, rfl, rfl⟩

theorem resumedCore_ctx (i r pc n m : Nat) (c : Core) (j : Nat) :
    (resumedCore i r pc n m c).ctx j = if i = j then resumeCtx i r pc n (c.ctx i) else c.ctx j :=
  ctx_modCtx c i j (resumeCtx i r pc n)

theorem kindCleared_ctx (a kind : Nat) (c : Core) (j : Nat) : (kindCleared a kind c).ctx j = c.ctx j := rfl

theorem kindCleared_kept (a kind : Nat) (c : Core) : (kindCleared a kind c).ctl.kept = c.ctl.kept := rfl

/-- A return that halts its context (R256). -/
theorem haltedCore_leaves {c : Core} {a kind n : Nat} (hi : i ≠ 0 → ∃ r p, c.ctl.kept = some (r, p)) (h0 : i = 0 → c.ctl.kept = none) :
    LeftTo c (leftCore ((kindCleared a kind c).haltCtx i n)) a i
      ∧ ((leftCore ((kindCleared a kind c).haltCtx i n)).ctx i).run = .halted := by
  have hk : ((kindCleared a kind c).haltCtx i n).ctl.kept = c.ctl.kept := (leave_fields _ _ _).2.2.2.1
  refine ⟨leftTo_of (haltCtx_near _ _ _) hk (fun j => ?_) hi h0 ⟨_, _, rfl⟩ rfl (fun _ => rfl) (fun _ => rfl), ?_⟩
  · rw [haltCtx_ctx]
    split
    · next h =>
      rw [← h]
      rfl
    · rfl
  · by_cases hz : i = 0
    · rw [leftCore_ctx_stays (hk.trans (h0 hz)), haltCtx_ctx, if_pos rfl]
    · obtain ⟨r, p, hrp⟩ := hi hz
      rw [leftCore_ctx (hk.trans hrp), if_neg (Ne.symm hz), haltCtx_ctx, if_pos rfl]

theorem takeTurn_parts (i t u : Nat) (x : Core) : (∃ a b, (takeTurn i t u x).ctl = { x.ctl with turn := a, issueAt := b })
    ∧ (takeTurn i t u x).near = x.near ∧ (∀ j, j ≠ i → (takeTurn i t u x).ctx j = x.ctx j)
    ∧ ((takeTurn i t u x).ctx i = x.ctx i ∨ (takeTurn i t u x).ctx i = { x.ctx i with run := .running }) := by
  cases h : x.ctl.turn with
  | none =>
    have e : takeTurn i t u x = { x.modCtx i (fun y => { y with run := .running }) with
        ctl := { x.ctl with turn := some i, issueAt := t } } := by
      rw [takeTurn, h]
      rfl
    rw [e]
    exact ⟨⟨_, _, rfl⟩, rfl, fun j hj => ctx_modCtx_other x (fun y => { y with run := .running }) (Ne.symm hj),
      .inr (ctx_modCtx_same x i (fun y => { y with run := .running }))⟩
  | some a =>
    have e : takeTurn i t u x = { x with ctl := { x.ctl with issueAt := u } } := by rw [takeTurn, h]
    rw [e]
    exact ⟨⟨_, _, rfl⟩, rfl, fun j _ => rfl, .inl rfl⟩

/-- A return that resumes its context (R256, R424). -/
theorem resumedCore_leaves {c e : Core} {a kind r pc n m : Nat} (hi : i ≠ 0 → ∃ r p, c.ctl.kept = some (r, p))
    (h0 : i = 0 → c.ctl.kept = none)
    (he : e = leftCore (resumedCore i r pc n m (kindCleared a kind c))
      ∨ (i ≠ 0 ∧ ∃ t u, e = takeTurn i t u (leftCore (resumedCore i r pc n m (kindCleared a kind c))))) :
    LeftTo c e a i ∧ (e.ctx i).pc = BitVec.ofNat 32 r ∧ ((e.ctx i).run = .running ∨ (e.ctx i).run = .ready)
      ∧ (i = 0 → (e.ctx i).run = .running) := by
  obtain ⟨e1, e2, e3⟩ := resumeCtx_place i r pc n ((kindCleared a kind c).ctx i)
  have hk : (resumedCore i r pc n m (kindCleared a kind c)).ctl.kept = c.ctl.kept := rfl
  have hx : ∀ j, placeless ((resumedCore i r pc n m (kindCleared a kind c)).ctx j) = placeless (c.ctx j) := by
    intro j
    rw [resumedCore_ctx]
    split
    · next h =>
      rw [e3, h]
      rfl
    · rfl
  have hown : (leftCore (resumedCore i r pc n m (kindCleared a kind c))).ctx i
      = resumeCtx i r pc n ((kindCleared a kind c).ctx i) := by
    by_cases hz : i = 0
    · rw [leftCore_ctx_stays (hk.trans (h0 hz)), resumedCore_ctx, if_pos rfl]
    · obtain ⟨r', p, hrp⟩ := hi hz
      rw [leftCore_ctx (hk.trans hrp), if_neg (Ne.symm hz), resumedCore_ctx, if_pos rfl]
  have hd : (resumedCore i r pc n m (kindCleared a kind c)).near = (kindCleared a kind c).near := rfl
  rcases he with rfl | ⟨hz, t, u, rfl⟩
  · refine ⟨leftTo_of hd hk hx hi h0 ⟨_, _, rfl⟩ rfl (fun _ => rfl) (fun _ => rfl), ?_, ?_, fun hz => ?_⟩
    · rw [hown, e1]
    · rw [hown, e2]
      split
      · exact .inl rfl
      · exact .inr rfl
    · rw [hown, e2, if_pos hz]
  · obtain ⟨p1, p2, p3, p4⟩ := takeTurn_parts i t u (leftCore (resumedCore i r pc n m (kindCleared a kind c)))
    refine ⟨leftTo_of hd hk hx hi h0 p1 p2 (fun j => ?_) (fun h => p3 0 (Ne.symm h)), ?_, ?_, fun h => absurd h hz⟩
    · by_cases hj : j = i
      · subst hj
        rcases p4 with p4 | p4
        · rw [p4]
        · rw [p4]
          rfl
      · rw [p3 j hj]
    · rcases p4 with p4 | p4
      · rw [p4, hown, e1]
      · rw [p4, hown]
        exact e1
    · rcases p4 with p4 | p4
      · rw [p4, hown, e2, if_neg hz]
        exact .inr rfl
      · rw [p4]
        exact .inl rfl

/-- A change of near memory leaves the instruction store as it is. -/
theorem isStart_kindCleared (s : State) (k a kind r : Nat) : (s.modCore k (kindCleared a kind)).isStart k r = s.isStart k r := by
  have hctl : ∀ j, ((s.modCore k (kindCleared a kind)).core j).ctl = (s.core j).ctl := by
    intro j
    rw [core_modCore]
    split
    · next h => rw [← h]; rfl
    · rfl
  have hstore : ∀ j, ((s.modCore k (kindCleared a kind)).core j).store = (s.core j).store := by
    intro j
    rw [core_modCore]
    split
    · next h => rw [← h]; rfl
    · rfl
  simp only [State.isStart, State.storeWord, State.codeOf, hctl, hstore]

/-- What a return leaves, told of the machine. -/
theorem left_of_leftTo {s t : State} (h : LeftTo (s.core k) (t.core k) (slotAddr (Machine.tierOf k) i) i) :
    (t.core k).ctl.handling = none ∧ (t.core k).ctl.cause = 0 ∧ (t.core k).ctl.tpc = 0
      ∧ (t.core k).ctl.taddr = 0 ∧ (t.core k).ctl.tword = 0 ∧ (t.core k).ctl.kept = none
      ∧ coreNat t k (slotAddr (Machine.tierOf k) i + 28) 4 % 4 = 0
      ∧ (∀ j, placeless ((t.core k).ctx j) = placeless ((s.core k).ctx j))
      ∧ (∀ b, b < slotAddr (Machine.tierOf k) i + 28 ∨ slotAddr (Machine.tierOf k) i + 32 ≤ b → nearByte t k b = nearByte s k b)
      ∧ (i ≠ 0 → (s.core k).ctl.kept = some ((t.ctx (k, 0)).run, (t.ctx (k, 0)).pc)) := by
  obtain ⟨⟨h1, h2, h3, h4, h5, h6⟩, h7, h8, h9, h10⟩ := h
  exact ⟨h1, h2, h3, h4, h5, h6, by rw [← readNat_eq_coreNat, h7], h8, h9, h10⟩

end

/-- ERET's effect. -/
def eretBody (s : State) : Except Trap Done := do
  blockEnds 1 (pcv s + 4) s
  .ok ⟨← s.eret s.cur.1, .moved⟩

theorem eretBody_fault {s : State} {tr : Trap} (h : blockEnds 1 (pcv s + 4) s = .error tr) : eretBody s = .error tr := by
  rw [eretBody, h]
  rfl

theorem eretBody_ok {s u : State} (h : blockEnds 1 (pcv s + 4) s = .ok ()) (hu : s.eret s.cur.1 = .ok u) :
    eretBody s = .ok ⟨u, .moved⟩ := by
  rw [eretBody, h, hu]
  rfl

theorem eretBody_trap {s : State} {tr : Trap} (h : blockEnds 1 (pcv s + 4) s = .ok ()) (hu : s.eret s.cur.1 = .error tr) :
    eretBody s = .error tr := by
  rw [eretBody, h, hu]
  rfl

/-- ERET of a c0 that is Handling: a plain need. -/
theorem execEret_handling {s : State} {gap : BitVec 2} {y : Bool} {i : Nat} (h0 : s.cur.2 = 0)
    (hh : (s.core s.cur.1).ctl.handling = some i) :
    execEret gap y s = issue { len := 1, hdr := openHdr gap y, noGuard := true, transfer := true, endKind := 2,
                               bytes := [(slotAddr (Machine.tierOf s.cur.1) i + 12, 4)] } eretBody s := by
  unfold execEret
  rw [hh, h0]
  rfl

section
variable {u : State} {k i r pc : Nat}

theorem eretFrom_halts (hw : (u.core k).ctl.waiting = []) (hr : r = 0xFFFFFFFF) :
    ∃ t n, eretFrom u k i r pc = .ok t ∧ t.core k = leftCore ((u.core k).haltCtx i n) := by
  obtain ⟨n, hn⟩ := haltedReturn_core (i := i) hw
  rw [eretFrom, if_pos hr]
  refine ⟨_, n, rfl, ?_⟩
  split
  · exact hn
  · exact hn

theorem eretFrom_bad (hr : r ≠ 0xFFFFFFFF) (hs : u.isStart k r = false) :
    eretFrom u k i r pc = .error (.at_ .badtarget r) := by
  rw [eretFrom, if_neg hr, if_pos (by rw [hs]; rfl)]

theorem eretFrom_resumes (hw : (u.core k).ctl.waiting = []) (hr : r ≠ 0xFFFFFFFF) (hs : u.isStart k r = true) :
    ∃ t n m, eretFrom u k i r pc = .ok t ∧ (t.core k = leftCore (resumedCore i r pc n m (u.core k))
      ∨ (i ≠ 0 ∧ ∃ a b, t.core k = takeTurn i a b (leftCore (resumedCore i r pc n m (u.core k))))) := by
  obtain ⟨n, m, hn⟩ := resumedReturn_core (i := i) (r := r) (pc := pc) hw
  rw [eretFrom, if_neg hr, if_neg (by rw [hs]; decide)]
  dsimp only
  by_cases hc : i = 0 ∨ ((resumedReturn u k i r pc).core k).ctl.handling.isSome ∨ ((resumedReturn u k i r pc).core k).ctl.frozen
  · rw [if_pos hc]
    exact ⟨_, n, m, rfl, .inl hn⟩
  · rw [if_neg hc]
    exact ⟨_, n, m, rfl, .inr ⟨fun h => hc (.inl h), _, _, (core_modCore_same _ _ _).trans (congrArg _ hn)⟩⟩

end

/-- Settles O24: after its checks ERET is `State.eret`. -/
theorem eretResumesTheContext : Obligations.EretResumesTheContext := by
  intro s gap y i
  simp only [exec_eret]
  refine ⟨fun hc => issue_priv ?_ ?_, fun h0 hn => traps_illop ?_, fun h0 hh hi hp hw hkept hfree hr => ?_⟩
  · simp [illegal, hc]
  · simp [hc]
  · simp [h0, hn]
  · have he := eret_eq hh
    rw [execEret_handling h0 hh, ← readNat_eq_coreNat]
    have hcore : (s.modCore s.cur.1 (kindCleared (slotAddr (Machine.tierOf s.cur.1) i)
        ((s.core s.cur.1).readNat (slotAddr (Machine.tierOf s.cur.1) i + 28) 4))).core s.cur.1 = kindCleared _ _ (s.core s.cur.1) :=
      core_modCore_same _ _ _
    have hst := isStart_kindCleared s s.cur.1 (slotAddr (Machine.tierOf s.cur.1) i)
      ((s.core s.cur.1).readNat (slotAddr (Machine.tierOf s.cur.1) i + 28) 4)
    generalize s.modCore s.cur.1 (kindCleared (slotAddr (Machine.tierOf s.cur.1) i)
      ((s.core s.cur.1).readNat (slotAddr (Machine.tierOf s.cur.1) i + 28) 4)) = u at he hcore hst
    have huw : (u.core s.cur.1).ctl.waiting = [] := by
      rw [hcore]
      exact hw
    refine ⟨fun tr hf => issue_trap hr (eretBody_fault hf), fun hb => ⟨fun hrr => ?_, fun hrr hsr => ?_, fun hrr hsr => ?_⟩⟩
    · obtain ⟨v, n, hv, hn⟩ := eretFrom_halts (i := i) (pc := (s.core s.cur.1).readNat (slotAddr (Machine.tierOf s.cur.1) i + 8) 4) huw hrr
      refine moved_counted hr (eretBody_ok hb (he.trans hv)) rfl (fun t hc => ?_)
      have key := haltedCore_leaves (a := slotAddr (Machine.tierOf s.cur.1) i)
        (kind := (s.core s.cur.1).readNat (slotAddr (Machine.tierOf s.cur.1) i + 28) 4) (n := n) hkept hfree
      rw [← hcore, ← hn, ← hc] at key
      exact ⟨left_of_leftTo key.1, key.2⟩
    · obtain ⟨v, n, m, hv, hn⟩ := eretFrom_resumes (i := i)
        (pc := (s.core s.cur.1).readNat (slotAddr (Machine.tierOf s.cur.1) i + 8) 4) huw hrr ((hst _).trans hsr)
      refine moved_counted hr (eretBody_ok hb (he.trans hv)) rfl (fun t hc => ?_)
      rw [hcore, ← hc] at hn
      obtain ⟨k1, k2, k3, k4⟩ := resumedCore_leaves hkept hfree hn
      exact ⟨left_of_leftTo k1, k2, k3, k4⟩
    · exact issue_trap hr (eretBody_trap hb (he.trans (eretFrom_bad hrr ((hst _).trans hsr))))

end Sys2Proof.Proofs
end


section
/-! PROOFS. The machine as a whole: the order of one instruction's checks, the step that runs the fetched instruction, the
reset state, and the spec's example words. -/

namespace Sys2Proof.Proofs

open Sys2Proof.Machine Sys2Proof.Safety Sys2Proof.Laws

/-! ## The order of the checks (R81) -/

section
variable {n : Need} {body : State → Except Trap Done} {s : State}

/-- An instruction that is to issue again changes the tick of its core's next issue alone. -/
theorem again_issue {P : State → Prop} {u : Nat} (h : issue n body s = .next (retire n ⟨s, .again u⟩ true))
    (hP : ∀ t : State, Frame {} s t → t.ctx s.cur = s.ctx s.cur → (t.core s.cur.1).ctl.issueAt = u → P t) :
    Answers (issue n body s) P := by
  refine ⟨_, h, hP _ (Frame_retire n s (.again u) true (by simp)) ?_ ?_⟩
  · show ((s.modCtl s.cur.1 (fun c => { c with issueAt := u })).core s.cur.1).ctx s.cur.2 = _
    rw [State.modCtl, core_modCore_same]
    rfl
  · show ((s.modCtl s.cur.1 (fun c => { c with issueAt := u })).core s.cur.1).ctl.issueAt = u
    rw [State.modCtl, core_modCore_same]

theorem issue_guardWait {u : Nat} (h : illegal n s = false) (hp : n.priv = none) (hw : guardWait n s = some u) :
    issue n body s = .next (retire n ⟨s, .again u⟩ true) := by
  simp only [issue, h, hp, hw, Bool.false_eq_true, if_false]

theorem issue_waits {u : Nat} (h : illegal n s = false) (hp : n.priv = none) (hw : guardWait n s = none)
    (hg : guardHolds n s = true) (hu : waitFor n s = some u) : issue n body s = .next (retire n ⟨s, .again u⟩ true) := by
  simp only [issue, h, hp, hw, hg, hu, Bool.false_eq_true, if_false, Bool.not_true]

theorem issue_waitMrd (h : illegal n s = false) (hp : n.priv = none) (hw : guardWait n s = none) (hg : guardHolds n s = true)
    (hu : waitFor n s = none) (hm : waitMrd n s = true) :
    issue n body s = .next (retire n ⟨s, .again (s.now + cyc s.cur.1)⟩ true) := by
  simp only [issue, h, hp, hw, hg, hu, hm, Bool.false_eq_true, if_false, if_true, Bool.not_true]

end

/-- Settles O60: `issue` takes its checks in this order, and neither a false guard nor a wait leaves the frame. -/
theorem checksComeInTheirOrder : Obligations.ChecksComeInTheirOrder := by
  intro s ins n body he
  rw [he]
  refine ⟨fun h => issue_illegal h, fun h a hp => issue_priv h hp, fun h hp hw hg => ?_, fun h hp u hu => ?_,
    fun h hp hw hg hu hm => again_issue (issue_waitMrd h hp hw hg hu hm) (fun t h1 h2 h3 => ⟨h1, h2, h3⟩)⟩
  · have hf : Frame {} s (retire n ⟨s, .next⟩ false) := Frame_retire n s .next false (by simp)
    exact ⟨_, issue_false h hp hw hg, hf, (congrArg State.agenda hf.machine :)⟩
  · have hi : issue n body s = .next (retire n ⟨s, .again u⟩ true) := by
      rcases hu with hw | ⟨hw, hg, hu⟩
      · exact issue_guardWait h hp hw
      · exact issue_waits h hp hw hg hu
    exact again_issue hi (fun t h1 h2 h3 => ⟨h1, h2, h3⟩)

/-! ## The step -/

section
variable {s : State}

theorem act_eq_stepAgents (h : s.units = []) : step s = stepAgents s := by
  have hu : s.unitsOver = none := by
    rw [State.unitsOver, h]
    rfl
  rw [step, act, actBy, hu]
  rfl

/-- A core acts where no step of another agent comes first. -/
theorem step_core {t k : Nat} (hu : s.units = []) (hn : s.nextCore = some (t, k))
    (ha : ∀ e, s.agenda.head? = some e → t < e.at_) : step s = coreStep s t k := by
  rw [act_eq_stepAgents hu, stepAgents, stepAgentsBy, hn]
  cases h : s.agenda with
  | nil => rfl
  | cons e r =>
    have := ha e (by rw [h]; rfl)
    dsimp only
    rw [if_neg (by omega)]

/-- The step of another agent is taken where no core comes first. -/
theorem step_agent {e : Due} {r : List Due} (hu : s.units = []) (ha : s.agenda = e :: r)
    (hn : ∀ t k, s.nextCore = some (t, k) → e.at_ < t ∨ (e.at_ = t ∧ evRank e.ev < readRank)) : step s = foreseenStep s e r := by
  rw [act_eq_stepAgents hu, stepAgents, stepAgentsBy, ha]
  cases h : s.nextCore with
  | none => rfl
  | some p => exact if_pos (hn p.1 p.2 h)

/-- A context that is to issue, and neither waits on the core nor issues too late for its gang, fetches. -/
theorem issueAt_fetches {k i : Nat} (hr : ∀ w, ((s.take k i).ctx (k, i)).run ≠ .held w)
    (hl : ({ (s.take k i) with cur := (k, i), event := none } : State).leaderLate k i = false) :
    (∀ ins, ({ (s.take k i) with cur := (k, i), event := none } : State).fetch (k, i) = .ok ins →
      issueAt s k i = exec ins { (s.take k i) with cur := (k, i), event := none })
    ∧ ∀ tr, ({ (s.take k i) with cur := (k, i), event := none } : State).fetch (k, i) = .error tr →
      issueAt s k i = .next (({ (s.take k i) with cur := (k, i), event := none } : State).trapAtFetch (k, i) tr) := by
  rw [issueAt]
  generalize hs : ({ (s.take k i) with cur := (k, i), event := none } : State) = u at *
  have hr' : ∀ w, (u.ctx (k, i)).run ≠ .held w := by
    rw [← hs]
    exact hr
  split
  · next w h => exact absurd h (hr' w)
  · rw [if_neg (by rw [hl]; decide)]
    exact ⟨fun ins hf => by rw [hf], fun tr hf => by rw [hf]⟩

/-- A word that decodes is fetched, outside a pass of a repetition and where no signature fails (R82, R269). -/
theorem fetch_decoded {q : Nat × Nat} {w : Word} {ins : Instr} {n : Nat} (hs : s.sigCheck q = none)
    (hr : ∀ r, (s.ctx q).rep = some r → r.next ≠ (s.ctx q).pc) (hw : s.storeWord q.1 (s.ctx q).pc.toNat = some (w, true))
    (hh : isHeader w = false) (hd : decode (s.wordsAt q.1 (s.ctx q).pc.toNat) = .ok (ins, n)) : s.fetch q = .ok ins := by
  rw [State.fetch, hs, hw]
  dsimp only
  rw [if_neg (by rw [hh]; decide)]
  cases h : (s.ctx q).rep with
  | none =>
    dsimp only
    rw [hd]
  | some r =>
    dsimp only
    rw [if_neg (hr r h), hd]

end

/-- The row of the step that is due answers a next state. -/
theorem exec_row_due (s : State) (ev : Event) : ∃ t, exec ev.row { s with event := some ev } = .next t := by
  cases ev <;> exact ⟨_, rfl⟩

/-- The row of a step that is not due stops by name. -/
theorem exec_row_notDue (s : State) (ev : Event) : exec ev.row { s with event := none } = .fault .notDue := by
  cases ev <;> rfl

theorem event_eta {s : State} {o : Option Event} (h : s.event = o) : { s with event := o } = s := by
  subst h
  rfl

/-- No other step looks ahead (R121, R237). -/
theorem foresee_of_ne {s : State} {ev : Event} (h1 : ∀ k, ev ≠ .gangBarrierTimeout k) (h2 : ∀ r, ev = .atomicSlot r → r.home = none) :
    s.foresee ev = s := by
  unfold State.foresee
  split
  · next k => exact absurd rfl (h1 k)
  · next r => rw [h2 r rfl]
  · rfl

theorem foresee_atomicSlot (s : State) {r : AtomicReq} {home : Nat} (h : r.home = some home) :
    s.foresee (.atomicSlot r) = s ∨ s.foresee (.atomicSlot r) = s.modCtl home (fun c => { c with skip := true }) := by
  have he : s.foresee (.atomicSlot r) = s.seeRelease home := by
    rw [State.foresee, h]
  rw [he, State.seeRelease]
  split
  · exact .inl rfl
  · dsimp only
    split
    · exact .inr rfl
    · exact .inl rfl

/-- Settles O56: `step` runs what `fetch` gives, or the row of the agenda's head. -/
theorem stepRunsTheFetchedInstruction : Obligations.StepRunsTheFetchedInstruction := by
  refine ⟨?_, fun s q w ins n hs hr hw hh hd => fetch_decoded hs hr hw hh hd, fun s e r hu ha hn => step_agent hu ha hn,
    fun s ev h1 h2 => foresee_of_ne h1 h2, fun s k => ⟨_, rfl⟩, fun s r home h => foresee_atomicSlot s h, fun s ev he => ?_,
    fun s i hi he => ?_⟩
  · intro s t k u i hu hn ha
    dsimp only
    intro hi hle hr hl
    have key : step s = issueAt ((({ s with now := max s.now t } : State).settle k (max s.now t)).looks k (max s.now t)) k i := by
      rw [step_core hu hn ha, coreStep]
      dsimp only
      rw [hi]
      exact if_pos hle
    rw [key]
    exact issueAt_fetches hr hl
  · have := exec_row_due s ev
    rwa [event_eta he] at this
  · obtain ⟨ev, rfl⟩ := exists_event_of_encode_eq_nil hi
    have := exec_row_notDue s ev
    rwa [event_eta he] at this

/-! ## The reserved majors (R79, R80) -/

section
variable {f : Word0}

theorem decodeBase_reserved (h : f.maj.toNat = 0 ∨ f.maj.toNat = 0x5F) : ∃ e, decodeBase f = .error e := by
  rcases h with h | h
  · exact ⟨.reservedMajor, by rw [decodeBase, h]; rfl⟩
  · exact ⟨.reservedMajor, by rw [decodeBase, h]; rfl⟩

theorem decodeLong_reserved (lit : DWord) (h : f.maj.toNat = 0 ∨ f.maj.toNat = 0x5F) : ∃ e, decodeLong f lit = .error e := by
  rcases h with h | h
  · exact ⟨.noSuchForm, by rw [decodeLong, h]; rfl⟩
  · exact ⟨.noSuchForm, by rw [decodeLong, h]; rfl⟩

theorem decodeExt_reserved (e : Word1) (w2 : Word) (h : 0x6C ≤ f.maj.toNat) : decodeExt f e w2 = .error .reservedMajor := by
  unfold decodeExt
  split
  case h_13 => rfl
  all_goals omega

theorem decodeExtLong_reserved (e : Word1) (w2 : Word) (lit : DWord) (h : 0x6C ≤ f.maj.toNat) :
    decodeExtLong f e w2 lit = .error .noSuchForm := by
  unfold decodeExtLong
  split
  case h_3 => rfl
  all_goals omega

end

theorem map_error {α β ε : Type} {x : Except ε α} {g : α → β} (h : ∃ e, x = .error e) : ∃ e, x.map g = .error e := by
  obtain ⟨e, rfl⟩ := h
  exact ⟨e, rfl⟩

theorem decodeForm_reserved {w : Word} (rest : List Word)
    (h : (w.extractLsb' 9 7).toNat = 0 ∨ (w.extractLsb' 9 7).toNat = 0x5F ∨ 0x6C ≤ (w.extractLsb' 9 7).toNat) :
    ∃ e, decodeForm (w :: rest) = .error e := by
  have hm : (Word0.unpack w).maj = w.extractLsb' 9 7 := rfl
  rw [← hm] at h
  unfold decodeForm
  dsimp only
  generalize Word0.unpack w = f at h
  by_cases hx : 0x60 ≤ f.maj.toNat
  · have hx' : 0x6C ≤ f.maj.toNat := by omega
    have hlt : ¬ f.maj.toNat < 0x60 := by omega
    rw [if_pos hx, if_pos hx, if_neg hlt, if_neg hlt]
    split
    · exact ⟨_, rfl⟩
    · split
      · exact ⟨_, rfl⟩
      · split
        · split
          · exact map_error ⟨_, decodeExt_reserved _ _ hx'⟩
          · exact ⟨_, rfl⟩
        · split
          · exact map_error ⟨_, decodeExtLong_reserved _ _ _ hx'⟩
          · exact ⟨_, rfl⟩
  · have hr : f.maj.toNat = 0 ∨ f.maj.toNat = 0x5F := by omega
    have hlt : f.maj.toNat < 0x60 := by omega
    rw [if_neg hx, if_neg hx, if_pos hlt, if_pos hlt]
    split
    · exact map_error (decodeBase_reserved hr)
    · split
      · split
        · exact map_error (decodeLong_reserved _ hr)
        · exact ⟨_, rfl⟩
      · split
        · exact ⟨_, rfl⟩
        · exact ⟨_, rfl⟩

/-- Settles O57: the example words by evaluation, the reserved majors by the decoder's tables. -/
theorem exampleWordsDecode : Obligations.ExampleWordsDecode := by
  refine ⟨by decide, by decide, by decide, by decide, by decide, by decide, by decide, by decide, by decide, by decide, by decide,
    by decide, by decide, by decide, fun w rest h => ?_⟩
  obtain ⟨e, he⟩ := decodeForm_reserved (w := w) rest (h.imp (fun h => by rw [h]; rfl) (Or.imp (fun h => by rw [h]; rfl) id))
  exact ⟨e, by rw [decode, he]⟩

/-! ## The reset state -/

theorem reset_reg (tier : Nat) (r : Reg) : Ctx.reset.reg tier r = 0 := by
  unfold Ctx.reg
  split
  · rfl
  · split <;> rfl

theorem reset_pred (p : PredReg) : Ctx.reset.pred p = decide (p = 0) := by
  revert p
  decide

theorem reset_route (b : Bool) (d : Nat) : Fabric.reset.route b d = 0 := by cases b <;> rfl

/-- Settles O55: every lookup in the reset state finds the reset entry. -/
theorem resetState : Obligations.ResetState := by
  refine ⟨by decide, fun k i => ?_, fun k => ?_, fun l => rfl, fun p => ?_, by decide, by decide, ?_⟩
  · exact ⟨fun t r => reset_reg t r, fun p => reset_pred p, fun v => rfl, fun m => ⟨rfl, rfl, rfl⟩, rfl, rfl, rfl, rfl, rfl, rfl,
      rfl, rfl, rfl⟩
  · exact ⟨fun i => ⟨rfl, rfl⟩, rfl, fun t => ⟨rfl, rfl, fun i => rfl⟩, rfl, fun r => rfl, fun i => rfl, rfl, rfl, rfl, rfl, rfl⟩
  · exact ⟨fun n => ⟨rfl, rfl, rfl, rfl, rfl, rfl, rfl⟩, rfl, rfl, rfl, rfl, rfl, rfl, rfl, rfl, rfl⟩
  · exact ⟨rfl, rfl, rfl, fun b d => reset_route b d, fun p => ⟨rfl, rfl, rfl, rfl, rfl, rfl⟩⟩

end Sys2Proof.Proofs
end


section
/-! PROOFS. Lanes of a vector register, and the elementwise arithmetic over them (R86, R89 to R96, R393, R394, R402, R403,
R412); the seven atomic operations (R236). -/

namespace Sys2Proof.Proofs

open Sys2Proof.Machine Sys2Proof.Safety Sys2Proof.Laws

/-! ## Packed lanes (R86) -/

/-- A lane within a packed list reads back its own value. -/
theorem packNat_lane (w : Nat) : ∀ (ls : List Nat) (l : Nat), packNat w ls / 2 ^ (w * l) % 2 ^ w = ls.getD l 0 % 2 ^ w
  | [], l => by simp [packNat]
  | x :: r, 0 => by simp [packNat]
  | x :: r, l + 1 => by
    have hp : 2 ^ (w * (l + 1)) = 2 ^ w * 2 ^ (w * l) := by rw [← Nat.pow_add]; ring_nf
    have hx : (x % 2 ^ w + 2 ^ w * packNat w r) / 2 ^ w = packNat w r := by
      rw [Nat.add_mul_div_left _ _ (by positivity), Nat.div_eq_of_lt (Nat.mod_lt _ (by positivity)), Nat.zero_add]
    rw [packNat, hp, ← Nat.div_div_eq_div_mul, hx, packNat_lane w r l]
    rfl

theorem packNat_lt (w : Nat) : ∀ ls : List Nat, packNat w ls < 2 ^ (w * ls.length)
  | [] => by simp [packNat]
  | x :: r => by
    have ih := packNat_lt w r
    have hx : x % 2 ^ w < 2 ^ w := Nat.mod_lt _ (by positivity)
    calc packNat w (x :: r) = x % 2 ^ w + 2 ^ w * packNat w r := rfl
      _ < 2 ^ w + 2 ^ w * packNat w r := by omega
      _ = 2 ^ w * (packNat w r + 1) := by ring
      _ ≤ 2 ^ w * 2 ^ (w * r.length) := Nat.mul_le_mul_left _ ih
      _ = 2 ^ (w * (x :: r).length) := by rw [← Nat.pow_add, List.length_cons]; ring_nf

/-- Settles O25: a packed list of 512/w lanes fits a register. -/
theorem packedLanesReadBack : Obligations.PackedLanesReadBack := by
  intro w ls l hw hlen _
  have hle : w * ls.length ≤ 512 := by
    rw [hlen]
    exact Nat.mul_div_le 512 w
  have hlt : packNat w ls < 2 ^ 512 := (packNat_lt w ls).trans_le (Nat.pow_le_pow_right (by decide) hle)
  rw [packLanes, BitVec.toNat_ofNat, Nat.mod_eq_of_lt hlt, packNat_lane]

/-! ## The atomic operations (R236) -/

theorem atomInt_eq {ty : Ty} {x : Nat} (hw : 0 < ty.width) (hx : x < 2 ^ ty.width) :
    atomInt ty x = if Ty.signed ty then sint ty.width x else x := by
  have hs : signedTy ty = Ty.signed ty := by cases ty <;> rfl
  rw [atomInt, hs]
  cases Ty.signed ty with
  | false => simp
  | true =>
    simp only [true_and, if_true, sint, Nat.mod_eq_of_lt hx]
    split <;> split <;> omega

/-- Settles O36: each operation by its own branch. -/
theorem atomicOperationsFollowTheirRule : Obligations.AtomicOperationsFollowTheirRule := by
  intro ty old x y free hw ho
  have hw0 : 0 < ty.width := by
    simp only [List.mem_cons, List.not_mem_nil, or_false] at hw
    omega
  have hb : x.toNat % 2 ^ ty.width < 2 ^ ty.width := Nat.mod_lt _ (by positivity)
  have hom : old % 2 ^ ty.width = old := Nat.mod_eq_of_lt ho
  have hres : (BitVec.ofInt 64 (atomInt ty (old % 2 ^ ty.width)) : DWord)
      = if Ty.signed ty then BitVec.ofInt 64 (sint ty.width old) else BitVec.ofNat 64 old := by
    rw [hom, atomInt_eq hw0 ho]
    split
    · rfl
    · simp
  have hless : atomInt ty (x.toNat % 2 ^ ty.width) < atomInt ty old
      ↔ if Ty.signed ty then sint ty.width (x.toNat % 2 ^ ty.width) < sint ty.width old else x.toNat % 2 ^ ty.width < old := by
    rw [atomInt_eq hw0 ho, atomInt_eq hw0 hb]
    split
    · exact Iff.rfl
    · exact Int.ofNat_lt
  refine ⟨?_, ?_, ?_, rfl, ?_, ?_, ?_, ?_⟩
  · simp only [rmwOp, hom]
  · simp only [rmwOp, hom, hless, decide_eq_true_eq]
  · simp only [rmwOp, hom, hless, decide_eq_true_eq]
  · simp only [rmwOp, hom]
  · simp only [rmwOp, hom]
  · simp only [rmwOp, hom]
  · intro op hop
    rw [← hres]
    have : op ∈ [0, 1, 2, 3, 4, 5, 6] := by
      simp only [List.mem_cons, List.not_mem_nil, or_false]
      omega
    fin_cases this <;> rfl

end Sys2Proof.Proofs
end


section
/-! PROOFS. The elementwise vector instructions (R89 to R96, R108 to R111, R391 to R394, R402, R403, R412). -/

namespace Sys2Proof.Proofs

open Sys2Proof.Machine Sys2Proof.Safety Sys2Proof.Laws

/-! ## Results of lanes -/

theorem collect_val {α : Type} : ∀ rs : List (Res α), (collect rs).1 = rs.map (·.val)
  | [] => rfl
  | r :: rest => congrArg (r.val :: ·) (collect_val rest)

theorem collect_flags {α : Type} : ∀ rs : List (Res α), (collect rs).2 = rs.foldr (fun r g => r.flags ||| g) 0
  | [] => rfl
  | r :: rest => congrArg (r.flags ||| ·) (collect_flags rest)

theorem vecActs_eq (d : VecReg) (v : Line) (f : FlagSet) :
    vecActs d v f = .vec d.toNat v :: (if f = 0 then [] else [.orFlags f]) := by
  unfold vecActs
  split <;> rfl

theorem lanesActs_eq (d : VecReg) (w : Nat) (rs : List (Res Nat)) : lanesActs d w rs
    = .vec d.toNat (packLanes w (rs.map (·.val)))
      :: (if (rs.foldr (fun r g => r.flags ||| g) 0 : BitVec 6) = 0 then [] else [.orFlags (rs.foldr (fun r g => r.flags ||| g) 0)]) := by
  rw [lanesActs, vecActs_eq, collect_val, collect_flags]

theorem pairwise_vecActs (d : VecReg) (v : Line) (f : FlagSet) :
    (vecActs d v f).Pairwise (fun a b => sameTarget b a = false) := by
  unfold vecActs
  split
  · exact List.pairwise_singleton _ _
  · exact List.pairwise_pair.2 rfl

section
variable {s : State} {h : Hdr} {tier : Option (BitVec 2)} {d a b c : VecReg} {w lat occ : Nat}

theorem lane_vl (v : VecReg) (l : Nat) : lane w (vv s v) l = vl s w v l := rfl

theorem vl_lt (v : VecReg) (l : Nat) : vl s w v l < 2 ^ w := Nat.mod_lt _ (by positivity)

/-- A vector instruction whose results come later. -/
theorem vectorOp_later {rs rd : List Reg} {vs : List VecReg} {f : State → List Act} {as_ : List Act}
    (hr : Ready (vecNeed h tier rs rd vs occ) s) (hf : f s = as_) (hl : 1 < lat)
    (hd : as_.Pairwise (fun a b => sameTarget b a = false)) : GivesLater s lat as_ (vectorOp h tier rs rd vs lat occ f s) := by
  subst hf
  exact givesLater_issue hr rfl (soft_nil rfl) hl hd

/-- A vector instruction whose result is a vector register at latency one. -/
theorem vectorOp_vec {rs rd : List Reg} {vs : List VecReg} {f : State → List Act} {v : Line}
    (hr : Ready (vecNeed h tier rs rd vs occ) s) (hf : f s = [.vec d.toNat v]) :
    GivesVec s d v (vectorOp h tier rs rd vs 1 occ f s) :=
  givesVec_issue hr (congrArg (done s 1) hf) (soft_nil rfl)

theorem vectorOp_lanes {rs rd : List Reg} {vs : List VecReg} {f : State → List Act} {g : Nat → Res Nat}
    (hr : Ready (vecNeed h tier rs rd vs occ) s) (hf : f s = lanesActs d w ((List.range (512 / w)).map g)) (hl : 1 < lat) :
    GivesLanes s lat d w g (vectorOp h tier rs rd vs lat occ f s) :=
  vectorOp_later hr (hf.trans (lanesActs_eq d w _)) hl (lanesActs_eq d w _ ▸ pairwise_vecActs _ _ _)

theorem lanes1_gives {f : Bool → Nat → Res Nat} {g : Nat → Res Nat} (hr : Ready (vecNeed h tier [] [] [a] occ) s) (hl : 1 < lat)
    (hg : ∀ l, f (s.ctx s.cur).ftz (vl s w a l) = g l) : GivesLanes s lat d w g (lanes1 h tier d a w lat occ f s) := by
  refine vectorOp_lanes hr ?_ hl
  rw [← funext hg, lanesOf, List.map_map]
  rfl

theorem zipWith_range {α β γ : Type} (f : α → β → γ) (p : Nat → α) (q : Nat → β) (n : Nat) :
    List.zipWith f ((List.range n).map p) ((List.range n).map q) = (List.range n).map (fun l => f (p l) (q l)) := by
  rw [List.zipWith_map, List.zipWith_self]

theorem lanes2_gives {f : Bool → Nat → Nat → Res Nat} {g : Nat → Res Nat} (hr : Ready (vecNeed h tier [] [] [a, b] occ) s)
    (hl : 1 < lat) (hg : ∀ l, f (s.ctx s.cur).ftz (vl s w a l) (vl s w b l) = g l) :
    GivesLanes s lat d w g (lanes2 h tier d a b w lat occ f s) := by
  refine vectorOp_lanes hr ?_ hl
  rw [← funext hg, lanesOf, lanesOf, zipWith_range]
  rfl

theorem lanes3_gives {f : Bool → Nat → Nat → Nat → Res Nat} {g : Nat → Res Nat}
    (hr : Ready (vecNeed h tier [] [] [a, b, c] occ) s) (hl : 1 < lat)
    (hg : ∀ l, f (s.ctx s.cur).ftz (vl s w a l) (vl s w b l) (vl s w c l) = g l) :
    GivesLanes s lat d w g (lanes3 h tier d a b c w lat occ f s) := by
  refine vectorOp_lanes hr ?_ hl
  rw [← funext hg]
  rfl

/-- Exact lanes raise no flag. -/
theorem lanesActs_exact (f : Nat → Nat) : ∀ ls : List Nat, (ls.map (fun l => exactly (f l))).foldr (fun r g => r.flags ||| g) (0 : BitVec 6) = 0
  | [] => rfl
  | _ :: r => BitVec.zero_or.trans (lanesActs_exact f r)

/-- Exact lanes at latency one. -/
theorem vectorOp_exact {rs rd : List Reg} {vs : List VecReg} {f : State → List Act} {g : Nat → Nat}
    (hr : Ready (vecNeed h tier rs rd vs occ) s) (hf : f s = lanesActs d w ((List.range (512 / w)).map (fun l => exactly (g l)))) :
    GivesVec s d (packLanes w ((List.range (512 / w)).map g)) (vectorOp h tier rs rd vs 1 occ f s) := by
  refine vectorOp_vec hr (hf.trans ?_)
  rw [lanesActs_eq, lanesActs_exact, if_pos rfl, List.map_map]
  rfl

theorem lanes1_exact {f : Bool → Nat → Res Nat} {g : Nat → Nat} (hr : Ready (vecNeed h tier [] [] [a] occ) s)
    (hg : ∀ l, f (s.ctx s.cur).ftz (vl s w a l) = exactly (g l)) :
    GivesVec s d (packLanes w ((List.range (512 / w)).map g)) (lanes1 h tier d a w 1 occ f s) := by
  refine vectorOp_exact hr (congrArg _ ?_)
  rw [← funext hg, lanesOf, List.map_map]
  rfl

theorem lanes3_exact {f : Bool → Nat → Nat → Nat → Res Nat} {g : Nat → Nat}
    (hr : Ready (vecNeed h tier [] [] [a, b, c] occ) s)
    (hg : ∀ l, f (s.ctx s.cur).ftz (vl s w a l) (vl s w b l) (vl s w c l) = exactly (g l)) :
    GivesVec s d (packLanes w ((List.range (512 / w)).map g)) (lanes3 h tier d a b c w 1 occ f s) := by
  refine vectorOp_exact hr (congrArg _ ?_)
  rw [← funext hg]
  rfl

end

/-! ## Integer lanes (R88) -/

theorem clampInt_eq {lo hi : Int} (h : lo ≤ hi) (i : Int) : clampInt lo hi i = max lo (min hi i) := by
  unfold clampInt
  split
  · omega
  · split <;> omega

theorem loOf_le_hiOf (signed : Bool) (w : Nat) : loOf signed w ≤ hiOf signed w := by
  have h1 : (1 : Int) ≤ 2 ^ (w - 1) := one_le_pow₀ (by decide)
  have h2 : (1 : Int) ≤ 2 ^ w := one_le_pow₀ (by decide)
  unfold loOf hiOf
  split <;> omega

theorem intRes_eq (signed sat : Bool) (w : Nat) (i : Int) :
    intRes signed sat w i = wrapW w (if sat then max (loOf signed w) (min (hiOf signed w) i) else i) := by
  unfold intRes
  split
  · rw [clampInt_eq (loOf_le_hiOf signed w)]
  · rfl

section
variable {s : State} {ty : Ty} {a b c : VecReg} {l : Nat}

theorem intOf_vl (signed : Bool) (w : Nat) : intOf signed w (vl s w a l) = if signed then sint w (vl s w a l) else (vl s w a l : Int) := by
  rw [intOf, Nat.mod_eq_of_lt (vl_lt a l)]

/-- Arithmetic of two lanes (R393). -/
theorem arith2_vl (fop : Fmt → FVal → FVal → Res Nat) (iop : Int → Int → Int) (sat ftz : Bool) :
    arith2 fop iop ty sat ftz (vl s ty.width a l) (vl s ty.width b l)
      = if ty.isF then ftzOut ftz ty (fop (fmtOf ty) ((fmtOf ty).decode (ftzIn ftz ty (vl s ty.width a l)))
            ((fmtOf ty).decode (ftzIn ftz ty (vl s ty.width b l))))
        else exactly (wrapW ty.width (if sat then max (loOf (Ty.signed ty) ty.width) (min (hiOf (Ty.signed ty) ty.width)
            (iop (if Ty.signed ty then sint ty.width (vl s ty.width a l) else vl s ty.width a l)
              (if Ty.signed ty then sint ty.width (vl s ty.width b l) else vl s ty.width b l)))
          else iop (if Ty.signed ty then sint ty.width (vl s ty.width a l) else vl s ty.width a l)
              (if Ty.signed ty then sint ty.width (vl s ty.width b l) else vl s ty.width b l))) := by
  unfold arith2
  rw [intOf_vl, intOf_vl, intRes_eq]
  rfl

end

section
variable {s : State} {ty : Ty} {a b : VecReg} {l : Nat}

/-- The smaller or larger of two lanes (R94). -/
theorem minMaxLane_vl (isMax ftz : Bool) : minMaxLane isMax ty ftz (vl s ty.width a l) (vl s ty.width b l)
    = if ty.isF then minMaxF (fmtOf ty) isMax (ftzIn ftz ty (vl s ty.width a l)) (ftzIn ftz ty (vl s ty.width b l))
      else exactly (if (if isMax then decide ((if Ty.signed ty then sint ty.width (vl s ty.width a l) else (vl s ty.width a l : Int))
            < if Ty.signed ty then sint ty.width (vl s ty.width b l) else vl s ty.width b l)
          else decide ((if Ty.signed ty then sint ty.width (vl s ty.width b l) else (vl s ty.width b l : Int))
            < if Ty.signed ty then sint ty.width (vl s ty.width a l) else vl s ty.width a l))
        then vl s ty.width b l else vl s ty.width a l) := by
  unfold minMaxLane
  rw [intOf_vl, intOf_vl]
  rfl

end

theorem signBit_fmtOf {ty : Ty} (h : ty.isF = true) : (fmtOf ty).signBit = 2 ^ (ty.width - 1) := by
  cases ty with
  | f32 | f16 | bf16 => rfl
  | _ => exact absurd h Bool.false_ne_true

theorem not_isF_of_isI {ty : Ty} (h : ty.isI = true) : ¬ ty.isF = true := by
  cases ty with
  | i8 | i16 | i32 => exact Bool.false_ne_true
  | _ => exact absurd h Bool.false_ne_true

theorem signed_of_isI {ty : Ty} (h : ty.isI = true) : Ty.signed ty = true := by
  cases ty with
  | i8 | i16 | i32 => rfl
  | _ => exact absurd h Bool.false_ne_true

section
variable {s : State} {h : Hdr} {tier : Option (BitVec 2)} {d a b : VecReg} {ty ty2 : Ty}

/-- VSHL's lanes, from its own lane function. -/
theorem vshl_gives {sat : Bool} {g : Nat → Res Nat} (hr : Ready (vecNeed h tier [] [] [a, b] 1) s)
    (hg : ∀ l, ⟨intRes (Ty.signed ty) sat ty.width
      (intOf (Ty.signed ty) ty.width (vl s ty.width a l) * 2 ^ (vl s ty.width b l % ty.width)), 0⟩ = g l) :
    GivesLanes s 2 d ty.width g (execVshl h d a b ty sat tier s) := by
  unfold execVshl
  exact lanes2_gives hr (by decide) hg

/-- A conversion that does not narrow gives every lane (R402). -/
theorem vcvt_wide {rnd : Rnd} {sat : Bool} {part : BitVec 2} (hw : ty2.width ≤ ty.width)
    (hr : Ready (vecNeed h tier [] [] [a] 1) s) : GivesLanes s 4 d ty.width (fun l =>
      ftzOut (s.ctx s.cur).ftz ty (convert ty ty2 rnd sat (ftzIn (s.ctx s.cur).ftz ty2
        (vl s ty2.width a (if ty2.width < ty.width then 512 / ty.width * part.toNat + l else l)))))
      (execVcvt h d a ty ty2 rnd sat tier part s) := by
  unfold execVcvt
  dsimp only
  simp only [if_neg (Nat.not_lt.2 hw), Nat.max_eq_left hw]
  exact vectorOp_lanes hr rfl (by decide)

/-- Values merged into a register from a lane on (R391). -/
theorem mergeLanes_map {w n from_ : Nat} {v : VecReg} (f : Nat → Nat) :
    mergeLanes w (vv s v) from_ ((List.range n).map f)
      = packLanes w ((List.range (512 / w)).map (fun l => if from_ ≤ l ∧ l < from_ + n then f (l - from_) else vl s w v l)) := by
  refine congrArg (packLanes w) (List.map_congr_left (fun l _ => ?_))
  by_cases h1 : from_ ≤ l
  · by_cases h2 : l < from_ + n
    · rw [if_pos h1, if_pos ⟨h1, h2⟩, List.getD_eq_getElem _ _ (by simp; omega)]
      simp
    · rw [if_pos h1, if_neg (fun h => h2 h.2), List.getD_eq_default _ _ (by simp; omega)]
      rfl
  · rw [if_neg h1, if_neg (fun h => h1 h.1)]
    rfl

/-- A vector instruction that merges lanes into its register. -/
theorem vectorOp_merged {rs rd : List Reg} {vs : List VecReg} {f : State → List Act} {w n lat occ from_ : Nat} {r : Nat → Res Nat}
    (hr : Ready (vecNeed h tier rs rd vs occ) s) (hf : f s = vecActs d (mergeLanes w (vv s d) from_ (collect ((List.range n).map r)).1)
      (collect ((List.range n).map r)).2) (hl : 1 < lat) :
    GivesLater s lat (.vec d.toNat (packLanes w ((List.range (512 / w)).map (fun l =>
        if from_ ≤ l ∧ l < from_ + n then (r (l - from_)).val else vl s w d l)))
      :: (if (((List.range n).map r).foldr (fun r g => r.flags ||| g) 0 : BitVec 6) = 0 then []
        else [.orFlags (((List.range n).map r).foldr (fun r g => r.flags ||| g) 0)])) (vectorOp h tier rs rd vs lat occ f s) := by
  rw [← mergeLanes_map (fun l => (r l).val), ← vecActs_eq]
  refine vectorOp_later hr (hf.trans ?_) hl (pairwise_vecActs _ _ _)
  rw [collect_val, collect_flags, List.map_map]
  rfl

/-- A narrowing conversion merges its lanes into its part (R402). -/
theorem execVcvt_narrow {rnd : Rnd} {sat : Bool} {part : BitVec 2} (hw : ty.width < ty2.width) :
    execVcvt h d a ty ty2 rnd sat tier part s = vectorOp h tier [] [] [a, d] 4 1 (fun s =>
      vecActs d (mergeLanes ty.width (vv s d) (512 / ty2.width * part.toNat) (collect ((List.range (512 / ty2.width)).map
          (fun l => cvtLane ty ty2 rnd sat (ftzv s) (lane ty2.width (vv s a) l)))).1)
        (collect ((List.range (512 / ty2.width)).map (fun l => cvtLane ty ty2 rnd sat (ftzv s) (lane ty2.width (vv s a) l)))).2) s := by
  unfold execVcvt
  dsimp only
  simp only [if_pos hw, if_neg (Nat.lt_asymm hw), Nat.max_eq_right (Nat.le_of_lt hw)]

end

/-- Settles O29: each form by its lane function. -/
theorem vectorArithmeticLanes : Obligations.VectorArithmeticLanes := by
  intro s h tier d a b c ty ty2 rnd sat part
  simp only [exec_vadd, exec_vsub, exec_vmul, exec_vmin, exec_vmax, exec_vinsx, exec_vshl, exec_vshr, exec_vsra, exec_vdiv,
    exec_vsqrt, exec_vrcp, exec_vrsq, exec_vexp2f, exec_vrndi, exec_vextx, exec_vneg, exec_vabs, exec_vcvt, exec_vfma, exec_vfms]
  have latFI_gt : ∀ f i, 1 < f → 1 < i → 1 < latFI ty f i := by
    intro f i hf hi
    unfold latFI
    split <;> assumption
  refine ⟨fun hr => ⟨?_, ?_, ?_, ?_, ?_, ?_, ?_, ?_, ?_⟩, fun hr hF => ?_, fun hr => ?_, fun hr => ⟨?_, ?_, ?_, ?_, ?_, fun hI => ⟨?_, ?_⟩,
    fun hF => ⟨?_, ?_⟩, fun hw => ?_⟩, fun hr hw => ?_, fun hr => ⟨?_, ?_⟩⟩
  · exact lanes2_gives hr (latFI_gt 4 2 (by decide) (by decide)) (fun l => arith2_vl _ _ _ _)
  · exact lanes2_gives hr (latFI_gt 4 2 (by decide) (by decide)) (fun l => arith2_vl _ _ _ _)
  · exact lanes2_gives hr (latFI_gt 4 3 (by decide) (by decide)) (fun l => arith2_vl _ _ _ _)
  · refine lanes2_gives hr (latFI_gt 4 2 (by decide) (by decide)) (fun l => (minMaxLane_vl _ _).trans ?_)
    simp only [Bool.false_eq_true, if_false, decide_eq_true_eq]
  · refine lanes2_gives hr (latFI_gt 4 2 (by decide) (by decide)) (fun l => (minMaxLane_vl _ _).trans ?_)
    simp only [if_true, decide_eq_true_eq]
  · exact lanes2_gives hr (by decide) (fun l => rfl)
  · refine vshl_gives hr (fun l => ?_)
    rw [intOf_vl, intRes_eq]
    rfl
  · exact lanes2_gives hr (by decide) (fun l => rfl)
  · unfold execVsra
    exact lanes2_gives hr (by decide) (fun l => rfl)
  · refine lanes2_gives hr (by decide) (fun l => ?_)
    rw [arith2, if_pos hF]
    rfl
  · exact lanes1_gives hr (by decide) (fun l => rfl)
  · exact lanes1_gives hr (by decide) (fun l => rfl)
  · exact lanes1_gives hr (by decide) (fun l => rfl)
  · exact lanes1_gives hr (by decide) (fun l => rfl)
  · exact lanes1_gives hr (by decide) (fun l => rfl)
  · exact lanes1_gives hr (by decide) (fun l => rfl)
  · rw [execVneg, latFI, if_neg (not_isF_of_isI hI)]
    refine lanes1_gives hr (by decide) (fun l => ?_)
    rw [negLane, if_neg (not_isF_of_isI hI), intRes_eq, signed_of_isI hI]
    rfl
  · rw [execVabs, latFI, if_neg (not_isF_of_isI hI)]
    refine lanes1_gives hr (by decide) (fun l => ?_)
    rw [absLane, if_neg (not_isF_of_isI hI), intRes_eq, signed_of_isI hI]
    rfl
  · rw [execVneg, latFI, if_pos hF]
    refine lanes1_exact hr (fun l => ?_)
    rw [negLane, if_pos hF, signBit_fmtOf hF]
    rfl
  · rw [execVabs, latFI, if_pos hF]
    refine lanes1_exact hr (fun l => ?_)
    rw [absLane, if_pos hF, signBit_fmtOf hF]
    rfl
  · exact vcvt_wide hw hr
  · rw [execVcvt_narrow hw]
    exact vectorOp_merged (r := fun l => cvtLane ty ty2 rnd sat (s.ctx s.cur).ftz (vl s ty2.width a l)) hr rfl (by decide)
  · exact lanes3_gives hr (by decide) (fun l => rfl)
  · exact lanes3_gives hr (by decide) (fun l => rfl)

end Sys2Proof.Proofs
end


section
/-! PROOFS. Vector comparison, selection, moves, classes and codes (R94, R97 to R100, R106, R395, R398 to R401, R408, R409,
R411), and VKER (R166). -/

namespace Sys2Proof.Proofs

open Sys2Proof.Machine Sys2Proof.Safety Sys2Proof.Laws

section
variable {s : State} {h : Hdr} {tier : Option (BitVec 2)} {d a b c : VecReg} {ty ty2 : Ty}

theorem bitwise_vec {f : Line → Line → Line} (hr : Ready (vecNeed h tier [] [] [a, b] 1) s) :
    GivesVec s d (f (vv s a) (vv s b)) (bitwise h d a b tier f s) := vectorOp_vec hr rfl

/-- One act is under way alone. -/
theorem pairwise_one (x : Act) : [x].Pairwise (fun a b => sameTarget b a = false) := List.pairwise_singleton _ _

theorem execVperm_later (hr : Ready (vecNeed h tier [] [] [a, b] 1) s) : GivesLater s 2
    [.vec d.toNat (packLanes ty.width ((List.range (512 / ty.width)).map
      (fun l => vl s ty.width a (vl s ty.width b l % (512 / ty.width)))))] (execVperm h d a b ty tier s) := by
  unfold execVperm
  refine vectorOp_later hr ?_ (by decide) (pairwise_one _)
  rw [lanesOf, List.map_map]
  rfl

theorem any_id_map (f : Nat → Bool) (n : Nat) : ((List.range n).map f).any id = decide (∃ l, l < n ∧ f l = true) := by
  rw [Bool.eq_iff_iff, decide_eq_true_eq, List.any_map, List.any_eq_true]
  simp only [List.mem_range, Function.comp_apply, id_eq]

theorem pairwise_vecPred (v : Line) (f : FlagSet) (pw : Bool) (p : PredReg) (t : Bool) :
    (vecActs d v f ++ (if pw then predAct p t else [])).Pairwise (fun a b => sameTarget b a = false) := by
  refine List.pairwise_append.2 ⟨pairwise_vecActs _ _ _, ?_, ?_⟩
  · unfold predAct
    split
    · split
      · exact List.Pairwise.nil
      · exact pairwise_one _
    · exact List.Pairwise.nil
  · intro x hx y hy
    have hy' : ∃ i b, y = .pred i b := by
      unfold predAct at hy
      split at hy
      · split at hy
        · exact absurd hy List.not_mem_nil
        · exact ⟨_, _, List.mem_singleton.1 hy⟩
      · exact absurd hy List.not_mem_nil
    obtain ⟨i, b, rfl⟩ := hy'
    have hx' : (∃ i v, x = .vec i v) ∨ ∃ f, x = .orFlags f := by
      unfold vecActs at hx
      split at hx
      · exact .inl ⟨_, _, List.mem_singleton.1 hx⟩
      · rcases List.mem_pair.1 hx with rfl | rfl
        · exact .inl ⟨_, _, rfl⟩
        · exact .inr ⟨_, rfl⟩
    rcases hx' with ⟨i, v, rfl⟩ | ⟨f, rfl⟩ <;> rfl

/-- VCMP (R94, R399). -/
theorem execVcmp_later {cond : BitVec 3} {pw : Bool} {p : PredReg} {r : Nat → Res Bool}
    (hr : Ready (vecNeed h tier [] [] [a, b] 1) s)
    (hg : ∀ l, r l = cmpLane ty cond.toNat (s.ctx s.cur).ftz (vl s ty.width a l) (vl s ty.width b l)) :
    GivesLater s 2 (.vec d.toNat (packLanes ty.width ((List.range (512 / ty.width)).map
          (fun l => if (r l).val then 2 ^ ty.width - 1 else 0)))
        :: ((if (((List.range (512 / ty.width)).map r).foldr (fun r g => r.flags ||| g) 0 : BitVec 6) = 0 then []
            else [.orFlags (((List.range (512 / ty.width)).map r).foldr (fun r g => r.flags ||| g) 0)])
          ++ (if pw then predAct p (decide (∃ l, l < 512 / ty.width ∧ (r l).val = true)) else [])))
      (execVcmp h d a b ty tier cond pw p s) := by
  obtain rfl := funext hg
  rw [← List.cons_append, ← vecActs_eq]
  unfold execVcmp
  refine vectorOp_later hr ?_ (by decide) (pairwise_vecPred _ _ _ _ _)
  rw [← any_id_map]
  dsimp only
  rw [lanesOf, lanesOf, zipWith_range, collect_val, collect_flags, List.map_map, List.map_map, List.map_map]
  rfl

theorem replicate_eq_map (n x : Nat) : List.replicate n x = (List.range n).map (fun _ => x) := by simp

theorem splat_eq (w x : Nat) : splat w x = packLanes w ((List.range (512 / w)).map (fun _ => x)) := by
  rw [splat, replicate_eq_map]

theorem codeVal_eq (ty2 : Ty) (t : BitVec 128) (x : Nat) :
    codeVal (ty2 == .ql4) t x = if ty2 = .ql4 then level x else (t.extractLsb' (8 * x) 8).toInt := by
  unfold codeVal
  simp only [beq_iff_eq]
  rfl

end

/-- Settles O30: each form by its lanes. -/
theorem vectorMovesComparesAndCodes : Obligations.VectorMovesComparesAndCodes := by
  intro s h tier d a b c x e ty ty2 cond pw p lit seg ql
  simp only [exec_vand, exec_vor, exec_vxor, exec_vperm, exec_vcmp, exec_vsel, exec_vsplat, exec_vsplatXl, exec_vmov, exec_vclass,
    exec_vcode, exec_vker, exec_vql4, exec_vscac]
  refine ⟨fun hr => ⟨?_, ?_, ?_, ?_, ?_⟩, fun hr => ?_, fun hr => ?_, fun hr => ?_, fun hr => ⟨?_, ?_, ?_, ?_⟩, fun hr => ?_,
    fun hr => ?_⟩
  · exact bitwise_vec hr
  · exact bitwise_vec hr
  · exact bitwise_vec hr
  · exact execVperm_later hr
  · exact execVcmp_later (r := fun l => cmpLane ty cond.toNat (s.ctx s.cur).ftz (vl s ty.width a l) (vl s ty.width b l)) hr
      (fun l => rfl)
  · refine lanes3_exact hr (fun l => rfl)
  · exact vectorOp_vec hr (by rw [splat_eq])
  · refine givesVec_issue hr ?_ (soft_nil rfl)
    rw [splat_eq]
  · exact vectorOp_vec hr rfl
  · exact lanes1_gives hr (by decide) (fun l => rfl)
  · unfold execVcode
    refine vectorOp_later hr ?_ (by decide) (pairwise_one _)
    simp only [codeVal_eq]
    rfl
  · unfold execVker
    refine vectorOp_lanes hr ?_ (by decide)
    dsimp only
    rw [lanesOf, List.map_map]
    rfl
  · unfold execVql4
    refine vectorOp_merged (r := fun l => encodeCode (ty == .ql4) (s.core s.cur.1).ctab
      (f32.decode (ftzIn (s.ctx s.cur).ftz .f32 (vl s 32 a l)))) (n := 16) hr ?_ (by decide)
    rw [lanesOf, List.map_map]
    rfl
  · unfold execVscac
    exact vectorOp_lanes hr rfl (by decide)

/-! ## Reductions (R107, R410) -/

/-- Flags ORed over the first `n` places. -/
def orUpTo (f : Nat → FlagSet) : Nat → FlagSet
  | 0 => 0
  | n + 1 => orUpTo f n ||| f n

theorem orUpTo_or (f g : Nat → FlagSet) : ∀ n, orUpTo (fun i => f i ||| g i) n = orUpTo f n ||| orUpTo g n
  | 0 => BitVec.or_self.symm
  | n + 1 => by
    rw [orUpTo, orUpTo_or f g n, orUpTo, orUpTo]
    ac_rfl

theorem orUpTo_pairs (f : Nat → FlagSet) : ∀ n, orUpTo f (2 * n) = orUpTo (fun i => f (2 * i) ||| f (2 * i + 1)) n
  | 0 => rfl
  | n + 1 => by
    show orUpTo f (2 * n) ||| f (2 * n) ||| f (2 * n + 1) = _
    rw [orUpTo, ← orUpTo_pairs f n, BitVec.or_assoc]

theorem collect_flags_range {α : Type} (r : Nat → Res α) (n : Nat) :
    (collect ((List.range n).map r)).2 = orUpTo (fun i => (r i).flags) n := by
  have fold : ∀ (rs : List (Res α)) (x : Res α), (collect (rs ++ [x])).2 = (collect rs).2 ||| x.flags := by
    intro rs x
    induction rs with
    | nil =>
      show x.flags ||| 0 = 0 ||| x.flags
      exact BitVec.or_comm _ _
    | cons y rs ih =>
      show y.flags ||| (collect (rs ++ [x])).2 = y.flags ||| (collect rs).2 ||| x.flags
      rw [ih, BitVec.or_assoc]
  induction n with
  | zero => rfl
  | succ n ih => rw [List.range_succ, List.map_append, List.map_singleton, fold, ih, orUpTo]

theorem treeLevel_range (node : Nat → Nat → Res Nat) (v : Nat → Nat) (n : Nat) :
    treeLevel node ((List.range (2 * n)).map v) = (List.range n).map (fun i => node (v (2 * i)) (v (2 * i + 1))) := by
  induction n generalizing v with
  | zero => rfl
  | succ n ih =>
    have h2 : List.range (2 * (n + 1)) = 0 :: 1 :: (List.range (2 * n)).map (· + 2) := by
      rw [show 2 * (n + 1) = 2 * n + 1 + 1 by ring, List.range_succ_eq_map, List.range_succ_eq_map]
      simp
    rw [h2, List.range_succ_eq_map]
    show node (v 0) (v 1) :: treeLevel node (((List.range (2 * n)).map (· + 2)).map v) = _
    rw [List.map_map, ih (v ∘ (· + 2)), List.map_cons, List.map_map]
    rfl

/-- The tree over lists is the tree over places: the values agree, and the flags are those of the leaves and of every node. -/
theorem reduceTree_eq (node : Nat → Nat → Res Nat) (n : Nat) : ∀ tree : Nat → Nat → Res Nat,
    (∀ k i, tree (k + 1) i = ⟨(node (tree k (2 * i)).val (tree k (2 * i + 1)).val).val,
      (node (tree k (2 * i)).val (tree k (2 * i + 1)).val).flags ||| (tree k (2 * i)).flags ||| (tree k (2 * i + 1)).flags⟩) →
    (reduceTree node n ((List.range (2 ^ n)).map (fun i => (tree 0 i).val))).val = (tree n 0).val
    ∧ (tree n 0).flags = (reduceTree node n ((List.range (2 ^ n)).map (fun i => (tree 0 i).val))).flags
      ||| orUpTo (fun i => (tree 0 i).flags) (2 ^ n) := by
  induction n with
  | zero =>
    intro tree _
    exact ⟨rfl, (BitVec.zero_or.trans BitVec.zero_or).symm⟩
  | succ n ih =>
    intro tree ht
    obtain ⟨h1, h2⟩ := ih (fun k => tree (k + 1)) (fun k i => ht (k + 1) i)
    have hlevel : treeLevel node ((List.range (2 ^ (n + 1))).map (fun i => (tree 0 i).val))
        = (List.range (2 ^ n)).map (fun i => node (tree 0 (2 * i)).val (tree 0 (2 * i + 1)).val) := by
      rw [Nat.pow_succ', treeLevel_range]
    have hval : (collect (treeLevel node ((List.range (2 ^ (n + 1))).map (fun i => (tree 0 i).val)))).1
        = (List.range (2 ^ n)).map (fun i => (tree 1 i).val) := by
      rw [hlevel, collect_val, List.map_map]
      exact List.map_congr_left (fun i _ => by rw [ht 0 i]; rfl)
    have hflag : orUpTo (fun i => (tree 1 i).flags) (2 ^ n)
        = (collect (treeLevel node ((List.range (2 ^ (n + 1))).map (fun i => (tree 0 i).val)))).2
          ||| orUpTo (fun i => (tree 0 i).flags) (2 ^ (n + 1)) := by
      have hf : (fun i => (tree 1 i).flags) = fun i => (node (tree 0 (2 * i)).val (tree 0 (2 * i + 1)).val).flags
          ||| ((tree 0 (2 * i)).flags ||| (tree 0 (2 * i + 1)).flags) := by
        funext i
        rw [ht 0 i, ← BitVec.or_assoc]
      rw [hf, orUpTo_or, hlevel, collect_flags_range, Nat.pow_succ', orUpTo_pairs]
    have hstep : reduceTree node (n + 1) ((List.range (2 ^ (n + 1))).map (fun i => (tree 0 i).val))
        = ⟨(reduceTree node n ((List.range (2 ^ n)).map (fun i => (tree 1 i).val))).val,
          (collect (treeLevel node ((List.range (2 ^ (n + 1))).map (fun i => (tree 0 i).val)))).2
            ||| (reduceTree node n ((List.range (2 ^ n)).map (fun i => (tree 1 i).val))).flags⟩ := by
      rw [← hval]
      rfl
    rw [hstep]
    refine ⟨h1, h2.trans ?_⟩
    rw [hflag]
    dsimp only
    ac_rfl

section
variable {s : State} {h : Hdr} {tier : Option (BitVec 2)} {d : Reg} {a : VecReg} {ty : Ty}

theorem log2Lanes_eq (hty : ty.isFIU = true) : log2Lanes ty.width = (if ty.width = 8 then 6 else if ty.width = 16 then 5 else 4)
    ∧ 512 / ty.width = 2 ^ log2Lanes ty.width := by
  cases ty with
  | a80 | e4m3 | e5m2 | i64 | n64 | ql4 | ti4 => exact absurd hty Bool.false_ne_true
  | _ => decide

theorem pairwise_reduced (v : DWord) (f : FlagSet) :
    (toReg s d v ++ (if f = 0 then [] else [Act.orFlags f])).Pairwise (fun a b => sameTarget b a = false) := by
  refine List.pairwise_append.2 ⟨pairwise_toReg _ _ _, ?_, fun x _ y hy => ?_⟩
  · split
    · exact List.Pairwise.nil
    · exact pairwise_one _
  · split at hy
    · exact absurd hy List.not_mem_nil
    · rw [List.mem_singleton.1 hy]
      cases x <;> rfl

/-- A reduction gives its tree's root (R107, R410). -/
theorem reduceOp_gives {lat : Nat} {node : Bool → Nat → Nat → Res Nat} {tree : Nat → Nat → Res Nat}
    (hr : Ready (vecNeed h tier [] [d] [a] 1) s) (hty : ty.isFIU = true) (hl : 0 < lat)
    (h0 : ∀ l, tree 0 l = exactly (ftzIn (s.ctx s.cur).ftz ty (vl s ty.width a l)))
    (ht : ∀ k i, tree (k + 1) i = ⟨(node (s.ctx s.cur).ftz (tree k (2 * i)).val (tree k (2 * i + 1)).val).val,
      (node (s.ctx s.cur).ftz (tree k (2 * i)).val (tree k (2 * i + 1)).val).flags
        ||| (tree k (2 * i)).flags ||| (tree k (2 * i + 1)).flags⟩) :
    GivesLater s (lat * log2Lanes ty.width) (toReg s d (reduced ty (tree (log2Lanes ty.width) 0).val)
      ++ (if (tree (log2Lanes ty.width) 0).flags = 0 then [] else [.orFlags (tree (log2Lanes ty.width) 0).flags]))
      (reduceOp h d a ty tier lat node s) := by
  obtain ⟨h1, h2⟩ := reduceTree_eq (node (s.ctx s.cur).ftz) (log2Lanes ty.width) tree ht
  have hflag : orUpTo (fun i => (tree 0 i).flags) (2 ^ log2Lanes ty.width) = 0 := by
    have hz : ∀ n, orUpTo (fun i => (tree 0 i).flags) n = 0 := by
      intro n
      induction n with
      | zero => rfl
      | succ n ih =>
        rw [orUpTo, ih, h0]
        exact BitVec.or_self
    exact hz _
  rw [hflag] at h2
  have h2' := h2.trans BitVec.or_zero
  have hls : (List.range (2 ^ log2Lanes ty.width)).map (fun i => (tree 0 i).val)
      = (lanesOf ty.width (vv s a)).map (ftzIn (s.ctx s.cur).ftz ty) := by
    rw [lanesOf, List.map_map, (log2Lanes_eq hty).2]
    exact List.map_congr_left (fun l _ => by rw [h0]; rfl)
  rw [← h1, h2', hls]
  have hlat : 1 < lat * log2Lanes ty.width := by
    have : 1 < log2Lanes ty.width := by
      rw [(log2Lanes_eq hty).1]
      split
      · decide
      · split <;> decide
    exact this.trans_le (Nat.le_mul_of_pos_left _ hl)
  unfold reduceOp
  exact vectorOp_later hr rfl hlat (pairwise_reduced _ _)

end

/-- The smaller or larger of two lanes, as a node of the tree (R94). -/
theorem minMaxLane_node (isMax ftz : Bool) (ty : Ty) (x y : Nat) : minMaxLane isMax ty ftz x y
    = if ty.isF then minMaxF (fmtOf ty) isMax (ftzIn ftz ty x) (ftzIn ftz ty y)
      else exactly (if (if isMax then intOf (Ty.signed ty) ty.width x < intOf (Ty.signed ty) ty.width y
        else intOf (Ty.signed ty) ty.width y < intOf (Ty.signed ty) ty.width x) then y else x) := by
  cases isMax with
  | false => simp only [minMaxLane, exactly, Bool.false_eq_true, if_false, decide_eq_true_eq]
  | true => simp only [minMaxLane, exactly, if_true, decide_eq_true_eq]

/-- Settles O31: `reduceTree` is the pairwise tree. -/
theorem reductionsFollowTheTree : Obligations.ReductionsFollowTheTree := by
  intro s h tier d a ty rnd sat isMax hr hty
  simp only [exec_vreds, exec_vredx, ← (log2Lanes_eq hty).1]
  refine ⟨fun tree h0 ht => ?_, fun tree h0 ht => ?_⟩
  · refine reduceOp_gives hr hty ?_ h0 ht
    split <;> decide
  · refine reduceOp_gives hr hty (by decide) h0 (fun k i => (ht k i).trans ?_)
    rw [minMaxLane_node]

end Sys2Proof.Proofs
end


section
/-! PROOFS. The elementwise memory forms (R176, R178, R392, R404, R405). -/

namespace Sys2Proof.Proofs

open Sys2Proof.Machine Sys2Proof.Safety Sys2Proof.Laws

/-! ## The checks over all lanes -/

/-- THE CHECKS OF R405 over the lanes, then what follows when they pass. -/
def LanesChecked (s : State) (m lanes : Nat) (ea : Nat → Int) (o : Host.Outcome State Fault Refusal) (good : (Nat → Nat) → Prop) : Prop :=
  (∀ l, l < lanes → ea l % m ≠ 0 → (∀ j, j < l → ea j % m = 0) → Traps s ⟨.align, 0, BitVec.ofInt 64 (ea l), false⟩ o)
  ∧ ((∀ l, l < lanes → ea l % m = 0) →
    (∀ l, l < lanes → ea l < 0 ∨ Config.localSize s.tier < ea l + m →
      (∀ j, j < l → ¬ (ea j < 0 ∨ Config.localSize s.tier < ea j + m)) → Traps s ⟨.bankrange, 0, BitVec.ofInt 64 (ea l), false⟩ o)
    ∧ ((∀ l, l < lanes → ¬ (ea l < 0 ∨ Config.localSize s.tier < ea l + m)) →
      ∀ f : Nat → Nat, (∀ l, l < lanes → (f l : Int) = ea l) → good f))

theorem find?_map_range_some {α : Type} {g : Nat → α} {q : α → Prop} [DecidablePred q] {n l : Nat} (hl : l < n) (hp : q (g l))
    (hj : ∀ j, j < l → ¬ q (g j)) : ((List.range n).map g).find? (fun x => decide (q x)) = some (g l) := by
  refine List.find?_eq_some_iff_getElem.2 ⟨decide_eq_true hp, l, by simpa using hl, by simp, fun j h => ?_⟩
  simp only [List.getElem_map, List.getElem_range, decide_eq_false (hj j h), Bool.not_false]

theorem find?_map_range_none {α : Type} {g : Nat → α} {q : α → Prop} [DecidablePred q] {n : Nat} (h : ∀ l, l < n → ¬ q (g l)) :
    ((List.range n).map g).find? (fun x => decide (q x)) = none := by
  refine List.find?_eq_none.2 (fun x hx => ?_)
  obtain ⟨l, hl, rfl⟩ := List.mem_map.1 hx
  rw [decide_eq_false (h l (List.mem_range.1 hl))]
  exact Bool.false_ne_true

theorem lanesChecked_issue {nd : Need} {body : State → Except Trap Done} {g : List Nat → Except Trap Done} {s : State} {m lanes : Nat}
    {ea : Nat → Int} {good : (Nat → Nat) → Prop} (hr : Ready nd s)
    (hb : body s = (checkLanes s m ((List.range lanes).map ea) >>= g))
    (hgood : ∀ f : Nat → Nat, (∀ l, l < lanes → (f l : Int) = ea l) → body s = g ((List.range lanes).map f) → good f) :
    LanesChecked s m lanes ea (issue nd body s) good := by
  have aligned : (∀ l, l < lanes → ea l % m = 0) →
      ((List.range lanes).map ea).find? (fun e => decide (e % (m : Int) ≠ 0)) = none :=
    fun h => find?_map_range_none (q := fun e => e % (m : Int) ≠ 0) (fun l hl => not_not.2 (h l hl))
  refine ⟨fun l hl ha hj => issue_trap hr ?_, fun hal => ⟨fun l hl ho hj => issue_trap hr ?_, fun hin f hf => hgood f hf ?_⟩⟩
  · rw [hb, checkLanes, find?_map_range_some (q := fun e => e % (m : Int) ≠ 0) hl ha (fun j h => not_not.2 (hj j h))]
    rfl
  · rw [hb, checkLanes, aligned hal]
    dsimp only
    rw [find?_map_range_some (q := fun e => e < 0 ∨ (Config.localSize s.tier : Int) < e + m) hl ho hj]
    rfl
  · rw [hb, checkLanes, aligned hal]
    dsimp only
    rw [find?_map_range_none (q := fun e => e < 0 ∨ (Config.localSize s.tier : Int) < e + m) hin, List.map_map]
    refine congrArg g (List.map_congr_left (fun l hl => ?_))
    show (ea l).toNat = f l
    rw [← hf l (List.mem_range.1 hl), Int.toNat_natCast]

/-! ## Reading lane by lane -/

theorem mapM_ok {ε α β : Type} {g : α → Except ε β} {v : α → β} : ∀ ls : List α, (∀ a ∈ ls, g a = .ok (v a)) →
    ls.mapM g = .ok (ls.map v)
  | [], _ => rfl
  | a :: r, h => by
    rw [List.mapM_cons, h a List.mem_cons_self, mapM_ok r (fun b hb => h b (List.mem_cons_of_mem _ hb))]
    rfl

theorem mapM_error {ε α β : Type} {g : α → Except ε β} {v : α → β} {e : ε} : ∀ (ls : List α) (l : Nat) (hl : l < ls.length),
    (∀ j (hj : j < l), g (ls[j]'(hj.trans hl)) = .ok (v (ls[j]'(hj.trans hl)))) → g ls[l] = .error e → ls.mapM g = .error e
  | a :: r, 0, _, _, he => by
    rw [List.mapM_cons, show g a = .error e from he]
    rfl
  | a :: r, l + 1, hl, hj, he => by
    rw [List.mapM_cons, show g a = .ok (v a) from hj 0 (Nat.zero_lt_succ l),
      mapM_error r l (Nat.lt_of_succ_lt_succ hl) (fun j h => hj (j + 1) (Nat.succ_lt_succ h)) he]
    rfl

section
variable {s : State} {f : Nat → Nat} {m lanes : Nat}

theorem readLanes_ok (h : ∀ l, l < lanes → readable s (f l) m) : ((List.range lanes).map f).mapM (fun a => readNear s a m)
    = .ok (((List.range lanes).map f).map (fun a => (s.core s.cur.1).readN a m)) := by
  refine mapM_ok _ (fun a ha => ?_)
  obtain ⟨l, hl, rfl⟩ := List.mem_map.1 ha
  exact readNear_readable (h l (List.mem_range.1 hl))

theorem readLanes_bad {l bad : Nat} (hl : l < lanes) (hb : firstBadWord s (f l) m bad) (h : ∀ j, j < l → readable s (f j) m) :
    ((List.range lanes).map f).mapM (fun a => readNear s a m) = .error (eccuOf s bad) := by
  refine mapM_error (v := fun a => (s.core s.cur.1).readN a m) _ l (by simpa using hl) (fun j hj => ?_) ?_
  · rw [List.getElem_map, List.getElem_range]
    exact readNear_readable (h j hj)
  · rw [List.getElem_map, List.getElem_range]
    exact readNear_bad hb

theorem readLanes_gives {x : Except Trap Done} {k : List (List Byte) → Except Trap Done}
    (hx : x = (((List.range lanes).map f).mapM (fun a => readNear s a m) >>= k)) (h : ∀ l, l < lanes → readable s (f l) m) :
    x = k (((List.range lanes).map f).map (fun a => (s.core s.cur.1).readN a m)) := by
  rw [hx, readLanes_ok h]
  rfl

theorem readLanes_fails {x : Except Trap Done} {k : List (List Byte) → Except Trap Done} {l bad : Nat}
    (hx : x = (((List.range lanes).map f).mapM (fun a => readNear s a m) >>= k)) (hl : l < lanes)
    (hb : firstBadWord s (f l) m bad) (h : ∀ j, j < l → readable s (f j) m) : x = .error (eccuOf s bad) := by
  rw [hx, readLanes_bad hl hb h]
  rfl

theorem near_lanes {ea : Nat → Int} (hf : ∀ l, l < lanes → (f l : Int) = ea l) :
    (List.range lanes).flatMap (fun l => bytesAt (ea l) m) = (List.range lanes).map (fun l => (f l, m)) := by
  rw [List.map_eq_flatMap]
  refine List.flatMap_congr (fun l hl => ?_)
  rw [← hf l (List.mem_range.1 hl), bytesAt, if_pos (Int.natCast_nonneg _), Int.toNat_natCast]

theorem soft_lanes {nd : Need} (h : nd.reading = (List.range lanes).map (fun l => (f l, m))) :
    nd.soft s = ((List.range lanes).map (fun l => softCount s (f l) m)).sum := by
  rw [Need.soft, h, List.foldl_map, List.sum_eq_foldl, List.foldl_map]
  rfl

theorem softCount_clean {a n : Nat} (h : cleanWords s a n) : softCount s a n = 0 := softWords_clean h

end

theorem givesCounted_soft {n : Need} {body : State → Except Trap Done} {s : State} {lat hits : Nat} {as_ : List Act}
    (h : Ready n s) (hb : body s = done s lat as_) (hl : 1 < lat) (hd : as_.Pairwise (fun a b => sameTarget b a = false))
    (hs : n.soft s = hits) : GivesCounted s lat as_ hits (issue n body s) := hs ▸ givesCounted_issue h hb hl hd

section
variable {s : State} {h : Hdr} {tier : Option (BitVec 2)} {d : VecReg} {rs : List Reg} {vs : List VecReg} {m lanes occ : Nat}
  {eas : State → List Int} {ea : Nat → Int}

/-- An element-wise load (R404, R405). -/
theorem laneLoad_gives (hm : 8 * m / 8 = m) (ho : laneGroups (8 * m) = (lanes + 15) / 16) (heas : eas s = (List.range lanes).map ea)
    (hr : Ready { vecNeed h tier rs [] vs ((lanes + 15) / 16) with bytes := (List.range lanes).flatMap (fun l => bytesAt (ea l) m) } s) :
    LanesChecked s m lanes ea (laneLoad h tier rs vs d (8 * m) eas s) (fun f =>
      (∀ l bad, l < lanes → firstBadWord s (f l) m bad → (∀ j, j < l → readable s (f j) m) →
        Traps s (eccuOf s bad) (laneLoad h tier rs vs d (8 * m) eas s))
      ∧ ((∀ l, l < lanes → readable s (f l) m) → GivesCounted s (4 + (lanes + 15) / 16)
        [.vec d.toNat (packLanes (8 * m) ((List.range lanes).map (fun l => nearNat s (f l) m)))]
        (((List.range lanes).map (fun l => softCount s (f l) m)).sum) (laneLoad h tier rs vs d (8 * m) eas s))
      ∧ ((∀ l, l < lanes → cleanWords s (f l) m) → GivesLater s (4 + (lanes + 15) / 16)
        [.vec d.toNat (packLanes (8 * m) ((List.range lanes).map (fun l => nearNat s (f l) m)))]
        (laneLoad h tier rs vs d (8 * m) eas s))) := by
  unfold laneLoad
  rw [hm, ho, heas, List.flatMap_map]
  refine lanesChecked_issue hr (congrArg (fun l => checkLanes s m l >>= fun as_ => as_.mapM (fun a => readNear s a m) >>= fun vals =>
    done s (4 + (lanes + 15) / 16) [.vec d.toNat (packLanes (8 * m) (vals.map leNat))]) heas) (fun f hf hok => ?_)
  have hpack : (((List.range lanes).map f).map (fun a => (s.core s.cur.1).readN a m)).map leNat
      = (List.range lanes).map (fun l => nearNat s (f l) m) := by
    rw [List.map_map, List.map_map]
    exact List.map_congr_left (fun l _ => readNat_eq_coreNat _ _ _ _)
  rw [← hpack]
  refine ⟨fun l bad hl hb hj => issue_trap hr (readLanes_fails hok hl hb hj), fun hread => ?_, fun hc => ?_⟩
  · exact givesCounted_soft hr (readLanes_gives hok hread) (by omega) (pairwise_one _) (soft_lanes (near_lanes hf))
  · refine givesLater_issue hr (readLanes_gives hok (fun l hl => readable_of_clean (hc l hl)))
      ((soft_lanes (near_lanes hf)).trans ?_) (by omega) (pairwise_one _)
    exact List.sum_eq_zero (fun x hx => by
      obtain ⟨l, hl, rfl⟩ := List.mem_map.1 hx
      exact softCount_clean (hc l (List.mem_range.1 hl)))

/-- An element-wise store (R404, R405). -/
theorem laneStore_gives (hm : 8 * m / 8 = m) (hsub : (8 * m < 32) = (m < 4)) (ho : laneGroups (8 * m) = (lanes + 15) / 16)
    (hn : 512 / (8 * m) = lanes) (heas : eas s = (List.range lanes).map ea)
    (hr : Ready { vecNeed h tier rs [] (d :: vs) ((if 8 * m < 32 then 2 else 1) * ((lanes + 15) / 16)) with
      stored := (List.range lanes).flatMap (fun l => bytesAt (ea l) m) } s) :
    LanesChecked s m lanes ea (laneStore h tier rs vs d (8 * m) eas s) (fun f =>
      GivesLater s ((if 8 * m < 32 then 5 else 4) + (lanes + 15) / 16)
        [.lanes ((List.range lanes).map (fun l => (f l, leBytes m (vl s (8 * m) d l)))) (decide (m < 4))]
        (laneStore h tier rs vs d (8 * m) eas s)) := by
  unfold laneStore
  simp only [decide_eq_true_eq]
  rw [hm, ho, heas, List.flatMap_map]
  refine lanesChecked_issue hr (congrArg (fun l => checkLanes s m l >>= fun as_ =>
    done s ((if 8 * m < 32 then 5 else 4) + (lanes + 15) / 16)
      [.lanes (List.zipWith (fun a x => (a, leBytes m x)) as_ (lanesOf (8 * m) (vv s d))) (decide (8 * m < 32))]) heas) (fun f hf hok => ?_)
  have hlanes : List.zipWith (fun a x => (a, leBytes m x)) ((List.range lanes).map f) (lanesOf (8 * m) (vv s d))
      = (List.range lanes).map (fun l => (f l, leBytes m (vl s (8 * m) d l))) := by
    rw [lanesOf, hn, zipWith_range]
    rfl
  rw [hlanes] at hok
  simp only [hsub] at hok ⊢
  refine givesLater_issue hr hok (soft_nil rfl) ?_ (pairwise_one _)
  split <;> omega

end

/-- Settles O32: the checks of every lane, then the lanes read or sent. -/
theorem elementwiseMemoryForms : Obligations.ElementwiseMemoryForms := by
  intro s h tier d b a x ty disp
  simp only [exec_vlds, exec_vsts, exec_vgath, exec_vscat]
  have hoff : offsetAddrs s a b disp = (List.range 16).map (fun l => (rv s a).toNat + disp.toInt + vl s 32 b l) := by
    rw [offsetAddrs, lanesOf, List.map_map]
    rfl
  refine ⟨fun hw => ?_, fun hw => ⟨fun hr => ?_, fun hr => ?_⟩⟩
  · obtain ⟨m, hty, hm⟩ : ∃ m, ty.width = 8 * m ∧ m ∈ [1, 2, 4] := by
      simp only [List.mem_cons, List.not_mem_nil, or_false] at hw
      rcases hw with h | h | h
      · exact ⟨1, h, by decide⟩
      · exact ⟨2, h, by decide⟩
      · exact ⟨4, h, by decide⟩
    have h8 : 8 * m / 8 = m := Nat.mul_div_cancel_left m (by decide)
    unfold execVlds execVsts
    rw [hty, h8]
    refine ⟨fun hr => ?_, fun hr => ?_⟩
    · exact laneLoad_gives h8 rfl rfl hr
    · refine laneStore_gives h8 ?_ rfl rfl rfl hr
      rw [eq_iff_iff]
      omega
  · unfold execVgath
    rw [hw] at *
    exact laneLoad_gives (m := 4) (lanes := 16) rfl rfl hoff hr
  · unfold execVscat
    rw [hw] at *
    exact laneStore_gives (m := 4) (lanes := 16) rfl (by simp) rfl rfl hoff hr

end Sys2Proof.Proofs
end


section
/-! PROOFS. Messages, far accesses and bank atomics under way (R16, R18, R187, R189, R211, R235 to R237, R348, R355 to R357,
R378, R379, R385). -/

namespace Sys2Proof.Proofs

open Sys2Proof.Machine Sys2Proof.Safety Sys2Proof.Laws

/-! ## An effect at issue beside results -/

/-- A ready instruction that goes on to the next one: what it left, but for its context's place and the core's pace. -/
theorem next_issue {nd : Need} {body : State → Except Trap Done} {s u : State} {w : Writes} {P : State → Prop} (hr : Ready nd s)
    (hb : body s = .ok ⟨u, .next⟩) (hs : nd.soft s = 0) (hf : Frame w s u)
    (hP : ∀ t, Frame w s t → Frame {} u t → P t) : Answers (issue nd body s) P := by
  have hrt := Frame_retire { nd with unit := idleUnit nd s } u .next true (by simp)
  exact ⟨_, issue_clean hr hb hs, hP _ (Frame_trans hf (Frame_weaken hrt)) hrt⟩

theorem next_issue_of {nd : Need} {body : State → Except Trap Done} {s u u' : State} {w : Writes} {P : State → Prop} (hr : Ready nd s)
    (hb : body s = .ok ⟨u', .next⟩) (he : u' = u) (hs : nd.soft s = 0) (hf : Frame w s u)
    (hP : ∀ t, Frame w s t → Frame {} u t → P t) : Answers (issue nd body s) P := next_issue hr (he ▸ hb) hs hf hP

/-- A change of the machine beside the cores that the frame hides. -/
theorem Frame_machine {w : Writes} {s u : State} (hc : u.cores = s.cores) (hq : u.cur = s.cur)
    (hm : w.machine { u with cores := [] } = w.machine { s with cores := [] }) : Frame w s u := by
  have hcore : ∀ k, u.core k = s.core k := fun k => by rw [State.core, State.core, hc]
  exact ⟨hm, hq, fun k _ => by rw [hcore], fun i _ => by rw [hcore], by rw [State.ctx, State.ctx, hcore], by rw [hcore],
    fun a _ => by rw [nearByte, nearByte, hcore]⟩

theorem msg_frame {s t : State} (h : Frame {} s t) (m : MsgReg) : (t.ctx s.cur).msg m = (s.ctx s.cur).msg m := by
  have hm : (t.ctx s.cur).m = (s.ctx s.cur).m := (congrArg Ctx.m h.context :)
  rw [Ctx.msg, Ctx.msg, hm]

theorem agenda_frame {s t : State} (h : Frame {} s t) : t.agenda = s.agenda := (congrArg State.agenda h.machine :)

theorem msg_modMsg (x : Ctx) (m r : MsgReg) (f : Msg → Msg) :
    (x.modMsg m f).msg r = if r = m then f (x.msg m) else x.msg r := by
  rw [Ctx.modMsg, Ctx.msg, Ctx.msg, Ctx.msg, sget_sset]
  by_cases h : r = m
  · rw [if_pos h, h, if_pos rfl]
  · rw [if_neg h, if_neg (fun e => h (BitVec.eq_of_toNat_eq e.symm))]

/-! ## Routes (R16, R17) -/

theorem length_legs (a b : Nat) : (legs a b).length = (a - b) + (b - a) := by
  unfold legs
  split <;> simp <;> omega

theorem freeCycle_ge (mesh : List (Nat × Nat)) (key span : Nat) : ∀ fuel cy, cy ≤ freeCycle mesh key span cy fuel
  | 0, _ => Nat.le_refl _
  | n + 1, cy => by
    rw [freeCycle]
    split
    · exact (Nat.le_succ cy).trans (freeCycle_ge mesh key span n (cy + 1))
    · exact Nat.le_refl _

/-- A walk takes the cycles of its links and bridge at least. -/
theorem walk_ge (claim : Bool) : ∀ (spans mesh : List (Nat × Nat)) (cy : Nat),
    cy + (spans.map (·.2)).sum ≤ (walk mesh claim spans cy).1
  | [], _, _ => Nat.le_refl _
  | (key, span) :: r, mesh, cy => by
    have h1 := freeCycle_ge mesh key span (mesh.length * span + span) cy
    have h2 := walk_ge claim r (if claim then (List.range span).foldl
      (fun m i => (key, freeCycle mesh key span cy (mesh.length * span + span) + i) :: m) mesh else mesh)
      (freeCycle mesh key span cy (mesh.length * span + span) + span)
    rw [walk, List.map_cons, List.sum_cons]
    dsimp only at h2 ⊢
    omega

theorem routeSpans_sum (src dst : Nat) : ((routeSpans src dst).map (·.2)).sum + 4 = meshLatency src dst := by
  have h1 : ((routeLinks src dst).map (fun l => (l, 1))).map (·.2) = List.replicate (routeLinks src dst).length 1 := by
    rw [List.map_map]
    exact List.map_const'
  have h2 : (routeLinks src dst).length = (xOf src - xOf dst) + (xOf dst - xOf src) + ((yOf src - yOf dst) + (yOf dst - yOf src)) := by
    rw [routeLinks, List.length_append, List.length_map, List.length_map, length_legs, length_legs]
  rw [routeSpans, List.map_append, List.sum_append, h1, List.sum_replicate_nat, h2, meshLatency]
  dsimp only
  split
  · simp
    omega
  · simp
    omega

section
variable {s : State} {src dst : Nat} {timed : Bool}

/-- A message is under way for R16's latency at least, and its sending changes nothing but claims, free values and arrivals. -/
theorem travel_spec (t : Nat) : ∃ arr m f, s.travel src dst t timed = (arr, { s with mesh := m, fresh := f })
    ∧ (t / cyc src + meshLatency src dst) * cyc src ≤ arr := by
  have hw := walk_ge timed (routeSpans src dst) s.mesh (t / cyc src + 2)
  have hs := routeSpans_sum src dst
  rw [State.travel]
  dsimp only
  cases timed with
  | true =>
    refine ⟨_, _, s.fresh, rfl, Nat.mul_le_mul_right _ ?_⟩
    omega
  | false =>
    refine ⟨_, _, _, rfl, Nat.mul_le_mul_right _ ?_⟩
    dsimp only [State.draw] at hw ⊢
    omega

theorem sendOff_spec : ∃ arr m f l, s.sendOff src dst timed = (arr, { s with mesh := m, fresh := f, lastMsg := l })
    ∧ (s.now / cyc src + meshLatency src dst) * cyc src ≤ arr := by
  obtain ⟨arr, m, f, he, hle⟩ := travel_spec (s := s) (src := src) (dst := dst) (timed := timed) s.now
  rw [State.sendOff, he]
  dsimp only
  cases timed with
  | true => exact ⟨arr, m, f, s.lastMsg, rfl, hle⟩
  | false =>
    refine ⟨_, m, f, _, rfl, ?_⟩
    split
    · exact hle
    · exact hle.trans (Nat.le_max_left _ _)

end

/-! ## The checks of a message (R18, R176, R356) -/

section
variable {s : State} {wa : DWord} {a n : Nat}

/-- The destination of a message is a core of the sender's tier and partition. -/
def DestOk (s : State) (wa : DWord) : Prop := wa.toNat % 2 ^ 15 < Config.coreCount ∧ Machine.tierOf (wa.toNat % 2 ^ 15) = s.tier
  ∧ s.partOf (wa.toNat % 2 ^ 15) = s.partOf s.cur.1

theorem nbits_low (x k : Nat) : nbits x k 0 = x % 2 ^ (k + 1) := by
  rw [nbits, Nat.pow_zero, Nat.div_one, Nat.sub_zero]

theorem checkDest_ok (h : DestOk s wa) : checkDest s wa = .ok (wa.toNat % 2 ^ 15) := by
  obtain ⟨h1, h2, h3⟩ := h
  rw [checkDest, nbits_low]
  exact if_neg (fun h => by
    rcases h with h | h | h
    · exact absurd h1 (Nat.not_lt.2 h)
    · exact h h2
    · exact h h3)

theorem checkDest_bad (h : ¬ DestOk s wa) : checkDest s wa = .error (.at_ .bankrange wa.toNat) := by
  rw [checkDest, nbits_low, Trap.at_, BitVec.ofNat_toNat, BitVec.setWidth_eq]
  refine if_pos ?_
  by_contra hc
  simp only [not_or, not_le, not_not] at hc
  exact h hc

theorem checkBox_out (h : a < Config.bankBase ∨ Config.statusBase s.tier ≤ a) : checkBox s a n = .error (.at_ .bankrange a) := if_pos h

theorem checkBox_over (h1 : Config.bankBase ≤ a) (h2 : a < Config.statusBase s.tier) (h3 : Config.statusBase s.tier < a + n) :
    checkBox s a n = .error (.at_ .bankrange (Config.statusBase s.tier)) :=
  (if_neg (by omega)).trans (if_pos h3)

theorem checkBox_ok (h1 : Config.bankBase ≤ a) (h2 : a + n ≤ Config.statusBase s.tier) (hn : 0 < n) : checkBox s a n = .ok () :=
  (if_neg (by omega)).trans (if_neg (by omega))

end

/-! ## SEND -/

/-- SEND's effect (R378). -/
def sendBody (d : MsgReg) (a : Reg) (b : VecReg) (s : State) : Except Trap Done := do
  let wa := rv s a
  let dctx := nbits wa.toNat 16 15
  if (inStep s ∧ dctx ≠ 0) ∨ (s.cur.2 ≠ 0 ∧ dctx = 0) then throw (.of .illop)
  let dst ← checkDest s wa
  let (arr, s') := s.sendOff s.cur.1 dst (inStep s)
  .ok ⟨s'.post arr (.messageArrival dst dctx d (vv s b) s.cur.1 s.cur.2 (inStep s)), .next⟩

theorem execSend_eq (h : Hdr) (d : MsgReg) (a : Reg) (b : VecReg) (s : State) : execSend h d a b s
    = issue { len := 1, hdr := h, rs := [a], vs := [b], ill := inCompute s, path := some .ms } (sendBody d a b) s := rfl

section
variable {s : State} {d : MsgReg} {a b : Reg} {v : VecReg}

theorem nbits_ctx (x : Nat) : nbits x 16 15 = x / 2 ^ 15 % 4 := rfl

theorem sendBody_cross (h : (inStep s = true ∧ (rv s a).toNat / 2 ^ 15 % 4 ≠ 0) ∨ (s.cur.2 ≠ 0 ∧ (rv s a).toNat / 2 ^ 15 % 4 = 0)) :
    sendBody d a v s = .error (.of .illop) := by
  unfold sendBody
  dsimp only
  rw [nbits_ctx, if_pos h]
  rfl

theorem sendBody_bad (h : ¬ ((inStep s = true ∧ (rv s a).toNat / 2 ^ 15 % 4 ≠ 0) ∨ (s.cur.2 ≠ 0 ∧ (rv s a).toNat / 2 ^ 15 % 4 = 0)))
    (hd : ¬ DestOk s (rv s a)) : sendBody d a v s = .error (.at_ .bankrange (rv s a).toNat) := by
  unfold sendBody
  dsimp only
  rw [nbits_ctx, if_neg h, checkDest_bad hd]
  rfl

theorem sendBody_ok (h : ¬ ((inStep s = true ∧ (rv s a).toNat / 2 ^ 15 % 4 ≠ 0) ∨ (s.cur.2 ≠ 0 ∧ (rv s a).toNat / 2 ^ 15 % 4 = 0)))
    (hd : DestOk s (rv s a)) : ∃ arr m f l, sendBody d a v s = .ok ⟨({ s with mesh := m, fresh := f, lastMsg := l } : State).post arr
        (.messageArrival ((rv s a).toNat % 2 ^ 15) ((rv s a).toNat / 2 ^ 15 % 4) d (vv s v) s.cur.1 s.cur.2 (inStep s)), .next⟩
      ∧ (s.now / cyc s.cur.1 + meshLatency s.cur.1 ((rv s a).toNat % 2 ^ 15)) * cyc s.cur.1 ≤ arr := by
  obtain ⟨arr, m, f, l, he, hle⟩ := sendOff_spec (s := s) (src := s.cur.1) (dst := (rv s a).toNat % 2 ^ 15) (timed := inStep s)
  refine ⟨arr, m, f, l, ?_, hle⟩
  unfold sendBody
  dsimp only
  rw [nbits_ctx, if_neg h, checkDest_ok hd]
  show Except.ok (ε := Trap) (Done.mk ((s.sendOff s.cur.1 ((rv s a).toNat % 2 ^ 15) (inStep s)).2.post _ _) _) = _
  rw [he]

end

/-- A message under way, as an instruction leaves it: nothing else but what `hide` hides changes. -/
def Sends (s : State) (dst : Nat) (hide : Ctx → Ctx) (ev : Nat → Event) (own : State → Prop) (o : Host.Outcome State Fault Refusal) : Prop :=
  Answers o (fun t => Frame { machine := sending, ctx := hide } s t ∧ own t
    ∧ ∃ arr, (s.now / cyc s.cur.1 + meshLatency s.cur.1 dst) * cyc s.cur.1 ≤ arr ∧ Posts s t arr (ev arr))

/-- A message that the context `cur` sends from a state that differs from `s` in its own registers alone. -/
theorem sends_issue {nd : Need} {body : State → Except Trap Done} {s u : State} {dst arr : Nat} {m : List (Nat × Nat)} {f : Nat}
    {l : Sparse Nat} {hide : Ctx → Ctx} {ev : Nat → Event} {own : State → Prop} (hr : Ready nd s) (hs : nd.soft s = 0)
    (hb : body s = .ok ⟨({ u with mesh := m, fresh := f, lastMsg := l } : State).post arr (ev arr), .next⟩)
    (hu : Frame { machine := sending, ctx := hide } s u) (ha : u.agenda = s.agenda)
    (hle : (s.now / cyc s.cur.1 + meshLatency s.cur.1 dst) * cyc s.cur.1 ≤ arr)
    (hown : ∀ t : State, (∀ r, (t.ctx u.cur).msg r = (u.ctx u.cur).msg r) → own t) :
    Sends s dst hide ev own (issue nd body s) := by
  refine next_issue hr hb hs (Frame_trans hu (Frame_machine rfl rfl rfl)) (fun t hf ht => ⟨hf, hown t (fun r => msg_frame ht r), arr, hle, ?_⟩)
  rw [Posts, agenda_frame ht, ← ha]
  rfl

/-! ## MGET and MSGB -/

/-- The checks of a message to a box, in their order, then what follows when they pass. -/
def Boxed (s : State) (size wa addr : Nat) (there : Prop) (o : Host.Outcome State Fault Refusal) (good : Prop) : Prop :=
  (addr % size ≠ 0 → Traps s (.at_ .align addr) o)
  ∧ (addr % size = 0 → ¬ there → Traps s (.at_ .bankrange wa) o)
  ∧ (addr % size = 0 → there → addr < Config.bankBase ∨ Config.statusBase s.tier ≤ addr → Traps s (.at_ .bankrange addr) o)
  ∧ (addr % size = 0 → there → Config.bankBase ≤ addr → addr < Config.statusBase s.tier → Config.statusBase s.tier < addr + size →
      Traps s (.at_ .bankrange (Config.statusBase s.tier)) o)
  ∧ (addr % size = 0 → there → Config.bankBase ≤ addr → addr + size ≤ Config.statusBase s.tier → good)

/-- The checks of MGET and MSGB, then their effect. -/
def boxedBody (n : Nat) (a b : Reg) (k : Nat → Except Trap Done) (s : State) : Except Trap Done := do
  let addr := (rv s b).toNat
  if addr % n ≠ 0 then throw (.at_ .align addr)
  let dst ← checkDest s (rv s a)
  checkBox s addr n
  k dst

theorem boxed_issue {nd : Need} {body : State → Except Trap Done} {s : State} {n : Nat} {a b : Reg} {k : Nat → Except Trap Done}
    {good : Prop} (hr : Ready nd s) (hb : body s = boxedBody n a b k s) (hn : 0 < n)
    (hgood : body s = k ((rv s a).toNat % 2 ^ 15) → good) :
    Boxed s n (rv s a).toNat (rv s b).toNat (DestOk s (rv s a)) (issue nd body s) good := by
  refine ⟨fun h1 => issue_trap hr ?_, fun h1 h2 => issue_trap hr ?_, fun h1 h2 h3 => issue_trap hr ?_,
    fun h1 h2 h3 h4 h5 => issue_trap hr ?_, fun h1 h2 h3 h4 => hgood ?_⟩ <;> rw [hb, boxedBody]
  · rw [if_pos h1]
    rfl
  · rw [if_neg (not_not.2 h1), checkDest_bad h2]
    rfl
  · rw [if_neg (not_not.2 h1), checkDest_ok h2, checkBox_out h3]
    rfl
  · rw [if_neg (not_not.2 h1), checkDest_ok h2, checkBox_over h3 h4 h5]
    rfl
  · rw [if_neg (not_not.2 h1), checkDest_ok h2, checkBox_ok h3 h4 hn]
    rfl

/-- MGET's effect at a destination. -/
def mgetTo (d : MsgReg) (b : Reg) (s : State) (dst : Nat) : Except Trap Done :=
  let s' := s.modCtx s.cur (fun x => x.modMsg d (fun r => r.request s.now))
  let (arr, s') := s'.sendOff s.cur.1 dst (inStep s)
  .ok ⟨s'.post arr (.mgetPortRead dst (rv s b).toNat s.cur.1 s.cur.2 d (inStep s) arr ((s.ctx s.cur).msg d).cleared), .next⟩

theorem execMget_eq (h : Hdr) (d : MsgReg) (a b : Reg) (s : State) : execMget h d a b s
    = issue { len := 1, hdr := h, rs := [a, b], ill := inCompute s, path := some .ms } (fun s => boxedBody 64 a b (mgetTo d b s) s) s := rfl

/-- MSGB's effect at a destination. -/
def msgbTo (d : VecReg) (b : Reg) (s8 : Bool) (s : State) (dst : Nat) : Except Trap Done :=
  let (arr, s') := s.sendOff s.cur.1 dst (inStep s)
  .ok ⟨s'.post arr (.msgbPortWrite dst (rv s b).toNat (vv s d) s8 s.cur.1 s.cur.2 (inStep s) arr), .next⟩

theorem execMsgb_eq (h : Hdr) (d : VecReg) (a b : Reg) (s8 : Bool) (s : State) : execMsgb h d a b s8 s
    = issue { len := 1, hdr := h, rs := [a, b], vs := [d], ill := inCompute s, path := some .ms }
      (fun s => boxedBody (if s8 then 8 else 64) a b (msgbTo d b s8 s) s) s := rfl

theorem mgetTo_eq (d : MsgReg) (b : Reg) (s : State) (dst : Nat) : ∃ arr m f l, mgetTo d b s dst
    = .ok ⟨({ s.modCtx s.cur (fun x => x.modMsg d (fun r => r.request s.now)) with mesh := m, fresh := f, lastMsg := l } : State).post arr
        (.mgetPortRead dst (rv s b).toNat s.cur.1 s.cur.2 d (inStep s) arr ((s.ctx s.cur).msg d).cleared), .next⟩
      ∧ (s.now / cyc s.cur.1 + meshLatency s.cur.1 dst) * cyc s.cur.1 ≤ arr := by
  obtain ⟨arr, m, f, l, he, hle⟩ := sendOff_spec (s := s.modCtx s.cur (fun x => x.modMsg d (fun r => r.request s.now)))
    (src := s.cur.1) (dst := dst) (timed := inStep s)
  refine ⟨arr, m, f, l, ?_, hle⟩
  rw [mgetTo, he]

theorem msgbTo_eq (d : VecReg) (b : Reg) (s8 : Bool) (s : State) (dst : Nat) : ∃ arr m f l, msgbTo d b s8 s dst
    = .ok ⟨({ s with mesh := m, fresh := f, lastMsg := l } : State).post arr
        (.msgbPortWrite dst (rv s b).toNat (vv s d) s8 s.cur.1 s.cur.2 (inStep s) arr), .next⟩
      ∧ (s.now / cyc s.cur.1 + meshLatency s.cur.1 dst) * cyc s.cur.1 ≤ arr := by
  obtain ⟨arr, m, f, l, he, hle⟩ := sendOff_spec (s := s) (src := s.cur.1) (dst := dst) (timed := inStep s)
  refine ⟨arr, m, f, l, ?_, hle⟩
  rw [msgbTo, he]

theorem msgs_modMsg (s : State) (d : MsgReg) (f : Msg → Msg) (r : MsgReg) :
    ((s.modCtx s.cur (fun x => x.modMsg d f)).ctx s.cur).msg r = if r = d then f ((s.ctx s.cur).msg d) else (s.ctx s.cur).msg r := by
  rw [state_ctx_modCtx_same, msg_modMsg]

theorem Msg.request_stale {r : Msg} {now : Nat} (h : r.last ≠ now + 1) :
    r.request now = { r with full := false, ffull := false, tag := r.tag + 1 } := by
  have hb : (r.last == now + 1) = false := beq_eq_false_iff_ne.2 h
  simp only [Msg.request, hb, Bool.and_false]

/-- Settles O33: the checks in their order, and the message posted no earlier than the route allows. -/
theorem messageInstructions : Obligations.MessageInstructions := by
  intro s h m d a b s8
  simp only [exec_send, exec_mget, exec_msgb, exec_mclr]
  refine ⟨fun hc => ⟨traps_illop hc, traps_illop hc, execMsgb_eq h d a b s8 s ▸ traps_illop hc⟩, fun hr => ⟨fun hx => ?_, fun hx hd => ?_, fun hx hd => ?_⟩,
    fun hr => ?_, fun hr => ?_, fun hr => ?_⟩
  · exact issue_trap hr (sendBody_cross hx)
  · exact issue_trap hr (sendBody_bad hx hd)
  · obtain ⟨arr, mm, f, l, hb, hle⟩ := sendBody_ok (d := m) (v := d) hx hd
    exact sends_issue (hide := id) (ev := fun _ => .messageArrival _ _ m (vv s d) s.cur.1 s.cur.2 (inStep s)) hr (soft_nil rfl) hb
      (Frame_refl _ _) rfl hle (fun t _ => trivial)
  · rw [execMget_eq]
    refine boxed_issue hr rfl (by decide) (fun hok => ?_)
    obtain ⟨arr, mm, f, l, hb, hle⟩ := mgetTo_eq m b s ((rv s a).toNat % 2 ^ 15)
    refine sends_issue hr (soft_nil rfl) (hok.trans hb) (Frame_ctx _ (fun x => rfl)) rfl hle (fun t ht => ?_)
    have hm : ∀ r, (t.ctx s.cur).msg r = if r = m then ((s.ctx s.cur).msg m).request s.now else (s.ctx s.cur).msg r :=
      fun r => (ht r).trans (msgs_modMsg s m (fun r => r.request s.now) r)
    have hown : (t.ctx s.cur).msg m = ((s.ctx s.cur).msg m).request s.now := (hm m).trans (if_pos rfl)
    exact ⟨fun hl => hown.trans (Msg.request_stale hl), hown, fun r hne => (hm r).trans (if_neg hne)⟩
  · rw [execMsgb_eq]
    refine boxed_issue hr rfl (by split <;> decide) (fun hok => ?_)
    obtain ⟨arr, mm, f, l, hb, hle⟩ := msgbTo_eq d b s8 s ((rv s a).toNat % 2 ^ 15)
    exact sends_issue hr (soft_nil rfl) (hok.trans hb) (Frame_refl _ _) rfl hle (fun t _ => trivial)
  · refine next_issue (w := { ctx := fun x => { x with m := [] } }) hr rfl (soft_nil rfl)
      (Frame_ctx (fun x => x.modMsg m (fun r => r.clear s.now)) (fun x => rfl)) (fun t hf ht => ?_)
    have hm : ∀ r, (t.ctx s.cur).msg r = if r = m then ((s.ctx s.cur).msg m).clear s.now else (s.ctx s.cur).msg r :=
      fun r => (msg_frame ht r).trans (msgs_modMsg s m (fun r => r.clear s.now) r)
    exact ⟨hf, fun r hne => (hm r).trans (if_neg hne), (hm m).trans (if_pos rfl)⟩

/-! ## Far accesses (R187, R211) -/

theorem foldl_max_ge {α : Type} (f : Nat → α → Nat) (hf : ∀ m a, m ≤ f m a) : ∀ (l : List α) (m : Nat), m ≤ l.foldl f m
  | [], m => Nat.le_refl m
  | a :: r, m => (hf m a).trans (foldl_max_ge f hf r (f m a))

theorem foldl_max_mem {α : Type} (f : Nat → α → Nat) (hf : ∀ m a, m ≤ f m a) {b : Nat} {e : α} (he : ∀ m, b ≤ f m e) :
    ∀ (l : List α) (m : Nat), e ∈ l → b ≤ l.foldl f m
  | a :: r, m, h => by
    rcases List.mem_cons.1 h with rfl | h
    · exact (he m).trans (foldl_max_ge f hf r _)
    · exact foldl_max_mem f hf he r _ h

section
variable {s : State} {q : Nat × Nat} {va t : Nat}

theorem lineTick_ge : t ≤ s.lineTick q va t := by
  refine foldl_max_ge _ (fun m e => ?_) _ _
  split
  · exact Nat.le_max_left _ _
  · exact Nat.le_refl _

/-- An access to the line comes after every earlier one of the context. -/
theorem lineTick_gt {e : Due} (he : e ∈ s.agenda) (hl : Event.lineAccess e.ev = some (q, va / 64)) : e.at_ < s.lineTick q va t := by
  refine foldl_max_mem (b := e.at_ + 1) _ (fun m e => ?_) (fun m => ?_) _ _ he
  · split
    · exact Nat.le_max_left _ _
    · exact Nat.le_refl _
  · rw [if_pos hl]
    exact Nat.le_max_right _ _

theorem lineTick_congr {u : State} (h : u.agenda = s.agenda) : u.lineTick q va t = s.lineTick q va t := by
  rw [State.lineTick, h]
  rfl

theorem ceilTo_ge {m t : Nat} (hm : 0 < m) : t ≤ ceilTo m t := by
  have h := Nat.div_add_mod (t + (m - 1)) m
  have h2 := Nat.mod_lt (t + (m - 1)) hm
  rw [ceilTo, Nat.mul_comm]
  omega

end

theorem cyc_pos (k : Nat) : 0 < cyc k := by
  unfold cyc Config.cycleTicks
  split
  · decide
  · split
    · decide
    · split <;> decide

theorem sendLdx_spec (s : State) (q : Nat × Nat) (d : MsgReg) (va : DWord) : ∃ at_ f, s.sendLdx q d va
      = ({ s with fresh := f } : State).post at_ (.ldxReply q.1 q.2 d va ((s.ctx q).msg d).tag (s.part (s.partOf q.1)).epoch)
    ∧ s.now + cyc q.1 ≤ at_ ∧ ∀ e ∈ s.agenda, Event.lineAccess e.ev = some (q, va.toNat / 64) → e.at_ < at_ :=
  ⟨_, s.fresh + 1, rfl, (Nat.add_le_add_left (Nat.le_add_right _ _) _).trans (lineTick_ge.trans (ceilTo_ge (cyc_pos _))),
    fun _ he hl => (lineTick_gt (s := s) he hl).trans_le (ceilTo_ge (cyc_pos _))⟩

/-- The register of an LDX under way. -/
def Msg.farRequest (r : Msg) (now : Nat) (va : DWord) : Msg := { r.request now with pend := true, va := va.setWidth 57 }

/-- The context of an STX under way. -/
def stxIssued (s : State) : State := s.modCtx s.cur (fun x => { x with stxNext := (s.ctx s.cur).stxNext + 1, stxOut := x.stxOut ++ [(s.ctx s.cur).stxNext] })

theorem stxSent_eq (s : State) (a : Reg) (b : VecReg) :
    ((stxIssued s).draw (cyc s.cur.1)).2.post (s.lineTick s.cur (rv s a).toNat (s.now + ((stxIssued s).draw (cyc s.cur.1)).1))
        (.stxComplete s.cur.1 s.cur.2 (s.ctx s.cur).stxNext (rv s a) (vv s b) (s.part (s.partOf s.cur.1)).epoch)
      = ({ stxIssued s with fresh := s.fresh + 1 } : State).post
        (s.lineTick s.cur (rv s a).toNat (s.now + (cyc s.cur.1 + Config.freeLatency s.fresh)))
        (.stxComplete s.cur.1 s.cur.2 (s.ctx s.cur).stxNext (rv s a) (vv s b) (s.part (s.partOf s.cur.1)).epoch) := rfl

/-- Settles O34: the access is posted behind the context's earlier ones to the line. -/
theorem farAccessInstructions : Obligations.FarAccessInstructions := by
  intro s h m a b
  simp only [exec_ldx, exec_stx]
  refine ⟨fun hi => ⟨traps_illop hi, traps_illop hi⟩, fun hr => ⟨fun ha => issue_trap hr (if_pos ha), fun ha => ?_⟩,
    fun hr => ⟨fun ha => issue_trap hr (if_pos ha), fun ha => ?_⟩⟩
  · have hm := msgs_modMsg s m (fun r => Msg.farRequest r s.now (rv s a))
    have hu : Frame { machine := sending, ctx := fun x => { x with m := [] } } s
        (s.modCtx s.cur (fun x => x.modMsg m (fun r => Msg.farRequest r s.now (rv s a)))) := Frame_ctx _ (fun x => rfl)
    obtain ⟨at_, f, he, hle, hline⟩ := sendLdx_spec (s.modCtx s.cur (fun x => x.modMsg m (fun r => Msg.farRequest r s.now (rv s a))))
      s.cur m (rv s a)
    rw [hm m, if_pos rfl] at he
    refine next_issue_of hr (if_neg (not_not.2 ha)) he (soft_nil rfl)
      (Frame_trans hu (Frame_machine rfl rfl rfl)) (fun t hf ht => ?_)
    have hmt : ∀ r, (t.ctx s.cur).msg r
        = if r = m then Msg.farRequest ((s.ctx s.cur).msg m) s.now (rv s a) else (s.ctx s.cur).msg r :=
      fun r => (msg_frame ht r).trans (hm r)
    exact ⟨hf, fun r hne => (hmt r).trans (if_neg hne), (hmt m).trans (if_pos rfl), at_, hle, agenda_frame ht, hline⟩
  · have hu : Frame { machine := sending, ctx := fun x => { x with stxNext := 0, stxOut := [] } } s (stxIssued s) :=
      Frame_ctx _ (fun x => rfl)
    refine next_issue_of hr (if_neg (not_not.2 ha)) (stxSent_eq s a b) (soft_nil rfl) (Frame_trans hu (Frame_machine rfl rfl rfl))
      (fun t hf ht => ?_)
    have hx : (stxIssued s).ctx s.cur = _ := state_ctx_modCtx_same s s.cur _
    have h1 : (t.ctx s.cur).stxNext = ((stxIssued s).ctx s.cur).stxNext := (congrArg Ctx.stxNext ht.context :)
    have h2 : (t.ctx s.cur).stxOut = ((stxIssued s).ctx s.cur).stxOut := (congrArg Ctx.stxOut ht.context :)
    rw [hx] at h1 h2
    exact ⟨hf, h1, h2, _, (Nat.add_le_add_left (Nat.le_add_right _ _) _).trans lineTick_ge, agenda_frame ht, fun _ he hl => lineTick_gt he hl⟩

end Sys2Proof.Proofs
end


section
/-! PROOFS. The bank atomics at issue (R221, R235 to R237, R311, R312): the checks of their address, and the request under way. -/

namespace Sys2Proof.Proofs

open Sys2Proof.Machine Sys2Proof.Safety Sys2Proof.Laws

/-! ## Waiting at issue -/

theorem gateCtx_ctx (s : State) (w : Wait) (occ : Nat) :
    (s.gateCtx s.cur w occ).ctx s.cur = { s.ctx s.cur with run := .gated w, readyAt := s.now + cyc s.cur.1 } := by
  rw [State.ctx, State.gateCtx, core_modCore_same]
  exact ctx_modCtx_same (s.core s.cur.1) s.cur.2 (fun x => { x with run := .gated w, readyAt := s.now + cyc s.cur.1 })

/-- Where a context stands that its instruction holds. -/
theorem retire_hold (n : Need) (u : State) (w : Wait) : ((retire n ⟨u, .hold w⟩ true).ctx u.cur).run
      = (if n.hdr.y = true ∧ u.cur.2 ≠ 0 then .gated w else .held w)
    ∧ ((retire n ⟨u, .hold w⟩ true).ctx u.cur).pc = (u.ctx u.cur).pc := by
  let v := u.modCtl u.cur.1 (fun c => c.touch n.unit u.now (cyc u.cur.1) (u.now + n.occ * cyc u.cur.1))
  have hpc : (v.ctx u.cur).pc = (u.ctx u.cur).pc := congrArg Ctx.pc (modCtl_ctx u u.cur.1 _ u.cur)
  by_cases h : n.hdr.y = true ∧ u.cur.2 ≠ 0
  · have he : retire n ⟨u, .hold w⟩ true = v.gateCtx v.cur w n.occ := by
      simp only [retire, true_or, if_true]
      exact if_pos h
    have hx : (retire n ⟨u, .hold w⟩ true).ctx u.cur = _ := he ▸ gateCtx_ctx v w n.occ
    rw [hx, if_pos h]
    exact ⟨rfl, hpc⟩
  · have he : retire n ⟨u, .hold w⟩ true = (v.modCtx u.cur (fun x => { x with run := .held w })).modCtl u.cur.1
        (fun c => { c with issueAt := v.now + cyc u.cur.1 }) := by
      simp only [retire, true_or, if_true]
      exact if_neg h
    rw [he, if_neg h, modCtl_ctx, state_ctx_modCtx_same]
    exact ⟨rfl, hpc⟩

/-- A ready instruction that holds its context: what it left, but for the context's place and the core's pace, and the wait. -/
theorem hold_issue {nd : Need} {body : State → Except Trap Done} {s u : State} {w : Writes} {P : State → Prop} {wt : Wait}
    (hr : Ready nd s) (hb : body s = .ok ⟨u, .hold wt⟩) (hs : nd.soft s = 0) (hf : Frame w s u)
    (hpc : (u.ctx s.cur).pc = (s.ctx s.cur).pc) (hP : ∀ t, Frame w s t → Frame {} u t → Waits s t nd.hdr wt → P t) :
    Answers (issue nd body s) P := by
  have hrt := Frame_retire { nd with unit := idleUnit nd s } u (.hold wt) true (by simp)
  obtain ⟨h1, h2⟩ := retire_hold { nd with unit := idleUnit nd s } u wt
  rw [hf.cur] at h1 h2
  exact ⟨_, issue_clean hr hb hs, hP _ (Frame_trans hf (Frame_weaken hrt)) hrt ⟨h1, h2.trans hpc⟩⟩

/-! ## The checks of an atomic's address (R176, R235) -/

theorem near_bounds_aligned (t : Nat) : Config.bankEnd t % 8 = 0 ∧ Config.statusBase t % 8 = 0 := by
  unfold Config.bankEnd Config.statusBase Config.bankBase Config.bankSize
  split
  · decide
  · split
    · decide
    · split <;> decide

theorem statusBase_le_bankEnd (t : Nat) : Config.statusBase t ≤ Config.bankEnd t := by
  unfold Config.bankEnd Config.statusBase Config.bankBase Config.bankSize
  split
  · decide
  · split
    · decide
    · split <;> decide

section
variable {s : State} {addr n : Nat}

/-- An aligned address in the bank of the issuing core. -/
theorem checkNear_bank (hn : n ∈ [1, 2, 4, 8]) (ha : addr % n = 0) : checkNear s .ownBank true addr n n
    = if addr < Config.bankBase ∨ Config.bankEnd s.tier ≤ addr then .error (.at_ .bankrange addr)
      else if s.cur.2 ≠ 0 ∧ Config.statusBase s.tier < addr + n then .error (.at_ .priv addr) else .ok addr := by
  obtain ⟨h1, h2⟩ := near_bounds_aligned s.tier
  have hn' : n = 1 ∨ n = 2 ∨ n = 4 ∨ n = 8 := by simpa using hn
  have hal : ¬ ((addr : Int) % (n : Int) ≠ 0) := not_not.2 (by exact_mod_cast ha)
  have hpat : ∀ a : Nat, (addrBits (a : Int)) = BitVec.ofNat 64 a := fun a => BitVec.ofInt_natCast _ _
  simp only [checkNear, if_neg hal, Window.lo, Window.hi, if_true, true_and, Trap.at_]
  by_cases hout : addr < Config.bankBase ∨ Config.bankEnd s.tier ≤ addr
  · rw [if_pos hout, if_pos (by omega), hpat]
  · have hover : ¬ ((Config.bankEnd s.tier : Int) < (addr : Int) + (n : Int)) := by
      rcases hn' with rfl | rfl | rfl | rfl <;> omega
    rw [if_neg hout, if_neg (by omega), if_neg hover]
    by_cases hp : s.cur.2 ≠ 0 ∧ Config.statusBase s.tier < addr + n
    · have hmax : max (addr : Int) (Config.statusBase s.tier) = (addr : Int) := by
        rcases hn' with rfl | rfl | rfl | rfl <;> omega
      rw [if_pos hp, if_pos ⟨hp.1, by omega⟩, hmax, hpat]
    · rw [if_neg hp, if_neg (by omega), Int.toNat_natCast]

end

/-! ## The home of an atomic -/

section
variable {s : State} {a : Reg} {ty : Ty} {scope : Scope} {i : BitVec 8}

theorem atomicHome_align (h : (rv s a).toNat % (ty.width / 8) ≠ 0) : atomicHome a ty scope i s = .error (.at_ .align (rv s a).toNat) := by
  unfold atomicHome
  dsimp only
  rw [if_pos h]
  rfl

theorem atomicHome_core (hn : ty.width / 8 ∈ [1, 2, 4, 8]) (h : (rv s a).toNat % (ty.width / 8) = 0) : atomicHome a ty .core i s
    = if (rv s a).toNat < Config.bankBase ∨ Config.bankEnd s.tier ≤ (rv s a).toNat then .error (.at_ .bankrange (rv s a).toNat)
      else if s.cur.2 ≠ 0 ∧ Config.statusBase s.tier < (rv s a).toNat + ty.width / 8 then .error (.at_ .priv (rv s a).toNat)
      else .ok (some s.cur.1, (rv s a).toNat) := by
  unfold atomicHome
  dsimp only
  rw [if_neg (not_not.2 h), checkNear_bank hn h]
  split
  · rfl
  · split <;> rfl

theorem atomicHome_cluster (h : (rv s a).toNat % (ty.width / 8) = 0) : atomicHome a ty .cluster i s
    = if (rv s a).toNat < Config.bankBase ∨ Config.statusBase s.tier < (rv s a).toNat + ty.width / 8
      then .error (.at_ .bankrange (rv s a).toNat)
      else .ok (some (coreOfIndex (columnOf s.cur.1) s.tier i.toNat), (rv s a).toNat) := by
  unfold atomicHome
  dsimp only
  rw [if_neg (not_not.2 h)]

theorem atomicHome_device (h : (rv s a).toNat % (ty.width / 8) = 0) : atomicHome a ty .device i s = .ok (none, (rv s a).toNat) := by
  unfold atomicHome
  dsimp only
  rw [if_neg (not_not.2 h)]

end

/-! ## The wheel (R237) -/

/-- The slot of a core index on the wheel: the first one from a cycle on. -/
theorem wheelStart_spec (tier idx cy : Nat) : cy ≤ wheelStart tier idx cy ∧ wheelStart tier idx cy < cy + 48 * Config.wheelRounds tier
    ∧ wheelStart tier idx cy % (48 * Config.wheelRounds tier)
      = (48 * (idx / 16) + 3 * (idx % 16)) % (48 * Config.wheelRounds tier) := by
  have hpos : 0 < 48 * Config.wheelRounds tier := by
    unfold Config.wheelRounds
    split
    · decide
    · split <;> decide
  rw [wheelStart]
  generalize 48 * Config.wheelRounds tier = rot at *
  generalize 48 * (idx / 16) + 3 * (idx % 16) = x
  have hm := Nat.mod_lt cy hpos
  refine ⟨Nat.le_add_right _ _, Nat.add_lt_add_left (Nat.mod_lt _ hpos) _, ?_⟩
  have hsum : cy + (x + rot - cy % rot) = x + rot * (cy / rot + 1) := by
    have := Nat.div_add_mod cy rot
    rw [Nat.mul_add]
    omega
  rw [Nat.add_mod_mod, hsum, Nat.add_mul_mod_self_left]

/-! ## The instruction -/

section
variable {s : State} {h : Hdr} {d a b : Reg} {ty : Ty} {scope : Scope} {i : BitVec 8} {sc : Bool} {op : Nat}

/-- The request of an atomic. -/
def atomicReq (s : State) (d a b : Reg) (ty : Ty) (scope : Scope) (op : Nat) (home : Option Nat) : AtomicReq :=
  ⟨s.cur.1, s.cur.2, s.fresh, op, ty, home, scope == .cluster, (rv s a).toNat, rv s b, rv s d, (s.part (s.partOf s.cur.1)).epoch⟩

/-- The atomic's effect once its home is known. -/
def atomicTo (op : Nat) (d a b : Reg) (ty : Ty) (scope : Scope) (sc : Bool) (s : State) (home : Option Nat) : Except Trap Done :=
  if inStep s then timedIssue op d ty (rv s a).toNat (rv s b) (rv s d) s
  else
    let r := atomicReq s d a b ty scope op home
    let s' : State := { s with fresh := s.fresh + 1 }
    if sc then .ok ⟨s'.issueSc s.fresh d (.atomic r), .hold (.reply d s.fresh)⟩
    else match home with
      | none => .ok ⟨({ s' with fresh := s.fresh + 2 } : State).post
          (s.lineTick s.cur (rv s a).toNat (s.now + (cyc s.cur.1 + Config.freeLatency (s.fresh + 1)))) (.deviceAtomicReply r),
          .hold (.reply d s.fresh)⟩
      | some k => .ok ⟨s'.toSlot r (s.now / cyc s.cur.1 + if scope = .core then 1 else meshLatency s.cur.1 k), .hold (.reply d s.fresh)⟩

/-- The body of an atomic. -/
def atomicBody (op : Nat) (d a b : Reg) (ty : Ty) (scope : Scope) (i : BitVec 8) (sc : Bool) (s : State) : Except Trap Done := do
  let (home, addr) ← atomicHome a ty scope i s
  if inStep s then timedIssue op d ty addr (rv s b) (rv s d) s
  else
    let q := s.cur
    let (num, s') := s.number
    let r : AtomicReq := ⟨q.1, q.2, num, op, ty, home, scope == .cluster, addr, rv s b, rv s d, (s.part (s.partOf q.1)).epoch⟩
    if sc then .ok ⟨s'.issueSc num d (.atomic r), .hold (.reply d num)⟩
    else match home with
      | none =>
        let (l, s') := s'.draw (cyc q.1)
        .ok ⟨s'.post (s.lineTick q addr (s.now + l)) (.deviceAtomicReply r), .hold (.reply d num)⟩
      | some _ =>
        let wait := if scope = .core then 1 else meshLatency q.1 (home.getD 0)
        .ok ⟨s'.toSlot r (s.now / cyc q.1 + wait), .hold (.reply d num)⟩

theorem atomic_eq (op : Nat) (s : State) : atomic op h d a b ty scope i sc s
    = issue (atomicNeed h d a b ty scope i sc s) (atomicBody op d a b ty scope i sc) s := rfl

theorem atomicBody_error {tr : Trap} (hh : atomicHome a ty scope i s = .error tr) : atomicBody op d a b ty scope i sc s = .error tr := by
  rw [atomicBody, hh]
  rfl

theorem atomicBody_ok {home : Option Nat} (hh : atomicHome a ty scope i s = .ok (home, (rv s a).toNat)) :
    atomicBody op d a b ty scope i sc s = atomicTo op d a b ty scope sc s home := by
  rw [atomicBody, hh]
  cases home <;> rfl

/-- The core whose bank an atomic reaches, none for far memory. -/
def homeOf (s : State) (scope : Scope) (i : BitVec 8) : Option Nat :=
  if scope = .core then some s.cur.1 else if scope = .cluster then some (coreOfIndex (columnOf s.cur.1) s.tier i.toNat) else none

/-- The address of an atomic is accepted. -/
theorem atomicHome_ok (hs : scope = .core ∨ scope = .cluster ∨ scope = .device) (hn : ty.width / 8 ∈ [1, 2, 4, 8])
    (h0 : (rv s a).toNat % (ty.width / 8) = 0)
    (hin : (Config.bankBase ≤ (rv s a).toNat ∧ (rv s a).toNat + ty.width / 8 ≤ Config.statusBase s.tier) ∨ scope = .device
      ∨ (scope = .core ∧ s.cur.2 = 0 ∧ Config.bankBase ≤ (rv s a).toNat ∧ (rv s a).toNat < Config.bankEnd s.tier)) :
    atomicHome a ty scope i s = .ok (homeOf s scope i, (rv s a).toNat) := by
  have hle : Config.statusBase s.tier ≤ Config.bankEnd s.tier := statusBase_le_bankEnd _
  have hpos : 0 < ty.width / 8 := by
    simp only [List.mem_cons, List.not_mem_nil, or_false] at hn
    omega
  rcases hs with rfl | rfl | rfl
  · rw [atomicHome_core hn h0, homeOf, if_pos rfl]
    rcases hin with hin | hin | hin
    · rw [if_neg (by omega), if_neg (by omega)]
    · exact absurd hin (by decide)
    · rw [if_neg (by omega), if_neg (by omega)]
  · rw [atomicHome_cluster h0]
    rcases hin with hin | hin | hin
    · exact if_neg (by omega)
    · exact absurd hin (by decide)
    · exact absurd hin.1 (by decide)
  · rw [atomicHome_device h0]
    rfl

end

/-- A timed atomic whose slot meets the last one's (R237). -/
theorem timedIssue_late {s : State} {op : Nat} {d : Reg} {ty : Ty} {addr : Nat} {x y : DWord}
    (h : ∃ e ∈ (s.core s.cur.1).ctl.rmw, e.who = s.cur.1 ∧ s.now + cyc s.cur.1 ≤ e.last) :
    timedIssue op d ty addr x y s = .error (.timing 2) := by
  obtain ⟨e, he, hw, hl⟩ := h
  exact if_pos (List.any_eq_true.2 ⟨e, he, by simp [hw, hl]⟩)

/-- A timed atomic takes its slot (R237). -/
theorem timedIssue_ok {s : State} {op : Nat} {d : Reg} {ty : Ty} {addr : Nat} {x y : DWord}
    (h : ∀ e ∈ (s.core s.cur.1).ctl.rmw, ¬ (e.who = s.cur.1 ∧ s.now + cyc s.cur.1 ≤ e.last)) :
    timedIssue op d ty addr x y s = done (s.modCtl s.cur.1 (fun c => { c with
        rmw := c.rmw ++ [⟨s.now + cyc s.cur.1, s.now + 3 * cyc s.cur.1, addr / 8, s.cur.1⟩] })) 3
      [.atomic op ty addr x y d (s.now + (Config.bankLatency s.tier + 3 + if ty.width < 32 then 1 else 0) * cyc s.cur.1)
        (s.ctx s.cur).pc (s.issuedWord s.cur)] := by
  refine if_neg (fun hc => ?_)
  obtain ⟨e, he, hp⟩ := List.any_eq_true.1 hc
  rw [Bool.and_eq_true, beq_iff_eq, decide_eq_true_eq] at hp
  exact h e he hp

section
variable {s : State} {d a b : Reg} {ty : Ty} {scope : Scope} {i : BitVec 8} {op k : Nat}

theorem atomicTo_sc {home : Option Nat} (hi : inStep s = false) : atomicTo op d a b ty scope true s home
    = .ok ⟨({ s with fresh := s.fresh + 1, sc := s.sc ++ [⟨s.cur, s.fresh, d, .atomic (atomicReq s d a b ty scope op home), s.now, none⟩] }
        : State).post s.now (.scAnnounce s.cur.1 s.cur.2 s.fresh), .hold (.reply d s.fresh)⟩ := by
  rw [atomicTo, hi]
  rfl

theorem atomicTo_device (hi : inStep s = false) : atomicTo op d a b ty scope false s none
    = .ok ⟨({ s with fresh := s.fresh + 2 } : State).post
        (s.lineTick s.cur (rv s a).toNat (s.now + (cyc s.cur.1 + Config.freeLatency (s.fresh + 1))))
        (.deviceAtomicReply (atomicReq s d a b ty scope op none)), .hold (.reply d s.fresh)⟩ := by
  rw [atomicTo, hi]
  rfl

theorem atomicTo_near (hi : inStep s = false) : atomicTo op d a b ty scope false s (some k)
    = .ok ⟨({ s with fresh := s.fresh + 1 } : State).post (wheelStart s.tier (indexOf s.cur.1)
          (s.now / cyc s.cur.1 + if scope = .core then 1 else meshLatency s.cur.1 k) * cyc s.cur.1)
        (.atomicSlot (atomicReq s d a b ty scope op (some k))), .hold (.reply d s.fresh)⟩ := by
  rw [atomicTo, hi]
  rfl

end

/-- What passes between agents hidden, SC operations among it. -/
def scWrites : Writes := { machine := fun s => { sending s with sc := [] } }

/-- Settles O35: the seven atomics are one operation. -/
theorem atomicInstructions : Obligations.AtomicInstructions := by
  intro s h d a b ty scope i sc op ins hins
  have hex : exec ins s = issue (atomicNeed h d a b ty scope i sc s) (atomicBody op d a b ty scope i sc) s := by
    simp only [List.mem_cons, List.not_mem_nil, or_false, Prod.mk.injEq] at hins
    rcases hins with ⟨rfl, rfl⟩ | ⟨rfl, rfl⟩ | ⟨rfl, rfl⟩ | ⟨rfl, rfl⟩ | ⟨rfl, rfl⟩ | ⟨rfl, rfl⟩ | ⟨rfl, rfl⟩
    · exact (exec_aadd _ _ _ _ _ _ _ _ _).trans (atomic_eq _ _)
    · exact (exec_amin _ _ _ _ _ _ _ _ _).trans (atomic_eq _ _)
    · exact (exec_amax _ _ _ _ _ _ _ _ _).trans (atomic_eq _ _)
    · exact (exec_axchg _ _ _ _ _ _ _ _ _).trans (atomic_eq _ _)
    · exact (exec_acas _ _ _ _ _ _ _ _ _).trans (atomic_eq _ _)
    · exact (exec_aand _ _ _ _ _ _ _ _ _).trans (atomic_eq _ _)
    · exact (exec_aor _ _ _ _ _ _ _ _ _).trans (atomic_eq _ _)
  dsimp only
  intro hs hn hr
  rw [hex]
  refine ⟨fun h0 => issue_trap hr (atomicBody_error (atomicHome_align h0)), fun h0 hc hb => ?_, fun h0 hc hb => ?_,
    fun h0 hc hi h1 h2 h3 => ?_, fun h0 hin => ?_⟩
  · subst hc
    exact issue_trap hr (atomicBody_error ((atomicHome_cluster h0).trans (if_pos (by omega))))
  · subst hc
    exact issue_trap hr (atomicBody_error ((atomicHome_core hn h0).trans (if_pos hb)))
  · subst hc
    exact issue_trap hr (atomicBody_error ((atomicHome_core hn h0).trans ((if_neg (by omega)).trans (if_pos ⟨hi, h3⟩))))
  · have hbody := atomicBody_ok (op := op) (d := d) (b := b) (sc := sc) (atomicHome_ok (i := i) hs hn h0 hin)
    refine ⟨fun hi => ?_, fun hi hfree => ?_, fun hi hlate => issue_trap hr ?_⟩
    · cases sc with
      | true =>
        refine hold_issue (w := scWrites) hr (hbody.trans (atomicTo_sc hi)) (soft_nil rfl) (Frame_machine rfl rfl rfl) rfl (fun t hf ht hw => ?_)
        exact ⟨hf, hw, fun _ => ⟨(congrArg State.sc ht.machine :), agenda_frame ht⟩, fun h => absurd h Bool.noConfusion⟩
      | false =>
        rcases hs with rfl | rfl | rfl
        · refine hold_issue (w := scWrites) hr (hbody.trans (atomicTo_near (k := s.cur.1) hi)) (soft_nil rfl) (Frame_machine rfl rfl rfl) rfl
            (fun t hf ht hw => ?_)
          obtain ⟨w1, w2, w3⟩ := wheelStart_spec s.tier (indexOf s.cur.1) (s.now / cyc s.cur.1 + 1)
          exact ⟨hf, hw, fun h => absurd h Bool.noConfusion, fun _ => ⟨(congrArg State.sc ht.machine :),
            fun h => absurd h (by decide), fun _ => ⟨_, w1, w2, w3, agenda_frame ht⟩⟩⟩
        · refine hold_issue (w := scWrites) hr (hbody.trans (atomicTo_near (k := coreOfIndex (columnOf s.cur.1) s.tier i.toNat) hi))
            (soft_nil rfl) (Frame_machine rfl rfl rfl) rfl (fun t hf ht hw => ?_)
          obtain ⟨w1, w2, w3⟩ := wheelStart_spec s.tier (indexOf s.cur.1)
            (s.now / cyc s.cur.1 + meshLatency s.cur.1 (coreOfIndex (columnOf s.cur.1) s.tier i.toNat))
          exact ⟨hf, hw, fun h => absurd h Bool.noConfusion, fun _ => ⟨(congrArg State.sc ht.machine :),
            fun h => absurd h (by decide), fun _ => ⟨_, w1, w2, w3, agenda_frame ht⟩⟩⟩
        · refine hold_issue (w := scWrites) hr (hbody.trans (atomicTo_device hi)) (soft_nil rfl) (Frame_machine rfl rfl rfl) rfl (fun t hf ht hw => ?_)
          refine ⟨hf, hw, fun h => absurd h Bool.noConfusion, fun _ => ⟨(congrArg State.sc ht.machine :), fun _ => ?_, fun h => absurd rfl h⟩⟩
          exact ⟨_, (Nat.add_le_add_left (Nat.le_add_right _ _) _).trans lineTick_ge, agenda_frame ht, fun _ he hl => lineTick_gt he hl⟩
    · have hb := (hbody.trans (if_pos hi)).trans (timedIssue_ok hfree)
      have hu : Frame { core := fun c => { c with pend := [], ctl := { c.ctl with rmw := [] } } } s (s.modCtl s.cur.1 (fun c => { c with
          rmw := c.rmw ++ [⟨s.now + cyc s.cur.1, s.now + 3 * cyc s.cur.1, (rv s a).toNat / 8, s.cur.1⟩] })) :=
        Frame_core _ (fun _ => rfl) (fun _ _ _ => rfl) (fun _ => rfl)
      refine answers_imp (later_issue hr hb (soft_nil rfl) (by decide) (pairwise_one _) rfl rfl ?_) (fun t ht => ?_)
      · rw [State.modCtl, core_modCore_same]
      · refine ⟨Frame_trans hu (Frame_pending (fun _ => rfl) ht.1), ?_, ht.2⟩
        have hrmw : (t.core s.cur.1).ctl.rmw = ((s.modCtl s.cur.1 (fun c => { c with
            rmw := c.rmw ++ [⟨s.now + cyc s.cur.1, s.now + 3 * cyc s.cur.1, (rv s a).toNat / 8, s.cur.1⟩] })).core s.cur.1).ctl.rmw :=
          (congrArg (fun c => c.ctl.rmw) ht.1.core :)
        rw [hrmw, State.modCtl, core_modCore_same]
    · exact (hbody.trans (if_pos hi)).trans (timedIssue_late hlate)

end Sys2Proof.Proofs
end


section
/-! PROOFS. The event units: the checks of the addresses that their instructions name, the issue of an operation, and what the
operations do to a line of their cluster (R223 to R233). -/

namespace Sys2Proof.Proofs

open Sys2Proof.Machine Sys2Proof.Safety Sys2Proof.Laws

/-! ## The blocks that an instruction names (R223) -/

/-- The address lies in a block of a kind that the instruction admits. -/
def BlockNamed (ok : BlockKind → Bool) (addr : Nat) : Prop := unitBase ≤ addr ∧ (blockKind (addr - unitBase)).any ok = true

section
variable {addr : Nat} {ok : BlockKind → Bool}

theorem checkBlock_align (h : addr % 64 ≠ 0) : checkBlock addr ok = .error (.at_ .align addr) := if_pos h

theorem checkBlock_named (h : addr % 64 = 0) (hn : BlockNamed ok addr) : checkBlock addr ok = .ok () := by
  obtain ⟨hb, hk⟩ := hn
  unfold checkBlock
  rw [if_neg (not_not.2 h), if_neg (Nat.not_lt.2 hb)]
  cases hc : blockKind (addr - unitBase) with
  | none => rw [hc] at hk; exact absurd hk Bool.noConfusion
  | some b =>
    rw [hc] at hk
    exact if_pos hk

theorem checkBlock_outside (h : addr % 64 = 0) (hn : ¬ BlockNamed ok addr) : checkBlock addr ok = .error (.at_ .bankrange addr) := by
  unfold checkBlock
  rw [if_neg (not_not.2 h)]
  split
  · rfl
  · next hb =>
    cases hc : blockKind (addr - unitBase) with
    | none => rfl
    | some b => exact if_neg (fun hk => hn ⟨Nat.not_lt.1 hb, by rw [hc]; exact hk⟩)

end

/-- The kind of block that an offset names. -/
theorem blockKind_any (ok : BlockKind → Bool) (off : Nat) : (blockKind off).any ok = true ↔
    (off < 0x800 ∧ ok .barrier = true) ∨ (0x800 ≤ off ∧ off < 0xC00 ∧ ok .mutex = true)
    ∨ (0xC00 ≤ off ∧ off < 0x1C00 ∧ ok .event = true) ∨ (0x4000 ≤ off ∧ off < 0x7000 ∧ ok .point = true) := by
  unfold blockKind
  split
  · next h => simp only [Option.any_some]; constructor
              · exact fun hk => .inl ⟨h, hk⟩
              · rintro (h' | h' | h' | h')
                · exact h'.2
                all_goals omega
  split
  · next h => simp only [Option.any_some]; constructor
              · exact fun hk => .inr (.inl ⟨by omega, h, hk⟩)
              · rintro (h' | h' | h' | h')
                · omega
                · exact h'.2.2
                all_goals omega
  split
  · next h => simp only [Option.any_some]; constructor
              · exact fun hk => .inr (.inr (.inl ⟨by omega, h, hk⟩))
              · rintro (h' | h' | h' | h')
                · omega
                · omega
                · exact h'.2.2
                · omega
  split
  · next h => simp only [Option.any_some]; constructor
              · exact fun hk => .inr (.inr (.inr ⟨h.1, h.2, hk⟩))
              · rintro (h' | h' | h' | h')
                · omega
                · omega
                · omega
                · exact h'.2.2
  · simp only [Option.any_none, Bool.false_eq_true, false_iff]
    omega

section
variable (addr : Nat)

theorem lines_named : (0x04000000 + 0 ≤ addr ∧ addr < 0x04000000 + 0x1C00) ↔ BlockNamed (fun b => b != .point) addr := by
  rw [BlockNamed, blockKind_any]
  simp only [unitBase, show (BlockKind.barrier != .point) = true from rfl, show (BlockKind.mutex != .point) = true from rfl,
    show (BlockKind.event != .point) = true from rfl, show (BlockKind.point != .point) = false from rfl, Bool.false_eq_true, and_true,
    and_false, or_false]
  omega

theorem points_named : ((0x04000000 + 0 ≤ addr ∧ addr < 0x04000000 + 0x800) ∨ (0x04000000 + 0x4000 ≤ addr ∧ addr < 0x04000000 + 0x7000))
    ↔ BlockNamed pointBlock addr := by
  rw [BlockNamed, blockKind_any]
  simp only [unitBase, show pointBlock .barrier = true from rfl, show pointBlock .mutex = false from rfl,
    show pointBlock .event = false from rfl, show pointBlock .point = true from rfl, Bool.false_eq_true, and_true, and_false, false_or]
  omega

theorem events_named : (0x04000000 + 0xC00 ≤ addr ∧ addr < 0x04000000 + 0x1C00) ↔ BlockNamed (fun b => b == .event) addr := by
  rw [BlockNamed, blockKind_any]
  simp only [unitBase, show (BlockKind.barrier == .event) = false from rfl, show (BlockKind.mutex == .event) = false from rfl,
    show (BlockKind.event == .event) = true from rfl, show (BlockKind.point == .event) = false from rfl, Bool.false_eq_true, and_true,
    and_false, or_false, false_or]
  omega

theorem mutexes_named : (0x04000000 + 0x800 ≤ addr ∧ addr < 0x04000000 + 0xC00) ↔ BlockNamed (fun b => b == .mutex) addr := by
  rw [BlockNamed, blockKind_any]
  simp only [unitBase, show (BlockKind.barrier == .mutex) = false from rfl, show (BlockKind.mutex == .mutex) = true from rfl,
    show (BlockKind.event == .mutex) = false from rfl, show (BlockKind.point == .mutex) = false from rfl, Bool.false_eq_true, and_true,
    and_false, or_false, false_or]
  omega

end

/-! ## The issue of an operation (R225, R227) -/

/-- The operations of the cycle hidden. -/
def unitWrites : Writes := { machine := fun s => { s with units := [] } }

/-- The operation joins those of its cycle, and its context waits for wD. -/
def TakesUnit (s : State) (h : Hdr) (d : Reg) (k : UnitKind) (at_ : Nat) (opnd : DWord) (t : State) : Prop :=
  Frame unitWrites s t ∧ t.units = unitInsert ⟨s.now, k.stage, s.cur, d, k, at_, opnd⟩ s.units
  ∧ Waits s t h (.unitOp (s.now + 6 * cyc s.cur.1) d 0)

/-- An instruction that holds nothing and issues again in the next cycle. -/
def TriesAgain (s t : State) : Prop :=
  Frame {} s t ∧ t.ctx s.cur = s.ctx s.cur ∧ (t.core s.cur.1).ctl.issueAt = s.now + cyc s.cur.1

section
variable {s : State} {h : Hdr} {d : Reg} {rs : List Reg} {check : State → Except Trap Unit} {k : State → UnitKind}
  {addr opnd : State → DWord} {release : State → Bool}

/-- The effect of an event-unit instruction behind its checks. -/
def unitBody (check : State → Except Trap Unit) (k : State → UnitKind) (addr opnd : State → DWord) (release : State → Bool) (d : Reg)
    (s : State) : Except Trap Done := do
  check s
  if release s then .ok ⟨s, .again (s.now + cyc s.cur.1)⟩ else
  .ok ⟨s.addUnit s.now s.cur d (k s) (addr s).toNat (opnd s), .hold (.unitOp (s.now + 6 * cyc s.cur.1) d 0)⟩

theorem unitIssue_eq : unitIssue h d rs check k addr opnd s release
    = issue { len := 3, hdr := h, rs := rs, rd := [d], ill := inStep s } (unitBody check k addr opnd release d) s := rfl

theorem unitBody_error {tr : Trap} (hc : check s = .error tr) : unitBody check k addr opnd release d s = .error tr := by
  rw [unitBody, hc]
  rfl

theorem unitBody_takes (hc : check s = .ok ()) (hr : release s = false) : unitBody check k addr opnd release d s
    = .ok ⟨s.addUnit s.now s.cur d (k s) (addr s).toNat (opnd s), .hold (.unitOp (s.now + 6 * cyc s.cur.1) d 0)⟩ := by
  rw [unitBody, hc]
  exact if_neg (by rw [hr]; exact Bool.noConfusion)

theorem unitBody_again (hc : check s = .ok ()) (hr : release s = true) : unitBody check k addr opnd release d s
    = .ok ⟨s, .again (s.now + cyc s.cur.1)⟩ := by
  rw [unitBody, hc]
  exact if_pos hr

theorem unitIssue_trap {tr : Trap} (hr : Ready { len := 3, hdr := h, rs := rs, rd := [d], ill := inStep s } s) (hc : check s = .error tr) :
    Traps s tr (unitIssue h d rs check k addr opnd s release) := by
  rw [unitIssue_eq]
  exact issue_trap hr (unitBody_error hc)

/-- An event-unit instruction is not for c0 in a superstep. -/
theorem unitIssue_illop (hi : inStep s = true) : Traps s (.of .illop) (unitIssue h d rs check k addr opnd s release) :=
  traps_illop hi

theorem unitIssue_takes (hr : Ready { len := 3, hdr := h, rs := rs, rd := [d], ill := inStep s } s) (hc : check s = .ok ())
    (hb : release s = false) :
    Answers (unitIssue h d rs check k addr opnd s release) (TakesUnit s h d (k s) (addr s).toNat (opnd s)) := by
  rw [unitIssue_eq]
  refine hold_issue (w := unitWrites) hr (unitBody_takes hc hb) (soft_nil rfl) (Frame_machine rfl rfl rfl) rfl (fun t hf ht hw => ?_)
  exact ⟨hf, (congrArg State.units ht.machine :), hw⟩

theorem unitIssue_again (hr : Ready { len := 3, hdr := h, rs := rs, rd := [d], ill := inStep s } s) (hc : check s = .ok ())
    (hb : release s = true) : Answers (unitIssue h d rs check k addr opnd s release) (TriesAgain s) := by
  rw [unitIssue_eq]
  refine answers_imp (again_issue (n := { len := 3, hdr := h, rs := rs, rd := [d], ill := inStep s })
    (P := TriesAgain s) (issue_clean hr (unitBody_again hc hb) (soft_nil rfl)) (fun t h1 h2 h3 => ⟨h1, h2, h3⟩)) (fun t ht => ht)

end

section
variable {s : State} {h : Hdr} {d a : Reg} {rs : List Reg} {ok : BlockKind → Bool} {named : Prop} {k : State → UnitKind} {opnd : State → DWord}
  {release : State → Bool}

/-- An instruction that names a block: its checks in their order, then what follows when they pass. -/
def BlockChecked (s : State) (h : Hdr) (d a : Reg) (rs : List Reg) (named : Prop) (o : Host.Outcome State Fault Refusal) (good : Prop) : Prop :=
  (inStep s = true → Traps s (.of .illop) o)
  ∧ (Ready { len := 3, hdr := h, rs := rs, rd := [d], ill := inStep s } s →
    ((rv s a).toNat % 64 ≠ 0 → Traps s (.at_ .align (rv s a).toNat) o)
    ∧ ((rv s a).toNat % 64 = 0 → ¬ named → Traps s (.at_ .bankrange (rv s a).toNat) o)
    ∧ ((rv s a).toNat % 64 = 0 → named → good))

theorem unitIssue_releases (hn : named ↔ BlockNamed ok (rv s a).toNat) :
    BlockChecked s h d a rs named (unitIssue h d rs (fun s => checkBlock (rv s a).toNat ok) k (fun s => rv s a) opnd s release)
      ((release s = false → Answers (unitIssue h d rs (fun s => checkBlock (rv s a).toNat ok) k (fun s => rv s a) opnd s release)
          (TakesUnit s h d (k s) (rv s a).toNat (opnd s)))
        ∧ (release s = true → Answers (unitIssue h d rs (fun s => checkBlock (rv s a).toNat ok) k (fun s => rv s a) opnd s release)
          (TriesAgain s))) :=
  ⟨unitIssue_illop, fun hr => ⟨fun h0 => unitIssue_trap hr (checkBlock_align h0),
    fun h0 hb => unitIssue_trap hr (checkBlock_outside h0 (fun h => hb (hn.2 h))),
    fun h0 hb => ⟨unitIssue_takes hr (checkBlock_named h0 (hn.1 hb)), unitIssue_again hr (checkBlock_named h0 (hn.1 hb))⟩⟩⟩

theorem unitIssue_named (hn : named ↔ BlockNamed ok (rv s a).toNat) :
    BlockChecked s h d a rs named (unitIssue h d rs (fun s => checkBlock (rv s a).toNat ok) k (fun s => rv s a) opnd s)
      (Answers (unitIssue h d rs (fun s => checkBlock (rv s a).toNat ok) k (fun s => rv s a) opnd s)
        (TakesUnit s h d (k s) (rv s a).toNat (opnd s))) := by
  obtain ⟨h1, h2⟩ := unitIssue_releases (h := h) (d := d) (rs := rs) (k := k) (opnd := opnd) (release := fun _ => false) hn
  exact ⟨h1, fun hr => ⟨(h2 hr).1, (h2 hr).2.1, fun h0 hb => ((h2 hr).2.2 h0 hb).1 rfl⟩⟩

end

/-- EVSIG.sc behind its checks. -/
def evsigScBody (d a : Reg) (s : State) : Except Trap Done := do
  checkBlock (rv s a).toNat (fun b => b == .event)
  let (num, s') := s.number
  .ok ⟨s'.issueSc num d (.evsig (rv s a).toNat), .hold (.reply d num)⟩

section
variable {s : State} {h : Hdr} {d a : Reg}

theorem execEvsig_sc : execEvsig h d a true s
    = issue { len := 3, hdr := h, rs := [a], rd := [d], ill := inStep s } (evsigScBody d a) s := rfl

theorem execEvsig_own : execEvsig h d a false s = unitIssue h d [a] (fun s => checkBlock (rv s a).toNat (fun b => b == .event))
    (fun _ => .evsig) (fun s => rv s a) (fun _ => 0) s (fun s => s.dataOut s.cur) := rfl

theorem evsigScBody_error {tr : Trap} (hc : checkBlock (rv s a).toNat (fun b => b == .event) = .error tr) : evsigScBody d a s = .error tr := by
  rw [evsigScBody, hc]
  rfl

theorem evsigScBody_ok (hc : checkBlock (rv s a).toNat (fun b => b == .event) = .ok ()) : evsigScBody d a s
    = .ok ⟨({ s with fresh := s.fresh + 1, sc := s.sc ++ [⟨s.cur, s.fresh, d, .evsig (rv s a).toNat, s.now, none⟩] }
        : State).post s.now (.scAnnounce s.cur.1 s.cur.2 s.fresh), .hold (.reply d s.fresh)⟩ := by
  rw [evsigScBody, hc]
  rfl

end

/-- Settles O37: one issue for all of them, with the blocks that each names. -/
theorem eventUnitInstructions : Obligations.EventUnitInstructions := by
  intro s h d a b kind
  simp only [exec_slota, exec_slotf, exec_rvinit, exec_rvarr, exec_rvarrEng, exec_rvwait, exec_evsig, exec_evwait, exec_mlock, exec_munlk]
  unfold execSlota execSlotf execRvinit execRvarr execRvarrEng execRvwait execEvwait execMlock execMunlk
  have hbase : (BitVec.ofNat 64 unitBase).toNat = 0x04000000 := by decide
  refine ⟨unitIssue_illop, fun hr => ?_, ?_, ?_, ?_, fun n hn => ?_, ?_, ?_, ?_, ?_, ?_, ?_⟩
  · have ht := unitIssue_takes (check := fun _ => .ok ()) (k := fun _ => .slota kind) (addr := fun _ => BitVec.ofNat 64 unitBase)
      (opnd := fun s => rv s a) (release := fun _ => false) hr rfl rfl
    rw [hbase] at ht
    exact ht
  · exact unitIssue_named (lines_named _)
  · exact unitIssue_named (points_named _)
  · exact unitIssue_releases (points_named _)
  · have hk : (match (s.ctx s.cur).lastCmd with
        | some (m, false) => some m
        | _ => none) = n := by
      rcases hn with ⟨rfl, h1 | ⟨m, h1⟩⟩ | ⟨m, rfl, h1⟩ <;> rw [h1]
    rw [← hk]
    exact unitIssue_named (points_named _)
  · exact unitIssue_named (points_named _)
  · rw [execEvsig_own]
    exact unitIssue_releases (events_named _)
  · exact unitIssue_named (events_named _)
  · exact unitIssue_named (mutexes_named _)
  · exact unitIssue_releases (mutexes_named _)
  · rw [execEvsig_sc]
    refine ⟨fun hi => traps_illop hi, fun hr => ⟨fun h0 => issue_trap hr (evsigScBody_error (checkBlock_align h0)),
      fun h0 hb => issue_trap hr (evsigScBody_error (checkBlock_outside h0 (fun h => hb ((events_named _).2 h)))), fun h0 hb => ?_⟩⟩
    refine hold_issue (w := scWrites) hr (evsigScBody_ok (checkBlock_named h0 ((events_named _).1 hb))) (soft_nil rfl)
      (Frame_machine rfl rfl rfl) rfl (fun t hf ht hw => ?_)
    exact ⟨hf, hw, (congrArg State.sc ht.machine :), agenda_frame ht⟩

end Sys2Proof.Proofs
end


section
/-! PROOFS. What the operations of an event unit do to the lines of their cluster (R228, R230 to R233). -/

namespace Sys2Proof.Proofs

open Sys2Proof.Machine Sys2Proof.Safety Sys2Proof.Laws

/-! ## The result of an operation (R227) -/

/-- Where a context stands whose operation has answered. -/
def unitRun (o : UnitOp) (v : DWord) : Run := .held (.unitOp (o.at_ + 6 * cyc o.who.1) o.d v)

section
variable {s : State} {o : UnitOp}

theorem unitWaits_held {v : DWord} (h : (s.ctx o.who).run = unitRun o v) : s.unitWaits o = true := by
  rw [State.unitWaits, h]
  exact beq_self_eq_true _

/-- A wait's result put in its place. -/
def fillUnit (v : DWord) (x : Ctx) : Ctx := { x with run := match x.run with
      | .held (.unitOp due d _) => .held (.unitOp due d v)
      | .gated (.unitOp due d _) => .gated (.unitOp due d v)
      | r => r }

theorem unitResult_eq {v : DWord} (h : (s.ctx o.who).run = unitRun o v) (status : Nat) (value : BitVec 32) :
    s.unitResult o status value = s.modCtx o.who (fillUnit (syncWord status value)) := if_pos (unitWaits_held h)

theorem fillUnit_run {x : Ctx} {v w : DWord} (h : x.run = unitRun o v) : (fillUnit w x).run = unitRun o w := by
  rw [fillUnit, h]
  rfl

theorem unitResult_run {v : DWord} (h : (s.ctx o.who).run = unitRun o v) (status : Nat) (value : BitVec 32) :
    ((s.unitResult o status value).ctx o.who).run = unitRun o (syncWord status value) := by
  rw [unitResult_eq h, state_ctx_modCtx_same]
  exact fillUnit_run h

theorem unitStatus_run {v : DWord} (h : (s.ctx o.who).run = unitRun o v) (status : Nat) :
    ((s.unitStatus o status).ctx o.who).run = unitRun o (syncWord status (Config.freeUnitValue s.fresh)) :=
  unitResult_run (s := { s with fresh := s.fresh + 1 }) h status _

theorem unitResult_lines (status : Nat) (value : BitVec 32) : (s.unitResult o status value).lines = s.lines := by
  unfold State.unitResult
  split <;> rfl

theorem unitStatus_lines (status : Nat) : (s.unitStatus o status).lines = s.lines :=
  unitResult_lines (s := { s with fresh := s.fresh + 1 }) status _

theorem unitGate_run {v : DWord} (h : (s.ctx o.who).run = unitRun o v) (w : Wait) : ((s.unitGate o w).ctx o.who).run = .gated w := by
  rw [State.unitGate, if_pos (unitWaits_held h), State.ctx, core_modCore_same]
  exact congrArg Ctx.run (ctx_modCtx_same (s.core o.who.1) o.who.2 (fun x => { x with run := .gated w }))

theorem unitGate_lines (w : Wait) : (s.unitGate o w).lines = s.lines := by
  unfold State.unitGate
  split <;> rfl

end

/-! ## Fires (R233) -/

/-- Each of a list gets its event, which may tell what the lines hold. -/
def postEach {α : Type} (at_ : α → Nat) (ev : Sparse EvLine → α → Event) (l : List α) (s : State) : State :=
  l.foldl (fun s x => s.post (at_ x) (ev s.lines x)) s

/-- Contexts and lines stay, and the agenda gets each event and keeps what it holds. -/
theorem postEach_spec {α : Type} (at_ : α → Nat) (ev : Sparse EvLine → α → Event) (l : List α) (s : State) :
    (postEach at_ ev l s).cores = s.cores ∧ (postEach at_ ev l s).lines = s.lines
    ∧ ∀ d, d ∈ (postEach at_ ev l s).agenda ↔ d ∈ s.agenda ∨ ∃ x ∈ l, d = ⟨at_ x, ev s.lines x⟩ := by
  induction l generalizing s with
  | nil => exact ⟨rfl, rfl, fun d => by simp [postEach]⟩
  | cons x r ih =>
    obtain ⟨h1, h2, h3⟩ := ih (s.post (at_ x) (ev s.lines x))
    refine ⟨h1, h2, fun d => ?_⟩
    rw [show postEach at_ ev (x :: r) s = postEach at_ ev r (s.post (at_ x) (ev s.lines x)) from rfl, h3, State.post, mem_agendaInsert]
    simp only [List.mem_cons, exists_eq_or_imp]
    tauto

section
variable (s : State) (l t : Nat)

theorem fireLine_spec : (s.fireLine l t).cores = s.cores ∧ (s.fireLine l t).lines = s.lines
    ∧ ∀ d, d ∈ (s.fireLine l t).agenda ↔ d ∈ s.agenda ∨ ∃ w ∈ s.waiters l, d = ⟨t + beatTicks, .fireArrival w.1.1 w.1.2 w.2⟩ :=
  postEach_spec (fun _ => t + beatTicks) (fun _ (w : (Nat × Nat) × Nat) => .fireArrival w.1.1 w.1.2 w.2) (s.waiters l) s

theorem fireRoot_spec : (s.fireRoot l t).cores = s.cores ∧ (s.fireRoot l t).lines = s.lines
    ∧ ∀ w ∈ s.waiters l, ⟨t + beatTicks, .fireArrival w.1.1 w.1.2 w.2⟩ ∈ (s.fireRoot l t).agenda := by
  obtain ⟨h1, h2, h3⟩ := fireLine_spec s l t
  unfold State.fireRoot
  dsimp only
  split
  · exact ⟨h1, h2, fun w hw => (h3 _).2 (.inr ⟨w, hw, rfl⟩)⟩
  · next b _ =>
    obtain ⟨g1, g2, g3⟩ := postEach_spec (fun l' => t + hopTicks l l') (fun ls l' => .eventChainForward l' l (some (sget .reset ls l).c))
      (b.lines.filter (fun l' => l' != l)) (s.fireLine l t)
    exact ⟨g1.trans h1, g2.trans h2, fun w hw => (g3 _).2 (.inl ((h3 _).2 (.inr ⟨w, hw, rfl⟩)))⟩

theorem signalAt_spec (origin : Nat) : (s.signalAt l origin t).cores = s.cores
    ∧ (s.signalAt l origin t).lines = (s.modLine l (fun e => { e with gen := e.gen + 1 })).lines
    ∧ ∀ w ∈ s.waiters l, ⟨t + beatTicks, .fireArrival w.1.1 w.1.2 w.2⟩ ∈ (s.signalAt l origin t).agenda := by
  obtain ⟨h1, h2, h3⟩ := fireLine_spec (s.modLine l (fun e => { e with gen := e.gen + 1 })) l t
  have hw : ∀ w ∈ s.waiters l, ⟨t + beatTicks, .fireArrival w.1.1 w.1.2 w.2⟩
      ∈ ((s.modLine l (fun e => { e with gen := e.gen + 1 })).fireLine l t).agenda := fun w hw => (h3 _).2 (.inr ⟨w, hw, rfl⟩)
  unfold State.signalAt
  dsimp only
  split
  · exact ⟨h1, h2, hw⟩
  · split
    · exact ⟨h1, h2, hw⟩
    · refine ⟨h1, h2, fun w h => ?_⟩
      rw [State.post, mem_agendaInsert]
      exact .inr (hw w h)

end

/-! ## The waiters of a line -/

theorem mem_sput_keep {α : Type} (d : α) (m : Sparse α) (k : Nat) (v : α) {e : Nat × α} (h : e ∈ m) :
    e ∈ sput m k v ∨ e = (k, sget d m k) := by
  induction m with
  | nil => exact absurd h List.not_mem_nil
  | cons a r ih =>
    obtain ⟨j, w⟩ := a
    unfold sput
    by_cases hlt : k < j
    · rw [if_pos hlt]
      exact .inl (List.mem_cons_of_mem _ h)
    · rw [if_neg hlt]
      by_cases he : k = j
      · rw [if_pos he]
        rcases List.mem_cons.1 h with rfl | h
        · exact .inr (by rw [sget, if_pos he.symm, he])
        · exact .inl (List.mem_cons_of_mem _ h)
      · rw [if_neg he]
        rcases List.mem_cons.1 h with rfl | h
        · exact .inl List.mem_cons_self
        · rcases ih h with h | h
          · exact .inl (List.mem_cons_of_mem _ h)
          · exact .inr (by rw [sget, if_neg (Ne.symm he)]; exact h)

theorem mem_sput_self {α : Type} (m : Sparse α) (k : Nat) (v : α) : (k, v) ∈ sput m k v := by
  induction m with
  | nil => exact List.mem_cons_self
  | cons a r ih =>
    obtain ⟨j, w⟩ := a
    unfold sput
    split
    · exact List.mem_cons_self
    · split
      · exact List.mem_cons_self
      · exact List.mem_cons_of_mem _ ih

theorem mem_waiters {s : State} {l : Nat} {w : (Nat × Nat) × Nat} : w ∈ s.waiters l ↔
    ∃ c : Core, (w.1.1, c) ∈ s.cores ∧ ownCluster w.1.1 = lineCluster l ∧ w.1.2 < 4 ∧ (c.ctx w.1.2).run.waitsOn l = some w.2 := by
  obtain ⟨⟨k, i⟩, n⟩ := w
  have h4 : ∀ i, i ∈ [0, 1, 2, 3] ↔ i < 4 := fun i => by simp only [List.mem_cons, List.not_mem_nil, or_false]; omega
  simp only [State.waiters, List.mem_flatMap, List.mem_filter, List.mem_filterMap, beq_iff_eq, Option.map_eq_some_iff, h4, Prod.mk.injEq]
  constructor
  · rintro ⟨⟨k', c⟩, ⟨hm, hc⟩, j, hj, x, hx, ⟨rfl, rfl⟩, rfl⟩
    exact ⟨c, hm, hc, hj, hx⟩
  · rintro ⟨c, hm, hc, hj, hx⟩
    exact ⟨(k, c), ⟨hm, hc⟩, i, hj, n, hx, ⟨rfl, rfl⟩, rfl⟩

/-- A context that waits on no line may change: the waiters of a line stay. -/
theorem waiters_modCtx {s : State} {l : Nat} {q : Nat × Nat} {f : Ctx → Ctx} (hq : (s.ctx q).run.waitsOn l = none)
    (hne : f (s.ctx q) ≠ .reset) {w : (Nat × Nat) × Nat} (hw : w ∈ s.waiters l) : w ∈ (s.modCtx q f).waiters l := by
  rw [mem_waiters] at hw ⊢
  obtain ⟨c, hm, hc, hi, hn⟩ := hw
  have hcore : (s.core q.1).modCtx q.2 f ≠ .reset := fun h => hne (by
    have := ctx_modCtx_same (s.core q.1) q.2 f
    rw [h] at this
    exact this.symm)
  have hset : (s.modCtx q f).cores = sput s.cores q.1 ((s.core q.1).modCtx q.2 f) := if_neg hcore
  rw [hset]
  rcases mem_sput_keep .reset s.cores q.1 ((s.core q.1).modCtx q.2 f) hm with h | h
  · exact ⟨c, h, hc, hi, hn⟩
  · obtain ⟨h1, h2⟩ := Prod.mk.inj h
    have hqi : q.2 ≠ w.1.2 := fun hqi => by
      rw [State.ctx, hqi] at hq
      rw [h2] at hn
      exact absurd (hq.symm.trans hn) (by simp)
    refine ⟨(s.core q.1).modCtx q.2 f, h1 ▸ mem_sput_self _ _ _, hc, hi, ?_⟩
    rw [ctx_modCtx_other _ _ hqi, ← hn, h2]
    rfl

/-- An operation's result leaves every waiter where it is. -/
theorem waiters_unitResult {s : State} {o : UnitOp} {v : DWord} (h : (s.ctx o.who).run = unitRun o v) (status : Nat) (value : BitVec 32)
    {l : Nat} {w : (Nat × Nat) × Nat} (hw : w ∈ s.waiters l) : w ∈ (s.unitResult o status value).waiters l := by
  rw [unitResult_eq h]
  refine waiters_modCtx (by rw [h]; rfl) (fun he => ?_) hw
  have hr := (fillUnit_run (w := syncWord status value) h).symm.trans (congrArg Ctx.run he)
  exact absurd hr (by unfold unitRun; exact fun h => by cases h)

/-! ## Operations on a line of the cluster -/

theorem line_of_lines {s t : State} {l : Nat} {f : EvLine → EvLine} (h : t.lines = (s.modLine l f).lines) (j : Nat) :
    t.line j = if j = l then f (s.line l) else s.line j := by
  have ht : t.line j = (s.modLine l f).line j := congrArg (fun ls => sget EvLine.reset ls j) h
  rw [ht, line_modLine]
  by_cases hj : l = j
  · rw [if_pos hj, if_pos hj.symm]
  · rw [if_neg hj, if_neg (Ne.symm hj)]

theorem ctx_of_cores {s t : State} (h : t.cores = s.cores) (q : Nat × Nat) : t.ctx q = s.ctx q :=
  congrArg (fun cs => (sget Core.reset cs q.1).ctx q.2) h

/-- An operation has answered with a status and a value. -/
def UnitGives (o : UnitOp) (t : State) (status : Nat) (v : BitVec 32 → Prop) : Prop :=
  ∃ x, v x ∧ (t.ctx o.who).run = unitRun o (syncWord status x)

section
variable {s : State} {o : UnitOp}

/-- An operation that its line refuses: a status, and nothing else. -/
theorem unitStatus_gives {v : DWord} (h : (s.ctx o.who).run = unitRun o v) (status : Nat) :
    (s.unitStatus o status).lines = s.lines ∧ UnitGives o (s.unitStatus o status) status (fun _ => True) :=
  ⟨unitStatus_lines status, _, trivial, unitStatus_run h status⟩

theorem unitResult_gives {v : DWord} (h : (s.ctx o.who).run = unitRun o v) (status n : Nat) {x : BitVec 32} (hx : x = BitVec.ofNat 32 n) :
    (s.unitResult o status x).lines = s.lines ∧ UnitGives o (s.unitResult o status x) status (fun x => x = BitVec.ofNat 32 n) :=
  ⟨unitResult_lines status x, x, hx, unitResult_run h status x⟩

theorem unitGate_gated {v : DWord} (h : (s.ctx o.who).run = unitRun o v) (w : Nat → Wait) :
    (({ s with fresh := s.fresh + 1 } : State).unitGate o (w s.fresh)).lines = s.lines
    ∧ ∃ n, ((({ s with fresh := s.fresh + 1 } : State).unitGate o (w s.fresh)).ctx o.who).run = .gated (w n) :=
  ⟨unitGate_lines _, s.fresh, unitGate_run (s := { s with fresh := s.fresh + 1 }) h _⟩

/-- A line of the issuer's own cluster, by its offset. -/
theorem target_line {i : Nat} (hi : i < 112) (ha : o.addr = 0x04000000 + 64 * i) : s.target o.who o.addr
    = if (s.line (lineOf o.who.1 i)).alloc = none then .free else .line (lineOf o.who.1 i) (lineOf o.who.1 i) := by
  have h1 : o.addr - unitBase = 64 * i := by unfold unitBase; omega
  have h2 : 64 * i / 64 = i := Nat.mul_div_cancel_left i (by decide)
  unfold State.target
  dsimp only
  rw [h1, if_pos (by omega), h2]
  simp only [Option.isNone_iff_eq_none]

end

section
variable {s : State} {o : UnitOp} {l : Nat}

/-- RVINIT on a line (R230). -/
theorem applyUnit_rvinit (hk : o.kind = .rvinit) (ht : s.target o.who o.addr = .line l l) : s.applyUnit o =
    if o.opnd = 0 ∨ 65535 < o.opnd.toNat then s.unitStatus o 5
    else if (s.line l).count ≠ 0 then s.unitStatus o 4
    else (s.unitStatus o 0).modLine l (fun e => { e with count := BitVec.ofNat 16 o.opnd.toNat, pend := BitVec.ofNat 16 o.opnd.toNat }) := by
  unfold State.applyUnit
  rw [hk, ht]
  exact if_congr Iff.rfl rfl (if_neg (not_not.2 rfl))

/-- RVARR on a line (R230). -/
theorem applyUnit_rvarr (hk : o.kind = .rvarr) (ht : s.target o.who o.addr = .line l l) : s.applyUnit o =
    if (s.line l).count = 0 then s.unitStatus o 5
    else (s.unitResult o 0 ((s.line l).c.setWidth 32)).arriveAt l o.at_ := by
  unfold State.applyUnit
  rw [hk, ht]
  exact if_neg (not_not.2 rfl)

/-- RVWAIT on a line (R230). -/
theorem applyUnit_rvwait (hk : o.kind = .rvwait) (ht : s.target o.who o.addr = .line l l) : s.applyUnit o =
    if (s.line l).c - o.opnd.setWidth 16 = 0
    then ({ s with fresh := s.fresh + 1 } : State).unitGate o (.rvwait o.d l s.fresh (o.opnd.setWidth 16))
    else s.unitResult o (if (s.line l).c - o.opnd.setWidth 16 = 1 then 0 else 1) ((s.line l).c.setWidth 32) := by
  unfold State.applyUnit
  rw [hk, ht]
  rfl

/-- EVSIG on a line (R232). -/
theorem applyUnit_evsig (hk : o.kind = .evsig) (ht : s.target o.who o.addr = .line l l) : s.applyUnit o =
    (s.signalAt l l o.at_).unitResult o 0 ((s.signalAt l l o.at_).line l).gen := by
  unfold State.applyUnit
  rw [hk, ht]

/-- EVWAIT on a line (R232). -/
theorem applyUnit_evwait (hk : o.kind = .evwait) (ht : s.target o.who o.addr = .line l l) : s.applyUnit o =
    if (s.line l).gen ≠ o.opnd.setWidth 32 then s.unitResult o 0 (s.line l).gen
    else ({ s with fresh := s.fresh + 1 } : State).unitGate o (.evwait o.d l s.fresh) := by
  unfold State.applyUnit
  rw [hk, ht]
  rfl

/-- MLOCK on a line (R232). -/
theorem applyUnit_mlock (hk : o.kind = .mlock) (ht : s.target o.who o.addr = .line l l) : s.applyUnit o =
    if (s.line l).holder = none ∨ (s.line l).holder = some (4 * o.who.1 + o.who.2)
    then (s.modLine l (fun e => { e with holder := some (4 * o.who.1 + o.who.2) })).unitStatus o 0
    else ({ s with fresh := s.fresh + 1 } : State).unitGate o (.mlock o.d l s.fresh) := by
  unfold State.applyUnit
  rw [hk, ht]
  rfl

/-- MUNLK by another than the holder (R232). -/
theorem applyUnit_munlk_foreign (hk : o.kind = .munlk) (ht : s.target o.who o.addr = .line l l)
    (hh : (s.line l).holder ≠ some (4 * o.who.1 + o.who.2)) : s.applyUnit o = s.unitStatus o 6 := by
  unfold State.applyUnit
  rw [hk, ht]
  exact if_pos hh

/-- The state behind the answer to a MUNLK by the holder. -/
def unlocked (s : State) (o : UnitOp) : State := { s.unitStatus o 0 with fresh := (s.unitStatus o 0).fresh + 1 }

/-- MUNLK with no waiter frees the mutex (R232). -/
theorem applyUnit_munlk_free (hk : o.kind = .munlk) (ht : s.target o.who o.addr = .line l l)
    (hh : (s.line l).holder = some (4 * o.who.1 + o.who.2)) (hw : s.waiters l = []) :
    s.applyUnit o = (unlocked s o).modLine l (fun e => { e with holder := none }) := by
  unfold State.applyUnit
  rw [hk, ht]
  refine (if_neg (not_not.2 hh)).trans ?_
  rw [hw]
  rfl

/-- MUNLK hands the mutex to a waiter (R232). -/
theorem applyUnit_munlk_pass (hk : o.kind = .munlk) (ht : s.target o.who o.addr = .line l l)
    (hh : (s.line l).holder = some (4 * o.who.1 + o.who.2)) (hw : s.waiters l ≠ []) : ∃ w ∈ s.waiters l,
    s.applyUnit o = ((unlocked s o).modLine l (fun e => { e with holder := some (4 * w.1.1 + w.1.2) })).post (o.at_ + beatTicks)
      (.fireArrival w.1.1 w.1.2 w.2) := by
  have hlt : Config.freeWaiter (s.unitStatus o 0).fresh % (s.waiters l).length < (s.waiters l).length :=
    Nat.mod_lt _ (List.length_pos_of_ne_nil hw)
  refine ⟨_, List.getElem_mem hlt, ?_⟩
  unfold State.applyUnit
  rw [hk, ht]
  refine (if_neg (not_not.2 hh)).trans ?_
  dsimp only [State.number]
  rw [List.getElem?_eq_getElem hlt]
  rfl

/-- SLOTF of a line that is allocated and that nothing waits on or backs (R228). -/
theorem applyUnit_slotf {i : Nat} (hk : o.kind = .slotf) (ha : o.addr = 0x04000000 + 64 * i)
    (he : (s.line (lineOf o.who.1 i)).alloc ≠ none) (hp : s.pointOf (lineOf o.who.1 i) = none) (hw : s.waiters (lineOf o.who.1 i) = []) :
    s.applyUnit o = (s.modLine (lineOf o.who.1 i) (fun _ => .reset)).unitStatus o 0 := by
  have hoff : (o.addr - unitBase) / 64 = i := by unfold unitBase; omega
  have hfree : s.freeLine (lineOf o.who.1 i) o.at_ = s.modLine (lineOf o.who.1 i) (fun _ => .reset) := by
    unfold State.freeLine
    rw [hp]
    dsimp only
    rw [List.flatMap_singleton, hw]
    rfl
  unfold State.applyUnit
  rw [hk, hoff]
  refine (if_neg (by rw [Option.isNone_iff_eq_none]; exact he)).trans ?_
  rw [hfree]

/-- An operation on a free line is refused (R228, R230, R232). -/
theorem applyUnit_free {i : Nat} (hk : o.kind ∈ [.slotf, .rvinit, .rvarr, .rvwait, .evsig, .evwait, .mlock, .munlk]) (hi : i < 112)
    (ha : o.addr = 0x04000000 + 64 * i) (he : (s.line (lineOf o.who.1 i)).alloc = none) : s.applyUnit o = s.unitStatus o 3 := by
  have ht := (target_line (s := s) hi ha).trans (if_pos he)
  have hoff : (o.addr - unitBase) / 64 = i := by unfold unitBase; omega
  simp only [List.mem_cons, List.not_mem_nil, or_false] at hk
  unfold State.applyUnit
  rcases hk with hk | hk | hk | hk | hk | hk | hk | hk
  · rw [hk, hoff]
    exact if_pos (by rw [he]; rfl)
  iterate 3
    · rw [hk, ht]
      rfl
  all_goals rw [hk, ht]

/-- SLOTA of barrier and mutex lines (R228). -/
theorem applyUnit_slota {kind : BitVec 2} (hk : o.kind = .slota kind) (h2 : kind ≠ 2) : s.applyUnit o =
    (s.freeLineOf o.who.1 kind).elim (s.unitResult o 2 0) (fun i =>
      (s.modLine (lineOf o.who.1 i) (fun _ => { EvLine.reset with alloc := some (s.partOf o.who.1) })).unitResult o 0
        (BitVec.ofNat 32 (unitBase + 64 * i))) := by
  unfold State.applyUnit
  rw [hk]
  dsimp only
  rw [if_neg h2]
  dsimp only
  cases s.freeLineOf o.who.1 kind <;> rfl

end

/-! ## The lowest free line (R228) -/

/-- The first of a range that satisfies a test. -/
theorem find?_range_offset {p : Nat → Bool} {lo n f : Nat} (hlo : lo ≤ f) (hhi : f < lo + n) (hf : p f = true)
    (hb : ∀ j, lo ≤ j → j < f → p j = false) : ((List.range n).map (fun i => lo + i)).find? p = some f := by
  refine List.find?_eq_some_iff_getElem.2 ⟨hf, f - lo, by simpa using by omega, by simp [Nat.add_sub_cancel' hlo], fun j h => ?_⟩
  simp only [List.getElem_map, List.getElem_range, hb (lo + j) (Nat.le_add_right _ _) (by omega), Bool.not_false]

theorem find?_range_offset_none {p : Nat → Bool} {lo n : Nat} (hb : ∀ j, lo ≤ j → j < lo + n → p j = false) :
    ((List.range n).map (fun i => lo + i)).find? p = none := by
  refine List.find?_eq_none.2 (fun x hx => ?_)
  obtain ⟨j, hj, rfl⟩ := List.mem_map.1 hx
  rw [hb _ (Nat.le_add_right _ _) (Nat.add_lt_add_left (List.mem_range.1 hj) _)]
  exact Bool.false_ne_true

section
variable {s : State} {k lo hi : Nat} {kind : BitVec 2}

theorem freeLineOf_some {f : Nat} (hk : kindRange kind = (lo, hi)) (hlo : lo ≤ f) (hhi : f < hi) (hf : (s.line (lineOf k f)).alloc = none)
    (hb : ∀ j, lo ≤ j → j < f → (s.line (lineOf k j)).alloc ≠ none) : s.freeLineOf k kind = some f := by
  unfold State.freeLineOf
  rw [hk]
  refine find?_range_offset hlo (by dsimp only; omega) (by rw [hf]; rfl) (fun j h1 h2 => ?_)
  rw [Bool.eq_false_iff, ne_eq, Option.isNone_iff_eq_none]
  exact hb j h1 h2

theorem freeLineOf_none (hk : kindRange kind = (lo, hi)) (hle : lo ≤ hi) (hb : ∀ j, lo ≤ j → j < hi → (s.line (lineOf k j)).alloc ≠ none) :
    s.freeLineOf k kind = none := by
  unfold State.freeLineOf
  rw [hk]
  refine find?_range_offset_none (fun j h1 h2 => ?_)
  rw [Bool.eq_false_iff, ne_eq, Option.isNone_iff_eq_none]
  exact hb j h1 (by dsimp only at h2; omega)

end

/-! ## What each operation leaves -/

/-- One line holds a value, the others what they held. -/
def OnlyLine (s t : State) (l : Nat) (e : EvLine) : Prop := ∀ j, t.line j = if j = l then e else s.line j

/-- Every waiter of a line is fired one beat behind a tick. -/
def FiresWaiters (s t : State) (l at_ : Nat) : Prop :=
  ∀ w ∈ s.waiters l, ⟨at_ + Config.ticksPerBeat, .fireArrival w.1.1 w.1.2 w.2⟩ ∈ t.agenda

section
variable {s : State} {o : UnitOp} {l : Nat}

/-- A line changed and the operation answered, with no value of a rule. -/
theorem modLine_unitStatus {v : DWord} (hr : (s.ctx o.who).run = unitRun o v) (f : EvLine → EvLine) (status : Nat) :
    OnlyLine s ((s.modLine l f).unitStatus o status) l (f (s.line l)) ∧ UnitGives o ((s.modLine l f).unitStatus o status) status (fun _ => True) := by
  obtain ⟨h1, h2⟩ := unitStatus_gives (s := s.modLine l f) (v := v) hr status
  exact ⟨fun j => line_of_lines h1 j, h2⟩

theorem modLine_unitResult {v : DWord} (hr : (s.ctx o.who).run = unitRun o v) (f : EvLine → EvLine) (status n : Nat) {x : BitVec 32}
    (hx : x = BitVec.ofNat 32 n) : OnlyLine s ((s.modLine l f).unitResult o status x) l (f (s.line l))
      ∧ UnitGives o ((s.modLine l f).unitResult o status x) status (fun x => x = BitVec.ofNat 32 n) := by
  obtain ⟨h1, h2⟩ := unitResult_gives (s := s.modLine l f) (v := v) hr status n hx
  exact ⟨fun j => line_of_lines h1 j, h2⟩

/-- The lines of a state whose lines are those of another with one changed. -/
theorem onlyLine_of_lines {t u : State} {f : EvLine → EvLine} (hu : u.lines = s.lines) (h : t.lines = (u.modLine l f).lines) :
    OnlyLine s t l (f (s.line l)) := by
  intro j
  have he : ∀ j, u.line j = s.line j := fun j => congrArg (fun ls => sget EvLine.reset ls j) hu
  rw [line_of_lines h j, he l, he j]

theorem setWidth_32 (x : BitVec 16) : x.setWidth 32 = BitVec.ofNat 32 x.toNat := (BitVec.ofNat_toNat 32 x).symm

theorem rvinit_rule (hr : (s.ctx o.who).run = unitRun o 0) (hk : o.kind = .rvinit) (ht : s.target o.who o.addr = .line l l) :
    (o.opnd = 0 ∨ 65535 < o.opnd.toNat → (s.applyUnit o).lines = s.lines ∧ UnitGives o (s.applyUnit o) 5 (fun _ => True))
    ∧ (o.opnd ≠ 0 → o.opnd.toNat ≤ 65535 → (s.line l).count ≠ 0 →
      (s.applyUnit o).lines = s.lines ∧ UnitGives o (s.applyUnit o) 4 (fun _ => True))
    ∧ (o.opnd ≠ 0 → o.opnd.toNat ≤ 65535 → (s.line l).count = 0 →
      OnlyLine s (s.applyUnit o) l { s.line l with count := o.opnd.setWidth 16, pend := o.opnd.setWidth 16 }
      ∧ UnitGives o (s.applyUnit o) 0 (fun _ => True)) := by
  rw [applyUnit_rvinit hk ht]
  refine ⟨fun h => ?_, fun h0 h1 hc => ?_, fun h0 h1 hc => ?_⟩
  · rw [if_pos h]
    exact unitStatus_gives hr 5
  · rw [if_neg (not_or.2 ⟨h0, Nat.not_lt.2 h1⟩), if_pos hc]
    exact unitStatus_gives hr 4
  · rw [if_neg (not_or.2 ⟨h0, Nat.not_lt.2 h1⟩), if_neg (not_not.2 hc)]
    obtain ⟨h1, x, hx, h2⟩ := unitStatus_gives hr 0
    exact ⟨onlyLine_of_lines (f := fun e => { e with count := o.opnd.setWidth 16, pend := o.opnd.setWidth 16 }) h1 rfl, x, hx, h2⟩

theorem rvarr_rule (hr : (s.ctx o.who).run = unitRun o 0) (hk : o.kind = .rvarr) (ht : s.target o.who o.addr = .line l l) :
    ((s.line l).count = 0 → (s.applyUnit o).lines = s.lines ∧ UnitGives o (s.applyUnit o) 5 (fun _ => True))
    ∧ ((s.line l).count ≠ 0 → (s.line l).pend = 1 →
      OnlyLine s (s.applyUnit o) l { s.line l with c := (s.line l).c + 1, pend := (s.line l).count }
      ∧ UnitGives o (s.applyUnit o) 0 (fun x => x = BitVec.ofNat 32 (s.line l).c.toNat) ∧ FiresWaiters s (s.applyUnit o) l o.at_)
    ∧ ((s.line l).count ≠ 0 → (s.line l).pend ≠ 1 →
      OnlyLine s (s.applyUnit o) l { s.line l with pend := (s.line l).pend - 1 }
      ∧ UnitGives o (s.applyUnit o) 0 (fun x => x = BitVec.ofNat 32 (s.line l).c.toNat)) := by
  rw [applyUnit_rvarr hk ht]
  obtain ⟨hl, x, hx, hrun⟩ := unitResult_gives (x := (s.line l).c.setWidth 32) hr 0 (s.line l).c.toNat (setWidth_32 _)
  have hline : (s.unitResult o 0 ((s.line l).c.setWidth 32)).line l = s.line l := congrArg (fun ls => sget EvLine.reset ls l) hl
  refine ⟨fun h => ?_, fun hc hp => ?_, fun hc hp => ?_⟩
  · rw [if_pos h]
    exact unitStatus_gives hr 5
  · rw [if_neg hc, State.arriveAt]
    dsimp only
    rw [hline, if_neg hc, if_pos hp]
    obtain ⟨h1, h2, h3⟩ := fireRoot_spec ((s.unitResult o 0 ((s.line l).c.setWidth 32)).modLine l
      (fun e => { e with c := e.c + 1, pend := e.count })) l o.at_
    exact ⟨onlyLine_of_lines (f := fun e => { e with c := e.c + 1, pend := e.count }) hl h2, ⟨x, hx, (congrArg Ctx.run (ctx_of_cores h1 _)).trans hrun⟩,
      fun w hw => h3 w (waiters_unitResult hr _ _ hw)⟩
  · rw [if_neg hc, State.arriveAt]
    dsimp only
    rw [hline, if_neg hc, if_neg hp]
    exact ⟨onlyLine_of_lines (f := fun e => { e with pend := e.pend - 1 }) hl rfl, x, hx, hrun⟩

/-- A wait on a line: no line changes and the context is Gated. -/
def UnitGated (s t : State) (o : UnitOp) (w : Nat → Wait) : Prop := t.lines = s.lines ∧ ∃ n, (t.ctx o.who).run = .gated (w n)

theorem rvwait_rule (hr : (s.ctx o.who).run = unitRun o 0) (hk : o.kind = .rvwait) (ht : s.target o.who o.addr = .line l l) :
    ((s.line l).c = o.opnd.setWidth 16 → UnitGated s (s.applyUnit o) o (fun n => .rvwait o.d l n (o.opnd.setWidth 16)))
    ∧ ((s.line l).c = o.opnd.setWidth 16 + 1 →
      (s.applyUnit o).lines = s.lines ∧ UnitGives o (s.applyUnit o) 0 (fun x => x = BitVec.ofNat 32 (s.line l).c.toNat))
    ∧ ((s.line l).c ≠ o.opnd.setWidth 16 → (s.line l).c ≠ o.opnd.setWidth 16 + 1 →
      (s.applyUnit o).lines = s.lines ∧ UnitGives o (s.applyUnit o) 1 (fun x => x = BitVec.ofNat 32 (s.line l).c.toNat)) := by
  rw [applyUnit_rvwait hk ht]
  have h0 : (s.line l).c - o.opnd.setWidth 16 = 0 ↔ (s.line l).c = o.opnd.setWidth 16 := sub_eq_zero
  have h1 : (s.line l).c - o.opnd.setWidth 16 = 1 ↔ (s.line l).c = o.opnd.setWidth 16 + 1 := by rw [sub_eq_iff_eq_add, add_comm]
  refine ⟨fun h => ?_, fun h => ?_, fun hn0 hn1 => ?_⟩
  · rw [if_pos (h0.2 h)]
    exact unitGate_gated hr (fun n => .rvwait o.d l n (o.opnd.setWidth 16))
  · rw [if_neg (by rw [h1.2 h]; decide), if_pos (h1.2 h)]
    exact unitResult_gives hr 0 _ (setWidth_32 _)
  · rw [if_neg (fun h => hn0 (h0.1 h)), if_neg (fun h => hn1 (h1.1 h))]
    exact unitResult_gives hr 1 _ (setWidth_32 _)

theorem evsig_rule (hr : (s.ctx o.who).run = unitRun o 0) (hk : o.kind = .evsig) (ht : s.target o.who o.addr = .line l l) :
    OnlyLine s (s.applyUnit o) l { s.line l with gen := (s.line l).gen + 1 }
    ∧ UnitGives o (s.applyUnit o) 0 (fun x => x = BitVec.ofNat 32 ((s.line l).gen.toNat + 1)) ∧ FiresWaiters s (s.applyUnit o) l o.at_ := by
  rw [applyUnit_evsig hk ht]
  obtain ⟨h1, h2, h3⟩ := signalAt_spec s l o.at_ l
  have hrun : ((s.signalAt l l o.at_).ctx o.who).run = unitRun o 0 := (congrArg Ctx.run (ctx_of_cores h1 _)).trans hr
  have hgen : ((s.signalAt l l o.at_).line l).gen = BitVec.ofNat 32 ((s.line l).gen.toNat + 1) := by
    rw [line_of_lines h2 l, if_pos rfl]
    exact BitVec.eq_of_toNat_eq (by rw [BitVec.toNat_add, BitVec.toNat_ofNat]; rfl)
  obtain ⟨g1, g2⟩ := unitResult_gives hrun 0 _ hgen
  refine ⟨onlyLine_of_lines (f := fun e => { e with gen := e.gen + 1 }) rfl (g1.trans h2), g2, fun w hw => ?_⟩
  rw [unitResult_eq hrun]
  exact h3 w hw

theorem evwait_rule (hr : (s.ctx o.who).run = unitRun o 0) (hk : o.kind = .evwait) (ht : s.target o.who o.addr = .line l l) :
    ((s.line l).gen ≠ o.opnd.setWidth 32 →
      (s.applyUnit o).lines = s.lines ∧ UnitGives o (s.applyUnit o) 0 (fun x => x = BitVec.ofNat 32 (s.line l).gen.toNat))
    ∧ ((s.line l).gen = o.opnd.setWidth 32 → UnitGated s (s.applyUnit o) o (fun n => .evwait o.d l n)) := by
  rw [applyUnit_evwait hk ht]
  refine ⟨fun h => ?_, fun h => ?_⟩
  · rw [if_pos h]
    exact unitResult_gives hr 0 _ (BitVec.ofNat_toNat 32 _ ▸ (BitVec.setWidth_eq _).symm)
  · rw [if_neg (not_not.2 h)]
    exact unitGate_gated hr (fun n => .evwait o.d l n)

theorem mlock_rule (hr : (s.ctx o.who).run = unitRun o 0) (hk : o.kind = .mlock) (ht : s.target o.who o.addr = .line l l) :
    ((s.line l).holder = none ∨ (s.line l).holder = some (4 * o.who.1 + o.who.2) →
      OnlyLine s (s.applyUnit o) l { s.line l with holder := some (4 * o.who.1 + o.who.2) } ∧ UnitGives o (s.applyUnit o) 0 (fun _ => True))
    ∧ ((s.line l).holder ≠ none → (s.line l).holder ≠ some (4 * o.who.1 + o.who.2) →
      UnitGated s (s.applyUnit o) o (fun n => .mlock o.d l n)) := by
  rw [applyUnit_mlock hk ht]
  refine ⟨fun h => ?_, fun h1 h2 => ?_⟩
  · rw [if_pos h]
    exact modLine_unitStatus hr (fun e => { e with holder := some (4 * o.who.1 + o.who.2) }) 0
  · rw [if_neg (not_or.2 ⟨h1, h2⟩)]
    exact unitGate_gated hr (fun n => .mlock o.d l n)

theorem munlk_rule (hr : (s.ctx o.who).run = unitRun o 0) (hk : o.kind = .munlk) (ht : s.target o.who o.addr = .line l l) :
    ((s.line l).holder ≠ some (4 * o.who.1 + o.who.2) →
      (s.applyUnit o).lines = s.lines ∧ UnitGives o (s.applyUnit o) 6 (fun _ => True))
    ∧ ((s.line l).holder = some (4 * o.who.1 + o.who.2) → s.waiters l = [] →
      OnlyLine s (s.applyUnit o) l { s.line l with holder := none } ∧ UnitGives o (s.applyUnit o) 0 (fun _ => True))
    ∧ ((s.line l).holder = some (4 * o.who.1 + o.who.2) → s.waiters l ≠ [] → UnitGives o (s.applyUnit o) 0 (fun _ => True)
      ∧ ∃ w ∈ s.waiters l, OnlyLine s (s.applyUnit o) l { s.line l with holder := some (4 * w.1.1 + w.1.2) }
        ∧ ⟨o.at_ + Config.ticksPerBeat, .fireArrival w.1.1 w.1.2 w.2⟩ ∈ (s.applyUnit o).agenda) := by
  obtain ⟨hl, x, hx, hrun⟩ := unitStatus_gives hr 0
  refine ⟨fun h => ?_, fun h hw => ?_, fun h hw => ?_⟩
  · rw [applyUnit_munlk_foreign hk ht h]
    exact unitStatus_gives hr 6
  · rw [applyUnit_munlk_free hk ht h hw]
    exact ⟨onlyLine_of_lines (u := unlocked s o) (f := fun e => { e with holder := none }) hl rfl, x, hx, hrun⟩
  · obtain ⟨w, hm, he⟩ := applyUnit_munlk_pass hk ht h hw
    rw [he]
    refine ⟨⟨x, hx, hrun⟩, w, hm, onlyLine_of_lines (u := unlocked s o) (f := fun e => { e with holder := some (4 * w.1.1 + w.1.2) }) hl rfl, ?_⟩
    rw [State.post, mem_agendaInsert]
    exact .inl rfl

theorem slota_rule {kind : BitVec 2} {lo hi : Nat} (hr : (s.ctx o.who).run = unitRun o 0) (hk : o.kind = .slota kind) (h2 : kind ≠ 2)
    (hrange : kindRange kind = (lo, hi)) (hle : lo ≤ hi) :
    (∀ f, lo ≤ f → f < hi → (s.line (lineOf o.who.1 f)).alloc = none → (∀ j, lo ≤ j → j < f → (s.line (lineOf o.who.1 j)).alloc ≠ none) →
      OnlyLine s (s.applyUnit o) (lineOf o.who.1 f) { EvLine.reset with alloc := some (s.partOf o.who.1) }
      ∧ UnitGives o (s.applyUnit o) 0 (fun x => x = BitVec.ofNat 32 (0x04000000 + 64 * f)))
    ∧ ((∀ j, lo ≤ j → j < hi → (s.line (lineOf o.who.1 j)).alloc ≠ none) →
      (s.applyUnit o).lines = s.lines ∧ UnitGives o (s.applyUnit o) 2 (fun x => x = BitVec.ofNat 32 0)) := by
  rw [applyUnit_slota hk h2]
  refine ⟨fun f hlo hhi hf hb => ?_, fun hb => ?_⟩
  · rw [freeLineOf_some hrange hlo hhi hf hb, Option.elim_some]
    exact modLine_unitResult hr (fun _ => { EvLine.reset with alloc := some (s.partOf o.who.1) }) 0 _ rfl
  · rw [freeLineOf_none hrange hle hb, Option.elim_none]
    exact unitResult_gives hr 2 0 rfl

end

/-- Settles O38: one rule for each operation on an allocated line of the cluster. -/
theorem eventUnitOperationsFollowTheirRules : Obligations.EventUnitOperationsFollowTheirRules := by
  intro s o i hr hi ha
  dsimp only
  refine ⟨fun kind lo hi hm hk => ?_, fun he hk => ?_, fun he => ?_⟩
  · simp only [List.mem_cons, List.not_mem_nil, or_false, Prod.mk.injEq] at hm
    rcases hm with ⟨rfl, rfl, rfl⟩ | ⟨rfl, rfl, rfl⟩
    · exact slota_rule hr hk (by decide) rfl (by decide)
    · exact slota_rule hr hk (by decide) rfl (by decide)
  · rw [applyUnit_free hk hi ha he]
    exact unitStatus_gives hr 3
  · have ht := (target_line (s := s) hi ha).trans (if_neg he)
    refine ⟨fun hk hp hw => ?_, fun hk => rvinit_rule hr hk ht, fun hk => rvarr_rule hr hk ht, fun hk => rvwait_rule hr hk ht,
      fun hk => evsig_rule hr hk ht, fun hk => evwait_rule hr hk ht, fun hk => mlock_rule hr hk ht, fun hk => munlk_rule hr hk ht⟩
    rw [applyUnit_slotf hk ha he hp hw]
    exact modLine_unitStatus hr (fun _ => .reset) 0

end Sys2Proof.Proofs
end


section
/-! PROOFS. Fences, bindings, ACQ and REL at issue (R215 to R219, R314, R339, R369). -/

namespace Sys2Proof.Proofs

open Sys2Proof.Machine Sys2Proof.Safety Sys2Proof.Laws

/-! ## Fences (R215 to R217) -/

/-- The fences of the context hidden, when the scope is the core. -/
def fenceWrites (scope : Scope) : Writes := { ctx := fun x => if scope = .core then { x with fenced := [] } else x }

/-- What a fence leaves beside its wait. -/
def fenced (scope : Scope) (p1 p2 : Path) (s : State) : State := if scope = .core then s.leaveFence p1 p2 else s

section
variable {s : State} {h : Hdr} {scope : Scope} {p1 p2 : Path}

theorem fence_eq : fence h scope p1 p2 s = issue { len := 3, hdr := h, ill := inStep s && !(timedPath p1 && timedPath p2) }
    (fun s => if inStep s then .ok ⟨s, .next⟩
      else .ok ⟨fenced scope p1 p2 s, .hold (.fence p1 scope (s.now + fenceTicks s.cur.1 scope))⟩) s := rfl

theorem timedPath_iff (p : Path) : timedPath p = true ↔ p = .ls ∨ p = .ms ∨ p = .vt ∨ p = .mx := by
  cases p <;> decide

/-- The writes of a path that a fence of scope core looks at. -/
def ownWrites (s : State) : Path → List Span
  | .ls => s.lsWrites s.cur
  | .ms => s.msWrites s.cur
  | _ => []

/-- The last tick at which a write of a path to the own core is due. -/
def fenceDue (s : State) (p : Path) : Nat := (ownWrites s p).foldl (fun m w => if w.home = some s.cur.1 then max m w.due else m) 0

/-- What a fence of scope core leaves to remember. -/
theorem leaveFence_eq : s.leaveFence p1 p2 = if fenceDue s p1 = 0 ∧ !(p1 == .ls && s.rowsOut s.cur) then s
    else s.modCtx s.cur (fun x => { x with
      fenced := x.fenced.filter (s.fenceHolds s.cur) ++ [⟨p2, fenceDue s p1, p1 == .ls && s.rowsOut s.cur⟩] }) := by
  cases p1 <;> rfl

/-- A fence of scope core changes the context's fences alone, or nothing. -/
theorem leaveFence_cases : s.leaveFence p1 p2 = s
    ∨ ∃ f : Ctx → List Fenced, s.leaveFence p1 p2 = s.modCtx s.cur (fun x => { x with fenced := f x }) := by
  rw [leaveFence_eq]
  split
  · exact .inl rfl
  · exact .inr ⟨_, rfl⟩

theorem Frame_fenced : Frame (fenceWrites scope) s (fenced scope p1 p2 s) := by
  unfold fenced
  split
  · next hc =>
    subst hc
    rcases leaveFence_cases (s := s) (p1 := p1) (p2 := p2) with he | ⟨f, he⟩
    · rw [he]
      exact Frame_machine rfl rfl rfl
    · rw [he]
      exact Frame_ctx _ (fun _ => rfl)
  · exact Frame_machine rfl rfl rfl

theorem fenced_pc : ((fenced scope p1 p2 s).ctx s.cur).pc = (s.ctx s.cur).pc := by
  unfold fenced
  split
  · rcases leaveFence_cases (s := s) (p1 := p1) (p2 := p2) with he | ⟨f, he⟩
    · rw [he]
    · rw [he, state_ctx_modCtx_same]
  · rfl

/-- An own-core write under way before a fence of scope core is remembered by it (log 50). -/
theorem leaveFence_holds {w : Span} (hw : w ∈ ownWrites s p1) (hh : w.home = some s.cur.1) (hd : 0 < w.due) :
    ∃ f ∈ ((s.leaveFence p1 p2).ctx s.cur).fenced, f.path = p2 ∧ w.due ≤ f.due := by
  have hmax : w.due ≤ fenceDue s p1 := by
    refine foldl_max_mem (e := w) _ (fun m a => ?_) (fun m => ?_) _ _ hw
    · split
      · exact Nat.le_max_left _ _
      · exact Nat.le_refl _
    · rw [if_pos hh]
      exact Nat.le_max_right _ _
  rw [leaveFence_eq, if_neg (fun h0 => by omega), state_ctx_modCtx_same]
  exact ⟨_, List.mem_append_right _ List.mem_cons_self, rfl, hmax⟩

/-- A fence in timed code, of the four paths of the timetable. -/
theorem fence_timed (hr : Ready { len := 3, hdr := h, ill := inStep s && !(timedPath p1 && timedPath p2) } s) (hi : inStep s = true) :
    Answers (fence h scope p1 p2 s) (fun t => Frame {} s t ∧ ((s.ctx s.cur).rep = none → GoesTo s t (behind s 3))) := by
  rw [fence_eq]
  exact ⟨_, issue_clean hr (if_pos hi) (soft_nil rfl), Frame_retire _ s .next true (by simp),
    fun hrep ho => retire_next_pc _ s ho rfl hrep⟩

/-- A fence elsewhere holds its context for the least latency of its scope. -/
theorem fence_untimed (hr : Ready { len := 3, hdr := h, ill := inStep s && !(timedPath p1 && timedPath p2) } s) (hi : inStep s = false) :
    Answers (fence h scope p1 p2 s) (fun t => Frame (fenceWrites scope) s t ∧ Waits s t h (.fence p1 scope (s.now + fenceTicks s.cur.1 scope))
      ∧ (scope = .core → ∀ w ∈ ownWrites s p1, w.home = some s.cur.1 → 0 < w.due →
        ∃ f ∈ (t.ctx s.cur).fenced, f.path = p2 ∧ w.due ≤ f.due)) := by
  rw [fence_eq]
  refine hold_issue hr (if_neg (by rw [hi]; exact Bool.noConfusion)) (soft_nil rfl) Frame_fenced fenced_pc (fun t hf ht hw => ⟨hf, hw, fun hc w hm hh hd => ?_⟩)
  have hx : (t.ctx s.cur).fenced = ((fenced scope p1 p2 s).ctx s.cur).fenced := by
    have hcur : (fenced scope p1 p2 s).cur = s.cur := Frame_fenced.cur
    have := (congrArg Ctx.fenced ht.context :)
    rw [hcur] at this
    exact this
  rw [hx, fenced, if_pos hc]
  exact leaveFence_holds hm hh hd

end

/-! ## Bindings (R218) -/

section
variable {l : List Binding} {b : Binding}

theorem bindIn_remove (h : b.n = 0) : bindIn l b = some (l.filter (fun x => x.obj != b.obj)) := if_pos h

theorem any_obj : l.any (fun x => x.obj == b.obj) = true ↔ l.filter (fun x => x.obj == b.obj) ≠ [] := by
  rw [List.any_eq_true, ne_eq, List.filter_eq_nil_iff]
  push Not
  rfl

theorem bindIn_replace (h : b.n ≠ 0) (hs : l.filter (fun x => x.obj == b.obj) ≠ []) :
    bindIn l b = some (l.map (fun x => if x.obj = b.obj then b else x)) := (if_neg h).trans (if_pos (any_obj.2 hs))

theorem bindIn_add (h : b.n ≠ 0) (hs : l.filter (fun x => x.obj == b.obj) = []) (hl : l.length < 8) : bindIn l b = some (l ++ [b]) :=
  (if_neg h).trans ((if_neg (fun ha => any_obj.1 ha hs)).trans (if_neg (Nat.not_le.2 hl)))

theorem bindIn_ninth (h : b.n ≠ 0) (hs : l.filter (fun x => x.obj == b.obj) = []) (hl : 8 ≤ l.length) : bindIn l b = none :=
  (if_neg h).trans ((if_neg (fun ha => any_obj.1 ha hs)).trans (if_pos hl))

/-- Any binding but a ninth is taken. -/
theorem bindIn_some (h : ¬ (b.n ≠ 0 ∧ l.filter (fun x => x.obj == b.obj) = [] ∧ 8 ≤ l.length)) : ∃ l', bindIn l b = some l' := by
  by_cases hn : b.n = 0
  · exact ⟨_, bindIn_remove hn⟩
  · by_cases hs : l.filter (fun x => x.obj == b.obj) = []
    · exact ⟨_, bindIn_add hn hs (Nat.not_le.1 (fun hl => h ⟨hn, hs, hl⟩))⟩
    · exact ⟨_, bindIn_replace hn hs⟩

end

/-- An endpoint that a binding may name. -/
def BindFits (e : DWord) : Prop := epLocal e = false ∧ epOk e = true

/-- The bindings of the context hidden. -/
def bindWrites : Writes := { ctx := fun x => { x with binds := [] } }

/-- The effect of BIND. -/
def bindBody (a b : Reg) (scope : Scope) (n : BitVec 30) (s : State) : Except Trap Done :=
  let o := rv s a
  let r := rv s b
  if epLocal o ∨ epLocal r ∨ !epOk o ∨ !epOk r then .error (.of .illop)
  else match bindIn (s.ctx s.cur).binds ⟨o, r, n, scope⟩ with
    | none => .error (.of .illop)
    | some l =>
      if o.toNat % 8 ≠ 0 then .error ⟨.align, 0, o, false⟩
      else if r.toNat % 64 ≠ 0 then .error ⟨.align, 0, r, false⟩
      else .ok ⟨s.modCtx s.cur (fun x => { x with binds := l }), .next⟩

section
variable {s : State} {h : Hdr} {a b : Reg} {scope : Scope} {n : BitVec 30}

theorem execBind_eq : execBind h a b scope n s = issue { len := 3, hdr := h, rs := [a, b] } (bindBody a b scope n) s := rfl

theorem fits_iff : ¬ (epLocal (rv s a) = true ∨ epLocal (rv s b) = true ∨ (!epOk (rv s a)) = true ∨ (!epOk (rv s b)) = true)
    ↔ BindFits (rv s a) ∧ BindFits (rv s b) := by
  unfold BindFits
  cases epLocal (rv s a) <;> cases epLocal (rv s b) <;> cases epOk (rv s a) <;> cases epOk (rv s b) <;> decide

theorem bindBody_unfit (hf : ¬ (BindFits (rv s a) ∧ BindFits (rv s b))) : bindBody a b scope n s = .error (.of .illop) :=
  if_pos (not_not.1 (fun h => hf (fits_iff.1 h)))

theorem bindBody_ninth (hf : BindFits (rv s a) ∧ BindFits (rv s b)) (hb : bindIn (s.ctx s.cur).binds ⟨rv s a, rv s b, n, scope⟩ = none) :
    bindBody a b scope n s = .error (.of .illop) := by
  refine (if_neg (fits_iff.2 hf)).trans ?_
  rw [hb]

theorem bindBody_some {l : List Binding} (hf : BindFits (rv s a) ∧ BindFits (rv s b))
    (hb : bindIn (s.ctx s.cur).binds ⟨rv s a, rv s b, n, scope⟩ = some l) : bindBody a b scope n s =
      if (rv s a).toNat % 8 ≠ 0 then .error ⟨.align, 0, rv s a, false⟩
      else if (rv s b).toNat % 64 ≠ 0 then .error ⟨.align, 0, rv s b, false⟩
      else .ok ⟨s.modCtx s.cur (fun x => { x with binds := l }), .next⟩ := by
  refine (if_neg (fits_iff.2 hf)).trans ?_
  rw [hb]

/-- A BIND whose operands pass. -/
theorem bind_takes {l : List Binding} (hr : Ready { len := 3, hdr := h, rs := [a, b] } s) (hf : BindFits (rv s a) ∧ BindFits (rv s b))
    (ha : (rv s a).toNat % 8 = 0) (hb : (rv s b).toNat % 64 = 0) (hl : bindIn (s.ctx s.cur).binds ⟨rv s a, rv s b, n, scope⟩ = some l) :
    Answers (execBind h a b scope n s) (fun t => Frame bindWrites s t ∧ (t.ctx s.cur).binds = l) := by
  rw [execBind_eq]
  have hbody := ((bindBody_some hf hl).trans (if_neg (not_not.2 ha))).trans (if_neg (not_not.2 hb))
  refine next_issue (w := bindWrites) hr hbody (soft_nil rfl) (Frame_ctx _ (fun _ => rfl)) (fun t hf ht => ⟨hf, ?_⟩)
  have := (congrArg Ctx.binds ht.context :)
  rw [show (s.modCtx s.cur (fun x => { x with binds := l })).cur = s.cur from rfl, state_ctx_modCtx_same] at this
  exact this

end

/-! ## ACQ and REL (R219) -/

/-- The need of an ACQ or REL. -/
def objectNeed (rel : Bool) (h : Hdr) (d a : Reg) (s : State) : Need :=
  { len := 3, hdr := h, rs := [a], rd := [d], ill := inStep s
    bytes := if !rel && epNear (rv s a) && epCore (columnOf s.cur.1) (rv s a) == s.cur.1 then [(epAddr (rv s a) (epOff (rv s a)), 8)] else []
    reading := [] }

/-- The effect of an ACQ or REL. -/
def objectBody (rel : Bool) (d a : Reg) (sc : Bool) (s : State) : Except Trap Done :=
  let obj := rv s a
  let q := s.cur
  if !(s.ctx q).binds.any (fun b => b.obj == obj) then .error (.of .illop)
  else
    let (num, s') := s.number
    if sc then .ok ⟨s'.issueSc num d (.object obj rel), .hold (.reply d num)⟩
    else
      let (l, s') := s'.draw (cyc q.1)
      let t := if epNear obj then s.now + l else s.lineTick q obj.toNat (s.now + l)
      .ok ⟨s'.post t (.objectReply q.1 q.2 num obj rel (s.part (s.partOf q.1)).epoch), .hold (.reply d num)⟩

section
variable {s : State} {h : Hdr} {d a : Reg} {rel sc : Bool}

theorem objectIssue_eq : objectIssue rel h d a sc s = issue (objectNeed rel h d a s) (objectBody rel d a sc) s := rfl

theorem bound_iff : (!(s.ctx s.cur).binds.any (fun b => b.obj == rv s a)) = true ↔ ∀ y ∈ (s.ctx s.cur).binds, y.obj ≠ rv s a := by
  rw [Bool.not_eq_true', List.any_eq_false]
  simp only [beq_iff_eq, ne_eq]

theorem objectBody_unbound (hb : ∀ y ∈ (s.ctx s.cur).binds, y.obj ≠ rv s a) : objectBody rel d a sc s = .error (.of .illop) :=
  if_pos (bound_iff.2 hb)

theorem objectBody_sc (hb : ∃ y ∈ (s.ctx s.cur).binds, y.obj = rv s a) : objectBody rel d a true s
    = .ok ⟨({ s with fresh := s.fresh + 1, sc := s.sc ++ [⟨s.cur, s.fresh, d, .object (rv s a) rel, s.now, none⟩] }
        : State).post s.now (.scAnnounce s.cur.1 s.cur.2 s.fresh), .hold (.reply d s.fresh)⟩ := by
  obtain ⟨y, hy, he⟩ := hb
  exact if_neg (fun h => bound_iff.1 h y hy he)

/-- The tick at which an access to an object word is looked at. -/
def objectTick (s : State) (a : Reg) : Nat := if epNear (rv s a) then s.now + (cyc s.cur.1 + Config.freeLatency (s.fresh + 1))
  else s.lineTick s.cur (rv s a).toNat (s.now + (cyc s.cur.1 + Config.freeLatency (s.fresh + 1)))

theorem objectBody_own (hb : ∃ y ∈ (s.ctx s.cur).binds, y.obj = rv s a) : objectBody rel d a false s
    = .ok ⟨({ s with fresh := s.fresh + 2 } : State).post (objectTick s a)
        (.objectReply s.cur.1 s.cur.2 s.fresh (rv s a) rel (s.part (s.partOf s.cur.1)).epoch), .hold (.reply d s.fresh)⟩ := by
  obtain ⟨y, hy, he⟩ := hb
  exact if_neg (fun h => bound_iff.1 h y hy he)

theorem objectTick_ge : s.now + cyc s.cur.1 ≤ objectTick s a := by
  have h : s.now + cyc s.cur.1 ≤ s.now + (cyc s.cur.1 + Config.freeLatency (s.fresh + 1)) := Nat.add_le_add_left (Nat.le_add_right _ _) _
  unfold objectTick
  split
  · exact h
  · exact h.trans lineTick_ge

theorem object_waits (hr : Ready (objectNeed rel h d a s) s) (hb : ∃ y ∈ (s.ctx s.cur).binds, y.obj = rv s a) :
    Answers (objectIssue rel h d a sc s) (fun t => Frame scWrites s t ∧ Waits s t h (.reply d s.fresh)
      ∧ (sc = true → t.sc = s.sc ++ [⟨s.cur, s.fresh, d, .object (rv s a) rel, s.now, none⟩]
        ∧ Posts s t s.now (.scAnnounce s.cur.1 s.cur.2 s.fresh))
      ∧ (sc = false → t.sc = s.sc ∧ ∃ at_, s.now + cyc s.cur.1 ≤ at_
        ∧ Posts s t at_ (.objectReply s.cur.1 s.cur.2 s.fresh (rv s a) rel (s.part (s.partOf s.cur.1)).epoch)
        ∧ (epNear (rv s a) = false → ∀ e ∈ s.agenda, Event.lineAccess e.ev = some (s.cur, (rv s a).toNat / 64) → e.at_ < at_))) := by
  rw [objectIssue_eq]
  cases sc with
  | true =>
    refine hold_issue (w := scWrites) hr (objectBody_sc hb) (soft_nil rfl) (Frame_machine rfl rfl rfl) rfl (fun t hf ht hw => ?_)
    exact ⟨hf, hw, fun _ => ⟨(congrArg State.sc ht.machine :), agenda_frame ht⟩, fun h => absurd h Bool.noConfusion⟩
  | false =>
    refine hold_issue (w := scWrites) hr (objectBody_own hb) (soft_nil rfl) (Frame_machine rfl rfl rfl) rfl (fun t hf ht hw => ?_)
    refine ⟨hf, hw, fun h => absurd h Bool.noConfusion, fun _ => ⟨(congrArg State.sc ht.machine :), _, objectTick_ge, agenda_frame ht, ?_⟩⟩
    intro hn e he hl
    rw [objectTick, hn]
    exact lineTick_gt he hl

end

/-- A path of the timetable. -/
def TimedPath (p : Path) : Prop := p = .ls ∨ p = .ms ∨ p = .vt ∨ p = .mx

/-- A fence's checks and its effect inside and outside timed code. -/
theorem fence_rule {s : State} {h : Hdr} {scope : Scope} {q1 q2 : Path} {least : Nat} {o : Host.Outcome State Fault Refusal}
    (ho : o = fence h scope q1 q2 s) (hleast : fenceTicks s.cur.1 scope = least) :
    (inStep s = true → ¬ (TimedPath q1 ∧ TimedPath q2) → Traps s (.of .illop) o)
    ∧ (Ready { len := 3, hdr := h, ill := inStep s && !(timedPath q1 && timedPath q2) } s →
      (inStep s = true → Answers o (fun t => Frame {} s t ∧ ((s.ctx s.cur).rep = none → GoesTo s t (behind s 3))))
      ∧ (inStep s = false → Answers o (fun t => Frame (fenceWrites scope) s t
        ∧ Waits s t h (.fence q1 scope (s.now + least))
        ∧ (scope = .core → ∀ l, (q1, l) ∈ [(Path.ls, s.lsWrites s.cur), (.ms, s.msWrites s.cur)] →
          ∀ w ∈ l, w.home = some s.cur.1 → 0 < w.due → ∃ f ∈ (t.ctx s.cur).fenced, f.path = q2 ∧ w.due ≤ f.due)))) := by
  subst ho hleast
  have hwrites : ∀ l, (q1, l) ∈ [(Path.ls, s.lsWrites s.cur), (.ms, s.msWrites s.cur)] → l = ownWrites s q1 := by
    intro l hm
    simp only [List.mem_cons, List.not_mem_nil, or_false, Prod.mk.injEq] at hm
    rcases hm with ⟨rfl, rfl⟩ | ⟨rfl, rfl⟩ <;> rfl
  refine ⟨fun hi ht => fence_eq ▸ traps_illop ?_, fun hr => ⟨fence_timed hr, fun hi => answers_imp (fence_untimed hr hi) (fun t ht => ?_)⟩⟩
  · have hn : (timedPath q1 && timedPath q2) = false := by
      rw [Bool.eq_false_iff, ne_eq, Bool.and_eq_true, timedPath_iff, timedPath_iff]
      exact ht
    rw [hi, hn]
    rfl
  · obtain ⟨h1, h2, h3⟩ := ht
    exact ⟨h1, h2, fun hc l hm => hwrites l hm ▸ h3 hc⟩

/-- ACQ and REL: their checks, and the access under way. -/
theorem object_rule (s : State) (h : Hdr) (d a : Reg) (rel sc : Bool) :
    (inStep s = true → Traps s (.of .illop) (objectIssue rel h d a sc s))
    ∧ (Ready (objectNeed rel h d a s) s → ((∀ y ∈ (s.ctx s.cur).binds, y.obj ≠ rv s a) → Traps s (.of .illop) (objectIssue rel h d a sc s))) :=
  ⟨fun hi => objectIssue_eq ▸ traps_illop hi, fun hr hb => objectIssue_eq ▸ issue_trap hr (objectBody_unbound hb)⟩

/-- The bytes that an ACQ reads are those of an object of the own core. -/
theorem objectNeed_eq (s : State) (h : Hdr) (d a : Reg) (rel : Bool) :
    ({ len := 3, hdr := h, rs := [a], rd := [d], ill := inStep s
       bytes := if rel = false ∧ epNear (rv s a) = true ∧ epCore (columnOf s.cur.1) (rv s a) = s.cur.1
         then [(epAddr (rv s a) (epOff (rv s a)), 8)] else [], reading := [] } : Need) = objectNeed rel h d a s := by
  unfold objectNeed
  congr 1
  refine if_congr ?_ rfl rfl
  rw [Bool.and_eq_true, Bool.and_eq_true, Bool.not_eq_true', beq_iff_eq, and_assoc]

/-- Settles O39: fences, then BIND's operands in order, then the accesses to a bound object. -/
theorem orderingInstructions : Obligations.OrderingInstructions := by
  intro s h scope p1 p2 d a b n sc
  refine ⟨fence_rule (exec_fence _ _ _) (by cases scope <;> rfl), fence_rule (exec_fencex _ _ _ _ _) (by cases scope <;> rfl),
    fun hr => ?_, fun rel ins hm => ?_⟩
  · simp only [exec_bind]
    refine ⟨fun hx => ?_, fun ho hb hn ha => ?_, fun ho hb hn ha hz => ?_, fun ho hb ha hz => ⟨fun hn => ?_, fun hn hs => ?_, fun hn hs hl => ?_⟩⟩
    · by_cases hf : BindFits (rv s a) ∧ BindFits (rv s b)
      · rcases hx with hx | ⟨h1, h2, h3⟩
        · exact absurd hf hx
        · exact issue_trap hr (bindBody_ninth hf (bindIn_ninth h1 h2 h3))
      · exact issue_trap hr (bindBody_unfit hf)
    · obtain ⟨l, hl⟩ := bindIn_some (b := ⟨rv s a, rv s b, n, scope⟩) hn
      exact issue_trap hr ((bindBody_some ⟨ho, hb⟩ hl).trans (if_pos ha))
    · obtain ⟨l, hl⟩ := bindIn_some (b := ⟨rv s a, rv s b, n, scope⟩) hn
      exact issue_trap hr ((bindBody_some ⟨ho, hb⟩ hl).trans ((if_neg (not_not.2 ha)).trans (if_pos hz)))
    · exact bind_takes hr ⟨ho, hb⟩ ha hz (bindIn_remove hn)
    · exact bind_takes hr ⟨ho, hb⟩ ha hz (bindIn_replace hn hs)
    · exact bind_takes hr ⟨ho, hb⟩ ha hz (bindIn_add hn hs hl)
  · have hex : exec ins s = objectIssue rel h d a sc s := by
      simp only [List.mem_cons, List.not_mem_nil, or_false, Prod.mk.injEq] at hm
      rcases hm with ⟨rfl, rfl⟩ | ⟨rfl, rfl⟩
      · exact exec_acq _ _ _ _ _
      · exact exec_rel _ _ _ _ _
    rw [hex]
    obtain ⟨h1, h2⟩ := object_rule s h d a rel sc
    refine ⟨h1, fun hr => ?_⟩
    have hr' : Ready (objectNeed rel h d a s) s := by
      rw [← objectNeed_eq]
      exact hr
    exact ⟨h2 hr', object_waits hr'⟩

end Sys2Proof.Proofs
end


section
/-! PROOFS. The end of a wait (R422): what `finish` does to its context, and that it leaves everything else alone. -/

namespace Sys2Proof.Proofs

open Sys2Proof.Machine Sys2Proof.Safety Sys2Proof.Laws

/-- But for one context and the tick of its core's next issue, the machine is as before. -/
structure OnlyCtx (q : Nat × Nat) (s t : State) : Prop where
  machine  : { t with cores := [] } = { s with cores := [] }
  others   : ∀ j, j ≠ q.1 → t.core j = s.core j
  contexts : ∀ i, i ≠ q.2 → (t.core q.1).ctx i = (s.core q.1).ctx i
  rest     : { t.core q.1 with ctxs := [], ctl := { (t.core q.1).ctl with issueAt := 0 } }
    = { s.core q.1 with ctxs := [], ctl := { (s.core q.1).ctl with issueAt := 0 } }

namespace OnlyCtx

variable {q : Nat × Nat} {s t u : State}

theorem refl (q : Nat × Nat) (s : State) : OnlyCtx q s s := ⟨rfl, fun _ _ => rfl, fun _ _ => rfl, rfl⟩

theorem trans (h : OnlyCtx q s t) (g : OnlyCtx q t u) : OnlyCtx q s u :=
  ⟨g.machine.trans h.machine, fun j hj => (g.others j hj).trans (h.others j hj), fun i hi => (g.contexts i hi).trans (h.contexts i hi),
    g.rest.trans h.rest⟩

theorem near (h : OnlyCtx q s t) (j : Nat) : (t.core j).near = (s.core j).near := by
  by_cases hj : j = q.1
  · subst hj
    exact (congrArg Core.near h.rest :)
  · rw [h.others j hj]

theorem bytes (h : OnlyCtx q s t) (j b : Nat) : nearByte t j b = nearByte s j b := congrArg (fun m => sget 0 m b) (h.near j)

theorem ctx (h : OnlyCtx q s t) {p : Nat × Nat} (hp : p ≠ q) : t.ctx p = s.ctx p := by
  obtain ⟨j, i⟩ := p
  by_cases hj : j = q.1
  · subst hj
    exact h.contexts i (fun hi => hp (Prod.ext rfl hi))
  · rw [State.ctx, h.others j hj]
    rfl

theorem now (h : OnlyCtx q s t) : t.now = s.now := (congrArg State.now h.machine :)

end OnlyCtx

section
variable (q : Nat × Nat) (s : State)

theorem onlyCtx_modCtx (f : Ctx → Ctx) : OnlyCtx q s (s.modCtx q f) := by
  refine ⟨rfl, fun j hj => ?_, fun i hi => ?_, ?_⟩
  · rw [State.modCtx, core_modCore_other _ _ (Ne.symm hj)]
  · rw [State.modCtx, core_modCore_same, ctx_modCtx_other _ _ (Ne.symm hi)]
  · rw [State.modCtx, core_modCore_same]
    rfl

theorem onlyCtx_issueAt (f : Ctl → Nat) : OnlyCtx q s (s.modCtl q.1 (fun c => { c with issueAt := f c })) := by
  refine ⟨rfl, fun j hj => ?_, fun i hi => ?_, ?_⟩
  · rw [State.modCtl, core_modCore_other _ _ (Ne.symm hj)]
  · rw [State.modCtl, core_modCore_same]
    rfl
  · rw [State.modCtl, core_modCore_same]

/-- A context moves past its instruction: its place alone changes, and it runs as before. -/
theorem advance_place (len : Nat) (dest : Option (Nat × BitVec 2)) (taken : Bool) : OnlyCtx q s (s.advance q len dest taken)
    ∧ placeless ((s.advance q len dest taken).ctx q) = placeless (s.ctx q) := by
  unfold State.advance
  dsimp only
  split
  all_goals
    rw [state_ctx_modCtx_same]
    exact ⟨onlyCtx_modCtx q s _, rfl⟩

end

/-! ## Results of a wait -/

/-- The results of a wait written in its core. -/
def written (s : State) (q : Nat × Nat) (as_ : List Act) : State := s.modCore q.1 (fun c => as_.foldl (fun c a => applyAct (Machine.tierOf q.1) c q.2 a) c)

section
variable {s : State} {q : Nat × Nat} {as_ : List Act} {at_ : Nat}

/-- A wait on the core ends: the context runs on. -/
theorem finishAt_held {w : Wait} (hr : ((written s q as_).ctx q).run = .held w) : OnlyCtx q (written s q as_) (s.finishAt q as_ at_)
    ∧ placeless ((s.finishAt q as_ at_).ctx q) = placeless ((written s q as_).ctx q) ∧ ((s.finishAt q as_ at_).ctx q).run = .running := by
  unfold State.finishAt
  dsimp only
  rw [← written, hr]
  dsimp only
  obtain ⟨h1, h2⟩ := advance_place q (written s q as_)
    (match (written s q as_).storeWord q.1 ((written s q as_).ctx q).pc.toNat with
      | some (w, _) => wordCount w
      | none => 1) none false
  generalize (written s q as_).advance q _ none false = v at h1 h2 ⊢
  have h3 := onlyCtx_modCtx q v (fun x => { x with run := .running })
  rw [if_pos rfl]
  split
  · rw [state_ctx_modCtx_same]
    exact ⟨h1.trans h3, h2, rfl⟩
  · rw [modCtl_ctx, state_ctx_modCtx_same]
    exact ⟨(h1.trans h3).trans (onlyCtx_issueAt q _ _), h2, rfl⟩

/-- A wait off the core ends: c0 runs on, another context is Ready in the next cycle. -/
theorem finishAt_gated {w : Wait} (hr : ((written s q as_).ctx q).run = .gated w) : OnlyCtx q (written s q as_) (s.finishAt q as_ at_)
    ∧ placeless ((s.finishAt q as_ at_).ctx q) = placeless ((written s q as_).ctx q)
    ∧ ((s.finishAt q as_ at_).ctx q).run = (if q.2 = 0 then .running else .ready)
    ∧ (q.2 ≠ 0 → ((s.finishAt q as_ at_).ctx q).readyAt = ceilTo (cyc q.1) at_ + cyc q.1) := by
  unfold State.finishAt
  dsimp only
  rw [← written, hr]
  dsimp only
  obtain ⟨h1, h2⟩ := advance_place q (written s q as_)
    (match (written s q as_).storeWord q.1 ((written s q as_).ctx q).pc.toNat with
      | some (w, _) => wordCount w
      | none => 1) none false
  generalize (written s q as_).advance q _ none false = v at h1 h2 ⊢
  rw [if_neg Bool.false_ne_true]
  by_cases hq : q.2 = 0
  · rw [if_pos hq, if_pos hq, modCtl_ctx, state_ctx_modCtx_same]
    exact ⟨(h1.trans (onlyCtx_modCtx q v _)).trans (onlyCtx_issueAt q _ _), h2, rfl, fun h => absurd hq h⟩
  · rw [if_neg hq, if_neg hq, state_ctx_modCtx_same]
    exact ⟨h1.trans (onlyCtx_modCtx q v _), h2, rfl, fun _ => rfl⟩

end

/-! ## A scalar result -/

/-- A context with a scalar result written. -/
def putReg (tier : Nat) (d : Reg) (v : DWord) (x : Ctx) : Ctx :=
  if d = 0 then x else if d.toNat < 8 then { x with g := sset 0 x.g d.toNat v } else { x with stack := sset 0 x.stack (entryOf tier x d) v }

section
variable (tier : Nat) (d : Reg) (v : DWord) (x : Ctx)

theorem putReg_run : (putReg tier d v x).run = x.run := by
  unfold putReg
  split
  · rfl
  · split <;> rfl

/-- A scalar result writes the global registers or the stack alone. -/
theorem putReg_placeless : { placeless (putReg tier d v x) with g := [], stack := [] } = { placeless x with g := [], stack := [] } := by
  unfold putReg
  split
  · rfl
  · split <;> rfl

theorem reg_putReg (r : Reg) : (putReg tier d v x).reg tier r = if r = d ∧ d ≠ 0 then v else x.reg tier r := by
  have hz : ∀ r : Reg, r.toNat = 0 ↔ r = 0 := fun r => ⟨fun h => BitVec.eq_of_toNat_eq h, fun h => by rw [h]; rfl⟩
  have hi : ∀ r d : Reg, r.toNat = d.toNat ↔ r = d := fun r d => ⟨fun h => BitVec.eq_of_toNat_eq h, fun h => by rw [h]⟩
  unfold putReg
  by_cases hd : d = 0
  · rw [if_pos hd, if_neg (fun h => h.2 hd)]
  · rw [if_neg hd]
    by_cases h8 : d.toNat < 8
    · rw [if_pos h8]
      by_cases hr : r = d
      · subst hr
        rw [if_pos ⟨rfl, hd⟩]
        simp only [Ctx.reg, (hz r).not.2 hd, if_false, h8, if_true, sget_sset_same]
      · rw [if_neg (fun h => hr h.1)]
        simp only [Ctx.reg, sget_sset_other _ _ _ (fun h => hr ((hi r d).1 h.symm))]
        rfl
    · rw [if_neg h8]
      by_cases hr : r = d
      · subst hr
        rw [if_pos ⟨rfl, hd⟩]
        have he : entryOf tier { x with stack := sset 0 x.stack (entryOf tier x r) v } r = entryOf tier x r := rfl
        simp only [Ctx.reg, (hz r).not.2 hd, if_false, h8, he, sget_sset_same]
      · rw [if_neg (fun h => hr h.1)]
        have he : entryOf tier { x with stack := sset 0 x.stack (entryOf tier x d) v } r = entryOf tier x r := rfl
        unfold Ctx.reg
        split
        · rfl
        · split
          · rfl
          · next h0 h => rw [he, sget_sset_other _ _ _ (fun e => hr (entryOf_inj (Nat.not_lt.1 h) (Nat.not_lt.1 h8) e.symm))]

end

section
variable {s : State} {q : Nat × Nat} {d : Reg} {v : DWord}

theorem onlyCtx_written_nil : OnlyCtx q s (written s q []) ∧ (written s q []).ctx q = s.ctx q := by
  have he : (written s q []).core q.1 = s.core q.1 := core_modCore_same _ _ _
  refine ⟨⟨rfl, fun j hj => core_modCore_other _ _ (Ne.symm hj), fun i _ => by rw [he], by rw [he]⟩, ?_⟩
  rw [State.ctx, he]
  rfl

/-- A scalar result written at the end of a wait. -/
theorem written_scalar : OnlyCtx q s (written s q (scalarAct (Machine.tierOf q.1) (s.ctx q) d v))
    ∧ (written s q (scalarAct (Machine.tierOf q.1) (s.ctx q) d v)).ctx q = putReg (Machine.tierOf q.1) d v (s.ctx q) := by
  have hz : d.toNat = 0 ↔ d = 0 := ⟨fun h => BitVec.eq_of_toNat_eq h, fun h => by rw [h]; rfl⟩
  unfold scalarAct putReg
  by_cases hd : d = 0
  · rw [if_pos (hz.2 hd), if_pos hd]
    exact onlyCtx_written_nil
  · rw [if_neg (hz.not.2 hd), if_neg hd]
    split
    · exact ⟨onlyCtx_modCtx q s (fun x => { x with g := sset 0 x.g d.toNat v }), state_ctx_modCtx_same s q (fun x => { x with g := sset 0 x.g d.toNat v })⟩
    · exact ⟨onlyCtx_modCtx q s (fun x => { x with stack := sset 0 x.stack (entryOf (Machine.tierOf q.1) (s.ctx q) d) v }),
        state_ctx_modCtx_same s q (fun x => { x with stack := sset 0 x.stack (entryOf (Machine.tierOf q.1) (s.ctx q) d) v })⟩

theorem reg_placeless {x y : Ctx} (h : placeless x = placeless y) (tier : Nat) (r : Reg) : x.reg tier r = y.reg tier r := by
  have hg : x.g = y.g := (congrArg Ctx.g h :)
  have hs : x.stack = y.stack := (congrArg Ctx.stack h :)
  have hw : x.wbase = y.wbase := (congrArg Ctx.wbase h :)
  have he : entryOf tier x r = entryOf tier y r := by unfold entryOf; rw [hw]
  unfold Ctx.reg
  rw [hg, hs, he]

/-- A context's wait has ended with a value in `d`: its registers, and everything but its place and the tick of its core's next issue as before. -/
structure EndsWith (s t : State) (q : Nat × Nat) (d : Reg) (v : DWord) : Prop where
  only : OnlyCtx q s t
  regs : ∀ r, (t.ctx q).reg (Machine.tierOf q.1) r = if r = d ∧ d ≠ 0 then v else (s.ctx q).reg (Machine.tierOf q.1) r
  rest : { placeless (t.ctx q) with g := [], stack := [] } = { placeless (s.ctx q) with g := [], stack := [] }

theorem endsWith_of {t : State} (ho : OnlyCtx q (written s q (scalarAct (Machine.tierOf q.1) (s.ctx q) d v)) t)
    (hp : placeless (t.ctx q) = placeless ((written s q (scalarAct (Machine.tierOf q.1) (s.ctx q) d v)).ctx q)) : EndsWith s t q d v := by
  obtain ⟨h1, h2⟩ := written_scalar (s := s) (q := q) (d := d) (v := v)
  rw [h2] at hp
  refine ⟨h1.trans ho, fun r => (reg_placeless hp _ r).trans (reg_putReg _ _ _ _ r), ?_⟩
  rw [hp]
  exact putReg_placeless _ _ _ _

/-- The end of a wait off the core (R422). -/
theorem finish_gated {w : Wait} (hr : (s.ctx q).run = .gated w) (at_ : Nat) :
    EndsWith s (s.finishAt q (scalarAct (Machine.tierOf q.1) (s.ctx q) d v) at_) q d v
    ∧ ((s.finishAt q (scalarAct (Machine.tierOf q.1) (s.ctx q) d v) at_).ctx q).run = (if q.2 = 0 then .running else .ready)
    ∧ (q.2 ≠ 0 → ((s.finishAt q (scalarAct (Machine.tierOf q.1) (s.ctx q) d v) at_).ctx q).readyAt = ceilTo (cyc q.1) at_ + cyc q.1) := by
  have hw : ((written s q (scalarAct (Machine.tierOf q.1) (s.ctx q) d v)).ctx q).run = .gated w := by
    rw [written_scalar.2, putReg_run, hr]
  obtain ⟨h1, h2, h3, h4⟩ := finishAt_gated (at_ := at_) hw
  exact ⟨endsWith_of h1 h2, h3, h4⟩

/-- The end of a wait on the core (R422). -/
theorem finish_held {w : Wait} (hr : (s.ctx q).run = .held w) (at_ : Nat) :
    EndsWith s (s.finishAt q (scalarAct (Machine.tierOf q.1) (s.ctx q) d v) at_) q d v
    ∧ ((s.finishAt q (scalarAct (Machine.tierOf q.1) (s.ctx q) d v) at_).ctx q).run = .running := by
  have hw : ((written s q (scalarAct (Machine.tierOf q.1) (s.ctx q) d v)).ctx q).run = .held w := by
    rw [written_scalar.2, putReg_run, hr]
  obtain ⟨h1, h2, h3⟩ := finishAt_held (at_ := at_) hw
  exact ⟨endsWith_of h1 h2, h3⟩

end

end Sys2Proof.Proofs
end


section
/-! PROOFS. SLEEP, TWAIT, MARM, MWAIT and FSTAT, and the write that wakes an MWAIT (R194, R202, R203, R280, R342, R352, R353). -/

namespace Sys2Proof.Proofs

open Sys2Proof.Machine Sys2Proof.Safety Sys2Proof.Laws

/-! ## A write to a watched word (R353) -/

/-- A core whose bytes and poison a write has changed. -/
def rewritten (c : Core) (near : Sparse Byte) (poison : Sparse (BitVec 2)) : Core := { c with near := near, poison := poison }

/-- The eight bytes from an address hold no error. -/
def CleanUnit (c : Core) (w : Nat) : Prop := sget 0 c.poison (w / 4) = 0 ∧ sget 0 c.poison (w / 4 + 1) = 0

theorem cleanUnit_words {s : State} {k w : Nat} (h : CleanUnit (s.core k) w) (hw : w % 8 = 0) (i : Nat) :
    cleanWords { s with cur := (k, i) } w 8 := by
  obtain ⟨h0, h1⟩ := h
  intro j hj1 hj2
  rcases (by omega : j = w / 4 ∨ j = w / 4 + 1) with rfl | rfl
  · exact h0
  · exact h1

/-- A write of bytes that covers a unit leaves no error in it. -/
theorem cleanUnit_clearPoison {c : Core} {a n w : Nat} {near : Sparse Byte} (hw : w % 8 = 0) (h1 : a ≤ w) (h2 : w + 8 ≤ a + n) :
    CleanUnit (rewritten c near (clearPoison c.poison a n)) w := by
  refine ⟨?_, ?_⟩
  · show sget 0 (clearPoison c.poison a n) _ = 0
    rw [sget_clearPoison, if_pos (by omega)]
  · show sget 0 (clearPoison c.poison a n) _ = 0
    rw [sget_clearPoison, if_pos (by omega)]

/-- A whole store, or a port's write that delivers no poison, over a unit. -/
def CoversUnit (a : Act) (w : Nat) : Prop :=
  (∃ h : Held, a = .port h ∧ h.port ≠ 3 ∧ h.addr ≤ w ∧ w + 8 ≤ h.addr + h.bytes.length ∧ h.bad = [])
  ∨ ∃ b bs, a = .store b bs false ∧ b ≤ w ∧ w + 8 ≤ b + bs.length

theorem applyPend_covers {s : State} {k w : Nat} {p : Pend} (hc : CoversUnit p.act w) (hr : (s.core k).ctl.rmw = []) (hw : w % 8 = 0) :
    ∃ near poison, s.applyPend k p = s.setCore k (rewritten (s.core k) near poison) ∧ CleanUnit (rewritten (s.core k) near poison) w := by
  rcases hc with ⟨h, hp, hn, h1, h2, hb⟩ | ⟨a, bs, hp, h1, h2⟩
  · refine ⟨writeBytes (s.core k).near h.addr h.bytes, clearPoison (s.core k).poison h.addr h.bytes.length, ?_, cleanUnit_clearPoison hw h1 h2⟩
    simp only [State.applyPend, hp, State.modCore, Core.writeBy, hr, List.isEmpty_nil, if_true, Core.applyHeld, if_neg hn, hb, List.foldl_nil]
    rfl
  · exact ⟨_, _, applyPend_store hp hr, cleanUnit_clearPoison hw h1 h2⟩

theorem coversUnit_writes {a : Act} {w : Nat} (h : CoversUnit a w) (hw : w % 8 = 0) : a.writes (w / 8) = true := by
  rcases h with ⟨h, rfl, -, h1, h2, -⟩ | ⟨b, bs, rfl, h1, h2⟩
  · exact decide_eq_true (by omega)
  · exact decide_eq_true (by omega)

/-! ## The monitors of a core -/

/-- Only one context of the core watches a word. -/
def OnlyWatcher (s : State) (k i : Nat) : Prop := ∀ j, j ≠ i → (s.ctx (k, j)).monitor = none

/-- The look of one context's monitor. -/
def lookAt (k : Nat) (acts : List Act) (s : State) (i : Nat) : State := match (s.ctx (k, i)).monitor with
  | some a => if acts.any (Act.writes (a / 8)) then s.checkMonitor (k, i) else s
  | none => s

theorem checkMonitors_eq (s : State) (k : Nat) (acts : List Act) : s.checkMonitors k acts = [0, 1, 2, 3].foldl (lookAt k acts) s := rfl

theorem lookAt_unwatched {s : State} {k i j : Nat} {acts : List Act} (h : OnlyWatcher s k i) (hj : j ≠ i) : lookAt k acts s j = s := by
  rw [lookAt, h j hj]

/-- With one watcher, the monitors of a core are that context's look. -/
theorem checkMonitors_one {s : State} {k i : Nat} {acts : List Act} (hi : i ∈ [1, 2, 3]) (h : OnlyWatcher s k i)
    (h' : OnlyWatcher (lookAt k acts s i) k i) : s.checkMonitors k acts = lookAt k acts s i := by
  rw [checkMonitors_eq]
  simp only [List.mem_cons, List.not_mem_nil, or_false] at hi
  simp only [List.foldl_cons, List.foldl_nil]
  rcases hi with rfl | rfl | rfl
  · rw [lookAt_unwatched h (by decide), lookAt_unwatched h' (by decide), lookAt_unwatched h' (by decide)]
  · rw [lookAt_unwatched h (by decide), lookAt_unwatched h (by decide), lookAt_unwatched h' (by decide)]
  · rw [lookAt_unwatched h (by decide), lookAt_unwatched h (by decide), lookAt_unwatched h (by decide)]

theorem onlyWatcher_of {s t : State} {k i : Nat} (ho : OnlyCtx (k, i) s t) (h : OnlyWatcher s k i) : OnlyWatcher t k i := fun j hj => by
  rw [ho.ctx (fun e => hj (Prod.mk.inj e).2)]
  exact h j hj

section
variable {s : State} {k i w : Nat} {d : Reg} {v : DWord} {ne : Bool} (hg : (s.ctx (k, i)).run = .gated (.mwait d v ne))
  (hm : (s.ctx (k, i)).monitor = some w) (hc : CleanUnit (s.core k) w) (hw : w % 8 = 0)

include hg hm hc hw

/-- A Gated MWAIT looks at a word without an error: it ends or goes on waiting (R353). -/
theorem checkMonitor_clean : s.checkMonitor (k, i) = if mwaitHolds ne (BitVec.ofNat 64 (coreNat s k w 8)) v
    then s.finishAt (k, i) (scalarAct (Machine.tierOf k) (s.ctx (k, i)) d (BitVec.ofNat 64 (coreNat s k w 8))) s.now else s := by
  have hclean := cleanUnit_words (s := s) hc hw i
  have hcorr : s.correct k w 8 = s := by
    have h0 : (s.core k).softWords w 8 = 0 := softWords_clean (s := { s with cur := (k, i) }) hclean
    rw [State.correct, h0]
    rfl
  have hbad : (s.core k).badIn w 8 = none := badIn_eq_none (s := { s with cur := (k, i) }) (readable_of_clean hclean)
  unfold State.checkMonitor
  dsimp only
  have hg' : ((s.core k).ctx i).run = .gated (.mwait d v ne) := hg
  have hm' : ((s.core k).ctx i).monitor = some w := hm
  rw [hg', hm']
  dsimp only
  rw [hcorr, hbad, ← readNat_eq_coreNat]
  rfl

end

/-- MWAIT's condition as the statement puts it. -/
theorem mwaitHolds_iff (ne : Bool) (m v : DWord) :
    mwaitHolds ne m v = true ↔ (if ne = true then m ≠ v else v.toNat % 2 ^ 48 ≤ m.toNat % 2 ^ 48) := by
  cases ne with
  | true => exact bne_iff_ne
  | false =>
    rw [mwaitHolds, if_neg Bool.false_ne_true, if_neg Bool.false_ne_true, decide_eq_true_eq, BitVec.le_def, BitVec.extractLsb'_toNat,
      BitVec.extractLsb'_toNat]
    simp

/-- A core with one result under way that is due: it takes effect, and the monitors look. -/
theorem settle_single {s : State} {k u : Nat} {p : Pend} (hp : (s.core k).pend = [p]) (hu : p.due ≤ u) {v : State}
    (hv : (s.modCore k (fun c => { c with pend := [] })).applyPend k p = v) (hn : (v.core k).pend = []) :
    s.settle k u = v.checkMonitors k [p.act] := by
  have hs : s.settleN k u (fun _ => true) 66 = v := by
    rw [State.settleN, hp]
    simp only [hu, and_self, if_true, hv]
    rw [State.settleN, hn]
  rw [State.settle, hp]
  simp only [hu, if_true, List.length_singleton, List.filter_cons, decide_true, List.filter_nil, List.map_cons, List.map_nil]
  rw [hs]

/-- The state behind the write to a watched word, before the monitors look. -/
theorem written_unit {s : State} {k u w : Nat} {p : Pend} (hp : (s.core k).pend = [p]) (hu : p.due ≤ u) (hc : CoversUnit p.act w)
    (hr : (s.core k).ctl.rmw = []) (hw : w % 8 = 0) : ∃ v : State, s.settle k u = v.checkMonitors k [p.act]
      ∧ CleanUnit (v.core k) w ∧ (∀ i, v.ctx (k, i) = s.ctx (k, i)) ∧ v.now = s.now := by
  have hcore : (s.modCore k (fun c => { c with pend := [] })).core k = { s.core k with pend := [] } := core_modCore_same _ _ _
  obtain ⟨near, poison, he, hclean⟩ := applyPend_covers (s := s.modCore k (fun c => { c with pend := [] })) (p := p) hc (by rw [hcore]; exact hr) hw
  have hv : ((s.modCore k (fun c => { c with pend := [] })).setCore k (rewritten ((s.modCore k (fun c => { c with pend := [] })).core k) near poison)).core k
      = rewritten { s.core k with pend := [] } near poison := by rw [core_setCore, if_pos rfl, hcore]
  refine ⟨_, settle_single hp hu he (by rw [hv]; rfl), ?_, fun i => ?_, rfl⟩
  · rw [hv, ← hcore]
    exact hclean
  · rw [State.ctx, hv]
    rfl

/-- What MWAIT's condition asks of the word. -/
def MwaitHolds (ne : Bool) (now v : DWord) : Prop := if ne = true then now ≠ v else v.toNat % 2 ^ 48 ≤ now.toNat % 2 ^ 48

/-- A write to a watched word wakes its Gated MWAIT, or leaves it (R353). -/
theorem settle_wakes {s : State} {k i u w : Nat} {p : Pend} {d : Reg} {v : DWord} {ne : Bool} (hi : i ∈ [1, 2, 3]) (hp : (s.core k).pend = [p])
    (hu : p.due ≤ u) (hc : CoversUnit p.act w) (hr : (s.core k).ctl.rmw = []) (hg : (s.ctx (k, i)).run = .gated (.mwait d v ne))
    (hm : (s.ctx (k, i)).monitor = some w) (hw : w % 8 = 0) (ho : OnlyWatcher s k i) :
    (MwaitHolds ne (BitVec.ofNat 64 (coreNat (s.settle k u) k w 8)) v →
      ((s.settle k u).ctx (k, i)).run = .ready ∧ ((s.settle k u).ctx (k, i)).readyAt = ceilTo (cyc k) s.now + cyc k
      ∧ { placeless ((s.settle k u).ctx (k, i)) with g := [], stack := [] } = { placeless (s.ctx (k, i)) with g := [], stack := [] }
      ∧ ∀ r, ((s.settle k u).ctx (k, i)).reg (Machine.tierOf k) r = if r = d ∧ d ≠ 0 then BitVec.ofNat 64 (coreNat (s.settle k u) k w 8)
          else (s.ctx (k, i)).reg (Machine.tierOf k) r)
    ∧ (¬ MwaitHolds ne (BitVec.ofNat 64 (coreNat (s.settle k u) k w 8)) v → (s.settle k u).ctx (k, i) = s.ctx (k, i)) := by
  obtain ⟨x, hx, hclean, hctx, hnow⟩ := written_unit hp hu hc hr hw
  have hg' : (x.ctx (k, i)).run = .gated (.mwait d v ne) := by rw [hctx, hg]
  have hm' : (x.ctx (k, i)).monitor = some w := by rw [hctx, hm]
  have hox : OnlyWatcher x k i := fun j hj => by rw [hctx, ho j hj]
  have hlook : lookAt k [p.act] x i = if mwaitHolds ne (BitVec.ofNat 64 (coreNat x k w 8)) v
      then x.finishAt (k, i) (scalarAct (Machine.tierOf k) (x.ctx (k, i)) d (BitVec.ofNat 64 (coreNat x k w 8))) x.now else x := by
    rw [lookAt, hm']
    refine (if_pos ?_).trans (checkMonitor_clean hg' hm' hclean hw)
    rw [List.any_cons, coversUnit_writes hc hw]
    rfl
  obtain ⟨h1, h2, h3⟩ := finish_gated (d := d) (v := BitVec.ofNat 64 (coreNat x k w 8)) hg' x.now
  have honly : OnlyCtx (k, i) x (lookAt k [p.act] x i) := by
    rw [hlook]
    split
    · exact h1.only
    · exact OnlyCtx.refl _ _
  have ht : s.settle k u = lookAt k [p.act] x i := hx.trans (checkMonitors_one hi hox (onlyWatcher_of honly hox))
  have hword : coreNat (s.settle k u) k w 8 = coreNat x k w 8 := by
    rw [ht, ← readNat_eq_coreNat, ← readNat_eq_coreNat, Core.readNat, Core.readNat, Core.readN, Core.readN, honly.near]
  have hi0 : i ≠ 0 := fun h => by subst h; exact absurd hi (by decide)
  rw [hword, ht, hlook]
  refine ⟨fun hh => ?_, fun hh => ?_⟩
  · rw [if_pos ((mwaitHolds_iff _ _ _).2 hh)]
    refine ⟨h2.trans (if_neg hi0), ?_, ?_, fun r => ?_⟩
    · rw [h3 hi0, hnow]
    · rw [h1.rest, hctx]
    · rw [h1.regs r, hctx]
  · rw [if_neg (fun h => hh ((mwaitHolds_iff _ _ _).1 h)), hctx]

/-! ## Off the core -/

/-- The context stands off its core with a wait. -/
def Gates (s t : State) (w : Wait) : Prop := (t.ctx s.cur).run = .gated w ∧ (t.ctx s.cur).pc = (s.ctx s.cur).pc
  ∧ ((s.core s.cur.1).ctl.turn = some s.cur.2 → (t.core s.cur.1).ctl.turn = none)

theorem leave_turn {c : Ctl} {i t : Nat} (h : c.turn = some i) : (c.leave i t).turn = none := by
  rw [Ctl.leave, if_pos h]

theorem retire_gate (n : Need) (u : State) (w : Wait) : Gates u (retire n ⟨u, .gate w⟩ true) w := by
  let v := u.modCtl u.cur.1 (fun c => c.touch n.unit u.now (cyc u.cur.1) (u.now + n.occ * cyc u.cur.1))
  have he : retire n ⟨u, .gate w⟩ true = v.gateCtx v.cur w n.occ := rfl
  have hx : (v.ctx v.cur).pc = (u.ctx u.cur).pc := congrArg Ctx.pc (modCtl_ctx u u.cur.1 _ u.cur)
  rw [he]
  refine ⟨?_, ?_, fun h => ?_⟩
  · exact congrArg Ctx.run (gateCtx_ctx v w n.occ)
  · exact (congrArg Ctx.pc (gateCtx_ctx v w n.occ)).trans hx
  · have ht : (v.core v.cur.1).ctl.turn = some v.cur.2 := by
      rw [show v.core v.cur.1 = _ from core_modCore_same _ _ _]
      exact (touch_turn _ _ _ _ _).trans h
    rw [State.gateCtx]
    rw [show (v.modCore v.cur.1 _).core u.cur.1 = _ from core_modCore_same _ _ _]
    exact leave_turn ht

section
variable {nd : Need} {body : State → Except Trap Done} {s u : State} {w : Writes} {P : State → Prop} {wt : Wait}

/-- A ready instruction that leaves the core: the state behind it, with the words corrected in what it read. -/
theorem gate_counted (hr : Ready nd s) (hb : body s = .ok ⟨s, .gate wt⟩)
    (hP : ∀ t, Frame {} (s.count s.cur.1 (nd.soft s)) t → Gates s t wt → P t) : Answers (issue nd body s) P := by
  have hcur : (s.count s.cur.1 (nd.soft s)).cur = s.cur := count_cur _ _ _
  have hg := retire_gate { nd with unit := idleUnit nd s } (s.count s.cur.1 (nd.soft s)) wt
  refine ⟨_, issue_ready hr hb, hP _ (Frame_retire _ _ (.gate wt) true (by simp)) ?_⟩
  rw [Gates, hcur, count_core, State.ctx, State.ctx, count_core] at hg
  exact hg

/-- A ready instruction that leaves the core, and what it left beside. -/
theorem gate_issue (hr : Ready nd s) (hb : body s = .ok ⟨u, .gate wt⟩) (hs : nd.soft s = 0) (hf : Frame w s u)
    (hc : u.cores = s.cores) (hP : ∀ t, Frame w s t → Frame {} u t → Gates s t wt → P t) : Answers (issue nd body s) P := by
  have hrt := Frame_retire { nd with unit := idleUnit nd s } u (.gate wt) true (by simp)
  have hg := retire_gate { nd with unit := idleUnit nd s } u wt
  have hcore : u.core s.cur.1 = s.core s.cur.1 := congrArg (fun cs => sget Core.reset cs s.cur.1) hc
  refine ⟨_, issue_clean hr hb hs, hP _ (Frame_trans hf (Frame_weaken hrt)) hrt ?_⟩
  rw [Gates, hf.cur, ctx_of_cores hc, hcore] at hg
  exact hg

end

/-! ## Durations (R280) -/

/-- The cycles of a count: the fewest that hold it. -/
theorem ceilDiv_spec {a b : Nat} (hb : 0 < b) : a ≤ ceilDiv a b * b ∧ (ceilDiv a b ≠ 0 → (ceilDiv a b - 1) * b < a) := by
  have h1 := Nat.div_add_mod (a + (b - 1)) b
  have h2 := Nat.mod_lt (a + (b - 1)) hb
  rw [ceilDiv]
  generalize (a + (b - 1)) / b = n at *
  rw [Nat.mul_comm] at h1
  refine ⟨by omega, fun hn => ?_⟩
  obtain ⟨m, rfl⟩ := Nat.exists_eq_succ_of_ne_zero hn
  rw [Nat.succ_mul] at h1
  rw [Nat.succ_sub_one]
  omega

/-- The tick at which a duration has run out. -/
def RunsOut (s : State) (v : DWord) (at_ : Nat) : Prop := ∃ cycles, at_ = s.now + cycles * cyc s.cur.1
  ∧ v.toNat * nsUnit ≤ cycles * cyc s.cur.1 * tickUnits s.dev.power.cur
  ∧ (cycles ≠ 0 → (cycles - 1) * cyc s.cur.1 * tickUnits s.dev.power.cur < v.toNat * nsUnit)

theorem countEnd_runsOut {s : State} (v : DWord) (h : 0 < tickUnits s.dev.power.cur) :
    RunsOut s v (s.countEnd s.cur.1 (v.toNat * nsUnit) s.now) := by
  have hb : 0 < s.cycleUnits s.cur.1 := Nat.mul_pos (cyc_pos _) h
  obtain ⟨h1, h2⟩ := ceilDiv_spec (a := v.toNat * nsUnit) hb
  refine ⟨_, rfl, ?_, fun hn => ?_⟩
  · rw [Nat.mul_assoc]
    exact h1
  · rw [Nat.mul_assoc]
    exact h2 hn

theorem durationOf_long {v : DWord} (h : 2 ^ 40 ≤ v.toNat) : durationOf v = .error (.of .illop) := if_pos h

theorem durationOf_ok {v : DWord} (h : v.toNat < 2 ^ 40) : durationOf v = .ok (v.toNat * nsUnit) := if_neg (Nat.not_le.2 h)

/-! ## SLEEP and TWAIT -/

/-- The effect of SLEEP. -/
def sleepBody (a : Reg) (s : State) : Except Trap Done := do
  let r ← durationOf (rv s a)
  .ok ⟨s.post (s.countEnd s.cur.1 r s.now) (.sleepExpiry s.cur.1 s.cur.2), .gate (.sleep r s.now)⟩

/-- The effect of TWAIT. -/
def twaitBody (d a : Reg) (b : MsgReg) (s : State) : Except Trap Done := do
  let r ← durationOf (rv s a)
  let m := (s.ctx s.cur).msg b
  if m.full then done s 1 (toReg s d 0)
  else if m.ffull then done s 1 (toReg s d 2)
  else .ok ⟨s.post (s.countEnd s.cur.1 r s.now) (.twaitExpiry s.cur.1 s.cur.2), .gate (.twait d b r s.now)⟩

/-- What passes between agents hidden. -/
def sendWrites : Writes := { machine := sending }

section
variable {s : State} {h : Hdr} {d a : Reg} {m : MsgReg}

theorem execSleep_eq : execSleep h a s = issue { len := 3, hdr := h, rs := [a], ill := inStep s } (sleepBody a) s := rfl

theorem execTwait_eq : execTwait h d a m s = issue { len := 3, hdr := h, rs := [a], rd := [d], ill := inStep s } (twaitBody d a m) s := rfl

theorem sleepBody_error {tr : Trap} (he : durationOf (rv s a) = .error tr) : sleepBody a s = .error tr := by
  rw [sleepBody, he]
  rfl

theorem sleepBody_ok {r : Nat} (he : durationOf (rv s a) = .ok r) : sleepBody a s
    = .ok ⟨s.post (s.countEnd s.cur.1 r s.now) (.sleepExpiry s.cur.1 s.cur.2), .gate (.sleep r s.now)⟩ := by
  rw [sleepBody, he]
  rfl

theorem twaitBody_error {tr : Trap} (he : durationOf (rv s a) = .error tr) : twaitBody d a m s = .error tr := by
  rw [twaitBody, he]
  rfl

theorem twaitBody_ok {r : Nat} (he : durationOf (rv s a) = .ok r) : twaitBody d a m s =
    if ((s.ctx s.cur).msg m).full then done s 1 (toReg s d 0)
    else if ((s.ctx s.cur).msg m).ffull then done s 1 (toReg s d 2)
    else .ok ⟨s.post (s.countEnd s.cur.1 r s.now) (.twaitExpiry s.cur.1 s.cur.2), .gate (.twait d m r s.now)⟩ := by
  rw [twaitBody, he]
  rfl

theorem sleep_rule (hr : Ready { len := 3, hdr := h, rs := [a], ill := inStep s } s) (hu : 0 < tickUnits s.dev.power.cur) :
    (2 ^ 40 ≤ (rv s a).toNat → Traps s (.of .illop) (execSleep h a s))
    ∧ ((rv s a).toNat < 2 ^ 40 → Answers (execSleep h a s) (fun t => Frame sendWrites s t
      ∧ Gates s t (.sleep ((rv s a).toNat * nsUnit) s.now) ∧ ∃ at_, RunsOut s (rv s a) at_ ∧ Posts s t at_ (.sleepExpiry s.cur.1 s.cur.2))) := by
  rw [execSleep_eq]
  refine ⟨fun hv => issue_trap hr (sleepBody_error (durationOf_long hv)), fun hv => ?_⟩
  refine gate_issue (w := sendWrites) hr (sleepBody_ok (durationOf_ok hv)) (soft_nil rfl) (Frame_machine rfl rfl rfl) rfl (fun t hf ht hg => ?_)
  exact ⟨hf, hg, _, countEnd_runsOut _ hu, agenda_frame ht⟩

theorem twait_rule (hr : Ready { len := 3, hdr := h, rs := [a], rd := [d], ill := inStep s } s) (hu : 0 < tickUnits s.dev.power.cur) :
    (2 ^ 40 ≤ (rv s a).toNat → Traps s (.of .illop) (execTwait h d a m s))
    ∧ ((rv s a).toNat < 2 ^ 40 → ((s.ctx s.cur).msg m).full = true → GivesScalar s 1 d 0 (execTwait h d a m s))
    ∧ ((rv s a).toNat < 2 ^ 40 → ((s.ctx s.cur).msg m).full = false → ((s.ctx s.cur).msg m).ffull = true →
      GivesScalar s 1 d 2 (execTwait h d a m s))
    ∧ ((rv s a).toNat < 2 ^ 40 → ((s.ctx s.cur).msg m).full = false → ((s.ctx s.cur).msg m).ffull = false →
      Answers (execTwait h d a m s) (fun t => Frame sendWrites s t ∧ Gates s t (.twait d m ((rv s a).toNat * nsUnit) s.now)
        ∧ ∃ at_, RunsOut s (rv s a) at_ ∧ Posts s t at_ (.twaitExpiry s.cur.1 s.cur.2))) := by
  rw [execTwait_eq]
  refine ⟨fun hv => issue_trap hr (twaitBody_error (durationOf_long hv)), fun hv hm => ?_, fun hv hm hm' => ?_, fun hv hm hm' => ?_⟩
  · exact givesScalar_issue hr ((twaitBody_ok (durationOf_ok hv)).trans (if_pos hm)) (soft_nil rfl)
  · exact givesScalar_issue hr ((twaitBody_ok (durationOf_ok hv)).trans ((if_neg (by rw [hm]; exact Bool.noConfusion)).trans (if_pos hm'))) (soft_nil rfl)
  · refine gate_issue (w := sendWrites) hr ((twaitBody_ok (durationOf_ok hv)).trans ((if_neg (by rw [hm]; exact Bool.noConfusion)).trans
      (if_neg (by rw [hm']; exact Bool.noConfusion)))) (soft_nil rfl) (Frame_machine rfl rfl rfl) rfl (fun t hf ht hg => ?_)
    exact ⟨hf, hg, _, countEnd_runsOut _ hu, agenda_frame ht⟩

end

/-! ## MARM (R202) -/

/-- The effect of MARM. -/
def marmBody (a : Reg) (s : State) : Except Trap Done :=
  let addr := (rv s a).toNat
  if addr % 8 ≠ 0 then .error ⟨.align, 0, rv s a, false⟩
  else if addr < Config.bankBase ∨ Config.statusBase s.tier + 32 ≤ addr then .error ⟨.bankrange, 0, rv s a, false⟩
  else .ok ⟨s.modCtx s.cur (fun x => { x with monitor := some addr }), .next⟩

/-- The monitor of the context hidden. -/
def monitorWrites : Writes := { ctx := fun x => { x with monitor := none } }

section
variable {s : State} {h : Hdr} {a : Reg}

theorem execMarm_eq : execMarm h a s = issue { len := 3, hdr := h, rs := [a] } (marmBody a) s := rfl

theorem marm_rule (hr : Ready { len := 3, hdr := h, rs := [a] } s) :
    ((rv s a).toNat % 8 ≠ 0 → Traps s ⟨.align, 0, rv s a, false⟩ (execMarm h a s))
    ∧ ((rv s a).toNat % 8 = 0 → (rv s a).toNat < Config.bankBase ∨ Config.statusBase s.tier + 32 ≤ (rv s a).toNat →
      Traps s ⟨.bankrange, 0, rv s a, false⟩ (execMarm h a s))
    ∧ ((rv s a).toNat % 8 = 0 → Config.bankBase ≤ (rv s a).toNat → (rv s a).toNat < Config.statusBase s.tier + 32 →
      Answers (execMarm h a s) (fun t => Frame monitorWrites s t ∧ (t.ctx s.cur).monitor = some (rv s a).toNat)) := by
  rw [execMarm_eq]
  refine ⟨fun h0 => issue_trap hr (if_pos h0), fun h0 hb => issue_trap hr ((if_neg (not_not.2 h0)).trans (if_pos hb)), fun h0 h1 h2 => ?_⟩
  have hb : marmBody a s = .ok ⟨s.modCtx s.cur (fun x => { x with monitor := some (rv s a).toNat }), .next⟩ :=
    (if_neg (not_not.2 h0)).trans (if_neg (not_or.2 ⟨Nat.not_lt.2 h1, Nat.not_le.2 h2⟩))
  refine next_issue (w := monitorWrites) hr hb (soft_nil rfl) (Frame_ctx _ (fun _ => rfl)) (fun t hf ht => ⟨hf, ?_⟩)
  have hx := (congrArg Ctx.monitor ht.context :)
  rw [show (s.modCtx s.cur (fun x => { x with monitor := some (rv s a).toNat })).cur = s.cur from rfl, state_ctx_modCtx_same] at hx
  exact hx

end

/-! ## MWAIT (R203, R352) -/

/-- The effect of MWAIT on a word. -/
def mwaitBody (d a : Reg) (ne : Bool) (w : Nat) (s : State) : Except Trap Done := do
  let bs ← readNear s w 8
  let v := BitVec.ofNat 64 (leNat bs)
  if mwaitHolds ne v (rv s a) then done s (Config.bankLatency s.tier) (toReg s d v)
  else .ok ⟨s, .gate (.mwait d (rv s a) ne)⟩

/-- The effect of MWAIT, armed or not. -/
def mwaitAny (d a : Reg) (ne : Bool) (s : State) : Except Trap Done := match (s.ctx s.cur).monitor with
  | none => .error (.of .illop)
  | some w => mwaitBody d a ne w s

section
variable {s : State} {h : Hdr} {d a : Reg} {ne : Bool} {w : Nat}

theorem execMwait_unarmed (hm : (s.ctx s.cur).monitor = none) : Traps s (.of .illop) (execMwait h d a ne s) :=
  traps_illop (by rw [hm]; exact Bool.or_true _)

theorem execMwait_inStep (hi : inStep s = true) : Traps s (.of .illop) (execMwait h d a ne s) :=
  traps_illop (by rw [hi]; rfl)

/-- An armed MWAIT issues as one that reads its word. -/
theorem execMwait_eq (hm : (s.ctx s.cur).monitor = some w) : execMwait h d a ne s
    = issue { len := 3, hdr := h, rs := [a], rd := [d], ill := inStep s, bytes := [(w, 8)] } (mwaitAny d a ne) s := by
  unfold execMwait
  rw [hm, show (inStep s || (some w).isNone) = inStep s from Bool.or_false _]
  rfl

theorem mwaitAny_eq (hm : (s.ctx s.cur).monitor = some w) : mwaitAny d a ne s = mwaitBody d a ne w s := by
  rw [mwaitAny, hm]

theorem mwaitBody_bad {bad : Nat} (hb : firstBadWord s w 8 bad) : mwaitBody d a ne w s = .error (eccuOf s bad) := by
  rw [mwaitBody, readNear_bad hb]
  rfl

theorem mwaitBody_ok (hb : readable s w 8) : mwaitBody d a ne w s =
    if mwaitHolds ne (BitVec.ofNat 64 (nearNat s w 8)) (rv s a)
    then done s (Config.bankLatency s.tier) (toReg s d (BitVec.ofNat 64 (nearNat s w 8))) else .ok ⟨s, .gate (.mwait d (rv s a) ne)⟩ := by
  have hn : nearNat s w 8 = leNat ((s.core s.cur.1).readN w 8) := (readNat_eq_coreNat _ _ _ _).symm
  rw [mwaitBody, readNear_readable hb, hn]
  rfl

theorem mwait_rule (hm : (s.ctx s.cur).monitor = some w)
    (hr : Ready { len := 3, hdr := h, rs := [a], rd := [d], ill := inStep s, bytes := [(w, 8)] } s) :
    (∀ bad, firstBadWord s w 8 bad → Traps s (eccuOf s bad) (execMwait h d a ne s))
    ∧ (cleanWords s w 8 →
      (MwaitHolds ne (BitVec.ofNat 64 (nearNat s w 8)) (rv s a) →
        GivesScalar s (Config.bankLatency s.tier) d (BitVec.ofNat 64 (nearNat s w 8)) (execMwait h d a ne s))
      ∧ (¬ MwaitHolds ne (BitVec.ofNat 64 (nearNat s w 8)) (rv s a) →
        Answers (execMwait h d a ne s) (fun t => Frame {} s t ∧ Gates s t (.mwait d (rv s a) ne))))
    ∧ (readable s w 8 →
      (MwaitHolds ne (BitVec.ofNat 64 (nearNat s w 8)) (rv s a) →
        GivesCounted s (Config.bankLatency s.tier) (toReg s d (BitVec.ofNat 64 (nearNat s w 8))) (softCount s w 8) (execMwait h d a ne s))
      ∧ (¬ MwaitHolds ne (BitVec.ofNat 64 (nearNat s w 8)) (rv s a) → Answers (execMwait h d a ne s) (fun t =>
        Frame { machine := colless } s t ∧ Counts s t (softCount s w 8) ∧ Gates s t (.mwait d (rv s a) ne)))) := by
  have hb := mwaitAny_eq (d := d) (a := a) (ne := ne) hm
  have hsoft : ({ len := 3, hdr := h, rs := [a], rd := [d], ill := inStep s, bytes := [(w, 8)] } : Need).soft s = softCount s w 8 := Nat.zero_add _
  have hh := mwaitHolds_iff ne (BitVec.ofNat 64 (nearNat s w 8)) (rv s a)
  rw [execMwait_eq hm]
  refine ⟨fun bad hbad => issue_trap hr (hb.trans (mwaitBody_bad hbad)), fun hc => ⟨fun hx => ?_, fun hx => ?_⟩, fun hc => ⟨fun hx => ?_, fun hx => ?_⟩⟩
  · exact givesScalar_issue hr (hb.trans ((mwaitBody_ok (readable_of_clean hc)).trans (if_pos (hh.2 hx)))) (hsoft.trans (softCount_clean hc))
  · have h0 : s.count s.cur.1 0 = s := if_pos rfl
    refine gate_counted hr (hb.trans ((mwaitBody_ok (readable_of_clean hc)).trans (if_neg (fun e => hx (hh.1 e))))) (fun t hf hg => ⟨?_, hg⟩)
    rw [hsoft, softCount_clean hc, h0] at hf
    exact hf
  · have := givesCounted_issue hr (hb.trans ((mwaitBody_ok hc).trans (if_pos (hh.2 hx)))) (latency_gt_one .ownBank s.tier) (pairwise_toReg _ _ _)
    rw [hsoft] at this
    exact this
  · refine gate_counted hr (hb.trans ((mwaitBody_ok hc).trans (if_neg (fun e => hx (hh.1 e))))) (fun t hf hg => ?_)
    rw [hsoft] at hf
    exact ⟨Frame_trans (Frame_count _ _ _ _ rfl) (Frame_weaken hf), Counts_congr (Counts_count s _) rfl (fun _ => rfl) (col_frame hf), hg⟩

end

/-! ## FSTAT (R194, R342) -/

/-- The address of the flash extent that FSTAT names. -/
def extentAddr (s : State) (a : Reg) : Nat := Config.flashBase + (rv s a).toNat % 2 ^ 13 * Config.extentSize

/-- The effect of FSTAT. -/
def fstatBody (d a : Reg) (s : State) : Except Trap Done :=
  let ext := nbits (rv s a).toNat 12 0
  let pa := Config.flashBase + ext * Config.extentSize
  if !(s.part (s.partOf s.cur.1)).passes pa false then .error ⟨.farfault, tFirewall, BitVec.ofNat 64 pa, false⟩
  else
    let (num, s') := s.number
    let (l, s') := s'.draw (cyc s.cur.1)
    .ok ⟨s'.post (s.now + l) (.fstatResult s.cur.1 s.cur.2 num ext), .hold (.reply d num)⟩

section
variable {s : State} {h : Hdr} {d a : Reg}

theorem execFstat_eq : execFstat h d a s = issue { len := 3, hdr := h, rs := [a], rd := [d], ill := inStep s } (fstatBody d a) s := rfl

theorem fstat_rule (hr : Ready { len := 3, hdr := h, rs := [a], rd := [d], ill := inStep s } s) :
    ((s.part (s.partOf s.cur.1)).passes (extentAddr s a) false = false →
      Traps s ⟨.farfault, 0x04, BitVec.ofNat 64 (extentAddr s a), false⟩ (execFstat h d a s))
    ∧ ((s.part (s.partOf s.cur.1)).passes (extentAddr s a) false = true → Answers (execFstat h d a s) (fun t => Frame sendWrites s t
      ∧ Waits s t h (.reply d s.fresh)
      ∧ ∃ at_, s.now + cyc s.cur.1 ≤ at_ ∧ Posts s t at_ (.fstatResult s.cur.1 s.cur.2 s.fresh ((rv s a).toNat % 2 ^ 13)))) := by
  have hext : nbits (rv s a).toNat 12 0 = (rv s a).toNat % 2 ^ 13 := nbits_low _ _
  have hbody : fstatBody d a s = if !(s.part (s.partOf s.cur.1)).passes (extentAddr s a) false
      then .error ⟨.farfault, tFirewall, BitVec.ofNat 64 (extentAddr s a), false⟩
      else .ok ⟨({ s with fresh := s.fresh + 2 } : State).post (s.now + (cyc s.cur.1 + Config.freeLatency (s.fresh + 1)))
        (.fstatResult s.cur.1 s.cur.2 s.fresh ((rv s a).toNat % 2 ^ 13)), .hold (.reply d s.fresh)⟩ := by
    unfold fstatBody extentAddr
    rw [hext]
    rfl
  rw [execFstat_eq]
  refine ⟨fun hp => issue_trap hr (hbody.trans (if_pos (by rw [hp]; rfl))), fun hp => ?_⟩
  refine hold_issue (w := sendWrites) hr (hbody.trans (if_neg (by rw [hp]; exact Bool.noConfusion))) (soft_nil rfl) (Frame_machine rfl rfl rfl) rfl
    (fun t hf ht hw => ⟨hf, hw, _, ?_, agenda_frame ht⟩)
  exact Nat.add_le_add_left (Nat.le_add_right _ _) _

end

/-- Settles O40: the write that wakes, then each instruction's rule. -/
theorem waitingInstructions : Obligations.WaitingInstructions := by
  refine ⟨fun s k i u w p d v ne hi hp hu hc hr hg hm hw ho => settle_wakes hi hp hu hc hr hg hm hw ho, fun s h d a m ne => ?_⟩
  simp only [exec_sleep, exec_twait, exec_mwait, exec_fstat, exec_marm]
  refine ⟨fun hi => ⟨execSleep_eq ▸ traps_illop hi, execTwait_eq ▸ traps_illop hi, execMwait_inStep hi, execFstat_eq ▸ traps_illop hi⟩,
    fun hu => ⟨fun hr => sleep_rule hr hu, fun hr => twait_rule hr hu⟩, fun hr => marm_rule hr,
    ⟨fun hm => execMwait_unarmed hm, fun w hm hr => mwait_rule hm hr⟩, fun hr => fstat_rule hr⟩

end Sys2Proof.Proofs
end


section
/-! PROOFS. Engine commands at issue: the block's place and words, its fields, and the slot it takes (R195 to R206, R384). -/

namespace Sys2Proof.Proofs

open Sys2Proof.Machine Sys2Proof.Safety Sys2Proof.Laws

/-! ## The place of a command block (R197) -/

theorem localSize_aligned (t : Nat) : Config.localSize t % 64 = 0 := by
  unfold Config.localSize
  split
  · decide
  · split
    · decide
    · split <;> decide

section
variable {s : State} {cb : Nat}

theorem checkNear_block_align (h : cb % 64 ≠ 0) : checkNear s .localStore false cb 64 64 = .error (.at_ .align cb) := by
  rw [checkNear, if_pos (by omega)]
  rfl

theorem checkNear_block_range (h0 : cb % 64 = 0) (h : Config.localSize s.tier < cb + 64) :
    checkNear s .localStore false cb 64 64 = .error (.at_ .bankrange cb) := by
  have := localSize_aligned s.tier
  rw [checkNear, if_neg (by omega), if_pos (.inr (by show (Config.localSize s.tier : Int) ≤ cb; omega))]
  rfl

theorem checkNear_block_ok (h0 : cb % 64 = 0) (h : cb + 64 ≤ Config.localSize s.tier) :
    checkNear s .localStore false cb 64 64 = .ok cb := by
  have hhi : Window.hi s.tier .localStore = Config.localSize s.tier := rfl
  have hlo : Window.lo s.tier .localStore = 0 := rfl
  simp only [checkNear, hhi, hlo]
  rw [if_neg (by omega), if_neg (by omega), if_neg (by omega), if_neg (fun hx => absurd hx.2.1 (by decide)), Int.toNat_natCast]

end

/-! ## The effect of a command, in its stages -/

/-- The command's place in its lane, or the wait for one. -/
def engineTake (kind : CmdKind) (scope : Scope) (cb : Nat) (c : Cmd) (s : State) : Except Trap Done :=
  match (slotsOf (s.cur.2 == 0)).find? (fun i => ((s.col (columnOf s.cur.1)).slot i).isNone) with
  | none => if inStep s then throw (.timing 2) else .ok ⟨s, .again (s.now + cyc s.cur.1)⟩
  | some i =>
    let num := s.cmdNum
    let sl : Slot := ⟨kind, c, s.partOf s.cur.1, some s.cur, none, cb, scope, num, false, 0, 0, none, 0,
      if c.rva then [unitBase + 0x4000 + 64 * (24 * c.rvl + c.rvp)] else [], false, []⟩
    let s' := { s with cmdNum := num + 1 }
    let s' := s'.modCtx s.cur (fun y => { y with lastCmd := some (num, c.rva) })
    .ok ⟨s'.putCommand (columnOf s.cur.1) i sl, .next⟩

/-- The members of the group that a command names. -/
def groupSize (s : State) (x : Nat) : Nat := ((s.part (s.partOf s.cur.1)).members (Cmd.ofNat x).group).length

/-- The fields of a command block checked. -/
def engineFields (kind : CmdKind) (scope : Scope) (cb x : Nat) (s : State) : Except Trap Done := do
  if cmdIll kind x (groupSize s x) ∨ ((Cmd.ofNat x).rva ∧ !s.declares s.cur (Cmd.ofNat x).rvl) then throw (.of .illop)
  cmdRange kind (Cmd.ofNat x) (groupSize s x)
  engineTake kind scope cb (Cmd.ofNat x) s

/-- A command block read. -/
def engineRead (kind : CmdKind) (scope : Scope) (cb : Nat) (s : State) : Except Trap Done := do
  if inStep s ∧ storing s cb 64 then throw (.timing 2)
  let bs ← readNear s cb 64
  engineFields kind scope cb (leNat bs) s

/-- The effect of an engine command. -/
def engineBody (kind : CmdKind) (scope : Scope) (a : Reg) (s : State) : Except Trap Done := do
  let cb ← checkNear s .localStore false (rv s a).toNat 64 64
  engineRead kind scope cb s

/-- What a command needs. -/
def engineNeed (kind : CmdKind) (h : Hdr) (a : Reg) (ill : Bool) (s : State) : Need :=
  { len := 3, hdr := h, rs := [a], ill := ill, bytes := bytesAt (rv s a).toNat 64, path := some kind.path }

section
variable {kind : CmdKind} {scope : Scope} {h : Hdr} {a : Reg} {ill : State → Bool} {s : State} {cb x : Nat}

theorem engineIssue_eq : engineIssue kind scope h a ill s = issue (engineNeed kind h a (ill s) s) (engineBody kind scope a) s := rfl

theorem engineBody_error {tr : Trap} (hc : checkNear s .localStore false (rv s a).toNat 64 64 = .error tr) :
    engineBody kind scope a s = .error tr := by
  rw [engineBody, hc]
  rfl

theorem engineBody_ok (hc : checkNear s .localStore false (rv s a).toNat 64 64 = .ok cb) :
    engineBody kind scope a s = engineRead kind scope cb s := by
  rw [engineBody, hc]
  rfl

theorem engineRead_bad {w : Nat} (hst : ¬ (inStep s = true ∧ storing s cb 64 = true)) (hb : firstBadWord s cb 64 w) :
    engineRead kind scope cb s = .error (eccuOf s w) := by
  rw [engineRead, if_neg hst, readNear_bad hb]
  rfl

theorem engineRead_ok (hst : ¬ (inStep s = true ∧ storing s cb 64 = true)) (hb : readable s cb 64) :
    engineRead kind scope cb s = engineFields kind scope cb (nearNat s cb 64) s := by
  have hn : nearNat s cb 64 = leNat ((s.core s.cur.1).readN cb 64) := (readNat_eq_coreNat _ _ _ _).symm
  rw [engineRead, if_neg hst, readNear_readable hb, hn]
  rfl

/-- A command block whose fields are refused. -/
def Refused (kind : CmdKind) (s : State) (x : Nat) : Prop :=
  cmdIll kind x (groupSize s x) = true ∨ ((Cmd.ofNat x).rva = true ∧ s.declares s.cur (Cmd.ofNat x).rvl = false)

theorem engineFields_refused (hx : Refused kind s x) : engineFields kind scope cb x s = .error (.of .illop) := by
  rw [engineFields, if_pos (hx.imp id (fun h => ⟨h.1, by rw [h.2]; rfl⟩))]
  rfl

theorem not_refused (hx : ¬ Refused kind s x) :
    ¬ (cmdIll kind x (groupSize s x) = true ∨ ((Cmd.ofNat x).rva = true ∧ (!s.declares s.cur (Cmd.ofNat x).rvl) = true)) :=
  fun h => hx (h.imp id (fun h => ⟨h.1, Bool.not_eq_true' _ ▸ h.2⟩))

theorem engineFields_range {tr : Trap} (hx : ¬ Refused kind s x) (hr : cmdRange kind (Cmd.ofNat x) (groupSize s x) = .error tr) :
    engineFields kind scope cb x s = .error tr := by
  rw [engineFields, if_neg (not_refused hx), hr]
  rfl

theorem engineFields_ok (hx : ¬ Refused kind s x) (hr : cmdRange kind (Cmd.ofNat x) (groupSize s x) = .ok ()) :
    engineFields kind scope cb x s = engineTake kind scope cb (Cmd.ofNat x) s := by
  rw [engineFields, if_neg (not_refused hx), hr]
  rfl

end

/-! ## An effect with words corrected on the way (R178) -/

/-- A write of the columns' counters that the frame hides. -/
theorem Frame_counted {w : Writes} (u : State) (k hits : Nat) (hw : ∀ v : State, w.machine { v with cols := [] } = w.machine v) :
    Frame w u (u.count k hits) := by
  refine ⟨?_, count_cur _ _ _, fun j _ => by rw [count_core], fun i _ => by rw [count_core], ?_, by rw [count_core],
    fun a _ => by rw [nearByte, count_core]; rfl⟩
  · rw [← hw { u.count k hits with cores := [] }, ← hw { u with cores := [] }]
    exact congrArg w.machine (cores_count u k hits)
  · rw [State.ctx, count_core]
    rfl

/-- A ready instruction that goes on, with what it left and the words corrected in what it read. -/
theorem next_counted {nd : Need} {body : State → Except Trap Done} {s u : State} {w : Writes} {P : State → Prop} (hr : Ready nd s)
    (hb : body s = .ok ⟨u, .next⟩) (hf : Frame w s u) (hw : ∀ v : State, w.machine { v with cols := [] } = w.machine v)
    (hP : ∀ t, Frame w s t → Frame {} (u.count s.cur.1 (nd.soft s)) t → P t) : Answers (issue nd body s) P := by
  have hrt := Frame_retire { nd with unit := idleUnit nd s } (u.count s.cur.1 (nd.soft s)) .next true (by simp)
  exact ⟨_, issue_ready hr hb, hP _ (Frame_trans (Frame_trans hf (Frame_counted u _ _ hw)) (Frame_weaken hrt)) hrt⟩

/-- A ready instruction that is to issue again corrects nothing. -/
theorem again_ready {nd : Need} {body : State → Except Trap Done} {s : State} {P : State → Prop} {u : Nat} (hr : Ready nd s)
    (hb : body s = .ok ⟨s, .again u⟩) (hP : ∀ t : State, Frame {} s t → t.ctx s.cur = s.ctx s.cur → (t.core s.cur.1).ctl.issueAt = u → P t) :
    Answers (issue nd body s) P := again_issue ((issue_ready hr hb).trans rfl) hP

/-! ## The place of a command (R200, R205) -/

/-- A slot of the issuing context's lane. -/
def InLane (s : State) (i : Nat) : Prop := if s.cur.2 = 0 then i < 8 else 8 ≤ i ∧ i < 32

/-- A slot of the lane that is free. -/
def FreeSlot (s : State) (i : Nat) : Prop := InLane s i ∧ (s.col (columnOf s.cur.1)).slot i = none

section
variable {s : State}

theorem slotsOf_c0 (h : s.cur.2 = 0) : slotsOf (s.cur.2 == 0) = (List.range 8).map (fun i => 0 + i) := by
  rw [h]
  decide

theorem slotsOf_ctx (h : s.cur.2 ≠ 0) : slotsOf (s.cur.2 == 0) = (List.range 24).map (fun i => 8 + i) := by
  rw [beq_false_of_ne h]
  rfl

/-- The command takes the lowest free slot of its lane. -/
theorem lowestSlot_some {i : Nat} (hi : FreeSlot s i) (hl : ∀ j, j < i → ¬ FreeSlot s j) :
    (slotsOf (s.cur.2 == 0)).find? (fun i => ((s.col (columnOf s.cur.1)).slot i).isNone) = some i := by
  obtain ⟨hlane, hfree⟩ := hi
  have hp : ((s.col (columnOf s.cur.1)).slot i).isNone = true := by rw [hfree]; rfl
  by_cases h0 : s.cur.2 = 0
  · have hin : ∀ j, InLane s j ↔ j < 8 := fun j => by rw [InLane, if_pos h0]
    rw [slotsOf_c0 h0]
    refine find?_range_offset (Nat.zero_le _) (by rw [hin] at hlane; omega) hp (fun j _ hj => ?_)
    rw [hin] at hlane
    rw [Bool.eq_false_iff, ne_eq, Option.isNone_iff_eq_none]
    exact fun hf => hl j hj ⟨(hin j).2 (by omega), hf⟩
  · have hin : ∀ j, InLane s j ↔ 8 ≤ j ∧ j < 32 := fun j => by rw [InLane, if_neg h0]
    rw [hin] at hlane
    rw [slotsOf_ctx h0]
    refine find?_range_offset hlane.1 (by omega) hp (fun j h8 hj => ?_)
    rw [Bool.eq_false_iff, ne_eq, Option.isNone_iff_eq_none]
    exact fun hf => hl j hj ⟨(hin j).2 (by omega), hf⟩

theorem lowestSlot_none (hl : ∀ j, ¬ FreeSlot s j) :
    (slotsOf (s.cur.2 == 0)).find? (fun i => ((s.col (columnOf s.cur.1)).slot i).isNone) = none := by
  by_cases h0 : s.cur.2 = 0
  · rw [slotsOf_c0 h0]
    refine find?_range_offset_none (fun j _ hj => ?_)
    rw [Bool.eq_false_iff, ne_eq, Option.isNone_iff_eq_none]
    exact fun hf => hl j ⟨by rw [InLane, if_pos h0]; omega, hf⟩
  · rw [slotsOf_ctx h0]
    refine find?_range_offset_none (fun j h8 hj => ?_)
    rw [Bool.eq_false_iff, ne_eq, Option.isNone_iff_eq_none]
    exact fun hf => hl j ⟨by rw [InLane, if_neg h0]; omega, hf⟩

end

/-- A command in its slot. -/
def commandSlot (kind : CmdKind) (scope : Scope) (cb : Nat) (c : Cmd) (s : State) : Slot :=
  ⟨kind, c, s.partOf s.cur.1, some s.cur, none, cb, scope, s.cmdNum, false, 0, 0, none, 0,
    if c.rva then [unitBase + 0x4000 + 64 * (24 * c.rvl + c.rvp)] else [], false, []⟩

/-- The state with a command in a slot. -/
def withCommand (kind : CmdKind) (scope : Scope) (cb : Nat) (c : Cmd) (i : Nat) (s : State) : State :=
  (({ s with cmdNum := s.cmdNum + 1 } : State).modCtx s.cur (fun y => { y with lastCmd := some (s.cmdNum, c.rva) })).putCommand
    (columnOf s.cur.1) i (commandSlot kind scope cb c s)

/-- What a command writes. -/
def engineWrites : Writes where
  machine := fun s => { sending s with cols := [], cmdNum := 0, dev := { s.dev with flash := [] } }
  ctx := fun x => { x with lastCmd := none }

section
variable {kind : CmdKind} {scope : Scope} {cb : Nat} {c : Cmd} {i : Nat} {s : State}

theorem engineTake_full (hl : ∀ j, ¬ FreeSlot s j) : engineTake kind scope cb c s =
    if inStep s then .error (.timing 2) else .ok ⟨s, .again (s.now + cyc s.cur.1)⟩ := by
  rw [engineTake, lowestSlot_none hl]
  rfl

theorem engineTake_free (hi : FreeSlot s i) (hl : ∀ j, j < i → ¬ FreeSlot s j) :
    engineTake kind scope cb c s = .ok ⟨withCommand kind scope cb c i s, .next⟩ := by
  rw [engineTake, lowestSlot_some hi hl]
  rfl

/-- An install takes its place in its extent's queue. -/
def queued (sl : Slot) (col i : Nat) (u : State) : State :=
  if sl.kind = .finst then u.modExtent sl.cmd.dst.toNat (fun x => { x with queue := x.queue ++ [(col, i)] }) else u

theorem queued_other (u : State) (col : Nat) (sl : Slot) : ∃ d, queued sl col i u = { u with dev := d }
    ∧ { d with flash := [] } = { u.dev with flash := [] } := by
  unfold queued
  split
  · exact ⟨_, rfl, rfl⟩
  · exact ⟨u.dev, rfl, rfl⟩

theorem queued_extent (u : State) (col : Nat) (sl : Slot) (x : Nat) :
    (queued sl col i u).dev.extent x = if sl.kind = .finst ∧ x = sl.cmd.dst.toNat
        then { u.dev.extent x with queue := (u.dev.extent x).queue ++ [(col, i)] } else u.dev.extent x := by
  unfold queued
  by_cases hk : sl.kind = .finst
  · rw [if_pos hk, extent_modExtent]
    by_cases hx : sl.cmd.dst.toNat = x
    · rw [if_pos hx, if_pos ⟨hk, hx.symm⟩, hx]
    · rw [if_neg hx, if_neg (fun h => hx h.2.symm)]
  · rw [if_neg hk, if_neg (fun h => hk h.1)]

theorem putCommand_eq (u : State) (col : Nat) (sl : Slot) :
    u.putCommand col i sl = ((queued sl col i u).setSlot col i (some sl)).post ((queued sl col i u).now + 1) (.engineCommandStart col i) := rfl

theorem putCommand_cases (u : State) (col : Nat) (sl : Slot) : (u.putCommand col i sl).cores = u.cores ∧ (u.putCommand col i sl).cur = u.cur
    ∧ (u.putCommand col i sl).cmdNum = u.cmdNum ∧ (u.putCommand col i sl).agenda = agendaInsert ⟨u.now + 1, .engineCommandStart col i⟩ u.agenda
    ∧ (u.putCommand col i sl).cols = (u.setSlot col i (some sl)).cols
    ∧ engineWrites.machine { u.putCommand col i sl with cores := [] } = engineWrites.machine { u with cores := [] }
    ∧ ∀ x, (u.putCommand col i sl).dev.extent x = if sl.kind = .finst ∧ x = sl.cmd.dst.toNat
        then { u.dev.extent x with queue := (u.dev.extent x).queue ++ [(col, i)] } else u.dev.extent x := by
  have hx := queued_extent (i := i) u col sl
  obtain ⟨d, ho, hd⟩ := queued_other (i := i) u col sl
  rw [putCommand_eq]
  rw [ho] at hx ⊢
  refine ⟨rfl, rfl, rfl, rfl, rfl, ?_, hx⟩
  exact congrArg (fun d => { engineWrites.machine { u with cores := [] } with dev := d }) hd

theorem Frame_withCommand : Frame engineWrites s (withCommand kind scope cb c i s) := by
  obtain ⟨h1, h2, h3, h4, h5, h6, h7⟩ := putCommand_cases (i := i)
    (({ s with cmdNum := s.cmdNum + 1 } : State).modCtx s.cur (fun y => { y with lastCmd := some (s.cmdNum, c.rva) }))
    (columnOf s.cur.1) (commandSlot kind scope cb c s)
  have f1 : Frame engineWrites s { s with cmdNum := s.cmdNum + 1 } := Frame_machine rfl rfl rfl
  have f2 : Frame engineWrites { s with cmdNum := s.cmdNum + 1 }
      (({ s with cmdNum := s.cmdNum + 1 } : State).modCtx s.cur (fun y => { y with lastCmd := some (s.cmdNum, c.rva) })) :=
    Frame_ctx _ (fun _ => rfl)
  exact Frame_trans (Frame_trans f1 f2) (Frame_machine h1 h2 h6)

/-- What the state with a command holds. -/
theorem withCommand_spec : (withCommand kind scope cb c i s).cmdNum = s.cmdNum + 1
    ∧ ((withCommand kind scope cb c i s).ctx s.cur).lastCmd = some (s.cmdNum, c.rva)
    ∧ (∀ x, (withCommand kind scope cb c i s).dev.extent x = if kind = .finst ∧ x = c.dst.toNat
        then { s.dev.extent x with queue := (s.dev.extent x).queue ++ [(columnOf s.cur.1, i)] } else s.dev.extent x)
    ∧ (∀ j, (withCommand kind scope cb c i s).col j = if columnOf s.cur.1 = j then
        { s.col j with slots := sset none (s.col j).slots i (some (commandSlot kind scope cb c s)) } else s.col j)
    ∧ Posts s (withCommand kind scope cb c i s) (s.now + 1) (.engineCommandStart (columnOf s.cur.1) i) := by
  obtain ⟨h1, h2, h3, h4, h5, h6, h7⟩ := putCommand_cases (i := i)
    (({ s with cmdNum := s.cmdNum + 1 } : State).modCtx s.cur (fun y => { y with lastCmd := some (s.cmdNum, c.rva) }))
    (columnOf s.cur.1) (commandSlot kind scope cb c s)
  refine ⟨h3, ?_, h7, fun j => ?_, h4⟩
  · have hx := congrArg Ctx.lastCmd (ctx_of_cores h1 s.cur)
    rw [state_ctx_modCtx_same] at hx
    exact hx
  · refine (congrArg (fun cs => sget Column.reset cs j) h5).trans ?_
    refine (col_modCol _ _ _ _).trans ?_
    by_cases hj : columnOf s.cur.1 = j
    · rw [if_pos hj, if_pos hj, ← hj]
      rfl
    · rw [if_neg hj, if_neg hj]
      rfl

end

/-- What a command leaves when it takes a slot. -/
structure CommandTaken (kind : CmdKind) (scope : Scope) (cb i : Nat) (c : Cmd) (s t : State) : Prop where
  frame   : Frame engineWrites s t
  number  : t.cmdNum = s.cmdNum + 1
  last    : (t.ctx s.cur).lastCmd = some (s.cmdNum, c.rva)
  extents : ∀ x, t.dev.extent x = if kind = .finst ∧ x = c.dst.toNat
    then { s.dev.extent x with queue := (s.dev.extent x).queue ++ [(columnOf s.cur.1, i)] } else s.dev.extent x
  others  : ∀ j, j ≠ columnOf s.cur.1 → t.col j = s.col j
  column  : { t.col (columnOf s.cur.1) with slots := [] }
    = { s.col (columnOf s.cur.1) with slots := [], corrected := (s.col (columnOf s.cur.1)).corrected + softCount s cb 64 }
  slots   : ∀ j, j ≠ i → (t.col (columnOf s.cur.1)).slot j = (s.col (columnOf s.cur.1)).slot j
  slot    : (t.col (columnOf s.cur.1)).slot i = some (commandSlot kind scope cb c s)
  posted  : Posts s t (s.now + 1) (.engineCommandStart (columnOf s.cur.1) i)

theorem slot_replaced (c : Column) (i : Nat) (x : Option Slot) {n : Nat} :
    ({ c with slots := sset none c.slots i x, corrected := n } : Column).slot i = x := sget_sset_same none c.slots i x

theorem slot_replaced_other (c : Column) {i j : Nat} (x : Option Slot) {n : Nat} (h : i ≠ j) :
    ({ c with slots := sset none c.slots i x, corrected := n } : Column).slot j = c.slot j := sget_sset_other none c.slots x h

theorem dev_count (s : State) (k hits : Nat) : (s.count k hits).dev = s.dev ∧ (s.count k hits).cmdNum = s.cmdNum
    ∧ (s.count k hits).agenda = s.agenda := by
  unfold State.count
  split <;> exact ⟨rfl, rfl, rfl⟩

theorem command_issue {kind : CmdKind} {scope : Scope} {nd : Need} {body : State → Except Trap Done} {s : State} {cb i : Nat} {c : Cmd}
    (hr : Ready nd s) (hs : nd.soft s = softCount s cb 64) (hb : body s = .ok ⟨withCommand kind scope cb c i s, .next⟩) :
    Answers (issue nd body s) (CommandTaken kind scope cb i c s) := by
  obtain ⟨h1, h2, h3, h4, h5⟩ := withCommand_spec (kind := kind) (scope := scope) (cb := cb) (c := c) (i := i) (s := s)
  refine next_counted (w := engineWrites) hr hb Frame_withCommand (fun _ => rfl) (fun t hf ht => ?_)
  rw [hs] at ht
  have hcur : ((withCommand kind scope cb c i s).count s.cur.1 (softCount s cb 64)).cur = s.cur := by
    rw [count_cur]
    exact (Frame_withCommand (kind := kind) (scope := scope) (cb := cb) (c := c) (i := i)).cur
  obtain ⟨c1, c2, c3⟩ := dev_count (withCommand kind scope cb c i s) s.cur.1 (softCount s cb 64)
  have hcol : ∀ j, t.col j = if columnOf s.cur.1 = j then
      { s.col j with slots := sset none (s.col j).slots i (some (commandSlot kind scope cb c s)),
                     corrected := (s.col j).corrected + softCount s cb 64 } else s.col j := by
    intro j
    rw [col_frame ht, col_count]
    by_cases hj : j = columnOf s.cur.1
    · rw [if_pos hj, if_pos hj.symm, h4, if_pos hj.symm]
    · rw [if_neg hj, if_neg (Ne.symm hj), h4, if_neg (Ne.symm hj)]
  refine ⟨hf, ?_, ?_, fun x => ?_, fun j hj => ?_, ?_, fun j hj => ?_, ?_, ?_⟩
  · exact ((congrArg State.cmdNum ht.machine :)).trans (c2.trans h1)
  · have hx := (congrArg Ctx.lastCmd ht.context :)
    rw [hcur, State.ctx, State.ctx, count_core] at hx
    exact hx.trans h2
  · have hd : t.dev = (withCommand kind scope cb c i s).dev := ((congrArg State.dev ht.machine :)).trans c1
    rw [hd]
    exact h3 x
  · rw [hcol, if_neg (Ne.symm hj)]
  · rw [hcol, if_pos rfl]
  · rw [hcol, if_pos rfl]
    exact slot_replaced_other _ _ (Ne.symm hj)
  · rw [hcol, if_pos rfl]
    exact slot_replaced _ _ _
  · exact (agenda_frame ht).trans (c3.trans h5)

/-! ## The rule of the five commands -/

/-- What an engine command answers, behind its operands (R197, R200). -/
def CommandRule (kind : CmdKind) (scope : Scope) (s : State) (cb : Nat) (o : Host.Outcome State Fault Refusal) : Prop :=
  let x := nearNat s cb 64
  (∀ bad, firstBadWord s cb 64 bad → Traps s (eccuOf s bad) o)
  ∧ (readable s cb 64 →
    (Refused kind s x → Traps s (.of .illop) o)
    ∧ (¬ Refused kind s x → ∀ tr, cmdRange kind (Cmd.ofNat x) (groupSize s x) = .error tr → Traps s tr o)
    ∧ (¬ Refused kind s x → cmdRange kind (Cmd.ofNat x) (groupSize s x) = .ok () →
      ((∀ i, ¬ FreeSlot s i) → inStep s = true → Traps s (.timing 2) o)
      ∧ ((∀ i, ¬ FreeSlot s i) → inStep s = false → Answers o (fun t => Frame {} s t ∧ t.ctx s.cur = s.ctx s.cur
        ∧ (t.core s.cur.1).ctl.issueAt = s.now + cyc s.cur.1))
      ∧ ∀ i, FreeSlot s i → (∀ j, j < i → ¬ FreeSlot s j) → Answers o (CommandTaken kind scope cb i (Cmd.ofNat x) s)))

section
variable {kind : CmdKind} {scope : Scope} {h : Hdr} {a : Reg} {ill : Bool} {s : State}

theorem command_rule (hr : Ready (engineNeed kind h a ill s) s) (h0 : (rv s a).toNat % 64 = 0)
    (h1 : (rv s a).toNat + 64 ≤ Config.localSize s.tier)
    (hst : inStep s = true → storing s (rv s a).toNat 64 = false) :
    CommandRule kind scope s (rv s a).toNat (issue (engineNeed kind h a ill s) (engineBody kind scope a) s) := by
  have hst' : ¬ (inStep s = true ∧ storing s (rv s a).toNat 64 = true) := fun hx => by simp [hst hx.1] at hx
  have hb := engineBody_ok (kind := kind) (scope := scope) (checkNear_block_ok h0 h1)
  refine ⟨fun bad hbad => issue_trap hr (hb.trans (engineRead_bad hst' hbad)), fun hread => ?_⟩
  have hf := hb.trans (engineRead_ok hst' hread)
  refine ⟨fun hx => issue_trap hr (hf.trans (engineFields_refused hx)),
    fun hx tr htr => issue_trap hr (hf.trans (engineFields_range hx htr)), fun hx hok => ?_⟩
  have ht := hf.trans (engineFields_ok hx hok)
  refine ⟨fun hn hin => issue_trap hr (ht.trans ((engineTake_full hn).trans (if_pos hin))),
    fun hn hin => again_ready hr (ht.trans ((engineTake_full hn).trans (if_neg (by rw [hin]; decide)))) (fun t h1 h2 h3 => ⟨h1, h2, h3⟩),
    fun i hi hl => command_issue hr ?_ (ht.trans (engineTake_free hi hl))⟩
  exact soft_bytesAt rfl rfl

/-- An engine command, behind its encoding (R197). -/
theorem engine_rule (hr : Ready (engineNeed kind h a ill s) s) :
    let cb := (rv s a).toNat
    let o := issue (engineNeed kind h a ill s) (engineBody kind scope a) s
    (cb % 64 ≠ 0 → Traps s (.at_ .align cb) o)
    ∧ (cb % 64 = 0 → Config.localSize s.tier < cb + 64 → Traps s (.at_ .bankrange cb) o)
    ∧ (cb % 64 = 0 → cb + 64 ≤ Config.localSize s.tier → (inStep s = true → storing s cb 64 = false) →
      CommandRule kind scope s cb o) :=
  ⟨fun h0 => issue_trap hr (engineBody_error (checkNear_block_align h0)),
    fun h0 h1 => issue_trap hr (engineBody_error (checkNear_block_range h0 h1)), fun h0 h1 hst => command_rule hr h0 h1 hst⟩

end

theorem col_post (s : State) (at_ : Nat) (ev : Event) (c : Nat) : (s.post at_ ev).col c = s.col c := rfl

/-- STAGE raises the counter of its column (R206, R384). -/
theorem stage_rule {h : Hdr} {a : Reg} {s : State} (hr : Ready { len := 3, hdr := h, rs := [a] } s) :
    Answers (exec (.stage h a) s) (fun t => Frame { machine := fun s => { sending s with cols := [] } } s t
      ∧ (∀ c, c ≠ columnOf s.cur.1 → t.col c = s.col c)
      ∧ t.col (columnOf s.cur.1) = { s.col (columnOf s.cur.1) with scnt := min 256 (max (s.col (columnOf s.cur.1)).scnt ((rv s a).toNat % 65536)) }
      ∧ Posts s t s.now (.staticEntryStart (columnOf s.cur.1))) := by
  rw [exec_stage]
  refine next_issue hr rfl (soft_nil rfl) (Frame_machine rfl rfl rfl) (fun t hf ht => ⟨hf, fun c hc => ?_, ?_, agenda_frame ht⟩)
  · rw [col_frame ht, col_post, col_modCol, if_neg (Ne.symm hc)]
  · rw [col_frame ht, col_post, col_modCol, if_pos rfl, nbits_low]
    rfl

/-- Settles O41: the stages of `engineIssue` in their order, and the state that a free slot leaves. -/
theorem engineCommands : Obligations.EngineCommands := by
  intro s h a scope ty ck op kind sc ill ins hins k col cb size x cmd n lane free o
  have ho : o = issue (engineNeed kind h a ill s) (engineBody kind sc a) s := by
    simp only [List.mem_cons, List.not_mem_nil, or_false, Prod.mk.injEq] at hins
    rcases hins with ⟨rfl, rfl, rfl, rfl⟩ | ⟨rfl, rfl, rfl, rfl⟩ | ⟨rfl, rfl, rfl, rfl⟩ | ⟨rfl, rfl, rfl, rfl⟩ | ⟨rfl, rfl, rfl, rfl⟩
    · exact exec_cpy _ _ _ _
    · exact exec_cpys _ _ _ _
    · exact exec_cpyg _ _ _ _
    · exact exec_coll _ _ _ _ _ _ _
    · exact exec_finst _ _ _
  rw [ho]
  refine ⟨fun hi => traps_illop hi, fun hr => ?_, fun hr => stage_rule hr⟩
  obtain ⟨h1, h2, h3⟩ := engine_rule (kind := kind) (scope := sc) hr
  refine ⟨h1, h2, fun h0 hsz hst => ?_⟩
  obtain ⟨hbad, hread⟩ := h3 h0 hsz hst
  refine ⟨hbad, fun hrd => ?_⟩
  obtain ⟨r1, r2, r3⟩ := hread hrd
  refine ⟨r1, r2, fun hx hok => ?_⟩
  obtain ⟨f1, f2, f3⟩ := r3 hx hok
  refine ⟨f1, f2, fun i hi hl => answers_imp (f3 i hi hl) (fun t ht => ?_)⟩
  exact ⟨ht.frame, ht.number, ht.last, ht.extents, ht.others, ht.column, ht.slots, ht.slot, ht.posted⟩

end Sys2Proof.Proofs
end


section
/-! PROOFS. The matrix instructions at issue: the gang's line, the checks of a slice operation, and its place in the queue (R118 to R131, R343, R359, R360). -/

namespace Sys2Proof.Proofs

open Sys2Proof.Machine Sys2Proof.Safety Sys2Proof.Laws

/-! ## States that differ in slices alone -/

/-- Nothing but slices differs. -/
structure OnlySlices (s t : State) : Prop where
  machine : { t with cores := [] } = { s with cores := [] }
  cores   : ∀ j, { t.core j with slice := .reset } = { s.core j with slice := .reset }

section
variable {s t u : State}

theorem onlySlices_refl (s : State) : OnlySlices s s := ⟨rfl, fun _ => rfl⟩

theorem onlySlices_trans (h : OnlySlices s t) (h' : OnlySlices t u) : OnlySlices s u :=
  ⟨h'.machine.trans h.machine, fun j => (h'.cores j).trans (h.cores j)⟩

theorem onlySlices_modSlice (s : State) (k : Nat) (f : Slice → Slice) : OnlySlices s (s.modSlice k f) := by
  refine ⟨rfl, fun j => ?_⟩
  rw [State.modSlice, core_modCore]
  split
  · next h => subst h; rfl
  · rfl

theorem slice_modSlice_same (s : State) (k : Nat) (f : Slice → Slice) : ((s.modSlice k f).core k).slice = f (s.core k).slice := by
  rw [State.modSlice, core_modCore_same]

namespace OnlySlices

theorem cur (h : OnlySlices s t) : t.cur = s.cur := (congrArg State.cur h.machine :)
theorem now (h : OnlySlices s t) : t.now = s.now := (congrArg State.now h.machine :)
theorem agenda (h : OnlySlices s t) : t.agenda = s.agenda := (congrArg State.agenda h.machine :)
theorem ctxs (h : OnlySlices s t) (j : Nat) : (t.core j).ctxs = (s.core j).ctxs := (congrArg Core.ctxs (h.cores j) :)
theorem ctl (h : OnlySlices s t) (j : Nat) : (t.core j).ctl = (s.core j).ctl := (congrArg Core.ctl (h.cores j) :)
theorem near (h : OnlySlices s t) (j : Nat) : (t.core j).near = (s.core j).near := (congrArg Core.near (h.cores j) :)
theorem cols (h : OnlySlices s t) : t.cols = s.cols := (congrArg State.cols h.machine :)
theorem store (h : OnlySlices s t) (j : Nat) : (t.core j).store = (s.core j).store := (congrArg Core.store (h.cores j) :)

theorem ctx (h : OnlySlices s t) (q : Nat × Nat) : t.ctx q = s.ctx q := by
  rw [State.ctx, Core.ctx, h.ctxs]
  rfl

theorem storeWord (h : OnlySlices s t) (k a : Nat) : t.storeWord k a = s.storeWord k a := by
  rw [State.storeWord, State.storeWord, State.codeOf, State.codeOf, h.ctl, h.store]

theorem issuedWord (h : OnlySlices s t) (q : Nat × Nat) : t.issuedWord q = s.issuedWord q := by
  have hw : ∀ a, t.wordsAt q.1 a = s.wordsAt q.1 a := fun a => by simp only [State.wordsAt, h.storeWord]
  unfold State.issuedWord
  dsimp only
  rw [h.ctx, h.storeWord, hw]

/-- A change of the issuing core's slice alone. -/
theorem frame {w : Writes} (h : OnlySlices s t) (hc : ∀ c : Core, w.core { c with slice := .reset } = w.core c)
    (ho : ∀ j, j ≠ s.cur.1 → (t.core j).slice = (s.core j).slice) : Frame w s t := by
  refine ⟨congrArg w.machine h.machine, h.cur, fun j hj => ?_, fun i _ => ?_, ?_, ?_, fun a _ => ?_⟩
  · have hcore : t.core j = s.core j := by
      have := congrArg (fun c : Core => { c with slice := (s.core j).slice }) (h.cores j)
      rw [← ho j hj] at this
      exact (show t.core j = { s.core j with slice := (t.core j).slice } from this).trans (by rw [ho j hj])
    rw [hcore]
  · rw [Core.ctx, h.ctxs]
    rfl
  · rw [h.ctx]
  · rw [← hc (coreRest (t.core s.cur.1)), ← hc (coreRest (s.core s.cur.1))]
    exact congrArg (fun c => w.core (coreRest c)) (h.cores s.cur.1)
  · rw [nearByte, nearByte, h.near]

end OnlySlices

end

/-! ## The place in the queue (R126) -/

/-- An operation as it joins the queue. -/
def queuedOp (s : State) (what : SliceKind) : SliceOp := ⟨s.cur.2, (s.ctx s.cur).pc, s.issuedWord s.cur, what, none, [], [], [], 0, [], false⟩

/-- What a slice operation writes at issue. -/
def sliceWrites : Writes := { machine := fun s => colless (sending s), core := fun c => { c with slice := .reset } }

/-- The operation stands in the queue, and an idle slice is to start it. -/
def JoinsSlice (s : State) (hits : Nat) (f : Slice → Slice) (what : SliceKind) (u : State) : Prop :=
  Frame sliceWrites s u ∧ Counts s u hits
  ∧ (u.core s.cur.1).slice = { f (sl s) with queue := (sl s).queue ++ [queuedOp s what] }
  ∧ ((sl s).queue.length = 0 → Posts s u s.now (.sliceOpStart s.cur.1)) ∧ ((sl s).queue.length ≠ 0 → u.agenda = s.agenda)

/-- A state from which the operation is queued: nothing but slices has changed, the issuing core's by `f`. -/
structure ReadyToQueue (s v : State) (f : Slice → Slice) : Prop where
  slices : OnlySlices s v
  own    : (v.core s.cur.1).slice = f (sl s)
  queue  : (f (sl s)).queue = (sl s).queue

section
variable {s v u : State} {f : Slice → Slice} {what : SliceKind}

theorem readyToQueue_self (s : State) : ReadyToQueue s s id := ⟨onlySlices_refl s, rfl, rfl⟩

theorem readyToQueue_modSlice (s : State) (f : Slice → Slice) (hf : (f (sl s)).queue = (sl s).queue) :
    ReadyToQueue s (s.modSlice s.cur.1 f) f := by
  refine ⟨onlySlices_modSlice _ _ _, ?_, hf⟩
  rw [State.modSlice, core_modCore_same]
  rfl

/-- The state with the operation in the queue, before the slice is told to start. -/
def inQueue (v : State) (what : SliceKind) : State := v.modSlice v.cur.1 (fun l => { l with queue := l.queue ++ [queuedOp v what] })

theorem enqueue_idle (h : (sl v).queue = []) : v.enqueue what = (inQueue v what).post v.now (.sliceOpStart v.cur.1) := if_pos h
theorem enqueue_busy (h : (sl v).queue ≠ []) : v.enqueue what = inQueue v what := if_neg h

theorem inQueue_slice : ((inQueue v what).core v.cur.1).slice = { sl v with queue := (sl v).queue ++ [queuedOp v what] } := by
  rw [inQueue, State.modSlice, core_modCore_same]
  rfl

theorem inQueue_other {j : Nat} (h : j ≠ v.cur.1) : (inQueue v what).core j = v.core j := core_modCore_other _ _ (Ne.symm h)

theorem enqueue_cores (v : State) (what : SliceKind) : (v.enqueue what).cores = (inQueue v what).cores ∧ (v.enqueue what).cur = v.cur
    ∧ (v.enqueue what).cols = v.cols
    ∧ sliceWrites.machine { v.enqueue what with cores := [] } = sliceWrites.machine { v with cores := [] } := by
  by_cases h : (sl v).queue = []
  · rw [enqueue_idle h]
    exact ⟨rfl, rfl, rfl, rfl⟩
  · rw [enqueue_busy h]
    exact ⟨rfl, rfl, rfl, rfl⟩

theorem core_of_cores {s t : State} (h : t.cores = s.cores) (j : Nat) : t.core j = s.core j := by rw [State.core, State.core, h]

theorem frame_enqueue (v : State) (what : SliceKind) : Frame sliceWrites v (v.enqueue what) := by
  obtain ⟨hc, hq, -, hm⟩ := enqueue_cores v what
  have h1 : Frame sliceWrites v (inQueue v what) :=
    (onlySlices_modSlice _ _ _).frame (fun _ => rfl) (fun j hj => by rw [State.modSlice, core_modCore_other _ _ (Ne.symm hj)])
  exact Frame_trans h1 (Frame_machine hc hq hm)

theorem sl_of_ready (h : ReadyToQueue s v f) : sl v = f (sl s) := by
  rw [sl, h.slices.cur]
  exact h.own

theorem queuedOp_of_ready (h : ReadyToQueue s v f) (what : SliceKind) : queuedOp v what = queuedOp s what := by
  rw [queuedOp, queuedOp, h.slices.cur, h.slices.ctx, h.slices.issuedWord]

/-- What the queued state holds of the issuing core's slice and of the agenda. -/
theorem enqueue_slice (h : ReadyToQueue s v f) : ((v.enqueue what).core s.cur.1).slice = { f (sl s) with queue := (sl s).queue ++ [queuedOp s what] } := by
  obtain ⟨hc, -⟩ := enqueue_cores v what
  have hx := inQueue_slice (v := v) (what := what)
  rw [h.slices.cur] at hx
  rw [core_of_cores hc, hx, sl_of_ready h, queuedOp_of_ready h, h.queue]

theorem enqueue_agenda (h : ReadyToQueue s v f) :
    ((sl s).queue.length = 0 → (v.enqueue what).agenda = agendaInsert ⟨s.now, .sliceOpStart s.cur.1⟩ s.agenda)
    ∧ ((sl s).queue.length ≠ 0 → (v.enqueue what).agenda = s.agenda) := by
  have hq : (sl v).queue = (sl s).queue := by rw [sl_of_ready h, h.queue]
  refine ⟨fun h0 => ?_, fun h0 => ?_⟩
  · rw [enqueue_idle (hq.trans (List.eq_nil_of_length_eq_zero h0)), ← h.slices.now, ← h.slices.cur, ← h.slices.agenda]
    rfl
  · rw [enqueue_busy (fun hn => h0 (by rw [← hq, hn]; rfl)), ← h.slices.agenda]
    rfl

/-- A ready slice operation joins the queue. -/
theorem joins_issue {nd : Need} {body : State → Except Trap Done} (hr : Ready nd s) (hv : ReadyToQueue s v f)
    (ho : ∀ j, j ≠ s.cur.1 → (v.core j).slice = (s.core j).slice) (hb : body s = .ok ⟨v.enqueue what, .next⟩) :
    Answers (issue nd body s) (JoinsSlice s (nd.soft s) f what) := by
  have hf : Frame sliceWrites s (v.enqueue what) := Frame_trans (hv.slices.frame (fun _ => rfl) ho) (frame_enqueue v what)
  refine next_counted (w := sliceWrites) hr hb hf (fun _ => rfl) (fun t h1 h2 => ?_)
  obtain ⟨hc, hq, hcols, -⟩ := enqueue_cores v what
  obtain ⟨-, -, hag⟩ := dev_count (v.enqueue what) s.cur.1 (nd.soft s)
  obtain ⟨e1, e2⟩ := enqueue_agenda (what := what) hv
  have hcur : (v.enqueue what).cur = s.cur := hf.cur
  have hcount := Counts_count (v.enqueue what) (nd.soft s)
  rw [hcur] at hcount
  refine ⟨h1, ?_, ?_, fun h0 => ?_, fun h0 => ?_⟩
  · refine Counts_congr hcount hcur.symm (fun j => ?_) (fun j => col_frame h2 j)
    rw [State.col, State.col, hcols, hv.slices.cols]
  · have hs := (congrArg Core.slice h2.core :)
    rw [count_cur, hcur, count_core] at hs
    exact hs.trans (enqueue_slice hv)
  · exact (agenda_frame h2).trans (hag.trans (e1 h0))
  · exact (agenda_frame h2).trans (hag.trans (e2 h0))

end

/-! ## The issue of a slice operation -/

/-- The effect of a slice operation that is queued in a state `v`. -/
def sliceBody (idle : Bool) (check : Except Trap SliceKind) (v s : State) : Except Trap Done :=
  if sliceWaits idle s then .ok ⟨s, .again (s.now + cyc s.cur.1)⟩
  else do
    let what ← check
    if 4 ≤ (sl s).queue.length then throw (.timing 2)
    .ok ⟨v.enqueue what, .next⟩

/-- The wait of an entry, the traps of its checks, the fifth outstanding operation, and its place in the queue (R126, R127). -/
def SliceRule (s : State) (hits : Nat) (idle : Bool) (f : Slice → Slice) (check : Except Trap SliceKind) (o : Host.Outcome State Fault Refusal) : Prop :=
  (sliceWaits idle s = true → Answers o (fun u => Frame {} s u ∧ u.ctx s.cur = s.ctx s.cur ∧ (u.core s.cur.1).ctl.issueAt = s.now + cyc s.cur.1))
  ∧ (sliceWaits idle s = false →
    (∀ tr, check = .error tr → Traps s tr o)
    ∧ ∀ what, check = .ok what →
      (4 ≤ (sl s).queue.length → Traps s (.timing 2) o) ∧ ((sl s).queue.length < 4 → Answers o (JoinsSlice s hits f what)))

section
variable {s v : State} {f : Slice → Slice} {what : SliceKind} {idle : Bool} {check : Except Trap SliceKind}

theorem sliceBody_waits (h : sliceWaits idle s = true) : sliceBody idle check v s = .ok ⟨s, .again (s.now + cyc s.cur.1)⟩ := if_pos h

theorem sliceBody_error {tr : Trap} (h : sliceWaits idle s = false) : sliceBody idle (.error tr) v s = .error tr :=
  if_neg (by rw [h]; decide)

theorem sliceBody_full (h : sliceWaits idle s = false) (hq : 4 ≤ (sl s).queue.length) : sliceBody idle (.ok what) v s = .error (.timing 2) := by
  refine (if_neg (by rw [h]; decide)).trans ?_
  simp only [bind, Except.bind, if_pos hq]
  rfl

theorem sliceBody_ok (h : sliceWaits idle s = false) (hq : (sl s).queue.length < 4) :
    sliceBody idle (.ok what) v s = .ok ⟨v.enqueue what, .next⟩ := by
  refine (if_neg (by rw [h]; decide)).trans ?_
  simp only [bind, Except.bind, if_neg (Nat.not_le.2 hq)]

theorem slice_rule {nd : Need} {body : State → Except Trap Done} {hits : Nat} (hr : Ready nd s) (hs : nd.soft s = hits)
    (hv : sliceWaits idle s = false → ReadyToQueue s v f ∧ ∀ j, j ≠ s.cur.1 → (v.core j).slice = (s.core j).slice)
    (hb : body s = sliceBody idle check v s) : SliceRule s hits idle f check (issue nd body s) := by
  subst hs
  refine ⟨fun hw => again_ready hr (hb.trans (sliceBody_waits hw)) (fun t h1 h2 h3 => ⟨h1, h2, h3⟩), fun hw => ⟨fun tr he => ?_, fun what he => ⟨fun hq => ?_, fun hq => ?_⟩⟩⟩
  · exact issue_trap hr (hb.trans (by rw [he, sliceBody_error hw]))
  · exact issue_trap hr (hb.trans (by rw [he, sliceBody_full hw hq]))
  · exact joins_issue hr (hv hw).1 (hv hw).2 (hb.trans (by rw [he, sliceBody_ok hw hq]))

/-- An operation whose check changes nothing. -/
theorem sliceIssue_rule {n : Need} {chk : State → Except Trap SliceKind} (hr : Ready { n with unit := some .matrix } s) :
    SliceRule s (Need.soft { n with unit := some .matrix } s) idle id (chk s) (sliceIssue n idle chk s) :=
  slice_rule (v := s) hr rfl (fun _ => ⟨readyToQueue_self s, fun _ _ => rfl⟩) rfl

end

/-! ## MWLD (R124) -/

/-- The checks of an MWLD's image. -/
def imageCheck (tag : WTag) (addr hi size : Nat) : Except Trap SliceKind :=
  if addr % 64 ≠ 0 then .error (.at_ .align addr)
  else if addr < Config.bankBase ∨ hi ≤ addr then .error (.at_ .bankrange addr)
  else if hi < addr + size then .error (.at_ .bankrange hi)
  else .ok (.mwld tag addr)

/-- The effect of MWLD. -/
def mwldBody (ty : Ty) (k : BitVec 14) (axis : Bool) (a b : Reg) (s : State) : Except Trap Done :=
  if sliceWaits true s then .ok ⟨s, .again (s.now + cyc s.cur.1)⟩
  else do
    let addr := (rv s a).toNat
    let size := imageBytes ty k.toNat
    if addr % 64 ≠ 0 then throw (.at_ .align addr)
    if addr < Config.bankBase ∨ Config.bankEnd s.tier ≤ addr then throw (.at_ .bankrange addr)
    if Config.bankEnd s.tier < addr + size then throw (.at_ .bankrange (Config.bankEnd s.tier))
    if 4 ≤ (sl s).queue.length then throw (.timing 2)
    let tag : WTag := ⟨ty, axis, k, (rv s b).setWidth 16⟩
    .ok ⟨(s.modSlice s.cur.1 (fun l => { l with wcheck := some tag })).enqueue (.mwld tag addr), .next⟩

theorem mwldBody_eq (ty : Ty) (k : BitVec 14) (axis : Bool) (a b : Reg) (s : State) : mwldBody ty k axis a b s
    = sliceBody true (imageCheck ⟨ty, axis, k, (rv s b).setWidth 16⟩ (rv s a).toNat (Config.bankEnd s.tier) (imageBytes ty k.toNat))
      (s.modSlice s.cur.1 (fun l => { l with wcheck := some ⟨ty, axis, k, (rv s b).setWidth 16⟩ })) s := by
  unfold mwldBody sliceBody imageCheck
  by_cases hw : sliceWaits true s = true
  · rw [if_pos hw, if_pos hw]
  · rw [if_neg hw, if_neg hw]
    by_cases h1 : (rv s a).toNat % 64 ≠ 0
    · rw [if_pos h1, if_pos h1]
      rfl
    · rw [if_neg h1, if_neg h1]
      by_cases h2 : (rv s a).toNat < Config.bankBase ∨ Config.bankEnd s.tier ≤ (rv s a).toNat
      · rw [if_pos h2, if_pos h2]
        rfl
      · rw [if_neg h2, if_neg h2]
        by_cases h3 : Config.bankEnd s.tier < (rv s a).toNat + imageBytes ty k.toNat
        · rw [if_pos h3, if_pos h3]
          rfl
        · rw [if_neg h3, if_neg h3]
          rfl

/-! ## A leader's stream (R37, R123) -/

/-- The slices that a leader's MMA tells of its stream. -/
def announced (s : State) (k n : Nat) : State :=
  (List.range n).foldl (fun s i => s.modSlice (k + i) (fun l => { l with streams := l.streams ++ [⟨s.now, none, []⟩] })) s

theorem announced_succ (s : State) (k n : Nat) : announced s k (n + 1)
    = (announced s k n).modSlice (k + n) (fun l => { l with streams := l.streams ++ [⟨(announced s k n).now, none, []⟩] }) := by
  rw [announced, List.range_succ, List.foldl_append]
  rfl

theorem onlySlices_announced (s : State) (k n : Nat) : OnlySlices s (announced s k n) := by
  induction n with
  | zero => exact onlySlices_refl s
  | succ n ih =>
    rw [announced_succ]
    exact onlySlices_trans ih (onlySlices_modSlice _ _ _)

/-- Each slice in turn takes the stream once; nothing else of a slice changes. -/
theorem slice_announced (s : State) (k n : Nat) (j : Nat) : ((announced s k n).core j).slice
    = if k ≤ j ∧ j < k + n then { (s.core j).slice with streams := (s.core j).slice.streams ++ [⟨s.now, none, []⟩] } else (s.core j).slice := by
  induction n with
  | zero => exact (if_neg (by omega)).symm
  | succ n ih =>
    rw [announced_succ, (onlySlices_announced s k n).now, State.modSlice, core_modCore]
    by_cases hj : k + n = j
    · rw [if_neg (by omega)] at ih
      rw [if_pos hj, if_pos (by omega), hj, ih]
    · rw [if_neg hj, ih]
      by_cases hin : k ≤ j ∧ j < k + n
      · rw [if_pos hin, if_pos (by omega)]
      · rw [if_neg hin, if_neg (by omega)]

/-! ## MMA (R118, R120, R122) -/

/-- The state in which an MMA joins the queue. -/
def mmaState (s : State) : State := if inSlaved s && (followerSkew s).isNone then s.announceStream else s

/-- The effect of MMA. -/
def mmaBody (d : TileReg) (a : Reg) (ty ty2 : Ty) (k koff : Nat) (t z : Bool) (s : State) : Except Trap Done :=
  sliceBody false (mmaCheck d a ty ty2 k koff t z s) (mmaState s) s

theorem mmaState_alone {s : State} (h : inSlaved s = false ∨ (followerSkew s).isSome = true) : mmaState s = s := by
  refine if_neg (fun hc => ?_)
  rw [Bool.and_eq_true, Option.isNone_iff_eq_none] at hc
  rcases h with h | h
  · rw [hc.1] at h
    exact absurd h (by decide)
  · rw [hc.2] at h
    exact absurd h (by decide)

theorem mmaState_leads {s : State} (h : inSlaved s = true) (hn : followerSkew s = none) : mmaState s
    = announced s (leaderOf s.cur.1) (Config.clusterSide (Machine.tierOf s.cur.1)) := by
  rw [mmaState, if_pos (by rw [h, hn]; rfl)]
  rfl

/-- What an MMA needs. -/
def mmaNeed (h : Hdr) (a : Reg) (s : State) : Need :=
  { len := 3, hdr := h, rs := [a], unit := some .matrix, path := some .mx
    ill := s.cur.2 != 0 || (inSlaved s && !(sl s).ganged) }

section
variable {s : State} {h : Hdr} {d : TileReg} {a : Reg} {ty ty2 : Ty} {k : BitVec 14} {koff : BitVec 13} {t z : Bool}

/-- MMA outside c0, and without the GANG of a slaved superstep (R120). -/
theorem mma_forbidden (h0 : s.cur.2 ≠ 0 ∨ (inSlaved s = true ∧ (sl s).ganged = false)) : (mmaNeed h a s).ill = true := by
  show (s.cur.2 != 0 || (inSlaved s && !(sl s).ganged)) = true
  rcases h0 with h0 | ⟨hin, hg⟩
  · rw [bne_iff_ne.2 h0, Bool.true_or]
  · rw [hin, hg, Bool.or_eq_true]
    exact .inr rfl

theorem execMma_eq : execMma h d a ty ty2 k koff t z s = issue (mmaNeed h a s) (mmaBody d a ty ty2 k.toNat koff.toNat t z) s := rfl

theorem mma_rule (hr : Ready (mmaNeed h a s) s) (hal : inSlaved s = false ∨ (followerSkew s).isSome = true) :
    SliceRule s 0 false id (mmaCheck d a ty ty2 k.toNat koff.toNat t z s) (execMma h d a ty ty2 k koff t z s) := by
  rw [execMma_eq]
  refine slice_rule (v := s) hr (soft_nil rfl) (fun _ => ⟨readyToQueue_self s, fun _ _ => rfl⟩) ?_
  rw [mmaBody, mmaState_alone hal]

/-- In a superstep a slice operation does not wait. -/
theorem sliceWaits_slaved (hin : inSlaved s = true) : sliceWaits false s = false := by
  have hst : inStep s = true := by
    unfold inSlaved at hin
    split at hin
    · exact (Bool.and_eq_true _ _ ▸ hin).1
    · exact absurd hin (by decide)
  rw [sliceWaits, hst]
  rfl

/-- A leader's MMA joins the queue and gives every member its stream. -/
theorem mma_leads {what : SliceKind} (hr : Ready (mmaNeed h a s) s) (hin : inSlaved s = true) (hn : followerSkew s = none)
    (hc : mmaCheck d a ty ty2 k.toNat koff.toNat t z s = .ok what) (hq : (sl s).queue.length < 4) :
    Answers (execMma h d a ty ty2 k koff t z s) (fun u => (u.core s.cur.1).slice.queue = (sl s).queue ++ [queuedOp s what]
      ∧ ((sl s).queue.length = 0 → Posts s u s.now (.sliceOpStart s.cur.1))
      ∧ ∀ i, i < Config.clusterSide (Machine.tierOf s.cur.1) → (u.core (leaderOf s.cur.1 + i)).slice.streams
        = (s.core (leaderOf s.cur.1 + i)).slice.streams ++ [⟨s.now, none, []⟩]) := by
  have hb : mmaBody d a ty ty2 k.toNat koff.toNat t z s = .ok ⟨(mmaState s).enqueue what, .next⟩ := by
    rw [mmaBody, hc, sliceBody_ok (sliceWaits_slaved hin) hq]
  rw [mmaState_leads hin hn] at hb
  generalize hv : announced s (leaderOf s.cur.1) (Config.clusterSide (Machine.tierOf s.cur.1)) = v at hb
  have hsl := fun j => slice_announced s (leaderOf s.cur.1) (Config.clusterSide (Machine.tierOf s.cur.1)) j
  have hon := onlySlices_announced s (leaderOf s.cur.1) (Config.clusterSide (Machine.tierOf s.cur.1))
  rw [hv] at hon
  simp only [hv] at hsl
  have hready : ReadyToQueue s v (fun _ => (v.core s.cur.1).slice) := by
    refine ⟨hon, rfl, ?_⟩
    rw [hsl]
    split <;> rfl
  have hrt := Frame_retire { mmaNeed h a s with unit := idleUnit (mmaNeed h a s) s } (v.enqueue what) .next true (by simp)
  obtain ⟨hcore, hcur, -⟩ := enqueue_cores v what
  have hq' : (v.enqueue what).cur = s.cur := hcur.trans hon.cur
  refine ⟨_, execMma_eq.trans (issue_clean hr hb (soft_nil rfl)), ?_⟩
  generalize retire _ ⟨v.enqueue what, .next⟩ true = u at hrt ⊢
  have hslice : ∀ j, (u.core j).slice = ((v.enqueue what).core j).slice := by
    intro j
    by_cases hj : j = s.cur.1
    · have hs := (congrArg Core.slice hrt.core :)
      rw [hq'] at hs
      rw [hj]
      exact hs
    · exact (congrArg Core.slice (hrt.others j (by rw [hq']; exact hj)) :)
  refine ⟨?_, fun h0 => (agenda_frame hrt).trans ((enqueue_agenda hready).1 h0), fun i hi => ?_⟩
  · rw [hslice, enqueue_slice hready]
  · rw [hslice]
    by_cases hj : leaderOf s.cur.1 + i = s.cur.1
    · rw [hj, enqueue_slice hready]
      show (v.core s.cur.1).slice.streams = _
      rw [← hj, hsl, if_pos (by omega)]
    · rw [core_of_cores hcore, inQueue_other (by rw [hon.cur]; exact hj), hsl, if_pos (by omega)]

end

/-! ## MMAS (R120, R126, R133) -/

/-- What an MMAS needs. -/
def mmasNeed (h : Hdr) (a : Reg) (s : State) : Need :=
  { len := 3, hdr := h, rs := [a], bytes := bytesAt (rv s a).toNat 64, ill := s.cur.2 == 0, path := some .ga }

section
variable {s : State} {h : Hdr} {d : TileReg} {a : Reg} {m : MsgReg} {ty ty2 : Ty}

theorem execMmas_eq : execMmas h d a m ty ty2 s = sliceIssue (mmasNeed h a s) false (mmasCheck d a m ty ty2) s := rfl

theorem mmas_c0 (h0 : s.cur.2 = 0) : Traps s (.of .illop) (execMmas h d a m ty ty2 s) := by
  rw [execMmas_eq]
  exact traps_illop (n := { mmasNeed h a s with unit := some .matrix }) (beq_iff_eq.2 h0)

theorem mmas_rule (hr : Ready { mmasNeed h a s with unit := some .matrix } s) :
    SliceRule s (softCount s (rv s a).toNat 64) false id (mmasCheck d a m ty ty2 s) (execMmas h d a m ty ty2 s) := by
  have hs : Need.soft { mmasNeed h a s with unit := some .matrix } s = softCount s (rv s a).toNat 64 := soft_bytesAt rfl rfl
  rw [execMmas_eq, ← hs]
  exact sliceIssue_rule hr

end

/-! ## GANG (R121, R343) -/

theorem gangFalse_ready {n : Need} {s : State} (hr : Ready n s) : gangFalse n s = false := by
  obtain ⟨-, -, -, hg, -⟩ := hr
  rw [gangFalse, hg]
  simp

theorem gangFalse_held {n : Need} {s : State} (h : illegal n s = false) (hw : guardWait n s = none) (hg : guardHolds n s = false) :
    gangFalse n s = true := by
  rw [gangFalse, h, hw, hg]
  rfl

theorem execGang_of {h : Hdr} {s : State} {b : Bool} (hg : gangFalse (gangNeed h s) s = b) : execGang h s = issue (gangNeed h s)
    (fun s => .ok ⟨(s.modSlice s.cur.1 (fun l => { l with ganged := true, line := l.line ++ [s.now] })).post (gangDue s.cur.1 s.now)
      (.gangBarrierTimeout s.cur.1), .next⟩)
    (if b = true then s.post (gangDue s.cur.1 s.now) (.gangBarrierTimeout s.cur.1) else s) := hg ▸ rfl

/-- GANG outside a slaved superstep (R120). -/
theorem gang_alone {h : Hdr} {s : State} (hs : inSlaved s = false) : Traps s (.of .illop) (execGang h s) := by
  have hill : (gangNeed h s).ill = true := by
    show (!inSlaved s) = true
    rw [hs]
    rfl
  rw [execGang_of (b := false) (by rw [gangFalse, illegal, hill]; rfl), if_neg (by decide)]
  exact traps_illop hill

theorem gang_rule {h : Hdr} {s : State} (hr : Ready (gangNeed h s) s) : Answers (execGang h s) (fun u =>
    Frame { machine := sending, core := fun c => { c with slice := .reset } } s u
    ∧ (u.core s.cur.1).slice = { sl s with ganged := true, line := (sl s).line ++ [s.now] }
    ∧ Posts s u (s.now + 3 * cyc s.cur.1) (.gangBarrierTimeout s.cur.1)) := by
  rw [execGang_of (gangFalse_ready hr), if_neg (by decide)]
  have hf : Frame { machine := sending, core := fun c => { c with slice := .reset } } s
      (s.modSlice s.cur.1 (fun l => { l with ganged := true, line := l.line ++ [s.now] })) :=
    (onlySlices_modSlice _ _ _).frame (fun _ => rfl) (fun j hj => by rw [State.modSlice, core_modCore_other _ _ (Ne.symm hj)])
  refine next_issue hr rfl (soft_nil rfl) (Frame_trans hf (Frame_machine rfl rfl rfl)) (fun t h1 h2 => ⟨h1, ?_, agenda_frame h2⟩)
  have hs := (congrArg Core.slice h2.core :)
  refine hs.trans ?_
  exact slice_modSlice_same s _ (fun l => { l with ganged := true, line := l.line ++ [s.now] })

theorem gang_false_rule {h : Hdr} {s : State} (hi : illegal (gangNeed h s) s = false) (hw : guardWait (gangNeed h s) s = none)
    (hg : guardHolds (gangNeed h s) s = false) : Answers (execGang h s) (fun u => Frame { machine := sending } s u
      ∧ Posts s u (s.now + 3 * cyc s.cur.1) (.gangBarrierTimeout s.cur.1)) := by
  rw [execGang_of (gangFalse_held hi hw hg), if_pos rfl]
  have hrt := Frame_retire (gangNeed h s) (s.post (gangDue s.cur.1 s.now) (.gangBarrierTimeout s.cur.1)) .next false (by simp)
  have hf : Frame { machine := sending } s (s.post (gangDue s.cur.1 s.now) (.gangBarrierTimeout s.cur.1)) := Frame_machine rfl rfl rfl
  exact ⟨_, issue_false hi rfl hw hg, Frame_trans hf (Frame_weaken hrt), agenda_frame hrt⟩

/-- Settles O42: one rule for the entries that join the slice's queue, beside GANG, MSTAT and a leader's MMA. -/
theorem matrixInstructions : Obligations.MatrixInstructions := by
  intro s h d v m r a b ty ty2 k koff t z sat axis row n q hides queues counting takes need poisoned
  refine ⟨fun hs => ?_, fun hr => gang_rule hr, fun hi hw hg => gang_false_rule hi hw hg, fun hr => ?_,
    fun hr => ⟨?_, ?_⟩, fun hr => ?_, fun hr => ?_, fun h0 => ?_, fun hr => ?_, fun h0 => ?_, fun hr hs => ?_, fun hr hs => ⟨fun hf => ?_, fun hf what hc hq => ?_⟩⟩
  · exact gang_alone hs
  · rw [exec_mstat]
    exact givesScalar_issue (body := fun s => done s 1 (toReg s r (mstatWord (sl s)))) hr rfl (soft_nil rfl)
  · exact sliceIssue_rule (chk := fun _ => .ok (.mzero d)) hr
  · exact sliceIssue_rule (chk := fun s => if ((sl s).view d).2.2 then .error (tilePois (sl s) d) else .ok (.mrd v d ty sat row.toNat)) hr
  · exact sliceIssue_rule (chk := mscacCheck d a b) hr
  · exact slice_rule hr (soft_nil rfl) (fun _ => ⟨readyToQueue_modSlice s _ rfl, fun j hj => by rw [State.modSlice, core_modCore_other _ _ (Ne.symm hj)]⟩)
      (mwldBody_eq ty k axis a b s)
  · exact mmas_c0 h0
  · exact mmas_rule hr
  · rw [exec_mma, execMma_eq]
    exact traps_illop (mma_forbidden h0)
  · exact mma_rule hr (.inl hs)
  · exact mma_rule hr (.inr hf)
  · exact mma_leads hr hs hf hc hq

end Sys2Proof.Proofs
end


section
/-! PROOFS. Restriction, prolongation and weight sets at issue: the checks, the beats of the lane, and the parent port's contribution (R140 to R148, R368). -/

namespace Sys2Proof.Proofs

open Sys2Proof.Machine Sys2Proof.Safety Sys2Proof.Laws

/-! ## States that differ on the vertical side alone -/

/-- Nothing but the vertical sides of cores, the agenda and the columns differs. -/
structure OnlyVerts (s t : State) : Prop where
  machine : colless (sending { t with cores := [] }) = colless (sending { s with cores := [] })
  cores   : ∀ j, { t.core j with vert := .reset } = { s.core j with vert := .reset }

section
variable {s t u : State}

theorem onlyVerts_refl (s : State) : OnlyVerts s s := ⟨rfl, fun _ => rfl⟩

theorem onlyVerts_trans (h : OnlyVerts s t) (h' : OnlyVerts t u) : OnlyVerts s u :=
  ⟨h'.machine.trans h.machine, fun j => (h'.cores j).trans (h.cores j)⟩

theorem onlyVerts_modVert (s : State) (k : Nat) (f : Vert → Vert) : OnlyVerts s (s.modVert k f) := by
  refine ⟨rfl, fun j => ?_⟩
  rw [State.modVert, core_modCore]
  split
  · next h => subst h; rfl
  · rfl

theorem vert_modVert (s : State) (k : Nat) (f : Vert → Vert) (j : Nat) :
    ((s.modVert k f).core j).vert = if k = j then f (s.core k).vert else (s.core j).vert := by
  rw [State.modVert, core_modCore]
  split <;> rfl

theorem onlyVerts_post (s : State) (at_ : Nat) (ev : Event) : OnlyVerts s (s.post at_ ev) := ⟨rfl, fun _ => rfl⟩

theorem onlyVerts_count (s : State) (k hits : Nat) : OnlyVerts s (s.count k hits) := by
  unfold State.count
  split
  · exact onlyVerts_refl s
  · exact ⟨rfl, fun _ => rfl⟩

namespace OnlyVerts

theorem cur (h : OnlyVerts s t) : t.cur = s.cur := (congrArg State.cur h.machine :)
theorem now (h : OnlyVerts s t) : t.now = s.now := (congrArg State.now h.machine :)
theorem dev (h : OnlyVerts s t) : t.dev = s.dev := (congrArg State.dev h.machine :)
theorem ctxs (h : OnlyVerts s t) (j : Nat) : (t.core j).ctxs = (s.core j).ctxs := (congrArg Core.ctxs (h.cores j) :)
theorem ctl (h : OnlyVerts s t) (j : Nat) : (t.core j).ctl = (s.core j).ctl := (congrArg Core.ctl (h.cores j) :)
theorem pend (h : OnlyVerts s t) (j : Nat) : (t.core j).pend = (s.core j).pend := (congrArg Core.pend (h.cores j) :)
theorem near (h : OnlyVerts s t) (j : Nat) : (t.core j).near = (s.core j).near := (congrArg Core.near (h.cores j) :)
theorem poison (h : OnlyVerts s t) (j : Nat) : (t.core j).poison = (s.core j).poison := (congrArg Core.poison (h.cores j) :)

theorem core_ctx (h : OnlyVerts s t) (j i : Nat) : (t.core j).ctx i = (s.core j).ctx i := by
  rw [Core.ctx, h.ctxs]
  rfl

theorem timed (h : OnlyVerts s t) (j i : Nat) : (t.core j).timed i = (s.core j).timed i := by
  rw [Core.timed, Core.timed, h.ctl]

theorem illegal (h : OnlyVerts s t) (n : Need) : illegal n t = illegal n s := by
  unfold Machine.illegal State.ctx
  rw [h.cur, h.core_ctx]

theorem waitFor (h : OnlyVerts s t) (n : Need) : waitFor n t = waitFor n s := by
  unfold Machine.waitFor
  dsimp only
  rw [h.cur, h.now, h.timed, h.core_ctx, h.pend, h.ctl]

theorem guardWait (h : OnlyVerts s t) (n : Need) : guardWait n t = guardWait n s := by
  rw [Machine.guardWait, Machine.guardWait, h.waitFor]

theorem guardHolds (h : OnlyVerts s t) (n : Need) : guardHolds n t = guardHolds n s := by
  unfold Machine.guardHolds
  dsimp only
  rw [h.cur, h.ctl, h.core_ctx]

/-- A change of the issuing core's vertical side alone. -/
theorem frame (h : OnlyVerts s t) (ho : ∀ j, j ≠ s.cur.1 → (t.core j).vert = (s.core j).vert) :
    Frame { machine := fun s => colless (sending s), core := fun c => { c with vert := .reset } } s t := by
  refine ⟨h.machine, h.cur, fun j hj => ?_, fun i _ => h.core_ctx _ _, ?_, ?_, fun a _ => ?_⟩
  · have hcore : t.core j = s.core j := by
      have := congrArg (fun c : Core => { c with vert := (s.core j).vert }) (h.cores j)
      rw [← ho j hj] at this
      exact (show t.core j = { s.core j with vert := (t.core j).vert } from this).trans (by rw [ho j hj])
    rw [hcore]
  · rw [State.ctx, h.core_ctx]
    rfl
  · exact congrArg coreRest (h.cores s.cur.1)
  · rw [nearByte, nearByte, h.near]

end OnlyVerts

/-- What an operation of the parent's port leaves alone. -/
def KeepsAll (s t : State) : Prop := (∀ j b, nearByte t j b = nearByte s j b)
  ∧ placeless (t.ctx s.cur) = placeless (s.ctx s.cur) ∧ (∀ j, j ≠ s.cur.1 → (t.core j).ctxs = (s.core j).ctxs)
  ∧ (∀ j, j ≠ s.cur.1 → j ≠ parentOf s.cur.1 → (t.core j).vert = (s.core j).vert) ∧ t.dev = s.dev

theorem vert_frame (h : Frame {} u t) (j : Nat) : (t.core j).vert = (u.core j).vert := by
  by_cases hj : j = u.cur.1
  · rw [hj]
    exact (congrArg Core.vert h.core :)
  · exact (congrArg Core.vert (h.others j hj) :)

theorem keepsAll_of (h : OnlyVerts s u) (hf : Frame {} u t)
    (hv : ∀ j, j ≠ s.cur.1 → j ≠ parentOf s.cur.1 → (u.core j).vert = (s.core j).vert) : KeepsAll s t := by
  have hcur := h.cur
  refine ⟨fun j b => ?_, ?_, fun j hj => ?_, fun j hj hp => (vert_frame hf j).trans (hv j hj hp), ?_⟩
  · have hu : nearByte u j b = nearByte s j b := by rw [nearByte, nearByte, h.near]
    rw [← hu]
    by_cases hj : j = u.cur.1
    · rw [hj]
      exact hf.bytes b rfl
    · exact (congrArg (fun c : Core => sget 0 c.near b) (hf.others j hj) :)
  · have hc := hf.context
    rw [hcur] at hc
    refine Eq.trans hc (congrArg placeless ?_)
    rw [State.ctx, h.core_ctx]
    rfl
  · exact ((congrArg Core.ctxs (hf.others j (by rw [hcur]; exact hj)) :)).trans (h.ctxs j)
  · exact ((congrArg State.dev hf.machine :)).trans h.dev

end

/-! ## Words corrected on the way (R178) -/

/-- The words from some addresses corrected and counted. -/
def correctAll (k : Nat) (as_ : List Nat) (s : State) : State := as_.foldl (fun s a => s.correct k a 4) s

section
variable {s : State} {k : Nat}

theorem core_correctAll (as_ : List Nat) (s : State) (j : Nat) : (correctAll k as_ s).core j = s.core j := by
  induction as_ generalizing s with
  | nil => rfl
  | cons a r ih => exact (ih _).trans (count_core _ _ _ _)

theorem agenda_correctAll (as_ : List Nat) (s : State) : (correctAll k as_ s).agenda = s.agenda := by
  induction as_ generalizing s with
  | nil => rfl
  | cons a r ih => exact (ih _).trans (dev_count _ _ _).2.2

theorem onlyVerts_correctAll (as_ : List Nat) (s : State) : OnlyVerts s (correctAll k as_ s) := by
  induction as_ generalizing s with
  | nil => exact onlyVerts_refl s
  | cons a r ih => exact onlyVerts_trans (onlyVerts_count _ _ _) (ih _)

theorem col_correctAll (as_ : List Nat) (s : State) (j : Nat) : (correctAll k as_ s).col j = if j = columnOf k then
    { s.col j with corrected := (s.col j).corrected + (as_.map (fun a => (s.core k).softWords a 4)).sum } else s.col j := by
  induction as_ generalizing s with
  | nil => exact (ite_self (s.col j)).symm
  | cons a r ih =>
    have hcore : (s.correct k a 4).core k = s.core k := count_core _ _ _ _
    refine (ih (s.correct k a 4)).trans ?_
    rw [hcore, State.correct, col_count]
    by_cases hj : j = columnOf k
    · simp only [if_pos hj, List.map_cons, List.sum_cons, Nat.add_assoc]
    · simp only [if_neg hj]

end

/-! ## An operation on the lane (R148) -/

theorem foldl_max_attained {α : Type} (l : List α) (f : α → Nat) (m : Nat) : l.foldl (fun m a => max m (f a)) m = m
    ∨ ∃ a ∈ l, f a = l.foldl (fun m a => max m (f a)) m := by
  induction l generalizing m with
  | nil => exact .inl rfl
  | cons a r ih =>
    rcases ih (max m (f a)) with h | ⟨b, hb, h⟩
    · rcases Nat.le_total (f a) m with hm | hm
      · exact .inl (h.trans (Nat.max_eq_left hm))
      · exact .inr ⟨a, List.mem_cons_self, (h.trans (Nat.max_eq_right hm)).symm⟩
    · exact .inr ⟨b, List.mem_cons_of_mem _ hb, h⟩


theorem vertTimes_spec (s : State) (ds : VDesc) (self : Bool) : s.now ≤ (vertTimes s ds self).1
    ∧ (∀ o ∈ (s.core s.cur.1).vert.ops, o.endT ≤ (vertTimes s ds self).1)
    ∧ ((vertTimes s ds self).1 = ceilTo Config.ticksPerBeat s.now ∨ ∃ o ∈ (s.core s.cur.1).vert.ops, o.endT = (vertTimes s ds self).1)
    ∧ (vertTimes s ds self).2 = (vertTimes s ds self).1
      + (4 + ceilDiv ds.boxBytes (if self = false ∧ s.halfColumn s.cur.1 = true then 16 else 32)) * Config.ticksPerBeat := by
  have hst : (vertTimes s ds self).1 = max (ceilTo Config.ticksPerBeat s.now) ((s.core s.cur.1).vert.ops.foldl (fun m o => max m o.endT) 0) := rfl
  rw [hst]
  refine ⟨(ceilTo_ge (by decide)).trans (Nat.le_max_left _ _), fun o ho => ?_, ?_, ?_⟩
  · exact (foldl_max_mem (fun m (o : VOp) => max m o.endT) (fun m o => Nat.le_max_left _ _) (fun m => Nat.le_max_right _ _) _ _ ho).trans (Nat.le_max_right _ _)
  · rcases Nat.le_total ((s.core s.cur.1).vert.ops.foldl (fun m o => max m o.endT) 0) (ceilTo Config.ticksPerBeat s.now) with h | h
    · exact .inl (Nat.max_eq_left h)
    · rw [Nat.max_eq_right h]
      rcases foldl_max_attained (s.core s.cur.1).vert.ops VOp.endT 0 with h0 | h0
      · rw [h0] at h ⊢
        exact .inl (Nat.le_zero.1 h).symm
      · exact .inr h0
  · rw [← hst]
    cases self <;> cases h : s.halfColumn s.cur.1 <;> simp [vertTimes, h]

/-- What a launch leaves. -/
theorem launchVert_spec (s : State) (o : VOp) : OnlyVerts s (s.launchVert o)
    ∧ (∀ j, ((s.launchVert o).core j).vert = if s.cur.1 = j then { (s.core s.cur.1).vert with ops := (s.core s.cur.1).vert.ops ++ [o] } else (s.core j).vert)
    ∧ ∀ e, e ∈ (s.launchVert o).agenda ↔ e = ⟨o.endT, .verticalOpEnd s.cur.1⟩ ∨ e = ⟨o.startT, .verticalOpStart s.cur.1⟩ ∨ e ∈ s.agenda := by
  refine ⟨onlyVerts_trans (onlyVerts_modVert s s.cur.1 _) (onlyVerts_trans (onlyVerts_post _ _ _) (onlyVerts_post _ _ _)),
    fun j => vert_modVert s s.cur.1 (fun v => { v with ops := v.ops ++ [o] }) j, fun e => ?_⟩
  unfold State.launchVert
  dsimp only [State.post]
  rw [mem_agendaInsert, mem_agendaInsert]
  rfl

theorem closeSet_spec (s : State) (p n : Nat) : OnlyVerts s (s.closeSet p n) ∧ (s.closeSet p n).cores = s.cores
    ∧ (s.closeSet p n).cols = s.cols ∧ ∀ e ∈ s.agenda, e ∈ (s.closeSet p n).agenda := by
  unfold State.closeSet
  dsimp only
  split
  · exact ⟨onlyVerts_post _ _ _, rfl, rfl, fun e he => (mem_agendaInsert _ _ _).2 (.inr he)⟩
  · exact ⟨onlyVerts_refl s, rfl, rfl, fun e he => he⟩

/-- What a contribution given to the parent's port leaves. -/
theorem giveSet_spec (s : State) (k : Nat) (ovw : Bool) (vals : List (Nat × Word)) (en : Nat) : OnlyVerts s (s.giveSet k ovw vals en)
    ∧ ((s.giveSet k ovw vals en).core k).vert.nth = (s.core k).vert.nth + 1
    ∧ ((s.giveSet k ovw vals en).core k).vert.ops = (s.core k).vert.ops
    ∧ ((s.giveSet k ovw vals en).core (parentOf k)).vert.sets
        = (s.core (parentOf k)).vert.sets ++ [⟨childIndex k, (s.core k).vert.nth, ovw, vals, en⟩]
    ∧ (∀ j, j ≠ k → j ≠ parentOf k → ((s.giveSet k ovw vals en).core j).vert = (s.core j).vert)
    ∧ (s.giveSet k ovw vals en).cols = s.cols ∧ ∀ e ∈ s.agenda, e ∈ (s.giveSet k ovw vals en).agenda := by
  let v := (s.modVert k (fun v => { v with nth := (s.core k).vert.nth + 1 })).modVert (parentOf k)
    (fun v => { v with sets := v.sets ++ [⟨childIndex k, (s.core k).vert.nth, ovw, vals, en⟩] })
  have hv : ∀ j, (v.core j).vert = if parentOf k = j then
      { ((s.modVert k (fun v => { v with nth := (s.core k).vert.nth + 1 })).core (parentOf k)).vert with
        sets := ((s.modVert k (fun v => { v with nth := (s.core k).vert.nth + 1 })).core (parentOf k)).vert.sets ++ [⟨childIndex k, (s.core k).vert.nth, ovw, vals, en⟩] }
      else ((s.modVert k (fun v => { v with nth := (s.core k).vert.nth + 1 })).core j).vert := fun j => vert_modVert _ _ _ j
  have hk : ∀ j, ((s.modVert k (fun v => { v with nth := (s.core k).vert.nth + 1 })).core j).vert
      = if k = j then { (s.core k).vert with nth := (s.core k).vert.nth + 1 } else (s.core j).vert := fun j => vert_modVert s k _ j
  obtain ⟨h1, h2, h3, h4⟩ := closeSet_spec v (parentOf k) (s.core k).vert.nth
  have hcore : ∀ j, ((s.giveSet k ovw vals en).core j).vert = (v.core j).vert := fun j => congrArg Core.vert (core_of_cores h2 j)
  refine ⟨onlyVerts_trans (onlyVerts_modVert s k _) (onlyVerts_trans (onlyVerts_modVert _ (parentOf k) _) h1), ?_, ?_, ?_, fun j hj hp => ?_, h3, h4⟩
  · rw [hcore, hv]
    by_cases hp : parentOf k = k
    · rw [if_pos hp, hk, hp, if_pos rfl]
    · rw [if_neg hp, hk, if_pos rfl]
  · rw [hcore, hv]
    by_cases hp : parentOf k = k
    · rw [if_pos hp, hk, hp, if_pos rfl]
    · rw [if_neg hp, hk, if_pos rfl]
  · rw [hcore, hv, if_pos rfl, hk]
    by_cases hp : k = parentOf k
    · rw [if_pos hp, ← hp]
    · rw [if_neg hp]
  · rw [hcore, hv, if_neg (Ne.symm hp), hk, if_neg (Ne.symm hj)]

/-! ## The effects of RSTR and PRLG (R144, R146) -/

/-- An RSTR on the lane. -/
def rstrOp (d : WsReg) (bank : Nat) (ovw self : Bool) (ds : VDesc) (s : State) : VOp :=
  let vf := contributions (s.core s.cur.1) ds bank (weightsOf (s.core s.cur.1) d.toNat)
  ⟨true, ovw, self, ds, bank, weightsOf (s.core s.cur.1) d.toNat, vf.1, [], vf.2, (s.core s.cur.1).vert.nth,
    (vertTimes s ds self).1, (vertTimes s ds self).2, false, s.now⟩

/-- A PRLG on the lane. -/
def prlgOp (d : WsReg) (bank : Nat) (ovw self : Bool) (ds : VDesc) (s : State) : VOp :=
  ⟨false, ovw, self, ds, bank, weightsOf (s.core s.cur.1) d.toNat, [], [], 0, 0, (vertTimes s ds self).1, (vertTimes s ds self).2, false, s.now⟩

/-- Addresses of the fine box. -/
def fineWords (ds : VDesc) : List Nat := (points ds.nx ds.ny ds.nz).map ds.fineAt

/-- The state with an RSTR on the lane, its words corrected. -/
def withRstr (o : VOp) (ds : VDesc) (s : State) : State := correctAll s.cur.1 (fineWords ds) (s.launchVert o)

section
variable {s : State} {d : WsReg} {a b : Reg} {ovw self : Bool} {ds : VDesc} {tr : Trap} {w : Nat}

theorem rstrBody_error (h : checkVert s a b self = .error tr) : rstrBody d a b ovw self s = .error tr := by
  unfold rstrBody
  rw [h]
  rfl

theorem prlgBody_error (h : checkVert s a b self = .error tr) : prlgBody d a b ovw self s = .error tr := by
  unfold prlgBody
  rw [h]
  rfl

theorem rstrBody_bad (h : checkVert s a b self = .ok ds) (hb : badFine (s.core s.cur.1) ds = some w) :
    rstrBody d a b ovw self s = .error (eccuOf s w) := by
  unfold rstrBody
  simp only [h, bind, Except.bind, hb, ← eccu_eq]
  rfl

theorem prlgBody_bad (h : checkVert s a b self = .ok ds) (hb : badFine (s.core s.cur.1) ds = some w) :
    prlgBody d a b false self s = .error (eccuOf s w) := by
  unfold prlgBody
  simp only [h, bind, Except.bind, hb, ← eccu_eq]
  rfl

theorem laneFits (hl : self = true ∨ s.laneBad s.cur.1 = false) : ¬ (!self && s.laneBad s.cur.1) = true := by
  rcases hl with h | h
  · rw [h, Bool.not_true, Bool.false_and]
    decide
  · rw [h, Bool.and_false]
    decide

theorem rstrBody_full (h : checkVert s a b self = .ok ds) (hb : badFine (s.core s.cur.1) ds = none)
    (hl : self = true ∨ s.laneBad s.cur.1 = false) (hn : 8 ≤ (s.core s.cur.1).vert.ops.length) :
    rstrBody d a b ovw self s = .error (.timing 2) := by
  unfold rstrBody
  simp only [h, bind, Except.bind, hb, if_neg (laneFits hl), if_pos hn]
  rfl

theorem prlgBody_full (h : checkVert s a b self = .ok ds) (hb : (if ovw then none else badFine (s.core s.cur.1) ds) = none)
    (hl : self = true ∨ s.laneBad s.cur.1 = false) (hn : 8 ≤ (s.core s.cur.1).vert.ops.length) :
    prlgBody d a b ovw self s = .error (.timing 2) := by
  unfold prlgBody
  simp only [h, bind, Except.bind, hb, if_neg (laneFits hl), if_pos hn]
  rfl

theorem rstrBody_ok (h : checkVert s a b self = .ok ds) (hb : badFine (s.core s.cur.1) ds = none)
    (hl : self = true ∨ s.laneBad s.cur.1 = false) (hn : (s.core s.cur.1).vert.ops.length < 8) :
    rstrBody d a b ovw self s = .ok ⟨if self then withRstr (rstrOp d (rv s b).toNat ovw self ds s) ds s
      else (withRstr (rstrOp d (rv s b).toNat ovw self ds s) ds s).giveSet s.cur.1 ovw
        (contributions (s.core s.cur.1) ds (rv s b).toNat (weightsOf (s.core s.cur.1) d.toNat)).1 (vertTimes s ds self).2, .next⟩ := by
  unfold rstrBody withRstr correctAll fineWords
  simp only [h, bind, Except.bind, hb, if_neg (laneFits hl), if_neg (Nat.not_le.2 hn), List.foldl_map]
  rfl

theorem prlgBody_ok (h : checkVert s a b self = .ok ds) (hb : (if ovw then none else badFine (s.core s.cur.1) ds) = none)
    (hl : self = true ∨ s.laneBad s.cur.1 = false) (hn : (s.core s.cur.1).vert.ops.length < 8) :
    prlgBody d a b ovw self s = .ok ⟨s.launchVert (prlgOp d (rv s b).toNat ovw self ds s), .next⟩ := by
  unfold prlgBody
  simp only [h, bind, Except.bind, hb, if_neg (laneFits hl), if_neg (Nat.not_le.2 hn)]
  rfl

theorem badFine_none (h : ∀ i ∈ points ds.nx ds.ny ds.nz, (s.core s.cur.1).bad (ds.fineAt i) = false) :
    badFine (s.core s.cur.1) ds = none := by
  rw [badFine, List.find?_eq_none.2 (fun i hi => by rw [h i hi]; decide)]
  rfl

end

/-! ## RSTR and PRLG issued -/

/-- A ready instruction that goes on leaves what its effect left, the corrected words counted, but for its place. -/
theorem next_left {nd : Need} {body : State → Except Trap Done} {s u : State} {P : State → Prop} (hr : Ready nd s)
    (hb : body s = .ok ⟨u, .next⟩) (hP : ∀ t, Frame {} (u.count s.cur.1 (nd.soft s)) t → P t) : Answers (issue nd body s) P :=
  ⟨_, issue_ready hr hb, hP _ (Frame_retire { nd with unit := idleUnit nd s } (u.count s.cur.1 (nd.soft s)) .next true (by simp))⟩

/-- The beats between which an operation is on the lane. -/
def LaneTimes (s : State) (ds : VDesc) (self : Bool) (st en : Nat) : Prop :=
  s.now ≤ st ∧ (∀ o ∈ (s.core s.cur.1).vert.ops, o.endT ≤ st)
  ∧ (st = ceilTo Config.ticksPerBeat s.now ∨ ∃ o ∈ (s.core s.cur.1).vert.ops, o.endT = st)
  ∧ en = st + (4 + ceilDiv ds.boxBytes (if self = false ∧ s.halfColumn s.cur.1 = true then 16 else 32)) * Config.ticksPerBeat

/-- The lane is to look at the operation at both beats. -/
def LaneDue (s t : State) (st en : Nat) : Prop := ⟨st, .verticalOpStart s.cur.1⟩ ∈ t.agenda ∧ ⟨en, .verticalOpEnd s.cur.1⟩ ∈ t.agenda
  ∧ ∀ e ∈ s.agenda, e ∈ t.agenda

/-- The parent's port has a contribution. -/
def PortGiven (s : State) (ovw : Bool) (t : State) (vals : List (Nat × Word)) (en : Nat) : Prop :=
  (t.core s.cur.1).vert.nth = (s.core s.cur.1).vert.nth + 1
  ∧ (t.core (parentOf s.cur.1)).vert.sets
    = (s.core (parentOf s.cur.1)).vert.sets ++ [⟨childIndex s.cur.1, (s.core s.cur.1).vert.nth, ovw, vals, en⟩]

section
variable {s t u : State} {h : Hdr} {d : WsReg} {a b : Reg} {ty : Ty} {ovw self : Bool} {ds : VDesc}

theorem laneDue_of {o : VOp} (hu : ∀ e ∈ (s.launchVert o).agenda, e ∈ u.agenda) (ht : t.agenda = u.agenda) :
    LaneDue s t o.startT o.endT := by
  obtain ⟨-, -, hag⟩ := launchVert_spec s o
  rw [LaneDue, ht]
  exact ⟨hu _ ((hag _).2 (.inr (.inl rfl))), hu _ ((hag _).2 (.inl rfl)), fun e he => hu _ ((hag _).2 (.inr (.inr he)))⟩

/-- What the state with an RSTR holds. -/
theorem withRstr_spec (o : VOp) (ds : VDesc) (s : State) : OnlyVerts s (withRstr o ds s)
    ∧ (∀ j, ((withRstr o ds s).core j).vert = if s.cur.1 = j then { (s.core s.cur.1).vert with ops := (s.core s.cur.1).vert.ops ++ [o] } else (s.core j).vert)
    ∧ (withRstr o ds s).agenda = (s.launchVert o).agenda
    ∧ ∀ j, (withRstr o ds s).col j = if j = columnOf s.cur.1 then
        { s.col j with corrected := (s.col j).corrected + ((points ds.nx ds.ny ds.nz).map (fun i => softCount s (ds.fineAt i) 4)).sum } else s.col j := by
  obtain ⟨h1, h2, -⟩ := launchVert_spec s o
  refine ⟨onlyVerts_trans h1 (onlyVerts_correctAll _ _), fun j => ?_, agenda_correctAll _ _, fun j => ?_⟩
  · rw [withRstr, core_correctAll, h2]
  · have hsoft : ∀ x, ((s.launchVert o).core s.cur.1).softWords x 4 = softCount s x 4 := fun x => by
      rw [Core.softWords, h1.poison]
      rfl
    rw [withRstr, col_correctAll, fineWords, List.map_map]
    simp only [Function.comp_def, hsoft]
    rfl

theorem counts_rstr {o : VOp} {hits : Nat} (hc : u.cols = (withRstr o ds s).cols) (ht : Frame {} (u.count s.cur.1 hits) t) :
    Counts s t (hits + ((points ds.nx ds.ny ds.nz).map (fun i => softCount s (ds.fineAt i) 4)).sum) := by
  obtain ⟨-, -, -, h4⟩ := withRstr_spec o ds s
  intro j
  have hu : u.col j = (withRstr o ds s).col j := by rw [State.col, State.col, hc]
  rw [col_frame ht, col_count, hu, h4]
  by_cases hj : j = columnOf s.cur.1
  · simp only [if_pos hj]
    rw [Nat.add_assoc, Nat.add_comm hits]
  · simp only [if_neg hj]

/-- RSTR without a fault is on the lane (R144, R148). -/
def RstrTaken (s : State) (d : WsReg) (bank : Nat) (ovw self : Bool) (ds : VDesc) (hits : Nat) (t : State) : Prop :=
  ∃ st en, LaneTimes s ds self st en ∧ LaneDue s t st en
    ∧ (let vf := contributions (s.core s.cur.1) ds bank (weightsOf (s.core s.cur.1) d.toNat)
       (t.core s.cur.1).vert.ops = (s.core s.cur.1).vert.ops
          ++ [⟨true, ovw, self, ds, bank, weightsOf (s.core s.cur.1) d.toNat, vf.1, [], vf.2, (s.core s.cur.1).vert.nth, st, en, false, s.now⟩]
       ∧ Counts s t (hits + ((points ds.nx ds.ny ds.nz).map (fun i => softCount s (ds.fineAt i) 4)).sum)
       ∧ (self = true → Frame { machine := fun s => colless (sending s), core := fun c => { c with vert := .reset } } s t
         ∧ { (t.core s.cur.1).vert with ops := [] } = { (s.core s.cur.1).vert with ops := [] })
       ∧ (self = false → KeepsAll s t ∧ PortGiven s ovw t vf.1 en))

theorem rstr_self {nd : Need} {body : State → Except Trap Done} {bank : Nat} (hr : Ready nd s)
    (hb : body s = .ok ⟨withRstr (rstrOp d bank ovw true ds s) ds s, .next⟩) :
    Answers (issue nd body s) (RstrTaken s d bank ovw true ds (nd.soft s)) := by
  obtain ⟨h1, h2, h3, h4⟩ := withRstr_spec (rstrOp d bank ovw true ds s) ds s
  refine next_left hr hb (fun t ht => ⟨_, _, vertTimes_spec s ds true, laneDue_of (o := rstrOp d bank ovw true ds s) (fun e he => ?_) (agenda_frame ht), ?_, counts_rstr rfl ht, fun _ => ⟨?_, ?_⟩, fun hs => absurd hs (by decide)⟩)
  · rw [(dev_count _ _ _).2.2, h3]
    exact he
  · rw [vert_frame ht, count_core, h2, if_pos rfl]
    rfl
  · refine Frame_trans (h1.frame (fun j hj => by rw [h2, if_neg (Ne.symm hj)])) (Frame_trans (Frame_counted _ _ _ (fun _ => rfl)) (Frame_weaken ht))
  · rw [vert_frame ht, count_core, h2, if_pos rfl]

theorem rstr_parent {nd : Need} {body : State → Except Trap Done} {bank : Nat} (hr : Ready nd s)
    (hb : body s = .ok ⟨(withRstr (rstrOp d bank ovw false ds s) ds s).giveSet s.cur.1 ovw
      (contributions (s.core s.cur.1) ds bank (weightsOf (s.core s.cur.1) d.toNat)).1 (vertTimes s ds false).2, .next⟩) :
    Answers (issue nd body s) (RstrTaken s d bank ovw false ds (nd.soft s)) := by
  obtain ⟨h1, h2, h3, h4⟩ := withRstr_spec (rstrOp d bank ovw false ds s) ds s
  obtain ⟨g1, g2, g3, g4, g5, g6, g7⟩ := giveSet_spec (withRstr (rstrOp d bank ovw false ds s) ds s) s.cur.1 ovw
    (contributions (s.core s.cur.1) ds bank (weightsOf (s.core s.cur.1) d.toNat)).1 (vertTimes s ds false).2
  refine next_left hr hb (fun t ht => ⟨_, _, vertTimes_spec s ds false, laneDue_of (o := rstrOp d bank ovw false ds s) (fun e he => ?_) (agenda_frame ht), ?_, counts_rstr g6 ht, fun hs => absurd hs (by decide), fun _ => ⟨?_, ?_, ?_⟩⟩)
  · rw [(dev_count _ _ _).2.2]
    exact g7 _ (h3 ▸ he)
  · rw [vert_frame ht, count_core, g3, h2, if_pos rfl]
    rfl
  · refine keepsAll_of (onlyVerts_trans h1 (onlyVerts_trans g1 (onlyVerts_count _ _ _))) ht (fun j hj hp => ?_)
    rw [count_core, g5 j hj hp, h2, if_neg (Ne.symm hj)]
  · rw [vert_frame ht, count_core, g2, h2, if_pos rfl]
  · rw [vert_frame ht, count_core, g4, h2, h2, if_pos rfl]
    by_cases hp : s.cur.1 = parentOf s.cur.1
    · rw [if_pos hp, ← hp]
    · rw [if_neg hp]

/-- PRLG without a fault is on the lane (R146, R148). -/
def PrlgTaken (s : State) (d : WsReg) (bank : Nat) (ovw self : Bool) (ds : VDesc) (hits : Nat) (t : State) : Prop :=
  ∃ st en, LaneTimes s ds self st en ∧ LaneDue s t st en
    ∧ Frame { machine := fun s => colless (sending s), core := fun c => { c with vert := .reset } } s t ∧ Counts s t hits
    ∧ (t.core s.cur.1).vert = { (s.core s.cur.1).vert with ops := (s.core s.cur.1).vert.ops
        ++ [⟨false, ovw, self, ds, bank, weightsOf (s.core s.cur.1) d.toNat, [], [], 0, 0, st, en, false, s.now⟩] }

theorem prlg_issue {nd : Need} {body : State → Except Trap Done} {bank : Nat} (hr : Ready nd s)
    (hb : body s = .ok ⟨s.launchVert (prlgOp d bank ovw self ds s), .next⟩) :
    Answers (issue nd body s) (PrlgTaken s d bank ovw self ds (nd.soft s)) := by
  obtain ⟨h1, h2, h3⟩ := launchVert_spec s (prlgOp d bank ovw self ds s)
  refine next_left hr hb (fun t ht => ⟨_, _, vertTimes_spec s ds self, laneDue_of (o := prlgOp d bank ovw self ds s) (fun e he => ?_) (agenda_frame ht), ?_, fun j => ?_, ?_⟩)
  · rw [(dev_count _ _ _).2.2]
    exact he
  · exact Frame_trans (h1.frame (fun j hj => by rw [h2, if_neg (Ne.symm hj)])) (Frame_trans (Frame_counted _ _ _ (fun _ => rfl)) (Frame_weaken ht))
  · rw [col_frame ht, col_count]
    rfl
  · rw [vert_frame ht, count_core, h2, if_pos rfl]
    rfl

/-! ## The instructions -/

theorem countsFalse_ready {n : Need} (hr : Ready n s) : countsFalse n self s = false := by
  obtain ⟨-, -, -, hg, -⟩ := hr
  rw [countsFalse, hg]
  simp

theorem execRstr_of {c : Bool} (hc : countsFalse (vertNeed h a b self s) self s = c) : execRstr h d a b ty ovw self s
    = issue (vertNeed h a b self s) (rstrBody d a b ovw self)
      (if c = true then s.giveSet s.cur.1 ovw [] (ceilTo Config.ticksPerBeat s.now) else s) := hc ▸ rfl

theorem execRstr_ready (hr : Ready (vertNeed h a b self s) s) : execRstr h d a b ty ovw self s
    = issue (vertNeed h a b self s) (rstrBody d a b ovw self) s := by
  rw [execRstr_of (countsFalse_ready hr), if_neg (by decide)]

theorem traps_rstr {tr : Trap} (hr : Ready (vertNeed h a b self s) s) (hb : rstrBody d a b ovw self s = .error tr) :
    Traps s tr (execRstr h d a b ty ovw self s) := by
  rw [execRstr_ready hr]
  exact issue_trap hr hb

theorem execPrlg_eq : execPrlg h d a b ty ovw self s = issue (vertNeed h a b self s) (prlgBody d a b ovw self) s := rfl

/-- Outside a vert phase, and in the crown without SELF (R140, R141). -/
theorem vert_forbidden (hi : (vertNeed h a b self s).ill = true) :
    Traps s (.of .illop) (execRstr h d a b ty ovw self s) ∧ Traps s (.of .illop) (execPrlg h d a b ty ovw self s) := by
  refine ⟨?_, traps_illop hi⟩
  rw [execRstr_of (c := false) (by rw [countsFalse, illegal, hi]; simp), if_neg (by decide)]
  exact traps_illop hi

theorem rstr_taken (hr : Ready (vertNeed h a b self s) s) (hc : checkVert s a b self = .ok ds)
    (hl : self = true ∨ s.laneBad s.cur.1 = false) (hn : (s.core s.cur.1).vert.ops.length < 8)
    (hf : ∀ i ∈ points ds.nx ds.ny ds.nz, (s.core s.cur.1).bad (ds.fineAt i) = false) :
    Answers (execRstr h d a b ty ovw self s) (RstrTaken s d (rv s b).toNat ovw self ds (softCount s (rv s a).toNat 64)) := by
  have hs : (vertNeed h a b self s).soft s = softCount s (rv s a).toNat 64 := soft_bytesAt rfl rfl
  have hb := rstrBody_ok (d := d) (ovw := ovw) hc (badFine_none hf) hl hn
  rw [execRstr_ready hr, ← hs]
  cases self with
  | true => exact rstr_self hr hb
  | false => exact rstr_parent hr hb

theorem prlg_taken (hr : Ready (vertNeed h a b self s) s) (hc : checkVert s a b self = .ok ds)
    (hl : self = true ∨ s.laneBad s.cur.1 = false) (hn : (s.core s.cur.1).vert.ops.length < 8)
    (hf : ovw = true ∨ ∀ i ∈ points ds.nx ds.ny ds.nz, (s.core s.cur.1).bad (ds.fineAt i) = false) :
    Answers (execPrlg h d a b ty ovw self s) (PrlgTaken s d (rv s b).toNat ovw self ds (softCount s (rv s a).toNat 64)) := by
  have hs : (vertNeed h a b self s).soft s = softCount s (rv s a).toNat 64 := soft_bytesAt rfl rfl
  have hbad : (if ovw then none else badFine (s.core s.cur.1) ds) = none := by
    rcases hf with hf | hf
    · rw [hf]; rfl
    · rw [badFine_none hf, ite_self]
  rw [execPrlg_eq, ← hs]
  exact prlg_issue hr (prlgBody_ok (d := d) hc hbad hl hn)

/-- A false guard still gives the parent's port an empty contribution (R145, R368). -/
theorem rstr_false (hs : self = false) (hi : illegal (vertNeed h a b self s) s = false) (hw : guardWait (vertNeed h a b self s) s = none)
    (hg : guardHolds (vertNeed h a b self s) s = false) : Answers (execRstr h d a b ty ovw self s) (fun t =>
      KeepsAll s t ∧ PortGiven s ovw t [] (ceilTo Config.ticksPerBeat s.now)) := by
  obtain ⟨g1, g2, g3, g4, g5, g6, g7⟩ := giveSet_spec s s.cur.1 ovw [] (ceilTo Config.ticksPerBeat s.now)
  rw [execRstr_of (c := true) (by rw [countsFalse, hi, hw, hg, hs]; rfl), if_pos rfl]
  have hrt := Frame_retire (vertNeed h a b self s) (s.giveSet s.cur.1 ovw [] (ceilTo Config.ticksPerBeat s.now)) .next false (by simp)
  refine ⟨_, issue_false ((g1.illegal _).trans hi) rfl ((g1.guardWait _).trans hw) ((g1.guardHolds _).trans hg), keepsAll_of g1 hrt g5, ?_, ?_⟩
  · rw [vert_frame hrt, g2]
  · rw [vert_frame hrt, g4]

end

/-! ## WSLD (R147) -/

/-- The weights of a set, from its bytes. -/
def weightsIn (bs : List Byte) : List Word := (List.range 27).map (fun i => BitVec.ofNat 32 (leNat ((bs.drop (4 * i)).take 4)))

theorem take_drop_readBytes (m : Sparse Byte) (a : Nat) {n i l : Nat} (h : i + l ≤ n) :
    ((readBytes m a n).drop i).take l = readBytes m (a + i) l := by
  rw [readBytes_eq_map, readBytes_eq_map]
  apply List.ext_getElem
  · simp
    omega
  · intro j h1 h2
    simp [Nat.add_assoc]

theorem weightsIn_read (s : State) (x : Nat) : weightsIn ((s.core s.cur.1).readN x 108)
    = (List.range 27).map (fun i => BitVec.ofNat 32 (nearNat s (x + 4 * i) 4)) := by
  refine List.map_congr_left (fun i hi => congrArg (BitVec.ofNat 32) ?_)
  rw [List.mem_range] at hi
  refine Eq.trans ?_ (readNat_eq_coreNat s s.cur.1 (x + 4 * i) 4)
  exact congrArg leNat (take_drop_readBytes _ _ (by omega))

theorem wsld_rule {s : State} {h : Hdr} {d : WsReg} {a : Reg}
    (hr : Ready { len := 3, hdr := h, rs := [a], bytes := bytesAt (rv s a).toNat 108 } s) :
    Checked s .localStore false (rv s a).toNat 108 4 (execWsld h d a s) (fun x =>
      (∀ bad, firstBadWord s x 108 bad → Traps s (eccuOf s bad) (execWsld h d a s))
      ∧ (cleanWords s x 108 → GivesLater s 4 [.ws d.toNat ((List.range 27).map (fun i => BitVec.ofNat 32 (nearNat s (x + 4 * i) 4)))] (execWsld h d a s))
      ∧ Corrects s x 108 4 [.ws d.toNat ((List.range 27).map (fun i => BitVec.ofNat 32 (nearNat s (x + 4 * i) 4)))] (execWsld h d a s)) := by
  unfold execWsld
  refine checked_issue hr rfl (fun x hx hok => ?_)
  rw [← weightsIn_read]
  exact ⟨fun _ hw => traps_read hr hok hw,
    fun hc => givesLater_issue hr (read_readable hok (readable_of_clean hc)) ((soft_bytesAt rfl hx).trans (softWords_clean hc))
      (by decide) (List.pairwise_singleton _ _),
    corrects_issue (as_ := fun bs => [.ws d.toNat (weightsIn bs)]) hr (soft_bytesAt rfl hx) hok (by decide)
      (fun _ => List.pairwise_singleton _ _)⟩

/-- Settles O43: the checks of both operations, their place on the lane, and WSLD. -/
theorem levelInstructions : Obligations.LevelInstructions := by
  intro s h d a b ty ovw self k p c bank ws n read rstr prlg beats times due gives keeps
  refine ⟨fun hi => vert_forbidden (ty := ty) hi, fun hr => ⟨fun tr htr => ⟨?_, ?_⟩, fun ds hds => ?_⟩, fun hs hi hw hg => rstr_false (ty := ty) hs hi hw hg, fun hr => wsld_rule hr⟩
  · exact traps_rstr (ty := ty) hr (rstrBody_error htr)
  · exact issue_trap hr (prlgBody_error htr)
  · refine ⟨fun w hw => ⟨?_, fun ho => ?_⟩, fun hf hl hn => ⟨?_, ?_⟩, fun hl hn => ⟨fun hf => rstr_taken (ty := ty) hr hds hl hn hf, fun hf => prlg_taken (ty := ty) hr hds hl hn hf⟩⟩
    · exact traps_rstr (ty := ty) hr (rstrBody_bad hds hw)
    · subst ho
      exact issue_trap hr (prlgBody_bad hds hw)
    · exact traps_rstr (ty := ty) hr (rstrBody_full hds (badFine_none hf) hl hn)
    · exact issue_trap hr (prlgBody_full hds (by rw [badFine_none hf, ite_self]) hl hn)

end Sys2Proof.Proofs
end


section
/-! PROOFS. The expansion instructions at issue: the registers of the tier, the checks, and the place in the unit's queue (R157 to R168, R414). -/

namespace Sys2Proof.Proofs

open Sys2Proof.Machine Sys2Proof.Safety Sys2Proof.Laws

/-! ## A wait with words corrected on the way -/

/-- A ready instruction that holds its context: what it left, the words corrected in what it read, and the wait. -/
theorem hold_counted {nd : Need} {body : State → Except Trap Done} {s u : State} {w : Writes} {P : State → Prop} {wt : Wait}
    (hr : Ready nd s) (hb : body s = .ok ⟨u, .hold wt⟩) (hf : Frame w s u)
    (hw : ∀ v : State, w.machine { v with cols := [] } = w.machine v) (hpc : (u.ctx s.cur).pc = (s.ctx s.cur).pc)
    (hP : ∀ t, Frame w s t → Frame {} (u.count s.cur.1 (nd.soft s)) t → Waits s t nd.hdr wt → P t) :
    Answers (issue nd body s) P := by
  have hrt := Frame_retire { nd with unit := idleUnit nd s } (u.count s.cur.1 (nd.soft s)) (.hold wt) true (by simp)
  obtain ⟨h1, h2⟩ := retire_hold { nd with unit := idleUnit nd s } (u.count s.cur.1 (nd.soft s)) wt
  rw [count_cur, hf.cur] at h1 h2
  refine ⟨_, issue_ready hr hb, hP _ (Frame_trans (Frame_trans hf (Frame_counted u _ _ hw)) (Frame_weaken hrt)) hrt ⟨h1, h2.trans ?_⟩⟩
  rw [State.ctx, count_core]
  exact hpc

/-! ## The place in the unit's queue (R164) -/

/-- An instruction as it joins the unit's queue. -/
def expandOp (s : State) (what : XKind) (cycles : Nat) : XOp :=
  ⟨s.cur.2, (s.ctx s.cur).pc, s.issuedWord s.cur, what, cycles, false, [], s.now, [], [], .reset⟩

/-- The unit with an instruction more in its queue. -/
def unitWith (s : State) (what : XKind) (cycles : Nat) : State :=
  s.modXu s.cur.1 (fun u => { u with queue := u.queue ++ [expandOp s what cycles] })

/-- An idle unit is to start it. -/
def unitQueued (s : State) (what : XKind) (cycles : Nat) : State :=
  if (xu s).queue = [] then (unitWith s what cycles).post s.now (.expansionOpStart s.cur.1) else unitWith s what cycles

/-- The expansion unit's part of a core. -/
def expandWrites : Writes := { machine := fun s => colless (sending s), core := fun c => { c with xu := .reset } }

theorem unitQueued_cores (s : State) (what : XKind) (cycles : Nat) : (unitQueued s what cycles).cores = (unitWith s what cycles).cores
    ∧ (unitQueued s what cycles).cur = s.cur ∧ (unitQueued s what cycles).cols = s.cols
    ∧ expandWrites.machine { unitQueued s what cycles with cores := [] } = expandWrites.machine { s with cores := [] } := by
  unfold unitQueued
  split <;> exact ⟨rfl, rfl, rfl, rfl⟩

theorem ctx_modXu (s : State) (k : Nat) (f : XUnit → XUnit) (q : Nat × Nat) : (s.modXu k f).ctx q = s.ctx q := by
  rw [State.modXu, State.ctx, core_modCore]
  split
  · next h => rw [h]; rfl
  · rfl

theorem unitQueued_agenda (s : State) (what : XKind) (cycles : Nat) :
    ((xu s).queue.length = 0 → (unitQueued s what cycles).agenda = agendaInsert ⟨s.now, .expansionOpStart s.cur.1⟩ s.agenda)
    ∧ ((xu s).queue.length ≠ 0 → (unitQueued s what cycles).agenda = s.agenda) := by
  refine ⟨fun h => ?_, fun h => ?_⟩
  · rw [unitQueued, if_pos (List.eq_nil_of_length_eq_zero h)]
    rfl
  · rw [unitQueued, if_neg (fun hn => h (by rw [hn]; rfl))]
    rfl

theorem unitQueued_xu (s : State) (what : XKind) (cycles : Nat) :
    ((unitQueued s what cycles).core s.cur.1).xu = { xu s with queue := (xu s).queue ++ [expandOp s what cycles] } := by
  rw [core_of_cores (unitQueued_cores s what cycles).1, unitWith, State.modXu, core_modCore_same]
  rfl

theorem frame_unitQueued (s : State) (what : XKind) (cycles : Nat) : Frame expandWrites s (unitQueued s what cycles) := by
  obtain ⟨hc, hq, -, hm⟩ := unitQueued_cores s what cycles
  have h1 : Frame expandWrites s (unitWith s what cycles) :=
    Frame_core (fun c : Core => { c with xu := { c.xu with queue := c.xu.queue ++ [expandOp s what cycles] } })
      (fun _ => rfl) (fun _ _ _ => rfl) (fun _ => rfl)
  exact Frame_trans h1 (Frame_machine hc hq hm)

/-- The instruction stands in the unit's queue. -/
def JoinsUnit (s : State) (h : Hdr) (hits : Nat) (what : XKind) (cycles : Nat) (t : State) : Prop :=
  Frame expandWrites s t ∧ Counts s t hits
  ∧ (t.core s.cur.1).xu = { xu s with queue := (xu s).queue ++ [expandOp s what cycles] }
  ∧ ((xu s).queue.length = 0 → Posts s t s.now (.expansionOpStart s.cur.1)) ∧ ((xu s).queue.length ≠ 0 → t.agenda = s.agenda)
  ∧ (inStep s = false → Waits s t h .expansion)

section
variable {s : State} {what : XKind} {cycles hits : Nat} {h : Hdr}

theorem joinsUnit_of {t : State} (hf : Frame expandWrites s t) (ht : Frame {} ((unitQueued s what cycles).count s.cur.1 hits) t)
    (hw : inStep s = false → Waits s t h .expansion) : JoinsUnit s h hits what cycles t := by
  obtain ⟨hc, hq, hcols, -⟩ := unitQueued_cores s what cycles
  obtain ⟨a1, a2⟩ := unitQueued_agenda s what cycles
  have hag : t.agenda = (unitQueued s what cycles).agenda := (agenda_frame ht).trans (dev_count _ _ _).2.2
  refine ⟨hf, fun j => ?_, ?_, fun h0 => hag.trans (a1 h0), fun h0 => hag.trans (a2 h0), hw⟩
  · rw [col_frame ht, col_count, State.col, hcols]
    rfl
  · have hx := (congrArg Core.xu ht.core :)
    rw [count_cur, hq, count_core] at hx
    exact hx.trans (unitQueued_xu s what cycles)

/-! ## The issue of an expansion instruction (R163, R164) -/

/-- The flow of an expansion instruction. -/
def expandFlow (s : State) : Flow := if inStep s then .next else .hold .expansion

/-- The effect of an expansion instruction. -/
def expandBody (chk : State → Except Trap (XKind × Nat)) (s : State) : Except Trap Done := do
  let (what, cycles) ← chk s
  if 4 ≤ (xu s).queue.length then
    if inStep s then throw (.timing 2) else .ok ⟨s, .again (s.now + cyc s.cur.1)⟩
  else .ok ⟨unitQueued s what cycles, expandFlow s⟩

/-- What an expansion instruction that names registers needs. -/
def expandNeed (n : Need) (xs : List ExpReg) (s : State) : Need := { n with unit := some .expansion, ill := !(xs.all (xOk s.tier)) }

theorem expandIssue_eq (n : Need) (xs : List ExpReg) (chk : State → Except Trap (XKind × Nat)) (s : State) :
    expandIssue n xs chk s = issue (expandNeed n xs s) (expandBody chk) s := rfl

theorem expandBody_error {chk : State → Except Trap (XKind × Nat)} {tr : Trap} (hc : chk s = .error tr) : expandBody chk s = .error tr := by
  rw [expandBody, hc]
  rfl

theorem expandBody_full {chk : State → Except Trap (XKind × Nat)} (hc : chk s = .ok (what, cycles)) (hq : 4 ≤ (xu s).queue.length) :
    expandBody chk s = if inStep s then .error (.timing 2) else .ok ⟨s, .again (s.now + cyc s.cur.1)⟩ := by
  rw [expandBody, hc]
  exact if_pos hq

theorem expandBody_ok {chk : State → Except Trap (XKind × Nat)} (hc : chk s = .ok (what, cycles)) (hq : (xu s).queue.length < 4) :
    expandBody chk s = .ok ⟨unitQueued s what cycles, expandFlow s⟩ := by
  rw [expandBody, hc]
  exact if_neg (Nat.not_le.2 hq)

/-- A register that the tier has (R64). -/
def HasExp (s : State) (r : ExpReg) : Prop := s.tier ≠ 0 ∨ r.toNat < 8

theorem xOk_iff (r : ExpReg) : xOk s.tier r = true ↔ HasExp s r := by
  rw [xOk, Bool.or_eq_true, bne_iff_ne, decide_eq_true_eq]
  rfl

/-- What an expansion instruction answers (R163, R164). -/
def ExpandRule (s : State) (hits : Nat) (n : Need) (xs : List ExpReg) (check : Except Trap Unit) (what : XKind) (cycles : Nat)
    (o : Host.Outcome State Fault Refusal) : Prop :=
  ((∃ r ∈ xs, ¬ HasExp s r) → Traps s (.of .illop) o)
  ∧ ((∀ r ∈ xs, HasExp s r) → Ready n s →
    (∀ tr, check = .error tr → Traps s tr o)
    ∧ (check = .ok () → 4 ≤ (xu s).queue.length → (inStep s = true → Traps s (.timing 2) o)
      ∧ (inStep s = false → Answers o (fun t => Frame {} s t ∧ t.ctx s.cur = s.ctx s.cur
        ∧ (t.core s.cur.1).ctl.issueAt = s.now + cyc s.cur.1)))
    ∧ (check = .ok () → (xu s).queue.length < 4 → Answers o (JoinsUnit s n.hdr hits what cycles)))

theorem expandNeed_ill {n : Need} {xs : List ExpReg} (hx : ∃ r ∈ xs, ¬ HasExp s r) : (expandNeed n xs s).ill = true := by
  obtain ⟨r, hr, hn⟩ := hx
  show (!(xs.all (xOk s.tier))) = true
  rw [Bool.not_eq_true', Bool.eq_false_iff]
  exact fun ha => hn ((xOk_iff r).1 (List.all_eq_true.1 ha r hr))

theorem expandNeed_clear {n : Need} {xs : List ExpReg} (hx : ∀ r ∈ xs, HasExp s r) :
    expandNeed n xs s = { n with unit := some .expansion, ill := false } := by
  rw [expandNeed, List.all_eq_true.2 (fun r hr => (xOk_iff r).2 (hx r hr))]
  rfl

/-- An instruction whose checks are `check` and which is queued as `what`. -/
theorem expand_rule {n n' : Need} {xs : List ExpReg} {chk : State → Except Trap (XKind × Nat)} {check : Except Trap Unit}
    (hn : Ready n s → Ready { n' with unit := some .expansion, ill := false } s) (hh : n'.hdr = n.hdr)
    (hs : Need.soft { n' with unit := some .expansion, ill := false } s = hits)
    (hc : chk s = (check >>= fun _ => .ok (what, cycles))) :
    ExpandRule s hits n xs check what cycles (expandIssue n' xs chk s) := by
  rw [expandIssue_eq]
  refine ⟨fun hx => traps_illop (expandNeed_ill hx), fun hx hr => ?_⟩
  rw [expandNeed_clear hx]
  have hr' := hn hr
  refine ⟨fun tr he => issue_trap hr' (expandBody_error (by rw [hc, he]; rfl)), fun he hq => ?_, fun he hq => ?_⟩
  · have hb := expandBody_full (s := s) (chk := chk) (by rw [hc, he]; rfl) hq
    refine ⟨fun hi => issue_trap hr' (hb.trans (if_pos hi)), fun hi => again_ready hr' (hb.trans (if_neg (by rw [hi]; decide))) (fun t h1 h2 h3 => ⟨h1, h2, h3⟩)⟩
  · have hb := expandBody_ok (s := s) (chk := chk) (by rw [hc, he]; rfl) hq
    subst hs
    by_cases hi : inStep s = true
    · rw [expandFlow, if_pos hi] at hb
      exact next_counted hr' hb (frame_unitQueued s what cycles) (fun _ => rfl)
        (fun t h1 h2 => joinsUnit_of h1 h2 (fun hf => absurd (hi.symm.trans hf) (by decide)))
    · rw [expandFlow, if_neg hi] at hb
      have hpc : ((unitQueued s what cycles).ctx s.cur).pc = (s.ctx s.cur).pc :=
        congrArg Ctx.pc ((ctx_of_cores (unitQueued_cores s what cycles).1 s.cur).trans (ctx_modXu _ _ _ _))
      exact hold_counted hr' hb (frame_unitQueued s what cycles) (fun _ => rfl) hpc
        (fun t h1 h2 h3 => joinsUnit_of h1 h2 (fun _ => hh ▸ h3))

end

/-! ## The checks of the entries -/

theorem checkNear_addr {s : State} {win : Window} {store : Bool} {ea : Int} {n align p : Nat} (h : checkNear s win store ea n align = .ok p) :
    p = ea.toNat := by
  unfold checkNear at h
  dsimp only at h
  split_ifs at h
  all_goals exact (Except.ok.inj h).symm

/-- A check of an address, whose result is that address. -/
theorem checkNear_bind {α : Type} {s : State} {win : Window} {store : Bool} {a n align : Nat} (f : Nat → Except Trap α) :
    (checkNear s win store a n align >>= f) = ((checkNear s win store a n align).map (fun _ => ()) >>= fun _ => f a) := by
  cases h : checkNear s win store a n align with
  | error e => rfl
  | ok p => rw [checkNear_addr h]; rfl

theorem imageLatency_eq (t a : Nat) : imageLatency t a = if Config.bankBase ≤ a then Config.bankLatency t else 3 := by
  rw [imageLatency, imageWindow]
  split <;> rfl

/-- The check of an image's address (R163). -/
def imageOk (s : State) (a n : Nat) (store : Bool) : Except Trap Unit :=
  (checkNear s (if Config.bankBase ≤ a then .ownBank else .localStore) store a n 64).map (fun _ => ())

theorem checkImage_bind {α : Type} {s : State} {a : Reg} {n : Nat} {store : Bool} (f : Nat → Except Trap α) :
    (checkImage s a n store >>= f) = (imageOk s (rv s a).toNat n store >>= fun _ => f (rv s a).toNat) := checkNear_bind f

/-- The check of the records' addresses (R163). -/
def recordsOk (s : State) (a m : Nat) : Except Trap Unit := (checkNear s .localStore true a (16 * m) 16).map (fun _ => ())

theorem checkRecords_bind {α : Type} {s : State} {a : Reg} {m : Nat} (f : Nat → Except Trap α) :
    (checkRecords s a m >>= f) = (recordsOk s (rv s a).toNat m >>= fun _ => f (rv s a).toNat) := checkNear_bind f

/-- The header of an image as it is read at issue. -/
def headerAt (s : State) (a : Nat) : Except Trap XHdr := headerOf (leNat (headerRead (s.core s.cur.1) a))

theorem loadHeader_eq (s : State) (a : Reg) (n : Nat) : loadHeader a n s
    = (imageOk s (rv s a).toNat n false >>= fun _ => needGood s (rv s a).toNat >>= fun _ => headerAt s (rv s a).toNat >>= fun h => .ok ((rv s a).toNat, h)) :=
  checkImage_bind _

theorem loadHeader_ok {s : State} {a : Reg} {n : Nat} {img : XHdr} (hh : headerAt s (rv s a).toNat = .ok img) :
    loadHeader a n s = ((imageOk s (rv s a).toNat n false >>= fun _ => needGood s (rv s a).toNat) >>= fun _ => .ok ((rv s a).toNat, img)) := by
  rw [loadHeader_eq, hh, bind_assoc]
  rfl

theorem loadHeader_error {s : State} {a : Reg} {n : Nat} {tr : Trap} (hi : imageOk s (rv s a).toNat n false = .ok ())
    (hg : needGood s (rv s a).toNat = .ok ()) (hh : headerAt s (rv s a).toNat = .error tr) : loadHeader a n s = .error tr := by
  rw [loadHeader_eq, hi, hg, hh]
  rfl

/-! ## The instructions -/

/-- What an expansion instruction needs of the context. -/
def unitNeed (h : Hdr) (tier : Option (BitVec 2)) (rs : List Reg) (bytes : List (Nat × Nat)) : Need :=
  { len := 3, hdr := h, tier := tier, rs := rs, bytes := bytes, unit := some .expansion }

section
variable {s : State} {h : Hdr} {tier : Option (BitVec 2)} {d x : ExpReg} {p : PredReg} {a : Reg} {kern : BitVec 3} {m : BitVec 13} {img : XHdr}

theorem xsetKern_rule : ExpandRule s 0 (unitNeed h tier [] []) [] (.ok ()) (.setKern kern) 1 (execXsetKern h tier kern s) :=
  expand_rule (chk := fun _ => .ok (.setKern kern, 1)) id rfl (soft_nil rfl) rfl

theorem xsetGamma_rule : ExpandRule s 0 (unitNeed h tier [a] []) [] (.ok ()) (.setGamma ((rv s a).setWidth 32)) 1 (execXsetGamma h a tier s) :=
  expand_rule (chk := fun s => .ok (.setGamma ((rv s a).setWidth 32), 1)) id rfl (soft_nil rfl) rfl

theorem xsetEta_rule : ExpandRule s 0 (unitNeed h tier [a] []) [] (.ok ()) (.setEta ((rv s a).setWidth 32)) 1 (execXsetEta h a tier s) :=
  expand_rule (chk := fun s => .ok (.setEta ((rv s a).setWidth 32), 1)) id rfl (soft_nil rfl) rfl

/-- XCLR's checks. -/
def clrCheck (d : ExpReg) (a : Reg) (s : State) : Except Trap (XKind × Nat) := do
  let (p, hd) ← loadHeader a 64 s
  .ok (.clr d p hd, imageLatency s.tier p + 1)

/-- XLD's checks. -/
def ldCheck (d : ExpReg) (a : Reg) (s : State) : Except Trap (XKind × Nat) := do
  let (p, hd) ← loadHeader a 576 s
  .ok (.ld d p hd, imageLatency s.tier p + 9)

/-- What XLD needs: it reads the header alone as it issues. -/
def ldNeed (h : Hdr) (tier : Option (BitVec 2)) (a : Reg) (s : State) : Need :=
  { len := 3, hdr := h, tier := tier, rs := [a], bytes := bytesAt (rv s a).toNat 576, reading := bytesAt (rv s a).toNat 64 }

theorem execXclr_eq : execXclr h d a tier s = expandIssue (unitNeed h tier [a] (bytesAt (rv s a).toNat 64)) [d] (clrCheck d a) s := rfl
theorem execXld_eq : execXld h d a tier s = expandIssue (ldNeed h tier a s) [d] (ldCheck d a) s := rfl

theorem xclr_rule (hh : headerAt s (rv s a).toNat = .ok img) :
    ExpandRule s (softCount s (rv s a).toNat 64) (unitNeed h tier [a] (bytesAt (rv s a).toNat 64)) [d]
      (do imageOk s (rv s a).toNat 64 false; needGood s (rv s a).toNat) (.clr d (rv s a).toNat img)
      ((if Config.bankBase ≤ (rv s a).toNat then Config.bankLatency s.tier else 3) + 1) (execXclr h d a tier s) := by
  rw [execXclr_eq, ← imageLatency_eq]
  refine expand_rule id rfl (soft_bytesAt rfl rfl) ?_
  rw [clrCheck, loadHeader_ok hh, bind_assoc]
  rfl

theorem ready_ldNeed (hr : Ready (unitNeed h tier [a] (bytesAt (rv s a).toNat 576)) s) :
    Ready { ldNeed h tier a s with unit := some .expansion, ill := false } s := hr

theorem xld_rule (hh : headerAt s (rv s a).toNat = .ok img) :
    ExpandRule s (softCount s (rv s a).toNat 64) (unitNeed h tier [a] (bytesAt (rv s a).toNat 576)) [d]
      (do imageOk s (rv s a).toNat 576 false; needGood s (rv s a).toNat) (.ld d (rv s a).toNat img)
      ((if Config.bankBase ≤ (rv s a).toNat then Config.bankLatency s.tier else 3) + 9) (execXld h d a tier s) := by
  rw [execXld_eq, ← imageLatency_eq]
  refine expand_rule ready_ldNeed rfl (soft_bytesAt rfl rfl) ?_
  rw [ldCheck, loadHeader_ok hh, bind_assoc]
  rfl

theorem hasExp_one {r : ExpReg} (hx : HasExp s r) : ∀ r' ∈ [r], HasExp s r' := fun _ h => List.mem_singleton.1 h ▸ hx

theorem xclr_refused {tr : Trap} (hh : headerAt s (rv s a).toNat = .error tr) (hr : Ready (unitNeed h tier [a] (bytesAt (rv s a).toNat 64)) s)
    (hx : HasExp s d) (hi : imageOk s (rv s a).toNat 64 false = .ok ()) (hg : needGood s (rv s a).toNat = .ok ()) :
    Traps s tr (execXclr h d a tier s) := by
  rw [execXclr_eq, expandIssue_eq, expandNeed_clear (hasExp_one hx)]
  exact issue_trap (n := { unitNeed h tier [a] (bytesAt (rv s a).toNat 64) with unit := some .expansion, ill := false }) hr
    (expandBody_error (by rw [clrCheck, loadHeader_error hi hg hh]; rfl))

theorem xld_refused {tr : Trap} (hh : headerAt s (rv s a).toNat = .error tr) (hr : Ready (unitNeed h tier [a] (bytesAt (rv s a).toNat 576)) s)
    (hx : HasExp s d) (hi : imageOk s (rv s a).toNat 576 false = .ok ()) (hg : needGood s (rv s a).toNat = .ok ()) :
    Traps s tr (execXld h d a tier s) := by
  rw [execXld_eq, expandIssue_eq, expandNeed_clear (hasExp_one hx)]
  exact issue_trap (ready_ldNeed hr) (expandBody_error (by rw [ldCheck, loadHeader_error hi hg hh]; rfl))

/-- What an instruction on records needs: it reads nothing as it issues. -/
def recordsNeed (h : Hdr) (tier : Option (BitVec 2)) (a : Reg) (m : BitVec 13) (s : State) : Need :=
  { len := 3, hdr := h, tier := tier, rs := [a], bytes := bytesAt (rv s a).toNat (16 * m.toNat), reading := [] }

theorem ready_recordsNeed (hr : Ready (unitNeed h tier [a] (bytesAt (rv s a).toNat (16 * m.toNat))) s) :
    Ready { recordsNeed h tier a m s with unit := some .expansion, ill := false } s := hr

/-- An instruction on the records at an address. -/
theorem records_rule {xs : List ExpReg} {k : Except Trap Unit} {what : Nat → XKind} {cycles : Nat} {chk : State → Except Trap (XKind × Nat)}
    (hc : chk s = (checkRecords s a m.toNat >>= fun p => k >>= fun _ => .ok (what p, cycles))) :
    ExpandRule s 0 (unitNeed h tier [a] (bytesAt (rv s a).toNat (16 * m.toNat))) xs (do recordsOk s (rv s a).toNat m.toNat; k)
      (what (rv s a).toNat) cycles (expandIssue (recordsNeed h tier a m s) xs chk s) := by
  refine expand_rule ready_recordsNeed rfl (soft_nil rfl) ?_
  rw [hc, checkRecords_bind, bind_assoc]

theorem xform_rule : ExpandRule s 0 (unitNeed h tier [a] (bytesAt (rv s a).toNat (16 * m.toNat))) [d]
    (do recordsOk s (rv s a).toNat m.toNat; needKind ((xu s).viewHdr d) 1) (.form d (rv s a).toNat m.toNat)
    (8 + m.toNat * groups16 ((xu s).viewHdr d)) (execXform h d a tier m s) :=
  records_rule (what := fun p => .form d p m.toNat) rfl

theorem xeval_rule : ExpandRule s 0 (unitNeed h tier [a] (bytesAt (rv s a).toNat (16 * m.toNat))) [x]
    (do recordsOk s (rv s a).toNat m.toNat; needKind ((xu s).viewHdr x) 2) (.eval (rv s a).toNat x m.toNat)
    (8 + m.toNat * groups16 ((xu s).viewHdr x)) (execXeval h a x tier m s) :=
  records_rule (what := fun p => .eval p x m.toNat) rfl

/-- XM2P's checks. -/
def m2pCheck (a : Reg) (x : ExpReg) (m : BitVec 13) (s : State) : Except Trap (XKind × Nat) := do
  let p ← checkRecords s a m.toNat
  needKind ((xu s).viewHdr x) 1
  needExpd s [(xu s).viewHdr x]
  .ok (.m2p p x m.toNat, 16 + m.toNat * groups16 ((xu s).viewHdr x))

theorem execXm2p_eq : execXm2p h a x tier m s = expandIssue (recordsNeed h tier a m s) [x] (m2pCheck a x m) s := rfl

theorem xm2p_rule : ExpandRule s 0 (unitNeed h tier [a] (bytesAt (rv s a).toNat (16 * m.toNat))) [x]
    (do recordsOk s (rv s a).toNat m.toNat; needKind ((xu s).viewHdr x) 1; needExpd s [(xu s).viewHdr x]) (.m2p (rv s a).toNat x m.toNat)
    (16 + m.toNat * groups16 ((xu s).viewHdr x)) (execXm2p h a x tier m s) := by
  rw [execXm2p_eq]
  exact records_rule (k := do needKind ((xu s).viewHdr x) 1; needExpd s [(xu s).viewHdr x]) (what := fun p => .m2p p x m.toNat)
    (by simp only [m2pCheck, bind_assoc])

/-- An instruction on registers of the unit alone. -/
theorem registers_rule {xs : List ExpReg} {check : Except Trap Unit} {what : XKind} {cycles : Nat} {chk : State → Except Trap (XKind × Nat)}
    (hc : chk s = (check >>= fun _ => .ok (what, cycles))) :
    ExpandRule s 0 (unitNeed h tier [] []) xs check what cycles (expandIssue { len := 3, hdr := h, tier := tier } xs chk s) :=
  expand_rule (n' := { len := 3, hdr := h, tier := tier }) id rfl (soft_nil rfl) hc

/-- XM2M's checks. -/
def m2mCheck (d x : ExpReg) (s : State) : Except Trap (XKind × Nat) := do
  needKind ((xu s).viewHdr d) 1
  needKind ((xu s).viewHdr x) 1
  needDim ((xu s).viewHdr d) ((xu s).viewHdr x)
  .ok (.m2m d x, 8 + ((xu s).viewHdr x).size * groups16 ((xu s).viewHdr d))

/-- XM2L's checks. -/
def m2lCheck (d x : ExpReg) (s : State) : Except Trap (XKind × Nat) := do
  needKind ((xu s).viewHdr d) 2
  needKind ((xu s).viewHdr x) 1
  needDim ((xu s).viewHdr d) ((xu s).viewHdr x)
  needExpd s [(xu s).viewHdr d, (xu s).viewHdr x]
  .ok (.m2l d x, 16 + ((xu s).viewHdr x).size * groups16 ((xu s).viewHdr d))

/-- XL2L's checks. -/
def l2lCheck (d x : ExpReg) (s : State) : Except Trap (XKind × Nat) := do
  needKind ((xu s).viewHdr d) 2
  needKind ((xu s).viewHdr x) 2
  needDim ((xu s).viewHdr d) ((xu s).viewHdr x)
  .ok (.l2l d x, 8 + ((xu s).viewHdr x).size * groups16 ((xu s).viewHdr d))

/-- XADM's checks. -/
def admCheck (p : PredReg) (d x : ExpReg) (s : State) : Except Trap (XKind × Nat) := do
  needKind ((xu s).viewHdr d) 0
  needKind ((xu s).viewHdr x) 0
  needDim ((xu s).viewHdr d) ((xu s).viewHdr x)
  .ok (.adm p d x, 3)

theorem execXm2m_eq : execXm2m h d x tier s = expandIssue { len := 3, hdr := h, tier := tier } [d, x] (m2mCheck d x) s := rfl
theorem execXm2l_eq : execXm2l h d x tier s = expandIssue { len := 3, hdr := h, tier := tier } [d, x] (m2lCheck d x) s := rfl
theorem execXl2l_eq : execXl2l h d x tier s = expandIssue { len := 3, hdr := h, tier := tier } [d, x] (l2lCheck d x) s := rfl
theorem execXadm_eq : execXadm h p d x tier s = expandIssue { len := 3, hdr := h, tier := tier } [d, x] (admCheck p d x) s := rfl

theorem xm2m_rule : ExpandRule s 0 (unitNeed h tier [] []) [d, x]
    (do needKind ((xu s).viewHdr d) 1; needKind ((xu s).viewHdr x) 1; needDim ((xu s).viewHdr d) ((xu s).viewHdr x)) (.m2m d x)
    (8 + ((xu s).viewHdr x).size * groups16 ((xu s).viewHdr d)) (execXm2m h d x tier s) := by
  rw [execXm2m_eq]
  exact registers_rule (by simp only [m2mCheck, bind_assoc])

theorem xm2l_rule : ExpandRule s 0 (unitNeed h tier [] []) [d, x]
    (do needKind ((xu s).viewHdr d) 2; needKind ((xu s).viewHdr x) 1; needDim ((xu s).viewHdr d) ((xu s).viewHdr x)
        needExpd s [(xu s).viewHdr d, (xu s).viewHdr x]) (.m2l d x)
    (16 + ((xu s).viewHdr x).size * groups16 ((xu s).viewHdr d)) (execXm2l h d x tier s) := by
  rw [execXm2l_eq]
  exact registers_rule (by simp only [m2lCheck, bind_assoc])

theorem xl2l_rule : ExpandRule s 0 (unitNeed h tier [] []) [d, x]
    (do needKind ((xu s).viewHdr d) 2; needKind ((xu s).viewHdr x) 2; needDim ((xu s).viewHdr d) ((xu s).viewHdr x)) (.l2l d x)
    (8 + ((xu s).viewHdr x).size * groups16 ((xu s).viewHdr d)) (execXl2l h d x tier s) := by
  rw [execXl2l_eq]
  exact registers_rule (by simp only [l2lCheck, bind_assoc])

theorem xadm_rule : ExpandRule s 0 (unitNeed h tier [] []) [d, x]
    (do needKind ((xu s).viewHdr d) 0; needKind ((xu s).viewHdr x) 0; needDim ((xu s).viewHdr d) ((xu s).viewHdr x)) (.adm p d x) 3
    (execXadm h p d x tier s) := by
  rw [execXadm_eq]
  exact registers_rule (by simp only [admCheck, bind_assoc])

/-- XST's checks. -/
def stCheck (d : ExpReg) (a : Reg) (s : State) : Except Trap (XKind × Nat) := do
  let p ← checkImage s a 576 true
  .ok (.st d p ((xu s).viewHdr d), imageLatency s.tier p + 9)

/-- What XST needs. -/
def stNeed (h : Hdr) (tier : Option (BitVec 2)) (a : Reg) (s : State) : Need :=
  { unitNeed h tier [a] [] with stored := bytesAt (rv s a).toNat 576 }

theorem execXst_eq : execXst h d a tier s = expandIssue (stNeed h tier a s) [d] (stCheck d a) s := rfl

theorem xst_rule : ExpandRule s 0 (stNeed h tier a s) [d] (imageOk s (rv s a).toNat 576 true) (.st d (rv s a).toNat ((xu s).viewHdr d))
    ((if Config.bankBase ≤ (rv s a).toNat then Config.bankLatency s.tier else 3) + 9) (execXst h d a tier s) := by
  rw [execXst_eq, ← imageLatency_eq]
  refine expand_rule id rfl (soft_nil rfl) ?_
  rw [stCheck, checkImage_bind]

end

/-- Settles O44: one rule for the entries that join the unit's queue, with the checks of each. -/
theorem expansionInstructions : Obligations.ExpansionInstructions := by
  intro s h tier d x p a kern m k u q hd hx at_ exists_ lat groups need counting takes image records good soft header
  exact ⟨xsetKern_rule, xsetGamma_rule, xsetEta_rule, fun img hh => ⟨xclr_rule hh, xld_rule hh⟩,
    fun tr hh hr hx hi hg => xclr_refused hh hr hx hi hg, fun tr hh hr hx hi hg => xld_refused hh hr hx hi hg,
    xst_rule, xform_rule, xm2m_rule, xm2l_rule, xl2l_rule, xeval_rule, xm2p_rule, xadm_rule⟩

end Sys2Proof.Proofs
end


section
/-! PROOFS. CTXLD and the program counter of an image (R262, R263): the counterexample to the statement of both instructions. -/

namespace Sys2Proof.Proofs

open Sys2Proof.Machine Sys2Proof.Safety Sys2Proof.Laws

/-- Near address of the image of context 1 on tier 0. -/
def firstImage : Nat := ctxImageAddr 0 1

/-- c0 of core 0 at a CTXLD of context 1, whose VALID image holds the program counter 1, which is no multiple of 4. -/
def oddImage : State :=
  { State.reset with
    cur := (0, 0)
    cores := [(0, { Core.reset with
      near := [(firstImage, 5), (firstImage + 0x80, 1)]
      ctxs := [(0, { Ctx.reset with run := .running, g := [(1, 1)] })], ctl := { Ctl.reset with turn := some 0 } })] }

/-- A header without gap, yield mark or guard. -/
def plainHdr : Hdr := ⟨0, false, 0, false⟩

/-- The program counter of context 1 of core 0 behind a step. -/
def firstPc (o : Host.Outcome State Fault Refusal) : Word :=
  match o with
  | .next t => (t.ctx (0, 1)).pc
  | _ => 1

/-- CTXLD rounds the image's program counter down to a multiple of 4. -/
theorem oddImage_loads_zero : firstPc (exec (.ctxld plainHdr 2 1 false) oddImage) = 0 := by
  decide +kernel

theorem oddImage_ready : Ready { len := 3, hdr := plainHdr, rs := [1], rd := [2], ill := inStep oddImage, priv := if oddImage.cur.2 = 0 then none else some 0 } oddImage := by
  unfold Ready
  decide

theorem oddImage_head : coreNat oddImage 0 firstImage 8 = 5 ∧ coreNat oddImage 0 (firstImage + 0x80) 4 = 1
    ∧ coreCanonical (oddImage.core 0) = true := by
  decide

/-- Refutes O45: the image of context 1 that `oddImage` holds is VALID, of this core and without LOST, and its program counter
is 1; CTXLD leaves the context Ready at 0, for it takes the program counter rounded down to a multiple of 4, as the fetch of R82 wants
it, and the statement gives the bytes of the image unrounded. -/
theorem not_contextSaveAndLoad : ¬ Obligations.ContextSaveAndLoad := by
  unfold Obligations.ContextSaveAndLoad
  intro hall
  obtain ⟨-, h, -⟩ := hall oddImage plainHdr 2 1 false
  obtain ⟨hhead, hpc, hcan⟩ := oddImage_head
  obtain ⟨-, hload⟩ := (h oddImage_ready).2 (by decide) (by decide) hcan rfl rfl
  obtain ⟨-, -, hgood⟩ := hload (fun _ _ _ => rfl) (fun hf => absurd hf (by decide))
  obtain ⟨t, ht, -, -, htpc, -⟩ := hgood (congrArg (· % 2) hhead) (congrArg (fun n => n / 2 ^ 4 % 2 ^ 15) hhead)
    (congrArg (fun n => n / 2 % 2) hhead) rfl
  have h0 := oddImage_loads_zero
  rw [ht] at h0
  have h1 : (t.ctx (0, 1)).pc = BitVec.ofNat 32 (coreNat oddImage 0 (firstImage + 0x80) 4) := htpc
  rw [hpc] at h1
  exact absurd (h0.symm.trans h1) (by decide)

end Sys2Proof.Proofs
end


section
/-! PROOFS. Rounding (R89, R90) over the rationals: the exponent, the multiple of the spacing, and the pattern that holds it. -/

namespace Sys2Proof.Proofs

open Sys2Proof.Machine Sys2Proof.Safety Sys2Proof.Laws

/-! ## Exponents -/

/-- The rational of a fraction. -/
abbrev frac (num den : Nat) : ℚ := (num : ℚ) / den

theorem zpow_toNat {k : Int} (h : 0 ≤ k) : (2 : ℚ) ^ k = ((2 ^ k.toNat : Nat) : ℚ) := by
  obtain ⟨n, rfl⟩ := Int.eq_ofNat_of_zero_le h
  simp

/-- A fraction scaled by a power of two, as two naturals (R89). -/
def scaled (k : Int) (num den : Nat) : Nat × Nat := if 0 ≤ k then (num, den * 2 ^ k.toNat) else (num * 2 ^ (-k).toNat, den)

theorem scaled_frac (k : Int) (num den : Nat) : frac (scaled k num den).1 (scaled k num den).2 = frac num den / 2 ^ k := by
  unfold scaled
  by_cases h : 0 ≤ k
  · rw [if_pos h, zpow_toNat h, frac, frac, div_div]
    push_cast
    rfl
  · have hp : (2 : ℚ) ^ k = ((2 : ℚ) ^ (-k))⁻¹ := by rw [zpow_neg, inv_inv]
    rw [if_neg h, hp, zpow_toNat (k := -k) (by omega), div_inv_eq_mul, frac, frac]
    push_cast
    rw [mul_div_right_comm]

theorem scaled_pos {k : Int} {num den : Nat} (hd : 0 < den) : 0 < (scaled k num den).2 := by
  unfold scaled
  split
  · exact Nat.mul_pos hd (Nat.two_pow_pos _)
  · exact hd

section
variable {num den : Nat}

/-- The quotient of two naturals lies between powers of two that their lengths give. -/
theorem frac_log2 (hn : 0 < num) (hd : 0 < den) : (2 : ℚ) ^ ((num.log2 : Int) - den.log2 - 1) < frac num den
    ∧ frac num den < 2 ^ ((num.log2 : Int) - den.log2 + 1) := by
  have hn1 : ((2 ^ num.log2 : Nat) : ℚ) ≤ num := Nat.cast_le.2 (Nat.log2_self_le (by omega))
  have hn2 : (num : ℚ) < ((2 ^ (num.log2 + 1) : Nat) : ℚ) := Nat.cast_lt.2 Nat.lt_log2_self
  have hd1 : ((2 ^ den.log2 : Nat) : ℚ) ≤ den := Nat.cast_le.2 (Nat.log2_self_le (by omega))
  have hd2 : (den : ℚ) < ((2 ^ (den.log2 + 1) : Nat) : ℚ) := Nat.cast_lt.2 Nat.lt_log2_self
  have hd0 : (0 : ℚ) < den := Nat.cast_pos.2 hd
  push_cast at hn1 hn2 hd1 hd2
  constructor
  · rw [lt_div_iff₀ hd0]
    calc (2 : ℚ) ^ ((num.log2 : Int) - den.log2 - 1) * den < 2 ^ ((num.log2 : Int) - den.log2 - 1) * 2 ^ (den.log2 + 1) :=
          mul_lt_mul_of_pos_left hd2 (by positivity)
      _ = 2 ^ num.log2 := by
          rw [← zpow_natCast, ← zpow_natCast, ← zpow_add₀ (by norm_num)]
          congr 1
          push_cast
          ring
      _ ≤ num := hn1
  · rw [div_lt_iff₀ hd0]
    calc (num : ℚ) < 2 ^ (num.log2 + 1) := hn2
      _ = 2 ^ ((num.log2 : Int) - den.log2 + 1) * 2 ^ den.log2 := by
          rw [← zpow_natCast, ← zpow_natCast, ← zpow_add₀ (by norm_num)]
          congr 1
          push_cast
          ring
      _ ≤ 2 ^ ((num.log2 : Int) - den.log2 + 1) * den := mul_le_mul_of_nonneg_left hd1 (by positivity)

/-- The test by which `floorLog2` chooses between two exponents. -/
theorem scaled_le_iff (k : Int) (hd : 0 < den) :
    (if 0 ≤ k then decide (den * 2 ^ k.toNat ≤ num) else decide (den ≤ num * 2 ^ (-k).toNat)) = true ↔ (2 : ℚ) ^ k ≤ frac num den := by
  have hs := scaled_frac k num den
  have hp : (0 : ℚ) < 2 ^ k := by positivity
  have hpos := scaled_pos (k := k) (num := num) hd
  have h1 : (2 : ℚ) ^ k ≤ frac num den ↔ 1 ≤ frac (scaled k num den).1 (scaled k num den).2 := by
    rw [hs, le_div_iff₀ hp, one_mul]
  rw [h1, le_div_iff₀ (Nat.cast_pos.2 hpos), one_mul, Nat.cast_le]
  unfold scaled
  split <;> exact decide_eq_true_iff

theorem floorLog2_spec (hn : 0 < num) (hd : 0 < den) : (2 : ℚ) ^ floorLog2 num den ≤ frac num den
    ∧ frac num den < 2 ^ (floorLog2 num den + 1) := by
  obtain ⟨h1, h2⟩ := frac_log2 hn hd
  have ht := scaled_le_iff (num := num) ((num.log2 : Int) - den.log2) hd
  unfold floorLog2
  dsimp only
  by_cases h : (2 : ℚ) ^ ((num.log2 : Int) - den.log2) ≤ frac num den
  · rw [if_pos (ht.2 h)]
    exact ⟨h, h2⟩
  · rw [if_neg (fun hc => h (ht.1 hc)), sub_add_cancel]
    exact ⟨h1.le, not_le.1 h⟩

/-- The exponent of a value is the only one. -/
theorem floorLog2_eq {e : Int} (hn : 0 < num) (hd : 0 < den) (h1 : (2 : ℚ) ^ e ≤ frac num den) (h2 : frac num den < 2 ^ (e + 1)) :
    floorLog2 num den = e := by
  obtain ⟨a1, a2⟩ := floorLog2_spec hn hd
  have hx := (zpow_lt_zpow_iff_right₀ (by norm_num : (1 : ℚ) < 2)).1 (a1.trans_lt h2)
  have hy := (zpow_lt_zpow_iff_right₀ (by norm_num : (1 : ℚ) < 2)).1 (h1.trans_lt a2)
  omega

theorem floorLog2_lt {e : Int} (hn : 0 < num) (hd : 0 < den) (h : frac num den < 2 ^ e) : floorLog2 num den < e :=
  (zpow_lt_zpow_iff_right₀ (by norm_num : (1 : ℚ) < 2)).1 ((floorLog2_spec hn hd).1.trans_lt h)

theorem le_floorLog2 {e : Int} (hn : 0 < num) (hd : 0 < den) (h : (2 : ℚ) ^ e ≤ frac num den) : e ≤ floorLog2 num den := by
  have := (zpow_lt_zpow_iff_right₀ (by norm_num : (1 : ℚ) < 2)).1 (h.trans_lt (floorLog2_spec hn hd).2)
  omega

end

/-! ## The multiple that a mode chooses (R89) -/

/-- The integer a mode chooses for a magnitude of a sign, over the rationals. -/
def Chooses (mode : Rnd) (neg : Bool) (n : ℚ) (m : Nat) : Prop :=
  match mode with
  | .rne => |(m : ℚ) - n| ≤ 1 / 2 ∧ (|(m : ℚ) - n| = 1 / 2 → m % 2 = 0)
  | .rtz => (m : Int) = ⌊n⌋
  | .rdn => (m : Int) = if neg then ⌈n⌉ else ⌊n⌋
  | .rup => (m : Int) = if neg then ⌊n⌋ else ⌈n⌉

section
variable {mode : Rnd} {neg : Bool} {num den m : Nat}

theorem frac_split (hd : 0 < den) : frac num den = (num / den : Nat) + ((num % den : Nat) : ℚ) / den := by
  have hd0 : (den : ℚ) ≠ 0 := by positivity
  have : ((den * (num / den) + num % den : Nat) : ℚ) = num := by rw [Nat.div_add_mod]
  push_cast at this
  rw [frac, ← this]
  field_simp

/-- The remainder's share of the divisor. -/
theorem rest_bounds (hd : 0 < den) : (0 : ℚ) ≤ ((num % den : Nat) : ℚ) / den ∧ ((num % den : Nat) : ℚ) / den < 1 := by
  have hd0 : (0 : ℚ) < den := Nat.cast_pos.2 hd
  exact ⟨by positivity, by rw [div_lt_one hd0]; exact Nat.cast_lt.2 (Nat.mod_lt _ hd)⟩

theorem floor_frac (hd : 0 < den) : ⌊frac num den⌋ = ((num / den : Nat) : Int) := by
  obtain ⟨h1, h2⟩ := rest_bounds (num := num) hd
  rw [Int.floor_eq_iff, frac_split hd, Int.cast_natCast]
  exact ⟨by linarith, by linarith⟩

theorem ceil_frac (hd : 0 < den) (hr : num % den ≠ 0) : ⌈frac num den⌉ = ((num / den + 1 : Nat) : Int) := by
  obtain ⟨h1, h2⟩ := rest_bounds (num := num) hd
  have h3 : (0 : ℚ) < ((num % den : Nat) : ℚ) / den := div_pos (Nat.cast_pos.2 (by omega)) (Nat.cast_pos.2 hd)
  rw [Int.ceil_eq_iff, frac_split hd, Int.cast_natCast]
  push_cast
  exact ⟨by linarith, by linarith⟩

/-- A natural number near a whole number and a share is one of its two neighbours. -/
theorem near_cases {q : Nat} {t : ℚ} (h0 : 0 ≤ t) (h1 : t < 1) (h : |(m : ℚ) - (q + t)| ≤ 1 / 2) : m = q ∨ m = q + 1 := by
  rw [abs_le] at h
  obtain ⟨ha, hb⟩ := h
  have hlo : (q : ℚ) < m + 1 := by linarith
  have hhi : (m : ℚ) < q + 2 := by linarith
  have hlo' : q < m + 1 := by exact_mod_cast hlo
  have hhi' : m < q + 2 := by exact_mod_cast hhi
  omega

theorem chooses_exact {q : Nat} (h : Chooses mode neg (q : ℚ) m) : m = q := by
  have hf : ⌊(q : ℚ)⌋ = (q : Int) := Int.floor_natCast q
  have hc : ⌈(q : ℚ)⌉ = (q : Int) := Int.ceil_natCast q
  cases mode with
  | rne =>
    rcases near_cases (q := q) le_rfl one_pos (by simpa using h.1) with hm | hm
    · exact hm
    · have ha := h.1
      rw [hm] at ha
      norm_num at ha
  | rtz => exact Int.ofNat.inj (h.trans hf)
  | rdn => cases neg <;> [exact Int.ofNat.inj (h.trans hf); exact Int.ofNat.inj (h.trans hc)]
  | rup => cases neg <;> [exact Int.ofNat.inj (h.trans hc); exact Int.ofNat.inj (h.trans hf)]

/-- Whether a mode takes the upper neighbour of a value between two multiples. -/
def roundsUp (mode : Rnd) (neg : Bool) (num den : Nat) : Bool :=
  match mode with
  | .rne => if 2 * (num % den) = den then num / den % 2 == 1 else decide (den < 2 * (num % den))
  | .rtz => false
  | .rdn => neg
  | .rup => !neg

theorem roundNat_exact (h : num % den = 0) : roundNat mode neg num den = (num / den, true) := if_pos h
theorem roundNat_inexact (h : num % den ≠ 0) :
    roundNat mode neg num den = (if roundsUp mode neg num den then num / den + 1 else num / den, false) := if_neg h

/-- The nearest multiple, ties to the even one. -/
theorem chooses_nearest (hd : 0 < den) (h : Chooses .rne neg (frac num den) m) :
    m = if roundsUp .rne neg num den then num / den + 1 else num / den := by
  obtain ⟨h1, h2⟩ := h
  obtain ⟨b1, b2⟩ := rest_bounds (num := num) hd
  rw [frac_split hd] at h1 h2
  have hd0 : (0 : ℚ) < den := Nat.cast_pos.2 hd
  have hlt : den < 2 * (num % den) ↔ 1 / 2 < ((num % den : Nat) : ℚ) / den := by
    rw [div_lt_div_iff₀ two_pos hd0, one_mul, ← Nat.cast_lt (α := ℚ)]
    push_cast
    rw [mul_comm]
  have heq : 2 * (num % den) = den ↔ ((num % den : Nat) : ℚ) / den = 1 / 2 := by
    rw [div_eq_div_iff hd0.ne' two_ne_zero, one_mul, ← Nat.cast_inj (R := ℚ)]
    push_cast
    rw [mul_comm]
  have hm := near_cases b1 b2 h1
  generalize ((num % den : Nat) : ℚ) / den = t at h1 h2 b1 b2 hlt heq
  rw [abs_le] at h1
  obtain ⟨hlo, hhi⟩ := h1
  by_cases htie : 2 * (num % den) = den
  · have ht := heq.1 htie
    have hup : roundsUp .rne neg num den = (num / den % 2 == 1) := if_pos htie
    have heven : m % 2 = 0 := by
      refine h2 ?_
      rcases hm with hm | hm
      · rw [hm, ht]
        norm_num
      · rw [hm, ht]
        push_cast
        norm_num
    rw [hup]
    by_cases hq : num / den % 2 = 1
    · rw [if_pos (beq_iff_eq.2 hq)]
      omega
    · rw [if_neg (by rw [beq_iff_eq]; exact hq)]
      omega
  · have hup : roundsUp .rne neg num den = decide (den < 2 * (num % den)) := if_neg htie
    rw [hup]
    by_cases hbig : den < 2 * (num % den)
    · rw [if_pos (decide_eq_true hbig)]
      have := hlt.1 hbig
      rcases hm with hm | hm
      · rw [hm] at hlo
        linarith
      · exact hm
    · rw [if_neg (by rw [decide_eq_true_iff]; exact hbig)]
      have hle : t < 1 / 2 := lt_of_le_of_ne (not_lt.1 (fun hc => hbig (hlt.2 hc))) (fun hc => htie (heq.2 hc))
      rcases hm with hm | hm
      · exact hm
      · rw [hm] at hhi
        push_cast at hhi
        linarith

/-- `roundNat` takes the integer that the mode chooses. -/
theorem roundNat_eq (hd : 0 < den) (h : Chooses mode neg (frac num den) m) :
    roundNat mode neg num den = (m, decide ((m : ℚ) = frac num den)) := by
  by_cases hr : num % den = 0
  · have hx : frac num den = ((num / den : Nat) : ℚ) := by rw [frac_split hd, hr, Nat.cast_zero, zero_div, add_zero]
    rw [hx] at h
    rw [roundNat_exact hr, chooses_exact h, hx, decide_eq_true rfl]
  · have hne : ∀ z : Nat, (z : ℚ) ≠ frac num den := by
      intro z hz
      have h1 := floor_frac (num := num) hd
      have h2 := ceil_frac hd hr
      rw [← hz, Int.floor_natCast] at h1
      rw [← hz, Int.ceil_natCast] at h2
      omega
    rw [roundNat_inexact hr, decide_eq_false (hne m)]
    congr 1
    symm
    cases mode with
    | rne => exact chooses_nearest hd h
    | rtz => exact Int.ofNat.inj (h.trans (floor_frac hd))
    | rdn => cases neg <;> [exact Int.ofNat.inj (h.trans (floor_frac hd)); exact Int.ofNat.inj (h.trans (ceil_frac hd hr))]
    | rup => cases neg <;> [exact Int.ofNat.inj (h.trans (ceil_frac hd hr)); exact Int.ofNat.inj (h.trans (floor_frac hd))]

/-- What a mode chooses is less than one multiple away. -/
theorem chooses_near {n : ℚ} (h : Chooses mode neg n m) : (m : ℚ) < n + 1 ∧ n < m + 1 := by
  have down : ((m : Nat) : Int) = ⌊n⌋ → (m : ℚ) < n + 1 ∧ n < m + 1 := by
    intro he
    have h1 := Int.floor_le n
    have h2 := Int.lt_floor_add_one n
    rw [← he] at h1 h2
    push_cast at h1 h2
    exact ⟨by linarith, h2⟩
  have up : ((m : Nat) : Int) = ⌈n⌉ → (m : ℚ) < n + 1 ∧ n < m + 1 := by
    intro he
    have h1 := Int.le_ceil n
    have h2 := Int.ceil_lt_add_one n
    rw [← he] at h1 h2
    push_cast at h1 h2
    exact ⟨h2, by linarith⟩
  cases mode with
  | rne =>
    obtain ⟨ha, hb⟩ := abs_le.1 h.1
    exact ⟨by linarith, by linarith⟩
  | rtz => exact down h
  | rdn => cases neg <;> [exact down h; exact up h]
  | rup => cases neg <;> [exact up h; exact down h]

theorem chooses_le {n : ℚ} {b : Nat} (h : Chooses mode neg n m) (hn : n ≤ b) : m ≤ b := by
  have h1 : (m : ℚ) < b + 1 := (chooses_near h).1.trans_le (by linarith)
  have h2 : m < b + 1 := by exact_mod_cast h1
  omega

theorem le_chooses {n : ℚ} {b : Nat} (h : Chooses mode neg n m) (hn : (b : ℚ) ≤ n) : b ≤ m := by
  have h1 : (b : ℚ) < m + 1 := hn.trans_lt (chooses_near h).2
  have h2 : b < m + 1 := by exact_mod_cast h1
  omega

end

/-! ## Patterns (R85) -/

/-- What every format of the machine satisfies. -/
structure FmtOk (f : Fmt) : Prop where
  small : 2 ^ f.fbits ≤ f.mmax
  large : f.mmax < 2 ^ (f.fbits + 1)
  bias  : 1 ≤ f.bias
  top   : 1 ≤ f.etop
  range : f.emax + f.bias ≤ f.etop
  inf   : f.inf = true → f.emax + f.bias < f.etop
  nan   : f.inf = false → f.mmax + 1 < 2 ^ (f.fbits + 1)

theorem fmtOk_all : ∀ f ∈ [f32, f16, bf16, e4m3, e5m2, wide], FmtOk f := by
  intro f hf
  simp only [List.mem_cons, List.not_mem_nil, or_false] at hf
  rcases hf with rfl | rfl | rfl | rfl | rfl | rfl <;> constructor <;> decide

/-- A pattern of a sign, an exponent field and a fraction. -/
def pattern (f : Fmt) (neg : Bool) (E M : Nat) : Nat := (if neg then f.signBit else 0) + E * 2 ^ f.fbits + M

section
variable {f : Fmt} {neg : Bool} {E M : Nat}

theorem etop_lt (f : Fmt) : f.etop < 2 ^ f.ebits := by
  have := Nat.two_pow_pos f.ebits
  unfold Fmt.etop
  omega

/-- The fields of a pattern. -/
theorem pattern_fields (hE : E < 2 ^ f.ebits) (hM : M < 2 ^ f.fbits) : pattern f neg E M % 2 ^ f.fbits = M
    ∧ pattern f neg E M / 2 ^ f.fbits % 2 ^ f.ebits = E ∧ (pattern f neg E M / f.signBit % 2 == 1) = neg := by
  have hx : pattern f neg E M = M + 2 ^ f.fbits * (E + 2 ^ f.ebits * (if neg then 1 else 0)) := by
    unfold pattern Fmt.signBit
    cases neg <;> simp only [if_true, if_false, Bool.false_eq_true] <;> ring
  have hdiv : pattern f neg E M / 2 ^ f.fbits = E + 2 ^ f.ebits * (if neg then 1 else 0) := by
    rw [hx, Nat.add_mul_div_left _ _ (Nat.two_pow_pos _), Nat.div_eq_of_lt hM, Nat.zero_add]
  refine ⟨?_, ?_, ?_⟩
  · rw [hx, Nat.add_mul_mod_self_left, Nat.mod_eq_of_lt hM]
  · rw [hdiv, Nat.add_mul_mod_self_left, Nat.mod_eq_of_lt hE]
  · have hs : f.signBit = 2 ^ f.fbits * 2 ^ f.ebits := by rw [Fmt.signBit, Nat.pow_add, Nat.mul_comm]
    rw [hs, ← Nat.div_div_eq_div_mul, hdiv, Nat.add_mul_div_left _ _ (Nat.two_pow_pos _), Nat.div_eq_of_lt hE, Nat.zero_add]
    cases neg <;> rfl

/-- The value of a finite pattern, in multiples of the spacing that its exponent field gives. -/
theorem decode_pattern (hE : E < 2 ^ f.ebits) (hM : M < 2 ^ f.fbits) (hinf : ¬ (E = f.etop ∧ f.inf = true))
    (hnan : ¬ (E = f.etop ∧ M = 2 ^ f.fbits - 1)) : ∃ a b, f.decode (pattern f neg E M) = .fin neg a b
      ∧ (a : ℚ) / b = (((if E = 0 then M else 2 ^ f.fbits + M : Nat)) : ℚ) * 2 ^ ((max E 1 : Nat) - (f.bias : Int) - f.fbits) := by
  obtain ⟨h1, h2, h3⟩ := pattern_fields (neg := neg) hE hM
  unfold Fmt.decode
  rw [h1, h2, h3]
  dsimp only
  rw [if_neg hinf, if_neg hnan]
  by_cases hx : f.bias + f.fbits ≤ max E 1
  · rw [if_pos hx]
    refine ⟨_, _, rfl, ?_⟩
    rw [zpow_toNat (by omega)]
    have : ((max E 1 : Nat) - (f.bias : Int) - f.fbits).toNat = max E 1 - (f.bias + f.fbits) := by omega
    rw [this]
    push_cast
    rw [div_one]
  · rw [if_neg hx]
    refine ⟨_, _, rfl, ?_⟩
    have hk : ((max E 1 : Nat) - (f.bias : Int) - f.fbits) = -(((f.bias + f.fbits - max E 1 : Nat)) : Int) := by omega
    rw [hk, zpow_neg, zpow_natCast]
    push_cast
    rw [div_eq_mul_inv]

end

/-! ## The value that a pattern is made for (R89, R90) -/

/-- A multiple of the spacing that belongs to its exponent. -/
structure Fits (f : Fmt) (e : Int) (m : Nat) : Prop where
  below : m < 2 ^ (f.fbits + 1)
  low   : f.emin ≤ e
  full  : 2 ^ f.fbits ≤ m ∨ e = f.emin

/-- Past the largest finite value. -/
def Past (f : Fmt) (e : Int) (m : Nat) : Prop := (f.emax : Int) < e ∨ (e = (f.emax : Int) ∧ f.mmax < m)

/-- The value of a multiple. -/
def multiple (f : Fmt) (e : Int) (m : Nat) : ℚ := m * 2 ^ (e - f.fbits)

section
variable {f : Fmt} {neg : Bool} {e : Int} {m : Nat}

theorem emin_le_emax (hf : FmtOk f) : f.emin ≤ f.emax := by
  have := hf.bias
  unfold Fmt.emin
  omega

theorem spacing (k : Int) (n : Nat) : ((2 ^ n : Nat) : ℚ) * 2 ^ (k - n) = 2 ^ k := by
  push_cast
  rw [← zpow_natCast, ← zpow_add₀ two_ne_zero]
  congr 1
  ring

theorem past_iff (hf : FmtOk f) (hm : Fits f e m) : Past f e m ↔ multiple f f.emax f.mmax < multiple f e m := by
  obtain ⟨hb, hl, hfull⟩ := hm
  have hmono : ∀ {a b : Int}, a ≤ b → (2 : ℚ) ^ a ≤ 2 ^ b := fun h => zpow_le_zpow_right₀ one_le_two h
  have hpos : ∀ a : Int, (0 : ℚ) < 2 ^ a := fun a => by positivity
  unfold Past multiple
  rcases lt_trichotomy e (f.emax : Int) with h | h | h
  · refine iff_of_false (fun hc => hc.elim (fun hx => absurd hx (by omega)) (fun hx => absurd hx.1 (by omega))) (not_lt.2 ?_)
    calc (m : ℚ) * 2 ^ (e - f.fbits) ≤ ((2 ^ (f.fbits + 1) : Nat) : ℚ) * 2 ^ (e - f.fbits) :=
          mul_le_mul_of_nonneg_right (Nat.cast_le.2 hb.le) (hpos _).le
      _ = 2 ^ (e + 1) := by rw [← spacing (e + 1) (f.fbits + 1)]; congr 2; push_cast; ring
      _ ≤ 2 ^ (f.emax : Int) := hmono (by omega)
      _ = ((2 ^ f.fbits : Nat) : ℚ) * 2 ^ ((f.emax : Int) - f.fbits) := (spacing _ _).symm
      _ ≤ f.mmax * 2 ^ ((f.emax : Int) - f.fbits) := mul_le_mul_of_nonneg_right (Nat.cast_le.2 hf.small) (hpos _).le
  · subst h
    rw [mul_lt_mul_iff_left₀ (hpos _), Nat.cast_lt (α := ℚ)]
    exact ⟨fun hc => hc.elim (fun hx => absurd hx (lt_irrefl _)) (fun hx => hx.2), fun hx => .inr ⟨rfl, hx⟩⟩
  · refine iff_of_true (.inl h) ?_
    have h2 : 2 ^ f.fbits ≤ m := hfull.resolve_right (by have := emin_le_emax hf; omega)
    calc (f.mmax : ℚ) * 2 ^ ((f.emax : Int) - f.fbits) < ((2 ^ (f.fbits + 1) : Nat) : ℚ) * 2 ^ ((f.emax : Int) - f.fbits) :=
          mul_lt_mul_of_pos_right (Nat.cast_lt.2 hf.large) (hpos _)
      _ = 2 ^ ((f.emax : Int) + 1) := by rw [← spacing ((f.emax : Int) + 1) (f.fbits + 1)]; congr 2; push_cast; ring
      _ ≤ 2 ^ e := hmono (by omega)
      _ = ((2 ^ f.fbits : Nat) : ℚ) * 2 ^ (e - f.fbits) := (spacing _ _).symm
      _ ≤ m * 2 ^ (e - f.fbits) := mul_le_mul_of_nonneg_right (Nat.cast_le.2 h2) (hpos _).le

/-- The pattern of a multiple. -/
def patternOf (f : Fmt) (neg : Bool) (e : Int) (m : Nat) : Nat :=
  if m < 2 ^ f.fbits then pattern f neg 0 m else pattern f neg (e + (f.bias : Int)).toNat (m - 2 ^ f.fbits)

theorem decode_patternOf (hf : FmtOk f) (hm : Fits f e m) (hp : ¬ Past f e m) :
    ∃ a b, f.decode (patternOf f neg e m) = .fin neg a b ∧ (a : ℚ) / b = multiple f e m := by
  obtain ⟨hb, hl, hfull⟩ := hm
  have htop := etop_lt f
  have h1 := hf.top
  have h2 := hf.range
  have h3 := hf.large
  unfold Past at hp
  unfold Fmt.emin at hl hfull
  unfold patternOf multiple
  rw [Nat.pow_succ] at hb h3
  by_cases hs : m < 2 ^ f.fbits
  · rw [if_pos hs]
    have he := hfull.resolve_left (by omega)
    obtain ⟨a, b, hd, hv⟩ := decode_pattern (f := f) (neg := neg) (E := 0) (M := m) (by omega) hs (fun h => by omega) (fun h => by omega)
    refine ⟨a, b, hd, hv.trans ?_⟩
    rw [if_pos rfl, he]
    norm_num
  · rw [if_neg hs]
    have hE : (e + (f.bias : Int)).toNat ≤ f.etop := by omega
    obtain ⟨a, b, hd, hv⟩ := decode_pattern (f := f) (neg := neg) (E := (e + (f.bias : Int)).toNat) (M := m - 2 ^ f.fbits)
      (by omega) (by omega) (fun h => by have := hf.inf h.2; omega) (fun h => by
        by_cases hi : f.inf = true
        · have := hf.inf hi
          omega
        · have := hf.nan (Bool.eq_false_iff.2 hi)
          rw [Nat.pow_succ] at this
          omega)
    refine ⟨a, b, hd, hv.trans ?_⟩
    have hz : (e + (f.bias : Int)).toNat ≠ 0 := by omega
    have hk : ((max (e + (f.bias : Int)).toNat 1 : Nat) : Int) - (f.bias : Int) - f.fbits = e - f.fbits := by omega
    rw [if_neg hz, hk, Nat.add_sub_cancel' (not_lt.1 hs)]

theorem decode_largest (hf : FmtOk f) : ∃ a b, f.decode (f.largest neg) = .fin neg a b ∧ (a : ℚ) / b = multiple f f.emax f.mmax := by
  have hle : ¬ f.mmax < 2 ^ f.fbits := not_lt.2 hf.small
  have hp : f.largest neg = patternOf f neg f.emax f.mmax := by
    have : ((f.emax : Int) + (f.bias : Int)).toNat = f.emax + f.bias := by omega
    rw [patternOf, if_neg hle, this]
    rfl
  rw [hp]
  exact decode_patternOf hf ⟨hf.large, emin_le_emax hf, .inl hf.small⟩ (fun h => h.elim (lt_irrefl _) (fun h => lt_irrefl _ h.2))

theorem decode_infinity (hi : f.inf = true) : f.decode (f.infinity neg) = .inf neg := by
  have hx : f.infinity neg = pattern f neg f.etop 0 := rfl
  obtain ⟨h1, h2, h3⟩ := pattern_fields (f := f) (neg := neg) (E := f.etop) (M := 0) (etop_lt f) (Nat.two_pow_pos _)
  rw [hx]
  unfold Fmt.decode
  rw [h1, h2, h3]
  dsimp only
  rw [if_pos ⟨rfl, hi⟩, if_pos rfl]

end

/-! ## Round (R89, R90) -/

/-- A rounded multiple put into its format: the next exponent where it fills up, and overflow. -/
def placed (f : Fmt) (mode : Rnd) (sat neg : Bool) (e : Int) (m : Nat) (nx : FlagSet) : Res Nat :=
  let (e, m) := if m = 2 ^ (f.fbits + 1) then (e + 1, 2 ^ f.fbits) else (e, m)
  if (f.emax : Int) < e ∨ (e = (f.emax : Int) ∧ f.mmax < m) then overflowTo f mode sat neg
  else
    let s := if neg then f.signBit else 0
    if m < 2 ^ f.fbits then ⟨s + m, nx⟩
    else ⟨s + (e + (f.bias : Int)).toNat * 2 ^ f.fbits + (m - 2 ^ f.fbits), nx⟩

/-- The flags of a rounding that did not overflow. -/
def roundFlags (exact tiny : Bool) : FlagSet := fIf (!exact) fNX ||| fIf (!exact && tiny) fUF

theorem roundTo_placed {f : Fmt} {mode : Rnd} {sat neg : Bool} {num den : Nat} (hn : num ≠ 0) :
    let e := max (floorLog2 num den) f.emin
    let r := roundNat mode neg (scaled (e - f.fbits) num den).1 (scaled (e - f.fbits) num den).2
    roundTo f mode sat neg num den = placed f mode sat neg e r.1 (roundFlags r.2 (decide (floorLog2 num den < f.emin))) := by
  intro e r
  rw [roundTo, if_neg hn]
  unfold r scaled
  dsimp only
  by_cases h : 0 ≤ max (floorLog2 num den) f.emin - (f.fbits : Int)
  · rw [if_pos h, if_pos h]
    rfl
  · rw [if_neg h, if_neg h]
    rfl

section
variable {f : Fmt} {mode : Rnd} {sat neg : Bool} {e : Int} {m : Nat} {nx : FlagSet}

theorem placed_past (hm : m ≠ 2 ^ (f.fbits + 1)) (h : Past f e m) : placed f mode sat neg e m nx = overflowTo f mode sat neg := by
  rw [placed, if_neg hm]
  exact if_pos h

theorem placed_fits (hm : m ≠ 2 ^ (f.fbits + 1)) (h : ¬ Past f e m) : placed f mode sat neg e m nx = ⟨patternOf f neg e m, nx⟩ := by
  rw [placed, if_neg hm]
  refine (if_neg h).trans ?_
  dsimp only
  unfold patternOf pattern
  split
  · rw [Nat.zero_mul, Nat.add_zero]
  · rfl

/-- A multiple that fills its exponent up is the least of the next. -/
theorem placed_carry : placed f mode sat neg e (2 ^ (f.fbits + 1)) nx = placed f mode sat neg (e + 1) (2 ^ f.fbits) nx := by
  have hne : 2 ^ f.fbits ≠ 2 ^ (f.fbits + 1) := by
    have := Nat.two_pow_pos f.fbits
    rw [Nat.pow_succ]
    omega
  rw [placed, if_pos rfl, placed, if_neg hne]

theorem multiple_carry : multiple f (e + 1) (2 ^ f.fbits) = multiple f e (2 ^ (f.fbits + 1)) := by
  unfold multiple
  rw [spacing, ← spacing (e + 1) (f.fbits + 1)]
  congr 2
  push_cast
  ring

/-- What a multiple becomes. -/
structure PlacedAs (f : Fmt) (mode : Rnd) (sat neg : Bool) (nx : FlagSet) (y : ℚ) (r : Res Nat) : Prop where
  fits : y ≤ multiple f f.emax f.mmax → (∃ a b, f.decode r.val = .fin neg a b ∧ (a : ℚ) / b = y) ∧ r.flags = nx
  past : multiple f f.emax f.mmax < y → r = overflowTo f mode sat neg

theorem placed_spec (hf : FmtOk f) (hl : f.emin ≤ e) (hb : m ≤ 2 ^ (f.fbits + 1)) (hfull : 2 ^ f.fbits ≤ m ∨ e = f.emin) :
    PlacedAs f mode sat neg nx (multiple f e m) (placed f mode sat neg e m nx) := by
  have main : ∀ {e : Int} {m : Nat}, Fits f e m → PlacedAs f mode sat neg nx (multiple f e m) (placed f mode sat neg e m nx) := by
    intro e m hm
    have hpast := past_iff hf hm
    refine ⟨fun hy => ?_, fun hy => placed_past hm.below.ne (hpast.2 hy)⟩
    have hnp : ¬ Past f e m := fun hc => absurd (hpast.1 hc) (not_lt.2 hy)
    rw [placed_fits hm.below.ne hnp]
    exact ⟨decode_patternOf hf hm hnp, rfl⟩
  by_cases hc : m = 2 ^ (f.fbits + 1)
  · rw [hc, placed_carry, ← multiple_carry]
    exact main ⟨Nat.pow_lt_pow_right (by decide) (Nat.lt_succ_self _), by omega, .inl le_rfl⟩
  · exact main ⟨lt_of_le_of_ne hb hc, hl, hfull⟩

/-- An overflow that gives the largest finite value. -/
def GivesLargest (mode : Rnd) (sat neg : Bool) : Prop := sat = true ∨ mode = .rtz ∨ (mode = .rdn ∧ neg = false) ∨ (mode = .rup ∧ neg = true)

theorem overflowTo_largest (h : GivesLargest mode sat neg) : overflowTo f mode sat neg = ⟨f.largest neg, fOF ||| fNX⟩ := by
  refine if_pos ?_
  rcases h with rfl | rfl | ⟨rfl, rfl⟩ | ⟨rfl, rfl⟩
  · rfl
  · exact Bool.or_true _
  · exact Bool.or_true _
  · exact Bool.or_true _

theorem overflowTo_over (h : ¬ GivesLargest mode sat neg) :
    overflowTo f mode sat neg = ⟨if f.inf then f.infinity neg else f.canonNaN, fOF ||| fNX⟩ := by
  unfold GivesLargest at h
  cases mode with
  | rne => cases sat <;> [rfl; exact absurd (.inl rfl) h]
  | rtz => exact absurd (.inr (.inl rfl)) h
  | rdn => cases sat <;> cases neg <;> [exact absurd (.inr (.inr (.inl ⟨rfl, rfl⟩))) h; rfl; exact absurd (.inl rfl) h; exact absurd (.inl rfl) h]
  | rup => cases sat <;> cases neg <;> [rfl; exact absurd (.inr (.inr (.inr ⟨rfl, rfl⟩))) h; exact absurd (.inl rfl) h; exact absurd (.inl rfl) h]

/-- What an overflow leaves (R90). -/
theorem overflow_rule (hf : FmtOk f) : (overflowTo f mode sat neg).flags = fOF ||| fNX
    ∧ (GivesLargest mode sat neg → ∃ a b, f.decode (overflowTo f mode sat neg).val = .fin neg a b ∧ (a : ℚ) / b = multiple f f.emax f.mmax)
    ∧ (¬ GivesLargest mode sat neg → f.inf = true → f.decode (overflowTo f mode sat neg).val = .inf neg)
    ∧ (¬ GivesLargest mode sat neg → f.inf = false → (overflowTo f mode sat neg).val = f.canonNaN) := by
  by_cases h : GivesLargest mode sat neg
  · rw [overflowTo_largest h]
    exact ⟨rfl, fun _ => decode_largest hf, fun hn => absurd h hn, fun hn => absurd h hn⟩
  · rw [overflowTo_over h]
    exact ⟨rfl, fun hy => absurd hy h, fun _ hi => by rw [if_pos hi]; exact decode_infinity hi,
      fun _ hi => by rw [if_neg (by rw [hi]; decide)]⟩

end

/-- The exponent of a value, and where the value lies in its multiples. -/
theorem exponent_spec {f : Fmt} {num den : Nat} {e : Int} (hn : 0 < num) (hd : 0 < den)
    (h : ((2 : ℚ) ^ e ≤ frac num den ∧ frac num den < 2 ^ (e + 1) ∧ f.emin ≤ e) ∨ (frac num den < 2 ^ f.emin ∧ e = f.emin)) :
    max (floorLog2 num den) f.emin = e ∧ f.emin ≤ e ∧ frac num den / 2 ^ (e - f.fbits) ≤ ((2 ^ (f.fbits + 1) : Nat) : ℚ)
    ∧ (((2 ^ f.fbits : Nat) : ℚ) ≤ frac num den / 2 ^ (e - f.fbits) ∨ e = f.emin)
    ∧ (floorLog2 num den < f.emin ↔ frac num den < 2 ^ f.emin) := by
  have hp : (0 : ℚ) < 2 ^ (e - f.fbits) := by positivity
  have hup : ((2 ^ (f.fbits + 1) : Nat) : ℚ) * 2 ^ (e - f.fbits) = 2 ^ (e + 1) := by
    rw [← spacing (e + 1) (f.fbits + 1)]
    congr 2
    push_cast
    ring
  have hiff : floorLog2 num den < f.emin ↔ frac num den < 2 ^ f.emin :=
    ⟨fun hlt => not_le.1 (fun hc => absurd (le_floorLog2 hn hd hc) (not_le.2 hlt)), floorLog2_lt hn hd⟩
  rcases h with ⟨h1, h2, h3⟩ | ⟨h1, h2⟩
  · have he := floorLog2_eq hn hd h1 h2
    refine ⟨by omega, h3, ?_, .inl ?_, hiff⟩
    · rw [div_le_iff₀ hp, hup]
      exact h2.le
    · rw [le_div_iff₀ hp, spacing]
      exact h1
  · have hlt := floorLog2_lt hn hd h1
    refine ⟨by omega, h2.ge, ?_, .inr h2, hiff⟩
    rw [div_le_iff₀ hp, hup]
    exact h1.le.trans (zpow_le_zpow_right₀ one_le_two (by omega))

theorem roundFlags_eq (p q : Prop) [Decidable p] [Decidable q] :
    roundFlags (decide p) (decide q) = fIf (decide (¬ p)) fNX ||| fIf (decide (¬ p ∧ q)) fUF := by
  unfold roundFlags
  by_cases hp : p <;> by_cases hq : q <;> simp [hp, hq]

/-- Settles O26: the exponent is the value's, `roundNat` takes the multiple that the mode chooses, and the pattern holds it. -/
theorem roundFollowsItsRule : Obligations.RoundFollowsItsRule := by
  intro f mode sat neg num den e m hf hn hd x pow big he n hm y r
  have hok := fmtOk_all f hf
  obtain ⟨hmax, hlow, hub, hfull, htiny⟩ := exponent_spec (f := f) hn hd he
  have hch : Chooses mode neg n m := hm
  have hround : roundNat mode neg (scaled (e - f.fbits) num den).1 (scaled (e - f.fbits) num den).2 = (m, decide ((m : ℚ) = n)) := by
    have hs : frac (scaled (e - f.fbits) num den).1 (scaled (e - f.fbits) num den).2 = n := scaled_frac _ _ _
    rw [roundNat_eq (scaled_pos hd) (by rw [hs]; exact hch), hs]
  have hr : r = placed f mode sat neg e m (roundFlags (decide ((m : ℚ) = n)) (decide (floorLog2 num den < f.emin))) := by
    have := roundTo_placed (f := f) (mode := mode) (sat := sat) (neg := neg) (num := num) (den := den) (by omega)
    rw [hmax] at this
    dsimp only at this
    rw [hround] at this
    exact this
  obtain ⟨hfits, hpast⟩ := placed_spec (mode := mode) (sat := sat) (neg := neg)
    (nx := roundFlags (decide ((m : ℚ) = n)) (decide (floorLog2 num den < f.emin))) hok hlow (chooses_le hch hub)
    (hfull.imp (fun h => le_chooses hch h) id)
  rw [← hr] at hfits hpast
  refine ⟨fun hy => ?_, fun hy => ?_⟩
  · obtain ⟨hv, hflags⟩ := hfits hy
    refine ⟨hv, hflags.trans ?_⟩
    rw [roundFlags_eq]
    simp only [htiny]
    rfl
  · obtain ⟨o1, o2, o3, o4⟩ := overflow_rule (mode := mode) (sat := sat) (neg := neg) hok
    rw [hpast hy]
    refine ⟨o1, ?_⟩
    split_ifs with hl hi
    · exact o2 hl
    · exact o3 hl hi
    · exact o4 hl (Bool.eq_false_iff.2 hi)

end Sys2Proof.Proofs
end

section
/-! PROOFS. The beat, sensors, limits, caps and floors (R273 to R275, R280 to R284): what a change of the budget keeps, how the
code is aimed at, how a change of the code carries the agenda over, and what a sample of the sensors raises. -/

namespace Sys2Proof.Proofs

open Sys2Proof.Machine Sys2Proof.Safety Sys2Proof.Laws

/-! ### The budget that releases rested on -/

/-- What the registers keep of budgets once `s` has become `t`. -/
def pastAfter (s t : State) : List (Nat × Budget) :=
  if t.budgetNow = s.budgetNow then t.dev.power.past
  else t.dev.power.past.filter (fun e => decide (s.now < e.1 + 480)) ++ [(s.now, s.budgetNow)]

theorem modBudget_eq (s : State) (f : State → State) :
    s.modBudget f = (f s).modPower (fun p => { p with past := pastAfter s (f s) }) := by
  unfold State.modBudget pastAfter
  dsimp only
  by_cases h : (f s).budgetNow = s.budgetNow
  · rw [if_pos h, if_pos h]; rfl
  · rw [if_neg h, if_neg h]; rfl

/-- The budget of `s` is kept, where that of `t` is another one. -/
def KeepsPast (s t : State) : Prop :=
  (t.budgetNow = s.budgetNow → t.dev.power.past = s.dev.power.past)
  ∧ (t.budgetNow ≠ s.budgetNow → t.dev.power.past = s.dev.power.past.filter (fun e => decide (s.now < e.1 + 480)) ++ [(s.now, s.budgetNow)])

theorem keepsPast_after {s u t : State} (hb : t.budgetNow = u.budgetNow) (hp : u.dev.power.past = s.dev.power.past)
    (ht : t.dev.power.past = pastAfter s u) : KeepsPast s t := by
  unfold KeepsPast
  rw [ht, hb, pastAfter, hp]
  exact ⟨fun h => if_pos h, fun h => if_neg h⟩

/-! ### The code that is aimed at -/

/-- All but the agenda, the numbers of free values and the power registers, which are `p`. -/
def powerless (p : Power) (t : State) : State := { t with agenda := [], fresh := 0, dev := { t.dev with power := p } }

/-- From `s`, with power registers `f`, the change towards min(REQ, CEIL) or the code of a trip is under way; `more` is
another step put on the agenda. -/
def Aims (s : State) (f : Power) (more : Option Due) (t : State) : Prop :=
  let goal := if f.trip then 10 else min f.req f.ceil
  powerless s.dev.power t = powerless s.dev.power s ∧ (∀ d, more = some d → d ∈ t.agenda)
  ∧ (goal = (if f.busy then f.target else f.cur) → t.dev.power = f
      ∧ t.agenda = (match more with | some d => agendaInsert d s.agenda | none => s.agenda))
  ∧ (goal ≠ (if f.busy then f.target else f.cur) → t.dev.power = { f with busy := true, target := goal }
      ∧ ∃ u, ⟨u, .beatChange⟩ ∈ t.agenda ∧ (∀ e ∈ t.agenda, e.ev = .beatChange → e.at_ = u) ∧ s.now < u ∧ u % 120 = 0
        ∧ (goal ≤ f.cur → u ≤ s.now + 120) ∧ (120 ≤ s.nsTicks 20000 → u ≤ s.now + s.nsTicks 20000 + 120))

/-- `s` with other power registers, and perhaps another number of free values. -/
def repowered (s : State) (n : Nat) (f : Power) : State := { s with fresh := n, dev := { s.dev with power := f } }

theorem beat_bounds (s : State) : s.beat * 120 ≤ s.now ∧ s.now < (s.beat + 1) * 120 := by
  have h : s.beat = s.now / 120 := rfl
  rw [h]; omega

/-- A step put on an agenda that is clear of changes of the beat is the only one. -/
theorem only_beatChange (s : State) (u : Nat) :
    ⟨u, .beatChange⟩ ∈ ((s.cancel .beatChange).post u .beatChange).agenda
    ∧ ∀ e ∈ ((s.cancel .beatChange).post u .beatChange).agenda, e.ev = .beatChange → e.at_ = u := by
  have hmem : ∀ e, e ∈ ((s.cancel .beatChange).post u .beatChange).agenda ↔ e = ⟨u, .beatChange⟩ ∨ e ∈ (s.cancel .beatChange).agenda :=
    fun e => mem_agendaInsert _ _ _
  refine ⟨(hmem _).2 (.inl rfl), fun e he hev => ?_⟩
  rcases (hmem e).1 he with rfl | h
  · rfl
  · have := (List.mem_filter.1 h).2
    simp [hev] at this

/-- The code that the registers call for, and the code that holds or is under way. -/
def goalOf (p : Power) : Nat := if p.trip then 10 else min p.req p.ceil
def aimOf (p : Power) : Nat := if p.busy then p.target else p.cur

theorem aimBeat_same {s : State} (h : goalOf s.dev.power = aimOf s.dev.power) : s.aimBeat = s := if_pos h

/-- A new code is put on the agenda at a beat boundary: the next, or for a higher code one of those within 20 µs. -/
theorem aimBeat_other {s : State} (h : goalOf s.dev.power ≠ aimOf s.dev.power) : ∃ d n,
    s.aimBeat = ((repowered s n { s.dev.power with busy := true, target := goalOf s.dev.power }).cancel .beatChange).post
      ((s.beat + 1 + d) * 120) .beatChange
    ∧ (goalOf s.dev.power ≤ s.dev.power.cur → d = 0) ∧ (120 ≤ s.nsTicks 20000 → d < s.nsTicks 20000 / 120) := by
  by_cases hup : s.dev.power.cur < goalOf s.dev.power
  · refine ⟨Config.freeSettle s.fresh % (s.nsTicks 20000 / 120), s.fresh + 1, (if_neg h).trans (if_pos hup), fun hle => ?_, fun hns => ?_⟩
    · exact absurd hup (Nat.not_lt.2 hle)
    · exact Nat.mod_lt _ (by omega)
  · exact ⟨0, s.fresh, (if_neg h).trans (if_neg hup), fun _ => rfl, fun hns => by omega⟩

/-- All but the agenda, the numbers of free values and the code that is aimed at. -/
def aimless (t : State) : State :=
  { t with agenda := [], fresh := 0, dev := { t.dev with power := { t.dev.power with busy := false, target := 0 } } }

theorem aimless_aimBeat (s : State) : aimless s.aimBeat = aimless s := by
  by_cases h : goalOf s.dev.power = aimOf s.dev.power
  · rw [aimBeat_same h]
  · obtain ⟨d, n, heq, -, -⟩ := aimBeat_other h
    rw [heq]
    rfl

theorem aims_aimBeat (s : State) (n : Nat) (f : Power) (hcur : f.cur = s.dev.power.cur) :
    Aims s f none (repowered s n f).aimBeat := by
  by_cases hgoal : goalOf f = aimOf f
  · rw [aimBeat_same (s := repowered s n f) hgoal]
    exact ⟨rfl, fun _ h => absurd h (Option.some_ne_none _).symm, fun _ => ⟨rfl, rfl⟩, fun h => absurd hgoal h⟩
  · obtain ⟨d, m, heq, hdown, hup⟩ := aimBeat_other (s := repowered s n f) hgoal
    have hns : (repowered s n f).nsTicks 20000 = s.nsTicks 20000 := by unfold State.nsTicks repowered; rw [hcur]
    have hb := beat_bounds s
    rw [hns] at hup
    rw [heq]
    obtain ⟨hin, honly⟩ := only_beatChange (repowered s m { f with busy := true, target := goalOf f }) ((s.beat + 1 + d) * 120)
    refine ⟨rfl, fun _ h => absurd h (Option.some_ne_none _).symm, fun h => absurd h hgoal,
      fun _ => ⟨rfl, (s.beat + 1 + d) * 120, hin, honly, by omega, by omega, fun hle => ?_, fun hle => ?_⟩⟩
    · rw [hdown hle]; omega
    · have := hup hle; omega

/-- A further step on the agenda leaves the aim as it is. -/
theorem aims_post {s t : State} {f : Power} (u : Nat) {ev : Event} (hev : ev ≠ .beatChange) (h : Aims s f none t) :
    Aims s f (some ⟨u, ev⟩) (t.post u ev) := by
  obtain ⟨hrest, -, hsame, hother⟩ := h
  have hmem : ∀ e, e ∈ (t.post u ev).agenda ↔ e = ⟨u, ev⟩ ∨ e ∈ t.agenda := fun e => mem_agendaInsert _ _ _
  refine ⟨hrest, fun d hd => (hmem d).2 (.inl (Option.some.inj hd).symm), fun hg => ?_, fun hg => ?_⟩
  · obtain ⟨hp, ha⟩ := hsame hg
    exact ⟨hp, congrArg (agendaInsert ⟨u, ev⟩) ha⟩
  · obtain ⟨hp, v, hin, honly, hv⟩ := hother hg
    refine ⟨hp, v, (hmem _).2 (.inr hin), fun e he hb => ?_, hv⟩
    rcases (hmem e).1 he with rfl | h
    · exact absurd hb hev
    · exact honly e h hb

/-! ### A change of the code -/

/-- A reflexive and transitive relation that each step keeps holds between the ends of a fold. -/
theorem foldl_related {σ α : Type} {R : σ → σ → Prop} (hrefl : ∀ s, R s s) (htrans : ∀ {s t u}, R s t → R t u → R s u)
    (f : σ → α → σ) (hf : ∀ s a, R s (f s a)) : ∀ (l : List α) (s : σ), R s (l.foldl f s)
  | [], s => hrefl s
  | a :: l, s => htrans (hf s a) (foldl_related hrefl htrans f hf l (f s a))

/-- Counts of SLEEP and TWAIT may have been carried over; nothing else differs. -/
structure Recounts (s t : State) : Prop where
  machine : { t with cores := [], agenda := [] } = { s with cores := [], agenda := [] }
  near    : ∀ j b, nearByte t j b = nearByte s j b
  ctx     : ∀ r, (s.ctx r).run = .ready ∨ (s.ctx r).run = .running → t.ctx r = s.ctx r
  agenda  : ∀ e ∈ s.agenda, (∀ k i, e.ev ≠ .sleepExpiry k i ∧ e.ev ≠ .twaitExpiry k i) → e ∈ t.agenda

theorem Recounts.refl (s : State) : Recounts s s := ⟨rfl, fun _ _ => rfl, fun _ _ => rfl, fun _ h _ => h⟩

theorem Recounts.trans {s t u : State} (h : Recounts s t) (g : Recounts t u) : Recounts s u where
  machine := g.machine.trans h.machine
  near j b := (g.near j b).trans (h.near j b)
  ctx r hr := by
    have hst := h.ctx r hr
    rw [g.ctx r (by rw [hst]; exact hr), hst]
  agenda e he hne := g.agenda e (h.agenda e he hne) hne

theorem near_modCtx (s : State) (q : Nat × Nat) (f : Ctx → Ctx) (j b : Nat) : nearByte (s.modCtx q f) j b = nearByte s j b := by
  unfold nearByte State.modCtx
  rw [core_modCore]
  split_ifs with h
  · rw [← h]; rfl
  · rfl

/-- A count that a context waits for is put on the agenda anew. -/
theorem recounts_gated {s : State} {q : Nat × Nat} {w : Wait} (hw : (s.ctx q).run = .gated w) {ev : Event}
    (hev : ev = .sleepExpiry q.1 q.2 ∨ ev = .twaitExpiry q.1 q.2) (f : Ctx → Ctx) (u : Nat) :
    Recounts s (((s.cancel ev).modCtx q f).post u ev) where
  machine := rfl
  near j b := near_modCtx (s.cancel ev) q f j b
  ctx r hr := by
    refine (state_ctx_modCtx (s.cancel ev) q r f).trans (if_neg ?_)
    rintro rfl
    rw [hw] at hr
    exact hr.elim nofun nofun
  agenda e he hne := by
    refine (mem_agendaInsert _ _ _).2 (.inr (List.mem_filter.2 ⟨he, decide_eq_true ?_⟩))
    rcases hev with rfl | rfl
    · exact (hne q.1 q.2).1
    · exact (hne q.1 q.2).2

theorem recount_recounts (s : State) (q : Nat × Nat) (old : Nat) : Recounts s (s.recount q old) := by
  unfold State.recount
  split
  next left since h => exact recounts_gated h (.inl rfl) _ _
  next d m left since h => exact recounts_gated h (.inr rfl) _ _
  next => exact Recounts.refl s

/-- The steps of a list put on the agenda, each at a tick of its own. -/
theorem foldl_post (g : Nat → Due → Nat) (s : State) (l a : List Due) : ∃ b,
    l.foldl (fun s e => s.post (g s.now e) e.ev) { s with agenda := a } = { s with agenda := b }
      ∧ (∀ e ∈ a, e ∈ b) ∧ ∀ e ∈ l, ⟨g s.now e, e.ev⟩ ∈ b := by
  induction l generalizing a with
  | nil => exact ⟨a, rfl, fun _ h => h, fun _ h => absurd h List.not_mem_nil⟩
  | cons d l ih =>
    obtain ⟨b, hb, ha, hl⟩ := ih (agendaInsert ⟨g s.now d, d.ev⟩ a)
    refine ⟨b, hb, fun e he => ha e ((mem_agendaInsert _ _ _).2 (.inr he)), fun e he => ?_⟩
    rcases List.mem_cons.1 he with rfl | h
    · exact ha _ ((mem_agendaInsert _ _ _).2 (.inl rfl))
    · exact hl e h

theorem budgetNow_congr {s t : State} (hparts : t.parts = s.parts) (hcur : t.dev.power.cur = s.dev.power.cur)
    (heff : t.dev.power.eff = s.dev.power.eff) (hclass : t.dev.power.eclass = s.dev.power.eclass)
    (hstep : t.dev.power.step = s.dev.power.step) : t.budgetNow = s.budgetNow := by
  unfold State.budgetNow State.part
  rw [hparts, hcur, heff, hclass, hstep]

/-- The registers once the pending code holds. -/
def atCode (p : Power) : Power := { p with cur := p.target, busy := false, ceil := if p.trip then 10 else p.ceil, trip := false }

/-- The machine with the pending code in force, before its agenda is carried over. -/
def atNewCode (s : State) : State :=
  ({ s with wall := s.wallNow, wallAt := s.now }).modBudget (fun s => s.modPower atCode)

theorem atNewCode_eq (s : State) : ∃ past, atNewCode s = { s with
      wall := s.wallNow, wallAt := s.now, dev := { s.dev with power := { atCode s.dev.power with past := past } } }
    ∧ past = pastAfter s (s.modPower atCode) := ⟨_, modBudget_eq _ _, rfl⟩

/-- The agenda and the counts carried over to a new code. -/
def carried (old new : Nat) (s : State) : State :=
  let moved := s.agenda.filter (fun e => Event.onTime e.ev)
  let u := moved.foldl (fun s e => s.post (s.now + ceilDiv ((e.at_ - s.now) * tickUnits old) (tickUnits new)) e.ev)
    { s with agenda := s.agenda.filter (fun e => !Event.onTime e.ev) }
  u.cores.foldl (fun s e => [0, 1, 2, 3].foldl (fun s i => s.recount (e.1, i) old) s) u

theorem exec_beatChange_eq (s : State) (he : s.event = some .beatChange) :
    exec .beatChange s = .next (carried s.dev.power.cur (atNewCode s).dev.power.cur (atNewCode s)) := by
  rw [← event_eta he]
  rfl

/-- The agenda and the counts carried over: what was due at a time is due at it by the new rate, what was due at a beat stays
where it stood, and the counts go on. -/
theorem carried_spec (old new : Nat) (s : State) : ∃ a, Recounts { s with agenda := a } (carried old new s)
    ∧ ∀ e ∈ s.agenda, (Event.onTime e.ev = true → ⟨s.now + ceilDiv ((e.at_ - s.now) * tickUnits old) (tickUnits new), e.ev⟩ ∈ a)
      ∧ (Event.onTime e.ev = false → e ∈ a) := by
  obtain ⟨a, ha, hold, hmoved⟩ := foldl_post (fun now e => now + ceilDiv ((e.at_ - now) * tickUnits old) (tickUnits new)) s
    (s.agenda.filter (fun e => Event.onTime e.ev)) (s.agenda.filter (fun e => !Event.onTime e.ev))
  refine ⟨a, ?_, fun e he => ⟨fun h => hmoved e (List.mem_filter.2 ⟨he, h⟩), fun h => hold e (List.mem_filter.2 ⟨he, by rw [h]; rfl⟩)⟩⟩
  unfold carried
  dsimp only
  rw [ha]
  exact foldl_related Recounts.refl Recounts.trans _
    (fun s (e : Nat × Core) => foldl_related Recounts.refl Recounts.trans _ (fun s i => recount_recounts s (e.1, i) old) _ s) _ _

/-- What BEAT_CHANGE does from `s`. -/
def BeatChanges (s t : State) : Prop :=
  let p := s.dev.power
  t.dev.power = { p with cur := p.target, busy := false, trip := false, ceil := if p.trip then 10 else p.ceil, past := t.dev.power.past }
  ∧ KeepsPast s t ∧ t.now = s.now
  ∧ t.wallNow = s.wallNow ∧ (∀ j b, nearByte t j b = nearByte s j b)
  ∧ (∀ k i, (s.ctx (k, i)).run = .ready ∨ (s.ctx (k, i)).run = .running → t.ctx (k, i) = s.ctx (k, i))
  ∧ ∀ e ∈ s.agenda, (Event.onTime e.ev = true →
      ⟨s.now + ceilDiv ((e.at_ - s.now) * tickUnits p.cur) (tickUnits p.target), e.ev⟩ ∈ t.agenda)
    ∧ (Event.onTime e.ev = false → (∀ k i, e.ev ≠ .sleepExpiry k i ∧ e.ev ≠ .twaitExpiry k i) → e ∈ t.agenda)

theorem onTime_not_count {ev : Event} (h : Event.onTime ev = true) (k i : Nat) : ev ≠ .sleepExpiry k i ∧ ev ≠ .twaitExpiry k i := by
  constructor <;> (rintro rfl; exact absurd h Bool.false_ne_true)

theorem beatChange_rule (s : State) : Happens s .beatChange .beatChange (BeatChanges s) := by
  intro he
  refine ⟨_, exec_beatChange_eq s he, ?_⟩
  obtain ⟨past, hu, hpast⟩ := atNewCode_eq s
  obtain ⟨a, ht, hagenda⟩ := carried_spec s.dev.power.cur (atNewCode s).dev.power.cur (atNewCode s)
  generalize carried s.dev.power.cur (atNewCode s).dev.power.cur (atNewCode s) = t at ht
  rw [hu] at ht hagenda
  have hdev : t.dev = { s.dev with power := { atCode s.dev.power with past := past } } := (congrArg State.dev ht.machine :)
  have hparts : t.parts = s.parts := (congrArg State.parts ht.machine :)
  have hnow : t.now = s.now := (congrArg State.now ht.machine :)
  have hpower : t.dev.power = { atCode s.dev.power with past := past } := by rw [hdev]
  have hcur : t.dev.power.cur = s.dev.power.target := by rw [hpower]; rfl
  refine ⟨by rw [hpower]; rfl, ?_, hnow, ?_, ht.near, fun k i => ht.ctx (k, i), fun e he => ?_⟩
  · refine keepsPast_after (u := s.modPower atCode) (budgetNow_congr hparts ?_ ?_ ?_ ?_) rfl (by rw [hpower, ← hpast])
      <;> rw [hpower] <;> rfl
  · have hwall : t.wall = s.wallNow := (congrArg State.wall ht.machine :)
    have hat : t.wallAt = s.now := (congrArg State.wallAt ht.machine :)
    unfold State.wallNow at hwall ⊢
    rw [hat, hnow, hwall, Nat.sub_self, Nat.zero_mul, Nat.add_zero]
  · obtain ⟨htime, hbeat⟩ := hagenda e he
    exact ⟨fun h => ht.agenda _ (htime h) (onTime_not_count h), fun h hne => ht.agenda e (hbeat h) hne⟩

/-! ### The sensors -/

theorem sget_foldl_sset {α : Type} [DecidableEq α] (d : α) (g : Nat → α) (m : Sparse α) (n j : Nat) :
    sget d ((List.range n).foldl (fun m i => sset d m i (g i)) m) j = if j < n then g j else sget d m j := by
  induction n with
  | zero => rfl
  | succ n ih =>
    rw [List.range_succ, List.foldl_concat, sget_sset, ih]
    by_cases h : n = j
    · subst h; simp
    · rw [if_neg h]
      by_cases hj : j < n
      · rw [if_pos hj, if_pos (by omega)]
      · rw [if_neg hj, if_neg (by omega)]

theorem effective_lt {raw : Nat → Nat} (failed : Nat → Bool) {i : Nat} (h : raw i < 256) : effective raw failed i < 256 := by
  unfold effective
  split
  · exact h
  · exact lt_of_le_of_lt (Nat.min_le_left _ _) (by omega)

/-- The fields of a sensor's word: the reading, the effective reading, and the mark of a failed sensor. -/
theorem sensor_fields {r e : Nat} (f : Bool) (hr : r < 256) (he : e < 256) :
    let x := BitVec.ofNat 64 (r + e * 2 ^ 8 + (if f then 2 ^ 16 else 0))
    x.setWidth 8 = BitVec.ofNat 8 r ∧ x.getLsbD 16 = f ∧ x.extractLsb' 8 8 = BitVec.ofNat 8 e := by
  intro x
  have hx : x.toNat = r + e * 256 + (if f then 65536 else 0) := by
    have : r + e * 2 ^ 8 + (if f then 2 ^ 16 else 0) < 2 ^ 64 := by split_ifs <;> omega
    exact (BitVec.toNat_ofNat _ _).trans (Nat.mod_eq_of_lt this)
  refine ⟨BitVec.eq_of_toNat_eq ?_, ?_, BitVec.eq_of_toNat_eq ?_⟩
  · rw [BitVec.toNat_setWidth, hx, BitVec.toNat_ofNat]; split_ifs <;> omega
  · rw [BitVec.getLsbD, hx, Nat.testBit_eq_decide_div_mod_eq]
    cases f
    · exact decide_eq_false (by simp only [Bool.false_eq_true, if_false]; omega)
    · exact decide_eq_true (by simp only [if_true]; omega)
  · rw [BitVec.extractLsb'_toNat, hx, BitVec.toNat_ofNat, Nat.shiftRight_eq_div_pow]; split_ifs <;> omega

/-- A sensor after a sample. -/
theorem voteSensors_spec (n : Nat) (old : Sparse DWord) (raws : List (BitVec 8)) {i : Nat} (hi : i < 1024) :
    let x := sget 0 (voteSensors n old raws) i
    x.setWidth 8 = raws.getD i (Config.freeReading n i) ∧ ((sget 0 old i).getLsbD 16 = true → x.getLsbD 16 = true)
    ∧ (x.getLsbD 16 = false → x.extractLsb' 8 8 = x.setWidth 8) := by
  let raw (i : Nat) : Nat := (raws.getD i (Config.freeReading n i)).toNat
  let before (i : Nat) : Bool := (sget 0 old i).getLsbD 16
  let after (i : Nat) : Bool := before i || deviates raw before i
  have hraw : raw i < 256 := (raws.getD i (Config.freeReading n i)).isLt
  have hx : sget 0 (voteSensors n old raws) i
      = BitVec.ofNat 64 (raw i + effective raw after i * 2 ^ 8 + (if after i then 2 ^ 16 else 0)) := by
    unfold voteSensors
    dsimp only
    rw [sget_foldl_sset, if_pos hi]
  obtain ⟨hlow, hmark, hhigh⟩ := sensor_fields (after i) hraw (effective_lt after hraw)
  intro x
  rw [show x = _ from hx, hlow, hmark, hhigh]
  refine ⟨(BitVec.ofNat_toNat 8 _).trans (BitVec.setWidth_eq _), fun h => ?_, fun h => ?_⟩
  · exact Bool.or_eq_true_iff.2 (.inl h)
  · unfold effective; rw [h]; rfl


/-- Deliveries of THERM and their steps of throttling may have been put on the agenda; nothing else differs. -/
structure Warms (s t : State) : Prop where
  machine : { t with agenda := [], dev := { t.dev with power := { t.dev.power with therm := [] } } }
    = { s with agenda := [], dev := { s.dev with power := { s.dev.power with therm := [] } } }
  agenda  : ∀ e ∈ s.agenda, e ∈ t.agenda
  new     : ∀ e ∈ t.agenda, e ∈ s.agenda ∨ (∃ p c x, e.ev = .thermDelivery p c x) ∨ e.ev = .selfThrottleStep

theorem Warms.refl (s : State) : Warms s s := ⟨rfl, fun _ h => h, fun _ h => .inl h⟩

theorem Warms.trans {s t u : State} (h : Warms s t) (g : Warms t u) : Warms s u where
  machine := g.machine.trans h.machine
  agenda e he := g.agenda e (h.agenda e he)
  new e he := (g.new e he).elim (h.new e) .inr

theorem warms_therm (s : State) (m : Sparse Nat) : Warms s (s.modPower (fun p => { p with therm := m })) :=
  ⟨rfl, fun _ h => h, fun _ h => .inl h⟩

theorem warms_post (s : State) (u : Nat) {ev : Event} (hev : (∃ p c x, ev = .thermDelivery p c x) ∨ ev = .selfThrottleStep) :
    Warms s (s.post u ev) where
  machine := rfl
  agenda e he := (mem_agendaInsert _ _ _).2 (.inr he)
  new e he := by
    rcases (mem_agendaInsert _ _ _).1 he with rfl | h
    · exact .inr hev
    · exact .inl h

/-- The step of throttling that follows a THERM is on the agenda, once. -/
def throttled (s : State) (u : Nat) : State :=
  if s.agenda.any (fun e => e.ev == .selfThrottleStep && e.at_ == u) then s else s.post u .selfThrottleStep

theorem warms_throttled (s : State) (u : Nat) : Warms s (throttled s u) := by
  unfold throttled
  split_ifs
  · exact Warms.refl s
  · exact warms_post s u (.inr rfl)

theorem throttled_mem (s : State) (u : Nat) : ⟨u, .selfThrottleStep⟩ ∈ (throttled s u).agenda := by
  unfold throttled
  split_ifs with h
  · obtain ⟨⟨at_, ev⟩, he, hev⟩ := List.any_eq_true.1 h
    simp only [Bool.and_eq_true, beq_iff_eq] at hev
    obtain ⟨rfl, rfl⟩ := hev
    exact he
  · exact (mem_agendaInsert _ _ _).2 (.inl rfl)

theorem throttled_power (s : State) (u : Nat) : (throttled s u).dev = s.dev := by
  unfold throttled
  split_ifs <;> rfl

/-- THERM of a column and tier raised. -/
def raised (s : State) (col tier : Nat) : State :=
  throttled ((s.modPower (fun p => { p with therm := sset 0 p.therm (4 * col + tier) (s.time + 1) })).post s.now
      (.thermDelivery (partOfQuad s.dev.mode (col / 16)) col (s.dev.power.hottest col tier)))
    (s.now + s.nsTicks 500000)

theorem checkTherm_raises {s : State} {col tier : Nat} (hzero : sget 0 s.dev.power.therm (4 * col + tier) = 0)
    (hhot : s.dev.power.tlim.toNat < s.dev.power.temp col tier) : s.checkTherm col tier = raised s col tier := by
  unfold State.checkTherm
  dsimp only
  rw [if_pos ⟨hhot, by rw [hzero]; rfl⟩]
  rfl

theorem checkTherm_cases (s : State) (col tier : Nat) : s.checkTherm col tier = raised s col tier ∨ s.checkTherm col tier = s
    ∨ s.checkTherm col tier = s.modPower (fun p => { p with therm := sset 0 p.therm (4 * col + tier) 0 }) := by
  unfold State.checkTherm
  dsimp only
  split
  · exact .inl rfl
  · split
    · exact .inr (.inr rfl)
    · exact .inr (.inl rfl)

theorem warms_raised (s : State) (col tier : Nat) : Warms s (raised s col tier) :=
  ((warms_therm s _).trans (warms_post _ _ (.inl ⟨_, _, _, rfl⟩))).trans (warms_throttled _ _)

theorem warms_checkTherm (s : State) (col tier : Nat) : Warms s (s.checkTherm col tier) := by
  rcases checkTherm_cases s col tier with h | h | h <;> rw [h]
  · exact warms_raised s col tier
  · exact Warms.refl s
  · exact warms_therm s _

theorem therm_raised (s : State) (col tier j : Nat) :
    sget 0 (raised s col tier).dev.power.therm j = if 4 * col + tier = j then s.time + 1 else sget 0 s.dev.power.therm j := by
  unfold raised
  rw [throttled_power]
  exact sget_sset (0 : Nat) s.dev.power.therm (4 * col + tier) j (s.time + 1)

theorem therm_checkTherm_other (s : State) {col tier j : Nat} (h : 4 * col + tier ≠ j) :
    sget 0 (s.checkTherm col tier).dev.power.therm j = sget 0 s.dev.power.therm j := by
  rcases checkTherm_cases s col tier with e | e | e <;> rw [e]
  · rw [therm_raised, if_neg h]
  · exact sget_sset_other (0 : Nat) s.dev.power.therm 0 h

/-- THERM of a column and tier has gone out, with its step of throttling. -/
def WentOut (s t : State) (col tier : Nat) : Prop :=
  sget 0 t.dev.power.therm (4 * col + tier) ≠ 0
  ∧ (∃ sensor, ⟨s.now, .thermDelivery (partOfQuad s.dev.mode (col / 16)) col sensor⟩ ∈ t.agenda)
  ∧ ⟨s.now + s.nsTicks 500000, .selfThrottleStep⟩ ∈ t.agenda

theorem wentOut_raised (s : State) (col tier : Nat) : WentOut s (raised s col tier) col tier := by
  refine ⟨?_, ⟨s.dev.power.hottest col tier, ?_⟩, throttled_mem _ _⟩
  · rw [therm_raised, if_pos rfl]; exact Nat.succ_ne_zero _
  · exact (warms_throttled _ _).agenda _ ((mem_agendaInsert _ _ _).2 (.inl rfl))

theorem Warms.power {s t : State} (h : Warms s t) : { t.dev.power with therm := [] } = { s.dev.power with therm := [] } :=
  (congrArg (fun u : State => u.dev.power) h.machine :)

theorem temp_congr {p q : Power} (h : q.sensors = p.sensors) (col tier : Nat) : q.temp col tier = p.temp col tier := by
  unfold Power.temp
  rw [h]

theorem nsTicks_congr {s t : State} (h : t.dev.power.cur = s.dev.power.cur) (n : Nat) : t.nsTicks n = s.nsTicks n := by
  unfold State.nsTicks
  rw [h]

/-- A column and tier is above TLIM. -/
def Hot (s : State) (col tier : Nat) : Prop := s.dev.power.tlim.toNat < s.dev.power.temp col tier

theorem Warms.hot {s t : State} (h : Warms s t) {col tier : Nat} (hh : Hot s col tier) : Hot t col tier := by
  have hlim : t.dev.power.tlim = s.dev.power.tlim := (congrArg Power.tlim h.power :)
  have hsens : t.dev.power.sensors = s.dev.power.sensors := (congrArg Power.sensors h.power :)
  unfold Hot
  rw [hlim, temp_congr hsens]
  exact hh

theorem checkTherm_stands {s : State} {col tier : Nat} (h : sget 0 s.dev.power.therm (4 * col + tier) ≠ 0) (hh : Hot s col tier) :
    s.checkTherm col tier = s := by
  have hb : (sget 0 s.dev.power.therm (4 * col + tier) != 0) = true := bne_iff_ne.2 h
  have hlt : s.dev.power.tlim.toNat < s.dev.power.temp col tier := hh
  unfold State.checkTherm
  dsimp only
  rw [if_neg, if_neg]
  · rintro ⟨-, hcool⟩
    omega
  · rintro ⟨-, hno⟩
    rw [hb] at hno
    exact absurd hno Bool.false_ne_true

theorem column_tier (i : Nat) : 4 * (i / 4) + i % 4 = i := Nat.div_add_mod i 4

theorem therm_stands_step {s : State} {col tier : Nat} (htier : tier < 4) (h : sget 0 s.dev.power.therm (4 * col + tier) ≠ 0)
    (hh : Hot s col tier) (i : Nat) : sget 0 (s.checkTherm (i / 4) (i % 4)).dev.power.therm (4 * col + tier) ≠ 0 := by
  by_cases hi : i = 4 * col + tier
  · rw [show i / 4 = col by omega, show i % 4 = tier by omega, checkTherm_stands h hh]
    exact h
  · rw [therm_checkTherm_other s (by rw [column_tier]; exact hi)]
    exact h

/-- All columns and tiers looked at. -/
def checkAll (l : List Nat) (s : State) : State := l.foldl (fun s i => s.checkTherm (i / 4) (i % 4)) s

theorem warms_checkAll (l : List Nat) (s : State) : Warms s (checkAll l s) :=
  foldl_related Warms.refl Warms.trans _ (fun s i => warms_checkTherm s (i / 4) (i % 4)) l s

theorem therm_stands (l : List Nat) {s : State} {col tier : Nat} (htier : tier < 4)
    (h : sget 0 s.dev.power.therm (4 * col + tier) ≠ 0) (hh : Hot s col tier) :
    sget 0 (checkAll l s).dev.power.therm (4 * col + tier) ≠ 0 := by
  induction l generalizing s with
  | nil => exact h
  | cons i l ih => exact ih (therm_stands_step htier h hh i) ((warms_checkTherm s _ _).hot hh)

/-- A THERM that stood at 0 above TLIM goes out. -/
theorem checkAll_raises {col tier : Nat} (l : List Nat) {s : State} (hin : 4 * col + tier ∈ l) (htier : tier < 4)
    (hzero : sget 0 s.dev.power.therm (4 * col + tier) = 0) (hh : Hot s col tier) : WentOut s (checkAll l s) col tier := by
  induction l generalizing s with
  | nil => exact absurd hin List.not_mem_nil
  | cons i l ih =>
    have hw := warms_checkTherm s (i / 4) (i % 4)
    by_cases hi : i = 4 * col + tier
    · have hstep : s.checkTherm (i / 4) (i % 4) = raised s col tier := by
        rw [show i / 4 = col by omega, show i % 4 = tier by omega, checkTherm_raises hzero hh]
      obtain ⟨hne, ⟨sensor, hsent⟩, hslow⟩ := wentOut_raised s col tier
      have hrest := warms_checkAll l (raised s col tier)
      rw [checkAll, List.foldl_cons, hstep]
      exact ⟨therm_stands l htier hne ((warms_raised s col tier).hot hh), ⟨sensor, hrest.agenda _ hsent⟩, hrest.agenda _ hslow⟩
    · have hout := ih ((List.mem_cons.1 hin).resolve_left (fun h => hi h.symm))
        (by rw [therm_checkTherm_other s (by rw [column_tier]; exact hi)]; exact hzero) (hw.hot hh)
      have hnow : (s.checkTherm (i / 4) (i % 4)).now = s.now := (congrArg State.now hw.machine :)
      have hmode : (s.checkTherm (i / 4) (i % 4)).dev.mode = s.dev.mode := (congrArg (fun u : State => u.dev.mode) hw.machine :)
      have hticks := nsTicks_congr (congrArg Power.cur hw.power :) 500000
      unfold WentOut at hout
      rw [hnow, hmode, hticks] at hout
      exact hout

/-! ### A sample -/

/-- The step of a sample. -/
def isSample : Event → Bool
  | .sensorSample _ => true
  | _ => false

theorem isSample_iff {ev : Event} : isSample ev = true ↔ ∃ l, ev = .sensorSample l := by
  cases ev <;> simp [isSample]

/-- The registers with the sensors voted, all columns and tiers looked at, and the next sample on the agenda. -/
def voted (s : State) (raws : List (BitVec 8)) : State :=
  ({ s with fresh := s.fresh + 1 }).modPower (fun p => { p with sensors := voteSensors s.fresh p.sensors raws })
def sensed (s : State) (m : Sparse DWord) : State :=
  ({ s with fresh := s.fresh + 1 }).modPower (fun p => { p with sensors := m })
def nextSample (s : State) : State :=
  let u := s.now + s.nsTicks 32000
  if s.agenda.any (fun e => isSample e.ev && decide (e.at_ ≤ u)) then s else s.post u (.sensorSample [])
def tripped (s : State) : State :=
  if s.dev.power.sensors.any (fun e => decide (110 ≤ nbits e.2.toNat 15 8)) then s.tripBeat else s

theorem exec_sensorSample_eq (s : State) (raws : List (BitVec 8)) (he : s.event = some (.sensorSample raws)) :
    exec .sensorSample s = .next (tripped (nextSample (checkAll (List.range 256) (voted s raws)))) := by
  rw [← event_eta he]
  rfl

theorem nextSample_cases (s : State) : nextSample s = s ∨ nextSample s = s.post (s.now + s.nsTicks 32000) (.sensorSample []) :=
  (ite_eq_or_eq _ _ _).imp id id

theorem nextSample_dev (s : State) : (nextSample s).dev = s.dev := by
  rcases nextSample_cases s with h | h <;> rw [h]
  rfl

theorem nextSample_agenda {s : State} {e : Due} (he : e ∈ s.agenda) : e ∈ (nextSample s).agenda := by
  rcases nextSample_cases s with h | h <;> rw [h]
  · exact he
  · exact (mem_agendaInsert _ _ _).2 (.inr he)

theorem nextSample_mem {s : State} (h : ∀ e ∈ s.agenda, e.at_ ≤ s.now + s.nsTicks 32000 → ∀ l, e.ev ≠ .sensorSample l) :
    ⟨s.now + s.nsTicks 32000, .sensorSample []⟩ ∈ (nextSample s).agenda := by
  unfold nextSample
  dsimp only
  rw [if_neg]
  · exact (mem_agendaInsert _ _ _).2 (.inl rfl)
  · intro hany
    obtain ⟨e, he, hev⟩ := List.any_eq_true.1 hany
    obtain ⟨hs, hle⟩ := Bool.and_eq_true_iff.1 hev
    obtain ⟨l, hl⟩ := isSample_iff.1 hs
    exact h e he (of_decide_eq_true hle) l hl

/-- Some sensor's effective reading is at 110 °C or more. -/
def Trips (p : Power) : Prop := ∃ e ∈ p.sensors, 110 ≤ (e.2.extractLsb' 8 8).toNat

theorem tenths (v : DWord) : (v.extractLsb' 8 8).toNat = nbits v.toNat 15 8 := by
  rw [BitVec.extractLsb'_toNat, Nat.shiftRight_eq_div_pow]
  rfl

theorem trips_iff (p : Power) : p.sensors.any (fun e => decide (110 ≤ nbits e.2.toNat 15 8)) = true ↔ Trips p := by
  rw [List.any_eq_true]
  unfold Trips
  simp only [tenths, decide_eq_true_eq]

theorem tripBeat_hot {s : State} (h : s.dev.power.ceil ≠ 10) : s.tripBeat
    = ((s.cancel .beatChange).modPower (fun p => { p with trip := true, busy := true, target := 10 })).post ((s.beat + 1) * 120) .beatChange :=
  if_neg h

theorem tripBeat_cases (s : State) : s.tripBeat = s ∨ s.tripBeat
    = ((s.cancel .beatChange).modPower (fun p => { p with trip := true, busy := true, target := 10 })).post ((s.beat + 1) * 120) .beatChange :=
  ite_eq_or_eq _ _ _

theorem tripped_cases (s : State) : tripped s = s ∨ tripped s
    = ((s.cancel .beatChange).modPower (fun p => { p with trip := true, busy := true, target := 10 })).post ((s.beat + 1) * 120) .beatChange := by
  unfold tripped
  split_ifs
  · exact tripBeat_cases s
  · exact .inl rfl

theorem tripped_agenda {s : State} {e : Due} (he : e ∈ s.agenda) (hev : e.ev ≠ .beatChange) : e ∈ (tripped s).agenda := by
  rcases tripped_cases s with h | h <;> rw [h]
  · exact he
  · exact (mem_agendaInsert _ _ _).2 (.inr (List.mem_filter.2 ⟨he, decide_eq_true hev⟩))

/-- What a trip leaves as it was. -/
theorem tripped_rest (s : State) : (tripped s).cores = s.cores ∧ (tripped s).parts = s.parts ∧ (tripped s).dev.far = s.dev.far
    ∧ { (tripped s).dev.power with trip := false, busy := false, target := 0 } = { s.dev.power with trip := false, busy := false, target := 0 } := by
  rcases tripped_cases s with h | h <;> rw [h] <;> exact ⟨rfl, rfl, rfl, rfl⟩

/-- What SENSOR_SAMPLE does from `s`. -/
def Samples (s : State) (raws : List (BitVec 8)) (t : State) : Prop :=
  let p := s.dev.power
  (∀ i, i < 1024 → let old := sget 0 s.dev.power.sensors i
      let x := sget 0 t.dev.power.sensors i
      x.setWidth 8 = raws.getD i (Config.freeReading s.fresh i) ∧ (old.getLsbD 16 = true → x.getLsbD 16 = true)
      ∧ (x.getLsbD 16 = false → x.extractLsb' 8 8 = x.setWidth 8))
  ∧ t.dev.power.ceil = p.ceil
  ∧ ((∃ e ∈ t.dev.power.sensors, 110 ≤ (e.2.extractLsb' 8 8).toNat) → p.ceil ≠ 10 → t.dev.power.trip = true
      ∧ t.dev.power.target = 10 ∧ ⟨(s.beat + 1) * 120, .beatChange⟩ ∈ t.agenda
      ∧ ∀ e ∈ t.agenda, e.ev = .beatChange → e.at_ = (s.beat + 1) * 120)
  ∧ ((∀ e ∈ t.dev.power.sensors, (e.2.extractLsb' 8 8).toNat < 110) → t.dev.power.trip = p.trip)
  ∧ ((∀ e ∈ s.agenda, e.at_ ≤ s.now + s.nsTicks 32000 → ∀ l, e.ev ≠ .sensorSample l) → ⟨s.now + s.nsTicks 32000, .sensorSample []⟩ ∈ t.agenda)
  ∧ (∀ col tier, col < 64 → tier < 4 → sget 0 p.therm (4 * col + tier) = 0 → p.tlim.toNat < t.dev.power.temp col tier →
      sget 0 t.dev.power.therm (4 * col + tier) ≠ 0
      ∧ (∃ sensor, ⟨s.now, .thermDelivery (partOfQuad s.dev.mode (col / 16)) col sensor⟩ ∈ t.agenda)
      ∧ ⟨s.now + s.nsTicks 500000, .selfThrottleStep⟩ ∈ t.agenda)
  ∧ t.cores = s.cores

theorem voted_eq (s : State) (raws : List (BitVec 8)) : voted s raws = sensed s (voteSensors s.fresh s.dev.power.sensors raws) := by
  unfold voted sensed State.modPower State.modDev
  dsimp only

/-- The columns and tiers looked at leave the registers as they are, but for THERM. -/
structure LooksAt (s u : State) (m : Sparse DWord) : Prop where
  warms   : Warms (sensed s m) u
  raises  : ∀ col tier, col < 64 → tier < 4 → sget 0 s.dev.power.therm (4 * col + tier) = 0 → Hot (sensed s m) col tier →
    WentOut (sensed s m) u col tier

theorem looksAt_checkAll (s : State) (m : Sparse DWord) : LooksAt s (checkAll (List.range 256) (sensed s m)) m where
  warms := warms_checkAll _ _
  raises _ _ hcol htier hzero hh := checkAll_raises _ (List.mem_range.2 (by omega)) htier hzero hh

section
variable {s u : State} {m : Sparse DWord} (h : LooksAt s u m)
include h

theorem LooksAt.sensors : u.dev.power.sensors = m := (congrArg Power.sensors h.warms.power :)

theorem LooksAt.now : u.now = s.now := (congrArg State.now h.warms.machine :)

theorem LooksAt.nsTicks (n : Nat) : u.nsTicks n = s.nsTicks n := nsTicks_congr (congrArg Power.cur h.warms.power :) n

theorem LooksAt.beat : u.beat = s.beat := congrArg (· / 120) h.now

theorem LooksAt.ceil : u.dev.power.ceil = s.dev.power.ceil := (congrArg Power.ceil h.warms.power :)

theorem LooksAt.trip : u.dev.power.trip = s.dev.power.trip := (congrArg Power.trip h.warms.power :)

theorem LooksAt.cores : u.cores = s.cores := (congrArg State.cores h.warms.machine :)

/-- A trip found by a sample acts at the next beat boundary. -/
theorem trip_effect (ht : Trips u.dev.power) (hc : s.dev.power.ceil ≠ 10) : let t := tripped (nextSample u)
    t.dev.power.trip = true ∧ t.dev.power.target = 10 ∧ ⟨(s.beat + 1) * 120, .beatChange⟩ ∈ t.agenda
      ∧ ∀ e ∈ t.agenda, e.ev = .beatChange → e.at_ = (s.beat + 1) * 120 := by
  have hnow : (nextSample u).now = u.now := by rcases nextSample_cases u with e | e <;> rw [e]; rfl
  have hbeat : (nextSample u).beat = s.beat := (congrArg (· / 120) hnow).trans h.beat
  have heq : tripped (nextSample u)
      = (((nextSample u).cancel .beatChange).modPower (fun p => { p with trip := true, busy := true, target := 10 })).post ((s.beat + 1) * 120) .beatChange := by
    unfold tripped
    rw [nextSample_dev, if_pos ((trips_iff _).2 ht), tripBeat_hot (by rw [nextSample_dev, h.ceil]; exact hc), hbeat]
  intro t
  rw [show t = _ from heq]
  exact ⟨rfl, rfl, only_beatChange (nextSample u) ((s.beat + 1) * 120)⟩

omit h in
theorem no_trip (ht : ¬ Trips u.dev.power) : (tripped (nextSample u)).dev = u.dev := by
  unfold tripped
  rw [nextSample_dev, if_neg (fun hany => ht ((trips_iff _).1 hany)), nextSample_dev]

theorem sample_follows (hnone : ∀ e ∈ s.agenda, e.at_ ≤ s.now + s.nsTicks 32000 → ∀ l, e.ev ≠ .sensorSample l) :
    ⟨s.now + s.nsTicks 32000, .sensorSample []⟩ ∈ (tripped (nextSample u)).agenda := by
  rw [← h.now, ← h.nsTicks]
  refine tripped_agenda (nextSample_mem fun e he hle l => ?_) (by simp)
  rcases h.warms.new e he with hs | ⟨p, c, x, hev⟩ | hev
  · rw [h.now, h.nsTicks] at hle
    exact hnone e hs hle l
  · rw [hev]; simp
  · rw [hev]; simp

theorem samples_tripped {raws : List (BitVec 8)} (hm : m = voteSensors s.fresh s.dev.power.sensors raws) :
    Samples s raws (tripped (nextSample u)) := by
  obtain ⟨hcores, -, -, hp⟩ := tripped_rest (nextSample u)
  rw [nextSample_dev] at hp
  have hsens : (tripped (nextSample u)).dev.power.sensors = u.dev.power.sensors := (congrArg Power.sensors hp :)
  have htherm : (tripped (nextSample u)).dev.power.therm = u.dev.power.therm := (congrArg Power.therm hp :)
  have hceil : (tripped (nextSample u)).dev.power.ceil = u.dev.power.ceil := (congrArg Power.ceil hp :)
  refine ⟨fun i hi => ?_, hceil.trans h.ceil, fun ht hc => ?_, fun ht => ?_, sample_follows h, fun col tier hcol htier hzero hh => ?_, ?_⟩
  · rw [hsens, h.sensors, hm]
    exact voteSensors_spec s.fresh s.dev.power.sensors raws hi
  · rw [hsens] at ht
    exact trip_effect h ht hc
  · rw [hsens] at ht
    rw [no_trip (fun ⟨e, he, hle⟩ => absurd (ht e he) (Nat.not_lt.2 hle)), h.trip]
  · have hhot : Hot (sensed s m) col tier := by
      unfold Hot
      rw [temp_congr (p := (tripped (nextSample u)).dev.power) (h.sensors.symm.trans hsens.symm)]
      exact hh
    obtain ⟨hne, ⟨sensor, hsent⟩, hslow⟩ := h.raises col tier hcol htier hzero hhot
    rw [htherm]
    exact ⟨hne, ⟨sensor, tripped_agenda (nextSample_agenda hsent) (by simp)⟩, tripped_agenda (nextSample_agenda hslow) (by simp)⟩
  · have hn : (nextSample u).cores = u.cores := by rcases nextSample_cases u with e | e <;> rw [e]; rfl
    exact (hcores.trans hn).trans h.cores

end

theorem sensorSample_rule (s : State) (raws : List (BitVec 8)) : Happens s (.sensorSample raws) .sensorSample (Samples s raws) :=
  fun he => ⟨_, exec_sensorSample_eq s raws he, by rw [voted_eq]; exact samples_tripped (looksAt_checkAll s _) rfl⟩

/-! ### Limits -/

/-- Some column is above TLIM. -/
def AboveLimit (p : Power) : Prop := ∃ e ∈ p.sensors, p.tlim < e.2.extractLsb' 8 8

theorem hot_iff (p : Power) : p.hot = true ↔ AboveLimit p := by
  unfold Power.hot AboveLimit
  rw [List.any_eq_true]
  simp only [← tenths, decide_eq_true_eq, BitVec.lt_def]

theorem not_hot {p : Power} (h : ¬ AboveLimit p) : p.hot = false := Bool.eq_false_iff.2 (fun hh => h ((hot_iff p).1 hh))

theorem aims_lowerCeil (s : State) (n : Nat) (f : Power) (hcur : f.cur = s.dev.power.cur) :
    Aims s { f with ceil := max 10 (f.ceil - 4) } none (repowered s n f).lowerCeil :=
  aims_aimBeat s n { f with ceil := max 10 (f.ceil - 4) } hcur

theorem selfThrottle_eq (s : State) (he : s.event = some .selfThrottleStep) : exec .selfThrottleStep s = .next (
    if !s.dev.power.hot then s
    else if s.agenda.any (fun e => e.ev == .selfThrottleStep && decide (e.at_ ≤ s.now + s.nsTicks 100000)) then s.lowerCeil
    else s.lowerCeil.post (s.now + s.nsTicks 100000) .selfThrottleStep) := by
  rw [← event_eta he]
  rfl

theorem selfThrottle_any {s : State} {u : Nat} : s.agenda.any (fun e => e.ev == .selfThrottleStep && decide (e.at_ ≤ u)) = true
    ↔ ∃ e ∈ s.agenda, e.ev = .selfThrottleStep ∧ e.at_ ≤ u := by
  simp [List.any_eq_true]

theorem selfThrottle_rule (s : State) : let lower : Power := { s.dev.power with ceil := max 10 (s.dev.power.ceil - 4) }
    (¬ AboveLimit s.dev.power → Happens s .selfThrottleStep .selfThrottleStep (fun t => t = s))
    ∧ (AboveLimit s.dev.power → (∀ e ∈ s.agenda, e.ev = .selfThrottleStep → s.now + s.nsTicks 100000 < e.at_) →
        Happens s .selfThrottleStep .selfThrottleStep (Aims s lower (some ⟨s.now + s.nsTicks 100000, .selfThrottleStep⟩)))
    ∧ (AboveLimit s.dev.power → (∃ e ∈ s.agenda, e.ev = .selfThrottleStep ∧ e.at_ ≤ s.now + s.nsTicks 100000) →
        Happens s .selfThrottleStep .selfThrottleStep (Aims s lower none)) := by
  have haims : Aims s { s.dev.power with ceil := max 10 (s.dev.power.ceil - 4) } none s.lowerCeil := aims_lowerCeil s s.fresh s.dev.power rfl
  refine ⟨fun hn he => ⟨s, ?_, rfl⟩, fun hh hnone he => ⟨_, ?_, aims_post _ (by simp) haims⟩, fun hh hsome he => ⟨_, ?_, haims⟩⟩
  · rw [selfThrottle_eq s he, not_hot hn]; rfl
  · rw [selfThrottle_eq s he, (hot_iff _).2 hh, if_neg (by simp), if_neg]
    rw [selfThrottle_any]
    rintro ⟨e, hin, hev, hle⟩
    exact absurd (hnone e hin hev) (Nat.not_lt.2 hle)
  · rw [selfThrottle_eq s he, (hot_iff _).2 hh, if_neg (by simp), if_pos (selfThrottle_any.2 hsome)]

/-- The step of a hard limit. -/
def isHardLimit : Event → Bool
  | .hardLimitStep _ _ => true
  | _ => false

theorem isHardLimit_iff {ev : Event} : isHardLimit ev = true ↔ ∃ a b, ev = .hardLimitStep a b := by
  cases ev <;> simp [isHardLimit]

theorem isHardLimit_any {s : State} {u : Nat} : s.agenda.any (fun e => isHardLimit e.ev && decide (e.at_ ≤ u)) = true
    ↔ ∃ e ∈ s.agenda, e.at_ ≤ u ∧ ∃ a b, e.ev = .hardLimitStep a b := by
  simp only [List.any_eq_true, Bool.and_eq_true, decide_eq_true_eq, isHardLimit_iff, and_comm]

/-- What HARD_LIMIT_STEP leaves of the registers `s` with the measurement looked at. -/
def limited (s : State) (above : Bool) : State :=
  if !above then s
  else if s.agenda.any (fun e => isHardLimit e.ev && decide (e.at_ ≤ s.now + s.nsTicks 10000)) then s.lowerCeil
  else ({ s with fresh := s.fresh + 1 }).lowerCeil.post (s.now + s.nsTicks 10000)
    (.hardLimitStep (Config.freeWatts s.fresh) (Config.freeDomain s.fresh))

theorem limited_again {s : State} (h : ∃ e ∈ s.agenda, e.at_ ≤ s.now + s.nsTicks 10000 ∧ ∃ a b, e.ev = .hardLimitStep a b) :
    limited s true = s.lowerCeil := by
  unfold limited
  rw [if_neg (by simp), if_pos (isHardLimit_any.2 h)]

theorem limited_first {s : State} (h : ¬ ∃ e ∈ s.agenda, e.at_ ≤ s.now + s.nsTicks 10000 ∧ ∃ a b, e.ev = .hardLimitStep a b) :
    limited s true = ({ s with fresh := s.fresh + 1 }).lowerCeil.post (s.now + s.nsTicks 10000)
      (.hardLimitStep (Config.freeWatts s.fresh) (Config.freeDomain s.fresh)) := by
  unfold limited
  rw [if_neg (by simp), if_neg (fun hany => h (isHardLimit_any.1 hany))]

theorem hardLimit_eq {s : State} {watts : Nat} {far : Bool} (he : s.event = some (.hardLimitStep watts far)) {b : Bool}
    (hb : (decide (s.dev.power.hlim.toNat < watts) || far) = b) : exec .hardLimitStep s
      = .next (limited (repowered s s.fresh { s.dev.power with above := b }) b) := by
  rw [← event_eta he]
  subst hb
  rfl

theorem hardLimit_rule (s : State) (watts : Nat) (far : Bool) :
    let p := s.dev.power
    let lower : Power := { p with above := true, ceil := max 10 (p.ceil - 4) }
    (p.hlim.toNat < watts ∨ far = true → (∀ e ∈ s.agenda, e.at_ ≤ s.now + s.nsTicks 10000 → ∀ a b, e.ev ≠ .hardLimitStep a b) →
      Happens s (.hardLimitStep watts far) .hardLimitStep (Aims s lower
        (some ⟨s.now + s.nsTicks 10000, .hardLimitStep (Config.freeWatts s.fresh) (Config.freeDomain s.fresh)⟩)))
    ∧ (p.hlim.toNat < watts ∨ far = true → (∃ e ∈ s.agenda, e.at_ ≤ s.now + s.nsTicks 10000 ∧ ∃ a b, e.ev = .hardLimitStep a b) →
      Happens s (.hardLimitStep watts far) .hardLimitStep (Aims s lower none))
    ∧ (watts ≤ p.hlim.toNat → far = false → Happens s (.hardLimitStep watts far) .hardLimitStep
        (fun t => t = { s with dev := { s.dev with power := { p with above := false } } })) := by
  intro p lower
  have hticks : (repowered s s.fresh { p with above := true }).nsTicks 10000 = s.nsTicks 10000 := nsTicks_congr rfl _
  have haims : ∀ n, Aims s lower none (repowered s n { p with above := true }).lowerCeil :=
    fun n => aims_lowerCeil s n { p with above := true } rfl
  have habove : (p.hlim.toNat < watts ∨ far = true) → (decide (p.hlim.toNat < watts) || far) = true := fun h => by simpa using h
  refine ⟨fun hor hnone he => ⟨_, hardLimit_eq he (habove hor), ?_⟩, fun hor hsome he => ⟨_, hardLimit_eq he (habove hor), ?_⟩,
    fun hle hfar he => ⟨_, hardLimit_eq he (b := false) (by simp [hfar, hle, p]), rfl⟩⟩
  · rw [limited_first, hticks]
    · exact aims_post _ (by simp) (haims (s.fresh + 1))
    · rw [hticks]
      rintro ⟨e, hin, hle, a, b, hev⟩
      exact hnone e hin hle a b hev
  · rw [limited_again (by rw [hticks]; exact hsome)]
    exact haims s.fresh

/-! ### Writes of the registers -/

theorem hostWrite_off {s : State} (h : s.dev.booted = false) (f : State → State) : s.hostWrite f = s := if_neg (by simp [h])
theorem hostWrite_on {s : State} (h : s.dev.booted = true) (f : State → State) : s.hostWrite f = f s := if_pos h

theorem nbits_setWidth (v : DWord) (k : Nat) : nbits v.toNat k 0 = (v.setWidth (k + 1)).toNat := by
  rw [nbits_low, BitVec.toNat_setWidth]

theorem nbits_extract {w : Nat} (v : BitVec w) (lo len : Nat) (hi : Nat) (h : hi + 1 - lo = len) :
    nbits v.toNat hi lo = (v.extractLsb' lo len).toNat := by
  rw [BitVec.extractLsb'_toNat, Nat.shiftRight_eq_div_pow, ← h]
  rfl

theorem extract_low {w : Nat} (v : BitVec w) (n : Nat) : v.extractLsb' 0 n = v.setWidth n := by
  apply BitVec.eq_of_toNat_eq
  rw [BitVec.extractLsb'_toNat, BitVec.toNat_setWidth, Nat.shiftRight_zero]

theorem writeBeatctl_rule (s : State) (v : DWord) (hb : s.dev.booted = true) :
    let p := s.dev.power
    let r := (v.extractLsb' 0 7).toNat
    let valid : Bool := decide (10 ≤ r ∧ r ≤ 80)
    Happens s (.beatctlReqWrite v) .beatctlReqWrite (fun t => KeepsPast s t ∧ Aims s { p with
      req := if valid then r else p.req, err := !valid || (p.err && !v.getLsbD 24), step := (v.extractLsb' 32 4).toNat
      past := t.dev.power.past } none t) := by
  intro p r valid he
  let g : Power := { p with
    req := if valid then r else p.req, err := !valid || (p.err && !v.getLsbD 24), step := (v.extractLsb' 32 4).toNat }
  have heq : exec .beatctlReqWrite s = .next (s.modBudget (fun s => s.modPower (fun _ => g))).aimBeat := by
    have : exec .beatctlReqWrite s = .next (s.hostWrite (fun s => s.writeBeatctl v)) := by
      rw [← event_eta he]; rfl
    rw [this, hostWrite_on hb]
    unfold State.writeBeatctl
    rw [nbits_extract v 0 7 6 rfl, nbits_extract v 32 4 35 rfl]
    rfl
  rw [modBudget_eq] at heq
  let past := pastAfter s (repowered s s.fresh g)
  let u := repowered s s.fresh { g with past := past }
  have hless := aimless_aimBeat u
  have hpast : u.aimBeat.dev.power.past = past := (congrArg (fun x : State => x.dev.power.past) hless :)
  have hbudget : u.aimBeat.budgetNow = (repowered s s.fresh g).budgetNow :=
    budgetNow_congr (congrArg State.parts hless :) (congrArg (fun x : State => x.dev.power.cur) hless :)
      (congrArg (fun x : State => x.dev.power.eff) hless :) (congrArg (fun x : State => x.dev.power.eclass) hless :)
      (congrArg (fun x : State => x.dev.power.step) hless :)
  refine ⟨_, heq, keepsPast_after hbudget rfl hpast, ?_⟩
  have ha : Aims s { g with past := past } none u.aimBeat := aims_aimBeat s s.fresh _ rfl
  rw [← hpast] at ha
  exact ha

theorem restore_rule (s : State) (hb : s.dev.booted = true) :
    (AboveLimit s.dev.power ∨ s.dev.power.above = true → Happens s .beatctlRestore .beatctlRestore (fun t => t = s))
    ∧ (¬ AboveLimit s.dev.power → s.dev.power.above = false →
      Happens s .beatctlRestore .beatctlRestore (Aims s { s.dev.power with ceil := 80 } none)) := by
  have heq : ∀ he : s.event = some .beatctlRestore, exec .beatctlRestore s
      = .next (if s.dev.power.hot || s.dev.power.above then s else (repowered s s.fresh { s.dev.power with ceil := 80 }).aimBeat) := by
    intro he
    have : exec .beatctlRestore s = .next (s.hostWrite State.restoreCeil) := by
      rw [← event_eta he]; rfl
    rw [this, hostWrite_on hb]
    rfl
  refine ⟨fun hor he => ⟨s, ?_, rfl⟩, fun hn ha he => ⟨_, ?_, aims_aimBeat s s.fresh { s.dev.power with ceil := 80 } rfl⟩⟩
  · rw [heq he, if_pos]
    rw [Bool.or_eq_true]
    exact hor.imp (hot_iff _).2 id
  · rw [heq he, not_hot hn, ha]
    rfl

theorem tctl_rule (s : State) (v : DWord) (hb : s.dev.booted = true) : Happens s (.tctlWrite v) .tctlWrite (fun t =>
    t = { s with dev := { s.dev with power := { s.dev.power with
      tlim := if s.dev.power.tmax < v.setWidth 8 then s.dev.power.tmax else v.setWidth 8 } } }) := by
  intro he
  have heq : exec .tctlWrite s = .next (s.hostWrite (fun s => s.writeTctl v)) := by rw [← event_eta he]; rfl
  refine ⟨_, heq, ?_⟩
  rw [hostWrite_on hb]
  unfold State.writeTctl
  rw [nbits_setWidth]
  rfl

theorem hlim_rule (s : State) (v : DWord) (hb : s.dev.booted = true) : Happens s (.hlimWrite v) .hlimWrite (fun t =>
    t = { s with dev := { s.dev with power := { s.dev.power with
      hlim := if s.dev.power.strap < v.setWidth 12 then s.dev.power.strap else v.setWidth 12 } } }) := by
  intro he
  have heq : exec .hlimWrite s = .next (s.hostWrite (fun s => s.writeHlim v)) := by rw [← event_eta he]; rfl
  refine ⟨_, heq, ?_⟩
  rw [hostWrite_on hb]
  unfold State.writeHlim
  rw [nbits_setWidth]
  rfl

/-! ### Caps and floors -/

/-- Every partition's floor in force set. -/
def setFloors (s : State) (g : Part → Part) : State := (List.range 4).foldl (fun s i => s.modPart i g) s

theorem foldl_modPart (g : Part → Part) (n : Nat) (s : State) :
    let t := (List.range n).foldl (fun s i => s.modPart i g) s
    (∀ j, t.part j = if j < n then g (s.part j) else s.part j) ∧ { t with parts := [] } = { s with parts := [] } := by
  induction n with
  | zero => exact ⟨fun j => rfl, rfl⟩
  | succ n ih =>
    obtain ⟨hparts, hrest⟩ := ih
    intro t
    have ht : t = ((List.range n).foldl (fun s i => s.modPart i g) s).modPart n g := by
      simp only [t, List.range_succ, List.foldl_concat]
    rw [ht]
    refine ⟨fun j => ?_, hrest⟩
    rw [part_modPart, hparts n, hparts j, if_neg (Nat.lt_irrefl n)]
    by_cases h : n = j
    · subst h; simp
    · rw [if_neg h]
      exact if_congr (by omega) rfl rfl

theorem setFloors_part (s : State) (g : Part → Part) (j : Nat) : (setFloors s g).part j = if j < 4 then g (s.part j) else s.part j :=
  (foldl_modPart g 4 s).1 j

theorem setFloors_rest (s : State) (g : Part → Part) : { setFloors s g with parts := [] } = { s with parts := [] } :=
  (foldl_modPart g 4 s).2

theorem floors_eq (s : State) : s.floors = (s.part 0).floor.toNat + (s.part 1).floor.toNat + (s.part 2).floor.toNat + (s.part 3).floor.toNat := by
  simp [State.floors, List.range_succ]

/-- A change of the registers that leaves the budget as it is. -/
theorem modBudget_same {s : State} {f : State → State} (h : (f s).budgetNow = s.budgetNow) : s.modBudget f = f s := if_pos h

/-- The registers with a cap written. -/
def capWritten (p : Power) (v : DWord) : Power := { p with cap := v.setWidth 12, fscale := v.getLsbD 12 }

/-- The registers with a cap in force. -/
def capInForce (p : Power) (v : DWord) (scaled : Bool) : Power := { capWritten p v with
  stat := 0, eff := if p.hlim < v.setWidth 12 then p.hlim else v.setWidth 12, scaled := scaled }

/-- What PCAP makes of the registers and floors. -/
def pcapBody (v : DWord) (s : State) : State :=
  let cap := (v.extractLsb' 0 12).toNat
  if cap < Config.idleFloor then repowered s s.fresh { capWritten s.dev.power v with stat := 1 }
  else if cap < s.floors ∧ !v.getLsbD 12 then repowered s s.fresh { capWritten s.dev.power v with stat := 2 }
  else setFloors (repowered s s.fresh (capInForce s.dev.power v (decide (cap < s.floors)))) (fun p => { p with
    efff := if decide (cap < s.floors) then BitVec.ofNat 12 (p.floor.toNat * cap / s.floors) else p.floor })

theorem min_eq_ite (a b : BitVec 12) : BitVec.ofNat 12 (min a.toNat b.toNat) = if b < a then b else a := by
  apply BitVec.eq_of_toNat_eq
  rw [BitVec.toNat_ofNat, Nat.mod_eq_of_lt (lt_of_le_of_lt (Nat.min_le_left _ _) a.isLt)]
  split_ifs with h
  · exact Nat.min_eq_right (Nat.le_of_lt h)
  · exact Nat.min_eq_left (Nat.le_of_not_lt h)

theorem writePcap_eq (s : State) (v : DWord) : s.writePcap v = s.modBudget (pcapBody v) := by
  unfold State.writePcap pcapBody capInForce capWritten setFloors
  simp only [nbits_setWidth v 11, extract_low, BitVec.ofNat_toNat, BitVec.setWidth_eq, ← min_eq_ite]
  rfl

theorem modBudget_spec {s : State} {f : State → State} (hp : (f s).dev.power.past = s.dev.power.past) :
    let t := s.modBudget f
    t.dev.power = { (f s).dev.power with past := t.dev.power.past } ∧ KeepsPast s t
      ∧ t.cores = (f s).cores ∧ t.agenda = (f s).agenda ∧ t.parts = (f s).parts := by
  dsimp only
  rw [modBudget_eq]
  exact ⟨rfl, keepsPast_after (u := f s) rfl hp rfl, rfl, rfl, rfl⟩

/-- The floors in force are those of `f`, and nothing else of the machine but its device has changed. -/
def FloorsInForce (s : State) (f : Part → BitVec 12) (t : State) : Prop := t.cores = s.cores ∧ t.agenda = s.agenda
  ∧ ∀ j, t.part j = if j < 4 then { s.part j with efff := f (s.part j) } else s.part j

theorem setFloors_inForce (s : State) (p : Power) (f : Part → BitVec 12) {t : State}
    (hcores : t.cores = (setFloors (repowered s s.fresh p) (fun q => { q with efff := f q })).cores)
    (hagenda : t.agenda = (setFloors (repowered s s.fresh p) (fun q => { q with efff := f q })).agenda)
    (hparts : t.parts = (setFloors (repowered s s.fresh p) (fun q => { q with efff := f q })).parts) : FloorsInForce s f t := by
  have hrest := setFloors_rest (repowered s s.fresh p) (fun q => { q with efff := f q })
  refine ⟨hcores.trans (congrArg State.cores hrest :), hagenda.trans (congrArg State.agenda hrest :), fun j => ?_⟩
  have hj := setFloors_part (repowered s s.fresh p) (fun q => { q with efff := f q }) j
  unfold State.part at hj ⊢
  rw [hparts, hj]
  rfl

theorem setFloors_power (s : State) (g : Part → Part) : (setFloors s g).dev = s.dev := (congrArg State.dev (setFloors_rest s g) :)

/-- A cap in force. -/
theorem capped_spec {s : State} {v : DWord} {scaled : Bool} {f : Part → BitVec 12}
    (hbody : pcapBody v s = setFloors (repowered s s.fresh (capInForce s.dev.power v scaled)) (fun q => { q with efff := f q })) :
    let t := s.writePcap v
    t.dev.power = { capInForce s.dev.power v scaled with past := t.dev.power.past } ∧ KeepsPast s t ∧ FloorsInForce s f t := by
  have hdev : (pcapBody v s).dev.power = capInForce s.dev.power v scaled := by rw [hbody, setFloors_power]; rfl
  obtain ⟨hpower, hkeeps, hcores, hagenda, hparts⟩ := modBudget_spec (f := pcapBody v) (s := s) (by rw [hdev]; rfl)
  dsimp only
  rw [writePcap_eq]
  rw [hdev] at hpower
  rw [hbody] at hcores hagenda hparts
  exact ⟨hpower, hkeeps, setFloors_inForce s _ f hcores hagenda hparts⟩

theorem pcap_rule (s : State) (v : DWord) (hb : s.dev.booted = true) :
    let cap := (v.extractLsb' 0 12).toNat
    let floors := (s.part 0).floor.toNat + (s.part 1).floor.toNat + (s.part 2).floor.toNat + (s.part 3).floor.toNat
    (cap < Config.idleFloor → Happens s (.pcapWrite v) .pcapWrite (fun t =>
      t = { s with dev := { s.dev with power := { capWritten s.dev.power v with stat := 1 } } }))
    ∧ (Config.idleFloor ≤ cap → cap < floors → v.getLsbD 12 = false → Happens s (.pcapWrite v) .pcapWrite (fun t =>
      t = { s with dev := { s.dev with power := { capWritten s.dev.power v with stat := 2 } } }))
    ∧ (Config.idleFloor ≤ cap → floors ≤ cap → Happens s (.pcapWrite v) .pcapWrite (fun t =>
      t.dev.power = { capInForce s.dev.power v false with past := t.dev.power.past } ∧ KeepsPast s t ∧ FloorsInForce s (·.floor) t))
    ∧ (Config.idleFloor ≤ cap → cap < floors → v.getLsbD 12 = true → Happens s (.pcapWrite v) .pcapWrite (fun t =>
      t.dev.power = { capInForce s.dev.power v true with past := t.dev.power.past } ∧ KeepsPast s t
      ∧ FloorsInForce s (fun q => BitVec.ofNat 12 (q.floor.toNat * cap / floors)) t)) := by
  intro cap floors
  have heq : ∀ he : s.event = some (.pcapWrite v), exec .pcapWrite s = .next (s.writePcap v) := by
    intro he
    have : exec .pcapWrite s = .next (s.hostWrite (fun s => s.writePcap v)) := by rw [← event_eta he]; rfl
    rw [this, hostWrite_on hb]
  have hlow : cap < Config.idleFloor → pcapBody v s = repowered s s.fresh { capWritten s.dev.power v with stat := 1 } :=
    fun h => if_pos h
  have hhigh : ∀ h : Config.idleFloor ≤ cap, pcapBody v s = if cap < s.floors ∧ !v.getLsbD 12 then
      repowered s s.fresh { capWritten s.dev.power v with stat := 2 }
      else setFloors (repowered s s.fresh (capInForce s.dev.power v (decide (cap < s.floors)))) (fun p => { p with
        efff := if decide (cap < s.floors) then BitVec.ofNat 12 (p.floor.toNat * cap / s.floors) else p.floor }) :=
    fun h => if_neg (Nat.not_lt.2 h)
  rw [floors_eq] at hhigh
  have hsame : ∀ {n}, pcapBody v s = repowered s s.fresh { capWritten s.dev.power v with stat := n } →
      s.writePcap v = repowered s s.fresh { capWritten s.dev.power v with stat := n } := by
    intro n h
    rw [writePcap_eq, modBudget_same (by rw [h]; rfl), h]
  refine ⟨fun h he => ⟨_, heq he, hsame (hlow h)⟩, fun h hlt hs he => ⟨_, heq he, hsame ?_⟩, fun h hle he => ⟨_, heq he, capped_spec ?_⟩,
    fun h hlt hs he => ⟨_, heq he, capped_spec ?_⟩⟩
  · rw [hhigh h, if_pos ⟨hlt, by rw [hs]; rfl⟩]
  · rw [hhigh h, if_neg (fun hc => absurd hc.1 (Nat.not_lt.2 hle)), decide_eq_false (Nat.not_lt.2 hle)]
    rfl
  · rw [hhigh h, if_neg (fun hc => by rw [hs] at hc; exact absurd hc.2 Bool.false_ne_true), decide_eq_true hlt]
    rfl

/-- What PFLOOR makes of the registers and floors. -/
def pfloorBody (part : Nat) (v : DWord) (s : State) : State :=
  if s.dev.power.eff.toNat < s.floors - (s.part part).floor.toNat + (v.extractLsb' 0 12).toNat then
    repowered s s.fresh { s.dev.power with stat := 2 }
  else setFloors ((s.modPart part (fun p => { p with floor := v.setWidth 12 })).modPower (fun p => { p with scaled := false }))
    (fun p => { p with efff := p.floor })

theorem writePfloor_eq (s : State) (part : Nat) (v : DWord) : s.writePfloor part v = s.modBudget (pfloorBody part v) := by
  unfold State.writePfloor pfloorBody setFloors
  simp only [nbits_setWidth v 11, extract_low, BitVec.ofNat_toNat, BitVec.setWidth_eq]
  rfl

theorem partWrite_on {s : State} {part : Nat} (hb : s.dev.booted = true) (hr : (s.part part).flrStep = 0) (f : State → State) :
    s.partWrite part f = f s := by
  unfold State.partWrite
  rw [hostWrite_on hb, if_neg (fun h => h hr)]

theorem pfloor_rule (s : State) (part : Nat) (v : DWord) (hb : s.dev.booted = true) (hpart : part < 4) (hr : (s.part part).flrStep = 0) :
    let floors := (s.part 0).floor.toNat + (s.part 1).floor.toNat + (s.part 2).floor.toNat + (s.part 3).floor.toNat
    let sum := floors - (s.part part).floor.toNat + (v.extractLsb' 0 12).toNat
    (s.dev.power.eff.toNat < sum → Happens s (.pfloorWrite part v) .pfloorWrite (fun t =>
      t = { s with dev := { s.dev with power := { s.dev.power with stat := 2 } } }))
    ∧ (sum ≤ s.dev.power.eff.toNat → Happens s (.pfloorWrite part v) .pfloorWrite (fun t =>
      t.dev.power = { s.dev.power with scaled := false, past := t.dev.power.past } ∧ KeepsPast s t ∧ t.cores = s.cores ∧ t.agenda = s.agenda
      ∧ ∀ j, t.part j = let g := if j = part then v.setWidth 12 else (s.part j).floor
          if j < 4 then { s.part j with floor := g, efff := g } else s.part j)) := by
  intro floors sum
  have heq : ∀ he : s.event = some (.pfloorWrite part v), exec .pfloorWrite s = .next (s.writePfloor part v) := by
    intro he
    have : exec .pfloorWrite s = .next (s.partWrite part (fun s => s.writePfloor part v)) := by rw [← event_eta he]; rfl
    rw [this, partWrite_on hb hr]
  have hsum : s.floors - (s.part part).floor.toNat + (v.extractLsb' 0 12).toNat = sum := by rw [floors_eq]
  refine ⟨fun h he => ⟨_, heq he, ?_⟩, fun h he => ⟨_, heq he, ?_⟩⟩
  · have hbody : pfloorBody part v s = repowered s s.fresh { s.dev.power with stat := 2 } := if_pos (by rw [hsum]; exact h)
    rw [writePfloor_eq, modBudget_same (by rw [hbody]; rfl), hbody]
    rfl
  · let u := (s.modPart part (fun p => { p with floor := v.setWidth 12 })).modPower (fun p => { p with scaled := false })
    have hbody : pfloorBody part v s = setFloors u (fun p => { p with efff := p.floor }) := if_neg (by rw [hsum]; exact Nat.not_lt.2 h)
    have hrest := setFloors_rest u (fun p => { p with efff := p.floor })
    have hdev : (pfloorBody part v s).dev.power = { s.dev.power with scaled := false } := by rw [hbody, setFloors_power]; rfl
    obtain ⟨hpower, hkeeps, hcores, hagenda, hparts⟩ := modBudget_spec (f := pfloorBody part v) (s := s) (by rw [hdev])
    rw [writePfloor_eq]
    rw [hdev] at hpower
    rw [hbody] at hcores hagenda hparts
    refine ⟨hpower, hkeeps, hcores.trans (congrArg State.cores hrest :), hagenda.trans (congrArg State.agenda hrest :), fun j => ?_⟩
    have hj : (s.modBudget (pfloorBody part v)).part j = (setFloors u (fun p => { p with efff := p.floor })).part j := by
      unfold State.part; rw [hparts]
    rw [hj, setFloors_part]
    have hu : u.part j = if part = j then { s.part part with floor := v.setWidth 12 } else s.part j :=
      part_modPart s part j (fun p => { p with floor := v.setWidth 12 })
    rw [hu]
    by_cases h4 : j < 4
    · by_cases hp : part = j
      · subst hp; simp [h4]
      · have : ¬ j = part := fun e => hp e.symm
        simp [h4, hp, this]
    · have : ¬ part = j := by omega
      simp [h4, this]

/-- Settles O52: a change of the budget keeps the one that fixed releases rest on; the code is aimed at in one step at a beat
boundary; a sample votes every sensor and looks at every column and tier. -/
theorem powerSteps : Obligations.PowerSteps := by
  intro s part v raws watts far
  obtain ⟨hthrottle, hthrottleFirst, hthrottleAgain⟩ := selfThrottle_rule s
  obtain ⟨hhardFirst, hhardAgain, hhardBelow⟩ := hardLimit_rule s watts far
  refine ⟨fun hb => ?_, writeBeatctl_rule s v, restore_rule s, beatChange_rule s, sensorSample_rule s raws, hthrottle, hthrottleFirst,
    hthrottleAgain, hhardFirst, hhardAgain, hhardBelow, tctl_rule s v, hlim_rule s v, pcap_rule s v, pfloor_rule s part v⟩
  have hoff : ∀ {i : Instr} {ev : Event} (f : State → State), (s.event = some ev → exec i s = .next (s.hostWrite f)) →
      Happens s ev i (fun t => t = s) := fun f h he => ⟨s, by rw [h he, hostWrite_off hb], rfl⟩
  exact ⟨hoff (fun s => s.writeBeatctl v) (fun he => by rw [← event_eta he]; rfl), hoff State.restoreCeil (fun he => by rw [← event_eta he]; rfl),
    hoff (fun s => s.writeTctl v) (fun he => by rw [← event_eta he]; rfl), hoff (fun s => s.writePcap v) (fun he => by rw [← event_eta he]; rfl),
    hoff (fun s => s.writeHlim v) (fun he => by rw [← event_eta he]; rfl)⟩

end Sys2Proof.Proofs
end

section
/-! PROOFS. Resets and partitions (R136, R178, R271, R272, R286, R299, R308, R309, R423): what power-on leaves, the steps of a
function's reset, the scrub of a partition's cores and lines, MODE, bindings and soft errors. -/

namespace Sys2Proof.Proofs

open Sys2Proof.Machine Sys2Proof.Safety Sys2Proof.Laws

/-! ### Entries left out of a map -/

theorem sget_filter_key {α : Type} (d : α) (p : Nat → Bool) (m : Sparse α) (k : Nat) :
    sget d (m.filter (fun e => p e.1)) k = if p k then sget d m k else d := by
  induction m with
  | nil => exact (ite_self d).symm
  | cons e r ih =>
    obtain ⟨j, v⟩ := e
    rw [List.filter_cons]
    by_cases hj : j = k
    · subst hj
      cases hp : p j
      · rw [if_neg (by simp), ih, hp]; rfl
      · rw [if_pos (by simp), if_pos rfl, sget, if_pos rfl, sget, if_pos rfl]
    · split_ifs with hp hk hk
      · rw [sget, if_neg hj, ih, if_pos hk, sget, if_neg hj]
      · rw [sget, if_neg hj, ih, if_neg hk]
      · rw [ih, if_pos hk, sget, if_neg hj]
      · rw [ih, if_neg hk]

/-- A next step is on the agenda, no later than `most` nanoseconds allow. -/
def GoesOn (s : State) (most : Nat) (ev : Event) (t : State) : Prop :=
  ∃ u, s.now < u ∧ (s.nsTicks most ≠ 0 → u ≤ s.now + s.nsTicks most) ∧ ⟨u, ev⟩ ∈ t.agenda

/-- A step posted at a delay drawn up to a limit. -/
def postWithin (t : State) (most : Nat) (ev : Event) : State :=
  let (d, t) := t.drawIn 1 (t.nsTicks most)
  t.post (t.now + d) ev

theorem postWithin_eq (t : State) (most : Nat) (ev : Event) : ∃ d, postWithin t most ev = ({ t with fresh := t.fresh + 1 }).post (t.now + d) ev
    ∧ 0 < d ∧ (t.nsTicks most ≠ 0 → d ≤ t.nsTicks most) := by
  refine ⟨1 + Config.freeLatency t.fresh % (t.nsTicks most + 1 - 1), rfl, by omega, fun h => ?_⟩
  have := Nat.mod_lt (Config.freeLatency t.fresh) (show t.nsTicks most + 1 - 1 > 0 by omega)
  omega

theorem goesOn_postWithin {s t : State} (hnow : t.now = s.now) (hcur : t.dev.power.cur = s.dev.power.cur) (most : Nat) (ev : Event) :
    GoesOn s most ev (postWithin t most ev) := by
  obtain ⟨d, heq, hpos, hle⟩ := postWithin_eq t most ev
  rw [nsTicks_congr hcur] at hle
  rw [heq]
  refine ⟨t.now + d, by omega, fun h => ?_, (mem_agendaInsert _ _ _).2 (.inl rfl)⟩
  have := hle h
  omega

/-- Nothing but the agenda and the numbers of free values changes. -/
theorem postWithin_rest (t : State) (most : Nat) (ev : Event) :
    { postWithin t most ev with agenda := [], fresh := 0 } = { t with agenda := [], fresh := 0 } := rfl

theorem postWithin_part (t : State) (most : Nat) (ev : Event) (j : Nat) : (postWithin t most ev).part j = t.part j := rfl

theorem postWithin_dev (t : State) (most : Nat) (ev : Event) : (postWithin t most ev).dev = t.dev := rfl
theorem postWithin_core (t : State) (most : Nat) (ev : Event) (k : Nat) : (postWithin t most ev).core k = t.core k := rfl
theorem postWithin_line (t : State) (most : Nat) (ev : Event) (l : Nat) : (postWithin t most ev).line l = t.line l := rfl

/-! ### Power-on -/

theorem powerOn_rule (s : State) (fw : Firmware) : Happens s (.powerOn fw) .powerOn (fun t =>
    t.dev.booted = (fw.rsaOk && fw.slhOk && fw.versionOk) ∧ t.dev.fw = fw.digest
      ∧ t.dev.staging = 16 * (fw.staging.toNat + 1)
      ∧ t.dev.flash = s.dev.flash ∧ t.cores = [] ∧ t.parts = [] ∧ t.lines = [] ∧ t.dev.power = Power.reset ∧ t.dev.fabric = Fabric.reset
      ∧ ∀ b, farByte t b = if Config.flashBase ≤ b ∧ b < Config.flashEnd then farByte s b else 0) := by
  intro he
  rw [← event_eta he]
  refine ⟨_, rfl, rfl, rfl, rfl, rfl, rfl, rfl, rfl, rfl, rfl, fun b => ?_⟩
  refine (sget_filter_key 0 (fun a => decide (Config.flashBase ≤ a ∧ a < Config.flashEnd)) s.dev.far b).trans ?_
  exact if_congr decide_eq_true_iff rfl rfl

/-! ### The reset of a function -/

/-- A function changed. -/
def setFunc (s : State) (v : Nat) (f : Func → Func) : State :=
  s.modDev (fun d => { d with funcs := sset .reset d.funcs v (f (sget .reset d.funcs v)) })

theorem func_setFunc (s : State) (v : Nat) (f : Func → Func) (j : Nat) :
    sget .reset (setFunc s v f).dev.funcs j = if j = v then f (sget .reset s.dev.funcs v) else sget .reset s.dev.funcs j := by
  refine (sget_sset (Func.reset) s.dev.funcs v j (f (sget .reset s.dev.funcs v))).trans ?_
  exact if_congr eq_comm rfl rfl

theorem setFunc_rest (s : State) (v : Nat) (f : Func → Func) :
    { setFunc s v f with dev := { (setFunc s v f).dev with funcs := [] } } = { s with dev := { s.dev with funcs := [] } } := rfl

theorem startReset_joined {s : State} {part : Nat} (h : (s.part part).flrStep ≠ 0) : s.startReset part = s := if_pos h

/-- A partition whose queues are disabled. -/
def disableQueues (n : Nat) (m : Sparse Queue) : Sparse Queue := (List.range n).foldl (fun m i =>
  let q := sget .reset m i
  sset .reset m i { q with en := false, qstop := false }) m
def disabled (p : Part) : Part := { p with flrStep := 1, queues := disableQueues 64 p.queues }

theorem startReset_first {s : State} {part : Nat} (h : (s.part part).flrStep = 0) :
    s.startReset part = postWithin (s.modPart part disabled) 1000 (.flrDrainDone part) := if_neg (fun hn => hn h)

theorem disableQueues_succ (n : Nat) (m : Sparse Queue) : disableQueues (n + 1) m
    = sset .reset (disableQueues n m) n { sget .reset (disableQueues n m) n with en := false, qstop := false } := by
  unfold disableQueues
  rw [List.range_succ, List.foldl_concat]

theorem disableQueues_en (m : Sparse Queue) (n i : Nat) (hi : i < n) : (sget .reset (disableQueues n m) i).en = false := by
  induction n with
  | zero => exact absurd hi (Nat.not_lt_zero _)
  | succ n ih =>
    rw [disableQueues_succ, sget_sset]
    split_ifs with h
    · rfl
    · exact ih (by omega)

theorem disabled_step (p : Part) : (disabled p).flrStep = 1 := rfl

theorem disabled_queue (p : Part) {i : Nat} (hi : i < 64) : ((disabled p).queue i).en = false := by
  have h : (disabled p).queue i = sget .reset (disableQueues 64 p.queues) i := by
    unfold disabled Part.queue
    dsimp only
  rw [h, disableQueues_en _ _ _ hi]

theorem initiateFlr_unbound (s : State) {vf : Nat} (hen : (sget .reset s.dev.funcs vf).en = false) :
    Happens s (.initiateFlr (some vf)) .initiateFlr (fun t => t = setFunc s vf (fun f => { f with flrst := ⟨6, true, 0⟩ })) := by
  intro he
  refine ⟨_, ?_, rfl⟩
  have heq : exec .initiateFlr s = .next (if !(sget .reset s.dev.funcs vf).en then setFunc s vf (fun f => { f with flrst := ⟨6, true, 0⟩ })
      else (setFunc s vf (fun f => { f with joined := some f.part })).startReset (sget .reset s.dev.funcs vf).part.toNat) := by
    rw [← event_eta he]; rfl
  rw [heq, hen]
  rfl

theorem initiateFlr_bound (s : State) {vf part : Nat} (hen : (sget .reset s.dev.funcs vf).en = true)
    (hpart : (sget .reset s.dev.funcs vf).part.toNat = part) : Happens s (.initiateFlr (some vf)) .initiateFlr
      (fun t => t = (setFunc s vf (fun f => { f with joined := some f.part })).startReset part) := by
  intro he
  refine ⟨_, ?_, rfl⟩
  have heq : exec .initiateFlr s = .next (if !(sget .reset s.dev.funcs vf).en then setFunc s vf (fun f => { f with flrst := ⟨6, true, 0⟩ })
      else (setFunc s vf (fun f => { f with joined := some f.part })).startReset (sget .reset s.dev.funcs vf).part.toNat) := by
    rw [← event_eta he]; rfl
  rw [heq, hen, hpart]
  rfl

theorem answers_imp' {o : Host.Outcome State Fault Refusal} {p q : State → Prop} (h : Answers o p) (hpq : ∀ t, p t → q t) : Answers o q := by
  obtain ⟨t, ht, hp⟩ := h
  exact ⟨t, ht, hpq t hp⟩

theorem goesOn_modPart (s : State) (part : Nat) (f : Part → Part) (most : Nat) (ev : Event) :
    let t := postWithin (s.modPart part f) most ev
    t.dev = s.dev ∧ t.part part = f (s.part part) ∧ t.cores = s.cores ∧ GoesOn s most ev t :=
  ⟨rfl, (part_modPart s part part f).trans (if_pos rfl), rfl, goesOn_postWithin rfl rfl _ _⟩

theorem startReset_spec {s : State} {part : Nat} (h : (s.part part).flrStep = 0) : let t := s.startReset part
    t.dev = s.dev ∧ (t.part part).flrStep = 1 ∧ (∀ i, i < 64 → ((t.part part).queue i).en = false) ∧ t.cores = s.cores
      ∧ GoesOn s 1000 (.flrDrainDone part) t := by
  dsimp only
  rw [startReset_first h]
  obtain ⟨hdev, hpart, hcores, hon⟩ := goesOn_modPart s part disabled 1000 (.flrDrainDone part)
  refine ⟨hdev, ?_, fun i hi => ?_, hcores, hon⟩ <;> rw [hpart]
  · exact disabled_step _
  · exact disabled_queue _ hi

/-- A request from the physical function joins every reset under way. -/
def joinAll (s : State) : State := (List.range 16).foldl (fun s v => setFunc s v (fun f => { f with joined := some f.part })) s

theorem foldl_setFunc (g : Func → Func) (n : Nat) (s : State) :
    let t := (List.range n).foldl (fun s v => setFunc s v g) s
    (∀ j, sget .reset t.dev.funcs j = if j < n then g (sget .reset s.dev.funcs j) else sget .reset s.dev.funcs j) ∧ t.parts = s.parts := by
  induction n with
  | zero => exact ⟨fun j => rfl, rfl⟩
  | succ n ih =>
    obtain ⟨hfuncs, hparts⟩ := ih
    dsimp only
    rw [List.range_succ, List.foldl_concat]
    refine ⟨fun j => ?_, hparts⟩
    rw [func_setFunc, hfuncs n, hfuncs j, if_neg (Nat.lt_irrefl n)]
    by_cases h : j = n
    · subst h; simp
    · rw [if_neg h]
      exact if_congr (by omega) rfl rfl

theorem foldl_startReset {s : State} {l : List Nat} (h : ∀ i ∈ l, (s.part i).flrStep ≠ 0) : l.foldl (fun s p => s.startReset p) s = s := by
  induction l with
  | nil => rfl
  | cons i l ih =>
    rw [List.foldl_cons, startReset_joined (h i List.mem_cons_self)]
    exact ih (fun j hj => h j (List.mem_cons_of_mem _ hj))

theorem initiateFlr_all (s : State) (h : ∀ i, i < 4 → (s.part i).flrStep ≠ 0) : Happens s (.initiateFlr none) .initiateFlr (fun t =>
    ∀ j, sget .reset t.dev.funcs j = if j < 16 then { sget .reset s.dev.funcs j with joined := some (sget .reset s.dev.funcs j).part }
      else sget .reset s.dev.funcs j) := by
  intro he
  have heq : exec .initiateFlr s = .next ((List.range 4).foldl (fun s p => s.startReset p) (joinAll s)) := by
    rw [← event_eta he]; rfl
  obtain ⟨hfuncs, hparts⟩ := foldl_setFunc (fun f => { f with joined := some f.part }) 16 s
  refine ⟨_, heq, ?_⟩
  rw [foldl_startReset]
  · exact hfuncs
  · intro i hi
    have : (joinAll s).part i = s.part i := by unfold State.part joinAll; rw [hparts]
    rw [this]
    exact h i (List.mem_range.1 hi)

/-! ### A partition stops (R272, step 2) -/

/-- A core whose contexts are ended. -/
def haltThese (l : List Nat) (t : Nat) (c : Core) : Core := l.foldl (fun c i => c.haltCtx i t) c
def stopCore (t : Nat) (c : Core) : Core :=
  let c := haltThese [0, 1, 2, 3] t c
  { c with ctl := { c.ctl with
    phase := none, handling := none, waiting := [], kept := none, kernel := none, fifo := [], head := none } }

def stopCores (part : Nat) (s : State) : State :=
  s.cores.foldl (fun s e => if s.hasCore part e.1 then s.modCore e.1 (stopCore s.now) else s) s
def stopKernels (part : Nat) (s : State) : State :=
  s.gaf.kernels.foldl (fun s e => match e.2 with
    | some kn => if kn.part = part then s.setKernel e.1 none else s
    | none => s) s
def stopTasks (part : Nat) (s : State) : State :=
  s.gaf.tasks.foldl (fun s e => match e.2 with
    | some t =>
      if t.part ≠ part then s
      else
        let s := s.setTask e.1 none
        if s.refOk part t.stamp then
          (match s.writeRef (.task e.1) part t.stamp (t.seq.toNat + 0x020B * 2 ^ 48) (.taskStampWrite e.1) with | (_, s) => s)
        else s
    | none => s) s

theorem stopPartition_eq (s : State) (part : Nat) :
    s.stopPartition part = (stopTasks part (stopKernels part (stopCores part s))).stopInstalls part := rfl

theorem stopTasks_none {s : State} (part : Nat) (h : s.gaf.tasks = []) : stopTasks part s = s := by
  unfold stopTasks
  rw [h]
  rfl

theorem stopInstalls_none {s : State} (part : Nat) (h : s.dev.flash = []) : s.stopInstalls part = s := by
  unfold State.stopInstalls
  rw [h]
  rfl

/-- What each step of a fold leaves alone, the fold leaves alone. -/
theorem foldl_view {σ α β : Type} (π : σ → β) (f : σ → α → σ) (hf : ∀ s a, π (f s a) = π s) (l : List α) (s : σ) :
    π (l.foldl f s) = π s := by
  induction l generalizing s with
  | nil => rfl
  | cons a l ih => exact (ih _).trans (hf s a)

/-- The machine without its kernels, and without its cores. -/
def kernelless (s : State) : State := { s with gaf := { s.gaf with kernels := [] } }

theorem stopKernels_rest (part : Nat) (s : State) : kernelless (stopKernels part s) = kernelless s := by
  refine foldl_view kernelless _ (fun s e => ?_) _ s
  split
  · split_ifs <;> rfl
  · rfl

theorem stopCores_rest (part : Nat) (s : State) : coreless (stopCores part s) = coreless s := by
  refine foldl_view coreless _ (fun s e => ?_) _ s
  split_ifs <;> rfl

/-- Every context of a core is Halted. -/
def AllHalted (c : Core) : Prop := ∀ i, i < 4 → (c.ctx i).run = .halted

theorem run_haltCtx (c : Core) (t j : Nat) {i : Nat} (h : (c.ctx i).run = .halted) : ((c.haltCtx j t).ctx i).run = .halted := by
  refine (congrArg Ctx.run (ctx_modCtx c j i (fun x => { x with run := .halted }))).trans ?_
  split_ifs
  · rfl
  · exact h

theorem run_haltCtx_same (c : Core) (i t : Nat) : ((c.haltCtx i t).ctx i).run = .halted :=
  congrArg Ctx.run (ctx_modCtx_same c i (fun x => { x with run := .halted }))

theorem run_haltThese (t : Nat) {i : Nat} (l : List Nat) (c : Core) (h : i ∈ l ∨ (c.ctx i).run = .halted) :
    ((haltThese l t c).ctx i).run = .halted := by
  induction l generalizing c with
  | nil => exact h.resolve_left List.not_mem_nil
  | cons j l ih =>
    refine ih (c.haltCtx j t) ?_
    rcases h with h | h
    · rcases List.mem_cons.1 h with rfl | h
      · exact .inr (run_haltCtx_same c i t)
      · exact .inl h
    · exact .inr (run_haltCtx c t j h)

theorem ctx_stopCore (t : Nat) (c : Core) (i : Nat) : (stopCore t c).ctx i = (haltThese [0, 1, 2, 3] t c).ctx i := by
  unfold stopCore
  generalize haltThese [0, 1, 2, 3] t c = d
  rfl

theorem allHalted_stopCore (t : Nat) (c : Core) : AllHalted (stopCore t c) := by
  intro i hi
  rw [ctx_stopCore]
  exact run_haltThese t _ c (.inl (by simp; omega))

theorem hasCore_congr {s t : State} (h : t.dev.mode = s.dev.mode) (part k : Nat) : t.hasCore part k = s.hasCore part k := by
  unfold State.hasCore State.partOf
  rw [h]

section
variable {part j : Nat}

theorem stopped_keeps (l : List (Nat × Core)) (s : State) (h : AllHalted (s.core j)) :
    AllHalted ((l.foldl (fun s e => if s.hasCore part e.1 then s.modCore e.1 (stopCore s.now) else s) s).core j) := by
  refine fold_keeps (fun s => AllHalted (s.core j)) _ l s h (fun s e h => ?_)
  split_ifs
  · rw [core_modCore]
    split_ifs
    · exact allHalted_stopCore _ _
    · exact h
  · exact h

theorem stopped_reaches (l : List (Nat × Core)) (s : State) (hl : ∃ e ∈ l, e.1 = j) (hj : s.hasCore part j = true) :
    AllHalted ((l.foldl (fun s e => if s.hasCore part e.1 then s.modCore e.1 (stopCore s.now) else s) s).core j) := by
  induction l generalizing s with
  | nil => obtain ⟨e, he, -⟩ := hl; exact absurd he List.not_mem_nil
  | cons e l ih =>
    rw [List.foldl_cons]
    by_cases he : e.1 = j
    · refine stopped_keeps l _ ?_
      rw [he, if_pos hj, core_modCore_same]
      exact allHalted_stopCore _ _
    · obtain ⟨d, hd, hdj⟩ := hl
      refine ih _ ⟨d, (List.mem_cons.1 hd).resolve_left (fun h => he (h ▸ hdj)), hdj⟩ ?_
      split_ifs
      · exact hj
      · exact hj

theorem stopCores_other (l : List (Nat × Core)) (s : State) (hj : s.hasCore part j = false) :
    (l.foldl (fun s e => if s.hasCore part e.1 then s.modCore e.1 (stopCore s.now) else s) s).core j = s.core j := by
  induction l generalizing s with
  | nil => rfl
  | cons e l ih =>
    rw [List.foldl_cons]
    split_ifs with he
    · rw [ih _ (by exact hj), core_modCore_other _ _ (fun h => by rw [h, hj] at he; exact absurd he Bool.false_ne_true)]
    · exact ih s hj

theorem stopCores_halts (s : State) (hj : s.hasCore part j = true) : AllHalted ((stopCores part s).core j) := by
  by_cases h : s.core j = .reset
  · exact stopped_keeps _ _ (by rw [h]; exact fun _ _ => rfl)
  · exact stopped_reaches _ _ (listed_of_core_ne h) hj

end

theorem flrDrainDone_first {s : State} {part : Nat} (h : (s.part part).flrStep = 1) (he : s.event = some (.flrDrainDone part)) :
    exec .flrDrainDone s = .next (postWithin ((s.modPart part (fun p => { p with flrStep := 2 })).stopPartition part) 9000 (.flrDrainDone part)) := by
  have heq : exec .flrDrainDone s = execFlrDrainDone s := rfl
  rw [heq]
  unfold execFlrDrainDone
  rw [he]
  dsimp only
  rw [if_pos h]
  rfl

theorem drain_first (s : State) (part : Nat) (h : (s.part part).flrStep = 1) (htasks : s.gaf.tasks = []) (hflash : s.dev.flash = []) :
    Happens s (.flrDrainDone part) .flrDrainDone (fun t => (t.part part).flrStep = 2
      ∧ (∀ k, s.hasCore part k = true → ∀ i, i < 4 → (t.ctx (k, i)).run = .halted)
      ∧ (∀ k, s.hasCore part k = false → t.core k = s.core k) ∧ GoesOn s 9000 (.flrDrainDone part) t) := by
  intro he
  let u := s.modPart part (fun p => { p with flrStep := 2 })
  have hcores := stopCores_rest part u
  have hkernels := stopKernels_rest part (stopCores part u)
  have htasks' : (stopKernels part (stopCores part u)).gaf.tasks = [] :=
    (congrArg (fun x : State => x.gaf.tasks) hkernels :).trans ((congrArg (fun x : State => x.gaf.tasks) hcores :).trans htasks)
  have hdev : (stopKernels part (stopCores part u)).dev = s.dev := (congrArg State.dev hkernels :).trans (congrArg State.dev hcores :)
  have heq : u.stopPartition part = stopKernels part (stopCores part u) := by
    rw [stopPartition_eq, stopTasks_none part htasks', stopInstalls_none part (by rw [hdev, hflash])]
  have hcore : ∀ k, (stopKernels part (stopCores part u)).core k = (stopCores part u).core k :=
    fun k => (congrArg (fun x : State => x.core k) hkernels :)
  have hnow : (stopKernels part (stopCores part u)).now = s.now := (congrArg State.now hkernels :).trans (congrArg State.now hcores :)
  have hpart : (stopKernels part (stopCores part u)).part part = u.part part :=
    (congrArg (fun x : State => x.part part) hkernels :).trans (congrArg (fun x : State => x.part part) hcores :)
  refine ⟨_, flrDrainDone_first h he, ?_⟩
  rw [show (s.modPart part (fun p => { p with flrStep := 2 })).stopPartition part = stopKernels part (stopCores part u) from heq]
  refine ⟨?_, fun k hk i hi => ?_, fun k hk => ?_, goesOn_postWithin hnow (by rw [hdev]) _ _⟩
  · rw [postWithin_part, hpart, part_modPart, if_pos rfl]
  · exact (congrArg (fun c : Core => (c.ctx i).run) (hcore k)).trans (stopCores_halts u hk i hi)
  · exact (hcore k).trans (stopCores_other u.cores u hk)

theorem drain_second (s : State) (part : Nat) (h : (s.part part).flrStep = 2) :
    Happens s (.flrDrainDone part) .flrDrainDone (fun t => (t.part part).flrStep = 3 ∧ t.cores = s.cores
      ∧ GoesOn s 990000 (.flrDrainDone part) t) := by
  intro he
  obtain ⟨-, hpart, hcores, hon⟩ := goesOn_modPart s part (fun p => { p with flrStep := 3 }) 990000 (.flrDrainDone part)
  refine ⟨postWithin (s.modPart part (fun p => { p with flrStep := 3 })) 990000 (.flrDrainDone part), ?_, by rw [hpart], hcores, hon⟩
  have heq : exec .flrDrainDone s = execFlrDrainDone s := rfl
  rw [heq]
  unfold execFlrDrainDone
  rw [he]
  dsimp only
  rw [if_neg (by rw [h]; decide), if_pos h]
  rfl

/-! ### The scrub (R272, step 4) -/

theorem swfFrom_lt {α : Type} [DecidableEq α] {d : α} {l : Sparse α} {lo : Nat} (h : swfFrom d lo l = true) : ∀ e ∈ l, lo ≤ e.1 := by
  induction l generalizing lo with
  | nil => exact fun _ h => absurd h List.not_mem_nil
  | cons e l ih =>
    obtain ⟨j, c⟩ := e
    simp only [swfFrom, Bool.and_eq_true, decide_eq_true_eq] at h
    obtain ⟨⟨hlo, -⟩, hrest⟩ := h
    intro e he
    rcases List.mem_cons.1 he with rfl | he
    · exact hlo
    · have := ih hrest e he
      omega

/-- A core scrubbed: all but its instruction store is at reset. -/
def scrubCore (now : Nat) (c : Core) : Core := { Core.reset with store := c.store, ctl := { Ctl.reset with issueAt := now } }

/-- The cores of a partition scrubbed, those of a list. -/
def scrubThese (part : Nat) (l : List (Nat × Core)) (s : State) : State :=
  l.foldl (fun s e => if s.hasCore part e.1 then s.setCore e.1 (scrubCore s.now e.2) else s) s

theorem scrubThese_rest (part : Nat) (l : List (Nat × Core)) (s : State) : coreless (scrubThese part l s) = coreless s := by
  refine foldl_view coreless _ (fun s e => ?_) l s
  split_ifs <;> rfl

/-- Each core of the partition that a list in canonical form names is scrubbed. -/
theorem core_scrubThese (part : Nat) (l : List (Nat × Core)) : ∀ (lo : Nat) (s : State), swfFrom .reset lo l = true → ∀ k,
    (scrubThese part l s).core k
      = if (∃ e ∈ l, e.1 = k) ∧ s.hasCore part k = true then scrubCore s.now (sget .reset l k) else s.core k := by
  induction l with
  | nil => intro lo s _ k; simp [scrubThese]
  | cons e l ih =>
    obtain ⟨j, c⟩ := e
    intro lo s hwf k
    simp only [swfFrom, Bool.and_eq_true, decide_eq_true_eq] at hwf
    obtain ⟨-, hrest⟩ := hwf
    let u := if s.hasCore part j then s.setCore j (scrubCore s.now c) else s
    have hless : coreless u = coreless s := by simp only [u]; split_ifs <;> rfl
    have hnow : u.now = s.now := (congrArg State.now hless :)
    have hhas : ∀ k, u.hasCore part k = s.hasCore part k := fun k => hasCore_congr (congrArg (fun x : State => x.dev.mode) hless :) part k
    have hstep : (scrubThese part ((j, c) :: l) s) = scrubThese part l u := rfl
    rw [hstep, ih (j + 1) u hrest k, hnow, hhas]
    by_cases hj : j = k
    · subst hj
      have hnone : ¬ ∃ e ∈ l, e.1 = j := fun ⟨e, he, hej⟩ => by have := swfFrom_lt hrest e he; omega
      rw [if_neg (fun h => hnone h.1)]
      by_cases hp : s.hasCore part j = true
      · rw [if_pos ⟨⟨_, List.mem_cons_self, rfl⟩, hp⟩, sget, if_pos rfl]
        simp only [u, if_pos hp, core_setCore_same]
      · rw [if_neg (fun h => hp h.2)]
        simp only [u, if_neg hp]
    · have hu : u.core k = s.core k := by
        simp only [u]
        split_ifs
        · rw [core_setCore, if_neg hj]
        · rfl
      have hex : (∃ e ∈ (j, c) :: l, e.1 = k) ↔ ∃ e ∈ l, e.1 = k := by
        constructor
        · rintro ⟨e, he, hk⟩
          rcases List.mem_cons.1 he with rfl | he
          · exact absurd hk hj
          · exact ⟨e, he, hk⟩
        · rintro ⟨e, he, hk⟩
          exact ⟨e, List.mem_cons_of_mem _ he, hk⟩
      rw [hu, sget, if_neg hj]
      exact if_congr (and_congr_left' hex.symm) rfl rfl

/-- A scrubbed core holds the reset values in its contexts and its memory; its instruction store stays. -/
def ScrubbedCore (c d : Core) : Prop := (∀ i, d.ctx i = Ctx.reset) ∧ (∀ b, sget 0 d.near b = 0) ∧ d.store = c.store

theorem scrubbed_scrubCore (now : Nat) (c : Core) : ScrubbedCore c (scrubCore now c) := ⟨fun _ => rfl, fun _ => rfl, rfl⟩

/-- The first half of a scrub: what the partition's cores have in the event units and in SC is dropped. -/
def dropOps (part : Nat) (s : State) : State := { s with
  units := s.units.filter (fun o => !s.hasCore part o.who.1)
  sc := s.sc.filter (fun o => !s.hasCore part o.who.1) }

theorem scrub_eq (s : State) (part : Nat) : s.scrub part = let u := scrubThese part s.cores (dropOps part s)
    { u with
      lines := u.lines.filter (fun e => !u.hasCol part (lineColumn e.1))
      bufs := u.bufs.filter (fun e => !u.hasCol part (e.1 % 64)) } := rfl

/-- What a scrub of partition `part` does to cores and event lines. -/
structure Scrubs (part : Nat) (s t : State) : Prop where
  mine   : ∀ k, s.hasCore part k = true → ScrubbedCore (s.core k) (t.core k)
  others : ∀ k, s.hasCore part k = false → t.core k = s.core k
  line   : ∀ l, t.line l = if s.hasCol part (lineColumn l) then EvLine.reset else s.line l
  wf     : swf .reset t.cores = true
  rest   : { t with cores := [], lines := [], units := [], sc := [], bufs := [] } = { s with cores := [], lines := [], units := [], sc := [], bufs := [] }

theorem scrubs_scrub {s : State} (part : Nat) (hwf : swf .reset s.cores = true) : Scrubs part s (s.scrub part) := by
  rw [scrub_eq]
  have hless := scrubThese_rest part s.cores (dropOps part s)
  have hmode : (scrubThese part s.cores (dropOps part s)).dev = s.dev := (congrArg State.dev hless :)
  have hlines : (scrubThese part s.cores (dropOps part s)).lines = s.lines := (congrArg State.lines hless :)
  have hcore := core_scrubThese part s.cores 0 (dropOps part s) hwf
  have hwf' : swf .reset (scrubThese part s.cores (dropOps part s)).cores = true :=
    fold_keeps (fun x : State => swf .reset x.cores = true) _ s.cores (dropOps part s) hwf
      (fun x e h => by split_ifs; exact swf_sset _ _ h; exact h)
  generalize scrubThese part s.cores (dropOps part s) = u at *
  refine ⟨fun k hk => ?_, fun k hk => ?_, fun l => ?_, hwf', ?_⟩
  · show ScrubbedCore (s.core k) (u.core k)
    rw [hcore k]
    split_ifs with h
    · exact scrubbed_scrubCore _ _
    · have hr : s.core k = .reset := by
        by_contra hne
        exact h ⟨listed_of_core_ne hne, hk⟩
      rw [show (dropOps part s).core k = s.core k from rfl, hr]
      exact ⟨fun _ => rfl, fun _ => rfl, rfl⟩
  · show u.core k = s.core k
    rw [hcore k, if_neg (fun h => by rw [show (dropOps part s).hasCore part k = s.hasCore part k from rfl, hk] at h; exact absurd h.2 Bool.false_ne_true)]
    rfl
  · refine (sget_filter_key EvLine.reset (fun a => !u.hasCol part (lineColumn a)) u.lines l).trans ?_
    rw [hlines]
    have : u.hasCol part (lineColumn l) = s.hasCol part (lineColumn l) := by unfold State.hasCol; rw [hmode]
    rw [this]
    cases s.hasCol part (lineColumn l) <;> rfl
  · have h := (congrArg (fun x : State => ({ x with cores := [], lines := [], units := [], sc := [], bufs := [] } : State)) hless :)
    exact h

/-! ### The end of step 3 -/

def clearSlots (part : Nat) (s : State) : State := s.cols.foldl (fun s e => if s.hasCol part e.1 then
  s.modCol e.1 (fun c => { c with slots := [], scnt := 0, sched := [] }) else s) s
/-- The partition's requests abandoned, its slots cleared and its cores scrubbed. -/
def epochEnds (part : Nat) (s : State) : State :=
  (clearSlots part ((s.nextEpoch part).modPart part (fun p => { p with flrStep := 4 }))).scrub part

theorem flrDrainDone_third {s : State} {part : Nat} (h : (s.part part).flrStep = 3) (he : s.event = some (.flrDrainDone part)) :
    exec .flrDrainDone s = .next (postWithin (epochEnds part (s.drain part)) 2000000 (.flrComplete part)) := by
  have heq : exec .flrDrainDone s = execFlrDrainDone s := rfl
  rw [heq]
  unfold execFlrDrainDone
  rw [he]
  dsimp only
  rw [if_neg (by rw [h]; decide), if_neg (by rw [h]; decide)]
  rfl

/-- The machine without its columns. -/
def colless (s : State) : State := { s with cols := [] }

theorem clearSlots_rest (part : Nat) (s : State) : colless (clearSlots part s) = colless s := by
  refine foldl_view colless _ (fun s e => ?_) _ s
  split_ifs <;> rfl

/-- What the end of an epoch leaves alone, and that no request of the partition is left. -/
structure EndsEpoch (part : Nat) (s t : State) : Prop where
  cores : t.cores = s.cores
  lines : t.lines = s.lines
  mode  : t.dev.mode = s.dev.mode
  far   : t.dev.far = s.dev.far
  now   : t.now = s.now
  power : t.dev.power = s.dev.power
  epoch : (t.part part).epoch = (s.part part).epoch + 1
  reqs  : ∀ r ∈ t.dev.fabric.reqs, r.part ≠ part

theorem endsEpoch_nextEpoch (part : Nat) (s : State) : EndsEpoch part s (s.nextEpoch part) where
  cores := rfl
  lines := rfl
  mode := rfl
  far := rfl
  now := rfl
  power := rfl
  epoch := congrArg Part.epoch ((part_modPart _ part part (fun p => { p with epoch := p.epoch + 1 })).trans (if_pos rfl))
  reqs r hr := bne_iff_ne.1 (List.mem_filter.1 (show r ∈ s.dev.fabric.reqs.filter (fun r => r.part != part) from hr)).2

/-- The state that the scrub of step 3 finds. -/
def toScrub (part : Nat) (s : State) : State := clearSlots part ((s.nextEpoch part).modPart part (fun p => { p with flrStep := 4 }))

theorem endsEpoch_toScrub (part : Nat) (s : State) : EndsEpoch part s (toScrub part s) ∧ ((toScrub part s).part part).flrStep = 4 := by
  have h := endsEpoch_nextEpoch part s
  unfold toScrub
  generalize s.nextEpoch part = v at *
  have hless := clearSlots_rest part (v.modPart part (fun p => { p with flrStep := 4 }))
  have hpart : (clearSlots part (v.modPart part (fun p => { p with flrStep := 4 }))).part part = { v.part part with flrStep := 4 } :=
    (congrArg (fun x : State => x.part part) hless :).trans
      ((part_modPart v part part (fun p => { p with flrStep := 4 })).trans (if_pos rfl))
  exact ⟨⟨(congrArg State.cores hless :).trans h.cores, (congrArg State.lines hless :).trans h.lines,
    (congrArg (fun x : State => x.dev.mode) hless :).trans h.mode, (congrArg (fun x : State => x.dev.far) hless :).trans h.far,
    (congrArg State.now hless :).trans h.now, (congrArg (fun x : State => x.dev.power) hless :).trans h.power,
    by rw [hpart]; exact h.epoch, (congrArg (fun x : State => x.dev.fabric.reqs) hless :) ▸ h.reqs⟩, by rw [hpart]⟩

theorem far_scrub (s : State) (part : Nat) : (s.scrub part).dev = s.dev := by
  rw [scrub_eq]
  exact (congrArg State.dev (scrubThese_rest part s.cores (dropOps part s)) :)

theorem far_epochEnds (part : Nat) (s : State) : (epochEnds part s).dev.far = s.dev.far := by
  rw [show epochEnds part s = (toScrub part s).scrub part from rfl, far_scrub, (endsEpoch_toScrub part s).1.far]

theorem foldl_fixed {σ α : Type} {f : σ → α → σ} {s : σ} {l : List α} (h : ∀ a ∈ l, f s a = s) : l.foldl f s = s := by
  induction l with
  | nil => rfl
  | cons a l ih =>
    rw [List.foldl_cons, h a List.mem_cons_self]
    exact ih (fun b hb => h b (List.mem_cons_of_mem _ hb))

/-- The step is none of the requests that complete as a partition drains. -/
def NotDrained (ev : Event) : Prop := (∀ k c n va d ep, ev ≠ .stxComplete k c n va d ep)
  ∧ (∀ r, ev ≠ .deviceAtomicReply r) ∧ (∀ a b c d x y, ev ≠ .objectReply a b c d x y) ∧ ∀ c j, ev ≠ .engineStampWrite c j

/-- A step performed where the partition drains. -/
def performed (s : State) (e : Due) (i : State → Host.Outcome State Fault Refusal) : State :=
  match i { s with event := some e.ev } with
  | .next t => { t with event := s.event }
  | _ => s

/-- A far write performed, where nothing keeps it. -/
def storedFar (part k : Nat) (va : DWord) (d : BitVec 512) (ev : Event) (s : State) : State :=
  match s.farWrite part (columnOf k) va.toNat (lineBytes d) 0 ev with
  | (.ok (), s) => s
  | (_, _) => s

/-- One entry of the agenda looked at as the partition of `s0` drains. -/
def drainStep (part : Nat) (s0 s : State) (e : Due) : State :=
  match e.ev with
  | .stxComplete k _ _ va data epoch =>
    if s0.hasCore part k && epoch.toNat == (s0.part part).epoch.toNat then storedFar part k va data e.ev s else s
  | .deviceAtomicReply r => if s.hasCore part r.core then performed s e execDeviceAtomicReply else s
  | .objectReply k _ _ _ _ _ => if s.hasCore part k then performed s e execObjectReply else s
  | .engineStampWrite c _ => if s.hasCol part c then performed s e execEngineStampWrite else s
  | _ => s

theorem drain_eq (s : State) (part : Nat) : s.drain part = s.agenda.foldl (drainStep part s) s := rfl

theorem drainStep_none {part : Nat} {s0 s : State} {e : Due} (h : NotDrained e.ev) : drainStep part s0 s e = s := by
  obtain ⟨hstx, hdev, hobj, hstamp⟩ := h
  unfold drainStep
  split
  next hev => exact absurd hev (hstx _ _ _ _ _ _)
  next hev => exact absurd hev (hdev _)
  next hev => exact absurd hev (hobj _ _ _ _ _ _)
  next hev => exact absurd hev (hstamp _ _)
  next => rfl

theorem drain_nothing {s : State} (part : Nat) (h : ∀ e ∈ s.agenda, NotDrained e.ev) : s.drain part = s := by
  rw [drain_eq]
  exact foldl_fixed (fun e he => drainStep_none (h e he))

/-- Cores and lines of a partition at their reset values. -/
def Scrubbed (s : State) (p : Nat) (t : State) : Prop :=
  (∀ k, s.hasCore p k = true → (∀ i, t.ctx (k, i) = Ctx.reset) ∧ (∀ b, nearByte t k b = 0) ∧ (t.core k).store = (s.core k).store)
  ∧ (∀ l, s.hasCol p (lineColumn l) = true → t.line l = EvLine.reset)

theorem drain_third (s : State) (part : Nat) (h : (s.part part).flrStep = 3) (hwf : swf .reset s.cores = true)
    (hagenda : ∀ e ∈ s.agenda, NotDrained e.ev) : Happens s (.flrDrainDone part) .flrDrainDone (fun t => Scrubbed s part t
      ∧ (t.part part).flrStep = 4 ∧ (t.part part).epoch = (s.part part).epoch + 1
      ∧ (∀ k, s.hasCore part k = false → t.core k = s.core k) ∧ (∀ b, farByte t b = farByte s b)
      ∧ (∀ r ∈ t.dev.fabric.reqs, r.part ≠ part) ∧ GoesOn s 2000000 (.flrComplete part) t) := by
  intro he
  refine ⟨_, flrDrainDone_third h he, ?_⟩
  rw [drain_nothing part hagenda]
  obtain ⟨⟨hcores, hlines, hmode, hfar, hnow, hpower, hepoch, hreqs⟩, hstep⟩ := endsEpoch_toScrub part s
  rw [show epochEnds part s = (toScrub part s).scrub part from rfl]
  generalize toScrub part s = u at *
  have hs := scrubs_scrub part (s := u) (by rw [hcores]; exact hwf)
  have hcore : ∀ k, u.core k = s.core k := fun k => by unfold State.core; rw [hcores]
  have hhas : ∀ k, u.hasCore part k = s.hasCore part k := hasCore_congr hmode part
  have hpart : (u.scrub part).part part = u.part part := (congrArg (fun x : State => x.part part) hs.rest :)
  have hdev := far_scrub u part
  refine ⟨⟨fun k hk => ?_, fun l hl => ?_⟩, ?_, ?_, fun k hk => ?_, fun b => ?_, ?_, goesOn_postWithin ?_ ?_ _ _⟩
  · obtain ⟨hctx, hnear, hstore⟩ := hs.mine k (by rw [hhas]; exact hk)
    unfold State.ctx nearByte
    rw [postWithin_core]
    exact ⟨hctx, hnear, hstore.trans (by rw [hcore])⟩
  · rw [postWithin_line]
    exact (hs.line l).trans (if_pos (by unfold State.hasCol at hl ⊢; rw [hmode]; exact hl))
  · rw [postWithin_part, hpart, hstep]
  · rw [postWithin_part, hpart, hepoch]
  · rw [postWithin_core]
    exact (hs.others k (by rw [hhas]; exact hk)).trans (hcore k)
  · unfold farByte
    rw [postWithin_dev, hdev, hfar]
  · rw [postWithin_dev, hdev]
    exact hreqs
  · exact (congrArg State.now hs.rest :).trans hnow
  · rw [hdev, hpower]

theorem storedFar_ok {s u : State} {part k : Nat} {va : DWord} {d : BitVec 512} {ev : Event}
    (hw : s.farWrite part (columnOf k) va.toNat (lineBytes d) 0 ev = (.ok (), u)) : storedFar part k va d ev s = u := by
  unfold storedFar
  rw [hw]

theorem drainStep_store {part : Nat} {s : State} {k c n : Nat} {va : DWord} {d : BitVec 512} {at_ : Nat} (hk : s.hasCore part k = true) :
    drainStep part s s ⟨at_, .stxComplete k c n va d (s.part part).epoch⟩
      = storedFar part k va d (.stxComplete k c n va d (s.part part).epoch) s :=
  if_pos (by rw [hk, beq_self_eq_true]; rfl)

/-- A store of the partition that is under way as it drains is performed. -/
theorem drain_store (s u : State) (part at_ k c n : Nat) (va : DWord) (d : BitVec 512) (h : (s.part part).flrStep = 3)
    (hagenda : s.agenda = [⟨at_, .stxComplete k c n va d (s.part part).epoch⟩]) (hk : s.hasCore part k = true)
    (hw : s.farWrite part (columnOf k) va.toNat (lineBytes d) 0 (.stxComplete k c n va d (s.part part).epoch) = (.ok (), u)) :
    Happens s (.flrDrainDone part) .flrDrainDone (fun t => ∀ b, farByte t b = farByte u b) := by
  intro he
  refine ⟨_, flrDrainDone_third h he, fun b => ?_⟩
  have hdrain : s.drain part = u := by
    rw [drain_eq, hagenda, List.foldl_cons, List.foldl_nil, drainStep_store hk, storedFar_ok hw]
  unfold farByte
  rw [hdrain, postWithin_dev, far_epochEnds]

/-- An atomic of the partition that is under way as it drains is performed. -/
theorem drain_atomic (s u : State) (part at_ : Nat) (r : AtomicReq) (h : (s.part part).flrStep = 3)
    (hagenda : s.agenda = [⟨at_, .deviceAtomicReply r⟩]) (hk : s.hasCore part r.core = true)
    (hx : exec .deviceAtomicReply { s with event := some (.deviceAtomicReply r) } = .next u) :
    Happens s (.flrDrainDone part) .flrDrainDone (fun t => ∀ b, farByte t b = farByte u b) := by
  intro he
  refine ⟨_, flrDrainDone_third h he, fun b => ?_⟩
  have hx' : execDeviceAtomicReply { s with event := some (.deviceAtomicReply r) } = .next u := hx
  have hdrain : s.drain part = { u with event := s.event } := by
    rw [drain_eq, hagenda, List.foldl_cons, List.foldl_nil]
    unfold drainStep performed
    dsimp only
    rw [if_pos hk, hx']
  unfold farByte
  rw [hdrain, postWithin_dev, far_epochEnds]

/-! ### Translation and the end of a reset (R272, steps 5 and 6) -/

/-- Translation, bindings, group tables and FQCTL at their reset values. -/
def unmap (p : Part) : Part := { p with ranges := [], ptroot := 0, groups := [], fq := { p.fq with en := false, log2n := 8, base := 0 } }

/-- The translation caches of every column without a partition's entries. -/
def dropCached (part : Nat) (s : State) : State := s.cols.foldl (fun s e => s.modCol e.1 (fun c => { c with
  rangeC := c.rangeC.filter (fun x => x.part != part), pageC := c.pageC.filter (fun x => x.part != part) })) s

theorem dropCached_rest (part : Nat) (s : State) : colless (dropCached part s) = colless s :=
  foldl_view colless (fun (s : State) (e : Nat × Column) => s.modCol e.1 (fun c => { c with
    rangeC := c.rangeC.filter (fun x => x.part != part), pageC := c.pageC.filter (fun x => x.part != part) })) (fun _ _ => rfl) s.cols s

theorem resetTranslation_eq (s : State) (part : Nat) : s.resetTranslation part = dropCached part (s.modPart part unmap) := rfl

/-- What step 5 does: the partition's translation is at reset, and nothing else but caches changes. -/
theorem resetTranslation_spec (s : State) (part : Nat) : colless (s.resetTranslation part) = colless (s.modPart part unmap) := by
  rw [resetTranslation_eq, dropCached_rest]

/-- A partition's translation is at its reset values. -/
def Unmapped (p : Nat) (t : State) : Prop :=
  (t.part p).ranges = [] ∧ (t.part p).ptroot = 0 ∧ (t.part p).groups = [] ∧ (t.part p).fq.en = false

theorem flrComplete_fourth (s : State) (part : Nat) (h : (s.part part).flrStep = 4) :
    Happens s (.flrComplete part) .flrComplete (fun t => (t.part part).flrStep = 5 ∧ Unmapped part t ∧ t.cores = s.cores
      ∧ GoesOn s 2000000 (.flrComplete part) t) := by
  intro he
  let u := (s.modPart part (fun p => { p with flrStep := 5 })).resetTranslation part
  have heq : exec .flrComplete s = .next (postWithin u 2000000 (.flrComplete part)) := by
    have : exec .flrComplete s = execFlrComplete s := rfl
    rw [this]
    unfold execFlrComplete
    rw [he]
    dsimp only
    rw [if_pos h]
    rfl
  refine ⟨_, heq, ?_⟩
  have hless := resetTranslation_spec (s.modPart part (fun p => { p with flrStep := 5 })) part
  have hpart : u.part part = unmap { s.part part with flrStep := 5 } := by
    refine (congrArg (fun x : State => x.part part) hless :).trans ?_
    refine (part_modPart (s.modPart part (fun p => { p with flrStep := 5 })) part part unmap).trans ?_
    rw [if_pos rfl, part_modPart, if_pos rfl]
  have hcores : u.cores = s.cores := (congrArg State.cores hless :)
  have hnow : u.now = s.now := (congrArg State.now hless :)
  have hdev : u.dev = s.dev := (congrArg State.dev hless :)
  generalize u = u at *
  refine ⟨?_, ?_, hcores, goesOn_postWithin hnow (by rw [hdev]) _ _⟩
  · rw [postWithin_part, hpart]; rfl
  · unfold Unmapped
    rw [postWithin_part, hpart]
    exact ⟨rfl, rfl, rfl, rfl⟩

/-- A function whose reset joined one of a partition reports it done. -/
def reported (part : Nat) (e : BitVec 4) (f : Func) : Func :=
  if f.joined.map BitVec.toNat = some part then { f with joined := none, flrst := ⟨6, true, if f.en then e else 0⟩ } else f

/-- A fold over numbers whose steps each change the entry of their number. -/
theorem sget_foldl_local {α : Type} {d : α} {step : Sparse α → Nat → Sparse α} {h : α → α}
    (hs : ∀ m i j, sget d (step m i) j = if j = i then h (sget d m i) else sget d m j) (n : Nat) (m : Sparse α) (j : Nat) :
    sget d ((List.range n).foldl step m) j = if j < n then h (sget d m j) else sget d m j := by
  induction n generalizing j with
  | zero => rfl
  | succ n ih =>
    rw [List.range_succ, List.foldl_concat, hs, ih n, ih j, if_neg (Nat.lt_irrefl n)]
    by_cases hj : j = n
    · subst hj
      rw [if_pos rfl, if_pos (Nat.lt_succ_self _)]
    · rw [if_neg hj]
      exact if_congr (by omega) rfl rfl

/-- The report of one function. -/
def reportOne (part : Nat) (e : BitVec 4) (m : Sparse Func) (v : Nat) : Sparse Func :=
  let f := sget .reset m v
  if f.joined.map BitVec.toNat = some part then
    sset .reset m v { f with joined := none, flrst := ⟨6, true, if f.en then e else 0⟩ }
  else m

theorem sget_reportOne (part : Nat) (e : BitVec 4) (m : Sparse Func) (v j : Nat) :
    sget .reset (reportOne part e m v) j = if j = v then reported part e (sget .reset m v) else sget .reset m j := by
  unfold reportOne reported
  dsimp only
  by_cases hjoin : (sget .reset m v).joined.map BitVec.toNat = some part
  · rw [if_pos hjoin, if_pos hjoin, sget_sset]
    exact if_congr eq_comm rfl rfl
  · rw [if_neg hjoin, if_neg hjoin]
    split_ifs with h
    · rw [h]
    · rfl

def reportAll (part : Nat) (e : BitVec 4) (n : Nat) (m : Sparse Func) : Sparse Func := (List.range n).foldl (reportOne part e) m

theorem sget_reportAll (part : Nat) (e : BitVec 4) (n : Nat) (m : Sparse Func) (j : Nat) :
    sget .reset (reportAll part e n m) j = if j < n then reported part e (sget .reset m j) else sget .reset m j :=
  sget_foldl_local (sget_reportOne part e) n m j

theorem modDev_funcs (s : State) (f : Sparse Func → Sparse Func) : (s.modDev (fun d => { d with funcs := f d.funcs })).dev.funcs = f s.dev.funcs :=
  rfl

theorem flrComplete_last (s : State) (part : Nat) (h : (s.part part).flrStep ≠ 4) :
    Happens s (.flrComplete part) .flrComplete (fun t => (t.part part).flrStep = 0 ∧ t.cores = s.cores ∧ t.agenda = s.agenda
      ∧ ∀ j, sget .reset t.dev.funcs j = let g := sget .reset s.dev.funcs j
        if j < 16 ∧ g.joined.map BitVec.toNat = some part then
          { g with joined := none, flrst := ⟨6, true, if g.en = true then (s.part part).epoch else 0⟩ } else g) := by
  intro he
  let u := s.modPart part (fun p => { p with flrStep := 0 })
  have heq : exec .flrComplete s
      = .next (u.modDev (fun d => { d with funcs := reportAll part (u.part part).epoch 16 d.funcs })) := by
    have : exec .flrComplete s = execFlrComplete s := rfl
    rw [this]
    unfold execFlrComplete
    rw [he]
    dsimp only
    rw [if_neg h]
    rfl
  have hpart : u.part part = { s.part part with flrStep := 0 } := (part_modPart s part part (fun p => { p with flrStep := 0 })).trans (if_pos rfl)
  have hf := sget_reportAll part (u.part part).epoch 16
  generalize reportAll part (u.part part).epoch 16 = f at heq hf
  rw [hpart] at hf
  refine ⟨_, heq, (congrArg Part.flrStep hpart :), rfl, rfl, fun j => ?_⟩
  rw [modDev_funcs, hf, show u.dev = s.dev from rfl]
  unfold reported
  dsimp only
  by_cases hj : j < 16
  · rw [if_pos hj]
    exact if_congr (by simp [hj]) rfl rfl
  · rw [if_neg hj, if_neg (fun hc => hj hc.1)]

/-! ### MODE (R286) -/

/-- One partition passes through steps 4 and 5. -/
def passes45 (s : State) (p : Nat) : State := ((s.nextEpoch p).scrub p).resetTranslation p

/-- The partitions below `n` have passed through steps 4 and 5, the others are as they were. -/
structure Passed (s : State) (n : Nat) (t : State) : Prop where
  core   : ∀ k, if s.partOf k < n then ScrubbedCore (s.core k) (t.core k) else t.core k = s.core k
  line   : ∀ l, t.line l = if partOfQuad s.dev.mode (lineColumn l / 16) < n then EvLine.reset else s.line l
  part   : ∀ p, if p < n then Unmapped p t ∧ (t.part p).epoch = (s.part p).epoch + 1 else t.part p = s.part p
  wf     : swf .reset t.cores = true
  mode   : t.dev.mode = s.dev.mode
  err    : t.dev.err = s.dev.err
  now    : t.now = s.now

theorem passed_zero {s : State} (h : swf .reset s.cores = true) : Passed s 0 s :=
  ⟨fun _ => rfl, fun _ => rfl, fun _ => rfl, h, rfl, rfl, rfl⟩

theorem part_nextEpoch (s : State) (p j : Nat) :
    (s.nextEpoch p).part j = if p = j then { s.part p with epoch := (s.part p).epoch + 1 } else s.part j :=
  part_modPart _ p j (fun p => { p with epoch := p.epoch + 1 })

theorem passed_succ {s t : State} {n : Nat} (h : Passed s n t) : Passed s (n + 1) (passes45 t n) := by
  have hends := endsEpoch_nextEpoch n t
  have hpart := part_nextEpoch t n
  have herr : (t.nextEpoch n).dev.err = t.dev.err := rfl
  unfold passes45
  generalize t.nextEpoch n = u at *
  have hs := scrubs_scrub n (s := u) (by rw [hends.cores]; exact h.wf)
  have hsdev := far_scrub u n
  have hspart : ∀ j, (u.scrub n).part j = u.part j := fun j => (congrArg (fun x : State => x.part j) hs.rest :)
  have hsnow : (u.scrub n).now = u.now := (congrArg State.now hs.rest :)
  generalize u.scrub n = v at *
  have hless := resetTranslation_spec v n
  have hvpart : ∀ j, (v.resetTranslation n).part j = if n = j then unmap (v.part n) else v.part j := fun j =>
    (congrArg (fun x : State => x.part j) hless :).trans (part_modPart v n j unmap)
  have hvcores : (v.resetTranslation n).cores = v.cores := (congrArg State.cores hless :)
  have hvlines : (v.resetTranslation n).lines = v.lines := (congrArg State.lines hless :)
  have hvdev : (v.resetTranslation n).dev = v.dev := (congrArg State.dev hless :)
  have hvnow : (v.resetTranslation n).now = v.now := (congrArg State.now hless :)
  generalize v.resetTranslation n = w at *
  have hwcore : ∀ k, w.core k = v.core k := fun k => by unfold State.core; rw [hvcores]
  have hucore : ∀ k, u.core k = t.core k := fun k => by unfold State.core; rw [hends.cores]
  have hmode : u.dev.mode = s.dev.mode := hends.mode.trans h.mode
  have hhas : ∀ k, u.hasCore n k = (s.partOf k == n) := fun k => hasCore_congr hmode n k
  refine ⟨fun k => ?_, fun l => ?_, fun p => ?_, by rw [hvcores]; exact hs.wf, by rw [hvdev, hsdev, hmode],
    by rw [hvdev, hsdev, herr, h.err], by rw [hvnow, hsnow, hends.now, h.now]⟩
  · have hk := h.core k
    rw [hwcore]
    by_cases hn : s.partOf k = n
    · rw [if_neg (by omega)] at hk
      rw [if_pos (by omega), ← hk, ← hucore]
      exact hs.mine k (by rw [hhas, hn]; exact beq_self_eq_true n)
    · rw [hs.others k (by rw [hhas]; exact beq_eq_false_iff_ne.2 hn), hucore]
      by_cases hlt : s.partOf k < n
      · rw [if_pos hlt] at hk
        rw [if_pos (by omega)]
        exact hk
      · rw [if_neg hlt] at hk
        rw [if_neg (by omega)]
        exact hk
  · have hl : w.line l = v.line l := by unfold State.line; rw [hvlines]
    have hul : u.line l = t.line l := by unfold State.line; rw [hends.lines]
    rw [hl, hs.line l, hul, h.line l]
    unfold State.hasCol
    rw [hmode]
    by_cases hn : partOfQuad s.dev.mode (lineColumn l / 16) = n
    · rw [if_pos (beq_iff_eq.2 hn), if_pos (by omega)]
    · rw [if_neg (fun he => hn (beq_iff_eq.1 he))]
      exact if_congr (by omega) rfl rfl
  · have hp := h.part p
    unfold Unmapped
    rw [hvpart p, hspart n, hspart p, hpart n, hpart p, if_pos rfl]
    by_cases hn : n = p
    · subst hn
      rw [if_neg (Nat.lt_irrefl n)] at hp
      rw [if_pos rfl, if_pos (Nat.lt_succ_self n), hp]
      exact ⟨⟨rfl, rfl, rfl, rfl⟩, rfl⟩
    · rw [if_neg hn, if_neg hn]
      by_cases hlt : p < n
      · rw [if_pos hlt] at hp
        rw [if_pos (by omega)]
        exact hp
      · rw [if_neg hlt] at hp
        rw [if_neg (by omega)]
        exact hp

theorem passed_all {s : State} (h : swf .reset s.cores = true) (n : Nat) : Passed s n ((List.range n).foldl passes45 s) := by
  induction n with
  | zero => exact passed_zero h
  | succ n ih =>
    rw [List.range_succ, List.foldl_concat]
    exact passed_succ ih

/-- Some queue of the device is enabled. -/
def queuesOn (s : State) : Bool := (List.range 4).any (fun p => (s.part p).queues.any (fun q => q.2.en))

theorem queuesOn_iff (s : State) : queuesOn s = false ↔ ∀ p, p < 4 → ∀ q ∈ (s.part p).queues, q.2.en = false := by
  unfold queuesOn
  simp only [List.any_eq_false, List.mem_range, Bool.not_eq_true]

/-- The device's registers with ERR as a write of PARTCFG leaves it. -/
def errKept (s : State) (v : DWord) : State := { s with dev := { s.dev with err := s.dev.err && !v.getLsbD 3 } }

/-- A change of MODE. -/
def modeChanged (s : State) (v : DWord) : State :=
  let u := ((List.range 4).foldl passes45 (errKept s v)).modDev (fun d => { d with mode := v.setWidth 2, busy := true })
  let (d, u) := u.draw 1
  u.post (u.now + d) .partcfgChangeComplete

theorem writePartcfg_eq (s : State) (v : DWord) : s.writePartcfg v =
    if v.setWidth 2 = s.dev.mode then errKept s v
    else if v.setWidth 2 = (3 : BitVec 2) ∨ queuesOn s ∨ s.dev.busy then { s with dev := { s.dev with err := true } }
    else modeChanged s v := rfl

theorem exec_partcfg (s : State) (v : DWord) (he : s.event = some (.partcfgWrite v)) :
    exec .partcfgWrite s = .next (s.hostWrite (fun s => s.writePartcfg v)) := by
  rw [← event_eta he]; rfl

theorem modeChanged_spec {s : State} (v : DWord) (hwf : swf .reset s.cores = true) : let t := modeChanged s v
    t.dev.mode = v.setWidth 2 ∧ t.dev.busy = true ∧ t.dev.err = (s.dev.err && !v.getLsbD 3)
      ∧ (∀ p, p < 4 → Scrubbed s p t ∧ Unmapped p t ∧ (t.part p).epoch = (s.part p).epoch + 1)
      ∧ ∃ u, s.now < u ∧ ⟨u, .partcfgChangeComplete⟩ ∈ t.agenda := by
  have h := passed_all (s := errKept s v) hwf 4
  unfold modeChanged
  generalize (List.range 4).foldl passes45 (errKept s v) = w at *
  refine ⟨rfl, rfl, h.err, fun p hp => ⟨⟨fun k hk => ?_, fun l hl => ?_⟩, ?_⟩, w.now + (1 + Config.freeLatency w.fresh), ?_,
    (mem_agendaInsert _ _ _).2 (.inl rfl)⟩
  · have hk' : (errKept s v).partOf k < 4 := by rw [show (errKept s v).partOf k = p from beq_iff_eq.1 hk]; exact hp
    have hc := h.core k
    rw [if_pos hk'] at hc
    exact hc
  · have hl' : partOfQuad (errKept s v).dev.mode (lineColumn l / 16) < 4 := by
      rw [show partOfQuad (errKept s v).dev.mode (lineColumn l / 16) = p from beq_iff_eq.1 hl]; exact hp
    exact (h.line l).trans (if_pos hl')
  · have hpart := h.part p
    rw [if_pos hp] at hpart
    exact hpart
  · have : w.now = s.now := h.now
    omega

theorem partcfg_rule (s : State) (v : DWord) (hb : s.dev.booted = true) :
    let m : BitVec 2 := v.setWidth 2
    let err := s.dev.err && !v.getLsbD 3
    let idle := ∀ p, p < 4 → ∀ q ∈ (s.part p).queues, q.2.en = false
    (m = s.dev.mode → Happens s (.partcfgWrite v) .partcfgWrite (fun t => t = { s with dev := { s.dev with err := err } }))
    ∧ (m ≠ s.dev.mode → m = 3 ∨ ¬ idle ∨ s.dev.busy = true →
        Happens s (.partcfgWrite v) .partcfgWrite (fun t => t = { s with dev := { s.dev with err := true } }))
    ∧ (m ≠ s.dev.mode → m ≠ 3 → idle → s.dev.busy = false → swf .reset s.cores = true → Happens s (.partcfgWrite v) .partcfgWrite (fun t =>
        t.dev.mode = m ∧ t.dev.busy = true ∧ t.dev.err = err
        ∧ (∀ p, p < 4 → Scrubbed s p t ∧ Unmapped p t ∧ (t.part p).epoch = (s.part p).epoch + 1)
        ∧ ∃ u, s.now < u ∧ ⟨u, .partcfgChangeComplete⟩ ∈ t.agenda)) := by
  intro m err idle
  have heq : s.event = some (.partcfgWrite v) → exec .partcfgWrite s = .next (s.writePartcfg v) := fun he => by
    rw [exec_partcfg s v he, hostWrite_on hb]
  refine ⟨fun h he => ⟨_, heq he, (writePartcfg_eq s v).trans (if_pos h)⟩, fun h hor he => ⟨_, heq he, ?_⟩, fun h h3 hidle hbusy hwf he => ⟨_, heq he, ?_⟩⟩
  · rw [writePartcfg_eq, if_neg h, if_pos]
    refine hor.imp id (Or.imp_left fun hidle => ?_)
    by_contra hq
    exact hidle ((queuesOn_iff s).1 (Bool.not_eq_true _ ▸ hq))
  · rw [writePartcfg_eq, if_neg h, if_neg]
    · exact modeChanged_spec v hwf
    · rw [(queuesOn_iff s).2 hidle, hbusy]
      simpa using h3

theorem vfbind_rule (s : State) {vf : Nat} (v : DWord) (hb : s.dev.booted = true) (hvf : vf < 16) :
    let f := sget .reset s.dev.funcs vf
    (f.en = true → (s.part f.part.toNat).flrStep ≠ 0 → Happens s (.vfbindWrite vf v) .vfbindWrite (fun t => t = s))
    ∧ (f.en = false ∨ (s.part f.part.toNat).flrStep = 0 →
      (f.bme = true → Happens s (.vfbindWrite vf v) .vfbindWrite (fun t => t = { s with dev := { s.dev with err := true } }))
      ∧ (f.bme = false → Happens s (.vfbindWrite vf v) .vfbindWrite (fun t =>
        (∀ j, sget .reset t.dev.funcs j = if j = vf then { f with part := v.setWidth 2, en := v.getLsbD 2 } else sget .reset s.dev.funcs j)
        ∧ { t with dev := { t.dev with funcs := [] } } = { s with dev := { s.dev with funcs := [] } }))) := by
  intro f
  have heq : s.event = some (.vfbindWrite vf v) → exec .vfbindWrite s = .next (
      if f.en ∧ (s.part f.part.toNat).flrStep ≠ 0 then s
      else if f.bme then { s with dev := { s.dev with err := true } }
      else setFunc s vf (fun f => { f with part := v.setWidth 2, en := v.getLsbD 2 })) := by
    intro he
    have : exec .vfbindWrite s = .next (s.hostWrite (fun s => s.writeVfbind (vf % 16) v)) := by rw [← event_eta he]; rfl
    rw [this, hostWrite_on hb, Nat.mod_eq_of_lt hvf]
    rfl
  refine ⟨fun hen hstep he => ⟨_, heq he, if_pos ⟨hen, hstep⟩⟩, fun hor => ?_⟩
  have hnot : ¬ (f.en = true ∧ (s.part f.part.toNat).flrStep ≠ 0) := fun ⟨hen, hstep⟩ =>
    hor.elim (fun h => by rw [h] at hen; exact Bool.false_ne_true hen) hstep
  refine ⟨fun hbme he => ⟨_, heq he, (if_neg hnot).trans (if_pos hbme)⟩, fun hbme he => ⟨_, heq he, ?_⟩⟩
  rw [if_neg hnot, if_neg (by rw [hbme]; exact Bool.false_ne_true)]
  exact ⟨func_setFunc s vf _, setFunc_rest s vf _⟩

/-! ### Soft errors -/

section
variable {s : State} {target : SoftTarget} {bits : Word}

theorem soft_none (h : flipped bits = 0) : Happens s (.softError target bits) .softError (fun t => t = s) := by
  intro he
  have heq : exec .softError s = execSoftError s := rfl
  rw [heq]
  unfold execSoftError
  rw [he]
  exact ⟨_, rfl, if_pos h⟩

/-- The effect of a flip, given what the model makes of its target. -/
theorem soft_some {u : State} (h : 0 < flipped bits) (hu : s.event = some (.softError target bits) → exec .softError s
      = .next (if flipped bits = 0 then s else u)) {p : State → Prop} (hp : p u) : Happens s (.softError target bits) .softError p :=
  fun he => ⟨_, hu he, by rw [if_neg (Nat.pos_iff_ne_zero.1 h)]; exact hp⟩

end

/-- A near word with `n` more flips. -/
def poisoned (n : Nat) (old : BitVec 2) : BitVec 2 := if old = 0 ∧ n = 1 then 2 else if old = 3 then 3 else 1

theorem soft_near (s : State) (bits : Word) (k a : Nat) (h : 0 < flipped bits) :
    Happens s (.softError (.near k a) bits) .softError (fun t => t.cols = s.cols ∧ (∀ j b, nearByte t j b = nearByte s j b)
      ∧ ∀ j w, sget 0 (t.core j).poison w = if j = k ∧ w = a / 4 then poisoned (flipped bits) (sget 0 (s.core j).poison w)
        else sget 0 (s.core j).poison w) := by
  let f (c : Core) : Core := { c with poison := sset 0 c.poison (a / 4) (poisoned (flipped bits) (sget 0 c.poison (a / 4))) }
  refine soft_some (u := s.modCore k f) h (fun he => by rw [← event_eta he]; rfl) ⟨rfl, fun j b => ?_, fun j w => ?_⟩
  · unfold nearByte
    rw [core_modCore]
    split_ifs with hj
    · subst hj; rfl
    · rfl
  · rw [core_modCore]
    by_cases hj : k = j
    · subst hj
      rw [if_pos rfl]
      dsimp only [f]
      rw [sget_sset]
      by_cases hw : a / 4 = w
      · subst hw; simp
      · rw [if_neg hw, if_neg (fun hc => hw hc.2.symm)]
    · rw [if_neg hj, if_neg (fun hc => hj hc.1.symm)]

theorem soft_store (s : State) (bits : Word) (k i : Nat) (h : 0 < flipped bits) :
    Happens s (.softError (.store k i) bits) .softError (fun t => t.cols = s.cols
      ∧ ∀ j w, sget (0, false) (t.core j).store w = let old := sget (0, false) (s.core j).store w
        if j = k ∧ w = i then (old.1 ^^^ bits, old.2) else old) := by
  let f (c : Core) : Core :=
    { c with store := sset (0, false) c.store i ((sget (0, false) c.store i).1 ^^^ bits, (sget (0, false) c.store i).2) }
  refine soft_some (u := s.modCore k f) h (fun he => by rw [← event_eta he]; rfl) ⟨rfl, fun j w => ?_⟩
  rw [core_modCore]
  by_cases hj : k = j
  · subst hj
    rw [if_pos rfl]
    dsimp only [f]
    rw [sget_sset]
    by_cases hw : i = w
    · subst hw; simp
    · rw [if_neg hw, if_neg (fun hc => hw hc.2.symm)]
  · rw [if_neg hj, if_neg (fun hc => hj hc.1.symm)]

theorem soft_far (s : State) (bits : Word) (pa : Nat) (h : 0 < flipped bits) :
    Happens s (.softError (.far pa) bits) .softError (fun t => t.cores = s.cores ∧ (∀ b, farByte t b = farByte s b)
      ∧ ∀ w, sget false t.dev.farBad w = if 1 < flipped bits ∧ w = pa / 4 then true else sget false s.dev.farBad w) := by
  refine soft_some (u := if flipped bits = 1 then s else s.modDev (fun d => { d with farBad := sset false d.farBad (pa / 4) true })) h
    (fun he => by rw [← event_eta he]; rfl) ?_
  by_cases h1 : flipped bits = 1
  · rw [if_pos h1]
    exact ⟨rfl, fun _ => rfl, fun w => (if_neg (fun hc => by omega)).symm⟩
  · rw [if_neg h1]
    refine ⟨rfl, fun _ => rfl, fun w => (sget_sset false s.dev.farBad (pa / 4) w true).trans ?_⟩
    exact if_congr ⟨fun e => ⟨by omega, e.symm⟩, fun hc => hc.2.symm⟩ rfl rfl

theorem soft_buffer (s : State) (bits : Word) (k l : Nat) (h : 0 < flipped bits) :
    Happens s (.softError (.buffer k l) bits) .softError (fun t => t = if flipped bits = 1 then
        s.modCol (columnOf k) (fun c => { c with corrected := c.corrected + 1 })
      else s.modSlice k (fun x => { x with wpois := if x.wpois.contains l then x.wpois else x.wpois ++ [l] })) :=
  soft_some h (fun he => by rw [← event_eta he]; rfl) rfl

theorem soft_adder (s : State) (bits : Word) (k row col : Nat) (h : 0 < flipped bits) :
    Happens s (.softError (.adder k row col) bits) .softError (fun t => t = s.modSlice k (fun x => x.modHead (fun o =>
      { o with slips := o.slips ++ [⟨row, col, o.cols.length - 1, bits.toNat⟩] }))) :=
  soft_some h (fun he => by rw [← event_eta he]; rfl) rfl

/-- A write that a device in recovery ignores. -/
theorem happens_off {s : State} (hb : s.dev.booted = false) {i : Instr} {ev : Event} (f : State → State)
    (h : s.event = some ev → exec i s = .next (s.hostWrite f)) : Happens s ev i (fun t => t = s) :=
  fun he => ⟨s, by rw [h he, hostWrite_off hb], rfl⟩

theorem softErrors_rule (s : State) (target : SoftTarget) (bits : Word) :
    let n := ((List.range 32).filter (fun i => bits.getLsbD i)).length
    let ev : Event := .softError target bits
    let counted (k : Nat) (t : State) : Prop := t.cores = s.cores
      ∧ ∀ j, t.col j = if j = columnOf k then { s.col j with corrected := (s.col j).corrected + 1 } else s.col j
    (n = 0 → Happens s ev .softError (fun t => t = s))
    ∧ (∀ k a, target = .buffer k a → n = 1 → Happens s ev .softError (counted k))
    ∧ (∀ k a, target = .near k a → 0 < n → Happens s ev .softError (fun t => t.cols = s.cols ∧ (∀ j b, nearByte t j b = nearByte s j b)
        ∧ ∀ j w, sget 0 (t.core j).poison w = let old := sget 0 (s.core j).poison w
          if j = k ∧ w = a / 4 then (if old = 0 ∧ n = 1 then 2 else if old = 3 then 3 else 1) else old))
    ∧ (∀ k i, target = .store k i → 0 < n → Happens s ev .softError (fun t => t.cols = s.cols
        ∧ ∀ j w, sget (0, false) (t.core j).store w = let old := sget (0, false) (s.core j).store w
          if j = k ∧ w = i then (old.1 ^^^ bits, old.2) else old))
    ∧ (∀ pa, target = .far pa → 0 < n → Happens s ev .softError (fun t => t.cores = s.cores ∧ (∀ b, farByte t b = farByte s b)
        ∧ ∀ w, sget false t.dev.farBad w = if 1 < n ∧ w = pa / 4 then true else sget false s.dev.farBad w))
    ∧ (∀ k l, target = .buffer k l → 1 < n → Happens s ev .softError (fun t => (∀ j, j ≠ k → t.core j = s.core j)
        ∧ ∀ y, y ∈ (t.core k).slice.wpois ↔ y = l ∨ y ∈ (s.core k).slice.wpois))
    ∧ (∀ k row col o r, target = .adder k row col → 0 < n → (s.core k).slice.queue = o :: r →
        Happens s ev .softError (fun t => (t.core k).slice.queue = { o with slips := o.slips ++ [⟨row, col, o.cols.length - 1, bits.toNat⟩] } :: r
          ∧ (∀ j, j ≠ k → t.core j = s.core j) ∧ ∀ b, nearByte t k b = nearByte s k b)) := by
  intro n ev counted
  have hn : flipped bits = n := rfl
  refine ⟨fun h => soft_none h, ?_, ?_, ?_, ?_, ?_, ?_⟩
  · rintro k a rfl h he
    obtain ⟨t, ht, rfl⟩ := soft_buffer s bits k a (by rw [hn, h]; exact Nat.one_pos) he
    refine ⟨_, ht, ?_⟩
    rw [if_pos (hn.trans h)]
    refine ⟨rfl, fun j => ?_⟩
    rw [col_modCol]
    by_cases hj : columnOf k = j
    · subst hj; rw [if_pos rfl]
    · rw [if_neg hj, if_neg (fun e => hj e.symm)]
  · rintro k a rfl h
    exact soft_near s bits k a h
  · rintro k i rfl h
    exact soft_store s bits k i h
  · rintro pa rfl h
    exact soft_far s bits pa h
  · rintro k l rfl h he
    obtain ⟨t, ht, rfl⟩ := soft_buffer s bits k l (by rw [hn]; omega) he
    refine ⟨_, ht, ?_⟩
    rw [if_neg (by rw [hn]; omega)]
    refine ⟨fun j hj => core_modCore_other _ _ (Ne.symm hj), fun y => ?_⟩
    unfold State.modSlice
    rw [core_modCore_same]
    dsimp only
    by_cases hl : (s.core k).slice.wpois.contains l
    · rw [if_pos hl]
      exact ⟨.inr, fun hy => hy.elim (fun e => e ▸ List.contains_iff_mem.1 hl) id⟩
    · rw [if_neg hl, List.mem_append, List.mem_singleton]
      exact or_comm
  · rintro k row col o r rfl h hq he
    obtain ⟨t, ht, rfl⟩ := soft_adder s bits k row col h he
    refine ⟨_, ht, ?_, fun j hj => core_modCore_other _ _ (Ne.symm hj), fun b => ?_⟩
    · unfold State.modSlice
      rw [core_modCore_same]
      dsimp only
      unfold Slice.modHead
      rw [hq]
    · unfold nearByte State.modSlice
      rw [core_modCore_same]

/-- Settles O54: the scrub rebuilds each core of the partition from its reset value and leaves the others; a change of MODE takes
every partition through it in turn. -/
theorem resetAndPartitionSteps : Obligations.ResetAndPartitionSteps := by
  intro s fw vf part v
  refine ⟨powerOn_rule s fw, fun hen he => ?_, fun hen hpart => ⟨fun hstep he => ?_, fun hstep he => ?_⟩, drain_first s part, drain_second s part,
    initiateFlr_all s, fun h hwf _ hagenda => drain_third s part h hwf hagenda, fun at_ k c n va d u h ha hk hw => drain_store s u part at_ k c n va d h ha hk hw,
    fun at_ r u h ha hk hx => drain_atomic s u part at_ r h ha hk hx, flrComplete_fourth s part, flrComplete_last s part, fun hb => ⟨?_, ?_⟩,
    partcfg_rule s v, fun he => ?_, vfbind_rule s v, softErrors_rule s⟩
  · obtain ⟨t, ht, rfl⟩ := initiateFlr_unbound s hen he
    exact ⟨_, ht, func_setFunc s vf _, setFunc_rest s vf _⟩
  · obtain ⟨t, ht, rfl⟩ := initiateFlr_bound s hen hpart he
    refine ⟨_, ht, ?_⟩
    have hj : (setFunc s vf (fun f => { f with joined := some f.part })).startReset part = _ := startReset_joined hstep
    rw [hj]
    exact ⟨func_setFunc s vf _, setFunc_rest s vf _⟩
  · obtain ⟨t, ht, rfl⟩ := initiateFlr_bound s hen hpart he
    obtain ⟨hdev, hfirst, hqueues, hcores, hon⟩ := startReset_spec (s := setFunc s vf (fun f => { f with joined := some f.part })) hstep
    refine ⟨_, ht, fun j => ?_, hfirst, hqueues, hcores, hon⟩
    rw [hdev]
    exact func_setFunc s vf _ j
  · exact happens_off hb (fun s => s.writePartcfg v) (exec_partcfg s v)
  · exact happens_off hb (fun s => s.writeVfbind (vf % 16) v) (fun he => by rw [← event_eta he]; rfl)
  · exact ⟨_, by rw [← event_eta he]; rfl, rfl⟩

end Sys2Proof.Proofs
end

section
/-! PROOFS. The management window (R183, R185, R194, R238, R257, R275, R285, R287, R299, R300, R308): what a write of each register
changes, the report in memory, and the registers of the beat, of heat and of power in every state. -/

namespace Sys2Proof.Proofs

open Sys2Proof.Machine Sys2Proof.Safety Sys2Proof.Laws

/-! ### One partition's registers changed -/

/-- Partition `part` is `f`; every other one, the cores, the device and far memory are as they were. -/
def OnPart (s : State) (part : Nat) (f : Part) (t : State) : Prop :=
  (∀ j, t.part j = if j = part then f else s.part j) ∧ t.cores = s.cores ∧ t.dev = s.dev ∧ ∀ b, farByte t b = farByte s b

theorem onPart_modPart (s : State) (part : Nat) (f : Part → Part) : OnPart s part (f (s.part part)) (s.modPart part f) :=
  ⟨fun j => (part_modPart s part j f).trans (if_congr eq_comm rfl rfl), rfl, rfl, fun _ => rfl⟩

/-- Another state with the same partitions, cores and device. -/
theorem OnPart.congr {s t u : State} {part : Nat} {f : Part} (h : OnPart s part f t) (hparts : u.parts = t.parts)
    (hcores : u.cores = t.cores) (hdev : u.dev = t.dev) : OnPart s part f u := by
  obtain ⟨hp, hc, hd, hf⟩ := h
  refine ⟨fun j => ?_, hcores.trans hc, hdev.trans hd, fun b => ?_⟩
  · rw [← hp j]; unfold State.part; rw [hparts]
  · rw [← hf b]; unfold farByte; rw [hdev]

/-- The partition takes writes. -/
def Opens (s : State) (part : Nat) : Prop := s.dev.booted = true ∧ (s.part part).flrStep = 0

theorem partWrite_opens {s : State} {part : Nat} (h : Opens s part) (f : State → State) : s.partWrite part f = f s := partWrite_on (f := f) h.1 h.2

theorem partWrite_off {s : State} {part : Nat} (h : ¬ Opens s part) (f : State → State) : s.partWrite part f = s := by
  unfold State.partWrite
  by_cases hb : s.dev.booted = true
  · rw [hostWrite_on hb, if_pos (fun hz => h ⟨hb, hz⟩)]
  · exact if_neg hb

theorem happens_closed {s : State} {part : Nat} (h : ¬ Opens s part) {i : Instr} {ev : Event} (f : State → State)
    (hx : s.event = some ev → exec i s = .next (s.partWrite part f)) : Happens s ev i (fun t => t = s) :=
  fun he => ⟨s, by rw [hx he, partWrite_off h], rfl⟩

theorem happens_opens {s : State} {part : Nat} (h : Opens s part) {i : Instr} {ev : Event} (f : State → State)
    (hx : s.event = some ev → exec i s = .next (s.partWrite part f)) {p : State → Prop} (hp : p (f s)) : Happens s ev i p :=
  fun he => ⟨_, hx he, by rw [partWrite_opens h]; exact hp⟩

section
variable {s : State} {part i vf : Nat} {v : DWord}

theorem exec_qctl (he : s.event = some (.qctlWrite part i v)) :
    exec .qctlWrite s = .next (s.partWrite part (fun s => s.writeQctl part (i % 64) v)) := by rw [← event_eta he]; rfl
theorem exec_qptr (he : s.event = some (.qptrWrite part i v)) :
    exec .qptrWrite s = .next (s.partWrite part (fun s => s.writeQptr part (i % 64) v)) := by rw [← event_eta he]; rfl
theorem exec_fqctl (he : s.event = some (.fqctlWrite part v)) :
    exec .fqctlWrite s = .next (s.partWrite part (fun s => s.writeFqctl part v)) := by rw [← event_eta he]; rfl
theorem exec_tinv (he : s.event = some (.tinv part)) : exec .tinv s = .next (s.partWrite part (fun s => s.writeTinv part)) := by
  rw [← event_eta he]; rfl
theorem exec_ibudget (he : s.event = some (.ibudgetWrite part v)) :
    exec .ibudgetWrite s = .next (s.partWrite part (fun s => s.writeIbudget part v)) := by rw [← event_eta he]; rfl
theorem exec_pfloor (he : s.event = some (.pfloorWrite part v)) :
    exec .pfloorWrite s = .next (s.partWrite part (fun s => s.writePfloor part v)) := by rw [← event_eta he]; rfl

end

/-! ### Queues (R238) -/

/-- Queue `i` of a partition is `u`, and its gaffer looks for a head. -/
def OnQueue (s : State) (part i : Nat) (u : Queue) (t : State) : Prop :=
  (∀ j, sget .reset (t.part part).queues j = if j = i then u else sget .reset (s.part part).queues j)
  ∧ OnPart s part { s.part part with queues := (t.part part).queues } t ∧ Posts s t s.now (.taskStart part)

theorem onQueue_set (s : State) (part i : Nat) (u : Queue) :
    OnQueue s part i u ((s.modPart part (fun p => { p with queues := sset .reset p.queues i u })).post s.now (.taskStart part)) := by
  have hpart : ((s.modPart part (fun p => { p with queues := sset .reset p.queues i u })).post s.now (.taskStart part)).part part
      = { s.part part with queues := sset .reset (s.part part).queues i u } :=
    (part_modPart s part part (fun p => { p with queues := sset .reset p.queues i u })).trans (if_pos rfl)
  refine ⟨fun j => ?_, ?_, rfl⟩
  · rw [hpart, sget_sset]
    exact if_congr eq_comm rfl rfl
  · rw [hpart]
    exact onPart_modPart s part (fun p => { p with queues := sset .reset p.queues i u })

theorem writeQctl_kept {s : State} {part i : Nat} {v : DWord} (hen : (sget .reset (s.part part).queues i).en = true) (hv : v.getLsbD 0 = true) :
    s.writeQctl part i v = s := if_pos ⟨hen, hv⟩

theorem log2n_bad (n : Nat) : (!decide (4 ≤ n ∧ n ≤ 16)) = decide (n < 4 ∨ 16 < n) := by
  rw [← decide_not]
  exact decide_eq_decide.2 (by omega)

theorem writeQctl_set {s : State} {part i : Nat} {v : DWord} (h : (sget .reset (s.part part).queues i).en = false ∨ v.getLsbD 0 = false) :
    let n := (v.extractLsb' 8 5).toNat
    OnQueue s part i { sget .reset (s.part part).queues i with
        en := v.getLsbD 0, prio := v.extractLsb' 1 3, log2n := v.extractLsb' 8 5, qstop := v.getLsbD 0 && decide (n < 4 ∨ 16 < n) }
      (s.writeQctl part i v) := by
  intro n
  unfold State.writeQctl Part.queue
  dsimp only
  rw [if_neg (fun hc => h.elim (fun e => by rw [e] at hc; exact Bool.false_ne_true hc.1) (fun e => by rw [e] at hc; exact Bool.false_ne_true hc.2)),
    nbits_extract v 8 5 12 rfl, nbits_extract v 1 3 3 rfl]
  simp only [BitVec.ofNat_toNat, BitVec.setWidth_eq, log2n_bad]
  exact onQueue_set s part i _

/-- A queue holds an entry. -/
def Holds (u : Queue) : Prop := u.tail.toNat % 2 ^ u.log2n.toNat ≠ u.head.toNat % 2 ^ u.log2n.toNat

def isEmpty (q : Queue) : Bool := q.tail.toNat % q.size == q.head.toNat % q.size

theorem isEmpty_eq (q : Queue) : isEmpty q = true ↔ ¬ Holds q := by
  unfold isEmpty Holds
  rw [beq_iff_eq, not_not]
  rfl

/-- A queue with TAIL and QBASE written. -/
def pointed (q : Queue) (v : DWord) : Queue := { q with tail := v.setWidth 16, qbase := v.extractLsb' 32 32 }

/-- The queue as QPTR leaves it: an entry that becomes the head begins to age. -/
def repointed (now : Nat) (q : Queue) (v : DWord) : Queue :=
  if isEmpty q && !isEmpty (pointed q v) then { pointed q v with headAt := now } else pointed q v

theorem writeQptr_eq (s : State) (part i : Nat) (v : DWord) : let q := sget .reset (s.part part).queues i
    s.writeQptr part i v
      = (s.modPart part (fun p => { p with queues := sset .reset p.queues i (repointed s.time q v) })).post s.now (.taskStart part) := by
  intro q
  unfold State.writeQptr Part.queue
  dsimp only
  rw [nbits_extract v 0 16 15 rfl, nbits_extract v 32 32 63 rfl, extract_low]
  simp only [BitVec.ofNat_toNat, BitVec.setWidth_eq]
  rfl

theorem writeQptr_set (s : State) (part i : Nat) (v : DWord) : let q := sget .reset (s.part part).queues i
    (Holds (pointed q v) → ¬ Holds q → OnQueue s part i { pointed q v with headAt := s.time } (s.writeQptr part i v))
    ∧ (¬ Holds (pointed q v) ∨ Holds q → OnQueue s part i (pointed q v) (s.writeQptr part i v)) := by
  intro q
  rw [writeQptr_eq]
  unfold repointed
  refine ⟨fun hnew hold => ?_, fun hor => ?_⟩
  · rw [if_pos]
    · exact onQueue_set s part i _
    · rw [Bool.and_eq_true, Bool.not_eq_true']
      exact ⟨(isEmpty_eq q).2 hold, Bool.eq_false_iff.2 (fun he => (isEmpty_eq _).1 he hnew)⟩
  · rw [if_neg]
    · exact onQueue_set s part i _
    · rw [Bool.and_eq_true, Bool.not_eq_true']
      rintro ⟨he, hne⟩
      rcases hor with h | h
      · rw [(isEmpty_eq _).2 h] at hne
        exact absurd hne (by decide)
      · exact (isEmpty_eq q).1 he h

/-! ### Rings, translation, budgets -/

/-- What a write of a control register posts leaves the rest alone. -/
def unposted (s : State) : State := { s with agenda := [], fresh := 0 }

theorem writeFqctl_spec (s : State) (part : Nat) (v : DWord) : let k := (v.extractLsb' 1 5).toNat
    OnPart s part { s.part part with fq := { (s.part part).fq with
      en := v.getLsbD 0 && decide (8 ≤ k ∧ k ≤ 20), log2n := v.extractLsb' 1 5, base := v.extractLsb' 12 45 } } (s.writeFqctl part v) := by
  intro k
  have hw : ∀ r : Ring, r.write v = { r with
      en := v.getLsbD 0 && decide (8 ≤ k ∧ k ≤ 20), log2n := v.extractLsb' 1 5, base := v.extractLsb' 12 45 } := by
    intro r
    unfold Ring.write
    rw [nbits_extract v 1 5 5 rfl, nbits_extract v 12 45 56 rfl]
    simp only [BitVec.ofNat_toNat, BitVec.setWidth_eq, k]
  have h := onPart_modPart s part (fun p => { p with fq := p.fq.write v })
  rw [hw] at h
  have hv : unposted (s.writeFqctl part v) = unposted (s.modPart part (fun p => { p with fq := p.fq.write v })) := by
    unfold State.writeFqctl
    dsimp only
    split_ifs
    · rfl
    · refine foldl_view unposted _ (fun s b => ?_) _ _
      split_ifs <;> rfl
  exact h.congr (congrArg State.parts hv :) (congrArg State.cores hv :) (congrArg State.dev hv :)

theorem writeTinv_running {s : State} {part : Nat} (h : (s.part part).tinv = true) : s.writeTinv part = s := if_pos h

theorem writeTinv_starts {s : State} {part : Nat} (h : (s.part part).tinv = false) : OnPart s part { s.part part with tinv := true } (s.writeTinv part)
    ∧ ∃ at_, s.now < at_ ∧ Posts s (s.writeTinv part) at_ (.tinvComplete part) := by
  have heq : s.writeTinv part = ({ s.modPart part (fun p => { p with tinv := true }) with fresh := s.fresh + 1 }).post
      (s.now + (1 + Config.freeLatency s.fresh)) (.tinvComplete part) := if_neg (by rw [h]; exact Bool.false_ne_true)
  rw [heq]
  exact ⟨onPart_modPart s part (fun p => { p with tinv := true }), _, by omega, rfl⟩

/-- A column without a partition's entries in its translation caches. -/
def uncached (part : Nat) (c : Column) : Column := { c with
  rangeC := c.rangeC.filter (fun x => x.part != part), pageC := c.pageC.filter (fun x => x.part != part) }

theorem uncached_uncached (part : Nat) (c : Column) : uncached part (uncached part c) = uncached part c := by
  unfold uncached
  simp only [List.filter_filter, Bool.and_self]

theorem dropCached_eq (part : Nat) (s : State) : dropCached part s = s.cols.foldl (fun s e => s.modCol e.1 (uncached part)) s := rfl

theorem col_uncache (part j : Nat) (l : List (Nat × Column)) (s : State) :
    (l.foldl (fun s e => s.modCol e.1 (uncached part)) s).col j = if ∃ e ∈ l, e.1 = j then uncached part (s.col j) else s.col j := by
  induction l generalizing s with
  | nil => rw [if_neg (by simp)]; rfl
  | cons e l ih =>
    rw [List.foldl_cons, ih, col_modCol]
    by_cases hj : e.1 = j
    · rw [if_pos hj, if_pos (⟨e, List.mem_cons_self, hj⟩ : ∃ d ∈ e :: l, d.1 = j), hj]
      split_ifs
      · exact uncached_uncached part _
      · rfl
    · rw [if_neg hj]
      refine if_congr ?_ rfl rfl
      constructor
      · rintro ⟨d, hd, h⟩
        exact ⟨d, List.mem_cons_of_mem _ hd, h⟩
      · rintro ⟨d, hd, h⟩
        exact ⟨d, (List.mem_cons.1 hd).resolve_left (fun e => hj (e ▸ h)), h⟩

theorem col_dropCached (part : Nat) (s : State) (j : Nat) : (dropCached part s).col j = uncached part (s.col j) := by
  rw [dropCached_eq, col_uncache]
  split_ifs with h
  · rfl
  · have hr : s.col j = .reset := by
      unfold State.col
      generalize s.cols = m at h
      induction m with
      | nil => rfl
      | cons e m ih =>
        rw [sget, if_neg (fun he => h ⟨e, List.mem_cons_self, he⟩)]
        exact ih (fun ⟨d, hd, hdj⟩ => h ⟨d, List.mem_cons_of_mem _ hd, hdj⟩)
    rw [hr]
    rfl

theorem tinvComplete_rule (s : State) (part : Nat) : Happens s (.tinvComplete part) .tinvComplete (fun t =>
    OnPart s part { s.part part with tinv := false } t
    ∧ ∀ c e, (e ∈ (t.col c).rangeC ↔ e ∈ (s.col c).rangeC ∧ e.part ≠ part) ∧ (e ∈ (t.col c).pageC ↔ e ∈ (s.col c).pageC ∧ e.part ≠ part)) := by
  intro he
  have heq : exec .tinvComplete s = .next (dropCached part (s.modPart part (fun p => { p with tinv := false }))) := by
    rw [← event_eta he]; rfl
  let u := s.modPart part (fun p => { p with tinv := false })
  have hless := dropCached_rest part u
  refine ⟨_, heq, (onPart_modPart s part (fun p => { p with tinv := false })).congr (congrArg State.parts hless :) (congrArg State.cores hless :)
    (congrArg State.dev hless :), fun c e => ?_⟩
  rw [col_dropCached, show u.col c = s.col c from rfl]
  unfold uncached
  simp only [List.mem_filter, bne_iff_ne]
  exact ⟨trivial, trivial⟩

theorem writeIbudget_spec (s : State) (part : Nat) (v : DWord) :
    let others := ((List.range 4).filter (fun p => decide (p ≠ part))).foldl (fun m p => m + (s.part p).ibudget.toNat) 0
    (12288 < others + (v.extractLsb' 0 14).toNat → s.writeIbudget part v = s)
    ∧ (others + (v.extractLsb' 0 14).toNat ≤ 12288 → OnPart s part { s.part part with
        ibudget := v.extractLsb' 0 14, budget := (s.part part).budget + (v.extractLsb' 0 14).toNat - (s.part part).ibudget.toNat } (s.writeIbudget part v)) := by
  intro others
  have hothers : (List.range 4).foldl (fun n p => if p = part then n else n + (s.part p).ibudget.toNat) 0 = others := by
    simp only [others, List.foldl_filter, decide_eq_true_eq, ite_not]
  have heq : s.writeIbudget part v = if 12288 < others + (v.extractLsb' 0 14).toNat then s else s.modPart part (fun p => { p with
      ibudget := v.extractLsb' 0 14, budget := p.budget + (v.extractLsb' 0 14).toNat - p.ibudget.toNat }) := by
    unfold State.writeIbudget
    dsimp only
    rw [hothers, nbits_extract v 0 14 13 rfl]
    simp only [BitVec.ofNat_toNat, BitVec.setWidth_eq]
  refine ⟨fun h => heq.trans (if_pos h), fun h => ?_⟩
  rw [heq, if_neg (Nat.not_lt.2 h)]
  exact onPart_modPart s part (fun p => { p with
    ibudget := v.extractLsb' 0 14, budget := p.budget + (v.extractLsb' 0 14).toNat - p.ibudget.toNat })

theorem budgetRefill_rule (s : State) :
    (s.time < s.dev.nextRefill → Happens s .budgetRefill .budgetRefill (fun t =>
      t = s.post (s.now + s.nsTicks (s.dev.nextRefill - s.time)) .budgetRefill))
    ∧ (s.dev.nextRefill ≤ s.time → Happens s .budgetRefill .budgetRefill (fun t => t.cores = s.cores
        ∧ (∀ j, t.part j = if j < 4 then { s.part j with budget := (s.part j).ibudget.toNat } else s.part j)
        ∧ t.dev = { s.dev with nextRefill := s.dev.nextRefill + 86400000000000 }
        ∧ Posts s t (s.now + s.nsTicks 86400000000000) .budgetRefill)) := by
  have heq : s.event = some .budgetRefill → exec .budgetRefill s = .next (
      if s.time < s.dev.nextRefill then s.post (s.now + s.nsTicks (s.dev.nextRefill - s.time)) .budgetRefill
      else
        let u := (setFloors s (fun p => { p with budget := p.ibudget.toNat })).modDev (fun d => { d with nextRefill := d.nextRefill + Config.refillNs })
        u.post (u.now + u.nsTicks Config.refillNs) .budgetRefill) := fun he => by rw [← event_eta he]; rfl
  refine ⟨fun h he => ⟨_, heq he, if_pos h⟩, fun h he => ⟨_, heq he, ?_⟩⟩
  rw [if_neg (Nat.not_lt.2 h)]
  have hrest := setFloors_rest s (fun p => { p with budget := p.ibudget.toNat })
  have hpart := setFloors_part s (fun p => { p with budget := p.ibudget.toNat })
  have hdev : (setFloors s (fun p => { p with budget := p.ibudget.toNat })).dev = s.dev := setFloors_power s _
  have hcores : (setFloors s (fun p => { p with budget := p.ibudget.toNat })).cores = s.cores := (congrArg State.cores hrest :)
  have hnow : (setFloors s (fun p => { p with budget := p.ibudget.toNat })).now = s.now := (congrArg State.now hrest :)
  have hagenda : (setFloors s (fun p => { p with budget := p.ibudget.toNat })).agenda = s.agenda := (congrArg State.agenda hrest :)
  generalize setFloors s (fun p => { p with budget := p.ibudget.toNat }) = w at *
  refine ⟨hcores, hpart, by rw [← hdev]; rfl, ?_⟩
  have hticks : (w.modDev (fun d => { d with nextRefill := d.nextRefill + Config.refillNs })).nsTicks Config.refillNs = s.nsTicks Config.refillNs :=
    nsTicks_congr (by rw [← hdev]; rfl) _
  unfold Posts
  rw [← hagenda, ← hnow]
  exact congrArg (fun x => agendaInsert ⟨w.now + x, .budgetRefill⟩ w.agenda) hticks

/-! ### Beat, heat and power in every state -/

/-- Cores, partitions and far memory stay. -/
def KeepsCores (s t : State) : Prop := t.cores = s.cores ∧ t.parts = s.parts ∧ ∀ b, farByte t b = farByte s b

/-- What a state leaves of another but for the beat aimed at. -/
theorem keepsCores_aimless {s t : State} {p : Power} (h : aimless t = aimless (repowered s s.fresh p)) :
    KeepsCores s t ∧ t.dev.power.cur = p.cur ∧ t.dev.power.req = p.req ∧ t.dev.power.ceil = p.ceil := by
  refine ⟨⟨(congrArg State.cores h :), (congrArg State.parts h :), fun b => ?_⟩, (congrArg (fun x : State => x.dev.power.cur) h :),
    (congrArg (fun x : State => x.dev.power.req) h :), (congrArg (fun x : State => x.dev.power.ceil) h :)⟩
  have hfar : t.dev.far = s.dev.far := (congrArg (fun x : State => x.dev.far) h :)
  unfold farByte
  rw [hfar]

theorem aimless_post (t : State) (u : Nat) (ev : Event) : aimless (t.post u ev) = aimless t := rfl

/-- The registers with BEATCTL written. -/
def reqWritten (p : Power) (v : DWord) : Power :=
  let r := (v.extractLsb' 0 7).toNat
  let valid : Bool := decide (10 ≤ r ∧ r ≤ 80)
  { p with req := if valid then r else p.req, err := !valid || (p.err && !v.getLsbD 24), step := (v.extractLsb' 32 4).toNat }

theorem writeBeatctl_eq (s : State) (v : DWord) : ∃ past,
    s.writeBeatctl v = (repowered s s.fresh { reqWritten s.dev.power v with past := past }).aimBeat := by
  refine ⟨pastAfter s (repowered s s.fresh (reqWritten s.dev.power v)), ?_⟩
  unfold State.writeBeatctl
  dsimp only
  rw [nbits_extract v 0 7 6 rfl, nbits_extract v 32 4 35 rfl, modBudget_eq]
  rfl

theorem hostWrite_cases {s : State} {f : State → State} (p : State → Prop) (hon : s.dev.booted = true → p (f s))
    (hoff : s.dev.booted = false → p s) : p (s.hostWrite f) := by
  cases hb : s.dev.booted
  · rw [hostWrite_off hb]; exact hoff hb
  · rw [hostWrite_on hb]; exact hon hb

theorem keepsCores_refl (s : State) : KeepsCores s s := ⟨rfl, rfl, fun _ => rfl⟩

theorem beatctlReq_always (s : State) (v : DWord) (he : s.event = some (.beatctlReqWrite v)) :
    let p := s.dev.power
    let r := (v.extractLsb' 0 7).toNat
    ∃ t, exec .beatctlReqWrite s = .next t ∧ KeepsCores s t ∧ t.dev.power.ceil = p.ceil ∧ t.dev.power.cur = p.cur
      ∧ t.dev.power.req = (if s.dev.booted = true ∧ 10 ≤ r ∧ r ≤ 80 then r else p.req) := by
  intro p r
  refine ⟨s.hostWrite (fun s => s.writeBeatctl v), by rw [← event_eta he]; rfl, ?_⟩
  refine hostWrite_cases (fun t => KeepsCores s t ∧ t.dev.power.ceil = p.ceil ∧ t.dev.power.cur = p.cur
    ∧ t.dev.power.req = if s.dev.booted = true ∧ 10 ≤ r ∧ r ≤ 80 then r else p.req) (fun hb => ?_) (fun hb => ⟨keepsCores_refl s, rfl, rfl, (if_neg (fun hc => by rw [hb] at hc; exact Bool.false_ne_true hc.1)).symm⟩)
  obtain ⟨past, heq⟩ := writeBeatctl_eq s v
  rw [heq]
  obtain ⟨hk, hcur, hreq, hceil⟩ := keepsCores_aimless (aimless_aimBeat (repowered s s.fresh { reqWritten s.dev.power v with past := past }))
  refine ⟨hk, hceil, hcur, hreq.trans ?_⟩
  unfold reqWritten
  dsimp only
  exact if_congr (by rw [decide_eq_true_eq, hb]; exact ⟨fun h => ⟨rfl, h⟩, fun h => h.2⟩) rfl rfl

theorem restore_always (s : State) (he : s.event = some .beatctlRestore) : let p := s.dev.power
    ∃ t, exec .beatctlRestore s = .next t ∧ KeepsCores s t ∧ t.dev.power.req = p.req
      ∧ t.dev.power.ceil = (if s.dev.booted = true ∧ p.hot = false ∧ p.above = false then 80 else p.ceil) := by
  intro p
  refine ⟨s.hostWrite State.restoreCeil, by rw [← event_eta he]; rfl, ?_⟩
  refine hostWrite_cases (fun t => KeepsCores s t ∧ t.dev.power.req = p.req
    ∧ t.dev.power.ceil = if s.dev.booted = true ∧ p.hot = false ∧ p.above = false then 80 else p.ceil)
    (fun hb => ?_) (fun hb => ⟨keepsCores_refl s, rfl, (if_neg (fun hc => by rw [hb] at hc; exact Bool.false_ne_true hc.1)).symm⟩)
  have heq : s.restoreCeil = if s.dev.power.hot || s.dev.power.above then s else (repowered s s.fresh { s.dev.power with ceil := 80 }).aimBeat := rfl
  rw [heq]
  by_cases h : p.hot = false ∧ p.above = false
  · obtain ⟨hk, -, hreq, hceil⟩ := keepsCores_aimless (aimless_aimBeat (repowered s s.fresh { s.dev.power with ceil := 80 }))
    rw [if_neg (by rw [show s.dev.power.hot = false from h.1, show s.dev.power.above = false from h.2]; exact Bool.false_ne_true), if_pos ⟨hb, h⟩]
    exact ⟨hk, hreq, hceil⟩
  · rw [if_pos, if_neg (fun hc => h hc.2)]
    · exact ⟨keepsCores_refl s, rfl, rfl⟩
    · by_contra hn
      rw [Bool.not_eq_true, Bool.or_eq_false_iff] at hn
      exact h hn

theorem beatChange_always (s : State) (he : s.event = some .beatChange) : let p := s.dev.power
    ∃ t, exec .beatChange s = .next t ∧ t.dev.power.cur = p.target ∧ t.dev.power.busy = false
      ∧ t.dev.power.req = p.req ∧ t.parts = s.parts ∧ t.now = s.now := by
  intro p
  refine ⟨_, exec_beatChange_eq s he, ?_⟩
  obtain ⟨past, hu, -⟩ := atNewCode_eq s
  obtain ⟨a, ht, -⟩ := carried_spec s.dev.power.cur (atNewCode s).dev.power.cur (atNewCode s)
  generalize carried s.dev.power.cur (atNewCode s).dev.power.cur (atNewCode s) = t at ht
  rw [hu] at ht
  exact ⟨(congrArg (fun x : State => x.dev.power.cur) ht.machine :), (congrArg (fun x : State => x.dev.power.busy) ht.machine :),
    (congrArg (fun x : State => x.dev.power.req) ht.machine :), (congrArg State.parts ht.machine :), (congrArg State.now ht.machine :)⟩

theorem sample_always (s : State) (raws : List (BitVec 8)) (he : s.event = some (.sensorSample raws)) : let p := s.dev.power
    ∃ t, exec (.sensorSample) s = .next t ∧ KeepsCores s t ∧ t.dev.power.cur = p.cur ∧ t.dev.power.ceil = p.ceil ∧ t.dev.power.tlim = p.tlim := by
  intro p
  refine ⟨_, exec_sensorSample_eq s raws he, ?_⟩
  rw [voted_eq]
  have h := looksAt_checkAll s (voteSensors s.fresh s.dev.power.sensors raws)
  generalize voteSensors s.fresh s.dev.power.sensors raws = m at *
  generalize checkAll (List.range 256) (sensed s m) = u at *
  obtain ⟨hcores, hparts, hfar, hp⟩ := tripped_rest (nextSample u)
  rw [nextSample_dev] at hp hfar
  have hn : (nextSample u).cores = u.cores ∧ (nextSample u).parts = u.parts := by
    rcases nextSample_cases u with e | e <;> rw [e] <;> exact ⟨rfl, rfl⟩
  have hufar : u.dev.far = s.dev.far := (congrArg (fun x : State => x.dev.far) h.warms.machine :)
  refine ⟨⟨(hcores.trans hn.1).trans h.cores, (hparts.trans hn.2).trans (congrArg State.parts h.warms.machine :), fun b => ?_⟩,
    (congrArg Power.cur hp :).trans (congrArg Power.cur h.warms.power :), (congrArg Power.ceil hp :).trans h.ceil,
    (congrArg Power.tlim hp :).trans (congrArg Power.tlim h.warms.power :)⟩
  unfold farByte
  rw [hfar, hufar]

theorem selfThrottle_always (s : State) (he : s.event = some .selfThrottleStep) : let p := s.dev.power
    ∃ t, exec .selfThrottleStep s = .next t ∧ KeepsCores s t ∧ t.dev.power.cur = p.cur
      ∧ t.dev.power.ceil = (if p.hot then max 10 (p.ceil - 4) else p.ceil) := by
  intro p
  refine ⟨_, selfThrottle_eq s he, ?_⟩
  obtain ⟨hk, hcur, -, hceil⟩ := keepsCores_aimless (aimless_aimBeat (repowered s s.fresh { p with ceil := max 10 (p.ceil - 4) }))
  cases hh : s.dev.power.hot
  · exact ⟨keepsCores_refl s, rfl, rfl⟩
  · rw [if_neg (by simp), if_pos (rfl : true = true)]
    split_ifs
    · exact ⟨hk, hcur, hceil⟩
    · exact ⟨hk, hcur, hceil⟩

theorem limited_ceil (s : State) (above : Bool) : KeepsCores s (limited s above) ∧ (limited s above).dev.power.cur = s.dev.power.cur
    ∧ (limited s above).dev.power.ceil = if above then max 10 (s.dev.power.ceil - 4) else s.dev.power.ceil := by
  obtain ⟨hk, hcur, -, hceil⟩ := keepsCores_aimless (aimless_aimBeat (repowered s s.fresh { s.dev.power with ceil := max 10 (s.dev.power.ceil - 4) }))
  obtain ⟨hk', hcur', -, hceil'⟩ := keepsCores_aimless (s := s)
    (aimless_aimBeat (repowered s (s.fresh + 1) { s.dev.power with ceil := max 10 (s.dev.power.ceil - 4) }))
  unfold limited
  cases above
  · exact ⟨keepsCores_refl s, rfl, rfl⟩
  · rw [if_neg (by simp), if_pos (rfl : true = true)]
    split_ifs
    · exact ⟨hk, hcur, hceil⟩
    · exact ⟨hk', hcur', hceil'⟩

theorem hardLimit_always (s : State) (watts : Nat) (excess : Bool) (he : s.event = some (.hardLimitStep watts excess)) : let p := s.dev.power
    ∃ t, exec .hardLimitStep s = .next t ∧ KeepsCores s t ∧ t.dev.power.cur = p.cur
      ∧ t.dev.power.ceil = (if p.hlim.toNat < watts ∨ excess = true then max 10 (p.ceil - 4) else p.ceil) := by
  intro p
  refine ⟨_, hardLimit_eq he rfl, ?_⟩
  obtain ⟨hk, hcur, hceil⟩ := limited_ceil (repowered s s.fresh { p with above := decide (s.dev.power.hlim.toNat < watts) || excess })
    (decide (s.dev.power.hlim.toNat < watts) || excess)
  refine ⟨hk, hcur, hceil.trans (if_congr ?_ rfl rfl)⟩
  rw [Bool.or_eq_true, decide_eq_true_eq]

theorem happens_exec_off {s : State} (hb : s.dev.booted = false) {i : Instr} (f : State → State)
    (h : exec i s = .next (s.hostWrite f)) : exec i s = .next s := by rw [h, hostWrite_off hb]

theorem tctl_always (s : State) (v : DWord) (he : s.event = some (.tctlWrite v)) : let p := s.dev.power
    ∃ t, exec .tctlWrite s = .next t ∧ KeepsCores s t ∧ t.dev.power.tmax = p.tmax
      ∧ t.dev.power.tlim = (if s.dev.booted = false then p.tlim else if p.tmax < v.setWidth 8 then p.tmax else v.setWidth 8) := by
  intro p
  cases hb : s.dev.booted
  · exact ⟨s, happens_exec_off hb (fun s => s.writeTctl v) (by rw [← event_eta he]; rfl), keepsCores_refl s, rfl, (if_pos rfl).symm⟩
  · obtain ⟨t, ht, rfl⟩ := tctl_rule s v hb he
    exact ⟨_, ht, ⟨rfl, rfl, fun _ => rfl⟩, rfl, (if_neg (by simp)).symm⟩

theorem hlim_always (s : State) (v : DWord) (he : s.event = some (.hlimWrite v)) : let p := s.dev.power
    ∃ t, exec .hlimWrite s = .next t ∧ KeepsCores s t
      ∧ t.dev.power.hlim = (if s.dev.booted = false then p.hlim else if p.strap < v.setWidth 12 then p.strap else v.setWidth 12) := by
  intro p
  cases hb : s.dev.booted
  · exact ⟨s, happens_exec_off hb (fun s => s.writeHlim v) (by rw [← event_eta he]; rfl), keepsCores_refl s, (if_pos rfl).symm⟩
  · obtain ⟨t, ht, rfl⟩ := hlim_rule s v hb he
    exact ⟨_, ht, ⟨rfl, rfl, fun _ => rfl⟩, (if_neg (by simp)).symm⟩

/-- Cores, MODE and far memory stay, and floors but where `f` says so. -/
def Rated (s t : State) : Prop := t.cores = s.cores ∧ t.dev.mode = s.dev.mode ∧ ∀ b, farByte t b = farByte s b

/-- New floors in force: the device, the cores and the floors asked for stay. -/
theorem setFloors_efff (u : State) (f : Part → BitVec 12) :
    (setFloors u (fun q => { q with efff := f q })).dev = u.dev ∧ (setFloors u (fun q => { q with efff := f q })).cores = u.cores
      ∧ ∀ j, ((setFloors u (fun q => { q with efff := f q })).part j).floor = (u.part j).floor := by
  refine ⟨setFloors_power u _, (congrArg State.cores (setFloors_rest u (fun q => { q with efff := f q })) :), fun j => ?_⟩
  rw [setFloors_part]
  split_ifs
  · rfl
  · rfl

/-- The registers of power with the cap written, and floors as they were asked for. -/
def Capped (s : State) (v : DWord) (t : State) : Prop :=
  Rated s t ∧ t.dev.power.cap = v.setWidth 12 ∧ t.dev.power.fscale = v.getLsbD 12 ∧ ∀ j, (t.part j).floor = (s.part j).floor

theorem capped_setFloors {s u : State} {v : DWord} (h : Capped s v u) (f : Part → BitVec 12) :
    Capped s v (setFloors u (fun q => { q with efff := f q })) := by
  obtain ⟨hdev, hcores, hfloor⟩ := setFloors_efff u f
  generalize setFloors u (fun q => { q with efff := f q }) = t at *
  obtain ⟨⟨hc, hm, hf⟩, hcap, hscale, hfl⟩ := h
  refine ⟨⟨hcores.trans hc, by rw [hdev]; exact hm, fun b => ?_⟩, by rw [hdev]; exact hcap, by rw [hdev]; exact hscale,
    fun j => (hfloor j).trans (hfl j)⟩
  rw [← hf b]
  unfold farByte
  rw [hdev]

theorem pcapBody_capped (v : DWord) (s : State) : Capped s v (pcapBody v s) := by
  have hbase (p : Power) (hc : p.cap = v.setWidth 12) (hs : p.fscale = v.getLsbD 12) : Capped s v (repowered s s.fresh p) :=
    ⟨⟨rfl, rfl, fun _ => rfl⟩, hc, hs, fun _ => rfl⟩
  unfold pcapBody
  dsimp only
  by_cases h1 : (v.extractLsb' 0 12).toNat < Config.idleFloor
  · rw [if_pos h1]
    exact hbase _ rfl rfl
  · rw [if_neg h1]
    by_cases h2 : (v.extractLsb' 0 12).toNat < s.floors ∧ (!v.getLsbD 12) = true
    · rw [if_pos h2]
      exact hbase _ rfl rfl
    · rw [if_neg h2]
      exact capped_setFloors (hbase _ rfl rfl) _

theorem pcap_always (s : State) (v : DWord) (he : s.event = some (.pcapWrite v)) : let p := s.dev.power
    ∃ t, exec .pcapWrite s = .next t ∧ Rated s t ∧ t.dev.power.cap = (if s.dev.booted = true then v.setWidth 12 else p.cap)
      ∧ t.dev.power.fscale = (if s.dev.booted = true then v.getLsbD 12 else p.fscale) ∧ ∀ j, (t.part j).floor = (s.part j).floor := by
  intro p
  refine ⟨s.hostWrite (fun s => s.writePcap v), by rw [← event_eta he]; rfl, ?_⟩
  refine hostWrite_cases (fun t => Rated s t ∧ t.dev.power.cap = (if s.dev.booted = true then v.setWidth 12 else p.cap)
      ∧ t.dev.power.fscale = (if s.dev.booted = true then v.getLsbD 12 else p.fscale) ∧ ∀ j, (t.part j).floor = (s.part j).floor)
    (fun hb => ?_) (fun hb => ?_)
  · rw [writePcap_eq, modBudget_eq, if_pos hb, if_pos hb]
    exact pcapBody_capped v s
  · rw [if_neg (by rw [hb]; exact Bool.false_ne_true), if_neg (by rw [hb]; exact Bool.false_ne_true)]
    exact ⟨⟨rfl, rfl, fun _ => rfl⟩, rfl, rfl, fun _ => rfl⟩

/-- At most the floor of partition `part` is written, with `v`. -/
def Floored (s : State) (part : Nat) (v : DWord) (t : State) : Prop := Rated s t ∧ t.dev.power.cap = s.dev.power.cap
  ∧ ∀ j, (t.part j).floor = (s.part j).floor ∨ (j = part ∧ (t.part j).floor = v.setWidth 12)

theorem floored_setFloors {s u : State} {part : Nat} {v : DWord} (h : Floored s part v u) (f : Part → BitVec 12) :
    Floored s part v (setFloors u (fun q => { q with efff := f q })) := by
  obtain ⟨hdev, hcores, hfloor⟩ := setFloors_efff u f
  generalize setFloors u (fun q => { q with efff := f q }) = t at *
  obtain ⟨⟨hc, hm, hf⟩, hcap, hfl⟩ := h
  refine ⟨⟨hcores.trans hc, by rw [hdev]; exact hm, fun b => ?_⟩, by rw [hdev]; exact hcap, fun j => by rw [hfloor]; exact hfl j⟩
  rw [← hf b]
  unfold farByte
  rw [hdev]

theorem floored_refl (s : State) (part : Nat) (v : DWord) : Floored s part v s := ⟨⟨rfl, rfl, fun _ => rfl⟩, rfl, fun _ => .inl rfl⟩

theorem floored_written (s : State) (part : Nat) (v : DWord) :
    Floored s part v ((s.modPart part (fun p => { p with floor := v.setWidth 12 })).modPower (fun p => { p with scaled := false })) := by
  refine ⟨⟨rfl, rfl, fun _ => rfl⟩, rfl, fun j => ?_⟩
  have hj : ((s.modPart part (fun p => { p with floor := v.setWidth 12 })).modPower (fun p => { p with scaled := false })).part j
      = if part = j then { s.part part with floor := v.setWidth 12 } else s.part j :=
    part_modPart s part j (fun p => { p with floor := v.setWidth 12 })
  rw [hj]
  by_cases h : part = j
  · rw [if_pos h]; exact .inr ⟨h.symm, rfl⟩
  · rw [if_neg h]; exact .inl rfl

theorem pfloorBody_floored (part : Nat) (v : DWord) (s : State) : Floored s part v (pfloorBody part v s) := by
  unfold pfloorBody
  by_cases h : s.dev.power.eff.toNat < s.floors - (s.part part).floor.toNat + (v.extractLsb' 0 12).toNat
  · rw [if_pos h]
    exact ⟨⟨rfl, rfl, fun _ => rfl⟩, rfl, fun _ => .inl rfl⟩
  · rw [if_neg h]
    exact floored_setFloors (floored_written s part v) (·.floor)

theorem pfloor_always (s : State) (part : Nat) (v : DWord) (he : s.event = some (.pfloorWrite part v)) : let p := s.dev.power
    ∃ t, exec .pfloorWrite s = .next t ∧ Rated s t ∧ t.dev.power.cap = p.cap
      ∧ ∀ j, (t.part j).floor = (s.part j).floor ∨ (j = part ∧ (t.part j).floor = v.setWidth 12) := by
  intro p
  refine ⟨_, exec_pfloor he, ?_⟩
  by_cases ho : Opens s part
  · rw [partWrite_opens ho, writePfloor_eq, modBudget_eq]
    exact pfloorBody_floored part v s
  · rw [partWrite_off ho]
    exact floored_refl s part v

/-! ### The report (R300) -/

theorem flatMap_range_split {α : Type} (f : Nat → List α) {k m : Nat} (h : k < m) :
    ∃ post, (List.range m).flatMap f = (List.range k).flatMap f ++ (f k ++ post) := by
  obtain ⟨r, rfl⟩ : ∃ r, m = k + (r + 1) := ⟨m - k - 1, by omega⟩
  refine ⟨(List.range r).flatMap (fun i => f (k + (i + 1))), ?_⟩
  rw [List.range_add, List.flatMap_append, List.range_succ_eq_map, List.map_cons, List.flatMap_cons, List.map_map, List.flatMap_map]
  rfl

theorem length_flatMap_leBytes (n k : Nat) (g : Nat → Nat) : ((List.range k).flatMap (fun i => leBytes n (g i))).length = n * k := by
  induction k with
  | zero => rfl
  | succ k ih => rw [List.range_succ, List.flatMap_append, List.length_append, ih, Nat.mul_succ]; simp

/-- A little-endian field among bytes written to far memory reads back. -/
theorem farField (m : Sparse Byte) (a n v : Nat) (pre post : List Byte) {bs : List Byte} {b : Nat}
    (hbs : bs = pre ++ (leBytes n v ++ post)) (hb : b = pre.length) :
    leNat ((List.range n).map (fun i => sget 0 (writeBytes m a bs) (a + b + i))) = v % 256 ^ n := by
  have h := readBytes_writeBytes_part m a pre (leBytes n v) post
  rw [length_leBytes, readBytes_eq_map] at h
  rw [hbs, hb, h, leNat_leBytes]

theorem toNat_mod_bytes {w : Nat} (x : BitVec w) (n : Nat) (h : w = 8 * n) : x.toNat % 256 ^ n = x.toNat := by
  refine Nat.mod_eq_of_lt (lt_of_lt_of_eq x.isLt ?_)
  rw [h, Nat.pow_mul]

/-- The nonces of a report. -/
def nonceBytes (p : Part) : List Byte := (List.range 4).flatMap (fun i => leBytes 8 (sget 0 p.attest.nonce i).toNat)
/-- The launch digests of a report. -/
def launchBytes (p : Part) : List Byte := (List.range 16).flatMap (fun i => leBytes 48 (p.launches.getD i 0).toNat)

theorem reportHead_eq (s : State) (part : Nat) : s.reportHead part
    = nonceBytes (s.part part) ++ (leBytes 48 s.dev.fw.toNat ++ (leBytes 4 Config.firmwareVersion.toNat ++ (leBytes 4 (part + s.dev.mode.toNat * 4)
      ++ (leBytes 8 Config.deviceSerial.toNat ++ (launchBytes (s.part part) ++ (leBytes 4 (s.part part).launches.length ++ leBytes 28 0)))))) := by
  unfold State.reportHead nonceBytes launchBytes
  simp only [List.append_assoc]

theorem length_nonceBytes (p : Part) : (nonceBytes p).length = 32 := length_flatMap_leBytes 8 4 _
theorem length_launchBytes (p : Part) : (launchBytes p).length = 768 := length_flatMap_leBytes 48 16 _

theorem length_reportHead (s : State) (part : Nat) : (s.reportHead part).length = 0x380 := by
  rw [reportHead_eq]
  simp only [List.length_append, length_leBytes, length_nonceBytes, length_launchBytes]

/-- What far memory holds at `at_` of the report of partition `part`. -/
def ReportAt (s : State) (part at_ : Nat) (far : Sparse Byte) : Prop :=
  (∀ k, k < 4 → leNat ((List.range 8).map (fun b => sget 0 far (at_ + 8 * k + b))) = (sget 0 (s.part part).attest.nonce k).toNat)
  ∧ leNat ((List.range 48).map (fun b => sget 0 far (at_ + 0x20 + b))) = s.dev.fw.toNat
  ∧ leNat ((List.range 4).map (fun b => sget 0 far (at_ + 0x54 + b))) = (part + s.dev.mode.toNat * 4) % 2 ^ 32
  ∧ (∀ k, k < 16 → leNat ((List.range 48).map (fun b => sget 0 far (at_ + 0x60 + 48 * k + b))) = ((s.part part).launches.getD k 0).toNat)

theorem reportAt_written (s : State) (part at_ : Nat) (m : Sparse Byte) (sig : List Byte) :
    ReportAt s part at_ (writeBytes m at_ (s.reportHead part ++ sig)) := by
  rw [reportHead_eq]
  have hn := length_nonceBytes (s.part part)
  refine ⟨fun k hk => ?_, ?_, ?_, fun k hk => ?_⟩
  · obtain ⟨post, hp⟩ := flatMap_range_split (fun i => leBytes 8 (sget 0 (s.part part).attest.nonce i).toNat) hk
    unfold nonceBytes
    rw [hp]
    simp only [List.append_assoc]
    exact (farField m at_ 8 _ _ _ rfl (length_flatMap_leBytes 8 k _).symm).trans (toNat_mod_bytes _ 8 rfl)
  · simp only [List.append_assoc]
    exact (farField m at_ 48 _ _ _ rfl hn.symm).trans (toNat_mod_bytes _ 48 rfl)
  · exact farField m at_ 4 _ (nonceBytes (s.part part) ++ (leBytes 48 s.dev.fw.toNat ++ leBytes 4 Config.firmwareVersion.toNat)) _
      (by simp only [List.append_assoc]; rfl) (by simp only [List.length_append, length_leBytes, hn])
  · obtain ⟨post, hp⟩ := flatMap_range_split (fun i => leBytes 48 ((s.part part).launches.getD i 0).toNat) hk
    unfold launchBytes
    rw [hp]
    rw [Nat.add_assoc at_]
    refine (farField m at_ 48 _ (nonceBytes (s.part part) ++ (leBytes 48 s.dev.fw.toNat ++ (leBytes 4 Config.firmwareVersion.toNat
      ++ (leBytes 4 (part + s.dev.mode.toNat * 4) ++ (leBytes 8 Config.deviceSerial.toNat
      ++ (List.range k).flatMap (fun i => leBytes 48 ((s.part part).launches.getD i 0).toNat)))))) _
      (by simp only [List.append_assoc]; rfl) ?_).trans (toNat_mod_bytes _ 48 rfl)
    simp only [List.length_append, length_leBytes, hn, length_flatMap_leBytes]
    omega

/-- The signatures' bytes of a report, free values. -/
def signature (n : Nat) : List Byte := (List.range 16608).map (fun i => Config.freeSignatureByte n i)

theorem length_signature (n : Nat) : (signature n).length = 16608 := by unfold signature; rw [List.length_map, List.length_range]

/-- A report of some bytes lies in host memory. -/
def attested (s : State) (part : Nat) (bs : List Byte) : State :=
  (({ s with fresh := s.fresh + 1 }).writePhys (Config.hostBase + (s.part part).attest.addr.toNat) bs).modPart part
    (fun p => { p with attest := { p.attest with busy := false, state := 2 } })

theorem attestComplete_eq {s : State} {part : Nat} (he : s.event = some (.attestComplete part)) :
    exec .attestComplete s = .next (attested s part (s.reportHead part ++ signature s.fresh)) := by
  rw [← event_eta he]; rfl

theorem attested_part (s : State) (part : Nat) (bs : List Byte) (j : Nat) : (attested s part bs).part j
    = if j = part then { s.part part with attest := { (s.part part).attest with busy := false, state := 2 } } else s.part j :=
  (part_modPart _ part j _).trans (if_congr eq_comm rfl rfl)

theorem attested_cores (s : State) (part : Nat) (bs : List Byte) : (attested s part bs).cores = s.cores := rfl

theorem attested_far (s : State) (part : Nat) (bs : List Byte) :
    (attested s part bs).dev.far = writeBytes s.dev.far (Config.hostBase + (s.part part).attest.addr.toNat) bs := rfl

theorem farByte_attested (s : State) (part : Nat) (bs : List Byte) (b : Nat)
    (h : b < Config.hostBase + (s.part part).attest.addr.toNat ∨ Config.hostBase + (s.part part).attest.addr.toNat + bs.length ≤ b) :
    farByte (attested s part bs) b = farByte s b := by
  unfold farByte
  rw [attested_far, sget_writeBytes, if_neg (by omega)]

theorem length_report (s : State) (part n : Nat) : (s.reportHead part ++ signature n).length = 0x380 + 16608 := by
  rw [List.length_append, length_reportHead, length_signature]

theorem attestComplete_rule (s : State) (part : Nat) : Happens s (.attestComplete part) .attestComplete (fun t =>
    (∀ j, t.part j = if j = part then { s.part part with attest := { (s.part part).attest with busy := false, state := 2 } } else s.part j)
    ∧ t.cores = s.cores
    ∧ ReportAt s part (Config.hostBase + (s.part part).attest.addr.toNat) t.dev.far
    ∧ ∀ b, b < Config.hostBase + (s.part part).attest.addr.toNat ∨ Config.hostBase + (s.part part).attest.addr.toNat + 0x380 + 16608 ≤ b →
      farByte t b = farByte s b) := by
  intro he
  refine ⟨_, attestComplete_eq he, ?_⟩
  have hlen := length_report s part s.fresh
  have hat := reportAt_written s part (Config.hostBase + (s.part part).attest.addr.toNat) s.dev.far (signature s.fresh)
  generalize s.reportHead part ++ signature s.fresh = bs at *
  refine ⟨attested_part s part bs, attested_cores s part bs, by rw [attested_far]; exact hat, fun b hb => farByte_attested s part bs b ?_⟩
  rw [hlen, ← Nat.add_assoc]
  exact hb

theorem attestRequest_eq {s : State} {part : Nat} (he : s.event = some (.attestRequest part)) :
    exec .attestRequest s = .next (if (s.part part).flrStep ≠ 0 then s else s.writeAttest part) := by
  rw [← event_eta he]; rfl

theorem writeAttest_starts {s : State} {part : Nat} (hb : (s.part part).attest.busy = false) (ha : (s.part part).attest.addr.toNat % 64 = 0) :
    s.writeAttest part = postWithin (s.modPart part (fun p => { p with attest := { (s.part part).attest with busy := true, state := 1 } })) 99000000
      (.attestComplete part) := by
  unfold State.writeAttest
  dsimp only
  rw [if_neg (by rw [hb]; exact Bool.false_ne_true), if_neg (by rw [ha]; exact fun h => h rfl)]
  rfl

theorem attestRequest_rule (s : State) (part : Nat) :
    let P := s.part part
    (P.flrStep ≠ 0 ∨ P.attest.busy = true → Happens s (.attestRequest part) .attestRequest (fun t => t = s))
    ∧ (P.flrStep = 0 → P.attest.busy = false →
      (P.attest.addr.toNat % 64 ≠ 0 → Happens s (.attestRequest part) .attestRequest (OnPart s part { P with attest := { P.attest with state := 3 } }))
      ∧ (P.attest.addr.toNat % 64 = 0 → Happens s (.attestRequest part) .attestRequest (fun t =>
          OnPart s part { P with attest := { P.attest with busy := true, state := 1 } } t
          ∧ ∃ at_, s.now < at_ ∧ (s.nsTicks 99000000 ≠ 0 → at_ ≤ s.now + s.nsTicks 99000000) ∧ Posts s t at_ (.attestComplete part)))) := by
  intro P
  refine ⟨fun h he => ⟨_, attestRequest_eq he, ?_⟩, fun hf hb => ⟨fun ha he => ⟨_, attestRequest_eq he, ?_⟩, fun ha he => ⟨_, attestRequest_eq he, ?_⟩⟩⟩
  · split_ifs with hz
    · rfl
    · exact if_pos (h.resolve_left hz)
  all_goals rw [if_neg (not_not.2 hf)]
  · have heq : s.writeAttest part = s.modPart part (fun p => { p with attest := { (s.part part).attest with state := 3 } }) := by
      unfold State.writeAttest
      dsimp only
      rw [if_neg (by rw [hb]; exact Bool.false_ne_true), if_pos ha]
    rw [heq]
    exact onPart_modPart s part (fun p => { p with attest := { (s.part part).attest with state := 3 } })
  · rw [writeAttest_starts hb ha]
    obtain ⟨d, heq, hpos, hle⟩ := postWithin_eq (s.modPart part (fun p => { p with attest := { (s.part part).attest with busy := true, state := 1 } }))
      99000000 (.attestComplete part)
    rw [heq]
    exact ⟨onPart_modPart s part (fun p => { p with attest := { (s.part part).attest with busy := true, state := 1 } }), _,
      Nat.lt_add_of_pos_right hpos, fun hz => Nat.add_le_add_left (hle hz) _, rfl⟩

/-! ### The window (R285, R287) -/

section
variable {s : State} {off : Nat} {v : DWord}

theorem ite_out {α : Type} {lo hi : Nat} {a b : α} (h : off < lo ∨ hi ≤ off) : (if decide (lo ≤ off ∧ off < hi) = true then a else b) = b :=
  if_neg (by rw [decide_eq_true_eq]; omega)

theorem ite_in {α : Type} {lo hi : Nat} {a b : α} (hlo : lo ≤ off) (hhi : off < hi) :
    (if decide (lo ≤ off ∧ off < hi) = true then a else b) = a := if_pos (decide_eq_true ⟨hlo, hhi⟩)

theorem ite_ne {α : Type} {c : Nat} {a b : α} (h : off ≠ c) : (if off = c then a else b) = b := if_neg h

theorem writeWindow_odd (h : off % 8 ≠ 0) : s.writeWindow off v = s := by
  unfold State.writeWindow
  exact if_pos h

theorem writeWindow_region (h : off % 8 = 0) (hlo : 0x1000000 ≤ off) (hhi : off < 0x5000000) : s.writeWindow off v
    = if (s.part (off / 0x1000000 - 1)).flrStep ≠ 0 then s else s.writeRegion (off / 0x1000000 - 1) (off % 0x1000000) v := by
  unfold State.writeWindow
  dsimp only
  rw [if_neg (not_not.2 h), ite_in hlo hhi]

/-- Outside the regions of partitions an aligned offset is a register of the device. -/
theorem writeWindow_recovery (hb : s.dev.booted = false) (h : off < 0x1000000 ∨ 0x5000000 ≤ off) : s.writeWindow off v = s := by
  by_cases h8 : off % 8 ≠ 0
  · exact writeWindow_odd h8
  · unfold State.writeWindow
    dsimp only
    rw [if_neg h8, ite_out h, hb, if_pos (by rfl)]

theorem writeWindow_above (h : 0x5000000 ≤ off) : s.writeWindow off v = s := by
  by_cases h8 : off % 8 ≠ 0
  · exact writeWindow_odd h8
  · cases hb : s.dev.booted
    · exact writeWindow_recovery hb (.inr h)
    · unfold State.writeWindow
      dsimp only
      simp (disch := omega) only [↓ite_out, ↓ite_ne, hb, Bool.not_true, Bool.false_eq_true, if_false, if_neg h8]

/-- The bits of a word below a place. -/
theorem and_low (v : DWord) (n : Nat) (m : DWord) (hm : m.toNat = 2 ^ n - 1) : v &&& m = (v.setWidth n).setWidth 64 := by
  apply BitVec.eq_of_toNat_eq
  rw [BitVec.toNat_and, hm, Nat.and_two_pow_sub_one_eq_mod, BitVec.toNat_setWidth, BitVec.toNat_setWidth]
  exact (Nat.mod_eq_of_lt (lt_of_le_of_lt (Nat.mod_le _ _) v.isLt)).symm

/-- A word of a range entry without its reserved bits. -/
def keptRange (v : DWord) (k : Nat) : DWord := if k % 4 < 2 then (v.setWidth 57).setWidth 64 else if k % 4 = 2 then (v.setWidth 52).setWidth 64
  else (v.setWidth 3).setWidth 64

theorem and_rangeMask (v : DWord) (k : Nat) : v &&& rangeMask k = keptRange v k := by
  have h4 : k % 4 = 0 ∨ k % 4 = 1 ∨ k % 4 = 2 ∨ k % 4 = 3 := by omega
  unfold rangeMask keptRange
  obtain h | h | h | h := h4 <;> rw [h]
  · exact and_low v 57 _ (by decide)
  · exact and_low v 57 _ (by decide)
  · exact and_low v 52 _ (by decide)
  · exact and_low v 3 _ (by decide)

theorem ptroot_bits (v : DWord) : BitVec.ofNat 64 (nbits v.toNat 51 21 * 2 ^ 21) = (v.setWidth 52 >>> 21 <<< 21).setWidth 64 := by
  apply BitVec.eq_of_toNat_eq
  unfold nbits
  rw [BitVec.toNat_ofNat, BitVec.toNat_setWidth, BitVec.toNat_shiftLeft, BitVec.toNat_ushiftRight, BitVec.toNat_setWidth,
    Nat.shiftRight_eq_div_pow, Nat.shiftLeft_eq]
  omega

variable {part : Nat}

theorem writeRegion_nonce (hlo : 0x4000 ≤ off) (hhi : off < 0x4020) : s.writeRegion part off v
    = s.modPart part (fun p => { p with attest := { p.attest with nonce := sset 0 p.attest.nonce ((off - 0x4000) / 8) v } }) := by
  unfold State.writeRegion
  dsimp only
  rw [ite_in hlo hhi]

theorem writeRegion_addr : s.writeRegion part 0x4020 v = s.modPart part (fun p => { p with attest := { p.attest with addr := v } }) := by
  unfold State.writeRegion
  dsimp only
  rw [ite_out (.inr (Nat.le_refl _)), if_pos rfl]

theorem writeRegion_range (hb : s.dev.booted = true) (hlo : 0x1000 ≤ off) (hhi : off < 0x1800) : s.writeRegion part off v
    = s.modPart part (fun p => { p with ranges := sset 0 p.ranges ((off - 0x1000) / 8) (keptRange v ((off - 0x1000) / 8)) }) := by
  unfold State.writeRegion
  dsimp only
  rw [ite_out (.inl (by omega)), ite_ne (by omega), ite_ne (by omega), hb, if_neg (by decide), ite_out (.inr (by omega)), ite_in hlo hhi,
    and_rangeMask]

theorem writeRegion_ptroot (hb : s.dev.booted = true) : s.writeRegion part 0x1800 v
    = s.modPart part (fun p => { p with ptroot := (v.setWidth 52 >>> 21 <<< 21).setWidth 64 }) := by
  unfold State.writeRegion
  dsimp only
  rw [ite_out (.inl (by decide)), ite_ne (by decide), ite_ne (by decide), hb, if_neg (by decide), ite_out (.inr (by decide)),
    ite_out (.inr (by decide)), if_pos rfl, ptroot_bits]

theorem writeRegion_pgctl (hb : s.dev.booted = true) : s.writeRegion part 0x1828 v = s.modPart part (fun p => { p with pgctl := v.setWidth 3 }) := by
  unfold State.writeRegion
  dsimp only
  rw [ite_out (.inl (by decide)), ite_ne (by decide), ite_ne (by decide), hb, if_neg (by decide), ite_out (.inr (by decide)),
    ite_out (.inr (by decide)), ite_ne (by decide), ite_ne (by decide), ite_ne (by decide), ite_ne (by decide), ite_ne (by decide), if_pos rfl]

theorem writeRegion_above (hb : s.dev.booted = true) (h : 0x4038 ≤ off) : s.writeRegion part off v = s := by
  unfold State.writeRegion
  dsimp only
  simp (disch := omega) only [↓ite_out, ↓ite_ne, hb, Bool.not_true, Bool.false_eq_true, if_false]

theorem writeWindow_tctl (hb : s.dev.booted = true) : s.writeWindow 0x108 v = s.writeTctl v := by
  unfold State.writeWindow
  dsimp only
  rw [if_neg (by decide), ite_out (.inl (by decide)), hb, if_neg (by decide), ite_ne (by decide), ite_out (.inr (by decide)),
    ite_ne (by decide), if_pos rfl]

theorem writeWindow_key (hb : s.dev.booted = true) {k : Nat} (hk : k < 64) (hoff : off = 0x110100 + 8 * k) : s.writeWindow off v
    = s.modFabric (fun b => { b with keys := sset 0 b.keys k ((v.setWidth 19).setWidth 64) }) := by
  unfold State.writeWindow
  dsimp only
  simp (disch := omega) only [↓ite_out, ↓ite_ne, hb, Bool.not_true, Bool.false_eq_true, if_false, if_neg (show ¬ off % 8 ≠ 0 by omega)]
  rw [ite_in (by omega) (by omega), show (off - 0x110100) / 8 = k by omega, nbits_setWidth v 18, BitVec.ofNat_toNat]

end

section
variable {s : State} {off size : Nat} {v : DWord} {who : Option Nat}

theorem exec_mgmt (he : s.event = some (.mgmtRegisterWrite who off size v)) :
    exec .mgmtRegisterWrite s = .next (s.writeBar who off size v) := by rw [← event_eta he]; rfl

theorem writeBar_unaligned (h : size ≠ 8) : s.writeBar who off size v = s := if_pos h

theorem writeBar_physical : s.writeBar none off 8 v = s.writeWindow off v := if_neg (by decide)

theorem writeBar_virtual (vf : Nat) : s.writeBar (some vf) off 8 v = (s.barOffset (vf % 16) off).elim s (fun o => s.writeWindow o v) :=
  if_neg (by decide)

theorem writeBar_unbound {vf : Nat} (h : (sget .reset s.dev.funcs (vf % 16)).en = false ∨ 0x1000000 ≤ off) :
    s.writeBar (some vf) off 8 v = s := by
  rw [writeBar_virtual]
  unfold State.barOffset
  dsimp only
  rw [if_neg]
  · rfl
  · rintro ⟨hen, hlt⟩
    rcases h with h | h
    · rw [h] at hen
      exact Bool.false_ne_true hen
    · omega

theorem writeBar_bound {vf : Nat} (hen : (sget .reset s.dev.funcs (vf % 16)).en = true) (h : off < 0x1000000) : s.writeBar (some vf) off 8 v
    = s.writeWindow (0x1000000 * ((sget .reset s.dev.funcs (vf % 16)).part.toNat + 1) + off) v := by
  rw [writeBar_virtual]
  unfold State.barOffset
  dsimp only
  rw [if_pos ⟨hen, h⟩, Option.elim_some]

/-- A write of the window by the physical function. -/
theorem window_write {p : State → Prop} (h : p (s.writeWindow off v)) : Happens s (.mgmtRegisterWrite none off 8 v) .mgmtRegisterWrite p :=
  fun he => ⟨_, exec_mgmt he, by rw [writeBar_physical]; exact h⟩

/-- A write of a register of a partition's region. -/
theorem region_write {part r : Nat} (hpart : part < 4) (hoff : off = 0x1000000 * (part + 1) + r) (hr : r < 0x1000000) (h8 : r % 8 = 0)
    {p : State → Prop} (h : p (if (s.part part).flrStep ≠ 0 then s else s.writeRegion part r v)) :
    Happens s (.mgmtRegisterWrite none off 8 v) .mgmtRegisterWrite p := by
  refine window_write ?_
  rw [writeWindow_region (by omega) (by omega) (by omega), show off / 0x1000000 - 1 = part by omega, show off % 0x1000000 = r by omega]
  exact h

theorem odd_write {p : State → Prop} (h8 : off % 8 ≠ 0) (h : p s) : Happens s (.mgmtRegisterWrite none off 8 v) .mgmtRegisterWrite p :=
  window_write (by rw [writeWindow_odd h8]; exact h)

/-- The registers of a partition's region. -/
theorem region_rule {part r : Nat} (hpart : part < 4) (hoff : off = 0x1000000 * (part + 1) + r) (hr : r < 0x1000000) :
    let P := s.part part
    let opens : Prop := s.dev.booted = true ∧ P.flrStep = 0
    let w : Event := .mgmtRegisterWrite none off 8 v
    (P.flrStep ≠ 0 → Happens s w .mgmtRegisterWrite (fun t => t = s))
      ∧ (∀ k, k < 4 → r = 0x4000 + 8 * k → P.flrStep = 0 → Happens s w .mgmtRegisterWrite
          (OnPart s part { P with attest := { P.attest with nonce := sset 0 P.attest.nonce k v } }))
      ∧ (r = 0x4020 → P.flrStep = 0 → Happens s w .mgmtRegisterWrite (OnPart s part { P with attest := { P.attest with addr := v } }))
      ∧ (∀ k, k < 256 → r = 0x1000 + 8 * k → opens → Happens s w .mgmtRegisterWrite
          (OnPart s part { P with ranges := sset 0 P.ranges k (keptRange v k) }))
      ∧ (r = 0x1800 → opens → Happens s w .mgmtRegisterWrite
          (OnPart s part { P with ptroot := (v.setWidth 52 >>> 21 <<< 21).setWidth 64 }))
      ∧ (r = 0x1828 → opens → Happens s w .mgmtRegisterWrite (OnPart s part { P with pgctl := v.setWidth 3 }))
      ∧ (0x4038 ≤ r → opens → Happens s w .mgmtRegisterWrite (fun t => t = s)) := by
  intro P opens w
  refine ⟨fun hf => ?_, fun k hk hrk hf => ?_, fun hrk hf => ?_, fun k hk hrk ho => ?_, fun hrk ho => ?_, fun hrk ho => ?_, fun hrk ho => ?_⟩
  · by_cases h8 : r % 8 = 0
    · exact region_write hpart hoff hr h8 (if_pos hf)
    · exact odd_write (by omega) rfl
  · refine region_write hpart hoff hr (by omega) ?_
    rw [if_neg (not_not.2 hf), writeRegion_nonce (by omega) (by omega), show (r - 0x4000) / 8 = k by omega]
    exact onPart_modPart s part (fun p => { p with attest := { p.attest with nonce := sset 0 p.attest.nonce k v } })
  · refine region_write hpart hoff hr (by omega) ?_
    rw [if_neg (not_not.2 hf), hrk, writeRegion_addr]
    exact onPart_modPart s part (fun p => { p with attest := { p.attest with addr := v } })
  · refine region_write hpart hoff hr (by omega) ?_
    rw [if_neg (not_not.2 ho.2), writeRegion_range ho.1 (by omega) (by omega), show (r - 0x1000) / 8 = k by omega]
    exact onPart_modPart s part (fun p => { p with ranges := sset 0 p.ranges k (keptRange v k) })
  · refine region_write hpart hoff hr (by omega) ?_
    rw [if_neg (not_not.2 ho.2), hrk, writeRegion_ptroot ho.1]
    exact onPart_modPart s part (fun p => { p with ptroot := (v.setWidth 52 >>> 21 <<< 21).setWidth 64 })
  · refine region_write hpart hoff hr (by omega) ?_
    rw [if_neg (not_not.2 ho.2), hrk, writeRegion_pgctl ho.1]
    exact onPart_modPart s part (fun p => { p with pgctl := v.setWidth 3 })
  · by_cases h8 : r % 8 = 0
    · refine region_write hpart hoff hr h8 ?_
      rw [if_neg (not_not.2 ho.2)]
      exact writeRegion_above ho.1 hrk
    · exact odd_write (by omega) rfl

end

/-- Settles O51: each write changes its own register, by the rule of that register, or nothing. -/
theorem hostRegisterSteps : Obligations.HostRegisterSteps := by
  unfold Obligations.HostRegisterSteps
  intro s part i off size vf v who raws watts excess
  refine ⟨fun hn => ⟨happens_closed hn _ exec_qctl, happens_closed hn _ exec_qptr, happens_closed hn _ exec_fqctl, happens_closed hn _ exec_tinv,
      happens_closed hn _ exec_ibudget, happens_closed hn _ exec_pfloor⟩,
    fun ho => ⟨fun hen hv => happens_opens ho _ exec_qctl (writeQctl_kept hen hv), fun h => happens_opens ho _ exec_qctl (writeQctl_set h),
      fun hu hq => happens_opens ho _ exec_qptr ((writeQptr_set s part (i % 64) v).1 hu hq),
      fun h => happens_opens ho _ exec_qptr ((writeQptr_set s part (i % 64) v).2 h)⟩,
    fun ho => happens_opens ho _ exec_fqctl (writeFqctl_spec s part v), fun ho h => happens_opens ho _ exec_tinv (writeTinv_running h),
    fun ho h => happens_opens ho _ exec_tinv (writeTinv_starts h), tinvComplete_rule s part,
    fun ho => ⟨fun h => happens_opens ho _ exec_ibudget ((writeIbudget_spec s part v).1 h),
      fun h => happens_opens ho _ exec_ibudget ((writeIbudget_spec s part v).2 h)⟩,
    (budgetRefill_rule s).1, (budgetRefill_rule s).2,
    ⟨beatctlReq_always s v, restore_always s, beatChange_always s, sample_always s raws, selfThrottle_always s, hardLimit_always s watts excess,
      tctl_always s v, hlim_always s v, pcap_always s v, pfloor_always s part v⟩,
    (attestRequest_rule s part).1, (attestRequest_rule s part).2, fun he => ?_,
    fun h he => ⟨_, exec_mgmt he, writeBar_unaligned h⟩, window_write rfl, fun h he => ⟨_, exec_mgmt he, writeBar_unbound h⟩,
    fun hen h he => ⟨_, exec_mgmt he, writeBar_bound hen h⟩, fun h => odd_write h rfl,
    fun hb h => window_write (writeWindow_recovery hb (.inl h)), fun r hp hoff hr => region_rule hp hoff hr,
    fun hb hoff => window_write (by rw [hoff]; exact writeWindow_tctl hb), fun hb k hk hoff => window_write (writeWindow_key hb hk hoff),
    fun h => window_write (writeWindow_above h)⟩
  obtain ⟨t, ht, hparts, hcores, ⟨h1, h2, h3, h4⟩, hrest⟩ := attestComplete_rule s part he
  exact ⟨t, ht, hparts, hcores, h1, h2, h3, h4, hrest⟩

end Sys2Proof.Proofs
end

section
/-! PROOFS. The fabric (R271, R288 to R297, R299): what a flit sent, held or served leaves alone, the key check, the choice of a port,
ordered flows and their markers, links and notices. -/

namespace Sys2Proof.Proofs

open Sys2Proof.Machine Sys2Proof.Safety Sys2Proof.Laws

/-! ### Ports changed -/

/-- The machine without its ports. -/
def portless (s : State) : State := { s with dev := { s.dev with fabric := { s.dev.fabric with ports := [] } } }

/-- Every port is as `f` gives it; the rest is as it was. -/
def OnPorts (s : State) (f : Nat → Port) (t : State) : Prop := (∀ j, t.port j = f j) ∧ portless t = portless s

/-- Port `p` is `q`; every other one and the rest are as they were. -/
def OnPort (s : State) (p : Nat) (q : Port) : State → Prop := OnPorts s (fun j => if j = p then q else s.port j)

theorem onPort_modPort (s : State) (p : Nat) (f : Port → Port) : OnPort s p (f (s.port p)) (s.modPort p f) :=
  ⟨fun j => (port_modPort s p j f).trans (if_congr eq_comm rfl rfl), rfl⟩

theorem onPort_trans {s t u : State} {p : Nat} {q r : Port} (h : OnPort s p q t) (h' : OnPort t p r u) : OnPort s p r u := by
  refine ⟨fun j => (h'.1 j).trans ?_, h'.2.trans h.2⟩
  dsimp only
  by_cases hj : j = p
  · rw [if_pos hj, if_pos hj]
  · rw [if_neg hj, if_neg hj]
    exact (h.1 j).trans (if_neg hj)

theorem countAt_port {p : Nat} (h : p < 16) (s : State) (f : Port → Port) : s.countAt p f = s.modPort p f := if_pos h

/-- A port of its own with the flits that wait at it sent, unless a stop or a training holds them. -/
def goOn (q : Port) : Port := if q.stopped ∨ q.train then q
  else { q with sent := q.sent ++ q.queued.map (·.2), used := q.used + q.queued.length, queued := [] }

/-- A flit of this device put on a port that carries traffic. -/
def handed (f : Flit) (q : Port) : Port := if q.stopped ∨ q.train then { q with queued := q.queued ++ [(16, f)] }
  else { q with sent := q.sent ++ [f], used := q.used + 1 }

theorem stops_iff (q : Port) : (q.stopped || q.train) = true ↔ q.stopped = true ∨ q.train = true := by
  rw [Bool.or_eq_true]

theorem onPort_emit (s : State) (p : Nat) (f : Flit) : OnPort s p (handed f (s.port p)) (s.emit 16 p f) := by
  unfold State.emit handed
  dsimp only
  by_cases h : (s.port p).stopped = true ∨ (s.port p).train = true
  · rw [if_pos ((stops_iff _).2 h), if_pos h, if_neg (by decide)]
    exact onPort_modPort s p (fun q => { q with queued := q.queued ++ [(16, f)] })
  · rw [if_neg (fun hc => h ((stops_iff _).1 hc)), if_neg h]
    exact onPort_modPort s p (fun q => { q with sent := q.sent ++ [f], used := q.used + 1 })

/-- A port that is up and neither stopped nor in training. -/
def Clear (s : State) (j : Nat) : Prop := (s.port j).up = true ∧ (s.port j).stopped = false ∧ (s.port j).train = false

theorem emit_clear {s : State} {p : Nat} (hs : (s.port p).stopped = false) (ht : (s.port p).train = false) (i : Nat) (f : Flit) :
    s.emit i p f = s.modPort p (fun q => { q with sent := q.sent ++ [f], used := q.used + 1 }) :=
  if_neg (by rw [hs, ht]; exact Bool.false_ne_true)

theorem releasePort_own {s : State} {p : Nat} (h : ∀ e ∈ (s.port p).queued, e.1 = 16) : OnPort s p (goOn (s.port p)) (s.releasePort p) := by
  have hnone : (s.port p).queued.filter (fun e => decide (e.1 < 16)) = [] := by
    rw [List.filter_eq_nil_iff]
    intro e he
    rw [h e he]
    decide
  unfold State.releasePort goOn
  dsimp only
  by_cases hc : (s.port p).stopped = true ∨ (s.port p).train = true
  · rw [if_pos ((stops_iff _).2 hc), if_pos hc]
    refine ⟨fun j => ?_, rfl⟩
    dsimp only
    by_cases hj : j = p
    · rw [if_pos hj, hj]
    · rw [if_neg hj]
  · rw [if_neg (fun hx => hc ((stops_iff _).1 hx)), if_neg hc, hnone]
    exact onPort_modPort s p (fun q => { q with sent := q.sent ++ q.queued.map (·.2), used := q.used + q.queued.length, queued := [] })

/-! ### What sending a flit leaves alone -/

/-- The machine without what a flit on its way out can change, and the counts of flits that failed their CRC. -/
def sentless (s : State) : State × (Nat → BitVec 16) :=
  ({ s with agenda := [], fresh := 0, dev := { s.dev with fabric := { s.dev.fabric with ports := [], fseq := [], moved := [] } } },
    fun j => (s.port j).crcdrop)

theorem sentless_modPort (s : State) (p : Nat) {f : Port → Port} (hf : ∀ q, (f q).crcdrop = q.crcdrop) : sentless (s.modPort p f) = sentless s := by
  refine Prod.ext rfl (funext fun j => ?_)
  show ((s.modPort p f).port j).crcdrop = (s.port j).crcdrop
  rw [port_modPort]
  split_ifs with h
  · rw [hf, h]
  · rfl

theorem sentless_creditBack (s : State) (p : Nat) : sentless (s.creditBack p) = sentless s :=
  (sentless_modPort { s with fresh := s.fresh + 1 } p (f := fun q => { q with used := q.used - (0 + Config.freeLatency s.fresh) % (q.used + 1) })
    (fun _ => rfl)).trans rfl

theorem sentless_emit (s : State) (i p : Nat) (f : Flit) : sentless (s.emit i p f) = sentless s := by
  unfold State.emit
  dsimp only
  split_ifs
  · refine (sentless_modPort _ i ?_).trans (sentless_modPort s p ?_)
    · exact fun _ => rfl
    · exact fun _ => rfl
  · exact sentless_modPort s p (fun _ => rfl)
  · exact sentless_modPort s p (fun _ => rfl)

/-- Credits given back to ports one after another. -/
def creditAll (l : List Nat) (s : State) : State := l.foldl (fun s p => s.creditBack p) s

theorem sentless_choosePort (s : State) (cls : BitVec 2) (dest : BitVec 13) : sentless (s.choosePort cls dest).2 = sentless s := by
  unfold State.choosePort
  dsimp only
  by_cases hc : cls = 2
  · rw [if_pos hc]
    exact foldl_view sentless _ sentless_creditBack _ s
  · rw [if_neg hc]
    split_ifs <;> rfl

theorem sentless_routeFlit (s : State) (i : Nat) (f : Flit) : sentless (s.routeFlit i f).2 = sentless s := by
  have hc := sentless_choosePort s f.cls f.dest
  unfold State.routeFlit
  generalize s.choosePort f.cls f.dest = x at *
  obtain ⟨o, t⟩ := x
  cases o with
  | none =>
    refine (sentless_modPort t _ ?_).trans hc
    exact fun _ => rfl
  | some p =>
    dsimp only
    split_ifs
    · exact (sentless_emit t i p f).trans hc
    · exact ((sentless_emit _ i p f).trans (sentless_emit t i p _)).trans hc
    · exact (sentless_emit t i p f).trans hc

theorem sentless_sendFlit (s : State) (f : Flit) : sentless (s.sendFlit f).2 = sentless s := by
  unfold State.sendFlit
  dsimp only
  split_ifs with h1 h2 h3
  · rfl
  · exact sentless_routeFlit s 16 _
  · rfl
  · have hr := sentless_routeFlit s 16 { f with src := s.dev.fabric.myid, fseq := sget 0 s.dev.fabric.fseq (flowKey f.cls f.dest) }
    generalize s.routeFlit 16 { f with src := s.dev.fabric.myid, fseq := sget 0 s.dev.fabric.fseq (flowKey f.cls f.dest) } = x at *
    obtain ⟨b, t⟩ := x
    cases b
    · exact hr
    · exact hr

theorem sentless_respond (s : State) (x : Flit) (payload : List Byte) : sentless (s.respond x payload) = sentless s := sentless_sendFlit s _

/-- The flows, the cores, far memory and the counts stay with what `sentless` keeps. -/
theorem sentless_keeps {s t : State} (h : sentless t = sentless s) : t.dev.fabric.flows = s.dev.fabric.flows ∧ t.cores = s.cores
    ∧ t.dev.far = s.dev.far ∧ ∀ j, (t.port j).crcdrop = (s.port j).crcdrop :=
  ⟨congrArg (fun x : State × (Nat → BitVec 16) => x.1.dev.fabric.flows) h, congrArg (fun x : State × (Nat → BitVec 16) => x.1.cores) h,
    congrArg (fun x : State × (Nat → BitVec 16) => x.1.dev.far) h, fun j => congrArg (fun x : State × (Nat → BitVec 16) => x.2 j) h⟩

/-! ### The key check (R295) -/

/-- Entry `i` of the key table is valid and lists a key. -/
def Lists (s : State) (key : BitVec 16) (i : Nat) : Prop :=
  (sget 0 s.dev.fabric.keys i).getLsbD 18 = true ∧ (sget 0 s.dev.fabric.keys i).extractLsb' 0 16 = key

/-- Some entry lists a key that is not 0. -/
def Known (s : State) (key : BitVec 16) : Prop := key ≠ 0 ∧ ∃ i, i < 64 ∧ Lists s key i

theorem lists_iff (s : State) (key : BitVec 16) (i : Nat) :
    (nbits (sget 0 s.dev.fabric.keys i).toNat 18 18 == 1 && nbits (sget 0 s.dev.fabric.keys i).toNat 15 0 == key.toNat) = true ↔ Lists s key i := by
  unfold Lists
  rw [Bool.and_eq_true, beq_iff_eq, beq_iff_eq, BitVec.getLsbD, Nat.testBit_eq_decide_div_mod_eq, decide_eq_true_eq,
    nbits_extract (sget 0 s.dev.fabric.keys i) 0 16 15 rfl, BitVec.toNat_inj]
  rfl

theorem keyPart_none {s : State} {key : BitVec 16} (h : ¬ Known s key) : s.dev.fabric.keyPart key = none := by
  unfold Fabric.keyPart
  by_cases hk : key = 0
  · exact if_pos hk
  · rw [if_neg hk, Option.map_eq_none_iff, List.find?_range_eq_none]
    intro i hi
    rw [Bool.not_eq_true', Bool.eq_false_iff]
    exact fun hc => h ⟨hk, i, hi, (lists_iff s key i).1 hc⟩

theorem keyPart_first {s : State} {key : BitVec 16} {i : Nat} (hk : key ≠ 0) (hi : i < 64) (h : Lists s key i) (hfirst : ∀ j, j < i → ¬ Lists s key j) :
    s.dev.fabric.keyPart key = some ((sget 0 s.dev.fabric.keys i).extractLsb' 16 2).toNat := by
  unfold Fabric.keyPart
  rw [if_neg hk, List.find?_range_eq_some.2 ⟨(lists_iff s key i).2 h, List.mem_range.2 hi, fun j hj => ?_⟩, Option.map_some,
    nbits_extract (sget 0 s.dev.fabric.keys i) 16 2 17 rfl]
  rw [Bool.not_eq_true', Bool.eq_false_iff]
  exact fun hc => hfirst j hj ((lists_iff s key j).1 hc)

theorem keyPart_known {s : State} {key : BitVec 16} (h : Known s key) : ∃ part, s.dev.fabric.keyPart key = some part := by
  obtain ⟨hk, i, hi, hl⟩ := h
  classical
  have hex : ∃ i, Lists s key i := ⟨i, hl⟩
  exact ⟨_, keyPart_first hk (Nat.lt_of_le_of_lt (Nat.find_min' hex hl) hi) (Nat.find_spec hex) (fun j hj => Nat.find_min hex hj)⟩

/-- A flit passes the check of its key. -/
def Passes (s : State) (x : Flit) : Prop := if x.pkey = 0xFFFF then x.typ = 6 else Known s x.pkey

theorem admits_iff (s : State) (x : Flit) : s.dev.fabric.admits x = true ↔ Passes s x := by
  unfold Fabric.admits Passes
  split_ifs with h
  · exact beq_iff_eq
  · by_cases hk : Known s x.pkey
    · obtain ⟨part, hp⟩ := keyPart_known hk
      rw [hp]
      exact ⟨fun _ => hk, fun _ => rfl⟩
    · rw [keyPart_none hk]
      exact ⟨fun h => absurd h (by decide), fun h => absurd h hk⟩

theorem Passes.known {s : State} {x : Flit} (h : Passes s x) (hk : x.pkey ≠ 0xFFFF) : Known s x.pkey := by
  unfold Passes at h
  rwa [if_neg hk] at h

/-! ### Notices (R296) -/

theorem noticeOf_noticeBytes (n : Notice) : noticeOf (noticeBytes n) = n := by
  obtain ⟨dev, port, event, nseq, time⟩ := n
  have hd := dev.isLt
  have hp := port.isLt
  have hn := nseq.isLt
  have ht := time.isLt
  have hc : linkCode event < 3 := by cases event <;> decide
  have hx : leNat (noticeBytes ⟨dev, port, event, nseq, time⟩)
      = dev.toNat + port.toNat * 2 ^ 13 + linkCode event * 2 ^ 17 + nseq.toNat * 2 ^ 32 + time.toNat * 2 ^ 64 := by
    unfold noticeBytes
    rw [leNat_leBytes]
    exact Nat.mod_eq_of_lt (by dsimp only; omega)
  unfold noticeOf
  generalize leNat (noticeBytes ⟨dev, port, event, nseq, time⟩) = x at hx
  have h1 : nbits x 12 0 = dev.toNat := by unfold nbits; omega
  have h2 : nbits x 16 13 = port.toNat := by unfold nbits; omega
  have h3 : nbits x 18 17 = linkCode event := by unfold nbits; omega
  have h4 : nbits x 63 32 = nseq.toNat := by unfold nbits; omega
  have h5 : nbits x 127 64 = time.toNat := by unfold nbits; omega
  dsimp only
  rw [h1, h2, h3, h4, h5]
  simp only [BitVec.ofNat_toNat, BitVec.setWidth_eq]
  cases event <;> rfl

/-- The flit of a notice. -/
def noticeFlit (n : Notice) : Flit := ⟨0, n.dev, 3, 6, 0xFFFF, 0, 0, 0, noticeBytes n, true⟩

/-- A notice's flit at a port: put on one that is up. -/
def given (f : Flit) (q : Port) : Port := if q.up = false then q else handed f q

theorem port_emitAll (f : Flit) (l : List Nat) (hl : l.Nodup) (s : State) :
    OnPorts s (fun j => if j ∈ l then handed f (s.port j) else s.port j) (l.foldl (fun s p => s.emit 16 p f) s) := by
  induction l generalizing s with
  | nil => exact ⟨fun _ => rfl, rfl⟩
  | cons p l ih =>
    obtain ⟨hp, hl⟩ := List.nodup_cons.1 hl
    obtain ⟨h1, h1'⟩ := onPort_emit s p f
    obtain ⟨h2, h2'⟩ := ih hl (s.emit 16 p f)
    refine ⟨fun j => (h2 j).trans ?_, h2'.trans h1'⟩
    dsimp only at h1 ⊢
    by_cases hj : j = p
    · rw [if_neg (hj ▸ hp), h1, if_pos hj, if_pos (hj ▸ List.mem_cons_self), hj]
    · rw [h1, if_neg hj]
      exact if_congr ⟨fun h => List.mem_cons_of_mem _ h, fun h => (List.mem_cons.1 h).resolve_left hj⟩ rfl rfl

theorem floodNotice_ports (s : State) (n : Notice) (p : Nat) : OnPorts s (fun j => if 16 ≤ j ∨ j = p then s.port j else given (noticeFlit n) (s.port j))
    (s.floodNotice n p) := by
  obtain ⟨h, h'⟩ := port_emitAll (noticeFlit n) ((List.range 16).filter (fun j => j != p && (s.port j).up)) (List.Nodup.filter _ List.nodup_range) s
  refine ⟨fun j => (h j).trans ?_, h'⟩
  have hmem : j ∈ (List.range 16).filter (fun j => j != p && (s.port j).up) ↔ ¬ (16 ≤ j ∨ j = p) ∧ (s.port j).up = true := by
    rw [List.mem_filter, List.mem_range, Bool.and_eq_true, bne_iff_ne]
    constructor
    · rintro ⟨hj, hne, hup⟩
      exact ⟨by omega, hup⟩
    · rintro ⟨hj, hup⟩
      exact ⟨by omega, by omega, hup⟩
  dsimp only
  unfold given
  by_cases hj : 16 ≤ j ∨ j = p
  · rw [if_neg (fun hm => (hmem.1 hm).1 hj), if_pos hj]
  · rw [if_neg hj]
    cases hup : (s.port j).up
    · rw [if_neg (fun hm => by rw [(hmem.1 hm).2] at hup; exact Bool.noConfusion hup), if_pos rfl]
    · rw [if_pos (hmem.2 ⟨hj, hup⟩), if_neg (by decide)]

/-- The machine without the answers and requests kept for a step that waits. -/
def unasked (s : State) : State := { s with agenda := [], dev := { s.dev with fabric := { s.dev.fabric with answers := [], reqs := [] } } }

theorem noticeInto_off {s : State} {n : Notice} {p : Nat} (h : (s.part p).nt.en = false) : s.noticeInto n p = s.forget (noticeStep p n) := by
  unfold State.noticeInto
  dsimp only
  rw [h]
  exact if_pos rfl

theorem foldl_view_of {σ α β : Type} (π : σ → β) (f : σ → α → σ) (b : β) {l : List α} (hf : ∀ s, ∀ a ∈ l, π s = b → π (f s a) = b) :
    ∀ s, π s = b → π (l.foldl f s) = b := by
  induction l with
  | nil => exact fun _ h => h
  | cons a l ih =>
    exact fun s h => ih (fun s c hc => hf s c (List.mem_cons_of_mem _ hc)) _ (hf s a List.mem_cons_self h)

theorem recordNotice_off {s : State} (n : Notice) (h : ∀ i, i < 4 → (s.part i).nt.en = false) : unasked (s.recordNotice n) = unasked s := by
  refine foldl_view_of unasked _ (unasked s) (fun t p hp ht => ?_) s rfl
  have hparts : t.parts = s.parts := (congrArg State.parts ht :)
  have hen : (t.part p).nt.en = false := by
    unfold State.part
    rw [hparts]
    exact h p (List.mem_range.1 hp)
  rw [noticeInto_off hen]
  exact ht

/-- A notice not seen before, in no ring, goes on by every port that is up but the one by which it came. -/
theorem takeNotice_new {s : State} {n : Notice} (p : Nat) (hnew : (n.dev, n.nseq) ∉ s.dev.fabric.seen) (h : ∀ i, i < 4 → (s.part i).nt.en = false) :
    (s.takeNotice n p).dev.fabric.seen = (n.dev, n.nseq) :: s.dev.fabric.seen ∧ (s.takeNotice n p).cores = s.cores
      ∧ ∀ j, (s.takeNotice n p).port j = if 16 ≤ j ∨ j = p then s.port j else given (noticeFlit n) (s.port j) := by
  let u := s.modFabric (fun b => { b with seen := (n.dev, n.nseq) :: b.seen })
  have hu := recordNotice_off (s := u) n h
  have heq : s.takeNotice n p = (u.recordNotice n).floodNotice n p := if_neg (by rw [List.contains_iff_mem]; exact hnew)
  rw [heq]
  obtain ⟨hports, hrest⟩ := floodNotice_ports (u.recordNotice n) n p
  have hport (j : Nat) : (u.recordNotice n).port j = s.port j :=
    (congrArg (fun x : State => x.port j) hu :)
  refine ⟨(congrArg (fun x : State => x.dev.fabric.seen) hrest :).trans (congrArg (fun x : State => x.dev.fabric.seen) hu :),
    (congrArg State.cores hrest :).trans (congrArg State.cores hu :), fun j => (hports j).trans ?_⟩
  dsimp only
  rw [hport j]

theorem takeNotice_seen {s : State} {n : Notice} {p : Nat} (h : (n.dev, n.nseq) ∈ s.dev.fabric.seen) : s.takeNotice n p = s :=
  if_pos (List.contains_iff_mem.2 h)

/-- Nothing waits for a notice that is under way. -/
theorem forget_idle {s : State} {ev : Event} (hreqs : s.dev.fabric.reqs = []) (hans : s.dev.fabric.answers = []) (hag : ∀ e ∈ s.agenda, e.ev ≠ ev) :
    s.forget ev = s := by
  have hcancel : s.cancel ev = s := by
    unfold State.cancel
    rw [List.filter_eq_self.2 (fun e he => decide_eq_true (hag e he))]
  unfold State.forget
  rw [hcancel]
  unfold State.modFabric State.modDev
  dsimp only
  rw [hreqs, hans, List.filter_nil, List.filter_nil, ← hreqs, ← hans]

theorem recordNotice_idle {s : State} (n : Notice) (h : ∀ i, i < 4 → (s.part i).nt.en = false) (hreqs : s.dev.fabric.reqs = [])
    (hans : s.dev.fabric.answers = []) (hag : ∀ e ∈ s.agenda, ∀ j m, e.ev ≠ .noticeReceive j m) : s.recordNotice n = s :=
  foldl_fixed (fun p hp => by
    rw [noticeInto_off (h p (List.mem_range.1 hp))]
    exact forget_idle hreqs hans (fun e he => hag e he (17 + p) n))

/-! ### Links and ports (R290, R292, R296, R297) -/

theorem exec_hostWrite_off {s : State} {i : Instr} {ev : Event} (f : State → State) (hb : s.dev.booted = false)
    (h : s.event = some ev → exec i s = .next (s.hostWrite f)) : Happens s ev i (fun t => t = s) :=
  fun he => ⟨s, by rw [h he, hostWrite_off hb], rfl⟩

theorem exec_hostWrite_on {s : State} {i : Instr} {ev : Event} (f : State → State) (hb : s.dev.booted = true)
    (h : s.event = some ev → exec i s = .next (s.hostWrite f)) {p : State → Prop} (hp : p (f s)) : Happens s ev i p :=
  fun he => ⟨f s, by rw [h he, hostWrite_on hb], hp⟩

section
variable {s : State} {bank dest p : Nat} {v : Word} {stopped : Bool} {n : Notice} {x : Flit}

theorem exec_routingEntry (he : s.event = some (.routingEntryWrite bank dest v)) :
    exec .routingEntryWrite s = .next (s.hostWrite (fun s => s.writeRoute (bank % 2 == 1) (dest % 8192) v)) := by rw [← event_eta he]; rfl
theorem exec_swap (he : s.event = some .swap) : exec .swap s = .next (s.hostWrite State.writeSwap) := by rw [← event_eta he]; rfl
theorem exec_pstatClr (he : s.event = some (.pstatClr p)) : exec .pstatClr s = .next (s.hostWrite (fun s => s.clearPstat (p % 16))) := by
  rw [← event_eta he]; rfl
theorem exec_flowControl (he : s.event = some (.flowControlSignal p stopped)) :
    exec .flowControlSignal s = .next ((s.modPort p (fun q => { q with stopped := stopped })).releasePort p) := by rw [← event_eta he]; rfl
theorem exec_portTraining (he : s.event = some (.portTrainingComplete p)) :
    exec .portTrainingComplete s = .next ((s.modPort p (fun q => { q with up := true, train := false })).releasePort p) := by
  rw [← event_eta he]; rfl
theorem exec_retrain (he : s.event = some (.retrainComplete p)) : exec .retrainComplete s
    = .next (((s.modPort p (fun q => { q with train := false, half := true })).releasePort p).ownNotice p .shed) := by rw [← event_eta he]; rfl
theorem exec_linkDown (he : s.event = some (.linkEvent p .down)) : exec .linkEvent s
    = .next ((s.modPort p (fun q => { q with up := false, train := false })).ownNotice p .down).loseRequests := by rw [← event_eta he]; rfl
theorem exec_linkBack (he : s.event = some (.linkEvent p .back)) : exec .linkEvent s
    = .next ((s.modPort p (fun q => { q with half := false })).ownNotice p .back) := by rw [← event_eta he]; rfl
theorem exec_linkShed (he : s.event = some (.linkEvent p .shed)) : exec .linkEvent s
    = .next (postWithin (s.modPort p (fun q => { q with train := true })) 1500 (.retrainComplete p)) := by rw [← event_eta he]; rfl
theorem exec_noticeReceive (he : s.event = some (.noticeReceive p n)) : exec .noticeReceive s
    = .next (if 17 ≤ p then s.noticeInto n (p - 17) else s.takeNotice n p) := by rw [← event_eta he]; rfl
theorem exec_drainMarker (he : s.event = some (.drainMarker x)) : exec .drainMarker s
    = .next ((s.modFlow (flowKey x.cls x.src) (fun w => { w with markers := w.markers ++ [x] })).post
      ((s.modFlow (flowKey x.cls x.src) (fun w => { w with markers := w.markers ++ [x] })).now
        + (s.modFlow (flowKey x.cls x.src) (fun w => { w with markers := w.markers ++ [x] })).nsTicks 20000)
      (.flowLossTimeout x.cls x.src x.fseq)) := by rw [← event_eta he]; rfl

end

theorem route_set (b : Fabric) (bank : Bool) (dest : Nat) (v : Word) (c : Bool) (d : Nat) :
    (if bank then { b with bank1 := sset 0 b.bank1 dest v } else { b with bank0 := sset 0 b.bank0 dest v } : Fabric).route c d
      = if c = bank ∧ d = dest then v else b.route c d := by
  unfold Fabric.route
  cases bank <;> cases c
  · exact (sget_sset (0 : Word) b.bank0 dest d v).trans (if_congr ⟨fun h => ⟨rfl, h.symm⟩, fun h => h.2.symm⟩ rfl rfl)
  · exact (if_neg (fun h => Bool.noConfusion h.1)).symm
  · exact (if_neg (fun h => Bool.noConfusion h.1)).symm
  · exact (sget_sset (0 : Word) b.bank1 dest d v).trans (if_congr ⟨fun h => ⟨rfl, h.symm⟩, fun h => h.2.symm⟩ rfl rfl)

theorem writeRoute_spec (s : State) (bank : Bool) (dest : Nat) (v : Word) :
    (∀ b d, (s.writeRoute bank dest v).dev.fabric.route b d
      = if b ≠ s.dev.fabric.act ∧ b = bank ∧ d = dest then (v.setWidth 20).setWidth 32 else s.dev.fabric.route b d)
    ∧ { s.writeRoute bank dest v with dev := { (s.writeRoute bank dest v).dev with fabric := { (s.writeRoute bank dest v).dev.fabric with bank0 := [], bank1 := [] } } }
      = { s with dev := { s.dev with fabric := { s.dev.fabric with bank0 := [], bank1 := [] } } } := by
  unfold State.writeRoute
  by_cases h : bank = s.dev.fabric.act
  · rw [if_pos h]
    exact ⟨fun b d => (if_neg (fun hc => hc.1 (hc.2.1.trans h))).symm, rfl⟩
  · rw [if_neg h]
    have hv : BitVec.ofNat 32 (nbits v.toNat 19 0) = (v.setWidth 20).setWidth 32 := by
      rw [nbits_extract v 0 20 19 rfl, extract_low, BitVec.ofNat_toNat]
    dsimp only
    rw [hv]
    refine ⟨fun b d => (route_set s.dev.fabric bank dest _ b d).trans ?_, by cases bank <;> rfl⟩
    exact if_congr ⟨fun hc => ⟨hc.1 ▸ h, hc⟩, fun hc => hc.2⟩ rfl rfl

theorem writeSwap_starts {s : State} (h : s.dev.fabric.pend = false) :
    (s.writeSwap).dev.fabric = { s.dev.fabric with pend := true } ∧ (s.writeSwap).cores = s.cores
      ∧ ∃ u, s.now < u ∧ Posts s s.writeSwap u .routeBankSwap := by
  have heq : s.writeSwap = ({ s.modFabric (fun b => { b with pend := true }) with fresh := s.fresh + 1 }).post
      (s.now + (1 + Config.freeLatency s.fresh)) .routeBankSwap := if_neg (by rw [h]; exact Bool.false_ne_true)
  rw [heq]
  exact ⟨rfl, rfl, _, by omega, rfl⟩

/-- Waiting flits of this device leave when a port is changed. -/
theorem onPort_released {s : State} {p : Nat} (f : Port → Port) (hf : ∀ q, (f q).queued = q.queued) (hown : ∀ e ∈ (s.port p).queued, e.1 = 16) :
    OnPort s p (goOn (f (s.port p))) ((s.modPort p f).releasePort p) := by
  have hp : (s.modPort p f).port p = f (s.port p) := (port_modPort s p p f).trans (if_pos rfl)
  have h := releasePort_own (s := s.modPort p f) (p := p) (by rw [hp, hf]; exact hown)
  rw [hp] at h
  exact onPort_trans (onPort_modPort s p f) h

/-- A transit flit leaves and frees its place in the buffer of the port by which it came. -/
theorem releasePort_transit {s : State} {p j : Nat} {x : Flit} (hj : j < 16) (hne : j ≠ p) (hq : (s.port p).queued = [(j, x)])
    (ht : (s.port p).train = false) : let t := (s.modPort p (fun q => { q with stopped := false })).releasePort p
    (t.port p).sent = (s.port p).sent ++ [x] ∧ (t.port p).queued = [] ∧ t.port j = (s.port j).fill ((s.port j).buffered - 1) := by
  intro t
  let u := s.modPort p (fun q => { q with stopped := false })
  have hu : u.port p = { s.port p with stopped := false } := (port_modPort s p p (fun q => { q with stopped := false })).trans (if_pos rfl)
  have huj : u.port j = s.port j := (port_modPort s p j (fun q => { q with stopped := false })).trans (if_neg hne.symm)
  let w := u.modPort p (fun q => { q with sent := q.sent ++ q.queued.map (·.2), used := q.used + q.queued.length, queued := [] })
  have heq : t = w.modPort j (fun q => q.fill (q.buffered - 1)) := by
    have hstops : ((u.port p).stopped || (u.port p).train) = false := by rw [hu]; exact ht
    have hqueued : (u.port p).queued = [(j, x)] := by rw [hu]; exact hq
    have hfilter : (u.port p).queued.filter (fun e => decide (e.1 < 16)) = [(j, x)] := by
      rw [hqueued]
      exact List.filter_eq_self.2 (fun e he => by rw [List.mem_singleton.1 he]; exact decide_eq_true hj)
    show u.releasePort p = _
    unfold State.releasePort
    dsimp only
    rw [hstops, if_neg Bool.false_ne_true, hfilter]
    rfl
  have hw : w.port p = { s.port p with stopped := false, sent := (s.port p).sent ++ [x], used := (s.port p).used + 1, queued := [] } := by
    refine (port_modPort u p p _).trans ((if_pos rfl).trans ?_)
    rw [hu]
    dsimp only
    rw [hq]
    rfl
  have hwj : w.port j = s.port j := (port_modPort u p j (fun q => { q with sent := q.sent ++ q.queued.map (·.2), used := q.used + q.queued.length, queued := [] })).trans
    ((if_neg hne.symm).trans huj)
  have htp : t.port p = w.port p := by rw [heq]; exact (port_modPort w j p (fun q => q.fill (q.buffered - 1))).trans (if_neg hne)
  have htj : t.port j = (w.port j).fill ((w.port j).buffered - 1) := by
    rw [heq]; exact (port_modPort w j j (fun q => q.fill (q.buffered - 1))).trans (if_pos rfl)
  rw [hwj] at htj
  rw [htp, hw]
  exact ⟨rfl, rfl, htj⟩

/-- No other port carries traffic, no ring takes notices and nothing waits for an answer. -/
def Quiet (s : State) (p : Nat) : Prop := (∀ j, j ≠ p → (s.port j).up = false) ∧ (∀ i, i < 4 → (s.part i).nt.en = false) ∧ s.dev.fabric.reqs = []
  ∧ s.dev.fabric.answers = [] ∧ (∀ e ∈ s.agenda, ∀ j m, e.ev ≠ .noticeReceive j m) ∧ (s.dev.fabric.myid, s.dev.fabric.nseq) ∉ s.dev.fabric.seen

/-- Port `p` is `q`, and the next notice of this device has been seen. -/
def Told (s : State) (p : Nat) (q : Port) (t : State) : Prop := t.port p = q ∧ (∀ j, j ≠ p → t.port j = s.port j)
  ∧ { t.dev.fabric with ports := [] }
    = { s.dev.fabric with ports := [], nseq := s.dev.fabric.nseq + 1, seen := (s.dev.fabric.myid, s.dev.fabric.nseq) :: s.dev.fabric.seen }
  ∧ t.cores = s.cores ∧ t.agenda = s.agenda

/-- The notice of this device of a change at a port. -/
def ownOf (s : State) (p : Nat) (c : LinkChange) : Notice := ⟨s.dev.fabric.myid, BitVec.ofNat 4 p, c, s.dev.fabric.nseq, BitVec.ofNat 64 s.beat⟩

theorem ownNotice_quiet {s v : State} {p : Nat} {q : Port} (hp : p < 16) (hquiet : Quiet s p) (hv : OnPort s p q v) (c : LinkChange) :
    Told s p (given (noticeFlit (ownOf s p c)) q) (v.ownNotice p c) := by
  obtain ⟨hup, hen, hreqs, hans, hag, hseen⟩ := hquiet
  obtain ⟨hports, hrest⟩ := hv
  have hfab : { v.dev.fabric with ports := [] } = { s.dev.fabric with ports := [] } := (congrArg (fun x : State => x.dev.fabric) hrest :)
  have hparts : v.parts = s.parts := (congrArg State.parts hrest :)
  have hagenda : v.agenda = s.agenda := (congrArg State.agenda hrest :)
  have hcores : v.cores = s.cores := (congrArg State.cores hrest :)
  have hown : ownOf v p c = ownOf s p c := (congrArg (fun x : State => ownOf x p c) hrest :)
  let n := ownOf v p c
  let u := (v.modFabric (fun b => { b with nseq := b.nseq + 1 })).modFabric (fun b => { b with seen := (n.dev, n.nseq) :: b.seen })
  have hvseen : (n.dev, n.nseq) ∉ v.dev.fabric.seen := by
    rw [show v.dev.fabric.seen = s.dev.fabric.seen from (congrArg Fabric.seen hfab :), show n = ownOf s p c from hown]
    exact hseen
  have hrec : u.recordNotice n = u := by
    refine recordNotice_idle n (fun i hi => ?_) ((congrArg Fabric.reqs hfab :).trans hreqs) ((congrArg Fabric.answers hfab :).trans hans) ?_
    · show (v.part i).nt.en = false
      unfold State.part
      rw [hparts]
      exact hen i hi
    · show ∀ e ∈ v.agenda, _
      rw [hagenda]
      exact hag
  have heq : v.ownNotice p c = u.floodNotice n 16 := by
    show (v.modFabric (fun b => { b with nseq := b.nseq + 1 })).takeNotice n 16 = _
    unfold State.takeNotice
    rw [if_neg (by rw [List.contains_iff_mem]; exact hvseen)]
    exact congrArg (fun w : State => w.floodNotice n 16) hrec
  obtain ⟨hflood, hfrest⟩ := floodNotice_ports u n 16
  rw [heq]
  have hvp : u.port p = q := (hports p).trans (if_pos rfl)
  have hvj (j : Nat) (hj : j ≠ p) : u.port j = s.port j := (hports j).trans (if_neg hj)
  refine ⟨(hflood p).trans ?_, fun j hj => (hflood j).trans ?_, ?_, (congrArg State.cores hfrest :).trans hcores, (congrArg State.agenda hfrest :).trans hagenda⟩
  · dsimp only
    rw [if_neg (by omega), hvp, show n = ownOf s p c from hown]
  · dsimp only
    rw [hvj j hj]
    split_ifs
    · rfl
    · exact if_pos (hup j hj)
  · refine (congrArg (fun x : State => x.dev.fabric) hfrest :).trans ?_
    show { v.dev.fabric with ports := [], nseq := v.dev.fabric.nseq + 1, seen := (n.dev, n.nseq) :: v.dev.fabric.seen } = _
    rw [show n = ownOf s p c from hown]
    exact (congrArg (fun b : Fabric => { b with nseq := b.nseq + 1, seen := (s.dev.fabric.myid, s.dev.fabric.nseq) :: b.seen }) hfab :)

theorem loseRequests_none {s : State} (h : s.dev.fabric.reqs = []) : s.loseRequests = s := by
  unfold State.loseRequests
  rw [h]
  rfl

theorem linkDown_rule {s : State} {p : Nat} (hp : p < 16) (hq : Quiet s p) :
    Happens s (.linkEvent p .down) .linkEvent (Told s p { s.port p with up := false, train := false }) := by
  intro he
  have ht := ownNotice_quiet hp hq (onPort_modPort s p (fun q => { q with up := false, train := false })) .down
  refine ⟨_, exec_linkDown he, ?_⟩
  rw [loseRequests_none]
  · exact ht
  · exact (congrArg Fabric.reqs ht.2.2.1 :).trans hq.2.2.1

theorem linkBack_rule {s : State} {p : Nat} (hp : p < 16) (hq : Quiet s p) :
    Happens s (.linkEvent p .back) .linkEvent (Told s p (given (noticeFlit (ownOf s p .back)) { s.port p with half := false })) :=
  fun he => ⟨_, exec_linkBack he, ownNotice_quiet hp hq (onPort_modPort s p (fun q => { q with half := false })) .back⟩

theorem retrain_rule {s : State} {p : Nat} (hp : p < 16) (hq : Quiet s p) (hown : ∀ e ∈ (s.port p).queued, e.1 = 16) :
    Happens s (.retrainComplete p) .retrainComplete
      (Told s p (given (noticeFlit (ownOf s p .shed)) (goOn { s.port p with train := false, half := true }))) :=
  fun he => ⟨_, exec_retrain he,
    ownNotice_quiet hp hq (onPort_released (fun q => { q with train := false, half := true }) (fun _ => rfl) hown) .shed⟩

theorem linkShed_rule (s : State) (p : Nat) : Happens s (.linkEvent p .shed) .linkEvent (fun t =>
    (∀ j, t.port j = if j = p then { s.port p with train := true } else s.port j)
      ∧ ∃ u, s.now < u ∧ (s.nsTicks 1500 ≠ 0 → u ≤ s.now + s.nsTicks 1500) ∧ Posts s t u (.retrainComplete p)) := by
  intro he
  obtain ⟨d, heq, hpos, hle⟩ := postWithin_eq (s.modPort p (fun q => { q with train := true })) 1500 (.retrainComplete p)
  refine ⟨_, exec_linkShed he, ?_⟩
  rw [heq]
  exact ⟨(onPort_modPort s p (fun q => { q with train := true })).1, _, Nat.lt_add_of_pos_right hpos, fun h => Nat.add_le_add_left (hle h) _, rfl⟩

/-! ### Flits received (R290 to R296) -/

/-- A flit for this device by its type and class. -/
def tookLocal (s : State) (p : Nat) (x : Flit) : State :=
  let s := if x.crcOk then s else s.countAt p (fun q => { q with crcdrop := satInc q.crcdrop })
  if x.typ = 7 then (if x.crcOk then s.post s.now (.drainMarker x) else s)
  else if x.cls = 0 ∨ x.cls = 1 then s.takeOrdered x
  else s.deliverFlit x

/-- A flit on its way to another device. -/
def tookTransit (s : State) (p : Nat) (x : Flit) : State :=
  if (s.routeFlit p x).1 then (s.routeFlit p x).2
  else if x.typ = 1 ∨ x.typ = 2 ∨ x.typ = 4 then (s.routeFlit p x).2.refuseLost x else (s.routeFlit p x).2

section
variable {s : State} {p : Nat} {x : Flit}

theorem exec_flit (he : s.event = some (.flitReceive p x)) : exec .flitReceive s = .next (
    if !s.dev.fabric.admits x then s.countAt p (fun q => { q with keydrop := satInc q.keydrop })
    else if x.typ = 0 ∨ 7 < x.typ.toNat then s.countAt p (fun q => { q with routedrop := satInc q.routedrop })
    else if x.typ = 6 then
      if x.crcOk then s.takeNotice (noticeOf x.payload) p else s.countAt p (fun q => { q with crcdrop := satInc q.crcdrop })
    else if x.dest ≠ s.dev.fabric.myid then tookTransit s p x
    else tookLocal s p x) := by
  have hroute : tookTransit s p x = (match s.routeFlit p x with
      | (true, s) => s
      | (false, s) => if x.typ = 1 ∨ x.typ = 2 ∨ x.typ = 4 then s.refuseLost x else s) := by
    unfold tookTransit
    generalize s.routeFlit p x = y
    obtain ⟨b, t⟩ := y
    cases b <;> rfl
  rw [hroute, ← event_eta he]
  rfl

theorem flit_refused (h : ¬ Passes s x) {f : State → Prop} (hp : f (s.countAt p (fun q => { q with keydrop := satInc q.keydrop }))) :
    Happens s (.flitReceive p x) .flitReceive f := by
  intro he
  refine ⟨_, exec_flit he, ?_⟩
  rw [if_pos (by rw [Bool.not_eq_true', Bool.eq_false_iff]; exact fun ha => h ((admits_iff s x).1 ha))]
  exact hp

theorem flit_passes (h : Passes s x) {f : State → Prop} (hp : f (
    if x.typ = 0 ∨ 7 < x.typ.toNat then s.countAt p (fun q => { q with routedrop := satInc q.routedrop })
    else if x.typ = 6 then
      if x.crcOk then s.takeNotice (noticeOf x.payload) p else s.countAt p (fun q => { q with crcdrop := satInc q.crcdrop })
    else if x.dest ≠ s.dev.fabric.myid then tookTransit s p x
    else tookLocal s p x)) : Happens s (.flitReceive p x) .flitReceive f := by
  intro he
  refine ⟨_, exec_flit he, ?_⟩
  rw [if_neg (by rw [(admits_iff s x).2 h]; decide)]
  exact hp

theorem flit_notice (h : Passes s x) (ht : x.typ = 6) {f : State → Prop} (hp : f (
    if x.crcOk then s.takeNotice (noticeOf x.payload) p else s.countAt p (fun q => { q with crcdrop := satInc q.crcdrop }))) :
    Happens s (.flitReceive p x) .flitReceive f := by
  refine flit_passes h ?_
  rw [if_neg (by rw [ht]; decide), if_pos ht]
  exact hp

theorem flit_transit (h : Passes s x) (h0 : x.typ ≠ 0) (h7 : x.typ.toNat ≤ 7) (h6 : x.typ ≠ 6) (hd : x.dest ≠ s.dev.fabric.myid)
    {f : State → Prop} (hp : f (tookTransit s p x)) : Happens s (.flitReceive p x) .flitReceive f := by
  refine flit_passes h ?_
  rw [if_neg (fun hc => hc.elim h0 (fun hc => absurd hc (Nat.not_lt.2 h7))), if_neg h6, if_pos hd]
  exact hp

theorem flit_local (h : Passes s x) (h0 : x.typ ≠ 0) (h7 : x.typ.toNat ≤ 7) (h6 : x.typ ≠ 6) (hd : x.dest = s.dev.fabric.myid)
    {f : State → Prop} (hp : f (tookLocal s p x)) : Happens s (.flitReceive p x) .flitReceive f := by
  refine flit_passes h ?_
  rw [if_neg (fun hc => hc.elim h0 (fun hc => absurd hc (Nat.not_lt.2 h7))), if_neg h6, if_neg (not_not.2 hd)]
  exact hp

/-- A flit whose CRC holds. -/
theorem tookLocal_good (hc : x.crcOk = true) : tookLocal s p x = if x.typ = 7 then s.post s.now (.drainMarker x)
    else if x.cls = 0 ∨ x.cls = 1 then s.takeOrdered x else s.deliverFlit x := by
  unfold tookLocal
  rw [hc]
  rfl

/-- The state with a flit counted that failed its CRC. -/
def crcCounted (s : State) (p : Nat) : State := s.modPort p (fun q => { q with crcdrop := satInc q.crcdrop })

theorem tookLocal_bad (hp : p < 16) (hc : x.crcOk = false) : tookLocal s p x = if x.typ = 7 then crcCounted s p
    else if x.cls = 0 ∨ x.cls = 1 then (crcCounted s p).takeOrdered x else (crcCounted s p).deliverFlit x := by
  unfold tookLocal crcCounted
  rw [hc, countAt_port hp]
  rfl

end

/-! ### Transit flits (R291, R293, R294) -/

section
variable {s : State} {x : Flit}

/-- The entry that routes a flit, and the port that it names. -/
def entryFor (s : State) (x : Flit) : Word := s.dev.fabric.route s.dev.fabric.act x.dest.toNat
def portFor (s : State) (x : Flit) : Nat := ((entryFor s x).extractLsb' 16 4).toNat

theorem nbits_portFor : nbits (entryFor s x).toNat 19 16 = portFor s x := nbits_extract (entryFor s x) 16 4 19 rfl

/-- The ports of an entry that are up. -/
def upPorts (s : State) (x : Flit) : List Nat := (List.range 16).filter (fun p => (entryFor s x).getLsbD p && (s.port p).up)

theorem mem_upPorts {j : Nat} : j ∈ upPorts s x ↔ j < 16 ∧ (entryFor s x).getLsbD j = true ∧ (s.port j).up = true := by
  unfold upPorts
  rw [List.mem_filter, List.mem_range, Bool.and_eq_true]

theorem choosePort_ordered (hc : x.cls ≠ 2) (he : (entryFor s x).getLsbD (portFor s x) = true) (hup : (s.port (portFor s x)).up = true) :
    s.choosePort x.cls x.dest = (some (portFor s x), s) := by
  have hmem : portFor s x ∈ upPorts s x := mem_upPorts.2 ⟨((entryFor s x).extractLsb' 16 4).isLt, he, hup⟩
  show (if x.cls = 2 then _ else if (s.port (nbits (entryFor s x).toNat 19 16)).up ∧ (upPorts s x).contains (nbits (entryFor s x).toNat 19 16) = true
    then (some (nbits (entryFor s x).toNat 19 16), s) else ((upPorts s x).head?, s)) = _
  rw [if_neg hc, nbits_portFor, if_pos ⟨hup, List.contains_iff_mem.2 hmem⟩]

theorem choosePort_none (h : ∀ j, j < 16 → (entryFor s x).getLsbD j = true → (s.port j).up = false) : s.choosePort x.cls x.dest = (none, s) := by
  have hnil : upPorts s x = [] := List.eq_nil_iff_forall_not_mem.2 (fun j hj => by
    obtain ⟨h1, h2, h3⟩ := mem_upPorts.1 hj
    rw [h j h1 h2] at h3
    exact Bool.noConfusion h3)
  unfold State.choosePort
  show (if x.cls = 2 then ((upPorts s x).foldl _ none, (upPorts s x).foldl _ s)
    else if (s.port (nbits (entryFor s x).toNat 19 16)).up ∧ (upPorts s x).contains (nbits (entryFor s x).toNat 19 16) = true
    then (some (nbits (entryFor s x).toNat 19 16), s) else ((upPorts s x).head?, s)) = _
  rw [hnil]
  split_ifs with h1 h2
  · rfl
  · exact absurd h2.2 (by simp)
  · rfl

theorem routeFlit_none (i : Nat) (h : ∀ j, j < 16 → (entryFor s x).getLsbD j = true → (s.port j).up = false) :
    s.routeFlit i x = (false, s.modPort (portFor s x) (fun q => { q with routedrop := satInc q.routedrop })) := by
  unfold State.routeFlit
  rw [choosePort_none h, ← nbits_portFor]
  rfl

/-- A port after flits have left. -/
def sentOff (q : Port) (l : List Flit) : Port := { q with sent := q.sent ++ l, used := q.used + l.length }

theorem emit_sentOff {p : Nat} (h : Clear s p) (i : Nat) (f : Flit) : OnPort s p (sentOff (s.port p) [f]) (s.emit i p f) := by
  rw [emit_clear h.2.1 h.2.2]
  exact onPort_modPort s p (fun q => { q with sent := q.sent ++ [f], used := q.used + 1 })

theorem clear_sentOff {t : State} {p : Nat} {l : List Flit} (h : Clear s p) (ht : OnPort s p (sentOff (s.port p) l) t) : Clear t p := by
  have hp : t.port p = sentOff (s.port p) l := (ht.1 p).trans (if_pos rfl)
  unfold Clear
  rw [hp]
  exact h

/-- What a flit sends ahead: a marker where its flow moves to another port. -/
def sendsOut (s : State) (x : Flit) (p : Nat) : List Flit :=
  let last := sget 0 s.dev.fabric.moved (pathKey x)
  if x.cls = 3 ∨ last = 0 ∨ last = p + 1 ∨ x.typ = 7 then [x] else [{ x with typ := 7, payload := [], pa := 0 }, x]

/-- The port that the flow of a flit left by last. -/
def movedTo (s : State) (x : Flit) (p : Nat) (t : State) : Prop :=
  (∀ y, sget 0 t.dev.fabric.moved y = if x.cls ≠ 3 ∧ y = pathKey x then p + 1 else sget 0 s.dev.fabric.moved y)
    ∧ t.cores = s.cores ∧ t.agenda = s.agenda

theorem sentOff_append (q : Port) (l l' : List Flit) : sentOff (sentOff q l) l' = sentOff q (l ++ l') := by
  unfold sentOff
  dsimp only
  rw [List.append_assoc, Nat.add_assoc, List.length_append]

theorem sentOff_nil (q : Port) : sentOff q [] = q := by
  unfold sentOff
  rw [List.append_nil]
  rfl

theorem onPort_refl (s : State) (p : Nat) : OnPort s p (sentOff (s.port p) []) s := by
  refine ⟨fun j => ?_, rfl⟩
  dsimp only
  split_ifs with h
  · rw [sentOff_nil, h]
  · rfl

/-- An ordered flow leaves by a port that carries traffic, behind what it sent ahead. -/
theorem emit_moved {m : State} {p : Nat} {l : List Flit} (i : Nat) (h3 : x.cls ≠ 3) (hclear : Clear s p) (hm : OnPort s p (sentOff (s.port p) l) m) :
    let t := (m.emit i p x).modFabric (fun b => { b with moved := sset 0 b.moved (pathKey x) (p + 1) })
    (∀ j, t.port j = if j = p then sentOff (s.port j) (l ++ [x]) else s.port j) ∧ movedTo s x p t := by
  have hmp : m.port p = sentOff (s.port p) l := (hm.1 p).trans (if_pos rfl)
  have he := emit_sentOff (clear_sentOff hclear hm) i x
  rw [hmp, sentOff_append] at he
  obtain ⟨h, h'⟩ := onPort_trans hm he
  refine ⟨fun j => (h j).trans ?_, fun y => ?_, (congrArg State.cores h' :), (congrArg State.agenda h' :)⟩
  · dsimp only
    split_ifs with hj
    · rw [hj]
    · rfl
  · refine (sget_sset 0 (m.emit i p x).dev.fabric.moved (pathKey x) y (p + 1)).trans ?_
    rw [show (m.emit i p x).dev.fabric.moved = s.dev.fabric.moved from (congrArg (fun x : State => x.dev.fabric.moved) h' :)]
    exact if_congr ⟨fun hy => ⟨h3, hy.symm⟩, fun hy => hy.2.symm⟩ rfl rfl

theorem routeFlit_ordered (i : Nat) (hc : x.cls ≠ 2) (he : (entryFor s x).getLsbD (portFor s x) = true) (hclear : Clear s (portFor s x)) :
    (s.routeFlit i x).1 = true
      ∧ (∀ j, (s.routeFlit i x).2.port j = if j = portFor s x then sentOff (s.port j) (sendsOut s x (portFor s x)) else s.port j)
      ∧ movedTo s x (portFor s x) (s.routeFlit i x).2 := by
  unfold State.routeFlit
  rw [choosePort_ordered hc he hclear.1]
  generalize portFor s x = p at *
  dsimp only
  by_cases h3 : x.cls = 3
  · have hout : sendsOut s x p = [x] := if_pos (.inl h3)
    obtain ⟨h, h'⟩ := emit_sentOff hclear i x
    rw [if_pos (.inr h3), hout]
    refine ⟨rfl, fun j => (h j).trans ?_, fun y => ?_, (congrArg State.cores h' :), (congrArg State.agenda h' :)⟩
    · dsimp only
      split_ifs with hj
      · rw [hj]
      · rfl
    · rw [if_neg (fun hc => hc.1 h3), show (s.emit i p x).dev.fabric.moved = s.dev.fabric.moved from (congrArg (fun x : State => x.dev.fabric.moved) h' :)]
  · rw [if_neg (fun h => h.elim hc h3)]
    refine ⟨rfl, ?_⟩
    have hout : sendsOut s x p = if x.cls = 3 ∨ sget 0 s.dev.fabric.moved (pathKey x) = 0 ∨ sget 0 s.dev.fabric.moved (pathKey x) = p + 1 ∨ x.typ = 7
        then [x] else [{ x with typ := 7, payload := [], pa := 0 }, x] := rfl
    by_cases hm : sget 0 s.dev.fabric.moved (pathKey x) ≠ 0 ∧ sget 0 s.dev.fabric.moved (pathKey x) ≠ p + 1 ∧ x.typ ≠ 7
    · rw [if_pos hm, hout, if_neg (fun h => h.elim h3 (fun h => h.elim hm.1 (fun h => h.elim hm.2.1 hm.2.2)))]
      exact emit_moved i h3 hclear (emit_sentOff hclear i { x with typ := 7, payload := [], pa := 0 })
    · rw [if_neg hm, hout, if_pos (by by_contra hn; exact hm ⟨fun h => hn (.inr (.inl h)), fun h => hn (.inr (.inr (.inl h))), fun h => hn (.inr (.inr (.inr h)))⟩)]
      exact emit_moved i h3 hclear (onPort_refl s p)

/-- Of two ports the one that has used fewer credits, the first on a tie. -/
def pick (f : Nat → Nat) (m : Option Nat) (p : Nat) : Option Nat := m.elim (some p) (fun b => if f p < f b then some p else some b)

theorem foldl_pick_some (f : Nat → Nat) : ∀ (l : List Nat) (b : Nat), l.Pairwise (· < ·) → (∀ i ∈ l, b < i) →
    ∃ j, l.foldl (pick f) (some b) = some j ∧ j ∈ b :: l ∧ ∀ i ∈ b :: l, f j ≤ f i ∧ (i < j → f j < f i)
  | [], b, _, _ => ⟨b, rfl, List.mem_cons_self, fun i hi => by
      rw [List.mem_singleton.1 hi]
      exact ⟨Nat.le_refl _, fun h => absurd h (Nat.lt_irrefl _)⟩⟩
  | c :: l, b, hl, hb => by
    obtain ⟨hc, hl⟩ := List.pairwise_cons.1 hl
    have hbc := hb c List.mem_cons_self
    by_cases hlt : f c < f b
    · obtain ⟨j, hj, hmem, hmin⟩ := foldl_pick_some f l c hl hc
      have hjc := hmin c List.mem_cons_self
      refine ⟨j, ?_, List.mem_cons_of_mem _ hmem, fun i hi => ?_⟩
      · rw [List.foldl_cons, show pick f (some b) c = some c from if_pos hlt]
        exact hj
      · rcases List.mem_cons.1 hi with h | h
        · rw [h]
          exact ⟨by omega, fun _ => by omega⟩
        · exact hmin i h
    · obtain ⟨j, hj, hmem, hmin⟩ := foldl_pick_some f l b hl (fun i hi => hb i (List.mem_cons_of_mem _ hi))
      have hjb := hmin b List.mem_cons_self
      refine ⟨j, ?_, ?_, fun i hi => ?_⟩
      · rw [List.foldl_cons, show pick f (some b) c = some b from if_neg hlt]
        exact hj
      · rcases List.mem_cons.1 hmem with h | h
        · rw [h]; exact List.mem_cons_self
        · exact List.mem_cons_of_mem _ (List.mem_cons_of_mem _ h)
      · rcases List.mem_cons.1 hi with h | h
        · rw [h]; exact hmin b List.mem_cons_self
        · rcases List.mem_cons.1 h with h | h
          · rw [h]
            refine ⟨by omega, fun hcj => ?_⟩
            have := hjb.2 (by omega)
            omega
          · exact hmin i (List.mem_cons_of_mem _ h)

theorem foldl_pick (f : Nat → Nat) {l : List Nat} (hl : l.Pairwise (· < ·)) (hne : l ≠ []) :
    ∃ j, l.foldl (pick f) none = some j ∧ j ∈ l ∧ ∀ i ∈ l, f j ≤ f i ∧ (i < j → f j < f i) := by
  cases l with
  | nil => exact absurd rfl hne
  | cons b l =>
    obtain ⟨hb, hl⟩ := List.pairwise_cons.1 hl
    exact foldl_pick_some f l b hl hb

/-- The ports without the credits that they have used. -/
def creditless (s : State) (j : Nat) : Port := { s.port j with used := 0 }

theorem creditless_creditBack (s : State) (p : Nat) : creditless (s.creditBack p) = creditless s := by
  funext j
  unfold creditless
  rw [show (s.creditBack p).port j = if p = j then { s.port p with used := (s.port p).used - (0 + Config.freeLatency s.fresh) % ((s.port p).used + 1) }
    else s.port j from port_modPort { s with fresh := s.fresh + 1 } p j _]
  split_ifs with h
  · rw [h]
  · rfl

theorem creditless_creditAll (l : List Nat) (s : State) : creditless (creditAll l s) = creditless s :=
  foldl_view creditless _ creditless_creditBack l s

theorem choosePort_free (hc : x.cls = 2) : s.choosePort x.cls x.dest
    = ((upPorts s x).foldl (pick (fun p => ((creditAll (upPorts s x) s).port p).used)) none, creditAll (upPorts s x) s) := by
  have hpick : pick (fun p => ((creditAll (upPorts s x) s).port p).used) = fun m p => match m with
      | none => some p
      | some b => if ((creditAll (upPorts s x) s).port p).used < ((creditAll (upPorts s x) s).port b).used then some p else some b := by
    funext m p
    cases m <;> rfl
  rw [hpick]
  exact if_pos hc

/-- In class 2 a flit leaves by the port that has used the fewest credits (R293). -/
theorem routeFlit_free (i : Nat) (hc : x.cls = 2) (hex : ∃ j, j < 16 ∧ (entryFor s x).getLsbD j = true ∧ Clear s j)
    (hall : ∀ j, j < 16 → (entryFor s x).getLsbD j = true → (s.port j).up = true → Clear s j) :
    (s.routeFlit i x).1 = true ∧ let t := (s.routeFlit i x).2
      ∃ j, j < 16 ∧ (entryFor s x).getLsbD j = true ∧ Clear s j ∧ (t.port j).sent = (s.port j).sent ++ [x]
        ∧ (∀ i, i ≠ j → (t.port i).sent = (s.port i).sent)
        ∧ ∀ i, i < 16 → i ≠ j → (entryFor s x).getLsbD i = true → Clear s i →
          (t.port j).used ≤ (t.port i).used + 1 ∧ (i < j → (t.port j).used ≤ (t.port i).used) := by
  have hne : upPorts s x ≠ [] := by
    obtain ⟨j, hj, he, hclear⟩ := hex
    exact List.ne_nil_of_mem (mem_upPorts.2 ⟨hj, he, hclear.1⟩)
  have hsorted : (upPorts s x).Pairwise (· < ·) := List.Pairwise.filter _ List.pairwise_lt_range
  obtain ⟨j, hfold, hmem, hmin⟩ := foldl_pick (fun p => ((creditAll (upPorts s x) s).port p).used) hsorted hne
  have hview := creditless_creditAll (upPorts s x) s
  unfold State.routeFlit
  rw [choosePort_free hc, hfold]
  have hup (k : Nat) (h1 : k < 16) (h2 : (entryFor s x).getLsbD k = true) (h3 : Clear s k) : k ∈ upPorts s x := mem_upPorts.2 ⟨h1, h2, h3.1⟩
  obtain ⟨hj, he, hjup⟩ := mem_upPorts.1 hmem
  generalize upPorts s x = l at *
  generalize creditAll l s = u at *
  dsimp only
  rw [if_pos (.inl hc)]
  have hclear := hall j hj he hjup
  have hsent (k : Nat) : (u.port k).sent = (s.port k).sent := (congrArg (fun g : Nat → Port => (g k).sent) hview :)
  have hstops : (u.port j).stopped = (s.port j).stopped := (congrArg (fun g : Nat → Port => (g j).stopped) hview :)
  have htrain : (u.port j).train = (s.port j).train := (congrArg (fun g : Nat → Port => (g j).train) hview :)
  rw [emit_clear (hstops.trans hclear.2.1) (htrain.trans hclear.2.2)]
  obtain ⟨ht, -⟩ := onPort_modPort u j (fun q => { q with sent := q.sent ++ [x], used := q.used + 1 })
  generalize u.modPort j (fun q => { q with sent := q.sent ++ [x], used := q.used + 1 }) = t at *
  have htj : t.port j = { u.port j with sent := (u.port j).sent ++ [x], used := (u.port j).used + 1 } := (ht j).trans (if_pos rfl)
  have hti (k : Nat) (hk : k ≠ j) : t.port k = u.port k := (ht k).trans (if_neg hk)
  refine ⟨rfl, j, hj, he, hclear, by rw [htj, ← hsent], fun k hk => by rw [hti k hk, hsent], fun k hk hkj hke hkc => ?_⟩
  obtain ⟨hle, hlt⟩ := hmin k (hup k hk hke hkc)
  rw [htj, hti k hkj]
  exact ⟨Nat.succ_le_succ hle, fun h => hlt h⟩

theorem tookTransit_sent {p : Nat} (h : (s.routeFlit p x).1 = true) : tookTransit s p x = (s.routeFlit p x).2 := if_pos h

theorem tookTransit_none (p : Nat) (h : ∀ j, j < 16 → (entryFor s x).getLsbD j = true → (s.port j).up = false) : tookTransit s p x
    = if x.typ = 1 ∨ x.typ = 2 ∨ x.typ = 4 then (s.modPort (portFor s x) (fun q => { q with routedrop := satInc q.routedrop })).refuseLost x
      else s.modPort (portFor s x) (fun q => { q with routedrop := satInc q.routedrop }) := by
  unfold tookTransit
  rw [routeFlit_none p h]
  exact if_neg Bool.false_ne_true

end

/-! ### Flits for this device (R289, R290, R294, R295) -/

/-- Flow `c`, `d` is `f`; every other one is as it was. -/
def OnFlow (s : State) (c : BitVec 2) (d : BitVec 13) (f : RxFlow) (t : State) : Prop :=
  ∀ j, t.dev.fabric.flow j = if j = flowKey c d then f else s.dev.fabric.flow j

theorem onFlow_modFlow (s : State) (c : BitVec 2) (d : BitVec 13) (f : RxFlow → RxFlow) :
    OnFlow s c d (f (s.dev.fabric.flow (flowKey c d))) (s.modFlow (flowKey c d) f) :=
  fun j => (flow_modFlow s (flowKey c d) j f).trans (if_congr eq_comm rfl rfl)

theorem onFlow_congr {s t u : State} {c : BitVec 2} {d : BitVec 13} {f : RxFlow} (h : OnFlow s c d f t) (hu : u.dev.fabric.flows = t.dev.fabric.flows) :
    OnFlow s c d f u := by
  intro j
  rw [← h j]
  unfold Fabric.flow
  rw [hu]

theorem onFlow_trans {s t u : State} {c : BitVec 2} {d : BitVec 13} {f g : RxFlow} (h : OnFlow s c d f t) (h' : OnFlow t c d g u) : OnFlow s c d g u := by
  intro j
  rw [h' j]
  by_cases hj : j = flowKey c d
  · rw [if_pos hj, if_pos hj]
  · rw [if_neg hj, if_neg hj, h j, if_neg hj]

theorem drainFlow_stops {s : State} {key : Nat} (h : ∀ y ∈ (s.dev.fabric.flow key).held, y.fseq ≠ (s.dev.fabric.flow key).next) :
    ∀ n, s.drainFlow key n = s
  | 0 => rfl
  | n + 1 => by
    have hnone : (s.dev.fabric.flow key).held.find? (fun x => x.fseq == (s.dev.fabric.flow key).next) = none := by
      rw [List.find?_eq_none]
      intro y hy
      rw [beq_iff_eq]
      exact h y hy
    unfold State.drainFlow
    dsimp only
    rw [hnone]

theorem drainFlow_only {s : State} {key : Nat} {x : Flit} (h : (s.dev.fabric.flow key).held = [x]) (hx : x.fseq = (s.dev.fabric.flow key).next) :
    s.drainFlow key 1 = (s.modFlow key (fun w => { w with next := w.next + 1, held := w.held.erase x })).deliverFlit x := by
  have hsome : (s.dev.fabric.flow key).held.find? (fun y => y.fseq == (s.dev.fabric.flow key).next) = some x := by
    rw [h]
    exact List.find?_cons_of_pos (beq_iff_eq.2 hx)
  unfold State.drainFlow
  dsimp only
  rw [hsome]
  rfl

theorem takeOrdered_ahead {s : State} {x : Flit} (h : (x.fseq - (s.dev.fabric.flow (flowKey x.cls x.src)).next).toNat < 512) : s.takeOrdered x
    = (s.modFlow (flowKey x.cls x.src) (fun w => { w with held := w.held ++ [x] })).drainFlow (flowKey x.cls x.src)
      ((s.dev.fabric.flow (flowKey x.cls x.src)).held.length + 1) := if_neg (Nat.not_le.2 h)

/-- A flit ahead of its flow is held. -/
theorem takeOrdered_held {s : State} {x : Flit} (hheld : ∀ y ∈ (s.dev.fabric.flow (flowKey x.cls x.src)).held, y.fseq ≠ (s.dev.fabric.flow (flowKey x.cls x.src)).next)
    (hne : x.fseq ≠ (s.dev.fabric.flow (flowKey x.cls x.src)).next)
    (h : (x.fseq - (s.dev.fabric.flow (flowKey x.cls x.src)).next).toNat < 512) :
    s.takeOrdered x = s.modFlow (flowKey x.cls x.src) (fun w => { w with held := w.held ++ [x] }) := by
  rw [takeOrdered_ahead h]
  refine drainFlow_stops ?_ _
  rw [show (s.modFlow (flowKey x.cls x.src) (fun w => { w with held := w.held ++ [x] })).dev.fabric.flow (flowKey x.cls x.src)
    = { s.dev.fabric.flow (flowKey x.cls x.src) with held := (s.dev.fabric.flow (flowKey x.cls x.src)).held ++ [x] } from
    (flow_modFlow s _ _ _).trans (if_pos rfl)]
  intro y hy
  rcases List.mem_append.1 hy with hy | hy
  · exact hheld y hy
  · rw [List.mem_singleton.1 hy]
    exact hne

theorem deliverFlit_bad {s : State} {x : Flit} (hk : Known s x.pkey) (h3 : x.typ ≠ 3) (hc : x.crcOk = false) : s.deliverFlit x = s.respond x [0x06] := by
  obtain ⟨part, hp⟩ := keyPart_known hk
  unfold State.deliverFlit
  rw [hp]
  dsimp only
  rw [if_neg h3, hc]
  exact if_pos rfl

theorem deliverFlit_request {s : State} {x : Flit} {part : Nat} (hk : s.dev.fabric.keyPart x.pkey = some part) (ht : x.typ = 1)
    (hc : x.crcOk = true) : s.deliverFlit x = s.serveRequest part x := by
  unfold State.deliverFlit
  rw [hk]
  dsimp only
  rw [if_neg (by rw [ht]; decide), hc, if_neg (by decide), if_pos (.inl ht)]

theorem deliverFlit_response {s : State} {x : Flit} {part : Nat} (hk : s.dev.fabric.keyPart x.pkey = some part) (ht : x.typ = 3) :
    s.deliverFlit x = s.takeResponse part x := by
  unfold State.deliverFlit
  rw [hk]
  exact if_pos ht

/-- The check of an address in HBM. It is unfolded as a constant and its place is made a variable: compared with the place of a variable
address left in it, the kernel would evaluate the bounds of the map in unary. -/
theorem physOk_hbm_of {s : State} {part pa : Nat} {f : State → Nat → Nat → Bool → Option (BitVec 8)} (hf : f = State.physOk)
    (hp : s.dev.place pa = .hbm) (h : (s.part part).passes pa true = true) : f s part pa true = none := by
  delta State.physOk at hf
  rw [hf]
  beta_reduce
  generalize s.dev.place pa = pl at hp ⊢
  subst hp
  dsimp only
  rw [h, if_neg (by decide), if_neg (by decide)]

theorem physOk_hbm {s : State} {part pa : Nat} (hp : s.dev.place pa = .hbm) (h : (s.part part).passes pa true = true) :
    s.physOk part pa true = none := physOk_hbm_of rfl hp h

/-- A peer's write is performed and acknowledged; the function is unfolded as a constant, as for `physOk_hbm_of`. -/
theorem serveRequest_write_of {s : State} {x : Flit} {part : Nat} {f : State → Nat → Flit → State} (hf : f = State.serveRequest) (ht : x.typ = 1)
    (hp : s.dev.place x.pa = .hbm) (h : s.physOk part x.pa true = none) : f s part x = (s.writePhys x.pa x.payload).respond x [] := by
  delta State.serveRequest at hf
  rw [hf]
  beta_reduce
  rw [h]
  generalize s.dev.place x.pa = pl at hp ⊢
  subst hp
  rw [ht]
  extract_lets write n refuse far
  have hfar : far = true := rfl
  have hwrite : write = true := by decide
  clear_value far write n refuse
  rw [hfar, hwrite, if_neg (by decide), if_pos rfl, if_pos rfl]
  generalize s.readPhys x.pa n = g
  dsimp only
  rw [if_neg (by decide), if_pos rfl]

theorem serveRequest_write {s : State} {x : Flit} {part : Nat} (ht : x.typ = 1) (hp : s.dev.place x.pa = .hbm)
    (h : (s.part part).passes x.pa true = true) : s.serveRequest part x = (s.writePhys x.pa x.payload).respond x [] :=
  serveRequest_write_of rfl ht hp (physOk_hbm hp h)

theorem served_bytes {s : State} {x : Flit} {part : Nat} (ht : x.typ = 1) (hp : s.dev.place x.pa = .hbm)
    (h : (s.part part).passes x.pa true = true) : (s.serveRequest part x).cores = s.cores ∧ ∀ b, farByte (s.serveRequest part x) b
      = if x.pa ≤ b ∧ b < x.pa + x.payload.length then x.payload.getD (b - x.pa) 0 else farByte s b := by
  rw [serveRequest_write ht hp h]
  obtain ⟨-, hcores, hfar, -⟩ := sentless_keeps (sentless_respond (s.writePhys x.pa x.payload) x [])
  refine ⟨hcores, fun b => ?_⟩
  unfold farByte
  rw [hfar]
  exact sget_writeBytes s.dev.far x.pa b x.payload

/-- A request is over with its answer. -/
theorem answerReq_only {s : State} {r : PeerReq} (h : s.dev.fabric.reqs = [r]) (data : List Byte) (t : BitVec 8) :
    (s.answerReq r data t).dev.fabric.reqs = [] ∧ (s.answerReq r data t).dev.fabric.answers = s.dev.fabric.answers ++ [⟨r.ev, r.va, data, t⟩]
      ∧ Posts s (s.answerReq r data t) (s.now + 1) r.ev := by
  refine ⟨?_, rfl, rfl⟩
  show s.dev.fabric.reqs.erase r = []
  rw [h, List.erase_cons_head]

theorem takeResponse_lost {s : State} {x : Flit} {r : PeerReq} (part : Nat) (hl : x.payload.length = 5) (hc : x.crcOk = true)
    (hr : s.dev.fabric.reqs = [r]) (hcls : x.cls = 2) (hrc : r.cls = 2) (hpa : r.pa = x.pa) (hdest : r.dest.toNat = leNat (x.payload.drop 3)) :
    s.takeResponse part x = s.answerReq r [] tPeer := by
  have htake : s.takeResponse part x = s.takeLost x := if_pos ⟨hl, hc⟩
  rw [htake]
  unfold State.takeLost
  dsimp only
  rw [hr, List.find?_cons_of_pos]
  rw [hdest, hcls, hrc, if_pos rfl, hpa]
  simp

/-! ### Markers and lost flits (R294) -/

/-- What is left of a flow once the time of a marker is up. -/
def flowLost (s : State) (cls : BitVec 2) (src : BitVec 13) (fseq : BitVec 10) (m : Flit) : State :=
  let key := flowKey cls src
  let w := s.dev.fabric.flow key
  let gone := (fseq - w.next).toNat
  let kept := w.held.filter (fun x => decide ((x.fseq - w.next).toNat < gone))
  let missing := if gone < 512 then ((List.range gone).map (fun i => w.next + BitVec.ofNat 10 i)).filter (fun n =>
    !kept.any (fun x => x.fseq == n)) else []
  let s := if gone < 512 then ((List.range gone).flatMap (fun i => kept.filter (fun x => (x.fseq - w.next).toNat == i))).foldl
      (fun s x => s.deliverFlit x) s else s
  let s := s.modFlow key (fun w => { w with
    next := if gone < 512 then fseq else w.next, markers := w.markers.erase m, held := w.held.filter (fun x => !kept.contains x) })
  let lost := if cls = 1 then ((s.dev.fabric.reqs.filter (fun r => r.dest == src && r.cls == 0)).take missing.length) else []
  let s := lost.foldl (fun s r => s.answerReq r [] tPeer) s
  let s := if cls = 0 then missing.foldl (fun s n => s.refuseLost { m with fseq := n, dest := s.dev.fabric.myid }) s else s
  s.drainFlow key (w.held.length + 1)

section
variable {s : State} {cls : BitVec 2} {src : BitVec 13} {fseq : BitVec 10} {m : Flit}

theorem exec_flowLoss (he : s.event = some (.flowLossTimeout cls src fseq)) : exec .flowLossTimeout s
    = .next (((s.dev.fabric.flow (flowKey cls src)).markers.find? (fun m => m.fseq == fseq)).elim s (flowLost s cls src fseq)) := by
  show execFlowLossTimeout s = _
  unfold execFlowLossTimeout
  rw [he]
  show Host.Outcome.next _ = Host.Outcome.next _
  extract_lets key w
  show _ = Host.Outcome.next ((w.markers.find? (fun m => m.fseq == fseq)).elim s (flowLost s cls src fseq))
  cases w.markers.find? (fun m => m.fseq == fseq) with
  | none => rfl
  | some m => rfl

theorem flowLoss_none (h : ∀ y ∈ (s.dev.fabric.flow (flowKey cls src)).markers, y.fseq ≠ fseq) :
    Happens s (.flowLossTimeout cls src fseq) .flowLossTimeout (fun t => t = s) := by
  intro he
  have hnone : (s.dev.fabric.flow (flowKey cls src)).markers.find? (fun m => m.fseq == fseq) = none := by
    rw [List.find?_eq_none]
    intro y hy
    rw [beq_iff_eq]
    exact h y hy
  refine ⟨s, ?_, rfl⟩
  rw [exec_flowLoss he, hnone]
  rfl

theorem flowLoss_some (h : (s.dev.fabric.flow (flowKey cls src)).markers = [m]) (hm : m.fseq = fseq) {p : State → Prop}
    (hp : p (flowLost s cls src fseq m)) : Happens s (.flowLossTimeout cls src fseq) .flowLossTimeout p := by
  intro he
  have hsome : (s.dev.fabric.flow (flowKey cls src)).markers.find? (fun m => m.fseq == fseq) = some m := by
    rw [h]
    exact List.find?_cons_of_pos (beq_iff_eq.2 hm)
  refine ⟨_, ?_, hp⟩
  rw [exec_flowLoss he, hsome]
  rfl

theorem modFlow_congr {key : Nat} {f g : RxFlow → RxFlow} (h : f (s.dev.fabric.flow key) = g (s.dev.fabric.flow key)) :
    s.modFlow key f = s.modFlow key g :=
  congrArg (fun q => { s with dev := { s.dev with fabric := { s.dev.fabric with flows := sset .reset s.dev.fabric.flows key q } } }) h

/-- The flow behind its marker, with nothing held. -/
def behindMarker (s : State) (cls : BitVec 2) (src : BitVec 13) (fseq : BitVec 10) (m : Flit) : State :=
  s.modFlow (flowKey cls src) (fun w => ⟨fseq, [], w.markers.erase m⟩)

theorem onFlow_behindMarker (h : (s.dev.fabric.flow (flowKey cls src)).markers = [m]) :
    OnFlow s cls src ⟨fseq, [], []⟩ (behindMarker s cls src fseq m) := by
  have h' := onFlow_modFlow s cls src (fun w => ⟨fseq, [], w.markers.erase m⟩)
  rw [h, List.erase_cons_head] at h'
  exact h'

/-- The numbers of the flits missing before a marker. -/
def missingOf (s : State) (cls : BitVec 2) (src : BitVec 13) (fseq : BitVec 10) : List (BitVec 10) :=
  let w := s.dev.fabric.flow (flowKey cls src)
  (List.range (fseq - w.next).toNat).map (fun i => w.next + BitVec.ofNat 10 i)

theorem foldl_nothing {α β : Type} (l : List α) (f : β → Flit → β) (b : β) (g : α → List Flit) (hg : ∀ a, g a = []) : (l.flatMap g).foldl f b = b := by
  have : l.flatMap g = [] := List.flatMap_eq_nil_iff.2 (fun a _ => hg a)
  rw [this]
  rfl

theorem flowLost_empty (hheld : (s.dev.fabric.flow (flowKey cls src)).held = [])
    (hgone : (fseq - (s.dev.fabric.flow (flowKey cls src)).next).toNat < 512) : flowLost s cls src fseq m
    = (let v := behindMarker s cls src fseq m
       let missing := missingOf s cls src fseq
       let lost := if cls = 1 then ((v.dev.fabric.reqs.filter (fun r => r.dest == src && r.cls == 0)).take missing.length) else []
       let v := lost.foldl (fun s r => s.answerReq r [] tPeer) v
       let v := if cls = 0 then missing.foldl (fun s n => s.refuseLost { m with fseq := n, dest := s.dev.fabric.myid }) v else v
       v.drainFlow (flowKey cls src) 1) := by
  have hmod : s.modFlow (flowKey cls src) (fun w => { w with
      next := if (fseq - (s.dev.fabric.flow (flowKey cls src)).next).toNat < 512 then fseq else w.next, markers := w.markers.erase m,
      held := w.held.filter (fun x => !([] : List Flit).contains x) }) = behindMarker s cls src fseq m :=
    modFlow_congr (by rw [if_pos hgone, hheld]; rfl)
  have hmissing : ((List.range (fseq - (s.dev.fabric.flow (flowKey cls src)).next).toNat).map (fun i => (s.dev.fabric.flow (flowKey cls src)).next + BitVec.ofNat 10 i)).filter
      (fun n => !([] : List Flit).any (fun x => x.fseq == n)) = missingOf s cls src fseq := List.filter_eq_self.2 (fun _ _ => rfl)
  unfold flowLost
  dsimp only
  rw [hheld, List.filter_nil, if_pos hgone, if_pos hgone, foldl_nothing _ _ _ _ (fun _ => List.filter_nil), hmod, hmissing]
  rfl

theorem drainFlow_empty {v : State} (h : OnFlow s cls src ⟨fseq, [], []⟩ v) (n : Nat) : v.drainFlow (flowKey cls src) n = v := by
  have hw : v.dev.fabric.flow (flowKey cls src) = ⟨fseq, [], []⟩ := (h _).trans (if_pos rfl)
  refine drainFlow_stops ?_ n
  rw [hw]
  exact fun y hy => absurd hy List.not_mem_nil

theorem missing_one (h : fseq = (s.dev.fabric.flow (flowKey cls src)).next + 1) :
    missingOf s cls src fseq = [(s.dev.fabric.flow (flowKey cls src)).next] ∧ (fseq - (s.dev.fabric.flow (flowKey cls src)).next).toNat < 512 := by
  have hone : (fseq - (s.dev.fabric.flow (flowKey cls src)).next).toNat = 1 := by
    rw [h, BitVec.add_comm, BitVec.add_sub_cancel]
    rfl
  unfold missingOf
  dsimp only
  rw [hone]
  refine ⟨?_, by decide⟩
  show [_ + 0#10] = _
  rw [BitVec.add_zero]

theorem flowLoss_other (hmk : (s.dev.fabric.flow (flowKey cls src)).markers = [m]) (hm : m.fseq = fseq)
    (hheld : (s.dev.fabric.flow (flowKey cls src)).held = []) (hgone : (fseq - (s.dev.fabric.flow (flowKey cls src)).next).toNat < 512)
    (h0 : cls ≠ 0) (h1 : cls ≠ 1) : Happens s (.flowLossTimeout cls src fseq) .flowLossTimeout (fun t =>
      OnFlow s cls src ⟨fseq, [], []⟩ t ∧ t.agenda = s.agenda ∧ t.dev.fabric.reqs = s.dev.fabric.reqs) := by
  refine flowLoss_some hmk hm ?_
  rw [flowLost_empty hheld hgone]
  dsimp only
  rw [if_neg h1, if_neg h0, List.foldl_nil, drainFlow_empty (onFlow_behindMarker hmk)]
  exact ⟨onFlow_behindMarker hmk, rfl, rfl⟩

theorem flowLoss_requests (hmk : (s.dev.fabric.flow (flowKey cls src)).markers = [m]) (hm : m.fseq = fseq)
    (hheld : (s.dev.fabric.flow (flowKey cls src)).held = []) (hnext : fseq = (s.dev.fabric.flow (flowKey cls src)).next + 1)
    (h0 : cls = 0) : Happens s (.flowLossTimeout cls src fseq) .flowLossTimeout (fun t => ∃ v,
      t = v.refuseLost { m with fseq := (s.dev.fabric.flow (flowKey cls src)).next, dest := s.dev.fabric.myid }
        ∧ OnFlow s cls src ⟨fseq, [], []⟩ v ∧ v.agenda = s.agenda ∧ v.cores = s.cores) := by
  obtain ⟨hmissing, hgone⟩ := missing_one hnext
  refine flowLoss_some hmk hm ⟨behindMarker s cls src fseq m, ?_, onFlow_behindMarker hmk, rfl, rfl⟩
  rw [flowLost_empty hheld hgone]
  dsimp only
  rw [if_pos h0, if_neg (by rw [h0]; decide), List.foldl_nil, hmissing, List.foldl_cons, List.foldl_nil]
  refine drainFlow_empty (onFlow_congr (onFlow_behindMarker (s := s) (fseq := fseq) hmk) ?_) 1
  exact (sentless_keeps (sentless_sendFlit _ _)).1

theorem flowLoss_responses {r : PeerReq} (hmk : (s.dev.fabric.flow (flowKey cls src)).markers = [m]) (hm : m.fseq = fseq)
    (hheld : (s.dev.fabric.flow (flowKey cls src)).held = []) (hnext : fseq = (s.dev.fabric.flow (flowKey cls src)).next + 1)
    (h1 : cls = 1) (hr : s.dev.fabric.reqs = [r]) (hdest : r.dest = src) (hcls : r.cls = 0) :
    Happens s (.flowLossTimeout cls src fseq) .flowLossTimeout (fun t => OnFlow s cls src ⟨fseq, [], []⟩ t ∧ t.dev.fabric.reqs = []
      ∧ t.dev.fabric.answers = s.dev.fabric.answers ++ [⟨r.ev, r.va, [], 0x07⟩] ∧ Posts s t (s.now + 1) r.ev) := by
  obtain ⟨hmissing, hgone⟩ := missing_one hnext
  refine flowLoss_some hmk hm ?_
  have hflow : OnFlow s cls src ⟨fseq, [], []⟩ ((behindMarker s cls src fseq m).answerReq r [] tPeer) :=
    onFlow_congr (onFlow_behindMarker hmk) rfl
  have hreqs : (behindMarker s cls src fseq m).dev.fabric.reqs.filter (fun r => r.dest == src && r.cls == 0) = [r] := by
    rw [show (behindMarker s cls src fseq m).dev.fabric.reqs = [r] from hr, hdest.symm]
    refine List.filter_eq_self.2 (fun q hq => ?_)
    rw [List.mem_singleton.1 hq, hcls]
    simp
  rw [flowLost_empty hheld hgone]
  dsimp only
  rw [if_pos h1, if_neg (by rw [h1]; decide), hmissing, hreqs, show ([r] : List PeerReq).take [(s.dev.fabric.flow (flowKey cls src)).next].length = [r] from rfl,
    List.foldl_cons, List.foldl_nil, drainFlow_empty hflow]
  obtain ⟨h1, h2, h3⟩ := answerReq_only (s := behindMarker s cls src fseq m) (r := r) hr [] tPeer
  exact ⟨hflow, h1, h2, h3⟩

end

theorem drainMarker_rule (s : State) (x : Flit) : Happens s (.drainMarker x) .drainMarker (fun t =>
    OnFlow s x.cls x.src { s.dev.fabric.flow (flowKey x.cls x.src) with markers := (s.dev.fabric.flow (flowKey x.cls x.src)).markers ++ [x] } t
      ∧ t.cores = s.cores ∧ Posts s t (s.now + s.nsTicks 20000) (.flowLossTimeout x.cls x.src x.fseq)) := by
  intro he
  refine ⟨_, exec_drainMarker he, onFlow_modFlow s x.cls x.src (fun w => { w with markers := w.markers ++ [x] }), rfl, ?_⟩
  have ht : (s.modFlow (flowKey x.cls x.src) (fun w => { w with markers := w.markers ++ [x] })).nsTicks 20000 = s.nsTicks 20000 := nsTicks_congr rfl _
  exact congrArg (fun n => agendaInsert ⟨s.now + n, .flowLossTimeout x.cls x.src x.fseq⟩ s.agenda) ht

/-- A damaged flit takes its place in its flow. -/
theorem takeOrdered_bad {s : State} {x : Flit} (hk : Known s x.pkey) (h3 : x.typ ≠ 3) (hc : x.crcOk = false)
    (hheld : (s.dev.fabric.flow (flowKey x.cls x.src)).held = []) (hnext : x.fseq = (s.dev.fabric.flow (flowKey x.cls x.src)).next) :
    OnFlow s x.cls x.src { s.dev.fabric.flow (flowKey x.cls x.src) with next := (s.dev.fabric.flow (flowKey x.cls x.src)).next + 1 } (s.takeOrdered x)
      ∧ ∀ j, ((s.takeOrdered x).port j).crcdrop = (s.port j).crcdrop := by
  have h1 := onFlow_modFlow s x.cls x.src (fun w => { w with held := w.held ++ [x] })
  have hw : (s.modFlow (flowKey x.cls x.src) (fun w => { w with held := w.held ++ [x] })).dev.fabric.flow (flowKey x.cls x.src)
      = { s.dev.fabric.flow (flowKey x.cls x.src) with held := [x] } := by
    rw [h1, if_pos rfl, hheld]
    rfl
  rw [takeOrdered_ahead (by rw [hnext, BitVec.sub_self]; decide), hheld]
  show OnFlow s _ _ _ ((s.modFlow _ _).drainFlow _ 1) ∧ ∀ j, (((s.modFlow _ _).drainFlow _ 1).port j).crcdrop = _
  rw [drainFlow_only (by rw [hw]) (by rw [hw]; exact hnext)]
  generalize hu : s.modFlow (flowKey x.cls x.src) (fun w => { w with held := w.held ++ [x] }) = u at *
  have h2 := onFlow_modFlow u x.cls x.src (fun w => { w with next := w.next + 1, held := w.held.erase x })
  rw [deliverFlit_bad (s := u.modFlow (flowKey x.cls x.src) (fun w => { w with next := w.next + 1, held := w.held.erase x })) (by rw [← hu]; exact hk) h3 hc]
  obtain ⟨hflows, -, -, hcrc⟩ := sentless_keeps (sentless_respond (u.modFlow (flowKey x.cls x.src) (fun w => { w with next := w.next + 1, held := w.held.erase x })) x [0x06])
  refine ⟨onFlow_congr (onFlow_trans h1 ?_) hflows, fun j => (hcrc j).trans (by rw [← hu]; rfl)⟩
  rw [hw] at h2
  dsimp only at h2
  rw [List.erase_cons_head, ← hheld] at h2
  exact h2

/-! ### The statement -/

theorem flit_transit_rule (s : State) (p : Nat) (x : Flit) (hpass : Passes s x) (h0 : x.typ ≠ 0) (h7 : x.typ.toNat ≤ 7) (h6 : x.typ ≠ 6)
    (hd : x.dest ≠ s.dev.fabric.myid) :
    let e := entryFor s x
    let dp := portFor s x
    let fr : Event := .flitReceive p x
    (x.cls ≠ 2 → e.getLsbD dp = true → Clear s dp → Happens s fr .flitReceive (fun t =>
        (∀ j, t.port j = if j = dp then sentOff (s.port dp) (sendsOut s x dp) else s.port j) ∧ movedTo s x dp t))
    ∧ (x.cls = 2 → (∃ j, j < 16 ∧ e.getLsbD j = true ∧ Clear s j) → (∀ j, j < 16 → e.getLsbD j = true → (s.port j).up = true → Clear s j) →
      Happens s fr .flitReceive (fun t => ∃ j, j < 16 ∧ e.getLsbD j = true ∧ Clear s j ∧ (t.port j).sent = (s.port j).sent ++ [x]
        ∧ (∀ i, i ≠ j → (t.port i).sent = (s.port i).sent)
        ∧ ∀ i, i < 16 → i ≠ j → e.getLsbD i = true → Clear s i →
            (t.port j).used ≤ (t.port i).used + 1 ∧ (i < j → (t.port j).used ≤ (t.port i).used)))
    ∧ ((∀ j, j < 16 → e.getLsbD j = true → (s.port j).up = false) →
      (x.typ ≠ 1 → x.typ ≠ 2 → x.typ ≠ 4 →
        Happens s fr .flitReceive (OnPort s dp { s.port dp with routedrop := satInc (s.port dp).routedrop }))
      ∧ (x.typ = 1 ∨ x.typ = 2 ∨ x.typ = 4 → Happens s fr .flitReceive (fun t =>
          t = (s.modPort dp (fun q => { q with routedrop := satInc q.routedrop })).refuseLost x))) := by
  intro e dp fr
  refine ⟨fun hc he hclear => flit_transit hpass h0 h7 h6 hd ?_, fun hc hex hall => flit_transit hpass h0 h7 h6 hd ?_, fun hnone =>
    ⟨fun n1 n2 n4 => flit_transit hpass h0 h7 h6 hd ?_, fun h124 => flit_transit hpass h0 h7 h6 hd ?_⟩⟩
  · obtain ⟨hsent, hports, hmoved⟩ := routeFlit_ordered p hc he hclear
    rw [tookTransit_sent hsent]
    refine ⟨fun j => (hports j).trans ?_, hmoved⟩
    split_ifs with hj
    · rw [hj]
    · rfl
  · obtain ⟨hsent, hfree⟩ := routeFlit_free p hc hex hall
    rw [tookTransit_sent hsent]
    exact hfree
  · rw [tookTransit_none p hnone, if_neg (fun h => h.elim n1 (fun h => h.elim n2 n4))]
    exact onPort_modPort s (portFor s x) (fun q => { q with routedrop := satInc q.routedrop })
  · rw [tookTransit_none p hnone]
    exact if_pos h124

theorem flit_crc_rule (s : State) (p : Nat) (x : Flit) (hpass : Passes s x) (h0 : x.typ ≠ 0) (h7 : x.typ.toNat ≤ 7)
    (hd : x.dest = s.dev.fabric.myid) (hc : x.crcOk = false) (hp : p < 16) :
    let w := s.dev.fabric.flow (flowKey x.cls x.src)
    let fr : Event := .flitReceive p x
    (x.typ = 7 → Happens s fr .flitReceive (OnPort s p { s.port p with crcdrop := satInc (s.port p).crcdrop }))
    ∧ (x.typ ≠ 3 → x.typ ≠ 6 → x.typ ≠ 7 → x.cls = 2 → x.pkey ≠ 0 → x.pkey ≠ 0xFFFF →
        Happens s fr .flitReceive (fun t => t = (crcCounted s p).respond x [0x06]))
    ∧ (x.typ ≠ 3 → x.typ ≠ 6 → x.typ ≠ 7 → x.cls = 0 → w.held = [] → x.fseq = w.next → x.pkey ≠ 0 → x.pkey ≠ 0xFFFF →
        Happens s fr .flitReceive (fun t => OnFlow s x.cls x.src { w with next := w.next + 1 } t
          ∧ (t.port p).crcdrop = satInc (s.port p).crcdrop)) := by
  intro w fr
  refine ⟨fun ht => flit_local hpass h0 h7 (by rw [ht]; decide) hd ?_, fun n3 n6 n7 hcls _ hF => flit_local hpass h0 h7 n6 hd ?_,
    fun n3 n6 n7 hcls hheld hnext _ hF => flit_local hpass h0 h7 n6 hd ?_⟩ <;> rw [tookLocal_bad hp hc]
  · rw [if_pos ht]
    exact onPort_modPort s p (fun q => { q with crcdrop := satInc q.crcdrop })
  · rw [if_neg n7, if_neg (by rw [hcls]; decide)]
    exact deliverFlit_bad (s := crcCounted s p) (hpass.known hF) n3 hc
  · rw [if_neg n7, if_pos (.inl hcls)]
    obtain ⟨hflow, hcrc⟩ := takeOrdered_bad (s := crcCounted s p) (hpass.known hF) n3 hc hheld hnext
    refine ⟨hflow, (hcrc p).trans ?_⟩
    rw [show (crcCounted s p).port p = { s.port p with crcdrop := satInc (s.port p).crcdrop } from
      (port_modPort s p p (fun q => { q with crcdrop := satInc q.crcdrop })).trans (if_pos rfl)]

theorem cls_ordered {c : BitVec 2} (h : c.toNat < 2) : c = 0 ∨ c = 1 := by
  have h01 : c.toNat = 0 ∨ c.toNat = 1 := by omega
  exact h01.imp (fun h => BitVec.eq_of_toNat_eq h) (fun h => BitVec.eq_of_toNat_eq h)

theorem flit_local_rule (s : State) (p : Nat) (x : Flit) (part : Nat) (hpass : Passes s x) (h0 : x.typ ≠ 0) (h7 : x.typ.toNat ≤ 7) (h6 : x.typ ≠ 6)
    (hd : x.dest = s.dev.fabric.myid) (hc : x.crcOk = true) :
    let w := s.dev.fabric.flow (flowKey x.cls x.src)
    let fr : Event := .flitReceive p x
    (x.typ = 7 → Happens s fr .flitReceive (fun t => t = s.post s.now (.drainMarker x)))
    ∧ (x.typ ≠ 7 → x.cls.toNat < 2 → (∀ y ∈ w.held, y.fseq ≠ w.next) → x.fseq ≠ w.next → (x.fseq - w.next).toNat < 512 →
      Happens s fr .flitReceive (fun t => OnFlow s x.cls x.src { w with held := w.held ++ [x] } t ∧ t.cores = s.cores
        ∧ (∀ b, farByte t b = farByte s b) ∧ t.agenda = s.agenda))
    ∧ (x.typ = 1 → x.cls = 2 → x.pkey ≠ 0 →
        (∃ i, i < 64 ∧ Lists s x.pkey i ∧ (∀ j, j < i → ¬ Lists s x.pkey j) ∧ part = ((sget 0 s.dev.fabric.keys i).extractLsb' 16 2).toNat) →
        s.dev.place x.pa = .hbm → (s.part part).passes x.pa true = true →
      Happens s fr .flitReceive (fun t => t.cores = s.cores ∧ ∀ b, farByte t b =
        if x.pa ≤ b ∧ b < x.pa + x.payload.length then x.payload.getD (b - x.pa) 0 else farByte s b)) := by
  intro w fr
  refine ⟨fun ht => flit_local hpass h0 h7 h6 hd ?_, fun n7 hcls hheld hnext hlt => flit_local hpass h0 h7 h6 hd ?_,
    fun ht hcls hk hlist hplace hfw => flit_local hpass h0 h7 h6 hd ?_⟩ <;> rw [tookLocal_good hc]
  · exact if_pos ht
  · rw [if_neg n7, if_pos (cls_ordered hcls), takeOrdered_held hheld hnext hlt]
    exact ⟨onFlow_modFlow s x.cls x.src (fun w => { w with held := w.held ++ [x] }), rfl, fun _ => rfl, rfl⟩
  · obtain ⟨i, hi, hl, hfirst, hpart⟩ := hlist
    have hkey : s.dev.fabric.keyPart x.pkey = some part := by rw [hpart]; exact keyPart_first hk hi hl hfirst
    rw [if_neg (by rw [ht]; decide), if_neg (by rw [hcls]; decide), deliverFlit_request hkey ht hc]
    exact served_bytes ht hplace hfw

theorem flit_answer_rule (s : State) (p : Nat) (x : Flit) (r : PeerReq) (hk : Known s x.pkey) (hF : x.pkey ≠ 0xFFFF) (ht : x.typ = 3) (hcls : x.cls = 2)
    (hd : x.dest = s.dev.fabric.myid) (hc : x.crcOk = true) (hl : x.payload.length = 5) (hr : s.dev.fabric.reqs = [r]) (hrc : r.cls = 2)
    (hpa : r.pa = x.pa) (hdest : r.dest.toNat = leNat (x.payload.drop 3)) :
    Happens s (.flitReceive p x) .flitReceive (fun t => t.dev.fabric.reqs = [] ∧ t.dev.fabric.answers = s.dev.fabric.answers ++ [⟨r.ev, r.va, [], 0x07⟩]
      ∧ Posts s t (s.now + 1) r.ev) := by
  have hpass : Passes s x := (if_neg hF).mpr hk
  refine flit_local hpass (by rw [ht]; decide) (by rw [ht]; decide) (by rw [ht]; decide) hd ?_
  obtain ⟨part, hp⟩ := keyPart_known hk
  rw [tookLocal_good hc, if_neg (by rw [ht]; decide), if_neg (by rw [hcls]; decide), deliverFlit_response hp ht,
    takeResponse_lost part hl hc hr hcls hrc hpa hdest]
  exact answerReq_only hr [] tPeer

theorem noticeRing_rule (s : State) (p : Nat) (n : Notice) (u : State) (ring : Ring) (hen : (s.part p).nt.en = true) :
    let ev : Event := .noticeReceive (17 + p) n
    (s.ringBusy p n = true → Happens s ev .noticeReceive (fun t => t = s.post (s.now + 120) ev))
    ∧ (s.ringBusy p n = false → s.ringWrite p (s.homeCol p) (s.part p).nt (noticeBytes n) 0 ev = (none, u) →
        Happens s ev .noticeReceive (fun t => t = u))
    ∧ (s.ringBusy p n = false → s.ringWrite p (s.homeCol p) (s.part p).nt (noticeBytes n) 0 ev = (some ring, u) →
        Happens s ev .noticeReceive (fun t => (t.part p).nt = ring ∧ ∀ b, farByte t b = farByte u b)) := by
  intro ev
  have hinto {f : State → Prop} (hf : f (s.noticeInto n p)) : Happens s ev .noticeReceive f := by
    intro he
    refine ⟨_, exec_noticeReceive he, ?_⟩
    rw [if_pos (Nat.le_add_right 17 p), Nat.add_sub_cancel_left]
    exact hf
  refine ⟨fun hb => hinto ?_, fun hb hw => hinto ?_, fun hb hw => hinto ?_⟩
  all_goals
    unfold State.noticeInto
    dsimp only
    rw [hen, if_neg (by decide)]
  · exact if_pos hb
  · rw [if_neg (by rw [hb]; exact Bool.false_ne_true), show noticeStep p n = ev from rfl, hw]
  · rw [if_neg (by rw [hb]; exact Bool.false_ne_true), show noticeStep p n = ev from rfl, hw]
    refine ⟨?_, fun _ => rfl⟩
    rw [part_modPart, if_pos rfl]

theorem noticeReceive_low {s : State} {p : Nat} {n : Notice} (hp : p < 17) {f : State → Prop} (hf : f (s.takeNotice n p)) :
    Happens s (.noticeReceive p n) .noticeReceive f := by
  intro he
  refine ⟨_, exec_noticeReceive he, ?_⟩
  rw [if_neg (Nat.not_le.2 hp)]
  exact hf

/-- Settles O53: the rule of each row, with what a flit on its way leaves alone. -/
theorem fabricSteps : Obligations.FabricSteps := by
  unfold Obligations.FabricSteps
  intro s bank dest v p x cls src fseq n stopped part r m u ring
  refine ⟨fun hb => ⟨exec_hostWrite_off _ hb exec_routingEntry, exec_hostWrite_off _ hb exec_swap, exec_hostWrite_off _ hb exec_pstatClr⟩,
    fun hb => exec_hostWrite_on _ hb exec_routingEntry (writeRoute_spec s (bank % 2 == 1) (dest % 8192) v),
    fun hb hp => exec_hostWrite_on _ hb exec_swap (if_pos hp), fun hb hp => exec_hostWrite_on _ hb exec_swap (writeSwap_starts hp),
    fun he => ⟨_, by rw [← event_eta he]; rfl, rfl⟩,
    fun hb => exec_hostWrite_on _ hb exec_pstatClr (onPort_modPort s (p % 16) (fun q => { q with keydrop := 0, routedrop := 0, crcdrop := 0 })),
    fun hn hp => flit_refused hn ?_, fun hpass ht hp => flit_passes hpass ?_,
    fun hpass h0 h7 h6 hd => ?_, fun hk hF ht hcls hd hc hl hr hrc hpa hdest => flit_answer_rule s p x r hk hF ht hcls hd hc hl hr hrc hpa hdest,
    fun hpass ht hc hp => flit_notice hpass ht ?_, fun hpass ht hc hload hnew hen => flit_notice hpass ht ?_,
    fun hpass h0 h7 hd hc hp => flit_crc_rule s p x hpass h0 h7 hd hc hp, fun hpass h0 h7 h6 hd hc => flit_local_rule s p x part hpass h0 h7 h6 hd hc,
    drainMarker_rule s x,
    ⟨flowLoss_none, flowLoss_other, flowLoss_requests, flowLoss_responses⟩,
    fun hp hq => ⟨linkDown_rule hp hq, linkBack_rule hp hq, retrain_rule hp hq⟩, linkShed_rule s p,
    fun hown he => ⟨_, exec_flowControl he, onPort_released (fun q => { q with stopped := stopped }) (fun _ => rfl) hown⟩,
    fun hown he => ⟨_, exec_portTraining he, onPort_released (fun q => { q with up := true, train := false }) (fun _ => rfl) hown⟩,
    fun j hj hne hq ht he => ⟨_, exec_flowControl he, ?_⟩, fun hp hen => noticeRing_rule s p n u ring hen,
    fun hp hseen => noticeReceive_low hp (takeNotice_seen hseen), fun hp hnew hen => noticeReceive_low hp (takeNotice_new p hnew hen)⟩
  · rw [countAt_port hp]
    exact onPort_modPort s p (fun q => { q with keydrop := satInc q.keydrop })
  · rw [if_pos ht, countAt_port hp]
    exact onPort_modPort s p (fun q => { q with routedrop := satInc q.routedrop })
  · exact flit_transit_rule s p x hpass h0 h7 h6 hd
  · rw [hc, if_neg Bool.false_ne_true, countAt_port hp]
    exact onPort_modPort s p (fun q => { q with crcdrop := satInc q.crcdrop })
  · rw [hc, if_pos rfl, hload, noticeOf_noticeBytes]
    exact takeNotice_new p hnew hen
  · obtain ⟨h1, h2, h3⟩ := releasePort_transit hj hne hq ht
    refine ⟨h1, h2, ?_, ?_⟩
    · rw [h3]; rfl
    · rw [h3]; rfl

end Sys2Proof.Proofs
end

section
/-! PROOFS. The steps of messages and of far space (R24, R178, R184, R185, R187, R189, R191, R211, R257, R271, R355, R357, R358, R379): what
fills a message register, steps put off in their order, the bank's message port, far loads and stores, and what caches and rings take. -/

namespace Sys2Proof.Proofs

open Sys2Proof.Machine Sys2Proof.Safety Sys2Proof.Laws

/-! ### A message register takes what arrives (R24, R187, R379) -/

/-- But for one context every context, and near and far memory and the lines of event units, are as before. -/
def Elsewhere (s : State) (q : Nat × Nat) (t : State) : Prop := (∀ p, p ≠ q → t.ctx p = s.ctx p) ∧ (∀ j b, nearByte t j b = nearByte s j b)
  ∧ (∀ b, farByte t b = farByte s b) ∧ t.lines = s.lines

/-- A register takes `f` of what it held; a context that waits for it goes on, with `v` as the result of TWAIT. -/
def Arrives (s : State) (q : Nat × Nat) (m : MsgReg) (f : Msg → Msg) (v : DWord) (t : State) : Prop := Elsewhere s q t
  ∧ (∀ r, (t.ctx q).msg r = if r = m then f ((s.ctx q).msg m) else (s.ctx q).msg r)
  ∧ ((s.ctx q).run = .gated (.msg m) → (t.ctx q).run = .ready)
  ∧ (∀ d y z, (s.ctx q).run = .gated (.twait d m y z) → d ≠ 0 → (t.ctx q).reg (Machine.tierOf q.1) d = v)
  ∧ ((s.ctx q).run = .running → { t.ctx q with m := [] } = { s.ctx q with m := [] })

theorem elsewhere_only {s t : State} {q : Nat × Nat} (h : OnlyCtx q s t) : Elsewhere s q t := by
  refine ⟨fun p hp => h.ctx hp, h.bytes, fun b => ?_, (congrArg State.lines h.machine :)⟩
  have hfar : t.dev.far = s.dev.far := (congrArg (fun x : State => x.dev.far) h.machine :)
  unfold farByte
  rw [hfar]

/-- A register filled or made fault-full, with the value that a TWAIT for it gives. -/
def land (s : State) (q : Nat × Nat) (m : MsgReg) (f : Msg → Msg) (v : DWord) : State :=
  let s := s.modCtx q (fun x => x.modMsg m f)
  let x := s.ctx q
  match x.run with
  | .gated (.msg m') => if m' = m then s.modCtx q (fun x => { x with run := .ready, readyAt := s.now + cyc q.1 }) else s
  | .gated (.twait d m' _ _) => if m' = m then (s.cancel (.twaitExpiry q.1 q.2)).finish q (scalarAct (Machine.tierOf q.1) x d v) else s
  | _ => s

theorem fillMsg_eq (s : State) (q : Nat × Nat) (m : MsgReg) (data : Line) (reply : Bool) : s.fillMsg q m data reply
    = land s q m (fun r => { r with data := data, full := true, ffull := false, pend := false, arr := r.arr || !reply
                                    last := if reply then r.last else s.now + 1 }) 0 := rfl

theorem faultMsg_eq (s : State) (q : Nat × Nat) (m : MsgReg) (va : BitVec 57) (st : BitVec 8) (reply : Bool) : s.faultMsg q m va st reply
    = land s q m (fun r => { r with full := false, ffull := true, pend := false, va := va, tstat := st, arr := r.arr || !reply
                                    last := if reply then r.last else s.now + 1 }) 2 := rfl

section
variable (s : State) (q : Nat × Nat) (m : MsgReg) (f : Msg → Msg) (v : DWord)

/-- The state with the register filled and nothing else. -/
def put : State := s.modCtx q (fun x => x.modMsg m f)

theorem put_ctx : (put s q m f).ctx q = (s.ctx q).modMsg m f := state_ctx_modCtx_same s q (fun x => x.modMsg m f)

theorem put_run : ((put s q m f).ctx q).run = (s.ctx q).run := by rw [put_ctx]; rfl

theorem land_idle (h1 : ∀ m', (s.ctx q).run ≠ .gated (.msg m')) (h2 : ∀ d m' y z, (s.ctx q).run ≠ .gated (.twait d m' y z)) :
    land s q m f v = put s q m f := by
  rw [← put_run s q m f] at h1 h2
  unfold land
  rw [← put]
  dsimp only
  generalize ((put s q m f).ctx q).run = r at *
  split
  · next m' => exact absurd rfl (h1 m')
  · next d m' y z => exact absurd rfl (h2 d m' y z)
  · rfl

theorem land_msg {m' : MsgReg} (h : (s.ctx q).run = .gated (.msg m')) : land s q m f v
    = if m' = m then (put s q m f).modCtx q (fun x => { x with run := .ready, readyAt := (put s q m f).now + cyc q.1 }) else put s q m f := by
  rw [← put_run s q m f] at h
  unfold land
  rw [← put]
  dsimp only
  rw [h]

theorem land_twait {d : Reg} {m' : MsgReg} {y z : Nat} (h : (s.ctx q).run = .gated (.twait d m' y z)) : land s q m f v
    = if m' = m then ((put s q m f).cancel (.twaitExpiry q.1 q.2)).finish q (scalarAct (Machine.tierOf q.1) ((put s q m f).ctx q) d v)
      else put s q m f := by
  rw [← put_run s q m f] at h
  unfold land
  rw [← put]
  dsimp only
  rw [h]

theorem put_only : OnlyCtx q s (put s q m f) := onlyCtx_modCtx q s (fun x => x.modMsg m f)

theorem put_msg (r : MsgReg) : ((put s q m f).ctx q).msg r = if r = m then f ((s.ctx q).msg m) else (s.ctx q).msg r := by
  rw [put_ctx, msg_modMsg]

variable {s q m f v}

theorem elsewhere_of_put {t : State} (h : Elsewhere (put s q m f) q t) : Elsewhere s q t := by
  obtain ⟨h1, h2, h3, h4⟩ := h
  obtain ⟨g1, g2, g3, g4⟩ := elsewhere_only (put_only s q m f)
  exact ⟨fun p hp => (h1 p hp).trans (g1 p hp), fun j b => (h2 j b).trans (g2 j b), fun b => (h3 b).trans (g3 b), h4.trans g4⟩

variable (s q m f v)

/-- An arrival fills its register whole and wakes its context. -/
theorem arrives_land : Arrives s q m f v (land s q m f v) := by
  have hput : Elsewhere s q (put s q m f) := elsewhere_only (put_only s q m f)
  by_cases h1 : ∃ m', (s.ctx q).run = .gated (.msg m')
  · obtain ⟨m', hr⟩ := h1
    rw [land_msg s q m f v hr]
    by_cases hm : m' = m
    · rw [if_pos hm]
      refine ⟨elsewhere_of_put (elsewhere_only (onlyCtx_modCtx q (put s q m f) _)), fun r => ?_, fun _ => ?_, fun d y z h => ?_, fun h => ?_⟩
      · rw [state_ctx_modCtx_same]
        exact put_msg s q m f r
      · rw [state_ctx_modCtx_same]
      · rw [hr] at h; exact absurd h (by simp)
      · rw [hr] at h; exact absurd h (by simp)
    · rw [if_neg hm]
      refine ⟨hput, put_msg s q m f, fun h => ?_, fun d y z h => ?_, fun h => ?_⟩
      · rw [hr] at h; exact absurd (by simpa using h) hm
      · rw [hr] at h; exact absurd h (by simp)
      · rw [hr] at h; exact absurd h (by simp)
  · by_cases h2 : ∃ d m' y z, (s.ctx q).run = .gated (.twait d m' y z)
    · obtain ⟨d, m', y, z, hr⟩ := h2
      rw [land_twait s q m f v hr]
      by_cases hm : m' = m
      · rw [if_pos hm]
        let u := (put s q m f).cancel (.twaitExpiry q.1 q.2)
        have hru : (u.ctx q).run = .gated (.twait d m' y z) := (put_run s q m f).trans hr
        obtain ⟨⟨hu, hregs, hrest⟩, -, -⟩ := finish_gated (s := u) (d := d) (v := v) hru u.now
        have helse : Elsewhere u q _ := elsewhere_only hu
        refine ⟨elsewhere_of_put (m := m) (f := f) helse, fun r => ?_, fun h => ?_, fun d' y' z' h hd => ?_, fun h => ?_⟩
        · refine Eq.trans ?_ (put_msg s q m f r)
          exact (congrArg (fun x : Ctx => x.msg r) hrest :)
        · rw [hr] at h; exact absurd h (by simp)
        · rw [hr] at h
          simp only [Run.gated.injEq, Wait.twait.injEq] at h
          obtain ⟨rfl, -, -, -⟩ := h
          exact (hregs d).trans (if_pos ⟨rfl, hd⟩)
        · rw [hr] at h; exact absurd h (by simp)
      · rw [if_neg hm]
        refine ⟨hput, put_msg s q m f, fun h => ?_, fun d' y' z' h => ?_, fun h => ?_⟩
        · rw [hr] at h; exact absurd h (by simp)
        · rw [hr] at h
          simp only [Run.gated.injEq, Wait.twait.injEq] at h
          exact absurd h.2.1 hm
        · rw [hr] at h; exact absurd h (by simp)
    · rw [land_idle s q m f v (fun m' h => h1 ⟨m', h⟩) (fun d m' y z h => h2 ⟨d, m', y, z, h⟩)]
      refine ⟨hput, put_msg s q m f, fun h => absurd ⟨m, h⟩ h1, fun d y z h => absurd ⟨d, m, y, z, h⟩ h2, fun _ => ?_⟩
      rw [put_ctx]
      rfl

end

/-- What a step that looks about leaves for an arrival: the cores, far memory and the lines of event units. -/
structure Looks (s t : State) : Prop where
  cores : t.cores = s.cores
  far   : t.dev.far = s.dev.far
  lines : t.lines = s.lines

theorem Looks.core {s t : State} (h : Looks s t) (j : Nat) : t.core j = s.core j := by
  unfold State.core
  rw [h.cores]

theorem Looks.ctx {s t : State} (h : Looks s t) (p : Nat × Nat) : t.ctx p = s.ctx p := by
  unfold State.ctx
  rw [h.core]

theorem Looks.arrives {s t u : State} {q : Nat × Nat} {m : MsgReg} {f : Msg → Msg} {v : DWord} (h : Looks s t) (ha : Arrives t q m f v u) :
    Arrives s q m f v u := by
  obtain ⟨⟨h1, h2, h3, h4⟩, hmsg, hw, ht, hr⟩ := ha
  rw [h.ctx q] at hmsg hw ht hr
  refine ⟨⟨fun p hp => (h1 p hp).trans (h.ctx p), fun j b => (h2 j b).trans ?_, fun b => (h3 b).trans ?_, h4.trans h.lines⟩, hmsg, hw, ht, hr⟩
  · unfold nearByte; rw [h.core j]
  · unfold farByte; rw [h.far]

/-! ### Steps put off in their order (R211) -/

theorem mem_foldl_agendaInsert (x : Due) (l : List Due) : ∀ r : List Due, x ∈ l.foldl (fun l e => agendaInsert e l) r ↔ x ∈ l ∨ x ∈ r := by
  induction l with
  | nil => exact fun r => ⟨.inr, fun h => h.resolve_left List.not_mem_nil⟩
  | cons e l ih =>
    intro r
    rw [List.foldl_cons, ih, mem_agendaInsert, List.mem_cons, or_left_comm, or_assoc]

/-- Moved on, a step keeps its event and comes behind the tick; no step is lost. -/
theorem mem_deferFrom {step : Nat} (hstep : 0 < step) {x : Due} {l : List Due} {lo : Nat} (h : x ∈ deferFrom step lo l) :
    (∃ e ∈ l, x.ev = e.ev) ∧ lo < x.at_ := by
  induction l generalizing lo with
  | nil => exact absurd h List.not_mem_nil
  | cons e l ih =>
    have hlo : lo < (if e.at_ ≤ lo then ceilTo step (lo + 1) else e.at_) := by
      split_ifs with he
      · exact ceilTo_ge hstep
      · omega
    rcases List.mem_cons.1 h with rfl | h
    · exact ⟨⟨e, List.mem_cons_self, rfl⟩, hlo⟩
    · obtain ⟨⟨d, hd, hx⟩, hat⟩ := ih h
      exact ⟨⟨d, List.mem_cons_of_mem _ hd, hx⟩, by omega⟩

theorem deferFrom_mem (step : Nat) {e : Due} {l : List Due} (h : e ∈ l) (lo : Nat) : ∃ x ∈ deferFrom step lo l, x.ev = e.ev := by
  induction l generalizing lo with
  | nil => exact absurd h List.not_mem_nil
  | cons d l ih =>
    rcases List.mem_cons.1 h with rfl | h
    · exact ⟨_, List.mem_cons_self, rfl⟩
    · obtain ⟨x, hx, hev⟩ := ih h (if d.at_ ≤ lo then ceilTo step (lo + 1) else d.at_)
      exact ⟨x, List.mem_cons_of_mem _ hx, hev⟩

/-- A step is put off to a tick, and the steps that must follow it stay behind it. -/
def PutsOff (s : State) (u : Nat) (ev : Event) (later : Event → Prop) (t : State) : Prop := ⟨u, ev⟩ ∈ t.agenda
  ∧ (∀ e ∈ t.agenda, later e.ev → e = ⟨u, ev⟩ ∨ u < e.at_) ∧ (∀ e ∈ s.agenda, ∃ e' ∈ t.agenda, e'.ev = e.ev)
  ∧ { t with agenda := [], lastMsg := [] } = { s with agenda := [], lastMsg := [] }

theorem mem_defer (s : State) (after : Event → Bool) (step u : Nat) (ev : Event) (x : Due) : x ∈ (s.defer after step u ev).agenda
    ↔ x = ⟨u, ev⟩ ∨ x ∈ deferFrom step u (s.agenda.filter (fun e => after e.ev)) ∨ x ∈ s.agenda.filter (fun e => !after e.ev) := by
  show x ∈ (⟨u, ev⟩ :: deferFrom step u _).foldl (fun l e => agendaInsert e l) _ ↔ _
  rw [mem_foldl_agendaInsert, List.mem_cons, or_assoc]

theorem putsOff_defer (s : State) {after : Event → Bool} {later : Event → Prop} (hafter : ∀ e, later e → after e = true) {step : Nat} (hstep : 0 < step)
    (u : Nat) (ev : Event) : PutsOff s u ev later (s.defer after step u ev) := by
  refine ⟨(mem_defer s after step u ev _).2 (.inl rfl), fun e he hl => ?_, fun e he => ?_, rfl⟩
  · rcases (mem_defer s after step u ev e).1 he with h | h | h
    · exact .inl h
    · exact .inr (mem_deferFrom hstep h).2
    · have := (List.mem_filter.1 h).2
      rw [hafter _ hl] at this
      exact absurd this (by decide)
  · cases ha : after e.ev
    · exact ⟨e, (mem_defer s after step u ev e).2 (.inr (.inr (List.mem_filter.2 ⟨he, by rw [ha]; rfl⟩))), rfl⟩
    · obtain ⟨x, hx, hev⟩ := deferFrom_mem step (List.mem_filter (p := fun e : Due => after e.ev).2 ⟨he, ha⟩) u
      exact ⟨x, (mem_defer s after step u ev x).2 (.inr (.inl hx)), hev⟩

theorem putsOff_holdMessage (s : State) (src dst : Nat) (timed : Bool) (u : Nat) (ev : Event) :
    PutsOff s u ev (fun e => Event.isLater src dst timed s.now e = true) (s.holdMessage src dst timed u ev) := by
  have h := putsOff_defer s (after := Event.isLater src dst timed s.now) (later := fun e => Event.isLater src dst timed s.now e = true)
    (fun _ h => h) (cyc_pos dst) u ev
  unfold State.holdMessage
  dsimp only
  split_ifs
  · exact h
  · exact h

/-- Another far access of the same context to the same line that has not been performed. -/
def SameLine (s : State) (ev e : Event) : Prop := Event.lineAccess e = Event.lineAccess ev ∧ ∀ a ∈ s.dev.fabric.answers, a.ev ≠ e

theorem putsOff_putOff (s : State) {a : (Nat × Nat) × Nat} {ev : Event} (h : Event.lineAccess ev = some a) (u : Nat) :
    PutsOff s u ev (SameLine s ev) (s.putOff u ev) := by
  unfold State.putOff
  rw [h]
  refine putsOff_defer s (fun e he => ?_) (cyc_pos a.1.1) u ev
  obtain ⟨hl, hans⟩ := he
  rw [Bool.and_eq_true, beq_iff_eq, hl, h, Bool.not_eq_true', List.any_eq_false]
  exact ⟨rfl, fun x hx => by rw [beq_iff_eq]; exact hans x hx⟩

/-! ### Arrivals, replies -/

section
variable {s : State} {k c : Nat} {m : MsgReg} {data : Line} {src sctx n : Nat} {timed : Bool} {reply : Option Line}

theorem exec_messageArrival (he : s.event = some (.messageArrival k c m data src sctx timed)) : exec .messageArrival s
    = .next ((s.earlierMsgb src k timed).elim (s.fillMsg (k, c) m data false)
      (fun t => s.holdMessage src k timed (t + cyc k) (.messageArrival k c m data src sctx timed))) := by
  show execMessageArrival s = _
  unfold execMessageArrival
  rw [he]
  show Host.Outcome.next _ = Host.Outcome.next _
  cases s.earlierMsgb src k timed with
  | none => rfl
  | some t => rfl

theorem exec_engineMessage (he : s.event = some (.engineMessageArrival k c m data)) : exec .engineMessageArrival s
    = .next (s.fillMsg (k, c) m data false) := by rw [← event_eta he]; rfl

theorem exec_mgetReply (he : s.event = some (.mgetReply k c m reply n)) : exec .mgetReply s
    = .next (if ((s.ctx (k, c)).msg m).cleared ≠ n then s
      else reply.elim (s.faultMsg (k, c) m 0 0x06 false) (fun data => s.fillMsg (k, c) m data false)) := by
  show execMgetReply s = _
  unfold execMgetReply
  rw [he]
  show Host.Outcome.next _ = Host.Outcome.next _
  cases reply with
  | none => rfl
  | some t => rfl

/-- What a message makes of its register. -/
def filled (now : Nat) (data : Line) (r : Msg) : Msg := { r with data := data, full := true, ffull := false, pend := false, arr := true, last := now + 1 }

theorem fills_fillMsg (s : State) (q : Nat × Nat) (m : MsgReg) (data : Line) : Arrives s q m (filled s.now data) 0 (s.fillMsg q m data false) := by
  have hf : (fun r : Msg => { r with
      data := data, full := true, ffull := false, pend := false, arr := r.arr || !false
      last := if false then r.last else s.now + 1 }) = filled s.now data := by
    funext r
    unfold filled
    rw [Bool.not_false, Bool.or_true]
    rfl
  rw [fillMsg_eq, hf]
  exact arrives_land s q m _ 0

theorem mgetReply_fault (s : State) (q : Nat × Nat) (m : MsgReg) : Arrives s q m (fun r =>
    { r with full := false, ffull := true, pend := false, va := 0, tstat := 0x06, arr := true, last := s.now + 1 }) 2 (s.faultMsg q m 0 0x06 false) := by
  have hf : (fun r : Msg => { r with
      full := false, ffull := true, pend := false, va := (0 : BitVec 57), tstat := (0x06 : BitVec 8), arr := r.arr || !false
      last := if false then r.last else s.now + 1 })
      = fun r => { r with full := false, ffull := true, pend := false, va := 0, tstat := 0x06, arr := true, last := s.now + 1 } := by
    funext r
    rw [Bool.not_false, Bool.or_true]
    rfl
  rw [faultMsg_eq, hf]
  exact arrives_land s q m _ 2

end

/-! ### The bank's message port (R178, R357, R358) -/

/-- Nothing of a core is due. -/
def NoneDue (s : State) (j : Nat) : Prop := ∀ p ∈ (s.core j).pend, s.now < p.due

theorem settle_noneDue {s : State} {j : Nat} (h : NoneDue s j) : s.settle j s.now = s :=
  settle_idle s j s.now (fun p hp => h p (List.mem_of_mem_head? hp))

/-- A core whose port has served. -/
def portUsed (now : Nat) (c : Core) : Core := { c with ctl := { c.ctl with msgPort := now + 1 } }

theorem portServed_core (s : State) (home j : Nat) : (s.portServed home).core j = if j = home then portUsed s.now (s.core j) else s.core j := by
  by_cases hj : j = home
  · subst hj
    exact (core_modCore_same _ _ _).trans (if_pos rfl).symm
  · exact (core_modCore_other _ _ (Ne.symm hj)).trans (if_neg hj).symm

theorem portServed_rest (s : State) (home j : Nat) : ((s.portServed home).core j).near = (s.core j).near
    ∧ ((s.portServed home).core j).poison = (s.core j).poison ∧ ∀ i, ((s.portServed home).core j).ctx i = (s.core j).ctx i := by
  rw [portServed_core]
  split_ifs
  · exact ⟨rfl, rfl, fun _ => rfl⟩
  · exact ⟨rfl, rfl, fun _ => rfl⟩

theorem badIn_congr {c d : Core} (h : c.poison = d.poison) (a n : Nat) : c.badIn a n = d.badIn a n := by
  unfold Core.badIn Core.bad
  rw [h]

theorem badIn_clean {s : State} {k a n : Nat} (h : ∀ w, a / 4 ≤ w → 4 * w < a + n → sget 0 (s.core k).poison w = 0 ∨ sget 0 (s.core k).poison w = 2) :
    (s.core k).badIn a n = none :=
  badIn_eq_none (s := { s with cur := (k, 0) }) (fun w h1 h2 hb => (h w h1 h2).elim hb.1 hb.2)

theorem badIn_isSome {c : Core} {a n w : Nat} (h1 : a / 4 ≤ w) (h2 : 4 * w < a + n) (hb : (sget 0 c.poison w).getLsbD 0 = true) :
    (c.badIn a n).isSome = true := by
  unfold Core.badIn
  rw [List.find?_isSome]
  refine ⟨4 * w, List.mem_map.2 ⟨w - a / 4, List.mem_range.2 (by omega), by omega⟩, ?_⟩
  unfold Core.bad
  rw [Nat.mul_div_cancel_left w (by decide : 0 < 4)]
  exact hb

/-- What the port reads: 64 bytes, or none where a word is uncorrectable. -/
def portReply (c : Core) (addr : Nat) : Option Line := if (c.badIn addr 64).isSome then none else some (bytesLine (c.readN addr 64))

section
variable {s : State} {home addr k c n src sctx first : Nat} {m : MsgReg} {timed short : Bool} {data : Line}

theorem exec_portRead (he : s.event = some (.mgetPortRead home addr k c m timed first n)) : exec .mgetPortRead s = .next (
    if s.portBusy home (portKey k timed) first then s.post (s.now + cyc home) (.mgetPortRead home addr k c m timed first n)
    else
      let s := ((s.settle home s.now).portServed home).correct home addr 64
      (s.travel home k (s.now + Config.bankLatency (Machine.tierOf home) * cyc home) timed).2.post
        (s.travel home k (s.now + Config.bankLatency (Machine.tierOf home) * cyc home) timed).1
        (.mgetReply k c m (portReply (s.core home) addr) n)) := by rw [← event_eta he]; rfl

theorem exec_portWrite (he : s.event = some (.msgbPortWrite home addr data short src sctx timed first)) : exec .msgbPortWrite s = .next (
    if s.portBusy home (portKey src timed) first then s.post (s.now + cyc home) (.msgbPortWrite home addr data short src sctx timed first)
    else (s.portServed home).portStore (.ctx src sctx first) home 1 addr ((lineBytes data).take (if short then 8 else 64)) []) := by
  rw [← event_eta he]; rfl

theorem portRead_busy (h : s.portBusy home (portKey k timed) first = true) :
    Happens s (.mgetPortRead home addr k c m timed first n) .mgetPortRead (fun t =>
      t = s.post (s.now + cyc home) (.mgetPortRead home addr k c m timed first n)) :=
  fun he => ⟨_, exec_portRead he, if_pos h⟩

theorem portWrite_busy (h : s.portBusy home (portKey src timed) first = true) :
    Happens s (.msgbPortWrite home addr data short src sctx timed first) .msgbPortWrite (fun t =>
      t = s.post (s.now + cyc home) (.msgbPortWrite home addr data short src sctx timed first)) :=
  fun he => ⟨_, exec_portWrite he, if_pos h⟩

/-- A request served at the port of a bank: the reply leaves after the bank's latency. -/
theorem portRead_served (hbusy : s.portBusy home (portKey k timed) first = false) (hquiet : NoneDue s home) :
    Happens s (.mgetPortRead home addr k c m timed first n) .mgetPortRead (fun t =>
        (t.core home).ctl.msgPort = s.now + 1 ∧ (∀ j b, nearByte t j b = nearByte s j b) ∧ (∀ p, t.ctx p = s.ctx p)
        ∧ ∃ arr, s.now + Config.bankLatency (Machine.tierOf home) * cyc home ≤ arr ∧ ∃ r, Posts s t arr (.mgetReply k c m r n)
          ∧ ((∀ w, addr / 4 ≤ w → 4 * w < addr + 64 → sget 0 (s.core home).poison w = 0 ∨ sget 0 (s.core home).poison w = 2) →
              r = some (BitVec.ofNat 512 (coreNat s home addr 64)))
          ∧ ((∃ w, addr / 4 ≤ w ∧ 4 * w < addr + 64 ∧ (sget 0 (s.core home).poison w).getLsbD 0 = true) → r = none)) := by
  intro he
  refine ⟨_, exec_portRead he, ?_⟩
  rw [if_neg (by rw [hbusy]; exact Bool.false_ne_true), settle_noneDue hquiet]
  dsimp only
  generalize hv : (s.portServed home).correct home addr 64 = v
  have hcore (j : Nat) : v.core j = (s.portServed home).core j := by rw [← hv]; exact count_core _ _ _ _
  have hnow : v.now = s.now := by rw [← hv]; exact count_now _ _ _
  have hagenda : v.agenda = s.agenda := by rw [← hv]; exact count_agenda _ _ _
  obtain ⟨arr, mesh, f, htravel, harr⟩ := travel_spec (s := v) (src := home) (dst := k) (timed := timed)
    (v.now + Config.bankLatency (Machine.tierOf home) * cyc home)
  have hle : s.now + Config.bankLatency (Machine.tierOf home) * cyc home ≤ arr := by
    rw [hnow] at harr
    refine Nat.le_trans ?_ harr
    have h1 := Nat.div_add_mod (s.now + Config.bankLatency (Machine.tierOf home) * cyc home) (cyc home)
    have h2 := Nat.mod_lt (s.now + Config.bankLatency (Machine.tierOf home) * cyc home) (cyc_pos home)
    have h3 : 4 * cyc home ≤ meshLatency home k * cyc home := Nat.mul_le_mul_right _ (by unfold meshLatency; dsimp only; omega)
    rw [Nat.mul_comm] at h1
    rw [Nat.add_mul]
    omega
  rw [htravel]
  obtain ⟨hnear, hpoison, -⟩ := portServed_rest s home home
  have hreply : portReply (v.core home) addr = portReply (s.core home) addr := by
    unfold portReply Core.readN
    rw [hcore, hnear, badIn_congr hpoison]
  rw [hreply]
  refine ⟨?_, fun j b => ?_, fun p => ?_, arr, hle, portReply (s.core home) addr, ?_, fun hclean => ?_, fun hbad => ?_⟩
  · show (v.core home).ctl.msgPort = _
    rw [hcore, portServed_core, if_pos rfl]
    rfl
  · show sget 0 (v.core j).near b = _
    rw [hcore, (portServed_rest s home j).1]
    rfl
  · show (v.core p.1).ctx p.2 = _
    rw [hcore, (portServed_rest s home p.1).2.2]
    rfl
  · unfold Posts
    rw [← hagenda]
    rfl
  · unfold portReply bytesLine Core.readN
    rw [badIn_clean hclean, readBytes_eq_map]
    rfl
  · obtain ⟨w, h1, h2, hb⟩ := hbad
    unfold portReply
    rw [badIn_isSome h1 h2 hb]
    rfl

/-- The write that a message port puts under way. -/
def portPend (now addr : Nat) (bs : List Byte) (w : Writer) : Pend := ⟨now, 4, .port ⟨1, addr, bs, [], false, w⟩⟩

theorem portStore_core (s : State) (w : Writer) (home addr : Nat) (bs : List Byte) (j : Nat) :
    (s.portStore w home 1 addr bs []).core j
      = if j = home then { s.core j with pend := pendInsert (portPend s.now addr bs w) (s.core j).pend } else s.core j := by
  by_cases hj : j = home
  · subst hj
    exact (core_modCore_same _ _ _).trans (if_pos rfl).symm
  · exact (core_modCore_other _ _ (Ne.symm hj)).trans (if_neg hj).symm

theorem pendInsert_first {e : Pend} {l : List Pend} (h : ∀ p ∈ l, e.due < p.due) : pendInsert e l = e :: l := by
  cases l with
  | nil => rfl
  | cons p l => exact if_pos (.inl (h p List.mem_cons_self))

/-- A port's write that alone is due takes effect, and nothing else (R179). -/
theorem settle_portWrite {t : State} {home now addr : Nat} {bs : List Byte} {w : Writer} {r : List Pend}
    (hp : (t.core home).pend = portPend now addr bs w :: r) (hr : ∀ p ∈ r, now < p.due) (hrmw : (t.core home).ctl.rmw = [])
    (hmon : ∀ j, j < 4 → ((t.core home).ctx j).monitor = none) : ((t.settle home now).core home).near = writeBytes (t.core home).near addr bs := by
  let u := (t.modCore home (fun c => { c with pend := r })).modCore home (fun c => c.portWrite addr bs)
  have happly : State.applyPend (t.modCore home (fun c => { c with pend := r })) home (portPend now addr bs w) = u := by
    have hw (c : Core) (hc : c.ctl.rmw = []) : c.writeBy (Machine.tierOf home) now none ⟨1, addr, bs, [], false, w⟩ = c.portWrite addr bs := by
      unfold Core.writeBy
      rw [hc]
      rfl
    show (t.modCore home (fun c => { c with pend := r })).modCore home (fun c => c.writeBy (Machine.tierOf home) now none ⟨1, addr, bs, [], false, w⟩) = u
    show State.setCore _ _ _ = State.setCore _ _ _
    congr 1
    refine hw _ ?_
    rw [core_modCore_same]
    exact hrmw
  have hucore : u.core home = ({ t.core home with pend := r } : Core).portWrite addr bs := by
    show (State.modCore _ _ _).core home = _
    rw [core_modCore_same, core_modCore_same]
  have hstop : u.settleN home now (fun _ => true) (2 * (r.length + 1) + 63) = u := by
    have hupend : (u.core home).pend = r := by rw [hucore]; rfl
    rw [State.settleN, hupend]
    cases r with
    | nil => rfl
    | cons p r => exact if_neg (fun h => absurd h.1 (Nat.not_le.2 (hr p List.mem_cons_self)))
  have hn : t.settleN home now (fun _ => true) (2 * (r.length + 1) + 64) = u := by
    rw [show 2 * (r.length + 1) + 64 = (2 * (r.length + 1) + 63) + 1 from rfl, State.settleN, hp]
    show (if now ≤ now ∧ true = true then _ else _) = u
    rw [if_pos ⟨Nat.le_refl _, rfl⟩, happly, hstop]
  have humon : ∀ j, j < 4 → ((u.core home).ctx j).monitor = none := fun j hj => by rw [hucore]; exact hmon j hj
  have heq : t.settle home now = u := by
    unfold State.settle
    rw [hp]
    show (if now ≤ now then _ else _) = u
    rw [if_pos (Nat.le_refl _), List.length_cons, hn, checkMonitors_unwatched humon]
  rw [heq, hucore]
  rfl

theorem taken_bytes (data : Line) (short : Bool) : (lineBytes data).take (if short then 8 else 64)
    = (List.range (if short then 8 else 64)).map (fun i => data.extractLsb' (8 * i) 8) := by
  unfold lineBytes
  rw [leBytes_toNat, ← List.map_take, List.take_range]
  cases short <;> rfl

theorem portWrite_served (hbusy : s.portBusy home (portKey src timed) first = false) :
    Happens s (.msgbPortWrite home addr data short src sctx timed first) .msgbPortWrite (fun t =>
        (t.core home).ctl.msgPort = s.now + 1 ∧ (∀ j, j ≠ home → t.core j = s.core j) ∧ (∀ b, nearByte t home b = nearByte s home b)
        ∧ (NoneDue s home → (s.core home).ctl.rmw = [] → (∀ j, j < 4 → ((s.core home).ctx j).monitor = none) → ∀ b,
          nearByte (t.settle home s.now) home b =
            if addr ≤ b ∧ b < addr + (if short then 8 else 64) then data.extractLsb' (8 * (b - addr)) 8 else nearByte s home b)) := by
  intro he
  refine ⟨_, exec_portWrite he, ?_⟩
  rw [if_neg (c := s.portBusy home (portKey src timed) first = true) (by rw [hbusy]; exact Bool.false_ne_true), taken_bytes]
  generalize hn : (if short then 8 else 64) = n
  let bs := (List.range n).map (fun i => data.extractLsb' (8 * i) 8)
  let t := (s.portServed home).portStore (.ctx src sctx first) home 1 addr bs []
  have hcore (j : Nat) (hj : j ≠ home) : t.core j = s.core j := by
    show (State.portStore _ _ _ _ _ _ _).core j = _
    rw [portStore_core, if_neg hj, portServed_core, if_neg hj]
  have hhome : t.core home = { portUsed s.now (s.core home) with
      pend := pendInsert (portPend s.now addr bs (.ctx src sctx first)) (s.core home).pend } := by
    show (State.portStore _ _ _ _ _ _ _).core home = _
    rw [portStore_core, if_pos rfl, portServed_core, if_pos rfl]
    rfl
  refine ⟨by rw [hhome]; rfl, hcore, fun b => ?_, fun hquiet hrmw hmon b => ?_⟩
  · unfold nearByte
    rw [hhome]
    rfl
  · have hpend : (t.core home).pend = portPend s.now addr bs (.ctx src sctx first) :: (s.core home).pend := by
      rw [hhome]
      exact pendInsert_first hquiet
    have hnear := settle_portWrite hpend hquiet (by rw [hhome]; exact hrmw) (fun j hj => by rw [hhome]; exact hmon j hj)
    unfold nearByte
    rw [hnear, hhome]
    refine (sget_writeBytes (s.core home).near addr b bs).trans ?_
    simp only [bs, List.length_map, List.length_range]
    split_ifs with h
    · rw [List.getD_eq_getElem _ _ (by simp; omega), List.getElem_map, List.getElem_range]
    · rfl

end

end Sys2Proof.Proofs
end

section
/-! PROOFS. Far loads and stores, what the translation caches and the staging of flash take, and a record drained into its ring (R184, R185,
R187, R189, R191, R257). -/

namespace Sys2Proof.Proofs

open Sys2Proof.Machine Sys2Proof.Safety Sys2Proof.Laws

/-! ### Far space: what a translation leaves alone, and one line read or written -/

/-- A state without its agenda and the number of its next free value. -/
def ahead (s : State) : State := { s with agenda := [], fresh := 0 }

theorem ahead_translateFor (s : State) (part col va : Nat) (read write : Bool) : ahead (s.translateFor part col va read write).2 = ahead s := by
  unfold State.translateFor
  generalize (2 : Nat) ^ 57 = lim
  generalize (2 : Nat) ^ 52 = top
  by_cases hva : lim ≤ va
  · rw [if_pos hva]
  · rw [if_neg hva]
    generalize s.findXlat part col va = r
    cases r with
    | error t => rfl
    | ok xm =>
      obtain ⟨x, miss⟩ := xm
      dsimp only
      have hu : ahead (if miss = true then (if miss = true then s.draw 0 else (0, s)).2.post
          ((if miss = true then s.draw 0 else (0, s)).2.walkerFree col + (if miss = true then s.draw 0 else (0, s)).1)
          (.translationWalk part col (BitVec.ofNat 64 va)) else s) = ahead s := by
        cases miss <;> rfl
      generalize (if miss = true then (if miss = true then s.draw 0 else (0, s)).2.post
          ((if miss = true then s.draw 0 else (0, s)).2.walkerFree col + (if miss = true then s.draw 0 else (0, s)).1)
          (.translationWalk part col (BitVec.ofNat 64 va)) else s) = u at hu ⊢
      generalize x.pbase + (va - x.base) = pa
      generalize (if read = true then u.physOk part pa false else none) = p
      generalize (if write = true then u.physOk part pa true else none) = q
      by_cases h1 : top ≤ pa
      · rw [if_pos h1]
        exact hu
      · by_cases h2 : read = true ∧ (!x.r) = true
        · rw [if_neg h1, if_pos h2]
          exact hu
        · by_cases h3 : write = true ∧ (!x.w) = true
          · rw [if_neg h1, if_neg h2, if_pos h3]
            exact hu
          · rw [if_neg h1, if_neg h2, if_neg h3]
            cases p with
            | some t => exact hu
            | none =>
              cases q with
              | none => exact hu
              | some t =>
                by_cases h4 : read = true ∧ t = tNoWrite
                · exact (congrArg (fun r : Except (BitVec 8) Nat × State => ahead r.2) (if_pos h4)).trans hu
                · exact (congrArg (fun r : Except (BitVec 8) Nat × State => ahead r.2) (if_neg h4)).trans hu

theorem ahead_translate (s : State) (part col va : Nat) (write : Bool) : ahead (s.translate part col va write).2 = ahead s :=
  ahead_translateFor s part col va (!write) write

theorem linePieces_line {va : Nat} (h : va % 64 = 0) : linePieces va 64 64 = [(va, 64)] := by
  rw [show linePieces va 64 64 = (va, min 64 (64 - va % 64)) :: linePieces (va + min 64 (64 - va % 64)) 63 (64 - min 64 (64 - va % 64)) from rfl, h]
  rfl

theorem linePieces_record {va : Nat} (h : va % 64 + 32 ≤ 64) : linePieces va 32 32 = [(va, 32)] := by
  rw [show linePieces va 32 32 = (va, min 32 (64 - va % 64)) :: linePieces (va + min 32 (64 - va % 64)) 31 (32 - min 32 (64 - va % 64)) from rfl,
    show min 32 (64 - va % 64) = 32 by omega]
  rfl

section
variable {s u : State} {part col va pa n : Nat} {cls : BitVec 2} {ev : Event} {bs : List Byte} {st : BitVec 8}

/-- Bytes of HBM without an error; the place is made a variable before anything is reduced, as for `physOk_hbm_of`. -/
theorem readPhys_hbm_of {f : State → Nat → Nat → Except (BitVec 8) (List Byte) × State} (hf : f = State.readPhys) (hp : s.dev.place pa = .hbm)
    (hb : s.dev.badFar pa n = false) : f s pa n = (.ok (s.dev.readFar pa n), s) := by
  delta State.readPhys at hf
  rw [hf]
  beta_reduce
  generalize s.dev.place pa = pl at hp ⊢
  subst hp
  dsimp only
  rw [hb]
  exact if_neg Bool.false_ne_true

theorem readPiece_hbm_of {f : State → Nat → Nat → Nat → Nat → BitVec 2 → Event → FarRes (List Byte) × State} (hf : f = State.readPiece)
    (hask : s.dev.fabric.asked ev va = none) (ht : s.translate part col va false = (.ok pa, u)) (hp : u.dev.place pa = .hbm)
    (hr : u.readPhys pa n = (.ok bs, u)) : f s part col va n cls ev = (.ok bs, u) := by
  delta State.readPiece at hf
  rw [hf]
  beta_reduce
  rw [hask, ht]
  obtain ⟨place, hplace⟩ : ∃ f : Dev → Nat → Place, Dev.place = f := ⟨_, rfl⟩
  obtain ⟨read, hread⟩ : ∃ f : State → Nat → Nat → Except (BitVec 8) (List Byte) × State, State.readPhys = f := ⟨_, rfl⟩
  rw [hplace] at hp ⊢
  rw [hread] at hr ⊢
  dsimp only
  rw [hp]
  dsimp only
  rw [hr]

theorem readPiece_fault_of {f : State → Nat → Nat → Nat → Nat → BitVec 2 → Event → FarRes (List Byte) × State} (hf : f = State.readPiece)
    (hask : s.dev.fabric.asked ev va = none) (ht : s.translate part col va false = (.error st, u)) : f s part col va n cls ev = (.fault st, u) := by
  delta State.readPiece at hf
  rw [hf]
  beta_reduce
  rw [hask, ht]

theorem writePiece_hbm_of {f : State → Nat → Nat → Nat → List Byte → BitVec 2 → Event → FarRes Unit × State} (hf : f = State.writePiece)
    (hask : s.dev.fabric.asked ev va = none) (ht : s.translate part col va true = (.ok pa, u)) (hp : u.dev.place pa = .hbm) :
    f s part col va bs cls ev = (.ok (), u.writePhys pa bs) := by
  delta State.writePiece at hf
  rw [hf]
  beta_reduce
  rw [hask, ht]
  obtain ⟨place, hplace⟩ : ∃ f : Dev → Nat → Place, Dev.place = f := ⟨_, rfl⟩
  rw [hplace] at hp ⊢
  dsimp only
  rw [hp]

theorem writePiece_fault_of {f : State → Nat → Nat → Nat → List Byte → BitVec 2 → Event → FarRes Unit × State} (hf : f = State.writePiece)
    (hask : s.dev.fabric.asked ev va = none) (ht : s.translate part col va true = (.error st, u)) :
    f s part col va bs cls ev = (.fault st, u) := by
  delta State.writePiece at hf
  rw [hf]
  beta_reduce
  rw [hask, ht]

theorem dev_translate {r : Except (BitVec 8) Nat} {write : Bool} (ht : s.translate part col va write = (r, u)) : u.dev = s.dev := by
  have h := ahead_translate s part col va write
  rw [ht] at h
  exact (congrArg State.dev h :)

theorem readPieces_single {x : FarRes (List Byte)} (h : s.readPiece part col va n cls ev = (x, u)) :
    s.readPieces part col cls ev [(va, n)] = (x, u) := by
  show (match s.readPiece part col va n cls ev with
    | (.ok bs, s) => (match s.readPieces part col cls ev [] with
      | (.ok rest, s) => (FarRes.ok (bs ++ rest), s)
      | x => x)
    | x => x) = _
  rw [h]
  cases x with
  | ok bs => exact congrArg (fun l => (FarRes.ok l, u)) (List.append_nil bs)
  | fault t => rfl
  | wait => rfl

theorem farRead_line (hask : s.dev.fabric.asked ev va = none) (h : va % 64 = 0) (ht : s.translate part col va false = (.ok pa, u))
    (hp : s.dev.place pa = .hbm) (hb : s.dev.badFar pa 64 = false) : s.farRead part col va 64 cls ev = (.ok (s.dev.readFar pa 64), u) := by
  have hdev := dev_translate ht
  unfold State.farRead
  rw [linePieces_line h]
  rw [← hdev] at hp hb ⊢
  exact readPieces_single (readPiece_hbm_of rfl hask ht hp (readPhys_hbm_of rfl hp hb))

theorem farRead_fault (hask : s.dev.fabric.asked ev va = none) (h : va % 64 = 0) (ht : s.translate part col va false = (.error st, u)) :
    s.farRead part col va 64 cls ev = (.fault st, u) := by
  unfold State.farRead
  rw [linePieces_line h]
  exact readPieces_single (readPiece_fault_of rfl hask ht)

theorem writePieces_ok (h : s.writePiece part col va (bs.take n) cls ev = (.ok (), u)) : s.writePieces part col bs cls ev [(va, n)] = (.ok (), u) := by
  show (match s.writePiece part col va (bs.take n) cls ev with
    | (.ok (), s) => s.writePieces part col (bs.drop n) cls ev []
    | x => x) = _
  rw [h]
  rfl

theorem writePieces_fault (h : s.writePiece part col va (bs.take n) cls ev = (.fault st, u)) :
    s.writePieces part col bs cls ev [(va, n)] = (.fault st, u) := by
  show (match s.writePiece part col va (bs.take n) cls ev with
    | (.ok (), s) => s.writePieces part col (bs.drop n) cls ev []
    | x => x) = _
  rw [h]

theorem farWrite_single (hask : s.dev.fabric.asked ev va = none) (h : linePieces va bs.length bs.length = [(va, bs.length)])
    (ht : s.translate part col va true = (.ok pa, u)) (hp : s.dev.place pa = .hbm) :
    s.farWrite part col va bs cls ev = (.ok (), u.writePhys pa bs) := by
  rw [← dev_translate ht] at hp
  unfold State.farWrite
  rw [h]
  refine writePieces_ok ?_
  rw [List.take_length]
  exact writePiece_hbm_of rfl hask ht hp

theorem farWrite_fault (hask : s.dev.fabric.asked ev va = none) (h : linePieces va bs.length bs.length = [(va, bs.length)])
    (ht : s.translate part col va true = (.error st, u)) : s.farWrite part col va bs cls ev = (.fault st, u) := by
  unfold State.farWrite
  rw [h]
  exact writePieces_fault (writePiece_fault_of rfl hask ht)

end

/-! ### Loads and stores of far space (R187, R189, R211) -/

theorem Looks.trans {s t u : State} (h : Looks s t) (g : Looks t u) : Looks s u :=
  ⟨g.cores.trans h.cores, g.far.trans h.far, g.lines.trans h.lines⟩

theorem looks_of_ahead {s t : State} (h : ahead t = ahead s) : Looks s t :=
  ⟨(congrArg State.cores h :), (congrArg (fun x : State => x.dev.far) h :), (congrArg State.lines h :)⟩

theorem looks_forget (s : State) (ev : Event) : Looks s (s.forget ev) := ⟨rfl, rfl, rfl⟩

section
variable {s u : State} {k c n pa : Nat} {m : MsgReg} {va : DWord} {tag : BitVec 16} {epoch : BitVec 4} {st : BitVec 8} {data : Line}

theorem ahead_of_translate {part col v : Nat} {write : Bool} {r : Except (BitVec 8) Nat} (ht : s.translate part col v write = (r, u)) :
    ahead u = ahead s := by
  have h := ahead_translate s part col v write
  rwa [ht] at h

/-- What an answer to a far load does: a context whose peer has not answered waits on. -/
def loaded (q : Nat × Nat) (m : MsgReg) (va : DWord) (ev : Event) : FarRes (List Byte) × State → State
  | (.wait, s) => s
  | (.ok bs, s) => (s.forget ev).fillMsg q m (bytesLine bs) true
  | (.fault t, s) => (s.forget ev).faultMsg q m (va.setWidth 57) t true

theorem exec_ldxReply (he : s.event = some (.ldxReply k c m va tag epoch)) : exec .ldxReply s
    = .next (if ((s.ctx (k, c)).msg m).tag ≠ tag ∨ (s.part (s.partOf k)).epoch ≠ epoch then s
      else if s.now % cyc k ≠ 0 then s.post (ceilTo (cyc k) s.now) (.ldxReply k c m va tag epoch)
      else if s.lineBusy (k, c) va.toNat (.ldxReply k c m va tag epoch) then s.putOff (s.now + cyc k) (.ldxReply k c m va tag epoch)
      else loaded (k, c) m va (.ldxReply k c m va tag epoch)
        (s.farRead (s.partOf k) (columnOf k) va.toNat 64 0 (.ldxReply k c m va tag epoch))) := by
  rw [← event_eta he]
  rfl

theorem ldxReply_due (htag : ((s.ctx (k, c)).msg m).tag = tag) (hep : (s.part (s.partOf k)).epoch = epoch) (hnow : s.now % cyc k = 0)
    (hbusy : s.lineBusy (k, c) va.toNat (.ldxReply k c m va tag epoch) = false) {x : FarRes (List Byte) × State}
    (hx : s.farRead (s.partOf k) (columnOf k) va.toNat 64 0 (.ldxReply k c m va tag epoch) = x)
    (he : s.event = some (.ldxReply k c m va tag epoch)) :
    exec .ldxReply s = .next (loaded (k, c) m va (.ldxReply k c m va tag epoch) x) := by
  rw [exec_ldxReply he, hx, if_neg (fun h => h.elim (fun h => h htag) (fun h => h hep)), if_neg (fun h => h hnow),
    if_neg (by rw [hbusy]; exact Bool.false_ne_true)]

theorem arrives_loaded (h : Looks s u) (ev : Event) (bs : List Byte) : Arrives s (k, c) m
    (fun r => { r with data := bytesLine bs, full := true, ffull := false, pend := false }) 0 (loaded (k, c) m va ev (.ok bs, u)) := by
  refine (h.trans (looks_forget u ev)).arrives ?_
  show Arrives _ _ _ _ _ (State.fillMsg _ _ _ _ _)
  have hf : (fun r : Msg => { r with
      data := bytesLine bs, full := true, ffull := false, pend := false, arr := r.arr || !true
      last := if true then r.last else (u.forget ev).now + 1 })
      = fun r => { r with data := bytesLine bs, full := true, ffull := false, pend := false } := by
    funext r
    rw [Bool.not_true, Bool.or_false]
    rfl
  rw [fillMsg_eq, hf]
  exact arrives_land (u.forget ev) (k, c) m _ 0

theorem arrives_refused (h : Looks s u) (ev : Event) (st : BitVec 8) : Arrives s (k, c) m
    (fun r => { r with full := false, ffull := true, pend := false, va := va.setWidth 57, tstat := st }) 2
      (loaded (k, c) m va ev (.fault st, u)) := by
  refine (h.trans (looks_forget u ev)).arrives ?_
  show Arrives _ _ _ _ _ (State.faultMsg _ _ _ _ _ _)
  have hf : (fun r : Msg => { r with
      full := false, ffull := true, pend := false, va := va.setWidth 57, tstat := st, arr := r.arr || !true
      last := if true then r.last else (u.forget ev).now + 1 })
      = fun r => { r with full := false, ffull := true, pend := false, va := va.setWidth 57, tstat := st } := by
    funext r
    rw [Bool.not_true, Bool.or_false]
    rfl
  rw [faultMsg_eq, hf]
  exact arrives_land (u.forget ev) (k, c) m _ 2

/-- A context with a store no longer outstanding, its status kept when it failed (R189). -/
def stxNoted (n : Nat) (t : BitVec 8) (x : Ctx) : Ctx :=
  { x with stxOut := x.stxOut.erase n, stxBad := if t = 0 then x.stxBad else x.stxBad ++ [(n, t)] }

/-- A store ended: it is outstanding no longer, its status kept, and the status word under way as SEQ advances (R189). -/
def Ends (s : State) (k c n : Nat) (bad : List (Nat × BitVec 8)) (t : State) : Prop := (t.ctx (k, c)).stxOut = (s.ctx (k, c)).stxOut.erase n
  ∧ (t.ctx (k, c)).stxBad = (s.ctx (k, c)).stxBad ++ bad
  ∧ ((t.ctx (k, c)).stxSeq ≠ (s.ctx (k, c)).stxSeq → ⟨ceilTo (cyc k) (s.now + 1), 4, .port ⟨0, Config.statusBase (Machine.tierOf k) + 8 * c,
      leBytes 8 (t.ctx (k, c)).statusWord, [], false, .other⟩⟩ ∈ (t.core k).pend)
  ∧ ∀ b, nearByte t k b = nearByte s k b

theorem Looks.ends_left {t v : State} (h : Looks s t) (hnow : t.now = s.now) {bad : List (Nat × BitVec 8)} (he : Ends t k c n bad v) :
    Ends s k c n bad v := by
  unfold Ends nearByte at he ⊢
  rwa [h.ctx, h.core, hnow] at he

theorem Looks.ends_right {t v : State} (h : Looks t v) {bad : List (Nat × BitVec 8)} (he : Ends s k c n bad t) : Ends s k c n bad v := by
  unfold Ends nearByte at he ⊢
  rwa [h.ctx, h.core]

/-- The status word of a context sent to its bank. -/
def statusSent (s : State) (q : Nat × Nat) (seq : Nat) : State :=
  if (s.ctx q).stxSeq = seq then s else s.portStore .other q.1 0 (statusAddr q.1 q.2) (leBytes 8 (s.ctx q).statusWord) []

theorem ends_statusSent (s : State) (k c n : Nat) (t : BitVec 8) :
    Ends s k c n (if t = 0 then [] else [(n, t)]) (statusSent (s.modCtx (k, c) (stxNoted n t)) (k, c) (s.ctx (k, c)).stxSeq) := by
  let v := s.modCtx (k, c) (stxNoted n t)
  have hv : v.ctx (k, c) = stxNoted n t (s.ctx (k, c)) := state_ctx_modCtx_same s (k, c) (stxNoted n t)
  have hbad : (stxNoted n t (s.ctx (k, c))).stxBad = (s.ctx (k, c)).stxBad ++ (if t = 0 then [] else [(n, t)]) := by
    unfold stxNoted
    by_cases ht : t = 0
    · rw [if_pos ht, if_pos ht, List.append_nil]
    · rw [if_neg ht, if_neg ht]
  have hnear (b : Nat) : nearByte v k b = nearByte s k b := (onlyCtx_modCtx (k, c) s (stxNoted n t)).bytes k b
  show Ends s k c n _ (statusSent v (k, c) _)
  unfold statusSent
  by_cases hs : (v.ctx (k, c)).stxSeq = (s.ctx (k, c)).stxSeq
  · rw [if_pos hs]
    exact ⟨congrArg Ctx.stxOut hv, (congrArg Ctx.stxBad hv).trans hbad, fun h => absurd hs h, hnear⟩
  · rw [if_neg hs]
    have hcore : (v.portStore .other k 0 (statusAddr k c) (leBytes 8 (v.ctx (k, c)).statusWord) []).core k
        = (v.core k).pendAt (ceilTo (cyc k) (v.now + 1)) 4
          (.port ⟨0, statusAddr k c, leBytes 8 (v.ctx (k, c)).statusWord, [], false, .other⟩) := core_modCore_same _ _ _
    have hctx : (v.portStore .other k 0 (statusAddr k c) (leBytes 8 (v.ctx (k, c)).statusWord) []).ctx (k, c) = v.ctx (k, c) :=
      (congrArg (fun x : Core => x.ctx c) hcore :)
    refine ⟨(congrArg Ctx.stxOut (hctx.trans hv)), (congrArg Ctx.stxBad (hctx.trans hv)).trans hbad, fun _ => ?_, fun b => ?_⟩
    · rw [hctx, hcore]
      exact (mem_pendInsert _ _ _).2 (.inl rfl)
    · refine Eq.trans ?_ (hnear b)
      unfold nearByte
      rw [hcore]
      rfl

theorem looks_record (s : State) (k : Nat) (r : FaultRec) : Looks s (s.record k r) ∧ (s.record k r).now = s.now := by
  unfold State.record
  dsimp only
  split_ifs
  · exact ⟨⟨rfl, rfl, rfl⟩, rfl⟩
  · exact ⟨⟨rfl, rfl, rfl⟩, rfl⟩

/-- The record of a store's fault (R189). -/
def stxRecorded (s : State) (k c n : Nat) (va : DWord) (t : BitVec 8) : State :=
  if t = 0 then s else s.record k (faultRec 0x04 k c 0 n va.toNat 0 0 t.toNat)

/-- A kernel's completion looked at again (R245). -/
def kernelLooked (s : State) : Option Nat → State
  | some i => s.post s.now (.kernelComplete i)
  | none => s

theorem looks_kernelLooked (s : State) (i : Option Nat) : Looks s (kernelLooked s i) := by
  cases i with
  | none => exact ⟨rfl, rfl, rfl⟩
  | some i => exact ⟨rfl, rfl, rfl⟩

theorem stxDone_eq (hc : c < 4) (hn : n ∈ (s.ctx (k, c)).stxOut) (t : BitVec 8) :
    let v := statusSent ((stxRecorded s k c n va t).modCtx (k, c) (stxNoted n t)) (k, c) (s.ctx (k, c)).stxSeq
    s.stxDone (k, c) n va t = kernelLooked v (if c = 0 then (v.core k).ctl.kernel else (s.ctx (k, c)).kernel) := by
  unfold State.stxDone
  dsimp only
  rw [if_neg (Nat.not_le.2 hc), if_neg (by simp [hn])]
  rfl

/-- A store that ends is outstanding no longer, and its bank, far memory and the lines are as before. -/
theorem ends_stxDone (hc : c < 4) (hn : n ∈ (s.ctx (k, c)).stxOut) (t : BitVec 8) :
    Ends s k c n (if t = 0 then [] else [(n, t)]) (s.stxDone (k, c) n va t) ∧ (s.stxDone (k, c) n va t).dev.far = s.dev.far := by
  have hrec : Looks s (stxRecorded s k c n va t) ∧ (stxRecorded s k c n va t).now = s.now := by
    unfold stxRecorded
    by_cases ht : t = 0
    · rw [if_pos ht]
      exact ⟨⟨rfl, rfl, rfl⟩, rfl⟩
    · rw [if_neg ht]
      exact looks_record s k _
  obtain ⟨hlook, hnow⟩ := hrec
  rw [stxDone_eq hc hn, ← hlook.ctx (k, c)]
  generalize stxRecorded s k c n va t = w at hlook hnow ⊢
  have hfar : (statusSent (w.modCtx (k, c) (stxNoted n t)) (k, c) (w.ctx (k, c)).stxSeq).dev.far = w.dev.far := by
    unfold statusSent
    split_ifs <;> rfl
  have hend := ends_statusSent w k c n t
  generalize statusSent (w.modCtx (k, c) (stxNoted n t)) (k, c) (w.ctx (k, c)).stxSeq = v at hfar hend ⊢
  have hv := looks_kernelLooked v (if c = 0 then (v.core k).ctl.kernel else (w.ctx (k, c)).kernel)
  exact ⟨hlook.ends_left hnow (hv.ends_right hend), hv.far.trans (hfar.trans hlook.far)⟩

/-- What an answer to a far store does. -/
def stored (q : Nat × Nat) (n : Nat) (va : DWord) (ev : Event) : FarRes Unit × State → State
  | (.wait, s) => s
  | (.ok (), s) => (s.forget ev).stxDone q n va 0
  | (.fault t, s) => (s.forget ev).stxDone q n va t

theorem exec_stxComplete (he : s.event = some (.stxComplete k c n va data epoch)) : exec .stxComplete s
    = .next (if (s.part (s.partOf k)).epoch ≠ epoch then s
      else if s.lineBusy (k, c) va.toNat (.stxComplete k c n va data epoch) then s.putOff (s.now + cyc k) (.stxComplete k c n va data epoch)
      else stored (k, c) n va (.stxComplete k c n va data epoch)
        (s.farWrite (s.partOf k) (columnOf k) va.toNat (lineBytes data) 0 (.stxComplete k c n va data epoch))) := by
  rw [← event_eta he]
  rfl

theorem stxComplete_due (hep : (s.part (s.partOf k)).epoch = epoch)
    (hbusy : s.lineBusy (k, c) va.toNat (.stxComplete k c n va data epoch) = false) {x : FarRes Unit × State}
    (hx : s.farWrite (s.partOf k) (columnOf k) va.toNat (lineBytes data) 0 (.stxComplete k c n va data epoch) = x)
    (he : s.event = some (.stxComplete k c n va data epoch)) :
    exec .stxComplete s = .next (stored (k, c) n va (.stxComplete k c n va data epoch) x) := by
  rw [exec_stxComplete he, hx, if_neg (fun h => h hep), if_neg (by rw [hbusy]; exact Bool.false_ne_true)]

/-- The end of a store behind its translation: the context's part is as from the state before. -/
theorem ends_stored {w : State} (hcores : w.cores = s.cores) (hnow : w.now = s.now) (hc : c < 4) (hn : n ∈ (s.ctx (k, c)).stxOut) (t : BitVec 8)
    (ev : Event) : Ends s k c n (if t = 0 then [] else [(n, t)]) ((w.forget ev).stxDone (k, c) n va t)
      ∧ ((w.forget ev).stxDone (k, c) n va t).dev.far = w.dev.far := by
  have hcore (j : Nat) : (w.forget ev).core j = s.core j := by
    unfold State.core
    exact congrArg (fun l : Sparse Core => sget .reset l j) hcores
  have hctx : (w.forget ev).ctx (k, c) = s.ctx (k, c) := congrArg (fun x : Core => x.ctx c) (hcore k)
  obtain ⟨hend, hfar⟩ := ends_stxDone (s := w.forget ev) (va := va) hc (by rw [hctx]; exact hn) t
  refine ⟨?_, hfar⟩
  unfold Ends nearByte at hend ⊢
  rw [hctx, hcore k] at hend
  rw [← hnow]
  exact hend

theorem length_lineBytes (data : Line) : (lineBytes data).length = 64 := by
  unfold lineBytes
  rw [leBytes_toNat, List.length_map, List.length_range]

theorem farByte_writePhys {w : State} (h : u.dev = s.dev) (hw : w.dev.far = (u.writePhys pa (lineBytes data)).dev.far) (b : Nat) :
    farByte w b = if pa ≤ b ∧ b < pa + 64 then data.extractLsb' (8 * (b - pa)) 8 else farByte s b := by
  unfold farByte
  rw [hw]
  show sget 0 (writeBytes u.dev.far pa (lineBytes data)) b = _
  rw [h, sget_writeBytes, length_lineBytes]
  by_cases hb : pa ≤ b ∧ b < pa + 64
  · rw [if_pos hb, if_pos hb]
    unfold lineBytes
    rw [leBytes_toNat, List.getD_eq_getElem _ _ (by simp; omega), List.getElem_map, List.getElem_range]
  · rw [if_neg hb, if_neg hb]

end

/-! ### Translation caches and staging (R185, R191) -/

section
variable {s u : State} {part col l tier pa : Nat} {va : DWord} {st : BitVec 8}

/-- What a walk leaves in its column, by the range entry that holds the address and what the table gives. -/
def walked (s : State) (part col a : Nat) : Option Xlat → Except (BitVec 8) Xlat → State
  | some x, _ => if (s.col col).rangeC.contains x then s else s.modCol col (fun c => { c with rangeC := (x :: c.rangeC).take 16 })
  | none, .ok x => if (hitX (s.col col).pageC part a).isSome then s else s.modCol col (fun c => { c with pageC := (x :: c.pageC).take 512 })
  | none, .error _ => s

theorem exec_translationWalk (he : s.event = some (.translationWalk part col va)) {r : Option Xlat} {w : Except (BitVec 8) Xlat}
    (hr : (s.part part).findRange part va.toNat = r) (hw : r = none → s.walk part va.toNat = w) : exec .translationWalk s
    = .next (walked s part col va.toNat r w) := by
  show execTranslationWalk s = _
  unfold execTranslationWalk
  rw [he]
  obtain ⟨walk, hwalk⟩ : ∃ f : State → Nat → Nat → Except (BitVec 8) Xlat, State.walk = f := ⟨_, rfl⟩
  obtain ⟨find, hfind⟩ : ∃ f : Part → Nat → Nat → Option Xlat, Part.findRange = f := ⟨_, rfl⟩
  obtain ⟨hit, hhit⟩ : ∃ f : List Xlat → Nat → Nat → Option Xlat, hitX = f := ⟨_, rfl⟩
  unfold walked
  rw [hwalk] at hw ⊢
  rw [hfind] at hr ⊢
  rw [hhit]
  dsimp only
  rw [hr]
  cases r with
  | some x => rfl
  | none =>
    rw [hw rfl]
    cases w with
    | ok x => rfl
    | error e => rfl

/-- One column changes and nothing else. -/
def OneColumn (s : State) (col : Nat) (z : Column) (t : State) : Prop :=
  t.col col = z ∧ (∀ j, j ≠ col → t.col j = s.col j) ∧ { t with cols := [] } = { s with cols := [] }

theorem oneColumn_modCol (s : State) (col : Nat) (f : Column → Column) : OneColumn s col (f (s.col col)) (s.modCol col f) :=
  ⟨by rw [col_modCol, if_pos rfl], fun j hj => by rw [col_modCol, if_neg (Ne.symm hj)], rfl⟩

theorem exec_stagingFill (he : s.event = some (.stagingFill l)) : exec .stagingFill s
    = .next (if s.dev.lines.contains l then s else s.modDev (fun d => { d with lines := (l :: d.lines).take d.lineCap })) := by
  rw [← event_eta he]
  rfl

/-! ### A record drained into its ring (R257) -/

/-- The records that a ring takes leave the buffer, and the rest is drained later. -/
def drained (part key : Nat) (rest : List FaultRec) (ev : Event) : Option Ring × State → State
  | (none, s) => s
  | (some r, s) =>
    let s := ({ (s.forget ev) with bufs := sset [] s.bufs key rest }).modPart part (fun p => { p with fq := r })
    if rest = [] then s
    else
      let (d, s) := s.draw 0
      s.post (s.now + d) ev

/-- The oldest record of a buffer goes to its partition's ring. -/
def drainOldest (s : State) (tier col part : Nat) : List FaultRec → State
  | [] => s
  | f :: rest =>
    if !(s.part part).fq.en then s
    else drained part (64 * tier + col) rest (.faultRecordDrain tier col)
      (s.ringWrite part col (s.part part).fq (leBytes 32 f.toNat) 0 (.faultRecordDrain tier col))

theorem exec_faultRecordDrain (he : s.event = some (.faultRecordDrain tier col)) : exec .faultRecordDrain s
    = .next (drainOldest s tier col (partOfQuad s.dev.mode (col / 16)) (sget [] s.bufs (64 * tier + col))) := by
  rw [← event_eta he]
  rfl

theorem drained_spec (part key : Nat) (rest : List FaultRec) (ev : Event) (r : Ring) (u : State) :
    sget [] (drained part key rest ev (some r, u)).bufs key = rest ∧ (drained part key rest ev (some r, u)).dev.far = u.dev.far
      ∧ ((drained part key rest ev (some r, u)).part part).fq = r := by
  let v := ({ (u.forget ev) with bufs := sset [] u.bufs key rest }).modPart part (fun p => { p with fq := r })
  have hbufs : sget [] v.bufs key = rest := sget_sset_same _ _ _ _
  have hpart : (v.part part).fq = r := by
    show ((State.modPart _ _ _).part part).fq = r
    rw [part_modPart, if_pos rfl]
  show sget [] (if rest = [] then v else _).bufs key = rest ∧ (if rest = [] then v else _).dev.far = u.dev.far
    ∧ ((if rest = [] then v else _).part part).fq = r
  by_cases h : rest = []
  · rw [if_pos h]
    exact ⟨hbufs, rfl, hpart⟩
  · rw [if_neg h]
    exact ⟨hbufs, rfl, hpart⟩

theorem ringWrite_full {r : Ring} {bs : List Byte} {cls : BitVec 2} {ev : Event}
    (h : (r.tail.toNat + 1) % 2 ^ r.log2n.toNat = r.head.toNat % 2 ^ r.log2n.toNat) :
    s.ringWrite part col r bs cls ev = (some { r with drops := if r.drops = 0xFFFFFF then r.drops else r.drops + 1 }, s) := if_pos h

theorem ringWrite_taken {r : Ring} {bs : List Byte} {cls : BitVec 2} {ev : Event}
    (h : (r.tail.toNat + 1) % 2 ^ r.log2n.toNat ≠ r.head.toNat % 2 ^ r.log2n.toNat)
    (hw : s.farWrite part col (r.base.toNat * 4096 + 32 * (r.tail.toNat % 2 ^ r.log2n.toNat)) bs cls ev = (.ok (), u)) :
    s.ringWrite part col r bs cls ev = (some { r with tail := BitVec.ofNat 20 ((r.tail.toNat + 1) % 2 ^ r.log2n.toNat) }, u) := by
  unfold State.ringWrite
  dsimp only
  rw [if_neg h, hw]

end

/-! ### The obligation -/

section
variable {s u : State} {k c n pa : Nat} {m : MsgReg} {va : DWord} {tag : BitVec 16} {epoch : BitVec 4} {st : BitVec 8} {data : Line}

theorem ldxReply_stale (h : ((s.ctx (k, c)).msg m).tag ≠ tag ∨ (s.part (s.partOf k)).epoch ≠ epoch) :
    Happens s (.ldxReply k c m va tag epoch) .ldxReply (fun t => t = s) :=
  fun he => ⟨s, by rw [exec_ldxReply he, if_pos h], rfl⟩

theorem ldxReply_early (htag : ((s.ctx (k, c)).msg m).tag = tag) (hep : (s.part (s.partOf k)).epoch = epoch) (hnow : s.now % cyc k ≠ 0) :
    Happens s (.ldxReply k c m va tag epoch) .ldxReply (fun t => t = s.post (ceilTo (cyc k) s.now) (.ldxReply k c m va tag epoch)) :=
  fun he => ⟨_, by rw [exec_ldxReply he, if_neg (fun h => h.elim (fun h => h htag) (fun h => h hep)), if_pos hnow], rfl⟩

theorem ldxReply_behind (htag : ((s.ctx (k, c)).msg m).tag = tag) (hep : (s.part (s.partOf k)).epoch = epoch) (hnow : s.now % cyc k = 0)
    (hbusy : s.lineBusy (k, c) va.toNat (.ldxReply k c m va tag epoch) = true) :
    Happens s (.ldxReply k c m va tag epoch) .ldxReply (PutsOff s (s.now + cyc k) (.ldxReply k c m va tag epoch)
      (SameLine s (.ldxReply k c m va tag epoch))) := by
  intro he
  refine ⟨_, exec_ldxReply he, ?_⟩
  rw [if_neg (fun h => h.elim (fun h => h htag) (fun h => h hep)), if_neg (fun h => h hnow), if_pos hbusy]
  exact putsOff_putOff s rfl _

/-- A far load of a line of HBM without an error fills its register with it (R187). -/
theorem ldxReply_read (htag : ((s.ctx (k, c)).msg m).tag = tag) (hep : (s.part (s.partOf k)).epoch = epoch) (hnow : s.now % cyc k = 0)
    (hbusy : s.lineBusy (k, c) va.toNat (.ldxReply k c m va tag epoch) = false)
    (hask : s.dev.fabric.asked (.ldxReply k c m va tag epoch) va.toNat = none) (hva : va.toNat % 64 = 0)
    (ht : s.translate (s.partOf k) (columnOf k) va.toNat false = (.ok pa, u)) (hp : s.dev.place pa = .hbm) (hb : s.dev.badFar pa 64 = false) :
    Happens s (.ldxReply k c m va tag epoch) .ldxReply (Arrives s (k, c) m (fun r => { r with
      data := BitVec.ofNat 512 (leNat ((List.range 64).map (fun i => farByte s (pa + i)))), full := true, ffull := false, pend := false }) 0) := by
  intro he
  refine ⟨_, ldxReply_due htag hep hnow hbusy (farRead_line hask hva ht hp hb) he, ?_⟩
  have hbytes : s.dev.readFar pa 64 = (List.range 64).map (fun i => farByte s (pa + i)) := readBytes_eq_map s.dev.far pa 64
  rw [hbytes]
  exact arrives_loaded (looks_of_ahead (ahead_of_translate ht)) _ _

theorem ldxReply_refused (htag : ((s.ctx (k, c)).msg m).tag = tag) (hep : (s.part (s.partOf k)).epoch = epoch) (hnow : s.now % cyc k = 0)
    (hbusy : s.lineBusy (k, c) va.toNat (.ldxReply k c m va tag epoch) = false)
    (hask : s.dev.fabric.asked (.ldxReply k c m va tag epoch) va.toNat = none) (hva : va.toNat % 64 = 0)
    (ht : s.translate (s.partOf k) (columnOf k) va.toNat false = (.error st, u)) :
    Happens s (.ldxReply k c m va tag epoch) .ldxReply (Arrives s (k, c) m
      (fun r => { r with full := false, ffull := true, pend := false, va := va.setWidth 57, tstat := st }) 2) :=
  fun he => ⟨_, ldxReply_due htag hep hnow hbusy (farRead_fault hask hva ht) he,
    arrives_refused (looks_of_ahead (ahead_of_translate ht)) _ st⟩

theorem stxComplete_old (h : (s.part (s.partOf k)).epoch ≠ epoch) :
    Happens s (.stxComplete k c n va data epoch) .stxComplete (fun t => t = s) :=
  fun he => ⟨s, by rw [exec_stxComplete he, if_pos h], rfl⟩

theorem stxComplete_behind (hep : (s.part (s.partOf k)).epoch = epoch)
    (hbusy : s.lineBusy (k, c) va.toNat (.stxComplete k c n va data epoch) = true) :
    Happens s (.stxComplete k c n va data epoch) .stxComplete (PutsOff s (s.now + cyc k) (.stxComplete k c n va data epoch)
      (SameLine s (.stxComplete k c n va data epoch))) := by
  intro he
  refine ⟨_, exec_stxComplete he, ?_⟩
  rw [if_neg (fun h => h hep), if_pos hbusy]
  exact putsOff_putOff s rfl _

theorem linePieces_data (hva : va.toNat % 64 = 0) :
    linePieces va.toNat (lineBytes data).length (lineBytes data).length = [(va.toNat, (lineBytes data).length)] := by
  rw [length_lineBytes]
  exact linePieces_line hva

/-- A far store to HBM writes its line and ends without a status (R187, R189). -/
theorem stxComplete_written (hep : (s.part (s.partOf k)).epoch = epoch)
    (hbusy : s.lineBusy (k, c) va.toNat (.stxComplete k c n va data epoch) = false)
    (hask : s.dev.fabric.asked (.stxComplete k c n va data epoch) va.toNat = none) (hva : va.toNat % 64 = 0) (hc : c < 4)
    (hn : n ∈ (s.ctx (k, c)).stxOut)
    (ht : s.translate (s.partOf k) (columnOf k) va.toNat true = (.ok pa, u)) (hp : s.dev.place pa = .hbm) :
    Happens s (.stxComplete k c n va data epoch) .stxComplete (fun t => Ends s k c n [] t
      ∧ ∀ b, farByte t b = if pa ≤ b ∧ b < pa + 64 then data.extractLsb' (8 * (b - pa)) 8 else farByte s b) := by
  intro he
  refine ⟨_, stxComplete_due hep hbusy (farWrite_single hask (linePieces_data hva) ht hp) he, ?_⟩
  have h := ahead_of_translate ht
  obtain ⟨hend, hfar⟩ := ends_stored (s := s) (w := u.writePhys pa (lineBytes data)) (va := va) (congrArg State.cores h :)
    (congrArg State.now h :) hc hn 0 (.stxComplete k c n va data epoch)
  exact ⟨hend, farByte_writePhys (congrArg State.dev h :) hfar⟩

theorem stxComplete_refused (hep : (s.part (s.partOf k)).epoch = epoch)
    (hbusy : s.lineBusy (k, c) va.toNat (.stxComplete k c n va data epoch) = false)
    (hask : s.dev.fabric.asked (.stxComplete k c n va data epoch) va.toNat = none) (hva : va.toNat % 64 = 0) (hc : c < 4)
    (hn : n ∈ (s.ctx (k, c)).stxOut)
    (ht : s.translate (s.partOf k) (columnOf k) va.toNat true = (.error st, u)) (hst : st ≠ 0) :
    Happens s (.stxComplete k c n va data epoch) .stxComplete (fun t => Ends s k c n [(n, st)] t ∧ ∀ b, farByte t b = farByte s b) := by
  intro he
  refine ⟨_, stxComplete_due hep hbusy (farWrite_fault hask (linePieces_data hva) ht) he, ?_⟩
  have h := ahead_of_translate ht
  obtain ⟨hend, hfar⟩ := ends_stored (s := s) (w := u) (va := va) (congrArg State.cores h :)
    (congrArg State.now h :) hc hn st (.stxComplete k c n va data epoch)
  rw [if_neg hst] at hend
  refine ⟨hend, fun b => ?_⟩
  unfold farByte
  exact congrArg (fun f : Sparse Byte => sget 0 f b) (hfar.trans (congrArg (fun x : State => x.dev.far) h :))

end

section
variable {s u : State} {part col l tier pa : Nat} {va : DWord} {f : FaultRec} {rest : List FaultRec}

theorem walk_known {e : Xlat} (h : (s.part part).findRange part va.toNat = some e) (hm : e ∈ (s.col col).rangeC) :
    Happens s (.translationWalk part col va) .translationWalk (fun t => t = s) :=
  fun he => ⟨_, exec_translationWalk he h (w := .error 0) (fun h => nomatch h), if_pos (List.contains_iff_mem.2 hm)⟩

theorem walk_range {e : Xlat} (h : (s.part part).findRange part va.toNat = some e) (hm : e ∉ (s.col col).rangeC) :
    Happens s (.translationWalk part col va) .translationWalk
      (OneColumn s col { s.col col with rangeC := (e :: (s.col col).rangeC).take 16 }) := by
  intro he
  refine ⟨_, exec_translationWalk he h (w := .error 0) (fun h => nomatch h), ?_⟩
  refine Eq.subst (motive := OneColumn s col _) (if_neg (fun h => hm (List.contains_iff_mem.1 h))).symm ?_
  exact oneColumn_modCol s col (fun c => { c with rangeC := (e :: c.rangeC).take 16 })

theorem walk_page {e : Xlat} (h : (s.part part).findRange part va.toNat = none) (hw : s.walk part va.toNat = .ok e)
    (hm : hitX (s.col col).pageC part va.toNat = none) : Happens s (.translationWalk part col va) .translationWalk
      (OneColumn s col { s.col col with pageC := (e :: (s.col col).pageC).take 512 }) := by
  intro he
  refine ⟨_, exec_translationWalk he h (fun _ => hw), ?_⟩
  refine Eq.subst (motive := OneColumn s col _) (if_neg (by rw [hm]; exact Bool.false_ne_true)).symm ?_
  exact oneColumn_modCol s col (fun c => { c with pageC := (e :: c.pageC).take 512 })

theorem walk_fault {e : BitVec 8} (h : (s.part part).findRange part va.toNat = none) (hw : s.walk part va.toNat = .error e) :
    Happens s (.translationWalk part col va) .translationWalk (fun t => t = s) :=
  fun he => ⟨_, exec_translationWalk he h (fun _ => hw), rfl⟩

/-- What a drain does by what the buffer holds and what the ring answers. -/
theorem drain_answer (hb : sget [] s.bufs (64 * tier + col) = f :: rest) (hen : (s.part (partOfQuad s.dev.mode (col / 16))).fq.en = true)
    {x : Option Ring × State} (hx : s.ringWrite (partOfQuad s.dev.mode (col / 16)) col (s.part (partOfQuad s.dev.mode (col / 16))).fq
      (leBytes 32 f.toNat) 0 (.faultRecordDrain tier col) = x) (he : s.event = some (.faultRecordDrain tier col)) :
    exec .faultRecordDrain s
      = .next (drained (partOfQuad s.dev.mode (col / 16)) (64 * tier + col) rest (.faultRecordDrain tier col) x) := by
  rw [exec_faultRecordDrain he, hb]
  unfold drainOldest
  dsimp only
  rw [hen, hx]
  rfl

theorem drain_off (hb : sget [] s.bufs (64 * tier + col) = f :: rest) (hen : (s.part (partOfQuad s.dev.mode (col / 16))).fq.en = false) :
    Happens s (.faultRecordDrain tier col) .faultRecordDrain (fun t => t = s) := by
  intro he
  refine ⟨_, exec_faultRecordDrain he, ?_⟩
  rw [hb]
  unfold drainOldest
  rw [hen]
  rfl

/-- A record of a full ring is dropped and counted (R257). -/
theorem drain_full (hb : sget [] s.bufs (64 * tier + col) = f :: rest) {p : Nat} (hp : p = partOfQuad s.dev.mode (col / 16)) {r : Ring}
    (hr : (s.part p).fq = r) (hen : r.en = true) (hfull : (r.tail.toNat + 1) % 2 ^ r.log2n.toNat = r.head.toNat % 2 ^ r.log2n.toNat) :
    Happens s (.faultRecordDrain tier col) .faultRecordDrain (fun t => sget [] t.bufs (64 * tier + col) = rest ∧ (∀ b, farByte t b = farByte s b)
      ∧ (t.part p).fq = { r with drops := if r.drops = 0xFFFFFF then r.drops else r.drops + 1 }) := by
  subst hp hr
  intro he
  refine ⟨_, drain_answer hb hen (ringWrite_full hfull) he, ?_⟩
  obtain ⟨h1, h2, h3⟩ := drained_spec (partOfQuad s.dev.mode (col / 16)) (64 * tier + col) rest (.faultRecordDrain tier col)
    { (s.part (partOfQuad s.dev.mode (col / 16))).fq with
      drops := if (s.part (partOfQuad s.dev.mode (col / 16))).fq.drops = 0xFFFFFF then (s.part (partOfQuad s.dev.mode (col / 16))).fq.drops
        else (s.part (partOfQuad s.dev.mode (col / 16))).fq.drops + 1 } s
  exact ⟨h1, fun b => congrArg (fun m : Sparse Byte => sget 0 m b) h2, h3⟩

/-- A record of a ring with room is written behind the others (R257). -/
theorem drain_written (hb : sget [] s.bufs (64 * tier + col) = f :: rest) {p : Nat} (hp : p = partOfQuad s.dev.mode (col / 16)) {r : Ring}
    (hr : (s.part p).fq = r) (hen : r.en = true) (hroom : (r.tail.toNat + 1) % 2 ^ r.log2n.toNat ≠ r.head.toNat % 2 ^ r.log2n.toNat)
    (ht : s.translate p col (r.base.toNat * 4096 + 32 * (r.tail.toNat % 2 ^ r.log2n.toNat)) true = (.ok pa, u)) (hh : s.dev.place pa = .hbm)
    (hask : s.dev.fabric.asked (.faultRecordDrain tier col) (r.base.toNat * 4096 + 32 * (r.tail.toNat % 2 ^ r.log2n.toNat)) = none) :
    Happens s (.faultRecordDrain tier col) .faultRecordDrain (fun t => sget [] t.bufs (64 * tier + col) = rest
      ∧ (∀ b, farByte t b = if pa ≤ b ∧ b < pa + 32 then f.extractLsb' (8 * (b - pa)) 8 else farByte s b)
      ∧ (t.part p).fq = { r with tail := BitVec.ofNat 20 ((r.tail.toNat + 1) % 2 ^ r.log2n.toNat) }) := by
  subst hp hr
  intro he
  have hlen : (leBytes 32 f.toNat).length = 32 := by rw [leBytes_toNat, List.length_map, List.length_range]
  have hw := farWrite_single (bs := leBytes 32 f.toNat) (cls := 0) hask (by rw [hlen]; exact linePieces_record (by omega)) ht hh
  refine ⟨_, drain_answer hb hen (ringWrite_taken hroom hw) he, ?_⟩
  obtain ⟨h1, h2, h3⟩ := drained_spec (partOfQuad s.dev.mode (col / 16)) (64 * tier + col) rest (.faultRecordDrain tier col)
    { (s.part (partOfQuad s.dev.mode (col / 16))).fq with
      tail := BitVec.ofNat 20 (((s.part (partOfQuad s.dev.mode (col / 16))).fq.tail.toNat + 1)
        % 2 ^ (s.part (partOfQuad s.dev.mode (col / 16))).fq.log2n.toNat) } (u.writePhys pa (leBytes 32 f.toNat))
  refine ⟨h1, fun b => ?_, h3⟩
  unfold farByte
  rw [h2]
  show sget 0 (writeBytes u.dev.far pa (leBytes 32 f.toNat)) b = _
  rw [dev_translate ht, sget_writeBytes, hlen]
  by_cases h : pa ≤ b ∧ b < pa + 32
  · rw [if_pos h, if_pos h, leBytes_toNat, List.getD_eq_getElem _ _ (by simp; omega), List.getElem_map, List.getElem_range]
  · rw [if_neg h, if_neg h]

end

section
variable {s : State} {k c : Nat} {m : MsgReg} {data : Line} {src sctx n : Nat} {timed : Bool} {l : Nat}

theorem messageArrival_first (h : s.earlierMsgb src k timed = none) :
    Happens s (.messageArrival k c m data src sctx timed) .messageArrival (Arrives s (k, c) m (filled s.now data) 0) := by
  intro he
  refine ⟨_, exec_messageArrival he, ?_⟩
  rw [h]
  exact fills_fillMsg s (k, c) m data

theorem messageArrival_behind {at_ : Nat} (h : s.earlierMsgb src k timed = some at_) :
    Happens s (.messageArrival k c m data src sctx timed) .messageArrival
      (PutsOff s (at_ + cyc k) (.messageArrival k c m data src sctx timed) (fun e => Event.isLater src k timed s.now e = true)) := by
  intro he
  refine ⟨_, exec_messageArrival he, ?_⟩
  rw [h]
  exact putsOff_holdMessage s src k timed _ _

theorem engineMessage_fills (s : State) (k c : Nat) (m : MsgReg) (data : Line) :
    Happens s (.engineMessageArrival k c m data) .engineMessageArrival (Arrives s (k, c) m (filled s.now data) 0) :=
  fun he => ⟨_, exec_engineMessage he, fills_fillMsg s (k, c) m data⟩

theorem mgetReply_stale (h : n ≠ ((s.ctx (k, c)).msg m).cleared) (v : Option Line) :
    Happens s (.mgetReply k c m v n) .mgetReply (fun t => t = s) :=
  fun he => ⟨_, exec_mgetReply he, if_pos (Ne.symm h)⟩

theorem mgetReply_fills (s : State) (k c : Nat) (m : MsgReg) (data : Line) :
    Happens s (.mgetReply k c m (some data) ((s.ctx (k, c)).msg m).cleared) .mgetReply (Arrives s (k, c) m (filled s.now data) 0) := by
  intro he
  refine ⟨_, exec_mgetReply he, ?_⟩
  rw [if_neg (fun h => h rfl)]
  exact fills_fillMsg s (k, c) m data

theorem mgetReply_faults (s : State) (k c : Nat) (m : MsgReg) :
    Happens s (.mgetReply k c m none ((s.ctx (k, c)).msg m).cleared) .mgetReply (Arrives s (k, c) m (fun r =>
      { r with full := false, ffull := true, pend := false, va := 0, tstat := 0x06, arr := true, last := s.now + 1 }) 2) := by
  intro he
  refine ⟨_, exec_mgetReply he, ?_⟩
  rw [if_neg (fun h => h rfl)]
  exact mgetReply_fault s (k, c) m

theorem stagingFill_kept (h : l ∈ s.dev.lines) : Happens s (.stagingFill l) .stagingFill (fun t => t = s) :=
  fun he => ⟨_, exec_stagingFill he, if_pos (List.contains_iff_mem.2 h)⟩

theorem stagingFill_taken (h : l ∉ s.dev.lines) : Happens s (.stagingFill l) .stagingFill
    (fun t => t = { s with dev := { s.dev with lines := (l :: s.dev.lines).take (s.dev.staging * 2 ^ 30 / 65536) } }) :=
  fun he => ⟨_, exec_stagingFill he, if_neg (fun hc => h (List.contains_iff_mem.1 hc))⟩

end

/-- Settles O46: every arrival, port access, far load and store, walk, fill and drain by the rule of its row. -/
theorem messageAndFarSteps : Obligations.MessageAndFarSteps := by
  unfold Obligations.MessageAndFarSteps
  intro s k c m data src sctx home addr timed short first n va tag epoch part col l tier pa u st
  exact ⟨messageArrival_first, fun _ => messageArrival_behind, engineMessage_fills s k c m data, mgetReply_stale, mgetReply_fills s k c m data,
    mgetReply_faults s k c m, portRead_busy, portRead_served, portWrite_busy, portWrite_served,
    ⟨ldxReply_stale, ldxReply_early, ldxReply_behind, fun htag hep hnow hbusy hask hva =>
      ⟨ldxReply_read htag hep hnow hbusy hask hva, ldxReply_refused htag hep hnow hbusy hask hva⟩⟩,
    ⟨stxComplete_old, stxComplete_behind, fun hep hbusy hask hva hc hn =>
      ⟨stxComplete_written hep hbusy hask hva hc hn, stxComplete_refused hep hbusy hask hva hc hn⟩⟩,
    ⟨fun _ => walk_known, fun _ => walk_range, fun _ => walk_page, fun _ => walk_fault⟩, stagingFill_kept, stagingFill_taken,
    fun _ _ hb => ⟨drain_off hb, fun hen hfull => drain_full hb rfl rfl hen hfull,
      fun hen hroom ht hh hask => drain_written hb rfl rfl hen hroom ht hh hask⟩⟩

end Sys2Proof.Proofs
end

section
/-! PROOFS. The steps of synchronisation (R194, R219, R221, R228, R229, R232, R233, R236, R237, R271, R280, R313, R342, R422): waits that end, the
wheel's slots, far atomics, object words, windows, event units and counts. -/

namespace Sys2Proof.Proofs

open Sys2Proof.Machine Sys2Proof.Safety Sys2Proof.Laws

/-! ### The end of a gated wait (R422) -/

/-- The wait of a context ends with a value in `d`; every other context and near memory is as before. -/
def WaitEnds (s : State) (q : Nat × Nat) (d : Reg) (v : DWord) (t : State) : Prop :=
  (∀ i, (t.ctx q).reg (Machine.tierOf q.1) i = if i = d ∧ d ≠ 0 then v else (s.ctx q).reg (Machine.tierOf q.1) i)
  ∧ (t.ctx q).run = (if q.2 = 0 then .running else .ready)
  ∧ (∀ p, p ≠ q → t.ctx p = s.ctx p) ∧ (∀ j b, nearByte t j b = nearByte s j b)

section
variable {s t u : State} {q : Nat × Nat} {d : Reg} {v : DWord} {num : Nat}

theorem waitEnds_finishAt {w : Wait} (hr : (s.ctx q).run = .gated w) (at_ : Nat) :
    WaitEnds s q d v (s.finishAt q (scalarAct (Machine.tierOf q.1) (s.ctx q) d v) at_) := by
  obtain ⟨⟨honly, hregs, -⟩, hrun, -⟩ := finish_gated (d := d) (v := v) hr at_
  exact ⟨hregs, hrun, fun p hp => honly.ctx hp, honly.bytes⟩

/-- What a wait's end leaves does not depend on what stands beside the cores. -/
theorem WaitEnds.of_cores (hc : u.cores = s.cores) (h : WaitEnds u q d v t) : WaitEnds s q d v t := by
  have hctx (p : Nat × Nat) : u.ctx p = s.ctx p := ctx_of_cores hc p
  have hcore (j : Nat) : u.core j = s.core j := congrArg (fun cs => sget Core.reset cs j) hc
  obtain ⟨hregs, hrun, hother, hnear⟩ := h
  rw [hctx] at hregs
  refine ⟨hregs, hrun, fun p hp => (hother p hp).trans (hctx p), fun j b => (hnear j b).trans ?_⟩
  unfold nearByte
  rw [hcore]

theorem awaits_gated (hr : (s.ctx q).run = .gated (.reply d num)) : (s.ctx q).awaits num = some d := by
  unfold Ctx.awaits
  rw [hr]
  exact if_pos rfl

theorem answer_gated (hr : (s.ctx q).run = .gated (.reply d num)) :
    s.answer q num v = s.finishAt q (scalarAct (Machine.tierOf q.1) (s.ctx q) d v) s.now := by
  unfold State.answer State.answerIn
  rw [awaits_gated hr]

theorem answer_none (h : (s.ctx q).awaits num = none) : s.answer q num v = s := by
  unfold State.answer State.answerIn
  rw [h]

theorem answerTrap_some (h : (s.ctx q).awaits num = some d) (tr : Trap) : s.answerTrap q num tr = s.takeTrap q (s.issuedWord q) tr := by
  unfold State.answerTrap
  rw [h]

theorem answerTrap_none (h : (s.ctx q).awaits num = none) (tr : Trap) : s.answerTrap q num tr = s := by
  unfold State.answerTrap
  rw [h]

theorem waitEnds_answer (hr : (s.ctx q).run = .gated (.reply d num)) : WaitEnds s q d v (s.answer q num v) := by
  rw [answer_gated hr]
  exact waitEnds_finishAt hr _

end

/-! ### Replies of a cluster's bank (R236, R237) -/

section
variable {s : State} {k c num : Nat} {v : DWord} {d : Reg}

theorem exec_clusterAtomicReply {bad : Option Bool} (he : s.event = some (.clusterAtomicReply k c num bad v)) : exec .clusterAtomicReply s
    = .next (bad.elim (s.answer (k, c) num v) (fun imprec => s.answerTrap (k, c) num ⟨.eccu, 0, v, imprec⟩)) := by
  show execClusterAtomicReply s = _
  unfold execClusterAtomicReply
  rw [he]
  cases bad with
  | none => rfl
  | some b => rfl

theorem clusterReply_ends (hr : (s.ctx (k, c)).run = .gated (.reply d num)) :
    Happens s (.clusterAtomicReply k c num none v) .clusterAtomicReply (WaitEnds s (k, c) d v) :=
  fun he => ⟨_, exec_clusterAtomicReply he, waitEnds_answer hr⟩

theorem clusterReply_traps (hr : (s.ctx (k, c)).run = .gated (.reply d num)) (imprec : Bool) :
    Happens s (.clusterAtomicReply k c num (some imprec) v) .clusterAtomicReply
      (fun t => t = s.takeTrap (k, c) (s.issuedWord (k, c)) ⟨.eccu, 0, v, imprec⟩) :=
  fun he => ⟨_, exec_clusterAtomicReply he, answerTrap_some (awaits_gated hr) _⟩

theorem clusterReply_stale (h : (s.ctx (k, c)).awaits num = none) (b : Option Bool) :
    Happens s (.clusterAtomicReply k c num b v) .clusterAtomicReply (fun t => t = s) := by
  intro he
  refine ⟨_, exec_clusterAtomicReply he, ?_⟩
  cases b with
  | none => exact answer_none h
  | some imprec => exact answerTrap_none h _

end

/-! ### Counts that run out (R280), and FSTAT (R342) -/

section
variable {s : State} {k c num left since ext : Nat} {d : Reg} {m : MsgReg}

theorem sleepExpiry_ends (hr : (s.ctx (k, c)).run = .gated (.sleep left since)) (hd : d = 0) :
    Happens s (.sleepExpiry k c) .sleepExpiry (WaitEnds s (k, c) d 0) := by
  subst hd
  intro he
  refine ⟨s.finish (k, c) [], ?_, waitEnds_finishAt (d := 0) (v := 0) hr s.now⟩
  show execSleepExpiry s = _
  unfold execSleepExpiry
  rw [he]
  dsimp only
  rw [hr]

theorem twaitExpiry_ends (hr : (s.ctx (k, c)).run = .gated (.twait d m left since)) :
    Happens s (.twaitExpiry k c) .twaitExpiry (WaitEnds s (k, c) d 1) := by
  intro he
  refine ⟨s.finish (k, c) (scalarAct (Machine.tierOf k) (s.ctx (k, c)) d 1), ?_, waitEnds_finishAt hr s.now⟩
  show execTwaitExpiry s = _
  unfold execTwaitExpiry
  rw [he]
  dsimp only
  rw [hr]

theorem exec_fstatResult (hq : NoneDue s k) (he : s.event = some (.fstatResult k c num ext)) : exec .fstatResult s
    = .next (if s.ownOut (k, c) then s.post ((s.beat + 1) * beatTicks) (.fstatResult k c num ext)
      else s.answer (k, c) num (fstatWord (s.dev.extent ext) (s.part (s.partOf k)).budget)) := by
  show execFstatResult s = _
  unfold execFstatResult
  rw [he]
  dsimp only
  rw [settle_noneDue hq]

theorem fstat_waits (hq : NoneDue s k) (ho : s.ownOut (k, c) = true) : Happens s (.fstatResult k c num ext) .fstatResult
    (fun t => t = s.post ((s.beat + 1) * Config.ticksPerBeat) (.fstatResult k c num ext)) :=
  fun he => ⟨_, exec_fstatResult hq he, if_pos ho⟩

theorem fstat_ends (hq : NoneDue s k) (hr : (s.ctx (k, c)).run = .gated (.reply d num)) (ho : s.ownOut (k, c) = false) :
    Happens s (.fstatResult k c num ext) .fstatResult (WaitEnds s (k, c) d (fstatWord (s.dev.extent ext) (s.part (s.partOf k)).budget)) := by
  intro he
  refine ⟨_, exec_fstatResult hq he, ?_⟩
  rw [ho, if_neg Bool.false_ne_true]
  exact waitEnds_answer hr

end

/-! ### Fires (R233, R376) -/

section
variable {s : State} {k c num l : Nat} {d : Reg}

theorem syncWord_zero (x : BitVec 32) : syncWord 0 x = x.setWidth 64 := by
  unfold syncWord
  rw [Nat.zero_mul, Nat.add_zero, BitVec.ofNat_toNat]

theorem setWidth_widened (x : BitVec 16) : (x.setWidth 32).setWidth 64 = x.setWidth 64 := by
  have hx := x.isLt
  refine BitVec.eq_of_toNat_eq ?_
  rw [BitVec.toNat_setWidth, BitVec.toNat_setWidth, BitVec.toNat_setWidth]
  omega

/-- The end of a wait on a line. -/
def fired (s : State) (q : Nat × Nat) (d : Reg) (v : BitVec 32) : State :=
  s.finish q (scalarAct (Machine.tierOf q.1) (s.ctx q) d (syncWord 0 v))

theorem waitEnds_fired {q : Nat × Nat} {w : Wait} (hr : (s.ctx q).run = .gated w) (v : BitVec 32) :
    WaitEnds s q d (v.setWidth 64) (fired s q d v) := by
  rw [← syncWord_zero]
  exact waitEnds_finishAt hr s.now

/-- What a fire does to its waiter. -/
def fireStep (s : State) (q : Nat × Nat) (num : Nat) : Run → State
  | .gated (.rvwait d l n _) => if n = num then fired s q d ((s.line l).c.setWidth 32) else s
  | .gated (.evwait d l n) => if n = num then fired s q d (s.line l).gen else s
  | .gated (.mlock d _ n) => if n = num then fired { s with fresh := s.fresh + 1 } q d (Config.freeUnitValue s.fresh) else s
  | _ => s

theorem exec_fireArrival (he : s.event = some (.fireArrival k c num)) : exec .fireArrival s
    = .next (fireStep s (k, c) num (s.ctx (k, c)).run) := by
  rw [← event_eta he]
  rfl

theorem fire_rvwait {tok : BitVec 16} (hr : (s.ctx (k, c)).run = .gated (.rvwait d l num tok)) :
    Happens s (.fireArrival k c num) .fireArrival (WaitEnds s (k, c) d ((s.line l).c.setWidth 64)) := by
  intro he
  refine ⟨_, exec_fireArrival he, ?_⟩
  rw [hr, show fireStep s (k, c) num (.gated (.rvwait d l num tok)) = fired s (k, c) d ((s.line l).c.setWidth 32) from if_pos rfl]
  have h := waitEnds_fired (d := d) hr ((s.line l).c.setWidth 32)
  rwa [setWidth_widened] at h

theorem fire_evwait (hr : (s.ctx (k, c)).run = .gated (.evwait d l num)) :
    Happens s (.fireArrival k c num) .fireArrival (WaitEnds s (k, c) d ((s.line l).gen.setWidth 64)) := by
  intro he
  refine ⟨_, exec_fireArrival he, ?_⟩
  rw [hr, show fireStep s (k, c) num (.gated (.evwait d l num)) = fired s (k, c) d (s.line l).gen from if_pos rfl]
  exact waitEnds_fired hr _

theorem fire_mlock (hr : (s.ctx (k, c)).run = .gated (.mlock d l num)) :
    Happens s (.fireArrival k c num) .fireArrival (fun t => ∃ y : BitVec 32, WaitEnds s (k, c) d (y.setWidth 64) t) := by
  intro he
  refine ⟨_, exec_fireArrival he, Config.freeUnitValue s.fresh, ?_⟩
  rw [hr, show fireStep s (k, c) num (.gated (.mlock d l num)) = fired { s with fresh := s.fresh + 1 } (k, c) d (Config.freeUnitValue s.fresh)
    from if_pos rfl]
  exact (waitEnds_fired (s := { s with fresh := s.fresh + 1 }) hr _).of_cores rfl

/-- A fire of a wait that is over changes nothing. -/
theorem fire_stale (h : ∀ n, (s.ctx (k, c)).run.waitsOn n ≠ some num) : Happens s (.fireArrival k c num) .fireArrival (fun t => t = s) := by
  intro he
  refine ⟨_, exec_fireArrival he, ?_⟩
  have hne {l n : Nat} (hw : (s.ctx (k, c)).run.waitsOn l = some n) : n ≠ num := fun hn => h l (hn ▸ hw)
  generalize (s.ctx (k, c)).run = r at hne
  unfold fireStep
  split
  · exact if_neg (hne (if_pos rfl))
  · exact if_neg (hne (if_pos rfl))
  · exact if_neg (hne (if_pos rfl))
  · rfl

end

/-! ### Windows of SC operations (R221, R313) -/

section
variable {s : State} {k c num w : Nat}

/-- An SC operation announced in a window. -/
def announcedIn (s : State) (num w : Nat) : State :=
  { s with sc := s.sc.map (fun (o : ScOp) => if o.num = num then { o with window := some w } else o) }

theorem exec_scAnnounce (hq : NoneDue s k) (he : s.event = some (.scAnnounce k c num)) : exec .scAnnounce s
    = .next (if s.anyOut (k, c) then
        s.post (if s.now < (8 * (s.beat / 8) + 8) * Config.ticksPerBeat - 1
          then min (ceilTo (cyc k) (s.now + 1)) ((8 * (s.beat / 8) + 8) * Config.ticksPerBeat - 1) else ceilTo (cyc k) (s.now + 1)) (.scAnnounce k c num)
      else if (announcedIn s num (s.beat / 8)).agenda.any (fun e => e.ev == .scDelivery (s.beat / 8)) then announcedIn s num (s.beat / 8)
      else (announcedIn s num (s.beat / 8)).post ((8 * (s.beat / 8) + 32) * Config.ticksPerBeat) (.scDelivery (s.beat / 8))) := by
  show execScAnnounce s = _
  unfold execScAnnounce
  rw [he]
  dsimp only
  rw [settle_noneDue hq]
  rfl

theorem ceilTo_lt {m t : Nat} (hm : 0 < m) : ceilTo m t < t + m := by
  have h := Nat.div_add_mod (t + (m - 1)) m
  rw [ceilTo, Nat.mul_comm]
  omega

/-- An announcement that an access holds is looked at in the next cycle, and at the window's end. -/
theorem scAnnounce_held (hq : NoneDue s k) (ho : s.anyOut (k, c) = true) : Happens s (.scAnnounce k c num) .scAnnounce (fun t =>
    ∃ u, s.now < u ∧ u ≤ s.now + cyc k
      ∧ (s.now < (8 * (s.beat / 8) + 8) * Config.ticksPerBeat - 1 → u ≤ (8 * (s.beat / 8) + 8) * Config.ticksPerBeat - 1)
      ∧ t = s.post u (.scAnnounce k c num)) := by
  intro he
  refine ⟨_, exec_scAnnounce hq he, ?_⟩
  rw [if_pos ho]
  have h1 : s.now + 1 ≤ ceilTo (cyc k) (s.now + 1) := ceilTo_ge (cyc_pos k)
  have h2 : ceilTo (cyc k) (s.now + 1) < s.now + 1 + cyc k := ceilTo_lt (cyc_pos k)
  generalize (8 * (s.beat / 8) + 8) * Config.ticksPerBeat - 1 = last
  refine ⟨_, ?_, ?_, fun h => ?_, rfl⟩
  · split_ifs <;> omega
  · split_ifs <;> omega
  · rw [if_pos h]
    exact Nat.min_le_right _ _

theorem scAnnounce_free (hq : NoneDue s k) (ho : s.anyOut (k, c) = false) : Happens s (.scAnnounce k c num) .scAnnounce (fun t =>
    t.sc = s.sc.map (fun (o : ScOp) => if o.num = num then { o with window := some (s.beat / 8) } else o)
      ∧ (∃ e ∈ t.agenda, e.ev = .scDelivery (s.beat / 8)) ∧ t.cores = s.cores) := by
  intro he
  refine ⟨_, exec_scAnnounce hq he, ?_⟩
  rw [ho, if_neg Bool.false_ne_true]
  by_cases h : (announcedIn s num (s.beat / 8)).agenda.any (fun e => e.ev == .scDelivery (s.beat / 8)) = true
  · rw [if_pos h]
    obtain ⟨e, hm, hev⟩ := List.any_eq_true.1 h
    exact ⟨rfl, ⟨e, hm, beq_iff_eq.1 hev⟩, rfl⟩
  · rw [if_neg h]
    exact ⟨rfl, ⟨_, (mem_agendaInsert _ _ _).2 (.inl rfl), rfl⟩, rfl⟩

theorem exec_scDelivery (he : s.event = some (.scDelivery w)) : exec .scDelivery s
    = .next ((scOrder s.sc w).foldl (fun s o => s.performSc o) { s with sc := s.sc.filter (fun o => o.window != some w) }) := by
  rw [← event_eta he]
  rfl

theorem scDelivery_none (h : ∀ o ∈ s.sc, o.window ≠ some w) : Happens s (.scDelivery w) .scDelivery (fun t => t = s) := by
  intro he
  refine ⟨_, exec_scDelivery he, ?_⟩
  have h1 : s.sc.filter (fun o => o.window == some w) = [] := List.filter_eq_nil_iff.2 (fun o ho hw => h o ho (beq_iff_eq.1 hw))
  have h2 : s.sc.filter (fun o => o.window != some w) = s.sc := List.filter_eq_self.2 (fun o ho => bne_iff_ne.2 (h o ho))
  unfold scOrder
  rw [h1, h2]
  rfl

/-- An SC operation of an event line takes its place among the signals of the cycle. -/
theorem scDelivery_evsig {o : ScOp} (hs : s.sc = [o]) (hw : o.window = some w) (hk : o.who = (k, c)) {addr : Nat} (ha : o.what = .evsig addr) :
    Happens s (.scDelivery w) .scDelivery (fun t => t = { s with
      sc := [], units := unitInsert ⟨s.now / cyc k * cyc k, 3, (k, c), o.d, .evsigSc o.num, addr, 0⟩ s.units }) := by
  intro he
  refine ⟨_, exec_scDelivery he, ?_⟩
  have h1 : [o].filter (fun o => o.window == some w) = [o] := by rw [List.filter_singleton, hw, beq_self_eq_true]; rfl
  have h2 : [o].filter (fun o => o.window != some w) = [] := by rw [List.filter_singleton, hw, bne_self_eq_false]; rfl
  unfold scOrder
  rw [hs, h1, h2]
  show State.performSc _ o = _
  unfold State.performSc
  rw [ha, hk]
  rfl

end

/-! ### What reaches an event unit (R229, R233) -/

section
variable {s : State} {k c num l origin : Nat}

theorem rootForward_joins (what : RootOp) : Happens s (.rvRootForward l k c num what) .rvRootForward (fun t => t = { s with
    units := unitInsert ⟨s.now / Config.cycleTicks (lineTier l) * Config.cycleTicks (lineTier l), (UnitKind.root l num what).stage, (k, c), 0,
      .root l num what, 0, 0⟩ s.units }) :=
  fun he => ⟨_, by rw [← event_eta he]; rfl, rfl⟩

theorem chainForward_joins (o : Option (BitVec 16)) : Happens s (.eventChainForward l origin o) .eventChainForward (fun t => t = { s with
    units := unitInsert ⟨s.now / Config.cycleTicks (lineTier l) * Config.cycleTicks (lineTier l), 3, (0, 0), 0, .chain l origin o, 0, 0⟩ s.units }) :=
  fun he => ⟨_, by rw [← event_eta he]; rfl, rfl⟩

end

/-! ### A wait on the core whose result is known (R229) -/

section
variable {s : State} {q : Nat × Nat} {d : Reg} {num t : Nat} {v : DWord}

/-- A context that looks for its result at a tick. -/
def foreseen (s : State) (q : Nat × Nat) (d : Reg) (t : Nat) (v : DWord) : State :=
  s.modCtx q (fun x => { x with run := .held (.unitOp t d v) })

theorem foreseen_run : ((foreseen s q d t v).ctx q).run = .held (.unitOp t d v) := by
  unfold foreseen
  rw [state_ctx_modCtx_same]

theorem answerAt_held (hr : (s.ctx q).run = .held (.reply d num)) : s.answerAt q num t v
    = if q.2 ≠ 0 ∧ ((foreseen s q d t v).core q.1).ctl.frozen then foreseen s q d t v
      else (foreseen s q d t v).modCtl q.1 (fun c => { c with issueAt := t }) := by
  unfold State.answerAt
  rw [hr]
  exact if_pos rfl

theorem answerAt_spec (hr : (s.ctx q).run = .held (.reply d num)) : OnlyCtx q s (s.answerAt q num t v)
    ∧ ((s.answerAt q num t v).ctx q).run = .held (.unitOp t d v) := by
  rw [answerAt_held hr]
  have h : OnlyCtx q s (foreseen s q d t v) := onlyCtx_modCtx q s (fun x => { x with run := .held (.unitOp t d v) })
  split
  · exact ⟨h, foreseen_run⟩
  · rw [modCtl_ctx]
    exact ⟨h.trans (onlyCtx_issueAt q _ _), foreseen_run⟩

/-- A core may change where every wait on a line stays: the waiters of a line stay. -/
theorem waiters_modCore {l k : Nat} {f : Core → Core} (hne : f (s.core k) ≠ .reset)
    (hkeep : ∀ i n, ((s.core k).ctx i).run.waitsOn l = some n → ((f (s.core k)).ctx i).run.waitsOn l = some n) {w : (Nat × Nat) × Nat}
    (hw : w ∈ s.waiters l) : w ∈ (s.modCore k f).waiters l := by
  rw [mem_waiters] at hw ⊢
  obtain ⟨c, hm, hc, hi, hn⟩ := hw
  have hset : (s.modCore k f).cores = sput s.cores k (f (s.core k)) := if_neg hne
  rw [hset]
  rcases mem_sput_keep .reset s.cores k (f (s.core k)) hm with h | h
  · exact ⟨c, h, hc, hi, hn⟩
  · obtain ⟨h1, h2⟩ := Prod.mk.inj h
    refine ⟨f (s.core k), h1 ▸ mem_sput_self _ _ _, hc, hi, hkeep _ _ ?_⟩
    rw [← hn, h2]
    rfl

theorem core_ne_reset {u : State} {w : Wait} (h : (u.ctx q).run = .held w) (f : Ctl → Ctl) :
    ({ u.core q.1 with ctl := f (u.core q.1).ctl } : Core) ≠ .reset := by
  intro he
  have hx : ({ u.core q.1 with ctl := f (u.core q.1).ctl } : Core).ctx q.2 = Core.reset.ctx q.2 := congrArg (fun c : Core => c.ctx q.2) he
  exact absurd (h.symm.trans (congrArg Ctx.run hx)) (fun h => by cases h)

theorem waiters_answerAt (hr : (s.ctx q).run = .held (.reply d num)) {l : Nat} {w : (Nat × Nat) × Nat} (hw : w ∈ s.waiters l) :
    w ∈ (s.answerAt q num t v).waiters l := by
  rw [answerAt_held hr]
  have h : w ∈ (foreseen s q d t v).waiters l := by
    refine waiters_modCtx (by rw [hr]; rfl) (fun he => ?_) hw
    exact absurd (congrArg Ctx.run he) (fun h => by cases h)
  split
  · exact h
  · exact waiters_modCore (core_ne_reset (u := foreseen s q d t v) (q := q) foreseen_run (fun c => { c with issueAt := t })) (fun _ _ h => h) h

end

/-! ### What an operation does at its root (R229, R230) -/

/-- An operation's context looks for a status and a value, not before the operation's cycle. -/
def RootGives (q : Nat × Nat) (d : Reg) (since : Nat) (t : State) (status : Nat) (v : BitVec 32 → Prop) : Prop := ∃ y at_, v y ∧ since ≤ at_
  ∧ (t.ctx q).run = .held (.unitOp at_ d (BitVec.ofNat 64 (y.toNat + status * 2 ^ 32)))

section
variable {s : State} {o : UnitOp} {d : Reg} {num l : Nat}

theorem fromRoot_eq (status : Nat) (v : BitVec 32) : ∃ at_, o.at_ ≤ at_ ∧ s.fromRoot o l num status v = s.answerAt o.who num at_ (syncWord status v) := by
  unfold State.fromRoot
  exact ⟨_, Nat.le_trans (Nat.le_add_right _ _) (ceilTo_ge (cyc_pos o.who.1)), rfl⟩

theorem fromRoot_spec (hr : (s.ctx o.who).run = .held (.reply d num)) (status : Nat) (v : BitVec 32) :
    (s.fromRoot o l num status v).lines = s.lines ∧ RootGives o.who d o.at_ (s.fromRoot o l num status v) status (fun y => y = v)
      ∧ ∀ j, ∀ w ∈ s.waiters j, w ∈ (s.fromRoot o l num status v).waiters j := by
  obtain ⟨at_, hle, heq⟩ := fromRoot_eq (s := s) (o := o) (l := l) (num := num) status v
  rw [heq]
  obtain ⟨honly, hrun⟩ := answerAt_spec (t := at_) (v := syncWord status v) hr
  exact ⟨(congrArg State.lines honly.machine :), ⟨v, at_, rfl, hle, hrun⟩, fun j w hw => waiters_answerAt hr hw⟩

theorem rootStatus_spec (hr : (s.ctx o.who).run = .held (.reply d num)) (status : Nat) :
    (s.rootStatus o l num status).lines = s.lines ∧ RootGives o.who d o.at_ (s.rootStatus o l num status) status (fun _ => True) := by
  obtain ⟨h1, ⟨y, at_, -, hle, hrun⟩, -⟩ := fromRoot_spec (s := { s with fresh := s.fresh + 1 }) (o := o) (l := l) hr status
    (Config.freeUnitValue s.fresh)
  exact ⟨h1, y, at_, trivial, hle, hrun⟩

end

section
variable {s : State} {q : Nat × Nat} {d : Reg} {num l origin since addr w left : Nat} {count nc : BitVec 16}

/-- An operation of a cycle at a line. -/
def unitAt (s : State) (since addr : Nat) (q : Nat × Nat) (d : Reg) (kind : UnitKind) : State :=
  s.applyUnit ⟨since, kind.stage, q, d, kind, addr, 0⟩

theorem unitAt_chain (o : Option (BitVec 16)) : unitAt s since addr q d (.chain l origin o) = if (s.line l).alloc.isNone then s
    else o.elim (s.signalAt l origin since) (fun v => (s.modLine l (fun e => { e with c := v })).fireLine l since) := by
  unfold unitAt State.applyUnit
  cases o <;> rfl

theorem unitAt_init : unitAt s since addr q d (.root l num (.init count))
    = if (s.line l).alloc.isNone then s.rootStatus ⟨since, 2, q, d, .root l num (.init count), addr, 0⟩ l num 3
      else if (s.line l).count ≠ 0 then s.rootStatus ⟨since, 2, q, d, .root l num (.init count), addr, 0⟩ l num 4
      else (s.rootStatus ⟨since, 2, q, d, .root l num (.init count), addr, 0⟩ l num 0).modLine l (fun e => { e with count := count, pend := count }) := rfl

theorem unitAt_arrive : unitAt s since addr q d (.root l num .arrive)
    = if (s.line l).alloc.isNone then s.rootStatus ⟨since, 3, q, d, .root l num .arrive, addr, 0⟩ l num 3
      else if (s.line l).count = 0 then s.rootStatus ⟨since, 3, q, d, .root l num .arrive, addr, 0⟩ l num 5
      else (s.fromRoot ⟨since, 3, q, d, .root l num .arrive, addr, 0⟩ l num 0 ((s.line l).c.setWidth 32)).arriveAt l since := rfl

theorem unitAt_token : unitAt s since addr q d (.root l num (.token w left))
    = if (s.line l).alloc.isNone then s.rootStatus ⟨since, 3, q, d, .root l num (.token w left), addr, 0⟩ l num 3
      else if (s.line l).count = 0 then s.rootStatus ⟨since, 3, q, d, .root l num (.token w left), addr, 0⟩ l num 5
      else (s.fromRoot ⟨since, 3, q, d, .root l num (.token w left), addr, 0⟩ l num 0 ((s.line l).c.setWidth 32)).attachArrival q w left := rfl

/-- An SC signal at a line; `f` is `applyUnit`, made a variable before anything is reduced, as for `physOk_hbm_of`. -/
theorem unitAt_evsigSc_of {f : State → UnitOp → State} (hf : f = State.applyUnit) {own root : Nat} (ht : s.target q addr = .line own root) :
    f s ⟨since, 3, q, d, .evsigSc num, addr, 0⟩ = (s.signalAt own own since).answerIn q num
      (UnitOp.over ⟨since, 3, q, d, .evsigSc num, addr, 0⟩) (syncWord 0 ((s.signalAt own own since).line own).gen) := by
  delta State.applyUnit at hf
  rw [hf]
  obtain ⟨target, htarget⟩ : ∃ f : State → Nat × Nat → Nat → Target, State.target = f := ⟨_, rfl⟩
  rw [htarget] at ht ⊢
  beta_reduce
  cases h : target s q addr with
  | line own' root' =>
    rw [h, Target.line.injEq] at ht
    obtain ⟨rfl, rfl⟩ := ht
    rfl
  | undeclared => rw [h] at ht; cases ht
  | free => rw [h] at ht; cases ht
  | mem home a => rw [h] at ht; cases ht

theorem alloc_free (h : (s.line l).alloc = none) : (s.line l).alloc.isNone = true := by rw [h]; rfl

theorem alloc_taken (h : (s.line l).alloc ≠ none) : ¬ (s.line l).alloc.isNone = true := fun hn => h (Option.isNone_iff_eq_none.1 hn)

theorem chain_free (h : (s.line l).alloc = none) (o : Option (BitVec 16)) : unitAt s since addr q d (.chain l origin o) = s := by
  rw [unitAt_chain, if_pos (alloc_free h)]

/-- A team point's new C at another line of the team (R229). -/
theorem chain_fires (h : (s.line l).alloc ≠ none) : (unitAt s since addr q d (.chain l origin (some nc))).cores = s.cores
    ∧ FiresWaiters s (unitAt s since addr q d (.chain l origin (some nc))) l since
    ∧ OnlyLine s (unitAt s since addr q d (.chain l origin (some nc))) l { s.line l with c := nc } := by
  rw [unitAt_chain, if_neg (alloc_taken h), Option.elim_some]
  obtain ⟨h1, h2, h3⟩ := fireLine_spec (s.modLine l (fun e => { e with c := nc })) l since
  exact ⟨h1, fun w hw => (h3 _).2 (.inr ⟨w, hw, rfl⟩), fun j => line_of_lines h2 j⟩

/-- An event message at a line of its chain goes on to NEXT (R232). -/
theorem chain_signals (h : (s.line l).alloc ≠ none) : (unitAt s since addr q d (.chain l origin none)).cores = s.cores
    ∧ FiresWaiters s (unitAt s since addr q d (.chain l origin none)) l since
    ∧ OnlyLine s (unitAt s since addr q d (.chain l origin none)) l { s.line l with gen := (s.line l).gen + 1 }
    ∧ ∀ n, (s.line l).next = some n → n ≠ origin → ⟨since + hopTicks l n, .eventChainForward n origin none⟩
      ∈ (unitAt s since addr q d (.chain l origin none)).agenda := by
  rw [unitAt_chain, if_neg (alloc_taken h), Option.elim_none]
  obtain ⟨h1, h2, h3⟩ := signalAt_spec s l since origin
  refine ⟨h1, h3, fun j => line_of_lines h2 j, fun n hn hno => ?_⟩
  have hnext : (((s.modLine l (fun e => { e with gen := e.gen + 1 })).fireLine l since).line l).next = some n := by
    obtain ⟨-, g2, -⟩ := fireLine_spec (s.modLine l (fun e => { e with gen := e.gen + 1 })) l since
    rw [line_of_lines g2 l, if_pos rfl]
    exact hn
  unfold State.signalAt
  dsimp only
  rw [hnext]
  dsimp only
  rw [if_neg hno]
  exact (mem_agendaInsert _ _ _).2 (.inl rfl)

section
variable (hr : (s.ctx q).run = .held (.reply d num))
include hr

theorem root_free (h : (s.line l).alloc = none) : ∀ what ∈ [RootOp.init count, .arrive, .token w left],
    (unitAt s since addr q d (.root l num what)).lines = s.lines
      ∧ RootGives q d since (unitAt s since addr q d (.root l num what)) 3 (fun _ => True) := by
  intro what hw
  simp only [List.mem_cons, List.not_mem_nil, or_false] at hw
  rcases hw with rfl | rfl | rfl
  · rw [unitAt_init, if_pos (alloc_free h)]
    exact rootStatus_spec hr 3
  · rw [unitAt_arrive, if_pos (alloc_free h)]
    exact rootStatus_spec hr 3
  · rw [unitAt_token, if_pos (alloc_free h)]
    exact rootStatus_spec hr 3

theorem root_init_again (h : (s.line l).alloc ≠ none) (hc : (s.line l).count ≠ 0) : (unitAt s since addr q d (.root l num (.init count))).lines = s.lines
    ∧ RootGives q d since (unitAt s since addr q d (.root l num (.init count))) 4 (fun _ => True) := by
  rw [unitAt_init, if_neg (alloc_taken h), if_pos hc]
  exact rootStatus_spec hr 4

theorem root_init (h : (s.line l).alloc ≠ none) (hc : (s.line l).count = 0) :
    OnlyLine s (unitAt s since addr q d (.root l num (.init count))) l { s.line l with count := count, pend := count }
    ∧ RootGives q d since (unitAt s since addr q d (.root l num (.init count))) 0 (fun _ => True) := by
  rw [unitAt_init, if_neg (alloc_taken h), if_neg (fun hn => hn hc)]
  obtain ⟨h1, h2⟩ := rootStatus_spec (o := ⟨since, 2, q, d, .root l num (.init count), addr, 0⟩) (l := l) hr 0
  exact ⟨onlyLine_of_lines h1 rfl, h2⟩

theorem root_undeclared (h : (s.line l).alloc ≠ none) (hc : (s.line l).count = 0) : ∀ what ∈ [RootOp.arrive, .token w left],
    (unitAt s since addr q d (.root l num what)).lines = s.lines
      ∧ RootGives q d since (unitAt s since addr q d (.root l num what)) 5 (fun _ => True) := by
  intro what hw
  simp only [List.mem_cons, List.not_mem_nil, or_false] at hw
  rcases hw with rfl | rfl
  · rw [unitAt_arrive, if_neg (alloc_taken h), if_pos hc]
    exact rootStatus_spec hr 5
  · rw [unitAt_token, if_neg (alloc_taken h), if_pos hc]
    exact rootStatus_spec hr 5

theorem root_last (h : (s.line l).alloc ≠ none) (hc : (s.line l).count ≠ 0) (hp : (s.line l).pend = 1) :
    OnlyLine s (unitAt s since addr q d (.root l num .arrive)) l { s.line l with c := (s.line l).c + 1, pend := (s.line l).count }
    ∧ FiresWaiters s (unitAt s since addr q d (.root l num .arrive)) l since
    ∧ RootGives q d since (unitAt s since addr q d (.root l num .arrive)) 0 (fun y => y = (s.line l).c.setWidth 32) := by
  rw [unitAt_arrive, if_neg (alloc_taken h), if_neg hc]
  obtain ⟨h1, h2, h3⟩ := fromRoot_spec (o := ⟨since, 3, q, d, .root l num .arrive, addr, 0⟩) (l := l) hr 0 ((s.line l).c.setWidth 32)
  generalize s.fromRoot ⟨since, 3, q, d, .root l num .arrive, addr, 0⟩ l num 0 ((s.line l).c.setWidth 32) = u at h1 h2 h3 ⊢
  have hl : u.line l = s.line l := congrArg (fun ls => sget EvLine.reset ls l) h1
  unfold State.arriveAt
  dsimp only
  rw [hl, if_neg hc, if_pos hp]
  obtain ⟨g1, g2, g3⟩ := fireRoot_spec (u.modLine l (fun e => { e with c := e.c + 1, pend := e.count })) l since
  refine ⟨onlyLine_of_lines h1 g2, fun w hw => g3 w (h3 l w hw), ?_⟩
  unfold RootGives
  rw [ctx_of_cores g1]
  exact h2

theorem root_arrive (h : (s.line l).alloc ≠ none) (hc : (s.line l).count ≠ 0) (hp : (s.line l).pend ≠ 1) :
    OnlyLine s (unitAt s since addr q d (.root l num .arrive)) l { s.line l with pend := (s.line l).pend - 1 }
    ∧ RootGives q d since (unitAt s since addr q d (.root l num .arrive)) 0 (fun y => y = (s.line l).c.setWidth 32) := by
  rw [unitAt_arrive, if_neg (alloc_taken h), if_neg hc]
  obtain ⟨h1, h2, -⟩ := fromRoot_spec (o := ⟨since, 3, q, d, .root l num .arrive, addr, 0⟩) (l := l) hr 0 ((s.line l).c.setWidth 32)
  generalize s.fromRoot ⟨since, 3, q, d, .root l num .arrive, addr, 0⟩ l num 0 ((s.line l).c.setWidth 32) = u at h1 h2 ⊢
  have hl : u.line l = s.line l := congrArg (fun ls => sget EvLine.reset ls l) h1
  unfold State.arriveAt
  dsimp only
  rw [hl, if_neg hc, if_neg hp]
  exact ⟨onlyLine_of_lines h1 rfl, h2⟩

/-- An SC signal takes effect, and its context reads the new generation (R313). -/
theorem evsigSc_rule (own root : Nat) (ht : s.target q addr = .line own root) :
    (∀ j, (unitAt s since addr q d (.evsigSc num)).line j
      = if j = own then { s.line own with gen := (s.line own).gen + 1 } else s.line j)
    ∧ (d ≠ 0 → ((unitAt s since addr q d (.evsigSc num)).ctx q).reg (Machine.tierOf q.1) d = ((s.line own).gen + 1).setWidth 64) := by
  obtain ⟨h1, h2, -⟩ := signalAt_spec s own since own
  have heq := unitAt_evsigSc_of rfl (since := since) (d := d) (num := num) ht
  have hgen : ((s.signalAt own own since).line own).gen = (s.line own).gen + 1 := by rw [line_of_lines h2 own, if_pos rfl]
  have hrun : ((s.signalAt own own since).ctx q).run = .held (.reply d num) := by rw [ctx_of_cores h1]; exact hr
  have haw : ((s.signalAt own own since).ctx q).awaits num = some d := by
    unfold Ctx.awaits
    rw [hrun]
    exact if_pos rfl
  have hlines : OnlyLine s (s.signalAt own own since) own { s.line own with gen := (s.line own).gen + 1 } := fun j => line_of_lines h2 j
  rw [hgen, syncWord_zero] at heq
  unfold unitAt UnitKind.stage
  rw [heq]
  generalize s.signalAt own own since = u at hrun haw hlines ⊢
  unfold State.answerIn
  rw [haw]
  obtain ⟨⟨honly, hregs, -⟩, -⟩ := finish_held (d := d) (v := ((s.line own).gen + 1).setWidth 64) hrun
    (UnitOp.over ⟨since, 3, q, d, .evsigSc num, addr, 0⟩)
  refine ⟨fun j => ?_, fun hd => (hregs d).trans (if_pos ⟨rfl, hd⟩)⟩
  have hl : (u.finishAt q (scalarAct (Machine.tierOf q.1) (u.ctx q) d (((s.line own).gen + 1).setWidth 64))
      (UnitOp.over ⟨since, 3, q, d, .evsigSc num, addr, 0⟩)).lines = u.lines := (congrArg State.lines honly.machine :)
  exact (congrArg (fun ls => sget EvLine.reset ls j) hl).trans (hlines j)

end

end

end Sys2Proof.Proofs
end

section
/-! PROOFS. Far atomics, object words, and the slots of a bank's wheel (R219, R236, R237). -/

namespace Sys2Proof.Proofs

open Sys2Proof.Machine Sys2Proof.Safety Sys2Proof.Laws

/-! ### Numbers written as bytes -/

theorem sget_writeBytes_le (m : Sparse Byte) (a n v b : Nat) : sget 0 (writeBytes m a (leBytes n v)) b
    = if a ≤ b ∧ b < a + n then BitVec.ofNat 8 (v / 2 ^ (8 * (b - a))) else sget 0 m b := by
  rw [sget_writeBytes, leBytes_eq_map, List.length_map, List.length_range]
  by_cases h : a ≤ b ∧ b < a + n
  · rw [if_pos h, if_pos h, List.getD_eq_getElem _ _ (by simp; omega), List.getElem_map, List.getElem_range]
  · rw [if_neg h, if_neg h]

/-- A byte of a number's low 64 bits is a byte of the number. -/
theorem byte_mod (x i : Nat) (hi : i < 8) : BitVec.ofNat 8 (x % 2 ^ 64 / 2 ^ (8 * i)) = BitVec.ofNat 8 (x / 2 ^ (8 * i)) := by
  refine BitVec.eq_of_toNat_eq ?_
  have hsplit : (2 : Nat) ^ 64 = 2 ^ (8 * i) * 2 ^ (64 - 8 * i) := by rw [← Nat.pow_add]; congr 1; omega
  rw [BitVec.toNat_ofNat, BitVec.toNat_ofNat, hsplit, Nat.mod_mul_right_div_self,
    Nat.mod_mod_of_dvd _ (Nat.pow_dvd_pow 2 (show 8 ≤ 64 - 8 * i by omega))]

theorem ofInt_atomInt (x : Nat) : BitVec.ofInt 64 (atomInt .i64 x) = BitVec.ofNat 64 x := by
  unfold atomInt
  split
  · refine BitVec.eq_of_toInt_eq ?_
    rw [BitVec.toInt_ofInt, BitVec.toInt_ofNat']
    exact Int.sub_bmod_right (x : Int) (2 ^ 64)
  · exact BitVec.ofInt_natCast 64 x

/-! ### Atomics of far space (R236) -/

section
variable {s u : State} {part col pa : Nat} {r : AtomicReq} {ev : Event} {st : BitVec 8}

theorem ahead_of_translateFor {v : Nat} {x : Except (BitVec 8) Nat} {read write : Bool} (ht : s.translateFor part col v read write = (x, u)) :
    ahead u = ahead s := by
  have h := ahead_translateFor s part col v read write
  rwa [ht] at h

section
variable {f : State → Nat → Nat → AtomicReq → Event → FarRes DWord × State} (hf : f = State.farRmw) (hask : s.dev.fabric.asked ev r.addr = none)
include hf hask

theorem farRmw_fault_of (ht : s.translateFor part col r.addr true true = (.error st, u)) : f s part col r ev = (.fault st, u) := by
  delta State.farRmw at hf
  rw [hf]
  beta_reduce
  rw [hask, ht]

theorem farRmw_outside_of (ht : s.translateFor part col r.addr true true = (.ok pa, u)) (hh : s.dev.inHbm pa = false) :
    f s part col r ev = (.fault tNoPhys, u) := by
  have hdev : u.dev = s.dev := (congrArg State.dev (ahead_of_translateFor ht) :)
  rw [← hdev] at hh
  delta State.farRmw at hf
  rw [hf]
  beta_reduce
  rw [hask, ht]
  obtain ⟨place, hplace⟩ : ∃ f : Dev → Nat → Place, Dev.place = f := ⟨_, rfl⟩
  obtain ⟨inHbm, hin⟩ : ∃ f : Dev → Nat → Bool, Dev.inHbm = f := ⟨_, rfl⟩
  rw [hin] at hh
  rw [hplace, hin]
  dsimp only
  rw [hh]
  rfl

/-- A far operation in HBM without an error is performed there. -/
theorem farRmw_hbm_of (ht : s.translateFor part col r.addr true true = (.ok pa, u)) (hh : s.dev.inHbm pa = true) (hp : s.dev.place pa = .hbm)
    (hb : s.dev.badFar pa (r.ty.width / 8) = false) : f s part col r ev
      = (.ok (rmwOp r.op r.ty (leNat (s.dev.readFar pa (r.ty.width / 8))) r.opnd r.cmp (Config.freeUnitValue u.fresh)).2,
        ({ u with fresh := u.fresh + 1 } : State).writePhys pa (leBytes (r.ty.width / 8)
          (rmwOp r.op r.ty (leNat (s.dev.readFar pa (r.ty.width / 8))) r.opnd r.cmp (Config.freeUnitValue u.fresh)).1)) := by
  have hdev : u.dev = s.dev := (congrArg State.dev (ahead_of_translateFor ht) :)
  rw [← hdev] at hh hp hb ⊢
  delta State.farRmw at hf
  rw [hf]
  beta_reduce
  rw [hdev, hask, ht, ← hdev]
  obtain ⟨place, hplace⟩ : ∃ f : Dev → Nat → Place, Dev.place = f := ⟨_, rfl⟩
  obtain ⟨inHbm, hin⟩ : ∃ f : Dev → Nat → Bool, Dev.inHbm = f := ⟨_, rfl⟩
  obtain ⟨badFar, hbad⟩ : ∃ f : Dev → Nat → Nat → Bool, Dev.badFar = f := ⟨_, rfl⟩
  rw [hin] at hh
  rw [hplace] at hp
  rw [hbad] at hb
  rw [hplace, hin, hbad]
  dsimp only
  rw [hh, hp]
  dsimp only
  rw [hb]
  rfl

end

/-- What an operation's result is to its context. -/
def pointAnswered (q : Nat × Nat) (r : AtomicReq) (ev : Event) : Option DWord × State → State
  | (some v, s) => s.answer q r.num v
  | (none, s) => if s.asks r then (s.draw (cyc r.core)).2.post (s.now + (s.draw (cyc r.core)).1) ev else s

/-- What an answer to a far operation does. -/
def farAnswered (q : Nat × Nat) (r : AtomicReq) (ev : Event) : FarRes DWord × State → State
  | (.wait, s) => s
  | (.fault t, s) => (s.forget ev).answerTrap q r.num (farTrap t (BitVec.ofNat 64 r.addr))
  | (.ok v, s) => pointAnswered q r ev ((s.forget ev).pointResult r v)

theorem exec_deviceAtomicReply (he : s.event = some (.deviceAtomicReply r)) : exec .deviceAtomicReply s
    = .next (if (s.part (s.partOf r.core)).epoch ≠ r.epoch then s
      else if !decide (opArrive ≤ r.op) ∧ s.lineBusy (r.core, r.ctx) r.addr (.deviceAtomicReply r)
      then s.putOff (s.now + cyc r.core) (.deviceAtomicReply r)
      else farAnswered (r.core, r.ctx) r (.deviceAtomicReply r) (if decide (opArrive ≤ r.op) then s.pointRmw r
        else s.farRmw (s.partOf r.core) (columnOf r.core) r (.deviceAtomicReply r))) := by
  rw [← event_eta he]
  rfl

end

section
variable {s u : State} {k c num pa : Nat} {r : AtomicReq} {epoch : BitVec 4} {st : BitVec 8} {d : Reg} {v : DWord}

/-- The end of a gated wait leaves the device alone. -/
theorem answer_dev {q : Nat × Nat} (hr : (s.ctx q).run = .gated (.reply d num)) : (s.answer q num v).dev = s.dev := by
  rw [answer_gated hr]
  obtain ⟨⟨honly, -, -⟩, -, -⟩ := finish_gated (d := d) (v := v) hr s.now
  exact (congrArg State.dev honly.machine :)

theorem pointResult_some (h9 : r.op ≠ opPhase) (h10 : r.op ≠ opToken) : s.pointResult r v = (some v, s) := by
  unfold State.pointResult
  rw [if_neg h9, if_neg (fun h => h10 h.1)]

/-- An operation that is neither a look nor a token ends its context's wait with its result. -/
theorem farAnswered_ok {q : Nat × Nat} {ev : Event} {t : State} (hc : t.cores = s.cores) (hr : (s.ctx q).run = .gated (.reply d r.num))
    (h9 : r.op ≠ opPhase) (h10 : r.op ≠ opToken) : WaitEnds s q d v (farAnswered q r ev (.ok v, t)) ∧ (farAnswered q r ev (.ok v, t)).dev.far = t.dev.far := by
  have heq : farAnswered q r ev (.ok v, t) = (t.forget ev).answer q r.num v := by
    show pointAnswered q r ev ((t.forget ev).pointResult r v) = _
    rw [pointResult_some h9 h10]
    rfl
  have hrun : ((t.forget ev).ctx q).run = .gated (.reply d r.num) := by
    rw [ctx_of_cores (s := s) (t := t.forget ev) hc]
    exact hr
  rw [heq]
  exact ⟨(waitEnds_answer hrun).of_cores hc, (congrArg Dev.far (answer_dev hrun) :)⟩

theorem deviceReply_old (h : (s.part (s.partOf r.core)).epoch ≠ r.epoch) :
    Happens s (.deviceAtomicReply r) .deviceAtomicReply (fun t => t = s) :=
  fun he => ⟨_, exec_deviceAtomicReply he, if_pos h⟩

/-- A far operation fails with its status: the context takes a trap that names the address. -/
def FarFails (s : State) (q : Nat × Nat) (addr : Nat) (st : BitVec 8) (t : State) : Prop := ∃ b : State, b.ctx q = s.ctx q
  ∧ b.core q.1 = s.core q.1 ∧ t = b.takeTrap q (b.issuedWord q) ⟨.farfault, st, BitVec.ofNat 64 addr, false⟩

section
variable (hep : (s.part (s.partOf k)).epoch = epoch) (hr : r = { r with core := k, ctx := c, num := num, home := none, epoch := epoch })
include hep hr

theorem device_due (hop : r.op < 7) (hbusy : s.lineBusy (k, c) r.addr (.deviceAtomicReply r) = false) (he : s.event = some (.deviceAtomicReply r)) :
    exec .deviceAtomicReply s = .next (farAnswered (k, c) r (.deviceAtomicReply r)
      (s.farRmw (s.partOf k) (columnOf k) r (.deviceAtomicReply r))) := by
  have hk : r.core = k := congrArg AtomicReq.core hr
  have hc : r.ctx = c := congrArg AtomicReq.ctx hr
  have he' : r.epoch = epoch := congrArg AtomicReq.epoch hr
  have hno : decide (opArrive ≤ r.op) = false := decide_eq_false (Nat.not_le.2 hop)
  rw [exec_deviceAtomicReply he, hk, hc, he', hno, hbusy, if_neg (fun h => h hep), if_neg (fun h => absurd h.2 Bool.false_ne_true),
    if_neg Bool.false_ne_true]

variable (hw : (s.ctx (k, c)).run = .gated (.reply d num))
include hw

theorem device_fails (hop : r.op < 7) (hbusy : s.lineBusy (k, c) r.addr (.deviceAtomicReply r) = false) (hst : st ≠ tEcc)
    (hx : s.farRmw (s.partOf k) (columnOf k) r (.deviceAtomicReply r) = (.fault st, u)) (hu : ahead u = ahead s) :
    Happens s (.deviceAtomicReply r) .deviceAtomicReply (FarFails s (k, c) r.addr st) := by
  intro he
  refine ⟨_, device_due hep hr hop hbusy he, u.forget (.deviceAtomicReply r), ?_, ?_, ?_⟩
  · exact ctx_of_cores (s := s) (t := u.forget (.deviceAtomicReply r)) (congrArg State.cores hu :) (k, c)
  · exact congrArg (fun cs => sget Core.reset cs k) (congrArg State.cores hu :)
  · have hrun : ((u.forget (.deviceAtomicReply r)).ctx (k, c)).run = .gated (.reply d num) := by
      rw [ctx_of_cores (s := s) (t := u.forget (.deviceAtomicReply r)) (congrArg State.cores hu :)]
      exact hw
    have hn : r.num = num := congrArg AtomicReq.num hr
    rw [hx]
    show State.answerTrap _ _ _ (farTrap st _) = _
    rw [hn, answerTrap_some (awaits_gated hrun)]
    unfold farTrap
    rw [if_neg hst]

/-- An atomic of far space is performed in HBM, and its context takes the old value (R236). -/
theorem device_performed (hop : r.op < 7) (hask : s.dev.fabric.asked (.deviceAtomicReply r) r.addr = none)
    (hbusy : s.lineBusy (k, c) r.addr (.deviceAtomicReply r) = false)
    (ht : s.translateFor (s.partOf k) (columnOf k) r.addr true true = (.ok pa, u)) (hh : s.dev.inHbm pa = true) (hp : s.dev.place pa = .hbm)
    (hb : s.dev.badFar pa (r.ty.width / 8) = false) :
    ∃ res free, res = rmwOp r.op r.ty (leNat ((List.range (r.ty.width / 8)).map (fun i => farByte s (pa + i)))) r.opnd r.cmp free
      ∧ Happens s (.deviceAtomicReply r) .deviceAtomicReply (fun t => WaitEnds s (k, c) d res.2 t
        ∧ ∀ b, farByte t b = if pa ≤ b ∧ b < pa + r.ty.width / 8 then BitVec.ofNat 8 (res.1 / 2 ^ (8 * (b - pa))) else farByte s b) := by
  refine ⟨_, Config.freeUnitValue u.fresh, rfl, fun he => ⟨_, device_due hep hr hop hbusy he, ?_⟩⟩
  rw [farRmw_hbm_of rfl hask ht hh hp hb]
  have hread : s.dev.readFar pa (r.ty.width / 8) = (List.range (r.ty.width / 8)).map (fun i => farByte s (pa + i)) := readBytes_eq_map s.dev.far pa _
  have hu := ahead_of_translateFor ht
  have hn : r.num = num := congrArg AtomicReq.num hr
  have hdev : u.dev = s.dev := (congrArg State.dev hu :)
  rw [hread]
  generalize rmwOp r.op r.ty _ r.opnd r.cmp (Config.freeUnitValue u.fresh) = res
  obtain ⟨hend, hfar⟩ := farAnswered_ok (s := s) (q := (k, c)) (r := r) (ev := .deviceAtomicReply r) (v := res.2) (d := d)
    (t := ({ u with fresh := u.fresh + 1 } : State).writePhys pa (leBytes (r.ty.width / 8) res.1)) (congrArg State.cores hu :) (by rw [hn]; exact hw)
    (Nat.ne_of_lt (Nat.lt_of_lt_of_le hop (by decide))) (Nat.ne_of_lt (Nat.lt_of_lt_of_le hop (by decide)))
  refine ⟨hend, fun b => ?_⟩
  unfold farByte
  rw [hfar]
  show sget 0 (writeBytes u.dev.far pa (leBytes (r.ty.width / 8) res.1)) b = _
  rw [sget_writeBytes_le, hdev]

/-- An operation on a memory-backed point in HBM (R234). -/
theorem device_point (hop : r.op ∈ [7, 8]) (hb : s.dev.badFar r.addr 8 = false) :
    ∃ res free, res = rmwOp r.op r.ty (leNat ((List.range 8).map (fun i => farByte s (r.addr + i)))) r.opnd r.cmp free
      ∧ Happens s (.deviceAtomicReply r) .deviceAtomicReply (fun t => WaitEnds s (k, c) d res.2 t
        ∧ ∀ b, farByte t b = if r.addr ≤ b ∧ b < r.addr + 8 then BitVec.ofNat 8 (res.1 / 2 ^ (8 * (b - r.addr))) else farByte s b) := by
  have hops : opArrive ≤ r.op ∧ r.op ≠ opPhase ∧ r.op ≠ opToken := by
    simp only [List.mem_cons, List.not_mem_nil, or_false] at hop
    rcases hop with h | h <;> rw [h] <;> decide
  have hk : r.core = k := congrArg AtomicReq.core hr
  have hc : r.ctx = c := congrArg AtomicReq.ctx hr
  have he' : r.epoch = epoch := congrArg AtomicReq.epoch hr
  have hn : r.num = num := congrArg AtomicReq.num hr
  have hread : s.dev.readFar r.addr 8 = (List.range 8).map (fun i => farByte s (r.addr + i)) := readBytes_eq_map s.dev.far r.addr 8
  refine ⟨_, Config.freeUnitValue s.fresh, rfl, fun he => ⟨_, exec_deviceAtomicReply he, ?_⟩⟩
  rw [hk, hc, he', decide_eq_true hops.1, if_neg (fun h => h hep), if_neg (fun h => absurd h.1 (by decide)), if_pos rfl, ← hread]
  have hpoint : s.pointRmw r = (.ok (rmwOp r.op r.ty (leNat (s.dev.readFar r.addr 8)) r.opnd r.cmp (Config.freeUnitValue s.fresh)).2,
      ({ s with fresh := s.fresh + 1 } : State).writePhys r.addr
        (leBytes 8 (rmwOp r.op r.ty (leNat (s.dev.readFar r.addr 8)) r.opnd r.cmp (Config.freeUnitValue s.fresh)).1)) := by
    unfold State.pointRmw
    rw [hb]
    rfl
  rw [hpoint]
  generalize rmwOp r.op r.ty _ r.opnd r.cmp (Config.freeUnitValue s.fresh) = res
  obtain ⟨hend, hfar⟩ := farAnswered_ok (s := s) (q := (k, c)) (r := r) (ev := .deviceAtomicReply r) (v := res.2) (d := d)
    (t := ({ s with fresh := s.fresh + 1 } : State).writePhys r.addr (leBytes 8 res.1)) rfl (by rw [hn]; exact hw) hops.2.1 hops.2.2
  refine ⟨hend, fun b => ?_⟩
  unfold farByte
  rw [hfar]
  exact sget_writeBytes_le s.dev.far r.addr 8 res.1 b

end

end

/-! ### Object words (R219, R369) -/

section
variable {s u : State} {k c num pa : Nat} {obj : DWord} {rel : Bool} {epoch : BitVec 4} {d : Reg}

/-- What an access to an object word is to its context. -/
def objectAnswered (q : Nat × Nat) (num : Nat) (obj : DWord) (ev : Event) : FarRes DWord × State → State
  | (.wait, s) => s
  | (r, s) => (s.forget ev).objectEnd q num obj r

/-- The tick at which an object word is accessed: a near one at a cycle of its bank. -/
def objectCycle (s : State) (k : Nat) (obj : DWord) : Nat := if epNear obj then ceilTo (cyc (epCore (columnOf k) obj)) s.now else s.now

theorem exec_objectReply (he : s.event = some (.objectReply k c num obj rel epoch)) : exec .objectReply s
    = .next (if (s.part (s.partOf k)).epoch ≠ epoch then s
      else if rel ∧ s.regionOut (k, c) obj then s.post ((s.beat + 1) * beatTicks) (.objectReply k c num obj rel epoch)
      else if !epNear obj ∧ s.lineBusy (k, c) obj.toNat (.objectReply k c num obj rel epoch)
      then s.putOff (s.now + cyc k) (.objectReply k c num obj rel epoch)
      else if objectCycle s k obj ≠ s.now then s.post (objectCycle s k obj) (.objectReply k c num obj rel epoch)
      else objectAnswered (k, c) num obj (.objectReply k c num obj rel epoch)
        (s.objectAccess (k, c) obj rel false (.objectReply k c num obj rel epoch))) := by
  show execObjectReply s = _
  unfold execObjectReply
  rw [he]
  obtain ⟨access, haccess⟩ : ∃ f : State → Nat × Nat → DWord → Bool → Bool → Event → FarRes DWord × State, State.objectAccess = f := ⟨_, rfl⟩
  rw [haccess]
  show Host.Outcome.next _ = Host.Outcome.next _
  rfl

theorem objectReply_old (h : (s.part (s.partOf k)).epoch ≠ epoch) :
    Happens s (.objectReply k c num obj rel epoch) .objectReply (fun t => t = s) :=
  fun he => ⟨_, exec_objectReply he, if_pos h⟩

theorem objectReply_waits (hep : (s.part (s.partOf k)).epoch = epoch) (ho : s.regionOut (k, c) obj = true) :
    Happens s (.objectReply k c num obj true epoch) .objectReply
      (fun t => t = s.post ((s.beat + 1) * Config.ticksPerBeat) (.objectReply k c num obj true epoch)) := by
  intro he
  refine ⟨_, exec_objectReply he, ?_⟩
  rw [if_neg (fun h => h hep), if_pos ⟨rfl, ho⟩]
  rfl

/-- An object word that nothing holds is accessed. -/
theorem object_due (hep : (s.part (s.partOf k)).epoch = epoch) (ho : rel = true → s.regionOut (k, c) obj = false)
    (hbusy : epNear obj = false → s.lineBusy (k, c) obj.toNat (.objectReply k c num obj rel epoch) = false)
    (hcyc : epNear obj = true → s.now % cyc (epCore (columnOf k) obj) = 0)
    (he : s.event = some (.objectReply k c num obj rel epoch)) : exec .objectReply s
      = .next (objectAnswered (k, c) num obj (.objectReply k c num obj rel epoch)
        (s.objectAccess (k, c) obj rel false (.objectReply k c num obj rel epoch))) := by
  have hat : objectCycle s k obj = s.now := by
    unfold objectCycle
    cases hn : epNear obj with
    | false => exact if_neg Bool.false_ne_true
    | true =>
      rw [if_pos rfl]
      have hm := hcyc hn
      have hpos := cyc_pos (epCore (columnOf k) obj)
      generalize cyc (epCore (columnOf k) obj) = m at hm hpos ⊢
      obtain ⟨x, hx⟩ := Nat.dvd_of_mod_eq_zero hm
      have hdiv : (m * x + (m - 1)) / m = x := by
        rw [Nat.mul_add_div hpos, Nat.div_eq_of_lt (by omega), Nat.add_zero]
      unfold ceilTo
      rw [hx, hdiv, Nat.mul_comm]
  rw [exec_objectReply he, hat, if_neg (fun h => h hep), if_neg, if_neg, if_neg (fun h => h rfl)]
  · rintro ⟨hn, hb⟩
    rw [hbusy (by simpa using hn)] at hb
    exact absurd hb (by decide)
  · rintro ⟨hr, hout⟩
    rw [ho hr] at hout
    exact absurd hout (by decide)

/-- The access to an object word in far memory, as an atomic. -/
def objectReq (s : State) (q : Nat × Nat) (obj : DWord) (rel : Bool) : AtomicReq :=
  ⟨q.1, q.2, 0, if rel then 0 else 6, .i64, none, false, obj.toNat, if rel then 1 else 0, 0, (s.part (s.partOf q.1)).epoch⟩

theorem objectAccess_far_of {f : State → Nat × Nat → DWord → Bool → Bool → Event → FarRes DWord × State} (hf : f = State.objectAccess)
    {q : Nat × Nat} {run : Bool} {ev : Event} (hn : epNear obj = false) {v : DWord}
    (hx : s.farRmw (s.partOf q.1) (columnOf q.1) (objectReq s q obj rel) ev = (.ok v, u)) :
    f s q obj rel run ev = (.ok (if rel then v + 1 else v), u) := by
  unfold objectReq at hx
  delta State.objectAccess at hf
  rw [hf]
  beta_reduce
  rw [hn]
  show (match s.farRmw _ _ _ ev with
    | (.ok v, s) => ((FarRes.ok (if rel = true then v + 1 else v) : FarRes DWord), s)
    | x => x) = _
  rw [hx]

/-- What the atomic of an object access leaves and gives. -/
theorem rmwOp_object (s : State) (q : Nat × Nat) (obj : DWord) (rel : Bool) (old : Nat) (hold : old < 2 ^ 64) (free : BitVec 32) :
    (rmwOp (objectReq s q obj rel).op (objectReq s q obj rel).ty old (objectReq s q obj rel).opnd (objectReq s q obj rel).cmp free).1
      = (old + if rel then 1 else 0) % 2 ^ 64
    ∧ (if rel then (rmwOp (objectReq s q obj rel).op (objectReq s q obj rel).ty old (objectReq s q obj rel).opnd (objectReq s q obj rel).cmp free).2 + 1
        else (rmwOp (objectReq s q obj rel).op (objectReq s q obj rel).ty old (objectReq s q obj rel).opnd (objectReq s q obj rel).cmp free).2)
      = BitVec.ofNat 64 (old + if rel then 1 else 0) := by
  have hmod : old % 2 ^ 64 = old := Nat.mod_eq_of_lt hold
  cases rel with
  | true =>
    refine ⟨?_, ?_⟩
    · show (old % 2 ^ 64 + 1) % 2 ^ 64 = _
      rw [hmod]
      rfl
    · show BitVec.ofInt 64 (atomInt .i64 (old % 2 ^ 64)) + 1 = _
      rw [hmod, ofInt_atomInt, BitVec.ofNat_add]
      rfl
  | false =>
    refine ⟨?_, ?_⟩
    · show old % 2 ^ 64 ||| 0 = _
      rw [hmod, Nat.or_zero]
      exact hmod.symm
    · show BitVec.ofInt 64 (atomInt .i64 (old % 2 ^ 64)) = _
      rw [hmod, ofInt_atomInt]
      rfl

theorem leNat_lt (bs : List Byte) : leNat bs < 2 ^ (8 * bs.length) := by
  induction bs with
  | nil => exact Nat.one_pos
  | cons b bs ih =>
    have hb := b.isLt
    rw [List.length_cons, Nat.mul_succ, Nat.pow_add]
    show b.toNat + 256 * leNat bs < _
    omega

theorem objectAnswered_ok {q : Nat × Nat} {ev : Event} {t : State} {v : DWord} (hr : (t.ctx q).run = .gated (.reply d num)) :
    WaitEnds t q d v (objectAnswered q num obj ev (.ok v, t)) ∧ (objectAnswered q num obj ev (.ok v, t)).dev.far = t.dev.far :=
  ⟨(waitEnds_answer (s := t.forget ev) hr).of_cores rfl, (congrArg Dev.far (answer_dev (s := t.forget ev) hr) :)⟩

/-- An access to an object word in HBM: ACQ reads it, REL adds 1, and the context takes the word as it then stands (R219). -/
theorem objectReply_far (hep : (s.part (s.partOf k)).epoch = epoch) (hw : (s.ctx (k, c)).run = .gated (.reply d num)) (hn : epNear obj = false)
    (ho : rel = true → s.regionOut (k, c) obj = false) (hbusy : s.lineBusy (k, c) obj.toNat (.objectReply k c num obj rel epoch) = false)
    (hask : s.dev.fabric.asked (.objectReply k c num obj rel epoch) obj.toNat = none)
    (ht : s.translateFor (s.partOf k) (columnOf k) obj.toNat true true = (.ok pa, u)) (hh : s.dev.inHbm pa = true)
    (hp : s.dev.place pa = .hbm) (hb : s.dev.badFar pa 8 = false) :
    Happens s (.objectReply k c num obj rel epoch) .objectReply (fun t =>
      WaitEnds s (k, c) d (BitVec.ofNat 64 (leNat ((List.range 8).map (fun i => farByte s (pa + i))) + if rel then 1 else 0)) t
      ∧ ∀ b, farByte t b = if pa ≤ b ∧ b < pa + 8
        then BitVec.ofNat 8 ((leNat ((List.range 8).map (fun i => farByte s (pa + i))) + if rel then 1 else 0) / 2 ^ (8 * (b - pa)))
        else farByte s b) := by
  intro he
  refine ⟨_, object_due hep ho (fun _ => hbusy) (fun h => absurd h (by rw [hn]; decide)) he, ?_⟩
  have hu := ahead_of_translateFor ht
  have hdev : u.dev = s.dev := (congrArg State.dev hu :)
  have hread : s.dev.readFar pa 8 = (List.range 8).map (fun i => farByte s (pa + i)) := readBytes_eq_map s.dev.far pa 8
  have hwidth : (objectReq s (k, c) obj rel).ty.width / 8 = 8 := show Ty.i64.width / 8 = 8 by decide
  have hx := farRmw_hbm_of rfl (r := objectReq s (k, c) obj rel) hask ht hh hp (by rw [hwidth]; exact hb)
  rw [hwidth] at hx
  rw [objectAccess_far_of rfl hn hx]
  have hold : leNat (s.dev.readFar pa 8) < 2 ^ 64 := by
    have h := leNat_lt (s.dev.readFar pa 8)
    rwa [hread, List.length_map, List.length_range, ← hread] at h
  obtain ⟨h1, h2⟩ := rmwOp_object s (k, c) obj rel (leNat (s.dev.readFar pa 8)) hold (Config.freeUnitValue u.fresh)
  rw [h2, h1, ← hread]
  have hcores : (({ u with fresh := u.fresh + 1 } : State).writePhys pa (leBytes 8 ((leNat (s.dev.readFar pa 8) + if rel then 1 else 0) % 2 ^ 64))).cores
      = s.cores := (congrArg State.cores hu :)
  obtain ⟨hend, hfar⟩ := objectAnswered_ok (obj := obj) (ev := .objectReply k c num obj rel epoch)
    (v := BitVec.ofNat 64 (leNat (s.dev.readFar pa 8) + if rel then 1 else 0)) (by rw [ctx_of_cores hcores]; exact hw)
  refine ⟨hend.of_cores hcores, fun b => ?_⟩
  unfold farByte
  rw [hfar]
  show sget 0 (writeBytes u.dev.far pa (leBytes 8 _)) b = _
  rw [sget_writeBytes_le, hdev]
  by_cases hin : pa ≤ b ∧ b < pa + 8
  · rw [if_pos hin, if_pos hin, byte_mod _ _ (by omega)]
  · rw [if_neg hin, if_neg hin]

end

section
variable {s : State} {k c num : Nat} {obj : DWord} {epoch : BitVec 4} {d : Reg} {q : Nat × Nat} {ev : Event}

/-- The core and the address of a near object word. -/
def objectHome (q : Nat × Nat) (obj : DWord) : Nat := epCore (columnOf q.1) obj
def objectAt (obj : DWord) : Nat := epAddr obj (epOff obj)

section
variable {f : State → Nat × Nat → DWord → Bool → Bool → Event → FarRes DWord × State} (hf : f = State.objectAccess) (hn : epNear obj = true)
  (hb : (s.core (objectHome q obj)).badIn (objectAt obj) 8 = none)
include hf hn hb

theorem objectAccess_acq_of (hq : NoneDue s (objectHome q obj)) : f s q obj false false ev
    = (.ok (BitVec.ofNat 64 ((s.core (objectHome q obj)).readNat (objectAt obj) 8)), s.correct (objectHome q obj) (objectAt obj) 8) := by
  have hset := settle_noneDue hq
  unfold objectHome objectAt at *
  delta State.objectAccess at hf
  rw [hf]
  beta_reduce
  rw [if_pos hn]
  extract_lets home a u
  have hu : u = s := (if_neg (fun h : false = true ∨ false = true => h.elim (fun h => nomatch h) (fun h => nomatch h))).trans hset
  have hb' : (s.core home).badIn a 8 = none := hb
  rw [hu, hb']
  rfl

theorem objectAccess_rel_of (hr : (s.core (objectHome q obj)).ctl.rmw = []) : f s q obj true false ev
    = (.ok (BitVec.ofNat 64 (((s.core (objectHome q obj)).readNat (objectAt obj) 8 + 1) % 2 ^ 64)),
      ((s.correct (objectHome q obj) (objectAt obj) 8).setCore (objectHome q obj) ((s.core (objectHome q obj)).portWrite (objectAt obj)
        (leBytes 8 (((s.core (objectHome q obj)).readNat (objectAt obj) 8 + 1) % 2 ^ 64)))).watch (objectHome q obj) (objectAt obj / 8)) := by
  have hheld : ¬ ((!false) = true ∧ (s.core (objectHome q obj)).held s.now (objectAt obj) none = true) := by
    unfold Core.held
    rw [hr]
    exact fun h => Bool.false_ne_true h.2
  have hset : s.portAdd false (objectHome q obj) (objectAt obj) 1 = some _ := if_neg hheld
  unfold objectHome objectAt at *
  delta State.objectAccess at hf
  rw [hf]
  beta_reduce
  rw [if_pos hn]
  extract_lets home a u
  have hu : u = s := if_pos (.inl rfl)
  have hb' : (s.core home).badIn a 8 = none := hb
  have hset' : s.portAdd false home a 1 = some _ := hset
  rw [hu, hb', if_neg (by decide), if_neg (by decide), hset']

end

/-- REL of a near word: one act of the bank's engine channel (R219). -/
theorem objectReply_rel (hep : (s.part (s.partOf k)).epoch = epoch) (hw : (s.ctx (k, c)).run = .gated (.reply d num)) (hn : epNear obj = true)
    (hcyc : s.now % cyc (objectHome (k, c) obj) = 0) (hr : (s.core (objectHome (k, c) obj)).ctl.rmw = []) (ho : s.regionOut (k, c) obj = false)
    (hb : (s.core (objectHome (k, c) obj)).badIn (objectAt obj) 8 = none) :
    Happens s (.objectReply k c num obj true epoch) .objectReply (fun t =>
      (d ≠ 0 → (t.ctx (k, c)).reg (Machine.tierOf k) d = BitVec.ofNat 64 (coreNat s (objectHome (k, c) obj) (objectAt obj) 8 + 1))
      ∧ ∀ b, nearByte t (objectHome (k, c) obj) b = if objectAt obj ≤ b ∧ b < objectAt obj + 8
        then BitVec.ofNat 8 ((coreNat s (objectHome (k, c) obj) (objectAt obj) 8 + 1) / 2 ^ (8 * (b - objectAt obj)))
        else nearByte s (objectHome (k, c) obj) b) := by
  intro he
  refine ⟨_, object_due hep (fun _ => ho) (fun h => absurd h (by rw [hn]; decide)) (fun _ => hcyc) he, ?_⟩
  rw [objectAccess_rel_of rfl hn hb hr, readNat_eq_coreNat]
  have hval : BitVec.ofNat 64 ((coreNat s (objectHome (k, c) obj) (objectAt obj) 8 + 1) % 2 ^ 64)
      = BitVec.ofNat 64 (coreNat s (objectHome (k, c) obj) (objectAt obj) 8 + 1) :=
    BitVec.eq_of_toNat_eq (by rw [BitVec.toNat_ofNat, BitVec.toNat_ofNat, Nat.mod_mod])
  rw [hval]
  generalize hu : ((s.correct (objectHome (k, c) obj) (objectAt obj) 8).setCore (objectHome (k, c) obj) _).watch (objectHome (k, c) obj)
    (objectAt obj / 8) = u
  have hnear : (u.core (objectHome (k, c) obj)).near = writeBytes (s.core (objectHome (k, c) obj)).near (objectAt obj)
      (leBytes 8 ((coreNat s (objectHome (k, c) obj) (objectAt obj) 8 + 1) % 2 ^ 64)) := by
    rw [← hu]
    unfold State.watch
    rw [core_modCore_same, core_setCore, if_pos rfl]
    rfl
  have hctx : u.ctx (k, c) = s.ctx (k, c) := by
    rw [← hu]
    unfold State.watch State.ctx
    by_cases hk : objectHome (k, c) obj = k
    · rw [hk, core_modCore_same, core_setCore, if_pos rfl]
      rfl
    · rw [core_modCore_other _ _ hk, core_setCore, if_neg hk]
      exact congrArg (fun x : Core => x.ctx c) (count_core _ _ _ _)
  obtain ⟨⟨hregs, -, -, hbytes⟩, -⟩ := objectAnswered_ok (obj := obj) (ev := .objectReply k c num obj true epoch)
    (v := BitVec.ofNat 64 (coreNat s (objectHome (k, c) obj) (objectAt obj) 8 + 1)) (t := u) (by rw [hctx]; exact hw)
  refine ⟨fun hd => (hregs d).trans (if_pos ⟨rfl, hd⟩), fun b => (hbytes _ b).trans ?_⟩
  unfold nearByte
  rw [hnear, sget_writeBytes_le]
  by_cases hin : objectAt obj ≤ b ∧ b < objectAt obj + 8
  · rw [if_pos hin, if_pos hin, byte_mod _ _ (by omega)]
  · rw [if_neg hin, if_neg hin]

/-- ACQ of a near word. -/
theorem objectReply_acq (hep : (s.part (s.partOf k)).epoch = epoch) (hw : (s.ctx (k, c)).run = .gated (.reply d num)) (hn : epNear obj = true)
    (hcyc : s.now % cyc (objectHome (k, c) obj) = 0) (hq : NoneDue s (objectHome (k, c) obj))
    (hb : (s.core (objectHome (k, c) obj)).badIn (objectAt obj) 8 = none) :
    Happens s (.objectReply k c num obj false epoch) .objectReply
      (WaitEnds s (k, c) d (BitVec.ofNat 64 (coreNat s (objectHome (k, c) obj) (objectAt obj) 8))) := by
  intro he
  refine ⟨_, object_due hep (fun h => absurd h Bool.false_ne_true) (fun h => absurd h (by rw [hn]; decide)) (fun _ => hcyc) he, ?_⟩
  rw [objectAccess_acq_of rfl hn hb hq, readNat_eq_coreNat]
  have hcores : (s.correct (objectHome (k, c) obj) (objectAt obj) 8).cores = s.cores := by
    unfold State.correct State.count
    split <;> rfl
  exact (objectAnswered_ok (by rw [ctx_of_cores hcores]; exact hw)).1.of_cores hcores

end

end Sys2Proof.Proofs
end

section
/-! PROOFS. The slots of a bank's wheel: opened at their first cycle, performed at their last (R33, R236, R237). -/

namespace Sys2Proof.Proofs

open Sys2Proof.Machine Sys2Proof.Safety Sys2Proof.Laws

/-- The slots of the core of a request that are not over. -/
def slotsOf (s : State) (home : Nat) (r : AtomicReq) : List Rmw :=
  (s.core home).ctl.rmw.filter (fun e => e.who == r.core && decide (s.now ≤ e.last))

/-- The tick at which a result of a slot is back. -/
def slotBack (s : State) (home : Nat) (r : AtomicReq) : Nat := s.now + cyc home + (if r.peer then meshLatency home r.core * cyc home else 0)

/-- What a slot's result is to the context that asked. -/
def slotGives (home : Nat) (r : AtomicReq) (back : Nat) : Option DWord × State → State
  | (some v, s) => if r.peer then s.post back (.clusterAtomicReply r.core r.ctx r.num none v) else s.answerAt (r.core, r.ctx) r.num back v
  | (none, s) => if s.asks r then s.toSlot r (s.now / cyc home + 1 + 2 * meshLatency home r.core) else s

/-- What the end of a slot is to the context that asked. -/
def slotEnds (home : Nat) (r : AtomicReq) (s : State) : Except Trap DWord → State
  | .ok v => slotGives home r (slotBack s home r) (s.pointResult r v)
  | .error tr => if r.peer then s.post (slotBack s home r) (.clusterAtomicReply r.core r.ctx r.num (some tr.imprec) tr.addr)
    else s.answerTrap (r.core, r.ctx) r.num tr

section
variable {s u : State} {r : AtomicReq} {home : Nat}

theorem exec_atomicSlot (hr : r.home = some home) (he : s.event = some (.atomicSlot r)) : exec .atomicSlot s
    = .next (if (slotsOf s home r).any (fun e => e.last == s.now) then
        if s.skips home then s.dropSlot home r
        else slotEnds home r (((s.settle home s.now).performRmw home r).2.closeSlot home (r.addr / 8)) ((s.settle home s.now).performRmw home r).1
      else if s.skips home ∨ slotsOf s home r ≠ [] then s.toSlot r (s.now / cyc home + 1)
      else (s.modCtl home (fun c => { c with rmw := c.rmw ++ [⟨s.now, s.now + 2 * cyc home, r.addr / 8, r.core⟩] })).post
        (s.now + 2 * cyc home) (.atomicSlot r)) := by
  show execAtomicSlot s = _
  unfold execAtomicSlot
  rw [he]
  dsimp only
  rw [hr]
  rfl

end

section
variable {s t u : State} {r : AtomicReq} {home : Nat}

/-- A request that comes again, at its first slot from the next cycle on. -/
def ComesAgain (s : State) (home : Nat) (r : AtomicReq) (t : State) : Prop :=
  ∃ u, Posts s t u (.atomicSlot r) ∧ (Machine.tierOf r.core = Machine.tierOf home → s.now < u)

theorem comesAgain_toSlot (ha : t.agenda = s.agenda) {cy : Nat} (hcy : s.now / cyc home + 1 ≤ cy) : ComesAgain s home r (t.toSlot r cy) := by
  refine ⟨wheelStart (Machine.tierOf r.core) (indexOf r.core) cy * cyc r.core, ?_, fun ht => ?_⟩
  · unfold Posts
    rw [← ha]
    rfl
  · have hc : cyc r.core = cyc home := by unfold cyc; rw [ht]
    have hw := (wheelStart_spec (Machine.tierOf r.core) (indexOf r.core) cy).1
    have hpos := cyc_pos home
    have hdiv := Nat.div_add_mod s.now (cyc home)
    have hmod := Nat.mod_lt s.now hpos
    have hle : (s.now / cyc home + 1) * cyc home ≤ wheelStart (Machine.tierOf r.core) (indexOf r.core) cy * cyc home :=
      Nat.mul_le_mul_right _ (Nat.le_trans hcy hw)
    rw [hc]
    rw [Nat.add_mul, Nat.one_mul, Nat.mul_comm] at hle
    omega

section
variable (hr : r.home = some home)
include hr

/-- The slot opens at its first cycle (R237). -/
theorem slot_opens (hm : slotsOf s home r = []) (hs : (s.core home).ctl.skip = false) : Happens s (.atomicSlot r) .atomicSlot (fun t =>
    Posts s t (s.now + 2 * cyc home) (.atomicSlot r)
      ∧ (t.core home).ctl.rmw = (s.core home).ctl.rmw ++ [⟨s.now, s.now + 2 * cyc home, r.addr / 8, r.core⟩]
      ∧ (∀ j, j ≠ home → t.core j = s.core j) ∧ ∀ j b, nearByte t j b = nearByte s j b) := by
  intro he
  refine ⟨_, exec_atomicSlot hr he, ?_⟩
  rw [hm, if_neg (by simp), if_neg (by unfold State.skips; rw [hs]; simp)]
  have hcore (j : Nat) : ((s.modCtl home (fun c => { c with rmw := c.rmw ++ [⟨s.now, s.now + 2 * cyc home, r.addr / 8, r.core⟩] })).post
      (s.now + 2 * cyc home) (.atomicSlot r)).core j = if j = home then { s.core home with ctl := { (s.core home).ctl with
        rmw := (s.core home).ctl.rmw ++ [⟨s.now, s.now + 2 * cyc home, r.addr / 8, r.core⟩] } } else s.core j := by
    by_cases hj : j = home
    · rw [if_pos hj, hj]
      exact (core_modCore_same s home (fun c => { c with ctl := { c.ctl with
        rmw := c.ctl.rmw ++ [⟨s.now, s.now + 2 * cyc home, r.addr / 8, r.core⟩] } }) :)
    · rw [if_neg hj]
      exact (core_modCore_other s (fun c => { c with ctl := { c.ctl with
        rmw := c.ctl.rmw ++ [⟨s.now, s.now + 2 * cyc home, r.addr / 8, r.core⟩] } }) (Ne.symm hj) :)
  refine ⟨rfl, ?_, fun j hj => ?_, fun j b => ?_⟩
  · rw [hcore, if_pos rfl]
  · rw [hcore, if_neg hj]
  · unfold nearByte
    rw [hcore]
    by_cases hj : j = home
    · rw [if_pos hj, hj]
    · rw [if_neg hj]

/-- While its bank's group is in a superstep no slot begins (R33). -/
theorem slot_skipped (hm : slotsOf s home r = []) (hs : (s.core home).ctl.skip = true) : Happens s (.atomicSlot r) .atomicSlot (fun t =>
    t.cores = s.cores ∧ ComesAgain s home r t) := by
  intro he
  refine ⟨_, exec_atomicSlot hr he, ?_⟩
  rw [hm, if_neg (by simp), if_pos (.inl hs)]
  exact ⟨rfl, comesAgain_toSlot rfl (Nat.le_refl _)⟩

end

/-! ### The last cycle of a slot -/

/-- A bank as a slot leaves it: its bytes, its words corrected, no slot; every context, every other core and the agenda are as before. -/
structure SlotOver (s : State) (home : Nat) (near : Sparse Byte) (hits : Nat) (t : State) : Prop where
  near   : (t.core home).near = near
  rmw    : (t.core home).ctl.rmw = []
  ctxs   : ∀ p, t.ctx p = s.ctx p
  others : ∀ j, j ≠ home → t.core j = s.core j
  agenda : t.agenda = s.agenda
  now    : t.now = s.now
  cols   : ∀ j, (t.col j).corrected = (s.col j).corrected + if j = columnOf home then hits else 0

/-- The slot of a request in its last cycle, alone at its bank. -/
structure LastCycle (s : State) (home : Nat) (r : AtomicReq) : Prop where
  bank   : r.home = some home
  slots  : (s.core home).ctl.rmw = [⟨s.now - 2 * cyc home, s.now, r.addr / 8, r.core⟩]
  behind : (s.core home).ctl.behind = []
  quiet  : NoneDue s home

theorem LastCycle.ends (h : LastCycle s home r) : (slotsOf s home r).any (fun e => e.last == s.now) = true := by
  unfold slotsOf
  rw [h.slots]
  simp

theorem endSlot_alone {c : Core} {x : Rmw} {tier now : Nat} (hs : c.ctl.rmw = [x]) (hx : x.last ≤ now) (hb : c.ctl.behind = []) :
    c.endSlot tier now = { c with ctl := { c.ctl with rmw := [], behind := [] } } := by
  unfold Core.endSlot
  rw [hs, hb]
  have h1 : [x].filter (fun r => decide (now < r.last)) = [] := by
    rw [List.filter_singleton, decide_eq_false (Nat.not_lt.2 hx)]
    rfl
  rw [h1]
  rfl

/-- A bank whose contexts and control are as before, closed. -/
theorem slotOver_close {c : Core} (h : LastCycle s home r) (hc : { c with near := [], poison := [] } = { s.core home with near := [], poison := [] })
    (hcores : ∀ j, u.core j = if j = home then c else s.core j) (ha : u.agenda = s.agenda) (hn : u.now = s.now) {hits : Nat}
    (hcols : ∀ j, (u.col j).corrected = (s.col j).corrected + if j = columnOf home then hits else 0) :
    SlotOver s home c.near hits (u.closeSlot home (r.addr / 8)) := by
  have hctl : c.ctl = (s.core home).ctl := (congrArg Core.ctl hc :)
  have hctx (i : Nat) : c.ctx i = (s.core home).ctx i := (congrArg (fun x : Core => x.ctx i) hc :)
  have hhome : (u.closeSlot home (r.addr / 8)).core home
      = ({ c with ctl := { c.ctl with rmw := [], behind := [] } } : Core).pendAt s.now 4 (.look (r.addr / 8)) := by
    unfold State.closeSlot State.watch
    have hu : u.core home = c := (hcores home).trans (if_pos rfl)
    have hslots : c.ctl.rmw = [⟨s.now - 2 * cyc home, s.now, r.addr / 8, r.core⟩] := hctl.symm ▸ h.slots
    rw [core_modCore_same, core_modCore_same, hu, hn, endSlot_alone (now := s.now) hslots (Nat.le_refl _) (hctl.symm ▸ h.behind)]
    exact congrArg (fun x : Nat => Core.pendAt _ x 4 (.look (r.addr / 8))) hn
  have hother (j : Nat) (hj : j ≠ home) : (u.closeSlot home (r.addr / 8)).core j = s.core j := by
    unfold State.closeSlot State.watch
    rw [core_modCore_other _ _ (Ne.symm hj), core_modCore_other _ _ (Ne.symm hj), hcores, if_neg hj]
  refine ⟨by rw [hhome]; rfl, by rw [hhome]; rfl, fun p => ?_, hother, ha, hn, hcols⟩
  unfold State.ctx
  by_cases hp : p.1 = home
  · rw [hp, hhome]
    exact hctx p.2
  · rw [hother _ hp]

end

section
variable {s t : State} {r : AtomicReq} {home : Nat}

/-- The words of a request's operand that hold single-bit errors. -/
def softIn (s : State) (home : Nat) (r : AtomicReq) : Nat := (s.core home).softWords r.addr (r.ty.width / 8)

theorem col_correct (j : Nat) : ((s.correct home r.addr (r.ty.width / 8)).col j).corrected
    = (s.col j).corrected + if j = columnOf home then softIn s home r else 0 := by
  unfold State.correct
  rw [col_count]
  split_ifs
  · rfl
  · rfl

/-- What a request does to its word. -/
def slotRmw (s : State) (home : Nat) (r : AtomicReq) (free : BitVec 32) : Nat × DWord :=
  rmwOp r.op r.ty (coreNat s home r.addr (r.ty.width / 8)) r.opnd r.cmp free

/-- The value that no rule gives, of a request performed now. -/
def slotFree (s : State) (home : Nat) (r : AtomicReq) : BitVec 32 := Config.freeUnitValue (s.correct home r.addr (r.ty.width / 8)).fresh

/-- A state whose single-bit errors are counted, with a number taken. -/
def numbered (s : State) (home : Nat) (r : AtomicReq) : State :=
  { s.correct home r.addr (r.ty.width / 8) with fresh := (s.correct home r.addr (r.ty.width / 8)).fresh + 1 }

theorem core_numbered (j : Nat) : (numbered s home r).core j = s.core j := count_core s home _ j

theorem performRmw_eq : s.performRmw home r
    = ((((numbered s home r).core home).rmw (Machine.tierOf home) r.op r.ty r.addr r.opnd r.cmp (slotFree s home r)).1,
      (numbered s home r).setCore home
        (((numbered s home r).core home).rmw (Machine.tierOf home) r.op r.ty r.addr r.opnd r.cmp (slotFree s home r)).2) := rfl

theorem performRmw_ok (hb : (s.core home).badIn r.addr (r.ty.width / 8) = none) : s.performRmw home r
    = (.ok (slotRmw s home r (slotFree s home r)).2,
      (numbered s home r).setCore home ((s.core home).rmwWrite (Machine.tierOf home) r.addr r.ty (slotRmw s home r (slotFree s home r)).1)) := by
  rw [performRmw_eq, core_numbered]
  unfold Core.rmw slotRmw
  rw [hb, readNat_eq_coreNat]

theorem performRmw_bad {w : Nat} (hb : (s.core home).badIn r.addr (r.ty.width / 8) = some w) : s.performRmw home r
    = (.error ((s.core home).eccu w), (numbered s home r).setCore home (s.core home)) := by
  rw [performRmw_eq, core_numbered]
  unfold Core.rmw
  rw [hb]

/-- A request without an error at its bank, closed. -/
theorem slotOver_ok (h : LastCycle s home r) : SlotOver s home
    (storeBytes (Machine.tierOf home) (s.core home).near r.addr (leBytes (r.ty.width / 8) (slotRmw s home r (slotFree s home r)).1)) (softIn s home r)
    (((numbered s home r).setCore home ((s.core home).rmwWrite (Machine.tierOf home) r.addr r.ty (slotRmw s home r (slotFree s home r)).1)).closeSlot
      home (r.addr / 8)) := by
  refine slotOver_close (c := (s.core home).rmwWrite (Machine.tierOf home) r.addr r.ty (slotRmw s home r (slotFree s home r)).1)
    (u := (numbered s home r).setCore home ((s.core home).rmwWrite (Machine.tierOf home) r.addr r.ty (slotRmw s home r (slotFree s home r)).1)) h rfl
    (fun j => ?_) (count_agenda _ _ _) (count_now _ _ _) (fun j => col_correct j)
  rw [core_setCore]
  by_cases hj : home = j
  · rw [if_pos hj, if_pos hj.symm]
  · rw [if_neg hj, if_neg (Ne.symm hj), core_numbered]

theorem slotOver_bad (h : LastCycle s home r) : SlotOver s home (s.core home).near (softIn s home r)
    (((numbered s home r).setCore home (s.core home)).closeSlot home (r.addr / 8)) := by
  refine slotOver_close (c := s.core home) (u := (numbered s home r).setCore home (s.core home)) h rfl (fun j => ?_) (count_agenda _ _ _) (count_now _ _ _) (fun j => col_correct j)
  rw [core_setCore]
  by_cases hj : home = j
  · rw [if_pos hj, if_pos hj.symm]
  · rw [if_neg hj, if_neg (Ne.symm hj), core_numbered]

/-- A bank whose slot is dropped: the writes behind it take effect. -/
def slotCleared (now tier : Nat) (r : AtomicReq) (c : Core) : Core :=
  c.ctl.behind.foldl (fun c e => c.writeBy tier now none e)
    { c with ctl := { c.ctl with behind := [], rmw := c.ctl.rmw.filter (fun e => e.who != r.core) } }

theorem dropSlot_eq : s.dropSlot home r
    = ((s.modCore home (slotCleared s.now (Machine.tierOf home) r)).watch home (r.addr / 8)).toSlot r (s.now / cyc home + 1) := rfl

theorem core_toSlot (cy j : Nat) : (s.toSlot r cy).core j = s.core j := rfl

/-- A superstep was released in the meantime: the slot is dropped (R33, R237). -/
theorem slot_dropped (h : LastCycle s home r) (hs : (s.core home).ctl.skip = true) : Happens s (.atomicSlot r) .atomicSlot (fun t =>
    (∀ b, nearByte t home b = nearByte s home b) ∧ ((t.core home).ctl.rmw = [] ∧ ∀ j, j ≠ home → j ≠ r.core → t.core j = s.core j)
      ∧ ComesAgain s home r t) := by
  intro he
  refine ⟨_, exec_atomicSlot h.bank he, ?_⟩
  rw [if_pos h.ends, if_pos (c := s.skips home = true) hs]
  have hfilter : [(⟨s.now - 2 * cyc home, s.now, r.addr / 8, r.core⟩ : Rmw)].filter (fun e => e.who != r.core) = [] := by
    rw [List.filter_singleton, bne_self_eq_false]
    rfl
  have hcore : (s.dropSlot home r).core home = ({ s.core home with ctl := { (s.core home).ctl with behind := [], rmw := [] } } : Core).pendAt
      s.now 4 (.look (r.addr / 8)) := by
    rw [dropSlot_eq, core_toSlot]
    unfold State.watch slotCleared
    rw [core_modCore_same, core_modCore_same, h.behind, h.slots, hfilter]
    rfl
  have hother (j : Nat) (hj : j ≠ home) : (s.dropSlot home r).core j = s.core j := by
    rw [dropSlot_eq, core_toSlot]
    unfold State.watch
    rw [core_modCore_other _ _ (Ne.symm hj), core_modCore_other _ _ (Ne.symm hj)]
  refine ⟨fun b => by unfold nearByte; rw [hcore]; rfl, ⟨by rw [hcore]; rfl, fun j hj _ => hother j hj⟩, ?_⟩
  exact comesAgain_toSlot (t := (s.modCore home (slotCleared s.now (Machine.tierOf home) r)).watch home (r.addr / 8)) rfl (Nat.le_refl _)

/-- What ends with a slot that is not skipped. -/
theorem slot_ends (h : LastCycle s home r) (hs : (s.core home).ctl.skip = false) (he : s.event = some (.atomicSlot r)) : exec .atomicSlot s
    = .next (slotEnds home r ((s.performRmw home r).2.closeSlot home (r.addr / 8)) (s.performRmw home r).1) := by
  rw [exec_atomicSlot h.bank he, if_pos h.ends, if_neg (by unfold State.skips; rw [hs]; exact Bool.false_ne_true), settle_noneDue h.quiet]

theorem slotBack_eq {v : State} (hv : v.now = s.now) : slotBack v home r = slotBack s home r := by
  unfold slotBack
  rw [hv]

/-- A bank after a slot, and what it was before but for its bytes. -/
def Closed (s : State) (home : Nat) (r : AtomicReq) (t : State) : Prop :=
  (t.core home).ctl.rmw = [] ∧ ∀ j, j ≠ home → j ≠ r.core → t.core j = s.core j

theorem slotOver_closed {near : Sparse Byte} {hits : Nat} {v : State} (h : SlotOver s home near hits v) (ho : OnlyCtx (r.core, r.ctx) v t) :
    Closed s home r t ∧ (∀ b, nearByte t home b = sget 0 near b)
      ∧ ∀ j, (t.col j).corrected = (s.col j).corrected + if j = columnOf home then hits else 0 := by
  refine ⟨⟨?_, fun j hj hc => (ho.others j hc).trans (h.others j hj)⟩, fun b => ?_, fun j => ?_⟩
  · by_cases hk : home = r.core
    · have hctl := (congrArg (fun x : Core => x.ctl.rmw) ho.rest :)
      rw [hk]
      rw [hk] at h
      exact Eq.trans hctl h.rmw
    · rw [ho.others home hk]
      exact h.rmw
  · unfold nearByte
    rw [ho.near, h.near]
  · have hcols : t.col j = v.col j := (congrArg (fun x : State => x.col j) ho.machine :)
    rw [hcols]
    exact h.cols j

end

/-! ### What a slot gives (R236) -/

section
variable {s : State} {r : AtomicReq} {home : Nat}

/-- A word of the operand, and one of them that is uncorrectable. -/
def Touched (r : AtomicReq) (i : Nat) : Prop := r.addr / 4 ≤ i ∧ 4 * i < r.addr + r.ty.width / 8
def Lost (s : State) (home i : Nat) : Prop := (sget 0 (s.core home).poison i).getLsbD 0 = true

theorem lost_iff (p : BitVec 2) : p.getLsbD 0 = true ↔ p ≠ 0 ∧ p ≠ 2 := by revert p; decide

theorem badIn_sound (h : ∀ i, Touched r i → ¬ Lost s home i) : (s.core home).badIn r.addr (r.ty.width / 8) = none :=
  badIn_eq_none (s := { s with cur := (home, 0) }) (fun w h1 h2 hb => h w ⟨h1, h2⟩ ((lost_iff _).2 hb))

theorem badIn_lost {i : Nat} (ht : Touched r i) (hb : Lost s home i) (hf : ∀ j, Touched r j → j < i → ¬ Lost s home j) :
    (s.core home).badIn r.addr (r.ty.width / 8) = some (4 * i) :=
  badIn_eq_some (s := { s with cur := (home, 0) })
    ⟨i, rfl, ht.1, ht.2, (lost_iff _).1 hb, fun j h1 h2 hb => hf j ⟨h1, by have := ht.2; omega⟩ h2 ((lost_iff _).2 hb)⟩

/-- A store within a bank's data writes its bytes whole. -/
theorem sget_storeBytes_bank (tier : Nat) (m : Sparse Byte) (a n v b : Nat) (h : a + n ≤ Config.statusBase tier) :
    sget 0 (storeBytes tier m a (leBytes n v)) b
      = if a ≤ b ∧ b < a + n then BitVec.ofNat 8 (v / 2 ^ (8 * (b - a))) else sget 0 m b := by
  have hlen : (leBytes n v).length = n := by rw [leBytes_eq_map, List.length_map, List.length_range]
  have hmask (x y : Byte) : (x &&& 0xFF) ||| (y &&& ~~~0xFF) = x := by
    have h1 : (0xFF : Byte) = BitVec.allOnes 8 := rfl
    rw [h1, BitVec.and_allOnes, BitVec.not_allOnes, BitVec.and_zero, BitVec.or_zero]
  rw [sget_storeBytes, hlen]
  by_cases hin : a ≤ b ∧ b < a + n
  · rw [if_pos hin, if_pos hin]
    have hw : writableBits tier b = 0xFF := if_pos (by omega)
    rw [hw, hmask, leBytes_eq_map, List.getD_eq_getElem _ _ (by simp; omega), List.getElem_map, List.getElem_range]
  · rw [if_neg hin, if_neg hin]

theorem slotEnds_some {v : State} {x y : DWord} (hx : v.pointResult r x = (some y, v)) : slotEnds home r v (.ok x)
    = if r.peer then v.post (slotBack v home r) (.clusterAtomicReply r.core r.ctx r.num none y)
      else v.answerAt (r.core, r.ctx) r.num (slotBack v home r) y := by
  show slotGives home r (slotBack v home r) (v.pointResult r x) = _
  rw [hx]
  rfl

/-- A result at a tick changes its context's wait and its core's next issue alone. -/
theorem onlyCtx_answerAt (s : State) (q : Nat × Nat) (num t : Nat) (v : DWord) : OnlyCtx q s (s.answerAt q num t v) := by
  unfold State.answerAt
  split
  · next d n _ =>
    by_cases hn : n = num
    · rw [if_pos hn]
      have h := onlyCtx_modCtx q s (fun x => { x with run := .held (.unitOp t d v) })
      dsimp only
      split
      · exact h
      · exact h.trans (onlyCtx_issueAt q _ _)
    · rw [if_neg hn]
      exact OnlyCtx.refl q s
  · next d n _ =>
    by_cases hn : n = num
    · rw [if_pos hn]
      exact onlyCtx_modCtx q s (fun x => { x with run := .gated (.unitOp t d v), readyAt := t })
    · rw [if_neg hn]
      exact OnlyCtx.refl q s
  · exact OnlyCtx.refl q s

section
variable (h : LastCycle s home r) (hs : (s.core home).ctl.skip = false) (hstat : r.addr + r.ty.width / 8 ≤ Config.statusBase (Machine.tierOf home))
  (hgood : ∀ i, Touched r i → ¬ Lost s home i)
include h hs hstat hgood

/-- A slot ends with its operation performed: the word written, its old value on its way (R236, R237). -/
theorem slot_performed (hop : r.op < 9) :
    ∃ res free, res = rmwOp r.op r.ty (coreNat s home r.addr (r.ty.width / 8)) r.opnd r.cmp free ∧ Happens s (.atomicSlot r) .atomicSlot (fun t =>
      (∀ b, nearByte t home b = if r.addr ≤ b ∧ b < r.addr + r.ty.width / 8 then BitVec.ofNat 8 (res.1 / 2 ^ (8 * (b - r.addr))) else nearByte s home b)
      ∧ Closed s home r t ∧ (∀ j, (t.col j).corrected = (s.col j).corrected + if j = columnOf home then softIn s home r else 0)
      ∧ (r.peer = true → Posts s t (slotBack s home r) (.clusterAtomicReply r.core r.ctx r.num none res.2))
      ∧ (r.peer = false → ∀ d', (s.ctx (r.core, r.ctx)).run = .held (.reply d' r.num) →
        (t.ctx (r.core, r.ctx)).run = .held (.unitOp (slotBack s home r) d' res.2))) := by
  refine ⟨slotRmw s home r (slotFree s home r), slotFree s home r, rfl, fun he => ⟨_, slot_ends h hs he, ?_⟩⟩
  have hover := slotOver_ok h
  rw [performRmw_ok (badIn_sound hgood)]
  generalize slotRmw s home r (slotFree s home r) = res at hover ⊢
  dsimp only
  generalize ((numbered s home r).setCore home _).closeSlot home (r.addr / 8) = v at hover ⊢
  rw [slotEnds_some (pointResult_some (Nat.ne_of_lt hop) (Nat.ne_of_lt (Nat.lt_of_lt_of_le hop (by decide)))), slotBack_eq hover.now]
  have hbytes (b : Nat) : sget 0 (storeBytes (Machine.tierOf home) (s.core home).near r.addr (leBytes (r.ty.width / 8) res.1)) b
      = if r.addr ≤ b ∧ b < r.addr + r.ty.width / 8 then BitVec.ofNat 8 (res.1 / 2 ^ (8 * (b - r.addr))) else nearByte s home b :=
    sget_storeBytes_bank _ _ _ _ _ _ hstat
  cases hpeer : r.peer with
  | true =>
    rw [if_pos rfl]
    obtain ⟨hclosed, hnear, hcols⟩ := slotOver_closed (r := r) hover (OnlyCtx.refl _ v)
    refine ⟨fun b => (hnear b).trans (hbytes b), hclosed, hcols, fun _ => ?_, fun hc => nomatch hc⟩
    unfold Posts
    rw [← hover.agenda]
    rfl
  | false =>
    rw [if_neg Bool.false_ne_true]
    obtain ⟨hclosed, hnear, hcols⟩ := slotOver_closed hover (onlyCtx_answerAt v (r.core, r.ctx) r.num (slotBack s home r) res.2)
    refine ⟨fun b => (hnear b).trans (hbytes b), hclosed, hcols, (fun hc => nomatch hc), fun _ d' hr => ?_⟩
    exact (answerAt_spec (by rw [hover.ctxs]; exact hr)).2

end

end

theorem byte_leNat (bs : List Byte) : ∀ i (hi : i < bs.length), BitVec.ofNat 8 (leNat bs / 2 ^ (8 * i)) = bs[i] := by
  induction bs with
  | nil => exact fun i hi => absurd hi (Nat.not_lt_zero i)
  | cons b bs ih =>
    intro i hi
    have hb := b.isLt
    have hcons : leNat (b :: bs) = b.toNat + 256 * leNat bs := rfl
    rw [hcons]
    cases i with
    | zero =>
      refine BitVec.eq_of_toNat_eq ?_
      rw [BitVec.toNat_ofNat, Nat.mul_zero, Nat.pow_zero, Nat.div_one, List.getElem_cons_zero]
      omega
    | succ i =>
      have hpow : 2 ^ (8 * (i + 1)) = 256 * 2 ^ (8 * i) := by rw [Nat.mul_succ, Nat.pow_add, Nat.mul_comm]
      have hdiv : (b.toNat + 256 * leNat bs) / 256 = leNat bs := by omega
      rw [hpow, ← Nat.div_div_eq_div_mul, hdiv, List.getElem_cons_succ]
      exact ih i (Nat.lt_of_succ_lt_succ hi)

/-- A word's bytes are those of its number. -/
theorem byte_coreNat (s : State) (k a n b : Nat) (h : a ≤ b ∧ b < a + n) :
    BitVec.ofNat 8 (coreNat s k a n / 2 ^ (8 * (b - a))) = nearByte s k b := by
  have hlen : b - a < ((List.range n).map (fun i => nearByte s k (a + i))).length := by
    rw [List.length_map, List.length_range]
    omega
  have hb := byte_leNat ((List.range n).map (fun i => nearByte s k (a + i))) (b - a) hlen
  rw [List.getElem_map, List.getElem_range, Nat.add_sub_cancel' h.1] at hb
  exact hb

section
variable {s : State} {r : AtomicReq} {home : Nat}

/-- An uncorrectable word ends the slot with nothing written (R178, R236). -/
theorem slot_lost (h : LastCycle s home r) (hs : (s.core home).ctl.skip = false) {i : Nat} (ht : Touched r i) (hb : Lost s home i)
    (hf : ∀ j, Touched r j → j < i → ¬ Lost s home j) : Happens s (.atomicSlot r) .atomicSlot (fun t =>
      (r.peer = true → (∀ b, nearByte t home b = nearByte s home b) ∧ Closed s home r t
        ∧ Posts s t (slotBack s home r) (.clusterAtomicReply r.core r.ctx r.num (some (decide (sget 0 (s.core home).poison i = 3)))
          (BitVec.ofNat 64 (4 * i))))
      ∧ (r.peer = false → ∀ d', (s.ctx (r.core, r.ctx)).run = .held (.reply d' r.num) → ∃ b : State,
        (∀ x, nearByte b home x = nearByte s home x) ∧ Closed s home r b ∧ b.ctx (r.core, r.ctx) = s.ctx (r.core, r.ctx)
        ∧ t = b.takeTrap (r.core, r.ctx) (b.issuedWord (r.core, r.ctx))
          ⟨.eccu, 0, BitVec.ofNat 64 (4 * i), decide (sget 0 (s.core home).poison i = 3)⟩)) := by
  intro he
  refine ⟨_, slot_ends h hs he, ?_⟩
  have hover := slotOver_bad h
  have heccu : (s.core home).eccu (4 * i) = ⟨.eccu, 0, BitVec.ofNat 64 (4 * i), decide (sget 0 (s.core home).poison i = 3)⟩ := by
    unfold Core.eccu
    rw [Nat.mul_div_cancel_left i (by decide), beq_eq_decide]
  rw [performRmw_bad (badIn_lost ht hb hf), heccu]
  dsimp only
  generalize ((numbered s home r).setCore home _).closeSlot home (r.addr / 8) = v at hover ⊢
  obtain ⟨hclosed, hnear, -⟩ := slotOver_closed (r := r) hover (OnlyCtx.refl _ v)
  refine ⟨fun hp => ?_, fun hp d' hr => ⟨v, hnear, hclosed, hover.ctxs _, ?_⟩⟩
  · rw [show slotEnds home r v (.error _) = v.post (slotBack v home r) _ from if_pos hp, slotBack_eq hover.now]
    refine ⟨hnear, hclosed, ?_⟩
    unfold Posts
    rw [← hover.agenda]
    rfl
  · rw [show slotEnds home r v (.error _) = v.answerTrap (r.core, r.ctx) r.num _ from if_neg (by rw [hp]; exact Bool.false_ne_true)]
    refine answerTrap_some (d := d') ?_ _
    rw [hover.ctxs]
    unfold Ctx.awaits
    rw [hr]
    exact if_pos rfl

/-- The phase of a memory-backed point, as a look finds it. -/
theorem slotRmw_look (hop : r.op = 9) (hw : r.ty.width = 64) (free : BitVec 32) : slotRmw s home r free
    = (coreNat s home r.addr 8, BitVec.ofNat 64 (coreNat s home r.addr 8 % 65536)) := by
  unfold slotRmw rmwOp
  rw [hop, hw, nbits_low]
  rfl

theorem pointResult_look {v : State} (hop : r.op = 9) (c : Nat) (hc : c < 65536) : v.pointResult r (BitVec.ofNat 64 c)
    = (if (c + 65536 - r.opnd.toNat % 65536) % 65536 = 0 then none
        else some (BitVec.ofNat 64 (c + if (c + 65536 - r.opnd.toNat % 65536) % 65536 = 1 then 0 else 2 ^ 32)), v) := by
  have hn : (BitVec.ofNat 64 c).toNat = c := by
    rw [BitVec.toNat_ofNat]
    omega
  have h32 : ((BitVec.ofNat 64 c).setWidth 32).toNat = c := by
    rw [BitVec.toNat_setWidth, hn]
    omega
  unfold State.pointResult syncWord
  rw [if_pos (c := r.op = opPhase) hop, hn, h32]
  dsimp only
  rw [ite_mul, Nat.zero_mul, Nat.one_mul]

/-- A look at a point's phase answers once the phase has moved on, and else comes again (R234). -/
theorem slot_look (h : LastCycle s home r) (hs : (s.core home).ctl.skip = false)
    (hstat : r.addr + r.ty.width / 8 ≤ Config.statusBase (Machine.tierOf home)) (hgood : ∀ i, Touched r i → ¬ Lost s home i) (hop : r.op = 9)
    (hw : r.ty.width = 64) (hpeer : r.peer = true) :
    let c := coreNat s home r.addr 8 % 65536
    let d := (c + 65536 - r.opnd.toNat % 65536) % 65536
    (d ≠ 0 → Happens s (.atomicSlot r) .atomicSlot (fun t => (∀ b, nearByte t home b = nearByte s home b)
        ∧ Posts s t (slotBack s home r) (.clusterAtomicReply r.core r.ctx r.num none (BitVec.ofNat 64 (c + if d = 1 then 0 else 2 ^ 32)))))
    ∧ (d = 0 → (s.ctx (r.core, r.ctx)).awaits r.num ≠ none → Happens s (.atomicSlot r) .atomicSlot (fun t =>
        (∀ b, nearByte t home b = nearByte s home b) ∧ ComesAgain s home r t)) := by
  intro c d
  have h8 : r.ty.width / 8 = 8 := by rw [hw]
  have hover := slotOver_ok h
  have hexec := fun he => slot_ends h hs he
  rw [performRmw_ok (badIn_sound hgood)] at hexec
  rw [slotRmw_look hop hw] at hover hexec
  dsimp only at hover hexec
  generalize ((numbered s home r).setCore home _).closeSlot home (r.addr / 8) = v at hover hexec
  have hlook := pointResult_look (v := v) hop c (Nat.mod_lt _ (by decide))
  obtain ⟨-, hnear, -⟩ := slotOver_closed (r := r) hover (OnlyCtx.refl _ v)
  have hbytes (b : Nat) : nearByte v home b = nearByte s home b := by
    rw [hnear, sget_storeBytes_bank _ _ _ _ _ _ hstat, h8]
    by_cases hin : r.addr ≤ b ∧ b < r.addr + 8
    · rw [if_pos hin, byte_coreNat s home r.addr 8 b hin]
    · rw [if_neg hin]
      rfl
  refine ⟨fun hd he => ⟨_, hexec he, ?_⟩, fun hd hask he => ⟨_, hexec he, ?_⟩⟩
  · rw [slotEnds_some (hlook.trans (congrArg (·, v) (if_neg hd))), if_pos hpeer, slotBack_eq hover.now]
    refine ⟨hbytes, ?_⟩
    unfold Posts
    rw [← hover.agenda]
    rfl
  · have hasks : v.asks r = true := by
      unfold State.asks
      rw [hover.ctxs]
      exact Option.isSome_iff_ne_none.2 hask
    have heq : slotEnds home r v (.ok (BitVec.ofNat 64 c)) = v.toSlot r (v.now / cyc home + 1 + 2 * meshLatency home r.core) := by
      show slotGives home r (slotBack v home r) (v.pointResult r (BitVec.ofNat 64 c)) = _
      rw [hlook, if_pos hd]
      exact if_pos hasks
    rw [heq, hover.now]
    exact ⟨hbytes, comesAgain_toSlot hover.agenda (Nat.le_add_right _ _)⟩

end

/-! ### The obligation -/

theorem slotBack_sum (s : State) (home : Nat) (r : AtomicReq) :
    s.now + cyc home + (if r.peer = true then meshLatency home r.core * cyc home else 0) = slotBack s home r := rfl

/-- Settles O47: the wheel's slots, replies, windows, the operations of event units and counts, each by the rule of its row. -/
theorem synchronisationSteps : Obligations.SynchronisationSteps := by
  unfold Obligations.SynchronisationSteps
  intro s k c num v d r obj rel imprec epoch w l origin count nc left since ext pa m u1 st
  refine ⟨clusterReply_ends, fun hr => clusterReply_traps hr imprec, clusterReply_stale, ?_, deviceReply_old, ?_, ?_, objectReply_old,
    objectReply_waits, ?_, ?_, ?_, scAnnounce_held, scAnnounce_free, scDelivery_none, ?_, ⟨?_, chainForward_joins⟩, ?_,
    ⟨fun _ => fire_rvwait, fire_evwait, fire_mlock, fire_stale⟩, sleepExpiry_ends, twaitExpiry_ends, fstat_waits, fstat_ends⟩
  · intro home hr hq
    refine ⟨slot_opens hr, slot_skipped hr, fun hslots hbehind _ hwidth hlo hhi => ?_⟩
    have h : LastCycle s home r := ⟨hr, hslots, hbehind, hq⟩
    exact ⟨slot_dropped h, fun hs hgood hop => slot_performed h hs hhi hgood hop, fun hs i ht hb hf => slot_lost h hs ht hb hf,
      fun hs hgood hop hw hpeer => slot_look h hs hhi hgood hop hw hpeer⟩
  · intro hep hr hop _ hw hask hbusy
    refine ⟨fun ht hst => device_fails hep hr hw hop hbusy hst (farRmw_fault_of rfl hask ht) (ahead_of_translateFor ht),
      fun ht hh => device_fails hep hr hw hop hbusy (by decide) (farRmw_outside_of rfl hask ht hh) (ahead_of_translateFor ht),
      fun ht hh hp hb => device_performed hep hr hw hop hask hbusy ht hh hp hb⟩
  · exact fun hep hr hop _ hw hb => device_point hep hr hw hop hb
  · exact fun hep hw hn ho hbusy hask ht hh hp hb => objectReply_far hep hw hn ho hbusy hask ht hh hp hb
  · exact fun hep hw hn hcyc hr ho hb => objectReply_rel hep hw hn hcyc hr ho hb
  · exact fun hep hw hn hcyc hq hb => objectReply_acq hep hw hn hcyc hq hb
  · exact fun o hs hw hk addr ha => scDelivery_evsig hs hw hk ha
  · intro what stage hm
    have hstage : stage = (UnitKind.root l num what).stage := by
      simp only [List.mem_cons, List.not_mem_nil, or_false, Prod.mk.injEq] at hm
      rcases hm with ⟨rfl, rfl⟩ | ⟨rfl, rfl⟩ | ⟨rfl, rfl⟩ | ⟨rfl, rfl⟩ <;> rfl
    rw [hstage]
    exact rootForward_joins what
  · exact ⟨fun h o => chain_free h o, chain_fires, chain_signals, fun hr => ⟨root_free hr, root_init_again hr, root_init hr, root_undeclared hr,
      root_last hr, root_arrive hr, evsigSc_rule hr⟩⟩

end Sys2Proof.Proofs
end

section
/-! PROOFS. The nodes of the gaffer's tasks: what they decide, count, signal and wait for (R241 to R245). -/

namespace Sys2Proof.Proofs

open Sys2Proof.Machine Sys2Proof.Safety Sys2Proof.Laws

/-! ### What a step of the gaffer leaves, and what it puts off -/

/-- A step is put on the agenda for a tick to come. -/
def Later (s t : State) (ev : Event) : Prop := ∃ at_, s.now < at_ ∧ ⟨at_, ev⟩ ∈ t.agenda

/-- Every core and far memory are as before. -/
def Calm (s t : State) : Prop := t.cores = s.cores ∧ ∀ b, farByte t b = farByte s b

/-- A task becomes `T`, and a step of it follows; no byte changes. -/
def TaskGoes (s : State) (task : Nat) (T : Task) (ev : Event) (t : State) : Prop := t.task task = some T ∧ Later s t ev ∧ Calm s t

/-- The time, every core and far memory are the same. -/
structure Still (s t : State) : Prop where
  now   : t.now = s.now
  cores : t.cores = s.cores
  far   : t.dev.far = s.dev.far

section
variable {s t u : State} {task addr : Nat} {loops : List LoopFrame} {T : Task} {n : NodeRun} {ev : Event}

theorem Still.refl (s : State) : Still s s := ⟨rfl, rfl, rfl⟩

theorem Still.trans (h : Still s t) (g : Still t u) : Still s u := ⟨g.now.trans h.now, g.cores.trans h.cores, g.far.trans h.far⟩

theorem Still.calm (h : Still s t) : Calm s t := ⟨h.cores, fun b => congrArg (fun m => sget 0 m b) h.far⟩

theorem still_forget (s : State) (ev : Event) : Still s (s.forget ev) := ⟨rfl, rfl, rfl⟩

theorem still_modTask (s : State) (task : Nat) (f : Task → Task) : Still s (s.modTask task f) := ⟨rfl, rfl, rfl⟩

theorem still_later (s : State) (ev : Event) : Still s (s.later ev) := ⟨rfl, rfl, rfl⟩

theorem task_modTask (h : s.task task = some T) (f : Task → Task) : (s.modTask task f).task task = some (f T) := by
  unfold State.modTask
  rw [task_setTask, if_pos rfl, h]
  rfl

theorem task_later (s : State) (ev : Event) (i : Nat) : (s.later ev).task i = s.task i := rfl

theorem task_forget (s : State) (ev : Event) (i : Nat) : (s.forget ev).task i = s.task i := rfl

theorem later_posted (s : State) (ev : Event) : Later s (s.later ev) ev :=
  ⟨s.now + (1 + Config.freeLatency s.fresh), by omega, (mem_agendaInsert _ _ _).2 (.inl rfl)⟩

theorem mem_later {d : Due} (h : d ∈ s.agenda) (ev : Event) : d ∈ (s.later ev).agenda := (mem_agendaInsert _ _ _).2 (.inr h)

theorem mem_post (s : State) (at_ : Nat) (ev : Event) : ⟨at_, ev⟩ ∈ (s.post at_ ev).agenda := (mem_agendaInsert _ _ _).2 (.inl rfl)

theorem mem_post_of {d : Due} (h : d ∈ s.agenda) (at_ : Nat) (ev : Event) : d ∈ (s.post at_ ev).agenda := (mem_agendaInsert _ _ _).2 (.inr h)

theorem Still.later (h : Still s u) (ht : u.task task = some T) (ev : Event) : TaskGoes s task T ev (u.later ev) := by
  obtain ⟨at_, hat, hmem⟩ := later_posted u ev
  exact ⟨ht, ⟨at_, h.now ▸ hat, hmem⟩, (h.trans (still_later u ev)).calm⟩

/-! ### A node that ends -/

/-- The task without a node that is over. -/
def without (T : Task) (n : NodeRun) : Task := { T with nodes := T.nodes.erase n }

/-- The loops that end with a node's chain: none for a node that ran beside it. -/
def chainLoops (n : NodeRun) : List LoopFrame := if n.nowait then [] else n.loops

theorem goNode_goes (h : Still s u) (ht : u.task task = some T) (next : Nat) :
    TaskGoes s task (without T n) (.nodeSuccessor task next n.loops) (u.goNode task n next) :=
  (h.trans (still_modTask u task _)).later (task_modTask ht _) _

theorem dropNode_over (h : Still s u) (ht : u.task task = some T) :
    TaskGoes s task (without T n) (.taskStampWrite task) ((u.dropNode task n).later (.taskStampWrite task)) :=
  (h.trans (still_modTask u task _)).later (task_modTask ht _) _

theorem cutNode_goes (h : Still s u) (ht : u.task task = some T) :
    TaskGoes s task ((without T n).endLoops (chainLoops n)) (.taskStampWrite task) (u.cutNode task n) :=
  (h.trans ((still_modTask u task _).trans (still_modTask _ task _))).later (task_modTask (task_modTask ht _) _) _

/-- A task that has not failed fails with a code. -/
def failed (T : Task) (loops : List LoopFrame) (code : BitVec 16) : Task := { T.endLoops loops with status := some code }

theorem failTask_goes (h : Still s u) (ht : u.task task = some T) (hs : T.status = none) (code : BitVec 16) :
    TaskGoes s task (failed T loops code) (.taskStampWrite task) (u.failTask task loops code) := by
  have hg := (h.trans (still_modTask u task (fun t => { t.endLoops loops with status := if t.status.isSome then t.status else some code }))).later
    (task_modTask ht _) (.taskStampWrite task)
  rw [hs] at hg
  exact hg

theorem failNode_goes (h : Still s u) (ht : u.task task = some T) (hs : T.status = none) (code : BitVec 16) :
    TaskGoes s task (failed (without T n) (chainLoops n) code) (.taskStampWrite task) (u.failNode task n code) :=
  failTask_goes (h.trans (still_modTask u task _)) (task_modTask ht _) hs code

theorem waitOver_goes (h : Still s u) (ht : u.task task = some T) : TaskGoes s task (without T n)
    (if n.nowait then .taskStampWrite task else .nodeSuccessor task n.next n.loops) (u.waitOver task n) := by
  unfold State.waitOver
  by_cases hn : n.nowait = true
  · rw [if_pos hn, if_pos hn]
    exact dropNode_over h ht
  · rw [if_neg hn, if_neg hn]
    exact goNode_goes h ht _

/-! ### A node that runs -/

/-- A task runs a node in a chain. -/
def Runs (s : State) (task addr : Nat) (T : Task) (n : NodeRun) (loops : List LoopFrame) : Prop :=
  s.task task = some T ∧ T.node addr loops = some n

theorem Runs.atNode (h : Runs s task addr T n loops) (f : Task → NodeRun → State) : s.atNode task addr loops f = f T n := by
  unfold State.atNode
  rw [h.1]
  show (match T.node addr loops with
    | none => s
    | some n => f T n) = _
  rw [h.2]

theorem Runs.loops_eq (h : Runs s task addr T n loops) : n.loops = loops := by
  have hf := List.find?_some h.2
  simp only [Bool.and_eq_true, beq_iff_eq] at hf
  exact hf.2

theorem Runs.addr_eq (h : Runs s task addr T n loops) : n.addr = addr := by
  have hf := List.find?_some h.2
  simp only [Bool.and_eq_true, beq_iff_eq] at hf
  exact hf.1

end


/-! ### References (R241) -/

/-- The core and the near address of a near reference. -/
def refCore (r : DWord) : Nat := (r.extractLsb' 48 15).toNat
def refAt (r : DWord) : Nat := Config.bankBase + (r.extractLsb' 0 25).toNat

/-- A near reference at whose core nothing is due. -/
def NearRef (s : State) (r : DWord) : Prop := r.getLsbD 63 = true ∧ ∀ p ∈ (s.core (refCore r)).pend, s.now < p.due

/-- No word of a near reference holds an error. -/
def CleanRef (s : State) (r : DWord) : Prop := ∀ w, refAt r / 4 ≤ w → 4 * w < refAt r + 8 → sget 0 (s.core (refCore r)).poison w = 0

/-- A near reference whose word is a number. -/
def ReadsAs (s : State) (r : DWord) (m : Nat) : Prop := NearRef s r ∧ CleanRef s r ∧ coreNat s (refCore r) (refAt r) 8 = m

section
variable {s t u : State} {task addr m : Nat} {loops : List LoopFrame} {T : Task} {n : NodeRun} {ev : Event} {r : DWord} {f : LoopFrame}

theorem nbits_refCore (r : DWord) : nbits r.toNat 62 48 = refCore r := nbits_extract r 48 15 62 rfl

theorem nbits_refAt (r : DWord) : Config.bankBase + nbits r.toNat 24 0 = refAt r :=
  congrArg (Config.bankBase + ·) (nbits_extract r 0 25 24 rfl)

theorem CleanRef.badIn (h : CleanRef s r) : (s.core (refCore r)).badIn (refAt r) 8 = none :=
  badIn_clean (fun w h1 h2 => .inl (h w h1 h2))

theorem ReadsAs.readNat (h : ReadsAs s r m) : (s.core (refCore r)).readNat (refAt r) 8 = m :=
  (readNat_eq_coreNat s (refCore r) (refAt r) 8).trans h.2.2

theorem ReadsAs.readRef (h : ReadsAs s r m) (part : Nat) (ev : Event) : s.readRef part r ev = (.ok m, s) := by
  obtain ⟨hnear, hclean, -⟩ := id h
  unfold State.readRef
  rw [if_pos hnear.1, nbits_refCore, nbits_refAt]
  dsimp only
  rw [settle_noneDue (show NoneDue s (refCore r) from hnear.2), hclean.badIn, h.readNat]
  rfl

theorem ReadsAs.readWord {n : NodeRun} (h : ReadsAs s (dw n.words 2) m) (hw : n.word = none) (part : Nat) (ev : Event) :
    s.readWord part n ev = (.ok m, s) := by
  unfold State.readWord
  rw [hw]
  exact h.readRef part ev

/-! ### Conditions (R244) -/

/-- What a node's condition compares. -/
def masked (n : NodeRun) (m : Nat) : DWord := BitVec.ofNat 64 m &&& dw n.words 3

/-- A node's condition holds of a word. -/
def NodeHolds (n : NodeRun) (m : Nat) : Prop :=
  if ((dw n.words 5).extractLsb' 0 2).toNat = 0 then masked n m = dw n.words 4
  else if ((dw n.words 5).extractLsb' 0 2).toNat = 1 then masked n m ≠ dw n.words 4
  else if ((dw n.words 5).extractLsb' 0 2).toNat = 2 then masked n m < dw n.words 4 else dw n.words 4 ≤ masked n m

/-- The code of a condition, with the comparison that it stands for. -/
def compares (a v : DWord) (op : Nat) : Bool :=
  match op with
  | 0 => a.toNat == v.toNat
  | 1 => a.toNat != v.toNat
  | 2 => decide (a.toNat < v.toNat)
  | _ => decide (v.toNat ≤ a.toNat)

theorem condOf_eq (n : NodeRun) (m : Nat) : condOf n.words m
    = compares (masked n m) (dw n.words 4) ((dw n.words 5).extractLsb' 0 2).toNat := by
  rw [← nbits_extract (dw n.words 5) 0 2 1 rfl]
  rfl

theorem compares_iff (a v : DWord) (op : Nat) : compares a v op = true
    ↔ if op = 0 then a = v else if op = 1 then a ≠ v else if op = 2 then a < v else v ≤ a := by
  match op with
  | 0 => simp [compares, ← BitVec.toNat_inj]
  | 1 => simp [compares, ← BitVec.toNat_inj]
  | 2 => simp [compares, BitVec.lt_def]
  | k + 3 => simp [compares, BitVec.le_def]

theorem condOf_iff (n : NodeRun) (m : Nat) : condOf n.words m = true ↔ NodeHolds n m := by
  rw [condOf_eq]
  exact compares_iff _ _ _

theorem condOf_pos (h : NodeHolds n m) : condOf n.words m = true := (condOf_iff n m).2 h

theorem condOf_neg (h : ¬ NodeHolds n m) : condOf n.words m = false := Bool.eq_false_iff.2 (fun hc => h ((condOf_iff n m).1 hc))

end


/-! ### COND, SWITCH, LOOP (R244) -/

section
variable {s t u : State} {task addr m : Nat} {loops : List LoopFrame} {T : Task} {n : NodeRun} {f : LoopFrame} {bs : List Byte}

theorem isSome_of_ne {α : Type} {o : Option α} (h : o ≠ none) : o.isSome = true := Option.isSome_iff_ne_none.2 h

theorem not_isSome {α : Type} {o : Option α} (h : o = none) : ¬ o.isSome = true := by rw [h]; exact Bool.false_ne_true

/-- A node of a task that has failed is cut. -/
def IsCut (s : State) (task : Nat) (T : Task) (n : NodeRun) (t : State) : Prop :=
  TaskGoes s task ((without T n).endLoops (chainLoops n)) (.taskStampWrite task) t

/-- A node is over, and its chain goes on. -/
def GoesOnTo (s : State) (task : Nat) (T : Task) (n : NodeRun) (next : Nat) (t : State) : Prop :=
  TaskGoes s task (without T n) (.nodeSuccessor task next n.loops) t

/-- A node fails its task. -/
def NodeFails (s : State) (task : Nat) (T : Task) (n : NodeRun) (code : BitVec 16) (t : State) : Prop :=
  TaskGoes s task (failed (without T n) (chainLoops n) code) (.taskStampWrite task) t

theorem Runs.isCut (h : Runs s task addr T n loops) : IsCut s task T n (s.cutNode task n) := cutNode_goes (Still.refl s) h.1

theorem Runs.goesOn (h : Runs s task addr T n loops) (ev : Event) (next : Nat) : GoesOnTo s task T n next ((s.forget ev).goNode task n next) :=
  goNode_goes (still_forget s ev) h.1 next

theorem Runs.fails (h : Runs s task addr T n loops) (hs : T.status = none) (ev : Event) (code : BitVec 16) :
    NodeFails s task T n code ((s.forget ev).failNode task n code) := failNode_goes (still_forget s ev) h.1 hs code

theorem nodeCond_cut (h : Runs s task addr T n loops) (hs : T.status ≠ none) :
    Happens s (.nodeCond task addr loops) .nodeCond (IsCut s task T n) := by
  intro he
  refine ⟨s.cutNode task n, ?_, h.isCut⟩
  show execNodeCond s = _
  unfold execNodeCond
  rw [he]
  dsimp only
  rw [h.atNode, if_pos (isSome_of_ne hs)]

theorem nodeSwitch_cut (h : Runs s task addr T n loops) (hs : T.status ≠ none) :
    Happens s (.nodeSwitch task addr loops) .nodeSwitch (IsCut s task T n) := by
  intro he
  refine ⟨s.cutNode task n, ?_, h.isCut⟩
  show execNodeSwitch s = _
  unfold execNodeSwitch
  rw [he]
  dsimp only
  rw [h.atNode, if_pos (isSome_of_ne hs)]

theorem nodeLoop_cut (h : Runs s task addr T n loops) (hs : T.status ≠ none) :
    Happens s (.nodeLoop task addr (f :: loops)) .nodeLoop (IsCut s task T n) := by
  intro he
  refine ⟨s.cutNode task n, ?_, h.isCut⟩
  show execNodeLoop s = _
  unfold execNodeLoop
  rw [he]
  dsimp only [List.tail_cons]
  rw [h.atNode, if_pos (isSome_of_ne hs)]

theorem exec_nodeCopy (h : Runs s task addr T n loops) (he : s.event = some (.nodeCopy task addr loops)) :
    exec .nodeCopy s = .next (s.engineNode task T n (.nodeCopy task addr loops)) := by
  show execNodeCopy s = _
  unfold execNodeCopy
  rw [he]
  dsimp only
  rw [h.atNode]

theorem exec_nodeInstall (h : Runs s task addr T n loops) (he : s.event = some (.nodeInstall task addr loops)) :
    exec .nodeInstall s = .next (s.engineNode task T n (.nodeInstall task addr loops)) := by
  show execNodeInstall s = _
  unfold execNodeInstall
  rw [he]
  dsimp only
  rw [h.atNode]

theorem engineNode_cut (hs : T.status ≠ none) (ev : Event) : s.engineNode task T n ev = s.cutNode task n := if_pos (isSome_of_ne hs)

theorem nodeKernel_cut (h : Runs s task addr T n loops) (hs : T.status ≠ none) :
    Happens s (.nodeKernel task addr loops) .nodeKernel (IsCut s task T n) := by
  intro he
  refine ⟨s.cutNode task n, ?_, h.isCut⟩
  show execNodeKernel s = _
  unfold execNodeKernel
  rw [he]
  dsimp only
  rw [h.atNode, if_pos (isSome_of_ne hs)]

/-- COND goes on as its condition says. -/
theorem nodeCond_decides (h : Runs s task addr T n loops) (hs : T.status = none) (hr : ReadsAs s (dw n.words 2) m) :
    Happens s (.nodeCond task addr loops) .nodeCond (GoesOnTo s task T n (if condOf n.words m then n.next else (dw n.words 6).toNat)) := by
  intro he
  refine ⟨_, ?_, h.goesOn (.nodeCond task addr loops) _⟩
  show execNodeCond s = _
  unfold execNodeCond
  rw [he]
  dsimp only
  rw [h.atNode, if_neg (not_isSome hs), hr.readRef]

/-- SWITCH goes past a table that has no entry for its word. -/
theorem nodeSwitch_past (h : Runs s task addr T n loops) (hs : T.status = none) (hw : n.word = none) (hr : ReadsAs s (dw n.words 2) m)
    (hi : dwBits n.words 4 4 0 ≤ (masked n m).toNat) : Happens s (.nodeSwitch task addr loops) .nodeSwitch (GoesOnTo s task T n n.next) := by
  intro he
  refine ⟨_, ?_, h.goesOn (.nodeSwitch task addr loops) _⟩
  show execNodeSwitch s = _
  unfold execNodeSwitch
  rw [he]
  dsimp only
  rw [h.atNode, if_neg (not_isSome hs), hr.readWord hw]
  exact congrArg Host.Outcome.next (if_pos hi)

/-- What SWITCH does with what its table gives. -/
def switched (task : Nat) (n : NodeRun) (m : Nat) (ev : Event) : FarRes (List Byte) × State → State
  | (.wait, s) => s.setWord task n (some m)
  | (.fault _, s) => (s.forget ev).failNode task n nodeFault
  | (.ok bs, s) => (s.forget ev).goNode task n (leNat bs)

theorem exec_nodeSwitch (h : Runs s task addr T n loops) (hs : T.status = none) (hw : n.word = none) (hr : ReadsAs s (dw n.words 2) m)
    (hi : (masked n m).toNat < dwBits n.words 4 4 0) (he : s.event = some (.nodeSwitch task addr loops)) : exec .nodeSwitch s
    = .next (switched task n m (.nodeSwitch task addr loops)
        (s.gafRead T.part ((dw n.words 5).toNat + 8 * (masked n m).toNat) 8 (.nodeSwitch task addr loops))) := by
  show execNodeSwitch s = _
  unfold execNodeSwitch
  rw [he]
  dsimp only
  rw [h.atNode, if_neg (not_isSome hs), hr.readWord hw]
  exact congrArg Host.Outcome.next (if_neg (Nat.not_le.2 hi))

/-- LOOP whose condition holds runs its body once more, up to its limit. -/
theorem nodeLoop_limit (h : Runs s task addr T n loops) (hs : T.status = none) (hw : n.word = none) (hr : ReadsAs s (dw n.words 2) m)
    (hc : condOf n.words m = true) (hi : f.iter = dwBits n.words 5 63 32) :
    Happens s (.nodeLoop task addr (f :: loops)) .nodeLoop (NodeFails s task T n 0x0209) := by
  intro he
  refine ⟨_, ?_, h.fails hs (.nodeLoop task addr (f :: loops)) _⟩
  show execNodeLoop s = _
  unfold execNodeLoop
  rw [he]
  dsimp only [List.tail_cons, List.headD_cons]
  rw [h.atNode, if_neg (not_isSome hs), hr.readWord hw]
  dsimp only
  rw [if_pos hc]
  exact congrArg Host.Outcome.next (if_pos hi)

theorem nodeLoop_again (h : Runs s task addr T n loops) (hs : T.status = none) (hw : n.word = none) (hr : ReadsAs s (dw n.words 2) m)
    (hc : condOf n.words m = true) (hi : f.iter ≠ dwBits n.words 5 63 32) : Happens s (.nodeLoop task addr (f :: loops)) .nodeLoop
      (TaskGoes s task T (.nodeSuccessor task (dw n.words 6).toNat (f :: loops))) := by
  intro he
  refine ⟨_, ?_, (still_forget s (.nodeLoop task addr (f :: loops))).later h.1 _⟩
  show execNodeLoop s = _
  unfold execNodeLoop
  rw [he]
  dsimp only [List.tail_cons, List.headD_cons]
  rw [h.atNode, if_neg (not_isSome hs), hr.readWord hw]
  dsimp only
  rw [if_pos hc]
  exact congrArg Host.Outcome.next (if_neg hi)

theorem nodeLoop_over (h : Runs s task addr T n loops) (hs : T.status = none) (hw : n.word = none) (hr : ReadsAs s (dw n.words 2) m)
    (hc : condOf n.words m = false) (h7 : dw n.words 7 = 0) :
    Happens s (.nodeLoop task addr (f :: loops)) .nodeLoop (GoesOnTo s task T n n.next) := by
  intro he
  refine ⟨_, ?_, h.goesOn (.nodeLoop task addr (f :: loops)) _⟩
  show execNodeLoop s = _
  unfold execNodeLoop
  rw [he]
  dsimp only [List.tail_cons, List.headD_cons]
  rw [h.atNode, if_neg (not_isSome hs), hr.readWord hw]
  dsimp only
  rw [if_neg (ne_true_of_eq_false hc), if_pos h7]

/-- The task with a word kept by a node. -/
def keptWord (T : Task) (n : NodeRun) (v : Nat) : Task := { T with nodes := T.nodes.map (fun x => if x = n then { x with word := some v } else x) }

theorem task_setWord (h : s.task task = some T) (v : Nat) : (s.setWord task n (some v)).task task = some (keptWord T n v) := task_modTask h _

theorem laterNear_goes (h : Still s u) (ht : u.task task = some T) (r : DWord) (ev : Event) : TaskGoes s task T ev (u.laterNear r ev) := by
  refine ⟨ht, ⟨ceilTo (cyc (nbits r.toNat 62 48)) (u.now + (1 + Config.freeLatency u.fresh)), ?_, mem_post _ _ _⟩, h.calm⟩
  have hge := ceilTo_ge (t := u.now + (1 + Config.freeLatency u.fresh)) (cyc_pos (nbits r.toNat 62 48))
  have hnow := h.now
  omega

/-- LOOP that exits keeps its count for COUNTW, which a step of its own writes. -/
theorem nodeLoop_counts (h : Runs s task addr T n loops) (hs : T.status = none) (hw : n.word = none) (hr : ReadsAs s (dw n.words 2) m)
    (hc : condOf n.words m = false) (h7 : (dw n.words 7).getLsbD 63 = true) : Happens s (.nodeLoop task addr (f :: loops)) .nodeLoop
      (TaskGoes s task (keptWord T n f.iter) (.signalComplete task addr n.loops true)) := by
  intro he
  refine ⟨_, ?_, laterNear_goes ((still_forget s (.nodeLoop task addr (f :: loops))).trans (still_modTask _ task _)) (task_setWord h.1 f.iter)
    (dw n.words 7) _⟩
  have hne : dw n.words 7 ≠ 0 := fun h0 => by rw [h0] at h7; exact absurd h7 (by decide)
  show execNodeLoop s = _
  unfold execNodeLoop
  rw [he]
  dsimp only [List.tail_cons, List.headD_cons]
  rw [h.atNode, if_neg (not_isSome hs), hr.readWord hw]
  dsimp only
  rw [if_neg (ne_true_of_eq_false hc), if_neg hne, if_pos h7]
  rfl

end


/-! ### SIGNAL (R244, R245) -/

section
variable {s t u : State} {task addr m x : Nat} {loops : List LoopFrame} {T : Task} {n : NodeRun} {r : DWord} {f : Nat → Nat}

theorem still_startedNode (s : State) (task : Nat) (n : NodeRun) : Still s (s.startedNode task n) := by
  unfold State.startedNode
  split
  · exact still_later s _
  · exact Still.refl s

theorem task_startedNode (s : State) (task : Nat) (n : NodeRun) (i : Nat) : (s.startedNode task n).task i = s.task i := by
  unfold State.startedNode
  split <;> rfl

/-- A SIGNAL that starts: with NOWAIT its successor starts beside it. -/
def signalling (s : State) (task : Nat) (n : NodeRun) : State := if n.word.isNone then (s.startedNode task n).setWord task n (some 0) else s

theorem still_signalling (s : State) (task : Nat) (n : NodeRun) : Still s (signalling s task n) := by
  unfold signalling
  split
  · exact (still_startedNode s task n).trans (still_modTask _ task _)
  · exact Still.refl s

theorem task_signalling (h : s.task task = some T) : (signalling s task n).task task = some (if n.word = none then keptWord T n 0 else T) := by
  unfold signalling
  by_cases hw : n.word = none
  · rw [if_pos (Option.isNone_iff_eq_none.2 hw), if_pos hw]
    exact task_setWord ((task_startedNode s task n task).trans h) 0
  · rw [if_neg (fun hn => hw (Option.isNone_iff_eq_none.1 hn)), if_neg hw]
    exact h

theorem signalling_starts (hn : n.nowait = true) (hw : n.word = none) : Later s (signalling s task n) (.nodeSuccessor task n.next n.loops) := by
  unfold signalling State.startedNode
  rw [if_pos (Option.isNone_iff_eq_none.2 hw), if_pos hn]
  exact later_posted s _

theorem nodeSignal_near (h : Runs s task addr T n loops) (hr : NearRef s (dw n.words 2)) :
    Happens s (.nodeSignal task addr loops) .nodeSignal (fun t => Calm s t
      ∧ t.task task = some (if n.word = none then keptWord T n 0 else T) ∧ Later s t (.signalComplete task addr loops true)
      ∧ (n.nowait = true → n.word = none → Later s t (.nodeSuccessor task n.next n.loops))) := by
  intro he
  obtain ⟨htask, hlater, hcalm⟩ := laterNear_goes (still_signalling s task n) (task_signalling h.1) (dw n.words 2)
    (.signalComplete task addr loops true)
  refine ⟨_, ?_, hcalm, htask, hlater, fun hn hw => ?_⟩
  · show execNodeSignal s = _
    unfold execNodeSignal
    rw [he]
    dsimp only
    rw [h.atNode, if_pos hr.1]
    rfl
  · obtain ⟨at_, hat, hmem⟩ := signalling_starts (s := s) (task := task) hn hw
    exact ⟨at_, hat, mem_post_of hmem _ _⟩

/-- The word of a near reference holds a number; every other byte of its core, and every other core, is as before. -/
def Stored (s : State) (r : DWord) (x : Nat) (t : State) : Prop :=
  (∀ b, nearByte t (refCore r) b = if refAt r ≤ b ∧ b < refAt r + 8 then BitVec.ofNat 8 (x / 2 ^ (8 * (b - refAt r))) else nearByte s (refCore r) b)
  ∧ ∀ j, j ≠ refCore r → t.core j = s.core j

theorem Stored.of_cores (h : Stored s r x u) (hc : t.cores = u.cores) : Stored s r x t := by
  refine ⟨fun b => Eq.trans ?_ (h.1 b), fun j hj => (core_of_cores hc j).trans (h.2 j hj)⟩
  unfold nearByte
  rw [core_of_cores hc]

/-- A word written in the engine channel's place. -/
def wordWritten (s : State) (r : DWord) (x : Nat) : State :=
  ((s.correct (refCore r) (refAt r) 8).setCore (refCore r) ((s.core (refCore r)).portWrite (refAt r) (leBytes 8 (x % 2 ^ 64)))).watch
    (refCore r) (refAt r / 8)

theorem wordWritten_stored (s : State) (r : DWord) (x : Nat) : Stored s r x (wordWritten s r x) := by
  unfold wordWritten State.watch
  refine ⟨fun b => ?_, fun j hj => ?_⟩
  · unfold nearByte
    rw [core_modCore_same, core_setCore, if_pos rfl]
    refine (sget_writeBytes_le _ _ _ _ b).trans ?_
    by_cases hin : refAt r ≤ b ∧ b < refAt r + 8
    · rw [if_pos hin, if_pos hin, byte_mod _ _ (by omega)]
    · rw [if_neg hin, if_neg hin]
  · rw [core_modCore_other _ _ (Ne.symm hj), core_setCore, if_neg (Ne.symm hj)]
    exact count_core _ _ _ _

theorem wordWritten_rest (s : State) (r : DWord) (x : Nat) : (wordWritten s r x).now = s.now ∧ (wordWritten s r x).gaf = s.gaf :=
  ⟨count_now s (refCore r) ((s.core (refCore r)).softWords (refAt r) 8), count_gaf s (refCore r) ((s.core (refCore r)).softWords (refAt r) 8)⟩

theorem portSet_free (hr : (s.core (refCore r)).ctl.rmw = []) : ∃ w, s.portSet false (refCore r) (refAt r) f
    = some (w, wordWritten s r (f ((s.core (refCore r)).readNat (refAt r) 8))) := by
  refine ⟨_, if_neg (fun h => ?_)⟩
  have hh := h.2
  unfold Core.held at hh
  rw [hr] at hh
  exact Bool.false_ne_true hh

theorem portSet_held (hh : (s.core (refCore r)).held s.now (refAt r) none = true) : s.portSet false (refCore r) (refAt r) f = none :=
  if_pos ⟨rfl, hh⟩

/-- What the end of a node's access does, with what the engine channel's place gives. -/
def accessEnds (task : Nat) (n : NodeRun) (again : State) : Option (Nat × State) → State
  | none => again
  | some (_, s) => s.endSignal task n true

theorem settle_before (hr : NearRef s r) : s.settle (refCore r) (s.now - 1) = s :=
  settle_idle s _ _ (fun p hp => Nat.lt_of_le_of_lt (Nat.sub_le _ _) (hr.2 p (List.mem_of_mem_head? hp)))

theorem exec_signalComplete (h : Runs s task addr T n loops) {reads : Bool} (hw : n.nearWrite = some (r, reads, f)) (hr : NearRef s r)
    (hb : reads = true → CleanRef s r) (ok : Bool) (he : s.event = some (.signalComplete task addr loops ok)) : exec .signalComplete s
    = .next (accessEnds task n (s.post (s.now + cyc (refCore r)) (.signalComplete task addr loops ok)) (s.portSet false (refCore r) (refAt r) f)) := by
  have hclean : ¬ (reads && ((s.core (refCore r)).badIn (refAt r) 8).isSome) = true := by
    cases reads with
    | false => exact Bool.false_ne_true
    | true => rw [(hb rfl).badIn]; exact Bool.false_ne_true
  show execSignalComplete s = _
  unfold execSignalComplete
  rw [he]
  dsimp only
  rw [h.atNode, hw]
  dsimp only
  rw [nbits_refCore, nbits_refAt, settle_before hr, if_neg hclean]
  generalize s.portSet false (refCore r) (refAt r) f = o
  cases o <;> rfl

theorem signalComplete_written (h : Runs s task addr T n loops) {reads : Bool} (hw : n.nearWrite = some (r, reads, f)) (hr : NearRef s r)
    (hb : reads = true → CleanRef s r) (hrmw : (s.core (refCore r)).ctl.rmw = []) (ok : Bool) :
    Happens s (.signalComplete task addr loops ok) .signalComplete (fun t => t.task task = some (without T n)
      ∧ Stored s r (f ((s.core (refCore r)).readNat (refAt r) 8)) t
      ∧ Later s t (if n.nowait then .taskStampWrite task else .nodeSuccessor task n.next n.loops)) := by
  intro he
  obtain ⟨w, hset⟩ := portSet_free (f := f) hrmw
  refine ⟨_, exec_signalComplete h hw hr hb ok he, ?_⟩
  rw [hset]
  obtain ⟨hnow, hgaf⟩ := wordWritten_rest s r (f ((s.core (refCore r)).readNat (refAt r) 8))
  have htask : (wordWritten s r (f ((s.core (refCore r)).readNat (refAt r) 8))).task task = some T :=
    (congrArg (fun g : Gaffer => sget none g.tasks task) hgaf).trans h.1
  obtain ⟨hT, ⟨at_, hat, hmem⟩, hcalm⟩ := waitOver_goes (n := n) (Still.refl _) htask
  exact ⟨hT, (wordWritten_stored s r _).of_cores hcalm.1, at_, hnow ▸ hat, hmem⟩

theorem signalComplete_held (h : Runs s task addr T n loops) {reads : Bool} (hw : n.nearWrite = some (r, reads, f)) (hr : NearRef s r)
    (hb : reads = true → CleanRef s r) (hh : (s.core (refCore r)).held s.now (refAt r) none = true) (ok : Bool) :
    Happens s (.signalComplete task addr loops ok) .signalComplete
      (fun t => t = s.post (s.now + cyc (refCore r)) (.signalComplete task addr loops ok)) := by
  intro he
  refine ⟨_, exec_signalComplete h hw hr hb ok he, ?_⟩
  rw [portSet_held hh]
  rfl

theorem nearWrite_count (hk : n.kind = 5) (hm : n.word = some m) : n.nearWrite = some (dw n.words 7, false, fun _ => m) := by
  unfold NodeRun.nearWrite
  dsimp only
  rw [if_pos hk, hm]
  rfl

/-- Bit 0 of dword 4 says whether a SIGNAL adds to its word. -/
theorem adds_iff (n : NodeRun) : (dwBits n.words 4 0 0 == 1) = (dw n.words 4).getLsbD 0 := by
  unfold dwBits
  rw [nbits_low]
  show (((dw n.words 4).toNat % 2) == 1) = _
  rw [BitVec.getLsbD, Nat.testBit_zero]
  rfl

theorem nearWrite_signal (hk : n.kind ≠ 5) (hr : (dw n.words 2).getLsbD 63 = true) : n.nearWrite = some (dw n.words 2, (dw n.words 4).getLsbD 0,
    fun w => if (dw n.words 4).getLsbD 0 = true then w + (dw n.words 3).toNat else (dw n.words 3).toNat) := by
  unfold NodeRun.nearWrite
  dsimp only
  rw [if_neg hk, if_pos hr, adds_iff]

/-- SIGNAL adds to its near word, or writes it. -/
theorem signalComplete_signals (h : Runs s task addr T n loops) (hk : n.kind ≠ 5) (hr : ReadsAs s (dw n.words 2) m)
    (hrmw : (s.core (refCore (dw n.words 2))).ctl.rmw = []) : Happens s (.signalComplete task addr loops true) .signalComplete (fun t =>
      t.task task = some (without T n)
      ∧ Stored s (dw n.words 2) ((if (dw n.words 4).getLsbD 0 then m else 0) + (dw n.words 3).toNat) t
      ∧ Later s t (if n.nowait then .taskStampWrite task else .nodeSuccessor task n.next n.loops)) := by
  have hw := signalComplete_written h (nearWrite_signal hk hr.1.1) hr.1 (fun _ => hr.2.1) hrmw true
  rw [hr.readNat] at hw
  cases hb : (dw n.words 4).getLsbD 0 with
  | true =>
    rw [hb] at hw
    exact hw
  | false =>
    rw [hb] at hw
    rw [if_neg Bool.false_ne_true, Nat.zero_add]
    exact hw

theorem nearWrite_far (hk : n.kind ≠ 5) (hr : (dw n.words 2).getLsbD 63 = false) : n.nearWrite = none := by
  unfold NodeRun.nearWrite
  dsimp only
  rw [if_neg hk, if_neg (ne_true_of_eq_false hr)]

/-- A far access has been made when its node completes. -/
theorem exec_signalComplete_far (h : Runs s task addr T n loops) (hw : n.nearWrite = none) (ok : Bool)
    (he : s.event = some (.signalComplete task addr loops ok)) : exec .signalComplete s = .next (s.endSignal task n ok) := by
  show execSignalComplete s = _
  unfold execSignalComplete
  rw [he]
  dsimp only
  rw [h.atNode, hw]

theorem signalComplete_fails (h : Runs s task addr T n loops) (hw : n.nearWrite = none) (hs : T.status = none) :
    Happens s (.signalComplete task addr loops false) .signalComplete (NodeFails s task T n 0x0207) :=
  fun he => ⟨_, exec_signalComplete_far h hw false he, failNode_goes (Still.refl s) h.1 hs _⟩

theorem signalComplete_over (h : Runs s task addr T n loops) (hw : n.nearWrite = none) :
    Happens s (.signalComplete task addr loops true) .signalComplete
      (TaskGoes s task (without T n) (if n.nowait then .taskStampWrite task else .nodeSuccessor task n.next n.loops)) :=
  fun he => ⟨_, exec_signalComplete_far h hw true he, waitOver_goes (Still.refl s) h.1⟩

/-! ### WAIT (R244) -/

/-- What a WAIT does with its word. -/
def waited (s : State) (task : Nat) (T : Task) (n : NodeRun) (m since : Nat) (ev : Event) : State :=
  if T.status.isSome then s.cutNode task n
  else if condOf n.words m then s.waitOver task n
  else if waitNs n.words ≠ 0 ∧ waitNs n.words ≤ s.time - since then s.failNode task n 0x020A
  else s.later ev

theorem exec_nodeWait (h : Runs s task addr T n loops) (hr : ReadsAs s (dw n.words 2) m) {since : Nat}
    (he : s.event = some (.nodeWait task addr loops since)) : exec .nodeWait s
    = .next (waited (s.forget (.nodeWait task addr loops since)) task T n m since (.nodeWait task addr loops since)) := by
  show execNodeWait s = _
  unfold execNodeWait
  rw [he]
  dsimp only
  rw [h.atNode, hr.readRef]
  rfl

/-- The limit of a WAIT in nanoseconds. -/
def waitLimit (n : NodeRun) : Nat := 1000 * ((dw n.words 6).extractLsb' 0 32).toNat

theorem waitNs_eq (n : NodeRun) : waitNs n.words = waitLimit n := congrArg (1000 * ·) (nbits_extract (dw n.words 6) 0 32 31 rfl)

theorem time_forget (s : State) (ev : Event) : (s.forget ev).time = s.time := rfl

theorem nodeWait_cut (h : Runs s task addr T n loops) (hr : ReadsAs s (dw n.words 2) m) {since : Nat} (hs : T.status ≠ none) :
    Happens s (.nodeWait task addr loops since) .nodeWait (IsCut s task T n) := by
  intro he
  refine ⟨_, exec_nodeWait h hr he, ?_⟩
  unfold waited
  rw [if_pos (isSome_of_ne hs)]
  exact cutNode_goes (still_forget s _) h.1

theorem nodeWait_over (h : Runs s task addr T n loops) (hr : ReadsAs s (dw n.words 2) m) {since : Nat} (hs : T.status = none)
    (hc : NodeHolds n m) : Happens s (.nodeWait task addr loops since) .nodeWait
      (TaskGoes s task (without T n) (if n.nowait then .taskStampWrite task else .nodeSuccessor task n.next n.loops)) := by
  intro he
  refine ⟨_, exec_nodeWait h hr he, ?_⟩
  unfold waited
  rw [if_neg (not_isSome hs), if_pos (condOf_pos hc)]
  exact waitOver_goes (still_forget s _) h.1

theorem nodeWait_late (h : Runs s task addr T n loops) (hr : ReadsAs s (dw n.words 2) m) {since : Nat} (hs : T.status = none)
    (hc : ¬ NodeHolds n m) (h0 : waitLimit n ≠ 0) (hl : waitLimit n ≤ s.time - since) :
    Happens s (.nodeWait task addr loops since) .nodeWait (NodeFails s task T n 0x020A) := by
  intro he
  refine ⟨_, exec_nodeWait h hr he, ?_⟩
  unfold waited
  rw [if_neg (not_isSome hs), if_neg (ne_true_of_eq_false (condOf_neg hc)), waitNs_eq, time_forget, if_pos ⟨h0, hl⟩]
  exact failNode_goes (still_forget s _) h.1 hs _

theorem nodeWait_again (h : Runs s task addr T n loops) (hr : ReadsAs s (dw n.words 2) m) {since : Nat} (hs : T.status = none)
    (hc : ¬ NodeHolds n m) (hl : waitLimit n = 0 ∨ s.time - since < waitLimit n) :
    Happens s (.nodeWait task addr loops since) .nodeWait (TaskGoes s task T (.nodeWait task addr loops since)) := by
  intro he
  refine ⟨_, exec_nodeWait h hr he, ?_⟩
  unfold waited
  rw [if_neg (not_isSome hs), if_neg (ne_true_of_eq_false (condOf_neg hc)), waitNs_eq, time_forget, if_neg (by omega)]
  exact (still_forget s _).later h.1 _

/-- The chain and the start of the WAIT whose step stands on the agenda. -/
def waitOf (task addr : Nat) (e : Due) : Option (List LoopFrame × Nat) :=
  match e.ev with
  | .nodeWait t a l since => if t = task ∧ a = addr then some (l, since) else none
  | _ => none

theorem waitOf_some {e : Due} {l : List LoopFrame} {since : Nat} (h : waitOf task addr e = some (l, since)) : e.ev = .nodeWait task addr l since := by
  unfold waitOf at h
  split at h
  · next t a l' since' hev =>
    by_cases hc : t = task ∧ a = addr
    · rw [if_pos hc] at h
      obtain ⟨rfl, rfl⟩ := hc
      cases h
      exact hev
    · rw [if_neg hc] at h
      exact nomatch h
  · exact nomatch h

theorem waitOf_wait {e : Due} {l : List LoopFrame} {since : Nat} (h : e.ev = .nodeWait task addr l since) : waitOf task addr e = some (l, since) := by
  unfold waitOf
  rw [h]
  exact if_pos ⟨rfl, rfl⟩

/-- What the timeout of a WAIT does with the step that it finds. -/
def timedOut (s : State) (task addr : Nat) : Option (List LoopFrame × Nat) → State
  | none => s
  | some (loops, since) => s.atNode task addr loops (fun t n =>
    if t.status.isSome then s
    else if s.time - since < waitNs n.words then s.post (s.now + beatTicks) (.waitTimeout task addr)
    else (s.cancel (.nodeWait task addr loops since)).failNode task n 0x020A)

theorem exec_waitTimeout (he : s.event = some (.waitTimeout task addr)) : exec .waitTimeout s
    = .next (timedOut s task addr (s.agenda.findSome? (waitOf task addr))) := by
  show execWaitTimeout s = _
  unfold execWaitTimeout
  rw [he]
  dsimp only
  rfl

theorem waitTimeout_none (h : ∀ e ∈ s.agenda, ∀ l x, e.ev ≠ .nodeWait task addr l x) :
    Happens s (.waitTimeout task addr) .waitTimeout (fun t => t = s) := by
  intro he
  refine ⟨_, exec_waitTimeout he, ?_⟩
  have hn : s.agenda.findSome? (waitOf task addr) = none := by
    refine List.findSome?_eq_none_iff.2 (fun e hm => ?_)
    cases hw : waitOf task addr e with
    | none => rfl
    | some p => exact absurd (waitOf_some hw) (h e hm p.1 p.2)
  rw [hn]
  rfl

theorem findSome?_wait {since : Nat} (hm : ∃ e ∈ s.agenda, e.ev = .nodeWait task addr loops since)
    (hu : ∀ e ∈ s.agenda, ∀ l x, e.ev = .nodeWait task addr l x → l = loops ∧ x = since) :
    s.agenda.findSome? (waitOf task addr) = some (loops, since) := by
  obtain ⟨e, hmem, hev⟩ := hm
  cases hf : s.agenda.findSome? (waitOf task addr) with
  | none => exact absurd (waitOf_wait hev) (by rw [List.findSome?_eq_none_iff.1 hf e hmem]; exact nofun)
  | some p =>
    obtain ⟨l, x⟩ := p
    obtain ⟨e', hmem', hw⟩ := List.exists_of_findSome?_eq_some hf
    obtain ⟨rfl, rfl⟩ := hu e' hmem' l x (waitOf_some hw)
    rfl

/-- A timeout that comes too early, because the beat has changed, is looked at again. -/
theorem waitTimeout_early (h : Runs s task addr T n loops) (hs : T.status = none) {since : Nat}
    (hm : ∃ e ∈ s.agenda, e.ev = .nodeWait task addr loops since)
    (hu : ∀ e ∈ s.agenda, ∀ l x, e.ev = .nodeWait task addr l x → l = loops ∧ x = since) (hl : s.time - since < waitLimit n) :
    Happens s (.waitTimeout task addr) .waitTimeout (fun t => t = s.post (s.now + 120) (.waitTimeout task addr)) := by
  intro he
  refine ⟨_, exec_waitTimeout he, ?_⟩
  rw [findSome?_wait hm hu]
  unfold timedOut
  dsimp only
  rw [h.atNode, if_neg (not_isSome hs), waitNs_eq, if_pos hl]
  rfl

theorem not_mem_cancel (s : State) (ev : Event) : ∀ e ∈ (s.cancel ev).agenda, e.ev ≠ ev := by
  intro e he
  exact of_decide_eq_true (List.mem_filter.1 he).2

theorem waitTimeout_fails (h : Runs s task addr T n loops) (hs : T.status = none) {since : Nat}
    (hm : ∃ e ∈ s.agenda, e.ev = .nodeWait task addr loops since)
    (hu : ∀ e ∈ s.agenda, ∀ l x, e.ev = .nodeWait task addr l x → l = loops ∧ x = since) (hl : waitLimit n ≤ s.time - since) :
    Happens s (.waitTimeout task addr) .waitTimeout (fun t => NodeFails s task T n 0x020A t
      ∧ ∀ e ∈ t.agenda, e.ev ≠ .nodeWait task addr loops since) := by
  intro he
  refine ⟨_, exec_waitTimeout he, ?_⟩
  rw [findSome?_wait hm hu]
  unfold timedOut
  dsimp only
  rw [h.atNode, if_neg (not_isSome hs), waitNs_eq, if_neg (Nat.not_lt.2 hl)]
  refine ⟨failNode_goes (u := s.cancel (.nodeWait task addr loops since)) ⟨rfl, rfl, rfl⟩ h.1 hs _, fun e hmem => ?_⟩
  obtain rfl | hold := (mem_agendaInsert _ _ _).1 hmem
  · exact nofun
  · exact not_mem_cancel s _ e hold

end

end Sys2Proof.Proofs
end

section
/-! PROOFS. The gaffer's far reads, the nodes that they find, and the queues whose heads become tasks (R238 to R245). -/

namespace Sys2Proof.Proofs

open Sys2Proof.Machine Sys2Proof.Safety Sys2Proof.Laws

/-! ### What a far read leaves alone -/

/-- The machine without its agenda, the number of its next free value, and what its fabric has under way. -/
def outward (s : State) : State := { s with
  agenda := []
  fresh := 0
  dev := { s.dev with fabric := { s.dev.fabric with ports := [], fseq := [], moved := [], reqs := [], answers := [] } } }

section
variable {s u : State} {part col va n : Nat} {cls : BitVec 2} {ev : Event} {bs : List Byte}

theorem outward_of_ahead {s t : State} (h : ahead t = ahead s) : outward t = outward s := (congrArg outward h :)

theorem outward_of_sentless {s t : State} (h : sentless t = sentless s) : outward t = outward s :=
  (congrArg (fun x : State × (Nat → BitVec 16) => outward x.1) h :)

theorem outward_stage (s : State) (pa : Nat) : outward (s.stage pa).2 = outward s := by
  unfold State.stage
  dsimp only
  split
  · rfl
  · split <;> rfl

/-- The result of a read is named before the place is looked at: a projection of it would have the kernel evaluate the place. -/
theorem outward_readPhys_of {f : State → Nat → Nat → Except (BitVec 8) (List Byte) × State} (hf : f = State.readPhys)
    {x : Except (BitVec 8) (List Byte)} (h : f s va n = (x, u)) : outward u = outward s := by
  delta State.readPhys at hf
  rw [hf] at h
  beta_reduce at h
  have hs := outward_stage s va
  generalize (va - Config.flashBase) / Config.extentSize = e at h
  generalize s.stage va = gu at hs h
  obtain ⟨good, v⟩ := gu
  have hplain : (if s.dev.badFar va n = true then ((.error tEcc : Except (BitVec 8) (List Byte)), s) else (.ok (s.dev.readFar va n), s)) = (x, u)
      → outward u = outward s := by
    intro h
    split_ifs at h <;> (cases h; rfl)
  generalize s.dev.place va = pl at h
  cases pl with
  | flash =>
    dsimp only at h
    split_ifs at h <;> cases h
    · rfl
    · exact hs
    · exact hs
  | hbm => exact hplain h
  | host => exact hplain h
  | peer p off => exact hplain h
  | nothing => exact hplain h

theorem outward_putOff (s : State) (t : Nat) (ev : Event) : outward (s.putOff t ev) = outward s := by
  unfold State.putOff
  split <;> rfl

theorem outward_askPeer (s : State) (part va p off : Nat) (cls : BitVec 2) (typ : BitVec 4) (payload : List Byte) (ev : Event) :
    outward (s.askPeer part va p off cls typ payload ev).2 = outward s := by
  unfold State.askPeer
  cases (s.part part).peer p with
  | none => rfl
  | some dk =>
    obtain ⟨dev, key⟩ := dk
    dsimp only
    split
    · exact outward_putOff s _ ev
    · have hs := outward_of_sentless (sentless_sendFlit s ⟨dev, 0, cls, typ, key, s.tagOf part, 0, off, payload, true⟩)
      generalize s.sendFlit ⟨dev, 0, cls, typ, key, s.tagOf part, 0, off, payload, true⟩ = r at hs
      obtain ⟨sent, t⟩ := r
      cases sent <;> exact hs

theorem outward_askPeer_eq {p off : Nat} {typ : BitVec 4} {payload : List Byte} {x : FarRes (List Byte)}
    (h : s.askPeer part va p off cls typ payload ev = (x, u)) : outward u = outward s := by
  have hs := outward_askPeer s part va p off cls typ payload ev
  rwa [h] at hs

theorem outward_readPiece_of {f : State → Nat → Nat → Nat → Nat → BitVec 2 → Event → FarRes (List Byte) × State} (hf : f = State.readPiece)
    {x : FarRes (List Byte)} (h : f s part col va n cls ev = (x, u)) : outward u = outward s := by
  delta State.readPiece at hf
  obtain ⟨place, hplace⟩ : ∃ f : Dev → Nat → Place, Dev.place = f := ⟨_, rfl⟩
  obtain ⟨read, hread⟩ : ∃ f : State → Nat → Nat → Except (BitVec 8) (List Byte) × State, State.readPhys = f := ⟨_, rfl⟩
  rw [hplace, hread] at hf
  rw [hf] at h
  beta_reduce at h
  generalize s.dev.fabric.asked ev va = o at h
  rcases o with _ | o
  · dsimp only at h
    have ht := outward_of_ahead (ahead_translate s part col va false)
    generalize s.translate part col va false = r at h ht
    obtain ⟨r, v⟩ := r
    cases r with
    | error t =>
      cases h
      exact ht
    | ok pa =>
      dsimp only at h ht
      have hphys : (match read v pa n with
          | (.ok bs, s) => ((FarRes.ok bs : FarRes (List Byte)), s)
          | (.error t, s) => (.fault t, s)) = (x, u) → outward u = outward s := by
        intro h
        have hr : ∀ y w, read v pa n = (y, w) → outward w = outward v := fun y w hy => outward_readPhys_of hread.symm hy
        generalize read v pa n = y at h hr
        obtain ⟨y, w⟩ := y
        have hw := hr y w rfl
        cases y <;> (cases h; exact hw.trans ht)
      generalize place v.dev pa = pl at h
      cases pl with
      | peer p off => exact (outward_askPeer_eq h).trans ht
      | hbm => exact hphys h
      | flash => exact hphys h
      | host => exact hphys h
      | nothing => exact hphys h
  · cases o <;> (cases h; rfl)

theorem outward_readPieces {l : List (Nat × Nat)} : ∀ {s : State} {x : FarRes (List Byte)}, s.readPieces part col cls ev l = (x, u) →
    outward u = outward s := by
  induction l with
  | nil =>
    intro s x h
    cases h
    rfl
  | cons e l ih =>
    intro s x h
    obtain ⟨va, n⟩ := e
    unfold State.readPieces at h
    have hp : ∀ y w, s.readPiece part col va n cls ev = (y, w) → outward w = outward s := fun y w hy => outward_readPiece_of rfl hy
    generalize s.readPiece part col va n cls ev = y at h hp
    obtain ⟨y, w⟩ := y
    have hw := hp y w rfl
    cases y with
    | fault t =>
      cases h
      exact hw
    | wait =>
      cases h
      exact hw
    | ok bs =>
      dsimp only at h
      have hr : ∀ y v, w.readPieces part col cls ev l = (y, v) → v = u := by
        intro y v hy
        rw [hy] at h
        cases y <;> (cases h; rfl)
      exact (ih (Prod.ext rfl (hr _ _ rfl))).trans hw

/-- A far read leaves the gaffer, the partitions, the columns, the cores and the contents of memory as they are. -/
theorem outward_gafRead {x : FarRes (List Byte)} (h : s.gafRead part va n ev = (x, u)) : outward u = outward s := outward_readPieces h

theorem gaf_gafRead {x : FarRes (List Byte)} (h : s.gafRead part va n ev = (x, u)) : u.gaf = s.gaf :=
  (congrArg State.gaf (outward_gafRead h) :)

theorem task_gafRead {x : FarRes (List Byte)} (h : s.gafRead part va n ev = (x, u)) (i : Nat) : u.task i = s.task i :=
  congrArg (fun g : Gaffer => sget none g.tasks i) (gaf_gafRead h)

end


/-! ### NODE_SUCCESSOR (R243 to R245) -/

section
variable {s u : State} {task addr : Nat} {loops rest : List LoopFrame} {l : LoopFrame} {T : Task} {bs : List Byte} {x : BitVec 512}

theorem nodeSuccessor_stops (h : s.task task = some T) (hs : T.status ≠ none) : Happens s (.nodeSuccessor task addr loops) .nodeSuccessor
    (TaskGoes s task (T.endLoops loops) (.taskStampWrite task)) := by
  intro he
  refine ⟨_, ?_, (still_modTask s task (fun t => t.endLoops loops)).later (task_modTask h _) (.taskStampWrite task)⟩
  show execNodeSuccessor s = _
  unfold execNodeSuccessor
  rw [he]
  dsimp only
  rw [h]
  dsimp only
  rw [if_pos (isSome_of_ne hs)]

theorem nodeSuccessor_ends (h : s.task task = some T) (hs : T.status = none) : Happens s (.nodeSuccessor task 0 []) .nodeSuccessor
    (TaskGoes s task { T with ending := true } (.taskStampWrite task)) := by
  intro he
  refine ⟨_, ?_, (still_modTask s task (fun t => { t with ending := true })).later (task_modTask h _) (.taskStampWrite task)⟩
  show execNodeSuccessor s = _
  unfold execNodeSuccessor
  rw [he]
  dsimp only
  rw [h]
  dsimp only
  rw [if_neg (not_isSome hs), if_pos rfl]

theorem nodeSuccessor_loops (h : s.task task = some T) (hs : T.status = none) : Happens s (.nodeSuccessor task 0 (l :: rest)) .nodeSuccessor
    (TaskGoes s task T (.nodeLoop task l.node (⟨l.node, l.iter + 1⟩ :: rest))) := by
  intro he
  refine ⟨_, ?_, (Still.refl s).later h (.nodeLoop task l.node (⟨l.node, l.iter + 1⟩ :: rest))⟩
  show execNodeSuccessor s = _
  unfold execNodeSuccessor
  rw [he]
  dsimp only
  rw [h]
  dsimp only
  rw [if_neg (not_isSome hs), if_pos rfl]

theorem addrOk_iff (hlt : addr < 2 ^ 64) : addrOk 64 (BitVec.ofNat 64 addr) = true ↔ addr % 64 = 0 ∧ addr < 2 ^ 57 := by
  unfold addrOk
  rw [BitVec.toNat_ofNat, Nat.mod_eq_of_lt hlt, Bool.and_eq_true, decide_eq_true_eq, beq_iff_eq]
  refine and_congr_right (fun _ => ?_)
  show addr / 2 ^ 57 % 2 ^ 7 = 0 ↔ _
  omega

theorem nodeSuccessor_astray (h : s.task task = some T) (hs : T.status = none) (h0 : addr ≠ 0) (hlt : addr < 2 ^ 64)
    (hbad : addr % 64 ≠ 0 ∨ 2 ^ 57 ≤ addr) : Happens s (.nodeSuccessor task addr loops) .nodeSuccessor
      (TaskGoes s task (failed T loops 0x0206) (.taskStampWrite task)) := by
  have ha : (!addrOk 64 (BitVec.ofNat 64 addr)) = true := by
    rw [Bool.not_eq_true', Bool.eq_false_iff]
    intro hok
    obtain ⟨h1, h2⟩ := (addrOk_iff hlt).1 hok
    omega
  intro he
  refine ⟨_, ?_, failTask_goes (Still.refl s) h hs 0x0206⟩
  show execNodeSuccessor s = _
  unfold execNodeSuccessor
  rw [he]
  dsimp only
  rw [h]
  dsimp only
  rw [if_neg (not_isSome hs), if_neg h0, if_pos ha]
  rfl

/-- The node that a block of 64 bytes describes. -/
def nodeRun (addr : Nat) (loops : List LoopFrame) (x : BitVec 512) : NodeRun :=
  ⟨addr, x, BitVec.ofNat 4 (dwBits x 0 3 0), (dw x 1).toNat, loops, dwBits x 0 4 4 == 1 && !([4, 5, 6].contains (dwBits x 0 3 0)), none⟩

/-- What a block does in the place of a node. -/
def nodeFound (task addr : Nat) (loops : List LoopFrame) (T : Task) (s : State) (x : BitVec 512) : State :=
  if !s.nodeOk T.part x ∨ (dwBits x 0 3 0 = 5 ∧ 8 ≤ loops.length) then s.failTask task loops nodeBad
  else
    let n := nodeRun addr loops x
    let s := s.modTask task (fun t => { t with nodes := t.nodes ++ [n] })
    let s := if dwBits x 0 3 0 = 8 then
        let s := s.startedNode task n
        if waitNs x = 0 then s else s.post (s.now + s.nsTicks (waitNs x)) (.waitTimeout task addr)
      else s
    s.later (startEvent (dwBits x 0 3 0) task addr loops s.time)

theorem exec_nodeSuccessor (h : s.task task = some T) (hs : T.status = none) (h0 : addr ≠ 0) (hlt : addr < 2 ^ 57) (hal : addr % 64 = 0)
    (hlen : T.nodes.length < 16) (hr : s.gafRead T.part addr 64 (.nodeSuccessor task addr loops) = (.ok bs, u))
    (he : s.event = some (.nodeSuccessor task addr loops)) : exec .nodeSuccessor s
    = .next (nodeFound task addr loops T (u.forget (.nodeSuccessor task addr loops)) (BitVec.ofNat 512 (leNat bs))) := by
  have ha : ¬ (!addrOk 64 (BitVec.ofNat 64 addr)) = true := by
    rw [(addrOk_iff (Nat.lt_trans hlt (by decide))).2 ⟨hal, hlt⟩]
    exact Bool.false_ne_true
  show execNodeSuccessor s = _
  unfold execNodeSuccessor
  rw [he]
  dsimp only
  rw [h]
  dsimp only
  rw [if_neg (not_isSome hs), if_neg h0, if_neg ha, if_neg (Nat.not_le.2 hlen), hr]
  rfl

theorem dw_zero_extract (x : BitVec 512) (lo len : Nat) (h : lo + len ≤ 64) : (dw x 0).extractLsb' lo len = x.extractLsb' lo len := by
  apply BitVec.eq_of_getLsbD_eq
  intro i hi
  simp only [dw, BitVec.getLsbD_extractLsb', Nat.mul_zero, Nat.zero_add]
  have h2 : lo + i < 64 := by omega
  simp only [hi, h2, decide_true, Bool.true_and]

theorem dwBits_kind (x : BitVec 512) : dwBits x 0 3 0 = (x.extractLsb' 0 4).toNat :=
  (nbits_extract (dw x 0) 0 4 3 rfl).trans (congrArg BitVec.toNat (dw_zero_extract x 0 4 (by decide)))

theorem dwBits_low (x : BitVec 512) : dwBits x 0 15 5 = (x.extractLsb' 5 11).toNat :=
  (nbits_extract (dw x 0) 5 11 15 rfl).trans (congrArg BitVec.toNat (dw_zero_extract x 5 11 (by decide)))

theorem dwBits_high (x : BitVec 512) : dwBits x 0 63 32 = (x.extractLsb' 32 32).toNat :=
  (nbits_extract (dw x 0) 32 32 63 rfl).trans (congrArg BitVec.toNat (dw_zero_extract x 32 32 (by decide)))

theorem dwBits_nowait (x : BitVec 512) : (dwBits x 0 4 4 == 1) = x.getLsbD 4 := by
  have hb : dwBits x 0 4 4 = (x.getLsbD 4).toNat := by
    refine (nbits_extract (dw x 0) 4 1 4 rfl).trans ((congrArg BitVec.toNat (dw_zero_extract x 4 1 (by decide))).trans ?_)
    rw [BitVec.extractLsb'_toNat, BitVec.getLsbD, Nat.testBit_eq_decide_div_mod_eq, Nat.shiftRight_eq_div_pow, Nat.pow_one]
    rcases Nat.mod_two_eq_zero_or_one (x.toNat / 2 ^ 4) with h | h <;> rw [h] <;> rfl
  rw [hb]
  cases x.getLsbD 4 <;> rfl

theorem toNat_beq_zero {w : Nat} {v : BitVec w} (h : v ≠ 0) : (v.toNat == 0) = false :=
  beq_eq_false_iff_ne.2 (fun h0 => h (BitVec.eq_of_toNat_eq (h0.trans BitVec.toNat_zero.symm)))

/-- Reserved bits of dword 0 that are not 0 (R243). -/
theorem nodeOk_reserved (s : State) (part : Nat) (h : x.extractLsb' 5 11 ≠ 0 ∨ x.extractLsb' 32 32 ≠ 0) : s.nodeOk part x = false := by
  unfold State.nodeOk
  dsimp only
  rw [dwBits_low, dwBits_high]
  obtain h | h := h
  · rw [toNat_beq_zero h]
    rfl
  · rw [toNat_beq_zero h, Bool.and_false]
    rfl

/-- A node that R243 accepts is of a kind from 1 to 8. -/
theorem nodeOk_kind {part : Nat} (h : s.nodeOk part x = true) : 1 ≤ dwBits x 0 3 0 ∧ dwBits x 0 3 0 ≤ 8 := by
  unfold State.nodeOk at h
  dsimp only at h
  have h2 := (Bool.and_eq_true _ _ ▸ h).2
  generalize dwBits x 0 3 0 = k at h2
  by_contra hk
  obtain rfl | h9 : k = 0 ∨ 9 ≤ k := by omega
  · exact Bool.false_ne_true h2
  · obtain ⟨j, rfl⟩ := Nat.exists_eq_add_of_le' h9
    exact Bool.false_ne_true h2

/-- Only the step of a WAIT holds the time at which it starts. -/
theorem startEvent_time {k : Nat} (h : 1 ≤ k) (h8 : k ≤ 8) (hk : k ≠ 8) (time : Nat) :
    startEvent k task addr loops time = startEvent k task addr loops 0 := by
  match k with
  | 1 | 2 | 3 | 4 | 5 | 6 | 7 => rfl
  | j + 8 => omega

theorem nodeRun_eq (addr : Nat) (loops : List LoopFrame) (x : BitVec 512) : nodeRun addr loops x = ⟨addr, x, x.extractLsb' 0 4,
    (x.extractLsb' 64 64).toNat, loops,
    x.getLsbD 4 && !(x.extractLsb' 0 4 == 4 || x.extractLsb' 0 4 == 5 || x.extractLsb' 0 4 == 6), none⟩ := by
  unfold nodeRun
  rw [dwBits_nowait, dwBits_kind, BitVec.ofNat_toNat, BitVec.setWidth_eq]
  have hc : ∀ k : BitVec 4, [4, 5, 6].contains k.toNat = (k == 4 || k == 5 || k == 6) := by decide
  rw [hc]
  rfl

theorem nodeSuccessor_reserved (h : s.task task = some T) (hs : T.status = none) (h0 : addr ≠ 0) (hlt : addr < 2 ^ 57) (hal : addr % 64 = 0)
    (hlen : T.nodes.length < 16) (hr : s.gafRead T.part addr 64 (.nodeSuccessor task addr loops) = (.ok bs, u))
    (hx : x = BitVec.ofNat 512 (leNat bs)) (hres : x.extractLsb' 5 11 ≠ 0 ∨ x.extractLsb' 32 32 ≠ 0) :
    Happens s (.nodeSuccessor task addr loops) .nodeSuccessor (fun t => t.task task = some (failed T loops 0x0206)
      ∧ ∃ at_, ⟨at_, .taskStampWrite task⟩ ∈ t.agenda) := by
  intro he
  refine ⟨_, exec_nodeSuccessor h hs h0 hlt hal hlen hr he, ?_⟩
  rw [← hx]
  unfold nodeFound
  rw [nodeOk_reserved _ _ hres, if_pos (.inl rfl)]
  obtain ⟨hT, ⟨at_, -, hmem⟩, -⟩ := failTask_goes (loops := loops) (Still.refl (u.forget (.nodeSuccessor task addr loops)))
    ((task_gafRead hr task).trans h) hs nodeBad
  exact ⟨hT, at_, hmem⟩

theorem nodeSuccessor_starts (h : s.task task = some T) (hs : T.status = none) (h0 : addr ≠ 0) (hlt : addr < 2 ^ 57) (hal : addr % 64 = 0)
    (hlen : T.nodes.length < 16) (hr : s.gafRead T.part addr 64 (.nodeSuccessor task addr loops) = (.ok bs, u))
    (hx : x = BitVec.ofNat 512 (leNat bs)) (hok : u.nodeOk T.part x = true) (h8 : x.extractLsb' 0 4 ≠ 8)
    (h5 : x.extractLsb' 0 4 = 5 → loops.length < 8) : Happens s (.nodeSuccessor task addr loops) .nodeSuccessor (fun t =>
      (∃ T', t.task task = some T' ∧ T'.nodes = T.nodes ++ [nodeRun addr loops x])
      ∧ ∃ at_, ⟨at_, startEvent (x.extractLsb' 0 4).toNat task addr loops 0⟩ ∈ t.agenda) := by
  intro he
  refine ⟨_, exec_nodeSuccessor h hs h0 hlt hal hlen hr he, ?_⟩
  rw [← hx]
  obtain ⟨hk1, hk8⟩ := nodeOk_kind hok
  have hok' : (u.forget (.nodeSuccessor task addr loops)).nodeOk T.part x = true := hok
  unfold nodeFound
  rw [hok']
  rw [dwBits_kind] at hk1 hk8 ⊢
  have hk : (x.extractLsb' 0 4).toNat ≠ 8 := fun hc => h8 (BitVec.eq_of_toNat_eq hc)
  rw [if_neg (fun hc => hc.elim (fun hc => Bool.false_ne_true hc) (fun hc => by
    have hl := h5 (BitVec.eq_of_toNat_eq hc.1)
    omega))]
  dsimp only
  rw [if_neg hk, startEvent_time hk1 hk8 hk]
  obtain ⟨at_, -, hmem⟩ := later_posted ((u.forget (.nodeSuccessor task addr loops)).modTask task
    (fun t => { t with nodes := t.nodes ++ [nodeRun addr loops x] })) (startEvent (x.extractLsb' 0 4).toNat task addr loops 0)
  exact ⟨⟨_, task_modTask ((task_gafRead hr task).trans h) _, rfl⟩, at_, hmem⟩

end


/-! ### COPY and INSTALL (R243, R246) -/

section
variable {s u : State} {task addr i : Nat} {loops : List LoopFrame} {T : Task} {n : NodeRun} {ev : Event} {bs : List Byte}

/-- The column and the command that dword 3 of a node names. -/
def nodeColumn (n : NodeRun) : Nat := dwBits n.words 3 5 0
def nodeCommand (n : NodeRun) : CmdKind := nodeKindOf n.kind.toNat (dwBits n.words 3 9 8)
def nodeScope (n : NodeRun) : Scope := if n.kind = 3 then Scope.device else Scope.ofCode (BitVec.ofNat 3 (dwBits n.words 3 14 12))

/-- The command of a node in its slot. -/
def nodeSlot (s : State) (task : Nat) (T : Task) (n : NodeRun) (c : Cmd) : Slot :=
  ⟨nodeCommand n, c, T.part, none, some (task, n.addr), (dw n.words 2).toNat, nodeScope n, s.cmdNum, false, 0, 0, none, 0, [], false, []⟩

/-- A node that has put its command into a slot. -/
def nodePut (s : State) (task : Nat) (T : Task) (n : NodeRun) (c : Cmd) (i : Nat) : State :=
  ({ s with cmdNum := s.cmdNum + 1 } : State).putCommand (nodeColumn n) i (nodeSlot s task T n c)

theorem engineNode_outside (hs : T.status = none) (hp : partOfQuad s.dev.mode (nodeColumn n / 16) ≠ T.part) :
    s.engineNode task T n ev = s.failNode task n nodeBad := by
  unfold State.engineNode
  dsimp only
  rw [if_neg (not_isSome hs)]
  exact if_pos hp

/-- Slots 8 to 31 of an engine are those of c1 to c3 and of nodes (R200). -/
theorem lowestNodeSlot {col : Nat} (h8 : 8 ≤ i) (h32 : i < 32) (hfree : (u.col col).slot i = none)
    (hl : ∀ j, 8 ≤ j → j < i → (u.col col).slot j ≠ none) : (Machine.slotsOf false).find? (fun i => ((u.col col).slot i).isNone) = some i := by
  show ((List.range 24).map (fun i => 8 + i)).find? _ = some i
  refine find?_range_offset h8 (by omega) (by rw [hfree]; rfl) (fun j hj hji => ?_)
  rw [Bool.eq_false_iff, ne_eq, Option.isNone_iff_eq_none]
  exact hl j hj hji

theorem engineNode_puts (hs : T.status = none) (hp : partOfQuad s.dev.mode (nodeColumn n / 16) = T.part)
    (hr : s.gafRead T.part (dw n.words 2).toNat 64 ev = (.ok bs, u)) (hill : cmdIll (nodeCommand n) (leNat bs) 0 = false)
    (hrva : (Cmd.ofNat (leNat bs)).rva = false) (hrange : ∃ r, cmdRange (nodeCommand n) (Cmd.ofNat (leNat bs)) 0 = .ok r)
    (h8 : 8 ≤ i) (h32 : i < 32) (hfree : (u.col (nodeColumn n)).slot i = none)
    (hl : ∀ j, 8 ≤ j → j < i → (u.col (nodeColumn n)).slot j ≠ none) :
    s.engineNode task T n ev = (nodePut (u.forget ev) task T n (Cmd.ofNat (leNat bs)) i).startedNode task n := by
  obtain ⟨r, hrange⟩ := hrange
  unfold nodeCommand at hill hrange
  unfold nodeColumn at hp hfree hl
  unfold State.engineNode
  dsimp only
  rw [if_neg (not_isSome hs), if_neg (not_not.2 hp), hr]
  dsimp only
  rw [hill, hrva, hrange]
  have hslot : (Machine.slotsOf false).find? (fun i => (((u.forget ev).col (dwBits n.words 3 5 0)).slot i).isNone) = some i :=
    lowestNodeSlot (u := u) h8 h32 hfree hl
  rw [hslot]
  rfl

/-- The command stands in its slot and is to start. -/
def NodeCommands (task : Nat) (T : Task) (n : NodeRun) (c : Cmd) (i : Nat) (t : State) : Prop :=
  (∃ sl, (t.col (nodeColumn n)).slot i = some sl ∧ sl.cmd = c ∧ sl.kind = nodeCommand n ∧ sl.part = T.part ∧ sl.node = some (task, n.addr)
    ∧ sl.owner = none ∧ sl.started = false) ∧ ∃ at_, ⟨at_, .engineCommandStart (nodeColumn n) i⟩ ∈ t.agenda

theorem nodeCommands_put (s : State) (task : Nat) (T : Task) (n : NodeRun) (c : Cmd) (i : Nat) :
    NodeCommands task T n c i ((nodePut s task T n c i).startedNode task n) := by
  obtain ⟨-, -, -, hagenda, hcols, -⟩ := putCommand_cases (i := i) { s with cmdNum := s.cmdNum + 1 } (nodeColumn n) (nodeSlot s task T n c)
  have hcol : ((nodePut s task T n c i).col (nodeColumn n)).slot i = some (nodeSlot s task T n c) := by
    unfold nodePut State.col
    rw [hcols]
    refine (congrArg (fun x : Column => x.slot i) (col_modCol _ _ _ _)).trans ?_
    rw [if_pos rfl]
    exact slot_replaced _ i _
  have hmem : (⟨s.now + 1, .engineCommandStart (nodeColumn n) i⟩ : Due) ∈ (nodePut s task T n c i).agenda := by
    unfold nodePut
    rw [hagenda]
    exact (mem_agendaInsert _ _ _).2 (.inl rfl)
  unfold NodeCommands State.startedNode
  split
  · exact ⟨⟨_, hcol, rfl, rfl, rfl, rfl, rfl, rfl⟩, _, mem_later hmem _⟩
  · exact ⟨⟨_, hcol, rfl, rfl, rfl, rfl, rfl, rfl⟩, _, hmem⟩

/-- The two kinds of nodes that start a command of an engine, with their steps. -/
def EngineStep (task addr : Nat) (loops : List LoopFrame) (ev : Event) (row : Instr) : Prop :=
  (ev = .nodeCopy task addr loops ∧ row = .nodeCopy) ∨ (ev = .nodeInstall task addr loops ∧ row = .nodeInstall)

theorem exec_engineStep {row : Instr} (hk : EngineStep task addr loops ev row) (h : Runs s task addr T n loops) (he : s.event = some ev) :
    exec row s = .next (s.engineNode task T n ev) := by
  obtain ⟨rfl, rfl⟩ | ⟨rfl, rfl⟩ := hk
  · exact exec_nodeCopy h he
  · exact exec_nodeInstall h he

theorem engineStep_outside {row : Instr} (hk : EngineStep task addr loops ev row) (h : Runs s task addr T n loops) (hs : T.status = none)
    (hp : partOfQuad s.dev.mode (nodeColumn n / 16) ≠ T.part) : Happens s ev row (NodeFails s task T n 0x0206) := by
  intro he
  refine ⟨_, exec_engineStep hk h he, ?_⟩
  rw [engineNode_outside hs hp]
  exact failNode_goes (Still.refl s) h.1 hs _

theorem engineStep_puts {row : Instr} (hk : EngineStep task addr loops ev row) (h : Runs s task addr T n loops) (hs : T.status = none)
    (hp : partOfQuad s.dev.mode (nodeColumn n / 16) = T.part)
    (hr : s.gafRead T.part (dw n.words 2).toNat 64 ev = (.ok bs, u)) (hill : cmdIll (nodeCommand n) (leNat bs) 0 = false)
    (hrva : (Cmd.ofNat (leNat bs)).rva = false) (hrange : ∃ r, cmdRange (nodeCommand n) (Cmd.ofNat (leNat bs)) 0 = .ok r)
    (h8 : 8 ≤ i) (h32 : i < 32) (hfree : (u.col (nodeColumn n)).slot i = none)
    (hl : ∀ j, 8 ≤ j → j < i → (u.col (nodeColumn n)).slot j ≠ none) :
    Happens s ev row (NodeCommands task T n (Cmd.ofNat (leNat bs)) i) := by
  intro he
  refine ⟨_, exec_engineStep hk h he, ?_⟩
  rw [engineNode_puts hs hp hr hill hrva hrange h8 h32 hfree hl]
  exact nodeCommands_put _ _ _ _ _ _

end

/-! ### TASK_STAMP_WRITE (R240, R242) -/

section
variable {s : State} {task : Nat} {T : Task}

/-- A task whose stamp is due: no node of it runs, and its chain is over or it has failed. -/
def StampDue (T : Task) : Prop := T.nodes = [] ∧ (T.ending = true ∨ T.status ≠ none)

theorem stampDue_guard (h : StampDue T) : ¬ (!T.nodes.isEmpty || !(T.ending || T.status.isSome)) = true := by
  obtain ⟨hn, he⟩ := h
  rw [hn]
  obtain he | he := he
  · rw [he]
    exact Bool.false_ne_true
  · rw [isSome_of_ne he, Bool.or_true]
    exact Bool.false_ne_true

theorem taskStamp_early (h : s.task task = some T) (hn : T.nodes ≠ [] ∨ (T.ending = false ∧ T.status = none)) :
    Happens s (.taskStampWrite task) .taskStampWrite (fun t => t = s) := by
  have hg : (!T.nodes.isEmpty || !(T.ending || T.status.isSome)) = true := by
    obtain hn | ⟨h1, h2⟩ := hn
    · rw [Bool.eq_false_iff.2 (fun h => hn (List.isEmpty_iff.1 h))]
      rfl
    · rw [h1, h2, Bool.or_comm]
      rfl
  intro he
  refine ⟨s, ?_, rfl⟩
  show execTaskStampWrite s = _
  unfold execTaskStampWrite
  rw [he]
  dsimp only
  rw [h]
  dsimp only
  rw [if_pos hg]

/-- A task whose stamp has been written is over, and the queues of its partition are looked at. -/
def taskOver (s : State) (task : Nat) (T : Task) : State :=
  ((s.forget (.taskStampWrite task)).setTask task none).post s.now (.taskStart T.part)

theorem exec_taskStamp_handed (h : s.task task = some T) (hd : StampDue T) (hst : T.stamped = true) (he : s.event = some (.taskStampWrite task)) :
    exec .taskStampWrite s = .next (if s.writing (.task task) then s.post (s.now + cyc (refCore T.stamp)) (.taskStampWrite task)
      else taskOver s task T) := by
  rw [← nbits_refCore]
  show execTaskStampWrite s = _
  unfold execTaskStampWrite
  rw [he]
  dsimp only
  rw [h]
  dsimp only
  rw [if_neg (stampDue_guard hd), if_pos hst]
  rfl

theorem taskStamp_waits (h : s.task task = some T) (hd : StampDue T) (hst : T.stamped = true) (hw : s.writing (.task task) = true) :
    Happens s (.taskStampWrite task) .taskStampWrite (fun t => t = s.post (s.now + cyc (refCore T.stamp)) (.taskStampWrite task)) :=
  fun he => ⟨_, exec_taskStamp_handed h hd hst he, if_pos hw⟩

theorem taskStamp_over (h : s.task task = some T) (hd : StampDue T) (hst : T.stamped = true) (hw : s.writing (.task task) = false) :
    Happens s (.taskStampWrite task) .taskStampWrite (fun t => t.task task = none ∧ ⟨s.now, .taskStart T.part⟩ ∈ t.agenda ∧ t.cores = s.cores) := by
  intro he
  refine ⟨_, exec_taskStamp_handed h hd hst he, ?_⟩
  rw [if_neg (ne_true_of_eq_false hw)]
  exact ⟨(task_setTask _ _ _ _).trans (if_pos rfl), mem_post _ _ _, rfl⟩

/-- The write of a stamp, on its way into its bank's next cycle. -/
def stampWrite (s : State) (task : Nat) (T : Task) : Pend := ⟨ceilTo (cyc (refCore T.stamp)) (s.now + 1), 4,
  .port ⟨0, refAt T.stamp, leBytes 8 (T.seq.toNat + (T.status.getD 0).toNat * 2 ^ 48), [], false, .task task⟩⟩

theorem taskStamp_hands (h : s.task task = some T) (hd : StampDue T) (hst : T.stamped = false) (hok : s.refOk T.part T.stamp = true)
    (hn : T.stamp.getLsbD 63 = true) : Happens s (.taskStampWrite task) .taskStampWrite (fun t => t.task task = some { T with stamped := true }
      ∧ stampWrite s task T ∈ (t.core (refCore T.stamp)).pend ∧ ⟨s.now + cyc (refCore T.stamp), .taskStampWrite task⟩ ∈ t.agenda) := by
  intro he
  refine ⟨((s.portStore (.task task) (refCore T.stamp) 0 (refAt T.stamp) (leBytes 8 (T.seq.toNat + (T.status.getD 0).toNat * 2 ^ 48)) []).modTask
    task (fun t => { t with stamped := true })).post (s.now + cyc (refCore T.stamp)) (.taskStampWrite task), ?_, ?_, ?_, mem_post _ _ _⟩
  · rw [← nbits_refCore, ← nbits_refAt]
    show execTaskStampWrite s = _
    unfold execTaskStampWrite
    rw [he]
    dsimp only
    rw [h]
    dsimp only
    rw [if_neg (stampDue_guard hd), if_neg (ne_true_of_eq_false hst), if_neg (by rw [hok]; exact Bool.false_ne_true)]
    unfold State.writeRef
    rw [if_pos hn]
    dsimp only
    rw [if_pos hn]
    rfl
  · exact task_modTask (s := s.portStore _ _ _ _ _ _) h _
  · show stampWrite s task T ∈ ((s.portStore _ _ _ _ _ _).core (refCore T.stamp)).pend
    unfold State.portStore
    rw [core_modCore_same]
    exact (mem_pendInsert _ _ _).2 (.inl rfl)

end

end Sys2Proof.Proofs
end

section
/-! PROOFS. The queues of a partition, whose heads become tasks (R238 to R241). -/

namespace Sys2Proof.Proofs

open Sys2Proof.Machine Sys2Proof.Safety Sys2Proof.Laws

section
variable {s u : State} {part i m : Nat} {h : QueueHead} {ev : Event} {bs : List Byte}

/-- A queue with an entry to start. -/
def Pending (s : State) (part j : Nat) : Prop :=
  (sget .reset (s.part part).queues j).en = true ∧ (sget .reset (s.part part).queues j).qstop = false
    ∧ (sget .reset (s.part part).queues j).tail.toNat % 2 ^ (sget .reset (s.part part).queues j).log2n.toNat
      ≠ (sget .reset (s.part part).queues j).head.toNat % 2 ^ (sget .reset (s.part part).queues j).log2n.toNat

theorem pending_iff (s : State) (part j : Nat) : ((s.part part).queue j).pending = true ↔ Pending s part j := by
  show (sget Queue.reset (s.part part).queues j).pending = true ↔ _
  unfold Queue.pending Pending Queue.size
  rw [Bool.and_eq_true, Bool.and_eq_true, decide_eq_true_eq, Bool.not_eq_true', and_assoc]

theorem filter_range_none {p : Nat → Bool} {n : Nat} (hp : ∀ j, j < n → p j = false) : (List.range n).filter p = [] :=
  List.filter_eq_nil_iff.2 (fun j hj => ne_true_of_eq_false (hp j (List.mem_range.1 hj)))

theorem filter_range_one {p : Nat → Bool} {n : Nat} (hi : i < n) (hp : p i = true) (hother : ∀ j, j < n → j ≠ i → p j = false) :
    (List.range n).filter p = [i] := by
  have hc : (List.range n).filter p = (List.range n).filter (· == i) := by
    refine List.filter_congr (fun j hj => ?_)
    by_cases hj' : j = i
    · rw [hj', hp, beq_self_eq_true]
    · rw [hother j (List.mem_range.1 hj) hj', beq_eq_false_iff_ne.2 hj']
  rw [hc, List.filter_beq, List.count_eq_one_of_mem List.nodup_range (List.mem_range.2 hi)]
  rfl

theorem heads_none (hp : ∀ j, j < 64 → ¬ Pending s part j) : s.heads part ev = ([], false, s) := by
  unfold State.heads
  rw [filter_range_none (fun j hj => Bool.eq_false_iff.2 (fun hq => hp j hj ((pending_iff s part j).1 hq)))]
  rfl

theorem heads_one (hi : i < 64) (hp : Pending s part i) (hother : ∀ j, j < 64 → j ≠ i → ¬ Pending s part j)
    (hr : s.readHead part ev i = (some h, s)) : s.heads part ev = ([h], false, s) := by
  unfold State.heads
  rw [filter_range_one hi ((pending_iff s part i).2 hp)
    (fun j hj hne => Bool.eq_false_iff.2 (fun hq => hother j hj hne ((pending_iff s part j).1 hq))), List.foldl_cons, hr]
  rfl

/-- What a look at a queue's head gives is that queue's. -/
theorem readHead_queue {t : State} (hr : s.readHead part ev i = (some h, t)) : h.index = i ∧ h.queue = sget .reset (s.part part).queues i := by
  unfold State.readHead at hr
  dsimp only at hr
  obtain ⟨see, hsee⟩ : ∃ f : State → Nat → Nat → Nat → Event → FarRes (Option Nat) × State, State.see = f := ⟨_, rfl⟩
  rw [hsee] at hr
  repeat' split at hr
  all_goals cases hr
  all_goals exact ⟨rfl, rfl⟩

theorem resumptions_none (hk : s.gaf.kernels = []) (heads : List QueueHead) : s.resumptions part heads = s := by
  unfold State.resumptions
  rw [hk]
  rfl

theorem preemptions_none (hk : s.gaf.kernels = []) (heads : List QueueHead) : s.preemptions part heads = s := by
  unfold State.preemptions
  have hkeep : ∀ l : List QueueHead, ∀ f : State → QueueHead → State, (∀ h, f s h = s) → l.foldl f s = s := by
    intro l f hf
    induction l with
    | nil => rfl
    | cons h l ih => rw [List.foldl_cons, hf, ih]
  refine hkeep heads _ (fun h => ?_)
  split
  · rfl
  · split
    · rfl
    · split
      · rfl
      · rw [hk]
        rfl

/-- Whether a head is ready: its BAR holds, and its first node's resources are free. -/
def headReady (s : State) (part : Nat) (h : QueueHead) : Bool :=
  match h.entry with
  | some e => s.barOk part h.index e && (!s.entryOk part e || s.headFree part h)
  | none => true

/-- A head that waits for the slot of an engine. -/
def headWaits (s : State) (part : Nat) (h : QueueHead) : Bool :=
  match h.entry with
  | some e => s.barOk part h.index e && !s.headFree part h && h.launch.isNone
  | none => false

/-- What the gaffer does with the head it has chosen. -/
def headRead (part : Nat) (ev : Event) (h : QueueHead) : FarRes (List Byte) × State → State
  | (.wait, s) => s
  | (.fault _, s) => (((s.forget ev).spend ev h).startTask part h.index h.queue none).later ev
  | (.ok bs, s) =>
    let s := (s.forget ev).spend ev h
    (if s.barOk part h.index (leNat bs) then s.startTask part h.index h.queue (some (leNat bs)) else s).later ev

/-- What the gaffer does with the heads it knows. -/
def headChosen (s : State) (part : Nat) (ev : Event) (heads : List QueueHead) : Option QueueHead → State
  | none => if heads.any (headWaits (s.forget ev) part) then (s.forget ev).post (s.now + beatTicks) ev else s.forget ev
  | some h => headRead part ev h (s.gafRead part h.queue.headAddr 64 ev)

theorem exec_taskStart_known {heads : List QueueHead} (hk : s.gaf.kernels = []) (hh : s.heads part (.taskStart part) = (heads, false, s))
    (he : s.event = some (.taskStart part)) : exec .taskStart s
    = .next (headChosen s part (.taskStart part) heads ((s.chooseQueue part ((heads.filter (headReady s part)).map (fun h => (h.index, h.queue)))).bind
        (fun c => (heads.filter (headReady s part)).find? (fun h => h.index == c.1)))) := by
  show execTaskStart s = _
  unfold execTaskStart
  rw [he]
  dsimp only
  rw [hh]
  dsimp only
  rw [resumptions_none hk, preemptions_none hk]
  rfl

theorem taskStart_idle (hk : s.gaf.kernels = []) (hp : ∀ j, j < 64 → ¬ Pending s part j) :
    Happens s (.taskStart part) .taskStart (fun t => t = s.forget (.taskStart part)) :=
  fun he => ⟨_, exec_taskStart_known hk (heads_none hp) he, rfl⟩

theorem bit_eq (x i : Nat) : (nbits x i i == 1) = x.testBit i := by
  unfold nbits
  rw [Nat.testBit_eq_decide_div_mod_eq, Nat.add_sub_cancel_left]
  rfl

theorem bit_clear (x i : Nat) : (nbits x i i == 0) = !x.testBit i := by
  rw [← bit_eq]
  unfold nbits
  rw [Nat.add_sub_cancel_left]
  rcases Nat.mod_two_eq_zero_or_one (x / 2 ^ i) with h | h <;> rw [Nat.pow_one, h] <;> rfl

/-- A head with BAR does not start while a task of its queue runs (R240). -/
theorem taskStart_barred (hk : s.gaf.kernels = []) (hi : i < 64) (hp : Pending s part i) (hother : ∀ j, j < 64 → j ≠ i → ¬ Pending s part j)
    (hr : s.readHead part (.taskStart part) i = (some h, s)) (hm : h.entry = some m) (hbar : m.testBit 192 = true) (hb : s.queueBusy part i = true) :
    Happens s (.taskStart part) .taskStart (fun t => t = s.forget (.taskStart part)) := by
  intro he
  refine ⟨_, exec_taskStart_known hk (heads_one hi hp hother hr) he, ?_⟩
  have hno : s.barOk part h.index m = false := by
    unfold State.barOk
    rw [(readHead_queue hr).1, bit_clear, hbar, hb]
    rfl
  have hready : headReady s part h = false := by
    unfold headReady
    rw [hm]
    show (s.barOk part h.index m && _) = false
    rw [hno]
    rfl
  have hwaits : headWaits (s.forget (.taskStart part)) part h = false := by
    unfold headWaits
    rw [hm]
    show (s.barOk part h.index m && _ && _) = false
    rw [hno]
    rfl
  rw [List.filter_cons_of_neg (ne_true_of_eq_false hready)]
  show (if (headWaits (s.forget (.taskStart part)) part h || false) = true then _ else _) = _
  rw [hwaits]
  rfl

/-- A queue alone is the one served. -/
theorem chooseQueue_one (s : State) (part i : Nat) (q : Queue) : s.chooseQueue part [(i, q)] = some (i, q) := by
  unfold State.chooseQueue
  dsimp only [List.foldl_cons, List.foldl_nil]
  have hone : [(i, q)].filter (fun e => s.effPrio e.2 == s.effPrio q) = [(i, q)] := by simp
  rw [Nat.zero_max, hone, List.find?_cons]
  dsimp only [List.head?_cons]
  cases decide (sget 0 (s.part part).lastAt (s.effPrio q) ≤ i) <;> rfl

theorem entryOk_congr {t : State} (h : t.dev.mode = s.dev.mode) (part e : Nat) : t.entryOk part e = s.entryOk part e := by
  unfold State.entryOk State.refOk State.partOf
  rw [h]

/-- The task that an entry of a queue becomes. -/
def newTask (part i pos e : Nat) : Task :=
  ⟨part, i, pos, BitVec.ofNat 64 (e / 2 ^ 64), BitVec.ofNat 48 (e / 2 ^ 128), e.testBit 193, none, [], false, false⟩

/-- HEAD goes on, the task stands, and its first node is read. -/
structure TaskStarts (s : State) (part i : Nat) (q : Queue) (e : Nat) (t : State) : Prop where
  head   : ((t.part part).queue i).head = BitVec.ofNat 16 ((q.head.toNat + 1) % 2 ^ q.log2n.toNat)
  task   : t.task s.gaf.nextId = some (newTask part i (q.head.toNat % 2 ^ q.log2n.toNat) e)
  follow : ∃ at_, ⟨at_, .nodeSuccessor s.gaf.nextId (e % 2 ^ 64) []⟩ ∈ t.agenda

/-- A queue's head gone on, with the task of its entry. -/
def queueServed (s : State) (part i : Nat) (q : Queue) : State := s.modPart part (fun p => { p with
  queues := sset .reset p.queues i { q with head := BitVec.ofNat 16 ((q.head.toNat + 1) % q.size), headAt := s.time }
  lastAt := sset 0 p.lastAt (s.effPrio q) ((i + 1) % 64) })

theorem taskStarts_startTask (q : Queue) (hok : s.entryOk part m = true) : TaskStarts s part i q m (s.startTask part i q (some m)) := by
  have hgood : ∀ g : Gaffer, (({ queueServed s part i q with gaf := g } : State).entryOk part m) = true := fun g => (entryOk_congr rfl part m).trans hok
  have hstart : s.startTask part i q (some m)
      = (({ queueServed s part i q with gaf := { s.gaf with nextId := s.gaf.nextId + 1 } } : State).setTask s.gaf.nextId
          (some ⟨part, i, q.head.toNat % q.size, BitVec.ofNat 64 (nbits m 127 64), BitVec.ofNat 48 (nbits m 175 128), nbits m 193 193 == 1,
            none, [], false, false⟩)).later (.nodeSuccessor s.gaf.nextId (nbits m 63 0) []) := by
    show (if ({ queueServed s part i q with gaf := { s.gaf with nextId := s.gaf.nextId + 1 } } : State).entryOk part m = true then _ else _) = _
    rw [if_pos (hgood _)]
    show State.later (State.setTask _ _ (some ⟨part, i, _, _, _, _,
      if ({ queueServed s part i q with gaf := { s.gaf with nextId := s.gaf.nextId + 1 } } : State).entryOk part m = true then none else some nodeBad,
      [], !({ queueServed s part i q with gaf := { s.gaf with nextId := s.gaf.nextId + 1 } } : State).entryOk part m, false⟩)) _ = _
    rw [hgood]
    rfl
  rw [hstart]
  obtain ⟨at_, -, hmem⟩ := later_posted (({ queueServed s part i q with gaf := { s.gaf with nextId := s.gaf.nextId + 1 } } : State).setTask s.gaf.nextId
          (some ⟨part, i, q.head.toNat % q.size, BitVec.ofNat 64 (nbits m 127 64), BitVec.ofNat 48 (nbits m 175 128), nbits m 193 193 == 1,
            none, [], false, false⟩)) (.nodeSuccessor s.gaf.nextId (nbits m 63 0) [])
  refine ⟨?_, ?_, at_, ?_⟩
  · show (((queueServed s part i q).part part).queue i).head = _
    unfold queueServed Part.queue
    rw [part_modPart, if_pos rfl]
    exact congrArg Queue.head (sget_sset_same Queue.reset _ i _)
  · refine ((task_setTask _ _ _ _).trans (if_pos rfl)).trans ?_
    unfold newTask
    rw [bit_eq]
    have h64 : BitVec.ofNat 64 (nbits m 127 64) = BitVec.ofNat 64 (m / 2 ^ 64) := by
      apply BitVec.eq_of_toNat_eq
      rw [BitVec.toNat_ofNat, BitVec.toNat_ofNat]
      exact Nat.mod_mod _ _
    have h48 : BitVec.ofNat 48 (nbits m 175 128) = BitVec.ofNat 48 (m / 2 ^ 128) := by
      apply BitVec.eq_of_toNat_eq
      rw [BitVec.toNat_ofNat, BitVec.toNat_ofNat]
      exact Nat.mod_mod _ _
    rw [h64, h48]
    rfl
  · rw [nbits_low] at hmem ⊢
    exact hmem

theorem TaskStarts.of_same {t : State} {q : Queue} (h : TaskStarts u part i q m t) (hg : u.gaf = s.gaf) (ev : Event) :
    TaskStarts s part i q m (t.later ev) := by
  obtain ⟨h1, h2, at_, h3⟩ := h
  rw [hg] at h2 h3
  exact ⟨h1, h2, at_, mem_later h3 ev⟩

/-- The head of the one queue with an entry starts. -/
theorem taskStart_starts (hk : s.gaf.kernels = []) (hi : i < 64) (hp : Pending s part i) (hother : ∀ j, j < 64 → j ≠ i → ¬ Pending s part j)
    (hr : s.readHead part (.taskStart part) i = (some h, s)) (hm : h.entry = some m) (hbar : m.testBit 192 = false)
    (hok : s.entryOk part m = true) (hfree : s.headFree part h = true)
    (hread : s.gafRead part (sget .reset (s.part part).queues i).headAddr 64 (.taskStart part) = (.ok bs, u)) (hbs : leNat bs = m) :
    Happens s (.taskStart part) .taskStart (TaskStarts u part i (sget .reset (s.part part).queues i) m) := by
  intro he
  refine ⟨_, exec_taskStart_known hk (heads_one hi hp hother hr) he, ?_⟩
  obtain ⟨hindex, hqueue⟩ := readHead_queue hr
  have hbarOk : ∀ t : State, ∀ j, t.barOk part j m = true := fun t j => by
    unfold State.barOk
    rw [bit_clear, hbar]
    rfl
  have hready : headReady s part h = true := by
    unfold headReady
    rw [hm]
    show (s.barOk part h.index m && (!s.entryOk part m || s.headFree part h)) = true
    rw [hbarOk, hok, hfree]
    rfl
  have hfind : [h].find? (fun x => x.index == h.index) = some h := by simp
  rw [List.filter_cons_of_pos hready, List.filter_nil, List.map_cons, List.map_nil, chooseQueue_one, Option.bind_some, hfind]
  show TaskStarts u part i _ m (headRead part _ h (s.gafRead part h.queue.headAddr 64 _))
  rw [hqueue, hread]
  unfold headRead
  dsimp only
  rw [hbs, hbarOk, if_pos rfl, hindex, hqueue]
  have hmode : ((u.forget (.taskStart part)).spend (.taskStart part) h).dev.mode = s.dev.mode := (congrArg (fun x : State => x.dev.mode) (outward_gafRead hread) :)
  exact TaskStarts.of_same (s := u) (taskStarts_startTask _ ((entryOk_congr hmode part m).trans hok)) rfl _

end

end Sys2Proof.Proofs
end

section
/-! PROOFS. Kernels: launched, found complete, saved (R245 to R248, R306). -/

namespace Sys2Proof.Proofs

open Sys2Proof.Machine Sys2Proof.Safety Sys2Proof.Laws

/-! ### What a launch leaves of the gaffer (R306) -/

section
variable {s : State}

theorem gaf_foldl {α : Type} (f : State → α → State) (hf : ∀ s a, (f s a).gaf = s.gaf) (l : List α) (s : State) : (l.foldl f s).gaf = s.gaf :=
  foldl_view State.gaf f hf l s

theorem gaf_resetContext (s : State) (q : Nat × Nat) : (s.resetContext q).gaf = s.gaf :=
  (modCore_gaf _ _ _).trans ((modCtx_gaf _ _ _).trans (gaf_dropReplies s _))

theorem gaf_loadContext (s : State) (kid : Nat) (q : Nat × Nat) (entry : Word) : (s.loadContext kid q entry).gaf = s.gaf := by
  have hif : ∀ (b : Bool) (t u : State), u.gaf = t.gaf → (if b = true then u else t).gaf = t.gaf := by
    intro b t u h
    cases b
    · rfl
    · exact h
  unfold State.loadContext
  dsimp only
  refine (hif _ _ _ ?_).trans ?_
  · rfl
  · exact (modCtx_gaf _ _ _).trans (gaf_resetContext s q)

theorem gaf_clearCore (s : State) (kid k : Nat) : (s.clearCore kid k).gaf = s.gaf := by
  have hreset : ([0, 1, 2, 3].foldl (fun (s : State) i => s.resetContext (k, i)) s).gaf = s.gaf :=
    gaf_foldl _ (fun s i => gaf_resetContext s (k, i)) _ s
  unfold State.clearCore
  generalize [0, 1, 2, 3].foldl (fun (s : State) i => s.resetContext (k, i)) s = t at hreset
  exact hreset

theorem gaf_putStream (s : State) (kn : Kernel) (l : Load) (k : Nat) : (s.putStream kn l k).gaf = s.gaf := by
  unfold State.putStream
  split
  · split <;> rfl
  · rfl

theorem gaf_bootStep (kn : Kernel) (a : State × List (Nat × Nat)) (b : BootStep) : (State.bootStep kn a b).1.gaf = a.1.gaf := by
  unfold State.bootStep
  dsimp only
  split
  · rfl
  · exact gaf_foldl _ (fun s k => gaf_putStream s kn _ k) _ a.1

theorem gaf_loadCode (s : State) (kn : Kernel) : (s.loadCode kn).gaf = s.gaf :=
  foldl_view (fun a : State × List (Nat × Nat) => a.1.gaf) (State.bootStep kn) (gaf_bootStep kn) kn.image.boot (s, [])

theorem gaf_loadRole (s : State) (kid : Nat) (kn : Kernel) (l : Load) : (s.loadRole kid kn l).gaf = s.gaf :=
  gaf_foldl _ (fun s k => (gaf_loadContext _ kid (k, l.ctx) l.entry).trans (modCore_gaf s k _)) _ s

theorem gaf_installBinds (s : State) (kn : Kernel) (binds : List (Binding × Nat)) : (s.installBinds kn binds).gaf = s.gaf :=
  gaf_foldl _ (fun s _ => gaf_foldl _ (fun s _ => modCtx_gaf s _ _) _ s) _ s

/-- A kernel but for the places of its team points. -/
def pointless (kn : Kernel) : Kernel := { kn with points := [] }

/-- What the gaffer holds of a kernel but for the places of its team points. -/
def kernelView (kid : Nat) (s : State) : Option Kernel := (s.kernel kid).map pointless

theorem kernelView_of_gaf {t : State} (h : t.gaf = s.gaf) (kid : Nat) : kernelView kid t = kernelView kid s := by
  unfold kernelView State.kernel
  rw [h]

theorem kernelView_addPoint (s : State) (kid j : Nat) (b : PointBack) :
    kernelView kid (s.modKernel j (fun k => { k with points := k.points ++ [b] })) = kernelView kid s := by
  unfold kernelView State.modKernel
  rw [kernel_setKernel]
  by_cases h : j = kid
  · rw [if_pos h, h, Option.map_map]
    rfl
  · rw [if_neg h]

theorem kernelView_backPoint (s : State) (kid j : Nat) (kn : Kernel) (level point team : Nat) (members : List (Nat × Nat)) :
    kernelView kid (s.backPoint j kn level point team members) = kernelView kid s := by
  unfold State.backPoint
  dsimp only
  split
  · exact (kernelView_addPoint _ kid j _).trans (kernelView_of_gaf (gaf_foldl _ (fun s l => modLine_gaf s l _) _ s) kid)
  · exact kernelView_addPoint s kid j _

theorem kernelView_backPoints (s : State) (kid j : Nat) (kn : Kernel) : kernelView kid (s.backPoints j kn) = kernelView kid s := by
  refine foldl_view (kernelView kid) _ (fun s lv => foldl_view (kernelView kid) _ (fun s p => ?_) _ s) _ s
  split
  · exact foldl_view (kernelView kid) _ (fun s t => kernelView_backPoint s kid j kn lv p t _) _ s
  · rfl

/-- The kernel stands as it was described, but for the places of its team points. -/
theorem kernelView_launch (s : State) (kn : Kernel) (binds : List (Binding × Nat)) (scheds : List (Nat × List (Nat × Cmd × Nat × Scope))) :
    kernelView s.gaf.nextId (s.launch kn binds scheds).2 = some (pointless kn) := by
  unfold State.launch
  dsimp only
  have hlast : ∀ t : State, kernelView s.gaf.nextId (if kn.image.steps.isEmpty = true then t.post t.now (.kernelComplete s.gaf.nextId)
      else t.post t.beatTick (.releaseNotice s.gaf.nextId)) = kernelView s.gaf.nextId t := by
    intro t
    split <;> rfl
  refine (hlast _).trans ?_
  refine (kernelView_of_gaf (modPart_gaf _ _ _) _).trans ?_
  refine (kernelView_backPoints _ _ _ _).trans ?_
  refine (kernelView_of_gaf (gaf_foldl _ (fun s c => post_gaf s _ _) _ _) _).trans ?_
  refine (kernelView_of_gaf (gaf_foldl _ (fun s c => modCol_gaf s _ _) _ _) _).trans ?_
  refine (kernelView_of_gaf (gaf_installBinds _ _ _) _).trans ?_
  refine (kernelView_of_gaf (gaf_foldl _ (fun s l => gaf_loadRole s _ _ l) _ _) _).trans ?_
  refine (kernelView_of_gaf (gaf_loadCode _ _) _).trans ?_
  refine (kernelView_of_gaf (gaf_foldl _ (fun s k => gaf_clearCore s _ k) _ _) _).trans ?_
  unfold kernelView
  rw [kernel_setKernel, if_pos rfl]
  rfl

end

/-! ### NODE_KERNEL (R246, R247) -/

section
variable {s u v w : State} {task addr a : Nat} {loops : List LoopFrame} {T : Task} {n : NodeRun} {bs : List Byte} {im : Image}

/-- The bindings of a record break a rule of its image. -/
def bindsBad (binds : List (Binding × Nat)) (l : Launch) : Option Image → Bool
  | some im => !bindsOk binds im l.cols l.tiers
  | none => false

/-- A launch whose checks have given a code. -/
def kernelCoded (s : State) (task : Nat) (T : Task) (n : NodeRun) (l : Launch) (binds : List (Binding × Nat))
    (scheds : List (Nat × List (Nat × Cmd × Nat × Scope))) (ev : Event) (im : Option Image) (code : BitVec 16) : State :=
  match code, im with
  | 0, some im =>
    if (s.holder T.part l.cols l.tiers).isSome then s.post (s.now + beatTicks) ev
    else
      let prio := (sget .reset (s.part T.part).queues T.queue).prio.toNat
      ((s.forget ev).launch (s.newKernel task T n l im prio) binds scheds).2.startedNode task n
  | c, _ => (s.forget ev).failNode task n c

/-- A launch whose record has been read and whose parts are known. -/
def kernelChecked (s : State) (task : Nat) (T : Task) (n : NodeRun) (l : Launch) (binds : List (Binding × Nat))
    (scheds : List (Nat × List (Nat × Cmd × Nat × Scope))) (ev : Event) (im : Option Image) : State :=
  kernelCoded s task T n l binds scheds ev im (if bindsBad binds l im then nodeBad else s.launchCheck T.part l im)

/-- What the image at a launch's address gives. -/
def kernelImaged (task : Nat) (T : Task) (n : NodeRun) (l : Launch) (binds : List (Binding × Nat))
    (scheds : List (Nat × List (Nat × Cmd × Nat × Scope))) (ev : Event) : FarRes (Option Image) × State → State
  | (.wait, s) => s
  | (.fault _, s) => (s.forget ev).failNode task n nodeFault
  | (.ok im, s) => kernelChecked s task T n l binds scheds ev im

/-- What the translation of a launch's image gives. -/
def kernelPlaced (task : Nat) (T : Task) (n : NodeRun) (l : Launch) (binds : List (Binding × Nat))
    (scheds : List (Nat × List (Nat × Cmd × Nat × Scope))) (ev : Event) : Except (BitVec 8) Nat × State → State
  | (.error _, s) => (s.forget ev).failNode task n nodeFault
  | (.ok pa, s) => kernelImaged task T { n with word := some pa } l binds scheds ev
    ((s.setWord task n (some pa)).imageAt T.part ((s.setWord task n (some pa)).homeCol T.part) l.image pa ev)

/-- The place of a launch's image, which the node keeps once it is known (R185). -/
def kernelPlace (s : State) (T : Task) (n : NodeRun) (l : Launch) : Except (BitVec 8) Nat × State :=
  match n.word with
  | some pa => (.ok pa, s)
  | none => s.translate T.part (s.homeCol T.part) l.image false

/-- A record without bindings and schedules has no parts to be read. -/
theorem launchParts_bare {l : Launch} (ev : Event) (part : Nat) (hb : l.binds = 0) (hs : l.sched = 0) :
    s.launchParts part l ev = (.ok (some ([], [])), s) := by
  unfold State.launchParts
  dsimp only
  rw [hb, hs, if_pos rfl]
  dsimp only
  rw [if_neg (by decide), if_pos rfl]

theorem exec_nodeKernel_bare (h : Runs s task addr T n loops) (hs : T.status = none)
    (hr : s.gafRead T.part (dw n.words 2).toNat 256 (.nodeKernel task addr loops) = (.ok bs, u)) (hbad : launchBad (leNat bs) = false)
    (hb : (Launch.ofNat (leNat bs)).binds = 0) (hsc : (Launch.ofNat (leNat bs)).sched = 0) (he : s.event = some (.nodeKernel task addr loops)) :
    exec .nodeKernel s = .next (kernelPlaced task T n (Launch.ofNat (leNat bs)) [] [] (.nodeKernel task addr loops)
      (kernelPlace u T n (Launch.ofNat (leNat bs)))) := by
  show execNodeKernel s = _
  unfold execNodeKernel
  rw [he]
  dsimp only
  rw [h.atNode, if_neg (not_isSome hs), hr]
  dsimp only
  rw [if_neg (ne_true_of_eq_false hbad), launchParts_bare _ _ hb hsc]
  unfold kernelPlace
  generalize n.word = o
  generalize Launch.ofNat (leNat bs) = l
  cases o with
  | some pa =>
    dsimp only [kernelPlaced]
    generalize (u.setWord task n (some pa)).imageAt T.part ((u.setWord task n (some pa)).homeCol T.part) l.image pa (.nodeKernel task addr loops) = r
    obtain ⟨r, t⟩ := r
    cases r <;> rfl
  | none =>
    dsimp only
    generalize u.translate T.part (u.homeCol T.part) l.image false = r
    obtain ⟨r, t⟩ := r
    cases r with
    | error e => rfl
    | ok pa =>
      dsimp only [kernelPlaced]
      generalize (t.setWord task n (some pa)).imageAt T.part ((t.setWord task n (some pa)).homeCol T.part) l.image pa (.nodeKernel task addr loops) = r
      obtain ⟨r, t⟩ := r
      cases r <;> rfl

/-- A launch without bindings, whose image is known. -/
structure BareLaunch (s : State) (task addr : Nat) (loops : List LoopFrame) (T : Task) (n : NodeRun) (bs : List Byte) (a : Nat) (im : Image)
    (u v w : State) : Prop where
  runs   : Runs s task addr T n loops
  status : T.status = none
  read   : s.gafRead T.part (dw n.words 2).toNat 256 (.nodeKernel task addr loops) = (.ok bs, u)
  good   : launchBad (leNat bs) = false
  binds  : (Launch.ofNat (leNat bs)).binds = 0
  sched  : (Launch.ofNat (leNat bs)).sched = 0
  place  : (n.word = some a ∧ v = u)
    ∨ (n.word = none ∧ u.translate T.part (u.homeCol T.part) (Launch.ofNat (leNat bs)).image false = (.ok a, v))
  image  : (v.setWord task n (some a)).imageAt T.part (v.homeCol T.part) (Launch.ofNat (leNat bs)).image a (.nodeKernel task addr loops)
    = (.ok (some im), w)
  kept   : w.task task = some (keptWord T n a)

theorem BareLaunch.exec (h : BareLaunch s task addr loops T n bs a im u v w) (he : s.event = some (.nodeKernel task addr loops)) :
    exec .nodeKernel s
    = .next (kernelChecked w task T { n with word := some a } (Launch.ofNat (leNat bs)) [] [] (.nodeKernel task addr loops) (some im)) := by
  have hplace : kernelPlace u T n (Launch.ofNat (leNat bs)) = (.ok a, v) := by
    unfold kernelPlace
    obtain ⟨hw, rfl⟩ | ⟨hw, ht⟩ := h.place
    · rw [hw]
    · rw [hw]
      exact ht
  rw [exec_nodeKernel_bare h.runs h.status h.read h.good h.binds h.sched he, hplace]
  unfold kernelPlaced
  dsimp only
  rw [show (v.setWord task n (some a)).homeCol T.part = v.homeCol T.part from rfl, h.image]
  rfl

theorem bindsOk_nil (im : Image) (cols : BitVec 64) (tiers : BitVec 4) : bindsOk [] im cols tiers = true := by
  unfold bindsOk
  rw [Bool.and_eq_true]
  refine ⟨rfl, List.all_eq_true.2 (fun c _ => ?_)⟩
  rw [Bool.or_eq_true]
  refine .inr (List.all_eq_true.2 (fun t _ => ?_))
  rw [Bool.or_eq_true]
  exact .inr rfl

theorem kernelChecked_bare {l : Launch} {ev : Event} : kernelChecked s task T n l [] [] ev (some im)
    = kernelCoded s task T n l [] [] ev (some im) (s.launchCheck T.part l (some im)) := by
  unfold kernelChecked bindsBad
  dsimp only
  rw [if_neg (by rw [bindsOk_nil]; exact Bool.false_ne_true)]

theorem kernelCoded_fails {l : Launch} {ev : Event} {c : BitVec 16} (hc : c ≠ 0) :
    kernelCoded s task T n l [] [] ev (some im) c = (s.forget ev).failNode task n c := by
  unfold kernelCoded
  split
  · exact absurd rfl hc
  · rfl

theorem kernelCoded_starts {l : Launch} {ev : Event} (hh : s.holder T.part l.cols l.tiers = none) :
    kernelCoded s task T n l [] [] ev (some im) 0 = ((s.forget ev).launch
      (s.newKernel task T n l im (sget Queue.reset (s.part T.part).queues T.queue).prio.toNat) [] []).2.startedNode task n := by
  unfold kernelCoded
  dsimp only
  rw [hh]
  exact if_neg Bool.false_ne_true

/-- A launch that is refused ends its node with the code of the refusal. -/
theorem nodeKernel_refused (h : BareLaunch s task addr loops T n bs a im u v w)
    (hc : w.launchCheck T.part (Launch.ofNat (leNat bs)) (some im) ≠ 0) :
    Happens s (.nodeKernel task addr loops) .nodeKernel (fun t => t.task task = some (failed (without (keptWord T n a) { n with word := some a })
        (chainLoops n) (w.launchCheck T.part (Launch.ofNat (leNat bs)) (some im)))
      ∧ ∃ at_, ⟨at_, .taskStampWrite task⟩ ∈ t.agenda) := by
  intro he
  refine ⟨_, h.exec he, ?_⟩
  rw [kernelChecked_bare, kernelCoded_fails hc]
  obtain ⟨hT, ⟨at_, -, hmem⟩, -⟩ := failNode_goes (n := { n with word := some a }) (still_forget w (.nodeKernel task addr loops)) h.kept h.status
    (w.launchCheck T.part (Launch.ofNat (leNat bs)) (some im))
  exact ⟨hT, at_, hmem⟩

/-- The kernel that a record describes stands, at its first superstep. -/
def KernelStarts (id task : Nat) (T : Task) (n : NodeRun) (l : Launch) (im : Image) (t : State) : Prop :=
  ∃ k, t.kernel id = some k ∧ k.task = task ∧ k.node = n.addr ∧ k.part = T.part ∧ k.cols = l.cols ∧ k.tiers = l.tiers ∧ k.image = im
    ∧ k.step = 0 ∧ k.fatal = false

theorem kernelStarts_of_view {t : State} {id prio : Nat} {l : Launch} (h : kernelView id t = some (pointless (s.newKernel task T n l im prio))) :
    KernelStarts id task T n l im t := by
  unfold kernelView at h
  obtain ⟨k, hk, hp⟩ := Option.map_eq_some_iff.1 h
  exact ⟨k, hk, (congrArg Kernel.task hp :), (congrArg Kernel.node hp :), (congrArg Kernel.part hp :), (congrArg Kernel.cols hp :),
    (congrArg Kernel.tiers hp :), (congrArg Kernel.image hp :), (congrArg Kernel.step hp :), (congrArg Kernel.fatal hp :)⟩

theorem gaf_startedNode (s : State) (task : Nat) (n : NodeRun) : (s.startedNode task n).gaf = s.gaf := by
  unfold State.startedNode
  split <;> rfl

theorem nodeKernel_starts (h : BareLaunch s task addr loops T n bs a im u v w)
    (hc : w.launchCheck T.part (Launch.ofNat (leNat bs)) (some im) = 0)
    (hh : w.holder T.part (Launch.ofNat (leNat bs)).cols (Launch.ofNat (leNat bs)).tiers = none) :
    Happens s (.nodeKernel task addr loops) .nodeKernel (KernelStarts w.gaf.nextId task T n (Launch.ofNat (leNat bs)) im) := by
  intro he
  refine ⟨_, h.exec he, ?_⟩
  rw [kernelChecked_bare, hc, kernelCoded_starts hh]
  exact kernelStarts_of_view (n := n) ((kernelView_of_gaf (gaf_startedNode _ task _) _).trans
    (kernelView_launch (w.forget (.nodeKernel task addr loops)) _ [] []))

end

/-! ### KERNEL_COMPLETE (R245, R248, R307) -/

section
variable {s : State} {kid : Nat} {kn : Kernel} {T : Task} {n : NodeRun}

/-- A context that goes on changes its core alone. -/
theorem gaf_finishAt (s : State) (q : Nat × Nat) (acts : List Act) (t : Nat) : (s.finishAt q acts t).gaf = s.gaf := by
  have hadv : ∀ (u : State) (len : Nat), (u.advance q len none false).gaf = u.gaf :=
    fun u len => (congrArg State.gaf (advance_place q u len none false).1.machine :)
  unfold State.finishAt
  dsimp only
  split_ifs <;> exact hadv _ _

theorem gaf_freeLine (s : State) (l t : Nat) : (s.freeLine l t).gaf = s.gaf :=
  gaf_foldl _ (fun s _ => gaf_finishAt { s with fresh := s.fresh + 1 } _ _ _) _ s

theorem gaf_unbackPoints (s : State) (kid : Nat) (kn : Kernel) : (s.unbackPoints kid kn).gaf = s.gaf := by
  refine gaf_foldl _ (fun s l => ?_) _ s
  split
  · exact gaf_freeLine s l _
  · rfl

theorem kernels_nodeEnds (s : State) (task node : Nat) (failure : Option (BitVec 16)) :
    (s.nodeEnds task node failure).gaf.kernels = s.gaf.kernels := by
  unfold State.nodeEnds
  split
  · rfl
  · split
    · rfl
    · dsimp only
      split <;> rfl

theorem nodeEnds_task {task node : Nat} (failure : Option (BitVec 16)) (h : s.task task = some T)
    (hn : T.nodes.find? (fun x => x.addr == node) = some n) : (s.nodeEnds task node failure).task task
    = some { without T n with status := if T.status.isSome then T.status else failure } := by
  have hif : ∀ (b : Bool) (x y : Event) (u : State), (if b = true then u.post u.now x else u.post u.now y).task task = u.task task := by
    intro b x y u
    cases b <;> rfl
  unfold State.nodeEnds
  rw [h]
  dsimp only
  rw [hn]
  exact (hif _ _ _ _).trans (task_modTask h _)

/-- A kernel has left the machine: its node has ended, and the queues of its partition are looked at. -/
def KernelGone (s : State) (kid : Nat) (kn : Kernel) (T : Task) (n : NodeRun) (failure : Option (BitVec 16)) (t : State) : Prop :=
  t.kernel kid = none ∧ (∃ e ∈ t.agenda, e.ev = .taskStart kn.part)
    ∧ (s.task kn.task = some T → T.nodes.find? (fun x => x.addr == kn.node) = some n →
        t.task kn.task = some { T with nodes := T.nodes.erase n, status := if T.status.isSome then T.status else failure })

/-- The contexts of a core that a kernel has left. -/
def coreFreed (kid : Nat) (c : Core) : Core :=
  let c := [0, 1, 2, 3].foldl (fun (c : Core) i =>
    if (c.ctx i).kernel = some kid then c.modCtx i (fun x => { x with kernel := none }) else c) c
  if c.ctl.kernel = some kid then { c with ctl := { c.ctl with kernel := none, frozen := false } } else c

theorem endOfKernel_gone (status : Option (BitVec 16)) : KernelGone s kid kn T n status (s.endOfKernel kid kn status) := by
  unfold State.endOfKernel
  dsimp only
  have hgaf : (kn.cores.foldl (fun s k => s.modCore k (coreFreed kid)) (s.unbackPoints kid kn)).gaf = s.gaf :=
    (gaf_foldl _ (fun s k => modCore_gaf s k _) _ _).trans (gaf_unbackPoints s kid kn)
  show KernelGone s kid kn T n status ((((kn.cores.foldl (fun s k => s.modCore k (coreFreed kid)) (s.unbackPoints kid kn)).setKernel kid
      none).nodeEnds kn.task kn.node status).post _ (.taskStart kn.part))
  generalize kn.cores.foldl (fun s k => s.modCore k (coreFreed kid)) (s.unbackPoints kid kn) = u at hgaf
  refine ⟨?_, ⟨_, mem_post _ _ _, rfl⟩, fun hT hn => nodeEnds_task (s := u.setKernel kid none) status ?_ hn⟩
  · show sget none ((u.setKernel kid none).nodeEnds kn.task kn.node status).gaf.kernels kid = none
    rw [kernels_nodeEnds]
    exact (kernel_setKernel u kid kid none).trans (if_pos rfl)
  · exact (congrArg (fun g : Gaffer => sget none g.tasks kn.task) hgaf).trans hT

theorem exec_kernelComplete_of (h : s.kernel kid = some kn) (he : s.event = some (.kernelComplete kid)) {t : State}
    (ht : kn.fatal = true → t = s.endOfKernel kid kn (some (kn.refused.getD 0x0208)))
    (hd : kn.fatal = false → kn.stage = .done ∧ t = if s.kernelOver kid kn then s.endOfKernel kid kn none else s.lookKernel kid kn) :
    exec .kernelComplete s = .next t := by
  show execKernelComplete s = _
  unfold execKernelComplete
  rw [he]
  dsimp only
  rw [h]
  dsimp only
  cases hf : kn.fatal with
  | true => rw [ht hf, if_pos rfl]
  | false =>
    obtain ⟨hst, ht⟩ := hd hf
    rw [if_neg Bool.false_ne_true, hst, ht]

theorem kernelComplete_fatal (h : s.kernel kid = some kn) (hf : kn.fatal = true) :
    Happens s (.kernelComplete kid) .kernelComplete (KernelGone s kid kn T n (some (kn.refused.getD 0x0208))) :=
  fun he => ⟨_, exec_kernelComplete_of h he (fun _ => rfl) (fun hn => absurd hf (by rw [hn]; exact Bool.false_ne_true)), endOfKernel_gone _⟩

theorem kernelComplete_over (h : s.kernel kid = some kn) (hf : kn.fatal = false) (hst : kn.stage = .done) (ho : s.kernelOver kid kn = true) :
    Happens s (.kernelComplete kid) .kernelComplete (KernelGone s kid kn T n none) :=
  fun he => ⟨_, exec_kernelComplete_of h he (fun ht => absurd ht (by rw [hf]; exact Bool.false_ne_true)) (fun _ => ⟨hst, (if_pos ho).symm⟩),
    endOfKernel_gone _⟩

theorem kernelComplete_looks (h : s.kernel kid = some kn) (hf : kn.fatal = false) (hst : kn.stage = .done) (ho : s.kernelOver kid kn = false) :
    Happens s (.kernelComplete kid) .kernelComplete (fun t => t = s.lookKernel kid kn) :=
  fun he => ⟨_, exec_kernelComplete_of h he (fun ht => absurd ht (by rw [hf]; exact Bool.false_ne_true))
    (fun _ => ⟨hst, (if_neg (ne_true_of_eq_false ho)).symm⟩), rfl⟩

theorem kernelOver_halted (h : s.kernelHalted kid kn = false) : s.kernelOver kid kn = false := by
  unfold State.kernelOver
  rw [h]
  rfl

theorem kernelOver_drained (h : s.kernelDrained kid kn = false) : s.kernelOver kid kn = false := by
  unfold State.kernelOver
  rw [h, Bool.and_false]

theorem lookKernel_running (h : s.kernelHalted kid kn = false) : s.lookKernel kid kn = s := by
  unfold State.lookKernel
  rw [h]
  exact if_neg Bool.false_ne_true

theorem kernelComplete_runs (h : s.kernel kid = some kn) (hf : kn.fatal = false) (hst : kn.stage = .done) (hh : s.kernelHalted kid kn = false) :
    Happens s (.kernelComplete kid) .kernelComplete (fun t => t = s) := by
  intro he
  obtain ⟨t, ht, rfl⟩ := kernelComplete_looks h hf hst (kernelOver_halted hh) he
  exact ⟨_, ht, lookKernel_running hh⟩

theorem kernelHalted_runs {k c : Nat} (hk : k ∈ kn.cores) (h1 : 1 ≤ c) (h3 : c ≤ 3) (hc : (s.ctx (k, c)).kernel = some kid)
    (hr : (s.ctx (k, c)).run ≠ .halted) : s.kernelHalted kid kn = false := by
  unfold State.kernelHalted
  refine List.all_eq_false.2 ⟨k, hk, fun hall => ?_⟩
  have hc' := List.all_eq_true.1 (Bool.and_eq_true _ _ ▸ hall).2 c (by
    have : c = 1 ∨ c = 2 ∨ c = 3 := by omega
    simpa using this)
  have hof : s.ofKernel kid (k, c) = true := by
    unfold State.ofKernel
    rw [if_neg (by show c ≠ 0; omega), hc]
    exact beq_self_eq_true _
  rw [hof] at hc'
  exact hr (beq_iff_eq.1 hc')

theorem kernelComplete_again (h : s.kernel kid = some kn) (hf : kn.fatal = false) (hst : kn.stage = .done) (hh : s.kernelHalted kid kn = true)
    (ho : s.kernelOver kid kn = false) : Happens s (.kernelComplete kid) .kernelComplete (fun t =>
      ((∃ e ∈ s.agenda, e.ev = .kernelComplete kid) → t = s)
      ∧ ((¬ ∃ e ∈ s.agenda, e.ev = .kernelComplete kid) → t = s.post (s.now + 120) (.kernelComplete kid))) := by
  intro he
  obtain ⟨t, ht, rfl⟩ := kernelComplete_looks h hf hst ho he
  refine ⟨_, ht, fun hex => ?_, fun hno => ?_⟩
  · unfold State.lookKernel
    have hany : s.agenda.any (fun e => e.ev == .kernelComplete kid) = true := by
      obtain ⟨e, hm, hev⟩ := hex
      exact List.any_eq_true.2 ⟨e, hm, beq_iff_eq.2 hev⟩
    rw [hany, hh]
    exact if_neg Bool.false_ne_true
  · unfold State.lookKernel
    have hany : s.agenda.any (fun e => e.ev == .kernelComplete kid) = false :=
      List.any_eq_false.2 (fun e hm hev => hno ⟨e, hm, beq_iff_eq.1 hev⟩)
    rw [hany, hh]
    rfl

theorem kernelDrained_out {k c : Nat} (hk : k ∈ kn.cores) (hc : c < 4) (hof : s.ofKernel kid (k, c) = true) (ho : s.ownOut (k, c) = true) :
    s.kernelDrained kid kn = false := by
  have hall : kn.cores.all (fun k => [0, 1, 2, 3].all (fun i => !s.ofKernel kid (k, i) || !s.ownOut (k, i))) = false := by
    refine List.all_eq_false.2 ⟨k, hk, fun hall => ?_⟩
    have hc' := List.all_eq_true.1 hall c (by
      have : c = 0 ∨ c = 1 ∨ c = 2 ∨ c = 3 := by omega
      simpa using this)
    rw [hof, ho] at hc'
    exact Bool.false_ne_true hc'
  unfold State.kernelDrained
  rw [hall, Bool.and_false]
  rfl

theorem ofKernel_ctx {k c : Nat} (hc : (s.ctx (k, c)).kernel = some kid) (h0 : c = 0 → (s.core k).ctl.kernel = some kid) :
    s.ofKernel kid (k, c) = true := by
  unfold State.ofKernel
  by_cases hz : c = 0
  · rw [if_pos hz, h0 hz]
    exact beq_self_eq_true _
  · rw [if_neg hz, hc]
    exact beq_self_eq_true _

theorem kernelComplete_out {k c : Nat} (h : s.kernel kid = some kn) (hf : kn.fatal = false) (hst : kn.stage = .done) (hk : k ∈ kn.cores) (hc : c < 4)
    (hof : s.ofKernel kid (k, c) = true) (ho : s.ownOut (k, c) = true) :
    Happens s (.kernelComplete kid) .kernelComplete (fun t => t.kernel kid = some kn) := by
  intro he
  obtain ⟨t, ht, rfl⟩ := kernelComplete_looks h hf hst (kernelOver_drained (kernelDrained_out hk hc hof ho)) he
  refine ⟨_, ht, ?_⟩
  unfold State.lookKernel
  split <;> exact h

/-- One field of a state, read by number, after a fold that changes it by a function that acts once. -/
theorem foldl_get {σ β : Type} {get : σ → Nat → β} {upd : σ → Nat → σ} {f : β → β}
    (hget : ∀ s l j, get (upd s l) j = if l = j then f (get s j) else get s j) (hf : ∀ x, f (f x) = f x) (l : List Nat) :
    ∀ (s : σ) (j : Nat), get (l.foldl upd s) j = if j ∈ l then f (get s j) else get s j := by
  induction l with
  | nil => exact fun s j => (if_neg List.not_mem_nil).symm
  | cons a l ih =>
    intro s j
    rw [List.foldl_cons, ih, hget]
    by_cases hj : j ∈ l
    · rw [if_pos hj, if_pos (List.mem_cons_of_mem a hj)]
      split_ifs
      · exact hf _
      · rfl
    · rw [if_neg hj]
      by_cases ha : a = j
      · rw [if_pos ha, if_pos (ha ▸ List.mem_cons_self)]
      · rw [if_neg ha, if_neg (fun hm => (List.mem_cons.1 hm).elim (fun h => ha h.symm) hj)]

/-- A pre-empted kernel, with the static entries of it that have not run (R248). -/
def preempted (s : State) (kid : Nat) (kn k : Kernel) : Kernel := { k with
  stage := .preempted
  frozenReq := some true
  scheds := kn.columns.map (fun c => ⟨c, (s.col c).scnt, (s.col c).sched.filter (fun x => x.kernel == kid)⟩) }

/-- A column without a kernel's static entries, and control that no kernel keeps. -/
def unscheduled (kid : Nat) (x : Column) : Column := { x with sched := x.sched.filter (fun e => e.kernel != kid) }
def unkept (c : Ctl) : Ctl := { c with kernel := none }
def coreUnkept (c : Core) : Core := { c with ctl := unkept c.ctl }

/-- A frozen kernel whose cores are saved has left them. -/
def kernelSaved (s : State) (kid : Nat) (kn : Kernel) : State :=
  kn.cores.foldl (fun s k => s.modCtl k unkept) (kn.columns.foldl (fun s c => s.modCol c (unscheduled kid)) (s.modKernel kid (preempted s kid kn)))

theorem col_unscheduled (s : State) (kid : Nat) (l : List Nat) (c : Nat) : (l.foldl (fun s c => s.modCol c (unscheduled kid)) s).col c
    = if c ∈ l then unscheduled kid (s.col c) else s.col c := by
  refine foldl_get (get := State.col) (f := unscheduled kid) (fun s l j => ?_) (fun x => ?_) l s c
  · rw [col_modCol]
    split_ifs with h
    · rw [h]
    · rfl
  · unfold unscheduled
    rw [List.filter_filter]
    simp only [Bool.and_self]

theorem core_unkept (s : State) (l : List Nat) (k : Nat) : (l.foldl (fun s k => s.modCtl k unkept) s).core k
    = if k ∈ l then coreUnkept (s.core k) else s.core k := by
  refine foldl_get (get := State.core) (f := coreUnkept) (fun s l j => ?_) (fun x => rfl) l s k
  by_cases h : l = j
  · rw [if_pos h, h]
    exact (core_modCore_same s j (fun c => { c with ctl := unkept c.ctl }) :)
  · rw [if_neg h]
    exact core_modCore_other _ _ h

theorem kernelComplete_saved (h : s.kernel kid = some kn) (hf : kn.fatal = false) (hst : kn.stage = .frozen)
    (hs : kn.cores.all s.savedCore = true) : Happens s (.kernelComplete kid) .kernelComplete (fun t =>
      t.kernel kid = some (preempted s kid kn kn)
      ∧ (∀ c ∈ kn.columns, (t.col c).sched = (s.col c).sched.filter (fun x => x.kernel != kid)) ∧ (∀ k ∈ kn.cores, (t.core k).ctl.kernel = none)
      ∧ ∃ e ∈ t.agenda, e.ev = .taskStart kn.part) := by
  intro he
  have hexec : exec .kernelComplete s = .next ((kernelSaved s kid kn).post (kernelSaved s kid kn).now (.taskStart kn.part)) := by
    show execKernelComplete s = _
    unfold execKernelComplete
    rw [he]
    dsimp only
    rw [h]
    dsimp only
    rw [hf, if_neg Bool.false_ne_true, hst]
    dsimp only
    rw [hs]
    rfl
  refine ⟨_, hexec, ?_, fun c hc => ?_, fun k hk => ?_, _, mem_post _ _ _, rfl⟩
  · have hg : (kernelSaved s kid kn).gaf = (s.modKernel kid (preempted s kid kn)).gaf :=
      (gaf_foldl _ (fun s k => modCtl_gaf s k _) _ _).trans (gaf_foldl _ (fun s c => modCol_gaf s c _) _ _)
    refine (congrArg (fun g : Gaffer => sget none g.kernels kid) hg).trans ?_
    refine (kernel_modKernel s kid (preempted s kid kn)).trans ?_
    rw [h]
    rfl
  · have hcols : (kernelSaved s kid kn).cols = (kn.columns.foldl (fun s c => s.modCol c (unscheduled kid))
        (s.modKernel kid (preempted s kid kn))).cols := foldl_view State.cols (fun s k => s.modCtl k unkept) (fun s k => rfl) _ _
    refine (congrArg (fun cs => (sget Column.reset cs c).sched) hcols).trans ?_
    refine (congrArg Column.sched (col_unscheduled _ kid kn.columns c)).trans ?_
    rw [if_pos hc]
    rfl
  · refine (congrArg (fun c : Core => c.ctl.kernel) (core_unkept _ kn.cores k)).trans ?_
    rw [if_pos hk]
    rfl

end

/-- Settles O50: each clause is the rule of one step, for the node, the queue, the task or the kernel that it names. -/
theorem taskSteps : Obligations.TaskSteps := by
  unfold Obligations.TaskSteps
  intro s task addr m i since part kid col loops T n f u w bs kn im
  have hsix : dwBits n.words 4 4 0 = ((dw n.words 4).extractLsb' 0 5).toNat := nbits_extract (dw n.words 4) 0 5 4 rfl
  have hlimit : dwBits n.words 5 63 32 = ((dw n.words 5).extractLsb' 32 32).toNat := nbits_extract (dw n.words 5) 32 32 63 rfl
  have hcol : nodeColumn n = ((dw n.words 3).extractLsb' 0 6).toNat := nbits_extract (dw n.words 3) 0 6 5 rfl
  have hcmd : nodeCommand n = nodeKindOf n.kind.toNat ((dw n.words 3).extractLsb' 8 2).toNat :=
    congrArg (nodeKindOf n.kind.toNat) (nbits_extract (dw n.words 3) 8 2 9 rfl)
  refine ⟨?_, ?_, ?_, ?_, ?_, ?_, ?_, ?_, ?_, ?_, ?_, ?_, ?_, ?_, ?_, ?_, ?_, ?_⟩
  · exact fun h hs => ⟨nodeCond_cut h hs, nodeSwitch_cut h hs, nodeLoop_cut h hs,
      fun he => ⟨_, exec_nodeCopy h he, (engineNode_cut hs (.nodeCopy task addr loops)).symm ▸ Runs.isCut h⟩,
      fun he => ⟨_, exec_nodeInstall h he, (engineNode_cut hs (.nodeInstall task addr loops)).symm ▸ Runs.isCut h⟩, nodeKernel_cut h hs⟩
  · intro h hs hw hr
    refine ⟨fun hc => ?_, fun hc => ?_, fun hi => nodeSwitch_past h hs hw hr (hsix.trans_le hi), fun hi hg he => ?_,
      fun hc hi => nodeLoop_limit h hs hw hr (condOf_pos hc) (hi.trans hlimit.symm),
      fun hc hi => nodeLoop_again h hs hw hr (condOf_pos hc) (fun h0 => hi (h0.trans hlimit)),
      fun hc h7 => nodeLoop_over h hs hw hr (condOf_neg hc) h7, fun hc h7 => nodeLoop_counts h hs hw hr (condOf_neg hc) h7.1⟩
    · have hd := nodeCond_decides h hs hr
      rw [if_pos (condOf_pos hc)] at hd
      exact hd
    · have hd := nodeCond_decides h hs hr
      rw [if_neg (ne_true_of_eq_false (condOf_neg hc))] at hd
      exact hd
    · refine ⟨_, exec_nodeSwitch h hs hw hr (hi.trans_eq hsix.symm) he, ?_⟩
      have hg' : s.gafRead T.part ((dw n.words 5).toNat + 8 * (masked n m).toNat) 8 (.nodeSwitch task addr loops) = (.ok bs, u) := hg
      rw [hg']
      obtain ⟨-, ⟨at_, -, hmem⟩, -⟩ := goNode_goes (n := n) (still_forget u (.nodeSwitch task addr loops)) ((task_gafRead hg' task).trans h.1) (leNat bs)
      exact ⟨at_, hmem⟩
  · intro x h hs hw hr hi hg hx he
    refine ⟨_, exec_nodeSwitch h hs hw hr (hi.trans_eq hsix.symm) he, ?_⟩
    have hg' : s.gafRead T.part ((dw n.words 5).toNat + 8 * (masked n m).toNat) 8 (.nodeSwitch task addr loops) = (x, u) := hg
    rw [hg']
    cases x with
    | ok b => exact hx.elim
    | fault t => exact hx.elim
    | wait => exact task_setWord ((task_gafRead hg' task).trans h.1) m
  · exact fun h hr => nodeSignal_near h hr
  · intro h hk hw hr hrmw he
    obtain ⟨t, ht, h1, h2, h3⟩ := signalComplete_written h (nearWrite_count hk hw) hr (fun hb => absurd hb Bool.false_ne_true) hrmw true he
    refine ⟨t, ht, h1, h2, fun hn => ?_⟩
    rw [if_neg (ne_true_of_eq_false hn)] at h3
    exact h3
  · exact fun h hk hr => ⟨fun hh => signalComplete_held h (nearWrite_signal hk hr.1.1) hr.1 (fun _ => hr.2.1) hh true,
      fun hrmw => signalComplete_signals h hk hr hrmw⟩
  · intro h hk hr
    refine ⟨signalComplete_fails h (nearWrite_far hk hr), fun he => ?_⟩
    obtain ⟨t, ht, h1⟩ := signalComplete_over h (nearWrite_far hk hr) he
    refine ⟨t, ht, ?_⟩
    split_ifs at h1 ⊢
    · exact h1
    · exact h1
  · intro h hr
    refine ⟨fun hs => nodeWait_cut h hr hs, fun hs hc he => ?_, fun hs hc h0 hl => nodeWait_late h hr hs hc h0 hl,
      fun hs hc hl => nodeWait_again h hr hs hc hl⟩
    obtain ⟨t, ht, h1⟩ := nodeWait_over h hr hs hc he
    refine ⟨t, ht, ?_⟩
    split_ifs at h1 ⊢
    · exact h1
    · exact h1
  · exact fun h => waitTimeout_none h
  · exact fun h hs hm hu => ⟨fun hl => waitTimeout_early h hs hm hu hl, fun hl => waitTimeout_fails h hs hm hu hl⟩
  · intro h
    refine ⟨fun hs => nodeSuccessor_stops h hs, ?_, ?_, fun hs h0 hlt hb => nodeSuccessor_astray h hs h0 hlt hb, fun hs h0 hlt hal hlen hr => ?_⟩
    · rintro hs rfl rfl
      exact nodeSuccessor_ends h hs
    · rintro l r hs rfl rfl
      exact nodeSuccessor_loops h hs
    · refine ⟨fun hres => nodeSuccessor_reserved h hs h0 hlt hal hlen hr rfl hres, fun hok h8 h5 => ?_⟩
      have hst := nodeSuccessor_starts h hs h0 hlt hal hlen hr rfl hok h8 h5
      rw [nodeRun_eq] at hst
      exact hst
  · intro ev row hk h hs hc
    have hc' : nodeColumn n = col := hcol.trans hc.symm
    refine ⟨fun hp => engineStep_outside hk h hs (hc' ▸ hp), fun hp hr hill hrva hrange h8 h32 hfree hl => ?_⟩
    have hst := engineStep_puts hk h hs (hc' ▸ hp) hr (hcmd ▸ hill) hrva (hcmd ▸ hrange) h8 h32 (hc' ▸ hfree) (hc' ▸ hl)
    unfold NodeCommands at hst
    rw [hc', hcmd] at hst
    exact hst
  · intro ev h hs hr l v a hbad hb hsc hplace himg hkept
    have hl : BareLaunch s task addr loops T n bs a im u v w := ⟨h, hs, hr, hbad, hb, hsc, hplace, himg, hkept⟩
    exact ⟨fun hc => nodeKernel_refused hl hc, fun hc hh => nodeKernel_starts hl hc hh⟩
  · intro h
    refine ⟨fun hf => kernelComplete_fatal h hf, fun hf hst ho => kernelComplete_over h hf hst ho, fun hf hst hh => kernelComplete_runs h hf hst hh,
      fun k c hf hst hk h1 h3 hc hr => kernelComplete_runs h hf hst (kernelHalted_runs hk h1 h3 hc hr), fun hf hst hh ho he => ?_,
      fun k c hf hst hk hc hkc h0 ho => kernelComplete_out h hf hst hk hc (ofKernel_ctx hkc h0) ho,
      fun hf hst hs => kernelComplete_saved h hf hst hs⟩
    obtain ⟨t, ht, h1, h2⟩ := kernelComplete_again h hf hst hh ho he
    refine ⟨t, ht, ?_⟩
    split_ifs with hex
    · exact h1 hex
    · exact h2 hex
  · exact fun hk hp => taskStart_idle hk hp
  · exact fun h hk hi hp hother hr hm hbar hb => taskStart_barred hk hi hp hother hr hm hbar hb
  · intro h hk hi hp hother hr hm hbar hok hfree hread hbs he
    obtain ⟨t, ht, h1, h2, h3⟩ := taskStart_starts hk hi hp hother hr hm hbar hok hfree hread hbs he
    exact ⟨t, ht, h1, h2, h3⟩
  · intro h
    exact ⟨fun hn => taskStamp_early h hn,
      fun hn he hst hr => ⟨fun hw => taskStamp_waits h ⟨hn, he⟩ hst hw, fun hw => taskStamp_over h ⟨hn, he⟩ hst hw⟩,
      fun hn he hst hok hr => taskStamp_hands h ⟨hn, he⟩ hst hok hr.1⟩

end Sys2Proof.Proofs
end

section
/-! PROOFS. The end of a kernel's last superstep while a pre-emption is asked for (R83, R248): the counterexample to the statement of the
steps of groups. -/

namespace Sys2Proof.Proofs

open Sys2Proof.Machine Sys2Proof.Safety Sys2Proof.Laws

/-- A kernel of column 0's cores of tier 3, with one superstep of one phase, which has ended, and with a pre-emption asked for at the
boundary. -/
def askedKernel : Kernel where
  task := 1
  node := 0x40
  part := 0
  cols := 1
  tiers := 8
  image := ⟨true, [some 0], [], [⟨1, [], []⟩], 0, [], 0⟩
  profNo := 0
  profile := 0
  levels := []
  rvused := []
  points := []
  step := 0
  stage := .running
  notice := none
  colPhase := [(0, 1)]
  colStart := []
  colEnd := []
  power := []
  waiting := []
  heads := []
  scheds := []
  replays := 0
  failing := none
  width := false
  fatal := false
  refused := none
  frozenReq := some false
  prio := 0

/-- The kernel runs as number 1, and the release behind its last phase is due. -/
def askedState : State :=
  { State.reset with
    agenda := []
    event := some (.phaseRelease 1 0 1)
    gaf := ⟨[], [], [(1, some askedKernel)], 2⟩ }

/-- The agenda behind a step. -/
def agendaBehind (o : Host.Outcome State Fault Refusal) : List Due :=
  match o with
  | .next t => t.agenda
  | _ => []

/-- Two steps follow the end of the last superstep: the kernel's completion, and the pre-emption behind it. -/
theorem askedState_follow : agendaBehind (exec .phaseRelease askedState) = [⟨0, .kernelComplete 1⟩, ⟨0, .preempt 1 false⟩] := by
  decide +kernel

theorem askedState_ended : (∀ c ∈ askedKernel.columns, sget 0 askedKernel.colPhase c = 1 ∧ sget 0 askedKernel.colEnd c ≤ askedState.now)
    ∧ ∀ k ∈ askedKernel.cores, (askedState.core k).ctl.handling = none ∧ (askedState.core k).ctl.waiting = [] := by
  decide +kernel

/-- Refutes O49: behind the last superstep of `askedKernel`, for which a pre-emption has been asked, two steps are put on the agenda. The
statement gives the agenda as the old one with the completion alone, and has the pre-emption stand on it too. -/
theorem not_superstepSteps : ¬ Obligations.SuperstepSteps := by
  unfold Obligations.SuperstepSteps
  intro hall
  obtain ⟨-, -, -, hlast, -⟩ := hall askedState askedState 1 0 1 askedKernel ⟨1, [], []⟩ 0 0 0 0 0 0 0 ⟨.compute, 16, 0, 1, false, 0, true⟩
    ⟨0, [], 0, 24, 0, 0, none, 0⟩ false
  obtain ⟨hended, hcores⟩ := askedState_ended
  obtain ⟨-, hdone, -⟩ := hlast rfl rfl ⟨.inl rfl, rfl⟩ rfl
  obtain ⟨t, ht, -, -, hposts, -⟩ := hdone hended (Nat.le_refl 1) hcores rfl
  have hone : t.agenda = [⟨0, .kernelComplete 1⟩] := hposts
  have hfollow := askedState_follow
  rw [ht] at hfollow
  exact absurd (hone.symm.trans hfollow) (by decide)

end Sys2Proof.Proofs
end

section
/-! PROOFS. The slice's own steps (R121 to R136): what the start of an operation puts under way, what its reads and writes do, and
what its end leaves. -/

namespace Sys2Proof.Proofs

open Sys2Proof.Machine Sys2Proof.Safety Sys2Proof.Laws

/-! ### A change of one core -/

/-- From `s` to `t` only core `k` has changed, and stands as `c`. -/
def CoreGoes (k : Nat) (s t : State) (c : Core) : Prop := t.core k = c ∧ ∀ j, j ≠ k → t.core j = s.core j

section
variable {k : Nat} {s t u : State} {c : Core}

theorem coreGoes_refl (k : Nat) (s : State) : CoreGoes k s s (s.core k) := ⟨rfl, fun _ _ => rfl⟩

theorem CoreGoes.modCore (h : CoreGoes k s t c) (f : Core → Core) : CoreGoes k s (t.modCore k f) (f c) :=
  ⟨(core_modCore_same _ _ _).trans (congrArg f h.1), fun j hj => (core_modCore_other _ _ (Ne.symm hj)).trans (h.2 j hj)⟩

/-- A step that leaves the cores alone. -/
theorem CoreGoes.of_cores (h : CoreGoes k s t c) (hc : u.cores = t.cores) : CoreGoes k s u c := by
  have (j : Nat) : u.core j = t.core j := congrArg (fun m => sget Core.reset m j) hc
  exact ⟨(this k).trans h.1, fun j hj => (this j).trans (h.2 j hj)⟩

theorem CoreGoes.post (h : CoreGoes k s t c) (at_ : Nat) (ev : Event) : CoreGoes k s (t.post at_ ev) c := h

theorem CoreGoes.ctx (h : CoreGoes k s t c) (i : Nat) : t.ctx (k, i) = c.ctx i := congrArg (fun c : Core => c.ctx i) h.1

end

/-! ### A slice operation starts (R126, R132) -/

/-- The operation at the head of the queue has started. -/
def begunSlice (now : Nat) (l : Slice) : Slice := l.modHead (fun o => { o with started := some now })

section
variable {s : State} {k : Nat} {so : SliceOp} {srest : List SliceOp} (he : s.event = some (.sliceOpStart k)) (hq : NoneDue s k)
  (hqueue : (s.core k).slice.queue = so :: srest)
include he hq

theorem sliceStart_empty (hnone : (s.core k).slice.queue = []) : exec .sliceOpStart s = .next s := by
  show execSliceOpStart s = _
  unfold execSliceOpStart
  rw [he]
  dsimp only
  rw [settle_noneDue hq, hnone]

include hqueue

theorem sliceStart_mzero {u : TileReg} (hw : so.what = .mzero u) : exec .sliceOpStart s
    = .next ((s.modSlice k (begunSlice s.now)).post (s.now + 2 * cyc k) (.sliceOpComplete k)) := by
  show execSliceOpStart s = _
  unfold execSliceOpStart
  rw [he]
  dsimp only
  rw [settle_noneDue hq, hqueue]
  dsimp only
  rw [hw]
  rfl

theorem sliceStart_mma {p : Product} {a : Nat} (hw : so.what = .mma p a none) (hp : (s.core k).ctl.phase = none) :
    exec .sliceOpStart s
    = .next (((s.modSlice k (begunSlice s.now)).modCore k (fun c => c.pendAt (s.now + 1 * cyc k) so.ctx (.aCol 0))).post
        (s.now + (6 + runCycles p) * cyc k) (.sliceOpComplete k)) := by
  show execSliceOpStart s = _
  unfold execSliceOpStart
  rw [he]
  dsimp only
  rw [settle_noneDue hq, hqueue]
  dsimp only
  rw [hw]
  dsimp only
  rw [hp]
  cases (s.core k).slice.streams.find? (fun a => a.started.isNone) <;> rfl

theorem sliceStart_missing {p : Product} {a n : Nat} (hw : so.what = .mma p a (some n))
    (hs : ∀ y ∈ (s.core k).slice.streams, y.issued ≠ n) : exec .sliceOpStart s = .next (s.lateTrap k so (.timing 2)) := by
  show execSliceOpStart s = _
  unfold execSliceOpStart
  rw [he]
  dsimp only
  rw [settle_noneDue hq, hqueue]
  dsimp only
  rw [hw]
  dsimp only
  rw [if_neg]
  intro h
  obtain ⟨y, hy, h⟩ := List.any_eq_true.mp h
  exact hs y hy (by simpa using (Bool.and_eq_true_iff.mp h).1)

theorem sliceStart_mwld {w : WTag} {a : Nat} (hw : so.what = .mwld w a) : exec .sliceOpStart s
    = .next ((((s.modSlice k (begunSlice s.now)).modSlice k (fun l => { l with wvalid := false })).modCore k
        (fun c => c.pendAt s.now so.ctx (.wLine 0))).post
        (s.now + (Config.bankLatency (Machine.tierOf k) + 2 + ceilDiv (imageBytes w.fmt w.k.toNat) 64) * cyc k) (.mwldComplete k)) := by
  show execSliceOpStart s = _
  unfold execSliceOpStart
  rw [he]
  dsimp only
  rw [settle_noneDue hq, hqueue]
  dsimp only
  rw [hw]
  rfl

theorem sliceStart_poisoned {d : VecReg} {u : TileReg} {y : Ty} {z : Bool} {r : Nat} (hw : so.what = .mrd d u y z r)
    (hp : ((s.core k).slice.tile u).pois = true) :
    exec .sliceOpStart s = .next (s.lateTrap k so (tilePois (s.core k).slice u)) := by
  show execSliceOpStart s = _
  unfold execSliceOpStart
  rw [he]
  dsimp only
  rw [settle_noneDue hq, hqueue]
  dsimp only
  rw [hw]
  dsimp only
  rw [if_pos hp]

theorem sliceStart_mrd {d : VecReg} {u : TileReg} {y : Ty} {z : Bool} {r : Nat} (hw : so.what = .mrd d u y z r)
    (hp : ((s.core k).slice.tile u).pois = false) : exec .sliceOpStart s
    = .next (((s.modSlice k (begunSlice s.now)).deliver (k, so.ctx) 4
        (.vec d.toNat (packLanes y.width (collect (mrdLanes ((s.core k).slice.tile u) y z r)).1)
          :: (if (collect (mrdLanes ((s.core k).slice.tile u) y z r)).2 = 0 then []
              else [.orFlags (collect (mrdLanes ((s.core k).slice.tile u) y z r)).2]))).post
        (s.now + 4 * cyc k) (.sliceOpComplete k)) := by
  show execSliceOpStart s = _
  unfold execSliceOpStart
  rw [he]
  dsimp only
  rw [settle_noneDue hq, hqueue]
  dsimp only
  rw [hw]
  dsimp only
  rw [if_neg (by rw [hp]; exact Bool.false_ne_true)]
  rfl

theorem sliceStart_mscac {u : TileReg} {a b : Nat} (hw : so.what = .mscac u a b) (hp : ((s.core k).slice.tile u).pois = false)
    (hm : (s.core k).slice.wpois = []) : exec .sliceOpStart s
    = .next (((s.modSlice k (begunSlice s.now)).modCore k (fun c => c.pendAt (s.now + 6 * cyc k) so.ctx (.scRead 0))).post
        (s.now + 23 * cyc k) (.sliceOpComplete k)) := by
  show execSliceOpStart s = _
  unfold execSliceOpStart
  rw [he]
  dsimp only
  rw [settle_noneDue hq, hqueue]
  dsimp only
  rw [hw]
  dsimp only
  rw [if_neg (by rw [hp]; exact Bool.false_ne_true), Slice.marked, hm, if_neg (by exact Bool.false_ne_true)]
  rfl

end

section
variable {s : State} {k : Nat} {so : SliceOp} {srest : List SliceOp} (hq : NoneDue s k)
  (hqueue : (s.core k).slice.queue = so :: srest)

/-- The core once an operation has started and its first act is under way. -/
theorem coreGoes_begun (f : Slice → Slice) : CoreGoes k s (s.modSlice k f) { s.core k with slice := f (s.core k).slice } :=
  (coreGoes_refl k s).modCore _

theorem mem_pendAt (c : Core) (t i : Nat) (a : Act) : ⟨t, i, a⟩ ∈ (c.pendAt t i a).pend := (mem_pendInsert _ _ _).mpr (.inl rfl)

theorem mem_pendAt_of {c : Core} {p : Pend} (h : p ∈ c.pend) (t i : Nat) (a : Act) : p ∈ (c.pendAt t i a).pend :=
  (mem_pendInsert _ _ _).mpr (.inr h)

include hq hqueue

/-- MZERO, a product, a load of weights and MSCAC start (R126, R132). -/
theorem starts_mzero {u : TileReg} (hw : so.what = .mzero u) : Happens s (.sliceOpStart k) .sliceOpStart (fun t =>
    Posts s t (s.now + 2 * cyc k) (.sliceOpComplete k) ∧ ∀ j, j ≠ k → t.core j = s.core j) :=
  fun he => ⟨_, sliceStart_mzero he hq hqueue hw, rfl, (coreGoes_begun _).2⟩

theorem starts_mma {p : Product} {a : Nat} (hw : so.what = .mma p a none) (hp : (s.core k).ctl.phase = none) :
    Happens s (.sliceOpStart k) .sliceOpStart (fun t => ⟨s.now + 1 * cyc k, so.ctx, .aCol 0⟩ ∈ (t.core k).pend
      ∧ Posts s t (s.now + (6 + runCycles p) * cyc k) (.sliceOpComplete k) ∧ ∀ j, j ≠ k → t.core j = s.core j) := by
  intro he
  have hgo := (coreGoes_begun (begunSlice s.now)).modCore (k := k) (s := s) (fun c => c.pendAt (s.now + 1 * cyc k) so.ctx (.aCol 0))
  refine ⟨_, sliceStart_mma he hq hqueue hw hp, ?_, rfl, hgo.2⟩
  exact (congrArg Core.pend hgo.1).symm ▸ mem_pendAt _ _ _ _

theorem starts_mwld {w : WTag} {a : Nat} (hw : so.what = .mwld w a) :
    Happens s (.sliceOpStart k) .sliceOpStart (fun t => (t.core k).slice.wvalid = false ∧ ⟨s.now + 0 * cyc k, so.ctx, .wLine 0⟩ ∈ (t.core k).pend
      ∧ Posts s t (s.now + (Config.bankLatency (Machine.tierOf k) + 2 + ceilDiv (imageBytes w.fmt w.k.toNat) 64) * cyc k) (.mwldComplete k)) := by
  intro he
  have hgo := ((coreGoes_begun (begunSlice s.now)).modCore (k := k) (s := s) (fun c => { c with slice := { c.slice with wvalid := false } })).modCore
    (fun c => c.pendAt s.now so.ctx (.wLine 0))
  refine ⟨_, sliceStart_mwld he hq hqueue hw, (congrArg (fun c : Core => c.slice.wvalid) hgo.1), ?_, rfl⟩
  rw [Nat.zero_mul, Nat.add_zero]
  exact (congrArg Core.pend hgo.1).symm ▸ mem_pendAt _ _ _ _

theorem starts_mscac {u : TileReg} {a b : Nat} (hw : so.what = .mscac u a b) (hp : ((s.core k).slice.tile u).pois = false)
    (hm : (s.core k).slice.wpois = []) : Happens s (.sliceOpStart k) .sliceOpStart (fun t =>
      ⟨s.now + 6 * cyc k, so.ctx, .scRead 0⟩ ∈ (t.core k).pend ∧ Posts s t (s.now + 23 * cyc k) (.sliceOpComplete k)) := by
  intro he
  have hgo := (coreGoes_begun (begunSlice s.now)).modCore (k := k) (s := s) (fun c => c.pendAt (s.now + 6 * cyc k) so.ctx (.scRead 0))
  refine ⟨_, sliceStart_mscac he hq hqueue hw hp hm, ?_, rfl⟩
  exact (congrArg Core.pend hgo.1).symm ▸ mem_pendAt _ _ _ _

/-- MRD starts: its lanes are under way (R129). -/
theorem starts_mrd {d : VecReg} {u : TileReg} {y : Ty} {z : Bool} {r : Nat} (hw : so.what = .mrd d u y z r)
    (hp : ((s.core k).slice.tile u).pois = false) : Happens s (.sliceOpStart k) .sliceOpStart (fun t =>
      Posts s t (s.now + 4 * cyc k) (.sliceOpComplete k)
      ∧ ⟨s.now + 4 * cyc k, so.ctx, .vec d.toNat (packLanes y.width ((List.range (512 / y.width)).map (fun l =>
          (roundV (fmtOf y) .rne z (((s.core k).slice.tile u).val (16 * (r + l / 16) + l % 16))).val)))⟩ ∈ (t.core k).pend) := by
  intro he
  refine ⟨_, sliceStart_mrd he hq hqueue hw hp, rfl, ?_⟩
  have hlanes : (collect (mrdLanes ((s.core k).slice.tile u) y z r)).1 = (List.range (512 / y.width)).map (fun l =>
      (roundV (fmtOf y) .rne z (((s.core k).slice.tile u).val (16 * (r + l / 16) + l % 16))).val) := by
    rw [collect_val, mrdLanes, List.map_map]
    rfl
  rw [hlanes]
  generalize packLanes y.width _ = lanes
  generalize (collect (mrdLanes ((s.core k).slice.tile u) y z r)).2 = f
  have hgo := (coreGoes_begun (begunSlice s.now)).modCore (k := k) (s := s)
    (fun c => c.deliverAll (Machine.tierOf k) so.ctx s.now 4 (.vec d.toNat lanes :: (if f = 0 then [] else [.orFlags f])))
  refine (congrArg Core.pend hgo.1).symm ▸ ?_
  generalize ({ s.core k with slice := begunSlice s.now (s.core k).slice } : Core) = c
  have hone (c : Core) (a : Act) : ⟨s.now + 4 * cyc k, so.ctx, a⟩ ∈ (c.deliver (Machine.tierOf k) so.ctx s.now 4 a).pend := by
    unfold Core.deliver
    dsimp only
    rw [if_neg (by decide : ¬ 4 ≤ 1)]
    exact (mem_pendInsert _ _ _).mpr (.inl rfl)
  split
  · exact hone c _
  · have hkeep {p : Pend} {c : Core} (h : p ∈ c.pend) : p ∈ (c.deliver (Machine.tierOf k) so.ctx s.now 4 (.orFlags f)).pend := by
      unfold Core.deliver
      dsimp only
      rw [if_neg (by decide : ¬ 4 ≤ 1)]
      refine (mem_pendInsert _ _ _).mpr (.inr ?_)
      split
      · exact h
      · exact List.mem_filter.mpr ⟨h, by simp [sameTarget]⟩
    exact hkeep (hone c _)

end

/-! ### MSCAC row by row (R130) -/

theorem bankBase_le_statusBase (tier : Nat) : Config.bankBase ≤ Config.statusBase tier := by
  unfold Config.bankBase Config.statusBase
  split_ifs <;> decide

/-- A row of MSCAC's words, from near memory as it stands. -/
def scRow (s : State) (k : Nat) (u : TileReg) (a b m : Nat) : List (Res Nat) :=
  mscacRow (s.core k).slice u m (coreNat s k (b + 4 * m) 4) ((List.range 64).map (fun j => nearByte s k (a + 64 * m + j)))

/-- Flags raised by rows, ORed onto those before. -/
theorem foldl_flags_or (x f : FlagSet) : ∀ l : List (Res Nat),
    l.foldl (fun f r => f ||| r.flags) (x ||| f) = x ||| l.foldl (fun f r => f ||| r.flags) f
  | [] => rfl
  | r :: l => by
    simp only [List.foldl_cons]
    rw [BitVec.or_assoc]
    exact foldl_flags_or x (f ||| r.flags) l

section
variable {s : State} {k : Nat} {so : SliceOp} {srest : List SliceOp} {u : TileReg} {a b m : Nat}
  (hqueue : (s.core k).slice.queue = so :: srest) (hw : so.what = .mscac u a b)
include hqueue hw

theorem scRead_rows :
    let d := (s.core k).sliceAct (Machine.tierOf k) s.now ⟨s.now, so.ctx, .scRead m⟩
    d.slice.queue.head?.map (·.rows) = some ([m, m + 1].map (fun r => (r, (scRow s k u a b r).flatMap (fun x => leBytes 4 x.val))))
    ∧ d.slice.queue.head?.map (·.flags) = some ([m, m + 1].foldl (fun f r => (scRow s k u a b r).foldl (fun f x => f ||| x.flags) f) so.flags)
    ∧ ⟨s.now + 1 * cyc k, so.ctx, .scWrite m⟩ ∈ d.pend ∧ (m + 2 < 32 → ⟨s.now + 1 * cyc k, so.ctx, .scRead (m + 2)⟩ ∈ d.pend)
    ∧ d.near = (s.core k).near := by
  have hrow (m : Nat) : mscacRow (s.core k).slice u m ((s.core k).readNat (b + 4 * m) 4) ((s.core k).readN (a + 64 * m) 64)
      = scRow s k u a b m := by
    rw [readNat_eq_coreNat, Core.readN, readBytes_eq_map]
    rfl
  have hhead (f : SliceOp → SliceOp) : ((s.core k).slice.modHead f).queue.head? = some (f so) := by
    rw [Slice.modHead, hqueue]
    rfl
  rw [Nat.one_mul]
  unfold Core.sliceAct
  rw [hqueue]
  dsimp only [List.head?]
  rw [hw]
  dsimp only
  rw [hrow, hrow]
  have hflags : so.flags ||| [(m, scRow s k u a b m), (m + 1, scRow s k u a b (m + 1))].foldl
        (fun f r => r.2.foldl (fun f x => f ||| x.flags) f) 0
      = [m, m + 1].foldl (fun f r => (scRow s k u a b r).foldl (fun f x => f ||| x.flags) f) so.flags := by
    simp only [List.foldl_cons, List.foldl_nil]
    rw [← foldl_flags_or, ← foldl_flags_or]
    exact congrArg (fun x => (scRow s k u a b (m + 1)).foldl (fun f r => f ||| r.flags) ((scRow s k u a b m).foldl (fun f r => f ||| r.flags) x))
      BitVec.or_zero
  by_cases h : m + 2 < 32
  · rw [if_pos h]
    refine ⟨congrArg (Option.map _) (hhead _), (congrArg (Option.map _) (hhead _)).trans (congrArg some hflags), ?_, fun _ => ?_, rfl⟩
    · exact mem_pendAt_of (mem_pendAt _ _ _ _) _ _ _
    · exact mem_pendAt _ _ _ _
  · rw [if_neg h]
    refine ⟨congrArg (Option.map _) (hhead _), (congrArg (Option.map _) (hhead _)).trans (congrArg some hflags), ?_, fun h' => absurd h' h, rfl⟩
    exact mem_pendAt _ _ _ _

theorem scWrite_near {r : Nat} {y : List Byte} (hrows : so.rows = [(r, y)]) (hrmw : (s.core k).ctl.rmw = [])
    (hin : a + 64 * r + y.length ≤ Config.bankBase) (j : Nat) :
    sget 0 ((s.core k).sliceAct (Machine.tierOf k) s.now ⟨s.now, so.ctx, .scWrite m⟩).near j
      = if a + 64 * r ≤ j ∧ j < a + 64 * r + y.length then y.getD (j - (a + 64 * r)) 0 else nearByte s k j := by
  have hnear : ((s.core k).sliceAct (Machine.tierOf k) s.now ⟨s.now, so.ctx, .scWrite m⟩).near
      = storeBytes (Machine.tierOf k) (s.core k).near (a + 64 * r) y := by
    unfold Core.sliceAct
    rw [hqueue]
    dsimp only [List.head?]
    rw [hw]
    dsimp only
    rw [hrows]
    simp only [List.foldl_cons, List.foldl_nil]
    rw [Core.writeBy, hrmw]
    rfl
  rw [hnear, sget_storeBytes]
  split
  · next h =>
    have hfull : writableBits (Machine.tierOf k) j = 0xFF := by
      have hle := bankBase_le_statusBase (Machine.tierOf k)
      rw [writableBits]
      dsimp only
      rw [if_pos (by omega)]
    have h1 : (0xFF : Byte) = BitVec.allOnes 8 := rfl
    rw [hfull, h1, BitVec.and_allOnes, BitVec.not_allOnes, BitVec.and_zero, BitVec.or_zero]
  · rfl

end

/-! ### What a product leaves (R122, R136) -/

theorem flipInt_zero (x : Int) : flipInt 0 x = x := by
  unfold flipInt
  dsimp only
  rw [Nat.xor_zero]
  omega

/-- An adder whose output has no flipped bit keeps the sum and finds no mismatch. -/
theorem adder_clean (a : Acc) (step : Nat) (x : Int) : a.adder [] step x = (x, { a with slip := a.slip.or none }) := by
  have hb : slipBits [] step = 0 := rfl
  unfold Acc.adder
  rw [hb, flipInt_zero]
  simp

theorem adder_slip (a : Acc) (step : Nat) (x : Int) : (a.adder [] step x).2.slip = a.slip := by
  rw [adder_clean]
  exact Option.or_none

theorem accFixed_slip {sh : Nat} {a : Acc} (h : a.slip = none) (q : Nat × Option (FVal × FVal)) : (accFixed sh [] a q).slip = none := by
  unfold accFixed
  dsimp only
  split
  · exact h
  · exact h
  · exact h
  · exact h
  · exact (adder_slip _ _ _).trans h

theorem accGroup_slip {a : Acc} (h : a.slip = none) (g : List (Nat × Option (FVal × FVal))) : (accGroup [] a g).slip = none := by
  unfold accGroup
  dsimp only
  split
  · exact h
  · split
    · rw [List.filter_nil, List.map_nil, adder_clean, h]
      rfl
    · exact h

theorem foldl_slip {α : Type} {f : Acc → α → Acc} (hf : ∀ a x, a.slip = none → (f a x).slip = none) :
    ∀ (l : List α) {a : Acc}, a.slip = none → (l.foldl f a).slip = none
  | [], _, h => h
  | x :: l, a, h => foldl_slip hf l (hf a x h)

theorem accElem_slip (m : TileMode) (e : BitVec 80) (ps : List (Nat × Option (FVal × FVal))) : (accElem m e [] ps).slip = none := by
  unfold accElem
  split
  · exact foldl_slip (fun a g h => accGroup_slip h g) _ rfl
  · exact foldl_slip (fun a q h => accFixed_slip h q) _ rfl
  · exact foldl_slip (fun a q h => accFixed_slip h q) _ rfl

/-- Of elements none of which slipped there is no first slip. -/
theorem firstSlip_clean {es : List (Nat × Acc)} (h : ∀ e ∈ es, e.2.slip = none) : firstSlip es = none := by
  unfold firstSlip
  rw [show es.foldl _ none = (none : Option (Nat × Nat)) from ?_]
  · rfl
  · induction es with
    | nil => rfl
    | cons e es ih =>
      rw [List.foldl_cons, h e List.mem_cons_self]
      exact ih (fun x hx => h x (List.mem_cons_of_mem _ hx))

/-- Element `i` of a product's tile after columns of A, when no adder slips. -/
def productElem (l : Slice) (p : Product) (cols : List ACol) (i : Nat) : Acc :=
  accElem (modeOf p.ta) (if p.z ∨ (l.tile p.t).mode = .none then 0 else sget 0 (l.tile p.t).el i) []
    (((List.range cols.length).zip cols).map (fun c =>
      (c.1, if c.2.ok then some (operandVal p.ta (c.2.el.getD (i / 16) 0), panelVal l p c.2.ctab (p.koff + c.1) (i % 16)) else none)))

theorem productElems_clean (l : Slice) (p : Product) (cols : List ACol) :
    productElems l p cols [] = (List.range 512).map (fun i => (i, productElem l p cols i)) := rfl

/-- A product of which no adder slipped finds no residue mismatch (R136). -/
theorem accumulate_clean (l : Slice) (p : Product) (cols : List ACol) : (l.accumulate p cols []).2.2 = none := by
  have hslips : ∀ e ∈ productElems l p cols [], e.2.slip = none := by
    rw [productElems_clean]
    intro e he
    obtain ⟨i, -, hi⟩ := List.mem_map.mp he
    rw [← hi]
    exact accElem_slip _ _ _
  unfold Slice.accumulate
  dsimp only
  exact firstSlip_clean hslips

/-- The elements of the tile after a product. -/
theorem accumulate_el (l : Slice) (p : Product) (cols : List ACol) {i : Nat} (hi : i < 512) :
    sget 0 ((l.accumulate p cols []).1.tile p.t).el i = (productElem l p cols i).el := by
  have hfold : ∀ (n : Nat) (m : Sparse (BitVec 80)), sget 0 (((List.range n).map (fun i => (i, productElem l p cols i))).foldl
      (fun m e => sset 0 m e.1 e.2.el) m) i = if i < n then (productElem l p cols i).el else sget 0 m i := by
    intro n m
    induction n with
    | zero => rfl
    | succ n ih =>
      rw [List.range_succ, List.map_append, List.foldl_append]
      simp only [List.map_cons, List.map_nil, List.foldl_cons, List.foldl_nil]
      rw [sget_sset, ih]
      by_cases h : n = i
      · subst h
        rw [if_pos rfl, if_pos (Nat.lt_succ_self _)]
      · rw [if_neg h]
        congr 1
        exact propext (by omega)
  unfold Slice.accumulate
  dsimp only
  rw [Slice.tile, Slice.modTile, sget_sset_same, productElems_clean, hfold, if_pos hi]

/-- The signed product of two numbers given by sign and magnitude. -/
theorem signed_mul (i j : Int) : (if (decide (i < 0) != decide (j < 0)) = true then -((i.natAbs * j.natAbs : Nat) : Int)
    else ((i.natAbs * j.natAbs : Nat) : Int)) = i * j := by
  have habs (x : Int) : (x.natAbs : Int) = if x < 0 then -x else x := by split <;> omega
  rw [Nat.cast_mul, habs, habs]
  by_cases hi : i < 0 <;> by_cases hj : j < 0 <;> simp [hi, hj]

/-- An 8-bit integer operand. -/
theorem operandVal_i8 (x : Nat) : operandVal .i8 x
    = .fin (decide ((BitVec.ofNat 8 x).toInt < 0)) (BitVec.ofNat 8 x).toInt.natAbs 1 := by
  have h : intOf true 8 x = (BitVec.ofNat 8 x).toInt := by
    rw [intOf, if_pos rfl, sint, BitVec.toInt_eq_toNat_cond, BitVec.toNat_ofNat]
    by_cases hs : x % 2 ^ 8 < 2 ^ (8 - 1)
    · rw [if_pos hs, if_pos (by omega)]
    · rw [if_neg hs, if_neg (by omega)]
      norm_cast
  unfold operandVal
  dsimp only
  rw [show intOf (Ty.i8 == .i8) 8 x = _ from h]

/-- A panel of 8-bit integers holds its bytes as they are (R122, R125). -/
theorem panelVal_i8 (l : Slice) {p : Product} (hb : p.tb = .i8) (ctab : BitVec 128) (k n : Nat) : panelVal l p ctab k n
    = .fin (decide ((sget 0 l.wbuf (n * p.kp + k)).toInt < 0)) (sget 0 l.wbuf (n * p.kp + k)).toInt.natAbs 1 := by
  have hw : Ty.width .i8 / 8 = 1 := rfl
  have hc : Ty.isCode .i8 = false := rfl
  unfold panelVal
  rw [hb, hc, hw, if_neg Bool.false_ne_true, Nat.mul_one, operandVal_i8]
  have hbyte : BitVec.ofNat 8 (leNat (readBytes l.wbuf (n * p.kp + k) 1)) = sget 0 l.wbuf (n * p.kp + k) := by
    show BitVec.ofNat 8 ((sget 0 l.wbuf (n * p.kp + k)).toNat + 256 * 0) = _
    rw [Nat.mul_zero, Nat.add_zero, BitVec.ofNat_toNat, BitVec.setWidth_eq]
  rw [hbyte]

/-- An element of the integer mode after one signed product (R103). -/
theorem accFixed_int (e : BitVec 80) (i j : Int) : (accFixed 1 [] ⟨e, 0, none⟩
      (0, some (.fin (decide (i < 0)) i.natAbs 1, .fin (decide (j < 0)) j.natAbs 1))).el
    = BitVec.ofInt 80 (max (-2 ^ 79) (min (2 ^ 79 - 1) (e.toInt + i * j))) := by
  have hprod : mulExact (.fin (decide (i < 0)) i.natAbs 1) (.fin (decide (j < 0)) j.natAbs 1)
      = some (.fin (decide (i < 0) != decide (j < 0)) (i.natAbs * j.natAbs) (1 * 1)) := rfl
  have hclamp (lo hi x : Int) (h : lo ≤ hi) : clampInt lo hi x = max lo (min hi x) := by
    unfold clampInt
    split_ifs <;> omega
  unfold accFixed
  dsimp only [Option.map_some]
  rw [hprod]
  dsimp only
  rw [adder_clean, Nat.mul_one, Nat.mul_one, Nat.div_one, signed_mul]
  dsimp only
  rw [hclamp _ _ _ (by decide)]

/-- One column of 8-bit integers: element (m, n) gains A(m)·B(n). -/
theorem productElem_i8 (l : Slice) {p : Product} (ha : p.ta = .i8) (hb : p.tb = .i8) {y : ACol} (hy : y.ok = true) {m n : Nat} (hn : n < 16) :
    (productElem l p [y] (16 * m + n)).el
      = BitVec.ofInt 80 (max (-2 ^ 79) (min (2 ^ 79 - 1)
          ((if p.z ∨ (l.tile p.t).mode = .none then (0 : Int) else (sget 0 (l.tile p.t).el (16 * m + n)).toInt)
            + (BitVec.ofNat 8 (y.el.getD m 0)).toInt * (sget 0 l.wbuf (n * p.kp + p.koff)).toInt))) := by
  have h1 : (16 * m + n) / 16 = m := by omega
  have h2 : (16 * m + n) % 16 = n := by omega
  have hmode : modeOf .i8 = .int := rfl
  have hold : (if p.z ∨ (l.tile p.t).mode = .none then (0 : Int) else (sget 0 (l.tile p.t).el (16 * m + n)).toInt)
      = (if p.z ∨ (l.tile p.t).mode = .none then (0 : BitVec 80) else sget 0 (l.tile p.t).el (16 * m + n)).toInt := by
    split <;> rfl
  rw [hold, ← accFixed_int]
  unfold productElem
  rw [h1, h2, ha, hmode]
  simp only [List.length_cons, List.length_nil, List.range_succ, List.range_zero, List.nil_append, List.zip_cons_cons,
    List.zip_nil_right, List.map_cons, List.map_nil]
  rw [if_pos hy, operandVal_i8, panelVal_i8 l hb]
  rfl

/-! ### The end of a slice operation (R122, R128, R132) -/

/-- A core whose slice has let go of the head of its queue. -/
def poppedSlice (now : Nat) (c : Core) : Core :=
  { c with
    slice := { c.slice with queue := c.slice.queue.tail }
    ctl := { c.ctl with munit := { c.ctl.munit with last := max c.ctl.munit.last now } } }

/-- The operation has left the queue of core `k`, and the one behind it is to start. -/
def SliceLeft (k now : Nat) (srest : List SliceOp) (t : State) : Prop :=
  (t.core k).slice.queue = srest ∧ (srest ≠ [] → ⟨now, .sliceOpStart k⟩ ∈ t.agenda)

section
variable {k : Nat} {s u : State} {c : Core} {srest : List SliceOp}

theorem CoreGoes.popSlice (h : CoreGoes k s u c) : CoreGoes k s (u.popSlice k) (poppedSlice u.now c) := by
  have hgo := (h.modCore (fun c => { c with slice := { c.slice with queue := c.slice.queue.tail } })).modCore
    (fun c => { c with ctl := { c.ctl with munit := { c.ctl.munit with last := max c.ctl.munit.last u.now } } })
  unfold State.popSlice
  dsimp only
  split <;> exact hgo

theorem sliceLeft_popSlice (h : (u.core k).slice.queue.tail = srest) : SliceLeft k u.now srest (u.popSlice k) := by
  have hgo := ((coreGoes_refl k u).modCore (fun c => { c with slice := { c.slice with queue := c.slice.queue.tail } })).modCore
    (fun c => { c with ctl := { c.ctl with munit := { c.ctl.munit with last := max c.ctl.munit.last u.now } } })
  have hqueue := (congrArg (fun c : Core => c.slice.queue) hgo.1).trans h
  refine ⟨(congrArg (fun c : Core => c.slice.queue) ((coreGoes_refl k u).popSlice).1).trans h, fun hne => ?_⟩
  unfold State.popSlice
  dsimp only
  split
  · next hnil => exact absurd (hqueue.symm.trans hnil) hne
  · exact (mem_agendaInsert _ _ _).mpr (.inl rfl)

end

/-- What an operation leaves at its end, before it leaves the queue. -/
def sliceEnded (s : State) (k : Nat) (o : SliceOp) : State :=
  match o.what with
  | .mma p _ _ => s.finishProduct k o p o.cols
  | .mzero t => s.modSlice k (fun l => l.modTile t (fun x => { x with el := [], mode := .none, pois := false, poisKind := 0, sat := false }))
  | .mscac _ _ _ => s.modCore k (fun c => applyAct (Machine.tierOf k) c o.ctx (.orFlags o.flags))
  | _ => s

section
variable {s : State} {k : Nat} {so : SliceOp} {srest : List SliceOp}

theorem sliceEnd_empty (he : s.event = some (.sliceOpComplete k)) (hq : NoneDue s k) (hnone : (s.core k).slice.queue = []) :
    exec .sliceOpComplete s = .next s := by
  show execSliceOpComplete s = _
  unfold execSliceOpComplete
  rw [he]
  dsimp only
  rw [settle_noneDue hq, hnone]

theorem sliceEnd_row (he : s.event = some (.sliceOpComplete k)) (hq : NoneDue s k) (hqueue : (s.core k).slice.queue = so :: srest) :
    exec .sliceOpComplete s = .next ((sliceEnded s k so).popSlice k) := by
  show execSliceOpComplete s = _
  unfold execSliceOpComplete
  rw [he]
  dsimp only
  rw [settle_noneDue hq, hqueue]
  rfl

end

/-- Flags ORed into those of a context of a core. -/
def orFlags (c : Core) (i : Nat) (f : FlagSet) : Core := c.modCtx i (fun x => { x with flags := x.flags ||| f })

theorem orFlags_ctx (c : Core) (i : Nat) (f : FlagSet) : (orFlags c i f).ctx i = { c.ctx i with flags := (c.ctx i).flags ||| f } := by
  rw [orFlags, Core.modCtx, ctx_setCtx, if_pos rfl]

/-- A product changes its tile alone. -/
theorem accumulate_modTile (l : Slice) (p : Product) (cols : List ACol) (sl : List Slip) :
    ∃ f, (l.accumulate p cols sl).1 = l.modTile p.t f := by
  unfold Slice.accumulate
  dsimp only
  exact ⟨_, rfl⟩

theorem accumulate_wpois (l : Slice) (p : Product) (cols : List ACol) (sl : List Slip) : (l.accumulate p cols sl).1.wpois = l.wpois := by
  obtain ⟨f, h⟩ := accumulate_modTile l p cols sl
  rw [h]
  rfl

theorem accumulate_queue (l : Slice) (p : Product) (cols : List ACol) (sl : List Slip) : (l.accumulate p cols sl).1.queue = l.queue := by
  obtain ⟨f, h⟩ := accumulate_modTile l p cols sl
  rw [h]
  rfl

/-- A core once a product is in its tile. -/
def productDone (c : Core) (o : SliceOp) (p : Product) (cols : List ACol) : Core :=
  orFlags { c with slice := (c.slice.accumulate p cols o.slips).1 } o.ctx (c.slice.accumulate p cols o.slips).2.1

theorem productDone_slice (c : Core) (o : SliceOp) (p : Product) (cols : List ACol) :
    (productDone c o p cols).slice = (c.slice.accumulate p cols o.slips).1 := by
  unfold productDone
  generalize c.slice.accumulate p cols o.slips = r
  rfl

theorem productDone_queue (c : Core) (o : SliceOp) (p : Product) (cols : List ACol) :
    (productDone c o p cols).slice.queue = c.slice.queue := by rw [productDone_slice, accumulate_queue]

section
variable {s : State} {k : Nat} {so : SliceOp} {srest : List SliceOp} {p : Product} {cols : List ACol}

theorem finishProduct_unmarked (hm : (s.core k).slice.wpois = []) : s.finishProduct k so p cols
    = (s.modCore k (fun c => orFlags { c with slice := ((s.core k).slice.accumulate p cols so.slips).1 } so.ctx
        ((s.core k).slice.accumulate p cols so.slips).2.1)).residue k so p.t ((s.core k).slice.accumulate p cols so.slips).2.2 := by
  have hmark : ((s.core k).slice.accumulate p cols so.slips).1.marked ((List.range 16).map (panelSpan p)) = false := by
    rw [Slice.marked, accumulate_wpois, hm]
    rfl
  unfold State.finishProduct
  dsimp only
  rw [if_neg (by rw [hmark]; exact Bool.false_ne_true)]
  rfl

/-- A product without a mismatch and without a marked line changes its core alone (R122). -/
theorem coreGoes_product (hm : (s.core k).slice.wpois = []) (hs : so.slips = []) :
    CoreGoes k s (s.finishProduct k so p cols) (productDone (s.core k) so p cols) := by
  rw [finishProduct_unmarked hm, hs, accumulate_clean]
  have := (coreGoes_refl k s).modCore (fun c => orFlags { c with slice := ((s.core k).slice.accumulate p cols []).1 } so.ctx
    ((s.core k).slice.accumulate p cols []).2.1)
  rw [productDone, hs]
  exact this

/-- A residue mismatch poisons the tile (R136). -/
theorem product_poisoned (hm : (s.core k).slice.wpois = []) {x : Nat × Nat} (hx : ((s.core k).slice.accumulate p cols so.slips).2.2 = some x) :
    CoreGoes k s (s.finishProduct k so p cols)
      { productDone (s.core k) so p cols with slice := (productDone (s.core k) so p cols).slice.poison p.t 2 } := by
  have hgo := ((coreGoes_refl k s).modCore (fun c => orFlags { c with slice := ((s.core k).slice.accumulate p cols so.slips).1 } so.ctx
    ((s.core k).slice.accumulate p cols so.slips).2.1)).modCore (fun c => { c with slice := c.slice.poison p.t 2 })
  rw [finishProduct_unmarked hm, hx]
  exact hgo.of_cores (record_cores _ _ _)

end

section
variable {s : State} {k : Nat} {so : SliceOp} {srest : List SliceOp} (hq : NoneDue s k)
  (hqueue : (s.core k).slice.queue = so :: srest)
include hq hqueue

/-- An operation of which only this core changes before it leaves the queue. -/
theorem sliceEnds {c : Core} (hgo : ∀ _he : s.event = some (.sliceOpComplete k), CoreGoes k s (sliceEnded s k so) c)
    (hnow : (sliceEnded s k so).now = s.now) (hc : c.slice.queue.tail = srest) {P : State → Prop}
    (hP : ∀ t, SliceLeft k s.now srest t → CoreGoes k s t (poppedSlice s.now c) → P t) :
    Happens s (.sliceOpComplete k) .sliceOpComplete P := by
  intro he
  refine ⟨_, sliceEnd_row he hq hqueue, hP _ ?_ ?_⟩
  · rw [← hnow]
    exact sliceLeft_popSlice ((congrArg (fun c : Core => c.slice.queue.tail) (hgo he).1).trans hc)
  · rw [← hnow]
    exact (hgo he).popSlice

theorem ends_mzero {u : TileReg} (hw : so.what = .mzero u) : Happens s (.sliceOpComplete k) .sliceOpComplete (fun t =>
    SliceLeft k s.now srest t ∧ (∀ j, j ≠ k → t.core j = s.core j)
    ∧ ∀ w, (t.core k).slice.tile w = if w.toNat = u.toNat then
        { (s.core k).slice.tile w with el := [], mode := .none, pois := false, poisKind := 0, sat := false } else (s.core k).slice.tile w) := by
  have hend : sliceEnded s k so = s.modSlice k (fun l => l.modTile u (fun x =>
      { x with el := [], mode := .none, pois := false, poisKind := 0, sat := false })) := by
    rw [sliceEnded, hw]
  refine sliceEnds hq hqueue (c := { s.core k with slice := (s.core k).slice.modTile u (fun x =>
      { x with el := [], mode := .none, pois := false, poisKind := 0, sat := false }) })
    (fun _ => hend ▸ (coreGoes_refl k s).modCore _) (by rw [hend]; rfl) (congrArg List.tail hqueue) (fun t hl hgo => ⟨hl, hgo.2, fun w => ?_⟩)
  rw [hgo.1]
  show sget .reset (sset .reset (s.core k).slice.tiles u.toNat _) w.toNat = _
  rw [sget_sset]
  by_cases h : w.toNat = u.toNat
  · rw [if_pos h.symm, if_pos h, Slice.tile, Slice.tile, h]
  · rw [if_neg (Ne.symm h), if_neg h]
    rfl

theorem ends_mscac {u : TileReg} {a b : Nat} (hw : so.what = .mscac u a b) : Happens s (.sliceOpComplete k) .sliceOpComplete (fun t =>
    SliceLeft k s.now srest t ∧ (∀ j, j ≠ k → t.core j = s.core j)
    ∧ (t.ctx (k, so.ctx)).flags = (s.ctx (k, so.ctx)).flags ||| so.flags ∧ (t.core k).slice.tiles = (s.core k).slice.tiles) := by
  have hend : sliceEnded s k so = s.modCore k (fun c => orFlags c so.ctx so.flags) := by
    rw [sliceEnded, hw]
    rfl
  refine sliceEnds hq hqueue (c := orFlags (s.core k) so.ctx so.flags)
    (fun _ => hend ▸ (coreGoes_refl k s).modCore _) (by rw [hend]; rfl) (congrArg List.tail hqueue) (fun t hl hgo => ⟨hl, hgo.2, ?_, ?_⟩)
  · rw [hgo.ctx]
    exact congrArg Ctx.flags (orFlags_ctx _ _ _)
  · rw [hgo.1]
    rfl

theorem ends_mrd {d : VecReg} {u : TileReg} {y : Ty} {z : Bool} {r : Nat} (hw : so.what = .mrd d u y z r) :
    Happens s (.sliceOpComplete k) .sliceOpComplete (fun t => SliceLeft k s.now srest t ∧ (∀ j, j ≠ k → t.core j = s.core j)
      ∧ (t.core k).slice.tiles = (s.core k).slice.tiles) := by
  have hend : sliceEnded s k so = s := by rw [sliceEnded, hw]
  refine sliceEnds hq hqueue (c := s.core k) (fun _ => hend.symm ▸ coreGoes_refl k s) (by rw [hend]) (congrArg List.tail hqueue)
    (fun t hl hgo => ⟨hl, hgo.2, ?_⟩)
  rw [hgo.1]
  rfl

theorem ends_mma {p : Product} {a : Nat} {n : Option Nat} (hw : so.what = .mma p a n) (hm : (s.core k).slice.wpois = []) (hs : so.slips = []) :
    Happens s (.sliceOpComplete k) .sliceOpComplete (fun t => SliceLeft k s.now srest t
      ∧ (t.core k).slice.tiles = ((s.core k).slice.accumulate p so.cols []).1.tiles) := by
  have hend : sliceEnded s k so = s.finishProduct k so p so.cols := by rw [sliceEnded, hw]
  have hnow : (s.finishProduct k so p so.cols).now = s.now := by
    rw [finishProduct_unmarked hm, hs, accumulate_clean]
    rfl
  refine sliceEnds hq hqueue (fun _ => hend ▸ coreGoes_product hm hs) (by rw [hend, hnow]) ?_ (fun t hl hgo => ⟨hl, ?_⟩)
  · rw [productDone_queue, hqueue]
    rfl
  · rw [hgo.1, ← hs, ← productDone_slice]
    generalize productDone (s.core k) so p so.cols = c
    rfl

theorem ends_slipped {p : Product} {a : Nat} {n : Option Nat} (hw : so.what = .mma p a n) (hm : (s.core k).slice.wpois = []) {x : Nat × Nat}
    (hx : ((s.core k).slice.accumulate p so.cols so.slips).2.2 = some x) :
    Happens s (.sliceOpComplete k) .sliceOpComplete (fun t => SliceLeft k s.now srest t ∧ ((t.core k).slice.tile p.t).pois = true
      ∧ ((t.core k).slice.tile p.t).poisKind = 2) := by
  have hend : sliceEnded s k so = s.finishProduct k so p so.cols := by rw [sliceEnded, hw]
  have hnow : (s.finishProduct k so p so.cols).now = s.now := by
    rw [finishProduct_unmarked hm, hx]
    exact record_now _ _ _
  have hgo := product_poisoned (cols := so.cols) hm hx
  have hdone := productDone_queue (s.core k) so p so.cols
  generalize productDone (s.core k) so p so.cols = d at hgo hdone
  have htile (t : State) (hgo : CoreGoes k s t (poppedSlice s.now { d with slice := d.slice.poison p.t 2 })) :
      (t.core k).slice.tile p.t = { d.slice.tile p.t with pois := true, poisKind := 2 } := by
    rw [hgo.1]
    exact sget_sset_same _ _ _ _
  refine sliceEnds hq hqueue (fun _ => hend ▸ hgo) (by rw [hend, hnow]) ?_ (fun t hl hgo => ⟨hl, ?_, ?_⟩)
  · show d.slice.queue.tail = srest
    rw [hdone, hqueue]
    rfl
  · rw [htile t hgo]
  · rw [htile t hgo]

/-- MWLD_COMPLETE (R124, R423). -/
theorem ends_mwld {w : WTag} {a : Nat} (hw : so.what = .mwld w a) : Happens s (.mwldComplete k) .mwldComplete (fun t =>
    SliceLeft k s.now srest t ∧ (t.core k).slice.wtag = w ∧ (t.core k).slice.wvalid = true ∧ (t.core k).slice.wpois = so.marks
    ∧ ∀ j, j ≠ k → t.core j = s.core j) := by
  intro he
  let v := s.modSlice k (fun l => { l with wtag := w, wvalid := true, wpois := so.marks, wfrom := (a, so.pc) })
  have hrow : exec .mwldComplete s = .next (v.popSlice k) := by
    show execMwldComplete s = _
    unfold execMwldComplete
    rw [he]
    dsimp only
    rw [settle_noneDue hq, hqueue]
    dsimp only
    rw [hw]
  have hgo : CoreGoes k s v _ := (coreGoes_refl k s).modCore _
  have hpop := hgo.popSlice
  refine ⟨_, hrow, ?_, ?_, ?_, ?_, hpop.2⟩
  · exact sliceLeft_popSlice ((congrArg (fun c : Core => c.slice.queue.tail) hgo.1).trans (congrArg List.tail hqueue))
  · rw [hpop.1]; rfl
  · rw [hpop.1]; rfl
  · rw [hpop.1]; rfl

end

/-! ### MMAS ends (R133) -/

theorem OnlyCtx.slice {q : Nat × Nat} {s t : State} (h : OnlyCtx q s t) (j : Nat) : (t.core j).slice = (s.core j).slice := by
  by_cases hj : j = q.1
  · rw [hj]
    exact (congrArg Core.slice h.rest :)
  · rw [h.others j hj]

theorem slice_land (s : State) (q : Nat × Nat) (m : MsgReg) (f : Msg → Msg) (v : DWord) (j : Nat) :
    ((land s q m f v).core j).slice = (s.core j).slice := by
  have hput := (put_only s q m f).slice j
  by_cases h1 : ∃ m', (s.ctx q).run = .gated (.msg m')
  · obtain ⟨m', hr⟩ := h1
    rw [land_msg s q m f v hr]
    split
    · exact ((onlyCtx_modCtx q (put s q m f) _).slice j).trans hput
    · exact hput
  · by_cases h2 : ∃ d m' y z, (s.ctx q).run = .gated (.twait d m' y z)
    · obtain ⟨d, m', y, z, hr⟩ := h2
      rw [land_twait s q m f v hr]
      split
      · let u := (put s q m f).cancel (.twaitExpiry q.1 q.2)
        obtain ⟨⟨hu, -, -⟩, -, -⟩ := finish_gated (s := u) (d := d) (v := v) ((put_run s q m f).trans hr) u.now
        exact (hu.slice j).trans hput
      · exact hput
    · rw [land_idle s q m f v (fun m' h => h1 ⟨m', h⟩) (fun d m' y z h => h2 ⟨d, m', y, z, h⟩)]
      exact hput

section
variable {s u : State} {k : Nat} {so : SliceOp} {srest : List SliceOp} {p : Product} {cb : Nat} {base : DWord} {stride : Nat} {m : MsgReg}

theorem mmas_between (hcyc : s.now % cyc k ≠ 0) : Happens s (.mmasComplete k) .mmasComplete
    (fun t => t = s.post (ceilTo (cyc k) s.now) (.mmasComplete k)) := by
  intro he
  refine ⟨_, ?_, rfl⟩
  show execMmasComplete s = _
  unfold execMmasComplete
  rw [he]
  dsimp only
  rw [if_pos hcyc]

theorem mmas_ends {rows : List (List Gathered)} (hq : NoneDue s k) (hqueue : (s.core k).slice.queue = so :: srest)
    (hw : so.what = .mmas p cb base stride m) (hcyc : s.now % cyc k = 0) (hloud : so.quiet = false)
    (hg : s.gather k p base stride (.mmasComplete k) = (some rows, u)) (hall : ∀ j, j < p.k → lostIn (p.ta.width / 8) rows j = none)
    (hu : (u.core k).slice.queue = [so]) (hm : (u.core k).slice.wpois = []) (hs : so.slips = []) :
    Happens s (.mmasComplete k) .mmasComplete (fun t => (t.core k).slice.queue = []
      ∧ (t.core k).slice.tiles = ((u.core k).slice.accumulate p (gatheredColumns p (u.core k).ctab rows) []).1.tiles
      ∧ ((t.ctx (k, so.ctx)).msg m).full = true ∧ ((t.ctx (k, so.ctx)).msg m).data = BitVec.ofNat 512 (cb * 2 ^ 8)) := by
  intro he
  have hlost : (List.range p.k).findSome? (lostIn (p.ta.width / 8) rows) = none :=
    List.findSome?_eq_none_iff.mpr (fun j hj => hall j (List.mem_range.mp hj))
  have hidle : s.settle k (s.now - 1) = s :=
    settle_idle s k _ (fun x hx => Nat.lt_of_le_of_lt (Nat.sub_le _ _) (hq x (List.mem_of_mem_head? hx)))
  let v := ((u.forget (.mmasComplete k)).finishProduct k so p (gatheredColumns p (u.core k).ctab rows)).popSlice k
  have hrow : exec .mmasComplete s = .next (v.fillMsg (k, so.ctx) m (mmasMessage 0 cb) false) := by
    show execMmasComplete s = _
    unfold execMmasComplete
    rw [he]
    dsimp only
    rw [if_neg (not_not.mpr hcyc), hidle, hqueue]
    dsimp only
    rw [hw]
    dsimp only
    rw [hg]
    dsimp only
    rw [hlost]
    unfold State.tellMmas
    rw [hloud, if_neg Bool.false_ne_true]
    rfl
  have hcore : (u.forget (.mmasComplete k)).core k = u.core k := rfl
  have hgo : CoreGoes k u v _ := CoreGoes.popSlice ((coreGoes_product (s := u.forget (.mmasComplete k)) (k := k) (so := so) (p := p)
    (cols := gatheredColumns p (u.core k).ctab rows) hm hs) : CoreGoes k u _ _)
  rw [hcore] at hgo
  have hdone := productDone_queue (u.core k) so p (gatheredColumns p (u.core k).ctab rows)
  have hdone' := productDone_slice (u.core k) so p (gatheredColumns p (u.core k).ctab rows)
  generalize productDone (u.core k) so p (gatheredColumns p (u.core k).ctab rows) = d at hgo hdone hdone'
  have hslice : ((v.fillMsg (k, so.ctx) m (mmasMessage 0 cb) false).core k).slice = { d.slice with queue := d.slice.queue.tail } := by
    rw [fillMsg_eq, slice_land, hgo.1]
    rfl
  obtain ⟨-, hmsg, -⟩ := fills_fillMsg v (k, so.ctx) m (mmasMessage 0 cb)
  have hmsg := (hmsg m).trans (if_pos rfl)
  refine ⟨_, hrow, ?_, ?_, ?_, ?_⟩
  · rw [hslice]
    show d.slice.queue.tail = []
    rw [hdone, hu]
    rfl
  · rw [hslice]
    show d.slice.tiles = _
    rw [hdone', hs]
  · rw [hmsg]
    rfl
  · rw [hmsg]
    show mmasMessage 0 cb = _
    rw [mmasMessage, Nat.zero_add]

end

/-! ### The barrier of a gang (R121, R343) -/

section
variable {s : State} {k : Nat}

/-- The state in which a member whose barrier failed raises its trap. -/
def barrierFailed (s : State) (k : Nat) : State := (s.dropMmas k).modSlice k (fun l => { l with ganged := false })

/-- The phase of a core is at its third cycle at the least. -/
def phaseThird (s : State) (k : Nat) : Bool :=
  match (s.core k).ctl.phase with
  | some p => decide (p.start + 3 * cyc k ≤ s.now)
  | none => false

theorem barrier_row (he : s.event = some (.gangBarrierTimeout k)) : exec .gangBarrierTimeout s
    = .next (if (!(s.core k).timed 0) = true ∨ (s.core k).ctl.stopped = true ∨ (!phaseThird s k) = true
        ∨ (!(s.core k).slice.short) = true then s
      else (barrierFailed s k).takeTrap (k, 0) (s.issuedWord (k, 0)) (.timing 3)) := by
  show execGangBarrierTimeout s = _
  unfold execGangBarrierTimeout
  rw [he]
  rfl

theorem barrier_holds (h : (s.core k).timed 0 = false ∨ (s.core k).ctl.stopped = true ∨ (s.core k).slice.short = false
    ∨ (s.core k).ctl.phase = none) : Happens s (.gangBarrierTimeout k) .gangBarrierTimeout (fun t => t = s) := by
  intro he
  refine ⟨_, barrier_row he, if_pos ?_⟩
  rcases h with h | h | h | h
  · exact .inl (by rw [h]; rfl)
  · exact .inr (.inl h)
  · exact .inr (.inr (.inr (by rw [h]; rfl)))
  · exact .inr (.inr (.inl (by rw [phaseThird, h]; rfl)))

theorem barrier_early {ph : Phase} (hph : (s.core k).ctl.phase = some ph) (h : s.now < ph.start + 3 * cyc k) :
    Happens s (.gangBarrierTimeout k) .gangBarrierTimeout (fun t => t = s) := by
  intro he
  refine ⟨_, barrier_row he, if_pos (.inr (.inr (.inl ?_)))⟩
  rw [phaseThird, hph]
  dsimp only
  rw [decide_eq_false (Nat.not_le.mpr h)]
  rfl

/-- An MMA of c0 that has not started, which a failed barrier drops. -/
def waitsForGang (o : SliceOp) : Bool := o.ctx == 0 && o.started.isNone && (match o.what with
  | .mma _ _ _ => true
  | _ => false)

theorem dropMmas_core (s : State) (k : Nat) : (s.dropMmas k).core k
    = { s.core k with slice := { (s.core k).slice with queue := (s.core k).slice.queue.filter (fun o => !waitsForGang o) } } := by
  have hgo := ((coreGoes_refl k s).modCore (fun c => { c with slice := { c.slice with
    queue := (s.core k).slice.queue.filter (fun o => !waitsForGang o) } })).1
  unfold State.dropMmas
  dsimp only
  split
  · split <;> exact hgo
  · exact hgo

theorem barrier_fails {ph : Phase} (ht : (s.core k).timed 0 = true) (hst : (s.core k).ctl.stopped = false)
    (hph : (s.core k).ctl.phase = some ph) (h : ph.start + 3 * cyc k ≤ s.now) (hs : (s.core k).slice.short = true) :
    Happens s (.gangBarrierTimeout k) .gangBarrierTimeout (fun t =>
      t = (barrierFailed s k).takeTrap (k, 0) (s.issuedWord (k, 0)) (.timing 3)
      ∧ ∀ o ∈ ((barrierFailed s k).core k).slice.queue, o ∈ (s.core k).slice.queue
        ∧ ∀ p a n, o.what = .mma p a n → o.ctx = 0 → o.started ≠ none) := by
  intro he
  have hthird : phaseThird s k = true := by
    rw [phaseThird, hph]
    exact decide_eq_true h
  refine ⟨_, barrier_row he, if_neg ?_, fun o ho => ?_⟩
  · rw [ht, hst, hthird, hs]
    simp
  · have hcore : ((barrierFailed s k).core k).slice.queue = ((s.dropMmas k).core k).slice.queue :=
      (congrArg Slice.queue (slice_modSlice_same (s.dropMmas k) k (fun l => { l with ganged := false })) :)
    rw [hcore, dropMmas_core] at ho
    obtain ⟨hmem, hkeep⟩ := List.mem_filter.mp ho
    refine ⟨hmem, fun p a n hw hc hnone => ?_⟩
    rw [waitsForGang, hw, hc, hnone] at hkeep
    exact absurd hkeep Bool.false_ne_true

end

end Sys2Proof.Proofs
end

section
/-! PROOFS. The lanes' own steps (R138 to R152): when an operation starts and ends, what a prolongation and a merge write, and how a
lane changes its state. -/

namespace Sys2Proof.Proofs

open Sys2Proof.Machine Sys2Proof.Safety Sys2Proof.Laws

/-! ### Cores with nothing due, and a port's write -/

section
variable {s t : State} {k : Nat}

theorem settleN_none (h : NoneDue s k) (ok : Act → Bool) : ∀ n : Nat, s.settleN k s.now ok n = s
  | 0 => rfl
  | n + 1 => by
    rw [State.settleN]
    split
    · rfl
    · next p r hp => exact if_neg (fun hd => absurd hd.1 (Nat.not_le.mpr (h p (by rw [hp]; exact List.mem_cons_self))))

/-- With nothing due there is nothing to settle below a rank either. -/
theorem settleBelow_none (h : NoneDue s k) (rank : Nat) : s.settleBelow k s.now rank = s := by
  have hacts : ((s.core k).pend.filter (fun p => decide (p.due ≤ s.now ∧ p.act.rank < rank))).map (·.act) = [] := by
    rw [List.map_eq_nil_iff, List.filter_eq_nil_iff]
    exact fun p hp hd => absurd (of_decide_eq_true hd).1 (Nat.not_le.mpr (h p hp))
  have hfold : ∀ l : List Nat, l.foldl (fun s i => match (s.ctx (k, i)).monitor with
      | some a => if ([] : List Act).any (Act.writes (a / 8)) then s.watch k (a / 8) else s
      | none => s) s = s := by
    intro l
    induction l with
    | nil => rfl
    | cons i l ih =>
      rw [List.foldl_cons]
      split
      · exact ih
      · exact ih
  unfold State.settleBelow
  dsimp only
  rw [hacts, settleN_none h]
  exact hfold _

end

section
variable {c : Core} {tier : Nat} {h : Held} (hport : h.port ≠ 3)
include hport

/-- Another port's write changes near memory and its poison alone. -/
theorem applyHeld_rest : { c.applyHeld tier h with near := [], poison := [] } = { c with near := [], poison := [] } := by
  have hfold : ∀ (l : List Nat) (c : Core), { l.foldl (fun c w => c.poisonWord w) c with near := [], poison := [] }
      = { c with near := [], poison := [] } := by
    intro l
    induction l with
    | nil => exact fun c => rfl
    | cons w l ih => exact fun c => (ih _).trans rfl
  unfold Core.applyHeld
  rw [if_neg hport]
  exact (hfold _ _).trans rfl

theorem applyHeld_near : (c.applyHeld tier h).near = writeBytes c.near h.addr h.bytes := by
  have hfold : ∀ (l : List Nat) (c : Core), (l.foldl (fun c w => c.poisonWord w) c).near = c.near := by
    intro l
    induction l with
    | nil => exact fun c => rfl
    | cons w l ih => exact fun c => (ih _).trans rfl
  unfold Core.applyHeld
  rw [if_neg hport]
  exact hfold _ _

end

/-- A write of another agent's port that alone is due takes effect, and nothing else (R179). -/
theorem settle_held {t : State} {home now : Nat} {h : Held} {r : List Pend} (hport : h.port ≠ 3)
    (hp : (t.core home).pend = ⟨now, 4, .port h⟩ :: r) (hr : ∀ p ∈ r, now < p.due) (hrmw : (t.core home).ctl.rmw = [])
    (hmon : ∀ j, j < 4 → ((t.core home).ctx j).monitor = none) :
    ((t.settle home now).core home).near = writeBytes (t.core home).near h.addr h.bytes := by
  let u := (t.modCore home (fun c => { c with pend := r })).modCore home (fun c => c.applyHeld (Machine.tierOf home) h)
  have happly : State.applyPend (t.modCore home (fun c => { c with pend := r })) home ⟨now, 4, .port h⟩ = u := by
    have hw (c : Core) (own : Option Nat) (hc : c.ctl.rmw = []) : c.writeBy (Machine.tierOf home) now own h = c.applyHeld (Machine.tierOf home) h := by
      unfold Core.writeBy
      rw [hc]
      rfl
    show (t.modCore home (fun c => { c with pend := r })).modCore home (fun c => c.writeBy (Machine.tierOf home) now _ h) = u
    show State.setCore _ _ _ = State.setCore _ _ _
    congr 1
    refine hw _ _ ?_
    rw [core_modCore_same]
    exact hrmw
  have hucore : u.core home = ({ t.core home with pend := r } : Core).applyHeld (Machine.tierOf home) h := by
    show (State.modCore _ _ _).core home = _
    rw [core_modCore_same, core_modCore_same]
  have hrest : { u.core home with near := [], poison := [] } = ({ t.core home with pend := r, near := [], poison := [] } : Core) := by
    rw [hucore]
    exact applyHeld_rest hport
  have hupend : (u.core home).pend = r := (congrArg Core.pend hrest :)
  have hstop : u.settleN home now (fun _ => true) (2 * (r.length + 1) + 63) = u := by
    rw [State.settleN, hupend]
    cases r with
    | nil => rfl
    | cons p r => exact if_neg (fun h => absurd h.1 (Nat.not_le.2 (hr p List.mem_cons_self)))
  have hn : t.settleN home now (fun _ => true) (2 * (r.length + 1) + 64) = u := by
    rw [show 2 * (r.length + 1) + 64 = (2 * (r.length + 1) + 63) + 1 from rfl, State.settleN, hp]
    show (if now ≤ now ∧ true = true then _ else _) = u
    rw [if_pos ⟨Nat.le_refl _, rfl⟩, happly, hstop]
  have humon : ∀ j, j < 4 → ((u.core home).ctx j).monitor = none := fun j hj =>
    (congrArg (fun c : Core => (c.ctx j).monitor) hrest :).trans (hmon j hj)
  have heq : t.settle home now = u := by
    unfold State.settle
    rw [hp]
    show (if now ≤ now then _ else _) = u
    rw [if_pos (Nat.le_refl _), List.length_cons, hn, checkMonitors_unwatched humon]
  rw [heq, hucore]
  exact applyHeld_near hport

/-! ### A merge of one word (R145) -/

/-- What a merge does to one word of a bank. -/
def mergeOne (s : State) (home q : Nat) (cs : List (Bool × Word)) : State :=
  let co := s.core home
  let r := mergeWord (co.readNat q 4) cs
  let bad := co.bad q && !(match cs with | (o, _) :: _ => o | [] => true)
  let s := if (cs.head?.map (·.1)).getD true then s else s.correct home q 4
  let s := s.portStore .other home 2 q (leBytes 4 r.1) (if bad then [q] else [])
  s.modCore home (fun c => applyAct (Machine.tierOf home) c 0 (.orFlags r.2))

/-- What a merge puts under way for one word. -/
def mergePend (s : State) (home q : Nat) (cs : List (Bool × Word)) (bad : List Nat) : Pend :=
  ⟨s.now, 4, .port ⟨2, q, leBytes 4 (mergeWord ((s.core home).readNat q 4) cs).1, bad, false, .other⟩⟩

section
variable {s : State} {home q : Nat} {cs : List (Bool × Word)}

theorem mergeInto_one {sets : List Contribution} (hq : NoneDue s home) (hd : distinct (sets.flatMap (fun c => c.vals.map (·.1))) = [q])
    (hc : sets.filterMap (fun c => (c.vals.find? (fun v => v.1 == q)).map (fun v => (c.ovw, v.2))) = cs) :
    s.mergeInto home sets = mergeOne s home q cs := by
  have hs : s.settlePorts home s.now = s := settleBelow_none hq 3
  unfold State.mergeInto
  dsimp only
  rw [hs, hd, List.foldl_cons, List.foldl_nil, hc]
  rfl

theorem mergeOne_core (s : State) (home q : Nat) (cs : List (Bool × Word)) : ∃ bad, CoreGoes home s (mergeOne s home q cs)
    (orFlags { s.core home with pend := pendInsert (mergePend s home q cs bad) (s.core home).pend } 0
      (mergeWord ((s.core home).readNat q 4) cs).2) := by
  have hcorrect : ∀ b : Bool, (if b = true then s else s.correct home q 4).cores = s.cores := by
    intro b
    split
    · rfl
    · exact count_cores _ _ _
  have hnow : ∀ b : Bool, (if b = true then s else s.correct home q 4).now = s.now := by
    intro b
    split
    · rfl
    · exact count_now _ _ _
  unfold mergeOne
  extract_lets co r bad u v
  refine ⟨if bad then [q] else [], ?_⟩
  have hu := (coreGoes_refl home s).of_cores (u := u) (hcorrect _)
  have hgo := (hu.modCore (fun c => c.pendAt s.now 4 (.port ⟨2, q, leBytes 4 r.1, if bad then [q] else [], false, .other⟩))).modCore
    (fun c => orFlags c 0 r.2)
  have hport : v = u.modCore home (fun c => c.pendAt s.now 4 (.port ⟨2, q, leBytes 4 r.1, if bad then [q] else [], false, .other⟩)) := by
    show State.portStore _ _ _ _ _ _ _ = _
    unfold State.portStore
    rw [if_neg (by decide), hnow]
  rw [hport]
  exact hgo

/-- After a merge the word is written when its cycle settles. -/
theorem mergeOne_near (hq : NoneDue s home) (hrmw : (s.core home).ctl.rmw = [])
    (hmon : ∀ j, j < 4 → ((s.core home).ctx j).monitor = none) (b : Nat) :
    nearByte ((mergeOne s home q cs).settle home s.now) home b
      = if q ≤ b ∧ b < q + 4 then BitVec.ofNat 8 ((mergeWord (coreNat s home q 4) cs).1 / 2 ^ (8 * (b - q))) else nearByte s home b := by
  obtain ⟨bad, hgo⟩ := mergeOne_core s home q cs
  have hpend : ((mergeOne s home q cs).core home).pend = mergePend s home q cs bad :: (s.core home).pend := by
    rw [hgo.1]
    exact pendInsert_first hq
  have hctx (j : Nat) : (((mergeOne s home q cs).core home).ctx j).monitor = ((s.core home).ctx j).monitor := by
    rw [hgo.1, orFlags, Core.modCtx, ctx_setCtx]
    split
    · next h => subst h; rfl
    · rfl
  unfold nearByte
  rw [settle_held (by decide : (2 : Nat) ≠ 3) hpend hq (by rw [hgo.1]; exact hrmw) (fun j hj => (hctx j).trans (hmon j hj))]
  have hnear : ((mergeOne s home q cs).core home).near = (s.core home).near := by rw [hgo.1]; rfl
  rw [hnear, ← readNat_eq_coreNat]
  exact sget_writeBytes_le _ _ _ _ _

end

/-! ### An operation of a lane starts (R146, R148, R152) -/

/-- Parent and child raise TIMING 0x6, each where it runs timed code. -/
theorem laneTrap_eq (u : State) (k : Nat) : u.laneTrap k
    = (let fits (c : Core) : Bool := c.timed 0 && !c.ctl.stopped
       let w := (if fits (u.core (parentOf k)) then u.takeTrap (parentOf k, 0) (u.issuedWord (parentOf k, 0)) (.timing 6) else u)
       if (w.core k).timed 0 = true ∧ (w.core k).ctl.stopped = false then w.takeTrap (k, 0) (w.issuedWord (k, 0)) (.timing 6) else w) := by
  have hone (v : State) (i : Nat) : (if (v.core i).timed 0 = true ∧ (!(v.core i).ctl.stopped) = true then
      v.takeTrap (i, 0) (v.issuedWord (i, 0)) (.timing 6) else v)
      = if ((v.core i).timed 0 && !(v.core i).ctl.stopped) = true then v.takeTrap (i, 0) (v.issuedWord (i, 0)) (.timing 6) else v := by
    exact if_congr (by rw [Bool.and_eq_true]) rfl rfl
  have hlast (v : State) : (if (v.core k).timed 0 = true ∧ (!(v.core k).ctl.stopped) = true then
      v.takeTrap (k, 0) (v.issuedWord (k, 0)) (.timing 6) else v)
      = if (v.core k).timed 0 = true ∧ (v.core k).ctl.stopped = false then v.takeTrap (k, 0) (v.issuedWord (k, 0)) (.timing 6) else v := by
    exact if_congr (by rw [Bool.not_eq_true']) rfl rfl
  unfold State.laneTrap
  simp only [List.foldl_cons, List.foldl_nil]
  rw [hone u (parentOf k), hlast]

section
variable {s : State} {k : Nat} {vo : VOp} (hops : (s.core k).vert.ops = [vo]) (hst : vo.startT = s.now)
include hops hst

theorem find_starting : (s.core k).vert.ops.find? (fun o => o.startT == s.now) = some vo := by
  rw [hops]
  exact List.find?_cons_of_pos (beq_iff_eq.mpr hst)

theorem laneStart_rstr (hl : vo.self = true ∨ s.laneBad k = false) (hr : vo.rstr = true) :
    Happens s (.verticalOpStart k) .verticalOpStart (fun t => t = s) := by
  intro he
  refine ⟨_, ?_, rfl⟩
  show execVerticalOpStart s = _
  unfold execVerticalOpStart
  rw [he]
  dsimp only
  rw [find_starting hops hst]
  dsimp only
  rw [if_neg (by rcases hl with h | h <;> rw [h] <;> simp), if_pos hr]

omit hst in
theorem loseVert_ops : ((s.loseVert k vo).core k).vert.ops = [{ vo with lost := true }] := by
  have h1 : ((s.modVert k (fun v => { v with
      ops := v.ops.map (fun (x : VOp) => if x.startT = vo.startT then { x with lost := true } else x) })).core k).vert.ops
      = [{ vo with lost := true }] := by
    rw [vert_modVert, if_pos rfl]
    show (s.core k).vert.ops.map _ = _
    rw [hops]
    exact congrArg (· :: []) (if_pos rfl)
  unfold State.loseVert
  dsimp only
  split
  · rw [vert_modVert]
    split
    · next h =>
      rw [h]
      exact h1
    · exact h1
  · exact h1

theorem laneStart_lost (hself : vo.self = false) (hbad : s.laneBad k = true) :
    Happens s (.verticalOpStart k) .verticalOpStart (fun t => t = (s.loseVert k vo).laneTrap k) := by
  intro he
  refine ⟨_, ?_, rfl⟩
  show execVerticalOpStart s = _
  unfold execVerticalOpStart
  rw [he]
  dsimp only
  rw [find_starting hops hst]
  dsimp only
  rw [if_pos (by rw [hself, hbad]; rfl)]

/-- A PRLG reads the coarse box from the parent's bank (R146). -/
theorem laneStart_prlg (hself : vo.self = false) (hbad : s.laneBad k = false) (hr : vo.rstr = false) (hq : NoneDue s (parentOf k)) :
    Happens s (.verticalOpStart k) .verticalOpStart (fun t => ∃ y, (t.core k).vert.ops = [y] ∧ y.desc = vo.desc ∧ y.lost = vo.lost
      ∧ y.vals = (points vo.desc.cx vo.desc.cy vo.desc.cz).map (fun j =>
          (vo.desc.coarseAt j, BitVec.ofNat 32 (coreNat s (parentOf k) (vo.bank + vo.desc.coarseAt j) 4)))) := by
  intro he
  let js := points vo.desc.cx vo.desc.cy vo.desc.cz
  let u := js.foldl (fun s j => s.correct (parentOf k) (vo.bank + vo.desc.coarseAt j) 4) s
  let vals := js.map (fun j => (vo.desc.coarseAt j, BitVec.ofNat 32 ((s.core (parentOf k)).readNat (vo.bank + vo.desc.coarseAt j) 4)))
  let pois := (js.map vo.desc.coarseAt).filter (fun q => (s.core (parentOf k)).bad (vo.bank + q))
  have hrow : exec .verticalOpStart s = .next (u.modVert k (fun v => { v with
      ops := v.ops.map (fun (x : VOp) => if x.startT = s.now then { x with vals := vals, pois := pois } else x) })) := by
    have hnow : u.now = s.now := by
      have hfold : ∀ (l : List (Nat × Nat × Nat)) (v : State),
          (l.foldl (fun s j => s.correct (parentOf k) (vo.bank + vo.desc.coarseAt j) 4) v).now = v.now := by
        intro l
        induction l with
        | nil => exact fun _ => rfl
        | cons j l ih => exact fun v => (ih _).trans (count_now _ _ _)
      exact hfold _ _
    show execVerticalOpStart s = _
    unfold execVerticalOpStart
    rw [he]
    dsimp only
    rw [find_starting hops hst]
    dsimp only
    rw [if_neg (by rw [hself, hbad]; simp), if_neg (by rw [hr]; simp), vertHome, hself, if_neg Bool.false_ne_true, settle_noneDue hq]
    show Host.Outcome.next (u.modVert k (fun v => { v with
      ops := v.ops.map (fun (x : VOp) => if x.startT = u.now then { x with vals := vals, pois := pois } else x) })) = _
    rw [hnow]
  have hcore : u.core k = s.core k := by
    have hfold : ∀ (l : List (Nat × Nat × Nat)) (v : State),
        (l.foldl (fun s j => s.correct (parentOf k) (vo.bank + vo.desc.coarseAt j) 4) v).core k = v.core k := by
      intro l
      induction l with
      | nil => exact fun _ => rfl
      | cons j l ih => exact fun v => (ih _).trans (count_core _ _ _ _)
    exact hfold _ _
  refine ⟨_, hrow, { vo with vals := vals, pois := pois }, ?_, rfl, rfl, ?_⟩
  · rw [vert_modVert, if_pos rfl, hcore]
    show (s.core k).vert.ops.map _ = _
    rw [hops]
    exact congrArg (· :: []) (if_pos hst)
  · exact List.map_congr_left (fun j _ => by rw [readNat_eq_coreNat])

end

/-! ### An operation of a lane ends (R144 to R146, R148) -/

/-- The operations of a core's lanes that end now have left it. -/
def lapsedVert (s : State) (k : Nat) : State :=
  s.modVert k (fun v => { v with ops := v.ops.filter (fun x => x.endT != s.now) })

theorem coreGoes_lapsed (s : State) (k : Nat) : CoreGoes k s (lapsedVert s k)
    { s.core k with vert := { (s.core k).vert with ops := (s.core k).vert.ops.filter (fun x => x.endT != s.now) } } :=
  (coreGoes_refl k s).modCore _

/-- Words written one behind another: a word that no other one touches holds what was written last to it, and bytes outside
all of them stay. -/
theorem foldl_words {α : Type} (addr : α → Nat) (val : α → Nat) (m : Sparse Byte) (l : List α) :
    (∀ f ∈ l, (∀ g ∈ l, g ≠ f → addr g + 4 ≤ addr f ∨ addr f + 4 ≤ addr g) → ∀ b, addr f ≤ b → b < addr f + 4 →
        sget 0 (l.foldl (fun m f => writeBytes m (addr f) (leBytes 4 (val f))) m) b = BitVec.ofNat 8 (val f / 2 ^ (8 * (b - addr f))))
    ∧ ∀ b, (∀ f ∈ l, b < addr f ∨ addr f + 4 ≤ b) →
        sget 0 (l.foldl (fun m f => writeBytes m (addr f) (leBytes 4 (val f))) m) b = sget 0 m b := by
  induction l using List.reverseRecOn with
  | nil => exact ⟨fun f hf => absurd hf List.not_mem_nil, fun _ _ => rfl⟩
  | append_singleton l x ih =>
    obtain ⟨ihw, iho⟩ := ih
    refine ⟨fun f hf hap b hb hb' => ?_, fun b hb => ?_⟩
    · rw [List.foldl_append, List.foldl_cons, List.foldl_nil, sget_writeBytes_le]
      by_cases hx : x = f
      · subst hx
        exact if_pos ⟨hb, hb'⟩
      · have := hap x (List.mem_append_right _ List.mem_cons_self) hx
        rw [if_neg (by omega)]
        have hf : f ∈ l := (List.mem_append.mp hf).resolve_right (fun h => hx (List.mem_singleton.mp h).symm)
        exact ihw f hf (fun g hg => hap g (List.mem_append_left _ hg)) b hb hb'
    · have := hb x (List.mem_append_right _ List.mem_cons_self)
      rw [List.foldl_append, List.foldl_cons, List.foldl_nil, sget_writeBytes_le, if_neg (by omega)]
      exact iho b (fun f hf => hb f (List.mem_append_left _ hf))

section
variable {s : State} {k : Nat} {vo : VOp}

theorem laneEnd_none (hnone : ∀ o ∈ (s.core k).vert.ops, o.endT ≠ s.now) :
    Happens s (.verticalOpEnd k) .verticalOpEnd (fun t => t = s) := by
  intro he
  have hfind : (s.core k).vert.ops.find? (fun o => o.endT == s.now) = none :=
    List.find?_eq_none.mpr (fun o ho h => hnone o ho (beq_iff_eq.mp h))
  refine ⟨_, ?_, rfl⟩
  show execVerticalOpEnd s = _
  unfold execVerticalOpEnd
  rw [he]
  dsimp only
  rw [hfind]

/-- What the end of an operation leaves. -/
def laneEnded (s : State) (k : Nat) (o : VOp) : State :=
  if o.lost then lapsedVert s k
  else if o.rstr then
    if o.self then ((lapsedVert s k).modCore k (fun c => orFlags c 0 o.flags)).mergeInto k [⟨0, 0, o.ovw, o.vals, o.endT⟩]
    else (lapsedVert s k).modCore k (fun c => orFlags c 0 o.flags)
  else (lapsedVert s k).finishPrlg k o

variable (hops : (s.core k).vert.ops = [vo]) (hend : vo.endT = s.now)
include hops hend

theorem find_ending : (s.core k).vert.ops.find? (fun o => o.endT == s.now) = some vo := by
  rw [hops]
  exact List.find?_cons_of_pos (beq_iff_eq.mpr hend)

theorem laneEnd_waits (hr : vo.rstr = false) (hx : s.expandsFirst k vo.issued = true) :
    Happens s (.verticalOpEnd k) .verticalOpEnd (fun t => t = s.post s.now (.verticalOpEnd k)) := by
  intro he
  refine ⟨_, ?_, rfl⟩
  show execVerticalOpEnd s = _
  unfold execVerticalOpEnd
  rw [he]
  dsimp only
  rw [find_ending hops hend]
  dsimp only
  rw [if_pos (by rw [hr, hx]; rfl)]

theorem laneEnd_row (he : s.event = some (.verticalOpEnd k)) (hx : vo.rstr = true ∨ s.expandsFirst k vo.issued = false) :
    exec .verticalOpEnd s = .next (laneEnded s k vo) := by
  show execVerticalOpEnd s = _
  unfold execVerticalOpEnd
  rw [he]
  dsimp only
  rw [find_ending hops hend]
  dsimp only
  rw [if_neg (by rcases hx with h | h <;> rw [h] <;> simp)]
  rfl

variable (hx : vo.rstr = true ∨ s.expandsFirst k vo.issued = false)
include hx

theorem laneEnd_lost (hl : vo.lost = true) : Happens s (.verticalOpEnd k) .verticalOpEnd (fun t =>
    (t.core k).vert.ops = (s.core k).vert.ops.filter (fun o => o.endT != s.now) ∧ (∀ j, j ≠ k → t.core j = s.core j)
    ∧ ∀ b, nearByte t k b = nearByte s k b) := by
  intro he
  have hgo := coreGoes_lapsed s k
  refine ⟨_, (laneEnd_row hops hend he hx).trans (congrArg Host.Outcome.next (if_pos hl)), ?_, hgo.2, fun b => ?_⟩
  · rw [hgo.1]
  · rw [nearByte, hgo.1]
    rfl

theorem laneEnd_rstr (hl : vo.lost = false) (hr : vo.rstr = true) (hself : vo.self = false) :
    Happens s (.verticalOpEnd k) .verticalOpEnd (fun t =>
      (t.core k).vert.ops = (s.core k).vert.ops.filter (fun o => o.endT != s.now) ∧ (∀ j, j ≠ k → t.core j = s.core j)
      ∧ (t.ctx (k, 0)).flags = (s.ctx (k, 0)).flags ||| vo.flags ∧ ∀ b, nearByte t k b = nearByte s k b) := by
  intro he
  have hgo := (coreGoes_lapsed s k).modCore (fun c => orFlags c 0 vo.flags)
  have hended : laneEnded s k vo = (lapsedVert s k).modCore k (fun c => orFlags c 0 vo.flags) := by
    rw [laneEnded, hl, hr, hself]
    rfl
  rw [← hended] at hgo
  refine ⟨_, laneEnd_row hops hend he hx, ?_, hgo.2, ?_, fun b => ?_⟩
  · rw [hgo.1]
    rfl
  · rw [hgo.ctx, orFlags_ctx]
    rfl
  · rw [nearByte, hgo.1]
    rfl

end

section
variable {s : State} {k : Nat} {vo : VOp}

/-- A restriction with SELF, once its flags have appeared. -/
def flagged (s : State) (k : Nat) (f : FlagSet) : State := (lapsedVert s k).modCore k (fun c => orFlags c 0 f)

theorem coreGoes_flagged (s : State) (k : Nat) (f : FlagSet) : CoreGoes k s (flagged s k f)
    (orFlags { s.core k with vert := { (s.core k).vert with ops := (s.core k).vert.ops.filter (fun x => x.endT != s.now) } } 0 f) :=
  (coreGoes_lapsed s k).modCore _

/-- The word that RSTR with SELF adds, or with OVW puts, in its own bank (R145). -/
theorem laneEnd_self (hops : (s.core k).vert.ops = [vo]) (hend : vo.endT = s.now) (hx : vo.rstr = true ∨ s.expandsFirst k vo.issued = false)
    {q : Nat} {v : Word} (hl : vo.lost = false) (hr : vo.rstr = true) (hself : vo.self = true) (hv : vo.vals = [(q, v)])
    (hq : NoneDue s k) (hrmw : (s.core k).ctl.rmw = []) (hmon : ∀ j, j < 4 → ((s.core k).ctx j).monitor = none) {r : Res Nat}
    (hres : r = addV f32 .rne (f32.decode (if vo.ovw then 0 else coreNat s k q 4)) (f32.decode v.toNat)) :
    Happens s (.verticalOpEnd k) .verticalOpEnd (fun t =>
      (t.core k).vert.ops = (s.core k).vert.ops.filter (fun o => o.endT != s.now) ∧ (∀ j, j ≠ k → t.core j = s.core j)
      ∧ (t.ctx (k, 0)).flags = (s.ctx (k, 0)).flags ||| vo.flags ||| r.flags
      ∧ ∀ b, nearByte (t.settle k s.now) k b
        = if q ≤ b ∧ b < q + 4 then BitVec.ofNat 8 (r.val / 2 ^ (8 * (b - q))) else nearByte s k b) := by
  intro he
  have hgo := coreGoes_flagged s k vo.flags
  have hqv : NoneDue (flagged s k vo.flags) k := by
    intro p hp
    rw [hgo.1] at hp
    exact hq p hp
  have hctx : (orFlags { s.core k with vert := { (s.core k).vert with ops := (s.core k).vert.ops.filter (fun x => x.endT != s.now) } } 0
      vo.flags).ctx 0 = { (s.core k).ctx 0 with flags := ((s.core k).ctx 0).flags ||| vo.flags } := orFlags_ctx _ _ _
  have hmonv : ∀ j, j < 4 → (((flagged s k vo.flags).core k).ctx j).monitor = none := by
    intro j hj
    rw [hgo.1, orFlags, Core.modCtx, ctx_setCtx]
    split
    · next h => subst h; exact hmon 0 (by decide)
    · exact hmon j hj
  have hold : coreNat (flagged s k vo.flags) k q 4 = coreNat s k q 4 := by
    unfold coreNat nearByte
    rw [hgo.1]
    rfl
  have hword : mergeWord (coreNat s k q 4) [(vo.ovw, v)] = (r.val, r.flags) := by
    rw [hres]
    exact congrArg (Prod.mk _) BitVec.zero_or
  have hended : laneEnded s k vo = mergeOne (flagged s k vo.flags) k q [(vo.ovw, v)] := by
    rw [laneEnded, hl, hr, hself, if_neg Bool.false_ne_true, if_pos rfl, if_pos rfl, hv]
    refine mergeInto_one hqv rfl ?_
    simp
  obtain ⟨bad, hmerge⟩ := mergeOne_core (flagged s k vo.flags) k q [(vo.ovw, v)]
  rw [readNat_eq_coreNat, hold, hword, hgo.1] at hmerge
  refine ⟨_, (laneEnd_row hops hend he hx).trans (congrArg Host.Outcome.next hended), ?_, fun j hj => (hmerge.2 j hj).trans (hgo.2 j hj),
    ?_, fun b => ?_⟩
  · rw [hmerge.1]
    rfl
  · rw [hmerge.ctx, orFlags_ctx]
    exact congrArg (fun x : Ctx => x.flags ||| r.flags) hctx
  · have hnow : s.now = (flagged s k vo.flags).now := rfl
    rw [hnow, mergeOne_near hqv (by rw [hgo.1]; exact hrmw) hmonv, hold, hword]
    refine congrArg (fun x => if q ≤ b ∧ b < q + 4 then _ else x) ?_
    rw [nearByte, hgo.1]
    rfl

/-- The sets of the four children of a parent are merged in their order (R145). -/
theorem rstrMerge_one {p q : Nat} {u v w z : Word} (hs : (s.core p).vert.sets = [⟨0, 0, true, [(q, u)], s.now⟩, ⟨1, 0, false, [(q, v)], s.now⟩,
      ⟨2, 0, false, [(q, w)], s.now⟩, ⟨3, 0, false, [(q, z)], s.now⟩])
    (hrmw : (s.core p).ctl.rmw = []) (hq : NoneDue s p) (hmon : ∀ j, j < 4 → ((s.core p).ctx j).monitor = none) :
    let plus (a b : Nat) : Nat := (addV f32 .rne (f32.decode a) (f32.decode b)).val
    Happens s (.rstrMerge p) .rstrMerge (fun t => (t.core p).vert.sets = []
      ∧ ∀ b, nearByte (t.settle p s.now) p b = if q ≤ b ∧ b < q + 4 then
          BitVec.ofNat 8 (plus (plus (plus (plus 0 u.toNat) v.toNat) w.toNat) z.toNat / 2 ^ (8 * (b - q))) else nearByte s p b) := by
  intro plus he
  let cs : List (Bool × Word) := [(true, u), (false, v), (false, w), (false, z)]
  let taken := s.modVert p (fun x => { x with sets := x.sets.filter (fun c => c.nth != 0) })
  have hgo : CoreGoes p s taken _ := (coreGoes_refl p s).modCore _
  have hqt : NoneDue taken p := by
    intro x hx
    rw [hgo.1] at hx
    exact hq x hx
  have hdue : ((distinct ((s.core p).vert.sets.map (·.nth))).filter (fun n =>
      let cs := (s.core p).vert.sets.filter (fun c => c.nth == n)
      cs.length == 4 && cs.all (fun c => decide (c.endT ≤ s.now)))) = [0] := by
    have hd : distinct ([0, 0, 0, 0] : List Nat) = [0] := by decide
    rw [hs]
    simp only [List.map_cons, List.map_nil, hd]
    simp
  have hrow : exec .rstrMerge s = .next (mergeOne taken p q cs) := by
    show execRstrMerge s = _
    unfold execRstrMerge
    rw [he]
    dsimp only
    rw [hdue]
    dsimp only
    refine congrArg Host.Outcome.next (mergeInto_one hqt ?_ ?_)
    · rw [hs]
      simp [distinct]
    · rw [hs]
      simp [cs]
  obtain ⟨bad, hmerge⟩ := mergeOne_core taken p q cs
  have hold : coreNat taken p q 4 = coreNat s p q 4 := by
    unfold coreNat nearByte
    rw [hgo.1]
  refine ⟨_, hrow, ?_, fun b => ?_⟩
  · rw [hmerge.1, hgo.1]
    show (s.core p).vert.sets.filter (fun c => c.nth != 0) = []
    rw [hs]
    rfl
  · have hnow : s.now = taken.now := rfl
    rw [hnow, mergeOne_near hqt (by rw [hgo.1]; exact hrmw) (fun j hj => by rw [hgo.1]; exact hmon j hj)]
    have hnear : nearByte taken p b = nearByte s p b := by rw [nearByte, hgo.1]; rfl
    rw [hnear]
    rfl

end

/-! ### A prolongation ends (R146) -/

/-- The coarse value that a prolongation read for a coarse point. -/
def coarseValue (o : VOp) (j : Nat × Nat × Nat) : Nat :=
  match o.vals.find? (fun v => v.1 == o.desc.coarseAt j) with
  | some v => v.2.toNat
  | none => 0

/-- A fine word after a prolongation, with its flags. -/
def fineSum (s : State) (k : Nat) (o : VOp) (f : Nat × Nat × Nat) : Nat × FlagSet :=
  fmaSum (if o.ovw then 0 else coreNat s k (o.desc.fineAt f) 4, 0)
    ((o.desc.touched f).map (fun t => ((o.weights.getD t.2 0).toNat, coarseValue o t.1)))

theorem prolonged_eq {s : State} {k : Nat} {c : Core} (hc : c.near = (s.core k).near) (o : VOp) (f : Nat × Nat × Nat) :
    (prolonged c o f).1 = (fineSum s k o f).1 ∧ (prolonged c o f).2.1 = (fineSum s k o f).2 := by
  have hread : c.readNat (o.desc.fineAt f) 4 = coreNat s k (o.desc.fineAt f) 4 := by
    rw [← readNat_eq_coreNat, Core.readNat, Core.readN, hc]
    rfl
  unfold prolonged
  dsimp only
  rw [hread]
  exact ⟨rfl, rfl⟩

section
variable {s : State} {k : Nat} {vo : VOp}

/-- Ports' writes of words one behind another. -/
theorem foldl_applyHeld {α : Type} (tier : Nat) (held : α → Held) (hport : ∀ x, (held x).port ≠ 3) (l : List α) (c : Core) :
    { l.foldl (fun c x => c.applyHeld tier (held x)) c with near := [], poison := [] } = { c with near := [], poison := [] }
    ∧ (l.foldl (fun c x => c.applyHeld tier (held x)) c).near = l.foldl (fun m x => writeBytes m (held x).addr (held x).bytes) c.near := by
  induction l generalizing c with
  | nil => exact ⟨rfl, rfl⟩
  | cons x l ih =>
    obtain ⟨h1, h2⟩ := ih (c.applyHeld tier (held x))
    refine ⟨h1.trans (applyHeld_rest (hport x)), h2.trans ?_⟩
    rw [applyHeld_near (hport x)]
    rfl

/-- The write of a fine word. -/
def fineHeld (c : Core) (o : VOp) (f : Nat × Nat × Nat) : Held :=
  ⟨2, o.desc.fineAt f, leBytes 4 (prolonged c o f).1, if (prolonged c o f).2.2 then [o.desc.fineAt f] else [], false, .other⟩

theorem finishPrlg_core (hq : NoneDue s k) : CoreGoes k s (s.finishPrlg k vo)
    (orFlags ((points vo.desc.nx vo.desc.ny vo.desc.nz).foldl
        (fun c f => c.applyHeld (Machine.tierOf k) (fineHeld (s.core k) vo f)) (s.core k)) 0
      ((points vo.desc.nx vo.desc.ny vo.desc.nz).foldl (fun a f => a ||| (prolonged (s.core k) vo f).2.1) 0)) := by
  have hcores : ∀ (l : List (Nat × Nat × Nat)) (v : State), (l.foldl (fun s f => s.correct k (vo.desc.fineAt f) 4) v).cores = v.cores := by
    intro l
    induction l with
    | nil => exact fun _ => rfl
    | cons p l ih => exact fun v => (ih _).trans (count_cores _ _ _)
  unfold State.finishPrlg
  have hunit : s.settleUnit k s.now = s := settleBelow_none hq 4
  dsimp only
  rw [settle_noneDue hq, hunit]
  simp only [List.foldl_map]
  have hgo (u : State) (hu : u.cores = s.cores) := (((coreGoes_refl k s).of_cores (u := u) hu).modCore
    (fun c => (points vo.desc.nx vo.desc.ny vo.desc.nz).foldl
      (fun c f => c.applyHeld (Machine.tierOf k) (fineHeld (s.core k) vo f)) c)).modCore
    (fun c => orFlags c 0 ((points vo.desc.nx vo.desc.ny vo.desc.nz).foldl (fun a f => a ||| (prolonged (s.core k) vo f).2.1) 0))
  refine hgo _ ?_
  split
  · rfl
  · exact hcores _ _

theorem laneEnd_prlg (hops : (s.core k).vert.ops = [vo]) (hend : vo.endT = s.now) (hx : vo.rstr = true ∨ s.expandsFirst k vo.issued = false)
    (hl : vo.lost = false) (hr : vo.rstr = false) (hq : NoneDue s k) :
    let D := vo.desc
    let fine := points D.nx D.ny D.nz
    Happens s (.verticalOpEnd k) .verticalOpEnd (fun t =>
      (t.core k).vert.ops = (s.core k).vert.ops.filter (fun o => o.endT != s.now) ∧ (∀ j, j ≠ k → t.core j = s.core j)
      ∧ (t.ctx (k, 0)).flags = (s.ctx (k, 0)).flags ||| fine.foldl (fun a f => a ||| (fineSum s k vo f).2) 0
      ∧ (∀ f ∈ fine, (∀ g ∈ fine, g ≠ f → D.fineAt g + 4 ≤ D.fineAt f ∨ D.fineAt f + 4 ≤ D.fineAt g) →
          coreNat t k (D.fineAt f) 4 = (fineSum s k vo f).1 % 2 ^ 32)
      ∧ ∀ b, (∀ f ∈ fine, b < D.fineAt f ∨ D.fineAt f + 4 ≤ b) → nearByte t k b = nearByte s k b) := by
  intro D fine he
  have hlap := coreGoes_lapsed s k
  have hqv : NoneDue (lapsedVert s k) k := by
    intro p hp
    rw [hlap.1] at hp
    exact hq p hp
  have hended : laneEnded s k vo = (lapsedVert s k).finishPrlg k vo := by
    rw [laneEnded, hl, hr, if_neg Bool.false_ne_true, if_neg Bool.false_ne_true]
  have hgo := finishPrlg_core (vo := vo) hqv
  have hpro := fun f => prolonged_eq (s := s) (k := k) (c := (lapsedVert s k).core k) (by rw [hlap.1]) vo f
  obtain ⟨hrest, hnear⟩ := foldl_applyHeld (Machine.tierOf k) (fineHeld ((lapsedVert s k).core k) vo) (fun _ => by decide : ∀ _, (2 : Nat) ≠ 3)
    fine ((lapsedVert s k).core k)
  have hbytes (t : State) (ht : t = (lapsedVert s k).finishPrlg k vo) (b : Nat) : nearByte t k b
      = sget 0 (fine.foldl (fun m f => writeBytes m (D.fineAt f) (leBytes 4 (fineSum s k vo f).1)) (s.core k).near) b := by
    have hm : ((lapsedVert s k).core k).near = (s.core k).near := by rw [hlap.1]
    have hf : (fun m f => writeBytes m (D.fineAt f) (leBytes 4 (fineSum s k vo f).1))
        = fun m f => writeBytes m (fineHeld ((lapsedVert s k).core k) vo f).addr (fineHeld ((lapsedVert s k).core k) vo f).bytes := by
      funext m f
      rw [← (hpro f).1]
      rfl
    rw [nearByte, ht, hgo.1, hf, ← hm, ← hnear]
    rfl
  obtain ⟨hword, hout⟩ := foldl_words D.fineAt (fun f => (fineSum s k vo f).1) (s.core k).near fine
  refine ⟨_, (laneEnd_row hops hend he hx).trans (congrArg Host.Outcome.next hended), ?_, fun j hj => (hgo.2 j hj).trans (hlap.2 j hj),
    ?_, fun f hf hap => ?_, fun b hb => (hbytes _ rfl b).trans (hout b hb)⟩
  · rw [hgo.1]
    refine (congrArg (fun c : Core => c.vert.ops) hrest : _ = _).trans ?_
    rw [hlap.1]
  · rw [hgo.ctx, orFlags_ctx]
    have hflags : fine.foldl (fun a f => a ||| (prolonged ((lapsedVert s k).core k) vo f).2.1) (0 : FlagSet)
        = fine.foldl (fun a f => a ||| (fineSum s k vo f).2) 0 := by
      congr 1
      funext a f
      rw [(hpro f).2]
    refine congrArg₂ (· ||| ·) ?_ hflags
    refine (congrArg (fun c : Core => (c.ctx 0).flags) hrest : _ = _).trans ?_
    rw [hlap.1]
    rfl
  · have hlist : (List.range 4).map (fun i => nearByte ((lapsedVert s k).finishPrlg k vo) k (D.fineAt f + i))
        = leBytes 4 (fineSum s k vo f).1 := by
      rw [leBytes_eq_map]
      refine List.map_congr_left (fun i hi => ?_)
      have hi := List.mem_range.mp hi
      rw [hbytes _ rfl, hword f hf hap _ (by omega) (by omega), Nat.add_sub_cancel_left]
    rw [coreNat, hlist, leNat_leBytes]
    rfl

end

/-! ### A lane changes its state (R139, R152) -/

section
variable {s : State} {k : Nat} {st : LaneState}

theorem laneStays (h : Machine.tierOf k = 3 ∨ laneRank st ≤ laneRank (s.lane k)) :
    Happens s (.laneStateChange k st) .laneStateChange (fun t => t = s) := by
  intro he
  refine ⟨_, ?_, rfl⟩
  show execLaneStateChange s = _
  unfold execLaneStateChange
  rw [he]
  dsimp only
  rw [if_pos h]

variable (ht : Machine.tierOf k ≠ 3) (hr : laneRank (s.lane k) < laneRank st) (hops : (s.core k).vert.ops = [])
include ht hr hops

theorem laneChange_row (he : s.event = some (.laneStateChange k st)) : exec .laneStateChange s
    = .next (if s.now % Config.ticksPerBeat ≠ 0 then s.post (ceilTo Config.ticksPerBeat s.now) (.laneStateChange k st)
      else (s.modDev (fun d => { d with lanes := sset .full d.lanes k st })).modCol (columnOf k) (fun c => { c with chg := true })) := by
  show execLaneStateChange s = _
  unfold execLaneStateChange
  rw [he]
  dsimp only
  rw [if_neg (by omega), hops, List.find?_nil]

theorem lane_waits (hb : s.now % 120 ≠ 0) : Happens s (.laneStateChange k st) .laneStateChange
    (fun t => t = s.post (ceilTo 120 s.now) (.laneStateChange k st)) :=
  fun he => ⟨_, (laneChange_row ht hr hops he).trans (congrArg Host.Outcome.next (if_pos hb)), rfl⟩

theorem lane_changes (hb : s.now % 120 = 0) : Happens s (.laneStateChange k st) .laneStateChange (fun t => t.lane k = st
    ∧ (∀ j, j ≠ k → t.lane j = s.lane j) ∧ (t.col (columnOf k)).chg = true ∧ t.cores = s.cores) := by
  intro he
  refine ⟨_, (laneChange_row ht hr hops he).trans (congrArg Host.Outcome.next (if_neg (not_not.mpr hb))),
    sget_sset_same _ _ _ _, fun j hj => sget_sset_other _ _ _ (Ne.symm hj), ?_, rfl⟩
  rw [col_modCol, if_pos rfl]

end

end Sys2Proof.Proofs
end

section
/-! PROOFS. The expansion unit's own steps (R164 to R167): what an instruction reads at its start and writes at its end. -/

namespace Sys2Proof.Proofs

open Sys2Proof.Machine Sys2Proof.Safety Sys2Proof.Laws

/-! ### An instruction starts -/

section
variable {s : State} {k : Nat} {xo : XOp} {xrest : List XOp}

theorem foldl_correct_parts (k : Nat) : ∀ (l : List (Nat × Nat)) (s : State),
    (l.foldl (fun s b => s.correct k b.1 b.2) s).cores = s.cores ∧ (l.foldl (fun s b => s.correct k b.1 b.2) s).agenda = s.agenda
    ∧ (l.foldl (fun s b => s.correct k b.1 b.2) s).now = s.now
  | [], _ => ⟨rfl, rfl, rfl⟩
  | b :: l, s => by
    obtain ⟨h1, h2, h3⟩ := foldl_correct_parts k l (s.correct k b.1 b.2)
    exact ⟨h1.trans (count_cores _ _ _), h2.trans (count_agenda _ _ _), h3.trans (count_now _ _ _)⟩

/-- An instruction as it has started: what it read, and the unit as it found it (R164). -/
def begunOp (c : Core) (o : XOp) : XOp :=
  { o with
    started := true
    input := c.readN (startSpan o.what).1 (startSpan o.what).2
    hdr := c.xu.hdr, co := c.xu.co, kern := c.xu.kern }

theorem expansionStarts (hq : NoneDue s k) (hqueue : (s.core k).xu.queue = xo :: xrest)
    (hclean : ∀ b ∈ startReads (s.core k).xu xo.what, (s.core k).badRange b.1 b.2 = none) :
    Happens s (.expansionOpStart k) .expansionOpStart (fun t => (t.core k).xu.queue = begunOp (s.core k) xo :: xrest
      ∧ Posts s t (s.now + xo.cycles * cyc k) (.expansionOpEnd k) ∧ ∀ j, j ≠ k → t.core j = s.core j) := by
  intro he
  obtain ⟨hcores, hagenda, hnow⟩ := foldl_correct_parts k (startReads (s.core k).xu xo.what) s
  let u := (startReads (s.core k).xu xo.what).foldl (fun s b => s.correct k b.1 b.2) s
  have hrow : exec .expansionOpStart s = .next ((u.modXu k (fun v => { v with queue := begunOp (s.core k) xo :: xrest })).post
      (u.now + xo.cycles * cyc k) (.expansionOpEnd k)) := by
    show execExpansionOpStart s = _
    unfold execExpansionOpStart
    rw [he]
    dsimp only
    rw [settle_noneDue hq, hqueue]
    dsimp only
    rw [List.findSome?_eq_none_iff.mpr hclean]
    rfl
  have hgo := ((coreGoes_refl k s).of_cores (u := u) hcores).modCore (fun c => { c with xu := { c.xu with queue := begunOp (s.core k) xo :: xrest } })
  refine ⟨_, hrow, congrArg (fun c : Core => c.xu.queue) hgo.1, ?_, hgo.2⟩
  show agendaInsert ⟨u.now + xo.cycles * cyc k, .expansionOpEnd k⟩ u.agenda = _
  rw [hagenda, hnow]

theorem expansionStarts_bad {pre post : List (Nat × Nat)} {b : Nat × Nat} {w : Nat} (hq : NoneDue s k)
    (hqueue : (s.core k).xu.queue = xo :: xrest) (hreads : startReads (s.core k).xu xo.what = pre ++ b :: post)
    (hpre : ∀ y ∈ pre, (s.core k).badRange y.1 y.2 = none) (hb : (s.core k).badRange b.1 b.2 = some w) :
    Happens s (.expansionOpStart k) .expansionOpStart (fun t =>
      t = (s.popExpansion k).trapLate (k, xo.ctx) xo.pc xo.word ((s.core k).eccu w)) := by
  intro he
  have hfind : (startReads (s.core k).xu xo.what).findSome? (fun b => (s.core k).badRange b.1 b.2) = some w := by
    rw [hreads, List.findSome?_append, List.findSome?_eq_none_iff.mpr hpre, Option.none_or, List.findSome?_cons, hb]
  refine ⟨_, ?_, rfl⟩
  show execExpansionOpStart s = _
  unfold execExpansionOpStart
  rw [he]
  dsimp only
  rw [settle_noneDue hq, hqueue]
  dsimp only
  rw [hfind]

end

/-! ### An instruction ends -/

/-- What an instruction's end writes into its context. -/
def endActs (e : XEnd) : List Act :=
  (match e.pred with | some (d, b) => predAct d b | none => []) ++ (if e.flags = 0 then [] else [.orFlags e.flags])

/-- A predicate or flags. -/
inductive IsMark : Act → Prop
  | pred (r : Nat) (b : Bool) : IsMark (.pred r b)
  | flags (f : FlagSet) : IsMark (.orFlags f)

theorem endActs_marks (e : XEnd) : ∀ a ∈ endActs e, IsMark a := by
  intro a ha
  unfold endActs at ha
  rcases List.mem_append.mp ha with ha | ha
  · split at ha
    · unfold predAct at ha
      split at ha
      · exact absurd ha List.not_mem_nil
      · rw [List.mem_singleton.mp ha]
        exact .pred _ _
    · exact absurd ha List.not_mem_nil
  · split at ha
    · exact absurd ha List.not_mem_nil
    · rw [List.mem_singleton.mp ha]
      exact .flags _

/-- A predicate or flags change their context alone. -/
theorem applyAct_mark (tier i : Nat) (c : Core) {a : Act} (ha : IsMark a) :
    { applyAct tier c i a with ctxs := [] } = { c with ctxs := [] } ∧ ((applyAct tier c i a).ctx i).run = (c.ctx i).run := by
  have hrun (f : Ctx → Ctx) (hf : ∀ x, (f x).run = x.run) : ((c.modCtx i f).ctx i).run = (c.ctx i).run := by
    rw [Core.modCtx, ctx_setCtx, if_pos rfl, hf]
  cases ha with
  | pred r b => exact ⟨rfl, hrun _ (fun _ => rfl)⟩
  | flags f => exact ⟨rfl, hrun _ (fun _ => rfl)⟩

theorem foldl_marks (tier i : Nat) : ∀ (l : List Act) (c : Core), (∀ a ∈ l, IsMark a) →
    { l.foldl (fun c a => applyAct tier c i a) c with ctxs := [] } = { c with ctxs := [] }
    ∧ ((l.foldl (fun c a => applyAct tier c i a) c).ctx i).run = (c.ctx i).run
  | [], _, _ => ⟨rfl, rfl⟩
  | a :: l, c, h => by
    obtain ⟨h1, h2⟩ := foldl_marks tier i l (applyAct tier c i a) (fun x hx => h x (List.mem_cons_of_mem _ hx))
    obtain ⟨h3, h4⟩ := applyAct_mark tier i c (h a List.mem_cons_self)
    exact ⟨h1.trans h3, h2.trans h4⟩

/-- The flags that an instruction's end leaves, and its predicate. -/
theorem endActs_ctx (tier i : Nat) (e : XEnd) (c : Core) :
    (((endActs e).foldl (fun c a => applyAct tier c i a) c).ctx i).flags = (c.ctx i).flags ||| e.flags
    ∧ ∀ d b, e.pred = some (d, b) → (((endActs e).foldl (fun c a => applyAct tier c i a) c).ctx i).pred d = (d == 0 || b) := by
  have hctx (c : Core) (f : Ctx → Ctx) : (c.modCtx i f).ctx i = f (c.ctx i) := by rw [Core.modCtx, ctx_setCtx, if_pos rfl]
  have hflags (c : Core) : ((((if e.flags = 0 then [] else [Act.orFlags e.flags])).foldl (fun c a => applyAct tier c i a) c).ctx i)
      = { c.ctx i with flags := (c.ctx i).flags ||| e.flags } := by
    split
    · next h =>
      rw [h]
      show c.ctx i = { c.ctx i with flags := (c.ctx i).flags ||| (0 : BitVec 6) }
      rw [show (c.ctx i).flags ||| (0 : BitVec 6) = (c.ctx i).flags from BitVec.or_zero]
    · exact hctx c (fun x => { x with flags := x.flags ||| e.flags })
  have hpred (d : PredReg) (b : Bool) (c : Core) : (((predAct d b).foldl (fun c a => applyAct tier c i a) c).ctx i).flags = (c.ctx i).flags
      ∧ (((predAct d b).foldl (fun c a => applyAct tier c i a) c).ctx i).pred d = (d == 0 || b) := by
    unfold predAct
    split
    · next h => exact ⟨rfl, by rw [h]; rfl⟩
    · next h =>
      simp only [List.foldl_cons, List.foldl_nil]
      have hset := hctx c (fun x => { x with p := if b then x.p ||| (1#8 <<< d.toNat) else x.p &&& ~~~(1#8 <<< d.toNat) })
      have hbit := (getLsbD_writePred (c.ctx i).p d.toNat b d.isLt d.toNat).trans (if_pos rfl)
      exact ⟨(congrArg Ctx.flags hset :), (congrArg (fun x : Ctx => x.pred d) hset :).trans (congrArg (d == 0 || ·) hbit)⟩
  unfold endActs
  rw [List.foldl_append, hflags]
  cases hp : e.pred with
  | none => exact ⟨rfl, fun d b h => absurd h (by simp)⟩
  | some p =>
    obtain ⟨d, b⟩ := p
    refine ⟨congrArg (· ||| e.flags) (hpred d b c).1, fun d' b' h => ?_⟩
    obtain ⟨rfl, rfl⟩ : d = d' ∧ b = b' := by simpa using h
    exact (hpred d b c).2

section
variable {s : State} {k : Nat} {xo : XOp} {xrest : List XOp}

/-- What the end of the instruction at the head of the queue leaves (R164). -/
def unitWritten (s : State) (k : Nat) (o : XOp) (e : XEnd) : State :=
  ((s.modXu k (fun u => u.takeEnd e.unit o.what)).modCore k
    (fun c => e.words.foldl (fun c w => c.pendAt s.now 4 (.port ⟨3, w.1, w.2, [], false, .other⟩)) c)).popExpansion k

/-- The context of the instruction takes what it gives, and goes on if it waited. -/
def unitAnswered (s : State) (k : Nat) (o : XOp) (acts : List Act) : State :=
  match (s.ctx (k, o.ctx)).run with
  | .held .expansion | .gated .expansion => s.finish (k, o.ctx) acts
  | _ => s.modCore k (fun c => acts.foldl (fun c a => applyAct (Machine.tierOf k) c o.ctx a) c)

/-- What an instruction leaves, by its effect on the unit as it found it. -/
def effectOf (c : Core) (o : XOp) : XEnd := expandEffect (o.found c.xu) o.what o.input

theorem expansionEnd_waits (hqueue : (s.core k).xu.queue = xo :: xrest) (hp : s.prolongsFirst k xo.issued = true) :
    Happens s (.expansionOpEnd k) .expansionOpEnd (fun t => t = s.post s.now (.expansionOpEnd k)) := by
  intro he
  refine ⟨_, ?_, rfl⟩
  show execExpansionOpEnd s = _
  unfold execExpansionOpEnd
  rw [he]
  dsimp only
  rw [hqueue]
  dsimp only
  rw [if_pos hp]

theorem expansionEnd_row (he : s.event = some (.expansionOpEnd k)) (hqueue : (s.core k).xu.queue = xo :: xrest)
    (hp : s.prolongsFirst k xo.issued = false) : exec .expansionOpEnd s
      = .next (unitAnswered (unitWritten s k xo (effectOf (s.core k) xo)) k xo (endActs (effectOf (s.core k) xo))) := by
  show execExpansionOpEnd s = _
  unfold execExpansionOpEnd
  rw [he]
  dsimp only
  rw [hqueue]
  dsimp only
  rw [if_neg (by rw [hp]; exact Bool.false_ne_true)]
  rfl

/-- The unit after an instruction's end. -/
structure UnitEnds (s : State) (k : Nat) (xo : XOp) (xrest : List XOp) (e : XEnd) (t : State) : Prop where
  xu     : (t.core k).xu = { (s.core k).xu.takeEnd e.unit xo.what with queue := xrest }
  words  : ∀ w ∈ e.words, ⟨s.now, 4, .port ⟨3, w.1, w.2, [], false, .other⟩⟩ ∈ (t.core k).pend
  next   : xrest ≠ [] → ⟨s.now, .expansionOpStart k⟩ ∈ t.agenda
  others : ∀ j, j ≠ k → t.core j = s.core j
  flags  : (t.ctx (k, xo.ctx)).flags = (s.ctx (k, xo.ctx)).flags ||| e.flags
  pred   : ∀ d b, e.pred = some (d, b) → (t.ctx (k, xo.ctx)).pred d = (d == 0 || b)

theorem foldl_pendAt {α : Type} (now i : Nat) (act : α → Act) : ∀ (l : List α) (c : Core),
    { l.foldl (fun c x => c.pendAt now i (act x)) c with pend := [] } = { c with pend := [] }
    ∧ (∀ p ∈ c.pend, p ∈ (l.foldl (fun c x => c.pendAt now i (act x)) c).pend)
    ∧ ∀ x ∈ l, ⟨now, i, act x⟩ ∈ (l.foldl (fun c x => c.pendAt now i (act x)) c).pend
  | [], _ => ⟨rfl, fun _ h => h, fun _ h => absurd h List.not_mem_nil⟩
  | x :: l, c => by
    obtain ⟨h1, h2, h3⟩ := foldl_pendAt now i act l (c.pendAt now i (act x))
    refine ⟨h1, fun p hp => h2 p (mem_pendAt_of hp _ _ _), fun y hy => ?_⟩
    rcases List.mem_cons.mp hy with rfl | hy
    · exact h2 _ (mem_pendAt _ _ _ _)
    · exact h3 y hy

/-- A core whose unit has let go of the head of its queue. -/
def poppedUnit (now : Nat) (c : Core) : Core :=
  { c with
    xu := { c.xu with queue := c.xu.queue.tail }
    ctl := { c.ctl with xunit := { c.ctl.xunit with last := max c.ctl.xunit.last now } } }

theorem CoreGoes.popExpansion {u : State} {c : Core} (h : CoreGoes k s u c) : CoreGoes k s (u.popExpansion k) (poppedUnit u.now c) := by
  have hgo := (h.modCore (fun c => { c with xu := { c.xu with queue := c.xu.queue.tail } })).modCore
    (fun c => { c with ctl := { c.ctl with xunit := { c.ctl.xunit with last := max c.ctl.xunit.last u.now } } })
  unfold State.popExpansion
  dsimp only
  split <;> exact hgo

theorem popExpansion_next {u : State} (h : (u.core k).xu.queue.tail ≠ []) : ⟨u.now, .expansionOpStart k⟩ ∈ (u.popExpansion k).agenda := by
  have hgo := ((coreGoes_refl k u).modCore (fun c => { c with xu := { c.xu with queue := c.xu.queue.tail } })).modCore
    (fun c => { c with ctl := { c.ctl with xunit := { c.ctl.xunit with last := max c.ctl.xunit.last u.now } } })
  have hqueue : _ = (u.core k).xu.queue.tail := congrArg (fun c : Core => c.xu.queue) hgo.1
  unfold State.popExpansion
  dsimp only
  split
  · next hnil => exact absurd (hqueue.symm.trans hnil) h
  · exact (mem_agendaInsert _ _ _).mpr (.inl rfl)

/-- An answer changes its context, and the core's place, alone. -/
structure UnitKept (u : State) (k i : Nat) (e : XEnd) (t : State) : Prop where
  xu     : (t.core k).xu = (u.core k).xu
  pend   : (t.core k).pend = (u.core k).pend
  agenda : t.agenda = u.agenda
  others : ∀ j, j ≠ k → t.core j = u.core j
  flags  : (t.ctx (k, i)).flags = (u.ctx (k, i)).flags ||| e.flags
  pred   : ∀ d b, e.pred = some (d, b) → (t.ctx (k, i)).pred d = (d == 0 || b)

theorem written_ends (u : State) (k i : Nat) (e : XEnd) : CoreGoes k u (written u (k, i) (endActs e))
    ((endActs e).foldl (fun c a => applyAct (Machine.tierOf k) c i a) (u.core k)) := (coreGoes_refl k u).modCore _

theorem unitKept_only {u v : State} {k i : Nat} {e : XEnd} (ho : OnlyCtx (k, i) (written u (k, i) (endActs e)) v)
    (hpl : placeless (v.ctx (k, i)) = placeless ((written u (k, i) (endActs e)).ctx (k, i))) : UnitKept u k i e v := by
  obtain ⟨hrest, -⟩ := foldl_marks (Machine.tierOf k) i (endActs e) (u.core k) (endActs_marks e)
  obtain ⟨hflags, hpred⟩ := endActs_ctx (Machine.tierOf k) i e (u.core k)
  have hgo := written_ends u k i e
  refine ⟨(congrArg Core.xu ho.rest :).trans ?_, (congrArg Core.pend ho.rest :).trans ?_, (congrArg State.agenda ho.machine :),
    fun j hj => (ho.others j hj).trans (hgo.2 j hj), (congrArg Ctx.flags hpl :).trans ?_, fun d b h => (congrArg (fun x : Ctx => x.pred d) hpl :).trans ?_⟩
  · rw [hgo.1]; exact (congrArg Core.xu hrest :)
  · rw [hgo.1]; exact (congrArg Core.pend hrest :)
  · exact (congrArg Ctx.flags (hgo.ctx i)).trans hflags
  · exact (congrArg (fun x : Ctx => x.pred d) (hgo.ctx i)).trans (hpred d b h)

theorem unitAnswered_kept (u : State) (k : Nat) (o : XOp) (e : XEnd) : UnitKept u k o.ctx e (unitAnswered u k o (endActs e)) := by
  have hrun : ((written u (k, o.ctx) (endActs e)).ctx (k, o.ctx)).run = (u.ctx (k, o.ctx)).run := by
    rw [(written_ends u k o.ctx e).ctx o.ctx]
    exact (foldl_marks (Machine.tierOf k) o.ctx (endActs e) (u.core k) (endActs_marks e)).2
  unfold unitAnswered
  split
  · next h =>
    obtain ⟨h1, h2, -⟩ := finishAt_held (at_ := u.now) (hrun.trans h)
    exact unitKept_only h1 h2
  · next h =>
    obtain ⟨h1, h2, -⟩ := finishAt_gated (at_ := u.now) (hrun.trans h)
    exact unitKept_only h1 h2
  · exact unitKept_only (OnlyCtx.refl _ _) rfl

theorem takeEnd_queue (u v : XUnit) (w : XKind) : (u.takeEnd v w).queue = u.queue := by
  cases w <;> rfl

/-- An instruction's end (R164). -/
theorem expansionEnds (hqueue : (s.core k).xu.queue = xo :: xrest) (hp : s.prolongsFirst k xo.issued = false) :
    Happens s (.expansionOpEnd k) .expansionOpEnd (UnitEnds s k xo xrest (effectOf (s.core k) xo)) := by
  intro he
  refine ⟨_, expansionEnd_row he hqueue hp, ?_⟩
  generalize effectOf (s.core k) xo = e
  let v := (s.modXu k (fun u => u.takeEnd e.unit xo.what)).modCore k
    (fun c => e.words.foldl (fun c w => c.pendAt s.now 4 (.port ⟨3, w.1, w.2, [], false, .other⟩)) c)
  have hv := ((coreGoes_refl k s).modCore (fun c => { c with xu := c.xu.takeEnd e.unit xo.what })).modCore
    (fun c => e.words.foldl (fun c w => c.pendAt s.now 4 (.port ⟨3, w.1, w.2, [], false, .other⟩)) c)
  rw [show (s.modCore k _).modCore k _ = v from rfl] at hv
  obtain ⟨hfold, -, hmem⟩ := foldl_pendAt s.now 4 (fun w : Nat × List Byte => Act.port ⟨3, w.1, w.2, [], false, .other⟩) e.words
    ({ s.core k with xu := (s.core k).xu.takeEnd e.unit xo.what })
  have hvxu : (v.core k).xu = (s.core k).xu.takeEnd e.unit xo.what := by
    rw [hv.1]
    exact (congrArg Core.xu hfold :)
  have hvqueue : (v.core k).xu.queue.tail = xrest := by
    rw [hvxu, takeEnd_queue, hqueue]
    rfl
  have hpop := hv.popExpansion
  obtain ⟨h1, h2, h3, h4, h5, h6⟩ := unitAnswered_kept (unitWritten s k xo e) k xo e
  have hctx : (unitWritten s k xo e).ctx (k, xo.ctx) = s.ctx (k, xo.ctx) :=
    (hpop.ctx xo.ctx).trans (congrArg (fun c : Core => c.ctx xo.ctx) hfold :)
  refine ⟨h1.trans ?_, fun w hw => ?_, fun hne => ?_, fun j hj => (h4 j hj).trans (hpop.2 j hj), h5.trans (by rw [hctx]), h6⟩
  · have : ((unitWritten s k xo e).core k).xu = { (v.core k).xu with queue := (v.core k).xu.queue.tail } := by
      refine (congrArg Core.xu hpop.1).trans ?_
      rw [hv.1]
      rfl
    rw [this, hvqueue, hvxu]
  · rw [h2]
    exact (congrArg Core.pend hpop.1).symm ▸ hmem w hw
  · rw [h3]
    exact popExpansion_next (u := v) (by rw [hvqueue]; exact hne)

end

/-! ### What each instruction writes (R165 to R167) -/

/-- Registers of the unit but `ds` are as before. -/
def RegsKept (s : State) (k : Nat) (ds : List ExpReg) (t : State) : Prop := ∀ r, r ∉ ds → (t.core k).xu.header r = (s.core k).xu.header r
  ∧ ∀ j, j < 128 → sget 0 (t.core k).xu.co (128 * r.toNat + j) = sget 0 (s.core k).xu.co (128 * r.toNat + j)

/-- Register `d` takes a header and the coefficients below its size; nothing else of the unit changes. -/
def RegTakes (s : State) (k : Nat) (d : ExpReg) (h : XHdr) (f : Nat → Nat) (t : State) : Prop := RegsKept s k [d] t
  ∧ (t.core k).xu.kern = (s.core k).xu.kern ∧ (t.core k).xu.header d = h
  ∧ ∀ j, j < 128 → sget 0 (t.core k).xu.co (128 * d.toNat + j) = if j < h.size then BitVec.ofNat 32 (f j) else 0

/-- Consecutive entries written. -/
theorem sget_foldl_range {w : Nat} (base : Nat) (v : Nat → BitVec w) (n : Nat) (m : Sparse (BitVec w)) (i : Nat) :
    sget 0 ((List.range n).foldl (fun m k => sset 0 m (base + k) (v k)) m) i
      = if base ≤ i ∧ i < base + n then v (i - base) else sget 0 m i := by
  induction n with
  | zero => rw [if_neg (by omega)]; rfl
  | succ n ih =>
    rw [List.range_succ, List.foldl_append, List.foldl_cons, List.foldl_nil, sget_sset, ih]
    by_cases h : base + n = i
    · rw [if_pos h, if_pos (by omega), ← h, Nat.add_sub_cancel_left]
    · rw [if_neg h]
      exact if_congr (by omega) rfl rfl

section
variable {u v : XUnit} {d : ExpReg}

theorem takeReg_header (r : ExpReg) : (u.takeReg v d).header r = if r = d then v.header d else u.header r := by
  show sget _ (sset _ _ _ _) _ = _
  rw [sget_sset]
  by_cases h : r = d
  · rw [if_pos h, if_pos (by rw [h])]
  · rw [if_neg h, if_neg (fun hn => h (BitVec.eq_of_toNat_eq hn.symm))]
    rfl

theorem takeReg_co (r : ExpReg) {j : Nat} (hj : j < 128) : sget 0 (u.takeReg v d).co (128 * r.toNat + j)
    = if r = d then sget 0 v.co (128 * r.toNat + j) else sget 0 u.co (128 * r.toNat + j) := by
  have hco : (u.takeReg v d).co
      = (List.range 128).foldl (fun m k => sset 0 m (128 * d.toNat + k) (sget 0 v.co (128 * d.toNat + k))) u.co := rfl
  rw [hco, sget_foldl_range (128 * d.toNat) (fun k => sget 0 v.co (128 * d.toNat + k)) 128 u.co]
  by_cases h : r = d
  · rw [if_pos h, if_pos (by rw [h]; omega), h, Nat.add_sub_cancel_left]
  · have hne : r.toNat ≠ d.toNat := fun hn => h (BitVec.eq_of_toNat_eq hn)
    rw [if_neg h, if_neg (by omega)]

theorem setCoefs_co (vs : List Nat) {j : Nat} (hj : j < 128) :
    sget 0 (u.setCoefs d vs).co (128 * d.toNat + j) = BitVec.ofNat 32 (vs.getD j 0) := by
  unfold XUnit.setCoefs
  dsimp only
  rw [sget_foldl_range (128 * d.toNat) (fun k => BitVec.ofNat 32 (vs.getD k 0)) 128 u.co, if_pos (by omega), Nat.add_sub_cancel_left]

theorem setCoefs_header (vs : List Nat) (r : ExpReg) : (u.setCoefs d vs).header r = u.header r := by
  unfold XUnit.setCoefs XUnit.header
  dsimp only

theorem setHdr_header (h : XHdr) : (u.setHdr d h).header d = h := sget_sset_same _ _ _ _

end

theorem mapIdx_range {α β : Type} (n : Nat) (g : Nat → α) (f : Nat → α → β) :
    ((List.range n).map g).mapIdx f = (List.range n).map (fun j => f j (g j)) := by
  refine List.ext_getElem (by simp) (fun i h1 h2 => ?_)
  simp

theorem getD_map_range (n : Nat) (g : Nat → Nat) (j : Nat) : ((List.range n).map g).getD j 0 = if j < n then g j else 0 := by
  by_cases h : j < n
  · rw [if_pos h, List.getD_eq_getElem _ _ (by simpa using h), List.getElem_map, List.getElem_range]
  · rw [if_neg h, List.getD_eq_default _ _ (by simp; omega)]

/-- The coefficients of a register after a term each (R166). -/
theorem accCoefs_eq (u : XUnit) (d : ExpReg) (terms : Nat → List (Nat × Nat)) (fl : FlagSet) : accCoefs (u.coefs d) terms fl
    = ((List.range (u.header d).size).map (fun j => (accTerms (u.coef d j) (terms j)).val),
        (List.range (u.header d).size).foldl (fun f j => f ||| (accTerms (u.coef d j) (terms j)).flags) fl) := by
  unfold accCoefs XUnit.coefs
  dsimp only
  rw [mapIdx_range, List.map_map, List.foldl_map]
  rfl

section
variable {s t : State} {k : Nat} {xo : XOp} {xrest : List XOp} {e : XEnd} {d : ExpReg} (hend : UnitEnds s k xo xrest e t)
include hend

theorem UnitEnds.takes (hw : (s.core k).xu.takeEnd e.unit xo.what = (s.core k).xu.takeReg e.unit d) {h : XHdr} {f : Nat → Nat}
    (hh : e.unit.header d = h)
    (hc : ∀ j, j < 128 → sget 0 e.unit.co (128 * d.toNat + j) = if j < h.size then BitVec.ofNat 32 (f j) else 0) :
    RegTakes s k d h f t := by
  have hxu := hend.xu
  rw [hw] at hxu
  have hhdr (r : ExpReg) : (t.core k).xu.header r = ((s.core k).xu.takeReg e.unit d).header r := by
    unfold XUnit.header
    rw [hxu]
  have hco : (t.core k).xu.co = ((s.core k).xu.takeReg e.unit d).co := by rw [hxu]
  refine ⟨fun r hr => ?_, by rw [hxu]; rfl, ?_, fun j hj => ?_⟩
  · have hne : r ≠ d := fun h => hr (List.mem_singleton.mpr h)
    rw [hhdr, takeReg_header, if_neg hne]
    refine ⟨rfl, fun j hj => ?_⟩
    rw [hco, takeReg_co r hj, if_neg hne]
  · rw [hhdr, takeReg_header, if_pos rfl, hh]
  · rw [hco, takeReg_co d hj, if_pos rfl, hc j hj]

/-- Coefficients set, by a list that a function of the index gives below a size. -/
theorem UnitEnds.takesCoefs (hw : (s.core k).xu.takeEnd e.unit xo.what = (s.core k).xu.takeReg e.unit d) {u : XUnit} {h : XHdr} {f : Nat → Nat}
    (he : e.unit = u.setCoefs d ((List.range h.size).map f)) (hh : u.header d = h) : RegTakes s k d h f t := by
  refine hend.takes hw (by rw [he]; exact hh) (fun j hj => ?_)
  rw [he, setCoefs_co _ hj, getD_map_range]
  split <;> rfl

/-- An instruction that writes no register of the unit. -/
theorem UnitEnds.keeps {kern : XKern} (hw : (s.core k).xu.takeEnd e.unit xo.what = { (s.core k).xu with kern := kern }) :
    RegsKept s k [] t ∧ (t.core k).xu.kern = kern ∧ (t.core k).xu.hdr = (s.core k).xu.hdr ∧ (t.core k).xu.co = (s.core k).xu.co := by
  have hxu := hend.xu
  rw [hw] at hxu
  refine ⟨fun r _ => ⟨by rw [hxu]; rfl, fun j _ => by rw [hxu]⟩, by rw [hxu], by rw [hxu], by rw [hxu]⟩

end

/-- A sum over the coefficients of register `b` of the unit `u`. -/
def coefTerms (u : XUnit) (b : ExpReg) (w : Nat) (f : Nat → Nat × Nat) : Res Nat := accTerms w ((List.range (u.header b).size).map f)

theorem mapIdx_coefs {α : Type} (u : XUnit) (a : ExpReg) (f : Nat → Nat → α) :
    (u.coefs a).mapIdx f = (List.range (u.header a).size).map (fun m => f m (u.coef a m)) := mapIdx_range _ _ _

section
variable {s t : State} {k : Nat} {xo : XOp} {xrest : List XOp}
  (hend : UnitEnds s k xo xrest (effectOf (s.core k) xo) t)
include hend

theorem ends_clr {d : ExpReg} {h : XHdr} {a : Nat} (hw : xo.what = .clr d a h) : RegsKept s k [d] t ∧ (t.core k).xu.header d = h
    ∧ ∀ j, j < 128 → sget 0 (t.core k).xu.co (128 * d.toNat + j) = 0 := by
  have he : effectOf (s.core k) xo = { unit := ((xo.found (s.core k).xu).setHdr d h).setCoefs d [] } := by
    rw [effectOf, hw]
    rfl
  have hreg : RegTakes s k d h (fun _ => 0) t := by
    refine hend.takes (d := d) (by rw [hw]; rfl) ?_ (fun j hj => ?_)
    · rw [he]
      exact (setCoefs_header _ _).trans (setHdr_header h)
    · rw [he, setCoefs_co [] hj]
      split <;> rfl
  obtain ⟨h1, -, h2, h3⟩ := hreg
  exact ⟨h1, h2, fun j hj => (h3 j hj).trans (by split <;> rfl)⟩

theorem ends_ld {d : ExpReg} {h : XHdr} {a : Nat} (hw : xo.what = .ld d a h) :
    RegTakes s k d h (fun j => leNat ((xo.input.drop (4 * j)).take 4)) t := by
  refine hend.takesCoefs (u := (xo.found (s.core k).xu).setHdr d h) (by rw [hw]; rfl) ?_ (setHdr_header h)
  rw [effectOf, hw]
  rfl

theorem ends_st {d : ExpReg} {h : XHdr} {a : Nat} (hw : xo.what = .st d a h) :
    let U := xo.found (s.core k).xu
    (t.core k).xu.hdr = (s.core k).xu.hdr ∧ (t.core k).xu.co = (s.core k).xu.co
    ∧ ⟨s.now, 4, .port ⟨3, a, headerBytes (U.header d)
        ++ (List.range 128).flatMap (fun j => leBytes 4 (if j < (U.header d).size then U.coef d j else 0)), [], false, .other⟩⟩ ∈ (t.core k).pend := by
  intro U
  obtain ⟨-, -, h1, h2⟩ := hend.keeps (kern := (s.core k).xu.kern) (by rw [hw]; rfl)
  refine ⟨h1, h2, hend.words (a, _) ?_⟩
  rw [effectOf, hw]
  exact List.mem_cons_self

theorem ends_setKern {y : BitVec 3} (hw : xo.what = .setKern y) : (t.core k).xu.kern = { (s.core k).xu.kern with kern := y } ∧ RegsKept s k [] t := by
  obtain ⟨h1, h2, -⟩ := hend.keeps (kern := { (s.core k).xu.kern with kern := y }) (by rw [effectOf, hw]; rfl)
  exact ⟨h2, h1⟩

theorem ends_setGamma {y : Word} (hw : xo.what = .setGamma y) : (t.core k).xu.kern = { (s.core k).xu.kern with gamma := y } ∧ RegsKept s k [] t := by
  obtain ⟨h1, h2, -⟩ := hend.keeps (kern := { (s.core k).xu.kern with gamma := y }) (by rw [effectOf, hw]; rfl)
  exact ⟨h2, h1⟩

theorem ends_setEta {y : Word} (hw : xo.what = .setEta y) : (t.core k).xu.kern = { (s.core k).xu.kern with eta := y } ∧ RegsKept s k [] t := by
  obtain ⟨h1, h2, -⟩ := hend.keeps (kern := { (s.core k).xu.kern with eta := y }) (by rw [effectOf, hw]; rfl)
  exact ⟨h2, h1⟩

/-- An instruction whose effect adds terms to the coefficients of a register (R166). -/
theorem ends_terms {d : ExpReg} {terms : Nat → List (Nat × Nat)} {fl : FlagSet}
    (hw : ∀ v, (s.core k).xu.takeEnd v xo.what = (s.core k).xu.takeReg v d)
    (he : effectOf (s.core k) xo = { unit := (xo.found (s.core k).xu).setCoefs d (accCoefs ((xo.found (s.core k).xu).coefs d) terms fl).1
                                     flags := (accCoefs ((xo.found (s.core k).xu).coefs d) terms fl).2 }) :
    let U := xo.found (s.core k).xu
    RegTakes s k d (U.header d) (fun j => (accTerms (U.coef d j) (terms j)).val) t
    ∧ (t.ctx (k, xo.ctx)).flags = (s.ctx (k, xo.ctx)).flags
        ||| (List.range (U.header d).size).foldl (fun f j => f ||| (accTerms (U.coef d j) (terms j)).flags) fl := by
  intro U
  rw [accCoefs_eq] at he
  refine ⟨hend.takesCoefs (u := U) (hw _) (by rw [he]) rfl, ?_⟩
  rw [hend.flags, he]

theorem ends_form {d : ExpReg} {a n : Nat} (hw : xo.what = .form d a n) :
    let U := xo.found (s.core k).xu
    let rows := basisRows (U.header d).geo ((List.range n).map (fun j => (recordAt xo.input j).1))
    let sum (j : Nat) : Res Nat := accTerms (U.coef d j) ((List.range n).map (fun m => ((recordAt xo.input m).2, at2 rows.1 m j)))
    RegTakes s k d (U.header d) (fun j => (sum j).val) t
    ∧ (t.ctx (k, xo.ctx)).flags = (s.ctx (k, xo.ctx)).flags
        ||| (List.range (U.header d).size).foldl (fun f j => f ||| (sum j).flags) rows.2 :=
  ends_terms hend (fun v => by rw [hw]; rfl) (by rw [effectOf, hw]; rfl)

theorem ends_m2m {d a : ExpReg} (hw : xo.what = .m2m d a) :
    let U := xo.found (s.core k).xu
    let pts := nodePts (U.header a).geo
    let rows := basisRows (U.header d).geo pts.1
    let sum (j : Nat) : Res Nat := coefTerms U a (U.coef d j) (fun m => (U.coef a m, at2 rows.1 m j))
    RegTakes s k d (U.header d) (fun j => (sum j).val) t
    ∧ (t.ctx (k, xo.ctx)).flags = (s.ctx (k, xo.ctx)).flags
        ||| (List.range (U.header d).size).foldl (fun f j => f ||| (sum j).flags) (pts.2 ||| rows.2) := by
  have h := ends_terms hend (d := d) (fun v => by rw [hw]; rfl) (by rw [effectOf, hw]; rfl)
  simp only [mapIdx_coefs] at h
  exact h

theorem ends_m2l {d a : ExpReg} (hw : xo.what = .m2l d a) :
    let U := xo.found (s.core k).xu
    let pd := nodePts (U.header d).geo
    let pa := nodePts (U.header a).geo
    let rows := kernelRows U (U.header d).dim.toNat pd.1 pa.1
    let sum (j : Nat) : Res Nat := coefTerms U a (U.coef d j) (fun m => (at2 rows.1 j m, U.coef a m))
    RegTakes s k d (U.header d) (fun j => (sum j).val) t
    ∧ (t.ctx (k, xo.ctx)).flags = (s.ctx (k, xo.ctx)).flags
        ||| (List.range (U.header d).size).foldl (fun f j => f ||| (sum j).flags) (pd.2 ||| pa.2 ||| rows.2) := by
  have h := ends_terms hend (d := d) (fun v => by rw [hw]; rfl) (by rw [effectOf, hw]; rfl)
  simp only [mapIdx_coefs] at h
  exact h

theorem ends_l2l {d a : ExpReg} (hw : xo.what = .l2l d a) :
    let U := xo.found (s.core k).xu
    let pts := nodePts (U.header d).geo
    let rows := basisRows (U.header a).geo pts.1
    let sum (j : Nat) : Res Nat := coefTerms U a (U.coef d j) (fun m => (U.coef a m, at2 rows.1 j m))
    RegTakes s k d (U.header d) (fun j => (sum j).val) t
    ∧ (t.ctx (k, xo.ctx)).flags = (s.ctx (k, xo.ctx)).flags
        ||| (List.range (U.header d).size).foldl (fun f j => f ||| (sum j).flags) (pts.2 ||| rows.2) := by
  have h := ends_terms hend (d := d) (fun v => by rw [hw]; rfl) (by rw [effectOf, hw]; rfl)
  simp only [mapIdx_coefs] at h
  exact h

/-- An instruction that writes a potential into each of its records (R166). -/
theorem ends_potentials {a n : Nat} {b : ExpReg} {rows : List (List Nat)} {fl : FlagSet}
    (hw : ∀ v, (s.core k).xu.takeEnd v xo.what = (s.core k).xu)
    (he : let rs := (List.range n).map (fun j => accTerms (recordAt xo.input j).2
        (((xo.found (s.core k).xu).coefs b).mapIdx (fun m w => (at2 rows j m, w))))
      effectOf (s.core k) xo = {
        unit := xo.found (s.core k).xu
        words := rs.mapIdx (fun j r => (a + 16 * j + 12, leBytes 4 r.val))
        flags := rs.foldl (fun f r => f ||| r.flags) fl }) :
    let U := xo.found (s.core k).xu
    let sum (j : Nat) : Res Nat := coefTerms U b (recordAt xo.input j).2 (fun m => (at2 rows j m, U.coef b m))
    (∀ j, j < n → ⟨s.now, 4, .port ⟨3, a + 16 * j + 12, leBytes 4 (sum j).val, [], false, .other⟩⟩ ∈ (t.core k).pend)
    ∧ RegsKept s k [] t
    ∧ (t.ctx (k, xo.ctx)).flags = (s.ctx (k, xo.ctx)).flags ||| (List.range n).foldl (fun f j => f ||| (sum j).flags) fl := by
  intro U sum
  have hs : (fun j => accTerms (recordAt xo.input j).2 (((xo.found (s.core k).xu).coefs b).mapIdx (fun m w => (at2 rows j m, w)))) = sum := by
    funext j
    rw [mapIdx_coefs]
    rfl
  dsimp only at he
  rw [hs, mapIdx_range, List.foldl_map] at he
  obtain ⟨h1, -⟩ := hend.keeps (kern := (s.core k).xu.kern) (hw _)
  refine ⟨fun j hj => hend.words (a + 16 * j + 12, leBytes 4 (sum j).val) ?_, h1, by rw [hend.flags, he]⟩
  rw [he]
  exact List.mem_map.mpr ⟨j, List.mem_range.mpr hj, rfl⟩

theorem ends_eval {a n : Nat} {b : ExpReg} (hw : xo.what = .eval a b n) :
    let U := xo.found (s.core k).xu
    let rows := basisRows (U.header b).geo ((List.range n).map (fun j => (recordAt xo.input j).1))
    let sum (j : Nat) : Res Nat := coefTerms U b (recordAt xo.input j).2 (fun m => (at2 rows.1 j m, U.coef b m))
    (∀ j, j < n → ⟨s.now, 4, .port ⟨3, a + 16 * j + 12, leBytes 4 (sum j).val, [], false, .other⟩⟩ ∈ (t.core k).pend)
    ∧ RegsKept s k [] t
    ∧ (t.ctx (k, xo.ctx)).flags = (s.ctx (k, xo.ctx)).flags ||| (List.range n).foldl (fun f j => f ||| (sum j).flags) rows.2 :=
  ends_potentials hend (fun v => by rw [hw]; rfl) (by rw [effectOf, hw]; rfl)

theorem ends_m2p {a n : Nat} {b : ExpReg} (hw : xo.what = .m2p a b n) :
    let U := xo.found (s.core k).xu
    let pts := nodePts (U.header b).geo
    let rows := kernelRows U (U.header b).dim.toNat ((List.range n).map (fun j => (recordAt xo.input j).1)) pts.1
    let sum (j : Nat) : Res Nat := coefTerms U b (recordAt xo.input j).2 (fun m => (at2 rows.1 j m, U.coef b m))
    (∀ j, j < n → ⟨s.now, 4, .port ⟨3, a + 16 * j + 12, leBytes 4 (sum j).val, [], false, .other⟩⟩ ∈ (t.core k).pend)
    ∧ RegsKept s k [] t
    ∧ (t.ctx (k, xo.ctx)).flags = (s.ctx (k, xo.ctx)).flags ||| (List.range n).foldl (fun f j => f ||| (sum j).flags) (pts.2 ||| rows.2) :=
  ends_potentials hend (fun v => by rw [hw]; rfl) (by rw [effectOf, hw]; rfl)

theorem ends_adm {d : PredReg} {a b : ExpReg} (hw : xo.what = .adm d a b) :
    let U := xo.found (s.core k).xu
    RegsKept s k [] t ∧ (t.ctx (k, xo.ctx)).pred d = (d == 0 || admissible (U.header a) (U.header b) U.kern.eta) := by
  obtain ⟨h1, -⟩ := hend.keeps (kern := (s.core k).xu.kern) (by rw [hw]; rfl)
  exact ⟨h1, hend.pred d _ (by rw [effectOf, hw]; rfl)⟩

end

end Sys2Proof.Proofs
end

section
/-! PROOFS. The engines' own steps (R192, R193, R198 to R208): commands start, move their units, write their stamps and end, installs
keep the old contents until their stamp, and static entries and collectives complete. -/

namespace Sys2Proof.Proofs

open Sys2Proof.Machine Sys2Proof.Safety Sys2Proof.Laws

/-! ### Slots -/

/-- In column `col` slot `i` holds `x`, and every other slot what it held. -/
def SlotIs (s : State) (col i : Nat) (x : Option Slot) (t : State) : Prop :=
  ∀ j, (t.col col).slot j = if j = i then x else (s.col col).slot j

section
variable {s t u : State} {col i : Nat} {x : Option Slot} {sl : Slot}

theorem slotIs_setSlot (s : State) (col i : Nat) (x : Option Slot) : SlotIs s col i x (s.setSlot col i x) := by
  intro j
  rw [State.setSlot, col_modCol, if_pos rfl]
  show sget none (sset none _ _ _) j = _
  rw [sget_sset]
  by_cases h : j = i
  · rw [if_pos h.symm, if_pos h]
  · rw [if_neg (Ne.symm h), if_neg h]
    rfl

theorem slotIs_modSlot (h : (s.col col).slot i = some sl) (f : Slot → Slot) : SlotIs s col i (some (f sl)) (s.modSlot col i f) := by
  have := slotIs_setSlot s col i (some (f sl))
  rw [State.modSlot, h]
  exact this

/-- Slots depend on their column alone. -/
theorem SlotIs.of_slots (h : SlotIs s col i x t) (hs : ∀ j, (s.col col).slot j = (u.col col).slot j) : SlotIs u col i x t :=
  fun j => (h j).trans (by rw [hs])

theorem SlotIs.of_cols (h : SlotIs s col i x t) (hc : t.cols = u.cols) : SlotIs s col i x u := by
  intro j
  have : u.col col = t.col col := by rw [State.col, State.col, hc]
  rw [this]
  exact h j

end

/-! ### A command starts (R200) -/

section
variable {s : State} {col i : Nat} {sl : Slot}

theorem commandStart_none (h : (s.col col).slot i = none) :
    Happens s (.engineCommandStart col i) .engineCommandStart (fun t => t = s) := by
  intro he
  refine ⟨_, ?_, rfl⟩
  show execEngineCommandStart s = _
  unfold execEngineCommandStart
  rw [he]
  dsimp only
  rw [h]

theorem engineUnit_none (h : (s.col col).slot i = none) : Happens s (.engineUnit col i) .engineUnit (fun t => t = s) := by
  intro he
  refine ⟨_, ?_, rfl⟩
  show execEngineUnit s = _
  unfold execEngineUnit
  rw [he]
  dsimp only
  rw [h]

theorem engineStamp_none (h : (s.col col).slot i = none) :
    Happens s (.engineStampWrite col i) .engineStampWrite (fun t => t = s) := by
  intro he
  refine ⟨_, ?_, rfl⟩
  show execEngineStampWrite s = _
  unfold execEngineStampWrite
  rw [he]
  dsimp only
  rw [h]

/-- The number of an install's pages is hidden: the kernel would count up to it. -/
theorem execInstallComplete_none {f : State → Host.Outcome State Fault Refusal} (hf : f = execInstallComplete)
    (h : (s.col col).slot i = none) (he : s.event = some (.installComplete col i)) : f s = .next s := by
  delta execInstallComplete at hf
  obtain ⟨n, hn⟩ : ∃ n, 262144 = n := ⟨_, rfl⟩
  rw [hn] at hf
  rw [hf]
  beta_reduce
  rw [he]
  dsimp only
  rw [h]

theorem installComplete_none (h : (s.col col).slot i = none) :
    Happens s (.installComplete col i) .installComplete (fun t => t = s) :=
  fun he => ⟨_, execInstallComplete_none rfl h he, rfl⟩

theorem collComplete_none (h : (s.col col).slot i = none) (contribs : List (List Byte)) (agree : Bool) :
    Happens s (.collComplete col i contribs agree) .collComplete (fun t => t = s) := by
  intro he
  refine ⟨_, ?_, rfl⟩
  show execCollComplete s = _
  unfold execCollComplete
  rw [he]
  dsimp only
  rw [h]

variable (h : (s.col col).slot i = some sl)
include h

theorem commandStart_waits (hearly : (s.col col).earlier sl.num = true) : Happens s (.engineCommandStart col i) .engineCommandStart
    (fun t => t = s.post (s.now + 120) (.engineCommandStart col i)) := by
  intro he
  refine ⟨_, ?_, rfl⟩
  show execEngineCommandStart s = _
  unfold execEngineCommandStart
  rw [he]
  dsimp only
  rw [h]
  dsimp only
  rw [if_pos hearly]
  rfl

variable (hearly : (s.col col).earlier sl.num = false)
include hearly

theorem commandStart_copy (hk : sl.kind = .cpy ∨ sl.kind = .cpys ∨ sl.kind = .cpyg) :
    Happens s (.engineCommandStart col i) .engineCommandStart (fun t => SlotIs s col i (some { sl with started := true }) t ∧ t.cores = s.cores
      ∧ ∃ u, s.now ≤ u ∧ Posts s t u (.engineUnit col i)) := by
  intro he
  let v : State := { s with fresh := s.fresh + 1 }
  have hrow : exec .engineCommandStart s = .next ((v.modSlot col i (fun x => { x with started := true })).post
      (s.now + (0 + Config.freeLatency s.fresh)) (.engineUnit col i)) := by
    show execEngineCommandStart s = _
    unfold execEngineCommandStart
    rw [he]
    dsimp only
    rw [h]
    dsimp only
    rw [if_neg (by rw [hearly]; exact Bool.false_ne_true)]
    rcases hk with hk | hk | hk <;> rw [hk] <;> rfl
  exact ⟨_, hrow, slotIs_modSlot (s := v) h _, rfl, _, Nat.le_add_right _ _, rfl⟩

/-- The row of an install's start. -/
theorem commandStart_install (he : s.event = some (.engineCommandStart col i)) (hk : sl.kind = .finst) : exec .engineCommandStart s
    = .next ((s.modSlot col i (fun x => { x with started := true })).startInstall sl.cmd.dst.toNat) := by
  show execEngineCommandStart s = _
  unfold execEngineCommandStart
  rw [he]
  dsimp only
  rw [h]
  dsimp only
  rw [if_neg (by rw [hearly]; exact Bool.false_ne_true), hk]

theorem installStart_behind (hk : sl.kind = .finst) (hr : (s.dev.extent sl.cmd.dst.toNat).running = true) :
    Happens s (.engineCommandStart col i) .engineCommandStart (fun t => SlotIs s col i (some { sl with started := true }) t
      ∧ t.dev = s.dev ∧ t.agenda = s.agenda) := by
  intro he
  have hstay : (s.modSlot col i (fun x => { x with started := true })).startInstall sl.cmd.dst.toNat
      = s.modSlot col i (fun x => { x with started := true }) := if_pos hr
  exact ⟨_, (commandStart_install h hearly he hk).trans (congrArg _ hstay), slotIs_modSlot h _, rfl, rfl⟩

/-- An extent of the device is `f`, every other one as before. -/
def ExtentIs (s : State) (e : Nat) (f : Extent) (t : State) : Prop := ∀ j, t.dev.extent j = if j = e then f else s.dev.extent j

omit h hearly in
theorem extentIs_modExtent (s : State) (e : Nat) (f : Extent → Extent) : ExtentIs s e (f (s.dev.extent e)) (s.modExtent e f) := by
  intro j
  show sget _ (sset _ _ _ _) j = _
  rw [sget_sset]
  by_cases h : j = e
  · rw [if_pos h.symm, if_pos h]
  · rw [if_neg (Ne.symm h), if_neg h]
    rfl

/-- At the head of its extent's queue the install runs, or finds at once that it cannot (R192, R193). -/
theorem installStart_runs {rest : List (Nat × Nat)} (hk : sl.kind = .finst) (hr : (s.dev.extent sl.cmd.dst.toNat).running = false)
    (hq : (s.dev.extent sl.cmd.dst.toNat).queue = (col, i) :: rest) :
    let x := s.dev.extent sl.cmd.dst.toNat
    Happens s (.engineCommandStart col i) .engineCommandStart (fun t => ExtentIs s sl.cmd.dst.toNat { x with running := true } t
      ∧ (3000 ≤ x.wear.toNat ∨ (s.part sl.part).budget = 0 → SlotIs s col i (some { sl with started := true }) t
        ∧ Posts s t s.now (.installComplete col i))
      ∧ (x.wear.toNat < 3000 → (s.part sl.part).budget ≠ 0 → SlotIs s col i (some { sl with started := true, off := 1 }) t
        ∧ ∃ u, s.now < u ∧ Posts s t u (.installComplete col i))) := by
  intro x he
  let v := s.modSlot col i (fun x => { x with started := true })
  let started : Slot := { sl with started := true }
  have hv : SlotIs s col i (some started) v := slotIs_modSlot h _
  have hvi : (v.col col).slot i = some started := (hv i).trans (if_pos rfl)
  let run (w : State) : State := w.modExtent sl.cmd.dst.toNat (fun x => { x with running := true })
  let w : State := { v with fresh := v.fresh + 1 }
  have hstart : v.startInstall sl.cmd.dst.toNat
      = if 3000 ≤ x.wear.toNat then (run v).post s.now (.installComplete col i)
        else if (s.part sl.part).budget = 0 then (run v).post s.now (.installComplete col i)
        else ((run w).modSlot col i (fun y => { y with started := true, off := 1 })).post (s.now + (1 + Config.freeLatency s.fresh)) (.installComplete col i) := by
    unfold State.startInstall
    rw [if_neg (show ¬ (v.dev.extent sl.cmd.dst.toNat).running = true by
      show ¬ (s.dev.extent sl.cmd.dst.toNat).running = true
      rw [hr]; exact Bool.false_ne_true)]
    rw [show (v.dev.extent sl.cmd.dst.toNat).queue = (col, i) :: rest from hq]
    dsimp only
    rw [hvi]
    rfl
  refine ⟨_, commandStart_install h hearly he hk, ?_⟩
  rw [hstart]
  have hext (y : State) (hy : y.dev = s.dev) : ExtentIs s sl.cmd.dst.toNat { x with running := true } (run y) := by
    intro j
    have := extentIs_modExtent y sl.cmd.dst.toNat (fun x => { x with running := true }) j
    rw [hy] at this
    exact this
  have hnow (hor : 3000 ≤ x.wear.toNat ∨ (s.part sl.part).budget = 0) :
      ExtentIs s sl.cmd.dst.toNat { x with running := true } ((run v).post s.now (.installComplete col i))
      ∧ (3000 ≤ x.wear.toNat ∨ (s.part sl.part).budget = 0 → SlotIs s col i (some started) ((run v).post s.now (.installComplete col i))
        ∧ Posts s ((run v).post s.now (.installComplete col i)) s.now (.installComplete col i))
      ∧ (x.wear.toNat < 3000 → (s.part sl.part).budget ≠ 0 →
        SlotIs s col i (some { sl with started := true, off := 1 }) ((run v).post s.now (.installComplete col i))
        ∧ ∃ u, s.now < u ∧ Posts s ((run v).post s.now (.installComplete col i)) u (.installComplete col i)) :=
    ⟨hext v rfl, fun _ => ⟨hv, rfl⟩, fun h1 h2 => absurd hor (not_or.mpr ⟨by omega, h2⟩)⟩
  by_cases hw : 3000 ≤ x.wear.toNat
  · rw [if_pos hw]
    exact hnow (.inl hw)
  · rw [if_neg hw]
    by_cases hb : (s.part sl.part).budget = 0
    · rw [if_pos hb]
      exact hnow (.inr hb)
    · rw [if_neg hb]
      refine ⟨hext w rfl, fun hor => absurd hor (not_or.mpr ⟨hw, hb⟩), fun _ _ => ⟨?_, _, by omega, rfl⟩⟩
      have h2 : SlotIs (run w) col i (some { started with started := true, off := 1 }) _ := slotIs_modSlot (s := run w) (sl := started) hvi
        (fun y => { y with started := true, off := 1 })
      intro j
      refine (h2 j).trans ?_
      by_cases hj : j = i
      · rw [if_pos hj, if_pos hj]
      · rw [if_neg hj, if_neg hj]
        exact (hv j).trans (if_neg hj)

end

/-! ### Units and stamps (R198, R201) -/

/-- The engine channel's write takes its place among those of the next cycle of its bank (R179). -/
def PutUnder (s : State) (col i : Nat) (ep : DWord) (off : Nat) (bs : List Byte) (t : State) : Prop :=
  ⟨ceilTo (cyc (epCore col ep)) (s.now + 1), 4, .port ⟨0, epAddr ep off, bs, [], false, .slot col i⟩⟩ ∈ (t.core (epCore col ep)).pend
  ∧ (∀ j b, nearByte t j b = nearByte s j b) ∧ ∀ j, j ≠ epCore col ep → t.core j = s.core j

/-- A command's stamp is to be written. -/
def Stamped (s : State) (col i : Nat) (sl : Slot) (code : BitVec 16) (t : State) : Prop :=
  SlotIs s col i (some { sl with status := code }) t ∧ ⟨s.now + Config.cycleTicks 0, .engineStampWrite col i⟩ ∈ t.agenda

section
variable {s t u : State} {col i : Nat} {sl : Slot}

theorem putUnder_epWrite (s : State) (col i : Nat) (ep : DWord) (off : Nat) (bs : List Byte) :
    PutUnder s col i ep off bs (s.epWrite (.slot col i) col ep off bs []) := by
  have hgo := (coreGoes_refl (epCore col ep) s).modCore (fun c => c.pendAt (ceilTo (cyc (epCore col ep)) (s.now + 1)) 4
    (.port ⟨0, epAddr ep off, bs, [], false, .slot col i⟩))
  refine ⟨?_, fun j b => ?_, hgo.2⟩
  · exact (congrArg Core.pend hgo.1).symm ▸ mem_pendAt _ _ _ _
  · by_cases hj : j = epCore col ep
    · subst hj
      exact (congrArg (fun c : Core => sget 0 c.near b) hgo.1 :)
    · exact (congrArg (fun c : Core => sget 0 c.near b) (hgo.2 j hj) :)

theorem PutUnder.of_cores {ep : DWord} {off : Nat} {bs : List Byte} (h : PutUnder s col i ep off bs t) (hc : u.cores = t.cores) :
    PutUnder s col i ep off bs u := by
  have hcore (j : Nat) : u.core j = t.core j := congrArg (fun m => sget Core.reset m j) hc
  obtain ⟨h1, h2, h3⟩ := h
  refine ⟨?_, fun j b => ?_, fun j hj => (hcore j).trans (h3 j hj)⟩
  · rw [hcore]; exact h1
  · rw [nearByte, hcore]; exact h2 j b

theorem PutUnder.from_cores {ep : DWord} {off : Nat} {bs : List Byte} (h : PutUnder u col i ep off bs t) (hc : u.cores = s.cores)
    (hn : u.now = s.now) : PutUnder s col i ep off bs t := by
  have hcore (j : Nat) : u.core j = s.core j := congrArg (fun m => sget Core.reset m j) hc
  obtain ⟨h1, h2, h3⟩ := h
  rw [hn] at h1
  refine ⟨h1, fun j b => (h2 j b).trans ?_, fun j hj => (h3 j hj).trans (hcore j)⟩
  rw [nearByte, hcore]
  rfl

theorem stamped_endCommand (h : (s.col col).slot i = some sl) (code : BitVec 16) : Stamped s col i sl code (s.endCommand col i code) :=
  ⟨slotIs_modSlot h (fun x => { x with status := code }), (mem_agendaInsert _ _ _).mpr (.inl rfl)⟩

/-- Stamps depend on the column's slots and the tick alone. -/
theorem Stamped.from_slots {code : BitVec 16} (h : Stamped u col i sl code t) (hs : ∀ j, (u.col col).slot j = (s.col col).slot j)
    (hn : u.now = s.now) : Stamped s col i sl code t := by
  obtain ⟨h1, h2⟩ := h
  rw [hn] at h2
  exact ⟨h1.of_slots hs, h2⟩

variable (h : (s.col col).slot i = some sl)
include h

theorem engineUnit_waits (hw : s.writing (.slot col i) = true) : Happens s (.engineUnit col i) .engineUnit
    (fun t => t = s.post (s.now + Config.cycleTicks 0) (.engineUnit col i)) := by
  intro he
  refine ⟨_, ?_, rfl⟩
  show execEngineUnit s = _
  unfold execEngineUnit
  rw [he]
  dsimp only
  rw [h]
  dsimp only
  rw [if_pos hw]

theorem engineStamp_waits (hw : s.writing (.slot col i) = true) : Happens s (.engineStampWrite col i) .engineStampWrite
    (fun t => t = s.post (s.now + Config.cycleTicks 0) (.engineStampWrite col i)) := by
  intro he
  refine ⟨_, ?_, rfl⟩
  show execEngineStampWrite s = _
  unfold execEngineStampWrite
  rw [he]
  dsimp only
  rw [h]
  dsimp only
  rw [if_pos hw]

variable (hw : s.writing (.slot col i) = false)
include hw

/-- A near stamp takes its place among the writes of its bank's next cycle (R201). -/
theorem engineStamp_writes (hn : epNear sl.cmd.stamp = true) (hd : sl.done = false) :
    Happens s (.engineStampWrite col i) .engineStampWrite (fun t => SlotIs s col i (some { sl with done := true }) t
      ∧ PutUnder s col i sl.cmd.stamp (epOff sl.cmd.stamp) (leBytes 8 (sl.cmd.seq.toNat + sl.status.toNat * 2 ^ 48)) t
      ∧ Posts s t (ceilTo (cyc (epCore col sl.cmd.stamp)) (s.now + 1)) (.engineStampWrite col i)) := by
  intro he
  let bs := leBytes 8 (stampWord sl.cmd sl.status)
  let v := s.epWrite (.slot col i) col sl.cmd.stamp (epOff sl.cmd.stamp) bs []
  have hrow : exec .engineStampWrite s = .next ((v.modSlot col i (fun x => { x with done := true })).post
      (ceilTo (cyc (epCore col sl.cmd.stamp)) (s.now + 1)) (.engineStampWrite col i)) := by
    show execEngineStampWrite s = _
    unfold execEngineStampWrite
    rw [he]
    dsimp only
    rw [h]
    dsimp only
    rw [if_neg (by rw [hw]; exact Bool.false_ne_true), if_pos ⟨hn, by rw [hd]; rfl⟩]
  have hput := putUnder_epWrite s col i sl.cmd.stamp (epOff sl.cmd.stamp) bs
  exact ⟨_, hrow, slotIs_modSlot (s := v) h _, hput.of_cores rfl, rfl⟩

/-- In the cycle of its stamp a command frees its slot (R192, R201). -/
theorem engineStamp_row (he : s.event = some (.engineStampWrite col i)) (hn : epNear sl.cmd.stamp = true) (hd : sl.done = true) :
    exec .engineStampWrite s = .next (((s.switchExtent sl).freeSlot col i sl).nextInstall sl) := by
  show execEngineStampWrite s = _
  unfold execEngineStampWrite
  rw [he]
  dsimp only
  rw [h]
  dsimp only
  rw [if_neg (by rw [hw]; exact Bool.false_ne_true), if_neg (by rw [hd]; simp), if_pos hn]

omit h hw in
theorem freeSlot_plain (v : State) (ho : sl.owner = none) (hnode : sl.node = none) (hi : i < 32) : v.freeSlot col i sl = v.setSlot col i none := by
  unfold State.freeSlot
  rw [ho, hnode]
  exact if_neg (by omega)

theorem engineStamp_frees (hn : epNear sl.cmd.stamp = true) (hd : sl.done = true) (ho : sl.owner = none) (hnode : sl.node = none) (hi : i < 32)
    (hk : sl.kind ≠ .finst) : Happens s (.engineStampWrite col i) .engineStampWrite (fun t => SlotIs s col i none t ∧ t.cores = s.cores ∧ t.dev = s.dev) := by
  intro he
  have hfree : ((s.switchExtent sl).freeSlot col i sl).nextInstall sl = s.setSlot col i none := by
    have hsw : s.switchExtent sl = s := by
      unfold State.switchExtent
      rw [if_neg (fun hh => hk hh.1), if_neg (fun hh => hk hh.1)]
    unfold State.nextInstall
    rw [if_pos hk, hsw, freeSlot_plain s ho hnode hi]
  exact ⟨_, (engineStamp_row h hw he hn hd).trans (congrArg _ hfree), slotIs_setSlot s col i none, rfl, rfl⟩

omit h hw in
theorem epWrite_forget_cols (v : State) (w : Writer) (col : Nat) (ep : DWord) (off : Nat) (bs : List Byte) (bad : List Nat) (ev : Event) :
    ((v.epWrite w col ep off bs bad).forget ev).cols = v.cols := rfl

omit h hw in
theorem epWrite_forget_now (v : State) (w : Writer) (col : Nat) (ep : DWord) (off : Nat) (bs : List Byte) (bad : List Nat) (ev : Event) :
    ((v.epWrite w col ep off bs bad).forget ev).now = v.now := rfl

omit h hw in
theorem forget_cores (w : State) (ev : Event) : (w.forget ev).cores = w.cores := rfl

omit h hw in
theorem afterUnit_more (x : State) {sl : Slot} (hx : (x.col col).slot i = some sl) (hbuf : sl.buf = []) {n : Nat} (hmore : sl.off + n < sl.cmd.len) :
    SlotIs x col i (some { sl with off := sl.off + n }) (x.afterUnit col i sl n)
      ∧ (∃ u, x.now < u ∧ ⟨u, .engineUnit col i⟩ ∈ (x.afterUnit col i sl n).agenda) ∧ (x.afterUnit col i sl n).cores = x.cores := by
  have hunit : x.afterUnit col i sl n = (({ x with fresh := x.fresh + 1 } : State).modSlot col i
      (fun y => { y with off := y.off + n, buf := [] })).post (x.now + (Config.cycleTicks 0 + Config.freeLatency x.fresh)) (.engineUnit col i) :=
    if_pos hmore
  have hsl : ({ sl with off := sl.off + n, buf := [] } : Slot) = { sl with off := sl.off + n } := by rw [← hbuf]
  rw [hunit]
  refine ⟨?_, ⟨_, ?_, (mem_agendaInsert _ _ _).mpr (.inl rfl)⟩, rfl⟩
  · have hmod := slotIs_modSlot (s := { x with fresh := x.fresh + 1 }) hx (fun y => { y with off := y.off + n, buf := [] })
    rw [hsl] at hmod
    exact hmod
  · have : 0 < Config.cycleTicks 0 := by decide
    omega

omit h hw in
theorem afterUnit_last (x : State) {sl : Slot} (hx : (x.col col).slot i = some sl) (hrow : sl.row = 0) (hrows : sl.cmd.rows = 1) {n : Nat}
    (hlast : sl.cmd.len ≤ sl.off + n) :
    Stamped x col i sl 0 (x.afterUnit col i sl n) ∧ (x.afterUnit col i sl n).cores = x.cores := by
  have hunit : x.afterUnit col i sl n = ({ x with fresh := x.fresh + 1 } : State).endCommand col i 0 := by
    unfold State.afterUnit
    dsimp only
    rw [if_neg (by omega), if_neg (by omega)]
    rfl
  rw [hunit]
  exact ⟨stamped_endCommand (s := { x with fresh := x.fresh + 1 }) hx 0, rfl⟩

/-- One unit of a copy between near endpoints (R198). -/
theorem engineUnit_moves (hbuf : sl.buf = []) (hk : sl.kind = .cpy) (hsrc : epNear sl.cmd.src = true) (hdst : epNear sl.cmd.dst = true)
    (hq : NoneDue s (epCore col sl.cmd.src)) (hrow : sl.row = 0) (hrows : sl.cmd.rows = 1)
    (hclean : (s.core (epCore col sl.cmd.src)).badWords (epAddr sl.cmd.src (epOff sl.cmd.src + sl.off)) (min 64 (sl.cmd.len - sl.off)) = []) :
    let c := sl.cmd
    let n := min 64 (c.len - sl.off)
    let bytes := (List.range n).map (fun b => nearByte s (epCore col c.src) (epAddr c.src (epOff c.src + sl.off) + b))
    Happens s (.engineUnit col i) .engineUnit (fun t => PutUnder s col i c.dst (epOff c.dst + sl.off) bytes t
      ∧ (sl.off + n < c.len → SlotIs s col i (some { sl with off := sl.off + n }) t ∧ ∃ u, s.now < u ∧ ⟨u, .engineUnit col i⟩ ∈ t.agenda)
      ∧ (c.len ≤ sl.off + n → Stamped s col i sl 0 t)) := by
  intro c n bytes he
  let src := epCore col c.src
  let a := epAddr c.src (epOff c.src + sl.off)
  let v := s.correct src a n
  let w := v.epWrite (.slot col i) col c.dst (epOff c.dst + sl.off) bytes []
  have hvc : v.cores = s.cores := count_cores _ _ _
  have hvn : v.now = s.now := count_now _ _ _
  have hread : s.epRead col c.src (epOff c.src + sl.off) n = (bytes, [], v) := by
    have hcore : v.core src = s.core src := count_core _ _ _ _
    unfold State.epRead
    dsimp only
    rw [settle_noneDue hq]
    show ((v.core src).readN a n, _, v) = _
    rw [hcore, Core.readN, readBytes_eq_map, hclean]
    rfl
  have hmove : s.moveUnit col i sl (epOff c.src + sl.off) (epOff c.dst + sl.off) n (.engineUnit col i) = (.moved, w) := by
    unfold State.moveUnit
    dsimp only
    rw [if_neg (not_not.mpr hbuf), if_pos hsrc, hread]
    dsimp only
    rw [if_pos hdst]
  have hslots (j : Nat) : (v.col col).slot j = (s.col col).slot j := by
    show ((s.count _ _).col col).slot j = _
    unfold State.count
    split
    · rfl
    · rw [col_modCol]
      split
      · next hc => rw [hc]; rfl
      · rfl
  let x := w.forget (.engineUnit col i)
  have hcols (j : Nat) : (x.col col).slot j = (s.col col).slot j := by
    have hx : x.cols = v.cols := epWrite_forget_cols v _ _ _ _ _ _ _
    rw [State.col, hx]
    exact hslots j
  have hxi : (x.col col).slot i = some sl := (hcols i).trans h
  have hxn : x.now = s.now := (epWrite_forget_now v _ _ _ _ _ _ _).trans hvn
  have hxc : x.cores = w.cores := forget_cores w _
  have hfinal : exec .engineUnit s = .next (x.afterUnit col i sl n) := by
    show execEngineUnit s = _
    unfold execEngineUnit
    rw [he]
    dsimp only
    rw [h]
    dsimp only
    rw [if_neg (by rw [hw]; exact Bool.false_ne_true), hk, if_neg (by decide), if_neg (fun hh => absurd hh.1 (by decide)), hrow,
      Nat.zero_mul, Nat.zero_mul, Nat.add_zero, Nat.add_zero]
    rw [show s.moveUnit col i sl (epOff sl.cmd.src + sl.off) (epOff sl.cmd.dst + sl.off) (min 64 (sl.cmd.len - sl.off)) (.engineUnit col i)
      = (.moved, w) from hmove]
  have hput : PutUnder s col i c.dst (epOff c.dst + sl.off) bytes w :=
    (putUnder_epWrite v col i c.dst (epOff c.dst + sl.off) bytes).from_cores hvc hvn
  refine ⟨_, hfinal, ?_⟩
  have hfin (y : State) (hy : y.cores = x.cores) : PutUnder s col i c.dst (epOff c.dst + sl.off) bytes y := hput.of_cores (hy.trans hxc)
  clear_value x
  by_cases hmore : sl.off + n < c.len
  · obtain ⟨hslot, ⟨u, hu, hmem⟩, hcores⟩ := afterUnit_more x hxi hbuf hmore
    exact ⟨hfin _ hcores, fun _ => ⟨hslot.of_slots hcols, u, hxn ▸ hu, hmem⟩, fun hle => absurd hle (by omega)⟩
  · obtain ⟨hst, hcores⟩ := afterUnit_last x hxi hrow hrows (Nat.le_of_not_lt hmore)
    exact ⟨hfin _ hcores, fun hlt => absurd hlt hmore, fun _ => hst.from_slots hcols hxn⟩

end

end Sys2Proof.Proofs
end

section
/-! PROOFS. Installs, static entries and collectives (R192, R193, R205 to R208): an extent is switched with the stamp of its install and
keeps its contents until then; entries of a static schedule start with their stage; collectives end with their status. -/

namespace Sys2Proof.Proofs

open Sys2Proof.Machine Sys2Proof.Safety Sys2Proof.Laws

/-! ### Fresh blocks put in place -/

theorem sget_unlisted {α : Type} (d : α) {m : Sparse α} {k : Nat} (h : ∀ e ∈ m, e.1 ≠ k) : sget d m k = d := by
  induction m with
  | nil => rfl
  | cons e r ih =>
    rw [sget, if_neg (h e List.mem_cons_self)]
    exact ih (fun y hy => h y (List.mem_cons_of_mem _ hy))

theorem sget_shifted (lo a : Nat) {fresh : Sparse Byte} : ∀ {n : Nat} (m : Sparse Byte), swfFrom 0 n fresh = true →
    sget 0 (fresh.foldl (fun m b => sset 0 m (lo + b.1) b.2) m) a
      = if lo + n ≤ a ∧ sget 0 fresh (a - lo) ≠ 0 then sget 0 fresh (a - lo) else sget 0 m a := by
  induction fresh with
  | nil =>
    intro n m _
    exact (if_neg (fun h => h.2 rfl)).symm
  | cons b r ih =>
    obtain ⟨k, v⟩ := b
    intro n m h
    simp only [swfFrom, Bool.and_eq_true, decide_eq_true_eq] at h
    obtain ⟨⟨hnk, hv⟩, hr⟩ := h
    rw [List.foldl_cons, ih _ hr]
    by_cases ha : a = lo + k
    · subst ha
      rw [if_neg (by omega), sget_sset_same, Nat.add_sub_cancel_left, sget, if_pos rfl, if_pos ⟨by omega, hv⟩]
    · rw [sget_sset_other _ _ _ (Ne.symm ha)]
      by_cases hlo : lo + (k + 1) ≤ a
      · have hrest : sget 0 ((k, v) :: r) (a - lo) = sget 0 r (a - lo) := by rw [sget, if_neg (by omega)]
        rw [hrest]
        exact if_congr (and_congr_left' ⟨fun _ => by omega, fun _ => hlo⟩) rfl rfl
      · rw [if_neg (fun hh => hlo hh.1), if_neg]
        rintro ⟨hna, hne⟩
        rw [sget, if_neg (by omega)] at hne
        exact hne (sget_below hr (by omega))

/-- An extent's range holds its fresh blocks, and every other byte stays. -/
theorem sget_switched {far fresh : Sparse Byte} (lo n b : Nat) (hf : swf 0 fresh = true) (hin : ∀ e ∈ fresh, e.1 < n) :
    sget 0 (fresh.foldl (fun m b => sset 0 m (lo + b.1) b.2) (far.filter (fun b => !decide (lo ≤ b.1 ∧ b.1 < lo + n)))) b
      = if lo ≤ b ∧ b < lo + n then sget 0 fresh (b - lo) else sget 0 far b := by
  rw [sget_shifted lo b _ hf, sget_filter_key 0 (fun j => !decide (lo ≤ j ∧ j < lo + n)), Nat.add_zero]
  by_cases hb : lo ≤ b ∧ b < lo + n
  · rw [if_pos hb, if_neg (c := (!decide (lo ≤ b ∧ b < lo + n)) = true) (by simp [hb])]
    by_cases hz : sget 0 fresh (b - lo) = 0
    · rw [if_neg (fun h => h.2 hz)]
      exact hz.symm
    · rw [if_pos ⟨hb.1, hz⟩]
  · rw [if_neg hb, if_pos (c := (!decide (lo ≤ b ∧ b < lo + n)) = true) (by rw [decide_eq_false hb]; rfl), if_neg]
    rintro ⟨hlo, hne⟩
    exact hne (sget_unlisted 0 (fun e he heq => hb ⟨hlo, by have := hin e he; omega⟩))

section
variable {s : State} {col i : Nat} {sl : Slot} {e : Nat} (h : (s.col col).slot i = some sl) (hw : s.writing (.slot col i) = false)
include h hw

/-- In the cycle of its stamp an install puts its fresh blocks in place (R192). -/
theorem engineStamp_switches (hn : epNear sl.cmd.stamp = true) (hd : sl.done = true) (ho : sl.owner = none) (hnode : sl.node = none) (hi : i < 32)
    (hk : sl.kind = .finst) (hst : sl.status = 0) (hdst : sl.cmd.dst.toNat = e) (hq : (s.dev.extent e).queue = [(col, i)])
    (hfresh : swf 0 (s.dev.extent e).fresh = true) (hin : ∀ b ∈ (s.dev.extent e).fresh, b.1 < Config.extentSize) :
    Happens s (.engineStampWrite col i) .engineStampWrite (fun t => SlotIs s col i none t
      ∧ ExtentIs s e { s.dev.extent e with fresh := [], state := 0, queue := [], running := false } t
      ∧ ∀ b, farByte t b = if Config.flashBase + e * Config.extentSize ≤ b ∧ b < Config.flashBase + (e + 1) * Config.extentSize then
          sget 0 (s.dev.extent e).fresh (b - (Config.flashBase + e * Config.extentSize)) else farByte s b) := by
  intro he
  obtain ⟨v, hv⟩ : ∃ v, v = s.switchExtent sl := ⟨_, rfl⟩
  have hvx : ExtentIs s e { s.dev.extent e with fresh := [], state := 0 } v := by
    rw [hv, State.switchExtent, if_pos ⟨hk, .inl hst⟩, hdst]
    exact extentIs_modExtent _ e _
  have hvfar (b : Nat) : farByte v b = if Config.flashBase + e * Config.extentSize ≤ b ∧ b < Config.flashBase + (e + 1) * Config.extentSize then
      sget 0 (s.dev.extent e).fresh (b - (Config.flashBase + e * Config.extentSize)) else farByte s b := by
    rw [hv, State.switchExtent, if_pos ⟨hk, .inl hst⟩, hdst]
    refine (sget_switched (far := s.dev.far) (Config.flashBase + e * Config.extentSize) Config.extentSize b hfresh hin).trans ?_
    rw [Nat.succ_mul, Nat.add_assoc]
    rfl
  have hvcols : v.cols = s.cols := by
    rw [hv, State.switchExtent, if_pos ⟨hk, .inl hst⟩]
    rfl
  have hve : v.dev.extent e = { s.dev.extent e with fresh := [], state := 0 } := (hvx e).trans (if_pos rfl)
  let w : State := (v.setSlot col i none).modExtent e (fun x => { x with queue := x.queue.tail, running := false })
  have hwx : ExtentIs v e { s.dev.extent e with fresh := [], state := 0, queue := [], running := false } w := by
    have := extentIs_modExtent (v.setSlot col i none) e (fun x => { x with queue := x.queue.tail, running := false })
    have hx : (v.setSlot col i none).dev.extent e = _ := hve
    rw [hx] at this
    dsimp only at this
    rw [hq] at this
    exact this
  have hwe : w.dev.extent e = { s.dev.extent e with fresh := [], state := 0, queue := [], running := false } := (hwx e).trans (if_pos rfl)
  have hnext : ((s.switchExtent sl).freeSlot col i sl).nextInstall sl = w := by
    rw [← hv, freeSlot_plain v ho hnode hi, State.nextInstall, if_neg (not_not.mpr hk), hdst]
    show w.startInstall e = w
    rw [State.startInstall, hwe]
    rfl
  refine ⟨_, (engineStamp_row h hw he hn hd).trans (congrArg _ hnext), ?_, fun j => ?_, fun b => (hvfar b)⟩
  · have hcol : v.col col = s.col col := by rw [State.col, State.col, hvcols]
    exact (slotIs_setSlot v col i none).of_slots (fun j => by rw [hcol])
  · refine (hwx j).trans ?_
    by_cases hj : j = e
    · rw [if_pos hj, if_pos hj]
    · rw [if_neg hj, if_neg hj]
      exact (hvx j).trans (if_neg hj)

end

/-! ### Static schedules (R205, R206) -/

section
variable {s : State} {col : Nat} {en : SchedEntry} (hsched : (s.col col).sched = [en]) (hnone : (s.col col).slot 32 = none)
include hsched hnone

omit hsched in
theorem static_free : ((List.range 8).map (fun i => 32 + i)).find? (fun i => ((s.col col).slot i).isNone) = some 32 := by
  rw [show (List.range 8).map (fun i => 32 + i) = 32 :: [33, 34, 35, 36, 37, 38, 39] from rfl,
    List.find?_cons_of_pos (by rw [hnone]; rfl)]

theorem staticEntry_early (hst : (s.col col).scnt < en.stage) : Happens s (.staticEntryStart col) .staticEntryStart (fun t => t = s) := by
  intro he
  refine ⟨_, ?_, rfl⟩
  show execStaticEntryStart s = _
  unfold execStaticEntryStart
  rw [he]
  dsimp only
  rw [hsched, static_free hnone, List.find?_cons_of_neg (by simpa using hst), List.find?_nil]

theorem staticEntry_starts (hst : en.stage ≤ (s.col col).scnt) : Happens s (.staticEntryStart col) .staticEntryStart (fun t =>
    (t.col col).sched = []
    ∧ SlotIs s col 32 (some ⟨.cpys, en.cmd, (s.col col).schedPart, none, none, 0, en.scope, s.cmdNum, true, 0, 0, none, 0, [], false, []⟩) t
    ∧ ⟨s.now, .engineUnit col 32⟩ ∈ t.agenda ∧ t.cores = s.cores) := by
  intro he
  let sl : Slot := ⟨.cpys, en.cmd, (s.col col).schedPart, none, none, 0, en.scope, s.cmdNum, true, 0, 0, none, 0, [], false, []⟩
  let v : State := { s.modCol col (fun c => { c with sched := c.sched.filter (fun x => x.kernel != en.kernel || x.num != en.num) }) with
    cmdNum := s.cmdNum + 1 }
  have hvcol : v.col col = { s.col col with sched := [] } := by
    have hmod : v.col col = { s.col col with sched := (s.col col).sched.filter (fun x => x.kernel != en.kernel || x.num != en.num) } :=
      (col_modCol s col col (fun c => { c with sched := c.sched.filter (fun x => x.kernel != en.kernel || x.num != en.num) })).trans (if_pos rfl)
    rw [hmod, hsched]
    simp
  have hrow : exec .staticEntryStart s = .next (((v.setSlot col 32 (some sl)).post s.now (.engineUnit col 32)).post s.now (.staticEntryStart col)) := by
    show execStaticEntryStart s = _
    unfold execStaticEntryStart
    rw [he]
    dsimp only
    rw [static_free hnone, show (s.col col).sched.find? (fun e => decide (e.stage ≤ (s.col col).scnt)) = some en by
      rw [hsched, List.find?_cons_of_pos (by simpa using hst)]]
    rfl
  refine ⟨_, hrow, ?_, ?_, (mem_agendaInsert _ _ _).mpr (.inr ((mem_agendaInsert _ _ _).mpr (.inl rfl))), rfl⟩
  · show ((v.setSlot col 32 (some sl)).col col).sched = []
    rw [State.setSlot, col_modCol, if_pos rfl, hvcol]
  · have hset := (slotIs_setSlot v col 32 (some sl)).of_slots (u := s) (fun j => by rw [hvcol]; rfl)
    exact hset

end

/-! ### Installs (R192, R193) -/

/-- An extent's queue, state and running mark, and all far bytes, as they were. -/
def ContentsKept (e : Nat) (s t : State) : Prop :=
  (t.dev.extent e).queue = (s.dev.extent e).queue ∧ (t.dev.extent e).running = (s.dev.extent e).running
  ∧ (t.dev.extent e).state = (s.dev.extent e).state ∧ t.dev.far = s.dev.far

section
variable {e : Nat} {s t u : State}

theorem contentsKept_of_dev (h : t.dev.flash = s.dev.flash) (hf : t.dev.far = s.dev.far) : ContentsKept e s t := by
  have hx : t.dev.extent e = s.dev.extent e := congrArg (fun m => sget Extent.reset m e) h
  rw [ContentsKept, hx]
  exact ⟨rfl, rfl, rfl, hf⟩

theorem ContentsKept.trans (h : ContentsKept e s t) (h' : ContentsKept e t u) : ContentsKept e s u := by
  obtain ⟨a, b, c, d⟩ := h
  obtain ⟨a', b', c', d'⟩ := h'
  exact ⟨a'.trans a, b'.trans b, c'.trans c, d'.trans d⟩

theorem contentsKept_modExtent (s : State) (e : Nat) (f : Extent → Extent)
    (hf : ∀ x, (f x).queue = x.queue ∧ (f x).running = x.running ∧ (f x).state = x.state) : ContentsKept e s (s.modExtent e f) := by
  have hx : (s.modExtent e f).dev.extent e = f (s.dev.extent e) := (extentIs_modExtent s e f e).trans (if_pos rfl)
  rw [ContentsKept, hx]
  obtain ⟨hq, hr, hs⟩ := hf (s.dev.extent e)
  exact ⟨hq, hr, hs, rfl⟩

theorem contentsKept_farRead {part col va n : Nat} {cls : BitVec 2} {ev : Event} {x : FarRes (List Byte)}
    (h : s.farRead part col va n cls ev = (x, u)) : ContentsKept e s u := by
  have ho := outward_readPieces h
  exact contentsKept_of_dev (congrArg (fun s : State => s.dev.flash) ho :) (congrArg (fun s : State => s.dev.far) ho :)

/-- A page of an install's source goes into the extent's fresh blocks alone. The place and the read are hidden from the kernel, which
would evaluate the addresses. -/
theorem contentsKept_installPage {f : State → Nat → Slot → Nat → Event → FarRes Unit × State} (hf : f = State.installPage) {col : Nat} {sl : Slot}
    {j : Nat} {ev : Event} {x : FarRes Unit} (h : f s col sl j ev = (x, u)) (hdst : sl.cmd.dst.toNat = e) : ContentsKept e s u := by
  delta State.installPage at hf
  obtain ⟨place, hplace⟩ : ∃ f : Dev → Nat → Place, Dev.place = f := ⟨_, rfl⟩
  obtain ⟨n, hn⟩ : ∃ n, 4096 = n := ⟨_, rfl⟩
  obtain ⟨read, hread⟩ : ∃ f : State → Nat → Nat → Nat → Nat → BitVec 2 → Event → FarRes (List Byte) × State, State.farRead = f := ⟨_, rfl⟩
  rw [hplace, hread, hn] at hf
  rw [hf] at h
  beta_reduce at h
  dsimp only at h
  rw [hdst] at h
  have hask {v u : State} {x : FarRes Unit} (ha : (match read v sl.part col (sl.cmd.src.toNat + n * j) n 2 ev with
      | (.ok bs, s) => (FarRes.ok (), s.modExtent e (fun x => { x with fresh := writeBytes x.fresh (n * j) bs }))
      | (.fault t, s) => (.fault t, s)
      | (.wait, s) => (.wait, s)) = (x, u)) : ContentsKept e v u := by
    cases hr : read v sl.part col (sl.cmd.src.toNat + n * j) n 2 ev with
    | mk r w =>
      have hk : ContentsKept e v w := by
        rw [← hread] at hr
        exact contentsKept_farRead hr
      rw [hr] at ha
      cases r with
      | ok bs =>
        cases ha
        exact hk.trans (contentsKept_modExtent _ _ _ (fun _ => ⟨rfl, rfl, rfl⟩))
      | fault t => cases ha; exact hk
      | wait => cases ha; exact hk
  by_cases hasked : (s.dev.fabric.asked ev (sl.cmd.src.toNat + n * j)).isSome = true
  · rw [if_pos hasked] at h
    exact hask h
  · rw [if_neg hasked] at h
    cases ht : s.translate sl.part col (sl.cmd.src.toNat + n * j) false with
    | mk r v =>
      have hdev := dev_translate ht
      have hk : ContentsKept e s v := contentsKept_of_dev (congrArg Dev.flash hdev) (congrArg Dev.far hdev)
      rw [ht] at h
      cases r with
      | error t => cases h; exact hk
      | ok pa =>
        have hplain {v u : State} {x : FarRes Unit} (hp : (if v.dev.badFar pa n then (FarRes.fault tEcc, v)
            else (.ok (), v.modExtent e (fun x => { x with fresh := copyRange x.fresh v.dev.far pa (n * j) n }))) = (x, u)) : ContentsKept e v u := by
          split at hp
          · cases hp; exact contentsKept_of_dev rfl rfl
          · cases hp; exact contentsKept_modExtent _ _ _ (fun _ => ⟨rfl, rfl, rfl⟩)
        dsimp only at h
        refine hk.trans ?_
        cases hpl : place v.dev pa with
        | flash =>
          rw [hpl] at h
          cases h
          exact contentsKept_of_dev rfl rfl
        | peer p off =>
          rw [hpl] at h
          dsimp only at h
          split at h
          · cases h; exact contentsKept_of_dev rfl rfl
          · exact hask h
        | _ =>
          rw [hpl] at h
          exact hplain h

/-- One page behind the others. The page's own step is hidden from the kernel, which would evaluate its addresses. -/
theorem installPages_succ {f : State → Nat → Slot → Event → Nat → FarRes Unit × Nat × State} (hf : f = State.installPages)
    {page : State → Nat → Slot → Nat → Event → FarRes Unit × State} (hpage : State.installPage = page) (s : State) (col : Nat) (sl : Slot)
    (ev : Event) (n : Nat) : f s col sl ev (n + 1) = match f s col sl ev n with
      | (.ok _, _, s) => ((page s col sl n ev).1, n, (page s col sl n ev).2)
      | x => x := by
  delta State.installPages State.installPages._f at hf
  rw [hpage] at hf
  subst hf
  rfl

theorem contentsKept_installPages {col : Nat} {sl : Slot} {ev : Event} (hdst : sl.cmd.dst.toNat = e) {s : State} (n : Nat) :
    ∀ {x : FarRes Unit} {j : Nat} {u : State}, s.installPages col sl ev n = (x, j, u) → ContentsKept e s u := by
  induction n with
  | zero =>
    intro x j u h
    cases h
    exact contentsKept_of_dev rfl rfl
  | succ n ih =>
    intro x j u h
    rw [installPages_succ rfl rfl] at h
    cases hp : s.installPages col sl ev n with
    | mk r jv =>
      obtain ⟨j', v⟩ := jv
      have hk := ih hp
      rw [hp] at h
      cases r with
      | ok y =>
        dsimp only at h
        cases hpage : v.installPage col sl n ev with
        | mk r' w =>
          rw [hpage] at h
          cases h
          exact hk.trans (contentsKept_installPage rfl hpage hdst)
      | fault t => cases h; exact hk
      | wait => cases h; exact hk

theorem contentsKept_forget (s : State) (ev : Event) : ContentsKept e s (s.forget ev) := contentsKept_of_dev rfl rfl

theorem contentsKept_endCommand (s : State) (col i : Nat) (status : BitVec 16) : ContentsKept e s (s.endCommand col i status) :=
  contentsKept_of_dev rfl rfl

theorem contentsKept_faultCommand (s : State) (col i : Nat) (sl : Slot) (t : BitVec 8) (va : Nat) :
    ContentsKept e s (s.faultCommand col i sl t va) := by
  unfold State.faultCommand
  dsimp only
  have hdev (core : Nat) (r : FaultRec) : (s.record core r).dev = s.dev := by
    unfold State.record
    dsimp only
    split <;> rfl
  exact (contentsKept_of_dev (congrArg Dev.flash (hdev _ _)) (congrArg Dev.far (hdev _ _))).trans (contentsKept_endCommand _ _ _ _)

end

section
variable {s : State} {col i : Nat} {sl : Slot} {e : Nat} (h : (s.col col).slot i = some sl) (hdst : sl.cmd.dst.toNat = e)
include h hdst

/-- The row of an install that could not run; the number of pages is hidden from the kernel, which would count up to it. -/
theorem execInstallComplete_refused {f : State → Host.Outcome State Fault Refusal} (hf : f = execInstallComplete)
    (he : s.event = some (.installComplete col i)) (hoff : sl.off = 0) :
    f s = .next (s.endCommand col i (if 3000 ≤ (s.dev.extent e).wear.toNat then 0x0102 else 0x0103)) := by
  delta execInstallComplete at hf
  obtain ⟨n, hn⟩ : ∃ n, 262144 = n := ⟨_, rfl⟩
  rw [hn] at hf
  rw [hf]
  beta_reduce
  rw [he]
  dsimp only
  rw [h]
  dsimp only
  rw [if_pos hoff, hdst]
  rfl

theorem installComplete_refused (hoff : sl.off = 0) : Happens s (.installComplete col i) .installComplete (fun t =>
    Stamped s col i sl (if 3000 ≤ (s.dev.extent e).wear.toNat then 0x0102 else 0x0103) t ∧ t.dev = s.dev) :=
  fun he => ⟨_, execInstallComplete_refused h hdst rfl he hoff, stamped_endCommand h _, rfl⟩

theorem execInstallComplete_keeps {f : State → Host.Outcome State Fault Refusal} (hf : f = execInstallComplete)
    (he : s.event = some (.installComplete col i)) (hoff : sl.off ≠ 0) : ∃ t, f s = .next t ∧ ContentsKept e s t := by
  delta execInstallComplete at hf
  obtain ⟨n, hn⟩ : ∃ n, 262144 = n := ⟨_, rfl⟩
  obtain ⟨size, hsize⟩ : ∃ n, 4096 = n := ⟨_, rfl⟩
  rw [hn, hsize] at hf
  rw [hf]
  beta_reduce
  rw [he]
  dsimp only
  rw [h]
  dsimp only
  rw [if_neg hoff, hdst]
  have hundo (v : State) : ContentsKept e v (v.modExtent e (fun x => { x with fresh := [] })) :=
    contentsKept_modExtent _ _ _ (fun _ => ⟨rfl, rfl, rfl⟩)
  cases hp : (s.modExtent e (fun x => { x with fresh := [] })).installPages col sl (.installComplete col i) n with
  | mk r jv =>
    obtain ⟨j, v⟩ := jv
    have hv : ContentsKept e s v := (hundo s).trans (contentsKept_installPages hdst n hp)
    have hcharge (w : State) (f : Extent → Extent) (c : Nat) (hw : ContentsKept e s w)
        (hf : ∀ x, (f x).queue = x.queue ∧ (f x).running = x.running ∧ (f x).state = x.state) :
        ContentsKept e s (((w.modPart sl.part (fun p => { p with budget := p.budget - 1 })).modExtent e f).installEnds col i (BitVec.ofNat 16 c)) :=
      ((hw.trans (contentsKept_of_dev rfl rfl)).trans (contentsKept_modExtent _ e f hf)).trans (contentsKept_endCommand _ _ _ _)
    cases r with
    | wait => exact ⟨_, rfl, hv.trans (hundo v)⟩
    | fault t =>
      exact ⟨_, rfl, ((hv.trans (hundo v)).trans (contentsKept_forget _ _)).trans (contentsKept_faultCommand _ _ _ _ _ _)⟩
    | ok y =>
      have hw : ContentsKept e s v.number.2 := hv.trans (contentsKept_of_dev rfl rfl)
      refine ⟨_, rfl, ?_⟩
      dsimp only
      split_ifs
      · exact hcharge _ _ 0 (hw.trans (contentsKept_forget _ _)) (fun _ => ⟨rfl, rfl, rfl⟩)
      · exact hcharge _ _ 0x0101 (hw.trans (contentsKept_forget _ _)) (fun _ => ⟨rfl, rfl, rfl⟩)
      · exact ((hw.trans (hundo _)).trans (contentsKept_forget _ _)).trans (contentsKept_endCommand _ _ _ _)
      · exact hcharge _ _ 0x0105 ((hw.trans (hundo _)).trans (contentsKept_forget _ _)) (fun _ => ⟨rfl, rfl, rfl⟩)

theorem installComplete_keeps (hoff : sl.off ≠ 0) : Happens s (.installComplete col i) .installComplete (ContentsKept e s) :=
  fun he => execInstallComplete_keeps h hdst rfl he hoff

end

/-! ### Collectives (R207, R330) -/

section
variable {s : State} {col i ck op rank : Nat} {ty : Ty} {sl : Slot} {contribs : List (List Byte)} {agree : Bool}
  (h : (s.col col).slot i = some sl) (hk : sl.kind = .coll ck op ty) (hrank : s.rankIn sl.part sl.cmd.group = some rank)
  (hst : sl.started = true)
include h hk hrank hst

theorem collComplete_disagrees (ha : agree = false) : Happens s (.collComplete col i contribs agree) .collComplete
    (fun t => Stamped s col i sl 0x0301 t ∧ t.cores = s.cores) := by
  intro he
  refine ⟨_, ?_, stamped_endCommand h _, rfl⟩
  show execCollComplete s = _
  unfold execCollComplete
  rw [he]
  dsimp only
  rw [h]
  dsimp only
  rw [hk, hrank]
  dsimp only
  rw [hst, if_neg (by simp), ha]
  rfl

theorem collComplete_poisoned (ha : agree = true) (hp : [] ∈ contribs.set rank sl.buf) : Happens s (.collComplete col i contribs agree) .collComplete
    (fun t => Stamped s col i sl 0x0006 t ∧ t.cores = s.cores) := by
  intro he
  refine ⟨_, ?_, stamped_endCommand h _, rfl⟩
  show execCollComplete s = _
  unfold execCollComplete
  rw [he]
  dsimp only
  rw [h]
  dsimp only
  rw [hk, hrank]
  dsimp only
  rw [hst, if_neg (by simp), ha, if_neg (by simp), if_pos (List.any_eq_true.mpr ⟨[], hp, rfl⟩)]

theorem collComplete_writes (ha : agree = true) (hp : [] ∉ contribs.set rank sl.buf) (hnear : epNear sl.cmd.dst = true) :
    Happens s (.collComplete col i contribs agree) .collComplete (fun t => Stamped s col i sl 0 t
      ∧ PutUnder s col i sl.cmd.dst (epOff sl.cmd.dst) (collResult ck op ty sl.cmd.len rank (contribs.set rank sl.buf)) t) := by
  intro he
  have hany : ¬ (contribs.set rank sl.buf).any List.isEmpty = true := by
    rw [List.any_eq_true]
    rintro ⟨l, hl, hempty⟩
    rw [List.isEmpty_iff] at hempty
    exact hp (hempty ▸ hl)
  have hrow : exec .collComplete s = .next ((s.epWrite (.slot col i) col sl.cmd.dst (epOff sl.cmd.dst)
      (collResult ck op ty sl.cmd.len rank (contribs.set rank sl.buf)) []).endCommand col i 0) := by
    show execCollComplete s = _
    unfold execCollComplete
    rw [he]
    dsimp only
    rw [h]
    dsimp only
    rw [hk, hrank]
    dsimp only
    rw [hst, if_neg (by simp), ha, if_neg (by simp), if_neg hany, if_pos hnear]
  let v := s.epWrite (.slot col i) col sl.cmd.dst (epOff sl.cmd.dst) (collResult ck op ty sl.cmd.len rank (contribs.set rank sl.buf)) []
  exact ⟨_, hrow, stamped_endCommand (s := v) h 0, (putUnder_epWrite s col i _ _ _).of_cores rfl⟩

end

end Sys2Proof.Proofs
end

section
/-! PROOFS. The steps of slices, lanes, expansion units and engines (R38, R121 to R136, R144 to R148, R152, R164, R192, R193, R198 to
R208), put together from the rows of each. -/

namespace Sys2Proof.Proofs

open Sys2Proof.Machine Sys2Proof.Safety Sys2Proof.Laws

theorem happens_imp {s : State} {ev : Event} {i : Instr} {p q : State → Prop} (h : Happens s ev i p) (hpq : ∀ t, p t → q t) : Happens s ev i q := by
  intro he
  obtain ⟨t, ht, hp⟩ := h he
  exact ⟨t, ht, hpq t hp⟩

section
variable {s : State} {k : Nat} {so : SliceOp} {srest : List SliceOp}

theorem startsSlice_empty (hq : NoneDue s k) (hnone : (s.core k).slice.queue = []) :
    Happens s (.sliceOpStart k) .sliceOpStart (fun t => t = s) ∧ Happens s (.sliceOpComplete k) .sliceOpComplete (fun t => t = s) :=
  ⟨fun he => ⟨_, sliceStart_empty he hq hnone, rfl⟩, fun he => ⟨_, sliceEnd_empty he hq hnone, rfl⟩⟩

theorem ctl_loseVert (s : State) (k : Nat) (o : VOp) (j : Nat) : ((s.loseVert k o).core j).ctl = (s.core j).ctl := by
  have hmod (v : State) (i : Nat) (f : Vert → Vert) : ((v.modVert i f).core j).ctl = (v.core j).ctl := by
    rw [State.modVert, core_modCore]
    split
    · next h => rw [h]
    · rfl
  unfold State.loseVert
  dsimp only
  split
  · rw [hmod, hmod]
  · rw [hmod]

/-- The trap of a lane, with the control of the cores that fitted before the operation was lost. -/
theorem laneTrap_of {s u : State} (k : Nat) (hctl : ∀ j, (u.core j).ctl = (s.core j).ctl) : u.laneTrap k
    = (let fits (j : Nat) : Bool := (s.core j).timed 0 && !(s.core j).ctl.stopped
       let w := (if fits (parentOf k) then u.takeTrap (parentOf k, 0) (u.issuedWord (parentOf k, 0)) (.timing 6) else u)
       if (w.core k).timed 0 = true ∧ (w.core k).ctl.stopped = false then w.takeTrap (k, 0) (w.issuedWord (k, 0)) (.timing 6) else w) := by
  have hfit (j : Nat) : ((u.core j).timed 0 && !(u.core j).ctl.stopped) = ((s.core j).timed 0 && !(s.core j).ctl.stopped) := by
    rw [Core.timed, Core.timed, hctl]
  let trapped := u.takeTrap (parentOf k, 0) (u.issuedWord (parentOf k, 0)) (.timing 6)
  have hw : (if ((u.core (parentOf k)).timed 0 && !(u.core (parentOf k)).ctl.stopped) = true then trapped else u)
      = if ((s.core (parentOf k)).timed 0 && !(s.core (parentOf k)).ctl.stopped) = true then trapped else u :=
    if_congr (by rw [hfit]) rfl rfl
  exact (laneTrap_eq u k).trans (congrArg (fun w : State => if (w.core k).timed 0 = true ∧ (w.core k).ctl.stopped = false then
    w.takeTrap (k, 0) (w.issuedWord (k, 0)) (.timing 6) else w) hw)

/-- One column of 8-bit integers: each element gains its product, clamped to 80 bits (R122, R127). -/
theorem accumulated_i8 {t : State} {p : Product} {y : ACol}
    (ht : (t.core k).slice.tiles = ((s.core k).slice.accumulate p [y] []).1.tiles) (hta : p.ta = .i8) (htb : p.tb = .i8) (hy : y.ok = true)
    {m n : Nat} (hm : m < 32) (hn : n < 16) : sget 0 ((t.core k).slice.tile p.t).el (16 * m + n)
      = BitVec.ofInt 80 (max (-2 ^ 79) (min (2 ^ 79 - 1)
          ((if p.z ∨ ((s.core k).slice.tile p.t).mode = .none then (0 : Int) else (sget 0 ((s.core k).slice.tile p.t).el (16 * m + n)).toInt)
            + (BitVec.ofNat 8 (y.el.getD m 0)).toInt * (sget 0 (s.core k).slice.wbuf (n * p.kp + p.koff)).toInt))) := by
  have htile : (t.core k).slice.tile p.t = ((s.core k).slice.accumulate p [y] []).1.tile p.t := by rw [Slice.tile, Slice.tile, ht]
  rw [htile, accumulate_el _ _ _ (by omega : 16 * m + n < 512)]
  exact productElem_i8 (s.core k).slice hta htb hy hn

end

/-- Settles O48: each unit's and engine's step has its effect when due, from the rows of slices, lanes, expansion units, commands,
installs and collectives. -/
theorem unitAndEngineSteps : Obligations.UnitAndEngineSteps := by
  intro s k col i e st so srest vo xo xrest p ph sl u contribs agree ck op rank ty same quiet S tier after under others elems leaves starts ends V lapsed X U xends word xleaves xregs xwrites xstores xflags xdone
    coefSum records slot stamped c put x extent
  -- the end of an expansion instruction: its unit, and what it writes
  have hdone {P : State → Prop} (hqueue : X.queue = xo :: xrest) (hp : s.prolongsFirst k xo.issued = false)
      (h : ∀ t, UnitEnds s k xo xrest (effectOf (s.core k) xo) t → P t) : xdone P :=
    happens_imp (expansionEnds hqueue hp) (fun t ht => ⟨⟨congrArg XUnit.queue ht.xu, ht.next⟩, ht.others, h t ht⟩)
  refine ⟨fun hq hn => startsSlice_empty hq hn, fun hq hqueue => ⟨?_, ?_, ?_, ?_, ?_, ?_, ?_⟩, ?_, ?_, fun hq hqueue => ⟨?_, ?_, ?_, ?_, ?_, ?_, ?_, ?_⟩,
    barrier_holds, fun ht hst hph => ⟨?_, ?_⟩, ?_, ?_, ?_, ?_, ?_, fun ho he hx => ⟨?_, ?_, ?_, ?_⟩, ?_, ?_, fun ht hr ho => ⟨?_, ?_⟩,
    ?_, ?_, ?_, fun hqueue hp => ⟨?_, ?_, ?_, ?_, ?_, ?_, ?_, ?_, ?_, ?_, ?_, ?_, ?_⟩,
    ?_, fun h => ⟨?_, ?_, ?_, ?_, ?_, ?_, ?_, ?_⟩, fun en hs hi hn => ⟨?_, ?_⟩, fun h hd hq => ⟨?_, ?_⟩, fun h hk hr hs => ⟨?_, ?_, ?_⟩⟩
  -- slices
  · exact fun u hw => starts_mzero hq hqueue hw
  · exact fun a hw hp => starts_mma hq hqueue hw hp
  · exact fun a n hw hy he => ⟨_, sliceStart_missing he hq hqueue hw hy, rfl⟩
  · exact fun w a hw => starts_mwld hq hqueue hw
  · exact fun d u y z r hw hp he => ⟨_, sliceStart_poisoned he hq hqueue hw hp, rfl⟩
  · exact fun d u y z r hw hp => starts_mrd hq hqueue hw hp
  · exact fun u a b hw hp hm => starts_mscac hq hqueue hw hp hm
  · exact fun u a b m hqueue hw => scRead_rows hqueue hw
  · exact fun u a b m r y hqueue hw hrows hrmw hin j => scWrite_near hqueue hw hrows hrmw hin j
  · exact fun u hw => ends_mzero hq hqueue hw
  · exact fun u a b hw _ => ends_mscac hq hqueue hw
  · exact fun d u y z r hw => ends_mrd hq hqueue hw
  · intro a n hw hm hsl
    refine happens_imp (ends_mma hq hqueue hw hm hsl) (fun t ⟨hleft, htiles⟩ => ⟨hleft, htiles, ?_⟩)
    intro y hta htb hcols hy m n hm hn old a b _
    rw [hcols] at htiles
    exact accumulated_i8 htiles hta htb hy hm hn
  · exact fun w a hw => ends_mwld hq hqueue hw
  · exact fun a n r y hw hm hx => ends_slipped hq hqueue hw hm hx
  · exact fun cb base stride m _ hcyc => mmas_between hcyc
  · exact fun cb base stride m rows hw hcyc hl hg hall hu hm hsl => mmas_ends hq hqueue hw hcyc hl hg hall hu hm hsl
  -- the barrier of a gang
  · exact fun h => barrier_early hph h
  · exact fun h hsh => barrier_fails ht hst hph h hsh
  -- lanes
  · exact fun ho hst hl hr => laneStart_rstr ho hst hl hr
  · intro ho hst hself hbad
    refine happens_imp (laneStart_lost ho hst hself hbad) (fun t ht => ⟨?_, ?_⟩)
    · intro y hy
      rw [loseVert_ops ho] at hy
      rw [List.mem_singleton.mp hy]
      exact ⟨rfl, hst⟩
    · exact ht.trans (laneTrap_of k (ctl_loseVert s k vo))
  · exact fun ho hst hself hbad hr hq => laneStart_prlg ho hst hself hbad hr hq
  · exact laneEnd_none
  · exact fun ho he hr hx => laneEnd_waits ho he hr hx
  · exact fun hl => laneEnd_lost ho he hx hl
  · exact fun hl hr hself => laneEnd_rstr ho he hx hl hr hself
  · exact fun q v hl hr hself hv hq hrmw hmon => laneEnd_self ho he hx hl hr hself hv hq hrmw hmon rfl
  · exact fun hl hr hq => laneEnd_prlg ho he hx hl hr hq
  · exact fun u v w z q hs hrmw hq hmon => rstrMerge_one hs hrmw hq hmon
  · exact laneStays
  · exact lane_waits ht hr ho
  · exact lane_changes ht hr ho
  -- expansion units
  · exact fun hq hqueue hclean => expansionStarts hq hqueue hclean
  · exact fun pre b post w hq hqueue hreads hpre hb => expansionStarts_bad hq hqueue hreads hpre hb
  · exact fun hqueue hp => expansionEnd_waits hqueue hp
  · exact fun d h a hw => hdone hqueue hp (fun t ht => ends_clr ht hw)
  · exact fun d h a hw => hdone hqueue hp (fun t ht => ends_ld ht hw)
  · exact fun d h a hw => hdone hqueue hp (fun t ht => ends_st ht hw)
  · exact fun y hw => hdone hqueue hp (fun t ht => ends_setKern ht hw)
  · exact fun y hw => hdone hqueue hp (fun t ht => ends_setGamma ht hw)
  · exact fun y hw => hdone hqueue hp (fun t ht => ends_setEta ht hw)
  · exact fun d a n hw => hdone hqueue hp (fun t ht => (ends_form ht hw).imp_right (fun h _ => h))
  · exact fun d a hw => hdone hqueue hp (fun t ht => (ends_m2m ht hw).imp_right (fun h _ => h))
  · exact fun d a hw => hdone hqueue hp (fun t ht => (ends_m2l ht hw).imp_right (fun h _ => h))
  · exact fun d a hw => hdone hqueue hp (fun t ht => (ends_l2l ht hw).imp_right (fun h _ => h))
  · exact fun a b n hw => hdone hqueue hp (fun t ht => (ends_eval ht hw).imp_right (And.imp_right (fun h _ => h)))
  · exact fun a b n hw => hdone hqueue hp (fun t ht => (ends_m2p ht hw).imp_right (And.imp_right (fun h _ => h)))
  · exact fun d a b hw => hdone hqueue hp (fun t ht => (ends_adm ht hw).imp_right (fun h _ => h))
  -- commands
  · exact fun h g => ⟨commandStart_none h, engineUnit_none h, engineStamp_none h, installComplete_none h, collComplete_none h _ _⟩
  · exact fun hearly => commandStart_waits h hearly
  · exact fun hearly hk => commandStart_copy h hearly hk
  · exact fun hearly hk hd hr => installStart_behind h hearly hk (hd ▸ hr)
  · intro rest hearly hk hd hr hq
    subst hd
    exact installStart_runs h hearly hk hr hq
  · exact fun hw => ⟨engineUnit_waits h hw, engineStamp_waits h hw⟩
  · exact fun hw hbuf hk hsrc hdst hq hrow hrows _ hclean => engineUnit_moves h hw hbuf hk hsrc hdst hq hrow hrows hclean
  · exact fun hw hn hd => engineStamp_writes h hw hn hd
  · exact fun hw hn hd ho hnode hi => ⟨fun hk => engineStamp_frees h hw hn hd ho hnode hi hk,
      fun hk hst hdst hq hfresh _ hin => engineStamp_switches h hw hn hd ho hnode hi hk hst hdst hq hfresh hin⟩
  · subst hi
    exact fun hst => staticEntry_early hs hn hst
  · subst hi
    exact fun hst => staticEntry_starts hs hn hst
  · exact fun hoff => installComplete_refused h hd hoff
  · refine fun hoff => happens_imp (installComplete_keeps h hd hoff) (fun t ⟨hqueue, hrun, hstate, hfar⟩ => ⟨hqueue, hrun, hstate, fun b => ?_⟩)
    exact congrArg (fun m => sget 0 m b) hfar
  · exact fun ha => collComplete_disagrees h hk hr hs ha
  · exact fun ha hp => collComplete_poisoned h hk hr hs ha hp
  · exact fun ha hp hn => collComplete_writes h hk hr hs ha hp hn

end Sys2Proof.Proofs
end

section
/-! PROOFS. The canonical form of memories and registers is kept (O59): the rules of the state's operations, of a core's and of a
context's. -/

namespace Sys2Proof.Proofs

open Sys2Proof.Machine Sys2Proof.Safety Sys2Proof.Laws

/-- Registers of a context, and those of an open region's checkpoint, are in canonical form. -/
structure CtxCanon (x : Ctx) : Prop where
  g      : swf 0 x.g = true
  stack  : swf 0 x.stack = true
  v      : swf 0 x.v = true
  m      : swf .reset x.m = true
  region : ckptCanonical (x.region.map (·.ckpt)) = true

/-- Memories and registers of a core, and those of its superstep's checkpoint, are in canonical form. -/
structure CoreCanon (c : Core) : Prop where
  near   : swf 0 c.near = true
  poison : swf 0 c.poison = true
  store  : swf (0, false) c.store = true
  ctxs   : swf .reset c.ctxs = true
  each   : ∀ e ∈ c.ctxs, CtxCanon e.2
  ckpt   : ckptCanonical c.ctl.ckpt = true

/-- Memories and registers of the machine are in canonical form. -/
structure Canon (s : State) : Prop where
  cores : swf .reset s.cores = true
  each  : ∀ e ∈ s.cores, CoreCanon e.2
  far   : swf 0 s.dev.far = true

theorem ctxCanonical_iff {x : Ctx} : ctxCanonical x = true ↔ CtxCanon x := by
  simp only [ctxCanonical, Bool.and_eq_true]
  exact ⟨fun ⟨⟨⟨⟨hg, hs⟩, hv⟩, hm⟩, hr⟩ => ⟨hg, hs, hv, hm, hr⟩, fun ⟨hg, hs, hv, hm, hr⟩ => ⟨⟨⟨⟨hg, hs⟩, hv⟩, hm⟩, hr⟩⟩

theorem coreCanonical_iff {c : Core} : coreCanonical c = true ↔ CoreCanon c := by
  simp only [coreCanonical, Bool.and_eq_true, List.all_eq_true, ctxCanonical_iff]
  exact ⟨fun ⟨⟨⟨⟨⟨hn, hp⟩, hs⟩, hc⟩, he⟩, hk⟩ => ⟨hn, hp, hs, hc, he, hk⟩, fun ⟨hn, hp, hs, hc, he, hk⟩ => ⟨⟨⟨⟨⟨hn, hp⟩, hs⟩, hc⟩, he⟩, hk⟩⟩

theorem memoryCanonical_iff {s : State} : memoryCanonical s = true ↔ Canon s := by
  simp only [memoryCanonical, Bool.and_eq_true, List.all_eq_true, coreCanonical_iff]
  exact ⟨fun ⟨⟨hc, he⟩, hf⟩ => ⟨hc, he, hf⟩, fun ⟨hc, he, hf⟩ => ⟨⟨hc, he⟩, hf⟩⟩

section
variable {s t : State} {c d : Core} {x : Ctx} {k i : Nat} {q : Nat × Nat}

theorem ctxCanon_reset : CtxCanon .reset := ctxCanonical_iff.mp ctxCanonical_reset

theorem coreCanon_reset : CoreCanon .reset := coreCanonical_iff.mp coreCanonical_reset

theorem Canon.core (h : Canon s) (k : Nat) : CoreCanon (s.core k) := coreCanonical_iff.mp (memoryCanonical_core k (memoryCanonical_iff.mpr h))

theorem CoreCanon.ctx (h : CoreCanon c) (i : Nat) : CtxCanon (c.ctx i) := ctxCanonical_iff.mp (coreCanonical_ctx i (coreCanonical_iff.mpr h))

theorem Canon.ctx (h : Canon s) (q : Nat × Nat) : CtxCanon (s.ctx q) := (h.core q.1).ctx q.2

theorem Canon.of_parts (h : Canon s) (hc : t.cores = s.cores) (hf : t.dev.far = s.dev.far) : Canon t where
  cores := by rw [hc]; exact h.cores
  each := by rw [hc]; exact h.each
  far := by rw [hf]; exact h.far

/-- A region's checkpoint is in the form, as its context is. -/
theorem CtxCanon.checkpoint (h : CtxCanon x) {r : Region} (hr : x.region = some r) : swf 0 r.ckpt.g = true := by
  have := h.region
  rw [hr] at this
  exact this

theorem coreCanon_setCtx (h : CoreCanon c) (hx : CtxCanon x) : CoreCanon (c.setCtx i x) :=
  coreCanonical_iff.mp (coreCanonical_setCtx i x (coreCanonical_iff.mpr h) (ctxCanonical_iff.mpr hx))

theorem coreCanon_modCtx {f : Ctx → Ctx} (h : CoreCanon c) (hf : ∀ x, CtxCanon x → CtxCanon (f x)) :
    CoreCanon (c.modCtx i f) := coreCanon_setCtx h (hf _ (h.ctx i))

theorem coreCanon_ctl {l : Ctl} (h : CoreCanon c) (hk : l.ckpt = c.ctl.ckpt) : CoreCanon { c with ctl := l } :=
  { h with ckpt := (congrArg ckptCanonical hk).trans h.ckpt }

theorem canon_setCore (h : Canon s) (hc : CoreCanon c) : Canon (s.setCore k c) :=
  memoryCanonical_iff.mp (memoryCanonical_setCore k c (memoryCanonical_iff.mpr h) (coreCanonical_iff.mpr hc))

theorem canon_modCore {f : Core → Core} (h : Canon s) (hf : ∀ c, CoreCanon c → CoreCanon (f c)) :
    Canon (s.modCore k f) := canon_setCore h (hf _ (h.core k))

theorem canon_modCtx {f : Ctx → Ctx} (h : Canon s) (hf : ∀ x, CtxCanon x → CtxCanon (f x)) :
    Canon (s.modCtx q f) := canon_modCore h (fun _ hc => coreCanon_modCtx hc hf)

theorem canon_modCtl {f : Ctl → Ctl} (h : Canon s) (hf : ∀ l, (f l).ckpt = l.ckpt) : Canon (s.modCtl k f) :=
  canon_modCore h (fun _ hc => coreCanon_ctl hc (hf _))

theorem canon_modSlice {f : Slice → Slice} (h : Canon s) : Canon (s.modSlice k f) := canon_modCore h (fun _ hc => { hc with })

theorem canon_modXu {f : XUnit → XUnit} (h : Canon s) : Canon (s.modXu k f) := canon_modCore h (fun _ hc => { hc with })

theorem canon_modVert {f : Vert → Vert} (h : Canon s) : Canon (s.modVert k f) := canon_modCore h (fun _ hc => { hc with })

/-- What every step of a fold keeps, the fold keeps. -/
theorem canon_foldl {α : Type} {f : State → α → State} (h : Canon s) (l : List α) (hf : ∀ s a, Canon s → Canon (f s a)) : Canon (l.foldl f s) :=
  fold_keeps Canon f l s h hf

theorem coreCanon_foldl {α : Type} {f : Core → α → Core} (h : CoreCanon c) (l : List α) (hf : ∀ c a, CoreCanon c → CoreCanon (f c a)) :
    CoreCanon (l.foldl f c) := fold_keeps CoreCanon f l c h hf

theorem canon_modCores {f : Nat → Core → Core} (h : Canon s) (hf : ∀ k c, CoreCanon c → CoreCanon (f k c)) : Canon (s.modCores f) :=
  canon_foldl h _ (fun _ e hs => canon_modCore hs (hf e.1))

theorem canon_modLine {l : Nat} {f : EvLine → EvLine} (h : Canon s) : Canon (s.modLine l f) := { h with }
theorem canon_modCol {l : Nat} {f : Column → Column} (h : Canon s) : Canon (s.modCol l f) := { h with }
theorem canon_modPart {p : Nat} {f : Part → Part} (h : Canon s) : Canon (s.modPart p f) := { h with }
theorem canon_modDev {f : Dev → Dev} (h : Canon s) (hf : (f s.dev).far = s.dev.far) : Canon (s.modDev f) := h.of_parts rfl hf
theorem canon_modFabric {f : Fabric → Fabric} (h : Canon s) : Canon (s.modFabric f) := { h with }
theorem canon_post {u : Nat} {ev : Event} (h : Canon s) : Canon (s.post u ev) := { h with }
theorem canon_setKernel {i : Nat} {k : Option Kernel} (h : Canon s) : Canon (s.setKernel i k) := { h with }
theorem canon_modKernel {i : Nat} {f : Kernel → Kernel} (h : Canon s) : Canon (s.modKernel i f) := { h with }
theorem canon_setTask {i : Nat} {t : Option Task} (h : Canon s) : Canon (s.setTask i t) := { h with }
theorem canon_modTask {i : Nat} {f : Task → Task} (h : Canon s) : Canon (s.modTask i f) := { h with }
theorem canon_cancel {ev : Event} (h : Canon s) : Canon (s.cancel ev) := { h with }
theorem canon_defer {after : Event → Bool} {step u : Nat} {ev : Event} (h : Canon s) : Canon (s.defer after step u ev) := { h with }

theorem canon_count {n : Nat} (h : Canon s) : Canon (s.count k n) := h.of_parts (count_cores _ _ _) (congrArg Dev.far (dev_count _ _ _).1)

theorem canon_correct {a n : Nat} (h : Canon s) : Canon (s.correct k a n) := canon_count h

theorem canon_deliver {lat : Nat} {as_ : List Act} (h : Canon s) : Canon (s.deliver q lat as_) :=
  memoryCanonical_iff.mp (memoryCanonical_deliver q lat as_ (memoryCanonical_iff.mpr h))

theorem coreCanon_portWrite {a : Nat} {bs : List Byte} (h : CoreCanon c) : CoreCanon (c.portWrite a bs) :=
  coreCanonical_iff.mp (coreCanonical_portWrite a bs (coreCanonical_iff.mpr h))

theorem coreCanon_applyAct {t : Nat} {a : Act} (h : CoreCanon c) : CoreCanon (applyAct t c i a) :=
  coreCanonical_iff.mp (coreCanonical_applyAct t i a (coreCanonical_iff.mpr h))

theorem canon_record {r : FaultRec} (h : Canon s) : Canon (s.record k r) := by
  unfold State.record
  dsimp only
  split
  · exact { h with }
  · exact { h with }

theorem canon_fillSlot {ctx pc resume kind n : Nat} {cw addr rep : DWord} {w : Word} (h : Canon s) :
    Canon (s.fillSlot k ctx cw pc resume addr w kind n rep) := canon_modCore h (fun _ hc => coreCanon_portWrite hc)

end

/-! ### Exceptions -/

section
variable {s : State} {c : Core} {x : Ctx} {k i : Nat} {q : Nat × Nat} {w pc : Word} {tr : Trap}

theorem coreCanon_leave {t : Nat} (h : CoreCanon c) : CoreCanon { c with ctl := c.ctl.leave i t } := by
  refine coreCanon_ctl h ?_
  unfold Ctl.leave
  split <;> rfl

theorem coreCanon_haltCtx {t : Nat} (h : CoreCanon c) : CoreCanon (c.haltCtx i t) := coreCanon_leave (coreCanon_modCtx h (fun _ hx => { hx with }))

theorem coreCanon_stopKernel {kid t : Nat} (h : CoreCanon c) : CoreCanon (c.stopKernel kid t) := by
  have hfold : CoreCanon ([1, 2, 3].foldl (fun (c : Core) i => if (c.ctx i).kernel = some kid then c.haltCtx i t else c) c) := by
    refine coreCanon_foldl h _ (fun c i hc => ?_)
    split
    · exact coreCanon_haltCtx hc
    · exact hc
  unfold Core.stopKernel
  dsimp only
  generalize List.foldl _ _ _ = d at hfold ⊢
  split
  · exact coreCanon_ctl (coreCanon_modCtx hfold (fun _ hx => { hx with })) rfl
  · exact hfold

theorem canon_dropReplies {gone : Nat × Nat → Bool} (h : Canon s) : Canon (s.dropReplies gone) := by
  have hs := canon_modCores (canon_modFabric (f := fun b => { b with
      reqs := b.reqs.filter (fun r => match Event.ofReply r.ev with | some q => !gone q | none => true)
      answers := b.answers.filter (fun a => match Event.ofReply a.ev with | some q => !gone q | none => true) }) h)
    (f := fun k c => { c with slice := { c.slice with
      queue := c.slice.queue.map (fun o => if gone (k, o.ctx) then { o with quiet := true } else o) } }) (fun _ _ hc => { hc with })
  exact { hs with }

theorem canon_dropGiven {all : Bool} {gone : Nat → Bool} (h : Canon s) : Canon (s.dropGiven all gone) := by
  refine canon_modCores h (fun k c hc => ?_)
  split
  · exact hc
  · exact { hc with }

theorem canon_endKernel {kid : Nat} (h : Canon s) : Canon (s.endKernel kid) :=
  canon_post (canon_cancel (canon_cancel (canon_cancel (canon_modKernel
    (canon_modCores (canon_dropGiven (canon_dropReplies h)) (fun _ _ hc => coreCanon_stopKernel hc))))))

theorem canon_fatalRec {code : Nat} {addr : DWord} (h : Canon s) : Canon (s.fatalRec k i code addr pc) := by
  have hs : Canon (s.record k (faultRec 0x08 k i 0 pc.toNat addr.toNat 0 0 code)) := canon_record h
  unfold State.fatalRec
  generalize s.record k (faultRec 0x08 k i 0 pc.toNat addr.toNat 0 0 code) = u at hs
  dsimp only
  split
  · refine canon_modCore hs (fun c hc => ?_)
    split
    · exact coreCanon_ctl (coreCanon_haltCtx hc) rfl
    · exact coreCanon_haltCtx hc
  · exact canon_endKernel hs

theorem canon_fatal (h : Canon s) : Canon (s.fatal k i tr pc) := canon_fatalRec h

theorem canon_enter {ctx : Nat} (h : Canon s) : Canon (s.enter k ctx) := by
  unfold State.enter
  dsimp only
  split
  · exact canon_fatalRec h
  · exact canon_modCore h (fun _ hc => coreCanon_ctl (coreCanon_modCtx hc (fun _ hx => { hx with })) rfl)

theorem canon_serve (h : Canon s) : Canon (s.serve k) := by
  unfold State.serve
  dsimp only
  split
  · exact h
  · split
    · exact h
    · split
      · exact canon_enter (canon_modCtl h (fun _ => rfl))
      · exact canon_enter (canon_fillSlot (canon_modCtl h (fun _ => rfl)))

theorem canon_offer {e : Entry} (h : Canon s) : Canon (s.offer k e) := canon_serve (canon_modCtl h (fun _ => rfl))

theorem canon_replay (h : Canon s) : Canon (s.replay k w tr) := by
  have hs : Canon ((s.fillSlot k 0 (causeWord tr 0) (s.ctx (k, 0)).pc.toNat (s.ctx (k, 0)).pc.toNat tr.addr w 1 0
    (repWord (s.ctx (k, 0)).rep)).modCtl k (fun l => { l with stopped := true })) := canon_modCtl (canon_fillSlot h) (fun _ => rfl)
  unfold State.replay
  dsimp only
  generalize State.modCtl _ _ _ = u at hs
  split
  · exact canon_fatal hs
  · split
    · exact canon_fatal hs
    · next kn _ =>
      have hr (kid : Nat) (f : Kernel → Kernel) (r : FaultRec) :
          Canon (if kn.replays < 3 then (u.modKernel kid f).record k r else u.modKernel kid f) := by
        split
        · exact canon_record (canon_modKernel hs)
        · exact canon_modKernel hs
      split
      · exact canon_post (canon_modKernel (.of_parts (hr _ _ _) rfl rfl))
      · exact hr _ _ _

theorem canon_takeTrap (h : Canon s) : Canon (s.takeTrap q w tr) := by
  unfold State.takeTrap
  extract_lets k i c x run w1 w2
  split
  · exact canon_fatal h
  · split
    · split
      · exact canon_replay h
      · exact canon_fatal h
    · split
      · next r hr =>
        split
        · exact canon_fatal h
        · have hregion : swf 0 r.ckpt.g = true := by
            by_cases hc : restarts tr = true
            · rw [if_pos hc] at hr
              exact (h.ctx q).checkpoint hr
            · rw [if_neg hc] at hr
              exact absurd hr (by simp)
          extract_lets u v y
          have hy : Canon y := canon_modCtx (canon_modCore (canon_record h) (fun _ hc => { hc with })) (fun x hx => { hx with g := hregion, region := hregion })
          clear_value y run
          split
          · exact hy
          · exact canon_modCtl hy (fun _ => rfl)
      · split
        · exact canon_fatal h
        · exact canon_offer (canon_modCore (canon_fillSlot h) (fun _ hc => coreCanon_leave (coreCanon_modCtx hc (fun _ hx => { hx with }))))

theorem canon_trapLate (h : Canon s) : Canon (s.trapLate q pc w tr) := by
  unfold State.trapLate
  split
  · exact h
  · exact canon_takeTrap (canon_modCtx h (fun _ hx => { hx with }))

theorem canon_request {resume n : Nat} (h : Canon s) : Canon (s.request q w resume n) :=
  canon_offer (canon_modCore (canon_fillSlot h) (fun _ hc => coreCanon_leave (coreCanon_modCtx hc (fun _ hx => { hx with }))))

theorem canon_leaveHandling (h : Canon s) : Canon (s.leaveHandling k) := by
  refine canon_serve (canon_modCore h (fun c hc => ?_))
  dsimp only
  split
  · exact coreCanon_ctl hc rfl
  · exact coreCanon_ctl (coreCanon_modCtx hc (fun _ hx => { hx with })) rfl

theorem canon_eret {t : State} (h : Canon s) (ht : s.eret k = .ok t) : Canon t := by
  unfold State.eret at ht
  extract_lets t0 at ht
  split at ht
  · cases ht
  · next c _ =>
    extract_lets a r pc kind u out v w z at ht
    have hu : Canon u := canon_modCore h (fun _ hc => coreCanon_portWrite hc)
    have hout : Canon out := canon_leaveHandling (canon_modCore hu (fun _ hc => coreCanon_haltCtx hc))
    have hv : Canon v := by
      refine canon_modCtx hu (fun x hx => ?_)
      dsimp only
      split
      · exact { hx with }
      · exact { hx with }
    have hz : Canon z := canon_leaveHandling (canon_modCtl hv (fun _ => rfl))
    clear_value u out v w z
    split at ht
    · cases ht
      split
      · exact canon_post hout
      · exact hout
    · split at ht
      · cases ht
      · split at ht
        · cases ht
          exact hz
        · cases ht
          refine canon_modCore hz (fun x hx => ?_)
          split
          · exact coreCanon_ctl (coreCanon_modCtx hx (fun _ hx => { hx with })) rfl
          · exact coreCanon_ctl hx rfl

end
end Sys2Proof.Proofs
end

section
/-! PROOFS. Issuing, retiring and waiting keep the canonical form (O59): what an instruction's own effect keeps, its issue keeps. -/

namespace Sys2Proof.Proofs

open Sys2Proof.Machine Sys2Proof.Safety Sys2Proof.Laws

/-- An outcome's next state is in canonical form. -/
def KeptBy : Host.Outcome State Fault Refusal → Prop
  | .next t => Canon t
  | _ => True

/-- The state of an instruction's effect is in canonical form. -/
def BodyKept : Except Trap Done → Prop
  | .ok d => Canon d.st
  | .error _ => True

section
variable {s : State} {n : Need} {q : Nat × Nat}

theorem bodyKept_bind {α : Type} {x : Except Trap α} {f : α → Except Trap Done} (hf : ∀ a, x = .ok a → BodyKept (f a)) : BodyKept (x >>= f) := by
  cases x with
  | error tr => exact trivial
  | ok a => exact hf a rfl

theorem bodyKept_ok {u : State} {fl : Flow} (h : Canon u) : BodyKept (.ok ⟨u, fl⟩) := h

theorem canon_trapAtFetch {tr : Trap} (h : Canon s) : Canon (s.trapAtFetch q tr) := by
  unfold State.trapAtFetch
  dsimp only
  split
  · exact canon_takeTrap (canon_modCtx h (fun _ hx => { hx with }))
  · exact canon_takeTrap h

theorem canon_leaveFence {p1 p2 : Path} (h : Canon s) : Canon (s.leaveFence p1 p2) := by
  unfold State.leaveFence
  extract_lets q out due rows
  split
  · exact h
  · exact canon_modCtx h (fun _ hx => { hx with })

theorem ckpt_touch (c : Ctl) (o : Option GatedUnit) (a b d : Nat) : (c.touch o a b d).ckpt = c.ckpt := by
  cases o with
  | none => rfl
  | some g => cases g <;> rfl

theorem canon_advance {len : Nat} {dest : Option (Nat × BitVec 2)} {taken : Bool} (h : Canon s) : Canon (s.advance q len dest taken) := by
  unfold State.advance
  dsimp only
  split
  · exact canon_modCtx h (fun _ hx => { hx with })
  · exact canon_modCtx h (fun _ hx => { hx with })
  · exact canon_modCtx h (fun _ hx => { hx with })

theorem canon_forward {pc : Word} {g : Bool} (h : Canon s) : Canon (s.forward q pc g) := by
  unfold State.forward
  split
  · split
    · exact canon_foldl h _ (fun _ _ hs => canon_modCtl hs (fun _ => rfl))
    · exact h
  · exact h

theorem canon_follow (h : Canon s) : Canon (s.follow q) := by
  unfold State.follow
  split
  · split
    · exact canon_modCtx (canon_modCtl h (fun _ => rfl)) (fun _ hx => { hx with })
    · exact h
  · exact h

theorem canon_pace {occ : Nat} (h : Canon s) : Canon (s.pace q occ) := canon_modCtl h (fun _ => rfl)

theorem canon_yieldTo {occ : Nat} (h : Canon s) : Canon (s.yieldTo q occ) := by
  unfold State.yieldTo
  dsimp only
  split
  · exact h
  · split
    · exact canon_modCore h (fun _ hc => coreCanon_leave (coreCanon_modCtx hc (fun _ hx => { hx with })))
    · exact h

theorem canon_gateCtx {w : Wait} {occ : Nat} (h : Canon s) : Canon (s.gateCtx q w occ) :=
  canon_modCore h (fun _ hc => coreCanon_leave (coreCanon_modCtx hc (fun _ hx => { hx with })))

theorem canon_retire {d : Done} {held : Bool} (h : Canon d.st) : Canon (retire n d held) := by
  have hgo {v : State} (hv : Canon v) (q : Nat × Nat) (len : Nat) (dest : Option (Nat × BitVec 2)) (taken : Bool) (pc : Word) (g : Bool) :
      Canon (((v.advance q len dest taken).forward q pc g).follow q) := canon_follow (canon_forward (canon_advance hv))
  unfold retire
  extract_lets s q pc u occ going paced yielding ended halted
  have hu : Canon u := by
    show Canon (match d.flow, held with
      | .again _, _ => s
      | _, false => s
      | _, true => s.modCtl q.1 (fun c => c.touch n.unit s.now (cyc q.1) (s.now + n.occ * cyc q.1)))
    split
    · exact h
    · exact h
    · exact canon_modCtl h (fun l => ckpt_touch _ _ _ _ _)
  have hpaced : Canon paced := canon_pace (hgo hu _ _ _ _ _ _)
  have hyielding : Canon yielding := hgo hu _ _ _ _ _ _
  have hhalted : Canon halted := canon_modCore (canon_advance hu) (fun _ hc => coreCanon_haltCtx hc)
  clear_value u paced yielding halted
  split
  · split
    · exact canon_yieldTo hpaced
    · exact hpaced
  · exact canon_yieldTo (canon_pace hyielding)
  · dsimp only
    split
    · exact canon_yieldTo (canon_pace (hgo hu _ _ _ _ _ _))
    · exact canon_pace (hgo hu _ _ _ _ _ _)
  · split
    · exact canon_gateCtx hu
    · exact canon_modCtl (canon_modCtx hu (fun _ hx => { hx with })) (fun _ => rfl)
  · exact canon_gateCtx hu
  · split
    · exact canon_post hhalted
    · exact hhalted
  · exact canon_modCtl hu (fun _ => rfl)
  · exact hu

theorem canon_counted {d : Done} (h : Canon d.st) : Canon (n.counted s d).st := by
  unfold Need.counted
  split
  · exact h
  · exact canon_count h

/-- The issue of an instruction keeps the form when its own effect does. -/
theorem kept_issue {body : State → Except Trap Done} (h : Canon s) (hb : BodyKept (body s)) : KeptBy (issue n body s) := by
  show Canon _
  split
  · exact canon_takeTrap h
  · split
    · exact canon_takeTrap h
    · split
      · exact canon_retire h
      · split
        · exact canon_retire h
        · split
          · exact canon_retire h
          · split
            · exact canon_retire h
            · split
              · exact canon_modCtl h (fun l => ckpt_touch _ _ _ _ _)
              · split
                · exact canon_takeTrap h
                · next d hd =>
                  rw [hd] at hb
                  exact canon_retire (canon_counted hb)

theorem canon_finishAt {as_ : List Act} {at_ : Nat} (h : Canon s) : Canon (s.finishAt q as_ at_) := by
  unfold State.finishAt
  extract_lets k u len wasHeld v t w
  have hv : Canon v := canon_advance (canon_modCore h (fun _ hc => coreCanon_foldl hc _ (fun _ _ hc => coreCanon_applyAct hc)))
  clear_value v
  split
  · have hw : Canon w := canon_modCtx hv (fun _ hx => { hx with })
    split
    · exact hw
    · exact canon_modCtl hw (fun _ => rfl)
  · split
    · exact canon_modCtl (canon_modCtx hv (fun _ hx => { hx with })) (fun _ => rfl)
    · exact canon_modCtx hv (fun _ hx => { hx with })

theorem canon_finish {as_ : List Act} (h : Canon s) : Canon (s.finish q as_) := canon_finishAt h

theorem bodyKept_done {lat : Nat} {as_ : List Act} (h : Canon s) : BodyKept (done s lat as_) := canon_deliver h

end

end Sys2Proof.Proofs
end

section
/-! PROOFS. What a core's own acts, its ports and its monitors do keeps the canonical form (O59). -/

namespace Sys2Proof.Proofs

open Sys2Proof.Machine Sys2Proof.Safety Sys2Proof.Laws

section
variable {s : State} {c : Core} {k i : Nat} {q : Nat × Nat} {p : Pend}

theorem coreCanon_writeBy {tier t : Nat} {own : Option Nat} {w : Held} (h : CoreCanon c) : CoreCanon (c.writeBy tier t own w) :=
  coreCanonical_iff.mp (coreCanonical_writeBy tier t own w (coreCanonical_iff.mpr h))

theorem coreCanon_endSlot {tier t : Nat} (h : CoreCanon c) : CoreCanon (c.endSlot tier t) :=
  coreCanonical_iff.mp (coreCanonical_endSlot tier t (coreCanonical_iff.mpr h))

theorem coreCanon_storeN {tier a : Nat} {bs : List Byte} {sub : Bool} (h : CoreCanon c) : CoreCanon (c.storeN tier a bs sub) :=
  coreCanonical_iff.mp (coreCanonical_storeN tier a bs sub (coreCanonical_iff.mpr h))

theorem coreCanon_pendAt {t : Nat} {a : Act} (h : CoreCanon c) : CoreCanon (c.pendAt t i a) := { h with }

theorem coreCanon_slice {l : Slice} (h : CoreCanon c) : CoreCanon { c with slice := l } := { h with }

theorem coreCanon_sliceAct {tier t : Nat} (h : CoreCanon c) : CoreCanon (c.sliceAct tier t p) := by
  unfold Core.sliceAct
  split
  · split
    · next pr addr stream _ =>
      extract_lets cy cs d j'
      have hd : CoreCanon d := coreCanon_slice h
      clear_value d cs
      split
      · exact hd
      · exact coreCanon_pendAt hd
    · exact h
  · split
    · dsimp only
      split
      · exact coreCanon_pendAt (coreCanon_slice h)
      · exact coreCanon_slice h
    · exact h
  · split
    · dsimp only
      split
      · exact coreCanon_pendAt (coreCanon_pendAt (coreCanon_slice h))
      · exact coreCanon_pendAt (coreCanon_slice h)
    · exact h
  · split
    · exact coreCanon_foldl h _ (fun _ _ hc => coreCanon_writeBy hc)
    · exact h
  · exact h

theorem canon_passColumns (h : Canon s) : Canon (s.passColumns k p) := by
  unfold State.passColumns
  split
  · split
    · exact canon_foldl h _ (fun _ _ hs => canon_modSlice hs)
    · exact h
  · exact h

theorem coreCanon_rmw {tier op addr : Nat} {ty : Ty} {opnd cmp : DWord} {free : BitVec 32} {r : Except Trap DWord} {d : Core}
    (h : CoreCanon c) (hr : c.rmw tier op ty addr opnd cmp free = (r, d)) : CoreCanon d := by
  unfold Core.rmw at hr
  split at hr
  · cases hr
    exact h
  · cases hr
    exact coreCanon_storeN h

theorem canon_timedAtomic (h : Canon s) : Canon (s.timedAtomic k p) := by
  unfold State.timedAtomic
  split
  · next op ty addr opnd cmp d wdue pc word _ =>
    have hu : Canon (s.correct k addr (ty.width / 8)) := canon_correct h
    dsimp only
    generalize s.correct k addr (ty.width / 8) = u at hu
    cases hr : (u.core k).rmw (Machine.tierOf k) op ty addr opnd cmp 0 with
    | mk r c =>
      have hv : Canon (u.setCore k (c.endSlot (Machine.tierOf k) p.due)) := canon_setCore hu (coreCanon_endSlot (coreCanon_rmw (hu.core k) hr))
      dsimp only
      split
      · exact canon_trapLate hv
      · exact canon_foldl hv _ (fun _ _ hs => canon_modCore hs (fun _ hc => coreCanon_pendAt hc))
  · exact h

theorem canon_checkMonitor (h : Canon s) : Canon (s.checkMonitor q) := by
  unfold State.checkMonitor
  dsimp only
  split
  · split
    · exact canon_takeTrap (canon_correct h)
    · split
      · exact canon_finish (canon_correct h)
      · exact canon_correct h
  · exact h

theorem canon_checkMonitors {acts : List Act} (h : Canon s) : Canon (s.checkMonitors k acts) := by
  refine canon_foldl h _ (fun s i hs => ?_)
  split
  · split
    · exact canon_checkMonitor hs
    · exact hs
  · exact hs

theorem canon_portStore {w : Writer} {port a : Nat} {bs : List Byte} {bad : List Nat} (h : Canon s) : Canon (s.portStore w k port a bs bad) :=
  canon_modCore h (fun _ hc => coreCanon_pendAt hc)

theorem canon_watch {unit : Nat} (h : Canon s) : Canon (s.watch k unit) := canon_modCore h (fun _ hc => coreCanon_pendAt hc)

theorem canon_portSet {run : Bool} {a v : Nat} {f : Nat → Nat} {t : State} (h : Canon s) (hp : s.portSet run k a f = some (v, t)) : Canon t := by
  unfold State.portSet at hp
  dsimp only at hp
  split at hp
  · cases hp
  · cases hp
    exact canon_watch (canon_setCore (canon_correct h) (coreCanon_portWrite (h.core k)))

theorem canon_portAdd {run : Bool} {a n v : Nat} {t : State} (h : Canon s) (hp : s.portAdd run k a n = some (v, t)) : Canon t := canon_portSet h hp

theorem coreCanon_saveMsg {tier j : Nat} (h : CoreCanon c) : CoreCanon (c.saveMsg tier i j) := by
  unfold Core.saveMsg
  dsimp only
  exact coreCanon_modCtx (coreCanon_portWrite (coreCanon_portWrite h)) (fun _ hx => { hx with m := swf_sset _ _ hx.m })

theorem canon_corrects {α : Type} (a n : α → Nat) (l : List α) (h : Canon s) : Canon (l.foldl (fun s e => s.correct k (a e) (n e)) s) :=
  canon_foldl h l (fun _ _ hs => canon_correct hs)

theorem canon_applyPend (h : Canon s) : Canon (s.applyPend k p) := by
  unfold State.applyPend
  dsimp only
  split
  · next a bs sub _ =>
    split
    · exact canon_modCore (canon_correct h) (fun _ hc => coreCanon_writeBy hc)
    · exact canon_modCore h (fun _ hc => coreCanon_writeBy hc)
  · split
    · exact canon_modCore (canon_corrects _ _ _ h) (fun _ hc => coreCanon_foldl hc _ (fun _ _ hc => coreCanon_writeBy hc))
    · exact canon_modCore h (fun _ hc => coreCanon_foldl hc _ (fun _ _ hc => coreCanon_writeBy hc))
  · exact canon_modCore (canon_corrects _ _ _ (canon_passColumns h)) (fun _ hc => coreCanon_sliceAct hc)
  · exact canon_modCore (canon_corrects _ _ _ (canon_passColumns h)) (fun _ hc => coreCanon_sliceAct hc)
  · exact canon_modCore (canon_corrects _ _ _ (canon_passColumns h)) (fun _ hc => coreCanon_sliceAct hc)
  · exact canon_modCore (canon_corrects _ _ _ (canon_passColumns h)) (fun _ hc => coreCanon_sliceAct hc)
  · exact canon_timedAtomic h
  · exact canon_modCore h (fun _ hc => coreCanon_writeBy hc)
  · exact canon_modCore h (fun _ hc => coreCanon_saveMsg hc)
  · exact canon_modCore h (fun _ hc => coreCanon_applyAct hc)

theorem canon_settleN {t : Nat} {ok : Act → Bool} (n : Nat) : ∀ {s : State}, Canon s → Canon (s.settleN k t ok n) := by
  induction n with
  | zero => exact fun h => h
  | succ n ih =>
    intro s h
    unfold State.settleN
    split
    · exact h
    · split
      · exact ih (canon_applyPend (canon_modCore h (fun _ hc => { hc with })))
      · exact h

theorem canon_settle {t : Nat} (h : Canon s) : Canon (s.settle k t) := by
  unfold State.settle
  split
  · exact h
  · split
    · exact canon_checkMonitors (canon_settleN _ h)
    · exact h

theorem canon_settleBelow {t rank : Nat} (h : Canon s) : Canon (s.settleBelow k t rank) := by
  refine canon_foldl (canon_settleN _ h) _ (fun s i hs => ?_)
  split
  · split
    · exact canon_watch hs
    · exact hs
  · exact hs

theorem canon_settlePorts {t : Nat} (h : Canon s) : Canon (s.settlePorts k t) := canon_settleBelow h
theorem canon_settleUnit {t : Nat} (h : Canon s) : Canon (s.settleUnit k t) := canon_settleBelow h

end

end Sys2Proof.Proofs
end

section
/-! PROOFS. Messages and far space keep the canonical form (O59). -/

namespace Sys2Proof.Proofs

open Sys2Proof.Machine Sys2Proof.Safety Sys2Proof.Laws

section
variable {s t u : State} {k : Nat} {q : Nat × Nat} {part col va n : Nat} {cls : BitVec 2} {ev : Event}

theorem kept_next (h : Canon s) : KeptBy (.next s) := h

theorem canon_draw {lo : Nat} (h : Canon s) : Canon (s.draw lo).2 := { h with }

theorem canon_travel {src dst at_ a : Nat} {timed : Bool} (h : Canon s) (ht : s.travel src dst at_ timed = (a, u)) : Canon u := by
  unfold State.travel at ht
  dsimp only at ht
  cases ht
  cases timed
  · exact { h with }
  · exact { h with }

theorem canon_sendOff {src dst a : Nat} {timed : Bool} (h : Canon s) (ht : s.sendOff src dst timed = (a, u)) : Canon u := by
  unfold State.sendOff at ht
  cases hr : s.travel src dst s.now timed with
  | mk b v =>
    have hv := canon_travel h hr
    rw [hr] at ht
    dsimp only at ht
    split at ht
    · cases ht
      exact hv
    · cases ht
      exact { hv with }

theorem ctxCanon_modMsg {x : Ctx} {m : MsgReg} {f : Msg → Msg} (h : CtxCanon x) : CtxCanon (x.modMsg m f) := { h with m := swf_sset _ _ h.m }

theorem canon_modMsg {m : MsgReg} {f : Msg → Msg} (h : Canon s) : Canon (s.modCtx q (fun x => x.modMsg m f)) :=
  canon_modCtx h (fun _ hx => ctxCanon_modMsg hx)

theorem canon_land {m : MsgReg} {f : Msg → Msg} {v : DWord} (h : Canon s) : Canon (land s q m f v) := by
  unfold land
  dsimp only
  split
  · split
    · exact canon_modCtx (canon_modMsg h) (fun _ hx => { hx with })
    · exact canon_modMsg h
  · split
    · exact canon_finish (canon_cancel (canon_modMsg h))
    · exact canon_modMsg h
  · exact canon_modMsg h

theorem canon_fillMsg {m : MsgReg} {data : Line} {reply : Bool} (h : Canon s) : Canon (s.fillMsg q m data reply) := by
  rw [fillMsg_eq]
  exact canon_land h

theorem canon_faultMsg {m : MsgReg} {va : BitVec 57} {st : BitVec 8} {reply : Bool} (h : Canon s) : Canon (s.faultMsg q m va st reply) := by
  rw [faultMsg_eq]
  exact canon_land h

theorem canon_portServed (h : Canon s) : Canon (s.portServed k) := canon_modCtl h (fun _ => rfl)

theorem canon_holdMessage {src dst at_ : Nat} {timed : Bool} (h : Canon s) : Canon (s.holdMessage src dst timed at_ ev) := by
  unfold State.holdMessage
  dsimp only
  split
  · exact { h with }
  · exact { h with }

end

/-! ### The instructions of messages, and their arrivals -/

section
variable {s : State} {h : Hdr} (hs : Canon s)
include hs

theorem kept_execSend (d : MsgReg) (a : Reg) (b : VecReg) : KeptBy (execSend h d a b s) := by
  refine kept_issue hs ?_
  dsimp only
  split
  · exact trivial
  · refine bodyKept_bind (fun dst _ => ?_)
    cases hr : s.sendOff s.cur.1 dst (inStep s) with
    | mk arr u => exact canon_post (canon_sendOff hs hr)

theorem kept_execMget (d : MsgReg) (a b : Reg) : KeptBy (execMget h d a b s) := by
  refine kept_issue hs ?_
  dsimp only
  split
  · exact trivial
  · refine bodyKept_bind (fun dst _ => bodyKept_bind (fun _ _ => ?_))
    have hu : Canon (s.modCtx s.cur (fun x => x.modMsg d (fun r => r.request s.now))) := canon_modMsg hs
    generalize s.modCtx s.cur (fun x => x.modMsg d (fun r => r.request s.now)) = u at hu
    cases hr : u.sendOff s.cur.1 dst (inStep s) with
    | mk arr v => exact canon_post (canon_sendOff hu hr)

theorem kept_execMsgb (d : VecReg) (a b : Reg) (s8 : Bool) : KeptBy (execMsgb h d a b s8 s) := by
  unfold execMsgb
  extract_lets n
  refine kept_issue hs ?_
  dsimp only
  split
  · exact trivial
  · refine bodyKept_bind (fun dst _ => bodyKept_bind (fun _ _ => ?_))
    cases hr : s.sendOff s.cur.1 dst (inStep s) with
    | mk arr u => exact canon_post (canon_sendOff hs hr)

theorem kept_execMclr (d : MsgReg) : KeptBy (execMclr h d s) := kept_issue hs (canon_modMsg (q := s.cur) hs)

theorem kept_execMessageArrival : KeptBy (execMessageArrival s) := by
  unfold execMessageArrival
  split
  · refine kept_next ?_
    split
    · exact canon_holdMessage hs
    · exact canon_fillMsg hs
  · exact trivial

theorem kept_execMgetPortRead : KeptBy (execMgetPortRead s) := by
  unfold execMgetPortRead
  split
  · next home addr k c m timed first cleared _ =>
    refine kept_next ?_
    split
    · exact canon_post hs
    · have hu : Canon (((s.settle home s.now).portServed home).correct home addr 64) := canon_correct (canon_portServed (canon_settle hs))
      dsimp only
      generalize State.correct _ _ _ _ = u at hu
      cases hr : u.travel home k (u.now + Config.bankLatency (Machine.tierOf home) * cyc home) timed with
      | mk arr v => exact canon_post (canon_travel hu hr)
  · exact trivial

theorem kept_execMgetReply : KeptBy (execMgetReply s) := by
  unfold execMgetReply
  split
  · refine kept_next ?_
    split
    · exact hs
    · split
      · exact canon_fillMsg hs
      · exact canon_faultMsg hs
  · exact trivial

theorem kept_execEngineMessageArrival : KeptBy (execEngineMessageArrival s) := by
  unfold execEngineMessageArrival
  split
  · exact canon_fillMsg hs
  · exact trivial

theorem kept_execMsgbPortWrite : KeptBy (execMsgbPortWrite s) := by
  unfold execMsgbPortWrite
  split
  · refine kept_next ?_
    split
    · exact canon_post hs
    · exact canon_portStore (canon_portServed hs)
  · exact trivial

end

/-! ### Far space -/

section
variable {s t u : State} {k : Nat} {q : Nat × Nat} {part col va n : Nat} {cls : BitVec 2} {ev : Event}

theorem Canon.of_outward (h : Canon s) (ho : outward u = outward s) : Canon u :=
  h.of_parts (congrArg State.cores ho :) (congrArg (fun s : State => s.dev.far) ho :)

theorem canon_translate {write : Bool} {r : Except (BitVec 8) Nat} (h : Canon s) (ht : s.translate part col va write = (r, u)) : Canon u :=
  h.of_outward (outward_of_ahead (ahead_of_translate ht))

theorem canon_translateFor {read write : Bool} {r : Except (BitVec 8) Nat} (h : Canon s) (ht : s.translateFor part col va read write = (r, u)) :
    Canon u := by
  have ha := ahead_translateFor s part col va read write
  rw [ht] at ha
  exact h.of_outward (outward_of_ahead ha)

theorem canon_sendFlit {f : Flit} {b : Bool} (h : Canon s) (hr : s.sendFlit f = (b, u)) : Canon u := by
  have hs := outward_of_sentless (sentless_sendFlit s f)
  rw [hr] at hs
  exact h.of_outward hs

theorem canon_askPeer {p off : Nat} {typ : BitVec 4} {payload : List Byte} {x : FarRes (List Byte)} (h : Canon s)
    (hr : s.askPeer part va p off cls typ payload ev = (x, u)) : Canon u := h.of_outward (outward_askPeer_eq hr)

theorem canon_putOff {at_ : Nat} (h : Canon s) : Canon (s.putOff at_ ev) := h.of_outward (outward_putOff _ _ _)

theorem canon_forget (h : Canon s) : Canon (s.forget ev) := { h with }

theorem canon_readPieces {l : List (Nat × Nat)} {x : FarRes (List Byte)} (h : Canon s) (hr : s.readPieces part col cls ev l = (x, u)) : Canon u :=
  h.of_outward (outward_readPieces hr)

theorem canon_farRead {x : FarRes (List Byte)} (h : Canon s) (hr : s.farRead part col va n cls ev = (x, u)) : Canon u := canon_readPieces h hr

theorem canon_readPhys {x : Except (BitVec 8) (List Byte)} (h : Canon s) (hr : s.readPhys va n = (x, u)) : Canon u :=
  h.of_outward (outward_readPhys_of rfl hr)

theorem canon_writePhys {pa : Nat} {bs : List Byte} (h : Canon s) : Canon (s.writePhys pa bs) := { h with far := swf_writeBytes _ _ _ h.far }

/-- A piece of a far write. The place is hidden from the kernel, which would evaluate it. -/
theorem canon_writePiece {f : State → Nat → Nat → Nat → List Byte → BitVec 2 → Event → FarRes Unit × State} (hf : f = State.writePiece)
    {bs : List Byte} {x : FarRes Unit} (h : Canon s) (hr : f s part col va bs cls ev = (x, u)) : Canon u := by
  delta State.writePiece at hf
  obtain ⟨place, hplace⟩ : ∃ f : Dev → Nat → Place, Dev.place = f := ⟨_, rfl⟩
  rw [hplace] at hf
  rw [hf] at hr
  beta_reduce at hr
  cases ha : s.dev.fabric.asked ev va with
  | some y =>
    rw [ha] at hr
    cases hr
    exact h
  | none =>
    rw [ha] at hr
    dsimp only at hr
    cases ht : s.translate part col va true with
    | mk r v =>
      have hv := canon_translate h ht
      rw [ht] at hr
      cases r with
      | error e =>
        cases hr
        exact hv
      | ok pa =>
        dsimp only at hr
        cases hp : place v.dev pa with
        | peer p off =>
          rw [hp] at hr
          dsimp only at hr
          cases hask : v.askPeer part va p off cls 1 bs ev with
          | mk y w =>
            rw [hask] at hr
            cases hr
            exact canon_askPeer hv hask
        | _ =>
          rw [hp] at hr
          cases hr
          exact canon_writePhys hv

theorem canon_writePieces {l : List (Nat × Nat)} : ∀ {s : State} {bs : List Byte} {x : FarRes Unit}, Canon s →
    s.writePieces part col bs cls ev l = (x, u) → Canon u := by
  induction l with
  | nil =>
    intro s bs x h hr
    cases hr
    exact h
  | cons e l ih =>
    intro s bs x h hr
    obtain ⟨va, n⟩ := e
    rw [State.writePieces] at hr
    cases hp : s.writePiece part col va (bs.take n) cls ev with
    | mk y v =>
      have hv := canon_writePiece rfl h hp
      rw [hp] at hr
      cases y with
      | ok z => exact ih hv hr
      | fault t => cases hr; exact hv
      | wait => cases hr; exact hv

theorem canon_farWrite {bs : List Byte} {x : FarRes Unit} (h : Canon s) (hr : s.farWrite part col va bs cls ev = (x, u)) : Canon u :=
  canon_writePieces h hr

theorem canon_sendLdx {d : MsgReg} {a : DWord} (h : Canon s) : Canon (s.sendLdx q d a) := { h with }

theorem canon_stxDone {a : DWord} {st : BitVec 8} (h : Canon s) : Canon (s.stxDone q n a st) := by
  have hrec (r : FaultRec) : Canon (if st = 0 then s else s.record q.1 r) := by
    split
    · exact h
    · exact canon_record h
  unfold State.stxDone
  extract_lets x u v w y z
  have hw : Canon w := canon_modCtx (hrec _) (fun _ hx => { hx with })
  have hz : Canon z := by
    show Canon (if y.stxSeq = x.stxSeq then w else _)
    split
    · exact hw
    · exact canon_portStore hw
  have hu : Canon u := hrec _
  clear_value u z
  split
  · split
    · exact canon_post hu
    · exact hu
  · split
    · exact h
    · split
      · exact canon_post hz
      · exact hz

theorem canon_ringWrite {r : Ring} {bs : List Byte} {x : Option Ring} (h : Canon s) (hr : s.ringWrite part col r bs cls ev = (x, u)) : Canon u := by
  unfold State.ringWrite at hr
  extract_lets size at hr
  clear_value size
  split at hr
  · cases hr
    exact h
  · cases hw : s.farWrite part col (r.base.toNat * 4096 + 32 * (r.tail.toNat % size)) bs cls ev with
    | mk y v =>
      have hv := canon_farWrite h hw
      rw [hw] at hr
      cases y with
      | wait => cases hr; exact hv
      | ok z => cases hr; exact hv
      | fault t => cases hr; exact hv

end

section
variable {s : State} {h : Hdr} (hs : Canon s)
include hs

theorem kept_execLdx (d : MsgReg) (a : Reg) : KeptBy (execLdx h d a s) := by
  refine kept_issue hs ?_
  dsimp only
  split
  · exact trivial
  · exact canon_sendLdx (canon_modMsg hs)

theorem kept_execLdxReply : KeptBy (execLdxReply s) := by
  unfold execLdxReply
  split
  · next k c m va tag epoch _ =>
    refine kept_next ?_
    dsimp only
    split
    · exact hs
    · split
      · exact canon_post hs
      · split
        · exact canon_putOff hs
        · cases hr : s.farRead (s.partOf k) (columnOf k) va.toNat 64 0 (.ldxReply k c m va tag epoch) with
          | mk x u =>
            have hu := canon_farRead hs hr
            cases x with
            | wait => exact hu
            | ok bs => exact canon_fillMsg (canon_forget hu)
            | fault t => exact canon_faultMsg (canon_forget hu)
  · exact trivial

theorem kept_execStx (a : Reg) (b : VecReg) : KeptBy (execStx h a b s) := by
  refine kept_issue hs ?_
  dsimp only
  split
  · exact trivial
  · exact canon_post (canon_draw (canon_modCtx (q := s.cur) hs (fun _ hx => { hx with })))

theorem kept_execStxComplete : KeptBy (execStxComplete s) := by
  unfold execStxComplete
  split
  · next k c n va data epoch _ =>
    refine kept_next ?_
    dsimp only
    split
    · exact hs
    · split
      · exact canon_putOff hs
      · cases hr : s.farWrite (s.partOf k) (columnOf k) va.toNat (lineBytes data) 0 (.stxComplete k c n va data epoch) with
        | mk x u =>
          have hu := canon_farWrite hs hr
          cases x with
          | wait => exact hu
          | ok _ => exact canon_stxDone (canon_forget hu)
          | fault t => exact canon_stxDone (canon_forget hu)
  · exact trivial

theorem kept_execFaultRecordDrain : KeptBy (execFaultRecordDrain s) := by
  unfold execFaultRecordDrain
  split
  · next tier col _ =>
    refine kept_next ?_
    dsimp only
    split
    · exact hs
    · next f rest _ =>
      split
      · exact hs
      · cases hr : s.ringWrite (partOfQuad s.dev.mode (col / 16)) col (s.part (partOfQuad s.dev.mode (col / 16))).fq (leBytes 32 f.toNat) 0
            (.faultRecordDrain tier col) with
        | mk x u =>
          have hu := canon_ringWrite hs hr
          cases x with
          | none => exact hu
          | some r =>
            dsimp only
            split
            · exact { hu with }
            · exact { hu with }
  · exact trivial

end

end Sys2Proof.Proofs
end

section
/-! PROOFS. Replies, bank atomics, transfers, calls and the trap instructions keep the canonical form (O59). -/

namespace Sys2Proof.Proofs

open Sys2Proof.Machine Sys2Proof.Safety Sys2Proof.Laws

section
variable {s t u : State} {k num : Nat} {q : Nat × Nat} {v : DWord}

theorem canon_number (h : Canon s) : Canon s.number.2 := { h with }

theorem canon_answerIn {at_ : Nat} (h : Canon s) : Canon (s.answerIn q num at_ v) := by
  unfold State.answerIn
  split
  · exact canon_finishAt h
  · exact h

theorem canon_answer (h : Canon s) : Canon (s.answer q num v) := canon_answerIn h

theorem canon_answerTrap {tr : Trap} (h : Canon s) : Canon (s.answerTrap q num tr) := by
  unfold State.answerTrap
  split
  · exact canon_takeTrap h
  · exact h

theorem canon_answerAt {at_ : Nat} (h : Canon s) : Canon (s.answerAt q num at_ v) := by
  unfold State.answerAt
  split
  · split
    · dsimp only
      split
      · exact canon_modCtx h (fun _ hx => { hx with })
      · exact canon_modCtl (canon_modCtx h (fun _ hx => { hx with })) (fun _ => rfl)
    · exact h
  · split
    · exact canon_modCtx h (fun _ hx => { hx with })
    · exact h
  · exact h

theorem canon_toSlot {r : AtomicReq} {cy : Nat} (h : Canon s) : Canon (s.toSlot r cy) := canon_post h

theorem canon_performRmw {r : AtomicReq} {x : Except Trap DWord} (h : Canon s) (hr : s.performRmw k r = (x, u)) : Canon u := by
  unfold State.performRmw at hr
  have hv : Canon (s.correct k r.addr (r.ty.width / 8)).number.2 := canon_number (canon_correct h)
  dsimp only at hr
  generalize (s.correct k r.addr (r.ty.width / 8)).number.2 = v at hr hv
  cases hc : (v.core k).rmw (Machine.tierOf k) r.op r.ty r.addr r.opnd r.cmp (Config.freeUnitValue (s.correct k r.addr (r.ty.width / 8)).number.1) with
  | mk y c =>
    rw [hc] at hr
    cases hr
    exact canon_setCore hv (coreCanon_rmw (hv.core k) hc)

/-- A far read-modify-write. The place is hidden from the kernel, which would evaluate it. -/
theorem canon_farRmw_of {f : State → Nat → Nat → AtomicReq → Event → FarRes DWord × State} (hf : f = State.farRmw) {part col : Nat}
    {r : AtomicReq} {ev : Event} {x : FarRes DWord} (h : Canon s) (hr : f s part col r ev = (x, u)) : Canon u := by
  delta State.farRmw at hf
  obtain ⟨place, hplace⟩ : ∃ f : Dev → Nat → Place, Dev.place = f := ⟨_, rfl⟩
  obtain ⟨inHbm, hin⟩ : ∃ f : Dev → Nat → Bool, Dev.inHbm = f := ⟨_, rfl⟩
  rw [hplace, hin] at hf
  rw [hf] at hr
  beta_reduce at hr
  dsimp only at hr
  split at hr
  · cases hr; exact h
  · cases hr; exact h
  · cases hr; exact h
  · cases ht : s.translateFor part col r.addr true true with
    | mk y v =>
      have hv := canon_translateFor h ht
      rw [ht] at hr
      cases y with
      | error e => cases hr; exact hv
      | ok pa =>
        dsimp only at hr
        split at hr
        · cases hr; exact hv
        · cases hp : place v.dev pa with
          | hbm =>
            rw [hp] at hr
            dsimp only at hr
            split at hr
            · cases hr; exact hv
            · cases hr; exact canon_writePhys (canon_number hv)
          | peer p off =>
            rw [hp] at hr
            dsimp only at hr
            cases hask : v.askPeer part r.addr p off 0 4 (atomicPayload r) ev with
            | mk z w =>
              have hw := canon_askPeer hv hask
              rw [hask] at hr
              cases z with
              | fault e => cases hr; exact hw
              | ok e => cases hr; exact hw
              | wait => cases hr; exact hw
          | _ =>
            rw [hp] at hr
            cases hr
            exact hv

theorem canon_farRmw {part col : Nat} {r : AtomicReq} {ev : Event} {x : FarRes DWord} (h : Canon s) (hr : s.farRmw part col r ev = (x, u)) :
    Canon u := canon_farRmw_of rfl h hr

theorem canon_issueSc {d : Reg} {what : ScWhat} (h : Canon s) : Canon (s.issueSc num d what) := { h with }

end

section
variable {s : State} {h : Hdr} (hs : Canon s)
include hs

theorem kept_execClusterAtomicReply : KeptBy (execClusterAtomicReply s) := by
  unfold execClusterAtomicReply
  split
  · refine kept_next ?_
    split
    · exact canon_answerTrap hs
    · exact canon_answer hs
  · exact trivial

theorem kept_execScAnnounce : KeptBy (execScAnnounce s) := by
  unfold execScAnnounce
  split
  · refine kept_next ?_
    extract_lets u w last next v
    have hu : Canon u := canon_settle hs
    have hv : Canon v := { hu with }
    clear_value u v
    split
    · exact canon_post hu
    · split
      · exact hv
      · exact canon_post hv
  · exact trivial

theorem bodyKept_timedIssue {op addr : Nat} {d : Reg} {ty : Ty} {opnd cmp : DWord} : BodyKept (timedIssue op d ty addr opnd cmp s) := by
  unfold timedIssue
  extract_lets k tk more u
  split
  · exact trivial
  · exact canon_deliver (canon_modCtl hs (fun _ => rfl))

theorem kept_atomic (op : Nat) (d a b : Reg) (ty : Ty) (scope : Scope) (k : BitVec 8) (sc : Bool) : KeptBy (atomic op h d a b ty scope k sc s) := by
  refine kept_issue hs (bodyKept_bind (fun e _ => ?_))
  obtain ⟨home, addr⟩ := e
  dsimp only
  split
  · exact bodyKept_timedIssue hs
  · split
    · exact canon_issueSc (canon_number hs)
    · split
      · exact canon_post (canon_draw (canon_number hs))
      · exact canon_toSlot (canon_number hs)

theorem kept_transfer (len : Nat) (noGuard : Bool) (rs : List Reg) (kind : BitVec 2) (t : State → Int) : KeptBy (transfer len h noGuard rs kind t s) :=
  kept_issue hs (bodyKept_bind (fun _ _ => hs))

theorem bodyKept_callTo {len : Nat} {t : Int} : BodyKept (callTo len s t) := by
  unfold callTo
  dsimp only
  split
  · exact trivial
  · split
    · exact trivial
    · exact bodyKept_bind (fun _ _ => canon_modCtx (canon_deliver hs) (fun _ hx => { hx with }))

theorem bodyKept_returnFrom : BodyKept (returnFrom s) := by
  by_cases hg : (rv s linkReg).toNat / 2 ^ 32 % 32 ∈ [8, 12, 16, 20, 24] ∧ (rv s linkReg).toNat / 2 ^ 37 = 0
  · rw [returnFrom_good rfl rfl hg.1 hg.2]
    split
    · exact trivial
    · split
      · exact trivial
      · exact canon_modCtx (q := s.cur) hs (fun _ hx => { hx with })
  · rw [returnFrom_illegal hg]
    exact trivial

theorem bodyKept_setFrame {f : Nat} : BodyKept (setFrame f s) := canon_modCtx (q := s.cur) hs (fun _ hx => { hx with })

theorem kept_execHalt : KeptBy (execHalt h s) := kept_issue hs (bodyKept_bind (fun _ _ => hs))

theorem kept_execRep (stride nm1l winl : BitVec 5) (winh : Bool) (nm1h : BitVec 5) (km1 : BitVec 3) (mask : BitVec 24) :
    KeptBy (execRep h stride nm1l winl winh nm1h km1 mask s) := by
  refine kept_issue hs (bodyKept_ok ?_)
  exact canon_modCtx (q := s.cur) hs (fun _ hx => { hx with })

theorem bodyKept_trapBody {len n : Nat} : BodyKept (trapBody len n s) := by
  unfold trapBody
  exact bodyKept_bind (fun _ _ => bodyKept_ok (canon_request (canon_modCtx (q := s.cur) hs (fun _ hx => { hx with }))))

theorem kept_execEret (gap : BitVec 2) (y : Bool) : KeptBy (execEret gap y s) :=
  kept_issue hs (bodyKept_bind (fun _ _ => bodyKept_bind (fun _ ht => canon_eret hs ht)))

end

end Sys2Proof.Proofs
end

section
/-! PROOFS. Event units, the wheel's slots and their replies keep the canonical form (O59). -/

namespace Sys2Proof.Proofs

open Sys2Proof.Machine Sys2Proof.Safety Sys2Proof.Laws

section
variable {s u : State} {k l t : Nat} {q : Nat × Nat} {o : UnitOp} {r : AtomicReq}

theorem canon_fireLine (h : Canon s) : Canon (s.fireLine l t) := canon_foldl h _ (fun _ _ hs => canon_post hs)

theorem canon_fireRoot (h : Canon s) : Canon (s.fireRoot l t) := by
  have hu : Canon (s.fireLine l t) := canon_fireLine h
  unfold State.fireRoot
  dsimp only
  generalize s.fireLine l t = u at hu
  split
  · exact hu
  · exact canon_foldl hu _ (fun _ _ hs => canon_post hs)

theorem canon_arriveAt (h : Canon s) : Canon (s.arriveAt l t) := by
  unfold State.arriveAt
  dsimp only
  split
  · exact h
  · split
    · exact canon_fireRoot (canon_modLine h)
    · exact canon_modLine h

theorem canon_signalAt {origin : Nat} (h : Canon s) : Canon (s.signalAt l origin t) := by
  unfold State.signalAt
  extract_lets u
  have hu : Canon u := canon_fireLine (canon_modLine h)
  clear_value u
  split
  · exact hu
  · split
    · exact hu
    · exact canon_post hu

theorem canon_addUnit {d : Reg} {kd : UnitKind} {addr : Nat} {opnd : DWord} (h : Canon s) : Canon (s.addUnit t q d kd addr opnd) := { h with }

theorem canon_engineArrival {addr : Nat} (h : Canon s) : Canon (s.engineArrival q addr) := canon_addUnit h

theorem canon_unitResult {status : Nat} {value : BitVec 32} (h : Canon s) : Canon (s.unitResult o status value) := by
  unfold State.unitResult
  split
  · exact canon_modCtx h (fun _ hx => { hx with })
  · exact h

theorem canon_unitStatus {status : Nat} (h : Canon s) : Canon (s.unitStatus o status) := canon_unitResult (canon_number h)

theorem canon_unitGate {w : Wait} (h : Canon s) : Canon (s.unitGate o w) := by
  unfold State.unitGate
  split
  · exact canon_modCore h (fun _ hc => coreCanon_leave (coreCanon_modCtx hc (fun _ hx => { hx with })))
  · exact h

theorem canon_unitAsks {num : Nat} (h : Canon s) : Canon (s.unitAsks o num) := by
  unfold State.unitAsks
  split
  · exact canon_modCtx h (fun _ hx => { hx with })
  · exact h

theorem canon_toRoot {own root : Nat} {what : RootOp} (h : Canon s) : Canon (s.toRoot o own root what) := by
  refine canon_post ?_
  split
  · exact canon_number h
  · exact canon_unitAsks (canon_number h)

theorem canon_fromRoot {root num status : Nat} {value : BitVec 32} (h : Canon s) : Canon (s.fromRoot o root num status value) := canon_answerAt h

theorem canon_rootStatus {root num status : Nat} (h : Canon s) : Canon (s.rootStatus o root num status) := canon_fromRoot (canon_number h)

theorem canon_unitMem {home : Option Nat} {addr op : Nat} {opnd cmp : DWord} (h : Canon s) : Canon (s.unitMem o home addr op opnd cmp) := by
  unfold State.unitMem
  show Canon (let num := s.number.1; let u := s.number.2
    let r : AtomicReq := ⟨o.who.1, o.who.2, num, op, .i64, home, home.isSome, addr, opnd, cmp, (u.part (u.partOf o.who.1)).epoch⟩
    let v := match o.kind with
      | .engArrive => u
      | _ => u.unitAsks o num
    match home with
    | some b => v.toSlot r (o.at_ / cyc o.who.1 + meshLatency o.who.1 b)
    | none => (v.draw (cyc o.who.1)).2.post (o.at_ + cyc o.who.1 + (v.draw (cyc o.who.1)).1) (.deviceAtomicReply r))
  extract_lets num u r v
  have hv : Canon v := by
    show Canon (match o.kind with
      | .engArrive => u
      | _ => u.unitAsks o num)
    split
    · exact canon_number h
    · exact canon_unitAsks (canon_number h)
  clear_value v
  split
  · exact canon_toSlot hv
  · exact canon_post (canon_draw hv)

theorem canon_freeLine (h : Canon s) : Canon (s.freeLine l t) := by
  unfold State.freeLine
  dsimp only
  refine canon_modLine (canon_foldl h _ (fun s w hs => ?_))
  exact canon_finishAt (canon_number hs)

theorem canon_attachArrival {n addr : Nat} (h : Canon s) : Canon (s.attachArrival q n addr) := by
  unfold State.attachArrival
  dsimp only
  split
  · exact canon_modCol h
  · exact canon_engineArrival h

/-- The operation of a cycle. What an address names, and the units' base, are hidden from the kernel, which would evaluate them. -/
theorem canon_applyUnit_of {f : State → UnitOp → State} (hf : f = State.applyUnit) (h : Canon s) : Canon (f s o) := by
  delta State.applyUnit at hf
  obtain ⟨target, htarget⟩ : ∃ f : State → Nat × Nat → Nat → Target, State.target = f := ⟨_, rfl⟩
  obtain ⟨base, hbase⟩ : ∃ n, unitBase = n := ⟨_, rfl⟩
  rw [htarget, hbase] at hf
  rw [hf]
  dsimp only
  split
  · split
    · exact canon_unitStatus h
    · exact canon_unitStatus (canon_freeLine h)
  · split
    · exact canon_unitStatus h
    · split
      · exact canon_unitResult h
      · exact canon_unitResult (canon_modLine h)
  · split
    · split
      · exact canon_unitStatus h
      · split
        · exact canon_toRoot h
        · split
          · exact canon_unitStatus h
          · exact canon_modLine (canon_unitStatus h)
    · exact canon_unitMem h
    · exact canon_unitStatus h
  · split
    · split
      · exact canon_toRoot h
      · split
        · exact canon_unitStatus h
        · exact canon_arriveAt (canon_unitResult h)
    · exact canon_unitMem h
    · exact canon_unitStatus h
  · split
    · exact canon_unitStatus h
    · exact canon_unitStatus h
    · exact canon_unitStatus h
    · split
      · exact canon_toRoot h
      · split
        · exact canon_unitStatus h
        · exact canon_attachArrival (canon_unitResult h)
    · exact canon_unitMem h
  · split
    · split
      · exact canon_unitGate (canon_number h)
      · exact canon_unitResult h
    · exact canon_unitMem h
    · exact canon_unitStatus h
  · split
    · exact canon_unitResult (canon_signalAt h)
    · exact canon_unitStatus h
  · split
    · split
      · exact canon_unitResult h
      · exact canon_unitGate (canon_number h)
    · exact canon_unitStatus h
  · split
    · split
      · exact canon_unitStatus (canon_modLine h)
      · exact canon_unitGate (canon_number h)
    · exact canon_unitStatus h
  · split
    · split
      · exact canon_unitStatus h
      · split
        · exact canon_modLine (canon_number (canon_unitStatus h))
        · exact canon_post (canon_modLine (canon_number (canon_unitStatus h)))
    · exact canon_unitStatus h
  · split
    · split
      · exact canon_arriveAt h
      · exact h
    · split
      · exact canon_rootStatus h
      · split
        · exact canon_rootStatus h
        · exact canon_modLine (canon_rootStatus h)
    · split
      · exact canon_rootStatus h
      · split
        · exact canon_rootStatus h
        · exact canon_arriveAt (canon_fromRoot h)
    · split
      · exact canon_rootStatus h
      · split
        · exact canon_rootStatus h
        · exact canon_attachArrival (canon_fromRoot h)
  · split
    · exact h
    · split
      · exact canon_fireLine (canon_modLine h)
      · exact canon_signalAt h
  · split
    · exact canon_answerIn (canon_signalAt h)
    · exact canon_answerIn (canon_number h)
  · split
    · split
      · exact canon_arriveAt h
      · exact canon_toRoot h
    · exact canon_unitMem h
    · exact h

theorem canon_applyUnit (h : Canon s) : Canon (s.applyUnit o) := canon_applyUnit_of rfl h

theorem canon_flushN (n : Nat) : ∀ {s : State}, Canon s → Canon (s.flushN t n) := by
  induction n with
  | zero => exact fun h => h
  | succ n ih =>
    intro s h
    unfold State.flushN
    split
    · exact h
    · exact ih (canon_applyUnit { h with })

theorem canon_flushUnits (h : Canon s) : Canon (s.flushUnits t) := canon_flushN _ h

theorem canon_pointResult {v : DWord} {x : Option DWord} (h : Canon s) (hr : s.pointResult r v = (x, u)) : Canon u := by
  unfold State.pointResult at hr
  split at hr
  · cases hr
    exact h
  · cases hr
    split
    · exact canon_attachArrival h
    · exact h

theorem canon_closeSlot {unit : Nat} (h : Canon s) : Canon (s.closeSlot k unit) := canon_watch (canon_modCore h (fun _ hc => coreCanon_endSlot hc))

theorem canon_dropSlot (h : Canon s) : Canon (s.dropSlot k r) := by
  refine canon_toSlot (canon_watch (canon_modCore h (fun c hc => ?_)))
  refine coreCanon_foldl ?_ _ (fun _ _ hc => coreCanon_writeBy hc)
  exact coreCanon_ctl hc rfl

theorem canon_pointRmw {x : FarRes DWord} (h : Canon s) (hr : s.pointRmw r = (x, u)) : Canon u := by
  unfold State.pointRmw at hr
  split at hr
  · cases hr
    exact h
  · cases hr
    exact canon_writePhys (canon_number h)

end

section
variable {s : State} {h : Hdr} (hs : Canon s)
include hs

theorem kept_execAtomicSlot : KeptBy (execAtomicSlot s) := by
  unfold execAtomicSlot
  split
  · next r _ =>
    refine kept_next ?_
    split
    · exact hs
    · next home _ =>
      extract_lets tk mine
      split
      · split
        · exact canon_dropSlot hs
        · cases hr : (s.settle home s.now).performRmw home r with
          | mk res u =>
            have hv : Canon (u.closeSlot home (r.addr / 8)) := canon_closeSlot (canon_performRmw (canon_settle hs) hr)
            dsimp only
            generalize u.closeSlot home (r.addr / 8) = v at hv
            cases res with
            | ok w =>
              dsimp only
              cases hp : v.pointResult r w with
              | mk y z =>
                have hz := canon_pointResult hv hp
                cases y with
                | some w =>
                  dsimp only
                  split
                  · exact canon_post hz
                  · exact canon_answerAt hz
                | none =>
                  dsimp only
                  split
                  · exact canon_toSlot hz
                  · exact hz
            | error tr =>
              dsimp only
              split
              · exact canon_post hv
              · exact canon_answerTrap hv
      · split
        · exact canon_toSlot hs
        · exact canon_post (canon_modCtl hs (fun _ => rfl))
  · exact trivial

theorem kept_execDeviceAtomicReply : KeptBy (execDeviceAtomicReply s) := by
  unfold execDeviceAtomicReply
  split
  · next r _ =>
    refine kept_next ?_
    extract_lets part ev q point
    split
    · exact hs
    · split
      · exact canon_putOff hs
      · cases hr : (if point = true then s.pointRmw r else s.farRmw part (columnOf r.core) r ev) with
        | mk x u =>
          have hu : Canon u := by
            split at hr
            · exact canon_pointRmw hs hr
            · exact canon_farRmw hs hr
          cases x with
          | wait => exact hu
          | fault t => exact canon_answerTrap (canon_forget hu)
          | ok v =>
            dsimp only
            cases hp : (u.forget ev).pointResult r v with
            | mk y w =>
              have hw := canon_pointResult (canon_forget hu) hp
              cases y with
              | some v => exact canon_answer hw
              | none =>
                dsimp only
                split
                · exact canon_post (canon_draw hw)
                · exact hw
  · exact trivial

theorem kept_execRvRootForward : KeptBy (execRvRootForward s) := by
  unfold execRvRootForward
  split
  · exact canon_addUnit hs
  · exact trivial

theorem kept_execEventChainForward : KeptBy (execEventChainForward s) := by
  unfold execEventChainForward
  split
  · exact canon_addUnit hs
  · exact trivial

theorem kept_execFireArrival : KeptBy (execFireArrival s) := by
  unfold execFireArrival
  split
  · refine kept_next ?_
    dsimp only
    split
    · split
      · exact canon_finish hs
      · exact hs
    · split
      · exact canon_finish hs
      · exact hs
    · split
      · exact canon_finish (canon_number hs)
      · exact hs
    · exact hs
  · exact trivial

theorem kept_unitIssue {d : Reg} {rs : List Reg} {check : State → Except Trap Unit} {k : State → UnitKind} {addr opnd : State → DWord}
    {release : State → Bool} : KeptBy (unitIssue h d rs check k addr opnd s release) := by
  refine kept_issue hs (bodyKept_bind (fun _ _ => ?_))
  split
  · exact hs
  · exact canon_addUnit hs

theorem kept_execEvsig (d a : Reg) (sc : Bool) : KeptBy (execEvsig h d a sc s) := by
  unfold execEvsig
  split
  · exact kept_issue hs (bodyKept_bind (fun _ _ => canon_issueSc (canon_number hs)))
  · exact kept_unitIssue hs

end
end Sys2Proof.Proofs
end

section
/-! PROOFS. Vector instructions and the engines keep the canonical form (O59). -/

namespace Sys2Proof.Proofs

open Sys2Proof.Machine Sys2Proof.Safety Sys2Proof.Laws

section
variable {s : State} {h : Hdr} (hs : Canon s)
include hs

theorem kept_vectorOp {tier : Option (BitVec 2)} {rs rd : List Reg} {vs : List VecReg} {lat occ : Nat} {f : State → List Act} :
    KeptBy (vectorOp h tier rs rd vs lat occ f s) := kept_issue hs (bodyKept_done hs)

theorem kept_laneLoad {tier : Option (BitVec 2)} {rs : List Reg} {vs : List VecReg} {d : VecReg} {w : Nat} {eas : State → List Int} :
    KeptBy (laneLoad h tier rs vs d w eas s) := kept_issue hs (bodyKept_bind (fun _ _ => bodyKept_bind (fun _ _ => bodyKept_done hs)))

theorem kept_laneStore {tier : Option (BitVec 2)} {rs : List Reg} {vs : List VecReg} {d : VecReg} {w : Nat} {eas : State → List Int} :
    KeptBy (laneStore h tier rs vs d w eas s) := by
  unfold laneStore
  exact kept_issue hs (bodyKept_bind (fun _ _ => bodyKept_done hs))

end

/-! ### Engine commands -/

section
variable {s t u : State} {col i e : Nat} {sl : Slot} {ev : Event}

theorem canon_modExtent {f : Extent → Extent} (h : Canon s) : Canon (s.modExtent e f) := canon_modDev h rfl

theorem canon_setSlot {x : Option Slot} (h : Canon s) : Canon (s.setSlot col i x) := canon_modCol h

theorem canon_modSlot {f : Slot → Slot} (h : Canon s) : Canon (s.modSlot col i f) := canon_setSlot h

theorem canon_putCommand (h : Canon s) : Canon (s.putCommand col i sl) := by
  refine canon_post (canon_setSlot ?_)
  split
  · exact canon_modExtent h
  · exact h

theorem canon_epRead {d : DWord} {off n : Nat} {bs : List Byte} {bad : List Nat} (h : Canon s) (hr : s.epRead col d off n = (bs, bad, u)) :
    Canon u := by
  cases hr
  exact canon_correct (canon_settle h)

theorem canon_epWrite {w : Writer} {d : DWord} {off : Nat} {bs : List Byte} {bad : List Nat} (h : Canon s) :
    Canon (s.epWrite w col d off bs bad) := canon_portStore h

/-- What a unit of a copy writes, once it is read. -/
theorem canon_unitWrite {dst : Nat} {bs : List Byte} {bad : List Nat} {x : UnitEnd} (h : Canon s)
    (hr : (if epNear sl.cmd.dst then (UnitEnd.moved, s.epWrite (.slot col i) col sl.cmd.dst dst bs bad)
      else if bad ≠ [] then (.fault tEcc dst, s)
      else match s.farWrite sl.part col dst bs 2 ev with
        | (.ok (), s) => (.moved, s)
        | (.fault t, s) => (.fault t dst, s)
        | (.wait, s) => (.wait, s.modSlot col i (fun x => { x with buf := bs }))) = (x, u)) : Canon u := by
  split at hr
  · cases hr
    exact canon_epWrite h
  · split at hr
    · cases hr
      exact h
    · cases hw : s.farWrite sl.part col dst bs 2 ev with
      | mk y v =>
        have hv := canon_farWrite h hw
        rw [hw] at hr
        cases y with
        | ok z => cases hr; exact hv
        | fault t => cases hr; exact hv
        | wait => cases hr; exact canon_modSlot hv

theorem canon_moveUnit {src dst n : Nat} {x : UnitEnd} (h : Canon s) (hr : s.moveUnit col i sl src dst n ev = (x, u)) : Canon u := by
  unfold State.moveUnit at hr
  dsimp only at hr
  split at hr
  · exact canon_unitWrite h hr
  · split at hr
    · cases he : s.epRead col sl.cmd.src src n with
      | mk bs y =>
        obtain ⟨bad, v⟩ := y
        rw [he] at hr
        exact canon_unitWrite (canon_epRead h he) hr
    · cases hf : s.farRead sl.part col src n 2 ev with
      | mk y v =>
        have hv := canon_farRead h hf
        rw [hf] at hr
        cases y with
        | ok z => exact canon_unitWrite hv hr
        | fault t => cases hr; exact hv
        | wait => cases hr; exact hv

theorem canon_readIndex {x : Except UnitEnd Nat} (h : Canon s) (hr : s.readIndex col sl ev = (x, u)) : Canon u := by
  unfold State.readIndex at hr
  dsimp only at hr
  split at hr
  · cases he : s.epRead col sl.cmd.idx (epOff sl.cmd.idx + 4 * sl.row) 4 with
    | mk bs y =>
      obtain ⟨bad, v⟩ := y
      have hv := canon_epRead h he
      rw [he] at hr
      dsimp only at hr
      split at hr
      · cases hr; exact hv
      · cases hr; exact hv
  · cases hf : s.farRead sl.part col (epOff sl.cmd.idx + 4 * sl.row) 4 0 ev with
    | mk y v =>
      have hv := canon_farRead h hf
      rw [hf] at hr
      cases y with
      | ok z => cases hr; exact hv
      | fault t => cases hr; exact hv
      | wait => cases hr; exact hv

theorem canon_endCommand {status : BitVec 16} (h : Canon s) : Canon (s.endCommand col i status) := canon_post (canon_modSlot h)

theorem canon_faultCommand {t : BitVec 8} {va : Nat} (h : Canon s) : Canon (s.faultCommand col i sl t va) := canon_endCommand (canon_record h)

theorem canon_nodeEnds {task node : Nat} {failure : Option (BitVec 16)} (h : Canon s) : Canon (s.nodeEnds task node failure) := by
  unfold State.nodeEnds
  split
  · exact h
  · split
    · exact h
    · split
      · exact canon_post (canon_modTask h)
      · exact canon_post (canon_modTask h)

theorem canon_freeSlot (h : Canon s) : Canon (s.freeSlot col i sl) := by
  unfold State.freeSlot
  extract_lets a b c
  have ha : Canon a := canon_setSlot h
  have hb : Canon b := by
    show Canon (match sl.owner with
      | some q =>
        let s := sl.arrive.foldl (fun s x => s.engineArrival q x) a
        (match (s.ctx q).kernel, (s.core q.1).ctl.kernel with
          | some kid, _ => s.post s.now (.kernelComplete kid)
          | none, some kid => s.post s.now (.kernelComplete kid)
          | none, none => s)
      | none => a)
    split
    · next q _ =>
      have hd : Canon (sl.arrive.foldl (fun s x => s.engineArrival q x) a) := canon_foldl ha _ (fun _ _ hs => canon_engineArrival hs)
      dsimp only
      split
      · exact canon_post hd
      · exact canon_post hd
      · exact hd
    · exact ha
  have hc : Canon c := by
    show Canon (match sl.node with
      | some (t, n) => b.nodeEnds t n (nodeFailure sl.status)
      | none => b)
    split
    · exact canon_nodeEnds hb
    · exact hb
  clear_value c
  split
  · exact canon_post hc
  · exact hc

theorem canon_startInstall (h : Canon s) : Canon (s.startInstall e) := by
  unfold State.startInstall
  split
  · exact h
  · split
    · exact h
    · split
      · exact canon_modExtent h
      · split
        · exact h
        · split
          · exact canon_post (canon_modExtent h)
          · split
            · exact canon_post (canon_modExtent h)
            · exact canon_post (canon_modSlot (canon_modExtent (canon_draw (lo := 1) h)))

theorem canon_nextInstall (h : Canon s) : Canon (s.nextInstall sl) := by
  unfold State.nextInstall
  split
  · exact h
  · exact canon_startInstall (canon_modExtent h)

theorem swf_ssets {α : Type} [DecidableEq α] {d : α} {β : Type} (key : β → Nat) (val : β → α) {m : Sparse α} (h : swf d m = true) (l : List β) :
    swf d (l.foldl (fun m b => sset d m (key b) (val b)) m) = true :=
  fold_keeps (fun m => swf d m = true) _ l m h (fun _ _ hm => swf_sset _ _ hm)

theorem canon_switchExtent (h : Canon s) : Canon (s.switchExtent sl) := by
  unfold State.switchExtent
  split
  · exact canon_modExtent { h with far := swf_ssets _ _ (swf_filter _ h.far) _ }
  · split
    · exact canon_modExtent h
    · exact h

theorem canon_afterUnit {n : Nat} (h : Canon s) : Canon (s.afterUnit col i sl n) := by
  have hu : Canon (s.draw (Config.cycleTicks 0)).2 := canon_draw h
  unfold State.afterUnit
  generalize s.draw (Config.cycleTicks 0) = y at hu
  obtain ⟨d, u⟩ := y
  dsimp only at hu ⊢
  split
  · exact canon_post (canon_modSlot hu)
  · split
    · exact canon_post (canon_modSlot hu)
    · exact canon_endCommand hu

/-- What a member's contribution is, once it is read. -/
theorem canon_contribution {bs : List Byte} {alone : Bool} (h : Canon s) :
    Canon (if alone then (s.modSlot col i (fun x => { x with buf := bs, started := true })).post s.now (.collComplete col i [bs] true)
      else s.modSlot col i (fun x => { x with buf := bs, started := true })) := by
  split
  · exact canon_post (canon_modSlot h)
  · exact canon_modSlot h

theorem canon_startColl (h : Canon s) : Canon (s.startColl col i sl ev) := by
  unfold State.startColl
  split
  · exact canon_endCommand h
  · dsimp only
    split
    · exact canon_contribution (canon_epRead h rfl)
    · cases hf : s.farRead sl.part col (epOff sl.cmd.src) sl.cmd.len 2 ev with
      | mk y v =>
        have hv := canon_farRead h hf
        cases y with
        | wait => exact hv
        | ok bs => exact canon_contribution (canon_forget hv)
        | fault t =>
          dsimp only
          split
          · exact canon_contribution (canon_forget hv)
          · exact canon_faultCommand (canon_forget hv)

/-- A page of an install's source. The place and the page's size are hidden from the kernel, which would evaluate the addresses. -/
theorem canon_installPage {f : State → Nat → Slot → Nat → Event → FarRes Unit × State} (hf : f = State.installPage) {j : Nat} {x : FarRes Unit}
    (h : Canon s) (hr : f s col sl j ev = (x, u)) : Canon u := by
  delta State.installPage at hf
  obtain ⟨place, hplace⟩ : ∃ f : Dev → Nat → Place, Dev.place = f := ⟨_, rfl⟩
  obtain ⟨n, hn⟩ : ∃ n, 4096 = n := ⟨_, rfl⟩
  rw [hplace, hn] at hf
  rw [hf] at hr
  beta_reduce at hr
  dsimp only at hr
  have hask {v u : State} {x : FarRes Unit} (hv : Canon v) (ha : (match v.farRead sl.part col (sl.cmd.src.toNat + n * j) n 2 ev with
      | (.ok bs, s) => (FarRes.ok (), s.modExtent sl.cmd.dst.toNat (fun x => { x with fresh := writeBytes x.fresh (n * j) bs }))
      | (.fault t, s) => (.fault t, s)
      | (.wait, s) => (.wait, s)) = (x, u)) : Canon u := by
    cases hf : v.farRead sl.part col (sl.cmd.src.toNat + n * j) n 2 ev with
    | mk y w =>
      have hw := canon_farRead hv hf
      rw [hf] at ha
      cases y with
      | ok bs => cases ha; exact canon_modExtent hw
      | fault t => cases ha; exact hw
      | wait => cases ha; exact hw
  split at hr
  · exact hask h hr
  · cases ht : s.translate sl.part col (sl.cmd.src.toNat + n * j) false with
    | mk r v =>
      have hv := canon_translate h ht
      rw [ht] at hr
      cases r with
      | error t => cases hr; exact hv
      | ok pa =>
        dsimp only at hr
        split at hr
        · cases hr; exact hv
        · split at hr
          · cases hr; exact hv
          · exact hask hv hr
        · split at hr
          · cases hr; exact hv
          · cases hr; exact canon_modExtent hv

theorem canon_installPages (n : Nat) : ∀ {s u : State} {x : FarRes Unit} {j : Nat}, Canon s → s.installPages col sl ev n = (x, j, u) → Canon u := by
  induction n with
  | zero =>
    intro s u x j h hr
    cases hr
    exact h
  | succ n ih =>
    intro s u x j h hr
    rw [installPages_succ rfl rfl] at hr
    cases hp : s.installPages col sl ev n with
    | mk r y =>
      obtain ⟨m, v⟩ := y
      have hv := ih h hp
      rw [hp] at hr
      cases r with
      | ok z =>
        dsimp only at hr
        cases hg : v.installPage col sl n ev with
        | mk r w =>
          rw [hg] at hr
          cases hr
          exact canon_installPage rfl hv hg
      | fault t => cases hr; exact hv
      | wait => cases hr; exact hv

theorem canon_installEnds {status : BitVec 16} (h : Canon s) : Canon (s.installEnds col i status) := canon_endCommand h

end

section
variable {s : State} {h : Hdr} (hs : Canon s)
include hs

theorem bodyKept_engineTake {kind : CmdKind} {scope : Scope} {cb : Nat} {c : Cmd} : BodyKept (engineTake kind scope cb c s) := by
  unfold engineTake
  split
  · split
    · exact trivial
    · exact hs
  · exact canon_putCommand (canon_modCtx (q := s.cur) (hs.of_parts rfl rfl) (fun _ hx => { hx with }))

theorem bodyKept_engineFields {kind : CmdKind} {scope : Scope} {cb x : Nat} : BodyKept (engineFields kind scope cb x s) := by
  unfold engineFields
  split
  · exact trivial
  · exact bodyKept_bind (fun _ _ => bodyKept_engineTake hs)

theorem bodyKept_engineRead {kind : CmdKind} {scope : Scope} {cb : Nat} : BodyKept (engineRead kind scope cb s) := by
  unfold engineRead
  split
  · exact trivial
  · exact bodyKept_bind (fun _ _ => bodyKept_engineFields hs)

theorem kept_engineIssue {kind : CmdKind} {scope : Scope} {a : Reg} {ill : State → Bool} : KeptBy (engineIssue kind scope h a ill s) := by
  rw [engineIssue_eq]
  exact kept_issue hs (bodyKept_bind (fun _ _ => bodyKept_engineRead hs))

theorem kept_execStage (a : Reg) : KeptBy (execStage h a s) := kept_issue hs (canon_post (canon_modCol hs))

theorem kept_execEngineStampWrite : KeptBy (execEngineStampWrite s) := by
  unfold execEngineStampWrite
  split
  · next col i _ =>
      refine kept_next ?_
      split
      · exact hs
      · next sl _ =>
        dsimp only
        split
        · exact canon_post hs
        · split
          · exact canon_post (canon_modSlot (canon_epWrite hs))
          · split
            · exact canon_nextInstall (canon_freeSlot (canon_switchExtent hs))
            · generalize leBytes 8 _ = bs
              cases hf : s.farWrite sl.part col (epOff sl.cmd.stamp) bs 0 (.engineStampWrite col i) with
              | mk y v =>
                have hv := canon_farWrite hs hf
                cases y with
                | wait => exact hv
                | ok z => exact canon_nextInstall (canon_freeSlot (canon_switchExtent (canon_forget hv)))
                | fault t => exact canon_nextInstall (canon_freeSlot (canon_switchExtent (canon_forget hv)))
  · exact trivial

/-- A unit of a copy, its row known. -/
theorem canon_unitGo {col i r : Nat} {sl : Slot} {ev : Event} : Canon (
    if sl.kind = .cpyg ∧ epNear sl.cmd.src ∧ epWindow sl.cmd.src < epOff sl.cmd.src + r * sl.cmd.sstr + sl.cmd.len then
      s.faultCommand col i sl tNoPhys (epFault sl.cmd.src (epOff sl.cmd.src + r * sl.cmd.sstr + sl.off))
    else match s.moveUnit col i sl (epOff sl.cmd.src + r * sl.cmd.sstr + sl.off) (epOff sl.cmd.dst + sl.row * sl.cmd.dstr + sl.off)
        (min 64 (sl.cmd.len - sl.off)) ev with
      | (.wait, s) => s
      | (.fault t va, s) => (s.forget ev).faultCommand col i sl t va
      | (.moved, s) => (s.forget ev).afterUnit col i sl (min 64 (sl.cmd.len - sl.off))) := by
  split
  · exact canon_faultCommand hs
  · cases hm : s.moveUnit col i sl (epOff sl.cmd.src + r * sl.cmd.sstr + sl.off) (epOff sl.cmd.dst + sl.row * sl.cmd.dstr + sl.off)
        (min 64 (sl.cmd.len - sl.off)) ev with
    | mk y v =>
      have hv := canon_moveUnit hs hm
      cases y with
      | wait => exact hv
      | fault t va => exact canon_faultCommand (canon_forget hv)
      | moved => exact canon_afterUnit (canon_forget hv)

theorem kept_execEngineUnit : KeptBy (execEngineUnit s) := by
  unfold execEngineUnit
  split
  · next col i _ =>
      refine kept_next ?_
      split
      · exact hs
      · next sl _ =>
        dsimp only
        split
        · exact canon_post hs
        · split
          · split
            · exact canon_unitGo hs
            · cases hr : s.readIndex col sl (.engineUnit col i) with
              | mk y v =>
                have hv := canon_readIndex hs hr
                cases y with
                | ok r => exact canon_unitGo (canon_modSlot (canon_forget hv)) (sl := { sl with idx := some r })
                | error e =>
                  cases e with
                  | wait => exact hv
                  | moved => exact hv
                  | fault t va => exact canon_faultCommand (canon_forget hv)
          · exact canon_unitGo hs
  · exact trivial

theorem kept_execStaticEntryStart : KeptBy (execStaticEntryStart s) := by
  unfold execStaticEntryStart
  split
  · refine kept_next ?_
    dsimp only
    split
    · refine canon_post (canon_post (canon_setSlot ?_))
      exact hs.of_parts rfl rfl
    · exact hs
  · exact trivial

/-- The end of an install. The number of its pages is hidden from the kernel, which would count to it. -/
theorem kept_execInstallComplete {f : State → Host.Outcome State Fault Refusal} (hf : f = execInstallComplete) : KeptBy (f s) := by
  delta execInstallComplete at hf
  obtain ⟨n, hn⟩ : ∃ n, 262144 = n := ⟨_, rfl⟩
  obtain ⟨size, hsize⟩ : ∃ n, 4096 = n := ⟨_, rfl⟩
  rw [hn, hsize] at hf
  rw [hf]
  beta_reduce
  split
  · next col i _ =>
      refine kept_next ?_
      split
      · exact hs
      · next sl _ =>
        dsimp only
        split
        · exact canon_installEnds hs
        · cases hp : (s.modExtent sl.cmd.dst.toNat (fun x => { x with fresh := [] })).installPages col sl (.installComplete col i) n with
          | mk r jv =>
            obtain ⟨j, v⟩ := jv
            have hv := canon_installPages n (canon_modExtent hs) hp
            cases r with
            | wait => exact canon_modExtent hv
            | fault t => exact canon_faultCommand (canon_forget (canon_modExtent hv))
            | ok y =>
              have hw : Canon v.number.2 := canon_number hv
              dsimp only
              split
              · exact canon_installEnds (canon_modExtent (canon_modPart (canon_forget hw)))
              · split
                · exact canon_installEnds (canon_modExtent (canon_modPart (canon_forget hw)))
                · split
                  · exact canon_installEnds (canon_forget (canon_modExtent hw))
                  · exact canon_installEnds (canon_modExtent (canon_modPart (canon_forget (canon_modExtent hw))))
  · exact trivial

theorem kept_execCollComplete : KeptBy (execCollComplete s) := by
  unfold execCollComplete
  split
  · next col i contribs same _ =>
      refine kept_next ?_
      split
      · exact hs
      · next sl _ =>
        split
        · next kind op ty rank _ _ =>
          split
          · exact hs
          · dsimp only
            generalize collResult kind op ty sl.cmd.len rank _ = bs
            split
            · exact canon_endCommand hs
            · split
              · exact canon_endCommand hs
              · split
                · exact canon_endCommand (canon_epWrite hs)
                · cases hf : s.farWrite sl.part col (epOff sl.cmd.dst) bs 2 (.collComplete col i contribs same) with
                  | mk y v =>
                    have hv := canon_farWrite hs hf
                    cases y with
                    | wait => exact hv
                    | ok z => exact canon_endCommand (canon_forget hv)
                    | fault t => exact canon_faultCommand (canon_forget hv)
        · exact hs
  · exact trivial

theorem kept_execEngineCommandStart : KeptBy (execEngineCommandStart s) := by
  unfold execEngineCommandStart
  split
  · refine kept_next ?_
    split
    · exact hs
    · dsimp only
      split
      · exact canon_post hs
      · split
        · exact canon_startInstall (canon_modSlot hs)
        · exact canon_startColl hs
        · exact canon_post (canon_modSlot (canon_draw (lo := 0) hs))
  · exact trivial

theorem kept_execMarm (a : Reg) : KeptBy (execMarm h a s) := by
  refine kept_issue hs ?_
  dsimp only
  split
  · exact trivial
  · split
    · exact trivial
    · exact canon_modCtx (q := s.cur) hs (fun _ hx => { hx with })

theorem kept_execMwait (d a : Reg) (ne : Bool) : KeptBy (execMwait h d a ne s) := by
  refine kept_issue hs ?_
  dsimp only
  split
  · exact trivial
  · refine bodyKept_bind (fun bs _ => ?_)
    split
    · exact bodyKept_done hs
    · exact hs

theorem kept_execFstat (d a : Reg) : KeptBy (execFstat h d a s) := by
  refine kept_issue hs ?_
  dsimp only
  split
  · exact trivial
  · exact canon_post (canon_draw (canon_number hs))

theorem kept_execFstatResult : KeptBy (execFstatResult s) := by
  unfold execFstatResult
  split
  · refine kept_next ?_
    dsimp only
    split
    · exact canon_post (canon_settle hs)
    · exact canon_answer (canon_settle hs)
  · exact trivial

end

end Sys2Proof.Proofs
end

section
/-! PROOFS. The expansion unit keeps the canonical form (O59). -/

namespace Sys2Proof.Proofs

open Sys2Proof.Machine Sys2Proof.Safety Sys2Proof.Laws

theorem canon_popExpansion {s : State} {k : Nat} (h : Canon s) : Canon (s.popExpansion k) := by
  unfold State.popExpansion
  dsimp only
  split
  · exact canon_modCtl (canon_modXu h) (fun _ => rfl)
  · exact canon_post (canon_modCtl (canon_modXu h) (fun _ => rfl))

section
variable {s : State} (hs : Canon s)
include hs

theorem kept_expandIssue {n : Need} {xs : List ExpReg} {check : State → Except Trap (XKind × Nat)} : KeptBy (expandIssue n xs check s) := by
  refine kept_issue hs (bodyKept_bind (fun e _ => ?_))
  obtain ⟨what, cycles⟩ := e
  dsimp only
  split
  · split
    · exact trivial
    · exact hs
  · refine bodyKept_ok ?_
    split
    · exact canon_post (canon_modXu hs)
    · exact canon_modXu hs

theorem kept_execExpansionOpStart : KeptBy (execExpansionOpStart s) := by
  unfold execExpansionOpStart
  split
  · next k _ =>
    refine kept_next ?_
    have hu : Canon (s.settle k s.now) := canon_settle hs
    dsimp only
    generalize s.settle k s.now = u at hu
    split
    · exact hu
    · split
      · exact canon_trapLate (canon_popExpansion hu)
      · exact canon_post (canon_modXu (canon_corrects _ _ _ hu))
  · exact trivial

theorem kept_execExpansionOpEnd : KeptBy (execExpansionOpEnd s) := by
  unfold execExpansionOpEnd
  split
  · next k _ =>
    refine kept_next ?_
    split
    · exact hs
    · split
      · exact canon_post hs
      · next o _ _ _ =>
        extract_lets t e a b acts c d
        have hc : Canon c :=
          canon_popExpansion (canon_modCore (canon_modXu hs) (fun _ hc => coreCanon_foldl hc _ (fun _ _ hc => coreCanon_pendAt hc)))
        dsimp only [d]
        clear_value c e
        split
        · exact canon_finish hc
        · exact canon_finish hc
        · exact canon_modCore hc (fun _ hc => coreCanon_foldl hc _ (fun _ _ hc => coreCanon_applyAct hc))
  · exact trivial

end

end Sys2Proof.Proofs
end

section
/-! PROOFS. Slices, products, gathers and gangs keep the canonical form (O59). -/

namespace Sys2Proof.Proofs

open Sys2Proof.Machine Sys2Proof.Safety Sys2Proof.Laws

section
variable {s u : State} {k : Nat} {o : SliceOp} {what : SliceKind}

theorem canon_enqueue (h : Canon s) : Canon (s.enqueue what) := by
  unfold State.enqueue
  dsimp only
  split
  · exact canon_post (canon_modSlice h)
  · exact canon_modSlice h

theorem bodyKept_sliceBody {idle : Bool} {chk : Except Trap SliceKind} {v : State} (h : Canon s) (hv : Canon v) : BodyKept (sliceBody idle chk v s) := by
  unfold sliceBody
  split
  · exact h
  · refine bodyKept_bind (fun what _ => ?_)
    split
    · exact trivial
    · exact canon_enqueue hv

theorem canon_dropMmas (h : Canon s) : Canon (s.dropMmas k) := by
  unfold State.dropMmas
  dsimp only
  split
  · split
    · exact canon_cancel (canon_modSlice h)
    · exact canon_post (canon_cancel (canon_modSlice h))
  · exact canon_modSlice h

theorem canon_announceStream (h : Canon s) : Canon s.announceStream := canon_foldl h _ (fun _ _ hs => canon_modSlice hs)

theorem canon_mmaState (h : Canon s) : Canon (mmaState s) := by
  unfold mmaState
  split
  · exact canon_announceStream h
  · exact h

theorem canon_popSlice (h : Canon s) : Canon (s.popSlice k) := by
  unfold State.popSlice
  dsimp only
  split
  · exact canon_modCtl (canon_modSlice h) (fun _ => rfl)
  · exact canon_post (canon_modCtl (canon_modSlice h) (fun _ => rfl))

theorem canon_lateTrap {tr : Trap} (h : Canon s) : Canon (s.lateTrap k o tr) := canon_trapLate (canon_popSlice h)

theorem canon_wpoison {ctx : Nat} {t : TileReg} (h : Canon s) : Canon (s.wpoison k ctx t) := canon_record (canon_modSlice h)

theorem canon_residue {t : TileReg} {slip : Option (Nat × Nat)} (h : Canon s) : Canon (s.residue k o t slip) := by
  unfold State.residue
  split
  · exact h
  · exact canon_record (canon_modSlice h)

theorem canon_finishProduct {p : Product} {cols : List ACol} (h : Canon s) : Canon (s.finishProduct k o p cols) := by
  unfold State.finishProduct
  generalize (s.core k).slice.accumulate p cols o.slips = y
  obtain ⟨l, f, slip⟩ := y
  dsimp only
  refine canon_residue ?_
  have hu : Canon (s.modCore k (fun c => applyAct (Machine.tierOf k) { c with slice := l } o.ctx (.orFlags f))) :=
    canon_modCore h (fun _ hc => coreCanon_applyAct (coreCanon_slice hc))
  split
  · exact canon_wpoison hu
  · exact hu

end

section
variable {s : State} {h : Hdr} (hs : Canon s)
include hs

theorem kept_sliceIssue {n : Need} {idle : Bool} {check : State → Except Trap SliceKind} : KeptBy (sliceIssue n idle check s) :=
  kept_issue hs (bodyKept_sliceBody hs hs)

theorem kept_execGang : KeptBy (execGang h s) := by
  unfold execGang
  dsimp only
  have hu : Canon (if gangFalse (gangNeed h s) s then s.post (gangDue s.cur.1 s.now) (.gangBarrierTimeout s.cur.1) else s) := by
    split
    · exact canon_post hs
    · exact hs
  exact kept_issue hu (canon_post (canon_modSlice hu))

theorem kept_execGangBarrierTimeout : KeptBy (execGangBarrierTimeout s) := by
  unfold execGangBarrierTimeout
  split
  · refine kept_next ?_
    extract_lets c here
    clear_value here
    split
    · exact hs
    · exact canon_takeTrap (canon_modSlice (canon_dropMmas hs))
  · exact trivial

theorem kept_execMma (d : TileReg) (a : Reg) (ty ty2 : Ty) (k : BitVec 14) (koff : BitVec 13) (t z : Bool) :
    KeptBy (execMma h d a ty ty2 k koff t z s) := by
  rw [execMma_eq]
  exact kept_issue hs (bodyKept_sliceBody hs (canon_mmaState hs))

theorem kept_execMwld (a b : Reg) (ty : Ty) (k : BitVec 14) (axis : Bool) : KeptBy (execMwld h a b ty k axis s) := by
  refine kept_issue hs ?_
  have hb := mwldBody_eq ty k axis a b s
  unfold mwldBody at hb
  rw [hb]
  exact bodyKept_sliceBody hs (canon_modSlice hs)

theorem kept_execMstat (d : Reg) : KeptBy (execMstat h d s) := kept_issue hs (bodyKept_done hs)

theorem kept_execSliceOpStart : KeptBy (execSliceOpStart s) := by
  unfold execSliceOpStart
  split
  · next k _ =>
    refine kept_next ?_
    have hu : Canon (s.settle k s.now) := canon_settle hs
    dsimp only
    generalize s.settle k s.now = u at hu
    have hb : Canon (u.modSlice k (fun l => l.modHead (fun o => { o with started := some u.now }))) := canon_modSlice hu
    generalize u.modSlice k (fun l => l.modHead (fun o => { o with started := some u.now })) = b at hb
    split
    · exact hu
    · split
      · refine canon_post (canon_modCore ?_ (fun _ hc => coreCanon_pendAt hc))
        split
        · split
          · exact canon_foldl hb _ (fun _ _ hs => canon_modSlice hs)
          · exact hb
        · exact hb
      · split
        · exact canon_post (canon_modCore hb (fun _ hc => coreCanon_pendAt hc))
        · exact canon_lateTrap hu
      · exact canon_post (canon_draw hb)
      · exact canon_post (canon_modCore (canon_modSlice hb) (fun _ hc => coreCanon_pendAt hc))
      · exact canon_post hb
      · split
        · exact canon_lateTrap hu
        · exact canon_post (canon_deliver hb)
      · split
        · exact canon_lateTrap hu
        · split
          · exact canon_post (canon_wpoison hb)
          · exact canon_post (canon_modCore hb (fun _ hc => coreCanon_pendAt hc))
  · exact trivial

theorem kept_execSliceOpComplete : KeptBy (execSliceOpComplete s) := by
  unfold execSliceOpComplete
  split
  · next k _ =>
    refine kept_next ?_
    have hu : Canon (s.settle k s.now) := canon_settle hs
    dsimp only
    generalize s.settle k s.now = u at hu
    split
    · exact hu
    · refine canon_popSlice ?_
      split
      · exact canon_finishProduct hu
      · exact canon_modSlice hu
      · exact canon_modCore hu (fun _ hc => coreCanon_applyAct hc)
      · exact hu
  · exact trivial

theorem kept_execMwldComplete : KeptBy (execMwldComplete s) := by
  unfold execMwldComplete
  split
  · next k _ =>
    refine kept_next ?_
    have hu : Canon (s.settle k s.now) := canon_settle hs
    dsimp only
    generalize s.settle k s.now = u at hu
    split
    · exact hu
    · split
      · exact canon_popSlice (canon_modSlice hu)
      · exact hu
  · exact trivial

end

/-! ### Gathers -/

section
variable {s u : State} {part col va n k : Nat} {ev : Event}

theorem canon_readPiece {cls : BitVec 2} {x : FarRes (List Byte)} (h : Canon s) (hr : s.readPiece part col va n cls ev = (x, u)) : Canon u :=
  h.of_outward (outward_readPiece_of rfl hr)

theorem canon_gatherPiece {x : Option (List Gathered)} (h : Canon s) (hr : s.gatherPiece part col va n ev = (x, u)) : Canon u := by
  unfold State.gatherPiece at hr
  cases hp : s.readPiece part col va n 0 ev with
  | mk y v =>
    have hv := canon_readPiece h hp
    rw [hp] at hr
    cases y with
    | wait => cases hr; exact hv
    | ok bs => cases hr; exact hv
    | fault t =>
      refine (congrArg (fun r : Option (List Gathered) × State => Canon r.2) hr).mp ?_
      refine fold_keeps (fun r : Option (List Gathered) × State => Canon r.2) _ _ _ hv (fun r i hc => ?_)
      obtain ⟨r, w⟩ := r
      cases r with
      | none => exact hc
      | some l =>
        dsimp only
        cases hq : w.readPiece part col (va + i) 1 0 ev with
        | mk y z =>
          have hz := canon_readPiece hc hq
          cases y with
          | wait => exact hz
          | ok bs => exact hz
          | fault t => exact hz

theorem canon_gatherRow {l : List (Nat × Nat)} : ∀ {s u : State} {x : Option (List Gathered)}, Canon s → s.gatherRow part col ev l = (x, u) → Canon u := by
  induction l with
  | nil =>
    intro s u x h hr
    cases hr
    exact h
  | cons e l ih =>
    intro s u x h hr
    obtain ⟨va, n⟩ := e
    rw [State.gatherRow] at hr
    cases hp : s.gatherPiece part col va n ev with
    | mk y v =>
      have hv := canon_gatherPiece h hp
      rw [hp] at hr
      dsimp only at hr
      cases hq : v.gatherRow part col ev l with
      | mk z w =>
        have hw := ih hv hq
        rw [hq] at hr
        cases hr
        exact hw

theorem canon_gather {p : Product} {base : DWord} {stride : Nat} {x : Option (List (List Gathered))} (h : Canon s)
    (hr : s.gather k p base stride ev = (x, u)) : Canon u := by
  unfold State.gather at hr
  dsimp only at hr
  refine (congrArg (fun r : Option (List (List Gathered)) × State => Canon r.2) hr).mp ?_
  refine fold_keeps (fun r : Option (List (List Gathered)) × State => Canon r.2) _ _ _ h (fun r m hc => ?_)
  exact canon_gatherRow hc rfl

theorem canon_tellMmas {o : SliceOp} {m : MsgReg} {status cb : Nat} (h : Canon s) : Canon (s.tellMmas k o m status cb) := by
  unfold State.tellMmas
  split
  · exact h
  · exact canon_fillMsg h

theorem canon_abandonOp {o : SliceOp} (h : Canon s) : Canon (s.abandonOp k o) := by
  unfold State.abandonOp
  split
  · exact canon_tellMmas (canon_modSlice h)
  · exact canon_modSlice h
  · exact h

theorem canon_abandonSlice (h : Canon s) : Canon (s.abandonSlice k) := by
  unfold State.abandonSlice
  extract_lets q gone a headGone rest b c d e
  have hb : Canon b := canon_modSlice (canon_foldl h _ (fun _ _ hs => canon_abandonOp hs))
  have he : Canon e := canon_modCtl (canon_modCore (canon_cancel (canon_cancel (canon_forget hb))) (fun _ hc => { hc with })) (fun _ => rfl)
  clear_value b e
  split
  · exact h
  · split
    · exact hb
    · split
      · exact he
      · exact canon_post he

theorem kept_execMmasComplete (hs : Canon s) : KeptBy (execMmasComplete s) := by
  unfold execMmasComplete
  split
  · next k _ =>
    refine kept_next ?_
    split
    · exact canon_post hs
    · have hu : Canon (s.settle k (s.now - 1)) := canon_settle hs
      dsimp only
      generalize s.settle k (s.now - 1) = u at hu
      split
      · exact hu
      · next o _ _ =>
        split
        · next p cb base stride m _ =>
          cases hg : u.gather k p base stride (.mmasComplete k) with
          | mk x v =>
            have hv := canon_gather hu hg
            cases x with
            | none => exact hv
            | some rows =>
              have hw := canon_finishProduct (k := k) (o := o) (p := p) (cols := gatheredColumns p ((v.forget (.mmasComplete k)).core k).ctab rows)
                (canon_forget (ev := .mmasComplete k) hv)
              dsimp only
              generalize State.finishProduct _ _ _ _ _ = w at hw ⊢
              refine canon_tellMmas (canon_popSlice ?_)
              split
              · exact hw
              · exact canon_record (canon_modSlice hw)
        · exact hu
  · exact trivial

theorem canon_imageAt {pa : Nat} {x : FarRes (Option Image)} (h : Canon s) (hr : s.imageAt part col va pa ev = (x, u)) : Canon u := by
  unfold State.imageAt at hr
  split at hr
  · cases hr
    exact h
  · next e _ =>
    cases hf : s.farRead part col va e.2.size 0 ev with
    | mk y v =>
      have hv := canon_farRead h hf
      rw [hf] at hr
      cases y with
      | wait => cases hr; exact hv
      | fault t => cases hr; exact hv
      | ok bs => cases hr; exact hv

end

end Sys2Proof.Proofs
end

section
/-! PROOFS. Lanes, fences, objects and counts of time keep the canonical form (O59). -/

namespace Sys2Proof.Proofs

open Sys2Proof.Machine Sys2Proof.Safety Sys2Proof.Laws

/-! ### Lanes -/

section
variable {s u : State} {c : Core} {k n : Nat} {o : VOp}

theorem coreCanon_applyHeld {tier : Nat} {w : Held} (h : CoreCanon c) : CoreCanon (c.applyHeld tier w) :=
  coreCanonical_iff.mp (coreCanonical_applyHeld tier w (coreCanonical_iff.mpr h))

theorem canon_mergeInto {sets : List Contribution} (h : Canon s) : Canon (s.mergeInto k sets) := by
  unfold State.mergeInto
  extract_lets a b
  refine canon_foldl (canon_settlePorts h) _ (fun s q hs => ?_)
  dsimp only
  refine canon_modCore (canon_portStore ?_) (fun _ hc => coreCanon_applyAct hc)
  split
  · exact hs
  · exact canon_correct hs

theorem canon_closeSet (h : Canon s) : Canon (s.closeSet k n) := by
  unfold State.closeSet
  dsimp only
  split
  · exact canon_post h
  · exact h

theorem canon_giveSet {ovw : Bool} {vals : List (Nat × Word)} {endT : Nat} (h : Canon s) : Canon (s.giveSet k ovw vals endT) :=
  canon_closeSet (canon_modVert (canon_modVert h))

theorem canon_loseVert (h : Canon s) : Canon (s.loseVert k o) := by
  unfold State.loseVert
  dsimp only
  split
  · exact canon_modVert (canon_modVert h)
  · exact canon_modVert h

theorem canon_launchVert (h : Canon s) : Canon (s.launchVert o) := canon_post (canon_post (canon_modVert h))

theorem canon_laneTrap (h : Canon s) : Canon (s.laneTrap k) := by
  refine canon_foldl h _ (fun s i hs => ?_)
  dsimp only
  split
  · exact canon_takeTrap hs
  · exact hs

theorem canon_finishPrlg (h : Canon s) : Canon (s.finishPrlg k o) := by
  unfold State.finishPrlg
  extract_lets c a ps b d
  have hb : Canon b := by
    show Canon (if o.ovw then a else ps.foldl (fun s p => s.correct k p.1 4) a)
    split
    · exact canon_settleUnit h
    · exact canon_corrects _ _ _ (canon_settleUnit h)
  clear_value b ps
  exact canon_modCore (canon_modCore hb (fun _ hc => coreCanon_foldl hc _ (fun _ _ hc => coreCanon_applyHeld hc))) (fun _ hc => coreCanon_applyAct hc)

end

section
variable {s : State} {h : Hdr} (hs : Canon s)
include hs

theorem bodyKept_rstrBody {d : WsReg} {a b : Reg} {ovw self : Bool} : BodyKept (rstrBody d a b ovw self s) := by
  refine bodyKept_bind (fun ds _ => ?_)
  split
  · exact trivial
  · split
    · exact canon_laneTrap hs
    · split
      · exact trivial
      · dsimp only
        refine bodyKept_ok ?_
        split
        · exact canon_corrects _ _ _ (canon_launchVert hs)
        · exact canon_giveSet (canon_corrects _ _ _ (canon_launchVert hs))

theorem kept_execRstr (d : WsReg) (a b : Reg) (ty : Ty) (ovw self : Bool) : KeptBy (execRstr h d a b ty ovw self s) := by
  unfold execRstr
  extract_lets n
  have hu : Canon (if countsFalse n self s then s.giveSet s.cur.1 ovw [] (ceilTo Config.ticksPerBeat s.now) else s) := by
    split
    · exact canon_giveSet hs
    · exact hs
  exact kept_issue hu (bodyKept_rstrBody hu)

theorem bodyKept_prlgBody {d : WsReg} {a b : Reg} {ovw self : Bool} : BodyKept (prlgBody d a b ovw self s) := by
  refine bodyKept_bind (fun ds _ => ?_)
  generalize (if ovw = true then none else badFine (s.core s.cur.1) ds) = bad
  cases bad with
  | some w => exact trivial
  | none =>
    dsimp only
    split
    · exact canon_laneTrap hs
    · split
      · exact trivial
      · exact canon_launchVert hs

theorem kept_execWsld (d : WsReg) (a : Reg) : KeptBy (execWsld h d a s) :=
  kept_issue hs (bodyKept_bind (fun _ _ => bodyKept_bind (fun _ _ => bodyKept_done hs)))

theorem kept_execVerticalOpStart : KeptBy (execVerticalOpStart s) := by
  unfold execVerticalOpStart
  split
  · refine kept_next ?_
    split
    · exact hs
    · split
      · exact canon_laneTrap (canon_loseVert hs)
      · split
        · exact hs
        · exact canon_modVert (canon_corrects _ _ _ (canon_settle hs))
  · exact trivial

theorem kept_execVerticalOpEnd : KeptBy (execVerticalOpEnd s) := by
  unfold execVerticalOpEnd
  split
  · next k _ =>
    refine kept_next ?_
    split
    · exact hs
    · split
      · exact canon_post hs
      · have hu : Canon (s.modVert k (fun v => { v with ops := v.ops.filter (fun x => x.endT != s.now) })) := canon_modVert hs
        dsimp only
        generalize s.modVert k (fun v => { v with ops := v.ops.filter (fun x => x.endT != s.now) }) = u at hu
        split
        · exact hu
        · split
          · split
            · exact canon_mergeInto (canon_modCore hu (fun _ hc => coreCanon_applyAct hc))
            · exact canon_modCore hu (fun _ hc => coreCanon_applyAct hc)
          · exact canon_finishPrlg hu
  · exact trivial

theorem kept_execRstrMerge : KeptBy (execRstrMerge s) := by
  unfold execRstrMerge
  split
  · refine kept_next ?_
    extract_lets sets due
    clear_value due
    split
    · exact hs
    · exact canon_mergeInto (canon_modVert hs)
  · exact trivial

theorem kept_execLaneStateChange : KeptBy (execLaneStateChange s) := by
  unfold execLaneStateChange
  split
  · refine kept_next ?_
    split
    · exact hs
    · split
      · refine canon_post ?_
        split
        · exact hs
        · exact canon_loseVert hs
      · split
        · exact canon_post hs
        · exact canon_modCol (canon_modDev hs rfl)
  · exact trivial

/-! ### Fences and objects -/

theorem kept_fence {scope : Scope} {p1 p2 : Path} : KeptBy (fence h scope p1 p2 s) := by
  refine kept_issue hs ?_
  split
  · exact hs
  · refine bodyKept_ok ?_
    split
    · exact canon_leaveFence hs
    · exact hs

theorem kept_execBind (a b : Reg) (scope : Scope) (n : BitVec 30) : KeptBy (execBind h a b scope n s) := by
  refine kept_issue hs ?_
  dsimp only
  split
  · exact trivial
  · split
    · exact trivial
    · split
      · exact trivial
      · split
        · exact trivial
        · exact canon_modCtx (q := s.cur) hs (fun _ hx => { hx with })

end

section
variable {s u : State} {q : Nat × Nat} {num : Nat} {obj : DWord} {rel run : Bool} {ev : Event}

theorem canon_objectAccess {x : FarRes DWord} (h : Canon s) (hr : s.objectAccess q obj rel run ev = (x, u)) : Canon u := by
  unfold State.objectAccess at hr
  extract_lets col home a v r at hr
  have hv : Canon v := by
    show Canon (if rel = true ∨ run = true then s else s.settle home s.now)
    split
    · exact h
    · exact canon_settle h
  clear_value v a home col r
  split at hr
  · split at hr
    · cases hr
      exact hv
    · split at hr
      · cases hr
        exact canon_correct hv
      · split at hr
        · next hp =>
          cases hr
          exact canon_portAdd hv hp
        · cases hr
          exact canon_post hv
  · split at hr
    · next hf =>
      cases hr
      exact canon_farRmw h hf
    · exact canon_farRmw h hr

theorem canon_objectEnd {r : FarRes DWord} (h : Canon s) : Canon (s.objectEnd q num obj r) := by
  unfold State.objectEnd
  split
  · exact canon_answer h
  · exact canon_answerTrap h
  · exact h

theorem canon_performSc {o : ScOp} (h : Canon s) : Canon (s.performSc o) := by
  unfold State.performSc
  split
  · next r _ =>
    split
    · next home _ =>
      cases hr : s.performRmw home r with
      | mk res v =>
        have hv : Canon (v.watch home (r.addr / 8)) := canon_watch (canon_performRmw h hr)
        cases res with
        | ok w => exact canon_answer hv
        | error tr => exact canon_answerTrap hv
    · cases hr : s.farRmw (s.partOf o.who.1) (columnOf o.who.1) r (.deviceAtomicReply r) with
      | mk res v =>
        have hv := canon_farRmw h hr
        cases res with
        | ok w => exact canon_answer (canon_forget hv)
        | fault t => exact canon_answerTrap (canon_forget hv)
        | wait => exact hv
  · exact canon_addUnit h
  · next obj rel _ =>
    dsimp only
    generalize Event.objectReply o.who.1 o.who.2 o.num obj rel (s.part (s.partOf o.who.1)).epoch = ev
    cases hr : s.objectAccess o.who obj rel true ev with
    | mk res v =>
      have hv := canon_objectAccess h hr
      cases res with
      | wait => exact hv
      | ok w => exact canon_objectEnd (canon_forget hv)
      | fault t => exact canon_objectEnd (canon_forget hv)

theorem canon_recount {old : Nat} (h : Canon s) : Canon (s.recount q old) := by
  unfold State.recount
  dsimp only
  split
  · exact canon_post (canon_modCtx (canon_cancel h) (fun _ hx => { hx with }))
  · exact canon_post (canon_modCtx (canon_cancel h) (fun _ hx => { hx with }))
  · exact h

end

section
variable {s : State} {h : Hdr} (hs : Canon s)
include hs

theorem kept_execObjectReply : KeptBy (execObjectReply s) := by
  unfold execObjectReply
  split
  · next k c num obj rel epoch _ =>
    refine kept_next ?_
    extract_lets ev at_
    clear_value at_
    split
    · exact hs
    · split
      · exact canon_post hs
      · split
        · exact canon_putOff hs
        · split
          · exact canon_post hs
          · cases hr : s.objectAccess (k, c) obj rel false ev with
            | mk res v =>
              have hv := canon_objectAccess hs hr
              cases res with
              | wait => exact hv
              | ok w => exact canon_objectEnd (canon_forget hv)
              | fault t => exact canon_objectEnd (canon_forget hv)
  · exact trivial

theorem kept_objectIssue {rel : Bool} {d a : Reg} {sc : Bool} : KeptBy (objectIssue rel h d a sc s) := by
  unfold objectIssue
  extract_lets obj own
  refine kept_issue hs ?_
  dsimp only
  split
  · exact trivial
  · split
    · exact canon_issueSc (canon_number hs)
    · exact canon_post (canon_draw (canon_number hs))

theorem kept_execScDelivery : KeptBy (execScDelivery s) := by
  unfold execScDelivery
  split
  · refine kept_next ?_
    dsimp only
    refine canon_foldl ?_ _ (fun _ _ hs => canon_performSc hs)
    exact hs.of_parts rfl rfl
  · exact trivial

/-! ### Counts of time -/

theorem kept_execSleep (a : Reg) : KeptBy (execSleep h a s) := kept_issue hs (bodyKept_bind (fun _ _ => canon_post hs))

theorem kept_execTwait (d a : Reg) (b : MsgReg) : KeptBy (execTwait h d a b s) := by
  refine kept_issue hs (bodyKept_bind (fun r _ => ?_))
  dsimp only
  split
  · exact bodyKept_done hs
  · split
    · exact bodyKept_done hs
    · exact canon_post hs

theorem kept_execSleepExpiry : KeptBy (execSleepExpiry s) := by
  unfold execSleepExpiry
  split
  · refine kept_next ?_
    split
    · exact canon_finish hs
    · exact hs
  · exact trivial

theorem kept_execTwaitExpiry : KeptBy (execTwaitExpiry s) := by
  unfold execTwaitExpiry
  split
  · refine kept_next ?_
    split
    · exact canon_finish hs
    · exact hs
  · exact trivial

end

end Sys2Proof.Proofs
end

section
/-! PROOFS. Supersteps, their release, stop, replay and pre-emption keep the canonical form (O59). -/

namespace Sys2Proof.Proofs

open Sys2Proof.Machine Sys2Proof.Safety Sys2Proof.Laws

section
variable {s u : State} {c : Core} {x : Ctx} {k kid ph t : Nat} {kn : Kernel} {sp : Superstep}

theorem CoreCanon.of_parts {d : Core} (h : CoreCanon c) (hp : (d.near, d.poison, d.store, d.ctxs) = (c.near, c.poison, c.store, c.ctxs))
    (hk : ckptCanonical d.ctl.ckpt = true) : CoreCanon d := by
  obtain ⟨hn, hpo, hst, hx⟩ : d.near = c.near ∧ d.poison = c.poison ∧ d.store = c.store ∧ d.ctxs = c.ctxs := by simpa using hp
  exact ⟨hn ▸ h.near, hpo ▸ h.poison, hst ▸ h.store, hx ▸ h.ctxs, hx ▸ h.each, hk⟩

theorem canon_seeStamps {part : Nat} {ev : Event} {a b : Bool} (h : Canon s) (hr : s.seeStamps part sp ev = (a, b, u)) : Canon u := by
  unfold State.seeStamps at hr
  refine (congrArg (fun r : Bool × Bool × State => Canon r.2.2) hr).mp ?_
  refine fold_keeps (fun r : Bool × Bool × State => Canon r.2.2) _ _ _ h (fun r e hc => ?_)
  split
  · exact hc
  · exact hc
  · cases hf : r.2.2.farRead part (r.2.2.homeCol part) (nbits e.1.toNat 56 0) 8 0 ev with
    | mk y v =>
      have hv := canon_farRead hc hf
      cases y with
      | ok bs => exact hv
      | fault t => exact hv
      | wait => exact hv

theorem canon_toHeader (h : Canon s) : Canon (s.toHeader k) := by
  unfold State.toHeader
  split
  · exact canon_modCtx h (fun _ hx => { hx with })
  · exact h

theorem canon_abandonExpansion {gone : Nat → Bool} (h : Canon s) : Canon (s.abandonExpansion k gone) := by
  unfold State.abandonExpansion
  extract_lets q headGone rest a b d e
  have hb : Canon b := by
    refine canon_foldl (canon_modXu h) _ (fun s i hs => ?_)
    split
    · exact canon_modCtx hs (fun _ hx => { hx with })
    · exact canon_modCtx hs (fun _ hx => { hx with })
    · exact hs
  have he : Canon e := canon_modCtl (canon_cancel (canon_cancel hb)) (fun _ => rfl)
  clear_value b e
  split
  · exact hb
  · split
    · exact he
    · exact canon_post he

theorem canon_freezeCore (h : Canon s) : Canon (s.freezeCore k) := canon_abandonExpansion (canon_abandonSlice (canon_modCtl h (fun _ => rfl)))

theorem canon_postReleases {cols : List Nat} (h : Canon s) : Canon (s.postReleases kid ph t cols) := canon_foldl h _ (fun _ _ hs => canon_post hs)

theorem canon_startPhase (h : Canon s) : Canon (s.startPhase sp ph k) := by
  unfold State.startPhase
  split
  · exact h
  · extract_lets at_ len slaved active first a b
    refine canon_post (canon_modCtl (canon_modCore h (fun c hc => ?_)) (fun _ => rfl))
    have hx := hc.ctx 0
    dsimp only
    generalize c.ctx 0 = x at hx
    refine CoreCanon.of_parts (coreCanon_setCtx (i := 0) hc (x := { x with
      pc := BitVec.ofNat 32 first, run := if active then .running else .atHeader, sig := 0, sigEnd := none }) { hx with }) rfl ?_
    dsimp only
    split
    · exact hx.g
    · exact hc.ckpt

theorem canon_releasePhase {cols : List Nat} (h : Canon s) : Canon (s.releasePhase kid kn sp ph cols) := by
  unfold State.releasePhase
  extract_lets a
  have ha : Canon a := by
    show Canon (if kn.stage = .waiting then kn.cores.foldl (fun s k => s.modCtl k (fun c => { c with skip := true })) s else s)
    split
    · exact canon_foldl h _ (fun _ _ hs => canon_modCtl hs (fun _ => rfl))
    · exact h
  clear_value a
  refine canon_foldl ha _ (fun s col hs => ?_)
  exact canon_post (canon_modKernel (canon_foldl hs _ (fun _ _ hs => canon_startPhase hs)))

theorem canon_tryRelease {col : Nat} {cols : List Nat} (h : Canon s) : Canon (s.tryRelease kid kn sp ph col cols) := by
  unfold State.tryRelease
  extract_lets p since a
  have ha : Canon a := canon_releasePhase h
  clear_value a p
  split
  · split
    · exact canon_post ha
    · exact ha
  · exact canon_post (canon_modKernel h)

theorem canon_endSuperstep (h : Canon s) : Canon (s.endSuperstep kid kn) := by
  unfold State.endSuperstep
  extract_lets last frozen a b d
  have hb : Canon b := by
    refine canon_foldl (canon_modKernel h) _ (fun s k hs => canon_serve (canon_modCore hs (fun c hc => ?_)))
    dsimp only
    split
    · exact CoreCanon.of_parts (coreCanon_modCtx (i := 0) (f := fun x => { x with run := .halted }) hc (fun _ hx => { hx with })) rfl rfl
    · exact hc.of_parts rfl rfl
  have hd : Canon d := canon_post hb
  clear_value b d last
  split
  · split
    · exact canon_post hd
    · exact hd
  · split
    · exact canon_post hb
    · exact canon_postReleases hb
    · exact canon_post hb

theorem canon_dropSets (h : Canon s) : Canon (s.dropSets k) := by
  unfold State.dropSets
  dsimp only
  split
  · exact canon_modVert (canon_modVert h)
  · exact canon_modVert h

/-- A context put back to a checkpoint in the form. -/
theorem ctxCanon_restore {ck : Checkpoint} (h : CtxCanon x) (hk : swf 0 ck.g = true) : CtxCanon (x.restore ck) := { h with g := hk }

theorem canon_rewindCore (h : Canon s) : Canon (s.rewindCore k) := by
  unfold State.rewindCore
  extract_lets u c sHead xHead a b d
  have hu : Canon u := canon_settle h
  split
  · next ck _ hck =>
    have hg : swf 0 ck.g = true := by
      have := (hu.core k).ckpt
      rw [hck] at this
      exact this
    extract_lets e f g
    have hb : Canon b := by
      show Canon (if sHead then ((a.cancel (.sliceOpStart k)).cancel (.sliceOpComplete k)).cancel (.mwldComplete k) else a)
      split
      · exact hu.of_parts rfl rfl
      · exact hu.of_parts rfl rfl
    have hd : Canon d := by
      show Canon (if xHead then (b.cancel (.expansionOpStart k)).cancel (.expansionOpEnd k) else b)
      split
      · exact canon_cancel (canon_cancel hb)
      · exact hb
    have he : Canon e := by
      refine canon_modCore hd (fun c hc => ?_)
      exact CoreCanon.of_parts
        (coreCanon_modCtx (i := 0) (f := fun x => { x.restore ck with run := .atHeader }) hc (fun x hx => { ctxCanon_restore hx hg with })) rfl rfl
    have hf : Canon f := canon_dropGiven he
    have hg : Canon g := by
      show Canon (if sHead && !(f.core k).slice.queue.isEmpty then f.post f.now (.sliceOpStart k) else f)
      split
      · exact canon_post hf
      · exact hf
    clear_value g sHead xHead
    split
    · exact canon_post hg
    · exact hg
  · exact canon_modCtl hu (fun _ => rfl)

theorem canon_freezeGroup {sub : Nat} (h : Canon s) : Canon (s.freezeGroup kid kn sub) :=
  canon_foldl (canon_modKernel h) _ (fun _ _ hs => canon_offer (canon_freezeCore hs))

theorem swf_putWords (l : List (Word × Bool)) : ∀ {st : Sparse (Word × Bool)} {i : Nat}, swf (0, false) st = true → swf (0, false) (putWords st i l) = true := by
  induction l with
  | nil => exact fun h => h
  | cons w l ih => exact fun h => ih (swf_sset _ _ h)

theorem canon_putStream {l : Load} (h : Canon s) : Canon (s.putStream kn l k) := by
  have hput (n : Nat) : Canon (s.modCore k (fun c => { c with store := putWords c.store l.base (l.stream n) })) :=
    canon_modCore h (fun _ hc => { hc with store := swf_putWords _ hc.store })
  unfold State.putStream
  split
  · split
    · exact hput _
    · exact h
  · exact hput _

theorem canon_loadCode (h : Canon s) : Canon (s.loadCode kn) := by
  refine fold_keeps (fun r : State × List (Nat × Nat) => Canon r.1) _ _ _ h (fun r b hc => ?_)
  unfold State.bootStep
  dsimp only
  split
  · exact hc
  · exact canon_foldl hc _ (fun _ _ hs => canon_putStream hs)

theorem canon_switchProfile {prof : Nat × DWord} (h : Canon s) : Canon (s.switchProfile kid kn prof) := by
  unfold State.switchProfile
  split
  · exact h
  · refine canon_foldl (canon_loadCode (canon_modKernel h)) _ (fun s k hs => ?_)
    split
    · exact canon_modCtx hs (fun _ hx => { hx with })
    · exact hs

theorem canon_refuseKernel {status : BitVec 16} (h : Canon s) : Canon (s.refuseKernel kid status) :=
  canon_post (canon_modKernel (canon_modCores (canon_dropGiven h) (fun _ _ hc => coreCanon_stopKernel hc)))

theorem canon_orphanStores {q : Nat × Nat} (h : Canon s) : Canon (s.orphanStores q) :=
  canon_modCtx (canon_modFabric (h.of_parts rfl rfl)) (fun _ hx => { hx with })

end

section
variable {s : State} (hs : Canon s)
include hs

theorem kept_execReleaseNotice : KeptBy (execReleaseNotice s) := by
  unfold execReleaseNotice
  split
  · next kid _ =>
    refine kept_next ?_
    split
    · exact hs
    · next kn _ =>
      extract_lets between last
      clear_value last
      split
      · exact hs
      · next sp _ =>
        split
        · exact hs
        · cases hr : s.seeStamps kn.part sp (.releaseNotice kid) with
          | mk met y =>
            obtain ⟨asked, u⟩ := y
            have hu := canon_seeStamps hs hr
            dsimp only
            split
            · exact hu
            · split
              · refine canon_post ?_
                split
                · exact hu
                · exact canon_forget hu
              · have hv {t : Nat} : Canon (kn.cores.foldl (fun s k => s.freezeCore k)
                    ((u.forget (.releaseNotice kid)).modKernel kid (fun k => { k with notice := some t }))) :=
                  canon_foldl (canon_modKernel (canon_forget hu)) _ (fun _ _ hs => canon_freezeCore hs)
                split
                · exact canon_postReleases hv
                · exact hv
  · exact trivial

theorem kept_execPhaseRelease : KeptBy (execPhaseRelease s) := by
  unfold execPhaseRelease
  split
  · next kid col ph _ =>
    refine kept_next ?_
    split
    · exact hs
    · next kn _ =>
      split
      · exact hs
      · next sp _ =>
        have hagain : Canon (s.post (s.now + beatTicks) (.phaseRelease kid col ph)) := canon_post hs
        extract_lets again turn ended ready a illegal b
        have ha : Canon a := by
          show Canon (if ph = 0 then (kn.columnCores col).foldl (fun s k => s.toHeader k) s else s)
          split
          · exact canon_foldl hs _ (fun _ _ hs => canon_toHeader hs)
          · exact hs
        have hb : Canon b := by
          show Canon (if ph = 0 then kn.cores.foldl (fun s k => s.toHeader k) a else a)
          split
          · exact canon_foldl ha _ (fun _ _ hs => canon_toHeader hs)
          · exact ha
        clear_value b ready illegal a ended turn
        split
        · exact hs
        · split
          · split
            · exact canon_endSuperstep hs
            · exact hs
          · split
            · exact hagain
            · split
              · exact ha
              · split
                · exact canon_post (canon_foldl ha _ (fun _ _ hs => canon_takeTrap hs))
                · split
                  · split
                    · exact canon_tryRelease ha
                    · exact hagain
                  · split
                    · exact canon_tryRelease hb
                    · exact ha
  · exact trivial

theorem kept_execPhaseEnd : KeptBy (execPhaseEnd s) := by
  unfold execPhaseEnd
  split
  · next k _ =>
    refine kept_next ?_
    extract_lets u c
    have hu : Canon u := canon_settle hs
    clear_value u c
    split
    · exact hu
    · split
      · exact hu
      · split
        · exact canon_takeTrap hu
        · split
          · exact canon_trapAtFetch hu
          · split
            · exact canon_takeTrap (canon_dropSets hu)
            · split
              · split
                · exact canon_takeTrap hu
                · exact canon_modCore hu (fun c hc => coreCanon_ctl (coreCanon_modCtx hc (fun _ hx => { hx with })) rfl)
              · exact hu
  · exact trivial

theorem canon_drawIn {lo hi : Nat} : Canon (s.drawIn lo hi).2 := hs.of_parts rfl rfl

theorem kept_execStop : KeptBy (execStop s) := by
  unfold execStop
  split
  · refine kept_next ?_
    split
    · exact hs
    · refine canon_post (canon_drawIn (lo := 4) (hi := 15) (canon_foldl hs _ (fun _ _ hs => ?_)))
      exact canon_modCtl hs (fun _ => rfl)
  · exact trivial

theorem kept_execGroupHalt : KeptBy (execGroupHalt s) := by
  unfold execGroupHalt
  split
  · next kid _ =>
    refine kept_next ?_
    split
    · exact hs
    · next kn _ =>
      split
      · exact canon_post hs
      · extract_lets a b
        have hb : Canon b := canon_modKernel (canon_foldl hs _ (fun _ _ hs => canon_rewindCore hs))
        clear_value b
        split
        · exact canon_freezeGroup hb
        · split
          · exact canon_post (canon_foldl (canon_modKernel hb) _ (fun _ _ hs => canon_serve hs))
          · split
            · exact canon_fatalRec hb
            · split
              · exact canon_refuseKernel (canon_record hb)
              · exact canon_post (canon_foldl (canon_modKernel (canon_switchProfile hb)) _ (fun _ _ hs => canon_serve hs))
  · exact trivial

theorem kept_execPreempt : KeptBy (execPreempt s) := by
  unfold execPreempt
  split
  · next kid freeze _ =>
    refine kept_next ?_
    split
    · exact hs
    · extract_lets a
      have ha : Canon a := canon_modKernel hs
      clear_value a
      split
      · split
        · exact canon_modKernel ha
        · exact ha
      · split
        · exact ha
        · exact canon_post (canon_modKernel (canon_drawIn (lo := 1) (hi := 16) ha))
      · split
        · exact ha
        · exact canon_freezeGroup ha
      · split
        · exact canon_freezeGroup ha
        · exact ha
      · exact ha
  · exact trivial

theorem kept_execResumeRequest : KeptBy (execResumeRequest s) := by
  unfold execResumeRequest
  split
  · next kid _ =>
    refine kept_next ?_
    split
    · exact hs
    · next kn _ =>
      extract_lets more a b d e
      have hd : Canon d := canon_foldl (canon_loadCode (canon_modKernel hs)) _ (fun _ _ hs => canon_post (canon_modCol hs))
      have he : Canon e := by
        refine canon_foldl hd _ (fun s k hs => ?_)
        refine canon_offer (canon_modCore (canon_foldl hs _ (fun s i hs => ?_)) (fun c hc => ?_))
        · split
          · exact hs
          · exact canon_orphanStores hs
        · have hfold {c : Core} (hc : CoreCanon c) : CoreCanon (kn.image.loads.foldl (fun c l =>
              if l.ctx ≠ 0 ∧ (l.cores kn).contains k then c.modCtx l.ctx (fun x => { x with kernel := some kid }) else c) c) := by
            refine coreCanon_foldl hc _ (fun c l hc => ?_)
            split
            · exact coreCanon_modCtx hc (fun _ hx => { hx with })
            · exact hc
          extract_lets x y
          have hx : CoreCanon x := coreCanon_modCtx hc (fun _ hx => { hx with })
          have hy : CoreCanon y := hfold hx
          exact hy.of_parts rfl hy.ckpt
      clear_value e more
      split
      · exact canon_post he
      · exact he
  · exact trivial

theorem kept_execThermDelivery : KeptBy (execThermDelivery s) := by
  unfold execThermDelivery
  split
  · exact canon_offer hs
  · exact trivial

end

end Sys2Proof.Proofs
end

section
/-! PROOFS. Launches and the gaffer's references keep the canonical form (O59). -/

namespace Sys2Proof.Proofs

open Sys2Proof.Machine Sys2Proof.Safety Sys2Proof.Laws

section
variable {s u : State} {c : Core} {k kid part col : Nat} {kn : Kernel} {q : Nat × Nat} {ev : Event}

theorem canon_readBinds (n : Nat) : ∀ {s u : State} {va : Nat} {x : FarRes (Option (List (Binding × Nat)))}, Canon s →
    s.readBinds part col ev n va = (x, u) → Canon u := by
  induction n with
  | zero =>
    intro s u va x h hr
    cases hr
    exact h
  | succ n ih =>
    intro s u va x h hr
    rw [State.readBinds] at hr
    cases hf : s.farRead part col va 32 0 ev with
    | mk y v =>
      have hv := canon_farRead h hf
      rw [hf] at hr
      cases y with
      | wait => cases hr; exact hv
      | fault t => cases hr; exact hv
      | ok bs =>
        dsimp only at hr
        split at hr
        · cases hr; exact hv
        · cases hr; exact hv
        · split at hr
          · next hn =>
            cases hr
            exact ih hv hn
          · exact ih hv hr

theorem canon_readSched (n : Nat) : ∀ {s u : State} {i va : Nat} {x : FarRes (Option (List (Nat × Cmd × Nat × Scope)))}, Canon s →
    s.readSched part col ev n i va = (x, u) → Canon u := by
  induction n with
  | zero =>
    intro s u i va x h hr
    cases hr
    exact h
  | succ n ih =>
    intro s u i va x h hr
    rw [State.readSched] at hr
    cases hf : s.farRead part col va 32 0 ev with
    | mk y v =>
      have hv := canon_farRead h hf
      rw [hf] at hr
      cases y with
      | wait => cases hr; exact hv
      | fault t => cases hr; exact hv
      | ok bs =>
        dsimp only at hr
        split at hr
        · cases hr; exact hv
        · split at hr
          · next hn =>
            cases hr
            exact ih hv hn
          · exact ih hv hr

theorem canon_readScheds {l : List (Nat × Nat)} : ∀ {s u : State} {va : Nat} {x : FarRes (Option (List (Nat × List (Nat × Cmd × Nat × Scope))))},
    Canon s → s.readScheds part col ev l va = (x, u) → Canon u := by
  induction l with
  | nil =>
    intro s u va x h hr
    cases hr
    exact h
  | cons e l ih =>
    intro s u va x h hr
    obtain ⟨c, n⟩ := e
    rw [State.readScheds] at hr
    cases hf : s.readSched part col ev n 0 va with
    | mk y v =>
      have hv := canon_readSched n h hf
      rw [hf] at hr
      cases y with
      | wait => cases hr; exact hv
      | fault t => cases hr; exact hv
      | ok m =>
        cases m with
        | none => cases hr; exact hv
        | some m =>
          dsimp only at hr
          split at hr
          · next hn =>
            cases hr
            exact ih hv hn
          · exact ih hv hr

theorem canon_resetContext (h : Canon s) : Canon (s.resetContext q) := by
  refine canon_modCore (canon_orphanStores (canon_dropReplies h)) (fun c hc => ?_)
  exact coreCanon_setCtx (coreCanon_haltCtx { hc with }) ctxCanon_reset

theorem canon_loadContext {entry : Word} (h : Canon s) : Canon (s.loadContext kid q entry) := by
  unfold State.loadContext
  extract_lets a b mark
  have hb : Canon b := canon_modCtx (canon_resetContext h) (fun _ hx => { hx with })
  clear_value b mark
  split
  · exact canon_modCtx hb (fun _ hx => { hx with })
  · exact hb

theorem canon_clearCore (h : Canon s) : Canon (s.clearCore kid k) := by
  unfold State.clearCore
  extract_lets a
  have ha : Canon a := canon_foldl h [0, 1, 2, 3] (fun _ _ hs => canon_resetContext hs)
  exact canon_modCore ha (fun c hc => hc.of_parts rfl rfl)

theorem coreCanon_writeData {data : List (Nat × Byte)} (h : CoreCanon c) : CoreCanon (c.writeData data) := by
  have hp : CoreCanon (data.foldl (fun c e => c.portWrite e.1 [e.2]) c) := coreCanon_foldl h _ (fun _ _ hc => coreCanon_portWrite hc)
  exact { hp with poison := swf_filter _ hp.poison }

theorem canon_loadRole {l : Load} (h : Canon s) : Canon (s.loadRole kid kn l) :=
  canon_foldl h _ (fun _ _ hs => canon_loadContext (canon_modCore hs (fun _ hc => coreCanon_writeData hc)))

theorem canon_installBinds {binds : List (Binding × Nat)} (h : Canon s) : Canon (s.installBinds kn binds) :=
  canon_foldl h _ (fun s _ hs => canon_foldl (s := s) hs [1, 2, 3] (fun _ _ hs => canon_modCtx hs (fun _ hx => { hx with })))

theorem canon_backPoint {level point team : Nat} {members : List (Nat × Nat)} (h : Canon s) : Canon (s.backPoint kid kn level point team members) := by
  unfold State.backPoint
  dsimp only
  split
  · exact canon_modKernel (canon_foldl h _ (fun _ _ hs => canon_modLine hs))
  · exact canon_modKernel h

theorem canon_backPoints (h : Canon s) : Canon (s.backPoints kid kn) := by
  refine canon_foldl h _ (fun s lv hs => canon_foldl hs _ (fun s p hs => ?_))
  split
  · exact canon_foldl hs _ (fun _ _ hs => canon_backPoint hs)
  · exact hs

theorem canon_unbackPoints (h : Canon s) : Canon (s.unbackPoints kid kn) := by
  refine canon_foldl h _ (fun s l hs => ?_)
  split
  · exact canon_freeLine hs
  · exact hs

theorem canon_launch {binds : List (Binding × Nat)} {scheds : List (Nat × List (Nat × Cmd × Nat × Scope))} (h : Canon s) :
    Canon (s.launch kn binds scheds).2 := by
  unfold State.launch
  extract_lets kid gaf a b d e f g i j l
  have hb : Canon b := canon_setKernel (i := kid) (k := some kn) (s := a) (h.of_parts rfl rfl)
  have hd : Canon d := canon_foldl hb _ (fun _ _ hs => canon_clearCore hs)
  have he : Canon e := canon_loadCode hd
  have hf : Canon f := canon_installBinds (canon_foldl he _ (fun _ _ hs => canon_loadRole hs))
  have hg : Canon g := canon_foldl hf _ (fun _ _ hs => canon_modCol hs)
  have hi : Canon i := canon_foldl hg _ (fun _ _ hs => canon_post hs)
  have hl : Canon l := canon_modPart (canon_backPoints hi)
  clear_value l
  dsimp only
  split
  · exact canon_post hl
  · exact canon_post hl

/-! ### The gaffer's words and nodes -/

theorem canon_gafRead {va n : Nat} {x : FarRes (List Byte)} (h : Canon s) (hr : s.gafRead part va n ev = (x, u)) : Canon u := canon_farRead h hr

theorem canon_readRef {r : DWord} {x : FarRes Nat} (h : Canon s) (hr : s.readRef part r ev = (x, u)) : Canon u := by
  unfold State.readRef at hr
  extract_lets k a v at hr
  have hv : Canon v := canon_settle h
  clear_value v k a
  split at hr
  · split at hr
    · cases hr; exact hv
    · cases hr; exact hv
  · cases hf : s.gafRead part r.toNat 8 ev with
    | mk y w =>
      have hw := canon_gafRead h hf
      rw [hf] at hr
      cases y with
      | ok bs => cases hr; exact hw
      | fault t => cases hr; exact hw
      | wait => cases hr; exact hw

theorem canon_writeRef {w : Writer} {r : DWord} {v : Nat} {x : FarRes Unit} (h : Canon s) (hr : s.writeRef w part r v ev = (x, u)) : Canon u := by
  unfold State.writeRef at hr
  split at hr
  · cases hr
    exact canon_portStore h
  · exact canon_farWrite h hr

section
variable {task : Nat} {n : NodeRun} {loops : List LoopFrame} {code : BitVec 16}

theorem canon_later (h : Canon s) : Canon (s.later ev) := canon_post (canon_draw (lo := 1) h)

theorem canon_dropNode (h : Canon s) : Canon (s.dropNode task n) := canon_modTask h

theorem canon_failTask (h : Canon s) : Canon (s.failTask task loops code) := canon_later (canon_modTask h)

theorem canon_failNode (h : Canon s) : Canon (s.failNode task n code) := canon_failTask (canon_dropNode h)

theorem canon_cutNode (h : Canon s) : Canon (s.cutNode task n) := canon_later (canon_modTask (canon_dropNode h))

theorem canon_setWord {v : Option Nat} (h : Canon s) : Canon (s.setWord task n v) := canon_modTask h

theorem canon_goNode {next : Nat} (h : Canon s) : Canon (s.goNode task n next) := canon_later (canon_dropNode h)

theorem canon_startedNode (h : Canon s) : Canon (s.startedNode task n) := by
  unfold State.startedNode
  split
  · exact canon_later h
  · exact h

theorem canon_atNode {addr : Nat} {f : Task → NodeRun → State} (h : Canon s) (hf : ∀ t n, Canon (f t n)) : Canon (s.atNode task addr loops f) := by
  unfold State.atNode
  split
  · exact h
  · split
    · exact h
    · exact hf _ _

theorem canon_readWord {x : FarRes Nat} (h : Canon s) (hr : s.readWord part n ev = (x, u)) : Canon u := by
  unfold State.readWord at hr
  split at hr
  · cases hr; exact h
  · exact canon_readRef h hr

theorem canon_laterNear {r : DWord} (h : Canon s) : Canon (s.laterNear r ev) := canon_post (canon_draw (lo := 1) h)

/-- What a SIGNAL does at its far word. The place is hidden from the kernel, which would evaluate it. -/
theorem canon_signalWord {f : State → Nat → BitVec 512 → Event → FarRes Bool × State} (hf : f = State.signalWord) {w : BitVec 512}
    {x : FarRes Bool} (h : Canon s) (hr : f s part w ev = (x, u)) : Canon u := by
  delta State.signalWord at hf
  obtain ⟨place, hplace⟩ : ∃ f : Dev → Nat → Place, Dev.place = f := ⟨_, rfl⟩
  rw [hplace] at hf
  rw [hf] at hr
  beta_reduce at hr
  extract_lets r add v col req rmw at hr
  have hrmw {y : State} {x : FarRes Bool} (hy : Canon y) (ha : rmw y = (x, u)) : Canon u := by
    dsimp only [rmw] at ha
    split at ha
    · next hq =>
      cases ha
      exact canon_farRmw hy hq
    · next hq =>
      cases ha
      exact canon_farRmw hy hq
    · next hq =>
      cases ha
      exact canon_farRmw hy hq
  clear_value rmw req add v col r
  split at hr
  · exact hrmw h hr
  · cases ht : s.translate part col r.toNat true with
    | mk y z =>
      have hz := canon_translate h ht
      rw [ht] at hr
      cases y with
      | error t => cases hr; exact hz
      | ok pa =>
        dsimp only at hr
        split at hr
        · split at hr
          · split at hr
            · cases hr
              exact canon_writePhys (canon_number hz)
            · cases hr
              exact canon_number hz
          · cases hr
            exact canon_writePhys hz
        · exact hrmw hz hr

theorem canon_endSignal {ok : Bool} (h : Canon s) : Canon (s.endSignal task n ok) := by
  unfold State.endSignal
  split
  · exact canon_failNode h
  · split
    · exact canon_later (canon_dropNode h)
    · exact canon_goNode h

theorem canon_waitOver (h : Canon s) : Canon (s.waitOver task n) := by
  unfold State.waitOver
  split
  · exact canon_later (canon_dropNode h)
  · exact canon_goNode h

theorem canon_engineNode {t : Task} (h : Canon s) : Canon (s.engineNode task t n ev) := by
  unfold State.engineNode
  extract_lets col
  split
  · exact canon_cutNode h
  · split
    · exact canon_failNode h
    · cases hf : s.gafRead t.part (dw n.words 2).toNat 64 ev with
      | mk y v =>
        have hv := canon_forget (ev := ev) (canon_gafRead h hf)
        cases y with
        | wait => exact canon_gafRead h hf
        | fault t => exact canon_failNode hv
        | ok bs =>
          dsimp only
          generalize (cmdIll _ _ 0 || _ || _) = bad
          split
          · exact canon_failNode hv
          · split
            · exact canon_post hv
            · exact canon_startedNode (canon_putCommand (hv.of_parts rfl rfl))

end
end

end Sys2Proof.Proofs
end

section
/-! PROOFS. The gaffer's own steps keep the canonical form (O59). -/

namespace Sys2Proof.Proofs

open Sys2Proof.Machine Sys2Proof.Safety Sys2Proof.Laws

section
variable {s u : State} {k kid part : Nat} {kn : Kernel} {ev : Event}

/-- The parts of a record. The bound on a table's entries is hidden from the kernel, which would count to it. -/
theorem canon_launchParts_of {f : State → Nat → Launch → Event → FarRes (Option (List (Binding × Nat) × List (Nat × List (Nat × Cmd × Nat × Scope)))) × State}
    (hf : f = State.launchParts) {l : Launch} {x : FarRes (Option (List (Binding × Nat) × List (Nat × List (Nat × Cmd × Nat × Scope))))}
    (h : Canon s) (hr : f s part l ev = (x, u)) : Canon u := by
  delta State.launchParts at hf
  obtain ⟨n, hn⟩ : ∃ n, 8 * 65536 + 1 = n := ⟨_, rfl⟩
  rw [hn] at hf
  rw [hf] at hr
  beta_reduce at hr
  extract_lets col counts at hr
  clear_value counts col
  cases hb : (if l.binds = 0 then (FarRes.ok (some []), s)
      else if !addrOk 64 (BitVec.ofNat 64 l.binds) then (.ok none, s)
      else s.readBinds part col ev n l.binds) with
  | mk b v =>
    have hv : Canon v := by
      split at hb
      · cases hb; exact h
      · split at hb
        · cases hb; exact h
        · exact canon_readBinds n h hb
    rw [hb] at hr
    cases b with
    | wait => cases hr; exact hv
    | fault t => cases hr; exact hv
    | ok m =>
      cases m with
      | none => cases hr; exact hv
      | some binds =>
        dsimp only at hr
        split at hr
        · cases hr; exact hv
        · cases he : (if l.sched = 0 then (FarRes.ok (some []), v) else v.readScheds part col ev counts l.sched) with
          | mk e w =>
            have hw : Canon w := by
              split at he
              · cases he; exact hv
              · exact canon_readScheds hv he
            rw [he] at hr
            cases e with
            | wait => cases hr; exact hw
            | fault t => cases hr; exact hw
            | ok m =>
              cases m with
              | none => cases hr; exact hw
              | some sc => cases hr; exact hw

theorem canon_launchParts {l : Launch} {x : FarRes (Option (List (Binding × Nat) × List (Nat × List (Nat × Cmd × Nat × Scope))))}
    (h : Canon s) (hr : s.launchParts part l ev = (x, u)) : Canon u := canon_launchParts_of rfl h hr

theorem canon_lookKernel (h : Canon s) : Canon (s.lookKernel kid kn) := by
  unfold State.lookKernel
  split
  · exact canon_post h
  · exact h

theorem canon_endOfKernel {status : Option (BitVec 16)} (h : Canon s) : Canon (s.endOfKernel kid kn status) := by
  refine canon_post (canon_nodeEnds (canon_setKernel (canon_foldl (canon_unbackPoints h) _ (fun s k hs => canon_modCore hs (fun c hc => ?_)))))
  have hfold : CoreCanon ([0, 1, 2, 3].foldl (fun (c : Core) i =>
      if (c.ctx i).kernel = some kid then c.modCtx i (fun x => { x with kernel := none }) else c) c) := by
    refine coreCanon_foldl hc _ (fun c i hc => ?_)
    split
    · exact coreCanon_modCtx hc (fun _ hx => { hx with })
    · exact hc
  dsimp only
  split
  · exact coreCanon_ctl hfold rfl
  · exact hfold

theorem canon_see {va n : Nat} {x : FarRes (Option Nat)} (h : Canon s) (hr : s.see part va n ev = (x, u)) : Canon u := by
  unfold State.see at hr
  split at hr
  · cases hr; exact h
  · cases hf : s.gafRead part va n ev with
    | mk y v =>
      have hv := canon_gafRead h hf
      rw [hf] at hr
      cases y with
      | ok bs => cases hr; exact hv
      | fault t => cases hr; exact hv
      | wait => cases hr; exact hv

theorem canon_readHead {i : Nat} {x : Option QueueHead} (h : Canon s) (hr : s.readHead part ev i = (x, u)) : Canon u := by
  unfold State.readHead at hr
  dsimp only at hr
  generalize (s.part part).queue i = q at hr
  split at hr
  · next e v hse =>
    have hv := canon_see h hse
    split at hr
    · cases hr; exact hv
    · split at hr
      · next y w hsw =>
        have hw := canon_see hv hsw
        split at hr
        · cases hr; exact hw
        · split at hr
          · next hsz =>
            cases hr
            exact canon_see hw hsz
          · next hsz =>
            cases hr
            exact canon_see hw hsz
      · next hsw =>
        cases hr
        exact canon_see hv hsw
      · next hsw =>
        cases hr
        exact canon_see hv hsw
  · next hse =>
    cases hr
    exact canon_see h hse
  · next hse =>
    cases hr
    exact canon_see h hse

theorem canon_heads {l : List QueueHead} {b : Bool} (h : Canon s) (hr : s.heads part ev = (l, b, u)) : Canon u := by
  unfold State.heads at hr
  refine (congrArg (fun r : List QueueHead × Bool × State => Canon r.2.2) hr).mp ?_
  refine fold_keeps (fun r : List QueueHead × Bool × State => Canon r.2.2) _ _ _ h (fun r i hc => ?_)
  cases hq : r.2.2.readHead part ev i with
  | mk x v =>
    have hv := canon_readHead hc hq
    cases x with
    | none => exact hv
    | some y => exact hv

theorem canon_spend {h : QueueHead} (hs : Canon s) : Canon (s.spend ev h) := canon_modFabric hs

theorem canon_preemptions {heads : List QueueHead} (h : Canon s) : Canon (s.preemptions part heads) := by
  refine canon_foldl h _ (fun s hd hs => ?_)
  split
  · exact hs
  · split
    · exact hs
    · split
      · exact hs
      · refine canon_foldl hs _ (fun s e hs => ?_)
        split
        · split
          · exact canon_post hs
          · exact hs
        · exact hs

theorem canon_resumptions {heads : List QueueHead} (h : Canon s) : Canon (s.resumptions part heads) := by
  refine canon_foldl h _ (fun s e hs => ?_)
  split
  · dsimp only
    generalize heads.any _ = wanted
    split
    · exact canon_post (canon_modKernel hs)
    · exact hs
  · exact hs

theorem canon_startTask {i : Nat} {q : Queue} {entry : Option Nat} (h : Canon s) : Canon (s.startTask part i q entry) := by
  unfold State.startTask
  extract_lets prio a id gaf b
  have ha : Canon a := canon_modPart h
  split
  · exact ha
  · extract_lets good d
    have hd : Canon d := canon_setTask (s := b) (ha.of_parts rfl rfl)
    clear_value d good
    split
    · exact canon_later hd
    · exact canon_later hd

end

section
variable {s : State} (hs : Canon s)
include hs

theorem kept_execNodeSuccessor : KeptBy (execNodeSuccessor s) := by
  unfold execNodeSuccessor
  split
  · next task addr loops _ =>
    refine kept_next ?_
    split
    · exact hs
    · next t _ =>
      dsimp only
      split
      · exact canon_later (canon_modTask hs)
      · split
        · split
          · exact canon_later (canon_modTask hs)
          · exact canon_later hs
        · split
          · exact canon_failTask hs
          · split
            · exact canon_post hs
            · cases hf : s.gafRead t.part addr 64 (.nodeSuccessor task addr loops) with
              | mk y v =>
                have hv := canon_forget (ev := .nodeSuccessor task addr loops) (canon_gafRead hs hf)
                cases y with
                | wait => exact canon_gafRead hs hf
                | fault t => exact canon_failTask hv
                | ok bs =>
                  dsimp only
                  split
                  · exact canon_failTask hv
                  · refine canon_later ?_
                    split
                    · split
                      · exact canon_startedNode (canon_modTask hv)
                      · exact canon_post (canon_startedNode (canon_modTask hv))
                    · exact canon_modTask hv
  · exact trivial

theorem kept_execNodeCond : KeptBy (execNodeCond s) := by
  unfold execNodeCond
  split
  · next task addr loops _ =>
    refine kept_next (canon_atNode hs (fun t n => ?_))
    dsimp only
    split
    · exact canon_cutNode hs
    · cases hf : s.readRef t.part (dw n.words 2) (.nodeCond task addr loops) with
      | mk y v =>
        have hv := canon_readRef hs hf
        cases y with
        | wait => exact hv
        | fault t => exact canon_failNode (canon_forget hv)
        | ok m => exact canon_goNode (canon_forget hv)
  · exact trivial

theorem kept_execNodeSwitch : KeptBy (execNodeSwitch s) := by
  unfold execNodeSwitch
  split
  · next task addr loops _ =>
    refine kept_next (canon_atNode hs (fun t n => ?_))
    dsimp only
    split
    · exact canon_cutNode hs
    · cases hf : s.readWord t.part n (.nodeSwitch task addr loops) with
      | mk y v =>
        have hv := canon_readWord hs hf
        cases y with
        | wait => exact hv
        | fault t => exact canon_failNode (canon_forget hv)
        | ok m =>
          dsimp only
          split
          · exact canon_goNode (canon_forget hv)
          · cases hg : v.gafRead t.part ((dw n.words 5).toNat + 8 * (BitVec.ofNat 64 m &&& dw n.words 3).toNat) 8 (.nodeSwitch task addr loops) with
            | mk z w =>
              have hw := canon_gafRead hv hg
              cases z with
              | wait => exact canon_setWord hw
              | fault t => exact canon_failNode (canon_forget hw)
              | ok bs => exact canon_goNode (canon_forget hw)
  · exact trivial

theorem kept_execNodeLoop : KeptBy (execNodeLoop s) := by
  unfold execNodeLoop
  split
  · next task addr loops _ =>
    refine kept_next (canon_atNode hs (fun t n => ?_))
    dsimp only
    split
    · exact canon_cutNode hs
    · cases hf : s.readWord t.part n (.nodeLoop task addr loops) with
      | mk y v =>
        have hv := canon_readWord hs hf
        cases y with
        | wait => exact hv
        | fault t => exact canon_failNode (canon_forget hv)
        | ok m =>
          dsimp only
          split
          · split
            · exact canon_failNode (canon_forget hv)
            · exact canon_later (canon_forget hv)
          · split
            · exact canon_goNode (canon_forget hv)
            · split
              · exact canon_laterNear (canon_setWord (canon_forget hv))
              · cases hg : v.writeRef .other t.part (dw n.words 7) (loops.headD ⟨0, 0⟩).iter (.nodeLoop task addr loops) with
                | mk z w =>
                  have hw := canon_writeRef hv hg
                  cases z with
                  | wait => exact canon_setWord hw
                  | fault t => exact canon_failNode (canon_forget hw)
                  | ok bs => exact canon_goNode (canon_forget hw)
  · exact trivial

theorem kept_execNodeSignal : KeptBy (execNodeSignal s) := by
  unfold execNodeSignal
  split
  · next task addr loops _ =>
    refine kept_next (canon_atNode hs (fun t n => ?_))
    extract_lets ev a
    have ha : Canon a := by
      show Canon (if n.word.isNone then (s.startedNode task n).setWord task n (some 0) else s)
      split
      · exact canon_setWord (canon_startedNode hs)
      · exact hs
    clear_value a
    split
    · exact canon_laterNear ha
    · cases hf : a.signalWord t.part n.words ev with
      | mk y v =>
        have hv := canon_signalWord rfl ha hf
        cases y with
        | wait => exact hv
        | fault t => exact canon_later (canon_forget hv)
        | ok m => exact canon_later (canon_forget hv)
  · exact trivial

theorem kept_execSignalComplete : KeptBy (execSignalComplete s) := by
  unfold execSignalComplete
  split
  · next task addr loops ok _ =>
    refine kept_next (canon_atNode hs (fun t n => ?_))
    split
    · exact canon_endSignal hs
    · next r reads f _ =>
      extract_lets k a v
      have hv : Canon v := canon_settle hs
      clear_value v k a
      split
      · exact canon_endSignal hv
      · split
        · exact canon_post hv
        · next hp => exact canon_endSignal (canon_portSet hv hp)
  · exact trivial

theorem kept_execNodeWait : KeptBy (execNodeWait s) := by
  unfold execNodeWait
  split
  · next task addr loops since _ =>
    refine kept_next (canon_atNode hs (fun t n => ?_))
    dsimp only
    cases hf : s.readRef t.part (dw n.words 2) (.nodeWait task addr loops since) with
    | mk y v =>
      have hv := canon_forget (ev := .nodeWait task addr loops since) (canon_readRef hs hf)
      cases y with
      | wait => exact canon_readRef hs hf
      | fault t => exact canon_failNode hv
      | ok m =>
        dsimp only
        split
        · exact canon_cutNode hv
        · split
          · exact canon_waitOver hv
          · split
            · exact canon_failNode hv
            · exact canon_later hv
  · exact trivial

theorem kept_execWaitTimeout : KeptBy (execWaitTimeout s) := by
  unfold execWaitTimeout
  split
  · refine kept_next ?_
    split
    · exact hs
    · refine canon_atNode hs (fun t n => ?_)
      split
      · exact hs
      · split
        · exact canon_post hs
        · exact canon_failNode (canon_cancel hs)
  · exact trivial

theorem kept_execNodeCopy : KeptBy (execNodeCopy s) := by
  unfold execNodeCopy
  split
  · exact canon_atNode hs (fun t n => canon_engineNode hs)
  · exact trivial

theorem kept_execNodeInstall : KeptBy (execNodeInstall s) := by
  unfold execNodeInstall
  split
  · exact canon_atNode hs (fun t n => canon_engineNode hs)
  · exact trivial

theorem kept_execKernelComplete : KeptBy (execKernelComplete s) := by
  unfold execKernelComplete
  split
  · next kid _ =>
    refine kept_next ?_
    split
    · exact hs
    · next kn _ =>
      split
      · exact canon_endOfKernel hs
      · split
        · split
          · exact canon_endOfKernel hs
          · exact canon_lookKernel hs
        · split
          · exact hs
          · dsimp only
            exact canon_post (canon_foldl (canon_foldl (canon_modKernel hs) _ (fun _ _ hs => canon_modCol hs)) _ (fun _ _ hs => canon_modCtl hs (fun _ => rfl)))
        · exact hs
  · exact trivial

theorem kept_execTaskStampWrite : KeptBy (execTaskStampWrite s) := by
  unfold execTaskStampWrite
  split
  · next task _ =>
    refine kept_next ?_
    split
    · exact hs
    · next t _ =>
      have hrest {v : State} (hv : Canon v) : Canon (((v.forget (.taskStampWrite task)).setTask task none).post
          ((v.forget (.taskStampWrite task)).setTask task none).now (.taskStart t.part)) := canon_post (canon_setTask (canon_forget hv))
      dsimp only
      generalize t.seq.toNat + (t.status.getD 0).toNat * 2 ^ 48 = w
      split
      · exact hs
      · split
        · split
          · exact canon_post hs
          · exact hrest hs
        · split
          · exact hrest hs
          · cases hf : s.writeRef (.task task) t.part t.stamp w (.taskStampWrite task) with
            | mk y v =>
              have hv := canon_writeRef hs hf
              have hend : Canon (if t.stamp.getLsbD 63 then
                  (v.modTask task (fun t => { t with stamped := true })).post
                    ((v.modTask task (fun t => { t with stamped := true })).now + cyc (nbits t.stamp.toNat 62 48)) (.taskStampWrite task)
                  else ((v.forget (.taskStampWrite task)).setTask task none).post
                    ((v.forget (.taskStampWrite task)).setTask task none).now (.taskStart t.part)) := by
                split
                · exact canon_post (canon_modTask hv)
                · exact hrest hv
              cases y with
              | wait => exact hv
              | fault e => exact hend
              | ok m => exact hend
  · exact trivial

theorem kept_execTaskStart : KeptBy (execTaskStart s) := by
  unfold execTaskStart
  split
  · next part _ =>
    refine kept_next ?_
    dsimp only
    cases hh : s.heads part (.taskStart part) with
    | mk heads y =>
      obtain ⟨asked, v⟩ := y
      have hw : Canon ((v.resumptions part heads).preemptions part heads) := canon_preemptions (canon_resumptions (canon_heads hs hh))
      dsimp only
      generalize (v.resumptions part heads).preemptions part heads = w at hw
      have hrest {z : State} (hz : Canon z) : Canon (if asked = true then z else z.forget (.taskStart part)) := by
        split
        · exact hz
        · exact canon_forget hz
      split
      · have hr := hrest hw
        generalize (if asked = true then w else w.forget (.taskStart part)) = r at hr
        split
        · exact canon_post hr
        · exact hr
      · next hd _ =>
        cases hf : w.gafRead part hd.queue.headAddr 64 (.taskStart part) with
        | mk x z =>
          have hz := canon_gafRead hw hf
          cases x with
          | wait => exact hz
          | fault e => exact canon_later (canon_startTask (canon_spend (hrest hz)))
          | ok bs =>
            refine canon_later ?_
            have hr := canon_spend (ev := .taskStart part) (h := hd) (hrest hz)
            generalize State.spend _ _ hd = r at hr
            split
            · exact canon_startTask hr
            · exact hr
  · exact trivial

/-- A kernel starts from its image, once its record has been read and the image's address is known. -/
theorem canon_imageStart {task pa : Nat} {t : Task} {n m : NodeRun} {l : Launch} {binds : List (Binding × Nat)}
    {scheds : List (Nat × List (Nat × Cmd × Nat × Scope))} {ev : Event} : Canon (
    match (s.setWord task m (some pa)).imageAt t.part ((s.setWord task m (some pa)).homeCol t.part) l.image pa ev with
    | (.wait, s) => s
    | (.fault _, s) => (s.forget ev).failNode task n nodeFault
    | (.ok im, s) =>
      let bindBad := match im with
        | some im => !bindsOk binds im l.cols l.tiers
        | none => false
      let code := if bindBad then nodeBad else s.launchCheck t.part l im
      match code, im with
      | 0, some im =>
        if (s.holder t.part l.cols l.tiers).isSome then s.post (s.now + beatTicks) ev
        else
          let prio := (sget .reset (s.part t.part).queues t.queue).prio.toNat
          ((s.forget ev).launch (s.newKernel task t n l im prio) binds scheds).2.startedNode task n
      | c, _ => (s.forget ev).failNode task n c) := by
  cases hi : (s.setWord task m (some pa)).imageAt t.part ((s.setWord task m (some pa)).homeCol t.part) l.image pa ev with
  | mk im z =>
    have hz := canon_imageAt (canon_setWord hs) hi
    cases im with
    | wait => exact hz
    | fault e => exact canon_failNode (canon_forget hz)
    | ok im =>
      clear hi
      have hlast (code : BitVec 16) : Canon (match code, im with
          | 0, some im =>
            if (z.holder t.part l.cols l.tiers).isSome then z.post (z.now + beatTicks) ev
            else
              ((z.forget ev).launch (z.newKernel task t n l im (sget .reset (z.part t.part).queues t.queue).prio.toNat) binds scheds).2.startedNode
                task n
          | c, _ => (z.forget ev).failNode task n c) := by
        split
        · split
          · exact canon_post hz
          · exact canon_startedNode (canon_launch (canon_forget hz))
        · exact canon_failNode (canon_forget hz)
      exact hlast _

theorem kept_execNodeKernel : KeptBy (execNodeKernel s) := by
  unfold execNodeKernel
  split
  · next task addr loops _ =>
    refine kept_next (canon_atNode hs (fun t n => ?_))
    have hfail {v : State} (hv : Canon v) (n : NodeRun) (code : BitVec 16) :
        Canon ((v.forget (.nodeKernel task addr loops)).failNode task n code) := canon_failNode (canon_forget hv)
    extract_lets ev fail
    split
    · exact canon_cutNode hs
    · cases hf : s.gafRead t.part (dw n.words 2).toNat 256 ev with
      | mk y v =>
        have hv := canon_gafRead hs hf
        cases y with
        | wait => exact hv
        | fault e => exact hfail hv _ _
        | ok bs =>
          dsimp only
          split
          · exact hfail hv _ _
          · cases hp : v.launchParts t.part (Launch.ofNat (leNat bs)) ev with
            | mk z w =>
              have hw := canon_launchParts hv hp
              cases z with
              | wait => exact hw
              | fault e => exact hfail hw _ _
              | ok m =>
                cases m with
                | none => exact hfail hw _ _
                | some m =>
                  obtain ⟨binds, scheds⟩ := m
                  cases n.word with
                  | some pa => exact canon_imageStart hw
                  | none =>
                    dsimp only
                    cases ht : w.translate t.part (w.homeCol t.part) (Launch.ofNat (leNat bs)).image false with
                    | mk place x =>
                      have hx := canon_translate hw ht
                      cases place with
                      | error e => exact hfail hx _ _
                      | ok pa => exact canon_imageStart hx
  · exact trivial

end

end Sys2Proof.Proofs
end

section
/-! PROOFS. The beat, heat, power and the fabric keep the canonical form (O59). -/

namespace Sys2Proof.Proofs

open Sys2Proof.Machine Sys2Proof.Safety Sys2Proof.Laws

/-! ### The beat, heat and power -/

section
variable {s u : State} {part col tier : Nat} {v : DWord}

theorem canon_modPower {f : Power → Power} (h : Canon s) : Canon (s.modPower f) := canon_modDev h rfl

theorem canon_modBudget {f : State → State} (hf : Canon (f s)) : Canon (s.modBudget f) := by
  unfold State.modBudget
  dsimp only
  split
  · exact hf
  · exact canon_modPower hf

theorem canon_aimBeat (h : Canon s) : Canon s.aimBeat := by
  unfold State.aimBeat
  extract_lets p goal a most d
  have ha : Canon a := canon_modPower (canon_cancel h)
  clear_value a goal d
  generalize (if p.busy = true then p.target else p.cur) = code
  split
  · exact h
  · split
    · refine canon_post ?_
      exact ha.of_parts rfl rfl
    · exact canon_post ha

theorem canon_hostWrite {f : State → State} (h : Canon s) (hf : Canon (f s)) : Canon (s.hostWrite f) := by
  unfold State.hostWrite
  split
  · exact hf
  · exact h

theorem canon_partWrite {f : State → State} (h : Canon s) (hf : Canon (f s)) : Canon (s.partWrite part f) := by
  refine canon_hostWrite h ?_
  split
  · exact h
  · exact hf

theorem canon_writeBeatctl (h : Canon s) : Canon (s.writeBeatctl v) := canon_aimBeat (canon_modBudget (canon_modPower h))

theorem canon_restoreCeil (h : Canon s) : Canon s.restoreCeil := by
  unfold State.restoreCeil
  split
  · exact h
  · exact canon_aimBeat (canon_modPower h)

theorem canon_lowerCeil (h : Canon s) : Canon s.lowerCeil := canon_aimBeat (canon_modPower h)

theorem canon_tripBeat (h : Canon s) : Canon s.tripBeat := by
  unfold State.tripBeat
  split
  · exact h
  · exact canon_post (canon_modPower (canon_cancel h))

theorem canon_checkTherm (h : Canon s) : Canon (s.checkTherm col tier) := by
  unfold State.checkTherm
  extract_lets p t key stands a u b
  have hb : Canon b := canon_post (canon_modPower h)
  clear_value b t stands
  split
  · split
    · exact hb
    · exact canon_post hb
  · split
    · exact canon_modPower h
    · exact h

theorem canon_writeTctl (h : Canon s) : Canon (s.writeTctl v) := canon_modPower h

theorem canon_writePcap (h : Canon s) : Canon (s.writePcap v) := by
  refine canon_modBudget ?_
  extract_lets cap scale sum a scaled b
  have ha : Canon a := canon_modPower h
  have hb : Canon b := canon_modPower ha
  clear_value a b cap sum
  split
  · exact canon_modPower ha
  · split
    · exact canon_modPower ha
    · exact canon_foldl hb _ (fun _ _ hs => canon_modPart hs)

theorem canon_writePfloor (h : Canon s) : Canon (s.writePfloor part v) := by
  refine canon_modBudget ?_
  extract_lets f a b
  have hb : Canon b := canon_modPower (canon_modPart h)
  clear_value b f
  split
  · exact canon_modPower h
  · exact canon_foldl hb _ (fun _ _ hs => canon_modPart hs)

theorem canon_writeHlim (h : Canon s) : Canon (s.writeHlim v) := canon_modPower h

theorem canon_writeIbudget (h : Canon s) : Canon (s.writeIbudget part v) := by
  unfold State.writeIbudget
  dsimp only
  split
  · exact h
  · exact canon_modPart h

end

section
variable {s : State} (hs : Canon s)
include hs

theorem kept_execBeatChange : KeptBy (execBeatChange s) := by
  unfold execBeatChange
  split
  · refine kept_next ?_
    extract_lets old a b new moved d e
    have ha : Canon a := hs.of_parts rfl rfl
    have hb : Canon b := canon_modBudget (canon_modPower ha)
    have hd : Canon d := hb.of_parts rfl rfl
    have he : Canon e := canon_foldl hd _ (fun _ _ hs => canon_post hs)
    exact canon_foldl he _ (fun s _ hs => canon_foldl (s := s) hs [0, 1, 2, 3] (fun _ _ hs => canon_recount hs))
  · exact trivial

theorem kept_execBeatctlReqWrite : KeptBy (execBeatctlReqWrite s) := by
  unfold execBeatctlReqWrite
  split
  · exact canon_hostWrite hs (canon_writeBeatctl hs)
  · exact trivial

theorem kept_execBeatctlRestore : KeptBy (execBeatctlRestore s) := by
  unfold execBeatctlRestore
  split
  · exact canon_hostWrite hs (canon_restoreCeil hs)
  · exact trivial

theorem kept_execSensorSample : KeptBy (execSensorSample s) := by
  unfold execSensorSample
  split
  · refine kept_next ?_
    extract_lets a b u d
    have ha : Canon a := by
      refine canon_modPower ?_
      exact hs.of_parts rfl rfl
    have hb : Canon b := canon_foldl ha _ (fun _ _ hs => canon_checkTherm hs)
    have hd : Canon d := by
      show Canon (if b.agenda.any (fun e => (match e.ev with | .sensorSample _ => true | _ => false) && decide (e.at_ ≤ u)) then b
        else b.post u (.sensorSample []))
      split
      · exact hb
      · exact canon_post hb
    clear_value d
    split
    · exact canon_tripBeat hd
    · exact hd
  · exact trivial

theorem kept_execSelfThrottleStep : KeptBy (execSelfThrottleStep s) := by
  unfold execSelfThrottleStep
  split
  · refine kept_next ?_
    extract_lets u
    clear_value u
    split
    · exact hs
    · split
      · exact canon_lowerCeil hs
      · exact canon_post (canon_lowerCeil hs)
  · exact trivial

theorem kept_execTctlWrite : KeptBy (execTctlWrite s) := by
  unfold execTctlWrite
  split
  · exact canon_hostWrite hs (canon_writeTctl hs)
  · exact trivial

theorem kept_execPcapWrite : KeptBy (execPcapWrite s) := by
  unfold execPcapWrite
  split
  · exact canon_hostWrite hs (canon_writePcap hs)
  · exact trivial

theorem kept_execPfloorWrite : KeptBy (execPfloorWrite s) := by
  unfold execPfloorWrite
  split
  · exact canon_partWrite hs (canon_writePfloor hs)
  · exact trivial

theorem kept_execHlimWrite : KeptBy (execHlimWrite s) := by
  unfold execHlimWrite
  split
  · exact canon_hostWrite hs (canon_writeHlim hs)
  · exact trivial

theorem kept_execHardLimitStep : KeptBy (execHardLimitStep s) := by
  unfold execHardLimitStep
  split
  · refine kept_next ?_
    extract_lets above a u n d
    have ha : Canon a := canon_modPower hs
    have hd : Canon d := by
      refine canon_lowerCeil ?_
      exact ha.of_parts rfl rfl
    clear_value d u above
    split
    · exact ha
    · split
      · exact canon_lowerCeil ha
      · exact canon_post hd
  · exact trivial

theorem kept_execIbudgetWrite : KeptBy (execIbudgetWrite s) := by
  unfold execIbudgetWrite
  split
  · exact canon_partWrite hs (canon_writeIbudget hs)
  · exact trivial

theorem kept_execBudgetRefill : KeptBy (execBudgetRefill s) := by
  unfold execBudgetRefill
  split
  · refine kept_next ?_
    extract_lets a b
    have hb : Canon b := canon_modDev (canon_foldl hs _ (fun _ _ hs => canon_modPart hs)) rfl
    clear_value b
    split
    · exact canon_post hs
    · exact canon_post hb
  · exact trivial

end

/-! ### The fabric -/

section
variable {s u : State} {k part col n : Nat} {x : Flit}

theorem canon_modPort {f : Port → Port} (h : Canon s) : Canon (s.modPort k f) := canon_modDev h rfl

theorem canon_countAt {f : Port → Port} (h : Canon s) : Canon (s.countAt k f) := by
  unfold State.countAt
  split
  · exact canon_modPort h
  · exact h

theorem canon_respond {bs : List Byte} (h : Canon s) : Canon (s.respond x bs) := h.of_outward (outward_of_sentless (sentless_respond s x bs))

theorem canon_refuseLost (h : Canon s) : Canon (s.refuseLost x) := h.of_outward (outward_of_sentless (sentless_sendFlit s _))

theorem canon_routeFlit {b : Bool} (h : Canon s) (hr : s.routeFlit k x = (b, u)) : Canon u := by
  have hs := outward_of_sentless (sentless_routeFlit s k x)
  rw [hr] at hs
  exact h.of_outward hs

theorem canon_emit {p : Nat} (h : Canon s) : Canon (s.emit k p x) := h.of_outward (outward_of_sentless (sentless_emit s k p x))

/-- A peer's request served. The place is hidden from the kernel, which would evaluate it. -/
theorem canon_serveRequest_of {f : State → Nat → Flit → State} (hf : f = State.serveRequest) (h : Canon s) : Canon (f s part x) := by
  delta State.serveRequest at hf
  obtain ⟨place, hplace⟩ : ∃ f : Dev → Nat → Place, Dev.place = f := ⟨_, rfl⟩
  obtain ⟨phys, hphys⟩ : ∃ f : State → Nat → Nat → Bool → Option (BitVec 8), State.physOk = f := ⟨_, rfl⟩
  rw [hplace, hphys] at hf
  rw [hf]
  beta_reduce
  extract_lets write n refuse far
  clear_value far n
  split
  · exact canon_respond h
  · split
    · exact canon_respond h
    · exact canon_respond h
    · split
      · cases hr : s.readPhys x.pa n with
        | mk y v =>
          have hv := canon_readPhys h hr
          cases y with
          | ok bs => exact canon_respond hv
          | error t => exact canon_respond hv
      · split
        · exact canon_respond (canon_writePhys h)
        · split
          · exact canon_respond h
          · exact canon_respond (canon_writePhys (canon_number h))

theorem canon_answerReq {r : PeerReq} {data : List Byte} {t : BitVec 8} (h : Canon s) : Canon (s.answerReq r data t) := canon_post (canon_modFabric h)

theorem canon_takeLost (h : Canon s) : Canon (s.takeLost x) := by
  unfold State.takeLost
  dsimp only
  split
  · exact h
  · exact canon_answerReq h

theorem canon_takeResponse (h : Canon s) : Canon (s.takeResponse part x) := by
  unfold State.takeResponse
  split
  · exact canon_takeLost h
  · split
    · exact h
    · split
      · exact h
      · split
        · exact canon_answerReq h
        · split
          · exact canon_answerReq h
          · exact canon_answerReq h

theorem canon_deliverFlit (h : Canon s) : Canon (s.deliverFlit x) := by
  unfold State.deliverFlit
  split
  · exact h
  · split
    · exact canon_takeResponse h
    · split
      · exact canon_respond h
      · split
        · exact canon_serveRequest_of rfl h
        · exact h

theorem canon_modFlow {f : RxFlow → RxFlow} (h : Canon s) : Canon (s.modFlow k f) := canon_modFabric h

theorem canon_drainFlow (n : Nat) : ∀ {s : State}, Canon s → Canon (s.drainFlow k n) := by
  induction n with
  | zero => exact fun h => h
  | succ n ih =>
    intro s h
    unfold State.drainFlow
    dsimp only
    split
    · exact h
    · exact ih (canon_deliverFlit (canon_modFlow h))

theorem canon_takeOrdered (h : Canon s) : Canon (s.takeOrdered x) := by
  unfold State.takeOrdered
  dsimp only
  split
  · exact h
  · exact canon_drainFlow _ (canon_modFlow h)

theorem canon_writeRoute {bank : Bool} {dest : Nat} {v : Word} (h : Canon s) : Canon (s.writeRoute bank dest v) := by
  unfold State.writeRoute
  split
  · exact h
  · exact canon_modFabric h

theorem canon_writeSwap (h : Canon s) : Canon s.writeSwap := by
  unfold State.writeSwap
  split
  · exact h
  · exact canon_post (canon_draw (lo := 1) (canon_modFabric h))

theorem canon_clearPstat (h : Canon s) : Canon (s.clearPstat k) := canon_modPort h

theorem canon_releasePort (h : Canon s) : Canon (s.releasePort k) := by
  unfold State.releasePort
  dsimp only
  split
  · exact h
  · exact canon_foldl (canon_modPort h) _ (fun _ _ hs => canon_modPort hs)

theorem canon_noticeInto {m : Notice} {p : Nat} (h : Canon s) : Canon (s.noticeInto m p) := by
  unfold State.noticeInto
  dsimp only
  split
  · exact canon_forget h
  · split
    · exact canon_post h
    · cases hr : s.ringWrite p (s.homeCol p) (s.part p).nt (noticeBytes m) 0 (noticeStep p m) with
      | mk y v =>
        have hv := canon_ringWrite h hr
        cases y with
        | none => exact hv
        | some r => exact canon_modPart (canon_forget hv)

theorem canon_takeNotice {m : Notice} {port : Nat} (h : Canon s) : Canon (s.takeNotice m port) := by
  unfold State.takeNotice
  split
  · exact h
  · exact canon_foldl (canon_foldl (canon_modFabric h) _ (fun _ _ hs => canon_noticeInto hs)) _ (fun _ _ hs => canon_emit hs)

theorem canon_ownNotice {port : Nat} {e : LinkChange} (h : Canon s) : Canon (s.ownNotice port e) := canon_takeNotice (canon_modFabric h)

theorem canon_loseRequests (h : Canon s) : Canon s.loseRequests := canon_foldl h _ (fun _ _ hs => canon_answerReq hs)

end

section
variable {s : State} (hs : Canon s)
include hs

theorem kept_execDrainMarker : KeptBy (execDrainMarker s) := by
  unfold execDrainMarker
  split
  · exact canon_post (canon_modFlow hs)
  · exact trivial

theorem kept_execFlowLossTimeout : KeptBy (execFlowLossTimeout s) := by
  unfold execFlowLossTimeout
  split
  · next cls src fseq _ =>
    refine kept_next ?_
    extract_lets key w gone kept missing a
    split
    · exact hs
    · extract_lets b lost d e
      have ha : Canon a := by
        dsimp only [a]
        split
        · exact canon_foldl hs _ (fun _ _ hs => canon_deliverFlit hs)
        · exact hs
      have hd : Canon d := canon_foldl (canon_modFlow ha) _ (fun _ _ hs => canon_answerReq hs)
      have he : Canon e := by
        dsimp only [e]
        split
        · exact canon_foldl hd _ (fun _ _ hs => canon_refuseLost hs)
        · exact hd
      exact canon_drainFlow _ he
  · exact trivial

theorem kept_execRoutingEntryWrite : KeptBy (execRoutingEntryWrite s) := by
  unfold execRoutingEntryWrite
  split
  · exact canon_hostWrite hs (canon_writeRoute hs)
  · exact trivial

theorem kept_execSwap : KeptBy (execSwap s) := by
  unfold execSwap
  split
  · exact canon_hostWrite hs (canon_writeSwap hs)
  · exact trivial

theorem kept_execRouteBankSwap : KeptBy (execRouteBankSwap s) := by
  unfold execRouteBankSwap
  split
  · exact canon_modFabric hs
  · exact trivial

theorem kept_execPstatClr : KeptBy (execPstatClr s) := by
  unfold execPstatClr
  split
  · exact canon_hostWrite hs (canon_clearPstat hs)
  · exact trivial

theorem kept_execFlitReceive : KeptBy (execFlitReceive s) := by
  unfold execFlitReceive
  split
  · next port x _ =>
    refine kept_next ?_
    extract_lets fb a
    have ha : Canon a := by
      dsimp only [a]
      split
      · exact hs
      · exact canon_countAt hs
    clear_value a
    split
    · exact canon_countAt hs
    · split
      · exact canon_countAt hs
      · split
        · split
          · exact canon_takeNotice hs
          · exact canon_countAt hs
        · split
          · cases hr : s.routeFlit port x with
            | mk b v =>
              have hv := canon_routeFlit hs hr
              cases b with
              | true => exact hv
              | false =>
                dsimp only
                split
                · exact canon_refuseLost hv
                · exact hv
          · split
            · split
              · exact canon_post ha
              · exact ha
            · split
              · exact canon_takeOrdered ha
              · exact canon_deliverFlit ha
  · exact trivial

theorem kept_execNoticeReceive : KeptBy (execNoticeReceive s) := by
  unfold execNoticeReceive
  split
  · refine kept_next ?_
    split
    · exact canon_noticeInto hs
    · exact canon_takeNotice hs
  · exact trivial

theorem kept_execLinkEvent : KeptBy (execLinkEvent s) := by
  unfold execLinkEvent
  split
  · next port e _ =>
    refine kept_next ?_
    cases e with
    | down => exact canon_loseRequests (canon_ownNotice (canon_modPort hs))
    | shed => exact canon_post (canon_drawIn (lo := 1) (hi := (s.modPort port (fun q => { q with train := true })).nsTicks 1500) (canon_modPort hs))
    | back => exact canon_ownNotice (canon_modPort hs)
  · exact trivial

theorem kept_execRetrainComplete : KeptBy (execRetrainComplete s) := by
  unfold execRetrainComplete
  split
  · exact canon_ownNotice (canon_releasePort (canon_modPort hs))
  · exact trivial

theorem kept_execFlowControlSignal : KeptBy (execFlowControlSignal s) := by
  unfold execFlowControlSignal
  split
  · exact canon_releasePort (canon_modPort hs)
  · exact trivial

theorem kept_execPortTrainingComplete : KeptBy (execPortTrainingComplete s) := by
  unfold execPortTrainingComplete
  split
  · exact canon_releasePort (canon_modPort hs)
  · exact trivial

end

end Sys2Proof.Proofs
end

section
/-! PROOFS. Resets, partitions, power-on, soft errors and the management window keep the canonical form (O59). -/

namespace Sys2Proof.Proofs

open Sys2Proof.Machine Sys2Proof.Safety Sys2Proof.Laws

/-! ### Scrubs and epochs -/

section
variable {s t u : State} {part : Nat}

theorem canon_dropSteps (h : Canon s) : Canon (s.dropSteps part) := { h with }

theorem canon_nextEpoch (h : Canon s) : Canon (s.nextEpoch part) := by
  unfold State.nextEpoch
  refine canon_modPart (canon_dropSteps ?_)
  exact canon_modFabric h

/-- A scrub leaves an instruction store as it is, and everything else of a core at its reset value. -/
theorem canon_scrub (h : Canon s) : Canon (s.scrub part) := by
  have hfold (u : State) (hu : Canon u) : Canon (u.cores.foldl (fun s e =>
      if s.hasCore part e.1 then
        s.setCore e.1 { Core.reset with store := e.2.store, ctl := { Ctl.reset with issueAt := s.now } }
      else s) u) := by
    refine List.foldlRecOn (motive := Canon) _ _ hu (fun v hv e he => ?_)
    split
    · exact canon_setCore hv { coreCanon_reset with store := (hu.each e he).store }
    · exact hv
  unfold State.scrub
  extract_lets a fresh ctl b
  have hb : Canon b := hfold a (h.of_parts rfl rfl)
  exact hb.of_parts rfl rfl

theorem canon_resetTranslation (h : Canon s) : Canon (s.resetTranslation part) := canon_foldl (canon_modPart h) _ (fun _ _ hs => canon_modCol hs)

theorem canon_stopInstalls (h : Canon s) : Canon (s.stopInstalls part) := by
  unfold State.stopInstalls
  extract_lets mine
  refine canon_foldl h _ (fun s e hs => ?_)
  extract_lets x headMine written rest a b
  have ha : Canon a := by
    dsimp only [a]
    split
    · split
      · exact canon_setSlot (canon_cancel hs)
      · exact hs
    · exact hs
  split
  · exact canon_startInstall (canon_modExtent ha)
  · exact canon_modExtent ha

theorem canon_stopPartition (h : Canon s) : Canon (s.stopPartition part) := by
  have hcores : Canon (s.cores.foldl (fun s e =>
      if s.hasCore part e.1 then s.modCore e.1 (fun c =>
        let c := [0, 1, 2, 3].foldl (fun c i => c.haltCtx i s.now) c
        { c with ctl := { c.ctl with
          phase := none, handling := none, waiting := [], kept := none, kernel := none, fifo := [], head := none } })
      else s) s) := by
    refine canon_foldl h _ (fun s e hs => ?_)
    split
    · exact canon_modCore hs (fun c hc => coreCanon_ctl (coreCanon_foldl hc _ (fun _ _ hc => coreCanon_haltCtx hc)) rfl)
    · exact hs
  unfold State.stopPartition
  extract_lets a b c
  have hb : Canon b := by
    refine canon_foldl hcores _ (fun s e hs => ?_)
    split
    · split
      · exact canon_setKernel hs
      · exact hs
    · exact hs
  refine canon_stopInstalls (canon_foldl hb _ (fun s e hs => ?_))
  split
  · next t _ =>
    split
    · exact hs
    · extract_lets d
      split
      · cases hr : d.writeRef (.task e.1) part t.stamp (t.seq.toNat + 0x020B * 2 ^ 48) (.taskStampWrite e.1) with
        | mk x v => exact canon_writeRef (canon_setTask hs) hr
      · exact canon_setTask hs
  · exact hs

theorem canon_startReset (h : Canon s) : Canon (s.startReset part) := by
  unfold State.startReset
  extract_lets a
  split
  · exact h
  · exact canon_post (canon_drawIn (lo := 1) (hi := a.nsTicks 1000) (canon_modPart h))

theorem canon_drain (h : Canon s) : Canon (s.drain part) := by
  unfold State.drain
  extract_lets mine perform
  have hperform {s : State} {e : Due} {i : State → Host.Outcome State Fault Refusal} (hs : Canon s) (hi : ∀ s, Canon s → KeptBy (i s)) :
      Canon (perform s e i) := by
    have hk := hi { s with event := some e.ev } (hs.of_parts rfl rfl)
    dsimp only [perform]
    generalize i { s with event := some e.ev } = o at hk
    cases o with
    | next t => exact Canon.of_parts (s := t) hk rfl rfl
    | fault => exact hs
    | refused => exact hs
  refine canon_foldl h _ (fun s e hs => ?_)
  split
  · next k _ _ va data epoch _ =>
    split
    · cases hr : s.farWrite part (columnOf k) va.toNat (lineBytes data) 0 e.ev with
      | mk x v =>
        have hv := canon_farWrite hs hr
        split
        · next heq => cases heq; exact hv
        · exact hs
    · exact hs
  · split
    · exact hperform hs (fun _ hs => kept_execDeviceAtomicReply hs)
    · exact hs
  · split
    · exact hperform hs (fun _ hs => kept_execObjectReply hs)
    · exact hs
  · split
    · exact hperform hs (fun _ hs => kept_execEngineStampWrite hs)
    · exact hs
  · exact hs

theorem canon_writePartcfg {v : DWord} (h : Canon s) : Canon (s.writePartcfg v) := by
  unfold State.writePartcfg
  extract_lets m a busy b c
  have ha : Canon a := canon_modDev h rfl
  split
  · exact ha
  · split
    · exact canon_modDev ha rfl
    · exact canon_post (canon_draw (lo := 1) (canon_modDev (canon_foldl ha _
        (fun _ _ hs => canon_resetTranslation (canon_scrub (canon_nextEpoch hs)))) rfl))

theorem canon_writeVfbind {vf : Nat} {v : DWord} (h : Canon s) : Canon (s.writeVfbind vf v) := by
  unfold State.writeVfbind
  extract_lets f
  split
  · exact h
  · split
    · exact canon_modDev h rfl
    · exact canon_modDev h rfl

end

section
variable {s : State} (hs : Canon s)
include hs

theorem kept_execInitiateFlr : KeptBy (execInitiateFlr s) := by
  unfold execInitiateFlr
  split
  · next vf _ =>
    refine kept_next ?_
    extract_lets setFunc
    have hset (s : State) (v : Nat) (f : Func → Func) (hs : Canon s) : Canon (setFunc s v f) := canon_modDev hs rfl
    clear_value setFunc
    cases vf with
    | some v =>
      dsimp only
      split
      · exact hset _ _ _ hs
      · exact canon_startReset (hset _ _ _ hs)
    | none => exact canon_foldl (canon_foldl hs _ (fun _ _ hs => hset _ _ _ hs)) _ (fun _ _ hs => canon_startReset hs)
  · exact trivial

theorem kept_execFlrDrainDone : KeptBy (execFlrDrainDone s) := by
  unfold execFlrDrainDone
  split
  · next part _ =>
    refine kept_next ?_
    extract_lets a b c d e
    have ha : Canon a := canon_stopPartition (canon_modPart hs)
    have hb : Canon b := canon_modPart hs
    have he : Canon e := by
      refine canon_scrub (canon_foldl (canon_modPart (canon_nextEpoch (canon_drain hs))) _ (fun s e hs => ?_))
      split
      · exact canon_modCol hs
      · exact hs
    clear_value a b e
    split
    · exact canon_post (canon_drawIn (lo := 1) (hi := a.nsTicks 9000) ha)
    · split
      · exact canon_post (canon_drawIn (lo := 1) (hi := b.nsTicks 990000) hb)
      · exact canon_post (canon_drawIn (lo := 1) (hi := e.nsTicks 2000000) he)
  · exact trivial

theorem kept_execFlrComplete : KeptBy (execFlrComplete s) := by
  unfold execFlrComplete
  split
  · next part _ =>
    refine kept_next ?_
    extract_lets a b e report
    have ha : Canon a := canon_resetTranslation (canon_modPart hs)
    clear_value a
    split
    · exact canon_post (canon_drawIn (lo := 1) (hi := a.nsTicks 2000000) ha)
    · exact canon_modDev (canon_modPart hs) rfl
  · exact trivial

theorem kept_execPartcfgWrite : KeptBy (execPartcfgWrite s) := by
  unfold execPartcfgWrite
  split
  · exact canon_hostWrite hs (canon_writePartcfg hs)
  · exact trivial

theorem kept_execPartcfgChangeComplete : KeptBy (execPartcfgChangeComplete s) := by
  unfold execPartcfgChangeComplete
  split
  · exact canon_modDev hs rfl
  · exact trivial

theorem kept_execVfbindWrite : KeptBy (execVfbindWrite s) := by
  unfold execVfbindWrite
  split
  · exact canon_hostWrite hs (canon_writeVfbind hs)
  · exact trivial

/-- Power-on leaves what flash holds; cores start anew. -/
theorem kept_execPowerOn : KeptBy (execPowerOn s) := by
  unfold execPowerOn
  split
  · exact ⟨rfl, fun _ h => absurd h List.not_mem_nil, swf_filter _ hs.far⟩
  · exact trivial

theorem kept_execSoftError : KeptBy (execSoftError s) := by
  unfold execSoftError
  split
  · next target bits _ =>
    refine kept_next ?_
    extract_lets n
    split
    · exact hs
    · cases target with
      | near k a => exact canon_modCore hs (fun c hc => { hc with poison := swf_sset _ _ hc.poison })
      | store k i => exact canon_modCore hs (fun c hc => { hc with store := swf_sset _ _ hc.store })
      | far pa =>
        dsimp only
        split
        · exact hs
        · exact canon_modDev hs rfl
      | buffer k l =>
        dsimp only
        split
        · exact canon_modCol hs
        · exact canon_modSlice hs
      | adder k row col => exact canon_modSlice hs
  · exact trivial

end

/-! ### The management window -/

section
variable {s : State} {part i off : Nat} {v : DWord}

theorem canon_writeQctl (h : Canon s) : Canon (s.writeQctl part i v) := by
  unfold State.writeQctl
  extract_lets q en n a
  split
  · exact h
  · exact canon_post (canon_modPart h)

theorem canon_writeQptr (h : Canon s) : Canon (s.writeQptr part i v) := canon_post (canon_modPart h)

theorem canon_writeFqctl (h : Canon s) : Canon (s.writeFqctl part v) := by
  unfold State.writeFqctl
  extract_lets a
  have ha : Canon a := canon_modPart h
  clear_value a
  split
  · exact ha
  · refine canon_foldl ha _ (fun s b hs => ?_)
    split
    · exact canon_post (canon_draw (lo := 0) hs)
    · exact hs

theorem canon_writeTinv (h : Canon s) : Canon (s.writeTinv part) := by
  unfold State.writeTinv
  split
  · exact h
  · exact canon_post (canon_draw (lo := 1) (canon_modPart h))

theorem canon_writeAttest (h : Canon s) : Canon (s.writeAttest part) := by
  unfold State.writeAttest
  extract_lets a b
  split
  · exact h
  · split
    · exact canon_modPart h
    · exact canon_post (canon_drawIn (lo := 1) (hi := b.nsTicks 99000000) (canon_modPart h))

theorem canon_writeRtctl (h : Canon s) : Canon (s.writeRtctl v) := by
  unfold State.writeRtctl
  extract_lets a b
  have hb : Canon b := by
    refine canon_foldl (canon_modFabric h) _ (fun s p hs => ?_)
    split
    · exact hs
    · exact canon_post (canon_draw (lo := 1) (canon_modPort hs))
  clear_value b
  split
  · exact canon_writeSwap hb
  · exact hb

theorem canon_writeEclass (h : Canon s) : Canon (s.writeEclass i v) := canon_modBudget (canon_modPower h)

theorem canon_writeFlrst (h : Canon s) : Canon (s.writeFlrst i v) := canon_modDev h rfl

/-- A write that an offset selects keeps the form when either side of the choice does. -/
theorem canon_ite {p : Prop} [Decidable p] {a b : State} (ha : Canon a) (hb : Canon b) : Canon (if p then a else b) := by
  split
  · exact ha
  · exact hb

theorem canon_writeRegion (h : Canon s) : Canon (s.writeRegion part off v) :=
  canon_ite (canon_modPart h) <| canon_ite (canon_modPart h) <| canon_ite (canon_ite (canon_writeAttest h) h) <| canon_ite h <|
  canon_ite (canon_ite (canon_writeQctl h) (canon_writeQptr h)) <| canon_ite (canon_modPart h) <| canon_ite (canon_modPart h) <|
  canon_ite (canon_ite (canon_writeTinv h) h) <| canon_ite (canon_writeFqctl h) <| canon_ite (canon_modPart h) <|
  canon_ite (canon_writePfloor h) <| canon_ite (canon_modPart h) <| canon_ite (canon_writeIbudget h) <| canon_ite (canon_modPart h) <|
  canon_ite (canon_modPart h) <| canon_ite (canon_modPart h) <| canon_ite (canon_modPart h) <| canon_ite (canon_ite (canon_modCol h) h) h

theorem canon_writeRoutes {bank : Bool} (h : Canon s) : Canon (s.writeRoutes bank off v) := canon_writeRoute (canon_writeRoute h)

theorem canon_writeWindow (h : Canon s) : Canon (s.writeWindow off v) :=
  canon_ite h <| canon_ite (canon_ite h (canon_writeRegion h)) <| canon_ite h <| canon_ite (canon_writePartcfg h) <|
  canon_ite (canon_writeVfbind h) <| canon_ite (canon_ite (canon_restoreCeil (canon_writeBeatctl h)) (canon_writeBeatctl h)) <|
  canon_ite (canon_writeTctl h) <| canon_ite (canon_writePcap h) <| canon_ite (canon_writeHlim h) <| canon_ite (canon_writeEclass h) <|
  canon_ite (canon_writeFlrst h) <| canon_ite (canon_modPart h) <| canon_ite (canon_writeRoutes h) <| canon_ite (canon_writeRoutes h) <|
  canon_ite (canon_writeRtctl h) <| canon_ite (canon_modFabric h) <| canon_ite (canon_ite (canon_clearPstat h) h) h

theorem canon_writeBar {vf : Option Nat} {size : Nat} (h : Canon s) : Canon (s.writeBar vf off size v) := by
  unfold State.writeBar
  split
  · exact h
  · cases vf with
    | none => exact canon_writeWindow h
    | some f =>
      dsimp only
      cases s.barOffset (f % 16) off with
      | none => exact h
      | some o => exact canon_writeWindow h

end

section
variable {s : State} (hs : Canon s)
include hs

theorem kept_execQctlWrite : KeptBy (execQctlWrite s) := by
  unfold execQctlWrite
  split
  · exact canon_partWrite hs (canon_writeQctl hs)
  · exact trivial

theorem kept_execQptrWrite : KeptBy (execQptrWrite s) := by
  unfold execQptrWrite
  split
  · exact canon_partWrite hs (canon_writeQptr hs)
  · exact trivial

theorem kept_execFqctlWrite : KeptBy (execFqctlWrite s) := by
  unfold execFqctlWrite
  split
  · exact canon_partWrite hs (canon_writeFqctl hs)
  · exact trivial

theorem kept_execTinv : KeptBy (execTinv s) := by
  unfold execTinv
  split
  · exact canon_partWrite hs (canon_writeTinv hs)
  · exact trivial

theorem kept_execTinvComplete : KeptBy (execTinvComplete s) := by
  unfold execTinvComplete
  split
  · exact canon_foldl (canon_modPart hs) _ (fun _ _ hs => canon_modCol hs)
  · exact trivial

theorem kept_execAttestRequest : KeptBy (execAttestRequest s) := by
  unfold execAttestRequest
  split
  · exact canon_ite hs (canon_writeAttest hs)
  · exact trivial

theorem kept_execAttestComplete : KeptBy (execAttestComplete s) := by
  unfold execAttestComplete
  split
  · exact canon_modPart (canon_writePhys (canon_number hs))
  · exact trivial

theorem kept_execMgmtRegisterWrite : KeptBy (execMgmtRegisterWrite s) := by
  unfold execMgmtRegisterWrite
  split
  · exact canon_writeBar hs
  · exact trivial

end
end Sys2Proof.Proofs
end

section
/-! PROOFS. The tag table, system registers, regions, and the saving and loading of contexts keep the canonical form (O59). -/

namespace Sys2Proof.Proofs

open Sys2Proof.Machine Sys2Proof.Safety Sys2Proof.Laws

section
variable {s : State} {h : Hdr} (hs : Canon s)
include hs

/-! ### Loads and stores -/

theorem kept_loadOp {len : Nat} {win : Window} {ty : LoadTy} {d a : Reg} {off : Int} : KeptBy (loadOp len h win ty d a off s) := by
  unfold loadOp
  extract_lets w
  exact kept_issue hs (bodyKept_bind (fun _ _ => bodyKept_bind (fun _ _ => bodyKept_done hs)))

theorem kept_storeOp {len : Nat} {win : Window} {ty : StoreTy} {d a : Reg} {off : Int} : KeptBy (storeOp len h win ty d a off s) := by
  unfold storeOp
  extract_lets w sub
  exact kept_issue hs (bodyKept_bind (fun _ _ => bodyKept_done hs))

theorem kept_vloadOp {len : Nat} {win : Window} {d : VecReg} {a : Reg} {off : Int} : KeptBy (vloadOp len h win d a off s) :=
  kept_issue hs (bodyKept_bind (fun _ _ => bodyKept_bind (fun _ _ => bodyKept_done hs)))

theorem kept_vstoreOp {len : Nat} {win : Window} {d : VecReg} {a : Reg} {off : Int} : KeptBy (vstoreOp len h win d a off s) :=
  kept_issue hs (bodyKept_bind (fun _ _ => bodyKept_done hs))

/-! ### The tag table -/

theorem canon_setTag {slot : Nat} {v : DWord} : Canon (setTag s slot v) := canon_modCore hs (fun _ hc => { hc with })

theorem kept_execBlook (d a : Reg) : KeptBy (execBlook h d a s) := by
  refine kept_issue hs ?_
  extract_lets c la set
  split
  · exact bodyKept_done hs
  · split
    next v moved _ =>
    extract_lets u
    have hu : Canon u := canon_ite (canon_modCore hs (fun _ hc => { hc with })) hs
    exact bodyKept_done hu

theorem kept_execBtag (d a b : Reg) : KeptBy (execBtag h d a b s) := by
  refine kept_issue hs ?_
  extract_lets n slot
  split
  · exact trivial
  · split
    · exact trivial
    · exact bodyKept_done (canon_setTag hs)

theorem kept_execBinv (d a : Reg) : KeptBy (execBinv h d a s) := by
  refine kept_issue hs ?_
  extract_lets slot
  split
  · exact trivial
  · exact bodyKept_done (canon_setTag hs)

/-! ### System registers and regions -/

theorem kept_sysrOp {len sel : Nat} {d : Reg} : KeptBy (sysrOp len h d sel s) := kept_issue hs (bodyKept_done hs)

theorem kept_syswOp {len sel : Nat} {d : Reg} : KeptBy (syswOp len h d sel s) := by
  refine kept_issue hs ?_
  extract_lets v
  split
  · exact bodyKept_done hs
  · exact bodyKept_done hs
  · split
    · exact bodyKept_done hs
    · exact trivial
  · exact bodyKept_done hs
  · exact bodyKept_done hs
  · exact bodyKept_done hs

theorem kept_execIdem : KeptBy (execIdem h s) :=
  kept_issue hs (canon_modCtx (q := s.cur) hs (fun _ hx => { hx with region := (hs.ctx s.cur).g }))

theorem kept_execIdemEnd : KeptBy (execIdemEnd h s) := kept_issue hs (canon_modCtx (q := s.cur) hs (fun _ hx => { hx with region := rfl }))

end

section
variable {s : State} (hs : Canon s)
include hs

/-! ### Translation and staging -/

omit hs in
theorem canon_walked {part col a : Nat} {r : Option Xlat} {w : Except (BitVec 8) Xlat} (h : Canon s) : Canon (walked s part col a r w) := by
  unfold walked
  split
  · exact canon_ite h (canon_modCol h)
  · exact canon_ite h (canon_modCol h)
  · exact h

theorem kept_execTranslationWalk : KeptBy (execTranslationWalk s) := by
  cases he : s.event with
  | none =>
    unfold execTranslationWalk
    rw [he]
    exact trivial
  | some ev =>
    cases ev with
    | translationWalk part col va =>
      have hw := exec_translationWalk he rfl (fun _ => rfl)
      exact (congrArg KeptBy hw).mpr (canon_walked hs)
    | _ =>
      unfold execTranslationWalk
      rw [he]
      exact trivial

theorem kept_execStagingFill : KeptBy (execStagingFill s) := by
  unfold execStagingFill
  split
  · exact canon_ite hs (canon_modDev hs rfl)
  · exact trivial

end

/-! ### Images -/

theorem swf_copyRange {fresh m : Sparse Byte} {src dst n : Nat} (hf : swf 0 fresh = true) : swf 0 (copyRange fresh m src dst n) = true :=
  swf_ssets (fun e : Nat × Byte => dst + (e.1 - src)) (·.2) hf _

theorem swf_moveFar {m : Sparse Byte} {src dst n : Nat} (hm : swf 0 m = true) : swf 0 (moveFar m src dst n) = true :=
  swf_copyRange (swf_filter _ hm)

theorem swf_readMap {w : Nat} {c : Core} {a n count base : Nat} {m : Sparse (BitVec w)} (hm : swf 0 m = true) : swf 0 (c.readMap a n count m base) = true :=
  swf_ssets (fun i => base + i) (fun i => BitVec.ofNat w (c.readNat (a + n * i) n)) hm _

theorem swf_loadMsg {c : Core} {a j : Nat} {m : Sparse Msg} (hm : swf .reset m = true) : swf .reset (c.loadMsg a m j) = true := by
  unfold Core.loadMsg
  extract_lets old st
  split
  · exact hm
  · exact swf_sset _ _ hm

theorem swf_loadMsgs {c : Core} {a : Nat} {m : Sparse Msg} (hm : swf .reset m = true) (l : List Nat) :
    swf .reset (l.foldl (fun m j => c.loadMsg a m j) m) = true :=
  fold_keeps (fun m => swf Msg.reset m = true) _ l m hm (fun _ _ hm => swf_loadMsg hm)

section
variable {s : State} {c : Core} {k i tier t : Nat} {q : Nat × Nat} {d : Reg}

theorem coreCanon_flushCtx (h : CoreCanon c) : CoreCanon (c.flushCtx tier i) :=
  coreCanon_foldl (c := { c with pend := c.pend.filter (fun p => !(p.ctx == i && p.act.ofCtx)) }) { h with } _ (fun _ _ hc => coreCanon_applyAct hc)

theorem canon_dropWaits (h : Canon s) : Canon (s.dropWaits q) := canon_cancel (canon_cancel (canon_abandonExpansion h))

theorem canon_saveCore {bad : Option Nat} (h : Canon s) : Canon (s.saveCore k bad) := by
  unfold State.saveCore
  extract_lets tier a n
  refine canon_modCore h (fun c hc => ?_)
  extract_lets c1 c2 c3
  have h1 : CoreCanon c1 := coreCanon_foldl (c := { c with pend := c.pend.filter (fun p => !p.act.ofCore) }) { hc with } _
    (fun _ _ hc => coreCanon_applyAct hc)
  have h2 : CoreCanon c2 := { h1 with near := swf_moveFar h1.near, poison := swf_filter _ h1.poison }
  have h3 : CoreCanon c3 := by
    dsimp only [c3]
    cases bad with
    | none => exact coreCanon_portWrite h2
    | some w => exact h2
  exact { h3 with }

theorem canon_saveLost {w : Nat} (h : Canon s) : Canon (s.saveLost k i w) := by
  unfold State.saveLost
  extract_lets u
  have hu : Canon u := canon_record h
  clear_value u
  split
  · exact canon_endKernel hu
  · split
    · exact canon_endKernel hu
    · exact hu

theorem bodyKept_moveDone {lines : Nat} {status : DWord} (h : Canon s) : BodyKept (moveDone s d lines status) := h

theorem canon_loadCtx (h : Canon s) : Canon (s.loadCtx k i t) := by
  unfold State.loadCtx
  extract_lets tier a c b pc rep
  clear_value tier a c b pc rep
  refine canon_modCore h (fun e he => coreCanon_modCtx he (fun x hx => ?_))
  extract_lets y region
  have hy : CtxCanon y := by
    constructor
    case g => dsimp only [y]; exact swf_readMap (swf_nil 0)
    case stack => dsimp only [y]; exact swf_readMap (swf_nil 0)
    case v => dsimp only [y]; exact swf_readMap (swf_nil 0)
    case m => dsimp only [y]; exact swf_loadMsgs hx.m _
    case region => exact hx.region
  clear_value y
  refine { hy with region := ?_ }
  dsimp only
  split
  · exact hy.g
  · rfl

theorem canon_reissueLoads (h : Canon s) : Canon (s.reissueLoads q) := by
  refine canon_foldl h _ (fun s j hs => ?_)
  extract_lets r u
  split
  · exact canon_sendLdx (canon_modCtx hs (fun _ hx => ctxCanon_modMsg hx))
  · exact hs

theorem coreCanon_loadCore (h : CoreCanon c) : CoreCanon (c.loadCore tier) :=
  { h with near := swf_moveFar h.near, poison := swf_filter _ h.poison }

end

section
variable {s : State} {h : Hdr} (hs : Canon s)
include hs

theorem kept_execCtxsv (d a : Reg) (all : Bool) : KeptBy (execCtxsv h d a all s) := by
  refine kept_issue hs ?_
  extract_lets k i tier s1 s2 bad s3 x s4 s5
  split
  · exact trivial
  · have h2 : Canon s2 := canon_modCore (canon_dropWaits (canon_settle hs)) (fun _ hc => coreCanon_flushCtx hc)
    clear_value s2
    have h3 : Canon s3 := canon_ite (canon_correct h2) h2
    clear_value s3
    have h4 : Canon s4 := canon_modCore h3 (fun c hc => coreCanon_foldl (coreCanon_haltCtx (coreCanon_portWrite hc)) _ (fun _ _ hc => coreCanon_pendAt hc))
    clear_value s4
    have h5 : Canon s5 := canon_ite (canon_saveCore h4) h4
    clear_value s5 bad
    cases bad with
    | none => exact bodyKept_moveDone h5
    | some w =>
      have ht : Canon (s5.saveLost k i w) := canon_saveLost h5
      dsimp only [moveDone]
      generalize s5.saveLost k i w = t at ht
      split
      · refine bodyKept_ok (canon_modCore ht (fun c hc => ?_))
        exact coreCanon_foldl hc _ (fun _ _ hc => coreCanon_applyAct hc)
      · exact ht

theorem kept_execCtxld (d a : Reg) (all : Bool) : KeptBy (execCtxld h d a all s) := by
  refine kept_issue hs ?_
  extract_lets k i tier s1 c head halt bad n s2 s3 s4 s5 s6
  have h1 : Canon s1 := canon_settle hs
  clear_value s1
  have hhalt {u : State} (hu : Canon u) : Canon (halt u) := canon_modCore hu (fun _ hc => coreCanon_haltCtx hc)
  clear_value halt
  split
  · exact trivial
  · split
    · exact bodyKept_moveDone (hhalt h1)
    · split
      · exact bodyKept_moveDone h1
      · split
        · exact bodyKept_moveDone (hhalt h1)
        · clear_value bad
          cases bad with
          | some w => exact bodyKept_moveDone (hhalt h1)
          | none =>
            have h3 : Canon s3 := canon_ite (canon_correct (canon_correct h1)) (canon_correct h1)
            clear_value s3
            have h4 : Canon s4 := canon_ite (canon_modCore h3 (fun _ hc => coreCanon_loadCore hc)) h3
            clear_value s4
            have h5 : Canon s5 := canon_dropWaits (canon_modCore h4 (fun _ hc => { coreCanon_haltCtx hc with }))
            exact bodyKept_moveDone (canon_reissueLoads (canon_loadCtx h5))

end
end Sys2Proof.Proofs
end

section
/-! PROOFS. Every instruction and every step of another agent keeps the canonical form (O59). -/

namespace Sys2Proof.Proofs

open Sys2Proof.Machine Sys2Proof.Safety Sys2Proof.Laws

section
variable {s : State} {h : Hdr} (hs : Canon s)
include hs

theorem kept_scalarOp {len : Nat} {tier : Option (BitVec 2)} {rs : List Reg} {d : Reg} {lat : Nat} {f : State → DWord} :
    KeptBy (scalarOp len h tier rs d lat f s) := kept_issue hs (bodyKept_done hs)

theorem kept_binary {d a b : Reg} {lat : Nat} {f : DWord → DWord → DWord} : KeptBy (binary h d a b lat f s) := by
  unfold binary
  exact kept_scalarOp hs

theorem kept_unary {d a : Reg} {f : DWord → DWord} : KeptBy (unary h d a f s) := by
  unfold unary
  exact kept_scalarOp hs

theorem kept_predOp {len : Nat} {rs : List Reg} {ps : List PredReg} {d : PredReg} {f : State → Bool} :
    KeptBy (predOp len h rs ps d f s) := kept_issue hs (bodyKept_done hs)

omit hs in
theorem kept_cmpImm {c : CmpiCond} {gap : BitVec 2} {d : PredReg} {a : Reg} {imm : BitVec 11} (hs : Canon s) :
    KeptBy (cmpImm c gap d a imm s) := by
  unfold cmpImm
  exact kept_predOp hs

theorem kept_lanes1 {tier : Option (BitVec 2)} {d a : VecReg} {w lat occ : Nat} {f : Bool → Nat → Res Nat} :
    KeptBy (lanes1 h tier d a w lat occ f s) := by
  unfold lanes1
  exact kept_vectorOp hs

theorem kept_lanes2 {tier : Option (BitVec 2)} {d a b : VecReg} {w lat occ : Nat} {f : Bool → Nat → Nat → Res Nat} :
    KeptBy (lanes2 h tier d a b w lat occ f s) := by
  unfold lanes2
  exact kept_vectorOp hs

theorem kept_execVshl {d a b : VecReg} {ty : Ty} {sat : Bool} {tier : Option (BitVec 2)} : KeptBy (execVshl h d a b ty sat tier s) := by
  unfold execVshl
  extract_lets w
  exact kept_lanes2 hs

theorem kept_execVsra {d a b : VecReg} {ty : Ty} {tier : Option (BitVec 2)} : KeptBy (execVsra h d a b ty tier s) := by
  unfold execVsra
  extract_lets w
  exact kept_lanes2 hs

theorem kept_lanes3 {tier : Option (BitVec 2)} {d a b c : VecReg} {w lat occ : Nat} {f : Bool → Nat → Nat → Nat → Res Nat} :
    KeptBy (lanes3 h tier d a b c w lat occ f s) := by
  unfold lanes3
  exact kept_vectorOp hs

theorem kept_bitwise {tier : Option (BitVec 2)} {d a b : VecReg} {f : Line → Line → Line} : KeptBy (bitwise h d a b tier f s) := by
  unfold bitwise
  exact kept_vectorOp hs

theorem kept_reduceOp {tier : Option (BitVec 2)} {d : Reg} {a : VecReg} {ty : Ty} {lat : Nat} {node : Bool → Nat → Nat → Res Nat} :
    KeptBy (reduceOp h d a ty tier lat node s) := by
  unfold reduceOp
  exact kept_vectorOp hs

end

/-- What every row of the instruction set, and of the other agents, leaves is in canonical form. -/
theorem kept_exec {s : State} (i : Instr) (hs : Canon s) : KeptBy (exec i s) := by
  cases i with dsimp only [exec]
  | add | sub | mul | mulh | div | rem | and | andn | or | xor | shl | shr | sra | rot | min | max => exact kept_binary hs
  | clz | ctz | popc | mov | sxt | zxt => exact kept_unary hs
  | sel | vsplatXl => exact kept_issue hs (bodyKept_done hs)
  | cmpEq | cmpNe | cmpLt | cmpLe | cmpiLong | pand | por | pxor | pnot | pmov => exact kept_predOp hs
  | addi | addiLong | li | liLong | ext | ins | lea | leaXl => exact kept_scalarOp hs
  | cmpiEq | cmpiNe | cmpiLt | cmpiLe | cmpiGt | cmpiGe | cmpiLtN64 | cmpiLeN64 | cmpiGtN64 | cmpiGeN64 => exact kept_cmpImm hs
  | br | brLong | jmp | jmpLong | jmpi => exact kept_transfer hs _ _ _ _ _
  | call | callLong | calli => exact kept_issue hs (bodyKept_callTo hs)
  | ret => exact kept_issue hs (bodyKept_returnFrom hs)
  | enter | enterLong | leave => exact kept_issue hs (bodyKept_setFrame hs)
  | nop | yield => exact kept_issue hs hs
  | halt => exact kept_execHalt hs
  | ldI8 | ldI16 | ldI32 | ldI64 | ldN8 | ldN16 | ldN32 | ldLong | bldI8 | bldI16 | bldI32 | bldI64 | bldN8 | bldN16
  | bldN32 | bldLong => exact kept_loadOp hs
  | stI8 | stI16 | stI32 | stI64 | stLong | bstI8 | bstI16 | bstI32 | bstI64 | bstLong => exact kept_storeOp hs
  | vld | vldLong | vbld | vbldLong => exact kept_vloadOp hs
  | vst | vstLong | vbst | vbstLong => exact kept_vstoreOp hs
  | blook => exact kept_execBlook hs _ _
  | btag => exact kept_execBtag hs _ _ _
  | binv => exact kept_execBinv hs _ _
  | send => exact kept_execSend hs _ _ _
  | mget => exact kept_execMget hs _ _ _
  | msgb => exact kept_execMsgb hs _ _ _ _
  | mclr => exact kept_execMclr hs _
  | ldx => exact kept_execLdx hs _ _
  | stx => exact kept_execStx hs _ _
  | trap | trapLong => exact kept_issue hs (bodyKept_trapBody hs)
  | eret => exact kept_execEret hs _ _
  | sysr | sysrLong => exact kept_sysrOp hs
  | sysw | syswLong => exact kept_syswOp hs
  | rep => exact kept_execRep hs _ _ _ _ _ _ _
  | vlds | vgath => exact kept_laneLoad hs
  | vsts | vscat => exact kept_laneStore hs
  | vadd | vsub | vmul | vmin | vmax | vdiv | vinsx | vshr => exact kept_lanes2 hs
  | vfma | vfms | vsel => exact kept_lanes3 hs
  | vneg | vabs | vsqrt | vrcp | vrsq | vexp2f | vrndi | vextx | vclass => exact kept_lanes1 hs
  | vcvt | vcmp | vperm | vsplat | vmov | vcode | vql4 | vscac | vker => exact kept_vectorOp hs
  | vand | vor | vxor => exact kept_bitwise hs
  | vshl => exact kept_execVshl hs
  | vsra => exact kept_execVsra hs
  | vreds | vredx => exact kept_reduceOp hs
  | gang => exact kept_execGang hs
  | mma => exact kept_execMma hs _ _ _ _ _ _ _ _
  | mmas | mzero | mrd | mscac => exact kept_sliceIssue hs
  | mwld => exact kept_execMwld hs _ _ _ _ _
  | mstat => exact kept_execMstat hs _
  | rstr => exact kept_execRstr hs _ _ _ _ _ _
  | prlg => exact kept_issue hs (bodyKept_prlgBody hs)
  | wsld => exact kept_execWsld hs _ _
  | xclr | xld | xst | xsetKern | xsetGamma | xsetEta | xform | xm2m | xm2l | xl2l | xeval | xm2p | xadm => exact kept_expandIssue hs
  | cpy | cpys | cpyg | coll | finst => exact kept_engineIssue hs
  | stage => exact kept_execStage hs _
  | fstat => exact kept_execFstat hs _ _
  | marm => exact kept_execMarm hs _
  | mwait => exact kept_execMwait hs _ _ _
  | aadd | amin | amax | axchg | acas | aand | aor => exact kept_atomic hs _ _ _ _ _ _ _ _
  | slota | slotf | rvinit | rvarr | rvarrEng | rvwait | evwait | mlock | munlk => exact kept_unitIssue hs
  | evsig => exact kept_execEvsig hs _ _ _
  | acq | rel => exact kept_objectIssue hs
  | bind => exact kept_execBind hs _ _ _ _
  | fence | fencex => exact kept_fence hs
  | sleep => exact kept_execSleep hs _
  | twait => exact kept_execTwait hs _ _ _
  | idem => exact kept_execIdem hs
  | idemEnd => exact kept_execIdemEnd hs
  | ctxsv => exact kept_execCtxsv hs _ _ _
  | ctxld => exact kept_execCtxld hs _ _ _
  | phaseRelease => exact kept_execPhaseRelease hs
  | releaseNotice => exact kept_execReleaseNotice hs
  | phaseEnd => exact kept_execPhaseEnd hs
  | gangBarrierTimeout => exact kept_execGangBarrierTimeout hs
  | stop => exact kept_execStop hs
  | groupHalt => exact kept_execGroupHalt hs
  | preempt => exact kept_execPreempt hs
  | resumeRequest => exact kept_execResumeRequest hs
  | thermDelivery => exact kept_execThermDelivery hs
  | messageArrival => exact kept_execMessageArrival hs
  | mgetPortRead => exact kept_execMgetPortRead hs
  | mgetReply => exact kept_execMgetReply hs
  | msgbPortWrite => exact kept_execMsgbPortWrite hs
  | ldxReply => exact kept_execLdxReply hs
  | stxComplete => exact kept_execStxComplete hs
  | engineMessageArrival => exact kept_execEngineMessageArrival hs
  | sliceOpStart => exact kept_execSliceOpStart hs
  | sliceOpComplete => exact kept_execSliceOpComplete hs
  | mwldComplete => exact kept_execMwldComplete hs
  | mmasComplete => exact kept_execMmasComplete hs
  | verticalOpStart => exact kept_execVerticalOpStart hs
  | verticalOpEnd => exact kept_execVerticalOpEnd hs
  | rstrMerge => exact kept_execRstrMerge hs
  | laneStateChange => exact kept_execLaneStateChange hs
  | expansionOpStart => exact kept_execExpansionOpStart hs
  | expansionOpEnd => exact kept_execExpansionOpEnd hs
  | engineCommandStart => exact kept_execEngineCommandStart hs
  | engineUnit => exact kept_execEngineUnit hs
  | engineStampWrite => exact kept_execEngineStampWrite hs
  | staticEntryStart => exact kept_execStaticEntryStart hs
  | installComplete => exact kept_execInstallComplete hs rfl
  | collComplete => exact kept_execCollComplete hs
  | translationWalk => exact kept_execTranslationWalk hs
  | stagingFill => exact kept_execStagingFill hs
  | atomicSlot => exact kept_execAtomicSlot hs
  | clusterAtomicReply => exact kept_execClusterAtomicReply hs
  | deviceAtomicReply => exact kept_execDeviceAtomicReply hs
  | objectReply => exact kept_execObjectReply hs
  | scAnnounce => exact kept_execScAnnounce hs
  | scDelivery => exact kept_execScDelivery hs
  | rvRootForward => exact kept_execRvRootForward hs
  | fireArrival => exact kept_execFireArrival hs
  | eventChainForward => exact kept_execEventChainForward hs
  | sleepExpiry => exact kept_execSleepExpiry hs
  | twaitExpiry => exact kept_execTwaitExpiry hs
  | faultRecordDrain => exact kept_execFaultRecordDrain hs
  | taskStart => exact kept_execTaskStart hs
  | nodeKernel => exact kept_execNodeKernel hs
  | kernelComplete => exact kept_execKernelComplete hs
  | nodeCopy => exact kept_execNodeCopy hs
  | nodeInstall => exact kept_execNodeInstall hs
  | nodeCond => exact kept_execNodeCond hs
  | nodeLoop => exact kept_execNodeLoop hs
  | nodeSwitch => exact kept_execNodeSwitch hs
  | nodeSignal => exact kept_execNodeSignal hs
  | signalComplete => exact kept_execSignalComplete hs
  | nodeWait => exact kept_execNodeWait hs
  | waitTimeout => exact kept_execWaitTimeout hs
  | nodeSuccessor => exact kept_execNodeSuccessor hs
  | taskStampWrite => exact kept_execTaskStampWrite hs
  | qctlWrite => exact kept_execQctlWrite hs
  | qptrWrite => exact kept_execQptrWrite hs
  | partcfgWrite => exact kept_execPartcfgWrite hs
  | vfbindWrite => exact kept_execVfbindWrite hs
  | beatctlReqWrite => exact kept_execBeatctlReqWrite hs
  | beatctlRestore => exact kept_execBeatctlRestore hs
  | beatChange => exact kept_execBeatChange hs
  | tctlWrite => exact kept_execTctlWrite hs
  | pcapWrite => exact kept_execPcapWrite hs
  | pfloorWrite => exact kept_execPfloorWrite hs
  | hlimWrite => exact kept_execHlimWrite hs
  | ibudgetWrite => exact kept_execIbudgetWrite hs
  | fqctlWrite => exact kept_execFqctlWrite hs
  | tinv => exact kept_execTinv hs
  | tinvComplete => exact kept_execTinvComplete hs
  | routingEntryWrite => exact kept_execRoutingEntryWrite hs
  | swap => exact kept_execSwap hs
  | routeBankSwap => exact kept_execRouteBankSwap hs
  | pstatClr => exact kept_execPstatClr hs
  | attestRequest => exact kept_execAttestRequest hs
  | attestComplete => exact kept_execAttestComplete hs
  | mgmtRegisterWrite => exact kept_execMgmtRegisterWrite hs
  | initiateFlr => exact kept_execInitiateFlr hs
  | flrDrainDone => exact kept_execFlrDrainDone hs
  | flrComplete => exact kept_execFlrComplete hs
  | sensorSample => exact kept_execSensorSample hs
  | selfThrottleStep => exact kept_execSelfThrottleStep hs
  | hardLimitStep => exact kept_execHardLimitStep hs
  | budgetRefill => exact kept_execBudgetRefill hs
  | flitReceive => exact kept_execFlitReceive hs
  | drainMarker => exact kept_execDrainMarker hs
  | flowLossTimeout => exact kept_execFlowLossTimeout hs
  | linkEvent => exact kept_execLinkEvent hs
  | noticeReceive => exact kept_execNoticeReceive hs
  | retrainComplete => exact kept_execRetrainComplete hs
  | flowControlSignal => exact kept_execFlowControlSignal hs
  | powerOn => exact kept_execPowerOn hs
  | fstatResult => exact kept_execFstatResult hs
  | partcfgChangeComplete => exact kept_execPartcfgChangeComplete hs
  | portTrainingComplete => exact kept_execPortTrainingComplete hs
  | softError => exact kept_execSoftError hs

end Sys2Proof.Proofs
end

section
/-! PROOFS. What acts next keeps the canonical form, and so does every step of the machine (O59). -/

namespace Sys2Proof.Proofs

open Sys2Proof.Machine Sys2Proof.Safety Sys2Proof.Laws

section
variable {s : State} {k i t : Nat} {q : Nat × Nat}

/-! ### Issues and looks -/

theorem canon_take (h : Canon s) : Canon (s.take k i) := by
  refine canon_ite h (canon_modCore h (fun c hc => coreCanon_ctl ?_ rfl))
  split
  · exact coreCanon_modCtx hc (fun _ hx => { hx with })
  · exact hc

theorem canon_lookAgain (h : Canon s) : Canon (s.lookAgain q t) := by
  unfold State.lookAgain
  split
  · exact canon_modCtl h (fun _ => rfl)
  · exact canon_modCtx h (fun _ hx => { hx with })

theorem canon_look {w : Wait} (h : Canon s) : Canon (s.look q w) := by
  unfold State.look
  extract_lets result
  have hresult {due : Nat} {d : Reg} {v : DWord} : Canon (result due d v) := canon_ite (canon_finish h) (canon_lookAgain h)
  clear_value result
  split
  · exact hresult
  · exact hresult
  · exact canon_ite (canon_finish h) (canon_lookAgain h)
  · exact canon_lookAgain h

theorem canon_looks (h : Canon s) : Canon (s.looks k t) := by
  refine canon_foldl h _ (fun s i hs => ?_)
  split
  · exact canon_ite (canon_look hs) hs
  · exact hs

/-! ### What a step looks ahead for -/

theorem canon_seeRelease {home : Nat} (h : Canon s) : Canon (s.seeRelease home) := by
  unfold State.seeRelease
  split
  · exact h
  · exact canon_ite (canon_modCtl h (fun _ => rfl)) h

theorem canon_seeGang (h : Canon s) : Canon (s.seeGang k) := by
  unfold State.seeGang
  extract_lets lead bare short
  exact canon_modSlice h

theorem canon_foresee {ev : Event} (h : Canon s) : Canon (s.foresee ev) := by
  unfold State.foresee
  split
  · exact canon_seeGang h
  · split
    · exact canon_seeRelease h
    · exact h
  · exact h

end

/-! ### The acts of a step -/

theorem kept_ite {p : Prop} [Decidable p] {a b : Host.Outcome State Fault Refusal} (ha : KeptBy a) (hb : KeptBy b) :
    KeptBy (if p then a else b) := by
  split
  · exact ha
  · exact hb

section
variable {s : State} (hs : Canon s)
include hs

theorem kept_issueAt {k i : Nat} : KeptBy (issueAt s k i) := by
  unfold issueAt
  extract_lets a u
  have ha : Canon a := canon_take hs
  have hu : Canon u := ha.of_parts rfl rfl
  clear_value u
  split
  · exact canon_look hu
  · split
    · exact canon_takeTrap hu
    · split
      · exact canon_trapAtFetch hu
      · exact kept_exec _ hu

theorem kept_coreStep {t k : Nat} : KeptBy (coreStep s t k) := by
  unfold coreStep
  extract_lets u v
  have hv : Canon v := canon_looks (canon_settle (hs.of_parts rfl rfl))
  clear_value v
  split
  · split
    · exact kept_issueAt hv
    · exact hv
  · exact hv

theorem kept_foreseenStep {e : Due} {r : List Due} : KeptBy (foreseenStep s e r) := by
  have hf : Canon (({ s with now := max s.now e.at_, agenda := r } : State).foresee e.ev) := canon_foresee (hs.of_parts rfl rfl)
  exact kept_exec _ (hf.of_parts rfl rfl)

theorem kept_stepAgents : KeptBy (stepAgents s) := by
  unfold stepAgents stepAgentsBy
  split
  · exact hs.of_parts rfl rfl
  · exact kept_foreseenStep hs
  · exact kept_coreStep hs
  · split
    · exact kept_foreseenStep hs
    · exact kept_coreStep hs

theorem kept_step : KeptBy (step s) := by
  unfold step act actBy
  cases s.unitsOver with
  | none => exact kept_stepAgents hs
  | some e => exact kept_ite (canon_flushUnits (s := { s with now := max s.now (e - 1) }) (hs.of_parts rfl rfl)) (kept_stepAgents hs)

end

/-- Settles O59: what acts next, an issue, an act of a core, a step of another agent or the flush of the event units, keeps the form. -/
theorem stepKeepsMemoryCanonical : Obligations.StepKeepsMemoryCanonical := by
  unfold Obligations.StepKeepsMemoryCanonical
  intro s t hs hst
  have hk : KeptBy (step s) := kept_step (memoryCanonical_iff.mp hs)
  rw [hst] at hk
  exact memoryCanonical_iff.mpr hk

end Sys2Proof.Proofs
end
